-- ==== Sys2Proof/Word.lean ====
section
/-! DEFINITION. The word types of the block and the sparse table that holds every large array of the spec. -/
namespace Sys2Proof

/-- A byte of a mailbox payload, of host memory, of the SPI flash or of the OTP array. -/
abbrev Byte := BitVec 8

/-- One 32-bit word of the vendor space (R6). -/
abbrev Word := BitVec 32

/-- A sparse table from a key to a value: pairs with strictly rising keys. A key that is not listed has the
table's default value, which each reader names (Machine/Tbl.lean gives the operations and the canonical form). -/
abbrev Tbl (α : Type) := List (Nat × α)

end Sys2Proof
end

