-- ==== Sys2Proof/Syntax.lean ====
section
/-! DEFINITION. The commands of the block: one constructor of Instr per row of spec/opcode_table.json, and the operand types. -/
namespace Sys2Proof

/-! ### Names of the parts a command addresses -/

/-- Head number h = 4p + k for head Hp.k (R38, R96). -/
abbrev Head := Fin 16
/-- Device LD index (R42). -/
abbrev LdIx := Fin 64
/-- Trellis slice number (R19). -/
abbrev SliceIx := Fin 32
/-- DRAM channel C0 to C15 (R14). -/
abbrev Chan := Fin 16
/-- Graft port G0 or G1 (R319). -/
abbrev GPort := Fin 2
/-- Docent pair DP0 to DP7 (R34). -/
abbrev Pair := Fin 8
/-- A move slot of a slice (R144). -/
abbrev SlotIx := Fin 16
/-- A Press engine (R155). -/
abbrev Engine := Fin 64

/-- A feed of the Gatehouse (R300). -/
inductive Feed | a | b
deriving DecidableEq, Repr

/-- Who makes a register access or issues a command packet (R44, R342): an LD through its BARs and mailbox, an
MCTP endpoint of the Fabric Manager, or a Docent pair. -/
inductive Agent
  | ld (i : LdIx)
  | fm (endpoint : Nat)
  | pair (p : Pair)
deriving DecidableEq, Repr

/-- The address space of a register access (Registers; R43, R46, R59). -/
inductive Space | bar0 | bar2 | bar4 | config
deriving DecidableEq, Repr

/-- Whose configuration space a request names: an LD's, or that of the FM-owned LD of an MLD head (R41, R46). -/
inductive CfgDev
  | ld (i : LdIx)
  | fmOwned (h : Head)
deriving DecidableEq, Repr

/-- SnpType of an M2S Req (Table 4.3). -/
inductive Snp | noOp | data | inv | cur
deriving DecidableEq, Repr

/-- MetaValue of a message; noOp is MetaField No-Op (Table 4.3). -/
inductive MetaV | noOp | i | s | a | other
deriving DecidableEq, Repr

/-- BIRsp opcodes (Table 4.4). -/
inductive BiRsp | i | s | e
deriving DecidableEq, Repr

/-- The address part of a CXL.mem message of a head (R51, R53): the LD-ID counts on an MLD head only. -/
structure MemReq where
  head : Head
  ldId : Fin 16
  hpa  : Nat
  tag  : BitVec 14
  snp  : Snp := .noOp
  mv   : MetaV := .i
deriving DecidableEq, Repr

/-- Security class of a region and a page (Table 5.1). -/
inductive SecClass | plain | sealed | vitrine
deriving DecidableEq, Repr

/-- The array of Table 10.2 in which an uncorrectable byte is found, with where it lies. -/
inductive SramArray
  | corrected (s : Option SliceIx)
  | sliceState (s : SliceIx)
  | wcbData (s : SliceIx) (line : Nat)
  | accession (page : Nat)
  | footfall (page : Nat)
  | counterCache (space : Bool) (level : Nat) (node : Nat)
  | directory (s : SliceIx) (set : Fin 16384) (way : Fin 16) (tagBytesGood : Bool)
  | keyStore (slot : Fin 4096)
  | rootBlock (r : Fin 32)
  | remapTable (ch : Chan) (entry : Fin 64) (copyB : Bool)
  | docent (p : Pair)
deriving DecidableEq, Repr

/-- One nibble's pass map of a sweep (Table 9.2): for each VREF code tried, the code and the delays that pass; and the write delays at which DQS samples CK high (step 4). -/
structure NibbleEye where
  rd : List (Nat × List Nat)
  wr : List (Nat × List Nat)
  lvl : List Nat
deriving DecidableEq, Repr

/-- The eyes of one byte lane: its two nibbles (R228). -/
structure LaneEye where
  n0 : NibbleEye
  n1 : NibbleEye
deriving DecidableEq, Repr

/-- One sweep of a rank (R229, R230): whether the training that runs before Table 9.2 failed, and the eyes of the rank's ten byte lanes. -/
structure SweepTry where
  hostFail : Bool
  eyes : List LaneEye
deriving DecidableEq, Repr

/-- The edges a recalibration pass or a fast check finds for one lane (R237): read and write edges [a, b] of both nibbles, and
on a 16th pass the VREF edges at the centre delay. -/
structure LaneEdges where
  rd0 : Nat × Nat
  rd1 : Nat × Nat
  wr0 : Nat × Nat
  wr1 : Nat × Nat
  rdVref : Option (Nat × Nat) := none
  wrVref : Option (Nat × Nat) := none
deriving DecidableEq, Repr

/-- A training-row read of a recalibration pass that needed correction (R251): its bank, column, device and corrected bits. -/
structure RecalCe where
  bank   : Fin 32
  col    : Fin 128
  device : Nat
  bits   : Nat
deriving DecidableEq, Repr

/-- What the SPD of a channel's DIMMs says at boot (R204, R205, R282): density in Gb, package ranks, stack height, the highest
rate in MT/s, and the timing fields of the DMC registers in clocks. `bad` is the position of the first DIMM outside Table 8.1. -/
structure ChanSpd where
  mrdimm  : Bool := false
  dimms   : Nat := 0
  density : Nat := 16
  pranks  : Nat := 1
  height  : Nat := 1
  rate    : Nat := 4800
  bad     : Option Nat := none
  timCas  : Word := 0
  timRow  : Word := 0
  timBank : Word := 0
  timTurn : Word := 0
  timRef  : Word := 0
  timRef2 : Word := 0
  /-- RESULT of each pending post-package repair, by entry (R255) -/
  ppr     : List (Fin 4) := []
deriving DecidableEq, Repr

/-- Which reset the release follows (Table 18.1). -/
inductive ResetKind | standby | cold | warm
deriving DecidableEq, Repr

/-- What boot meets in its surroundings: the SPD of the sixteen channels, the pages whose accession entry reads uncorrectable or
reserved (Table 18.3), and the PERSTp_N pins still asserted (R410). -/
structure BootEnv where
  spd     : List ChanSpd
  badAcc  : List Nat := []
deriving DecidableEq, Repr

/-- The sample of one feed (R302, R308): feed voltage and output voltage in mV, shunt voltage in µV. -/
structure FeedReading where
  vx   : Nat
  vsh  : Nat
  vout : Nat
deriving DecidableEq, Repr

/-- A compressor's output for one page (R163, R164): the stream bytes and MARK1 to MARK7. -/
structure Image where
  stream : List Byte
  marks  : List Nat
deriving DecidableEq, Repr

/-- Type of a flow unit (Table 14.2). -/
inductive FuType | req | rsp
deriving DecidableEq, Repr

/-- An Oxentelo message body (Table 14.6). -/
inductive Oxn
  | hello (domain : BitVec 32) (dev : BitVec 14) (port : Nat) (session : BitVec 16) (version : BitVec 8)
  | identity (part : BitVec 16) (serial : BitVec 64) (fw : BitVec 32)
  | capability (lendGib : Nat) (bw : Nat) (limit : Nat)
  | leaseRequest (lease : Fin 64) (gib : Nat) (bw : Nat)
  | leaseGrant (lease : Fin 64) (gib : Nat) (bw : Nat) (term : Nat)
  | leaseDeny (lease : Fin 64) (reason : Nat)
  | leaseRenew (lease : Fin 64)
  | leaseRenewed (lease : Fin 64) (term : Nat)
  | leaseRecall (lease : Fin 64) (period : Nat)
  | recallAck (lease : Fin 64)
  | leaseRelease (lease : Fin 64)
  | leaseReleased (lease : Fin 64)
  | reserved (kind : Nat)
deriving DecidableEq, Repr

/-- A Graft message (Tables 14.4 and 14.5). `bad` stands for a reserved OP. Data lines travel as stored. -/
inductive GMsg
  | rdl (tag : BitVec 10) (lease : Fin 64) (line : BitVec 32)
  | rdu (tag : BitVec 10) (lease : Fin 64) (line : BitVec 32)
  | wrl (tag : BitVec 10) (lease : Fin 64) (line : BitVec 32) (data : BitVec 512) (poison : Bool)
  | wrp (tag : BitVec 10) (lease : Fin 64) (line : BitVec 32) (mask : BitVec 64) (data : BitVec 512) (poison : Bool)
  | wru (tag : BitVec 10) (lease : Fin 64) (line : BitVec 32) (data : List (BitVec 512)) (poison : BitVec 8)
  | datal (tag : BitVec 10) (status : BitVec 4) (data : BitVec 512) (poison : Bool)
  | datau (tag : BitVec 10) (status : BitVec 4) (data : List (BitVec 512)) (poison : BitVec 8)
  | cmp (tag : BitVec 10) (status : BitVec 4)
  | oxn (tag : BitVec 10) (answer : Bool) (body : Oxn)
  | bad (op : BitVec 4)
deriving DecidableEq, Repr

/-- A command packet's envelope (Tables 15.2 and 15.3): who sends it, its REQ_ID, the reserved bits of its header, whether the
payload has the length its parameters give (none, or the first field at fault), and the LD_INDEX the Fabric Manager gives ahead of the parameters. -/
structure Hdr where
  src   : Agent
  reqId : BitVec 16 := 0
  rsv   : BitVec 48 := 0
  lenBad : Option (BitVec 8) := none
  ldIx  : Option (BitVec 8) := none
deriving DecidableEq, Repr

/-- The bytes a Press job meets outside the Kelorn (R174, R175, R176): source bytes when the source is host memory, the
continuation record when CONT is set, the first source byte that could not be read and the first destination byte that could not be written, and the frames or the
image the compressor chose for each block. -/
structure JobEnv where
  src      : List Byte := []
  cont     : List Byte := []
  srcBad   : Option Nat := none
  dstBad   : Option Nat := none
  /-- the compressor's token bytes for each block it codes (R162, R166) -/
  coded    : List (List Byte) := []
  image    : Image := ⟨[], []⟩
deriving DecidableEq, Repr

/-- A lane lost or a request that starts a retrain (R320). -/
inductive RetrainCause
  | blockLock | crcRate | widthChange (w : Fin 4)
deriving DecidableEq, Repr

/-- Why a Graft port is lost (R333, Table 17.6 PORT_LOST). -/
inductive LostCause | replayLimit | noProgress | discardTooLong | retrainTooLong | protocolError
deriving DecidableEq, Repr

/-- The commands and events of the block, one per row of the opcode table. -/
inductive Instr
  -- registers (R7 to R10)
  | registerWrite (a : Agent) (sp : Space) (off : BitVec 26) (size : Nat) (v : BitVec 64)
  | access64 (a : Agent) (write : Bool) (off : BitVec 26) (v : BitVec 64)
  | lowWordWrite (a : Agent) (off : BitVec 26) (v : Word)
  | highWordWrite (a : Agent) (off : BitVec 26) (v : Word)
  | lowWordRead (a : Agent) (sp : Space) (off : BitVec 26) (size : Nat)
  | highWordRead (a : Agent) (off : BitVec 26)
  -- links between the dies, clocks
  | gthFrameSend
  | measurementFrame
  | gthLinkLost
  | rootPllLockLoss (refclkLost : Bool)
  | tickDeparture
  -- slices and heads
  | sliceArbitration (s : SliceIx)
  | benchWake (s : SliceIx) (set : Fin 16384)
  | headLinkUp (h : Head) (rate : Fin 6) (width : Fin 5) (flit : Fin 3)
  | headLinkDown (h : Head)
  | aspmL1Entry (h : Head) (sub : Fin 3)
  | l1Exit (h : Head)
  | l0pRequest (h : Head) (width : Fin 5)
  | pmeTurnOff (h : Head)
  | configAccess (dev : CfgDev) (write : Bool) (off : BitVec 12) (v : Word)
  | memorySpaceEnable (i : LdIx)
  | hdmDecoderCommit (i : LdIx) (d : Fin 4) (base size skip : Nat) (iw ig : Nat)
  | cdatTableAccess (i : LdIx)
  | msixUnmask (i : LdIx) (v : Option (Fin 32))
  | cxlReset (i : LdIx) (memClr : Bool)
  | functionLevelReset (i : LdIx)
  | drainComplete (i : LdIx)
  | gracefulDrainBound (i : LdIx)
  | stopComplete (i : LdIx)
  -- host memory requests
  | memRd (r : MemReq)
  | memRdData (r : MemReq)
  | memInv (r : MemReq)
  | memClnEvct (r : MemReq)
  | memSpecRd (r : MemReq)
  | memWr (r : MemReq) (data : BitVec 512) (poison : Bool)
  | memWrPtl (r : MemReq) (data : BitVec 512) (be : BitVec 64) (poison : Bool)
  | fenceComplete (h : Head)
  | writeAccept (s : SliceIx) (txn : Nat)
  | wcbDrain (s : SliceIx) (line : Nat)
  | dramReadData (c : Chan) (rd : Nat) (err : BitVec 640)
  | mergeReadDone (c : Chan) (mline : Nat) (err : BitVec 640)
  | birsp (h : Head) (line : Nat) (r : BiRsp)
  | biConflict (h : Head) (line : Nat)
  | biCreditReturn (h : Head) (n : Nat)
  | biTimeout (h : Head) (line : Nat)
  | directoryWalkStep (s : SliceIx)
  | dirProbeStart (a : Agent) (hi : Word)
  | dirProbeCapture (s : SliceIx)
  | extentPortDrop (i : LdIx) (ldUnit : Nat)
  | extentReleaseDone (i : LdIx) (ldUnit : Nat)
  -- Curator
  | coldScanVisit (s : SliceIx)
  | epochClose
  | curatorPlan (p : Pair)
  | moveStage (s : SliceIx)
  | moveStart (s : SliceIx)
  | inlineThawStart (s : SliceIx) (txn : Nat)
  | moveCommit (s : SliceIx) (slot : SlotIx)
  | moveAbort (s : SliceIx) (slot : SlotIx)
  | moveTimeout (s : SliceIx) (slot : SlotIx)
  | rehomeCopyRound (s : SliceIx) (slot : SlotIx)
  -- Press
  | pressCompressDone (e : Engine) (img : Image)
  | pressDecodeDone (e : Engine)
  | prsQTailWrite (a : Agent) (q : Fin 64) (v : Word)
  | descriptorStart (q : Fin 64) (e : Engine) (desc : BitVec 512)
  | jobComplete (e : Engine) (env : JobEnv)
  -- SEC
  | counterOverflowDone (s : SliceIx) (page : Nat)
  | counterFetchDone (space : Bool) (q : Nat)
  | counterWriteback (space : Bool) (level : Nat) (node : Nat) (evict : Bool)
  | retirePageOp (region : Fin 4096)
  | retirePageDone (region : Fin 4096)
  | keyZeroiseDone (slot : Fin 4096)
  -- DMC
  | dmcReadArrival (c : Chan) (rd : Nat)
  | dmcScheduleSlot (c : Chan) (sub : Fin 2) (clk : Nat)
  | rowIdlePrecharge (c : Chan) (sub : Fin 2) (lr : Fin 16) (bank : Fin 32)
  | refreshInterval (c : Chan) (sub : Fin 2) (lr : Fin 16)
  | mr4Poll (c : Chan) (hot : BitVec 16)
  | rankPowerdownEntry (c : Chan) (lr : Fin 16)
  | rankSelfrefreshEntry (c : Chan) (lr : Fin 16)
  | dmcPdAllowWrite (c : Chan) (v : BitVec 16)
  | dmcSrAllowWrite (c : Chan) (v : BitVec 16)
  | safeStateOrder (c : Chan)
  -- training and calibration
  | trainingSweep (c : Chan) (lr : Fin 16) (temp : Int) (first second : SweepTry)
  | fastCheck (c : Chan) (edges : List LaneEdges)
  | tempInterpolate (c : Chan) (temp : Option Int)
  | recalPass (c : Chan) (lr : Fin 16) (sub : Fin 2) (edges : List LaneEdges) (clks : Nat) (ces : List RecalCe)
  | recalForced (c : Chan) (lr : Fin 16) (sub : Fin 2) (edges : List LaneEdges) (clks : Nat) (ces : List RecalCe)
  | gthConverterCal (conv : Fin 6) (vref : Nat) (gndMv : Int) (temp zero ref : Int)
  | calLineMeasure (line : Int)
  | dieSensorCal (sensor : Fin 21) (zero line : Int)
  -- errors and repair
  | ueRetryResult (c : Chan) (rd : Nat) (err : BitVec 640)
  | ceVerifyRead (c : Chan) (mline : Nat) (err : BitVec 640)
  | remapSpareCheck (c : Chan) (err : BitVec 640)
  | rangePassPage (pass : Nat)
  | patrolRoundStart
  | sramUe (x : SramArray)
  | channelLost (c : Chan) (cause : Fin 4)
  | d2dLinkLost (die : Fin 4)
  | sliceRestartDone (s : SliceIx)
  | lockstepMismatch (p : Pair)
  | watchdogExpiry (p : Pair)
  | glbWdnKick (a : Agent) (p : Pair)
  | pairReloadDone (p : Pair)
  | fenceRelease
  | fenceExpiry
  | wardenSelfCheckMismatch
  -- QoS and governor
  | qosWindowClose
  | gRecompute
  | governorInterval (dies : List (Option Int))
  | dimmTempRead (c : Chan) (temps : List (Option Int))
  | thermalBackstop (dies : List (Option Int))
  -- Gatehouse
  | auxPowerLoss
  | auxPowerUp
  | gthSettingsLoaded
  | feedSample (x : Feed) (r : FeedReading)
  | feedEnableChange (x : Feed) (pin : Bool)
  | qualifyHoldExpiry (x : Feed)
  | rampTimeout (x : Feed)
  | faultTimerExpiry (x : Feed)
  | breakerPulldown (x : Feed)
  | faultTimerClear (x : Feed)
  | fastTrip (x : Feed) (vsh : Nat)
  | pgQualified
  | autoReturnTimer
  | offConfirm (gate : Nat)
  | offConfirmTimeout
  | bbmGapExpiry
  | gthRegisterWrite (a : Agent) (off : BitVec 26) (v : Word)
  | gthConfigApply
  | gthCtlClear (x : Feed)
  | gthCtlClrEnergy (x : Feed)
  -- Graft link
  | graftLinkUp (g : GPort) (width : Fin 4) (rate64 : Bool) (peer : BitVec 14) (domain : BitVec 32)
  | graftRetrain (g : GPort) (c : RetrainCause) (collision : Bool)
  | graftRetrainDone (g : GPort) (width : Fin 4)
  | fuTransmit (g : GPort)
  | ackTimer (g : GPort)
  | fuReceive (g : GPort) (unit : List Byte)
  | ackFu (g : GPort) (ack : BitVec 12)
  | nak (g : GPort) (ack : BitVec 12)
  | replay (g : GPort) (ack start : BitVec 12)
  | retrainReq (g : GPort) (ack : BitVec 12)
  | widthReq (g : GPort) (ack : BitVec 12) (w : Fin 4)
  | replayTimerExpiry (g : GPort)
  | nakResend (g : GPort)
  | graftPortLost (g : GPort) (c : LostCause)
  | graftLostRetry (g : GPort)
  -- Graft messages at the lender and at the borrower
  | rdl (g : GPort) (tag : BitVec 10) (lease : Fin 64) (line : BitVec 32)
  | rdu (g : GPort) (tag : BitVec 10) (lease : Fin 64) (line : BitVec 32)
  | wrl (g : GPort) (tag : BitVec 10) (lease : Fin 64) (line : BitVec 32) (data : BitVec 512) (poison : Bool)
  | wrp (g : GPort) (tag : BitVec 10) (lease : Fin 64) (line : BitVec 32) (mask : BitVec 64) (data : BitVec 512) (poison : Bool)
  | wru (g : GPort) (tag : BitVec 10) (lease : Fin 64) (line : BitVec 32) (data : List (BitVec 512)) (poison : BitVec 8)
  | datal (g : GPort) (tag : BitVec 10) (status : BitVec 4) (data : BitVec 512) (poison : Bool)
  | datau (g : GPort) (tag : BitVec 10) (status : BitVec 4) (data : List (BitVec 512)) (poison : BitVec 8)
  | cmp (g : GPort) (tag : BitVec 10) (status : BitVec 4)
  -- Oxentelo
  | hello (g : GPort) (tag : BitVec 10) (answer : Bool) (domain : BitVec 32) (dev : BitVec 14) (session : BitVec 16)
  | identity (g : GPort) (tag : BitVec 10) (answer : Bool) (part : BitVec 16) (serial : BitVec 64) (fw : BitVec 32)
  | capability (g : GPort) (tag : BitVec 10) (answer : Bool) (lendGib bw : Nat)
  | capabilityResend (g : GPort)
  | leaseRequestTrigger (g : GPort)
  | leaseRequest (g : GPort) (tag : BitVec 10) (lease : Fin 64) (gib bw : Nat)
  | leaseGrant (g : GPort) (tag : BitVec 10) (lease : Fin 64) (gib bw term : Nat)
  | leaseDeny (g : GPort) (tag : BitVec 10) (lease : Fin 64) (reason : Nat)
  | leaseRenew (g : GPort) (tag : BitVec 10) (lease : Fin 64)
  | leaseRenewed (g : GPort) (tag : BitVec 10) (lease : Fin 64) (term : Nat)
  | leaseRecall (g : GPort) (tag : BitVec 10) (lease : Fin 64) (period : Nat)
  | recallAck (g : GPort) (tag : BitVec 10) (lease : Fin 64)
  | leaseRelease (g : GPort) (tag : BitVec 10) (lease : Fin 64)
  | leaseReleased (g : GPort) (tag : BitVec 10) (lease : Fin 64)
  | oxenteloTimeout (g : GPort) (tag : BitVec 10)
  | leaseRenewTimer (lease : Fin 64)
  | leaseTermExpiry (lease : Fin 64)
  | leaseIdleRelease (lease : Fin 64)
  | leaseReclaim (lent : Fin 64)
  -- management: the mailbox's own steps
  | backgroundComplete (a : Agent)
  | unsupportedOpcode (h : Hdr) (opcode : BitVec 16)
  -- C0
  | getIdentity (h : Hdr)
  | getSettings (h : Hdr) (gen : BitVec 8)
  | programSettings (h : Hdr) (gen : BitVec 8) (confirm : BitVec 16) (block : List Byte) (tempOk ok : Bool)
  | revokeFwKey (h : Hdr) (key : BitVec 8) (confirm : BitVec 16)
  | setLocks (h : Hdr) (mask : BitVec 16)
  | setHeadMode (h : Hdr) (head : BitVec 8) (mode : BitVec 8)
  | createLd (h : Hdr) (head ldId ldIndex manage : BitVec 8)
  | deleteLd (h : Hdr) (ldIndex : BitVec 8)
  | setLdManage (h : Hdr) (ldIndex manage : BitVec 8)
  | disable (h : Hdr) (target id mode : BitVec 8)
  | enable (h : Hdr) (target id : BitVec 8)
  | setStaticCapacity (h : Hdr) (ranges : List (BitVec 64 × BitVec 32))
  -- C1
  | getPlacement (h : Hdr)
  | setCurator (h : Hdr) (lenMs : BitVec 16) (curate : BitVec 8) (hotMark : BitVec 16) (freezeIdle freezeTight balance spillEn : BitVec 8)
  | setRegionPlacement (h : Hdr) (region : BitVec 16) (place spillOk : BitVec 8) (mask : BitVec 16)
  | getPageInfo (h : Hdr) (space : BitVec 8) (dpa : BitVec 64) (count : BitVec 16)
  | sanitizeRange (h : Hdr) (space : BitVec 8) (dpa len : BitVec 64)
  | getEpochTotals (h : Hdr)
  -- C2
  | setClass (h : Hdr) (cls : BitVec 8) (floor budget dl1 dl2 dl3 : BitVec 32) (baseTier shedRank : BitVec 8)
  | deleteClass (h : Hdr) (cls : BitVec 8)
  | setLabelMap (h : Hdr) (head dflt : BitVec 8) (entries : List (BitVec 8))
  | setLendClass (h : Hdr) (cls : BitVec 8)
  | getQos (h : Hdr) (cls : BitVec 8)
  | setGovernor (h : Hdr) (pwr : BitVec 16) (tj dimm noPd : BitVec 8)
  | getGovernor (h : Hdr)
  -- C3
  | allocateKey (h : Hdr)
  | freeKey (h : Hdr) (slot : BitVec 16)
  | flushKey (h : Hdr) (slot : BitVec 16)
  | createRegion (h : Hdr) (dpa : BitVec 64) (len : BitVec 32) (model cls : BitVec 8) (slot : BitVec 16) (place spillOk : BitVec 8) (mask : BitVec 16)
  | deleteRegion (h : Hdr) (region : BitVec 16)
  | getRegion (h : Hdr) (region : BitVec 16)
  | getKeyStatus (h : Hdr) (slot : BitVec 16)
  | getLosses (h : Hdr)
  -- C4
  | createQueue (h : Hdr) (ring : BitVec 64) (log2 : BitVec 8)
  | deleteQueue (h : Hdr) (q : BitVec 8)
  | queueTail (h : Hdr) (q : BitVec 8) (tail : BitVec 16)
  | getQueue (h : Hdr) (q : BitVec 8)
  | setPress (h : Hdr) (offload retireAt : BitVec 8)
  | getPress (h : Hdr)
  -- C5
  | scrubRange (h : Hdr) (space : BitVec 8) (dpa len : BitVec 64)
  | cancelScrub (h : Hdr)
  | requestPpr (h : Hdr) (ch lr sub bg ba : BitVec 8) (row : BitVec 32) (dev : BitVec 8)
  | getErrors (h : Hdr) (ch : BitVec 8)
  | readCeLog (h : Hdr) (ch : BitVec 8)
  | setPatrol (h : Hdr) (periodH : BitVec 8)
  -- C6
  | setGraft (h : Hdr) (lending portEn replayLimit : BitVec 8) (reqGib : BitVec 16) (termS : BitVec 8) (recallS : BitVec 16) (borrow : BitVec 8)
  | createLendRegion (h : Hdr) (dpa : BitVec 64) (len : BitVec 32) (cls : BitVec 8) (slot : BitVec 16)
  | deleteLendRegion (h : Hdr)
  | recallLease (h : Hdr) (lent : BitVec 8)
  | setPortWidth (h : Hdr) (port width : BitVec 8)
  | getGraft (h : Hdr)
  -- C7
  | getPower (h : Hdr)
  | clearFeed (h : Hdr) (feed : BitVec 8)
  | setFeedEnable (h : Hdr) (a b : BitVec 8) (confirm : BitVec 16)
  | setGthConfig (h : Hdr) (pri autoReturn : BitVec 8) (timing outCfg aCfg aBreaker aShunt bCfg bBreaker bShunt : Word)
  | clearEnergy (h : Hdr) (feed : BitVec 8)
  | setVrefValue (h : Hdr) (v : Word)
  -- C8
  | setCounter (h : Hdr) (group counter : BitVec 8) (event : BitVec 16)
  | readGroup (h : Hdr) (group : BitVec 8)
  | setSampling (h : Hdr) (enable : BitVec 8) (mask : BitVec 16) (cls : BitVec 8) (period : BitVec 16)
  | readSamples (h : Hdr) (start count : BitVec 16)
  | setUserAccess (h : Hdr) (enable : BitVec 8)
  -- C9
  | getFwInfo (h : Hdr)
  | fwTransfer (h : Hdr) (off : BitVec 32) (len : BitVec 16) (data : List Byte)
  | fwCommit (h : Hdr)
  | getBootLog (h : Hdr)
  | readReg (h : Hdr) (off : BitVec 32)
  | writeReg (h : Hdr) (off v : BitVec 32)
  | injectError (h : Hdr) (kind : BitVec 8) (dpa : BitVec 64)
  -- standard mailbox commands
  | getEventRecords (h : Hdr) (log : BitVec 8)
  | clearEventRecords (h : Hdr) (log : BitVec 8) (clearAll : Bool) (handles : List (BitVec 16))
  | getEventInterruptPolicy (h : Hdr)
  | setEventInterruptPolicy (h : Hdr) (modes : List (BitVec 8))
  | cxlGetFwInfo (h : Hdr)
  | transferFw (h : Hdr) (off : BitVec 32) (data : List Byte)
  | activateFw (h : Hdr) (online : Bool)
  | getTimestamp (h : Hdr)
  | setTimestamp (h : Hdr) (ns : BitVec 64)
  | getSupportedLogs (h : Hdr)
  | getLog (h : Hdr) (cel : Bool) (off len : BitVec 32)
  | identifyMemoryDevice (h : Hdr)
  | sanitize (h : Hdr)
  | secureErase (h : Hdr)
  | getDynamicCapacityConfiguration (h : Hdr)
  | getDynamicCapacityExtentList (h : Hdr)
  | addDynamicCapacityResponse (h : Hdr) (accepted : List (BitVec 64 × BitVec 64))
  | releaseDynamicCapacity (h : Hdr) (exts : List (BitVec 64 × BitVec 64))
  -- FM API
  | fmIdentify (h : Hdr)
  | getMultiHeadedInfo (h : Hdr)
  | getHeadInfo (h : Hdr) (start count : BitVec 8)
  | getLdInfo (h : Hdr)
  | tunnelManagementCommand (h : Hdr) (head : Head) (inner : BitVec 16) (payload : List Byte)
  | getDcdInfo (h : Hdr)
  | getHostDcRegionConfiguration (h : Hdr)
  | setDcRegionConfiguration (h : Hdr) (region : BitVec 8) (base len : BitVec 64) (block : BitVec 64)
  | getDcRegionExtentLists (h : Hdr)
  | initiateDynamicCapacityAdd (h : Hdr) (exts : List (BitVec 64 × BitVec 64 × BitVec 64)) (tag : BitVec 128)
  | initiateDynamicCapacityRelease (h : Hdr) (forced : Bool) (exts : List (BitVec 64 × BitVec 64))
  -- Catalogue
  | catGroupClear (a : Agent) (g : Fin 16)
  | catEvselWrite (a : Agent) (g : Fin 16) (j : Fin 4) (v : Word)
  | catSampConfigWrite (a : Agent) (heads : Bool) (v : Word)
  | catGatherStart (a : Agent)
  | catalogueWalkStart
  | catalogueWalkDone
  -- events
  | alertNUpdate
  | eventLdRecord (entry : Fin 1024)
  | alrCauseClear (a : Agent) (blk : BitVec 8) (v : Word)
  -- resets and boot
  | mainPwrokFall
  | coldRst
  | glbRstCold (a : Agent) (v : Word)
  | warmRst
  | glbRstWarm (a : Agent) (v : Word)
  | perstAssert (p : Fin 4)
  | perstDeassert (p : Fin 4)
  | centralDieRelease (env : BootEnv)
  | nodeOverflowDone (level : Nat) (node : Nat)
  | dramAlertNReport (c : Chan) (parity : Bool)
  | headLinkRetrain (h : Head) (width : Fin 5)
  | ticksWrap (g : Fin 16)
  | warmEntryMoveDeadline
deriving DecidableEq, Repr

end Sys2Proof
end

