-- ==== Sys2Proof/Machine/Crypto.lean ====
section
/-! DEFINITION. The published functions that the spec names: AES-256 and GHASH of line encryption and tags (R184), and CRC-32C of
offload streams (R166, R174). Bytes are numbers below 256; byte 0 of an AES block is bits [127:120] of the block (log entry 5). -/
namespace Sys2Proof.Machine

/-- The AES S-box, 32 entries to a number, entry i in byte i modulo 32. -/
def sboxWord (k : Nat) : Nat :=
  match k with
  | 0 => 0xc072a49cafa2d4adf04759fa7dc982ca76abd7fe2b670130c56f6bf27b777c63
  | 1 => 0x75b227ebe28012079a059618c323c7041531d871f1e5a534ccf73f362693fdb7
  | 2 => 0xcf584c4a39becb6a5bb1fc20ed00d153842fe329b3d63b52a05a6e1b1a2c8309
  | 3 => 0xd2f3ff1021dab6bcf5389d928f40a351a89f3c507f02f94585334d43fbaaefd0
  | 4 => 0xdb0b5ede14b8ee4688902a22dc4f816073195d643d7ea7c41744975fec130ccd
  | 5 => 0x08ae7a65eaf4566ca94ed58d6d37c8e779e4959162acd3c25c2406490a3a32e0
  | 6 => 0x9e1dc186b95735610ef6034866b53e708a8bbd4b1f74dde8c6b4a61c2e2578ba
  | _ => 0x16bb54b00f2d99416842e6bf0d89a18cdf2855cee9871e9b948ed9691198f8e1

/-- The AES S-box. -/
def sbox (x : Nat) : Nat := (sboxWord (x / 32) >>> (8 * (x % 32))) % 256

/-- Multiplication by x in GF(2^8) of AES. -/
def xtime (x : Nat) : Nat := if x < 128 then 2 * x else (2 * x - 256) ^^^ 0x1B

def xorList (a b : List Nat) : List Nat := List.zipWith (· ^^^ ·) a b

/-- The key words of AES-256 after the first eight, one at a time: the last word first. -/
def aesExpand (n i rcon : Nat) (ws : List (List Nat)) : List (List Nat) :=
  match n with
  | 0 => ws
  | n + 1 =>
    let prev := ws.headD []
    let back := (ws[7]?).getD []
    if i % 8 = 0 then
      let t := (prev.drop 1 ++ prev.take 1).map sbox
      let t := xorList t [rcon, 0, 0, 0]
      aesExpand n (i + 1) (xtime rcon) (xorList back t :: ws)
    else if i % 8 = 4 then aesExpand n (i + 1) rcon (xorList back (prev.map sbox) :: ws)
    else aesExpand n (i + 1) rcon (xorList back prev :: ws)

/-- The big-endian bytes of a number. -/
def beBytes (n x : Nat) : List Nat := (List.range n).map (fun i => (x >>> (8 * (n - 1 - i))) % 256)

/-- The number that big-endian bytes spell. -/
def beNat (l : List Nat) : Nat := l.foldl (fun a b => a * 256 + b) 0

/-- Cuts a list into pieces of n. -/
def chunk {α : Type} (fuel n : Nat) (l : List α) : List (List α) :=
  match fuel with
  | 0 => []
  | k + 1 => l.take n :: chunk k n (l.drop n)

/-- The 15 round keys of AES-256, 16 bytes each. -/
def aesKeys (key : BitVec 256) : List (List Nat) :=
  let first := (chunk 8 4 (beBytes 32 key.toNat)).reverse
  chunk 15 16 ((aesExpand 52 8 1 first).reverse.flatten)

/-- ShiftRows on 16 bytes in column order. -/
def shiftRows (s : List Nat) : List Nat :=
  (List.range 16).map (fun i => (s[(i + 4 * (i % 4)) % 16]?).getD 0)

/-- MixColumns on one column. -/
def mixColumn (col : List Nat) : List Nat :=
  let g := fun i => (col[i % 4]?).getD 0
  (List.range 4).map (fun i => xtime (g i) ^^^ (xtime (g (i + 1)) ^^^ g (i + 1)) ^^^ g (i + 2) ^^^ g (i + 3))

/-- The rounds of AES after the first key addition. -/
def aesRounds (ks : List (List Nat)) (s : List Nat) : List Nat :=
  match ks with
  | [] => s
  | [k] => xorList (shiftRows (s.map sbox)) k
  | k :: r => aesRounds r (xorList ((chunk 4 4 (shiftRows (s.map sbox))).map mixColumn).flatten k)

/-- AES-256 of one block. (DEDUCED, unsafe, log entry 5) -/
def aes256 (key : BitVec 256) (t : BitVec 128) : BitVec 128 :=
  match aesKeys key with
  | [] => 0
  | k0 :: r => BitVec.ofNat 128 (beNat (aesRounds r (xorList (beBytes 16 t.toNat) k0)))

/-- Multiplication in the GF(2^128) of GHASH: n more bits of x, from bit 127 down. -/
def gfMul (n : Nat) (x z v : BitVec 128) : BitVec 128 :=
  match n with
  | 0 => z
  | n + 1 =>
    let z := if x.getLsbD n then z ^^^ v else z
    let v := if v.getLsbD 0 then (v >>> 1) ^^^ (0xE1#128 <<< 120) else v >>> 1
    gfMul n x z v

/-- GHASH over 128-bit blocks. -/
def ghash (h : BitVec 128) (blocks : List (BitVec 128)) : BitVec 128 :=
  blocks.foldl (fun y b => gfMul 128 (y ^^^ b) 0 h) 0

/-- A block with its 16 bytes in the opposite order: between the bytes of a line, byte 0 lowest, and an AES block, byte 0 highest. -/
def swap16 (b : BitVec 128) : BitVec 128 := BitVec.ofNat 128 (beNat ((beBytes 16 b.toNat).reverse))

/-- The four 16-byte words of a line, as AES blocks. -/
def lineBlocks (d : BitVec 512) : List (BitVec 128) := (List.range 4).map (fun w => swap16 ((d >>> (128 * w)).setWidth 128))

/-- A line XORed with the key stream of R184: word w with AES-256 under Kd of T with WORD = w. (DEDUCED, unsafe, log entry 5) -/
def cryptLine (kd : BitVec 256) (t : BitVec 128) (d : BitVec 512) : BitVec 512 :=
  (List.range 4).foldl (fun d w => d ^^^ ((swap16 (aes256 kd (t ||| BitVec.ofNat 128 w))).setWidth 512 <<< (128 * w))) d

/-- The tag of R184 over the stored line, leftmost n bits. (DEDUCED, unsafe, log entry 5) -/
def tagOf (k : BitVec 256) (t : BitVec 128) (n : Nat) (stored : BitVec 512) : Nat :=
  ((ghash (aes256 k 0) (lineBlocks stored)) ^^^ aes256 k t).toNat >>> (128 - n)

/-- One byte of CRC-32C (Castagnoli, reflected). -/
def crcByte (crc b : Nat) : Nat :=
  (List.range 8).foldl (fun c _ => if c % 2 = 1 then (c / 2) ^^^ 0x82F63B78 else c / 2) (crc ^^^ b)

/-- CRC-32C continued over data from a running value. -/
def crc32c (start : Nat) (l : List Byte) : Nat :=
  (l.foldl (fun c b => crcByte c b.toNat) (start ^^^ 0xFFFFFFFF)) ^^^ 0xFFFFFFFF

/-- One byte of the flow units' CRC-64: the byte joins at the top, most significant bit first (R323). -/
def crc64Byte (crc b : Nat) : Nat :=
  (List.range 8).foldl (fun c _ => if c.testBit 63 then ((2 * c) % 2 ^ 64) ^^^ 0x42F0E1EBA9EA3693 else 2 * c) (crc ^^^ (b * 2 ^ 56))

/-- The CRC-64 of bytes (R323): polynomial 42F0_E1EB_A9EA_3693h, without reflection, initial value and final XOR all ones. -/
def crc64 (l : List Byte) : Nat := (l.foldl (fun c b => crc64Byte c b.toNat) (2 ^ 64 - 1)) ^^^ (2 ^ 64 - 1)

end Sys2Proof.Machine
end

