-- ==== Sys2Proof/Config.lean ====
section
/-! DEFINITION. What one part fixes and the spec leaves open: free values and identities. Each is an opaque constant, so no proof can
see what it is. -/
namespace Sys2Proof.Config

/-- A fresh free value for each number: what a reserved (RSV) bit reads as (Table 0.5), and every other value that the spec leaves
open (DESIGN CHOICE, safe, log entries 3 and 4) -/
opaque freeWord : Nat → BitVec 64

/-- The n-th 256-bit value drawn from the on-chip random source (R183, R188, R196). -/
opaque drawKey : Nat → BitVec 256

/-- A byte of the SPI flash as the board was given it, before anything of this model writes it. -/
opaque flashByte : Nat → BitVec 8

/-- KEY_HASH_k of the OTP array, programmed at test (Table 15.17); 0 stands for an empty slot. (DEDUCED, unsafe, log entry 67) -/
opaque keyHash : Nat → BitVec 384

/-- The stepping of the OTP factory block (R45). (DEDUCED, unsafe, log entry 67) -/
opaque stepping : BitVec 8
/-- The serial number of the OTP factory block (DEDUCED, unsafe, log entry 67). -/
opaque serial : BitVec 64
/-- The PCI vendor identifier of the OTP factory block (DEDUCED, unsafe, log entry 67). -/
opaque vendorId : BitVec 16

/-- The gain, in millionths, and the offset, in µV, that are fused at test for a converter or sensor at a set point (Table 15.17, R243); the spec gives no values. (DESIGN CHOICE, safe, log entry 92) -/
opaque trim : Nat → Int × Int

/-- What an offset of so many µV at converter or sensor n is in the units of its readings; the spec gives no scale. (DESIGN CHOICE, safe, log entry 92) -/
opaque offsetIn : Nat → Int → Int

end Sys2Proof.Config
end

