-- ==== Sys2Proof/Machine/RegTable.lean ====
section
/-! DEFINITION. The registers of the vendor space (R6, Table 0.4): for each register of spec/ its offset, its strides and counts, its
fields with their access types (Table 0.5), reserved encodings and clamps (R2), the reset that clears it, and its
reset value; and one name for each field. -/
namespace Sys2Proof.Machine.Reg

/-- Access types of Table 0.5. RWS and ROS are RW and RO fields that survive warm reset. -/
inductive Access | rw | ro | rw1c | wo | rwl | rsv
deriving DecidableEq, Repr

/-- What a write of a value to a field takes (R2 and the field tables): any value; only listed or bounded values, else the previous
one is kept; the nearer end of a range; a value below, or at most, that of another field of the register; a class number or FFh; the nearer end of a range in units of the root multiplier. -/
inductive Legal
  | any
  | oneOf (l : List Nat)
  | upTo (n : Nat)
  | between (a b : Nat)
  | clamp (a b : Nat)
  | belowField (lo w : Nat)
  | atMostField (lo w : Nat)
  | classOrAny
  | rootClamp (a b : Nat)
deriving DecidableEq, Repr

/-- One row of a field table. `keep` is 0 for a field that warm reset clears, 1 for one that only cold reset clears, 2 for one
that no reset of the central die reaches. -/
structure FieldDef where
  lo    : Nat
  w     : Nat
  acc   : Access
  legal : Legal := .any
  whole : Bool := false
  keep  : Nat := 0
deriving DecidableEq, Repr

/-- One register heading: base offset, (stride, count) of each index, size in bytes, fields, and how far back the word whose bit 31
locks its RWL fields lies. -/
structure RegDef where
  base   : Nat
  dims   : List (Nat × Nat)
  size   : Nat
  fields : List FieldDef
  lock   : Nat := 0
deriving DecidableEq, Repr

/-- The place of a field: the offset of its register, its lowest bit and its width. -/
structure Fld where
  off : Nat
  lo  : Nat
  w   : Nat
deriving DecidableEq, Repr

def f (lo w : Nat) (a : Access) (l : Legal := .any) : FieldDef := { lo := lo, w := w, acc := a, legal := l }
/-- Writing 1 to any bit clears the whole field. -/
def FieldDef.wholeClear (d : FieldDef) : FieldDef := { d with whole := true }
/-- The field survives warm reset. -/
def FieldDef.warm (d : FieldDef) : FieldDef := { d with keep := 1 }
/-- No reset of the central die reaches the field. -/
def FieldDef.kept (d : FieldDef) : FieldDef := { d with keep := 2 }

/-! ### The fields -/

def GLB_CLK_CFG_ROOT_MULT : Fld := ⟨0x40, 0, 7⟩
def GLB_CLK_CFG_CFG_LOCK : Fld := ⟨0x40, 31, 1⟩
def GLB_CLK_STATUS_ROOT_MULT_ACTIVE : Fld := ⟨0x44, 0, 7⟩
def GLB_CLK_STATUS_ROOT_PLL_LOCKED : Fld := ⟨0x44, 7, 1⟩
def GLB_CLK_STATUS_REFCLK_PRESENT : Fld := ⟨0x44, 8, 1⟩
def GLB_CLK_STATUS_HOST_PLL_LOCKED : Fld := ⟨0x44, 9, 4⟩
def GLB_CLK_STATUS_GRAFT_PLL_LOCKED : Fld := ⟨0x44, 13, 2⟩
def GLB_CLK_STATUS_MPHY_LINK_UP : Fld := ⟨0x44, 15, 4⟩
def GLB_CLK_STATUS_GTH_LINK_UP : Fld := ⟨0x44, 19, 1⟩
def GLB_CLK_STATUS_LOCK_LOST : Fld := ⟨0x44, 20, 1⟩
def GLB_PORT_CFG_H0_SPLIT : Fld := ⟨0x50, 0, 2⟩
def GLB_PORT_CFG_H1_SPLIT : Fld := ⟨0x50, 2, 2⟩
def GLB_PORT_CFG_H2_SPLIT : Fld := ⟨0x50, 4, 2⟩
def GLB_PORT_CFG_H3_SPLIT : Fld := ⟨0x50, 6, 2⟩
def GLB_PORT_CFG_LANE_REV : Fld := ⟨0x50, 8, 4⟩
def GLB_PORT_CFG_CFG_LOCK : Fld := ⟨0x50, 31, 1⟩
def GLB_ID_PART : Fld := ⟨0x0, 0, 16⟩
def GLB_ID_STEPPING : Fld := ⟨0x0, 16, 8⟩
def GLB_ID_FORMAT : Fld := ⟨0x0, 24, 8⟩
def GLB_SERIAL_SERIAL : Fld := ⟨0x8, 0, 64⟩
def GLB_FW_ID_FW_VERSION : Fld := ⟨0x10, 0, 32⟩
def GLB_FW_SVN_SVN : Fld := ⟨0x14, 0, 8⟩
def GLB_CAP_RAW_RAW_MIB : Fld := ⟨0x18, 0, 32⟩
def GLB_CAP_H_H_MIB : Fld := ⟨0x1C, 0, 32⟩
def GLB_RATE_RATE : Fld := ⟨0x20, 0, 16⟩
def GLB_RATE_EXP_K : Fld := ⟨0x20, 16, 7⟩
def GLB_DEV_DEV_ID : Fld := ⟨0x24, 0, 14⟩
def GLB_DEV_ID_VALID : Fld := ⟨0x24, 14, 1⟩
def TRL_HEAD_FENCE_FENCES_DONE (h : Nat) : Fld := ⟨0x108000 + 0x4 * h, 0, 16⟩
def TRL_HEAD_FENCE_FENCES_PENDING (h : Nat) : Fld := ⟨0x108000 + 0x4 * h, 16, 7⟩
def TRL_HEAD_FENCE_FENCE_FAULT (h : Nat) : Fld := ⟨0x108000 + 0x4 * h, 31, 1⟩
def TRL_HEAD_DISCARD_DISCARDED (h : Nat) : Fld := ⟨0x108040 + 0x4 * h, 0, 24⟩
def TRL_HEAD_DISCARD_LAST_CAUSE (h : Nat) : Fld := ⟨0x108040 + 0x4 * h, 24, 4⟩
def DIR_CFG_FWD_SPILLED : Fld := ⟨0x600000, 0, 1⟩
def DIR_BI_TIMEOUT_BI_TIMEOUT : Fld := ⟨0x600004, 0, 27⟩
def DIR_PROBE_ADDR_LINE : Fld := ⟨0x600010, 6, 39⟩
def DIR_PROBE_DATA_ENTRY : Fld := ⟨0x600018, 0, 48⟩
def DIR_PROBE_DATA_HIT : Fld := ⟨0x600018, 48, 1⟩
def DIR_PROBE_DATA_DONE : Fld := ⟨0x600018, 49, 1⟩
def DIR_PROBE_DATA_BENCHED : Fld := ⟨0x600018, 50, 1⟩
def DIR_STALE_STALE (s : Nat) : Fld := ⟨0x601000 + 0x8 * s, 0, 32⟩
def DIR_EVENTS_BI_TIMEOUTS (s : Nat) : Fld := ⟨0x601004 + 0x8 * s, 0, 16⟩
def DIR_EVENTS_BENCH_HWM (s : Nat) : Fld := ⟨0x601004 + 0x8 * s, 16, 7⟩
def CUR_CAP_CFG_EXP_K : Fld := ⟨0x300000, 0, 7⟩
def CUR_CAP_CFG_CFG_LOCK : Fld := ⟨0x300000, 31, 1⟩
def CUR_EPOCH_CFG_LEN_MS : Fld := ⟨0x300004, 0, 10⟩
def CUR_EPOCH_CFG_CURATE : Fld := ⟨0x300004, 31, 1⟩
def CUR_EPOCH_STATUS_EPOCH : Fld := ⟨0x300008, 0, 16⟩
def CUR_EPOCH_STATUS_LENGTHENED : Fld := ⟨0x300008, 26, 1⟩
def CUR_EPOCH_STATUS_LIST_OVF : Fld := ⟨0x300008, 27, 1⟩
def CUR_EPOCH_STATUS_INC_GEN : Fld := ⟨0x300008, 28, 4⟩
def CUR_EPOCH_LEN_EFF_LEN_MS : Fld := ⟨0x30000C, 0, 20⟩
def CUR_POLICY_HOT_MARK : Fld := ⟨0x300010, 0, 16⟩
def CUR_POLICY_FREEZE_IDLE : Fld := ⟨0x300010, 16, 4⟩
def CUR_POLICY_FREEZE_IDLE_TIGHT : Fld := ⟨0x300010, 20, 4⟩
def CUR_POLICY_BALANCE_PCT : Fld := ⟨0x300010, 24, 7⟩
def CUR_POLICY_SPILL_EN : Fld := ⟨0x300010, 31, 1⟩
def CUR_PRESSURE_LEVEL : Fld := ⟨0x300020, 0, 3⟩
def CUR_PRESSURE_RELEASE_REQ : Fld := ⟨0x300020, 3, 1⟩
def CUR_PRESSURE_FATAL : Fld := ⟨0x300020, 4, 1⟩
def CUR_PRESSURE_LEASES : Fld := ⟨0x300020, 5, 7⟩
def CUR_POOL_SIZE_UNITS : Fld := ⟨0x300028, 0, 36⟩
def CUR_POOL_FREE_UNITS : Fld := ⟨0x300030, 0, 36⟩
def CUR_POOL_FREE_RESERVE : Fld := ⟨0x300030, 36, 28⟩
def PRS_CFG_OFFLOAD_EN : Fld := ⟨0x400000, 0, 1⟩
def PRS_CFG_RETIRE_AT : Fld := ⟨0x400000, 4, 4⟩
def PRS_RETIRED_ENGINE : Fld := ⟨0x400008, 0, 64⟩
def PRS_VERIFY_FAILS_COUNT : Fld := ⟨0x400010, 0, 16⟩
def PRS_VERIFY_FAILS_LAST_ENGINE : Fld := ⟨0x400010, 16, 6⟩
def PRS_FAULTS_COUNT : Fld := ⟨0x400014, 0, 16⟩
def PRS_FAULTS_LAST_FAULT : Fld := ⟨0x400014, 16, 3⟩
def PRS_LAST_FAULT_DPA_PAGE : Fld := ⟨0x400018, 12, 33⟩
def PRS_LAST_FAULT_DPA_STRAND : Fld := ⟨0x400018, 45, 3⟩
def PRS_Q_BASE_ADDR (q : Nat) : Fld := ⟨0x401000 + 0x20 * q, 6, 58⟩
def PRS_Q_CFG_EN (q : Nat) : Fld := ⟨0x401008 + 0x20 * q, 0, 1⟩
def PRS_Q_CFG_LOG2_SIZE (q : Nat) : Fld := ⟨0x401008 + 0x20 * q, 1, 4⟩
def PRS_Q_CFG_LD_INDEX (q : Nat) : Fld := ⟨0x401008 + 0x20 * q, 5, 6⟩
def PRS_Q_TAIL_TAIL (q : Nat) : Fld := ⟨0x40100C + 0x20 * q, 0, 12⟩
def PRS_Q_HEAD_HEAD (q : Nat) : Fld := ⟨0x401010 + 0x20 * q, 0, 12⟩
def SEC_CFG_S_CAP : Fld := ⟨0x500000, 0, 10⟩
def SEC_CFG_V_CAP : Fld := ⟨0x500000, 16, 6⟩
def SEC_CFG_PLAIN_OK : Fld := ⟨0x500000, 30, 1⟩
def SEC_CFG_CFG_LOCK : Fld := ⟨0x500000, 31, 1⟩
def SEC_STATUS_SLOTS_FREE : Fld := ⟨0x500004, 0, 13⟩
def SEC_STATUS_RETIRING : Fld := ⟨0x500004, 13, 5⟩
def SEC_STATUS_LOSS_OVF : Fld := ⟨0x500004, 18, 1⟩
def SEC_TAG_FAILS_COUNT : Fld := ⟨0x500010, 0, 16⟩
def SEC_TAG_FAILS_LAST_CLASS : Fld := ⟨0x500010, 16, 2⟩
def SEC_TAG_FAILS_LAST_SHERD : Fld := ⟨0x500010, 18, 1⟩
def SEC_LAST_FAIL_DPA_LINE : Fld := ⟨0x500018, 6, 39⟩
def SEC_OVERFLOWS_BLOCK_OVF : Fld := ⟨0x500020, 0, 16⟩
def SEC_OVERFLOWS_NODE_OVF : Fld := ⟨0x500020, 16, 16⟩
def SEC_ROOT_LOST_LOST : Fld := ⟨0x500028, 0, 32⟩
def SEC_LOSS_VALID (n : Nat) : Fld := ⟨0x501000 + 0x8 * n, 0, 1⟩
def SEC_LOSS_SPACE (n : Nat) : Fld := ⟨0x501000 + 0x8 * n, 1, 1⟩
def SEC_LOSS_KIND (n : Nat) : Fld := ⟨0x501000 + 0x8 * n, 2, 3⟩
def SEC_LOSS_START (n : Nat) : Fld := ⟨0x501000 + 0x8 * n, 8, 36⟩
def DMC_CFG_EN (c : Nat) : Fld := ⟨0x1000000 + 0x80000 * c, 0, 1⟩
def DMC_CFG_TYPE (c : Nat) : Fld := ⟨0x1000000 + 0x80000 * c, 1, 1⟩
def DMC_CFG_TWO_DPC (c : Nat) : Fld := ⟨0x1000000 + 0x80000 * c, 2, 1⟩
def DMC_CFG_DENSITY (c : Nat) : Fld := ⟨0x1000000 + 0x80000 * c, 3, 2⟩
def DMC_CFG_PRANKS (c : Nat) : Fld := ⟨0x1000000 + 0x80000 * c, 5, 1⟩
def DMC_CFG_HEIGHT (c : Nat) : Fld := ⟨0x1000000 + 0x80000 * c, 6, 2⟩
def DMC_CFG_RANK_LOG2 (c : Nat) : Fld := ⟨0x1000000 + 0x80000 * c, 8, 3⟩
def DMC_CFG_LOCK (c : Nat) : Fld := ⟨0x1000000 + 0x80000 * c, 31, 1⟩
def DMC_TIM_CAS_TCL (c : Nat) : Fld := ⟨0x1000010 + 0x80000 * c, 0, 8⟩
def DMC_TIM_CAS_TCWL (c : Nat) : Fld := ⟨0x1000010 + 0x80000 * c, 8, 8⟩
def DMC_TIM_CAS_TRCD (c : Nat) : Fld := ⟨0x1000010 + 0x80000 * c, 16, 8⟩
def DMC_TIM_CAS_TRP (c : Nat) : Fld := ⟨0x1000010 + 0x80000 * c, 24, 8⟩
def DMC_TIM_ROW_TRAS (c : Nat) : Fld := ⟨0x1000014 + 0x80000 * c, 0, 9⟩
def DMC_TIM_ROW_TRC (c : Nat) : Fld := ⟨0x1000014 + 0x80000 * c, 9, 9⟩
def DMC_TIM_ROW_TWR (c : Nat) : Fld := ⟨0x1000014 + 0x80000 * c, 18, 8⟩
def DMC_TIM_BANK_TCCD_L (c : Nat) : Fld := ⟨0x1000018 + 0x80000 * c, 0, 8⟩
def DMC_TIM_BANK_TCCD_L_WR (c : Nat) : Fld := ⟨0x1000018 + 0x80000 * c, 8, 8⟩
def DMC_TIM_BANK_TRRD_L (c : Nat) : Fld := ⟨0x1000018 + 0x80000 * c, 16, 8⟩
def DMC_TIM_BANK_TRRD_S (c : Nat) : Fld := ⟨0x1000018 + 0x80000 * c, 24, 8⟩
def DMC_TIM_TURN_TFAW (c : Nat) : Fld := ⟨0x100001C + 0x80000 * c, 0, 8⟩
def DMC_TIM_TURN_TWTR_L (c : Nat) : Fld := ⟨0x100001C + 0x80000 * c, 8, 8⟩
def DMC_TIM_TURN_TWTR_S (c : Nat) : Fld := ⟨0x100001C + 0x80000 * c, 16, 8⟩
def DMC_TIM_TURN_TRTP (c : Nat) : Fld := ⟨0x100001C + 0x80000 * c, 24, 8⟩
def DMC_TIM_REF_TREFI (c : Nat) : Fld := ⟨0x1000020 + 0x80000 * c, 0, 16⟩
def DMC_TIM_REF_TRFC2 (c : Nat) : Fld := ⟨0x1000020 + 0x80000 * c, 16, 12⟩
def DMC_TIM_REF2_TRFCSB (c : Nat) : Fld := ⟨0x1000024 + 0x80000 * c, 0, 12⟩
def DMC_TIM_REF2_TXS (c : Nat) : Fld := ⟨0x1000024 + 0x80000 * c, 12, 13⟩
def DMC_TIM_REF2_TXP (c : Nat) : Fld := ⟨0x1000024 + 0x80000 * c, 25, 7⟩
def DMC_SCHED_WQ_HIGH (c : Nat) : Fld := ⟨0x1000030 + 0x80000 * c, 0, 8⟩
def DMC_SCHED_WQ_LOW (c : Nat) : Fld := ⟨0x1000030 + 0x80000 * c, 8, 8⟩
def DMC_SCHED_HIT_RUN (c : Nat) : Fld := ⟨0x1000030 + 0x80000 * c, 16, 4⟩
def DMC_SCHED_URGENT (c : Nat) : Fld := ⟨0x1000030 + 0x80000 * c, 20, 12⟩
def DMC_NODL_NODL_TICKS (c : Nat) : Fld := ⟨0x1000034 + 0x80000 * c, 0, 16⟩
def DMC_NODL_ROW_IDLE (c : Nat) : Fld := ⟨0x1000034 + 0x80000 * c, 16, 16⟩
def DMC_PD_PD_IDLE (c : Nat) : Fld := ⟨0x1000040 + 0x80000 * c, 0, 16⟩
def DMC_PD_PD_ALLOW (c : Nat) : Fld := ⟨0x1000040 + 0x80000 * c, 16, 16⟩
def DMC_SR_SR_ALLOW (c : Nat) : Fld := ⟨0x1000044 + 0x80000 * c, 0, 16⟩
def DMC_SR_SR_IDLE (c : Nat) : Fld := ⟨0x1000044 + 0x80000 * c, 16, 12⟩
def DMC_REF_CFG_POSTPONE_MAX (c : Nat) : Fld := ⟨0x1000048 + 0x80000 * c, 0, 4⟩
def DMC_REF_CFG_PULLIN_MAX (c : Nat) : Fld := ⟨0x1000048 + 0x80000 * c, 4, 4⟩
def DMC_RANK_STATE_IN_PD (c : Nat) : Fld := ⟨0x1000050 + 0x80000 * c, 0, 16⟩
def DMC_RANK_STATE_IN_SR (c : Nat) : Fld := ⟨0x1000050 + 0x80000 * c, 16, 16⟩
def DMC_REF_STATUS_FORCED_REFAB (c : Nat) : Fld := ⟨0x1000054 + 0x80000 * c, 0, 16⟩
def DMC_REF_STATUS_HOT_RANKS (c : Nat) : Fld := ⟨0x1000054 + 0x80000 * c, 16, 16⟩
def DMC_TRN_CTL_TRN_VREF_LO (c : Nat) : Fld := ⟨0x1001000 + 0x80000 * c, 0, 7⟩
def DMC_TRN_CTL_TRN_VREF_HI (c : Nat) : Fld := ⟨0x1001000 + 0x80000 * c, 8, 7⟩
def DMC_TRN_CTL_RECAL_EN (c : Nat) : Fld := ⟨0x1001000 + 0x80000 * c, 15, 1⟩
def DMC_TRN_CTL_TRN_MIN_WIDTH (c : Nat) : Fld := ⟨0x1001000 + 0x80000 * c, 16, 6⟩
def DMC_TRN_CTL_TRN_MARGIN_LOW (c : Nat) : Fld := ⟨0x1001000 + 0x80000 * c, 24, 6⟩
def DMC_TRN_CTL2_RECAL_MAX (c : Nat) : Fld := ⟨0x1001004 + 0x80000 * c, 0, 10⟩
def DMC_TRN_STATUS_STATE (c : Nat) : Fld := ⟨0x1001008 + 0x80000 * c, 0, 2⟩
def DMC_TRN_STATUS_FAST (c : Nat) : Fld := ⟨0x1001008 + 0x80000 * c, 2, 1⟩
def DMC_TRN_STATUS_FAIL_LANE (c : Nat) : Fld := ⟨0x1001008 + 0x80000 * c, 3, 8⟩
def DMC_TRN_STATUS_LOW_MARGIN (c : Nat) : Fld := ⟨0x1001008 + 0x80000 * c, 11, 1⟩
def DMC_TRN_STATUS_VISITED (c : Nat) : Fld := ⟨0x1001008 + 0x80000 * c, 12, 8⟩
def DMC_TRN_STATUS_FORCED (c : Nat) : Fld := ⟨0x1001008 + 0x80000 * c, 20, 12⟩
def DMC_TRN_SEL_SET (c : Nat) : Fld := ⟨0x100100C + 0x80000 * c, 0, 4⟩
def DMC_TEMP_TEMP (c : Nat) : Fld := ⟨0x1001010 + 0x80000 * c, 0, 12⟩
def DMC_TRN_LANE_RD_DLY0 (c n : Nat) : Fld := ⟨0x1001100 + 0x80000 * c + 0x8 * n, 0, 8⟩
def DMC_TRN_LANE_RD_DLY1 (c n : Nat) : Fld := ⟨0x1001100 + 0x80000 * c + 0x8 * n, 8, 8⟩
def DMC_TRN_LANE_RD_VREF (c n : Nat) : Fld := ⟨0x1001100 + 0x80000 * c + 0x8 * n, 16, 7⟩
def DMC_TRN_LANE_WR_VREF (c n : Nat) : Fld := ⟨0x1001100 + 0x80000 * c + 0x8 * n, 23, 7⟩
def DMC_TRN_LANE_WR_DLY0 (c n : Nat) : Fld := ⟨0x1001100 + 0x80000 * c + 0x8 * n, 32, 11⟩
def DMC_TRN_LANE_WR_DLY1 (c n : Nat) : Fld := ⟨0x1001100 + 0x80000 * c + 0x8 * n, 43, 11⟩
def DMC_TRN_EYE_RD_WIDTH (c n : Nat) : Fld := ⟨0x1001600 + 0x80000 * c + 0x4 * n, 0, 8⟩
def DMC_TRN_EYE_WR_WIDTH (c n : Nat) : Fld := ⟨0x1001600 + 0x80000 * c + 0x4 * n, 8, 8⟩
def DMC_TRN_EYE_RD_HEIGHT (c n : Nat) : Fld := ⟨0x1001600 + 0x80000 * c + 0x4 * n, 16, 7⟩
def DMC_TRN_EYE_WR_HEIGHT (c n : Nat) : Fld := ⟨0x1001600 + 0x80000 * c + 0x4 * n, 23, 7⟩
def GTH_VREF_VALUE_VALUE : Fld := ⟨0x2100100, 0, 22⟩
def GTH_VREF_VALUE_LOCK : Fld := ⟨0x2100100, 31, 1⟩
def GTH_CAL_STATUS_GTH_CAL_DONE : Fld := ⟨0x2100104, 0, 1⟩
def GTH_CAL_STATUS_DIE_CAL_DONE : Fld := ⟨0x2100104, 1, 1⟩
def GTH_CAL_STATUS_REF_LOST : Fld := ⟨0x2100104, 2, 1⟩
def GTH_CAL_STATUS_REF_LOST_SEEN : Fld := ⟨0x2100104, 3, 1⟩
def GTH_CAL_STATUS_COPY_ERR : Fld := ⟨0x2100104, 4, 16⟩
def DMC_CE_TOTAL_CE (c : Nat) : Fld := ⟨0x1002000 + 0x80000 * c, 0, 32⟩
def DMC_UE_TOTAL_UE (c : Nat) : Fld := ⟨0x1002004 + 0x80000 * c, 0, 16⟩
def DMC_UE_TOTAL_RETRY_OK (c : Nat) : Fld := ⟨0x1002004 + 0x80000 * c, 16, 16⟩
def DMC_UE_LAST_LINE (c : Nat) : Fld := ⟨0x1002008 + 0x80000 * c, 0, 34⟩
def DMC_FAULT_LOST (c : Nat) : Fld := ⟨0x1002010 + 0x80000 * c, 0, 1⟩
def DMC_FAULT_CAUSE (c : Nat) : Fld := ⟨0x1002010 + 0x80000 * c, 1, 2⟩
def DMC_FAULT_LINK_LOST (c : Nat) : Fld := ⟨0x1002010 + 0x80000 * c, 3, 1⟩
def DMC_CE_BANK_EVEN (c j : Nat) : Fld := ⟨0x1002100 + 0x80000 * c + 0x4 * j, 0, 16⟩
def DMC_CE_BANK_ODD (c j : Nat) : Fld := ⟨0x1002100 + 0x80000 * c + 0x4 * j, 16, 16⟩
def DMC_CE_LOG_CTL_NEXT (c : Nat) : Fld := ⟨0x1002500 + 0x80000 * c, 0, 5⟩
def DMC_CE_LOG_CTL_OVF (c : Nat) : Fld := ⟨0x1002500 + 0x80000 * c, 5, 1⟩
def DMC_CE_LOG_CTL_FREEZE (c : Nat) : Fld := ⟨0x1002500 + 0x80000 * c, 6, 1⟩
def DMC_CE_LOG_CTL_MISSED (c : Nat) : Fld := ⟨0x1002500 + 0x80000 * c, 16, 16⟩
def DMC_CE_LOG_LINE (c e : Nat) : Fld := ⟨0x1002600 + 0x80000 * c + 0x10 * e, 0, 34⟩
def DMC_CE_LOG_DEVICE (c e : Nat) : Fld := ⟨0x1002600 + 0x80000 * c + 0x10 * e, 34, 4⟩
def DMC_CE_LOG_SUBCH (c e : Nat) : Fld := ⟨0x1002600 + 0x80000 * c + 0x10 * e, 38, 1⟩
def DMC_CE_LOG_LR (c e : Nat) : Fld := ⟨0x1002600 + 0x80000 * c + 0x10 * e, 39, 4⟩
def DMC_CE_LOG_BG (c e : Nat) : Fld := ⟨0x1002600 + 0x80000 * c + 0x10 * e, 43, 3⟩
def DMC_CE_LOG_BA (c e : Nat) : Fld := ⟨0x1002600 + 0x80000 * c + 0x10 * e, 46, 2⟩
def DMC_CE_LOG_SOURCE (c e : Nat) : Fld := ⟨0x1002600 + 0x80000 * c + 0x10 * e, 48, 3⟩
def DMC_CE_LOG_HARD (c e : Nat) : Fld := ⟨0x1002600 + 0x80000 * c + 0x10 * e, 51, 1⟩
def DMC_CE_LOG_REMAPPED (c e : Nat) : Fld := ⟨0x1002600 + 0x80000 * c + 0x10 * e, 52, 1⟩
def DMC_CE_LOG_CORR_BITS (c e : Nat) : Fld := ⟨0x1002600 + 0x80000 * c + 0x10 * e, 53, 7⟩
def DMC_CE_LOG_TIME (c e : Nat) : Fld := ⟨0x1002600 + 0x80000 * c + 0x10 * e, 64, 48⟩
def DMC_REMAP_CTL_USED (c : Nat) : Fld := ⟨0x1002800 + 0x80000 * c, 0, 7⟩
def DMC_REMAP_CTL_FULL (c : Nat) : Fld := ⟨0x1002800 + 0x80000 * c, 7, 1⟩
def DMC_REMAP_CTL_BAD_SPARES (c : Nat) : Fld := ⟨0x1002800 + 0x80000 * c, 8, 10⟩
def DMC_REMAP_VALID (c e : Nat) : Fld := ⟨0x1002900 + 0x80000 * c + 0x8 * e, 0, 1⟩
def DMC_REMAP_LINE (c e : Nat) : Fld := ⟨0x1002900 + 0x80000 * c + 0x8 * e, 1, 34⟩
def DMC_REMAP_SPARE (c e : Nat) : Fld := ⟨0x1002900 + 0x80000 * c + 0x8 * e, 35, 10⟩
def DMC_REMAP_DEVICE (c e : Nat) : Fld := ⟨0x1002900 + 0x80000 * c + 0x8 * e, 45, 4⟩
def DMC_PPR_VALID (c j : Nat) : Fld := ⟨0x1002C00 + 0x80000 * c + 0x8 * j, 0, 1⟩
def DMC_PPR_LR (c j : Nat) : Fld := ⟨0x1002C00 + 0x80000 * c + 0x8 * j, 1, 4⟩
def DMC_PPR_SUBCH (c j : Nat) : Fld := ⟨0x1002C00 + 0x80000 * c + 0x8 * j, 5, 1⟩
def DMC_PPR_BG (c j : Nat) : Fld := ⟨0x1002C00 + 0x80000 * c + 0x8 * j, 6, 3⟩
def DMC_PPR_BA (c j : Nat) : Fld := ⟨0x1002C00 + 0x80000 * c + 0x8 * j, 9, 2⟩
def DMC_PPR_ROW (c j : Nat) : Fld := ⟨0x1002C00 + 0x80000 * c + 0x8 * j, 11, 17⟩
def DMC_PPR_DEVICE (c j : Nat) : Fld := ⟨0x1002C00 + 0x80000 * c + 0x8 * j, 28, 4⟩
def DMC_PPR_RESULT (c j : Nat) : Fld := ⟨0x1002C00 + 0x80000 * c + 0x8 * j, 32, 2⟩
def TRL_RAKE_CFG_PERIOD_H : Fld := ⟨0x109000, 0, 8⟩
def TRL_RAKE_STATUS_ROUNDS : Fld := ⟨0x109004, 0, 16⟩
def TRL_RAKE_STATUS_LATE : Fld := ⟨0x109004, 16, 1⟩
def GLB_WDN_STATUS_STATE : Fld := ⟨0x100, 0, 2⟩
def GLB_WDN_STATUS_HEALTHY : Fld := ⟨0x100, 2, 8⟩
def GLB_WDN_STATUS_OFFLINE : Fld := ⟨0x100, 10, 8⟩
def GLB_WDN_STATUS_SAFE_CAUSE : Fld := ⟨0x100, 18, 3⟩
def GLB_WDN_STATUS_SR_CLEAN : Fld := ⟨0x100, 21, 1⟩
def GLB_WDN_STATUS_FENCE_EXPIRED : Fld := ⟨0x100, 22, 1⟩
def GLB_WDN_CFG_WDG_MS : Fld := ⟨0x104, 0, 10⟩
def GLB_WDN_KICK_KICK (p : Nat) : Fld := ⟨0x110 + 0x4 * p, 0, 32⟩
def GLB_WDN_DUTY_OWNERS : Fld := ⟨0x120, 0, 32⟩
def GLB_WDN_FAILS_FAILS : Fld := ⟨0x124, 0, 32⟩
def QOS_CFG_LEND_CLASS : Fld := ⟨0x200000, 0, 6⟩
def QOS_G_G : Fld := ⟨0x200010, 0, 21⟩
def QOS_G_SUM_SUM : Fld := ⟨0x200014, 0, 21⟩
def QOS_G_SUM_SHED_COUNT : Fld := ⟨0x200014, 21, 7⟩
def QOS_DERATE_LEVELS : Fld := ⟨0x200020, 0, 32⟩
def QOS_BE_SCALE_SCALE : Fld := ⟨0x200024, 0, 8⟩
def QOS_GRAFT_G_G_GRAFT : Fld := ⟨0x200028, 0, 17⟩
def QOS_CH_G_G_C (c : Nat) : Fld := ⟨0x200040 + 0x4 * c, 0, 17⟩
def QOS_CH_G_HOT (c : Nat) : Fld := ⟨0x200040 + 0x4 * c, 17, 1⟩
def QOS_HEAD_MAP_CLASS_0 (h w : Nat) : Fld := ⟨0x200200 + 0x20 * h + 0x4 * w, 0, 6⟩
def QOS_HEAD_MAP_VALID_0 (h w : Nat) : Fld := ⟨0x200200 + 0x20 * h + 0x4 * w, 6, 1⟩
def QOS_HEAD_MAP_CLASS_1 (h w : Nat) : Fld := ⟨0x200200 + 0x20 * h + 0x4 * w, 8, 6⟩
def QOS_HEAD_MAP_VALID_1 (h w : Nat) : Fld := ⟨0x200200 + 0x20 * h + 0x4 * w, 14, 1⟩
def QOS_HEAD_MAP_CLASS_2 (h w : Nat) : Fld := ⟨0x200200 + 0x20 * h + 0x4 * w, 16, 6⟩
def QOS_HEAD_MAP_VALID_2 (h w : Nat) : Fld := ⟨0x200200 + 0x20 * h + 0x4 * w, 22, 1⟩
def QOS_HEAD_MAP_CLASS_3 (h w : Nat) : Fld := ⟨0x200200 + 0x20 * h + 0x4 * w, 24, 6⟩
def QOS_HEAD_MAP_VALID_3 (h w : Nat) : Fld := ⟨0x200200 + 0x20 * h + 0x4 * w, 30, 1⟩
def QOS_HEAD_CTL_DEFAULT_LABEL (h : Nat) : Fld := ⟨0x200210 + 0x20 * h, 0, 4⟩
def QOS_CLASS_FLOOR_FLOOR (c : Nat) : Fld := ⟨0x201000 + 0x20 * c, 0, 20⟩
def QOS_CLASS_BUDGET_BUDGET (c : Nat) : Fld := ⟨0x201004 + 0x20 * c, 0, 20⟩
def QOS_CLASS_DL1_DL (c : Nat) : Fld := ⟨0x201008 + 0x20 * c, 0, 17⟩
def QOS_CLASS_DL2_DL (c : Nat) : Fld := ⟨0x20100C + 0x20 * c, 0, 17⟩
def QOS_CLASS_DL3_DL (c : Nat) : Fld := ⟨0x201010 + 0x20 * c, 0, 17⟩
def QOS_CLASS_CTL_VALID (c : Nat) : Fld := ⟨0x201014 + 0x20 * c, 0, 1⟩
def QOS_CLASS_CTL_BASE_TIER (c : Nat) : Fld := ⟨0x201014 + 0x20 * c, 1, 2⟩
def QOS_CLASS_CTL_SHED_RANK (c : Nat) : Fld := ⟨0x201014 + 0x20 * c, 8, 8⟩
def QOS_CLASS_CTL_SHED (c : Nat) : Fld := ⟨0x201014 + 0x20 * c, 16, 1⟩
def QOS_CLASS_CTL_BOOSTED (c : Nat) : Fld := ⟨0x201014 + 0x20 * c, 17, 1⟩
def QOS_CLASS_CTL_OVER (c : Nat) : Fld := ⟨0x201014 + 0x20 * c, 18, 1⟩
def QOS_CLASS_MISS_DL_MISSES (c : Nat) : Fld := ⟨0x201018 + 0x20 * c, 0, 16⟩
def QOS_CLASS_MISS_FLOOR_MISSES (c : Nat) : Fld := ⟨0x201018 + 0x20 * c, 16, 8⟩
def QOS_CLASS_MISS_LAST_CAUSE (c : Nat) : Fld := ⟨0x201018 + 0x20 * c, 24, 3⟩
def QOS_CLASS_EFF_BUDGET_EFF_BUDGET (c : Nat) : Fld := ⟨0x20101C + 0x20 * c, 0, 20⟩
def GLB_GOV_CFG_PWR_LIMIT : Fld := ⟨0x200, 0, 16⟩
def GLB_GOV_TEMP_TJ_HIGH : Fld := ⟨0x204, 0, 8⟩
def GLB_GOV_TEMP_DIMM_HIGH : Fld := ⟨0x204, 8, 8⟩
def GLB_GOV_TEMP_NO_PD_AT_FULL : Fld := ⟨0x204, 16, 1⟩
def GLB_GOV_STATUS_LEVEL : Fld := ⟨0x208, 0, 3⟩
def GLB_GOV_STATUS_PWR_LEVEL : Fld := ⟨0x208, 3, 3⟩
def GLB_GOV_STATUS_THERM_LEVEL : Fld := ⟨0x208, 6, 3⟩
def GLB_GOV_STATUS_PWR_LOST : Fld := ⟨0x208, 9, 1⟩
def GLB_GOV_STATUS_TEMP_LOST : Fld := ⟨0x208, 10, 1⟩
def GLB_GOV_STATUS_BACKSTOP : Fld := ⟨0x208, 11, 1⟩
def GLB_GOV_STATUS_OWNER : Fld := ⟨0x208, 12, 4⟩
def GLB_GOV_STATUS_LEVEL0_INTERVALS : Fld := ⟨0x208, 16, 16⟩
def GLB_GOV_POWER_P_AVG : Fld := ⟨0x20C, 0, 16⟩
def GLB_GOV_POWER_P_PEAK : Fld := ⟨0x20C, 16, 16⟩
def GLB_GOV_HOT_DIE_MAX : Fld := ⟨0x210, 0, 12⟩
def GLB_GOV_HOT_DIE_SRC : Fld := ⟨0x210, 12, 4⟩
def GLB_GOV_HOT_DIMM_MAX : Fld := ⟨0x210, 16, 12⟩
def GLB_GOV_HOT_DIMM_CH : Fld := ⟨0x210, 28, 4⟩
def GTH_CTL_A_SW_EN : Fld := ⟨0x2100000, 0, 1⟩
def GTH_CTL_B_SW_EN : Fld := ⟨0x2100000, 1, 1⟩
def GTH_CTL_PRI : Fld := ⟨0x2100000, 2, 1⟩
def GTH_CTL_AUTO_RETURN : Fld := ⟨0x2100000, 3, 1⟩
def GTH_CTL_CLEAR_A : Fld := ⟨0x2100000, 4, 1⟩
def GTH_CTL_CLEAR_B : Fld := ⟨0x2100000, 5, 1⟩
def GTH_CTL_CLR_ENERGY_A : Fld := ⟨0x2100000, 6, 1⟩
def GTH_CTL_CLR_ENERGY_B : Fld := ⟨0x2100000, 7, 1⟩
def GTH_CTL_LOCK : Fld := ⟨0x2100000, 31, 1⟩
def GTH_TIMING_INS_DELAY : Fld := ⟨0x2100004, 0, 8⟩
def GTH_TIMING_COOLDOWN : Fld := ⟨0x2100004, 8, 8⟩
def GTH_TIMING_RAMP : Fld := ⟨0x2100004, 16, 7⟩
def GTH_TIMING_PG_QUAL : Fld := ⟨0x2100004, 24, 8⟩
def GTH_OUT_CFG_OUT_UV : Fld := ⟨0x2100008, 0, 10⟩
def GTH_OUT_CFG_OUT_OV : Fld := ⟨0x2100008, 10, 10⟩
def GTH_OUT_CFG_SW_RAMP : Fld := ⟨0x2100008, 20, 4⟩
def GTH_OUT_CFG_BBM_GAP : Fld := ⟨0x2100008, 24, 7⟩
def GTH_STATUS_PG_OUT : Fld := ⟨0x210000C, 0, 1⟩
def GTH_STATUS_OUT_IN_WINDOW : Fld := ⟨0x210000C, 1, 1⟩
def GTH_STATUS_SELECTED : Fld := ⟨0x210000C, 2, 2⟩
def GTH_STATUS_SETTINGS_OTP : Fld := ⟨0x210000C, 4, 1⟩
def GTH_STATUS_CFG_DEFAULTED : Fld := ⟨0x210000C, 5, 1⟩
def GTH_STATUS_SWITCHOVERS : Fld := ⟨0x210000C, 16, 16⟩
def GTH_FEED_A_CFG_UV : Fld := ⟨0x2100010, 0, 10⟩
def GTH_FEED_A_CFG_OV : Fld := ⟨0x2100010, 10, 10⟩
def GTH_FEED_B_CFG_UV : Fld := ⟨0x2100020, 0, 10⟩
def GTH_FEED_B_CFG_OV : Fld := ⟨0x2100020, 10, 10⟩
def GTH_FEED_A_BREAKER_CB : Fld := ⟨0x2100014, 0, 10⟩
def GTH_FEED_A_BREAKER_FAST_MULT : Fld := ⟨0x2100014, 10, 4⟩
def GTH_FEED_A_BREAKER_FLT_TIME : Fld := ⟨0x2100014, 14, 8⟩
def GTH_FEED_B_BREAKER_CB : Fld := ⟨0x2100024, 0, 10⟩
def GTH_FEED_B_BREAKER_FAST_MULT : Fld := ⟨0x2100024, 10, 4⟩
def GTH_FEED_B_BREAKER_FLT_TIME : Fld := ⟨0x2100024, 14, 8⟩
def GTH_FEED_A_SHUNT_RSHUNT : Fld := ⟨0x2100018, 0, 16⟩
def GTH_FEED_B_SHUNT_RSHUNT : Fld := ⟨0x2100028, 0, 16⟩
def GTH_FEED_A_STATUS_STATE : Fld := ⟨0x210001C, 0, 3⟩
def GTH_FEED_A_STATUS_IN_WINDOW : Fld := ⟨0x210001C, 3, 1⟩
def GTH_FEED_A_STATUS_EN_PIN : Fld := ⟨0x210001C, 4, 1⟩
def GTH_FEED_A_STATUS_FLT_RUNNING : Fld := ⟨0x210001C, 5, 1⟩
def GTH_FEED_A_STATUS_TRIP_CAUSE : Fld := ⟨0x210001C, 6, 3⟩
def GTH_FEED_A_STATUS_UV_SEEN : Fld := ⟨0x210001C, 9, 1⟩
def GTH_FEED_A_STATUS_OV_SEEN : Fld := ⟨0x210001C, 10, 1⟩
def GTH_FEED_A_STATUS_TRIPS : Fld := ⟨0x210001C, 16, 16⟩
def GTH_FEED_B_STATUS_STATE : Fld := ⟨0x210002C, 0, 3⟩
def GTH_FEED_B_STATUS_IN_WINDOW : Fld := ⟨0x210002C, 3, 1⟩
def GTH_FEED_B_STATUS_EN_PIN : Fld := ⟨0x210002C, 4, 1⟩
def GTH_FEED_B_STATUS_FLT_RUNNING : Fld := ⟨0x210002C, 5, 1⟩
def GTH_FEED_B_STATUS_TRIP_CAUSE : Fld := ⟨0x210002C, 6, 3⟩
def GTH_FEED_B_STATUS_UV_SEEN : Fld := ⟨0x210002C, 9, 1⟩
def GTH_FEED_B_STATUS_OV_SEEN : Fld := ⟨0x210002C, 10, 1⟩
def GTH_FEED_B_STATUS_TRIPS : Fld := ⟨0x210002C, 16, 16⟩
def GTH_FEED_A_VOLT_MV : Fld := ⟨0x2100040, 0, 17⟩
def GTH_FEED_B_VOLT_MV : Fld := ⟨0x2100060, 0, 17⟩
def GTH_FEED_A_CURR_MA : Fld := ⟨0x2100044, 0, 20⟩
def GTH_FEED_B_CURR_MA : Fld := ⟨0x2100064, 0, 20⟩
def GTH_FEED_A_POWER_P : Fld := ⟨0x2100048, 0, 24⟩
def GTH_FEED_B_POWER_P : Fld := ⟨0x2100068, 0, 24⟩
def GTH_FEED_A_ENERGY_MJ : Fld := ⟨0x2100050, 0, 64⟩
def GTH_FEED_B_ENERGY_MJ : Fld := ⟨0x2100070, 0, 64⟩
def GFT_CFG_DEV_ID : Fld := ⟨0x2000000, 0, 14⟩
def GFT_CFG_ID_VALID : Fld := ⟨0x2000000, 14, 1⟩
def GFT_CFG_LENDING_EN : Fld := ⟨0x2000000, 15, 1⟩
def GFT_CFG_PORT_EN : Fld := ⟨0x2000000, 16, 2⟩
def GFT_CFG_REPLAY_LIMIT : Fld := ⟨0x2000000, 18, 3⟩
def GFT_CFG_CFG_LOCK : Fld := ⟨0x2000000, 31, 1⟩
def GFT_DOMAIN_TAG : Fld := ⟨0x2000004, 0, 32⟩
def GFT_LEASE_CFG_REQ_GIB : Fld := ⟨0x2000008, 0, 9⟩
def GFT_LEASE_CFG_TERM_S : Fld := ⟨0x2000008, 9, 7⟩
def GFT_LEASE_CFG_RECALL_S : Fld := ⟨0x2000008, 16, 10⟩
def GFT_LEASE_CFG_BORROW_EN : Fld := ⟨0x2000008, 26, 1⟩
def GFT_LEND_STATUS_GRANTED : Fld := ⟨0x200000C, 0, 7⟩
def GFT_LEND_STATUS_FREE_GIB : Fld := ⟨0x200000C, 7, 13⟩
def GFT_PORT_STATUS_STATE (g : Nat) : Fld := ⟨0x2000100 + 0x10 * g, 0, 3⟩
def GFT_PORT_STATUS_WIDTH (g : Nat) : Fld := ⟨0x2000100 + 0x10 * g, 3, 2⟩
def GFT_PORT_STATUS_RATE (g : Nat) : Fld := ⟨0x2000100 + 0x10 * g, 5, 1⟩
def GFT_PORT_STATUS_FULL (g : Nat) : Fld := ⟨0x2000100 + 0x10 * g, 6, 1⟩
def GFT_PORT_STATUS_RX_DISCARD (g : Nat) : Fld := ⟨0x2000100 + 0x10 * g, 7, 1⟩
def GFT_PORT_STATUS_PEER_ID (g : Nat) : Fld := ⟨0x2000100 + 0x10 * g, 8, 14⟩
def GFT_PORT_STATUS_PEER_VALID (g : Nat) : Fld := ⟨0x2000100 + 0x10 * g, 22, 1⟩
def GFT_PORT_ERR_CRC_FAILS (g : Nat) : Fld := ⟨0x2000104 + 0x10 * g, 0, 16⟩
def GFT_PORT_ERR_REPLAYS_TOTAL (g : Nat) : Fld := ⟨0x2000104 + 0x10 * g, 16, 8⟩
def GFT_PORT_ERR_RETRAINS (g : Nat) : Fld := ⟨0x2000104 + 0x10 * g, 24, 8⟩
def GFT_PORT_SEQ_TX_OLDEST (g : Nat) : Fld := ⟨0x2000108 + 0x10 * g, 0, 12⟩
def GFT_PORT_SEQ_RX_EXPECTED (g : Nat) : Fld := ⟨0x2000108 + 0x10 * g, 12, 12⟩
def GFT_PORT_SEQ_REPLAYS (g : Nat) : Fld := ⟨0x2000108 + 0x10 * g, 24, 4⟩
def GFT_BORROW_VALID (n : Nat) : Fld := ⟨0x2001000 + 0x10 * n, 0, 1⟩
def GFT_BORROW_STATE (n : Nat) : Fld := ⟨0x2001000 + 0x10 * n, 1, 2⟩
def GFT_BORROW_PEER_ID (n : Nat) : Fld := ⟨0x2001000 + 0x10 * n, 3, 14⟩
def GFT_BORROW_SIZE_GIB (n : Nat) : Fld := ⟨0x2001000 + 0x10 * n, 17, 9⟩
def GFT_BORROW_BW_GRANT (n : Nat) : Fld := ⟨0x2001000 + 0x10 * n, 26, 17⟩
def GFT_BORROW_USED_UNITS (n : Nat) : Fld := ⟨0x2001008 + 0x10 * n, 0, 30⟩
def GFT_LENT_VALID (n : Nat) : Fld := ⟨0x2002000 + 0x8 * n, 0, 1⟩
def GFT_LENT_RECALLING (n : Nat) : Fld := ⟨0x2002000 + 0x8 * n, 1, 1⟩
def GFT_LENT_PEER_ID (n : Nat) : Fld := ⟨0x2002000 + 0x8 * n, 2, 14⟩
def GFT_LENT_PEER_LEASE (n : Nat) : Fld := ⟨0x2002000 + 0x8 * n, 16, 6⟩
def GFT_LENT_BASE (n : Nat) : Fld := ⟨0x2002000 + 0x8 * n, 22, 17⟩
def GFT_LENT_SIZE_GIB (n : Nat) : Fld := ⟨0x2002000 + 0x8 * n, 39, 9⟩
def OTP_STATUS_GEN_VALID : Fld := ⟨0x2400000, 0, 4⟩
def OTP_STATUS_GEN_IN_USE : Fld := ⟨0x2400000, 4, 2⟩
def OTP_STATUS_NONE_VALID : Fld := ⟨0x2400000, 6, 1⟩
def OTP_STATUS_KEY_PRESENT : Fld := ⟨0x2400000, 7, 4⟩
def OTP_STATUS_KEY_REVOKED : Fld := ⟨0x2400000, 11, 4⟩
def OTP_STATUS_PROGRAMMING : Fld := ⟨0x2400000, 15, 1⟩
def BOOT_STATUS_STATE : Fld := ⟨0x2400004, 0, 2⟩
def BOOT_STATUS_SLOT : Fld := ⟨0x2400004, 2, 1⟩
def BOOT_STATUS_KEY : Fld := ⟨0x2400004, 3, 2⟩
def BOOT_STATUS_FAIL_A : Fld := ⟨0x2400004, 5, 3⟩
def BOOT_STATUS_FAIL_B : Fld := ⟨0x2400004, 8, 3⟩
def BOOT_STATUS_RECORD_BAD : Fld := ⟨0x2400004, 11, 1⟩
def BOOT_STATUS_SVN : Fld := ⟨0x2400004, 12, 8⟩
def CAT_GRP_CTL_EN (g : Nat) : Fld := ⟨0x2200000 + 0x100 * g, 0, 1⟩
def CAT_GRP_CTL_FREEZE (g : Nat) : Fld := ⟨0x2200000 + 0x100 * g, 1, 1⟩
def CAT_GRP_CTL_CLEAR (g : Nat) : Fld := ⟨0x2200000 + 0x100 * g, 2, 1⟩
def CAT_GRP_CTL_OWNER (g : Nat) : Fld := ⟨0x2200000 + 0x100 * g, 3, 6⟩
def CAT_GRP_CTL_OWNED (g : Nat) : Fld := ⟨0x2200000 + 0x100 * g, 9, 1⟩
def CAT_GRP_CTL_OVF (g : Nat) : Fld := ⟨0x2200000 + 0x100 * g, 10, 8⟩
def CAT_GRP_CTL_TICK_OVF (g : Nat) : Fld := ⟨0x2200000 + 0x100 * g, 18, 1⟩
def CAT_GRP_FILTER_HEAD_MASK (g : Nat) : Fld := ⟨0x2200004 + 0x100 * g, 0, 16⟩
def CAT_GRP_FILTER_CLASS (g : Nat) : Fld := ⟨0x2200004 + 0x100 * g, 16, 6⟩
def CAT_GRP_FILTER_ANY_CLASS (g : Nat) : Fld := ⟨0x2200004 + 0x100 * g, 22, 1⟩
def CAT_GRP_EVSEL_EVENT_2j (g j : Nat) : Fld := ⟨0x2200008 + 0x100 * g + 0x4 * j, 0, 16⟩
def CAT_GRP_EVSEL_EVENT_2j_1 (g j : Nat) : Fld := ⟨0x2200008 + 0x100 * g + 0x4 * j, 16, 16⟩
def CAT_GRP_TICKS_TICKS (g : Nat) : Fld := ⟨0x2200020 + 0x100 * g, 0, 48⟩
def CAT_GRP_CNT_COUNT (g k : Nat) : Fld := ⟨0x2200040 + 0x100 * g + 0x8 * k, 0, 48⟩
def CAT_SAMP_CTL_ENABLE : Fld := ⟨0x2202000, 0, 1⟩
def CAT_SAMP_CTL_CLASS : Fld := ⟨0x2202000, 8, 8⟩
def CAT_SAMP_CTL_PERIOD : Fld := ⟨0x2202000, 16, 16⟩
def CAT_SAMP_HEADS_HEAD_MASK : Fld := ⟨0x2202004, 0, 16⟩
def CAT_SAMP_STATUS_NEXT : Fld := ⟨0x2202008, 0, 12⟩
def CAT_SAMP_STATUS_WRAPPED : Fld := ⟨0x2202008, 12, 1⟩
def CAT_SAMP_TOTAL_TOTAL : Fld := ⟨0x220200C, 0, 32⟩
def CAT_SAMP_RING_RECORD (e : Nat) : Fld := ⟨0x2210000 + 0x20 * e, 0, 256⟩
def CAT_GATHER_CTL_START : Fld := ⟨0x2203000, 0, 1⟩
def CAT_GATHER_STATUS_VALID (b : Nat) : Fld := ⟨0x2203010 + 0x10 * b, 0, 1⟩
def CAT_GATHER_STATUS_BUSY (b : Nat) : Fld := ⟨0x2203010 + 0x10 * b, 1, 1⟩
def CAT_GATHER_STATUS_TRIGGER (b : Nat) : Fld := ⟨0x2203010 + 0x10 * b, 2, 3⟩
def CAT_GATHER_STATUS_ABANDONED (b : Nat) : Fld := ⟨0x2203010 + 0x10 * b, 5, 1⟩
def CAT_GATHER_STATUS_SEQ (b : Nat) : Fld := ⟨0x2203010 + 0x10 * b, 8, 8⟩
def CAT_GATHER_STATUS_TICK (b : Nat) : Fld := ⟨0x2203010 + 0x10 * b, 16, 48⟩
def CAT_USER_EN_USER : Fld := ⟨0x2204000, 0, 64⟩
def ALR_ALERT_SUMMARY_TRL_to_DIR : Fld := ⟨0x2300000, 0, 6⟩
def ALR_ALERT_SUMMARY_DMC : Fld := ⟨0x2300000, 6, 1⟩
def ALR_ALERT_SUMMARY_GFT_to_OTP : Fld := ⟨0x2300000, 7, 4⟩
def ALR_ALERT_SUMMARY_LOG_OVF : Fld := ⟨0x2300000, 11, 1⟩
def ALR_ALERT_SUMMARY_SAFE : Fld := ⟨0x2300000, 12, 1⟩
def ALR_ALERT_MASK_MASK : Fld := ⟨0x2300004, 0, 12⟩
def ALR_DMC_SUMMARY_CH : Fld := ⟨0x2300008, 0, 16⟩
def ALR_ALERT_CFG_MIN_SEV : Fld := ⟨0x230000C, 0, 2⟩
def ALR_LOG_STATUS_NEXT : Fld := ⟨0x2300010, 0, 10⟩
def ALR_LOG_STATUS_OVF : Fld := ⟨0x2300010, 10, 1⟩
def ALR_CAUSE_CAUSE (b : Nat) : Fld := ⟨0x2300100 + 4 * b, 1, 31⟩
def ALR_CAUSE_MASK_MASK (b : Nat) : Fld := ⟨0x2300200 + 4 * b, 1, 31⟩
def ALR_LOG_CODE (e : Nat) : Fld := ⟨0x2308000 + 0x20 * e, 0, 16⟩
def ALR_LOG_SEV (e : Nat) : Fld := ⟨0x2308000 + 0x20 * e, 16, 2⟩
def ALR_LOG_LD (e : Nat) : Fld := ⟨0x2308000 + 0x20 * e, 18, 6⟩
def ALR_LOG_LD_VALID (e : Nat) : Fld := ⟨0x2308000 + 0x20 * e, 24, 1⟩
def ALR_LOG_REPEAT (e : Nat) : Fld := ⟨0x2308000 + 0x20 * e, 25, 7⟩
def ALR_LOG_SEQ (e : Nat) : Fld := ⟨0x2308000 + 0x20 * e, 32, 32⟩
def ALR_LOG_TICK (e : Nat) : Fld := ⟨0x2308000 + 0x20 * e, 64, 48⟩
def ALR_LOG_ARG0 (e : Nat) : Fld := ⟨0x2308000 + 0x20 * e, 128, 64⟩
def ALR_LOG_ARG1 (e : Nat) : Fld := ⟨0x2308000 + 0x20 * e, 192, 64⟩
def GLB_RST_CTL_WARM : Fld := ⟨0x60, 0, 1⟩
def GLB_RST_CTL_COLD : Fld := ⟨0x60, 1, 1⟩
def GLB_RST_CTL_MODE : Fld := ⟨0x60, 2, 1⟩
def GLB_RST_CTL_KEY : Fld := ⟨0x60, 16, 16⟩
def GLB_RST_STATUS_LAST_KIND : Fld := ⟨0x64, 0, 2⟩
def GLB_RST_STATUS_CAUSE : Fld := ⟨0x64, 2, 3⟩
def GLB_RST_STATUS_AFTER_SAFE : Fld := ⟨0x64, 5, 1⟩
def GLB_RST_STATUS_FORMATTED : Fld := ⟨0x64, 6, 1⟩
def GLB_RST_STATUS_PHASE : Fld := ⟨0x64, 7, 4⟩
def GLB_RST_STATUS_WARM_COUNT : Fld := ⟨0x64, 16, 16⟩
def GLB_HEAD_STATUS_EXISTS (h : Nat) : Fld := ⟨0x80 + 0x4 * h, 0, 1⟩
def GLB_HEAD_STATUS_LINK_UP (h : Nat) : Fld := ⟨0x80 + 0x4 * h, 1, 1⟩
def GLB_HEAD_STATUS_RATE (h : Nat) : Fld := ⟨0x80 + 0x4 * h, 2, 3⟩
def GLB_HEAD_STATUS_WIDTH (h : Nat) : Fld := ⟨0x80 + 0x4 * h, 5, 3⟩
def GLB_HEAD_STATUS_FLIT (h : Nat) : Fld := ⟨0x80 + 0x4 * h, 8, 2⟩
def GLB_HEAD_STATUS_MEM_OK (h : Nat) : Fld := ⟨0x80 + 0x4 * h, 10, 1⟩
def GLB_HEAD_STATUS_PSTATE (h : Nat) : Fld := ⟨0x80 + 0x4 * h, 11, 3⟩
def GLB_HEAD_STATUS_RETRAINS (h : Nat) : Fld := ⟨0x80 + 0x4 * h, 16, 8⟩
def CAT_RECOVERY_BUF_WORD (i : Nat) : Fld := ⟨0x2240000 + 0x4 * i, 0, 32⟩
def CAT_LATEST_BUF_WORD (i : Nat) : Fld := ⟨0x2242000 + 0x4 * i, 0, 32⟩

/-! ### The registers, by block -/

/-- Registers of the GLB block. GLB_WDN_KICK_4 and GLB_WDN_KICK_5 share the offsets 120h and 124h with GLB_WDN_DUTY and GLB_WDN_FAILS, whose rows stand first: a read there and what
a reset keeps follow DUTY and FAILS, and a write there is a kick (State.regStore). (DEDUCED, unsafe, log entry 76) -/
def tableGlb : List RegDef :=
  [{ base := 0x40, dims := [], size := 4, fields := [(f 0 7 .rwl (.oneOf [48, 56, 64, 72, 80, 88])).warm, f 7 24 .rsv, (f 31 1 .rwl).warm] },  -- GLB_CLK_CFG
   { base := 0x44, dims := [], size := 4, fields := [f 0 7 .ro, f 7 1 .ro, f 8 1 .ro, f 9 4 .ro, f 13 2 .ro, f 15 4 .ro, f 19 1 .ro, f 20 1 .rw1c, f 21 11 .rsv] },  -- GLB_CLK_STATUS
   { base := 0x50, dims := [], size := 4, fields := [(f 0 2 .rwl (.upTo 2)).warm, (f 2 2 .rwl (.upTo 2)).warm, (f 4 2 .rwl (.upTo 2)).warm, (f 6 2 .rwl (.upTo 2)).warm, (f 8 4 .rwl).warm, f 12 19 .rsv, (f 31 1 .rwl).warm] },  -- GLB_PORT_CFG
   { base := 0x0, dims := [], size := 4, fields := [f 0 16 .ro, f 16 8 .ro, f 24 8 .ro] },  -- GLB_ID
   { base := 0x8, dims := [], size := 8, fields := [f 0 64 .ro] },  -- GLB_SERIAL
   { base := 0x10, dims := [], size := 4, fields := [f 0 32 .ro] },  -- GLB_FW_ID
   { base := 0x14, dims := [], size := 4, fields := [f 0 8 .ro, f 8 24 .rsv] },  -- GLB_FW_SVN
   { base := 0x18, dims := [], size := 4, fields := [f 0 32 .ro] },  -- GLB_CAP_RAW
   { base := 0x1C, dims := [], size := 4, fields := [f 0 32 .ro] },  -- GLB_CAP_H
   { base := 0x20, dims := [], size := 4, fields := [f 0 16 .ro, f 16 7 .ro, f 23 9 .rsv] },  -- GLB_RATE
   { base := 0x24, dims := [], size := 4, fields := [f 0 14 .ro, f 14 1 .ro, f 15 17 .rsv] },  -- GLB_DEV
   { base := 0x100, dims := [], size := 4, fields := [f 0 2 .ro, f 2 8 .ro, (f 10 8 .ro).warm, (f 18 3 .ro).warm, (f 21 1 .ro).warm, f 22 1 .rw1c, f 23 9 .rsv] },  -- GLB_WDN_STATUS
   { base := 0x104, dims := [], size := 4, fields := [f 0 10 .rw (.clamp 1 1000), f 10 22 .rsv] },  -- GLB_WDN_CFG
   { base := 0x120, dims := [], size := 4, fields := [f 0 32 .ro] },  -- GLB_WDN_DUTY
   { base := 0x124, dims := [], size := 4, fields := [(f 0 32 .ro).warm] },  -- GLB_WDN_FAILS
   { base := 0x110, dims := [(0x4, 8)], size := 4, fields := [f 0 32 .wo] },  -- GLB_WDN_KICK
   { base := 0x200, dims := [], size := 4, fields := [(f 0 16 .rw).warm, f 16 16 .rsv] },  -- GLB_GOV_CFG
   { base := 0x204, dims := [], size := 4, fields := [(f 0 8 .rw (.clamp 60 100)).warm, (f 8 8 .rw (.clamp 60 95)).warm, (f 16 1 .rw).warm, f 17 15 .rsv] },  -- GLB_GOV_TEMP
   { base := 0x208, dims := [], size := 4, fields := [f 0 3 .ro, f 3 3 .ro, f 6 3 .ro, f 9 1 .ro, f 10 1 .ro, f 11 1 .rw1c, f 12 4 .ro, (f 16 16 .rw1c).wholeClear] },  -- GLB_GOV_STATUS
   { base := 0x20C, dims := [], size := 4, fields := [f 0 16 .ro, f 16 16 .ro] },  -- GLB_GOV_POWER
   { base := 0x210, dims := [], size := 4, fields := [f 0 12 .ro, f 12 4 .ro, f 16 12 .ro, f 28 4 .ro] },  -- GLB_GOV_HOT
   { base := 0x60, dims := [], size := 4, fields := [f 0 1 .wo, f 1 1 .wo, (f 2 1 .rw).warm, f 3 13 .rsv, f 16 16 .wo] },  -- GLB_RST_CTL
   { base := 0x64, dims := [], size := 4, fields := [f 0 2 .ro, f 2 3 .ro, f 5 1 .ro, f 6 1 .ro, f 7 4 .ro, f 11 5 .rsv, (f 16 16 .ro).warm] },  -- GLB_RST_STATUS
   { base := 0x80, dims := [(0x4, 16)], size := 4, fields := [f 0 1 .ro, f 1 1 .ro, f 2 3 .ro, f 5 3 .ro, f 8 2 .ro, f 10 1 .ro, f 11 3 .ro, f 14 2 .rsv, (f 16 8 .rw1c).wholeClear, f 24 8 .rsv] }  -- GLB_HEAD_STATUS
  ]

/-- Registers of the TRL block. -/
def tableTrl : List RegDef :=
  [{ base := 0x108000, dims := [(0x4, 16)], size := 4, fields := [f 0 16 .ro, f 16 7 .ro, f 23 8 .rsv, f 31 1 .rw1c] },  -- TRL_HEAD_FENCE
   { base := 0x108040, dims := [(0x4, 16)], size := 4, fields := [(f 0 24 .rw1c).wholeClear, f 24 4 .ro, f 28 4 .rsv] },  -- TRL_HEAD_DISCARD
   { base := 0x109000, dims := [], size := 4, fields := [f 0 8 .rw, f 8 24 .rsv] },  -- TRL_RAKE_CFG
   { base := 0x109004, dims := [], size := 4, fields := [f 0 16 .ro, f 16 1 .rw1c, f 17 15 .rsv] }  -- TRL_RAKE_STATUS
  ]

/-- Registers of the DIR block. -/
def tableDir : List RegDef :=
  [{ base := 0x600000, dims := [], size := 4, fields := [f 0 1 .rw, f 1 31 .rsv] },  -- DIR_CFG
   { base := 0x600004, dims := [], size := 4, fields := [(f 0 27 .rw (.rootClamp 625 800000)).warm, f 27 5 .rsv] },  -- DIR_BI_TIMEOUT
   { base := 0x600010, dims := [], size := 8, fields := [f 0 6 .rsv, f 6 39 .rw, f 45 19 .rsv] },  -- DIR_PROBE_ADDR
   { base := 0x600018, dims := [], size := 8, fields := [f 0 48 .ro, f 48 1 .ro, f 49 1 .ro, f 50 1 .ro, f 51 13 .rsv] },  -- DIR_PROBE_DATA
   { base := 0x601000, dims := [(0x8, 32)], size := 4, fields := [(f 0 32 .rw1c).wholeClear] },  -- DIR_STALE
   { base := 0x601004, dims := [(0x8, 32)], size := 4, fields := [(f 0 16 .rw1c).wholeClear, (f 16 7 .rw1c).wholeClear, f 23 9 .rsv] }  -- DIR_EVENTS
  ]

/-- Registers of the CUR block. -/
def tableCur : List RegDef :=
  [{ base := 0x300000, dims := [], size := 4, fields := [(f 0 7 .rwl (.upTo 64)).warm, f 7 24 .rsv, (f 31 1 .rwl).warm] },  -- CUR_CAP_CFG
   { base := 0x300004, dims := [], size := 4, fields := [f 0 10 .rw (.clamp 1 1000), f 10 21 .rsv, f 31 1 .rw] },  -- CUR_EPOCH_CFG
   { base := 0x300008, dims := [], size := 4, fields := [f 0 16 .ro, f 16 10 .rsv, f 26 1 .rw1c, f 27 1 .rw1c, f 28 4 .ro] },  -- CUR_EPOCH_STATUS
   { base := 0x30000C, dims := [], size := 4, fields := [f 0 20 .ro, f 20 12 .rsv] },  -- CUR_EPOCH_LEN
   { base := 0x300010, dims := [], size := 4, fields := [f 0 16 .rw (.clamp 1 65535), f 16 4 .rw (.clamp 1 8), f 20 4 .rw (.clamp 1 8), f 24 7 .rw, f 31 1 .rw] },  -- CUR_POLICY
   { base := 0x300020, dims := [], size := 4, fields := [f 0 3 .ro, f 3 1 .rw1c, (f 4 1 .rw1c).warm, f 5 7 .ro, f 12 20 .rsv] },  -- CUR_PRESSURE
   { base := 0x300028, dims := [], size := 8, fields := [f 0 36 .ro, f 36 28 .rsv] },  -- CUR_POOL_SIZE
   { base := 0x300030, dims := [], size := 8, fields := [f 0 36 .ro, f 36 28 .ro] }  -- CUR_POOL_FREE
  ]

/-- Registers of the PRS block. -/
def tablePrs : List RegDef :=
  [{ base := 0x400000, dims := [], size := 4, fields := [f 0 1 .rw, f 1 3 .rsv, (f 4 4 .rw (.clamp 1 15)).warm, f 8 24 .rsv] },  -- PRS_CFG
   { base := 0x400008, dims := [], size := 8, fields := [(f 0 64 .ro).warm] },  -- PRS_RETIRED
   { base := 0x400010, dims := [], size := 4, fields := [(f 0 16 .rw1c).wholeClear, f 16 6 .ro, f 22 10 .rsv] },  -- PRS_VERIFY_FAILS
   { base := 0x400014, dims := [], size := 4, fields := [(f 0 16 .rw1c).wholeClear, f 16 3 .ro, f 19 13 .rsv] },  -- PRS_FAULTS
   { base := 0x400018, dims := [], size := 8, fields := [f 0 12 .rsv, f 12 33 .ro, f 45 3 .ro, f 48 16 .rsv] },  -- PRS_LAST_FAULT_DPA
   { base := 0x401000, dims := [(0x20, 64)], size := 8, fields := [f 0 6 .rsv, f 6 58 .ro] },  -- PRS_Q_BASE
   { base := 0x401008, dims := [(0x20, 64)], size := 4, fields := [f 0 1 .ro, f 1 4 .ro, f 5 6 .ro, f 11 21 .rsv] },  -- PRS_Q_CFG
   { base := 0x40100C, dims := [(0x20, 64)], size := 4, fields := [f 0 12 .rw, f 12 20 .rsv] },  -- PRS_Q_TAIL
   { base := 0x401010, dims := [(0x20, 64)], size := 4, fields := [f 0 12 .ro, f 12 20 .rsv] }  -- PRS_Q_HEAD
  ]

/-- Registers of the SEC block. -/
def tableSec : List RegDef :=
  [{ base := 0x500000, dims := [], size := 4, fields := [(f 0 10 .rwl (.upTo 512)).warm, f 10 6 .rsv, (f 16 6 .rwl (.upTo 32)).warm, f 22 8 .rsv, (f 30 1 .ro).warm, (f 31 1 .rwl).warm] },  -- SEC_CFG
   { base := 0x500004, dims := [], size := 4, fields := [f 0 13 .ro, f 13 5 .ro, (f 18 1 .rw1c).warm, f 19 13 .rsv] },  -- SEC_STATUS
   { base := 0x500010, dims := [], size := 4, fields := [(f 0 16 .rw1c).wholeClear, f 16 2 .ro, f 18 1 .ro, f 19 13 .rsv] },  -- SEC_TAG_FAILS
   { base := 0x500018, dims := [], size := 8, fields := [f 0 6 .rsv, f 6 39 .ro, f 45 19 .rsv] },  -- SEC_LAST_FAIL_DPA
   { base := 0x500020, dims := [], size := 4, fields := [(f 0 16 .rw1c).wholeClear, (f 16 16 .rw1c).wholeClear] },  -- SEC_OVERFLOWS
   { base := 0x500028, dims := [], size := 4, fields := [f 0 32 .ro] },  -- SEC_ROOT_LOST
   { base := 0x501000, dims := [(0x8, 64)], size := 8, fields := [(f 0 1 .ro).warm, (f 1 1 .ro).warm, (f 2 3 .ro).warm, f 5 3 .rsv, (f 8 36 .ro).warm, f 44 20 .rsv] }  -- SEC_LOSS
  ]

/-- Registers of the DMC block. -/
def tableDmc : List RegDef :=
  [{ base := 0x1000000, dims := [(0x80000, 16)], size := 4, fields := [f 0 1 .rwl, f 1 1 .rwl, f 2 1 .rwl, f 3 2 .rwl (.upTo 2), f 5 1 .rwl, f 6 2 .rwl (.upTo 2), f 8 3 .ro, f 11 20 .rsv, f 31 1 .rwl] },  -- DMC_CFG
   { base := 0x1000010, dims := [(0x80000, 16)], size := 4, fields := [f 0 8 .rwl, f 8 8 .rwl, f 16 8 .rwl, f 24 8 .rwl], lock := 0x10 },  -- DMC_TIM_CAS
   { base := 0x1000014, dims := [(0x80000, 16)], size := 4, fields := [f 0 9 .rwl, f 9 9 .rwl, f 18 8 .rwl, f 26 6 .rsv], lock := 0x14 },  -- DMC_TIM_ROW
   { base := 0x1000018, dims := [(0x80000, 16)], size := 4, fields := [f 0 8 .rwl, f 8 8 .rwl, f 16 8 .rwl, f 24 8 .rwl], lock := 0x18 },  -- DMC_TIM_BANK
   { base := 0x100001C, dims := [(0x80000, 16)], size := 4, fields := [f 0 8 .rwl, f 8 8 .rwl, f 16 8 .rwl, f 24 8 .rwl], lock := 0x1C },  -- DMC_TIM_TURN
   { base := 0x1000020, dims := [(0x80000, 16)], size := 4, fields := [f 0 16 .rwl, f 16 12 .rwl, f 28 4 .rsv], lock := 0x20 },  -- DMC_TIM_REF
   { base := 0x1000024, dims := [(0x80000, 16)], size := 4, fields := [f 0 12 .rwl, f 12 13 .rwl, f 25 7 .rwl], lock := 0x24 },  -- DMC_TIM_REF2
   { base := 0x1000030, dims := [(0x80000, 16)], size := 4, fields := [f 0 8 .rw (.clamp 1 64), f 8 8 .rw (.belowField 0 8), f 16 4 .rw, f 20 12 .rw] },  -- DMC_SCHED
   { base := 0x1000034, dims := [(0x80000, 16)], size := 4, fields := [f 0 16 .rw (.clamp 1 65535), f 16 16 .rw (.clamp 1 65535)] },  -- DMC_NODL
   { base := 0x1000040, dims := [(0x80000, 16)], size := 4, fields := [f 0 16 .rw (.clamp 16 65535), f 16 16 .rw] },  -- DMC_PD
   { base := 0x1000044, dims := [(0x80000, 16)], size := 4, fields := [f 0 16 .rw, f 16 12 .rw (.clamp 1 4095), f 28 4 .rsv] },  -- DMC_SR
   { base := 0x1000048, dims := [(0x80000, 16)], size := 4, fields := [f 0 4 .rw (.clamp 1 8), f 4 4 .rw (.clamp 0 4), f 8 24 .rsv] },  -- DMC_REF_CFG
   { base := 0x1000050, dims := [(0x80000, 16)], size := 4, fields := [f 0 16 .ro, f 16 16 .ro] },  -- DMC_RANK_STATE
   { base := 0x1000054, dims := [(0x80000, 16)], size := 4, fields := [(f 0 16 .rw1c).wholeClear, f 16 16 .ro] },  -- DMC_REF_STATUS
   { base := 0x1001000, dims := [(0x80000, 16)], size := 4, fields := [f 0 7 .rw (.atMostField 8 7), f 7 1 .rsv, f 8 7 .rw (.clamp 0 125), f 15 1 .rw, f 16 6 .rw, f 22 2 .rsv, f 24 6 .rw, f 30 2 .rsv] },  -- DMC_TRN_CTL
   { base := 0x1001004, dims := [(0x80000, 16)], size := 4, fields := [f 0 10 .rw (.clamp 1 1023), f 10 22 .rsv] },  -- DMC_TRN_CTL2
   { base := 0x1001008, dims := [(0x80000, 16)], size := 4, fields := [f 0 2 .ro, f 2 1 .ro, f 3 8 .ro, f 11 1 .rw1c, f 12 8 .ro, (f 20 12 .rw1c).wholeClear] },  -- DMC_TRN_STATUS
   { base := 0x100100C, dims := [(0x80000, 16)], size := 4, fields := [f 0 4 .rw (.upTo 8), f 4 28 .rsv] },  -- DMC_TRN_SEL
   { base := 0x1001010, dims := [(0x80000, 16)], size := 4, fields := [f 0 12 .ro, f 12 20 .rsv] },  -- DMC_TEMP
   { base := 0x1001100, dims := [(0x80000, 16), (0x8, 160)], size := 8, fields := [f 0 8 .ro, f 8 8 .ro, f 16 7 .ro, f 23 7 .ro, f 30 2 .rsv, f 32 11 .ro, f 43 11 .ro, f 54 10 .rsv] },  -- DMC_TRN_LANE
   { base := 0x1001600, dims := [(0x80000, 16), (0x4, 160)], size := 4, fields := [f 0 8 .ro, f 8 8 .ro, f 16 7 .ro, f 23 7 .ro, f 30 2 .rsv] },  -- DMC_TRN_EYE
   { base := 0x1002000, dims := [(0x80000, 16)], size := 4, fields := [(f 0 32 .rw1c).wholeClear] },  -- DMC_CE_TOTAL
   { base := 0x1002004, dims := [(0x80000, 16)], size := 4, fields := [(f 0 16 .rw1c).wholeClear, (f 16 16 .rw1c).wholeClear] },  -- DMC_UE_TOTAL
   { base := 0x1002008, dims := [(0x80000, 16)], size := 8, fields := [f 0 34 .ro, f 34 30 .rsv] },  -- DMC_UE_LAST
   { base := 0x1002010, dims := [(0x80000, 16)], size := 4, fields := [(f 0 1 .ro).warm, (f 1 2 .ro).warm, (f 3 1 .ro).warm, f 4 28 .rsv] },  -- DMC_FAULT
   { base := 0x1002100, dims := [(0x80000, 16), (0x4, 256)], size := 4, fields := [(f 0 16 .rw1c).wholeClear, (f 16 16 .rw1c).wholeClear] },  -- DMC_CE_BANK
   { base := 0x1002500, dims := [(0x80000, 16)], size := 4, fields := [f 0 5 .ro, f 5 1 .rw1c, f 6 1 .rw, f 7 9 .rsv, (f 16 16 .rw1c).wholeClear] },  -- DMC_CE_LOG_CTL
   { base := 0x1002600, dims := [(0x80000, 16), (0x10, 32)], size := 16, fields := [f 0 34 .ro, f 34 4 .ro, f 38 1 .ro, f 39 4 .ro, f 43 3 .ro, f 46 2 .ro, f 48 3 .ro, f 51 1 .ro, f 52 1 .ro, f 53 7 .ro, f 60 4 .rsv, f 64 48 .ro, f 112 16 .rsv] },  -- DMC_CE_LOG
   { base := 0x1002800, dims := [(0x80000, 16)], size := 4, fields := [(f 0 7 .ro).warm, (f 7 1 .rw1c).warm, (f 8 10 .ro).warm, f 18 14 .rsv] },  -- DMC_REMAP_CTL
   { base := 0x1002900, dims := [(0x80000, 16), (0x8, 64)], size := 8, fields := [(f 0 1 .ro).warm, (f 1 34 .ro).warm, (f 35 10 .ro).warm, (f 45 4 .ro).warm, f 49 15 .rsv] },  -- DMC_REMAP
   { base := 0x1002C00, dims := [(0x80000, 16), (0x8, 8)], size := 8, fields := [(f 0 1 .ro).warm, (f 1 4 .ro).warm, (f 5 1 .ro).warm, (f 6 3 .ro).warm, (f 9 2 .ro).warm, (f 11 17 .ro).warm, (f 28 4 .ro).warm, (f 32 2 .ro).warm, f 34 30 .rsv] }  -- DMC_PPR
  ]

/-- Registers of the GTH block. -/
def tableGth : List RegDef :=
  [{ base := 0x2100100, dims := [], size := 4, fields := [(f 0 22 .rwl (.between 2450000 2550000)).kept, f 22 9 .rsv, (f 31 1 .rwl).kept] },  -- GTH_VREF_VALUE
   { base := 0x2100104, dims := [], size := 4, fields := [(f 0 1 .ro).kept, (f 1 1 .ro).kept, (f 2 1 .ro).kept, (f 3 1 .rw1c).kept, (f 4 16 .ro).kept, f 20 12 .rsv] },  -- GTH_CAL_STATUS
   { base := 0x2100000, dims := [], size := 4, fields := [(f 0 1 .rw).kept, (f 1 1 .rw).kept, (f 2 1 .rwl).kept, (f 3 1 .rwl).kept, (f 4 1 .wo).kept, (f 5 1 .wo).kept, (f 6 1 .wo).kept, (f 7 1 .wo).kept, f 8 23 .rsv, (f 31 1 .rwl).kept] },  -- GTH_CTL
   { base := 0x2100004, dims := [], size := 4, fields := [(f 0 8 .rwl (.between 5 200)).kept, (f 8 8 .rwl (.between 1 200)).kept, (f 16 7 .rwl (.between 1 100)).kept, f 23 1 .rsv, (f 24 8 .rwl (.between 5 200)).kept] },  -- GTH_TIMING
   { base := 0x2100008, dims := [], size := 4, fields := [(f 0 10 .rwl).kept, (f 10 10 .rwl).kept, (f 20 4 .rwl).kept, (f 24 7 .rwl).kept, f 31 1 .rsv] },  -- GTH_OUT_CFG
   { base := 0x210000C, dims := [], size := 4, fields := [(f 0 1 .ro).kept, (f 1 1 .ro).kept, (f 2 2 .ro).kept, (f 4 1 .ro).kept, (f 5 1 .ro).kept, f 6 10 .rsv, (f 16 16 .rw1c).wholeClear.kept] },  -- GTH_STATUS
   { base := 0x2100010, dims := [], size := 4, fields := [(f 0 10 .rwl).kept, (f 10 10 .rwl).kept, f 20 12 .rsv] },  -- GTH_FEED_A_CFG
   { base := 0x2100020, dims := [], size := 4, fields := [(f 0 10 .rwl).kept, (f 10 10 .rwl).kept, f 20 12 .rsv] },  -- GTH_FEED_B_CFG
   { base := 0x2100014, dims := [], size := 4, fields := [(f 0 10 .rwl).kept, (f 10 4 .rwl).kept, (f 14 8 .rwl).kept, f 22 10 .rsv] },  -- GTH_FEED_A_BREAKER
   { base := 0x2100024, dims := [], size := 4, fields := [(f 0 10 .rwl).kept, (f 10 4 .rwl).kept, (f 14 8 .rwl).kept, f 22 10 .rsv] },  -- GTH_FEED_B_BREAKER
   { base := 0x2100018, dims := [], size := 4, fields := [(f 0 16 .rwl).kept, f 16 16 .rsv] },  -- GTH_FEED_A_SHUNT
   { base := 0x2100028, dims := [], size := 4, fields := [(f 0 16 .rwl).kept, f 16 16 .rsv] },  -- GTH_FEED_B_SHUNT
   { base := 0x210001C, dims := [], size := 4, fields := [(f 0 3 .ro).kept, (f 3 1 .ro).kept, (f 4 1 .ro).kept, (f 5 1 .ro).kept, (f 6 3 .ro).kept, (f 9 1 .rw1c).kept, (f 10 1 .rw1c).kept, f 11 5 .rsv, (f 16 16 .rw1c).wholeClear.kept] },  -- GTH_FEED_A_STATUS
   { base := 0x210002C, dims := [], size := 4, fields := [(f 0 3 .ro).kept, (f 3 1 .ro).kept, (f 4 1 .ro).kept, (f 5 1 .ro).kept, (f 6 3 .ro).kept, (f 9 1 .rw1c).kept, (f 10 1 .rw1c).kept, f 11 5 .rsv, (f 16 16 .rw1c).wholeClear.kept] },  -- GTH_FEED_B_STATUS
   { base := 0x2100040, dims := [], size := 4, fields := [(f 0 17 .ro).kept, f 17 15 .rsv] },  -- GTH_FEED_A_VOLT
   { base := 0x2100060, dims := [], size := 4, fields := [(f 0 17 .ro).kept, f 17 15 .rsv] },  -- GTH_FEED_B_VOLT
   { base := 0x2100044, dims := [], size := 4, fields := [(f 0 20 .ro).kept, f 20 12 .rsv] },  -- GTH_FEED_A_CURR
   { base := 0x2100064, dims := [], size := 4, fields := [(f 0 20 .ro).kept, f 20 12 .rsv] },  -- GTH_FEED_B_CURR
   { base := 0x2100048, dims := [], size := 4, fields := [(f 0 24 .ro).kept, f 24 8 .rsv] },  -- GTH_FEED_A_POWER
   { base := 0x2100068, dims := [], size := 4, fields := [(f 0 24 .ro).kept, f 24 8 .rsv] },  -- GTH_FEED_B_POWER
   { base := 0x2100050, dims := [], size := 8, fields := [(f 0 64 .ro).kept] },  -- GTH_FEED_A_ENERGY
   { base := 0x2100070, dims := [], size := 8, fields := [(f 0 64 .ro).kept] }  -- GTH_FEED_B_ENERGY
  ]

/-- Registers of the QOS block. -/
def tableQos : List RegDef :=
  [{ base := 0x200000, dims := [], size := 4, fields := [(f 0 6 .ro).warm, f 6 26 .rsv] },  -- QOS_CFG
   { base := 0x200010, dims := [], size := 4, fields := [f 0 21 .ro, f 21 11 .rsv] },  -- QOS_G
   { base := 0x200014, dims := [], size := 4, fields := [f 0 21 .ro, f 21 7 .ro, f 28 4 .rsv] },  -- QOS_G_SUM
   { base := 0x200020, dims := [], size := 4, fields := [f 0 32 .rw] },  -- QOS_DERATE
   { base := 0x200024, dims := [], size := 4, fields := [f 0 8 .rw (.clamp 0 128), f 8 24 .rsv] },  -- QOS_BE_SCALE
   { base := 0x200028, dims := [], size := 4, fields := [f 0 17 .ro, f 17 15 .rsv] },  -- QOS_GRAFT_G
   { base := 0x200040, dims := [(0x4, 16)], size := 4, fields := [f 0 17 .ro, f 17 1 .ro, f 18 14 .rsv] },  -- QOS_CH_G
   { base := 0x200200, dims := [(0x20, 16), (0x4, 4)], size := 4, fields := [(f 0 6 .ro).warm, (f 6 1 .ro).warm, f 7 1 .rsv, (f 8 6 .ro).warm, (f 14 1 .ro).warm, f 15 1 .rsv, (f 16 6 .ro).warm, (f 22 1 .ro).warm, f 23 1 .rsv, (f 24 6 .ro).warm, (f 30 1 .ro).warm, f 31 1 .rsv] },  -- QOS_HEAD_MAP
   { base := 0x200210, dims := [(0x20, 16)], size := 4, fields := [(f 0 4 .ro).warm, f 4 28 .rsv] },  -- QOS_HEAD_CTL
   { base := 0x201000, dims := [(0x20, 64)], size := 4, fields := [(f 0 20 .ro).warm, f 20 12 .rsv] },  -- QOS_CLASS_FLOOR
   { base := 0x201004, dims := [(0x20, 64)], size := 4, fields := [(f 0 20 .ro).warm, f 20 12 .rsv] },  -- QOS_CLASS_BUDGET
   { base := 0x201008, dims := [(0x20, 64)], size := 4, fields := [(f 0 17 .ro).warm, f 17 15 .rsv] },  -- QOS_CLASS_DL1
   { base := 0x20100C, dims := [(0x20, 64)], size := 4, fields := [(f 0 17 .ro).warm, f 17 15 .rsv] },  -- QOS_CLASS_DL2
   { base := 0x201010, dims := [(0x20, 64)], size := 4, fields := [(f 0 17 .ro).warm, f 17 15 .rsv] },  -- QOS_CLASS_DL3
   { base := 0x201014, dims := [(0x20, 64)], size := 4, fields := [(f 0 1 .ro).warm, (f 1 2 .ro).warm, f 3 5 .rsv, (f 8 8 .ro).warm, (f 16 1 .ro).warm, f 17 1 .ro, f 18 1 .ro, f 19 13 .rsv] },  -- QOS_CLASS_CTL
   { base := 0x201018, dims := [(0x20, 64)], size := 4, fields := [(f 0 16 .rw1c).wholeClear, (f 16 8 .rw1c).wholeClear, f 24 3 .ro, f 27 5 .rsv] },  -- QOS_CLASS_MISS
   { base := 0x20101C, dims := [(0x20, 64)], size := 4, fields := [f 0 20 .ro, f 20 12 .rsv] }  -- QOS_CLASS_EFF_BUDGET
  ]

/-- Registers of the GFT block. -/
def tableGft : List RegDef :=
  [{ base := 0x2000000, dims := [], size := 4, fields := [(f 0 14 .rwl).warm, (f 14 1 .rwl).warm, (f 15 1 .rw).warm, (f 16 2 .rw).warm, (f 18 3 .rw).warm, f 21 10 .rsv, (f 31 1 .rwl).warm] },  -- GFT_CFG
   { base := 0x2000004, dims := [], size := 4, fields := [(f 0 32 .rwl).warm], lock := 0x4 },  -- GFT_DOMAIN
   { base := 0x2000008, dims := [], size := 4, fields := [(f 0 9 .rw (.clamp 1 256)).warm, (f 9 7 .rw (.clamp 1 127)).warm, (f 16 10 .rw (.clamp 1 600)).warm, (f 26 1 .rw).warm, f 27 5 .rsv] },  -- GFT_LEASE_CFG
   { base := 0x200000C, dims := [], size := 4, fields := [f 0 7 .ro, f 7 13 .ro, f 20 12 .rsv] },  -- GFT_LEND_STATUS
   { base := 0x2000100, dims := [(0x10, 2)], size := 4, fields := [f 0 3 .ro, f 3 2 .ro, f 5 1 .ro, f 6 1 .ro, f 7 1 .ro, f 8 14 .ro, f 22 1 .ro, f 23 9 .rsv] },  -- GFT_PORT_STATUS
   { base := 0x2000104, dims := [(0x10, 2)], size := 4, fields := [(f 0 16 .rw1c).wholeClear, (f 16 8 .rw1c).wholeClear, (f 24 8 .rw1c).wholeClear] },  -- GFT_PORT_ERR
   { base := 0x2000108, dims := [(0x10, 2)], size := 4, fields := [f 0 12 .ro, f 12 12 .ro, f 24 4 .ro, f 28 4 .rsv] },  -- GFT_PORT_SEQ
   { base := 0x2001000, dims := [(0x10, 64)], size := 8, fields := [f 0 1 .ro, f 1 2 .ro, f 3 14 .ro, f 17 9 .ro, f 26 17 .ro, f 43 21 .rsv] },  -- GFT_BORROW
   { base := 0x2001008, dims := [(0x10, 64)], size := 4, fields := [f 0 30 .ro, f 30 2 .rsv] },  -- GFT_BORROW_USED
   { base := 0x2002000, dims := [(0x8, 64)], size := 8, fields := [f 0 1 .ro, f 1 1 .ro, f 2 14 .ro, f 16 6 .ro, f 22 17 .ro, f 39 9 .ro, f 48 16 .rsv] }  -- GFT_LENT
  ]

/-- Registers of the OTP block. -/
def tableOtp : List RegDef :=
  [{ base := 0x2400000, dims := [], size := 4, fields := [f 0 4 .ro, f 4 2 .ro, f 6 1 .ro, f 7 4 .ro, f 11 4 .ro, f 15 1 .ro, f 16 16 .rsv] }  -- OTP_STATUS
  ]

/-- Registers of the BOOT block. -/
def tableBoot : List RegDef :=
  [{ base := 0x2400004, dims := [], size := 4, fields := [f 0 2 .ro, f 2 1 .ro, f 3 2 .ro, f 5 3 .ro, f 8 3 .ro, f 11 1 .ro, f 12 8 .ro, f 20 12 .rsv] }  -- BOOT_STATUS
  ]

/-- Registers of the CAT block. -/
def tableCat : List RegDef :=
  [{ base := 0x2200000, dims := [(0x100, 16)], size := 4, fields := [f 0 1 .rw, f 1 1 .rw, f 2 1 .wo, f 3 6 .rw, f 9 1 .rw, f 10 8 .rw1c, f 18 1 .rw1c, f 19 13 .rsv] },  -- CAT_GRP_CTL
   { base := 0x2200004, dims := [(0x100, 16)], size := 4, fields := [f 0 16 .rw, f 16 6 .rw, f 22 1 .rw, f 23 9 .rsv] },  -- CAT_GRP_FILTER
   { base := 0x2200008, dims := [(0x100, 16), (0x4, 4)], size := 4, fields := [f 0 16 .rw, f 16 16 .rw] },  -- CAT_GRP_EVSEL
   { base := 0x2200020, dims := [(0x100, 16)], size := 8, fields := [f 0 48 .ro, f 48 16 .rsv] },  -- CAT_GRP_TICKS
   { base := 0x2200040, dims := [(0x100, 16), (0x8, 8)], size := 8, fields := [f 0 48 .ro, f 48 16 .rsv] },  -- CAT_GRP_CNT
   { base := 0x2202000, dims := [], size := 4, fields := [f 0 1 .rw, f 1 7 .rsv, f 8 8 .rw .classOrAny, f 16 16 .rw (.clamp 1 65535)] },  -- CAT_SAMP_CTL
   { base := 0x2202004, dims := [], size := 4, fields := [f 0 16 .rw, f 16 16 .rsv] },  -- CAT_SAMP_HEADS
   { base := 0x2202008, dims := [], size := 4, fields := [f 0 12 .ro, f 12 1 .rw1c, f 13 19 .rsv] },  -- CAT_SAMP_STATUS
   { base := 0x220200C, dims := [], size := 4, fields := [f 0 32 .ro] },  -- CAT_SAMP_TOTAL
   { base := 0x2210000, dims := [(0x20, 4096)], size := 32, fields := [f 0 256 .ro] },  -- CAT_SAMP_RING
   { base := 0x2203000, dims := [], size := 4, fields := [f 0 1 .wo, f 1 31 .rsv] },  -- CAT_GATHER_CTL
   { base := 0x2203010, dims := [], size := 8, fields := [(f 0 1 .ro).warm, (f 1 1 .ro).warm, (f 2 3 .ro).warm, (f 5 1 .ro).warm, f 6 2 .rsv, (f 8 8 .ro).warm, (f 16 48 .ro).warm] },  -- CAT_GATHER_STATUS_0
   { base := 0x2203020, dims := [], size := 8, fields := [f 0 1 .ro, f 1 1 .ro, f 2 3 .ro, f 5 1 .ro, f 6 2 .rsv, f 8 8 .ro, f 16 48 .ro] },  -- CAT_GATHER_STATUS_1
   { base := 0x2204000, dims := [], size := 8, fields := [f 0 64 .ro] },  -- CAT_USER_EN
   { base := 0x2240000, dims := [(0x4, 1936)], size := 4, fields := [(f 0 32 .ro).warm] },  -- CAT_RECOVERY_BUF
   { base := 0x2242000, dims := [(0x4, 1936)], size := 4, fields := [f 0 32 .ro] }  -- CAT_LATEST_BUF
  ]

/-- Registers of the ALR block. -/
def tableAlr : List RegDef :=
  [{ base := 0x2300000, dims := [], size := 4, fields := [(f 0 6 .ro).warm, (f 6 1 .ro).warm, (f 7 4 .ro).warm, (f 11 1 .ro).warm, (f 12 1 .ro).warm, f 13 19 .rsv] },  -- ALR_ALERT_SUMMARY
   { base := 0x2300004, dims := [], size := 4, fields := [(f 0 12 .rw).warm, f 12 20 .rsv] },  -- ALR_ALERT_MASK
   { base := 0x2300008, dims := [], size := 4, fields := [(f 0 16 .ro).warm, f 16 16 .rsv] },  -- ALR_DMC_SUMMARY
   { base := 0x230000C, dims := [], size := 4, fields := [(f 0 2 .rw).warm, f 2 30 .rsv] },  -- ALR_ALERT_CFG
   { base := 0x2300010, dims := [], size := 4, fields := [(f 0 10 .ro).warm, (f 10 1 .rw1c).warm, f 11 21 .rsv] },  -- ALR_LOG_STATUS
   { base := 0x2300104, dims := [(0x4, 6)], size := 4, fields := [f 0 1 .rsv, (f 1 31 .rw1c).warm] },  -- ALR_CAUSE
   { base := 0x2300140, dims := [(0x4, 16)], size := 4, fields := [f 0 1 .rsv, (f 1 31 .rw1c).warm] },  -- ALR_CAUSE
   { base := 0x2300180, dims := [(0x4, 4)], size := 4, fields := [f 0 1 .rsv, (f 1 31 .rw1c).warm] },  -- ALR_CAUSE
   { base := 0x2300204, dims := [(0x4, 6)], size := 4, fields := [f 0 1 .rsv, (f 1 31 .rw).warm] },  -- ALR_CAUSE_MASK
   { base := 0x2300240, dims := [(0x4, 16)], size := 4, fields := [f 0 1 .rsv, (f 1 31 .rw).warm] },  -- ALR_CAUSE_MASK
   { base := 0x2300280, dims := [(0x4, 4)], size := 4, fields := [f 0 1 .rsv, (f 1 31 .rw).warm] },  -- ALR_CAUSE_MASK
   { base := 0x2308000, dims := [(0x20, 1024)], size := 32, fields := [(f 0 16 .ro).warm, (f 16 2 .ro).warm, (f 18 6 .ro).warm, (f 24 1 .ro).warm, (f 25 7 .ro).warm, (f 32 32 .ro).warm, (f 64 48 .ro).warm, f 112 16 .rsv, (f 128 64 .ro).warm, (f 192 64 .ro).warm] }  -- ALR_LOG
  ]

/-- Every register of the vendor space. -/
def table : List RegDef :=
  tableGlb ++ tableTrl ++ tableDir ++ tableCur ++ tablePrs ++ tableSec ++ tableDmc ++ tableGth ++ tableQos ++ tableGft ++ tableOtp ++ tableBoot ++ tableCat ++ tableAlr

/-- Reset values other than 0: base, (stride, count) of each index, value of the word (R11 leaves the others to the loading step). -/
def resetTable : List (Nat × List (Nat × Nat) × Nat) :=
  [(0x0, [], 0x1009640),
   (0x300004, [], 0x80000064),
   (0x300010, [], 0x82140040),
   (0x400000, [], 0x21),
   (0x1000030, [(0x80000, 16)], 0xDC41030),
   (0x1000034, [(0x80000, 16)], 0x1001000),
   (0x1000040, [(0x80000, 16)], 0xFFFF0200),
   (0x1000044, [(0x80000, 16)], 0x3E80000),
   (0x1000048, [(0x80000, 16)], 0x24),
   (0x1001000, [(0x80000, 16)], 0x12106414),
   (0x1001004, [(0x80000, 16)], 0x32),
   (0x100100C, [(0x80000, 16)], 0x8),
   (0x2100100, [], 0x2625A0),
   (0x109000, [], 0x18),
   (0x104, [], 0xA),
   (0x120, [], 0x76543210),
   (0x200024, [], 0x80),
   (0x204, [], 0x555F),
   (0x2100000, [], 0x3),
   (0x2000000, [], 0xF0000),
   (0x2000008, [], 0x43C1440),
   (0x2200004, [(0x100, 16)], 0x40FFFF),
   (0x230000C, [], 0x1)]

/-- The rest of an offset once the indices of a register are taken out; none when it lies outside. -/
def strip (rel : Nat) (dims : List (Nat × Nat)) : Option Nat :=
  match dims with
  | [] => some rel
  | (st, n) :: r => if rel / st < n then strip (rel % st) r else none

/-- Whether a register has a word at an offset, and which of its words. -/
def RegDef.wordOf (d : RegDef) (off : Nat) : Option Nat :=
  if off < d.base then none
  else match strip (off - d.base) d.dims with
    | some r => if r < d.size then some (r / 4) else none
    | none => none

/-- The register that occupies an offset, with the number of its word there. -/
def findIn (l : List RegDef) (off : Nat) : Option (RegDef × Nat) :=
  match l with
  | [] => none
  | d :: r => match RegDef.wordOf d off with
    | some i => some (d, i)
    | none => findIn r off

/-- The block a register access falls in (Table 0.4). -/
def blockTable (off : Nat) : List RegDef :=
  if off < 0x100000 then tableGlb
  else if off < 0x200000 then tableTrl
  else if off < 0x300000 then tableQos
  else if off < 0x400000 then tableCur
  else if off < 0x500000 then tablePrs
  else if off < 0x600000 then tableSec
  else if off < 0x700000 then tableDir
  else if off < 0x1000000 then []
  else if off < 0x1800000 then tableDmc
  else if off < 0x2000000 then []
  else if off < 0x2100000 then tableGft
  else if off < 0x2200000 then tableGth
  else if off < 0x2300000 then tableCat
  else if off < 0x2400000 then tableAlr
  else if off < 0x2500000 then tableOtp ++ tableBoot
  else []

/-- The register that occupies an offset of BAR2. -/
def find (off : Nat) : Option (RegDef × Nat) := findIn (blockTable off) off

def resetIn (l : List (Nat × List (Nat × Nat) × Nat)) (off : Nat) : Nat :=
  match l with
  | [] => 0
  | (b, dims, v) :: r => if b ≤ off ∧ strip (off - b) dims = some 0 then v else resetIn r off

/-- The value of a register word after reset. -/
def resetWord (off : Nat) : Word := BitVec.ofNat 32 (resetIn resetTable off)

end Sys2Proof.Machine.Reg
end

