-- ==== Sys2Proof/Machine/State.lean ====
section
/-! DEFINITION. The state of the block as plain data: every register, buffer, queue, counter, mode and pin of the spec, the
outcomes a command can end in, and the state after reset. The vendor-space registers stand in one table of 32-bit words
(`regs`, R6) whose reset values are Machine/RegTable.lean's; everything the spec holds outside a register has a field. -/
namespace Sys2Proof.Machine

/-- Why the block would stop with a fault. No command of the block raises one: the spec gives every row an effect. -/
inductive Fault
  /-- Raised by no command (safe: it can only be read off a theorem that it never occurs). -/
  | never
deriving DecidableEq, Repr

/-- Why a command has no meaning. -/
inductive Refusal
  /-- The row has no meaning in this model yet; raised by the arms of exec that say so, and by nothing else (safe). -/
  | notModelled (mnemonic : String)
deriving DecidableEq, Repr

/-! ### Lines, pages and regions -/

/-- One stored 64-byte line of DRAM: its data symbols and whether its check symbols are those of stored poison (R246, R248). -/
structure Line where
  data   : BitVec 512 := 0
  poison : Bool := false
deriving DecidableEq, Repr

/-- Bits [54:17] of an accession entry by STATE (Tables 5.1 and 5.2). `unreadable` is the condition of R128. -/
inductive PageForm
  | unwritten (pz : Bool)
  | hot (ch frame : Nat) (incomp : Option Nat)
  | cold (ch sherd n : Nat)
  | spilled (lease unit sherds : Nat)
  | migrating (slot : Nat)
  | unreadable
deriving DecidableEq, Repr

/-- An accession entry (Table 5.1). Its CLASS and REGION are those of the region descriptor its page lies in (R178), so they are read
from there (Machine/Operands.lean) and not stored twice. -/
structure Acc where
  form    : PageForm := .unwritten false
  version : Nat := 0
  fstamp  : Nat := 0
deriving DecidableEq, Repr

/-- A region descriptor: its range in 256 MiB units, its model, the fields of Tables 5.4 and 7.2, and whether it is the lend region (R337). -/
structure Region where
  base     : Nat
  len      : Nat
  hdmDb    : Bool
  cls      : SecClass
  key      : Nat := 0
  oldKey   : Nat := 0
  oldValid : Bool := false
  cursor   : Nat := 0
  sbase    : Nat := 0
  readonly : Bool := false
  lost     : Bool := false
  place    : Nat := 0
  spillOk  : Bool := true
  mask     : BitVec 16 := 0
  lend     : Bool := false
deriving DecidableEq, Repr

/-- State of a key slot (Table 7.8). -/
inductive KeyState | free | active | retiring | zeroising
deriving DecidableEq, Repr

/-- A key slot: its state, whether it is fixed to a VITRINE region, Kd and Kt (R183, R197). -/
structure KeySlot where
  st    : KeyState := .free
  fixed : Bool := false
  kd    : BitVec 256 := 0
  kt    : BitVec 256 := 0
deriving DecidableEq, Repr

/-- A block or node in the counter cache (R192, R193): its 64 bytes as Table 7.5 lays them out and whether it is dirty. -/
structure CacheBlk where
  blk   : BitVec 512
  dirty : Bool
deriving DecidableEq, Repr

/-! ### Logical devices -/

/-- LD states (Table 2.9). -/
inductive LdState | down | ioUp | active | draining | stopping
deriving DecidableEq, Repr

/-- A committed HDM decoder (R50, R51). `dpa` is its base in LD DPA; `aliasLog` holds log2(W) when it presents an alias window. -/
structure Decoder where
  base   : Nat
  size   : Nat
  iw     : Nat
  ig     : Nat
  dpa    : Nat
  used   : Nat
  aliasLog : Option Nat
deriving DecidableEq, Repr

/-- The registers of an HDM decoder in an LD's component registers as software last wrote them (R43, R49): base, size and DPA skip in bytes, interleave
ways, and granularity in bytes. -/
structure DecRegs where
  base : Nat := 0
  size : Nat := 0
  skip : Nat := 0
  iw   : Nat := 1
  ig   : Nat := 256
deriving DecidableEq, Repr

/-- An entry of an LD's extent map in 256 MiB units (R53): where it is in force (the port's copy and each home slice, R56,
R57), and whether it is being released. -/
structure Extent where
  ldUnit : Nat
  unit   : Nat
  len    : Nat
  region : Nat
  tag    : Option (BitVec 128) := none
  static : Bool := false
  port   : Bool := true
  slices : BitVec 32 := 0
  releasing : Bool := false
deriving DecidableEq, Repr

/-- A Dynamic Capacity region of an LD in bytes of LD DPA (R55), and whether it is sharable, that is, holds extents that carry a tag (R58). -/
structure DcRegion where
  base  : Nat
  len   : Nat
  block : Nat
  sharable : Bool := false
deriving DecidableEq, Repr

/-- An offer of extents made by the Fabric Manager and not yet answered by the host (R55, R56). -/
structure DcOffer where
  exts : List (Nat × Nat × Nat)
  tag  : BitVec 128
deriving DecidableEq, Repr

/-- One vector of an LD's MSI-X table (Table 2.7). -/
structure MsixVec where
  addr : BitVec 64 := 0
  data : Word := 0
  mask : Bool := true
deriving DecidableEq, Repr

/-- What a record of an LD's CXL event log carries (R376): the image of a device-log entry, or a Dynamic Capacity event (R55): its type, 0 added, 1 released, 2 released by force or 3 region configuration
updated, its region, and the extent in bytes with its tag. -/
inductive EvBody
  | vendor (image : BitVec 256)
  | dc (ty region base len : Nat) (tag : BitVec 128)
deriving DecidableEq, Repr

/-- A record of an LD's CXL event log: its handle, the log it is in, the LD's timestamp at its making, and its contents (R376). -/
structure EvRec where
  handle : Nat
  time   : Nat
  body   : EvBody
deriving DecidableEq, Repr

/-- A DSMAS entry of CDAT with its DSLBIS and DSEMTS entries (Table 2.5): base and length in LD DPA, Shareable, Hardware Managed Coherency, latency in ns,
bandwidth in MB/s of a read and of a write, the EFI memory type and its specific-purpose attribute. -/
structure Dsmas where
  base  : Nat
  len   : Nat
  shareable : Bool := false
  hwCoherent : Bool := false
  lat   : Nat := 76
  bw    : Nat := 0
  efiType : Nat := 1
  specificPurpose : Bool := true
deriving DecidableEq, Repr

/-- The primary mailbox of an LD beside its capability register (R43, R340): its control, command, status and background status registers, and the words of its payload that are not 0. -/
structure Mbox where
  ctl    : Word := 0
  cmd    : BitVec 64 := 0
  status : BitVec 64 := 0
  bg     : BitVec 64 := 0
  data   : Tbl Word := []
deriving DecidableEq, Repr

/-- A logical device (R43). -/
structure Ld where
  head    : Nat
  ldId    : Nat := 0
  manage  : Bool := false
  st      : LdState := .down
  lastAbrupt    : Bool := false
  drainPoisoned : Bool := false
  disabled      : Bool := false
  memSpace : Bool := false
  fnMask   : Bool := false
  cfg      : Tbl Word := []
  decoders : Tbl Decoder := []
  decRegs  : Tbl DecRegs := []
  hdmGlobal : Word := 0
  decErr   : BitVec 4 := 0
  exts     : List Extent := []
  dcRegions : Tbl DcRegion := []
  offers   : List DcOffer := []
  msix     : Tbl MsixVec := []
  pba      : BitVec 32 := 0
  logs     : Tbl (List EvRec) := []
  logOvf   : Tbl Nat := []
  nextHandle : Nat := 1
  policy   : Tbl Nat := []
  cdat     : List Dsmas := []
  drainAt  : Nat := 0
  counters : Tbl Nat := []
  timestamp : Nat := 0
  tsAt     : Nat := 0
  resetClr : Option Bool := none
  mbox     : Mbox := {}
deriving DecidableEq, Repr

/-! ### Requests, transactions and exchanges -/

/-- The sources a slice arbitrates among (R23). -/
inductive Src
  | head (h : Nat)
  | graft (g : Nat)
  | dma
deriving DecidableEq, Repr

/-- What a request asks (Tables 3.1, 4.3; R101): `rd` any read, `inv` MemInv, `evict` ClnEvct, `wr` any M2S RwD. -/
inductive ReqOp | rd | rdData | inv | evict | wr | fence
deriving DecidableEq, Repr

/-- A request as a port queues it (R51, R271, R272, R367). `line` is DPA[44:6]. -/
structure Req where
  id       : Nat
  src      : Src
  ld       : Nat
  op       : ReqOp
  line     : Nat
  ldDpa    : Nat := 0
  tag      : Nat := 0
  snp      : Snp := .noOp
  mv       : MetaV := .i
  data     : BitVec 512 := 0
  be       : BitVec 64 := 0
  poison   : Bool := false
  cls      : Option Nat := none
  tier     : Nat := 3
  deadline : Option Nat := none
  bucket   : Nat := 0
  arrival  : Nat := 0
  sampled  : Bool := false
  lease    : Nat := 0
deriving DecidableEq, Repr

/-- What SEC needs to know of a page of a SEALED or VITRINE region: its region, its secure space (true for the V-space), its secure page
index q, the keys the cursor rule chooses (R198), the tag length, and READONLY and LOST of the region. -/
structure Guard where
  region : Nat
  space  : Bool
  q      : Nat
  kd     : BitVec 256
  kt     : BitVec 256
  n      : Nat
  ro     : Bool
  lost   : Bool
deriving DecidableEq, Repr

/-- The key, counter block and tags an operation was admitted with (R185, R198): a read keeps them until its data returns. -/
structure Seal where
  g    : Guard
  blk  : BitVec 512
  tags : List (BitVec 64)
deriving DecidableEq, Repr

/-- What a transaction of a slice waits for (R72, R108, R145, R154, R189). -/
inductive Phase
  | queued      -- behind an earlier transaction on its line or page (R108, R79)
  | exch        -- its back-invalidate exchange (R106)
  | dram        -- its DRAM read
  | acc         -- the read of its page's accession line (R22, R211)
  | ctr         -- the fetch of its counter block (R192)
  | tag         -- the read of its tag line, its data being back (R186)
  | decode      -- a Press decode of its COLD page (R156)
  | needThaw    -- an inline thaw that has not started (R147)
  | move        -- the commit of a move of its page (R145)
  | lock        -- an overflow, a re-encryption or a probe of its page (R189, R198, R120)
  | accept      -- preconditions met: ready to enter the buffer (R72)
  | spill       -- the answer of the lending peer (R331)
deriving DecidableEq, Repr

/-- A transaction of a slice (R108). `data` is what an owner or a forwarder returned; `counted` says that Table 16.1 has counted its page; the other flags feed the sample record
(Table 16.2), the floor-miss cause (Table 11.3) and the poisoned outcome of a timeout (R114). -/
structure Txn where
  req      : Req
  slice    : Nat
  phase    : Phase := .queued
  data     : Option Line := none
  granted  : Bool := false
  overlay  : Option (BitVec 512 × BitVec 64 × Bool) := none
  poisoned : Bool := false
  pstate   : Nat := 0
  kind     : Nat := 7
  snoop    : Bool := false
  sealed?  : Option Seal := none
  snooped  : Bool := false
  benched  : Bool := false
  moved    : Bool := false
  accMiss  : Bool := false
  counted  : Bool := false
  ctrMiss  : Bool := false
  rowMiss  : Bool := false
  source   : Nat := 0
deriving DecidableEq, Repr

/-- Directory states of Table 4.2; I is not stored. -/
inductive DirState | s | f | o
deriving DecidableEq, Repr

/-- A directory entry (Table 4.1). PIN is the existence of an open transaction or exchange on the line (R112). -/
structure DirEntry where
  line     : Nat
  st       : DirState
  sharers  : BitVec 16
  named    : Nat := 0
  evicting : Bool := false
  age      : Nat := 0
deriving DecidableEq, Repr

/-- One BISnp awaited in an exchange (R106, R114): `sent` false while it waits for a BI credit (R97). -/
structure BiWait where
  head  : Nat
  snp   : Snp
  start : Nat
  sent  : Bool
  gotData : Bool := false
deriving DecidableEq, Repr

/-- Why an exchange is open. -/
inductive ExchWhy
  | txn (id : Nat)             -- a request's own exchange (Table 4.4)
  | evict (way : Nat) (id : Nat) -- a directory eviction for a request (R111)
  | drain (ld : Nat)           -- a graceful disable (R116)
  | release (ld : Nat) (ldUnit : Nat) (keep : Bool) -- an extent release (R57)
  | sanitise                   -- SANITIZE_RANGE (R350)
  | restart                    -- a slice restart or a lost entry (R261, Table 10.2)
deriving DecidableEq, Repr

/-- An open exchange on a line (R106): what is still awaited, what the heads have answered, and every head it has snooped (R107). -/
structure Exch where
  line     : Nat
  why      : ExchWhy
  waits    : List BiWait
  data     : Option Line := none
  kept     : Option BiRsp := none
  poisoned : Bool := false
  timedOut : List Nat := []
  heads    : List Nat := []
deriving DecidableEq, Repr

/-- Why the directory is walked (R116, R57). -/
inductive WalkWhy
  | graceful (ld : Nat)
  | abrupt (ld : Nat)
  | release (ld : Nat) (ldUnit : Nat)
deriving DecidableEq, Repr

/-- A directory walk: the head it concerns and the next set of each slice (R116). -/
structure Walk where
  why  : WalkWhy
  head : Nat
  next : Tbl Nat := []
deriving DecidableEq, Repr

/-- What a read of DRAM is made for: its tier and deadline (R211), the line of the request for a DPA that caused it, if one did (R412), and the range pass that it belongs to. -/
structure ReadFor where
  tier : Nat := 3
  dl   : Option Nat := none
  dpa  : Option Nat := none
  pass : Option Nat := none
deriving DecidableEq, Repr

/-- What the reads of a request are made for. -/
def Req.readFor (q : Req) : ReadFor := { tier := q.tier, dl := q.deadline, dpa := some q.line }

/-- A write of a head that a line of the buffer holds (R91, R93): its head and LD, its number, and its class and tier. -/
structure Writer where
  head : Nat
  ld   : Nat
  id   : Nat
  cls  : Option Nat := none
  tier : Nat := 3
deriving DecidableEq, Repr

/-- A line of a slice's write-combining buffer (R71, R73): the valid bytes, poison, when it entered and when it was last written, and the writes of heads it holds, which a loss of the
buffer discards (R91, R93); `fill` numbers the read that it is merged with, and holds the seal of that read. -/
structure WcbLine where
  line   : Nat
  data   : BitVec 512
  be     : BitVec 64
  poison : Bool
  entered : Nat
  last   : Nat
  writers : List Writer := []
  fill   : Option (Nat × Option Seal) := none
deriving DecidableEq, Repr

/-- A fence accepted from a head for one of its LDs and the earlier writes it waits for (R81); every earlier write has a number below `mark`. -/
structure Fence where
  head  : Nat
  ld    : Nat := 0
  tag   : Nat
  mark  : Nat
  waits : List Nat
  fault : Bool := false
deriving DecidableEq, Repr

/-! ### Moves and Press work -/

/-- Kinds of move (Table 5.5). -/
inductive MoveKind | freeze | thaw | rehome | spill | unspill
deriving DecidableEq, Repr

/-- A move of a plan (R139): the page and, where the kind names one, its destination channel or lease. -/
structure Planned where
  page : Nat
  kind : MoveKind
  dst  : Nat := 0
deriving DecidableEq, Repr

/-- A staged move at a slice's Docent access port, with the pair that staged it (R144, R264). -/
structure Staged where
  slice : Nat
  pair  : Nat
  move  : Planned
deriving DecidableEq, Repr

/-- A move slot in use (R144, R146): the entry before the move, the destination, whether a rehome's first copy round has stored its page, the lines its present round
still copies, the lines written meanwhile, the decoded or compressed contents, and what the move ends in. -/
structure MoveSlot where
  page    : Nat
  kind    : MoveKind
  src     : Acc
  dst     : Option PageForm := none
  inlineThaw : Bool := false
  begun   : Bool := false
  todo    : BitVec 64 := 0
  dirty   : BitVec 64 := 0
  rounds  : Nat := 0
  copied  : Bool := false
  abort   : Bool := false
  fault   : Option Nat := none
  lines   : List Line := []
  engine  : Option Nat := none
  startTick : Nat := 0
deriving DecidableEq, Repr

/-- What a Press engine holds (R157): a decode for the reads of a page, a decode for a thaw or an unspill, a compression for a
freeze, a copy of a page under re-encryption (R198), an offload job with its descriptor (R174), or the decode of a range pass (R256). -/
inductive EngineUse
  | read (page : Nat) (src : PageForm) (version : Nat) (sl : Option Seal)
  | move (slice slot : Nat)
  | copy (page : Nat)
  | job (q ld : Nat) (desc : BitVec 512)
  | rake (pass : Nat)
deriving DecidableEq, Repr

/-- A node overflow that runs (R194): the node, by its level and number, and its block before the overflow. -/
structure NodeOvf where
  level : Nat
  node  : Nat
  old   : BitVec 512
deriving DecidableEq, Repr

/-- A re-encryption page operation in progress (R198). -/
structure RetireOp where
  region : Nat
  page   : Nat
deriving DecidableEq, Repr

/-- A counter overflow of a page (R189): the drained line with its data, the counter block before it, whether the page read has been admitted, and, once the page has been read and
checked, the lines still to be stored, by their index, as they are stored. -/
structure PageLock where
  page : Nat
  slice : Nat
  line : Nat
  drained : Line := {}
  old  : BitVec 512 := 0
  asked : Bool := false
  todo : Option (List (Nat × Line)) := none
deriving DecidableEq, Repr

/-! ### DRAM channels -/

/-- The metadata regions of DRAM (R125, Table 7.3): accession entries, footfall words, counter blocks and line tags of the S-space (false) and of the V-space (true), the nodes of a tree level
and the tree tags of a level's nodes, with their copy. -/
inductive MetaKind
  | acc
  | foot
  | ctr (space : Bool)
  | tag (space : Bool)
  | node (level : Nat) (copyB : Bool)
  | treeTag (level : Nat) (copyB : Bool)
deriving DecidableEq, Repr

/-- Who caused a DRAM read (SOURCE of DMC_CE_LOG_e): a transaction, a Press engine, a merge, the fill of a partial secure line, a page that is read whole, the verify read of a corrected
line, a metadata item, for what uses it or for a range pass or the patrol, a line of a page that a pass visits, or the patrol's read of a spare. -/
inductive RdWhy
  | txn (id : Nat) (part : Nat)
  | engine (e : Nat) (part : Nat)
  | merge
  | fill (line : Nat) (n : Nat)
  | page (p : Nat) (part : Nat)
  | verify (dev : Nat) (logIx : Option Nat)
  | mline (k : MetaKind) (n : Nat) (pass : Option Nat)
  | rake (pass : Nat) (p : Nat) (part : Nat)
  | scrub
deriving DecidableEq, Repr

/-- A DRAM read on its way to, in, or back from a channel (R211, R213). -/
structure DramRd where
  id    : Nat
  line  : Nat
  why   : RdWhy
  tier  : Nat := 3
  deadline : Option Nat := none
  arrival : Nat := 0
  data  : Line := {}
  snap  : Option Line := none
  missed : Bool := false
  retried : Bool := false
  dpaLine : Option Nat := none
deriving DecidableEq, Repr

/-- A write-queue entry (R210, R215): `part` holds the valid bytes while it awaits its merge read; `item` names the metadata line whose contents it stores, and `t0` says that a tier-0 request
wrote it (Table 11.3). -/
structure WrEnt where
  line   : Nat
  data   : BitVec 512
  poison : Bool := false
  part   : Option (BitVec 64) := none
  mergeId : Option Nat := none
  arrival : Nat := 0
  after  : List Nat := []
  item   : Option (MetaKind × Nat) := none
  t0     : Bool := false
deriving DecidableEq, Repr

/-- Bank state of one bank of one rank and sub-channel (R220, timing fields): open row, predictor, the last row closed, and
the DRAM-clock times of its last commands. -/
structure Bank where
  row    : Option Nat := none
  pred   : Nat := 2
  lastRow : Option Nat := none
  act    : Option Nat := none
  pre    : Option Nat := none
  rdAt   : Option Nat := none
  wrAt   : Option Nat := none
  lastTick : Nat := 0
  hits   : Nat := 0
  run    : Nat := 0
deriving DecidableEq, Repr

/-- Rank power states (Table 8.6). -/
inductive RankState | active | powerdown | selfrefresh | held
deriving DecidableEq, Repr

/-- The quantities of one lane in one temperature set (Table 9.1). -/
structure LaneSet where
  rd0 : Nat := 0
  rd1 : Nat := 0
  rv  : Nat := 0
  wv  : Nat := 0
  wr0 : Nat := 0
  wr1 : Nat := 0
deriving DecidableEq, Repr

/-- A remap being carried out (R253). -/
structure RemapJob where
  line   : Nat
  device : Nat
  data   : Line
  spare  : Nat
  tries  : Nat := 1
  entry  : Option Nat := none
  logIx  : Option Nat := none
deriving DecidableEq, Repr

/-- An error injected and not yet met (INJECT_ERROR, R249): the line, the kind and the reads it still affects. -/
structure Inject where
  line : Nat
  kind : Nat
  left : Nat
  page : Nat
deriving DecidableEq, Repr

/-- One DRAM channel: queues (R210, R212), scheduler and refresh (R217, R221), power, training sets and error handling (R249). -/
structure Dmc where
  flying  : List DramRd := []
  rq      : List DramRd := []
  wq      : List WrEnt := []
  issued  : List DramRd := []
  drain   : BitVec 2 := 0
  drainDry : BitVec 2 := 0
  runLen  : Tbl Nat := []
  banks   : Tbl Bank := []
  lastCas : List (Nat × Nat × Bool) := []
  acts    : List (Nat × Nat) := []
  owed    : Tbl Int := []
  refUntil : Tbl Nat := []
  refAt   : Tbl Nat := []
  mr4At   : Nat := 0
  wakeAt  : Tbl Nat := []
  rank    : Tbl RankState := []
  idleFrom : Tbl Nat := []
  lastSlot : Tbl Nat := []
  busy    : Tbl (List Nat) := []
  halted  : Bool := false
  sets    : Tbl LaneSet := []
  inUse   : Tbl LaneSet := []
  target  : Tbl LaneSet := []
  edges   : Tbl LaneEdges := []
  bursts  : List (Nat × Nat) := []
  passUntil : Tbl Nat := []
  passes  : Tbl Nat := []
  lastPass : Tbl Nat := []
  trainedRate : Nat := 0
  pop     : List Nat := []
  remap   : List RemapJob := []
  badSpares : List Nat := []
  unread  : List Nat := []
  lastCe  : Option (Nat × Nat) := none
  inject  : List Inject := []
  repeats : Nat := 0
  ueTicks : List Nat := []
deriving DecidableEq, Repr

/-- The capacity of one channel in the media pool (R125, R126): frames of pool and reserve together, the reserve and thaw-floor
shares, and the reserve frames now free. -/
structure MediaCh where
  frames  : Nat := 0
  resCap  : Nat := 0
  flrCap  : Nat := 0
  resFree : Nat := 0
deriving DecidableEq, Repr

/-! ### Gatehouse and Graft -/

/-- A measurement frame on its way to the central die (R17, R316): the Gatehouse's registers as it reports them. -/
abbrev GthFrame := Tbl Word

/-- What the gate drive of a feed's FET pair does (R300, R307, R308): the gate pulled down, the rate of rise of the output regulated (0.1 V/ms), the shunt voltage regulated (µV), or the pair
fully on. -/
inductive GateDrive
  | off
  | slew (rate : Nat)
  | limit (vsh : Nat)
  | full
deriving DecidableEq, Repr

/-- One feed of the Gatehouse beside its registers (R302, R304 to R309, R313, R315). Times are in samples of 1 µs: `held` that the window has held,
`since` that the feed has been in its state, `flt` on the fault timer, `low` that the shunt voltage has stayed below 0.9 × CB, `pull` since the fault timer
expired. `ovSide` is the side of the window last left, `insHold` says that the hold is the insertion hold, `hold` that the gate pull-down is held (OFF_FAIL);
`gate` is what its gate drive does. -/
structure FeedSt where
  outRun  : Nat := 0
  inRun   : Nat := 0
  ovSide  : Bool := false
  insHold : Bool := false
  held    : Nat := 0
  since   : Nat := 0
  flt     : Nat := 0
  low     : Nat := 0
  pull    : Option Nat := none
  hold    : Bool := false
  gate    : GateDrive := .off
  vx      : Nat := 0
  vsh     : Nat := 0
  sumV    : Nat := 0
  sumI    : Nat := 0
  sumP    : Nat := 0
  samples : Nat := 0
  energyPj : Nat := 0
deriving DecidableEq, Repr

/-- A switchover in progress (Table 13.3): from feed X to feed Y, whether X is confirmed off, and the µs since t0 or since the confirmation. -/
structure Switch where
  src : Feed
  dst : Feed
  confirmed : Bool := false
  age : Nat := 0
deriving DecidableEq, Repr

/-- The Gatehouse die (R300 to R316, R242 to R245): its own registers, whether its supply is present and its settings are loaded, the feeds, the output's
last voltage and window runs, the switchover, the feed that has left RAMP or ON before the selection has followed, whether the selected feed's ramp is the make phase of one, the µs of PG qualification, the frame on the link and
the tick of the last one received, forwarded writes, and the calibration progress. `coeff` holds the gain in millionths and the offset in µV of each converter and sensor
at each set point (R242), `temp` the last corrected reading of the Gatehouse's die, `carry` the converter that carries each of the four feed quantities, and `spare` the one that
carries none. -/
structure Gth where
  regs    : Tbl Word := []
  aux     : Bool := false
  loaded  : Bool := false
  fa      : FeedSt := {}
  fb      : FeedSt := {}
  vout    : Nat := 0
  outOut  : Nat := 0
  outIn   : Nat := 0
  outOver : Bool := false
  switch  : Option Switch := none
  left    : Option Feed := none
  making  : Bool := false
  qualFor : Nat := 0
  frame   : Option GthFrame := none
  lastFrame : Nat := 0
  writes  : List (Nat × Word) := []
  calDone : BitVec 6 := 0
  dieDone : BitVec 21 := 0
  coeff   : Tbl (Int × Int) := []
  temp    : Int := 0
  carry   : Tbl Nat := []
  spare   : Nat := 4
  goodRefs : Nat := 0
deriving DecidableEq, Repr

/-- A flow unit kept in the replay buffer (R324): its type and its payload. Header and CRC are made when it is sent (R323). -/
structure Fu where
  ty      : FuType
  payload : List Byte
deriving DecidableEq, Repr

/-- A request this Kelorn has sent to a peer and which is not answered (R330, R331, R333): the lines from `line` on that it covers, and whether it is a write of
part of a line. -/
structure Outst where
  tag  : Nat
  why  : RdWhy
  write : Bool
  line : Nat
  lease : Nat
  span : Nat := 1
  part : Bool := false
deriving DecidableEq, Repr

/-- A request that waits at this Kelorn until its port has fewer than 1,024 outstanding (R330), with its message; the tag is given when it is sent. -/
structure PeerReq where
  out : Outst
  msg : GMsg
deriving DecidableEq, Repr

/-- An Oxentelo exchange opened by this Kelorn (R335). -/
structure OxnOpen where
  tag   : Nat
  body  : Oxn
  tries : Nat := 1
deriving DecidableEq, Repr

/-- A peer's request in service at the lender (R332). -/
structure LentReq where
  id    : Nat
  tag   : Nat
  op    : Nat
  left  : Nat
  lines : List (Nat × Line) := []
  err   : Bool := false
deriving DecidableEq, Repr

/-- A SET_PORT_WIDTH whose change has not ended (R320, R346): its source and REQ_ID, the width, and whether it has been answered with INTERRUPTED after its commit (R347). -/
structure WidthCmd where
  src    : Agent
  reqId  : BitVec 16
  width  : Nat
  silent : Bool := false
deriving DecidableEq, Repr

/-- A Graft port beside its registers (R319 to R336). `rxReq` and `rxRsp` hold the bytes of a message whose end has not arrived (R329), `crcAt` the ticks of the CRC failures
of the last 10 µs (R320); during a retrain, `lead` says that the attempt of this end goes on, and `target` is the width a width change goes to (R321). -/
structure GPortSt where
  txNext  : Nat := 0
  seqIn   : Nat := 0
  buf     : List Fu := []
  replaying : Option Nat := none
  ackSent : Nat := 0
  reqQ    : List GMsg := []
  rspQ    : List GMsg := []
  reqOff  : Nat := 0
  rspOff  : Nat := 0
  rxReq   : List Byte := []
  rxRsp   : List Byte := []
  crcAt   : List Nat := []
  lead    : Bool := false
  target  : Option Nat := none
  outst   : List Outst := []
  waitReq : List PeerReq := []
  serving : List LentReq := []
  oxn     : List OxnOpen := []
  nextTag : Nat := 0
  session : Nat := 0
  capIn   : Bool := false
  capAns  : Bool := false
  peerGib : Nat := 0
  capSent : Nat := 0
  capAt   : Nat := 0
  askAt   : Option Nat := none
  wantWidth : Option Nat := none
  cmdWidth : List WidthCmd := []
  oxnHeld : List (BitVec 10 × Bool × Oxn) := []
  oxnToOpen : List Oxn := []
deriving DecidableEq, Repr

/-- A borrowed lease beside GFT_BORROW_n (Table 14.7): `emptyAt` is the tick since which it holds no page at level NORMAL, and `bad` its lines whose write the lender
answered with a nonzero STATUS (R332). -/
structure BorrowX where
  port   : Nat
  term   : Nat := 0
  since  : Nat := 0
  recallAt : Nat := 0
  period : Nat := 0
  emptyAt : Nat := 0
  bad    : List Nat := []
deriving DecidableEq, Repr

/-- A granted lease beside GFT_LENT_n (Table 14.8). -/
structure LentX where
  port  : Nat
  term  : Nat
  bw    : Nat
  order : Nat
  since : Nat := 0
  recallAt : Nat := 0
  period : Nat := 0
deriving DecidableEq, Repr

/-! ### Management -/

/-- A background command of a mailbox or endpoint (R346). -/
inductive BgWhy
  | disable (lds : List Nat) (abrupt : Bool)
  | sanitize (ranges : List (Nat × Nat))
  | scrub (pass : Nat)
  | fwCommit
  | fwWrite (record slot seq : Nat)
deriving DecidableEq, Repr

/-- A command that waits for the interpreter (R346): its envelope, its opcode and the bytes of its parameters. -/
structure HeldCmd where
  h    : Hdr
  op   : Nat
  args : List Byte
deriving DecidableEq, Repr

/-- A background command in progress: its source, opcode and REQ_ID (R346); and whether it has been answered with INTERRUPTED after its commit, so that its end is only recorded
(R347). -/
structure Bg where
  src    : Agent
  opcode : Nat
  reqId  : BitVec 16
  why    : BgWhy
  silent : Bool := false
deriving DecidableEq, Repr

/-- A sanitise in progress (R350): its page ranges, what is left of them, the page whose turn it is, and the pages it has returned to UNWRITTEN. -/
structure Sanit where
  ranges : List (Nat × Nat)
  left   : List (Nat × Nat)
  cur    : Option Nat := none
  count  : Nat := 0
deriving DecidableEq, Repr

/-- A replay record (R345). -/
structure ReplayRec where
  src    : Agent
  opcode : Nat
  reqId  : BitVec 16
  rc     : Nat
  detail : Nat
  value  : Nat
  body   : List Byte
deriving DecidableEq, Repr

/-- A page that a pass visits (R256): its form, version and seal when its lines were asked for, the engine that decodes its image, the lines that are back, and those that needed
correction (1) or read uncorrectable (2). -/
structure RakePage where
  page    : Nat
  form    : PageForm
  version : Nat := 0
  sealed? : Option Seal := none
  engine  : Option Nat := none
  got     : Tbl Line := []
  marks   : Tbl Nat := []
deriving DecidableEq, Repr

/-- A range pass or the patrol (R256, R258): the LD that asked for it, the page it visits and the next one, its end, and the summary of Table 10.3. -/
structure RangePass where
  id      : Nat
  patrol  : Bool := false
  owner   : Option Nat := none
  ldDpa   : Option Nat := none
  cur     : Option RakePage := none
  next    : Nat
  last    : Nat
  start   : Nat := 0
  stop    : Bool := false
  done    : Bool := false
  status  : Nat := 0
  skipped : Nat := 0
  lines   : Nat := 0
  ce      : Nat := 0
  ue      : Nat := 0
  poison  : Nat := 0
  tagFails : Nat := 0
  decFaults : Nat := 0
  remaps  : Nat := 0
  firstFail : Option Nat := none
  lastFail : Option Nat := none
deriving DecidableEq, Repr

/-- The accounting of a QoS class in the older and the newer open window (R274, R279, Table 11.3): bytes, deadline misses, and whether
one of its requests of the window's first half waited. -/
structure ClassAcct where
  older   : Nat := 0
  newer   : Nat := 0
  missOld : Nat := 0
  missNew : Nat := 0
  waitOld : Bool := false
  waitNew : Bool := false
deriving DecidableEq, Repr

/-- What leaves the block: answers, messages, interrupts and pin changes. -/
inductive Out
  | readData (a : Agent) (v : BitVec 64)
  | cfgData (dev : CfgDev) (v : Option Word)
  | memData (head : Nat) (tag : Nat) (data : BitVec 512) (poison : Bool) (mv : MetaV)
  | cmp (head : Nat) (tag : Nat) (mv : MetaV)
  | memErr (head : Nat) (tag : Nat)
  | bisnp (head ld line : Nat) (snp : Snp)
  | biConflictAck (head line : Nat)
  | msix (ld v : Nat) (addr : BitVec 64) (data : Word)
  | reply (a : Agent) (opcode : Nat) (reqId : BitVec 16) (rc detail value : Nat) (body : List Byte)
  | bgDone (a : Agent) (opcode : Nat) (reqId : BitVec 16) (rc : Nat) (body : List Byte)
  | cdat (ld : Nat) (c : List Dsmas)
  | aer (ld : Nat) (viral : Bool)
  | viral (ld : Nat)
  | fu (g : Nat) (bytes : List Byte)
  | alertN (level : Bool)
  | linkPower (head : Nat) (pstate : Nat)
  | hostWrite (ld : Nat) (addr : Nat) (bytes : List Byte) (ro : Bool)
  | hostRead0 (ld : Nat) (addr : Nat)
  | hostRead (ld : Nat) (addr : Nat) (len : Nat)
  | dcOffer (ld : Nat) (o : DcOffer)
  | dcRelease (ld : Nat) (exts : List (Nat × Nat)) (forced : Bool)
  | gate (x : Feed) (d : GateDrive)
  | dram (ch sub dimm cid prank bank : Nat) (cmd : String)
deriving DecidableEq, Repr

/-! ### The block -/

/-- Clocks, reset and boot (R29 to R33, R383 to R393). -/
structure Boot where
  pwrok    : Bool := false
  coldN    : Bool := true
  warmN    : Bool := true
  perst    : BitVec 4 := 0
  released : Bool := false
  cfgLoaded : Bool := false
  memActive : Bool := false
  env      : BootEnv := { spd := [] }
  sweep    : List (Nat × Nat) := []
  fast     : List Nat := []
  kind     : ResetKind := .standby
  cause    : Nat := 0
  afterSafe : Bool := false
  warmEntry : Bool := false
  moveDeadline : Bool := false
  h        : Nat := 0
  layoutH  : Nat := 0
  raw      : Nat := 0
  sCap     : Nat := 0
  vCap     : Nat := 0
  chans    : List Nat := []
  settings : List Byte := []
  bootLog  : List (BitVec 64) := []
  split    : BitVec 8 := 0
deriving DecidableEq, Repr

/-- The Warden beside its registers (R262 to R265). -/
structure Warden where
  fence    : List Nat := []
  reload   : List Nat := []
  kick     : Tbl Nat := []
  fenceTicks : Nat := 0
  departed : Bool := false
deriving DecidableEq, Repr

/-- SEC beside its registers (R183 to R202). `asked` are the keys of the blocks and nodes that internal work has asked for (R192), `due` the metadata lines that are to be written (R210), and
`badCopy` the copies A that have read uncorrectable (R201). -/
structure Sec where
  keys    : Tbl KeySlot := []
  kr      : BitVec 256 := 0
  store   : Tbl (BitVec 512) := []
  cache   : Tbl CacheBlk := []
  roots   : Tbl (BitVec 512) := []
  lineTags : Tbl (BitVec 64) := []
  treeTags : Tbl (BitVec 64) := []
  locks   : List PageLock := []
  nodeOvf : List NodeOvf := []
  retire  : List RetireOp := []
  gather  : Tbl (List (Nat × Line)) := []
  asked   : List Nat := []
  due     : List (MetaKind × Nat) := []
  badCopy : List (MetaKind × Nat) := []
deriving DecidableEq, Repr

/-- Placement beside its registers (R124 to R154). -/
structure Place where
  acc     : Tbl Acc := []
  accDirty : List Nat := []
  foot    : Tbl Nat := []
  used    : Tbl Nat := []
  chans   : Tbl MediaCh := []
  slots   : Tbl MoveSlot := []
  thaw    : Tbl (List Nat) := []
  busy    : Tbl (List (Nat × Nat)) := []
  freeze  : Tbl (List Nat) := []
  thawC   : Tbl (List Nat) := []
  busyC   : Tbl (List (Nat × Nat)) := []
  freezeC : Tbl (List Nat) := []
  totals  : Tbl Nat := []
  totalsC : Tbl Nat := []
  epoch   : Nat := 0
  closed  : Bool := false
  allocSet : Tbl (List Nat) := []
  rot     : Tbl Nat := []
  plan    : Tbl (List Planned) := []
  planned : List Nat := []
  staged  : List Staged := []
  scanNext : Tbl Nat := []
  scanAsk : List Nat := []
  scanned : Tbl Nat := []
  outside : List Nat := []
  refusals : Nat := 0
  lenMs   : Nat := 100
  long    : Bool := false
  epochAt : Nat := 0
deriving DecidableEq, Repr

/-- The directory beside its registers (R95 to R123). -/
structure Dir where
  ways    : Tbl DirEntry := []
  exchs   : List Exch := []
  bench   : List Txn := []
  walks   : List Walk := []
  credits : Tbl Nat := []
  probe   : Option Nat := none
deriving DecidableEq, Repr

/-- The request path beside its registers (R71 to R94). -/
structure Path where
  ingress : List Req := []
  txns    : List Txn := []
  wcb     : List WcbLine := []
  fences  : List Fence := []
  rr      : Tbl Nat := []
  lastDma : Tbl Nat := []
  restart : List Nat := []
  nextId  : Nat := 0
deriving DecidableEq, Repr

/-- A deleted queue whose posted descriptors complete with ABORTED as they are read (R177). -/
structure AbortRing where
  ld   : Nat
  base : Nat
  head : Nat
  tail : Nat
  log2 : Nat
deriving DecidableEq, Repr

/-- An offload job beside its descriptor (R173, R174): the source lines that have arrived, by LD DPA line; the outcome of the engine once it has run; and the LD DPA of the first
destination line that took no write. -/
structure Job where
  got : Tbl Line := []
  env : Option JobEnv := none
  bad : Option Nat := none
deriving DecidableEq, Repr

/-- Press beside its registers (R155 to R177): `fenced` are the queues with a fence that waits for their other jobs (R85). -/
structure Press where
  engines : Tbl EngineUse := []
  fails   : Tbl Nat := []
  sherds  : Tbl (List (Nat × Line)) := []
  lastHost : Tbl Nat := []
  aborting : Tbl AbortRing := []
  jobs    : Tbl Job := []
  fenced  : List Nat := []
  rrq     : Nat := 0
deriving DecidableEq, Repr

/-- Quality of service and the governor beside their registers (R267 to R299). -/
structure Qos where
  acct    : Tbl ClassAcct := []
  window  : Nat := 0
  t0      : Tbl Nat := []
  narrowOld : BitVec 16 := 0
  narrowNew : BitVec 16 := 0
  share   : Nat := 20
  turn    : Tbl Nat := []
  scanGap : Tbl Nat := []
  lastGov : Nat := 0
  above   : Nat := 0
  cooler  : Tbl Nat := []
  dimm    : Tbl (Option Int) := []
  dieT    : Tbl Int := []
  sensors : Tbl Int := []
  frames  : List Nat := []
  gDirty  : Bool := false
deriving DecidableEq, Repr

/-- The Catalogue beside its registers (R360 to R374): `holds` is the tick, plus 1, in which a group was cleared, under 128 + g, or an event select written, under 8 g + k. -/
structure Cat where
  stations : Tbl Nat := []
  matched : Nat := 0
  waiting : List (Nat × Nat) := []
  busy    : Option Nat := none
  ring    : List Nat := []
  holds   : Tbl Nat := []
deriving DecidableEq, Repr

/-- Firmware, OTP, commands and errors held by management (R340 to R359, R253 to R258). `raised` are the codes of the events raised in the tick `raisedAt` (R382). -/
structure Mgmt where
  otp     : Tbl Byte := []
  flash   : Tbl Byte := []
  erased  : List Nat := []
  bg      : List Bg := []
  clears  : List Sanit := []
  replays : List ReplayRec := []
  passes  : List RangePass := []
  patrolDue : Bool := false
  patrolAt : Option Nat := none
  mld     : BitVec 16 := 0
  held    : List HeldCmd := []
  logSeq  : Nat := 0
  logNew  : List Nat := []
  raised  : List Nat := []
  raisedAt : Nat := 0
  sessions : Tbl Nat := []
deriving DecidableEq, Repr

/-- A head beside its registers: the link registers of its physical link (R46), which an SLD's LD or the FM-owned LD writes, with the FM-owned LD's VDV_LINK_PM;
what the other registers of the FM-owned LD hold (R41, R46); the tick of its last traffic (R62); and whether a write of the head has been discarded since its last fence (R93). -/
structure HeadSt where
  link    : Tbl Word := []
  fm      : Tbl Word := []
  traffic : Nat := 0
  lostWrite : Bool := false
deriving DecidableEq, Repr

/-- The whole block. -/
structure State where
  pending : List Instr := []
  tick    : Nat := 0
  free    : Nat := 0
  out     : List Out := []
  regs    : Tbl Word := []
  heldLow : Tbl Word := []
  captHigh : Tbl Word := []
  boot    : Boot := {}
  warden  : Warden := {}
  heads   : Tbl HeadSt := []
  lds     : Tbl Ld := []
  regions : Tbl Region := []
  media   : Tbl Line := []
  sec     : Sec := {}
  place   : Place := {}
  dir     : Dir := {}
  path    : Path := {}
  press   : Press := {}
  dmc     : Tbl Dmc := []
  qos     : Qos := {}
  gth     : Gth := {}
  graft   : Tbl GPortSt := []
  borrow  : Tbl BorrowX := []
  lent    : Tbl LentX := []
  cat     : Cat := {}
  mgmt    : Mgmt := {}
  alertN  : Bool := true
deriving DecidableEq, Repr

/-- The block right after a standby power-up reset (R383, Table 18.5): nothing is listed in any table, so every register has
its reset value; both supplies are absent and no command waits. -/
def State.reset : State := {}

end Sys2Proof.Machine
end

