-- ==== Sys2Proof/Machine/Tbl.lean ====
section
/-! DEFINITION. Operations on sparse tables. A table is in canonical form when its keys rise strictly and it lists no value equal
to the default of its key, so that equal arrays are equal data. -/
namespace Sys2Proof

/-- The value listed for a key. -/
def Tbl.look {α : Type} (t : Tbl α) (k : Nat) : Option α :=
  match t with
  | [] => none
  | (j, v) :: r => if j = k then some v else Tbl.look r k

/-- Lists a value for a key, in order of the keys. -/
def Tbl.put {α : Type} (t : Tbl α) (k : Nat) (v : α) : Tbl α :=
  match t with
  | [] => [(k, v)]
  | (j, w) :: r => if j < k then (j, w) :: Tbl.put r k v else if j = k then (k, v) :: r else (k, v) :: (j, w) :: r

/-- Removes a key. -/
def Tbl.del {α : Type} (t : Tbl α) (k : Nat) : Tbl α :=
  match t with
  | [] => []
  | (j, w) :: r => if j = k then Tbl.del r k else (j, w) :: Tbl.del r k

/-- The value of a key, which is the default's when the key is not listed. -/
def Tbl.lookD {α : Type} (t : Tbl α) (d : α) (k : Nat) : α := (Tbl.look t k).getD d

/-- Gives a key a value, keeping the canonical form for the default d: writing the default removes the entry. -/
def Tbl.putD {α : Type} [DecidableEq α] (t : Tbl α) (d : α) (k : Nat) (v : α) : Tbl α :=
  if v = d then Tbl.del t k else Tbl.put t k v

/-- The listed keys, rising. -/
def Tbl.keys {α : Type} (t : Tbl α) : List Nat := t.map Prod.fst

/-- Applies a function to the value of a key. -/
def Tbl.upd {α : Type} [DecidableEq α] (t : Tbl α) (d : α) (k : Nat) (f : α → α) : Tbl α :=
  Tbl.putD t d k (f (Tbl.lookD t d k))

/-- Changes a listed value; a key that is not listed stays so. -/
def Tbl.modify {α : Type} (t : Tbl α) (k : Nat) (f : α → α) : Tbl α :=
  match t with
  | [] => []
  | (j, w) :: r => if j = k then (j, f w) :: r else (j, w) :: Tbl.modify r k f

/-- Strictly rising keys. -/
abbrev Tbl.Sorted {α : Type} (t : Tbl α) : Prop := (t.map Prod.fst).Pairwise (· < ·)

/-- The canonical form for a default of each key. -/
abbrev Tbl.WfOn {α : Type} [DecidableEq α] (d : Nat → α) (t : Tbl α) : Prop := Tbl.Sorted t ∧ ∀ p ∈ t, p.2 ≠ d p.1

/-- The canonical form for the default d. -/
abbrev Tbl.Wf {α : Type} [DecidableEq α] (d : α) (t : Tbl α) : Prop := Tbl.Sorted t ∧ ∀ p ∈ t, p.2 ≠ d

end Sys2Proof
end

