-- ==== Sys2Proof/Machine/Ops.lean ====
section
/-! DEFINITION. The named operations over the state: registers and their fields, what leaves the block, free values, logical devices,
interrupts, and the pieces of Nat and bit-vector arithmetic that the other files use. -/
namespace Sys2Proof.Machine

/-! ### Registers -/

/-- The 32-bit register word at an offset of BAR2 (R6). -/
def State.word (s : State) (off : Nat) : Word := Tbl.lookD s.regs (Reg.resetWord off) off

/-- Stores a register word. -/
def State.setWord (s : State) (off : Nat) (v : Word) : State :=
  { s with regs := Tbl.putD s.regs (Reg.resetWord off) off v }

/-- Two adjacent words, the low word at the lower offset (R6). -/
def State.dword (s : State) (off : Nat) : BitVec 64 := s.word (off + 4) ++ s.word off

/-- Stores two adjacent words. -/
def State.setDword (s : State) (off : Nat) (v : BitVec 64) : State :=
  (s.setWord off (v.setWidth 32)).setWord (off + 4) ((v >>> 32).setWidth 32)

/-- Bits [lo + w - 1 : lo] of a bit vector as a number. -/
def bitsOf {n : Nat} (v : BitVec n) (lo w : Nat) : Nat := (v >>> lo).toNat % 2 ^ w

/-- A bit vector with bits [lo + w - 1 : lo] replaced by the low bits of a number. -/
def setBits {n : Nat} (v : BitVec n) (lo w x : Nat) : BitVec n :=
  let m : BitVec n := BitVec.ofNat n (2 ^ w - 1) <<< lo
  (v &&& ~~~m) ||| ((BitVec.ofNat n x <<< lo) &&& m)

/-- The value of a register field. -/
def State.rd (s : State) (f : Reg.Fld) : Nat :=
  let off := f.off + 4 * (f.lo / 32)
  if f.lo % 32 + f.w ≤ 32 then bitsOf (s.word off) (f.lo % 32) f.w else bitsOf (s.dword off) (f.lo % 32) f.w

/-- The state with a register field set to the low bits of a number. -/
def State.wr (s : State) (f : Reg.Fld) (x : Nat) : State :=
  let off := f.off + 4 * (f.lo / 32)
  if f.lo % 32 + f.w ≤ 32 then s.setWord off (setBits (s.word off) (f.lo % 32) f.w x)
  else s.setDword off (setBits (s.dword off) (f.lo % 32) f.w x)

/-- A one-bit field as a truth value. -/
def State.flag (s : State) (f : Reg.Fld) : Bool := s.rd f != 0

/-- Sets a one-bit field. -/
def State.setFlag (s : State) (f : Reg.Fld) (b : Bool) : State := s.wr f (cond b 1 0)

/-- Adds to a counting field, which saturates at all ones. -/
def State.sat (s : State) (f : Reg.Fld) (n : Nat) : State := s.wr f (min (s.rd f + n) (2 ^ f.w - 1))

/-- Adds to a counting field that wraps. -/
def State.inc (s : State) (f : Reg.Fld) (n : Nat) : State := s.wr f (s.rd f + n)

/-- Bit i of a field. -/
def State.bit (s : State) (f : Reg.Fld) (i : Nat) : Bool := (s.rd f).testBit i

/-- A number with bit i set or cleared. -/
def setBit (x i : Nat) (b : Bool) : Nat :=
  match b with
  | true => x ||| 2 ^ i
  | false => if x.testBit i then x - 2 ^ i else x

/-- Sets or clears bit i of a field. -/
def State.wrBit (s : State) (f : Reg.Fld) (i : Nat) (b : Bool) : State := s.wr f (setBit (s.rd f) i b)

/-! ### Outputs and free values -/

/-- An answer, message or pin change leaves the block. (DESIGN CHOICE, safe, log entry 72) -/
def State.emit (s : State) (o : Out) : State := { s with out := o :: s.out }

/-- The next free value. (DESIGN CHOICE, safe, log entry 4) -/
def State.freeNow (s : State) : BitVec 64 := Config.freeWord s.free

/-- Passes to the following free value. (DESIGN CHOICE, safe, log entry 4) -/
def State.advanceFree (s : State) : State := { s with free := s.free + 1 }

/-- The next drawn key. -/
def State.drawNow (s : State) : BitVec 256 := Config.drawKey s.free

/-! ### Lists -/

/-- The least element of a list by a measure, the first of equals. -/
def leastBy {α : Type} (m : α → Nat) (l : List α) : Option α :=
  l.foldl (fun b a => match b with | none => some a | some x => if m a < m x then some a else some x) none

/-- The greatest element of a list by a measure, the first of equals. -/
def greatestBy {α : Type} (m : α → Nat) (l : List α) : Option α :=
  l.foldl (fun b a => match b with | none => some a | some x => if m x < m a then some a else some x) none

/-- The smallest natural number below n that satisfies a test. -/
def firstBelow (n : Nat) (p : Nat → Bool) : Option Nat := (List.range n).find? p

/-- The numbers below n whose bit is set. -/
def bitsBelow (n x : Nat) : List Nat := (List.range n).filter (fun i => x.testBit i)

/-- Adds an element that is not there yet. -/
def addOnce (l : List Nat) (a : Nat) : List Nat := if l.contains a then l else l ++ [a]

/-- Two's complement of an integer in w bits. -/
def twos (w : Nat) (x : Int) : Nat := (x % (2 ^ w : Nat)).toNat

/-- The little-endian bytes of a number. -/
def leBytes (n x : Nat) : List Byte := (List.range n).map (fun i => BitVec.ofNat 8 (x >>> (8 * i)))

/-- The number that little-endian bytes spell. -/
def ofBytes (l : List Byte) : Nat :=
  match l with
  | [] => 0
  | b :: r => b.toNat + 256 * ofBytes r

/-! ### Logical devices and heads -/

/-- A head beside its registers. -/
def State.hd (s : State) (h : Nat) : HeadSt := Tbl.lookD s.heads {} h

/-- Changes a head. -/
def State.updHead (s : State) (h : Nat) (f : HeadSt → HeadSt) : State := { s with heads := Tbl.upd s.heads {} h f }

/-- The logical device with a device index (R42). -/
def State.ld? (s : State) (i : Nat) : Option Ld := Tbl.look s.lds i

/-- Changes a logical device that exists. -/
def State.updLd (s : State) (i : Nat) (f : Ld → Ld) : State := { s with lds := Tbl.modify s.lds i f }

/-- The indices of the logical devices of a head. -/
def State.ldsOf (s : State) (h : Nat) : List Nat := (s.lds.filter (fun p => p.2.head == h)).map Prod.fst

/-- The head is in MLD mode (R41). -/
def State.isMld (s : State) (h : Nat) : Bool := s.mgmt.mld.getLsbD h

/-- The split field of port p in use. -/
def State.splitOf (s : State) (p : Nat) : Nat := bitsOf s.boot.split (2 * p) 2

/-- The head exists under the split in use (R38). -/
def State.headExists (s : State) (h : Nat) : Bool := s.flag (Reg.GLB_HEAD_STATUS_EXISTS h)

/-- The head's link is trained. -/
def State.linkUp (s : State) (h : Nat) : Bool := s.flag (Reg.GLB_HEAD_STATUS_LINK_UP h)

/-- The Warden's state: 0 RUN, 1 FENCE, 2 SAFE (GLB_WDN_STATUS). -/
def State.wdn (s : State) : Nat := s.rd Reg.GLB_WDN_STATUS_STATE

def State.isSafe (s : State) : Bool := s.wdn == 2
def State.isFence (s : State) : Bool := s.wdn == 1

/-- The link of a head carries a message: a link in L1, L1.1 or L1.2 is first brought back to L0 (R63), and its idle time starts anew (R62). -/
def State.wakeLink (s : State) (h : Nat) : State :=
  let s := s.updHead h (fun (x : HeadSt) => { x with traffic := s.tick })
  if 2 ≤ s.rd (Reg.GLB_HEAD_STATUS_PSTATE h) ∧ s.rd (Reg.GLB_HEAD_STATUS_PSTATE h) ≤ 4 then
    (s.wr (Reg.GLB_HEAD_STATUS_PSTATE h) 0).emit (.linkPower h 0)
  else s

/-- An access of an LD's host crosses the head's link (R62). -/
def State.crossLink (s : State) (a : Agent) : State :=
  match a with
  | .ld i => match s.ld? i with
    | some d => if s.linkUp d.head then s.wakeLink d.head else s
    | none => s
  | _ => s

/-- Signals a vector of a logical device: the message is sent, or the pending bit is set while the vector or the function is masked
(R60). None is sent in the Warden's safe state (R377). -/
def State.msix (s : State) (i v : Nat) : State :=
  match s.ld? i with
  | none => s
  | some d =>
    if s.isSafe then s
    else
      let e := Tbl.lookD d.msix {} v
      if d.fnMask || e.mask then s.updLd i (fun d => { d with pba := d.pba ||| (1#32 <<< v) })
      else (s.wakeLink d.head).emit (.msix i v e.addr e.data)

/-- The logical devices with MANAGE set (R44). -/
def State.manageLds (s : State) : List Nat := (s.lds.filter (fun p => p.2.manage)).map Prod.fst

/-! ### Address parts -/

/-- The home slice of a page number (R19): exclusive-or of its 5-bit groups. -/
def homeSlice (p : Nat) : Nat :=
  (List.range 7).foldl (fun a k => a ^^^ ((p >>> (5 * k)) % 32)) 0

/-- The page number of a line DPA[44:6]. -/
def pageOf (line : Nat) : Nat := line / 64

/-- The home slice of a line. -/
def sliceOfLine (line : Nat) : Nat := homeSlice (pageOf line)

/-- The 256 MiB unit of a page. -/
def unitOfPage (p : Nat) : Nat := p / 65536

/-! ### DRAM channels -/

/-- The state of a channel. -/
def State.ch (s : State) (c : Nat) : Dmc := Tbl.lookD s.dmc {} c

/-- Changes the state of a channel. -/
def State.updCh (s : State) (c : Nat) (f : Dmc → Dmc) : State := { s with dmc := Tbl.upd s.dmc {} c f }

/-- The channel is populated and trained and not lost (R206, R260). -/
def State.chLive (s : State) (c : Nat) : Bool :=
  s.flag (Reg.DMC_CFG_EN c) && !s.flag (Reg.DMC_FAULT_LOST c)

/-- Channel of line n of a metadata region, or of copy B of a mirrored tree level (R182). -/
def State.metaChan (s : State) (n : Nat) (copyB : Bool) : Nat :=
  let k := s.boot.chans.length
  (s.boot.chans[(n / 64 + (if copyB then k / 2 else 0)) % max 1 k]?).getD 0

/-- A metadata line lies on a lost channel, and so reads as uncorrectable (R260). -/
def State.metaLost (s : State) (n : Nat) (copyB : Bool := false) : Bool := s.flag (Reg.DMC_FAULT_LOST (s.metaChan n copyB))

/-- The copy of a metadata region (R182). -/
def MetaKind.copyB : MetaKind → Bool
  | .node _ b => b
  | .treeTag _ b => b
  | _ => false

/-- The line of its region that holds a metadata item: the tree tag of node n is entry n of 8 bytes (R191); every other kind is named by its line. -/
def MetaKind.line (k : MetaKind) (n : Nat) : Nat :=
  match k with
  | .treeTag .. => n / 8
  | _ => n

/-- The metadata regions with their sizes in lines, for H in 256 MiB units and secure spaces in 64 GiB units (R125, Table 7.3). Their order in a channel the spec leaves open.
(DESIGN CHOICE, safe, log entry 85) -/
def metaRegions (h sCap vCap : Nat) : List (MetaKind × Nat) :=
  [(.acc, h * 2 ^ 13), (.foot, h * 2 ^ 11), (.ctr false, sCap * 2 ^ 24), (.tag false, sCap * 2 ^ 26), (.ctr true, vCap * 2 ^ 24), (.tag true, vCap * 2 ^ 27),
   (.node 1 false, vCap * 2 ^ 18), (.node 2 false, vCap * 2 ^ 12), (.node 2 true, vCap * 2 ^ 12), (.node 3 false, vCap * 64), (.node 3 true, vCap * 64),
   (.treeTag 0 false, vCap * 2 ^ 21), (.treeTag 1 false, vCap * 2 ^ 15), (.treeTag 2 false, vCap * 512), (.treeTag 2 true, vCap * 512),
   (.treeTag 3 false, vCap * 8), (.treeTag 3 true, vCap * 8)]

/-- The regions of the layout in use. -/
def State.metaLayout (s : State) : List (MetaKind × Nat) := metaRegions s.boot.layoutH s.boot.sCap s.boot.vCap

/-- Frames of a region's lines on each of n channels: lines are interleaved in blocks of 64, 4 KiB (R182). -/
def blockShare (lines n : Nat) : Nat := ((lines + 63) / 64 + n - 1) / max 1 n

/-- The channel and media line of a metadata item (R125, R182): the regions lie above the frames of the pool and the reserve. -/
def State.metaAddr (s : State) (k : MetaKind) (n : Nat) : Nat × Nat :=
  let l := k.line n
  let c := s.metaChan l k.copyB
  let nch := s.boot.chans.length
  let before := ((s.metaLayout.takeWhile (fun e => e.1 != k)).map (fun e => blockShare e.2 nch)).sum
  (c, ((Tbl.lookD s.place.chans {} c).frames + before + l / 64 / max 1 nch) * 64 + l % 64)

/-- A read of a metadata item has been sent and has not come back. -/
def State.metaPending (s : State) (k : MetaKind) (n : Nat) : Bool :=
  let d := s.ch (s.metaChan (k.line n) k.copyB)
  (d.flying ++ d.rq ++ d.issued).any (fun (r : DramRd) => match r.why with | .mline j m _ => j == k && m == n | _ => false)

/-- The state of a Graft port. -/
def State.gp (s : State) (g : Nat) : GPortSt := Tbl.lookD s.graft {} g

/-- Changes the state of a Graft port. -/
def State.updGp (s : State) (g : Nat) (f : GPortSt → GPortSt) : State := { s with graft := Tbl.upd s.graft {} g f }

/-! ### Duties -/

/-- The pair that holds a duty of Table 1.5 now (R34). -/
def State.dutyOwner (s : State) (duty : Nat) : Nat := bitsOf (s.word 0x120) (4 * duty) 4

/-- A pair is healthy. -/
def State.healthy (s : State) (p : Nat) : Bool := s.bit Reg.GLB_WDN_STATUS_HEALTHY p

/-- The pair that holds a duty runs it: it is healthy, and no fence lasts for a failure of it (R34, R35). -/
def State.dutyUp (s : State) (duty : Nat) : Bool := s.healthy (s.dutyOwner duty) && !s.warden.fence.contains (s.dutyOwner duty)

end Sys2Proof.Machine
end

