-- ==== Sys2Proof/Machine/Firmware.lean ====
section
/-! DEFINITION. Firmware images and boot records in the SPI flash, and the OTP array (R353 to R359): SHA-384, ECDSA P-384 verification, the
choice of a slot at boot, and the settings in use. -/
namespace Sys2Proof.Machine

/-! ### SHA-384 -/

/-- Round constants of SHA-384. -/
def shaK0 : List Nat :=
  [0x428A2F98D728AE22, 0x7137449123EF65CD, 0xB5C0FBCFEC4D3B2F, 0xE9B5DBA58189DBBC, 0x3956C25BF348B538,
   0x59F111F1B605D019, 0x923F82A4AF194F9B, 0xAB1C5ED5DA6D8118, 0xD807AA98A3030242, 0x12835B0145706FBE,
   0x243185BE4EE4B28C, 0x550C7DC3D5FFB4E2, 0x72BE5D74F27B896F, 0x80DEB1FE3B1696B1, 0x9BDC06A725C71235,
   0xC19BF174CF692694, 0xE49B69C19EF14AD2, 0xEFBE4786384F25E3, 0x0FC19DC68B8CD5B5, 0x240CA1CC77AC9C65]

/-- Round constants of SHA-384. -/
def shaK1 : List Nat :=
  [0x2DE92C6F592B0275, 0x4A7484AA6EA6E483, 0x5CB0A9DCBD41FBD4, 0x76F988DA831153B5, 0x983E5152EE66DFAB,
   0xA831C66D2DB43210, 0xB00327C898FB213F, 0xBF597FC7BEEF0EE4, 0xC6E00BF33DA88FC2, 0xD5A79147930AA725,
   0x06CA6351E003826F, 0x142929670A0E6E70, 0x27B70A8546D22FFC, 0x2E1B21385C26C926, 0x4D2C6DFC5AC42AED,
   0x53380D139D95B3DF, 0x650A73548BAF63DE, 0x766A0ABB3C77B2A8, 0x81C2C92E47EDAEE6, 0x92722C851482353B]

/-- Round constants of SHA-384. -/
def shaK2 : List Nat :=
  [0xA2BFE8A14CF10364, 0xA81A664BBC423001, 0xC24B8B70D0F89791, 0xC76C51A30654BE30, 0xD192E819D6EF5218,
   0xD69906245565A910, 0xF40E35855771202A, 0x106AA07032BBD1B8, 0x19A4C116B8D2D0C8, 0x1E376C085141AB53,
   0x2748774CDF8EEB99, 0x34B0BCB5E19B48A8, 0x391C0CB3C5C95A63, 0x4ED8AA4AE3418ACB, 0x5B9CCA4F7763E373,
   0x682E6FF3D6B2B8A3, 0x748F82EE5DEFB2FC, 0x78A5636F43172F60, 0x84C87814A1F0AB72, 0x8CC702081A6439EC]

/-- Round constants of SHA-384. -/
def shaK3 : List Nat :=
  [0x90BEFFFA23631E28, 0xA4506CEBDE82BDE9, 0xBEF9A3F7B2C67915, 0xC67178F2E372532B, 0xCA273ECEEA26619C,
   0xD186B8C721C0C207, 0xEADA7DD6CDE0EB1E, 0xF57D4F7FEE6ED178, 0x06F067AA72176FBA, 0x0A637DC5A2C898A6,
   0x113F9804BEF90DAE, 0x1B710B35131C471B, 0x28DB77F523047D84, 0x32CAAB7B40C72493, 0x3C9EBE0A15C9BEBC,
   0x431D67C49C100D4C, 0x4CC5D4BECB3E42B6, 0x597F299CFC657E2A, 0x5FCB6FAB3AD6FAEC, 0x6C44198C4A475817]

/-- Initial hash value of SHA-384. -/
def shaIv : List Nat :=
  [0xCBBB9D5DC1059ED8, 0x629A292A367CD507, 0x9159015A3070DD17, 0x152FECD8F70E5939, 0x67332667FFC00B31,
   0x8EB44A8768581511, 0xDB0C2E0D64F98FA7, 0x47B5481DBEFA4FA4]

/-- A word of 64 bits. -/
def w64 (x : Nat) : Nat := x % 2 ^ 64

/-- Rotation to the right. -/
def rotr (n x : Nat) : Nat := w64 ((x >>> n) ||| (x <<< (64 - n)))

/-- The message schedule, newest word first. -/
def shaExtend (n : Nat) (ws : List Nat) : List Nat :=
  match n with
  | 0 => ws
  | k + 1 =>
    let a := (ws[1]?).getD 0
    let b := (ws[14]?).getD 0
    let s1 := rotr 19 a ^^^ rotr 61 a ^^^ (a >>> 6)
    let s0 := rotr 1 b ^^^ rotr 8 b ^^^ (b >>> 7)
    shaExtend k (w64 (s1 + (ws[6]?).getD 0 + s0 + (ws[15]?).getD 0) :: ws)

/-- One round on the eight working variables. -/
def shaRound (h : List Nat) (kw : Nat) : List Nat :=
  match h with
  | [a, b, c, d, e, f, g, i] =>
    let s1 := rotr 14 e ^^^ rotr 18 e ^^^ rotr 41 e
    let ch := (e &&& f) ^^^ ((2 ^ 64 - 1 - e) &&& g)
    let t1 := i + s1 + ch + kw
    let s0 := rotr 28 a ^^^ rotr 34 a ^^^ rotr 39 a
    let maj := (a &&& b) ^^^ (a &&& c) ^^^ (b &&& c)
    [w64 (t1 + s0 + maj), a, b, c, w64 (d + t1), e, f, g]
  | _ => h

/-- One block of 128 bytes. -/
def shaBlock (h : List Nat) (block : List Nat) : List Nat :=
  let w0 := (chunk 16 8 block).map beNat
  let ws := (shaExtend 64 w0.reverse).reverse
  let r := (List.zipWith (· + ·) (shaK0 ++ shaK1 ++ shaK2 ++ shaK3) ws).foldl shaRound h
  List.zipWith (fun x y => w64 (x + y)) h r

/-- SHA-384 of a message of bytes, as a number whose first byte is the most significant. (DEDUCED, unsafe, log entry 5) -/
def sha384 (m : List Byte) : Nat :=
  let bytes := m.map (·.toNat)
  let pad := (240 - (bytes.length + 1) % 128) % 128
  let msg := bytes ++ [0x80] ++ List.replicate (pad % 128) 0 ++ beBytes 16 (8 * bytes.length)
  let h := (chunk (msg.length / 128) 128 msg).foldl shaBlock shaIv
  (h.take 6).foldl (fun a x => a * 2 ^ 64 + x) 0

/-! ### ECDSA over P-384 -/

def p384P : Nat := 2 ^ 384 - 2 ^ 128 - 2 ^ 96 + 2 ^ 32 - 1
def p384N : Nat := 0xFFFFFFFFFFFFFFFFFFFFFFFFFFFFFFFFFFFFFFFFFFFFFFFFC7634D81F4372DDF581A0DB248B0A77AECEC196ACCC52973
def p384B : Nat := 0xB3312FA7E23EE7E4988E056BE3F82D19181D9C6EFE8141120314088F5013875AC656398D8A2ED19D2A85C8EDD3EC2AEF
def p384G : Nat × Nat :=
  (0xAA87CA22BE8B05378EB1C71EF320AD746E1D3B628BA79B9859F741E082542A385502F25DBF55296C3A545E3872760AB7,
   0x3617DE4A96262C6F5D9E98BF9292DC29F8F41DBD289A147CE9DA3113B5F0B8C00A60B1CE1D7E819D7A431D7C90EA0E5F)

/-- a ^ e modulo m, e of n bits. -/
def powMod (n a e m : Nat) : Nat :=
  match n with
  | 0 => 1 % m
  | k + 1 => let r := powMod k (a * a % m) (e / 2) m; if e % 2 = 1 then a * r % m else r

/-- The inverse modulo a prime. -/
def invMod (a p : Nat) : Nat := powMod 384 (a % p) (p - 2) p

/-- A point of the curve; none is the point at infinity. -/
abbrev EcPoint := Option (Nat × Nat)

/-- The sum of two points. -/
def ecAdd (a b : EcPoint) : EcPoint :=
  match a, b with
  | none, q => q
  | q, none => q
  | some (x1, y1), some (x2, y2) =>
    let p := p384P
    if x1 = x2 ∧ (y1 + y2) % p = 0 then none
    else
      let l := if x1 = x2 then (3 * x1 * x1 + p - 3) * invMod (2 * y1) p % p else (y2 + p - y1) * invMod (x2 + p - x1) p % p
      let x3 := (l * l + 2 * p - x1 - x2) % p
      some (x3, (l * (x1 + p - x3) + p - y1) % p)

/-- A multiple of a point. -/
def ecMul (n k : Nat) (a : EcPoint) : EcPoint :=
  match n with
  | 0 => none
  | m + 1 => let r := ecMul m (k / 2) (ecAdd a a); if k % 2 = 1 then ecAdd a r else r

/-- The signature (r, s) over a hash verifies under the public key (x, y). (DEDUCED, unsafe, log entry 5) -/
def ecdsaOk (x y hash r s : Nat) : Bool :=
  let p := p384P
  let n := p384N
  if r = 0 ∨ n ≤ r ∨ s = 0 ∨ n ≤ s ∨ p ≤ x ∨ p ≤ y ∨ (y * y) % p ≠ (x * x * x + (p - 3) * x + p384B) % p then false
  else
    let w := invMod s n
    match ecAdd (ecMul 384 (hash * w % n) (some p384G)) (ecMul 384 (r * w % n) (some (x, y))) with
    | none => false
    | some (vx, _) => vx % n == r

/-! ### The SPI flash -/

/-- The slot that a flash address lies in: 0 A, 1 B (Table 15.16), 2 for none. -/
def slotOf (a : Nat) : Nat := if a < 0x100000 then 2 else if a < 0x1100000 then 0 else if a < 0x2100000 then 1 else 2

/-- A byte of the flash: what has been written; else FFh in a slot that has been erased, and what the part was given elsewhere. (PRESUMED, unsafe, log entry 45) -/
def State.flashAt (s : State) (a : Nat) : Byte :=
  (Tbl.look s.mgmt.flash a).getD (if s.mgmt.erased.contains (slotOf a) then 0xFF#8 else Config.flashByte a)

/-- Bytes of the flash. -/
def State.flashBytes (s : State) (a n : Nat) : List Byte := (List.range n).map (fun k => s.flashAt (a + k))

/-- Writes bytes into the flash. -/
def State.flashPut (s : State) (a : Nat) (l : List Byte) : State :=
  { s with mgmt := { s.mgmt with flash := (l.zipIdx).foldl (fun (t : Tbl Byte) (e : Byte × Nat) => Tbl.put t (a + e.2) e.1) s.mgmt.flash } }

/-- The first byte of a slot: 0 A, 1 B. -/
def slotBase (slot : Nat) : Nat := 0x100000 + slot * 0x1000000

/-- A boot record: its slot and SEQ when its CHECK is correct. -/
def State.bootRecord (s : State) (k : Nat) : Option (Nat × Nat) :=
  let b := s.flashBytes (0x1000 * k) 10
  if ofBytes (b.drop 6) = crc32c 0 (b.take 6) ∧ ofBytes (b.take 1) = 1 then
    some (ofBytes ((b.drop 1).take 1) % 2, ofBytes ((b.drop 2).take 4))
  else none

/-- Writes a boot record, whole, or torn: with a wrong CHECK (R355). -/
def State.putBootRecord (s : State) (k slot seq : Nat) (torn : Bool) : State :=
  let b := leBytes 1 1 ++ leBytes 1 slot ++ leBytes 4 seq
  s.flashPut (0x1000 * k) (b ++ leBytes 4 (crc32c 0 b ^^^ torn.toNat))

/-! ### The OTP array -/

/-- A byte of the OTP array; a fuse reads 0 until it is programmed. Byte a holds fuses 8a to 8a + 7. -/
def State.otpAt (s : State) (a : Nat) : Byte := Tbl.lookD s.mgmt.otp 0 a

/-- The 256 bytes of settings block g (Table 15.17). -/
def State.settingsBlock (s : State) (g : Nat) : List Byte := (List.range 256).map (fun k => s.otpAt (512 + 256 * g + k))

/-- A block is valid for a generation (R357). -/
def blockValid (b : List Byte) (g : Nat) : Bool :=
  ofBytes (b.take 1) == 1 && ofBytes ((b.drop 1).take 1) == g && ofBytes ((b.drop 0xF8).take 4) == crc32c 0 (b.take 0xF8)

/-- The highest valid generation. -/
def State.bestGen (s : State) : Option Nat := [3, 2, 1, 0].find? (fun g => blockValid (s.settingsBlock g) g)

/-- REVOKE_k is programmed: fuse 2,560 + k. -/
def State.revoked (s : State) (k : Nat) : Bool := (s.otpAt 320).getLsbD k

/-- KEY_HASH_k is programmed. -/
def keyPresent (k : Nat) : Bool := Config.keyHash k != 0

/-- n bytes at an offset of a settings block; of no block, 0 (Table 15.18). -/
def setField (b : List Byte) (off n : Nat) : Nat := ofBytes ((b.drop off).take n)

/-! ### Verifying an image (R353) -/

/-- Big-endian bytes of the flash as a number. -/
def State.flashBe (s : State) (a n : Nat) : Nat := beNat ((s.flashBytes a n).map (·.toNat))

/-- The programmed, unrevoked key hash that a public key matches. -/
def State.keyOf (s : State) (hash : Nat) : Option Nat :=
  [0, 1, 2, 3].find? (fun k => keyPresent k && !s.revoked k && (Config.keyHash k).toNat == hash)

/-- The outcome of checking a slot: the failure of BOOT_STATUS, 0 for none, and the key. -/
def State.checkImage (s : State) (slot minSvn : Nat) : Nat × Nat :=
  let a := slotBase slot
  let len := ofBytes (s.flashBytes (a + 8) 4)
  if s.flashAt a ≠ 1 ∨ ofBytes (s.flashBytes (a + 12) 2) ≠ 0x9640 ∨ 0x1000000 - 512 < len then (1, 0)
  else match s.keyOf (sha384 (s.flashBytes (a + 16) 96)) with
    | none => (2, 0)
    | some k =>
      if (s.flashAt (a + 1)).toNat < minSvn then (3, k)
      else if ecdsaOk (s.flashBe (a + 16) 48) (s.flashBe (a + 64) 48) (sha384 (s.flashBytes a 0x1A0)) (s.flashBe (a + 0x1A0) 48)
          (s.flashBe (a + 0x1D0) 48) = false then (4, k)
      else if sha384 (s.flashBytes (a + 512) len) ≠ s.flashBe (a + 0x70) 48 then (5, k)
      else (0, k)

/-- The slot a boot tries first (R354): that of the record with a correct CHECK and, of two, the higher SEQ; A when there is none. -/
def State.firstSlot (s : State) : Nat :=
  match s.bootRecord 0, s.bootRecord 1 with
  | some (x, a), some (y, b) => if a < b then y else x
  | some (x, _), none => x
  | none, some (y, _) => y
  | none, none => 0

/-- What the boot ROM finds: the slot and key that run, and the failures of both slots. -/
structure BootPick where
  run   : Option (Nat × Nat)
  failA : Nat
  failB : Nat
deriving DecidableEq, Repr

/-- The boot ROM tries the slots in order and runs the first valid image (R354). -/
def State.pickImage (s : State) (minSvn : Nat) : BootPick :=
  let x := s.firstSlot
  let rx := s.checkImage x minSvn
  if rx.1 = 0 then { run := some (x, rx.2), failA := 0, failB := 0 }
  else
    let ry := s.checkImage (1 - x) minSvn
    let fails (slot : Nat) : Nat := if slot = x then rx.1 else ry.1
    { run := if ry.1 = 0 then some (1 - x, ry.2) else none, failA := fails 0, failB := fails 1 }

end Sys2Proof.Machine
end

