-- ==== Sys2Proof/Machine/Convert.lean ====
section
/-! DEFINITION. Quantities held at eight set points and interpolated over temperature (R234, R235), and the calibrated converters and sensors that read through such
coefficients (R242, R245). Converters are numbered 0 to 5, the sixth that of the Gatehouse's temperature sensor; sensors follow from 6: the central die, the four memory PHY
dies, the sixteen channels. -/
namespace Sys2Proof.Machine

/-! ### Set points -/

/-- T_k in 1/16 °C (Table 9.3). -/
def setPoints : List Int := [80, 320, 560, 800, 1040, 1280, 1520, 1680]

/-- The interval that holds T: below the first point and above the last one, the first and the last interval. (DEDUCED, unsafe, log entry 49) -/
def intervalOf (t : Int) : Nat := ((List.range 7).find? (fun k => decide (t < setPoints.getD (k + 1) 0))).getD 6

/-- One quantity interpolated between its values in sets k and k + 1, rounded half up; outside the points it is the nearer set's (R235). -/
def interpolateInt (t : Int) (v : Nat → Int) : Int :=
  if t ≤ 80 then v 0
  else if 1680 ≤ t then v 7
  else
    let k := intervalOf t
    let a := setPoints.getD k 0
    let b := setPoints.getD (k + 1) 0
    (2 * (b - a) * v k + 2 * (v (k + 1) - v k) * (t - a) + (b - a)) / (2 * (b - a))

/-- The same for a quantity that is never negative. -/
def interpolate (t : Int) (v : Nat → Nat) : Nat := (interpolateInt t (fun k => (v k : Int))).toNat

/-! ### Coefficients -/

/-- The key of a coefficient pair: that of converter or sensor n at set point k. -/
def coeffKey (n k : Nat) : Nat := n * 8 + k

/-- The gain and offset of a converter or sensor at a temperature. -/
def Gth.coeffAt (g : Gth) (n : Nat) (t : Int) : Int × Int :=
  (interpolateInt t (fun k => (Tbl.lookD g.coeff (0, 0) (coeffKey n k)).1), interpolateInt t (fun k => (Tbl.lookD g.coeff (0, 0) (coeffKey n k)).2))

/-- A conversion of so many µV, corrected. (DESIGN CHOICE, unsafe, log entry 52) -/
def Gth.convert (g : Gth) (n : Nat) (t uv : Int) : Int :=
  let x := g.coeffAt n t
  uv + uv * x.1 / 10 ^ 6 + x.2

/-- An offset in the units of the readings. -/
def offsetUnits (n : Nat) (uv : Int) : Int := if uv = 0 then 0 else Config.offsetIn n uv

/-- A reading of a quantity, corrected; `zero` is what its scale shows where the converter converts zero. (DESIGN CHOICE, unsafe, log entry 52) -/
def Gth.correct (g : Gth) (n : Nat) (t zero raw : Int) : Int :=
  let x := g.coeffAt n t
  raw + (raw - zero) * x.1 / 10 ^ 6 + offsetUnits n x.2

/-- Absolute zero in 1/16 °C, to which a temperature sensor's converter is proportional (R244). -/
def absZero : Int := -4370

/-- The die whose temperature indexes a sensor's coefficients: its own for the five dies, that of its memory PHY die for a channel's. -/
def dieOf (sensor : Nat) : Nat := if sensor < 5 then sensor else 1 + (sensor - 5) / 4

/-- The last corrected reading of a die's sensor, 0 before the first. -/
def State.dieT (s : State) (d : Nat) : Int := Tbl.lookD s.qos.dieT 0 d

/-- The corrected reading of a sensor of the central die or a memory PHY die (R242). -/
def State.sensed (s : State) (sensor : Nat) (raw : Int) : Int := s.gth.correct (6 + sensor) (s.dieT (dieOf sensor)) absZero raw

/-- A sensor's reading is taken and kept, corrected; one that does not read has none (R242, R296). The last reading of each of the five dies stays, since it indexes the
coefficients of its sensors. -/
def State.noteSensor (s : State) (n : Nat) (raw : Option Int) : State :=
  match raw.map (s.sensed n) with
  | none => { s with qos := { s.qos with sensors := Tbl.del s.qos.sensors n } }
  | some t => { s with qos := { s.qos with sensors := Tbl.put s.qos.sensors n t, dieT := if n < 5 then Tbl.put s.qos.dieT n t else s.qos.dieT } }

/-- The sensors of the central die and the four memory PHY dies are read. -/
def State.noteDies (s : State) (dies : List (Option Int)) : State :=
  (List.range 5).foldl (fun (s : State) n => s.noteSensor n (dies.getD n none)) s

/-- The coefficients of the interval that holds T move by the measured errors (R242). -/
def State.adjust (s : State) (n : Nat) (t gain off : Int) : State :=
  let add (c : Tbl (Int × Int)) (k : Nat) : Tbl (Int × Int) :=
    let v := Tbl.lookD c (0, 0) (coeffKey n k)
    Tbl.put c (coeffKey n k) (v.1 + gain, v.2 + off)
  { s with gth := { s.gth with coeff := add (add s.gth.coeff (intervalOf t)) (intervalOf t + 1) } }

/-- A calibration step: with zero and a reference of so many µV converted, the errors that the corrected conversions show are taken out of the coefficients (R242, R243). -/
def State.calibrate (s : State) (n : Nat) (t zero ref value : Int) : State :=
  let z := s.gth.convert n t zero
  let r := s.gth.convert n t ref
  s.adjust n t ((value - (r - z)) * 10 ^ 6 / value) (-z)

/-- The coefficients of converters and sensors are those fused at test (R243). -/
def State.loadTrims (s : State) (first n : Nat) : State :=
  let keys := (List.range n).flatMap (fun i => (List.range 8).map (fun k => coeffKey (first + i) k))
  { s with gth := { s.gth with coeff := keys.foldl (fun (t : Tbl (Int × Int)) (k : Nat) => Tbl.put t k (Config.trim k)) s.gth.coeff } }

end Sys2Proof.Machine
end

