-- ==== Sys2Proof/Machine/Flags.lean ====
section
/-! DEFINITION. Events, the cause tree and the counters: raising an event (R13, R375 to R382), what the alert summary and
ALERT_N follow, and counting in the Catalogue's groups, stations and LD counters (R360 to R371). -/
namespace Sys2Proof.Machine

/-! ### The counter groups -/

/-- What the filter of a group sees of an occurrence (R364): a request of a head with its class, a head, or the device. -/
inductive Scope
  | req (head : Nat) (cls : Option Nat)
  | head (h : Nat)
  | dev
deriving DecidableEq, Repr

/-- The group counts: EN set and FREEZE clear (R360, R362). -/
def State.groupOn (s : State) (g : Nat) : Bool := s.flag (Reg.CAT_GRP_CTL_EN g) && !s.flag (Reg.CAT_GRP_CTL_FREEZE g)

/-- The event a counter of a group selects. -/
def State.evsel (s : State) (g k : Nat) : Nat := s.rd ⟨0x2200008 + 0x100 * g + 4 * (k / 2), 16 * (k % 2), 16⟩

/-- The filter of a group lets an occurrence through (R364). -/
def State.passes (s : State) (g : Nat) (sc : Scope) : Bool :=
  match sc with
  | .dev => true
  | .head h => s.bit (Reg.CAT_GRP_FILTER_HEAD_MASK g) h
  | .req h c => s.bit (Reg.CAT_GRP_FILTER_HEAD_MASK g) h
      && (s.flag (Reg.CAT_GRP_FILTER_ANY_CLASS g) || c == some (s.rd (Reg.CAT_GRP_FILTER_CLASS g)))

/-- Adds to CNTk of a group, modulo 2^48, setting its overflow bit when it wraps (R361). -/
def State.addCnt (s : State) (g k n : Nat) : State :=
  let v := s.rd (Reg.CAT_GRP_CNT_COUNT g k) + n
  let s := s.wr (Reg.CAT_GRP_CNT_COUNT g k) v
  if v < 2 ^ 48 then s else s.wrBit (Reg.CAT_GRP_CTL_OVF g) k true

/-- Adds to TICKS of a group, modulo 2^48, setting TICK_OVF when it wraps (R361). -/
def State.addTicks (s : State) (g n : Nat) : State :=
  let v := s.rd (Reg.CAT_GRP_TICKS_TICKS g) + n
  let s := s.wr (Reg.CAT_GRP_TICKS_TICKS g) v
  if v < 2 ^ 48 then s else s.setFlag (Reg.CAT_GRP_CTL_TICK_OVF g) true

/-- A group, under 128 + g, or a counter, under 8 g + k, counts nothing in this tick: the group has been cleared, or the counter's event select written (R362). -/
def State.heldOff (s : State) (key : Nat) : Bool := Tbl.look s.cat.holds key == some (s.tick + 1)

/-- A group or a counter counts from the next tick (R362). -/
def State.holdOff (s : State) (key : Nat) : State := { s with cat := { s.cat with holds := Tbl.put s.cat.holds key (s.tick + 1) } }

/-- Every counter of group g that selects an event counts n occurrences of it. -/
def State.cntGroup (s : State) (g ev : Nat) (sc : Scope) (n : Nat) : State :=
  if s.groupOn g && s.passes g sc && !s.heldOff (128 + g) then
    (List.range 8).foldl (fun s k => if s.evsel g k = ev ∧ s.heldOff (8 * g + k) = false then s.addCnt g k n else s) s
  else s

/-- The groups that have ever been written; no other group is enabled, EN being 0 after reset. -/
def State.groups (s : State) : List Nat := (List.range 16).filter (fun g => (Tbl.look s.regs (0x2200000 + 0x100 * g)).isSome)

/-- Counts n occurrences of an event of Table 16.1 in every group. -/
def State.cnt (s : State) (ev : Nat) (sc : Scope) (n : Nat := 1) : State :=
  s.groups.foldl (fun s g => s.cntGroup g ev sc n) s

/-- Adds to a local counter of a station (R371): 32 bits, wrapping. -/
def State.stn (s : State) (station word : Nat) (n : Nat := 1) : State :=
  let k := station * 16 + word
  { s with cat := { s.cat with stations := Tbl.upd s.cat.stations 0 k (fun v => (v + n) % 2 ^ 32) } }

/-- Adds to one of an LD's own counters (Table 16.3): 48 bits, wrapping. Words: 0 READS, 1 WRITES, 2 POISONED, 3 ERRORS, 4 READ_LAT,
5 DL_MISSES, 6 BISNP. -/
def State.ldCnt (s : State) (i word : Nat) (n : Nat := 1) : State :=
  s.updLd i (fun d => { d with counters := Tbl.upd d.counters 0 word (fun v => (v + n) % 2 ^ 48) })

/-! ### The cause tree -/

/-- The block numbers of Table 0.6 other than the DMCs, in the order of the summary bits 0 to 5 and 7 to 10. -/
def summaryBlocks : List (Nat × Nat) :=
  [(0, 1), (1, 2), (2, 3), (3, 4), (4, 5), (5, 6), (7, 0x20), (8, 0x21), (9, 0x22), (10, 0x23)]

/-- A block has an unmasked cause bit set (R381). -/
def State.causeOn (s : State) (b : Nat) : Bool :=
  (s.word (0x2300100 + 4 * b) &&& ~~~(s.word (0x2300200 + 4 * b)) &&& 0xFFFFFFFE#32) != 0#32

/-- ALR_DMC_SUMMARY (R381). -/
def State.dmcSummary (s : State) : Nat :=
  (List.range 16).foldl (fun a c => if s.causeOn (0x10 + c) then a + 2 ^ c else a) 0

/-- ALR_ALERT_SUMMARY, which follows the cause bits (R381, R382). -/
def State.alertSummary (s : State) : Nat :=
  let a := summaryBlocks.foldl (fun a p => if s.causeOn p.2 then a + 2 ^ p.1 else a) 0
  let a := if s.dmcSummary = 0 then a else a + 2 ^ 6
  let a := if s.flag Reg.ALR_LOG_STATUS_OVF then a + 2 ^ 11 else a
  if s.isSafe then a + 2 ^ 12 else a

/-- The summary bits that drive ALERT_N and vector 6: those ALR_ALERT_MASK leaves, and SAFE (R381). -/
def State.alertBits (s : State) : Nat := s.alertSummary &&& (0xFFFF - s.rd Reg.ALR_ALERT_MASK_MASK)

/-- The level ALERT_N takes: low while any unmasked summary bit is set (R381). -/
def State.alertLevel (s : State) : Bool := s.alertBits == 0

/-- Signals vector 6 of every MANAGE LD when an unmasked summary bit has become 1 since an earlier state (Table 17.5). -/
def State.alertVector (old s : State) : State :=
  if (s.alertBits &&& (0xFFFF - (old.alertBits &&& 0xFFFF))) = 0 then s
  else s.manageLds.foldl (fun s i => s.msix i 6) s

/-! ### Events -/

/-- How an event is routed to the LD logs (Table 17.1). -/
inductive Route | d | a | h | l | c | e
deriving DecidableEq, Repr

/-- Severity and routing of an event by its block and cause (Table 17.3): 0 I, 1 W, 2 F, 3 X. ARG0 decides PRESSURE's severity. -/
def evInfo (code arg0 : Nat) : Nat × Route :=
  let b := code / 256
  let k := code % 256
  if 0x10 ≤ b ∧ b ≤ 0x1F then
    match k with
    | 1 => (1, .d) | 2 => (0, .d) | 3 => (2, .d) | 4 => (1, .d) | 5 => (2, .a) | 6 => (1, .d) | 7 => (2, .e) | _ => (0, .d)
  else match code with
  | 0x0101 => (1, .h) | 0x0102 => (1, .l) | 0x0103 => (2, .l) | 0x0104 => (1, .d) | 0x0105 => (2, .d) | 0x0106 => (1, .d)
  | 0x0201 => (1, .c) | 0x0202 => (2, .c) | 0x0203 => (0, .d) | 0x0204 => (2, .c) | 0x0205 => (0, .c)
  | 0x0301 => (2, .a) | 0x0302 => (0, .d) | 0x0303 => (2, .a) | 0x0304 => (2, .d)
  | 0x0305 => (if arg0 < 2 then 0 else 1, .d)
  | 0x0306 => (3, .e) | 0x0307 => (3, .a) | 0x0308 => (1, .a)
  | 0x0401 => (1, .d) | 0x0402 => (1, .d) | 0x0403 => (2, .a)
  | 0x0501 => (2, .a) | 0x0502 => (2, .a) | 0x0503 => (0, .d) | 0x0504 => (2, .a) | 0x0505 => (2, .a)
  | 0x0601 => (2, .a) | 0x0602 => (3, .e)
  | 0x2001 => (1, .d) | 0x2002 => (1, .d) | 0x2003 => (2, .d) | 0x2004 => (0, .d)
  | 0x2101 => (1, .d) | 0x2102 => (1, .d) | 0x2103 => (0, .d) | 0x2104 => (2, .d) | 0x2105 => (0, .d) | 0x2106 => (1, .d)
  | 0x2107 => (1, .d)
  | 0x2201 => (2, .d) | 0x2202 => (2, .d) | 0x2203 => (3, .e)
  | 0x2301 => (1, .d) | 0x2302 => (1, .d) | 0x2303 => (3, .d) | 0x2304 => (1, .d)
  | _ => (0, .d)

/-- The offset of device-log entry e. -/
def logBase (e : Nat) : Nat := 0x2308000 + 0x20 * e

/-- Writes a new device-log entry at NEXT (Table 17.4). -/
def State.logWrite (s : State) (code sev arg0 arg1 : Nat) (r : Route) : State :=
  let e := s.rd Reg.ALR_LOG_STATUS_NEXT
  let ld := match r with | .l => (arg0 % 64) * 2 ^ 18 + 2 ^ 24 | _ => 0
  let b := logBase e
  let s' := s.setWord b (BitVec.ofNat 32 (code + sev * 2 ^ 16 + ld))
  let s' := s'.setWord (b + 4) (BitVec.ofNat 32 s.mgmt.logSeq)
  let s' := s'.setDword (b + 8) (BitVec.ofNat 64 (s.tick % 2 ^ 48))
  let s' := s'.setDword (b + 16) (BitVec.ofNat 64 arg0)
  let s' := s'.setDword (b + 24) (BitVec.ofNat 64 arg1)
  let s' := if 1024 ≤ s.mgmt.logSeq then s'.setFlag Reg.ALR_LOG_STATUS_OVF true else s'
  let s' := s'.wr Reg.ALR_LOG_STATUS_NEXT ((e + 1) % 1024)
  { s' with mgmt := { s'.mgmt with logSeq := s.mgmt.logSeq + 1, logNew := s.mgmt.logNew.filter (· != e) ++ [e] } }

/-- The entry among the 16 newest whose code and ARG0 equal those given, newest first (R378). (DEDUCED, unsafe, log entry 66) -/
def State.mergeable (s : State) (code arg0 : Nat) : Option Nat :=
  let n := s.rd Reg.ALR_LOG_STATUS_NEXT
  ((List.range (min 16 s.mgmt.logSeq)).map (fun k => (n + 1023 - k) % 1024)).find? (fun e =>
    s.rd (Reg.ALR_LOG_CODE e) = code ∧ s.rd (Reg.ALR_LOG_ARG0 e) = arg0 % 2 ^ 64)

/-- The event is among those raised in this tick (R382). -/
def State.noteRaised (s : State) (code : Nat) : State :=
  { s with mgmt := { s.mgmt with raised := code :: (if s.mgmt.raisedAt = s.tick then s.mgmt.raised else []), raisedAt := s.tick } }

/-- An event is raised: its device-log entry is written, or merged into an equal one among the 16 newest unless it is fatal, and its
cause bit is set when its severity is at least MIN_SEV (R378, R381). Vector 6 follows the summary. (DEDUCED, unsafe, log entry 66) -/
def State.raise (s : State) (code : Nat) (arg0 : Nat := 0) (arg1 : Nat := 0) : State :=
  let (sev, r) := evInfo code arg0
  let s := s.noteRaised code
  let s1 := match (if sev = 3 then none else s.mergeable code arg0) with
    | some e => s.sat (Reg.ALR_LOG_REPEAT e) 1
    | none => s.logWrite code sev arg0 arg1 r
  let s2 := if s.rd Reg.ALR_ALERT_CFG_MIN_SEV ≤ sev then
      s1.setWord (0x2300100 + 4 * (code / 256)) (s1.word (0x2300100 + 4 * (code / 256)) ||| (1#32 <<< (code % 256)))
    else s1
  State.alertVector s s2

/-- An event of a DMC block: cause k of channel c. -/
def State.raiseCh (s : State) (c k : Nat) (arg0 : Nat := 0) (arg1 : Nat := 0) : State :=
  s.raise ((0x10 + c) * 256 + k) arg0 arg1

/-! ### Snapshot walks -/

/-- A station's word as a walk captures it (R371). The spec names no occurrence that words 0 to 3 of a host port count, flits and their corrections, so they are free values.
(DESIGN CHOICE, safe, log entry 118) -/
def State.stationWord (s : State) (k : Nat) : Nat :=
  if 113 * 16 ≤ k ∧ k < 117 * 16 ∧ k % 16 < 4 then (Config.freeWord (s.free + k)).toNat % 2 ^ 32 else Tbl.lookD s.cat.stations 0 k

/-- A walk into a buffer captures every station's counters in one cycle (R372). -/
def State.capture (s : State) (b trig : Nat) : State :=
  let ring := (List.range (121 * 16)).map s.stationWord
  let s := s.setFlag (Reg.CAT_GATHER_STATUS_VALID b) false
  let s := s.setFlag (Reg.CAT_GATHER_STATUS_BUSY b) true
  let s := s.wr (Reg.CAT_GATHER_STATUS_TRIGGER b) trig
  let s := s.setFlag (Reg.CAT_GATHER_STATUS_ABANDONED b) false
  let s := s.wr (Reg.CAT_GATHER_STATUS_TICK b) (s.tick % 2 ^ 48)
  { s with free := s.free + 121 * 16, cat := { s.cat with busy := some b, ring := ring } }

/-- A waiting walk of a buffer starts. (DEDUCED, unsafe, log entry 58) -/
def State.startWalk (s : State) (b trig : Nat) : State :=
  let s : State := { s with cat := { s.cat with waiting := s.cat.waiting.filter (fun (w : Nat × Nat) => w.1 != b) } }
  s.capture b trig

/-- The walk into LATEST is abandoned (R373). -/
def State.abandonLatest (s : State) : State :=
  let s := (s.setFlag (Reg.CAT_GATHER_STATUS_ABANDONED 1) true).setFlag (Reg.CAT_GATHER_STATUS_BUSY 1) false
  { s with cat := { s.cat with busy := none, ring := [] } }

/-- A walk is triggered into a buffer (R373): 0 RECOVERY, 1 LATEST. One into RECOVERY abandons a walk into LATEST that is in progress, and captures at once. A trigger merges into one for the
same buffer that already waits. (DEDUCED, unsafe, log entry 58) -/
def State.trigger (s : State) (b trig : Nat) : State :=
  if b = 0 ∧ s.cat.busy = some 1 then s.abandonLatest.startWalk 0 trig
  else if s.cat.waiting.any (fun (w : Nat × Nat) => w.1 == b) then s
  else { s with cat := { s.cat with waiting := s.cat.waiting ++ [(b, trig)] } }

/-! ### Replies to commands -/

/-- A source's reply is recorded (R345): the last 16 of that source with a nonzero REQ_ID. -/
def State.recordReply (s : State) (r : ReplayRec) : State :=
  if r.reqId = 0 then s
  else
    let others := s.mgmt.replays.filter (fun (x : ReplayRec) => x.src != r.src)
    let mine := s.mgmt.replays.filter (fun (x : ReplayRec) => x.src == r.src)
    { s with mgmt := { s.mgmt with replays := others ++ mine.drop (mine.length - 15) ++ [r] } }

/-- The payload of a reply: that of a YCS command begins with the header of Table 15.3 (R344). -/
def replyBytes (opcode : Nat) (reqId : BitVec 16) (detail value : Nat) (body : List Byte) : List Byte :=
  if 0xC000 ≤ opcode then leBytes 2 reqId.toNat ++ leBytes 1 detail ++ leBytes 1 0 ++ leBytes 4 value ++ body else body

/-- The words of a payload, those that are not 0. -/
def payloadWords (b : List Byte) : Tbl Word :=
  ((List.range ((b.length + 3) / 4)).map (fun k => (k, BitVec.ofNat 32 (ofBytes ((b.drop (4 * k)).take 4))))).filter (fun (e : Nat × Word) => e.2 != 0#32)

/-- A reply in the registers of a mailbox (R340): the payload and its length, the return code, the Background Operation bit, and the doorbell clear. (PRESUMED, unsafe, log entry 77) -/
def Mbox.answered (m : Mbox) (opcode rc : Nat) (busy : Bool) (b : List Byte) : Mbox :=
  { m with ctl := m.ctl &&& 0xFFFFFFFE#32, cmd := BitVec.ofNat 64 (opcode + b.length * 2 ^ 16), status := BitVec.ofNat 64 (busy.toNat + rc * 2 ^ 32), data := payloadWords b }

/-- A background command's completion in the registers of a mailbox (R346): opcode, 100 % and return code, its output in the payload, and the Background Operation bit clear. (PRESUMED, unsafe, log entry 77) -/
def Mbox.completed (m : Mbox) (opcode rc : Nat) (b : List Byte) : Mbox :=
  { m with bg := BitVec.ofNat 64 (opcode + 100 * 2 ^ 16 + rc * 2 ^ 32), status := m.status &&& 0xFFFFFFFFFFFFFFFE#64, data := payloadWords b }

/-- A background command of a source runs (R346). -/
def State.bgOf (s : State) (a : Agent) : Option Bg := s.mgmt.bg.find? (fun (b : Bg) => b.src == a)

/-- A reply leaves the block; a mailbox holds it and signals vector 0 (Table 17.5). -/
def State.sendReply (s : State) (a : Agent) (opcode : Nat) (reqId : BitVec 16) (rc detail value : Nat) (body : List Byte) : State :=
  let s := (s.crossLink a).emit (.reply a opcode reqId rc detail value body)
  match a with
  | .ld i => (s.updLd i (fun (d : Ld) => { d with mbox := d.mbox.answered opcode rc (s.bgOf a).isSome (replyBytes opcode reqId detail value body) })).msix i 0
  | _ => s

/-- The completion of a background command leaves the block, and a mailbox signals vector 0 (R346). -/
def State.sendDone (s : State) (b : Bg) (rc : Nat) (body : List Byte) : State :=
  let s := s.emit (.bgDone b.src b.opcode b.reqId rc body)
  match b.src with
  | .ld i => (s.updLd i (fun (d : Ld) => { d with mbox := d.mbox.completed b.opcode rc (replyBytes b.opcode b.reqId 0 0 body) })).msix i 0
  | _ => s

/-- An engine that has failed verify as often as RETIRE_AT says is retired from compression work, with its event (R158). -/
def State.retireEngine (s : State) (e : Nat) : State :=
  if max 1 (s.rd Reg.PRS_CFG_RETIRE_AT) ≤ Tbl.lookD s.press.fails 0 e ∧ s.bit Reg.PRS_RETIRED_ENGINE e = false then
    (s.wrBit Reg.PRS_RETIRED_ENGINE e true).raise 0x0401 e
  else s

end Sys2Proof.Machine
end

