-- ==== Sys2Proof/Machine/Operands.lean ====
section
/-! DEFINITION. How a command's address becomes a place: HDM decoders and the alias window (R51, R52), the extent map (R53), regions,
channels and DRAM coordinates (R208), remapped lines (R253), and the class, tier and deadline of a request (R267 to R272). -/
namespace Sys2Proof.Machine

/-! ### Decoders and extents -/

/-- The offset within the device of an offset within an interleaved range: IW ways at a granularity of IG bytes (R51). -/
def deinterleave (off iw ig : Nat) : Nat := (off / (ig * iw)) * ig + off % ig

/-- The logical device a request of a head addresses: the one named by its LD-ID on an MLD head, the head's one LD on an SLD head (R53). -/
def State.ldOfReq (s : State) (h ldId : Nat) : Option Nat :=
  (s.ldsOf h).find? (fun i => !s.isMld h || (s.ld? i).any (fun d => d.ldId == ldId))

/-- What an HPA decodes to at the port (R51, R52). -/
inductive Decoded
  | miss
  | bell (label bucket : Nat)
  | hole (label bucket : Nat)
  | dpa (ldDpa label bucket : Nat) (labelled : Bool)
deriving DecidableEq, Repr

/-- The committed decoder an HPA hits. -/
def Ld.hit (d : Ld) (hpa : Nat) : Option Decoder :=
  (d.decoders.map Prod.snd).find? (fun e => e.base ≤ hpa ∧ hpa < e.base + e.size)

/-- The pseudocode of R51. -/
def Ld.decode (d : Ld) (hpa : Nat) : Decoded :=
  match d.hit hpa with
  | none => .miss
  | some e =>
    let off := hpa - e.base
    match e.aliasLog with
    | none => .dpa (e.dpa + deinterleave off e.iw e.ig) 0 0 false
    | some lw =>
      let w := 2 ^ lw
      let span := e.iw * w
      let a := off / span
      let dev := deinterleave (off - a * span) e.iw e.ig
      if w - 0x10000000 ≤ dev then
        if (dev - (w - 0x10000000)) / 64 = 0 then .bell (a / 4) (a % 4) else .hole (a / 4) (a % 4)
      else .dpa (e.dpa + dev) (a / 4) (a % 4) true

/-- The extent of a logical device that covers a 256 MiB unit of LD DPA and satisfies a test. -/
def Ld.extentAt (d : Ld) (u : Nat) (p : Extent → Bool) : Option Extent :=
  d.exts.find? (fun e => e.ldUnit ≤ u && u < e.ldUnit + e.len && p e)

/-- The device DPA of an LD DPA through the port's copy of the extent map (R53, R56), for a DPA below H (R124). -/
def State.portDpa (s : State) (d : Ld) (ldDpa : Nat) : Option Nat :=
  match d.extentAt (ldDpa / 2 ^ 28) (fun e => e.port) with
  | none => none
  | some e =>
    let u := e.unit + (ldDpa / 2 ^ 28 - e.ldUnit)
    if u < s.boot.h then some (u * 2 ^ 28 + ldDpa % 2 ^ 28) else none

/-- The device DPA of an LD DPA through every copy of the map, for transfers the Kelorn makes itself (R173). -/
def State.ldToDpa (s : State) (i ldDpa : Nat) : Option Nat :=
  match s.ld? i with
  | none => none
  | some d => s.portDpa d ldDpa

/-- Whether an extent of a logical device that covers a device DPA unit is in force at a home slice (R56, R57). -/
def Ld.inForce (d : Ld) (unit slice : Nat) : Bool :=
  d.exts.any (fun e => e.unit ≤ unit && unit < e.unit + e.len && e.slices.getLsbD slice)

/-- The logical device of a head whose extent map covers a device DPA unit (R96). -/
def State.mapper (s : State) (h unit : Nat) : Option Nat :=
  (s.ldsOf h).find? (fun i => (s.ld? i).any (fun d => d.exts.any (fun e => e.unit ≤ unit && unit < e.unit + e.len)))

/-- Every logical device whose extent map covers a device DPA unit. -/
def State.mappers (s : State) (unit : Nat) : List Nat :=
  (s.lds.filter (fun p => p.2.exts.any (fun e => e.unit ≤ unit && unit < e.unit + e.len))).map Prod.fst

/-! ### Regions and pages -/

/-- The region descriptor whose range holds a page, with its index. -/
def State.regionAt (s : State) (p : Nat) : Option (Nat × Region) :=
  s.regions.find? (fun r => r.2.base ≤ unitOfPage p ∧ unitOfPage p < r.2.base + r.2.len)

/-- The security class of a page: that of its region (R178). -/
def State.clsOf (s : State) (p : Nat) : SecClass :=
  match s.regionAt p with
  | some (_, r) => r.cls
  | none => .plain

/-- The page lies in an HDM-DB region and not in the lend region (R95). -/
def State.isDb (s : State) (p : Nat) : Bool :=
  match s.regionAt p with
  | some (_, r) => r.hdmDb && !r.lend
  | none => false

/-- Changes a region descriptor that exists. -/
def State.updRegion (s : State) (i : Nat) (f : Region → Region) : State := { s with regions := Tbl.modify s.regions i f }

/-- The entry of a page that is not listed: UNWRITTEN, or unreadable where the accession line, of eight entries, lies on a lost channel
(R128, R260). -/
def State.accDefault (s : State) (p : Nat) : Acc := if s.metaLost (p / 8) then { form := .unreadable } else {}

/-- The accession entry of a page. -/
def State.acc (s : State) (p : Nat) : Acc := Tbl.lookD s.place.acc (s.accDefault p) p

/-- Stores an accession entry; the cached copy is dirty until it is written back. -/
def State.setAcc (s : State) (p : Nat) (a : Acc) : State :=
  { s with place := { s.place with acc := Tbl.putD s.place.acc (s.accDefault p) p a, accDirty := addOnce s.place.accDirty p } }

/-- Changes only the form of an entry: VERSION and FSTAMP are kept. -/
def State.setForm (s : State) (p : Nat) (f : PageForm) : State := s.setAcc p { s.acc p with form := f }

/-- The STATE encoding of Table 5.2; an entry that cannot be read is one of a reserved STATE (R128). -/
def formCode : PageForm → Nat
  | .unwritten _ => 0
  | .hot .. => 1
  | .cold .. => 2
  | .spilled .. => 3
  | .migrating _ => 4
  | .unreadable => 5

/-- Bits [54:17] of an entry by its state (Table 5.1). -/
def formBits : PageForm → Nat
  | .unwritten pz => if pz then 1 else 0
  | .hot c fr inc => c + fr * 2 ^ 4 + (match inc with | some g => (g + 16) * 2 ^ 32 | none => 0)
  | .cold c sh n => c + sh * 2 ^ 4 + n * 2 ^ 35
  | .spilled l u n => l + u * 2 ^ 6 + n * 2 ^ 35
  | .migrating k => k
  | .unreadable => 0

/-- The form that STATE and bits [54:17] of an entry spell (Tables 5.1, 5.2). -/
def formOf (st b : Nat) : PageForm :=
  match st with
  | 0 => .unwritten (b.testBit 0)
  | 1 => .hot (b % 2 ^ 4) (b / 2 ^ 4 % 2 ^ 28) (if b.testBit 36 then some (b / 2 ^ 32 % 16) else none)
  | 2 => .cold (b % 2 ^ 4) (b / 2 ^ 4 % 2 ^ 31) (b / 2 ^ 35 % 8)
  | 3 => .spilled (b % 2 ^ 6) (b / 2 ^ 6 % 2 ^ 29) (b / 2 ^ 35 % 8)
  | 4 => .migrating (b % 2 ^ 4)
  | _ => .unreadable

/-- CLASS of Table 5.1. -/
def clsCode : SecClass → Nat
  | .plain => 0
  | .sealed => 1
  | .vitrine => 2

/-- The 64-bit accession entry of a page, which lies at offset 8 × page of the accession region (R127, Table 5.1). -/
def State.accWord (s : State) (p : Nat) : BitVec 64 :=
  let a := s.acc p
  let ix := match s.regionAt p with | some e => e.1 | none => 0
  BitVec.ofNat 64 (formCode a.form + clsCode (s.clsOf p) * 2 ^ 3 + ix * 2 ^ 5 + formBits a.form * 2 ^ 17 + (a.version % 32) * 2 ^ 55 + (a.fstamp % 16) * 2 ^ 60)

/-- The entry that a word spells; a reserved STATE makes the page unreadable (R128). -/
def accOf (w : BitVec 64) : Acc := { form := formOf (bitsOf w 0 3) (bitsOf w 17 38), version := bitsOf w 55 5, fstamp := bitsOf w 60 4 }

/-- A page is under a move. -/
def Acc.isMigrating (a : Acc) : Bool := match a.form with | .migrating _ => true | _ => false

/-- The key of a move slot of a slice. -/
def slotKey (slice slot : Nat) : Nat := slice * 16 + slot

/-- The move slot of a MIGRATING page. -/
def State.slotOf (s : State) (p : Nat) : Option (Nat × MoveSlot) :=
  match (s.acc p).form with
  | .migrating n => (Tbl.look s.place.slots (slotKey (homeSlice p) n)).map (fun m => (slotKey (homeSlice p) n, m))
  | _ => none

/-- Changes a move slot in use. -/
def State.updSlot (s : State) (k : Nat) (f : MoveSlot → MoveSlot) : State :=
  { s with place := { s.place with slots := Tbl.modify s.place.slots k f } }

/-- Where a page's data is now: its own form, or the move's source while it is MIGRATING (R137, R145). -/
def State.srcForm (s : State) (p : Nat) : PageForm :=
  match s.slotOf p with
  | some (_, m) => m.src.form
  | none => (s.acc p).form

/-! ### Media lines -/

/-- A DRAM address decoded by Table 8.3 for a channel of 2^r logical ranks. -/
structure Coord where
  sub  : Nat
  bg   : Nat
  ba   : Nat
  lr   : Nat
  row  : Nat
  col  : Nat
deriving DecidableEq, Repr

def coord (r l : Nat) : Coord :=
  let row := l >>> (13 + r)
  { sub := l % 2, bg := ((l >>> 1) % 8) ^^^ (row % 8), ba := ((l >>> 11) % 4) ^^^ ((row >>> 3) % 4),
    lr := (l >>> 13) % 2 ^ r, row := row, col := (l >>> 4) % 128 }

/-- The coordinates of a media line of a channel. -/
def State.coordOf (s : State) (c l : Nat) : Coord := coord (s.rd (Reg.DMC_CFG_RANK_LOG2 c)) l

/-- The media line of a DRAM address: Table 8.3 read backwards. -/
def lineOf (r : Nat) (x : Coord) : Nat :=
  x.sub + 2 * (x.bg ^^^ (x.row % 8)) + 16 * x.col + 2 ^ 11 * (x.ba ^^^ ((x.row >>> 3) % 4)) + 2 ^ 13 * x.lr + 2 ^ (13 + r) * x.row

/-- Bank index 4 × bank group + bank. -/
def Coord.bank (x : Coord) : Nat := 4 * x.bg + x.ba

/-- The key of a bank of a rank of a sub-channel. -/
def bankKey (sub lr bank : Nat) : Nat := (sub * 16 + lr) * 32 + bank

/-- Lines of a channel: its capacity in 64-byte lines (Table 8.1). -/
def State.chLines (s : State) (c : Nat) : Nat :=
  let dens := match s.rd (Reg.DMC_CFG_DENSITY c) with | 0 => 16 | 1 => 24 | _ => 32
  let dimms := if s.flag (Reg.DMC_CFG_TWO_DPC c) then 2 else 1
  let pr := if s.flag (Reg.DMC_CFG_PRANKS c) then 2 else 1
  let hh := 2 ^ s.rd (Reg.DMC_CFG_HEIGHT c)
  dimms * dens * pr * hh * 2 ^ 25

/-- The first line of the training rows (R239): the last row of every bank. -/
def State.trainBase (s : State) (c : Nat) : Nat := s.chLines c - 2 ^ (13 + s.rd (Reg.DMC_CFG_RANK_LOG2 c))

/-- The media line of spare s (R254). -/
def State.spareLine (s : State) (c n : Nat) : Nat := s.trainBase c - 1024 + n

/-- The remap entry that redirects a line. -/
def State.remapOf (s : State) (c l : Nat) : Option Nat :=
  if s.rd (Reg.DMC_REMAP_CTL_USED c) = 0 then none
  else firstBelow 64 (fun e => s.flag (Reg.DMC_REMAP_VALID c e) && s.rd (Reg.DMC_REMAP_LINE c e) == l)

/-- The line that commands to a media line go to: its spare while a remap entry names it (R253). -/
def State.physLine (s : State) (c l : Nat) : Nat :=
  match s.remapOf c l with
  | some e => s.spareLine c (s.rd (Reg.DMC_REMAP_SPARE c e))
  | none => l

/-- The key of a line in the stored contents of DRAM. -/
def mediaKey (c l : Nat) : Nat := c * 2 ^ 34 + l

/-- The line stored at a media line, through the remap table. A line that nothing has written reads as zeros (DESIGN CHOICE, unsafe, log entry 6). -/
def State.lineAt (s : State) (c l : Nat) : Line := Tbl.lookD s.media {} (mediaKey c (s.physLine c l))

/-- Stores a line at a media line, through the remap table. (DESIGN CHOICE, unsafe, log entry 6) -/
def State.putLine (s : State) (c l : Nat) (x : Line) : State :=
  { s with media := Tbl.putD s.media {} (mediaKey c (s.physLine c l)) x }

/-- Stores a line at a media line itself, past the remap table. -/
def State.putRaw (s : State) (c l : Nat) (x : Line) : State := { s with media := Tbl.putD s.media {} (mediaKey c l) x }

/-- Bytes selected by a mask: bit n of the mask stands for byte n. -/
def byteMask (be : BitVec 64) : BitVec 512 :=
  (List.range 64).foldl (fun m i => if be.getLsbD i then m ||| (0xFF#512 <<< (8 * i)) else m) 0

/-- The bytes of new named by the mask over those of old. -/
def mergeBytes (old new : BitVec 512) (be : BitVec 64) : BitVec 512 :=
  if be = BitVec.allOnes 64 then new else (old &&& ~~~(byteMask be)) ||| (new &&& byteMask be)

/-- A partial write over a line: poison stays unless all 64 bytes are covered (R76, R92). -/
def Line.merge (old : Line) (new : BitVec 512) (be : BitVec 64) (poison : Bool) : Line :=
  { data := mergeBytes old.data new be, poison := poison || (old.poison && be != BitVec.allOnes 64) }

/-- The write-queue entry of a line. -/
def State.wqEntry (s : State) (c l : Nat) : Option WrEnt := (s.ch c).wq.find? (fun e => e.line == l)

/-- What a read of a media line would find: the write queue's data over the stored line (R213). -/
def State.visible (s : State) (c l : Nat) : Line :=
  match s.wqEntry c l with
  | none => s.lineAt c l
  | some e => match e.part with
    | none => { data := e.data, poison := e.poison }
    | some be => (s.lineAt c l).merge e.data be e.poison

/-! ### Class, tier and deadline -/

/-- The label-map entry of a head: the class when the entry is valid (R268). -/
def State.labelClass (s : State) (h label : Nat) : Option Nat :=
  let w := s.word (0x200200 + 0x20 * h + 4 * (label / 4))
  if w.getLsbD (8 * (label % 4) + 6) then some (bitsOf w (8 * (label % 4)) 6) else none

/-- The class of a request with a label (R268). -/
def State.classOf (s : State) (h label : Nat) : Option Nat :=
  let c := match s.labelClass h label with
    | some c => some c
    | none => s.labelClass h (s.rd (Reg.QOS_HEAD_CTL_DEFAULT_LABEL h))
  match c with
  | some c => if s.flag (Reg.QOS_CLASS_CTL_VALID c) then some c else none
  | none => none

/-- The root multiplier in use, N. -/
def State.rootN (s : State) : Nat := s.rd Reg.GLB_CLK_STATUS_ROOT_MULT_ACTIVE

/-- Ticks of 100 µs. -/
def State.us100 (s : State) : Nat := s.rootN * 1250

/-- Ticks of a millisecond. -/
def State.ms (s : State) : Nat := s.rootN * 12500

/-- The ticks of the older open window that have elapsed (R274): windows of N × 12,500 ticks start every N × 6,250. Before the second
window starts, the first one stands for the older. (DESIGN CHOICE, unsafe, log entry 107) -/
def State.elapsed (s : State) : Nat :=
  let half := s.rootN * 6250
  if half = 0 then 0 else s.tick % half + (if s.tick < half then 0 else half)

/-- The accounting of a class. -/
def State.acct (s : State) (c : Nat) : ClassAcct := Tbl.lookD s.qos.acct {} c

/-- Changes the accounting of a class. -/
def State.updAcct (s : State) (c : Nat) (f : ClassAcct → ClassAcct) : State :=
  { s with qos := { s.qos with acct := Tbl.upd s.qos.acct {} c f } }

/-- The request waited on an exchange, a move, a lock or the bench: noted in each open window in whose first half it arrived (Table 11.3). -/
def State.noteWait (s : State) (q : Req) : State :=
  match q.cls with
  | none => s
  | some c =>
    let half := s.rootN * 6250
    let start := s.tick - s.tick % max 1 half
    if start ≤ q.arrival then
      s.updAcct c (fun a => { a with waitNew := true, waitOld := a.waitOld || decide (s.tick < half) })
    else if start ≤ q.arrival + half then s.updAcct c (fun a => { a with waitOld := true })
    else s

/-- A 64-byte transfer of a tier-0 request (Table 11.3): on channel k below 16, 16 to a SPILLED page, 17 metadata; 18 counts all. The older
window's counts lie at k, the newer's at 32 + k. -/
def State.noteT0 (s : State) (k : Nat) : State :=
  let add (t : Tbl Nat) (i : Nat) : Tbl Nat := Tbl.upd t 0 i (· + 64)
  { s with qos := { s.qos with t0 := add (add (add (add s.qos.t0 k) (32 + k)) 18) 50 } }

/-- A metadata line transferred on a channel for a tier-0 request. -/
def State.noteMeta (s : State) (c : Nat) : State :=
  let add (t : Tbl Nat) (i : Nat) : Tbl Nat := Tbl.upd t 0 i (· + 64)
  let s := s.noteT0 17
  { s with qos := { s.qos with t0 := add (add s.qos.t0 c) (32 + c) } }

/-- A head runs narrower than its lanes allow (Table 2.2), or has left L0. -/
def State.headNarrow (s : State) (h : Nat) : Bool :=
  let full := match s.splitOf (h / 4) with | 0 => 4 | 1 => 3 | _ => 2
  s.headExists h && (decide (s.rd (Reg.GLB_HEAD_STATUS_WIDTH h) < full) || s.rd (Reg.GLB_HEAD_STATUS_PSTATE h) != 0)

/-- The heads that run narrow now, noted in both open windows (Table 11.3). -/
def State.noteHeads (s : State) : State :=
  let v : BitVec 16 := (List.range 16).foldl (fun v h => if s.headNarrow h then v ||| (1#16 <<< h) else v) 0
  { s with qos := { s.qos with narrowOld := s.qos.narrowOld ||| v, narrowNew := s.qos.narrowNew ||| v } }

/-- The effective budget of a class (R277); a BUDGET below FLOOR is taken as FLOOR (Table 11.1), while its register keeps what was set. (DEDUCED, unsafe, log entry 48) -/
def State.effBudget (s : State) (c : Nat) : Nat :=
  let f := s.rd (Reg.QOS_CLASS_FLOOR_FLOOR c)
  let b := s.rd (Reg.QOS_CLASS_BUDGET_BUDGET c)
  if f ≠ 0 then max b f
  else (if b = 0xFFFFF then s.rd Reg.QOS_G_G else b) * s.rd Reg.QOS_BE_SCALE_SCALE / 128

/-- A class's count is below its floor threshold at this tick (R276). -/
def State.belowFloor (s : State) (c : Nat) : Bool :=
  (s.acct c).older * (s.rootN * 25) < s.rd (Reg.QOS_CLASS_FLOOR_FLOOR c) * s.elapsed * 2

/-- A class's count is above its budget threshold at this tick (R276); a class with a floor and no budget has none. -/
def State.overBudget (s : State) (c : Nat) : Bool :=
  !(s.rd (Reg.QOS_CLASS_BUDGET_BUDGET c) == 0xFFFFF && s.rd (Reg.QOS_CLASS_FLOOR_FLOOR c) != 0)
    && s.effBudget c * s.elapsed * 2 < (s.acct c).older * (s.rootN * 25)

/-- The tier of a request at arrival (Table 11.2). -/
def State.tierOf (s : State) (cls : Option Nat) : Nat :=
  match cls with
  | none => 3
  | some c =>
    if s.rd (Reg.QOS_CLASS_FLOOR_FLOOR c) ≠ 0 ∧ s.flag (Reg.QOS_CLASS_CTL_SHED c) = false ∧ s.belowFloor c = true then 0
    else
      let b := s.rd (Reg.QOS_CLASS_CTL_BASE_TIER c)
      if s.overBudget c then min 3 (b + 1) else b

/-- The deadline of a request of a class in a bucket (R272). -/
def State.deadlineOf (s : State) (cls : Option Nat) (bucket : Nat) : Option Nat :=
  match cls, bucket with
  | some _, 0 => none
  | some c, 1 => some (s.tick + s.rd (Reg.QOS_CLASS_DL1_DL c))
  | some c, 2 => some (s.tick + s.rd (Reg.QOS_CLASS_DL2_DL c))
  | some c, _ => some (s.tick + s.rd (Reg.QOS_CLASS_DL3_DL c))
  | none, _ => none

end Sys2Proof.Machine
end

