-- ==== Sys2Proof/Machine/LineCode.lean ====
section
/-! DEFINITION. The line code (R246 to R248): the Reed-Solomon code over GF(2^16) of one stored line. A read meets an error pattern of
640 bits, the 512 data bits in stored order and then the check symbols 32 to 39; the encoder makes every syndrome of a clean line
zero, so what the DMC sees is the syndromes of the pattern, and those of Π when the line is stored poison. -/
namespace Sys2Proof.Machine

/-- Multiplication by α in GF(2^16) with x^16 + x^12 + x^3 + x + 1. -/
def gfStep (x : Nat) : Nat := if x < 2 ^ 15 then 2 * x else (2 * x) ^^^ 0x1100B

/-- Multiplication in GF(2^16): n more bits of b. -/
def gfMul16 (n a b : Nat) : Nat :=
  match n with
  | 0 => 0
  | n + 1 => (if b % 2 = 1 then a else 0) ^^^ gfMul16 n (gfStep a) (b / 2)

/-- The product of two field elements. -/
def gmul (a b : Nat) : Nat := gfMul16 16 a b

/-- α^n. -/
def gexp (n : Nat) : Nat :=
  match n with
  | 0 => 1
  | n + 1 => gfStep (gexp n)

/-- a^(2^n - 2) for n squarings, which is 1 / a for n = 16. -/
def ginvGo (n a acc : Nat) : Nat :=
  match n with
  | 0 => acc
  | n + 1 => let a2 := gmul a a; ginvGo n a2 (gmul acc a2)

/-- The inverse of a nonzero field element. -/
def ginv (a : Nat) : Nat := ginvGo 15 a 1

/-- The line bit that is bit n of data symbol p (Table 10.1): symbol 4d + c, bit 4b' + j is DQ 4d + j at beat 4c + b'. -/
def symBit (p n : Nat) : Nat :=
  let dq := 4 * (p / 4) + n % 4
  8 * (4 * (4 * (p % 4) + n / 4) + dq / 8) + dq % 8

/-- Symbol p of an error pattern. -/
def symOf (err : BitVec 640) (p : Nat) : Nat :=
  if 32 ≤ p then bitsOf err (512 + 16 * (p - 32)) 16
  else (List.range 16).foldl (fun a n => if err.getLsbD (symBit p n) then a + 2 ^ n else a) 0

/-- The nonzero symbols of a pattern, with their positions. -/
def errSyms (err : BitVec 640) : List (Nat × Nat) :=
  ((List.range 40).map (fun p => (p, symOf err p))).filter (fun e => e.2 != 0)

/-- S_j of a list of symbol errors (R246). -/
def synd (es : List (Nat × Nat)) (j : Nat) : Nat := es.foldl (fun a e => a ^^^ gmul e.2 (gexp (j * e.1))) 0

/-- The eight syndromes. -/
def synds (es : List (Nat × Nat)) : List Nat := (List.range 8).map (synd es)

/-- Π (R247): the syndromes of 5A5Ah at position 50. -/
def poisonSynds : List Nat := (List.range 8).map (fun j => gmul 0x5A5A (gexp (50 * j)))

/-- The coefficients of the product of (x + X) over a list, lowest first and monic. -/
def locator (xs : List Nat) : List Nat :=
  xs.foldl (fun cs x => List.zipWith (· ^^^ ·) (0 :: cs) (cs.map (gmul x) ++ [0])) [1]

/-- The sum of the products of two lists. -/
def gdot (a b : List Nat) : Nat := (List.zipWith gmul a b).foldl (· ^^^ ·) 0

/-- The four symbol positions of a device as field elements. -/
def devXs (d : Nat) : List Nat := (List.range 4).map (fun c => gexp (4 * d + c))

/-- The erasures of device d solve S_0 to S_3, and S_4 to S_7 agree (R247, step 2). -/
def devPasses (ss : List Nat) (d : Nat) : Bool :=
  let l := locator (devXs d)
  (List.range 4).all (fun j => gdot l ((ss.drop j).take 5) == 0)

/-- The correction of device d: its four symbol values. -/
def devValues (ss : List Nat) (d : Nat) : List (Nat × Nat) :=
  (List.range 4).map (fun c =>
    let x := gexp (4 * d + c)
    let l := locator ((devXs d).eraseIdx c)
    let at' := l.foldr (fun k a => gmul a x ^^^ k) 0
    (4 * d + c, gmul (gdot l (ss.take 4)) (ginv at')))

/-- What the decoder makes of a line: clean, corrected in one device with the symbol values it changed, or uncorrectable. -/
inductive CodeRes
  | clean
  | fixed (device : Nat) (vals : List (Nat × Nat))
  | bad
deriving DecidableEq, Repr

/-- Steps 1 and 2 of R247. -/
def decodeOnce (ss : List Nat) : CodeRes :=
  if ss.all (· == 0) then .clean
  else match (List.range 10).filter (devPasses ss) with
    | [d] => .fixed d (devValues ss d)
    | _ => .bad

/-- The bits of the data that a set of symbol values covers. -/
def symData (vals : List (Nat × Nat)) : BitVec 512 :=
  vals.foldl (fun v e => if e.1 < 32 then
    (List.range 16).foldl (fun v n => if e.2.testBit n then v ^^^ (1#512 <<< symBit e.1 n) else v) v else v) 0

/-- The bits that a correction changed. -/
def fixedBits (vals : List (Nat × Nat)) : Nat := (vals.map (fun e => (bitsBelow 16 e.2).length)).sum

/-- The result of reading a line. -/
structure ReadRes where
  line   : Line
  device : Option Nat := none
  bits   : Nat := 0
  bad    : Bool := false
deriving DecidableEq, Repr

/-- R247 for a stored line read with an error pattern. (DEDUCED, unsafe, log entry 73) -/
def readLine (x : Line) (err : BitVec 640) : ReadRes :=
  if err = 0 then { line := x }
  else
    let es := errSyms err
    let raw : BitVec 512 := err.setWidth 512
    let s0 := if x.poison then List.zipWith (· ^^^ ·) (synds es) poisonSynds else synds es
    let res (r : CodeRes) (po : Bool) : ReadRes :=
      match r with
      | .clean => { line := { data := x.data ^^^ raw, poison := po } }
      | .fixed d v => { line := { data := x.data ^^^ raw ^^^ symData v, poison := po }, device := some d, bits := fixedBits v }
      | .bad => { line := { data := x.data, poison := true }, bad := true }
    match decodeOnce s0 with
    | .bad => res (decodeOnce (List.zipWith (· ^^^ ·) s0 poisonSynds)) true
    | r => res r false

end Sys2Proof.Machine
end

