-- ==== Sys2Proof/Machine/Pool.lean ====
section
/-! DEFINITION. The media pool: frames and sherds given out and taken back, the spill reserve and the thaw floor (R125, R126, R142, R143,
R152), the pressure level (R151), and the lender's recall that follows it (R339). -/
namespace Sys2Proof.Machine

/-! ### Messages to a Graft partner -/

/-- A message joins the request stream of a port (R329). -/
def State.queueReq (s : State) (g : Nat) (m : GMsg) : State := s.updGp g (fun p => { p with reqQ := p.reqQ ++ [m] })

/-- A message joins the response stream of a port. -/
def State.queueRsp (s : State) (g : Nat) (m : GMsg) : State := s.updGp g (fun p => { p with rspQ := p.rspQ ++ [m] })

/-- The port is UP. -/
def State.portUp (s : State) (g : Nat) : Bool := s.rd (Reg.GFT_PORT_STATUS_STATE g) == 2

/-- The tags in use at a port: requests without an answer and open exchanges. -/
def GPortSt.tagsUsed (p : GPortSt) : List Nat := p.outst.map (·.tag) ++ p.oxn.map (·.tag)

/-- The next tag not in use, after the last one given. -/
def GPortSt.freeTag (p : GPortSt) : Nat :=
  ((List.range 1024).map (fun k => (p.nextTag + k) % 1024)).find? (fun t => !p.tagsUsed.contains t) |>.getD 0

/-- Opens an Oxentelo exchange (R335). With 16 open on the port it waits until one ends (R330), and while the pair of duty 7 is down it waits for the hand-over (R34). -/
def State.openOxn (s : State) (g : Nat) (body : Oxn) : State :=
  let p := s.gp g
  if !s.dutyUp 7 || decide (16 ≤ p.oxn.length) then s.updGp g (fun p => { p with oxnToOpen := p.oxnToOpen ++ [body] })
  else
    let t := p.freeTag
    (s.updGp g (fun p => { p with oxn := p.oxn ++ [{ tag := t, body := body }], nextTag := (t + 1) % 1024 })).queueReq g
      (.oxn (BitVec.ofNat 10 t) false body)

/-- The oldest exchange that waits is opened, when fewer than 16 are open (R330). -/
def State.oxnNext (s : State) (g : Nat) : State :=
  match (s.gp g).oxnToOpen with
  | b :: rest =>
    if s.dutyUp 7 && decide ((s.gp g).oxn.length < 16) then (s.updGp g (fun p => { p with oxnToOpen := rest })).openOxn g b else s
  | [] => s

/-- The port on which a partner is reached: the one given while it is UP with that partner, else the other (R318, R331). -/
def State.peerPort (s : State) (peer g : Nat) : Nat :=
  let ok (g : Nat) : Bool := s.portUp g && s.rd (Reg.GFT_PORT_STATUS_PEER_ID g) == peer
  if ok g then g else if ok (1 - g) then 1 - g else g

/-- The borrower sends LEASE_RELEASE (Table 14.7). -/
def State.releaseLease (s : State) (l : Nat) : State :=
  match Tbl.look s.borrow l with
  | none => s
  | some x =>
    let s := s.wr (Reg.GFT_BORROW_STATE l) 3
    s.openOxn (s.peerPort (s.rd (Reg.GFT_BORROW_PEER_ID l)) x.port) (.leaseRelease (Fin.ofNat 64 l))

/-- A recalled lease whose last page has been unspilled is released (Table 14.7). -/
def State.leaseEmptied (s : State) (l : Nat) : State :=
  if s.rd (Reg.GFT_BORROW_STATE l) = 2 ∧ s.rd (Reg.GFT_BORROW_USED_UNITS l) = 0 then s.releaseLease l else s

/-- A lender at level RESERVE or worse recalls its most recently granted lease, unless a recall is in progress (Table 14.8). -/
def State.recallLent (s : State) (n : Nat) : State :=
  match Tbl.look s.lent n with
  | none => s
  | some x =>
    let per := s.rd Reg.GFT_LEASE_CFG_RECALL_S
    let s := s.setFlag (Reg.GFT_LENT_RECALLING n) true
    let s : State := { s with lent := Tbl.put s.lent n { x with recallAt := s.tick, period := per } }
    s.openOxn (s.peerPort (s.rd (Reg.GFT_LENT_PEER_ID n)) x.port) (.leaseRecall (Fin.ofNat 64 (s.rd (Reg.GFT_LENT_PEER_LEASE n))) per)

/-- The recall of R339 at a pressure level. -/
def State.lenderRecall (s : State) : State :=
  if s.rd Reg.CUR_PRESSURE_LEVEL < 3 then s
  else if s.lent.any (fun e => s.flag (Reg.GFT_LENT_RECALLING e.1)) then s
  else match greatestBy (fun e : Nat × LentX => e.2.order) s.lent with
    | some e => s.recallLent e.1
    | none => s

/-! ### Counting the pool -/

/-- The key of a frame in the table of used units. -/
def frameKey (c fr : Nat) : Nat := c * 2 ^ 28 + fr

/-- The units in use of a frame: bit n for unit n. -/
def State.usedOf (s : State) (c fr : Nat) : Nat := Tbl.lookD s.place.used 0 (frameKey c fr)

/-- The media capacity of a channel. -/
def State.mch (s : State) (c : Nat) : MediaCh := Tbl.lookD s.place.chans {} c

/-- Changes the media capacity of a channel. -/
def State.updMch (s : State) (c : Nat) (f : MediaCh → MediaCh) : State :=
  { s with place := { s.place with chans := Tbl.upd s.place.chans {} c f } }

/-- The frames of a channel with a unit in use, as (frame, mask). -/
def State.usedFrames (s : State) (c : Nat) : List (Nat × Nat) :=
  (s.place.used.filter (fun e => e.1 / 2 ^ 28 == c)).map (fun e => (e.1 % 2 ^ 28, e.2))

/-- Set bits of an 8-bit mask. -/
def popCount8 (m : Nat) : Nat := (bitsBelow 8 m).length

/-- Whole free frames of a channel that belong to the pool. -/
def State.poolFrames (s : State) (c : Nat) : Nat := (s.mch c).frames - (s.usedFrames c).length - (s.mch c).resFree

/-- Free units of the pool on a channel. -/
def State.poolUnits (s : State) (c : Nat) : Nat :=
  8 * s.poolFrames c + ((s.usedFrames c).map (fun e => 8 - popCount8 e.2)).sum

/-- F: free units of the pool (R151). -/
def State.freeUnits (s : State) : Nat := ((List.range 16).map s.poolUnits).sum

/-- Free frames of the spill reserve, the thaw floor included. -/
def State.reserveFree (s : State) : Nat := ((List.range 16).map (fun c => (s.mch c).resFree)).sum

/-- Free frames of the reserve outside the thaw floor. -/
def State.reserveAbove (s : State) : Nat := ((List.range 16).map (fun c => (s.mch c).resFree - (s.mch c).flrCap)).sum

/-- The frames of the spill reserve, raw / 64, on the channels that are left (R126). -/
def State.reserveCap (s : State) : Nat := ((List.range 16).map (fun c => (s.mch c).resCap)).sum

/-- The reserve is full. -/
def State.reserveFull (s : State) : Bool := (List.range 16).all (fun c => (s.mch c).resFree == (s.mch c).resCap)

/-- A held lease has free space. -/
def State.leaseSpace (s : State) : Bool :=
  s.borrow.any (fun e => s.rd (Reg.GFT_BORROW_STATE e.1) == 1
    && s.rd (Reg.GFT_BORROW_USED_UNITS e.1) < s.rd (Reg.GFT_BORROW_SIZE_GIB e.1) * 2 ^ 21)

/-! ### Pressure -/

/-- The level that Table 5.6 gives from the level held: a level is entered by its condition and left only by its exit condition. EXHAUSTED is left
at raw / 1,024, which is a 16th of the reserve that is left. -/
def State.nextLevel (s : State) : Nat :=
  let f := s.freeUnits
  let p := s.rd Reg.CUR_POOL_SIZE_UNITS
  let cur := s.rd Reg.CUR_PRESSURE_LEVEL
  let exhausted := (s.reserveAbove == 0 && !s.leaseSpace) || (4 ≤ cur && 16 * s.reserveAbove < s.reserveCap)
  let reserve := f == 0 || (3 ≤ cur && !(s.reserveFull && p ≤ 64 * f))
  let low := 16 * f < p || (2 ≤ cur && 128 * f < 9 * p)
  let tight := 8 * f < p || (1 ≤ cur && 128 * f < 17 * p)
  if exhausted then 4 else if reserve then 3 else if low then 2 else if tight then 1 else 0

/-- Writes the counters that CUR_POOL_FREE shows. -/
def State.showPool (s : State) : State :=
  (s.wr Reg.CUR_POOL_FREE_UNITS s.freeUnits).wr Reg.CUR_POOL_FREE_RESERVE s.reserveFree

/-- The pressure level is evaluated again after an allocation, a free, or a change of the leases (R151): entering a level raises its event,
LOW or worse from below sets RELEASE_REQ, EXHAUSTED sets FATAL and raises the fatal event, and a lender recalls. Whether LOW entered from RESERVE asks for a release again the
spec leaves open: here it does not. (DEDUCED, unsafe, log entry 81) -/
def State.pressure (s : State) : State :=
  let s := s.showPool
  if s.rd Reg.CUR_POOL_SIZE_UNITS = 0 then s
  else
    let cur := s.rd Reg.CUR_PRESSURE_LEVEL
    let n := s.nextLevel
    if n = cur then s.lenderRecall
    else
      let s := (s.wr Reg.CUR_PRESSURE_LEVEL n).raise 0x0305 n
      let s : State := if n = 0 then { s with borrow := s.borrow.map (fun (e : Nat × BorrowX) => (e.1, { e.2 with emptyAt := s.tick })) } else s
      let s := if 2 ≤ n ∧ cur < n then s.setFlag Reg.CUR_PRESSURE_RELEASE_REQ true else s
      let s := if n = 4 then (s.setFlag Reg.CUR_PRESSURE_FATAL true).raise 0x0306 s.reserveFree else s
      s.lenderRecall

/-! ### Giving out and taking back -/

/-- Marks units of a frame used. -/
def State.markUsed (s : State) (c fr mask : Nat) : State :=
  { s with place := { s.place with used := Tbl.putD s.place.used 0 (frameKey c fr) (s.usedOf c fr ||| mask) } }

/-- From where a frame can be drawn: the pool, the reserve outside the thaw floor, or all of the reserve (R125, R126, R154). -/
inductive Draw | pool | reserve | floor
deriving DecidableEq, Repr

/-- A channel can give a frame. -/
def State.canGive (s : State) (d : Draw) (c : Nat) : Bool :=
  s.chLive c && (match d with
    | .pool => 0 < s.poolFrames c
    | .reserve => (s.mch c).flrCap < (s.mch c).resFree
    | .floor => 0 < (s.mch c).resFree)

/-- The first free frame from a starting number on, round the channel; the spec does not say which free frame is taken, so the starting
number is a free value (log entry 7). -/
def firstFree (used : List Nat) (frames start : Nat) (fuel : Nat) : Nat :=
  match fuel with
  | 0 => start
  | k + 1 => if used.contains start then firstFree used frames ((start + 1) % frames) k else start

/-- The frame a channel gives next. (DESIGN CHOICE, safe, log entry 7) -/
def State.pickFrame (s : State) (c : Nat) : Nat :=
  let n := (s.mch c).frames
  let used := (s.usedFrames c).map Prod.fst
  firstFree used n (s.freeNow.toNat % n) (used.length + 1)

/-- Channels in rotation over an allocation set, from the one after the last given. -/
def rotated (set : List Nat) (last : Nat) : List Nat := set.filter (fun c => last < c) ++ set.filter (fun c => c ≤ last)

/-- Channels a region's mask allows; 0 means all (Table 5.4). -/
def maskAllows (m : BitVec 16) (c : Nat) : Bool := m == 0 || m.getLsbD c

/-- The channel a new frame is taken from (R142, R143): by rotation over the slice's allocation set within the mask, then the mask in
ascending order, then any populated channel, in the rotation and then ascending. Before a slice's first plan after a reset its allocation set is empty, so the mask's channels
come in ascending order: the spec has a plan set it, and gives no earlier one. (DESIGN CHOICE, unsafe, log entry 98) -/
def State.pickChannel (s : State) (slice : Nat) (m : BitVec 16) (d : Draw) : Option Nat :=
  let set := rotated (Tbl.lookD s.place.allocSet [] slice) (Tbl.lookD s.place.rot 15 slice)
  let all := List.range 16
  let inMask := set.filter (maskAllows m) ++ all.filter (maskAllows m)
  (inMask ++ set ++ all).find? (s.canGive d)

/-- The region mask of a page. -/
def State.maskOf (s : State) (p : Nat) : BitVec 16 :=
  match s.regionAt p with
  | some (_, r) => r.mask
  | none => 0

/-- Takes a frame of a channel for use, from the pool or the reserve. -/
def State.takeFrame (s : State) (c : Nat) (d : Draw) : State :=
  let fr := s.pickFrame c
  let s := (s.markUsed c fr 0xFF).advanceFree
  match d with
  | .pool => s
  | _ => s.updMch c (fun m => { m with resFree := m.resFree - 1 })

/-- The sources a frame may be drawn from, the pool first: at RESERVE, once the pool gives none, the reserve outside the thaw floor (R125); where neither gives one R154 holds
(R131, R143), by which a thaw, and nothing else, takes a frame of the thaw floor. A pool with free units but no whole free frame gives no frame: at RESERVE it counts as one that has
no free unit for the allocation. (DEDUCED, unsafe, log entry 81) -/
def State.draws (s : State) (thaw : Bool) : List Draw :=
  [.pool] ++ (if s.rd Reg.CUR_PRESSURE_LEVEL = 3 then [.reserve] else []) ++ (if thaw then [.floor] else [])

/-- Allocates a frame for a page (R142, R143), noting a page placed outside its mask; none when no channel can give one. -/
def State.allocFrame (s : State) (p : Nat) (thaw : Bool) : Option (Nat × Nat × State) :=
  let sl := homeSlice p
  let m := s.maskOf p
  match (s.draws thaw).findSome? (fun d => (s.pickChannel sl m d).map (fun c => (c, d))) with
  | none => none
  | some (c, d) =>
    let fr := s.pickFrame c
    let s := s.takeFrame c d
    let out := if maskAllows m c then s.place.outside else addOnce s.place.outside p
    let s := { s with place := { s.place with rot := Tbl.putD s.place.rot 15 sl c, outside := out } }
    some (c, fr, s.pressure)

/-- The sources of sherds, and of a frame on one named channel: the reserve at RESERVE, once the pool gives none there (R125). -/
def State.drawsAt (s : State) : List Draw := if s.rd Reg.CUR_PRESSURE_LEVEL = 3 then [.pool, .reserve] else [.pool]

/-- Allocates a frame on one named channel, for a rehome (R139). -/
def State.allocOn (s : State) (c : Nat) : Option (Nat × State) :=
  match s.drawsAt.find? (fun d => s.canGive d c) with
  | none => none
  | some d => some (s.pickFrame c, (s.takeFrame c d).pressure)

/-- Places in a frame where n consecutive units are free. -/
def fitsIn (mask n : Nat) : List Nat :=
  (List.range (9 - n)).filter (fun u => (List.range n).all (fun k => !mask.testBit (u + k)))

/-- The runs of n free units of a channel: in frames already split, and at each place of a fresh frame. -/
def State.runs (s : State) (c n : Nat) : List (Nat × Nat) :=
  (s.usedFrames c).flatMap (fun e => (fitsIn e.2 n).map (fun u => (e.1, u)))

/-- A channel has room for n sherds: in a frame that is split already, or in a whole frame, of the pool or of the reserve. -/
def State.hasRun (s : State) (d : Draw) (c n : Nat) : Bool :=
  match d with
  | .pool => s.chLive c && (s.runs c n != [] || s.canGive .pool c)
  | d => s.canGive d c

/-- Takes n consecutive units of one frame of a channel (R165); which run of the pool is taken the spec leaves open (DESIGN CHOICE, safe, log entry 7). -/
def State.takeRun (s : State) (d : Draw) (c n : Nat) : Nat × State :=
  let rs := s.runs c n
  let k := s.freeNow.toNat % (rs.length + (if s.canGive .pool c then 1 else 0))
  let mask := 2 ^ n - 1
  match (match d with | .pool => rs[k]? | _ => none) with
  | some (fr, u) => (fr * 8 + u, (s.markUsed c fr (mask * 2 ^ u)).advanceFree)
  | none =>
    let fr := s.pickFrame c
    let s := (s.markUsed c fr mask).advanceFree
    (fr * 8, match d with | .pool => s | _ => s.updMch c (fun m => { m with resFree := m.resFree - 1 }))

/-- The channels that sherds are taken from, in order (R142): for a freeze that of the source frame, then the rotation within the mask, then the mask in ascending order; for an
unspilled image, which has no source frame, then any populated channel too (R143). -/
def State.sherdChans (s : State) (p : Nat) (src : Option Nat) : List Nat :=
  let sl := homeSlice p
  let m := s.maskOf p
  let set := rotated (Tbl.lookD s.place.allocSet [] sl) (Tbl.lookD s.place.rot 15 sl)
  let all := List.range 16
  let inMask := set.filter (maskAllows m) ++ all.filter (maskAllows m)
  match src with
  | some c => c :: inMask
  | none => inMask ++ set ++ all

/-- Allocates sherds for a page: of the pool, and at RESERVE, when no channel of it has room, of the reserve (R125, R142). -/
def State.allocSherds (s : State) (p : Nat) (src : Option Nat) (n : Nat) : Option (Nat × Nat × State) :=
  match s.drawsAt.findSome? (fun d => ((s.sherdChans p src).find? (fun c => s.hasRun d c n)).map (fun c => (c, d))) with
  | none => none
  | some (c, d) =>
    let (u, s) := s.takeRun d c n
    let s := if src = some c then s else { s with place := { s.place with rot := Tbl.putD s.place.rot 15 (homeSlice p) c } }
    some (c, u, s.pressure)

/-- Frees units of a frame. A frame freed whole at RESERVE or EXHAUSTED goes to the reserve until it is full (R152), which is judged on the share of the frame's own channel.
(DEDUCED, unsafe, log entry 81) -/
def State.freeUnitsOf (s : State) (c fr mask : Nat) : State :=
  let old := s.usedOf c fr
  let new := (List.range 8).foldl (fun a i => if old.testBit i && !mask.testBit i then a + 2 ^ i else a) 0
  let s := { s with place := { s.place with used := Tbl.putD s.place.used 0 (frameKey c fr) new } }
  if new = 0 ∧ old ≠ 0 ∧ 3 ≤ s.rd Reg.CUR_PRESSURE_LEVEL ∧ (s.mch c).resFree < (s.mch c).resCap then
    s.updMch c (fun m => { m with resFree := m.resFree + 1 })
  else s

/-- Frees the media of a page form: a frame, sherds, or the units of a lease (R144, R150). -/
def State.freeForm (s : State) (f : PageForm) : State :=
  match f with
  | .hot c fr _ => (s.freeUnitsOf c fr 0xFF).pressure
  | .cold c sh n => (s.freeUnitsOf c (sh / 8) ((2 ^ n - 1) * 2 ^ (sh % 8))).pressure
  | .spilled l _ n =>
    let k := if n = 0 then 8 else n
    let s := s.wr (Reg.GFT_BORROW_USED_UNITS l) (s.rd (Reg.GFT_BORROW_USED_UNITS l) - k)
    let s : State := { s with borrow := s.borrow.map (fun (e : Nat × BorrowX) => if e.1 = l then (e.1, { e.2 with emptyAt := s.tick }) else e) }
    (s.leaseEmptied l).pressure
  | _ => s

/-- A page returns to UNWRITTEN, with or without PZ, and its media is freed (R130, R150, R154). -/
def State.toUnwritten (s : State) (p : Nat) (pz : Bool) : State :=
  (s.freeForm (s.srcForm p)).setForm p (.unwritten pz)

end Sys2Proof.Machine
end

