-- ==== Sys2Proof/Machine/Queue.lean ====
section
/-! DEFINITION. The write queues of the channels and what they need: the ranks and their power states (R221 to R224), the entry of a write (R74, R210, R214), and page stores (R25). -/
namespace Sys2Proof.Machine

/-! ### Ranks -/

/-- The key of a rank of a sub-channel. -/
def rankKey (sub lr : Nat) : Nat := sub * 16 + lr

/-- Logical ranks of a channel. -/
def State.ranks (s : State) (c : Nat) : Nat := 2 ^ s.rd (Reg.DMC_CFG_RANK_LOG2 c)

/-- The power state of a rank (Table 8.6). -/
def State.rankState (s : State) (c lr : Nat) : RankState := Tbl.lookD (s.ch c).rank .active lr

/-- The DRAM clock at the start of this tick: a tick is four DRAM clocks, the root divided by eight and by two (R4, R29). (DESIGN CHOICE, unsafe, log entry 1) -/
def State.clkNow (s : State) : Nat := 4 * s.tick

/-- Sets a rank's state; DMC_RANK_STATE shows it. -/
def State.setRank (s : State) (c lr : Nat) (x : RankState) : State :=
  let s := s.updCh c (fun d => { d with rank := Tbl.putD d.rank .active lr x })
  let s := s.wrBit (Reg.DMC_RANK_STATE_IN_PD c) lr (x == .powerdown)
  s.wrBit (Reg.DMC_RANK_STATE_IN_SR c) lr (x == .selfrefresh || x == .held)

/-- The owed refresh count of bank index b of a rank of a sub-channel (R221). -/
def State.owed (s : State) (c sub lr b : Nat) : Int := Tbl.lookD (s.ch c).owed 0 (rankKey sub lr * 4 + b)

/-- Changes an owed count. -/
def State.setOwed (s : State) (c sub lr b : Nat) (n : Int) : State :=
  s.updCh c (fun d => { d with owed := Tbl.putD d.owed 0 (rankKey sub lr * 4 + b) n })

/-- Sets every owed count of a rank. -/
def State.allOwed (s : State) (c lr : Nat) (f : Int → Int) : State :=
  (List.range 2).foldl (fun s sub => (List.range 4).foldl (fun s b => s.setOwed c sub lr b (f (s.owed c sub lr b))) s) s

/-- A rank leaves POWERDOWN or SELFREFRESH (Table 8.6): commands wait TXP or TXS, and a self-refresh exit clears the owed counts. -/
def State.wakeRank (s : State) (c lr : Nat) : State :=
  match s.rankState c lr with
  | .active => s
  | .held => s
  | .powerdown =>
    (s.setRank c lr .active).updCh c (fun d => { d with wakeAt := Tbl.put d.wakeAt lr (s.clkNow + s.rd (Reg.DMC_TIM_REF2_TXP c)) })
  | .selfrefresh =>
    ((s.setRank c lr .active).updCh c (fun d =>
      { d with wakeAt := Tbl.put d.wakeAt lr (s.clkNow + s.rd (Reg.DMC_TIM_REF2_TXS c)) })).allOwed c lr (fun _ => 0)

/-- The rank may take commands at a DRAM clock. -/
def State.rankReady (s : State) (c lr now : Nat) : Bool :=
  s.rankState c lr == .active && decide (Tbl.lookD (s.ch c).wakeAt 0 lr ≤ now)

/-- POSTPONE_MAX in force: 1 to 8. -/
def State.postponeMax (s : State) (c : Nat) : Nat := min 8 (max 1 (s.rd (Reg.DMC_REF_CFG_POSTPONE_MAX c)))

/-- PULLIN_MAX in force: 0 to 4. -/
def State.pullinMax (s : State) (c : Nat) : Nat := min 4 (s.rd (Reg.DMC_REF_CFG_PULLIN_MAX c))

/-- A forced REFab is due for a rank of a sub-channel (R223). -/
def State.refabDue (s : State) (c sub lr : Nat) : Bool :=
  (List.range 4).any (fun b => decide ((s.postponeMax c : Int) ≤ s.owed c sub lr b))

/-! ### Write queues -/

/-- The DRAM address a line's commands go to. -/
def State.at' (s : State) (c l : Nat) : Coord := s.coordOf c (s.physLine c l)

/-- Reads and writes of a sub-channel. -/
def State.rqOf (s : State) (c sub : Nat) : List DramRd := (s.ch c).rq.filter (fun (r : DramRd) => (s.at' c r.line).sub == sub)
def State.wqOf (s : State) (c sub : Nat) : List WrEnt := (s.ch c).wq.filter (fun (w : WrEnt) => (s.at' c w.line).sub == sub)

/-- The write-queue entry of a line stores the write of a tier-0 request (Table 11.3). -/
def State.wqT0 (s : State) (c l : Nat) (w : WcbLine) : State :=
  if w.writers.any (fun x => x.tier == 0) then
    s.updCh c (fun d => { d with wq := d.wq.map (fun (e : WrEnt) => if e.line = l then { e with t0 := true } else e) })
  else s

/-- A write enters a write queue, or replaces the data of the entry of its line (R74, R214). `be` names the valid bytes of a partial line. (DEDUCED, safe, log entry 27) -/
def State.enqueueWrite (s : State) (c l : Nat) (data : BitVec 512) (be : BitVec 64) (poison : Bool) : State :=
  let full := be == BitVec.allOnes 64
  let s := match s.wqEntry c l with
    | some _ => s.updCh c (fun d => { d with wq := d.wq.map (fun (w : WrEnt) =>
        if w.line = l then
          match w.part with
          | none => { w with data := mergeBytes w.data data be, poison := poison || (w.poison && !full) }
          | some old =>
            let m := old ||| be
            { w with data := mergeBytes w.data data be, poison := poison || (w.poison && !full),
                     part := if m = BitVec.allOnes 64 then none else some m }
        else w) })
    | none =>
      let after := ((s.ch c).rq.filter (fun (r : DramRd) => r.line == l)).map (fun (r : DramRd) => r.id)
      let w : WrEnt := { line := l, data := data, poison := poison, part := if full then none else some be, arrival := s.tick, after := after }
      s.updCh c (fun d => { d with wq := d.wq ++ [w] })
  s.wakeRank c (s.at' c l).lr

/-- The write queue has room for a line: it is there, or fewer than 64 entries are in its sub-channel. -/
def State.wqRoom (s : State) (c l : Nat) : Bool :=
  (s.wqEntry c l).isSome || decide ((s.wqOf c (s.at' c l).sub).length < 64)

/-- The write queues have room for lines from a first media line on (R210). -/
def State.storeRoom (s : State) (c first n : Nat) : Bool :=
  (List.range 2).all (fun sub => decide ((s.wqOf c sub).length
    + ((List.range n).filter (fun i => (s.at' c (first + i)).sub == sub && (s.wqEntry c (first + i)).isNone)).length ≤ 64))

/-- Stores lines from a first media line on: they enter the write queues (R25, R210). Reads of those lines that are still on their way to the channel keep the earlier data
(Table 3.4). -/
def State.storeLines (s : State) (c first : Nat) (xs : List Line) : State :=
  let last := first + xs.length
  let snap (r : DramRd) : DramRd :=
    if first ≤ r.line ∧ r.line < last ∧ r.snap = none then { r with snap := some (s.visible c r.line) } else r
  let s' := if (s.ch c).flying = [] then s else s.updCh c (fun d => { d with flying := d.flying.map snap })
  (xs.zipIdx).foldl (fun s x => s.enqueueWrite c (first + x.2) x.1.data (BitVec.allOnes 64) x.1.poison) s'

/-- The write queues have room for all lines of a page form in this Kelorn's media. -/
def State.formRoom (s : State) (f : PageForm) : Bool :=
  match f with
  | .hot c fr _ => s.storeRoom c (fr * 64) 64
  | .cold c sh n => s.storeRoom c (sh * 8) (8 * n)
  | _ => true

end Sys2Proof.Machine
end

