-- ==== Sys2Proof/Machine/Guard.lean ====
section
/-! DEFINITION. What SEC does with a line, a counter block or a tree node: key streams and tags (R184), counter blocks (R187 to R190), the
Vitrine tree (R191 to R195), losses (R201, R202) and the cursor rule (R198). -/
namespace Sys2Proof.Machine

/-! ### Where a page's counters and keys are -/

/-- The secure space of a class: none for PLAIN, S-space (false), V-space (true). -/
def spaceOf : SecClass → Option Bool
  | .plain => none
  | .sealed => some false
  | .vitrine => some true

/-- The secure page index q of a page of a region (R180). -/
def secIndex (r : Region) (p : Nat) : Nat := r.sbase * 65536 + (p - r.base * 65536)

/-- The key slot of a page: the old one while the retirement's cursor has not passed the page (R198). -/
def slotFor (r : Region) (p : Nat) : Nat :=
  if r.oldValid && r.cursor ≤ p - r.base * 65536 then r.oldKey else r.key

/-- The key slot with a number. -/
def State.key (s : State) (k : Nat) : KeySlot := Tbl.lookD s.sec.keys {} k

/-- Changes a key slot. -/
def State.updKey (s : State) (k : Nat) (f : KeySlot → KeySlot) : State :=
  { s with sec := { s.sec with keys := Tbl.upd s.sec.keys {} k f } }

/-- The guard of a page under a slot of its region: none for PLAIN. -/
def State.guardWith (s : State) (p : Nat) (slot : Region → Nat) : Option Guard :=
  match s.regionAt p with
  | none => none
  | some (i, r) => (spaceOf r.cls).map (fun sp =>
      let k := s.key (slot r)
      { region := i, space := sp, q := secIndex r p, kd := k.kd, kt := k.kt, n := if sp then 64 else 32,
        ro := r.readonly, lost := r.lost })

/-- The guard of a page under the cursor rule. -/
def State.guard (s : State) (p : Nat) : Option Guard := s.guardWith p (fun r => slotFor r p)

/-! ### Losses -/

/-- The length of a lost range in 512-byte units, by its KIND and SPACE (Table 7.9). -/
def lossLen (space : Bool) (kind : Nat) : Nat :=
  match kind with
  | 0 => if space then 1 else 2
  | 1 => 8
  | 2 => 512
  | 3 => 32768
  | 4 => 2097152
  | _ => 134217728

/-- The loss entries in force. -/
def State.losses (s : State) : List Nat := (List.range 64).filter (fun n => s.flag (Reg.SEC_LOSS_VALID n))

/-- A 512-byte unit of a secure space lies in a lost range (R202). -/
def State.unitLost (s : State) (space : Bool) (u : Nat) : Bool :=
  s.losses.any (fun n => s.flag (Reg.SEC_LOSS_SPACE n) == space && s.rd (Reg.SEC_LOSS_START n) ≤ u
    && u < s.rd (Reg.SEC_LOSS_START n) + lossLen space (s.rd (Reg.SEC_LOSS_KIND n)))

/-- A line of a page is lost. -/
def State.lineLost (s : State) (p i : Nat) : Bool :=
  match s.guard p with
  | none => false
  | some g => g.lost || s.unitLost g.space (g.q * 8 + i / 8)

/-- Any line of a page is lost: the Curator moves no such page. -/
def State.pageLost (s : State) (p : Nat) : Bool :=
  match s.guard p with
  | none => false
  | some g => g.lost || (List.range 8).any (fun u => s.unitLost g.space (g.q * 8 + u))

/-- The counter block of secure page q is lost: a recorded loss of a block, a node or a root block covers it (Table 7.9). -/
def State.blockLost (s : State) (space : Bool) (q : Nat) : Bool :=
  s.losses.any (fun n => s.flag (Reg.SEC_LOSS_SPACE n) == space && 1 ≤ s.rd (Reg.SEC_LOSS_KIND n)
      && s.rd (Reg.SEC_LOSS_START n) ≤ q * 8 && q * 8 < s.rd (Reg.SEC_LOSS_START n) + lossLen space (s.rd (Reg.SEC_LOSS_KIND n)))

/-- The counter block of a page is lost (R199). -/
def State.ctrLost (s : State) (p : Nat) : Bool :=
  match s.guard p with
  | none => false
  | some g => s.blockLost g.space g.q

/-- A region and a lost range of its space meet. -/
def regionMeets (r : Region) (space : Bool) (start len : Nat) : Bool :=
  spaceOf r.cls == some space && start < (r.sbase + r.len) * 524288 && r.sbase * 524288 < start + len

/-- The page of DPA at the start of a lost range, where a region holds it. -/
def State.lossPage (s : State) (space : Bool) (start : Nat) : Nat :=
  match s.regions.find? (fun e => regionMeets e.2 space start 1) with
  | some (_, r) => r.base * 65536 + (start / 8 - r.sbase * 65536)
  | none => 0

/-- A loss in security metadata (R202): the first free loss entry records the range; with none free, every region it meets is LOST and
LOSS_OVF is set. The event names the range. -/
def State.recordLoss (s : State) (space : Bool) (kind start : Nat) : State :=
  let image := kind * 4 + (if space then 2 else 0) + start * 256
  let s' := match firstBelow 64 (fun n => !s.flag (Reg.SEC_LOSS_VALID n)) with
    | some n => s.setDword (0x501000 + 8 * n) (BitVec.ofNat 64 (image + 1))
    | none =>
      let regs := s.regions.map (fun (e : Nat × Region) => (e.1, if regionMeets e.2 space start (lossLen space kind) then { e.2 with lost := true } else e.2))
      ({ s with regions := regs }).setFlag Reg.SEC_STATUS_LOSS_OVF true
  s'.raise (if space then 0x0505 else 0x0504) (s.lossPage space start) image

/-- Unit u of a page's secure space has its tag line read: one on a lost channel is uncorrectable and loses the lines whose tags it holds, 1 KiB of the
S-space, 512 bytes of the V-space (R260, Table 7.9). -/
def State.checkTags (s : State) (p u : Nat) : State :=
  match s.guard p with
  | none => s
  | some g =>
    let v := g.q * 8 + u
    let n := if g.space then v else v / 2
    if s.metaLost n && !g.lost && !s.unitLost g.space v then s.recordLoss g.space 0 (if g.space then v else v / 2 * 2) else s

/-- The tag lines of a whole page are read. -/
def State.checkPageTags (s : State) (p : Nat) : State := (List.range 8).foldl (fun s u => s.checkTags p u) s

/-! ### Counter blocks and nodes -/

/-- MAJOR of a block (Table 7.5). -/
def blkMajor (b : BitVec 512) : Nat := bitsOf b 0 64
/-- MINOR[i] of a block. -/
def blkMinor (b : BitVec 512) (i : Nat) : Nat := bitsOf b (64 + 7 * i) 7
/-- A block with MINOR[i] set. -/
def setMinor (b : BitVec 512) (i v : Nat) : BitVec 512 := setBits b (64 + 7 * i) 7 v
/-- A block with MAJOR given and every minor 0. -/
def majorOnly (m : Nat) : BitVec 512 := BitVec.ofNat 512 (m % 2 ^ 64)
/-- A block with MAJOR given and its minors kept. -/
def setMajor (b : BitVec 512) (m : Nat) : BitVec 512 := setBits b 0 64 m

/-- The key of a block or node in the counter cache and in the store of counters: levels 0 to 4 of the two spaces. -/
def ctrKey (space : Bool) (level node : Nat) : Nat := node * 10 + (if space then 5 else 0) + level

/-- The space, the level and the node of such a key. -/
def keyParts (k : Nat) : Bool × Nat × Nat := (decide (5 ≤ k % 10), k % 5, k / 10)
/-- The key of a copy of a block or node in DRAM. -/
def storeKey (space : Bool) (level copy node : Nat) : Nat := node * 20 + ((if space then 5 else 0) + level) * 2 + copy

/-- A block or node held in the counter cache. -/
def State.cached (s : State) (space : Bool) (level node : Nat) : Option (BitVec 512) :=
  (Tbl.look s.sec.cache (ctrKey space level node)).map (·.blk)

/-- Puts a block or node in the counter cache. -/
def State.cache (s : State) (space : Bool) (level node : Nat) (b : BitVec 512) (dirty : Bool) : State :=
  { s with sec := { s.sec with cache := Tbl.put s.sec.cache (ctrKey space level node) { blk := b, dirty := dirty } } }

/-- The stored copy of a block or node. -/
def State.stored (s : State) (space : Bool) (level copy node : Nat) : BitVec 512 :=
  Tbl.lookD s.sec.store 0 (storeKey space level copy node)

/-- A metadata line has new contents, which the write queue of its channel takes (R210). -/
def State.metaDue (s : State) (k : MetaKind) (n : Nat) : State :=
  { s with sec := { s.sec with due := if s.sec.due.contains (k, n) then s.sec.due else s.sec.due ++ [(k, n)] } }

/-- Writes the copies of a block or node: both at levels 2 and 3 of the tree. -/
def State.store (s : State) (space : Bool) (level node : Nat) (b : BitVec 512) : State :=
  let twice := space && (level == 2 || level == 3)
  let st := Tbl.putD s.sec.store 0 (storeKey space level 0 node) b
  let st := if twice then Tbl.putD st 0 (storeKey space level 1 node) b else st
  let s : State := { s with sec := { s.sec with store := st } }
  let s := s.metaDue (if level = 0 then .ctr space else .node level false) node
  if twice then s.metaDue (.node level true) node else s

/-- Root block r. -/
def State.root (s : State) (r : Nat) : BitVec 512 := Tbl.lookD s.sec.roots 0 r
/-- Changes a root block, which is held in SRAM only (R193). -/
def State.setRoot (s : State) (r : Nat) (b : BitVec 512) : State :=
  { s with sec := { s.sec with roots := Tbl.putD s.sec.roots 0 r b } }

/-- The parent of a block or node of the V-space: the cached node above it, or the root block (Table 7.7). -/
def State.parentBlk (s : State) (level node : Nat) : Option (BitVec 512) :=
  if level = 3 then some (s.root (node / 64)) else s.cached true (level + 1) (node / 64)

/-- The tree tag of a stored block or node under its parent's counter (R184, R191). -/
def State.treeTag (s : State) (parent : BitVec 512) (level node : Nat) (b : BitVec 512) : BitVec 64 :=
  let t : BitVec 128 := (4#128 <<< 125) ||| (BitVec.ofNat 128 (blkMinor parent (node % 64)) <<< 118)
    ||| (BitVec.ofNat 128 (blkMajor parent) <<< 54) ||| (BitVec.ofNat 128 level <<< 51) ||| (BitVec.ofNat 128 node <<< 15)
  BitVec.ofNat 64 (tagOf s.sec.kr t 64 b)

/-- The stored tree tag of a copy. -/
def State.tagAt (s : State) (level copy node : Nat) : BitVec 64 := Tbl.lookD s.sec.treeTags 0 (storeKey true level copy node)

/-- Writes the tree tags of a block or node: both copies at levels 2 and 3. -/
def State.putTag (s : State) (level node : Nat) (t : BitVec 64) : State :=
  let tt := Tbl.putD s.sec.treeTags 0 (storeKey true level 0 node) t
  let twice := level == 2 || level == 3
  let tt := if twice then Tbl.putD tt 0 (storeKey true level 1 node) t else tt
  let s : State := { s with sec := { s.sec with treeTags := tt } }
  let s := s.metaDue (.treeTag level false) (node / 8 * 8)
  if twice then s.metaDue (.treeTag level true) (node / 8 * 8) else s

/-- Brings a block or node whose parent is at hand into the cache (R192, R195, Table 7.9): an unformatted child is zeros without a read; a
copy is good when it and its tree-tag line read (R182, R260) and its tag matches; a bad copy A of levels 2 and 3 is rewritten from B. The result says whether it is good. -/
def State.fetchNode (s : State) (level node : Nat) : State × Bool :=
  match s.cached true level node, s.parentBlk level node with
  | some _, _ => (s, true)
  | none, none => (s, false)
  | none, some par =>
    if blkMajor par = 0 ∧ blkMinor par (node % 64) = 0 then (s.cache true level node 0 false, true)
    else
      let s := if level = 0 then s else (s.cnt 0x0503 .dev).stn 112 2
      let good (c : Nat) : Bool := !s.metaLost node (c == 1) && !s.metaLost (node / 8) (c == 1)
        && s.tagAt level c node == s.treeTag par level node (s.stored true level c node)
      if good 0 then (s.cache true level node (s.stored true level 0 node) false, true)
      else if (level == 2 || level == 3) && good 1 then
        let b := s.stored true level 1 node
        ((((s.store true level node b).putTag level node (s.tagAt level 1 node))).cache true level node b false, true)
      else (s.recordLoss true (level + 1) (node * 64 ^ level * 8), false)

/-- Brings every missing node of a path, from level `from` down to level `to`, into the cache, verified from the top down (R192). -/
def State.fetchDown (s : State) (q : Nat) (levels : List Nat) : State × Bool :=
  match levels with
  | [] => (s, true)
  | l :: r => match s.fetchNode l (q / 64 ^ l) with
    | (s, true) => State.fetchDown s q r
    | (s, false) => (s, false)

/-- Brings the counter block of a secure page into the cache (R192), unless it is lost; an S-space block on a lost channel is (R260, Table 7.9). -/
def State.fetchCtr (s : State) (space : Bool) (q : Nat) : State × Bool :=
  match s.cached space 0 q with
  | some _ => (s, true)
  | none =>
    if s.blockLost space q then (s, false)
    else if space then s.fetchDown q [3, 2, 1, 0]
    else if s.metaLost q then (s.recordLoss false 1 (q * 8), false)
    else (s.cache false 0 q (s.stored false 0 0 q) false, true)

/-- The stored contents of a metadata line that a read returns: entries, counter blocks, nodes and tags packed as Tables 5.1, 7.3 and 7.5 lay them out. -/
def State.metaData (s : State) (k : MetaKind) (n : Nat) : BitVec 512 :=
  let pack (w m : Nat) (f : Nat → Nat) : BitVec 512 := BitVec.ofNat 512 ((List.range m).foldl (fun a i => a + (f i % 2 ^ w) * 2 ^ (w * i)) 0)
  match k with
  | .acc => pack 64 8 (fun i => (s.accWord (8 * n + i)).toNat)
  | .foot => pack 16 32 (fun i => Tbl.lookD s.place.foot 0 (32 * n + i))
  | .ctr sp => s.stored sp 0 0 n
  | .tag false => pack 32 16 (fun i => (Tbl.lookD s.sec.lineTags 0 (16 * n + i)).toNat)
  | .tag true => pack 64 8 (fun i => (Tbl.lookD s.sec.lineTags 0 (2 ^ 40 + 8 * n + i)).toNat)
  | .node l b => s.stored true l (if b then 1 else 0) n
  | .treeTag l b => pack 64 8 (fun i => (s.tagAt l (if b then 1 else 0) (n / 8 * 8 + i)).toNat)

/-- The counter block of a guarded page, from the cache. -/
def State.ctrOf (s : State) (g : Guard) : Option (BitVec 512) := s.cached g.space 0 g.q

/-- Stores a counter block in the cache, dirty. -/
def State.setCtr (s : State) (g : Guard) (b : BitVec 512) : State := s.cache g.space 0 g.q b true

/-! ### Sealing and opening lines -/

/-- The input block T of Table 7.4 without WORD. -/
def tBlock (use minor major addr : Nat) : BitVec 128 :=
  (BitVec.ofNat 128 use <<< 125) ||| (BitVec.ofNat 128 minor <<< 118) ||| (BitVec.ofNat 128 (major % 2 ^ 64) <<< 54)
    ||| (BitVec.ofNat 128 addr <<< 15)

/-- The key of a line tag. -/
def lineTagKey (g : Guard) (i : Nat) : Nat := (if g.space then 2 ^ 40 else 0) + 64 * g.q + i

/-- The stored tag of line i of a page, or of sherd line i while the page is COLD. -/
def State.lineTag (s : State) (g : Guard) (i : Nat) : BitVec 64 := Tbl.lookD s.sec.lineTags 0 (lineTagKey g i)

/-- The line tags of unit u of a page, of 512 bytes: its metadata item (Table 7.3). -/
def Guard.tagItem (g : Guard) (u : Nat) : MetaKind × Nat := (.tag g.space, if g.space then g.q * 8 + u else (g.q * 8 + u) / 2)

/-- The tag lines that cover the first n lines of a page. -/
def Guard.tagItems (g : Guard) (n : Nat) : List (MetaKind × Nat) := ((List.range ((n + 7) / 8)).map g.tagItem).eraseDups

/-- Writes a line tag. -/
def State.putLineTag (s : State) (g : Guard) (i : Nat) (t : BitVec 64) : State :=
  let s : State := { s with sec := { s.sec with lineTags := Tbl.putD s.sec.lineTags 0 (lineTagKey g i) t } }
  s.metaDue (g.tagItem (i / 8)).1 (g.tagItem (i / 8)).2

/-- Line i of page p opened under counters (R186): poison stays poison; otherwise the tag is checked, and the line decrypted when it matches.
`none` is a tag failure. -/
def State.openWith (s : State) (g : Guard) (i use minor major addr : Nat) (x : Line) : Option Line :=
  if x.poison then some x
  else if s.lineTag g i = BitVec.ofNat 64 (tagOf g.kt (tBlock (use + 1) minor major addr) g.n x.data) then
    some { data := cryptLine g.kd (tBlock use minor major addr) x.data, poison := false }
  else none

/-- A line of a HOT page opened under its counter block. -/
def State.openLine (s : State) (g : Guard) (p i : Nat) (b : BitVec 512) (x : Line) : Option Line :=
  s.openWith g i 0 (blkMinor b i) (blkMajor b) (p * 64 + i) x

/-- Line n of the sherds of a COLD page opened under V. -/
def State.openSherd (s : State) (g : Guard) (p n v : Nat) (x : Line) : Option Line := s.openWith g n 2 0 v (p * 64 + n) x

/-- A plain line sealed: the stored line and its tag written (R184). A poisoned line is stored poisoned (Table 10.4).
The WORD of the tag block of a whole line is 0. (DEDUCED, unsafe, log entry 100) -/
def State.sealWith (s : State) (g : Guard) (i use minor major addr : Nat) (x : Line) : Line × State :=
  let d := cryptLine g.kd (tBlock use minor major addr) x.data
  ({ data := d, poison := x.poison }, s.putLineTag g i (BitVec.ofNat 64 (tagOf g.kt (tBlock (use + 1) minor major addr) g.n d)))

def State.sealLine (s : State) (g : Guard) (p i : Nat) (b : BitVec 512) (x : Line) : Line × State :=
  s.sealWith g i 0 (blkMinor b i) (blkMajor b) (p * 64 + i) x

/-- Seals a list of lines, the first at index i. -/
def State.sealAll (s : State) (g : Guard) (use : Nat) (minor : Nat → Nat) (major p i : Nat) (xs : List Line) : List Line × State :=
  match xs with
  | [] => ([], s)
  | x :: r =>
    let (y, s) := s.sealWith g i use (minor i) major (p * 64 + i) x
    let (ys, s) := State.sealAll s g use minor major p (i + 1) r
    (y :: ys, s)

/-- A tag failure is counted, recorded and raised (R186). -/
def State.tagFail (s : State) (line : Nat) (cls : SecClass) (sherd : Bool) : State :=
  let c := match cls with | .plain => 0 | .sealed => 1 | .vitrine => 2
  let s := s.sat Reg.SEC_TAG_FAILS_COUNT 1
  let s := (s.wr Reg.SEC_TAG_FAILS_LAST_CLASS c).setFlag Reg.SEC_TAG_FAILS_LAST_SHERD sherd
  let s := s.wr Reg.SEC_LAST_FAIL_DPA_LINE line
  ((s.cnt 0x0504 .dev).stn 112 3).raise 0x0501 line c

/-- A region becomes READONLY, with the event (R190). -/
def State.makeReadonly (s : State) (i : Nat) : State :=
  match Tbl.look s.regions i with
  | none => s
  | some r => (s.updRegion i (fun r => { r with readonly := true })).raise 0x0502 (r.base * 2 ^ 28) i

/-! ### Pages as plain lines -/

/-- The lines as stored of a page form that lies in this Kelorn's media: 64 lines of a frame, or 8 lines of each sherd. -/
def State.formLines (s : State) (f : PageForm) : List Line :=
  match f with
  | .hot c fr _ => (List.range 64).map (fun i => s.visible c (fr * 64 + i))
  | .cold c sh n => (List.range (8 * n)).map (fun i => s.visible c (sh * 8 + i))
  | _ => []

/-- The bytes a write-combining line holds over a line of a page. -/
def State.overWcb (s : State) (line : Nat) (x : Line) : Line :=
  match s.path.wcb.find? (fun w => w.line == line) with
  | some w => x.merge w.data w.be w.poison
  | none => x

/-- Line i of a HOT page as plain data, without the write-combining buffer: a line of a secure page is opened under its cached
block, and one that fails its tag, or whose counters are lost, reads poisoned. The flag says that a tag failed. -/
def State.plainLine (s : State) (p i : Nat) (x : Line) : Line × Bool :=
  match s.guard p with
  | none => (x, false)
  | some g =>
    if s.lineLost p i then ({ x with poison := true }, false)
    else match s.ctrOf g with
      | none => ({ x with poison := true }, false)
      | some b => match s.openLine g p i b x with
        | some y => (y, false)
        | none => ({ x with poison := true }, true)

/-- Stores 64 plain lines as the frame of a page under a counter block whose MAJOR has been advanced and whose minors are 0, or as they are
for a PLAIN page (R25, Table 7.6). -/
def State.storeFrame (s : State) (p c fr : Nat) (g? : Option Guard) (b : BitVec 512) (xs : List Line) : State :=
  match g? with
  | none => s.storeLines c (fr * 64) xs
  | some g =>
    let (ys, s) := s.sealAll g 0 (blkMinor b) (blkMajor b) p 0 xs
    (s.setCtr g b).storeLines c (fr * 64) ys

end Sys2Proof.Machine
end

