-- ==== Sys2Proof/Machine/Traffic.lean ====
section
/-! DEFINITION. What the request path does with a request: footfall (R132 to R137), completion with its QoS and telemetry
(R80, R275, R278, R360, R368), discard (R90, R91), the write-combining buffer (R71 to R76), and the reads a request starts. -/
namespace Sys2Proof.Machine

/-! ### Transactions -/

/-- The transaction with a number, in the tables or on a bench. -/
def State.txn? (s : State) (id : Nat) : Option Txn := (s.path.txns ++ s.dir.bench).find? (fun t => t.req.id == id)

/-- Replaces a transaction of the tables. -/
def State.setTxn (s : State) (t : Txn) : State :=
  { s with path := { s.path with txns := s.path.txns.map (fun u => if u.req.id = t.req.id then t else u) } }

/-- Takes a transaction out of the tables and benches. -/
def State.dropTxn (s : State) (id : Nat) : State :=
  { s with path := { s.path with txns := s.path.txns.filter (fun u => u.req.id != id) },
           dir := { s.dir with bench := s.dir.bench.filter (fun u => u.req.id != id) } }

/-- A fresh number for a request or a read. -/
def State.newId (s : State) : State := { s with path := { s.path with nextId := s.path.nextId + 1 } }

/-- The page of a request. -/
def Req.page (q : Req) : Nat := pageOf q.line
/-- The line of a request within its page. -/
def Req.lineIx (q : Req) : Nat := q.line % 64
/-- The head of a request of a head. -/
def Req.head? (q : Req) : Option Nat := match q.src with | .head h => some h | _ => none
/-- A read that wants data. -/
def Req.isRead (q : Req) : Bool := q.op == .rd || q.op == .rdData
/-- A write of all 64 bytes. -/
def Req.full (q : Req) : Bool := q.be == BitVec.allOnes 64

/-- The request classes of Table 4.3. -/
inductive ReqClass | rdShared | rdOwn | rdCur | wr | evict | fence
deriving DecidableEq, Repr

/-- The class of a request: a MemRd by its SnpType, MemRdData as RdShared, MemInv as RdOwn (R101). Table 4.3 names MemInv with SnpInv and A and MemRdData with SnpData only; here
either has its class whatever SnpType and MetaValue it carries. (DEDUCED, unsafe, log entry 78) -/
def Req.cls43 (q : Req) : ReqClass :=
  match q.op with
  | .rd => match q.snp with | .data => .rdShared | .inv => .rdOwn | .noOp => .rdCur | .cur => .rdCur
  | .rdData => .rdShared
  | .inv => .rdOwn
  | .evict => .evict
  | .wr => .wr
  | .fence => .fence

/-- KIND of a sample record (Table 16.2), from the class and whether the line is an HDM-DB line. -/
def kindOf (q : Req) (db : Bool) : Nat :=
  match q.op with
  | .rd | .rdData =>
    if db then (match q.cls43 with | .rdShared => 0 | .rdOwn => 1 | _ => 2) else 2
  | .inv => if db then 1 else 7
  | .evict => 6
  | .wr => if q.full then 3 else 4
  | .fence => 7

/-! ### Footfall -/

/-- The channel of a page form that lies on one. -/
def formChan : PageForm → Option Nat
  | .hot c _ _ => some c
  | .cold c _ _ => some c
  | _ => none

/-- Appends an entry for a page to a list of its slice, once for each page; a list holds 4,096 entries, and further ones set LIST_OVF (R137). -/
def State.listAdd {α : Type} (s : State) (get : Place → Tbl (List α)) (set : Place → Tbl (List α) → Place) (isIt : α → Bool) (x : α) (p : Nat) : State :=
  let sl := homeSlice p
  let l := Tbl.lookD (get s.place) [] sl
  if l.any isIt then s
  else if 4096 ≤ l.length then s.setFlag Reg.CUR_EPOCH_STATUS_LIST_OVF true
  else { s with place := set s.place (Tbl.put (get s.place) sl (l ++ [x])) }

/-- A counted access to a page (R132, R134): a new epoch's stamp zeroes the word, which then counts one more, and the channel total and the
thaw and busy lists follow (R137). -/
def State.footfall (s : State) (p : Nat) : State :=
  let a := s.acc p
  let e := s.place.epoch % 15
  let old := if a.fstamp = e then Tbl.lookD s.place.foot 0 p else 0
  let n := min (old + 1) 0xFFFF
  let src := s.srcForm p
  let mark := s.rd Reg.CUR_POLICY_HOT_MARK
  let s := if a.fstamp = e then s else s.setAcc p { a with fstamp := e }
  let s := { s with place := { s.place with foot := Tbl.putD s.place.foot 0 p n } }
  let s := match formChan src with
    | some c => { s with place := { s.place with totals := Tbl.upd s.place.totals 0 (homeSlice p * 16 + c) (· + 1) } }
    | none => s
  if old < mark ∧ mark ≤ n then
    match src with
    | .hot c _ _ => s.listAdd (·.busy) (fun q l => { q with busy := l }) (fun e => e.1 == p) (p, c) p
    | .cold .. => s.listAdd (·.thaw) (fun q l => { q with thaw := l }) (· == p) p p
    | .spilled .. => s.listAdd (·.thaw) (fun q l => { q with thaw := l }) (· == p) p p
    | _ => s
  else s

/-! ### Completion -/

/-- How a request ends: what its completion carries and its OUTCOME (Table 16.2). -/
structure Ending where
  data     : Option (BitVec 512) := none
  poison   : Bool := false
  error    : Bool := false
  discard  : Nat := 0
  unbacked : Bool := false
  mv       : MetaV := .noOp
deriving DecidableEq, Repr

/-- OUTCOME of a sample record. -/
def Ending.outcome (f : Ending) : Nat :=
  if f.discard ≠ 0 then 3 else if f.unbacked then 4 else if f.error then 2 else if f.poison then 1 else 0

/-- Can a completion leave at a head: its link is up and the Warden is not in the safe state (R91). -/
def State.canSend (s : State) (h : Nat) : Bool := s.linkUp h && !s.isSafe

/-- A request that completes with neither error nor poison and is not discarded (R275): a discarded unbacked write is one (R53). -/
def Ending.normal (f : Ending) (q : Req) : Bool := !f.error && f.discard == 0 && !(f.poison && (q.op != .wr || !f.unbacked))

/-- The completion message of a request of a head. -/
def completionOf (q : Req) (h : Nat) (f : Ending) : Out :=
  if f.error then .memErr h q.tag
  else if q.isRead then .memData h q.tag (f.data.getD 0) f.poison f.mv
  else .cmp h q.tag f.mv

/-- The deadline of a request has passed (R278). -/
def State.late (s : State) (q : Req) : Bool := q.deadline.any (fun d => decide (d < s.tick))

/-- A sample record as a number (Table 16.2). -/
def State.sampleWord (s : State) (t : Txn) (h : Nat) (f : Ending) : Nat :=
  let q := t.req
  let bit (b : Bool) (n : Nat) : Nat := if b then 2 ^ n else 0
  let slack := match q.deadline with | some d => twos 32 ((d : Int) - (s.tick : Int)) | none => 0
  q.arrival % 2 ^ 48 + (s.rd Reg.CAT_SAMP_TOTAL_TOTAL % 65536) * 2 ^ 48 + q.line * 2 ^ 64 + h * 2 ^ 104 + q.ld % 64 * 2 ^ 108
    + (q.cls.getD 0) * 2 ^ 114 + bit q.cls.isSome 120 + q.tier * 2 ^ 121 + q.bucket * 2 ^ 123 + t.kind * 2 ^ 125
    + t.pstate * 2 ^ 128 + t.source * 2 ^ 131 + f.outcome * 2 ^ 136 + f.discard * 2 ^ 140 + bit t.accMiss 144
    + bit t.ctrMiss 145 + bit t.rowMiss 146 + bit t.snooped 147 + bit t.benched 148 + bit t.moved 149
    + bit (s.late q && f.normal q) 150 + min (s.tick - q.arrival) (2 ^ 32 - 1) * 2 ^ 160 + slack * 2 ^ 192

/-- Writes the eight words of a record at a ring index. -/
def State.putRecord (s : State) (e rec : Nat) : State :=
  (List.range 8).foldl (fun s w => s.setWord (0x2210000 + 0x20 * e + 4 * w) (BitVec.ofNat 32 (rec >>> (32 * w)))) s

/-- The record of a selected request enters the ring (R368). -/
def State.sample (s : State) (t : Txn) (h : Nat) (f : Ending) : State :=
  if t.req.sampled then
    let n := s.rd Reg.CAT_SAMP_STATUS_NEXT
    let s := (s.putRecord n (s.sampleWord t h f)).inc Reg.CAT_SAMP_TOTAL_TOTAL 1
    let s := s.wr Reg.CAT_SAMP_STATUS_NEXT ((n + 1) % 4096)
    if n = 4095 then s.setFlag Reg.CAT_SAMP_STATUS_WRAPPED true else s
  else s

/-- QoS accounting of the completion of a classed request: its 64 bytes (R275), and its deadline miss (R278). -/
def State.account (s : State) (q : Req) : State :=
  match q.cls with
  | none => s
  | some c =>
    let s := s.updAcct c (fun a => { a with older := a.older + 64, newer := a.newer + 64 })
    if s.late q then (s.sat (Reg.QOS_CLASS_MISS_DL_MISSES c) 1).updAcct c (fun a => { a with missOld := a.missOld + 1, missNew := a.missNew + 1 })
    else s

/-- The accounting of a head's request, with event 0203h and its LD's counter for a deadline miss (Tables 16.1 and 16.3). -/
def State.accountHead (s : State) (q : Req) (h : Nat) : State :=
  let s := s.account q
  if q.cls.isSome && s.late q then (s.cnt 0x0203 (.req h q.cls)).ldCnt q.ld 5 else s

/-- The counters of a completion that leaves a port (Tables 16.1 and 16.3). -/
def State.countEnd (s : State) (q : Req) (h : Nat) (f : Ending) : State :=
  let sc := Scope.req h q.cls
  if f.error then (s.cnt 0x0104 sc).ldCnt q.ld 3
  else
    let s := if q.isRead then
        let lat := s.tick - q.arrival
        ((s.cnt 0x0101 sc).ldCnt q.ld 0).cnt 0x0106 sc lat |>.ldCnt q.ld 4 lat
      else match q.op with
        | .wr => (s.cnt 0x0102 sc).ldCnt q.ld 1
        | .fence => (s.cnt 0x0102 sc).ldCnt q.ld 1
        | _ => s
    if f.poison && q.isRead then (s.cnt 0x0103 sc).ldCnt q.ld 2 else s

/-- A completion of a request of a head leaves the port (R80), unless nothing can be sent to the head. A selected request leaves its record in either case (R368). -/
def State.egress (s : State) (t : Txn) (h : Nat) (f : Ending) : State :=
  let s := if s.canSend h then
      let s := ((s.wakeLink h).emit (completionOf t.req h f)).countEnd t.req h f
      if f.normal t.req then s.accountHead t.req h else s
    else s
  s.sample t h f

/-- A line of a peer's request is done: the response leaves when the last one is (R332), with STATUS ERROR when a line ended in an error or was discarded.
Each of its lines is accounted to LEND_CLASS then (R269, R275, R278). (DEDUCED, unsafe, log entries 112 and 116) -/
def State.lentDone (s : State) (g : Nat) (t : Txn) (f : Ending) : State :=
  let s := s.updGp g (fun p => { p with serving := p.serving.map (fun r =>
    if r.id = t.req.lease then
      { r with left := r.left - 1, err := r.err || f.error,
               lines := r.lines ++ [(t.req.line % 8, { data := f.data.getD 0, poison := f.poison || f.error })] } else r) })
  match (s.gp g).serving.find? (fun r => r.id == t.req.lease && r.left == 0) with
  | none => s
  | some r =>
    let s := s.updGp g (fun p => { p with serving := p.serving.filter (fun x => x.id != r.id) })
    let tag := BitVec.ofNat 10 r.tag
    let st : BitVec 4 := if r.err then 2 else 0
    let at' (j : Nat) : Line := ((r.lines.find? (fun e => e.1 == j)).map Prod.snd).getD {}
    let s := (r.lines.filter (fun e => !e.2.poison)).foldl (fun (s : State) _ => s.account t.req) s
    match r.op with
    | 0 => match r.lines with
      | e :: _ => s.queueRsp g (.datal tag st e.2.data e.2.poison)
      | [] => s
    | 1 => s.queueRsp g (.datau tag st ((List.range 8).map (fun j => (at' j).data))
        (BitVec.ofNat 8 ((List.range 8).foldl (fun a j => if (at' j).poison then a + 2 ^ j else a) 0)))
    | _ => s.queueRsp g (.cmp tag st)

/-- A write of a head that has been accepted or has ended no longer delays the head's fences (R81). -/
def State.fenceSees (s : State) (q : Req) : State :=
  if q.op = .wr ∧ s.path.fences ≠ [] then
    { s with path := { s.path with fences := s.path.fences.map (fun (e : Fence) => { e with waits := e.waits.filter (· != q.id) }) } }
  else s

/-- The end of a transaction counts in its page's footfall (R132): a head's request does, and a peer's, whose response leaves with the last of its lines; snoop data and
internal work do not. -/
def State.countsFoot (s : State) (t : Txn) : Bool :=
  match t.req.src with
  | .head _ => !t.snoop
  | .graft g => (s.gp g).serving.any (fun r => r.id == t.req.lease && r.left == 1)
  | .dma => false

/-- An access of a Press job to its LD's memory has ended (R173): a line of its source arrives, or a line of its destination took no write. -/
def State.jobBack (s : State) (q : Req) (f : Ending) : State :=
  if q.tag = 0 then s
  else
    let e := q.tag - 1
    let j := Tbl.lookD s.press.jobs {} e
    let j := if q.op = .wr then (if f.error then { j with bad := some (min q.ldDpa (j.bad.getD q.ldDpa)) } else j)
      else { j with got := Tbl.put j.got (q.ldDpa / 64) { data := f.data.getD 0, poison := f.poison || f.error } }
    { s with press := { s.press with jobs := Tbl.put s.press.jobs e j } }

/-- A request ends. `admitted` says that it was admitted to its page and so counts in its footfall (R132). -/
def State.finish (s : State) (t : Txn) (f : Ending) (admitted : Bool := true) : State :=
  let foot := admitted && s.countsFoot t
  let s := (s.dropTxn t.req.id).fenceSees t.req
  let s := match t.req.src with
    | .head h => s.egress t h f
    | .graft g => s.lentDone g t f
    | .dma => s.jobBack t.req f
  if foot then s.footfall t.req.page else s

/-- The data of a read is at hand. -/
def State.finishRead (s : State) (t : Txn) (x : Line) : State :=
  let mv := if s.isDb t.req.page then (match t.req.cls43 with | .rdShared => .s | _ => t.req.mv) else .noOp
  s.finish t { data := some x.data, poison := x.poison || t.poisoned, mv := mv }

/-- An open exchange that a transaction waits for. -/
def State.exchOf (s : State) (id : Nat) : Option Exch :=
  s.dir.exchs.find? (fun x => match x.why with | .txn j => j == id | .evict _ j => j == id | _ => false)

/-- The result of a read's memory access: it completes, or waits for its exchange to end (R106). An ownership request that has been granted nothing starts again (R119, R121). -/
def State.deliver (s : State) (t : Txn) (x : Line) : State :=
  match s.exchOf t.req.id with
  | some _ => s.setTxn { t with data := some x, phase := .exch }
  | none =>
    if s.isDb t.req.page && t.req.cls43 == .rdOwn && !t.granted then s.setTxn { t with phase := .queued }
    else match t.req.op with
      | .inv => s.finish t { poison := x.poison, mv := t.req.mv }
      | _ => s.finishRead t x

/-! ### The write-combining buffer -/

/-- The lines of the buffer of a slice. -/
def State.wcbOf (s : State) (slice : Nat) : List WcbLine := s.path.wcb.filter (fun w => sliceOfLine w.line == slice)

/-- The buffered line. -/
def State.wcb? (s : State) (line : Nat) : Option WcbLine := s.path.wcb.find? (fun w => w.line == line)

/-- A write enters the buffer, combining with the line that is there: later bytes replace earlier ones (R73), and poison stays unless all
64 bytes are written (R76). `writers` is the write, when it is a head's. -/
def State.wcbPut (s : State) (line : Nat) (data : BitVec 512) (be : BitVec 64) (poison : Bool) (writers : List Writer := []) : State :=
  match s.wcb? line with
  | none => { s with path := { s.path with wcb := s.path.wcb ++
      [{ line := line, data := data, be := be, poison := poison, entered := s.tick, last := s.tick, writers := writers }] } }
  | some _ => { s with path := { s.path with wcb := s.path.wcb.map (fun w =>
      if w.line = line then
        { w with data := mergeBytes w.data data be, be := w.be ||| be,
                 poison := poison || (w.poison && be != BitVec.allOnes 64), last := s.tick,
                 writers := (w.writers ++ writers).eraseDups } else w) } }

/-- Takes a line out of the buffer. -/
def State.wcbDrop (s : State) (line : Nat) : State :=
  { s with path := { s.path with wcb := s.path.wcb.filter (fun w => w.line != line) } }

/-- Takes every line of a page out of the buffer. -/
def State.wcbDropPage (s : State) (p : Nat) : State :=
  { s with path := { s.path with wcb := s.path.wcb.filter (fun w => pageOf w.line != p) } }

/-- A write is applied to the source of a moving page (Table 5.5): a freeze or spill aborts, a rehome copies the line again. -/
def State.noteWrite (s : State) (line : Nat) : State :=
  match s.slotOf (pageOf line) with
  | none => s
  | some (k, m) => match m.kind with
    | .freeze => s.updSlot k (fun m => { m with abort := true })
    | .spill => s.updSlot k (fun m => { m with abort := true })
    | .rehome => s.updSlot k (fun m => { m with dirty := m.dirty ||| (1#64 <<< (line % 64)) })
    | _ => s

/-- The move applies writes to its source (Table 5.5): a freeze, a rehome, or a spill of a page that is not compressed. A compressed source takes no write, so the spill of a COLD page
aborts first, and the write is accepted once the page has thawed (R72, R147). (DEDUCED, unsafe, log entry 111) -/
def MoveSlot.takesWrite (m : MoveSlot) : Bool :=
  match m.kind with
  | .thaw => false
  | .unspill => false
  | .spill => (match m.src.form with | .cold .. => false | _ => true)
  | _ => true

/-- The page of a line takes a buffered write now: it has media of its own or at a peer, and its move, if any, applies writes to its source. -/
def State.takesWrite (s : State) (p : Nat) : Bool :=
  match (s.acc p).form with
  | .hot .. => true
  | .spilled _ _ n => n == 0
  | .migrating _ => (s.slotOf p).any (fun e => e.2.takesWrite)
  | _ => false

/-- An internal write of poison over a whole line, which waits like any write until its page can take it. -/
def poisonTxn (id line tick : Nat) : Txn :=
  { req := { id := id, src := .dma, ld := 0, op := .wr, line := line, be := BitVec.allOnes 64, poison := true, arrival := tick },
    slice := sliceOfLine line, phase := .accept }

/-- A line is stored as poisoned through the write-combining buffer (R91, R114, R116). -/
def State.poisonLine (s : State) (line : Nat) : State :=
  if s.takesWrite (pageOf line) then (s.wcbPut line 0 (BitVec.allOnes 64) true).noteWrite line
  else
    { s with path := { s.path with nextId := s.path.nextId + 1, txns := s.path.txns ++ [poisonTxn s.path.nextId line s.tick] } }

/-! ### Discard -/

/-- A discard is counted for its head and raises its event (R91). -/
def State.countDiscard (s : State) (h ld slice line code : Nat) (cls : Option Nat) : State :=
  let s := (s.sat (Reg.TRL_HEAD_DISCARD_DISCARDED h) 1).wr (Reg.TRL_HEAD_DISCARD_LAST_CAUSE h) code
  let s := (s.cnt 0x0105 (.req h cls)).stn slice 9
  s.raise 0x0103 ld (line + code * 2 ^ 60)

/-- A write of a head has been discarded (R93): the pending fences that wait for it are faulty, or, with none, the head's next fence will be. How far back a fence's earlier
writes reach the spec leaves open: here to the head's previous fence. (DEDUCED, unsafe, log entry 79) -/
def State.fenceLoses (s : State) (h : Nat) (hit : Fence → Bool) (id : Nat) : State :=
  if s.path.fences.any hit then
    { s with path := { s.path with fences := s.path.fences.map (fun (e : Fence) =>
      if hit e then { e with waits := e.waits.filter (· != id), fault := true } else e) } }
  else s.updHead h (fun (x : HeadSt) => { x with lostWrite := true })

/-- A request is discarded (R90, R91): counted for its head, with its event; a read completes with poison and a write with Cmp where the
link is up; the line of a write that was not accepted is stored as poisoned unless DRAM is unreachable. `admitted` is false for a request that still stood in ingress, which
counts in no footfall word (R132). -/
def State.discard (s : State) (t : Txn) (code : Nat) (store : Bool) (admitted : Bool := true) : State :=
  let q := t.req
  let foot := admitted && s.countsFoot t
  let s := s.dropTxn q.id
  let s := match q.src with
    | .head h =>
      let s := s.countDiscard h q.ld t.slice q.line code q.cls
      let s := if q.op == .wr then s.fenceLoses h (fun (e : Fence) => e.waits.contains q.id) q.id else s
      s.egress t h { data := some 0, poison := true, discard := code }
    | .graft g => s.lentDone g t { data := some 0, poison := true, error := true }
    | .dma => s.jobBack q { poison := true, error := true }
  let s := if foot then s.footfall q.page else s
  if store && q.op == .wr then s.poisonLine q.line else s

/-! ### Reads -/

/-- A read is sent to a channel (R211). (DEDUCED, safe, log entry 27) Its arrival, by which reads without a deadline are ordered (R216), is the tick at which it is sent. (DEDUCED, unsafe, log entry 102) -/
def State.sendRead (s : State) (c l : Nat) (why : RdWhy) (tier : Nat) (deadline dpaLine : Option Nat) : State :=
  let r : DramRd := { id := s.path.nextId, line := l, why := why, tier := tier, deadline := deadline, arrival := s.tick, dpaLine := dpaLine }
  s.newId.updCh c (fun d => { d with flying := d.flying ++ [r] })

/-- A metadata item is read from its channel, with the tier and deadline of what it serves (R211, Table 11.3), unless its read is under way already or its channel is lost. -/
def State.metaRead (s : State) (k : MetaKind) (n : Nat) (w : ReadFor := {}) : State :=
  let (c, l) := s.metaAddr k n
  if s.metaPending k n || !s.chLive c then s
  else s.sendRead c l (.mline k n w.pass) w.tier w.dl w.dpa

/-- The nodes of a path that must be read, from the root down (R192, R195): none that is cached, and none beneath a node whose counter says that it is unformatted. -/
def State.missing (s : State) (q : Nat) (levels : List Nat) : List Nat :=
  match levels with
  | [] => []
  | l :: r =>
    let n := q / 64 ^ l
    let par := if l = 3 then s.root (n / 64) else (s.cached true (l + 1) (n / 64)).getD (s.stored true (l + 1) 0 (n / 64))
    if (s.cached true l n).isSome then State.missing s q r
    else if blkMajor par = 0 ∧ blkMinor par (n % 64) = 0 then []
    else l :: State.missing s q r

/-- The metadata items that a counter block or a node of the tree needs (R192): itself, and in the V-space the missing nodes above it with their tree tags. -/
def State.pathTo (s : State) (space : Bool) (level node : Nat) : List (MetaKind × Nat) :=
  let q := node * 64 ^ level
  if (s.cached space level node).isSome then []
  else if !space then [(.ctr false, node)]
  else (s.missing q (([3, 2, 1, 0] : List Nat).filter (fun l => decide (level ≤ l)))).flatMap (fun l =>
    [(if l = 0 then .ctr true else .node l false, q / 64 ^ l), (.treeTag l false, q / 64 ^ l)])

/-- The metadata items that the counter block of secure page q needs. -/
def State.pathItems (s : State) (space : Bool) (q : Nat) : List (MetaKind × Nat) := s.pathTo space 0 q

/-- Several metadata items are read. -/
def State.metaReads (s : State) (xs : List (MetaKind × Nat)) (w : ReadFor := {}) : State :=
  xs.foldl (fun s e => s.metaRead e.1 e.2 w) s

/-- A transaction waits for the counter block of its page, whose path is read (R185, R192). -/
def State.waitCtr (s : State) (t : Txn) : State :=
  let s := s.setTxn { t with phase := .ctr, ctrMiss := true }
  match s.guard t.req.page with
  | none => s
  | some g => s.metaReads (s.pathItems g.space g.q) t.req.readFor

/-- The seal of a line of a HOT page: guard, counter block and tag as they are now. (DEDUCED, safe, log entry 27) -/
def State.sealOf (s : State) (p i : Nat) : Option Seal :=
  match s.guard p with
  | none => none
  | some g => (s.ctrOf g).map (fun b => { g := g, blk := b, tags := [s.lineTag g i] })

/-- Line i of page p opened under the seal it was read with (R186): none is a tag failure. -/
def openSealed (sl : Seal) (p i : Nat) (x : Line) : Option Line :=
  if x.poison then some x
  else
    let t (use : Nat) := tBlock use (blkMinor sl.blk i) (blkMajor sl.blk) (p * 64 + i)
    if sl.tags.headD 0 = BitVec.ofNat 64 (tagOf sl.g.kt (t 1) sl.g.n x.data) then
      some { data := cryptLine sl.g.kd (t 0) x.data, poison := false }
    else none

/-- The bytes of the buffer captured at admission over the data read. (DEDUCED, safe, log entry 27) -/
def overlayOn (o : Option (BitVec 512 × BitVec 64 × Bool)) (x : Line) : Line :=
  match o with
  | none => x
  | some (d, be, po) => x.merge d be po

/-- The data of a HOT or whole SPILLED page's line returns for a transaction: SEC checks it once its tag line is there, a tag failure is recorded and reads as
poison, as does a line whose tag is lost, and the bytes that the buffer held at admission lie over it (R186, R201). -/
def State.lineBack (s : State) (t : Txn) (x : Line) : State :=
  let p := t.req.page
  match t.sealed? with
  | none => s.deliver t (overlayOn t.overlay x)
  | some sl =>
    let tag := sl.g.tagItem (t.req.lineIx / 8)
    if s.metaPending tag.1 tag.2 then s.setTxn { t with phase := .tag, data := some x }
    else if s.lineLost p t.req.lineIx then s.deliver t (overlayOn t.overlay { x with poison := true })
    else match openSealed sl p t.req.lineIx x with
    | some y => s.deliver t (overlayOn t.overlay y)
    | none => (s.tagFail t.req.line (s.clsOf p) false).deliver t (overlayOn t.overlay { x with poison := true })

/-- The counter block of a secure page is at hand, or the request waits for its fetch (R192). -/
inductive CtrNeed | ready | fetch
deriving DecidableEq, Repr

/-- Looks up the counter block of a page in the counter cache, counting the hit or miss of a request that does so for the first time. -/
def State.needCtr (s : State) (p : Nat) (again : Bool) : State × CtrNeed :=
  match s.guard p with
  | none => (s, .ready)
  | some g => match s.ctrOf g with
    | some _ => (if again then s else (s.cnt 0x0501 .dev).stn 112 0, .ready)
    | none => (if again then s else (s.cnt 0x0502 .dev).stn 112 1, .fetch)

/-- The port that carries the requests for a unit of a borrowed lease (R331). -/
def State.leasePort (s : State) (lease unit : Nat) : Option Nat :=
  let peer := s.rd (Reg.GFT_BORROW_PEER_ID lease)
  let ok (g : Nat) : Bool := s.portUp g && s.rd (Reg.GFT_PORT_STATUS_PEER_ID g) == peer && (s.gp g).capAns && (s.gp g).capIn
  if ok 0 && ok 1 && s.flag (Reg.GFT_PORT_STATUS_FULL 0) && s.flag (Reg.GFT_PORT_STATUS_FULL 1) then some ((unit / 8) % 2)
  else if ok 0 then some 0 else if ok 1 then some 1 else none

/-- Requests a port may have outstanding (R330). -/
def State.portRoom (s : State) (g : Nat) : Bool := decide ((s.gp g).outst.length < 1024)

/-- A request message under the tag it is sent with. -/
def tagMsg (m : GMsg) (t : BitVec 10) : GMsg :=
  match m with
  | .rdl _ l n => .rdl t l n
  | .rdu _ l n => .rdu t l n
  | .wrl _ l n d p => .wrl t l n d p
  | .wrp _ l n k d p => .wrp t l n k d p
  | .wru _ l n d p => .wru t l n d p
  | m => m

/-- Lines that a request message covers. -/
def msgSpan : GMsg → Nat
  | .rdu .. => 8
  | .wru .. => 8
  | _ => 1

/-- A write of part of a line. -/
def msgIsPart : GMsg → Bool
  | .wrp .. => true
  | _ => false

/-- A request leaves for the lending peer under a free tag, and is remembered until its answer (R331). -/
def State.launch (s : State) (g : Nat) (x : PeerReq) : State :=
  let t := (s.gp g).freeTag
  (s.updGp g (fun p => { p with outst := p.outst ++ [{ x.out with tag := t }], nextTag := (t + 1) % 1024 })).queueReq g (tagMsg x.msg (BitVec.ofNat 10 t))

/-- A request for the lending peer is sent when the port has room, and waits behind those that wait otherwise (R330). -/
def State.offerPeer (s : State) (g : Nat) (x : PeerReq) : State :=
  if s.portRoom g && (s.gp g).waitReq == [] then s.launch g x else s.updGp g (fun p => { p with waitReq := p.waitReq ++ [x] })

/-- Sends a request to the lending peer, remembering it until its answer. -/
def State.sendPeer (s : State) (g : Nat) (lease line : Nat) (why : RdWhy) (write : Bool) (m : Fin 64 → BitVec 32 → GMsg) : State :=
  let x := m (Fin.ofNat 64 lease) (BitVec.ofNat 32 line)
  s.offerPeer g { out := { tag := 0, why := why, write := write, line := line, lease := lease, span := msgSpan x, part := msgIsPart x }, msg := x }

/-- An answered request leaves the port, and the oldest that waits for room is sent (R330). -/
def State.answered (s : State) (g tag : Nat) : State :=
  let s := s.updGp g (fun p => { p with outst := p.outst.filter (fun (x : Outst) => x.tag != tag) })
  match (s.gp g).waitReq with
  | x :: rest => if s.portRoom g then (s.updGp g (fun p => { p with waitReq := rest })).launch g x else s
  | [] => s

/-- Reads of a page that starts a decode: every line of its sherds, or one RDU for each spilled sherd, and their tag lines (R156, R331, R211). -/
def State.fetchImage (s : State) (e p : Nat) (f : PageForm) (w : ReadFor) : State :=
  let s := match s.guard p, f with
    | some g, .cold _ _ n => s.metaReads (g.tagItems (8 * n)) w
    | some g, .spilled _ _ n => s.metaReads (g.tagItems (8 * n)) w
    | _, _ => s
  match f with
  | .cold c sh n => (List.range (8 * n)).foldl (fun s k => s.sendRead c (sh * 8 + k) (.engine e k) w.tier w.dl w.dpa) s
  | .spilled lease u n => match s.leasePort lease u with
    | none => s
    | some g =>
      let s := if w.tier = 0 then (List.range (8 * n)).foldl (fun (s : State) _ => s.noteT0 16) s else s
      (List.range n).foldl (fun s k => s.sendPeer g lease ((u + k) * 8) (.engine e k) false (.rdu 0)) s
  | _ => s

/-! ### Pages read whole -/

/-- 8-line groups of a spilled page: the whole page has eight, an image one for each sherd. -/
def spillGroups (n : Nat) : Nat := if n = 0 then 8 else n

/-- Asks the lending peer for every line of a spilled page; false when no port can carry the requests. -/
def State.gatherPage (s : State) (p lease u n : Nat) : State × Bool :=
  match s.leasePort lease u with
  | none => (s, false)
  | some g =>
    let s : State := { s with sec := { s.sec with gather := Tbl.del s.sec.gather p } }
    ((List.range (spillGroups n)).foldl (fun s k => s.sendPeer g lease ((u + k) * 8) (.page p k) false (.rdu 0)) s, true)

/-- The lines gathered for a page, when all are there. -/
def State.gathered (s : State) (p n : Nat) : Option (List Line) :=
  let t := Tbl.lookD s.sec.gather [] p
  let k := 8 * spillGroups n
  if (List.range k).all (fun i => (Tbl.look t i).isSome) then some ((List.range k).map (fun i => Tbl.lookD t {} i)) else none

/-- The tag lines of the first n lines of a page are read for an internal source, in tier 3 (R186, R211). -/
def State.readTags (s : State) (p n : Nat) : State :=
  match s.guard p with
  | none => s
  | some g => (s.checkPageTags p).metaReads (g.tagItems n)

/-- Tag lines of the first n lines of a page are still being read (R186). -/
def State.tagsPending (s : State) (p n : Nat) : Bool := (s.guard p).any (fun g => (g.tagItems n).any (fun e => s.metaPending e.1 e.2))

/-- Reads every line of a page's own media for an internal source, in tier 3 (R211). -/
def State.readPage (s : State) (p : Nat) (f : PageForm) : State :=
  let s : State := { s with sec := { s.sec with gather := Tbl.del s.sec.gather p } }
  match f with
  | .hot c fr _ => (List.range 64).foldl (fun s i => s.sendRead c (fr * 64 + i) (.page p i) 3 none none) s
  | .cold c sh n => (List.range (8 * n)).foldl (fun s i => s.sendRead c (sh * 8 + i) (.page p i) 3 none none) s
  | _ => s

/-- Lines of a page form in its media. -/
def formSize : PageForm → Nat
  | .hot .. => 64
  | .cold _ _ n => 8 * n
  | .spilled _ _ n => 8 * spillGroups n
  | _ => 0

/-- The first n lines of a page that have been read for an internal source, when all are back. -/
def State.pageRead (s : State) (p n : Nat) : Option (List Line) :=
  let t := Tbl.lookD s.sec.gather [] p
  if (List.range n).all (fun i => (Tbl.look t i).isSome) then some ((List.range n).map (fun i => Tbl.lookD t {} i)) else none

/-- Writes lines back to the peer, eight to a WRU. -/
def State.putPeer (s : State) (lease u : Nat) (xs : List Line) : State :=
  match s.leasePort lease u with
  | none => s
  | some g =>
    (chunk 8 8 xs).zipIdx.foldl (fun (s : State) (e : List Line × Nat) =>
      if e.1 = [] then s
      else
        let po := (e.1.zipIdx).foldl (fun (a : Nat) (y : Line × Nat) => if y.1.poison then a + 2 ^ y.2 else a) 0
        s.sendPeer g lease ((u + e.2) * 8) .merge true (fun l line =>
          .wru 0 l line (e.1.map (fun (y : Line) => y.data)) (BitVec.ofNat 8 po))) s

/-- Engine e is idle. -/
def State.engineIdle (s : State) (e : Nat) : Bool := (Tbl.look s.press.engines e).isNone

/-- The engine of inline work of a slice (R27): 2s, 2s + 1, else the lowest-numbered idle one. -/
def State.pickEngine (s : State) (slice : Nat) (ok : Nat → Bool := fun _ => true) : Option Nat :=
  ([2 * slice, 2 * slice + 1] ++ List.range 64).find? (fun e => s.engineIdle e && ok e)

/-- An engine starts work. -/
def State.takeEngine (s : State) (e : Nat) (u : EngineUse) : State :=
  { s with press := { s.press with engines := Tbl.put s.press.engines e u, sherds := Tbl.del s.press.sherds e, jobs := Tbl.del s.press.jobs e } }

/-- An engine becomes idle. -/
def State.freeEngine (s : State) (e : Nat) : State :=
  { s with press := { s.press with engines := Tbl.del s.press.engines e, sherds := Tbl.del s.press.sherds e, jobs := Tbl.del s.press.jobs e } }

/-- The seal of a compressed image: the counter block now, whose MAJOR gives V, and the tags of its sherd lines. -/
def State.imageSeal (s : State) (p n : Nat) : Option Seal :=
  match s.guard p with
  | none => none
  | some g => (s.ctrOf g).map (fun b => { g := g, blk := b, tags := (List.range (8 * n)).map (s.lineTag g) })

/-- A decode of a page's image runs: for reads, for a thaw or an unspill of the page, or for a pass that visits it (R156). -/
def State.decodeRuns (s : State) (p : Nat) (f : PageForm) : Bool :=
  s.press.engines.any (fun e => match e.2 with
    | .read q g _ _ => q == p && g == f
    | .move slice slot => (Tbl.look s.place.slots (slotKey slice slot)).any (fun m => m.page == p && m.src.form == f && !m.copied && (m.kind == .thaw || m.kind == .unspill))
    | .rake n => s.mgmt.passes.any (fun x => x.id == n && x.cur.any (fun k => k.page == p && k.form == f))
    | _ => false)

/-- A read of a compressed page joins the decode that runs for it, or starts one on an engine (R156, R157); with none idle it waits. -/
def State.readImage (s : State) (t : Txn) (f : PageForm) (n : Nat) : State :=
  let p := t.req.page
  let t := { t with phase := .decode, source := 6 }
  if s.decodeRuns p f then s.setTxn t
  else match s.pickEngine t.slice with
    | none => s.setTxn t
    | some e =>
      let s := (s.setTxn t).takeEngine e (.read p f (s.acc p).version (s.imageSeal p n))
      s.fetchImage e p f t.req.readFor

/-- A read of a line in a frame: from the buffer when all its bytes are there, else from DRAM (R78), its tag line with it (R185). -/
def State.readFrame (s : State) (t : Txn) (c fr : Nat) : State :=
  let i := t.req.lineIx
  let t := { t with phase := .dram, sealed? := s.sealOf t.req.page i, source := 0,
                    overlay := (s.wcb? t.req.line).map (fun (w : WcbLine) => (w.data, w.be, w.poison)) }
  let s := match t.sealed? with
    | some sl => s.metaReads [sl.g.tagItem (i / 8)] t.req.readFor
    | none => s
  (s.setTxn t).sendRead c (fr * 64 + i) (.txn t.req.id 0) t.req.tier t.req.deadline (some t.req.line)

/-- A read of a line of a whole spilled page goes to the lending peer (R331). -/
def State.readPeer (s : State) (t : Txn) (lease u : Nat) : State :=
  let i := t.req.lineIx
  match s.leasePort lease u with
  | none => s.setTxn { t with phase := .spill }
  | some g =>
    if s.portRoom g then
      let t := { t with phase := .dram, source := 5, sealed? := s.sealOf t.req.page i,
                        overlay := (s.wcb? t.req.line).map (fun (w : WcbLine) => (w.data, w.be, w.poison)) }
      let s := if t.req.tier = 0 then s.noteT0 16 else s
      let s := match t.sealed? with
        | some sl => s.metaReads [sl.g.tagItem (i / 8)] t.req.readFor
        | none => s
      (s.setTxn t).sendPeer g lease (u * 8 + i) (.txn t.req.id 0) false (.rdl 0)
    else s.setTxn { t with phase := .spill }

/-- A read of a head of an UNWRITTEN or a COLD page is counted, once (Table 16.1). -/
def State.countRead (s : State) (t : Txn) : State × Txn :=
  match t.counted, t.req.src with
  | false, .head h =>
    let sc := Scope.req h t.req.cls
    (match s.srcForm t.req.page with
      | .unwritten _ => s.cnt 0x0301 sc
      | .cold .. => s.cnt 0x0302 sc
      | _ => s, { t with counted := true })
  | _, _ => (s, t)

/-- A read is served from where its page lies (Table 1.3). A lost line reads as poison (R202), and so does a page that cannot be read (R128). -/
def State.serveRead (s : State) (t : Txn) : State :=
  let p := t.req.page
  let again := t.ctrMiss || t.counted
  let (s, t) := s.countRead t
  let sc := match t.req.src with | .head h => Scope.req h t.req.cls | _ => Scope.req 16 none
  let s := match s.srcForm p with
    | .hot .. => s.checkTags p (t.req.lineIx / 8)
    | .spilled _ _ 0 => s.checkTags p (t.req.lineIx / 8)
    | .unwritten _ => s
    | _ => s.checkPageTags p
  match s.srcForm p with
  | .unreadable => (s.raise 0x0301 p).deliver t { data := 0, poison := true }
  | .unwritten pz => s.deliver { t with source := 3 } { data := 0, poison := pz || s.lineLost p t.req.lineIx }
  | f =>
    if s.lineLost p t.req.lineIx then s.deliver t { data := 0, poison := true }
    else
      match s.wcb? t.req.line with
      | some w =>
        if w.be = BitVec.allOnes 64 then (s.cnt 0x0107 sc).deliver { t with source := 1 } { data := w.data, poison := w.poison }
        else match s.needCtr p again with
          | (s, .fetch) => s.waitCtr t
          | (s, .ready) => match f with
            | .hot c fr _ => s.readFrame t c fr
            | .spilled lease u _ => s.readPeer t lease u
            | _ => s.setTxn t
      | none => match s.needCtr p again with
        | (s, .fetch) => s.waitCtr t
        | (s, .ready) => match f with
          | .hot c fr _ => s.readFrame t c fr
          | .cold _ _ n => s.readImage t f n
          | .spilled lease u n =>
            if n = 0 then s.readPeer t lease u else s.readImage t f n
          | _ => s.setTxn t

/-! ### Writes -/

/-- A write completes with error and its data is discarded: its region is READONLY, its line is lost, or its page cannot be read
(R128, R190, R202). -/
def State.refusesWrite (s : State) (p i : Nat) : Bool :=
  s.lineLost p i || (s.acc p).form == .unreadable || ((s.regionAt p).any (fun r => r.2.readonly))

/-- A write to a page that cannot be read raises the event of R128. -/
def State.refusalEvent (s : State) (p : Nat) : State := if (s.acc p).form = .unreadable then s.raise 0x0301 p else s

/-- What a write waits for before its acceptance (R72), by the state of its page. A compressed image at a peer takes no write, so its page is
unspilled first (log entry 13). -/
def State.writePhase (s : State) (p : Nat) : Phase :=
  match (s.acc p).form with
  | .cold .. => .needThaw
  | .spilled _ _ n => if n = 0 then .accept else .needThaw
  | .migrating _ => if s.takesWrite p then .accept else .move
  | _ => .accept

/-- A waiting read or write is placed in the phase its page's state asks for. A write ends with error where no write is taken. -/
def State.serveWrite (s : State) (t : Txn) : State :=
  let p := t.req.page
  let sc := match t.req.src with | .head h => Scope.req h t.req.cls | _ => Scope.req 16 none
  let s := match s.srcForm p with | .spilled .. => s.cnt 0x0303 sc | _ => s
  let s := s.checkTags p (t.req.lineIx / 8)
  if s.refusesWrite p t.req.lineIx then (s.refusalEvent p).finish t { error := true }
  else
    let ph := s.writePhase p
    let s := if ph = .accept then s else s.noteWait t.req
    let s := if ph = .move then s.noteWrite t.req.line else s
    s.setTxn { t with phase := ph, source := 7, moved := t.moved || ph != .accept }

end Sys2Proof.Machine
end

