-- ==== Sys2Proof/Machine/Coherence.lean ====
section
/-! DEFINITION. The directory (R95 to R123): entries, ways and the bench (R98 to R100, R111 to R113), back-invalidate exchanges (R106, R114),
the transitions of Table 4.4, and the abrupt removal of a head (R116, R117). -/
namespace Sys2Proof.Machine

/-! ### Entries and ways -/

/-- The set of a line: {DPA[24:17], DPA[11:6]} (R98). -/
def dirSet (line : Nat) : Nat := ((line / 2048) % 256) * 64 + line % 64

/-- The key of a way of a set of a slice. -/
def dirKey (slice set way : Nat) : Nat := (slice * 16384 + set) * 16 + way

/-- The entry of a line, with its key. -/
def State.entry? (s : State) (line : Nat) : Option (Nat × DirEntry) :=
  (List.range 16).findSome? (fun w =>
    let k := dirKey (sliceOfLine line) (dirSet line) w
    match Tbl.look s.dir.ways k with
    | some e => if e.line = line then some (k, e) else none
    | none => none)

/-- Stores an entry in a way. -/
def State.putWay (s : State) (k : Nat) (e : DirEntry) : State := { s with dir := { s.dir with ways := Tbl.put s.dir.ways k e } }

/-- Frees a way. -/
def State.delWay (s : State) (k : Nat) : State := { s with dir := { s.dir with ways := Tbl.del s.dir.ways k } }

/-- The heads of a sharer vector. -/
def headsOf (v : BitVec 16) : List Nat := bitsBelow 16 v.toNat

/-- One head's bit. -/
def headBit (h : Nat) : BitVec 16 := 1#16 <<< h

/-- An entry without a head: the owner's entry ends, a forwarder's becomes S, and an entry without sharers is freed (R100, R116). -/
def DirEntry.without (e : DirEntry) (h : Nat) : Option DirEntry :=
  match e.st with
  | .o => if e.named = h then none else some e
  | st =>
    let v := e.sharers &&& ~~~(headBit h)
    if v = 0 then none
    else some { e with sharers := v, st := (match st with | .f => if e.named = h then .s else .f | x => x),
                       named := if e.named = h then 0 else e.named }

/-- Stores an entry, or frees its way. -/
def State.setEntry (s : State) (k : Nat) (e : Option DirEntry) : State :=
  match e with
  | some e => s.putWay k e
  | none => s.delWay k

/-- A use of a way: its age becomes 0, and every younger entry of the set is one older (AGE, Table 4.1; DEDUCED, unsafe, log entry 10). -/
def State.touch (s : State) (k : Nat) : State :=
  let base := k / 16 * 16
  let old := ((Tbl.look s.dir.ways k).map (·.age)).getD 15
  let ways := (List.range 16).foldl (fun (t : Tbl DirEntry) w =>
    if base + w = k then Tbl.modify t k (fun e => { e with age := 0 })
    else Tbl.modify t (base + w) (fun e => if e.age ≤ old then { e with age := min 15 (e.age + 1) } else e)) s.dir.ways
  { s with dir := { s.dir with ways := ways } }

/-- A transaction has a memory read, a thaw or a write acceptance outstanding, or the directory has let it go on (R112): it is not merely queued. -/
def Txn.outstanding (t : Txn) : Bool := t.granted || (t.phase != .queued && t.phase != .acc && t.phase != .lock)

/-- A transaction on the line has an exchange or an access outstanding: its way is pinned (R112, PIN of Table 4.1). -/
def State.pinned (s : State) (line : Nat) : Bool :=
  s.path.txns.any (fun t => t.req.line == line && t.outstanding) || s.dir.exchs.any (fun x => x.line == line)

/-- A transaction or an exchange is open on the line, be it queued or on the bench (R108). -/
def State.lineOpen (s : State) (line : Nat) : Bool :=
  (s.path.txns ++ s.dir.bench).any (fun t => t.req.line == line) || s.dir.exchs.any (fun x => x.line == line)

/-- What a set offers a new line (R111, R112). -/
inductive WayFor
  | free (k : Nat)
  | victim (k : Nat) (e : DirEntry)
  | none
deriving DecidableEq, Repr

/-- The way a new line takes: a free one, else the unpinned one with the fewest heads, O counting as one, then the oldest (R111). (DEDUCED, unsafe, log entry 10) -/
def State.wayFor (s : State) (line : Nat) : WayFor :=
  let ks := (List.range 16).map (dirKey (sliceOfLine line) (dirSet line))
  match ks.find? (fun k => (Tbl.look s.dir.ways k).isNone) with
  | some k => .free k
  | none =>
    let cands := ks.filterMap (fun k => match Tbl.look s.dir.ways k with
      | some e => if e.evicting || s.pinned e.line then Option.none else some (k, e)
      | none => Option.none)
    let weight (c : Nat × DirEntry) : Nat := (headsOf c.2.sharers).length * 16 + (15 - c.2.age)
    match leastBy weight cands with
    | some (k, e) => .victim k e
    | none => .none

/-! ### Back-invalidate messages -/

/-- An abrupt walk of a head has not ended (R116, R117). -/
def State.abruptWalk (s : State) (h : Nat) : Bool :=
  s.dir.walks.any (fun (w : Walk) => w.head == h && (match w.why with | .abrupt _ => true | _ => false))

/-- The head can be snooped for a line: the LD of the head that maps the line is ACTIVE or DRAINING, the link is up, and no abrupt walk of the head runs (R117). -/
def State.snoopable (s : State) (h line : Nat) : Bool :=
  match s.mapper h (unitOfPage (pageOf line)) with
  | none => false
  | some i => s.linkUp h && !s.abruptWalk h && (s.ld? i).any (fun d => d.st == .active || d.st == .draining)

/-- The LD-ID by which a head knows an LD: an SLD's is 0 (R41, R42). -/
def State.ldIdOf (s : State) (h i : Nat) : Nat := if s.isMld h then ((s.ld? i).map (·.ldId)).getD 0 else 0

/-- A BISnp leaves for a head with a credit (R97, R106). It carries the LD-ID of the head's LD that maps the line (R96). (DESIGN CHOICE, safe, log entry 74) -/
def State.sendBisnp (s : State) (h line : Nat) (snp : Snp) : State :=
  let i := (s.mapper h (unitOfPage (pageOf line))).getD 0
  let s := (s.wakeLink h).emit (.bisnp h (s.ldIdOf h i) line snp)
  ((s.cnt 0x0601 (.head h)).ldCnt i 6).stn (sliceOfLine line) 5

/-- Opens an exchange: each BISnp is sent, or waits for a credit with its timer running (R97, R114). -/
def State.openExch (s : State) (line : Nat) (why : ExchWhy) (heads : List Nat) (snp : Snp) : State :=
  let s := { s with dir := { s.dir with exchs := s.dir.exchs ++ [{ line := line, why := why, waits := [], heads := heads }] } }
  heads.foldl (fun s h =>
    let credit := Tbl.lookD s.dir.credits 0 h
    let w : BiWait := { head := h, snp := snp, start := s.tick, sent := decide (0 < credit) }
    let s := if 0 < credit then
        ({ s with dir := { s.dir with credits := Tbl.putD s.dir.credits 0 h (credit - 1) } }).sendBisnp h line snp else s
    { s with dir := { s.dir with exchs := s.dir.exchs.map (fun x =>
        if x.line = line ∧ x.why = why then { x with waits := x.waits ++ [w] } else x) } }) s

/-- The exchange of a line that waits for a head. -/
def State.exchFor (s : State) (h line : Nat) : Option Exch :=
  s.dir.exchs.find? (fun x => x.line == line && x.waits.any (fun w => w.head == h))

/-- An exchange of the line has snooped a head and has not ended (R107). -/
def State.snooping (s : State) (h line : Nat) : Bool := s.dir.exchs.any (fun x => x.line == line && x.heads.contains h)

/-- Replaces an exchange. -/
def State.setExch (s : State) (x : Exch) : State :=
  { s with dir := { s.dir with exchs := s.dir.exchs.map (fun y => if y.line = x.line ∧ y.why = x.why then x else y) } }

/-- Removes an exchange. -/
def State.dropExch (s : State) (x : Exch) : State :=
  { s with dir := { s.dir with exchs := s.dir.exchs.filter (fun y => !(y.line == x.line && y.why == x.why)) } }

/-! ### Abrupt removal -/

/-- The abrupt action of R116 on the entry of a line for a head: an entry in O at the head is freed and its line poisoned, and otherwise
the head leaves the entry. -/
def State.abruptOn (s : State) (k : Nat) (e : DirEntry) (h : Nat) : State :=
  if e.st = .o ∧ e.named = h then (s.delWay k).poisonLine e.line
  else if e.sharers.getLsbD h then s.setEntry k (e.without h) else s

/-- Heads of an entry that can no longer be snooped are removed at once (R117). -/
def State.cleanStopped (s : State) (line : Nat) : State :=
  match s.entry? line with
  | none => s
  | some (k, e) => (headsOf e.sharers).foldl (fun s h =>
      if s.snoopable h line then s
      else match Tbl.look s.dir.ways k with
        | some e => s.abruptOn k e h
        | none => s) s

/-! ### Transitions -/

/-- A stale sharer is counted at its slice (R110). -/
def State.stale (s : State) (line : Nat) : State := s.sat (Reg.DIR_STALE_STALE (sliceOfLine line)) 1

/-- The entry a first reader gets (Table 4.4, state I). -/
def newEntry (line h : Nat) (c : ReqClass) : DirEntry :=
  match c with
  | .rdOwn => { line := line, st := .o, sharers := headBit h, named := h }
  | _ => { line := line, st := .s, sharers := headBit h }

/-- The memory side of a read: none for MemInv, which asks for no data. -/
def State.readOrAck (s : State) (t : Txn) : State :=
  match t.req.op with
  | .inv => match s.exchOf t.req.id with
    | some _ => s.setTxn { t with phase := .exch }
    | none => s.finish t { mv := t.req.mv }
  | _ => s.serveRead t

/-- A request takes a place on the bench of its slice (R112, R113). -/
def State.benchIt (s : State) (t : Txn) : State :=
  let s := s.dropTxn t.req.id
  let s : State := { s with dir := { s.dir with bench := s.dir.bench ++ [{ t with benched := true }] } }
  let n : Nat := (s.dir.bench.filter (fun u => u.slice == t.slice)).length
  let s := ((s.cnt 0x0605 .dev).stn t.slice 6).noteWait t.req
  if s.rd (Reg.DIR_EVENTS_BENCH_HWM t.slice) < n then s.wr (Reg.DIR_EVENTS_BENCH_HWM t.slice) n else s

/-- The bench of a slice has a place left: it has 64 (R113). -/
def State.benchRoom (s : State) (slice : Nat) : Bool := decide ((s.dir.bench.filter (fun u => u.slice == slice)).length < 64)

/-- The page of an ownership request must be in a tier that a write can enter: a COLD page thaws first (R121), a page under a thaw or
unspill is waited for, and a freeze or spill is aborted (Table 5.5). None: nothing to wait for, as for a request that asks for no ownership. -/
def State.ownPhase (s : State) (q : Req) : Option Phase :=
  if q.cls43 != .rdOwn || (s.regionAt q.page).any (fun r => r.2.readonly) then none
  else match s.writePhase q.page with
    | .accept => none
    | ph => some ph

/-- A request takes a way for its line (Table 4.4, state I). A page that a move has taken out of the reach of writes meanwhile is waited for, and the way stays free (R119, R121). -/
def State.takeWay (s : State) (t : Txn) (h k : Nat) : State :=
  match s.ownPhase t.req with
  | some ph => (s.noteWrite t.req.line).setTxn { t with phase := ph, moved := true }
  | none =>
    let s := if t.req.cls43 == .rdOwn then s.noteWrite t.req.line else s
    ((s.putWay k { newEntry t.req.line h t.req.cls43 with age := 15 }).touch k).readOrAck { t with granted := true }

/-- A read or ownership request for a line with no entry: it takes a way, evicts a victim, or goes to the bench (R111, R112). Heads that have stopped leave the victim at
once (R117). A request that was admitted without need of the bench and finds it full waits in the transaction table (R113). -/
def State.allocWay (s : State) (t : Txn) (h : Nat) : State :=
  match s.wayFor t.req.line with
  | .free k => s.takeWay t h k
  | .victim k e =>
    let s := (s.cleanStopped e.line).cnt 0x0604 .dev
    match Tbl.look s.dir.ways k with
    | none => s.takeWay t h k
    | some e =>
      let s := s.putWay k { e with evicting := true }
      let s := (s.setTxn { t with phase := .exch, snooped := true }).noteWait t.req
      s.openExch e.line (.evict k t.req.id) (headsOf e.sharers) .inv
  | .none => if s.benchRoom t.slice then s.benchIt t else s.setTxn { t with phase := .queued }

/-- Table 4.4 for a request of head h that has the line to itself. An RdShared of the forwarder itself reads memory, whatever FWD_SPILLED says. (DEDUCED, unsafe, log entry 78) -/
def State.transition (s : State) (w : Txn) (h : Nat) : State :=
  let t : Txn := { w with granted := true }
  let q := t.req
  let line := q.line
  match s.ownPhase q with
  | some ph => ((s.noteWait q).noteWrite line).setTxn { w with phase := ph, moved := true }
  | none =>
    let s := if q.cls43 == .rdOwn then s.noteWrite line else s
    match s.entry? line with
    | none => match q.cls43 with
      | .rdShared => s.allocWay w h
      | .rdOwn => s.allocWay w h
      | .rdCur => s.serveRead t
      | .evict => s.finish t {}
      | _ => s.serveWrite t
    | some (k, e) =>
      let s := s.touch k
      let e := { e with age := 0 }
      let snoop (heads : List Nat) (snp : Snp) (s : State) : State :=
        ((s.setTxn { w with phase := .exch, snooped := true }).noteWait q).openExch line (.txn q.id) heads snp
      let t' : Txn := { t with snooped := true }
      let mine := e.sharers.getLsbD h
      match q.cls43, e.st with
      | .rdShared, .s =>
        ((if mine then s.stale line else s).putWay k { e with sharers := e.sharers ||| headBit h }).serveRead t
      | .rdShared, .f =>
        let spilled := match (s.acc q.page).form with | .spilled .. => true | _ => false
        if s.flag Reg.DIR_CFG_FWD_SPILLED && spilled && e.named != h then snoop [e.named] .data (if mine then s.stale line else s)
        else ((if mine then s.stale line else s).putWay k { e with sharers := e.sharers ||| headBit h }).serveRead t
      | .rdShared, .o =>
        if e.named = h then ((s.stale line).putWay k { e with st := .s, named := 0 }).serveRead t
        else snoop [e.named] .data s
      | .rdOwn, .o =>
        if e.named = h then (if q.op = .inv then s else s.stale line).readOrAck t
        else snoop [e.named] .inv s
      | .rdOwn, _ =>
        let s := if mine && q.op != .inv then s.stale line else s
        match (headsOf e.sharers).filter (· != h) with
        | [] => (s.putWay k { e with st := .o, sharers := headBit h, named := h }).readOrAck t
        | hs => (snoop hs .inv s).readOrAck t'
      | .rdCur, .o => if e.named = h then (s.stale line).serveRead t else snoop [e.named] .cur s
      | .rdCur, _ => s.serveRead t
      | .evict, .o => (if e.named = h then s.delWay k else s).finish t {}
      | .evict, _ => (s.setEntry k (e.without h)).finish t {}
      | _, .o =>
        if e.named = h then
          let s := match q.mv with
            | .i => s.delWay k
            | .s => s.putWay k { e with st := .s, named := 0 }
            | _ => s
          s.serveWrite { t with kind := 5 }
        else snoop [e.named] .inv s
      | _, _ => match (headsOf e.sharers).filter (· != h) with
        | [] => (s.delWay k).serveWrite t
        | hs => snoop hs .inv s

/-- The page side of a request whose directory action has been taken. -/
def State.pageSide (s : State) (t : Txn) : State :=
  match t.req.cls43 with
  | .wr => s.serveWrite t
  | .evict => s.finish t {}
  | _ => s.readOrAck t

/-- An earlier transaction on the line of a transaction: one before it in the table, or one on the bench, which was admitted before every transaction that waits on its line (R108, R112). -/
def State.lineTaken (s : State) (t : Txn) : Bool :=
  (s.path.txns.takeWhile (fun u => u.req.id != t.req.id)).any (fun u => u.req.line == t.req.line)
    || s.dir.bench.any (fun u => u.req.line == t.req.line && u.req.id != t.req.id)

/-- A request of a head for an HDM-DB line: behind any other transaction or exchange of the line it waits (R108). -/
def State.dispatchDb (s : State) (t : Txn) (h : Nat) : State :=
  if t.granted then s.pageSide t else
  let s := s.cleanStopped t.req.line
  if s.lineTaken t || s.dir.exchs.any (fun x => x.line == t.req.line) then s.setTxn { t with phase := .queued }
  else s.transition t h

/-! ### The end of an exchange -/

/-- The directory state that an answered exchange leaves for its own transaction (Table 4.4). A BIRspE to a BISnpData, which the table does not list, is taken as a BIRspS.
(DEDUCED, unsafe, log entry 78) -/
def State.afterSnoop (s : State) (t : Txn) (h : Nat) (x : Exch) : State :=
  let line := t.req.line
  match s.entry? line with
  | none => s
  | some (k, e) =>
    match t.req.cls43, e.st with
    | .rdShared, .o => match x.kept with
      | some .i => s.putWay k { e with st := .s, sharers := headBit h, named := 0 }
      | _ => s.putWay k { e with st := .f, sharers := e.sharers ||| headBit h }
    | .rdShared, _ => match x.kept with
      | some .i => s.putWay k { e with st := .f, sharers := (e.sharers &&& ~~~(headBit e.named)) ||| headBit h, named := h }
      | _ => s.putWay k { e with sharers := e.sharers ||| headBit h }
    | .rdOwn, _ => s.putWay k { e with st := .o, sharers := headBit h, named := h }
    | .rdCur, _ => match x.kept with
      | some .i => s.delWay k
      | some .s => s.putWay k { e with st := .s, named := 0 }
      | _ => s
    | _, _ => s.delWay k

/-- BI timeouts of an exchange are raised and counted when it ends (Table 4.5, step 5). -/
def State.raiseTimeouts (s : State) (x : Exch) : State :=
  x.timedOut.foldl (fun s h => (s.raise 0x0601 x.line h).sat (Reg.DIR_EVENTS_BI_TIMEOUTS (sliceOfLine x.line)) 1) s

/-- The entry of a line is freed. -/
def State.freeLine (s : State) (line : Nat) : State := match s.entry? line with | some (k, _) => s.delWay k | none => s

/-- The waiting request of an exchange that has ended goes on (R102, R103). After a BI timeout it completes with poison, and grants nothing: its MetaValue is I (R114; DEDUCED,
unsafe, log entry 78). After the abrupt stop of an owner it is served anew from the state this leaves, with poison (R117). An ownership request whose page a move has
taken out of the reach of writes waits for the page again, with every other copy ended (R119, R121). -/
def State.resume (s : State) (t : Txn) (h : Nat) (x : Exch) : State :=
  if x.timedOut ≠ [] then
    let s := s.freeLine t.req.line
    match t.req.cls43 with
    | .wr => s.finish t {}
    | _ => s.finish t { data := some 0, poison := true, mv := .i }
  else if x.poisoned then s.setTxn { t with phase := .queued, poisoned := true, data := none }
  else match s.ownPhase t.req with
  | some ph => (s.freeLine t.req.line).setTxn { t with phase := if t.phase = .exch then ph else t.phase, moved := true, granted := false, data := none }
  | none =>
    let s := if t.req.cls43 == .rdOwn then s.noteWrite t.req.line else s
    let s := s.afterSnoop t h x
    let t : Txn := { t with granted := true }
    match t.req.cls43 with
    | .wr => s.serveWrite t
    | _ =>
      if t.req.op = .inv then s.finish t { mv := t.req.mv }
      else match x.data with
        | some d => s.finishRead { t with source := 4 } d
        | none => match t.phase, t.data with
          | .exch, some d => s.finishRead t d
          | .exch, none => s.serveRead t
          | _, _ => s

/-- What an answered head leaves of the entry when no request of its exchange is waiting: it keeps what its answer says. -/
def State.afterWalk (s : State) (x : Exch) (heads : List Nat) : State :=
  heads.foldl (fun s h => match s.entry? x.line with
    | some (k, e) => match x.kept with
      | some .e => s
      | some .s => s.putWay k { e with st := (match e.st with | .o => .s | st => st), named := (match e.st with | .o => 0 | _ => e.named) }
      | _ => s.setEntry k (e.without h)
    | none => s) s

/-- An exchange that no request waits for ends: after a BI timeout the entry is freed (Table 4.5, step 4), else each head keeps what its answer says. -/
def State.recallEnd (s : State) (x : Exch) (heads : List Nat) : State :=
  if x.timedOut ≠ [] then s.freeLine x.line else s.afterWalk x heads

/-- An exchange with no answer awaited ends. `heads` are the heads it snooped last. -/
def State.endExch (s : State) (x : Exch) (heads : List Nat) : State :=
  let s := (s.dropExch x).raiseTimeouts x
  match x.why with
  | .txn id => match s.path.txns.find? (fun t => t.req.id == id) with
    | some t => match t.req.src with
      | .head h => s.resume t h x
      | _ => s
    | none => s.recallEnd x heads
  | .evict k id =>
    let s := s.delWay k
    match s.path.txns.find? (fun t => t.req.id == id) with
    | some t => match t.req.src with
      | .head h => s.takeWay t h k
      | _ => s
    | none => s
  | _ => s.recallEnd x heads

/-- An awaited head is no longer waited for: it answered, timed out or stopped. The last one ends the exchange. -/
def State.endWait (s : State) (x : Exch) (h : Nat) : State :=
  let x' := { x with waits := x.waits.filter (fun w => w.head != h) }
  let s := s.setExch x'
  if x'.waits = [] then s.endExch x' [h]
  else match x.why with
    | .txn id => if (s.txn? id).isSome then s else s.afterWalk x' [h]
    | .evict .. => s
    | _ => s.afterWalk x' [h]

/-- A BISnp ends without an answer (R114): the head leaves the entry, the line is stored as poisoned, data accepted from it is
discarded, and the exchange ends poisoned when the last answer has come. -/
def State.biTimedOut (s : State) (x : Exch) (h : Nat) : State :=
  let s := match s.entry? x.line with
    | some (k, e) => match e.without h with
      | some e' => s.putWay k e'
      | none => match x.why with
        | .txn _ => s
        | .evict .. => s
        | _ => s.delWay k
    | none => s
  let x' := { x with poisoned := true, data := none, timedOut := x.timedOut ++ [h] }
  ((s.setExch x').poisonLine x.line).endWait x' h

/-- A head that stops abruptly while it is waited for (R117): the abrupt action is applied at once, and the waiting request proceeds,
with poison where the line was poisoned. -/
def State.stopWait (s : State) (x : Exch) (h : Nat) : State :=
  let owner := (s.entry? x.line).any (fun e => e.2.st == .o && e.2.named == h)
  let x' := if owner then { x with poisoned := true, data := none } else x
  let s := s.setExch x'
  (if owner then s.poisonLine x.line else s).endWait x' h

/-- The abrupt action of R116 on a line for a head that has stopped, whether the head is waited for or not. -/
def State.abruptLine (s : State) (h line : Nat) : State :=
  let s := match s.exchFor h line with
    | some x => s.stopWait x h
    | none => s
  match s.entry? line with
  | some (k, e) => s.abruptOn k e h
  | none => s

/-- Every exchange that waits for a head that has stopped: the abrupt action is applied to its line at once (R117). -/
def State.stopWaits (s : State) (h : Nat) : State :=
  ((s.dir.exchs.filter (fun x => x.waits.any (fun w => w.head == h))).map (·.line)).foldl (fun s l => s.abruptLine h l) s

end Sys2Proof.Machine
end

