-- ==== Sys2Proof/Machine/Slice.lean ====
section
/-! DEFINITION. The slices: the acceptance of writes and the first write to a page (R71, R72, R131, R154), admission by the arbiter and
dispatch (R22 to R24, R53 to R57), and the commands SLICE_ARBITRATION, BENCH_WAKE, WRITE_ACCEPT and FENCE_COMPLETE. -/
namespace Sys2Proof.Machine

/-! ### The arbiter (R23) -/

/-- The buffer of a slice has room for a line: 256 lines (Table 1.2). -/
def State.wcbRoom (s : State) (line : Nat) : Bool :=
  (s.wcb? line).isSome || decide ((s.wcbOf (sliceOfLine line)).length < 256)

/-- A write of a head that an exchange of its line waits for: the snoop's data (R101, R106). The rule names a MemWr; a MemWrPtl is taken in the same way. (DEDUCED, unsafe, log entry 94) -/
def State.snoopData (s : State) (q : Req) (h : Nat) : Bool := q.op == .wr && s.isDb q.page && (s.exchFor h q.line).isSome

/-- A request needs a way of its set: an RdShared or RdOwn of a line with no entry (R111). -/
def State.needsWay (s : State) (q : Req) : Bool :=
  s.isDb q.page && (q.cls43 == .rdShared || q.cls43 == .rdOwn) && (s.entry? q.line).isNone

/-- A request that would need the bench of its slice (R113). -/
def State.needsBench (s : State) (q : Req) : Bool := s.needsWay q && !s.lineOpen q.line && s.wayFor q.line == .none

/-- The transaction table of a slice is full: it holds 768 (R23). -/
def State.tableFull (s : State) (slice : Nat) : Bool := decide (768 ≤ (s.path.txns.filter (fun t => t.slice == slice)).length)

/-- At least k ticks have passed since the last admission counted under a key (R24, R290). -/
def State.spaced (s : State) (key k : Nat) : Bool :=
  let last := Tbl.lookD s.path.lastDma 0 key
  last == 0 || decide (last - 1 + k ≤ s.tick)

/-- The write-combining buffer of a slice is full: it holds 256 lines (R23, Table 1.2). -/
def State.wcbFull (s : State) (slice : Nat) : Bool := decide (256 ≤ (s.wcbOf slice).length)

/-- The slice cannot admit this request now (R23, R88, R107, R108, R263): the Warden's fence holds the heads, the transaction table, the buffer or the bench is full, or an
exchange that has snooped the head, or a transaction of the same head, is open on the HDM-DB line, whose snoop data alone is taken; and the internal DMA source has had an admission in the
last 20 ticks (R24). -/
def State.refusesAdmit (s : State) (q : Req) : Bool :=
  let slice := sliceOfLine q.line
  let own := match q.src with
    | .head h => s.isFence || (s.isDb q.page && !s.snoopData q h && (s.snooping h q.line
        || (s.path.txns ++ s.dir.bench).any (fun t => t.req.line == q.line && t.req.src == q.src)))
    | .graft _ => false
    | .dma => !s.spaced slice 20
  own || s.tableFull slice || s.wcbFull slice || (s.needsBench q && !s.benchRoom slice)

/-- The sources of a slice that hold requests in ingress queues (R23): the 16 heads, the two Graft ports, and the internal DMA source, which is source 18. Source 19, the Docent access
port, holds its accesses apart (State.docentWaits). -/
def srcOf (n : Nat) : Option Src :=
  if n < 16 then some (.head n) else if n < 18 then some (.graft (n - 16)) else if n = 18 then some .dma else none

/-- The first request of a source for a slice. Snoop data is taken when it arrives (R106), ahead of requests of its head that wait for the exchange. (DEDUCED, unsafe, log entry 83) -/
def State.firstOf (s : State) (slice n : Nat) : Option Req :=
  let own (q : Req) : Bool := srcOf n == some q.src && sliceOfLine q.line == slice
  match (if n < 16 then s.path.ingress.find? (fun q => own q && s.snoopData q n) else none) with
  | some q => some q
  | none => s.path.ingress.find? own

/-- The sources from the one after the last served, in round-robin order (R23). -/
def State.sources (s : State) (slice : Nat) : List Nat := (List.range 20).map (fun k => (Tbl.lookD s.path.rr 0 slice + k) % 20)

/-- The request of a source that can be admitted. -/
def State.offers (s : State) (slice n : Nat) : Option (Nat × Req) :=
  match s.firstOf slice n with
  | some q => if s.refusesAdmit q then none else some (n, q)
  | none => none

/-- Requests for the page wait: an overflow stores it again, its retirement operation runs, or its turn in a sanitise has come (R189, R198, R350). -/
def State.pageLocked (s : State) (p : Nat) : Bool :=
  s.sec.locks.any (fun l => l.page == p) || s.sec.retire.any (fun r => r.page == p) || s.mgmt.clears.any (fun x => x.cur == some p)

/-- The pages of a range that are not plainly UNWRITTEN, in ascending order. While a channel is lost, pages that are not listed may be unreadable (R260). -/
def State.pagesIn (s : State) (first last : Nat) : List Nat :=
  if s.boot.chans.any (fun c => s.flag (Reg.DMC_FAULT_LOST c)) then
    ((List.range (last + 1 - first)).map (first + ·)).filter (fun p => (s.acc p).form != .unwritten false)
  else (s.place.acc.filter (fun (e : Nat × Acc) => decide (first ≤ e.1 ∧ e.1 ≤ last) && (match e.2.form with | .unwritten false => false | _ => true))).map Prod.fst

/-- A request has a transaction on a page, or the page is moved or locked. -/
def State.pageBusy (s : State) (p : Nat) : Bool :=
  (s.path.txns ++ s.dir.bench).any (fun t => t.req.page == p) || (s.acc p).isMigrating || s.pageLocked p

/-- The page that a sanitise comes to next: the first of what is left that is not plainly UNWRITTEN (R350). -/
def State.clearNext (s : State) (x : Sanit) : Option Nat := x.left.findSome? (fun (r : Nat × Nat) => (s.pagesIn r.1 r.2).head?)

/-- The Docent access port of a slice holds an access that the slice can admit (R23): a probe of a directory entry, or the turn of a page in a sanitise. -/
def State.docentWaits (s : State) (slice : Nat) : Bool :=
  s.dir.probe.any (fun l => sliceOfLine l == slice)
    || s.mgmt.clears.any (fun x => x.cur.isNone && (s.clearNext x).any (fun p => homeSlice p == slice && !s.pageBusy p))

/-- The slice has admitted nothing in this tick (R23). -/
def State.admitFree (s : State) (slice : Nat) : Bool := Tbl.lookD s.path.lastDma 0 (64 + slice) != s.tick + 1

/-- A source has something that the slice can admit. -/
def State.hasTurn (s : State) (slice n : Nat) : Bool := if n = 19 then s.docentWaits slice else (s.offers slice n).isSome

/-- The request the arbiter admits: round-robin, passing over a source that has nothing or whose request cannot be admitted; at most one in a tick. At the turn of the Docent access
port the tick is left to its access, which is admitted by the command that makes it. -/
def State.arbitrate (s : State) (slice : Nat) : Option (Nat × Req) :=
  if s.admitFree slice then ((s.sources slice).find? (s.hasTurn slice)).bind (s.offers slice) else none

/-- The arbiter reaches source n: no source before it in the round has a request that can be admitted. -/
def State.turn (s : State) (slice n : Nat) : Bool :=
  s.admitFree slice && ((s.sources slice).takeWhile (· != n)).all (fun m => !s.hasTurn slice m)

/-- Source n of a slice has been served in this tick: an admission, of an internal source from 18 up (Table 16.4). -/
def State.noteAdmit (s : State) (slice n : Nat) : State :=
  let s := if 18 ≤ n then (s.stn slice 0).stn slice 3 else s.stn slice 0
  { s with path := { s.path with rr := Tbl.putD s.path.rr 0 slice ((n + 1) % 20), lastDma := Tbl.put s.path.lastDma (64 + slice) (s.tick + 1) } }

/-! ### The internal DMA source -/

/-- Notes an admission under a key. -/
def State.noteDma (s : State) (key : Nat) : State :=
  { s with path := { s.path with lastDma := Tbl.put s.path.lastDma key (s.tick + 1) } }

/-- The slice admits one access of the internal DMA source, which is source 18: in its turn of the round (R23), and successive ones at least 20 ticks apart (R24). -/
def State.dmaAdmit (s : State) (slice : Nat) : Option State :=
  if s.path.restart.contains slice || s.isSafe || s.tableFull slice || s.wcbFull slice || !s.turn slice 18 then none
  else if s.spaced slice 20 then some ((s.noteDma slice).noteAdmit slice 18) else none

/-! ### Accepting a write -/

/-- An earlier transaction of the line must go first: a write that is not accepted, or, before a write, a read whose data is not yet
bound to its source, be it on the bench or in an exchange (Table 3.4, R79). Every benched request was admitted before what stands on its line in the table. -/
def State.lineBlocked (s : State) (t : Txn) : Bool :=
  (s.path.txns.takeWhile (fun u => u.req.id != t.req.id)).any (fun u => u.req.line == t.req.line &&
    (u.req.op == .wr || (t.req.op == .wr && (u.phase == .queued || u.phase == .exch || u.phase == .acc || u.phase == .ctr || u.phase == .decode || u.phase == .lock
      || u.phase == .spill || u.phase == .needThaw || u.phase == .move))))
  || (t.req.op == .wr && s.dir.bench.any (fun u => u.req.line == t.req.line && u.req.id != t.req.id))

/-- Snoop data is bound to its exchange when it is accepted (R104, R106). -/
def State.snoopBound (s : State) (t : Txn) (h : Nat) : State :=
  match s.exchFor h t.req.line with
  | none => s
  | some x => s.setExch { x with
      waits := x.waits.map (fun w => if w.head = h then { w with gotData := true } else w),
      data := if t.req.full && !x.poisoned then some { data := t.req.data, poison := t.req.poison } else x.data }

/-- A write is accepted: it is globally visible from now on, and its completion leaves (R71). -/
def State.accepted (s : State) (t : Txn) : State :=
  let s := match t.snoop, t.req.src with
    | true, .head h => s.snoopBound t h
    | _, _ => s
  s.finish t {}

/-- Snoop data of the forwarder in F is clean and is not written (R104). -/
def State.cleanSnoop (s : State) (t : Txn) : Bool :=
  t.snoop && (s.entry? t.req.line).any (fun e => e.2.st == .f && t.req.head? == some e.2.named)

/-- The data of a release is written only while another LD maps the line, and is otherwise discarded (R57). -/
def State.releasedSnoop (s : State) (t : Txn) : Bool :=
  t.snoop && s.dir.exchs.any (fun x => x.line == t.req.line && (match x.why with | .release _ _ keep => !keep | .sanitise => true | _ => false))

/-- The lines of a first write's frame: zeros, or poison when PZ is set, and the written line (R131). -/
def firstLines (pz : Bool) (i : Nat) (data : BitVec 512) (be : BitVec 64) (poison : Bool) : List Line :=
  let base : Line := { data := 0, poison := pz }
  (List.range 64).map (fun k => if k = i then base.merge data be poison else base)

/-- The first write to an UNWRITTEN page (R131), under the page's next MAJOR (Table 7.6); at MAJOR's maximum it completes with error and the
region becomes READONLY (R190); with no frame to give, the write completes, is not stored, and sets PZ (R154). It waits while the write queues have no room for the frame (R210). -/
def State.firstWrite (s : State) (t : Txn) (pz : Bool) : State :=
  let p := t.req.page
  let i := t.req.lineIx
  let xs := firstLines pz i t.req.data t.req.be t.req.poison
  let place (g? : Option Guard) (b : BitVec 512) (s : State) : State :=
    match s.allocFrame p false with
    | none => ((s.setForm p (.unwritten true)).pressure).accepted t
    | some (c, fr, s') => if s'.storeRoom c (fr * 64) 64 then ((s'.storeFrame p c fr g? b xs).setForm p (.hot c fr none)).accepted t else s
  match s.guard p with
  | none => place none 0 s
  | some g => match s.ctrOf g with
    | none => s.waitCtr t
    | some b =>
      if blkMajor b = 2 ^ 64 - 1 then (s.makeReadonly g.region).finish t { error := true }
      else place (some g) (majorOnly (blkMajor b + 1)) s

/-- A write whose preconditions are met enters the buffer (R72), or takes the phase that its page's state now asks for. -/
def State.acceptWrite (s : State) (t : Txn) : State :=
  let p := t.req.page
  if s.cleanSnoop t || s.releasedSnoop t then s.accepted t
  else if s.refusesWrite p t.req.lineIx then (s.refusalEvent p).finish t { error := true }
  else match (s.acc p).form with
    | .unwritten pz => s.firstWrite t pz
    | _ =>
      if s.takesWrite p then
        if s.wcbRoom t.req.line then
          let by' : List Writer := match t.req.src with | .head h => [{ head := h, ld := t.req.ld, id := t.req.id, cls := t.req.cls, tier := t.req.tier }] | _ => []
          ((s.wcbPut t.req.line t.req.data t.req.be t.req.poison by').noteWrite t.req.line).accepted t
        else s
      else (s.noteWrite t.req.line).setTxn { t with phase := s.writePhase p, moved := true }

/-! ### Dispatch -/

/-- A request of no coherence class of the directory: HDM-H lines, lent capacity and internal writes (R108). -/
def State.dispatchPlain (s : State) (t : Txn) : State :=
  if s.lineBlocked t then s.setTxn { t with phase := .queued }
  else match t.req.op with
    | .rd => s.serveRead t
    | .rdData => s.serveRead t
    | .wr => s.serveWrite t
    | _ => s.finish t { mv := t.req.mv }

/-- The snoop data of a page whose turn in a sanitise has come: it is taken, and discarded (R350). -/
def State.clearSnoop (s : State) (t : Txn) : Bool :=
  s.mgmt.clears.any (fun x => x.cur == some t.req.page) && (match t.req.src with | .head h => t.snoop || s.snoopData t.req h | _ => false)

/-- The home slice applies a request's accession, directory and dispatch actions (R22, R102, Table 1.3). A MemWr of a snooped head is the
snoop's data (R106). -/
def State.dispatch (s : State) (t : Txn) : State :=
  let p := t.req.page
  let t := { t with pstate := formCode (s.acc p).form }
  if s.pageLocked p && !s.clearSnoop t then (s.noteWait t.req).setTxn { t with phase := .lock, moved := true }
  else match t.req.src with
    | .head h =>
      if s.isDb p then
        if t.snoop || s.snoopData t.req h then
          let t := { t with snoop := true, kind := 5, phase := .accept }
          (s.setTxn t).acceptWrite t
        else s.dispatchDb t h
      else s.dispatchPlain t
    | _ => s.dispatchPlain t

/-! ### Admission -/

/-- An access that no decoder or extent covers (R53): a read completes with poison, a write is discarded and completes, and the event names
the LD and the address. -/
def State.unbacked (s : State) (t : Txn) (h arg : Nat) : State :=
  ((s.cnt 0x0109 (.req h t.req.cls)).raise 0x0102 t.req.ld arg).finish t { data := some 0, poison := true, unbacked := true } false

/-- An LD takes a new memory request: it is ACTIVE, or DRAINING for ClnEvct and snoop data (R65, R66, R117). (DEDUCED, unsafe, log entry 26) -/
def State.ldTakes (s : State) (q : Req) (h : Nat) : Bool :=
  match s.ld? q.ld with
  | none => false
  | some d => !d.disabled && (d.st == .active
      || (d.st == .draining && (q.op == .evict || (q.op == .wr && (s.exchFor h q.line).isSome))))
    || (d.disabled && d.st == .draining && (q.op == .evict || (q.op == .wr && (s.exchFor h q.line).isSome)))

/-- The accession entry of a request's page is not cached: its line is read from DRAM, with the request's tier and deadline, and the request waits for it (R22, R211). -/
def State.accMissed (s : State) (t : Txn) : State :=
  let s := s.metaRead .acc (t.req.page / 8) t.req.readFor
  if s.metaPending .acc (t.req.page / 8) then s.setTxn { t with phase := .acc } else s.dispatch t

/-- A request is admitted: it becomes a transaction and is dispatched, or is unbacked at the slice (R56, R57) or ends with error when its LD takes
no request any longer (R65). Whether its accession entry is cached is a free value. The snoop data of a head that releases an extent comes after the slice has dropped the extent, and is taken (R57). -/
def State.takeIn (s : State) (slice n : Nat) (q : Req) : State :=
  let s := State.noteAdmit { s with path := { s.path with ingress := s.path.ingress.filter (fun r => r.id != q.id) } } slice n
  let miss := s.freeNow.getLsbD 0 && !(match q.src with | .head h => s.snoopData q h | _ => false)
  let t : Txn := { req := q, slice := slice, kind := kindOf q (s.isDb q.page), accMiss := miss, pstate := formCode (s.acc q.page).form }
  let s := s.advanceFree
  let s := { s with path := { s.path with txns := s.path.txns ++ [t] } }
  match q.src with
  | .head h =>
    let s := if q.isRead then s.stn slice 1 else if q.op = .wr then s.stn slice 2 else s
    let forced := (s.ld? q.ld).any (fun d => d.inForce (unitOfPage q.page) slice)
    if !s.ldTakes q h then s.finish t { error := true } false
    else if !forced && !s.snoopData q h then s.unbacked t h q.ldDpa
    else
      let s := match s.srcForm q.page with | .spilled .. => s.cnt 0x0303 (.req h q.cls) | _ => s
      if miss then ((s.cnt 0x0108 (.req h q.cls)).stn slice 4).accMissed t else s.dispatch t
  | .graft _ => if miss then s.accMissed t else s.dispatch t
  | .dma =>
    let s := s.noteDma slice
    if miss then s.accMissed t else s.dispatch t

/-- Extents added or released take effect at a slice (R56, R57). -/
def applyExtents (slice : Nat) (e : Extent) : Extent :=
  if e.releasing then { e with slices := e.slices &&& ~~~(1#32 <<< slice) }
  else if e.port then { e with slices := e.slices ||| (1#32 <<< slice) } else e

/-- What a waiting transaction waits for has ended, so it can be dispatched again. -/
def State.ready (s : State) (t : Txn) : Bool :=
  match t.phase with
  | .queued =>
      if s.isDb t.req.page && t.req.head?.isSome then
        !s.lineTaken t && (t.granted || !s.dir.exchs.any (fun x => x.line == t.req.line))
          && !(s.needsWay t.req && s.wayFor t.req.line == .none && !s.benchRoom t.slice)
      else !s.lineBlocked t
  | .acc => !s.metaPending .acc (t.req.page / 8)
  | .lock => !s.pageLocked t.req.page
  | .move => s.takesWrite t.req.page || (match (s.acc t.req.page).form with | .migrating _ => false | _ => true)
  | .needThaw => (match (s.acc t.req.page).form with | .cold .. => false | .migrating _ => false | .spilled _ _ n => n == 0 | _ => true)
  | .decode => (match s.srcForm t.req.page with
      | .cold c sh n => !s.decodeRuns t.req.page (.cold c sh n) && (s.pickEngine t.slice).isSome
      | .spilled l u n => n == 0 || (!s.decodeRuns t.req.page (.spilled l u n) && (s.pickEngine t.slice).isSome)
      | _ => true)
  | .spill => (match s.srcForm t.req.page with
      | .spilled l u _ => (match s.leasePort l u with | some g => s.portRoom g | none => false)
      | _ => true)
  | _ => false

/-- The oldest waiting transaction of a slice that is ready goes on. -/
def State.wakeOne (s : State) (slice : Nat) : State :=
  match s.path.txns.find? (fun t => t.slice == slice && s.ready t) with
  | some t => s.dispatch { t with phase := .queued }
  | none => s

/-- The slice discards what the port of a failed pair still stages at it (R264). -/
def State.closePort (s : State) (slice : Nat) : State :=
  if s.warden.fence = [] then s
  else { s with place := { s.place with staged := s.place.staged.filter (fun (x : Staged) => !(x.slice == slice && s.warden.fence.contains x.pair)) } }

/-- The oldest benched request of a set takes a way that is no longer pinned (R113). It was admitted before every transaction on its line. -/
def State.benchServe (s : State) (slice set : Nat) : State :=
  match s.dir.bench.find? (fun t => t.slice == slice && dirSet t.req.line == set) with
  | none => s
  | some t => match t.req.src with
    | .head h =>
      if s.wayFor t.req.line == .none || s.dir.exchs.any (fun x => x.line == t.req.line) || s.isSafe then s
      else
        let s := { s with dir := { s.dir with bench := s.dir.bench.filter (fun u => u.req.id != t.req.id) } }
        let s := { s with path := { s.path with txns := t :: s.path.txns } }
        s.dispatchDb t h
    | _ => s

/-- The benched requests of a slice whose sets have a way again take it, ahead of the arbiter and of any queued transaction (R113). -/
def State.benchFirst (s : State) (slice : Nat) : State :=
  (((s.dir.bench.filter (fun t => t.slice == slice)).map (fun t => dirSet t.req.line)).eraseDups).foldl (fun s set => s.benchServe slice set) s

/-- One tick of a slice's arbiter (R23): closed ports empty, extents take effect, benched requests take the ways that have come free, the oldest waiting transaction that is
ready goes on, and at most one new request is admitted. -/
def State.sliceTick (s : State) (slice : Nat) : State :=
  if s.path.restart.contains slice || s.isSafe then s
  else
    let s := { s with lds := s.lds.map (fun (e : Nat × Ld) => (e.1, { e.2 with exts := e.2.exts.map (applyExtents slice) })) }
    let s := ((s.closePort slice).benchFirst slice).wakeOne slice
    match s.arbitrate slice with
    | some (n, q) => s.takeIn slice n q
    | none => s

/-! ### The commands -/

/-- SLICE_ARBITRATION (R23). -/
def execSliceArbitration (sl : SliceIx) (s : State) : Host.Outcome State Fault Refusal := .next (s.sliceTick sl)

/-- BENCH_WAKE (R113). -/
def execBenchWake (sl : SliceIx) (set : Fin 16384) (s : State) : Host.Outcome State Fault Refusal := .next (s.benchServe sl set)

/-- A waiting write of a slice is accepted once its preconditions have ended (R72, R79). -/
def State.writeAccept (s : State) (slice id : Nat) : State :=
  match s.path.txns.find? (fun t => t.req.id == id && t.slice == slice && t.phase == .accept) with
  | none => s
  | some t =>
    if s.isSafe || s.pageLocked t.req.page || (!t.snoop && s.lineBlocked t) then s else s.acceptWrite t

/-- WRITE_ACCEPT (R71, R72). -/
def execWriteAccept (sl : SliceIx) (txn : Nat) (s : State) : Host.Outcome State Fault Refusal := .next (s.writeAccept sl txn)

/-- The fences of a head that are pending: at most 64, the oldest (R83). -/
def State.fencesOf (s : State) (h : Nat) : List Fence := (s.path.fences.filter (fun (f : Fence) => f.head == h)).take 64

/-- Shows the number of pending fences. -/
def State.showFences (s : State) (h : Nat) : State := s.wr (Reg.TRL_HEAD_FENCE_FENCES_PENDING h) (s.fencesOf h).length

/-- The oldest pending fence of a head whose earlier writes are all visible or discarded completes (R81, R93). -/
def State.fenceDone (s : State) (h : Nat) : State :=
  if s.isSafe then s
  else match (s.fencesOf h).find? (fun f => f.waits == []) with
    | none => s
    | some f =>
      let s := { s with path := { s.path with fences := s.path.fences.erase f } }
      let s := (s.inc (Reg.TRL_HEAD_FENCE_FENCES_DONE h) 1).showFences h
      let s := if f.fault then s.setFlag (Reg.TRL_HEAD_FENCE_FENCE_FAULT h) true else s
      let s := ((s.cnt 0x010B (.head h)).cnt 0x0102 (.req h none)).ldCnt f.ld 1
      if s.canSend h then (s.wakeLink h).emit (.cmp h f.tag .noOp) else s

/-- FENCE_COMPLETE (R81). -/
def execFenceComplete (h : Head) (s : State) : Host.Outcome State Fault Refusal := .next (s.fenceDone h)

end Sys2Proof.Machine
end

