-- ==== Sys2Proof/Machine/Channel.lean ====
section
/-! DEFINITION. What a DRAM channel does with the data it reads: the line code's outcome, correctable and uncorrectable errors, retry and
verify (R246 to R252), line remapping (R253, R254), merges (R215, R76), and where the data goes. -/
namespace Sys2Proof.Machine

/-! ### Range passes -/

/-- The pass with a number. -/
def State.pass? (s : State) (n : Nat) : Option RangePass := s.mgmt.passes.find? (fun (x : RangePass) => x.id == n)

/-- Changes a pass. -/
def State.updPass (s : State) (n : Nat) (f : RangePass → RangePass) : State :=
  { s with mgmt := { s.mgmt with passes := s.mgmt.passes.map (fun (y : RangePass) => if y.id = n then f y else y) } }

/-- A read for a pass needed correction (1), or is uncorrectable after its retry (2): it is counted in the summary, and a line of the page visited is marked (R257). -/
def State.passMark (s : State) (r : DramRd) (k : Nat) : State :=
  let add (x : RangePass) : RangePass := if k = 1 then { x with ce := x.ce + 1 } else { x with ue := x.ue + 1 }
  match r.why with
  | .rake n p i => s.updPass n (fun x => { add x with cur := x.cur.map (fun (c : RakePage) => if c.page = p then { c with marks := Tbl.put c.marks i k } else c) })
  | .mline _ _ (some n) => if k = 1 then s.updPass n add else s
  | _ => s

/-- A line of the page that a pass visits comes back. -/
def State.rakeBack (s : State) (n p i : Nat) (x : Line) : State :=
  s.updPass n (fun y => { y with cur := y.cur.map (fun (c : RakePage) => if c.page = p then { c with got := Tbl.put c.got i x } else c) })

/-! ### Correctable errors -/

/-- SOURCE of a CE log entry. -/
def State.ceSource (s : State) (r : DramRd) : Nat :=
  match r.why with
  | .txn .. => 0
  | .merge => 1
  | .fill .. => 1
  | .mline _ _ none => 2
  | .mline _ _ (some n) => if n = 0 then 4 else 3
  | .rake n _ _ => if n = 0 then 4 else 3
  | .scrub => 4
  | .page .. => 7
  | .engine e _ => match Tbl.look s.press.engines e with
    | some (.read ..) => 0
    | some (.move ..) => 6
    | _ => 7
  | .verify .. => 7

/-- Adds to the bank counter of a corrected line (DMC_CE_BANK_j). -/
def State.ceBank (s : State) (c : Nat) (x : Coord) : State :=
  let j := 16 * x.lr + x.bank / 2
  if x.bank % 2 = 0 then s.sat (Reg.DMC_CE_BANK_EVEN c j) 1 else s.sat (Reg.DMC_CE_BANK_ODD c j) 1

/-- A CE log entry is written, unless the log is frozen or the error is that of the entry written last (R252). The result is the index. -/
def State.ceLog (s : State) (c line : Nat) (x : Coord) (device bits source : Nat) : State × Option Nat :=
  if (s.ch c).lastCe = some (line, device) then (s, none)
  else if s.flag (Reg.DMC_CE_LOG_CTL_FREEZE c) then (s.sat (Reg.DMC_CE_LOG_CTL_MISSED c) 1, none)
  else
    let e := s.rd (Reg.DMC_CE_LOG_CTL_NEXT c)
    let s := if (s.ch c).unread.contains e then s.setFlag (Reg.DMC_CE_LOG_CTL_OVF c) true else s
    let s := s.wr (Reg.DMC_CE_LOG_LINE c e) line
    let s := (s.wr (Reg.DMC_CE_LOG_DEVICE c e) device).wr (Reg.DMC_CE_LOG_SUBCH c e) x.sub
    let s := ((s.wr (Reg.DMC_CE_LOG_LR c e) x.lr).wr (Reg.DMC_CE_LOG_BG c e) x.bg).wr (Reg.DMC_CE_LOG_BA c e) x.ba
    let s := (s.wr (Reg.DMC_CE_LOG_SOURCE c e) source).setFlag (Reg.DMC_CE_LOG_HARD c e) false
    let s := (s.setFlag (Reg.DMC_CE_LOG_REMAPPED c e) false).wr (Reg.DMC_CE_LOG_CORR_BITS c e) bits
    let s := (s.wr (Reg.DMC_CE_LOG_TIME c e) (s.tick % 2 ^ 48)).wr (Reg.DMC_CE_LOG_CTL_NEXT c) ((e + 1) % 32)
    (s.updCh c (fun d => { d with lastCe := some (line, device), unread := addOnce d.unread e }), some e)

/-- Counts a correctable error (R251). -/
def State.ceCount (s : State) (c : Nat) (x : Coord) : State :=
  (((s.sat (Reg.DMC_CE_TOTAL_CE c) 1).ceBank c x).cnt ((0x10 + c) * 256 + 7) .dev).stn (32 + c) 5

/-- A read of a metadata line, whose contents the model holds as entries, blocks and tags. -/
def isMeta : RdWhy → Bool
  | .mline .. => true
  | _ => false

/-- A line as it must be stored is written back through the write queue, unless the queue holds the line already (R249, R251). A metadata line is written with its contents, which the model holds
apart; an uncorrectable one is lost, and not written. (DEDUCED, unsafe, log entry 90) -/
def State.writeBack (s : State) (c : Nat) (r : DramRd) (x : Line) : State :=
  if (s.wqEntry c r.line).isSome then s
  else match r.why with
    | .mline k n _ => if x.poison then s else s.metaDue k n
    | _ => s.enqueueWrite c r.line x.data (BitVec.allOnes 64) x.poison

/-- A read that needed correction (R251): counted, logged, written back unless the write queue holds the line, and read again in tier 3. -/
def State.corrected (s : State) (c : Nat) (r : DramRd) (res : ReadRes) (device source : Nat) : State :=
  let x := s.coordOf c (s.physLine c r.line)
  let (s, ix) := (s.ceCount c x).ceLog c r.line x device res.bits source
  let s := (s.writeBack c r res.line).passMark r 1
  s.sendRead c r.line (.verify device ix) 3 none none

/-! ### Remapping -/

/-- A spare is in use by a remap entry. -/
def State.spareUsed (s : State) (c n : Nat) : Bool :=
  (List.range 64).any (fun e => s.flag (Reg.DMC_REMAP_VALID c e) && s.rd (Reg.DMC_REMAP_SPARE c e) == n)

/-- The lowest spare that is free, in no use by another remap, not marked bad, and not in the failing line's bank (R253, step 1). -/
def State.pickSpare (s : State) (c line : Nat) : Option Nat :=
  let x := s.coordOf c (s.physLine c line)
  firstBelow 1024 (fun n =>
    let y := s.coordOf c (s.spareLine c n)
    !(s.ch c).badSpares.contains n && !(s.ch c).remap.any (fun j => j.spare == n) && !(y.lr == x.lr && y.sub == x.sub && y.bg == x.bg && y.ba == x.ba) && !s.spareUsed c n)

/-- A hard fault that is not remapped (R254). -/
def State.remapFull (s : State) (c line : Nat) : State := (s.setFlag (Reg.DMC_REMAP_CTL_FULL c) true).raiseCh c 6 line

/-- A spare is marked bad. -/
def State.markBad (s : State) (c n : Nat) : State :=
  let s := s.updCh c (fun d => { d with badSpares := addOnce d.badSpares n })
  s.wr (Reg.DMC_REMAP_CTL_BAD_SPARES c) (s.ch c).badSpares.length

/-- A hard fault starts a remap (R253): a spare is chosen, or the line stays where it is. -/
def State.startRemap (s : State) (c line device : Nat) (data : Line) (logIx : Option Nat) : State :=
  let entry := s.remapOf c line
  if (s.ch c).remap.any (fun j => j.line == line) then s
  else if entry.isNone && s.rd (Reg.DMC_REMAP_CTL_USED c) == 64 then s.remapFull c line
  else match s.pickSpare c line with
    | none => s.remapFull c line
    | some n => s.updCh c (fun d => { d with remap := d.remap ++
        [{ line := line, device := device, data := data, spare := n, entry := entry, logIx := logIx }] })

/-- The remap entry is written: from now on every command to the line goes to the spare, which holds the corrected data, or poison when the data was lost (R253, steps 2 and 4). -/
def State.takeSpare (s : State) (c : Nat) (j : RemapJob) : State :=
  match (match j.entry with | some e => some e | none => firstBelow 64 (fun e => !s.flag (Reg.DMC_REMAP_VALID c e))) with
  | none => s.remapFull c j.line
  | some e =>
    let s := match j.entry with
      | some e => s.markBad c (s.rd (Reg.DMC_REMAP_SPARE c e))
      | none => s.wr (Reg.DMC_REMAP_CTL_USED c) (s.rd (Reg.DMC_REMAP_CTL_USED c) + 1)
    let s := (s.setFlag (Reg.DMC_REMAP_VALID c e) true).wr (Reg.DMC_REMAP_LINE c e) j.line
    let s := (s.wr (Reg.DMC_REMAP_SPARE c e) j.spare).wr (Reg.DMC_REMAP_DEVICE c e) j.device
    let s := if (s.wqEntry c j.line).isSome then s else s.enqueueWrite c j.line j.data.data (BitVec.allOnes 64) j.data.poison
    let s := match j.logIx with
      | some i => if s.rd (Reg.DMC_CE_LOG_LINE c i) = j.line then s.setFlag (Reg.DMC_CE_LOG_REMAPPED c i) true else s
      | none => s
    let s : State := { s with mgmt := { s.mgmt with passes := s.mgmt.passes.map (fun (x : RangePass) => { x with remaps := x.remaps + 1 }) } }
    s.stn (32 + c) 10

/-- The spare of the oldest remap is read back (R253, step 3). -/
def State.spareCheck (s : State) (c : Nat) (err : BitVec 640) : State :=
  match (s.ch c).remap with
  | [] => s
  | j :: rest =>
    let res := readLine j.data err
    if !res.bad && res.device.isNone then
      if s.wqRoom c j.line then (s.updCh c (fun d => { d with remap := rest })).takeSpare c j else s
    else
      let s := s.markBad c j.spare
      if 4 ≤ j.tries then (s.updCh c (fun d => { d with remap := rest })).remapFull c j.line
      else match s.pickSpare c j.line with
        | none => (s.updCh c (fun d => { d with remap := rest })).remapFull c j.line
        | some n => s.updCh c (fun d => { d with remap := { j with spare := n, tries := j.tries + 1 } :: rest })

/-- REMAP_SPARE_CHECK (R253). -/
def execRemapSpareCheck (c : Chan) (err : BitVec 640) (s : State) : Host.Outcome State Fault Refusal := .next (s.spareCheck c err)

/-! ### Where read data goes -/

/-- Lines read for an engine; there are 64 engines. -/
def State.sherdBack (s : State) (e k : Nat) (x : Line) : State :=
  if 64 ≤ e then s else
  { s with press := { s.press with sherds := Tbl.put s.press.sherds e (Tbl.put (Tbl.lookD s.press.sherds [] e) k x) } }

/-- The merge read of a partial entry is back: the entry is full, and poisoned when the read was bad (R76, R215). The data of another read of the line, whose entry has been written
since, is not taken. -/
def State.mergeBack (s : State) (c line n : Nat) (x : Line) : State :=
  s.updCh c (fun d => { d with wq := d.wq.map (fun w =>
    if w.line = line ∧ w.mergeId = some n then
      match w.part with
      | some be =>
        let y := x.merge w.data be w.poison
        { w with data := y.data, poison := y.poison, part := none }
      | none => w
    else w) })

/-- The page whose image or lines an engine reads. -/
def State.enginePage (s : State) (e : Nat) : Option Nat :=
  match Tbl.look s.press.engines e with
  | some (.read p _ _ _) => some p
  | some (.move slice slot) => (Tbl.look s.place.slots (slotKey slice slot)).map (·.page)
  | some (.rake n) => (s.pass? n).bind (fun (x : RangePass) => x.cur.map (·.page))
  | _ => none

/-- The reads that wait for the decode of an engine are discarded, when what the engine reads does not come (R90, R333). -/
def State.discardDecode (s : State) (e code : Nat) : State :=
  match s.enginePage e with
  | none => s
  | some p => (s.path.txns.filter (fun (t : Txn) => t.phase == .decode && t.req.page == p)).foldl (fun (s : State) (t : Txn) => s.discard t code false) s

/-- The line a slice reads to merge a secure partial line (Table 3.3): checked and decrypted under the seal it was read with, and laid under the bytes of the buffer. The data of an earlier
fill, whose line has drained since, is not taken. -/
def State.fillBack (s : State) (line n : Nat) (x : Line) : State :=
  match s.wcb? line with
  | none => s
  | some w => match w.fill with
    | none => s
    | some (m, sl) =>
      if m ≠ n then s
      else
        let p := pageOf line
        let open' : Option Line := match sl with
          | none => some x
          | some k => openSealed k p (line % 64) x
        let s := if open'.isNone then s.tagFail line (s.clsOf p) false else s
        let y := if s.lineLost p (line % 64) then { x with poison := true } else open'.getD { x with poison := true }
        let z := y.merge w.data w.be w.poison
        { s with path := { s.path with wcb := s.path.wcb.map (fun (v : WcbLine) =>
          if v.line = line then { v with data := z.data, poison := z.poison, be := BitVec.allOnes 64, fill := none } else v) } }

/-- The lines of a spilling page have been read: they go to the lending peer as they are stored (R148, R331). -/
def State.spillSend (s : State) (p : Nat) : State :=
  match s.slotOf p with
  | none => s
  | some (k, m) => match m.kind, m.dst with
    | .spill, some (.spilled l u _) =>
      if m.begun then s
      else match s.pageRead p (formSize m.src.form) with
        | none => s
        | some xs => (s.putPeer l u xs).updSlot k (fun m => { m with begun := true })
    | _, _ => s

/-- A line of a page that is read whole for an internal source comes back (R146, R189, R198, R331). -/
def State.pageBack (s : State) (p k : Nat) (x : Line) : State :=
  State.spillSend { s with sec := { s.sec with gather := Tbl.put s.sec.gather p (Tbl.put (Tbl.lookD s.sec.gather [] p) k x) } } p

/-! ### Metadata that comes back -/

/-- The entry of a page is newer than its line in DRAM: its page moves, or it has been changed and not written back yet, which the spec leaves to the cache and is a free value.
(DEDUCED, unsafe, log entry 36) -/
def State.entryNewer (s : State) (p : Nat) : Bool := (s.acc p).isMigrating || (s.place.accDirty.contains p && s.freeNow.getLsbD 1)

/-- The eight entries of an accession line that has been read (R127): each is the word that was read; one that is uncorrectable or of a reserved STATE makes its page unreadable, with the event
(R128). -/
def State.accBack (s : State) (n : Nat) (x : Line) : State :=
  ((List.range 8).foldl (fun (s : State) j =>
    let p := 8 * n + j
    let w : BitVec 64 := BitVec.ofNat 64 (bitsOf x.data (64 * j) 64)
    if s.entryNewer p || decide (s.boot.h * 65536 ≤ p) || (!x.poison && w == s.accWord p) then s
    else if x.poison || (accOf w).form == .unreadable then (s.setForm p .unreadable).raise 0x0301 p
    else s.setAcc p (accOf w)) s).advanceFree

/-- A block or node that has been read uncorrectable leaves the cache. -/
def State.dropCached (s : State) (space : Bool) (level node : Nat) : State :=
  { s with sec := { s.sec with cache := Tbl.del s.sec.cache (ctrKey space level node) } }

/-- A tree node, or its tree tag, read uncorrectable (Table 7.9, R201): at levels 2 and 3 the other copy is read in its place; with both copies bad, and at the other levels, what lies beneath is
lost. -/
def State.nodeBad (s : State) (level node : Nat) (copyB tag : Bool) (pass : Option Nat) : State :=
  if (level == 2 || level == 3) && !copyB then
    let a : MetaKind × Nat := (if tag then .treeTag level false else .node level false, node)
    let s : State := { s with sec := { s.sec with badCopy := if s.sec.badCopy.contains a then s.sec.badCopy else s.sec.badCopy ++ [a] } }
    s.metaRead (if tag then .treeTag level true else .node level true) node { pass := pass }
  else if s.blockLost true (node * 64 ^ level) then s
  else (s.recordLoss true (level + 1) (node * 64 ^ level * 8)).dropCached true level node

/-- Transactions whose data is back and which wait for a tag line go on. -/
def State.tagBack (s : State) (k : MetaKind) (n : Nat) : State :=
  let ts := s.path.txns.filter (fun (t : Txn) => t.phase == .tag && t.sealed?.any (fun sl => sl.g.tagItem (t.req.lineIx / 8) == (k, n)))
  ts.foldl (fun (s : State) (t : Txn) => s.lineBack { t with phase := .dram, data := none } (t.data.getD {})) s

/-- Copy B of a node or of its tree tag has read good: a bad copy A is rewritten from it (Table 7.9, R201). -/
def State.mendCopy (s : State) (a : MetaKind) (n : Nat) : State :=
  if s.sec.badCopy.contains (a, n) then ({ s with sec := { s.sec with badCopy := s.sec.badCopy.filter (· != (a, n)) } }).metaDue a n else s

/-- A metadata line has been read (R128, R201, Table 7.9): poison says that it read uncorrectable. -/
def State.metaBack (s : State) (k : MetaKind) (n : Nat) (pass : Option Nat) (x : Line) : State :=
  match k with
  | .acc => s.accBack n x
  | .foot => if x.poison then (List.range 32).foldl (fun (s : State) i => { s with place := { s.place with foot := Tbl.del s.place.foot (32 * n + i) } }) s else s
  | .ctr sp => if !x.poison || s.blockLost sp n then s else (s.recordLoss sp 1 (n * 8)).dropCached sp 0 n
  | .tag sp =>
    let u := if sp then n else 2 * n
    (if x.poison && !s.unitLost sp u then s.recordLoss sp 0 u else s).tagBack k n
  | .node l b => if x.poison then s.nodeBad l n b false pass else if b then s.mendCopy (.node l false) n else s
  | .treeTag l b => if x.poison then s.nodeBad l n b true pass else if b then s.mendCopy (.treeTag l false) n else s

/-- Read data is delivered. `source` is where it came from: 0 DRAM, 2 the write queue. -/
def State.readBack (s : State) (c : Nat) (r : DramRd) (x : Line) (source : Nat) : State :=
  match r.why with
  | .txn id _ => match s.path.txns.find? (fun t => t.req.id == id) with
    | some t => s.lineBack { t with source := source, rowMiss := t.rowMiss || r.missed } x
    | none => s
  | .engine e k => s.sherdBack e k x
  | .merge => s.mergeBack c r.line r.id x
  | .fill line n => s.fillBack line n x
  | .page p k => s.pageBack p k x
  | .mline k n pass => s.metaBack k n pass x
  | .rake n p i => s.rakeBack n p i x
  | .verify .. => s
  | .scrub => s

/-- Takes an issued read out of its channel. Data has come back, so repeats of a command are counted anew (R260). -/
def State.dropIssued (s : State) (c id : Nat) : State :=
  s.updCh c (fun d => { d with issued := d.issued.filter (fun r => r.id != id), repeats := 0 })

/-- The bits an injected error inverts in the next read of a line (INJECT_ERROR): DQ 0 at beat 0 of device 0, and of device 1 for
an uncorrectable one. An injection whose page has left HOT is dropped. (DESIGN CHOICE, unsafe, log entry 69) (DEDUCED, unsafe, log entry 73) -/
def State.injected (s : State) (c line : Nat) : State × BitVec 640 :=
  match (s.ch c).inject.find? (fun j => j.line == line) with
  | none => (s, 0)
  | some j =>
    let hot := match (s.acc j.page).form with | .hot c' fr _ => c' == c && fr == line / 64 | _ => false
    let rest := ((s.ch c).inject.filter (fun i => i != j)) ++ (if hot && 1 < j.left then [{ j with left := j.left - 1 }] else [])
    (s.updCh c (fun d => { d with inject := rest }), if hot then (if j.kind = 1 then 1 else 0x11) else 0)

/-- A line that read uncorrectable is read once more (R249): the read goes back to its queue, ahead of every other read, or on its way to it while that is full (R210); its rank wakes, and writes
of the line wait for it. -/
def State.readAgain (s : State) (c : Nat) (r : DramRd) : State :=
  let x := s.at' c r.line
  let again : DramRd := { r with retried := true }
  let room := decide ((s.rqOf c x.sub).length < 64)
  (s.wakeRank c x.lr).updCh c (fun d => { d with
    issued := d.issued.filter (fun q => q.id != r.id)
    rq := if room then again :: d.rq else d.rq
    flying := if room then d.flying else again :: d.flying
    wq := d.wq.map (fun w => if w.line = r.line then { w with after := addOnce w.after r.id } else w) })

/-- DRAM data of a read of host or internal traffic, decoded by the line code (R247, R249, R251). An uncorrectable line is read once more. A correction waits for room in the write queue.
(DEDUCED, unsafe, log entry 73) -/
def State.dramData (s : State) (c id : Nat) (err : BitVec 640) (isIt : RdWhy → Bool) : State :=
  match (s.ch c).issued.find? (fun r => r.id == id && !r.retried && isIt r.why) with
  | none => s
  | some r =>
    if !s.wqRoom c r.line then s
    else
      let (s, inj) := s.injected c r.line
      let res := readLine r.data (err ^^^ inj)
      if res.bad then s.readAgain c r
      else
        let s := s.dropIssued c id
        let s := match res.device with
          | some dev => s.corrected c r res dev (s.ceSource r)
          | none => s
        s.readBack c r res.line 0

/-- Reads that DRAM_READ_DATA returns: all but merges and verify reads. -/
def isPlainRead : RdWhy → Bool
  | .merge => false
  | .verify .. => false
  | _ => true

/-- DRAM_READ_DATA (R247). -/
def execDramReadData (c : Chan) (rd : Nat) (err : BitVec 640) (s : State) : Host.Outcome State Fault Refusal :=
  .next (s.dramData c rd err isPlainRead)

def isMerge : RdWhy → Bool
  | .merge => true
  | _ => false

/-- The merge read of a line. -/
def State.mergeDone (s : State) (c line : Nat) (err : BitVec 640) : State :=
  match (s.ch c).issued.find? (fun r => r.line == line && !r.retried && isMerge r.why) with
  | none => s
  | some r => s.dramData c r.id err isMerge

/-- MERGE_READ_DONE (R215, R76). -/
def execMergeReadDone (c : Chan) (mline : Nat) (err : BitVec 640) (s : State) : Host.Outcome State Fault Refusal :=
  .next (s.mergeDone c mline err)

/-- A line that read uncorrectable twice (R249): poison is returned and stored, counted and raised, and the line is a hard fault. The spec
names no device for it, so DEVICE is a free value. -/
def State.ueFinal (s : State) (c : Nat) (r : DramRd) : State :=
  let x : Line := { r.data with poison := true }
  let s := (s.writeBack c r x).passMark r 2
  let s := (s.sat (Reg.DMC_UE_TOTAL_UE c) 1).wr (Reg.DMC_UE_LAST_LINE c) r.line
  let s := (s.stn (32 + c) 6).updCh c (fun d => { d with ueTicks := (d.ueTicks.filter (fun t => s.tick < t + s.ms)) ++ [s.tick] })
  let s := s.raiseCh c 5 (match r.dpaLine with | some l => l + 2 ^ 63 | none => 0) r.line
  let dev := s.freeNow.toNat % 10
  let s := s.advanceFree.startRemap c r.line dev x none
  match r.why with
  | .verify .. => s
  | _ => s.readBack c r x 0

/-- The verify read of a corrected line has come back (R251): clean means transient; a correction in the same device is a hard fault, which marks the log entry of the first read, while it is
there, and starts a remap (R253). -/
def State.verifyEnd (s : State) (c line dev : Nat) (ix : Option Nat) (res : ReadRes) : State :=
  if res.device = some dev then
    let s := match ix with
      | some i => if s.rd (Reg.DMC_CE_LOG_LINE c i) = line then s.setFlag (Reg.DMC_CE_LOG_HARD c i) true else s
      | none => s
    s.startRemap c line dev res.line ix
  else s

/-- The second read of an uncorrectable line (R249). One that needs correction is handled as R251 says; the verify read's own retry concludes the verify. -/
def State.retryResult (s : State) (c id : Nat) (err : BitVec 640) : State :=
  match (s.ch c).issued.find? (fun r => r.id == id && r.retried) with
  | none => s
  | some r =>
    if !s.wqRoom c r.line then s
    else
      let (s, inj) := s.injected c r.line
      let res := readLine r.data (err ^^^ inj)
      let s := s.dropIssued c id
      if res.bad then s.ueFinal c r
      else
        let s := (s.sat (Reg.DMC_UE_TOTAL_RETRY_OK c) 1).stn (32 + c) 7
        match r.why with
        | .verify dev ix => s.verifyEnd c r.line dev ix res
        | _ =>
          let s := match res.device with
            | some dev => s.corrected c r res dev (s.ceSource r)
            | none => s
          s.readBack c r res.line 0

/-- UE_RETRY_RESULT (R249). -/
def execUeRetryResult (c : Chan) (rd : Nat) (err : BitVec 640) (s : State) : Host.Outcome State Fault Refusal :=
  .next (s.retryResult c rd err)

/-- The verify read of a corrected line (R251). -/
def State.verifyRead (s : State) (c line : Nat) (err : BitVec 640) : State :=
  match (s.ch c).issued.find? (fun r => r.line == line && !r.retried && (match r.why with | .verify .. => true | _ => false)) with
  | none => s
  | some r => match r.why with
    | .verify dev ix =>
      let (s, inj) := s.injected c line
      let res := readLine r.data (err ^^^ inj)
      if res.bad then s.readAgain c r
      else (s.dropIssued c r.id).verifyEnd c line dev ix res
    | _ => s

/-- CE_VERIFY_READ (R251). -/
def execCeVerifyRead (c : Chan) (mline : Nat) (err : BitVec 640) (s : State) : Host.Outcome State Fault Refusal :=
  .next (s.verifyRead c mline err)

end Sys2Proof.Machine
end

