-- ==== Sys2Proof/Machine/Schedule.lean ====
section
/-! DEFINITION. The DRAM channels' own work: reads that arrive, the write queue, the scheduler of each sub-channel (R210 to R220), refresh
(R221 to R223), rank power states (R224, R225), and the Warden's safe-state order (R226, R227). -/
namespace Sys2Proof.Machine

/-! ### Banks -/

/-- The state of a bank. -/
def State.bank (s : State) (c k : Nat) : Bank := Tbl.lookD (s.ch c).banks {} k

/-- Changes a bank. -/
def State.updBank (s : State) (c k : Nat) (f : Bank → Bank) : State :=
  s.updCh c (fun d => { d with banks := Tbl.upd d.banks {} k f })

/-- The bank of a DRAM address. -/
def Coord.key (x : Coord) : Nat := bankKey x.sub x.lr x.bank

/-- A time that a command waits for has come: none was issued, or its distance has passed. -/
def past (t : Option Nat) (d now : Nat) : Bool :=
  match t with
  | none => true
  | some t => decide (t + d ≤ now)

/-- PRE to a bank is legal: TRAS after the ACT, TRTP after the last read, TWR after the data of the last write. -/
def State.preOk (s : State) (c k now : Nat) : Bool :=
  let b := s.bank c k
  past b.act (s.rd (Reg.DMC_TIM_ROW_TRAS c)) now && past b.rdAt (s.rd (Reg.DMC_TIM_TURN_TRTP c)) now
    && past b.wrAt (s.rd (Reg.DMC_TIM_CAS_TCWL c) + 8 + s.rd (Reg.DMC_TIM_ROW_TWR c)) now

/-- A bank is free of a refresh. -/
def State.unrefreshed (s : State) (c k now : Nat) : Bool := decide (Tbl.lookD (s.ch c).refUntil 0 k ≤ now)

/-- ACT to a bank is legal: TRP, TRC, TRRD and TFAW have passed. -/
def State.actOk (s : State) (c : Nat) (x : Coord) (now : Nat) : Bool :=
  let b := s.bank c x.key
  let acts := (s.ch c).acts.filter (fun (a : Nat × Nat) => a.1 / 8 == rankKey x.sub x.lr)
  past b.pre (s.rd (Reg.DMC_TIM_CAS_TRP c)) now && past b.act (s.rd (Reg.DMC_TIM_ROW_TRC c)) now
    && s.unrefreshed c x.key now
    && acts.all (fun (a : Nat × Nat) => decide (a.2 + (if a.1 % 8 = x.bg then s.rd (Reg.DMC_TIM_BANK_TRRD_L c)
        else s.rd (Reg.DMC_TIM_BANK_TRRD_S c)) ≤ now))
    && decide ((acts.filter (fun (a : Nat × Nat) => decide (now < a.2 + s.rd (Reg.DMC_TIM_TURN_TFAW c)))).length < 4)

/-- A column command to an open row is legal: TRCD after the ACT, and the column and turnaround distances on the bus. A burst takes
eight clocks; for the spacing across bank groups, and across the ranks of an RDIMM, the timing registers have no field and the burst's length is taken, in a half-rate pseudo-channel too. (DESIGN CHOICE, unsafe, log entry 101) -/
def State.casOk (s : State) (c : Nat) (x : Coord) (write : Bool) (now : Nat) : Bool :=
  let cl := s.rd (Reg.DMC_TIM_CAS_TCL c)
  let cwl := s.rd (Reg.DMC_TIM_CAS_TCWL c)
  past (s.bank c x.key).act (s.rd (Reg.DMC_TIM_CAS_TRCD c)) now
    && (s.ch c).lastCas.all (fun (e : Nat × Nat × Bool) =>
      let same := e.1 == rankKey x.sub x.lr * 8 + x.bg
      if e.1 / 128 != x.sub then true
      else match e.2.2, write with
        | false, false => decide (e.2.1 + (if same then s.rd (Reg.DMC_TIM_BANK_TCCD_L c) else 8) ≤ now)
        | true, true => decide (e.2.1 + (if same then s.rd (Reg.DMC_TIM_BANK_TCCD_L_WR c) else 8) ≤ now)
        | true, false => decide (e.2.1 + cwl + 8 + (if same then s.rd (Reg.DMC_TIM_TURN_TWTR_L c)
            else s.rd (Reg.DMC_TIM_TURN_TWTR_S c)) ≤ now)
        | false, true => decide (e.2.1 + cl + 10 ≤ now + cwl))

/-- A command to a rank is noted: its idle time starts again (R224). -/
def State.noteRank (s : State) (c lr : Nat) : State := s.updCh c (fun d => { d with idleFrom := Tbl.put d.idleFrom lr s.tick })

/-- The predictor one step toward strong open or strong close (Table 8.5). -/
def predUp (p : Nat) : Nat := min 3 (p + 1)
def predDown (p : Nat) : Nat := p - 1

/-- The DIMM, the 3DS chip and the package rank of a logical rank: LR = (DIMM × H + CID) × PR + PRANK (R209). -/
def State.rankParts (s : State) (c lr : Nat) : Nat × Nat × Nat :=
  let pr := if s.flag (Reg.DMC_CFG_PRANKS c) then 2 else 1
  let hh := 2 ^ s.rd (Reg.DMC_CFG_HEIGHT c)
  (lr / pr / hh, lr / pr % hh, lr % pr)

/-- The DRAM clocks of 1 µs, of which each has one slot of a command bus. -/
def State.slotsPerUs (s : State) : Nat := 50 * s.rootN

/-- The slots of a sub-channel's command bus that held a command within the 1 µs that ends with a clock. -/
def State.busySlots (s : State) (c sub clk : Nat) : List Nat := (Tbl.lookD (s.ch c).busy [] sub).filter (fun b => decide (clk < b + s.slotsPerUs))

/-- A slot that takes a command is noted (R294). A command outside the scheduled slots takes the tick's first one that is left. -/
def State.noteBusy (s : State) (c sub : Nat) : State :=
  let clk := max (4 * s.tick) (Tbl.lookD (s.ch c).lastSlot 0 sub - 1)
  s.updCh c (fun d => { d with busy := Tbl.put d.busy sub (s.busySlots c sub clk ++ [clk]) })

/-- A command appears on a channel's command bus. -/
def State.bus (s : State) (c sub lr bank : Nat) (cmd : String) : State :=
  let (dimm, cid, prank) := s.rankParts c lr
  ((s.emit (.dram c sub dimm cid prank bank cmd)).noteRank c lr).noteBusy c sub

/-- The derate level of a channel (Table 11.4). -/
def State.derate (s : State) (c : Nat) : Nat := bitsOf (s.word 0x200020) (2 * c) 2

/-- The derate factor in 64ths (Table 11.4). -/
def derateFactor : Nat → Nat
  | 0 => 64
  | 1 => 56
  | 2 => 48
  | _ => 32

/-- A slot that a derated channel leaves idle (R294): with one more command, more than the fraction d of the 1 µs that ends with it would be busy. -/
def State.slotIdle (s : State) (c sub clk : Nat) : Bool :=
  s.derate c != 0 && decide (derateFactor (s.derate c) * s.slotsPerUs < 64 * ((s.busySlots c sub clk).length + 1))

/-- PRE of a bank. `conflict` says that an access found another row open. -/
def State.precharge (s : State) (c sub lr bank now : Nat) (conflict : Bool) : State :=
  (s.updBank c (bankKey sub lr bank) (fun b =>
    { b with row := none, lastRow := b.row, pre := some now, hits := 0, run := 0, lastTick := s.tick,
             pred := if conflict then predDown b.pred else b.pred })).bus c sub lr bank "PRE"

/-- ACT of a row. -/
def State.activate (s : State) (c : Nat) (x : Coord) (now : Nat) : State :=
  let s := s.updBank c x.key (fun b =>
    { b with row := some x.row, act := some now, rdAt := none, wrAt := none, hits := 0, run := 0, lastTick := s.tick,
             pred := if b.lastRow = some x.row then predUp b.pred else b.pred })
  let s := s.updCh c (fun d => { d with acts := (d.acts.filter (fun (a : Nat × Nat) => decide (now < a.2 + 256)))
      ++ [(rankKey x.sub x.lr * 8 + x.bg, now)] })
  ((s.bus c x.sub x.lr x.bank "ACT").cnt ((0x10 + c) * 256 + 3) .dev).stn (32 + c) 2

/-! ### Queues -/

/-- A sub-channel has queued work for which a test of its DRAM address holds. -/
def State.targets (s : State) (c : Nat) (p : Coord → Bool) : Bool :=
  (s.ch c).rq.any (fun (r : DramRd) => p (s.at' c r.line)) || (s.ch c).wq.any (fun (w : WrEnt) => p (s.at' c w.line))

/-- The read is the verify read of a corrected line, which must come from DRAM (R251). -/
def isVerify : RdWhy → Bool
  | .verify .. => true
  | _ => false

/-- The data of a write-queue entry: that of a metadata line is its contents now. -/
def State.entryData (s : State) (w : WrEnt) : BitVec 512 :=
  match w.item with
  | some (k, n) => s.metaData k n
  | none => w.data

/-- A read arrives at its channel and is compared with the write queue (R212, R213). One that was sent before a page store of its line is queued for the earlier data (Table 3.4), and the verify
read of a corrected line waits until the line has been written back. -/
def State.readArrival (s : State) (c id : Nat) : State :=
  match (s.ch c).flying.find? (fun (r : DramRd) => r.id == id) with
  | none => s
  | some r =>
    if !s.chLive c || (s.ch c).halted then s
    else
      let land (s : State) : State := s.updCh c (fun d => { d with flying := d.flying.filter (fun (q : DramRd) => q.id != id) })
      let queue (s : State) : State :=
        if (s.rqOf c (s.at' c r.line).sub).length < 64 then
          ((land s).updCh c (fun d => { d with rq := d.rq ++ [r] })).wakeRank c (s.at' c r.line).lr
        else s
      match (if r.snap.isSome || r.retried then none else s.wqEntry c r.line) with
      | none => queue s
      | some w => if isVerify r.why then s else match w.part with
        | some _ => if r.why = RdWhy.merge then queue s else s
        | none =>
          if r.why = RdWhy.merge then land s
          else ((land s).cnt ((0x10 + c) * 256 + 8) .dev).readBack c r { data := s.entryData w, poison := w.poison } 2

/-- DMC_READ_ARRIVAL (R213). -/
def execDmcReadArrival (c : Chan) (rd : Nat) (s : State) : Host.Outcome State Fault Refusal := .next (s.readArrival c rd)

/-! ### The scheduler -/

/-- The effective deadline of a read (R216). -/
def State.effDl (s : State) (c : Nat) (r : DramRd) : Nat := r.deadline.getD (r.arrival + s.rd (Reg.DMC_NODL_NODL_TICKS c))

/-- Read a ranks above read b (R216); the second read of an uncorrectable line goes ahead of every other (R249). -/
def State.above (s : State) (c : Nat) (a b : DramRd) : Bool :=
  if a.retried != b.retried then a.retried
  else a.tier < b.tier || (a.tier == b.tier && (s.effDl c a < s.effDl c b
    || (s.effDl c a == s.effDl c b && (a.arrival < b.arrival || (a.arrival == b.arrival && a.id < b.id)))))

/-- Puts an element into a ranked list. -/
def insertBy {α : Type} (lt : α → α → Bool) (a : α) (l : List α) : List α :=
  match l with
  | [] => [a]
  | b :: r => if lt a b then a :: l else b :: insertBy lt a r

/-- Ranks a list. -/
def rankBy {α : Type} (lt : α → α → Bool) (l : List α) : List α := l.foldl (fun acc a => insertBy lt a acc) []

/-- A read is urgent: its deadline is within URGENT ticks. -/
def State.urgent (s : State) (c : Nat) (r : DramRd) : Bool :=
  match r.deadline with
  | none => false
  | some d => decide (d ≤ s.tick + s.rd (Reg.DMC_SCHED_URGENT c))

/-- The line waits for its remap to end (R253). -/
def State.remapping (s : State) (c l : Nat) : Bool := (s.ch c).remap.any (fun (j : RemapJob) => j.line == l)

/-- After a column command the bank stays open, or closes by auto-precharge (R220). -/
def State.afterCas (s : State) (c : Nat) (x : Coord) (closeAt : Nat) : State :=
  let b := s.bank c x.key
  let again := s.targets c (fun y => y.key == x.key && y.row == x.row)
  if 2 ≤ b.pred || again then s
  else s.updBank c x.key (fun b => { b with row := none, lastRow := b.row, pre := some closeAt, hits := 0, run := 0 })

/-- Notes a column command on a bank: its hits and the predictor's step for a row hit. -/
def State.noteCas (s : State) (c : Nat) (x : Coord) (write pass : Bool) (now : Nat) : State :=
  let hit := (s.bank c x.key).hits != 0
  let s := s.updBank c x.key (fun b =>
    { b with hits := b.hits + 1, pred := if hit then predUp b.pred else b.pred, lastTick := s.tick,
             run := if pass then b.run + 1 else b.run,
             rdAt := if write then b.rdAt else some now, wrAt := if write then some now else b.wrAt })
  let key := rankKey x.sub x.lr * 8 + x.bg
  let s := s.updCh c (fun d => { d with lastCas :=
    (d.lastCas.filter (fun (e : Nat × Nat × Bool) => !(e.1 == key && e.2.2 == write))) ++ [(key, now, write)] })
  let start := now + (if write then s.rd (Reg.DMC_TIM_CAS_TCWL c) else s.rd (Reg.DMC_TIM_CAS_TCL c))
  let s := s.updCh c (fun d => { d with bursts := (d.bursts.filter (fun (e : Nat × Nat) => decide (now < e.2 + 8))) ++ [(rankKey x.sub x.lr, start)] })
  let s := s.bus c x.sub x.lr x.bank (if write then "WR" else "RD")
  let s := (s.cnt ((0x10 + c) * 256 + (if write then 2 else 1)) .dev).stn (32 + c) (if write then 1 else 0)
  if hit then s.cnt ((0x10 + c) * 256 + 4) .dev else s

/-- RD of a queued read: it leaves the queue with the line as it is now (R210). -/
def State.issueRead (s : State) (c : Nat) (r : DramRd) (x : Coord) (pass : Bool) (now : Nat) : State :=
  let missed := (s.bank c x.key).hits == 0
  let data := r.snap.getD (match r.why with
    | .mline k n _ => { data := s.metaData k n }
    | _ => s.lineAt c r.line)
  let b := s.bank c x.key
  let close := max (now + s.rd (Reg.DMC_TIM_TURN_TRTP c)) ((b.act.getD 0) + s.rd (Reg.DMC_TIM_ROW_TRAS c))
  let s := if r.tier = 0 then (match r.why with | .mline .. => s.noteMeta c | _ => s.noteT0 c) else s
  let s := s.noteCas c x false pass now
  let s := s.updCh c (fun d => { d with
    rq := d.rq.filter (fun (q : DramRd) => q.id != r.id),
    issued := d.issued ++ [{ r with data := data, missed := missed }],
    wq := d.wq.map (fun (w : WrEnt) => { w with after := w.after.filter (· != r.id) }) })
  s.afterCas c x close

/-- WR of a write-queue entry: it leaves the queue, and the line is stored. -/
def State.issueWrite (s : State) (c : Nat) (w : WrEnt) (x : Coord) (now : Nat) : State :=
  let close := now + s.rd (Reg.DMC_TIM_CAS_TCWL c) + 8 + s.rd (Reg.DMC_TIM_ROW_TWR c)
  let s := if w.t0 then s.noteT0 c else s
  let s := s.noteCas c x true false now
  let s := s.updCh c (fun d => { d with wq := d.wq.filter (fun (v : WrEnt) => v.line != w.line) })
  (s.putLine c w.line { data := s.entryData w, poison := w.poison }).afterCas c x close

/-- The rank of an address takes column commands and ACT: it is awake and no forced REFab is due or runs. -/
def State.rankFree (s : State) (c : Nat) (x : Coord) (now : Nat) : Bool :=
  s.rankReady c x.lr now && !s.refabDue c x.sub x.lr && s.unrefreshed c (2 ^ 20 + rankKey x.sub x.lr) now

/-- The next command of one read, when it is legal in this slot (R217). `higher` are the reads ranked above it; the second read of an uncorrectable line goes ahead of every other to its bank
(R249). -/
def State.readCommand (s : State) (c : Nat) (all higher : List DramRd) (r : DramRd) (now : Nat) : Option State :=
  let x := s.at' c r.line
  let b := s.bank c x.key
  if !s.rankFree c x now || s.remapping c r.line || higher.any (fun (q : DramRd) => q.retried && (s.at' c q.line).key == x.key) then none
  else match b.row with
    | none => if s.actOk c x now then some (s.activate c x now) else none
    | some row =>
      if row = x.row then
        let rival := higher.find? (fun (q : DramRd) => (s.at' c q.line).key == x.key && (s.at' c q.line).row != row)
        let passes := match rival with
          | none => true
          | some q => decide (b.run < s.rd (Reg.DMC_SCHED_HIT_RUN c)) && q.tier != 0 && !s.urgent c q
        if passes && s.casOk c x false now then some (s.issueRead c r x rival.isSome now) else none
      else
        let first := higher.all (fun (q : DramRd) => (s.at' c q.line).key != x.key)
        let hits := all.any (fun (q : DramRd) => (s.at' c q.line).key == x.key && (s.at' c q.line).row == row)
        let yield := hits && !r.retried && decide (b.run < s.rd (Reg.DMC_SCHED_HIT_RUN c)) && r.tier != 0 && !s.urgent c r
        if first && !yield && s.preOk c x.key now then some (s.precharge c x.sub x.lr x.bank now true) else none

/-- The first read in rank order with a legal command. -/
def State.readSlot (s : State) (c : Nat) (all higher rest : List DramRd) (now : Nat) : Option State :=
  match rest with
  | [] => none
  | r :: rest => match s.readCommand c all higher r now with
    | some t => some t
    | none => State.readSlot s c all (higher ++ [r]) rest now

/-- A write-queue entry can issue: it is whole, its earlier reads have issued, and its line is not being remapped. -/
def State.canIssue (s : State) (c : Nat) (w : WrEnt) (now : Nat) : Bool :=
  w.part.isNone && w.after == [] && !s.remapping c w.line && s.rankFree c (s.at' c w.line) now

/-- The drain's next command (R218): the oldest entry first; entries of open rows lead it at most HIT_RUN times in a row. -/
def State.writeSlot (s : State) (c sub now : Nat) : Option State :=
  let run := Tbl.lookD (s.ch c).runLen 0 sub
  match (s.wqOf c sub).filter (fun (w : WrEnt) => s.canIssue c w now) with
  | [] => none
  | w :: rest =>
    let x := s.at' c w.line
    let b := s.bank c x.key
    if b.row = some x.row then
      if s.casOk c x true now then some ((s.updCh c (fun d => { d with runLen := Tbl.del d.runLen sub })).issueWrite c w x now) else none
    else
      let open' := rest.find? (fun (v : WrEnt) =>
        let y := s.at' c v.line
        (s.bank c y.key).row == some y.row && s.casOk c y true now)
      match (if run < s.rd (Reg.DMC_SCHED_HIT_RUN c) then open' else none) with
      | some v => some ((s.updCh c (fun d => { d with runLen := Tbl.put d.runLen sub (run + 1) })).issueWrite c v (s.at' c v.line) now)
      | none => match b.row with
        | none => if s.actOk c x now then some (s.activate c x now) else none
        | some _ => if s.preOk c x.key now then some (s.precharge c x.sub x.lr x.bank now true) else none

/-- A drain starts or ends, and with it the count of open-row writes in a row (R218, R219). The result is the mode of this slot: true drains. -/
def State.drainMode (s : State) (c sub : Nat) : State × Bool :=
  let w := (s.wqOf c sub).length
  let r := (s.rqOf c sub).length
  let high := min 64 (max 1 (s.rd (Reg.DMC_SCHED_WQ_HIGH c)))
  let low := min (s.rd (Reg.DMC_SCHED_WQ_LOW c)) (high - 1)
  let on := (s.ch c).drain.getLsbD sub
  let dry := (s.ch c).drainDry.getLsbD sub
  let set (s : State) (a b : Bool) : State :=
    let put (v : BitVec 2) (x : Bool) : BitVec 2 := (v &&& ~~~(1#2 <<< sub)) ||| (if x then 1#2 <<< sub else 0)
    s.updCh c (fun d => { d with drain := put d.drain a, drainDry := put d.drainDry b, runLen := Tbl.del d.runLen sub })
  if high ≤ w && (!on || dry) then (set s true false, true)
  else if on then
    if w = 0 ∨ (dry = true ∧ r ≠ 0) ∨ (dry = false ∧ w ≤ low) then (set s false false, false) else (s, true)
  else if r = 0 ∧ w ≠ 0 then (set s true true, true)
  else (s, false)

/-- Every entry of a sub-channel's write queue waits for a read: its merge read, or an earlier read of its line (R214, R215). -/
def State.writesWait (s : State) (c sub : Nat) : Bool := (s.wqOf c sub).all (fun (w : WrEnt) => w.part.isSome || w.after != [])

/-! ### Recalibration passes in the schedule -/

/-- Background recalibration can run on a rank: it is enabled, and the rank is in ACTIVE (R237). -/
def State.recalOn (s : State) (c lr : Nat) : Bool :=
  s.chLive c && s.flag (Reg.DMC_TRN_CTL_RECAL_EN c) && !(s.ch c).halted && decide (lr < s.ranks c) && s.rankState c lr == .active

/-- The key of a lane group: a rank of a sub-channel. -/
def groupKey (lr sub : Nat) : Nat := lr * 2 + sub

/-- A lane group has not been measured for RECAL_MAX (R240): every tick since its last pass counts, outside ACTIVE too, and since the release where it has had none. (DEDUCED, unsafe, log entry 105) -/
def State.recalDue (s : State) (c lr sub : Nat) : Bool :=
  s.recalOn c lr && decide (Tbl.lookD (s.ch c).lastPass 0 (groupKey lr sub) + max 1 (s.rd (Reg.DMC_TRN_CTL2_RECAL_MAX c)) * s.ms ≤ s.tick)

/-- A forced pass waits for a slot of a sub-channel. -/
def State.passWaits (s : State) (c sub : Nat) : Bool := (List.range (s.ranks c)).any (fun lr => s.recalDue c lr sub)

/-- A pass occupies a sub-channel at a DRAM clock (R238). -/
def State.inPass (s : State) (c sub clk : Nat) : Bool := decide (clk < Tbl.lookD (s.ch c).passUntil 0 sub)

/-- A read ranks above a forced pass, which ranks as a tier-0 read with zero slack (R240): one of tier 0 that is late already, or a second read of an uncorrectable line. -/
def State.abovePass (s : State) (c : Nat) (r : DramRd) : Bool := r.retried || (r.tier == 0 && decide (s.effDl c r < s.tick))

/-- One slot of column work: reads by rank, or a drain, which an urgent tier-0 read or a forced pass interrupts unless the write queue is full. A drain whose every entry waits for a
read lets the reads issue. While a forced pass waits, only reads that rank above it issue. -/
def State.columnSlot (s : State) (c sub now : Nat) : State :=
  let (s, drain) := s.drainMode c sub
  let due := s.passWaits c sub
  let reads := rankBy (s.above c) ((s.rqOf c sub).filter (fun (r : DramRd) => !due || s.abovePass c r))
  let cut := (due || reads.any (fun (r : DramRd) => r.tier == 0 && s.urgent c r)) && decide ((s.wqOf c sub).length < 64)
  if drain && !cut && !s.writesWait c sub then (s.writeSlot c sub now).getD s
  else (s.readSlot c reads [] reads now).getD s

/-! ### Refresh -/

/-- A forced REFab of a rank of a sub-channel: every count falls by one, and it is counted (R223). -/
def State.refabNow (s : State) (c sub lr : Nat) : State :=
  let s := (List.range 4).foldl (fun s b => s.setOwed c sub lr b (max (s.owed c sub lr b - 1) (-(s.pullinMax c : Int)))) s
  let s := (s.sat (Reg.DMC_REF_STATUS_FORCED_REFAB c) 1).bus c sub lr 0 "REFAB"
  (s.cnt ((0x10 + c) * 256 + 6) .dev).stn (32 + c) 4

/-- One command of a forced REFab (R223): the PRE of an open bank, or the REFab itself. -/
def State.refabStep (s : State) (c sub lr now : Nat) : Option State :=
  let ks := List.range 32
  match ks.find? (fun b => (s.bank c (bankKey sub lr b)).row.isSome && s.preOk c (bankKey sub lr b) now) with
  | some b => some (s.precharge c sub lr b now false)
  | none =>
    if ks.all (fun b => (s.bank c (bankKey sub lr b)).row.isNone && past (s.bank c (bankKey sub lr b)).pre (s.rd (Reg.DMC_TIM_CAS_TRP c)) now
        && s.unrefreshed c (bankKey sub lr b) now) then
      some ((s.refabNow c sub lr).updCh c (fun d => { d with refUntil := Tbl.put d.refUntil (2 ^ 20 + rankKey sub lr) (now + s.rd (Reg.DMC_TIM_REF_TRFC2 c)) }))
    else none

/-- The banks of index b, in all eight bank groups. -/
def banksOf (b : Nat) : List Nat := (List.range 8).map (fun g => 4 * g + b)

/-- One command of a REFsb to index b (R222): the PRE of an open bank of the index, or the REFsb. -/
def State.refsbStep (s : State) (c sub lr b now : Nat) : Option State :=
  match (banksOf b).find? (fun k => (s.bank c (bankKey sub lr k)).row.isSome) with
  | some k => if s.preOk c (bankKey sub lr k) now then some (s.precharge c sub lr k now false) else none
  | none =>
    if (banksOf b).all (fun k => past (s.bank c (bankKey sub lr k)).pre (s.rd (Reg.DMC_TIM_CAS_TRP c)) now
        && s.unrefreshed c (bankKey sub lr k) now) then
      let s := s.setOwed c sub lr b (s.owed c sub lr b - 1)
      let s := s.updCh c (fun d => { d with refUntil := (banksOf b).foldl (fun t k =>
        Tbl.put t (bankKey sub lr k) (now + s.rd (Reg.DMC_TIM_REF2_TRFCSB c))) d.refUntil })
      some (((s.bus c sub lr b "REFSB").cnt ((0x10 + c) * 256 + 5) .dev).stn (32 + c) 3)
    else none

/-- A rank's queues of a sub-channel hold nothing for bank index b (R222), or for any bank. -/
def State.noTarget (s : State) (c sub lr : Nat) (b : Option Nat) : Bool :=
  !s.targets c (fun x => x.sub == sub && x.lr == lr && (match b with | some b => x.ba == b | none => true))

/-- A refresh that this slot serves: an index that is owed one and has no target, or one pulled in while the rank's queues are empty. -/
def State.refreshSlot (s : State) (c sub now : Nat) (owedOnly : Bool) : Option State :=
  (List.range (s.ranks c)).findSome? (fun lr =>
    if s.rankReady c lr now && s.unrefreshed c (2 ^ 20 + rankKey sub lr) now && !s.refabDue c sub lr then
      (List.range 4).findSome? (fun b =>
        let n := s.owed c sub lr b
        if owedOnly then (if 0 < n ∧ s.noTarget c sub lr (some b) = true then s.refsbStep c sub lr b now else none)
        else if n ≤ 0 ∧ -(s.pullinMax c : Int) < n ∧ s.noTarget c sub lr none = true then s.refsbStep c sub lr b now else none)
    else none)

/-- Nothing issued: the state but for the modes of the sub-channels. -/
def sameQueues (a b : State) (c : Nat) : Bool := (a.ch c).banks == (b.ch c).banks && (a.ch c).wq == (b.ch c).wq && (a.ch c).rq == (b.ch c).rq

/-- A quantity one step nearer to its target (R236). -/
def stepTo (a b : Nat) : Nat := if a < b then a + 1 else if b < a then a - 1 else a

/-- A lane's quantities one step nearer to their targets. -/
def LaneSet.step (a b : LaneSet) : LaneSet :=
  { rd0 := stepTo a.rd0 b.rd0, rd1 := stepTo a.rd1 b.rd1, rv := stepTo a.rv b.rv, wv := stepTo a.wv b.wv,
    wr0 := stepTo a.wr0 b.wr0, wr1 := stepTo a.wr1 b.wr1 }

/-- The lanes of a rank of a sub-channel carry a burst at a DRAM clock: a burst takes the eight clocks from its latency on. -/
def Dmc.carries (d : Dmc) (sub lr clk : Nat) : Bool :=
  d.bursts.any (fun (e : Nat × Nat) => e.1 == rankKey sub lr && decide (e.2 ≤ clk ∧ clk < e.2 + 8))

/-- In a slot, each quantity of the lanes of a sub-channel that carry no burst moves by at most one step (R236). -/
def State.stepLanes (s : State) (c sub clk : Nat) : State :=
  if (s.ch c).target = [] then s
  else s.updCh c (fun d => { d with inUse := d.inUse.map (fun (e : Nat × LaneSet) =>
    if (e.1 / 5) % 2 = sub ∧ d.carries sub (e.1 / 10) clk = false then (match Tbl.look d.target e.1 with | some t => (e.1, e.2.step t) | none => e) else e) })

/-- The command of a slot: a forced REFab comes first, then an owed REFsb without targets, then a read or a drained write, then a refresh pulled in. -/
def State.slotCommand (s : State) (c sub clk : Nat) : State :=
    match (List.range (s.ranks c)).findSome? (fun lr =>
      if s.rankReady c lr clk && s.refabDue c sub lr && s.unrefreshed c (2 ^ 20 + rankKey sub lr) clk then s.refabStep c sub lr clk else none) with
    | some t => t
    | none => match s.refreshSlot c sub clk true with
      | some t => t
      | none =>
        let t := s.columnSlot c sub clk
        if sameQueues s t c && !s.passWaits c sub then (t.refreshSlot c sub clk false).getD t else t

/-- DMC_SCHEDULE_SLOT: one command slot of a sub-channel, in a DRAM clock of the current tick, later than the slot before it (R216 to R223). While a recalibration pass occupies the
sub-channel nothing issues (R238), nor in a slot that derating leaves idle (R294). -/
def State.slot (s : State) (c sub clk : Nat) : State :=
  if !s.chLive c || (s.ch c).halted || clk / 4 != s.tick || decide (clk < Tbl.lookD (s.ch c).lastSlot 0 sub) || s.inPass c sub clk then s
  else
    let s := s.updCh c (fun d => { d with lastSlot := Tbl.put d.lastSlot sub (clk + 1) })
    (if s.slotIdle c sub clk then s else s.slotCommand c sub clk).stepLanes c sub clk

/-- A metadata line with new contents enters the write queue of its channel (R210): it stores what the line holds when WR issues. -/
def State.enqueueMeta (s : State) (c l : Nat) (k : MetaKind) (n : Nat) : State :=
  if (s.wqEntry c l).isSome then s
  else
    let after := ((s.ch c).rq.filter (fun (r : DramRd) => r.line == l)).map (fun (r : DramRd) => r.id)
    (s.updCh c (fun d => { d with wq := d.wq ++ [{ line := l, data := 0, arrival := s.tick, after := after, item := some (k, n) }] })).wakeRank c (s.at' c l).lr

/-- The metadata lines that are to be written: those of blocks, nodes and tags, and of accession entries whose cached copy is dirty. -/
def State.metaDues (s : State) : List (MetaKind × Nat) := s.sec.due ++ s.place.accDirty.map (fun p => (MetaKind.acc, p / 8))

/-- A metadata line has entered its write queue. -/
def State.metaTaken (s : State) (k : MetaKind) (n : Nat) : State :=
  { s with sec := { s.sec with due := s.sec.due.filter (· != (k, n)) },
           place := { s.place with accDirty := s.place.accDirty.filter (fun p => !(k == .acc && p / 8 == n)) } }

/-- The write queues of a channel take the oldest metadata line that is to be written there and for which they have room (R210). When a dirty accession entry is written back the spec leaves
open. (DESIGN CHOICE, unsafe, log entry 115) -/
def State.takeMeta (s : State) (c : Nat) : State :=
  if !s.chLive c || !s.boot.chans.contains c then s
  else match s.metaDues.find? (fun e => let a := s.metaAddr e.1 e.2; a.1 == c && s.wqRoom c a.2) with
    | none => s
    | some (k, n) => (s.enqueueMeta c (s.metaAddr k n).2 k n).metaTaken k n

/-- DMC_SCHEDULE_SLOT (R217). -/
def execDmcScheduleSlot (c : Chan) (sub : Fin 2) (clk : Nat) (s : State) : Host.Outcome State Fault Refusal := .next (s.slot c sub clk)

/-- An open row without a command for ROW_IDLE ticks is precharged (R220). -/
def State.rowIdle (s : State) (c sub lr bank : Nat) : State :=
  let b := s.bank c (bankKey sub lr bank)
  let idle := max 1 (s.rd (Reg.DMC_NODL_ROW_IDLE c))
  if s.chLive c && !s.inPass c sub s.clkNow && b.row.isSome && decide (b.lastTick + idle ≤ s.tick) && s.rankReady c lr s.clkNow && s.preOk c (bankKey sub lr bank) s.clkNow
  then s.precharge c sub lr bank s.clkNow false else s

/-- ROW_IDLE_PRECHARGE (R220). -/
def execRowIdlePrecharge (c : Chan) (sub : Fin 2) (lr : Fin 16) (bank : Fin 32) (s : State) : Host.Outcome State Fault Refusal :=
  .next (s.rowIdle c sub lr bank)

/-- The interval of a rank's owed counts in DRAM clocks: TREFI/2, or TREFI/4 while its MR4 reports above 85 °C (R221). -/
def State.refInterval (s : State) (c lr : Nat) : Nat :=
  s.rd (Reg.DMC_TIM_REF_TREFI c) / (if s.bit (Reg.DMC_REF_STATUS_HOT_RANKS c) lr then 4 else 2)

/-- Every TREFI/2, or TREFI/4 while the rank is hot, the owed counts of a rank of a sub-channel rise by one, never above POSTPONE_MAX (R221, R223).
A rank in POWERDOWN wakes when one reaches POSTPONE_MAX - 1; a rank in self-refresh refreshes itself. -/
def State.refreshDue (s : State) (c sub lr : Nat) : State :=
  let every := s.refInterval c lr
  let last := Tbl.lookD (s.ch c).refAt 0 (rankKey sub lr)
  if !s.chLive c || decide (s.ranks c ≤ lr) || decide (s.clkNow < last + every) then s
  else
    let s := s.updCh c (fun d => { d with refAt := Tbl.put d.refAt (rankKey sub lr) (if s.clkNow < last + 2 * every then last + every else s.clkNow) })
    match s.rankState c lr with
    | .selfrefresh => s
    | .held => s
    | st =>
      let m : Int := s.postponeMax c
      let s := (List.range 4).foldl (fun s b => s.setOwed c sub lr b (min m (s.owed c sub lr b + 1))) s
      if st = .powerdown ∧ (List.range 4).any (fun b => decide (m - 1 ≤ s.owed c sub lr b)) = true then s.wakeRank c lr else s

/-- REFRESH_INTERVAL (R221). -/
def execRefreshInterval (c : Chan) (sub : Fin 2) (lr : Fin 16) (s : State) : Host.Outcome State Fault Refusal := .next (s.refreshDue c sub lr)

/-- MR4 of a channel's ranks may be read: each boundary of 100 µs has one reading (R221). -/
def State.mr4Due (s : State) (c : Nat) : Bool := decide ((s.ch c).mr4At / s.us100 < s.tick / s.us100)

/-- The DMC reads MR4 of every rank (R221): a rank that enters or leaves the doubled rate is shown, with the event. -/
def State.mr4 (s : State) (c : Nat) (hot : BitVec 16) : State :=
  if !s.chLive c || !s.mr4Due c then s
  else
  let s := s.updCh c (fun d => { d with mr4At := s.tick })
  let any := s.rd (Reg.DMC_REF_STATUS_HOT_RANKS c) != 0
  let s := (List.range (s.ranks c)).foldl (fun s lr =>
    if s.bit (Reg.DMC_REF_STATUS_HOT_RANKS c) lr = hot.getLsbD lr then s
    else (s.wrBit (Reg.DMC_REF_STATUS_HOT_RANKS c) lr (hot.getLsbD lr)).raiseCh c 2 lr (if hot.getLsbD lr then 1 else 0)) s
  if any = (s.rd (Reg.DMC_REF_STATUS_HOT_RANKS c) != 0) then s else { s with qos := { s.qos with gDirty := true } }

/-- MR4_POLL (R221). -/
def execMr4Poll (c : Chan) (hot : BitVec 16) (s : State) : Host.Outcome State Fault Refusal := .next (s.mr4 c hot)

/-! ### Rank power -/

/-- A rank has no queued command in either sub-channel, and no pass occupies one (R224, R238). -/
def State.rankIdle (s : State) (c lr : Nat) : Bool :=
  !s.targets c (fun x => x.lr == lr) && (List.range 2).all (fun sub => !s.inPass c sub s.clkNow)

/-- The tick of the last command a rank received. -/
def State.idleSince (s : State) (c lr : Nat) : Nat := Tbl.lookD (s.ch c).idleFrom 0 lr

/-- Every bank of a rank is precharged. -/
def State.closeRank (s : State) (c lr : Nat) : State :=
  (List.range 2).foldl (fun s sub => (List.range 32).foldl (fun s b =>
    if (s.bank c (bankKey sub lr b)).row.isSome then s.precharge c sub lr b s.clkNow false else s) s) s

/-- ACTIVE to POWERDOWN (Table 8.6). Every command on the bus to a rank ends its idle time; the precharges of the entry itself do not. (DEDUCED, unsafe, log entry 103) -/
def State.powerdown (s : State) (c lr : Nat) : State :=
  let m : Int := s.postponeMax c
  if s.chLive c && decide (lr < s.ranks c) && s.rankState c lr == .active && s.rankIdle c lr && s.bit (Reg.DMC_PD_PD_ALLOW c) lr
      && decide (s.idleSince c lr + s.rd (Reg.DMC_PD_PD_IDLE c) ≤ s.tick)
      && (List.range 2).all (fun sub => (List.range 4).all (fun b => decide (s.owed c sub lr b < m - 1))) then
    let t := s.idleSince c lr
    ((s.closeRank c lr).setRank c lr .powerdown).updCh c (fun d => { d with idleFrom := Tbl.put d.idleFrom lr t })
  else s

/-- RANK_POWERDOWN_ENTRY (R224). -/
def execRankPowerdownEntry (c : Chan) (lr : Fin 16) (s : State) : Host.Outcome State Fault Refusal := .next (s.powerdown c lr)

/-- SR_IDLE in ticks: microseconds of N × 12.5 ticks. -/
def State.srIdle (s : State) (c : Nat) : Nat := max 1 (s.rd (Reg.DMC_SR_SR_IDLE c)) * s.rootN * 125 / 10

/-- Serves every positive owed count of a rank by REFsb. -/
def State.serveOwed (s : State) (c lr : Nat) : State :=
  (List.range 2).foldl (fun s sub => (List.range 4).foldl (fun s b =>
    let n := (s.owed c sub lr b).toNat
    if n = 0 then s else ((s.setOwed c sub lr b 0).cnt ((0x10 + c) * 256 + 5) .dev n).stn (32 + c) 3 n) s) s

/-- ACTIVE or POWERDOWN to SELFREFRESH (Table 8.6). -/
def State.selfrefresh (s : State) (c lr : Nat) : State :=
  let st := s.rankState c lr
  if s.chLive c && decide (lr < s.ranks c) && (st == .active || st == .powerdown) && s.rankIdle c lr && s.bit (Reg.DMC_SR_SR_ALLOW c) lr
      && decide (s.idleSince c lr + s.srIdle c ≤ s.tick) then
    ((s.serveOwed c lr).closeRank c lr).setRank c lr .selfrefresh
  else s

/-- RANK_SELFREFRESH_ENTRY (R224). -/
def execRankSelfrefreshEntry (c : Chan) (lr : Fin 16) (s : State) : Host.Outcome State Fault Refusal := .next (s.selfrefresh c lr)

/-- PD_ALLOW is written: a rank in POWERDOWN whose bit clears leaves it (Table 8.6). -/
def State.pdAllow (s : State) (c : Nat) (v : BitVec 16) : State :=
  let s := s.wr (Reg.DMC_PD_PD_ALLOW c) v.toNat
  (List.range 16).foldl (fun s lr => if s.rankState c lr = .powerdown ∧ v.getLsbD lr = false then s.wakeRank c lr else s) s

/-- DMC_PD_ALLOW_WRITE (R224, R225). -/
def execDmcPdAllowWrite (c : Chan) (v : BitVec 16) (s : State) : Host.Outcome State Fault Refusal := .next (s.pdAllow c v)

/-- SR_ALLOW is written: a rank in SELFREFRESH whose bit clears leaves it. -/
def State.srAllow (s : State) (c : Nat) (v : BitVec 16) : State :=
  let s := s.wr (Reg.DMC_SR_SR_ALLOW c) v.toNat
  (List.range 16).foldl (fun s lr => if s.rankState c lr = .selfrefresh ∧ v.getLsbD lr = false then s.wakeRank c lr else s) s

/-- DMC_SR_ALLOW_WRITE (R224, R225). -/
def execDmcSrAllowWrite (c : Chan) (v : BitVec 16) (s : State) : Host.Outcome State Fault Refusal := .next (s.srAllow c v)

/-! ### The safe state -/

/-- A queued read is given up: its request is discarded with a code (R226). -/
def State.dropRead (s : State) (code : Nat) (r : DramRd) : State :=
  match r.why with
  | .txn id _ => match s.txn? id with
    | some t => s.discard t code false
    | none => s
  | _ => s

/-- A write-queue entry is stored outside the schedule: its row is opened where it is not, and a partial entry is merged with the line, which is read (R215). -/
def State.flushWrite (s : State) (c : Nat) (w : WrEnt) : State :=
  let x := s.at' c w.line
  let s := if s.refabDue c x.sub x.lr then s.refabNow c x.sub x.lr else s
  let b := s.bank c x.key
  let s := if b.row = some x.row then s
    else (if b.row.isSome then s.precharge c x.sub x.lr x.bank s.clkNow true else s).activate c x s.clkNow
  match w.part with
  | none => s.issueWrite c w x s.clkNow
  | some be =>
    let y := (s.lineAt c w.line).merge w.data be w.poison
    (s.noteCas c x false false s.clkNow).issueWrite c { w with data := y.data, poison := y.poison, part := none } x s.clkNow

/-- Every write-queue entry is stored, with a forced REFab of its rank before it where R223 requires one (Table 8.7, step 3). -/
def State.flushWrites (s : State) (c : Nat) : State :=
  let s := (s.ch c).wq.foldl (fun (s : State) (w : WrEnt) => s.flushWrite c w) s
  s.updCh c (fun d => { d with wq := [] })

/-- Steps 2 to 5 of Table 8.7: writes issue, banks close, and every rank enters self-refresh and is held. -/
def State.park (s : State) (c : Nat) : State :=
  let s := s.flushWrites c
  let s := (List.range (s.ranks c)).foldl (fun s lr => (s.closeRank c lr).setRank c lr .held) s
  s.updCh c (fun d => { d with halted := true })

/-- The Warden's safe-state order (R226): the read queues are emptied, and a channel that is not lost parks. With every rank in
self-refresh SR_CLEAN is set, unless the tick departed before (R265). -/
def State.safeOrder (s : State) (c : Nat) : State :=
  if !s.isSafe || (s.ch c).halted then s
  else
    let rs := (s.ch c).flying ++ (s.ch c).rq
    let s := s.updCh c (fun d => { d with flying := [], rq := [] })
    let s := rs.foldl (State.dropRead · 7 ·) s
    let s := if s.chLive c then s.park c else s.updCh c (fun d => { d with halted := true })
    if (List.range 16).all (fun k => !s.chLive k || (s.ch k).halted) then s.setFlag Reg.GLB_WDN_STATUS_SR_CLEAN (!s.warden.departed) else s

/-- SAFE_STATE_ORDER (R226). -/
def execSafeStateOrder (c : Chan) (s : State) : Host.Outcome State Fault Refusal := .next (s.safeOrder c)

end Sys2Proof.Machine
end

