-- ==== Sys2Proof/Machine/Governor.lean ====
section
/-! DEFINITION. The governor (R287 to R299): the work each level permits, the interval, channel derating, missing inputs and the thermal
backstop. Temperatures are in 1/16 °C and the powers of frames in 10 mW. -/
namespace Sys2Proof.Machine

/-! ### What a level permits -/

/-- The kinds of governed work (Table 12.5). A rehome tells whether it leaves a derated channel. -/
inductive GovKind
  | thaw | unspill | freeze | spill | scan | range | reencrypt | tree
  | rehome (leaving : Bool)
deriving DecidableEq, Repr

/-- The level in use permits a kind of work (Table 12.4). -/
def State.permits (s : State) (k : GovKind) : Bool :=
  match s.rd Reg.GLB_GOV_STATUS_LEVEL with
  | 0 => k == .spill || k == .scan
  | 1 => k == .spill || k == .scan || k == .thaw || k == .unspill || k == .range
  | 2 => k != .freeze && k != .tree && k != .rehome false
  | _ => true

/-- The least distance in ticks of two governed admissions at a slice (Table 12.4). -/
def levelShare : Nat → Nat
  | 7 => 20 | 6 => 32 | 5 => 64 | 4 => 128 | 3 => 256 | 2 => 512 | _ => 1024

/-- SCALE (Table 12.4). -/
def levelScale : Nat → Nat
  | 0 => 32 | 1 => 64 | 2 => 96 | _ => 128

/-! ### Levels -/

/-- The power level of Table 12.2, from the sum of n frame powers and the limit in W. -/
def powerLevel (sum n limit : Nat) : Nat :=
  let p := 1000 * sum
  let below (permille : Nat) : Bool := decide (p < permille * limit * 100 * n)
  if below 850 then 7 else if below 875 then 6 else if below 900 then 5 else if below 925 then 4
  else if below 950 then 3 else if below 975 then 2 else if below 1000 then 1 else 0

/-- The thermal level of Table 12.3. -/
def thermLevel (margin : Int) : Nat :=
  if 240 ≤ margin then 7 else if 200 ≤ margin then 6 else if 160 ≤ margin then 5 else if 120 ≤ margin then 4
  else if 80 ≤ margin then 3 else if 40 ≤ margin then 2 else if 0 ≤ margin then 1 else 0

/-- The hottest of the readings, with its place. -/
def hottest (l : List (Nat × Int)) : Option (Nat × Int) :=
  l.foldl (fun b (a : Nat × Int) => match b with | none => some a | some x => if x.2 < a.2 then some a else some x) none

/-- The channels that take part: populated and not lost. -/
def State.liveChans (s : State) : List Nat := (List.range 16).filter s.chLive

/-- The readings of the channels' hottest DIMMs. -/
def State.dimmReadings (s : State) : List (Nat × Int) :=
  s.liveChans.filterMap (fun c => (Tbl.lookD s.qos.dimm none c).map (fun t => (c, t)))

/-- The latest corrected reading of a sensor of a die, calibrated since the release (R243, R296): 0 the central die's, 1 to 4 those of the memory PHY dies, 5 to 20 the channels'. -/
def State.sensor (s : State) (n : Nat) : Option Int := if s.gth.dieDone.getLsbD n then Tbl.look s.qos.sensors n else none

/-- The readings of the dies (R287), each under the number of its die: 0 the central die, 1 to 4 the memory PHY dies. A die whose own sensor does not read is taken from its other
sensors, those of its channels (R296). -/
def State.dieReadings (s : State) : List (Nat × Int) := (List.range 21).filterMap (fun n => (s.sensor n).map (fun t => (dieOf n, t)))

/-- A DIMM sensor of a channel that takes part does not read. -/
def State.dimmLost (s : State) : Bool := s.liveChans.any (fun c => (Tbl.lookD s.qos.dimm none c).isNone)

/-- An input that the thermal level needs is missing, so that it is held (Table 12.7): a die without any reading, or a DIMM. -/
def State.tempHeld (s : State) : Bool := (List.range 5).any (fun d => s.dieReadings.all (fun (e : Nat × Int) => e.1 != d)) || s.dimmLost

/-- TEMP_LOST: a die or DIMM sensor is missing, also where the other sensors of its die stand in for it. (DEDUCED, unsafe, log entry 108) -/
def State.tempLost (s : State) : Bool :=
  (List.range 5).any (fun n => (s.sensor n).isNone) || s.liveChans.any (fun c => (s.sensor (5 + c)).isNone) || s.dimmLost

/-- Sets a channel's derate level; a change raises its event and asks for G to be computed again (R282, R299). (DEDUCED, unsafe, log entry 19) -/
def State.setDerate (s : State) (c n : Nat) : State :=
  if s.derate c = n then s
  else
    let s := s.setWord 0x200020 (setBits (s.word 0x200020) (2 * c) 2 n)
    ({ s with qos := { s.qos with gDirty := true } }).raiseCh c 8 n

/-- The derate level of Table 12.6 for a reading. -/
def derateFor (high t : Int) : Nat :=
  if t < high - 80 then 0 else if t < high then 1 else if t < high + 80 then 2 else 3

/-- The lower bound of a derate level's row. -/
def derateBound (high : Int) (n : Nat) : Int := high - 80 + 80 * (n - 1 : Int)

/-- The intervals that a channel's reading has stayed cool are counted anew, from k. -/
def State.setCool (s : State) (c k : Nat) : State := { s with qos := { s.qos with cooler := Tbl.putD s.qos.cooler 0 c k } }

/-- The derate level of one channel after an interval (R293): it rises at once, and falls a step after 10 consecutive intervals at least 2 °C below
the bound of its row. Without a reading it is held (R296). -/
def State.derateStep (s : State) (high : Int) (c : Nat) : State :=
  let cur := s.derate c
  match Tbl.lookD s.qos.dimm none c with
  | none => s.setCool c 0
  | some t =>
    let n := derateFor high t
    if cur < n then (s.setDerate c n).setCool c 0
    else if cur ≠ 0 ∧ t ≤ derateBound high cur - 32 then
      let k := Tbl.lookD s.qos.cooler 0 c + 1
      if k = 10 then (s.setDerate c (cur - 1)).setCool c 0 else s.setCool c k
    else s.setCool c 0

/-- The level in use after an interval with a computed level (R289): it falls at once, and rises a step when the computed level has stayed
above it for 10 intervals. -/
def State.levelStep (s : State) (n : Nat) : State :=
  let cur := s.rd Reg.GLB_GOV_STATUS_LEVEL
  let count (k : Nat) (s : State) : State := { s with qos := { s.qos with above := k } }
  if n < cur then count 0 (s.wr Reg.GLB_GOV_STATUS_LEVEL n)
  else if n = cur then count 0 s
  else if s.qos.above = 10 then count (if n = cur + 1 then 0 else 1) (s.wr Reg.GLB_GOV_STATUS_LEVEL (cur + 1))
  else count (s.qos.above + 1) s

/-- Writes the outputs of Table 12.1 for the level in use. -/
def State.govOutputs (s : State) : State :=
  let l := s.rd Reg.GLB_GOV_STATUS_LEVEL
  let pd : BitVec 16 := if l = 7 ∧ s.flag Reg.GLB_GOV_TEMP_NO_PD_AT_FULL = true then 0 else 0xFFFF
  let sr : BitVec 16 := if l ≤ 3 then 0xFFFF else 0
  let s := { s with qos := { s.qos with share := levelShare l, lastGov := s.tick } }
  let s := s.wr Reg.QOS_BE_SCALE_SCALE (levelScale l)
  s.liveChans.foldl (fun s c => (s.pdAllow c pd).srAllow c sr) s

/-- The power input is missing (Table 12.7): GTH_LINK_UP is 0, or no frame has arrived in the interval just ended. -/
def State.powerLost (s : State) : Bool := s.qos.frames == [] || !s.flag Reg.GLB_CLK_STATUS_GTH_LINK_UP

/-- P, the mean power of the interval's frames, in W (R287). -/
def State.meanPower (s : State) : Nat := s.qos.frames.sum / (100 * max 1 s.qos.frames.length)

/-- The computed power level (R288, Table 12.7): the limit 0 sets 7, and lost frames hold the level. -/
def State.govPower (s : State) : Nat :=
  if s.rd Reg.GLB_GOV_CFG_PWR_LIMIT = 0 then 7
  else if s.powerLost then min (s.rd Reg.GLB_GOV_STATUS_PWR_LEVEL) 3
  else powerLevel s.qos.frames.sum s.qos.frames.length (s.rd Reg.GLB_GOV_CFG_PWR_LIMIT)

/-- The computed thermal level (R288, Table 12.7). -/
def State.govTherm (s : State) : Nat :=
  if s.tempHeld then min (s.rd Reg.GLB_GOV_STATUS_THERM_LEVEL) 3
  else
    let tj : Int := 16 * s.rd Reg.GLB_GOV_TEMP_TJ_HIGH
    let dh : Int := 16 * s.rd Reg.GLB_GOV_TEMP_DIMM_HIGH
    let die := match hottest s.dieReadings with | some e => tj - e.2 | none => 0
    match hottest s.dimmReadings with
    | some e => thermLevel (min die (dh - e.2))
    | none => thermLevel die

/-- The power figures of an interval are shown. -/
def State.showPower (s : State) : State :=
  if s.powerLost then s
  else (s.wr Reg.GLB_GOV_POWER_P_AVG (min 0xFFFF s.meanPower)).wr Reg.GLB_GOV_POWER_P_PEAK (min 0xFFFF (s.qos.frames.foldl max 0 / 100))

/-- The hottest readings are shown. -/
def State.showHot (s : State) : State :=
  let s := match hottest s.dieReadings with
    | some e => (s.wr Reg.GLB_GOV_HOT_DIE_MAX (twos 12 e.2)).wr Reg.GLB_GOV_HOT_DIE_SRC e.1
    | none => s
  match hottest s.dimmReadings with
  | some e => (s.wr Reg.GLB_GOV_HOT_DIMM_MAX (twos 12 e.2)).wr Reg.GLB_GOV_HOT_DIMM_CH e.1
  | none => s

/-- The events of an interval (R299). -/
def State.govEvents (s : State) (oldP oldT p t : Nat) : State :=
  let s := if p = 0 ∧ oldP ≠ 0 then s.raise 0x2107 s.meanPower else s
  let tj : Int := 16 * s.rd Reg.GLB_GOV_TEMP_TJ_HIGH
  match hottest s.dieReadings with
  | some e => if t = 0 ∧ oldT ≠ 0 ∧ tj - e.2 < 0 then s.raise 0x0106 e.1 else s
  | none => s

/-- An interval may run (R287): each boundary of 100 µs has one, counted in ticks (R4), and the pair that runs it must be healthy (R297). -/
def State.govDue (s : State) : Bool := !s.isSafe && s.dutyUp 1 && decide (s.qos.lastGov / s.us100 < s.tick / s.us100)

/-- The registers that show what an interval has computed (R289, R296). -/
def State.showLevels (s : State) (p t : Nat) : State :=
  let s := (s.wr Reg.GLB_GOV_STATUS_PWR_LEVEL p).wr Reg.GLB_GOV_STATUS_THERM_LEVEL t
  let s := (s.setFlag Reg.GLB_GOV_STATUS_PWR_LOST s.powerLost).setFlag Reg.GLB_GOV_STATUS_TEMP_LOST s.tempLost
  s.showPower.showHot.wr Reg.GLB_GOV_STATUS_OWNER (s.dutyOwner 1)

/-- One governor interval (R287): levels, derate levels, outputs and events; the frames of the next interval are collected anew. -/
def State.govInterval (s : State) : State :=
  if !s.govDue then s
  else
    let oldP := s.rd Reg.GLB_GOV_STATUS_PWR_LEVEL
    let oldT := s.rd Reg.GLB_GOV_STATUS_THERM_LEVEL
    let p := s.govPower
    let t := s.govTherm
    let s := (s.showLevels p t).levelStep (min p t)
    let s := if s.rd Reg.GLB_GOV_STATUS_LEVEL = 0 then s.sat Reg.GLB_GOV_STATUS_LEVEL0_INTERVALS 1 else s
    let s := s.liveChans.foldl (fun (s : State) c => s.derateStep (16 * s.rd Reg.GLB_GOV_TEMP_DIMM_HIGH) c) s
    let s := s.govOutputs.govEvents oldP oldT p t
    { s with qos := { s.qos with frames := [] } }

/-- GOVERNOR_INTERVAL (R287). -/
def execGovernorInterval (dies : List (Option Int)) (s : State) : Host.Outcome State Fault Refusal := .next ((s.noteDies dies).govInterval)

/-- The DIMM temperatures of a channel are read (R287): its hottest DIMM, or none while a sensor does not read. -/
def State.dimmTemp (s : State) (c : Nat) (temps : List (Option Int)) : State :=
  let t := if temps.any Option.isNone then none else (temps.filterMap id).foldl (fun (b : Option Int) x => some (max x (b.getD x))) none
  if s.chLive c then { s with qos := { s.qos with dimm := Tbl.put s.qos.dimm c t } } else s

/-- DIMM_TEMP_READ (R287). -/
def execDimmTempRead (c : Chan) (temps : List (Option Int)) (s : State) : Host.Outcome State Fault Refusal := .next (s.dimmTemp c temps)

/-- The die readings that the backstop's own hardware compares: every sensor that reads, under the number of its die. -/
def State.rawDies (s : State) : List (Nat × Int) := s.qos.sensors.map (fun (e : Nat × Int) => (dieOf e.1, e.2))

/-- The dies and the channels' DIMMs that are more than 5 °C over their limits (R298). -/
def State.overDies (s : State) : List (Nat × Int) := s.rawDies.filter (fun (e : Nat × Int) => decide (16 * (s.rd Reg.GLB_GOV_TEMP_TJ_HIGH : Int) + 80 < e.2))
def State.overDimms (s : State) : List (Nat × Int) := s.dimmReadings.filter (fun (e : Nat × Int) => decide (16 * (s.rd Reg.GLB_GOV_TEMP_DIMM_HIGH : Int) + 80 < e.2))

/-- What the event of the backstop names: the hottest die over its limit, else 10h + the channel of the hottest DIMM. -/
def State.overSource (s : State) : Option Nat :=
  match hottest s.overDies, hottest s.overDimms with
  | some e, _ => some e.1
  | none, some e => some (0x10 + e.1)
  | none, none => none

/-- The thermal backstop (R298): with a die or DIMM 5 °C over its limit and no interval for 1 ms, governed work stops and the channels of the hot
DIMMs are derated fully, also those that pass the limit while it lasts. It raises its event once, when it begins; it lasts while the share is 0. -/
def State.backstop (s : State) : State :=
  match s.overSource with
  | none => s
  | some x =>
    if s.tick < s.qos.lastGov + s.ms then s
    else
      let t := s.overDimms.foldl (fun s (e : Nat × Int) => s.setDerate e.1 3) { s with qos := { s.qos with share := 0 } }
      if s.qos.share = 0 then t else (t.setFlag Reg.GLB_GOV_STATUS_BACKSTOP true).raise 0x0105 x

/-- THERMAL_BACKSTOP (R298): the readings of the five dies' own sensors, with those of the channels and DIMMs as last read. -/
def execThermalBackstop (dies : List (Option Int)) (s : State) : Host.Outcome State Fault Refusal := .next (s.noteDies dies).backstop

end Sys2Proof.Machine
end

