-- ==== Sys2Proof/Machine/Port.lean ====
section
/-! DEFINITION. What arrives at a head's port: the CXL.mem requests of Tables 3.1 and 4.3 (R51 to R54, R81 to R84, R88, R101, R267 to R272,
R367), BIRsp, BIConflict and BI credits (R97, R106, R107, R114). -/
namespace Sys2Proof.Machine

/-! ### Arrival -/

/-- A CXL.mem credit is left for a request of a head: 256 M2S Req and 256 M2S RwD entries, held fences among the latter (R83, R88). (DESIGN CHOICE, unsafe, log entry 29) -/
def State.hasCredit (s : State) (h : Nat) (rwd : Bool) : Bool :=
  let n := (s.path.ingress.filter (fun q => q.src == .head h && (q.op == .wr) == rwd)).length
  let held := if rwd then (s.path.fences.filter (fun (f : Fence) => f.head == h)).length - 64 else 0
  decide (n + held < 256)

/-- Numbers of the writes of a head that are neither accepted nor ended. -/
def State.openWrites (s : State) (h : Nat) : List Nat :=
  let own (q : Req) : Bool := q.src == .head h && q.op == .wr
  (s.path.ingress.filter own).map (·.id) ++ ((s.path.txns ++ s.dir.bench).filter (fun t => own t.req)).map (·.req.id)

/-- The sampling unit examines a request (R367): it counts a match and selects every PERIOD-th. (DEDUCED, unsafe, log entry 26) -/
def State.examine (s : State) (q : Req) (h : Nat) : State × Req :=
  let c := s.rd Reg.CAT_SAMP_CTL_CLASS
  if s.flag Reg.CAT_SAMP_CTL_ENABLE && s.bit Reg.CAT_SAMP_HEADS_HEAD_MASK h && (c == 0xFF || q.cls == some c) then
    let n := s.cat.matched + 1
    let per := max 1 (s.rd Reg.CAT_SAMP_CTL_PERIOD)
    ({ s with cat := { s.cat with matched := n } }, { q with sampled := n % per == 0 })
  else (s, q)

/-- The label and bucket of a request (R51, R267): those of its alias copy, else the head's DEFAULT_LABEL and bucket 0. -/
def State.labelOf (s : State) (h : Nat) : Decoded → Nat × Nat
  | .dpa _ label bucket true => (label, bucket)
  | .hole label bucket => (label, bucket)
  | .bell label bucket => (label, bucket)
  | _ => (s.rd (Reg.QOS_HEAD_CTL_DEFAULT_LABEL h), 0)

/-- A decoded request takes its class, tier and deadline, counted by Table 16.1, and is examined for a sample (R267 to R272, R367). -/
def State.classify (s : State) (q : Req) (h : Nat) (x : Decoded) : State × Req :=
  let cls := s.classOf h (s.labelOf h x).1
  let bucket := (s.labelOf h x).2
  let tier := s.tierOf cls
  let q : Req := { q with cls := cls, tier := tier, bucket := bucket, deadline := s.deadlineOf cls bucket }
  let s := match cls with
    | none => s.cnt 0x0204 (.head h)
    | some c =>
      if tier = 0 then s.cnt 0x0201 (.req h cls)
      else if s.overBudget c then s.cnt 0x0202 (.req h cls) else s
  s.examine q h

/-- A request that ends at the port, without reaching a slice. -/
def State.endAtPort (s : State) (q : Req) (h : Nat) (f : Ending) : State :=
  s.finish { req := q, slice := 0, kind := kindOf q false, source := if q.op = .wr then 7 else 3 } f false

/-- An unbacked access at the port (R53): its event names the LD and the address. (DEDUCED, unsafe, log entry 26) -/
def State.unbackedAtPort (s : State) (q : Req) (h arg : Nat) : State :=
  ((s.cnt 0x0109 (.req h q.cls)).raise 0x0102 q.ld arg).endAtPort q h { data := some 0, poison := true, unbacked := true }

/-- A request joins its head's ingress. -/
def State.enqueue (s : State) (q : Req) : State := { s with path := { s.path with ingress := s.path.ingress ++ [q] } }

/-- A write to the doorbell line is a fence over the head's earlier writes (R81): those that are open, and those discarded since its previous fence (R93). Its label and bucket
have no effect (R52). (DEDUCED, unsafe, log entry 79) -/
def State.ring (s : State) (h ld tag : Nat) : State :=
  let f : Fence := { head := h, ld := ld, tag := tag, mark := s.path.nextId, waits := s.openWrites h, fault := (s.hd h).lostWrite }
  let s := s.updHead h (fun (x : HeadSt) => { x with lostWrite := false })
  ({ s with path := { s.path with fences := s.path.fences ++ [f] } }).showFences h

/-- The device DPA of a request of a head: that of the port's copy of the map, or, for snoop data, that of an extent whose release waits for it (R57). -/
def State.reqDpa (s : State) (d : Ld) (h ldDpa : Nat) (op : ReqOp) : Option Nat :=
  match s.portDpa d ldDpa with
  | some x => some x
  | none => match d.extentAt (ldDpa / 2 ^ 28) (fun e => e.releasing) with
    | none => none
    | some e =>
      let x := (e.unit + (ldDpa / 2 ^ 28 - e.ldUnit)) * 2 ^ 28 + ldDpa % 2 ^ 28
      if op = .wr ∧ (s.exchFor h (x / 64)).isSome then some x else none

/-- What the LD's state says of a new request (Table 2.10, R66, R117). -/
inductive Welcome | serve | drain | error | miss
deriving DecidableEq, Repr

/-- An LD's answer to new memory requests: ACTIVE serves, DRAINING takes snoop data and ClnEvct, a disabled or STOPPING LD completes with
error, and an LD that does not decode memory has no decoder to hit. -/
def Ld.welcome (d : Ld) : Welcome :=
  match d.st with
  | .active => if d.disabled then .error else .serve
  | .draining => .drain
  | .stopping => .error
  | _ => if d.disabled then .error else .miss

/-- What a request of an LD decodes to: nothing while the LD decodes no memory. -/
def Ld.decodes (d : Ld) (hpa : Nat) : Decoded := if d.welcome = .miss then .miss else d.decode hpa

/-- A write to the fence doorbell of an LD that serves (R52, R81). -/
def Ld.rings (d : Ld) (hpa : Nat) (op : ReqOp) : Bool :=
  d.welcome == .serve && op == .wr && (match d.decode hpa with | .bell .. => true | _ => false)

/-- A classed request of an LD is served, by the state of the LD and what it decodes to (R52, R53, R66, R387). -/
def State.portServe (s : State) (d : Ld) (q : Req) (h hpa : Nat) : State :=
  match d.welcome, d.decodes hpa with
  | .error, _ => s.endAtPort q h { error := true }
  | .drain, .dpa a _ _ _ => match s.reqDpa d h a q.op with
    | none => s.endAtPort q h { error := true }
    | some x =>
      let q : Req := { q with line := x / 64, ldDpa := a }
      if q.op = .evict ∨ (q.op = .wr ∧ (s.exchFor h q.line).isSome) then s.enqueue q else s.endAtPort q h { error := true }
  | .drain, _ => s.endAtPort q h { error := true }
  | _, .miss => s.unbackedAtPort q h (hpa % 2 ^ 52 + 2 ^ 63)
  | _, .bell .. => s.endAtPort q h { data := some 0, mv := q.mv }
  | _, .hole .. => s.endAtPort q h { data := some 0, mv := q.mv }
  | _, .dpa a _ _ _ => match (if s.boot.memActive then s.reqDpa d h a q.op else none) with
    | none => s.unbackedAtPort q h (a % 2 ^ 52)
    | some x => s.enqueue { q with line := x / 64, ldDpa := a }

/-- A head can send CXL.mem requests. -/
def State.memUp (s : State) (h : Nat) : Bool := s.linkUp h && s.flag (Reg.GLB_HEAD_STATUS_MEM_OK h) && !s.isSafe

/-- A CXL.mem request arrives at a head's port. Memory reads as unbacked until Mem_Active is set (R387); so does a request of an LD that the head does not have, which has no LD to name. -/
def State.memArrive (s : State) (r : MemReq) (op : ReqOp) (data : BitVec 512) (be : BitVec 64) (poison : Bool) : State :=
  let h : Nat := r.head
  if s.memUp h && s.hasCredit h (op == .wr) then
    let s := s.wakeLink h
    let q : Req := { id := s.path.nextId, src := .head h, ld := 64, op := op, line := 0, tag := r.tag.toNat, snp := r.snp, mv := r.mv,
                     data := data, be := be, poison := poison, arrival := s.tick }
    let s := s.newId
    match s.ldOfReq h r.ldId with
    | none =>
      let (s, q) := s.classify q h .miss
      (s.cnt 0x0109 (.req h q.cls)).endAtPort q h { data := some 0, poison := true, unbacked := true }
    | some i => match s.ld? i with
      | none => s
      | some d =>
        if d.rings r.hpa op then s.ring h i q.tag
        else
          let (s, q) := s.classify { q with ld := i } h (d.decodes r.hpa)
          s.portServe d q h r.hpa
  else s

/-- A MemSpecRd arrives (R101, R367): a hint that starts nothing. It takes its class as any request does, and a selected one leaves its record at once, since it has no completion. (DEDUCED,
unsafe, log entry 26) -/
def State.hint (s : State) (r : MemReq) : State :=
  let h : Nat := r.head
  if s.memUp h && s.hasCredit h false then
    let s := s.wakeLink h
    let d := (s.ldOfReq h r.ldId).bind s.ld?
    let x := (d.map (fun d => d.decodes r.hpa)).getD .miss
    let line := match d, x with
      | some d, .dpa a _ _ _ => ((s.reqDpa d h a .rd).getD 0) / 64
      | _, _ => 0
    let q : Req := { id := s.path.nextId, src := .head h, ld := (s.ldOfReq h r.ldId).getD 64, op := .rd, line := line, tag := r.tag.toNat, snp := r.snp, mv := r.mv, arrival := s.tick }
    let (s, q) := s.classify q h x
    s.sample { req := q, slice := 0, kind := 7, source := 7, pstate := formCode (s.acc q.page).form } h {}
  else s

/-- MEMRD (R51, R101). -/
def execMemRd (r : MemReq) (s : State) : Host.Outcome State Fault Refusal := .next (s.memArrive r .rd 0 0 false)
/-- MEMRDDATA (R101). -/
def execMemRdData (r : MemReq) (s : State) : Host.Outcome State Fault Refusal := .next (s.memArrive r .rdData 0 0 false)
/-- MEMINV (R101). -/
def execMemInv (r : MemReq) (s : State) : Host.Outcome State Fault Refusal := .next (s.memArrive r .inv 0 0 false)
/-- MEMCLNEVCT (R101). -/
def execMemClnEvct (r : MemReq) (s : State) : Host.Outcome State Fault Refusal := .next (s.memArrive r .evict 0 0 false)
/-- MEMSPECRD (R101, R367): accepted as a hint, it starts nothing. -/
def execMemSpecRd (r : MemReq) (s : State) : Host.Outcome State Fault Refusal := .next (s.hint r)
/-- MEMWR (R71, R259): all 64 bytes. -/
def execMemWr (r : MemReq) (data : BitVec 512) (poison : Bool) (s : State) : Host.Outcome State Fault Refusal :=
  .next (s.memArrive r .wr data (BitVec.allOnes 64) poison)
/-- MEMWRPTL (R75, R259): the bytes the enables name. -/
def execMemWrPtl (r : MemReq) (data : BitVec 512) (be : BitVec 64) (poison : Bool) (s : State) : Host.Outcome State Fault Refusal :=
  .next (s.memArrive r .wr data be poison)

/-! ### Back-invalidate responses -/

/-- A BIRsp is admitted (R106): it ends the wait for its head, or is late and is discarded and counted (R114). A snooped head's data comes before
its answer, so an answer waits for data of the head that is not yet accepted. (DESIGN CHOICE, safe, log entry 74) -/
def State.birsp (s : State) (h line : Nat) (r : BiRsp) : State :=
  if s.linkUp h && !s.isSafe then
    match s.dir.exchs.find? (fun x => x.line == line && x.waits.any (fun w => w.head == h && w.sent)) with
    | none => s.cnt 0x0606 (.head h)
    | some x =>
      let waits (q : Req) : Bool := q.op == .wr && q.line == line && q.src == .head h
      if s.path.txns.any (fun t => t.snoop && waits t.req) || s.path.ingress.any waits then s
      else
        let got := x.waits.any (fun w => w.head == h && w.gotData)
        let s := s.cnt (if got then 0x0602 else 0x0603) (.head h)
        let inv := x.waits.any (fun w => w.head == h && w.snp == .inv)
        let x := { x with kept := some (if inv then .i else r) }
        (s.setExch x).endWait x h
  else s

/-- BIRSP (R102, R106). -/
def execBirsp (h : Head) (line : Nat) (r : BiRsp) (s : State) : Host.Outcome State Fault Refusal := .next (s.birsp h line r)

/-- BIConflict is answered with BIConflictAck (R107). The head's own request waits behind the exchange, so its completion follows. -/
def State.biConflict (s : State) (h line : Nat) : State :=
  if s.canSend h then (s.wakeLink h).emit (.biConflictAck h line) else s

/-- BICONFLICT (R107). -/
def execBiConflict (h : Head) (line : Nat) (s : State) : Host.Outcome State Fault Refusal := .next (s.biConflict h line)

/-- Sends the oldest BISnp of a head that waits for a credit. -/
def State.sendWaiting (s : State) (h n : Nat) : State :=
  match n with
  | 0 => s
  | n + 1 =>
    let credit := Tbl.lookD s.dir.credits 0 h
    match s.dir.exchs.find? (fun x => x.waits.any (fun w => w.head == h && !w.sent)) with
    | none => s
    | some x =>
      if credit = 0 then s
      else
        let snp := ((x.waits.find? (fun w => w.head == h && !w.sent)).map (·.snp)).getD .inv
        let s := { s with dir := { s.dir with credits := Tbl.putD s.dir.credits 0 h (credit - 1) } }
        let s := s.setExch { x with waits := x.waits.map (fun w => if w.head = h then { w with sent := true } else w) }
        State.sendWaiting (s.sendBisnp h x.line snp) h n

/-- A head returns BI credits, and BISnp that waited for one are sent (R97). (DESIGN CHOICE, unsafe, log entry 29) -/
def State.biCredits (s : State) (h n : Nat) : State :=
  if s.linkUp h && !s.isSafe then
    ({ s with dir := { s.dir with credits := Tbl.upd s.dir.credits 0 h (· + n) } }).sendWaiting h n
  else s

/-- BI_CREDIT_RETURN (R97). -/
def execBiCreditReturn (h : Head) (n : Nat) (s : State) : Host.Outcome State Fault Refusal := .next (s.biCredits h n)

/-- A drain's BISnp that ends without a BIRsp sets DRAIN_POISONED (R118). -/
def State.drainMark (s : State) (x : Exch) : State :=
  match x.why with
  | .drain i => s.updLd i (fun d => { d with drainPoisoned := true })
  | _ => s

/-- A BISnp's timer has reached DIR_BI_TIMEOUT (R114). -/
def State.biTimeout (s : State) (h line : Nat) : State :=
  if s.isSafe then s
  else match s.exchFor h line with
    | none => s
    | some x =>
      if x.waits.any (fun w => w.head == h && decide (w.start + s.rd Reg.DIR_BI_TIMEOUT_BI_TIMEOUT ≤ s.tick)) then
        (s.drainMark x).biTimedOut x h
      else s

/-- BI_TIMEOUT (R114). -/
def execBiTimeout (h : Head) (line : Nat) (s : State) : Host.Outcome State Fault Refusal := .next (s.biTimeout h line)

end Sys2Proof.Machine
end

