-- ==== Sys2Proof/Machine/Walks.lean ====
section
/-! DEFINITION. Directory walks (R116 to R118), directory probes (DIR_PROBE_ADDR), and the release of extents (R57, R130). -/
namespace Sys2Proof.Machine

/-! ### Pages that return to UNWRITTEN -/

/-- A page is UNWRITTEN already. -/
def Acc.isUnwritten (a : Acc) : Bool := match a.form with | .unwritten _ => true | _ => false

/-- A page returns to UNWRITTEN with its media freed, and what the buffer held of it is dropped (R130). -/
def State.clearPage (s : State) (p : Nat) : State := (s.wcbDropPage p).toUnwritten p false

/-- Firmware has a page returned to UNWRITTEN: a request to its home slice through the Docent access port (R22, R23). The commands and events that return the pages of a range make these
requests in the one step in which they take effect, when nothing maps or uses the pages any longer. (DEDUCED, unsafe, log entry 96) -/
def State.askClear (s : State) (p : Nat) : State := (s.noteAdmit (homeSlice p) 19).clearPage p

/-! ### Releasing extents -/

/-- A 256 MiB unit is mapped by an extent other than those of an LD that start at an LD DPA unit and are being released. -/
def State.mappedElse (s : State) (i ldUnit unit : Nat) : Bool :=
  s.lds.any (fun (e : Nat × Ld) => e.2.exts.any (fun x => !(e.1 == i && x.ldUnit == ldUnit && x.releasing) && x.unit ≤ unit && unit < x.unit + x.len))

/-- The extents of an LD that start at an LD DPA unit and are being released. -/
def State.going (s : State) (i ldUnit : Nat) : List Extent :=
  match s.ld? i with
  | none => []
  | some d => d.exts.filter (fun e => e.ldUnit == ldUnit && e.releasing)

/-- A released extent is still in force at a home slice. -/
def State.goingAt (s : State) (i ldUnit slice : Nat) : Bool := (s.going i ldUnit).any (fun e => e.slices.getLsbD slice)

/-- The release of the extents of an LD that start at an LD DPA unit begins (R57): each home slice drops them in its arbiter order, and for
an HDM-DB region a walk invalidates the lines that the directory lists for the releasing head. -/
def State.releaseExtent (s : State) (i ldUnit : Nat) : State :=
  match s.ld? i with
  | none => s
  | some d =>
    let es := d.exts.filter (fun e => e.ldUnit == ldUnit && !e.releasing)
    let db := es.any (fun e => s.isDb (e.unit * 65536))
    let s := s.updLd i (fun d => { d with exts := d.exts.map (fun e => if e.ldUnit = ldUnit then { e with releasing := true } else e) })
    if db then { s with dir := { s.dir with walks := s.dir.walks ++ [{ why := .release i ldUnit, head := d.head }] } } else s

/-! ### The walk -/

/-- A walk acts on this entry: a disable concerns every line that lists the head (Table 2.10, R116). -/
def State.walkWants (s : State) (w : Walk) (e : DirEntry) : Bool :=
  match w.why with
  | .graceful _ => e.sharers.getLsbD w.head
  | .abrupt _ => e.sharers.getLsbD w.head
  | .release i u => e.sharers.getLsbD w.head && (s.going i u).any (fun x =>
      x.unit ≤ unitOfPage (pageOf e.line) && unitOfPage (pageOf e.line) < x.unit + x.len)

/-- Where a walk stands in a slice. -/
def Walk.at (w : Walk) (slice : Nat) : Nat := Tbl.lookD w.next 0 slice

/-- A walk has passed every set of every slice. -/
def Walk.done (w : Walk) : Bool := (List.range 32).all (fun sl => w.at sl == 16384)

/-- The first entry of a slice at or after a set that the walk acts on: sets without one need no action (DEDUCED, safe, log entry 12). -/
def State.walkNext (s : State) (w : Walk) (slice : Nat) : Option Nat :=
  (s.dir.ways.find? (fun (e : Nat × DirEntry) => e.1 / 16 / 16384 == slice && decide (w.at slice ≤ e.1 / 16 % 16384) && s.walkWants w e.2)).map
    (fun e => e.1 / 16 % 16384)

/-- The action of a walk on one entry (R116). A head that can no longer be snooped leaves the entry at once (R117). -/
def State.walkAct (s : State) (w : Walk) (e : DirEntry) : State :=
  let snoop (why : ExchWhy) : State := if s.snoopable w.head e.line then s.openExch e.line why [w.head] .inv else s.abruptLine w.head e.line
  match w.why with
  | .graceful i => snoop (.drain i)
  | .release i u => snoop (.release i u (s.mappedElse i u (unitOfPage (pageOf e.line))))
  | .abrupt _ => s.abruptLine w.head e.line

/-- A release walk waits at a slice until the extent has left it (R57). (DEDUCED, safe, log entry 12) -/
def State.walkHeld (s : State) (w : Walk) (slice : Nat) : Bool :=
  match w.why with
  | .release i u => s.goingAt i u slice
  | _ => false

/-- A walk that sends BISnp meets an open transaction or exchange on a line: it waits for it (R108). (DEDUCED, unsafe, log entry 28) -/
def State.walkBlocked (s : State) (w : Walk) (line : Nat) : Bool :=
  match w.why with
  | .abrupt _ => false
  | _ => s.pinned line

/-! ### Sanitising (R350) -/

/-- What is left of ranges once page p has been returned: the ranges before it have been passed. -/
def rangesAfter (p : Nat) (rs : List (Nat × Nat)) : List (Nat × Nat) :=
  match rs.dropWhile (fun r => !decide (r.1 ≤ p ∧ p ≤ r.2)) with
  | [] => []
  | r :: rest => if p < r.2 then (p + 1, r.2) :: rest else rest

/-- Changes the sanitise of some ranges. -/
def State.updClear (s : State) (rs : List (Nat × Nat)) (f : Sanit → Sanit) : State :=
  { s with mgmt := { s.mgmt with clears := s.mgmt.clears.map (fun x => if x.ranges = rs then f x else x) } }

/-- The page whose turn it is returns to UNWRITTEN, and is counted unless it was so already. -/
def State.clearTurn (s : State) (x : Sanit) (p : Nat) : State :=
  let n := if (s.acc p).isUnwritten then 0 else 1
  (s.updClear x.ranges (fun x => { x with left := rangesAfter p x.left, cur := none, count := x.count + n })).clearPage p

/-- A snoop of a sanitise is open on a line of a page. -/
def State.clearSnoops (s : State) (p : Nat) : Bool := s.dir.exchs.any (fun x => x.why == .sanitise && pageOf x.line == p)

/-- Every head that the directory lists for a line of a page is snooped (R116, R350); one that can be snooped no longer leaves its entry at once (R117). -/
def State.clearWalk (s : State) (p : Nat) : State :=
  ((s.dir.ways.filter (fun (e : Nat × DirEntry) => pageOf e.2.line == p)).map (fun (e : Nat × DirEntry) => e.2.line)).foldl (fun s l =>
    let s := s.cleanStopped l
    match s.entry? l with
    | some (_, e) => s.openExch l .sanitise (headsOf e.sharers) .inv
    | none => s) s

/-- A sanitise goes on at a slice: the turn of its next page comes, in the turn of the Docent access port, once the requests admitted before it have ended and no move runs; the page returns to
UNWRITTEN when its snoops have ended. (DEDUCED, unsafe, log entry 30) -/
def State.clearStep (s : State) (slice : Nat) : State :=
  match s.mgmt.clears.find? (fun x => (x.cur.or (s.clearNext x)).any (fun p => homeSlice p == slice)) with
  | none => s
  | some x => match x.cur, s.clearNext x with
    | some p, _ => if s.clearSnoops p then s else s.clearTurn x p
    | none, some p =>
      if s.pageBusy p || !s.turn slice 19 || s.path.restart.contains slice then s
      else
        let t := ((s.noteAdmit slice 19).updClear x.ranges (fun x => { x with cur := some p })).clearWalk p
        if t.clearSnoops p then t else t.clearTurn x p
    | none, none => s

/-- One slice reads a set of the oldest walk it has not finished, or goes on with a sanitise. (DEDUCED, safe, log entry 12) -/
def State.walkStep (s : State) (slice : Nat) : State :=
  if s.isSafe then s
  else match s.dir.walks.find? (fun w => w.at slice != 16384 && !s.walkHeld w slice) with
    | none => s.clearStep slice
    | some w =>
      let move (n : Nat) (s : State) : State :=
        { s with dir := { s.dir with walks := s.dir.walks.map (fun v => if v = w then { v with next := Tbl.put v.next slice n } else v) } }
      match s.walkNext w slice with
      | none => move 16384 s
      | some set =>
        let es := (List.range 16).filterMap (fun k => match Tbl.look s.dir.ways (dirKey slice set k) with
          | some e => if s.walkWants w e then some e else none
          | none => none)
        if es.any (fun e => s.walkBlocked w e.line) then s
        else es.foldl (fun s e => s.walkAct w e) (move (set + 1) s)

/-- DIRECTORY_WALK_STEP (R116). -/
def execDirectoryWalkStep (sl : SliceIx) (s : State) : Host.Outcome State Fault Refusal := .next (s.walkStep sl)

/-- Every walk of a kind is done and every BISnp it caused has ended. -/
def State.walkOver (s : State) (isIt : WalkWhy → Bool) (ofIt : ExchWhy → Bool) : Bool :=
  s.dir.walks.all (fun w => !isIt w.why || w.done) && s.dir.exchs.all (fun x => !ofIt x.why)

/-- Forgets the walks of a kind. -/
def State.dropWalks (s : State) (isIt : WalkWhy → Bool) : State :=
  { s with dir := { s.dir with walks := s.dir.walks.filter (fun w => !isIt w.why) } }

/-! ### The end of a release -/

/-- A released extent leaves the port's copy of the map once it has left every slice (R57). -/
def State.portDrop (s : State) (i ldUnit : Nat) : State :=
  s.updLd i (fun d => { d with exts := d.exts.map (fun e =>
    if e.ldUnit = ldUnit ∧ e.releasing = true ∧ e.slices = 0 then { e with port := false } else e) })

/-- EXTENT_PORT_DROP (R57). -/
def execExtentPortDrop (i : LdIx) (ldUnit : Nat) (s : State) : Host.Outcome State Fault Refusal := .next (s.portDrop i ldUnit)

/-- The release walk or exchange of an extent. -/
def isRelease (i u : Nat) : WalkWhy → Bool
  | .release j v => j == i && v == u
  | _ => false

def isReleaseExch (i u : Nat) : ExchWhy → Bool
  | .release j v _ => j == i && v == u
  | _ => false

/-- The pages of released extents that no LD maps any longer. -/
def State.orphans (s : State) (i ldUnit : Nat) : List Nat :=
  (s.going i ldUnit).flatMap (fun e =>
    (s.pagesIn (e.unit * 65536) ((e.unit + e.len) * 65536 - 1)).filter (fun p => !s.mappedElse i ldUnit (unitOfPage p)))

/-- A line of the extents being released still lists the releasing head: a request admitted before the release has made its entry behind the walk (R123). -/
def State.releaseLeft (s : State) (i ldUnit : Nat) : Bool :=
  let es := s.going i ldUnit
  let h := ((s.ld? i).map (fun (d : Ld) => d.head)).getD 0
  s.dir.ways.any (fun (e : Nat × DirEntry) =>
    let u := unitOfPage (pageOf e.2.line)
    e.2.sharers.getLsbD h && es.any (fun (x : Extent) => decide (x.unit ≤ u ∧ u < x.unit + x.len)))

/-- The walks of a kind start again at the first set. -/
def State.rewalk (s : State) (isIt : WalkWhy → Bool) : State :=
  { s with dir := { s.dir with walks := s.dir.walks.map (fun (w : Walk) => if isIt w.why then { w with next := [] } else w) } }

/-- A release completes: its invalidations have ended, the extents leave the map, and pages that no LD maps return to UNWRITTEN (R57). It
waits for the requests that were admitted before it, and walks again for the entries they have made since (R123). -/
def State.releaseDone (s : State) (i ldUnit : Nat) : State :=
  let es := s.going i ldUnit
  let ps := s.orphans i ldUnit
  if es.isEmpty || es.any (fun e => e.port || e.slices != 0) || !s.walkOver (isRelease i ldUnit) (isReleaseExch i ldUnit) || ps.any s.pageBusy then s
  else if s.dir.walks.any (fun (w : Walk) => isRelease i ldUnit w.why) && s.releaseLeft i ldUnit then s.rewalk (isRelease i ldUnit)
  else
    let s := s.dropWalks (isRelease i ldUnit)
    let s := s.updLd i (fun d => { d with exts := d.exts.filter (fun x => !(x.ldUnit == ldUnit && x.releasing)) })
    ps.foldl State.askClear s

/-- EXTENT_RELEASE_DONE (R57). -/
def execExtentReleaseDone (i : LdIx) (ldUnit : Nat) (s : State) : Host.Outcome State Fault Refusal := .next (s.releaseDone i ldUnit)

/-! ### Probes -/

/-- An entry as DIR_PROBE_DATA shows it (Table 4.1). -/
def entryWord (e : DirEntry) (pin : Bool) : Nat :=
  let st := match e.st with | .s => 1 | .f => 2 | .o => 3
  e.line / 2 ^ 19 % 2 ^ 20 + st * 2 ^ 20 + e.sharers.toNat * 2 ^ 22 + e.named * 2 ^ 38 + (if pin then 2 ^ 42 else 0)
    + (if e.evicting then 2 ^ 43 else 0) + e.age * 2 ^ 44

/-- The probe is admitted at its home slice, in the turn of the Docent access port (R23), and captures the entry (DIR_PROBE_DATA). -/
def State.probeCapture (s : State) (slice : Nat) : State :=
  match s.dir.probe with
  | none => s
  | some line =>
    if sliceOfLine line = slice ∧ s.turn slice 19 = true then
      let s := s.noteAdmit slice 19
      let s := match s.entry? line with
        | some (_, e) => (s.wr Reg.DIR_PROBE_DATA_ENTRY (entryWord e (s.pinned line || e.evicting))).setFlag Reg.DIR_PROBE_DATA_HIT true
        | none => (s.wr Reg.DIR_PROBE_DATA_ENTRY 0).setFlag Reg.DIR_PROBE_DATA_HIT false
      let b := s.dir.bench.any (fun t => t.slice == slice && dirSet t.req.line == dirSet line)
      let s := (s.setFlag Reg.DIR_PROBE_DATA_BENCHED b).setFlag Reg.DIR_PROBE_DATA_DONE true
      { s with dir := { s.dir with probe := none } }
    else s

/-- DIR_PROBE_CAPTURE. -/
def execDirProbeCapture (sl : SliceIx) (s : State) : Host.Outcome State Fault Refusal := .next (s.probeCapture sl)

end Sys2Proof.Machine
end

