-- ==== Sys2Proof/Machine/Share.lean ====
section
/-! DEFINITION. Governed work at a slice (R290 to R292, Tables 12.4 and 12.5): which kinds have work that could be admitted now, whose turn it is, and the admission itself. -/
namespace Sys2Proof.Machine

/-! ### Staged moves -/

/-- The lowest free move slot of a slice, when a planned or an inline move may take one (R144): planned moves use at most 12. -/
def State.freeSlot (s : State) (slice : Nat) (inline : Bool) : Option Nat :=
  let used := (List.range 16).filter (fun k => (Tbl.look s.place.slots (slotKey slice k)).isSome)
  let planned := used.filter (fun k => (Tbl.look s.place.slots (slotKey slice k)).any (fun m => !m.inlineThaw))
  if !inline && 12 ≤ planned.length then none else firstBelow 16 (fun k => !used.contains k)

/-- A staged move is an unspill forced by a lease recall, which no level governs (R292). -/
def State.forced (s : State) (m : Planned) : Bool :=
  m.kind == .unspill && (match (s.acc m.page).form with | .spilled l _ _ => s.rd (Reg.GFT_BORROW_STATE l) == 2 | _ => false)

/-- The kind of governed work of a move (Table 12.4). -/
def State.govKind (s : State) (m : Planned) : GovKind :=
  match m.kind with
  | .freeze => .freeze
  | .thaw => .thaw
  | .unspill => .unspill
  | .spill => .spill
  | .rehome => .rehome (match (s.acc m.page).form with | .hot c _ _ => s.derate c != 0 | _ => false)

/-- A move needs a Press engine: a decode of an image (R156), or the page buffer of a rehome's first round (R25). A freeze needs one that is not retired (R158). -/
def State.moveEngine (s : State) (slice : Nat) (m : Planned) : Option Nat :=
  if m.kind = .freeze then s.pickEngine slice (fun e => !s.bit Reg.PRS_RETIRED_ENGINE e) else s.pickEngine slice

/-- A move waits for an engine, every one that it could take being busy (R27). -/
def State.wantsEngine (s : State) (slice : Nat) (m : Planned) : Bool :=
  let needs := match m.kind, (s.acc m.page).form with
    | .thaw, _ => true
    | .rehome, _ => true
    | .freeze, _ => s.rd Reg.PRS_RETIRED_ENGINE != 2 ^ 64 - 1
    | .unspill, .spilled _ _ n => n != 0
    | _, _ => false
  needs && (s.moveEngine slice m).isNone

/-- A staged move goes on waiting at the port: its page is locked by a re-encryption, an overflow or a sanitise (R148), or it waits for an engine. -/
def State.stagedWaits (s : State) (slice : Nat) (m : Planned) : Bool := s.pageLocked m.page || s.wantsEngine slice m

/-- The governor and CURATE let a staged move start, and a slot is free (R144, R290, R292). -/
def State.mayStart (s : State) (slice : Nat) (m : Planned) : Bool :=
  !s.boot.warmEntry && (s.forced m || (s.permits (s.govKind m) && s.flag Reg.CUR_EPOCH_CFG_CURATE)) && (s.freeSlot slice false).isSome

/-- The staged moves of a slice that could start now, the oldest first. -/
def State.startable (s : State) (slice : Nat) : List Staged :=
  s.place.staged.filter (fun (x : Staged) => x.slice == slice && !s.warden.fence.contains x.pair && s.mayStart slice x.move && !s.stagedWaits slice x.move)

/-- Spills are served ahead of the other kinds: the pressure level is RESERVE or EXHAUSTED, and one could start (R291). -/
def State.spillFirst (s : State) (slice : Nat) : Bool :=
  decide (3 ≤ s.rd Reg.CUR_PRESSURE_LEVEL) && (s.startable slice).any (fun (x : Staged) => x.move.kind == .spill)

/-- The staged move that a slice starts next: an unspill that a recall forces ahead of the plan's own moves (R150, R292), at RESERVE and worse a spill (R291), else the oldest. -/
def State.nextStaged (s : State) (slice : Nat) : Option Staged :=
  let l := s.startable slice
  match l.find? (fun (x : Staged) => s.forced x.move) with
  | some x => some x
  | none => match (if s.spillFirst slice then l.find? (fun (x : Staged) => x.move.kind == .spill) else none) with
    | some x => some x
    | none => l.head?

/-! ### The other kinds -/

/-- The device page of page k of the space a pass names: the device's own, or an LD's through its extent map. (DEDUCED, unsafe, log entry 70) -/
def State.passPage (s : State) (x : RangePass) (k : Nat) : Option Nat :=
  match x.ldDpa with
  | none => some k
  | some i => (s.ldToDpa i (k * 4096)).map (fun a => a / 4096)

/-- A pass or the patrol can come to its next page, which lies at a slice: a COLD page needs an engine, and waits for a decode of it that runs (R156,
R157, R256). -/
def State.passReady (s : State) (slice : Nat) (x : RangePass) : Bool :=
  !x.done && !x.stop && x.cur.isNone && !(x.patrol && s.rd Reg.TRL_RAKE_CFG_PERIOD_H == 0) && (s.passPage x x.next).any (fun p =>
    homeSlice p == slice && !s.pageLocked p && (match s.srcForm p with
      | .cold c sh n => !s.decodeRuns p (.cold c sh n) && (s.pickEngine slice).isSome
      | _ => true))

/-- The page a region's retirement comes to next. -/
def retirePage (r : Region) : Nat := r.base * 65536 + r.cursor

/-- A region's retirement can come to its next page (R34, R198, R290). -/
def State.retireWaits (s : State) (r : Region) : Bool :=
  let p := retirePage r
  r.oldValid && decide (r.cursor < r.len * 65536) && s.boot.memActive && !s.boot.warmEntry && s.permits .reencrypt && s.dutyUp 6 && !(s.acc p).isMigrating && !s.pageLocked p

/-- The slice that caches a block or node: the home slice of the block's page, or slice m mod 32 of node m (R192). -/
def State.cacheSlice (s : State) (space : Bool) (level node : Nat) : Nat :=
  if level = 0 then homeSlice (s.lossPage space (node * 8)) else node % 32

/-- A dirty node of the counter cache of a slice could be cleaned ahead of eviction (R34, R193). -/
def State.treeWaits (s : State) (slice : Nat) : Bool :=
  s.permits .tree && s.dutyUp 6 && s.sec.cache.any (fun (e : Nat × CacheBlk) =>
    let (space, level, node) := keyParts e.1
    e.2.dirty && decide (level ≤ 3) && (space || level == 0) && s.cacheSlice space level node == slice)

/-! ### Turns -/

/-- The rows of Table 12.5. -/
inductive GovTurn | moves | scan | range | reencrypt | tree
deriving DecidableEq, Repr

/-- The kinds in the order of the table. -/
def govTurns : List GovTurn := [.moves, .scan, .range, .reencrypt, .tree]

/-- A kind's place in the round. -/
def GovTurn.place (k : GovTurn) : Nat := govTurns.idxOf k

/-- A kind has work pending at a slice that could be admitted now (R291). -/
def State.govPending (s : State) (slice : Nat) (k : GovTurn) : Bool :=
  match k with
  | .moves => (s.startable slice).any (fun (x : Staged) => !s.forced x.move)
  | .scan => s.boot.h != 0
  | .range => s.boot.memActive && s.permits .range && s.mgmt.passes.any (s.passReady slice)
  | .reencrypt => s.regions.any (fun (e : Nat × Region) => homeSlice (retirePage e.2) == slice && s.retireWaits e.2)
  | .tree => s.treeWaits slice

/-- The cold scan has had none of the last three governed admissions of a slice: the next is its own (R290). -/
def State.scanDue (s : State) (slice : Nat) : Bool := s.govPending slice .scan && decide (3 ≤ Tbl.lookD s.qos.scanGap 0 slice)

/-- The turn of a kind at a slice (R290, R291): the scan's fourth place first, then spills at RESERVE and worse, then round-robin over the kinds that have work pending. -/
def State.govTurn (s : State) (slice : Nat) (k : GovTurn) : Bool :=
  if s.scanDue slice then k == .scan
  else if s.spillFirst slice then k == .moves
  else (((List.range 5).filterMap (fun n => govTurns[(Tbl.lookD s.qos.turn 0 slice + n) % 5]?)).takeWhile (· != k)).all (fun j => !s.govPending slice j)

/-- A kind has had an admission at a slice: the round goes on after it, but for a spill served ahead of it, and the scan's fourth place is counted. -/
def State.noteTurn (s : State) (slice : Nat) (k : GovTurn) : State :=
  let turn := if s.spillFirst slice then s.qos.turn else Tbl.putD s.qos.turn 0 slice ((k.place + 1) % 5)
  let gap := if k = .scan then 0 else min 3 (Tbl.lookD s.qos.scanGap 0 slice + 1)
  { s with qos := { s.qos with turn := turn, scanGap := Tbl.putD s.qos.scanGap 0 slice gap } }

/-- A slice admits governed work through the internal DMA source: within the governor's share (R290), in its kind's turn (R291). A share of 0 admits none (R298). -/
def State.govAdmit (s : State) (slice : Nat) (k : GovTurn) : Option State :=
  if s.qos.share = 0 || !s.spaced (32 + slice) s.qos.share || !s.govTurn slice k then none
  else (s.dmaAdmit slice).map (fun t => (State.noteTurn t slice k).noteDma (32 + slice))

/-! ### A move that runs -/

/-- A running move is never governed (R292): an inline thaw, a thaw that a write waits for, or an unspill that a lease recall forces. -/
def State.ungoverned (s : State) (m : MoveSlot) : Bool :=
  m.inlineThaw || match m.kind, m.src.form with
    | .thaw, _ => s.path.txns.any (fun (t : Txn) => t.req.page == m.page && t.phase == .move)
    | .unspill, .spilled l _ _ => s.rd (Reg.GFT_BORROW_STATE l) == 2
    | _, _ => false

/-- An admission of a running move, for its copy or its commit (R24, R25, R144): a governed one takes its share (R290). -/
def State.moveAdmit (s : State) (slice : Nat) (m : MoveSlot) : Option State :=
  if s.ungoverned m then s.dmaAdmit slice else s.govAdmit slice .moves

end Sys2Proof.Machine
end

