-- ==== Sys2Proof/Machine/Drain.lean ====
section
/-! DEFINITION. Write-combining lines that drain (R73 to R76, R187), counter-block overflow (R189, R190), the counter cache and the Vitrine tree
(R192 to R195), and the retirement of key slots (R197 to R200). -/
namespace Sys2Proof.Machine

/-! ### Pages at a peer, read and stored whole -/

/-- A reason that no read answers to any longer. -/
def nobody : RdWhy := .engine 64 0

/-- Reads under way for a reason find nobody waiting when they return. -/
def State.orphan (s : State) (isIt : RdWhy → Bool) : State :=
  let fix (r : DramRd) : DramRd := if isIt r.why then { r with why := nobody } else r
  { s with
    dmc := s.dmc.map (fun (e : Nat × Dmc) => (e.1, { e.2 with flying := e.2.flying.map fix, rq := e.2.rq.map fix, issued := e.2.issued.map fix })),
    graft := s.graft.map (fun (e : Nat × GPortSt) => (e.1, { e.2 with
      outst := e.2.outst.map (fun (o : Outst) => if isIt o.why then { o with why := nobody } else o),
      waitReq := e.2.waitReq.map (fun (x : PeerReq) => if isIt x.out.why then { x with out := { x.out with why := nobody } } else x) })) }

/-- Forgets the lines gathered for a page, and those still on their way. -/
def State.dropGather (s : State) (p : Nat) : State :=
  let s : State := { s with sec := { s.sec with gather := Tbl.del s.sec.gather p } }
  s.orphan (fun w => match w with | .page q _ => q == p | _ => false)

/-- Range passes end at once: an engine that decodes for one becomes idle, and reads under way find nobody waiting. -/
def State.endPasses (s : State) (gone : RangePass → Bool) : State :=
  let xs := s.mgmt.passes.filter gone
  let s := xs.foldl (fun (s : State) (x : RangePass) => match x.cur.bind (·.engine) with | some e => s.freeEngine e | none => s) s
  let s : State := { s with mgmt := { s.mgmt with passes := s.mgmt.passes.filter (fun x => !gone x) } }
  s.orphan (fun w => match w with | .rake n _ _ => xs.any (fun x => x.id == n) | _ => false)

/-! ### Draining -/

/-- A buffered line is due to drain (R73). (DEDUCED, safe, log entry 15) -/
def State.drainDue (s : State) (slice : Nat) (w : WcbLine) : Bool :=
  let idle := s.tick - w.last
  let l := s.wcbOf slice
  (w.be == BitVec.allOnes 64 && decide (16 ≤ idle)) || decide (256 ≤ idle)
    || (decide (192 < l.length) && (leastBy (fun (v : WcbLine) => v.entered) l).any (fun v => v.line == w.line))

/-- A read of a media line that was admitted before the drain is still on its way to the channel (Table 3.4). -/
def State.flyingRead (s : State) (c l : Nat) : Bool :=
  (s.ch c).flying.any (fun (r : DramRd) => r.line == l && (match r.why with | .merge => false | .verify .. => false | _ => true))

/-- The whole page stored again under MAJOR + 1 with the drained line (R189): the other lines are read and checked under the old block. -/
def State.restored (s : State) (p : Nat) (g : Guard) (b : BitVec 512) (i : Nat) (x : Line) (stored : List Line) : List Line × State :=
  (stored.zipIdx).foldl (fun (acc : List Line × State) (e : Line × Nat) =>
    if e.2 = i then (acc.1 ++ [x], acc.2)
    else if s.lineLost p e.2 then (acc.1 ++ [{ e.1 with poison := true }], acc.2)
    else match acc.2.openLine g p e.2 b e.1 with
      | some y => (acc.1 ++ [y], acc.2)
      | none => (acc.1 ++ [{ e.1 with poison := true }], acc.2.tagFail (p * 64 + e.2) (s.clsOf p) false)) ([], s)

/-- The path of a secure page passes through a node whose overflow runs, below which something is not cached (R194). (DEDUCED, safe, log entry 15) -/
def State.pathHeld (s : State) (q : Nat) : Bool := s.sec.nodeOvf.any (fun (n : NodeOvf) => q / 64 ^ n.level == n.node)

/-- Reads of metadata items, of either copy, are still under way (R192, R201). -/
def State.itemsPending (s : State) (xs : List (MetaKind × Nat)) : Bool :=
  xs.any (fun e => s.metaPending e.1 e.2 || (match e.1 with
    | .node l _ => s.metaPending (.node l true) e.2
    | .treeTag l _ => s.metaPending (.treeTag l true) e.2
    | _ => false))

/-- A counter block or node whose reads are back enters the cache with the missing nodes above it, verified from the top down (R192). -/
def State.fetchPath (s : State) (space : Bool) (level node : Nat) : State × Bool :=
  if level = 0 then s.fetchCtr space node
  else if s.blockLost true (node * 64 ^ level) then (s, false)
  else s.fetchDown (node * 64 ^ level) (([3, 2, 1] : List Nat).filter (fun l => decide (level ≤ l)))

/-- The reads for a block or node are no longer remembered. -/
def State.unask (s : State) (space : Bool) (level node : Nat) : State :=
  { s with sec := { s.sec with asked := s.sec.asked.filter (· != ctrKey space level node) } }

/-- Internal work needs a counter block or a node (R192): true when it is cached, false when it is lost; none while its path is being read, or while a node overflow holds its path
(R194). What it needs is asked for once, and enters the cache when the work asks again after the reads are back. -/
def State.wantPath (s : State) (space : Bool) (level node : Nat) (w : ReadFor := {}) : State × Option Bool :=
  let key := ctrKey space level node
  let xs := s.pathTo space level node
  if (s.cached space level node).isSome then (s.unask space level node, some true)
  else if s.blockLost space (node * 64 ^ level) then (s.unask space level node, some false)
  else if (space && s.pathHeld (node * 64 ^ level)) || s.itemsPending xs then (s, none)
  else if s.sec.asked.contains key || xs == [] then
    let (t, ok) := (s.unask space level node).fetchPath space level node
    (t, some ok)
  else
    let s := s.metaReads xs w
    ({ s with sec := { s.sec with asked := s.sec.asked ++ [key] } }, none)

/-- The same for the counter block of a page. -/
def State.wantCtr (s : State) (p : Nat) (w : ReadFor := {}) : State × Option Bool :=
  match s.guard p with
  | none => (s, some true)
  | some g => s.wantPath g.space 0 g.q w

/-- The counter block of a page is cached, or the page needs none. -/
def State.haveCtr (s : State) (p : Nat) : Bool := (s.guard p).all (fun g => (s.ctrOf g).isSome)

/-- The counter block of a page is brought into the cache at once, for the buffers that drain at a reset (R393, step 4). (DEDUCED, unsafe, log entry 90) -/
def State.ensureCtr (s : State) (p : Nat) : State × Bool :=
  match s.guard p with
  | none => (s, true)
  | some g => s.fetchCtr g.space g.q

/-- A block overflow is counted (R189, R371). -/
def State.countOvf (s : State) : State := (s.sat Reg.SEC_OVERFLOWS_BLOCK_OVF 1).stn 112 4

/-- The overflow procedure starts (R189): the page is locked, and MAJOR advances by one with every minor 0. -/
def State.overflowStart (s : State) (w : WcbLine) (g : Guard) (b : BitVec 512) : State :=
  let p := pageOf w.line
  let k : PageLock := { page := p, slice := homeSlice p, line := w.line, drained := { data := w.data, poison := w.poison }, old := b }
  let s := s.setCtr g (majorOnly (blkMajor b + 1))
  let s : State := { s with sec := { s.sec with locks := s.sec.locks ++ [k] } }
  s.countOvf.wcbDrop w.line

/-- A full line of a secure page drains to its frame under the next minor counter (R187). Minor 127 runs the overflow procedure (R189), and MAJOR at its
maximum makes the region READONLY (R190). -/
def State.drainSecure (s : State) (w : WcbLine) (g : Guard) (c fr : Nat) : State :=
  let p := pageOf w.line
  let i := w.line % 64
  let x : Line := { data := w.data, poison := w.poison }
  match s.ctrOf g with
  | none => s
  | some b =>
    if blkMinor b i < 127 then
      let b' := setMinor b i (blkMinor b i + 1)
      let (y, s) := (s.setCtr g b').sealLine g p i b' x
      ((s.enqueueWrite c (fr * 64 + i) y.data (BitVec.allOnes 64) y.poison).wqT0 c (fr * 64 + i) w).wcbDrop w.line
    else if blkMajor b = 2 ^ 64 - 1 then (s.makeReadonly g.region).wcbDrop w.line
    else
      s.overflowStart w g b

/-- The read that a partial entry is merged with is sent, and the entry keeps its number (R75, R215). -/
def State.mergeRead (s : State) (c l : Nat) : State :=
  let n := s.path.nextId
  (s.sendRead c l .merge 3 none none).updCh c (fun d => { d with wq := d.wq.map (fun (w : WrEnt) => if w.line = l then { w with mergeId := some n } else w) })

/-- A buffered line of a HOT page drains to its frame. -/
def State.drainHot (s : State) (w : WcbLine) (c fr : Nat) : State :=
  let p := pageOf w.line
  let i := w.line % 64
  let l := fr * 64 + i
  if s.flyingRead c l || !s.wqRoom c l then s
  else match s.guard p with
    | none =>
      let s := ((s.enqueueWrite c l w.data w.be w.poison).wqT0 c l w).wcbDrop w.line
      if (s.wqEntry c l).any (fun e => e.part.isSome && e.mergeId.isNone) then s.mergeRead c l else s
    | some g => match s.wantCtr p with
      | (s, none) => s
      | (s, some false) => s
      | (s, some true) =>
      if w.be = BitVec.allOnes 64 then s.drainSecure w g c fr
      else if w.fill.isSome then s
      else
        let n := s.path.nextId
        let sl := s.sealOf p i
        let s := (s.metaReads [g.tagItem (i / 8)]).sendRead c l (.fill w.line n) 3 none none
        { s with path := { s.path with wcb := s.path.wcb.map (fun (v : WcbLine) => if v.line = w.line then { v with fill := some (n, sl) } else v) } }

/-- A buffered line that a tier-0 request wrote is transferred to a SPILLED page (Table 11.3). -/
def State.noteSpill (s : State) (w : WcbLine) : State := if w.writers.any (fun x => x.tier == 0) then s.noteT0 16 else s

/-- A buffered line of a page stored whole at a peer is forwarded as a write (Table 3.3): a partial PLAIN line with its byte enables; a secure line
merged here and sealed under the next minor counter, since its tag covers the whole line and never leaves the borrower (R75, R184). (DEDUCED, unsafe, log entry 86) -/
def State.drainPeer (s : State) (w : WcbLine) (lease u : Nat) : State :=
  let p := pageOf w.line
  let i := w.line % 64
  match s.leasePort lease u with
  | none => s
  | some port =>
    if !s.portRoom port then s
    else match s.guard p with
      | none =>
        let m (l : Fin 64) (line : BitVec 32) : GMsg :=
          if w.be = BitVec.allOnes 64 then .wrl 0 l line w.data w.poison else .wrp 0 l line w.be w.data w.poison
        ((s.noteSpill w).sendPeer port lease (u * 8 + i) .merge true m).wcbDrop w.line
      | some g => match s.wantCtr p with
        | (s, none) => s
        | (s, some false) => s
        | (s, some true) => match s.ctrOf g with
        | none => s
        | some b =>
          if w.be ≠ BitVec.allOnes 64 then
            if w.fill.isSome then s
            else
              let n := s.path.nextId
              let sl := s.sealOf p i
              let s := (s.newId.metaReads [g.tagItem (i / 8)]).sendPeer port lease (u * 8 + i) (.fill w.line n) false (.rdl 0)
              { s with path := { s.path with wcb := s.path.wcb.map (fun (v : WcbLine) => if v.line = w.line then { v with fill := some (n, sl) } else v) } }
          else if blkMinor b i < 127 then
            let b' := setMinor b i (blkMinor b i + 1)
            let (y, s) := (s.setCtr g b').sealLine g p i b' { data := w.data, poison := w.poison }
            ((s.noteSpill w).sendPeer port lease (u * 8 + i) .merge true (fun l line => .wrl 0 l line y.data y.poison)).wcbDrop w.line
          else if blkMajor b = 2 ^ 64 - 1 then (s.makeReadonly g.region).wcbDrop w.line
          else s.overflowStart w g b

/-- A due line of a slice's buffer drains (R73, R75). A line of a page that is locked or moves waits (log entry 15); one whose page has no media any longer, or is lost, is dropped. -/
def State.drainLine (s : State) (slice line : Nat) : State :=
  match s.wcb? line with
  | none => s
  | some w =>
    let p := pageOf line
    if s.isSafe || sliceOfLine line != slice || !s.drainDue slice w || s.pageLocked p || (s.acc p).isMigrating then s
    else if s.lineLost p (line % 64) then s.wcbDrop line
    else match s.srcForm p with
      | .hot c fr _ => s.drainHot w c fr
      | .spilled l u n => if n = 0 then s.drainPeer w l u else s
      | .unwritten _ => s.wcbDrop line
      | .unreadable => s.wcbDrop line
      | _ => s

/-- WCB_DRAIN (R73). -/
def execWcbDrain (sl : SliceIx) (line : Nat) (s : State) : Host.Outcome State Fault Refusal := .next (s.drainLine sl line)

/-! ### The end of an overflow -/

/-- A lock ends. -/
def State.unlock (s : State) (p : Nat) : State :=
  { s with sec := { s.sec with locks := s.sec.locks.filter (fun (l : PageLock) => l.page != p) } }

/-- Changes the lock of a page. -/
def State.updLock (s : State) (p : Nat) (f : PageLock → PageLock) : State :=
  { s with sec := { s.sec with locks := s.sec.locks.map (fun (l : PageLock) => if l.page = p then f l else l) } }

/-- The lines of a page under overflow, once all are read: checked under the old block, and sealed with the drained line under the advanced one. -/
def State.overflowSeal (s : State) (k : PageLock) (stored : List Line) : State :=
  match s.guard k.page with
  | none => s.unlock k.page
  | some g =>
    let (xs, s) := s.restored k.page g k.old (k.line % 64) k.drained stored
    let b' := majorOnly (blkMajor k.old + 1)
    let (ys, s) := s.sealAll g 0 (blkMinor b') (blkMajor b') k.page 0 xs
    (s.dropGather k.page).updLock k.page (fun l => { l with todo := some ((ys.zipIdx).map (fun (e : Line × Nat) => (e.2, e.1))) })

/-- One line of an overflow is stored where its page lies; none when it has no room yet. -/
def State.overflowStore (s : State) (p i : Nat) (y : Line) : Option State :=
  match (s.acc p).form with
  | .hot c fr _ => if s.wqRoom c (fr * 64 + i) then some (s.storeLines c (fr * 64 + i) [y]) else none
  | .spilled lease u _ => match s.leasePort lease u with
    | some port => if s.portRoom port then some (s.sendPeer port lease (u * 8 + i) .merge true (fun l line => .wrl 0 l line y.data y.poison)) else none
    | none => none
  | _ => some s

/-- The overflow of a page goes on (R189, R25): one admission of the internal DMA source reads the page, the lines are checked and sealed when they are back, and each is stored by an admission of
its own; the lock ends with the last. -/
def State.overflowDone (s : State) (slice p : Nat) : State :=
  match s.sec.locks.find? (fun (l : PageLock) => l.page == p && l.slice == slice) with
  | none => s
  | some k =>
    if !k.asked then match s.dmaAdmit slice with
      | none => s
      | some t => match (s.acc p).form with
        | .hot c fr inc => ((t.readPage p (.hot c fr inc)).readTags p 64).updLock p (fun l => { l with asked := true })
        | .spilled lease u n => match t.gatherPage p lease u n with
          | (t, true) => (t.readTags p 64).updLock p (fun l => { l with asked := true })
          | (_, false) => s
        | _ => s.unlock p
    else match k.todo with
      | none => match (s.acc p).form with
        | .unwritten _ => s.unlock p
        | .unreadable => s.unlock p
        | _ => match (if s.tagsPending p 64 then none else s.pageRead p 64) with
          | some stored => s.overflowSeal k stored
          | none => s
      | some [] => s.unlock p
      | some ((i, y) :: rest) => match s.dmaAdmit slice with
        | none => s
        | some t => match t.overflowStore p i y with
          | none => s
          | some t => if rest = [] then t.unlock p else t.updLock p (fun l => { l with todo := some rest })

/-- COUNTER_OVERFLOW_DONE (R189). -/
def execCounterOverflowDone (sl : SliceIx) (page : Nat) (s : State) : Host.Outcome State Fault Refusal := .next (s.overflowDone sl page)

/-! ### The counter cache -/

/-- A region of a space holds secure page q. -/
def State.secPage (s : State) (space : Bool) (q : Nat) : Bool :=
  s.regions.any (fun (e : Nat × Region) => spaceOf e.2.cls == some space && e.2.sbase * 65536 ≤ q && q < (e.2.sbase + e.2.len) * 65536)

/-- The missing counter block and nodes of a path have returned (R192), and the requests that waited for them go on. -/
def State.ctrFetched (s : State) (space : Bool) (q : Nat) : State :=
  let waits (t : Txn) : Bool := t.phase == .ctr && (s.guard t.req.page).any (fun g => g.space == space && g.q == q)
  if s.isSafe || !s.secPage space q || (s.cached space 0 q).isSome || (space && s.pathHeld q) || s.itemsPending (s.pathItems space q)
      || !(s.path.txns.any waits || s.sec.asked.contains (ctrKey space 0 q)) then s
  else
    let (s, _) := (s.unask space 0 q).fetchCtr space q
    { s with path := { s.path with txns := s.path.txns.map (fun (t : Txn) => if waits t then { t with phase := .queued } else t) } }

/-- COUNTER_FETCH_DONE (R192). -/
def execCounterFetchDone (space : Bool) (q : Nat) (s : State) : Host.Outcome State Fault Refusal := .next (s.ctrFetched space q)

/-- Changes the node or root block above a block or node. -/
def State.setParent (s : State) (level node : Nat) (b : BitVec 512) : State :=
  if level = 3 then s.setRoot (node / 64) b else s.cache true (level + 1) (node / 64) b true

/-- The metadata items of a block or node of the V-space and of its tree tag, copy A or B. -/
def nodeItems (level : Nat) (copyB : Bool) (n : Nat) : List (MetaKind × Nat) := [(if level = 0 then .ctr true else .node level copyB, n), (.treeTag level copyB, n)]

/-- A child of a node that a node overflow leaves unformatted so far (R195). -/
def unformatted (old : BitVec 512) (j : Nat) : Bool := blkMajor old == 0 && blkMinor old j == 0

/-- A child of a node is re-tagged under the node's new counters (R194, R195): an unformatted one is written out as zeros; another is verified under the old counters, a copy whose line reads
(R182, R260) and whose tag matches being good. One that has been written back since, or is lost, is left. -/
def State.retagChild (s : State) (level n : Nat) (old new : BitVec 512) : State :=
  let good (c : Nat) : Bool := !s.metaLost n (c == 1) && !s.metaLost (n / 8) (c == 1) && s.tagAt level c n == s.treeTag old level n (s.stored true level c n)
  if s.tagAt level 0 n = s.treeTag new level n (s.stored true level 0 n) || s.blockLost true (n * 64 ^ level) then s
  else if unformatted old (n % 64) then (s.store true level n 0).putTag level n (s.treeTag new level n 0)
  else if good 0 then s.putTag level n (s.treeTag new level n (s.stored true level 0 n))
  else if (level == 2 || level == 3) && good 1 then
    let b := s.stored true level 1 n
    (s.store true level n b).putTag level n (s.treeTag new level n b)
  else s.recordLoss true (level + 1) (n * 64 ^ level * 8)

/-- The 64 children of a node, at a level, are re-tagged. -/
def State.retag (s : State) (level parent : Nat) (old new : BitVec 512) : State :=
  (List.range 64).foldl (fun s j => s.retagChild level (parent * 64 + j) old new) s

/-- The items of the formatted children of a node that its overflow reads, of copy A. -/
def overflowItems (level parent : Nat) (old : BitVec 512) : List (MetaKind × Nat) :=
  ((List.range 64).filter (fun j => !unformatted old j)).flatMap (fun j => nodeItems level false (parent * 64 + j))

/-- The node overflow of the parent of a block or node starts (R194): MAJOR advances, the minors are 0, and the children are read, in tier 3 (R211). None at MAJOR's maximum, where every
VITRINE region beneath becomes READONLY. -/
def State.nodeOverflow (s : State) (level node : Nat) (par : BitVec 512) : State × Option (BitVec 512) :=
  let m := node / 64
  if blkMajor par = 2 ^ 64 - 1 then
    let lo := m * 64 ^ (level + 1)
    let hi := lo + 64 ^ (level + 1)
    let rs := s.regions.filter (fun (e : Nat × Region) => spaceOf e.2.cls == some true && decide (e.2.sbase * 65536 < hi ∧ lo < (e.2.sbase + e.2.len) * 65536))
    (rs.foldl (fun s (e : Nat × Region) => s.makeReadonly e.1) s, none)
  else
    let new := majorOnly (blkMajor par + 1)
    let s := (s.setParent level node new).metaReads (overflowItems level m par)
    let s := (s.sat Reg.SEC_OVERFLOWS_NODE_OVF 1).stn 112 4
    ({ s with sec := { s.sec with nodeOvf := s.sec.nodeOvf ++ [{ level := level + 1, node := m, old := par }] } }, some new)

/-- A written-back block or node leaves the cache. (DEDUCED, unsafe, log entry 14) -/
def State.uncache (s : State) (space : Bool) (level node : Nat) : State :=
  { s with sec := { s.sec with cache := Tbl.del s.sec.cache (ctrKey space level node) } }

/-- A dirty block or node of the V-space is written back under its parent's advanced counter (R193). -/
def State.backUnder (s : State) (level node : Nat) (blk par : BitVec 512) : State :=
  let j := node % 64
  let par' := setMinor par j (blkMinor par j + 1)
  let s := s.setParent level node par'
  (((s.store true level node blk).putTag level node (s.treeTag par' level node blk)).uncache true level node)

/-- The write-back itself (R193), once the node above is cached: until then its path is read, and the block stays dirty. -/
def State.writeNode (s : State) (space : Bool) (level node : Nat) (x : CacheBlk) : State :=
  if !space then (s.store false 0 node x.blk).uncache false 0 node
  else
    match (if level = 3 then (s, some true) else s.wantPath true (level + 1) (node / 64)) with
    | (s, none) => s
    | (s, some false) => s
    | (s, some true) => match s.parentBlk level node with
      | none => s
      | some par =>
        if blkMinor par (node % 64) < 127 then s.backUnder level node x.blk par
        else match s.nodeOverflow level node par with
          | (s, none) => s
          | (s, some par) => s.backUnder level node x.blk par

/-- A dirty counter block or node is written back and leaves the cache (R193), by an admission of the internal DMA source at the slice that caches it (R23, R24): an evicted one at once (R292), one
that is cleaned ahead of eviction as tree maintenance, governed and the duty of a healthy pair (R34, R290). (DEDUCED, unsafe, log entry 14) -/
def State.ctrBack (s : State) (space : Bool) (level node : Nat) (evict : Bool) : State :=
  match Tbl.look s.sec.cache (ctrKey space level node) with
  | none => s
  | some x =>
    if s.isSafe || !x.dirty || decide (3 < level) || (space && s.sec.nodeOvf.any (fun (n : NodeOvf) => n.level == level && n.node == node)) || (!space && decide (0 < level)) || (!evict && (!s.dutyUp 6 || !s.permits .tree)) then s
    else match (if evict then s.dmaAdmit (s.cacheSlice space level node) else s.govAdmit (s.cacheSlice space level node) .tree) with
      | none => s
      | some s => s.writeNode space level node x

/-- COUNTER_WRITEBACK (R193). -/
def execCounterWriteback (space : Bool) (level node : Nat) (evict : Bool) (s : State) : Host.Outcome State Fault Refusal := .next (s.ctrBack space level node evict)

/-- A node overflow ends once its reads are back: the children are verified and re-tagged, and paths through the node proceed (R194). -/
def State.nodeOvfDone (s : State) (level node : Nat) : State :=
  match s.sec.nodeOvf.find? (fun (n : NodeOvf) => n.level == level && n.node == node) with
  | none => s
  | some n =>
    if s.itemsPending (overflowItems (level - 1) node n.old) then s
    else
      let s := match s.parentBlk (level - 1) (node * 64) with
        | some new => s.retag (level - 1) node n.old new
        | none => s
      { s with sec := { s.sec with nodeOvf := s.sec.nodeOvf.filter (fun (n : NodeOvf) => !(n.level == level && n.node == node)) } }

/-- NODE_OVERFLOW_DONE (R194). -/
def execNodeOverflowDone (level node : Nat) (s : State) : Host.Outcome State Fault Refusal := .next (s.nodeOvfDone level node)

/-! ### Retirement -/

/-- Regions bound to a key slot. -/
def State.boundTo (s : State) (k : Nat) : List (Nat × Region) :=
  s.regions.filter (fun (e : Nat × Region) => e.2.cls != .plain && (e.2.key == k || (e.2.oldValid && e.2.oldKey == k)))

/-- CURSOR of a region passes a page (R198): lost ranges of the S-space that it has passed are freed (R202). -/
def State.advanceCursor (s : State) (i : Nat) (r : Region) : State :=
  let done := (r.sbase * 65536 + r.cursor + 1) * 8
  let s := s.updRegion i (fun r => { r with cursor := r.cursor + 1 })
  s.losses.foldl (fun s n =>
    let a := s.rd (Reg.SEC_LOSS_START n)
    if s.flag (Reg.SEC_LOSS_SPACE n) = false ∧ r.sbase * 524288 ≤ a ∧ a + lossLen false (s.rd (Reg.SEC_LOSS_KIND n)) ≤ done then
      s.setDword (0x501000 + 8 * n) 0 else s) s

/-- The retirement of a slot is complete once the cursor of every region it holds has reached the region's length (Table 7.8): the old slot is
zeroised, and READONLY and LOST end (R190, R202). (DEDUCED, unsafe, log entry 64) -/
def State.retireCheck (s : State) (k n : Nat) : State :=
  let rs := s.regions.filter (fun (e : Nat × Region) => e.2.oldValid && e.2.oldKey == k)
  if (s.key k).st = .retiring ∧ rs.all (fun (e : Nat × Region) => decide (e.2.len * 65536 ≤ e.2.cursor)) = true then
    let s := rs.foldl (fun (s : State) (e : Nat × Region) =>
      s.updRegion e.1 (fun r => { r with oldValid := false, readonly := false, lost := false })) s
    (s.updKey k (fun x => { x with st := .zeroising })).raise 0x0503 k n
  else s

/-- A page operation starts at the home slice, within the governor's share, by the pair whose duty it is, once no move or overflow of the page runs (R34, R198, R290). An UNWRITTEN
page, and one that cannot be read, is passed at once; one of a LOST region, or whose counter block is lost, is not read (R199, Table 10.2). -/
def State.retireStart (s : State) (i : Nat) : State :=
  match Tbl.look s.regions i with
  | none => s
  | some r =>
    let p := retirePage r
    if !s.retireWaits r then s
    else match s.govAdmit (homeSlice p) .reencrypt with
      | none => s
      | some t =>
        let skip := ((t.advanceCursor i r).cnt 0x0505 .dev).retireCheck r.oldKey r.key
        let start (s : State) : State := { s with sec := { s.sec with retire := s.sec.retire ++ [{ region := i, page := p }] } }
        match (s.acc p).form with
        | .unwritten _ => if s.ctrLost p then start t else skip
        | .unreadable => skip
        | f =>
          if r.lost || s.ctrLost p then start t
          else match f with
            | .spilled l u n => match t.gatherPage p l u n with
              | (t, true) => start (t.readTags p (formSize f))
              | (_, false) => s
            | _ => match t.pickEngine (homeSlice p) with
              | some e => (start ((t.readPage p f).readTags p (formSize f))).takeEngine e (.copy p)
              | none => s

/-- RETIRE_PAGE_OP (R198). -/
def execRetirePageOp (region : Fin 4096) (s : State) : Host.Outcome State Fault Refusal := .next (s.retireStart region)

/-- Lines opened under the old slot: a line that reads poisoned, whose tag fails or that is lost, becomes poison (R199). `image` says that they are
the lines of sherds, opened under V. -/
def State.retireOpen (s : State) (p : Nat) (g : Guard) (b : BitVec 512) (image : Bool) (xs : List Line) : List Line × State :=
  (xs.zipIdx).foldl (fun (acc : List Line × State) (e : Line × Nat) =>
    let lost : List Line × State := (acc.1 ++ [{ e.1 with poison := true }], acc.2)
    if s.lineLost p e.2 then lost
    else match (if image then acc.2.openSherd g p e.2 (blkMajor b % 2 ^ 48) e.1 else acc.2.openLine g p e.2 b e.1) with
      | some y => (acc.1 ++ [y], acc.2)
      | none => (lost.1, acc.2.tagFail (p * 64 + (if image then 0 else e.2)) (s.clsOf p) image)) ([], s)

/-- Stores lines of a page where it lies now. -/
def State.storeForm (s : State) (f : PageForm) (xs : List Line) : State :=
  match f with
  | .hot c fr _ => s.storeLines c (fr * 64) xs
  | .cold c sh _ => s.storeLines c (sh * 8) xs
  | .spilled l u _ => s.putPeer l u xs
  | _ => s

/-- A page is stored again under the new slot with the same counters (R198); a block at MAJOR's maximum gets minors 0 (R199). -/
def State.reencrypt (s : State) (p : Nat) (xs : List Line) : State :=
  match s.guardWith p (fun r => r.oldKey), s.guardWith p (fun r => r.key) with
  | some gOld, some gNew => match s.ctrOf gOld with
    | none => s
    | some b =>
      let f := (s.acc p).form
      let image := match f with | .cold .. => true | .spilled _ _ n => n != 0 | _ => false
      let (ys, s) := s.retireOpen p gOld b image xs
      let b' := if blkMajor b = 2 ^ 64 - 1 then majorOnly (blkMajor b) else b
      let (zs, s) := if image then s.sealAll gNew 2 (fun _ => 0) (blkMajor b' % 2 ^ 48) p 0 ys
        else s.sealAll gNew 0 (blkMinor b') (blkMajor b') p 0 ys
      (if b' = b then s else s.setCtr gNew b').storeForm f zs
  | _, _ => s

/-- The copy engine of a page becomes idle. -/
def State.freeCopy (s : State) (p : Nat) : State :=
  match s.press.engines.find? (fun (e : Nat × EngineUse) => e.2 == .copy p) with
  | some e => s.freeEngine e.1
  | none => s

/-- A page whose counter block is lost, or which lies in a LOST region, whose blocks count as lost, returns to UNWRITTEN; a lost block is written as zero (R199, Table 10.2). -/
def State.retireLost (s : State) (p : Nat) : State :=
  let s := match s.guard p with
    | some g => if g.lost || s.ctrLost p then s.setCtr g 0 else s
    | none => s
  s.clearPage p

/-- A page operation ends (R198, R199): the page, once it has been read, is stored under the new slot as one page store (R25), or returned to UNWRITTEN when its counter block is lost;
CURSOR passes it. -/
def State.retireEnd (s : State) (i : Nat) : State :=
  match Tbl.look s.regions i, s.sec.retire.find? (fun (x : RetireOp) => x.region == i) with
  | some r, some x =>
    let p := x.page
    let finish (s : State) : State :=
      let s : State := { s with sec := { s.sec with retire := s.sec.retire.filter (fun (y : RetireOp) => y.region != i) } }
      (((((s.dropGather p).freeCopy p).advanceCursor i r).cnt 0x0505 .dev)).retireCheck r.oldKey r.key
    if s.isSafe || s.boot.warmEntry then s
    else if r.lost || s.ctrLost p then finish (s.retireLost p)
    else match (s.acc p).form with
      | .unwritten _ => finish s
      | .unreadable => finish s
      | f => match (if s.tagsPending p (formSize f) then none else s.pageRead p (formSize f)) with
        | none => s
        | some xs =>
          if !s.formRoom f then s
          else match s.wantCtr p with
          | (s, none) => s
          | (s, some ok) => match s.govAdmit (homeSlice p) .reencrypt with
            | none => s
            | some s => finish (if ok then s.reencrypt p xs else s.retireLost p)
  | _, _ => s

/-- RETIRE_PAGE_DONE (R198). -/
def execRetirePageDone (region : Fin 4096) (s : State) : Host.Outcome State Fault Refusal := .next (s.retireEnd region)

/-- The keys of a slot are overwritten and the slot is FREE (Table 7.8). -/
def State.zeroised (s : State) (k : Nat) : State :=
  if (s.key k).st = .zeroising then
    ({ s with sec := { s.sec with keys := Tbl.putD s.sec.keys {} k {} } }).stn 112 5
  else s

/-- KEY_ZEROISE_DONE (R197). -/
def execKeyZeroiseDone (slot : Fin 4096) (s : State) : Host.Outcome State Fault Refusal := .next (s.zeroised slot)

end Sys2Proof.Machine
end

