-- ==== Sys2Proof/Machine/Sherd.lean ====
section
/-! DEFINITION. The token code, page images and stream frames (R159 to R166), and the decode faults they meet (R169, Table 6.6). A code stream
is one number whose bit n is the n-th bit read. -/
namespace Sys2Proof.Machine

/-! ### Tokens -/

/-- Where a decoder stands: the next bit, the bytes produced (newest first) and their number, the last distance, the tokens read. -/
structure StrandSt where
  pos  : Nat
  out  : List Byte := []
  n    : Nat := 0
  last : Nat := 64
  toks : Nat := 0
deriving DecidableEq, Repr

/-- What one token leads to. -/
inductive Tok
  | more (d : StrandSt)
  | done (d : StrandSt)
  | fault (code : Nat)
deriving DecidableEq, Repr

/-- An n-bit field at a bit position. -/
def bitField (src pos n : Nat) : Nat := (src >>> pos) % 2 ^ n

/-- Copies bytes from a distance back, one at a time (R161). -/
def copyBack (len d : Nat) (out : List Byte) : List Byte :=
  match len with
  | 0 => out
  | k + 1 => copyBack k d ((out[d - 1]?).getD 0 :: out)

/-- Appends bytes of the stream. -/
def literals (run src pos : Nat) (out : List Byte) : List Byte :=
  match run with
  | 0 => out
  | k + 1 => literals k src (pos + 8) (BitVec.ofNat 8 (bitField src pos 8) :: out)

/-- The span ends here without END: short of bytes, or after all of them. Table 6.6 names code 1 for the span of a strand after 512 bytes; a block's CODED_LEN that ends without END
after all of its bytes has no code of its own, and gets the same here. (DEDUCED, unsafe, log entry 82) -/
def cut (d : StrandSt) (limit : Nat) : Tok := .fault (if d.n = limit then 1 else 4)

/-- A copy whose length code starts at a bit position (Table 6.2). -/
def copyToken (src stop limit : Nat) (d : StrandSt) (q dist last : Nat) : Tok :=
  let short : Tok := .fault (if d.n = limit then 1 else if d.n < dist then 2 else 4)
  let go (len q : Nat) : Tok :=
    if d.n < dist then .fault 2
    else if limit < d.n + len then .fault 3
    else .more { pos := q, out := copyBack len dist d.out, n := d.n + len, last := last, toks := d.toks + 1 }
  if stop < q + 3 then short
  else
    let k := bitField src q 3
    if k < 7 then go (4 + k) (q + 3)
    else if stop < q + 11 then short
    else
      let e := bitField src (q + 3) 8
      if 248 ≤ e then .fault 1 else go (11 + e) (q + 11)

/-- One token (Table 6.1) of a span that ends at bit `stop` and codes `limit` bytes. Only a strand limits its tokens (R163). -/
def token (src stop limit : Nat) (strand : Bool) (d : StrandSt) : Tok :=
  let p := d.pos
  if stop ≤ p then cut d limit
  else if strand && d.toks == 128 then .fault 1
  else if bitField src p 1 = 0 then
    if stop < p + 7 then cut d limit
    else
      let run := bitField src (p + 1) 6 + 1
      if stop < p + 7 + 8 * run then .fault (if d.n = limit then 1 else if limit < d.n + run then 3 else 4)
      else if limit < d.n + run then .fault 3
      else .more { d with pos := p + 7 + 8 * run, out := literals run src (p + 7) d.out, n := d.n + run, toks := d.toks + 1 }
  else if stop < p + 2 then cut d limit
  else if bitField src (p + 1) 1 = 0 then
    if stop < p + 3 then cut d limit
    else
      let w := if bitField src (p + 2) 1 = 0 then 6 else 12
      if stop < p + 3 + w then cut d limit
      else
        let dist := bitField src (p + 3) w
        if dist = 0 then .fault 1 else copyToken src stop limit d (p + 3 + w) dist dist
  else if stop < p + 3 then cut d limit
  else if bitField src (p + 2) 1 = 0 then copyToken src stop limit d (p + 3) d.last d.last
  else if stop < p + 4 then cut d limit
  else if bitField src (p + 3) 1 = 0 then
    if d.n % 64 ≠ 0 then .fault 1
    else if stop < p + 10 then cut d limit
    else
      let k := 64 * (bitField src (p + 4) 6 + 1)
      if limit < d.n + k then .fault 3
      else .more { d with pos := p + 10, out := List.replicate k 0 ++ d.out, n := d.n + k, toks := d.toks + 1 }
  else if stop < p + 5 then cut d limit
  else if bitField src (p + 4) 1 = 1 then .fault 1
  else
    let e := p + 5
    let byteEnd := (e + 7) / 8 * 8
    if bitField src e (byteEnd - e) ≠ 0 ∨ byteEnd ≠ stop then .fault 1
    else if d.n < limit then .fault 4
    else .done { d with pos := e, toks := d.toks + 1 }

/-- Decodes tokens until END or a fault; every token takes at least one bit. -/
def decodeLoop (fuel src stop limit : Nat) (strand : Bool) (d : StrandSt) : Nat × List Byte :=
  match fuel with
  | 0 => (4, [])
  | k + 1 => match token src stop limit strand d with
    | .more d => decodeLoop k src stop limit strand d
    | .done d => (0, d.out.reverse)
    | .fault c => (c, [])

/-- A span of bytes [start, stop) of a stream that codes `limit` bytes: the fault code, 0 for none, and the bytes. -/
def decodeSpan (src start stop limit : Nat) (strand : Bool) : Nat × List Byte :=
  decodeLoop (8 * (stop - start) + 1) src (8 * stop) limit strand { pos := 8 * start }

/-! ### Page images -/

/-- Eight lines as one sherd. -/
def sherdOf (ls : List Line) : Nat := (ls.zipIdx).foldl (fun (a : Nat) (e : Line × Nat) => a + e.1.data.toNat <<< (512 * e.2)) 0

/-- The stream of a run of sherds (R164). -/
def streamOf (sherds : List Nat) : Nat :=
  (sherds.zipIdx).foldl (fun (a : Nat) (e : Nat × Nat) =>
    if e.2 = 0 then e.1 >>> 256 else a + (e.1 >>> 64) <<< (8 * (480 + 504 * (e.2 - 1)))) 0

/-- The page header of an image: its fields lie in bits [255:64] of sherd 0 (Table 6.4). -/
def imgV (s0 : Nat) : Nat := bitField s0 64 48
def imgLen (s0 : Nat) : Nat := bitField s0 112 12
def imgFormat (s0 : Nat) : Nat := bitField s0 124 4
/-- MARK[k], with MARK[0] = 0 and MARK[8] = STREAM_LEN (R163). -/
def imgMark (s0 k : Nat) : Nat := if k = 0 then 0 else if k = 8 then imgLen s0 else bitField s0 (128 + 12 * (k - 1)) 12

/-- Sherds that a stream length needs (R164, R165). -/
def sherdsFor (len : Nat) : Nat := if len ≤ 480 then 1 else (len - 480 + 503) / 504 + 1

/-- The header checks of SHERD_CHAIN_BROKEN that the sherds themselves can fail. -/
def chainOk (sherds : List Nat) (kind ptag : Nat) : Bool :=
  let n := sherds.length
  let s0 := sherds.headD 0
  (sherds.zipIdx).all (fun (e : Nat × Nat) =>
    bitField e.1 0 3 == e.2 && bitField e.1 3 3 == n - 1 && bitField e.1 6 2 == kind && bitField e.1 8 32 == ptag % 2 ^ 32)
  && imgFormat s0 == 1 && imgLen s0 != 0 && sherdsFor (imgLen s0) == n
  && (List.range 8).all (fun k => decide (imgMark s0 k < imgMark s0 (k + 1)))

/-- What a decoded image gives: a fault code with its strand, or the 64 lines of the page. -/
structure ImgRes where
  fault  : Nat
  strand : Nat
  lines  : List Line
deriving DecidableEq, Repr

/-- Bytes as 64-byte lines. -/
def linesOfBytes (l : List Byte) : List Line :=
  (chunk (l.length / 64) 64 l).map (fun (b : List Byte) => { data := BitVec.ofNat 512 (ofBytes b) })

/-- The bytes of lines. -/
def bytesOfLines (l : List Line) : List Byte := l.flatMap (fun (x : Line) => leBytes 64 x.data.toNat)

/-- Decodes a page image of a kind, for a page tag and an expected version (R163 to R169). `inFrame` says that its run lies within one frame. -/
def decodeImage (sherds : List Nat) (kind ptag v : Nat) (inFrame : Bool) : ImgRes :=
  let s0 := sherds.headD 0
  if !inFrame || !chainOk sherds kind ptag then { fault := 5, strand := 0, lines := [] }
  else if imgV s0 ≠ v ∨ sherds.any (fun x => bitField x 40 24 != imgV s0 % 2 ^ 24) = true then { fault := 6, strand := 0, lines := [] }
  else
    let src := streamOf sherds
    let rs := (List.range 8).map (fun k => decodeSpan src (imgMark s0 k) (imgMark s0 (k + 1)) 512 true)
    match (rs.zipIdx).find? (fun (e : (Nat × List Byte) × Nat) => e.1.1 != 0) with
    | some e => { fault := e.1.1, strand := e.2, lines := [] }
    | none => { fault := 0, strand := 0, lines := linesOfBytes (rs.flatMap Prod.snd) }

/-- Lines of a number of 512-byte sherds. -/
def linesOfSherd (x : Nat) : List Line := (List.range 8).map (fun i => { data := BitVec.ofNat 512 (x >>> (512 * i)) })

/-- The sherds of an image: headers, then the stream, zeros after it (R164). -/
def buildSherds (img : Image) (n kind ptag v : Nat) : List Nat :=
  let len := img.stream.length
  let head := v % 2 ^ 48 + (len % 4096) <<< 48 + 1 <<< 60
    + ((img.marks.take 7).zipIdx).foldl (fun (a : Nat) (e : Nat × Nat) => a + (e.1 % 4096) <<< (64 + 12 * e.2)) 0
  (List.range n).map (fun k =>
    let h := k + (n - 1) <<< 3 + kind <<< 6 + (ptag % 2 ^ 32) <<< 8 + (v % 2 ^ 24) <<< 40
    if k = 0 then h + head <<< 64 + (ofBytes (img.stream.take 480)) <<< 256
    else h + (ofBytes ((img.stream.drop (480 + 504 * (k - 1))).take 504)) <<< 64)

/-! ### Stream frames -/

/-- A frame header (Table 6.5). -/
def frameType (h : Nat) : Nat := h % 4
def frameRaw (h : Nat) : Nat := (h / 4) % 4096 + 1
def frameCoded (h : Nat) : Nat := (h / 16384) % 8192

/-- A header's fields agree: no reserved bit is set and CODED_LEN suits TYPE. -/
def frameOk (h : Nat) : Bool :=
  h / 2 ^ 27 % 32 == 0 && (match frameType h with
    | 0 => frameCoded h != 0
    | 1 => frameCoded h == frameRaw h
    | 2 => frameCoded h == 0
    | _ => frameRaw h == 1 && frameCoded h == 0)

/-- A frame header as four bytes. -/
def frameHead (ty raw coded : Nat) : List Byte := leBytes 4 (ty + (raw - 1) * 4 + coded * 16384)

end Sys2Proof.Machine
end

