-- ==== Sys2Proof/Machine/Moves.lean ====
section
/-! DEFINITION. Moves of pages (R144 to R150): starting, aborting and committing the five kinds, inline thaws and their refusal (R147, R154). -/
namespace Sys2Proof.Machine

/-! ### What a page allows -/

/-- The region of a page. -/
def State.regOf (s : State) (p : Nat) : Option Region := (s.regionAt p).map Prod.snd

/-- The region of a page is READONLY (R190). -/
def State.isReadonly (s : State) (p : Nat) : Bool := (s.regOf p).any (fun r => r.readonly)

/-- A line of a page is in O (R120). -/
def State.ownedLine (s : State) (p : Nat) : Bool :=
  s.dir.ways.any (fun (e : Nat × DirEntry) => e.2.st == .o && pageOf e.2.line == p)

/-- MAJOR of the counter block of a page, 0 for a PLAIN page. -/
def State.majorOf (s : State) (p : Nat) : Nat :=
  match s.guard p with
  | none => 0
  | some g => match s.ctrOf g with
    | some b => blkMajor b
    | none => 0

/-- A page may be moved at all: nothing locks it, it can be read, and no line of it is lost (R128, R198, R202). -/
def State.movable (s : State) (p : Nat) : Bool :=
  !s.pageLocked p && !(s.acc p).isMigrating && (s.acc p).form != .unreadable && !s.pageLost p

/-- The kind suits the page's form and region (R129, R139, R190; Table 5.4). A page lent to a peer is never spilled (R28). -/
def State.kindFits (s : State) (m : Planned) : Bool :=
  let r := s.regOf m.page
  let cls := s.clsOf m.page
  match m.kind, (s.acc m.page).form with
  | .freeze, .hot .. => cls != .vitrine && !s.isReadonly m.page && !(r.any (fun r => r.place == 1))
  | .thaw, .cold .. => !s.isReadonly m.page
  | .rehome, .hot c _ _ => m.dst != c && s.chLive m.dst
  | .spill, .hot .. => cls != .vitrine && !s.isReadonly m.page && !(r.any (fun r => r.place == 1 || !r.spillOk || r.lend)) && s.flag Reg.CUR_POLICY_SPILL_EN
  | .spill, .cold .. => !s.isReadonly m.page && !(r.any (fun r => r.place == 1 || !r.spillOk || r.lend)) && s.flag Reg.CUR_POLICY_SPILL_EN
  | .unspill, .spilled .. => true
  | _, _ => false

/-! ### Slots -/

/-- A move begins: the slot keeps the entry, and the page becomes MIGRATING (R144). -/
def State.openSlot (s : State) (slice slot : Nat) (m : MoveSlot) : State :=
  ({ s with place := { s.place with slots := Tbl.put s.place.slots (slotKey slice slot) m } }).setForm m.page (.migrating slot)

/-- A move's slot is freed. -/
def State.closeSlot (s : State) (k : Nat) : State := { s with place := { s.place with slots := Tbl.del s.place.slots k } }

/-! ### Leases -/

/-- Units of a lease in use: (first unit, units). -/
def State.leaseRuns (s : State) (l : Nat) : List (Nat × Nat) :=
  let ofForm : PageForm → List (Nat × Nat)
    | .spilled k u n => if k = l then [(u, spillGroups n)] else []
    | _ => []
  s.place.acc.flatMap (fun (e : Nat × Acc) => ofForm e.2.form)
    ++ s.place.slots.flatMap (fun (e : Nat × MoveSlot) => ofForm e.2.src.form ++ (match e.2.dst with | some f => ofForm f | none => []))

/-- Units of a lease. -/
def State.leaseUnits (s : State) (l : Nat) : Nat := s.rd (Reg.GFT_BORROW_SIZE_GIB l) * 2 ^ 21

/-- The first unit from u on at which a run of n units crosses no multiple of 8 units (R331): a whole page starts at one. -/
def alignUnits (n u : Nat) : Nat := if u % 8 + n ≤ 8 then u else (u / 8 + 1) * 8

/-- The first place at or after a starting unit where n units are free and cross no multiple of 8 units (R331); the spec leaves the choice open, so the start is a free value
(log entry 7). -/
def findUnits (fuel : Nat) (runs : List (Nat × Nat)) (size n start : Nat) : Option Nat :=
  match fuel with
  | 0 => none
  | k + 1 =>
    if size < start + n then findUnits k runs size n 0
    else match runs.find? (fun (r : Nat × Nat) => decide (r.1 < start + n ∧ start < r.1 + r.2)) with
      | none => some start
      | some r => findUnits k runs size n (alignUnits n (r.1 + r.2))

/-- A place for n units on a held lease whose port can carry the page now. (DESIGN CHOICE, safe, log entry 7) -/
def State.pickUnits (s : State) (l n : Nat) : Option Nat :=
  let size := s.leaseUnits l
  if s.rd (Reg.GFT_BORROW_STATE l) ≠ 1 ∨ s.flag (Reg.GFT_BORROW_VALID l) = false ∨ size < s.rd (Reg.GFT_BORROW_USED_UNITS l) + n then none
  else
    let runs := s.leaseRuns l
    match findUnits (2 * runs.length + 3) runs size n (8 * (s.freeNow.toNat % (size / 8))) with
    | none => none
    | some u => match s.leasePort l u with
      | some g => if (s.gp g).outst.length + 8 ≤ 1024 then some u else none
      | none => none

/-! ### Starting -/

/-- A page's frame is read for a freeze, with its tag lines. -/
def State.readFrameFor (s : State) (e p c fr : Nat) : State :=
  (List.range 64).foldl (fun s k => s.sendRead c (fr * 64 + k) (.engine e k) 3 none none) (s.readTags p 64)

/-- A thaw starts, planned or inline: its frame is allocated and its image goes to an engine (R144, R147). -/
def State.startThaw (s : State) (slice slot p : Nat) (inline : Bool) (w : ReadFor) : Option State :=
  let a := s.acc p
  match s.pickEngine slice, s.allocFrame p true with
  | some e, some (c, fr, t) =>
    if !s.haveCtr p then none
    else
      let m : MoveSlot := { page := p, kind := .thaw, src := a, dst := some (.hot c fr none), inlineThaw := inline, engine := some e,
                            startTick := s.tick }
      some (((t.openSlot slice slot m).takeEngine e (.move slice slot)).fetchImage e p a.form w)
  | _, _ => none

/-- A freeze starts: the frame's lines go to an engine that may still compress (R158). -/
def State.startFreeze (s : State) (slice slot p c fr : Nat) : Option State :=
  let a := s.acc p
  if !s.haveCtr p || ((s.guard p).isSome && decide (2 ^ 48 - 2 ≤ s.majorOf p)) then none
  else match s.pickEngine slice (fun e => !s.bit Reg.PRS_RETIRED_ENGINE e) with
    | none => none
    | some e =>
      let m : MoveSlot := { page := p, kind := .freeze, src := a, engine := some e, startTick := s.tick }
      some (((s.openSlot slice slot m).takeEngine e (.move slice slot)).readFrameFor e p c fr)

/-- A rehome starts: a frame of the destination channel is allocated, and the page is read for its first copy round into the buffer of an engine (R25, R146). -/
def State.startRehome (s : State) (slice slot p dst : Nat) (inc : Option Nat) : Option State :=
  match s.pickEngine slice, s.allocOn dst with
  | some e, some (fr, t) =>
    let m : MoveSlot := { page := p, kind := .rehome, src := s.acc p, dst := some (.hot dst fr inc), engine := some e, startTick := s.tick }
    some (((t.openSlot slice slot m).takeEngine e (.move slice slot)).readPage p (s.acc p).form)
  | _, _ => none

/-- A spill starts: units of the lease are taken, and the page is read; its lines go to the peer as they are stored (R148, R331). -/
def State.startSpill (s : State) (slice slot p l : Nat) : Option State :=
  let a := s.acc p
  let n := match a.form with | .cold _ _ n => n | _ => 0
  match s.pickUnits l (spillGroups n) with
  | none => none
  | some u =>
    let m : MoveSlot := { page := p, kind := .spill, src := a, dst := some (.spilled l u n), startTick := s.tick }
    let s := ((s.openSlot slice slot m).advanceFree).wr (Reg.GFT_BORROW_USED_UNITS l) (s.rd (Reg.GFT_BORROW_USED_UNITS l) + spillGroups n)
    some ((s.readPage p a.form).pressure)

/-- An unspill starts: a frame for a whole page, sherds for an image, which an engine decodes to check it (Table 6.7). -/
def State.startUnspill (s : State) (slice slot p l u n : Nat) (inline : Bool) (w : ReadFor) : Option State :=
  let a := s.acc p
  let m : MoveSlot := { page := p, kind := .unspill, src := a, inlineThaw := inline, startTick := s.tick }
  if (s.leasePort l u).isNone then none
  else if n = 0 then
    match s.allocFrame p false with
    | none => none
    | some (c, fr, t) => some ((t.openSlot slice slot { m with dst := some (.hot c fr none) }).gatherPage p l u 0).1
  else
    match s.pickEngine slice, s.allocSherds p none n with
    | some e, some (c, sh, t) =>
      if !s.haveCtr p then none
      else some (((t.openSlot slice slot { m with dst := some (.cold c sh n), engine := some e }).takeEngine e (.move slice slot)).fetchImage e p a.form w)
    | _, _ => none

/-- A move of a kind starts in a free slot of the page's slice; none when it cannot. -/
def State.startMove (s : State) (slice : Nat) (m : Planned) (inline : Bool) (w : ReadFor) : Option State :=
  match s.freeSlot slice inline, (s.acc m.page).form with
  | some slot, .hot c fr inc => match m.kind with
    | .freeze => s.startFreeze slice slot m.page c fr
    | .rehome => s.startRehome slice slot m.page m.dst inc
    | .spill => s.startSpill slice slot m.page m.dst
    | _ => none
  | some slot, .cold .. => match m.kind with
    | .thaw => s.startThaw slice slot m.page inline w
    | .spill => s.startSpill slice slot m.page m.dst
    | _ => none
  | some slot, .spilled l u n => match m.kind with
    | .unspill => s.startUnspill slice slot m.page l u n inline w
    | _ => none
  | _, _ => none

/-! ### Ending -/

/-- The engine of a move is freed, and what it still waits for finds nobody. -/
def State.freeMoveEngine (s : State) (m : MoveSlot) : State :=
  match m.engine with
  | some e => if Tbl.look s.press.engines e = some (.move (homeSlice m.page) (match (s.acc m.page).form with | .migrating n => n | _ => 16)) then
      (s.freeEngine e).orphan (fun w => match w with | .engine f _ => f == e | _ => false)
    else s
  | none => s

/-- A move aborts (R144): the entry is restored, and the destination and the slot are freed. -/
def State.abortMove (s : State) (k : Nat) : State :=
  match Tbl.look s.place.slots k with
  | none => s
  | some m =>
    let s := (s.freeMoveEngine m).dropGather m.page
    let s := (s.setForm m.page m.src.form).closeSlot k
    let s := match m.dst with | some f => s.freeForm f | none => s
    s.cnt 0x0306 .dev

/-- The abort of a move is one admission of the home slice (R144), through the internal DMA source. (DEDUCED, unsafe, log entry 95) -/
def State.admitAbort (s : State) (slice k : Nat) : State := match s.dmaAdmit slice with | none => s | some t => t.abortMove k

/-- MOVE_ABORT (R144): a move that has been marked to abort ends. -/
def State.moveAbort (s : State) (slice slot : Nat) : State :=
  match Tbl.look s.place.slots (slotKey slice slot) with
  | none => s
  | some m => if m.abort then s.admitAbort slice (slotKey slice slot) else s

def execMoveAbort (sl : SliceIx) (slot : SlotIx) (s : State) : Host.Outcome State Fault Refusal := .next (s.moveAbort sl slot)

/-- A freeze, rehome or spill that has not committed after 100 µs aborts (R146): it is marked, so that it commits no longer, and ends with the admission of its abort. -/
def State.moveTimeout (s : State) (slice slot : Nat) : State :=
  match Tbl.look s.place.slots (slotKey slice slot) with
  | none => s
  | some m =>
    let limited := match m.kind with | .freeze => true | .rehome => true | .spill => true | _ => false
    if limited && decide (m.startTick + s.us100 ≤ s.tick) then (s.updSlot (slotKey slice slot) (fun m => { m with abort := true })).admitAbort slice (slotKey slice slot) else s

/-- MOVE_TIMEOUT (R146). -/
def execMoveTimeout (sl : SliceIx) (slot : SlotIx) (s : State) : Host.Outcome State Fault Refusal := .next (s.moveTimeout sl slot)

/-- Lines of a moving page are read again for its next copy round. -/
def State.readLines (s : State) (p : Nat) (f : PageForm) (is : List Nat) : State :=
  let kept := (Tbl.lookD s.sec.gather [] p).filter (fun (e : Nat × Line) => !is.contains e.1)
  let s : State := { s with sec := { s.sec with gather := Tbl.put s.sec.gather p kept } }
  match f with
  | .hot c fr _ => is.foldl (fun s i => s.sendRead c (fr * 64 + i) (.page p i) 3 none none) s
  | _ => s

/-- A rehome's copy round ends when nothing is left to copy (R146): lines written during it are read and copied in the next round, and the fourth such round in a row marks the
move to abort. -/
def State.endRound (s : State) (k : Nat) : State :=
  match Tbl.look s.place.slots k with
  | none => s
  | some m =>
    if m.todo ≠ 0 then s
    else if m.dirty = 0 then s.updSlot k (fun m => { m with copied := true, rounds := 0 })
    else if 4 ≤ m.rounds + 1 then s.updSlot k (fun m => { m with abort := true })
    else (s.readLines m.page m.src.form ((List.range 64).filter (fun i => m.dirty.getLsbD i))).updSlot k (fun m =>
      { m with todo := m.dirty, dirty := 0, rounds := m.rounds + 1, copied := false })

/-- A rehome copies what has been read (R146): its first round as one page store, which frees its engine, later rounds line by line, each an admission of the internal DMA source (R24, R25, R290); the lines go as they
are stored (R148). -/
def State.copyRound (s : State) (slice slot : Nat) : State :=
  let k := slotKey slice slot
  match Tbl.look s.place.slots k with
  | none => s
  | some m => match (if m.abort then none else some m.kind), m.dst with
    | some .rehome, some (.hot c fr _) =>
      let got := Tbl.lookD s.sec.gather [] m.page
      if !m.begun then match s.pageRead m.page 64 with
        | none => s
        | some xs =>
          if !s.storeRoom c (fr * 64) 64 then s
          else match s.moveAdmit slice m with
            | none => s
            | some s => (((s.storeLines c (fr * 64) xs).freeMoveEngine m).updSlot k (fun m => { m with begun := true, engine := none })).endRound k
      else if m.todo = 0 then s.endRound k
      else match (List.range 64).find? (fun i => m.todo.getLsbD i && (Tbl.look got i).isSome) with
        | none => s
        | some i =>
          if !s.wqRoom c (fr * 64 + i) then s
          else match s.moveAdmit slice m with
            | none => s
            | some s => ((s.storeLines c (fr * 64 + i) [Tbl.lookD got {} i]).updSlot k (fun m => { m with todo := m.todo &&& ~~~(1#64 <<< i) })).endRound k
    | _, _ => s

/-- REHOME_COPY_ROUND (R146). -/
def execRehomeCopyRound (sl : SliceIx) (slot : SlotIx) (s : State) : Host.Outcome State Fault Refusal := .next (s.copyRound sl slot)

/-- The entry takes its new form and the source media and the slot are freed (R144). -/
def State.commitForm (s : State) (k : Nat) (m : MoveSlot) (f : PageForm) : State :=
  let s := (s.freeMoveEngine m).dropGather m.page
  ((s.setForm m.page f).closeSlot k).freeForm m.src.form

/-- Poison in every line of a page (R149). -/
def poisonPage : List Line := List.replicate 64 { data := 0, poison := true }

/-- 64 plain lines are stored in a frame under MAJOR + 1 with every minor 0 (Table 7.6). -/
def State.storePage (s : State) (p c fr : Nat) (xs : List Line) : State :=
  match s.guard p with
  | none => s.storeFrame p c fr none 0 xs
  | some g => s.storeFrame p c fr (some g) (majorOnly (s.majorOf p + 1)) xs

/-- A freeze commits: the sherds are sealed under MAJOR + 1, whose low 48 bits are V, and the entry becomes COLD (R129). -/
def State.commitFreeze (s : State) (k : Nat) (m : MoveSlot) (c sh n : Nat) : State :=
  let p := m.page
  let s := match s.guard p with
    | none => (s.storeLines c (sh * 8) m.lines).setAcc p { s.acc p with version := ((s.acc p).version + 1) % 32 }
    | some g => match s.ctrOf g with
      | none => s
      | some b =>
        let b' := setMajor b (blkMajor b + 1)
        let v := blkMajor b' % 2 ^ 48
        let (ys, s) := s.sealAll g 2 (fun _ => 0) v p 0 m.lines
        ((s.setCtr g b').storeLines c (sh * 8) ys).setAcc p { s.acc p with version := v % 32 }
  ((s.wcbDropPage p).commitForm k m (.cold c sh n)).cnt 0x0305 .dev

/-- A thaw commits: the decoded page, or a page of poison with its event (R149), is stored in its frame. -/
def State.commitThaw (s : State) (k : Nat) (m : MoveSlot) (c fr : Nat) : State :=
  let s := match m.fault with
    | none => s.storePage m.page c fr m.lines
    | some f => (s.storePage m.page c fr poisonPage).raise 0x0303 m.page f
  let s := s.commitForm k m (.hot c fr none)
  if m.inlineThaw then s.cnt 0x0304 .dev else s

/-- A spilled page has been written at the peer: no write of its units is without an answer. -/
def State.spillDone (s : State) (l u n : Nat) : Bool :=
  (List.range 2).all (fun g => ((s.gp g).outst ++ (s.gp g).waitReq.map (·.out)).all (fun (o : Outst) =>
    !(o.write && o.lease == l && decide (u ≤ o.line / 8 ∧ o.line / 8 < u + spillGroups n))))

/-- An unspill of an image whose decode faulted commits the page HOT with all lines poisoned (Table 6.7, R149). -/
def State.commitBadUnspill (s : State) (k : Nat) (m : MoveSlot) (fault : Nat) : State :=
  match (match m.dst with | some f => s.freeForm f | none => s).allocFrame m.page false with
  | some (c, fr, t) => if t.storeRoom c (fr * 64) 64 then ((t.storePage m.page c fr poisonPage).raise 0x0303 m.page fault).commitForm k m (.hot c fr none) else s
  | none => ((match m.dst with | some f => s.freeForm f | none => s).raise 0x0303 m.page fault).commitForm k m (.unwritten true)

/-- A rehome whose page has gone into its mask is no longer outside it (R143). -/
def State.inside (s : State) (m : MoveSlot) : State :=
  match m.dst with
  | some (.hot c _ _) =>
    if m.kind = .rehome ∧ maskAllows (s.maskOf m.page) c = true then
      { s with place := { s.place with outside := s.place.outside.filter (· != m.page) } }
    else s
  | _ => s

/-- A move commits. -/
def State.commitMove (s : State) (k : Nat) (m : MoveSlot) : State :=
  match m.kind, m.dst with
  | .freeze, some (.cold c sh n) => s.commitFreeze k m c sh n
  | .thaw, some (.hot c fr _) => s.commitThaw k m c fr
  | .rehome, some f => (s.commitForm k m f).inside m
  | .spill, some f => (s.commitForm k m f).cnt 0x0307 .dev
  | .unspill, some (.hot c fr _) => match s.gathered m.page 0 with
    | some xs => (s.storeLines c (fr * 64) xs).commitForm k m (.hot c fr none)
    | none => s
  | .unspill, some (.cold c sh n) => match m.fault with
    | some f => s.commitBadUnspill k m f
    | none => (s.storeLines c (sh * 8) m.lines).commitForm k m (.cold c sh n)
  | _, _ => s

/-- The copy of a move is complete. -/
def State.copyDone (s : State) (m : MoveSlot) : Bool :=
  match m.kind, m.dst with
  | .rehome, _ => m.copied && m.dirty == 0
  | .spill, some (.spilled l u n) => m.begun && s.spillDone l u n
  | .unspill, some (.hot ..) => (s.gathered m.page 0).isSome
  | .spill, _ => false
  | _, _ => m.copied

/-- The write queues have room for what the commit of a move stores: the page of a thaw, the sherds of a freeze, the page or sherds of an unspill (R210). -/
def State.commitRoom (s : State) (m : MoveSlot) : Bool :=
  match m.kind, m.dst with
  | .rehome, _ => true
  | .spill, _ => true
  | _, some f => m.fault.isSome && m.kind == .unspill || s.formRoom f
  | _, none => true

/-- The commit of a move stores the page or its image under an advanced counter block (Table 7.6): a freeze, a thaw, and an unspill of an image that does not decode. -/
def seals (m : MoveSlot) : Bool := m.kind == .freeze || m.kind == .thaw || (m.kind == .unspill && m.fault.isSome)

/-- MOVE_COMMIT (R144): a move whose copy is complete and which no write has marked to abort commits, by one admission of the home slice (R24, R25, R290), with which the page or sherds of a
freeze, thaw or unspill are stored. -/
def State.moveCommit (s : State) (slice slot : Nat) : State :=
  let k := slotKey slice slot
  match Tbl.look s.place.slots k with
  | none => s
  | some m =>
    if m.abort || s.isSafe || s.path.restart.contains slice || !s.copyDone m || !s.commitRoom m then s
    else match (if seals m then s.wantCtr m.page else (s, some true)) with
      | (s, none) => s
      | (s, some false) => s.updSlot k (fun m => { m with abort := true })
      | (s, some true) => match s.moveAdmit slice m with
        | none => s
        | some s => s.commitMove k m

/-- MOVE_COMMIT (R144). -/
def execMoveCommit (sl : SliceIx) (slot : SlotIx) (s : State) : Host.Outcome State Fault Refusal := .next (s.moveCommit sl slot)

/-- Every move still running aborts (R146). -/
def State.abortMoves (s : State) : State := s.place.slots.foldl (fun (s : State) (e : Nat × MoveSlot) => s.abortMove e.1) s

/-! ### Inline thaws -/

/-- The writes and ownership requests that wait for a thaw that cannot be end with error. -/
def State.endWaiting (s : State) (p : Nat) : State :=
  let ts := s.path.txns.filter (fun (t : Txn) => t.req.page == p && t.phase == .needThaw)
  ts.foldl (fun s (t : Txn) => s.finish t { error := true }) s

/-- A thaw that cannot get a frame at EXHAUSTED does not start: what waits for it ends with error, and the fatal event names the page (R154). -/
def State.refuseThaw (s : State) (p : Nat) : State :=
  (s.endWaiting p).raise 0x0307 p

/-- A request that waits for a thaw of its page starts one: at once, or with the first slot that becomes free (R147). A page whose counter block proves lost takes no write (R202). An
image at a peer is unspilled first, while the pressure level lets a page be unspilled (Table 5.6, R154; DEDUCED, safe, log entry 13). -/
def State.inlineThaw (s : State) (slice id : Nat) : State :=
  match s.path.txns.find? (fun (t : Txn) => t.req.id == id && t.slice == slice && t.phase == .needThaw) with
  | none => s
  | some t =>
    let p := t.req.page
    if s.isSafe || s.path.restart.contains slice || s.boot.warmEntry || s.pageLocked p then s
    else match (s.acc p).form with
      | .cold .. => match s.wantCtr p t.req.readFor with
        | (s, none) => s
        | (s, some false) => s.endWaiting p
        | (s, some true) =>
          if (s.allocFrame p true).isNone then s.refuseThaw p
          else (s.startMove slice { page := p, kind := .thaw } true t.req.readFor).getD s
      | .spilled .. =>
        if 2 ≤ s.rd Reg.CUR_PRESSURE_LEVEL then s
        else match s.wantCtr p t.req.readFor with
        | (s, none) => s
        | (s, some false) => s.endWaiting p
        | (s, some true) => (s.startMove slice { page := p, kind := .unspill } true t.req.readFor).getD s
      | _ => s

/-- INLINE_THAW_START (R147). -/
def execInlineThawStart (sl : SliceIx) (txn : Nat) (s : State) : Host.Outcome State Fault Refusal := .next (s.inlineThaw sl txn)

/-- A decode fault on a read starts an inline thaw of the page (R170): an internal request waits for it as a write would. (DEDUCED, safe, log entry 13) -/
def State.wantThaw (s : State) (p : Nat) : State :=
  if s.path.txns.any (fun (t : Txn) => t.req.page == p && t.phase == .needThaw) then s
  else
    let q : Req := { id := s.path.nextId, src := .dma, ld := 0, op := .inv, line := p * 64, arrival := s.tick }
    let t : Txn := { req := q, slice := homeSlice p, phase := .needThaw }
    { s with path := { s.path with nextId := s.path.nextId + 1, txns := s.path.txns ++ [t] } }

end Sys2Proof.Machine
end

