-- ==== Sys2Proof/Machine/Curator.lean ====
section
/-! DEFINITION. The Curator: the cold scan (R135, R141), epochs (R136 to R138), plans (R139 to R143), and the staging and start of planned moves
(R144, R150). -/
namespace Sys2Proof.Machine

/-! ### The cold scan -/

/-- The page of a slice in the n-th block of 32 pages: exactly one page of a block lies at each home slice (R19). -/
def slicePage (slice n : Nat) : Nat := 32 * n + (slice ^^^ homeSlice (32 * n))

/-- Idle epochs of a page by its FSTAMP; aged pages count as 8 (R135). -/
def State.idleOf (s : State) (a : Acc) : Nat := if a.fstamp = 15 then 8 else (s.place.epoch + 15 - a.fstamp) % 15

/-- FREEZE_IDLE in force for a page: FREEZE_IDLE_TIGHT at TIGHT and worse, 1 where the region prefers cold (R139, Table 5.4). -/
def State.freezeIdle (s : State) (p : Nat) : Nat :=
  if (s.regOf p).any (fun r => r.place == 2) then 1
  else
    let v := if s.rd Reg.CUR_PRESSURE_LEVEL = 0 then s.rd Reg.CUR_POLICY_FREEZE_IDLE else s.rd Reg.CUR_POLICY_FREEZE_IDLE_TIGHT
    min 8 (max 1 v)

/-- The generation in use (R141). -/
def State.incGen (s : State) : Nat := (s.place.epoch / 16) % 16

/-- A form without a stale incompressible mark (R141). -/
def clearInc (gen : Nat) (f : PageForm) : PageForm :=
  match f with
  | .hot c fr (some g) => if 2 ≤ (gen + 16 - g) % 16 then .hot c fr none else f
  | _ => f

/-- The visit of the scan to a page (R135): aging, the freeze list, and the incompressible mark, which a page under a rehome carries in both its forms. -/
def State.visit (s : State) (p : Nat) : State :=
  let a := s.acc p
  if a.form = .unreadable then s
  else
    let src := s.srcForm p
    let idle := s.idleOf a
    let s := if 8 ≤ idle ∧ a.fstamp ≠ 15 then
        let s := s.setAcc p { a with fstamp := 15 }
        { s with place := { s.place with foot := Tbl.putD s.place.foot 0 p 0 } }
      else s
    let s := match src with
      | .hot _ _ none => if s.freezeIdle p ≤ idle then s.listAdd (·.freeze) (fun q l => { q with freeze := l }) (· == p) p p else s
      | _ => s
    match s.slotOf p with
    | some (k, _) => s.updSlot k (fun m => { m with src := { m.src with form := clearInc s.incGen m.src.form }, dst := m.dst.map (clearInc s.incGen) })
    | none => s.setForm p (clearInc s.incGen (s.acc p).form)

/-- The page that the scan of a slice comes to next, in DPA order. -/
def State.scanPage (s : State) (slice : Nat) : Nat := slicePage slice (Tbl.lookD s.place.scanNext 0 slice % (s.boot.h * 2048))

/-- The lines that hold the accession entry and the footfall word of a page. -/
def scanItems (p : Nat) : List (MetaKind × Nat) := [(.acc, p / 8), (.foot, p / 32)]

/-- The scan of a slice visits its page, and the next one is its next page (R135). -/
def State.scanOn (s : State) (slice : Nat) : State :=
  let p := s.scanPage slice
  let t : State := { s with place := { s.place with
    scanNext := Tbl.putD s.place.scanNext 0 slice ((Tbl.lookD s.place.scanNext 0 slice + 1) % (s.boot.h * 2048))
    scanned := Tbl.upd s.place.scanned 0 slice (· + 1)
    scanAsk := s.place.scanAsk.filter (· != slice) } }
  t.visit p

/-- COLD_SCAN_VISIT: the scan of a slice visits its next page in DPA order, in the governor's share (R135, R290). A page whose entry and word are not cached, which is a free value,
has their lines read first, in tier 3, and is visited once they are back (R211). -/
def State.scanVisit (s : State) (slice : Nat) : State :=
  let xs := scanItems (s.scanPage slice)
  if s.boot.h == 0 then s
  else if s.place.scanAsk.contains slice then (if s.itemsPending xs then s else s.scanOn slice)
  else if !s.permits .scan then s
  else match s.govAdmit slice .scan with
    | none => s
    | some t =>
      if t.freeNow.getLsbD 0 then
        let u := t.advanceFree.metaReads xs
        if u.itemsPending xs then { u with place := { u.place with scanAsk := u.place.scanAsk ++ [slice] } } else u.scanOn slice
      else t.advanceFree.scanOn slice

/-- COLD_SCAN_VISIT (R135). -/
def execColdScanVisit (sl : SliceIx) (s : State) : Host.Outcome State Fault Refusal := .next (s.scanVisit sl)

/-! ### Epochs -/

/-- The scan of every slice has advanced by 1/7 of a pass, which is the slice's share of the pages of H (R135, R136). -/
def State.scannedSeventh (s : State) : Bool := (List.range 32).all (fun sl => decide (s.boot.h * 2048 ≤ 7 * Tbl.lookD s.place.scanned 0 sl))

/-- The milliseconds that have passed since the epoch opened, in ticks of the running root clock (R4). -/
def State.epochMs (s : State) : Nat := (s.tick - s.place.epochAt) / max 1 s.ms

/-- The epoch closes when its length has elapsed and the scan has advanced 1/7 of a pass (R136): the lists are frozen, plans that have not started are discarded, and the next epoch
opens (R137, R138). -/
def State.epochClose (s : State) : State :=
  if s.isSafe || decide (s.epochMs < s.place.lenMs) || !s.scannedSeventh then s
  else
    let ms := s.epochMs
    let q := s.place
    let long := decide (q.lenMs < ms)
    let s := { s with place := { q with
      thaw := [], busy := [], freeze := [], totals := [], thawC := q.thaw, busyC := q.busy, freezeC := q.freeze, totalsC := q.totals,
      epoch := q.epoch + 1, closed := true, plan := [], planned := [], staged := [], scanned := [], long := long,
      lenMs := s.rd Reg.CUR_EPOCH_CFG_LEN_MS, epochAt := s.tick } }
    let s := (s.wr Reg.CUR_EPOCH_STATUS_EPOCH (s.place.epoch % 65536)).wr Reg.CUR_EPOCH_STATUS_INC_GEN s.incGen
    let s := s.wr Reg.CUR_EPOCH_LEN_EFF_LEN_MS (min 0xFFFFF ms)
    let s := if long then s.setFlag Reg.CUR_EPOCH_STATUS_LENGTHENED true else s
    if long = q.long then s else s.raise 0x0302 (min 0xFFFFF ms)

/-- EPOCH_CLOSE (R136). -/
def execEpochClose (s : State) : Host.Outcome State Fault Refusal := .next s.epochClose

/-! ### The plan -/

/-- Accesses of a channel in the closed epoch, over all slices. -/
def State.chanTotal (s : State) (c : Nat) : Nat := ((List.range 32).map (fun sl => Tbl.lookD s.place.totalsC 0 (sl * 16 + c))).sum

/-- Sum of the populated channels' totals. -/
def State.allTotals (s : State) : Nat := (s.liveChans.map s.chanTotal).sum

/-- A channel's total is at most the mean of the populated channels. -/
def State.atMostMean (s : State) (c : Nat) : Bool := decide (s.chanTotal c * s.liveChans.length ≤ s.allTotals)

/-- A channel's total exceeds the mean by more than BALANCE_PCT percent; 0 disables rehoming for load. -/
def State.overloaded (s : State) (c : Nat) : Bool :=
  let pct := s.rd Reg.CUR_POLICY_BALANCE_PCT
  pct != 0 && decide (s.allTotals * (100 + pct) < s.chanTotal c * s.liveChans.length * 100)

/-- The channel a page is rehomed to: the lowest total among the channels of its mask, without its own, derated ones and those with no free frame
(R139). -/
def State.rehomeTo (s : State) (p own : Nat) : Option Nat :=
  let ok (c : Nat) : Bool := maskAllows (s.maskOf p) c && c != own && s.derate c == 0 && s.drawsAt.any (fun d => s.canGive d c)
  leastBy s.chanTotal (s.liveChans.filter ok)

/-- Thaws and unspills of a slice: its thaw list, and the COLD pages of regions kept hot (R139, Table 5.4). -/
def State.planThaws (s : State) (slice : Nat) : List Planned :=
  let kept := (s.place.acc.filter (fun (e : Nat × Acc) => homeSlice e.1 == slice && (match e.2.form with | .cold .. => true | _ => false)
    && (s.regOf e.1).any (fun r => r.place == 1))).map Prod.fst
  let l := Tbl.lookD s.place.thawC [] slice
  (l ++ kept.filter (fun p => !l.contains p)).filterMap (fun p => match s.srcForm p with
    | .cold .. => some { page := p, kind := .thaw }
    | .spilled .. => if s.rd Reg.CUR_PRESSURE_LEVEL ≤ 1 then some { page := p, kind := .unspill } else none
    | _ => none)

/-- A page of the freeze list that the Kelorn can freeze. -/
def State.canFreeze (s : State) (p : Nat) : Bool :=
  s.kindFits { page := p, kind := .freeze } && s.rd Reg.PRS_RETIRED_ENGINE != 2 ^ 64 - 1 && decide (s.majorOf p < 2 ^ 48 - 2)

/-- Freezes of a slice: its freeze list. -/
def State.planFreezes (s : State) (slice : Nat) : List Planned :=
  ((Tbl.lookD s.place.freezeC [] slice).filter s.canFreeze).map (fun p => { page := p, kind := .freeze })

/-- Rehomes of a slice: busy pages on an overloaded or derated channel, as the closed list names it, and pages placed outside their mask (R139, R143). -/
def State.planRehomes (s : State) (slice : Nat) : List Planned :=
  let busy := ((Tbl.lookD s.place.busyC [] slice).filter (fun e => (s.overloaded e.2 || s.derate e.2 != 0) && (match s.srcForm e.1 with
    | .hot c _ _ => c == e.2
    | _ => false))).map Prod.fst
  let out := s.place.outside.filter (fun p => homeSlice p == slice)
  (busy ++ out.filter (fun p => !busy.contains p)).filterMap (fun p => match s.srcForm p with
    | .hot c _ _ => (s.rehomeTo p c).map (fun d => { page := p, kind := .rehome, dst := d })
    | _ => none)

/-- A lease that a spill can go to: the first held one with free space. (DEDUCED, unsafe, log entry 39) -/
def State.spillLease (s : State) : Option Nat :=
  (s.borrow.map Prod.fst).find? (fun l => s.rd (Reg.GFT_BORROW_STATE l) == 1
    && decide (s.rd (Reg.GFT_BORROW_USED_UNITS l) + 8 ≤ s.leaseUnits l))

/-- Spills of a slice, at RESERVE and worse: pages of the freeze list that cannot be frozen, then its other HOT pages, the longest idle first (R139). -/
def State.planSpills (s : State) (slice : Nat) : List Planned :=
  if s.rd Reg.CUR_PRESSURE_LEVEL < 3 then []
  else match s.spillLease with
    | none => []
    | some l =>
      let first := (Tbl.lookD s.place.freezeC [] slice).filter (fun p => !s.canFreeze p)
      let hot := (s.place.acc.filter (fun (e : Nat × Acc) => homeSlice e.1 == slice && (match e.2.form with | .hot .. => true | _ => false))).map Prod.fst
      let more := rankBy (fun a b => decide (s.idleOf (s.acc b) < s.idleOf (s.acc a))) (hot.filter (fun p => !first.contains p && !s.canFreeze p
        || !(Tbl.lookD s.place.freezeC [] slice).contains p))
      (first ++ more).map (fun p => { page := p, kind := .spill, dst := l })

/-- The plan of a slice in its order of precedence; at TIGHT and worse freezes come before thaws (R139, Table 5.6). (DEDUCED, unsafe, log entry 75) -/
def State.planOf (s : State) (slice : Nat) : List Planned :=
  let t := s.planThaws slice
  let f := s.planFreezes slice
  (if s.rd Reg.CUR_PRESSURE_LEVEL = 0 then t ++ f else f ++ t) ++ s.planRehomes slice ++ s.planSpills slice

/-- The allocation set of a plan (R142): populated channels at or below the mean that the governor has not derated. -/
def State.allocChans (s : State) : List Nat := s.liveChans.filter (fun c => s.atMostMean c && s.derate c == 0)

/-- CURATOR_PLAN: a pair builds the plan of the closed epoch for the slices whose duty it holds, once in an epoch, and none from warm-reset entry on (R34, R138, Table 18.4). (DEDUCED, unsafe, log entry 75) -/
def State.curatorPlan (s : State) (p : Nat) : State :=
  if s.isSafe || s.boot.warmEntry || !s.healthy p || s.warden.fence.contains p || !s.flag Reg.CUR_EPOCH_CFG_CURATE || !s.place.closed then s
  else
    (List.range 4).foldl (fun (s : State) j =>
      if s.dutyOwner (2 + j) ≠ p ∨ s.place.planned.contains (2 + j) = true then s
      else
        let slices := (List.range 8).map (fun k => 8 * j + k)
        let plan := slices.foldl (fun t sl => Tbl.put t sl (s.planOf sl)) s.place.plan
        let sets := slices.foldl (fun t sl => Tbl.put t sl s.allocChans) s.place.allocSet
        { s with place := { s.place with plan := plan, allocSet := sets, planned := s.place.planned ++ [2 + j] } }) s

/-- CURATOR_PLAN (R138). -/
def execCuratorPlan (p : Pair) (s : State) : Host.Outcome State Fault Refusal := .next (s.curatorPlan p)

/-! ### Staging and starting -/

/-- A page of a recalled lease that lies at a slice and is not being moved (R150). -/
def State.recalledPage (s : State) (slice : Nat) : Option Nat :=
  (s.place.acc.find? (fun (e : Nat × Acc) => homeSlice e.1 == slice
    && !s.place.staged.any (fun (x : Staged) => x.move.page == e.1) && (match e.2.form with
      | .spilled l _ _ => s.rd (Reg.GFT_BORROW_STATE l) == 2
      | _ => false))).map Prod.fst

/-- MOVE_STAGE: the Curator stages the next move of a slice at its access port: unspills of a recalled lease come ahead of the plan's own moves, which
need CURATE, and of these at RESERVE and worse the spills come first (R144, R150, R291). (DEDUCED, unsafe, log entry 75) -/
def State.moveStage (s : State) (slice : Nat) : State :=
  let pair := s.dutyOwner (2 + slice / 8)
  let put (m : Planned) (s : State) : State := { s with place := { s.place with staged := s.place.staged ++ [{ slice := slice, pair := pair, move := m }] } }
  if s.isSafe || s.boot.warmEntry || !s.dutyUp (2 + slice / 8) then s
  else match s.recalledPage slice with
    | some p => put { page := p, kind := .unspill } s
    | none =>
      if !s.flag Reg.CUR_EPOCH_CFG_CURATE then s
      else
        let l := Tbl.lookD s.place.plan [] slice
        match (l.find? (fun (m : Planned) => decide (3 ≤ s.rd Reg.CUR_PRESSURE_LEVEL) && m.kind == .spill)).or l.head? with
        | none => s
        | some m => put m { s with place := { s.place with plan := Tbl.put s.place.plan slice (l.erase m) } }

/-- MOVE_STAGE (R144). -/
def execMoveStage (sl : SliceIx) (s : State) : Host.Outcome State Fault Refusal := .next (s.moveStage sl)

/-- The move is taken off the port. -/
def State.unstage (s : State) (x : Staged) : State := { s with place := { s.place with staged := s.place.staged.erase x } }

/-- The pressure level forbids a move: SPILLED pages are not unspilled at LOW and worse but for a recalled lease, and at EXHAUSTED no rehome and no unspill starts (Table 5.6,
R154). -/
def State.levelForbids (s : State) (m : Planned) : Bool :=
  let l := s.rd Reg.CUR_PRESSURE_LEVEL
  (l == 4 && (m.kind == .rehome || m.kind == .unspill)) || (decide (2 ≤ l) && m.kind == .unspill && !s.forced m)

/-- The kinds that open the page or its image under its counter block: freezes, thaws, and unspills of an image, which is decoded to check it (Table 6.7). -/
def State.opensPage (s : State) (m : Planned) : Bool :=
  match m.kind, (s.acc m.page).form with
  | .freeze, _ => true
  | .thaw, _ => true
  | .unspill, .spilled _ _ n => n != 0
  | _, _ => false

/-- MOVE_START: the home slice admits the start of its next staged move through the internal DMA source, in the governor's share and its kind's turn (R144, R290, R291); with CURATE 0 only a
recalled lease's unspills start. The probe of R120 refuses a freeze or spill of a page with a line in O. A move that its page no longer suits, or that cannot get what it needs, does not start
(R139); one whose counter block proves lost does not (R202), nor does a thaw that finds the thaw floor used up, with its fatal event (R154). -/
def State.moveStart (s : State) (slice : Nat) : State :=
  match s.nextStaged slice with
  | none => s
  | some x =>
    let m := x.move
    match (if s.opensPage m then s.wantCtr m.page else (s, some true)) with
    | (s, none) => s
    | (s, some ok) => match (if s.forced m then s.dmaAdmit slice else s.govAdmit slice .moves) with
    | none => s
    | some t =>
      let forbids := t.levelForbids m
      let t := (t.unstage x).checkPageTags m.page
      if !t.movable m.page || !t.kindFits m || forbids then t
      else if t.isDb m.page && (m.kind == .freeze || m.kind == .spill) && t.ownedLine m.page then
        ({ t with place := { t.place with refusals := t.place.refusals + 1 } }).cnt 0x0308 .dev
      else if !ok then t
      else if m.kind = .thaw ∧ (t.allocFrame m.page true).isNone = true then t.refuseThaw m.page
      else (t.startMove slice m false {}).getD t

/-- MOVE_START (R144). -/
def execMoveStart (sl : SliceIx) (s : State) : Host.Outcome State Fault Refusal := .next (s.moveStart sl)

end Sys2Proof.Machine
end

