-- ==== Sys2Proof/Machine/Press.lean ====
section
/-! DEFINITION. What a Press engine does with a page: compression with its check (R140, R167, R168, R158) and decoding (R156, R169 to R171). -/
namespace Sys2Proof.Machine

/-! ### Verify failures -/

/-- A verify failure (R168): counted for its engine, raised, and the engine is retired at the RETIRE_AT-th (R158). -/
def State.verifyFail (s : State) (e page : Nat) : State :=
  let n := Tbl.lookD s.press.fails 0 e + 1
  let s := { s with press := { s.press with fails := Tbl.put s.press.fails e n } }
  let s := (s.sat Reg.PRS_VERIFY_FAILS_COUNT 1).wr Reg.PRS_VERIFY_FAILS_LAST_ENGINE e
  ((((s.cnt 0x0403 .dev).stn (48 + e) 3)).raise 0x0402 e page).retireEngine e

/-! ### Lines of an engine -/

/-- The lines an engine has received, when it has all of n. -/
def State.engineLines (s : State) (e n : Nat) : Option (List Line) :=
  let t := Tbl.lookD s.press.sherds [] e
  if (List.range n).all (fun k => (Tbl.look t k).isSome) then some ((List.range n).map (fun k => Tbl.lookD t {} k)) else none

/-! ### Compression -/

/-- A page read for a freeze as plain lines: opened under its block, with what the buffer holds over them. -/
def State.plainPage (s : State) (p : Nat) (xs : List Line) : List Line × State :=
  (xs.zipIdx).foldl (fun (acc : List Line × State) (e : Line × Nat) =>
    let (y, failed) := acc.2.plainLine p e.2 e.1
    let s := if failed then acc.2.tagFail (p * 64 + e.2) (acc.2.clsOf p) false else acc.2
    (acc.1 ++ [s.overWcb (p * 64 + e.2) y], s)) ([], s)

/-- The freeze is given up: the slot is marked to abort, and the page incompressible when asked (R140, R141). -/
def State.giveUp (s : State) (k : Nat) (mark : Bool) : State :=
  s.updSlot k (fun m =>
    let f := match m.src.form with
      | .hot c fr inc => .hot c fr (if mark then some s.incGen else inc)
      | f => f
    { m with abort := true, src := { m.src with form := f } })

/-- The image of a freeze, verified against the page (R167): the sherds as lines, or the checker's decode fault with its strand, 0 when it decodes to other data. -/
def checkedImage (img : Image) (p v : Nat) (page : List Line) : Except (Nat × Nat) (List Line) :=
  let sherds := buildSherds img (sherdsFor img.stream.length) 0 p v
  let r := decodeImage sherds 0 p v true
  if r.fault = 0 ∧ r.lines.map (·.data) = page.map (·.data) then .ok (sherds.flatMap linesOfSherd) else .error (r.fault, r.strand)

/-- A decode fault is recorded (R170). -/
def State.decodeFault (s : State) (e p code strand : Nat) : State :=
  let s := (s.sat Reg.PRS_FAULTS_COUNT 1).wr Reg.PRS_FAULTS_LAST_FAULT code
  let s := (s.wr Reg.PRS_LAST_FAULT_DPA_PAGE p).wr Reg.PRS_LAST_FAULT_DPA_STRAND strand
  s.stn (48 + e) 4

/-- The compressor and the checker of an engine end with a freeze's page (R140, R167, R168); a decode fault of the checker is recorded too (R170). -/
def State.compressDone (s : State) (e : Nat) (img : Image) : State :=
  match Tbl.look s.press.engines e with
  | some (.move slice slot) =>
    let k := slotKey slice slot
    match Tbl.look s.place.slots k, s.engineLines e 64 with
    | some m, some raw => match m.kind, m.src.form with
      | .freeze, .hot c _ _ =>
        let p := m.page
        match (if s.tagsPending p 64 then (s, none) else s.wantCtr p) with
        | (s, none) => s
        | (s, some false) => (s.freeEngine e).giveUp k false
        | (s, some true) =>
        let (page, s) := s.plainPage p raw
        let s := s.freeEngine e
        let n := sherdsFor img.stream.length
        if page.any (fun x => x.poison) || decide (7 < n) || img.stream == [] then s.giveUp k true
        else
          let v := match s.guard p with
            | none => ((s.acc p).version + 1) % 32
            | some _ => (s.majorOf p + 1) % 2 ^ 48
          match checkedImage img p v page with
          | .error (code, strand) => ((if code = 0 then s else s.decodeFault e p code strand).verifyFail e p).giveUp k true
          | .ok lines => match s.allocSherds p (some c) n with
            | none => s.giveUp k false
            | some (c', sh, s) =>
              (s.stn (48 + e) 0).updSlot k (fun m => { m with dst := some (.cold c' sh n), lines := lines, copied := true })
      | _, _ => s
    | _, _ => s
  | _ => s

/-- PRESS_COMPRESS_DONE (R167). -/
def execPressCompressDone (e : Engine) (img : Image) (s : State) : Host.Outcome State Fault Refusal := .next (s.compressDone e img)

/-! ### Decoding -/

/-- Line n of a sherd opened under the seal of its image (R171). -/
def openSherdSealed (sl : Seal) (p n : Nat) (x : Line) : Option Line :=
  if x.poison then some x
  else
    let t (use : Nat) := tBlock use 0 (blkMajor sl.blk % 2 ^ 48) (p * 64 + n)
    if (sl.tags[n]?).getD 0 = BitVec.ofNat 64 (tagOf sl.g.kt (t 3) sl.g.n x.data) then
      some { data := cryptLine sl.g.kd (t 2) x.data, poison := false }
    else none

/-- What a decode of a page's image gives: poisoned input, a fault with its strand, or the page. -/
inductive ImgOutcome
  | poisoned
  | fault (code strand : Nat)
  | page (lines : List Line)
deriving DecidableEq, Repr

/-- Opens the sherd lines of a page: a line whose tag is lost becomes poison (R201), and so does one whose tag fails, which is recorded. -/
def State.openImage (s : State) (p : Nat) (sl : Option Seal) (raw : List Line) : List Line × State :=
  match sl with
  | none => (raw, s)
  | some sl => (raw.zipIdx).foldl (fun (acc : List Line × State) (e : Line × Nat) =>
      if s.lineLost p e.2 then (acc.1 ++ [{ e.1 with poison := true }], acc.2)
      else match openSherdSealed sl p e.2 e.1 with
      | some y => (acc.1 ++ [y], acc.2)
      | none => (acc.1 ++ [{ e.1 with poison := true }], acc.2.tagFail (p * 64) (s.clsOf p) true)) ([], s)

/-- An image's run lies within one frame; an image at a peer lies in the lease's units (R165). -/
def inFrame : PageForm → Bool
  | .cold _ sh n => decide (sh % 8 + n ≤ 8)
  | _ => true

/-- Decodes a page's image: the expected version is that of its seal, or VERSION of a PLAIN page (R129). -/
def State.decodePage (s : State) (p version : Nat) (f : PageForm) (sl : Option Seal) (raw : List Line) : ImgOutcome × State :=
  let (xs, s) := s.openImage p sl raw
  if xs.any (fun x => x.poison) then (.poisoned, s)
  else
    let v := match sl with | some sl => blkMajor sl.blk % 2 ^ 48 | none => version
    let r := decodeImage ((chunk 8 8 xs).filterMap (fun (g : List Line) => if g = [] then none else some (sherdOf g))) 0 p v (inFrame f)
    if r.fault = 0 then (.page r.lines, s) else (.fault r.fault r.strand, s)

/-- A page image has been decoded. -/
def State.decoded (s : State) (e : Nat) : State := (s.cnt 0x0401 .dev).stn (48 + e) 1

/-- Sherds of a form. -/
def sherdCount : PageForm → Nat
  | .cold _ _ n => n
  | .spilled _ _ n => n
  | _ => 0

/-- The reads that wait for a page's decode complete. -/
def State.serveDecoded (s : State) (p : Nat) (at' : Nat → Line) : State :=
  let ts := s.path.txns.filter (fun (t : Txn) => t.req.page == p && t.phase == .decode)
  ts.foldl (fun s (t : Txn) => s.deliver t (at' t.req.lineIx)) s

/-- The decode for the reads of a page ends (R156, R170, R171). -/
def State.readDecoded (s : State) (e p version : Nat) (f : PageForm) (sl : Option Seal) (raw : List Line) : State :=
  let bad : Line := { data := 0, poison := true }
  let s := s.freeEngine e
  match s.decodePage p version f sl raw with
  | (.poisoned, s) => s.serveDecoded p (fun _ => bad)
  | (.fault code strand, s) =>
    let s := ((s.decodeFault e p code strand).raise 0x0403 p (strand + code * 16)).serveDecoded p (fun _ => bad)
    match (s.acc p).form with
    | .cold .. => s.wantThaw p
    | _ => s
  | (.page lines, s) => (s.decoded e).serveDecoded p (fun i => (lines[i]?).getD {})

/-- Reads have joined the decode of a page: a fault of it is raised for them as for a read (R156, Table 6.7). -/
def State.joinedFault (s : State) (p code strand : Nat) : State :=
  if s.path.txns.any (fun (t : Txn) => t.req.page == p && t.phase == .decode) then s.raise 0x0403 p (strand + code * 16) else s

/-- The decode for a thaw or an unspill ends (R149, Table 6.7), and the reads that have joined it complete (R156). An unspill keeps the sherds as they are stored; the engine of a thaw
keeps the page until its page store (R25). -/
def State.moveDecoded (s : State) (e k : Nat) (m : MoveSlot) (raw : List Line) : State :=
  let p := m.page
  let bad : Line := { data := 0, poison := true }
  let s := if m.kind = .thaw then s else s.freeEngine e
  let keep (lines : List Line) : List Line := match m.kind with | .unspill => raw | _ => lines
  match (if s.haveCtr p then s.decodePage p m.src.version m.src.form (s.imageSeal p (sherdCount m.src.form)) raw else (.poisoned, s)) with
  | (.poisoned, s) => (s.updSlot k (fun m => { m with copied := true, fault := some 0 })).serveDecoded p (fun _ => bad)
  | (.fault code strand, s) => (((s.decodeFault e p code strand).joinedFault p code strand).updSlot k (fun m => { m with copied := true, fault := some code })).serveDecoded p (fun _ => bad)
  | (.page lines, s) => ((s.decoded e).updSlot k (fun m => { m with copied := true, lines := keep lines })).serveDecoded p (fun i => (lines[i]?).getD {})

/-- An engine has received its image and its tags, and decoded it (R156). -/
def State.decodeDone (s : State) (e : Nat) : State :=
  match Tbl.look s.press.engines e with
  | some (.read p f version sl) => match s.engineLines e (8 * sherdCount f) with
    | some raw => if s.tagsPending p (8 * sherdCount f) then s else s.readDecoded e p version f sl raw
    | none => s
  | some (.move slice slot) =>
    let k := slotKey slice slot
    match Tbl.look s.place.slots k with
    | some m => match (if m.copied then .freeze else m.kind), s.engineLines e (8 * sherdCount m.src.form) with
      | .freeze, _ => s
      | .rehome, _ => s
      | .spill, _ => s
      | _, some raw =>
        match (if s.tagsPending m.page (8 * sherdCount m.src.form) then (s, none) else s.wantCtr m.page) with
        | (s, none) => s
        | (s, some _) => s.moveDecoded e k m raw
      | _, none => s
    | none => s
  | _ => s

/-- PRESS_DECODE_DONE (R156). -/
def execPressDecodeDone (e : Engine) (s : State) : Host.Outcome State Fault Refusal := .next (s.decodeDone e)

end Sys2Proof.Machine
end

