-- ==== Sys2Proof/Machine/Jobs.lean ====
section
/-! DEFINITION. The Press job queues (R172 to R177): reading a descriptor, the four operations of Table 6.9 over bytes, and how a job ends. -/
namespace Sys2Proof.Machine

/-! ### Descriptors (Table 6.8) -/

def dOp (d : BitVec 512) : Nat := bitsOf d 0 8
def dRo (d : BitVec 512) : Bool := d.getLsbD 8
def dIrq (d : BitVec 512) : Bool := d.getLsbD 9
def dCont (d : BitVec 512) : Bool := d.getLsbD 10
def dFinal (d : BitVec 512) : Bool := d.getLsbD 11
def dSrcDev (d : BitVec 512) : Bool := d.getLsbD 12
def dDstDev (d : BitVec 512) : Bool := d.getLsbD 13
def dVector (d : BitVec 512) : Nat := bitsOf d 16 5
def dTag (d : BitVec 512) : Nat := bitsOf d 32 32
def dSrc (d : BitVec 512) : Nat := bitsOf d 64 64
def dSrcLen (d : BitVec 512) : Nat := bitsOf d 128 32
def dDstLen (d : BitVec 512) : Nat := bitsOf d 160 32
def dDst (d : BitVec 512) : Nat := bitsOf d 192 64
def dContAddr (d : BitVec 512) : Nat := bitsOf d 256 64
def dComplAddr (d : BitVec 512) : Nat := bitsOf d 320 64
def dV (d : BitVec 512) : Nat := bitsOf d 384 48
def dPtag (d : BitVec 512) : Nat := bitsOf d 448 32

/-- Stream operations have a continuation; page operations have none (R175). -/
def isStreamOp (op : Nat) : Bool := op == 1 || op == 2
/-- Compression operations need an engine that is not retired (R158). -/
def isCompressOp (op : Nat) : Bool := op == 1 || op == 3

/-- Nothing is done: reserved OP or bits, or a length out of range (Table 6.11). A fence uses only part of the descriptor (Table 6.9). -/
def badDescriptor (d : BitVec 512) : Bool :=
  if dOp d = 0x0F then false
  else !(decide (1 ≤ dOp d ∧ dOp d ≤ 4)) || bitsOf d 14 2 != 0 || bitsOf d 21 11 != 0 || bitsOf d 432 16 != 0 || bitsOf d 480 32 != 0
    || dSrcLen d == 0 || decide (2 ^ 24 < dSrcLen d) || (dOp d == 3 && dSrcLen d != 4096) || (dOp d == 4 && dSrcLen d % 512 != 0)

/-- A continuation record (Table 6.12). -/
structure Cont where
  inT : Nat := 0
  outT : Nat := 0
  crc : Nat := 0
  blocks : Nat := 0
deriving DecidableEq, Repr

/-- The continuation a job starts from: the record's when CONT is set, and none when the record does not match (R176). -/
def contOf (d : BitVec 512) (rec : List Byte) : Option Cont :=
  if !dCont d || !isStreamOp (dOp d) then some {}
  else if rec.length = 64 ∧ ofBytes (rec.take 1) = 1 ∧ ofBytes ((rec.drop 1).take 1) = dOp d then
    let k : Cont := { inT := ofBytes ((rec.drop 8).take 8), outT := ofBytes ((rec.drop 16).take 8), crc := ofBytes ((rec.drop 24).take 4),
                      blocks := ofBytes ((rec.drop 28).take 4) }
    some k
  else none

/-- What a job has done when it ends: STATUS and FAULT of its record, MORE, the bytes consumed, the bytes it writes, the running CRC and the
frames (Table 6.10), and whether the checker found a failure (R168). -/
structure JobRes where
  status : Nat := 0
  fault  : Nat := 0
  more   : Bool := false
  used   : Nat := 0
  out    : List Byte := []
  crc    : Nat := 0
  blocks : Nat := 0
  verify : Bool := false
deriving DecidableEq, Repr

/-- The limits a job works in: its destination's length, and the first source and destination byte that cannot be reached. -/
structure JobLim where
  dstLen : Nat
  srcBad : Option Nat
  dstBad : Option Nat
deriving DecidableEq, Repr

/-- A span that starts at a and has n bytes meets the first byte that cannot be reached. -/
def meets (bad : Option Nat) (a n : Nat) : Bool := bad.any (fun b => decide (b < a + n))

/-! ### Streams (R166, R175) -/

/-- The frame of a block: ZERO, STORED when the code would need as many bytes as the data or none was found, or CODED; none when the
checker's decoding differs from the data (R167). -/
def frameOf (block coded : List Byte) : Option (List Byte) :=
  if block.all (· == 0) then some (frameHead 2 block.length 0)
  else if coded = [] ∨ block.length ≤ coded.length then some (frameHead 1 block.length block.length ++ block)
  else if decodeSpan (ofBytes coded) 0 coded.length block.length false = (0, block) then
    some (frameHead 0 block.length coded.length ++ coded)
  else none

/-- The END frame with the CRC of the data (Table 6.5). -/
def endFrame (crc : Nat) : List Byte := frameHead 3 1 0 ++ leBytes 4 crc

/-- Adds one frame to what a job has done. -/
def JobRes.add (r : JobRes) (used : Nat) (out data : List Byte) : JobRes :=
  { r with used := r.used + used, out := r.out ++ out, crc := crc32c r.crc data, blocks := r.blocks + 1 }

/-- The blocks of a compression job, in order, with the compressor's code for each. -/
def compressBlocks (lim : JobLim) (blocks coded : List (List Byte)) (r : JobRes) : JobRes × Bool :=
  match blocks with
  | [] => (r, true)
  | b :: rest =>
    if meets lim.srcBad r.used b.length then ({ r with status := 5, more := true }, false)
    else match frameOf b (coded.headD []) with
      | none => ({ r with status := 3, verify := true }, false)
      | some f =>
        if lim.dstLen < r.out.length + f.length then ({ r with status := 1, more := true }, false)
        else if meets lim.dstBad r.out.length f.length then ({ r with status := 5, more := true }, false)
        else compressBlocks lim rest coded.tail (r.add b.length f b)

/-- COMPRESS_STREAM (R175): without FINAL a tail shorter than a block stays unconsumed; with FINAL the END frame needs 8 bytes. (DEDUCED, unsafe, log entry 32) -/
def compressStream (lim : JobLim) (final : Bool) (src : List Byte) (coded : List (List Byte)) (crc : Nat) : JobRes :=
  let n := if final then src.length else src.length / 4096 * 4096
  match compressBlocks lim (chunk ((n + 4095) / 4096) 4096 (src.take n)) coded { crc := crc } with
  | (r, false) => r
  | (r, true) =>
    if !final then { r with more := true }
    else if lim.dstLen < r.out.length + 8 then { r with status := 1, more := true }
    else if meets lim.dstBad r.out.length 8 then { r with status := 5, more := true }
    else { r with out := r.out ++ endFrame r.crc, blocks := r.blocks + 1 }

/-- DECOMPRESS_STREAM (R175): whole frames are consumed, and a block is written when it fits. (DEDUCED, unsafe, log entry 32) -/
def decompressFrames (fuel : Nat) (lim : JobLim) (src : List Byte) (r : JobRes) : JobRes :=
  match fuel with
  | 0 => { r with more := true }
  | k + 1 =>
    if meets lim.srcBad r.used 4 then { r with status := 5, more := true }
    else if src.length < 4 then { r with more := true }
    else
      let h := ofBytes (src.take 4)
      let ty := frameType h
      let raw := frameRaw h
      let body := if ty = 3 then 4 else frameCoded h
      let bytes := (src.drop 4).take body
      let rest := src.drop (4 + body)
      if !frameOk h then { r with status := 2, fault := 1 }
      else if meets lim.srcBad r.used (4 + body) then { r with status := 5, more := true }
      else if src.length < 4 + body then { r with more := true }
      else if ty = 3 then
        { r with used := r.used + 8, blocks := r.blocks + 1, status := if ofBytes bytes = r.crc then 0 else 7 }
      else if lim.dstLen < r.out.length + raw then { r with status := 1, more := true }
      else
        let res : Nat × List Byte := match ty with
          | 0 => decodeSpan (ofBytes bytes) 0 body raw false
          | 1 => (0, bytes)
          | _ => (0, List.replicate raw 0)
        if res.1 ≠ 0 then { r with status := 2, fault := res.1 }
        else if meets lim.dstBad r.out.length raw then { r with status := 5, more := true }
        else decompressFrames k lim rest (r.add (4 + body) res.2 res.2)

/-! ### Pages -/

/-- A page job ends with its output, or writes nothing. It has no continuation record (R175); Table 6.11 gives OUTPUT_FULL and ACCESS_ERROR MORE = 1 without saying of which jobs, and
here a page job ends with MORE 0. (DEDUCED, unsafe, log entry 82) -/
def pageEnd (lim : JobLim) (used : Nat) (out data : List Byte) : JobRes :=
  if lim.dstLen < out.length then { status := 1 }
  else if meets lim.dstBad 0 out.length then { status := 5 }
  else { used := used, out := out, crc := crc32c 0 data }

/-- COMPRESS_PAGE (Table 6.9): a KIND 01b image of 1 to 8 sherds, checked against the page. -/
def compressPage (lim : JobLim) (src : List Byte) (img : Image) (v ptag : Nat) : JobRes :=
  if meets lim.srcBad 0 src.length then { status := 5 }
  else
    let n := sherdsFor img.stream.length
    let sherds := buildSherds img n 1 ptag v
    let back := decodeImage sherds 1 ptag v true
    if 8 < n then { status := 6 }
    else if back.fault ≠ 0 ∨ bytesOfLines back.lines ≠ src then { status := 3, verify := true }
    else pageEnd lim 4096 (bytesOfLines (sherds.flatMap linesOfSherd)) src

/-- DECOMPRESS_PAGE (Table 6.9). -/
def decompressPage (lim : JobLim) (src : List Byte) (v ptag : Nat) : JobRes :=
  if meets lim.srcBad 0 src.length then { status := 5 }
  else
    let back := decodeImage ((chunk (src.length / 512) 512 src).map ofBytes) 1 ptag v true
    if back.fault ≠ 0 then { status := 2, fault := back.fault }
    else pageEnd lim src.length (bytesOfLines back.lines) (bytesOfLines back.lines)

/-- What a descriptor's operation does with its source bytes (Table 6.9). -/
def runJob (d : BitVec 512) (lim : JobLim) (src : List Byte) (env : JobEnv) (k : Cont) : JobRes :=
  match dOp d with
  | 1 => compressStream lim (dFinal d) src env.coded k.crc
  | 2 => decompressFrames (src.length + 1) lim src { crc := k.crc }
  | 3 => compressPage lim src env.image (dV d) (dPtag d)
  | 4 => decompressPage lim src (dV d) (dPtag d)
  | _ => {}

/-! ### Device memory (R173) -/

/-- The lines of a range in LD DPA, each with the place of its first byte in the range. -/
def devLines (addr len : Nat) : List (Nat × Nat) :=
  (List.range ((addr + len + 63) / 64 - addr / 64)).map (fun k => ((addr / 64 + k) * 64, (addr / 64 + k) * 64 - addr))

/-- The bytes of an output that fall into the line at an address, with their mask. -/
def lineBytes (addr : Nat) (out : List Byte) (lineAddr : Nat) : BitVec 512 × BitVec 64 :=
  (List.range 64).foldl (fun (a : BitVec 512 × BitVec 64) (j : Nat) =>
    if lineAddr + j < addr then a
    else match out[lineAddr + j - addr]? with
      | none => a
      | some b => (a.1 ||| ((b.setWidth 512) <<< (8 * j)), a.2 ||| (1#64 <<< j))) (0, 0)

/-- An engine's job asks for a line of its LD's memory, or writes one: a request of the internal DMA source at the line's home slice, through the LD's extent map. An unbacked line is
not asked for. -/
def State.jobAsk (s : State) (e ld addr : Nat) (op : ReqOp) (data : BitVec 512) (be : BitVec 64) : State :=
  match s.ldToDpa ld addr with
  | none => s
  | some dpa =>
    let q : Req := { id := s.path.nextId, src := .dma, ld := ld, op := op, line := dpa / 64, ldDpa := addr, tag := e + 1, snp := .cur, data := data, be := be, arrival := s.tick }
    { s with path := { s.path with nextId := s.path.nextId + 1, ingress := s.path.ingress ++ [q] } }

/-- The job asks for its source. -/
def State.jobReads (s : State) (e ld : Nat) (d : BitVec 512) : State :=
  (devLines (dSrc d) (dSrcLen d)).foldl (fun (s : State) (x : Nat × Nat) => s.jobAsk e ld x.1 .rd 0 0) s

/-- The job writes its output. -/
def State.jobWrites (s : State) (e ld addr : Nat) (out : List Byte) : State :=
  (devLines addr out.length).foldl (fun (s : State) (x : Nat × Nat) => s.jobAsk e ld x.1 .wr (lineBytes addr out x.1).1 (lineBytes addr out x.1).2) s

/-- Accesses of an engine's job that have not ended. -/
def State.jobPending (s : State) (e : Nat) : Bool :=
  (s.path.ingress ++ s.path.txns.map (·.req)).any (fun q => q.src == .dma && q.tag == e + 1)

/-- The source bytes of a job in LD DPA, with the first that cannot be read: of an unbacked line, or of one that came back poisoned. -/
def Job.source (j : Job) (d : BitVec 512) : List Byte × Option Nat :=
  let at' (x : Nat × Nat) : Line := Tbl.lookD j.got { poison := true } (x.1 / 64)
  let ls := devLines (dSrc d) (dSrcLen d)
  (((bytesOfLines (ls.map at')).drop (dSrc d % 64)).take (dSrcLen d), (ls.find? (fun x => (at' x).poison)).map Prod.snd)

/-- The first line of a job's destination in LD DPA that no extent backs. -/
def State.devBad (s : State) (ld : Nat) (d : BitVec 512) : Option Nat :=
  if dDstDev d then ((devLines (dDst d) (dDstLen d)).find? (fun x => (s.ldToDpa ld x.1).isNone)).map Prod.fst else none

/-! ### Host memory -/

/-- A write to host memory, remembered as the queue's last (R85). (DEDUCED, unsafe, log entry 32) -/
def State.hostPut (s : State) (q ld addr : Nat) (bytes : List Byte) (ro : Bool) : State :=
  let s := s.emit (.hostWrite ld addr bytes ro)
  { s with press := { s.press with lastHost := Tbl.put s.press.lastHost q addr } }

/-- A completion record (Table 6.10). (DEDUCED, unsafe, log entry 31) -/
def complRecord (d : BitVec 512) (r : JobRes) : List Byte :=
  leBytes 2 r.status ++ leBytes 1 r.fault ++ leBytes 1 (1 + (if r.more then 2 else 0)) ++ leBytes 4 (dTag d) ++ leBytes 4 r.used
    ++ leBytes 4 r.out.length ++ leBytes 4 r.crc ++ leBytes 4 r.blocks ++ leBytes 8 0

/-- A continuation record (Table 6.12). (DEDUCED, unsafe, log entry 32) -/
def contRecord (d : BitVec 512) (k : Cont) (r : JobRes) : List Byte :=
  leBytes 1 1 ++ leBytes 1 (dOp d) ++ leBytes 2 0 ++ leBytes 4 (dTag d) ++ leBytes 8 (k.inT + r.used) ++ leBytes 8 (k.outT + r.out.length)
    ++ leBytes 4 r.crc ++ leBytes 4 (k.blocks + r.blocks) ++ List.replicate 32 0

/-- The host writes that end a job, in order (R174). (DEDUCED, unsafe, log entry 31) -/
def endWrites (d : BitVec 512) (k : Cont) (r : JobRes) : List (Nat × List Byte) :=
  (if r.more then [(dContAddr d, contRecord d k r)] else []) ++ [(dComplAddr d, complRecord d r)]

/-- A job ends, with any status: the records are written, event 0402h counts it and the vector is signalled (R174, Table 16.2); they carry no relaxed ordering (R86). (DEDUCED, unsafe, log entry 31) -/
def State.endJob (s : State) (q ld : Nat) (writes : List (Nat × List Byte)) (vec : Option Nat) : State :=
  let s := writes.foldl (fun (s : State) (w : Nat × List Byte) => s.hostPut q ld w.1 w.2 false) s
  let s := s.cnt 0x0402 .dev
  match vec with
  | some v => s.msix ld v
  | none => s

/-- The vector of a descriptor with IRQ. -/
def vecOf (d : BitVec 512) : Option Nat := if dIrq d then some (dVector d) else none

/-- A descriptor that does not run ends with a status and nothing else. -/
def State.endUnrun (s : State) (q ld : Nat) (d : BitVec 512) (status : Nat) : State :=
  s.endJob q ld (endWrites d {} { status := status }) (vecOf d)

/-! ### Starting a descriptor -/

/-- The LD of a queue. -/
def State.qLd (s : State) (q : Nat) : Nat := s.rd (Reg.PRS_Q_CFG_LD_INDEX q)

/-- The ring size of a queue. -/
def State.qSize (s : State) (q : Nat) : Nat := 2 ^ s.rd (Reg.PRS_Q_CFG_LOG2_SIZE q)

/-- A queue has posted descriptors. -/
def State.qPosted (s : State) (q : Nat) : Bool :=
  s.flag (Reg.PRS_Q_CFG_EN q) && s.rd (Reg.PRS_Q_TAIL_TAIL q) % s.qSize q != s.rd (Reg.PRS_Q_HEAD_HEAD q)

/-- The jobs of a queue that run. -/
def State.qJobs (s : State) (q : Nat) : List (BitVec 512) :=
  s.press.engines.filterMap (fun e => match e.2 with | .job r _ d => if r = q then some d else none | _ => none)

/-- A fence of a queue runs: it holds every later descriptor back (R85). -/
def State.qFenced (s : State) (q : Nat) : Bool := (s.qJobs q).any (fun d => dOp d == 0x0F)

/-- Round-robin (R172): every queue from the one after the last served up to this one has nothing posted, or is held by a fence. -/
def State.qTurn (s : State) (q : Nat) : Bool :=
  (((List.range 64).map (fun k => (s.press.rrq + 1 + k) % 64)).takeWhile (· != q)).all (fun r => !s.qPosted r || s.qFenced r)

/-- Adds an element that is not there yet. -/
def addNew {α : Type} [DecidableEq α] (l : List α) (a : α) : List α := if l.contains a then l else l ++ [a]

/-- The inline work that waits for an engine (R27): the page, its slice, and whether the engine must not be retired. It is the decode of a page for reads that have joined none, a thaw that a request
waits for and that could start, and a staged move that lacks nothing else. -/
def State.inlineWork (s : State) : List (Nat × Nat × Bool) :=
  let reads := s.path.txns.filterMap (fun t => if t.phase = .decode ∧ s.decodeRuns t.req.page (s.srcForm t.req.page) = false then some (t.req.page, t.slice, false) else none)
  let thaws := s.path.txns.filterMap (fun t =>
    if t.phase = .needThaw ∧ (s.freeSlot t.slice true).isSome = true ∧ s.pageLocked t.req.page = false then match (s.acc t.req.page).form with
      | .cold .. => if (s.allocFrame t.req.page true).isSome then some (t.req.page, t.slice, false) else none
      | .spilled _ _ n => if n ≠ 0 ∧ s.rd Reg.CUR_PRESSURE_LEVEL < 2 then some (t.req.page, t.slice, false) else none
      | _ => none
    else none)
  let moves := s.place.staged.filterMap (fun (x : Staged) =>
    if s.wantsEngine x.slice x.move && !s.pageLocked x.move.page && s.mayStart x.slice x.move then some (x.move.page, x.slice, x.move.kind == .freeze) else none)
  (reads ++ thaws ++ moves).foldl addNew []

/-- The engines that the waiting inline work takes, each in its order of choice (R27). -/
def State.inlineTakes (s : State) : List Nat :=
  s.inlineWork.foldl (fun taken w => match s.pickEngine w.2.1 (fun e => !taken.contains e && !(w.2.2 && s.bit Reg.PRS_RETIRED_ENGINE e)) with
    | some e => taken ++ [e]
    | none => taken) []

/-- Waiting inline work takes this engine before an offload job does (R27). -/
def State.inlineWaits (s : State) (e : Nat) : Bool := s.inlineTakes.contains e

/-- The head of a queue advances past a descriptor. -/
def State.qAdvance (s : State) (q : Nat) : State :=
  let s := s.wr (Reg.PRS_Q_HEAD_HEAD q) ((s.rd (Reg.PRS_Q_HEAD_HEAD q) + 1) % s.qSize q)
  { s with press := { s.press with rrq := q } }

/-- A posted descriptor of a deleted queue is read and completes with ABORTED (R177). (DEDUCED, unsafe, log entry 33) -/
def State.abortOne (s : State) (q : Nat) (r : AbortRing) (d : BitVec 512) : State :=
  let s := s.emit (.hostRead r.ld (r.base + 64 * r.head) 64)
  let h := (r.head + 1) % 2 ^ r.log2
  let ab := if h = r.tail then Tbl.del s.press.aborting q else Tbl.put s.press.aborting q { r with head := h }
  ({ s with press := { s.press with aborting := ab } }).endUnrun q r.ld d 8

/-- The zero-length read of a fence, to the last host address its queue wrote (R85). -/
def State.fenceRead (s : State) (q ld : Nat) : State :=
  match Tbl.look s.press.lastHost q with
  | some a => s.emit (.hostRead0 ld a)
  | none => s

/-- A fence whose queue has no other job left reads the last host address (R85). -/
def State.fenceGo (s : State) (q ld : Nat) : State :=
  if s.press.fenced.contains q && (s.qJobs q).all (fun d => dOp d == 0x0F) then
    State.fenceRead { s with press := { s.press with fenced := s.press.fenced.filter (· != q) } } q ld
  else s

/-- The next descriptor of a queue is read, at its place in the ring (R172). -/
def State.readDesc (s : State) (q : Nat) : State :=
  s.emit (.hostRead (s.qLd q) (64 * s.rd (Reg.PRS_Q_BASE_ADDR q) + 64 * s.rd (Reg.PRS_Q_HEAD_HEAD q)) 64)

/-- A job starts on an engine: it reads the continuation record it resumes from, and its source, in host memory or in the LD's own (R173, R176). -/
def State.jobBegin (s : State) (e q ld : Nat) (d : BitVec 512) : State :=
  let s := (s.stn (48 + e) 2).takeEngine e (.job q ld d)
  if badDescriptor d then s
  else
    let s := if dCont d && isStreamOp (dOp d) then s.emit (.hostRead ld (dContAddr d) 64) else s
    if dSrcDev d then s.jobReads e ld d else s.emit (.hostRead ld (dSrc d) (dSrcLen d))

/-- The next descriptor of a queue starts on an engine that is idle (R27, R85, R158, R172). -/
def State.descriptorStart (s : State) (q e : Nat) (d : BitVec 512) : State :=
  match Tbl.look s.press.aborting q with
  | some r => s.abortOne q r d
  | none =>
    if !s.flag Reg.PRS_CFG_OFFLOAD_EN || !s.qPosted q || !s.qTurn q || s.qFenced q || s.inlineWaits e || s.isSafe || s.boot.warmEntry then s
    else if dOp d = 0x0F then
      if s.engineIdle e then
        let t := ((s.readDesc q).qAdvance q).takeEngine e (.job q (s.qLd q) d)
        State.fenceGo { t with press := { t.press with fenced := addOnce t.press.fenced q } } q (s.qLd q)
      else s
    else if isCompressOp (dOp d) && (List.range 64).all (fun k => s.bit Reg.PRS_RETIRED_ENGINE k) then
      ((s.readDesc q).qAdvance q).endUnrun q (s.qLd q) d (if badDescriptor d then 4 else 3)
    else if s.engineIdle e && !(isCompressOp (dOp d) && s.bit Reg.PRS_RETIRED_ENGINE e) then ((s.readDesc q).qAdvance q).jobBegin e q (s.qLd q) d
    else s

/-- DESCRIPTOR_START (R172). -/
def execDescriptorStart (q : Fin 64) (e : Engine) (desc : BitVec 512) (s : State) : Host.Outcome State Fault Refusal :=
  .next (s.descriptorStart q e desc)

/-! ### Ending a job -/

/-- What a job does, from its source, its continuation and the compressor's choices; a destination line that took no write cuts its output (Table 6.11). -/
def jobResult (j : Job) (d : BitVec 512) (env : JobEnv) (k : Cont) : JobRes :=
  let src := if dSrcDev d then j.source d
    else ((env.src ++ List.replicate (dSrcLen d - env.src.length) 0).take (dSrcLen d), env.srcBad)
  runJob d { dstLen := dDstLen d, srcBad := src.2, dstBad := if dDstDev d then j.bad.map (· - dDst d) else env.dstBad } src.1 env k

/-- A job ends: its output in host memory, then its records and its vector (R174). -/
def State.finishJob (s : State) (e q ld : Nat) (d : BitVec 512) (k : Cont) (r : JobRes) : State :=
  let s := if r.verify then (s.verifyFail e (s.freeNow.toNat % 2 ^ 33)).advanceFree else s
  let s := if r.out = [] ∨ dDstDev d = true then s else s.hostPut q ld (dDst d) r.out (dRo d)
  (s.freeEngine e).endJob q ld (endWrites d k r) (vecOf d)

/-- An engine has run a job whose source is there: its output for the LD's own memory is written line by line, and once every write has been accepted or refused the job ends (R174). -/
def State.jobRun (s : State) (e q ld : Nat) (d : BitVec 512) (j : Job) (env : JobEnv) (k : Cont) : State :=
  let j := { j with bad := s.devBad ld d, env := some env }
  let r := jobResult j d env k
  if dDstDev d && r.out != [] then
    State.jobWrites { s with press := { s.press with jobs := Tbl.put s.press.jobs e j } } e ld (dDst d) r.out
  else s.finishJob e q ld d k r

/-- An engine ends with a job, once what it has asked for is there (R174 to R176), and a fence once every earlier job of its queue has ended (R85). (DEDUCED, unsafe, log entry 31) -/
def State.jobEnds (s : State) (e q ld : Nat) (d : BitVec 512) (env : JobEnv) : State :=
  let j := Tbl.lookD s.press.jobs {} e
  let env := j.env.getD env
  if dOp d = 0x0F then (if s.press.fenced.contains q then s else (s.freeEngine e).endUnrun q ld d 0)
  else if badDescriptor d then (s.freeEngine e).endUnrun q ld d 4
  else if s.jobPending e then s
  else match contOf d env.cont with
    | none => (s.freeEngine e).endUnrun q ld d 4
    | some k => if j.env.isNone then s.jobRun e q ld d j env k else s.finishJob e q ld d k (jobResult j d env k)

/-- The job of an engine ends, and a fence that waits for its queue's last goes on. -/
def State.jobComplete (s : State) (e : Nat) (env : JobEnv) : State :=
  match Tbl.look s.press.engines e with
  | some (.job q ld d) => (s.jobEnds e q ld d env).fenceGo q ld
  | _ => s

/-- JOB_COMPLETE (R174). -/
def execJobComplete (e : Engine) (env : JobEnv) (s : State) : Host.Outcome State Fault Refusal := .next (s.jobComplete e env)

/-! ### Posting and deleting -/

/-- A queue's tail is advanced (R172): higher bits of the value are ignored. -/
def State.postTail (s : State) (q v : Nat) : State :=
  if s.flag (Reg.PRS_Q_CFG_EN q) then s.wr (Reg.PRS_Q_TAIL_TAIL q) (v % s.qSize q) else s

/-- A queue is deleted: its registers are cleared; its posted descriptors end with ABORTED when asked (R177). A job that runs keeps its LD in
its engine's descriptor until it ends. (DEDUCED, unsafe, log entry 33) -/
def State.deleteQueue (s : State) (q : Nat) (abort : Bool) : State :=
  let ring : AbortRing := { ld := s.qLd q, base := 64 * s.rd (Reg.PRS_Q_BASE_ADDR q), head := s.rd (Reg.PRS_Q_HEAD_HEAD q), tail := s.rd (Reg.PRS_Q_TAIL_TAIL q) % s.qSize q,
                            log2 := s.rd (Reg.PRS_Q_CFG_LOG2_SIZE q) }
  let s := if abort && s.qPosted q then { s with press := { s.press with aborting := Tbl.put s.press.aborting q ring } } else s
  let b := 0x401000 + 0x20 * q
  ((((s.setDword b 0).setWord (b + 8) 0).setWord (b + 12) 0).setWord (b + 16) 0)

/-- The queues of an LD. -/
def State.queuesOf (s : State) (i : Nat) : List Nat :=
  (List.range 64).filter (fun q => s.flag (Reg.PRS_Q_CFG_EN q) && s.qLd q == i)

/-- Running jobs of an LD stop and write nothing further: their accesses that have not ended are dropped, and no descriptor ends any longer (R177: abrupt disable, FLR). -/
def State.killJobs (s : State) (i : Nat) : State :=
  let keep (e : Nat × EngineUse) : Bool := match e.2 with | .job _ ld _ => ld != i | _ => true
  let gone (q : Req) : Bool := q.src == .dma && q.tag != 0 && q.ld == i
  let rings := s.press.aborting.filter (fun (r : Nat × AbortRing) => r.2.ld != i)
  let jobs := s.press.jobs.filter (fun (j : Nat × Job) => !s.press.engines.any (fun e => e.1 == j.1 && !keep e))
  { s with
    press := { s.press with engines := s.press.engines.filter keep, jobs := jobs, aborting := rings }
    path := { s.path with ingress := s.path.ingress.filter (fun q => !gone q), txns := s.path.txns.filter (fun t => !gone t.req) } }

/-- The queues of an LD are deleted as its disable or reset asks (R177). -/
def State.dropQueues (s : State) (i : Nat) (abrupt : Bool) : State :=
  let qs := s.queuesOf i
  let s := if abrupt then s.killJobs i else s
  qs.foldl (fun s q => s.deleteQueue q (!abrupt)) s

end Sys2Proof.Machine
end

