-- ==== Sys2Proof/Machine/Qos.lean ====
section
/-! DEFINITION. Quality of service: the guaranteed floor (R281, R282), admission (R283, R284), shedding and restoring (R285, R286), and the close
of an accounting window (R274, R278 to R280). -/
namespace Sys2Proof.Machine

/-! ### Floors -/

/-- The classes that are valid. -/
def State.validClasses (s : State) : List Nat := (List.range 64).filter (fun c => s.flag (Reg.QOS_CLASS_CTL_VALID c))

/-- FLOOR of a class. -/
def State.floorOf (s : State) (c : Nat) : Nat := s.rd (Reg.QOS_CLASS_FLOOR_FLOOR c)

/-- Sum of FLOOR over the valid classes (R283). -/
def State.floorSum (s : State) : Nat := (s.validClasses.map s.floorOf).sum

/-- The valid classes that are not shed. -/
def State.unshed (s : State) : List Nat := s.validClasses.filter (fun c => !s.flag (Reg.QOS_CLASS_CTL_SHED c))

/-- Sum of FLOOR over the valid classes that are not shed (QOS_G_SUM). -/
def State.unshedSum (s : State) : Nat := (s.unshed.map s.floorOf).sum

/-- The classes a head's label map names. -/
def State.headClasses (s : State) (h : Nat) : List Nat :=
  ((List.range 16).filterMap (fun l => s.labelClass h l)).eraseDups

/-- The bandwidth of Table 2.5 for the head's width in Table 2.2, by its port's split. -/
def State.headBw (s : State) (h : Nat) : Nat := match s.splitOf (h / 4) with | 0 => 117500 | 1 => 58750 | _ => 29375

/-- What an admission lacks (R283): the check that fails, 1 or 2, and the shortfall in MB/s. -/
def State.overcommit (s : State) : Option (Nat × Nat) :=
  let g := s.rd Reg.QOS_G_G
  if g < s.floorSum then some (1, s.floorSum - g)
  else
    let need (h : Nat) : Nat := (((s.headClasses h).filter (fun c => s.flag (Reg.QOS_CLASS_CTL_VALID c))).map s.floorOf).sum
    ((List.range 16).find? (fun h => s.headExists h && decide (s.headBw h < need h))).map (fun h => (2, need h - s.headBw h))

/-! ### The guaranteed floor (R281) -/

/-- m as a fraction of 16 H (R281): S_CAP and V_CAP are in units of 64 GiB, H in units of 256 MiB. -/
def metaNum (h sCap vCap : Nat) : Nat := h + min h (256 * sCap) + 1024 * vCap

/-- g_c of R281 from its terms, one exact fraction rounded down once. (DESIGN CHOICE, unsafe, log entry 47) -/
def gFormula (b n tWr tRw tfaw trfc2 trefi recalMax d h sCap vCap : Nat) (hot : Bool) : Nat :=
  let fd := if recalMax ≤ 9 then 10000 * recalMax else 4000
  let fn := if recalMax ≤ 9 then 24 else 1
  let k := if hot then 4 else 2
  let num := b * (16 * n) * 32 * (trefi * fd - k * trfc2 * fd - fn * trefi) * d * (16 * h - metaNum h sCap vCap)
  let den := (16 * n + tWr + tRw) * max 32 tfaw * (trefi * fd) * 64 * (16 * h)
  num / den

/-- The queue marks in use: WQ_HIGH is 1 to 64 and WQ_LOW below it. -/
def State.drainRun (s : State) (c : Nat) : Nat := s.rd (Reg.DMC_SCHED_WQ_HIGH c) - s.rd (Reg.DMC_SCHED_WQ_LOW c)

/-- G of a channel. -/
def State.gOf (s : State) (c : Nat) : Nat :=
  if s.chLive c then
    let tcl := s.rd (Reg.DMC_TIM_CAS_TCL c)
    let tcwl := s.rd (Reg.DMC_TIM_CAS_TCWL c)
    gFormula (s.rootN * 800) (s.drainRun c) (tcwl + 8 + s.rd (Reg.DMC_TIM_TURN_TWTR_L c)) (tcl + 10 - tcwl)
      (s.rd (Reg.DMC_TIM_TURN_TFAW c)) (s.rd (Reg.DMC_TIM_REF_TRFC2 c)) (s.rd (Reg.DMC_TIM_REF_TREFI c))
      (max 1 (s.rd (Reg.DMC_TRN_CTL2_RECAL_MAX c))) (derateFactor (s.derate c)) s.boot.h s.boot.sCap s.boot.vCap
      (s.rd (Reg.DMC_REF_STATUS_HOT_RANKS c) != 0)
  else 0

/-- The Graft term: the bandwidth of held leases, at most 51,200 MB/s for each port that is up, which for the floor means FULL (R322). -/
def State.graftG (s : State) : Nat :=
  let held := (s.borrow.filter (fun e => s.rd (Reg.GFT_BORROW_STATE e.1) == 1)).map (fun e => s.rd (Reg.GFT_BORROW_BW_GRANT e.1))
  let ports := ((List.range 2).filter (fun g => s.flag (Reg.GFT_PORT_STATUS_FULL g))).length
  min held.sum (51200 * ports)

/-- The next class to shed (R285): the lowest SHED_RANK, among equals the highest number. -/
def State.shedNext (s : State) : Option Nat :=
  leastBy (fun c => s.rd (Reg.QOS_CLASS_CTL_SHED_RANK c)) s.unshed.reverse

/-- Sheds classes until the floors fit G (R285). -/
def State.shedAll (s : State) (fuel : Nat) : State :=
  match fuel with
  | 0 => s
  | k + 1 =>
    if s.unshedSum ≤ s.rd Reg.QOS_G_G then s
    else match s.shedNext with
      | none => s
      | some c => ((s.setFlag (Reg.QOS_CLASS_CTL_SHED c) true).raise 0x0204 c (s.rd Reg.QOS_G_G)).shedAll k

/-- Computes G with the terms as they are now and shows it. -/
def State.showG (s : State) : State :=
  let s := (List.range 16).foldl (fun (s : State) (c : Nat) =>
    (s.wr (Reg.QOS_CH_G_G_C c) (s.gOf c)).setFlag (Reg.QOS_CH_G_HOT c) (s.chLive c && s.rd (Reg.DMC_REF_STATUS_HOT_RANKS c) != 0)) s
  let gg := s.graftG
  let sum := ((List.range 16).map (fun c => s.rd (Reg.QOS_CH_G_G_C c))).sum + gg
  let s := (s.wr Reg.QOS_GRAFT_G_G_GRAFT gg).wr Reg.QOS_G_G sum
  { s with qos := { s.qos with gDirty := false } }

/-- G is computed again after one of the changes of R282. -/
def State.gRecompute (s : State) : State :=
  if s.qos.gDirty then
    let old := s.rd Reg.QOS_G_G
    let s := s.showG
    let new := s.rd Reg.QOS_G_G
    let s := if new = old then s else s.raise 0x0203 new old
    s.shedAll 64
  else s

/-- G_RECOMPUTE (R282). -/
def execGRecompute (s : State) : Host.Outcome State Fault Refusal := .next s.gRecompute

/-! ### The close of a window -/

/-- The next class to restore (R286): the highest SHED_RANK, among equals the lowest number. -/
def State.restoreNext (s : State) : Option Nat :=
  greatestBy (fun c => s.rd (Reg.QOS_CLASS_CTL_SHED_RANK c)) (s.validClasses.filter (fun c => s.flag (Reg.QOS_CLASS_CTL_SHED c)))

/-- Restores shed classes until one does not fit (R286). -/
def State.restoreAll (s : State) (fuel : Nat) : State :=
  match fuel with
  | 0 => s
  | k + 1 => match s.restoreNext with
    | none => s
    | some c =>
      if 64 * (s.unshedSum + s.floorOf c) ≤ 63 * s.rd Reg.QOS_G_G then
        ((s.setFlag (Reg.QOS_CLASS_CTL_SHED c) false).raise 0x0205 c (s.rd Reg.QOS_G_G)).restoreAll k
      else s

/-- A request of a class that arrived in the ticks [a, b) is still held or in flight. (DESIGN CHOICE, unsafe, log entry 47) -/
def State.stillHeld (s : State) (c a b : Nat) : Bool :=
  let old (q : Req) : Bool := q.cls == some c && decide (a ≤ q.arrival ∧ q.arrival < b)
  s.path.ingress.any old || (s.path.txns ++ s.dir.bench).any (fun t => old t.req)

/-- The first cause of Table 11.3 that applies to the window that closes. -/
def State.missCause (s : State) (c : Nat) : Nat :=
  let t (k : Nat) : Nat := Tbl.lookD s.qos.t0 0 k
  if (s.acct c).waitOld then 1
  else if (List.range 16).any (fun h => s.qos.narrowOld.getLsbD h && (s.headClasses h).contains c) then 2
  else if (List.range 16).any (fun k => decide (s.rd (Reg.QOS_CH_G_G_C k) * 1000 < t k)) || decide (s.rd Reg.QOS_GRAFT_G_G_GRAFT * 1000 < t 16) then 3
  else if metaNum s.boot.h s.boot.sCap s.boot.vCap * t 18 < 16 * s.boot.h * t 17 then 4
  else 0

/-- The class has a floor miss in the window k that closes (R279). -/
def State.floorMiss (s : State) (c k : Nat) : Bool :=
  let half := s.rootN * 6250
  s.floorOf c != 0 && !s.flag (Reg.QOS_CLASS_CTL_SHED c) && decide ((s.acct c).older < s.floorOf c * 999)
    && s.stillHeld c (k * half) ((k + 1) * half)

/-- Misses of a class in window k, counted and raised at its close (R278 to R280). (DESIGN CHOICE, unsafe, log entry 47) -/
def State.closeClass (s : State) (k c : Nat) : State :=
  let a := s.acct c
  let s := if a.missOld = 0 then s else s.raise 0x0201 c (k % 2 ^ 32 + a.missOld % 2 ^ 32 * 2 ^ 32)
  if s.floorMiss c k then
    let cause := s.missCause c
    let s := (s.sat (Reg.QOS_CLASS_MISS_FLOOR_MISSES c) 1).wr (Reg.QOS_CLASS_MISS_LAST_CAUSE c) cause
    s.raise 0x0202 c (k % 2 ^ 32 + cause * 2 ^ 32)
  else s

/-- The newer window becomes the older, and a new one opens (R274). -/
def State.shiftWindow (s : State) : State :=
  let next (a : ClassAcct) : ClassAcct := { older := a.newer, missOld := a.missNew, waitOld := a.waitNew }
  let acct := (s.qos.acct.map (fun (e : Nat × ClassAcct) => (e.1, next e.2))).filter (fun e => e.2 != {})
  let t0 := (s.qos.t0.filter (fun e => 32 ≤ e.1)).map (fun (e : Nat × Nat) => (e.1 - 32, e.2))
  let q : Qos := { s.qos with acct := acct, t0 := t0, narrowOld := s.qos.narrowNew, narrowNew := 0, window := s.qos.window + 1 }
  State.noteHeads { s with qos := q }

/-- A window boundary is reached (R274, R279, R286): window b - 2 closes at boundary b. -/
def State.windowClose (s : State) : State :=
  let half := s.rootN * 6250
  if half = 0 ∨ s.tick < (s.qos.window + 1) * half then s
  else
    let b := s.qos.window + 1
    let s := if b < 2 then s else s.validClasses.foldl (fun s c => s.closeClass (b - 2) c) s
    s.shiftWindow.restoreAll 64

/-- QOS_WINDOW_CLOSE (R274). -/
def execQosWindowClose (s : State) : Host.Outcome State Fault Refusal := .next s.windowClose

end Sys2Proof.Machine
end

