-- ==== Sys2Proof/Machine/Boot.lean ====
section
/-! DEFINITION. The later boot steps of Table 18.2, once every channel is trained: post-package repairs (R255), the layout of the metadata regions and
the media pool (R124 to R126, R181, R389, R390), the accession pass (R391, R392), the keys (R196), G and Mem_Active. -/
namespace Sys2Proof.Machine

/-! ### Post-package repair (step 5) -/

/-- The row that a repair names, at column 0. -/
def State.pprRow (s : State) (c j : Nat) : Coord :=
  { sub := s.rd (Reg.DMC_PPR_SUBCH c j), bg := s.rd (Reg.DMC_PPR_BG c j), ba := s.rd (Reg.DMC_PPR_BA c j), lr := s.rd (Reg.DMC_PPR_LR c j),
    row := s.rd (Reg.DMC_PPR_ROW c j), col := 0 }

/-- The remap entries of lines in a row. -/
def State.rowEntries (s : State) (c : Nat) (x : Coord) : List Nat :=
  (List.range 64).filter (fun e =>
    s.flag (Reg.DMC_REMAP_VALID c e) && { s.coordOf c (s.rd (Reg.DMC_REMAP_LINE c e)) with col := 0 } == { x with col := 0 })

/-- A remap entry is cleared, which frees its spare. -/
def State.clearRemap (s : State) (c e : Nat) : State :=
  (s.setDword (0x1002900 + 0x80000 * c + 8 * e) 0).wr (Reg.DMC_REMAP_CTL_USED c) (s.rd (Reg.DMC_REMAP_CTL_USED c) - 1)

/-- Column n of a row. -/
def State.rowLine (s : State) (c : Nat) (x : Coord) (n : Nat) : Nat := lineOf (s.rd (Reg.DMC_CFG_RANK_LOG2 c)) { x with col := n }

/-- The contents of a row, each remapped line taken from its spare, are copied to the lines of another row itself. -/
def State.copyRow (s : State) (c : Nat) (src dst : Coord) : State :=
  (List.range 128).foldl (fun (s : State) (n : Nat) => s.putRaw c (s.rowLine c dst n) (s.lineAt c (s.rowLine c src n))) s

/-- The training row of a repair: that of bank group (BG + 4) mod 8. -/
def State.pprSpare (s : State) (c : Nat) (x : Coord) : Coord := { x with bg := (x.bg + 4) % 8, row := (s.coordOf c (s.trainBase c)).row }

/-- One pending repair runs with the outcome the device gives: 1 repaired, 2 no repair resource, 3 verify failed (R255). The row is copied to the training row and back, and the remap
entries of its lines are cleared; a device with no repair resource is not repaired, and its entries stay. (DEDUCED, unsafe, log entry 88) -/
def State.runPpr (s : State) (c j result : Nat) : State :=
  if s.flag (Reg.DMC_PPR_VALID c j) then
    let x := s.pprRow c j
    let s := s.copyRow c x (s.pprSpare c x)
    let s := if result = 2 then s
      else (s.rowEntries c x).foldl (fun (s : State) (e : Nat) => s.clearRemap c e) (s.copyRow c (s.pprSpare c x) x)
    (s.setFlag (Reg.DMC_PPR_VALID c j) false).wr (Reg.DMC_PPR_RESULT c j) result
  else s

/-- The repairs of every trained channel, at a warm reset. -/
def State.runPprs (s : State) : State :=
  (List.range 16).foldl (fun (s : State) (c : Nat) =>
    if s.chLive c then
      let rs := ((s.boot.env.spd[c]?).map (fun x => x.ppr)).getD []
      (List.range 8).foldl (fun s j => s.runPpr c j (max 1 ((rs[j]?).getD 1).val)) s
    else s) s

/-! ### Layout (step 6) -/

/-- A channel's capacity in MiB. -/
def State.chMib (s : State) (c : Nat) : Nat := s.chLines c / 2 ^ 14

/-- The channels that are populated, trained and not lost. -/
def State.trained (s : State) : List Nat := (List.range 16).filter s.chLive

/-- Host-addressable capacity in 256 MiB units: raw × (64 + k) / 64, rounded down (R124). -/
def hUnits (rawMib k : Nat) : Nat := rawMib * (64 + min 64 k) / 64 / 256

/-- Frames of metadata on each of n channels, for H and the secure spaces in use (R125, R182, Table 7.3). -/
def metaFrames (h sCap vCap n : Nat) : Nat := ((metaRegions h sCap vCap).map (fun e => blockShare e.2 n)).sum

/-- The media of one channel: what the metadata share, the spares and the training rows leave, with its share of the spill reserve, raw / 64, and of
the thaw floor, raw / 256 (R125, R126). -/
def State.layChannel (s : State) (n raw metaF c : Nat) : MediaCh :=
  let frames := s.chLines c / 64 - metaF - (65536 + 524288 * s.ranks c) / 4096
  let res := min frames (raw * 256 / 64 / n)
  { frames := frames, resCap := res, flrCap := min res (raw * 256 / 256 / n), resFree := res }

/-- The spaces in use: S_CAP at most H in 64 GiB units, and V_CAP 0 with fewer than two channels (R181). -/
def State.takeCaps (s : State) (h n : Nat) : State :=
  let sReq := s.rd Reg.SEC_CFG_S_CAP
  let vReq := s.rd Reg.SEC_CFG_V_CAP
  let sUse := min sReq (h / 256)
  let vUse := if n < 2 then 0 else vReq
  let s := { s with boot := { s.boot with sCap := sUse, vCap := vUse } }
  if sUse = sReq ∧ 2 ≤ n then s else s.raise 0x2302 sUse vUse

/-- P, from the frames outside the reserve. -/
def State.poolSize (s : State) : Nat := ((List.range 16).map (fun c => 8 * ((s.mch c).frames - (s.mch c).resCap))).sum

/-- The layout made at a cold reset (R389): every page is UNWRITTEN, every slot FREE and every root zero. -/
def State.layout (s : State) : State :=
  let cs := s.trained
  let raw := (cs.map s.chMib).sum
  let h := hUnits raw (s.rd Reg.CUR_CAP_CFG_EXP_K)
  let s := { s with boot := { s.boot with h := h, layoutH := h, raw := raw, chans := cs } }
  let s := s.takeCaps h cs.length
  let m := metaFrames h s.boot.sCap s.boot.vCap cs.length
  let chans := cs.map (fun c => (c, s.layChannel cs.length raw m c))
  let s := { s with place := { chans := chans }, sec := { kr := s.drawNow }, media := [] }
  ((s.advanceFree).wr Reg.CUR_POOL_SIZE_UNITS s.poolSize).setFlag Reg.GLB_RST_STATUS_FORMATTED true

/-- H after a warm reset: what EXP_K asks for, as far as the layout holds it (R390). -/
def State.keepLayout (s : State) : State :=
  let raw := (s.trained.map s.chMib).sum
  let h := min s.boot.layoutH (hUnits raw (s.rd Reg.CUR_CAP_CFG_EXP_K))
  ({ s with boot := { s.boot with h := h, raw := raw } }).wr Reg.CUR_POOL_SIZE_UNITS s.poolSize

/-! ### The accession pass (R391) -/

/-- A channel that a form names was not brought up. -/
def State.formLost (s : State) (f : PageForm) : Bool :=
  match formChan f with
  | some c => !s.chLive c
  | none => false

/-- What an entry becomes (Table 18.3). A page on a channel that was not brought up reads as one on a lost channel (R260). -/
def State.passForm (s : State) (safe bad : Bool) (p : Nat) (f : PageForm) : PageForm :=
  if s.boot.h * 65536 ≤ p then .unwritten false
  else if s.clsOf p = .vitrine then .unwritten false
  else if bad then .unreadable
  else match f with
    | .spilled .. => .unwritten true
    | .migrating _ => .unwritten true
    | .unreadable => .unreadable
    | .unwritten pz => .unwritten pz
    | f => if safe || s.formLost f then .unwritten true else f

/-- The units of a frame that a form holds, as (channel, frame, mask). -/
def formUnits : PageForm → Option (Nat × Nat × Nat)
  | .hot c fr _ => some (c, fr, 0xFF)
  | .cold c sh n => some (c, sh / 8, (2 ^ n - 1) * 2 ^ (sh % 8))
  | _ => none

/-- The pool's free frames and sherds rebuilt from the entries (R391). A channel that was not brought up gives nothing. -/
def State.rebuildPool (s : State) : State :=
  let used := s.place.acc.foldl (fun (t : Tbl Nat) (e : Nat × Acc) => match formUnits e.2.form with
    | some (c, fr, m) => Tbl.upd t 0 (frameKey c fr) (· ||| m)
    | none => t) []
  let s := { s with place := { s.place with used := used } }
  (List.range 16).foldl (fun (s : State) (c : Nat) =>
    if s.chLive c then s.updMch c (fun m => { m with resFree := min m.resCap (m.frames - (s.usedFrames c).length) })
    else s.updMch c (fun _ => {})) s

/-- The accession pass over the entries, with the pages whose entry reads uncorrectable. What placement held of moves, plans and lists is gone;
footfall words and the epoch's fields are those that memory and reset leave. -/
def State.accessionPass (s : State) (safe : Bool) (bad : List Nat) : State :=
  let keys := bad.foldl (fun (t : Tbl Acc) (p : Nat) => match Tbl.look t p with | some _ => t | none => Tbl.put t p {})
    (s.place.acc.filter (fun (e : Nat × Acc) => !s.metaLost (e.1 / 8)))
  let acc := (keys.map (fun (e : Nat × Acc) => (e.1, { e.2 with form := s.passForm safe (bad.contains e.1) e.1 e.2.form }))).filter (fun e => e.2 != s.accDefault e.1)
  let place : Place := { acc := acc, foot := s.place.foot, chans := s.place.chans, outside := s.place.outside }
  State.rebuildPool { s with place := place }

/-! ### Keys (R196, R392) -/

/-- The lowest FREE key slot. (DEDUCED, unsafe, log entry 20) -/
def State.freeKey (s : State) : Option Nat := firstBelow 4096 (fun k => (s.key k).st == .free)

/-- A slot becomes ACTIVE with newly drawn keys (R183, Table 7.8). -/
def State.drawSlot (s : State) (k : Nat) (fixed : Bool) : State :=
  let kd := s.drawNow
  let s := s.advanceFree
  let kt := s.drawNow
  s.advanceFree.updKey k (fun _ => { st := .active, fixed := fixed, kd := kd, kt := kt })

/-- A region is bound to a newly drawn slot. -/
def State.bindSlot (s : State) (i : Nat) (fixed : Bool) (k : Nat) : State :=
  (s.drawSlot k fixed).updRegion i (fun r => { r with key := k, oldValid := false, cursor := 0 })

/-- A newly drawn slot for a region: the lowest FREE one. -/
def State.newSlot (s : State) (i : Nat) (fixed : Bool) : State :=
  match s.freeKey with
  | none => s
  | some k => s.bindSlot i fixed k

/-- A newly drawn slot for a region at boot: the lowest FREE one, or the lowest that this boot has zeroised (R196). (DEDUCED, unsafe, log entry 20) -/
def State.bootSlot (s : State) (i : Nat) (fixed : Bool) : State :=
  match s.freeKey with
  | some k => s.bindSlot i fixed k
  | none => match firstBelow 4096 (fun k => (s.key k).st == .zeroising) with
    | some k => s.bindSlot i fixed k
    | none => s

/-- Every SEALED key slot is zeroised (R392). (DEDUCED, unsafe, log entry 20) -/
def State.zeroSealed (s : State) : State :=
  { s with sec := { s.sec with keys := s.sec.keys.map (fun (e : Nat × KeySlot) =>
      if e.2.fixed || e.2.st == .free then e else (e.1, { e.2 with st := .zeroising })) } }

/-- The slots of VITRINE regions, and after a safe state every SEALED slot too, are zeroised and new ones drawn for their regions; Kr is new, the roots are zero,
and READONLY and LOST of a renewed region end. -/
def State.renewKeys (s : State) (safe : Bool) : State :=
  let s := if safe then s.zeroSealed else s
  let rs := s.regions.filter (fun (e : Nat × Region) => e.2.cls == .vitrine || (safe && e.2.cls == .sealed))
  let s := rs.foldl (fun (s : State) (e : Nat × Region) =>
    let s := s.updKey e.2.key (fun x => { x with st := .zeroising })
    if e.2.oldValid then s.updKey e.2.oldKey (fun x => { x with st := .zeroising }) else s) s
  let s := rs.foldl (fun (s : State) (e : Nat × Region) => s.bootSlot e.1 (e.2.cls == .vitrine)) s
  let s := s.regions.foldl (fun (s : State) (e : Nat × Region) =>
    if e.2.cls = .vitrine then s.updRegion e.1 (fun r => { r with readonly := false, lost := false }) else s) s
  let s := { s with sec := { s.sec with kr := s.drawNow, roots := [], cache := [], locks := [], nodeOvf := [], retire := [], gather := [], asked := [], due := [], badCopy := [] } }
  s.advanceFree

/-! ### The last steps -/

/-- Steps 5 to 7 of Table 18.2. -/
def State.bootMemory (s : State) : State :=
  let warm := s.boot.kind == .warm
  let s := if warm then s.runPprs else s
  let s := if warm then (s.keepLayout.accessionPass s.boot.afterSafe s.boot.env.badAcc).renewKeys s.boot.afterSafe else s.layout
  let s := (s.wr Reg.GLB_CAP_RAW_RAW_MIB s.boot.raw).wr Reg.GLB_CAP_H_H_MIB (256 * s.boot.h)
  let s := s.wr Reg.GLB_RATE_EXP_K (s.rd Reg.CUR_CAP_CFG_EXP_K)
  let s := ({ s with qos := { s.qos with gDirty := true } }).gRecompute
  let s := (List.range 16).foldl (fun (s : State) (c : Nat) => if s.chLive c then s.setFlag (Reg.DMC_TRN_CTL_RECAL_EN c) true else s) s
  let s := ((s.wr Reg.GLB_RST_STATUS_PHASE 7).pressure).stn 120 3
  let s := ({ s with place := { s.place with lenMs := max 1 (s.rd Reg.CUR_EPOCH_CFG_LEN_MS), epochAt := s.tick } }).trigger 1 3
  { s with boot := { s.boot with memActive := true, env := { spd := [] } } }

/-- The boot goes on once no rank and no channel waits for its training (R386, R388). -/
def State.bootGoesOn (s : State) : State :=
  if s.boot.released && s.rd Reg.GLB_RST_STATUS_PHASE == 4 && s.boot.sweep == [] && s.boot.fast == [] then (s.trigger 1 2).bootMemory else s

end Sys2Proof.Machine
end

