-- ==== Sys2Proof/Machine/Training.lean ====
section
/-! DEFINITION. Training of a channel's lanes (R228 to R241): the eye-centre rule, the full sweep and the fast check, the temperature sets and their
interpolation, and background recalibration. -/
namespace Sys2Proof.Machine

/-! ### The eye-centre rule (R231) -/

/-- The longest run of consecutive numbers below n that a test accepts, as (first, length); the first of equals. (DEDUCED, unsafe, log entry 49) -/
def longestRun (n : Nat) (ok : Nat → Bool) : Nat × Nat :=
  let (best, cur) := (List.range n).foldl (fun (a : (Nat × Nat) × (Nat × Nat)) (i : Nat) =>
    let (best, cur) := a
    if ok i then
      let cur : Nat × Nat := if cur.2 = 0 then (i, 1) else (cur.1, cur.2 + 1)
      (if best.2 < cur.2 then cur else best, cur)
    else (best, (0, 0))) ((0, 0), (0, 0))
  if best.2 < cur.2 then cur else best

/-- The passing delays of a nibble at a VREF code. -/
def delaysAt (m : List (Nat × List Nat)) (v : Nat) : List Nat := ((m.find? (fun e => e.1 == v)).map Prod.snd).getD []

/-- The longest passing run [a, b] of a nibble at a code, as (a, width). -/
def eyeRun (n : Nat) (m : List (Nat × List Nat)) (v : Nat) : Nat × Nat :=
  let l := delaysAt m v
  if l = [] then (0, 0) else longestRun n l.contains

/-- What the rule gives for a byte lane: VREF, the delays, the runs at that VREF, and the height. -/
structure EyeRes where
  vref : Nat
  e0   : Nat × Nat
  e1   : Nat × Nat
  height : Nat
deriving DecidableEq, Repr

/-- The rule for a byte lane over the codes lo to hi and delays below n. -/
def eyeCentre (lo hi n : Nat) (m0 m1 : List (Nat × List Nat)) : EyeRes :=
  let width (v : Nat) : Nat := if lo ≤ v ∧ v ≤ hi then min (eyeRun n m0 v).2 (eyeRun n m1 v).2 else 0
  let wmax := (List.range 126).foldl (fun a v => max a (width v)) 0
  let ok (v : Nat) : Bool := decide (wmax / 2 ≤ width v) && decide (lo ≤ v ∧ v ≤ hi)
  -- the run is the longest of those that contain a code reaching wmax
  let starts := (List.range 126).filter (fun v => ok v && (v == 0 || !ok (v - 1)))
  let runs := starts.map (fun a => (a, ((List.range (126 - a)).takeWhile (fun k => ok (a + k))).length))
  let best := greatestBy Prod.snd (runs.filter (fun r => (List.range r.2).any (fun k => width (r.1 + k) == wmax)))
  match best with
  | none => { vref := 0, e0 := (0, 0), e1 := (0, 0), height := 0 }
  | some (a, k) =>
    let v := (a + (a + k - 1)) / 2
    { vref := v, e0 := eyeRun n m0 v, e1 := eyeRun n m1 v, height := k }

/-- The centre of a run (a, width): the floor of (a + b) / 2 with b its last step. -/
def centre (r : Nat × Nat) : Nat := (r.1 + (r.1 + r.2 - 1)) / 2

/-- The coarse write delay that write levelling gives a nibble: the first at which DQS samples CK high (Table 9.2, step 4). -/
def coarseDelay (x : NibbleEye) : Option Nat := (List.range 2048).find? x.lvl.contains

/-- The write delays that the sweep tries and that pass: those within 256 steps of the coarse value (Table 9.2, step 5). -/
def wrTried (x : NibbleEye) : List (Nat × List Nat) :=
  match coarseDelay x with
  | none => []
  | some k => x.wr.map (fun (e : Nat × List Nat) => (e.1, e.2.filter (fun d => decide (k ≤ d + 256 ∧ d ≤ k + 256))))

/-- Both eyes of a lane. -/
def laneEyes (lo hi : Nat) (x : LaneEye) : EyeRes × EyeRes := (eyeCentre lo hi 256 x.n0.rd x.n1.rd, eyeCentre lo hi 2048 (wrTried x.n0) (wrTried x.n1))

/-- The lane passes (R232): some point passes and every recorded width is at least the least one. -/
def lanePasses (least : Nat) (e : EyeRes × EyeRes) : Bool :=
  [e.1.e0.2, e.1.e1.2, e.2.e0.2, e.2.e1.2].all (fun w => w != 0 && decide (least ≤ w))

/-! ### Registers and sets of a lane -/

/-- The lane index of byte b of a sub-channel of a rank (R228). -/
def laneIx (lr sub b : Nat) : Nat := 10 * lr + 5 * sub + b

/-- The key of temperature set k of a lane. -/
def setKey (n k : Nat) : Nat := n * 8 + k

/-- A word of the eye registers of a lane: widths and heights. A width that its 8 bits cannot hold shows 255. (DESIGN CHOICE, unsafe, log entry 106) -/
def State.showEye (s : State) (c n rdW wrW rdH wrH : Nat) : State :=
  let s := (s.wr (Reg.DMC_TRN_EYE_RD_WIDTH c n) (min 255 rdW)).wr (Reg.DMC_TRN_EYE_WR_WIDTH c n) (min 255 wrW)
  (s.wr (Reg.DMC_TRN_EYE_RD_HEIGHT c n) rdH).wr (Reg.DMC_TRN_EYE_WR_HEIGHT c n) wrH

/-- The edges of a run. -/
def edgesOf (r : Nat × Nat) : Nat × Nat := (r.1, r.1 + r.2 - 1)

/-- The results of a lane go into all eight sets and are applied (Table 9.2 steps 3, 6 and 7). -/
def State.writeLane (s : State) (c n : Nat) (e : EyeRes × EyeRes) : State :=
  let x : LaneSet := { rd0 := centre e.1.e0, rd1 := centre e.1.e1, rv := e.1.vref, wv := e.2.vref, wr0 := centre e.2.e0, wr1 := centre e.2.e1 }
  let ed : LaneEdges := { rd0 := edgesOf e.1.e0, rd1 := edgesOf e.1.e1, wr0 := edgesOf e.2.e0, wr1 := edgesOf e.2.e1 }
  let s := s.updCh c (fun (d : Dmc) => { d with
    sets := (List.range 8).foldl (fun t k => Tbl.put t (setKey n k) x) d.sets,
    inUse := Tbl.put d.inUse n x, target := Tbl.put d.target n x, edges := Tbl.put d.edges n ed })
  s.showEye c n (min e.1.e0.2 e.1.e1.2) (min e.2.e0.2 e.2.e1.2) e.1.height e.2.height

/-! ### Temperature sets (R234, R235) -/

/-- Set k of a lane. -/
def Dmc.set (d : Dmc) (n k : Nat) : LaneSet := Tbl.lookD d.sets {} (setKey n k)

/-- Every quantity of a lane interpolated at a temperature. -/
def Dmc.interp (d : Dmc) (n : Nat) (t : Int) : LaneSet :=
  { rd0 := interpolate t (fun k => (d.set n k).rd0), rd1 := interpolate t (fun k => (d.set n k).rd1),
    rv := interpolate t (fun k => (d.set n k).rv), wv := interpolate t (fun k => (d.set n k).wv),
    wr0 := interpolate t (fun k => (d.set n k).wr0), wr1 := interpolate t (fun k => (d.set n k).wr1) }

/-- The channel's corrected temperature in 1/16 °C. -/
def State.chTemp (s : State) (c : Nat) : Int :=
  let x := s.rd (Reg.DMC_TEMP_TEMP c)
  if x < 2048 then x else (x : Int) - 4096

/-- The lanes of a channel. -/
def State.lanes (s : State) (c : Nat) : List Nat := List.range (10 * s.ranks c)

/-- The channel's sensor is read: the quantities of every lane get the values interpolated there as their targets (R235, R236). -/
def State.readTemp (s : State) (c : Nat) (t : Int) : State :=
  let s := s.wr (Reg.DMC_TEMP_TEMP c) (twos 12 t)
  if s.rd (Reg.DMC_TRN_STATUS_STATE c) = 2 then
    s.updCh c (fun (d : Dmc) => { d with target := d.inUse.map (fun (e : Nat × LaneSet) => (e.1, d.interp e.1 t)) })
  else s

/-- The channel's sensor is read, or does not read (R235, R296): a reading is corrected first (R242). -/
def State.sampleTemp (s : State) (c : Nat) (temp : Option Int) : State :=
  let s := s.noteSensor (5 + c) temp
  match Tbl.look s.qos.sensors (5 + c) with
  | some t => s.readTemp c t
  | none => s

/-- TEMP_INTERPOLATE (R235). -/
def execTempInterpolate (c : Chan) (temp : Option Int) (s : State) : Host.Outcome State Fault Refusal := .next (s.sampleTemp c temp)

/-! ### The full sweep (R230 to R232) -/

/-- Byte lane b of a sweep; one that the sweep gives no point of passes nowhere. -/
def sweepLane (x : SweepTry) (b : Nat) : LaneEye := x.eyes.getD b ⟨⟨[], [], []⟩, ⟨[], [], []⟩⟩

/-- The VREF codes of a sweep, first and last. -/
def State.vrefRange (s : State) (c : Nat) : Nat × Nat :=
  let hi := min 125 (s.rd (Reg.DMC_TRN_CTL_TRN_VREF_HI c))
  (min (s.rd (Reg.DMC_TRN_CTL_TRN_VREF_LO c)) hi, hi)

/-- What a sweep gives for byte lane b. -/
def State.sweptEyes (s : State) (c : Nat) (x : SweepTry) (b : Nat) : EyeRes × EyeRes := laneEyes (s.vrefRange c).1 (s.vrefRange c).2 (sweepLane x b)

/-- The first lane of a rank that fails in a sweep (R232). A failure of the training before Table 9.2 counts as one of the rank's first lane (R229). (DESIGN CHOICE, unsafe, log entry 89) -/
def State.failedLane (s : State) (c lr : Nat) (x : SweepTry) : Option Nat :=
  if x.hostFail then some (10 * lr)
  else ((List.range 10).find? (fun b => !lanePasses (s.rd (Reg.DMC_TRN_CTL_TRN_MIN_WIDTH c)) (s.sweptEyes c x b))).map (fun b => 10 * lr + b)

/-- The population of a channel, as DMC_CFG holds it (R204). -/
def State.population (s : State) (c : Nat) : List Nat :=
  [s.rd (Reg.DMC_CFG_TYPE c), s.rd (Reg.DMC_CFG_TWO_DPC c), s.rd (Reg.DMC_CFG_DENSITY c), s.rd (Reg.DMC_CFG_PRANKS c), s.rd (Reg.DMC_CFG_HEIGHT c)]

/-- The channel's training is done once no rank of it waits: its sets hold for this rate and population (R233). -/
def State.trainDone (s : State) (c : Nat) (fast : Bool) : State :=
  if s.boot.sweep.any (fun e => e.1 == c) then s
  else
    let s := s.updCh c (fun (d : Dmc) => { d with trainedRate := s.rd Reg.GLB_CLK_STATUS_ROOT_MULT_ACTIVE, pop := s.population c })
    (((s.wr (Reg.DMC_TRN_STATUS_STATE c) 2).setFlag (Reg.DMC_TRN_STATUS_FAST c) fast)).bootGoesOn

/-- A lane failed twice: the channel is left unpopulated (R206, R232). -/
def State.trainFail (s : State) (c lane : Nat) : State :=
  let s := { s with boot := { s.boot with sweep := s.boot.sweep.filter (fun e => e.1 != c) } }
  let s := (s.wr (Reg.DMC_TRN_STATUS_STATE c) 3).wr (Reg.DMC_TRN_STATUS_FAIL_LANE c) lane
  ((s.setFlag (Reg.DMC_CFG_EN c) false).raiseCh c 3 lane).bootGoesOn

/-- The sweep of a rank of a channel, repeated once when a lane fails. The ranks of a channel are swept in order. -/
def State.trainRank (s : State) (c lr : Nat) (t : Int) (first second : SweepTry) : State :=
  if (s.boot.sweep.find? (fun e => e.1 == c)) != some (c, lr) then s
  else
    let s := s.wr (Reg.DMC_TEMP_TEMP c) (twos 12 t)
    let again := (s.failedLane c lr first).isSome
    let x := if again then second else first
    let s := if again then s.stn (32 + c) 9 else s
    match s.failedLane c lr x with
    | some n => s.trainFail c n
    | none =>
      let s := (List.range 10).foldl (fun (s : State) (b : Nat) => s.writeLane c (10 * lr + b) (s.sweptEyes c x b)) s
      State.trainDone { s with boot := { s.boot with sweep := s.boot.sweep.filter (fun e => e != (c, lr)) } } c false

/-- TRAINING_SWEEP (R230). -/
def execTrainingSweep (c : Chan) (lr : Fin 16) (temp : Int) (first second : SweepTry) (s : State) : Host.Outcome State Fault Refusal :=
  .next (s.trainRank c lr (s.sensed (5 + c) temp) first second)

/-! ### A pass over edges (R237) -/

/-- The width between two edges. -/
def widthOf (e : Nat × Nat) : Nat := e.2 + 1 - e.1

/-- The middle of two edges. -/
def middle (e : Nat × Nat) : Nat := (e.1 + e.2) / 2

/-- A difference clipped to one step. -/
def clip1 (d : Int) : Int := if d < 0 then -1 else if 0 < d then 1 else 0

/-- A quantity of a set with δ added, within its range. -/
def addDelta (x top : Nat) (δ : Int) : Nat := min top ((x : Int) + δ).toNat

/-- The centres that a pass finds; a quantity the pass did not measure keeps its interpolated value. -/
def centresOf (u : LaneSet) (e : LaneEdges) : LaneSet :=
  { rd0 := middle e.rd0, rd1 := middle e.rd1, rv := (e.rdVref.map middle).getD u.rv, wv := (e.wrVref.map middle).getD u.wv,
    wr0 := middle e.wr0, wr1 := middle e.wr1 }

/-- A set moved by the clipped differences of the found centres from the interpolated values. -/
def LaneSet.follow (x u found : LaneSet) : LaneSet :=
  let d (a b : Nat) : Int := clip1 ((b : Int) - (a : Int))
  { rd0 := addDelta x.rd0 255 (d u.rd0 found.rd0), rd1 := addDelta x.rd1 255 (d u.rd1 found.rd1), rv := addDelta x.rv 125 (d u.rv found.rv),
    wv := addDelta x.wv 125 (d u.wv found.wv), wr0 := addDelta x.wr0 2047 (d u.wr0 found.wr0), wr1 := addDelta x.wr1 2047 (d u.wr1 found.wr1) }

/-- The sets of a lane follow a pass: those of the interval that holds T move by δ. -/
def State.followLane (s : State) (c n : Nat) (e : LaneEdges) : State :=
  let t := s.chTemp c
  let k := intervalOf t
  let s := s.updCh c (fun (d : Dmc) =>
    let u := d.interp n t
    let f := centresOf u e
    let sets := Tbl.put (Tbl.put d.sets (setKey n k) ((d.set n k).follow u f)) (setKey n (k + 1)) ((d.set n (k + 1)).follow u f)
    { d with sets := sets, edges := Tbl.put d.edges n { e with rdVref := none, wrVref := none } })
  let rdH := (e.rdVref.map widthOf).getD (s.rd (Reg.DMC_TRN_EYE_RD_HEIGHT c n))
  let wrH := (e.wrVref.map widthOf).getD (s.rd (Reg.DMC_TRN_EYE_WR_HEIGHT c n))
  s.showEye c n (min (widthOf e.rd0) (widthOf e.rd1)) (min (widthOf e.wr0) (widthOf e.wr1)) rdH wrH

/-- The sets whose point lies within 2.5 °C of a temperature have been visited (R234). -/
def State.visitSets (s : State) (c : Nat) : State :=
  let t := s.chTemp c
  (List.range 8).foldl (fun (s : State) (k : Nat) =>
    let d := t - setPoints.getD k 0
    if -40 ≤ d ∧ d ≤ 40 then s.wrBit (Reg.DMC_TRN_STATUS_VISITED c) k true else s) s

/-- A width below TRN_MARGIN_LOW is reported with its lane (R241). -/
def State.marginCheck (s : State) (c n : Nat) (e : LaneEdges) : State :=
  let low := s.rd (Reg.DMC_TRN_CTL_TRN_MARGIN_LOW c)
  let one (s : State) (w eye : Nat) : State :=
    if w < low then (s.setFlag (Reg.DMC_TRN_STATUS_LOW_MARGIN c) true).raiseCh c 4 n (min 255 w + eye * 256) else s
  one (one (one (one s (widthOf e.rd0) 0) (widthOf e.rd1) 0) (widthOf e.wr0) 1) (widthOf e.wr1) 1

/-- An edge as the probes find it: at the last recorded edge, or one step outside or inside it (R237). -/
def probeEdge (old x : Nat) : Nat := max (old - 1) (min (old + 1) x)

/-- The edges of a lane that a pass finds. -/
def Dmc.probed (d : Dmc) (n : Nat) (e : LaneEdges) : LaneEdges :=
  match Tbl.look d.edges n with
  | none => e
  | some o =>
    let near (a b : Nat × Nat) : Nat × Nat := (probeEdge a.1 b.1, probeEdge a.2 b.2)
    { e with rd0 := near o.rd0 e.rd0, rd1 := near o.rd1 e.rd1, wr0 := near o.wr0 e.wr0, wr1 := near o.wr1 e.wr1 }

/-- A training-row read of a pass that needed correction is handled as any read that did (R251). -/
def State.recalCe (s : State) (c lr sub : Nat) (x : RecalCe) : State :=
  let b := x.bank.val
  let l := lineOf (s.rd (Reg.DMC_CFG_RANK_LOG2 c))
    { sub := sub, bg := b / 4, ba := b % 4, lr := lr, row := (s.coordOf c (s.trainBase c)).row, col := x.col }
  s.corrected c { id := s.path.nextId, line := l, why := .scrub } { line := s.lineAt c l, bits := x.bits } x.device 5

/-- The longest that a pass occupies its sub-channel: 150 ns, in DRAM clocks (R238). -/
def State.passClocks (s : State) : Nat := s.rootN * 15 / 2

/-- A pass over a lane group: on every 16th, the VREF edges count too. It occupies the sub-channel for `clks` clocks, at most 150 ns. -/
def State.recalGroup (s : State) (c lr sub : Nat) (edges : List LaneEdges) (clks : Nat) (ces : List RecalCe) : State :=
  let k := Tbl.lookD (s.ch c).passes 0 (groupKey lr sub) + 1
  let s := s.updCh c (fun (d : Dmc) => { d with passes := Tbl.put d.passes (groupKey lr sub) k, lastPass := Tbl.put d.lastPass (groupKey lr sub) s.tick,
                                                passUntil := Tbl.put d.passUntil sub (s.clkNow + min clks s.passClocks) })
  let s := ((List.range 5).zip edges).foldl (fun (s : State) (x : Nat × LaneEdges) =>
    let e := (s.ch c).probed (laneIx lr sub x.1) (if k % 16 = 0 then x.2 else { x.2 with rdVref := none, wrVref := none })
    (s.followLane c (laneIx lr sub x.1) e).marginCheck c (laneIx lr sub x.1) e) s
  ces.foldl (fun (s : State) (x : RecalCe) => s.recalCe c lr sub x) (((s.visitSets c).cnt ((0x10 + c) * 256 + 9) .dev).stn (32 + c) 8)

/-- RECAL_PASS: in a slot in which the rank has no queued command on the sub-channel, and no other pass occupies it (R238). -/
def State.recalPass (s : State) (c lr sub : Nat) (edges : List LaneEdges) (clks : Nat) (ces : List RecalCe) : State :=
  if s.recalOn c lr && s.noTarget c sub lr none && !s.inPass c sub s.clkNow && edges.length == 5 then s.recalGroup c lr sub edges clks ces else s

/-- RECAL_PASS (R237). -/
def execRecalPass (c : Chan) (lr : Fin 16) (sub : Fin 2) (edges : List LaneEdges) (clks : Nat) (ces : List RecalCe) (s : State) : Host.Outcome State Fault Refusal :=
  .next (s.recalPass c lr sub edges clks ces)

/-- RECAL_FORCED: a lane group not measured for RECAL_MAX is measured in the next slot, as soon as no read that ranks above it is queued and no pass occupies the sub-channel (R240). -/
def State.recalForced (s : State) (c lr sub : Nat) (edges : List LaneEdges) (clks : Nat) (ces : List RecalCe) : State :=
  if s.recalDue c lr sub && !(s.rqOf c sub).any (s.abovePass c) && !s.inPass c sub s.clkNow && edges.length == 5 then
    (s.sat (Reg.DMC_TRN_STATUS_FORCED c) 1).recalGroup c lr sub edges clks ces
  else s

/-- RECAL_FORCED (R240). -/
def execRecalForced (c : Chan) (lr : Fin 16) (sub : Fin 2) (edges : List LaneEdges) (clks : Nat) (ces : List RecalCe) (s : State) : Host.Outcome State Fault Refusal :=
  .next (s.recalForced c lr sub edges clks ces)

/-! ### The fast check (R233) -/

/-- The ranks of a channel that a full sweep trains. -/
def State.sweepOf (s : State) (c : Nat) : List (Nat × Nat) := (List.range (s.ranks c)).map (fun lr => (c, lr))

/-- A full sweep of a channel is due: every set is reseeded by it, and none counts as visited any longer (R233, R234). -/
def State.needSweep (s : State) (c : Nat) : State :=
  let s := s.updCh c (fun (d : Dmc) => { d with sets := [], inUse := [], target := [], edges := [], trainedRate := 0, pop := [] })
  let s := { s with boot := { s.boot with sweep := s.boot.sweep ++ s.sweepOf c } }
  (s.wr (Reg.DMC_TRN_STATUS_STATE c) 1).wr (Reg.DMC_TRN_STATUS_VISITED c) 0

/-- FAST_CHECK: the interpolated values are applied and both edges of every lane are measured; a lane too narrow leads to the full sweep. Its
temperature is what DMC_TEMP holds: 0 °C, the register's reset value, until a sensor has been read. (DEDUCED, unsafe, log entry 104) -/
def State.fastCheck (s : State) (c : Nat) (edges : List LaneEdges) : State :=
  if s.boot.fast.contains c then
    let s := { s with boot := { s.boot with fast := s.boot.fast.filter (· != c) } }
    let least := s.rd (Reg.DMC_TRN_CTL_TRN_MIN_WIDTH c)
    let ls := s.lanes c
    let good := edges.length == ls.length && edges.all (fun e =>
      [e.rd0, e.rd1, e.wr0, e.wr1].all (fun x => decide (least ≤ widthOf x)))
    if good then
      let t := s.chTemp c
      let s := s.updCh c (fun (d : Dmc) =>
        let t' : Tbl LaneSet := ls.map (fun n => (n, d.interp n t))
        { d with inUse := t', target := t' })
      let s := (ls.zip edges).foldl (fun (s : State) (x : Nat × LaneEdges) => s.followLane c x.1 { x.2 with rdVref := none, wrVref := none }) s
      s.trainDone c true
    else s.needSweep c
  else s

/-- FAST_CHECK (R233). -/
def execFastCheck (c : Chan) (edges : List LaneEdges) (s : State) : Host.Outcome State Fault Refusal := .next (s.fastCheck c edges)

end Sys2Proof.Machine
end

