-- ==== Sys2Proof/Machine/Graft.lean ====
section
/-! DEFINITION. The Graft link layer (R317 to R329): training, retrains, flow units, acknowledgement and replay; the loss of a port and of the
leases of a partner (R333, R334, R150). -/
namespace Sys2Proof.Machine

/-! ### Streams and flow units -/

/-- OP of a message (Table 14.5). -/
def msgOp : GMsg → Nat
  | .rdl .. => 1
  | .rdu .. => 2
  | .wrl .. => 3
  | .wrp .. => 4
  | .wru .. => 5
  | .datal .. => 8
  | .datau .. => 9
  | .cmp .. => 0xA
  | .oxn .. => 0xC
  | .bad op => op.toNat

/-- The kind of an Oxentelo message (Table 14.6). -/
def oxnKind : Oxn → Nat
  | .hello .. => 0x01
  | .identity .. => 0x02
  | .capability .. => 0x03
  | .leaseRequest .. => 0x10
  | .leaseGrant .. => 0x11
  | .leaseDeny .. => 0x12
  | .leaseRenew .. => 0x13
  | .leaseRenewed .. => 0x14
  | .leaseRecall .. => 0x15
  | .recallAck .. => 0x16
  | .leaseRelease .. => 0x17
  | .leaseReleased .. => 0x18
  | .reserved k => k

/-- What Table 14.6 gives each kind, in its order: (bytes, value). The bytes of the fields the spec leaves open. (DESIGN CHOICE, unsafe, log entry 114) -/
def oxnFields : Oxn → List (Nat × Nat)
  | .hello dom dev port ses ver => [(4, dom.toNat), (2, dev.toNat), (1, port), (2, ses.toNat), (1, ver.toNat)]
  | .identity part serial fw => [(2, part.toNat), (8, serial.toNat), (4, fw.toNat)]
  | .capability gib bw limit => [(4, gib), (4, bw), (2, limit)]
  | .leaseRequest l gib bw => [(1, l.val), (2, gib), (4, bw)]
  | .leaseGrant l gib bw term => [(1, l.val), (2, gib), (4, bw), (2, term)]
  | .leaseDeny l r => [(1, l.val), (1, r)]
  | .leaseRenew l => [(1, l.val)]
  | .leaseRenewed l term => [(1, l.val), (2, term)]
  | .leaseRecall l period => [(1, l.val), (2, period)]
  | .recallAck l => [(1, l.val)]
  | .leaseRelease l => [(1, l.val)]
  | .leaseReleased l => [(1, l.val)]
  | .reserved _ => []

/-- Fields of given widths written one after another. -/
def fieldBytes (xs : List (Nat × Nat)) : List Byte := xs.flatMap (fun (x : Nat × Nat) => leBytes x.1 x.2)

/-- Bytes filled up with zeros. -/
def zeroFill (n : Nat) (xs : List Byte) : List Byte := xs ++ List.replicate (n - xs.length) 0

/-- The 64 bytes of a line. -/
def lineImage (d : BitVec 512) : List Byte := leBytes 64 d.toNat

/-- The header of a message (Table 14.4), without its OP: TAG, LEASE or the Oxentelo kind, LINE, POISON, STATUS. -/
def msgFields (tag lease line poison status : Nat) : Nat :=
  tag * 2 ^ 4 + lease * 2 ^ 14 + line * 2 ^ 20 + poison * 2 ^ 52 + status * 2 ^ 60

/-- The header of a message (Table 14.4). -/
def msgHead (m : GMsg) : Nat :=
  msgOp m + match m with
    | .rdl t l n => msgFields t.toNat l n.toNat 0 0
    | .rdu t l n => msgFields t.toNat l n.toNat 0 0
    | .wrl t l n _ p => msgFields t.toNat l n.toNat p.toNat 0
    | .wrp t l n _ _ p => msgFields t.toNat l n.toNat p.toNat 0
    | .wru t l n _ p => msgFields t.toNat l n.toNat p.toNat 0
    | .datal t st _ p => msgFields t.toNat 0 0 p.toNat st.toNat
    | .datau t st _ p => msgFields t.toNat 0 0 p.toNat st.toNat
    | .cmp t st => msgFields t.toNat 0 0 0 st.toNat
    | .oxn t _ b => msgFields t.toNat (oxnKind b) 0 0 0
    | .bad _ => 0

/-- The data after the header of a message (Table 14.5). -/
def msgData : GMsg → List Byte
  | .wrl _ _ _ d _ => lineImage d
  | .wrp _ _ _ k d _ => leBytes 8 k.toNat ++ lineImage d
  | .wru _ _ _ d _ => (List.range 8).flatMap (fun j => lineImage ((d[j]?).getD 0))
  | .datal _ _ d _ => lineImage d
  | .datau _ _ d _ => (List.range 8).flatMap (fun j => lineImage ((d[j]?).getD 0))
  | .oxn _ _ b => zeroFill 56 (fieldBytes (oxnFields b))
  | _ => []

/-- The bytes of a message in its channel's stream (R329). -/
def msgBytes (m : GMsg) : List Byte := leBytes 8 (msgHead m) ++ msgData m

/-- The next bytes of a stream whose head message has had `off` bytes sent (R329): the rest of the payload, what stays queued, and the bytes sent of its new head. A header
that would not fit is preceded by PAD, which is zeros. (DEDUCED, unsafe, log entry 38) -/
def packFu (off room : Nat) (q : List GMsg) : List Byte × List GMsg × Nat :=
  match q with
  | [] => (List.replicate room 0, [], 0)
  | m :: rest =>
    if off = 0 ∧ room < 8 then (List.replicate room 0, q, 0)
    else
      let b := (msgBytes m).drop off
      if b.length ≤ room then
        let (xs, left, o) := packFu 0 (room - b.length) rest
        (b ++ xs, left, o)
      else (b.take room, q, off + room)

/-- Data bytes after a header, by its OP: none for an OP that the channel does not carry (Table 14.5). -/
def opData (rsp : Bool) (op : Nat) : Option Nat :=
  if op = 0xC then some 56
  else if rsp then (if op = 8 then some 64 else if op = 9 then some 512 else if op = 0xA then some 0 else none)
  else if op = 1 ∨ op = 2 then some 0 else if op = 3 then some 64 else if op = 4 then some 72 else if op = 5 then some 512 else none

/-- A field of bytes. -/
def byteField (b : List Byte) (off n : Nat) : Nat := ofBytes ((b.drop off).take n)

/-- The Oxentelo message of a kind and its body. (DESIGN CHOICE, unsafe, log entry 114) -/
def readOxn (kind : Nat) (b : List Byte) : Oxn :=
  let l : Fin 64 := Fin.ofNat 64 (byteField b 0 1)
  if kind = 0x01 then .hello (BitVec.ofNat 32 (byteField b 0 4)) (BitVec.ofNat 14 (byteField b 4 2)) (byteField b 6 1) (BitVec.ofNat 16 (byteField b 7 2))
    (BitVec.ofNat 8 (byteField b 9 1))
  else if kind = 0x02 then .identity (BitVec.ofNat 16 (byteField b 0 2)) (BitVec.ofNat 64 (byteField b 2 8)) (BitVec.ofNat 32 (byteField b 10 4))
  else if kind = 0x03 then .capability (byteField b 0 4) (byteField b 4 4) (byteField b 8 2)
  else if kind = 0x10 then .leaseRequest l (byteField b 1 2) (byteField b 3 4)
  else if kind = 0x11 then .leaseGrant l (byteField b 1 2) (byteField b 3 4) (byteField b 7 2)
  else if kind = 0x12 then .leaseDeny l (byteField b 1 1)
  else if kind = 0x13 then .leaseRenew l
  else if kind = 0x14 then .leaseRenewed l (byteField b 1 2)
  else if kind = 0x15 then .leaseRecall l (byteField b 1 2)
  else if kind = 0x16 then .recallAck l
  else if kind = 0x17 then .leaseRelease l
  else if kind = 0x18 then .leaseReleased l
  else .reserved kind

/-- Line j of the data of a message. -/
def dataLine (b : List Byte) (j : Nat) : BitVec 512 := BitVec.ofNat 512 (byteField b (64 * j) 64)

/-- The message that a header and its data spell (Tables 14.4 and 14.5). -/
def readMsg (rsp : Bool) (h : Nat) (b : List Byte) : GMsg :=
  let op := h % 16
  let t := BitVec.ofNat 10 (h / 2 ^ 4)
  let l : Fin 64 := Fin.ofNat 64 (h / 2 ^ 14)
  let n := BitVec.ofNat 32 (h / 2 ^ 20)
  let p := BitVec.ofNat 8 (h / 2 ^ 52)
  let st := BitVec.ofNat 4 (h / 2 ^ 60)
  if op = 1 then .rdl t l n
  else if op = 2 then .rdu t l n
  else if op = 3 then .wrl t l n (dataLine b 0) (p.getLsbD 0)
  else if op = 4 then .wrp t l n (BitVec.ofNat 64 (byteField b 0 8)) (dataLine (b.drop 8) 0) (p.getLsbD 0)
  else if op = 5 then .wru t l n ((List.range 8).map (dataLine b)) p
  else if op = 8 then .datal t st (dataLine b 0) (p.getLsbD 0)
  else if op = 9 then .datau t st ((List.range 8).map (dataLine b)) p
  else if op = 0xA then .cmp t st
  else .oxn t rsp (readOxn l.val b)

/-- A payload continues a channel's stream (R329): the messages that end in it, and the bytes of the one it leaves begun. A reserved OP, or one of the other channel,
ends it. -/
def readStream (rsp : Bool) (fuel : Nat) (begun xs : List Byte) : List GMsg × List Byte :=
  match fuel with
  | 0 => ([], [])
  | k + 1 =>
    let b := begun ++ xs
    if b.length < 8 then ([], [])
    else
      let h := byteField b 0 8
      if h % 16 = 0 then ([], [])
      else match opData rsp (h % 16) with
        | none => ([.bad (BitVec.ofNat 4 h)], [])
        | some n =>
          if b.length < 8 + n then ([], b)
          else
            let (ms, left) := readStream rsp k [] (b.drop (8 + n))
            (readMsg rsp h ((b.drop 8).take n) :: ms, left)

/-- The link header of a flow unit (Table 14.2). -/
def fuHead (ty ack kind start width : Nat) : Nat := ty + ack * 2 ^ 2 + kind * 2 ^ 14 + start * 2 ^ 18 + width * 2 ^ 30

/-- A flow unit (Table 14.1): link header, payload, CRC. -/
def fuUnit (head : Nat) (payload : List Byte) : List Byte :=
  let b := leBytes 8 head ++ payload
  b ++ leBytes 8 (crc64 b)

/-- The payload of an ACK or CTL flow unit. -/
def noPayload : List Byte := List.replicate 240 0

/-- A flow unit of 256 bytes that passes CRC (R323). -/
def fuGood (u : List Byte) : Bool := u.length == 256 && byteField u 248 8 == crc64 (u.take 248)

/-- TYPE of a sequenced flow unit. -/
def fuCode : FuType → Nat
  | .req => 0
  | .rsp => 1

/-- Sequence of the oldest unacknowledged flow unit. -/
def State.fuOldest (s : State) (g : Nat) : Nat := s.rd (Reg.GFT_PORT_SEQ_TX_OLDEST g)

/-- E: the sequence of the next flow unit expected (R328). -/
def State.fuExpect (s : State) (g : Nat) : Nat := s.rd (Reg.GFT_PORT_SEQ_RX_EXPECTED g)

/-- The steps from sequence a to sequence b, modulo 4,096. -/
def seqGap (a b : Nat) : Nat := (b + 4096 - a % 4096) % 4096

/-- The ACK field of a received flow unit is applied (R325). -/
def State.applyAck (s : State) (g a : Nat) : State :=
  let p := s.gp g
  let n := seqGap (s.fuOldest g) a
  if 1 ≤ n ∧ n ≤ p.buf.length then
    let old := s.fuOldest g
    let s := s.updGp g (fun p =>
      let rest := p.buf.drop n
      let rep := match p.replaying with
        | none => none
        | some q => if rest = [] then none else if seqGap old q < n then some (a % 4096) else some q
      { p with buf := rest, replaying := rep })
    (s.wr (Reg.GFT_PORT_SEQ_TX_OLDEST g) a).wr (Reg.GFT_PORT_SEQ_REPLAYS g) 0
  else s

/-- A flow unit leaves a port (R323, Table 14.2); it is counted, and carries E. (DEDUCED, unsafe, log entry 38) -/
def State.sendUnit (s : State) (g ty kind start width : Nat) (payload : List Byte) : State :=
  let e := s.fuExpect g
  let s := s.updGp g (fun p => { p with ackSent := e })
  ((s.cnt 0x2001 .dev).stn (117 + g) 0).emit (.fu g (fuUnit (fuHead ty e kind start width) payload))

/-- A replay starts at the oldest unacknowledged flow unit (R327). -/
def State.startReplay (s : State) (g : Nat) : State :=
  let old := s.fuOldest g
  let s := s.updGp g (fun p => { p with replaying := if p.buf = [] then none else some old })
  let s := (s.sat (Reg.GFT_PORT_SEQ_REPLAYS g) 1).sat (Reg.GFT_PORT_ERR_REPLAYS_TOTAL g) 1
  ((s.cnt 0x2004 .dev).stn (117 + g) 3).sendUnit g 3 2 old 0 noPayload

/-- A sequenced flow unit leaves a port. -/
def State.sendFu (s : State) (g : Nat) (f : Fu) : State := s.sendUnit g (fuCode f.ty) 0 0 0 f.payload

/-- An ACK flow unit leaves a port. -/
def State.sendAck (s : State) (g : Nat) : State := s.sendUnit g 2 0 0 0 noPayload

/-- A new sequenced flow unit is kept for replay and sent (R324). -/
def State.sendNew (s : State) (g : Nat) (f : Fu) : State :=
  let seq := (s.gp g).txNext
  (s.updGp g (fun p => { p with buf := p.buf ++ [f], txNext := (seq + 1) % 4096 })).sendFu g f

/-- The port's next flow unit (R324, R326, R327): the next of a replay; else a RSP before a REQ; an ACK while 1,024 are
unacknowledged, or when nothing is ready and its value has changed. -/
def State.fuTransmit (s : State) (g : Nat) : State :=
  if !s.portUp g then s
  else
    let p := s.gp g
    match p.replaying with
    | some q =>
      let k := seqGap (s.fuOldest g) q
      match p.buf[k]? with
      | none => s.updGp g (fun p => { p with replaying := none })
      | some f =>
        let next : Option Nat := if k + 1 < p.buf.length then some ((q + 1) % 4096) else none
        (s.updGp g (fun p => { p with replaying := next })).sendFu g f
    | none =>
      if p.rspQ = [] ∧ p.reqQ = [] then (if p.ackSent = s.fuExpect g then s else s.sendAck g)
      else if 1024 ≤ p.buf.length then s.sendAck g
      else if p.rspQ ≠ [] then
        let (xs, rest, off) := packFu p.rspOff 240 p.rspQ
        (s.updGp g (fun p => { p with rspQ := rest, rspOff := off })).sendNew g { ty := .rsp, payload := xs }
      else
        let (xs, rest, off) := packFu p.reqOff 240 p.reqQ
        (s.updGp g (fun p => { p with reqQ := rest, reqOff := off })).sendNew g { ty := .req, payload := xs }

/-- FU_TRANSMIT (R326). -/
def execFuTransmit (g : GPort) (s : State) : Host.Outcome State Fault Refusal := .next (s.fuTransmit g)

/-- ACK_TIMER (R326): an ACK flow unit leaves when nothing else is ready, or 500 ns after the last. -/
def State.ackTimer (s : State) (g : Nat) : State := if s.portUp g then s.sendAck g else s

/-- ACK_TIMER (R326). -/
def execAckTimer (g : GPort) (s : State) : Host.Outcome State Fault Refusal := .next (s.ackTimer g)

/-! ### Leases that end -/

/-- Shows the leases held (CUR_PRESSURE.LEASES). (DEDUCED, unsafe, log entry 39) -/
def State.showLeases (s : State) : State :=
  s.wr Reg.CUR_PRESSURE_LEASES (s.borrow.filter (fun (e : Nat × BorrowX) =>
    s.rd (Reg.GFT_BORROW_STATE e.1) == 1 || s.rd (Reg.GFT_BORROW_STATE e.1) == 2)).length

/-- A lease entry becomes FREE; G is computed again (R282). -/
def State.freeLease (s : State) (l : Nat) : State :=
  let s := (s.setDword (0x2001000 + 0x10 * l) 0).setWord (0x2001008 + 0x10 * l) 0
  let s : State := { s with borrow := Tbl.del s.borrow l, qos := { s.qos with gDirty := true } }
  s.showLeases.pressure

/-- A form lies on a lease. -/
def onLease (l : Nat) : PageForm → Bool
  | .spilled k _ _ => k == l
  | _ => false

/-- A page whose lease is lost becomes UNWRITTEN with PZ set, and what waits for it goes on (R150, R131). -/
def State.lostPage (s : State) (p : Nat) : State :=
  let s := ((s.wcbDropPage p).dropGather p).setForm p (.unwritten true)
  let wake (t : Txn) : Txn :=
    if t.req.page = p ∧ (t.phase = .needThaw ∨ t.phase = .move ∨ t.phase = .spill ∨ t.phase = .ctr ∨ t.phase = .lock) then { t with phase := .queued } else t
  { s with path := { s.path with txns := s.path.txns.map wake },
           sec := { s.sec with locks := s.sec.locks.filter (fun (k : PageLock) => k.page != p) } }

/-- A move that a lost lease ends (R150): a spill to it aborts; an unspill from it frees its destination and its page is lost. -/
def State.lostMove (s : State) (l k : Nat) (m : MoveSlot) : State :=
  if onLease l m.src.form then
    let s := (s.freeMoveEngine m).dropGather m.page
    let s := match m.dst with | some f => s.freeForm f | none => s
    (s.setForm m.page m.src.form).closeSlot k
  else match m.dst with
    | some f => if onLease l f then s.abortMove k else s
    | none => s

/-- A lease is lost (R150): every page on it becomes UNWRITTEN with PZ set, with the event, and the entry is free. -/
def State.loseLease (s : State) (l : Nat) : State :=
  let s := s.place.slots.foldl (fun (s : State) (e : Nat × MoveSlot) => s.lostMove l e.1 e.2) s
  let ps := (s.place.acc.filter (fun (e : Nat × Acc) => onLease l e.2.form)).map Prod.fst
  let s := ps.foldl State.lostPage s
  (s.raise 0x0304 l ps.length).freeLease l

/-- Another port to the same partner is UP. -/
def State.otherUp (s : State) (g : Nat) : Bool :=
  s.portUp (1 - g) && s.rd (Reg.GFT_PORT_STATUS_PEER_ID (1 - g)) == s.rd (Reg.GFT_PORT_STATUS_PEER_ID g)

/-- The leases held with a partner, or asked of it. -/
def State.leasesWith (s : State) (peer : Nat) : List Nat :=
  (s.borrow.filter (fun (e : Nat × BorrowX) => s.rd (Reg.GFT_BORROW_PEER_ID e.1) == peer)).map Prod.fst

/-- The partner is gone (R334): leases held are lost, and entries asked for or being released are free. -/
def State.partnerGone (s : State) (peer : Nat) : State :=
  (s.leasesWith peer).foldl (fun (s : State) (l : Nat) =>
    if s.rd (Reg.GFT_BORROW_STATE l) = 1 ∨ s.rd (Reg.GFT_BORROW_STATE l) = 2 then s.loseLease l
    else if s.rd (Reg.GFT_BORROW_STATE l) = 3 ∧ s.rd (Reg.GFT_BORROW_USED_UNITS l) ≠ 0 then s.loseLease l
    else s.freeLease l) s

/-- An exchange fails (R335, Table 14.7): an entry in REQUESTED or RELEASING becomes FREE. -/
def State.oxnFails (s : State) (x : Oxn) : State :=
  match x with
  | .leaseRequest l _ _ => if s.rd (Reg.GFT_BORROW_STATE l) = 0 ∧ (Tbl.look s.borrow l).isSome = true then s.freeLease l else s
  | .leaseRelease l => if s.rd (Reg.GFT_BORROW_STATE l) = 3 then s.freeLease l else s
  | _ => s

/-! ### The loss of a port -/

/-- A read request to the peer is discarded with code 4h (R333): it completes with poison, and so do the reads that wait for the decode of its page. -/
def State.lostRead (s : State) (o : Outst) : State :=
  let bad : Line := { data := 0, poison := true }
  match o.why with
  | .txn id _ => match s.txn? id with
    | some t => s.discard t 4 false
    | none => s
  | .engine e k =>
    let s := s.discardDecode e 4
    match Tbl.look s.press.engines e with
    | some (.read ..) => (s.freeEngine e).orphan (fun w => match w with | .engine f _ => f == e | _ => false)
    | some _ => (List.range o.span).foldl (fun (s : State) (j : Nat) => s.sherdBack e (8 * k + j) bad) s
    | none => s
  | .page p k => (List.range o.span).foldl (fun (s : State) (j : Nat) => s.pageBack p (8 * k + j) bad) s
  | .fill l n => s.fillBack l n bad
  | _ => s

/-- A write without an answer becomes a poisoned line, or eight, written through another port to the partner when one is UP (R333); the write of a spill that has
not committed ends the spill. -/
def State.lostWrite (s : State) (g : Nat) (o : Outst) : State :=
  let spill := s.place.slots.find? (fun (e : Nat × MoveSlot) => match e.2.dst with
    | some (.spilled l u n) => e.2.kind == .spill && l == o.lease && decide (u ≤ o.line / 8 ∧ o.line / 8 < u + spillGroups n)
    | _ => false)
  match spill with
  | some e => s.abortMove e.1
  | none =>
    if s.otherUp g then s.sendPeer (1 - g) o.lease o.line .merge true (fun l line =>
      if o.span = 8 then .wru 0 l line (List.replicate 8 0) (BitVec.allOnes 8) else .wrl 0 l line 0 true) else s

/-- A request without an answer is discarded with its port (R333). -/
def State.lostReq (s : State) (g : Nat) (o : Outst) : State := if o.write then s.lostWrite g o else s.lostRead o

/-- A request that waited for room on a port that is lost goes to another port to the partner when one is UP. -/
def State.lostWait (s : State) (g : Nat) (x : PeerReq) : State := if s.otherUp g then s.offerPeer (1 - g) x else s.lostReq g x.out

/-- The link state of a port that goes down: nothing is outstanding, queued or in service any longer. The port's own count of sessions is kept. -/
def GPortSt.downed (p : GPortSt) : GPortSt := { session := p.session, askAt := p.askAt }

/-- A port goes down (R333, R334): its requests are discarded, its service ends, and with no other port the partner is gone. -/
def State.portDown (s : State) (g st : Nat) : State :=
  let p := s.gp g
  let peer := s.rd (Reg.GFT_PORT_STATUS_PEER_ID g)
  let s := if s.flag (Reg.GFT_PORT_STATUS_FULL g) then { s with qos := { s.qos with gDirty := true } } else s
  let s := ((s.wr (Reg.GFT_PORT_STATUS_STATE g) st).setFlag (Reg.GFT_PORT_STATUS_FULL g) false).setFlag (Reg.GFT_PORT_STATUS_RX_DISCARD g) false
  let s := (s.setFlag (Reg.GFT_PORT_STATUS_PEER_VALID g) false).updGp g GPortSt.downed
  let own (q : Req) : Bool := q.src == .graft g
  let s := { s with path := { s.path with txns := s.path.txns.filter (fun (t : Txn) => !own t.req), ingress := s.path.ingress.filter (fun (q : Req) => !own q) } }
  let s := p.outst.foldl (fun (s : State) (o : Outst) => s.lostReq g o) s
  let s := p.waitReq.foldl (fun (s : State) (x : PeerReq) => s.lostWait g x) s
  let s := (p.oxn.map (·.body) ++ p.oxnToOpen).foldl State.oxnFails s
  let s := (p.cmdWidth.filter (fun (c : WidthCmd) => !c.silent)).foldl (fun (s : State) (c : WidthCmd) => s.sendReply c.src 0xC604 c.reqId 0x8010 0 0 []) s
  if s.otherUp g then s else s.partnerGone peer

/-- A port is LOST (R333), with its event. -/
def State.portLost (s : State) (g cause : Nat) : State := (s.portDown g 4).raise 0x2003 g cause

/-- Both ports are taken down (Tables 10.7 and 18.4). -/
def State.portsDown (s : State) : State :=
  (List.range 2).foldl (fun (s : State) (g : Nat) =>
    if s.rd (Reg.GFT_PORT_STATUS_STATE g) = 0 then s else s.portDown g 0) s

/-- GRAFT_PORT_LOST (R333): the cause must be one that the port's state admits. -/
def State.graftLost (s : State) (g : Nat) (c : LostCause) : State :=
  let st := s.rd (Reg.GFT_PORT_STATUS_STATE g)
  if st = 2 ∨ st = 3 then
    match c with
    | .replayLimit => if s.rd (Reg.GFT_CFG_REPLAY_LIMIT) + 1 ≤ s.rd (Reg.GFT_PORT_SEQ_REPLAYS g) then s.portLost g 0 else s
    | .noProgress => s.portLost g 1
    | .discardTooLong => if s.flag (Reg.GFT_PORT_STATUS_RX_DISCARD g) then s.portLost g 2 else s
    | .retrainTooLong => if st = 3 then s.portLost g 3 else s
    | .protocolError => s.portLost g 4
  else s

/-- GRAFT_PORT_LOST (R333). -/
def execGraftPortLost (g : GPort) (c : LostCause) (s : State) : Host.Outcome State Fault Refusal := .next (s.graftLost g c)

/-- A LOST port begins training again (R333), while it is enabled and the device has an ID (R317). -/
def State.lostRetry (s : State) (g : Nat) : State :=
  if s.rd (Reg.GFT_PORT_STATUS_STATE g) = 4 ∧ s.bit Reg.GFT_CFG_PORT_EN g = true ∧ s.flag Reg.GFT_CFG_ID_VALID = true then s.wr (Reg.GFT_PORT_STATUS_STATE g) 1 else s

/-- GRAFT_LOST_RETRY (R333). -/
def execGraftLostRetry (g : GPort) (s : State) : Host.Outcome State Fault Refusal := .next (s.lostRetry g)

/-! ### Training -/

/-- Sets WIDTH and FULL of a port that is UP (R322). (DEDUCED, unsafe, log entry 44) -/
def State.portWidth (s : State) (g w : Nat) : State :=
  let full := w == 3 && s.flag (Reg.GFT_PORT_STATUS_RATE g)
  let s := if s.flag (Reg.GFT_PORT_STATUS_FULL g) = full then s else { s with qos := { s.qos with gDirty := true } }
  (s.wr (Reg.GFT_PORT_STATUS_WIDTH g) w).setFlag (Reg.GFT_PORT_STATUS_FULL g) full

/-- GRAFT_LINK_UP (R317 to R319, R336): a port that is enabled, on a device with an ID, completes training. A partner of the same domain and another device
ID leaves it UP, and discovery begins; any other partner leaves it REFUSED. Both directions count from sequence 0. (DEDUCED, unsafe, log entry 38) -/
def State.graftLinkUp (s : State) (g width : Nat) (rate64 : Bool) (peer domain : Nat) : State :=
  let st := s.rd (Reg.GFT_PORT_STATUS_STATE g)
  if s.isSafe || !s.boot.released || !s.bit Reg.GFT_CFG_PORT_EN g || !s.flag Reg.GFT_CFG_ID_VALID || decide (1 < st) then s
  else
    let s := ((s.wr (Reg.GFT_PORT_STATUS_PEER_ID g) peer).setFlag (Reg.GFT_PORT_STATUS_RATE g) rate64).wr (Reg.GFT_PORT_STATUS_WIDTH g) width
    if domain = s.rd Reg.GFT_DOMAIN_TAG ∧ peer ≠ s.rd Reg.GFT_CFG_DEV_ID then
      let s := ((s.wr (Reg.GFT_PORT_STATUS_STATE g) 2).setWord (0x2000108 + 0x10 * g) 0).portWidth g width
      let n := ((s.gp g).session + 1) % 65536
      let s := s.updGp g (fun p => { p.downed with session := n })
      s.openOxn g (.hello (BitVec.ofNat 32 (s.rd Reg.GFT_DOMAIN_TAG)) (BitVec.ofNat 14 (s.rd Reg.GFT_CFG_DEV_ID)) g (BitVec.ofNat 16 n) 1)
    else (s.wr (Reg.GFT_PORT_STATUS_STATE g) 5).raise 0x2001 g peer

/-- GRAFT_LINK_UP (R319). -/
def execGraftLinkUp (g : GPort) (width : Fin 4) (rate64 : Bool) (peer : BitVec 14) (domain : BitVec 32) (s : State) :
    Host.Outcome State Fault Refusal := .next (s.graftLinkUp g width rate64 peer.toNat domain.toNat)

/-- A port enters RETRAIN (R320): it counts, and for the floor it is no longer up. -/
def State.enterRetrain (s : State) (g : Nat) : State :=
  let s := if s.flag (Reg.GFT_PORT_STATUS_FULL g) then { s with qos := { s.qos with gDirty := true } } else s
  (((s.wr (Reg.GFT_PORT_STATUS_STATE g) 3).setFlag (Reg.GFT_PORT_STATUS_FULL g) false).sat (Reg.GFT_PORT_ERR_RETRAINS g) 1).stn (117 + g) 4

/-- This end starts a retrain, or a width change (R320). -/
def State.startRetrain (s : State) (g : Nat) (w : Option Nat) : State :=
  let s := match w with | none => s.sendUnit g 3 3 0 0 noPayload | some w => s.sendUnit g 3 4 0 w noPayload
  (s.enterRetrain g).updGp g (fun p => { p with lead := true, target := w })

/-- In a collision the end with the lower device ID goes on, and the other follows (R321). -/
def State.follows (s : State) (g : Nat) : Bool := decide (s.rd (Reg.GFT_PORT_STATUS_PEER_ID g) < s.rd Reg.GFT_CFG_DEV_ID)

/-- This end abandons its attempt and follows the partner's, to the width that one asks for. -/
def State.follow (s : State) (g : Nat) (w : Option Nat) : State := s.updGp g (fun p => { p with lead := false, target := w })

/-- More than 16 flow units have failed CRC within 10 µs (R320). -/
def State.crcRate (s : State) (g : Nat) : Bool := decide (16 < ((s.gp g).crcAt.filter (fun t => decide (s.tick < t + 125 * s.rootN))).length)

/-- GRAFT_RETRAIN (R320, R321): a lane or the CRC count starts a retrain, or a width change that is wanted starts. In a collision the end with the lower
device ID goes on; the other abandons its attempt, and still wants its width. -/
def State.graftRetrain (s : State) (g : Nat) (c : RetrainCause) (collision : Bool) : State :=
  let start (w : Option Nat) : State :=
    let t := s.startRetrain g w
    if collision && s.follows g then t.follow g none else t
  if !s.portUp g then s
  else match c with
    | .widthChange w => if (s.gp g).wantWidth ≠ some w.val then s else start (some w.val)
    | .crcRate => if s.crcRate g then start none else s
    | .blockLock => start none

/-- GRAFT_RETRAIN (R320). -/
def execGraftRetrain (g : GPort) (c : RetrainCause) (collision : Bool) (s : State) : Host.Outcome State Fault Refusal :=
  .next (s.graftRetrain g c collision)

/-- A SET_PORT_WIDTH whose change has ended is recorded and answered (R345, R346), or only recorded when it was interrupted after its commit (R347). -/
def State.widthAnswer (s : State) (c : WidthCmd) : State :=
  let s := s.recordReply { src := c.src, opcode := 0xC604, reqId := c.reqId, rc := 0, detail := 0, value := 0, body := [] }
  if c.silent then s else s.sendReply c.src 0xC604 c.reqId 0 0 0 []

/-- A retrain or width change ends (R320): `lanes` is the widest width at which the lanes that work can go on, and the port is UP at its width, or at the width the change asks for, unless a
lane has failed. It replays from its oldest unacknowledged flow unit. A width change that was abandoned is requested again while it is wanted (R321), and the commands that
asked for it are answered when the change ends. (DEDUCED, unsafe, log entry 44) -/
def State.retrainDone (s : State) (g lanes : Nat) : State :=
  if s.rd (Reg.GFT_PORT_STATUS_STATE g) ≠ 3 then s
  else
    let p := s.gp g
    let w := min lanes (p.target.getD (s.rd (Reg.GFT_PORT_STATUS_WIDTH g)))
    let s := ((s.wr (Reg.GFT_PORT_STATUS_STATE g) 2).portWidth g w).updGp g (fun p => { p with lead := false, target := none })
    let s := if p.buf = [] then s else s.startReplay g
    match p.wantWidth with
    | none => s
    | some v =>
      if w = v ∨ (p.lead = true ∧ p.target = some v) then
        p.cmdWidth.foldl State.widthAnswer (s.updGp g (fun p => { p with wantWidth := none, cmdWidth := [] }))
      else s.startRetrain g (some v)

/-- GRAFT_RETRAIN_DONE (R320). -/
def execGraftRetrainDone (g : GPort) (width : Fin 4) (s : State) : Host.Outcome State Fault Refusal := .next (s.retrainDone g width)

/-! ### Control flow units -/

/-- A flow unit with good CRC is counted and its ACK field applied (R325). -/
def State.goodFu (s : State) (g a : Nat) : State := (((s.cnt 0x2002 .dev).stn (117 + g) 1)).applyAck g a

/-- ACK_FU (R325). -/
def execAckFu (g : GPort) (ack : BitVec 12) (s : State) : Host.Outcome State Fault Refusal :=
  .next (if s.portUp g then s.goodFu g ack.toNat else s)

/-- A NAK arrives (R327): its ACK is applied and a replay starts. -/
def State.nakIn (s : State) (g a : Nat) : State := if s.portUp g then (s.goodFu g a).startReplay g else s

/-- NAK (R327). -/
def execNak (g : GPort) (ack : BitVec 12) (s : State) : Host.Outcome State Fault Refusal := .next (s.nakIn g ack.toNat)

/-- A REPLAY arrives (Table 14.3): the receiver resumes at START, unless START lies after E. -/
def State.replayIn (s : State) (g a start : Nat) : State :=
  if !s.portUp g then s
  else
    let s := s.goodFu g a
    if seqGap start (s.fuExpect g) ≤ 1024 then
      (s.updGp g (fun p => { p with seqIn := start })).setFlag (Reg.GFT_PORT_STATUS_RX_DISCARD g) false
    else s.portLost g 4

/-- REPLAY (R328). -/
def execReplay (g : GPort) (ack start : BitVec 12) (s : State) : Host.Outcome State Fault Refusal := .next (s.replayIn g ack.toNat start.toNat)

/-- The partner starts a retrain, or a change to a width (R320). One that meets an attempt of this end collides with it (R321). -/
def State.retrainIn (s : State) (g a : Nat) (w : Option Nat) : State :=
  if s.portUp g then ((s.goodFu g a).enterRetrain g).follow g w
  else if s.rd (Reg.GFT_PORT_STATUS_STATE g) = 3 then
    let s := s.goodFu g a
    if (s.gp g).lead && !s.follows g then s else s.follow g w
  else s

/-- RETRAIN_REQ (R320). -/
def execRetrainReq (g : GPort) (ack : BitVec 12) (s : State) : Host.Outcome State Fault Refusal := .next (s.retrainIn g ack.toNat none)

/-- WIDTH_REQ (R320): WIDTH changes when the change ends. -/
def execWidthReq (g : GPort) (ack : BitVec 12) (w : Fin 4) (s : State) : Host.Outcome State Fault Refusal := .next (s.retrainIn g ack.toNat (some w))

/-- The replay timer expires (R327, R333). During a retrain the replay waits for its end. -/
def State.replayTimer (s : State) (g : Nat) : State :=
  let st := s.rd (Reg.GFT_PORT_STATUS_STATE g)
  if (st = 2 ∨ st = 3) ∧ (s.gp g).buf ≠ [] then
    if s.rd Reg.GFT_CFG_REPLAY_LIMIT + 1 ≤ s.rd (Reg.GFT_PORT_SEQ_REPLAYS g) then s.portLost g 0
    else if st = 2 then s.startReplay g
    else s
  else s

/-- REPLAY_TIMER_EXPIRY (R327). -/
def execReplayTimerExpiry (g : GPort) (s : State) : Host.Outcome State Fault Refusal := .next (s.replayTimer g)

/-- The receiver asks for a replay with a NAK. -/
def State.sendNak (s : State) (g : Nat) : State := s.sendUnit g 3 1 0 0 noPayload

/-- NAK_RESEND (R328): in DISCARD the NAK is sent again. -/
def execNakResend (g : GPort) (s : State) : Host.Outcome State Fault Refusal :=
  .next (if s.portUp g && s.flag (Reg.GFT_PORT_STATUS_RX_DISCARD g) then s.sendNak g else s)

end Sys2Proof.Machine
end

