-- ==== Sys2Proof/Machine/Oxentelo.lean ====
section
/-! DEFINITION. Graft messages: the lender's service of a peer's requests (R332, R28, R269), the borrower's answers (R331), Oxentelo (R335, R336), and lending and
borrowing (R337 to R339, Tables 14.7 and 14.8). -/
namespace Sys2Proof.Machine

/-- A second in ticks. -/
def State.second (s : State) : Nat := s.rootN * 12500000

/-! ### The lender's service -/

/-- The granted lease that a partner's request names, for a range of lines (R332). -/
def State.lentFor (s : State) (g lease line n : Nat) : Option Nat :=
  (s.lent.map Prod.fst).find? (fun k => s.rd (Reg.GFT_LENT_PEER_ID k) == s.rd (Reg.GFT_PORT_STATUS_PEER_ID g)
    && s.rd (Reg.GFT_LENT_PEER_LEASE k) == lease && decide (line + n ≤ s.rd (Reg.GFT_LENT_SIZE_GIB k) * 2 ^ 24))

/-- A request outside any lease of the partner: its event (R332). -/
def State.peerUnbacked (s : State) (g lease line : Nat) : State :=
  s.raise 0x2002 (s.rd (Reg.GFT_PORT_STATUS_PEER_ID g)) (lease + line * 64)

/-- The class of a peer's requests (R269). -/
def State.lendClass (s : State) : Option Nat :=
  let c := s.rd Reg.QOS_CFG_LEND_CLASS
  if c < 64 ∧ s.flag (Reg.QOS_CLASS_CTL_VALID c) = true then some c else none

/-- One line of a peer's request enters the inbound queue of its port (R28), with the deadline of bucket 1 of LEND_CLASS (R269). -/
def State.lentLine (s : State) (g id : Nat) (op : ReqOp) (line : Nat) (data : BitVec 512) (be : BitVec 64) (poison : Bool) : State :=
  let c := s.lendClass
  let q : Req := { id := s.path.nextId, src := .graft g, ld := 0, op := op, line := line, data := data, be := be, poison := poison, cls := c,
                   tier := s.tierOf c, deadline := s.deadlineOf c 1, bucket := 1, arrival := s.tick, lease := id }
  let s := s.newId
  { s with path := { s.path with ingress := s.path.ingress ++ [q] } }

/-- A peer's request is taken into service: `op` is 0 for one line read, 1 for eight, 2 for a write; the lines are (line in the lease, data, enables, poison). -/
def State.serveLent (s : State) (g tag op k : Nat) (ls : List (Nat × BitVec 512 × BitVec 64 × Bool)) : State :=
  let id := s.path.nextId
  let base := s.rd (Reg.GFT_LENT_BASE k) * 2 ^ 22
  let s := (s.newId.cnt 0x2005 .dev).updGp g (fun p => { p with serving := p.serving ++ [{ id := id, tag := tag, op := op, left := ls.length, lines := [] }] })
  ls.foldl (fun (s : State) (x : Nat × BitVec 512 × BitVec 64 × Bool) =>
    s.lentLine g id (if op = 2 then ReqOp.wr else ReqOp.rd) (base + x.1) x.2.1 x.2.2.1 x.2.2.2) s

/-- A read request of a partner: one line or eight. -/
def State.lentRead (s : State) (g tag lease line n : Nat) : State :=
  if !s.portUp g then s
  else match s.lentFor g lease line n with
    | some k => s.serveLent g tag (if n = 1 then 0 else 1) k ((List.range n).map (fun j => (line + j, 0, 0, false)))
    | none =>
      let t := BitVec.ofNat 10 tag
      (s.peerUnbacked g lease line).queueRsp g (if n = 1 then .datal t 1 0 true else .datau t 1 (List.replicate 8 0) (BitVec.allOnes 8))

/-- A write request of a partner. -/
def State.lentWrite (s : State) (g tag lease line : Nat) (ls : List (BitVec 512 × BitVec 64 × Bool)) : State :=
  if !s.portUp g then s
  else match s.lentFor g lease line ls.length with
    | some k => s.serveLent g tag 2 k (ls.zipIdx.map (fun (x : (BitVec 512 × BitVec 64 × Bool) × Nat) => (line + x.2, x.1.1, x.1.2.1, x.1.2.2)))
    | none => (s.peerUnbacked g lease line).queueRsp g (.cmp (BitVec.ofNat 10 tag) 1)

/-- RDL (R332). -/
def execRdl (g : GPort) (tag : BitVec 10) (lease : Fin 64) (line : BitVec 32) (s : State) : Host.Outcome State Fault Refusal :=
  .next (s.lentRead g tag.toNat lease line.toNat 1)

/-- RDU (R332): LINE is taken as a multiple of 8. -/
def execRdu (g : GPort) (tag : BitVec 10) (lease : Fin 64) (line : BitVec 32) (s : State) : Host.Outcome State Fault Refusal :=
  .next (s.lentRead g tag.toNat lease (line.toNat / 8 * 8) 8)

/-- WRL (R332). -/
def execWrl (g : GPort) (tag : BitVec 10) (lease : Fin 64) (line : BitVec 32) (data : BitVec 512) (poison : Bool) (s : State) :
    Host.Outcome State Fault Refusal := .next (s.lentWrite g tag.toNat lease line.toNat [(data, BitVec.allOnes 64, poison)])

/-- WRP (R332): the bytes that the mask enables, merged as Table 3.3 states. -/
def execWrp (g : GPort) (tag : BitVec 10) (lease : Fin 64) (line : BitVec 32) (mask : BitVec 64) (data : BitVec 512) (poison : Bool) (s : State) :
    Host.Outcome State Fault Refusal := .next (s.lentWrite g tag.toNat lease line.toNat [(data, mask, poison)])

/-- WRU (R332): eight lines, each with its poison bit. -/
def execWru (g : GPort) (tag : BitVec 10) (lease : Fin 64) (line : BitVec 32) (data : List (BitVec 512)) (poison : BitVec 8) (s : State) :
    Host.Outcome State Fault Refusal :=
  .next (s.lentWrite g tag.toNat lease (line.toNat / 8 * 8)
    ((List.range 8).map (fun j => ((data[j]?).getD 0, BitVec.allOnes 64, poison.getLsbD j))))

/-! ### The borrower's answers -/

/-- A write of a line of a lease was answered with a nonzero STATUS, and no later write of the whole line was stored (R332). -/
def State.peerBad (s : State) (l n : Nat) : Bool := (Tbl.look s.borrow l).any (fun (x : BorrowX) => x.bad.contains n)

/-- The lines of an answered write are poisoned from now on when STATUS is not 0; a whole line that is stored is good again (R332). (DEDUCED, unsafe, log entry 112) -/
def State.notePeer (s : State) (o : Outst) (status : Nat) : State :=
  let ls := (List.range o.span).map (fun j => o.line + j)
  let f (x : BorrowX) : BorrowX :=
    if status ≠ 0 then { x with bad := x.bad ++ ls.filter (fun n => !x.bad.contains n) }
    else if o.part then x else { x with bad := x.bad.filter (fun n => !ls.contains n) }
  { s with borrow := s.borrow.map (fun (e : Nat × BorrowX) => if e.1 = o.lease then (e.1, f e.2) else e) }

/-- A read answer reaches the borrower (R331, R332): each line is poisoned when STATUS is not 0. A tag that is not outstanding is a protocol error. -/
def State.peerData (s : State) (g tag status : Nat) (xs : List Line) : State :=
  if !s.portUp g then s
  else match (s.gp g).outst.find? (fun (o : Outst) => o.tag == tag && !o.write) with
    | none => s.portLost g 4
    | some o =>
      let s := s.answered g tag
      let ys := xs.zipIdx.map (fun (x : Line × Nat) => if status = 0 ∧ s.peerBad o.lease (o.line + x.2) = false then x.1 else { x.1 with poison := true })
      let y := ys.headD { poison := true }
      match o.why with
      | .txn id _ => match s.txn? id with
        | some t => s.lineBack t y
        | none => s
      | .fill l n => s.fillBack l n y
      | .engine e k => ys.zipIdx.foldl (fun (s : State) (x : Line × Nat) => s.sherdBack e (8 * k + x.2) x.1) s
      | .page p k => ys.zipIdx.foldl (fun (s : State) (x : Line × Nat) => s.pageBack p (8 * k + x.2) x.1) s
      | _ => s

/-- DATAL (R331). -/
def execDatal (g : GPort) (tag : BitVec 10) (status : BitVec 4) (data : BitVec 512) (poison : Bool) (s : State) : Host.Outcome State Fault Refusal :=
  .next (s.peerData g tag.toNat status.toNat [{ data := data, poison := poison }])

/-- Eight lines of a message with their poison bits. -/
def eightLines (data : List (BitVec 512)) (poison : BitVec 8) : List Line :=
  (List.range 8).map (fun j => { data := (data[j]?).getD 0, poison := poison.getLsbD j })

/-- DATAU (R331). -/
def execDatau (g : GPort) (tag : BitVec 10) (status : BitVec 4) (data : List (BitVec 512)) (poison : BitVec 8) (s : State) :
    Host.Outcome State Fault Refusal := .next (s.peerData g tag.toNat status.toNat (eightLines data poison))

/-- A write completion reaches the borrower (R331). With a nonzero STATUS its lines are poisoned (R332), and a spill whose write was not stored aborts. -/
def State.peerCmp (s : State) (g tag status : Nat) : State :=
  if !s.portUp g then s
  else match (s.gp g).outst.find? (fun (o : Outst) => o.tag == tag && o.write) with
    | none => s.portLost g 4
    | some o =>
      let s := (s.answered g tag).notePeer o status
      if status = 0 then s
      else { s with place := { s.place with slots := s.place.slots.map (fun (e : Nat × MoveSlot) => (e.1, match e.2.dst with
        | some (.spilled l u n) =>
          if l = o.lease ∧ u ≤ o.line / 8 ∧ o.line / 8 < u + spillGroups n then { e.2 with abort := true } else e.2
        | _ => e.2)) } }

/-- CMP (R331). -/
def execCmp (g : GPort) (tag : BitVec 10) (status : BitVec 4) (s : State) : Host.Outcome State Fault Refusal := .next (s.peerCmp g tag.toNat status.toNat)

/-! ### Lending -/

/-- The lend region (R337). -/
def State.lendRegion (s : State) : Option (Nat × Region) := s.regions.find? (fun (e : Nat × Region) => e.2.lend)

/-- 256 MiB units of the granted leases. -/
def State.lentUnits (s : State) : Nat := (s.lent.map (fun (e : Nat × LentX) => 4 * s.rd (Reg.GFT_LENT_SIZE_GIB e.1))).sum

/-- Lendable capacity in GiB: the part of the lend region that no lease holds, 0 while the pressure level is LOW or worse (R337). -/
def State.lendable (s : State) : Nat :=
  if 2 ≤ s.rd Reg.CUR_PRESSURE_LEVEL then 0
  else match s.lendRegion with
    | none => 0
    | some (_, r) => (r.len - s.lentUnits) / 4

/-- Shows the lending status. -/
def State.showLend (s : State) : State := (s.wr Reg.GFT_LEND_STATUS_GRANTED s.lent.length).wr Reg.GFT_LEND_STATUS_FREE_GIB s.lendable

/-- The first free range of n units of the lend region, on a 256 MiB boundary. -/
def State.lendBase (s : State) (n : Nat) : Option Nat :=
  match s.lendRegion with
  | none => none
  | some (_, r) => (firstBelow (r.len + 1 - n) (fun k => s.lent.all (fun (e : Nat × LentX) =>
      let b := s.rd (Reg.GFT_LENT_BASE e.1)
      decide (r.base + k + n ≤ b ∨ b + 4 * s.rd (Reg.GFT_LENT_SIZE_GIB e.1) ≤ r.base + k)))).map (r.base + ·)

/-- FULL ports to a partner (R322). -/
def State.fullPorts (s : State) (peer : Nat) : Nat :=
  ((List.range 2).filter (fun g => s.flag (Reg.GFT_PORT_STATUS_FULL g) && s.rd (Reg.GFT_PORT_STATUS_PEER_ID g) == peer)).length

/-- The floor of LEND_CLASS is the sum of the granted bandwidth (R284). -/
def State.lendFloor (s : State) (extra : Nat) : State :=
  let c := s.rd Reg.QOS_CFG_LEND_CLASS
  if c < 64 then s.wr (Reg.QOS_CLASS_FLOOR_FLOOR c) ((s.lent.map (fun (e : Nat × LentX) => e.2.bw)).sum + extra) else s

/-- The largest multiple of 100 MB/s, at most a bound, that R284 admits. -/
def State.grantBw (s : State) (cap : Nat) : Option Nat :=
  if s.lendClass = none then none
  else (((List.range (cap / 100 + 1)).reverse).map (100 * ·)).find? (fun w =>
    decide ((s.lent.map (fun (e : Nat × LentX) => e.2.bw)).sum + w < 2 ^ 20) && ((s.lendFloor w).overcommit).isNone)

/-- A lease request is granted, or denied with its reason (R338): 3 lending disabled, 1 no capacity, 2 the floor is not admitted. (DEDUCED, unsafe, log entry 39) -/
def State.leaseAsk (s : State) (g tag lease gib bw : Nat) : State :=
  let peer := s.rd (Reg.GFT_PORT_STATUS_PEER_ID g)
  let t := BitVec.ofNat 10 tag
  let lf := Fin.ofNat 64 lease
  let deny (r : Nat) : State := s.queueRsp g (.oxn t true (.leaseDeny lf r))
  if !s.flag Reg.GFT_CFG_LENDING_EN then deny 3
  else if gib = 0 ∨ 256 < gib ∨ s.lendable < gib ∨ 64 ≤ s.lent.length then deny 1
  else match s.lendBase (4 * gib), firstBelow 64 (fun k => (Tbl.look s.lent k).isNone) with
    | some b, some k => match s.grantBw (min bw (51200 * s.fullPorts peer)) with
      | some w =>
        if w < 1000 then deny 2
        else
          let term := s.rd Reg.GFT_LEASE_CFG_TERM_S
          let order := ((s.lent.map (fun (e : Nat × LentX) => e.2.order)).foldl max 0) + 1
          let s := s.setDword (0x2002000 + 8 * k)
            (BitVec.ofNat 64 (1 + peer * 2 ^ 2 + lease * 2 ^ 16 + b * 2 ^ 22 + gib * 2 ^ 39))
          let s : State := { s with lent := Tbl.put s.lent k { port := g, term := term, bw := w, order := order, since := s.tick } }
          (((s.lendFloor 0).showLend)).queueRsp g (.oxn t true (.leaseGrant lf gib w term))
      | none => deny 2
    | _, _ => deny 1

/-- The granted lease of a partner under its lease index. -/
def State.lentOf (s : State) (g lease : Nat) : Option Nat := s.lentFor g lease 0 0

/-- A page of a range that ends returns to UNWRITTEN, whatever moves it (R130). -/
def State.endPage (s : State) (p : Nat) : State :=
  let s := match s.slotOf p with | some (k, _) => s.abortMove k | none => s
  s.askClear p

/-- A granted lease ends: its pages return to UNWRITTEN and its range is free (R339). -/
def State.endLent (s : State) (k : Nat) : State :=
  let b := s.rd (Reg.GFT_LENT_BASE k)
  let n := 4 * s.rd (Reg.GFT_LENT_SIZE_GIB k)
  let s := (s.pagesIn (b * 65536) ((b + n) * 65536 - 1)).foldl State.endPage s
  let s := s.setDword (0x2002000 + 8 * k) 0
  let s : State := { s with lent := Tbl.del s.lent k }
  (s.lendFloor 0).showLend

/-- A lease is reclaimed, with its event (R339). -/
def State.reclaim (s : State) (k : Nat) : State :=
  let peer := s.rd (Reg.GFT_LENT_PEER_ID k)
  (s.endLent k).raise 0x2004 k peer

/-- LEASE_RECLAIM (R339): at T + T/4 without a renewal, or at the end of the recall period plus T/4. (DEDUCED, unsafe, log entry 39) -/
def State.leaseReclaim (s : State) (k : Nat) : State :=
  match Tbl.look s.lent k with
  | none => s
  | some x =>
    let q := s.second * x.term
    if 4 * x.since + 5 * q ≤ 4 * s.tick
        ∨ (s.flag (Reg.GFT_LENT_RECALLING k) = true ∧ 4 * x.recallAt + 4 * s.second * x.period + q ≤ 4 * s.tick) then s.reclaim k
    else s

/-- LEASE_RECLAIM (R339). -/
def execLeaseReclaim (k : Fin 64) (s : State) : Host.Outcome State Fault Refusal := .next (s.leaseReclaim k)

/-! ### Discovery -/

/-- Bandwidth grantable per FULL port. (DEDUCED, unsafe, log entry 39) -/
def State.grantable (s : State) : Nat := (s.grantBw 51200).getD 0

/-- This Kelorn's CAPABILITY body. -/
def State.capBody (s : State) : Oxn := .capability s.lendable s.grantable 1024

/-- This Kelorn's IDENTITY body: part code, serial number, firmware version. -/
def State.idBody (s : State) : Oxn := .identity 0x9640 Config.serial (BitVec.ofNat 32 (s.rd Reg.GLB_FW_ID_FW_VERSION))

/-- This Kelorn's HELLO body on a port. -/
def State.helloBody (s : State) (g : Nat) : Oxn :=
  .hello (BitVec.ofNat 32 (s.rd Reg.GFT_DOMAIN_TAG)) (BitVec.ofNat 14 (s.rd Reg.GFT_CFG_DEV_ID)) g (BitVec.ofNat 16 (s.gp g).session) 1

/-- CAPABILITY is opened, with the capacity it reports. -/
def State.openCap (s : State) (g : Nat) : State :=
  let n := s.lendable
  (s.updGp g (fun p => { p with capSent := n, capAt := s.tick })).openOxn g s.capBody

/-- The partner's session in a HELLO (R336): one that differs from the partner's last ends the earlier session, and the leases granted to the partner are reclaimed
(R339). (DEDUCED, unsafe, log entry 39) -/
def State.noteSession (s : State) (g n : Nat) : State :=
  let peer := s.rd (Reg.GFT_PORT_STATUS_PEER_ID g)
  let fresh := (Tbl.look s.mgmt.sessions peer).any (· != n)
  let s : State := { s with mgmt := { s.mgmt with sessions := Tbl.put s.mgmt.sessions peer n } }
  if fresh then ((s.lent.map Prod.fst).filter (fun k => s.rd (Reg.GFT_LENT_PEER_ID k) == peer)).foldl State.reclaim s else s

/-- The partner's CAPABILITY. -/
def State.noteCap (s : State) (g gib : Nat) : State := s.updGp g (fun p => { p with peerGib := gib })

/-! ### Exchanges -/

/-- An Oxentelo exchange that the partner opens (Table 14.6); every one is answered (R335), also for a lease that is not known. Kinds that only answer, and reserved kinds, are answered by
nothing. (DEDUCED, unsafe, log entry 39) -/
def State.oxnAsked (s : State) (g : Nat) (tag : BitVec 10) (x : Oxn) : State :=
  let answer (b : Oxn) (s : State) : State := s.queueRsp g (.oxn tag true b)
  match x with
  | .hello _ _ _ n _ => let s := s.noteSession g n.toNat; answer (s.helloBody g) s
  | .identity .. => answer s.idBody s
  | .capability gib _ _ => let s := (s.noteCap g gib).updGp g (fun p => { p with capIn := true }); answer s.capBody s
  | .leaseRequest l gib bw => s.leaseAsk g tag.toNat l gib bw
  | .leaseRenew l => match s.lentOf g l with
    | some k => match Tbl.look s.lent k with
      | some y => answer (.leaseRenewed l y.term) { s with lent := Tbl.put s.lent k { y with since := s.tick } }
      | none => s
    | none => (answer (.leaseRenewed l (s.freeNow.toNat % 128)) s).advanceFree
  | .leaseRecall l period =>
    match Tbl.look s.borrow l with
    | some y =>
      let s := answer (.recallAck l) s
      if s.rd (Reg.GFT_BORROW_STATE l) = 1 then
        let s := (s.wr (Reg.GFT_BORROW_STATE l) 2)
        let s : State := { s with borrow := Tbl.put s.borrow l { y with recallAt := s.tick, period := period }, qos := { s.qos with gDirty := true } }
        (s.showLeases.leaseEmptied l).pressure
      else s
    | none => answer (.recallAck l) s
  | .leaseRelease l => match s.lentOf g l with
    | some k => answer (.leaseReleased l) (s.endLent k)
    | none => answer (.leaseReleased l) s
  | _ => s

/-- An answer of the partner to an exchange that is open (Table 14.6, Table 14.7). An answer under a tag that is not outstanding is a protocol error; one that
does not fit its exchange leaves it unanswered. -/
def State.oxnAnswered (s : State) (g : Nat) (tag : BitVec 10) (x : Oxn) : State :=
  match (s.gp g).oxn.find? (fun (o : OxnOpen) => o.tag == tag.toNat) with
  | none => s.portLost g 4
  | some o =>
    let close (s : State) : State := s.updGp g (fun p => { p with oxn := p.oxn.filter (fun (y : OxnOpen) => y.tag != tag.toNat) })
    match o.body, x with
    | .hello .., .hello _ _ _ n _ =>
      ((((close s).noteSession g n.toNat).setFlag (Reg.GFT_PORT_STATUS_PEER_VALID g) true)).openOxn g s.idBody
    | .identity .., .identity .. => (close s).openCap g
    | .capability .., .capability gib _ _ => ((close s).noteCap g gib).updGp g (fun p => { p with capAns := true })
    | .leaseRequest l _ _, .leaseGrant m gib bw term =>
      if l = m ∧ (Tbl.look s.borrow l).isSome = true ∧ s.rd (Reg.GFT_BORROW_STATE l) = 0 then
        let s := (((close s).wr (Reg.GFT_BORROW_STATE l) 1).wr (Reg.GFT_BORROW_SIZE_GIB l) gib).wr (Reg.GFT_BORROW_BW_GRANT l) bw
        let s : State := { s with borrow := Tbl.put s.borrow l { port := g, term := term, since := s.tick, emptyAt := s.tick }, qos := { s.qos with gDirty := true } }
        s.showLeases.pressure
      else s
    | .leaseRequest l _ _, .leaseDeny m _ => if l = m then (close s).freeLease l else s
    | .leaseRenew l, .leaseRenewed m term =>
      if l = m then
        let s := close s
        match Tbl.look s.borrow l with
        | some y => { s with borrow := Tbl.put s.borrow l { y with term := term, since := s.tick } }
        | none => s
      else s
    | .leaseRecall l _, .recallAck m => if l = m then close s else s
    | .leaseRelease l, .leaseReleased m =>
      if l = m then (if s.rd (Reg.GFT_BORROW_STATE l) = 3 then (close s).freeLease l else close s) else s
    | _, _ => s

/-- An Oxentelo message arrives. One that arrives while the pair of duty 7 is down waits for the hand-over (R34). -/
def State.oxnIn (s : State) (g : Nat) (tag : BitVec 10) (answer : Bool) (x : Oxn) : State :=
  if !s.portUp g then s
  else if !s.dutyUp 7 then s.updGp g (fun p => { p with oxnHeld := p.oxnHeld ++ [(tag, answer, x)] })
  else if answer then (s.oxnAnswered g tag x).oxnNext g else s.oxnAsked g tag x

/-- The Oxentelo work of a port that has waited for the hand-over of duty 7 goes on (R34): the messages that arrived, and the exchanges to open. -/
def State.oxnResume (s : State) (g : Nat) : State :=
  let p := s.gp g
  let s := s.updGp g (fun p => { p with oxnHeld := [], oxnToOpen := [] })
  let s := p.oxnHeld.foldl (fun (s : State) (m : BitVec 10 × Bool × Oxn) => s.oxnIn g m.1 m.2.1 m.2.2) s
  p.oxnToOpen.foldl (fun (s : State) (x : Oxn) => s.openOxn g x) s

/-- HELLO (R336). -/
def execHello (g : GPort) (tag : BitVec 10) (answer : Bool) (domain : BitVec 32) (dev : BitVec 14) (session : BitVec 16) (s : State) :
    Host.Outcome State Fault Refusal := .next (s.oxnIn g tag answer (.hello domain dev g session 1))

/-- IDENTITY (R336). -/
def execIdentity (g : GPort) (tag : BitVec 10) (answer : Bool) (part : BitVec 16) (serial : BitVec 64) (fw : BitVec 32) (s : State) :
    Host.Outcome State Fault Refusal := .next (s.oxnIn g tag answer (.identity part serial fw))

/-- CAPABILITY (R336). -/
def execCapability (g : GPort) (tag : BitVec 10) (answer : Bool) (lendGib bw : Nat) (s : State) : Host.Outcome State Fault Refusal :=
  .next (s.oxnIn g tag answer (.capability lendGib bw 1024))

/-- LEASE_REQUEST (R338). -/
def execLeaseRequest (g : GPort) (tag : BitVec 10) (lease : Fin 64) (gib bw : Nat) (s : State) : Host.Outcome State Fault Refusal :=
  .next (s.oxnIn g tag false (.leaseRequest lease gib bw))

/-- LEASE_GRANT (Table 14.7). -/
def execLeaseGrant (g : GPort) (tag : BitVec 10) (lease : Fin 64) (gib bw term : Nat) (s : State) : Host.Outcome State Fault Refusal :=
  .next (s.oxnIn g tag true (.leaseGrant lease gib bw term))

/-- LEASE_DENY (Table 14.7). -/
def execLeaseDeny (g : GPort) (tag : BitVec 10) (lease : Fin 64) (reason : Nat) (s : State) : Host.Outcome State Fault Refusal :=
  .next (s.oxnIn g tag true (.leaseDeny lease reason))

/-- LEASE_RENEW (Table 14.8). -/
def execLeaseRenew (g : GPort) (tag : BitVec 10) (lease : Fin 64) (s : State) : Host.Outcome State Fault Refusal :=
  .next (s.oxnIn g tag false (.leaseRenew lease))

/-- LEASE_RENEWED (Table 14.7). -/
def execLeaseRenewed (g : GPort) (tag : BitVec 10) (lease : Fin 64) (term : Nat) (s : State) : Host.Outcome State Fault Refusal :=
  .next (s.oxnIn g tag true (.leaseRenewed lease term))

/-- LEASE_RECALL (Table 14.7, R150). -/
def execLeaseRecall (g : GPort) (tag : BitVec 10) (lease : Fin 64) (period : Nat) (s : State) : Host.Outcome State Fault Refusal :=
  .next (s.oxnIn g tag false (.leaseRecall lease period))

/-- RECALL_ACK (Table 14.8). -/
def execRecallAck (g : GPort) (tag : BitVec 10) (lease : Fin 64) (s : State) : Host.Outcome State Fault Refusal :=
  .next (s.oxnIn g tag true (.recallAck lease))

/-- LEASE_RELEASE (Table 14.8). -/
def execLeaseRelease (g : GPort) (tag : BitVec 10) (lease : Fin 64) (s : State) : Host.Outcome State Fault Refusal :=
  .next (s.oxnIn g tag false (.leaseRelease lease))

/-- LEASE_RELEASED (Table 14.7). -/
def execLeaseReleased (g : GPort) (tag : BitVec 10) (lease : Fin 64) (s : State) : Host.Outcome State Fault Refusal :=
  .next (s.oxnIn g tag true (.leaseReleased lease))

/-- An exchange without an answer within 10 ms is sent once more, and fails at the second timeout (R335). -/
def State.oxnTimeout (s : State) (g tag : Nat) : State :=
  match (s.gp g).oxn.find? (fun (o : OxnOpen) => o.tag == tag) with
  | none => s
  | some o =>
    if !s.dutyUp 7 then s
    else if o.tries = 1 then
      (s.updGp g (fun p => { p with oxn := p.oxn.map (fun (y : OxnOpen) => if y.tag = tag then { y with tries := 2 } else y) })).queueReq g
        (.oxn (BitVec.ofNat 10 tag) false o.body)
    else ((s.updGp g (fun p => { p with oxn := p.oxn.filter (fun (y : OxnOpen) => y.tag != tag) })).oxnFails o.body).oxnNext g

/-- OXENTELO_TIMEOUT (R335). -/
def execOxenteloTimeout (g : GPort) (tag : BitVec 10) (s : State) : Host.Outcome State Fault Refusal := .next (s.oxnTimeout g tag.toNat)

/-- CAPABILITY is sent again when the lendable capacity has changed, at most once in 100 ms (R336). -/
def State.capResend (s : State) (g : Nat) : State :=
  if s.portUp g && s.dutyUp 7 && (s.gp g).capAns && (s.gp g).capSent != s.lendable && decide (10 * (s.gp g).capAt + s.second ≤ 10 * s.tick) then
    s.showLend.openCap g else s

/-- CAPABILITY_RESEND (R336). -/
def execCapabilityResend (g : GPort) (s : State) : Host.Outcome State Fault Refusal := .next (s.capResend g)

/-! ### Borrowing -/

/-- The partner of a port was asked less than a second ago, on either port (R338). -/
def State.askedLately (s : State) (g : Nat) : Bool :=
  let peer := s.rd (Reg.GFT_PORT_STATUS_PEER_ID g)
  (List.range 2).any (fun k => s.rd (Reg.GFT_PORT_STATUS_PEER_ID k) == peer
    && (match (s.gp k).askAt with | some t => decide (s.tick < t + s.second) | none => false))

/-- A lease is asked of a partner that reports lendable capacity, at level LOW or worse, while BORROW_EN and SPILL_EN are 1 (R338). -/
def State.leaseTrigger (s : State) (g : Nat) : State :=
  let peer := s.rd (Reg.GFT_PORT_STATUS_PEER_ID g)
  if !s.portUp g || !s.dutyUp 7 || !(s.gp g).capAns || !(s.gp g).capIn || decide (s.rd Reg.CUR_PRESSURE_LEVEL < 2) || !s.flag Reg.GFT_LEASE_CFG_BORROW_EN
      || !s.flag Reg.CUR_POLICY_SPILL_EN || (s.gp g).peerGib == 0 || s.askedLately g then s
  else match firstBelow 64 (fun l => (Tbl.look s.borrow l).isNone) with
    | none => s
    | some l =>
      let gib := min (s.rd Reg.GFT_LEASE_CFG_REQ_GIB) (s.gp g).peerGib
      let s := (s.setDword (0x2001000 + 0x10 * l) (BitVec.ofNat 64 (1 + peer * 8)))
      let s : State := { s with borrow := Tbl.put s.borrow l { port := g } }
      (s.updGp g (fun p => { p with askAt := some s.tick })).openOxn g (.leaseRequest (Fin.ofNat 64 l) gib (51200 * s.fullPorts peer))

/-- LEASE_REQUEST_TRIGGER (R338). -/
def execLeaseRequestTrigger (g : GPort) (s : State) : Host.Outcome State Fault Refusal := .next (s.leaseTrigger g)

/-- The lease is held, recalled or not. -/
def State.leaseHeld (s : State) (l : Nat) : Bool := s.rd (Reg.GFT_BORROW_STATE l) == 1 || s.rd (Reg.GFT_BORROW_STATE l) == 2

/-- At T/2 the borrower sends LEASE_RENEW (R339). -/
def State.leaseRenewal (s : State) (l : Nat) : State :=
  match Tbl.look s.borrow l with
  | none => s
  | some x =>
    if s.leaseHeld l && s.dutyUp 7 && decide (2 * x.since + s.second * x.term ≤ 2 * s.tick) then
      s.openOxn (s.peerPort (s.rd (Reg.GFT_BORROW_PEER_ID l)) x.port) (.leaseRenew (Fin.ofNat 64 l)) else s

/-- LEASE_RENEW_TIMER (R339). -/
def execLeaseRenewTimer (l : Fin 64) (s : State) : Host.Outcome State Fault Refusal := .next (s.leaseRenewal l)

/-- At T without a renewal, or at the end of a recall period with pages still on the lease, the lease is given up (R339, R150). -/
def State.leaseExpiry (s : State) (l : Nat) : State :=
  match Tbl.look s.borrow l with
  | none => s
  | some x =>
    let late := decide (x.since + s.second * x.term ≤ s.tick)
    let ended := s.rd (Reg.GFT_BORROW_STATE l) == 2 && s.rd (Reg.GFT_BORROW_USED_UNITS l) != 0 && decide (x.recallAt + s.second * x.period ≤ s.tick)
    if s.leaseHeld l && (late || ended) then s.loseLease l else s

/-- LEASE_TERM_EXPIRY (R339). -/
def execLeaseTermExpiry (l : Fin 64) (s : State) : Host.Outcome State Fault Refusal := .next (s.leaseExpiry l)

/-- A held lease that has had no page for T at level NORMAL is released (Table 14.7). -/
def State.leaseIdle (s : State) (l : Nat) : State :=
  match Tbl.look s.borrow l with
  | none => s
  | some x =>
    if s.dutyUp 7 = true ∧ s.rd (Reg.GFT_BORROW_STATE l) = 1 ∧ s.rd (Reg.GFT_BORROW_USED_UNITS l) = 0 ∧ s.rd Reg.CUR_PRESSURE_LEVEL = 0
        ∧ x.emptyAt + s.second * x.term ≤ s.tick then
      let s := s.releaseLease l
      let s : State := { s with qos := { s.qos with gDirty := true } }
      s.showLeases.pressure
    else s

/-- LEASE_IDLE_RELEASE (Table 14.7). -/
def execLeaseIdleRelease (l : Fin 64) (s : State) : Host.Outcome State Fault Refusal := .next (s.leaseIdle l)

/-! ### Delivery -/

/-- A message of a delivered flow unit takes effect (Table 14.5). A reserved OP is a protocol error; a line address of an eight-line message is a multiple of 8. -/
def State.deliverMsg (s : State) (g : Nat) (m : GMsg) : State :=
  match m with
  | .rdl t l n => s.lentRead g t.toNat l n.toNat 1
  | .rdu t l n => s.lentRead g t.toNat l (n.toNat / 8 * 8) 8
  | .wrl t l n d p => s.lentWrite g t.toNat l n.toNat [(d, BitVec.allOnes 64, p)]
  | .wrp t l n k d p => s.lentWrite g t.toNat l n.toNat [(d, k, p)]
  | .wru t l n d p => s.lentWrite g t.toNat l (n.toNat / 8 * 8) ((List.range 8).map (fun j => ((d[j]?).getD 0, BitVec.allOnes 64, p.getLsbD j)))
  | .datal t st d p => s.peerData g t.toNat st.toNat [{ data := d, poison := p }]
  | .datau t st d p => s.peerData g t.toNat st.toNat (eightLines d p)
  | .cmp t st => s.peerCmp g t.toNat st.toNat
  | .oxn t a b => s.oxnIn g t a b
  | .bad _ => if s.portUp g then s.portLost g 4 else s

/-- A flow unit fails CRC (Table 14.3): it is dropped whole, and a receiver that was in NORMAL sends a NAK. The failure counts toward R320. -/
def State.fuBad (s : State) (g : Nat) : State :=
  let s := ((s.sat (Reg.GFT_PORT_ERR_CRC_FAILS g) 1).cnt 0x2003 .dev).stn (117 + g) 2
  let s := s.updGp g (fun p => { p with crcAt := p.crcAt.filter (fun t => decide (s.tick < t + 125 * s.rootN)) ++ [s.tick] })
  if s.flag (Reg.GFT_PORT_STATUS_RX_DISCARD g) then s else (s.setFlag (Reg.GFT_PORT_STATUS_RX_DISCARD g) true).sendNak g

/-- The payload of a REQ or RSP flow unit is delivered: it continues its channel's stream, and the messages that end in it take effect (R329). -/
def State.fuDeliver (s : State) (g : Nat) (rsp : Bool) (payload : List Byte) : State :=
  let p := s.gp g
  let r := readStream rsp 32 (if rsp then p.rxRsp else p.rxReq) payload
  let s := s.updGp g (fun p => if rsp then { p with rxRsp := r.2 } else { p with rxReq := r.2 })
  r.1.foldl (fun (s : State) (m : GMsg) => s.deliverMsg g m) s

/-- A REQ or RSP flow unit with good CRC arrives (R328, Table 14.3): its ACK is applied; the next one expected is delivered, a duplicate is not, and in DISCARD none is. -/
def State.fuSeq (s : State) (g a : Nat) (rsp : Bool) (payload : List Byte) : State :=
  let s := s.goodFu g a
  if s.flag (Reg.GFT_PORT_STATUS_RX_DISCARD g) then s
  else
    let c := (s.gp g).seqIn
    let e := s.fuExpect g
    let s := s.updGp g (fun p => { p with seqIn := (c + 1) % 4096 })
    if c = e then (s.wr (Reg.GFT_PORT_SEQ_RX_EXPECTED g) ((e + 1) % 4096)).fuDeliver g rsp payload else s

/-- A CTL flow unit with good CRC acts by its CTL_KIND; a reserved kind is a protocol error (R332). -/
def State.ctlIn (s : State) (g a h : Nat) : State :=
  let kind := h / 2 ^ 14 % 16
  if kind = 1 then s.nakIn g a
  else if kind = 2 then s.replayIn g a (h / 2 ^ 18 % 4096)
  else if kind = 3 then s.retrainIn g a none
  else if kind = 4 then s.retrainIn g a (some (h / 2 ^ 30 % 4))
  else if s.portUp g then (s.goodFu g a).portLost g 4 else s

/-- A flow unit arrives (R323, R325, R328): its CRC is checked, and it acts by its TYPE. While a port retrains, only a request to retrain is heard. -/
def State.fuReceive (s : State) (g : Nat) (u : List Byte) : State :=
  if !fuGood u then (if s.portUp g then s.fuBad g else s)
  else
    let h := byteField u 0 8
    let a := h / 4 % 4096
    if h % 4 = 3 then s.ctlIn g a h
    else if !s.portUp g then s
    else if h % 4 = 2 then s.goodFu g a
    else s.fuSeq g a (h % 4 == 1) ((u.drop 8).take 240)

/-- FU_RECEIVE (R328). -/
def execFuReceive (g : GPort) (unit : List Byte) (s : State) : Host.Outcome State Fault Refusal := .next (s.fuReceive g unit)

end Sys2Proof.Machine
end

