-- ==== Sys2Proof/Machine/Recovery.lean ====
section
/-! DEFINITION. Faults larger than a line: uncorrectable on-chip arrays (Table 10.2), lost channels and die-to-die links (R260), slice restarts (R261), and the
Warden's fence and safe state (R262 to R265). -/
namespace Sys2Proof.Machine

/-! ### The safe state (R265, Table 10.7) -/

/-- Viral is enabled in an LD: Viral_Enable of its DVSEC CXL Control (R47). (PRESUMED, unsafe, log entry 91) -/
def Ld.viralOn (d : Ld) : Bool := (Tbl.lookD d.cfg 0 0x18C).getLsbD 14

/-- Fatal error on every LD, and viral where viral is enabled (R91, Table 10.7). -/
def State.aerAll (s : State) : State := s.lds.foldl (fun (s : State) (e : Nat × Ld) => s.emit (.aer e.1 e.2.viralOn)) s

/-- Every request in flight is discarded with code 7h; nothing is sent (R91). -/
def State.discardAll (s : State) : State :=
  (s.path.txns ++ s.dir.bench).foldl (fun (s : State) (t : Txn) => s.discard t 7 false) s

/-- Steps 1 to 3 of Table 10.7. The order to the DMCs follows as SAFE_STATE_ORDER. The dirty lines of the metadata caches and of the write-combining buffers
are discarded (R392). (DEDUCED, unsafe, log entry 37) -/
def State.safeEntry (s : State) (cause : Nat) : State :=
  if s.isSafe then s
  else
    let s := ((s.wr Reg.GLB_WDN_STATUS_STATE 2).wr Reg.GLB_WDN_STATUS_SAFE_CAUSE cause).setFlag Reg.GLB_WDN_STATUS_SR_CLEAN false
    let s := s.discardAll
    let s := { s with path := { s.path with wcb := [] }, sec := { s.sec with cache := [] }, place := { s.place with accDirty := [] },
                      warden := { s.warden with fence := [], departed := cause == 3 } }
    let s := (s.aerAll.portsDown).wr Reg.GLB_WDN_STATUS_HEALTHY 0
    let s := ((s.raise 0x2203 cause).stn 119 4).trigger 0 6
    { s with alertN := false, out := .alertN false :: s.out }

/-- WARDEN_SELF_CHECK_MISMATCH (R263). -/
def execWardenSelfCheckMismatch (s : State) : Host.Outcome State Fault Refusal := .next (if s.boot.released then s.safeEntry 5 else s)

/-- The root PLL reports loss of lock, or REFCLK is lost (R33). What HOST_PLL_LOCKED and GRAFT_PLL_LOCKED then read the spec leaves open (R32): here they keep their values.
(DESIGN CHOICE, unsafe, log entry 80) -/
def State.pllLoss (s : State) (refclk : Bool) : State :=
  if !s.boot.released then s
  else
    let s := (s.setFlag Reg.GLB_CLK_STATUS_LOCK_LOST true).setFlag Reg.GLB_CLK_STATUS_ROOT_PLL_LOCKED false
    (if refclk then s.setFlag Reg.GLB_CLK_STATUS_REFCLK_PRESENT false else s).safeEntry 2

/-- ROOT_PLL_LOCK_LOSS (R33). -/
def execRootPllLockLoss (refclkLost : Bool) (s : State) : Host.Outcome State Fault Refusal := .next (s.pllLoss refclkLost)

/-- The tick departs from its rate by more than 10 % (R33). In the safe state it takes the trust from the DRAM contents (R265). -/
def State.tickDeparts (s : State) : State :=
  if !s.boot.released then s
  else
    let s := (s.setFlag Reg.GLB_CLK_STATUS_LOCK_LOST true).safeEntry 3
    { s with warden := { s.warden with departed := true } }

/-- TICK_DEPARTURE (R33). -/
def execTickDeparture (s : State) : Host.Outcome State Fault Refusal := .next s.tickDeparts

/-! ### Pair failures and the fence (R262 to R264) -/

/-- The next healthy pair after one, in rising order from DP7 to DP0 (R35). -/
def State.nextPair (s : State) (p : Nat) : Nat :=
  (((List.range 8).map (fun k => (p + 1 + k) % 8)).find? (fun q => s.healthy q && !s.warden.fence.contains q)).getD p

/-- Duty n is held by pair p. -/
def State.giveDuty (s : State) (n p : Nat) : State := s.wr ⟨0x120, 4 * n, 4⟩ p

/-- Every duty of a pair that is not healthy, or whose failure the fence is for, goes to the next healthy pair (R35). -/
def State.handOver (s : State) : State :=
  (List.range 8).foldl (fun (s : State) (n : Nat) =>
    if s.dutyUp n then s else s.giveDuty n (s.nextPair (s.dutyOwner n))) s

/-- Failures of a pair since cold reset. -/
def pairFails (p : Nat) : Reg.Fld := ⟨0x124, 4 * p, 4⟩

/-- Background commands end with an error code (R67, R347), and their range passes and sanitises end. (DEDUCED, unsafe, log entry 37) -/
def State.failBg (s : State) (rc : Nat) (isIt : Bg → Bool) : State :=
  let ended := s.mgmt.bg.filter isIt
  let s := (ended.filter (fun (b : Bg) => !b.silent)).foldl (fun (s : State) (b : Bg) => s.sendDone b rc []) s
  let gone (x : Sanit) : Bool := ended.any (fun (b : Bg) => match b.why with | .sanitize rs => rs == x.ranges | _ => false)
  let s : State := { s with mgmt := { s.mgmt with clears := s.mgmt.clears.filter (fun x => !gone x) } }
  let s := s.endPasses (fun (x : RangePass) => ended.any (fun (b : Bg) => match b.why with | .scrub n => n == x.id | _ => false))
  { s with mgmt := { s.mgmt with bg := s.mgmt.bg.filter (fun (b : Bg) => !isIt b) } }

/-- A background command has made its commit: a DISABLE or a sanitise has, as it starts; FW_COMMIT has as it begins to write the boot record, and a scrub makes none (R347). (DEDUCED, unsafe, log entry 109) -/
def Bg.committed (b : Bg) : Bool := match b.why with | .disable .. => true | .sanitize _ => true | .fwWrite .. => true | _ => false

/-- What is in progress after its commit is answered with INTERRUPTED and takes its full effect; its normal reply will be recorded (R347). -/
def State.interruptBg (s : State) : State :=
  let s := (s.mgmt.bg.filter (fun (b : Bg) => !b.silent)).foldl (fun (s : State) (b : Bg) => s.sendDone b 0x8006 []) s
  { s with mgmt := { s.mgmt with bg := s.mgmt.bg.map (fun (b : Bg) => { b with silent := true }) } }

/-- The same for a SET_PORT_WIDTH of a port. -/
def State.interruptWidth (s : State) (g : Nat) : State :=
  let s := ((s.gp g).cmdWidth.filter (fun (c : WidthCmd) => !c.silent)).foldl (fun (s : State) (c : WidthCmd) => s.sendReply c.src 0xC604 c.reqId 0x8006 0 0 []) s
  s.updGp g (fun (p : GPortSt) => { p with cmdWidth := p.cmdWidth.map (fun (c : WidthCmd) => { c with silent := true }) })

/-- The commands that a failed pair runs end with 8006h INTERRUPTED (R264, R347): those of the holder of duty 0. -/
def State.dropCommands (s : State) (p : Nat) : State :=
  if s.dutyOwner 0 = p then (((s.failBg 0x8006 (fun b => !b.committed)).interruptBg).interruptWidth 0).interruptWidth 1 else s

/-- The plans that a failed pair had not started are discarded; the pair that receives its duty begins with the next epoch's (R35, R138). -/
def State.dropPlans (s : State) (p : Nat) : State :=
  (List.range 4).foldl (fun (s : State) (j : Nat) =>
    if s.dutyOwner (2 + j) = p then
      { s with place := { s.place with plan := (List.range 8).foldl (fun t k => Tbl.del t (8 * j + k)) s.place.plan,
                                       planned := addOnce s.place.planned (2 + j) } }
    else s) s

/-- A pair fails (R262): how is 0 for a mismatch, 1 for the watchdog. The Warden halts it; the fence starts or is joined, or, with no healthy pair left, the safe
state is entered (Table 10.5). A third failure keeps the pair offline. -/
def State.pairFail (s : State) (p how : Nat) : State :=
  if s.isSafe || !s.healthy p then s
  else
    let s := (s.wrBit Reg.GLB_WDN_STATUS_HEALTHY p false).sat (pairFails p) 1
    let s := ((s.raise 0x2201 p how).stn 119 0).stn 119 (1 + how)
    let s := (s.dropCommands p).dropPlans p
    let s := if 3 ≤ s.rd (pairFails p) then (s.wrBit Reg.GLB_WDN_STATUS_OFFLINE p true).raise 0x2202 p
      else { s with warden := { s.warden with reload := addOnce s.warden.reload p } }
    if (List.range 8).all (fun k => !s.healthy k) then s.safeEntry 1
    else
      let s := if s.isFence then s
        else
          let s := ((s.wr Reg.GLB_WDN_STATUS_STATE 1).stn 119 3).cnt 0x2201 .dev
          (State.trigger { s with warden := { s.warden with fenceTicks := s.tick } } 0 5)
      { s with warden := { s.warden with fence := addOnce s.warden.fence p } }

/-- LOCKSTEP_MISMATCH (R262). -/
def execLockstepMismatch (p : Pair) (s : State) : Host.Outcome State Fault Refusal := .next (s.pairFail p 0)

/-- A watchdog expires WDG_MS after the pair's last kick, on an oscillator accurate to 5 % (R33, R262). -/
def State.watchdog (s : State) (p : Nat) : State :=
  let wait := (max 1 (s.rd Reg.GLB_WDN_CFG_WDG_MS)) * (s.rootN * 12500)
  if 100 * Tbl.lookD s.warden.kick 0 p + 95 * wait ≤ 100 * s.tick then s.pairFail p 1 else s

/-- WATCHDOG_EXPIRY (R262). -/
def execWatchdogExpiry (p : Pair) (s : State) : Host.Outcome State Fault Refusal := .next (s.watchdog p)

/-- A pair restarts its watchdog. -/
def State.kickDog (s : State) (p : Nat) : State := { s with warden := { s.warden with kick := Tbl.putD s.warden.kick 0 p s.tick } }

/-- GLB_WDN_KICK (R262): only a write from the pair itself counts. -/
def execGlbWdnKick (a : Agent) (p : Pair) (s : State) : Host.Outcome State Fault Refusal :=
  .next (if a = .pair p then s.kickDog p else s)

/-- A reloaded pair returns to service without duties (R262): those it still holds while the fence lasts are handed over at its end (R35). -/
def State.pairBack (s : State) (p : Nat) : State :=
  if s.isSafe || !s.warden.reload.contains p then s
  else
    let s := (s.wrBit Reg.GLB_WDN_STATUS_HEALTHY p true).kickDog p
    { s with warden := { s.warden with reload := s.warden.reload.filter (· != p) } }

/-- PAIR_RELOAD_DONE (R262). -/
def execPairReloadDone (p : Pair) (s : State) : Host.Outcome State Fault Refusal := .next (s.pairBack p)

/-- The access ports of the failed pairs are empty in every slice (R263). -/
def State.portsEmpty (s : State) : Bool := s.place.staged.all (fun (x : Staged) => !s.warden.fence.contains x.pair)

/-- The fence ends: duties are handed over and the Warden returns to RUN. -/
def State.unfence (s : State) : State :=
  let s := s.handOver.wr Reg.GLB_WDN_STATUS_STATE 0
  let s : State := { s with warden := { s.warden with fence := [] } }
  (s.oxnResume 0).oxnResume 1

/-- FENCE_RELEASE (R263). -/
def execFenceRelease (s : State) : Host.Outcome State Fault Refusal := .next (if s.isFence && s.portsEmpty then s.unfence else s)

/-- A request held at ingress ends with code 6h (R89, R91). -/
def State.dropHeld (s : State) (q : Req) : State :=
  match q.src with
  | .head _ => s.discard { req := q, slice := sliceOfLine q.line, kind := kindOf q (s.isDb q.page), pstate := formCode (s.acc q.page).form } 6 true false
  | _ => s

/-- The fence has held for 20 µs (Table 10.5): held requests of heads complete with poison, and the Warden returns to RUN, or enters SAFE while a port is not
empty. -/
def State.fenceExpires (s : State) : State :=
  if !s.isFence || decide (s.tick < s.warden.fenceTicks + s.rootN * 250) then s
  else
    let held := s.path.ingress.filter (fun (q : Req) => q.head?.isSome)
    let s := { s with path := { s.path with ingress := s.path.ingress.filter (fun (q : Req) => q.head?.isNone) } }
    let s := (held.foldl State.dropHeld s).setFlag Reg.GLB_WDN_STATUS_FENCE_EXPIRED true
    if s.portsEmpty then s.unfence else s.safeEntry 4

/-- FENCE_EXPIRY (R263). -/
def execFenceExpiry (s : State) : Host.Outcome State Fault Refusal := .next s.fenceExpires

/-! ### Slice restarts (R261) -/

/-- The copies of a line are invalidated at every sharer; heads that have stopped leave its entry at once (R117). -/
def State.recall (s : State) (line : Nat) (why : ExchWhy) : State :=
  let s := s.cleanStopped line
  match s.entry? line with
  | none => s
  | some (k, e) => if headsOf e.sharers = [] then s.delWay k else s.openExch line why (headsOf e.sharers) .inv

/-- The reason under which the exchange of a line goes on when every sharer is snooped anew: a walk keeps its own, and a request's is none any longer. -/
def State.againWhy (s : State) (line : Nat) : ExchWhy :=
  match (s.dir.exchs.find? (fun x => x.line == line)).map Exch.why with
  | some (.txn _) => .restart
  | some (.evict ..) => .restart
  | some w => w
  | none => .restart

/-- An entry that was pinned is invalidated at every sharer (R261). -/
def State.restartLine (s : State) (line : Nat) : State :=
  let why := s.againWhy line
  let s := { s with dir := { s.dir with exchs := s.dir.exchs.filter (fun x => x.line != line) } }
  match s.entry? line with
  | none => s
  | some (k, e) => (s.putWay k { e with evicting := false }).recall line why

/-- Writes that had been accepted are lost with a line of the buffer: their heads have their completions already (R91). Each counts for the pending fences that came after it, or, with
none, for its head's next fence (R93). (DEDUCED, unsafe, log entry 36) -/
def State.lostBuffered (s : State) (slice : Nat) (w : WcbLine) : State :=
  let s := w.writers.foldl (fun (s : State) (e : Writer) => s.countDiscard e.head e.ld slice w.line 3 e.cls) s
  w.writers.foldl (fun (s : State) (e : Writer) => s.fenceLoses e.head (fun (f : Fence) => f.head == e.head && decide (e.id < f.mark)) e.id) s

/-- A slice's state is uncorrectable (R250, R261, Table 3.5): its requests in flight are discarded with code 3h, its buffer is lost, and every line concerned is
stored as poisoned. (DEDUCED, unsafe, log entry 36) -/
def State.restartSlice (s : State) (slice : Nat) : State :=
  if s.isSafe || s.path.restart.contains slice then s
  else
    let ts := (s.path.txns ++ s.dir.bench).filter (fun (t : Txn) => t.slice == slice)
    let ws := s.wcbOf slice
    let pinned := ((s.dir.ways.map Prod.snd).filter (fun e => sliceOfLine e.line == slice && (e.evicting || s.pinned e.line))).map (·.line)
    let s := ts.foldl (fun (s : State) (t : Txn) => s.discard t 3 false) s
    let s := { s with path := { s.path with wcb := s.path.wcb.filter (fun w => sliceOfLine w.line != slice), restart := s.path.restart ++ [slice] } }
    let s := ws.foldl (fun (s : State) (w : WcbLine) => s.lostBuffered slice w) s
    let s := ((ts.map (fun t => t.req.line) ++ ws.map (·.line)).eraseDups).foldl State.poisonLine s
    (pinned.foldl State.restartLine s).stn slice 8

/-- SLICE_RESTART_DONE (R261): requests that wait in ingress for the slice are admitted again. -/
def execSliceRestartDone (sl : SliceIx) (s : State) : Host.Outcome State Fault Refusal :=
  .next { s with path := { s.path with restart := s.path.restart.filter (· != sl.val) } }

/-! ### On-chip arrays (Table 10.2) -/

/-- The requests that wait for an exchange on a line wait for the line again: they are served from the state that the line's next exchange leaves (Table 10.2). An
eviction of the line for another request's way is none of them. (DEDUCED, unsafe, log entry 36) -/
def State.requeue (s : State) (line : Nat) : State :=
  (s.dir.exchs.filter (fun x => x.line == line)).foldl (fun (s : State) x => match x.why with
    | .txn id => (match s.path.txns.find? (fun t => t.req.id == id) with
      | some t => s.setTxn { t with phase := .queued, granted := false, data := none }
      | none => s)
    | _ => s) s

/-- The event code of a safe directory entry's loss, and the entry itself. (DEDUCED, unsafe, log entry 36) -/
def State.dirUe (s : State) (slice set way : Nat) (tagGood : Bool) : State :=
  match Tbl.look s.dir.ways (dirKey slice set way) with
  | none => s
  | some e =>
    let k := dirKey slice set way
    if tagGood then
      let hs := (List.range 16).filter (fun h => (s.mapper h (unitOfPage (pageOf e.line))).isSome && s.snoopable h e.line)
      let v : BitVec 16 := hs.foldl (fun v h => v ||| headBit h) 0
      let evict := (s.dir.exchs.find? (fun x => x.line == e.line && x.why matches .evict ..)).map Exch.why
      let why := evict.getD (s.againWhy e.line)
      let s := s.requeue e.line
      let s := { s with dir := { s.dir with exchs := s.dir.exchs.filter (fun x => x.line != e.line) } }
      let e' : DirEntry := { e with st := .s, sharers := v, named := 0, evicting := evict.isSome }
      if hs = [] then (s.delWay k).endExch { line := e.line, why := why, waits := [] } []
      else (s.putWay k e').openExch e.line why hs .inv
    else
      let s := (s.delWay k).raise 0x0602 slice set
      (s.lds.filter (fun (d : Nat × Ld) => d.2.exts.any (fun x => s.isDb (x.unit * 65536)))).foldl (fun (s : State) (d : Nat × Ld) => if d.2.viralOn then s.emit (.viral d.1) else s) s

/-- An uncorrectable byte in the cached accession entry of a page: a clean entry is read again; a dirty one makes the page unreadable (R128). Whether a changed
entry has been written back yet the spec leaves to the cache, so it is a free value. (DEDUCED, unsafe, log entry 36) -/
def State.accUe (s : State) (p : Nat) : State :=
  let s := s.stn (homeSlice p) 8
  if s.place.accDirty.contains p && s.freeNow.getLsbD 0 then
    let s := match s.slotOf p with | some (k, _) => s.abortMove k | none => s
    ((s.setForm p .unreadable).raise 0x0301 p).advanceFree
  else s.advanceFree

/-- An uncorrectable byte in the counter cache: a clean block is read again and verified; a dirty one is lost (R201). -/
def State.ctrUe (s : State) (space : Bool) (level node : Nat) : State :=
  match Tbl.look s.sec.cache (ctrKey space level node) with
  | none => s
  | some b =>
    let s := s.uncache space level node
    if b.dirty then s.recordLoss space (level + 1) (node * 64 ^ level * 8) else s

/-- A root block is lost: every page beneath it (Table 7.9). -/
def State.rootUe (s : State) (r : Nat) : State :=
  (s.wrBit Reg.SEC_ROOT_LOST_LOST r true).recordLoss true 5 (r * 134217728)

/-- Both keys of a slot are lost: every region bound to it is LOST (Table 10.2). -/
def State.keyUe (s : State) (k : Nat) : State :=
  (s.boundTo k).foldl (fun (s : State) (e : Nat × Region) => s.updRegion e.1 (fun r => { r with lost := true })) s

/-- A footfall word becomes 0 with the current stamp (Table 10.2, R134). -/
def State.footUe (s : State) (p : Nat) : State :=
  let s := { s with place := { s.place with foot := Tbl.del s.place.foot p } }
  ((s.stn (homeSlice p) 8).setAcc p { s.acc p with fstamp := s.place.epoch % 15 }).raise 0x0308 p

/-- The effect of an uncorrectable byte by array (Table 10.2); a corrected one is counted (R250), at the slice whose array it is. (DEDUCED, unsafe, log entry 36) -/
def State.sramUe (s : State) (x : SramArray) : State :=
  match x with
  | .corrected sl => match sl with
    | some k => (s.cnt 0x010C .dev).stn k 7
    | none => s.cnt 0x010C .dev
  | .sliceState sl => s.restartSlice sl
  | .wcbData sl line =>
    { (s.stn sl 8) with path := { s.path with wcb := s.path.wcb.map (fun (w : WcbLine) =>
      if w.line = line ∧ sliceOfLine line = sl.val then { w with poison := true } else w) } }
  | .accession p => s.accUe p
  | .footfall p => s.footUe p
  | .counterCache sp l n => s.ctrUe sp l n
  | .directory sl set way good => (s.stn sl 8).dirUe sl set way good
  | .keyStore k => s.keyUe k
  | .rootBlock r => s.rootUe r
  | .remapTable .. => s
  | .docent p => s.pairFail p 0

/-- SRAM_UE (R250). -/
def execSramUe (x : SramArray) (s : State) : Host.Outcome State Fault Refusal := .next (if s.boot.released && !s.isSafe then s.sramUe x else s)

/-! ### Lost channels (R260) -/

/-- A form names a channel. -/
def onChan (c : Nat) (f : PageForm) : Bool := formChan f == some c

/-- A read that was sent to a lost channel: a host's request, or the requests that wait for a decode, are discarded; other work finds nothing. (DEDUCED, safe, log entry 35) -/
def State.lostDram (s : State) (code : Nat) (r : DramRd) : State :=
  match r.why with
  | .txn id _ => match s.txn? id with
    | some t => s.discard t code false
    | none => s
  | .engine e k =>
    let s := s.discardDecode e code
    match Tbl.look s.press.engines e with
    | some (.read ..) => s.freeEngine e
    | _ => s.sherdBack e k { data := 0, poison := true }
  | .mline k n pass => s.metaBack k n pass { data := 0, poison := true }
  | .rake n p i => (s.passMark r 2).rakeBack n p i { data := 0, poison := true }
  | _ => s

/-- The metadata that lay on a lost channel: entries on its accession lines are unreadable from now on (R128), and its footfall words restart at 0. (DEDUCED, safe, log entry 35) -/
def State.lostMeta (s : State) : State :=
  { s with place := { s.place with acc := s.place.acc.filter (fun (e : Nat × Acc) => !s.metaLost (e.1 / 8)),
                                   foot := s.place.foot.filter (fun (e : Nat × Nat) => !s.metaLost (e.1 / 32)) } }

/-- A channel that is in use is lost (R260): `code` is 1h, or 2h with its die-to-die link. (DEDUCED, safe, log entry 35) -/
def State.loseChannel (s : State) (c code : Nat) : State :=
  if !s.chLive c then s
  else
    let s := s.setFlag (Reg.DMC_FAULT_LOST c) true
    let s := s.raiseCh c 7 (s.word (0x1002010 + 0x80000 * c)).toNat
    let rs := (s.ch c).flying ++ (s.ch c).rq ++ (s.ch c).issued
    let s := s.updCh c (fun d => { d with flying := [], rq := [], wq := [], issued := [], remap := [], inject := [], unread := [] })
    let s := { s with place := { s.place with
      chans := Tbl.del s.place.chans c,
      used := s.place.used.filter (fun (e : Nat × Nat) => e.1 / 2 ^ 28 != c),
      allocSet := s.place.allocSet.map (fun (e : Nat × List Nat) => (e.1, e.2.filter (· != c))) } }
    let s := rs.foldl (State.lostDram · code ·) s
    let s := s.place.slots.foldl (fun (s : State) (e : Nat × MoveSlot) =>
      if onChan c e.2.src.form || e.2.dst.any (onChan c) || s.metaLost (e.2.page / 8) then s.abortMove e.1 else s) s
    let ps := (s.place.acc.filter (fun (e : Nat × Acc) => onChan c e.2.form)).map Prod.fst
    let s := (ps.foldl State.lostPage s).lostMeta
    let s : State := { s with qos := { s.qos with gDirty := true } }
    (s.wr Reg.CUR_POOL_SIZE_UNITS s.poolSize).pressure

/-- More than 64 lines have read uncorrectable within 1 ms (R260). (DEDUCED, unsafe, log entry 34) -/
def State.ueRate (s : State) (c : Nat) : Bool :=
  decide (64 < ((s.ch c).ueTicks.filter (fun t => decide (s.tick < t + s.ms))).length)

/-- CHANNEL_LOST (R260): CAUSE 0 PHY lock, 1 PMIC, 2 ALERT_n persistent, 3 uncorrectable rate. The last two are admitted when the channel's counts show them. (DEDUCED, unsafe, log entry 34) -/
def State.chanLost (s : State) (c cause : Nat) : State :=
  if !s.chLive c || (cause == 2 && decide ((s.ch c).repeats < 4)) || (cause == 3 && !s.ueRate c) then s
  else (s.wr (Reg.DMC_FAULT_CAUSE c) cause).loseChannel c 1

/-- CHANNEL_LOST (R260). -/
def execChannelLost (c : Chan) (cause : Fin 4) (s : State) : Host.Outcome State Fault Refusal := .next (s.chanLost c cause)

/-- A die-to-die link is lost, and with it the four channels of its die (R260, R14). (DEDUCED, safe, log entry 35) -/
def State.linkLost (s : State) (die : Nat) : State :=
  if !s.boot.released then s
  else
    let s := s.wr Reg.GLB_CLK_STATUS_MPHY_LINK_UP (setBit (s.rd Reg.GLB_CLK_STATUS_MPHY_LINK_UP) die false)
    (List.range 4).foldl (fun (s : State) (k : Nat) =>
      (s.setFlag (Reg.DMC_FAULT_LINK_LOST (4 * die + k)) true).loseChannel (4 * die + k) 2) s

/-- D2D_LINK_LOST (R260). -/
def execD2dLinkLost (die : Fin 4) (s : State) : Host.Outcome State Fault Refusal := .next (s.linkLost die)

/-- ALERT_n reports a parity or CRC error (R260): the DMC repeats the DRAM commands concerned, and the error after four repeats loses the channel. (DEDUCED, unsafe, log entry 34) -/
def State.alertReport (s : State) (c : Nat) : State :=
  if !s.chLive c then s
  else if (s.ch c).repeats < 4 then s.updCh c (fun d => { d with repeats := d.repeats + 1 })
  else s.chanLost c 2

/-- DRAM_ALERT_N_REPORT (R260). -/
def execDramAlertNReport (c : Chan) (parity : Bool) (s : State) : Host.Outcome State Fault Refusal :=
  let _ := parity
  .next (s.alertReport c)

end Sys2Proof.Machine
end

