-- ==== Sys2Proof/Machine/Rake.lean ====
section
/-! DEFINITION. The rake: range passes and the patrol (R256 to R258). A pass and the patrol read each page with the same line code, SEC and
Press stages as a host read: RANGE_PASS_PAGE asks for the lines of a page, and ends its visit once they are back. -/
namespace Sys2Proof.Machine

/-- The patrol's own number; range passes have 1 to 4. -/
def patrolId : Nat := 0

/-- Takes a pass away. -/
def State.dropPass (s : State) (n : Nat) : State := s.endPasses (fun (y : RangePass) => y.id == n)

/-- A failing line of the page a pass visits, in the space the command named (R257). -/
def RangePass.fail (x : RangePass) (i : Nat) : RangePass :=
  let a := x.next * 4096 + i * 64
  { x with firstFail := some (x.firstFail.getD a), lastFail := some a }

/-! ### The visit of a page -/

/-- The guard, the counter block and the tags of n lines of a page as they are now. -/
def State.pageSeal (s : State) (p n : Nat) : Option Seal :=
  match s.guard p with
  | none => none
  | some g => (s.ctrOf g).map (fun b => { g := g, blk := b, tags := (List.range n).map (s.lineTag g) })

/-- The lines of a page and its tags are asked for, in tier 3 (R211, R256); its counter block is at hand. -/
def State.rakeAsk (s : State) (x : RangePass) (p : Nat) (f : PageForm) (engine : Option Nat) : State :=
  let s := s.checkPageTags p
  let s := match s.guard p with
    | some g => s.metaReads (g.tagItems (formSize f)) { pass := some x.id }
    | none => s
  let version := match s.slotOf p with | some m => m.2.src.version | none => (s.acc p).version
  let cur : RakePage := { page := p, form := f, version := version, sealed? := s.pageSeal p (formSize f), engine := engine }
  let s := s.updPass x.id (fun y => { y with cur := some cur })
  match f with
  | .hot c fr _ => (List.range 64).foldl (fun s i => s.sendRead c (fr * 64 + i) (.rake x.id p i) 3 none none) s
  | .cold c sh n => (List.range (8 * n)).foldl (fun s i => s.sendRead c (sh * 8 + i) (.rake x.id p i) 3 none none) s
  | _ => s

/-- The 64 lines of a HOT page are back: each is checked by SEC as a host read would be (R186, R257). -/
def State.rakeHot (s : State) (x : RangePass) (k : RakePage) : State × RangePass :=
  (List.range 64).foldl (fun (acc : State × RangePass) i =>
    let (s, x) := acc
    let y := Tbl.lookD k.got {} i
    let mark := Tbl.lookD k.marks 0 i
    let x := { x with lines := x.lines + 1 }
    if mark = 2 then (s, x.fail i)
    else if y.poison then (s, { x with poison := x.poison + 1 })
    else
      let x := if mark = 1 then x.fail i else x
      match k.sealed? with
      | none => (s, x)
      | some sl =>
        if s.lineLost k.page i || (openSealed { sl with tags := [(sl.tags[i]?).getD 0] } k.page i y).isSome then (s, x)
        else (s.tagFail (k.page * 64 + i) (s.clsOf k.page) false, { x with tagFails := x.tagFails + 1 }.fail i)) (s, x)

/-- The sherds of a COLD page are back: the image is opened and decoded on its engine as for a host read, and reads that have joined the decode are served from it (R156, R157,
R170, R171). A failing sherd line has the page's first line as its
address, and a decode fault the lines of its strand. (DEDUCED, unsafe, log entry 70) -/
def State.rakeCold (s : State) (x : RangePass) (k : RakePage) (e n : Nat) : State × RangePass :=
  let p := k.page
  let raw := (List.range (8 * n)).map (fun i => Tbl.lookD k.got {} i)
  let marked (m : Nat) (i : Nat) : Bool := Tbl.lookD k.marks 0 i == m
  let stored := ((raw.zipIdx).filter (fun (y : Line × Nat) => y.1.poison && !marked 2 y.2)).length
  let fails := (raw.zipIdx).any (fun (y : Line × Nat) => marked 2 y.2 || (marked 1 y.2 && !y.1.poison))
  let bad := match k.sealed? with
    | some sl => ((raw.zipIdx).filter (fun (y : Line × Nat) => (openSherdSealed sl p y.2 y.1).isNone)).length
    | none => 0
  let x := { x with lines := x.lines + 8 * n, poison := x.poison + stored, tagFails := x.tagFails + bad }
  let x := if fails || bad != 0 then x.fail 0 else x
  let s := s.freeEngine e
  match s.decodePage p k.version k.form k.sealed? raw with
  | (.poisoned, s) => (s.serveDecoded p (fun _ => { data := 0, poison := true }), x)
  | (.page lines, s) => ((s.decoded e).serveDecoded p (fun i => (lines[i]?).getD {}), x)
  | (.fault code strand, s) =>
    let s := (((s.decodeFault e p code strand).raise 0x0403 p (strand + code * 16)).serveDecoded p (fun _ => { data := 0, poison := true })).wantThaw p
    (s, ({ x with decFaults := x.decFaults + 1 }.fail (8 * strand)).fail (8 * strand + 7))

/-- The visit of a page ends. -/
def State.rakeClose (s : State) (x : RangePass) (k : RakePage) : State × RangePass :=
  match k.form, k.engine with
  | .cold _ _ n, some e => s.rakeCold x k e n
  | _, _ => s.rakeHot x k

/-- Every line of the page and its tags are back. -/
def State.rakeReady (s : State) (k : RakePage) : Bool :=
  (List.range (formSize k.form)).all (fun i => (Tbl.look k.got i).isSome) && !s.tagsPending k.page (formSize k.form)

/-! ### What the patrol reads besides -/

/-- The share of page k of the patrol's round in n things that every round reads. -/
def State.patrolShare (s : State) (k n : Nat) : List Nat :=
  let all := max 1 (s.boot.h * 65536)
  (List.range (n * (k + 1) / all - n * k / all)).map (· + n * k / all)

/-- The DMCs read, with page k of the patrol's round, its share of the metadata lines and of the spares in use, directly (R258). How the reads spread over the period the spec leaves
open. (DESIGN CHOICE, safe, log entry 87) -/
def State.patrolDirect (s : State) (k : Nat) : State :=
  let s := s.metaLayout.foldl (fun (s : State) (e : MetaKind × Nat) =>
    (s.patrolShare k e.2).foldl (fun (s : State) n => s.metaRead e.1 (match e.1 with | .treeTag .. => 8 * n | _ => n) { pass := some patrolId }) s) s
  (s.patrolShare k 1024).foldl (fun (s : State) n =>
    let c := n / 64
    let e := n % 64
    if s.chLive c && s.flag (Reg.DMC_REMAP_VALID c e) then s.sendRead c (s.rd (Reg.DMC_REMAP_LINE c e)) .scrub 3 none none else s) s

/-! ### Passes -/

/-- A new round of the patrol starts at the tick it is due. -/
def State.newRound (s : State) : State :=
  let k : RangePass := { id := patrolId, patrol := true, next := 0, last := s.boot.h * 65536 - 1, start := s.tick }
  { s with mgmt := { s.mgmt with passes := s.mgmt.passes ++ [k], patrolDue := false, patrolAt := some s.tick } }

/-- The last page of a pass has been visited: its summary waits for its command, or the patrol has ended a round, and a late round is followed by the next
at once (R258). -/
def State.passEnds (s : State) (x : RangePass) : State :=
  if x.patrol then
    let s := (s.dropPass x.id).inc Reg.TRL_RAKE_STATUS_ROUNDS 1
    if s.mgmt.patrolDue then s.newRound else s
  else s.updPass x.id (fun y => { y with done := true })

/-- A pass goes on after a page with its counts so far. -/
def State.passOn (s : State) (x : RangePass) : State :=
  let s := if x.patrol then s.patrolDirect x.next else s
  let x := { x with next := x.next + 1, cur := none }
  let s := s.updPass x.id (fun y => { x with remaps := y.remaps, ce := y.ce, ue := y.ue })
  if x.last < x.next then s.passEnds x else s

/-- A pass comes to its next page (R256): its home slice admits the reads within the governor's share (R290). Pages without media are skipped, unbacked ones without an admission; a COLD
page waits for a decode of it that runs, and for an engine (R156, R157). -/
def State.rakeOpen (s : State) (x : RangePass) : State :=
  match s.passPage x x.next with
  | none => s.passOn { x with skipped := x.skipped + 1 }
  | some p =>
    if s.pageLocked p || !s.permits .range then s
    else match s.wantCtr p { pass := some x.id } with
    | (s, none) => s
    | (s, some _) => match s.govAdmit (homeSlice p) .range with
      | none => s
      | some t => match t.srcForm p with
        | .hot c fr inc => t.rakeAsk x p (.hot c fr inc) none
        | .cold c sh n => match (if s.decodeRuns p (.cold c sh n) then none else t.pickEngine (homeSlice p)) with
          | some e => (t.takeEngine e (.rake x.id)).rakeAsk x p (.cold c sh n) (some e)
          | none => s
        | _ => t.passOn { x with skipped := x.skipped + 1 }

/-- A step of a pass: the visit of a page begins, or ends once its lines are back. PERIOD_H = 0 stops the patrol. -/
def State.rakeNext (s : State) (n : Nat) : State :=
  match s.pass? n with
  | none => s
  | some x =>
    if x.done || s.isSafe || !s.boot.memActive then s
    else match x.cur with
      | some k =>
        if s.rakeReady k then
          let (s, x) := s.rakeClose x k
          s.passOn x
        else s
      | none => if x.stop || (x.patrol && s.rd Reg.TRL_RAKE_CFG_PERIOD_H == 0) then s else s.rakeOpen x

/-- RANGE_PASS_PAGE (R256). -/
def execRangePassPage (pass : Nat) (s : State) : Host.Outcome State Fault Refusal := .next (s.rakeNext pass)

/-- PERIOD_H hours in ticks of a root clock of multiplier N: N × 12,500 ticks are 1 ms. -/
def State.hours (s : State) (n : Nat) : Nat := n * 3600000 * s.ms

/-- The patrol's period has run: a new round starts, or, while a round runs, LATE is set and the next waits for its end (R258). -/
def State.patrolStart (s : State) : State :=
  let k := s.rd Reg.TRL_RAKE_CFG_PERIOD_H
  let early := match s.mgmt.patrolAt with
    | some t => decide (s.tick < t + s.hours k)
    | none => false
  if k == 0 || early || s.isSafe || !s.boot.memActive || s.boot.h == 0 then s
  else match s.pass? patrolId with
    | none => s.newRound
    | some _ =>
      if s.mgmt.patrolDue then s
      else
        let s := (s.setFlag Reg.TRL_RAKE_STATUS_LATE true).raise 0x0104 (s.rd Reg.TRL_RAKE_STATUS_ROUNDS)
        { s with mgmt := { s.mgmt with patrolDue := true } }

/-- PATROL_ROUND_START (R258). -/
def execPatrolRoundStart (s : State) : Host.Outcome State Fault Refusal := .next s.patrolStart

end Sys2Proof.Machine
end

