-- ==== Sys2Proof/Machine/Gatehouse.lean ====
section
/-! DEFINITION. The Gatehouse (R300 to R316) with the measurement link (R16 to R18) and the calibration chain (R242 to R245). The Gatehouse holds its
own registers, `gth.regs`; the central die's GTH registers mirror them from the frames (R316). Its timers count samples, of which every feed takes one
each microsecond; feed A's sample is the beat of the timers that belong to no feed. -/
namespace Sys2Proof.Machine

/-! ### Registers of the Gatehouse -/

/-- A field of the Gatehouse's own registers. -/
def State.gr (s : State) (f : Reg.Fld) : Nat := bitsOf (Tbl.lookD s.gth.regs 0 f.off) f.lo f.w

/-- Sets a field of the Gatehouse's own registers. -/
def State.gw (s : State) (f : Reg.Fld) (x : Nat) : State :=
  { s with gth := { s.gth with regs := Tbl.put s.gth.regs f.off (setBits (Tbl.lookD s.gth.regs 0 f.off) f.lo f.w x) } }

/-- A field that saturates at its largest value (R315). -/
def State.gwSat (s : State) (f : Reg.Fld) (x : Nat) : State := s.gw f (min x (2 ^ f.w - 1))

/-- The same field of a feed's configuration and status registers: feed B's lie 10h higher. -/
def atFeed (x : Feed) (f : Reg.Fld) : Reg.Fld := match x with | .a => f | .b => { f with off := f.off + 0x10 }

/-- The same field of a feed's measurement registers: feed B's lie 20h higher. -/
def atMeas (x : Feed) (f : Reg.Fld) : Reg.Fld := match x with | .a => f | .b => { f with off := f.off + 0x20 }

/-- The number that names a feed in an event. -/
def feedNo : Feed → Nat
  | .a => 0
  | .b => 1

/-- The other feed. -/
def otherFeed : Feed → Feed
  | .a => .b
  | .b => .a

/-- A feed beside its registers. -/
def State.feed (s : State) (x : Feed) : FeedSt := match x with | .a => s.gth.fa | .b => s.gth.fb

/-- Changes a feed. -/
def State.updFeed (s : State) (x : Feed) (f : FeedSt → FeedSt) : State :=
  match x with
  | .a => { s with gth := { s.gth with fa := f s.gth.fa } }
  | .b => { s with gth := { s.gth with fb := f s.gth.fb } }

/-- STATE of a feed (Table 13.2): 0 OFF, 1 QUALIFY, 2 READY, 3 RAMP, 4 ON, 5 LATCHED. -/
def State.fst (s : State) (x : Feed) : Nat := s.gr (atFeed x Reg.GTH_FEED_A_STATUS_STATE)

/-- The feed is in RAMP or ON. -/
def State.drives (s : State) (x : Feed) : Bool := s.fst x == 3 || s.fst x == 4

/-- A feed enters a state: its times start again. -/
def State.setFst (s : State) (x : Feed) (n : Nat) : State :=
  (s.gw (atFeed x Reg.GTH_FEED_A_STATUS_STATE) n).updFeed x (fun (f : FeedSt) => { f with since := 0, held := 0 })

/-- The effective enable of a feed: the filtered ball AND the software enable (R304). -/
def State.enabled (s : State) (x : Feed) : Bool :=
  s.gr (atFeed x Reg.GTH_FEED_A_STATUS_EN_PIN) == 1
    && s.gr (match x with | .a => Reg.GTH_CTL_A_SW_EN | .b => Reg.GTH_CTL_B_SW_EN) == 1

/-- An event of block 21h reaches the device log while the central die is released and receives frames (R17, R18). (DEDUCED, unsafe, log entry 51) -/
def State.gthRaise (s : State) (code arg0 arg1 : Nat) : State :=
  if s.boot.released && s.flag Reg.GLB_CLK_STATUS_GTH_LINK_UP then s.raise code arg0 arg1 else s

/-- The gate drive of a feed's pair of FETs changes. -/
def State.drive (s : State) (x : Feed) (d : GateDrive) : State := (s.updFeed x (fun (f : FeedSt) => { f with gate := d })).emit (.gate x d)

/-- The rate of rise of a ramp in 0.1 V/ms: RAMP, or SW_RAMP, which is in V/ms, in a make phase (R307, R313). -/
def State.rampRate (s : State) : Nat := if s.gth.making then 10 * s.gr Reg.GTH_OUT_CFG_SW_RAMP else s.gr Reg.GTH_TIMING_RAMP

/-- What the gate drive of a feed does: in RAMP it regulates the rise of the output, in ON it is fully on, and it regulates the shunt voltage to CB while that is at CB or the fault timer
has expired (R307, R308). CB is in units of 100 µV. (DEDUCED, unsafe, log entry 117) -/
def State.gateWants (s : State) (x : Feed) : GateDrive :=
  let cb := 100 * s.gr (atFeed x Reg.GTH_FEED_A_BREAKER_CB)
  if !s.drives x then .off
  else if cb ≤ (s.feed x).vsh || (s.feed x).pull.isSome then .limit cb
  else if s.fst x = 3 then .slew s.rampRate else .full

/-- The gate drive of a feed follows what the feed asks for. -/
def State.regulate (s : State) (x : Feed) : State := if (s.feed x).gate = s.gateWants x then s else s.drive x (s.gateWants x)

/-! ### PG_OUT and the selection -/

/-- PG_OUT changes, with its event (R311). A deassertion restarts qualification. -/
def State.setPg (s : State) (on : Bool) : State :=
  if (s.gr Reg.GTH_STATUS_PG_OUT == 1) == on then s
  else
    let s : State := { s with gth := { s.gth with qualFor := 0 } }
    (s.gw Reg.GTH_STATUS_PG_OUT on.toNat).gthRaise 0x2105 on.toNat 0

/-- The output is in its window. -/
def State.outOk (s : State) : Bool := s.gr Reg.GTH_STATUS_OUT_IN_WINDOW == 1

/-- The conditions of PG qualification (R310): a feed is ON, the output is in its window, and its fault timer is at 0. -/
def State.qualifies (s : State) : Bool :=
  s.outOk && [Feed.a, Feed.b].any (fun x => s.fst x == 4 && (s.feed x).flt == 0 && (s.feed x).pull.isNone)

/-- PG_OUT deasserts when the output has left its window, or when no feed is ON or in RAMP and no switchover runs (R311). A break in qualification restarts it. -/
def State.pgCheck (s : State) : State :=
  let s := if s.qualifies then s else { s with gth := { s.gth with qualFor := 0 } }
  if !s.outOk || !(s.drives .a || s.drives .b || s.gth.switch.isSome) then s.setPg false else s

/-- The preferred feed (R312). -/
def State.preferred (s : State) : Feed := if s.gr Reg.GTH_CTL_PRI = 0 then .a else .b

/-- Shows the selected feed. -/
def State.showSelected (s : State) (x : Option Feed) : State :=
  s.gw Reg.GTH_STATUS_SELECTED (match x with | none => 0 | some .a => 1 | some .b => 2)

/-- A selected feed enters RAMP; `making` says that its rate is SW_RAMP (R307, R313). -/
def State.ramp (s : State) (x : Feed) (making : Bool) : State :=
  let s := (s.setFst x 3).showSelected (some x)
  let s : State := { s with gth := { s.gth with making := making, switch := none } }
  s.drive x (s.gateWants x)

/-- With no feed ON or in RAMP and no switchover in progress, the preferred feed is selected if it is READY, else the other (R312). While a feed's off confirmation has
failed, the other is not turned on (R313). (DEDUCED, unsafe, log entry 51) -/
def State.select (s : State) : State :=
  if s.drives .a || s.drives .b || s.gth.switch.isSome || s.gth.fa.hold || s.gth.fb.hold then s
  else
    let p := s.preferred
    if s.fst p = 2 then s.ramp p false
    else if s.fst (otherFeed p) = 2 then s.ramp (otherFeed p) false
    else s.showSelected none

/-- A switchover begins (R312): X's gate is down, and Y waits for the confirmation. (DEDUCED, unsafe, log entry 51) -/
def State.startSwitch (s : State) (x y : Feed) : State :=
  let s := (s.showSelected (some y)).gw Reg.GTH_STATUS_SWITCHOVERS (min 65535 (s.gr Reg.GTH_STATUS_SWITCHOVERS + 1))
  State.gthRaise { s with gth := { s.gth with switch := some { src := x, dst := y } } } 0x2106 (feedNo x) (feedNo y)

/-- A feed has left RAMP or ON: the other feed, if READY, takes over through a switchover that begins at step 2 (R312, R313). -/
def State.succeed (s : State) : State :=
  match s.gth.left with
  | none => s
  | some x =>
    let s : State := { s with gth := { s.gth with left := none } }
    if s.fst (otherFeed x) = 2 && s.gth.switch.isNone then s.startSwitch x (otherFeed x) else s.showSelected none

/-- The selection and PG_OUT follow what has happened, after everything else of the clock (R301). -/
def State.gthSettle (s : State) : State := s.succeed.select.pgCheck

/-- A feed leaves its state for another. From RAMP or ON its gate is pulled down. A feed that waits to be turned on ends its switchover, once the other is confirmed off (R313). -/
def State.leaveFor (s : State) (x : Feed) (n : Nat) : State :=
  let was := s.drives x
  let s := (s.setFst x n).updFeed x (fun (f : FeedSt) => { f with flt := 0, low := 0, pull := none })
  let s := s.gw (atFeed x Reg.GTH_FEED_A_STATUS_FLT_RUNNING) 0
  if was then State.drive { s with gth := { s.gth with left := some x } } x .off
  else if s.gth.switch.any (fun (w : Switch) => w.dst == x && w.confirmed) && n != 2 then { s with gth := { s.gth with switch := none } }
  else s

/-- A feed is latched (R305): counted, its cause recorded, with its event. -/
def State.latch (s : State) (x : Feed) (cause : Nat) : State :=
  let s := s.leaveFor x 5
  let s := s.gw (atFeed x Reg.GTH_FEED_A_STATUS_TRIPS) (min 65535 (s.gr (atFeed x Reg.GTH_FEED_A_STATUS_TRIPS) + 1))
  (s.gw (atFeed x Reg.GTH_FEED_A_STATUS_TRIP_CAUSE) cause).gthRaise 0x2104 (feedNo x) cause

/-! ### Supply and settings -/

/-- Registers of the Gatehouse (R316). -/
def gthOffsets : List Nat :=
  [0x2100000, 0x2100004, 0x2100008, 0x210000C, 0x2100010, 0x2100014, 0x2100018, 0x210001C, 0x2100020, 0x2100024, 0x2100028, 0x210002C,
   0x2100040, 0x2100044, 0x2100048, 0x2100050, 0x2100054, 0x2100060, 0x2100064, 0x2100068, 0x2100070, 0x2100074, 0x2100100, 0x2100104]

/-- AUX_POWER_LOSS (R314): all Gatehouse state is lost; the pulldowns hold both pairs off. What the central die holds of its own sensors stays. -/
def State.auxLoss (s : State) : State :=
  if !s.gth.aux then s
  else
    let s := [Feed.a, Feed.b].foldl (fun (s : State) x => if s.drives x then s.drive x .off else s) s
    { s with gth := { dieDone := s.gth.dieDone, lastFrame := s.gth.lastFrame, coeff := s.gth.coeff.filter (fun (e : Nat × Int × Int) => decide (48 ≤ e.1)) } }

/-- AUX_POWER_LOSS (R314). -/
def execAuxPowerLoss (s : State) : Host.Outcome State Fault Refusal := .next s.auxLoss

/-- The supply rises: the registers have their reset values, the converters use the coefficients fused at test (R243), and the settings are being read (R314). -/
def State.auxUp (s : State) : State :=
  if s.gth.aux then s
  else State.loadTrims { s with gth := { s.gth with aux := true, regs := [(0x2100000, 3#32), (0x2100100, 0x2625A0#32)] } } 0 6

/-- A value taken to the nearer end of a range (R316). -/
def clampTo (lo hi v : Nat) : Nat := max lo (min hi v)

/-- A field of an image: its default for 0, else the nearer end of its range (R359). -/
def imageField (lo hi dflt v : Nat) : Nat := if v = 0 then dflt else clampTo lo hi v

/-- The ranges and defaults of the fields of a configuration register of the Gatehouse: (lowest bit, width, least, greatest, default). -/
def gthFields (off : Nat) : List (Nat × Nat × Nat × Nat × Nat) :=
  if off = 0x2100004 then [(0, 8, 5, 200, 100), (8, 8, 1, 200, 50), (16, 7, 1, 100, 10), (24, 8, 5, 200, 20)]
  else if off = 0x2100008 then [(0, 10, 300, 580, 380), (10, 10, 420, 720, 620), (20, 4, 1, 10, 10), (24, 7, 2, 100, 10)]
  else if off = 0x2100010 ∨ off = 0x2100020 then [(0, 10, 300, 580, 380), (10, 10, 420, 720, 620)]
  else if off = 0x2100014 ∨ off = 0x2100024 then [(0, 10, 50, 500, 250), (10, 4, 6, 15, 8), (14, 8, 1, 200, 10)]
  else if off = 0x2100018 ∨ off = 0x2100028 then [(0, 16, 100, 65535, 1000)]
  else []

/-- A register that holds a window pair: both limits in bits [19:0]. -/
def isWindowReg (off : Nat) : Bool := off == 0x2100008 || off == 0x2100010 || off == 0x2100020

/-- The window is at least 2.0 V wide (R303), in units of 0.1 V. -/
def wideEnough (v : Word) : Bool := decide (bitsOf v 0 10 + 20 ≤ bitsOf v 10 10)

/-- Fields of a word taken one by one. -/
def mapFields (off : Nat) (f : Nat → Nat → Nat → Nat → Nat) (v : Word) : Word :=
  (gthFields off).foldl (fun (w : Word) (e : Nat × Nat × Nat × Nat × Nat) =>
    setBits w e.1 e.2.1 (f e.2.2.1 e.2.2.2.1 e.2.2.2.2 (bitsOf v e.1 e.2.1))) 0

/-- A configuration register is loaded from the settings at standby power-up: fields of 0 take their defaults, others the nearer end of their range; a window pair that
breaks R303 takes its defaults, with CFG_DEFAULTED (R303, R359). -/
def State.loadGth (s : State) (off img : Nat) : State :=
  let v := mapFields off imageField (BitVec.ofNat 32 img)
  let put (s : State) (v : Word) : State := { s with gth := { s.gth with regs := Tbl.put s.gth.regs off v } }
  if isWindowReg off && !wideEnough v then
    (put s (setBits (setBits v 0 10 380) 10 10 620)).gw Reg.GTH_STATUS_CFG_DEFAULTED 1
  else put s v

/-- Where the settings block holds the image of each configuration register (Table 15.18). -/
def gthImages : List (Nat × Nat) :=
  [(0x2100004, 0x20), (0x2100008, 0x24), (0x2100010, 0x28), (0x2100014, 0x2C), (0x2100018, 0x30), (0x2100020, 0x34), (0x2100024, 0x38), (0x2100028, 0x3C)]

/-- A feed that is enabled enters QUALIFY, with the insertion hold or COOLDOWN (Table 13.2). -/
def State.toQualify (s : State) (x : Feed) (ins : Bool) : State :=
  (s.leaveFor x 1).updFeed x (fun (f : FeedSt) => { f with insHold := ins })

/-- The settings are loaded (R314): from the highest valid OTP generation, or the defaults; then each enabled feed qualifies with the insertion hold. -/
def State.settingsLoaded (s : State) : State :=
  if !s.gth.aux || s.gth.loaded then s
  else
    let b := match s.bestGen with | some g => s.settingsBlock g | none => []
    let s := gthImages.foldl (fun (s : State) (e : Nat × Nat) => s.loadGth e.1 (setField b e.2 4)) s
    let vref := bitsOf (BitVec.ofNat 32 (setField b 0x14 4)) 0 22
    let s := if vref = 0 then s else s.gw Reg.GTH_VREF_VALUE_VALUE (clampTo 2450000 2550000 vref)
    let fl := setField b 0x18 1
    let s := (s.gw Reg.GTH_CTL_PRI (fl % 2)).gw Reg.GTH_CTL_AUTO_RETURN (1 - fl / 2 % 2)
    let s := s.gw Reg.GTH_STATUS_SETTINGS_OTP s.bestGen.isSome.toNat
    let s := { s with gth := { s.gth with loaded := true } }
    [Feed.a, Feed.b].foldl (fun (s : State) x => if s.enabled x then s.toQualify x true else s) s

/-- GTH_SETTINGS_LOADED (R314). -/
def execGthSettingsLoaded (s : State) : Host.Outcome State Fault Refusal := .next s.settingsLoaded

/-! ### Windows -/

/-- What ten samples say of a window: `runs` are the samples outside and inside by 0.5 V, `was` whether it holds now. -/
def windowNow (outRun inRun : Nat) (was : Bool) : Bool := if was then decide (outRun < 10) else decide (10 ≤ inRun)

/-- A sample lies outside the window, with limits in 0.1 V (R302). -/
def outside (v uv ov : Nat) : Bool := decide (v ≤ uv * 100 ∨ ov * 100 ≤ v)

/-- A sample lies inside the window and 0.5 V clear of both limits. (DEDUCED, unsafe, log entry 51) -/
def clearInside (v uv ov : Nat) : Bool := decide (uv * 100 + 500 ≤ v ∧ v + 500 ≤ ov * 100)

/-- A feed crosses a limit of its window (R302, Table 13.2): the limit's SEEN bit and the event; a loss in READY, RAMP or ON returns the feed to QUALIFY, and the hold starts again at an entry.
A feed whose fault timer has expired goes to LATCHED 5 µs later all the same (R308). (DEDUCED, unsafe, log entry 117) -/
def State.crossed (s : State) (x : Feed) (entry : Bool) : State :=
  let ovSide := (s.feed x).ovSide
  let s := s.gw (atFeed x Reg.GTH_FEED_A_STATUS_IN_WINDOW) entry.toNat
  let s := s.gw (atFeed x (if ovSide then Reg.GTH_FEED_A_STATUS_OV_SEEN else Reg.GTH_FEED_A_STATUS_UV_SEEN)) 1
  let s := s.gthRaise 0x2103 (feedNo x) (ovSide.toNat + 2 * entry.toNat)
  if entry then s.updFeed x (fun (f : FeedSt) => { f with held := 0 })
  else if s.fst x = 2 ∨ (s.drives x ∧ (s.feed x).pull.isNone) then s.toQualify x false
  else s.updFeed x (fun (f : FeedSt) => { f with held := 0 })

/-- The window filter of a feed takes a sample. -/
def State.feedWindow (s : State) (x : Feed) (v : Nat) : State :=
  let uv := s.gr (atFeed x Reg.GTH_FEED_A_CFG_UV)
  let ov := s.gr (atFeed x Reg.GTH_FEED_A_CFG_OV)
  let was := s.gr (atFeed x Reg.GTH_FEED_A_STATUS_IN_WINDOW) == 1
  let s := s.updFeed x (fun (f : FeedSt) => { f with
    outRun := if outside v uv ov then f.outRun + 1 else 0,
    inRun := if clearInside v uv ov then f.inRun + 1 else 0,
    ovSide := if outside v uv ov then decide (ov * 100 ≤ v) else f.ovSide })
  let now := windowNow (s.feed x).outRun (s.feed x).inRun was
  if now = was then s else s.crossed x now

/-- The window filter of the output takes a sample. (DEDUCED, unsafe, log entry 51) -/
def State.outWindow (s : State) (v : Nat) : State :=
  let uv := s.gr Reg.GTH_OUT_CFG_OUT_UV
  let ov := s.gr Reg.GTH_OUT_CFG_OUT_OV
  let g := s.gth
  let ovSide := if outside v uv ov then decide (ov * 100 ≤ v) else g.outOver
  let s : State := { s with gth := { g with
    vout := v, outOver := ovSide,
    outOut := if outside v uv ov then g.outOut + 1 else 0,
    outIn := if clearInside v uv ov then g.outIn + 1 else 0 } }
  let was := s.outOk
  let now := windowNow s.gth.outOut s.gth.outIn was
  if now = was then s
  else (s.gw Reg.GTH_STATUS_OUT_IN_WINDOW now.toNat).gthRaise 0x2103 2 (ovSide.toNat + 2 * now.toNat)

/-! ### Samples -/

/-- Measurement of a sample (R315): sums for the frame, and energy in pJ, 10⁹ to the mJ, which stops at its largest value. (DESIGN CHOICE, unsafe, log entry 52) -/
def State.measure (s : State) (x : Feed) (r : FeedReading) : State :=
  let sh := min 50000 r.vsh
  let e := r.vx * sh * 1000 / max 1 (s.gr (atFeed x Reg.GTH_FEED_A_SHUNT_RSHUNT))
  s.updFeed x (fun (f : FeedSt) => { f with
    vx := r.vx, vsh := r.vsh, sumV := f.sumV + r.vx, sumI := f.sumI + sh, sumP := f.sumP + r.vx * sh, samples := f.samples + 1,
    energyPj := min (f.energyPj + e) ((2 ^ 64 - 1) * 10 ^ 9) })

/-- The circuit breaker takes a sample (R308): at CB or more the fault timer runs; the time below 0.9 × CB is noted. CB is in units of 100 µV. (DEDUCED, unsafe, log entry 51) -/
def State.breaker (s : State) (x : Feed) (vsh : Nat) : State :=
  if !s.drives x then s
  else
    let cb := s.gr (atFeed x Reg.GTH_FEED_A_BREAKER_CB)
    let s := s.updFeed x (fun (f : FeedSt) => { f with
      flt := if cb * 100 ≤ vsh then f.flt + 1 else f.flt,
      low := if vsh < cb * 90 then f.low + 1 else 0,
      pull := f.pull.map (· + 1) })
    s.gw (atFeed x Reg.GTH_FEED_A_STATUS_FLT_RUNNING) (decide (0 < (s.feed x).flt)).toNat

/-- A microsecond passes for a feed's state and hold. (DESIGN CHOICE, unsafe, log entry 50) -/
def State.feedTime (s : State) (x : Feed) : State :=
  let inW := s.gr (atFeed x Reg.GTH_FEED_A_STATUS_IN_WINDOW) == 1
  s.updFeed x (fun (f : FeedSt) => { f with since := f.since + 1, held := if inW then f.held + 1 else 0 })

/-- A microsecond passes for PG qualification and the switchover. (DESIGN CHOICE, unsafe, log entry 50) -/
def State.commonTime (s : State) : State :=
  { s with gth := { s.gth with
    qualFor := if s.qualifies then s.gth.qualFor + 1 else 0,
    switch := s.gth.switch.map (fun (w : Switch) => { w with age := w.age + 1 }) } }

/-- A ramp ends when the output comes within 1.0 V of the feed (Table 13.2). -/
def State.rampDone (s : State) (x : Feed) (r : FeedReading) : State :=
  if s.fst x = 3 ∧ r.vx ≤ r.vout + 1000 then
    let s := s.setFst x 4
    { s with gth := { s.gth with making := false } }
  else s

/-- The converter that carries a feed quantity: 0 and 2 the voltages of feeds A and B, 1 and 3 their shunt voltages. -/
def Gth.carrier (g : Gth) (q : Nat) : Nat := Tbl.lookD g.carry q q

/-- A sample of a feed as its converters give it, corrected at the Gatehouse's temperature (R242, R245). The output is judged by comparators. -/
def State.calibrated (s : State) (x : Feed) (r : FeedReading) : FeedReading :=
  let q := 2 * feedNo x
  { r with vx := (s.gth.correct (s.gth.carrier q) s.gth.temp 0 r.vx).toNat, vsh := (s.gth.correct (s.gth.carrier (q + 1)) s.gth.temp 0 r.vsh).toNat }

/-- A sample of a feed (R302, R305, R308, R310, R315). (DESIGN CHOICE, unsafe, log entry 50) -/
def State.feedSample (s : State) (x : Feed) (r : FeedReading) : State :=
  if !s.gth.aux then s
  else
    let r := s.calibrated x r
    let s := s.measure x r
    if !s.gth.loaded then s
    else
      let s := (s.breaker x r.vsh).feedTime x
      let s := match x with | .a => s.commonTime.outWindow r.vout | .b => s
      (((s.feedWindow x r.vx).rampDone x r).regulate x).gthSettle

/-- FEED_SAMPLE (R302). -/
def execFeedSample (x : Feed) (r : FeedReading) (s : State) : Host.Outcome State Fault Refusal := .next (s.feedSample x r)

/-! ### Enables, holds and trips -/

/-- A feed follows its effective enable (R304, Table 13.2). -/
def State.followEnable (s : State) (x : Feed) : State :=
  if !s.gth.loaded then s
  else if s.enabled x then (if s.fst x = 0 then s.toQualify x false else s)
  else if s.fst x = 0 then s
  else (s.leaveFor x 0).updFeed x (fun (f : FeedSt) => { f with hold := false })

/-- FEED_ENABLE_CHANGE (R304): the filtered level of the ball changes. -/
def State.enableChange (s : State) (x : Feed) (pin : Bool) : State :=
  if !s.gth.aux then s
  else ((s.gw (atFeed x Reg.GTH_FEED_A_STATUS_EN_PIN) pin.toNat).followEnable x).gthSettle

/-- FEED_ENABLE_CHANGE (R304). -/
def execFeedEnableChange (x : Feed) (pin : Bool) (s : State) : Host.Outcome State Fault Refusal := .next (s.enableChange x pin)

/-- The hold length of a feed in µs: INS_EFF = max(INS_DELAY, COOLDOWN) or COOLDOWN, in units of 10 ms (R306). -/
def State.holdLength (s : State) (x : Feed) : Nat :=
  let cool := s.gr Reg.GTH_TIMING_COOLDOWN
  10000 * (if (s.feed x).insHold then max (s.gr Reg.GTH_TIMING_INS_DELAY) cool else cool)

/-- The window has held for the hold length: the feed is READY and may be selected (R305, R312). -/
def State.holdExpiry (s : State) (x : Feed) : State :=
  if s.fst x = 1 ∧ s.gr (atFeed x Reg.GTH_FEED_A_STATUS_IN_WINDOW) = 1 ∧ s.holdLength x ≤ (s.feed x).held then
    ((s.setFst x 2).updFeed x (fun (f : FeedSt) => { f with insHold := false })).gthSettle
  else s

/-- QUALIFY_HOLD_EXPIRY (R305). -/
def execQualifyHoldExpiry (x : Feed) (s : State) : Host.Outcome State Fault Refusal := .next (s.holdExpiry x)

/-- The ramp has taken more than 2 × V_x / rate + 10 ms. -/
def State.rampLate (s : State) (x : Feed) : Bool :=
  let t := (s.feed x).since
  let rate := s.rampRate
  decide (10000 * rate + 20 * (s.feed x).vx < t * rate)

/-- RAMP_TIMEOUT (R305). -/
def State.rampTimeout (s : State) (x : Feed) : State := if s.fst x = 3 ∧ s.rampLate x then (s.latch x 3).gthSettle else s

/-- RAMP_TIMEOUT (R305). -/
def execRampTimeout (x : Feed) (s : State) : Host.Outcome State Fault Refusal := .next (s.rampTimeout x)

/-- The fault timer reaches FLT_TIME, in 0.1 ms: PG_OUT deasserts, and the gate is pulled down 5 µs later, the current
regulated at CB until then (R308). -/
def State.faultExpiry (s : State) (x : Feed) : State :=
  if s.drives x ∧ (s.feed x).pull.isNone ∧ 100 * s.gr (atFeed x Reg.GTH_FEED_A_BREAKER_FLT_TIME) ≤ (s.feed x).flt then
    ((s.updFeed x (fun (f : FeedSt) => { f with pull := some 0 })).regulate x).setPg false
  else s

/-- FAULT_TIMER_EXPIRY (R308). -/
def execFaultTimerExpiry (x : Feed) (s : State) : Host.Outcome State Fault Refusal := .next (s.faultExpiry x)

/-- The gate is pulled down 5 µs after the expiry, and the feed is LATCHED with cause BREAKER (R308). -/
def State.pulldown (s : State) (x : Feed) : State :=
  if s.drives x ∧ (s.feed x).pull.any (fun n => decide (5 ≤ n)) then (s.latch x 1).gthSettle else s

/-- BREAKER_PULLDOWN (R308). -/
def execBreakerPulldown (x : Feed) (s : State) : Host.Outcome State Fault Refusal := .next (s.pulldown x)

/-- The shunt voltage has stayed below 0.9 × CB for 20 µs: the fault timer clears to 0 (R308). A timer that has expired is not cleared. -/
def State.faultClear (s : State) (x : Feed) : State :=
  if 20 ≤ (s.feed x).low ∧ (s.feed x).pull.isNone then
    (s.updFeed x (fun (f : FeedSt) => { f with flt := 0 })).gw (atFeed x Reg.GTH_FEED_A_STATUS_FLT_RUNNING) 0
  else s

/-- FAULT_TIMER_CLEAR (R308). -/
def execFaultTimerClear (x : Feed) (s : State) : Host.Outcome State Fault Refusal := .next (s.faultClear x)

/-- The shunt voltage that the fast-trip comparator sees, in µV, is at CB × FAST_MULT / 4 or more (R309). -/
def State.fastAt (s : State) (x : Feed) (vsh : Nat) : Bool :=
  decide (100 * s.gr (atFeed x Reg.GTH_FEED_A_BREAKER_CB) * s.gr (atFeed x Reg.GTH_FEED_A_BREAKER_FAST_MULT) ≤ 4 * vsh)

/-- The fast-trip comparator sees its crossing (R309): PG_OUT deasserts and the feed is LATCHED with cause FAST. -/
def State.fastTrip (s : State) (x : Feed) (vsh : Nat) : State :=
  if s.drives x && s.fastAt x vsh then ((s.setPg false).latch x 2).gthSettle else s

/-- FAST_TRIP (R309). -/
def execFastTrip (x : Feed) (vsh : Nat) (s : State) : Host.Outcome State Fault Refusal := .next (s.fastTrip x vsh)

/-- Qualification has run for PG_QUAL, in 0.1 ms: PG_OUT asserts (R310). -/
def State.pgQualified (s : State) : State :=
  if s.gth.loaded ∧ s.qualifies ∧ 100 * s.gr Reg.GTH_TIMING_PG_QUAL ≤ s.gth.qualFor then s.setPg true else s

/-- PG_QUALIFIED (R310). -/
def execPgQualified (s : State) : Host.Outcome State Fault Refusal := .next s.pgQualified

/-! ### Switchover -/

/-- The preferred feed has been READY for 1 s while the other is in use: a switchover back to it starts (R312, R313): the other's gate is pulled down. -/
def State.autoReturn (s : State) : State :=
  let y := s.preferred
  let x := otherFeed y
  if s.gr Reg.GTH_CTL_AUTO_RETURN = 1 ∧ s.fst y = 2 ∧ s.drives x ∧ (s.feed x).pull.isNone ∧ s.gth.switch.isNone ∧ 1000000 ≤ (s.feed y).since then
    (s.toQualify x false).gthSettle
  else s

/-- AUTO_RETURN_TIMER (R312). -/
def execAutoReturnTimer (s : State) : Host.Outcome State Fault Refusal := .next s.autoReturn

/-- Feed X is confirmed off (R313, step 2): its shunt voltage is below 1 % of CB, which is CB in µV, and its gate within 1 V of its source, in mV. The gap starts, unless Y has left READY. -/
def State.offConfirm (s : State) (gate : Nat) : State :=
  match s.gth.switch with
  | none => s
  | some w =>
    if !w.confirmed && decide ((s.feed w.src).vsh < s.gr (atFeed w.src Reg.GTH_FEED_A_BREAKER_CB)) && decide (gate ≤ 1000) then
      if s.fst w.dst = 2 then { s with gth := { s.gth with switch := some { w with confirmed := true, age := 0 } } }
      else State.gthSettle { s with gth := { s.gth with switch := none } }
    else s

/-- OFF_CONFIRM (R313). -/
def execOffConfirm (gate : Nat) (s : State) : Host.Outcome State Fault Refusal := .next (s.offConfirm gate)

/-- Feed X is not confirmed off by t0 + 100 µs: it is LATCHED with cause OFF_FAIL and its pull-down held; Y is not turned on (R313, step 3). -/
def State.offTimeout (s : State) : State :=
  match s.gth.switch with
  | none => s
  | some w =>
    if !w.confirmed && decide (100 ≤ w.age) then
      let s : State := { s with gth := { s.gth with switch := none } }
      (((s.showSelected none).latch w.src 4).updFeed w.src (fun (f : FeedSt) => { f with hold := true })).gthSettle
    else s

/-- OFF_CONFIRM_TIMEOUT (R313). -/
def execOffConfirmTimeout (s : State) : Host.Outcome State Fault Refusal := .next s.offTimeout

/-- The gap has ended: Y enters RAMP at SW_RAMP (R313, step 4). -/
def State.gapExpiry (s : State) : State :=
  match s.gth.switch with
  | none => s
  | some w =>
    if w.confirmed && decide (s.gr Reg.GTH_OUT_CFG_BBM_GAP ≤ w.age) && s.fst w.dst == 2 then (s.ramp w.dst true).gthSettle else s

/-- BBM_GAP_EXPIRY (R313). -/
def execBbmGapExpiry (s : State) : Host.Outcome State Fault Refusal := .next s.gapExpiry

/-! ### Writes -/

/-- A clear of a feed (R304): a latched one enters QUALIFY with COOLDOWN; another is unaffected. -/
def State.clearFeed (s : State) (x : Feed) : State :=
  if s.fst x = 5 then
    (if s.enabled x then s.toQualify x false else s.leaveFor x 0).updFeed x (fun (f : FeedSt) => { f with hold := false })
  else s

/-- GTH_CTL_CLEAR (R304): another feed's selection follows. -/
def execGthCtlClear (x : Feed) (s : State) : Host.Outcome State Fault Refusal := .next (if s.fst x = 5 then (s.clearFeed x).gthSettle else s)

/-- A feed's energy is zeroed (R315). -/
def State.clearEnergy (s : State) (x : Feed) : State :=
  if !s.gth.aux then s
  else (s.updFeed x (fun (f : FeedSt) => { f with energyPj := 0 })).gw (atMeas x Reg.GTH_FEED_A_ENERGY_MJ) 0

/-- GTH_CTL_CLR_ENERGY (R315). -/
def execGthCtlClrEnergy (x : Feed) (s : State) : Host.Outcome State Fault Refusal := .next (s.clearEnergy x)

/-- GTH_CTL.LOCK is set (R316). -/
def State.gthLocked (s : State) : Bool := s.gr Reg.GTH_CTL_LOCK == 1

/-- A write of GTH_CTL takes effect: the clears, then the enables, then the selection (R301). -/
def State.writeCtl (s : State) (v : Word) : State :=
  let s := if v.getLsbD 4 then s.clearFeed .a else s
  let s := if v.getLsbD 5 then s.clearFeed .b else s
  let s := if v.getLsbD 6 then s.clearEnergy .a else s
  let s := if v.getLsbD 7 then s.clearEnergy .b else s
  let s := (s.gw Reg.GTH_CTL_A_SW_EN (bitsOf v 0 1)).gw Reg.GTH_CTL_B_SW_EN (bitsOf v 1 1)
  let s := if s.gthLocked then s
    else ((s.gw Reg.GTH_CTL_PRI (bitsOf v 2 1)).gw Reg.GTH_CTL_AUTO_RETURN (bitsOf v 3 1)).gw Reg.GTH_CTL_LOCK (bitsOf v 31 1)
  ((s.followEnable .a).followEnable .b).gthSettle

/-- A write of a configuration register: each field takes the nearer end of its range, and a write that would break R303 is ignored as a whole (R303, R316). -/
def State.writeCfg (s : State) (off : Nat) (v : Word) : State :=
  let w := mapFields off (fun lo hi _ x => clampTo lo hi x) v
  if s.gthLocked || (isWindowReg off && !wideEnough w) then s
  else { s with gth := { s.gth with regs := Tbl.put s.gth.regs off w } }

/-- Writing 1 clears these bits of a status register. -/
def State.writeClear (s : State) (off : Nat) (m : Word) : State :=
  { s with gth := { s.gth with regs := Tbl.put s.gth.regs off (Tbl.lookD s.gth.regs 0 off &&& ~~~m) } }

/-- The bits of a word that a write clears, with fields that any 1 clears whole in bits [31:16]. -/
def clearMask (bits : Word) (v : Word) : Word := (v &&& bits) ||| (if bitsOf v 16 16 = 0 then 0 else 0xFFFF0000#32)

/-- A forwarded write takes effect in the Gatehouse (R316). -/
def State.gthWrite (s : State) (off : Nat) (v : Word) : State :=
  if off = 0x2100000 then s.writeCtl v
  else if off = 0x210000C then s.writeClear off (clearMask 0 v)
  else if off = 0x210001C ∨ off = 0x210002C then s.writeClear off (clearMask 0x600#32 v)
  else if off = 0x2100104 then s.writeClear off (v &&& 8#32)
  else if off = 0x2100100 then
    if s.gr Reg.GTH_VREF_VALUE_LOCK = 1 then s
    else
      let x := bitsOf v 0 22
      let s := if 2450000 ≤ x ∧ x ≤ 2550000 then s.gw Reg.GTH_VREF_VALUE_VALUE x else s
      s.gw Reg.GTH_VREF_VALUE_LOCK (bitsOf v 31 1)
  else if gthFields off = [] then s
  else s.writeCfg off v

/-- GTH_CONFIG_APPLY (R316): the oldest forwarded write takes effect. -/
def State.configApply (s : State) : State :=
  match s.gth.writes with
  | [] => s
  | (off, v) :: rest =>
    let s : State := { s with gth := { s.gth with writes := rest } }
    if s.gth.aux && s.gth.loaded then s.gthWrite off v else s

/-- GTH_CONFIG_APPLY (R316). -/
def execGthConfigApply (s : State) : Host.Outcome State Fault Refusal := .next s.configApply

/-- A write of a GTH register by the central die is forwarded, or discarded while the link is down (R316). (DEDUCED, unsafe, log entry 20) -/
def State.gthForward (s : State) (off : Nat) (v : Word) : State :=
  if s.flag Reg.GLB_CLK_STATUS_GTH_LINK_UP then { s with gth := { s.gth with writes := s.gth.writes ++ [(off, v)] } } else s

/-! ### The link -/

/-- The measurement registers of a feed at the end of a frame (R315): the means of its samples and the energy. (DESIGN CHOICE, unsafe, log entry 52) -/
def State.frameFeed (s : State) (x : Feed) : State :=
  let f := s.feed x
  let n := max 1 f.samples
  let r := max 1 (s.gr (atFeed x Reg.GTH_FEED_A_SHUNT_RSHUNT))
  let s := s.gwSat (atMeas x Reg.GTH_FEED_A_VOLT_MV) (f.sumV / n)
  let s := s.gwSat (atMeas x Reg.GTH_FEED_A_CURR_MA) (f.sumI * 1000 / (n * r))
  let s := s.gwSat (atMeas x Reg.GTH_FEED_A_POWER_P) (f.sumP / (n * r * 10))
  let e := f.energyPj / 10 ^ 9
  let s := s.gw (atMeas x { Reg.GTH_FEED_A_ENERGY_MJ with w := 32 }) e
  let s := s.gw (atMeas x { Reg.GTH_FEED_A_ENERGY_MJ with off := 0x2100054, w := 32 }) (e / 2 ^ 32)
  s.updFeed x (fun (f : FeedSt) => { f with sumV := 0, sumI := 0, sumP := 0, samples := 0 })

/-- Every 10 µs, after ten samples of each feed, the Gatehouse sends a frame (R17, R315). -/
def State.frameSend (s : State) : State :=
  if s.gth.aux ∧ 10 ≤ s.gth.fa.samples ∧ 10 ≤ s.gth.fb.samples then
    let s := (s.frameFeed .a).frameFeed .b
    { s with gth := { s.gth with frame := some s.gth.regs } }
  else s

/-- GTH_FRAME_SEND (R17). -/
def execGthFrameSend (s : State) : Host.Outcome State Fault Refusal := .next s.frameSend

/-- Every die sensor has completed a calibration since the release (R243). -/
def State.dieCal (s : State) : State := s.setFlag Reg.GTH_CAL_STATUS_DIE_CAL_DONE (s.gth.dieDone == BitVec.allOnes 21)

/-- The input power that the last frame reported, both feeds together, in 10 mW. -/
def State.framePower (s : State) : Nat := s.rd Reg.GTH_FEED_A_POWER_P + s.rd (atMeas .b Reg.GTH_FEED_A_POWER_P)

/-- The central die receives a frame and mirrors the registers from it (R18, R316); the governor keeps its power until the interval ends (R287). -/
def State.frameIn (s : State) : State :=
  match s.gth.frame with
  | none => s
  | some f =>
    let s : State := { s with gth := { s.gth with frame := none } }
    if !s.boot.released then s
    else
      let s : State := { s with gth := { s.gth with lastFrame := s.tick } }
      let s := gthOffsets.foldl (fun (s : State) o => s.setWord o (Tbl.lookD f 0 o)) s
      let s : State := { s with qos := { s.qos with frames := (s.qos.frames ++ [s.framePower]).drop (s.qos.frames.length - 9) } }
      (s.setFlag Reg.GLB_CLK_STATUS_GTH_LINK_UP true).dieCal

/-- MEASUREMENT_FRAME (R316). -/
def execMeasurementFrame (s : State) : Host.Outcome State Fault Refusal := .next s.frameIn

/-- No valid frame has arrived for 50 µs, which is N × 625 ticks (R18). -/
def State.linkLostGth (s : State) : State :=
  if s.boot.released ∧ s.flag Reg.GLB_CLK_STATUS_GTH_LINK_UP ∧ s.gth.lastFrame + s.rootN * 625 ≤ s.tick then
    (s.setFlag Reg.GLB_CLK_STATUS_GTH_LINK_UP false).raise 0x2101
  else s

/-- GTH_LINK_LOST (R18). -/
def execGthLinkLost (s : State) : Host.Outcome State Fault Refusal := .next s.linkLostGth

/-! ### Calibration -/

/-- The check of the reference (R245): more than 2 % from GTH_VREF_VALUE, or its ground more than 50 mV from the Gatehouse's. (DESIGN CHOICE, unsafe, log entry 52) -/
def State.refBad (s : State) (vref gndMv : Nat) : Bool :=
  let v := s.gr Reg.GTH_VREF_VALUE_VALUE
  decide (v < 50 * (max v vref - min v vref)) || decide (50 < gndMv)

/-- The quantity that a converter carries. -/
def Gth.quantity (g : Gth) (conv : Nat) : Option Nat := (List.range 4).find? (fun q => g.carrier q == conv)

/-- A converter is taken out of service in its turn, and the spare carries its quantity (Table 9.4). (DEDUCED, unsafe, log entry 93) -/
def State.takeOut (s : State) (conv : Nat) : State :=
  match s.gth.quantity conv with
  | none => s
  | some q => { s with gth := { s.gth with carry := Tbl.put s.gth.carry q s.gth.spare, spare := conv } }

/-- What a converter's reference is, in µV: GTH_VREF_VALUE, or a fiftieth of it for one that carries a current (Table 9.4, R243). -/
def State.refFor (s : State) (conv : Nat) : Int :=
  let v : Int := s.gr Reg.GTH_VREF_VALUE_VALUE
  match s.gth.quantity conv with
  | some q => if q % 2 = 1 then v / 50 else v
  | none => v

/-- A calibration step of a Gatehouse converter (R242, R243, R245): the reference is checked; a good one calibrates the converter, which the spare replaces, against GTH_VREF_VALUE at the
Gatehouse's temperature. (DESIGN CHOICE, unsafe, log entry 52) -/
def State.converterCal (s : State) (conv vref gndMv : Nat) (temp zero ref : Int) : State :=
  if !s.gth.aux then s
  else
    let s : State := { s with gth := { s.gth with temp := s.gth.correct 5 s.gth.temp absZero temp } }
    let lost := s.gr Reg.GTH_CAL_STATUS_REF_LOST == 1
    if s.refBad vref gndMv then
      let s : State := { s with gth := { s.gth with goodRefs := 0 } }
      if lost then s
      else ((s.gw Reg.GTH_CAL_STATUS_REF_LOST 1).gw Reg.GTH_CAL_STATUS_REF_LOST_SEEN 1).gthRaise 0x2102 vref 0
    else if lost then
      let n := s.gth.goodRefs + 1
      if n < 10 then { s with gth := { s.gth with goodRefs := n } }
      else State.gw { s with gth := { s.gth with goodRefs := 0 } } Reg.GTH_CAL_STATUS_REF_LOST 0
    else
      let s := (s.calibrate conv s.gth.temp zero ref (s.refFor conv)).takeOut conv
      let d := s.gth.calDone ||| (1#6 <<< conv)
      State.gw { s with gth := { s.gth with calDone := d } } Reg.GTH_CAL_STATUS_GTH_CAL_DONE (d == 0x3F#6).toNat

/-- GTH_CONVERTER_CAL (R242). -/
def execGthConverterCal (conv : Fin 6) (vref : Nat) (gndMv : Int) (temp zero ref : Int) (s : State) : Host.Outcome State Fault Refusal :=
  .next (s.converterCal conv vref gndMv.natAbs temp zero ref)

/-- The calibration line is measured by the spare converter, and its error against the reference reported, unless calibration has stopped (R242, R245). (DEDUCED, unsafe, log entry 93) -/
def State.calLine (s : State) (line : Int) : State :=
  if !s.gth.aux || s.gr Reg.GTH_CAL_STATUS_REF_LOST == 1 then s
  else s.gw Reg.GTH_CAL_STATUS_COPY_ERR (twos 16 (s.gth.convert s.gth.spare s.gth.temp line - s.gr Reg.GTH_VREF_VALUE_VALUE))

/-- CAL_LINE_MEASURE (R242). -/
def execCalLineMeasure (line : Int) (s : State) : Host.Outcome State Fault Refusal := .next (s.calLine line)

/-- What the calibration line stands for on the central die: the reference with the reported copy error, which is thus removed (R242). -/
def State.lineValue (s : State) : Int :=
  let e := s.rd Reg.GTH_CAL_STATUS_COPY_ERR
  s.rd Reg.GTH_VREF_VALUE_VALUE + (if e < 32768 then (e : Int) else (e : Int) - 65536)

/-- A die sensor is calibrated against the line (R242, R243), unless calibration has stopped. -/
def State.sensorCal (s : State) (sensor : Nat) (zero line : Int) : State :=
  if !s.boot.released || !s.gth.aux || s.gr Reg.GTH_CAL_STATUS_REF_LOST == 1 then s
  else
    let s := s.calibrate (6 + sensor) (s.dieT (dieOf sensor)) zero line s.lineValue
    State.dieCal { s with gth := { s.gth with dieDone := s.gth.dieDone ||| (1#21 <<< sensor) } }

/-- DIE_SENSOR_CAL (R242). -/
def execDieSensorCal (sensor : Fin 21) (zero line : Int) (s : State) : Host.Outcome State Fault Refusal := .next (s.sensorCal sensor zero line)

end Sys2Proof.Machine
end

