-- ==== Sys2Proof/Machine/Ld.lean ====
section
/-! DEFINITION. Heads and logical devices: link training, power states (R61 to R63), the states of Table 2.9 with disable, drain and stop (R64 to R67),
resets of an LD (R68), configuration space (R46, R47), HDM decoders (R49, R50), CDAT (R48) and MSI-X (R59, R60). -/
namespace Sys2Proof.Machine

/-! ### CDAT -/

/-- End of the static capacity of an LD in bytes (R411): its static extents lie at consecutive LD DPA from 0. -/
def Ld.staticCap (d : Ld) : Nat := ((d.exts.filter (fun (e : Extent) => e.static && !e.releasing)).map (fun e => e.len)).sum * 2 ^ 28

/-- End of an LD's DPA space (R50): the static capacity or the highest configured DC region. -/
def Ld.dpaEnd (d : Ld) : Nat := d.dcRegions.foldl (fun m (r : Nat × DcRegion) => max m (r.2.base + r.2.len)) d.staticCap

/-- Lanes of a WIDTH code. -/
def lanesOf (w : Nat) : Nat := 2 ^ min w 4

/-- Sustained bandwidth of a number of lanes: 7,343.75 MB/s each, rounded down (Table 2.5). -/
def cdatBw (lanes : Nat) : Nat := 734375 * lanes / 100

/-- One DSMAS entry: its latency and coherency follow from the extents that lie in its range and their regions; a DC region is Shareable when it is sharable (Table 2.5).
A range with extents of several regions reads 85 ns and coherent as soon as one of them does, and a range with none as a plain one: the spec gives both values for one region. (DESIGN CHOICE, unsafe, log entry 97) -/
def State.dsmas (s : State) (d : Ld) (base len lanes : Nat) (sharable : Bool) : Dsmas :=
  let es := d.exts.filter (fun (e : Extent) => decide (base ≤ e.ldUnit * 2 ^ 28 ∧ e.ldUnit * 2 ^ 28 < base + len))
  let rs := es.filterMap (fun (e : Extent) => Tbl.look s.regions e.region)
  { base := base, len := len, shareable := sharable, hwCoherent := rs.any (fun (r : Region) => r.hdmDb),
    lat := if rs.any (fun (r : Region) => r.cls == .vitrine) then 85 else 76, bw := cdatBw lanes }

/-- The CDAT of an LD at the link-up of its head (R48, Table 2.5). -/
def State.cdatOf (s : State) (d : Ld) (lanes : Nat) : List Dsmas :=
  s.dsmas d 0 d.staticCap lanes false :: d.dcRegions.map (fun (r : Nat × DcRegion) => s.dsmas d r.2.base r.2.len lanes r.2.sharable)

/-- A DOE CDAT Table Access request is answered (R48). -/
def State.cdatRead (s : State) (i : Nat) : State :=
  match s.ld? i with
  | none => s
  | some d => if s.linkUp d.head && d.st != .down && d.st != .stopping then s.emit (.cdat i d.cdat) else s

/-- CDAT_TABLE_ACCESS (R48). -/
def execCdatTableAccess (i : LdIx) (s : State) : Host.Outcome State Fault Refusal := .next (s.cdatRead i)

/-! ### States of a logical device -/

/-- An IO_UP LD with Memory Space Enable, a committed decoder and DISABLED 0 enters ACTIVE, on a head that carries CXL.mem (Table 2.9, R40). -/
def State.tryActive (s : State) (i : Nat) : State :=
  s.updLd i (fun (d : Ld) =>
    if d.st == .ioUp && d.memSpace && !d.decoders.isEmpty && !d.disabled && d.resetClr.isNone && !s.boot.warmEntry && s.flag (Reg.GLB_HEAD_STATUS_MEM_OK d.head) then
      { d with st := .active } else d)

/-- A source is the mailbox of an LD. -/
def isMailbox (i : Nat) (a : Agent) : Bool := match a with | .ld j => j.val == i | _ => false

/-- The mailbox of an LD is reset (R67, R68): its registers clear, and any command in progress completes with an error, whose code is a free value, the spec naming none. -/
def State.resetMailbox (s : State) (i : Nat) : State :=
  let s := if s.mgmt.bg.any (fun (b : Bg) => isMailbox i b.src) then (s.failBg (s.freeNow.toNat % 65535 + 1) (fun (b : Bg) => isMailbox i b.src)).advanceFree else s
  { s.updLd i (fun (d : Ld) => { d with mbox := {} }) with mgmt := { s.mgmt with held := s.mgmt.held.filter (fun (c : HeldCmd) => !isMailbox i c.h.src) } }

/-- The mailbox of an LD that reaches DOWN: with its reset, its replay records go (R345). -/
def State.dropMailbox (s : State) (i : Nat) : State :=
  let s := s.resetMailbox i
  { s with mgmt := { s.mgmt with replays := s.mgmt.replays.filter (fun (r : ReplayRec) => !isMailbox i r.src) } }

/-- User access to an LD's counter page is cleared (R370). -/
def State.clearUser (s : State) (i : Nat) : State := s.wrBit Reg.CAT_USER_EN_USER i false

/-- What DOWN leaves of an LD (R67): decoders uncommitted, MSI-X at its reset values, its mailbox commands ended, user access off. The configuration space returns to
its reset values as PCIe has it at link down. (PRESUMED, unsafe, log entry 55) -/
def State.ldReset (s : State) (i : Nat) : State :=
  let s := s.updLd i (fun (d : Ld) => { d with decoders := [], decRegs := [], hdmGlobal := 0, decErr := 0, msix := [], pba := 0, fnMask := false, memSpace := false, cfg := [] })
  (s.dropMailbox i).clearUser i

/-- An LD leaves DRAINING or STOPPING: for DOWN while the link is down, else for IO_UP, and from there at once for ACTIVE where that row's conditions hold (Table 2.9). -/
def State.settle (s : State) (i : Nat) : State :=
  match s.ld? i with
  | none => s
  | some d =>
    if s.linkUp d.head then (s.updLd i (fun (d : Ld) => { d with st := .ioUp })).tryActive i
    else (s.ldReset i).updLd i (fun (d : Ld) => { d with st := .down })

/-- A graceful disable of an LD (Table 2.9, Table 2.10): an ACTIVE one drains. Its range passes, and those over its space, end after the current page (R256) and its queues are deleted (R177). -/
def State.drainLd (s : State) (i : Nat) : State :=
  match s.ld? i with
  | none => s
  | some d =>
    let s := { s with mgmt := { s.mgmt with passes := s.mgmt.passes.map (fun (x : RangePass) =>
      if (x.ldDpa = some i ∨ x.owner = some i) ∧ x.done = false then { x with stop := true, status := 1 } else x) } }
    if d.st == .active then
      let s := s.updLd i (fun (d : Ld) => { d with st := .draining, drainPoisoned := false, lastAbrupt := false, drainAt := s.tick })
      let s := { s with dir := { s.dir with walks := s.dir.walks ++ [({ why := .graceful i, head := d.head } : Walk)] } }
      s.dropQueues i false
    else s.dropQueues i false

/-- Requests in flight of an LD are discarded with code 5h (R90, Table 3.5). -/
def State.discardLd (s : State) (i : Nat) : State :=
  ((s.path.txns ++ s.dir.bench).filter (fun (t : Txn) => t.req.head?.isSome && t.req.ld == i)).foldl (fun (s : State) (t : Txn) => s.discard t 5 true) s

/-- Range passes of an LD, and those over its space, end with nothing returned (R256). -/
def State.dropPasses (s : State) (i : Nat) : State :=
  let gone := (s.mgmt.passes.filter (fun (x : RangePass) => x.ldDpa == some i || x.owner == some i)).map (fun x => x.id)
  let isIt (b : Bg) : Bool := match b.why with | .scrub n => gone.contains n | _ => false
  let s := s.endPasses (fun (x : RangePass) => gone.contains x.id)
  { s with mgmt := { s.mgmt with bg := s.mgmt.bg.filter (fun (b : Bg) => !isIt b) } }

/-- An abrupt disable of an LD (Table 2.9, Table 2.10, R116): requests in flight are discarded, what waits for its head goes on at once (R117), and a walk removes the head from
every line. A drain in progress goes on under the abrupt rules. -/
def State.stopLd (s : State) (i : Nat) : State :=
  match s.ld? i with
  | none => s
  | some d =>
    let s := (s.dropPasses i).dropQueues i true
    if d.st == .active || d.st == .draining || d.st == .ioUp then
      let s := s.updLd i (fun (d : Ld) => { d with st := .stopping, resetClr := none })
      let s := s.dropWalks (fun (w : WalkWhy) => w == .graceful i)
      let s := { s with dir := { s.dir with walks := s.dir.walks ++ [({ why := .abrupt i, head := d.head } : Walk)] } }
      (s.discardLd i).stopWaits d.head
    else s

/-! ### Links -/

/-- A head's width code under its port's split (Table 2.2). -/
def State.fullWidth (s : State) (h : Nat) : Nat := match s.splitOf (h / 4) with | 0 => 4 | 1 => 3 | _ => 2

/-- A head's link trains (R39, R40, R387): its LDs enter IO_UP with decoders uncommitted, and the CDAT content is fixed. -/
def State.headUp (s : State) (h rate width flit : Nat) : State :=
  if !s.boot.cfgLoaded || !s.headExists h || s.linkUp h || s.boot.perst.getLsbD (h / 4) || s.isSafe || s.boot.warmEntry
      || decide (s.fullWidth h < width) || !(s.boot.pwrok) then s
  else
    let ok := decide (1 ≤ flit ∧ 2 ≤ rate)
    let s := (s.setFlag (Reg.GLB_HEAD_STATUS_LINK_UP h) true).wr (Reg.GLB_HEAD_STATUS_RATE h) rate
    let s := (s.wr (Reg.GLB_HEAD_STATUS_WIDTH h) width).wr (Reg.GLB_HEAD_STATUS_FLIT h) flit
    let s := (s.setFlag (Reg.GLB_HEAD_STATUS_MEM_OK h) ok).wr (Reg.GLB_HEAD_STATUS_PSTATE h) 0
    let s := (s.ldsOf h).foldl (fun (s : State) i =>
      let c := s.cdatOf ((s.ld? i).getD { head := h }) (lanesOf width)
      s.updLd i (fun (d : Ld) => { d with st := if d.st == .down then .ioUp else d.st, cdat := c })) s
    let s := if ok then s else s.raise 0x0101 h (s.word (0x80 + 4 * h)).toNat
    (s.updHead h (fun (x : HeadSt) => { x with traffic := s.tick })).noteHeads

/-- HEAD_LINK_UP (R64). -/
def execHeadLinkUp (h : Head) (rate : Fin 6) (width : Fin 5) (flit : Fin 3) (s : State) : Host.Outcome State Fault Refusal :=
  .next (s.headUp h rate width flit)

/-- What a link holds ends with it: the BI credits of its partner (R97), and what was written to the link registers, as PCIe has it. (PRESUMED, unsafe, log entry 55) -/
def State.linkGone (s : State) (h : Nat) : State :=
  { s.updHead h (fun (x : HeadSt) => { x with link := [], fm := [] }) with dir := { s.dir with credits := Tbl.del s.dir.credits h } }

/-- A head's link goes down (Table 2.9): ACTIVE and DRAINING LDs stop abruptly, and IO_UP LDs go DOWN. What DOWN resets (R67), it resets when the LD reaches it. The
queues of an IO_UP LD whose link goes down, and its jobs, go on: the table names only the requests in flight. (DEDUCED, unsafe, log entry 99) -/
def State.headDown (s : State) (h : Nat) : State :=
  if !s.linkUp h then s
  else
    let s := (s.setFlag (Reg.GLB_HEAD_STATUS_LINK_UP h) false).setFlag (Reg.GLB_HEAD_STATUS_MEM_OK h) false
    let s := ((s.wr (Reg.GLB_HEAD_STATUS_RATE h) 0).wr (Reg.GLB_HEAD_STATUS_WIDTH h) 0).wr (Reg.GLB_HEAD_STATUS_FLIT h) 0
    let s := ((s.wr (Reg.GLB_HEAD_STATUS_PSTATE h) 6).noteHeads).linkGone h
    (s.ldsOf h).foldl (fun (s : State) i => match s.ld? i with
      | none => s
      | some d => match d.st with
        | .active => s.stopLd i
        | .draining => s.stopLd i
        | .ioUp => (s.ldReset i).updLd i (fun (d : Ld) => { d with st := .down, resetClr := none })
        | _ => s) s

/-- HEAD_LINK_DOWN (R64). -/
def execHeadLinkDown (h : Head) (s : State) : Host.Outcome State Fault Refusal := .next (s.headDown h)

/-- A trained link retrains, no wider than its head (R39). CDAT stays as it is while the link is up (R48). -/
def State.headRetrain (s : State) (h width : Nat) : State :=
  if s.linkUp h ∧ width ≤ s.fullWidth h then
    let s := (s.sat (Reg.GLB_HEAD_STATUS_RETRAINS h) 1).wr (Reg.GLB_HEAD_STATUS_WIDTH h) width
    ((s.wr (Reg.GLB_HEAD_STATUS_PSTATE h) 0).stn (113 + h / 4) 4).noteHeads
  else s

/-- HEAD_LINK_RETRAIN (R39). -/
def execHeadLinkRetrain (h : Head) (width : Fin 5) (s : State) : Host.Outcome State Fault Refusal := .next (s.headRetrain h width)

/-- A request, completion or BISnp of the head is pending (R62). -/
def State.headBusy (s : State) (h : Nat) : Bool :=
  s.path.ingress.any (fun (q : Req) => q.head? == some h) || (s.path.txns ++ s.dir.bench).any (fun (t : Txn) => t.req.head? == some h)
    || s.dir.exchs.any (fun (x : Exch) => x.waits.any (fun w => w.head == h)) || s.path.fences.any (fun (f : Fence) => f.head == h)

/-- ASPM L1 is enabled in Link Control (R62), which the LD of an SLD head or the FM-owned LD of an MLD head writes (R46). -/
def State.aspmOn (s : State) (h : Nat) : Bool := (Tbl.lookD (s.hd h).link 0 0x60).getLsbD 1

/-- VDV_LINK_PM.L1_IDLE of a head in µs, 0 behaving as 1: the value of its one LD, or in MLD mode that of the FM-owned LD. -/
def State.l1Idle (s : State) (h : Nat) : Nat :=
  let own := match s.ldsOf h with | i :: _ => ((s.ld? i).map (fun (d : Ld) => Tbl.lookD d.cfg 0x640000 0x320)).getD 0x640000 | [] => 0x640000
  max 1 (bitsOf (if s.isMld h then Tbl.lookD (s.hd h).link 0x640000 0x320 else own) 16 16)

/-- The head has had no traffic in either direction for L1_IDLE (R62). A µs is N × 12.5 ticks. -/
def State.headIdle (s : State) (h : Nat) : Bool := decide ((s.hd h).traffic * 2 + s.l1Idle h * s.rootN * 25 ≤ s.tick * 2)

/-- The link of a head enters L1 or one of its sub-states, when nothing is pending for it. -/
def State.enterL1 (s : State) (h sub : Nat) : State :=
  if s.linkUp h && decide (s.rd (Reg.GLB_HEAD_STATUS_PSTATE h) ≤ 1) && !s.headBusy h then
    (((s.wr (Reg.GLB_HEAD_STATUS_PSTATE h) (2 + sub)).emit (.linkPower h (2 + sub))).stn (113 + h / 4) 5).noteHeads
  else s

/-- Exit latency in ns of a link state of Table 2.8, by PSTATE: L1 2 µs, L1.1 8 µs, L1.2 40 µs. Link Capabilities reports that of L1. -/
def exitLatency (pstate : Nat) : Option Nat :=
  match pstate with
  | 2 => some 2000
  | 3 => some 8000
  | 4 => some 40000
  | _ => none

/-- The Kelorn initiates ASPM L1, or one of its sub-states, on a head that has been idle for L1_IDLE (R62). (DESIGN CHOICE, safe, log entry 68) -/
def State.aspmL1 (s : State) (h sub : Nat) : State :=
  if s.aspmOn h && s.headIdle h then s.enterL1 h sub else s

/-- ASPM_L1_ENTRY (R62). -/
def execAspmL1Entry (h : Head) (sub : Fin 3) (s : State) : Host.Outcome State Fault Refusal := .next (s.aspmL1 h sub)

/-- L1_EXIT (R63): the link is brought back to L0. -/
def execL1Exit (h : Head) (s : State) : Host.Outcome State Fault Refusal := .next (if s.linkUp h then s.wakeLink h else s)

/-- A partner's L0p request is granted whenever the width is legal for the trained one (R62): a narrower one is L0p, the trained one L0. (DESIGN CHOICE, safe, log entry 68) -/
def State.l0p (s : State) (h width : Nat) : State :=
  if s.linkUp h ∧ s.rd (Reg.GLB_HEAD_STATUS_PSTATE h) ≤ 1 ∧ width ≤ s.rd (Reg.GLB_HEAD_STATUS_WIDTH h) then
    let p := if width = s.rd (Reg.GLB_HEAD_STATUS_WIDTH h) then 0 else 1
    ((s.wr (Reg.GLB_HEAD_STATUS_PSTATE h) p).emit (.linkPower h p)).noteHeads
  else s

/-- L0P_REQUEST (R62). -/
def execL0pRequest (h : Head) (width : Fin 5) (s : State) : Host.Outcome State Fault Refusal := .next (s.l0p h width)

/-- After PME_TO_Ack the head enters L2/L3 Ready (Table 2.8). -/
def State.pmeOff (s : State) (h : Nat) : State :=
  if s.linkUp h then ((s.wr (Reg.GLB_HEAD_STATUS_PSTATE h) 5).emit (.linkPower h 5)).noteHeads else s

/-- PME_TURN_OFF (R61). -/
def execPmeTurnOff (h : Head) (s : State) : Host.Outcome State Fault Refusal := .next (s.pmeOff h)

/-! ### Drain, stop and resets of a logical device -/

/-- Pages of extents that this LD alone maps (R68). -/
def State.alonePages (s : State) (i : Nat) : List Nat :=
  match s.ld? i with
  | none => []
  | some d => d.exts.flatMap (fun (e : Extent) =>
      (s.pagesIn (e.unit * 65536) ((e.unit + e.len) * 65536 - 1)).filter (fun p => (s.mappers (unitOfPage p)).all (fun j => j == i)))

/-- The effects of a CXL Reset once its drain has ended (R68). -/
def State.cxlResetDone (s : State) (i : Nat) (memClr : Bool) : State :=
  let s := if memClr then (s.alonePages i).foldl State.askClear s else s
  s.updLd i (fun (d : Ld) => { d with decoders := [], decErr := 0, resetClr := none })

/-- A CXL Reset that clears memory waits until no request or move uses the pages it returns. -/
def State.clrReady (s : State) (i : Nat) (memClr : Option Bool) : Bool := memClr != some true || !(s.alonePages i).any s.pageBusy

/-- A drain ends: a CXL Reset takes its effect, and the LD leaves DRAINING (Table 2.9, R68). (DEDUCED, unsafe, log entry 57) -/
def State.endDrain (s : State) (i : Nat) (d : Ld) : State :=
  let s := s.dropWalks (fun (w : WalkWhy) => w == .graceful i)
  let s := match d.resetClr with | some mc => s.cxlResetDone i mc | none => s
  if d.st == .draining then s.settle i else s

/-- Jobs and requests of an LD still run. -/
def State.ldRuns (s : State) (i : Nat) : Bool :=
  (s.path.txns ++ s.dir.bench).any (fun (t : Txn) => t.req.head?.isSome && t.req.ld == i)
    || s.press.engines.any (fun (e : Nat × EngineUse) => match e.2 with | .job _ ld _ => ld == i | _ => false)

/-- DRAIN_COMPLETE (R118): the walk is complete, every BISnp it caused has been answered, and what was in flight has completed. (DEDUCED, unsafe, log entry 57) -/
def State.drainDone (s : State) (i : Nat) : State :=
  match s.ld? i with
  | none => s
  | some d =>
    if (d.st == .draining || (d.st == .ioUp && d.resetClr.isSome)) && s.clrReady i d.resetClr && !s.ldRuns i
        && s.walkOver (fun (w : WalkWhy) => w == .graceful i) (fun (x : ExchWhy) => x == .drain i) then s.endDrain i d
    else s

/-- DRAIN_COMPLETE (R118). -/
def execDrainComplete (i : LdIx) (s : State) : Host.Outcome State Fault Refusal := .next (s.drainDone i)

/-- 10 ms after a graceful disable, each BISnp still unanswered is ended as at its timeout, and the drain ends (R118). N × 125,000 ticks are 10 ms. (DEDUCED, unsafe, log entry 57) -/
def State.drainBound (s : State) (i : Nat) : State :=
  match s.ld? i with
  | none => s
  | some d =>
    if d.st == .draining && decide (d.drainAt + s.rootN * 125000 ≤ s.tick) then
      let xs := s.dir.exchs.filter (fun (x : Exch) => x.why == .drain i)
      let s := xs.foldl (fun (s : State) (x : Exch) => match s.exchFor d.head x.line with
        | some y => if y.why == .drain i then (s.drainMark y).biTimedOut y d.head else s
        | none => s) s
      if s.clrReady i d.resetClr then s.endDrain i d else s
    else s

/-- GRACEFUL_DRAIN_BOUND (R118). -/
def execGracefulDrainBound (i : LdIx) (s : State) : Host.Outcome State Fault Refusal := .next (s.drainBound i)

/-- STOP_COMPLETE: an abrupt stop ends with its walk; LAST_ABRUPT is set and the LD leaves STOPPING (Table 2.9, R118). -/
def State.stopDone (s : State) (i : Nat) : State :=
  match s.ld? i with
  | none => s
  | some d =>
    if d.st == .stopping && s.walkOver (fun (w : WalkWhy) => w == .abrupt i) (fun _ => false) then
      let s := s.dropWalks (fun (w : WalkWhy) => w == .abrupt i)
      (s.updLd i (fun (d : Ld) => { d with lastAbrupt := true })).settle i
    else s

/-- STOP_COMPLETE (R64). -/
def execStopComplete (i : LdIx) (s : State) : Host.Outcome State Fault Refusal := .next (s.stopDone i)

/-- A CXL Reset (R68): an ACTIVE LD drains as at a graceful disable; in IO_UP nothing is in flight, and DRAIN_COMPLETE brings its effects. (DEDUCED, unsafe, log entry 57) -/
def State.cxlReset (s : State) (i : Nat) (memClr : Bool) : State :=
  match s.ld? i with
  | none => s
  | some d =>
    if !s.linkUp d.head then s
    else match d.st with
      | .active => (s.drainLd i).updLd i (fun (d : Ld) => { d with resetClr := some memClr })
      | .draining => s.updLd i (fun (d : Ld) => { d with resetClr := some memClr })
      | .ioUp => s.updLd i (fun (d : Ld) => { d with resetClr := some memClr })
      | _ => s

/-- CXL_RESET (R68). -/
def execCxlReset (i : LdIx) (memClr : Bool) (s : State) : Host.Outcome State Fault Refusal := .next (s.cxlReset i memClr)

/-- A Function Level Reset (R68): MSI-X, mailbox and the command and status registers are reset, Press jobs stop (R177) and user access ends (R370). Memory decoding,
the decoders, their address windows and the link controls stay. (PRESUMED, unsafe, log entry 55) -/
def State.flr (s : State) (i : Nat) : State :=
  match s.ld? i with
  | none => s
  | some d =>
    if !s.linkUp d.head || d.st == .down || d.st == .stopping then s
    else
      let keep (e : Nat × Word) : Bool := (decide (0x310 ≤ e.1) && decide (e.1 ≤ 0x320))
      let s := s.updLd i (fun (d : Ld) => { d with msix := [], pba := 0, fnMask := false, memSpace := false, cfg := d.cfg.filter keep })
      ((s.resetMailbox i).clearUser i).dropQueues i true

/-- FUNCTION_LEVEL_RESET (R68). -/
def execFunctionLevelReset (i : LdIx) (s : State) : Host.Outcome State Fault Refusal := .next (s.flr i)

/-! ### MSI-X -/

/-- Vectors that are pending and no longer masked send one message each, and their pending bits clear (R60). -/
def State.flushMsix (s : State) (i : Nat) : State :=
  match s.ld? i with
  | none => s
  | some d =>
    if d.fnMask || s.isSafe then s
    else (List.range 32).foldl (fun (s : State) v =>
      if d.pba.getLsbD v && !(Tbl.lookD d.msix {} v).mask then
        (s.updLd i (fun (d : Ld) => { d with pba := d.pba &&& ~~~(1#32 <<< v) })).msix i v
      else s) s

/-- MSIX_UNMASK (R60): one vector, or the function. -/
def State.unmask (s : State) (i : Nat) (v : Option Nat) : State :=
  let s := s.updLd i (fun (d : Ld) => match v with
    | some v => { d with msix := Tbl.putD d.msix {} v { Tbl.lookD d.msix {} v with mask := false } }
    | none => { d with fnMask := false })
  s.flushMsix i

/-- MSIX_UNMASK (R60). -/
def execMsixUnmask (i : LdIx) (v : Option (Fin 32)) (s : State) : Host.Outcome State Fault Refusal :=
  .next (s.unmask i (v.map (fun (x : Fin 32) => x.val)))

/-! ### HDM decoders -/

/-- ALIAS_EN of a decoder, and log2(W) of its window (VDV_ALIAS_CTL, VDV_WIN_n). -/
def Ld.aliasOf (d : Ld) (k : Nat) : Option Nat :=
  if (Tbl.lookD d.cfg 0 0x310).getLsbD k then some (29 + bitsOf (Tbl.lookD d.cfg 0 (0x310 + 4 * k)) 16 5) else none

/-- The checks of Table 2.6, with the supported granularities of R49 and the ascending order of commits (R49, R50): the decoder they would commit. (DEDUCED, unsafe, log entry 56) -/
def Ld.checkDecoder (d : Ld) (k base size skip iw ig : Nat) : Option Decoder :=
  let aliasLog := d.aliasOf k
  let w := match aliasLog with | some n => 2 ^ n | none => 0
  let used := match aliasLog with | some _ => w - 2 ^ 28 | none => size / iw
  let dpa := (d.decoders.filter (fun (e : Nat × Decoder) => decide (e.1 < k))).foldl (fun m (e : Nat × Decoder) => max m (e.2.dpa + e.2.used)) 0 + skip
  let iwOk := [1, 2, 4, 8, 16].contains iw || (aliasLog.isNone && [3, 6, 12].contains iw)
  let igOk := [256, 512, 1024, 2048, 4096, 8192, 16384].contains ig
  let sizeOk := match aliasLog with
    | some _ => size == 64 * iw * w && base % (64 * iw * w) == 0
    | none => size % (iw * 2 ^ 28) == 0 && base % (iw * 2 ^ 28) == 0
  let order := d.decoders.all (fun (e : Nat × Decoder) => decide (e.1 < k))
  if iwOk && igOk && sizeOk && order && decide (dpa + used ≤ d.dpaEnd) then
    some { base := base, size := size, iw := iw, ig := ig, dpa := dpa, used := used, aliasLog := aliasLog }
  else none

/-- Commit is set on a decoder that software has programmed (R50). On a committed one it has no effect. (DEDUCED, unsafe, log entry 56) -/
def State.commit (s : State) (i k base size skip iw ig : Nat) : State :=
  match s.ld? i with
  | none => s
  | some d =>
    if !s.linkUp d.head || d.st == .down || d.st == .stopping || (Tbl.look d.decoders k).isSome then s
    else
      let s := s.updLd i (fun (d : Ld) => { d with decRegs := Tbl.putD d.decRegs {} k { base := base, size := size, skip := skip, iw := iw, ig := ig } })
      match d.checkDecoder k base size skip iw ig with
      | some e => (s.updLd i (fun (d : Ld) => { d with decoders := Tbl.put d.decoders k e, decErr := d.decErr &&& ~~~(1#4 <<< k) })).tryActive i
      | none => s.updLd i (fun (d : Ld) => { d with decErr := d.decErr ||| (1#4 <<< k) })

/-- HDM_DECODER_COMMIT (R50). -/
def execHdmDecoderCommit (i : LdIx) (d : Fin 4) (base size skip : Nat) (iw ig : Nat) (s : State) : Host.Outcome State Fault Refusal :=
  .next (s.commit i d base size skip iw ig)

/-! ### Configuration space -/

/-- VDV_HEAD_ID (R47): its reserved bits read as free values. -/
def State.headId (s : State) (i : Nat) (d : Ld) : Nat :=
  d.head / 4 + d.head % 4 * 4 + s.splitOf (d.head / 4) * 16 + i * 2 ^ 8 + (if s.isMld d.head then d.ldId else 0) * 2 ^ 16 + d.manage.toNat * 2 ^ 20

/-- STATE of VDV_DETACH_STATUS. -/
def ldCode : LdState → Nat
  | .down => 0
  | .ioUp => 1
  | .active => 2
  | .draining => 3
  | .stopping => 4

/-- A word whose reserved bits, those of the mask, read as free values (Table 0.5). (DESIGN CHOICE, safe, log entry 3) -/
def State.withRsv (s : State) (v : Nat) (rsv : Word) : Word := (BitVec.ofNat 32 v &&& ~~~rsv) ||| (s.freeNow.setWidth 32 &&& rsv)

/-- Mem_Active of DVSEC range 1 (R47, R40). -/
def State.memActiveOf (s : State) (d : Ld) : Bool := s.boot.memActive && s.flag (Reg.GLB_HEAD_STATUS_MEM_OK d.head)

/-- Range 1 Size: the static capacity as it was at link-up (R411). (PRESUMED, unsafe, log entry 54) -/
def Ld.range1 (d : Ld) : Nat := ((d.cdat.head?).map (fun (x : Dsmas) => x.len)).getD 0

/-- Memory Space Enable and the Bus Master bit of the command register, as the LD holds them. (PRESUMED, unsafe, log entry 54) -/
def Ld.command (d : Ld) : Word := (Tbl.lookD d.cfg 0 4 &&& 4#32) ||| (if d.memSpace then 2#32 else 0#32)

/-- The header of an extended capability: its ID and the offset of the next one (Table 2.3); its version is PCIe's. (PRESUMED, unsafe, log entry 54) -/
def capHead (id next : Nat) (free : Word) : Word := BitVec.ofNat 32 (id + next * 2 ^ 20) ||| (free &&& 0x000F0000#32)

/-- The second word of a DVSEC of CXL: DVSEC Vendor ID 1E98h; its revision and length are CXL's. (PRESUMED, unsafe, log entry 54) -/
def cxlDvsec (free : Word) : Word := 0x1E98#32 ||| (free &&& 0xFFFF0000#32)

/-- A register that a head's link holds (R46): written as a whole, and with the standard's contents until then. -/
def State.linkHeld (s : State) (h off : Nat) (d : Word) : Word := Tbl.lookD (s.hd h).link d off

/-- The link registers at 050h and from 220h to 2E0h, which describe the head's physical link (R46, Tables 2.1 and 2.8): Link Capabilities (64 GT/s, the head's
width, ASPM L1 only, L1 exit latency 2 µs), Link Control and Status, Link Capabilities 2 (2.5 to 64 GT/s), Link Control 2, and the capabilities of Table 2.3. The places of the
fields are PCIe's. (PRESUMED, unsafe, log entry 54) -/
def State.linkWord (s : State) (h off : Nat) : Option Word :=
  let free := s.freeNow.setWidth 32
  match off with
  | 0x05C => some (BitVec.ofNat 32 (6 + lanesOf (s.fullWidth h) * 2 ^ 4 + 2 * 2 ^ 10 + 2 * 2 ^ 15) ||| (free &&& 0xFFFC7000#32))
  | 0x060 => some ((s.linkHeld h 0x60 0 &&& 0xFFFF#32) ||| BitVec.ofNat 32 ((s.rd (Reg.GLB_HEAD_STATUS_RATE h) + 1) * 2 ^ 16
      + lanesOf (s.rd (Reg.GLB_HEAD_STATUS_WIDTH h)) * 2 ^ 20) ||| (free &&& 0xFC000000#32))
  | 0x07C => some (0x7E#32 ||| (free &&& 0xFFFFFF01#32))
  | 0x080 => some ((s.linkHeld h 0x80 6 &&& 0xFFFF#32) ||| (free &&& 0xFFFF0000#32))
  | 0x220 => some (capHead 0x25 0x230 free)
  | 0x230 => some (capHead 0x26 0x260 free)
  | 0x260 => some (capHead 0x2A 0x290 free)
  | 0x290 => some (capHead 0x31 0x2B0 free)
  | 0x2B0 => some (capHead 0x27 0x2E0 free)
  | 0x2E0 => some (capHead 0x32 0x300 free)
  | _ => if 0x220 ≤ off ∧ off < 0x300 then some (s.linkHeld h off free) else none

/-- Offsets at which a written word reaches the link: Link Control, Link Control 2, and the registers of the link capabilities. -/
def linkWritable (off : Nat) : Bool :=
  off == 0x60 || off == 0x80 || (decide (0x220 ≤ off ∧ off < 0x300) && !([0x220, 0x230, 0x260, 0x290, 0x2B0, 0x2E0].contains off))

/-- Link Control, Link Control 2 or a register of a link capability is written (R46). -/
def State.linkWrite (s : State) (h off : Nat) (v : Word) : State :=
  s.updHead h (fun (x : HeadSt) => { x with link := Tbl.put x.link off v })

/-- The MLD DVSEC, which only an MLD head has: in SLD mode the capability before it links past it (Table 2.3). (PRESUMED, unsafe, log entry 54) -/
def mldWord (off : Nat) (free : Word) : Option Word :=
  match off with
  | 0x200 => some (capHead 0x23 0x220 free)
  | 0x204 => some (cxlDvsec free)
  | 0x208 => some (BitVec.ofNat 32 (9 + 16 * 2 ^ 16))
  | _ => none

/-- The Flex Bus Port Capability (Table 2.1): CXL.io, CXL.mem and the latency-optimized 256-byte flit, and Multi-LD on an MLD head; no CXL.cache and no 68-byte flit. The places of
the bits are CXL's. (PRESUMED, unsafe, log entry 54) -/
def flexBusCap (mld : Bool) : Nat := 2 + 4 + 2 ^ 13 + (if mld then 2 ^ 6 else 0)

/-- A configuration word of an LD (R36, R46, R47, Tables 2.1, 2.3 and 2.4). The registers of standard capabilities that the spec leaves to PCIe and CXL read as free values; the
places of those it names are the standards'. A feature that Table 2.1 marks "no" has no capability here. (PRESUMED, unsafe, log entry 54) -/
def State.cfgWord (s : State) (i : Nat) (d : Ld) (off : Nat) : Word :=
  let free := s.freeNow.setWidth 32
  let mld := if s.isMld d.head then mldWord off free else none
  match mld.or (s.linkWord d.head off) with
  | some w => w
  | none => match off with
    | 0x000 => BitVec.ofNat 32 (0x9640 * 2 ^ 16 + Config.vendorId.toNat)
    | 0x004 => d.command ||| 0x00100000#32 ||| (free &&& 0xFFEFFFF9#32)
    | 0x008 => BitVec.ofNat 32 (0x050210 * 2 ^ 8) ||| (free &&& 0xFF#32)
    | 0x00C => free &&& 0xFF80FFFF#32
    | 0x010 => (Tbl.lookD d.cfg 0 0x10 &&& 0xFFFC0000#32) ||| 4#32
    | 0x018 => (Tbl.lookD d.cfg 0 0x18 &&& 0xFC000000#32) ||| 4#32
    | 0x020 => (Tbl.lookD d.cfg 0 0x20 &&& 0xFFFFE000#32) ||| 4#32
    | 0x014 => Tbl.lookD d.cfg 0 0x14
    | 0x01C => Tbl.lookD d.cfg 0 0x1C
    | 0x024 => Tbl.lookD d.cfg 0 0x24
    | 0x034 => 0x40#32 ||| (free &&& 0xFFFFFF00#32)
    | 0x040 => 0x5001#32 ||| (free &&& 0x01FF0000#32)
    | 0x044 => (Tbl.lookD d.cfg 0 0x44 &&& 3#32) ||| (free &&& 0xFFFF7EFC#32)
    | 0x050 => 0x8002B010#32 ||| (free &&& 0x3E000000#32)
    | 0x054 => 0x10000002#32 ||| (free &&& 0xEFFFFFF8#32)
    | 0x058 => (Tbl.lookD d.cfg 0x2810 0x58 &&& 0xFFFF#32) ||| (free &&& 0xFFFF0000#32)
    | 0x0B0 => (Tbl.lookD d.cfg 0 0xB0 &&& 0x80000000#32) ||| 0x001F0011#32 ||| (if d.fnMask then 0x40000000#32 else 0#32)
    | 0x0B4 => 4#32
    | 0x0B8 => 0x1004#32
    | 0x100 => capHead 0x01 0x148 free
    | 0x148 => capHead 0x03 0x158 free
    | 0x14C => BitVec.ofNat 32 Config.serial.toNat
    | 0x150 => BitVec.ofNat 32 (Config.serial.toNat / 2 ^ 32)
    | 0x158 => capHead 0x2E 0x180 free
    | 0x180 => capHead 0x23 0x1C0 free
    | 0x184 => cxlDvsec free
    | 0x188 => 0x49960000#32
    | 0x18C => (Tbl.lookD d.cfg 0 0x18C &&& 0xFFFD#32) ||| 2#32 ||| (free &&& 0xFFFF0000#32)
    | 0x198 => BitVec.ofNat 32 (d.range1 / 2 ^ 32)
    | 0x19C => BitVec.ofNat 32 (d.range1 % 2 ^ 32 / 2 ^ 28 * 2 ^ 28 + 2 * 2 ^ 13 + (s.memActiveOf d).toNat * 2) ||| (free &&& 0x0FFF1FFD#32)
    | 0x1A8 => 0#32
    | 0x1AC => 0#32
    | 0x1C0 => capHead 0x23 0x1E0 free
    | 0x1C4 => cxlDvsec free
    | 0x1C8 => BitVec.ofNat 32 (7 + flexBusCap (s.isMld d.head) * 2 ^ 16)
    | 0x1E0 => capHead 0x23 (if s.isMld d.head then 0x200 else 0x220) free
    | 0x1E4 => cxlDvsec free
    | 0x1E8 => 8#32 ||| (free &&& 0xFFFF0000#32)
    | 0x1EC => 0x00000100#32
    | 0x1F0 => 0#32
    | 0x1F4 => 0x00010300#32
    | 0x1F8 => 0#32
    | 0x300 => capHead 0x23 0 free
    | 0x304 => BitVec.ofNat 32 (Config.vendorId.toNat + 0x28 * 2 ^ 20) ||| (free &&& 0x000F0000#32)
    | 0x308 => free &&& 0xFFFF0000#32
    | 0x30C => s.withRsv (s.headId i d) 0xFFE0C0C0#32
    | 0x310 => s.withRsv (Tbl.lookD d.cfg 0 0x310).toNat 0xFFE0FFF0#32
    | 0x314 => s.withRsv (Tbl.lookD d.cfg 0 0x314).toNat 0xFFE0FFFF#32
    | 0x318 => s.withRsv (Tbl.lookD d.cfg 0 0x318).toNat 0xFFE0FFFF#32
    | 0x31C => s.withRsv (Tbl.lookD d.cfg 0 0x31C).toNat 0xFFE0FFFF#32
    | 0x320 => s.withRsv (Tbl.lookD d.cfg 0x640000 0x320).toNat 0x0000FFFF#32
    | 0x324 => s.withRsv (ldCode d.st + d.lastAbrupt.toNat * 8 + d.drainPoisoned.toNat * 16 + d.disabled.toNat * 32) 0xFFFFFFC0#32
    | _ => free

/-- The FM-owned LD of an MLD head as configuration requests see it (R41, R46): what its registers hold. It maps no memory and reads as an LD in IO_UP. (PRESUMED, unsafe, log entry 54) -/
def State.fmLd (s : State) (h : Nat) : Ld :=
  let t := (s.hd h).fm
  { head := h, st := .ioUp, cfg := t, memSpace := (Tbl.lookD t 0 4).getLsbD 1, fnMask := (Tbl.lookD t 0 0xB0).getLsbD 30 }

/-- A configuration word of the FM-owned LD of an MLD head: the capabilities of Table 2.3, its own VDV_LINK_PM, and VDV_HEAD_ID, whose LD index, LD-ID and MANAGE an LD without an
index has none of and reads as free values. (PRESUMED, unsafe, log entry 54) -/
def State.fmWord (s : State) (h off : Nat) : Word :=
  match off with
  | 0x30C => s.withRsv (s.headId 0 (s.fmLd h)) 0xFFFFFFC0#32
  | 0x320 => s.withRsv (s.linkHeld h 0x320 0x640000).toNat 0x0000FFFF#32
  | _ => s.cfgWord 0 (s.fmLd h) off

/-- WIN_LOG2 of a decoder in a word written to VDV_ALIAS_CTL or VDV_WIN_n: kept while the decoder is committed and on a reserved value (R2). -/
def Ld.winWrite (d : Ld) (k : Nat) (old v : Word) : Word :=
  if (Tbl.look d.decoders k).isSome || decide (16 < bitsOf v 16 5) then setBits 0 16 5 (bitsOf old 16 5) else setBits 0 16 5 (bitsOf v 16 5)

/-- ALIAS_EN in a written word: the bit of a committed decoder is kept. -/
def Ld.aliasWrite (d : Ld) (old v : Word) : Word :=
  BitVec.ofNat 32 ((List.range 4).foldl (fun n k =>
    if (if (Tbl.look d.decoders k).isSome then old else v).getLsbD k then n + 2 ^ k else n) 0)

/-- Every LD of a head is in D3hot: the Kelorn takes the link to L1 as PCI-PM has it (Table 2.8), once nothing is pending for the head. (PRESUMED, unsafe, log entry 54) -/
def State.pciPmL1 (s : State) (h : Nat) : State :=
  if (s.ldsOf h).all (fun i => (s.ld? i).any (fun (d : Ld) => Tbl.lookD d.cfg 0 0x44 &&& 3#32 == 3#32)) then s.enterL1 h 0 else s

/-- The power state of an LD: D0 and D3hot are taken, and D1 and D2, which Table 2.3 does not have, leave it as it was (Table 2.8). (PRESUMED, unsafe, log entry 54) -/
def State.pmWrite (s : State) (i : Nat) (d : Ld) (v : Word) : State :=
  let k := bitsOf v 0 2
  if k = 0 ∨ k = 3 then
    (s.updLd i (fun (d : Ld) => { d with cfg := Tbl.put d.cfg 0x44 (BitVec.ofNat 32 k) })).pciPmL1 d.head
  else s

/-- What a register of an LD's configuration space holds after a write, for the registers that hold a value as it is written: command, BARs, Device Control, DVSEC control, MSI-X
control, and the vendor DVSEC's alias registers (R46, R47). -/
def Ld.cfgHeld (d : Ld) (off : Nat) (v : Word) : Option Word :=
  let old := Tbl.lookD d.cfg 0 off
  if off ∈ [4, 0x10, 0x14, 0x18, 0x1C, 0x20, 0x24, 0x58, 0x18C, 0xB0] then some v
  else if off = 0x310 then some (d.aliasWrite old v ||| d.winWrite 0 old v)
  else if off ∈ [0x314, 0x318, 0x31C] then some (d.winWrite ((off - 0x310) / 4) old v)
  else none

/-- A configuration write to the registers the model holds; others take no effect (R46, R47). In an LD of an MLD head the link registers ignore it. (PRESUMED, unsafe, log entry 54) -/
def State.cfgWrite (s : State) (i : Nat) (d : Ld) (off : Nat) (v : Word) : State :=
  let put (s : State) (o : Nat) (x : Word) : State := s.updLd i (fun (d : Ld) => { d with cfg := Tbl.put d.cfg o x })
  match d.cfgHeld off v with
  | some x =>
    let s := put s off x
    if off = 4 then (s.updLd i (fun (d : Ld) => { d with memSpace := v.getLsbD 1 })).tryActive i
    else if off = 0xB0 then (s.updLd i (fun (d : Ld) => { d with fnMask := v.getLsbD 30 })).flushMsix i
    else s
  | none =>
    if off = 0x44 then s.pmWrite i d v
    else if linkWritable off then (if s.isMld d.head then s else s.linkWrite d.head off v)
    else if off = 0x320 then put s off (v &&& 0xFFFF0000#32)
    else if off = 0x324 then s.updLd i (fun (d : Ld) => { d with lastAbrupt := v.getLsbD 3, drainPoisoned := v.getLsbD 4 })
    else s

/-- A configuration request to an LD (R46), served in the safe state too (R265): Configuration Request Retry Status while the LD is STOPPING (Table 2.9); nothing arrives while the link is down. (PRESUMED, unsafe, log entry 54) -/
def State.ldCfg (s : State) (i : LdIx) (write : Bool) (off : Nat) (v : Word) : State :=
  match s.ld? i with
  | none => s
  | some d =>
    if !s.linkUp d.head then s
    else
      let s := s.wakeLink d.head
      if d.st == .stopping then s.emit (.cfgData (.ld i) none)
      else if write then s.cfgWrite i d (off / 4 * 4) v
      else (s.emit (.cfgData (.ld i) (some (s.cfgWord i d (off / 4 * 4))))).advanceFree

/-- A configuration write to the FM-owned LD: through it, writes reach the link registers, and VDV_LINK_PM (R46); its other registers hold what is written to them. (PRESUMED, unsafe, log entry 54) -/
def State.fmWrite (s : State) (h off : Nat) (v : Word) : State :=
  let put (x : Word) : State := s.updHead h (fun (y : HeadSt) => { y with fm := Tbl.put y.fm off x })
  if linkWritable off then s.linkWrite h off v
  else if off = 0x320 then s.linkWrite h off (v &&& 0xFFFF0000#32)
  else if off = 0x44 then (if bitsOf v 0 2 = 0 ∨ bitsOf v 0 2 = 3 then put (BitVec.ofNat 32 (bitsOf v 0 2)) else s)
  else match (s.fmLd h).cfgHeld off v with
    | some x => put x
    | none => s

/-- A configuration request to the FM-owned LD of an MLD head whose link is up (R46). -/
def State.fmCfg (s : State) (h : Head) (write : Bool) (off : Nat) (v : Word) : State :=
  if !s.isMld h || !s.linkUp h then s
  else
    let s := s.wakeLink h
    let o := off / 4 * 4
    if write then s.fmWrite h o v else (s.emit (.cfgData (.fmOwned h) (some (s.fmWord h o)))).advanceFree

/-- A configuration request (R46). -/
def State.cfgAccess (s : State) (dev : CfgDev) (write : Bool) (off : Nat) (v : Word) : State :=
  match dev with
  | .ld i => s.ldCfg i write off v
  | .fmOwned h => s.fmCfg h write off v

/-- CONFIG_ACCESS (R46). -/
def execConfigAccess (dev : CfgDev) (write : Bool) (off : BitVec 12) (v : Word) (s : State) : Host.Outcome State Fault Refusal :=
  .next (s.cfgAccess dev write off.toNat v)

/-- Memory Space Enable is set (R64). -/
def State.memEnable (s : State) (i : Nat) : State :=
  match s.ld? i with
  | none => s
  | some d =>
    if s.linkUp d.head && d.st != .down && d.st != .stopping then (s.updLd i (fun (d : Ld) => { d with memSpace := true })).tryActive i else s

/-- MEMORY_SPACE_ENABLE (R64). -/
def execMemorySpaceEnable (i : LdIx) (s : State) : Host.Outcome State Fault Refusal := .next (s.memEnable i)

end Sys2Proof.Machine
end

