-- ==== Sys2Proof/Machine/Catalogue.lean ====
section
/-! DEFINITION. The Catalogue's own operations: group clears and event selects (R361, R362, R366), the sampling configuration (R367), and the
snapshot walks (R371 to R374). -/
namespace Sys2Proof.Machine

/-- The numbers of Table 16.1; every other number but 0 is reserved (R366). -/
def eventLegal (n : Nat) : Bool :=
  let b := n / 256
  let k := n % 256
  n == 0 || (b == 1 && decide (1 ≤ k ∧ k ≤ 0x0C)) || (b == 2 && decide (1 ≤ k ∧ k ≤ 4)) || (b == 3 && decide (1 ≤ k ∧ k ≤ 8))
    || (b == 4 && decide (1 ≤ k ∧ k ≤ 3)) || (b == 5 && decide (1 ≤ k ∧ k ≤ 5)) || (b == 6 && decide (1 ≤ k ∧ k ≤ 6))
    || (decide (0x10 ≤ b ∧ b ≤ 0x1F) && decide (1 ≤ k ∧ k ≤ 0x0B)) || (b == 0x20 && decide (1 ≤ k ∧ k ≤ 5)) || (b == 0x22 && decide (1 ≤ k ∧ k ≤ 2))

/-- CLEAR zeroes TICKS, the eight counters and their overflow bits, and the tick is not counted (R362). -/
def State.groupClear (s : State) (g : Nat) : State :=
  let s := (List.range 8).foldl (fun (s : State) k => s.wr (Reg.CAT_GRP_CNT_COUNT g k) 0) (s.wr (Reg.CAT_GRP_TICKS_TICKS g) 0)
  ((s.wr (Reg.CAT_GRP_CTL_OVF g) 0).setFlag (Reg.CAT_GRP_CTL_TICK_OVF g) false).holdOff (128 + g)

/-- The event select of CNTk takes a number: the counter and its overflow bit become 0, and it counts from the next tick (R362). A reserved number leaves all as it is (R366, R2). -/
def State.setEvsel (s : State) (g k n : Nat) : State :=
  if eventLegal n then
    let s := s.wr ⟨0x2200008 + 0x100 * g + 4 * (k / 2), 16 * (k % 2), 16⟩ n
    ((s.wr (Reg.CAT_GRP_CNT_COUNT g k) 0).wrBit (Reg.CAT_GRP_CTL_OVF g) k false).holdOff (8 * g + k)
  else s

/-- A write of CAT_GRP_EVSEL_g_j writes both of its selects. (DEDUCED, unsafe, log entry 58) -/
def State.evselWrite (s : State) (g j : Nat) (v : Word) : State :=
  (s.setEvsel g (2 * j) (bitsOf v 0 16)).setEvsel g (2 * j + 1) (bitsOf v 16 16)

/-- The sampling count starts again (R367). (DEDUCED, unsafe, log entry 58) -/
def State.sampRestart (s : State) : State := { s with cat := { s.cat with matched := 0 } }

/-- A write of CAT_SAMP_CTL: a reserved class is left, and a PERIOD of 0 takes 1. -/
def State.sampCtl (s : State) (v : Word) : State :=
  let s := s.wr Reg.CAT_SAMP_CTL_ENABLE (bitsOf v 0 1)
  let c := bitsOf v 8 8
  let s := if c < 64 ∨ c = 255 then s.wr Reg.CAT_SAMP_CTL_CLASS c else s
  (s.wr Reg.CAT_SAMP_CTL_PERIOD (max 1 (bitsOf v 16 16))).sampRestart

/-- A write of CAT_SAMP_HEADS. -/
def State.sampHeads (s : State) (v : Word) : State := (s.wr Reg.CAT_SAMP_HEADS_HEAD_MASK (bitsOf v 0 16)).sampRestart

/-! ### Walks -/

/-- CATALOGUE_WALK_START: a waiting walk into RECOVERY comes first and abandons a walk into LATEST; another waits for the walk in progress (R373). -/
def State.walkStart (s : State) : State :=
  match s.cat.waiting.find? (fun (w : Nat × Nat) => w.1 == 0), s.cat.busy with
  | some w, none => s.startWalk 0 w.2
  | some w, some 1 => s.abandonLatest.startWalk 0 w.2
  | some _, some _ => s
  | none, some _ => s
  | none, none => match s.cat.waiting with
    | w :: _ => s.startWalk w.1 w.2
    | [] => s

/-- CATALOGUE_WALK_START (R372). -/
def execCatalogueWalkStart (s : State) : Host.Outcome State Fault Refusal := .next s.walkStart

/-- The offset of the first word of a buffer. -/
def bufBase (b : Nat) : Nat := if b = 0 then 0x2240000 else 0x2242000

/-- The ring has shifted every station's counters into the buffer: word w of station t at 40h × t + 4h × w (R372). -/
def State.walkEnd (s : State) : State :=
  match s.cat.busy with
  | none => s
  | some b =>
    let s := (s.cat.ring.zipIdx).foldl (fun (s : State) (e : Nat × Nat) => s.setWord (bufBase b + 4 * e.2) (BitVec.ofNat 32 e.1)) s
    let s := (s.setFlag (Reg.CAT_GATHER_STATUS_BUSY b) false).setFlag (Reg.CAT_GATHER_STATUS_VALID b) true
    let s := s.inc (Reg.CAT_GATHER_STATUS_SEQ b) 1
    { s with cat := { s.cat with busy := none, ring := [] } }

/-- CATALOGUE_WALK_DONE (R372). -/
def execCatalogueWalkDone (s : State) : Host.Outcome State Fault Refusal := .next s.walkEnd

/-- TICKS of a group that counts passes its largest value (R361). -/
def State.ticksWrap (s : State) (g : Nat) : State :=
  if s.groupOn g ∧ s.rd (Reg.CAT_GRP_TICKS_TICKS g) = 2 ^ 48 - 1 then s.addTicks g 1 else s

/-- TICKS_WRAP (R361). -/
def execTicksWrap (g : Fin 16) (s : State) : Host.Outcome State Fault Refusal := .next (s.ticksWrap g)

end Sys2Proof.Machine
end

