-- ==== Sys2Proof/Machine/Reset.lean ====
section
/-! DEFINITION. Resets (R383 to R385, R393, Tables 18.1, 18.4 and 18.5) and the release of the central die up to the training of the channels (R386 to R388,
Table 18.2 steps 1 to 4; R30, R204, R205, R354, R356, R359). -/
namespace Sys2Proof.Machine

/-! ### What a reset keeps -/

/-- The bits of word i of a register that its fields of a kind occupy. -/
def wordMask (d : Reg.RegDef) (i : Nat) (p : Reg.FieldDef → Bool) : Word :=
  d.fields.foldl (fun (m : Word) (f : Reg.FieldDef) =>
    if p f ∧ f.lo < 32 * (i + 1) ∧ 32 * i < f.lo + f.w then
      let a := max f.lo (32 * i) - 32 * i
      let b := min (f.lo + f.w) (32 * (i + 1)) - 32 * i
      m ||| (BitVec.ofNat 32 (2 ^ (b - a) - 1) <<< a)
    else m) 0

/-- The bits of a register word that survive a reset: `k` is 1 for a warm and 2 for a cold reset (Table 0.5). -/
def keepMask (k off : Nat) : Word :=
  match Reg.find off with
  | none => 0
  | some (d, i) => wordMask d i (fun f => decide (k ≤ f.keep))

/-- The registers after a reset: fields that survive keep their value, every other one takes its reset value. -/
def keepRegs (k : Nat) (t : Tbl Word) : Tbl Word :=
  t.foldl (fun (u : Tbl Word) (e : Nat × Word) =>
    let m := keepMask k e.1
    Tbl.putD u (Reg.resetWord e.1) e.1 ((e.2 &&& m) ||| (Reg.resetWord e.1 &&& ~~~m))) []

/-- What a warm reset leaves of an LD (R66, R67, R370, R376, Table 18.5). (DEDUCED, unsafe, log entry 22) -/
def Ld.warm (d : Ld) : Ld :=
  { head := d.head, ldId := d.ldId, manage := d.manage, lastAbrupt := d.lastAbrupt, drainPoisoned := d.drainPoisoned, disabled := d.disabled,
    exts := (d.exts.filter (fun (e : Extent) => !e.releasing)).map (fun (e : Extent) => { e with port := true, slices := BitVec.allOnes 32 }),
    dcRegions := d.dcRegions }

/-- What a warm reset leaves of a channel: its temperature sets with the rate and the population they were trained at (R233), and the spares known to be bad (R253). (DEDUCED, unsafe, log entry 22) -/
def Dmc.warm (d : Dmc) : Dmc := { sets := d.sets, trainedRate := d.trainedRate, pop := d.pop, badSpares := d.badSpares }

/-- The stations that a warm reset keeps: 119 and 120 (R371). (DEDUCED, unsafe, log entry 25) -/
def keepStations (t : Tbl Nat) : Tbl Nat := t.filter (fun (e : Nat × Nat) => decide (119 * 16 ≤ e.1))

/-- The snapshot walks that outlive a warm reset: those into RECOVERY (R374). (DEDUCED, unsafe, log entry 22) -/
def Cat.warm (c : Cat) : Cat :=
  { stations := keepStations c.stations, waiting := c.waiting.filter (fun (w : Nat × Nat) => w.1 == 0),
    busy := if c.busy = some 0 then some 0 else none, ring := if c.busy = some 0 then c.ring else [] }

/-! ### Cold reset and standby power-up -/

/-- A boot record that was being written is left with a wrong CHECK (R355). Any cold reset interrupts the write as a loss of power does. (DEDUCED, unsafe, log entry 65) -/
def State.tearRecord (s : State) : State :=
  s.mgmt.bg.foldl (fun (s : State) (b : Bg) => match b.why with | .fwWrite k slot seq => s.putBootRecord k slot seq true | _ => s) s

/-- The central die and the memory PHY dies are held in reset, and everything but the Gatehouse, the OTP and the flash is as after a cold reset (Table 18.5). A reset that
follows a standby power-up with no release between stays one (R383). (DEDUCED, unsafe, log entry 23) -/
def State.coldReset (s : State) (kind : ResetKind) (cause : Nat) : State :=
  let standby := kind == .standby || (!s.boot.released && s.boot.kind == .standby)
  let boot : Boot := { pwrok := s.boot.pwrok, coldN := s.boot.coldN, warmN := s.boot.warmN, perst := s.boot.perst, bootLog := s.boot.bootLog,
                       kind := if standby then .standby else .cold, cause := if standby then 0 else cause }
  let regs : Tbl Word := if kind = .standby then [] else keepRegs 2 s.regs
  let gth : Gth := { s.gth with frame := none, dieDone := 0 }
  let mgmt : Mgmt := { otp := s.mgmt.otp, flash := s.tearRecord.mgmt.flash, erased := s.mgmt.erased }
  { pending := s.pending, free := s.free, out := s.out, regs := regs, boot := boot, gth := gth, mgmt := mgmt, alertN := s.alertN }

/-- MAIN_PWROK falls (R384). -/
def State.pwrokFall (s : State) : State := State.coldReset { s with boot := { s.boot with pwrok := false } } .cold 0

/-- MAIN_PWROK_FALL (R384). -/
def execMainPwrokFall (s : State) : Host.Outcome State Fault Refusal := .next s.pwrokFall

/-- COLD_RST_N has been asserted for 1 µs (R383). -/
def State.coldRst (s : State) : State := State.coldReset { s with boot := { s.boot with coldN := false } } .cold 1

/-- COLD_RST (R383). -/
def execColdRst (s : State) : Host.Outcome State Fault Refusal := .next s.coldRst

/-- The auxiliary supply rises: a standby power-up (R314, Table 18.1). -/
def State.standbyUp (s : State) : State := if s.gth.aux then s else s.auxUp.coldReset .standby 0

/-- AUX_POWER_UP (R314). -/
def execAuxPowerUp (s : State) : Host.Outcome State Fault Refusal := .next s.standbyUp

/-! ### Warm-reset entry (Table 18.4) -/

/-- Steps 1 and 2 begin: the cause is recorded and every LD is disabled in MODE. In the safe state nothing is left to quiesce (R385). A trigger during a warm reset, or
while the die is in reset, has no effect. -/
def State.warmTrigger (s : State) (cause : Nat) : State :=
  if !s.boot.released || s.boot.warmEntry then s
  else
    let s := State.wr { s with boot := { s.boot with warmEntry := true, moveDeadline := false, cause := cause } } Reg.GLB_RST_STATUS_CAUSE cause
    if s.isSafe then s
    else if s.flag Reg.GLB_RST_CTL_MODE then (Tbl.keys s.lds).foldl State.stopLd s
    else (Tbl.keys s.lds).foldl State.drainLd s

/-- WARM_RST_N has been low for 1 µs (R393). -/
def State.warmRst (s : State) : State := State.warmTrigger { s with boot := { s.boot with warmN := false } } 2

/-- WARM_RST (R393). -/
def execWarmRst (s : State) : Host.Outcome State Fault Refusal := .next s.warmRst

/-- The disables of step 2 have ended. -/
def State.disablesOver (s : State) : Bool := s.lds.all (fun (e : Nat × Ld) => e.2.st == .down || e.2.st == .ioUp)

/-- The end of step 3: every move still running aborts, and the Graft ports are taken down. -/
def State.moveDeadline (s : State) : State :=
  if s.boot.warmEntry && !s.boot.moveDeadline && s.disablesOver && !s.isSafe then
    let s := s.abortMoves.portsDown
    { s with boot := { s.boot with moveDeadline := true } }
  else s

/-- WARM_ENTRY_MOVE_DEADLINE (R146). -/
def execWarmEntryMoveDeadline (s : State) : Host.Outcome State Fault Refusal := .next s.moveDeadline

/-- The overflow of a page is brought to its end at step 4 (R189): what it still has to read and to store of the page in this Kelorn's media. -/
def State.finishLock (s : State) (k : PageLock) : State :=
  match (s.acc k.page).form with
  | .hot c fr inc =>
    let s := if k.todo.isNone then s.overflowSeal k (s.formLines (.hot c fr inc)) else s
    let todo := ((s.sec.locks.find? (fun (l : PageLock) => l.page == k.page)).bind (·.todo)).getD []
    ((todo.foldl (fun (s : State) (e : Nat × Line) => s.storeLines c (fr * 64 + e.1) [e.2]) s).flushWrites c).unlock k.page
  | _ => s.unlock k.page

/-- Every overflow that runs is brought to its end. -/
def State.finishLocks (s : State) : State := s.sec.locks.foldl State.finishLock s

/-- A buffered line is stored in its page's frame at step 4: whole, under the next minor counter of a secure page, after its overflow if that is at its maximum (R189); a line that fails its
tag is recorded (R186). A line of a page that is not in HOT is lost with the page's lease. -/
def State.flushLine (s : State) (w : WcbLine) : State :=
  let p := pageOf w.line
  let i := w.line % 64
  match (s.acc p).form with
  | .hot c fr _ => match s.guard p with
    | none => ((s.enqueueWrite c (fr * 64 + i) w.data w.be w.poison).wcbDrop w.line).flushWrites c
    | some g =>
      let (s, _) := s.ensureCtr p
      let (y, failed) := s.plainLine p i (s.lineAt c (fr * 64 + i))
      let s := if failed && w.be != BitVec.allOnes 64 then s.tagFail w.line (s.clsOf p) false else s
      let x := y.merge w.data w.be w.poison
      (((s.drainSecure { w with data := x.data, be := BitVec.allOnes 64, poison := x.poison } g c fr).finishLocks).wcbDrop w.line).flushWrites c
  | _ => s.wcbDrop w.line

/-- The dirty counter blocks of the S-space are written back. The V-space starts anew at every reset (R196). -/
def State.flushCounters (s : State) : State :=
  s.sec.cache.foldl (fun (s : State) (e : Nat × CacheBlk) =>
    let k := keyParts e.1
    if e.2.dirty && !k.1 && k.2.1 == 0 then s.store false 0 k.2.2 e.2.blk else s) s

/-- Metadata lines that are still to be written go to their channels, and the write queues drain. -/
def State.flushMeta (s : State) : State :=
  let s := s.metaDues.foldl (fun (s : State) (e : MetaKind × Nat) =>
    let a := s.metaAddr e.1 e.2
    if s.chLive a.1 then (s.enqueueMeta a.1 a.2 e.1 e.2).flushWrites a.1 else s) s
  { s with sec := { s.sec with due := [] }, place := { s.place with accDirty := [] } }

/-- Step 4: write queues and write-combining buffers drain, and counter blocks are written back. -/
def State.flushAll (s : State) : State :=
  let s := (List.range 16).foldl (fun (s : State) (c : Nat) => if s.chLive c then s.flushWrites c else s) s
  let s := s.finishLocks
  (s.path.wcb.foldl State.flushLine s).flushCounters.flushMeta

/-- Step 5: steps 2 to 5 of Table 8.7 at every DMC (R227). -/
def State.parkAll (s : State) : State :=
  (List.range 16).foldl (fun (s : State) (c : Nat) => if s.chLive c && !(s.ch c).halted then s.park c else s) s

/-- Loss entries of the V-space are cleared at every reset. -/
def State.clearVLosses (s : State) : State :=
  (List.range 64).foldl (fun (s : State) (n : Nat) =>
    if s.flag (Reg.SEC_LOSS_VALID n) ∧ s.flag (Reg.SEC_LOSS_SPACE n) then s.setDword (0x501000 + 8 * n) 0 else s) s

/-- Step 6: what the central die holds across a warm reset (Table 18.5). (DEDUCED, unsafe, log entry 22) (DEDUCED, unsafe, log entry 23) -/
def State.warmState (s : State) : State :=
  let safe := s.isSafe
  let n := s.rd Reg.GLB_RST_STATUS_WARM_COUNT
  let boot : Boot := { s.boot with warmN := s.boot.warmN, released := false, cfgLoaded := false, memActive := false, env := { spd := [] }, sweep := [], fast := [],
                                   kind := .warm, afterSafe := safe, warmEntry := false, moveDeadline := false }
  let place : Place := { acc := s.place.acc, foot := s.place.foot, chans := s.place.chans, outside := s.place.outside }
  let sec : Sec := { s.sec with cache := [], locks := [], nodeOvf := [], retire := [], gather := [], asked := [], due := [], badCopy := [] }
  let press : Press := { fails := s.press.fails }
  let mgmt : Mgmt := { otp := s.mgmt.otp, flash := s.mgmt.flash, erased := s.mgmt.erased, mld := s.mgmt.mld, logSeq := s.mgmt.logSeq }
  let gth : Gth := { s.gth with frame := none, dieDone := 0 }
  let lds := s.lds.map (fun (e : Nat × Ld) => (e.1, e.2.warm))
  let dmc := s.dmc.map (fun (e : Nat × Dmc) => (e.1, e.2.warm))
  let t : State := { pending := s.pending, free := s.free, out := s.out, regs := keepRegs 1 s.regs, boot := boot, lds := lds, regions := s.regions, media := s.media,
                     sec := sec, place := place, press := press, dmc := dmc, gth := gth, cat := s.cat.warm, mgmt := mgmt, alertN := s.alertN }
  (t.clearVLosses).wr Reg.GLB_RST_STATUS_WARM_COUNT (min 65535 (n + 1))

/-- Steps 4 to 6. After a safe state they begin at the self-refresh step (R385). The leases granted to borrowers end (R339). -/
def State.warmReset (s : State) : State :=
  let s := (s.lent.map Prod.fst).foldl State.reclaim s
  let s := if s.isSafe then s else s.flushAll
  s.parkAll.warmState

/-! ### Writes of GLB_RST_CTL -/

/-- GLB_RST_CTL takes a word: MODE is stored, and COLD and WARM act with the correct KEY. (DEDUCED, unsafe, log entry 24) -/
def State.rstCtl (s : State) (v : Word) : State :=
  let s := s.setFlag Reg.GLB_RST_CTL_MODE (v.getLsbD 2)
  if bitsOf v 16 16 ≠ 0x9640 then s
  else if v.getLsbD 1 then s.coldReset .cold 3
  else if v.getLsbD 0 then s.warmTrigger 3
  else s

/-! ### PERST -/

/-- PERSTp_N is asserted for 1 µs: the heads of the port go down (R383). -/
def State.perstOn (s : State) (p : Nat) : State :=
  let s : State := { s with boot := { s.boot with perst := s.boot.perst ||| (1#4 <<< p) } }
  [0, 1, 2, 3].foldl (fun (s : State) (k : Nat) => s.headDown (4 * p + k)) s

/-- PERST_ASSERT (R383). -/
def execPerstAssert (p : Fin 4) (s : State) : Host.Outcome State Fault Refusal := .next (s.perstOn p)

/-- PERSTp_N deasserts: the port's heads can train (R410). -/
def State.perstOff (s : State) (p : Nat) : State := { s with boot := { s.boot with perst := s.boot.perst &&& ~~~(1#4 <<< p) } }

/-- PERST_DEASSERT (R410). -/
def execPerstDeassert (p : Fin 4) (s : State) : Host.Outcome State Fault Refusal := .next (s.perstOff p)

/-! ### Release: step 1 -/

/-- A boot event enters the boot log of 16 records; the layout of a record is not in the spec, so it is a free value. -/
def State.logBoot (s : State) : State :=
  State.advanceFree { s with boot := { s.boot with bootLog := (s.boot.bootLog ++ [s.freeNow]).drop (s.boot.bootLog.length + 1 - 16) } }

/-- A boot step runs. -/
def State.phase (s : State) (n : Nat) : State := (s.wr Reg.GLB_RST_STATUS_PHASE n).logBoot

/-- OTP_STATUS as the array reads now; the generation in use is that of the settings loaded at the last cold reset. -/
def State.otpStatus (s : State) : State :=
  let gens := [0, 1, 2, 3].foldl (fun a g => if blockValid (s.settingsBlock g) g then a + 2 ^ g else a) 0
  let keys := [0, 1, 2, 3].foldl (fun a k => if keyPresent k then a + 2 ^ k else a) 0
  let rev := [0, 1, 2, 3].foldl (fun a k => if s.revoked k then a + 2 ^ k else a) 0
  let s := (s.wr Reg.OTP_STATUS_GEN_VALID gens).wr Reg.OTP_STATUS_GEN_IN_USE (setField s.boot.settings 1 1)
  ((s.setFlag Reg.OTP_STATUS_NONE_VALID (s.boot.settings == [])).wr Reg.OTP_STATUS_KEY_PRESENT keys).wr Reg.OTP_STATUS_KEY_REVOKED rev

/-- The settings the boot works with: after a cold reset those of the highest valid generation, after a warm reset those in use (R357, R359). (DEDUCED, unsafe, log entry 25) -/
def State.takeSettings (s : State) : State :=
  if s.boot.kind = .warm then s
  else
    let b := match s.bestGen with | some g => s.settingsBlock g | none => []
    { s with boot := { s.boot with settings := b } }

/-- The identity registers that the OTP factory block gives (R45). -/
def State.identity (s : State) : State :=
  let s := ((s.wr Reg.GLB_ID_PART 0x9640).wr Reg.GLB_ID_STEPPING Config.stepping.toNat).wr Reg.GLB_ID_FORMAT 1
  s.wr Reg.GLB_SERIAL_SERIAL Config.serial.toNat

/-- The identity of the running firmware. -/
def State.fwIdentity (s : State) (slot : Nat) : State :=
  let a := slotBase slot
  (s.wr Reg.GLB_FW_ID_FW_VERSION (ofBytes (s.flashBytes (a + 4) 4))).wr Reg.GLB_FW_SVN_SVN (s.flashAt (a + 1)).toNat

/-- The clocks after release: the root PLL runs at N = 48; the SerDes PLLs run from REFCLK (R29, R32). -/
def State.clocksUp (s : State) : State :=
  let s := ((s.wr Reg.GLB_CLK_STATUS_ROOT_MULT_ACTIVE 48).setFlag Reg.GLB_CLK_STATUS_ROOT_PLL_LOCKED true).setFlag Reg.GLB_CLK_STATUS_REFCLK_PRESENT true
  (s.wr Reg.GLB_CLK_STATUS_HOST_PLL_LOCKED 15).wr Reg.GLB_CLK_STATUS_GRAFT_PLL_LOCKED 3

/-- The reset sequence writes GLB_RST_STATUS. -/
def State.rstStatus (s : State) : State :=
  let k := match s.boot.kind with | .standby => 0 | .cold => 1 | .warm => 2
  let s := (s.wr Reg.GLB_RST_STATUS_LAST_KIND k).wr Reg.GLB_RST_STATUS_CAUSE s.boot.cause
  (s.setFlag Reg.GLB_RST_STATUS_AFTER_SAFE (k == 2 && s.boot.afterSafe)).setFlag Reg.GLB_RST_STATUS_FORMATTED false

/-- The outcome of the boot ROM is shown (BOOT_STATUS) and counted (station 120). -/
def State.showPick (s : State) (k : BootPick) : State :=
  let bad := (if (s.bootRecord 0).isNone then 1 else 0) + (if (s.bootRecord 1).isNone then 1 else 0)
  let s := ((s.wr Reg.BOOT_STATUS_FAIL_A k.failA).wr Reg.BOOT_STATUS_FAIL_B k.failB).setFlag Reg.BOOT_STATUS_RECORD_BAD (bad != 0)
  let s := ((s.stn 120 0).stn 120 1 ((if k.failA = 0 then 0 else 1) + (if k.failB = 0 then 0 else 1))).stn 120 2 bad
  match k.run with
  | none => s.wr Reg.BOOT_STATUS_STATE 2
  | some (slot, key) =>
    let s := ((s.wr Reg.BOOT_STATUS_STATE 1).wr Reg.BOOT_STATUS_SLOT slot).wr Reg.BOOT_STATUS_KEY key
    s.wr Reg.BOOT_STATUS_SVN (s.flashAt (slotBase slot + 1)).toNat

/-! ### Step 2 -/

/-- A setting outside its legal range is loaded with its "value 0" meaning, with the event that names its byte (R359). -/
def State.setting (s : State) (off n : Nat) (ok : Nat → Bool) (fix : Nat → Nat) : State × Nat :=
  let v := setField s.boot.settings off n
  if ok v then (s, v) else (s.raise 0x2304 off, fix v)

/-- The port splits that are legal, each port taken on its own. -/
def legalSplits (v : Nat) : Nat := [0, 1, 2, 3].foldl (fun a p => let x := v / 4 ^ p % 4; if x = 3 then a else a + x * 4 ^ p) 0

/-- Firmware loads the central-die fields of the settings in use (Table 15.18, R359). (DEDUCED, unsafe, log entry 67) -/
def State.loadSettings (s : State) : State :=
  let zero : Nat → Nat := fun _ => 0
  let (s, mult) := s.setting 2 1 (fun v => [0, 48, 56, 64, 72, 80, 88].contains v) zero
  let (s, split) := s.setting 3 1 (fun v => legalSplits v == v) legalSplits
  let (s, expK) := s.setting 5 1 (fun v => decide (v ≤ 64)) zero
  let (s, sCap) := s.setting 6 2 (fun v => decide (v ≤ 512)) zero
  let (s, vCap) := s.setting 8 1 (fun v => decide (v ≤ 32)) zero
  let b := s.boot.settings
  let s := ((s.wr Reg.GLB_CLK_CFG_ROOT_MULT mult).wr ⟨0x50, 0, 8⟩ split).wr Reg.GLB_PORT_CFG_LANE_REV (setField b 4 1)
  let s := ((s.wr Reg.CUR_CAP_CFG_EXP_K expK).wr Reg.SEC_CFG_S_CAP sCap).wr Reg.SEC_CFG_V_CAP vCap
  let s := (s.setFlag Reg.SEC_CFG_PLAIN_OK ((setField b 9 1).testBit 0)).wr Reg.GLB_GOV_CFG_PWR_LIMIT (setField b 0x0A 2)
  let s := (s.wr Reg.GFT_CFG_DEV_ID (setField b 0x0C 2)).setFlag Reg.GFT_CFG_ID_VALID ((setField b 0x0C 2).testBit 14)
  s.wr Reg.GFT_DOMAIN_TAG (setField b 0x10 4)

/-- The pairs are released with the duties of Table 1.5; those of a pair kept offline go to the next healthy one (R35, R262). Their watchdogs start. -/
def State.pairsUp (s : State) : State :=
  let s := (s.wr Reg.GLB_WDN_STATUS_HEALTHY (255 - s.rd Reg.GLB_WDN_STATUS_OFFLINE)).wr Reg.GLB_WDN_DUTY_OWNERS 0x76543210
  s.handOver

/-- A port's head k exists under a split (Table 2.2). -/
def headIn (split k : Nat) : Bool := k == 0 || (split == 1 && k == 2) || split == 2

/-- The LDs of heads that the split does not create do not exist (R38). The pages that no LD maps any longer are UNWRITTEN (R57). (DEDUCED, unsafe, log entry 84) -/
def State.dropLds (s : State) : State :=
  let gone := s.lds.filter (fun (e : Nat × Ld) => !s.headExists e.2.head)
  let s := { s with lds := s.lds.filter (fun (e : Nat × Ld) => s.headExists e.2.head) }
  let units := gone.flatMap (fun (e : Nat × Ld) => e.2.exts.flatMap (fun (x : Extent) => (List.range x.len).map (x.unit + ·)))
  let left := units.filter (fun (u : Nat) => (s.mappers u).isEmpty)
  { s with place := { s.place with acc := s.place.acc.filter (fun (e : Nat × Acc) => !left.contains (unitOfPage e.1)) } }

/-- The heads of the split in use; after a cold reset each has one SLD with the head's number as its index (Table 18.5). (DEDUCED, unsafe, log entry 67) -/
def State.makeHeads (s : State) : State :=
  let s : State := { s with boot := { s.boot with split := BitVec.ofNat 8 (s.rd ⟨0x50, 0, 8⟩) } }
  let s := (List.range 16).foldl (fun (s : State) (h : Nat) =>
    let on := headIn (s.splitOf (h / 4)) (h % 4)
    (s.setFlag (Reg.GLB_HEAD_STATUS_EXISTS h) on).wr (Reg.GLB_HEAD_STATUS_PSTATE h) (if on then 6 else 0)) s
  if s.boot.kind = .warm then s.dropLds
  else (List.range 16).foldl (fun (s : State) (h : Nat) => if s.headExists h then { s with lds := Tbl.put s.lds h ({ head := h } : Ld) } else s) s

/-- Step 2 of Table 18.2. (DESIGN CHOICE, unsafe, log entry 21) -/
def State.firmwareUp (s : State) : State :=
  let s := (s.phase 2).pairsUp
  let s := (if s.boot.kind = .warm then s else s.loadSettings).makeHeads
  let s := (s.wr Reg.GLB_DEV_DEV_ID (s.rd Reg.GFT_CFG_DEV_ID)).setFlag Reg.GLB_DEV_ID_VALID (s.flag Reg.GFT_CFG_ID_VALID)
  { s with boot := { s.boot with cfgLoaded := true } }

/-! ### Step 3 -/

/-- The population of a channel lies within Table 8.1. -/
def spdSupported (x : ChanSpd) : Bool :=
  x.bad.isNone && decide (x.dimms ≤ 2) && [16, 24, 32].contains x.density && (x.pranks == 2 || (x.pranks == 1 && !x.mrdimm)) && [1, 2, 4].contains x.height
    && decide (4800 ≤ x.rate)

/-- The highest multiplier a population permits (Table 8.2, R205): the largest of R29 within the table's limit and the SPD rate. -/
def spdLimit (x : ChanSpd) : Nat :=
  let top := if x.mrdimm && x.dimms == 1 then 88 else 64
  ([88, 80, 72, 64, 56].find? (fun n => decide (n ≤ top) && decide (100 * n ≤ x.rate))).getD 48

/-- A channel's population and timing from SPD; a population outside Table 8.1 leaves it unpopulated, with its event (R204, R206). (DESIGN CHOICE, unsafe, log entry 21) -/
def State.takeSpd (s : State) (c : Nat) (x : ChanSpd) : State :=
  if x.dimms = 0 then s
  else if !spdSupported x then s.raiseCh c 1 (x.bad.getD 0)
  else
    let hgt := match x.height with | 1 => 0 | 2 => 1 | _ => 2
    let s := ((s.setFlag (Reg.DMC_CFG_EN c) true).setFlag (Reg.DMC_CFG_TYPE c) x.mrdimm).setFlag (Reg.DMC_CFG_TWO_DPC c) (x.dimms == 2)
    let s := (s.wr (Reg.DMC_CFG_DENSITY c) ((x.density - 16) / 8)).setFlag (Reg.DMC_CFG_PRANKS c) (x.pranks == 2)
    let s := (s.wr (Reg.DMC_CFG_HEIGHT c) hgt).wr (Reg.DMC_CFG_RANK_LOG2 c) ((x.dimms - 1) + (x.pranks - 1) + hgt)
    let b := 0x1000010 + 0x80000 * c
    let s := (((s.setWord b x.timCas).setWord (b + 4) x.timRow).setWord (b + 8) x.timBank).setWord (b + 12) x.timTurn
    ((s.setWord (b + 16) x.timRef).setWord (b + 20) x.timRef2).setFlag (Reg.DMC_CFG_LOCK c) true

/-- The multiplier that runs: the one requested, or the highest permitted when that is lower or none is requested (R30). With no channel populated the root stays at 48. (DEDUCED, unsafe, log entry 24) -/
def State.chooseRate (s : State) : State :=
  let limits := (List.range 16).filterMap (fun c => if s.flag (Reg.DMC_CFG_EN c) then (s.boot.env.spd[c]?).map spdLimit else none)
  let top := match limits with | [] => 48 | l :: r => r.foldl min l
  let want := s.rd Reg.GLB_CLK_CFG_ROOT_MULT
  let n := if want = 0 then top else min want top
  let s := if n < want then s.raise 0x2301 want n else s
  s.wr Reg.GLB_CLK_STATUS_ROOT_MULT_ACTIVE n

/-- Step 3 of Table 18.2. GLB_RATE shows the rate once the root PLL has relocked (R45). -/
def State.rateUp (s : State) : State :=
  let s := s.phase 3
  let s := (s.boot.env.spd.take 16).zipIdx.foldl (fun (s : State) (e : ChanSpd × Nat) => s.takeSpd e.2 e.1) s
  let s := s.chooseRate
  let s := (s.wr Reg.GLB_RATE_RATE (100 * s.rootN)).wr Reg.GLB_CLK_STATUS_MPHY_LINK_UP 15
  if s.boot.kind = .warm then s else s.wr Reg.DIR_BI_TIMEOUT_BI_TIMEOUT (s.rd Reg.GLB_CLK_STATUS_ROOT_MULT_ACTIVE * 25000)

/-! ### Step 4 -/

/-- A channel is brought up: the fast check runs where its conditions hold, the full sweep otherwise (R233, R388). -/
def State.bringUp (s : State) (c : Nat) : State :=
  let n := s.rd Reg.GLB_CLK_STATUS_ROOT_MULT_ACTIVE
  let same := s.boot.kind == .warm && (s.ch c).trainedRate == n && (s.ch c).pop == s.population c
  if same then State.wr { s with boot := { s.boot with fast := s.boot.fast ++ [c] } } (Reg.DMC_TRN_STATUS_STATE c) 1 else s.needSweep c

/-- Step 4 begins on every populated channel that is not lost. With none, the boot goes on at once. -/
def State.trainUp (s : State) : State :=
  let s := s.phase 4
  State.bootGoesOn ((List.range 16).foldl (fun (s : State) (c : Nat) => if s.chLive c then s.bringUp c else s) s)

/-! ### CENTRAL_DIE_RELEASE -/

/-- With no valid image the boot ends in recovery mode (R356). -/
def State.recoveryMode (s : State) : State :=
  let s := (s.phase 8).wr Reg.GLB_WDN_STATUS_HEALTHY 0
  s.raise 0x2303 (s.word 0x2400004).toNat

/-- The central die is released: the boot runs to the training of the channels, or to recovery mode. Ticks are counted from here. (DESIGN CHOICE, unsafe, log entry 21) -/
def State.release (s : State) (env : BootEnv) : State :=
  let gth : Gth := { s.gth with dieDone := 0, lastFrame := 0 }
  let boot : Boot := { s.boot with pwrok := true, coldN := true, warmN := true, released := true, env := env }
  let s := State.loadTrims { s with tick := 0, gth := gth, boot := boot } 6 21
  let s := ((s.setFlag Reg.GTH_CAL_STATUS_DIE_CAL_DONE false).clocksUp.rstStatus.trigger 1 1).phase 1
  let s := s.identity.takeSettings.otpStatus
  let k := s.pickImage (setField s.boot.settings 0x0E 1)
  let s := s.showPick k
  match k.run with
  | none => s.recoveryMode
  | some (slot, _) => (s.fwIdentity slot).firmwareUp.rateUp.trainUp

/-- CENTRAL_DIE_RELEASE asks for the auxiliary supply, which feeds the Warden, and for a die that is in reset, or a warm-reset entry whose third step has ended or that follows a
safe state: its remaining steps then run first. (DESIGN CHOICE, unsafe, log entry 21) -/
def State.dieRelease (s : State) (env : BootEnv) : State :=
  if !s.gth.aux then s
  else if !s.boot.released then s.release env
  else if s.boot.warmEntry && (s.boot.moveDeadline || s.isSafe) then s.warmReset.release env
  else s

/-- CENTRAL_DIE_RELEASE (R386). -/
def execCentralDieRelease (env : BootEnv) (s : State) : Host.Outcome State Fault Refusal := .next (s.dieRelease env)

end Sys2Proof.Machine
end

