-- ==== Sys2Proof/Machine/Registers.lean ====
section
/-! DEFINITION. Accesses to the vendor space, to the MSI-X table and to the configuration space (R2, R6 to R10, R44, R59, R60): who sees which register, the
access types of Table 0.5, the 64-bit rules of R9, the counter pages (Table 16.3), and what a write of a register does beside storing it. -/
namespace Sys2Proof.Machine

/-! ### Who sees what -/

/-- What a source sees of BAR2 (R44): all of it; the identity registers and the counter page of its LD; or nothing. -/
inductive View | full | own (i : Nat) | none
deriving DecidableEq, Repr

/-- The view of a source: an LD whose host can reach its BARs, or a Docent pair in service. An MCTP endpoint has no BAR; it uses READ_REG and WRITE_REG. (DEDUCED, unsafe, log entry 17) -/
def State.view (s : State) (a : Agent) : View :=
  match a with
  | .ld i => match s.ld? i with
    | none => .none
    | some d =>
      if s.boot.released && s.linkUp d.head && d.st != .down && d.st != .stopping then (if d.manage then .full else .own i) else .none
  | .pair p => if s.boot.released && s.healthy p then .full else .none
  | .fm _ => .none

/-! ### The counter pages -/

/-- A 64-bit word of the counter page of LD i at an offset that is a multiple of 8 (Table 16.3). -/
def State.pageDword (s : State) (i k : Nat) : BitVec 64 :=
  let user := s.bit Reg.CAT_USER_EN_USER i
  if k = 0 then BitVec.ofNat 64 ((cond user 1 0) + 2 * s.rd Reg.GLB_CLK_STATUS_ROOT_MULT_ACTIVE + 256 * i + 65536)
  else if !user then 0
  else if k = 8 then BitVec.ofNat 64 s.tick
  else if k < 0x48 then BitVec.ofNat 64 (Tbl.lookD ((s.ld? i).map Ld.counters |>.getD []) 0 ((k - 0x10) / 8))
  else if 0x100 ≤ k ∧ k < 0x900 then
    let g := (k - 0x100) / 0x80
    let r := k % 0x80
    if s.flag (Reg.CAT_GRP_CTL_OWNED g) ∧ s.rd (Reg.CAT_GRP_CTL_OWNER g) = i then
      if r = 0 then (s.word (0x2200000 + 0x100 * g) &&& 0x7FC03#32).setWidth 64
      else if r = 8 then BitVec.ofNat 64 (s.rd (Reg.CAT_GRP_TICKS_TICKS g))
      else if r < 0x50 then BitVec.ofNat 64 (s.rd (Reg.CAT_GRP_CNT_COUNT g ((r - 0x10) / 8)))
      else if r < 0x60 then s.dword (0x2200008 + 0x100 * g + (r - 0x50))
      else 0
    else 0
  else 0

/-- A 32-bit word of a counter page. A page of an LD that does not exist is not occupied. -/
def State.pageWord (s : State) (i off : Nat) : Word :=
  if (s.ld? i).isNone then 0
  else ((s.pageDword i (off / 8 * 8)) >>> (8 * (off % 8))).setWidth 32

/-! ### Reading -/

/-- The channel and the offset within its block of a DMC register. -/
def dmcPlace (off : Nat) : Nat × Nat := ((off - 0x1000000) / 0x80000, (off - 0x1000000) % 0x80000)

/-- The two words of DMC_TRN_LANE_n: the set that DMC_TRN_SEL names, or the values in use. A lane of a logical rank that the channel does not have reads as 0. -/
def State.laneDword (s : State) (c n : Nat) : BitVec 64 :=
  if !s.flag (Reg.DMC_CFG_EN c) || decide (10 * s.ranks c ≤ n) then 0 else
  let k := s.rd (Reg.DMC_TRN_SEL_SET c)
  let x := if k < 8 then (s.ch c).set n k else Tbl.lookD (s.ch c).inUse {} n
  BitVec.ofNat 64 (x.rd0 % 2 ^ 8 + x.rd1 % 2 ^ 8 * 2 ^ 8 + x.rv % 2 ^ 7 * 2 ^ 16 + x.wv % 2 ^ 7 * 2 ^ 23 + x.wr0 % 2 ^ 11 * 2 ^ 32 + x.wr1 % 2 ^ 11 * 2 ^ 43)

/-- A word of a snapshot buffer: undefined while a walk fills it (R372). -/
def State.bufWord (s : State) (b off : Nat) : Word :=
  if s.flag (Reg.CAT_GATHER_STATUS_BUSY b) then s.freeNow.setWidth 32 else s.word off

/-- The current value of a register word, where it follows from other state. -/
def State.wordNow (s : State) (off : Nat) : Word :=
  if off = 0x500004 then
    let free := if s.boot.memActive then 4096 - (s.sec.keys.filter (fun (e : Nat × KeySlot) => e.2.st != .free)).length else 0
    let ret := (s.sec.keys.filter (fun (e : Nat × KeySlot) => e.2.st == .retiring)).length
    setBits (setBits (s.word off) 0 13 free) 13 5 ret
  else if off = 0x200014 then
    setBits (BitVec.ofNat 32 (min s.unshedSum (2 ^ 21 - 1))) 21 7 (s.validClasses.filter (fun c => s.flag (Reg.QOS_CLASS_CTL_SHED c))).length
  else if 0x201000 ≤ off ∧ off < 0x201800 ∧ off % 0x20 = 0x14 then
    let c := (off - 0x201000) / 0x20
    if s.flag (Reg.QOS_CLASS_CTL_VALID c) then setBits (setBits (s.word off) 17 1 (cond (s.belowFloor c) 1 0)) 18 1 (cond (s.overBudget c) 1 0)
    else s.word off
  else if 0x201000 ≤ off ∧ off < 0x201800 ∧ off % 0x20 = 0x1C then
    let c := (off - 0x201000) / 0x20
    if s.flag (Reg.QOS_CLASS_CTL_VALID c) then BitVec.ofNat 32 (min (s.effBudget c) (2 ^ 20 - 1)) else 0
  else if off = 0x300030 ∨ off = 0x300034 then s.showPool.word off
  else if off = 0x200000C then s.showLend.word off
  else if 0x1000000 ≤ off ∧ off < 0x1800000 ∧ 0x1100 ≤ (dmcPlace off).2 ∧ (dmcPlace off).2 < 0x1600 then
    ((s.laneDword (dmcPlace off).1 (((dmcPlace off).2 - 0x1100) / 8)) >>> (8 * (off % 8))).setWidth 32
  else if 0x2240000 ≤ off ∧ off < 0x2242000 then s.bufWord 0 off
  else if 0x2242000 ≤ off ∧ off < 0x2244000 then s.bufWord 1 off
  else if off = 0x2300000 then BitVec.ofNat 32 s.alertSummary
  else if off = 0x2300008 then BitVec.ofNat 32 s.dmcSummary
  else s.word off

/-- The word is GLB_HEAD_STATUS of a head that its port's split does not create (R409). -/
def State.absentHead (s : State) (off : Nat) : Bool := decide (0x80 ≤ off ∧ off < 0xC0) && !s.headExists ((off - 0x80) / 4)

/-- What a read of a register word returns: WO fields read 0 and RSV fields are undefined (Table 0.5). An offset that no register occupies reads 0 (R10), and so does the status of a head that
does not exist (R409). (DESIGN CHOICE, unsafe, log entry 18) -/
def State.peek (s : State) (off : Nat) : Word :=
  match (if s.absentHead off then none else Reg.find off) with
  | none => 0
  | some (d, i) =>
    let wo := wordMask d i (fun f => f.acc == .wo)
    let rsv := wordMask d i (fun f => f.acc == .rsv)
    (s.wordNow off &&& ~~~wo &&& ~~~rsv) ||| ((s.freeNow >>> (32 * (i % 2))).setWidth 32 &&& rsv)

/-- A 32-bit read of a register (R9): the low word of a 64-bit register captures the high word, which the next read of the high word returns and consumes. (DESIGN CHOICE, safe, log entry 3) -/
def State.regRead (s : State) (off : Nat) : State × Word :=
  match Reg.find off with
  | none => (s, 0)
  | some (d, i) =>
    let v := s.peek off
    if d.size ≠ 8 then (s.advanceFree, v)
    else if i = 0 then (State.advanceFree { s with captHigh := Tbl.put s.captHigh off (s.peek (off + 4)) }, v)
    else match Tbl.look s.captHigh (off - 4) with
      | some h => ({ s with captHigh := Tbl.del s.captHigh (off - 4) }, h)
      | none => (s.advanceFree, v)

/-- The page that an offset of the counter pages shows to a view, with the offset within it. -/
def pageOfView (v : View) (off : Nat) : Option (Nat × Nat) :=
  let k := (off - 0x3000000) / 0x1000
  if off < 0x3000000 ∨ 0x3040000 ≤ off then none
  else match v with
    | .full => some (k, off % 0x1000)
    | .own i => if k = 0 ∨ k = i then some (i, off % 0x1000) else none
    | .none => none

/-- The view covers a register offset (R44). -/
def View.covers (v : View) (off : Nat) : Bool :=
  match v with
  | .full => true
  | .own _ => decide (off < 0x40)
  | .none => false

/-- A 32-bit read of BAR2 (R6 to R10, R44). -/
def State.read32 (s : State) (v : View) (off : Nat) : State × Word :=
  if off % 4 ≠ 0 then (s, 0)
  else match pageOfView v off with
    | some (i, o) => (s, s.pageWord i o)
    | none => if v.covers off then s.regRead off else (s, 0)

/-- Discards the held low word and the captured high word of a 64-bit register (R9). -/
def State.dropHalves (s : State) (off : Nat) : State :=
  { s with heldLow := Tbl.del s.heldLow off, captHigh := Tbl.del s.captHigh off }

/-- An offset is the first word of a 64-bit register. (DESIGN CHOICE, unsafe, log entry 18) -/
def isPair (off : Nat) : Bool :=
  match Reg.find off with
  | some (d, i) => d.size == 8 && i == 0
  | none => false

/-- A 64-bit read of BAR2 (R8): atomic on a 64-bit register, else two 32-bit reads, the low word first. -/
def State.read64 (s : State) (v : View) (off : Nat) : State × BitVec 64 :=
  if off % 8 ≠ 0 then (s, 0)
  else if v.covers off && isPair off then ((s.dropHalves off).advanceFree, s.peek (off + 4) ++ s.peek off)
  else
    let (s, lo) := s.read32 v off
    let (s, hi) := s.read32 v (off + 4)
    (s, hi ++ lo)

/-! ### Writing fields -/

/-- The value a field takes for a written value x, its previous value being old (R2 and the field tables); `w` holds the register's other fields and n is ROOT_MULT_ACTIVE. (DEDUCED, unsafe, log entry 19) -/
def legalValue (l : Reg.Legal) (w : BitVec 64) (n old x : Nat) : Nat :=
  match l with
  | .any => x
  | .oneOf l => if l.contains x then x else old
  | .upTo m => if x ≤ m then x else old
  | .between a b => if a ≤ x ∧ x ≤ b then x else old
  | .clamp a b => max a (min b x)
  | .belowField lo k => min x (bitsOf w lo k - 1)
  | .atMostField lo k => min x (bitsOf w lo k)
  | .classOrAny => if x < 64 ∨ x = 255 then x else old
  | .rootClamp a b => max (a * n) (min (b * n) x)

/-- One field of a register after a write of the bits in `mask` (Table 0.5). -/
def writeField (locked : Bool) (n : Nat) (old v mask acc : BitVec 64) (f : Reg.FieldDef) : BitVec 64 :=
  let x := bitsOf ((old &&& ~~~mask) ||| (v &&& mask)) f.lo f.w
  let o := bitsOf old f.lo f.w
  match f.acc with
  | .rw => setBits acc f.lo f.w (legalValue f.legal acc n o x)
  | .rwl => if locked then acc else setBits acc f.lo f.w (legalValue f.legal acc n o x)
  | .rw1c =>
    let ones := bitsOf (v &&& mask) f.lo f.w
    if f.whole then setBits acc f.lo f.w (if ones = 0 then o else 0)
    else setBits acc f.lo f.w (bitsOf (old &&& ~~~(v &&& mask)) f.lo f.w)
  | _ => acc

/-- Every field of a register after a write. A field bounded by another follows the other's new value, so the fields are taken twice. (DEDUCED, unsafe, log entry 19) -/
def writeFields (d : Reg.RegDef) (locked : Bool) (n : Nat) (old v mask : BitVec 64) : BitVec 64 :=
  let once (a : BitVec 64) : BitVec 64 := d.fields.foldl (writeField locked n old v mask) a
  once (once old)

/-- The lock bit of a register's RWL fields is set: bit 31 of the word that its heading names. -/
def State.locked (s : State) (d : Reg.RegDef) (base : Nat) : Bool := (s.word (base - d.lock)).getLsbD 31

/-- A 32-bit register stores a written word. -/
def State.store32 (s : State) (d : Reg.RegDef) (off : Nat) (v : Word) : State :=
  s.setWord off ((writeFields d (s.locked d off) s.rootN ((s.word off).setWidth 64) (v.setWidth 64) 0xFFFFFFFF#64).setWidth 32)

/-! ### What a write does beside storing -/

/-- A write of GFT_CFG: a port that is no longer enabled goes down. -/
def State.gftCfg (s : State) (d : Reg.RegDef) (v : Word) : State :=
  let old := s.rd Reg.GFT_CFG_PORT_EN
  let s := s.store32 d 0x2000000 v
  [0, 1].foldl (fun (s : State) (g : Nat) => if old.testBit g ∧ s.bit Reg.GFT_CFG_PORT_EN g = false then s.portDown g 0 else s) s

/-- A write of CAT_GRP_CTL: CLEAR acts on the group (R362). -/
def State.grpCtl (s : State) (d : Reg.RegDef) (off : Nat) (v : Word) : State :=
  let s := s.store32 d off v
  if v.getLsbD 2 then s.groupClear ((off - 0x2200000) / 0x100) else s

/-- A write of DMC_CE_LOG_CTL: clearing FREEZE ends the reading of the log (R252). -/
def State.ceLogCtl (s : State) (d : Reg.RegDef) (off c : Nat) (v : Word) : State :=
  let was := s.flag (Reg.DMC_CE_LOG_CTL_FREEZE c)
  let s := s.store32 d off v
  if was && !v.getLsbD 6 then s.updCh c (fun (x : Dmc) => { x with unread := [] }) else s

/-- The cause bits of a register of the ALR block that events of this tick have set: a write in the tick does not clear them (R382). -/
def State.causesNow (s : State) (off : Nat) : Word :=
  if s.mgmt.raisedAt = s.tick ∧ 0x2300100 ≤ off ∧ off < 0x2300200 then
    (s.mgmt.raised.filter (fun k => 0x2300100 + 4 * (k / 256) == off)).foldl (fun v k => v ||| (1#32 <<< (k % 256))) 0
  else 0

/-- A write of a word to a 32-bit register; one of PRS_CFG retires the engines that a lower RETIRE_AT takes in (R158). `by'` is the Docent pair that writes, for GLB_WDN_KICK (R262). -/
def State.regStore (s : State) (by' : Option Nat) (d : Reg.RegDef) (off : Nat) (v : Word) : State :=
  let c := (dmcPlace off).1
  if off = 0x60 then s.rstCtl v
  else if 0x110 ≤ off ∧ off < 0x130 then (if by' = some ((off - 0x110) / 4) then s.kickDog ((off - 0x110) / 4) else s)
  else if off = 0x200020 then
    (List.range 16).foldl (fun (s : State) (c : Nat) => s.setDerate c (bitsOf v (2 * c) 2)) s
  else if off = 0x400000 then (List.range 64).foldl State.retireEngine (s.store32 d off v)
  else if 0x401000 ≤ off ∧ off < 0x401800 then (if off % 0x20 = 0x0C then s.postTail ((off - 0x401000) / 0x20) (bitsOf v 0 12) else s)
  else if 0x1000000 ≤ off ∧ off < 0x1800000 ∧ (dmcPlace off).2 = 0x40 then (s.store32 d off v).pdAllow c (BitVec.ofNat 16 (bitsOf v 16 16))
  else if 0x1000000 ≤ off ∧ off < 0x1800000 ∧ (dmcPlace off).2 = 0x44 then (s.store32 d off v).srAllow c (BitVec.ofNat 16 (bitsOf v 0 16))
  else if 0x1000000 ≤ off ∧ off < 0x1800000 ∧ (dmcPlace off).2 = 0x2500 then s.ceLogCtl d off c v
  else if off = 0x2000000 then s.gftCfg d v
  else if 0x2100000 ≤ off ∧ off < 0x2200000 then s.gthForward off v
  else if 0x2200000 ≤ off ∧ off < 0x2201000 then
    let g := (off - 0x2200000) / 0x100
    let r := off % 0x100
    if r = 0 then s.grpCtl d off v else if 8 ≤ r ∧ r < 0x18 then s.evselWrite g ((r - 8) / 4) v else s.store32 d off v
  else if off = 0x2202000 then s.sampCtl v
  else if off = 0x2202004 then s.sampHeads v
  else if off = 0x2203000 then (if v.getLsbD 0 then s.trigger 1 4 else s)
  else if 0x2300000 ≤ off ∧ off < 0x2400000 then State.alertVector s (s.store32 d off (v &&& ~~~(s.causesNow off)))
  else s.store32 d off v

/-- The bits in `mask` of a 64-bit register are written. A write of the high word of DIR_PROBE_ADDR starts a probe. -/
def State.pairStore (s : State) (d : Reg.RegDef) (off : Nat) (v mask : BitVec 64) : State :=
  let s := s.setDword off (writeFields d (s.locked d off) s.rootN (s.dword off) v mask)
  if off = 0x600010 then
    let s := s.setFlag Reg.DIR_PROBE_DATA_DONE false
    { s with dir := { s.dir with probe := some (s.rd Reg.DIR_PROBE_ADDR_LINE) } }
  else s

/-- A 32-bit write of a register (R9): the low word of a 64-bit register is held until the high word is written. -/
def State.regWrite (s : State) (by' : Option Nat) (off : Nat) (v : Word) : State :=
  match Reg.find off with
  | none => s
  | some (d, i) =>
    if d.size ≠ 8 then s.regStore by' d off v
    else if i = 0 then { s with heldLow := Tbl.put s.heldLow off v }
    else match Tbl.look s.heldLow (off - 4) with
      | some lo => State.pairStore { s with heldLow := Tbl.del s.heldLow (off - 4) } d (off - 4) (v ++ lo) (BitVec.allOnes 64)
      | none => s.pairStore d (off - 4) (v ++ 0#32) 0xFFFFFFFF00000000#64

/-- A 32-bit write of BAR2 (R7 to R10, R44): a source without MANAGE writes nothing, and the counter pages are read-only. -/
def State.write32 (s : State) (v : View) (by' : Option Nat) (off : Nat) (w : Word) : State :=
  if off % 4 = 0 ∧ v = .full ∧ off < 0x3000000 then s.regWrite by' off w else s

/-- A 64-bit write of BAR2 (R8). -/
def State.write64 (s : State) (v : View) (by' : Option Nat) (off : Nat) (w : BitVec 64) : State :=
  if off % 8 ≠ 0 then s
  else match Reg.find off with
    | some (d, i) =>
      if d.size = 8 ∧ i = 0 ∧ v = .full then (s.dropHalves off).pairStore d off w (BitVec.allOnes 64)
      else (s.write32 v by' off (w.setWidth 32)).write32 v by' (off + 4) ((w >>> 32).setWidth 32)
    | none => (s.write32 v by' off (w.setWidth 32)).write32 v by' (off + 4) ((w >>> 32).setWidth 32)

/-- The pair that a source is. -/
def pairOf (a : Agent) : Option Nat := match a with | .pair p => some p.val | _ => none

/-- A 32-bit write by a source. -/
def State.put32 (s : State) (a : Agent) (off : Nat) (v : Word) : State := s.write32 (s.view a) (pairOf a) off v

/-- A 32-bit read by a source, which gets the value. -/
def State.get32 (s : State) (a : Agent) (off : Nat) : State :=
  let r := s.read32 (s.view a) off
  if s.view a = .none then s else r.1.emit (.readData a (r.2.setWidth 64))

/-! ### BAR0: the component registers -/

/-- Interleave ways by their code in an HDM Decoder Control register (R49; the codes are CXL's). (PRESUMED, unsafe, log entry 77) -/
def iwCodes : List (Nat × Nat) := [(0, 1), (1, 2), (2, 4), (3, 8), (4, 16), (8, 3), (9, 6), (10, 12)]

/-- The code of a number of ways. -/
def iwCode (w : Nat) : Nat := ((iwCodes.find? (fun e => e.2 == w)).map Prod.fst).getD 0

/-- The registers of a decoder. -/
def Ld.dec (d : Ld) (k : Nat) : DecRegs := Tbl.lookD d.decRegs {} k

/-- A word of the HDM Decoder Capability structure at an offset within it (R49): Decoder Count 2h, A11to8 and A14to12 interleave capable, 3, 6, 12 and 16 ways; then the global
control, and each decoder's base, size, control and DPA skip. (PRESUMED, unsafe, log entry 77) -/
def Ld.hdmWord (d : Ld) (o : Nat) (free : Word) : Word :=
  if o = 0 then 0x1B02#32 ||| (free &&& 0xFFFFE4F0#32)
  else if o = 4 then (d.hdmGlobal &&& 3#32) ||| (free &&& 0xFFFFFFFC#32)
  else if o < 0x10 ∨ 0x90 ≤ o then free
  else
    let k := (o - 0x10) / 0x20
    let x := d.dec k
    let low (n : Nat) : Word := BitVec.ofNat 32 (n % 2 ^ 32 / 2 ^ 28 * 2 ^ 28) ||| (free &&& 0x0FFFFFFF#32)
    match (o - 0x10) % 0x20 / 4 with
    | 0 => low x.base
    | 1 => BitVec.ofNat 32 (x.base / 2 ^ 32)
    | 2 => low x.size
    | 3 => BitVec.ofNat 32 (x.size / 2 ^ 32)
    | 4 => BitVec.ofNat 32 (Nat.log2 (x.ig / 256) + iwCode x.iw * 2 ^ 4 + (if (Tbl.look d.decoders k).isSome then 2 ^ 9 + 2 ^ 10 else 0)
        + (if d.decErr.getLsbD k then 2 ^ 11 else 0)) ||| (free &&& 0xFFFFF100#32)
    | 5 => low x.skip
    | 6 => BitVec.ofNat 32 (x.skip / 2 ^ 32)
    | _ => free

/-- Where the HDM Decoder Capability structure begins in BAR0. (PRESUMED, unsafe, log entry 77) -/
def hdmBase : Nat := 0x1200

/-- Where the primary mailbox's registers begin in BAR0; its payload follows 20h on. (PRESUMED, unsafe, log entry 77) -/
def mboxBase : Nat := 0x10100

/-- Event Status (R376): a bit for each of the LD's logs that holds a record. -/
def Ld.eventStatus (d : Ld) : Nat := ((List.range 5).map (fun k => if Tbl.lookD d.logs [] k = [] then 0 else 2 ^ k)).sum

/-- Memory Device Status: media ready once Mem_Active is 1, and the mailbox ready while the central die is released. (PRESUMED, unsafe, log entry 77) -/
def State.memdevStatus (s : State) : Nat := (if s.boot.memActive then 4 else 0) + (if s.boot.released then 16 else 0)

/-- A word of the primary mailbox (R340): the capability with Payload Size 12 and both interrupts, on message 0 (Table 17.5), of a memory device; then control, command, status,
background status and payload. (PRESUMED, unsafe, log entry 77) -/
def Mbox.word (m : Mbox) (o : Nat) : Word :=
  match o with
  | 0x00 => BitVec.ofNat 32 (12 + 2 ^ 5 + 2 ^ 6 + 2 ^ 19)
  | 0x04 => m.ctl
  | 0x08 => m.cmd.setWidth 32
  | 0x0C => (m.cmd >>> 32).setWidth 32
  | 0x10 => m.status.setWidth 32
  | 0x14 => (m.status >>> 32).setWidth 32
  | 0x18 => m.bg.setWidth 32
  | 0x1C => (m.bg >>> 32).setWidth 32
  | _ => Tbl.lookD m.data 0 ((o - 0x20) / 4)

/-- A word of the device registers (R43, R46, R340): the capabilities array, of three: device status at 80h, the primary mailbox, and memory device status at 90h. (PRESUMED, unsafe, log entry 77) -/
def State.devWord (s : State) (d : Ld) (o : Nat) : Word :=
  match o with
  | 0x00 => 0x01010000#32
  | 0x04 => 3#32
  | 0x10 => 0x00010001#32
  | 0x14 => 0x80#32
  | 0x18 => 8#32
  | 0x20 => 0x00010002#32
  | 0x24 => BitVec.ofNat 32 (mboxBase - 0x10000)
  | 0x28 => 0x1020#32
  | 0x30 => 0x00014000#32
  | 0x34 => 0x90#32
  | 0x38 => 8#32
  | 0x80 => BitVec.ofNat 32 d.eventStatus
  | 0x90 => BitVec.ofNat 32 s.memdevStatus
  | _ => 0

/-- A word of BAR0 (R43, R46, Table 2.3): the component registers at 0h, and the device registers and mailbox at 1_0000h. The component registers beside the HDM decoders are
CXL's, and read as free values. (PRESUMED, unsafe, log entry 77) -/
def State.bar0Word (s : State) (d : Ld) (off : Nat) : Word :=
  let free := s.freeNow.setWidth 32
  if off = 0x1000 then 0x0001#32 ||| (free &&& 0xFFFF0000#32)
  else if hdmBase ≤ off ∧ off < hdmBase + 0x90 then d.hdmWord (off - hdmBase) free
  else if mboxBase ≤ off ∧ off < mboxBase + 0x1020 then d.mbox.word (off - mboxBase)
  else if 0x10000 ≤ off then s.devWord d (off - 0x10000)
  else free

/-- A word of the mailbox is written: control at any time but for a doorbell that is set, which software cannot clear; command and payload only while the doorbell is clear. (PRESUMED, unsafe, log entry 77) -/
def Mbox.take (m : Mbox) (o : Nat) (v : Word) : Mbox :=
  if o = 4 then { m with ctl := (v &&& 7#32) ||| (m.ctl &&& 1#32) }
  else if m.ctl.getLsbD 0 then m
  else if o = 8 then { m with cmd := BitVec.ofNat 64 (m.cmd.toNat / 2 ^ 32 * 2 ^ 32 + v.toNat) }
  else if o = 0xC then { m with cmd := BitVec.ofNat 64 (m.cmd.toNat % 2 ^ 32 + v.toNat % 32 * 2 ^ 32) }
  else if 0x20 ≤ o then { m with data := Tbl.putD m.data 0 ((o - 0x20) / 4) v }
  else m

/-- The registers of an uncommitted decoder take a written word: 0 base low to 6 skip high. A reserved code of ways or granularity leaves the field as it was (R2). (PRESUMED, unsafe, log entry 77) -/
def DecRegs.take (x : DecRegs) (r : Nat) (v : Word) : DecRegs :=
  let low (n : Nat) : Nat := n / 2 ^ 32 * 2 ^ 32 + v.toNat / 2 ^ 28 * 2 ^ 28
  let high (n : Nat) : Nat := n % 2 ^ 32 + v.toNat * 2 ^ 32
  match r with
  | 0 => { x with base := low x.base }
  | 1 => { x with base := high x.base }
  | 2 => { x with size := low x.size }
  | 3 => { x with size := high x.size }
  | 4 => { x with ig := if bitsOf v 0 4 ≤ 6 then 256 * 2 ^ bitsOf v 0 4 else x.ig,
                  iw := ((iwCodes.find? (fun e => e.1 == bitsOf v 4 4)).map Prod.snd).getD x.iw }
  | 5 => { x with skip := low x.skip }
  | 6 => { x with skip := high x.skip }
  | _ => x

/-- A 32-bit write of BAR0 (R43, R50, R340): an HDM decoder's registers take it while the decoder is not committed, and Commit in its control runs the checks; the mailbox's take it. Other
words take no effect here. (PRESUMED, unsafe, log entry 77) -/
def State.bar0Write (s : State) (i off : Nat) (v : Word) : State :=
  match s.ld? i with
  | none => s
  | some d =>
    if mboxBase ≤ off ∧ off < mboxBase + 0x1020 ∧ off % 4 = 0 then s.updLd i (fun (d : Ld) => { d with mbox := d.mbox.take (off - mboxBase) v })
    else if off = hdmBase + 4 then s.updLd i (fun (d : Ld) => { d with hdmGlobal := v &&& 3#32 })
    else if off < hdmBase + 0x10 ∨ hdmBase + 0x90 ≤ off ∨ off % 4 ≠ 0 then s
    else
      let k := (off - hdmBase - 0x10) / 0x20
      let r := (off - hdmBase - 0x10) % 0x20 / 4
      if (Tbl.look d.decoders k).isSome then s
      else
        let x := (d.dec k).take r v
        if r = 4 ∧ v.getLsbD 9 = true then s.commit i k x.base x.size x.skip x.iw x.ig
        else s.updLd i (fun (d : Ld) => { d with decRegs := Tbl.putD d.decRegs {} k x })

/-! ### BAR4 and the configuration space -/

/-- A word of BAR4 (R59): the MSI-X table, and the pending-bit array, whose bits above 31 read 0. Bits [31:1] of Vector Control are reserved. -/
def State.bar4Word (s : State) (d : Ld) (off : Nat) : Word :=
  let e := Tbl.lookD d.msix {} (off / 16)
  if off < 0x200 then
    match off % 16 / 4 with
    | 0 => e.addr.setWidth 32
    | 1 => (e.addr >>> 32).setWidth 32
    | 2 => e.data
    | _ => s.withRsv e.mask.toNat 0xFFFFFFFE#32
  else if off = 0x1000 then d.pba else 0

/-- A 32-bit write of the MSI-X table at BAR4 (R59, R60): address, data and mask of a vector; unmasking one that is pending sends its message. The pending bits are read-only. -/
def State.bar4Write (s : State) (i off : Nat) (v : Word) : State :=
  if off % 4 ≠ 0 ∨ 0x200 ≤ off then s
  else
    let k := off / 16
    let s := s.updLd i (fun (d : Ld) =>
      let e := Tbl.lookD d.msix {} k
      let e : MsixVec := match off % 16 / 4 with
        | 0 => { e with addr := BitVec.ofNat 64 (setBits e.addr 0 32 (v.toNat / 4 * 4)).toNat }
        | 1 => { e with addr := setBits e.addr 32 32 v.toNat }
        | 2 => { e with data := v }
        | _ => { e with mask := v.getLsbD 0 }
      { d with msix := Tbl.putD d.msix {} k e })
    s.flushMsix i

/-- A write to a configuration register of an LD: up to four bytes within one word. (DEDUCED, unsafe, log entry 19) -/
def State.configWrite (s : State) (i : LdIx) (off size : Nat) (v : BitVec 64) : State :=
  match s.ld? i with
  | none => s
  | some d =>
    if size = 0 ∨ 4 < off % 4 + size ∨ 4096 ≤ off then s
    else s.cfgAccess (.ld i) true off (setBits (s.cfgWord i d (off / 4 * 4)) (8 * (off % 4)) (8 * size) v.toNat)

/-! ### The commands -/

/-- A 32-bit write, or an aligned 64-bit write as two, the low word first. -/
def writeWords (put : Nat → Word → State → State) (off size : Nat) (v : BitVec 64) (s : State) : State :=
  if size = 4 then put off (v.setWidth 32) s
  else if size = 8 ∧ off % 8 = 0 then put (off + 4) ((v >>> 32).setWidth 32) (put off (v.setWidth 32) s)
  else s

/-- A register write of any size (R7, R10). (DEDUCED, unsafe, log entry 17) -/
def State.regAccess (s : State) (a : Agent) (sp : Space) (off size : Nat) (v : BitVec 64) : State :=
  match sp with
  | .bar0 => match a with
    | .ld i => if s.view a = .none then s else writeWords (fun o w s => s.bar0Write i o w) off size v s
    | _ => s
  | .bar2 => if size = 4 then s.put32 a off (v.setWidth 32) else if size = 8 then s.write64 (s.view a) (pairOf a) off v else s
  | .bar4 => match a with
    | .ld i => if s.view a = .none then s else writeWords (fun o w s => s.bar4Write i o w) off size v s
    | _ => s
  | .config => match a with
    | .ld i => s.configWrite i off size v
    | _ => s

/-- A 64-bit access (R8). -/
def State.access64 (s : State) (a : Agent) (write : Bool) (off : Nat) (v : BitVec 64) : State :=
  if write then s.write64 (s.view a) (pairOf a) off v
  else
    let r := s.read64 (s.view a) off
    if s.view a = .none then s else r.1.emit (.readData a r.2)

/-- ACCESS_64BIT (R8). -/
def execAccess64 (a : Agent) (write : Bool) (off : BitVec 26) (v : BitVec 64) (s : State) : Host.Outcome State Fault Refusal :=
  .next ((s.crossLink a).access64 a write off.toNat v)

/-- The bytes that a read of 1, 2, 4 or 8 bytes finds in words. -/
def readWords (get : Nat → Word) (off size : Nat) : BitVec 64 :=
  let w := get (off / 4 * 4)
  if size = 8 then get (off / 4 * 4 + 4) ++ w else BitVec.ofNat 64 (bitsOf w (8 * (off % 4)) (8 * size))

/-- A read of BAR0 or BAR4 by an LD's host: up to 4 bytes within a word, or an aligned 8. (PRESUMED, unsafe, log entry 77) -/
def State.barRead (s : State) (a : Agent) (bar4 : Bool) (off size : Nat) : State :=
  match a with
  | .ld i => match s.ld? i with
    | none => s
    | some d =>
      if s.view a = .none ∨ off % size ≠ 0 then s
      else (s.emit (.readData a (readWords (fun o => if bar4 then s.bar4Word d o else s.bar0Word d o) off size))).advanceFree
  | _ => s

/-- A register read of any size (R9, R10): of BAR2, one narrower than 32 bits returns 0. -/
def State.regGet (s : State) (a : Agent) (sp : Space) (off size : Nat) : State :=
  match sp with
  | .bar0 => s.barRead a false off size
  | .bar2 =>
    if size = 4 then s.get32 a off
    else if size = 8 then s.access64 a false off 0
    else if s.view a = .none then s else s.emit (.readData a 0)
  | .bar4 => s.barRead a true off size
  | .config => match a with
    | .ld i => s.cfgAccess (.ld i) false off 0
    | _ => s

/-- LOW_WORD_WRITE (R9). -/
def execLowWordWrite (a : Agent) (off : BitVec 26) (v : Word) (s : State) : Host.Outcome State Fault Refusal := .next ((s.crossLink a).put32 a off.toNat v)

/-- HIGH_WORD_WRITE (R9). -/
def execHighWordWrite (a : Agent) (off : BitVec 26) (v : Word) (s : State) : Host.Outcome State Fault Refusal := .next ((s.crossLink a).put32 a off.toNat v)

/-- LOW_WORD_READ (R9), and a register read of any other size (R10). -/
def execLowWordRead (a : Agent) (sp : Space) (off : BitVec 26) (size : Nat) (s : State) : Host.Outcome State Fault Refusal :=
  .next ((s.crossLink a).regGet a sp off.toNat size)

/-- HIGH_WORD_READ (R9). -/
def execHighWordRead (a : Agent) (off : BitVec 26) (s : State) : Host.Outcome State Fault Refusal := .next ((s.crossLink a).get32 a off.toNat)

/-- DIR_PROBE_START (R22): a write of the high word of DIR_PROBE_ADDR. -/
def execDirProbeStart (a : Agent) (hi : Word) (s : State) : Host.Outcome State Fault Refusal := .next ((s.crossLink a).put32 a 0x600014 hi)

/-- PRS_Q_TAIL_WRITE (R172). -/
def execPrsQTailWrite (a : Agent) (q : Fin 64) (v : Word) (s : State) : Host.Outcome State Fault Refusal :=
  .next ((s.crossLink a).put32 a (0x40100C + 0x20 * q.val) v)

/-- GTH_REGISTER_WRITE (R316). -/
def execGthRegisterWrite (a : Agent) (off : BitVec 26) (v : Word) (s : State) : Host.Outcome State Fault Refusal :=
  .next (if 0x2100000 ≤ off.toNat ∧ off.toNat < 0x2200000 then (s.crossLink a).put32 a off.toNat v else s)

/-- CAT_GROUP_CLEAR (R362): CAT_GRP_CTL is written with CLEAR and its other fields as they are. -/
def execCatGroupClear (a : Agent) (g : Fin 16) (s : State) : Host.Outcome State Fault Refusal :=
  .next ((s.crossLink a).put32 a (0x2200000 + 0x100 * g.val) ((((s.crossLink a).word (0x2200000 + 0x100 * g.val)) &&& 0x3FB#32) ||| 4#32))

/-- CAT_EVSEL_WRITE (R362). -/
def execCatEvselWrite (a : Agent) (g : Fin 16) (j : Fin 4) (v : Word) (s : State) : Host.Outcome State Fault Refusal :=
  .next ((s.crossLink a).put32 a (0x2200008 + 0x100 * g.val + 4 * j.val) v)

/-- CAT_SAMP_CONFIG_WRITE (R367): CAT_SAMP_CTL, or CAT_SAMP_HEADS. -/
def execCatSampConfigWrite (a : Agent) (heads : Bool) (v : Word) (s : State) : Host.Outcome State Fault Refusal :=
  .next ((s.crossLink a).put32 a (if heads then 0x2202004 else 0x2202000) v)

/-- CAT_GATHER_START (R373). -/
def execCatGatherStart (a : Agent) (s : State) : Host.Outcome State Fault Refusal := .next ((s.crossLink a).put32 a 0x2203000 1)

/-- ALR_CAUSE_CLEAR (R382). -/
def execAlrCauseClear (a : Agent) (blk : BitVec 8) (v : Word) (s : State) : Host.Outcome State Fault Refusal :=
  .next (if blk.toNat < 0x40 then (s.crossLink a).put32 a (0x2300100 + 4 * blk.toNat) v else s)

/-- GLB_RST_COLD (R383). -/
def execGlbRstCold (a : Agent) (v : Word) (s : State) : Host.Outcome State Fault Refusal := .next ((s.crossLink a).put32 a 0x60 v)

/-- GLB_RST_WARM (R393). -/
def execGlbRstWarm (a : Agent) (v : Word) (s : State) : Host.Outcome State Fault Refusal := .next ((s.crossLink a).put32 a 0x60 v)

end Sys2Proof.Machine
end

