-- ==== Sys2Proof/Machine/Events.lean ====
section
/-! DEFINITION. Firmware's part of event handling (R375 to R377, R380): the LDs an event concerns, the records of their CXL event logs and the vectors these
signal; and ALERT_N (R381). -/
namespace Sys2Proof.Machine

/-! ### Whom an event concerns (Table 17.1) -/

/-- The pages of DPA that ARG0 of an event with route A names, as first page and number of pages (Tables 17.1 and 17.3): a line's page, a page, a range, or a region; none where it names no DPA
(Table 17.6). -/
def State.eventPages (s : State) (code arg0 arg1 : Nat) : Option (Nat × Nat) :=
  let line := arg0 % 2 ^ 39 / 64
  if 0x1000 ≤ code ∧ code < 0x2000 then (if arg0.testBit 63 then some (line, 1) else none)
  else if code = 0x0501 ∨ code = 0x0601 then some (line, 1)
  else if code = 0x0502 then some (arg0 / 4096, 65536 * ((Tbl.look s.regions arg1).map (·.len)).getD 1)
  else if code = 0x0504 ∨ code = 0x0505 then some (arg0, (lossLen (arg1.testBit 1) (arg1 / 4 % 8) + 7) / 8)
  else some (arg0, 1)

/-- An LD's extent map covers part of a range of pages. -/
def Ld.maps (d : Ld) (p n : Nat) : Bool :=
  d.exts.any (fun (e : Extent) => decide (e.unit * 65536 < p + n ∧ p < (e.unit + e.len) * 65536))

/-- An event concerns an LD (Table 17.1). LDs with MANAGE are concerned by every event. (DEDUCED, unsafe, log entry 66) -/
def State.concerns (s : State) (code arg0 arg1 : Nat) (i : Nat) (d : Ld) : Bool :=
  d.manage || match (evInfo code arg0).2 with
    | .d => false
    | .a => (match s.eventPages code arg0 arg1 with | some (p, n) => d.maps p n | none => false)
    | .h => d.head == arg0
    | .l => i == arg0
    | .c => (s.headClasses d.head).contains arg0
    | .e => true

/-! ### The logs of an LD -/

/-- The handle after one: 0 is not used. -/
def nextHandleOf (h : Nat) : Nat := if 65535 ≤ h then 1 else h + 1

/-- The timestamp of an LD in ns: it runs from the value set, a tick being 80 / N ns; 0 until it is set. -/
def State.ldTime (s : State) (d : Ld) : Nat := if d.timestamp = 0 then 0 else d.timestamp + (s.tick - d.tsAt) * 80 / s.rootN

/-- A record enters a log of an LD, 0 to 3 by severity and 4 for Dynamic Capacity: a full log drops and counts it; a log in MSI-X mode signals its vector (R376, R380). -/
def State.addRecord (s : State) (i log : Nat) (b : EvBody) : State :=
  match s.ld? i with
  | none => s
  | some d =>
    let l := Tbl.lookD d.logs [] log
    if 64 ≤ l.length then s.updLd i (fun (d : Ld) => { d with logOvf := Tbl.upd d.logOvf 0 log (· + 1) })
    else
      let r : EvRec := { handle := d.nextHandle, time := s.ldTime d, body := b }
      let s := s.updLd i (fun (d : Ld) => { d with logs := Tbl.put d.logs log (l ++ [r]), nextHandle := nextHandleOf d.nextHandle })
      if Tbl.lookD d.policy 0 log = 1 then s.msix i (log + 1) else s

/-- The 256-bit image of a device-log entry (Table 17.4). -/
def State.logImage (s : State) (e : Nat) : BitVec 256 :=
  let b := logBase e
  s.dword (b + 24) ++ s.dword (b + 16) ++ s.dword (b + 8) ++ s.dword b

/-- Firmware copies a device-log entry that is new into the logs of the LDs it concerns, while the pair that holds duty 0 is healthy; none in the safe state (R377). (DEDUCED, unsafe, log entry 66) -/
def State.ldRecord (s : State) (e : Nat) : State :=
  if !s.mgmt.logNew.contains e || s.isSafe || !s.boot.released || !s.dutyUp 0 then s
  else
    let code := s.rd (Reg.ALR_LOG_CODE e)
    let arg0 := s.rd (Reg.ALR_LOG_ARG0 e)
    let arg1 := s.rd (Reg.ALR_LOG_ARG1 e)
    let sev := s.rd (Reg.ALR_LOG_SEV e)
    let image := s.logImage e
    let s : State := { s with mgmt := { s.mgmt with logNew := s.mgmt.logNew.filter (· != e) } }
    s.lds.foldl (fun (t : State) (x : Nat × Ld) => if s.concerns code arg0 arg1 x.1 x.2 then t.addRecord x.1 sev (.vendor image) else t) s

/-- EVENT_LD_RECORD (R377). -/
def execEventLdRecord (entry : Fin 1024) (s : State) : Host.Outcome State Fault Refusal := .next (s.ldRecord entry)

/-! ### ALERT_N -/

/-- ALERT_N takes the level that the summary asks for (R381). -/
def State.alertPin (s : State) : State :=
  if s.alertN = s.alertLevel then s else State.emit { s with alertN := s.alertLevel } (.alertN s.alertLevel)

/-- ALERT_N_UPDATE (R381). -/
def execAlertNUpdate (s : State) : Host.Outcome State Fault Refusal := .next s.alertPin

end Sys2Proof.Machine
end

