-- ==== Sys2Proof/Machine/Mailbox.lean ====
section
/-! DEFINITION. The interpreter of commands (R340 to R349): who may send one, the order of its checks, replay records, background commands,
and the reply. A command's own checks and commit are given by an `Ans`; `State.command` puts them into the interpreter. -/
namespace Sys2Proof.Machine

/-! ### Return codes -/

/-- Return codes of CXL 3.1 that the spec names (the numbers are the standard's; PRESUMED, unsafe, log entry 9). -/
def rcStarted : Nat := 0x0001
/-- Invalid Input. -/
def rcInput : Nat := 0x0002
def rcUnsupported : Nat := 0x0003
def rcBusy : Nat := 0x0006
def rcHandle : Nat := 0x000E
def rcLength : Nat := 0x0016
def rcLog : Nat := 0x0017
def rcResources : Nat := 0x001D
def rcExtentList : Nat := 0x001E

/-! ### What a command's own checks and commit lead to -/

/-- The outcome of a command's own part (R346, R347): refused by a check; committed, with its reply; started as a background command; or committed
with the reply to follow. -/
inductive Ans
  | fail (rc detail value : Nat)
  | done (s : State) (rc : Nat) (body : List Byte)
  | started (s : State) (why : BgWhy)
  | later (s : State)

/-- A check: when it is bad, the command completes with a return code, DETAIL and VALUE (Table 15.3). -/
structure Chk where
  bad : Bool
  rc  : Nat
  at' : Nat := 0
  val : Nat := 0

/-- The checks are made in their order, and the first bad one refuses the command (R347). -/
def Ans.after : List Chk → Ans → Ans
  | [], a => a
  | c :: cs, a => if c.bad then .fail c.rc c.at' c.val else Ans.after cs a

/-- Access classes (R342). -/
inductive CmdClass | u | m | f
deriving DecidableEq, Repr

/-- What the interpreter knows of an opcode: its class, whether it changes state (R345), whether it is a background command, whether the boot ROM serves
it (R356), whether its packets carry the header of Table 15.2, whether it names the LD that LD_INDEX gives, and whether an object it would
change is being changed by a background command (R346). -/
structure CmdOp where
  code    : Nat
  cls     : CmdClass
  changes : Bool := false
  bg      : Bool := false
  rom     : Bool := false
  ycs     : Bool := true
  namesLd : Bool := false
  busy    : Bool := false

/-! ### Sources -/

/-- A packet of a source reaches the interpreter: a mailbox of an LD whose link is up, or an MCTP endpoint, while the die is released. Nothing is
interpreted in the safe state. (DEDUCED, unsafe, log entry 59) -/
def State.hears (s : State) (a : Agent) : Bool :=
  s.boot.released && !s.isSafe && match a with
  | .ld i => (match s.ld? i with
    | some d => s.linkUp d.head && d.st != .down && d.st != .stopping
    | none => false)
  | .fm _ => true
  | .pair _ => false

/-- The boot ROM runs for want of a valid image (R356). -/
def State.inRom (s : State) : Bool := s.rd Reg.BOOT_STATUS_STATE == 2

/-- A source's class admits a command (R342). (DEDUCED, unsafe, log entry 37) (DEDUCED, unsafe, log entry 40) -/
def State.admits (s : State) (a : Agent) (c : CmdClass) : Bool :=
  match a, c with
  | .fm _, _ => true
  | .ld _, .u => true
  | .ld i, .m => (s.ld? i).any (fun (d : Ld) => d.manage)
  | _, _ => false

/-- The LD a command names: the issuing LD, or the one that the Fabric Manager gives ahead of the parameters. -/
def hdrOwn (h : Hdr) : Option Nat :=
  match h.src with
  | .ld i => some i.val
  | _ => h.ldIx.map (fun (x : BitVec 8) => x.toNat)

/-- The position of a parameter in the payload, from 1: LD_INDEX takes the first when it is given (Table 15.3). -/
def hdrAt (h : Hdr) (n : Nat) : Nat := if h.ldIx.isSome then n + 1 else n

/-- LD_INDEX stands ahead of the parameters exactly when the Fabric Manager issues a command that names an LD. -/
def hdrLdFits (h : Hdr) (namesLd : Bool) : Bool :=
  match h.src with
  | .ld _ => h.ldIx.isNone
  | _ => h.ldIx.isSome == namesLd

/-- The source is the Fabric Manager. -/
def hdrIsFm (h : Hdr) : Bool := match h.src with | .fm _ => true | _ => false

/-! ### Records and replies -/

/-- The recorded reply of an earlier request of the source with the same opcode and REQ_ID (R345). (DEDUCED, unsafe, log entry 40) -/
def State.recorded (s : State) (h : Hdr) (o : CmdOp) : Option ReplayRec :=
  if o.ycs && h.reqId != 0 then s.mgmt.replays.find? (fun (r : ReplayRec) => r.src == h.src && r.opcode == o.code && r.reqId == h.reqId) else none

/-- A reply to a command. -/
def State.answer (s : State) (h : Hdr) (o : CmdOp) (rc detail value : Nat) (body : List Byte) : State :=
  s.sendReply h.src o.code (if o.ycs then h.reqId else 0) rc detail value body

/-- A command that has run is answered and recorded: one that changed state (R345). -/
def State.conclude (s : State) (h : Hdr) (o : CmdOp) (a : Ans) : State :=
  match a with
  | .fail rc d v => s.answer h o rc d v []
  | .done t rc body =>
    let t := if o.changes && o.ycs then
        t.recordReply { src := h.src, opcode := o.code, reqId := h.reqId, rc := rc, detail := 0, value := 0, body := body } else t
    t.answer h o rc 0 0 body
  | .started t why =>
    let b : Bg := { src := h.src, opcode := o.code, reqId := if o.ycs then h.reqId else 0, why := why }
    State.answer { t with mgmt := { t.mgmt with bg := t.mgmt.bg ++ [b] } } h o rcStarted 0 0 []
  | .later t => t

/-- A foreground command is in progress: SET_PORT_WIDTH, which is answered when its change ends (R346). -/
def State.widthWaits (s : State) : Bool := (List.range 2).any (fun g => (s.gp g).cmdWidth.any (fun (c : WidthCmd) => !c.silent))

/-- A command that arrives waits, behind one in progress and those that wait already (R346). -/
def State.interpreting (s : State) : Bool := s.widthWaits || !s.mgmt.held.isEmpty

/-- A packet reaches the interpreter: class, boot ROM, record, length and header, the one background command of a source, and objects in change come
ahead of the command's own checks (R342 to R347, R356). While a foreground command is in progress the packet waits. With the pair that holds duty 0 failed, it completes with INTERRUPTED. (DEDUCED, unsafe, log entry 40) DETAIL of a wrong length is the first field at
fault, and 0 for the header's reserved bits, which no parameter holds. (DEDUCED, unsafe, log entry 41) -/
def State.command (s : State) (args : List Byte) (h : Hdr) (o : CmdOp) (run : Ans) : State :=
  if !s.hears h.src then s
  else if s.interpreting then { s with mgmt := { s.mgmt with held := s.mgmt.held ++ [{ h := h, op := o.code, args := args }] } }
  else if !s.inRom && !s.dutyUp 0 then s.answer h o 0x8006 0 0 []
  else if !s.admits h.src o.cls then s.answer h o 0x8001 0 0 []
  else if s.inRom && !o.rom then s.answer h o 0x8012 0 0 []
  else match s.recorded h o with
    | some r => s.answer h o r.rc r.detail r.value r.body
    | none =>
      if let some n := h.lenBad then s.answer h o rcLength n.toNat 0 []
      else if o.ycs && h.rsv != 0 then s.answer h o rcInput 0 0 []
      else if o.ycs && !hdrLdFits h o.namesLd then s.answer h o rcLength 1 0 []
      else if o.bg && (s.bgOf h.src).isSome then s.answer h o rcBusy 0 0 []
      else if o.busy then s.answer h o 0x8003 0 0 []
      else s.conclude h o run

/-! ### Objects that background commands change (R346) -/

/-- A background command disables an LD. -/
def State.ldInChange (s : State) (i : Nat) : Bool :=
  s.mgmt.bg.any (fun (b : Bg) => match b.why with | .disable lds _ => lds.contains i | _ => false)

/-- A background command sanitises a page of a range. -/
def State.pagesInChange (s : State) (first last : Nat) : Bool :=
  s.mgmt.bg.any (fun (b : Bg) => match b.why with
    | .sanitize rs => rs.any (fun (r : Nat × Nat) => decide (r.1 ≤ last ∧ first ≤ r.2))
    | _ => false)

/-- A background command verifies the inactive firmware slot, or writes the boot record that names it. -/
def State.fwInChange (s : State) : Bool := s.mgmt.bg.any (fun (b : Bg) => match b.why with | .fwCommit => true | .fwWrite .. => true | _ => false)

/-! ### Bytes of replies -/

/-- A register word as a reply carries it: reserved bits read as free values. -/
def State.word4 (s : State) (off : Nat) : List Byte := leBytes 4 (s.peek off).toNat

/-- A 64-bit register as a reply carries it. -/
def State.word8 (s : State) (off : Nat) : List Byte := s.word4 off ++ s.word4 (off + 4)

/-- A register word with a field set to a parameter taken at its full width: a value too large for the field stands for the field's largest value, and the register's
own limits apply at its write (R344). -/
def withField (w : Word) (f : Reg.Fld) (x : Nat) : Word := setBits w f.lo f.w (min x (2 ^ f.w - 1))

/-- A command's write of a register, by the rules of its field table. -/
def State.writeReg (s : State) (off : Nat) (w : Word) : State := s.write32 .full none off w

/-- The k-th of the next free values. -/
def State.freeAt (s : State) (k : Nat) : BitVec 64 := Config.freeWord (s.free + k)

/-- Passes over n free values. -/
def State.skipFree (s : State) (n : Nat) : State := { s with free := s.free + n }

/-! ### Commands of the interpreter itself -/

/-- An opcode that no table lists, or a standard command that is not supported (R343, R349). -/
def State.unsupported (s : State) (args : List Byte) (h : Hdr) (opcode : Nat) : State :=
  s.command args { h with lenBad := none, rsv := 0, ldIx := none } { code := opcode, cls := .u } (.fail rcUnsupported 0 0)

/-- UNSUPPORTED_OPCODE (R349). -/
def execUnsupportedOpcode (h : Hdr) (opcode : BitVec 16) (s : State) : Host.Outcome State Fault Refusal := .next (s.unsupported [] h opcode.toNat)

end Sys2Proof.Machine
end

