-- ==== Sys2Proof/Machine/Control.lean ====
section
/-! DEFINITION. The C0 commands (Table 15.5): identity, OTP settings, locks, heads, logical devices and their static capacity. -/
namespace Sys2Proof.Machine

/-! ### Identity and OTP (R45, R357, R358) -/

/-- The values of the identity registers, in the order of GET_IDENTITY. -/
def State.identityBody (s : State) : List Byte :=
  leBytes 2 (s.rd Reg.GLB_ID_PART) ++ leBytes 1 (s.rd Reg.GLB_ID_STEPPING) ++ leBytes 1 (s.rd Reg.GLB_FW_SVN_SVN) ++ leBytes 4 (s.rd Reg.GLB_FW_ID_FW_VERSION)
    ++ leBytes 8 (s.rd Reg.GLB_SERIAL_SERIAL) ++ leBytes 2 (s.rd Reg.GLB_DEV_DEV_ID) ++ leBytes 4 (s.rd Reg.GLB_CAP_RAW_RAW_MIB)
    ++ leBytes 4 (s.rd Reg.GLB_CAP_H_H_MIB) ++ leBytes 1 (s.rd Reg.GLB_RATE_EXP_K) ++ leBytes 2 (s.rd Reg.GLB_RATE_RATE)

/-- GET_IDENTITY (R45). -/
def execGetIdentity (h : Hdr) (s : State) : Host.Outcome State Fault Refusal :=
  .next (s.command [] h { code := 0xC000, cls := .u, rom := true } (.done s 0 s.identityBody))

/-- The reply of GET_SETTINGS: a generation's block, or with FFh the one that the central die loaded (R359). -/
def State.settingsBody (s : State) (gen : Nat) : List Byte :=
  if gen = 0xFF then
    leBytes 1 (if s.boot.settings = [] then 0 else 1) ++ leBytes 1 (setField s.boot.settings 1 1)
      ++ (if s.boot.settings = [] then List.replicate 256 0 else s.boot.settings)
  else leBytes 1 (if blockValid (s.settingsBlock gen) gen then 1 else 0) ++ leBytes 1 gen ++ s.settingsBlock gen

/-- GET_SETTINGS (R357). -/
def execGetSettings (h : Hdr) (gen : BitVec 8) (s : State) : Host.Outcome State Fault Refusal :=
  .next (s.command (leBytes 1 gen.toNat) h { code := 0xC001, cls := .m }
    (Ans.after [{ bad := decide (3 < gen.toNat ∧ gen ≠ 0xFF#8), rc := rcInput, at' := 1 }] (.done s 0 (s.settingsBody gen.toNat))))

/-- Programs fuses of the OTP array: a fuse once 1 stays 1. (DESIGN CHOICE, safe, log entry 42) -/
def State.burn (s : State) (a : Nat) (l : List Byte) : State :=
  { s with mgmt := { s.mgmt with otp := (l.zipIdx).foldl (fun (t : Tbl Byte) (e : Byte × Nat) =>
      Tbl.putD t 0 (a + e.2) (Tbl.lookD t 0 (a + e.2) ||| e.1)) s.mgmt.otp } }

/-- The offset of settings block g in the array, in bytes (Table 15.17). -/
def blockAt (g : Nat) : Nat := 512 + 256 * g

/-- Block g is blank and g exceeds every valid generation (R357). -/
def State.genOpen (s : State) (g : Nat) : Bool :=
  (s.settingsBlock g).all (fun b => b == 0) && (match s.bestGen with | some v => decide (v < g) | none => true)

/-- The reserved bytes of a settings block are 0 (Table 15.18). -/
def reservedZero (b : List Byte) : Bool :=
  ((b.drop 0x19).take 7 ++ (b.drop 0x40).take 0xB8 ++ (b.drop 0xFC).take 4).all (fun x => x == 0)

/-- The block is programmed; on a mismatch, with fuses that did not take as free values, every bit of GEN is programmed (R357). (DESIGN CHOICE, safe, log entry 42) -/
def State.programBlock (s : State) (g : Nat) (block : List Byte) (ok : Bool) : State :=
  if ok then s.burn (blockAt g) block
  else
    let got := (block.zipIdx).map (fun (e : Byte × Nat) => e.1 &&& (s.freeAt e.2).setWidth 8)
    ((s.burn (blockAt g) got).burn (blockAt g + 1) [0xFF#8]).skipFree 256

/-- PROGRAM_SETTINGS (R357). -/
def execProgramSettings (h : Hdr) (gen : BitVec 8) (confirm : BitVec 16) (block : List Byte) (tempOk ok : Bool) (s : State) :
    Host.Outcome State Fault Refusal :=
  .next (s.command (leBytes 1 gen.toNat ++ leBytes 2 confirm.toNat ++ block ++ leBytes 1 tempOk.toNat ++ leBytes 1 ok.toNat) h { code := 0xC002, cls := .f, changes := true }
    (Ans.after [{ bad := block.length != 256, rc := rcLength, at' := 3 },
                { bad := decide (3 < gen.toNat), rc := rcInput, at' := 1 },
                { bad := !s.genOpen gen.toNat, rc := 0x8008, at' := 1 },
                { bad := confirm != 0xC002#16, rc := rcInput, at' := 2 },
                { bad := !(blockValid block gen.toNat && reservedZero block), rc := rcInput, at' := 3 },
                { bad := !tempOk, rc := 0x800F }]
      (.done (s.programBlock gen.toNat block ok) (if ok then 0 else 0x8009) [])))

/-- Key k is the one the running firmware verified under. -/
def State.keyRuns (s : State) (k : Nat) : Bool := s.rd Reg.BOOT_STATUS_STATE == 1 && s.rd Reg.BOOT_STATUS_KEY == k

/-- Another programmed, unrevoked key hash than k remains. -/
def State.otherKey (s : State) (k : Nat) : Bool := [0, 1, 2, 3].any (fun j => j != k && keyPresent j && !s.revoked j)

/-- REVOKE_FW_KEY (R358). -/
def execRevokeFwKey (h : Hdr) (key : BitVec 8) (confirm : BitVec 16) (s : State) : Host.Outcome State Fault Refusal :=
  .next (s.command (leBytes 1 key.toNat ++ leBytes 2 confirm.toNat) h { code := 0xC003, cls := .f, changes := true }
    (Ans.after [{ bad := decide (3 < key.toNat), rc := rcInput, at' := 1 },
                { bad := confirm != 0xC003#16, rc := rcInput, at' := 2 },
                { bad := !keyPresent key.toNat || s.revoked key.toNat || s.keyRuns key.toNat || !s.otherKey key.toNat, rc := 0x8005, at' := 1 }]
      (.done (s.burn 320 [1#8 <<< key.toNat]) 0 [])))

/-! ### Locks -/

/-- GTH_CTL as the last forwarded write leaves it, or as it is mirrored. -/
def State.gthLatest (s : State) (off : Nat) : Word :=
  match s.gth.writes.reverse.find? (fun (e : Nat × Word) => e.1 == off) with
  | some e => e.2 &&& (if off = 0x2100000 then 0xFFFFFF0F#32 else 0xFFFFFFFF#32)
  | none => s.word off

/-- Sets the lock bits that a mask names; those of the Gatehouse are forwarded (R7, R316). -/
def State.setLocks (s : State) (m : BitVec 16) : State :=
  let s := [(0, Reg.GLB_CLK_CFG_CFG_LOCK), (1, Reg.GLB_PORT_CFG_CFG_LOCK), (2, Reg.CUR_CAP_CFG_CFG_LOCK), (3, Reg.SEC_CFG_CFG_LOCK),
      (4, Reg.GFT_CFG_CFG_LOCK)].foldl (fun (s : State) (e : Nat × Reg.Fld) => if m.getLsbD e.1 then s.setFlag e.2 true else s) s
  let s := if m.getLsbD 5 then s.gthForward 0x2100000 (s.gthLatest 0x2100000 ||| 0x80000000#32) else s
  if m.getLsbD 6 then s.gthForward 0x2100100 (s.gthLatest 0x2100100 ||| 0x80000000#32) else s

/-- SET_LOCKS (R7). -/
def execSetLocks (h : Hdr) (mask : BitVec 16) (s : State) : Host.Outcome State Fault Refusal :=
  .next (s.command (leBytes 2 mask.toNat) h { code := 0xC004, cls := .f, changes := true }
    (Ans.after [{ bad := decide (128 ≤ mask.toNat), rc := rcInput, at' := 1 }] (.done (s.setLocks mask) 0 [])))

/-! ### Heads and logical devices (R41 to R44, R66) -/

/-- A head's mode changes: in SLD mode its LD has LD-ID 0 (R41). -/
def State.setMode (s : State) (hd : Nat) (mld : Bool) : State :=
  let s : State := { s with mgmt := { s.mgmt with mld := setBits s.mgmt.mld hd 1 (if mld then 1 else 0) } }
  if mld then s else (s.ldsOf hd).foldl (fun (s : State) (i : Nat) => s.updLd i (fun (d : Ld) => { d with ldId := 0 })) s

/-- SET_HEAD_MODE (R41). -/
def execSetHeadMode (h : Hdr) (head mode : BitVec 8) (s : State) : Host.Outcome State Fault Refusal :=
  let hd := head.toNat
  .next (s.command (leBytes 1 head.toNat ++ leBytes 1 mode.toNat) h { code := 0xC005, cls := .f, changes := true, busy := (s.ldsOf hd).any s.ldInChange }
    (Ans.after [{ bad := decide (15 < hd) || !s.headExists hd, rc := rcInput, at' := 1 },
                { bad := decide (1 < mode.toNat), rc := rcInput, at' := 2 },
                { bad := s.linkUp hd, rc := 0x8005, at' := 1 },
                { bad := decide (mode = 0#8 ∧ 1 < (s.ldsOf hd).length), rc := 0x8005, at' := 2 }]
      (.done (s.setMode hd (mode == 1#8)) 0 [])))

/-- CREATE_LD (R41, R42): the LD is DOWN until the next link-up of its head (R48). -/
def execCreateLd (h : Hdr) (head ldId ldIndex manage : BitVec 8) (s : State) : Host.Outcome State Fault Refusal :=
  let hd := head.toNat
  let id := if s.isMld hd then ldId.toNat else 0
  let d : Ld := { head := hd, ldId := id, manage := manage == 1#8 }
  .next (s.command (leBytes 1 head.toNat ++ leBytes 1 ldId.toNat ++ leBytes 1 ldIndex.toNat ++ leBytes 1 manage.toNat) h { code := 0xC006, cls := .f, changes := true }
    (Ans.after [{ bad := decide (15 < hd) || !s.headExists hd, rc := rcInput, at' := 1 },
                { bad := decide (15 < ldId.toNat), rc := rcInput, at' := 2 },
                { bad := decide (63 < ldIndex.toNat), rc := rcInput, at' := 3 },
                { bad := decide (1 < manage.toNat), rc := rcInput, at' := 4 },
                { bad := decide (64 ≤ s.lds.length) || (s.ld? ldIndex.toNat).isSome, rc := 0x8004, at' := 3 },
                { bad := (s.ldsOf hd).any (fun (i : Nat) => !s.isMld hd || (s.ld? i).any (fun (d : Ld) => d.ldId == id)), rc := 0x8005, at' := 2 }]
      (.done { s with lds := Tbl.put s.lds ldIndex.toNat d } 0 [])))

/-- What deletion of an LD leaves: its queues, its mailbox's commands and records, and the LD itself are gone. (DEDUCED, unsafe, log entry 57) -/
def State.removeLd (s : State) (i : Nat) : State :=
  let s := ((s.dropPasses i).dropQueues i true).ldReset i
  { s with lds := Tbl.del s.lds i }

/-- DELETE_LD (R42). -/
def execDeleteLd (h : Hdr) (ldIndex : BitVec 8) (s : State) : Host.Outcome State Fault Refusal :=
  let i := ldIndex.toNat
  let ok := (s.ld? i).any (fun (d : Ld) => (d.st == .down || d.st == .ioUp) && d.exts.isEmpty)
  .next (s.command (leBytes 1 ldIndex.toNat) h { code := 0xC007, cls := .f, changes := true, busy := s.ldInChange i }
    (Ans.after [{ bad := decide (63 < i), rc := rcInput, at' := 1 }, { bad := (s.ld? i).isNone, rc := 0x8002, at' := 1 }, { bad := !ok, rc := 0x8005, at' := 1 }]
      (.done (s.removeLd i) 0 [])))

/-- SET_LD_MANAGE (R44). -/
def execSetLdManage (h : Hdr) (ldIndex manage : BitVec 8) (s : State) : Host.Outcome State Fault Refusal :=
  let i := ldIndex.toNat
  .next (s.command (leBytes 1 ldIndex.toNat ++ leBytes 1 manage.toNat) h { code := 0xC008, cls := .f, changes := true, busy := s.ldInChange i }
    (Ans.after [{ bad := decide (63 < i), rc := rcInput, at' := 1 }, { bad := decide (1 < manage.toNat), rc := rcInput, at' := 2 },
                { bad := (s.ld? i).isNone, rc := 0x8002, at' := 1 }]
      (.done (s.updLd i (fun (d : Ld) => { d with manage := manage == 1#8 })) 0 [])))

/-- The LDs that TARGET and ID name. -/
def State.named (s : State) (target id : Nat) : List Nat := if target = 0 then [id] else s.ldsOf id

/-- The checks of TARGET and ID. (DEDUCED, unsafe, log entry 59) -/
def State.targetChecks (s : State) (target id : Nat) : List Chk :=
  [{ bad := decide (1 < target), rc := rcInput, at' := 1 },
   { bad := decide (target = 0 ∧ 63 < id), rc := rcInput, at' := 2 },
   { bad := decide (target = 1 ∧ 15 < id) || (target == 1 && !s.headExists id), rc := rcInput, at' := 2 },
   { bad := decide (target = 0) && (s.ld? id).isNone, rc := 0x8002, at' := 2 }]

/-- One LD is disabled by command: DISABLED is set in every state (R66), and Table 2.9 applies. -/
def State.disableLd (s : State) (abrupt : Bool) (i : Nat) : State :=
  let s := s.updLd i (fun (d : Ld) => { d with disabled := true })
  if abrupt then s.stopLd i else s.drainLd i

/-- DISABLE (R65, R66). -/
def execDisable (h : Hdr) (target id mode : BitVec 8) (s : State) : Host.Outcome State Fault Refusal :=
  let lds := s.named target.toNat id.toNat
  .next (s.command (leBytes 1 target.toNat ++ leBytes 1 id.toNat ++ leBytes 1 mode.toNat) h { code := 0xC009, cls := .f, changes := true, bg := true }
    (Ans.after (s.targetChecks target.toNat id.toNat ++ [{ bad := decide (1 < mode.toNat), rc := rcInput, at' := 3 }])
      (.started (lds.foldl (fun (s : State) (i : Nat) => s.disableLd (mode == 1#8) i) s) (.disable lds (mode == 1#8)))))

/-- An LD is draining or stopping. -/
def State.ldEnding (s : State) (i : Nat) : Bool := (s.ld? i).any (fun (d : Ld) => d.st == .draining || d.st == .stopping)

/-- ENABLE (R66): an LD enters ACTIVE as soon as Table 2.9 allows. -/
def execEnable (h : Hdr) (target id : BitVec 8) (s : State) : Host.Outcome State Fault Refusal :=
  let lds := s.named target.toNat id.toNat
  .next (s.command (leBytes 1 target.toNat ++ leBytes 1 id.toNat) h { code := 0xC00A, cls := .f, changes := true, busy := lds.any s.ldInChange }
    (Ans.after (s.targetChecks target.toNat id.toNat ++ [{ bad := lds.any s.ldEnding, rc := 0x8005, at' := 2 }])
      (.done (lds.foldl (fun (s : State) (i : Nat) => (s.updLd i (fun (d : Ld) => { d with disabled := false })).tryActive i) s) 0 [])))

/-! ### Static capacity (R411) -/

/-- The region descriptor that holds a whole range of 256 MiB units, other than the lend region. -/
def State.regionOver (s : State) (u n : Nat) : Option Nat :=
  (s.regions.find? (fun (e : Nat × Region) => !e.2.lend && decide (e.2.base ≤ u ∧ u + n ≤ e.2.base + e.2.len))).map Prod.fst

/-- Another LD of an LD's head maps part of a range of an HDM-DB region (R96). -/
def State.mapsTwice (s : State) (i u n : Nat) : Bool :=
  match s.ld? i with
  | none => false
  | some d => s.isDb (u * 65536) && (s.ldsOf d.head).any (fun (j : Nat) => j != i && (s.ld? j).any (fun (x : Ld) =>
      x.exts.any (fun (e : Extent) => decide (e.unit < u + n ∧ u < e.unit + e.len))))

/-- A range of SET_STATIC_CAPACITY that is not aligned, not within one region descriptor, or doubly mapped. -/
def State.badRange (s : State) (i : Nat) (r : BitVec 64 × BitVec 32) : Bool :=
  let u := r.1.toNat / 2 ^ 28
  decide (r.1.toNat % 2 ^ 28 ≠ 0 ∨ r.2 = 0#32) || (s.regionOver u r.2.toNat).isNone || s.mapsTwice i u r.2.toNat

/-- The static extents of a list of ranges: consecutive LD DPA from a unit on. -/
def State.staticExts (s : State) : Nat → List (BitVec 64 × BitVec 32) → List Extent
  | _, [] => []
  | u, r :: rs =>
    let d := r.1.toNat / 2 ^ 28
    { ldUnit := u, unit := d, len := r.2.toNat, region := (s.regionOver d r.2.toNat).getD 0, static := true } :: s.staticExts (u + r.2.toNat) rs

/-- The ranges become the LD's static extents; the earlier ones leave the map as a release does. -/
def State.setStatic (s : State) (i : Nat) (rs : List (BitVec 64 × BitVec 32)) : State :=
  match s.ld? i with
  | none => s
  | some d =>
    let old := (d.exts.filter (fun (e : Extent) => e.static && !e.releasing)).map (fun (e : Extent) => e.ldUnit)
    let s := old.foldl (fun (s : State) (u : Nat) => s.releaseExtent i u) s
    let new := s.staticExts 0 rs
    s.updLd i (fun (d : Ld) => { d with exts := new ++ d.exts })

/-- The checks of SET_STATIC_CAPACITY on an LD. (DEDUCED, unsafe, log entry 59) -/
def State.staticChecks (s : State) (h : Hdr) (i : Nat) (rs : List (BitVec 64 × BitVec 32)) : List Chk :=
  let total := (rs.map (fun (r : BitVec 64 × BitVec 32) => r.2.toNat)).sum * 2 ^ 28
  let bad := (rs.zipIdx).find? (fun (e : (BitVec 64 × BitVec 32) × Nat) => s.badRange i e.1)
  match s.ld? i with
  | none => [{ bad := true, rc := 0x8002, at' := 1 }]
  | some d =>
    [{ bad := decide (16 < rs.length), rc := rcInput, at' := hdrAt h 1 },
     { bad := bad.isSome, rc := rcInput, at' := hdrAt h (match bad with | some e => 2 + 2 * e.2 | none => 0) },
     { bad := d.dcRegions.any (fun (r : Nat × DcRegion) => decide (r.2.base < total)), rc := rcInput, at' := hdrAt h 1 },
     { bad := decide (256 < (d.exts.filter (fun (e : Extent) => !e.static || e.releasing)).length + rs.length), rc := 0x8004, at' := hdrAt h 1 },
     { bad := !(d.st == .down || (d.st == .ioUp && d.decoders.isEmpty)), rc := 0x8005 }]

/-- SET_STATIC_CAPACITY (R411). -/
def execSetStaticCapacity (h : Hdr) (ranges : List (BitVec 64 × BitVec 32)) (s : State) : Host.Outcome State Fault Refusal :=
  let i := (hdrOwn h).getD 64
  .next (s.command (leBytes 1 ranges.length ++ ranges.flatMap (fun r => leBytes 8 r.1.toNat ++ leBytes 4 r.2.toNat)) h { code := 0xC00B, cls := .f, changes := true, namesLd := true, busy := s.ldInChange i }
    (Ans.after (s.staticChecks h i ranges) (.done (s.setStatic i ranges) 0 [])))

end Sys2Proof.Machine
end

