-- ==== Sys2Proof/Machine/Placement.lean ====
section
/-! DEFINITION. The C1 and C2 commands (Tables 15.6 to 15.8): placement, page information, sanitising, classes, label maps and the governor's settings. -/
namespace Sys2Proof.Machine

/-! ### Placement -/

/-- The reply of GET_PLACEMENT. -/
def State.placementBody (s : State) : List Byte :=
  let s := s.showPool
  leBytes 1 (s.rd Reg.CUR_PRESSURE_LEVEL) ++ leBytes 2 (s.rd Reg.CUR_EPOCH_STATUS_EPOCH) ++ leBytes 4 (s.rd Reg.CUR_EPOCH_LEN_EFF_LEN_MS)
    ++ leBytes 8 (s.rd Reg.CUR_POOL_SIZE_UNITS) ++ leBytes 8 (s.rd Reg.CUR_POOL_FREE_UNITS) ++ leBytes 8 (s.rd Reg.CUR_POOL_FREE_RESERVE)
    ++ leBytes 1 (s.rd Reg.CUR_PRESSURE_LEASES) ++ leBytes 1 (s.rd Reg.CUR_EPOCH_STATUS_INC_GEN)

/-- GET_PLACEMENT (R151). -/
def execGetPlacement (h : Hdr) (s : State) : Host.Outcome State Fault Refusal := .next (s.command [] h { code := 0xC100, cls := .m } (.done s 0 s.placementBody))

/-- SET_CURATOR's values in CUR_EPOCH_CFG and CUR_POLICY. (DEDUCED, unsafe, log entry 64) -/
def State.setCurator (s : State) (lenMs curate hotMark idle tight balance spill : Nat) : State :=
  let e := withField (withField (s.word 0x300004) Reg.CUR_EPOCH_CFG_LEN_MS lenMs) Reg.CUR_EPOCH_CFG_CURATE curate
  let p := withField (withField (withField (s.word 0x300010) Reg.CUR_POLICY_HOT_MARK hotMark) Reg.CUR_POLICY_FREEZE_IDLE idle) Reg.CUR_POLICY_FREEZE_IDLE_TIGHT tight
  (s.writeReg 0x300004 e).writeReg 0x300010 (withField (withField p Reg.CUR_POLICY_BALANCE_PCT balance) Reg.CUR_POLICY_SPILL_EN spill)

/-- SET_CURATOR (R136). -/
def execSetCurator (h : Hdr) (lenMs : BitVec 16) (curate : BitVec 8) (hotMark : BitVec 16) (freezeIdle freezeTight balance spillEn : BitVec 8) (s : State) :
    Host.Outcome State Fault Refusal :=
  .next (s.command (leBytes 2 lenMs.toNat ++ leBytes 1 curate.toNat ++ leBytes 2 hotMark.toNat ++ leBytes 1 freezeIdle.toNat ++ leBytes 1 freezeTight.toNat ++ leBytes 1 balance.toNat ++ leBytes 1 spillEn.toNat) h { code := 0xC101, cls := .f, changes := true }
    (Ans.after [{ bad := decide (1 < curate.toNat), rc := rcInput, at' := 2 }, { bad := decide (1 < spillEn.toNat), rc := rcInput, at' := 7 }]
      (.done (s.setCurator lenMs.toNat curate.toNat hotMark.toNat freezeIdle.toNat freezeTight.toNat balance.toNat spillEn.toNat) 0 [])))

/-- A channel mask is 0, or names a populated channel (R143). -/
def State.maskOk (s : State) (m : BitVec 16) : Bool := m == 0 || s.boot.chans.any (fun (c : Nat) => m.getLsbD c)

/-- SET_REGION_PLACEMENT (R139, R143). The lend region keeps PLACE 01b and SPILL_OK 0 (R337). (DEDUCED, safe, log entry 113) -/
def execSetRegionPlacement (h : Hdr) (region : BitVec 16) (place spillOk : BitVec 8) (mask : BitVec 16) (s : State) : Host.Outcome State Fault Refusal :=
  .next (s.command (leBytes 2 region.toNat ++ leBytes 1 place.toNat ++ leBytes 1 spillOk.toNat ++ leBytes 2 mask.toNat) h { code := 0xC102, cls := .f, changes := true }
    (Ans.after [{ bad := (Tbl.look s.regions region.toNat).isNone, rc := 0x8002, at' := 1 },
                { bad := decide (2 < place.toNat), rc := rcInput, at' := 2 },
                { bad := decide (1 < spillOk.toNat), rc := rcInput, at' := 3 },
                { bad := !s.maskOk mask, rc := rcInput, at' := 4 },
                { bad := (Tbl.look s.regions region.toNat).any (fun (r : Region) => r.lend) && place != 1, rc := rcInput, at' := 2 },
                { bad := (Tbl.look s.regions region.toNat).any (fun (r : Region) => r.lend) && spillOk != 0, rc := rcInput, at' := 3 }]
      (.done (s.updRegion region.toNat (fun (r : Region) => { r with place := place.toNat, spillOk := spillOk == 1#8, mask := mask })) 0 [])))

/-! ### Page information (Table 15.7) -/

/-- Channel and sherds that an entry shows. -/
def shownMedia : PageForm → Nat × Nat
  | .hot c _ _ => (c, 0)
  | .cold c _ n => (c, n)
  | .spilled _ _ n => (0, n)
  | _ => (0, 0)

/-- The flags of an entry: INCOMP[53], PZ and UNREADABLE. -/
def shownFlags : PageForm → Nat
  | .hot _ _ (some _) => 1
  | .unwritten true => 2
  | .unreadable => 4
  | _ => 0

/-- A page entry of GET_PAGE_INFO; a page that no extent covers shows UNBACKED alone. (DEDUCED, unsafe, log entry 63) -/
def State.pageEntry (s : State) : Option Nat → Nat
  | none => 2 ^ 47
  | some p =>
    let a := s.acc p
    let m := shownMedia a.form
    let r := match s.regionAt p with | some (i, _) => i | none => 0
    formCode a.form + 8 * clsCode (s.clsOf p) + 32 * (m.2 % 8) + 256 * (m.1 % 16) + 2 ^ 12 * (a.fstamp % 16) + 2 ^ 16 * (Tbl.lookD s.place.foot 0 p % 2 ^ 16)
      + 2 ^ 32 * (r % 4096) + 2 ^ 44 * shownFlags a.form

/-- The device page of page k of a range, in the space that the command names. (DEDUCED, unsafe, log entry 63) -/
def State.infoPage (s : State) (h : Hdr) (space dpa k : Nat) : Option Nat :=
  if space = 1 then some (dpa / 4096 + k) else ((hdrOwn h).bind (fun i => s.ldToDpa i (dpa + 4096 * k))).map (fun a => a / 4096)

/-- A source may name device DPA: class M (R342). (DEDUCED, unsafe, log entry 63) -/
def State.spaceOk (s : State) (h : Hdr) (space : Nat) : Bool := space != 1 || s.admits h.src .m

/-- The checks of SPACE and of an address range of n bytes: pages, the space, and H (R124). (DEDUCED, unsafe, log entry 59) -/
def State.rangeChecks (s : State) (h : Hdr) (space dpa n : Nat) : List Chk :=
  [{ bad := decide (1 < space), rc := rcInput, at' := hdrAt h 1 },
   { bad := !s.spaceOk h space, rc := 0x8001, at' := hdrAt h 1 },
   { bad := decide (space = 0) && ((hdrOwn h).bind s.ld?).isNone, rc := 0x8002, at' := hdrAt h 0 },
   { bad := decide (dpa % 4096 ≠ 0), rc := rcInput, at' := hdrAt h 2 },
   { bad := decide (n % 4096 ≠ 0), rc := rcInput, at' := hdrAt h 3 },
   { bad := decide (space = 1 ∧ s.boot.h * 2 ^ 28 < dpa + n), rc := rcInput, at' := hdrAt h 2 }]

/-- GET_PAGE_INFO (R127). -/
def execGetPageInfo (h : Hdr) (space : BitVec 8) (dpa : BitVec 64) (count : BitVec 16) (s : State) : Host.Outcome State Fault Refusal :=
  let n := count.toNat
  .next (s.command (leBytes 1 space.toNat ++ leBytes 8 dpa.toNat ++ leBytes 2 count.toNat) h { code := 0xC103, cls := .u, namesLd := space == 0#8 }
    (Ans.after ({ bad := decide (n < 1 ∨ 500 < n), rc := 0x800F, at' := hdrAt h 3 } :: s.rangeChecks h space.toNat dpa.toNat (4096 * n))
      (.done s 0 ((List.range n).flatMap (fun k => leBytes 8 (s.pageEntry (s.infoPage h space.toNat dpa.toNat k)))))))

/-! ### Sanitising (R350) -/

/-- The device page ranges behind n bytes of an LD's DPA from an address on, in ascending order: its unbacked parts are left out. -/
def State.ldRanges (s : State) (i dpa n : Nat) : List (Nat × Nat) :=
  match s.ld? i with
  | none => []
  | some d => (rankBy (fun (a b : Extent) => decide (a.ldUnit < b.ldUnit)) d.exts).filterMap (fun (e : Extent) =>
      let lo := max dpa (e.ldUnit * 2 ^ 28)
      let hi := min (dpa + n) ((e.ldUnit + min e.len (s.boot.h - e.unit)) * 2 ^ 28)
      if e.port = true ∧ lo < hi then some (e.unit * 65536 + (lo - e.ldUnit * 2 ^ 28) / 4096, e.unit * 65536 + (hi - 1 - e.ldUnit * 2 ^ 28) / 4096) else none)

/-- The device page ranges that a command names. -/
def State.rangesOf (s : State) (h : Hdr) (space dpa n : Nat) : List (Nat × Nat) :=
  if space = 1 then (if n < 4096 then [] else [(dpa / 4096, dpa / 4096 + n / 4096 - 1)])
  else match hdrOwn h with
    | some i => s.ldRanges i dpa n
    | none => []

/-- A sanitise starts over page ranges, in their order (R350). (DEDUCED, unsafe, log entry 30) -/
def State.startSanitize (s : State) (rs : List (Nat × Nat)) : State :=
  { s with mgmt := { s.mgmt with clears := s.mgmt.clears ++ [{ ranges := rs, left := rs }] } }

/-- SANITIZE_RANGE (R350). -/
def execSanitizeRange (h : Hdr) (space : BitVec 8) (dpa len : BitVec 64) (s : State) : Host.Outcome State Fault Refusal :=
  let rs := s.rangesOf h space.toNat dpa.toNat len.toNat
  .next (s.command (leBytes 1 space.toNat ++ leBytes 8 dpa.toNat ++ leBytes 8 len.toNat) h { code := 0xC104, cls := .m, changes := true, bg := true, namesLd := space == 0#8 }
    (Ans.after (s.rangeChecks h space.toNat dpa.toNat len.toNat) (.started (s.startSanitize rs) (.sanitize rs))))

/-- GET_EPOCH_TOTALS (R137): the totals of the last closed epoch. -/
def execGetEpochTotals (h : Hdr) (s : State) : Host.Outcome State Fault Refusal :=
  let any := decide (0 < s.place.epoch)
  .next (s.command [] h { code := 0xC105, cls := .m }
    (.done s 0 (leBytes 1 (if any then 1 else 0) ++ leBytes 2 (if any then (s.place.epoch - 1) % 65536 else 0)
      ++ (List.range 16).flatMap (fun c => leBytes 8 (if any then s.chanTotal c else 0)))))

/-! ### Classes and label maps (R267 to R272, R283 to R285) -/

/-- A class takes its fields. VALID and the fields of Table 11.1 are written; SHED and the misses of a class that exists are kept. -/
def State.writeClass (s : State) (c floor budget : Nat) (dl : List Nat) (tier rank : Nat) : State :=
  let lim (x : Nat) : Nat := max (s.rootN * 5 / 8) (min (s.rootN * 1625 / 2) x)
  let s := (s.wr (Reg.QOS_CLASS_FLOOR_FLOOR c) floor).wr (Reg.QOS_CLASS_BUDGET_BUDGET c) budget
  let s := ((s.wr (Reg.QOS_CLASS_DL1_DL c) (lim (dl.getD 0 0))).wr (Reg.QOS_CLASS_DL2_DL c) (lim (dl.getD 1 0))).wr (Reg.QOS_CLASS_DL3_DL c) (lim (dl.getD 2 0))
  ((s.setFlag (Reg.QOS_CLASS_CTL_VALID c) true).wr (Reg.QOS_CLASS_CTL_BASE_TIER c) tier).wr (Reg.QOS_CLASS_CTL_SHED_RANK c) rank

/-- SET_CLASS's commit: the floor of LEND_CLASS stays the sum of the granted bandwidth while leases are granted (R284). -/
def State.setClass (s : State) (c floor budget : Nat) (dl : List Nat) (tier rank : Nat) : State :=
  let t := s.writeClass c floor budget dl tier rank
  if s.lent ≠ [] ∧ c = s.rd Reg.QOS_CFG_LEND_CLASS then t.lendFloor 0 else t

/-- The admission of a change (R283): a failing check with its shortfall. -/
def admission (need : Bool) (t : State) : List Chk :=
  match t.overcommit with
  | some (k, short) => [{ bad := need, rc := 0x8011, at' := k, val := short }]
  | none => []

/-- The change creates a class with a floor, or raises a floor. -/
def State.raisesFloor (s t : State) (c : Nat) : Bool :=
  let was := if s.flag (Reg.QOS_CLASS_CTL_VALID c) then s.floorOf c else 0
  decide (was < t.floorOf c)

/-- SET_CLASS (R270, R272, R283). -/
def execSetClass (h : Hdr) (cls : BitVec 8) (floor budget dl1 dl2 dl3 : BitVec 32) (baseTier shedRank : BitVec 8) (s : State) : Host.Outcome State Fault Refusal :=
  let c := cls.toNat
  let t := s.setClass c floor.toNat budget.toNat [dl1.toNat, dl2.toNat, dl3.toNat] baseTier.toNat shedRank.toNat
  .next (s.command (leBytes 1 cls.toNat ++ leBytes 4 floor.toNat ++ leBytes 4 budget.toNat ++ leBytes 4 dl1.toNat ++ leBytes 4 dl2.toNat ++ leBytes 4 dl3.toNat ++ leBytes 1 baseTier.toNat ++ leBytes 1 shedRank.toNat) h { code := 0xC200, cls := .f, changes := true }
    (Ans.after ([{ bad := decide (63 < c), rc := rcInput, at' := 1 }, { bad := decide (0xFFFFF < floor.toNat), rc := rcInput, at' := 2 },
                 { bad := decide (0xFFFFF < budget.toNat), rc := rcInput, at' := 3 }, { bad := decide (baseTier.toNat < 1 ∨ 3 < baseTier.toNat), rc := rcInput, at' := 7 }]
      ++ admission (s.raisesFloor t c) t) (.done t 0 [])))

/-- A class ceases to exist. -/
def State.dropClass (s : State) (c : Nat) : State :=
  let s := [0, 4, 8, 12, 16, 20, 24, 28].foldl (fun (s : State) (k : Nat) => s.setWord (0x201000 + 0x20 * c + k) 0) s
  { s with qos := { s.qos with acct := Tbl.del s.qos.acct c } }

/-- DELETE_CLASS (R268). -/
def execDeleteClass (h : Hdr) (cls : BitVec 8) (s : State) : Host.Outcome State Fault Refusal :=
  let c := cls.toNat
  .next (s.command (leBytes 1 cls.toNat) h { code := 0xC201, cls := .f, changes := true }
    (Ans.after [{ bad := decide (63 < c), rc := rcInput, at' := 1 }, { bad := !s.flag (Reg.QOS_CLASS_CTL_VALID c), rc := 0x8002, at' := 1 },
                { bad := decide (s.lent ≠ [] ∧ c = s.rd Reg.QOS_CFG_LEND_CLASS), rc := 0x8005, at' := 1 }]
      (.done (s.dropClass c) 0 [])))

/-- A head's label map and default label. -/
def State.setLabelMap (s : State) (hd dflt : Nat) (es : List (BitVec 8)) : State :=
  let word (w : Nat) : Word := BitVec.ofNat 32 (ofBytes ((es.drop (4 * w)).take 4))
  let s := (List.range 4).foldl (fun (s : State) (w : Nat) => s.setWord (0x200200 + 0x20 * hd + 4 * w) (word w)) s
  s.wr (Reg.QOS_HEAD_CTL_DEFAULT_LABEL hd) dflt

/-- SET_LABEL_MAP (R268, R283). -/
def execSetLabelMap (h : Hdr) (head dflt : BitVec 8) (entries : List (BitVec 8)) (s : State) : Host.Outcome State Fault Refusal :=
  let t := s.setLabelMap head.toNat dflt.toNat entries
  let odd := (entries.zipIdx).find? (fun (e : BitVec 8 × Nat) => e.1.getLsbD 7)
  .next (s.command (leBytes 1 head.toNat ++ leBytes 1 dflt.toNat ++ entries) h { code := 0xC202, cls := .f, changes := true }
    (Ans.after ([{ bad := entries.length != 16, rc := rcLength, at' := 3 }, { bad := decide (15 < head.toNat), rc := rcInput, at' := 1 },
                 { bad := decide (15 < dflt.toNat), rc := rcInput, at' := 2 },
                 { bad := odd.isSome, rc := rcInput, at' := match odd with | some e => 3 + e.2 | none => 0 }] ++ admission true t)
      (.done t 0 [])))

/-- SET_LEND_CLASS (R269). -/
def execSetLendClass (h : Hdr) (cls : BitVec 8) (s : State) : Host.Outcome State Fault Refusal :=
  .next (s.command (leBytes 1 cls.toNat) h { code := 0xC203, cls := .f, changes := true }
    (Ans.after [{ bad := decide (63 < cls.toNat), rc := rcInput, at' := 1 }, { bad := decide (s.lent ≠ []), rc := 0x8005, at' := 1 }]
      (.done (s.wr Reg.QOS_CFG_LEND_CLASS cls.toNat) 0 [])))

/-- The reply of GET_QOS. (DESIGN CHOICE, unsafe, log entry 43) -/
def State.qosBody (s : State) (c : Nat) : List Byte :=
  let ctl := s.wordNow (0x201014 + 0x20 * c)
  leBytes 4 (s.rd Reg.QOS_G_G) ++ leBytes 4 (bitsOf (s.wordNow 0x200014) 0 21) ++ leBytes 1 (bitsOf (s.wordNow 0x200014) 21 7)
    ++ leBytes 4 (s.floorOf c) ++ leBytes 4 (s.rd (Reg.QOS_CLASS_BUDGET_BUDGET c)) ++ leBytes 4 (s.rd (Reg.QOS_CLASS_DL1_DL c))
    ++ leBytes 4 (s.rd (Reg.QOS_CLASS_DL2_DL c)) ++ leBytes 4 (s.rd (Reg.QOS_CLASS_DL3_DL c)) ++ leBytes 1 (bitsOf ctl 1 2) ++ leBytes 1 (bitsOf ctl 8 8)
    ++ leBytes 1 (bitsOf ctl 16 1) ++ leBytes 1 (bitsOf ctl 17 1) ++ leBytes 1 (bitsOf ctl 18 1) ++ leBytes 2 (s.rd (Reg.QOS_CLASS_MISS_DL_MISSES c))
    ++ leBytes 1 (s.rd (Reg.QOS_CLASS_MISS_FLOOR_MISSES c)) ++ leBytes 1 (s.rd (Reg.QOS_CLASS_MISS_LAST_CAUSE c))
    ++ leBytes 4 (bitsOf (s.wordNow (0x20101C + 0x20 * c)) 0 20)

/-- GET_QOS (R270). -/
def execGetQos (h : Hdr) (cls : BitVec 8) (s : State) : Host.Outcome State Fault Refusal :=
  let c := cls.toNat
  .next (s.command (leBytes 1 cls.toNat) h { code := 0xC204, cls := .m }
    (Ans.after [{ bad := decide (63 < c), rc := rcInput, at' := 1 }, { bad := !s.flag (Reg.QOS_CLASS_CTL_VALID c), rc := 0x8002, at' := 1 }]
      (.done s 0 (s.qosBody c))))

/-! ### The governor -/

/-- SET_GOVERNOR (R288). -/
def execSetGovernor (h : Hdr) (pwr : BitVec 16) (tj dimm noPd : BitVec 8) (s : State) : Host.Outcome State Fault Refusal :=
  let t := withField (withField (s.word 0x204) Reg.GLB_GOV_TEMP_TJ_HIGH tj.toNat) Reg.GLB_GOV_TEMP_DIMM_HIGH dimm.toNat
  .next (s.command (leBytes 2 pwr.toNat ++ leBytes 1 tj.toNat ++ leBytes 1 dimm.toNat ++ leBytes 1 noPd.toNat) h { code := 0xC205, cls := .f, changes := true }
    (Ans.after [{ bad := decide (1 < noPd.toNat), rc := rcInput, at' := 4 }]
      (.done ((s.writeReg 0x200 (withField (s.word 0x200) Reg.GLB_GOV_CFG_PWR_LIMIT pwr.toNat)).writeReg 0x204
        (withField t Reg.GLB_GOV_TEMP_NO_PD_AT_FULL noPd.toNat)) 0 [])))

/-- GET_GOVERNOR (R288). -/
def execGetGovernor (h : Hdr) (s : State) : Host.Outcome State Fault Refusal :=
  .next (s.command [] h { code := 0xC206, cls := .m }
    (.done s.advanceFree 0 (s.word4 0x208 ++ s.word4 0x20C ++ s.word4 0x210 ++ s.word4 0x200020 ++ leBytes 1 (s.rd Reg.QOS_BE_SCALE_SCALE))))

end Sys2Proof.Machine
end

