-- ==== Sys2Proof/Machine/Keys.lean ====
section
/-! DEFINITION. The C3 commands (Table 15.9): key slots and region descriptors; and the lend region's commands of C6 (R337). -/
namespace Sys2Proof.Machine

/-! ### Key slots (R197, R198) -/

/-- ALLOCATE_KEY (R197). -/
def execAllocateKey (h : Hdr) (s : State) : Host.Outcome State Fault Refusal :=
  .next (s.command [] h { code := 0xC300, cls := .f, changes := true }
    (match s.freeKey with
     | some k => .done (s.drawSlot k false) 0 (leBytes 2 k)
     | none => .fail 0x8004 0 0))

/-- The region descriptors that use a slot now. -/
def State.usersOf (s : State) (k : Nat) : List (Nat × Region) := s.regions.filter (fun (e : Nat × Region) => e.2.cls != .plain && e.2.key == k)

/-- FREE_KEY (R197). -/
def execFreeKey (h : Hdr) (slot : BitVec 16) (s : State) : Host.Outcome State Fault Refusal :=
  let k := slot.toNat
  .next (s.command (leBytes 2 slot.toNat) h { code := 0xC301, cls := .f, changes := true }
    (Ans.after [{ bad := decide (4095 < k), rc := rcInput, at' := 1 },
                { bad := (s.key k).st != .active || (s.key k).fixed || !(s.boundTo k).isEmpty, rc := 0x8005, at' := 1 }]
      (.done (s.updKey k (fun (x : KeySlot) => { x with st := .zeroising })) 0 [])))

/-- Slots in RETIRING. -/
def State.retirements (s : State) : Nat := (s.sec.keys.filter (fun (e : Nat × KeySlot) => e.2.st == .retiring)).length

/-- The retirement of slot k onto slot n starts (R198); with no region bound it is complete at once. (DEDUCED, unsafe, log entry 64) -/
def State.flushKey (s : State) (k n : Nat) : State :=
  let s := (s.drawSlot n false).updKey k (fun (x : KeySlot) => { x with st := .retiring })
  let s := (s.usersOf k).foldl (fun (s : State) (e : Nat × Region) =>
    s.updRegion e.1 (fun (r : Region) => { r with oldKey := k, oldValid := true, key := n, cursor := 0 })) s
  s.retireCheck k n

/-- FLUSH_KEY (R198). -/
def execFlushKey (h : Hdr) (slot : BitVec 16) (s : State) : Host.Outcome State Fault Refusal :=
  let k := slot.toNat
  .next (s.command (leBytes 2 slot.toNat) h { code := 0xC302, cls := .f, changes := true }
    (Ans.after [{ bad := decide (4095 < k), rc := rcInput, at' := 1 },
                { bad := (s.key k).st != .active || (s.key k).fixed || decide (16 ≤ s.retirements), rc := 0x8005, at' := 1 }]
      (match s.freeKey with
       | some n => .done (s.flushKey k n) 0 (leBytes 2 n)
       | none => .fail 0x8005 1 0)))

/-! ### Regions (R351, R352) -/

/-- The lowest free range of n units in a secure space (R180): it starts at 0 or where a region ends. -/
def State.secBase (s : State) (space : Bool) (n : Nat) : Option Nat :=
  let rs := s.regions.filter (fun (e : Nat × Region) => spaceOf e.2.cls == some space)
  let cap := 256 * (if space then s.boot.vCap else s.boot.sCap)
  let free (b : Nat) : Bool := decide (b + n ≤ cap) && rs.all (fun (e : Nat × Region) => decide (b + n ≤ e.2.sbase ∨ e.2.sbase + e.2.len ≤ b))
  leastBy id ((0 :: rs.map (fun (e : Nat × Region) => e.2.sbase + e.2.len)).filter free)

/-- SBASE for a class; 0 for PLAIN, which has none. -/
def State.baseFor (s : State) (cls : SecClass) (n : Nat) : Option Nat :=
  match spaceOf cls with
  | none => some 0
  | some sp => s.secBase sp n

/-- The class that CLASS spells; 11b spells none. -/
def clsOfCode (c : Nat) : Option SecClass := if c = 0 then some .plain else if c = 1 then some .sealed else if c = 2 then some .vitrine else none

/-- A free region descriptor: the lowest. -/
def State.freeRegion (s : State) : Option Nat := firstBelow 4096 (fun i => (Tbl.look s.regions i).isNone)

/-- A range of units lies within H, on whole units, and meets no region (R351, check 1). -/
def State.rangeFree (s : State) (dpa n : Nat) : Bool :=
  let u := dpa / 2 ^ 28
  decide (dpa % 2 ^ 28 = 0 ∧ 0 < n ∧ u + n ≤ s.boot.h) && s.regions.all (fun (e : Nat × Region) => decide (u + n ≤ e.2.base ∨ e.2.base + e.2.len ≤ u))

/-- The six checks of R351, in their order; DETAIL gives the check. (DEDUCED, unsafe, log entry 59) -/
def State.regionChecks (s : State) (dpa n cls slot : Nat) (mask : BitVec 16) : List Chk :=
  let u := dpa / 2 ^ 28
  let k := s.key slot
  [{ bad := !s.rangeFree dpa n || !s.maskOk mask, rc := rcInput, at' := 1 },
   { bad := (s.pagesIn (u * 65536) ((u + n) * 65536 - 1)).any (fun p => !(s.acc p).isUnwritten), rc := 0x8005, at' := 2 },
   { bad := decide (3 ≤ cls), rc := rcInput, at' := 3 },
   { bad := decide (cls = 0) && !s.flag Reg.SEC_CFG_PLAIN_OK, rc := 0x800D, at' := 3 },
   { bad := decide (cls = 1) && (k.st != .active || k.fixed), rc := 0x8005, at' := 4 },
   { bad := decide (cls = 2) && s.freeKey.isNone, rc := 0x8004, at' := 4 },
   { bad := ((clsOfCode cls).bind (fun c => s.baseFor c n)).isNone, rc := 0x800C, at' := 5 },
   { bad := s.freeRegion.isNone, rc := 0x8004, at' := 6 }]

/-- A region descriptor is made; a VITRINE region draws its slot and fixes it. -/
def State.addRegion (s : State) (i : Nat) (r : Region) : State :=
  let s : State := { s with regions := Tbl.put s.regions i r }
  if r.cls = .vitrine then s.newSlot i true else s

/-- The descriptor that the parameters give. -/
def State.makeRegion (s : State) (dpa n : Nat) (model : Bool) (cls slot place : Nat) (spillOk : Bool) (mask : BitVec 16) (lend : Bool) : Region :=
  let c := (clsOfCode cls).getD .plain
  { base := dpa / 2 ^ 28, len := n, hdmDb := model, cls := c, key := if cls = 1 then slot else 0, sbase := (s.baseFor c n).getD 0,
    place := place, spillOk := spillOk, mask := mask, lend := lend }

/-- CREATE_REGION (R351). -/
def execCreateRegion (h : Hdr) (dpa : BitVec 64) (len : BitVec 32) (model cls : BitVec 8) (slot : BitVec 16) (place spillOk : BitVec 8) (mask : BitVec 16)
    (s : State) : Host.Outcome State Fault Refusal :=
  let n := len.toNat
  let u := dpa.toNat / 2 ^ 28
  let r := s.makeRegion dpa.toNat n (model == 1#8) cls.toNat slot.toNat place.toNat (spillOk == 1#8) mask false
  let i := s.freeRegion.getD 0
  .next (s.command (leBytes 8 dpa.toNat ++ leBytes 4 len.toNat ++ leBytes 1 model.toNat ++ leBytes 1 cls.toNat ++ leBytes 2 slot.toNat ++ leBytes 1 place.toNat ++ leBytes 1 spillOk.toNat ++ leBytes 2 mask.toNat) h { code := 0xC303, cls := .f, changes := true, busy := s.pagesInChange (u * 65536) ((u + n) * 65536 - 1) }
    (Ans.after ([{ bad := decide (1 < model.toNat), rc := rcInput, at' := 3 }, { bad := decide (3 < cls.toNat), rc := rcInput, at' := 4 },
                 { bad := decide (cls = 1#8 ∧ 4095 < slot.toNat), rc := rcInput, at' := 5 }, { bad := decide (2 < place.toNat), rc := rcInput, at' := 6 },
                 { bad := decide (1 < spillOk.toNat), rc := rcInput, at' := 7 }] ++ s.regionChecks dpa.toNat n cls.toNat slot.toNat mask)
      (.done (s.addRegion i r) 0 (leBytes 2 i ++ leBytes 4 r.sbase))))

/-- A region is deleted: its pages return to UNWRITTEN, whatever moves them; a fixed slot is zeroised; a retirement goes on without it (R352, Table 7.8). -/
def State.removeRegion (s : State) (i : Nat) (r : Region) : State :=
  let s := (s.sec.retire.filter (fun (x : RetireOp) => x.region == i)).foldl (fun (s : State) (x : RetireOp) => (s.dropGather x.page).freeCopy x.page) s
  let s : State := { s with sec := { s.sec with retire := s.sec.retire.filter (fun (x : RetireOp) => x.region != i) } }
  let s := (s.pagesIn (r.base * 65536) ((r.base + r.len) * 65536 - 1)).foldl State.endPage s
  let s : State := { s with regions := Tbl.del s.regions i }
  let s := if r.cls = .vitrine then s.updKey r.key (fun (x : KeySlot) => { x with st := .zeroising }) else s
  if r.oldValid then s.retireCheck r.oldKey r.key else s

/-- An LD's extent map, or a lease or the lend region, names a region (R352). -/
def State.regionUsed (s : State) (i : Nat) (r : Region) : Bool :=
  r.lend || s.lds.any (fun (d : Nat × Ld) => d.2.exts.any (fun (e : Extent) => e.region == i))

/-- DELETE_REGION (R352). -/
def execDeleteRegion (h : Hdr) (region : BitVec 16) (s : State) : Host.Outcome State Fault Refusal :=
  let i := region.toNat
  .next (match Tbl.look s.regions i with
    | none => s.command (leBytes 2 region.toNat) h { code := 0xC304, cls := .f, changes := true } (.fail 0x8002 1 0)
    | some r => s.command (leBytes 2 region.toNat) h { code := 0xC304, cls := .f, changes := true, busy := s.pagesInChange (r.base * 65536) ((r.base + r.len) * 65536 - 1) }
      (Ans.after [{ bad := s.regionUsed i r, rc := 0x800E, at' := 1 }] (.done (s.removeRegion i r) 0 [])))

/-- The reply of GET_REGION: the descriptor, then the fields of Tables 7.2 and 5.4. -/
def regionBody (r : Region) : List Byte :=
  leBytes 8 (r.base * 2 ^ 28) ++ leBytes 4 r.len ++ leBytes 1 (if r.hdmDb then 1 else 0) ++ leBytes 1 (clsCode r.cls) ++ leBytes 2 r.key
    ++ leBytes 2 r.oldKey ++ leBytes 1 (if r.oldValid then 1 else 0) ++ leBytes 5 r.cursor ++ leBytes 3 r.sbase
    ++ leBytes 1 (if r.readonly then 1 else 0) ++ leBytes 1 (if r.lost then 1 else 0) ++ leBytes 1 r.place ++ leBytes 1 (if r.spillOk then 1 else 0)
    ++ leBytes 2 r.mask.toNat

/-- GET_REGION (R179). -/
def execGetRegion (h : Hdr) (region : BitVec 16) (s : State) : Host.Outcome State Fault Refusal :=
  .next (s.command (leBytes 2 region.toNat) h { code := 0xC305, cls := .m }
    (match Tbl.look s.regions region.toNat with
     | some r => .done s 0 (regionBody r)
     | none => .fail 0x8002 1 0))

/-- STATE of GET_KEY_STATUS. -/
def keyCode : KeyState → Nat
  | .free => 0
  | .active => 1
  | .retiring => 2
  | .zeroising => 3

/-- GET_KEY_STATUS (R197). -/
def execGetKeyStatus (h : Hdr) (slot : BitVec 16) (s : State) : Host.Outcome State Fault Refusal :=
  let k := slot.toNat
  let x := s.key k
  .next (s.command (leBytes 2 slot.toNat) h { code := 0xC306, cls := .m }
    (Ans.after [{ bad := decide (4095 < k), rc := rcInput, at' := 1 }]
      (.done s 0 (leBytes 1 (keyCode x.st) ++ leBytes 1 (if x.fixed then 1 else 0) ++ leBytes 2 (s.boundTo k).length
        ++ leBytes 2 (bitsOf (s.wordNow 0x500004) 0 13) ++ leBytes 1 s.retirements))))

/-- GET_LOSSES (R202). -/
def execGetLosses (h : Hdr) (s : State) : Host.Outcome State Fault Refusal :=
  .next (s.command [] h { code := 0xC307, cls := .m }
    (.done s.advanceFree 0 ((List.range 64).flatMap (fun n => s.word8 (0x501000 + 8 * n)) ++ leBytes 4 (s.rd Reg.SEC_ROOT_LOST_LOST)
      ++ leBytes 1 (s.rd Reg.SEC_STATUS_LOSS_OVF))))

/-! ### The lend region (R337) -/

/-- CREATE_LEND_REGION (R337, R351). -/
def execCreateLendRegion (h : Hdr) (dpa : BitVec 64) (len : BitVec 32) (cls : BitVec 8) (slot : BitVec 16) (s : State) : Host.Outcome State Fault Refusal :=
  let n := len.toNat
  let u := dpa.toNat / 2 ^ 28
  let r := s.makeRegion dpa.toNat n false cls.toNat slot.toNat 1 false 0 true
  let i := s.freeRegion.getD 0
  .next (s.command (leBytes 8 dpa.toNat ++ leBytes 4 len.toNat ++ leBytes 1 cls.toNat ++ leBytes 2 slot.toNat) h { code := 0xC601, cls := .f, changes := true, busy := s.pagesInChange (u * 65536) ((u + n) * 65536 - 1) }
    (Ans.after ([{ bad := s.lendRegion.isSome, rc := 0x8005 }, { bad := decide (1 < cls.toNat), rc := rcInput, at' := 3 },
                 { bad := decide (cls = 1#8 ∧ 4095 < slot.toNat), rc := rcInput, at' := 4 }] ++ s.regionChecks dpa.toNat n cls.toNat slot.toNat 0)
      (.done (s.addRegion i r).showLend 0 (leBytes 2 i))))

/-- DELETE_LEND_REGION (R337). -/
def execDeleteLendRegion (h : Hdr) (s : State) : Host.Outcome State Fault Refusal :=
  .next (s.command [] h { code := 0xC602, cls := .f, changes := true, busy := s.lendRegion.any (fun x => s.pagesInChange (x.2.base * 65536) ((x.2.base + x.2.len) * 65536 - 1)) }
    (match s.lendRegion with
     | none => .fail 0x8002 0 0
     | some (i, r) => Ans.after [{ bad := decide (s.lent ≠ []), rc := 0x800E }] (.done (s.removeRegion i r).showLend 0 [])))

end Sys2Proof.Machine
end

