-- ==== Sys2Proof/Machine/Service.lean ====
section
/-! DEFINITION. The C4 and C5 commands (Tables 15.10 and 15.11): Press queues, range passes, repairs and the channels' error records. -/
namespace Sys2Proof.Machine

/-! ### Press queues (R172, R177) -/

/-- The lowest queue that does not exist, whose ring has no descriptor left to end and whose jobs have all ended. (DEDUCED, unsafe, log entry 33) -/
def State.freeQueue (s : State) : Option Nat :=
  firstBelow 64 (fun q => !s.flag (Reg.PRS_Q_CFG_EN q) && (Tbl.look s.press.aborting q).isNone && (s.qJobs q).isEmpty)

/-- A queue is created: an empty ring of an LD. -/
def State.makeQueue (s : State) (q i ring log2 : Nat) : State :=
  let b := 0x401000 + 0x20 * q
  let s := { s with press := { s.press with lastHost := Tbl.del s.press.lastHost q, fenced := s.press.fenced.filter (· != q) } }
  let s := ((s.setDword b (BitVec.ofNat 64 ring)).setWord (b + 12) 0).setWord (b + 16) 0
  ((s.setFlag (Reg.PRS_Q_CFG_EN q) true).wr (Reg.PRS_Q_CFG_LOG2_SIZE q) log2).wr (Reg.PRS_Q_CFG_LD_INDEX q) i

/-- CREATE_QUEUE (R172). -/
def execCreateQueue (h : Hdr) (ring : BitVec 64) (log2 : BitVec 8) (s : State) : Host.Outcome State Fault Refusal :=
  let i := (hdrOwn h).getD 64
  .next (s.command (leBytes 8 ring.toNat ++ leBytes 1 log2.toNat) h { code := 0xC400, cls := .u, changes := true, namesLd := true }
    (Ans.after [{ bad := (s.ld? i).isNone, rc := 0x8002, at' := hdrAt h 0 },
                { bad := decide (ring.toNat % 64 ≠ 0), rc := rcInput, at' := hdrAt h 1 },
                { bad := decide (log2.toNat < 4 ∨ 12 < log2.toNat), rc := 0x800F, at' := hdrAt h 2 }]
      (match s.freeQueue with
       | some q => .done (s.makeQueue q i ring.toNat log2.toNat) 0 (leBytes 1 q)
       | none => .fail 0x8004 0 0)))

/-- A queue that exists, of the issuing LD; the Fabric Manager may name any. -/
def State.ownsQueue (s : State) (h : Hdr) (q : Nat) : Bool :=
  decide (q < 64) && s.flag (Reg.PRS_Q_CFG_EN q) && (match h.src with | .ld i => s.qLd q == i.val | _ => true)

/-- DELETE_QUEUE (R172, R177): running jobs complete, and descriptors not started end with ABORTED. -/
def execDeleteQueue (h : Hdr) (q : BitVec 8) (s : State) : Host.Outcome State Fault Refusal :=
  .next (s.command (leBytes 1 q.toNat) h { code := 0xC401, cls := .u, changes := true }
    (Ans.after [{ bad := !s.ownsQueue h q.toNat, rc := 0x8002, at' := 1 }] (.done (s.deleteQueue q.toNat true) 0 [])))

/-- QUEUE_TAIL (R172). -/
def execQueueTail (h : Hdr) (q : BitVec 8) (tail : BitVec 16) (s : State) : Host.Outcome State Fault Refusal :=
  .next (s.command (leBytes 1 q.toNat ++ leBytes 2 tail.toNat) h { code := 0xC402, cls := .u, changes := true }
    (Ans.after [{ bad := !s.ownsQueue h q.toNat, rc := 0x8002, at' := 1 }] (.done (s.postTail q.toNat tail.toNat) 0 [])))

/-- GET_QUEUE (R172). -/
def execGetQueue (h : Hdr) (q : BitVec 8) (s : State) : Host.Outcome State Fault Refusal :=
  let n := q.toNat
  .next (s.command (leBytes 1 q.toNat) h { code := 0xC403, cls := .u }
    (Ans.after [{ bad := !s.ownsQueue h n, rc := 0x8002, at' := 1 }]
      (.done s 0 (leBytes 1 (s.rd (Reg.PRS_Q_CFG_EN n)) ++ leBytes 1 (s.rd (Reg.PRS_Q_CFG_LOG2_SIZE n)) ++ leBytes 2 (s.rd (Reg.PRS_Q_HEAD_HEAD n))
        ++ leBytes 2 (s.rd (Reg.PRS_Q_TAIL_TAIL n))))))

/-- SET_PRESS (R158). -/
def execSetPress (h : Hdr) (offload retireAt : BitVec 8) (s : State) : Host.Outcome State Fault Refusal :=
  let w := withField (withField (s.word 0x400000) Reg.PRS_CFG_OFFLOAD_EN offload.toNat) Reg.PRS_CFG_RETIRE_AT retireAt.toNat
  .next (s.command (leBytes 1 offload.toNat ++ leBytes 1 retireAt.toNat) h { code := 0xC404, cls := .f, changes := true }
    (Ans.after [{ bad := decide (1 < offload.toNat), rc := rcInput, at' := 1 }] (.done (s.writeReg 0x400000 w) 0 [])))

/-- GET_PRESS (R158). -/
def execGetPress (h : Hdr) (s : State) : Host.Outcome State Fault Refusal :=
  .next (s.command [] h { code := 0xC405, cls := .m }
    (.done s.advanceFree 0 (leBytes 8 (s.rd Reg.PRS_RETIRED_ENGINE) ++ leBytes 2 (s.rd Reg.PRS_VERIFY_FAILS_COUNT) ++ leBytes 2 (s.rd Reg.PRS_FAULTS_COUNT)
      ++ leBytes 1 (s.rd Reg.PRS_FAULTS_LAST_FAULT) ++ s.word8 0x400018)))

/-! ### Range passes (R256, R257) -/

/-- A number for a range pass: at most 4 run at once. -/
def State.freePass (s : State) : Option Nat := (firstBelow 4 (fun n => (s.pass? (n + 1)).isNone)).map (· + 1)

/-- A range lies outside the space named: above H, or above the LD's DPA. -/
def State.outside (s : State) (h : Hdr) (space dpa len : Nat) : Bool :=
  if space = 1 then decide (s.boot.h * 2 ^ 28 < dpa + len)
  else match (hdrOwn h).bind s.ld? with
    | some d => decide (d.dpaEnd < dpa + len)
    | none => false

/-- A range pass starts: one outside its space, or of no length, has nothing to visit. (DEDUCED, unsafe, log entry 70) -/
def State.startPass (s : State) (h : Hdr) (n space dpa len : Nat) : State :=
  let out := s.outside h space dpa len
  let x : RangePass := { id := n, owner := (match h.src with | .ld i => some i.val | _ => none), ldDpa := if space = 1 then none else hdrOwn h, next := dpa / 4096, last := (dpa + len - 1) / 4096, start := s.tick,
                         done := out || len == 0, status := if out then 2 else 0 }
  { s with mgmt := { s.mgmt with passes := s.mgmt.passes ++ [x] } }

/-- SCRUB_RANGE (R256). -/
def execScrubRange (h : Hdr) (space : BitVec 8) (dpa len : BitVec 64) (s : State) : Host.Outcome State Fault Refusal :=
  .next (s.command (leBytes 1 space.toNat ++ leBytes 8 dpa.toNat ++ leBytes 8 len.toNat) h { code := 0xC500, cls := .u, bg := true, namesLd := space == 0#8 }
    (Ans.after [{ bad := decide (1 < space.toNat), rc := rcInput, at' := hdrAt h 1 },
                { bad := !s.spaceOk h space.toNat, rc := 0x8001, at' := hdrAt h 1 },
                { bad := space == 0#8 && ((hdrOwn h).bind s.ld?).isNone, rc := 0x8002, at' := hdrAt h 0 },
                { bad := decide (dpa.toNat % 4096 ≠ 0), rc := rcInput, at' := hdrAt h 2 }]
      (match s.freePass with
       | some n => .started (s.startPass h n space.toNat dpa.toNat len.toNat) (.scrub n)
       | none => .fail 0x8004 0 0)))

/-- The pass of a background command ends after its current page. (DEDUCED, unsafe, log entry 70) -/
def State.stopPass (s : State) (b : Bg) : State :=
  match b.why with
  | .scrub n => match s.pass? n with
    | some x => if x.done then s else s.updPass n (fun y => { y with stop := true, status := 1 })
    | none => s
  | _ => s

/-- A background command is a range pass. -/
def bgIsScrub (b : Bg) : Bool := match b.why with | .scrub _ => true | _ => false

/-- CANCEL_SCRUB (R256). -/
def execCancelScrub (h : Hdr) (s : State) : Host.Outcome State Fault Refusal :=
  .next (s.command [] h { code := 0xC501, cls := .u, changes := true }
    (match (s.bgOf h.src).filter bgIsScrub with
     | some b => .done (s.stopPass b) 0 []
     | none => .fail 0x8005 0 0))

/-- The summary of a range pass (Table 10.3); a tick is 1 / (N × 12.5 MHz). -/
def State.passSummary (s : State) (x : RangePass) : List Byte :=
  let ms := (s.tick - x.start) / (s.rootN * 12500)
  leBytes 1 x.status ++ leBytes 3 0 ++ leBytes 4 x.skipped ++ leBytes 8 x.lines ++ leBytes 4 x.ce ++ leBytes 4 x.ue ++ leBytes 4 x.poison
    ++ leBytes 2 x.tagFails ++ leBytes 2 x.decFaults ++ leBytes 4 x.remaps ++ leBytes 4 ms ++ leBytes 8 (x.firstFail.getD 0) ++ leBytes 8 (x.lastFail.getD 0) ++ leBytes 8 0

/-! ### Repairs and error records (R249 to R255) -/

/-- The lowest repair entry of a channel that is not valid. -/
def State.freePpr (s : State) (c : Nat) : Option Nat := firstBelow 8 (fun j => !s.flag (Reg.DMC_PPR_VALID c j))

/-- A repair is placed in an entry. -/
def State.placePpr (s : State) (c j lr sub bg ba row dev : Nat) : State :=
  let s := ((s.setFlag (Reg.DMC_PPR_VALID c j) true).wr (Reg.DMC_PPR_LR c j) lr).wr (Reg.DMC_PPR_SUBCH c j) sub
  ((((s.wr (Reg.DMC_PPR_BG c j) bg).wr (Reg.DMC_PPR_BA c j) ba).wr (Reg.DMC_PPR_ROW c j) row).wr (Reg.DMC_PPR_DEVICE c j) dev).wr (Reg.DMC_PPR_RESULT c j) 0

/-- REQUEST_PPR (R255). -/
def execRequestPpr (h : Hdr) (ch lr sub bg ba : BitVec 8) (row : BitVec 32) (dev : BitVec 8) (s : State) : Host.Outcome State Fault Refusal :=
  let c := ch.toNat
  let above (x m p : Nat) : Chk := { bad := decide (m < x), rc := rcInput, at' := p }
  .next (s.command (leBytes 1 ch.toNat ++ leBytes 1 lr.toNat ++ leBytes 1 sub.toNat ++ leBytes 1 bg.toNat ++ leBytes 1 ba.toNat ++ leBytes 4 row.toNat ++ leBytes 1 dev.toNat) h { code := 0xC502, cls := .f, changes := true }
    (Ans.after [above c 15 1, above lr.toNat 15 2, above sub.toNat 1 3, above bg.toNat 7 4, above ba.toNat 3 5, above row.toNat 0x1FFFF 6, above dev.toNat 9 7]
      (match s.freePpr c with
       | some j => .done (s.placePpr c j lr.toNat sub.toNat bg.toNat ba.toNat row.toNat dev.toNat) 0 (leBytes 1 j)
       | none => .fail 0x8004 1 0)))

/-- The reply of GET_ERRORS. -/
def State.errorsBody (s : State) (c : Nat) : List Byte :=
  leBytes 4 (s.rd (Reg.DMC_CE_TOTAL_CE c)) ++ leBytes 2 (s.rd (Reg.DMC_UE_TOTAL_UE c)) ++ leBytes 2 (s.rd (Reg.DMC_UE_TOTAL_RETRY_OK c))
    ++ leBytes 8 (s.rd (Reg.DMC_UE_LAST_LINE c)) ++ s.word4 (0x1002010 + 0x80000 * c) ++ leBytes 1 (s.rd (Reg.DMC_REMAP_CTL_USED c))
    ++ leBytes 1 (s.rd (Reg.DMC_REMAP_CTL_FULL c)) ++ leBytes 2 (s.rd (Reg.DMC_REMAP_CTL_BAD_SPARES c))
    ++ (List.range 8).flatMap (fun j => leBytes 1 (s.rd (Reg.DMC_PPR_RESULT c j)))

/-- GET_ERRORS (R249). -/
def execGetErrors (h : Hdr) (ch : BitVec 8) (s : State) : Host.Outcome State Fault Refusal :=
  .next (s.command (leBytes 1 ch.toNat) h { code := 0xC503, cls := .m }
    (Ans.after [{ bad := decide (15 < ch.toNat), rc := rcInput, at' := 1 }] (.done s.advanceFree 0 (s.errorsBody ch.toNat))))

/-- The reply of READ_CE_LOG, read under FREEZE. -/
def State.ceLogBody (s : State) (c : Nat) : List Byte :=
  let e (n : Nat) : List Byte := s.word8 (0x1002600 + 0x80000 * c + 0x10 * n) ++ s.word8 (0x1002608 + 0x80000 * c + 0x10 * n)
  leBytes 1 (s.rd (Reg.DMC_CE_LOG_CTL_NEXT c)) ++ leBytes 1 (s.rd (Reg.DMC_CE_LOG_CTL_OVF c)) ++ leBytes 2 (s.rd (Reg.DMC_CE_LOG_CTL_MISSED c))
    ++ (List.range 32).flatMap e

/-- FREEZE is cleared at the end of the reading, and every entry counts as read (R252). -/
def State.thawCeLog (s : State) (c : Nat) : State :=
  (s.setFlag (Reg.DMC_CE_LOG_CTL_FREEZE c) false).updCh c (fun (x : Dmc) => { x with unread := [] })

/-- READ_CE_LOG (R252). -/
def execReadCeLog (h : Hdr) (ch : BitVec 8) (s : State) : Host.Outcome State Fault Refusal :=
  .next (s.command (leBytes 1 ch.toNat) h { code := 0xC504, cls := .m, changes := true }
    (Ans.after [{ bad := decide (15 < ch.toNat), rc := rcInput, at' := 1 }] (.done (s.thawCeLog ch.toNat).advanceFree 0 (s.ceLogBody ch.toNat))))

/-- SET_PATROL (R258). -/
def execSetPatrol (h : Hdr) (periodH : BitVec 8) (s : State) : Host.Outcome State Fault Refusal :=
  .next (s.command (leBytes 1 periodH.toNat) h { code := 0xC505, cls := .f, changes := true }
    (.done (s.writeReg 0x109000 (withField (s.word 0x109000) Reg.TRL_RAKE_CFG_PERIOD_H periodH.toNat)) 0 []))

end Sys2Proof.Machine
end

