-- ==== Sys2Proof/Machine/Supply.lean ====
section
/-! DEFINITION. The C6, C7 and C8 commands (Tables 15.12 to 15.14): Graft settings and leases, the Gatehouse, and telemetry. -/
namespace Sys2Proof.Machine

/-! ### Graft (R320, R337 to R339) -/

/-- The images of GFT_CFG and GFT_LEASE_CFG that SET_GRAFT writes. -/
def State.setGraft (s : State) (lending portEn limit gib term recallS borrow : Nat) : State :=
  let w := withField (withField (withField (s.word 0x2000000) Reg.GFT_CFG_LENDING_EN lending) Reg.GFT_CFG_PORT_EN portEn) Reg.GFT_CFG_REPLAY_LIMIT limit
  let v := withField (withField (withField (withField (s.word 0x2000008) Reg.GFT_LEASE_CFG_REQ_GIB gib) Reg.GFT_LEASE_CFG_TERM_S term)
    Reg.GFT_LEASE_CFG_RECALL_S recallS) Reg.GFT_LEASE_CFG_BORROW_EN borrow
  (s.writeReg 0x2000000 w).writeReg 0x2000008 v

/-- SET_GRAFT (R338). -/
def execSetGraft (h : Hdr) (lending portEn limit : BitVec 8) (gib : BitVec 16) (term : BitVec 8) (recallS : BitVec 16) (borrow : BitVec 8) (s : State) :
    Host.Outcome State Fault Refusal :=
  .next (s.command (leBytes 1 lending.toNat ++ leBytes 1 portEn.toNat ++ leBytes 1 limit.toNat ++ leBytes 2 gib.toNat ++ leBytes 1 term.toNat ++ leBytes 2 recallS.toNat ++ leBytes 1 borrow.toNat) h { code := 0xC600, cls := .f, changes := true }
    (Ans.after [{ bad := decide (1 < lending.toNat), rc := rcInput, at' := 1 }, { bad := decide (1 < borrow.toNat), rc := rcInput, at' := 7 }]
      (.done (s.setGraft lending.toNat portEn.toNat limit.toNat gib.toNat term.toNat recallS.toNat borrow.toNat) 0 [])))

/-- RECALL_LEASE (R339, Table 14.8). -/
def execRecallLease (h : Hdr) (lent : BitVec 8) (s : State) : Host.Outcome State Fault Refusal :=
  let n := lent.toNat
  .next (s.command (leBytes 1 lent.toNat) h { code := 0xC603, cls := .f, changes := true }
    (Ans.after [{ bad := decide (63 < n), rc := rcInput, at' := 1 },
                { bad := !s.flag (Reg.GFT_LENT_VALID n), rc := 0x8002, at' := 1 },
                { bad := s.flag (Reg.GFT_LENT_RECALLING n), rc := 0x8005, at' := 1 }] (.done (s.recallLent n) 0 [])))

/-- A width is wanted of a port, and the command waits for its change to end (R320, R321). (DEDUCED, unsafe, log entry 44) -/
def State.wantWidth (s : State) (h : Hdr) (g w : Nat) : Ans :=
  if s.rd (Reg.GFT_PORT_STATUS_WIDTH g) = w ∧ (s.gp g).wantWidth = none then .done s 0 []
  else .later (s.updGp g (fun (p : GPortSt) => { p with wantWidth := some w, cmdWidth := p.cmdWidth ++ [{ src := h.src, reqId := h.reqId, width := w }] }))

/-- SET_PORT_WIDTH (R320). -/
def execSetPortWidth (h : Hdr) (port width : BitVec 8) (s : State) : Host.Outcome State Fault Refusal :=
  .next (s.command (leBytes 1 port.toNat ++ leBytes 1 width.toNat) h { code := 0xC604, cls := .f, changes := true }
    (Ans.after [{ bad := decide (1 < port.toNat), rc := rcInput, at' := 1 }, { bad := decide (3 < width.toNat), rc := rcInput, at' := 2 },
                { bad := !s.portUp port.toNat, rc := 0x8010, at' := 1 }] (s.wantWidth h port.toNat width.toNat)))

/-- The reply of GET_GRAFT. -/
def State.graftBody (s : State) : List Byte :=
  [0x2000100, 0x2000110, 0x2000104, 0x2000114, 0x2000108, 0x2000118, 0x200000C].flatMap s.word4
    ++ (List.range 64).flatMap (fun n => s.word8 (0x2001000 + 0x10 * n)) ++ (List.range 64).flatMap (fun n => s.word4 (0x2001008 + 0x10 * n))
    ++ (List.range 64).flatMap (fun n => s.word8 (0x2002000 + 0x8 * n))

/-- GET_GRAFT (R338). -/
def execGetGraft (h : Hdr) (s : State) : Host.Outcome State Fault Refusal :=
  .next (s.command [] h { code := 0xC605, cls := .m } (.done s.advanceFree 0 s.graftBody))

/-! ### The Gatehouse (R303, R304, R315, R316) -/

/-- The Gatehouse link is down: no command can write over it. (DEDUCED, unsafe, log entry 53) -/
def State.gthDown (s : State) : Chk := { bad := !s.flag Reg.GLB_CLK_STATUS_GTH_LINK_UP, rc := 0x8010 }

/-- GET_POWER (R316). -/
def execGetPower (h : Hdr) (s : State) : Host.Outcome State Fault Refusal :=
  let feed (m st : Nat) : List Byte := s.word4 m ++ s.word4 (m + 4) ++ s.word4 (m + 8) ++ s.word8 (m + 16) ++ s.word4 st
  .next (s.command [] h { code := 0xC700, cls := .m }
    (.done s.advanceFree 0 (feed 0x2100040 0x210001C ++ feed 0x2100060 0x210002C ++ s.word4 0x210000C ++ s.word4 0x2100104)))

/-- A bit of GTH_CTL is written beside the latest values of its other bits. (DEDUCED, unsafe, log entry 53) -/
def State.pokeGthCtl (s : State) (b : Nat) : State := s.gthForward 0x2100000 (setBits (s.gthLatest 0x2100000) b 1 1)

/-- CLEAR_FEED (R304). -/
def execClearFeed (h : Hdr) (feed : BitVec 8) (s : State) : Host.Outcome State Fault Refusal :=
  .next (s.command (leBytes 1 feed.toNat) h { code := 0xC701, cls := .f, changes := true }
    (Ans.after [{ bad := decide (1 < feed.toNat), rc := rcInput, at' := 1 }, s.gthDown] (.done (s.pokeGthCtl (4 + feed.toNat)) 0 [])))

/-- SET_FEED_ENABLE (R304): both software enables go to GTH_CTL. -/
def execSetFeedEnable (h : Hdr) (a b : BitVec 8) (confirm : BitVec 16) (s : State) : Host.Outcome State Fault Refusal :=
  let w := setBits (setBits (s.gthLatest 0x2100000) 0 1 a.toNat) 1 1 b.toNat
  .next (s.command (leBytes 1 a.toNat ++ leBytes 1 b.toNat ++ leBytes 2 confirm.toNat) h { code := 0xC702, cls := .f, changes := true }
    (Ans.after [{ bad := decide (1 < a.toNat), rc := rcInput, at' := 1 }, { bad := decide (1 < b.toNat), rc := rcInput, at' := 2 },
                { bad := confirm != 0xC702#16, rc := rcInput, at' := 3 }, s.gthDown] (.done (s.gthForward 0x2100000 w) 0 [])))

/-- An image as the Gatehouse takes it: each field at the nearer end of its range (R316, R344). -/
def gthImage (e : Nat × Word) : Nat × Word := (e.1, mapFields e.1 (fun lo hi _ x => clampTo lo hi x) e.2)

/-- A register image whose window is narrower than 2.0 V (R303). -/
def narrow (e : Nat × Word) : Bool := isWindowReg e.1 && !wideEnough e.2

/-- SET_GTH_CONFIG (R303): the condition is checked before anything is forwarded. -/
def execSetGthConfig (h : Hdr) (pri autoReturn : BitVec 8) (timing outCfg aCfg aBreaker aShunt bCfg bBreaker bShunt : Word) (s : State) :
    Host.Outcome State Fault Refusal :=
  let given : List (Nat × Word) := [(0x2100004, timing), (0x2100008, outCfg), (0x2100010, aCfg), (0x2100014, aBreaker), (0x2100018, aShunt),
    (0x2100020, bCfg), (0x2100024, bBreaker), (0x2100028, bShunt)]
  let imgs := given.map gthImage
  let ctl := setBits (setBits (s.gthLatest 0x2100000) 2 1 pri.toNat) 3 1 autoReturn.toNat
  .next (s.command (leBytes 1 pri.toNat ++ leBytes 1 autoReturn.toNat ++ leBytes 4 timing.toNat ++ leBytes 4 outCfg.toNat ++ leBytes 4 aCfg.toNat ++ leBytes 4 aBreaker.toNat ++ leBytes 4 aShunt.toNat ++ leBytes 4 bCfg.toNat ++ leBytes 4 bBreaker.toNat ++ leBytes 4 bShunt.toNat) h { code := 0xC703, cls := .f, changes := true }
    (Ans.after [{ bad := decide (1 < pri.toNat), rc := rcInput, at' := 1 }, { bad := decide (1 < autoReturn.toNat), rc := rcInput, at' := 2 },
                s.gthDown, { bad := s.flag Reg.GTH_CTL_LOCK, rc := 0x8007 },
                { bad := imgs.any narrow, rc := 0x800F, at' := 3 + imgs.findIdx narrow }]
      (.done (imgs.foldl (fun (s : State) (e : Nat × Word) => s.gthForward e.1 e.2) (s.gthForward 0x2100000 ctl)) 0 [])))

/-- CLEAR_ENERGY (R315). -/
def execClearEnergy (h : Hdr) (feed : BitVec 8) (s : State) : Host.Outcome State Fault Refusal :=
  .next (s.command (leBytes 1 feed.toNat) h { code := 0xC704, cls := .f, changes := true }
    (Ans.after [{ bad := decide (1 < feed.toNat), rc := rcInput, at' := 1 }, s.gthDown] (.done (s.pokeGthCtl (6 + feed.toNat)) 0 [])))

/-- SET_VREF_VALUE (R243, R344): a value outside the register's range takes the nearer end. -/
def execSetVrefValue (h : Hdr) (v : Word) (s : State) : Host.Outcome State Fault Refusal :=
  .next (s.command (leBytes 4 v.toNat) h { code := 0xC705, cls := .f, changes := true }
    (Ans.after [s.gthDown, { bad := s.flag Reg.GTH_VREF_VALUE_LOCK, rc := 0x8007 }]
      (.done (s.gthForward 0x2100100 (BitVec.ofNat 32 (clampTo 2450000 2550000 v.toNat))) 0 [])))

/-! ### Telemetry (R362 to R370) -/

/-- SET_COUNTER (R362, R366). -/
def execSetCounter (h : Hdr) (group counter : BitVec 8) (event : BitVec 16) (s : State) : Host.Outcome State Fault Refusal :=
  .next (s.command (leBytes 1 group.toNat ++ leBytes 1 counter.toNat ++ leBytes 2 event.toNat) h { code := 0xC800, cls := .m, changes := true }
    (Ans.after [{ bad := decide (15 < group.toNat), rc := rcInput, at' := 1 }, { bad := decide (7 < counter.toNat), rc := rcInput, at' := 2 },
                { bad := !eventLegal event.toNat, rc := rcInput, at' := 3 }]
      (.done (s.setEvsel group.toNat counter.toNat event.toNat) 0 [])))

/-- The reply of READ_GROUP: TICKS and the counters of one tick (R363). -/
def State.groupBody (s : State) (g : Nat) : List Byte :=
  leBytes 8 (s.rd (Reg.CAT_GRP_TICKS_TICKS g)) ++ (List.range 8).flatMap (fun k => leBytes 8 (s.rd (Reg.CAT_GRP_CNT_COUNT g k)))

/-- READ_GROUP (R363). -/
def execReadGroup (h : Hdr) (group : BitVec 8) (s : State) : Host.Outcome State Fault Refusal :=
  .next (s.command (leBytes 1 group.toNat) h { code := 0xC801, cls := .m }
    (Ans.after [{ bad := decide (15 < group.toNat), rc := rcInput, at' := 1 }] (.done s 0 (s.groupBody group.toNat))))

/-- SET_SAMPLING (R367): writes CAT_SAMP_CTL and CAT_SAMP_HEADS. -/
def execSetSampling (h : Hdr) (enable : BitVec 8) (mask : BitVec 16) (cls : BitVec 8) (period : BitVec 16) (s : State) : Host.Outcome State Fault Refusal :=
  .next (s.command (leBytes 1 enable.toNat ++ leBytes 2 mask.toNat ++ leBytes 1 cls.toNat ++ leBytes 2 period.toNat) h { code := 0xC802, cls := .m, changes := true }
    (Ans.after [{ bad := decide (1 < enable.toNat), rc := rcInput, at' := 1 },
                { bad := decide (64 ≤ cls.toNat ∧ cls.toNat < 255), rc := rcInput, at' := 3 }]
      (.done ((s.sampCtl (period ++ cls ++ enable)).sampHeads (mask.setWidth 32)) 0 [])))

/-- The words of a sample record (Table 16.2). -/
def State.recordBytes (s : State) (e : Nat) : List Byte := (List.range 8).flatMap (fun k => leBytes 4 (s.word (0x2210000 + 0x20 * e + 4 * k)).toNat)

/-- READ_SAMPLES (R369). -/
def execReadSamples (h : Hdr) (start count : BitVec 16) (s : State) : Host.Outcome State Fault Refusal :=
  .next (s.command (leBytes 2 start.toNat ++ leBytes 2 count.toNat) h { code := 0xC803, cls := .m }
    (Ans.after [{ bad := decide (4095 < start.toNat), rc := rcInput, at' := 1 },
                { bad := decide (count.toNat = 0 ∨ 127 < count.toNat), rc := 0x800F, at' := 2 }]
      (.done s 0 ((List.range count.toNat).flatMap (fun k => s.recordBytes ((start.toNat + k) % 4096))))))

/-- SET_USER_ACCESS (R370). -/
def execSetUserAccess (h : Hdr) (enable : BitVec 8) (s : State) : Host.Outcome State Fault Refusal :=
  let i := (hdrOwn h).getD 64
  .next (s.command (leBytes 1 enable.toNat) h { code := 0xC804, cls := .u, changes := true, namesLd := true }
    (Ans.after [{ bad := (s.ld? i).isNone, rc := 0x8002, at' := hdrAt h 0 }, { bad := decide (1 < enable.toNat), rc := rcInput, at' := hdrAt h 1 }]
      (.done (s.wrBit Reg.CAT_USER_EN_USER i (enable == 1#8)) 0 [])))

end Sys2Proof.Machine
end

