-- ==== Sys2Proof/Machine/Images.lean ====
section
/-! DEFINITION. The C9 commands (Table 15.15): firmware images and boot records (R353 to R355), register access, and injected errors. -/
namespace Sys2Proof.Machine

/-! ### Firmware images -/

/-- FW_MIN_SVN of the settings in use (Table 15.18). -/
def State.minSvn (s : State) : Nat := setField s.boot.settings 0x0E 1

/-- The slot that is not running (R355). -/
def State.idleSlot (s : State) : Nat := 1 - s.rd Reg.BOOT_STATUS_SLOT

/-- One slot in the reply of GET_FW_INFO. -/
def State.slotInfo (s : State) (slot : Nat) : List Byte :=
  let r := s.checkImage slot s.minSvn
  let a := slotBase slot
  leBytes 1 (if r.1 = 0 then 1 else 0) ++ s.flashBytes (a + 4) 4 ++ [s.flashAt (a + 1)] ++ leBytes 1 r.2

/-- The reply of GET_FW_INFO. -/
def State.fwInfoBody (s : State) : List Byte :=
  leBytes 1 (s.rd Reg.BOOT_STATUS_SLOT) ++ s.slotInfo 0 ++ s.slotInfo 1 ++ leBytes 1 s.minSvn ++ [s.otpAt 320 &&& 0xF#8]

/-- GET_FW_INFO (R354). -/
def execGetFwInfo (h : Hdr) (s : State) : Host.Outcome State Fault Refusal :=
  .next (s.command [] h { code := 0xC900, cls := .u, rom := true } (.done s 0 s.fwInfoBody))

/-- A byte of the flash lies outside a slot. (DEDUCED, unsafe, log entry 65) -/
def outOfSlot (slot : Nat) (e : Nat × Byte) : Bool := slotOf e.1 != slot

/-- A slot is erased: its bytes read FFh. (PRESUMED, unsafe, log entry 45) -/
def State.eraseSlot (s : State) (slot : Nat) : State :=
  { s with mgmt := { s.mgmt with flash := s.mgmt.flash.filter (outOfSlot slot),
                                 erased := if s.mgmt.erased.contains slot then s.mgmt.erased else s.mgmt.erased ++ [slot] } }

/-- Data for the idle slot: OFFSET 0 first erases it (R355). (DEDUCED, unsafe, log entry 65) -/
def State.transfer (s : State) (off : Nat) (data : List Byte) : State :=
  let s' := if off = 0 then s.eraseSlot s.idleSlot else s
  s'.flashPut (slotBase s.idleSlot + off) data

/-- FW_TRANSFER (R355). -/
def execFwTransfer (h : Hdr) (off : BitVec 32) (len : BitVec 16) (data : List Byte) (s : State) : Host.Outcome State Fault Refusal :=
  .next (s.command (leBytes 4 off.toNat ++ leBytes 2 len.toNat ++ data) h { code := 0xC901, cls := .f, changes := true, rom := true, busy := s.fwInChange }
    (Ans.after [{ bad := data.length != len.toNat, rc := rcLength, at' := 3 },
                { bad := decide (len.toNat % 4 ≠ 0), rc := rcInput, at' := 2 },
                { bad := decide (len.toNat < 4 ∨ 4080 < len.toNat), rc := 0x800F, at' := 2 },
                { bad := decide (0x1000000 < off.toNat + len.toNat), rc := 0x800F, at' := 1 }]
      (.done (s.transfer off.toNat data) 0 [])))

/-- FW_COMMIT (R355): a background command; the slot is verified and the record written when it completes. -/
def execFwCommit (h : Hdr) (s : State) : Host.Outcome State Fault Refusal :=
  .next (s.command [] h { code := 0xC902, cls := .f, changes := true, bg := true, rom := true } (.started s .fwCommit))

/-- The boot record that a commit writes, and its SEQ: the record with the lower SEQ, one above the higher (R355). (DEDUCED, unsafe, log entry 65) -/
def State.nextRecord (s : State) : Nat × Nat :=
  match s.bootRecord 0, s.bootRecord 1 with
  | some (_, a), some (_, b) => if a < b then (0, b + 1) else (1, a + 1)
  | some (_, a), none => (1, a + 1)
  | none, some (_, b) => (0, b + 1)
  | none, none => (0, 1)

/-- What a commit's verify of the inactive slot leads to: 0 for a valid image, else the return code (R355). -/
def State.commitCode (s : State) : Nat :=
  match (s.checkImage s.idleSlot s.minSvn).1 with
  | 0 => 0
  | 3 => 0x800B
  | _ => 0x800A

/-- The reply of GET_BOOT_LOG. Records of boots that have not happened are free values. (DEDUCED, unsafe, log entry 65) -/
def State.bootLogBody (s : State) : List Byte :=
  let k := 16 - s.boot.bootLog.length
  s.word4 0x2400004 ++ ((List.range k).map (fun (j : Nat) => s.freeAt (1 + j)) ++ s.boot.bootLog).flatMap (fun (x : BitVec 64) => leBytes 8 x.toNat)

/-- GET_BOOT_LOG (R354). -/
def execGetBootLog (h : Hdr) (s : State) : Host.Outcome State Fault Refusal :=
  .next (s.command [] h { code := 0xC903, cls := .m, rom := true } (.done (s.skipFree 17) 0 s.bootLogBody))

/-! ### Registers and injected errors -/

/-- READ_REG (R10): as a BAR2 read by an LD with MANAGE. -/
def execReadReg (h : Hdr) (off : BitVec 32) (s : State) : Host.Outcome State Fault Refusal :=
  let r := s.read32 .full off.toNat
  .next (s.command (leBytes 4 off.toNat) h { code := 0xC910, cls := .f } (.done r.1 0 (leBytes 4 r.2.toNat)))

/-- WRITE_REG (R7): as the matching BAR2 write. -/
def execWriteReg (h : Hdr) (off v : BitVec 32) (s : State) : Host.Outcome State Fault Refusal :=
  .next (s.command (leBytes 4 off.toNat ++ leBytes 4 v.toNat) h { code := 0xC911, cls := .f, changes := true } (.done (s.writeReg off.toNat v) 0 []))

/-- The channel and media line of a line whose page is HOT. -/
def State.hotLine (s : State) (dpa : Nat) : Option (Nat × Nat) :=
  match (s.acc (dpa / 4096)).form with
  | .hot c fr _ => some (c, fr * 64 + dpa / 64 % 64)
  | _ => none

/-- An error is injected: into the next read, into that read and its retry, or as poison stored at once. (DESIGN CHOICE, unsafe, log entry 69) -/
def State.inject (s : State) (kind dpa c l : Nat) : State :=
  if kind = 3 then s.poisonLine (dpa / 64)
  else s.updCh c (fun (d : Dmc) => { d with inject := d.inject ++ [{ line := l, kind := kind, left := kind, page := dpa / 4096 }] })

/-- INJECT_ERROR (R249, R251, R253). -/
def execInjectError (h : Hdr) (kind : BitVec 8) (dpa : BitVec 64) (s : State) : Host.Outcome State Fault Refusal :=
  .next (s.command (leBytes 1 kind.toNat ++ leBytes 8 dpa.toNat) h { code := 0xC920, cls := .f, changes := true }
    (Ans.after [{ bad := !(setField s.boot.settings 9 1).testBit 1, rc := 0x8013 },
                { bad := decide (kind.toNat < 1 ∨ 3 < kind.toNat), rc := rcInput, at' := 1 },
                { bad := decide (s.boot.h * 2 ^ 28 ≤ dpa.toNat), rc := rcInput, at' := 2 }]
      (match s.hotLine dpa.toNat with
       | some (c, l) => .done (s.inject kind.toNat dpa.toNat c l) 0 []
       | none => .fail 0x8005 2 0)))

end Sys2Proof.Machine
end

