-- ==== Sys2Proof/Machine/Standard.lean ====
section
/-! DEFINITION. The standard mailbox commands of Table 15.1, with opcodes and layouts of CXL 3.1 where the spec gives none: events, firmware,
timestamp, logs, Identify, Sanitize, and Dynamic Capacity (R55 to R58). -/
namespace Sys2Proof.Machine

/-- A standard command. A reply of one carries no request identity. (PRESUMED, unsafe, log entry 9) (DEDUCED, unsafe, log entry 60) -/
def stdOp (code : Nat) (changes bg : Bool) : CmdOp := { code := code, cls := .u, changes := changes, bg := bg, ycs := false }

/-- The LD that a standard command acts on. (DEDUCED, unsafe, log entry 60) -/
def State.ownLd (s : State) (h : Hdr) : Option (Nat × Ld) :=
  (hdrOwn h).bind (fun (i : Nat) => (s.ld? i).map (fun (d : Ld) => (i, d)))

/-- A standard command that acts on an LD: the Fabric Manager must name one that exists. (DEDUCED, unsafe, log entry 60) -/
def State.onLd (s : State) (h : Hdr) (f : Nat → Ld → Ans) : Ans :=
  match s.ownLd h with
  | some (i, d) => f i d
  | none => .fail rcInput 0 0

/-! ### Events (R376, R380) -/

/-- The UUID of the vendor records (R376). -/
def vendorUuid : List Byte := (beBytes 16 0x5f1c0a4e96404b7e8e2a17d3c0a9e640).map (BitVec.ofNat 8)

/-- The UUID of Dynamic Capacity Event Records. -/
def dcUuid : List Byte := (beBytes 16 0xca95afa7f18340188c2f95268e101a2a).map (BitVec.ofNat 8)

/-- An event record of 128 bytes: UUID, length, severity, handle, timestamp, and 80 bytes of data. (PRESUMED, unsafe, log entry 9) -/
def recordImage (log : Nat) (r : EvRec) : List Byte :=
  let head (u : List Byte) (sev : Nat) : List Byte :=
    u ++ leBytes 1 128 ++ leBytes 3 sev ++ leBytes 2 r.handle ++ leBytes 2 0 ++ leBytes 8 r.time ++ leBytes 16 0
  match r.body with
  | .vendor im => head vendorUuid log ++ leBytes 32 im.toNat ++ leBytes 48 0
  | .dc ty region base len tag => head dcUuid 0 ++ leBytes 1 ty ++ leBytes 3 0 ++ leBytes 1 region ++ leBytes 3 0 ++ leBytes 8 base ++ leBytes 8 len
      ++ leBytes 16 tag.toNat ++ leBytes 40 0

/-- The reply of Get Event Records: flags, overflow count and times, and as many records as a payload holds. -/
def State.recordsBody (s : State) (log ovf : Nat) (rs : List EvRec) : List Byte :=
  let now := rs.take 31
  let flags := (if ovf = 0 then 0 else 1) + (if now.length < rs.length then 2 else 0)
  let times := if ovf = 0 then leBytes 16 0 else leBytes 8 (s.freeAt 0).toNat ++ leBytes 8 (s.freeAt 1).toNat
  leBytes 2 flags ++ leBytes 2 ovf ++ times ++ leBytes 2 now.length ++ leBytes 10 0 ++ now.flatMap (recordImage log)

/-- The device-log entries of a severity, oldest first: those that a payload holds of the newest. (DESIGN CHOICE, unsafe, log entry 46) -/
def State.deviceRecords (s : State) (sev : Nat) : List EvRec :=
  let n := s.rd Reg.ALR_LOG_STATUS_NEXT
  let es := ((List.range (min 1024 s.mgmt.logSeq)).map (fun k => (n + 1023 - k) % 1024)).filter (fun e => s.rd (Reg.ALR_LOG_SEV e) == sev)
  ((es.take 31).reverse).map (fun e => ({ handle := e + 1, time := s.rd (Reg.ALR_LOG_TICK e), body := .vendor (s.logImage e) } : EvRec))

/-- GET_EVENT_RECORDS (R376): an LD's log, or the device log on the sideband. -/
def execGetEventRecords (h : Hdr) (log : BitVec 8) (s : State) : Host.Outcome State Fault Refusal :=
  let k := log.toNat
  .next (s.command (leBytes 1 log.toNat) h (stdOp 0x0100 false false)
    (Ans.after [{ bad := decide (4 < k), rc := rcLog }]
      (if hdrIsFm h && h.ldIx.isNone then .done s 0 (s.recordsBody k 0 (s.deviceRecords k))
       else s.onLd h (fun _ d => .done (s.skipFree 2) 0 (s.recordsBody k (Tbl.lookD d.logOvf 0 k) (Tbl.lookD d.logs [] k))))))

/-- Records leave a log: all, with the overflow count, or those of the handles given. (DESIGN CHOICE, unsafe, log entry 46) -/
def State.clearRecords (s : State) (i k : Nat) (all : Bool) (hs : List Nat) : State :=
  s.updLd i (fun (d : Ld) =>
    let l := Tbl.lookD d.logs [] k
    if all then { d with logs := Tbl.putD d.logs [] k [], logOvf := Tbl.putD d.logOvf 0 k 0 }
    else
      let rest := l.filter (fun (r : EvRec) => !hs.contains r.handle)
      { d with logs := Tbl.putD d.logs [] k rest, logOvf := if rest = [] then Tbl.putD d.logOvf 0 k 0 else d.logOvf })

/-- CLEAR_EVENT_RECORDS (R376). A handle that is not in the log refuses the whole. -/
def execClearEventRecords (h : Hdr) (log : BitVec 8) (clearAll : Bool) (handles : List (BitVec 16)) (s : State) : Host.Outcome State Fault Refusal :=
  let k := log.toNat
  let hs := handles.map (fun (x : BitVec 16) => x.toNat)
  .next (s.command (leBytes 1 log.toNat ++ leBytes 1 clearAll.toNat ++ leBytes 4 handles.length ++ handles.flatMap (fun x => leBytes 2 x.toNat)) h (stdOp 0x0101 true false)
    (Ans.after [{ bad := decide (4 < k), rc := rcLog }]
      (s.onLd h (fun i d =>
        let l := Tbl.lookD d.logs [] k
        if !clearAll && hs.any (fun x => !l.any (fun (r : EvRec) => r.handle == x)) then .fail rcHandle 0 0
        else .done (s.clearRecords i k clearAll hs) 0 []))))

/-- GET_EVENT_INTERRUPT_POLICY (R380): mode and message number of each log. -/
def execGetEventInterruptPolicy (h : Hdr) (s : State) : Host.Outcome State Fault Refusal :=
  .next (s.command [] h (stdOp 0x0102 false false)
    (s.onLd h (fun _ d => .done s 0 ((List.range 5).flatMap (fun k => leBytes 1 (Tbl.lookD d.policy 0 k + 16 * (k + 1)))))))

/-- The setting of log k asks for firmware interrupts, or for a message number other than that of Table 17.5 (R380), also where its mode is no interrupt. (DEDUCED, unsafe, log entry 71) -/
def badPolicy (e : BitVec 8 × Nat) : Bool :=
  let m := e.1.toNat
  decide (1 < m % 16 ∨ m / 16 ≠ e.2 + 1)

/-- The policy with the modes given for its first logs. (PRESUMED, unsafe, log entry 9) -/
def newPolicy (t : Tbl Nat) (modes : List (BitVec 8)) : Tbl Nat :=
  (modes.zipIdx).foldl (fun (t : Tbl Nat) (e : BitVec 8 × Nat) => Tbl.putD t 0 e.2 (e.1.toNat % 16)) t

/-- SET_EVENT_INTERRUPT_POLICY (R380). -/
def execSetEventInterruptPolicy (h : Hdr) (modes : List (BitVec 8)) (s : State) : Host.Outcome State Fault Refusal :=
  .next (s.command modes h (stdOp 0x0103 true false)
    (Ans.after [{ bad := decide (modes.length < 4 ∨ 5 < modes.length), rc := rcLength }, { bad := modes.zipIdx.any badPolicy, rc := rcInput }]
      (s.onLd h (fun i _ => .done (s.updLd i (fun (d : Ld) => { d with policy := newPolicy d.policy modes })) 0 []))))

/-! ### Firmware, timestamp and logs (Table 15.1) -/

/-- CXL_GET_FW_INFO: slots, the slot that runs, and offline activation only. Revision strings are free values. -/
def execCxlGetFwInfo (h : Hdr) (s : State) : Host.Outcome State Fault Refusal :=
  .next (s.command [] h (stdOp 0x0200 false false)
    (.done (s.skipFree 8) 0 (leBytes 1 2 ++ leBytes 1 (s.rd Reg.BOOT_STATUS_SLOT + 1) ++ leBytes 14 0
      ++ (List.range 8).flatMap (fun k => leBytes 8 (s.freeAt k).toNat))))

/-- TRANSFER_FW acts as FW_TRANSFER. -/
def execTransferFw (h : Hdr) (off : BitVec 32) (data : List Byte) (s : State) : Host.Outcome State Fault Refusal :=
  .next (s.command (leBytes 4 0 ++ leBytes 4 (off.toNat / 128) ++ leBytes 1 (off.toNat % 128) ++ leBytes 119 0 ++ data) h { code := 0x0201, cls := .f, changes := true, ycs := false, busy := s.fwInChange }
    (Ans.after [{ bad := decide (data.length % 4 ≠ 0), rc := rcInput },
                { bad := decide (data.length < 4 ∨ 4080 < data.length ∨ 0x1000000 < off.toNat + data.length), rc := 0x800F }]
      (.done (s.transfer off.toNat data) 0 [])))

/-- ACTIVATE_FW acts as FW_COMMIT; online activation is not supported. -/
def execActivateFw (h : Hdr) (online : Bool) (s : State) : Host.Outcome State Fault Refusal :=
  .next (s.command (leBytes 1 (!online).toNat) h { code := 0x0202, cls := .f, changes := true, bg := true, ycs := false }
    (Ans.after [{ bad := online, rc := rcInput }] (.started s .fwCommit)))

/-- GET_TIMESTAMP. -/
def execGetTimestamp (h : Hdr) (s : State) : Host.Outcome State Fault Refusal :=
  .next (s.command [] h (stdOp 0x0300 false false) (s.onLd h (fun _ d => .done s 0 (leBytes 8 (s.ldTime d)))))

/-- SET_TIMESTAMP. -/
def execSetTimestamp (h : Hdr) (ns : BitVec 64) (s : State) : Host.Outcome State Fault Refusal :=
  .next (s.command (leBytes 8 ns.toNat) h (stdOp 0x0301 true false)
    (s.onLd h (fun i _ => .done (s.updLd i (fun (d : Ld) => { d with timestamp := ns.toNat, tsAt := s.tick })) 0 [])))

/-- The opcodes of the YCS. -/
def ycsOpcodes : List Nat :=
  let run (a n : Nat) : List Nat := (List.range n).map (a + ·)
  run 0xC000 12 ++ run 0xC100 6 ++ run 0xC200 7 ++ run 0xC300 8 ++ run 0xC400 6 ++ run 0xC500 6 ++ run 0xC600 6 ++ run 0xC700 6 ++ run 0xC800 5
    ++ run 0xC900 4 ++ [0xC910, 0xC911, 0xC920]

/-- The effects of a YCS command as CXL's Command Effects Log codes them: bit 0 a change after a reset, 1 an immediate change of configuration, 2 of data, 3 of policy, 4 of a log, bit 5 a change of the security
state, 6 a background command; 0 for one that only reads. (PRESUMED, unsafe, log entry 9) -/
def celEffects (op : Nat) : Nat :=
  if [0xC003, 0xC004, 0xC005, 0xC006, 0xC007, 0xC008, 0xC00A, 0xC00B, 0xC303, 0xC304, 0xC600, 0xC601, 0xC602, 0xC603, 0xC604, 0xC701, 0xC702, 0xC703, 0xC705, 0xC400, 0xC401, 0xC911].contains op then 2
  else if [0xC402, 0xC920].contains op then 4
  else if [0xC101, 0xC102, 0xC200, 0xC201, 0xC202, 0xC203, 0xC205, 0xC404, 0xC505, 0xC800, 0xC802, 0xC804].contains op then 8
  else if [0xC501, 0xC502, 0xC504, 0xC704].contains op then 16
  else if [0xC300, 0xC301, 0xC302].contains op then 32
  else if op = 0xC002 ∨ op = 0xC901 then 1
  else if op = 0xC009 then 64 + 2
  else if op = 0xC104 then 64 + 4
  else if op = 0xC500 then 64 + 16
  else if op = 0xC902 then 64 + 1
  else 0

/-- The Command Effects Log: every opcode with its effects (Table 15.1). -/
def celBytes : List Byte := ycsOpcodes.flatMap (fun (o : Nat) => leBytes 2 o ++ leBytes 2 (celEffects o))

/-- The UUID of the Command Effects Log. -/
def celUuid : List Byte := (beBytes 16 0x0da9c0b5bf414b7896f79962b3623b3f).map (BitVec.ofNat 8)

/-- GET_SUPPORTED_LOGS: the Command Effects Log only. -/
def execGetSupportedLogs (h : Hdr) (s : State) : Host.Outcome State Fault Refusal :=
  .next (s.command [] h (stdOp 0x0400 false false) (.done s 0 (leBytes 2 1 ++ leBytes 6 0 ++ celUuid ++ leBytes 4 (4 * ycsOpcodes.length))))

/-- GET_LOG. -/
def execGetLog (h : Hdr) (cel : Bool) (off len : BitVec 32) (s : State) : Host.Outcome State Fault Refusal :=
  .next (s.command ((if cel then celUuid else leBytes 16 0) ++ leBytes 4 off.toNat ++ leBytes 4 len.toNat) h (stdOp 0x0401 false false)
    (Ans.after [{ bad := !cel, rc := rcLog }, { bad := decide (4 * ycsOpcodes.length < off.toNat + len.toNat), rc := rcInput }]
      (.done s 0 ((celBytes.drop off.toNat).take len.toNat))))

/-! ### Identify and Sanitize -/

/-- IDENTIFY_MEMORY_DEVICE: volatile capacity is the static capacity, and persistent capacity is 0. What the spec does not state is free. -/
def execIdentifyMemoryDevice (h : Hdr) (s : State) : Host.Outcome State Fault Refusal :=
  .next (s.command [] h (stdOp 0x4000 false false)
    (s.onLd h (fun _ d =>
      let v := d.staticCap / 2 ^ 28
      .done (s.skipFree 5) 0 (leBytes 8 (s.freeAt 0).toNat ++ leBytes 8 (s.freeAt 1).toNat ++ leBytes 8 v ++ leBytes 8 v ++ leBytes 8 0 ++ leBytes 8 (s.freeAt 2).toNat
        ++ (List.range 4).flatMap (fun _ => leBytes 2 64) ++ leBytes 8 (s.freeAt 3).toNat ++ leBytes 3 (s.freeAt 4).toNat ++ leBytes 2 64))))

/-- The page ranges of the extents that an LD alone maps. -/
def State.aloneRanges (s : State) (i : Nat) : List (Nat × Nat) :=
  match s.ld? i with
  | none => []
  | some d => (d.exts.flatMap (fun (e : Extent) => (List.range e.len).map (fun k => e.unit + k))).filterMap (fun (u : Nat) =>
      if (s.mappers u).all (fun j => j == i) then some (u * 65536, u * 65536 + 65535) else none)

/-- A sanitise of an LD's own extents. -/
def State.sanitizeOwn (s : State) (args : List Byte) (h : Hdr) (code : Nat) : State :=
  s.command args h (stdOp code true true) (s.onLd h (fun i _ => .started (s.startSanitize (s.aloneRanges i)) (.sanitize (s.aloneRanges i))))

/-- SANITIZE (R343). -/
def execSanitize (h : Hdr) (s : State) : Host.Outcome State Fault Refusal := .next (s.sanitizeOwn [] h 0x4400)

/-- SECURE_ERASE (R343). -/
def execSecureErase (h : Hdr) (s : State) : Host.Outcome State Fault Refusal := .next (s.sanitizeOwn [] h 0x4401)

/-! ### Dynamic Capacity (R55 to R58) -/

/-- One region as the configuration commands report it: base, decode length in 256 MiB, length, block size, handle and flags. -/
def dcRegionBody (d : Ld) (k : Nat) : List Byte :=
  let r := Tbl.lookD d.dcRegions { base := 0, len := 0, block := 0 } k
  leBytes 8 r.base ++ leBytes 8 (r.len / 2 ^ 28) ++ leBytes 8 r.len ++ leBytes 8 r.block ++ leBytes 4 (k + 1) ++ leBytes 4 0

/-- GET_DYNAMIC_CAPACITY_CONFIGURATION (R55). The tag counts are free values. -/
def execGetDynamicCapacityConfiguration (h : Hdr) (s : State) : Host.Outcome State Fault Refusal :=
  .next (s.command [] h (stdOp 0x4800 false false)
    (s.onLd h (fun _ d => .done s.advanceFree 0 (leBytes 1 8 ++ leBytes 1 8 ++ leBytes 6 0 ++ (List.range 8).flatMap (dcRegionBody d) ++ leBytes 4 256
      ++ leBytes 4 (256 - d.exts.length) ++ leBytes 8 s.freeNow.toNat))))

/-- An extent as the extent lists report it. -/
def extentImage (e : Extent) : List Byte :=
  leBytes 8 (e.ldUnit * 2 ^ 28) ++ leBytes 8 (e.len * 2 ^ 28) ++ leBytes 16 (e.tag.getD 0).toNat ++ leBytes 8 0

/-- The Dynamic Capacity extents of an LD. -/
def dcExtents (d : Ld) : List Extent := d.exts.filter (fun (e : Extent) => !e.static && !e.releasing)

/-- The reply that lists the extents. The generation number is a free value. (PRESUMED, unsafe, log entry 9) -/
def State.extentsBody (s : State) (d : Ld) : List Byte :=
  let l := dcExtents d
  leBytes 4 l.length ++ leBytes 4 l.length ++ leBytes 4 s.freeNow.toNat ++ leBytes 4 0 ++ l.flatMap extentImage

/-- GET_DYNAMIC_CAPACITY_EXTENT_LIST (R55). -/
def execGetDynamicCapacityExtentList (h : Hdr) (s : State) : Host.Outcome State Fault Refusal :=
  .next (s.command [] h (stdOp 0x4801 false false) (s.onLd h (fun _ d => .done s.advanceFree 0 (s.extentsBody d))))

/-- A range of LD DPA of whole 256 MiB units. -/
def wholeUnits (r : BitVec 64 × BitVec 64) : Bool := decide (r.1.toNat % 2 ^ 28 = 0 ∧ r.2.toNat % 2 ^ 28 = 0) && r.2 != 0#64

/-- A range in units. -/
def inUnits (r : BitVec 64 × BitVec 64) : Nat × Nat := (r.1.toNat / 2 ^ 28, r.2.toNat / 2 ^ 28)

/-- The extent that an accepted range becomes: the part it takes of the offered one that holds it. -/
def State.acceptOne (s : State) (o : DcOffer) (r : Nat × Nat) : Option Extent :=
  (o.exts.find? (fun (x : Nat × Nat × Nat) => decide (x.1 ≤ r.1 ∧ r.1 + r.2 ≤ x.1 + x.2.2))).map (fun (x : Nat × Nat × Nat) =>
    let u := x.2.1 + (r.1 - x.1)
    { ldUnit := r.1, unit := u, len := r.2, region := (s.regionOver u r.2).getD 0, tag := if o.tag = 0 then none else some o.tag })

/-- Two ranges of a list overlap. -/
def overlaps : List (Nat × Nat) → Bool
  | [] => false
  | r :: rs => rs.any (fun (q : Nat × Nat) => decide (r.1 < q.1 + q.2 ∧ q.1 < r.1 + r.2)) || overlaps rs

/-- The 256 MiB units of device DPA that an LD maps under a tag, and, where asked, those that it has been offered under it. -/
def Ld.tagUnits (d : Ld) (tag : BitVec 128) (offered : Bool) : List Nat :=
  let units (u n : Nat) : List Nat := (List.range n).map (u + ·)
  (d.exts.filter (fun (e : Extent) => e.tag == some tag && !e.releasing)).flatMap (fun (e : Extent) => units e.unit e.len)
    ++ (if offered then (d.offers.filter (fun (o : DcOffer) => o.tag == tag)).flatMap (fun (o : DcOffer) =>
          o.exts.flatMap (fun (x : Nat × Nat × Nat) => units x.2.1 x.2.2)) else [])

/-- With ranges of device DPA (first unit, length) added to LD i under a tag, another LD that holds the tag would map a different range (R58). (DEDUCED, unsafe, log entry 61) -/
def State.tagDiffers (s : State) (i : Nat) (tag : BitVec 128) (us : List (Nat × Nat)) (offered : Bool) : Bool :=
  let mine := us.flatMap (fun (u : Nat × Nat) => (List.range u.2).map (u.1 + ·)) ++ ((s.ld? i).map (fun (d : Ld) => d.tagUnits tag false)).getD []
  tag != 0#128 && !us.isEmpty && s.lds.any (fun (x : Nat × Ld) =>
    let t := x.2.tagUnits tag offered
    x.1 != i && !t.isEmpty && !(t.all mine.contains && mine.all t.contains))

/-- ADD_DYNAMIC_CAPACITY_RESPONSE (R55, R56): the oldest offer is answered; the extents accepted of it enter the port's copy of the map. (DEDUCED, unsafe, log entry 61) -/
def State.acceptOffer (s : State) (i : Nat) (d : Ld) (rs : List (BitVec 64 × BitVec 64)) : Ans :=
  match d.offers with
  | [] => .fail rcExtentList 0 0
  | o :: rest =>
    let us := rs.map inUnits
    let es := us.filterMap (s.acceptOne o)
    Ans.after [{ bad := !rs.all wholeUnits || decide (es.length ≠ us.length) || overlaps us || es.any (fun (e : Extent) => (s.regionOver e.unit e.len).isNone), rc := rcExtentList },
               { bad := es.any (fun (e : Extent) => s.mapsTwice i e.unit e.len) || s.tagDiffers i o.tag (es.map (fun (e : Extent) => (e.unit, e.len))) false, rc := rcInput },
               { bad := decide (256 < d.exts.length + es.length), rc := rcResources }]
      (.done (s.updLd i (fun (d : Ld) => { d with offers := rest, exts := d.exts ++ es })) 0 [])

/-- The parameters of a command that lists ranges of LD DPA, as CXL lays them out. (PRESUMED, unsafe, log entry 62) -/
def rangeArgs (l : List (BitVec 64 × BitVec 64)) : List Byte :=
  leBytes 4 l.length ++ leBytes 4 0 ++ l.flatMap (fun r => leBytes 8 r.1.toNat ++ leBytes 8 r.2.toNat ++ leBytes 8 0)

/-- ADD_DYNAMIC_CAPACITY_RESPONSE (R56). -/
def execAddDynamicCapacityResponse (h : Hdr) (accepted : List (BitVec 64 × BitVec 64)) (s : State) : Host.Outcome State Fault Refusal :=
  .next (s.command (rangeArgs accepted) h (stdOp 0x4802 true false) (s.onLd h (fun i d => s.acceptOffer i d accepted)))

/-- A part of an extent: n units from LD DPA unit u on. -/
def partOf (e : Extent) (u n : Nat) : Extent := { e with ldUnit := u, unit := e.unit + (u - e.ldUnit), len := n }

/-- An extent cut where a range of LD DPA units begins and ends. -/
def cutAt (r : Nat × Nat) (e : Extent) : List Extent :=
  let a := max r.1 e.ldUnit
  let b := min (r.1 + r.2) (e.ldUnit + e.len)
  if e.static || e.releasing || decide (b ≤ a) then [e]
  else [partOf e e.ldUnit (a - e.ldUnit), partOf e a (b - a), partOf e b (e.ldUnit + e.len - b)].filter (fun (x : Extent) => x.len != 0)

/-- Every unit of a range lies in a Dynamic Capacity extent of the LD. -/
def heldBy (d : Ld) (r : Nat × Nat) : Bool :=
  (List.range r.2).all (fun k => (dcExtents d).any (fun (e : Extent) => decide (e.ldUnit ≤ r.1 + k ∧ r.1 + k < e.ldUnit + e.len)))

/-- The extents that lie in a range start their release (R57). (DEDUCED, unsafe, log entry 61) -/
def State.releaseUnits (s : State) (i : Nat) (r : Nat × Nat) : State :=
  match s.ld? i with
  | none => s
  | some d => ((dcExtents d).filter (fun (e : Extent) => decide (r.1 ≤ e.ldUnit ∧ e.ldUnit < r.1 + r.2))).foldl
      (fun (s : State) (e : Extent) => s.releaseExtent i e.ldUnit) s

/-- Ranges of an LD are released: extents are cut at their ends, and those within start their release. -/
def State.releaseRanges (s : State) (i : Nat) (d : Ld) (rs : List (BitVec 64 × BitVec 64)) (rc : Nat) : Ans :=
  let us := rs.map inUnits
  let cut := us.foldl (fun (l : List Extent) (r : Nat × Nat) => l.flatMap (cutAt r)) d.exts
  Ans.after [{ bad := !rs.all wholeUnits || overlaps us || !us.all (heldBy d), rc := rc },
             { bad := decide (256 < cut.length), rc := rcResources }]
    (.done (us.foldl (fun (s : State) (r : Nat × Nat) => s.releaseUnits i r) (s.updLd i (fun (d : Ld) => { d with exts := cut }))) 0 [])

/-- RELEASE_DYNAMIC_CAPACITY (R57). -/
def execReleaseDynamicCapacity (h : Hdr) (exts : List (BitVec 64 × BitVec 64)) (s : State) : Host.Outcome State Fault Refusal :=
  .next (s.command (rangeArgs exts) h (stdOp 0x4803 true false) (s.onLd h (fun i d => s.releaseRanges i d exts rcExtentList)))

end Sys2Proof.Machine
end

