-- ==== Sys2Proof/Machine/Fabric.lean ====
section
/-! DEFINITION. The Fabric Manager API commands (Table 15.1), with opcodes and layouts of CXL 3.1 where the spec gives none: identity, heads and LDs,
and Dynamic Capacity from the Fabric Manager's side (R55 to R58, R96). -/
namespace Sys2Proof.Machine

/-- An FM API command: it travels on the sideband, and a mailbox does not know it (R343). (DEDUCED, unsafe, log entry 60) -/
def State.fmCommand (s : State) (args : List Byte) (h : Hdr) (code : Nat) (changes : Bool) (run : Ans) : State :=
  if hdrIsFm h then s.command args h { code := code, cls := .f, changes := changes, ycs := false } run else s.unsupported args h code

/-! ### Identity, heads and LDs -/

/-- FM_IDENTIFY: vendor, device, serial number, message size and component type. -/
def execFmIdentify (h : Hdr) (s : State) : Host.Outcome State Fault Refusal :=
  .next (s.fmCommand [] h 0x0001 false
    (.done s.advanceFree 0 (leBytes 2 Config.vendorId.toNat ++ leBytes 2 (s.rd Reg.GLB_ID_PART) ++ leBytes 4 s.freeNow.toNat
      ++ leBytes 8 (s.rd Reg.GLB_SERIAL_SERIAL) ++ leBytes 1 12 ++ leBytes 1 3)))

/-- The heads that exist. -/
def State.headList (s : State) : List Nat := (List.range 16).filter s.headExists

/-- GET_MULTI_HEADED_INFO: LDs, heads, and the head of each LD index; FFh for one that does not exist. -/
def execGetMultiHeadedInfo (h : Hdr) (s : State) : Host.Outcome State Fault Refusal :=
  .next (s.fmCommand [] h 0x5500 false
    (.done s 0 (leBytes 1 s.lds.length ++ leBytes 1 s.headList.length ++ leBytes 2 0 ++ leBytes 1 0 ++ leBytes 1 64 ++ leBytes 2 0
      ++ (List.range 64).flatMap (fun i => leBytes 1 (match s.ld? i with | some d => d.head | none => 255)))))

/-- A head as GET_HEAD_INFO shows it: number, widest and present width in lanes, rate code, and link state. -/
def State.headImage (s : State) (hd : Nat) : List Byte :=
  leBytes 1 hd ++ leBytes 1 (lanesOf (s.fullWidth hd)) ++ leBytes 1 (if s.linkUp hd then lanesOf (s.rd (Reg.GLB_HEAD_STATUS_WIDTH hd)) else 0)
    ++ leBytes 1 (s.rd (Reg.GLB_HEAD_STATUS_RATE hd)) ++ leBytes 1 (if s.linkUp hd then 1 else 0)

/-- GET_HEAD_INFO. -/
def execGetHeadInfo (h : Hdr) (start count : BitVec 8) (s : State) : Host.Outcome State Fault Refusal :=
  let l := (s.headList.drop start.toNat).take count.toNat
  .next (s.fmCommand (leBytes 1 start.toNat ++ leBytes 1 count.toNat) h 0x5501 false
    (Ans.after [{ bad := decide (s.headList.length ≤ start.toNat), rc := rcInput }]
      (.done s 0 (leBytes 1 l.length ++ leBytes 3 0 ++ l.flatMap s.headImage))))

/-- GET_LD_INFO: memory size and number of LDs. -/
def execGetLdInfo (h : Hdr) (s : State) : Host.Outcome State Fault Refusal :=
  .next (s.fmCommand [] h 0x5400 false
    (.done s.advanceFree 0 (leBytes 8 (s.boot.h * 2 ^ 28) ++ leBytes 2 s.lds.length ++ leBytes 1 s.freeNow.toNat)))

/-! ### Dynamic Capacity -/

/-- GET_DCD_INFO (R55): hosts, regions, capacity, and the block sizes of each region. Selection and removal policies are free values. -/
def execGetDcdInfo (h : Hdr) (s : State) : Host.Outcome State Fault Refusal :=
  .next (s.fmCommand [] h 0x5600 false
    (.done s.advanceFree 0 (leBytes 1 s.lds.length ++ leBytes 1 8 ++ leBytes 2 0 ++ leBytes 8 s.freeNow.toNat ++ leBytes 8 (s.boot.h * 2 ^ 28)
      ++ (List.range 8).flatMap (fun _ => leBytes 8 (2 ^ 28 + 2 ^ 30 + 2 ^ 32)))))

/-- GET_HOST_DC_REGION_CONFIGURATION (R55). -/
def execGetHostDcRegionConfiguration (h : Hdr) (s : State) : Host.Outcome State Fault Refusal :=
  .next (s.fmCommand [] h 0x5601 false
    (s.onLd h (fun i d => .done s 0 (leBytes 2 i ++ leBytes 1 8 ++ leBytes 1 8 ++ (List.range 8).flatMap (dcRegionBody d)))))

/-- A range of bytes meets a configured region other than k. -/
def meetsRegion (d : Ld) (k base len : Nat) : Bool :=
  d.dcRegions.any (fun (e : Nat × DcRegion) => e.1 != k && decide (base < e.2.base + e.2.len ∧ e.2.base < base + len))

/-- Extents or offers of an LD lie in its region k. -/
def regionInUse (d : Ld) (k : Nat) : Bool :=
  match Tbl.look d.dcRegions k with
  | none => false
  | some r =>
    let inside (u : Nat) : Bool := decide (r.base ≤ u * 2 ^ 28 ∧ u * 2 ^ 28 < r.base + r.len)
    d.exts.any (fun (e : Extent) => !e.static && inside e.ldUnit)
      || d.offers.any (fun (o : DcOffer) => o.exts.any (fun (x : Nat × Nat × Nat) => inside x.1))

/-- A region of an LD takes a base, a length and a block size. (DEDUCED, unsafe, log entry 61) -/
def Ld.setRegion (d : Ld) (k base len block : Nat) : Ld :=
  let t := if len = 0 then Tbl.del d.dcRegions k else Tbl.put d.dcRegions k { base := base, len := len, block := block }
  { d with dcRegions := t }

/-- SET_DC_REGION_CONFIGURATION (R55): base, length and block size; a length of 0 removes the region. The LD's log gets a Region Configuration Updated record. -/
def execSetDcRegionConfiguration (h : Hdr) (region : BitVec 8) (base len block : BitVec 64) (s : State) : Host.Outcome State Fault Refusal :=
  let k := region.toNat
  let b := block.toNat
  .next (s.fmCommand (leBytes 1 region.toNat ++ leBytes 8 base.toNat ++ leBytes 8 len.toNat ++ leBytes 8 block.toNat) h 0x5602 true
    (Ans.after [{ bad := decide (7 < k), rc := rcInput },
                { bad := !([2 ^ 28, 2 ^ 30, 2 ^ 32].contains b), rc := rcInput },
                { bad := decide (base.toNat % b ≠ 0 ∨ len.toNat % b ≠ 0), rc := rcInput }]
      (s.onLd h (fun i d =>
        Ans.after [{ bad := decide (base.toNat < d.staticCap), rc := rcInput },
                   { bad := meetsRegion d k base.toNat len.toNat || regionInUse d k, rc := rcInput }]
          (.done ((s.updLd i (fun (d : Ld) => d.setRegion k base.toNat len.toNat b)).addRecord i 4 (.dc 3 k base.toNat len.toNat 0)) 0 [])))))

/-- GET_DC_REGION_EXTENT_LISTS (R55). -/
def execGetDcRegionExtentLists (h : Hdr) (s : State) : Host.Outcome State Fault Refusal :=
  .next (s.fmCommand [] h 0x5603 false (s.onLd h (fun i d => .done s.advanceFree 0 (leBytes 2 i ++ leBytes 2 0 ++ s.extentsBody d))))

/-- The DC region of an LD that holds a range of LD DPA, whole blocks of it. -/
def dcRegionOf (d : Ld) (a n : Nat) : Option Nat :=
  (d.dcRegions.find? (fun (e : Nat × DcRegion) => decide (e.2.base ≤ a ∧ a + n ≤ e.2.base + e.2.len ∧ (a - e.2.base) % e.2.block = 0 ∧ n % e.2.block = 0))).map Prod.fst

/-- An extent of an add in units: LD DPA, device DPA, length. -/
def addUnits (x : BitVec 64 × BitVec 64 × BitVec 64) : Nat × Nat × Nat := (x.1.toNat / 2 ^ 28, x.2.1.toNat / 2 ^ 28, x.2.2.toNat / 2 ^ 28)

/-- An extent of an add lies in no DC region, is not of whole blocks, lies within no one region descriptor, or meets an extent or an offer of the LD. (DEDUCED, unsafe, log entry 61) -/
def State.badAdd (s : State) (d : Ld) (x : BitVec 64 × BitVec 64 × BitVec 64) : Bool :=
  let u := addUnits x
  let meets (a n : Nat) : Bool := decide (a < u.1 + u.2.2 ∧ u.1 < a + n)
  x.2.2 == 0#64 || decide (x.2.1.toNat % 2 ^ 28 ≠ 0) || (dcRegionOf d x.1.toNat x.2.2.toNat).isNone || (s.regionOver u.2.1 u.2.2).isNone
    || d.exts.any (fun (e : Extent) => meets e.ldUnit e.len) || d.offers.any (fun (o : DcOffer) => o.exts.any (fun (y : Nat × Nat × Nat) => meets y.1 y.2.2))

/-- An extent with a tag goes to a sharable region and one without to a region that is not; a region with no extent and no offer takes its kind from the first add (R58). (DEDUCED,
unsafe, log entry 61) -/
def Ld.kindDiffers (d : Ld) (tag : BitVec 128) (x : BitVec 64 × BitVec 64 × BitVec 64) : Bool :=
  match dcRegionOf d x.1.toNat x.2.2.toNat with
  | none => false
  | some k => regionInUse d k && (Tbl.look d.dcRegions k).any (fun (r : DcRegion) => r.sharable != (tag != 0#128))

/-- The regions that an add lies in are sharable when it carries a tag (R58). -/
def Ld.markSharable (d : Ld) (tag : BitVec 128) (exts : List (BitVec 64 × BitVec 64 × BitVec 64)) : Ld :=
  let ks := exts.filterMap (fun (x : BitVec 64 × BitVec 64 × BitVec 64) => dcRegionOf d x.1.toNat x.2.2.toNat)
  { d with dcRegions := ks.foldl (fun (t : Tbl DcRegion) (k : Nat) => Tbl.modify t k (fun (r : DcRegion) => { r with sharable := tag != 0#128 })) d.dcRegions }

/-- Another LD of the head maps an HDM-DB extent of the add, or has been offered it (R96). -/
def State.addTwice (s : State) (i : Nat) (d : Ld) (u : Nat × Nat × Nat) : Bool :=
  s.mapsTwice i u.2.1 u.2.2 || (s.isDb (u.2.1 * 65536) && (s.ldsOf d.head).any (fun (j : Nat) => j != i && (s.ld? j).any (fun (x : Ld) =>
    x.offers.any (fun (o : DcOffer) => o.exts.any (fun (y : Nat × Nat × Nat) => decide (y.2.1 < u.2.1 + u.2.2 ∧ u.2.1 < y.2.1 + y.2.2))))))

/-- The Dynamic Capacity records of an event of an LD: 0 add, 1 release, 2 forced release. -/
def State.dcRecords (s : State) (i : Nat) (d : Ld) (ty : Nat) (tag : BitVec 128) (rs : List (Nat × Nat)) : State :=
  rs.foldl (fun (s : State) (r : Nat × Nat) =>
    s.addRecord i 4 (.dc ty ((dcRegionOf d (r.1 * 2 ^ 28) (r.2 * 2 ^ 28)).getD 0) (r.1 * 2 ^ 28) (r.2 * 2 ^ 28) tag)) s

/-- Extents are offered to an LD's host. (DEDUCED, unsafe, log entry 61) -/
def State.offer (s : State) (i : Nat) (d : Ld) (us : List (Nat × Nat × Nat)) (tag : BitVec 128) : State :=
  let o : DcOffer := { exts := us, tag := tag }
  let s := s.updLd i (fun (d : Ld) => { d with offers := d.offers ++ [o] })
  (s.dcRecords i d 0 tag (us.map (fun (u : Nat × Nat × Nat) => (u.1, u.2.2)))).emit (.dcOffer i o)

/-- INITIATE_DYNAMIC_CAPACITY_ADD (R55, R56, R96). Each extent is (LD DPA, device DPA, length). -/
def execInitiateDynamicCapacityAdd (h : Hdr) (exts : List (BitVec 64 × BitVec 64 × BitVec 64)) (tag : BitVec 128) (s : State) :
    Host.Outcome State Fault Refusal :=
  let us := exts.map addUnits
  .next (s.fmCommand (leBytes 16 tag.toNat ++ exts.flatMap (fun x => leBytes 8 x.1.toNat ++ leBytes 8 x.2.1.toNat ++ leBytes 8 x.2.2.toNat)) h 0x5604 true
    (s.onLd h (fun i d =>
      let offered := (d.offers.map (fun (o : DcOffer) => o.exts.length)).sum
      Ans.after [{ bad := exts.any (s.badAdd d) || overlaps (us.map (fun (u : Nat × Nat × Nat) => (u.1, u.2.2))) 
                           || s.tagDiffers i tag (us.map Prod.snd) true || exts.any (d.kindDiffers tag), rc := rcInput },
                 { bad := us.any (s.addTwice i d), rc := rcInput },
                 { bad := decide (256 < d.exts.length + offered + us.length), rc := rcResources }]
        (.done ((s.updLd i (fun (d : Ld) => d.markSharable tag exts)).offer i d us tag) 0 []))))

/-- A release is asked of an LD's host. -/
def State.askRelease (s : State) (i : Nat) (d : Ld) (rs : List (Nat × Nat)) (forced : Bool) : State :=
  (s.dcRecords i d (if forced then 2 else 1) 0 rs).emit (.dcRelease i rs forced)

/-- INITIATE_DYNAMIC_CAPACITY_RELEASE (R57): asked of the host, or forced without its response. -/
def execInitiateDynamicCapacityRelease (h : Hdr) (forced : Bool) (exts : List (BitVec 64 × BitVec 64)) (s : State) : Host.Outcome State Fault Refusal :=
  let us := exts.map inUnits
  .next (s.fmCommand (leBytes 1 forced.toNat ++ exts.flatMap (fun x => leBytes 8 x.1.toNat ++ leBytes 8 x.2.toNat)) h 0x5605 true
    (s.onLd h (fun i d =>
      if forced then (s.askRelease i d us true).releaseRanges i d exts rcInput
      else Ans.after [{ bad := !exts.all wholeUnits || !us.all (heldBy d), rc := rcInput }] (.done (s.askRelease i d us false) 0 []))))

end Sys2Proof.Machine
end

