-- ==== Sys2Proof/Machine/Background.lean ====
section
/-! DEFINITION. The end of a background command (R346): DISABLE once Table 2.10 has ended, SANITIZE_RANGE and the standard sanitises once every page has had its turn
(R350), a range pass once its last page has (R256), and FW_COMMIT (R355). -/
namespace Sys2Proof.Machine

/-- A background command ends with its output, which is recorded as its reply: one that has changed state, so neither an interrupted one nor an FW_COMMIT that refused its image (R345,
R346). One that has already been answered with INTERRUPTED is only recorded (R347). -/
def State.endBg (s : State) (b : Bg) (rc : Nat) (body : List Byte) : State :=
  let s : State := { s with mgmt := { s.mgmt with bg := s.mgmt.bg.filter (fun (x : Bg) => x != b) } }
  let s := if rc = 0 then s.recordReply { src := b.src, opcode := b.opcode, reqId := b.reqId, rc := rc, detail := 0, value := 0, body := body } else s
  if b.silent then s else s.sendDone b rc body

/-- DISABLE completes when no LD that it names is draining or stopping. -/
def State.endDisable (s : State) (b : Bg) (lds : List Nat) : State :=
  if lds.any s.ldEnding then s
  else s.endBg b 0 (leBytes 1 (if lds.any (fun (i : Nat) => (s.ld? i).any (fun (d : Ld) => d.drainPoisoned)) then 1 else 0))

/-- The sanitise of some ranges. -/
def State.clearOf (s : State) (rs : List (Nat × Nat)) : Option Sanit := s.mgmt.clears.find? (fun x => x.ranges == rs)

/-- A sanitise completes once no page is left whose turn is to come (R350); SANITIZE_RANGE answers how many pages it has returned to UNWRITTEN. (DEDUCED, unsafe, log entry 30) -/
def State.endSanitize (s : State) (b : Bg) (rs : List (Nat × Nat)) : State :=
  match s.clearOf rs with
  | none => s.endBg b 0 []
  | some x =>
    if x.cur.isSome || (s.clearNext x).isSome then s
    else
      let s : State := { s with mgmt := { s.mgmt with clears := s.mgmt.clears.filter (fun y => y.ranges != rs) } }
      s.endBg b 0 (if b.opcode = 0xC104 then leBytes 8 x.count else [])

/-- A range pass that has visited its last page, or stopped, returns its summary (R256, Table 10.3). (DEDUCED, unsafe, log entry 70) -/
def State.endScrub (s : State) (b : Bg) (n : Nat) : State :=
  match s.pass? n with
  | none => s.endBg b 0x8006 []
  | some x => if x.done || (x.stop && x.cur.isNone) then (s.dropPass n).endBg b 0 (s.passSummary x) else s

/-- FW_COMMIT has verified the slot: it completes when the image fails, and else begins to write the boot record (R355). -/
def State.endCommit (s : State) (b : Bg) : State :=
  if s.commitCode = 0 then
    let write (x : Bg) : Bg := if x = b then { x with why := .fwWrite s.nextRecord.1 s.idleSlot s.nextRecord.2 } else x
    { s with mgmt := { s.mgmt with bg := s.mgmt.bg.map write } }
  else s.endBg b s.commitCode []

/-- The interpreter runs: on the pair that holds duty 0, or in the boot ROM; never in the safe state. -/
def State.interprets (s : State) : Bool := s.boot.released && !s.isSafe && (s.inRom || s.dutyUp 0)

/-- The background command of a source ends, when it can (R346). That of FW_COMMIT has two parts, its verify and the write of the boot record, each with an end of its own. -/
def State.backgroundEnd (s : State) (a : Agent) : State :=
  match s.bgOf a with
  | none => s
  | some b =>
    if !s.interprets then s
    else match b.why with
      | .disable lds _ => s.endDisable b lds
      | .sanitize rs => s.endSanitize b rs
      | .scrub n => s.endScrub b n
      | .fwCommit => s.endCommit b
      | .fwWrite k slot seq => (s.putBootRecord k slot seq false).endBg b 0 []

/-- BACKGROUND_COMPLETE (R346). -/
def execBackgroundComplete (a : Agent) (s : State) : Host.Outcome State Fault Refusal := .next (s.backgroundEnd a)

end Sys2Proof.Machine
end

