-- ==== Sys2Proof/Machine/Packets.lean ====
section
/-! DEFINITION. Commands as packets (R340 to R344): the fields of a payload, the command that an opcode and a payload spell, the tunnel through the FM-owned LD of an MLD head (R341), and
the doorbell of a mailbox. -/
namespace Sys2Proof.Machine

/-! ### The fields of a payload -/

/-- The values of fields of so many bytes each, little-endian and not padded (R344). -/
def fieldsOf : List Nat → List Byte → List Nat
  | [], _ => []
  | w :: ws, b => ofBytes (b.take w) :: fieldsOf ws (b.drop w)

/-- The n-th of the fields, as an operand. -/
def par {w : Nat} (x : List Nat) (n : Nat) : BitVec w := BitVec.ofNat w (x.getD n 0)

/-- A payload of n bytes has not the length of its fields: the first field that it does not hold whole, from 1, or 0 where it runs on past them all (R344). (DEDUCED, unsafe, log entry 41) -/
def faultAt (ws : List Nat) (n : Nat) : Option (BitVec 8) :=
  if ws.sum = n then none
  else some (BitVec.ofNat 8 ((((List.range ws.length).find? (fun k => decide (n < (ws.take (k + 1)).sum))).map (· + 1)).getD 0))

/-- The widths in bytes of a YCS command's parameters (Tables 15.5 to 15.17); b are the parameters' bytes, which tell how many there are where a count stands among them. -/
def ycsWidths (op : Nat) (b : List Byte) : List Nat :=
  match op with
  | 0xC002 => [1, 2, 256]
  | 0xC00B => 1 :: (List.replicate (ofBytes (b.take 1)) [8, 4]).flatten
  | 0xC202 => [1, 1, 16]
  | 0xC901 => [4, 2, ofBytes ((b.drop 4).take 2)]
  | 0xC001 => [1]
  | 0xC003 => [1, 2]
  | 0xC004 => [2]
  | 0xC005 => [1, 1]
  | 0xC006 => [1, 1, 1, 1]
  | 0xC007 => [1]
  | 0xC008 => [1, 1]
  | 0xC009 => [1, 1, 1]
  | 0xC00A => [1, 1]
  | 0xC101 => [2, 1, 2, 1, 1, 1, 1]
  | 0xC102 => [2, 1, 1, 2]
  | 0xC103 => [1, 8, 2]
  | 0xC104 => [1, 8, 8]
  | 0xC200 => [1, 4, 4, 4, 4, 4, 1, 1]
  | 0xC201 => [1]
  | 0xC203 => [1]
  | 0xC204 => [1]
  | 0xC205 => [2, 1, 1, 1]
  | 0xC301 => [2]
  | 0xC302 => [2]
  | 0xC303 => [8, 4, 1, 1, 2, 1, 1, 2]
  | 0xC304 => [2]
  | 0xC305 => [2]
  | 0xC306 => [2]
  | 0xC400 => [8, 1]
  | 0xC401 => [1]
  | 0xC402 => [1, 2]
  | 0xC403 => [1]
  | 0xC404 => [1, 1]
  | 0xC500 => [1, 8, 8]
  | 0xC502 => [1, 1, 1, 1, 1, 4, 1]
  | 0xC503 => [1]
  | 0xC504 => [1]
  | 0xC505 => [1]
  | 0xC600 => [1, 1, 1, 2, 1, 2, 1]
  | 0xC601 => [8, 4, 1, 2]
  | 0xC603 => [1]
  | 0xC604 => [1, 1]
  | 0xC701 => [1]
  | 0xC702 => [1, 1, 2]
  | 0xC703 => [1, 1, 4, 4, 4, 4, 4, 4, 4, 4]
  | 0xC704 => [1]
  | 0xC705 => [4]
  | 0xC800 => [1, 1, 2]
  | 0xC801 => [1]
  | 0xC802 => [1, 2, 1, 2]
  | 0xC803 => [2, 2]
  | 0xC804 => [1]
  | 0xC910 => [4]
  | 0xC911 => [4, 4]
  | 0xC920 => [1, 8]
  | _ => []

/-- The commands that name an LD, which the Fabric Manager gives ahead of their parameters: always, or where SPACE asks for the LD's own addresses (so the payload is a byte longer). -/
def ldAhead (op n : Nat) (ws : List Nat) : Bool := [0xC00B, 0xC400, 0xC804].contains op || ([0xC103, 0xC104, 0xC500].contains op && decide (n = ws.sum + 1))

/-- The envelope of a YCS packet (Table 15.2), with the bytes of its parameters. -/
def ycsPacket (src : Agent) (op : Nat) (b : List Byte) : Hdr × List Byte :=
  let isFm := match src with | .ld _ => false | _ => true
  let ahead := isFm && ldAhead op (b.length - 8) (ycsWidths op (b.drop 8))
  let p := b.drop (if ahead then 9 else 8)
  let ws := ycsWidths op p
  ({ src := src, reqId := BitVec.ofNat 16 (ofBytes (b.take 2)), rsv := BitVec.ofNat 48 (ofBytes ((b.take 8).drop 2)), ldIx := if ahead then b[8]? else none,
     lenBad := if b.length < 8 ∨ 4096 < b.length then some 0 else faultAt (if ahead then 1 :: ws else ws) (b.length - 8) }, p)

/-! ### The command that a packet spells -/

/-- The elements of a list of n equal records of so many bytes. -/
def recordsOf (ws : List Nat) (n : Nat) (b : List Byte) : List (List Nat) := (List.range n).map (fun k => fieldsOf ws (b.drop (k * ws.sum)))

/-- A YCS command runs with the bytes of its parameters. Whether the temperature and the fuses let PROGRAM_SETTINGS through stands behind its BLOCK. -/
def runYcs (op : Nat) (h : Hdr) (b : List Byte) (s : State) : Host.Outcome State Fault Refusal :=
  let x := fieldsOf (ycsWidths op b) b
  match op with
  | 0xC002 => execProgramSettings h (par x 0) (par x 1) (leBytes 256 (x.getD 2 0)) ((b.getD 259 0).getLsbD 0) ((b.getD 260 0).getLsbD 0) s
  | 0xC00B => execSetStaticCapacity h ((recordsOf [8, 4] (x.getD 0 0) (b.drop 1)).map (fun r => (par r 0, par r 1))) s
  | 0xC202 => execSetLabelMap h (par x 0) (par x 1) (leBytes 16 (x.getD 2 0)) s
  | 0xC901 => execFwTransfer h (par x 0) (par x 1) (b.drop 6) s
  | 0xC000 => execGetIdentity h s
  | 0xC001 => execGetSettings h (par x 0) s
  | 0xC003 => execRevokeFwKey h (par x 0) (par x 1) s
  | 0xC004 => execSetLocks h (par x 0) s
  | 0xC005 => execSetHeadMode h (par x 0) (par x 1) s
  | 0xC006 => execCreateLd h (par x 0) (par x 1) (par x 2) (par x 3) s
  | 0xC007 => execDeleteLd h (par x 0) s
  | 0xC008 => execSetLdManage h (par x 0) (par x 1) s
  | 0xC009 => execDisable h (par x 0) (par x 1) (par x 2) s
  | 0xC00A => execEnable h (par x 0) (par x 1) s
  | 0xC100 => execGetPlacement h s
  | 0xC101 => execSetCurator h (par x 0) (par x 1) (par x 2) (par x 3) (par x 4) (par x 5) (par x 6) s
  | 0xC102 => execSetRegionPlacement h (par x 0) (par x 1) (par x 2) (par x 3) s
  | 0xC103 => execGetPageInfo h (par x 0) (par x 1) (par x 2) s
  | 0xC104 => execSanitizeRange h (par x 0) (par x 1) (par x 2) s
  | 0xC105 => execGetEpochTotals h s
  | 0xC200 => execSetClass h (par x 0) (par x 1) (par x 2) (par x 3) (par x 4) (par x 5) (par x 6) (par x 7) s
  | 0xC201 => execDeleteClass h (par x 0) s
  | 0xC203 => execSetLendClass h (par x 0) s
  | 0xC204 => execGetQos h (par x 0) s
  | 0xC205 => execSetGovernor h (par x 0) (par x 1) (par x 2) (par x 3) s
  | 0xC206 => execGetGovernor h s
  | 0xC300 => execAllocateKey h s
  | 0xC301 => execFreeKey h (par x 0) s
  | 0xC302 => execFlushKey h (par x 0) s
  | 0xC303 => execCreateRegion h (par x 0) (par x 1) (par x 2) (par x 3) (par x 4) (par x 5) (par x 6) (par x 7) s
  | 0xC304 => execDeleteRegion h (par x 0) s
  | 0xC305 => execGetRegion h (par x 0) s
  | 0xC306 => execGetKeyStatus h (par x 0) s
  | 0xC307 => execGetLosses h s
  | 0xC400 => execCreateQueue h (par x 0) (par x 1) s
  | 0xC401 => execDeleteQueue h (par x 0) s
  | 0xC402 => execQueueTail h (par x 0) (par x 1) s
  | 0xC403 => execGetQueue h (par x 0) s
  | 0xC404 => execSetPress h (par x 0) (par x 1) s
  | 0xC405 => execGetPress h s
  | 0xC500 => execScrubRange h (par x 0) (par x 1) (par x 2) s
  | 0xC501 => execCancelScrub h s
  | 0xC502 => execRequestPpr h (par x 0) (par x 1) (par x 2) (par x 3) (par x 4) (par x 5) (par x 6) s
  | 0xC503 => execGetErrors h (par x 0) s
  | 0xC504 => execReadCeLog h (par x 0) s
  | 0xC505 => execSetPatrol h (par x 0) s
  | 0xC600 => execSetGraft h (par x 0) (par x 1) (par x 2) (par x 3) (par x 4) (par x 5) (par x 6) s
  | 0xC601 => execCreateLendRegion h (par x 0) (par x 1) (par x 2) (par x 3) s
  | 0xC602 => execDeleteLendRegion h s
  | 0xC603 => execRecallLease h (par x 0) s
  | 0xC604 => execSetPortWidth h (par x 0) (par x 1) s
  | 0xC605 => execGetGraft h s
  | 0xC700 => execGetPower h s
  | 0xC701 => execClearFeed h (par x 0) s
  | 0xC702 => execSetFeedEnable h (par x 0) (par x 1) (par x 2) s
  | 0xC703 => execSetGthConfig h (par x 0) (par x 1) (par x 2) (par x 3) (par x 4) (par x 5) (par x 6) (par x 7) (par x 8) (par x 9) s
  | 0xC704 => execClearEnergy h (par x 0) s
  | 0xC705 => execSetVrefValue h (par x 0) s
  | 0xC800 => execSetCounter h (par x 0) (par x 1) (par x 2) s
  | 0xC801 => execReadGroup h (par x 0) s
  | 0xC802 => execSetSampling h (par x 0) (par x 1) (par x 2) (par x 3) s
  | 0xC803 => execReadSamples h (par x 0) (par x 1) s
  | 0xC804 => execSetUserAccess h (par x 0) s
  | 0xC900 => execGetFwInfo h s
  | 0xC902 => execFwCommit h s
  | 0xC903 => execGetBootLog h s
  | 0xC910 => execReadReg h (par x 0) s
  | 0xC911 => execWriteReg h (par x 0) (par x 1) s
  | 0xC920 => execInjectError h (par x 0) (par x 1) s
  | _ => execUnsupportedOpcode h (BitVec.ofNat 16 op) s

/-- The widths of a standard command's parameters, and of those of an FM API command, in the layouts of CXL 3.1 as far as the commands of this model have operands. (PRESUMED, unsafe, log entry 62) -/
def stdWidths (op : Nat) (b : List Byte) : List Nat :=
  match op with
  | 0x0100 => [1]
  | 0x0101 => [1, 1, 1, 3] ++ List.replicate (b.getD 2 0).toNat 2
  | 0x0103 => List.replicate b.length 1
  | 0x0201 => [1, 1, 2, 4, 120, b.length - 128]
  | 0x0202 => [1, 1]
  | 0x0301 => [8]
  | 0x0401 => [16, 4, 4]
  | 0x4802 => [4, 1, 3] ++ (List.replicate (min 256 (ofBytes (b.take 4))) [8, 8, 8]).flatten
  | 0x4803 => [4, 1, 3] ++ (List.replicate (min 256 (ofBytes (b.take 4))) [8, 8, 8]).flatten
  | 0x5501 => [1, 1]
  | 0x5602 => [1, 8, 8, 8]
  | 0x5604 => 16 :: List.replicate ((b.length - 16) / 8) 8
  | 0x5605 => 1 :: List.replicate ((b.length - 1) / 8) 8
  | _ => []

/-- The ranges that a response or a release lists. -/
def rangesOf (b : List Byte) : List (BitVec 64 × BitVec 64) := (recordsOf [8, 8, 8] (min 256 (ofBytes (b.take 4))) (b.drop 8)).map (fun r => (par r 0, par r 1))

/-- A standard command of Table 15.1 runs with the bytes of its parameters. TRANSFER_FW counts its offset in 128 bytes, with bytes beside it where this model keeps one
that is no multiple. (PRESUMED, unsafe, log entry 62) -/
def runStd (op : Nat) (h : Hdr) (b : List Byte) (s : State) : Host.Outcome State Fault Refusal :=
  let x := fieldsOf (stdWidths op b) b
  match op with
  | 0x0100 => execGetEventRecords h (par x 0) s
  | 0x0101 => execClearEventRecords h (par x 0) ((b.getD 1 0).getLsbD 0) ((x.drop 4).map (BitVec.ofNat 16)) s
  | 0x0102 => execGetEventInterruptPolicy h s
  | 0x0103 => execSetEventInterruptPolicy h b s
  | 0x0200 => execCxlGetFwInfo h s
  | 0x0201 => execTransferFw h (BitVec.ofNat 32 (128 * x.getD 3 0 + (b.getD 8 0).toNat)) (b.drop 128) s
  | 0x0202 => execActivateFw h (b.getD 0 0 == 0) s
  | 0x0300 => execGetTimestamp h s
  | 0x0301 => execSetTimestamp h (par x 0) s
  | 0x0400 => execGetSupportedLogs h s
  | 0x0401 => execGetLog h (b.take 16 == celUuid) (par x 1) (par x 2) s
  | 0x4000 => execIdentifyMemoryDevice h s
  | 0x4400 => execSanitize h s
  | 0x4401 => execSecureErase h s
  | 0x4800 => execGetDynamicCapacityConfiguration h s
  | 0x4801 => execGetDynamicCapacityExtentList h s
  | 0x4802 => execAddDynamicCapacityResponse h (rangesOf b) s
  | 0x4803 => execReleaseDynamicCapacity h (rangesOf b) s
  | 0x0001 => execFmIdentify h s
  | 0x5400 => execGetLdInfo h s
  | 0x5500 => execGetMultiHeadedInfo h s
  | 0x5501 => execGetHeadInfo h (par x 0) (par x 1) s
  | 0x5600 => execGetDcdInfo h s
  | 0x5601 => execGetHostDcRegionConfiguration h s
  | 0x5602 => execSetDcRegionConfiguration h (par x 0) (par x 1) (par x 2) (par x 3) s
  | 0x5603 => execGetDcRegionExtentLists h s
  | 0x5604 => execInitiateDynamicCapacityAdd h ((recordsOf [8, 8, 8] ((b.length - 16) / 24) (b.drop 16)).map (fun r => (par r 0, par r 1, par r 2))) (par x 0) s
  | 0x5605 => execInitiateDynamicCapacityRelease h ((b.getD 0 0).getLsbD 0) ((recordsOf [8, 8] ((b.length - 1) / 16) (b.drop 1)).map (fun r => (par r 0, par r 1))) s
  | _ => execUnsupportedOpcode h (BitVec.ofNat 16 op) s

/-- The state that a meaning leads to. -/
def nextOf (o : Host.Outcome State Fault Refusal) (s : State) : State :=
  match o with
  | .next t => t
  | _ => s

/-- A command of an opcode runs with its envelope and the bytes of its parameters. A tunnel within a tunnel is no command. -/
def State.runOpcode (s : State) (op : Nat) (h : Hdr) (b : List Byte) : State := nextOf (if 0xC000 ≤ op then runYcs op h b s else runStd op h b s) s

/-- A packet of a source runs: opcode and payload, with the LD that a standard command from the sideband names. Whether the temperature and the fuses let PROGRAM_SETTINGS through is
free: two bits. -/
def State.packet (s : State) (src : Agent) (ld : Option (BitVec 8)) (op : Nat) (b : List Byte) : State :=
  let p := ycsPacket src op b
  let env := leBytes 1 (s.freeNow.getLsbD 0).toNat ++ leBytes 1 (s.freeNow.getLsbD 1).toNat
  let std : Hdr := { src := src, ldIx := ld, lenBad := if 4096 < b.length then some 0 else faultAt (stdWidths op b) b.length }
  (if 0xC000 ≤ op then s.runOpcode op p.1 (if op = 0xC002 then p.2 ++ env else p.2) else s.runOpcode op std b).advanceFree

/-! ### The tunnel, commands that wait, and the doorbell -/

/-- TUNNEL_MANAGEMENT_COMMAND (R341): a packet for the FM-owned LD of an MLD head follows the rules of one on the sideband. -/
def execTunnelManagementCommand (h : Hdr) (head : Head) (inner : BitVec 16) (payload : List Byte) (s : State) : Host.Outcome State Fault Refusal :=
  .next (s.fmCommand (leBytes 1 head.val ++ leBytes 2 inner.toNat ++ payload) h 0x5300 false
    (Ans.after [{ bad := !s.headExists head.val || !s.isMld head.val, rc := rcInput }]
      (.later (s.packet h.src h.ldIx inner.toNat payload))))

/-- A command that waited runs (R346). -/
def State.runHeld (s : State) (c : HeldCmd) : State :=
  if c.op = 0x5300 then nextOf (execTunnelManagementCommand c.h (Fin.ofNat 16 (c.args.getD 0 0).toNat) (BitVec.ofNat 16 (ofBytes ((c.args.drop 1).take 2))) (c.args.drop 3) s) s
  else s.runOpcode c.op c.h c.args

/-- The interpreter takes the commands that waited for it, in their order: once one of them is in progress, the rest wait again (R346). It does so at the tick that follows the end of
the one in progress. (DESIGN CHOICE, unsafe, log entry 110) -/
def State.takeHeld (s : State) : State :=
  if s.widthWaits || s.mgmt.held.isEmpty then s else s.mgmt.held.foldl State.runHeld { s with mgmt := { s.mgmt with held := [] } }

/-- The doorbell of an LD's mailbox is set. -/
def State.doorbell (s : State) (i : Nat) : Bool := (s.ld? i).any (fun (d : Ld) => d.mbox.ctl.getLsbD 0)

/-- The payload that a mailbox holds, of the length that its command register gives. -/
def Mbox.bytes (m : Mbox) : List Byte :=
  let n := bitsOf m.cmd 16 21
  ((List.range ((min n 4100 + 3) / 4)).flatMap (fun k => leBytes 4 (Tbl.lookD m.data 0 k).toNat)).take n

/-- A doorbell has been set: the command in the mailbox runs (R340). -/
def State.mailboxRun (s : State) (i : LdIx) : State :=
  match s.ld? i with
  | none => s
  | some d => s.packet (.ld i) none (bitsOf d.mbox.cmd 0 16) d.mbox.bytes

/-- A register write, and the command that it rings for. -/
def State.writeRings (s : State) (a : Agent) (sp : Space) (off size : Nat) (v : BitVec 64) : State :=
  let t := (s.crossLink a).regAccess a sp off size v
  match a with
  | .ld i => if !s.doorbell i && t.doorbell i then t.mailboxRun i else t
  | _ => t

/-- REGISTER_WRITE (R7). -/
def execRegisterWrite (a : Agent) (sp : Space) (off : BitVec 26) (size : Nat) (v : BitVec 64) (s : State) : Host.Outcome State Fault Refusal :=
  .next (s.writeRings a sp off.toNat size v)

end Sys2Proof.Machine
end

