-- ==== Sys2Proof/Machine/Clock.lean ====
section
/-! DEFINITION. The tick of the root clock (R4), which a step on an empty queue takes: the tick count, TICKS of the counter groups (R360, R362), and the events of
Table 16.1 that count ticks; and the interpreter takes the commands that waited for it (R346). Everything else that takes time is a command of its own. -/
namespace Sys2Proof.Machine

/-- The CXL.mem credits of a head are withheld: its ingress is full for requests or for writes (R88). -/
def State.withheld (s : State) (h : Nat) : Bool := !s.hasCredit h true || !s.hasCredit h false

/-- The ranks of a channel in states that count ticks. -/
def State.ranksIn (s : State) (c : Nat) (xs : List RankState) : Nat := ((s.ch c).rank.filter (fun (e : Nat × RankState) => xs.contains e.2)).length

/-- The events of Table 16.1 that count ticks: INGRESS_FULL, PD_RANK_TICKS, SR_RANK_TICKS and WDN_FENCE_TICKS. -/
def State.tickEvents (s : State) : State :=
  let s := (List.range 16).foldl (fun (s : State) (h : Nat) => if s.withheld h then s.cnt 0x010A (.head h) else s) s
  let s := (List.range 16).foldl (fun (s : State) (c : Nat) =>
    (s.cnt (0x1000 + 256 * c + 10) .dev (s.ranksIn c [.powerdown])).cnt (0x1000 + 256 * c + 11) .dev (s.ranksIn c [.selfrefresh, .held])) s
  if s.isFence then s.cnt 0x2202 .dev else s

/-- One tick (R4). The root clock runs from the release of the die; groups that are enabled and not frozen count the tick that ends. (DESIGN CHOICE, unsafe, log entry 1) -/
def State.tickOn (s : State) : State :=
  if !s.boot.released then s
  else
    let s := if s.groups = [] then s
      else s.groups.foldl (fun (s : State) (g : Nat) => if s.groupOn g && !s.heldOff (128 + g) then s.addTicks g 1 else s) s.tickEvents
    (List.range 16).foldl State.takeMeta (State.takeHeld { s with tick := s.tick + 1 })

end Sys2Proof.Machine
end

