-- ==== Sys2Proof/Machine/Dispatch.lean ====
section
/-! DEFINITION. The meaning of every command: one arm per constructor of Instr, each one direct call of a meaning. -/
namespace Sys2Proof.Machine

/-- The effect of a command on everything but the queue. -/
def exec (i : Instr) (s : State) : Host.Outcome State Fault Refusal :=
  match i with
  | .registerWrite a sp off size v => Sys2Proof.Machine.execRegisterWrite a sp off size v s
  | .access64 a write off v => Sys2Proof.Machine.execAccess64 a write off v s
  | .lowWordWrite a off v => Sys2Proof.Machine.execLowWordWrite a off v s
  | .highWordWrite a off v => Sys2Proof.Machine.execHighWordWrite a off v s
  | .lowWordRead a sp off size => Sys2Proof.Machine.execLowWordRead a sp off size s
  | .highWordRead a off => Sys2Proof.Machine.execHighWordRead a off s
  | .gthFrameSend => Sys2Proof.Machine.execGthFrameSend s
  | .measurementFrame => Sys2Proof.Machine.execMeasurementFrame s
  | .gthLinkLost => Sys2Proof.Machine.execGthLinkLost s
  | .rootPllLockLoss refclkLost => Sys2Proof.Machine.execRootPllLockLoss refclkLost s
  | .tickDeparture => Sys2Proof.Machine.execTickDeparture s
  | .sliceArbitration sl => Sys2Proof.Machine.execSliceArbitration sl s
  | .benchWake sl set => Sys2Proof.Machine.execBenchWake sl set s
  | .headLinkUp h rate width flit => Sys2Proof.Machine.execHeadLinkUp h rate width flit s
  | .headLinkDown h => Sys2Proof.Machine.execHeadLinkDown h s
  | .aspmL1Entry h sub => Sys2Proof.Machine.execAspmL1Entry h sub s
  | .l1Exit h => Sys2Proof.Machine.execL1Exit h s
  | .l0pRequest h width => Sys2Proof.Machine.execL0pRequest h width s
  | .pmeTurnOff h => Sys2Proof.Machine.execPmeTurnOff h s
  | .configAccess dev write off v => Sys2Proof.Machine.execConfigAccess dev write off v s
  | .memorySpaceEnable ix => Sys2Proof.Machine.execMemorySpaceEnable ix s
  | .hdmDecoderCommit ix d base size skip iw ig => Sys2Proof.Machine.execHdmDecoderCommit ix d base size skip iw ig s
  | .cdatTableAccess ix => Sys2Proof.Machine.execCdatTableAccess ix s
  | .msixUnmask ix v => Sys2Proof.Machine.execMsixUnmask ix v s
  | .cxlReset ix memClr => Sys2Proof.Machine.execCxlReset ix memClr s
  | .functionLevelReset ix => Sys2Proof.Machine.execFunctionLevelReset ix s
  | .drainComplete ix => Sys2Proof.Machine.execDrainComplete ix s
  | .gracefulDrainBound ix => Sys2Proof.Machine.execGracefulDrainBound ix s
  | .stopComplete ix => Sys2Proof.Machine.execStopComplete ix s
  | .memRd r => Sys2Proof.Machine.execMemRd r s
  | .memRdData r => Sys2Proof.Machine.execMemRdData r s
  | .memInv r => Sys2Proof.Machine.execMemInv r s
  | .memClnEvct r => Sys2Proof.Machine.execMemClnEvct r s
  | .memSpecRd r => Sys2Proof.Machine.execMemSpecRd r s
  | .memWr r data poison => Sys2Proof.Machine.execMemWr r data poison s
  | .memWrPtl r data be poison => Sys2Proof.Machine.execMemWrPtl r data be poison s
  | .fenceComplete h => Sys2Proof.Machine.execFenceComplete h s
  | .writeAccept sl txn => Sys2Proof.Machine.execWriteAccept sl txn s
  | .wcbDrain sl line => Sys2Proof.Machine.execWcbDrain sl line s
  | .dramReadData c rd err => Sys2Proof.Machine.execDramReadData c rd err s
  | .mergeReadDone c mline err => Sys2Proof.Machine.execMergeReadDone c mline err s
  | .birsp h line r => Sys2Proof.Machine.execBirsp h line r s
  | .biConflict h line => Sys2Proof.Machine.execBiConflict h line s
  | .biCreditReturn h n => Sys2Proof.Machine.execBiCreditReturn h n s
  | .biTimeout h line => Sys2Proof.Machine.execBiTimeout h line s
  | .directoryWalkStep sl => Sys2Proof.Machine.execDirectoryWalkStep sl s
  | .dirProbeStart a hi => Sys2Proof.Machine.execDirProbeStart a hi s
  | .dirProbeCapture sl => Sys2Proof.Machine.execDirProbeCapture sl s
  | .extentPortDrop ix ldUnit => Sys2Proof.Machine.execExtentPortDrop ix ldUnit s
  | .extentReleaseDone ix ldUnit => Sys2Proof.Machine.execExtentReleaseDone ix ldUnit s
  | .coldScanVisit sl => Sys2Proof.Machine.execColdScanVisit sl s
  | .epochClose => Sys2Proof.Machine.execEpochClose s
  | .curatorPlan p => Sys2Proof.Machine.execCuratorPlan p s
  | .moveStage sl => Sys2Proof.Machine.execMoveStage sl s
  | .moveStart sl => Sys2Proof.Machine.execMoveStart sl s
  | .inlineThawStart sl txn => Sys2Proof.Machine.execInlineThawStart sl txn s
  | .moveCommit sl slot => Sys2Proof.Machine.execMoveCommit sl slot s
  | .moveAbort sl slot => Sys2Proof.Machine.execMoveAbort sl slot s
  | .moveTimeout sl slot => Sys2Proof.Machine.execMoveTimeout sl slot s
  | .rehomeCopyRound sl slot => Sys2Proof.Machine.execRehomeCopyRound sl slot s
  | .pressCompressDone e img => Sys2Proof.Machine.execPressCompressDone e img s
  | .pressDecodeDone e => Sys2Proof.Machine.execPressDecodeDone e s
  | .prsQTailWrite a q v => Sys2Proof.Machine.execPrsQTailWrite a q v s
  | .descriptorStart q e desc => Sys2Proof.Machine.execDescriptorStart q e desc s
  | .jobComplete e env => Sys2Proof.Machine.execJobComplete e env s
  | .counterOverflowDone sl page => Sys2Proof.Machine.execCounterOverflowDone sl page s
  | .counterFetchDone space q => Sys2Proof.Machine.execCounterFetchDone space q s
  | .counterWriteback space level node evict => Sys2Proof.Machine.execCounterWriteback space level node evict s
  | .retirePageOp region => Sys2Proof.Machine.execRetirePageOp region s
  | .retirePageDone region => Sys2Proof.Machine.execRetirePageDone region s
  | .keyZeroiseDone slot => Sys2Proof.Machine.execKeyZeroiseDone slot s
  | .dmcReadArrival c rd => Sys2Proof.Machine.execDmcReadArrival c rd s
  | .dmcScheduleSlot c sub clk => Sys2Proof.Machine.execDmcScheduleSlot c sub clk s
  | .rowIdlePrecharge c sub lr bank => Sys2Proof.Machine.execRowIdlePrecharge c sub lr bank s
  | .refreshInterval c sub lr => Sys2Proof.Machine.execRefreshInterval c sub lr s
  | .mr4Poll c hot => Sys2Proof.Machine.execMr4Poll c hot s
  | .rankPowerdownEntry c lr => Sys2Proof.Machine.execRankPowerdownEntry c lr s
  | .rankSelfrefreshEntry c lr => Sys2Proof.Machine.execRankSelfrefreshEntry c lr s
  | .dmcPdAllowWrite c v => Sys2Proof.Machine.execDmcPdAllowWrite c v s
  | .dmcSrAllowWrite c v => Sys2Proof.Machine.execDmcSrAllowWrite c v s
  | .safeStateOrder c => Sys2Proof.Machine.execSafeStateOrder c s
  | .trainingSweep c lr temp first second => Sys2Proof.Machine.execTrainingSweep c lr temp first second s
  | .fastCheck c edges => Sys2Proof.Machine.execFastCheck c edges s
  | .tempInterpolate c temp => Sys2Proof.Machine.execTempInterpolate c temp s
  | .recalPass c lr sub edges clks ces => Sys2Proof.Machine.execRecalPass c lr sub edges clks ces s
  | .recalForced c lr sub edges clks ces => Sys2Proof.Machine.execRecalForced c lr sub edges clks ces s
  | .gthConverterCal conv vref gndMv temp zero ref => Sys2Proof.Machine.execGthConverterCal conv vref gndMv temp zero ref s
  | .calLineMeasure line => Sys2Proof.Machine.execCalLineMeasure line s
  | .dieSensorCal sensor zero line => Sys2Proof.Machine.execDieSensorCal sensor zero line s
  | .ueRetryResult c rd err => Sys2Proof.Machine.execUeRetryResult c rd err s
  | .ceVerifyRead c mline err => Sys2Proof.Machine.execCeVerifyRead c mline err s
  | .remapSpareCheck c err => Sys2Proof.Machine.execRemapSpareCheck c err s
  | .rangePassPage pass => Sys2Proof.Machine.execRangePassPage pass s
  | .patrolRoundStart => Sys2Proof.Machine.execPatrolRoundStart s
  | .sramUe x => Sys2Proof.Machine.execSramUe x s
  | .channelLost c cause => Sys2Proof.Machine.execChannelLost c cause s
  | .d2dLinkLost die => Sys2Proof.Machine.execD2dLinkLost die s
  | .sliceRestartDone sl => Sys2Proof.Machine.execSliceRestartDone sl s
  | .lockstepMismatch p => Sys2Proof.Machine.execLockstepMismatch p s
  | .watchdogExpiry p => Sys2Proof.Machine.execWatchdogExpiry p s
  | .glbWdnKick a p => Sys2Proof.Machine.execGlbWdnKick a p s
  | .pairReloadDone p => Sys2Proof.Machine.execPairReloadDone p s
  | .fenceRelease => Sys2Proof.Machine.execFenceRelease s
  | .fenceExpiry => Sys2Proof.Machine.execFenceExpiry s
  | .wardenSelfCheckMismatch => Sys2Proof.Machine.execWardenSelfCheckMismatch s
  | .qosWindowClose => Sys2Proof.Machine.execQosWindowClose s
  | .gRecompute => Sys2Proof.Machine.execGRecompute s
  | .governorInterval dies => Sys2Proof.Machine.execGovernorInterval dies s
  | .dimmTempRead c temps => Sys2Proof.Machine.execDimmTempRead c temps s
  | .thermalBackstop dies => Sys2Proof.Machine.execThermalBackstop dies s
  | .auxPowerLoss => Sys2Proof.Machine.execAuxPowerLoss s
  | .auxPowerUp => Sys2Proof.Machine.execAuxPowerUp s
  | .gthSettingsLoaded => Sys2Proof.Machine.execGthSettingsLoaded s
  | .feedSample x r => Sys2Proof.Machine.execFeedSample x r s
  | .feedEnableChange x pin => Sys2Proof.Machine.execFeedEnableChange x pin s
  | .qualifyHoldExpiry x => Sys2Proof.Machine.execQualifyHoldExpiry x s
  | .rampTimeout x => Sys2Proof.Machine.execRampTimeout x s
  | .faultTimerExpiry x => Sys2Proof.Machine.execFaultTimerExpiry x s
  | .breakerPulldown x => Sys2Proof.Machine.execBreakerPulldown x s
  | .faultTimerClear x => Sys2Proof.Machine.execFaultTimerClear x s
  | .fastTrip x vsh => Sys2Proof.Machine.execFastTrip x vsh s
  | .pgQualified => Sys2Proof.Machine.execPgQualified s
  | .autoReturnTimer => Sys2Proof.Machine.execAutoReturnTimer s
  | .offConfirm gate => Sys2Proof.Machine.execOffConfirm gate s
  | .offConfirmTimeout => Sys2Proof.Machine.execOffConfirmTimeout s
  | .bbmGapExpiry => Sys2Proof.Machine.execBbmGapExpiry s
  | .gthRegisterWrite a off v => Sys2Proof.Machine.execGthRegisterWrite a off v s
  | .gthConfigApply => Sys2Proof.Machine.execGthConfigApply s
  | .gthCtlClear x => Sys2Proof.Machine.execGthCtlClear x s
  | .gthCtlClrEnergy x => Sys2Proof.Machine.execGthCtlClrEnergy x s
  | .graftLinkUp g width rate64 peer domain => Sys2Proof.Machine.execGraftLinkUp g width rate64 peer domain s
  | .graftRetrain g c collision => Sys2Proof.Machine.execGraftRetrain g c collision s
  | .graftRetrainDone g width => Sys2Proof.Machine.execGraftRetrainDone g width s
  | .fuTransmit g => Sys2Proof.Machine.execFuTransmit g s
  | .ackTimer g => Sys2Proof.Machine.execAckTimer g s
  | .fuReceive g unit => Sys2Proof.Machine.execFuReceive g unit s
  | .ackFu g ack => Sys2Proof.Machine.execAckFu g ack s
  | .nak g ack => Sys2Proof.Machine.execNak g ack s
  | .replay g ack start => Sys2Proof.Machine.execReplay g ack start s
  | .retrainReq g ack => Sys2Proof.Machine.execRetrainReq g ack s
  | .widthReq g ack w => Sys2Proof.Machine.execWidthReq g ack w s
  | .replayTimerExpiry g => Sys2Proof.Machine.execReplayTimerExpiry g s
  | .nakResend g => Sys2Proof.Machine.execNakResend g s
  | .graftPortLost g c => Sys2Proof.Machine.execGraftPortLost g c s
  | .graftLostRetry g => Sys2Proof.Machine.execGraftLostRetry g s
  | .rdl g tag lease line => Sys2Proof.Machine.execRdl g tag lease line s
  | .rdu g tag lease line => Sys2Proof.Machine.execRdu g tag lease line s
  | .wrl g tag lease line data poison => Sys2Proof.Machine.execWrl g tag lease line data poison s
  | .wrp g tag lease line mask data poison => Sys2Proof.Machine.execWrp g tag lease line mask data poison s
  | .wru g tag lease line data poison => Sys2Proof.Machine.execWru g tag lease line data poison s
  | .datal g tag status data poison => Sys2Proof.Machine.execDatal g tag status data poison s
  | .datau g tag status data poison => Sys2Proof.Machine.execDatau g tag status data poison s
  | .cmp g tag status => Sys2Proof.Machine.execCmp g tag status s
  | .hello g tag answer domain dev session => Sys2Proof.Machine.execHello g tag answer domain dev session s
  | .identity g tag answer part serial fw => Sys2Proof.Machine.execIdentity g tag answer part serial fw s
  | .capability g tag answer lendGib bw => Sys2Proof.Machine.execCapability g tag answer lendGib bw s
  | .capabilityResend g => Sys2Proof.Machine.execCapabilityResend g s
  | .leaseRequestTrigger g => Sys2Proof.Machine.execLeaseRequestTrigger g s
  | .leaseRequest g tag lease gib bw => Sys2Proof.Machine.execLeaseRequest g tag lease gib bw s
  | .leaseGrant g tag lease gib bw term => Sys2Proof.Machine.execLeaseGrant g tag lease gib bw term s
  | .leaseDeny g tag lease reason => Sys2Proof.Machine.execLeaseDeny g tag lease reason s
  | .leaseRenew g tag lease => Sys2Proof.Machine.execLeaseRenew g tag lease s
  | .leaseRenewed g tag lease term => Sys2Proof.Machine.execLeaseRenewed g tag lease term s
  | .leaseRecall g tag lease period => Sys2Proof.Machine.execLeaseRecall g tag lease period s
  | .recallAck g tag lease => Sys2Proof.Machine.execRecallAck g tag lease s
  | .leaseRelease g tag lease => Sys2Proof.Machine.execLeaseRelease g tag lease s
  | .leaseReleased g tag lease => Sys2Proof.Machine.execLeaseReleased g tag lease s
  | .oxenteloTimeout g tag => Sys2Proof.Machine.execOxenteloTimeout g tag s
  | .leaseRenewTimer lease => Sys2Proof.Machine.execLeaseRenewTimer lease s
  | .leaseTermExpiry lease => Sys2Proof.Machine.execLeaseTermExpiry lease s
  | .leaseIdleRelease lease => Sys2Proof.Machine.execLeaseIdleRelease lease s
  | .leaseReclaim lent => Sys2Proof.Machine.execLeaseReclaim lent s
  | .backgroundComplete a => Sys2Proof.Machine.execBackgroundComplete a s
  | .unsupportedOpcode h opcode => Sys2Proof.Machine.execUnsupportedOpcode h opcode s
  | .getIdentity h => Sys2Proof.Machine.execGetIdentity h s
  | .getSettings h gen => Sys2Proof.Machine.execGetSettings h gen s
  | .programSettings h gen confirm block tempOk ok => Sys2Proof.Machine.execProgramSettings h gen confirm block tempOk ok s
  | .revokeFwKey h key confirm => Sys2Proof.Machine.execRevokeFwKey h key confirm s
  | .setLocks h mask => Sys2Proof.Machine.execSetLocks h mask s
  | .setHeadMode h head mode => Sys2Proof.Machine.execSetHeadMode h head mode s
  | .createLd h head ldId ldIndex manage => Sys2Proof.Machine.execCreateLd h head ldId ldIndex manage s
  | .deleteLd h ldIndex => Sys2Proof.Machine.execDeleteLd h ldIndex s
  | .setLdManage h ldIndex manage => Sys2Proof.Machine.execSetLdManage h ldIndex manage s
  | .disable h target id mode => Sys2Proof.Machine.execDisable h target id mode s
  | .enable h target id => Sys2Proof.Machine.execEnable h target id s
  | .setStaticCapacity h ranges => Sys2Proof.Machine.execSetStaticCapacity h ranges s
  | .getPlacement h => Sys2Proof.Machine.execGetPlacement h s
  | .setCurator h lenMs curate hotMark freezeIdle freezeTight balance spillEn => Sys2Proof.Machine.execSetCurator h lenMs curate hotMark freezeIdle freezeTight balance spillEn s
  | .setRegionPlacement h region place spillOk mask => Sys2Proof.Machine.execSetRegionPlacement h region place spillOk mask s
  | .getPageInfo h space dpa count => Sys2Proof.Machine.execGetPageInfo h space dpa count s
  | .sanitizeRange h space dpa len => Sys2Proof.Machine.execSanitizeRange h space dpa len s
  | .getEpochTotals h => Sys2Proof.Machine.execGetEpochTotals h s
  | .setClass h cls floor budget dl1 dl2 dl3 baseTier shedRank => Sys2Proof.Machine.execSetClass h cls floor budget dl1 dl2 dl3 baseTier shedRank s
  | .deleteClass h cls => Sys2Proof.Machine.execDeleteClass h cls s
  | .setLabelMap h head dflt entries => Sys2Proof.Machine.execSetLabelMap h head dflt entries s
  | .setLendClass h cls => Sys2Proof.Machine.execSetLendClass h cls s
  | .getQos h cls => Sys2Proof.Machine.execGetQos h cls s
  | .setGovernor h pwr tj dimm noPd => Sys2Proof.Machine.execSetGovernor h pwr tj dimm noPd s
  | .getGovernor h => Sys2Proof.Machine.execGetGovernor h s
  | .allocateKey h => Sys2Proof.Machine.execAllocateKey h s
  | .freeKey h slot => Sys2Proof.Machine.execFreeKey h slot s
  | .flushKey h slot => Sys2Proof.Machine.execFlushKey h slot s
  | .createRegion h dpa len model cls slot place spillOk mask => Sys2Proof.Machine.execCreateRegion h dpa len model cls slot place spillOk mask s
  | .deleteRegion h region => Sys2Proof.Machine.execDeleteRegion h region s
  | .getRegion h region => Sys2Proof.Machine.execGetRegion h region s
  | .getKeyStatus h slot => Sys2Proof.Machine.execGetKeyStatus h slot s
  | .getLosses h => Sys2Proof.Machine.execGetLosses h s
  | .createQueue h ring log2 => Sys2Proof.Machine.execCreateQueue h ring log2 s
  | .deleteQueue h q => Sys2Proof.Machine.execDeleteQueue h q s
  | .queueTail h q tail => Sys2Proof.Machine.execQueueTail h q tail s
  | .getQueue h q => Sys2Proof.Machine.execGetQueue h q s
  | .setPress h offload retireAt => Sys2Proof.Machine.execSetPress h offload retireAt s
  | .getPress h => Sys2Proof.Machine.execGetPress h s
  | .scrubRange h space dpa len => Sys2Proof.Machine.execScrubRange h space dpa len s
  | .cancelScrub h => Sys2Proof.Machine.execCancelScrub h s
  | .requestPpr h ch lr sub bg ba row dev => Sys2Proof.Machine.execRequestPpr h ch lr sub bg ba row dev s
  | .getErrors h ch => Sys2Proof.Machine.execGetErrors h ch s
  | .readCeLog h ch => Sys2Proof.Machine.execReadCeLog h ch s
  | .setPatrol h periodH => Sys2Proof.Machine.execSetPatrol h periodH s
  | .setGraft h lending portEn replayLimit reqGib termS recallS borrow => Sys2Proof.Machine.execSetGraft h lending portEn replayLimit reqGib termS recallS borrow s
  | .createLendRegion h dpa len cls slot => Sys2Proof.Machine.execCreateLendRegion h dpa len cls slot s
  | .deleteLendRegion h => Sys2Proof.Machine.execDeleteLendRegion h s
  | .recallLease h lent => Sys2Proof.Machine.execRecallLease h lent s
  | .setPortWidth h port width => Sys2Proof.Machine.execSetPortWidth h port width s
  | .getGraft h => Sys2Proof.Machine.execGetGraft h s
  | .getPower h => Sys2Proof.Machine.execGetPower h s
  | .clearFeed h feed => Sys2Proof.Machine.execClearFeed h feed s
  | .setFeedEnable h a b confirm => Sys2Proof.Machine.execSetFeedEnable h a b confirm s
  | .setGthConfig h pri autoReturn timing outCfg aCfg aBreaker aShunt bCfg bBreaker bShunt => Sys2Proof.Machine.execSetGthConfig h pri autoReturn timing outCfg aCfg aBreaker aShunt bCfg bBreaker bShunt s
  | .clearEnergy h feed => Sys2Proof.Machine.execClearEnergy h feed s
  | .setVrefValue h v => Sys2Proof.Machine.execSetVrefValue h v s
  | .setCounter h group counter event => Sys2Proof.Machine.execSetCounter h group counter event s
  | .readGroup h group => Sys2Proof.Machine.execReadGroup h group s
  | .setSampling h enable mask cls period => Sys2Proof.Machine.execSetSampling h enable mask cls period s
  | .readSamples h start count => Sys2Proof.Machine.execReadSamples h start count s
  | .setUserAccess h enable => Sys2Proof.Machine.execSetUserAccess h enable s
  | .getFwInfo h => Sys2Proof.Machine.execGetFwInfo h s
  | .fwTransfer h off len data => Sys2Proof.Machine.execFwTransfer h off len data s
  | .fwCommit h => Sys2Proof.Machine.execFwCommit h s
  | .getBootLog h => Sys2Proof.Machine.execGetBootLog h s
  | .readReg h off => Sys2Proof.Machine.execReadReg h off s
  | .writeReg h off v => Sys2Proof.Machine.execWriteReg h off v s
  | .injectError h kind dpa => Sys2Proof.Machine.execInjectError h kind dpa s
  | .getEventRecords h log => Sys2Proof.Machine.execGetEventRecords h log s
  | .clearEventRecords h log clearAll handles => Sys2Proof.Machine.execClearEventRecords h log clearAll handles s
  | .getEventInterruptPolicy h => Sys2Proof.Machine.execGetEventInterruptPolicy h s
  | .setEventInterruptPolicy h modes => Sys2Proof.Machine.execSetEventInterruptPolicy h modes s
  | .cxlGetFwInfo h => Sys2Proof.Machine.execCxlGetFwInfo h s
  | .transferFw h off data => Sys2Proof.Machine.execTransferFw h off data s
  | .activateFw h online => Sys2Proof.Machine.execActivateFw h online s
  | .getTimestamp h => Sys2Proof.Machine.execGetTimestamp h s
  | .setTimestamp h ns => Sys2Proof.Machine.execSetTimestamp h ns s
  | .getSupportedLogs h => Sys2Proof.Machine.execGetSupportedLogs h s
  | .getLog h cel off len => Sys2Proof.Machine.execGetLog h cel off len s
  | .identifyMemoryDevice h => Sys2Proof.Machine.execIdentifyMemoryDevice h s
  | .sanitize h => Sys2Proof.Machine.execSanitize h s
  | .secureErase h => Sys2Proof.Machine.execSecureErase h s
  | .getDynamicCapacityConfiguration h => Sys2Proof.Machine.execGetDynamicCapacityConfiguration h s
  | .getDynamicCapacityExtentList h => Sys2Proof.Machine.execGetDynamicCapacityExtentList h s
  | .addDynamicCapacityResponse h accepted => Sys2Proof.Machine.execAddDynamicCapacityResponse h accepted s
  | .releaseDynamicCapacity h exts => Sys2Proof.Machine.execReleaseDynamicCapacity h exts s
  | .fmIdentify h => Sys2Proof.Machine.execFmIdentify h s
  | .getMultiHeadedInfo h => Sys2Proof.Machine.execGetMultiHeadedInfo h s
  | .getHeadInfo h start count => Sys2Proof.Machine.execGetHeadInfo h start count s
  | .getLdInfo h => Sys2Proof.Machine.execGetLdInfo h s
  | .tunnelManagementCommand h head inner payload => Sys2Proof.Machine.execTunnelManagementCommand h head inner payload s
  | .getDcdInfo h => Sys2Proof.Machine.execGetDcdInfo h s
  | .getHostDcRegionConfiguration h => Sys2Proof.Machine.execGetHostDcRegionConfiguration h s
  | .setDcRegionConfiguration h region base len block => Sys2Proof.Machine.execSetDcRegionConfiguration h region base len block s
  | .getDcRegionExtentLists h => Sys2Proof.Machine.execGetDcRegionExtentLists h s
  | .initiateDynamicCapacityAdd h exts tag => Sys2Proof.Machine.execInitiateDynamicCapacityAdd h exts tag s
  | .initiateDynamicCapacityRelease h forced exts => Sys2Proof.Machine.execInitiateDynamicCapacityRelease h forced exts s
  | .catGroupClear a g => Sys2Proof.Machine.execCatGroupClear a g s
  | .catEvselWrite a g j v => Sys2Proof.Machine.execCatEvselWrite a g j v s
  | .catSampConfigWrite a heads v => Sys2Proof.Machine.execCatSampConfigWrite a heads v s
  | .catGatherStart a => Sys2Proof.Machine.execCatGatherStart a s
  | .catalogueWalkStart => Sys2Proof.Machine.execCatalogueWalkStart s
  | .catalogueWalkDone => Sys2Proof.Machine.execCatalogueWalkDone s
  | .alertNUpdate => Sys2Proof.Machine.execAlertNUpdate s
  | .eventLdRecord entry => Sys2Proof.Machine.execEventLdRecord entry s
  | .alrCauseClear a blk v => Sys2Proof.Machine.execAlrCauseClear a blk v s
  | .mainPwrokFall => Sys2Proof.Machine.execMainPwrokFall s
  | .coldRst => Sys2Proof.Machine.execColdRst s
  | .glbRstCold a v => Sys2Proof.Machine.execGlbRstCold a v s
  | .warmRst => Sys2Proof.Machine.execWarmRst s
  | .glbRstWarm a v => Sys2Proof.Machine.execGlbRstWarm a v s
  | .perstAssert p => Sys2Proof.Machine.execPerstAssert p s
  | .perstDeassert p => Sys2Proof.Machine.execPerstDeassert p s
  | .centralDieRelease env => Sys2Proof.Machine.execCentralDieRelease env s
  | .nodeOverflowDone level node => Sys2Proof.Machine.execNodeOverflowDone level node s
  | .dramAlertNReport c parity => Sys2Proof.Machine.execDramAlertNReport c parity s
  | .headLinkRetrain h width => Sys2Proof.Machine.execHeadLinkRetrain h width s
  | .ticksWrap g => Sys2Proof.Machine.execTicksWrap g s
  | .warmEntryMoveDeadline => Sys2Proof.Machine.execWarmEntryMoveDeadline s

end Sys2Proof.Machine
end

