-- ==== Sys2Proof/Machine/Step.lean ====
section
/-! DEFINITION. The step of the block: the command at the front of the queue takes its effect; on an empty queue a tick passes. -/
namespace Sys2Proof.Machine

/-- One step. (DESIGN CHOICE, unsafe, log entry 1) (DESIGN CHOICE, safe, log entry 2) (DESIGN CHOICE, safe, log entry 16) -/
def step (s : State) : Host.Outcome State Fault Refusal :=
  match s.pending with
  | [] => .next s.tickOn
  | c :: rest => exec c { s with pending := rest }

/-- The state with the command that a word spells at the front of its queue. No row of the table has bits, so no word spells one. (DESIGN CHOICE, safe, log entry 2) -/
def State.withFetchWord (s : State) (nbits w : Nat) : State :=
  match Sys2Proof.decodeTableWord nbits w with
  | none => s
  | some c => { s with pending := c :: s.pending }

end Sys2Proof.Machine
end

