-- ==== Sys2Proof/Safety.lean ====
section
/-! DEFINITION. What counts as a safe run, in the terms that claims use: commands complete, tables are canonical, and fuses stay programmed. -/
namespace Sys2Proof.Machine

/-- A command completes with a state. -/
abbrev Completes (c : Instr) (s t : State) : Prop := exec c s = .next t

/-- The lines of the media are in canonical form: line numbers rise, and no entry holds what an unlisted line reads as. -/
abbrev Memory.wf (m : Tbl Line) : Prop := Tbl.Wf ({} : Line) m

/-- The register words are in canonical form: offsets rise, and no entry holds the reset word of its offset. -/
abbrev Registers.wf (t : Tbl Word) : Prop := Tbl.WfOn Reg.resetWord t

/-- The tables that stand for arrays are in canonical form: registers, media and fuses. -/
def State.Canonical (s : State) : Prop := Registers.wf s.regs ∧ Memory.wf s.media ∧ Tbl.Wf (0 : Byte) s.mgmt.otp

/-- Every fuse that is programmed in s is programmed in t: a fuse never returns to 0. -/
def FusesKept (s t : State) : Prop := ∀ a k : Nat, (s.otpAt a).getLsbD k = true → (t.otpAt a).getLsbD k = true

/-- A run of k steps that none of fault and refusal ends. -/
def SafeRun (k : Nat) (s : State) : Prop := ∃ t, Host.Core.run Sys2Proof.core k s = .next t

end Sys2Proof.Machine
end

