-- ==== Sys2Proof/WellFormed.lean ====
section
/-! DEFINITION. Commands whose operands lie within the fields that carry them: sizes of accesses, widths of addresses and message fields, and lengths of lists. -/
namespace Sys2Proof

/-- A line number: DPA[44:6]. -/
def lineOk (n : Nat) : Bool := decide (n < 2 ^ 39)

/-- The host address of a request fits CXL's 52 bits. -/
def MemReq.wf (r : MemReq) : Bool := decide (r.hpa < 2 ^ 52)

/-- A compressed page has at most 4,096 stream bytes and seven marks (R164). -/
def imageOk (x : Image) : Bool := decide (x.stream.length ≤ 4096) && x.marks.length == 7

/-- A command whose operands lie within their fields. The operands of the commands listed last fit by their types. -/
def Instr.wf (i : Instr) : Bool :=
  match i with
  | .registerWrite _ sp _ size _ => size == 1 || size == 2 || size == 4 || (size == 8 && sp != .config)
  | .hdmDecoderCommit _ _ base size skip iw ig => decide (base < 2 ^ 52 ∧ size < 2 ^ 52 ∧ skip < 2 ^ 52 ∧ iw ≤ 16 ∧ ig ≤ 16384)
  | .lowWordRead _ sp _ size => size == 1 || size == 2 || size == 4 || (size == 8 && sp != .config)
  | .memRd r => r.wf
  | .memRdData r => r.wf
  | .memInv r => r.wf
  | .memClnEvct r => r.wf
  | .memSpecRd r => r.wf
  | .memWr r _ _ => r.wf
  | .memWrPtl r _ _ _ => r.wf
  | .wcbDrain _ line => lineOk line
  | .mergeReadDone _ mline _ => lineOk mline
  | .birsp _ line _ => lineOk line
  | .biConflict _ line => lineOk line
  | .biTimeout _ line => lineOk line
  | .extentPortDrop _ u => decide (u < 2 ^ 24)
  | .extentReleaseDone _ u => decide (u < 2 ^ 24)
  | .pressCompressDone _ img => imageOk img
  | .counterOverflowDone _ page => decide (page < 2 ^ 33)
  | .gthConverterCal _ vref _ _ _ _ => decide (vref < 2 ^ 22)
  | .ceVerifyRead _ mline _ => lineOk mline
  | .governorInterval dies | .thermalBackstop dies => dies.length == 5
  | .wru _ _ _ _ data _ => data.length == 8
  | .fuReceive _ u => u.length == 256
  | .datau _ _ _ data _ => data.length == 8
  | .leaseRequest _ _ _ gib bw => decide (gib < 2 ^ 9 ∧ bw < 2 ^ 17)
  | .leaseGrant _ _ _ gib bw term => decide (gib < 2 ^ 9 ∧ bw < 2 ^ 17 ∧ term < 2 ^ 7)
  | .leaseRenewed _ _ _ term => decide (term < 2 ^ 7)
  | .leaseRecall _ _ _ period => decide (period < 2 ^ 10)
  | .programSettings _ _ _ block _ _ => block.length == 256
  | .setLabelMap _ _ _ es => es.length == 16
  | .setEventInterruptPolicy _ modes => modes.length == 4 || modes.length == 5
  | .centralDieRelease env => env.spd.length == 16
  | .access64 .. | .lowWordWrite .. | .highWordWrite .. | .highWordRead .. | .gthFrameSend | .measurementFrame
  | .gthLinkLost | .rootPllLockLoss .. | .tickDeparture | .sliceArbitration .. | .benchWake .. | .headLinkUp .. | .headLinkDown ..
  | .aspmL1Entry .. | .l1Exit .. | .l0pRequest .. | .pmeTurnOff .. | .configAccess .. | .memorySpaceEnable .. | .cdatTableAccess ..
  | .msixUnmask .. | .cxlReset .. | .functionLevelReset .. | .drainComplete .. | .gracefulDrainBound .. | .stopComplete ..
  | .fenceComplete .. | .writeAccept .. | .dramReadData .. | .biCreditReturn .. | .directoryWalkStep .. | .dirProbeStart ..
  | .dirProbeCapture .. | .coldScanVisit .. | .epochClose .. | .curatorPlan .. | .moveStage .. | .moveStart .. | .inlineThawStart ..
  | .moveCommit .. | .moveAbort .. | .moveTimeout .. | .rehomeCopyRound .. | .pressDecodeDone .. | .prsQTailWrite .. | .descriptorStart ..
  | .jobComplete .. | .counterFetchDone .. | .counterWriteback .. | .retirePageOp .. | .retirePageDone .. | .keyZeroiseDone ..
  | .dmcReadArrival .. | .dmcScheduleSlot .. | .rowIdlePrecharge .. | .refreshInterval .. | .mr4Poll .. | .rankPowerdownEntry ..
  | .rankSelfrefreshEntry .. | .dmcPdAllowWrite .. | .dmcSrAllowWrite .. | .safeStateOrder .. | .trainingSweep .. | .fastCheck ..
  | .tempInterpolate .. | .recalPass .. | .recalForced .. | .calLineMeasure .. | .dieSensorCal .. | .ueRetryResult .. | .remapSpareCheck ..
  | .rangePassPage .. | .patrolRoundStart | .sramUe .. | .channelLost .. | .d2dLinkLost .. | .sliceRestartDone .. | .lockstepMismatch ..
  | .watchdogExpiry .. | .glbWdnKick .. | .pairReloadDone .. | .fenceRelease | .fenceExpiry | .wardenSelfCheckMismatch | .qosWindowClose
  | .gRecompute | .dimmTempRead .. | .auxPowerLoss | .auxPowerUp | .gthSettingsLoaded | .feedSample .. | .feedEnableChange ..
  | .qualifyHoldExpiry .. | .rampTimeout .. | .faultTimerExpiry .. | .breakerPulldown .. | .faultTimerClear .. | .fastTrip ..
  | .pgQualified | .autoReturnTimer | .offConfirm .. | .offConfirmTimeout | .bbmGapExpiry | .gthRegisterWrite .. | .gthConfigApply
  | .gthCtlClear .. | .gthCtlClrEnergy .. | .graftLinkUp .. | .graftRetrain .. | .graftRetrainDone .. | .fuTransmit .. | .ackTimer ..
  | .ackFu .. | .nak .. | .replay .. | .retrainReq .. | .widthReq .. | .replayTimerExpiry .. | .nakResend ..
  | .graftPortLost .. | .graftLostRetry .. | .rdl .. | .rdu .. | .wrl .. | .wrp .. | .datal .. | .cmp .. | .hello .. | .identity ..
  | .capability .. | .capabilityResend .. | .leaseRequestTrigger .. | .leaseDeny .. | .leaseRenew .. | .recallAck .. | .leaseRelease ..
  | .leaseReleased .. | .oxenteloTimeout .. | .leaseRenewTimer .. | .leaseTermExpiry .. | .leaseIdleRelease .. | .leaseReclaim ..
  | .backgroundComplete .. | .unsupportedOpcode .. | .getIdentity .. | .getSettings .. | .revokeFwKey .. | .setLocks .. | .setHeadMode ..
  | .createLd .. | .deleteLd .. | .setLdManage .. | .disable .. | .enable .. | .setStaticCapacity .. | .getPlacement .. | .setCurator ..
  | .setRegionPlacement .. | .getPageInfo .. | .sanitizeRange .. | .getEpochTotals .. | .setClass .. | .deleteClass .. | .setLendClass ..
  | .getQos .. | .setGovernor .. | .getGovernor .. | .allocateKey .. | .freeKey .. | .flushKey .. | .createRegion .. | .deleteRegion ..
  | .getRegion .. | .getKeyStatus .. | .getLosses .. | .createQueue .. | .deleteQueue .. | .queueTail .. | .getQueue .. | .setPress ..
  | .getPress .. | .scrubRange .. | .cancelScrub .. | .requestPpr .. | .getErrors .. | .readCeLog .. | .setPatrol .. | .setGraft ..
  | .createLendRegion .. | .deleteLendRegion .. | .recallLease .. | .setPortWidth .. | .getGraft .. | .getPower .. | .clearFeed ..
  | .setFeedEnable .. | .setGthConfig .. | .clearEnergy .. | .setVrefValue .. | .setCounter .. | .readGroup .. | .setSampling ..
  | .readSamples .. | .setUserAccess .. | .getFwInfo .. | .fwTransfer .. | .fwCommit .. | .getBootLog .. | .readReg .. | .writeReg ..
  | .injectError .. | .getEventRecords .. | .clearEventRecords .. | .getEventInterruptPolicy .. | .cxlGetFwInfo .. | .transferFw ..
  | .activateFw .. | .getTimestamp .. | .setTimestamp .. | .getSupportedLogs .. | .getLog .. | .identifyMemoryDevice .. | .sanitize ..
  | .secureErase .. | .getDynamicCapacityConfiguration .. | .getDynamicCapacityExtentList .. | .addDynamicCapacityResponse ..
  | .releaseDynamicCapacity .. | .fmIdentify .. | .getMultiHeadedInfo .. | .getHeadInfo .. | .getLdInfo .. | .tunnelManagementCommand ..
  | .getDcdInfo .. | .getHostDcRegionConfiguration .. | .setDcRegionConfiguration .. | .getDcRegionExtentLists ..
  | .initiateDynamicCapacityAdd .. | .initiateDynamicCapacityRelease .. | .catGroupClear .. | .catEvselWrite .. | .catSampConfigWrite ..
  | .catGatherStart .. | .catalogueWalkStart | .catalogueWalkDone | .alertNUpdate | .eventLdRecord .. | .alrCauseClear .. | .mainPwrokFall
  | .coldRst | .glbRstCold .. | .warmRst | .glbRstWarm .. | .perstAssert .. | .perstDeassert .. | .nodeOverflowDone ..
  | .dramAlertNReport .. | .headLinkRetrain .. | .ticksWrap .. | .warmEntryMoveDeadline => true

end Sys2Proof
end

