-- ==== Sys2Proof/Certificates/Slice0/Obligations.lean ====
section
/-! DEFINITION. The statements about the block: what a step does, what every step keeps, what reset leaves, and for each command that it completes, what it
changes and what it leaves alone. Each names the rule of the spec it states; a clause that rests on a choice of the model says so. -/
namespace Sys2Proof.Machine

/-! ### The vocabulary of the statements about commands of the interpreter -/

/-- A packet that asks for a command: its header, opcode and class (Tables 15.1 and 15.5 to 15.15), whether it carries the header of Table 15.2, whether the boot ROM
serves it (R356), whether it names an LD, and whether it belongs to the Fabric Manager's interface. -/
structure Packet where
  h       : Hdr
  code    : Nat
  cls     : CmdClass
  ycs     : Bool := true
  rom     : Bool := false
  namesLd : Bool := false
  fm      : Bool := false

/-- The packet that a command is. -/
def packetOf (c : Instr) : Option Packet :=
  match c with
  | .getIdentity h => some { h := h, code := 0xC000, cls := .u, rom := true }
  | .getSettings h _ => some { h := h, code := 0xC001, cls := .m }
  | .programSettings h _ _ _ _ _ => some { h := h, code := 0xC002, cls := .f }
  | .revokeFwKey h _ _ => some { h := h, code := 0xC003, cls := .f }
  | .setLocks h _ => some { h := h, code := 0xC004, cls := .f }
  | .setHeadMode h _ _ => some { h := h, code := 0xC005, cls := .f }
  | .createLd h _ _ _ _ => some { h := h, code := 0xC006, cls := .f }
  | .deleteLd h _ => some { h := h, code := 0xC007, cls := .f }
  | .setLdManage h _ _ => some { h := h, code := 0xC008, cls := .f }
  | .disable h _ _ _ => some { h := h, code := 0xC009, cls := .f }
  | .enable h _ _ => some { h := h, code := 0xC00A, cls := .f }
  | .setStaticCapacity h _ => some { h := h, code := 0xC00B, cls := .f, namesLd := true }
  | .getPlacement h => some { h := h, code := 0xC100, cls := .m }
  | .setCurator h _ _ _ _ _ _ _ => some { h := h, code := 0xC101, cls := .f }
  | .setRegionPlacement h _ _ _ _ => some { h := h, code := 0xC102, cls := .f }
  | .getPageInfo h space _ _ => some { h := h, code := 0xC103, cls := .u, namesLd := space == 0#8 }
  | .sanitizeRange h space _ _ => some { h := h, code := 0xC104, cls := .m, namesLd := space == 0#8 }
  | .getEpochTotals h => some { h := h, code := 0xC105, cls := .m }
  | .setClass h _ _ _ _ _ _ _ _ => some { h := h, code := 0xC200, cls := .f }
  | .deleteClass h _ => some { h := h, code := 0xC201, cls := .f }
  | .setLabelMap h _ _ _ => some { h := h, code := 0xC202, cls := .f }
  | .setLendClass h _ => some { h := h, code := 0xC203, cls := .f }
  | .getQos h _ => some { h := h, code := 0xC204, cls := .m }
  | .setGovernor h _ _ _ _ => some { h := h, code := 0xC205, cls := .f }
  | .getGovernor h => some { h := h, code := 0xC206, cls := .m }
  | .allocateKey h => some { h := h, code := 0xC300, cls := .f }
  | .freeKey h _ => some { h := h, code := 0xC301, cls := .f }
  | .flushKey h _ => some { h := h, code := 0xC302, cls := .f }
  | .createRegion h _ _ _ _ _ _ _ _ => some { h := h, code := 0xC303, cls := .f }
  | .deleteRegion h _ => some { h := h, code := 0xC304, cls := .f }
  | .getRegion h _ => some { h := h, code := 0xC305, cls := .m }
  | .getKeyStatus h _ => some { h := h, code := 0xC306, cls := .m }
  | .getLosses h => some { h := h, code := 0xC307, cls := .m }
  | .createQueue h _ _ => some { h := h, code := 0xC400, cls := .u, namesLd := true }
  | .deleteQueue h _ => some { h := h, code := 0xC401, cls := .u }
  | .queueTail h _ _ => some { h := h, code := 0xC402, cls := .u }
  | .getQueue h _ => some { h := h, code := 0xC403, cls := .u }
  | .setPress h _ _ => some { h := h, code := 0xC404, cls := .f }
  | .getPress h => some { h := h, code := 0xC405, cls := .m }
  | .scrubRange h space _ _ => some { h := h, code := 0xC500, cls := .u, namesLd := space == 0#8 }
  | .cancelScrub h => some { h := h, code := 0xC501, cls := .u }
  | .requestPpr h _ _ _ _ _ _ _ => some { h := h, code := 0xC502, cls := .f }
  | .getErrors h _ => some { h := h, code := 0xC503, cls := .m }
  | .readCeLog h _ => some { h := h, code := 0xC504, cls := .m }
  | .setPatrol h _ => some { h := h, code := 0xC505, cls := .f }
  | .setGraft h _ _ _ _ _ _ _ => some { h := h, code := 0xC600, cls := .f }
  | .createLendRegion h _ _ _ _ => some { h := h, code := 0xC601, cls := .f }
  | .deleteLendRegion h => some { h := h, code := 0xC602, cls := .f }
  | .recallLease h _ => some { h := h, code := 0xC603, cls := .f }
  | .setPortWidth h _ _ => some { h := h, code := 0xC604, cls := .f }
  | .getGraft h => some { h := h, code := 0xC605, cls := .m }
  | .getPower h => some { h := h, code := 0xC700, cls := .m }
  | .clearFeed h _ => some { h := h, code := 0xC701, cls := .f }
  | .setFeedEnable h _ _ _ => some { h := h, code := 0xC702, cls := .f }
  | .setGthConfig h _ _ _ _ _ _ _ _ _ _ => some { h := h, code := 0xC703, cls := .f }
  | .clearEnergy h _ => some { h := h, code := 0xC704, cls := .f }
  | .setVrefValue h _ => some { h := h, code := 0xC705, cls := .f }
  | .setCounter h _ _ _ => some { h := h, code := 0xC800, cls := .m }
  | .readGroup h _ => some { h := h, code := 0xC801, cls := .m }
  | .setSampling h _ _ _ _ => some { h := h, code := 0xC802, cls := .m }
  | .readSamples h _ _ => some { h := h, code := 0xC803, cls := .m }
  | .setUserAccess h _ => some { h := h, code := 0xC804, cls := .u, namesLd := true }
  | .getFwInfo h => some { h := h, code := 0xC900, cls := .u, rom := true }
  | .fwTransfer h _ _ _ => some { h := h, code := 0xC901, cls := .f, rom := true }
  | .fwCommit h => some { h := h, code := 0xC902, cls := .f, rom := true }
  | .getBootLog h => some { h := h, code := 0xC903, cls := .m, rom := true }
  | .readReg h _ => some { h := h, code := 0xC910, cls := .f }
  | .writeReg h _ _ => some { h := h, code := 0xC911, cls := .f }
  | .injectError h _ _ => some { h := h, code := 0xC920, cls := .f }
  | .getEventRecords h _ => some { h := h, code := 0x0100, cls := .u, ycs := false }
  | .clearEventRecords h _ _ _ => some { h := h, code := 0x0101, cls := .u, ycs := false }
  | .getEventInterruptPolicy h => some { h := h, code := 0x0102, cls := .u, ycs := false }
  | .setEventInterruptPolicy h _ => some { h := h, code := 0x0103, cls := .u, ycs := false }
  | .cxlGetFwInfo h => some { h := h, code := 0x0200, cls := .u, ycs := false }
  | .transferFw h _ _ => some { h := h, code := 0x0201, cls := .f, ycs := false }
  | .activateFw h _ => some { h := h, code := 0x0202, cls := .f, ycs := false }
  | .getTimestamp h => some { h := h, code := 0x0300, cls := .u, ycs := false }
  | .setTimestamp h _ => some { h := h, code := 0x0301, cls := .u, ycs := false }
  | .getSupportedLogs h => some { h := h, code := 0x0400, cls := .u, ycs := false }
  | .getLog h _ _ _ => some { h := h, code := 0x0401, cls := .u, ycs := false }
  | .identifyMemoryDevice h => some { h := h, code := 0x4000, cls := .u, ycs := false }
  | .sanitize h => some { h := h, code := 0x4400, cls := .u, ycs := false }
  | .secureErase h => some { h := h, code := 0x4401, cls := .u, ycs := false }
  | .getDynamicCapacityConfiguration h => some { h := h, code := 0x4800, cls := .u, ycs := false }
  | .getDynamicCapacityExtentList h => some { h := h, code := 0x4801, cls := .u, ycs := false }
  | .addDynamicCapacityResponse h _ => some { h := h, code := 0x4802, cls := .u, ycs := false }
  | .releaseDynamicCapacity h _ => some { h := h, code := 0x4803, cls := .u, ycs := false }
  | .fmIdentify h => some { h := h, code := 0x0001, cls := .f, ycs := false, fm := true }
  | .getMultiHeadedInfo h => some { h := h, code := 0x5500, cls := .f, ycs := false, fm := true }
  | .getHeadInfo h _ _ => some { h := h, code := 0x5501, cls := .f, ycs := false, fm := true }
  | .getLdInfo h => some { h := h, code := 0x5400, cls := .f, ycs := false, fm := true }
  | .tunnelManagementCommand h _ _ _ => some { h := h, code := 0x5300, cls := .f, ycs := false, fm := true }
  | .getDcdInfo h => some { h := h, code := 0x5600, cls := .f, ycs := false, fm := true }
  | .getHostDcRegionConfiguration h => some { h := h, code := 0x5601, cls := .f, ycs := false, fm := true }
  | .setDcRegionConfiguration h _ _ _ _ => some { h := h, code := 0x5602, cls := .f, ycs := false, fm := true }
  | .getDcRegionExtentLists h => some { h := h, code := 0x5603, cls := .f, ycs := false, fm := true }
  | .initiateDynamicCapacityAdd h _ _ => some { h := h, code := 0x5604, cls := .f, ycs := false, fm := true }
  | .initiateDynamicCapacityRelease h _ _ => some { h := h, code := 0x5605, cls := .f, ycs := false, fm := true }
  | _ => none

/-- The REQ_ID that a reply carries. -/
def Packet.id (p : Packet) : BitVec 16 := if p.ycs then p.h.reqId else 0

/-- The reply to a packet leaves the block; nothing else changes but the mailbox's vector 0. -/
def State.replied (s : State) (p : Packet) (rc detail value : Nat) (body : List Byte) : State :=
  s.sendReply p.h.src p.code p.id rc detail value body

/-- A command that changed state is recorded, when its packet has a REQ_ID, and answered with success (R345). -/
def State.committed (s : State) (p : Packet) (body : List Byte) : State :=
  (if p.ycs then s.recordReply { src := p.h.src, opcode := p.code, reqId := p.h.reqId, rc := 0, detail := 0, value := 0, body := body } else s).replied p 0 0 0 body

/-- A background command is held and answered with its start (R346). -/
def State.begun (s : State) (p : Packet) (why : BgWhy) : State :=
  ({ s with mgmt := { s.mgmt with bg := s.mgmt.bg ++ [{ src := p.h.src, opcode := p.code, reqId := p.id, why := why }] } } : State).replied p 1 0 0 []

/-- The record of an earlier equal packet. -/
def State.earlier (s : State) (p : Packet) : Option ReplayRec :=
  if p.ycs = true ∧ p.h.reqId ≠ 0 then s.mgmt.replays.find? (fun r => r.src == p.h.src && r.opcode == p.code && r.reqId == p.h.reqId) else none

/-- The interpreter hears the source, with no foreground command in progress (R346), on a healthy pair or in the boot ROM. -/
abbrev State.serves (s : State) (p : Packet) : Prop :=
  s.hears p.h.src = true ∧ s.interpreting = false ∧ (s.inRom = true ∨ s.dutyUp 0 = true) ∧ (p.fm = true → hdrIsFm p.h = true)

/-- The interpreter hears the packet's source and admits its class, and the boot ROM serves the packet when it runs. -/
abbrev State.takes (s : State) (p : Packet) : Prop :=
  s.serves p ∧ s.admits p.h.src p.cls = true ∧ (s.inRom = true → p.rom = true)

/-- A packet that the interpreter takes, that is new, and whose length and header are right: its own checks follow (R342, R345, R347). -/
abbrev State.isReady (s : State) (p : Packet) : Prop :=
  s.takes p ∧ s.earlier p = none ∧ p.h.lenBad = none ∧ (p.ycs = true → p.h.rsv = 0 ∧ hdrLdFits p.h p.namesLd = true)

/-- A command's own checks, in the order in which they are made: what refuses it, the return code, DETAIL and VALUE. -/
abbrev Checks := List (Bool × Nat × Nat × Nat)

/-- What a command does whose packet is ready: when no check refuses it, it leads to the state given; the first check that refuses it leads to a reply, and nothing
else changes. -/
def Runs (c : Instr) (s : State) (checks : Checks) (good : Packet → State) : Prop :=
  match packetOf c with
  | none => False
  | some p => s.isReady p →
    ((∀ k ∈ checks, k.1 = false) → exec c s = .next (good p))
      ∧ ∀ k, checks.find? (fun k => k.1) = some k → exec c s = .next (s.replied p k.2.1 k.2.2.1 k.2.2.2 [])

/-- What a command does that acts on the LD that its source is, or that the Fabric Manager names: with no such LD it is refused as Invalid Input. -/
def RunsOnLd (c : Instr) (h : Hdr) (s : State) (before : Checks) (checks : Nat → Ld → Checks) (good : Nat → Ld → Packet → State) : Prop :=
  (∀ i d, hdrOwn h = some i → s.ld? i = some d → Runs c s (before ++ checks i d) (good i d))
    ∧ ((∀ i, hdrOwn h = some i → s.ld? i = none) → Runs c s (before ++ [(true, 2, 0, 0)]) (fun _ => s))

/-- A background command of the packet's source already runs (R346). -/
abbrev State.occupied (s : State) (h : Hdr) : Bool × Nat × Nat × Nat := ((s.bgOf h.src).isSome, 6, 0, 0)

/-- Only register words of a list of offsets differ. -/
def OnlyWords (s t : State) (l : List Nat) : Prop := t = { s with regs := t.regs } ∧ ∀ off, off ∉ l → t.word off = s.word off

/-- The admission of R283: a sum of floors above G, or above a head's bandwidth, refuses with its number and shortfall. -/
def admissionOf (need : Bool) (t : State) : Checks :=
  match t.overcommit with
  | some (k, short) => [(need, 0x8011, k, short)]
  | none => []

/-- The checks of SPACE and of an address range of n bytes that GET_PAGE_INFO and SANITIZE_RANGE share. -/
def rangeTests (s : State) (h : Hdr) (space dpa n : Nat) : Checks :=
  [(decide (1 < space), 2, hdrAt h 1, 0), (space == 1 && !s.admits h.src .m, 0x8001, hdrAt h 1, 0),
    (decide (space = 0) && ((hdrOwn h).bind s.ld?).isNone, 0x8002, hdrAt h 0, 0), (decide (dpa % 4096 ≠ 0), 2, hdrAt h 2, 0),
    (decide (n % 4096 ≠ 0), 2, hdrAt h 3, 0), (decide (space = 1 ∧ s.boot.h * 2 ^ 28 < dpa + n), 2, hdrAt h 2, 0)]

/-- The six checks of R351, in their order: 1 the range and the mask, 2 no page in use, 3 the class, 4 its key slot, 5 room in its secure space, 6 a free descriptor. -/
def regionTests (s : State) (dpa n cls slot : Nat) (mask : BitVec 16) : Checks :=
  [(!(decide (dpa % 2 ^ 28 = 0 ∧ 0 < n ∧ dpa / 2 ^ 28 + n ≤ s.boot.h)
        && s.regions.all (fun e => decide (dpa / 2 ^ 28 + n ≤ e.2.base ∨ e.2.base + e.2.len ≤ dpa / 2 ^ 28)))
      || (mask != 0 && !s.boot.chans.any (fun c => mask.getLsbD c)), 2, 1, 0),
    ((s.pagesIn (dpa / 2 ^ 28 * 65536) ((dpa / 2 ^ 28 + n) * 65536 - 1)).any (fun p => !(s.acc p).isUnwritten), 0x8005, 2, 0),
    (decide (3 ≤ cls), 2, 3, 0), (decide (cls = 0) && !s.flag Reg.SEC_CFG_PLAIN_OK, 0x800D, 3, 0),
    (decide (cls = 1) && ((s.key slot).st != .active || (s.key slot).fixed), 0x8005, 4, 0), (decide (cls = 2) && s.freeKey.isNone, 0x8004, 4, 0),
    (((clsOfCode cls).bind (fun c => s.baseFor c n)).isNone, 0x800C, 5, 0), (s.freeRegion.isNone, 0x8004, 6, 0)]

/-- One key slot takes a value. -/
def State.withKey (s : State) (k : Nat) (x : KeySlot) : State := { s with sec := { s.sec with keys := Tbl.putD s.sec.keys {} k x } }

/-- A slot drawn from the random source at two numbers. -/
def drawnSlot (n : Nat) (fixed : Bool) : KeySlot := { st := .active, fixed := fixed, kd := Config.drawKey n, kt := Config.drawKey (n + 1) }

/-- A range pass is added. -/
def State.withPass (s : State) (x : RangePass) : State := { s with mgmt := { s.mgmt with passes := s.mgmt.passes ++ [x] } }

/-- A range pass as it starts, begun by a source: over the pages of a range, in an LD's space or the device's; done at once with STATUS 2 when the range lies outside, and with STATUS 0 when it has no length. -/
def freshPass (n : Nat) (src : Agent) (ldDpa : Option Nat) (dpa len tick : Nat) (outside : Bool) : RangePass :=
  { id := n, owner := (match src with | .ld i => some i.val | _ => none), ldDpa := ldDpa, next := dpa / 4096, last := (dpa + len - 1) / 4096, start := tick, done := outside || len == 0, status := if outside then 2 else 0 }

/-- Writes for the Gatehouse wait for the link, in their order. -/
def State.withWrites (s : State) (l : List (Nat × Word)) : State := { s with gth := { s.gth with writes := s.gth.writes ++ l } }

/-- The link to the Gatehouse is down (R316). -/
abbrev gthAway (s : State) : Bool × Nat × Nat × Nat := (!s.flag Reg.GLB_CLK_STATUS_GTH_LINK_UP, 0x8010, 0, 0)

/-- The register images of SET_GTH_CONFIG, each field at the nearer end of its range (R344). -/
def supplyImages (timing outCfg aCfg aBreaker aShunt bCfg bBreaker bShunt : Word) : List (Nat × Word) :=
  [(0x2100004, timing), (0x2100008, outCfg), (0x2100010, aCfg), (0x2100014, aBreaker), (0x2100018, aShunt), (0x2100020, bCfg), (0x2100024, bBreaker),
    (0x2100028, bShunt)].map (fun e => (e.1, mapFields e.1 (fun lo hi _ x => max lo (min hi x)) e.2))

/-- An LD's extents cut where the ranges of a release begin and end. -/
def cutFor (d : Ld) (rs : List (BitVec 64 × BitVec 64)) : List Extent := (rs.map inUnits).foldl (fun l r => l.flatMap (cutAt r)) d.exts

/-- Bytes of the OTP array are programmed from an address on: a fuse once 1 stays 1, and nothing else changes but the free values passed over (R357). -/
def Programmed (s t : State) (a : Nat) (l : List Byte) : Prop :=
  (∀ k, t.otpAt k = s.otpAt k ||| (if a ≤ k then l.getD (k - a) 0 else 0)) ∧ t = { s with mgmt := { s.mgmt with otp := t.mgmt.otp } }

/-- The LDs that TARGET and ID name. -/
def ldsNamed (s : State) (target id : BitVec 8) : List Nat := if target = 0#8 then [id.toNat] else s.ldsOf id.toNat

/-- What a disable leaves of an LD's state (Table 2.9): an abrupt one stops an LD that is up, a graceful one drains an ACTIVE one, and any other stays where it is. -/
def disabledSt (abrupt : Bool) (x : LdState) : LdState :=
  match abrupt, x with
  | true, .active => .stopping
  | true, .draining => .stopping
  | true, .ioUp => .stopping
  | false, .active => .draining
  | _, y => y

end Sys2Proof.Machine
section
open Sys2Proof Sys2Proof.Machine

/-! ### Commands of the interpreter -/

/-- Every command that reaches the interpreter meets its checks in the order of R342 to R347 and R356: a source it does not hear gets no answer; then the pair that
holds duty 0, the class, the boot ROM, an earlier reply with the same REQ_ID, the length, the header, and LD_INDEX. None of these changes state but by the reply; while a foreground command is in progress, or others wait for it, the packet waits behind them (R346). DETAIL of a wrong length is the
first field at fault, that of the header 0. The order, and which field of the header is at fault, are DEDUCED where the rules give none (log entries 40 and 41). -/
def Obligations.InterpreterChecksInOrder : Prop :=
  ∀ (c : Instr) (s : State) (p : Packet), packetOf c = some p →
    (s.hears p.h.src = false → exec c s = .next s)
    ∧ (s.hears p.h.src = true → s.interpreting = true → (p.fm = true → hdrIsFm p.h = true) →
        ∃ x : HeldCmd, x.h = p.h ∧ x.op = p.code ∧ exec c s = .next { s with mgmt := { s.mgmt with held := s.mgmt.held ++ [x] } })
    ∧ (s.hears p.h.src = true → s.interpreting = false → s.inRom = false → s.dutyUp 0 = false → (p.fm = true → hdrIsFm p.h = true) →
        exec c s = .next (s.replied p 0x8006 0 0 []))
    ∧ (s.serves p → s.admits p.h.src p.cls = false → exec c s = .next (s.replied p 0x8001 0 0 []))
    ∧ (s.serves p → s.admits p.h.src p.cls = true → s.inRom = true → p.rom = false → exec c s = .next (s.replied p 0x8012 0 0 []))
    ∧ (∀ r, s.takes p → s.earlier p = some r → exec c s = .next (s.replied p r.rc r.detail r.value r.body))
    ∧ (s.takes p → s.earlier p = none →
        ∀ n, p.h.lenBad = some n → exec c s = .next (s.replied p 0x16 n.toNat 0 []))
    ∧ (s.takes p → s.earlier p = none → p.h.lenBad = none → p.ycs = true → p.h.rsv ≠ 0 → exec c s = .next (s.replied p 2 0 0 []))
    ∧ (s.takes p → s.earlier p = none → p.h.lenBad = none → p.ycs = true → p.h.rsv = 0 → hdrLdFits p.h p.namesLd = false →
        exec c s = .next (s.replied p 0x16 1 0 []))

/-- An opcode that no table lists, and a command of the Fabric Manager's interface at a mailbox, completes with Unsupported (R343, R349). -/
def Obligations.UnknownOpcodesAreUnsupported : Prop :=
  (∀ (h : Hdr) (op : BitVec 16) (s : State), s.hears h.src = true → s.interpreting = false → s.inRom = false → s.dutyUp 0 = true → (h.reqId = 0 ∨ s.mgmt.replays = []) →
      exec (.unsupportedOpcode h op) s = .next (s.sendReply h.src op.toNat h.reqId 3 0 0 []))
  ∧ ∀ (c : Instr) (s : State) (p : Packet), packetOf c = some p → p.fm = true → hdrIsFm p.h = false → s.hears p.h.src = true → s.interpreting = false → s.inRom = false →
      s.dutyUp 0 = true → (p.h.reqId = 0 ∨ s.mgmt.replays = []) → exec c s = .next (s.sendReply p.h.src p.code p.h.reqId 3 0 0 [])

/-- The C0 commands that read: identity (R45) and OTP settings (R357). -/
def Obligations.IdentityAndSettingsReply : Prop :=
  (∀ (h : Hdr) (s : State), Runs (.getIdentity h) s [] (fun p => s.replied p 0 0 0
      (leBytes 2 (s.rd Reg.GLB_ID_PART) ++ leBytes 1 (s.rd Reg.GLB_ID_STEPPING) ++ leBytes 1 (s.rd Reg.GLB_FW_SVN_SVN)
        ++ leBytes 4 (s.rd Reg.GLB_FW_ID_FW_VERSION) ++ leBytes 8 (s.rd Reg.GLB_SERIAL_SERIAL) ++ leBytes 2 (s.rd Reg.GLB_DEV_DEV_ID)
        ++ leBytes 4 (s.rd Reg.GLB_CAP_RAW_RAW_MIB) ++ leBytes 4 (s.rd Reg.GLB_CAP_H_H_MIB) ++ leBytes 1 (s.rd Reg.GLB_RATE_EXP_K)
        ++ leBytes 2 (s.rd Reg.GLB_RATE_RATE))))
  ∧ ∀ (h : Hdr) (gen : BitVec 8) (s : State),
      (gen ≠ 0xFF#8 → Runs (.getSettings h gen) s [(decide (3 < gen.toNat), 2, 1, 0)] (fun p => s.replied p 0 0 0
        (leBytes 1 (if blockValid (s.settingsBlock gen.toNat) gen.toNat then 1 else 0) ++ leBytes 1 gen.toNat ++ s.settingsBlock gen.toNat)))
      ∧ (gen = 0xFF#8 → s.boot.settings ≠ [] → Runs (.getSettings h gen) s [] (fun p => s.replied p 0 0 0
        (leBytes 1 1 ++ leBytes 1 (setField s.boot.settings 1 1) ++ s.boot.settings)))

/-- PROGRAM_SETTINGS and REVOKE_FW_KEY program fuses and change nothing else (R357, R358); a failed programming leaves GEN at FFh, its other fuses being free values (log entry 42). -/
def Obligations.OtpCommandsProgramFuses : Prop :=
  (∀ (h : Hdr) (gen : BitVec 8) (confirm : BitVec 16) (block : List Byte) (tempOk ok : Bool) (s : State),
    ∃ t, (ok = true → Programmed s t (512 + 256 * gen.toNat) block)
      ∧ (ok = false → FusesKept s t ∧ t.otpAt (513 + 256 * gen.toNat) = 0xFF#8 ∧ t.free = s.free + 256)
      ∧ Runs (.programSettings h gen confirm block tempOk ok) s
        [(block.length != 256, 0x16, 3, 0), (decide (3 < gen.toNat), 2, 1, 0), (!s.genOpen gen.toNat, 0x8008, 1, 0), (confirm != 0xC002#16, 2, 2, 0),
          (!(blockValid block gen.toNat && reservedZero block), 2, 3, 0), (!tempOk, 0x800F, 0, 0)]
        (fun p => if ok then t.committed p [] else
          (t.recordReply { src := h.src, opcode := 0xC002, reqId := h.reqId, rc := 0x8009, detail := 0, value := 0, body := [] }).replied p 0x8009 0 0 []))
  ∧ ∀ (h : Hdr) (key : BitVec 8) (confirm : BitVec 16) (s : State),
      ∃ t, Programmed s t 320 [1#8 <<< key.toNat]
        ∧ Runs (.revokeFwKey h key confirm) s
          [(decide (3 < key.toNat), 2, 1, 0), (confirm != 0xC003#16, 2, 2, 0),
            (!keyPresent key.toNat || s.revoked key.toNat || s.keyRuns key.toNat || !s.otherKey key.toNat, 0x8005, 1, 0)] (fun p => t.committed p [])

/-- The C0 commands that change locks, heads and LDs (R7, R41, R42, R44). -/
def Obligations.HeadAndLdCommandsTakeEffect : Prop :=
  (∀ (h : Hdr) (mask : BitVec 16) (s : State), ∃ t : State,
      (∀ e ∈ [(0, Reg.GLB_CLK_CFG_CFG_LOCK), (1, Reg.GLB_PORT_CFG_CFG_LOCK), (2, Reg.CUR_CAP_CFG_CFG_LOCK), (3, Reg.SEC_CFG_CFG_LOCK), (4, Reg.GFT_CFG_CFG_LOCK)],
        t.flag e.2 = (mask.getLsbD e.1 || s.flag e.2))
      ∧ t = { s with regs := t.regs, gth := t.gth }
      ∧ Runs (.setLocks h mask) s [(decide (128 ≤ mask.toNat), 2, 1, 0)] (fun p => t.committed p []))
  ∧ (∀ (h : Hdr) (head mode : BitVec 8) (s : State), ∃ t : State,
      (∀ k, t.isMld k = if k = head.toNat ∧ k < 16 then mode == 1#8 else s.isMld k)
      ∧ (∀ j, t.ld? j = (s.ld? j).map (fun d => if mode ≠ 1#8 ∧ j ∈ s.ldsOf head.toNat then { d with ldId := 0 } else d))
      ∧ t = { s with lds := t.lds, mgmt := { s.mgmt with mld := t.mgmt.mld } }
      ∧ Runs (.setHeadMode h head mode) s
        [((s.ldsOf head.toNat).any s.ldInChange, 0x8003, 0, 0), (decide (15 < head.toNat) || !s.headExists head.toNat, 2, 1, 0), (decide (1 < mode.toNat), 2, 2, 0), (s.linkUp head.toNat, 0x8005, 1, 0),
          (decide (mode = 0#8 ∧ 1 < (s.ldsOf head.toNat).length), 0x8005, 2, 0)] (fun p => t.committed p []))
  ∧ (∀ (h : Hdr) (head ldId ix manage : BitVec 8) (s : State),
      Runs (.createLd h head ldId ix manage) s
        [(decide (15 < head.toNat) || !s.headExists head.toNat, 2, 1, 0), (decide (15 < ldId.toNat), 2, 2, 0), (decide (63 < ix.toNat), 2, 3, 0),
          (decide (1 < manage.toNat), 2, 4, 0), (decide (64 ≤ s.lds.length) || (s.ld? ix.toNat).isSome, 0x8004, 3, 0),
          ((s.ldsOf head.toNat).any (fun i => !s.isMld head.toNat || (s.ld? i).any (fun d => d.ldId == (if s.isMld head.toNat then ldId.toNat else 0))), 0x8005, 2, 0)]
        (fun p => ({ s with lds := Tbl.put s.lds ix.toNat ({ head := head.toNat, ldId := if s.isMld head.toNat then ldId.toNat else 0, manage := manage == 1#8 } : Ld) } : State).committed p []))
  ∧ (∀ (h : Hdr) (ix : BitVec 8) (s : State), ∃ t : State, t.ld? ix.toNat = none ∧ t.media = s.media ∧ t.regions = s.regions ∧ t.place.acc = s.place.acc
      ∧ Runs (.deleteLd h ix) s
        [(s.ldInChange ix.toNat, 0x8003, 0, 0), (decide (63 < ix.toNat), 2, 1, 0), ((s.ld? ix.toNat).isNone, 0x8002, 1, 0),
          (!(s.ld? ix.toNat).any (fun d => (d.st == .down || d.st == .ioUp) && d.exts.isEmpty), 0x8005, 1, 0)] (fun p => t.committed p []))
  ∧ ∀ (h : Hdr) (ix manage : BitVec 8) (s : State),
      Runs (.setLdManage h ix manage) s
        [(s.ldInChange ix.toNat, 0x8003, 0, 0), (decide (63 < ix.toNat), 2, 1, 0), (decide (1 < manage.toNat), 2, 2, 0), ((s.ld? ix.toNat).isNone, 0x8002, 1, 0)]
        (fun p => (s.updLd ix.toNat (fun d => { d with manage := manage == 1#8 })).committed p [])

/-- DISABLE, ENABLE and SET_STATIC_CAPACITY (R65, R66, R411): DISABLE sets DISABLED for the LDs named, in whichever state each is, and moves each to the state that Table 2.9 gives for its MODE; no
other LD changes its state, no LD its extents, and memory, keys, regions and identity stay. A graceful DISABLE changes beside this only walks that begin, range passes, and the registers of
the LDs' queues. ENABLE clears DISABLED, and the LD enters ACTIVE as soon as its conditions hold. Static extents lie at consecutive LD DPA from 0, and those they replace are marked as being released. -/
def Obligations.DisableEnableAndCapacity : Prop :=
  (∀ (h : Hdr) (target id mode : BitVec 8) (s : State), ∃ t : State,
      (∀ j, (t.ld? j).map (fun d => (d.st, d.disabled, d.exts)) = (s.ld? j).map (fun d =>
          if j ∈ ldsNamed s target id then (disabledSt (mode == 1#8) d.st, true, d.exts) else (d.st, d.disabled, d.exts)))
      ∧ t.media = s.media ∧ t.regions = s.regions ∧ t.boot = s.boot ∧ t.sec.keys = s.sec.keys
      ∧ (mode = 0#8 → (∀ j, j ∉ ldsNamed s target id → t.ld? j = s.ld? j)
          ∧ (∀ off, (off < 0x401000 ∨ 0x401800 ≤ off) → t.word off = s.word off)
          ∧ t = { s with lds := t.lds, regs := t.regs, dir := { s.dir with walks := t.dir.walks }, press := { s.press with aborting := t.press.aborting },
                         mgmt := { s.mgmt with passes := t.mgmt.passes } })
      ∧ Runs (.disable h target id mode) s
        [s.occupied h, (decide (1 < target.toNat), 2, 1, 0), (decide (target = 0#8 ∧ 63 < id.toNat), 2, 2, 0),
          (decide (target = 1#8 ∧ 15 < id.toNat) || (target == 1#8 && !s.headExists id.toNat), 2, 2, 0),
          (decide (target = 0#8) && (s.ld? id.toNat).isNone, 0x8002, 2, 0), (decide (1 < mode.toNat), 2, 3, 0)]
        (fun p => t.begun p (.disable (ldsNamed s target id) (mode == 1#8))))
  ∧ (∀ (h : Hdr) (target id : BitVec 8) (s : State), ∃ t : State,
      (∀ j, t.ld? j = (s.ld? j).map (fun d =>
        if j ∈ ldsNamed s target id then
          { d with disabled := false, st := if d.st == .ioUp && d.memSpace && !d.decoders.isEmpty && d.resetClr.isNone && !s.boot.warmEntry
              && s.flag (Reg.GLB_HEAD_STATUS_MEM_OK d.head) then .active else d.st }
        else d))
      ∧ t = { s with lds := t.lds }
      ∧ Runs (.enable h target id) s
        [((ldsNamed s target id).any s.ldInChange, 0x8003, 0, 0), (decide (1 < target.toNat), 2, 1, 0), (decide (target = 0#8 ∧ 63 < id.toNat), 2, 2, 0),
          (decide (target = 1#8 ∧ 15 < id.toNat) || (target == 1#8 && !s.headExists id.toNat), 2, 2, 0),
          (decide (target = 0#8) && (s.ld? id.toNat).isNone, 0x8002, 2, 0),
          ((ldsNamed s target id).any (fun i => (s.ld? i).any (fun d => d.st == .draining || d.st == .stopping)), 0x8005, 2, 0)]
        (fun p => t.committed p []))
  ∧ ∀ (h : Hdr) (rs : List (BitVec 64 × BitVec 32)) (s : State) (i : Nat) (d : Ld), hdrOwn h = some i → s.ld? i = some d →
      ∃ t : State, (t.ld? i).map (fun x => x.exts) = some (s.staticExts 0 rs ++ d.exts.map (fun e =>
          if d.exts.any (fun x => x.static && !x.releasing && x.ldUnit == e.ldUnit) then { e with releasing := true } else e))
        ∧ t = { s with lds := t.lds, dir := t.dir }
        ∧ Runs (.setStaticCapacity h rs) s
          [(s.ldInChange i, 0x8003, 0, 0), (decide (16 < rs.length), 2, hdrAt h 1, 0),
            ((rs.zipIdx.find? (fun e => s.badRange i e.1)).isSome, 2,
              hdrAt h (match rs.zipIdx.find? (fun e => s.badRange i e.1) with | some e => 2 + 2 * e.2 | none => 0), 0),
            (d.dcRegions.any (fun r => decide (r.2.base < (rs.map (fun r => r.2.toNat)).sum * 2 ^ 28)), 2, hdrAt h 1, 0),
            (decide (256 < (d.exts.filter (fun e => !e.static || e.releasing)).length + rs.length), 0x8004, hdrAt h 1, 0),
            (!(d.st == .down || (d.st == .ioUp && d.decoders.isEmpty)), 0x8005, 0, 0)] (fun p => t.committed p [])

/-- DISABLE, ENABLE and SET_STATIC_CAPACITY run to their end: of a packet that the interpreter takes (R342 to R347), for every LD or head that exists, whenever no
background command of the source runs (DISABLE, R346), no LD named is draining, stopping or being disabled (ENABLE, R66, R346), and the LD is DOWN or in IO_UP with no decoder committed, its
ranges lying each in one region, singly mapped, below the LD's dynamic-capacity regions and no more than it can hold (SET_STATIC_CAPACITY, R411). DISABLE leaves every LD named
DISABLED and not ACTIVE, its MODE going to the background command; ENABLE leaves DISABLED clear; SET_STATIC_CAPACITY leaves the new extents in front. -/
def Obligations.DisableEnableAndCapacityComplete : Prop :=
  (∀ (h : Hdr) (target id mode : BitVec 8) (s : State) (p : Packet), packetOf (.disable h target id mode) = some p → s.isReady p → s.bgOf h.src = none →
      (target = 0#8 ∧ id.toNat ≤ 63 ∧ (s.ld? id.toNat).isSome = true ∨ target = 1#8 ∧ id.toNat ≤ 15 ∧ s.headExists id.toNat = true) → mode.toNat ≤ 1 →
      ∃ t : State, exec (.disable h target id mode) s = .next (t.begun p (.disable (ldsNamed s target id) (mode == 1#8)))
        ∧ ∀ i ∈ ldsNamed s target id, (t.ld? i).all (fun d => d.disabled && d.st != .active) = true)
  ∧ (∀ (h : Hdr) (target id : BitVec 8) (s : State) (p : Packet), packetOf (.enable h target id) = some p → s.isReady p →
      (target = 0#8 ∧ id.toNat ≤ 63 ∧ (s.ld? id.toNat).isSome = true ∨ target = 1#8 ∧ id.toNat ≤ 15 ∧ s.headExists id.toNat = true) →
      (∀ i ∈ ldsNamed s target id, s.ldInChange i = false ∧ (s.ld? i).all (fun d => d.st != .draining && d.st != .stopping) = true) →
      ∃ t : State, exec (.enable h target id) s = .next (t.committed p [])
        ∧ ∀ i ∈ ldsNamed s target id, (t.ld? i).all (fun d => !d.disabled) = true)
  ∧ ∀ (h : Hdr) (rs : List (BitVec 64 × BitVec 32)) (s : State) (p : Packet) (i : Nat) (d : Ld), packetOf (.setStaticCapacity h rs) = some p → s.isReady p →
      hdrOwn h = some i → s.ld? i = some d → (d.st = .down ∨ d.st = .ioUp ∧ d.decoders = []) → s.ldInChange i = false → rs.length ≤ 16 →
      (∀ r ∈ rs, s.badRange i r = false) → (∀ r ∈ d.dcRegions, (rs.map (fun x => x.2.toNat)).sum * 2 ^ 28 ≤ r.2.base) →
      (d.exts.filter (fun e => !e.static || e.releasing)).length + rs.length ≤ 256 →
      ∃ t : State, exec (.setStaticCapacity h rs) s = .next (t.committed p [])
        ∧ (t.ld? i).map (fun x => x.exts.take rs.length) = some (s.staticExts 0 rs)

/-- The C1 commands that set placement: SET_CURATOR writes each value at the nearer end of its field's range (R136, R344), and SET_REGION_PLACEMENT writes three fields
of a region (R139, R143); the lend region's stay as they are (R337). -/
def Sys2Proof.Machine.PlacementSettingsTakeEffect : Prop :=
  (∀ (h : Hdr) (lenMs : BitVec 16) (curate : BitVec 8) (hot : BitVec 16) (idle tight balance spill : BitVec 8) (s : State), ∃ t : State,
      OnlyWords s t [0x300004, 0x300010]
      ∧ t.rd Reg.CUR_EPOCH_CFG_LEN_MS = max 1 (min 1000 lenMs.toNat) ∧ t.rd Reg.CUR_EPOCH_CFG_CURATE = min 1 curate.toNat
      ∧ t.rd Reg.CUR_POLICY_HOT_MARK = max 1 hot.toNat ∧ t.rd Reg.CUR_POLICY_FREEZE_IDLE = max 1 (min 8 idle.toNat)
      ∧ t.rd Reg.CUR_POLICY_FREEZE_IDLE_TIGHT = max 1 (min 8 tight.toNat) ∧ t.rd Reg.CUR_POLICY_BALANCE_PCT = min 127 balance.toNat
      ∧ t.rd Reg.CUR_POLICY_SPILL_EN = min 1 spill.toNat
      ∧ Runs (.setCurator h lenMs curate hot idle tight balance spill) s
        [(decide (1 < curate.toNat), 2, 2, 0), (decide (1 < spill.toNat), 2, 7, 0)] (fun p => t.committed p []))
  ∧ ∀ (h : Hdr) (region : BitVec 16) (place spillOk : BitVec 8) (mask : BitVec 16) (s : State),
      Runs (.setRegionPlacement h region place spillOk mask) s
        [((Tbl.look s.regions region.toNat).isNone, 0x8002, 1, 0), (decide (2 < place.toNat), 2, 2, 0), (decide (1 < spillOk.toNat), 2, 3, 0),
          (mask != 0 && !s.boot.chans.any (fun c => mask.getLsbD c), 2, 4, 0),
          ((Tbl.look s.regions region.toNat).any (fun r => r.lend) && place != 1, 2, 2, 0), ((Tbl.look s.regions region.toNat).any (fun r => r.lend) && spillOk != 0, 2, 3, 0)]
        (fun p => (s.updRegion region.toNat (fun r => { r with place := place.toNat, spillOk := spillOk == 1#8, mask := mask })).committed p [])

/-- The C1 commands that read, and SANITIZE_RANGE: GET_PLACEMENT (R151), GET_PAGE_INFO with one 8-byte entry for each page (R127), GET_EPOCH_TOTALS (R137). SANITIZE_RANGE
is held with the ranges it names, and changes nothing else at its start (R350). -/
def Sys2Proof.Machine.PlacementQueriesAndSanitise : Prop :=
  (∀ (h : Hdr) (s : State), Runs (.getPlacement h) s [] (fun p => s.replied p 0 0 0
      (leBytes 1 (s.rd Reg.CUR_PRESSURE_LEVEL) ++ leBytes 2 (s.rd Reg.CUR_EPOCH_STATUS_EPOCH) ++ leBytes 4 (s.rd Reg.CUR_EPOCH_LEN_EFF_LEN_MS)
        ++ leBytes 8 (s.showPool.rd Reg.CUR_POOL_SIZE_UNITS) ++ leBytes 8 (s.showPool.rd Reg.CUR_POOL_FREE_UNITS)
        ++ leBytes 8 (s.showPool.rd Reg.CUR_POOL_FREE_RESERVE) ++ leBytes 1 (s.rd Reg.CUR_PRESSURE_LEASES) ++ leBytes 1 (s.rd Reg.CUR_EPOCH_STATUS_INC_GEN))))
  ∧ (∀ (h : Hdr) (space : BitVec 8) (dpa : BitVec 64) (count : BitVec 16) (s : State),
      Runs (.getPageInfo h space dpa count) s
        ((decide (count.toNat < 1 ∨ 500 < count.toNat), 0x800F, hdrAt h 3, 0) :: rangeTests s h space.toNat dpa.toNat (4096 * count.toNat))
        (fun p => s.replied p 0 0 0 ((List.range count.toNat).flatMap (fun k => leBytes 8 (s.pageEntry
          (if space.toNat = 1 then some (dpa.toNat / 4096 + k)
           else ((hdrOwn h).bind (fun i => s.ldToDpa i (dpa.toNat + 4096 * k))).map (fun a => a / 4096)))))))
  ∧ (∀ (h : Hdr) (s : State), Runs (.getEpochTotals h) s [] (fun p => s.replied p 0 0 0
      (if 0 < s.place.epoch then leBytes 1 1 ++ leBytes 2 ((s.place.epoch - 1) % 65536) ++ (List.range 16).flatMap (fun c => leBytes 8 (s.chanTotal c))
       else leBytes 1 0 ++ leBytes 2 0 ++ (List.range 16).flatMap (fun _ => leBytes 8 0))))
  ∧ ∀ (h : Hdr) (space : BitVec 8) (dpa len : BitVec 64) (s : State),
      Runs (.sanitizeRange h space dpa len) s (s.occupied h :: rangeTests s h space.toNat dpa.toNat len.toNat)
        (fun p => ({ s with mgmt := { s.mgmt with clears := s.mgmt.clears ++ [Sanit.mk (s.rangesOf h space.toNat dpa.toNat len.toNat)
            (s.rangesOf h space.toNat dpa.toNat len.toNat) none 0] } } : State).begun p (.sanitize (s.rangesOf h space.toNat dpa.toNat len.toNat)))

/-- The C1 commands that set placement: SET_CURATOR writes each value at the nearer end of its field's range (R136, R344), and SET_REGION_PLACEMENT writes three fields
of a region (R139, R143); the lend region's stay as they are (R337). The C1 commands that read, and SANITIZE_RANGE: GET_PLACEMENT (R151), GET_PAGE_INFO with one 8-byte entry for each page (R127), GET_EPOCH_TOTALS (R137). SANITIZE_RANGE
is held with the ranges it names, and changes nothing else at its start (R350). -/
def Obligations.PlacementCommandsTakeEffect : Prop := PlacementSettingsTakeEffect ∧ PlacementQueriesAndSanitise

/-- The C2 commands on classes: SET_CLASS writes the fields of Table 11.1, with deadlines at the nearer end of their range (R270, R272; a FLOOR or BUDGET too large for its field is refused, R344), keeps the floor of LEND_CLASS at the sum of the
granted bandwidth while leases are granted (R284), and is refused with the shortfall when floors do not fit (R283); DELETE_CLASS clears every word of the class (R268). -/
def Sys2Proof.Machine.ClassCommandsTakeEffect : Prop :=
  (∀ (h : Hdr) (cls : BitVec 8) (floor budget dl1 dl2 dl3 : BitVec 32) (tier rank : BitVec 8) (s : State), ∃ t : State,
      (cls.toNat < 64 → floor.toNat ≤ 0xFFFFF → budget.toNat ≤ 0xFFFFF → OnlyWords s t ([0, 4, 8, 12, 16, 20].map (fun k => 0x201000 + 0x20 * cls.toNat + k))
      ∧ t.flag (Reg.QOS_CLASS_CTL_VALID cls.toNat) = true ∧ t.rd (Reg.QOS_CLASS_CTL_BASE_TIER cls.toNat) = tier.toNat % 4
      ∧ t.rd (Reg.QOS_CLASS_CTL_SHED_RANK cls.toNat) = rank.toNat ∧ t.rd (Reg.QOS_CLASS_CTL_SHED cls.toNat) = s.rd (Reg.QOS_CLASS_CTL_SHED cls.toNat)
      ∧ t.rd (Reg.QOS_CLASS_BUDGET_BUDGET cls.toNat) = budget.toNat
      ∧ t.rd (Reg.QOS_CLASS_DL1_DL cls.toNat) = max (s.rootN * 5 / 8) (min (s.rootN * 1625 / 2) dl1.toNat)
      ∧ t.rd (Reg.QOS_CLASS_DL2_DL cls.toNat) = max (s.rootN * 5 / 8) (min (s.rootN * 1625 / 2) dl2.toNat)
      ∧ t.rd (Reg.QOS_CLASS_DL3_DL cls.toNat) = max (s.rootN * 5 / 8) (min (s.rootN * 1625 / 2) dl3.toNat)
      ∧ t.rd (Reg.QOS_CLASS_FLOOR_FLOOR cls.toNat) = (if s.lent ≠ [] ∧ cls.toNat = s.rd Reg.QOS_CFG_LEND_CLASS
          then (s.lent.map (fun e => e.2.bw)).sum % 2 ^ 20 else floor.toNat))
      ∧ Runs (.setClass h cls floor budget dl1 dl2 dl3 tier rank) s
        ([(decide (63 < cls.toNat), 2, 1, 0), (decide (0xFFFFF < floor.toNat), 2, 2, 0), (decide (0xFFFFF < budget.toNat), 2, 3, 0), (decide (tier.toNat < 1 ∨ 3 < tier.toNat), 2, 7, 0)]
          ++ admissionOf (decide ((if s.flag (Reg.QOS_CLASS_CTL_VALID cls.toNat) then s.floorOf cls.toNat else 0) < t.floorOf cls.toNat)) t)
        (fun p => t.committed p []))
  ∧ (∀ (h : Hdr) (cls : BitVec 8) (s : State), ∃ t : State,
      (∀ k, t.word k = if k ∈ [0, 4, 8, 12, 16, 20, 24, 28].map (fun k => 0x201000 + 0x20 * cls.toNat + k) then 0 else s.word k)
      ∧ t = { s with regs := t.regs, qos := { s.qos with acct := Tbl.del s.qos.acct cls.toNat } }
      ∧ Runs (.deleteClass h cls) s
        [(decide (63 < cls.toNat), 2, 1, 0), (!s.flag (Reg.QOS_CLASS_CTL_VALID cls.toNat), 0x8002, 1, 0),
          (decide (s.lent ≠ [] ∧ cls.toNat = s.rd Reg.QOS_CFG_LEND_CLASS), 0x8005, 1, 0)] (fun p => t.committed p []))
  ∧ (∀ (h : Hdr) (head dflt : BitVec 8) (es : List (BitVec 8)) (s : State), ∃ t : State,
      (es.length = 16 → head.toNat < 16 → dflt.toNat < 16 →
      (∀ l, l < 16 → t.labelClass head.toNat l = if (es.getD l 0).getLsbD 6 then some ((es.getD l 0).toNat % 64) else none)
      ∧ t.rd (Reg.QOS_HEAD_CTL_DEFAULT_LABEL head.toNat) = dflt.toNat
      ∧ (∀ x l, x < 16 → l < 16 → x ≠ head.toNat → t.labelClass x l = s.labelClass x l)
      ∧ t = { s with regs := t.regs })
      ∧ Runs (.setLabelMap h head dflt es) s
        ([(es.length != 16, 0x16, 3, 0), (decide (15 < head.toNat), 2, 1, 0), (decide (15 < dflt.toNat), 2, 2, 0),
          ((es.zipIdx.find? (fun e => e.1.getLsbD 7)).isSome, 2, match es.zipIdx.find? (fun e => e.1.getLsbD 7) with | some e => 3 + e.2 | none => 0, 0)]
          ++ admissionOf true t) (fun p => t.committed p []))
  ∧ ∀ (h : Hdr) (cls : BitVec 8) (s : State),
      Runs (.setLendClass h cls) s [(decide (63 < cls.toNat), 2, 1, 0), (decide (s.lent ≠ []), 0x8005, 1, 0)]
        (fun p => (s.wr Reg.QOS_CFG_LEND_CLASS cls.toNat).committed p [])

/-- GET_QOS, SET_GOVERNOR and GET_GOVERNOR (R270, R288): the limits are written at the nearer end of their range (R344). The widths of GET_QOS are the model's choice (log entry 43). -/
def Sys2Proof.Machine.GovernorAndQosCommands : Prop :=
  (∀ (h : Hdr) (cls : BitVec 8) (s : State), Runs (.getQos h cls) s
      [(decide (63 < cls.toNat), 2, 1, 0), (!s.flag (Reg.QOS_CLASS_CTL_VALID cls.toNat), 0x8002, 1, 0)]
      (fun p => s.replied p 0 0 0 (s.qosBody cls.toNat)))
  ∧ (∀ (h : Hdr) (pwr : BitVec 16) (tj dimm noPd : BitVec 8) (s : State), ∃ t : State,
      OnlyWords s t [0x200, 0x204] ∧ t.rd Reg.GLB_GOV_CFG_PWR_LIMIT = pwr.toNat ∧ t.rd Reg.GLB_GOV_TEMP_TJ_HIGH = max 60 (min 100 tj.toNat)
      ∧ t.rd Reg.GLB_GOV_TEMP_DIMM_HIGH = max 60 (min 95 dimm.toNat) ∧ t.rd Reg.GLB_GOV_TEMP_NO_PD_AT_FULL = min 1 noPd.toNat
      ∧ Runs (.setGovernor h pwr tj dimm noPd) s [(decide (1 < noPd.toNat), 2, 4, 0)] (fun p => t.committed p []))
  ∧ ∀ (h : Hdr) (s : State), Runs (.getGovernor h) s [] (fun p => s.advanceFree.replied p 0 0 0
      (s.word4 0x208 ++ s.word4 0x20C ++ s.word4 0x210 ++ s.word4 0x200020 ++ leBytes 1 (s.rd Reg.QOS_BE_SCALE_SCALE)))

/-- The C2 commands on classes: SET_CLASS writes the fields of Table 11.1, with deadlines at the nearer end of their range (R270, R272; a FLOOR or BUDGET too large for its field is refused, R344), keeps the floor of LEND_CLASS at the sum of the
granted bandwidth while leases are granted (R284), and is refused with the shortfall when floors do not fit (R283); DELETE_CLASS clears every word of the class (R268). GET_QOS, SET_GOVERNOR and GET_GOVERNOR (R270, R288): the limits are written at the nearer end of their range (R344). The widths of GET_QOS are the model's choice (log entry 43). -/
def Obligations.QosClassAndGovernorCommands : Prop := ClassCommandsTakeEffect ∧ GovernorAndQosCommands
/-- The C3 commands on key slots (R183, R197, R198, Table 7.8): ALLOCATE_KEY draws Kd and Kt for the lowest FREE slot and no other slot changes; FREE_KEY zeroises a slot that nothing uses;
FLUSH_KEY draws a new slot, and every region of the old one goes on under the new one from its first page, the old slot being RETIRING. -/
def Obligations.KeySlotCommandsTakeEffect : Prop :=
  (∀ (h : Hdr) (s : State) (k : Nat), s.freeKey = some k →
      Runs (.allocateKey h) s [] (fun p => (({ s with free := s.free + 2 } : State).withKey k (drawnSlot s.free false)).committed p (leBytes 2 k)))
  ∧ (∀ (h : Hdr) (s : State), s.freeKey = none → Runs (.allocateKey h) s [(true, 0x8004, 0, 0)] (fun _ => s))
  ∧ (∀ (h : Hdr) (slot : BitVec 16) (s : State),
      Runs (.freeKey h slot) s
        [(decide (4095 < slot.toNat), 2, 1, 0),
          ((s.key slot.toNat).st != .active || (s.key slot.toNat).fixed || !(s.boundTo slot.toNat).isEmpty, 0x8005, 1, 0)]
        (fun p => (s.withKey slot.toNat { s.key slot.toNat with st := .zeroising }).committed p []))
  ∧ (∀ (h : Hdr) (slot : BitVec 16) (s : State) (n : Nat), s.freeKey = some n → ∃ t : State,
      (slot.toNat ≠ n → (∃ i r, Tbl.look s.regions i = some r ∧ r.cls ≠ .plain ∧ r.key = slot.toNat ∧ 0 < r.len) →
        t.key n = drawnSlot s.free false
        ∧ (t.key slot.toNat).st = .retiring
        ∧ (∀ i r, Tbl.look s.regions i = some r → r.cls ≠ .plain → r.key = slot.toNat →
            Tbl.look t.regions i = some { r with oldKey := slot.toNat, oldValid := true, key := n, cursor := 0 })
        ∧ (∀ i, (∀ e ∈ s.regions, e.1 = i → e.2.cls = .plain ∨ e.2.key ≠ slot.toNat) → Tbl.look t.regions i = Tbl.look s.regions i)
        ∧ t = { s with free := s.free + 2, regions := t.regions, sec := { s.sec with keys := t.sec.keys } })
      ∧ Runs (.flushKey h slot) s
        [(decide (4095 < slot.toNat), 2, 1, 0),
          ((s.key slot.toNat).st != .active || (s.key slot.toNat).fixed || decide (16 ≤ s.retirements), 0x8005, 1, 0)] (fun p => t.committed p (leBytes 2 n)))
  ∧ (∀ (h : Hdr) (slot : BitVec 16) (s : State), s.freeKey = none →
      Runs (.flushKey h slot) s
        [(decide (4095 < slot.toNat), 2, 1, 0),
          ((s.key slot.toNat).st != .active || (s.key slot.toNat).fixed || decide (16 ≤ s.retirements), 0x8005, 1, 0), (true, 0x8005, 1, 0)] (fun _ => s))
  ∧ (∀ (h : Hdr) (slot : BitVec 16) (s : State), Runs (.getKeyStatus h slot) s [(decide (4095 < slot.toNat), 2, 1, 0)] (fun p => s.replied p 0 0 0
      (leBytes 1 (keyCode (s.key slot.toNat).st) ++ leBytes 1 (if (s.key slot.toNat).fixed then 1 else 0) ++ leBytes 2 (s.boundTo slot.toNat).length
        ++ leBytes 2 (bitsOf (s.wordNow 0x500004) 0 13) ++ leBytes 1 s.retirements)))
  ∧ ∀ (h : Hdr) (s : State), Runs (.getLosses h) s [] (fun p => s.advanceFree.replied p 0 0 0
      ((List.range 64).flatMap (fun n => s.word8 (0x501000 + 8 * n)) ++ leBytes 4 (s.rd Reg.SEC_ROOT_LOST_LOST) ++ leBytes 1 (s.rd Reg.SEC_STATUS_LOSS_OVF)))

/-- What the deletion of region i, with descriptor r, leaves (R352, Table 7.8): the descriptor is gone and no slot is bound by it; every page of it is UNWRITTEN; its secure range can be
taken again; a slot of its own is ZEROISING, as is the slot that it alone was still leaving; with neither, slots and the other descriptors stay. No LD changes its extents. -/
def Sys2Proof.Machine.RegionGone (s t : State) (i : Nat) (r : Region) : Prop :=
  Tbl.look t.regions i = none ∧ (∀ k, ∀ e ∈ t.boundTo k, e.1 ≠ i)
  ∧ (∀ p, r.base * 65536 ≤ p → p < (r.base + r.len) * 65536 → (t.acc p).isUnwritten = true)
  ∧ ((∀ e ∈ s.regions, e.1 ≠ i → spaceOf e.2.cls = spaceOf r.cls → r.sbase + r.len ≤ e.2.sbase ∨ e.2.sbase + e.2.len ≤ r.sbase) →
      (∀ x, spaceOf r.cls = some x → r.sbase + r.len ≤ 256 * (if x then s.boot.vCap else s.boot.sCap)) → (t.baseFor r.cls r.len).isSome = true)
  ∧ (r.cls = .vitrine → (t.key r.key).st = .zeroising)
  ∧ (r.oldValid = true → (s.key r.oldKey).st = .retiring → (∀ e ∈ s.regions, e.1 ≠ i → e.2.oldValid = false ∨ e.2.oldKey ≠ r.oldKey) → (t.key r.oldKey).st = .zeroising)
  ∧ (r.oldValid = false → (r.cls ≠ .vitrine → t.sec.keys = s.sec.keys) ∧ ∀ j, j ≠ i → Tbl.look t.regions j = Tbl.look s.regions j)
  ∧ t.boot = s.boot ∧ ∀ j, (t.ld? j).map (fun d => d.exts) = (s.ld? j).map (fun d => d.exts)

/-- CREATE_REGION makes the six checks of R351 in their order, DETAIL giving the number of the check, and places the descriptor in the lowest free entry; a VITRINE region gets a newly drawn slot of its own.
DELETE_REGION removes a descriptor that nothing names, with its pages, its secure range and its binding (R352); GET_REGION reads one back (R179). -/
def Sys2Proof.Machine.RegionCommandsTakeEffect : Prop :=
  (∀ (h : Hdr) (dpa : BitVec 64) (len : BitVec 32) (model cls : BitVec 8) (slot : BitVec 16) (place spillOk : BitVec 8) (mask : BitVec 16) (s : State),
    ∃ t : State, (∀ i, s.freeRegion = some i → cls.toNat < 3 → ∃ r : Region, Tbl.look t.regions i = some r
        ∧ r.base = dpa.toNat / 2 ^ 28 ∧ r.len = len.toNat ∧ r.hdmDb = (model == 1#8) ∧ some r.cls = clsOfCode cls.toNat ∧ r.place = place.toNat
        ∧ r.spillOk = (spillOk == 1#8) ∧ r.mask = mask ∧ r.oldValid = false ∧ r.cursor = 0 ∧ r.readonly = false ∧ r.lost = false ∧ r.lend = false
        ∧ (cls = 1#8 → r.key = slot.toNat ∧ t.sec = s.sec)
        ∧ (∀ k, cls = 2#8 → s.freeKey = some k → r.key = k ∧ (t.key k).st = .active ∧ (t.key k).fixed = true)
        ∧ (∀ j, j ≠ i → Tbl.look t.regions j = Tbl.look s.regions j)
        ∧ t = { s with free := t.free, regions := t.regions, sec := { s.sec with keys := t.sec.keys } })
      ∧ Runs (.createRegion h dpa len model cls slot place spillOk mask) s
        ([(s.pagesInChange (dpa.toNat / 2 ^ 28 * 65536) ((dpa.toNat / 2 ^ 28 + len.toNat) * 65536 - 1), 0x8003, 0, 0), (decide (1 < model.toNat), 2, 3, 0),
          (decide (3 < cls.toNat), 2, 4, 0), (decide (cls = 1#8 ∧ 4095 < slot.toNat), 2, 5, 0), (decide (2 < place.toNat), 2, 6, 0), (decide (1 < spillOk.toNat), 2, 7, 0)]
          ++ regionTests s dpa.toNat len.toNat cls.toNat slot.toNat mask)
        (fun p => t.committed p (leBytes 2 (s.freeRegion.getD 0)
          ++ leBytes 4 ((s.baseFor ((clsOfCode cls.toNat).getD .plain) len.toNat).getD 0))))
  ∧ (∀ (h : Hdr) (region : BitVec 16) (s : State), Tbl.look s.regions region.toNat = none → Runs (.deleteRegion h region) s [(true, 0x8002, 1, 0)] (fun _ => s))
  ∧ (∀ (h : Hdr) (region : BitVec 16) (s : State) (r : Region), Tbl.look s.regions region.toNat = some r → ∃ t : State,
      RegionGone s t region.toNat r
      ∧ Runs (.deleteRegion h region) s
        [(s.pagesInChange (r.base * 65536) ((r.base + r.len) * 65536 - 1), 0x8003, 0, 0),
          (r.lend || s.lds.any (fun d => d.2.exts.any (fun e => e.region == region.toNat)), 0x800E, 1, 0)] (fun p => t.committed p []))
  ∧ (∀ (h : Hdr) (region : BitVec 16) (s : State) (r : Region), Tbl.look s.regions region.toNat = some r →
      Runs (.getRegion h region) s [] (fun p => s.replied p 0 0 0
        (leBytes 8 (r.base * 2 ^ 28) ++ leBytes 4 r.len ++ leBytes 1 (if r.hdmDb then 1 else 0) ++ leBytes 1 (clsCode r.cls) ++ leBytes 2 r.key
          ++ leBytes 2 r.oldKey ++ leBytes 1 (if r.oldValid then 1 else 0) ++ leBytes 5 r.cursor ++ leBytes 3 r.sbase
          ++ leBytes 1 (if r.readonly then 1 else 0) ++ leBytes 1 (if r.lost then 1 else 0) ++ leBytes 1 r.place ++ leBytes 1 (if r.spillOk then 1 else 0)
          ++ leBytes 2 r.mask.toNat)))
  ∧ ∀ (h : Hdr) (region : BitVec 16) (s : State), Tbl.look s.regions region.toNat = none → Runs (.getRegion h region) s [(true, 0x8002, 1, 0)] (fun _ => s)

/-- The lend region (R337): CREATE_LEND_REGION makes one where none exists, with the checks of R351; DELETE_LEND_REGION removes it, as DELETE_REGION does, while no lease is granted. -/
def Sys2Proof.Machine.LendRegionCommandsTakeEffect : Prop :=
  (∀ (h : Hdr) (dpa : BitVec 64) (len : BitVec 32) (cls : BitVec 8) (slot : BitVec 16) (s : State), ∃ t : State,
      (∀ i, s.freeRegion = some i → cls.toNat < 2 → ∃ r : Region, Tbl.look t.regions i = some r ∧ r.lend = true ∧ r.hdmDb = false ∧ r.base = dpa.toNat / 2 ^ 28
        ∧ r.len = len.toNat ∧ some r.cls = clsOfCode cls.toNat ∧ r.place = 1 ∧ r.spillOk = false
        ∧ (∀ j, j ≠ i → Tbl.look t.regions j = Tbl.look s.regions j) ∧ t = { s with regs := t.regs, regions := t.regions })
      ∧ Runs (.createLendRegion h dpa len cls slot) s
        ([(s.pagesInChange (dpa.toNat / 2 ^ 28 * 65536) ((dpa.toNat / 2 ^ 28 + len.toNat) * 65536 - 1), 0x8003, 0, 0), (s.lendRegion.isSome, 0x8005, 0, 0),
          (decide (1 < cls.toNat), 2, 3, 0), (decide (cls = 1#8 ∧ 4095 < slot.toNat), 2, 4, 0)] ++ regionTests s dpa.toNat len.toNat cls.toNat slot.toNat 0)
        (fun p => t.committed p (leBytes 2 (s.freeRegion.getD 0))))
  ∧ (∀ (h : Hdr) (s : State), s.lendRegion = none → Runs (.deleteLendRegion h) s [(true, 0x8002, 0, 0)] (fun _ => s))
  ∧ ∀ (h : Hdr) (s : State) (i : Nat) (r : Region), s.lendRegion = some (i, r) → ∃ t : State, RegionGone s t i r
      ∧ Runs (.deleteLendRegion h) s [(s.pagesInChange (r.base * 65536) ((r.base + r.len) * 65536 - 1), 0x8003, 0, 0), (decide (s.lent ≠ []), 0x800E, 0, 0)] (fun p => t.committed p [])

/-- CREATE_REGION makes the six checks of R351 in their order, DETAIL giving the number of the check, and places the descriptor in the lowest free entry; a VITRINE region gets a newly drawn slot of its own.
DELETE_REGION removes a descriptor that nothing names, with its pages, its secure range and its binding (R352); GET_REGION reads one back (R179). The lend region (R337): CREATE_LEND_REGION makes one where none exists, with the checks of R351; DELETE_LEND_REGION removes it, as DELETE_REGION does, while no lease is granted. -/
def Obligations.RegionAndLendRegionCommands : Prop := RegionCommandsTakeEffect ∧ LendRegionCommandsTakeEffect
/-- The C4 commands (R158, R172, R177): CREATE_QUEUE takes the lowest free queue, empty; DELETE_QUEUE clears its registers, its posted descriptors staying to end as ABORTED; QUEUE_TAIL advances the tail,
taken modulo the ring's size; SET_PRESS writes PRS_CFG at the nearer end of its fields' ranges, and every engine that has already failed RETIRE_AT times is retired; GET_QUEUE and GET_PRESS read. A queue is its LD's own; the Fabric Manager may name any. -/
def Obligations.PressQueueCommandsTakeEffect : Prop :=
  (∀ (h : Hdr) (ring : BitVec 64) (log2 : BitVec 8) (s : State) (i q : Nat), (hdrOwn h).getD 64 = i → s.freeQueue = some q → ∃ t : State,
      (4 ≤ log2.toNat → log2.toNat ≤ 12 → i < 64 → t.flag (Reg.PRS_Q_CFG_EN q) = true ∧ t.rd (Reg.PRS_Q_CFG_LOG2_SIZE q) = log2.toNat ∧ t.rd (Reg.PRS_Q_CFG_LD_INDEX q) = i
        ∧ t.rd (Reg.PRS_Q_HEAD_HEAD q) = 0 ∧ t.rd (Reg.PRS_Q_TAIL_TAIL q) = 0 ∧ t.dword (0x401000 + 0x20 * q) = ring)
      ∧ (∀ off, off ∉ [0, 4, 8, 12, 16].map (fun k => 0x401000 + 0x20 * q + k) → t.word off = s.word off)
      ∧ t = { s with regs := t.regs, press := { s.press with lastHost := Tbl.del s.press.lastHost q, fenced := s.press.fenced.filter (· != q) } }
      ∧ Runs (.createQueue h ring log2) s
        [((s.ld? i).isNone, 0x8002, hdrAt h 0, 0), (decide (ring.toNat % 64 ≠ 0), 2, hdrAt h 1, 0),
          (decide (log2.toNat < 4 ∨ 12 < log2.toNat), 0x800F, hdrAt h 2, 0)] (fun p => t.committed p (leBytes 1 q)))
  ∧ (∀ (h : Hdr) (ring : BitVec 64) (log2 : BitVec 8) (s : State), s.freeQueue = none →
      Runs (.createQueue h ring log2) s
        [((s.ld? ((hdrOwn h).getD 64)).isNone, 0x8002, hdrAt h 0, 0), (decide (ring.toNat % 64 ≠ 0), 2, hdrAt h 1, 0),
          (decide (log2.toNat < 4 ∨ 12 < log2.toNat), 0x800F, hdrAt h 2, 0), (true, 0x8004, 0, 0)] (fun _ => s))
  ∧ (∀ (h : Hdr) (q : BitVec 8) (s : State), ∃ t : State,
      t.flag (Reg.PRS_Q_CFG_EN q.toNat) = false ∧ (∀ off, off ∉ [0, 4, 8, 12, 16].map (fun k => 0x401000 + 0x20 * q.toNat + k) → t.word off = s.word off)
      ∧ t = { s with regs := t.regs, press := { s.press with aborting := t.press.aborting } }
      ∧ (s.qPosted q.toNat = true → Tbl.look t.press.aborting q.toNat = 
        some (AbortRing.mk (s.qLd q.toNat) (64 * s.rd (Reg.PRS_Q_BASE_ADDR q.toNat)) (s.rd (Reg.PRS_Q_HEAD_HEAD q.toNat)) (s.rd (Reg.PRS_Q_TAIL_TAIL q.toNat) % s.qSize q.toNat)
          (s.rd (Reg.PRS_Q_CFG_LOG2_SIZE q.toNat))))
      ∧ Runs (.deleteQueue h q) s [(!s.ownsQueue h q.toNat, 0x8002, 1, 0)] (fun p => t.committed p []))
  ∧ (∀ (h : Hdr) (q : BitVec 8) (tail : BitVec 16) (s : State), ∃ t : State,
      (s.flag (Reg.PRS_Q_CFG_EN q.toNat) = true → s.rd (Reg.PRS_Q_CFG_LOG2_SIZE q.toNat) ≤ 12 →
        t.rd (Reg.PRS_Q_TAIL_TAIL q.toNat) = tail.toNat % 2 ^ s.rd (Reg.PRS_Q_CFG_LOG2_SIZE q.toNat))
      ∧ OnlyWords s t [0x40100C + 0x20 * q.toNat]
      ∧ Runs (.queueTail h q tail) s [(!s.ownsQueue h q.toNat, 0x8002, 1, 0)] (fun p => t.committed p []))
  ∧ (∀ (h : Hdr) (q : BitVec 8) (s : State), Runs (.getQueue h q) s [(!s.ownsQueue h q.toNat, 0x8002, 1, 0)] (fun p => s.replied p 0 0 0
      (leBytes 1 (s.rd (Reg.PRS_Q_CFG_EN q.toNat)) ++ leBytes 1 (s.rd (Reg.PRS_Q_CFG_LOG2_SIZE q.toNat)) ++ leBytes 2 (s.rd (Reg.PRS_Q_HEAD_HEAD q.toNat))
        ++ leBytes 2 (s.rd (Reg.PRS_Q_TAIL_TAIL q.toNat)))))
  ∧ (∀ (h : Hdr) (offload retireAt : BitVec 8) (s : State), ∃ t : State,
      (∀ off, off ∉ [0x400000, 0x400008, 0x40000C] → (off < 0x2300000 ∨ 0x2400000 ≤ off) → t.word off = s.word off)
      ∧ (∀ e, e < 64 → t.bit Reg.PRS_RETIRED_ENGINE e = (s.bit Reg.PRS_RETIRED_ENGINE e || decide (max 1 (min 15 retireAt.toNat) ≤ Tbl.lookD s.press.fails 0 e)))
      ∧ t = { s with regs := t.regs, mgmt := t.mgmt, lds := t.lds, out := t.out } ∧ t.rd Reg.PRS_CFG_OFFLOAD_EN = min 1 offload.toNat
      ∧ t.rd Reg.PRS_CFG_RETIRE_AT = max 1 (min 15 retireAt.toNat)
      ∧ Runs (.setPress h offload retireAt) s [(decide (1 < offload.toNat), 2, 1, 0)] (fun p => t.committed p []))
  ∧ ∀ (h : Hdr) (s : State), Runs (.getPress h) s [] (fun p => s.advanceFree.replied p 0 0 0
      (leBytes 8 (s.rd Reg.PRS_RETIRED_ENGINE) ++ leBytes 2 (s.rd Reg.PRS_VERIFY_FAILS_COUNT) ++ leBytes 2 (s.rd Reg.PRS_FAULTS_COUNT)
        ++ leBytes 1 (s.rd Reg.PRS_FAULTS_LAST_FAULT) ++ s.word8 0x400018))

/-- The C5 commands on passes (R256, R258): SCRUB_RANGE starts a pass in the background, which has nothing to visit when its range lies outside the space or has no length;
CANCEL_SCRUB has the source's pass end after its current page; SET_PATROL writes the period. -/
def Sys2Proof.Machine.ScrubCommandsTakeEffect : Prop :=
  (∀ (h : Hdr) (space : BitVec 8) (dpa len : BitVec 64) (s : State) (n : Nat), s.freePass = some n →
      Runs (.scrubRange h space dpa len) s
        [s.occupied h, (decide (1 < space.toNat), 2, hdrAt h 1, 0), (!s.spaceOk h space.toNat, 0x8001, hdrAt h 1, 0),
          (space == 0#8 && ((hdrOwn h).bind s.ld?).isNone, 0x8002, hdrAt h 0, 0), (decide (dpa.toNat % 4096 ≠ 0), 2, hdrAt h 2, 0)]
        (fun p => (s.withPass (freshPass n h.src (if space.toNat = 1 then none else hdrOwn h) dpa.toNat len.toNat s.tick
          (s.outside h space.toNat dpa.toNat len.toNat))).begun p (.scrub n)))
  ∧ (∀ (h : Hdr) (space : BitVec 8) (dpa len : BitVec 64) (s : State), s.freePass = none →
      Runs (.scrubRange h space dpa len) s
        [s.occupied h, (decide (1 < space.toNat), 2, hdrAt h 1, 0), (!s.spaceOk h space.toNat, 0x8001, hdrAt h 1, 0),
          (space == 0#8 && ((hdrOwn h).bind s.ld?).isNone, 0x8002, hdrAt h 0, 0), (decide (dpa.toNat % 4096 ≠ 0), 2, hdrAt h 2, 0), (true, 0x8004, 0, 0)]
        (fun _ => s))
  ∧ (∀ (h : Hdr) (s : State) (b : Bg) (n : Nat) (x : RangePass), s.bgOf h.src = some b → b.why = .scrub n → s.pass? n = some x →
      Runs (.cancelScrub h) s [] (fun p => (if x.done then s else s.updPass n (fun y => { y with stop := true, status := 1 })).committed p []))
  ∧ (∀ (h : Hdr) (s : State), (∀ b, s.bgOf h.src = some b → ∀ n, b.why ≠ .scrub n) → Runs (.cancelScrub h) s [(true, 0x8005, 0, 0)] (fun _ => s))
  ∧ ∀ (h : Hdr) (periodH : BitVec 8) (s : State), ∃ t : State, OnlyWords s t [0x109000] ∧ t.rd Reg.TRL_RAKE_CFG_PERIOD_H = periodH.toNat
      ∧ Runs (.setPatrol h periodH) s [] (fun p => t.committed p [])

/-- The C5 commands on repairs and error records (R249, R252, R255): REQUEST_PPR places a repair in the channel's lowest free entry; GET_ERRORS reads; READ_CE_LOG reads the log, and then FREEZE is clear and every
entry counts as read. It is recorded, because it changes state (R345). -/
def Sys2Proof.Machine.RepairAndErrorCommandsTakeEffect : Prop :=
  (∀ (h : Hdr) (ch lr sub bg ba : BitVec 8) (row : BitVec 32) (dev : BitVec 8) (s : State) (j : Nat), s.freePpr ch.toNat = some j → ∃ t : State,
      (ch.toNat ≤ 15 → lr.toNat ≤ 15 → sub.toNat ≤ 1 → bg.toNat ≤ 7 → ba.toNat ≤ 3 → row.toNat ≤ 0x1FFFF → dev.toNat ≤ 9 →
        t.flag (Reg.DMC_PPR_VALID ch.toNat j) = true ∧ t.rd (Reg.DMC_PPR_LR ch.toNat j) = lr.toNat ∧ t.rd (Reg.DMC_PPR_SUBCH ch.toNat j) = sub.toNat
        ∧ t.rd (Reg.DMC_PPR_BG ch.toNat j) = bg.toNat ∧ t.rd (Reg.DMC_PPR_BA ch.toNat j) = ba.toNat ∧ t.rd (Reg.DMC_PPR_ROW ch.toNat j) = row.toNat
        ∧ t.rd (Reg.DMC_PPR_DEVICE ch.toNat j) = dev.toNat ∧ t.rd (Reg.DMC_PPR_RESULT ch.toNat j) = 0 ∧ t = { s with regs := t.regs })
      ∧ Runs (.requestPpr h ch lr sub bg ba row dev) s
        [(decide (15 < ch.toNat), 2, 1, 0), (decide (15 < lr.toNat), 2, 2, 0), (decide (1 < sub.toNat), 2, 3, 0), (decide (7 < bg.toNat), 2, 4, 0),
          (decide (3 < ba.toNat), 2, 5, 0), (decide (0x1FFFF < row.toNat), 2, 6, 0), (decide (9 < dev.toNat), 2, 7, 0)] (fun p => t.committed p (leBytes 1 j)))
  ∧ (∀ (h : Hdr) (ch lr sub bg ba : BitVec 8) (row : BitVec 32) (dev : BitVec 8) (s : State), s.freePpr ch.toNat = none →
      Runs (.requestPpr h ch lr sub bg ba row dev) s
        [(decide (15 < ch.toNat), 2, 1, 0), (decide (15 < lr.toNat), 2, 2, 0), (decide (1 < sub.toNat), 2, 3, 0), (decide (7 < bg.toNat), 2, 4, 0),
          (decide (3 < ba.toNat), 2, 5, 0), (decide (0x1FFFF < row.toNat), 2, 6, 0), (decide (9 < dev.toNat), 2, 7, 0), (true, 0x8004, 1, 0)] (fun _ => s))
  ∧ (∀ (h : Hdr) (ch : BitVec 8) (s : State), Runs (.getErrors h ch) s [(decide (15 < ch.toNat), 2, 1, 0)] (fun p => s.advanceFree.replied p 0 0 0 (s.errorsBody ch.toNat)))
  ∧ ∀ (h : Hdr) (ch : BitVec 8) (s : State), ∃ t : State, (t.ch ch.toNat).unread = [] ∧ t.flag (Reg.DMC_CE_LOG_CTL_FREEZE ch.toNat) = false
      ∧ (∀ c, c ≠ ch.toNat → t.ch c = s.ch c) ∧ t.media = s.media
      ∧ Runs (.readCeLog h ch) s [(decide (15 < ch.toNat), 2, 1, 0)] (fun p => t.committed p (s.ceLogBody ch.toNat))

/-- The C5 commands on passes (R256, R258): SCRUB_RANGE starts a pass in the background, which has nothing to visit when its range lies outside the space or has no length;
CANCEL_SCRUB has the source's pass end after its current page; SET_PATROL writes the period. The C5 commands on repairs and error records (R249, R252, R255): REQUEST_PPR places a repair in the channel's lowest free entry; GET_ERRORS reads; READ_CE_LOG reads the log, and then FREEZE is clear and every
entry counts as read. It is recorded, because it changes state (R345). -/
def Obligations.ReliabilityCommandsTakeEffect : Prop := ScrubCommandsTakeEffect ∧ RepairAndErrorCommandsTakeEffect
/-- The C6 commands (R320, R338, R339): SET_GRAFT writes GFT_CFG and GFT_LEASE_CFG at the nearer end of their fields' ranges; RECALL_LEASE marks a granted lease as recalled; SET_PORT_WIDTH replies at once when the port has that
width, and otherwise waits for the change of width, later commands waiting behind it (R346); GET_GRAFT reads. That the reply waits, and that it comes at once when nothing changes, is DEDUCED (log entry 44). -/
def Obligations.GraftCommandsTakeEffect : Prop :=
  (∀ (h : Hdr) (lending portEn limit : BitVec 8) (gib : BitVec 16) (term : BitVec 8) (recallS : BitVec 16) (borrow : BitVec 8) (s : State), ∃ t : State,
      ((∀ g, g < 2 → s.bit Reg.GFT_CFG_PORT_EN g = true → (min 3 portEn.toNat).testBit g = true) →
        OnlyWords s t [0x2000000, 0x2000008] ∧ t.rd Reg.GFT_CFG_LENDING_EN = min 1 lending.toNat ∧ t.rd Reg.GFT_CFG_PORT_EN = min 3 portEn.toNat
        ∧ t.rd Reg.GFT_CFG_REPLAY_LIMIT = min 7 limit.toNat ∧ t.rd Reg.GFT_LEASE_CFG_REQ_GIB = max 1 (min 256 gib.toNat)
        ∧ t.rd Reg.GFT_LEASE_CFG_TERM_S = max 1 (min 127 term.toNat) ∧ t.rd Reg.GFT_LEASE_CFG_RECALL_S = max 1 (min 600 recallS.toNat)
        ∧ t.rd Reg.GFT_LEASE_CFG_BORROW_EN = min 1 borrow.toNat)
      ∧ Runs (.setGraft h lending portEn limit gib term recallS borrow) s [(decide (1 < lending.toNat), 2, 1, 0), (decide (1 < borrow.toNat), 2, 7, 0)]
        (fun p => t.committed p []))
  ∧ (∀ (h : Hdr) (lent : BitVec 8) (s : State), ∃ t : State,
      (lent.toNat < 64 → ∀ x, Tbl.look s.lent lent.toNat = some x → t.flag (Reg.GFT_LENT_RECALLING lent.toNat) = true
        ∧ Tbl.look t.lent lent.toNat = some { x with recallAt := s.tick, period := s.rd Reg.GFT_LEASE_CFG_RECALL_S }
        ∧ (∀ n, n ≠ lent.toNat → Tbl.look t.lent n = Tbl.look s.lent n) ∧ t.media = s.media ∧ t.regions = s.regions)
      ∧ Runs (.recallLease h lent) s
        [(decide (63 < lent.toNat), 2, 1, 0), (!s.flag (Reg.GFT_LENT_VALID lent.toNat), 0x8002, 1, 0),
          (s.flag (Reg.GFT_LENT_RECALLING lent.toNat), 0x8005, 1, 0)] (fun p => t.committed p []))
  ∧ (∀ (h : Hdr) (port width : BitVec 8) (s : State),
      Runs (.setPortWidth h port width) s [(decide (1 < port.toNat), 2, 1, 0), (decide (3 < width.toNat), 2, 2, 0), (!s.portUp port.toNat, 0x8010, 1, 0)]
        (fun p => if s.rd (Reg.GFT_PORT_STATUS_WIDTH port.toNat) = width.toNat ∧ (s.gp port.toNat).wantWidth = none then s.committed p []
          else s.updGp port.toNat (fun g => { g with wantWidth := some width.toNat, cmdWidth := g.cmdWidth ++ [{ src := h.src, reqId := h.reqId, width := width.toNat }] })))
  ∧ ∀ (h : Hdr) (s : State), Runs (.getGraft h) s [] (fun p => s.advanceFree.replied p 0 0 0
      ([0x2000100, 0x2000110, 0x2000104, 0x2000114, 0x2000108, 0x2000118, 0x200000C].flatMap s.word4
        ++ (List.range 64).flatMap (fun n => s.word8 (0x2001000 + 0x10 * n)) ++ (List.range 64).flatMap (fun n => s.word4 (0x2001008 + 0x10 * n))
        ++ (List.range 64).flatMap (fun n => s.word8 (0x2002000 + 0x8 * n))))

/-- The C7 commands (R303, R304, R315, R316, R344): each forwards its register images to the Gatehouse and changes nothing else; SET_GTH_CONFIG checks every window before anything is forwarded; GET_POWER reads the mirror. -/
def Obligations.SupplyCommandsTakeEffect : Prop :=
  (∀ (h : Hdr) (s : State), Runs (.getPower h) s [] (fun p => s.advanceFree.replied p 0 0 0
      (s.word4 0x2100040 ++ s.word4 0x2100044 ++ s.word4 0x2100048 ++ s.word8 0x2100050 ++ s.word4 0x210001C
        ++ (s.word4 0x2100060 ++ s.word4 0x2100064 ++ s.word4 0x2100068 ++ s.word8 0x2100070 ++ s.word4 0x210002C) ++ s.word4 0x210000C ++ s.word4 0x2100104)))
  ∧ (∀ (h : Hdr) (feed : BitVec 8) (s : State), Runs (.clearFeed h feed) s [(decide (1 < feed.toNat), 2, 1, 0), gthAway s]
      (fun p => (s.withWrites [(0x2100000, setBits (s.gthLatest 0x2100000) (4 + feed.toNat) 1 1)]).committed p []))
  ∧ (∀ (h : Hdr) (a b : BitVec 8) (confirm : BitVec 16) (s : State), Runs (.setFeedEnable h a b confirm) s
      [(decide (1 < a.toNat), 2, 1, 0), (decide (1 < b.toNat), 2, 2, 0), (confirm != 0xC702#16, 2, 3, 0), gthAway s]
      (fun p => (s.withWrites [(0x2100000, setBits (setBits (s.gthLatest 0x2100000) 0 1 a.toNat) 1 1 b.toNat)]).committed p []))
  ∧ (∀ (h : Hdr) (pri auto : BitVec 8) (timing outCfg aCfg aBreaker aShunt bCfg bBreaker bShunt : Word) (s : State),
      Runs (.setGthConfig h pri auto timing outCfg aCfg aBreaker aShunt bCfg bBreaker bShunt) s
        [(decide (1 < pri.toNat), 2, 1, 0), (decide (1 < auto.toNat), 2, 2, 0), gthAway s, (s.flag Reg.GTH_CTL_LOCK, 0x8007, 0, 0),
          ((supplyImages timing outCfg aCfg aBreaker aShunt bCfg bBreaker bShunt).any narrow, 0x800F,
            3 + (supplyImages timing outCfg aCfg aBreaker aShunt bCfg bBreaker bShunt).findIdx narrow, 0)]
        (fun p => (s.withWrites ((0x2100000, setBits (setBits (s.gthLatest 0x2100000) 2 1 pri.toNat) 3 1 auto.toNat)
          :: supplyImages timing outCfg aCfg aBreaker aShunt bCfg bBreaker bShunt)).committed p []))
  ∧ (∀ (h : Hdr) (feed : BitVec 8) (s : State), Runs (.clearEnergy h feed) s [(decide (1 < feed.toNat), 2, 1, 0), gthAway s]
      (fun p => (s.withWrites [(0x2100000, setBits (s.gthLatest 0x2100000) (6 + feed.toNat) 1 1)]).committed p []))
  ∧ ∀ (h : Hdr) (v : Word) (s : State), Runs (.setVrefValue h v) s [gthAway s, (s.flag Reg.GTH_VREF_VALUE_LOCK, 0x8007, 0, 0)]
      (fun p => (s.withWrites [(0x2100100, BitVec.ofNat 32 (max 2450000 (min 2550000 v.toNat)))]).committed p [])

/-- The C8 commands (R362, R363, R366, R367, R369, R370): SET_COUNTER selects an event, the counter and its overflow bit becoming 0, and counts from the next tick on; SET_SAMPLING writes CAT_SAMP_CTL and CAT_SAMP_HEADS and restarts the count;
SET_USER_ACCESS writes one LD's bit; READ_GROUP and READ_SAMPLES read. -/
def Obligations.TelemetryCommandsTakeEffect : Prop :=
  (∀ (h : Hdr) (group counter : BitVec 8) (event : BitVec 16) (s : State), ∃ t : State,
      (group.toNat < 16 → counter.toNat < 8 → eventLegal event.toNat = true → t.evsel group.toNat counter.toNat = event.toNat
        ∧ t.rd (Reg.CAT_GRP_CNT_COUNT group.toNat counter.toNat) = 0 ∧ t.bit (Reg.CAT_GRP_CTL_OVF group.toNat) counter.toNat = false
        ∧ (∀ k, k < 8 → k ≠ counter.toNat → t.evsel group.toNat k = s.evsel group.toNat k
            ∧ t.rd (Reg.CAT_GRP_CNT_COUNT group.toNat k) = s.rd (Reg.CAT_GRP_CNT_COUNT group.toNat k)))
      ∧ (eventLegal event.toNat = true → Tbl.look t.cat.holds (8 * group.toNat + counter.toNat) = some (s.tick + 1))
      ∧ t = { s with regs := t.regs, cat := { s.cat with holds := t.cat.holds } }
      ∧ Runs (.setCounter h group counter event) s
        [(decide (15 < group.toNat), 2, 1, 0), (decide (7 < counter.toNat), 2, 2, 0), (!eventLegal event.toNat, 2, 3, 0)] (fun p => t.committed p []))
  ∧ (∀ (h : Hdr) (group : BitVec 8) (s : State), Runs (.readGroup h group) s [(decide (15 < group.toNat), 2, 1, 0)] (fun p => s.replied p 0 0 0
      (leBytes 8 (s.rd (Reg.CAT_GRP_TICKS_TICKS group.toNat)) ++ (List.range 8).flatMap (fun k => leBytes 8 (s.rd (Reg.CAT_GRP_CNT_COUNT group.toNat k))))))
  ∧ (∀ (h : Hdr) (enable : BitVec 8) (mask : BitVec 16) (cls : BitVec 8) (period : BitVec 16) (s : State), ∃ t : State,
      (enable.toNat ≤ 1 → (cls.toNat < 64 ∨ cls.toNat = 255) → t.rd Reg.CAT_SAMP_CTL_ENABLE = enable.toNat ∧ t.rd Reg.CAT_SAMP_CTL_CLASS = cls.toNat
        ∧ t.rd Reg.CAT_SAMP_CTL_PERIOD = max 1 period.toNat ∧ t.rd Reg.CAT_SAMP_HEADS_HEAD_MASK = mask.toNat ∧ t.cat.matched = 0)
      ∧ OnlyWords { s with cat := { s.cat with matched := 0 } } t [0x2202000, 0x2202004]
      ∧ Runs (.setSampling h enable mask cls period) s
        [(decide (1 < enable.toNat), 2, 1, 0), (decide (64 ≤ cls.toNat ∧ cls.toNat < 255), 2, 3, 0)] (fun p => t.committed p []))
  ∧ (∀ (h : Hdr) (start count : BitVec 16) (s : State), Runs (.readSamples h start count) s
      [(decide (4095 < start.toNat), 2, 1, 0), (decide (count.toNat = 0 ∨ 127 < count.toNat), 0x800F, 2, 0)] (fun p => s.replied p 0 0 0
        ((List.range count.toNat).flatMap (fun j => (List.range 8).flatMap (fun k =>
          leBytes 4 (s.word (0x2210000 + 0x20 * ((start.toNat + j) % 4096) + 4 * k)).toNat)))))
  ∧ ∀ (h : Hdr) (enable : BitVec 8) (s : State) (i : Nat), (hdrOwn h).getD 64 = i → ∃ t : State,
      (i < 64 → ∀ j, j < 64 → t.bit Reg.CAT_USER_EN_USER j = if j = i then enable == 1#8 else s.bit Reg.CAT_USER_EN_USER j)
      ∧ OnlyWords s t [0x2204000, 0x2204004]
      ∧ Runs (.setUserAccess h enable) s [((s.ld? i).isNone, 0x8002, hdrAt h 0, 0), (decide (1 < enable.toNat), 2, hdrAt h 1, 0)] (fun p => t.committed p [])

/-- The C9 commands on images (R353 to R355): FW_TRANSFER writes the slot that is not running, OFFSET 0 first erasing it, and no byte of the other slot or of the boot records changes; FW_COMMIT runs in the background;
GET_FW_INFO and GET_BOOT_LOG read. That an erased byte reads FFh is PRESUMED (log entry 45). -/
def Obligations.ImageCommandsTakeEffect : Prop :=
  (∀ (h : Hdr) (s : State), Runs (.getFwInfo h) s [] (fun p => s.replied p 0 0 0
      (leBytes 1 (s.rd Reg.BOOT_STATUS_SLOT) ++ s.slotInfo 0 ++ s.slotInfo 1 ++ leBytes 1 (setField s.boot.settings 0x0E 1) ++ [s.otpAt 320 &&& 0xF#8])))
  ∧ (∀ (h : Hdr) (off : BitVec 32) (len : BitVec 16) (data : List Byte) (s : State), ∃ t : State,
      (s.rd Reg.BOOT_STATUS_SLOT ≤ 1 → data.length = len.toNat → off.toNat + len.toNat ≤ 0x1000000 →
        (∀ k, k < data.length → t.flashAt (slotBase s.idleSlot + off.toNat + k) = data.getD k 0)
        ∧ (∀ k, k < 0x1000000 → (k < off.toNat ∨ off.toNat + data.length ≤ k) →
            t.flashAt (slotBase s.idleSlot + k) = if off = 0#32 then 0xFF#8 else s.flashAt (slotBase s.idleSlot + k))
        ∧ (∀ a, slotOf a ≠ s.idleSlot → t.flashAt a = s.flashAt a))
      ∧ t = { s with mgmt := { s.mgmt with flash := t.mgmt.flash, erased := t.mgmt.erased } }
      ∧ Runs (.fwTransfer h off len data) s
        [(s.fwInChange, 0x8003, 0, 0), (data.length != len.toNat, 0x16, 3, 0), (decide (len.toNat % 4 ≠ 0), 2, 2, 0),
          (decide (len.toNat < 4 ∨ 4080 < len.toNat), 0x800F, 2, 0), (decide (0x1000000 < off.toNat + len.toNat), 0x800F, 1, 0)] (fun p => t.committed p []))
  ∧ (∀ (h : Hdr) (s : State), Runs (.fwCommit h) s [s.occupied h] (fun p => s.begun p .fwCommit))
  ∧ ∀ (h : Hdr) (s : State), Runs (.getBootLog h) s [] (fun p => (s.skipFree 17).replied p 0 0 0
      (s.word4 0x2400004 ++ ((List.range (16 - s.boot.bootLog.length)).map (fun j => s.freeAt (1 + j)) ++ s.boot.bootLog).flatMap (fun x => leBytes 8 x.toNat)))

/-- READ_REG and WRITE_REG act as the BAR2 access of an LD with MANAGE (R7, R10), and INJECT_ERROR takes a line of a HOT page once the settings allow it, KIND 3 storing poison. -/
def Obligations.RegisterAndInjectionCommands : Prop :=
  (∀ (h : Hdr) (off : BitVec 32) (s : State), Runs (.readReg h off) s []
      (fun p => (s.read32 .full off.toNat).1.replied p 0 0 0 (leBytes 4 (s.read32 .full off.toNat).2.toNat)))
  ∧ (∀ (h : Hdr) (off v : BitVec 32) (s : State), Runs (.writeReg h off v) s [] (fun p => (s.write32 .full none off.toNat v).committed p []))
  ∧ (∀ (h : Hdr) (kind : BitVec 8) (dpa : BitVec 64) (s : State) (c f : Nat) (n : Option Nat), (s.acc (dpa.toNat / 4096)).form = .hot c f n →
      Runs (.injectError h kind dpa) s
        [(!(setField s.boot.settings 9 1).testBit 1, 0x8013, 0, 0), (decide (kind.toNat < 1 ∨ 3 < kind.toNat), 2, 1, 0),
          (decide (s.boot.h * 2 ^ 28 ≤ dpa.toNat), 2, 2, 0)]
        (fun p => (if kind = 3#8 then s.poisonLine (dpa.toNat / 64) else s.updCh c (fun d =>
          { d with inject := d.inject ++ [⟨f * 64 + dpa.toNat / 64 % 64, kind.toNat, kind.toNat, dpa.toNat / 4096⟩] })).committed p []))
  ∧ ∀ (h : Hdr) (kind : BitVec 8) (dpa : BitVec 64) (s : State), (∀ c f n, (s.acc (dpa.toNat / 4096)).form ≠ .hot c f n) →
      Runs (.injectError h kind dpa) s
        [(!(setField s.boot.settings 9 1).testBit 1, 0x8013, 0, 0), (decide (kind.toNat < 1 ∨ 3 < kind.toNat), 2, 1, 0),
          (decide (s.boot.h * 2 ^ 28 ≤ dpa.toNat), 2, 2, 0), (true, 0x8005, 2, 0)] (fun _ => s)

/-- The standard event commands (R376, R380): each acts on the log of the LD that its source is or that the Fabric Manager names; on the sideband with no LD, Get Event Records reads the device log (log entry 46). -/
def Obligations.EventLogCommandsTakeEffect : Prop :=
  (∀ (h : Hdr) (log : BitVec 8) (s : State), (hdrIsFm h = false ∨ h.ldIx.isSome = true) → RunsOnLd (.getEventRecords h log) h s [(decide (4 < log.toNat), 0x17, 0, 0)] (fun _ _ => [])
      (fun _ d p => (s.skipFree 2).replied p 0 0 0 (s.recordsBody log.toNat (Tbl.lookD d.logOvf 0 log.toNat) (Tbl.lookD d.logs [] log.toNat))))
  ∧ (∀ (h : Hdr) (log : BitVec 8) (s : State), hdrIsFm h = true → h.ldIx = none →
      Runs (.getEventRecords h log) s [(decide (4 < log.toNat), 0x17, 0, 0)] (fun p => s.replied p 0 0 0 (s.recordsBody log.toNat 0 (s.deviceRecords log.toNat))))
  ∧ (∀ (h : Hdr) (log : BitVec 8) (all : Bool) (hs : List (BitVec 16)) (s : State), RunsOnLd (.clearEventRecords h log all hs) h s
      [(decide (4 < log.toNat), 0x17, 0, 0)]
      (fun _ d => [(!all && hs.any (fun x => !(Tbl.lookD d.logs [] log.toNat).any (fun r => r.handle == x.toNat)), 0xE, 0, 0)])
      (fun i _ p => (s.updLd i (fun d =>
        let rest := if all then [] else (Tbl.lookD d.logs [] log.toNat).filter (fun r => !(hs.map (fun x => x.toNat)).contains r.handle)
        { d with logs := Tbl.putD d.logs [] log.toNat rest, logOvf := if rest = [] then Tbl.putD d.logOvf 0 log.toNat 0 else d.logOvf })).replied p 0 0 0 []))
  ∧ (∀ (h : Hdr) (s : State), RunsOnLd (.getEventInterruptPolicy h) h s [] (fun _ _ => [])
      (fun _ d p => s.replied p 0 0 0 ((List.range 5).flatMap (fun k => leBytes 1 (Tbl.lookD d.policy 0 k + 16 * (k + 1))))))
  ∧ ∀ (h : Hdr) (modes : List (BitVec 8)) (s : State), RunsOnLd (.setEventInterruptPolicy h modes) h s
      [(decide (modes.length < 4 ∨ 5 < modes.length), 0x16, 0, 0),
        (modes.zipIdx.any (fun e => decide (1 < e.1.toNat % 16 ∨ e.1.toNat / 16 ≠ e.2 + 1)), 2, 0, 0)] (fun _ _ => [])
      (fun i _ p => (s.updLd i (fun d => { d with policy := newPolicy d.policy modes })).replied p 0 0 0 [])

/-- The standard firmware, timestamp, log, Identify and Sanitize commands (R343, R355, R350): TRANSFER_FW and ACTIVATE_FW act as FW_TRANSFER and FW_COMMIT; SANITIZE and SECURE_ERASE walk the extents that the LD alone maps.
Layouts and numbers of the standard are PRESUMED (log entry 9). -/
def Obligations.StandardCommandsTakeEffect : Prop :=
  (∀ (h : Hdr) (s : State), Runs (.cxlGetFwInfo h) s [] (fun p => (s.skipFree 8).replied p 0 0 0
      (leBytes 1 2 ++ leBytes 1 (s.rd Reg.BOOT_STATUS_SLOT + 1) ++ leBytes 14 0 ++ (List.range 8).flatMap (fun k => leBytes 8 (s.freeAt k).toNat))))
  ∧ (∀ (h : Hdr) (off : BitVec 32) (data : List Byte) (s : State), Runs (.transferFw h off data) s
      [(s.fwInChange, 0x8003, 0, 0), (decide (data.length % 4 ≠ 0), 2, 0, 0),
        (decide (data.length < 4 ∨ 4080 < data.length ∨ 0x1000000 < off.toNat + data.length), 0x800F, 0, 0)]
      (fun p => (s.transfer off.toNat data).replied p 0 0 0 []))
  ∧ (∀ (h : Hdr) (online : Bool) (s : State), Runs (.activateFw h online) s [s.occupied h, (online, 2, 0, 0)] (fun p => s.begun p .fwCommit))
  ∧ (∀ (h : Hdr) (s : State), RunsOnLd (.getTimestamp h) h s [] (fun _ _ => []) (fun _ d p => s.replied p 0 0 0
      (leBytes 8 (if d.timestamp = 0 then 0 else d.timestamp + (s.tick - d.tsAt) * 80 / s.rootN))))
  ∧ (∀ (h : Hdr) (ns : BitVec 64) (s : State), RunsOnLd (.setTimestamp h ns) h s [] (fun _ _ => [])
      (fun i _ p => (s.updLd i (fun d => { d with timestamp := ns.toNat, tsAt := s.tick })).replied p 0 0 0 []))
  ∧ (∀ (h : Hdr) (s : State), Runs (.getSupportedLogs h) s [] (fun p => s.replied p 0 0 0 (leBytes 2 1 ++ leBytes 6 0 ++ celUuid ++ leBytes 4 (4 * ycsOpcodes.length))))
  ∧ (∀ (h : Hdr) (cel : Bool) (off len : BitVec 32) (s : State), Runs (.getLog h cel off len) s
      [(!cel, 0x17, 0, 0), (decide (4 * ycsOpcodes.length < off.toNat + len.toNat), 2, 0, 0)]
      (fun p => s.replied p 0 0 0 ((celBytes.drop off.toNat).take len.toNat)))
  ∧ (∀ (h : Hdr) (s : State), RunsOnLd (.identifyMemoryDevice h) h s [] (fun _ _ => []) (fun _ d p => (s.skipFree 5).replied p 0 0 0
      (leBytes 8 (s.freeAt 0).toNat ++ leBytes 8 (s.freeAt 1).toNat ++ leBytes 8 (d.staticCap / 2 ^ 28) ++ leBytes 8 (d.staticCap / 2 ^ 28) ++ leBytes 8 0
        ++ leBytes 8 (s.freeAt 2).toNat ++ (List.range 4).flatMap (fun _ => leBytes 2 64) ++ leBytes 8 (s.freeAt 3).toNat ++ leBytes 3 (s.freeAt 4).toNat ++ leBytes 2 64)))
  ∧ (∀ (h : Hdr) (s : State), RunsOnLd (.sanitize h) h s [s.occupied h] (fun _ _ => [])
      (fun i _ p => (s.startSanitize (s.aloneRanges i)).begun p (.sanitize (s.aloneRanges i))))
  ∧ ∀ (h : Hdr) (s : State), RunsOnLd (.secureErase h) h s [s.occupied h] (fun _ _ => [])
      (fun i _ p => (s.startSanitize (s.aloneRanges i)).begun p (.sanitize (s.aloneRanges i)))

/-- The Dynamic Capacity commands of an LD (R55, R56, R57, R96): the configuration and the extent list are read; an accepted part of the oldest offer enters the LD's map, in force at the port; released units leave it, their release starting,
and a range that the LD does not hold is refused as an Invalid Extent List. -/
def Obligations.DynamicCapacityCommandsTakeEffect : Prop :=
  (∀ (h : Hdr) (s : State), RunsOnLd (.getDynamicCapacityConfiguration h) h s [] (fun _ _ => []) (fun _ d p => s.advanceFree.replied p 0 0 0
      (leBytes 1 8 ++ leBytes 1 8 ++ leBytes 6 0 ++ (List.range 8).flatMap (dcRegionBody d) ++ leBytes 4 256 ++ leBytes 4 (256 - d.exts.length)
        ++ leBytes 8 s.freeNow.toNat)))
  ∧ (∀ (h : Hdr) (s : State), RunsOnLd (.getDynamicCapacityExtentList h) h s [] (fun _ _ => []) (fun _ d p => s.advanceFree.replied p 0 0 0
      (leBytes 4 (dcExtents d).length ++ leBytes 4 (dcExtents d).length ++ leBytes 4 s.freeNow.toNat ++ leBytes 4 0 ++ (dcExtents d).flatMap extentImage)))
  ∧ (∀ (h : Hdr) (rs : List (BitVec 64 × BitVec 64)) (s : State) (i : Nat) (d : Ld) (o : DcOffer) (rest : List DcOffer),
      hdrOwn h = some i → s.ld? i = some d → d.offers = o :: rest →
      Runs (.addDynamicCapacityResponse h rs) s
        [(!rs.all wholeUnits || decide (((rs.map inUnits).filterMap (s.acceptOne o)).length ≠ rs.length) || overlaps (rs.map inUnits)
            || ((rs.map inUnits).filterMap (s.acceptOne o)).any (fun e => (s.regionOver e.unit e.len).isNone), 0x1E, 0, 0),
          (((rs.map inUnits).filterMap (s.acceptOne o)).any (fun e => s.mapsTwice i e.unit e.len)
            || s.tagDiffers i o.tag (((rs.map inUnits).filterMap (s.acceptOne o)).map (fun e => (e.unit, e.len))) false, 2, 0, 0),
          (decide (256 < d.exts.length + ((rs.map inUnits).filterMap (s.acceptOne o)).length), 0x1D, 0, 0)]
        (fun p => (s.updLd i (fun x => { x with offers := rest, exts := x.exts ++ (rs.map inUnits).filterMap (s.acceptOne o) })).replied p 0 0 0 []))
  ∧ (∀ (h : Hdr) (rs : List (BitVec 64 × BitVec 64)) (s : State) (i : Nat) (d : Ld), hdrOwn h = some i → s.ld? i = some d → d.offers = [] →
      Runs (.addDynamicCapacityResponse h rs) s [(true, 0x1E, 0, 0)] (fun _ => s))
  ∧ ∀ (h : Hdr) (rs : List (BitVec 64 × BitVec 64)) (s : State), RunsOnLd (.releaseDynamicCapacity h rs) h s []
      (fun _ d => [(!rs.all wholeUnits || overlaps (rs.map inUnits) || !(rs.map inUnits).all (heldBy d), 0x1E, 0, 0),
        (decide (256 < (cutFor d rs).length), 0x1D, 0, 0)])
      (fun i _ p => (((rs.map inUnits).foldl (fun s r => s.releaseUnits i r) (s.updLd i (fun d => { d with exts := cutFor d rs }))).replied p 0 0 0 []))

/-- The Fabric Manager's commands that read (Table 15.1, R55), and TUNNEL_MANAGEMENT_COMMAND (R341), which needs an MLD head and runs the packet that it carries as one on the sideband.
Layouts and numbers of the standard are PRESUMED (log entry 9). -/
def Sys2Proof.Machine.FabricQueriesReply : Prop :=
  (∀ (h : Hdr) (s : State), Runs (.fmIdentify h) s [] (fun p => s.advanceFree.replied p 0 0 0 (leBytes 2 Config.vendorId.toNat ++ leBytes 2 (s.rd Reg.GLB_ID_PART)
      ++ leBytes 4 s.freeNow.toNat ++ leBytes 8 (s.rd Reg.GLB_SERIAL_SERIAL) ++ leBytes 1 12 ++ leBytes 1 3)))
  ∧ (∀ (h : Hdr) (s : State), Runs (.getMultiHeadedInfo h) s [] (fun p => s.replied p 0 0 0 (leBytes 1 s.lds.length ++ leBytes 1 s.headList.length ++ leBytes 2 0
      ++ leBytes 1 0 ++ leBytes 1 64 ++ leBytes 2 0 ++ (List.range 64).flatMap (fun i => leBytes 1 (((s.ld? i).map (fun d => d.head)).getD 255)))))
  ∧ (∀ (h : Hdr) (start count : BitVec 8) (s : State), Runs (.getHeadInfo h start count) s [(decide (s.headList.length ≤ start.toNat), 2, 0, 0)]
      (fun p => s.replied p 0 0 0 (leBytes 1 ((s.headList.drop start.toNat).take count.toNat).length ++ leBytes 3 0
        ++ ((s.headList.drop start.toNat).take count.toNat).flatMap s.headImage)))
  ∧ (∀ (h : Hdr) (s : State), Runs (.getLdInfo h) s [] (fun p => s.advanceFree.replied p 0 0 0
      (leBytes 8 (s.boot.h * 2 ^ 28) ++ leBytes 2 s.lds.length ++ leBytes 1 s.freeNow.toNat)))
  ∧ (∀ (h : Hdr) (head : Head) (inner : BitVec 16) (payload : List Byte) (s : State), Runs (.tunnelManagementCommand h head inner payload) s
      [(!s.headExists head.val || !s.isMld head.val, 2, 0, 0)] (fun _ => s.packet h.src h.ldIx inner.toNat payload))
  ∧ (∀ (src : Agent) (ld : Option (BitVec 8)) (r : BitVec 16) (a b c : BitVec 8) (s : State),
      s.packet src ld 0xC000 (leBytes 8 r.toNat) = (nextOf (exec (.getIdentity { src := src, reqId := r }) s) s).advanceFree
      ∧ s.packet src ld 0xC009 (leBytes 8 r.toNat ++ [a, b, c]) = (nextOf (exec (.disable { src := src, reqId := r } a b c) s) s).advanceFree
      ∧ s.packet src ld 0xC902 (leBytes 8 r.toNat) = (nextOf (exec (.fwCommit { src := src, reqId := r }) s) s).advanceFree
      ∧ s.packet src ld 0x4400 [] = (nextOf (exec (.sanitize { src := src, ldIx := ld }) s) s).advanceFree)
  ∧ (∀ (h : Hdr) (s : State), Runs (.getDcdInfo h) s [] (fun p => s.advanceFree.replied p 0 0 0 (leBytes 1 s.lds.length ++ leBytes 1 8 ++ leBytes 2 0
      ++ leBytes 8 s.freeNow.toNat ++ leBytes 8 (s.boot.h * 2 ^ 28) ++ (List.range 8).flatMap (fun _ => leBytes 8 (2 ^ 28 + 2 ^ 30 + 2 ^ 32)))))
  ∧ (∀ (h : Hdr) (s : State), RunsOnLd (.getHostDcRegionConfiguration h) h s [] (fun _ _ => []) (fun i d p => s.replied p 0 0 0
      (leBytes 2 i ++ leBytes 1 8 ++ leBytes 1 8 ++ (List.range 8).flatMap (dcRegionBody d))))
  ∧ ∀ (h : Hdr) (s : State), RunsOnLd (.getDcRegionExtentLists h) h s [] (fun _ _ => []) (fun i d p => s.advanceFree.replied p 0 0 0
      (leBytes 2 i ++ leBytes 2 0 ++ (leBytes 4 (dcExtents d).length ++ leBytes 4 (dcExtents d).length ++ leBytes 4 s.freeNow.toNat ++ leBytes 4 0
        ++ (dcExtents d).flatMap extentImage)))

/-- The Fabric Manager's commands that change Dynamic Capacity (R55, R57, R58, R96): a region takes its base, length and block size, the LD's log getting a record of it; an add offers its extents to the host and records them; a release is asked of the host, and a forced one takes the
extents from the LD without its response. -/
def Sys2Proof.Machine.FabricCapacityCommandsTakeEffect : Prop :=
  (∀ (h : Hdr) (region : BitVec 8) (base len block : BitVec 64) (s : State), RunsOnLd (.setDcRegionConfiguration h region base len block) h s
      [(decide (7 < region.toNat), 2, 0, 0), (!([2 ^ 28, 2 ^ 30, 2 ^ 32].contains block.toNat), 2, 0, 0),
        (decide (base.toNat % block.toNat ≠ 0 ∨ len.toNat % block.toNat ≠ 0), 2, 0, 0)]
      (fun _ d => [(decide (base.toNat < d.staticCap), 2, 0, 0), (meetsRegion d region.toNat base.toNat len.toNat || regionInUse d region.toNat, 2, 0, 0)])
      (fun i _ p => ((s.updLd i (fun d => d.setRegion region.toNat base.toNat len.toNat block.toNat)).addRecord i 4
        (.dc 3 region.toNat base.toNat len.toNat 0)).replied p 0 0 0 []))
  ∧ (∀ (h : Hdr) (exts : List (BitVec 64 × BitVec 64 × BitVec 64)) (tag : BitVec 128) (s : State), RunsOnLd (.initiateDynamicCapacityAdd h exts tag) h s []
      (fun i d => [(exts.any (s.badAdd d) || overlaps ((exts.map addUnits).map (fun u => (u.1, u.2.2))) 
            || s.tagDiffers i tag ((exts.map addUnits).map Prod.snd) true || exts.any (d.kindDiffers tag), 2, 0, 0),
        ((exts.map addUnits).any (s.addTwice i d), 2, 0, 0),
        (decide (256 < d.exts.length + (d.offers.map (fun o => o.exts.length)).sum + (exts.map addUnits).length), 0x1D, 0, 0)])
      (fun i d p => ((((s.updLd i (fun x => x.markSharable tag exts)).updLd i (fun x => { x with offers := x.offers ++ [⟨exts.map addUnits, tag⟩] })).dcRecords i d 0 tag
        ((exts.map addUnits).map (fun u => (u.1, u.2.2)))).emit (.dcOffer i ⟨exts.map addUnits, tag⟩)).replied p 0 0 0 []))
  ∧ (∀ (h : Hdr) (exts : List (BitVec 64 × BitVec 64)) (s : State), RunsOnLd (.initiateDynamicCapacityRelease h false exts) h s []
      (fun _ d => [(!exts.all wholeUnits || !(exts.map inUnits).all (heldBy d), 2, 0, 0)])
      (fun i d p => (((s.dcRecords i d 1 0 (exts.map inUnits)).emit (.dcRelease i (exts.map inUnits) false))).replied p 0 0 0 []))
  ∧ ∀ (h : Hdr) (exts : List (BitVec 64 × BitVec 64)) (s : State), RunsOnLd (.initiateDynamicCapacityRelease h true exts) h s []
      (fun _ d => [(!exts.all wholeUnits || overlaps (exts.map inUnits) || !(exts.map inUnits).all (heldBy d), 2, 0, 0),
        (decide (256 < (cutFor d exts).length), 0x1D, 0, 0)])
      (fun i d p => (((exts.map inUnits).foldl (fun s r => s.releaseUnits i r)
        ((((s.dcRecords i d 2 0 (exts.map inUnits)).emit (.dcRelease i (exts.map inUnits) true)).updLd i (fun x => { x with exts := cutFor d exts })))).replied p 0 0 0 []))

/-- The Fabric Manager's commands that read (Table 15.1, R55), and TUNNEL_MANAGEMENT_COMMAND (R341), which needs an MLD head and runs the packet that it carries as one on the sideband.
Layouts and numbers of the standard are PRESUMED (log entry 9). The Fabric Manager's commands that change Dynamic Capacity (R55, R57, R58, R96): a region takes its base, length and block size, the LD's log getting a record of it; an add offers its extents to the host and records them; a release is asked of the host, and a forced one takes the
extents from the LD without its response. -/
def Obligations.FabricManagerCommands : Prop := FabricQueriesReply ∧ FabricCapacityCommandsTakeEffect
/-! ### Registers -/

/-- A 32-bit read by a source that sees all of BAR2 (R6, R9, R10): an offset that no register occupies, or one that is not aligned, returns 0; a 32-bit register returns its value; the low word of a 64-bit register captures the high word, and the next read of
the high word returns and consumes what was captured. A source with no view gets nothing. The head's link that carries an access is awake first (R63): the rest is said of the state that this leaves. Reserved bits are free values (log entry 3). -/
def Sys2Proof.Machine.RegisterReadsCaptureTheHighWord : Prop :=
  ∀ (a : Agent) (off : BitVec 26) (s₀ s : State) (c : Instr), s = s₀.crossLink a → c = .lowWordRead a .bar2 off 4 ∨ c = .highWordRead a off →
    (s.view a = .none → exec c s₀ = .next s)
    ∧ (s.view a ≠ .none → off.toNat % 4 ≠ 0 → exec c s₀ = .next (s.emit (.readData a 0)))
    ∧ (s.view a = .full → off.toNat % 4 = 0 → off.toNat < 0x3000000 → Reg.find off.toNat = none → exec c s₀ = .next (s.emit (.readData a 0)))
    ∧ (∀ d i, s.view a = .full → off.toNat % 4 = 0 → off.toNat < 0x3000000 → Reg.find off.toNat = some (d, i) → d.size ≠ 8 →
        exec c s₀ = .next (s.advanceFree.emit (.readData a ((s.peek off.toNat).setWidth 64))))
    ∧ (∀ d, s.view a = .full → off.toNat % 4 = 0 → off.toNat < 0x3000000 → Reg.find off.toNat = some (d, 0) → d.size = 8 →
        exec c s₀ = .next (({ s with free := s.free + 1, captHigh := Tbl.put s.captHigh off.toNat (s.peek (off.toNat + 4)) } : State).emit
          (.readData a ((s.peek off.toNat).setWidth 64))))
    ∧ (∀ d x, s.view a = .full → off.toNat % 4 = 0 → off.toNat < 0x3000000 → Reg.find off.toNat = some (d, 1) → d.size = 8 →
        Tbl.look s.captHigh (off.toNat - 4) = some x →
        exec c s₀ = .next (({ s with captHigh := Tbl.del s.captHigh (off.toNat - 4) } : State).emit (.readData a (x.setWidth 64))))
    ∧ (∀ d, s.view a = .full → off.toNat % 4 = 0 → off.toNat < 0x3000000 → Reg.find off.toNat = some (d, 1) → d.size = 8 →
        Tbl.look s.captHigh (off.toNat - 4) = none →
        exec c s₀ = .next (s.advanceFree.emit (.readData a ((s.peek off.toNat).setWidth 64))))

/-- A 32-bit write of a word of a 64-bit register (R9): the low word is held and the register stays as it is; the high word then updates the whole register and consumes what was held. A write without a full view, not aligned, or to an offset that no register occupies,
has no effect (R10, R44). -/
def Sys2Proof.Machine.RegisterWritesHoldTheLowWord : Prop :=
  ∀ (a : Agent) (off : BitVec 26) (v : Word) (s₀ s : State) (c : Instr), s = s₀.crossLink a → c = .lowWordWrite a off v ∨ c = .highWordWrite a off v →
    (s.view a ≠ .full ∨ off.toNat % 4 ≠ 0 ∨ 0x3000000 ≤ off.toNat ∨ Reg.find off.toNat = none → exec c s₀ = .next s)
    ∧ (∀ d, s.view a = .full → off.toNat % 4 = 0 → off.toNat < 0x3000000 → Reg.find off.toNat = some (d, 0) → d.size = 8 →
        exec c s₀ = .next { s with heldLow := Tbl.put s.heldLow off.toNat v })
    ∧ (∀ d lo, s.view a = .full → off.toNat % 4 = 0 → off.toNat < 0x3000000 → off.toNat ≠ 0x600014 → Reg.find off.toNat = some (d, 1) → d.size = 8 →
        Tbl.look s.heldLow (off.toNat - 4) = some lo →
        exec c s₀ = .next (State.setDword { s with heldLow := Tbl.del s.heldLow (off.toNat - 4) } (off.toNat - 4)
          (writeFields d (s.locked d (off.toNat - 4)) s.rootN (s.dword (off.toNat - 4)) (v ++ lo) (BitVec.allOnes 64))))
    ∧ (∀ d, s.view a = .full → off.toNat % 4 = 0 → off.toNat < 0x3000000 → off.toNat ≠ 0x600014 → Reg.find off.toNat = some (d, 1) → d.size = 8 →
        Tbl.look s.heldLow (off.toNat - 4) = none →
        exec c s₀ = .next (s.setDword (off.toNat - 4)
          (writeFields d (s.locked d (off.toNat - 4)) s.rootN (s.dword (off.toNat - 4)) (v ++ 0#32) 0xFFFFFFFF00000000#64)))

/-- A 64-bit access (R8): one to a 64-bit register is atomic, and discards the held low word and the captured high word; any other aligned one acts as two 32-bit accesses, low word first. -/
def Sys2Proof.Machine.SixtyFourBitAccessesAreAtomic : Prop :=
  ∀ (a : Agent) (off : BitVec 26) (v : BitVec 64) (s₀ s : State), s = s₀.crossLink a → s.view a = .full →
    (∀ d, off.toNat % 8 = 0 → off.toNat < 0x3000000 → Reg.find off.toNat = some (d, 0) → d.size = 8 →
        exec (.access64 a false off v) s₀ = .next (({ s with free := s.free + 1, heldLow := Tbl.del s.heldLow off.toNat, captHigh := Tbl.del s.captHigh off.toNat } : State).emit (.readData a (s.peek (off.toNat + 4) ++ s.peek off.toNat)))
        ∧ (off.toNat ≠ 0x600010 → exec (.access64 a true off v) s₀ = .next (State.setDword { s with heldLow := Tbl.del s.heldLow off.toNat, captHigh := Tbl.del s.captHigh off.toNat } off.toNat
            (writeFields d (s.locked d off.toNat) s.rootN (s.dword off.toNat) v (BitVec.allOnes 64)))))
    ∧ (∀ d, off.toNat % 8 = 0 → off.toNat < 0x3000000 → Reg.find off.toNat = some (d, 0) → d.size = 4 →
        exec (.access64 a true off v) s₀ = .next ((s.write32 .full (pairOf a) off.toNat (v.setWidth 32)).write32 .full (pairOf a) (off.toNat + 4) ((v >>> 32).setWidth 32)))
    ∧ (off.toNat % 8 ≠ 0 → exec (.access64 a true off v) s₀ = .next s ∧ exec (.access64 a false off v) s₀ = .next (s.emit (.readData a 0)))

/-- A 32-bit read by a source that sees all of BAR2 (R6, R9, R10): an offset that no register occupies, or one that is not aligned, returns 0; a 32-bit register returns its value; the low word of a 64-bit register captures the high word, and the next read of
the high word returns and consumes what was captured. A source with no view gets nothing. The head's link that carries an access is awake first (R63): the rest is said of the state that this leaves. Reserved bits are free values (log entry 3). A 32-bit write of a word of a 64-bit register (R9): the low word is held and the register stays as it is; the high word then updates the whole register and consumes what was held. A write without a full view, not aligned, or to an offset that no register occupies,
has no effect (R10, R44). A 64-bit access (R8): one to a 64-bit register is atomic, and discards the held low word and the captured high word; any other aligned one acts as two 32-bit accesses, low word first. -/
def Obligations.RegisterAccessesAre32Or64Bits : Prop := RegisterReadsCaptureTheHighWord ∧ RegisterWritesHoldTheLowWord ∧ SixtyFourBitAccessesAreAtomic

/-- A 32-bit register word whose write does nothing but store its fields: every block's, but for reset control, the watchdog kicks, the derate levels, the Press and Graft configuration, the queues, the power-down and
error-log controls of a channel, the Gatehouse's, counter control with CLEAR, event selection, sampling and gathering, and the alert block, which have clauses of their own. -/
def Sys2Proof.Machine.onlyStores (off : Nat) (x : Word) : Prop :=
  off ∉ [0x60, 0x200020, 0x400000, 0x2000000, 0x2202000, 0x2202004, 0x2203000] ∧ (off < 0x110 ∨ 0x130 ≤ off) ∧ (off < 0x401000 ∨ 0x401800 ≤ off)
  ∧ (off < 0x1000000 ∨ 0x1800000 ≤ off ∨ off % 0x80000 ∉ [0x40, 0x44, 0x2500]) ∧ (off < 0x2100000 ∨ 0x2200000 ≤ off)
  ∧ (off < 0x2200000 ∨ 0x2201000 ≤ off ∨ off % 0x100 = 4 ∨ (off % 0x100 = 0 ∧ x.getLsbD 2 = false)) ∧ (off < 0x2300000 ∨ 0x2400000 ≤ off)

/-- A field that software writes takes a value (R2, Table 0.5): a legal one is taken, one beyond a bound takes the nearer end, a reserved encoding leaves the field as it was; a field that another bounds follows the other's new value. -/
def Sys2Proof.Machine.fieldTaken (l : Reg.Legal) (n o x : Nat) (y : Word) (new : Nat) : Prop :=
  (l = .any → new = x)
  ∧ (∀ m, l = .upTo m → new = if x ≤ m then x else o)
  ∧ (∀ xs, l = .oneOf xs → new = if x ∈ xs then x else o)
  ∧ (∀ a b, l = .between a b → new = if a ≤ x ∧ x ≤ b then x else o)
  ∧ (∀ a b, l = .clamp a b → new = max a (min b x))
  ∧ (∀ lo k, l = .belowField lo k → new = min x (bitsOf y lo k - 1))
  ∧ (∀ lo k, l = .atMostField lo k → new = min x (bitsOf y lo k))
  ∧ (l = .classOrAny → new = if x < 64 ∨ x = 255 then x else o)
  ∧ (∀ a b, l = .rootClamp a b → new = max (a * n) (min (b * n) x))

/-- The fields of a register that held o after a write of x, as y (R2, R7): RO, ROS, RSV and WO fields stay; RW and RWS fields, and RWL fields that are not locked, take the value; a locked RWL field stays; a RW1C field loses the bits written as 1, or
clears whole on any. Which fields are kept through a warm reset (the S of RWS and ROS) is said where it is reset. -/
def Sys2Proof.Machine.FieldsTaken (d : Reg.RegDef) (locked : Bool) (n : Nat) (o x y : Word) : Prop :=
  ∀ f ∈ d.fields,
    (f.acc = .ro ∨ f.acc = .rsv ∨ f.acc = .wo ∨ f.acc = .rwl ∧ locked = true → bitsOf y f.lo f.w = bitsOf o f.lo f.w)
    ∧ (f.acc = .rw ∨ f.acc = .rwl ∧ locked = false → fieldTaken f.legal n (bitsOf o f.lo f.w) (bitsOf x f.lo f.w) y (bitsOf y f.lo f.w))
    ∧ (f.acc = .rw1c → f.whole = true → bitsOf y f.lo f.w = if bitsOf x f.lo f.w = 0 then bitsOf o f.lo f.w else 0)
    ∧ (f.acc = .rw1c → f.whole = false → ∀ k, k < f.w →
        (bitsOf y f.lo f.w).testBit k = ((bitsOf o f.lo f.w).testBit k && !(bitsOf x f.lo f.w).testBit k))

/-- A 32-bit write of a 32-bit register of BAR2 by a source with a full view: its fields take the word (R2, R7, R10), and a register that only stores changes no other word and nothing else. The words that act as well take their fields in the
same way: PRS_CFG, GFT_CFG, DMC_PD, DMC_SR, DMC_CE_LOG_CTL and those of the alert block but its cause bits, whose write changes no word outside them but may signal vector 6. DMC_PD's and the others' further effects are those of their commands. -/
def Sys2Proof.Machine.RegisterWordsTakeTheirFields : Prop :=
  ∀ (a : Agent) (off : BitVec 26) (v : BitVec 64) (s₀ s : State) (d : Reg.RegDef), s = s₀.crossLink a → s.view a = .full → off.toNat % 4 = 0 → off.toNat < 0x3000000 →
    Reg.find off.toNat = some (d, 0) → d.size = 4 →
    (onlyStores off.toNat (v.setWidth 32) → ∃ t, exec (.registerWrite a .bar2 off 4 v) s₀ = .next t ∧ OnlyWords s t [off.toNat]
      ∧ FieldsTaken d (s.locked d off.toNat) s.rootN (s.word off.toNat) (v.setWidth 32) (t.word off.toNat))
    ∧ (off.toNat = 0x400000 ∨ off.toNat = 0x2000000 ∨ 0x1000000 ≤ off.toNat ∧ off.toNat < 0x1800000 ∧ off.toNat % 0x80000 ∈ [0x40, 0x44, 0x2500] →
      ∃ t, exec (.registerWrite a .bar2 off 4 v) s₀ = .next t ∧ FieldsTaken d (s.locked d off.toNat) s.rootN (s.word off.toNat) (v.setWidth 32) (t.word off.toNat))
    ∧ (0x2300000 ≤ off.toNat → off.toNat < 0x2400000 → (off.toNat < 0x2300100 ∨ 0x2300200 ≤ off.toNat) →
      ∃ t, exec (.registerWrite a .bar2 off 4 v) s₀ = .next t ∧ (∀ k, k ≠ off.toNat → t.word k = s.word k) ∧ t = { s with regs := t.regs, lds := t.lds, out := t.out }
        ∧ FieldsTaken d (s.locked d off.toNat) s.rootN (s.word off.toNat) (v.setWidth 32) (t.word off.toNat))

/-- Writes of BAR2 that a command of its own describes are that command: the low and the high word of a 64-bit register, a 64-bit access, queue tails, event selection, sampling, gathering, the cause bits, the Gatehouse's registers and the
watchdog kicks (R8, R9, R22). QOS_DERATE takes its levels, whose changes raise events (R282). GLB_RST_CTL stores MODE, and with a wrong KEY does nothing else (R394). -/
def Sys2Proof.Machine.RegisterWritesAreTheirCommands : Prop :=
  (∀ (a : Agent) (off : BitVec 26) (v : BitVec 64) (s : State), off.toNat ≠ 0x60 →
      exec (.registerWrite a .bar2 off 4 v) s = exec (.lowWordWrite a off (v.setWidth 32)) s ∧ exec (.registerWrite a .bar2 off 4 v) s = exec (.highWordWrite a off (v.setWidth 32)) s
      ∧ exec (.registerWrite a .bar2 off 8 v) s = exec (.access64 a true off v) s)
  ∧ (∀ (a : Agent) (q : Fin 64) (v : BitVec 64) (s : State), exec (.registerWrite a .bar2 (BitVec.ofNat 26 (0x40100C + 0x20 * q.val)) 4 v) s = exec (.prsQTailWrite a q (v.setWidth 32)) s)
  ∧ (∀ (a : Agent) (g : Fin 16) (j : Fin 4) (v : BitVec 64) (s : State),
      exec (.registerWrite a .bar2 (BitVec.ofNat 26 (0x2200008 + 0x100 * g.val + 4 * j.val)) 4 v) s = exec (.catEvselWrite a g j (v.setWidth 32)) s)
  ∧ (∀ (a : Agent) (v : BitVec 64) (s : State), exec (.registerWrite a .bar2 0x2202000#26 4 v) s = exec (.catSampConfigWrite a false (v.setWidth 32)) s
      ∧ exec (.registerWrite a .bar2 0x2202004#26 4 v) s = exec (.catSampConfigWrite a true (v.setWidth 32)) s
      ∧ (v.getLsbD 0 = true → exec (.registerWrite a .bar2 0x2203000#26 4 v) s = exec (.catGatherStart a) s)
      ∧ exec (.registerWrite a .bar2 0x600014#26 4 v) s = exec (.dirProbeStart a (v.setWidth 32)) s)
  ∧ (∀ (a : Agent) (blk : BitVec 8) (v : BitVec 64) (s : State), blk.toNat < 0x40 →
      exec (.registerWrite a .bar2 (BitVec.ofNat 26 (0x2300100 + 4 * blk.toNat)) 4 v) s = exec (.alrCauseClear a blk (v.setWidth 32)) s)
  ∧ (∀ (a : Agent) (off : BitVec 26) (v : BitVec 64) (s : State), 0x2100000 ≤ off.toNat → off.toNat < 0x2200000 →
      exec (.registerWrite a .bar2 off 4 v) s = exec (.gthRegisterWrite a off (v.setWidth 32)) s)
  ∧ (∀ (a : Agent) (v : BitVec 64) (s₀ s : State), s = s₀.crossLink a → s.view a = .full → ∃ t, exec (.registerWrite a .bar2 0x200020#26 4 v) s₀ = .next t
      ∧ t.word 0x200020 = v.setWidth 32 ∧ (v.setWidth 32 ≠ s.word 0x200020 → t.qos.gDirty = true) ∧ ∀ k, k ≠ 0x200020 → (k < 0x2300000 ∨ 0x2400000 ≤ k) → t.word k = s.word k)
  ∧ ∀ (a : Agent) (v : BitVec 64) (s₀ s : State), s = s₀.crossLink a → s.view a = .full → bitsOf v 16 16 ≠ 0x9640 → ∃ t, exec (.registerWrite a .bar2 0x60#26 4 v) s₀ = .next t
      ∧ t.flag Reg.GLB_RST_CTL_MODE = v.getLsbD 2 ∧ OnlyWords s t [0x60]

/-- Writes of an LD's other spaces: the mailbox's registers in BAR0 take the word, and setting the doorbell runs the command that they hold (R340); a decoder that is not committed takes it, Commit beginning the checks (R50); the vectors in BAR4
take it (R59); a word of configuration space is written as a configuration request writes it (R46). A source that is no LD reaches none of them. Where the registers stand in BAR0 is PRESUMED (log entry 77). -/
def Sys2Proof.Machine.RegisterWritesOfOtherSpaces : Prop :=
  (∀ (i : LdIx) (off : BitVec 26) (v : BitVec 64) (s₀ s : State) (d : Ld), s = s₀.crossLink (.ld i) → s.view (.ld i) ≠ .none → s.ld? i.val = some d → off.toNat % 4 = 0 →
    (0x10100 ≤ off.toNat → off.toNat < 0x11120 → (d.mbox.ctl.getLsbD 0 = true ∨ off.toNat ≠ 0x10104 ∨ v.getLsbD 0 = false) →
        exec (.registerWrite (.ld i) .bar0 off 4 v) s₀ = .next (s.updLd i.val (fun x => { x with mbox := x.mbox.take (off.toNat - 0x10100) (v.setWidth 32) })))
    ∧ (off.toNat = 0x10104 → d.mbox.ctl.getLsbD 0 = false → v.getLsbD 0 = true →
        exec (.registerWrite (.ld i) .bar0 off 4 v) s₀ = .next ((s.updLd i.val (fun x => { x with mbox := { x.mbox with ctl := v.setWidth 32 &&& 7#32 } })).packet (.ld i) none
          (bitsOf d.mbox.cmd 0 16) d.mbox.bytes))
    ∧ (∀ k r, off.toNat = 0x1210 + 0x20 * k + 4 * r → k < 4 → r < 8 →
        ((Tbl.look d.decoders k).isSome = true → exec (.registerWrite (.ld i) .bar0 off 4 v) s₀ = .next s)
        ∧ ((Tbl.look d.decoders k).isSome = false → (r ≠ 4 ∨ v.getLsbD 9 = false) → exec (.registerWrite (.ld i) .bar0 off 4 v) s₀ = .next
            (s.updLd i.val (fun x => { x with decRegs := Tbl.putD x.decRegs {} k ((d.dec k).take r (v.setWidth 32)) })))
        ∧ ((Tbl.look d.decoders k).isSome = false → r = 4 → v.getLsbD 9 = true → exec (.registerWrite (.ld i) .bar0 off 4 v) s₀ = .next
            (s.commit i.val k ((d.dec k).take r (v.setWidth 32)).base ((d.dec k).take r (v.setWidth 32)).size ((d.dec k).take r (v.setWidth 32)).skip
              ((d.dec k).take r (v.setWidth 32)).iw ((d.dec k).take r (v.setWidth 32)).ig)))
    ∧ (off.toNat < 0x200 → ∃ t x, exec (.registerWrite (.ld i) .bar4 off 4 v) s₀ = .next t ∧ (t.ld? i.val).map (fun y => Tbl.lookD y.msix {} (off.toNat / 16)) = some x
        ∧ (off.toNat % 16 = 0 → x = { Tbl.lookD d.msix {} (off.toNat / 16) with addr := (Tbl.lookD d.msix {} (off.toNat / 16)).addr &&& 0xFFFFFFFF00000000#64 ||| (v &&& 0xFFFFFFFC#64) })
        ∧ (off.toNat % 16 = 4 → x = { Tbl.lookD d.msix {} (off.toNat / 16) with addr := (Tbl.lookD d.msix {} (off.toNat / 16)).addr &&& 0xFFFFFFFF#64 ||| (v <<< 32) })
        ∧ (off.toNat % 16 = 8 → x = { Tbl.lookD d.msix {} (off.toNat / 16) with data := v.setWidth 32 })
        ∧ (off.toNat % 16 = 12 → x = { Tbl.lookD d.msix {} (off.toNat / 16) with mask := v.getLsbD 0 }))
    ∧ (∀ c : BitVec 12, c.toNat = off.toNat → exec (.registerWrite (.ld i) .config off 4 v) s₀ = exec (.configAccess (.ld i) true c (v.setWidth 32)) s))
  ∧ ∀ (a : Agent) (sp : Space) (off : BitVec 26) (n : Nat) (v : BitVec 64) (s : State), sp ≠ .bar2 → (∀ i, a ≠ .ld i) → exec (.registerWrite a sp off n v) s = .next s

/-- REGISTER_WRITE (R2, R7 to R10, R43, R44, R46). A 32-bit register of BAR2 takes the word field by field, as each field's access type and legal values say; a register that only stores changes nothing else. Writes that a command of their own describes are that command.
The mailbox, the decoders and the vectors of an LD take theirs, and configuration space its. -/
def Obligations.RegisterFieldsFollowTheirAccessTypes : Prop := RegisterWordsTakeTheirFields ∧ RegisterWritesAreTheirCommands ∧ RegisterWritesOfOtherSpaces

/-- The commands that write one register (R22, R172, R316, R362, R366, R367, R373, R382): each does what a write of its register by a source with a full view does. What a group's CLEAR or a
counter's new event holds off counts from the next tick on (R362), and a cause bit that an event of the same tick has set stays (R382). -/
def Obligations.SingleRegisterCommandsTakeEffect : Prop :=
  (∀ (a : Agent) (hi : Word) (s₀ s : State), s = s₀.crossLink a → s.view a = .full → ∃ t, exec (.dirProbeStart a hi) s₀ = .next t ∧ t.flag Reg.DIR_PROBE_DATA_DONE = false
      ∧ t.dir.probe = some (t.rd Reg.DIR_PROBE_ADDR_LINE) ∧ Tbl.look t.heldLow 0x600010 = none
      ∧ t = { s with regs := t.regs, heldLow := t.heldLow, dir := { s.dir with probe := t.dir.probe } })
  ∧ (∀ (a : Agent) (q : Fin 64) (v : Word) (s₀ s : State), s = s₀.crossLink a → s.view a = .full → s.flag (Reg.PRS_Q_CFG_EN q.val) = true → s.rd (Reg.PRS_Q_CFG_LOG2_SIZE q.val) ≤ 12 →
      ∃ t, exec (.prsQTailWrite a q v) s₀ = .next t ∧ OnlyWords s t [0x40100C + 0x20 * q.val]
        ∧ t.rd (Reg.PRS_Q_TAIL_TAIL q.val) = v.toNat % 4096 % 2 ^ s.rd (Reg.PRS_Q_CFG_LOG2_SIZE q.val))
  ∧ (∀ (a : Agent) (off : BitVec 26) (v : Word) (s₀ s : State) (d : Reg.RegDef) (i : Nat), s = s₀.crossLink a → s.view a = .full → off.toNat % 4 = 0 →
      0x2100000 ≤ off.toNat → off.toNat < 0x2200000 → Reg.find off.toNat = some (d, i) → d.size = 4 →
      exec (.gthRegisterWrite a off v) s₀ = .next (if s.flag Reg.GLB_CLK_STATUS_GTH_LINK_UP then s.withWrites [(off.toNat, v)] else s))
  ∧ (∀ (a : Agent) (g : Fin 16) (s₀ s : State), s = s₀.crossLink a → s.view a = .full → ∃ t, exec (.catGroupClear a g) s₀ = .next t
      ∧ t.rd (Reg.CAT_GRP_TICKS_TICKS g.val) = 0 ∧ (∀ k, k < 8 → t.rd (Reg.CAT_GRP_CNT_COUNT g.val k) = 0) ∧ t.rd (Reg.CAT_GRP_CTL_OVF g.val) = 0
      ∧ t.flag (Reg.CAT_GRP_CTL_TICK_OVF g.val) = false ∧ t.rd (Reg.CAT_GRP_CTL_EN g.val) = s.rd (Reg.CAT_GRP_CTL_EN g.val)
      ∧ t.rd (Reg.CAT_GRP_CTL_FREEZE g.val) = s.rd (Reg.CAT_GRP_CTL_FREEZE g.val) ∧ (∀ k, k < 8 → t.evsel g.val k = s.evsel g.val k)
      ∧ t = { s with regs := t.regs, cat := { s.cat with holds := Tbl.put s.cat.holds (128 + g.val) (s.tick + 1) } })
  ∧ (∀ (a : Agent) (g : Fin 16) (j : Fin 4) (v : Word) (s₀ s : State), s = s₀.crossLink a → s.view a = .full → eventLegal (bitsOf v 0 16) = true → eventLegal (bitsOf v 16 16) = true →
      ∃ t, exec (.catEvselWrite a g j v) s₀ = .next t ∧ t.evsel g.val (2 * j.val) = bitsOf v 0 16 ∧ t.evsel g.val (2 * j.val + 1) = bitsOf v 16 16
        ∧ t.rd (Reg.CAT_GRP_CNT_COUNT g.val (2 * j.val)) = 0 ∧ t.rd (Reg.CAT_GRP_CNT_COUNT g.val (2 * j.val + 1)) = 0
        ∧ t = { s with regs := t.regs, cat := { s.cat with holds := Tbl.put (Tbl.put s.cat.holds (8 * g.val + 2 * j.val) (s.tick + 1)) (8 * g.val + (2 * j.val + 1)) (s.tick + 1) } })
  ∧ (∀ (a : Agent) (v : Word) (s₀ s : State), s = s₀.crossLink a → s.view a = .full → ∃ t, exec (.catSampConfigWrite a false v) s₀ = .next t
      ∧ t.rd Reg.CAT_SAMP_CTL_ENABLE = bitsOf v 0 1 ∧ t.rd Reg.CAT_SAMP_CTL_PERIOD = max 1 (bitsOf v 16 16)
      ∧ t.rd Reg.CAT_SAMP_CTL_CLASS = (if bitsOf v 8 8 < 64 ∨ bitsOf v 8 8 = 255 then bitsOf v 8 8 else s.rd Reg.CAT_SAMP_CTL_CLASS)
      ∧ OnlyWords { s with cat := { s.cat with matched := 0 } } t [0x2202000])
  ∧ (∀ (a : Agent) (v : Word) (s₀ s : State), s = s₀.crossLink a → s.view a = .full → ∃ t, exec (.catSampConfigWrite a true v) s₀ = .next t
      ∧ t.rd Reg.CAT_SAMP_HEADS_HEAD_MASK = bitsOf v 0 16 ∧ OnlyWords { s with cat := { s.cat with matched := 0 } } t [0x2202004])
  ∧ (∀ (a : Agent) (s₀ s : State), s = s₀.crossLink a → s.view a = .full → exec (.catGatherStart a) s₀ = .next (s.trigger 1 4))
  ∧ (∀ (a : Agent) (blk : BitVec 8) (v : Word) (s₀ s : State), s = s₀.crossLink a → s.view a = .full → (1 ≤ blk.toNat ∧ blk.toNat ≤ 6 ∨ 0x10 ≤ blk.toNat ∧ blk.toNat ≤ 0x23) →
      ∃ t, exec (.alrCauseClear a blk v) s₀ = .next t ∧ (∀ k, k < 32 → (t.word (0x2300100 + 4 * blk.toNat)).getLsbD k = ((s.word (0x2300100 + 4 * blk.toNat)).getLsbD k
          && !(v.getLsbD k && decide (1 ≤ k) && !(s.mgmt.raisedAt == s.tick && s.mgmt.raised.contains (256 * blk.toNat + k)))))
        ∧ OnlyWords s t [0x2300100 + 4 * blk.toNat])
  ∧ ∀ (a : Agent) (p : Pair) (s : State), exec (.glbWdnKick a p) s =
      .next (if a = .pair p then { s with warden := { s.warden with kick := Tbl.putD s.warden.kick 0 p.val s.tick } } else s)


/-! ### The step, and what every step keeps -/

/-- A step takes the command at the front of the queue and runs it on the block with the rest of the queue. -/
def Obligations.StepRunsFrontCommand : Prop :=
  ∀ (c : Instr) (rest : List Instr) (s : State), s.pending = c :: rest → step s = exec c { s with pending := rest }

/-- A step with no command waiting takes a tick (R4; the model's choice, log entry 1). Nothing happens while the die is in reset. Otherwise the tick count rises by one, TICKS of each enabled
group that is neither frozen nor held off in this tick rises by one modulo 2^48, TICKS of every other group stays, and no word outside the counter groups changes (R360 to R362); metadata lines that are to be written enter write queues that have
room (R210; when is the model's choice, log entry 115). Where no foreground command is in progress any longer, the commands that waited for it run first, in their order (R346; at the tick is the model's choice, log entry 110). -/
def Obligations.IdleStepTakesATick : Prop :=
  (∀ s : State, s.pending = [] →
    (s.boot.released = false → step s = .next s)
    ∧ (s.boot.released = true → ∃ t u w : State, step s = .next t
        ∧ u = { s with tick := s.tick + 1, regs := u.regs }
        ∧ (∀ off, off < 0x2200000 ∨ 0x2201000 ≤ off → u.word off = s.word off)
        ∧ (∀ g, g < 16 → u.rd (Reg.CAT_GRP_TICKS_TICKS g) = if s.groupOn g = true ∧ Tbl.look s.cat.holds (128 + g) ≠ some (s.tick + 1) then
            (s.rd (Reg.CAT_GRP_TICKS_TICKS g) + 1) % 2 ^ 48 else s.rd (Reg.CAT_GRP_TICKS_TICKS g))
        ∧ (s.mgmt.held = [] ∨ s.widthWaits = true → w = u)
        ∧ (s.mgmt.held ≠ [] → s.widthWaits = false → w = s.mgmt.held.foldl State.runHeld { u with mgmt := { u.mgmt with held := [] } })
        ∧ t = { w with dmc := t.dmc, regs := t.regs, sec := { w.sec with due := t.sec.due }, place := { w.place with accDirty := t.place.accDirty }, cat := t.cat }
        ∧ (∀ off, off < 0x1000000 ∨ 0x1800000 ≤ off → off < 0x2200000 ∨ 0x2201000 ≤ off → t.word off = w.word off)
        ∧ (∀ g, g < 16 → t.rd (Reg.CAT_GRP_TICKS_TICKS g) = w.rd (Reg.CAT_GRP_TICKS_TICKS g)) ∧ ∀ e ∈ t.sec.due, e ∈ w.sec.due))
  ∧ ∀ (h : Hdr) (a b c : BitVec 8) (s : State), s.runHeld { h := h, op := 0xC009, args := [a, b, c] } = nextOf (exec (.disable h a b c) s) s

/-- Every command completes, with a state in which the queue is as it was: a step takes exactly one command, the front one, and none is lost, added or turned round. What has left the block stays
recorded, and no free value is used a second time. -/
def Obligations.EveryCommandCompletesAndLeavesTheQueue : Prop :=
  ∀ (c : Instr) (s : State), ∃ t, exec c s = .next t ∧ t.pending = s.pending ∧ s.out <:+ t.out ∧ s.free ≤ t.free

/-- Every step keeps the canonical form of the tables that stand for arrays: register words, media lines and fuses are listed once each, in order, and none is listed at what an unlisted one reads as,
so that equal contents are equal data. -/
def Obligations.EveryStepKeepsCanonicalTables : Prop := ∀ s t : State, s.Canonical → step s = .next t → t.Canonical

/-- No step, whatever command it runs and through every reset, returns a fuse that is programmed to 0 (R357, R354): OTP bits are only ever programmed. -/
def Obligations.EveryStepKeepsProgrammedFuses : Prop := ∀ s t : State, step s = .next t → FusesKept s t

/-- The state after reset: the tables are in canonical form, no command waits, the die is in reset, every register word has its reset value, no LD, region, key, directory entry or request exists,
no fuse is programmed, and a step leaves it as it is. -/
def Obligations.ResetStateIsCanonicalAndIdle : Prop :=
  State.reset.Canonical ∧ State.reset.pending = [] ∧ State.reset.boot.released = false ∧ step State.reset = .next State.reset
    ∧ (∀ off, State.reset.word off = Reg.resetWord off) ∧ (∀ i, State.reset.ld? i = none) ∧ (∀ a, State.reset.otpAt a = 0)
    ∧ State.reset.regions = [] ∧ (∀ k, State.reset.key k = {}) ∧ State.reset.dir = {} ∧ State.reset.path = {} ∧ State.reset.press = {} ∧ State.reset.place = {}
    ∧ State.reset.media = [] ∧ State.reset.lent = [] ∧ State.reset.borrow = [] ∧ State.reset.mgmt.bg = [] ∧ State.reset.mgmt.held = []

/-- A register field is what was last written to it, and a write of a field changes no other field of the same word, and no other word (R6): the law on which every statement about registers rests. -/
def Obligations.RegisterFieldsAreIndependent : Prop :=
  ∀ (s : State) (f g : Reg.Fld) (x : Nat), f.lo % 32 + f.w ≤ 32 → g.lo % 32 + g.w ≤ 32 →
    (s.wr f x).rd f = x % 2 ^ f.w
    ∧ (f.off + 4 * (f.lo / 32) ≠ g.off + 4 * (g.lo / 32) ∨ f.lo % 32 + f.w ≤ g.lo % 32 ∨ g.lo % 32 + g.w ≤ f.lo % 32 → (s.wr f x).rd g = s.rd g)
    ∧ OnlyWords s (s.wr f x) [f.off + 4 * (f.lo / 32)]

/-! ### Resets -/

/-- What a cold reset or a standby power-up leaves: the central die in its reset state; the queue, the free values and what has left the block stay, and so do the OTP, the flash, the Gatehouse but
for the frame on its link and its calibration of the die's sensors, the pins, and the boot log. -/
def Sys2Proof.Machine.ColdFrom (s t : State) : Prop :=
  t = { pending := s.pending, free := s.free, out := s.out, alertN := s.alertN, regs := t.regs,
        boot := { pwrok := t.boot.pwrok, coldN := t.boot.coldN, warmN := t.boot.warmN, perst := s.boot.perst, bootLog := s.boot.bootLog, kind := t.boot.kind, cause := t.boot.cause },
        gth := t.gth, mgmt := { otp := s.mgmt.otp, flash := s.mgmt.flash, erased := s.mgmt.erased } }

/-- A register word after a reset: the fields that survive a reset of the kind (2 cold, 1 warm) keep their value, and every other one has its reset value (Table 0.5). -/
def Sys2Proof.Machine.keptWord (k off : Nat) (v : Word) : Word := (v &&& keepMask k off) ||| (Reg.resetWord off &&& ~~~keepMask k off)

/-- The resets that put the die in its reset state (R314, R383, R384, R394): MAIN_PWROK falling, COLD_RST_N, a keyed GLB_RST_CTL.COLD, and the auxiliary supply rising. The first three are cold resets,
unless the die has not been released since a standby power-up (R383); a register field that no reset of the central die reaches keeps its value, and every other one has its reset value. -/
def Obligations.ColdResetsTakeEffect : Prop :=
  (∀ s : State, s.Canonical → ∃ t, exec .mainPwrokFall s = .next t ∧ ColdFrom s t ∧ t.gth = { s.gth with frame := none, dieDone := 0 } ∧ t.boot.pwrok = false
      ∧ t.boot.kind = (if s.boot.released = false ∧ s.boot.kind = .standby then .standby else .cold) ∧ t.boot.cause = 0 ∧ ∀ off, t.word off = keptWord 2 off (s.word off))
  ∧ (∀ s : State, s.Canonical → ∃ t, exec .coldRst s = .next t ∧ ColdFrom s t ∧ t.gth = { s.gth with frame := none, dieDone := 0 } ∧ t.boot.coldN = false
      ∧ t.boot.kind = (if s.boot.released = false ∧ s.boot.kind = .standby then .standby else .cold)
      ∧ t.boot.cause = (if s.boot.released = false ∧ s.boot.kind = .standby then 0 else 1) ∧ ∀ off, t.word off = keptWord 2 off (s.word off))
  ∧ (∀ s : State, s.gth.aux = true → exec .auxPowerUp s = .next s)
  ∧ (∀ s : State, s.gth.aux = false → ∃ t, exec .auxPowerUp s = .next t ∧ ColdFrom s t ∧ t.gth.aux = true ∧ t.gth.loaded = s.gth.loaded ∧ t.boot.kind = .standby
      ∧ t.boot.cause = 0 ∧ ∀ off, t.word off = Reg.resetWord off)
  ∧ ∀ (a : Agent) (v : Word) (s₀ s : State), s = s₀.crossLink a → s.view a = .full → bitsOf v 16 16 = 0x9640 → v.getLsbD 1 = true → s.Canonical →
      ∃ t, exec (.glbRstCold a v) s₀ = .next t ∧ ColdFrom s t ∧ t.gth = { s.gth with frame := none, dieDone := 0 } ∧ t.boot.kind = .cold ∧ t.boot.cause = 3
        ∧ ∀ off, off ≠ 0x60 → t.word off = keptWord 2 off (s.word off)

/-- What steps 1 and 2 of a warm-reset entry begin (Table 18.4): every LD takes the state that a disable in the mode leaves it in, DISABLED staying as it is (R66), and the queues of LDs are deleted (R177); extents, memory,
regions and slots stay. A graceful entry changes beside this only walks that begin, range passes, and the registers of the queues. -/
def Sys2Proof.Machine.Quiesced (s t : State) (abrupt : Bool) (offs : List Nat) : Prop :=
  (∀ j, (t.ld? j).map (fun d => (d.st, d.disabled, d.exts)) = (s.ld? j).map (fun d => (disabledSt abrupt d.st, d.disabled, d.exts)))
  ∧ (∀ q, q < 64 → s.flag (Reg.PRS_Q_CFG_EN q) = true → (s.ld? (s.rd (Reg.PRS_Q_CFG_LD_INDEX q))).isSome = true → t.flag (Reg.PRS_Q_CFG_EN q) = false)
  ∧ t.media = s.media ∧ t.regions = s.regions ∧ t.sec.keys = s.sec.keys
  ∧ (abrupt = false → (∀ off, off ∉ offs → (off < 0x401000 ∨ 0x401800 ≤ off) → t.word off = s.word off)
      ∧ t = { s with boot := t.boot, lds := t.lds, regs := t.regs, dir := { s.dir with walks := t.dir.walks }, press := { s.press with aborting := t.press.aborting },
                     mgmt := { s.mgmt with passes := t.mgmt.passes } })

/-- Warm-reset entry (R385, R393, Table 18.4): WARM_RST_N or a keyed GLB_RST_CTL.WARM records the cause, and every LD is disabled in MODE; during an entry, or while the die is in reset, a trigger has no effect, and in the
safe state nothing is left to quiesce. Curator planning stops. At the end of step 3, which waits for the disables, every move still running is aborted and both Graft ports are down. -/
def Sys2Proof.Machine.WarmResetEntryTakesEffect : Prop :=
  (∀ s : State, s.boot.released = false ∨ s.boot.warmEntry = true → exec .warmRst s = .next { s with boot := { s.boot with warmN := false } })
  ∧ (∀ s : State, s.boot.released = true → s.boot.warmEntry = false → s.isSafe = true → ∃ t, exec .warmRst s = .next t ∧ t.rd Reg.GLB_RST_STATUS_CAUSE = 2
      ∧ OnlyWords { s with boot := { s.boot with warmN := false, warmEntry := true, moveDeadline := false, cause := 2 } } t [0x64])
  ∧ (∀ s : State, s.boot.released = true → s.boot.warmEntry = false → s.isSafe = false → ∃ t, exec .warmRst s = .next t ∧ t.rd Reg.GLB_RST_STATUS_CAUSE = 2
      ∧ t.boot = { s.boot with warmN := false, warmEntry := true, moveDeadline := false, cause := 2 } ∧ Quiesced s t (s.flag Reg.GLB_RST_CTL_MODE) [0x64])
  ∧ (∀ (a : Agent) (v : Word) (s₀ s : State), s = s₀.crossLink a → s.view a = .full → bitsOf v 16 16 ≠ 0x9640 ∨ v.getLsbD 0 = false ∧ v.getLsbD 1 = false →
      (∃ t, exec (.glbRstWarm a v) s₀ = .next t ∧ t.flag Reg.GLB_RST_CTL_MODE = v.getLsbD 2 ∧ OnlyWords s t [0x60])
      ∧ ∃ t, exec (.glbRstCold a v) s₀ = .next t ∧ t.flag Reg.GLB_RST_CTL_MODE = v.getLsbD 2 ∧ OnlyWords s t [0x60])
  ∧ (∀ (a : Agent) (v : Word) (s₀ s : State), s = s₀.crossLink a → s.view a = .full → bitsOf v 16 16 = 0x9640 → v.getLsbD 1 = false → v.getLsbD 0 = true → s.boot.released = true → s.boot.warmEntry = false →
      (s.isSafe = true → ∃ t, exec (.glbRstWarm a v) s₀ = .next t ∧ t.flag Reg.GLB_RST_CTL_MODE = v.getLsbD 2 ∧ t.rd Reg.GLB_RST_STATUS_CAUSE = 3
        ∧ OnlyWords { s with boot := { s.boot with warmEntry := true, moveDeadline := false, cause := 3 } } t [0x60, 0x64])
      ∧ (s.isSafe = false → ∃ t, exec (.glbRstWarm a v) s₀ = .next t ∧ t.flag Reg.GLB_RST_CTL_MODE = v.getLsbD 2 ∧ t.rd Reg.GLB_RST_STATUS_CAUSE = 3
        ∧ t.boot = { s.boot with warmEntry := true, moveDeadline := false, cause := 3 } ∧ Quiesced s t (v.getLsbD 2) [0x60, 0x64]))
  ∧ (∀ (x : Pair) (s : State), s.boot.warmEntry = true → exec (.curatorPlan x) s = .next s)
  ∧ (∀ s : State, s.boot.warmEntry = true → s.boot.moveDeadline = false → s.disablesOver = true → s.isSafe = false →
      ∃ t, exec .warmEntryMoveDeadline s = .next t ∧ t.boot = { s.boot with moveDeadline := true } ∧ t.place.slots = []
        ∧ (∀ g, g < 2 → t.rd (Reg.GFT_PORT_STATUS_STATE g) = 0)
        ∧ ((∀ g, g < 2 → s.rd (Reg.GFT_PORT_STATUS_STATE g) = 0) → s.place.slots = [] → t = { s with boot := { s.boot with moveDeadline := true } })
        ∧ ((∀ g, g < 2 → s.rd (Reg.GFT_PORT_STATUS_STATE g) = 0) → ∀ e ∈ s.place.slots, (∀ f ∈ s.place.slots, f.2.page = e.2.page → f = e) → Tbl.look s.place.slots e.1 = some e.2 →
            (t.acc e.2.page).form = e.2.src.form))
  ∧ ∀ s : State, s.boot.warmEntry = false ∨ s.boot.moveDeadline = true ∨ s.disablesOver = false ∨ s.isSafe = true → exec .warmEntryMoveDeadline s = .next s

/-- PERSTp_N (R383, R410, Table 2.9): asserted, the pin is noted and the links of the port's heads go down: ACTIVE and DRAINING LDs of a link that was up stop abruptly, IO_UP ones are DOWN, and other LDs keep their state and every LD its extents; deasserted,
the pin alone changes. -/
def Sys2Proof.Machine.PortResetsTakeEffect : Prop :=
  (∀ (p : Fin 4) (s : State), (∀ k, k < 4 → s.linkUp (4 * p + k) = false) → exec (.perstAssert p) s = .next { s with boot := { s.boot with perst := s.boot.perst ||| (1#4 <<< p.val) } })
  ∧ (∀ (p : Fin 4) (s : State), ∃ t, exec (.perstAssert p) s = .next t ∧ t.boot = { s.boot with perst := s.boot.perst ||| (1#4 <<< p.val) }
      ∧ (∀ k, k < 4 → t.linkUp (4 * p + k) = false ∧ (s.linkUp (4 * p + k) = true → t.rd (Reg.GLB_HEAD_STATUS_PSTATE (4 * p + k)) = 6))
      ∧ (∀ h, h < 16 → h / 4 ≠ p.val → t.linkUp h = s.linkUp h)
      ∧ (∀ j, (t.ld? j).map (fun d => (d.st, d.disabled, d.exts)) = (s.ld? j).map (fun d =>
          (if d.head / 4 = p.val ∧ s.linkUp d.head = true then (match d.st with | .active => .stopping | .draining => .stopping | .ioUp => .down | x => x) else d.st, d.disabled, d.exts)))
      ∧ t.media = s.media ∧ t.regions = s.regions ∧ t.sec.keys = s.sec.keys
      ∧ (s.lds = [] → ∀ h, h < 16 → h / 4 ≠ p.val → t.word (0x80 + 4 * h) = s.word (0x80 + 4 * h)))
  ∧ ∀ (p : Fin 4) (s : State), exec (.perstDeassert p) s = .next { s with boot := { s.boot with perst := s.boot.perst &&& ~~~(1#4 <<< p.val) } }

/-- Warm-reset entry (R385, R393, Table 18.4): WARM_RST_N or a keyed GLB_RST_CTL.WARM records the cause, and every LD is disabled in MODE, queues being deleted; during an entry, or while the die is in reset, a trigger has no effect, and in the
safe state nothing is left to quiesce. Curator planning stops. At the end of step 3 every move still running is aborted and both Graft ports are down. PERSTp_N (R383, R410): asserted, the pin is noted and the links of the port's heads go down, with their LDs; deasserted, the pin alone changes. -/
def Obligations.WarmAndPortResetsTakeEffect : Prop := WarmResetEntryTakesEffect ∧ PortResetsTakeEffect

/-- What the central die, and the dies of the memory PHY, hold after steps 4 to 6 of a warm-reset entry of a Kelorn that lends nothing (Tables 0.5, 18.4 and 18.5): LDs with their heads, indices, extent maps and DC regions; regions and slots; configuration registers by the access types
of their fields; the OTP, the flash, head modes and settings in use; and the Gatehouse. Directory, requests, jobs, moves and leases are gone. With nothing buffered or queued, or after a safe state, memory and the accession entries are as they were. -/
def Sys2Proof.Machine.WarmFrom (s u : State) : Prop :=
  u.boot.released = false ∧ u.boot.kind = .warm ∧ u.boot.afterSafe = s.isSafe ∧ u.boot.warmEntry = false ∧ u.boot.settings = s.boot.settings ∧ u.gth.aux = s.gth.aux
  ∧ u.rd Reg.GLB_RST_STATUS_WARM_COUNT = min 65535 (s.rd Reg.GLB_RST_STATUS_WARM_COUNT + 1)
  ∧ (∀ i, u.ld? i = (s.ld? i).map (fun d =>
      { head := d.head, ldId := d.ldId, manage := d.manage, lastAbrupt := d.lastAbrupt, drainPoisoned := d.drainPoisoned, disabled := d.disabled, dcRegions := d.dcRegions,
        exts := (d.exts.filter (fun e => !e.releasing)).map (fun e => { e with port := true, slices := BitVec.allOnes 32 }) }))
  ∧ (∀ i, (Tbl.look u.regions i).map (fun r => (r.base, r.len, r.hdmDb, r.cls, r.key, r.oldKey, r.oldValid, r.cursor, r.sbase, r.place, r.spillOk, r.mask, r.lend))
      = (Tbl.look s.regions i).map (fun r => (r.base, r.len, r.hdmDb, r.cls, r.key, r.oldKey, r.oldValid, r.cursor, r.sbase, r.place, r.spillOk, r.mask, r.lend)))
  ∧ (∀ k, u.key k = s.key k)
  ∧ (∀ off, off ∈ [0x40, 0x50, 0x200, 0x204, 0x200000, 0x300000, 0x500000, 0x2000000, 0x2000004, 0x2000008] ∨ 0x200200 ≤ off ∧ off < 0x200400 ∨ 0x201000 ≤ off ∧ off < 0x201800 →
      u.word off = keptWord 1 off (s.word off))
  ∧ u.mgmt.otp = s.mgmt.otp ∧ u.mgmt.flash = s.mgmt.flash ∧ u.mgmt.erased = s.mgmt.erased ∧ u.mgmt.mld = s.mgmt.mld
  ∧ u.dir = {} ∧ u.path = {} ∧ u.press = { fails := s.press.fails } ∧ u.graft = [] ∧ u.borrow = [] ∧ u.lent = [] ∧ u.heads = [] ∧ u.place.slots = [] ∧ u.mgmt.bg = [] ∧ u.mgmt.held = []
  ∧ ((∀ c, (s.ch c).wq = []) → s.isSafe = true ∨ (s.path.wcb = [] ∧ s.sec.cache = [] ∧ s.sec.due = [] ∧ s.sec.locks = [] ∧ s.place.accDirty = []) →
      u.media = s.media ∧ u.place.acc = s.place.acc ∧ u.place.chans = s.place.chans)

/-- The release of the central die (R386, Table 18.2): it asks for the auxiliary supply, and for a die that is in reset; in a die that is released it has no effect unless a warm-reset entry is complete, whose
remaining steps then run first, and what they keep is what the boot starts from (Table 18.5). With no image that verifies, the boot ends in recovery mode: BOOT_STATUS.STATE reads 2, no pair is healthy, the phase is 8, and LAST_KIND names the reset (R356, R388).
With one that verifies, BOOT_STATUS names its slot and key, the pairs that are not kept offline are healthy, the configuration is loaded, after a cold reset one LD stands at each head that exists (R38, R41), and the rate is shown (R45). -/
def Obligations.CentralDieReleaseTakesEffect : Prop :=
  (∀ (env : BootEnv) (s : State), s.gth.aux = false → exec (.centralDieRelease env) s = .next s)
  ∧ (∀ (env : BootEnv) (s : State), s.boot.released = true → s.boot.warmEntry = false ∨ (s.boot.moveDeadline = false ∧ s.isSafe = false) → exec (.centralDieRelease env) s = .next s)
  ∧ (∀ (env : BootEnv) (s : State), s.Canonical → s.gth.aux = true → s.boot.released = true → s.boot.warmEntry = true → s.boot.moveDeadline = true ∨ s.isSafe = true → s.lent = [] →
      ∃ u t, WarmFrom s u ∧ exec (.centralDieRelease env) s = .next t ∧ exec (.centralDieRelease env) u = .next t)
  ∧ (∀ (env : BootEnv) (s : State), s.gth.aux = true → s.boot.released = false → (s.pickImage (setField s.takeSettings.boot.settings 0x0E 1)).run = none →
      ∃ t, exec (.centralDieRelease env) s = .next t ∧ t.boot.released = true ∧ t.boot.pwrok = true ∧ t.tick = 0 ∧ t.rd Reg.BOOT_STATUS_STATE = 2
        ∧ t.rd Reg.GLB_WDN_STATUS_HEALTHY = 0 ∧ t.rd Reg.GLB_RST_STATUS_PHASE = 8
        ∧ t.rd Reg.GLB_RST_STATUS_LAST_KIND = (match s.boot.kind with | .standby => 0 | .cold => 1 | .warm => 2) ∧ t.boot.cfgLoaded = s.boot.cfgLoaded)
  ∧ ∀ (env : BootEnv) (s : State) (slot key : Nat), s.gth.aux = true → s.boot.released = false → (s.pickImage (setField s.takeSettings.boot.settings 0x0E 1)).run = some (slot, key) →
      ∃ t, exec (.centralDieRelease env) s = .next t ∧ t.boot.released = true ∧ t.boot.pwrok = true ∧ t.tick = 0 ∧ t.boot.cfgLoaded = true ∧ t.rd Reg.BOOT_STATUS_STATE = 1
        ∧ t.rd Reg.BOOT_STATUS_SLOT = slot % 2 ∧ t.rd Reg.BOOT_STATUS_KEY = key % 4 ∧ t.rd Reg.GLB_WDN_STATUS_HEALTHY = 255 - s.rd Reg.GLB_WDN_STATUS_OFFLINE
        ∧ 4 ≤ t.rd Reg.GLB_RST_STATUS_PHASE ∧ t.rd Reg.GLB_RST_STATUS_LAST_KIND = (match s.boot.kind with | .standby => 0 | .cold => 1 | .warm => 2)
        ∧ t.rd Reg.GLB_FW_ID_FW_VERSION = ofBytes (s.flashBytes (slotBase slot + 4) 4) ∧ t.rd Reg.GLB_RATE_RATE = 100 * t.rootN
        ∧ (s.boot.kind ≠ .warm → ∀ h, h < 16 → t.headExists h = true → (t.ld? h).map (fun d => (d.head, d.ldId, d.manage, d.st, d.exts)) = some (h, 0, false, .down, []))

/-! ### Heads and logical devices -/

/-- No request is in a slice or on a bench. -/
abbrev Sys2Proof.Machine.State.noTxn (s : State) : Prop := s.path.txns = [] ∧ s.dir.bench = []

/-- A head's link may train to a width: the settings are loaded, the head exists and its link is down, its port is not in reset, the main rails are good, the block is neither in the safe state nor
entering a warm reset, and the width is within the port's split. -/
abbrev Sys2Proof.Machine.State.trains (s : State) (h width : Nat) : Prop :=
  s.boot.cfgLoaded = true ∧ s.headExists h = true ∧ s.linkUp h = false ∧ s.boot.perst.getLsbD (h / 4) = false ∧ s.boot.pwrok = true ∧ s.isSafe = false ∧ s.boot.warmEntry = false
    ∧ width ≤ s.fullWidth h

/-- An LD that is IO_UP has, beside Memory Space Enable and a committed decoder, what it needs to become ACTIVE (Table 2.9). -/
abbrev Sys2Proof.Machine.State.mayServe (s : State) (d : Ld) : Prop :=
  d.st = .ioUp ∧ d.disabled = false ∧ d.resetClr = none ∧ s.boot.warmEntry = false ∧ s.flag (Reg.GLB_HEAD_STATUS_MEM_OK d.head) = true

/-- An LD that leaves DRAINING or STOPPING with its link up has what ACTIVE needs (Table 2.9). -/
abbrev Sys2Proof.Machine.State.resumes (s : State) (d : Ld) : Prop :=
  d.memSpace = true ∧ d.decoders ≠ [] ∧ d.disabled = false ∧ d.resetClr = none ∧ s.boot.warmEntry = false ∧ s.flag (Reg.GLB_HEAD_STATUS_MEM_OK d.head) = true

/-- A head's link (R39, R40, R48, R64, R67). HEAD_LINK_UP shows the trained link and brings each LD of the head that is DOWN to IO_UP with its CDAT fixed; a link of a rate or flit mode that cannot carry
CXL.mem leaves MEM_OK clear. HEAD_LINK_DOWN clears the head's status, and an LD that is IO_UP goes DOWN with its decoders uncommitted and its configuration, mailbox and MSI-X at their reset values, while an ACTIVE
or DRAINING one is stopped abruptly, and keeps them until it is DOWN; what was written to the link registers, and its BI credits, go with the link. HEAD_LINK_RETRAIN counts and shows the new width. What is not admitted has no effect. -/
def Sys2Proof.Machine.HeadLinkCommandsTakeEffect : Prop :=
  (∀ (h : Head) (rate : Fin 6) (width : Fin 5) (flit : Fin 3) (s : State), ¬ s.trains h width → exec (.headLinkUp h rate width flit) s = .next s)
  ∧ (∀ (h : Head) (rate : Fin 6) (width : Fin 5) (flit : Fin 3) (s : State), s.trains h width → ∃ t, exec (.headLinkUp h rate width flit) s = .next t
      ∧ t.linkUp h = true ∧ t.rd (Reg.GLB_HEAD_STATUS_RATE h) = rate ∧ t.rd (Reg.GLB_HEAD_STATUS_WIDTH h) = width ∧ t.rd (Reg.GLB_HEAD_STATUS_FLIT h) = flit
      ∧ t.rd (Reg.GLB_HEAD_STATUS_PSTATE h) = 0 ∧ t.flag (Reg.GLB_HEAD_STATUS_MEM_OK h) = decide (1 ≤ flit.val ∧ 2 ≤ rate.val)
      ∧ (1 ≤ flit.val → 2 ≤ rate.val → OnlyWords { s with lds := t.lds, qos := t.qos, heads := t.heads } t [0x80 + 4 * h] ∧ (t.hd h).traffic = s.tick
        ∧ (∀ i d, i ∈ s.ldsOf h → s.ld? i = some d → t.ld? i = some { d with st := if d.st = .down then .ioUp else d.st, cdat := s.cdatOf d (lanesOf width) })
        ∧ ∀ i, i ∉ s.ldsOf h → t.ld? i = s.ld? i))
  ∧ (∀ (h : Head) (s : State), s.linkUp h = false → exec (.headLinkDown h) s = .next s)
  ∧ (∀ (h : Head) (s : State), s.linkUp h = true → s.mgmt.bg = [] → s.noTxn → s.dir.exchs = [] → ∃ t, exec (.headLinkDown h) s = .next t
      ∧ t.linkUp h = false ∧ t.flag (Reg.GLB_HEAD_STATUS_MEM_OK h) = false ∧ t.rd (Reg.GLB_HEAD_STATUS_WIDTH h) = 0 ∧ t.rd (Reg.GLB_HEAD_STATUS_PSTATE h) = 6
      ∧ (t.hd h).link = [] ∧ (t.hd h).fm = [] ∧ Tbl.look t.dir.credits h = none
      ∧ (∀ i d, i ∈ s.ldsOf h → s.ld? i = some d → ∃ e, t.ld? i = some e ∧ e.exts = d.exts
          ∧ e.st = (match d.st with | .active => .stopping | .draining => .stopping | .ioUp => .down | x => x)
          ∧ (d.st = .ioUp → e.decoders = [] ∧ e.decRegs = [] ∧ e.cfg = [] ∧ e.msix = [] ∧ e.pba = 0 ∧ e.memSpace = false ∧ e.mbox = {})
          ∧ (d.st ≠ .ioUp → e.decoders = d.decoders ∧ e.cfg = d.cfg ∧ e.msix = d.msix))
      ∧ (∀ i, i ∉ s.ldsOf h → t.ld? i = s.ld? i) ∧ ∀ k, k < 16 → k ≠ h.val → t.word (0x80 + 4 * k) = s.word (0x80 + 4 * k))
  ∧ (∀ (h : Head) (width : Fin 5) (s : State), s.linkUp h = false ∨ s.fullWidth h < width → exec (.headLinkRetrain h width) s = .next s)
  ∧ ∀ (h : Head) (width : Fin 5) (s : State), s.linkUp h = true → width ≤ s.fullWidth h → ∃ t, exec (.headLinkRetrain h width) s = .next t
      ∧ t.rd (Reg.GLB_HEAD_STATUS_WIDTH h) = width ∧ t.rd (Reg.GLB_HEAD_STATUS_PSTATE h) = 0 ∧ t.linkUp h = true
      ∧ t.rd (Reg.GLB_HEAD_STATUS_RETRAINS h) = min (s.rd (Reg.GLB_HEAD_STATUS_RETRAINS h) + 1) (2 ^ (Reg.GLB_HEAD_STATUS_RETRAINS h).w - 1)
      ∧ OnlyWords { s with qos := t.qos, cat := t.cat } t [0x80 + 4 * h]

/-- Link power (R61 to R63): ASPM L1 is entered on a head that has been idle for L1_IDLE and has nothing pending, where Link Control enables it, in L0 or L0p; L1_EXIT brings a link in L1 back to L0; an L0p request is granted when its width is not above the trained one;
after PME_TO_Ack the link is in L2/L3 Ready. Each change leaves the block as a link message; what is not admitted has no effect. -/
def Sys2Proof.Machine.LinkPowerCommandsTakeEffect : Prop :=
  (∀ (h : Head) (sub : Fin 3) (s : State), (s.linkUp h && decide (s.rd (Reg.GLB_HEAD_STATUS_PSTATE h) ≤ 1) && s.aspmOn h && s.headIdle h && !s.headBusy h) = true → ∃ t, exec (.aspmL1Entry h sub) s = .next t
      ∧ t.rd (Reg.GLB_HEAD_STATUS_PSTATE h) = 2 + sub ∧ t.out = .linkPower h (2 + sub) :: s.out ∧ t.linkUp h = true
      ∧ OnlyWords { s with out := t.out, qos := t.qos, cat := t.cat } t [0x80 + 4 * h])
  ∧ (∀ (h : Head) (sub : Fin 3) (s : State), (s.linkUp h && decide (s.rd (Reg.GLB_HEAD_STATUS_PSTATE h) ≤ 1) && s.aspmOn h && s.headIdle h && !s.headBusy h) = false → exec (.aspmL1Entry h sub) s = .next s)
  ∧ (∀ (h : Head) (s : State), s.linkUp h = true → 2 ≤ s.rd (Reg.GLB_HEAD_STATUS_PSTATE h) → s.rd (Reg.GLB_HEAD_STATUS_PSTATE h) ≤ 4 → ∃ t, exec (.l1Exit h) s = .next t
      ∧ t.rd (Reg.GLB_HEAD_STATUS_PSTATE h) = 0 ∧ t.out = .linkPower h 0 :: s.out ∧ OnlyWords { s with out := t.out, heads := t.heads } t [0x80 + 4 * h])
  ∧ (∀ (h : Head) (s : State), s.linkUp h = false → exec (.l1Exit h) s = .next s)
  ∧ (∀ (h : Head) (s : State), s.linkUp h = true → s.rd (Reg.GLB_HEAD_STATUS_PSTATE h) ≤ 1 ∨ 5 ≤ s.rd (Reg.GLB_HEAD_STATUS_PSTATE h) →
      exec (.l1Exit h) s = .next (s.updHead h (fun x => { x with traffic := s.tick })))
  ∧ (∀ (h : Head) (width : Fin 5) (s : State), s.linkUp h = true → s.rd (Reg.GLB_HEAD_STATUS_PSTATE h) ≤ 1 → width ≤ s.rd (Reg.GLB_HEAD_STATUS_WIDTH h) → ∃ t, exec (.l0pRequest h width) s = .next t
      ∧ t.rd (Reg.GLB_HEAD_STATUS_PSTATE h) = (if width = s.rd (Reg.GLB_HEAD_STATUS_WIDTH h) then 0 else 1) ∧ t.rd (Reg.GLB_HEAD_STATUS_WIDTH h) = s.rd (Reg.GLB_HEAD_STATUS_WIDTH h)
      ∧ OnlyWords { s with out := t.out, qos := t.qos } t [0x80 + 4 * h])
  ∧ (∀ (h : Head) (width : Fin 5) (s : State), s.linkUp h = false ∨ 2 ≤ s.rd (Reg.GLB_HEAD_STATUS_PSTATE h) ∨ s.rd (Reg.GLB_HEAD_STATUS_WIDTH h) < width → exec (.l0pRequest h width) s = .next s)
  ∧ (∀ (h : Head) (s : State), s.linkUp h = true → ∃ t, exec (.pmeTurnOff h) s = .next t ∧ t.rd (Reg.GLB_HEAD_STATUS_PSTATE h) = 5 ∧ t.out = .linkPower h 5 :: s.out
      ∧ OnlyWords { s with out := t.out, qos := t.qos } t [0x80 + 4 * h])
  ∧ ∀ (h : Head) (s : State), s.linkUp h = false → exec (.pmeTurnOff h) s = .next s

/-- A head's link (R39, R40, R48, R64, R67). HEAD_LINK_UP shows the trained link and brings each LD of the head that is DOWN to IO_UP with its CDAT fixed; a link of a rate or flit mode that cannot carry
CXL.mem leaves MEM_OK clear. HEAD_LINK_DOWN clears the head's status, and an LD that is IO_UP goes DOWN with its decoders uncommitted and its configuration, mailbox and MSI-X at their reset values, while an ACTIVE
or DRAINING one is stopped abruptly, and keeps them until it is DOWN; what was written to the link registers, and its BI credits, go with the link. HEAD_LINK_RETRAIN counts and shows the new width. What is not admitted has no effect. Link power (R61 to R63): ASPM L1 is entered on a head that has been idle for L1_IDLE and has nothing pending, where Link Control enables it, in L0 or L0p; L1_EXIT brings a link in L1 back to L0; an L0p request is granted when its width is not above the trained one;
after PME_TO_Ack the link is in L2/L3 Ready. Each change leaves the block as a link message; what is not admitted has no effect. -/
def Obligations.LinkCommandsTakeEffect : Prop := HeadLinkCommandsTakeEffect ∧ LinkPowerCommandsTakeEffect

/-- Configuration space, decoders, CDAT and MSI-X of an LD (R46 to R50, R60, R64): a request of an LD that does not exist, or whose link is down, has no effect; an LD that is STOPPING answers with Configuration
Request Retry Status; a read returns the word, of which the device identity and VDV_DETACH_STATUS are given here; setting Memory Space Enable, or committing a decoder that passes the checks of Table 2.6,
makes an LD ACTIVE that has the other, and a decoder that fails them has its error bit set; unmasking a vector that is pending sends its message once. -/
def Obligations.LdAccessCommandsTakeEffect : Prop :=
  (∀ (i : LdIx) (write : Bool) (off : BitVec 12) (v : Word) (k : Fin 4) (base size skip iw ig : Nat) (s : State), s.ld? i = none ∨ (∃ d, s.ld? i = some d ∧ s.linkUp d.head = false) →
      exec (.configAccess (.ld i) write off v) s = .next s ∧ exec (.memorySpaceEnable i) s = .next s ∧ exec (.hdmDecoderCommit i k base size skip iw ig) s = .next s
      ∧ exec (.cdatTableAccess i) s = .next s)
  ∧ (∀ (i : LdIx) (write : Bool) (off : BitVec 12) (v : Word) (s : State) (d : Ld), s.ld? i = some d → s.linkUp d.head = true → d.st = .stopping →
      exec (.configAccess (.ld i) write off v) s = .next ((s.wakeLink d.head).emit (.cfgData (.ld i) none)))
  ∧ (∀ (i : LdIx) (off : BitVec 12) (v : Word) (s : State) (d : Ld), s.ld? i = some d → s.linkUp d.head = true → d.st ≠ .stopping →
      ∃ w, exec (.configAccess (.ld i) false off v) s = .next ((s.wakeLink d.head).emit (.cfgData (.ld i) (some w))).advanceFree
        ∧ (off.toNat / 4 = 0 → w = BitVec.ofNat 32 (0x9640 * 2 ^ 16 + Config.vendorId.toNat))
        ∧ (off.toNat / 4 = 0xC9 → bitsOf w 0 3 = ldCode d.st ∧ w.getLsbD 3 = d.lastAbrupt ∧ w.getLsbD 4 = d.drainPoisoned ∧ w.getLsbD 5 = d.disabled))
  ∧ (∀ (i : LdIx) (v : Word) (s : State) (d : Ld), s.ld? i = some d → s.linkUp d.head = true → d.st ≠ .stopping →
      exec (.configAccess (.ld i) true 0x000#12 v) s = .next (s.wakeLink d.head)
      ∧ ∃ t e, exec (.configAccess (.ld i) true 0x004#12 v) s = .next t ∧ t.ld? i = some e ∧ e.memSpace = v.getLsbD 1 ∧ t = { s.wakeLink d.head with lds := t.lds } ∧ ∀ j, j ≠ i.val → t.ld? j = s.ld? j)
  ∧ (∀ (h : Head) (write : Bool) (off : BitVec 12) (v : Word) (s : State), s.isMld h = false ∨ s.linkUp h = false → exec (.configAccess (.fmOwned h) write off v) s = .next s)
  ∧ (∀ (h : Head) (off : BitVec 12) (v : Word) (s : State), s.isMld h = true → s.linkUp h = true →
      ∃ w, exec (.configAccess (.fmOwned h) false off v) s = .next ((s.wakeLink h).emit (.cfgData (.fmOwned h) (some w))).advanceFree)
  ∧ (∀ (h : Head) (v : Word) (s : State), s.isMld h = true → s.linkUp h = true →
      ∃ t, exec (.configAccess (.fmOwned h) true 0x060#12 v) s = .next t ∧ t = { s.wakeLink h with heads := t.heads } ∧ t.aspmOn h = v.getLsbD 1)
  ∧ (∀ (i : LdIx) (s : State) (d : Ld), s.ld? i = some d → s.linkUp d.head = true → d.st ≠ .down → d.st ≠ .stopping → ∃ t, exec (.memorySpaceEnable i) s = .next t
      ∧ t.ld? i = some { d with memSpace := true, st := if s.mayServe d ∧ d.decoders ≠ [] then .active else d.st }
      ∧ t = { s with lds := t.lds } ∧ ∀ j, j ≠ i.val → t.ld? j = s.ld? j)
  ∧ (∀ (i : LdIx) (k : Fin 4) (base size skip iw ig : Nat) (s : State) (d : Ld), s.ld? i = some d → s.linkUp d.head = true → d.st ≠ .down → d.st ≠ .stopping → Tbl.look d.decoders k = none →
      ∃ t e, exec (.hdmDecoderCommit i k base size skip iw ig) s = .next t ∧ t.ld? i = some e ∧ t = { s with lds := t.lds } ∧ (∀ j, j ≠ i.val → t.ld? j = s.ld? j)
        ∧ (∀ x, d.checkDecoder k base size skip iw ig = some x → e.decoders = Tbl.put d.decoders k x ∧ e.decErr.getLsbD k = false
            ∧ e.st = (if s.mayServe d ∧ d.memSpace = true then .active else d.st))
        ∧ (d.checkDecoder k base size skip iw ig = none → e = { d with decRegs := Tbl.putD d.decRegs {} k { base := base, size := size, skip := skip, iw := iw, ig := ig }, decErr := d.decErr ||| (1#4 <<< k.val) }))
  ∧ (∀ (i : LdIx) (s : State) (d : Ld), s.ld? i = some d → s.linkUp d.head = true → d.st ≠ .down → d.st ≠ .stopping → exec (.cdatTableAccess i) s = .next (s.emit (.cdat i d.cdat)))
  ∧ (∀ (i : LdIx) (v : Fin 32) (s : State) (d : Ld), s.ld? i = some d → s.isSafe = false → d.fnMask = false → d.pba = 1#32 <<< v.val → ∃ t, exec (.msixUnmask i (some v)) s = .next t
      ∧ t.out = .msix i v (Tbl.lookD d.msix {} v).addr (Tbl.lookD d.msix {} v).data :: s.out
      ∧ t.ld? i = some { d with pba := 0, msix := Tbl.putD d.msix {} v { Tbl.lookD d.msix {} v with mask := false } })
  ∧ ∀ (i : LdIx) (v : Option (Fin 32)) (s : State), s.ld? i = none → exec (.msixUnmask i v) s = .next s

/-- Disable, drain and resets of an LD (R64 to R68, R116, R118): a CXL Reset drains an ACTIVE LD and is noted on one that is IO_UP; a Function Level Reset clears MSI-X, the mailbox, Memory Space Enable and all
configuration but the VDV windows and link registers, and keeps state and decoders; a drain ends only when its walk is over and what was in flight has completed, and a stop when its walk is over:
the LD is then IO_UP, or at once ACTIVE where its decoders and enables let it be, and LAST_ABRUPT tells how it got there; 10 ms after it began a drain ends in any case. -/
def Obligations.LdResetCommandsTakeEffect : Prop :=
  (∀ (i : LdIx) (clr : Bool) (s : State), s.ld? i = none → exec (.cxlReset i clr) s = .next s ∧ exec (.functionLevelReset i) s = .next s ∧ exec (.drainComplete i) s = .next s
      ∧ exec (.gracefulDrainBound i) s = .next s ∧ exec (.stopComplete i) s = .next s)
  ∧ (∀ (i : LdIx) (clr : Bool) (s : State) (d : Ld), s.ld? i = some d → s.linkUp d.head = true → d.st = .ioUp ∨ d.st = .draining →
      ∃ t, exec (.cxlReset i clr) s = .next t ∧ t.ld? i = some { d with resetClr := some clr } ∧ t = { s with lds := t.lds } ∧ ∀ j, j ≠ i.val → t.ld? j = s.ld? j)
  ∧ (∀ (i : LdIx) (clr : Bool) (s : State) (d : Ld), s.ld? i = some d → s.linkUp d.head = true → d.st = .active → ∃ t, exec (.cxlReset i clr) s = .next t
      ∧ t.ld? i = some { d with resetClr := some clr, st := .draining, drainPoisoned := false, lastAbrupt := false, drainAt := s.tick }
      ∧ t.dir.walks = s.dir.walks ++ [{ why := .graceful i, head := d.head }] ∧ (∀ j, j ≠ i.val → t.ld? j = s.ld? j) ∧ ∀ q, q < 64 → s.qLd q = i.val → t.flag (Reg.PRS_Q_CFG_EN q) = false)
  ∧ (∀ (i : LdIx) (s : State) (d : Ld), s.ld? i = some d → s.linkUp d.head = false ∨ d.st = .down ∨ d.st = .stopping → exec (.functionLevelReset i) s = .next s)
  ∧ (∀ (i : LdIx) (s : State) (d : Ld), s.ld? i = some d → s.linkUp d.head = true → d.st ≠ .down → d.st ≠ .stopping → s.mgmt.bg = [] → ∃ t e, exec (.functionLevelReset i) s = .next t
      ∧ t.ld? i = some e ∧ e.msix = [] ∧ e.pba = 0 ∧ e.fnMask = false ∧ e.memSpace = false ∧ e.mbox = {} ∧ t.mgmt.replays = s.mgmt.replays ∧ e.st = d.st ∧ e.decoders = d.decoders ∧ e.exts = d.exts
      ∧ (∀ off, Tbl.look e.cfg off = if 0x310 ≤ off ∧ off ≤ 0x320 then Tbl.look d.cfg off else none)
      ∧ (∀ q, q < 64 → s.qLd q = i.val → t.flag (Reg.PRS_Q_CFG_EN q) = false) ∧ t.bit Reg.CAT_USER_EN_USER i = false)
  ∧ (∀ (i : LdIx) (s : State) (d : Ld), s.ld? i = some d → d.st = .draining → d.resetClr = none → s.linkUp d.head = true → exec (.drainComplete i) s = .next
      (if s.ldRuns i = false ∧ s.walkOver (fun w => w == .graceful i) (fun x => x == .drain i) = true then
          State.updLd { s with dir := { s.dir with walks := s.dir.walks.filter (fun w => w.why != .graceful i) } } i (fun d => { d with st := if s.resumes d then .active else .ioUp }) else s))
  ∧ (∀ (i : LdIx) (s : State) (d : Ld), s.ld? i = some d → d.st = .ioUp → d.resetClr = some false → s.ldRuns i = false → s.walkOver (fun w => w == .graceful i) (fun x => x == .drain i) = true →
      ∃ t, exec (.drainComplete i) s = .next t ∧ t.ld? i = some { d with decoders := [], decErr := 0, resetClr := none } ∧ ∀ j, j ≠ i.val → t.ld? j = s.ld? j)
  ∧ (∀ (i : LdIx) (s : State) (d : Ld), s.ld? i = some d → d.st ≠ .draining ∨ s.tick < d.drainAt + s.rootN * 125000 → exec (.gracefulDrainBound i) s = .next s)
  ∧ (∀ (i : LdIx) (s : State) (d : Ld), s.ld? i = some d → d.st = .draining → d.resetClr = none → s.linkUp d.head = true → d.drainAt + s.rootN * 125000 ≤ s.tick →
      (∀ x ∈ s.dir.exchs, x.why ≠ .drain i) → ∃ t, exec (.gracefulDrainBound i) s = .next t ∧ t.ld? i = some { d with st := if s.resumes d then .active else .ioUp } ∧ ∀ w ∈ t.dir.walks, w.why ≠ .graceful i)
  ∧ (∀ (i : LdIx) (s : State) (d : Ld), s.ld? i = some d → d.st = .stopping → s.linkUp d.head = true → s.walkOver (fun w => w == .abrupt i) (fun _ => false) = true →
      ∃ t, exec (.stopComplete i) s = .next t ∧ t.ld? i = some { d with lastAbrupt := true, st := if s.resumes d then .active else .ioUp } ∧ (∀ w ∈ t.dir.walks, w.why ≠ .abrupt i) ∧ ∀ j, j ≠ i.val → t.ld? j = s.ld? j)
  ∧ (∀ (i : LdIx) (s : State) (d : Ld), s.ld? i = some d → d.st = .stopping → s.linkUp d.head = false → s.mgmt.bg = [] → s.walkOver (fun w => w == .abrupt i) (fun _ => false) = true →
      ∃ t e, exec (.stopComplete i) s = .next t ∧ t.ld? i = some e ∧ e.st = .down ∧ e.lastAbrupt = true ∧ e.decoders = [])
  ∧ ∀ (i : LdIx) (s : State) (d : Ld), s.ld? i = some d → d.st ≠ .stopping ∨ s.walkOver (fun w => w == .abrupt i) (fun _ => false) = false → exec (.stopComplete i) s = .next s

/-! ### CXL.mem requests -/

/-- The request that a CXL.mem command carries: its operation, write data, byte enables and poison. A MemWr writes all 64 bytes. -/
def Sys2Proof.Machine.memOf (c : Instr) : Option (MemReq × ReqOp × BitVec 512 × BitVec 64 × Bool) :=
  match c with
  | .memRd r => some (r, .rd, 0, 0, false)
  | .memRdData r => some (r, .rdData, 0, 0, false)
  | .memInv r => some (r, .inv, 0, 0, false)
  | .memClnEvct r => some (r, .evict, 0, 0, false)
  | .memWr r d po => some (r, .wr, d, BitVec.allOnes 64, po)
  | .memWrPtl r d be po => some (r, .wr, d, be, po)
  | _ => none

/-- A head's port takes a request: its link is up and carries CXL.mem, the block is not in the safe state, and a credit is left (R88). -/
abbrev Sys2Proof.Machine.State.portTakes (s : State) (h : Nat) (op : ReqOp) : Prop :=
  s.linkUp h = true ∧ s.flag (Reg.GLB_HEAD_STATUS_MEM_OK h) = true ∧ s.isSafe = false ∧ s.hasCredit h (op == .wr) = true

/-- The answer to a request that ends without reaching memory: a read gets data, anything else a completion. -/
def Sys2Proof.Machine.portAnswer (r : MemReq) (op : ReqOp) (poison : Bool) (mv : MetaV) : Out :=
  if op = .rd ∨ op = .rdData then .memData r.head r.tag.toNat 0 poison mv else .cmp r.head r.tag.toNat mv

/-- A request that the port queues for its slice: where it leads, and the class, tier and deadline it takes (R267 to R272). -/
def Sys2Proof.Machine.State.queued (s : State) (r : MemReq) (op : ReqOp) (data : BitVec 512) (be : BitVec 64) (poison : Bool) (i line ldDpa label bucket : Nat) (sampled : Bool) : Req :=
  let cls := s.classOf r.head label
  { id := s.path.nextId, src := .head r.head, ld := i, op := op, line := line, ldDpa := ldDpa, tag := r.tag.toNat, snp := r.snp, mv := r.mv, data := data, be := be, poison := poison,
    cls := cls, tier := s.tierOf cls, deadline := s.deadlineOf cls bucket, bucket := bucket, arrival := s.tick, sampled := sampled }

/-- A CXL.mem request at a head's port (R51 to R54, R64, R65, R81, R83, R88, R101, R387; Tables 2.9, 2.10 and 3.1). A link in L1 is woken (R63). A request is not taken without a link, a credit or the right to send CXL.mem. A request of an LD that
the head does not have is unbacked, and so is one of an ACTIVE LD that no decoder or extent covers, or before Mem_Active: a read completes with zeros and poison, a write is discarded and completes. An LD that is
disabled or STOPPING completes with error. A request that decodes joins the head's queue with its class, tier and deadline. In an alias window a write of the doorbell line is a fence over the head's earlier writes,
and with the faults of the writes discarded since its last fence (R93), other requests of that line, and requests of the hole, complete with zeros. A draining LD takes ClnEvct and snoop data only. MemSpecRd starts nothing. Memory is never changed at the port. -/
def Obligations.MemRequestsAtThePort : Prop :=
  (∀ (r : MemReq) (s : State), ∃ t, exec (.memSpecRd r) s = .next t ∧ t.out = (if s.portTakes r.head .rd then (s.wakeLink r.head).out else s.out) ∧ t.path = s.path ∧ t.dir = s.dir ∧ t.media = s.media ∧ t.lds = s.lds
      ∧ (¬ s.portTakes r.head .rd → t = s))
  ∧ ∀ (c : Instr) (r : MemReq) (op : ReqOp) (data : BitVec 512) (be : BitVec 64) (poison : Bool) (s : State), memOf c = some (r, op, data, be, poison) →
    (s.linkUp r.head = false ∨ s.flag (Reg.GLB_HEAD_STATUS_MEM_OK r.head) = false ∨ s.isSafe = true ∨ s.hasCredit r.head (op == .wr) = false → exec c s = .next s)
    ∧ (s.portTakes r.head op → s.ldOfReq r.head r.ldId = none → ∃ t, exec c s = .next t ∧ t.out = portAnswer r op true .noOp :: (s.wakeLink r.head).out ∧ t.path.ingress = s.path.ingress ∧ t.media = s.media)
    ∧ ∀ (i : Nat) (d : Ld), s.portTakes r.head op → s.ldOfReq r.head r.ldId = some i → s.ld? i = some d →
      (d.welcome = .error → ∃ t, exec c s = .next t ∧ t.out = .memErr r.head r.tag.toNat :: (s.wakeLink r.head).out ∧ t.path.ingress = s.path.ingress ∧ t.media = s.media)
      ∧ (d.welcome = .miss ∨ d.welcome = .serve ∧ (d.decode r.hpa = .miss ∨ ∃ a l b al, d.decode r.hpa = .dpa a l b al ∧ (s.boot.memActive = false ∨ s.reqDpa d r.head a op = none)) →
          ∃ t, exec c s = .next t ∧ t.out.head? = some (portAnswer r op true .noOp) ∧ t.path.ingress = s.path.ingress ∧ t.media = s.media)
      ∧ (d.welcome = .serve → ∀ l b, d.decode r.hpa = .hole l b ∨ d.decode r.hpa = .bell l b ∧ op ≠ .wr →
          ∃ t, exec c s = .next t ∧ t.out = portAnswer r op false r.mv :: (s.wakeLink r.head).out ∧ t.path.ingress = s.path.ingress ∧ t.media = s.media)
      ∧ (∀ l b, d.welcome = .serve → d.decode r.hpa = .bell l b → op = .wr → ∃ t, exec c s = .next t ∧ t.out = (s.wakeLink r.head).out ∧ t.path.ingress = s.path.ingress ∧ t.media = s.media
          ∧ t.path.fences = s.path.fences ++ [{ head := r.head, ld := i, tag := r.tag.toNat, mark := s.path.nextId + 1, waits := s.openWrites r.head, fault := (s.hd r.head).lostWrite }] ∧ (t.hd r.head).lostWrite = false)
      ∧ (∀ a l b al x, d.welcome = .serve → d.decode r.hpa = .dpa a l b al → s.boot.memActive = true → s.reqDpa d r.head a op = some x → ∃ t sampled, exec c s = .next t ∧ t.out = (s.wakeLink r.head).out ∧ t.media = s.media
          ∧ t.path.ingress = s.path.ingress ++ [s.queued r op data be poison i (x / 64) a (if al then l else s.rd (Reg.QOS_HEAD_CTL_DEFAULT_LABEL r.head)) b sampled])
      ∧ (d.welcome = .drain → (∀ a l b al x, d.decode r.hpa = .dpa a l b al → s.reqDpa d r.head a op = some x → op ≠ .evict ∧ ¬ (op = .wr ∧ (s.exchFor r.head (x / 64)).isSome = true)) → ∃ t, exec c s = .next t ∧ t.out = .memErr r.head r.tag.toNat :: (s.wakeLink r.head).out ∧ t.path.ingress = s.path.ingress ∧ t.media = s.media)
      ∧ (∀ a l b al x, d.welcome = .drain → op = .evict ∨ op = .wr ∧ (s.exchFor r.head (x / 64)).isSome = true → d.decode r.hpa = .dpa a l b al → s.reqDpa d r.head a op = some x → ∃ t sampled, exec c s = .next t ∧ t.out = (s.wakeLink r.head).out ∧ t.media = s.media
          ∧ t.path.ingress = s.path.ingress ++ [s.queued r op data be poison i (x / 64) a (if al then l else s.rd (Reg.QOS_HEAD_CTL_DEFAULT_LABEL r.head)) b sampled])

/-- Back-invalidate messages from a head (R97, R106, R107, R114, R118). A BIRsp that nobody awaits is counted and discarded; one that ends a drain's exchange takes the head out of the entry. BIConflict is answered
with BIConflictAck. Returned credits are added, and a BISnp that waited for one is sent with it, under the LD-ID that the head knows (R96). A BISnp that times out ends its exchange and, in a drain, sets DRAIN_POISONED. -/
def Obligations.BackInvalidateMessagesTakeEffect : Prop :=
  (∀ (h : Head) (line n : Nat) (r : BiRsp) (s : State), s.linkUp h = false ∨ s.isSafe = true →
      exec (.birsp h line r) s = .next s ∧ exec (.biConflict h line) s = .next s ∧ exec (.biCreditReturn h n) s = .next s)
  ∧ (∀ (h : Head) (line : Nat) (r : BiRsp) (s : State), s.linkUp h = true → s.isSafe = false → (∀ x ∈ s.dir.exchs, x.line = line → ∀ w ∈ x.waits, w.head ≠ h.val ∨ w.sent = false) →
      ∃ t, exec (.birsp h line r) s = .next t ∧ t = { s with regs := t.regs } ∧ ∀ off, off < 0x2200000 ∨ 0x2201000 ≤ off → t.word off = s.word off)
  ∧ (∀ (h : Head) (line i k : Nat) (w : BiWait) (e : DirEntry) (r : BiRsp) (s : State), s.linkUp h = true → s.isSafe = false → s.path.txns = [] → s.path.ingress = [] →
      s.dir.exchs = [{ line := line, why := .drain i, waits := [w] }] → w.head = h.val → w.sent = true → w.snp = .inv → s.entry? line = some (k, e) →
      ∃ t, exec (.birsp h line r) s = .next t ∧ t.dir.exchs = [] ∧ Tbl.look t.dir.ways k = e.without h ∧ t.out = s.out ∧ t.media = s.media ∧ ∀ j, j ≠ k → Tbl.look t.dir.ways j = Tbl.look s.dir.ways j)
  ∧ (∀ (h : Head) (line : Nat) (s : State), s.linkUp h = true → s.isSafe = false →
      exec (.biConflict h line) s = .next ((s.wakeLink h).emit (.biConflictAck h line)))
  ∧ (∀ (h : Head) (n : Nat) (s : State), s.linkUp h = true → s.isSafe = false → (∀ x ∈ s.dir.exchs, ∀ w ∈ x.waits, w.head ≠ h.val ∨ w.sent = true) →
      ∃ t, exec (.biCreditReturn h n) s = .next t ∧ t = { s with dir := { s.dir with credits := t.dir.credits } } ∧ Tbl.lookD t.dir.credits 0 h = Tbl.lookD s.dir.credits 0 h + n
        ∧ ∀ k, k ≠ h.val → Tbl.lookD t.dir.credits 0 k = Tbl.lookD s.dir.credits 0 k)
  ∧ (∀ (h : Head) (i : Nat) (x : Exch) (w : BiWait) (s : State), s.linkUp h = true → s.isSafe = false → s.dir.exchs = [x] → x.waits = [w] → w.head = h.val → w.sent = false →
      s.mapper h (unitOfPage (pageOf x.line)) = some i →
      ∃ t, exec (.biCreditReturn h 1) s = .next t ∧ t.out = .bisnp h (s.ldIdOf h i) x.line w.snp :: (s.wakeLink h).out ∧ t.dir.exchs = [{ x with waits := [{ w with sent := true }] }]
        ∧ Tbl.lookD t.dir.credits 0 h = Tbl.lookD s.dir.credits 0 h)
  ∧ (∀ (h : Head) (line : Nat) (s : State), s.isSafe = true ∨ (∀ x ∈ s.dir.exchs, x.line = line → ∀ w ∈ x.waits, w.head = h.val → s.tick < w.start + s.rd Reg.DIR_BI_TIMEOUT_BI_TIMEOUT) →
      exec (.biTimeout h line) s = .next s)
  ∧ ∀ (h : Head) (line : Nat) (i : LdIx) (w : BiWait) (d : Ld) (s : State), s.isSafe = false → s.dir.exchs = [{ line := line, why := .drain i, waits := [w] }] → w.head = h.val →
      w.start + s.rd Reg.DIR_BI_TIMEOUT_BI_TIMEOUT ≤ s.tick → s.ld? i = some d → ∃ t e, exec (.biTimeout h line) s = .next t ∧ t.dir.exchs = [] ∧ t.ld? i = some e ∧ e.drainPoisoned = true ∧ e.st = d.st

/-! ### Slices and the directory -/

/-- A request of head h stands alone at a slice that may admit it: nothing else is queued, in service, on a bench or in an exchange; no page is locked, no sanitise is under way, no fence of the Warden holds, the slice has admitted nothing in this tick and its buffer has room, the Docent access port has nothing for it, and the extents are in force at the
slice. Its LD is ACTIVE and maps the page, and its link is up in L0 or L0p. -/
abbrev Sys2Proof.Machine.State.lone (s : State) (sl : Nat) (q : Req) (h : Nat) (d : Ld) : Prop :=
  s.isSafe = false ∧ s.isFence = false ∧ sl ∉ s.path.restart ∧ s.path.ingress = [q] ∧ s.noTxn ∧ s.dir.exchs = [] ∧ s.sec.locks = [] ∧ s.sec.retire = [] ∧ s.warden.fence = []
    ∧ (∀ e ∈ s.lds, ∀ x ∈ e.2.exts, applyExtents sl x = x) ∧ q.src = .head h ∧ h < 16 ∧ sliceOfLine q.line = sl ∧ s.ld? q.ld = some d ∧ d.st = .active ∧ d.disabled = false
    ∧ d.inForce (unitOfPage q.page) sl = true ∧ s.linkUp h = true ∧ s.rd (Reg.GLB_HEAD_STATUS_PSTATE h) ≤ 1
    ∧ s.admitFree sl = true ∧ s.wcbFull sl = false ∧ s.docentWaits sl = false ∧ s.mgmt.clears = []

/-- The accession line of a request's page is not cached, which is a free value, and can be read, or is being read (R22, R211). -/
abbrev Sys2Proof.Machine.State.accWaits (s : State) (q : Req) : Prop :=
  s.freeNow.getLsbD 0 = true ∧ (s.metaPending .acc (q.page / 8) = true ∨ s.chLive (s.metaAddr .acc (q.page / 8)).1 = true)

/-- A lone request has been admitted: it waits for its accession line to be read from DRAM, or has been served. -/
abbrev Sys2Proof.Machine.State.admittedTo (s t : State) (q : Req) (served : Prop) : Prop :=
  t.path.ingress = [] ∧ t.media = s.media
    ∧ (s.accWaits q → t.out = s.out ∧ t.dir = s.dir ∧ ∃ x, t.path.txns = [x] ∧ x.req = q ∧ x.phase = .acc ∧ t.metaPending .acc (q.page / 8) = true)
    ∧ (¬ s.accWaits q → served)

/-- A page of a PLAIN region, or of none, that holds nothing. -/
abbrev Sys2Proof.Machine.State.blank (s : State) (p : Nat) : Prop := (s.acc p).form = .unwritten false ∧ s.guard p = none

/-- The slice's arbiter (R23, R53, R56, R57, R71, R78, R95, R101 to R106, R131; Table 4.4). A slice that restarts, or any in the safe state, does nothing. Extents take effect. A lone request whose accession line is not cached waits until DRAM has been read for it (R22). Otherwise a lone read of an UNWRITTEN page that is not
HDM-DB returns zeros. On an HDM-DB line that nobody holds, a read that asks for a shared or an owned copy also makes the directory entry, in S or in O. A read of a line that another head owns sends that head a BISnp
and waits. A lone write of a HOT page waits for its acceptance. A ClnEvct of the only sharer frees the entry. -/
def Obligations.SliceArbitrationServesRequests : Prop :=
  (∀ (sl : SliceIx) (s : State), sl.val ∈ s.path.restart ∨ s.isSafe = true → exec (.sliceArbitration sl) s = .next s)
  ∧ (∀ (sl : SliceIx) (s : State), sl.val ∉ s.path.restart → s.isSafe = false → s.path.ingress = [] → s.path.txns = [] → s.dir.bench = [] → s.warden.fence = [] →
      exec (.sliceArbitration sl) s = .next { s with lds := s.lds.map (fun e => (e.1, { e.2 with exts := e.2.exts.map (applyExtents sl) })) })
  ∧ (∀ (sl : SliceIx) (q : Req) (h : Nat) (d : Ld) (s : State), s.lone sl q h d → s.isDb q.page = false → s.blank q.page → q.op = .rd → ∃ t, exec (.sliceArbitration sl) s = .next t
      ∧ s.admittedTo t q (t.out = .memData h q.tag 0 false .noOp :: s.out ∧ t.noTxn ∧ t.dir = s.dir))
  ∧ (∀ (sl : SliceIx) (q : Req) (h k : Nat) (d : Ld) (s : State), s.lone sl q h d → s.isDb q.page = true → s.blank q.page → q.op = .rd → s.entry? q.line = none → s.wayFor q.line = .free k → (q.snp = .data ∨ q.snp = .inv) →
      ∃ t, exec (.sliceArbitration sl) s = .next t ∧ s.admittedTo t q (t.noTxn ∧ ∃ e, Tbl.look t.dir.ways k = some e ∧ e.line = q.line ∧ e.sharers = headBit h ∧ e.age = 0
        ∧ (q.snp = .data → e.st = .s ∧ t.out = .memData h q.tag 0 false .s :: s.out) ∧ (q.snp = .inv → e.st = .o ∧ e.named = h ∧ t.out = .memData h q.tag 0 false q.mv :: s.out)))
  ∧ (∀ (sl : SliceIx) (q : Req) (h g i k : Nat) (d : Ld) (e : DirEntry) (s : State), s.lone sl q h d → s.isDb q.page = true → q.op = .rd → q.snp = .data → s.entry? q.line = some (k, e) → e.st = .o → e.named = g → g ≠ h →
      e.sharers = headBit g → g < 16 → s.snoopable g q.line = true → s.mapper g (unitOfPage q.page) = some i → s.rd (Reg.GLB_HEAD_STATUS_PSTATE g) ≤ 1 → 0 < Tbl.lookD s.dir.credits 0 g →
      ∃ t, exec (.sliceArbitration sl) s = .next t ∧ s.admittedTo t q (t.out = .bisnp g (s.ldIdOf g i) q.line .data :: s.out ∧ (∃ x, t.path.txns = [x] ∧ x.req = q ∧ x.phase = .exch)
        ∧ t.dir.exchs = [{ line := q.line, why := .txn q.id, waits := [{ head := g, snp := .data, start := s.tick, sent := true }], heads := [g] }] ∧ Tbl.lookD t.dir.credits 0 g + 1 = Tbl.lookD s.dir.credits 0 g))
  ∧ (∀ (sl : SliceIx) (q : Req) (h c fr : Nat) (r : Option Nat) (d : Ld) (s : State), s.lone sl q h d → s.isDb q.page = false → q.op = .wr → (s.acc q.page).form = .hot c fr r → s.srcForm q.page = .hot c fr r →
      s.guard q.page = none → (∀ e, s.regionAt q.page = some e → e.2.readonly = false) → s.path.wcb = [] →
      ∃ t, exec (.sliceArbitration sl) s = .next t ∧ s.admittedTo t q (t.out = s.out ∧ ∃ x, t.path.txns = [x] ∧ x.req = q ∧ x.phase = .accept))
  ∧ ∀ (sl : SliceIx) (q : Req) (h k : Nat) (d : Ld) (e : DirEntry) (s : State), s.lone sl q h d → s.isDb q.page = true → q.op = .evict → s.entry? q.line = some (k, e) → e.st = .s → e.sharers = headBit h →
      s.snoopable h q.line = true → ∃ t, exec (.sliceArbitration sl) s = .next t ∧ s.admittedTo t q (t.out = .cmp h q.tag .noOp :: s.out ∧ Tbl.look t.dir.ways k = none ∧ t.noTxn)

/-- Accepted writes, fences and the bench (R71 to R73, R79, R81, R83, R93, R113). A write of a HOT page that waits for nothing enters the buffer, from where it is visible, and completes. A fence whose writes are all
visible completes, oldest first, and is counted. A request on the bench takes the way that has become free. -/
def Obligations.WritesFencesAndBench : Prop :=
  (∀ (sl : SliceIx) (n : Nat) (s : State), s.isSafe = true ∨ (∀ t ∈ s.path.txns, t.req.id ≠ n ∨ t.slice ≠ sl.val ∨ t.phase ≠ .accept) → exec (.writeAccept sl n) s = .next s)
  ∧ (∀ (sl : SliceIx) (x : Txn) (h c fr : Nat) (r : Option Nat) (s : State), s.isSafe = false → s.path.txns = [x] → x.slice = sl.val → x.phase = .accept → x.snoop = false → x.req.src = .head h → x.req.op = .wr →
      s.sec.locks = [] → s.sec.retire = [] → s.mgmt.clears = [] → s.dir.bench = [] → (s.acc x.req.page).form = .hot c fr r → s.srcForm x.req.page = .hot c fr r → s.slotOf x.req.page = none → s.guard x.req.page = none →
      (∀ e, s.regionAt x.req.page = some e → e.2.readonly = false) → s.path.wcb = [] → s.linkUp h = true → s.rd (Reg.GLB_HEAD_STATUS_PSTATE h) ≤ 1 →
      ∃ t, exec (.writeAccept sl x.req.id) s = .next t ∧ t.path.txns = [] ∧ t.out = .cmp h x.req.tag .noOp :: s.out ∧ t.media = s.media
        ∧ t.path.wcb = [{ line := x.req.line, data := x.req.data, be := x.req.be, poison := x.req.poison, entered := s.tick, last := s.tick, writers := [{ head := h, ld := x.req.ld, id := x.req.id, cls := x.req.cls, tier := x.req.tier }] }])
  ∧ (∀ (h : Head) (s : State), s.isSafe = true ∨ (∀ f ∈ s.fencesOf h, f.waits ≠ []) → exec (.fenceComplete h) s = .next s)
  ∧ (∀ (h : Head) (f : Fence) (s : State), s.isSafe = false → s.linkUp h = true → s.rd (Reg.GLB_HEAD_STATUS_PSTATE h) ≤ 1 → (s.fencesOf h).find? (fun f => f.waits == []) = some f →
      ∃ t, exec (.fenceComplete h) s = .next t ∧ t.out = .cmp h f.tag .noOp :: s.out ∧ t.path.fences = s.path.fences.erase f
        ∧ t.rd (Reg.TRL_HEAD_FENCE_FENCES_PENDING h) = (t.fencesOf h).length
        ∧ t.rd (Reg.TRL_HEAD_FENCE_FENCES_DONE h) = (s.rd (Reg.TRL_HEAD_FENCE_FENCES_DONE h) + 1) % 2 ^ (Reg.TRL_HEAD_FENCE_FENCES_DONE h).w
        ∧ t.flag (Reg.TRL_HEAD_FENCE_FENCE_FAULT h) = (s.flag (Reg.TRL_HEAD_FENCE_FENCE_FAULT h) || f.fault))
  ∧ (∀ (sl : SliceIx) (set : Fin 16384) (s : State), s.isSafe = true ∨ (∀ x ∈ s.dir.bench, x.slice ≠ sl.val ∨ dirSet x.req.line ≠ set.val) → exec (.benchWake sl set) s = .next s)
  ∧ ∀ (sl : SliceIx) (set : Fin 16384) (x : Txn) (h k : Nat) (s : State), s.isSafe = false → s.dir.bench = [x] → s.path.txns = [] → s.dir.exchs = [] → x.slice = sl.val → dirSet x.req.line = set.val → x.req.src = .head h →
      x.granted = false → x.poisoned = false → x.req.op = .rd → x.req.snp = .data → s.isDb x.req.page = true → s.blank x.req.page → s.entry? x.req.line = none → s.wayFor x.req.line = .free k → s.linkUp h = true →
      s.rd (Reg.GLB_HEAD_STATUS_PSTATE h) ≤ 1 →
      ∃ t e, exec (.benchWake sl set) s = .next t ∧ t.noTxn ∧ t.out = .memData h x.req.tag 0 false .s :: s.out ∧ Tbl.look t.dir.ways k = some e ∧ e.line = x.req.line ∧ e.st = .s ∧ e.sharers = headBit h

/-- Directory walks, probes and the release of extents (R57, R116 to R118, DIR_PROBE_DATA). A walk step passes a slice that holds nothing the walk concerns. An abrupt walk takes its head out of an entry that others share.
In the turn of the Docent access port (R23) a probe captures the entry of its line at the line's home slice, or a miss. A released extent leaves the port once it has left every slice, and then the map, when its invalidations have ended; where a line of it lists the head again, the walk starts anew (R123). -/
def Obligations.DirectoryWalksProbesAndReleases : Prop :=
  (∀ (sl : SliceIx) (s : State), s.isSafe = true ∨ s.dir.walks = [] ∧ s.mgmt.clears = [] → exec (.directoryWalkStep sl) s = .next s)
  ∧ (∀ (sl : SliceIx) (w : Walk) (s : State), s.isSafe = false → s.dir.walks = [w] → w.at sl ≠ 16384 → s.walkHeld w sl = false → s.walkNext w sl = none →
      exec (.directoryWalkStep sl) s = .next { s with dir := { s.dir with walks := [{ w with next := Tbl.put w.next sl 16384 }] } })
  ∧ (∀ (sl : SliceIx) (w : Walk) (i k : Nat) (e x : DirEntry) (s : State), s.isSafe = false → s.dir.walks = [w] → w.why = .abrupt i → w.at sl = 0 → s.dir.ways = [(k, e)] → k = dirKey sl (dirSet e.line) (k % 16) →
      sliceOfLine e.line = sl.val → s.walkWants w e = true → s.dir.exchs = [] → e.st = .s → e.without w.head = some x →
      ∃ t, exec (.directoryWalkStep sl) s = .next t ∧ t.dir.ways = [(k, x)] ∧ t.out = s.out ∧ t.dir.walks = [{ w with next := Tbl.put w.next sl (dirSet e.line + 1) }])
  ∧ (∀ (sl : SliceIx) (s : State), s.dir.probe = none ∨ (∃ l, s.dir.probe = some l ∧ sliceOfLine l ≠ sl.val) ∨ s.turn sl 19 = false → exec (.dirProbeCapture sl) s = .next s)
  ∧ (∀ (sl : SliceIx) (l : Nat) (s : State), s.dir.probe = some l → sliceOfLine l = sl.val → s.turn sl 19 = true → ∃ t, exec (.dirProbeCapture sl) s = .next t ∧ t.flag Reg.DIR_PROBE_DATA_DONE = true ∧ t.dir = { s.dir with probe := none }
      ∧ t.flag Reg.DIR_PROBE_DATA_HIT = (s.entry? l).isSome ∧ OnlyWords { s with dir := t.dir, path := (s.noteAdmit sl 19).path } t [0x600018, 0x60001C]
      ∧ t.flag Reg.DIR_PROBE_DATA_BENCHED = s.dir.bench.any (fun x => x.slice == sl.val && dirSet x.req.line == dirSet l)
      ∧ t.rd Reg.DIR_PROBE_DATA_ENTRY = (match s.entry? l with | some (_, e) => entryWord e (s.pinned l || e.evicting) % 2 ^ Reg.DIR_PROBE_DATA_ENTRY.w | none => 0))
  ∧ (∀ (i : LdIx) (u : Nat) (s : State), s.ld? i = none ∨ s.going i u = [] → exec (.extentPortDrop i u) s = .next s ∧ exec (.extentReleaseDone i u) s = .next s)
  ∧ (∀ (i : LdIx) (u : Nat) (d : Ld) (x : Extent) (s : State), s.ld? i = some d → d.exts = [x] → x.ldUnit = u → x.releasing = true → ∃ t e, exec (.extentPortDrop i u) s = .next t
      ∧ t.ld? i = some e ∧ e = { d with exts := [{ x with port := x.port && x.slices != 0 }] } ∧ t = { s with lds := t.lds } ∧ ∀ j, j ≠ i.val → t.ld? j = s.ld? j)
  ∧ (∀ (i : LdIx) (u : Nat) (s : State), (∃ x ∈ s.going i u, x.port = true ∨ x.slices ≠ 0) ∨ s.walkOver (isRelease i u) (isReleaseExch i u) = false → exec (.extentReleaseDone i u) s = .next s)
  ∧ (∀ (i : LdIx) (u : Nat) (s : State), s.going i u ≠ [] → (∀ x ∈ s.going i u, x.port = false ∧ x.slices = 0) → s.walkOver (isRelease i u) (isReleaseExch i u) = true → s.orphans i u = [] → s.releaseLeft i u = true →
      (∃ w ∈ s.dir.walks, isRelease i u w.why = true) →
      exec (.extentReleaseDone i u) s = .next { s with dir := { s.dir with walks := s.dir.walks.map (fun w => if isRelease i u w.why = true then { w with next := [] } else w) } })
  ∧ ∀ (i : LdIx) (u : Nat) (d : Ld) (s : State), s.ld? i = some d → s.going i u ≠ [] → (∀ x ∈ s.going i u, x.port = false ∧ x.slices = 0) → s.walkOver (isRelease i u) (isReleaseExch i u) = true → s.orphans i u = [] → s.releaseLeft i u = false →
      ∃ t, exec (.extentReleaseDone i u) s = .next t ∧ t.ld? i = some { d with exts := d.exts.filter (fun x => !(x.ldUnit == u && x.releasing)) } ∧ t = { s with lds := t.lds, dir := { s.dir with walks := t.dir.walks } }
        ∧ (∀ w ∈ t.dir.walks, isRelease i u w.why = false) ∧ ∀ j, j ≠ i.val → t.ld? j = s.ld? j

/-! ### DRAM channels -/

/-- A channel works: it is populated and not lost, and has not been halted for the safe state. -/
abbrev Sys2Proof.Machine.State.works (s : State) (c : Nat) : Prop := s.chLive c = true ∧ (s.ch c).halted = false

/-- A command on the bus of a channel, to a bank of a logical rank taken apart (R209). -/
def Sys2Proof.Machine.State.onBus (s : State) (c sub lr bank : Nat) (cmd : String) : Out :=
  .dram c sub (s.rankParts c lr).1 (s.rankParts c lr).2.1 (s.rankParts c lr).2.2 bank cmd

/-- The line of a channel is in its write queue, whole. -/
def Sys2Proof.Machine.State.queuedWhole (s : State) (c l : Nat) (x : Line) : Prop := ∃ w ∈ (s.ch c).wq, w.line = l ∧ w.data = x.data ∧ w.poison = x.poison ∧ w.part = none

/-- Reads and command slots of a channel (R210 to R217, R220). A read that arrives joins the read queue, or is answered from a whole entry of the write queue. In a slot of the present tick a lone read opens its row, is
issued to an open row with the line as it is now, or closes the row of another line; while a recalibration pass occupies the sub-channel nothing issues (R238). An open row that has been idle for ROW_IDLE ticks is closed. -/
def Obligations.DramReadsAndSlots : Prop :=
  (∀ (c : Chan) (n : Nat) (s : State), ¬ s.works c ∨ (∀ r ∈ (s.ch c).flying, r.id ≠ n) → exec (.dmcReadArrival c n) s = .next s)
  ∧ (∀ (c : Chan) (r : DramRd) (s : State), s.works c → (s.ch c).flying = [r] → s.wqEntry c r.line = none → (s.rqOf c (s.at' c r.line).sub).length < 64 → ∃ t, exec (.dmcReadArrival c r.id) s = .next t
      ∧ (t.ch c).flying = [] ∧ (t.ch c).rq = (s.ch c).rq ++ [r] ∧ t.out = s.out ∧ t.media = s.media ∧ t.rankState c (s.at' c r.line).lr ≠ .powerdown ∧ ∀ k, k ≠ c.val → t.ch k = s.ch k)
  ∧ (∀ (c : Chan) (r : DramRd) (w : WrEnt) (e k : Nat) (s : State), s.works c → (s.ch c).flying = [r] → s.wqEntry c r.line = some w → w.part = none → r.snap = none → r.retried = false → r.why = .engine e k → e < 64 →
      ∃ t, exec (.dmcReadArrival c r.id) s = .next t ∧ (t.ch c).flying = [] ∧ (t.ch c).rq = (s.ch c).rq ∧ Tbl.look (Tbl.lookD t.press.sherds [] e) k = some { data := s.entryData w, poison := w.poison }
        ∧ t.out = s.out ∧ t.media = s.media)
  ∧ (∀ (c : Chan) (sub : Fin 2) (clk : Nat) (s : State), ¬ s.works c ∨ clk / 4 ≠ s.tick ∨ clk < Tbl.lookD (s.ch c).lastSlot 0 sub ∨ s.inPass c sub clk = true → exec (.dmcScheduleSlot c sub clk) s = .next s)
  ∧ (∀ (c : Chan) (sub : Fin 2) (clk : Nat) (r : DramRd) (s : State), s.chLive c = true → clk / 4 = s.tick → s.passWaits c sub = false → (s.at' c r.line).sub = sub → s.ch c = { rq := [r] } → ∃ t, exec (.dmcScheduleSlot c sub clk) s = .next t
      ∧ t.out = s.onBus c sub (s.at' c r.line).lr (s.at' c r.line).bank "ACT" :: s.out ∧ (t.ch c).rq = [r] ∧ (t.bank c (s.at' c r.line).key).row = some (s.at' c r.line).row ∧ t.media = s.media)
  ∧ (∀ (c : Chan) (sub : Fin 2) (clk : Nat) (r : DramRd) (s : State), s.chLive c = true → clk / 4 = s.tick → s.passWaits c sub = false → (s.at' c r.line).sub = sub →
      s.ch c = { rq := [r], banks := [((s.at' c r.line).key, { row := some (s.at' c r.line).row })] } → ∃ t, exec (.dmcScheduleSlot c sub clk) s = .next t
      ∧ t.out = s.onBus c sub (s.at' c r.line).lr (s.at' c r.line).bank "RD" :: s.out ∧ (t.ch c).rq = [] ∧ (t.ch c).issued = [{ r with data := r.snap.getD (match r.why with | .mline k n _ => { data := s.metaData k n } | _ => s.lineAt c r.line), missed := true }] ∧ t.media = s.media)
  ∧ (∀ (c : Chan) (sub : Fin 2) (clk row : Nat) (r : DramRd) (s : State), s.chLive c = true → clk / 4 = s.tick → s.passWaits c sub = false → (s.at' c r.line).sub = sub → row ≠ (s.at' c r.line).row →
      s.ch c = { rq := [r], banks := [((s.at' c r.line).key, { row := some row })] } → ∃ t, exec (.dmcScheduleSlot c sub clk) s = .next t
      ∧ t.out = s.onBus c sub (s.at' c r.line).lr (s.at' c r.line).bank "PRE" :: s.out ∧ (t.ch c).rq = [r] ∧ (t.bank c (s.at' c r.line).key).row = none ∧ (t.bank c (s.at' c r.line).key).lastRow = some row ∧ t.media = s.media)
  ∧ ∀ (c : Chan) (sub : Fin 2) (lr : Fin 16) (bank : Fin 32) (s : State), ∃ t, exec (.rowIdlePrecharge c sub lr bank) s = .next t
      ∧ let b := s.bank c (bankKey sub lr bank)
        if s.chLive c = true ∧ s.inPass c sub s.clkNow = false ∧ b.row.isSome = true ∧ b.lastTick + max 1 (s.rd (Reg.DMC_NODL_ROW_IDLE c)) ≤ s.tick ∧ s.rankReady c lr s.clkNow = true ∧ s.preOk c (bankKey sub lr bank) s.clkNow = true then
          t.out = s.onBus c sub lr bank "PRE" :: s.out ∧ (t.bank c (bankKey sub lr bank)).row = none ∧ (t.bank c (bankKey sub lr bank)).pred = b.pred ∧ t.media = s.media ∧ t.regs = s.regs
        else t = s

/-- Refresh and rank power (R221 to R226; Tables 8.6 and 8.7). Each interval of TREFI/2, or TREFI/4 for a hot rank, adds one to the owed counts of a rank that is not in self-refresh, never above POSTPONE_MAX, and wakes a rank in POWERDOWN that nears it. MR4, once in each 100 µs,
shows the hot ranks. A rank enters POWERDOWN or SELFREFRESH when its conditions hold, and leaves when its bit of PD_ALLOW or SR_ALLOW is cleared. The safe-state order stores the write queue and holds every rank in
self-refresh. -/
def Obligations.RefreshAndRankPower : Prop :=
  (∀ (c : Chan) (sub : Fin 2) (lr : Fin 16) (s : State), s.chLive c = false ∨ s.ranks c ≤ lr ∨ s.clkNow < Tbl.lookD (s.ch c).refAt 0 (rankKey sub lr) + s.refInterval c lr → exec (.refreshInterval c sub lr) s = .next s)
  ∧ (∀ (c : Chan) (sub : Fin 2) (lr : Fin 16) (s : State), s.chLive c = true → lr < s.ranks c → Tbl.lookD (s.ch c).refAt 0 (rankKey sub lr) + s.refInterval c lr ≤ s.clkNow →
      s.rankState c lr = .selfrefresh ∨ s.rankState c lr = .held → ∃ t, exec (.refreshInterval c sub lr) s = .next t ∧ t = { s with dmc := t.dmc } ∧ ∀ b, t.owed c sub lr b = s.owed c sub lr b)
  ∧ (∀ (c : Chan) (sub : Fin 2) (lr : Fin 16) (s : State), s.chLive c = true → lr < s.ranks c → Tbl.lookD (s.ch c).refAt 0 (rankKey sub lr) + s.refInterval c lr ≤ s.clkNow →
      s.rankState c lr = .active ∨ s.rankState c lr = .powerdown → ∃ t, exec (.refreshInterval c sub lr) s = .next t
      ∧ (∀ b, b < 4 → t.owed c sub lr b = min (s.postponeMax c : Int) (s.owed c sub lr b + 1)) ∧ t.out = s.out ∧ t.media = s.media
      ∧ t.rankState c lr = (if s.rankState c lr = .powerdown ∧ (∀ b ∈ List.range 4, t.owed c sub lr b < (s.postponeMax c : Int) - 1) then .powerdown else .active))
  ∧ (∀ (c : Chan) (hot : BitVec 16) (s : State), s.chLive c = false ∨ s.mr4Due c = false → exec (.mr4Poll c hot) s = .next s)
  ∧ (∀ (c : Chan) (hot : BitVec 16) (s : State), s.chLive c = true → s.mr4Due c = true → ∃ t, exec (.mr4Poll c hot) s = .next t ∧ (∀ lr, lr < 16 → lr < s.ranks c → t.bit (Reg.DMC_REF_STATUS_HOT_RANKS c) lr = hot.getLsbD lr) ∧ (t.ch c).mr4At = s.tick ∧ t.media = s.media)
  ∧ (∀ (c : Chan) (lr : Fin 16) (s : State), ∃ t, exec (.rankPowerdownEntry c lr) s = .next t
      ∧ if s.chLive c = true ∧ lr < s.ranks c ∧ s.rankState c lr = .active ∧ s.rankIdle c lr = true ∧ s.bit (Reg.DMC_PD_PD_ALLOW c) lr = true ∧ s.idleSince c lr + s.rd (Reg.DMC_PD_PD_IDLE c) ≤ s.tick
          ∧ (∀ sub ∈ List.range 2, ∀ b ∈ List.range 4, s.owed c sub lr b < (s.postponeMax c : Int) - 1) then
          t.rankState c lr = .powerdown ∧ t.bit (Reg.DMC_RANK_STATE_IN_PD c) lr = true ∧ (∀ sub, sub < 2 → ∀ b, b < 32 → (t.bank c (bankKey sub lr b)).row = none) ∧ t.media = s.media
        else t = s)
  ∧ (∀ (c : Chan) (lr : Fin 16) (s : State), ∃ t, exec (.rankSelfrefreshEntry c lr) s = .next t
      ∧ if s.chLive c = true ∧ lr < s.ranks c ∧ (s.rankState c lr = .active ∨ s.rankState c lr = .powerdown) ∧ s.rankIdle c lr = true ∧ s.bit (Reg.DMC_SR_SR_ALLOW c) lr = true ∧ s.idleSince c lr + s.srIdle c ≤ s.tick then
          t.rankState c lr = .selfrefresh ∧ t.bit (Reg.DMC_RANK_STATE_IN_SR c) lr = true ∧ t.bit (Reg.DMC_RANK_STATE_IN_PD c) lr = false ∧ (∀ sub, sub < 2 → ∀ b, b < 4 → t.owed c sub lr b ≤ 0) ∧ t.media = s.media
        else t = s)
  ∧ (∀ (c : Chan) (v : BitVec 16) (s : State), ∃ t, exec (.dmcPdAllowWrite c v) s = .next t ∧ t.rd (Reg.DMC_PD_PD_ALLOW c) = v.toNat ∧ t.media = s.media ∧ t.out = s.out
      ∧ ∀ lr, lr < 16 → t.rankState c lr = if s.rankState c lr = .powerdown ∧ v.getLsbD lr = false then .active else s.rankState c lr)
  ∧ (∀ (c : Chan) (v : BitVec 16) (s : State), ∃ t, exec (.dmcSrAllowWrite c v) s = .next t ∧ t.rd (Reg.DMC_SR_SR_ALLOW c) = v.toNat ∧ t.media = s.media ∧ t.out = s.out
      ∧ ∀ lr, lr < 16 → t.rankState c lr = if s.rankState c lr = .selfrefresh ∧ v.getLsbD lr = false then .active else s.rankState c lr)
  ∧ (∀ (c : Chan) (s : State), s.isSafe = false ∨ (s.ch c).halted = true → exec (.safeStateOrder c) s = .next s)
  ∧ ∀ (c : Chan) (s : State), s.isSafe = true → s.works c → (s.ch c).flying = [] → (s.ch c).rq = [] → ∃ t, exec (.safeStateOrder c) s = .next t ∧ (t.ch c).halted = true ∧ (t.ch c).wq = []
      ∧ (∀ lr, lr < s.ranks c → t.rankState c lr = .held) ∧ ∀ w, (s.ch c).wq = [w] → w.part = none → w.item = none → t.lineAt c w.line = { data := w.data, poison := w.poison }

/-- What a channel does with the data of a read (R215, R246 to R254; Table 10.1). Data without an error goes where the read asked for it. A correctable line is counted, written back through the write queue and read again. An uncorrectable line
goes back to the head of the read queue; a second failure is counted, and the line is written back as poison. A verify read that finds the same device faulty marks the entry HARD and starts a remap, whose spare is checked before the entry is written and the line enters the write queue. -/
def Obligations.DramReadDataIsChecked : Prop :=
  (∀ (c : Chan) (n : Nat) (err : BitVec 640) (s : State), (s.ch c).issued = [] → exec (.dramReadData c n err) s = .next s ∧ exec (.mergeReadDone c n err) s = .next s
      ∧ exec (.ueRetryResult c n err) s = .next s ∧ exec (.ceVerifyRead c n err) s = .next s)
  ∧ (∀ (c : Chan) (r : DramRd) (e k : Nat) (s : State), (s.ch c).issued = [r] → r.retried = false → (s.ch c).inject = [] → s.wqRoom c r.line = true → r.why = .engine e k → e < 64 → ∃ t, exec (.dramReadData c r.id 0) s = .next t
      ∧ (t.ch c).issued = [] ∧ Tbl.look (Tbl.lookD t.press.sherds [] e) k = some r.data ∧ t.regs = s.regs ∧ t.media = s.media ∧ t.out = s.out)
  ∧ (∀ (c : Chan) (r : DramRd) (err : BitVec 640) (e k : Nat) (s : State), (s.ch c).issued = [r] → r.retried = false → (s.ch c).inject = [] → s.wqRoom c r.line = true → r.why = .engine e k → (readLine r.data err).bad = true →
      (s.rqOf c (s.at' c r.line).sub).length < 64 → ∃ t, exec (.dramReadData c r.id err) s = .next t ∧ (t.ch c).issued = [] ∧ (t.ch c).rq = { r with retried := true } :: (s.ch c).rq ∧ (t.ch c).flying = (s.ch c).flying
        ∧ t.rankState c (s.at' c r.line).lr ≠ .powerdown ∧ t.out = s.out ∧ t.media = s.media ∧ ∀ j, j ≠ c.val → t.ch j = s.ch j)
  ∧ (∀ (c : Chan) (r : DramRd) (err : BitVec 640) (e k dev : Nat) (s : State), (s.ch c).issued = [r] → r.retried = false → (s.ch c).inject = [] → s.wqRoom c r.line = true → r.why = .engine e k → e < 64 → (readLine r.data err).bad = false →
      (readLine r.data err).device = some dev → s.wqEntry c r.line = none → ∃ t, exec (.dramReadData c r.id err) s = .next t ∧ (t.ch c).issued = []
        ∧ t.rd (Reg.DMC_CE_TOTAL_CE c) = min (s.rd (Reg.DMC_CE_TOTAL_CE c) + 1) (2 ^ (Reg.DMC_CE_TOTAL_CE c).w - 1) ∧ t.queuedWhole c r.line (readLine r.data err).line
        ∧ Tbl.look (Tbl.lookD t.press.sherds [] e) k = some (readLine r.data err).line ∧ ∃ v ix, (t.ch c).flying = (s.ch c).flying ++ [v] ∧ v.line = r.line ∧ v.tier = 3 ∧ v.why = .verify dev ix)
  ∧ (∀ (c : Chan) (r : DramRd) (w : WrEnt) (be : BitVec 64) (s : State), (s.ch c).issued = [r] → r.retried = false → (s.ch c).inject = [] → r.why = .merge → (s.ch c).wq = [w] → w.line = r.line → w.mergeId = some r.id → w.part = some be →
      ∃ t, exec (.mergeReadDone c r.line 0) s = .next t ∧ (t.ch c).issued = [] ∧ t.media = s.media
        ∧ (t.ch c).wq = [{ w with data := (r.data.merge w.data be w.poison).data, poison := (r.data.merge w.data be w.poison).poison, part := none }])
  ∧ (∀ (c : Chan) (r : DramRd) (e k : Nat) (s : State), (s.ch c).issued = [r] → r.retried = true → (s.ch c).inject = [] → s.wqRoom c r.line = true → r.why = .engine e k → e < 64 → ∃ t, exec (.ueRetryResult c r.id 0) s = .next t
      ∧ (t.ch c).issued = [] ∧ t.rd (Reg.DMC_UE_TOTAL_RETRY_OK c) = min (s.rd (Reg.DMC_UE_TOTAL_RETRY_OK c) + 1) (2 ^ (Reg.DMC_UE_TOTAL_RETRY_OK c).w - 1)
      ∧ Tbl.look (Tbl.lookD t.press.sherds [] e) k = some r.data ∧ t.media = s.media)
  ∧ (∀ (c : Chan) (r : DramRd) (err : BitVec 640) (e k : Nat) (s : State), (s.ch c).issued = [r] → r.retried = true → (s.ch c).inject = [] → s.wqRoom c r.line = true → r.why = .engine e k → e < 64 → (readLine r.data err).bad = true →
      s.wqEntry c r.line = none → ∃ t, exec (.ueRetryResult c r.id err) s = .next t ∧ (t.ch c).issued = [] ∧ t.rd (Reg.DMC_UE_TOTAL_UE c) = min (s.rd (Reg.DMC_UE_TOTAL_UE c) + 1) (2 ^ (Reg.DMC_UE_TOTAL_UE c).w - 1)
        ∧ t.rd (Reg.DMC_UE_LAST_LINE c) = r.line % 2 ^ (Reg.DMC_UE_LAST_LINE c).w ∧ t.queuedWhole c r.line { r.data with poison := true } ∧ Tbl.look (Tbl.lookD t.press.sherds [] e) k = some { r.data with poison := true })
  ∧ (∀ (c : Chan) (r : DramRd) (dev : Nat) (ix : Option Nat) (s : State), (s.ch c).issued = [r] → r.retried = false → (s.ch c).inject = [] → r.why = .verify dev ix →
      ∃ t, exec (.ceVerifyRead c r.line 0) s = .next t ∧ (t.ch c).issued = [] ∧ (t.ch c).remap = (s.ch c).remap ∧ t = { s with dmc := t.dmc })
  ∧ (∀ (c : Chan) (r : DramRd) (err : BitVec 640) (dev i n : Nat) (s : State), (s.ch c).issued = [r] → r.retried = false → (s.ch c).inject = [] → (s.ch c).remap = [] → r.why = .verify dev (some i) → i < 32 →
      (readLine r.data err).bad = false → (readLine r.data err).device = some dev → s.rd (Reg.DMC_REMAP_CTL_USED c) < 64 → s.pickSpare c r.line = some n → s.rd (Reg.DMC_CE_LOG_LINE c i) = r.line → ∃ t j, exec (.ceVerifyRead c r.line err) s = .next t
        ∧ (t.ch c).issued = [] ∧ t.flag (Reg.DMC_CE_LOG_HARD c i) = true ∧ (t.ch c).remap = [j] ∧ j.line = r.line ∧ j.device = dev ∧ j.spare = n ∧ j.data = (readLine r.data err).line ∧ j.tries = 1)
  ∧ (∀ (c : Chan) (err : BitVec 640) (s : State), (s.ch c).remap = [] → exec (.remapSpareCheck c err) s = .next s)
  ∧ (∀ (c : Chan) (j : RemapJob) (s : State), (s.ch c).remap = [j] → s.wqRoom c j.line = false → exec (.remapSpareCheck c 0) s = .next s)
  ∧ ∀ (c : Chan) (j : RemapJob) (e : Nat) (s : State), (s.ch c).remap = [j] → j.entry = none → j.logIx = none → firstBelow 64 (fun e => !s.flag (Reg.DMC_REMAP_VALID c e)) = some e → s.rd (Reg.DMC_REMAP_CTL_USED c) < 64 → s.wqRoom c j.line = true → s.wqEntry c j.line = none →
      ∃ t, exec (.remapSpareCheck c 0) s = .next t ∧ (t.ch c).remap = [] ∧ t.flag (Reg.DMC_REMAP_VALID c e) = true ∧ t.rd (Reg.DMC_REMAP_LINE c e) = j.line % 2 ^ (Reg.DMC_REMAP_LINE c e).w
        ∧ t.rd (Reg.DMC_REMAP_SPARE c e) = j.spare % 1024 ∧ t.rd (Reg.DMC_REMAP_CTL_USED c) = s.rd (Reg.DMC_REMAP_CTL_USED c) + 1 ∧ t.queuedWhole c j.line j.data

/-! ### Security metadata -/

/-- What SEC does of its own (R73, R187, R189, R192 to R194, R197 to R199). A buffered line drains when it is due, unless its page is locked or moves (log entry 15): a full PLAIN line of a HOT page enters its channel's
write queue and leaves the buffer. An overflow reads the page by one admission of the internal DMA source, seals its 64 lines, and stores each by an admission of its own (R24, R25); its lock ends with the last store. A missing
counter block enters the cache and the requests that waited for it go on. A dirty block is written back by an admission at the slice that caches it, a node of the V-space under its parent's advanced counter with a new tag in
both copies, and leaves the cache (log entry 14); one that is not evicted is cleaned only by a healthy pair whose duty it is, within the governor's share (R34, R290). A node overflow ends once its reads are back, and its
children, an unformatted one as zeros, then carry tags under the advanced counters. A retirement passes an UNWRITTEN page
at once, takes a copy engine for a HOT one, stores it by one admission once it has been read, and CURSOR passes a page when its operation ends. A zeroised slot is FREE and holds no key. -/
def Obligations.SecurityWorkTakesEffect : Prop :=
  (∀ (sl : SliceIx) (line : Nat) (s : State), s.isSafe = true ∨ sliceOfLine line ≠ sl ∨ s.wcb? line = none ∨ s.pageLocked (pageOf line) = true ∨ (s.acc (pageOf line)).isMigrating = true →
      exec (.wcbDrain sl line) s = .next s)
  ∧ (∀ (sl : SliceIx) (w : WcbLine) (c fr : Nat) (inc : Option Nat) (s : State), s.isSafe = false → sliceOfLine w.line = sl → s.path.wcb = [w] → w.be = BitVec.allOnes 64 → w.last + 16 ≤ s.tick →
      s.pageLocked (pageOf w.line) = false → (s.acc (pageOf w.line)).isMigrating = false → s.srcForm (pageOf w.line) = .hot c fr inc → s.guard (pageOf w.line) = none → (s.ch c).flying = [] → (s.ch c).wq = [] →
      ∃ t a, exec (.wcbDrain sl w.line) s = .next t ∧ t.path.wcb = [] ∧ t.media = s.media
        ∧ (t.ch c).wq = [{ line := fr * 64 + w.line % 64, data := w.data, poison := w.poison, arrival := s.tick, after := a, t0 := w.writers.any (fun x => x.tier == 0) }])
  ∧ (∀ (sl : SliceIx) (p : Nat) (s : State), (∀ k ∈ s.sec.locks, k.page ≠ p ∨ k.slice ≠ sl) → exec (.counterOverflowDone sl p) s = .next s)
  ∧ (∀ (sl : SliceIx) (c fr : Nat) (inc : Option Nat) (k : PageLock) (x s : State), s.sec.locks = [k] → k.slice = sl → k.asked = false → (s.acc k.page).form = .hot c fr inc → s.dmaAdmit sl = some x →
      ∃ t tags, exec (.counterOverflowDone sl k.page) s = .next t ∧ t.sec.locks = [{ k with asked := true }] ∧ t.sec.cache = s.sec.cache ∧ t.media = s.media ∧ (t.ch c).wq = (s.ch c).wq
        ∧ (t.ch c).flying.map (fun r => (r.line, r.why)) = (s.ch c).flying.map (fun r => (r.line, r.why)) ++ (List.range 64).map (fun i => (fr * 64 + i, .page k.page i)) ++ tags
        ∧ ∀ y ∈ tags, isMeta y.2 = true)
  ∧ (∀ (sl : SliceIx) (c fr : Nat) (inc : Option Nat) (k : PageLock) (g : Guard) (xs : List Line) (s : State), s.sec.locks = [k] → k.slice = sl → k.asked = true → k.todo = none →
      (s.acc k.page).form = .hot c fr inc → s.guard k.page = some g → s.pageRead k.page 64 = some xs → s.tagsPending k.page 64 = false →
      ∃ t l, exec (.counterOverflowDone sl k.page) s = .next t ∧ t.sec.locks = [{ k with todo := some l }] ∧ l.map (fun e => e.1) = List.range 64 ∧ t.sec.cache = s.sec.cache ∧ t.media = s.media)
  ∧ (∀ (sl : SliceIx) (c fr i : Nat) (y : Line) (inc : Option Nat) (k : PageLock) (x s : State), s.sec.locks = [k] → k.slice = sl → k.asked = true → k.todo = some [(i, y)] → (s.acc k.page).form = .hot c fr inc →
      s.dmaAdmit sl = some x → x.wqRoom c (fr * 64 + i) = true →
      ∃ t, exec (.counterOverflowDone sl k.page) s = .next t ∧ t.sec.locks = [] ∧ t.visible c (fr * 64 + i) = y ∧ t.sec.cache = s.sec.cache ∧ t.media = s.media)
  ∧ (∀ (space : Bool) (q : Nat) (s : State), s.isSafe = true ∨ s.secPage space q = false ∨ (s.cached space 0 q).isSome = true ∨ (space = true ∧ s.pathHeld q = true) ∨ s.itemsPending (s.pathItems space q) = true
      ∨ (ctrKey space 0 q ∉ s.sec.asked ∧ ∀ x ∈ s.path.txns, x.phase ≠ .ctr) →
      exec (.counterFetchDone space q) s = .next s)
  ∧ (∀ (q : Nat) (x : Txn) (g : Guard) (s : State), s.isSafe = false → s.secPage false q = true → s.cached false 0 q = none → s.itemsPending (s.pathItems false q) = false → s.blockLost false q = false → s.metaLost q = false →
      s.path.txns = [x] → x.phase = .ctr → s.guard x.req.page = some g → g.space = false → g.q = q →
      ∃ t, exec (.counterFetchDone false q) s = .next t ∧ t.cached false 0 q = some (s.stored false 0 0 q)
        ∧ t.path.txns = [{ x with phase := .queued }] ∧ t.regs = s.regs ∧ t.media = s.media)
  ∧ (∀ (space evict : Bool) (level node : Nat) (s : State), s.isSafe = true ∨ (evict = false ∧ (s.dutyUp 6 = false ∨ s.permits .tree = false))
      ∨ (space = true ∧ ∃ n ∈ s.sec.nodeOvf, n.level = level ∧ n.node = node) ∨ (∀ x, Tbl.look s.sec.cache (ctrKey space level node) = some x → x.dirty = false) → exec (.counterWriteback space level node evict) s = .next s)
  ∧ (∀ (node : Nat) (evict : Bool) (b : CacheBlk) (x s : State), s.isSafe = false → evict = true ∨ (s.dutyUp 6 = true ∧ s.permits .tree = true) → Tbl.look s.sec.cache (ctrKey false 0 node) = some b → b.dirty = true →
      (if evict = true then s.dmaAdmit (s.cacheSlice false 0 node) else s.govAdmit (s.cacheSlice false 0 node) .tree) = some x →
      ∃ t, exec (.counterWriteback false 0 node evict) s = .next t ∧ t.stored false 0 0 node = b.blk ∧ t.cached false 0 node = none ∧ t.regs = x.regs ∧ t.media = s.media ∧ t.sec.treeTags = s.sec.treeTags)
  ∧ (∀ (node : Nat) (evict : Bool) (b : CacheBlk) (x s : State), s.isSafe = false → evict = true ∨ (s.dutyUp 6 = true ∧ s.permits .tree = true) → Tbl.look s.sec.cache (ctrKey true 3 node) = some b → b.dirty = true →
      (if evict = true then s.dmaAdmit (s.cacheSlice true 3 node) else s.govAdmit (s.cacheSlice true 3 node) .tree) = some x → (∀ n ∈ s.sec.nodeOvf, n.level ≠ 3 ∨ n.node ≠ node) → blkMinor (s.root (node / 64)) (node % 64) < 127 →
      ∃ t, exec (.counterWriteback true 3 node evict) s = .next t ∧ t.root (node / 64) = setMinor (s.root (node / 64)) (node % 64) (blkMinor (s.root (node / 64)) (node % 64) + 1)
        ∧ t.stored true 3 0 node = b.blk ∧ t.stored true 3 1 node = b.blk ∧ t.tagAt 3 0 node = s.treeTag (t.root (node / 64)) 3 node b.blk ∧ t.tagAt 3 1 node = t.tagAt 3 0 node
        ∧ t.cached true 3 node = none ∧ t.regs = x.regs ∧ t.media = s.media)
  ∧ (∀ (level node : Nat) (s : State), (∀ n ∈ s.sec.nodeOvf, n.level ≠ level ∨ n.node ≠ node) → exec (.nodeOverflowDone level node) s = .next s)
  ∧ (∀ (n : NodeOvf) (s : State), n ∈ s.sec.nodeOvf → (∀ m ∈ s.sec.nodeOvf, m.level = n.level → m.node = n.node → m = n) → s.itemsPending (overflowItems (n.level - 1) n.node n.old) = true →
      exec (.nodeOverflowDone n.level n.node) s = .next s)
  ∧ (∀ (n : NodeOvf) (new : BitVec 512) (s : State), n ∈ s.sec.nodeOvf → (∀ m ∈ s.sec.nodeOvf, m.level = n.level → m.node = n.node → m = n) → 1 ≤ n.level → n.level ≤ 4 →
      s.itemsPending (overflowItems (n.level - 1) n.node n.old) = false → s.parentBlk (n.level - 1) (n.node * 64) = some new →
      (∀ j, j < 64 → s.metaLost (n.node * 64 + j) = false ∧ s.metaLost ((n.node * 64 + j) / 8) = false ∧ s.blockLost true ((n.node * 64 + j) * 64 ^ (n.level - 1)) = false
        ∧ (unformatted n.old j = true ∨ s.tagAt (n.level - 1) 0 (n.node * 64 + j) = s.treeTag n.old (n.level - 1) (n.node * 64 + j) (s.stored true (n.level - 1) 0 (n.node * 64 + j)))) →
      ∃ t, exec (.nodeOverflowDone n.level n.node) s = .next t ∧ t = { s with sec := t.sec } ∧ t.sec.nodeOvf = s.sec.nodeOvf.filter (fun m => !(m.level == n.level && m.node == n.node)) ∧ t.sec.cache = s.sec.cache
        ∧ ∀ j, j < 64 → t.tagAt (n.level - 1) 0 (n.node * 64 + j) = s.treeTag new (n.level - 1) (n.node * 64 + j) (t.stored true (n.level - 1) 0 (n.node * 64 + j)))
  ∧ (∀ (i : Fin 4096) (s : State), s.qos.share = 0 ∨ s.permits .reencrypt = false ∨ s.dutyUp 6 = false ∨ s.boot.memActive = false ∨ s.boot.warmEntry = true ∨ (∀ r, Tbl.look s.regions i = some r → r.oldValid = false ∨ r.len * 65536 ≤ r.cursor
      ∨ (s.acc (retirePage r)).isMigrating = true ∨ s.pageLocked (retirePage r) = true) → exec (.retirePageOp i) s = .next s)
  ∧ (∀ (i : Fin 4096) (r : Region) (x : State) (pz : Bool) (s : State), Tbl.look s.regions i = some r → r.oldValid = true → r.cursor + 1 < r.len * 65536 → s.boot.memActive = true → s.boot.warmEntry = false →
      s.permits .reencrypt = true → s.dutyUp 6 = true → s.pageLocked (retirePage r) = false → (s.acc (retirePage r)).form = .unwritten pz → s.ctrLost (retirePage r) = false → s.govAdmit (homeSlice (retirePage r)) .reencrypt = some x →
      ∃ t r', exec (.retirePageOp i) s = .next t ∧ Tbl.look t.regions i = some r' ∧ r'.cursor = r.cursor + 1 ∧ r'.oldKey = r.oldKey ∧ r'.key = r.key ∧ t.sec.retire = s.sec.retire ∧ t.media = s.media)
  ∧ (∀ (i : Fin 4096) (r : Region) (x : State) (c fr e : Nat) (inc : Option Nat) (s : State), Tbl.look s.regions i = some r → r.oldValid = true → r.cursor < r.len * 65536 → r.lost = false →
      s.boot.memActive = true → s.boot.warmEntry = false → s.permits .reencrypt = true → s.dutyUp 6 = true → s.pageLocked (retirePage r) = false → s.ctrLost (retirePage r) = false → (s.acc (retirePage r)).form = .hot c fr inc →
      s.govAdmit (homeSlice (retirePage r)) .reencrypt = some x → x.pickEngine (homeSlice (retirePage r)) = some e → ∃ t r', exec (.retirePageOp i) s = .next t ∧ Tbl.look t.regions i = some r' ∧ r'.cursor = r.cursor ∧ r'.oldKey = r.oldKey ∧ t.media = s.media
        ∧ t.sec.retire = s.sec.retire ++ [{ region := i, page := retirePage r }] ∧ Tbl.look t.press.engines e = some (.copy (retirePage r)))
  ∧ (∀ (i : Fin 4096) (s : State), s.isSafe = true ∨ s.boot.warmEntry = true ∨ Tbl.look s.regions i = none ∨ (∀ x ∈ s.sec.retire, x.region ≠ i) → exec (.retirePageDone i) s = .next s)
  ∧ (∀ (i : Fin 4096) (r : Region) (x : RetireOp) (pz : Bool) (s : State), s.isSafe = false → s.boot.warmEntry = false → Tbl.look s.regions i = some r → r.oldValid = true → r.lost = false → r.cursor + 1 < r.len * 65536 → s.sec.retire = [x] → x.region = i →
      s.ctrLost x.page = false → (s.acc x.page).form = .unwritten pz → ∃ t r', exec (.retirePageDone i) s = .next t ∧ t.sec.retire = [] ∧ Tbl.look t.regions i = some r' ∧ r'.cursor = r.cursor + 1
        ∧ r'.oldKey = r.oldKey ∧ t.media = s.media)
  ∧ (∀ (i : Fin 4096) (r : Region) (x : RetireOp) (c fr : Nat) (inc : Option Nat) (xs : List Line) (u v : State) (s : State), s.isSafe = false → s.boot.warmEntry = false → s.tagsPending x.page 64 = false → Tbl.look s.regions i = some r → r.oldValid = true → r.lost = false →
      r.cursor + 1 < r.len * 65536 → s.sec.retire = [x] → x.region = i → s.ctrLost x.page = false → (s.acc x.page).form = .hot c fr inc → s.pageRead x.page 64 = some xs → s.storeRoom c (fr * 64) 64 = true →
      s.wantCtr x.page = (u, some true) → u.govAdmit (homeSlice x.page) .reencrypt = some v → ∃ t r', exec (.retirePageDone i) s = .next t ∧ t.sec.retire = [] ∧ Tbl.look t.regions i = some r' ∧ r'.cursor = r.cursor + 1
        ∧ (t.ch c).wq = ((v.reencrypt x.page xs).ch c).wq ∧ t.media = s.media)
  ∧ (∀ (k : Fin 4096) (s : State), (s.key k).st ≠ .zeroising → exec (.keyZeroiseDone k) s = .next s)
  ∧ ∀ (k : Fin 4096) (s : State), (s.key k).st = .zeroising → ∃ t, exec (.keyZeroiseDone k) s = .next t ∧ (t.key k).st = .free ∧ (t.key k).kd = 0 ∧ (t.key k).kt = 0 ∧ (∀ j, j ≠ k.val → t.key j = s.key j)
      ∧ t.regs = s.regs ∧ t.media = s.media ∧ t.regions = s.regions

/-! ### The Curator and moves -/

/-- The scan of a slice has visited page p and goes on to the next: an idle time of 8 epochs or more is marked as aged, and nothing else of the page changes. -/
abbrev Sys2Proof.Machine.Scanned (sl p : Nat) (s t : State) : Prop :=
  Tbl.lookD t.place.scanned 0 sl = Tbl.lookD s.place.scanned 0 sl + 1 ∧ Tbl.lookD t.place.scanNext 0 sl = (Tbl.lookD s.place.scanNext 0 sl + 1) % (s.boot.h * 2048) ∧ (t.acc p).form = (s.acc p).form
    ∧ (t.acc p).fstamp = (if 8 ≤ s.idleOf (s.acc p) then 15 else (s.acc p).fstamp) ∧ t.media = s.media

/-- The cold scan, epochs and plans (R135 to R139, R142). A visit of the scan, once the lines of its page's entry and footfall word have been read where they are not cached, moves to the slice's next page and marks a page idle for 8 epochs as aged. An epoch closes once its length has passed and the scan of every slice has advanced
1/7 of its pass: its lists become the closed ones, what was planned and not started is discarded, and the next epoch opens. The pair that holds a slice's duty builds its plan once, with the allocation set. The Curator stages
the unspills of a recalled lease ahead of the plan's own moves, and of these, at RESERVE and worse, the spills first (R291). -/
def Sys2Proof.Machine.CuratorCommandsTakeEffect : Prop :=
  (∀ (sl : SliceIx) (s : State), s.boot.h = 0 ∨ (sl.val ∉ s.place.scanAsk ∧ (s.permits .scan = false ∨ s.qos.share = 0)) ∨ (sl.val ∈ s.place.scanAsk ∧ s.itemsPending (scanItems (s.scanPage sl)) = true) →
      exec (.coldScanVisit sl) s = .next s)
  ∧ (∀ (sl : SliceIx) (x s : State), s.permits .scan = true → s.boot.h ≠ 0 → sl.val ∉ s.place.scanAsk → s.govAdmit sl .scan = some x → x.freeNow.getLsbD 0 = true →
      (x.advanceFree.metaReads (scanItems (s.scanPage sl))).itemsPending (scanItems (s.scanPage sl)) = true → ∃ t, exec (.coldScanVisit sl) s = .next t
        ∧ t.place = { s.place with scanAsk := s.place.scanAsk ++ [sl.val] } ∧ t.media = s.media)
  ∧ (∀ (sl : SliceIx) (x : State) (c fr p : Nat) (s : State), s.permits .scan = true → s.boot.h ≠ 0 → sl.val ∉ s.place.scanAsk → s.govAdmit sl .scan = some x → x.freeNow.getLsbD 0 = false → s.scanPage sl = p →
      (s.acc p).form = .hot c fr none → ∃ t, exec (.coldScanVisit sl) s = .next t ∧ Scanned sl p s t)
  ∧ (∀ (sl : SliceIx) (c fr p : Nat) (s : State), s.boot.h ≠ 0 → sl.val ∈ s.place.scanAsk → s.itemsPending (scanItems (s.scanPage sl)) = false → s.scanPage sl = p →
      (s.acc p).form = .hot c fr none → ∃ t, exec (.coldScanVisit sl) s = .next t ∧ Scanned sl p s t ∧ sl.val ∉ t.place.scanAsk)
  ∧ (∀ s : State, s.isSafe = true ∨ s.epochMs < s.place.lenMs ∨ (∃ sl : SliceIx, 7 * Tbl.lookD s.place.scanned 0 sl < s.boot.h * 2048) → exec .epochClose s = .next s)
  ∧ (∀ s : State, s.isSafe = false → s.place.lenMs ≤ s.epochMs → (∀ sl : SliceIx, s.boot.h * 2048 ≤ 7 * Tbl.lookD s.place.scanned 0 sl) → ∃ t, exec .epochClose s = .next t
      ∧ t.place.epoch = s.place.epoch + 1 ∧ t.place.closed = true ∧ t.place.thawC = s.place.thaw ∧ t.place.busyC = s.place.busy ∧ t.place.freezeC = s.place.freeze ∧ t.place.totalsC = s.place.totals
      ∧ t.place.thaw = [] ∧ t.place.busy = [] ∧ t.place.freeze = [] ∧ t.place.totals = [] ∧ t.place.plan = [] ∧ t.place.planned = [] ∧ t.place.staged = [] ∧ t.place.scanned = [] ∧ t.place.epochAt = s.tick
      ∧ t.place.lenMs = s.rd Reg.CUR_EPOCH_CFG_LEN_MS ∧ t.place.acc = s.place.acc ∧ t.media = s.media
      ∧ (s.epochMs = s.place.lenMs → s.place.long = false → t.rd Reg.CUR_EPOCH_STATUS_EPOCH = (s.place.epoch + 1) % 65536 ∧ t.rd Reg.CUR_EPOCH_LEN_EFF_LEN_MS = min 0xFFFFF s.epochMs ∧ t.out = s.out))
  ∧ (∀ (p : Pair) (s : State), s.isSafe = true ∨ s.boot.warmEntry = true ∨ s.healthy p = false ∨ s.warden.fence.contains p.val = true ∨ s.flag Reg.CUR_EPOCH_CFG_CURATE = false ∨ s.place.closed = false → exec (.curatorPlan p) s = .next s)
  ∧ (∀ (p : Pair) (s : State), s.isSafe = false → s.boot.warmEntry = false → s.healthy p = true → s.warden.fence.contains p.val = false → s.flag Reg.CUR_EPOCH_CFG_CURATE = true → s.place.closed = true → ∃ t, exec (.curatorPlan p) s = .next t ∧ t = { s with place := t.place }
      ∧ t.place.acc = s.place.acc ∧ t.place.staged = s.place.staged
      ∧ ∀ j, j < 4 → s.dutyOwner (2 + j) = p → s.place.planned.contains (2 + j) = false → t.place.planned.contains (2 + j) = true
        ∧ ∀ k, k < 8 → Tbl.look t.place.plan (8 * j + k) = some (s.planOf (8 * j + k)) ∧ Tbl.look t.place.allocSet (8 * j + k) = some s.allocChans)
  ∧ (∀ (sl : SliceIx) (s : State), s.isSafe = true ∨ s.boot.warmEntry = true ∨ s.dutyUp (2 + sl.val / 8) = false → exec (.moveStage sl) s = .next s)
  ∧ (∀ (sl : SliceIx) (p : Nat) (s : State), s.isSafe = false → s.boot.warmEntry = false → s.dutyUp (2 + sl.val / 8) = true → s.recalledPage sl = some p → ∃ t, exec (.moveStage sl) s = .next t
      ∧ t.place.staged = s.place.staged ++ [{ slice := sl, pair := s.dutyOwner (2 + sl.val / 8), move := { page := p, kind := .unspill } }] ∧ t.place.plan = s.place.plan
      ∧ t = { s with place := t.place })
  ∧ (∀ (sl : SliceIx) (s : State), s.recalledPage sl = none → s.flag Reg.CUR_EPOCH_CFG_CURATE = false ∨ Tbl.lookD s.place.plan [] sl = [] → exec (.moveStage sl) s = .next s)
  ∧ ∀ (sl : SliceIx) (m : Planned) (l : List Planned) (s : State), s.isSafe = false → s.boot.warmEntry = false → s.dutyUp (2 + sl.val / 8) = true → s.recalledPage sl = none →
      s.flag Reg.CUR_EPOCH_CFG_CURATE = true → Tbl.lookD s.place.plan [] sl = l →
      (if 3 ≤ s.rd Reg.CUR_PRESSURE_LEVEL then (l.find? (fun m => m.kind == .spill)).or l.head? else l.head?) = some m → ∃ t, exec (.moveStage sl) s = .next t
        ∧ t.place.staged = s.place.staged ++ [{ slice := sl, pair := s.dutyOwner (2 + sl.val / 8), move := m }] ∧ Tbl.lookD t.place.plan [] sl = l.erase m ∧ t = { s with place := t.place }

/-- A move's slot and source page after it aborted: the entry has its form of before, and the slot is free (R144). -/
abbrev Sys2Proof.Machine.Aborted (k : Nat) (m : MoveSlot) (s t : State) : Prop :=
  Tbl.look t.place.slots k = none ∧ (t.acc m.page).form = m.src.form ∧ t.media = s.media

/-- Moves of pages (R144 to R147). A start needs a staged move whose pair is not fenced, CURATE and an admission in the governor's share; a rehome takes a frame of its destination channel and an engine, and the page becomes MIGRATING. An inline thaw takes an engine and a frame for the
request that waits. A complete copy commits by an admission: the page takes its new form and the slot is free; what the copy holds stands in the new frame. A move that a write marked, or that has not committed within 100 µs, aborts by one admission of its home slice: its
page has its form of before. A rehome's first copy round is one page store, the later ones go line by line, each by an admission
(R24, R25); a round ends with the copy complete, another round, or, at the fourth in a row, the mark that aborts it. -/
def Sys2Proof.Machine.MovesTakeEffect : Prop :=
  (∀ (sl : SliceIx) (s : State), s.boot.warmEntry = true ∨ (∀ x ∈ s.place.staged, x.slice ≠ sl ∨ s.warden.fence.contains x.pair = true) → exec (.moveStart sl) s = .next s)
  ∧ (∀ (sl : SliceIx) (x : Staged) (y u : State) (c fr k n e : Nat) (inc : Option Nat) (s : State), s.boot.warmEntry = false → s.place.staged = [x] → x.slice = sl → s.warden.fence.contains x.pair = false →
      x.move.kind = .rehome → s.flag Reg.CUR_EPOCH_CFG_CURATE = true → s.permits (s.govKind x.move) = true → s.freeSlot sl false = some k → s.govAdmit sl .moves = some y → s.pickEngine sl = some e → s.guard x.move.page = none → s.pageLocked x.move.page = false →
      (s.acc x.move.page).form = .hot c fr inc → x.move.dst ≠ c → s.chLive x.move.dst = true → s.rd Reg.CUR_PRESSURE_LEVEL ≠ 4 → (y.unstage x).allocOn x.move.dst = some (n, u) →
      ∃ t m, exec (.moveStart sl) s = .next t ∧ t.place.staged = [] ∧ (t.acc x.move.page).form = .migrating k ∧ Tbl.look t.place.slots (slotKey sl k) = some m ∧ m.page = x.move.page
        ∧ m.kind = .rehome ∧ m.src = s.acc x.move.page ∧ m.dst = some (.hot x.move.dst n inc) ∧ m.copied = false ∧ m.engine = some e ∧ Tbl.look t.press.engines e = some (.move sl k) ∧ t.media = s.media)
  ∧ (∀ (sl : SliceIx) (n : Nat) (s : State), s.isSafe = true ∨ s.boot.warmEntry = true ∨ s.path.restart.contains sl.val = true ∨ (∀ x ∈ s.path.txns, x.req.id ≠ n ∨ x.slice ≠ sl ∨ x.phase ≠ .needThaw) →
      exec (.inlineThawStart sl n) s = .next s)
  ∧ (∀ (sl : SliceIx) (x : Txn) (y : State) (c sh n k e d fr : Nat) (s : State), s.isSafe = false → s.boot.warmEntry = false → s.path.restart.contains sl.val = false → s.path.txns = [x] → x.slice = sl →
      x.phase = .needThaw → s.pageLocked x.req.page = false → s.guard x.req.page = none → (s.acc x.req.page).form = .cold c sh n → s.freeSlot sl true = some k → s.pickEngine sl = some e →
      s.allocFrame x.req.page true = some (d, fr, y) → ∃ t m, exec (.inlineThawStart sl x.req.id) s = .next t ∧ (t.acc x.req.page).form = .migrating k
        ∧ Tbl.look t.press.engines e = some (.move sl k) ∧ Tbl.look t.place.slots (slotKey sl k) = some m ∧ m.page = x.req.page ∧ m.kind = .thaw ∧ m.inlineThaw = true ∧ m.src = s.acc x.req.page
        ∧ m.dst = some (.hot d fr none) ∧ m.copied = false ∧ t.media = s.media)
  ∧ (∀ (sl : SliceIx) (i : SlotIx) (s : State), s.isSafe = true ∨ s.path.restart.contains sl.val = true
      ∨ (∀ m, Tbl.look s.place.slots (slotKey sl i) = some m → m.abort = true ∨ s.copyDone m = false ∨ s.commitRoom m = false ∨ (seals m = false ∧ s.moveAdmit sl m = none)) → exec (.moveCommit sl i) s = .next s)
  ∧ (∀ (sl : SliceIx) (i : SlotIx) (m : MoveSlot) (c fr : Nat) (inc : Option Nat) (x s : State), s.isSafe = false → s.path.restart.contains sl.val = false → Tbl.look s.place.slots (slotKey sl i) = some m →
      m.abort = false → m.copied = true → m.kind = .rehome → m.dst = some (.hot c fr inc) → m.dirty = 0 → s.moveAdmit sl m = some x → ∃ t, exec (.moveCommit sl i) s = .next t ∧ (t.acc m.page).form = .hot c fr inc
        ∧ Tbl.look t.place.slots (slotKey sl i) = none ∧ (t.ch c).wq = (s.ch c).wq ∧ t.media = s.media)
  ∧ (∀ (sl : SliceIx) (i : SlotIx) (m : MoveSlot) (c fr : Nat) (inc : Option Nat) (x s : State), s.isSafe = false → s.path.restart.contains sl.val = false → Tbl.look s.place.slots (slotKey sl i) = some m →
      m.abort = false → m.copied = true → m.kind = .thaw → m.dst = some (.hot c fr inc) → m.fault = none → s.guard m.page = none → s.storeRoom c (fr * 64) 64 = true → s.moveAdmit sl m = some x →
      ∃ t, exec (.moveCommit sl i) s = .next t ∧ (t.acc m.page).form = .hot c fr none ∧ Tbl.look t.place.slots (slotKey sl i) = none ∧ (∀ (j : Nat) (y : Line), m.lines[j]? = some y → t.visible c (fr * 64 + j) = y)
        ∧ t.media = s.media)
  ∧ (∀ (sl : SliceIx) (i : SlotIx) (s : State), (∀ m, Tbl.look s.place.slots (slotKey sl i) = some m → m.abort = false) → exec (.moveAbort sl i) s = .next s)
  ∧ (∀ (sl : SliceIx) (i : SlotIx) (s : State), s.dmaAdmit sl = none → exec (.moveAbort sl i) s = .next s)
  ∧ (∀ (sl : SliceIx) (i : SlotIx) (m : MoveSlot) (c fr : Nat) (inc : Option Nat) (x s : State), Tbl.look s.place.slots (slotKey sl i) = some m → m.abort = true → m.src.form = .hot c fr inc → s.dmaAdmit sl = some x →
      ∃ t, exec (.moveAbort sl i) s = .next t ∧ Aborted (slotKey sl i) m s t)
  ∧ (∀ (sl : SliceIx) (i : SlotIx) (s : State), (∀ m, Tbl.look s.place.slots (slotKey sl i) = some m → m.kind = .thaw ∨ m.kind = .unspill ∨ s.tick < m.startTick + s.us100) → exec (.moveTimeout sl i) s = .next s)
  ∧ (∀ (sl : SliceIx) (i : SlotIx) (m : MoveSlot) (c fr : Nat) (inc : Option Nat) (s : State), Tbl.look s.place.slots (slotKey sl i) = some m → m.kind = .freeze ∨ m.kind = .rehome ∨ m.kind = .spill →
      m.startTick + s.us100 ≤ s.tick → m.src.form = .hot c fr inc → ∃ t, exec (.moveTimeout sl i) s = .next t ∧ (∀ x, s.dmaAdmit sl = some x → Aborted (slotKey sl i) m s t)
        ∧ (s.dmaAdmit sl = none → Tbl.look t.place.slots (slotKey sl i) = some { m with abort := true } ∧ t.place.acc = s.place.acc ∧ t = { s with place := t.place }))
  ∧ (∀ (sl : SliceIx) (i : SlotIx) (s : State), (∀ m, Tbl.look s.place.slots (slotKey sl i) = some m → m.kind ≠ .rehome ∨ m.abort = true) → exec (.rehomeCopyRound sl i) s = .next s)
  ∧ (∀ (sl : SliceIx) (i : SlotIx) (m : MoveSlot) (c fr : Nat) (inc : Option Nat) (xs : List Line) (x s : State), Tbl.look s.place.slots (slotKey sl i) = some m → m.kind = .rehome → m.dst = some (.hot c fr inc) →
      m.abort = false → m.begun = false → m.todo = 0 → m.dirty = 0 → s.pageRead m.page 64 = some xs → s.storeRoom c (fr * 64) 64 = true → s.moveAdmit sl m = some x → ∃ t, exec (.rehomeCopyRound sl i) s = .next t
        ∧ Tbl.look t.place.slots (slotKey sl i) = some { m with begun := true, engine := none, copied := true, rounds := 0 } ∧ (∀ (j : Nat) (y : Line), xs[j]? = some y → t.visible c (fr * 64 + j) = y)
        ∧ t.place.acc = s.place.acc ∧ t.media = s.media)
  ∧ (∀ (sl : SliceIx) (i : SlotIx) (m : MoveSlot) (c fr : Nat) (inc : Option Nat) (j : Fin 64) (y : Line) (x s : State), Tbl.look s.place.slots (slotKey sl i) = some m → m.kind = .rehome → m.dst = some (.hot c fr inc) →
      m.abort = false → m.begun = true → m.todo = 1#64 <<< j.val → m.dirty = 0 → Tbl.look (Tbl.lookD s.sec.gather [] m.page) j = some y → s.wqRoom c (fr * 64 + j) = true → s.moveAdmit sl m = some x →
      ∃ t, exec (.rehomeCopyRound sl i) s = .next t ∧ Tbl.look t.place.slots (slotKey sl i) = some { m with todo := 0, copied := true, rounds := 0 } ∧ t.visible c (fr * 64 + j) = y
        ∧ t.place.acc = s.place.acc ∧ t.media = s.media)
  ∧ ∀ (sl : SliceIx) (i : SlotIx) (m : MoveSlot) (d e : Nat) (inc : Option Nat) (s : State), Tbl.look s.place.slots (slotKey sl i) = some m → m.kind = .rehome → m.dst = some (.hot d e inc) → m.abort = false → m.begun = true → m.todo = 0 →
      (m.dirty = 0 → ∃ t, exec (.rehomeCopyRound sl i) s = .next t ∧ Tbl.look t.place.slots (slotKey sl i) = some { m with copied := true, rounds := 0 } ∧ t.place.acc = s.place.acc ∧ t.media = s.media)
      ∧ (m.dirty ≠ 0 → m.rounds + 1 < 4 → ∃ t, exec (.rehomeCopyRound sl i) s = .next t
          ∧ Tbl.look t.place.slots (slotKey sl i) = some { m with todo := m.dirty, dirty := 0, rounds := m.rounds + 1, copied := false } ∧ t.place.acc = s.place.acc ∧ t.media = s.media)
      ∧ (m.dirty ≠ 0 → 4 ≤ m.rounds + 1 → ∃ t, exec (.rehomeCopyRound sl i) s = .next t ∧ Tbl.look t.place.slots (slotKey sl i) = some { m with abort := true } ∧ t.place.acc = s.place.acc ∧ t = { s with place := t.place })

/-- The Curator's scan, epochs and plans, and the moves of pages (R135 to R139, R142, R144, R146, R147): what each of their steps does when the state admits it, and that it has no effect when it does not. The order of moves in a plan and
the lease that a spill names are the model's reading (log entries 39 and 75). -/
def Obligations.CuratorAndMovesTakeEffect : Prop :=
  CuratorCommandsTakeEffect ∧ MovesTakeEffect

/-! ### Press engines and offload jobs -/

/-- What a Press engine does with a page (R140, R141, R149, R156, R167 to R171). A compression that comes to more than 7 sherds gives the freeze up and marks the page incompressible; one that fails its check is counted
against the engine and does the same; one that passes takes its sherds and the move's copy is complete. A decode for a thaw gives the move its lines, or its fault, which is recorded; a decode for reads delivers the line that
each one asked for. The engine is idle afterwards, but for that of a thaw, which keeps the page until its page store (R25). -/
def Sys2Proof.Machine.PressEnginesTakeEffect : Prop :=
  (∀ (e : Engine) (img : Image) (s : State), (∀ sl k, Tbl.look s.press.engines e ≠ some (.move sl k)) ∨ s.engineLines e 64 = none → exec (.pressCompressDone e img) s = .next s)
  ∧ (∀ (e : Engine) (img : Image) (sl k c fr : Nat) (inc : Option Nat) (m : MoveSlot) (raw : List Line) (s : State), Tbl.look s.press.engines e = some (.move sl k) → Tbl.look s.place.slots (slotKey sl k) = some m →
      m.kind = .freeze → m.src.form = .hot c fr inc → s.engineLines e 64 = some raw → s.guard m.page = none → s.path.wcb = [] → (∀ x ∈ raw, x.poison = false) →
      (7 < sherdsFor img.stream.length → ∃ t, exec (.pressCompressDone e img) s = .next t ∧ Tbl.look t.press.engines e = none ∧ t.media = s.media ∧ t.place.acc = s.place.acc
        ∧ Tbl.look t.place.slots (slotKey sl k) = some { m with abort := true, src := { m.src with form := .hot c fr (some s.incGen) } })
      ∧ (sherdsFor img.stream.length ≤ 7 → img.stream ≠ [] → (∃ w, checkedImage img m.page (((s.acc m.page).version + 1) % 32) raw = .error w) → ∃ t, exec (.pressCompressDone e img) s = .next t
        ∧ Tbl.look t.press.engines e = none ∧ t.media = s.media ∧ Tbl.lookD t.press.fails 0 e = Tbl.lookD s.press.fails 0 e + 1
        ∧ Tbl.look t.place.slots (slotKey sl k) = some { m with abort := true, src := { m.src with form := .hot c fr (some s.incGen) } })
      ∧ ∀ lines c' sh u, sherdsFor img.stream.length ≤ 7 → img.stream ≠ [] → checkedImage img m.page (((s.acc m.page).version + 1) % 32) raw = .ok lines →
        (s.freeEngine e).allocSherds m.page (some c) (sherdsFor img.stream.length) = some (c', sh, u) → ∃ t, exec (.pressCompressDone e img) s = .next t ∧ Tbl.look t.press.engines e = none ∧ t.media = s.media
        ∧ Tbl.look t.place.slots (slotKey sl k) = some { m with dst := some (.cold c' sh (sherdsFor img.stream.length)), lines := lines, copied := true })
  ∧ (∀ (e : Engine) (s : State), Tbl.look s.press.engines e = none ∨ (∃ q ld d, Tbl.look s.press.engines e = some (.job q ld d))
      ∨ (∃ p f v l, Tbl.look s.press.engines e = some (.read p f v l) ∧ s.engineLines e (8 * sherdCount f) = none)
      ∨ (∃ sl k m, Tbl.look s.press.engines e = some (.move sl k) ∧ Tbl.look s.place.slots (slotKey sl k) = some m ∧ m.copied = true) → exec (.pressDecodeDone e) s = .next s)
  ∧ (∀ (e : Engine) (sl k c sh n : Nat) (m : MoveSlot) (raw : List Line) (s : State), Tbl.look s.press.engines e = some (.move sl k) → Tbl.look s.place.slots (slotKey sl k) = some m → m.kind = .thaw → m.copied = false →
      m.src.form = .cold c sh n → s.guard m.page = none → s.engineLines e (8 * n) = some raw → (∀ x ∈ s.path.txns, x.phase = .decode → x.req.page ≠ m.page) → ∃ t, exec (.pressDecodeDone e) s = .next t ∧ Tbl.look t.press.engines e = some (.move sl k) ∧ t.media = s.media
        ∧ match (s.decodePage m.page m.src.version m.src.form none raw).1 with
          | .page lines => Tbl.look t.place.slots (slotKey sl k) = some { m with copied := true, lines := lines }
          | .poisoned => Tbl.look t.place.slots (slotKey sl k) = some { m with copied := true, fault := some 0 }
          | .fault code strand => Tbl.look t.place.slots (slotKey sl k) = some { m with copied := true, fault := some code }
              ∧ t.rd Reg.PRS_FAULTS_LAST_FAULT = code % 2 ^ Reg.PRS_FAULTS_LAST_FAULT.w ∧ t.rd Reg.PRS_LAST_FAULT_DPA_PAGE = m.page % 2 ^ Reg.PRS_LAST_FAULT_DPA_PAGE.w
              ∧ t.rd Reg.PRS_LAST_FAULT_DPA_STRAND = strand % 2 ^ Reg.PRS_LAST_FAULT_DPA_STRAND.w)
  ∧ ∀ (e : Engine) (p v : Nat) (f : PageForm) (x : Txn) (raw lines : List Line) (s : State), Tbl.look s.press.engines e = some (.read p f v none) → s.engineLines e (8 * sherdCount f) = some raw →
      s.tagsPending p (8 * sherdCount f) = false → (s.decodePage p v f none raw).1 = .page lines → s.path.txns = [x] → x.phase = .decode → x.req.page = p →
      (∀ y, s.exchOf x.req.id = some y → ∃ t, exec (.pressDecodeDone e) s = .next t ∧ Tbl.look t.press.engines e = none ∧ t.media = s.media ∧ t.out = s.out
        ∧ t.path.txns = [{ x with data := some ((lines[x.req.lineIx]?).getD {}), phase := .exch }])
      ∧ (∀ h, s.exchOf x.req.id = none → x.req.src = .head h → x.req.op = .rd → s.canSend h = true → s.isDb p = false → ∃ t, exec (.pressDecodeDone e) s = .next t ∧ Tbl.look t.press.engines e = none
        ∧ t.media = s.media ∧ t.path.txns = [] ∧ Out.memData h x.req.tag ((lines[x.req.lineIx]?).getD {}).data (((lines[x.req.lineIx]?).getD {}).poison || x.poisoned) .noOp ∈ t.out)

/-- A queue may start its next descriptor: offload is enabled, the queue has one posted and its turn, no fence of it runs, and no waiting inline work takes the engine (R27, R85, R172). -/
abbrev Sys2Proof.Machine.State.queueMayStart (s : State) (q e : Nat) : Prop :=
  Tbl.look s.press.aborting q = none ∧ s.flag Reg.PRS_CFG_OFFLOAD_EN = true ∧ s.qPosted q = true ∧ s.qTurn q = true ∧ s.qFenced q = false ∧ s.inlineWaits e = false ∧ s.isSafe = false ∧ s.boot.warmEntry = false

/-- The read of the descriptor a queue starts next, at its place in the ring (R172). -/
abbrev Sys2Proof.Machine.State.descRead (s : State) (q : Nat) : Out := .hostRead (s.qLd q) (64 * s.rd (Reg.PRS_Q_BASE_ADDR q) + 64 * s.rd (Reg.PRS_Q_HEAD_HEAD q)) 64

/-- HEAD of a queue has advanced by one descriptor. -/
abbrev Sys2Proof.Machine.HeadAdvanced (q : Nat) (s t : State) : Prop :=
  t.rd (Reg.PRS_Q_HEAD_HEAD q) = (s.rd (Reg.PRS_Q_HEAD_HEAD q) + 1) % s.qSize q % 2 ^ (Reg.PRS_Q_HEAD_HEAD q).w

/-- Offload jobs (R85, R158, R172 to R177). A descriptor that may start is read from its ring and takes an idle engine that may do it, the head advances, and the job reads the continuation record it resumes from and its source;
a fence takes an engine, sends its zero-length read once the queue has no other job left, and ends after it; with every engine retired a compression ends at once with status 3. A posted descriptor of a deleted queue is read and ends with ABORTED (log entry 33). A job
that waits for its LD's memory goes on; one ends with its data, its continuation record where there is more, and its completion record, in that order (log entries 31 and 32); a fence and a bad descriptor end with their status
alone. -/
def Sys2Proof.Machine.OffloadJobsTakeEffect : Prop :=
  (∀ (q : Fin 64) (e : Engine) (d : BitVec 512) (s : State), Tbl.look s.press.aborting q = none → ¬ s.queueMayStart q e → exec (.descriptorStart q e d) s = .next s)
  ∧ (∀ (q : Fin 64) (e : Engine) (d : BitVec 512) (s : State), s.queueMayStart q e → dOp d ≠ 0x0F → s.engineIdle e = true → isCompressOp (dOp d) = false ∨ s.bit Reg.PRS_RETIRED_ENGINE e = false →
      ∃ t, exec (.descriptorStart q e d) s = .next t ∧ Tbl.look t.press.engines e = some (.job q (s.qLd q) d) ∧ t.media = s.media ∧ HeadAdvanced q s t
        ∧ t.out = (if badDescriptor d then [] else (if dSrcDev d then [] else [.hostRead (s.qLd q) (dSrc d) (dSrcLen d)])
            ++ (if dCont d && isStreamOp (dOp d) then [.hostRead (s.qLd q) (dContAddr d) 64] else [])) ++ s.descRead q :: s.out)
  ∧ (∀ (q : Fin 64) (e : Engine) (d : BitVec 512) (a : Nat) (s : State), s.queueMayStart q e → dOp d = 0x0F → s.qJobs q = [] → s.engineIdle e = true → Tbl.look s.press.lastHost q = some a →
      ∃ t, exec (.descriptorStart q e d) s = .next t ∧ Tbl.look t.press.engines e = some (.job q (s.qLd q) d) ∧ t.out = .hostRead0 (s.qLd q) a :: s.descRead q :: s.out ∧ HeadAdvanced q s t
        ∧ q.val ∉ t.press.fenced)
  ∧ (∀ (q : Fin 64) (e : Engine) (d : BitVec 512) (s : State), s.queueMayStart q e → dOp d = 0x0F → s.qJobs q ≠ [] → s.engineIdle e = true →
      ∃ t, exec (.descriptorStart q e d) s = .next t ∧ Tbl.look t.press.engines e = some (.job q (s.qLd q) d) ∧ q.val ∈ t.press.fenced ∧ t.qFenced q = true ∧ t.out = s.descRead q :: s.out ∧ HeadAdvanced q s t)
  ∧ (∀ (q : Fin 64) (e : Engine) (d : BitVec 512) (s : State), s.queueMayStart q e → isCompressOp (dOp d) = true → (∀ k, k < 64 → s.bit Reg.PRS_RETIRED_ENGINE k = true) → dIrq d = false →
      ∃ t, exec (.descriptorStart q e d) s = .next t ∧ t.press.engines = s.press.engines ∧ HeadAdvanced q s t
        ∧ t.out = .hostWrite (s.qLd q) (dComplAddr d) (complRecord d { status := if badDescriptor d then 4 else 3 }) false :: s.descRead q :: s.out)
  ∧ (∀ (q : Fin 64) (e : Engine) (d : BitVec 512) (r : AbortRing) (s : State), Tbl.look s.press.aborting q = some r → dIrq d = false → ∃ t, exec (.descriptorStart q e d) s = .next t
      ∧ t.out = .hostWrite r.ld (dComplAddr d) (complRecord d { status := 8 }) false :: .hostRead r.ld (r.base + 64 * r.head) 64 :: s.out ∧ t.press.engines = s.press.engines
      ∧ Tbl.look t.press.aborting q = (if (r.head + 1) % 2 ^ r.log2 = r.tail then none else some { r with head := (r.head + 1) % 2 ^ r.log2 }))
  ∧ (∀ (e : Engine) (env : JobEnv) (s : State), (∀ q ld d, Tbl.look s.press.engines e ≠ some (.job q ld d)) → exec (.jobComplete e env) s = .next s)
  ∧ (∀ (e : Engine) (env : JobEnv) (q ld : Nat) (d : BitVec 512) (s : State), Tbl.look s.press.engines e = some (.job q ld d) → dOp d ≠ 0x0F → badDescriptor d = false → s.jobPending e = true →
      exec (.jobComplete e env) s = .next s)
  ∧ (∀ (e : Engine) (env : JobEnv) (q ld : Nat) (d x : BitVec 512) (s : State), Tbl.look s.press.engines e = some (.job q ld d) → dOp d = 0x0F → q ∈ s.press.fenced → x ∈ s.qJobs q → dOp x ≠ 0x0F →
      exec (.jobComplete e env) s = .next s)
  ∧ (∀ (e f : Engine) (env : JobEnv) (q ld : Nat) (d x : BitVec 512) (s : State), e ≠ f → s.press.engines = [(e.val, .job q ld d), (f.val, .job q ld x)] → dIrq d = false → dOp d ≠ 0x0F → badDescriptor d = true → dOp x = 0x0F →
      q ∈ s.press.fenced → ∃ t, exec (.jobComplete e env) s = .next t ∧ t.press.engines = [(f.val, .job q ld x)] ∧ q ∉ t.press.fenced
        ∧ t.out = .hostRead0 ld (dComplAddr d) :: .hostWrite ld (dComplAddr d) (complRecord d { status := 4 }) false :: s.out)
  ∧ (∀ (e : Engine) (env : JobEnv) (q ld : Nat) (d : BitVec 512) (s : State), Tbl.look s.press.engines e = some (.job q ld d) → dIrq d = false → q ∉ s.press.fenced → dOp d = 0x0F ∨ badDescriptor d = true → ∃ t, exec (.jobComplete e env) s = .next t
      ∧ Tbl.look t.press.engines e = none ∧ t.out = .hostWrite ld (dComplAddr d) (complRecord d { status := if dOp d = 0x0F then 0 else 4 }) false :: s.out)
  ∧ (∀ (e : Engine) (env : JobEnv) (q ld : Nat) (d : BitVec 512) (k : Cont) (r : JobRes) (s : State), Tbl.look s.press.engines e = some (.job q ld d) → Tbl.look s.press.jobs e = none → s.jobPending e = false → dIrq d = false → q ∉ s.press.fenced →
      dOp d ≠ 0x0F → badDescriptor d = false → contOf d env.cont = some k → dSrcDev d = false → dDstDev d = false →
      runJob d { dstLen := dDstLen d, srcBad := env.srcBad, dstBad := env.dstBad } ((env.src ++ List.replicate (dSrcLen d - env.src.length) 0).take (dSrcLen d)) env k = r → r.verify = false →
      ∃ t, exec (.jobComplete e env) s = .next t ∧ Tbl.look t.press.engines e = none ∧ t.media = s.media
        ∧ t.out = ((endWrites d k r).map (fun w => Out.hostWrite ld w.1 w.2 false)).reverse ++ (if r.out = [] then [] else [.hostWrite ld (dDst d) r.out (dRo d)]) ++ s.out)
  ∧ ∀ (e : Engine) (env v : JobEnv) (q ld : Nat) (d : BitVec 512) (j : Job) (k : Cont) (s : State), Tbl.look s.press.engines e = some (.job q ld d) → Tbl.look s.press.jobs e = some j → j.env = some v → s.jobPending e = false →
      dIrq d = false → q ∉ s.press.fenced → dOp d ≠ 0x0F → badDescriptor d = false → contOf d v.cont = some k → dDstDev d = true → (jobResult j d v k).verify = false → ∃ t, exec (.jobComplete e env) s = .next t
      ∧ Tbl.look t.press.engines e = none ∧ t.media = s.media ∧ t.out = ((endWrites d k (jobResult j d v k)).map (fun w => Out.hostWrite ld w.1 w.2 false)).reverse ++ s.out

/-- The Press engines and their offload jobs (R85, R140, R141, R156, R158, R167 to R177): what an engine does with a page and with a descriptor. When an engine has no such work the command has no effect. -/
def Obligations.PressEnginesAndJobsTakeEffect : Prop :=
  PressEnginesTakeEffect ∧ OffloadJobsTakeEffect

/-! ### Training and calibration -/

/-- The set that a lane takes from a sweep: the centre of each of its runs, and the two VREF codes (R231; Table 9.2). -/
def Sys2Proof.Machine.sweptSet (e : EyeRes × EyeRes) : LaneSet :=
  { rd0 := centre e.1.e0, rd1 := centre e.1.e1, rv := e.1.vref, wv := e.2.vref, wr0 := centre e.2.e0, wr1 := centre e.2.e1 }

/-- The edges that a pass uses: those of VREF count on every 16th pass alone (R237). -/
def Sys2Proof.Machine.passEdges (k : Nat) (e : LaneEdges) : LaneEdges := if k % 16 = 0 then e else { e with rdVref := none, wrVref := none }

/-- The edges that a pass finds for byte b of a lane group, when the environment's are e: at the last recorded ones or a step beside them (R237). -/
abbrev Sys2Proof.Machine.State.foundEdges (s : State) (c lr sub b : Nat) (e : LaneEdges) : LaneEdges :=
  (s.ch c).probed (laneIx lr sub b) (passEdges (Tbl.lookD (s.ch c).passes 0 (groupKey lr sub) + 1) e)

/-- A pass finds some nibble narrower than TRN_MARGIN_LOW (R241). -/
abbrev Sys2Proof.Machine.State.narrowPass (s : State) (c lr sub : Nat) (edges : List LaneEdges) : Prop :=
  ∃ b < 5, ∃ e ∈ edges[b]?, ∃ x ∈ [(s.foundEdges c lr sub b e).rd0, (s.foundEdges c lr sub b e).rd1, (s.foundEdges c lr sub b e).wr0, (s.foundEdges c lr sub b e).wr1],
    widthOf x < s.rd (Reg.DMC_TRN_CTL_TRN_MARGIN_LOW c)

/-- What a pass over a lane group leaves: its count and time, the sub-channel occupied for its clocks, at most 150 ns (R238), both sets around the temperature moved by at most one step towards the centres of the edges that
its probes find (R237), and LOW_MARGIN where a nibble is too narrow (R241). -/
abbrev Sys2Proof.Machine.Recalibrated (c lr sub : Nat) (edges : List LaneEdges) (clks : Nat) (s t : State) : Prop :=
  Tbl.look (t.ch c).passes (groupKey lr sub) = some (Tbl.lookD (s.ch c).passes 0 (groupKey lr sub) + 1) ∧ Tbl.look (t.ch c).lastPass (groupKey lr sub) = some s.tick ∧ t.media = s.media
  ∧ Tbl.look (t.ch c).passUntil sub = some (s.clkNow + min clks s.passClocks) ∧ (s.narrowPass c lr sub edges → t.flag (Reg.DMC_TRN_STATUS_LOW_MARGIN c) = true)
  ∧ ∀ b e, b < 5 → edges[b]? = some e → ∀ i, i = intervalOf (s.chTemp c) ∨ i = intervalOf (s.chTemp c) + 1 → Tbl.look (t.ch c).sets (setKey (laneIx lr sub b) i)
      = some (((s.ch c).set (laneIx lr sub b) i).follow ((s.ch c).interp (laneIx lr sub b) (s.chTemp c)) (centresOf ((s.ch c).interp (laneIx lr sub b) (s.chTemp c)) (s.foundEdges c lr sub b e)))

/-- Training (R230 to R241). A sweep gives every lane of its rank the centre of its eye in all eight sets; with a lane that fails twice it writes none, and the channel leaves the boot. A fast check applies the interpolated values and ends
the channel's training, or asks for the sweep when a lane is too narrow. A temperature reading is kept and gives live lanes their targets; a sensor that does not read has none (R296). A background pass, forced or not, moves the sets around the temperature by at most a step. -/
def Sys2Proof.Machine.TrainingTakesEffect : Prop :=
  (∀ (c : Chan) (lr : Fin 16) (temp : Int) (a b : SweepTry) (s : State), s.boot.sweep.find? (fun e => e.1 == c.val) ≠ some (c.val, lr.val) → exec (.trainingSweep c lr temp a b) s = .next s)
  ∧ (∀ (c : Chan) (lr : Fin 16) (temp : Int) (a x : SweepTry) (rest : List (Nat × Nat)) (s : State), s.boot.sweep = (c.val, lr.val) :: rest → (c.val, lr.val) ∉ rest → (∃ y ∈ rest, y.1 = c.val) →
      s.failedLane c lr a = none → ∃ t, exec (.trainingSweep c lr temp a x) s = .next t ∧ t.boot.sweep = rest ∧ t.rd (Reg.DMC_TEMP_TEMP c) = twos 12 (s.sensed (5 + c) temp) % 2 ^ (Reg.DMC_TEMP_TEMP c).w ∧ t.out = s.out
        ∧ ∀ b, b < 10 → ∀ k, k < 8 → Tbl.look (t.ch c).sets (setKey (10 * lr + b) k) = some (sweptSet (s.sweptEyes c a b))
          ∧ Tbl.look (t.ch c).inUse (10 * lr + b) = Tbl.look (t.ch c).sets (setKey (10 * lr + b) k))
  ∧ (∀ (c : Chan) (lr : Fin 16) (temp : Int) (a x : SweepTry) (m n : Nat) (rest : List (Nat × Nat)) (s : State), s.boot.sweep = (c.val, lr.val) :: rest → (∃ y ∈ rest, y.1 ≠ c.val) →
      s.failedLane c lr a = some m → s.failedLane c lr x = some n → ∃ t, exec (.trainingSweep c lr temp a x) s = .next t ∧ t.boot.sweep = rest.filter (fun e => e.1 != c.val) ∧ t.dmc = s.dmc ∧ t.media = s.media)
  ∧ (∀ (c : Chan) (edges : List LaneEdges) (s : State), s.boot.fast.contains c.val = false → exec (.fastCheck c edges) s = .next s)
  ∧ (∀ (c : Chan) (edges : List LaneEdges) (s : State), s.boot.fast.contains c.val = true → edges.length ≠ (s.lanes c).length ∨ (∃ e ∈ edges, ∃ x ∈ [e.rd0, e.rd1, e.wr0, e.wr1], widthOf x < s.rd (Reg.DMC_TRN_CTL_TRN_MIN_WIDTH c)) →
      ∃ t, exec (.fastCheck c edges) s = .next t ∧ t.boot.fast = s.boot.fast.filter (· != c.val) ∧ t.boot.sweep = s.boot.sweep ++ s.sweepOf c ∧ t.rd (Reg.DMC_TRN_STATUS_STATE c) = 1
        ∧ t.rd (Reg.DMC_TRN_STATUS_VISITED c) = 0 ∧ (t.ch c).sets = [] ∧ (t.ch c).inUse = [] ∧ (∀ d, d ≠ c.val → t.ch d = s.ch d) ∧ t.out = s.out)
  ∧ (∀ (c : Chan) (edges : List LaneEdges) (s : State), s.boot.fast.contains c.val = true → (∃ j ∈ s.boot.fast, j ≠ c.val) → (∀ x ∈ s.boot.sweep, x.1 ≠ c.val) → edges.length = (s.lanes c).length →
      (∀ e ∈ edges, ∀ x ∈ [e.rd0, e.rd1, e.wr0, e.wr1], s.rd (Reg.DMC_TRN_CTL_TRN_MIN_WIDTH c) ≤ widthOf x) → ∃ t, exec (.fastCheck c edges) s = .next t ∧ t.boot.fast = s.boot.fast.filter (· != c.val)
        ∧ t.rd (Reg.DMC_TRN_STATUS_STATE c) = 2 ∧ t.flag (Reg.DMC_TRN_STATUS_FAST c) = true ∧ t.out = s.out
        ∧ (t.ch c).inUse = (s.lanes c).map (fun n => (n, (s.ch c).interp n (s.chTemp c))) ∧ (t.ch c).target = (t.ch c).inUse)
  ∧ (∀ (c : Chan) (s : State), exec (.tempInterpolate c none) s = .next { s with qos := { s.qos with sensors := Tbl.del s.qos.sensors (5 + c.val) } })
  ∧ (∀ (c : Chan) (temp : Int) (s : State), ∃ t, exec (.tempInterpolate c (some temp)) s = .next t ∧ Tbl.look t.qos.sensors (5 + c) = some (s.sensed (5 + c) temp) ∧ t.rd (Reg.DMC_TEMP_TEMP c) = twos 12 (s.sensed (5 + c) temp) % 2 ^ (Reg.DMC_TEMP_TEMP c).w ∧ t.out = s.out
      ∧ if s.rd (Reg.DMC_TRN_STATUS_STATE c) = 2 then (t.ch c).target = (s.ch c).inUse.map (fun e => (e.1, (s.ch c).interp e.1 (s.sensed (5 + c) temp))) ∧ (t.ch c).inUse = (s.ch c).inUse else t.dmc = s.dmc)
  ∧ (∀ (c : Chan) (lr : Fin 16) (sub : Fin 2) (edges : List LaneEdges) (clks : Nat) (ces : List RecalCe) (s : State), s.recalOn c lr = false ∨ edges.length ≠ 5 ∨ s.inPass c sub s.clkNow = true →
      exec (.recalPass c lr sub edges clks ces) s = .next s ∧ exec (.recalForced c lr sub edges clks ces) s = .next s)
  ∧ (∀ (c : Chan) (lr : Fin 16) (sub : Fin 2) (edges : List LaneEdges) (clks : Nat) (ces : List RecalCe) (s : State), s.noTarget c sub lr none = false → exec (.recalPass c lr sub edges clks ces) s = .next s)
  ∧ (∀ (c : Chan) (lr : Fin 16) (sub : Fin 2) (edges : List LaneEdges) (clks : Nat) (ces : List RecalCe) (s : State), s.recalOn c lr = true → edges.length = 5 → s.inPass c sub s.clkNow = false →
      s.noTarget c sub lr none = true → ∃ t, exec (.recalPass c lr sub edges clks ces) s = .next t ∧ Recalibrated c lr sub edges clks s t ∧ (ces = [] → ¬ s.narrowPass c lr sub edges → t.out = s.out))
  ∧ (∀ (c : Chan) (lr : Fin 16) (sub : Fin 2) (edges : List LaneEdges) (clks : Nat) (ces : List RecalCe) (s : State), s.recalDue c lr sub = false ∨ (∃ r ∈ s.rqOf c sub, s.abovePass c r = true) →
      exec (.recalForced c lr sub edges clks ces) s = .next s)
  ∧ ∀ (c : Chan) (lr : Fin 16) (sub : Fin 2) (edges : List LaneEdges) (clks : Nat) (ces : List RecalCe) (s : State), s.recalDue c lr sub = true → (∀ r ∈ s.rqOf c sub, s.abovePass c r = false) → edges.length = 5 →
      s.inPass c sub s.clkNow = false → ∃ t, exec (.recalForced c lr sub edges clks ces) s = .next t ∧ Recalibrated c lr sub edges clks s t
        ∧ (ces = [] → ¬ s.narrowPass c lr sub edges → t.out = s.out) ∧ t.rd (Reg.DMC_TRN_STATUS_FORCED c) = min (s.rd (Reg.DMC_TRN_STATUS_FORCED c) + 1) (2 ^ (Reg.DMC_TRN_STATUS_FORCED c).w - 1)

/-- The coefficients of a converter or sensor at the two set points around its temperature have moved by the errors that its corrected conversions of zero and of a reference show (R242, R243). -/
abbrev Sys2Proof.Machine.Adjusted (n : Nat) (x zero ref value : Int) (s t : State) : Prop :=
  ∀ i, i = intervalOf x ∨ i = intervalOf x + 1 → Tbl.lookD t.gth.coeff (0, 0) (coeffKey n i) =
    ((Tbl.lookD s.gth.coeff (0, 0) (coeffKey n i)).1 + (value - (s.gth.convert n x ref - s.gth.convert n x zero)) * 10 ^ 6 / value, (Tbl.lookD s.gth.coeff (0, 0) (coeffKey n i)).2 + -s.gth.convert n x zero)

/-- Calibration against VREF_EXT (R242, R243, R245; Table 9.4). Without its supply the Gatehouse does nothing. A reference found bad sets REF_LOST; calibration then stands still until ten good checks in a row clear it. Otherwise
a step moves the coefficients of its converter or sensor and counts it done, and the spare takes a converter's quantity; the line's copy error is the spare's corrected conversion of it less GTH_VREF_VALUE. -/
def Sys2Proof.Machine.CalibrationTakesEffect : Prop :=
  (∀ (v : Fin 6) (vref : Nat) (gnd x zero ref : Int) (s : State), s.gth.aux = false → exec (.gthConverterCal v vref gnd x zero ref) s = .next s)
  ∧ (∀ (v : Fin 6) (vref : Nat) (gnd x zero ref : Int) (s : State), s.gth.aux = true → ∃ t, exec (.gthConverterCal v vref gnd x zero ref) s = .next t ∧ t.media = s.media
      ∧ t.gth.temp = s.gth.correct 5 s.gth.temp absZero x ∧
      if s.refBad vref gnd.natAbs = true then
        t.gth.goodRefs = 0 ∧ t.gth.calDone = s.gth.calDone ∧ t.gth.coeff = s.gth.coeff ∧ (s.gr Reg.GTH_CAL_STATUS_REF_LOST ≠ 1 → t.gr Reg.GTH_CAL_STATUS_REF_LOST = 1 ∧ t.gr Reg.GTH_CAL_STATUS_REF_LOST_SEEN = 1)
      else if s.gr Reg.GTH_CAL_STATUS_REF_LOST = 1 then
        t.gth.coeff = s.gth.coeff ∧ if s.gth.goodRefs + 1 < 10 then t.gth.goodRefs = s.gth.goodRefs + 1 ∧ t.gr Reg.GTH_CAL_STATUS_REF_LOST = 1 else t.gth.goodRefs = 0 ∧ t.gr Reg.GTH_CAL_STATUS_REF_LOST = 0
      else Adjusted v t.gth.temp zero ref (s.refFor v) s t ∧ t.gth.calDone = (s.gth.calDone ||| (1#6 <<< v.val)) ∧ (t.gr Reg.GTH_CAL_STATUS_GTH_CAL_DONE = if t.gth.calDone = 0x3F#6 then 1 else 0)
        ∧ ∀ q, s.gth.quantity v = some q → t.gth.carrier q = s.gth.spare ∧ t.gth.spare = v.val)
  ∧ (∀ (x : Int) (s : State), s.gth.aux = false ∨ s.gr Reg.GTH_CAL_STATUS_REF_LOST = 1 → exec (.calLineMeasure x) s = .next s)
  ∧ (∀ (x : Int) (s : State), s.gth.aux = true → s.gr Reg.GTH_CAL_STATUS_REF_LOST ≠ 1 → ∃ t, exec (.calLineMeasure x) s = .next t
      ∧ t.gr Reg.GTH_CAL_STATUS_COPY_ERR = twos 16 (s.gth.convert s.gth.spare s.gth.temp x - s.gr Reg.GTH_VREF_VALUE_VALUE) % 2 ^ Reg.GTH_CAL_STATUS_COPY_ERR.w ∧ t = { s with gth := t.gth } ∧ t.gth.coeff = s.gth.coeff)
  ∧ (∀ (n : Fin 21) (zero x : Int) (s : State), s.boot.released = false ∨ s.gth.aux = false ∨ s.gr Reg.GTH_CAL_STATUS_REF_LOST = 1 → exec (.dieSensorCal n zero x) s = .next s)
  ∧ ∀ (n : Fin 21) (zero x : Int) (s : State), s.boot.released = true → s.gth.aux = true → s.gr Reg.GTH_CAL_STATUS_REF_LOST ≠ 1 → ∃ t, exec (.dieSensorCal n zero x) s = .next t
      ∧ Adjusted (6 + n.val) (s.dieT (dieOf n)) zero x s.lineValue s t ∧ t.gth.dieDone = (s.gth.dieDone ||| (1#21 <<< n.val)) ∧ t.media = s.media

/-- Training of the DRAM lanes and calibration of the converters and sensors (R230 to R242, R245). The reading of temperatures outside the set points, and what the coefficients are and how they enter a reading, are the model's
(log entries 49 and 52). -/
def Obligations.TrainingAndCalibrationTakeEffect : Prop :=
  TrainingTakesEffect ∧ CalibrationTakesEffect

/-! ### Range passes, arrays and channels -/

/-- A range pass may come to its next page: it has not stopped or ended, no page's lines are on their way to it, the block is not in the safe state, and memory is active (R256). -/
abbrev Sys2Proof.Machine.State.passRuns (s : State) (x : RangePass) : Prop := x.stop = false ∧ x.done = false ∧ x.cur = none ∧ s.isSafe = false ∧ s.boot.memActive = true

/-- Range passes and the patrol (R256 to R258). A page that nothing backs, or that is UNWRITTEN, is skipped; the 64 lines of a HOT page are asked for by one admission, and counted when they are back; the pass ends with its last page.
The patrol starts a round when its period has run, or notes that it is late. -/
def Sys2Proof.Machine.RangePassesTakeEffect : Prop :=
  (∀ (n : Nat) (s : State), (∀ x, s.pass? n = some x → x.done = true ∨ s.isSafe = true ∨ s.boot.memActive = false ∨ (x.cur = none ∧ x.stop = true) ∨ (∃ k, x.cur = some k ∧ s.rakeReady k = false)) →
      exec (.rangePassPage n) s = .next s)
  ∧ (∀ (n : Nat) (x : RangePass) (s : State), s.pass? n = some x → s.passRuns x → x.patrol = false → s.passPage x x.next = none → ∃ t, exec (.rangePassPage n) s = .next t
      ∧ t.pass? n = some { x with skipped := x.skipped + 1, next := x.next + 1, done := decide (x.last < x.next + 1) } ∧ t = { s with mgmt := t.mgmt })
  ∧ (∀ (n p : Nat) (x : RangePass) (b : Bool) (u y : State) (pz : Bool) (s : State), s.pass? n = some x → s.passRuns x → x.patrol = false → s.passPage x x.next = some p → s.pageLocked p = false → s.permits .range = true →
      s.wantCtr p { pass := some x.id } = (u, some b) → u.govAdmit (homeSlice p) .range = some y → s.srcForm p = .unwritten pz → ∃ t, exec (.rangePassPage n) s = .next t
        ∧ t.pass? n = some { x with skipped := x.skipped + 1, next := x.next + 1, done := decide (x.last < x.next + 1) } ∧ t.media = s.media ∧ t.regs = u.regs)
  ∧ (∀ (n p c fr : Nat) (inc : Option Nat) (x : RangePass) (y : State) (s : State), s.pass? n = some x → s.passRuns x → x.patrol = false → s.passPage x x.next = some p → s.pageLocked p = false → s.permits .range = true →
      s.govAdmit (homeSlice p) .range = some y → s.srcForm p = .hot c fr inc → s.guard p = none → ∃ t k, exec (.rangePassPage n) s = .next t ∧ t.pass? n = some { x with cur := some k } ∧ k.page = p ∧ k.form = .hot c fr inc
        ∧ k.got = [] ∧ (t.ch c).flying.map (fun r => (r.line, r.why)) = (s.ch c).flying.map (fun r => (r.line, r.why)) ++ (List.range 64).map (fun i => (fr * 64 + i, .rake n p i)) ∧ t.media = s.media ∧ t.regs = s.regs)
  ∧ (∀ (n c fr : Nat) (inc : Option Nat) (x : RangePass) (k : RakePage) (s : State), s.pass? n = some x → x.done = false → s.isSafe = false → s.boot.memActive = true → x.patrol = false → x.cur = some k → s.rakeReady k = true →
      k.form = .hot c fr inc → k.sealed? = none → k.marks = [] → (∀ i, i < 64 → (Tbl.lookD k.got {} i).poison = false) → ∃ t, exec (.rangePassPage n) s = .next t
        ∧ t.pass? n = some { x with lines := x.lines + 64, next := x.next + 1, cur := none, done := decide (x.last < x.next + 1) } ∧ t = { s with mgmt := t.mgmt })
  ∧ (∀ s : State, s.rd Reg.TRL_RAKE_CFG_PERIOD_H = 0 ∨ s.isSafe = true ∨ s.boot.memActive = false ∨ s.boot.h = 0 ∨ (∃ k, s.mgmt.patrolAt = some k ∧ s.tick < k + s.hours (s.rd Reg.TRL_RAKE_CFG_PERIOD_H))
      ∨ ((s.pass? patrolId).isSome = true ∧ s.mgmt.patrolDue = true) → exec .patrolRoundStart s = .next s)
  ∧ ∀ s : State, s.rd Reg.TRL_RAKE_CFG_PERIOD_H ≠ 0 → s.isSafe = false → s.boot.memActive = true → s.boot.h ≠ 0 → (∀ k, s.mgmt.patrolAt = some k → k + s.hours (s.rd Reg.TRL_RAKE_CFG_PERIOD_H) ≤ s.tick) →
      (s.pass? patrolId = none → ∃ t, exec .patrolRoundStart s = .next t ∧ t.mgmt.passes = s.mgmt.passes ++ [{ id := patrolId, patrol := true, next := 0, last := s.boot.h * 65536 - 1, start := s.tick }]
          ∧ t.mgmt.patrolDue = false ∧ t.mgmt.patrolAt = some s.tick ∧ t = { s with mgmt := t.mgmt })
      ∧ ((s.pass? patrolId).isSome = true → s.mgmt.patrolDue = false → ∃ t, exec .patrolRoundStart s = .next t ∧ t.mgmt.passes = s.mgmt.passes ∧ t.mgmt.patrolDue = true ∧ t.media = s.media)

/-- Uncorrectable on-chip arrays (R250; Table 10.2). A byte of the write-combining buffer poisons its line; a block of the counter cache leaves it; a key slot's regions are LOST; a footfall word restarts at 0 with the present stamp; a clean
accession entry is read again, and a changed one may be unreadable (log entry 36). A remap table has two copies and goes on. Nothing is met before the release or in the safe state. -/
def Sys2Proof.Machine.ArrayErrorsTakeEffect : Prop :=
  (∀ (x : SramArray) (s : State), s.boot.released = false ∨ s.isSafe = true → exec (.sramUe x) s = .next s)
  ∧ (∀ (c : Chan) (e : Fin 64) (b : Bool) (s : State), exec (.sramUe (.remapTable c e b)) s = .next s)
  ∧ (∀ (sl : SliceIx) (w : WcbLine) (s : State), s.boot.released = true → s.isSafe = false → s.path.wcb = [w] → sliceOfLine w.line = sl →
      ∃ t, exec (.sramUe (.wcbData sl w.line)) s = .next t ∧ t.path.wcb = [{ w with poison := true }] ∧ t.media = s.media ∧ t.regs = s.regs ∧ t.out = s.out)
  ∧ (∀ (space : Bool) (level node : Nat) (b : CacheBlk) (s : State), s.boot.released = true → s.isSafe = false → Tbl.look s.sec.cache (ctrKey space level node) = some b →
      ∃ t, exec (.sramUe (.counterCache space level node)) s = .next t ∧ t.cached space level node = none ∧ t.media = s.media ∧ (b.dirty = false → t.regs = s.regs ∧ t.out = s.out))
  ∧ (∀ (k : Fin 4096) (i : Nat) (r : Region) (s : State), s.boot.released = true → s.isSafe = false → Tbl.look s.regions i = some r → r.cls ≠ .plain → r.key = k →
      ∃ t r', exec (.sramUe (.keyStore k)) s = .next t ∧ Tbl.look t.regions i = some r' ∧ r'.lost = true ∧ r'.key = r.key ∧ t = { s with regions := t.regions })
  ∧ (∀ (p c fr : Nat) (inc : Option Nat) (s : State), s.boot.released = true → s.isSafe = false → (s.acc p).form = .hot c fr inc →
      (∃ t, exec (.sramUe (.footfall p)) s = .next t ∧ Tbl.lookD t.place.foot 0 p = 0 ∧ (t.acc p).fstamp = s.place.epoch % 15 ∧ (t.acc p).form = .hot c fr inc ∧ t.media = s.media)
      ∧ (s.place.accDirty.contains p = false → ∃ t, exec (.sramUe (.accession p)) s = .next t ∧ t = { s with free := t.free, cat := t.cat })
      ∧ (s.place.accDirty.contains p = true → ∃ t, exec (.sramUe (.accession p)) s = .next t ∧ t.media = s.media ∧ ((t.acc p).form = .unreadable ∨ t = { s with free := t.free, cat := t.cat })))
  ∧ (∀ (sl : SliceIx) (s : State), ∃ t, exec (.sliceRestartDone sl) s = .next t ∧ t.path.restart.contains sl.val = false ∧ (∀ k, k ≠ sl.val → t.path.restart.contains k = s.path.restart.contains k)
      ∧ t = { s with path := { s.path with restart := t.path.restart } })

/-- A channel with nothing under way holds no request afterwards, gives no frame, and its only page reads as poison where its entry can still be read (R128, R260). -/
abbrev Sys2Proof.Machine.ChannelGone (c : Nat) (t : State) : Prop :=
  (t.ch c).flying = [] ∧ (t.ch c).rq = [] ∧ (t.ch c).wq = [] ∧ (t.ch c).issued = [] ∧ Tbl.look t.place.chans c = none ∧ t.qos.gDirty = true ∧ ∀ e ∈ t.place.acc, e.2.form = .unwritten true

/-- Lost channels (R260). A channel that is not in use, or whose counts do not show the cause, loses nothing. A lost channel drops its queues and its share of the pool, and the pages that lie on it become UNWRITTEN with PZ (log entries 34 and 35). A lost
die-to-die link loses its four channels. A report on ALERT_n is repeated, and the one after four repeats loses the channel. -/
def Sys2Proof.Machine.ChannelLossTakesEffect : Prop :=
  (∀ (c : Chan) (k : Fin 4) (s : State), s.chLive c = false ∨ k.val = 2 ∧ (s.ch c).repeats < 4 ∨ k.val = 3 ∧ s.ueRate c = false → exec (.channelLost c k) s = .next s)
  ∧ (∀ (c : Chan) (k : Fin 4) (p fr : Nat) (inc : Option Nat) (a : Acc) (s : State), s.chLive c = true → (k.val = 2 → 4 ≤ (s.ch c).repeats) → (k.val = 3 → s.ueRate c = true) → (s.ch c).flying = [] → (s.ch c).rq = [] →
      (s.ch c).issued = [] → s.place.slots = [] → s.place.acc = [(p, a)] → a.form = .hot c fr inc → ∃ t, exec (.channelLost c k) s = .next t ∧ ChannelGone c t)
  ∧ (∀ (d : Fin 4) (s : State), s.boot.released = false → exec (.d2dLinkLost d) s = .next s)
  ∧ (∀ (d : Fin 4) (s : State), s.boot.released = true → (∀ k, k < 4 → s.chLive (4 * d.val + k) = false) → ∃ t, exec (.d2dLinkLost d) s = .next t ∧ t.bit Reg.GLB_CLK_STATUS_MPHY_LINK_UP d = false
      ∧ (∀ k, k < 4 → t.flag (Reg.DMC_FAULT_LINK_LOST (4 * d.val + k)) = true) ∧ t.dmc = s.dmc ∧ t.out = s.out)
  ∧ (∀ (d : Fin 4) (s : State), s.boot.released = true → s.chLive (4 * d.val) = true → (∀ k, 1 ≤ k → k < 4 → s.chLive (4 * d.val + k) = false) → (s.ch (4 * d.val)).flying = [] → (s.ch (4 * d.val)).rq = [] →
      (s.ch (4 * d.val)).issued = [] → s.place.slots = [] → s.place.acc = [] → ∃ t, exec (.d2dLinkLost d) s = .next t ∧ ChannelGone (4 * d.val) t)
  ∧ (∀ (c : Chan) (b : Bool) (s : State), s.chLive c = false → exec (.dramAlertNReport c b) s = .next s)
  ∧ (∀ (c : Chan) (b : Bool) (s : State), s.chLive c = true → (s.ch c).repeats < 4 → ∃ t, exec (.dramAlertNReport c b) s = .next t ∧ t.ch c = { s.ch c with repeats := (s.ch c).repeats + 1 } ∧ t = { s with dmc := t.dmc })
  ∧ ∀ (c : Chan) (b : Bool) (s : State), s.chLive c = true → 4 ≤ (s.ch c).repeats → exec (.dramAlertNReport c b) s = exec (.channelLost c 2) s

/-- Reliability work beyond a line (R128, R250, R256 to R258, R260, R261): range passes and the patrol, uncorrectable arrays, slice restarts that end, lost channels and die-to-die links. -/
def Obligations.PassesArraysAndChannelLoss : Prop :=
  RangePassesTakeEffect ∧ ArrayErrorsTakeEffect ∧ ChannelLossTakesEffect

/-! ### The Warden, the clocks and the Gatehouse's frames -/

/-- A pair that has failed is not healthy, its failure is counted, it waits for its reload, the Warden is in FENCE since the first failure of the fence, and the pair is fenced (R262 to R264; Table 10.5). -/
abbrev Sys2Proof.Machine.PairFailed (p : Nat) (s t : State) : Prop :=
  t.healthy p = false ∧ t.rd (pairFails p) = s.rd (pairFails p) + 1 ∧ p ∈ t.warden.reload ∧ p ∈ t.warden.fence ∧ t.rd Reg.GLB_WDN_STATUS_STATE = 1 ∧ (s.isFence = false → t.warden.fenceTicks = s.tick) ∧ t.media = s.media

/-- The safe state after its entry for a cause (R91, R265; Table 10.7): the Warden is in SAFE with its cause, SR_CLEAN is clear and no pair is healthy; every request in flight has been discarded, with code 7h shown for its head, and
the buffers are empty; each LD has reported a fatal error, with viral where it is enabled; the Graft ports are down; ALERT_N has gone low, as the last output. Media and the Gatehouse are as before. -/
abbrev Sys2Proof.Machine.SafeEntered (cause : Nat) (s t : State) : Prop :=
  t.rd Reg.GLB_WDN_STATUS_STATE = 2 ∧ t.rd Reg.GLB_WDN_STATUS_SAFE_CAUSE = cause ∧ t.flag Reg.GLB_WDN_STATUS_SR_CLEAN = false ∧ t.rd Reg.GLB_WDN_STATUS_HEALTHY = 0
    ∧ t.path.txns = [] ∧ t.dir.bench = [] ∧ t.path.wcb = [] ∧ t.warden.fence = []
    ∧ (∀ x ∈ s.path.txns ++ s.dir.bench, ∀ h : Head, x.req.src = .head h → (∀ y ∈ s.path.txns ++ s.dir.bench, ∀ k, y.req.src = .head k → k < 16) → t.rd (Reg.TRL_HEAD_DISCARD_LAST_CAUSE h) = 7)
    ∧ (∀ (i : LdIx) (d : Ld), s.ld? i = some d → Out.aer i d.viralOn ∈ t.out) ∧ (∀ g, g < 2 → t.rd (Reg.GFT_PORT_STATUS_STATE g) = 0)
    ∧ t.alertN = false ∧ t.out.head? = some (.alertN false) ∧ t.media = s.media ∧ t.gth = s.gth

/-- No completion has been sent to a head since (R91). -/
abbrev Sys2Proof.Machine.NoCompletion (s t : State) : Prop :=
  ∃ xs, t.out = xs ++ s.out ∧ ∀ h tag : Nat, Out.memErr h tag ∉ xs ∧ (∀ d p m, Out.memData h tag d p m ∉ xs) ∧ ∀ m, Out.cmp h tag m ∉ xs

/-- Each request that a head with a link has held in ingress has completed with poison, a write with Cmp (R89, R91). -/
abbrev Sys2Proof.Machine.HeldCompleted (s t : State) : Prop :=
  ∀ q ∈ s.path.ingress, ∀ h, q.src = .head h → s.linkUp h = true → (if q.isRead = true then Out.memData h q.tag 0 true .noOp else .cmp h q.tag .noOp) ∈ t.out

/-- The Warden (R33, R35, R262 to R265). A pair that is not healthy does not fail again. One that fails while another is healthy is fenced and reloads; the last one's failure, a self-check mismatch, a lost PLL and a departed tick lead to the safe state. A pair's
third failure leaves it offline; a reloaded pair is healthy again. The fence ends when its pairs' access ports are empty, their duties go to the next healthy pairs, and the Oxentelo work that waited for duty 7 goes on (R34); after
20 µs held requests complete with poison, and it ends at once, or in the safe state. -/
def Sys2Proof.Machine.WardenTakesEffect : Prop :=
  (∀ (p : Pair) (s : State), s.isSafe = true ∨ s.healthy p = false → exec (.lockstepMismatch p) s = .next s)
  ∧ (∀ (p : Pair) (s : State), s.isSafe = false → s.healthy p = true → s.rd (pairFails p) < 2 → s.mgmt.bg = [] → (∃ q, q < 8 ∧ q ≠ p.val ∧ s.healthy q = true) → ∃ t, exec (.lockstepMismatch p) s = .next t ∧ PairFailed p s t)
  ∧ (∀ (p : Pair) (s : State), s.isSafe = false → s.healthy p = true → s.rd (pairFails p) = 2 → s.mgmt.bg = [] → (∃ q, q < 8 ∧ q ≠ p.val ∧ s.healthy q = true) → ∃ t, exec (.lockstepMismatch p) s = .next t
      ∧ t.healthy p = false ∧ t.bit Reg.GLB_WDN_STATUS_OFFLINE p = true ∧ t.warden.reload = s.warden.reload ∧ p.val ∈ t.warden.fence ∧ t.rd Reg.GLB_WDN_STATUS_STATE = 1)
  ∧ (∀ (p : Pair) (s : State), s.isSafe = false → s.healthy p = true → s.mgmt.bg = [] → (∀ q, q < 8 → q ≠ p.val → s.healthy q = false) → ∃ t, exec (.lockstepMismatch p) s = .next t ∧ SafeEntered 1 s t ∧ NoCompletion s t)
  ∧ (∀ (p : Pair) (s : State), 100 * s.tick < 100 * Tbl.lookD s.warden.kick 0 p + 95 * ((max 1 (s.rd Reg.GLB_WDN_CFG_WDG_MS)) * (s.rootN * 12500)) → exec (.watchdogExpiry p) s = .next s)
  ∧ (∀ (p : Pair) (s : State), 100 * Tbl.lookD s.warden.kick 0 p + 95 * ((max 1 (s.rd Reg.GLB_WDN_CFG_WDG_MS)) * (s.rootN * 12500)) ≤ 100 * s.tick → s.isSafe = false → s.healthy p = true → s.rd (pairFails p) < 2 →
      s.mgmt.bg = [] → (∃ q, q < 8 ∧ q ≠ p.val ∧ s.healthy q = true) → ∃ t, exec (.watchdogExpiry p) s = .next t ∧ PairFailed p s t)
  ∧ (∀ (p : Pair) (s : State), s.isSafe = true ∨ p.val ∉ s.warden.reload → exec (.pairReloadDone p) s = .next s)
  ∧ (∀ (p : Pair) (s : State), s.isSafe = false → p.val ∈ s.warden.reload → ∃ t, exec (.pairReloadDone p) s = .next t ∧ t.healthy p = true ∧ p.val ∉ t.warden.reload ∧ Tbl.lookD t.warden.kick 0 p = s.tick
      ∧ (∀ q, q < 8 → q ≠ p.val → t.healthy q = s.healthy q) ∧ (∀ n, t.dutyOwner n = s.dutyOwner n) ∧ t.out = s.out)
  ∧ (∀ s : State, s.isFence = false ∨ s.portsEmpty = false → exec .fenceRelease s = .next s)
  ∧ (∀ s : State, s.isFence = true → s.portsEmpty = true → ∃ u : State, exec .fenceRelease s = .next ((u.oxnResume 0).oxnResume 1) ∧ u.rd Reg.GLB_WDN_STATUS_STATE = 0 ∧ u.warden.fence = []
      ∧ (∀ n, n < 8 → u.dutyOwner n = if s.dutyUp n then s.dutyOwner n else s.nextPair (s.dutyOwner n)) ∧ u.out = s.out ∧ u.place = s.place ∧ u.graft = s.graft)
  ∧ (∀ s : State, s.isFence = false ∨ s.tick < s.warden.fenceTicks + s.rootN * 250 → exec .fenceExpiry s = .next s)
  ∧ (∀ s : State, s.isFence = true → s.warden.fenceTicks + s.rootN * 250 ≤ s.tick →
      (s.portsEmpty = true → ∃ u : State, exec .fenceExpiry s = .next ((u.oxnResume 0).oxnResume 1) ∧ u.flag Reg.GLB_WDN_STATUS_FENCE_EXPIRED = true ∧ u.rd Reg.GLB_WDN_STATUS_STATE = 0 ∧ u.warden.fence = [] ∧ HeldCompleted s u
          ∧ u.path.ingress = s.path.ingress.filter (fun q => q.head?.isNone) ∧ ((∀ q ∈ s.path.ingress, q.head? = none) → u.out = s.out ∧ u.path.txns = s.path.txns) ∧ u.media = s.media)
      ∧ (s.portsEmpty = false → ∃ t, exec .fenceExpiry s = .next t ∧ SafeEntered 4 s t ∧ t.flag Reg.GLB_WDN_STATUS_FENCE_EXPIRED = true ∧ HeldCompleted s t))
  ∧ (∀ s : State, s.boot.released = false ∨ s.isSafe = true → exec .wardenSelfCheckMismatch s = .next s)
  ∧ (∀ s : State, s.boot.released = true → s.isSafe = false → ∃ t, exec .wardenSelfCheckMismatch s = .next t ∧ SafeEntered 5 s t ∧ NoCompletion s t)
  ∧ (∀ (b : Bool) (s : State), s.boot.released = false → exec (.rootPllLockLoss b) s = .next s ∧ exec .tickDeparture s = .next s)
  ∧ (∀ (b : Bool) (s : State), s.boot.released = true → s.isSafe = false → (∃ t, exec (.rootPllLockLoss b) s = .next t ∧ SafeEntered 2 s t ∧ NoCompletion s t ∧ t.flag Reg.GLB_CLK_STATUS_LOCK_LOST = true
        ∧ t.flag Reg.GLB_CLK_STATUS_ROOT_PLL_LOCKED = false ∧ (b = true → t.flag Reg.GLB_CLK_STATUS_REFCLK_PRESENT = false) ∧ t.warden.departed = false)
      ∧ ∃ t, exec .tickDeparture s = .next t ∧ SafeEntered 3 s t ∧ NoCompletion s t ∧ t.flag Reg.GLB_CLK_STATUS_LOCK_LOST = true ∧ t.warden.departed = true)
  ∧ ∀ (b : Bool) (s : State), s.boot.released = true → s.isSafe = true → (∃ t, exec (.rootPllLockLoss b) s = .next t ∧ t.flag Reg.GLB_CLK_STATUS_LOCK_LOST = true ∧ t.flag Reg.GLB_CLK_STATUS_ROOT_PLL_LOCKED = false
      ∧ (b = true → t.flag Reg.GLB_CLK_STATUS_REFCLK_PRESENT = false) ∧ t = { s with regs := t.regs })
    ∧ ∃ t, exec .tickDeparture s = .next t ∧ t.flag Reg.GLB_CLK_STATUS_LOCK_LOST = true ∧ t.warden.departed = true ∧ t.out = s.out ∧ t.media = s.media

/-- Frames of the Gatehouse and the tick counters (R17, R18, R315, R316, R361). Ten samples of each feed make a frame, which holds the mean voltage of each feed; the central die mirrors the registers from it, keeps the powers of the last ten, and shows the link down after 50 µs without one.
TICKS of a group wraps to 0 and sets TICK_OVF. -/
def Sys2Proof.Machine.FramesAndTicksTakeEffect : Prop :=
  (∀ s : State, s.gth.aux = false ∨ s.gth.fa.samples < 10 ∨ s.gth.fb.samples < 10 → exec .gthFrameSend s = .next s)
  ∧ (∀ s : State, s.gth.aux = true → 10 ≤ s.gth.fa.samples → 10 ≤ s.gth.fb.samples → ∃ t, exec .gthFrameSend s = .next t ∧ t.gth.frame = some t.gth.regs ∧ t.gth.fa.samples = 0 ∧ t.gth.fb.samples = 0
      ∧ t.gr Reg.GTH_FEED_A_VOLT_MV = min (s.gth.fa.sumV / s.gth.fa.samples) (2 ^ Reg.GTH_FEED_A_VOLT_MV.w - 1) ∧ t.gr Reg.GTH_FEED_B_VOLT_MV = min (s.gth.fb.sumV / s.gth.fb.samples) (2 ^ Reg.GTH_FEED_B_VOLT_MV.w - 1)
      ∧ t = { s with gth := t.gth })
  ∧ (∀ s : State, s.gth.frame = none → exec .measurementFrame s = .next s)
  ∧ (∀ (f : GthFrame) (s : State), s.gth.frame = some f → ∃ t, exec .measurementFrame s = .next t ∧ t.gth.frame = none ∧ t.out = s.out
      ∧ if s.boot.released = true then t.gth.lastFrame = s.tick ∧ t.flag Reg.GLB_CLK_STATUS_GTH_LINK_UP = true ∧ t.qos.frames = (s.qos.frames ++ [t.framePower]).drop (s.qos.frames.length - 9) ∧ ∀ o ∈ gthOffsets, o ≠ Reg.GTH_CAL_STATUS_DIE_CAL_DONE.off → t.word o = Tbl.lookD f 0 o
        else t.regs = s.regs)
  ∧ (∀ s : State, s.boot.released = false ∨ s.flag Reg.GLB_CLK_STATUS_GTH_LINK_UP = false ∨ s.tick < s.gth.lastFrame + s.rootN * 625 → exec .gthLinkLost s = .next s)
  ∧ (∀ s : State, s.boot.released = true → s.flag Reg.GLB_CLK_STATUS_GTH_LINK_UP = true → s.gth.lastFrame + s.rootN * 625 ≤ s.tick → ∃ t, exec .gthLinkLost s = .next t ∧ t.flag Reg.GLB_CLK_STATUS_GTH_LINK_UP = false
      ∧ t.gth = s.gth ∧ t.media = s.media)
  ∧ (∀ (g : Fin 16) (s : State), s.groupOn g = false ∨ s.rd (Reg.CAT_GRP_TICKS_TICKS g) ≠ 2 ^ 48 - 1 → exec (.ticksWrap g) s = .next s)
  ∧ ∀ (g : Fin 16) (s : State), s.groupOn g = true → s.rd (Reg.CAT_GRP_TICKS_TICKS g) = 2 ^ 48 - 1 → ∃ t, exec (.ticksWrap g) s = .next t ∧ t.rd (Reg.CAT_GRP_TICKS_TICKS g) = 0
      ∧ t.flag (Reg.CAT_GRP_CTL_TICK_OVF g) = true ∧ t = { s with regs := t.regs }

/-- The Warden's recovery, the clocks' failures, the Gatehouse's frames and the wrap of a tick counter (R17, R18, R33, R35, R262 to R265, R315, R316, R361). -/
def Obligations.WardenClocksAndFrames : Prop :=
  WardenTakesEffect ∧ FramesAndTicksTakeEffect

/-! ### Windows, the floor and the governor -/

/-- A class with its accounting window shifted (R274). -/
abbrev Sys2Proof.Machine.AcctShifted (a b : ClassAcct) : Prop :=
  b.older = a.newer ∧ b.newer = 0 ∧ b.missOld = a.missNew ∧ b.missNew = 0 ∧ b.waitOld = a.waitNew ∧ b.waitNew = false

/-- Windows and the floor (R274, R279 to R282, R285, R286). At a window boundary the newer counts become the older ones, each class with a floor miss counts it, and shed classes are restored in order while they fit 63/64 of G. A
recomputed G is the sum of what each channel and the Graft ports give; classes are shed until the floors of the others fit it. -/
def Sys2Proof.Machine.WindowsAndFloorTakeEffect : Prop :=
  (∀ s : State, s.rootN = 0 ∨ s.tick < (s.qos.window + 1) * (s.rootN * 6250) → exec .qosWindowClose s = .next s)
  ∧ (∀ s : State, s.rootN ≠ 0 → (s.qos.window + 1) * (s.rootN * 6250) ≤ s.tick → Tbl.Sorted s.qos.acct → ∃ t, exec .qosWindowClose s = .next t ∧ t.qos.window = s.qos.window + 1
      ∧ (∀ c, AcctShifted (s.acct c) (t.acct c))
      ∧ (∀ c, c < 64 → t.rd (Reg.QOS_CLASS_MISS_FLOOR_MISSES c) = if s.qos.window ≠ 0 ∧ s.flag (Reg.QOS_CLASS_CTL_VALID c) = true ∧ s.floorMiss c (s.qos.window - 1) = true
          then min 255 (s.rd (Reg.QOS_CLASS_MISS_FLOOR_MISSES c) + 1) else s.rd (Reg.QOS_CLASS_MISS_FLOOR_MISSES c))
      ∧ (∀ c, c < 64 → t.flag (Reg.QOS_CLASS_CTL_SHED c) = true → s.flag (Reg.QOS_CLASS_CTL_SHED c) = true)
      ∧ (∀ c, c < 64 → s.flag (Reg.QOS_CLASS_CTL_SHED c) = true → t.flag (Reg.QOS_CLASS_CTL_SHED c) = false → 64 * (s.unshedSum + s.floorOf c) ≤ 63 * s.rd Reg.QOS_G_G)
      ∧ (∀ c, t.restoreNext = some c → 63 * s.rd Reg.QOS_G_G < 64 * (t.unshedSum + s.floorOf c)) ∧ (∀ c, c < 64 → t.floorOf c = s.floorOf c) ∧ t.media = s.media)
  ∧ (∀ s : State, s.qos.gDirty = false → exec .gRecompute s = .next s)
  ∧ ∀ s : State, s.qos.gDirty = true → ∃ t, exec .gRecompute s = .next t ∧ t.qos.gDirty = false ∧ (∀ c, c < 16 → t.rd (Reg.QOS_CH_G_G_C c) = s.gOf c % 2 ^ 17)
      ∧ t.rd Reg.QOS_GRAFT_G_G_GRAFT = s.graftG % 2 ^ 17 ∧ t.rd Reg.QOS_G_G = (((List.range 16).map (fun c => s.gOf c % 2 ^ 17)).sum + s.graftG) % 2 ^ 21
      ∧ t.unshedSum ≤ t.rd Reg.QOS_G_G ∧ (∀ c, c < 64 → s.flag (Reg.QOS_CLASS_CTL_SHED c) = true → t.flag (Reg.QOS_CLASS_CTL_SHED c) = true)
      ∧ (s.unshedSum ≤ t.rd Reg.QOS_G_G → ∀ c, c < 64 → t.flag (Reg.QOS_CLASS_CTL_SHED c) = s.flag (Reg.QOS_CLASS_CTL_SHED c)) ∧ (∀ c, c < 64 → t.floorOf c = s.floorOf c) ∧ t.media = s.media

/-- The governor's level after an interval that computes n (R289): it falls at once and rises a step after ten intervals above. -/
abbrev Sys2Proof.Machine.LevelAfter (s : State) (n : Nat) : Nat :=
  if n < s.rd Reg.GLB_GOV_STATUS_LEVEL then n else if n ≠ s.rd Reg.GLB_GOV_STATUS_LEVEL ∧ s.qos.above = 10 then s.rd Reg.GLB_GOV_STATUS_LEVEL + 1 else s.rd Reg.GLB_GOV_STATUS_LEVEL

/-- A reading is more than 5 °C over the limit of its kind (R298). -/
abbrev Sys2Proof.Machine.OverBackstop (s : State) : Prop :=
  (∃ e ∈ s.rawDies, 16 * (s.rd Reg.GLB_GOV_TEMP_TJ_HIGH : Int) + 80 < e.2) ∨ ∃ e ∈ s.dimmReadings, 16 * (s.rd Reg.GLB_GOV_TEMP_DIMM_HIGH : Int) + 80 < e.2

/-- What the backstop does each time it acts (R298): the share is 0, and each live channel whose DIMM is over the limit gets LEVEL 11b; the others, and those without a reading, keep theirs. -/
abbrev Sys2Proof.Machine.BackstopActs (s t : State) : Prop :=
  t.qos.share = 0 ∧ t.qos.lastGov = s.qos.lastGov ∧ t.media = s.media
    ∧ (∀ (c : Chan) (v : Int), s.chLive c = true → Tbl.lookD s.qos.dimm none c = some v → t.derate c = if 16 * (s.rd Reg.GLB_GOV_TEMP_DIMM_HIGH : Int) + 80 < v then 3 else s.derate c)
    ∧ ∀ c : Chan, s.chLive c = false ∨ Tbl.lookD s.qos.dimm none c = none → t.derate c = s.derate c

/-- The governor (R287 to R290, R293, R296 to R299). The readings of the dies are kept, corrected. An interval, which runs at each boundary of 100 µs on the healthy pair that holds its duty, takes the frames since the last one and the readings as last taken, shows both levels and moves the level in
use; it writes the share and the scale of that level, and raises a channel's derate level at once to what its hottest DIMM asks. A channel with no reading keeps its derate level. A DIMM reading is kept for a live channel. The backstop sets the share to 0 and
fully derates the hot channels when no interval came for 1 ms; while it lasts it derates each channel that passes the limit, without its event anew. -/
def Sys2Proof.Machine.GovernorTakesEffect : Prop :=
  (∀ (dies : List (Option Int)) (s : State), ∀ n, n < 5 → Tbl.look (s.noteDies dies).qos.sensors n = (dies.getD n none).map (s.sensed n))
  ∧ (∀ (dies : List (Option Int)) (s : State), s.isSafe = true ∨ s.dutyUp 1 = false ∨ s.tick / s.us100 ≤ s.qos.lastGov / s.us100 → exec (.governorInterval dies) s = .next (s.noteDies dies))
  ∧ (∀ (dies : List (Option Int)) (s u : State), u = s.noteDies dies → s.isSafe = false → s.dutyUp 1 = true → s.qos.lastGov / s.us100 < s.tick / s.us100 → ∃ t, exec (.governorInterval dies) s = .next t
      ∧ t.rd Reg.GLB_GOV_STATUS_PWR_LEVEL = u.govPower ∧ t.rd Reg.GLB_GOV_STATUS_THERM_LEVEL = u.govTherm ∧ t.flag Reg.GLB_GOV_STATUS_PWR_LOST = (s.qos.frames == [] || !s.flag Reg.GLB_CLK_STATUS_GTH_LINK_UP)
      ∧ t.flag Reg.GLB_GOV_STATUS_TEMP_LOST = u.tempLost ∧ t.rd Reg.GLB_GOV_STATUS_OWNER = s.dutyOwner 1 ∧ t.rd Reg.GLB_GOV_STATUS_LEVEL = LevelAfter s (min u.govPower u.govTherm)
      ∧ t.qos.share = levelShare (t.rd Reg.GLB_GOV_STATUS_LEVEL) ∧ t.rd Reg.QOS_BE_SCALE_SCALE = levelScale (t.rd Reg.GLB_GOV_STATUS_LEVEL) ∧ t.qos.lastGov = s.tick ∧ t.qos.frames = []
      ∧ (∀ (c : Chan) (v : Int), s.chLive c = true → Tbl.lookD s.qos.dimm none c = some v → s.derate c < derateFor (16 * s.rd Reg.GLB_GOV_TEMP_DIMM_HIGH) v →
          t.derate c = derateFor (16 * s.rd Reg.GLB_GOV_TEMP_DIMM_HIGH) v)
      ∧ (∀ c : Chan, s.chLive c = false ∨ Tbl.lookD s.qos.dimm none c = none → t.derate c = s.derate c) ∧ (∀ c, c < 64 → t.floorOf c = s.floorOf c) ∧ t.media = s.media)
  ∧ (∀ (c : Chan) (temps : List (Option Int)) (s : State), s.chLive c = false → exec (.dimmTempRead c temps) s = .next s)
  ∧ (∀ (c : Chan) (temps : List (Option Int)) (s : State), s.chLive c = true → ∃ t, exec (.dimmTempRead c temps) s = .next t ∧ (none ∈ temps → Tbl.lookD t.qos.dimm none c = none)
      ∧ (none ∉ temps → temps ≠ [] → ∃ m, some m ∈ temps ∧ (∀ v, some v ∈ temps → v ≤ m) ∧ Tbl.lookD t.qos.dimm none c = some m)
      ∧ (∀ d, d ≠ c.val → Tbl.lookD t.qos.dimm none d = Tbl.lookD s.qos.dimm none d) ∧ t = { s with qos := { s.qos with dimm := t.qos.dimm } })
  ∧ (∀ (dies : List (Option Int)) (s : State), s.tick < s.qos.lastGov + s.rootN * 12500 ∨ ¬ OverBackstop (s.noteDies dies) → exec (.thermalBackstop dies) s = .next (s.noteDies dies))
  ∧ ∀ (dies : List (Option Int)) (s : State), s.qos.lastGov + s.rootN * 12500 ≤ s.tick → OverBackstop (s.noteDies dies) → ∃ t, exec (.thermalBackstop dies) s = .next t ∧ BackstopActs (s.noteDies dies) t
      ∧ (s.qos.share ≠ 0 → t.flag Reg.GLB_GOV_STATUS_BACKSTOP = true) ∧ (s.qos.share = 0 → t.flag Reg.GLB_GOV_STATUS_BACKSTOP = s.flag Reg.GLB_GOV_STATUS_BACKSTOP)

/-- Windows, the guaranteed floor and the governor (R274, R279, R281, R282, R285 to R290, R293, R296, R298). -/
def Obligations.WindowsFloorAndGovernor : Prop :=
  WindowsAndFloorTakeEffect ∧ GovernorTakesEffect

/-! ### The Gatehouse's feeds -/

/-- A feed has been latched with a cause (R305): counted, its cause recorded, and its gate pulled down if it was driven. -/
abbrev Sys2Proof.Machine.FeedLatched (x : Feed) (cause : Nat) (s t : State) : Prop :=
  t.fst x = 5 ∧ t.gr (atFeed x Reg.GTH_FEED_A_STATUS_TRIP_CAUSE) = cause ∧ t.gr (atFeed x Reg.GTH_FEED_A_STATUS_TRIPS) = min 65535 (s.gr (atFeed x Reg.GTH_FEED_A_STATUS_TRIPS) + 1)
    ∧ (s.drives x = true → .gate x .off ∈ t.out) ∧ t.media = s.media

/-- Supply, samples and enables (R302, R304, R305, R314, R315). A loss of the auxiliary supply clears the Gatehouse and drops both gates. Loaded settings, or the defaults, start qualification of the enabled feeds. A sample, corrected by the converters that carry it (R242), adds to the sums
and the energy of its feed and moves the window filter, the fault timer and the end of a ramp; the gate drive of the feed then is what its state, its shunt voltage and its expired timer ask for. A feed follows its filtered enable. -/
def Sys2Proof.Machine.SupplyAndSamplesTakeEffect : Prop :=
  (∀ s : State, s.gth.aux = false → exec .auxPowerLoss s = .next s ∧ exec .gthSettingsLoaded s = .next s ∧ ∀ (x : Feed) (r : FeedReading) (pin : Bool), exec (.feedSample x r) s = .next s ∧ exec (.feedEnableChange x pin) s = .next s)
  ∧ (∀ s : State, s.gth.aux = true → ∃ t, exec .auxPowerLoss s = .next t ∧ t.gth.aux = false ∧ t.gth.loaded = false ∧ t.gth.regs = [] ∧ t.gth.switch = none ∧ t.gth.writes = []
      ∧ (∀ x : Feed, t.feed x = {} ∧ (s.drives x = true → .gate x .off ∈ t.out)) ∧ t = { s with gth := t.gth, out := t.out })
  ∧ (∀ s : State, s.gth.loaded = true → exec .gthSettingsLoaded s = .next s)
  ∧ (∀ s : State, s.gth.aux = true → s.gth.loaded = false → ∃ t, exec .gthSettingsLoaded s = .next t ∧ t.gth.loaded = true ∧ t.gr Reg.GTH_STATUS_SETTINGS_OTP = s.bestGen.isSome.toNat
      ∧ (∀ x : Feed, if s.enabled x = true then t.fst x = 1 ∧ (t.feed x).insHold = true else t.fst x = s.fst x)
      ∧ (s.bestGen = none → ∀ x : Feed, t.gr (atFeed x Reg.GTH_FEED_A_CFG_UV) = 380 ∧ t.gr (atFeed x Reg.GTH_FEED_A_CFG_OV) = 620 ∧ t.gr (atFeed x Reg.GTH_FEED_A_BREAKER_CB) = 250) ∧ t.media = s.media)
  ∧ (∀ (x : Feed) (r q : FeedReading) (s : State), s.gth.aux = true → q = s.calibrated x r → ∃ t, exec (.feedSample x r) s = .next t ∧ (t.feed x).samples = (s.feed x).samples + 1 ∧ (t.feed x).sumV = (s.feed x).sumV + q.vx
      ∧ (t.feed x).vx = q.vx ∧ (t.feed x).vsh = q.vsh
      ∧ (t.feed x).energyPj = min ((s.feed x).energyPj + q.vx * min 50000 q.vsh * 1000 / max 1 (s.gr (atFeed x Reg.GTH_FEED_A_SHUNT_RSHUNT))) ((2 ^ 64 - 1) * 10 ^ 9)
      ∧ (t.feed (otherFeed x)).samples = (s.feed (otherFeed x)).samples ∧ (s.gth.loaded = false → t = { s with gth := t.gth }) ∧ t.media = s.media)
  ∧ (∀ (x : Feed) (r q : FeedReading) (s : State) (uv ov : Nat), s.gth.aux = true → s.gth.loaded = true → q = s.calibrated x r → uv = s.gr (atFeed x Reg.GTH_FEED_A_CFG_UV) → ov = s.gr (atFeed x Reg.GTH_FEED_A_CFG_OV) →
      ∃ t, exec (.feedSample x r) s = .next t
      ∧ t.gr (atFeed x Reg.GTH_FEED_A_STATUS_IN_WINDOW) = (windowNow (if outside q.vx uv ov then (s.feed x).outRun + 1 else 0) (if clearInside q.vx uv ov then (s.feed x).inRun + 1 else 0)
          (s.gr (atFeed x Reg.GTH_FEED_A_STATUS_IN_WINDOW) == 1)).toNat
      ∧ (s.drives x = true → (s.feed x).pull = none → s.gr (atFeed x Reg.GTH_FEED_A_STATUS_IN_WINDOW) = 1 → t.gr (atFeed x Reg.GTH_FEED_A_STATUS_IN_WINDOW) = 0 → t.fst x = 1 ∧ .gate x .off ∈ t.out)
      ∧ (s.drives x = true → (s.feed x).pull ≠ none → t.drives x = true)
      ∧ (t.feed x).gate = t.gateWants x ∧ ((s.feed x).gate ≠ t.gateWants x → .gate x (t.gateWants x) ∈ t.out)
      ∧ (s.drives x = true → t.drives x = true → (t.feed x).flt = if s.gr (atFeed x Reg.GTH_FEED_A_BREAKER_CB) * 100 ≤ q.vsh then (s.feed x).flt + 1 else (s.feed x).flt)
      ∧ (s.fst x = 3 → t.drives x = true → t.fst x = if q.vx ≤ r.vout + 1000 then 4 else 3))
  ∧ ∀ (x : Feed) (pin : Bool) (s : State), s.gth.aux = true → ∃ t, exec (.feedEnableChange x pin) s = .next t ∧ t.gr (atFeed x Reg.GTH_FEED_A_STATUS_EN_PIN) = pin.toNat ∧ t.media = s.media
      ∧ (s.gth.loaded = true → pin = false → t.fst x = 0 ∧ (s.drives x = true → .gate x .off ∈ t.out))
      ∧ (s.gth.loaded = true → pin = true → s.gr (match x with | .a => Reg.GTH_CTL_A_SW_EN | .b => Reg.GTH_CTL_B_SW_EN) = 1 → s.fst x = 0 → t.fst x = 1)

/-- Holds, trips and PG_OUT (R305, R308 to R312). A feed whose window has held for the hold is READY, and is turned on if it is preferred or the only one and nothing else is on. An overlong ramp, the pull-down after an expired fault timer, until which the current is regulated at CB, and
a fast trip, at CB times FAST_MULT / 4, latch it. PG_OUT drops at an expiry and a fast trip, and rises after qualification. -/
def Sys2Proof.Machine.HoldsAndTripsTakeEffect : Prop :=
  (∀ (x : Feed) (s : State), s.fst x ≠ 1 ∨ s.gr (atFeed x Reg.GTH_FEED_A_STATUS_IN_WINDOW) ≠ 1 ∨ (s.feed x).held < s.holdLength x → exec (.qualifyHoldExpiry x) s = .next s)
  ∧ (∀ (x : Feed) (s : State), s.fst x = 1 → s.gr (atFeed x Reg.GTH_FEED_A_STATUS_IN_WINDOW) = 1 → s.holdLength x ≤ (s.feed x).held → ∃ t, exec (.qualifyHoldExpiry x) s = .next t ∧ (t.feed x).insHold = false ∧ t.media = s.media
      ∧ (s.drives (otherFeed x) = true ∨ s.gth.switch.isSome = true ∨ s.gth.fa.hold = true ∨ s.gth.fb.hold = true → t.fst x = 2)
      ∧ (s.drives (otherFeed x) = false → s.gth.switch = none → s.gth.fa.hold = false → s.gth.fb.hold = false → s.gth.left = none → x = s.preferred ∨ s.fst s.preferred ≠ 2 →
          t.fst x = 3 ∧ t.gr Reg.GTH_STATUS_SELECTED = feedNo x + 1 ∧ (t.feed x).gate = t.gateWants x ∧ .gate x (t.gateWants x) ∈ t.out))
  ∧ (∀ (x : Feed) (s : State), s.fst x ≠ 3 ∨ s.rampLate x = false → exec (.rampTimeout x) s = .next s)
  ∧ (∀ (x : Feed) (s : State), s.fst x = 3 → s.rampLate x = true → ∃ t, exec (.rampTimeout x) s = .next t ∧ FeedLatched x 3 s t)
  ∧ (∀ (x : Feed) (s : State), s.drives x = false ∨ (s.feed x).pull ≠ none ∨ (s.feed x).flt < 100 * s.gr (atFeed x Reg.GTH_FEED_A_BREAKER_FLT_TIME) → exec (.faultTimerExpiry x) s = .next s)
  ∧ (∀ (x : Feed) (s : State), s.drives x = true → (s.feed x).pull = none → 100 * s.gr (atFeed x Reg.GTH_FEED_A_BREAKER_FLT_TIME) ≤ (s.feed x).flt → ∃ t, exec (.faultTimerExpiry x) s = .next t
      ∧ (t.feed x).pull = some 0 ∧ (t.feed x).gate = .limit (100 * s.gr (atFeed x Reg.GTH_FEED_A_BREAKER_CB)) ∧ t.gr Reg.GTH_STATUS_PG_OUT = 0 ∧ t.fst x = s.fst x ∧ t.media = s.media)
  ∧ (∀ (x : Feed) (s : State), s.drives x = false ∨ (∀ n, (s.feed x).pull = some n → n < 5) → exec (.breakerPulldown x) s = .next s)
  ∧ (∀ (x : Feed) (n : Nat) (s : State), s.drives x = true → (s.feed x).pull = some n → 5 ≤ n → ∃ t, exec (.breakerPulldown x) s = .next t ∧ FeedLatched x 1 s t)
  ∧ (∀ (x : Feed) (s : State), (s.feed x).low < 20 ∨ (s.feed x).pull ≠ none → exec (.faultTimerClear x) s = .next s)
  ∧ (∀ (x : Feed) (s : State), 20 ≤ (s.feed x).low → (s.feed x).pull = none → ∃ t, exec (.faultTimerClear x) s = .next t ∧ (t.feed x).flt = 0 ∧ t.gr (atFeed x Reg.GTH_FEED_A_STATUS_FLT_RUNNING) = 0
      ∧ t.feed (otherFeed x) = s.feed (otherFeed x) ∧ t = { s with gth := t.gth })
  ∧ (∀ (x : Feed) (vsh : Nat) (s : State), s.drives x = false ∨ 4 * vsh < 100 * s.gr (atFeed x Reg.GTH_FEED_A_BREAKER_CB) * s.gr (atFeed x Reg.GTH_FEED_A_BREAKER_FAST_MULT) → exec (.fastTrip x vsh) s = .next s)
  ∧ (∀ (x : Feed) (vsh : Nat) (s : State), s.drives x = true → 100 * s.gr (atFeed x Reg.GTH_FEED_A_BREAKER_CB) * s.gr (atFeed x Reg.GTH_FEED_A_BREAKER_FAST_MULT) ≤ 4 * vsh → ∃ t, exec (.fastTrip x vsh) s = .next t ∧ FeedLatched x 2 s t ∧ t.gr Reg.GTH_STATUS_PG_OUT = 0)
  ∧ (∀ s : State, s.gth.loaded = false ∨ s.qualifies = false ∨ s.gth.qualFor < 100 * s.gr Reg.GTH_TIMING_PG_QUAL → exec .pgQualified s = .next s)
  ∧ ∀ s : State, s.gth.loaded = true → s.qualifies = true → 100 * s.gr Reg.GTH_TIMING_PG_QUAL ≤ s.gth.qualFor → ∃ t, exec .pgQualified s = .next t ∧ t.gr Reg.GTH_STATUS_PG_OUT = 1
      ∧ (∀ x : Feed, t.fst x = s.fst x ∧ t.feed x = s.feed x) ∧ t.media = s.media

/-- The Gatehouse's supply, samples, enables, holds, trips and PG_OUT (R302, R304 to R306, R308 to R312, R314, R315). -/
def Obligations.GatehouseFeedsTakeEffect : Prop :=
  SupplyAndSamplesTakeEffect ∧ HoldsAndTripsTakeEffect

/-! ### The Gatehouse's switchovers and writes -/

/-- Switchovers (R312, R313). A preferred feed that has been READY for 1 s takes over by a switchover, whose other feed's gate goes down first. The switchover waits for the confirmation that this feed is off, its shunt voltage below 1 % of CB and its gate within 1 V of its source, then for the gap, and turns
the new feed on; a new feed that has left READY ends it at the confirmation; without a confirmation in 100 µs the old feed is latched and nothing is turned on. -/
def Sys2Proof.Machine.SwitchoversTakeEffect : Prop :=
  (∀ s : State, s.gr Reg.GTH_CTL_AUTO_RETURN ≠ 1 ∨ s.fst s.preferred ≠ 2 ∨ s.drives (otherFeed s.preferred) = false ∨ (s.feed (otherFeed s.preferred)).pull ≠ none ∨ s.gth.switch ≠ none ∨ (s.feed s.preferred).since < 1000000 → exec .autoReturnTimer s = .next s)
  ∧ (∀ (x y : Feed) (s : State), y = s.preferred → x = otherFeed y → s.gr Reg.GTH_CTL_AUTO_RETURN = 1 → s.fst y = 2 → s.drives x = true → (s.feed x).pull = none → s.gth.switch = none → 1000000 ≤ (s.feed y).since →
      ∃ t, exec .autoReturnTimer s = .next t ∧ t.fst x = 1 ∧ t.fst y = 2 ∧ t.gth.switch = some { src := x, dst := y } ∧ t.gr Reg.GTH_STATUS_SELECTED = feedNo y + 1 ∧ .gate x .off ∈ t.out
      ∧ t.gr Reg.GTH_STATUS_SWITCHOVERS = min 65535 (s.gr Reg.GTH_STATUS_SWITCHOVERS + 1) ∧ t.media = s.media)
  ∧ (∀ (g : Nat) (s : State), s.gth.switch = none → exec (.offConfirm g) s = .next s ∧ exec .offConfirmTimeout s = .next s ∧ exec .bbmGapExpiry s = .next s)
  ∧ (∀ (g : Nat) (w : Switch) (s : State), s.gth.switch = some w → w.confirmed = true ∨ 1000 < g ∨ s.gr (atFeed w.src Reg.GTH_FEED_A_BREAKER_CB) ≤ (s.feed w.src).vsh → exec (.offConfirm g) s = .next s)
  ∧ (∀ (g : Nat) (w : Switch) (s : State), s.gth.switch = some w → w.confirmed = false → g ≤ 1000 → (s.feed w.src).vsh < s.gr (atFeed w.src Reg.GTH_FEED_A_BREAKER_CB) → ∃ t, exec (.offConfirm g) s = .next t
      ∧ (s.fst w.dst = 2 → t.gth.switch = some { w with confirmed := true, age := 0 } ∧ t = { s with gth := { s.gth with switch := t.gth.switch } })
      ∧ (s.fst w.dst ≠ 2 → s.gth.left = none → t.gth.switch = none ∧ (∀ y : Feed, t.fst y = s.fst y ∨ (s.fst y = 2 ∧ t.fst y = 3)) ∧ t.media = s.media))
  ∧ (∀ (w : Switch) (s : State), s.gth.switch = some w → w.confirmed = true ∨ w.age < 100 → exec .offConfirmTimeout s = .next s)
  ∧ (∀ (w : Switch) (s : State), s.gth.switch = some w → w.confirmed = false → 100 ≤ w.age → s.drives w.src = false → s.gth.left = none → ∃ t, exec .offConfirmTimeout s = .next t ∧ FeedLatched w.src 4 s t
      ∧ (t.feed w.src).hold = true ∧ t.gth.switch = none ∧ t.gr Reg.GTH_STATUS_SELECTED = 0 ∧ ∀ y, y ≠ w.src → t.fst y = s.fst y)
  ∧ (∀ (w : Switch) (s : State), s.gth.switch = some w → w.confirmed = false ∨ w.age < s.gr Reg.GTH_OUT_CFG_BBM_GAP ∨ s.fst w.dst ≠ 2 → exec .bbmGapExpiry s = .next s)
  ∧ ∀ (w : Switch) (s : State), s.gth.switch = some w → w.confirmed = true → s.gr Reg.GTH_OUT_CFG_BBM_GAP ≤ w.age → s.fst w.dst = 2 → s.gth.left = none → ∃ t, exec .bbmGapExpiry s = .next t ∧ t.fst w.dst = 3
      ∧ t.gth.making = true ∧ t.gth.switch = none ∧ t.gr Reg.GTH_STATUS_SELECTED = feedNo w.dst + 1 ∧ (t.feed w.dst).gate = t.gateWants w.dst ∧ .gate w.dst (t.gateWants w.dst) ∈ t.out ∧ t.media = s.media

/-- Writes that reach the Gatehouse (R303, R304, R315, R316). The oldest forwarded write takes effect, or is lost without supply. GTH_CTL sets the software enables, and the rest while it is not locked; a configuration register takes the nearer
end of each range unless it is locked or its window would be too narrow. A write that clears both enables turns both feeds off and starts no switchover. A clear moves a latched feed to QUALIFY, or to OFF if it is not enabled. -/
def Sys2Proof.Machine.GatehouseWritesTakeEffect : Prop :=
  (∀ s : State, s.gth.writes = [] → exec .gthConfigApply s = .next s)
  ∧ (∀ (off : Nat) (v : Word) (r : List (Nat × Word)) (s : State), s.gth.writes = (off, v) :: r → s.gth.aux = false ∨ s.gth.loaded = false → ∃ t, exec .gthConfigApply s = .next t ∧ t = { s with gth := { s.gth with writes := r } })
  ∧ (∀ (off : Nat) (v : Word) (r : List (Nat × Word)) (s : State), s.gth.writes = (off, v) :: r → s.gth.aux = true → s.gth.loaded = true → gthFields off ≠ [] → ∃ t, exec .gthConfigApply s = .next t
      ∧ Tbl.lookD t.gth.regs 0 off = (if s.gthLocked = true ∨ (isWindowReg off = true ∧ wideEnough (mapFields off (fun lo hi _ n => clampTo lo hi n) v) = false) then Tbl.lookD s.gth.regs 0 off
          else mapFields off (fun lo hi _ n => clampTo lo hi n) v)
      ∧ (∀ o, o ≠ off → Tbl.lookD t.gth.regs 0 o = Tbl.lookD s.gth.regs 0 o) ∧ t = { s with gth := { s.gth with writes := r, regs := t.gth.regs } })
  ∧ (∀ (v : Word) (r : List (Nat × Word)) (s : State), s.gth.writes = (0x2100000, v) :: r → s.gth.aux = true → s.gth.loaded = true → ∃ t, exec .gthConfigApply s = .next t ∧ t.gth.writes = r
      ∧ t.gr Reg.GTH_CTL_A_SW_EN = bitsOf v 0 1 ∧ t.gr Reg.GTH_CTL_B_SW_EN = bitsOf v 1 1
      ∧ t.gr Reg.GTH_CTL_PRI = (if s.gthLocked then s.gr Reg.GTH_CTL_PRI else bitsOf v 2 1) ∧ t.gr Reg.GTH_CTL_AUTO_RETURN = (if s.gthLocked then s.gr Reg.GTH_CTL_AUTO_RETURN else bitsOf v 3 1)
      ∧ t.gr Reg.GTH_CTL_LOCK = (if s.gthLocked then 1 else bitsOf v 31 1) ∧ (v.getLsbD 6 = true → t.gth.fa.energyPj = 0) ∧ (v.getLsbD 7 = true → t.gth.fb.energyPj = 0)
      ∧ (s.fst .a = 5 → v.getLsbD 4 = true → t.fst .a = if s.gr Reg.GTH_FEED_A_STATUS_EN_PIN = 1 ∧ bitsOf v 0 1 = 1 then 1 else 0)
      ∧ (s.fst .b = 5 → v.getLsbD 5 = true → t.fst .b = if s.gr (atFeed .b Reg.GTH_FEED_A_STATUS_EN_PIN) = 1 ∧ bitsOf v 1 1 = 1 then 1 else 0)
      ∧ (∀ x : Feed, s.drives x = true → t.gr (match x with | .a => Reg.GTH_CTL_A_SW_EN | .b => Reg.GTH_CTL_B_SW_EN) = 0 → t.fst x = 0 ∧ .gate x .off ∈ t.out)
      ∧ (bitsOf v 0 2 = 0 → t.fst .a = 0 ∧ t.fst .b = 0 ∧ t.gr Reg.GTH_STATUS_SWITCHOVERS = s.gr Reg.GTH_STATUS_SWITCHOVERS) ∧ t.media = s.media)
  ∧ (∀ (x : Feed) (s : State), s.fst x ≠ 5 → exec (.gthCtlClear x) s = .next s)
  ∧ (∀ (x : Feed) (s : State), s.fst x = 5 → ∃ t, exec (.gthCtlClear x) s = .next t ∧ t.fst x = (if s.enabled x then 1 else 0) ∧ (t.feed x).hold = false ∧ (s.enabled x = true → (t.feed x).insHold = false)
      ∧ t.gr (atFeed x Reg.GTH_FEED_A_STATUS_TRIPS) = s.gr (atFeed x Reg.GTH_FEED_A_STATUS_TRIPS) ∧ t.media = s.media)
  ∧ (∀ (x : Feed) (s : State), s.gth.aux = false → exec (.gthCtlClrEnergy x) s = .next s)
  ∧ ∀ (x : Feed) (s : State), s.gth.aux = true → ∃ t, exec (.gthCtlClrEnergy x) s = .next t ∧ (t.feed x).energyPj = 0 ∧ (t.feed x).samples = (s.feed x).samples
      ∧ t.feed (otherFeed x) = s.feed (otherFeed x) ∧ t = { s with gth := t.gth }

/-- The Gatehouse's switchovers and the writes it takes (R303, R304, R312, R313, R315, R316). -/
def Obligations.GatehouseSwitchesAndWrites : Prop :=
  SwitchoversTakeEffect ∧ GatehouseWritesTakeEffect

/-! ### The Graft link layer -/

/-- How many flow units an ACK field frees: those from the oldest to the one before its value, or none if the value lies outside (R325). -/
abbrev Sys2Proof.Machine.AckFrees (s : State) (g a : Nat) : Nat :=
  if 1 ≤ seqGap (s.fuOldest g) a ∧ seqGap (s.fuOldest g) a ≤ (s.gp g).buf.length then seqGap (s.fuOldest g) a else 0

/-- An ACK field has been applied (R325): what it frees has left the replay buffer, and the count of replays is 0 if it freed anything. -/
abbrev Sys2Proof.Machine.AckApplied (g a : Nat) (s t : State) : Prop :=
  (t.gp g).buf = (s.gp g).buf.drop (AckFrees s g a) ∧ t.fuOldest g = if AckFrees s g a = 0 then s.fuOldest g else a

/-- A flow unit has left a port with E in its ACK field (R323, R325): its TYPE, CTL_KIND, START and WIDTH, and its payload. -/
abbrev Sys2Proof.Machine.UnitSent (g ty kind start width : Nat) (payload : List Byte) (s t : State) : Prop :=
  t.out = .fu g (fuUnit (fuHead ty (s.fuExpect g) kind start width) payload) :: s.out ∧ (t.gp g).ackSent = s.fuExpect g

/-- A REQ (0) or RSP (1) flow unit whose payload begins with these bytes of its channel's stream and is filled up with PAD (R329). -/
abbrev Sys2Proof.Machine.streamUnit (ty a : Nat) (b : List Byte) : List Byte := fuUnit (fuHead ty a 0 0 0) (b ++ List.replicate (240 - b.length) 0)

/-- A port has begun a retrain (R320): it is in RETRAIN, not FULL, and the retrain is counted. -/
abbrev Sys2Proof.Machine.InRetrain (g : Nat) (s t : State) : Prop :=
  t.rd (Reg.GFT_PORT_STATUS_STATE g) = 3 ∧ t.flag (Reg.GFT_PORT_STATUS_FULL g) = false ∧ t.rd (Reg.GFT_PORT_ERR_RETRAINS g) = min 255 (s.rd (Reg.GFT_PORT_ERR_RETRAINS g) + 1)

/-- A port has gone down and is LOST (R333, R334); without another port to the partner every lease of the partner is gone. -/
abbrev Sys2Proof.Machine.PortIsLost (g : Nat) (s t : State) : Prop :=
  t.rd (Reg.GFT_PORT_STATUS_STATE g) = 4 ∧ t.flag (Reg.GFT_PORT_STATUS_FULL g) = false ∧ t.flag (Reg.GFT_PORT_STATUS_PEER_VALID g) = false
    ∧ (s.otherUp g = false → ∀ l : Fin 64, (Tbl.look s.borrow l).isSome = true → s.rd (Reg.GFT_BORROW_PEER_ID l) = s.rd (Reg.GFT_PORT_STATUS_PEER_ID g) → Tbl.look t.borrow l = none)

/-- Training and retrains (R317 to R322, R333, R336). An enabled port on a device with an ID comes up with a partner of its domain and opens HELLO, once duty 7 is held (R34); any other partner leaves it REFUSED. A lane, 17 CRC failures in 10 µs or a wanted width stops the port until the retrain is
done; in a collision the higher device ID follows. It keeps its width or takes the one asked for, as far as its lanes work; what is unacknowledged is replayed, and a width still wanted is asked for again. A LOST port that is enabled trains again while the device has an ID. -/
def Sys2Proof.Machine.GraftTrainingTakesEffect : Prop :=
  (∀ (g : GPort) (w : Fin 4) (r : Bool) (peer : BitVec 14) (dom : BitVec 32) (s : State), s.isSafe = true ∨ s.boot.released = false ∨ s.bit Reg.GFT_CFG_PORT_EN g = false ∨ s.flag Reg.GFT_CFG_ID_VALID = false
      ∨ 1 < s.rd (Reg.GFT_PORT_STATUS_STATE g) → exec (.graftLinkUp g w r peer dom) s = .next s)
  ∧ (∀ (g : GPort) (w : Fin 4) (r : Bool) (peer : BitVec 14) (dom : BitVec 32) (s : State), s.isSafe = false → s.boot.released = true → s.bit Reg.GFT_CFG_PORT_EN g = true → s.flag Reg.GFT_CFG_ID_VALID = true →
      s.rd (Reg.GFT_PORT_STATUS_STATE g) ≤ 1 → ∃ t, exec (.graftLinkUp g w r peer dom) s = .next t ∧ t.rd (Reg.GFT_PORT_STATUS_PEER_ID g) = peer.toNat ∧ t.flag (Reg.GFT_PORT_STATUS_RATE g) = r
      ∧ t.rd (Reg.GFT_PORT_STATUS_WIDTH g) = w.val ∧ t.media = s.media
      ∧ if dom.toNat = s.rd Reg.GFT_DOMAIN_TAG ∧ peer.toNat ≠ s.rd Reg.GFT_CFG_DEV_ID then t.rd (Reg.GFT_PORT_STATUS_STATE g) = 2 ∧ t.flag (Reg.GFT_PORT_STATUS_FULL g) = (w.val == 3 && r) ∧ t.fuOldest g = 0 ∧ t.fuExpect g = 0
          ∧ (t.gp g).buf = [] ∧ (t.gp g).session = ((s.gp g).session + 1) % 65536 ∧ (if s.dutyUp 7 then (t.gp g).reqQ = [.oxn 0 false (t.helloBody g)] else (t.gp g).reqQ = [] ∧ (t.gp g).oxnToOpen.getLast? = some (t.helloBody g)) ∧ t.out = s.out
        else t.rd (Reg.GFT_PORT_STATUS_STATE g) = 5 ∧ t.gp g = s.gp g)
  ∧ (∀ (g : GPort) (c : RetrainCause) (b : Bool) (s : State), s.portUp g = false ∨ (∃ w, c = .widthChange w ∧ (s.gp g).wantWidth ≠ some w.val) ∨ (c = .crcRate ∧ s.crcRate g = false) → exec (.graftRetrain g c b) s = .next s)
  ∧ (∀ (g : GPort) (c : RetrainCause) (b : Bool) (s : State), s.portUp g = true → c = .blockLock ∨ (c = .crcRate ∧ 16 < ((s.gp g).crcAt.filter (fun n => decide (s.tick < n + 125 * s.rootN))).length) → ∃ t,
      exec (.graftRetrain g c b) s = .next t ∧ InRetrain g s t ∧ UnitSent g 3 3 0 0 noPayload s t ∧ (t.gp g).lead = !(b && s.follows g) ∧ (t.gp g).target = none ∧ (t.gp g).buf = (s.gp g).buf
      ∧ (t.gp g).wantWidth = (s.gp g).wantWidth ∧ t.media = s.media)
  ∧ (∀ (g : GPort) (w : Fin 4) (b : Bool) (s : State), s.portUp g = true → (s.gp g).wantWidth = some w.val → ∃ t, exec (.graftRetrain g (.widthChange w) b) s = .next t ∧ InRetrain g s t
      ∧ UnitSent g 3 4 0 w.val noPayload s t ∧ (t.gp g).buf = (s.gp g).buf ∧ (t.gp g).wantWidth = some w.val ∧ t.rd (Reg.GFT_PORT_STATUS_WIDTH g) = s.rd (Reg.GFT_PORT_STATUS_WIDTH g)
      ∧ if b = true ∧ s.rd (Reg.GFT_PORT_STATUS_PEER_ID g) < s.rd Reg.GFT_CFG_DEV_ID then (t.gp g).lead = false ∧ (t.gp g).target = none else (t.gp g).lead = true ∧ (t.gp g).target = some w.val)
  ∧ (∀ (g : GPort) (w : Fin 4) (s : State), s.rd (Reg.GFT_PORT_STATUS_STATE g) ≠ 3 → exec (.graftRetrainDone g w) s = .next s)
  ∧ (∀ (g : GPort) (w : Fin 4) (p : GPortSt) (v : Nat) (s : State), s.rd (Reg.GFT_PORT_STATUS_STATE g) = 3 → p = s.gp g → v = min w.val (p.target.getD (s.rd (Reg.GFT_PORT_STATUS_WIDTH g))) → ∃ t,
      exec (.graftRetrainDone g w) s = .next t ∧ t.rd (Reg.GFT_PORT_STATUS_WIDTH g) = v ∧ (t.gp g).buf = p.buf
      ∧ (p.buf ≠ [] → (t.gp g).replaying = some (s.fuOldest g) ∧ .fu g (fuUnit (fuHead 3 (s.fuExpect g) 2 (s.fuOldest g) 0) noPayload) ∈ t.out)
      ∧ (p.wantWidth = none → t.rd (Reg.GFT_PORT_STATUS_STATE g) = 2 ∧ t.flag (Reg.GFT_PORT_STATUS_FULL g) = (v == 3 && s.flag (Reg.GFT_PORT_STATUS_RATE g)) ∧ (t.gp g).target = none)
      ∧ ∀ x, p.wantWidth = some x → if v = x ∨ (p.lead = true ∧ p.target = some x)
          then t.rd (Reg.GFT_PORT_STATUS_STATE g) = 2 ∧ t.flag (Reg.GFT_PORT_STATUS_FULL g) = (v == 3 && s.flag (Reg.GFT_PORT_STATUS_RATE g)) ∧ (t.gp g).wantWidth = none ∧ (t.gp g).cmdWidth = []
          else t.rd (Reg.GFT_PORT_STATUS_STATE g) = 3 ∧ .fu g (fuUnit (fuHead 3 (s.fuExpect g) 4 0 x) noPayload) ∈ t.out ∧ (t.gp g).wantWidth = some x ∧ (t.gp g).cmdWidth = p.cmdWidth
            ∧ (t.gp g).lead = true ∧ (t.gp g).target = some x)
  ∧ ∀ (g : GPort) (s : State), exec (.graftLostRetry g) s
      = .next (if s.rd (Reg.GFT_PORT_STATUS_STATE g) = 4 ∧ s.bit Reg.GFT_CFG_PORT_EN g = true ∧ s.flag Reg.GFT_CFG_ID_VALID = true then s.wr (Reg.GFT_PORT_STATUS_STATE g) 1 else s)

/-- Sending (R323 to R327, R329). A flow unit is 256 bytes whose CRC-64 is good. A port that is UP sends the next flow unit of a replay, else a response before a request, kept for replay under the next sequence; with 1,024 unacknowledged, or with nothing else to send and a changed value,
an ACK. An expired replay timer starts a replay, or loses the port at the limit. -/
def Sys2Proof.Machine.GraftSendingTakesEffect : Prop :=
  (∀ (h : Nat) (b : List Byte), b.length = 240 → fuGood (fuUnit h b) = true ∧ byteField (fuUnit h b) 0 8 = h % 2 ^ 64)
  ∧ (∀ (g : GPort) (s : State), s.portUp g = false → exec (.fuTransmit g) s = .next s ∧ exec (.ackTimer g) s = .next s ∧ exec (.nakResend g) s = .next s)
  ∧ (∀ (g : GPort) (p : GPortSt) (s : State), s.portUp g = true → p = s.gp g → p.replaying = none → p.rspQ = [] → p.reqQ = [] → p.ackSent = s.fuExpect g → exec (.fuTransmit g) s = .next s)
  ∧ (∀ (g : GPort) (p : GPortSt) (q : Nat) (f : Fu) (s : State), s.portUp g = true → p = s.gp g → p.replaying = some q → p.buf[seqGap (s.fuOldest g) q]? = some f → ∃ t, exec (.fuTransmit g) s = .next t
      ∧ UnitSent g (fuCode f.ty) 0 0 0 f.payload s t ∧ (t.gp g).buf = p.buf ∧ (t.gp g).txNext = p.txNext
      ∧ (t.gp g).replaying = if seqGap (s.fuOldest g) q + 1 < p.buf.length then some ((q + 1) % 4096) else none)
  ∧ (∀ (g : GPort) (p : GPortSt) (q : Nat) (s : State), s.portUp g = true → p = s.gp g → p.replaying = some q → p.buf[seqGap (s.fuOldest g) q]? = none → ∃ t, exec (.fuTransmit g) s = .next t ∧ t.gp g = { p with replaying := none } ∧ t.out = s.out)
  ∧ (∀ (g : GPort) (p : GPortSt) (s : State), s.portUp g = true → p = s.gp g → p.replaying = none → (if p.rspQ = [] ∧ p.reqQ = [] then p.ackSent ≠ s.fuExpect g else 1024 ≤ p.buf.length) → ∃ t, exec (.fuTransmit g) s = .next t
      ∧ UnitSent g 2 0 0 0 noPayload s t ∧ t.gp g = { p with ackSent := s.fuExpect g } ∧ t.media = s.media)
  ∧ (∀ (g : GPort) (p : GPortSt) (r : List Byte × List GMsg × Nat) (s : State), s.portUp g = true → p = s.gp g → p.replaying = none → p.rspQ ≠ [] → p.buf.length < 1024 → r = packFu p.rspOff 240 p.rspQ → ∃ t, exec (.fuTransmit g) s = .next t
      ∧ r.1.length = 240 ∧ UnitSent g 1 0 0 0 r.1 s t ∧ (t.gp g).buf = p.buf ++ [{ ty := .rsp, payload := r.1 }] ∧ (t.gp g).txNext = (p.txNext + 1) % 4096
      ∧ (t.gp g).rspQ = r.2.1 ∧ (t.gp g).rspOff = r.2.2 ∧ (t.gp g).reqQ = p.reqQ ∧ t.media = s.media)
  ∧ (∀ (g : GPort) (p : GPortSt) (r : List Byte × List GMsg × Nat) (s : State), s.portUp g = true → p = s.gp g → p.replaying = none → p.rspQ = [] → p.reqQ ≠ [] → p.buf.length < 1024 → r = packFu p.reqOff 240 p.reqQ → ∃ t,
      exec (.fuTransmit g) s = .next t ∧ r.1.length = 240 ∧ UnitSent g 0 0 0 0 r.1 s t ∧ (t.gp g).buf = p.buf ++ [{ ty := .req, payload := r.1 }] ∧ (t.gp g).txNext = (p.txNext + 1) % 4096
      ∧ (t.gp g).reqQ = r.2.1 ∧ (t.gp g).reqOff = r.2.2 ∧ (t.gp g).rspQ = [] ∧ t.media = s.media)
  ∧ (∀ (g : GPort) (s : State), s.portUp g = true → ∃ t, exec (.ackTimer g) s = .next t ∧ UnitSent g 2 0 0 0 noPayload s t ∧ t.gp g = { s.gp g with ackSent := s.fuExpect g })
  ∧ (∀ (g : GPort) (s : State), s.portUp g = true → s.flag (Reg.GFT_PORT_STATUS_RX_DISCARD g) = false → exec (.nakResend g) s = .next s)
  ∧ (∀ (g : GPort) (s : State), s.portUp g = true → s.flag (Reg.GFT_PORT_STATUS_RX_DISCARD g) = true → ∃ t, exec (.nakResend g) s = .next t ∧ UnitSent g 3 1 0 0 noPayload s t
      ∧ t.gp g = { s.gp g with ackSent := s.fuExpect g } ∧ t.media = s.media)
  ∧ (∀ (g : GPort) (s : State), (s.gp g).buf = [] ∨ (s.rd (Reg.GFT_PORT_STATUS_STATE g) ≠ 2 ∧ s.rd (Reg.GFT_PORT_STATUS_STATE g) ≠ 3) → exec (.replayTimerExpiry g) s = .next s)
  ∧ (∀ (g : GPort) (s : State), (s.gp g).buf ≠ [] → s.rd (Reg.GFT_PORT_STATUS_STATE g) = 2 → s.rd (Reg.GFT_PORT_SEQ_REPLAYS g) ≤ s.rd Reg.GFT_CFG_REPLAY_LIMIT → ∃ t, exec (.replayTimerExpiry g) s = .next t
      ∧ (t.gp g).replaying = some (s.fuOldest g) ∧ (t.gp g).buf = (s.gp g).buf ∧ t.rd (Reg.GFT_PORT_SEQ_REPLAYS g) = s.rd (Reg.GFT_PORT_SEQ_REPLAYS g) + 1
      ∧ t.rd (Reg.GFT_PORT_ERR_REPLAYS_TOTAL g) = min 255 (s.rd (Reg.GFT_PORT_ERR_REPLAYS_TOTAL g) + 1) ∧ UnitSent g 3 2 (s.fuOldest g) 0 noPayload s t)
  ∧ ∀ (g : GPort) (s : State), (s.gp g).buf ≠ [] → s.rd (Reg.GFT_PORT_STATUS_STATE g) = 2 ∨ s.rd (Reg.GFT_PORT_STATUS_STATE g) = 3 → s.rd Reg.GFT_CFG_REPLAY_LIMIT < s.rd (Reg.GFT_PORT_SEQ_REPLAYS g) → ∃ t,
      exec (.replayTimerExpiry g) s = .next t ∧ PortIsLost g s t

/-- Receiving (R320, R321, R323, R325, R327 to R329, R332, R333; Table 14.3). A flow unit that fails its CRC is dropped with its ACK field, and the first one starts DISCARD with a NAK. Of a good one the ACK field is applied; its payload
continues its channel's stream only in sequence and outside DISCARD, and each message that ends in it acts as its own command would; a message that it leaves begun waits for the next. An OP that the channel does not carry and a reserved kind are protocol
errors. The control flow units act as Table 14.3 states. -/
def Sys2Proof.Machine.GraftReceivingTakesEffect : Prop :=
  (∀ (g : GPort) (u : List Byte) (a b : BitVec 12) (w : Fin 4) (s : State), s.portUp g = false → exec (.ackFu g a) s = .next s ∧ exec (.nak g a) s = .next s ∧ exec (.replay g a b) s = .next s
      ∧ (s.rd (Reg.GFT_PORT_STATUS_STATE g) ≠ 3 → exec (.fuReceive g u) s = .next s ∧ exec (.retrainReq g a) s = .next s ∧ exec (.widthReq g a w) s = .next s))
  ∧ (∀ (g : GPort) (u : List Byte) (s : State), s.portUp g = true → fuGood u = false → ∃ t, exec (.fuReceive g u) s = .next t ∧ t.rd (Reg.GFT_PORT_ERR_CRC_FAILS g) = min 65535 (s.rd (Reg.GFT_PORT_ERR_CRC_FAILS g) + 1)
      ∧ t.flag (Reg.GFT_PORT_STATUS_RX_DISCARD g) = true ∧ (t.gp g).buf = (s.gp g).buf ∧ t.fuOldest g = s.fuOldest g ∧ t.fuExpect g = s.fuExpect g
      ∧ (t.gp g).crcAt = (s.gp g).crcAt.filter (fun n => decide (s.tick < n + 125 * s.rootN)) ++ [s.tick]
      ∧ if s.flag (Reg.GFT_PORT_STATUS_RX_DISCARD g) then t.out = s.out else UnitSent g 3 1 0 0 noPayload s t)
  ∧ (∀ (g : GPort) (u : List Byte) (h : Nat) (s : State), s.portUp g = true → fuGood u = true → h = byteField u 0 8 → h % 4 < 2 → s.flag (Reg.GFT_PORT_STATUS_RX_DISCARD g) = true → ∃ t, exec (.fuReceive g u) s = .next t
      ∧ AckApplied g (h / 4 % 4096) s t ∧ (t.gp g).seqIn = (s.gp g).seqIn ∧ t.fuExpect g = s.fuExpect g ∧ t.out = s.out)
  ∧ (∀ (g : GPort) (u : List Byte) (h : Nat) (s : State), s.portUp g = true → fuGood u = true → h = byteField u 0 8 → h % 4 < 2 → s.flag (Reg.GFT_PORT_STATUS_RX_DISCARD g) = false → (s.gp g).seqIn ≠ s.fuExpect g → ∃ t,
      exec (.fuReceive g u) s = .next t ∧ AckApplied g (h / 4 % 4096) s t ∧ (t.gp g).seqIn = ((s.gp g).seqIn + 1) % 4096 ∧ t.fuExpect g = s.fuExpect g ∧ t.out = s.out)
  ∧ (∀ (g : GPort) (rsp : Bool) (a : BitVec 12) (s : State), s.portUp g = true → s.flag (Reg.GFT_PORT_STATUS_RX_DISCARD g) = false → (s.gp g).seqIn = s.fuExpect g → (s.gp g).rxReq = [] → (s.gp g).rxRsp = [] → ∃ t,
      exec (.fuReceive g (streamUnit rsp.toNat a.toNat [])) s = .next t ∧ AckApplied g a.toNat s t ∧ (t.gp g).seqIn = ((s.gp g).seqIn + 1) % 4096 ∧ t.fuExpect g = (s.fuExpect g + 1) % 4096 ∧ t.out = s.out
      ∧ (rsp = false → (∀ tag l n, exec (.fuReceive g (streamUnit 0 a.toNat (msgBytes (.rdl tag l n)))) s = exec (.rdl g tag l n) t)
          ∧ (∀ tag l n, exec (.fuReceive g (streamUnit 0 a.toNat (msgBytes (.rdu tag l n)))) s = exec (.rdu g tag l n) t)
          ∧ (∀ tag l n d p, exec (.fuReceive g (streamUnit 0 a.toNat (msgBytes (.wrl tag l n d p)))) s = exec (.wrl g tag l n d p) t)
          ∧ (∀ tag l n k d p, exec (.fuReceive g (streamUnit 0 a.toNat (msgBytes (.wrp tag l n k d p)))) s = exec (.wrp g tag l n k d p) t)
          ∧ ∀ tag l n d p, ∃ v, exec (.fuReceive g (fuUnit (fuHead 0 a.toNat 0 0 0) ((msgBytes (.wru tag l n d p)).take 240))) s = .next v ∧ (v.gp g).rxReq = (msgBytes (.wru tag l n d p)).take 240
            ∧ (v.gp g).outst = (s.gp g).outst ∧ v.path = s.path ∧ v.fuExpect g = (s.fuExpect g + 1) % 4096)
      ∧ (rsp = true → (∀ tag st d p, exec (.fuReceive g (streamUnit 1 a.toNat (msgBytes (.datal tag st d p)))) s = exec (.datal g tag st d p) t)
          ∧ ∀ tag st, exec (.fuReceive g (streamUnit 1 a.toNat (msgBytes (.cmp tag st)))) s = exec (.cmp g tag st) t))
  ∧ (∀ (g : GPort) (rsp : Bool) (a : BitVec 12) (h : Nat) (s : State), s.portUp g = true → s.flag (Reg.GFT_PORT_STATUS_RX_DISCARD g) = false → (s.gp g).seqIn = s.fuExpect g → (s.gp g).rxReq = [] → (s.gp g).rxRsp = [] →
      h % 16 ≠ 0 → opData rsp (h % 16) = none → ∃ t, exec (.fuReceive g (streamUnit rsp.toNat a.toNat (leBytes 8 h))) s = .next t ∧ PortIsLost g s t)
  ∧ (∀ (g : GPort) (a b : BitVec 12) (w : Fin 4) (s : State), exec (.fuReceive g (fuUnit (fuHead 2 a.toNat 0 0 0) noPayload)) s = exec (.ackFu g a) s ∧ exec (.fuReceive g (fuUnit (fuHead 3 a.toNat 1 0 0) noPayload)) s = exec (.nak g a) s
      ∧ exec (.fuReceive g (fuUnit (fuHead 3 a.toNat 2 b.toNat 0) noPayload)) s = exec (.replay g a b) s ∧ exec (.fuReceive g (fuUnit (fuHead 3 a.toNat 3 0 0) noPayload)) s = exec (.retrainReq g a) s
      ∧ exec (.fuReceive g (fuUnit (fuHead 3 a.toNat 4 0 w.val) noPayload)) s = exec (.widthReq g a w) s)
  ∧ (∀ (g : GPort) (a : BitVec 12) (k : Nat) (s : State), s.portUp g = true → k = 0 ∨ (4 < k ∧ k < 16) → ∃ t, exec (.fuReceive g (fuUnit (fuHead 3 a.toNat k 0 0) noPayload)) s = .next t ∧ PortIsLost g s t)
  ∧ (∀ (g : GPort) (a : BitVec 12) (s : State), s.portUp g = true → ∃ t, exec (.ackFu g a) s = .next t ∧ AckApplied g a.toNat s t ∧ t.out = s.out ∧ t.fuExpect g = s.fuExpect g)
  ∧ (∀ (g : GPort) (a : BitVec 12) (s : State), s.portUp g = true → ∃ t, exec (.nak g a) s = .next t ∧ AckApplied g a.toNat s t ∧ UnitSent g 3 2 (t.fuOldest g) 0 noPayload s t
      ∧ (t.gp g).replaying = if (t.gp g).buf = [] then none else some (t.fuOldest g))
  ∧ (∀ (g : GPort) (a b : BitVec 12) (s : State), s.portUp g = true → seqGap b.toNat (s.fuExpect g) ≤ 1024 → ∃ t, exec (.replay g a b) s = .next t ∧ AckApplied g a.toNat s t ∧ (t.gp g).seqIn = b.toNat
      ∧ t.flag (Reg.GFT_PORT_STATUS_RX_DISCARD g) = false ∧ t.fuExpect g = s.fuExpect g ∧ t.out = s.out)
  ∧ (∀ (g : GPort) (a b : BitVec 12) (s : State), s.portUp g = true → 1024 < seqGap b.toNat (s.fuExpect g) → ∃ t, exec (.replay g a b) s = .next t ∧ PortIsLost g s t)
  ∧ (∀ (g : GPort) (a : BitVec 12) (w : Fin 4) (s : State), s.portUp g = true → (∃ t, exec (.retrainReq g a) s = .next t ∧ AckApplied g a.toNat s t ∧ InRetrain g s t ∧ (t.gp g).lead = false ∧ (t.gp g).target = none ∧ t.out = s.out)
      ∧ ∃ t, exec (.widthReq g a w) s = .next t ∧ AckApplied g a.toNat s t ∧ InRetrain g s t ∧ (t.gp g).lead = false ∧ (t.gp g).target = some w.val
        ∧ t.rd (Reg.GFT_PORT_STATUS_WIDTH g) = s.rd (Reg.GFT_PORT_STATUS_WIDTH g) ∧ t.out = s.out)
  ∧ (∀ (g : GPort) (a : BitVec 12) (w : Fin 4) (s : State), s.rd (Reg.GFT_PORT_STATUS_STATE g) = 3 → ∃ t, exec (.widthReq g a w) s = .next t ∧ AckApplied g a.toNat s t ∧ t.rd (Reg.GFT_PORT_STATUS_STATE g) = 3
      ∧ (if (s.gp g).lead = true ∧ s.rd Reg.GFT_CFG_DEV_ID ≤ s.rd (Reg.GFT_PORT_STATUS_PEER_ID g) then (t.gp g).lead = true ∧ (t.gp g).target = (s.gp g).target else (t.gp g).lead = false ∧ (t.gp g).target = some w.val) ∧ t.out = s.out)
  ∧ (∀ (g : GPort) (c : LostCause) (s : State), (s.rd (Reg.GFT_PORT_STATUS_STATE g) ≠ 2 ∧ s.rd (Reg.GFT_PORT_STATUS_STATE g) ≠ 3) ∨ (c = .replayLimit ∧ s.rd (Reg.GFT_PORT_SEQ_REPLAYS g) ≤ s.rd Reg.GFT_CFG_REPLAY_LIMIT)
      ∨ (c = .discardTooLong ∧ s.flag (Reg.GFT_PORT_STATUS_RX_DISCARD g) = false) ∨ (c = .retrainTooLong ∧ s.rd (Reg.GFT_PORT_STATUS_STATE g) ≠ 3) → exec (.graftPortLost g c) s = .next s)
  ∧ ∀ (g : GPort) (c : LostCause) (s : State), s.rd (Reg.GFT_PORT_STATUS_STATE g) = 2 ∨ s.rd (Reg.GFT_PORT_STATUS_STATE g) = 3 → c = .noProgress ∨ c = .protocolError ∨ (c = .replayLimit ∧ s.rd Reg.GFT_CFG_REPLAY_LIMIT < s.rd (Reg.GFT_PORT_SEQ_REPLAYS g))
      ∨ (c = .discardTooLong ∧ s.flag (Reg.GFT_PORT_STATUS_RX_DISCARD g) = true) ∨ (c = .retrainTooLong ∧ s.rd (Reg.GFT_PORT_STATUS_STATE g) = 3) → ∃ t, exec (.graftPortLost g c) s = .next t ∧ PortIsLost g s t

/-- The Graft link layer: training, flow units, acknowledgement, replay and the loss of a port (R317 to R329, R333, R334). -/
def Obligations.GraftLinkTakesEffect : Prop :=
  GraftTrainingTakesEffect ∧ GraftSendingTakesEffect ∧ GraftReceivingTakesEffect

/-! ### Graft messages: lending and borrowing data -/

/-- A peer's request has been taken into service under the next number (R28, R269, R332): it is noted for its answer, and its lines have joined the inbound queue of the port, with the class of a lender's work. -/
abbrev Sys2Proof.Machine.LentServed (g : GPort) (tag op : Nat) (rop : ReqOp) (k : Nat) (ls : List (Nat × BitVec 512 × BitVec 64 × Bool)) (s t : State) : Prop :=
  (t.gp g).serving = (s.gp g).serving ++ [{ id := s.path.nextId, tag := tag, op := op, left := ls.length, lines := [] }]
    ∧ (∃ new, t.path.ingress = s.path.ingress ++ new
      ∧ new.map (fun (q : Req) => (q.src, q.op, q.lease, q.cls)) = ls.map (fun _ => (Src.graft g, rop, s.path.nextId, s.lendClass))
      ∧ new.map (fun (q : Req) => (q.line, q.data, q.be, q.poison)) = ls.map (fun x => (s.rd (Reg.GFT_LENT_BASE k) * 2 ^ 22 + x.1, x.2)))
    ∧ t.out = s.out ∧ t.media = s.media

/-- A peer's request outside any lease of the peer has been answered with UNBACKED (R332); nothing has joined the inbound queue. -/
abbrev Sys2Proof.Machine.PeerUnbacked (g : GPort) (m : GMsg) (s t : State) : Prop :=
  (t.gp g).rspQ = (s.gp g).rspQ ++ [m] ∧ (t.gp g).serving = (s.gp g).serving ∧ t.path = s.path ∧ t.media = s.media

/-- A lender serves the reads and writes of its partner (R28, R269, R332; Table 14.5). A request within a granted lease of the partner puts its lines into the inbound queue of the port at the lease's base; one outside is answered with
STATUS 1, whose data reads as poison. Nothing is taken at a port that is not UP. -/
def Sys2Proof.Machine.LenderServesTheLease : Prop :=
  (∀ (g : GPort) (tag : BitVec 10) (l : Fin 64) (n : BitVec 32) (d : BitVec 512) (m : BitVec 64) (p : Bool) (ds : List (BitVec 512)) (ps : BitVec 8) (s : State), s.portUp g = false →
      exec (.rdl g tag l n) s = .next s ∧ exec (.rdu g tag l n) s = .next s ∧ exec (.wrl g tag l n d p) s = .next s ∧ exec (.wrp g tag l n m d p) s = .next s ∧ exec (.wru g tag l n ds ps) s = .next s)
  ∧ (∀ (g : GPort) (tag : BitVec 10) (l : Fin 64) (n : BitVec 32) (k : Nat) (s : State), s.portUp g = true → s.lentFor g l n.toNat 1 = some k → ∃ t, exec (.rdl g tag l n) s = .next t
      ∧ LentServed g tag.toNat 0 .rd k [(n.toNat, 0, 0, false)] s t)
  ∧ (∀ (g : GPort) (tag : BitVec 10) (l : Fin 64) (n : BitVec 32) (s : State), s.portUp g = true → s.lentFor g l n.toNat 1 = none → ∃ t, exec (.rdl g tag l n) s = .next t ∧ PeerUnbacked g (.datal tag 1 0 true) s t)
  ∧ (∀ (g : GPort) (tag : BitVec 10) (l : Fin 64) (n : BitVec 32) (k : Nat) (s : State), s.portUp g = true → s.lentFor g l (n.toNat / 8 * 8) 8 = some k → ∃ t, exec (.rdu g tag l n) s = .next t
      ∧ LentServed g tag.toNat 1 .rd k ((List.range 8).map (fun j => (n.toNat / 8 * 8 + j, 0, 0, false))) s t)
  ∧ (∀ (g : GPort) (tag : BitVec 10) (l : Fin 64) (n : BitVec 32) (s : State), s.portUp g = true → s.lentFor g l (n.toNat / 8 * 8) 8 = none → ∃ t, exec (.rdu g tag l n) s = .next t
      ∧ PeerUnbacked g (.datau tag 1 (List.replicate 8 0) (BitVec.allOnes 8)) s t)
  ∧ (∀ (g : GPort) (tag : BitVec 10) (l : Fin 64) (n : BitVec 32) (d : BitVec 512) (m : BitVec 64) (p : Bool) (k : Nat) (s : State), s.portUp g = true → s.lentFor g l n.toNat 1 = some k →
      (∃ t, exec (.wrl g tag l n d p) s = .next t ∧ LentServed g tag.toNat 2 .wr k [(n.toNat, d, BitVec.allOnes 64, p)] s t)
      ∧ ∃ t, exec (.wrp g tag l n m d p) s = .next t ∧ LentServed g tag.toNat 2 .wr k [(n.toNat, d, m, p)] s t)
  ∧ (∀ (g : GPort) (tag : BitVec 10) (l : Fin 64) (n : BitVec 32) (d : BitVec 512) (m : BitVec 64) (p : Bool) (s : State), s.portUp g = true → s.lentFor g l n.toNat 1 = none →
      (∃ t, exec (.wrl g tag l n d p) s = .next t ∧ PeerUnbacked g (.cmp tag 1) s t) ∧ ∃ t, exec (.wrp g tag l n m d p) s = .next t ∧ PeerUnbacked g (.cmp tag 1) s t)
  ∧ (∀ (g : GPort) (tag : BitVec 10) (l : Fin 64) (n : BitVec 32) (ds : List (BitVec 512)) (ps : BitVec 8) (k : Nat) (s : State), s.portUp g = true → ds.length = 8 → s.lentFor g l (n.toNat / 8 * 8) 8 = some k →
      ∃ t, exec (.wru g tag l n ds ps) s = .next t ∧ LentServed g tag.toNat 2 .wr k ((List.range 8).map (fun j => (n.toNat / 8 * 8 + j, (ds[j]?).getD 0, BitVec.allOnes 64, ps.getLsbD j))) s t)
  ∧ ∀ (g : GPort) (tag : BitVec 10) (l : Fin 64) (n : BitVec 32) (ds : List (BitVec 512)) (ps : BitVec 8) (s : State), s.portUp g = true → s.lentFor g l (n.toNat / 8 * 8) 8 = none →
      ∃ t, exec (.wru g tag l n ds ps) s = .next t ∧ PeerUnbacked g (.cmp tag 1) s t

/-- The request under a tag is answered: it is no longer outstanding at the port, and the oldest that waited for room there may leave (R330, R331). -/
abbrev Sys2Proof.Machine.Answered (g : GPort) (tag : BitVec 10) (s : State) : State := s.answered g tag.toNat

/-- Line j of an answer with a status: poisoned unless the status is 0 and no write of the line was answered with another (R332). -/
abbrev Sys2Proof.Machine.AnswerLine (o : Outst) (j : Nat) (st : BitVec 4) (s : State) (x : Line) : Line := if st = 0 ∧ s.peerBad o.lease (o.line + j) = false then x else { x with poison := true }

/-- A borrower takes the answers to its requests (R331 to R333). An answer under a tag that is not outstanding is a protocol error and loses the port. Read data goes to the request, write entry, page or engine that waits for it, poisoned under
a nonzero status; the data of an earlier fill of a line is not taken. A write completion with a nonzero status poisons its lines from then on and aborts
the spill that it belongs to; one with status 0 for whole lines ends their poison. A tag that comes free lets the oldest waiting request leave. -/
def Sys2Proof.Machine.BorrowerTakesAnswers : Prop :=
  (∀ (g : GPort) (tag : BitVec 10) (st : BitVec 4) (d : BitVec 512) (p : Bool) (ds : List (BitVec 512)) (ps : BitVec 8) (s : State), s.portUp g = false →
      exec (.datal g tag st d p) s = .next s ∧ exec (.datau g tag st ds ps) s = .next s ∧ exec (.cmp g tag st) s = .next s)
  ∧ (∀ (g : GPort) (tag : BitVec 10) (st : BitVec 4) (d : BitVec 512) (p : Bool) (ds : List (BitVec 512)) (ps : BitVec 8) (s : State), s.portUp g = true →
      (s.gp g).outst.find? (fun (o : Outst) => o.tag == tag.toNat && !o.write) = none → (∃ t, exec (.datal g tag st d p) s = .next t ∧ PortIsLost g s t) ∧ ∃ t, exec (.datau g tag st ds ps) s = .next t ∧ PortIsLost g s t)
  ∧ (∀ (g : GPort) (tag : BitVec 10) (st : BitVec 4) (d : BitVec 512) (p : Bool) (o : Outst) (y : Line) (s : State), s.portUp g = true → (s.gp g).outst.find? (fun (o : Outst) => o.tag == tag.toNat && !o.write) = some o →
      y = AnswerLine o 0 st s { data := d, poison := p } →
      (∀ id b u, o.why = .txn id b → s.txn? id = some u → exec (.datal g tag st d p) s = .next ((Answered g tag s).lineBack u y))
      ∧ (∀ l n v sl, o.why = .fill l n → s.wcb? l = some v → v.fill = some (n, sl) → ∃ t, exec (.datal g tag st d p) s = .next t ∧ t.graft = (Answered g tag s).graft ∧ ∀ w ∈ t.path.wcb, w.line = l → w.fill = none ∧ w.be = BitVec.allOnes 64)
      ∧ (∀ l n, o.why = .fill l n → (∀ v, s.wcb? l = some v → ∀ sl, v.fill ≠ some (n, sl)) → exec (.datal g tag st d p) s = .next (Answered g tag s))
      ∧ (∀ q k, o.why = .page q k → (∀ j m, s.slotOf q = some (j, m) → m.kind ≠ .spill) → ∃ t, exec (.datal g tag st d p) s = .next t ∧ Tbl.look (Tbl.lookD t.sec.gather [] q) (8 * k) = some y ∧ t = { Answered g tag s with sec := { s.sec with gather := t.sec.gather } }))
  ∧ (∀ (g : GPort) (tag : BitVec 10) (st : BitVec 4) (ds : List (BitVec 512)) (ps : BitVec 8) (o : Outst) (s : State), s.portUp g = true → (s.gp g).outst.find? (fun (o : Outst) => o.tag == tag.toNat && !o.write) = some o →
      (∀ q k, o.why = .page q k → (∀ j m, s.slotOf q = some (j, m) → m.kind ≠ .spill) → ∃ t, exec (.datau g tag st ds ps) s = .next t ∧ t = { Answered g tag s with sec := { s.sec with gather := t.sec.gather } }
        ∧ ∀ j, j < 8 → Tbl.look (Tbl.lookD t.sec.gather [] q) (8 * k + j) = some (AnswerLine o j st s { data := (ds[j]?).getD 0, poison := ps.getLsbD j }))
      ∧ ∀ e k, e < 64 → o.why = .engine e k → ∃ t, exec (.datau g tag st ds ps) s = .next t ∧ t = { Answered g tag s with press := { s.press with sherds := t.press.sherds } }
        ∧ ∀ j, j < 8 → Tbl.look (Tbl.lookD t.press.sherds [] e) (8 * k + j) = some (AnswerLine o j st s { data := (ds[j]?).getD 0, poison := ps.getLsbD j }))
  ∧ (∀ (g : GPort) (tag : BitVec 10) (st : BitVec 4) (s : State), s.portUp g = true → (s.gp g).outst.find? (fun (o : Outst) => o.tag == tag.toNat && o.write) = none → ∃ t, exec (.cmp g tag st) s = .next t ∧ PortIsLost g s t)
  ∧ (∀ (g : GPort) (tag : BitVec 10) (o : Outst) (s : State), s.portUp g = true → (s.gp g).outst.find? (fun (o : Outst) => o.tag == tag.toNat && o.write) = some o → ∃ t, exec (.cmp g tag 0) s = .next t
      ∧ t = { Answered g tag s with borrow := t.borrow } ∧ (o.part = true → t.borrow = s.borrow)
      ∧ (o.part = false → ∀ x, Tbl.look s.borrow o.lease = some x → Tbl.look t.borrow o.lease = some { x with bad := x.bad.filter (fun n => !((List.range o.span).map (fun j => o.line + j)).contains n) }))
  ∧ (∀ (g : GPort) (tag : BitVec 10) (st : BitVec 4) (o : Outst) (s : State), s.portUp g = true → st ≠ 0 → (s.gp g).outst.find? (fun (o : Outst) => o.tag == tag.toNat && o.write) = some o → ∃ t, exec (.cmp g tag st) s = .next t
      ∧ t = { Answered g tag s with borrow := t.borrow, place := { s.place with slots := t.place.slots } }
      ∧ ((∃ x, Tbl.look s.borrow o.lease = some x) → ∀ j, j < o.span → t.peerBad o.lease (o.line + j) = true)
      ∧ (∀ l n, l ≠ o.lease → t.peerBad l n = s.peerBad l n)
      ∧ (∀ e ∈ s.place.slots, ∀ u n, e.2.dst = some (.spilled o.lease u n) → u ≤ o.line / 8 → o.line / 8 < u + spillGroups n → (e.1, { e.2 with abort := true }) ∈ t.place.slots)
      ∧ ∀ e ∈ s.place.slots, (∀ u n, e.2.dst = some (.spilled o.lease u n) → ¬ (u ≤ o.line / 8 ∧ o.line / 8 < u + spillGroups n)) → e ∈ t.place.slots)
  ∧ ∀ (g : GPort) (n : Nat) (s : State), ((s.gp g).waitReq = [] ∨ 1024 ≤ ((s.gp g).outst.filter (fun (x : Outst) => x.tag != n)).length → s.answered g n = s.updGp g (fun p => { p with outst := p.outst.filter (fun (x : Outst) => x.tag != n) }))
      ∧ ∀ x r, (s.gp g).waitReq = x :: r → ((s.gp g).outst.filter (fun (x : Outst) => x.tag != n)).length < 1024 → ∃ k, ((s.answered g n).gp g).waitReq = r ∧ ((s.answered g n).gp g).reqQ = (s.gp g).reqQ ++ [tagMsg x.msg (BitVec.ofNat 10 k)]
        ∧ ((s.answered g n).gp g).outst = (s.gp g).outst.filter (fun (x : Outst) => x.tag != n) ++ [{ x.out with tag := k }]

/-- Graft's memory messages: a lender serves them within its leases, and a borrower takes their answers (R28, R269, R330 to R333). -/
def Obligations.GraftMemoryMessages : Prop :=
  LenderServesTheLease ∧ BorrowerTakesAnswers

/-! ### Oxentelo: discovery and leases -/

/-- The exchange that is open at a port under a tag. -/
abbrev Sys2Proof.Machine.OpenAt (g : GPort) (tag : BitVec 10) (s : State) : Option OxnOpen := (s.gp g).oxn.find? (fun (o : OxnOpen) => o.tag == tag.toNat)

/-- The exchanges of a port without those under a tag. -/
abbrev Sys2Proof.Machine.Closed (g : GPort) (tag : BitVec 10) (s : State) : List OxnOpen := (s.gp g).oxn.filter (fun (o : OxnOpen) => o.tag != tag.toNat)

/-- An exchange has been opened at a port after those given (R335): it is listed under a tag and its message joins the requests. -/
abbrev Sys2Proof.Machine.Opened (g : Nat) (before : List OxnOpen) (m : Oxn) (s t : State) : Prop :=
  ∃ tag : Nat, (t.gp g).oxn = before ++ [{ tag := tag, body := m }] ∧ (t.gp g).reqQ = (s.gp g).reqQ ++ [.oxn (BitVec.ofNat 10 tag) false m]

/-- Only the Graft ports have changed. -/
abbrev Sys2Proof.Machine.OnlyGraft (s t : State) : Prop := t = { s with graft := t.graft }

/-- A lease entry of the borrower is FREE (Table 14.7). -/
abbrev Sys2Proof.Machine.LeaseFree (l : Nat) (t : State) : Prop := Tbl.look t.borrow l = none ∧ t.rd (Reg.GFT_BORROW_VALID l) = 0 ∧ t.rd (Reg.GFT_BORROW_STATE l) = 0 ∧ t.qos.gDirty = true

/-- A message waits at its port for the hand-over of duty 7, and nothing else has happened (R34). -/
abbrev Sys2Proof.Machine.OxnWaits (g : GPort) (tag : BitVec 10) (b : Bool) (m : Oxn) (s : State) : State := s.updGp g (fun p => { p with oxnHeld := p.oxnHeld ++ [(tag, b, m)] })

/-- Exchanges at a port that is not UP do nothing; an answer under a tag that is not outstanding is a protocol error (R332, R335). While the pair of duty 7 is down a message waits at its port, a timeout and a renewal do nothing (R34). -/
def Sys2Proof.Machine.OxenteloNeedsPortAndTag : Prop :=
  (∀ (g : GPort) (tag : BitVec 10) (b : Bool) (d : BitVec 32) (dev : BitVec 14) (n part : BitVec 16) (sn : BitVec 64) (x y z : Nat) (l : Fin 64) (s : State), s.portUp g = false →
      exec (.hello g tag b d dev n) s = .next s ∧ exec (.identity g tag b part sn d) s = .next s ∧ exec (.capability g tag b x y) s = .next s ∧ exec (.capabilityResend g) s = .next s
      ∧ exec (.leaseRequestTrigger g) s = .next s ∧ exec (.leaseRequest g tag l x y) s = .next s ∧ exec (.leaseGrant g tag l x y z) s = .next s ∧ exec (.leaseDeny g tag l x) s = .next s
      ∧ exec (.leaseRenew g tag l) s = .next s ∧ exec (.leaseRenewed g tag l x) s = .next s ∧ exec (.leaseRecall g tag l x) s = .next s ∧ exec (.recallAck g tag l) s = .next s
      ∧ exec (.leaseRelease g tag l) s = .next s ∧ exec (.leaseReleased g tag l) s = .next s)
  ∧ (∀ (g : GPort) (tag : BitVec 10) (b : Bool) (d : BitVec 32) (dev : BitVec 14) (n part : BitVec 16) (sn : BitVec 64) (x y z : Nat) (l : Fin 64) (s : State), s.portUp g = true → s.dutyUp 7 = false →
      exec (.hello g tag b d dev n) s = .next (OxnWaits g tag b (.hello d dev g n 1) s) ∧ exec (.identity g tag b part sn d) s = .next (OxnWaits g tag b (.identity part sn d) s)
      ∧ exec (.capability g tag b x y) s = .next (OxnWaits g tag b (.capability x y 1024) s) ∧ exec (.leaseRequest g tag l x y) s = .next (OxnWaits g tag false (.leaseRequest l x y) s)
      ∧ exec (.leaseGrant g tag l x y z) s = .next (OxnWaits g tag true (.leaseGrant l x y z) s) ∧ exec (.leaseDeny g tag l x) s = .next (OxnWaits g tag true (.leaseDeny l x) s)
      ∧ exec (.leaseRenew g tag l) s = .next (OxnWaits g tag false (.leaseRenew l) s) ∧ exec (.leaseRenewed g tag l x) s = .next (OxnWaits g tag true (.leaseRenewed l x) s)
      ∧ exec (.leaseRecall g tag l x) s = .next (OxnWaits g tag false (.leaseRecall l x) s) ∧ exec (.recallAck g tag l) s = .next (OxnWaits g tag true (.recallAck l) s)
      ∧ exec (.leaseRelease g tag l) s = .next (OxnWaits g tag false (.leaseRelease l) s) ∧ exec (.leaseReleased g tag l) s = .next (OxnWaits g tag true (.leaseReleased l) s)
      ∧ exec (.leaseRenewTimer l) s = .next s)
  ∧ ∀ (g : GPort) (tag : BitVec 10) (d : BitVec 32) (dev : BitVec 14) (n part : BitVec 16) (sn : BitVec 64) (x y z : Nat) (l : Fin 64) (s : State), s.portUp g = true → s.dutyUp 7 = true → OpenAt g tag s = none →
      (∃ t, exec (.hello g tag true d dev n) s = .next t ∧ PortIsLost g s t) ∧ (∃ t, exec (.identity g tag true part sn d) s = .next t ∧ PortIsLost g s t) ∧ (∃ t, exec (.capability g tag true x y) s = .next t ∧ PortIsLost g s t)
      ∧ (∃ t, exec (.leaseGrant g tag l x y z) s = .next t ∧ PortIsLost g s t) ∧ (∃ t, exec (.leaseDeny g tag l x) s = .next t ∧ PortIsLost g s t) ∧ (∃ t, exec (.leaseRenewed g tag l x) s = .next t ∧ PortIsLost g s t)
      ∧ (∃ t, exec (.recallAck g tag l) s = .next t ∧ PortIsLost g s t) ∧ ∃ t, exec (.leaseReleased g tag l) s = .next t ∧ PortIsLost g s t

/-- Discovery (R330, R335, R336, R339). HELLO, IDENTITY and CAPABILITY are answered in kind, and an answer opens the next exchange, until both CAPABILITY answers have arrived. A HELLO of a new session, on either port, reclaims the leases granted to the partner.
CAPABILITY is sent again when the lendable capacity has changed, at most every 100 ms. An unanswered exchange is sent once more and then fails. With 16 open
an exchange waits, and the oldest that waits is opened when one ends. -/
def Sys2Proof.Machine.DiscoveryTakesEffect : Prop :=
  (∀ (g : GPort) (tag : BitVec 10) (d : BitVec 32) (dev : BitVec 14) (n : BitVec 16) (s : State), s.portUp g = true → s.dutyUp 7 = true → ∃ t, exec (.hello g tag false d dev n) s = .next t ∧ Tbl.look t.mgmt.sessions (s.rd (Reg.GFT_PORT_STATUS_PEER_ID g)) = some n.toNat
      ∧ (t.gp g).rspQ.getLast? = some (.oxn tag true (t.helloBody g))
      ∧ ((∀ old, Tbl.look s.mgmt.sessions (s.rd (Reg.GFT_PORT_STATUS_PEER_ID g)) = some old → old = n.toNat) → t = { s with graft := t.graft, mgmt := { s.mgmt with sessions := t.mgmt.sessions } })
      ∧ ∀ old, Tbl.look s.mgmt.sessions (s.rd (Reg.GFT_PORT_STATUS_PEER_ID g)) = some old → old ≠ n.toNat → ∀ (k : Nat) (x : LentX), Tbl.look s.lent k = some x → s.rd (Reg.GFT_LENT_PEER_ID k) = s.rd (Reg.GFT_PORT_STATUS_PEER_ID g) → Tbl.look t.lent k = none)
  ∧ (∀ (g : GPort) (tag : BitVec 10) (part : BitVec 16) (sn : BitVec 64) (fw : BitVec 32) (s : State), s.portUp g = true → s.dutyUp 7 = true → ∃ t, exec (.identity g tag false part sn fw) s = .next t ∧ OnlyGraft s t
      ∧ t.gp g = { s.gp g with rspQ := (s.gp g).rspQ ++ [.oxn tag true s.idBody] })
  ∧ (∀ (g : GPort) (tag : BitVec 10) (x y : Nat) (s : State), s.portUp g = true → s.dutyUp 7 = true → ∃ t, exec (.capability g tag false x y) s = .next t ∧ OnlyGraft s t
      ∧ t.gp g = { s.gp g with peerGib := x, capIn := true, rspQ := (s.gp g).rspQ ++ [.oxn tag true s.capBody] })
  ∧ (∀ (g : GPort) (tag : BitVec 10) (d e : BitVec 32) (dev f : BitVec 14) (n m : BitVec 16) (v : BitVec 8) (p : Nat) (o : OxnOpen) (s : State), s.portUp g = true → s.dutyUp 7 = true → OpenAt g tag s = some o → o.body = .hello e f p m v → (Closed g tag s).length < 16 → (s.gp g).oxnToOpen = [] →
      (∀ old, Tbl.look s.mgmt.sessions (s.rd (Reg.GFT_PORT_STATUS_PEER_ID g)) = some old → old = n.toNat) → ∃ t, exec (.hello g tag true d dev n) s = .next t ∧ t.flag (Reg.GFT_PORT_STATUS_PEER_VALID g) = true
      ∧ Tbl.look t.mgmt.sessions (s.rd (Reg.GFT_PORT_STATUS_PEER_ID g)) = some n.toNat ∧ Opened g (Closed g tag s) s.idBody s t
      ∧ t = { s with graft := t.graft, regs := t.regs, mgmt := { s.mgmt with sessions := t.mgmt.sessions } })
  ∧ (∀ (g : GPort) (tag : BitVec 10) (part a : BitVec 16) (sn b : BitVec 64) (fw c : BitVec 32) (o : OxnOpen) (s : State), s.portUp g = true → s.dutyUp 7 = true → OpenAt g tag s = some o → o.body = .identity a b c → (Closed g tag s).length < 16 → (s.gp g).oxnToOpen = [] →
      ∃ t, exec (.identity g tag true part sn fw) s = .next t ∧ OnlyGraft s t ∧ (t.gp g).capSent = s.lendable ∧ (t.gp g).capAt = s.tick ∧ Opened g (Closed g tag s) s.capBody s t)
  ∧ (∀ (g : GPort) (tag : BitVec 10) (x y a b c : Nat) (o : OxnOpen) (s : State), s.portUp g = true → s.dutyUp 7 = true → OpenAt g tag s = some o → o.body = .capability a b c → (s.gp g).oxnToOpen = [] → ∃ t, exec (.capability g tag true x y) s = .next t ∧ OnlyGraft s t
      ∧ t.gp g = { s.gp g with oxn := Closed g tag s, peerGib := x, capAns := true })
  ∧ (∀ (g : GPort) (s : State), s.dutyUp 7 = false ∨ (s.gp g).capAns = false ∨ (s.gp g).capSent = s.lendable ∨ 10 * s.tick < 10 * (s.gp g).capAt + s.second → exec (.capabilityResend g) s = .next s)
  ∧ (∀ (g : GPort) (s : State), s.portUp g = true → s.dutyUp 7 = true → (s.gp g).capAns = true → (s.gp g).capSent ≠ s.lendable → 10 * (s.gp g).capAt + s.second ≤ 10 * s.tick → ∃ t, exec (.capabilityResend g) s = .next t
      ∧ (t.gp g).capSent = s.lendable ∧ (t.gp g).capAt = s.tick ∧ ((s.gp g).oxn.length < 16 → Opened g (s.gp g).oxn s.capBody s t) ∧ t = { s with graft := t.graft, regs := t.regs })
  ∧ (∀ (g : GPort) (tag : BitVec 10) (s : State), s.dutyUp 7 = false ∨ OpenAt g tag s = none → exec (.oxenteloTimeout g tag) s = .next s)
  ∧ (∀ (g : GPort) (tag : BitVec 10) (o : OxnOpen) (s : State), s.dutyUp 7 = true → OpenAt g tag s = some o → o.tries = 1 → ∃ t, exec (.oxenteloTimeout g tag) s = .next t ∧ OnlyGraft s t ∧ (t.gp g).reqQ = (s.gp g).reqQ ++ [.oxn tag false o.body]
      ∧ OpenAt g tag t = some { o with tries := 2 } ∧ (t.gp g).oxn.length = (s.gp g).oxn.length)
  ∧ (∀ (g : GPort) (m : Oxn) (s : State), 16 ≤ (s.gp g).oxn.length → s.openOxn g m = s.updGp g (fun p => { p with oxnToOpen := p.oxnToOpen ++ [m] }))
  ∧ (∀ (g : GPort) (m : Oxn) (r : List Oxn) (s : State), s.dutyUp 7 = true → (s.gp g).oxn.length < 16 → (s.gp g).oxnToOpen = m :: r → Opened g (s.gp g).oxn m s (s.oxnNext g) ∧ ((s.oxnNext g).gp g).oxnToOpen = r ∧ OnlyGraft s (s.oxnNext g))
  ∧ ∀ (g : GPort) (tag : BitVec 10) (o : OxnOpen) (s : State), s.dutyUp 7 = true → OpenAt g tag s = some o → o.tries ≠ 1 → ∃ t, exec (.oxenteloTimeout g tag) s = .next t
      ∧ (∀ (l : Fin 64) (x y : Nat), o.body = .leaseRequest l x y → s.rd (Reg.GFT_BORROW_STATE l) = 0 → (Tbl.look s.borrow l).isSome = true → LeaseFree l t)
      ∧ (∀ l : Fin 64, o.body = .leaseRelease l → s.rd (Reg.GFT_BORROW_STATE l) = 3 → LeaseFree l t)
      ∧ ((∀ (l : Fin 64) (x y : Nat), o.body ≠ .leaseRequest l x y) → (∀ l : Fin 64, o.body ≠ .leaseRelease l) → (s.gp g).oxnToOpen = [] → OnlyGraft s t ∧ t.gp g = { s.gp g with oxn := Closed g tag s })

/-- The lender's side of leases (R284, R337 to R339; Table 14.8). A request is denied with the reason, or granted: the range is taken in the lend region, the entry shows the lease, and the grant is answered. A renewal restarts the term; a release and
a reclaim end the lease; for a lease that is not known both are answered all the same. An acknowledged recall closes its exchange. -/
def Sys2Proof.Machine.LendingTakesEffect : Prop :=
  (∀ (g : GPort) (tag : BitVec 10) (l : Fin 64) (x y r : Nat) (s : State), s.portUp g = true → s.dutyUp 7 = true →
      (if s.flag Reg.GFT_CFG_LENDING_EN = false then r = 3
        else if x = 0 ∨ 256 < x ∨ s.lendable < x ∨ 64 ≤ s.lent.length then r = 1
        else r = 2 ∧ s.lendBase (4 * x) ≠ none ∧ firstBelow 64 (fun k => (Tbl.look s.lent k).isNone) ≠ none
          ∧ ∀ w, s.grantBw (min y (51200 * s.fullPorts (s.rd (Reg.GFT_PORT_STATUS_PEER_ID g)))) = some w → w < 1000) →
      ∃ t, exec (.leaseRequest g tag l x y) s = .next t ∧ OnlyGraft s t ∧ t.gp g = { s.gp g with rspQ := (s.gp g).rspQ ++ [.oxn tag true (.leaseDeny l r)] })
  ∧ (∀ (g : GPort) (tag : BitVec 10) (l : Fin 64) (x y b k w : Nat) (s : State), s.portUp g = true → s.dutyUp 7 = true → s.flag Reg.GFT_CFG_LENDING_EN = true → x ≠ 0 → x ≤ 256 → x ≤ s.lendable → s.lent.length < 64 → s.lendBase (4 * x) = some b → b < 2 ^ 17 →
      firstBelow 64 (fun k => (Tbl.look s.lent k).isNone) = some k → s.grantBw (min y (51200 * s.fullPorts (s.rd (Reg.GFT_PORT_STATUS_PEER_ID g)))) = some w → 1000 ≤ w → ∃ t, exec (.leaseRequest g tag l x y) s = .next t
      ∧ t.rd (Reg.GFT_LENT_VALID k) = 1 ∧ t.rd (Reg.GFT_LENT_RECALLING k) = 0 ∧ t.rd (Reg.GFT_LENT_PEER_ID k) = s.rd (Reg.GFT_PORT_STATUS_PEER_ID g) ∧ t.rd (Reg.GFT_LENT_PEER_LEASE k) = l.val
      ∧ t.rd (Reg.GFT_LENT_BASE k) = b ∧ t.rd (Reg.GFT_LENT_SIZE_GIB k) = x
      ∧ (∃ e, Tbl.look t.lent k = some e ∧ e.port = g.val ∧ e.term = s.rd Reg.GFT_LEASE_CFG_TERM_S ∧ e.bw = w ∧ e.since = s.tick ∧ ∀ o ∈ s.lent, o.2.order < e.order)
      ∧ (t.gp g).rspQ = (s.gp g).rspQ ++ [.oxn tag true (.leaseGrant l x w (s.rd Reg.GFT_LEASE_CFG_TERM_S))] ∧ t.media = s.media ∧ t.place = s.place)
  ∧ (∀ (g : GPort) (tag : BitVec 10) (l : Fin 64) (s : State), s.portUp g = true → s.dutyUp 7 = true → s.lentOf g l = none →
      (∃ t z, exec (.leaseRenew g tag l) s = .next t ∧ t.gp g = { s.gp g with rspQ := (s.gp g).rspQ ++ [.oxn tag true (.leaseRenewed l z)] } ∧ t = { s with graft := t.graft, free := s.free + 1 })
      ∧ ∃ t, exec (.leaseRelease g tag l) s = .next t ∧ OnlyGraft s t ∧ t.gp g = { s.gp g with rspQ := (s.gp g).rspQ ++ [.oxn tag true (.leaseReleased l)] })
  ∧ (∀ (g : GPort) (tag : BitVec 10) (l : Fin 64) (k : Nat) (x : LentX) (s : State), s.portUp g = true → s.dutyUp 7 = true → s.lentOf g l = some k → Tbl.look s.lent k = some x → ∃ t, exec (.leaseRenew g tag l) s = .next t
      ∧ Tbl.look t.lent k = some { x with since := s.tick } ∧ (t.gp g).rspQ = (s.gp g).rspQ ++ [.oxn tag true (.leaseRenewed l x.term)] ∧ t = { s with graft := t.graft, lent := t.lent })
  ∧ (∀ (g : GPort) (tag : BitVec 10) (l : Fin 64) (k : Nat) (s : State), s.portUp g = true → s.dutyUp 7 = true → s.lentOf g l = some k → ∃ t, exec (.leaseRelease g tag l) s = .next t ∧ Tbl.look t.lent k = none
      ∧ (t.gp g).rspQ.getLast? = some (.oxn tag true (.leaseReleased l)))
  ∧ (∀ (g : GPort) (tag : BitVec 10) (l m : Fin 64) (p : Nat) (o : OxnOpen) (s : State), s.portUp g = true → s.dutyUp 7 = true → OpenAt g tag s = some o → o.body = .leaseRecall m p → (s.gp g).oxnToOpen = [] →
      if m = l then ∃ t, exec (.recallAck g tag l) s = .next t ∧ OnlyGraft s t ∧ t.gp g = { s.gp g with oxn := Closed g tag s } else exec (.recallAck g tag l) s = .next s)
  ∧ (∀ (k : Fin 64) (s : State), Tbl.look s.lent k = none → exec (.leaseReclaim k) s = .next s)
  ∧ (∀ (k : Fin 64) (x : LentX) (s : State), Tbl.look s.lent k = some x → 4 * s.tick < 4 * x.since + 5 * (s.second * x.term) →
      s.flag (Reg.GFT_LENT_RECALLING k) = false ∨ 4 * s.tick < 4 * x.recallAt + 4 * s.second * x.period + s.second * x.term → exec (.leaseReclaim k) s = .next s)
  ∧ ∀ (k : Fin 64) (x : LentX) (s : State), Tbl.look s.lent k = some x → 4 * x.since + 5 * (s.second * x.term) ≤ 4 * s.tick
      ∨ (s.flag (Reg.GFT_LENT_RECALLING k) = true ∧ 4 * x.recallAt + 4 * s.second * x.period + s.second * x.term ≤ 4 * s.tick) → ∃ t, exec (.leaseReclaim k) s = .next t ∧ Tbl.look t.lent k = none

/-- The borrower's side of leases (R150, R338, R339; Table 14.7). A lease is asked of a partner with lendable capacity at level LOW or worse; a grant records it, a denial frees the entry. It is renewed at half its term, given up with its pages at
the term's end, recalled with its acknowledgement, and released when no page has been on it for its term. -/
def Sys2Proof.Machine.BorrowingTakesEffect : Prop :=
  (∀ (g : GPort) (s : State), s.dutyUp 7 = false ∨ (s.gp g).capAns = false ∨ (s.gp g).capIn = false ∨ s.rd Reg.CUR_PRESSURE_LEVEL < 2 ∨ s.flag Reg.GFT_LEASE_CFG_BORROW_EN = false ∨ s.flag Reg.CUR_POLICY_SPILL_EN = false ∨ (s.gp g).peerGib = 0
      ∨ s.askedLately g = true ∨ firstBelow 64 (fun l => (Tbl.look s.borrow l).isNone) = none → exec (.leaseRequestTrigger g) s = .next s)
  ∧ (∀ (g : GPort) (l : Fin 64) (s : State), s.portUp g = true → s.dutyUp 7 = true → (s.gp g).capAns = true → (s.gp g).capIn = true → 2 ≤ s.rd Reg.CUR_PRESSURE_LEVEL → s.flag Reg.GFT_LEASE_CFG_BORROW_EN = true → s.flag Reg.CUR_POLICY_SPILL_EN = true →
      (s.gp g).peerGib ≠ 0 → s.askedLately g = false → firstBelow 64 (fun l => (Tbl.look s.borrow l).isNone) = some l.val → ∃ t, exec (.leaseRequestTrigger g) s = .next t ∧ Tbl.look t.borrow l = some { port := g }
      ∧ t.rd (Reg.GFT_BORROW_VALID l) = 1 ∧ t.rd (Reg.GFT_BORROW_STATE l) = 0 ∧ t.rd (Reg.GFT_BORROW_PEER_ID l) = s.rd (Reg.GFT_PORT_STATUS_PEER_ID g) ∧ (t.gp g).askAt = some s.tick
      ∧ ((s.gp g).oxn.length < 16 → Opened g (s.gp g).oxn (.leaseRequest l (min (s.rd Reg.GFT_LEASE_CFG_REQ_GIB) (s.gp g).peerGib) (51200 * s.fullPorts (s.rd (Reg.GFT_PORT_STATUS_PEER_ID g)))) s t)
      ∧ t = { s with graft := t.graft, borrow := t.borrow, regs := t.regs })
  ∧ (∀ (g : GPort) (tag : BitVec 10) (l : Fin 64) (a b x y z : Nat) (o : OxnOpen) (s : State), s.portUp g = true → s.dutyUp 7 = true → OpenAt g tag s = some o → o.body = .leaseRequest l a b → (Tbl.look s.borrow l).isSome = true → s.rd (Reg.GFT_BORROW_STATE l) = 0 →
      x < 512 → y < 2 ^ 17 → ∃ t, exec (.leaseGrant g tag l x y z) s = .next t ∧ t.rd (Reg.GFT_BORROW_STATE l) = 1 ∧ t.rd (Reg.GFT_BORROW_SIZE_GIB l) = x ∧ t.rd (Reg.GFT_BORROW_BW_GRANT l) = y
      ∧ Tbl.look t.borrow l = some { port := g, term := z, since := s.tick, emptyAt := s.tick } ∧ t.qos.gDirty = true ∧ t.media = s.media)
  ∧ (∀ (g : GPort) (tag : BitVec 10) (l : Fin 64) (a b r : Nat) (o : OxnOpen) (s : State), s.portUp g = true → s.dutyUp 7 = true → OpenAt g tag s = some o → o.body = .leaseRequest l a b → ∃ t, exec (.leaseDeny g tag l r) s = .next t ∧ LeaseFree l t)
  ∧ (∀ (g : GPort) (tag : BitVec 10) (l : Fin 64) (z : Nat) (x : BorrowX) (o : OxnOpen) (s : State), s.portUp g = true → s.dutyUp 7 = true → OpenAt g tag s = some o → o.body = .leaseRenew l → (s.gp g).oxnToOpen = [] → Tbl.look s.borrow l = some x → ∃ t, exec (.leaseRenewed g tag l z) s = .next t
      ∧ Tbl.look t.borrow l = some { x with term := z, since := s.tick } ∧ t.gp g = { s.gp g with oxn := Closed g tag s } ∧ t = { s with graft := t.graft, borrow := t.borrow })
  ∧ (∀ (g : GPort) (tag : BitVec 10) (l : Fin 64) (p : Nat) (s : State), s.portUp g = true → s.dutyUp 7 = true → Tbl.look s.borrow l = none → ∃ t, exec (.leaseRecall g tag l p) s = .next t ∧ OnlyGraft s t
      ∧ t.gp g = { s.gp g with rspQ := (s.gp g).rspQ ++ [.oxn tag true (.recallAck l)] })
  ∧ (∀ (g : GPort) (tag : BitVec 10) (l : Fin 64) (p : Nat) (x : BorrowX) (s : State), s.portUp g = true → s.dutyUp 7 = true → Tbl.look s.borrow l = some x → ∃ t, exec (.leaseRecall g tag l p) s = .next t ∧ .oxn tag true (.recallAck l) ∈ (t.gp g).rspQ ∧ t.media = s.media
      ∧ if s.rd (Reg.GFT_BORROW_STATE l) = 1 then t.rd (Reg.GFT_BORROW_STATE l) = (if s.rd (Reg.GFT_BORROW_USED_UNITS l) = 0 then 3 else 2) ∧ Tbl.look t.borrow l = some { x with recallAt := s.tick, period := p } ∧ t.qos.gDirty = true
        else OnlyGraft s t)
  ∧ (∀ (g : GPort) (tag : BitVec 10) (l : Fin 64) (o : OxnOpen) (s : State), s.portUp g = true → s.dutyUp 7 = true → OpenAt g tag s = some o → o.body = .leaseRelease l → (s.gp g).oxnToOpen = [] → ∃ t, exec (.leaseReleased g tag l) s = .next t
      ∧ if s.rd (Reg.GFT_BORROW_STATE l) = 3 then LeaseFree l t else OnlyGraft s t ∧ t.gp g = { s.gp g with oxn := Closed g tag s })
  ∧ (∀ (l : Fin 64) (s : State), Tbl.look s.borrow l = none ∨ s.leaseHeld l = false → exec (.leaseRenewTimer l) s = .next s ∧ exec (.leaseTermExpiry l) s = .next s ∧ exec (.leaseIdleRelease l) s = .next s)
  ∧ (∀ (l : Fin 64) (x : BorrowX) (g : Nat) (s : State), Tbl.look s.borrow l = some x → s.leaseHeld l = true → s.dutyUp 7 = true → g = s.peerPort (s.rd (Reg.GFT_BORROW_PEER_ID l)) x.port → (s.gp g).oxn.length < 16 →
      if 2 * x.since + s.second * x.term ≤ 2 * s.tick then ∃ t, exec (.leaseRenewTimer l) s = .next t ∧ OnlyGraft s t ∧ Opened g (s.gp g).oxn (.leaseRenew l) s t else exec (.leaseRenewTimer l) s = .next s)
  ∧ (∀ (l : Fin 64) (x : BorrowX) (s : State), Tbl.look s.borrow l = some x → s.tick < x.since + s.second * x.term →
      s.rd (Reg.GFT_BORROW_STATE l) ≠ 2 ∨ s.rd (Reg.GFT_BORROW_USED_UNITS l) = 0 ∨ s.tick < x.recallAt + s.second * x.period → exec (.leaseTermExpiry l) s = .next s)
  ∧ (∀ (l : Fin 64) (x : BorrowX) (s : State), Tbl.look s.borrow l = some x → s.leaseHeld l = true → x.since + s.second * x.term ≤ s.tick
      ∨ (s.rd (Reg.GFT_BORROW_STATE l) = 2 ∧ s.rd (Reg.GFT_BORROW_USED_UNITS l) ≠ 0 ∧ x.recallAt + s.second * x.period ≤ s.tick) → ∃ t, exec (.leaseTermExpiry l) s = .next t ∧ LeaseFree l t
      ∧ (s.place.slots = [] → ∀ p u n, (s.acc p).form = .spilled l.val u n → (t.acc p).form = .unwritten true))
  ∧ (∀ (l : Fin 64) (s : State), s.dutyUp 7 = false ∨ s.rd (Reg.GFT_BORROW_STATE l) ≠ 1 ∨ s.rd (Reg.GFT_BORROW_USED_UNITS l) ≠ 0 ∨ s.rd Reg.CUR_PRESSURE_LEVEL ≠ 0
      ∨ (∀ x, Tbl.look s.borrow l = some x → s.tick < x.emptyAt + s.second * x.term) → exec (.leaseIdleRelease l) s = .next s)
  ∧ ∀ (l : Fin 64) (x : BorrowX) (s : State), Tbl.look s.borrow l = some x → s.dutyUp 7 = true → s.rd (Reg.GFT_BORROW_STATE l) = 1 → s.rd (Reg.GFT_BORROW_USED_UNITS l) = 0 → s.rd Reg.CUR_PRESSURE_LEVEL = 0 → x.emptyAt + s.second * x.term ≤ s.tick → ∃ t, exec (.leaseIdleRelease l) s = .next t
      ∧ t.rd (Reg.GFT_BORROW_STATE l) = 3 ∧ t.qos.gDirty = true ∧ t.media = s.media

/-- Oxentelo discovery, with the tags and timeouts of its exchanges (R330, R332, R335, R336, R339). -/
def Obligations.OxenteloDiscovery : Prop :=
  OxenteloNeedsPortAndTag ∧ DiscoveryTakesEffect

/-- Leases between Kelorns, on the lender's and on the borrower's side (R150, R284, R337 to R339; Tables 14.7 and 14.8). -/
def Obligations.LeasesBetweenKelorns : Prop :=
  LendingTakesEffect ∧ BorrowingTakesEffect

/-! ### Background ends, snapshots and ALERT_N -/

/-- A background command has ended with a code and an output (R345 to R347): it is no longer in progress; its completion has left the block, unless it was answered with INTERRUPTED before; and a successful one with a REQ_ID is recorded as its reply. -/
abbrev Sys2Proof.Machine.BgEnded (b : Bg) (rc : Nat) (body : List Byte) (s t : State) : Prop :=
  t.mgmt.bg = s.mgmt.bg.filter (fun (x : Bg) => x != b) ∧ (if b.silent then t.out = s.out else .bgDone b.src b.opcode b.reqId rc body ∈ t.out)
    ∧ (if rc = 0 ∧ b.reqId ≠ 0 then t.mgmt.replays.getLast? = some { src := b.src, opcode := b.opcode, reqId := b.reqId, rc := 0, detail := 0, value := 0, body := body } else t.mgmt.replays = s.mgmt.replays)

/-- The ends of background commands (R345 to R347, R350, R355, R256). A command ends only while the interpreter runs: DISABLE once no LD it names is draining or stopping; a sanitise once no page is left whose turn is to come;
a scrub once its pass is done, or stopped at the end of a page, with the summary; FW_COMMIT with the code of an image that fails, and else once the boot record that its verify begins is written. -/
def Sys2Proof.Machine.BackgroundEndsTakeEffect : Prop :=
  (∀ (a : Agent) (s : State), s.bgOf a = none ∨ s.interprets = false → exec (.backgroundComplete a) s = .next s)
  ∧ (∀ (a : Agent) (b : Bg) (lds : List Nat) (abrupt : Bool) (s : State), s.bgOf a = some b → s.interprets = true → b.why = .disable lds abrupt →
      if ∃ i ∈ lds, s.ldEnding i = true then exec (.backgroundComplete a) s = .next s
      else ∃ (t : State) (p : Byte), exec (.backgroundComplete a) s = .next t ∧ BgEnded b 0 [p] s t ∧ t.media = s.media ∧ (p = 1 ↔ ∃ i ∈ lds, ∃ d, s.ld? i = some d ∧ d.drainPoisoned = true))
  ∧ (∀ (a : Agent) (b : Bg) (rs : List (Nat × Nat)) (x : Sanit) (s : State), s.bgOf a = some b → s.interprets = true → b.why = .sanitize rs → s.clearOf rs = some x →
      if x.cur ≠ none ∨ s.clearNext x ≠ none then exec (.backgroundComplete a) s = .next s
      else ∃ t, exec (.backgroundComplete a) s = .next t ∧ t.mgmt.clears = s.mgmt.clears.filter (fun y => y.ranges != rs) ∧ t.media = s.media ∧ t.place = s.place ∧ BgEnded b 0 (if b.opcode = 0xC104 then leBytes 8 x.count else []) s t)
  ∧ (∀ (a : Agent) (b : Bg) (rs : List (Nat × Nat)) (s : State), s.bgOf a = some b → s.interprets = true → b.why = .sanitize rs → s.clearOf rs = none → ∃ t, exec (.backgroundComplete a) s = .next t ∧ BgEnded b 0 [] s t ∧ t.media = s.media)
  ∧ (∀ (a : Agent) (b : Bg) (n : Nat) (s : State), s.bgOf a = some b → s.interprets = true → b.why = .scrub n → s.pass? n = none → ∃ t, exec (.backgroundComplete a) s = .next t ∧ BgEnded b 0x8006 [] s t ∧ t.media = s.media)
  ∧ (∀ (a : Agent) (b : Bg) (n : Nat) (x : RangePass) (s : State), s.bgOf a = some b → s.interprets = true → b.why = .scrub n → s.pass? n = some x →
      if x.done = true ∨ (x.stop = true ∧ x.cur = none) then ∃ t, exec (.backgroundComplete a) s = .next t ∧ BgEnded b 0 (s.passSummary x) s t ∧ t.pass? n = none ∧ t.media = s.media else exec (.backgroundComplete a) s = .next s)
  ∧ (∀ (a : Agent) (b : Bg) (s : State), s.bgOf a = some b → s.interprets = true → b.why = .fwCommit → ∃ t, exec (.backgroundComplete a) s = .next t ∧ t.media = s.media ∧ t.mgmt.flash = s.mgmt.flash
      ∧ match (s.checkImage s.idleSlot s.minSvn).1 with
        | 0 => t = { s with mgmt := { s.mgmt with bg := t.mgmt.bg } } ∧ { b with why := .fwWrite s.nextRecord.1 s.idleSlot s.nextRecord.2 } ∈ t.mgmt.bg
        | 3 => BgEnded b 0x800B [] s t
        | _ => BgEnded b 0x800A [] s t)
  ∧ ∀ (a : Agent) (b : Bg) (k slot seq : Nat) (s : State), s.bgOf a = some b → s.interprets = true → b.why = .fwWrite k slot seq → ∃ t, exec (.backgroundComplete a) s = .next t ∧ t.media = s.media ∧ BgEnded b 0 [] s t
      ∧ t.mgmt.flash = (s.putBootRecord k slot seq false).mgmt.flash

/-- The turns of a sanitise (R350). Its pages return to UNWRITTEN one at a time in ascending order, each in its home slice's order among the requests of the Docent access port: not while a request, move or lock holds the page, nor before another source's turn. Once its turn has
come the page is UNWRITTEN as soon as no snoop of a sanitise is open on it, and counts unless it was so before. -/
def Sys2Proof.Machine.SanitiseTurnsTakeEffect : Prop :=
  (∀ (sl : SliceIx) (x : Sanit) (p : Nat) (s : State), s.isSafe = false → s.dir.walks = [] → s.mgmt.clears = [x] → x.cur = none → s.clearNext x = some p →
      homeSlice p ≠ sl.val ∨ s.pageBusy p = true ∨ s.turn sl 19 = false ∨ s.path.restart.contains sl.val = true → exec (.directoryWalkStep sl) s = .next s)
  ∧ (∀ (sl : SliceIx) (x : Sanit) (p : Nat) (s : State), s.isSafe = false → s.dir.walks = [] → s.mgmt.clears = [x] → x.cur = none → s.clearNext x = some p → homeSlice p = sl.val → s.pageBusy p = false → s.turn sl 19 = true →
      s.path.restart.contains sl.val = false → ∃ t, exec (.directoryWalkStep sl) s = .next t ∧ (s.clearSnoops p = false → (∀ e ∈ s.dir.ways, pageOf e.2.line ≠ p) → t.clearSnoops p = false)
      ∧ if t.clearSnoops p = true then t.mgmt.clears = [{ x with cur := some p }]
        else (t.acc p).form = .unwritten false ∧ t.mgmt.clears = [{ x with left := rangesAfter p x.left, count := x.count + (if (s.acc p).isUnwritten then 0 else 1) }])
  ∧ (∀ (sl : SliceIx) (x : Sanit) (p : Nat) (s : State), s.isSafe = false → s.dir.walks = [] → s.mgmt.clears = [x] → x.cur = some p → homeSlice p = sl.val → s.clearSnoops p = true → exec (.directoryWalkStep sl) s = .next s)
  ∧ ∀ (sl : SliceIx) (x : Sanit) (p : Nat) (s : State), s.isSafe = false → s.dir.walks = [] → s.mgmt.clears = [x] → x.cur = some p → homeSlice p = sl.val → s.clearSnoops p = false → ∃ t, exec (.directoryWalkStep sl) s = .next t
      ∧ (t.acc p).form = .unwritten false ∧ t.mgmt.clears = [{ x with left := rangesAfter p x.left, cur := none, count := x.count + (if (s.acc p).isUnwritten then 0 else 1) }]

/-- A walk into a buffer has captured every station's counters in one cycle (R372). -/
abbrev Sys2Proof.Machine.WalkStarted (b trig : Nat) (s t : State) : Prop :=
  t.cat.busy = some b ∧ t.cat.ring = (List.range 1936).map s.stationWord ∧ t.cat.waiting = s.cat.waiting.filter (fun (w : Nat × Nat) => w.1 != b)
    ∧ t.flag (Reg.CAT_GATHER_STATUS_BUSY b) = true ∧ t.flag (Reg.CAT_GATHER_STATUS_VALID b) = false ∧ t.flag (Reg.CAT_GATHER_STATUS_ABANDONED b) = false
    ∧ t.rd (Reg.CAT_GATHER_STATUS_TRIGGER b) = trig % 8 ∧ t.rd (Reg.CAT_GATHER_STATUS_TICK b) = s.tick % 2 ^ 48 ∧ t = { s with regs := t.regs, cat := t.cat, free := s.free + 1936 }

/-- Snapshot walks (R372, R373). A waiting walk into RECOVERY comes first and abandons a walk into LATEST, and its trigger during such a walk captures at once; any other waits for the walk in progress. At its end the buffer holds the captured words, is valid, and its sequence has advanced. -/
def Sys2Proof.Machine.SnapshotWalksTakeEffect : Prop :=
  (∀ s : State, s.cat.waiting = [] ∨ s.cat.busy = some 0 ∨ (s.cat.busy = some 1 ∧ ∀ w ∈ s.cat.waiting, w.1 ≠ 0) → exec .catalogueWalkStart s = .next s)
  ∧ (∀ (w : Nat × Nat) (s : State), s.cat.waiting.find? (fun (w : Nat × Nat) => w.1 == 0) = some w → s.cat.busy = none ∨ s.cat.busy = some 1 → ∃ t, exec .catalogueWalkStart s = .next t ∧ WalkStarted 0 w.2 s t
      ∧ (s.cat.busy = some 1 → t.flag (Reg.CAT_GATHER_STATUS_ABANDONED 1) = true ∧ t.flag (Reg.CAT_GATHER_STATUS_BUSY 1) = false))
  ∧ (∀ (trig : Nat) (r : List (Nat × Nat)) (s : State), s.cat.waiting = (1, trig) :: r → (∀ w ∈ r, w.1 ≠ 0) → s.cat.busy = none → ∃ t, exec .catalogueWalkStart s = .next t ∧ WalkStarted 1 trig s t)
  ∧ (∀ (trig : Nat) (s : State), s.cat.busy = some 1 → WalkStarted 0 trig s (s.trigger 0 trig) ∧ (s.trigger 0 trig).flag (Reg.CAT_GATHER_STATUS_ABANDONED 1) = true ∧ (s.trigger 0 trig).flag (Reg.CAT_GATHER_STATUS_BUSY 1) = false)
  ∧ (∀ s : State, s.cat.busy = none → exec .catalogueWalkDone s = .next s)
  ∧ ∀ (b : Nat) (s : State), b < 2 → s.cat.busy = some b → ∃ t, exec .catalogueWalkDone s = .next t ∧ t.cat.busy = none ∧ t.cat.ring = [] ∧ t.flag (Reg.CAT_GATHER_STATUS_BUSY b) = false
      ∧ t.flag (Reg.CAT_GATHER_STATUS_VALID b) = true ∧ t.rd (Reg.CAT_GATHER_STATUS_SEQ b) = (s.rd (Reg.CAT_GATHER_STATUS_SEQ b) + 1) % 256
      ∧ (∀ (i v : Nat), s.cat.ring[i]? = some v → t.word (bufBase b + 4 * i) = BitVec.ofNat 32 v) ∧ t = { s with regs := t.regs, cat := t.cat }

/-- ALERT_N and the event logs of LDs (R376, R377, R380, R381). ALERT_N follows the unmasked summary. A new entry of the device log is copied once, into the log of its severity of each LD that it concerns; a full log drops it and counts. -/
def Sys2Proof.Machine.AlertsAndRecordsTakeEffect : Prop :=
  (∀ s : State, s.alertN = s.alertLevel → exec .alertNUpdate s = .next s)
  ∧ (∀ s : State, s.alertN ≠ s.alertLevel → ∃ t, exec .alertNUpdate s = .next t ∧ t = { s with alertN := s.alertLevel, out := .alertN s.alertLevel :: s.out })
  ∧ (∀ (e : Fin 1024) (s : State), e.val ∉ s.mgmt.logNew ∨ s.isSafe = true ∨ s.boot.released = false ∨ s.dutyUp 0 = false → exec (.eventLdRecord e) s = .next s)
  ∧ ∀ (e : Fin 1024) (s : State), e.val ∈ s.mgmt.logNew → s.isSafe = false → s.boot.released = true → s.dutyUp 0 = true → (s.lds.map Prod.fst).Nodup → ∃ t, exec (.eventLdRecord e) s = .next t
      ∧ e.val ∉ t.mgmt.logNew ∧ t.regs = s.regs ∧ t.media = s.media ∧ ∀ (i : Nat) (d : Ld) (sev : Nat), s.ld? i = some d → sev = s.rd (Reg.ALR_LOG_SEV e) → ∃ d', t.ld? i = some d'
        ∧ if s.concerns (s.rd (Reg.ALR_LOG_CODE e)) (s.rd (Reg.ALR_LOG_ARG0 e)) (s.rd (Reg.ALR_LOG_ARG1 e)) i d = false then d' = d
          else if 64 ≤ (Tbl.lookD d.logs [] sev).length then d' = { d with logOvf := d'.logOvf } ∧ Tbl.lookD d'.logOvf 0 sev = Tbl.lookD d.logOvf 0 sev + 1
          else Tbl.lookD d'.logs [] sev = Tbl.lookD d.logs [] sev ++ [{ handle := d.nextHandle, time := s.ldTime d, body := .vendor (s.logImage e) }] ∧ d'.nextHandle = nextHandleOf d.nextHandle

/-- The ends of background commands, snapshot walks, ALERT_N and the event logs of LDs (R256, R345 to R347, R350, R355, R372, R373, R376, R377, R380, R381). -/
def Obligations.BackgroundSnapshotsAndAlerts : Prop :=
  BackgroundEndsTakeEffect ∧ SanitiseTurnsTakeEffect ∧ SnapshotWalksTakeEffect ∧ AlertsAndRecordsTakeEffect
end
end

