-- ==== Sys2Proof/Laws/Tbl.lean ====
section
/-! SUPPORT. Laws of sparse tables: reading after writing, and the canonical form, which every operation keeps. -/
namespace Sys2Proof

variable {α : Type}

@[simp] theorem Tbl.look_nil (k : Nat) : Tbl.look ([] : Tbl α) k = none := rfl
@[simp] theorem Tbl.lookD_nil (d : α) (k : Nat) : Tbl.lookD ([] : Tbl α) d k = d := rfl

/-- A key just listed reads as its value. -/
@[simp] theorem Tbl.look_put_same (t : Tbl α) (k : Nat) (v : α) : Tbl.look (Tbl.put t k v) k = some v := by
  induction t with
  | nil => simp [Tbl.put, Tbl.look]
  | cons p r ih =>
    obtain ⟨j, w⟩ := p
    simp only [Tbl.put]
    split
    · rename_i h; simp [Tbl.look, Nat.ne_of_lt h, ih]
    · split <;> simp [Tbl.look]

/-- Listing one key leaves the others as they read. -/
theorem Tbl.look_put_other (t : Tbl α) (k j : Nat) (v : α) (h : j ≠ k) : Tbl.look (Tbl.put t k v) j = Tbl.look t j := by
  induction t with
  | nil => simp [Tbl.put, Tbl.look, Ne.symm h]
  | cons p r ih =>
    obtain ⟨i, w⟩ := p
    simp only [Tbl.put]
    split
    · simp [Tbl.look, ih]
    · split
      · rename_i e; subst e; simp [Tbl.look, Ne.symm h]
      · simp [Tbl.look, Ne.symm h]

/-- A removed key is not listed. -/
@[simp] theorem Tbl.look_del_same (t : Tbl α) (k : Nat) : Tbl.look (Tbl.del t k) k = none := by
  induction t with
  | nil => rfl
  | cons p r ih =>
    obtain ⟨i, w⟩ := p
    simp only [Tbl.del]
    split
    · exact ih
    · rename_i h; simp [Tbl.look, h, ih]

/-- Removing one key leaves the others as they read. -/
theorem Tbl.look_del_other (t : Tbl α) (k j : Nat) (h : j ≠ k) : Tbl.look (Tbl.del t k) j = Tbl.look t j := by
  induction t with
  | nil => rfl
  | cons p r ih =>
    obtain ⟨i, w⟩ := p
    simp only [Tbl.del]
    split
    · rename_i e; subst e; simp [Tbl.look, Ne.symm h, ih]
    · simp [Tbl.look, ih]

variable [DecidableEq α]

/-- A key reads as the value it was given. -/
@[simp] theorem Tbl.lookD_putD_same (t : Tbl α) (d v : α) (k : Nat) : Tbl.lookD (Tbl.putD t d k v) d k = v := by
  unfold Tbl.lookD Tbl.putD
  split
  · rename_i h; simp [h]
  · simp

/-- Giving one key a value leaves the others as they read, whatever their defaults. -/
theorem Tbl.lookD_putD_other (t : Tbl α) (d e v : α) (k j : Nat) (h : j ≠ k) : Tbl.lookD (Tbl.putD t d k v) e j = Tbl.lookD t e j := by
  unfold Tbl.lookD Tbl.putD
  split
  · rw [Tbl.look_del_other _ _ _ h]
  · rw [Tbl.look_put_other _ _ _ _ h]

omit [DecidableEq α] in
/-- What a table lists after one key is listed was there before, or is the new entry. -/
theorem Tbl.mem_put (t : Tbl α) (k : Nat) (v : α) (p : Nat × α) (h : p ∈ Tbl.put t k v) : p = (k, v) ∨ p ∈ t := by
  induction t with
  | nil => simpa [Tbl.put] using h
  | cons q r ih =>
    obtain ⟨i, w⟩ := q
    simp only [Tbl.put] at h
    split at h
    · rcases List.mem_cons.1 h with h | h
      · exact .inr (by simp [h])
      · rcases ih h with h | h
        · exact .inl h
        · exact .inr (List.mem_cons_of_mem _ h)
    · split at h
      · rcases List.mem_cons.1 h with h | h
        · exact .inl h
        · exact .inr (List.mem_cons_of_mem _ h)
      · rcases List.mem_cons.1 h with h | h
        · exact .inl h
        · exact .inr h

omit [DecidableEq α] in
theorem Tbl.mem_del (t : Tbl α) (k : Nat) (p : Nat × α) (h : p ∈ Tbl.del t k) : p ∈ t := by
  induction t with
  | nil => exact h
  | cons q r ih =>
    obtain ⟨i, w⟩ := q
    simp only [Tbl.del] at h
    split at h
    · exact List.mem_cons_of_mem _ (ih h)
    · rcases List.mem_cons.1 h with h | h
      · simp [h]
      · exact List.mem_cons_of_mem _ (ih h)

omit [DecidableEq α] in
/-- Listing a key keeps the keys in order. -/
theorem Tbl.sorted_put (t : Tbl α) (k : Nat) (v : α) (h : Tbl.Sorted t) : Tbl.Sorted (Tbl.put t k v) := by
  induction t with
  | nil => simp [Tbl.Sorted, Tbl.put]
  | cons q r ih =>
    obtain ⟨i, w⟩ := q
    simp only [Tbl.Sorted, List.map_cons, List.pairwise_cons] at h
    simp only [Tbl.put]
    split
    · rename_i hik
      simp only [Tbl.Sorted, List.map_cons, List.pairwise_cons]
      refine ⟨?_, ih h.2⟩
      intro a ha
      obtain ⟨p, hp, rfl⟩ := List.mem_map.1 ha
      rcases Tbl.mem_put _ _ _ _ hp with e | e
      · simpa [e] using hik
      · exact h.1 _ (List.mem_map_of_mem e)
    · split
      · rename_i e; subst e; simpa [Tbl.Sorted] using h
      · rename_i h1 h2
        have hk : k < i := by omega
        simp only [Tbl.Sorted, List.map_cons, List.pairwise_cons]
        refine ⟨?_, h.1, h.2⟩
        intro a ha
        rcases List.mem_cons.1 ha with e | e
        · omega
        · exact Nat.lt_trans hk (h.1 a e)

omit [DecidableEq α] in
/-- Removing a key keeps the keys in order. -/
theorem Tbl.sorted_del (t : Tbl α) (k : Nat) (h : Tbl.Sorted t) : Tbl.Sorted (Tbl.del t k) := by
  induction t with
  | nil => exact h
  | cons q r ih =>
    obtain ⟨i, w⟩ := q
    simp only [Tbl.Sorted, List.map_cons, List.pairwise_cons] at h
    simp only [Tbl.del]
    split
    · exact ih h.2
    · simp only [Tbl.Sorted, List.map_cons, List.pairwise_cons]
      refine ⟨?_, ih h.2⟩
      intro a ha
      obtain ⟨p, hp, rfl⟩ := List.mem_map.1 ha
      exact h.1 _ (List.mem_map_of_mem (Tbl.mem_del _ _ _ hp))

/-- Giving a key a value keeps the canonical form. -/
theorem Tbl.wfOn_putD (d : Nat → α) (t : Tbl α) (k : Nat) (v : α) (h : Tbl.WfOn d t) : Tbl.WfOn d (Tbl.putD t (d k) k v) := by
  unfold Tbl.putD
  split
  · exact ⟨Tbl.sorted_del _ _ h.1, fun p hp => h.2 p (Tbl.mem_del _ _ _ hp)⟩
  · rename_i hv
    refine ⟨Tbl.sorted_put _ _ _ h.1, fun p hp => ?_⟩
    rcases Tbl.mem_put _ _ _ _ hp with e | e
    · simpa [e] using hv
    · exact h.2 p e

/-- Giving a key a value keeps the canonical form for one default. -/
theorem Tbl.wf_putD (d : α) (t : Tbl α) (k : Nat) (v : α) (h : Tbl.Wf d t) : Tbl.Wf d (Tbl.putD t d k v) :=
  Tbl.wfOn_putD (fun _ => d) t k v h

/-- Two tables in canonical form that read alike are equal. -/
theorem Tbl.ext_wfOn (d : Nat → α) (t u : Tbl α) (ht : Tbl.WfOn d t) (hu : Tbl.WfOn d u)
    (h : ∀ k, Tbl.lookD t (d k) k = Tbl.lookD u (d k) k) : t = u := by
  induction t generalizing u with
  | nil =>
    cases u with
    | nil => rfl
    | cons q r =>
      have := h q.1
      obtain ⟨i, w⟩ := q
      simp only [Tbl.lookD, Tbl.look, ↓reduceIte, Option.getD_some, Option.getD_none] at this
      exact absurd this.symm (hu.2 (i, w) (by simp))
  | cons p r ih =>
    obtain ⟨j, v⟩ := p
    have hv : v ≠ d j := ht.2 (j, v) (by simp)
    have above {w : Tbl α} {a : Nat} (hw : ∀ x ∈ w.map Prod.fst, a < x) {k : Nat} (hk : k ≤ a) : Tbl.look w k = none := by
      induction w with
      | nil => rfl
      | cons y ys ihy =>
        obtain ⟨i, z⟩ := y
        have : a < i := hw i (by simp)
        have hne : i ≠ k := by omega
        simp only [Tbl.look, if_neg hne]
        exact ihy (fun x hx => hw x (by simp at hx ⊢; exact .inr hx))
    have hs := ht.1
    simp only [Tbl.Sorted, List.map_cons, List.pairwise_cons] at hs
    cases u with
    | nil =>
      have := h j
      simp only [Tbl.lookD, Tbl.look, ↓reduceIte, Option.getD_some, Option.getD_none] at this
      exact absurd this hv
    | cons q r' =>
      obtain ⟨i, w⟩ := q
      have hw : w ≠ d i := hu.2 (i, w) (by simp)
      have hs' := hu.1
      simp only [Tbl.Sorted, List.map_cons, List.pairwise_cons] at hs'
      have hij : i = j := by
        rcases Nat.lt_trichotomy i j with hlt | heq | hgt
        · have := h i
          have hn : j ≠ i := by omega
          simp only [Tbl.lookD, Tbl.look, if_neg hn, ↓reduceIte, above hs.1 (Nat.le_of_lt hlt), Option.getD_some, Option.getD_none] at this
          exact absurd this.symm hw
        · exact heq
        · have := h j
          have hn : i ≠ j := by omega
          simp only [Tbl.lookD, Tbl.look, if_neg hn, ↓reduceIte, above hs'.1 (Nat.le_of_lt hgt), Option.getD_some, Option.getD_none] at this
          exact absurd this hv
      subst hij
      have hvw : v = w := by simpa [Tbl.lookD, Tbl.look] using h i
      subst hvw
      congr 1
      refine ih r' ⟨hs.2, fun p hp => ht.2 p (List.mem_cons_of_mem _ hp)⟩ ⟨hs'.2, fun p hp => hu.2 p (List.mem_cons_of_mem _ hp)⟩ ?_
      intro k
      by_cases hk : i = k
      · subst hk
        simp [Tbl.lookD, above hs.1 (Nat.le_refl i), above hs'.1 (Nat.le_refl i)]
      · have := h k
        simpa [Tbl.lookD, Tbl.look, hk] using this

end Sys2Proof
end

