-- ==== Sys2Proof/Laws/Keeps.lean ====
section
/-! SUPPORT. What every change of the state keeps: the queue is not touched, what has left the block stays recorded, free values are not used twice, a fuse stays
programmed, and the tables stay in canonical form. `Keeps` is reflexive and transitive, so each operation needs it once. -/
namespace Sys2Proof.Machine

/-- What every operation keeps from one state to a later one. -/
structure Keeps (s t : State) : Prop where
  pending : t.pending = s.pending
  out : s.out <:+ t.out
  free : s.free ≤ t.free
  fuses : FusesKept s t
  canon : s.Canonical → t.Canonical

theorem Keeps.refl (s : State) : Keeps s s := ⟨rfl, List.suffix_refl _, Nat.le_refl _, fun _ _ h => h, id⟩

theorem Keeps.trans {s t u : State} (h : Keeps s t) (k : Keeps t u) : Keeps s u :=
  ⟨k.pending.trans h.pending, h.out.trans k.out, Nat.le_trans h.free k.free, fun a b x => k.fuses a b (h.fuses a b x), fun x => k.canon (h.canon x)⟩

/-- An update of fields that `Keeps` does not speak of. -/
theorem Keeps.lit {s a : State} {tick heldLow captHigh boot warden heads lds regions sec place dir path press dmc qos gth graft borrow lent cat alertN}
    {mgmt : Mgmt} (h : Keeps s a) (hm : mgmt.otp = a.mgmt.otp) :
    Keeps s (State.mk a.pending tick a.free a.out a.regs heldLow captHigh boot warden heads lds regions a.media sec place dir path press dmc qos gth graft borrow lent
      cat mgmt alertN) :=
  h.trans ⟨rfl, List.suffix_refl _, Nat.le_refl _, fun x k hx => by simpa [State.otpAt, hm] using hx, fun hc => by
    simpa [State.Canonical, hm] using hc⟩

/-- The media are formatted. -/
theorem Keeps.format {s a t : State} (h : Keeps s a) (hp : t.pending = a.pending) (ho : t.out = a.out) (hf : t.free = a.free) (hr : t.regs = a.regs)
    (hm : t.media = []) (hw : t.mgmt.otp = a.mgmt.otp) : Keeps s t :=
  h.trans ⟨hp, ho ▸ List.suffix_refl _, hf ▸ Nat.le_refl _, fun x k hx => by simpa [State.otpAt, hw] using hx, fun hc => by
    refine ⟨hr ▸ hc.1, ?_, hw ▸ hc.2.2⟩
    rw [hm]; exact ⟨List.Pairwise.nil, by simp⟩⟩

theorem Keeps.ite {s a b : State} {c : Prop} [Decidable c] (ha : c → Keeps s a) (hb : ¬c → Keeps s b) : Keeps s (if c then a else b) := by
  split
  · exact ha ‹_›
  · exact hb ‹_›

theorem Keeps.cond {s a b : State} {c : Bool} (ha : Keeps s a) (hb : Keeps s b) : Keeps s (bif c then a else b) := by
  cases c
  · exact hb
  · exact ha

/-- A loop keeps what each round keeps. -/
theorem Keeps.foldl {α : Type} {s a : State} {f : State → α → State} {l : List α} (h : Keeps s a) (hf : ∀ t x, Keeps t (f t x)) : Keeps s (l.foldl f a) := by
  induction l generalizing a with
  | nil => exact h
  | cons x xs ih => exact ih (h.trans (hf a x))

theorem Keeps.foldl_fst {α β : Type} {s : State} {a : State × β} {f : State × β → α → State × β} {l : List α} (h : Keeps s a.1)
    (hf : ∀ t x, Keeps t.1 (f t x).1) : Keeps s (l.foldl f a).1 := by
  induction l generalizing a with
  | nil => exact h
  | cons x xs ih => exact ih (h.trans (hf a x))

theorem Keeps.foldl_snd {α β : Type} {s : State} {a : β × State} {f : β × State → α → β × State} {l : List α} (h : Keeps s a.2)
    (hf : ∀ t x, Keeps t.2 (f t x).2) : Keeps s (l.foldl f a).2 := by
  induction l generalizing a with
  | nil => exact h
  | cons x xs ih => exact ih (h.trans (hf a x))

theorem Keeps.foldl_mid {α β γ : Type} {s : State} {a : β × State × γ} {f : β × State × γ → α → β × State × γ} {l : List α} (h : Keeps s a.2.1)
    (hf : ∀ t x, Keeps t.2.1 (f t x).2.1) : Keeps s (l.foldl f a).2.1 := by
  induction l generalizing a with
  | nil => exact h
  | cons x xs ih => exact ih (h.trans (hf a x))

theorem Keeps.foldl_last {α β γ : Type} {s : State} {a : β × γ × State} {f : β × γ × State → α → β × γ × State} {l : List α} (h : Keeps s a.2.2)
    (hf : ∀ t x, Keeps t.2.2 (f t x).2.2) : Keeps s (l.foldl f a).2.2 := by
  induction l generalizing a with
  | nil => exact h
  | cons x xs ih => exact ih (h.trans (hf a x))

/-- The first state of several tries. -/
theorem Keeps.findSome {α : Type} {s t : State} {f : α → Option State} {l : List α} (h : l.findSome? f = some t) (hf : ∀ x u, f x = some u → Keeps s u) :
    Keeps s t := by
  obtain ⟨x, _, hx⟩ := List.exists_of_findSome?_eq_some h
  exact hf x t hx

theorem Keeps.of_fst {β : Type} {s t : State} {x : β} {p : State × β} (h : p = (t, x)) (k : Keeps s p.1) : Keeps s t := by subst h; exact k

theorem Keeps.of_snd {β : Type} {s t : State} {x : β} {p : β × State} (h : p = (x, t)) (k : Keeps s p.2) : Keeps s t := by subst h; exact k

theorem Keeps.of_mid {β γ : Type} {s t : State} {x : β} {y : γ} {p : β × State × γ} (h : p = (x, t, y)) (k : Keeps s p.2.1) : Keeps s t := by subst h; exact k

theorem Keeps.of_last {β γ : Type} {s t : State} {x : β} {y : γ} {p : β × γ × State} (h : p = (x, y, t)) (k : Keeps s p.2.2) : Keeps s t := by
  subst h; exact k

theorem Keeps.getD {s a : State} {o : Option State} (h : Keeps s a) (ho : ∀ t, o = some t → Keeps s t) : Keeps s (o.getD a) := by
  cases o with
  | none => exact h
  | some t => exact ho t rfl

/-- Free values are used, and nothing else that `Keeps` speaks of changes. -/
theorem Keeps.spend {s a t : State} (h : Keeps s a) (hp : t.pending = a.pending) (ho : t.out = a.out) (hf : a.free ≤ t.free) (hr : t.regs = a.regs)
    (hm : t.media = a.media) (hw : t.mgmt = a.mgmt) : Keeps s t :=
  h.trans ⟨hp, ho ▸ List.suffix_refl _, hf, fun x k hx => by simpa [State.otpAt, hw] using hx, fun hc => by simpa [State.Canonical, hr, hm, hw] using hc⟩

/-- The state that either of two answers holds. -/
theorem Keeps.fst_ite {β : Type} {s : State} {a b : State × β} {c : Prop} [Decidable c] (ha : Keeps s a.1) (hb : Keeps s b.1) : Keeps s (if c then a else b).1 := by
  split
  · exact ha
  · exact hb

theorem Keeps.some_ite {s t : State} {a b : Option State} {c : Prop} [Decidable c] (h : (if c then a else b) = some t) (ha : a = some t → Keeps s t)
    (hb : b = some t → Keeps s t) : Keeps s t := by
  split at h
  · exact ha h
  · exact hb h

/-- What a command's own part keeps. -/
def Ans.Keeps (s : State) : Ans → Prop
  | .fail .. => True
  | .done t _ _ => Machine.Keeps s t
  | .started t _ => Machine.Keeps s t
  | .later t => Machine.Keeps s t

/-- A command's own part may begin from a later state. -/
theorem Ans.Keeps.from {s t : State} {a : Ans} (h : Machine.Keeps s t) (ha : a.Keeps t) : a.Keeps s := by
  cases a with
  | fail => trivial
  | done => exact h.trans ha
  | started => exact h.trans ha
  | later => exact h.trans ha

theorem Ans.keeps_after {s : State} {a : Ans} (l : List Chk) (h : a.Keeps s) : (Ans.after l a).Keeps s := by
  induction l with
  | nil => exact h
  | cons c cs ih =>
    simp only [Ans.after]
    split
    · trivial
    · exact ih

theorem Ans.keeps_fail {s : State} (rc d v : Nat) : Ans.Keeps s (.fail rc d v) := trivial

theorem Ans.keeps_done {s t : State} {rc : Nat} {b : List Byte} (h : Machine.Keeps s t) : Ans.Keeps s (.done t rc b) := h

theorem Ans.keeps_started {s t : State} {w : BgWhy} (h : Machine.Keeps s t) : Ans.Keeps s (.started t w) := h

theorem Ans.keeps_later {s t : State} (h : Machine.Keeps s t) : Ans.Keeps s (.later t) := h

theorem Ans.keeps_ite {s : State} {a b : Ans} {c : Prop} [Decidable c] (ha : c → a.Keeps s) (hb : ¬c → b.Keeps s) : (if c then a else b).Keeps s := by
  split
  · exact ha ‹_›
  · exact hb ‹_›

/-! ### The operations that write what `Keeps` speaks of -/

theorem State.setWord_keeps (s : State) (off : Nat) (v : Word) : Keeps s (s.setWord off v) :=
  ⟨rfl, List.suffix_refl _, Nat.le_refl _, fun _ _ h => h, fun h => ⟨Tbl.wfOn_putD Reg.resetWord _ _ _ h.1, h.2⟩⟩

theorem State.emit_keeps (s : State) (o : Out) : Keeps s (s.emit o) :=
  ⟨rfl, List.suffix_cons _ _, Nat.le_refl _, fun _ _ h => h, id⟩

theorem State.advanceFree_keeps (s : State) : Keeps s s.advanceFree := ⟨rfl, List.suffix_refl _, Nat.le_succ _, fun _ _ h => h, id⟩

theorem State.skipFree_keeps (s : State) (n : Nat) : Keeps s (s.skipFree n) := ⟨rfl, List.suffix_refl _, Nat.le_add_right _ _, fun _ _ h => h, id⟩

theorem State.putLine_keeps (s : State) (c l : Nat) (x : Line) : Keeps s (s.putLine c l x) :=
  ⟨rfl, List.suffix_refl _, Nat.le_refl _, fun _ _ h => h, fun h => ⟨h.1, Tbl.wf_putD _ _ _ _ h.2.1, h.2.2⟩⟩

theorem State.putRaw_keeps (s : State) (c l : Nat) (x : Line) : Keeps s (s.putRaw c l x) :=
  ⟨rfl, List.suffix_refl _, Nat.le_refl _, fun _ _ h => h, fun h => ⟨h.1, Tbl.wf_putD _ _ _ _ h.2.1, h.2.2⟩⟩

end Sys2Proof.Machine
end

