-- ==== Sys2Proof/Laws/KeepsOps.lean ====
section
/-! SUPPORT. Every operation of Machine/Ops.lean keeps what `Keeps` says: one lemma for each. -/
namespace Sys2Proof.Machine
set_option linter.unreachableTactic false
set_option linter.unusedTactic false

theorem State.updHead_keeps (s : State) (h : Nat) (f : HeadSt → HeadSt) : Keeps s (State.updHead s h f) := by
  unfold State.updHead
  try dsimp only
  repeat' (first | with_reducible exact Keeps.refl _ | with_reducible assumption | with_reducible refine Keeps.ite (fun _ => ?_) (fun _ => ?_) | with_reducible refine Keeps.foldl ?_ (fun _ _ => ?_) | with_reducible refine Keeps.foldl_fst ?_ (fun _ _ => ?_) | with_reducible refine Keeps.foldl_snd ?_ (fun _ _ => ?_) | with_reducible apply Keeps.cond | with_reducible refine Keeps.getD ?_ (fun _ _ => ?_) | split | (with_reducible apply Keeps.lit; (on_goal 2 => with_reducible rfl); first | with_reducible exact Keeps.refl _ | with_reducible assumption | with_reducible refine Keeps.ite (fun _ => ?_) (fun _ => ?_) | with_reducible refine Keeps.foldl ?_ (fun _ _ => ?_) | with_reducible refine Keeps.foldl_fst ?_ (fun _ _ => ?_) | with_reducible refine Keeps.foldl_snd ?_ (fun _ _ => ?_) | with_reducible apply Keeps.cond | with_reducible refine Keeps.getD ?_ (fun _ _ => ?_) | split))

theorem State.setDword_keeps (s : State) (off : Nat) (v : BitVec 64) : Keeps s (State.setDword s off v) := by
  unfold State.setDword
  repeat' (first | with_reducible exact Keeps.refl _ | with_reducible apply Keeps.trans _ (State.setWord_keeps _ _ _))

theorem State.wr_keeps (s : State) (f : Reg.Fld) (x : Nat) : Keeps s (State.wr s f x) := by
  unfold State.wr
  try dsimp only
  repeat' (first | with_reducible exact Keeps.refl _ | with_reducible apply Keeps.trans _ (State.setDword_keeps _ _ _) | with_reducible apply Keeps.trans _ (State.setWord_keeps _ _ _) | with_reducible refine Keeps.ite (fun _ => ?_) (fun _ => ?_) | split | (with_reducible apply Keeps.lit; (on_goal 2 => with_reducible rfl); first | with_reducible exact Keeps.refl _ | with_reducible apply Keeps.trans _ (State.setDword_keeps _ _ _) | with_reducible apply Keeps.trans _ (State.setWord_keeps _ _ _) | with_reducible refine Keeps.ite (fun _ => ?_) (fun _ => ?_) | split))

theorem State.wakeLink_keeps (s : State) (h : Nat) : Keeps s (State.wakeLink s h) := by
  unfold State.wakeLink
  try dsimp only
  repeat' (first | with_reducible exact Keeps.refl _ | with_reducible apply Keeps.trans _ (State.updHead_keeps _ _ _) | with_reducible apply Keeps.trans _ (State.wr_keeps _ _ _) | with_reducible apply Keeps.trans _ (State.emit_keeps _ _) | with_reducible refine Keeps.ite (fun _ => ?_) (fun _ => ?_) | split | (with_reducible apply Keeps.lit; (on_goal 2 => with_reducible rfl); first | with_reducible exact Keeps.refl _ | with_reducible apply Keeps.trans _ (State.updHead_keeps _ _ _) | with_reducible apply Keeps.trans _ (State.wr_keeps _ _ _) | with_reducible apply Keeps.trans _ (State.emit_keeps _ _) | with_reducible refine Keeps.ite (fun _ => ?_) (fun _ => ?_) | split))

theorem State.crossLink_keeps (s : State) (a : Agent) : Keeps s (State.crossLink s a) := by
  unfold State.crossLink
  try dsimp only
  repeat' (first | with_reducible exact Keeps.refl _ | with_reducible assumption | with_reducible apply Keeps.trans _ (State.wakeLink_keeps _ _) | with_reducible refine Keeps.ite (fun _ => ?_) (fun _ => ?_) | with_reducible refine Keeps.foldl ?_ (fun _ _ => ?_) | with_reducible refine Keeps.foldl_fst ?_ (fun _ _ => ?_) | with_reducible refine Keeps.foldl_snd ?_ (fun _ _ => ?_) | with_reducible apply Keeps.cond | with_reducible refine Keeps.getD ?_ (fun _ _ => ?_) | split | (with_reducible apply Keeps.lit; (on_goal 2 => with_reducible rfl); first | with_reducible exact Keeps.refl _ | with_reducible assumption | with_reducible apply Keeps.trans _ (State.wakeLink_keeps _ _) | with_reducible refine Keeps.ite (fun _ => ?_) (fun _ => ?_) | with_reducible refine Keeps.foldl ?_ (fun _ _ => ?_) | with_reducible refine Keeps.foldl_fst ?_ (fun _ _ => ?_) | with_reducible refine Keeps.foldl_snd ?_ (fun _ _ => ?_) | with_reducible apply Keeps.cond | with_reducible refine Keeps.getD ?_ (fun _ _ => ?_) | split))

theorem State.inc_keeps (s : State) (f : Reg.Fld) (n : Nat) : Keeps s (State.inc s f n) := by
  unfold State.inc
  repeat' (first | with_reducible exact Keeps.refl _ | with_reducible apply Keeps.trans _ (State.wr_keeps _ _ _))

theorem State.updLd_keeps (s : State) (i : Nat) (f : Ld → Ld) : Keeps s (State.updLd s i f) := by
  unfold State.updLd
  repeat' (first | with_reducible exact Keeps.refl _ | (with_reducible apply Keeps.lit; (on_goal 2 => with_reducible rfl); first | with_reducible exact Keeps.refl _))

theorem State.msix_keeps (s : State) (i : Nat) (v : Nat) : Keeps s (State.msix s i v) := by
  unfold State.msix
  try dsimp only
  repeat' (first | with_reducible exact Keeps.refl _ | with_reducible apply Keeps.trans _ (State.updLd_keeps _ _ _) | with_reducible apply Keeps.trans _ (State.wakeLink_keeps _ _) | with_reducible apply Keeps.trans _ (State.emit_keeps _ _) | with_reducible refine Keeps.ite (fun _ => ?_) (fun _ => ?_) | split | (with_reducible apply Keeps.lit; (on_goal 2 => with_reducible rfl); first | with_reducible exact Keeps.refl _ | with_reducible apply Keeps.trans _ (State.updLd_keeps _ _ _) | with_reducible apply Keeps.trans _ (State.wakeLink_keeps _ _) | with_reducible apply Keeps.trans _ (State.emit_keeps _ _) | with_reducible refine Keeps.ite (fun _ => ?_) (fun _ => ?_) | split))

theorem State.sat_keeps (s : State) (f : Reg.Fld) (n : Nat) : Keeps s (State.sat s f n) := by
  unfold State.sat
  repeat' (first | with_reducible exact Keeps.refl _ | with_reducible apply Keeps.trans _ (State.wr_keeps _ _ _))

theorem State.setFlag_keeps (s : State) (f : Reg.Fld) (b : Bool) : Keeps s (State.setFlag s f b) := by
  unfold State.setFlag
  repeat' (first | with_reducible exact Keeps.refl _ | with_reducible apply Keeps.trans _ (State.wr_keeps _ _ _))

theorem State.updCh_keeps (s : State) (c : Nat) (f : Dmc → Dmc) : Keeps s (State.updCh s c f) := by
  unfold State.updCh
  repeat' (first | with_reducible exact Keeps.refl _ | (with_reducible apply Keeps.lit; (on_goal 2 => with_reducible rfl); first | with_reducible exact Keeps.refl _))

theorem State.updGp_keeps (s : State) (g : Nat) (f : GPortSt → GPortSt) : Keeps s (State.updGp s g f) := by
  unfold State.updGp
  repeat' (first | with_reducible exact Keeps.refl _ | (with_reducible apply Keeps.lit; (on_goal 2 => with_reducible rfl); first | with_reducible exact Keeps.refl _))

theorem State.wrBit_keeps (s : State) (f : Reg.Fld) (i : Nat) (b : Bool) : Keeps s (State.wrBit s f i b) := by
  unfold State.wrBit
  repeat' (first | with_reducible exact Keeps.refl _ | with_reducible apply Keeps.trans _ (State.wr_keeps _ _ _))

end Sys2Proof.Machine
end

