-- ==== Sys2Proof/Laws/KeepsFirmware.lean ====
section
/-! SUPPORT. Every operation of Machine/Firmware.lean keeps what `Keeps` says: one lemma for each. -/
namespace Sys2Proof.Machine
set_option linter.unreachableTactic false
set_option linter.unusedTactic false

theorem State.flashPut_keeps (s : State) (a : Nat) (l : List Byte) : Keeps s (State.flashPut s a l) := by
  unfold State.flashPut
  repeat' (first | with_reducible exact Keeps.refl _ | (with_reducible apply Keeps.lit; (on_goal 2 => with_reducible rfl); first | with_reducible exact Keeps.refl _))

theorem State.putBootRecord_keeps (s : State) (k : Nat) (slot : Nat) (seq : Nat) (torn : Bool) : Keeps s (State.putBootRecord s k slot seq torn) := by
  unfold State.putBootRecord
  repeat' (first | with_reducible exact Keeps.refl _ | with_reducible apply Keeps.trans _ (State.flashPut_keeps _ _ _))

end Sys2Proof.Machine
end

