-- ==== Sys2Proof/Laws/KeepsFlags.lean ====
section
/-! SUPPORT. Every operation of Machine/Flags.lean keeps what `Keeps` says: one lemma for each. -/
namespace Sys2Proof.Machine
set_option linter.unreachableTactic false
set_option linter.unusedTactic false

theorem State.abandonLatest_keeps (s : State) : Keeps s (State.abandonLatest s) := by
  unfold State.abandonLatest
  repeat' (first | with_reducible exact Keeps.refl _ | with_reducible apply Keeps.trans _ (State.setFlag_keeps _ _ _) | (with_reducible apply Keeps.lit; (on_goal 2 => with_reducible rfl); first | with_reducible exact Keeps.refl _ | with_reducible apply Keeps.trans _ (State.setFlag_keeps _ _ _)))

theorem State.addCnt_keeps (s : State) (g : Nat) (k : Nat) (n : Nat) : Keeps s (State.addCnt s g k n) := by
  unfold State.addCnt
  try dsimp only
  repeat' (first | with_reducible exact Keeps.refl _ | with_reducible apply Keeps.trans _ (State.wr_keeps _ _ _) | with_reducible apply Keeps.trans _ (State.wrBit_keeps _ _ _ _) | with_reducible refine Keeps.ite (fun _ => ?_) (fun _ => ?_) | split | (with_reducible apply Keeps.lit; (on_goal 2 => with_reducible rfl); first | with_reducible exact Keeps.refl _ | with_reducible apply Keeps.trans _ (State.wr_keeps _ _ _) | with_reducible apply Keeps.trans _ (State.wrBit_keeps _ _ _ _) | with_reducible refine Keeps.ite (fun _ => ?_) (fun _ => ?_) | split))

theorem State.addTicks_keeps (s : State) (g : Nat) (n : Nat) : Keeps s (State.addTicks s g n) := by
  unfold State.addTicks
  try dsimp only
  repeat' (first | with_reducible exact Keeps.refl _ | with_reducible apply Keeps.trans _ (State.setFlag_keeps _ _ _) | with_reducible apply Keeps.trans _ (State.wr_keeps _ _ _) | with_reducible refine Keeps.ite (fun _ => ?_) (fun _ => ?_) | split | (with_reducible apply Keeps.lit; (on_goal 2 => with_reducible rfl); first | with_reducible exact Keeps.refl _ | with_reducible apply Keeps.trans _ (State.setFlag_keeps _ _ _) | with_reducible apply Keeps.trans _ (State.wr_keeps _ _ _) | with_reducible refine Keeps.ite (fun _ => ?_) (fun _ => ?_) | split))

theorem State.alertVector_keeps (old s : State) : Keeps s (State.alertVector old s) := by
  unfold State.alertVector
  exact Keeps.ite (fun _ => Keeps.refl _) (fun _ => Keeps.foldl (Keeps.refl _) (fun t x => State.msix_keeps t x 6))

theorem State.capture_keeps (s : State) (b trig : Nat) : Keeps s (State.capture s b trig) := by
  unfold State.capture
  extract_lets ring a1 a2 a3 a4 a5
  have h : Keeps s a5 := ((((State.setFlag_keeps _ _ _).trans (State.setFlag_keeps _ _ _)).trans (State.wr_keeps _ _ _)).trans (State.setFlag_keeps _ _ _)).trans (State.wr_keeps _ _ _)
  clear_value ring a5
  refine Keeps.spend h rfl rfl ?_ rfl rfl rfl
  dsimp only
  exact Nat.le_add_right a5.free _

theorem State.cntGroup_keeps (s : State) (g : Nat) (ev : Nat) (sc : Scope) (n : Nat) : Keeps s (State.cntGroup s g ev sc n) := by
  unfold State.cntGroup
  try dsimp only
  repeat' (first | with_reducible exact Keeps.refl _ | with_reducible assumption | with_reducible apply Keeps.trans _ (State.addCnt_keeps _ _ _ _) | with_reducible refine Keeps.ite (fun _ => ?_) (fun _ => ?_) | with_reducible refine Keeps.foldl ?_ (fun _ _ => ?_) | split | (with_reducible apply Keeps.lit; (on_goal 2 => with_reducible rfl); first | with_reducible exact Keeps.refl _ | with_reducible assumption | with_reducible apply Keeps.trans _ (State.addCnt_keeps _ _ _ _) | with_reducible refine Keeps.ite (fun _ => ?_) (fun _ => ?_) | with_reducible refine Keeps.foldl ?_ (fun _ _ => ?_) | split))

theorem State.cnt_keeps (s : State) (ev : Nat) (sc : Scope) (n : Nat) : Keeps s (State.cnt s ev sc n) := by
  unfold State.cnt
  try dsimp only
  repeat' (first | with_reducible exact Keeps.refl _ | with_reducible assumption | with_reducible apply Keeps.trans _ (State.cntGroup_keeps _ _ _ _ _) | with_reducible refine Keeps.ite (fun _ => ?_) (fun _ => ?_) | with_reducible refine Keeps.foldl ?_ (fun _ _ => ?_) | split | (with_reducible apply Keeps.lit; (on_goal 2 => with_reducible rfl); first | with_reducible exact Keeps.refl _ | with_reducible assumption | with_reducible apply Keeps.trans _ (State.cntGroup_keeps _ _ _ _ _) | with_reducible refine Keeps.ite (fun _ => ?_) (fun _ => ?_) | with_reducible refine Keeps.foldl ?_ (fun _ _ => ?_) | split))

theorem State.holdOff_keeps (s : State) (key : Nat) : Keeps s (State.holdOff s key) := by
  unfold State.holdOff
  try dsimp only
  repeat' (first | with_reducible exact Keeps.refl _ | with_reducible assumption | with_reducible refine Keeps.ite (fun _ => ?_) (fun _ => ?_) | with_reducible refine Keeps.foldl ?_ (fun _ _ => ?_) | with_reducible refine Keeps.foldl_fst ?_ (fun _ _ => ?_) | with_reducible refine Keeps.foldl_snd ?_ (fun _ _ => ?_) | with_reducible apply Keeps.cond | with_reducible refine Keeps.getD ?_ (fun _ _ => ?_) | split | (with_reducible apply Keeps.lit; (on_goal 2 => with_reducible rfl); first | with_reducible exact Keeps.refl _ | with_reducible assumption | with_reducible refine Keeps.ite (fun _ => ?_) (fun _ => ?_) | with_reducible refine Keeps.foldl ?_ (fun _ _ => ?_) | with_reducible refine Keeps.foldl_fst ?_ (fun _ _ => ?_) | with_reducible refine Keeps.foldl_snd ?_ (fun _ _ => ?_) | with_reducible apply Keeps.cond | with_reducible refine Keeps.getD ?_ (fun _ _ => ?_) | split))

theorem State.ldCnt_keeps (s : State) (i : Nat) (word : Nat) (n : Nat) : Keeps s (State.ldCnt s i word n) := by
  unfold State.ldCnt
  repeat' (first | with_reducible exact Keeps.refl _ | with_reducible apply Keeps.trans _ (State.updLd_keeps _ _ _))

theorem State.logWrite_keeps (s : State) (code : Nat) (sev : Nat) (arg0 : Nat) (arg1 : Nat) (r : Route) : Keeps s (State.logWrite s code sev arg0 arg1 r) := by
  unfold State.logWrite
  try dsimp only
  repeat' (first | with_reducible exact Keeps.refl _ | with_reducible apply Keeps.trans _ (State.setDword_keeps _ _ _) | with_reducible apply Keeps.trans _ (State.setFlag_keeps _ _ _) | with_reducible apply Keeps.trans _ (State.wr_keeps _ _ _) | with_reducible apply Keeps.trans _ (State.setWord_keeps _ _ _) | with_reducible refine Keeps.ite (fun _ => ?_) (fun _ => ?_) | split | (with_reducible apply Keeps.lit; (on_goal 2 => with_reducible rfl); first | with_reducible exact Keeps.refl _ | with_reducible apply Keeps.trans _ (State.setDword_keeps _ _ _) | with_reducible apply Keeps.trans _ (State.setFlag_keeps _ _ _) | with_reducible apply Keeps.trans _ (State.wr_keeps _ _ _) | with_reducible apply Keeps.trans _ (State.setWord_keeps _ _ _) | with_reducible refine Keeps.ite (fun _ => ?_) (fun _ => ?_) | split))

theorem State.noteRaised_keeps (s : State) (code : Nat) : Keeps s (State.noteRaised s code) := by
  unfold State.noteRaised
  try dsimp only
  repeat' (first | with_reducible exact Keeps.refl _ | with_reducible assumption | with_reducible refine Keeps.ite (fun _ => ?_) (fun _ => ?_) | with_reducible refine Keeps.foldl ?_ (fun _ _ => ?_) | with_reducible refine Keeps.foldl_fst ?_ (fun _ _ => ?_) | with_reducible refine Keeps.foldl_snd ?_ (fun _ _ => ?_) | with_reducible apply Keeps.cond | with_reducible refine Keeps.getD ?_ (fun _ _ => ?_) | split | (with_reducible apply Keeps.lit; (on_goal 2 => with_reducible rfl); first | with_reducible exact Keeps.refl _ | with_reducible assumption | with_reducible refine Keeps.ite (fun _ => ?_) (fun _ => ?_) | with_reducible refine Keeps.foldl ?_ (fun _ _ => ?_) | with_reducible refine Keeps.foldl_fst ?_ (fun _ _ => ?_) | with_reducible refine Keeps.foldl_snd ?_ (fun _ _ => ?_) | with_reducible apply Keeps.cond | with_reducible refine Keeps.getD ?_ (fun _ _ => ?_) | split))

theorem State.raise_keeps (s : State) (code : Nat) (arg0 : Nat) (arg1 : Nat) : Keeps s (State.raise s code arg0 arg1) := by
  unfold State.raise
  try dsimp only
  repeat' (first | with_reducible exact Keeps.refl _ | with_reducible apply Keeps.trans _ (State.alertVector_keeps _ _) | with_reducible apply Keeps.trans _ (State.logWrite_keeps _ _ _ _ _ _) | with_reducible apply Keeps.trans _ (State.noteRaised_keeps _ _) | with_reducible apply Keeps.trans _ (State.sat_keeps _ _ _) | with_reducible apply Keeps.trans _ (State.setWord_keeps _ _ _) | with_reducible refine Keeps.ite (fun _ => ?_) (fun _ => ?_) | split | (with_reducible apply Keeps.lit; (on_goal 2 => with_reducible rfl); first | with_reducible exact Keeps.refl _ | with_reducible apply Keeps.trans _ (State.alertVector_keeps _ _) | with_reducible apply Keeps.trans _ (State.logWrite_keeps _ _ _ _ _ _) | with_reducible apply Keeps.trans _ (State.noteRaised_keeps _ _) | with_reducible apply Keeps.trans _ (State.sat_keeps _ _ _) | with_reducible apply Keeps.trans _ (State.setWord_keeps _ _ _) | with_reducible refine Keeps.ite (fun _ => ?_) (fun _ => ?_) | split))

theorem State.raiseCh_keeps (s : State) (c : Nat) (k : Nat) (arg0 : Nat) (arg1 : Nat) : Keeps s (State.raiseCh s c k arg0 arg1) := by
  unfold State.raiseCh
  repeat' (first | with_reducible exact Keeps.refl _ | with_reducible apply Keeps.trans _ (State.raise_keeps _ _ _ _))

theorem State.recordReply_keeps (s : State) (r : ReplayRec) : Keeps s (State.recordReply s r) := by
  unfold State.recordReply
  try dsimp only
  repeat' (first | with_reducible exact Keeps.refl _ | with_reducible refine Keeps.ite (fun _ => ?_) (fun _ => ?_) | split | (with_reducible apply Keeps.lit; (on_goal 2 => with_reducible rfl); first | with_reducible exact Keeps.refl _ | with_reducible refine Keeps.ite (fun _ => ?_) (fun _ => ?_) | split))

theorem State.retireEngine_keeps (s : State) (e : Nat) : Keeps s (State.retireEngine s e) := by
  unfold State.retireEngine
  try dsimp only
  repeat' (first | with_reducible exact Keeps.refl _ | with_reducible assumption | with_reducible apply Keeps.trans _ (State.raise_keeps _ _ _ _) | with_reducible apply Keeps.trans _ (State.wrBit_keeps _ _ _ _) | with_reducible refine Keeps.ite (fun _ => ?_) (fun _ => ?_) | with_reducible refine Keeps.foldl ?_ (fun _ _ => ?_) | with_reducible refine Keeps.foldl_fst ?_ (fun _ _ => ?_) | with_reducible refine Keeps.foldl_snd ?_ (fun _ _ => ?_) | with_reducible apply Keeps.cond | with_reducible refine Keeps.getD ?_ (fun _ _ => ?_) | split | (with_reducible apply Keeps.lit; (on_goal 2 => with_reducible rfl); first | with_reducible exact Keeps.refl _ | with_reducible assumption | with_reducible apply Keeps.trans _ (State.raise_keeps _ _ _ _) | with_reducible apply Keeps.trans _ (State.wrBit_keeps _ _ _ _) | with_reducible refine Keeps.ite (fun _ => ?_) (fun _ => ?_) | with_reducible refine Keeps.foldl ?_ (fun _ _ => ?_) | with_reducible refine Keeps.foldl_fst ?_ (fun _ _ => ?_) | with_reducible refine Keeps.foldl_snd ?_ (fun _ _ => ?_) | with_reducible apply Keeps.cond | with_reducible refine Keeps.getD ?_ (fun _ _ => ?_) | split))

theorem State.sendDone_keeps (s : State) (b : Bg) (rc : Nat) (body : List Byte) : Keeps s (State.sendDone s b rc body) := by
  unfold State.sendDone
  try dsimp only
  repeat' (first | with_reducible exact Keeps.refl _ | with_reducible apply Keeps.trans _ (State.msix_keeps _ _ _) | with_reducible apply Keeps.trans _ (State.updLd_keeps _ _ _) | with_reducible apply Keeps.trans _ (State.emit_keeps _ _) | with_reducible refine Keeps.ite (fun _ => ?_) (fun _ => ?_) | split | (with_reducible apply Keeps.lit; (on_goal 2 => with_reducible rfl); first | with_reducible exact Keeps.refl _ | with_reducible apply Keeps.trans _ (State.msix_keeps _ _ _) | with_reducible apply Keeps.trans _ (State.updLd_keeps _ _ _) | with_reducible apply Keeps.trans _ (State.emit_keeps _ _) | with_reducible refine Keeps.ite (fun _ => ?_) (fun _ => ?_) | split))

theorem State.sendReply_keeps (s : State) (a : Agent) (opcode : Nat) (reqId : BitVec 16) (rc : Nat) (detail : Nat) (value : Nat) (body : List Byte) : Keeps s (State.sendReply s a opcode reqId rc detail value body) := by
  unfold State.sendReply
  try dsimp only
  repeat' (first | with_reducible exact Keeps.refl _ | with_reducible apply Keeps.trans _ (State.crossLink_keeps _ _) | with_reducible apply Keeps.trans _ (State.msix_keeps _ _ _) | with_reducible apply Keeps.trans _ (State.updLd_keeps _ _ _) | with_reducible apply Keeps.trans _ (State.emit_keeps _ _) | with_reducible refine Keeps.ite (fun _ => ?_) (fun _ => ?_) | split | (with_reducible apply Keeps.lit; (on_goal 2 => with_reducible rfl); first | with_reducible exact Keeps.refl _ | with_reducible apply Keeps.trans _ (State.crossLink_keeps _ _) | with_reducible apply Keeps.trans _ (State.msix_keeps _ _ _) | with_reducible apply Keeps.trans _ (State.updLd_keeps _ _ _) | with_reducible apply Keeps.trans _ (State.emit_keeps _ _) | with_reducible refine Keeps.ite (fun _ => ?_) (fun _ => ?_) | split))

theorem State.startWalk_keeps (s : State) (b : Nat) (trig : Nat) : Keeps s (State.startWalk s b trig) := by
  unfold State.startWalk
  repeat' (first | with_reducible exact Keeps.refl _ | with_reducible apply Keeps.trans _ (State.capture_keeps _ _ _) | (with_reducible apply Keeps.lit; (on_goal 2 => with_reducible rfl); first | with_reducible exact Keeps.refl _ | with_reducible apply Keeps.trans _ (State.capture_keeps _ _ _)))

theorem State.stn_keeps (s : State) (station : Nat) (word : Nat) (n : Nat) : Keeps s (State.stn s station word n) := by
  unfold State.stn
  repeat' (first | with_reducible exact Keeps.refl _ | (with_reducible apply Keeps.lit; (on_goal 2 => with_reducible rfl); first | with_reducible exact Keeps.refl _))

theorem State.trigger_keeps (s : State) (b : Nat) (trig : Nat) : Keeps s (State.trigger s b trig) := by
  unfold State.trigger
  try dsimp only
  repeat' (first | with_reducible exact Keeps.refl _ | with_reducible apply Keeps.trans _ (State.abandonLatest_keeps _) | with_reducible apply Keeps.trans _ (State.startWalk_keeps _ _ _) | with_reducible refine Keeps.ite (fun _ => ?_) (fun _ => ?_) | split | (with_reducible apply Keeps.lit; (on_goal 2 => with_reducible rfl); first | with_reducible exact Keeps.refl _ | with_reducible apply Keeps.trans _ (State.abandonLatest_keeps _) | with_reducible apply Keeps.trans _ (State.startWalk_keeps _ _ _) | with_reducible refine Keeps.ite (fun _ => ?_) (fun _ => ?_) | split))

end Sys2Proof.Machine
end

