-- ==== Sys2Proof/Laws/KeepsOperands.lean ====
section
/-! SUPPORT. Every operation of Machine/Operands.lean keeps what `Keeps` says: one lemma for each. -/
namespace Sys2Proof.Machine
set_option linter.unreachableTactic false
set_option linter.unusedTactic false

theorem State.noteHeads_keeps (s : State) : Keeps s (State.noteHeads s) := by
  unfold State.noteHeads
  repeat' (first | with_reducible exact Keeps.refl _ | (with_reducible apply Keeps.lit; (on_goal 2 => with_reducible rfl); first | with_reducible exact Keeps.refl _))

theorem State.noteT0_keeps (s : State) (k : Nat) : Keeps s (State.noteT0 s k) := by
  unfold State.noteT0
  repeat' (first | with_reducible exact Keeps.refl _ | (with_reducible apply Keeps.lit; (on_goal 2 => with_reducible rfl); first | with_reducible exact Keeps.refl _))

theorem State.noteMeta_keeps (s : State) (c : Nat) : Keeps s (State.noteMeta s c) := by
  unfold State.noteMeta
  repeat' (first | with_reducible exact Keeps.refl _ | with_reducible apply Keeps.trans _ (State.noteT0_keeps _ _) | (with_reducible apply Keeps.lit; (on_goal 2 => with_reducible rfl); first | with_reducible exact Keeps.refl _ | with_reducible apply Keeps.trans _ (State.noteT0_keeps _ _)))

theorem State.updAcct_keeps (s : State) (c : Nat) (f : ClassAcct → ClassAcct) : Keeps s (State.updAcct s c f) := by
  unfold State.updAcct
  repeat' (first | with_reducible exact Keeps.refl _ | (with_reducible apply Keeps.lit; (on_goal 2 => with_reducible rfl); first | with_reducible exact Keeps.refl _))

theorem State.noteWait_keeps (s : State) (q : Req) : Keeps s (State.noteWait s q) := by
  unfold State.noteWait
  try dsimp only
  repeat' (first | with_reducible exact Keeps.refl _ | with_reducible apply Keeps.trans _ (State.updAcct_keeps _ _ _) | with_reducible refine Keeps.ite (fun _ => ?_) (fun _ => ?_) | split | (with_reducible apply Keeps.lit; (on_goal 2 => with_reducible rfl); first | with_reducible exact Keeps.refl _ | with_reducible apply Keeps.trans _ (State.updAcct_keeps _ _ _) | with_reducible refine Keeps.ite (fun _ => ?_) (fun _ => ?_) | split))

theorem State.setAcc_keeps (s : State) (p : Nat) (a : Acc) : Keeps s (State.setAcc s p a) := by
  unfold State.setAcc
  repeat' (first | with_reducible exact Keeps.refl _ | (with_reducible apply Keeps.lit; (on_goal 2 => with_reducible rfl); first | with_reducible exact Keeps.refl _))

theorem State.setForm_keeps (s : State) (p : Nat) (f : PageForm) : Keeps s (State.setForm s p f) := by
  unfold State.setForm
  repeat' (first | with_reducible exact Keeps.refl _ | with_reducible apply Keeps.trans _ (State.setAcc_keeps _ _ _))

theorem State.updRegion_keeps (s : State) (i : Nat) (f : Region → Region) : Keeps s (State.updRegion s i f) := by
  unfold State.updRegion
  repeat' (first | with_reducible exact Keeps.refl _ | (with_reducible apply Keeps.lit; (on_goal 2 => with_reducible rfl); first | with_reducible exact Keeps.refl _))

theorem State.updSlot_keeps (s : State) (k : Nat) (f : MoveSlot → MoveSlot) : Keeps s (State.updSlot s k f) := by
  unfold State.updSlot
  repeat' (first | with_reducible exact Keeps.refl _ | (with_reducible apply Keeps.lit; (on_goal 2 => with_reducible rfl); first | with_reducible exact Keeps.refl _))

end Sys2Proof.Machine
end

