-- ==== Sys2Proof/Laws/KeepsPool.lean ====
section
/-! SUPPORT. Every operation of Machine/Pool.lean keeps what `Keeps` says: one lemma for each. -/
namespace Sys2Proof.Machine
set_option linter.unreachableTactic false
set_option linter.unusedTactic false

theorem State.queueReq_keeps (s : State) (g : Nat) (m : GMsg) : Keeps s (State.queueReq s g m) := by
  unfold State.queueReq
  repeat' (first | with_reducible exact Keeps.refl _ | with_reducible apply Keeps.trans _ (State.updGp_keeps _ _ _))

theorem State.openOxn_keeps (s : State) (g : Nat) (body : Oxn) : Keeps s (State.openOxn s g body) := by
  unfold State.openOxn
  try dsimp only
  repeat' (first | with_reducible exact Keeps.refl _ | with_reducible apply Keeps.trans _ (State.queueReq_keeps _ _ _) | with_reducible apply Keeps.trans _ (State.updGp_keeps _ _ _) | with_reducible refine Keeps.ite (fun _ => ?_) (fun _ => ?_) | split | (with_reducible apply Keeps.lit; (on_goal 2 => with_reducible rfl); first | with_reducible exact Keeps.refl _ | with_reducible apply Keeps.trans _ (State.queueReq_keeps _ _ _) | with_reducible apply Keeps.trans _ (State.updGp_keeps _ _ _) | with_reducible refine Keeps.ite (fun _ => ?_) (fun _ => ?_) | split))

theorem State.recallLent_keeps (s : State) (n : Nat) : Keeps s (State.recallLent s n) := by
  unfold State.recallLent
  try dsimp only
  repeat' (first | with_reducible exact Keeps.refl _ | with_reducible apply Keeps.trans _ (State.openOxn_keeps _ _ _) | with_reducible apply Keeps.trans _ (State.setFlag_keeps _ _ _) | with_reducible refine Keeps.ite (fun _ => ?_) (fun _ => ?_) | split | (with_reducible apply Keeps.lit; (on_goal 2 => with_reducible rfl); first | with_reducible exact Keeps.refl _ | with_reducible apply Keeps.trans _ (State.openOxn_keeps _ _ _) | with_reducible apply Keeps.trans _ (State.setFlag_keeps _ _ _) | with_reducible refine Keeps.ite (fun _ => ?_) (fun _ => ?_) | split))

theorem State.lenderRecall_keeps (s : State) : Keeps s (State.lenderRecall s) := by
  unfold State.lenderRecall
  try dsimp only
  repeat' (first | with_reducible exact Keeps.refl _ | with_reducible apply Keeps.trans _ (State.recallLent_keeps _ _) | with_reducible refine Keeps.ite (fun _ => ?_) (fun _ => ?_) | split | (with_reducible apply Keeps.lit; (on_goal 2 => with_reducible rfl); first | with_reducible exact Keeps.refl _ | with_reducible apply Keeps.trans _ (State.recallLent_keeps _ _) | with_reducible refine Keeps.ite (fun _ => ?_) (fun _ => ?_) | split))

theorem State.showPool_keeps (s : State) : Keeps s (State.showPool s) := by
  unfold State.showPool
  repeat' (first | with_reducible exact Keeps.refl _ | with_reducible apply Keeps.trans _ (State.wr_keeps _ _ _))

theorem State.pressure_keeps (s : State) : Keeps s (State.pressure s) := by
  unfold State.pressure
  try dsimp only
  repeat' (first | with_reducible exact Keeps.refl _ | with_reducible apply Keeps.trans _ (State.lenderRecall_keeps _) | with_reducible apply Keeps.trans _ (State.raise_keeps _ _ _ _) | with_reducible apply Keeps.trans _ (State.setFlag_keeps _ _ _) | with_reducible apply Keeps.trans _ (State.showPool_keeps _) | with_reducible apply Keeps.trans _ (State.wr_keeps _ _ _) | with_reducible refine Keeps.ite (fun _ => ?_) (fun _ => ?_) | split | (with_reducible apply Keeps.lit; (on_goal 2 => with_reducible rfl); first | with_reducible exact Keeps.refl _ | with_reducible apply Keeps.trans _ (State.lenderRecall_keeps _) | with_reducible apply Keeps.trans _ (State.raise_keeps _ _ _ _) | with_reducible apply Keeps.trans _ (State.setFlag_keeps _ _ _) | with_reducible apply Keeps.trans _ (State.showPool_keeps _) | with_reducible apply Keeps.trans _ (State.wr_keeps _ _ _) | with_reducible refine Keeps.ite (fun _ => ?_) (fun _ => ?_) | split))

theorem State.markUsed_keeps (s : State) (c : Nat) (fr : Nat) (mask : Nat) : Keeps s (State.markUsed s c fr mask) := by
  unfold State.markUsed
  repeat' (first | with_reducible exact Keeps.refl _ | (with_reducible apply Keeps.lit; (on_goal 2 => with_reducible rfl); first | with_reducible exact Keeps.refl _))

theorem State.updMch_keeps (s : State) (c : Nat) (f : MediaCh → MediaCh) : Keeps s (State.updMch s c f) := by
  unfold State.updMch
  repeat' (first | with_reducible exact Keeps.refl _ | (with_reducible apply Keeps.lit; (on_goal 2 => with_reducible rfl); first | with_reducible exact Keeps.refl _))

theorem State.takeFrame_keeps (s : State) (c : Nat) (d : Draw) : Keeps s (State.takeFrame s c d) := by
  unfold State.takeFrame
  try dsimp only
  repeat' (first | with_reducible exact Keeps.refl _ | with_reducible apply Keeps.trans _ (State.markUsed_keeps _ _ _ _) | with_reducible apply Keeps.trans _ (State.updMch_keeps _ _ _) | with_reducible apply Keeps.trans _ (State.advanceFree_keeps _) | with_reducible refine Keeps.ite (fun _ => ?_) (fun _ => ?_) | split | (with_reducible apply Keeps.lit; (on_goal 2 => with_reducible rfl); first | with_reducible exact Keeps.refl _ | with_reducible apply Keeps.trans _ (State.markUsed_keeps _ _ _ _) | with_reducible apply Keeps.trans _ (State.updMch_keeps _ _ _) | with_reducible apply Keeps.trans _ (State.advanceFree_keeps _) | with_reducible refine Keeps.ite (fun _ => ?_) (fun _ => ?_) | split))

theorem State.allocFrame_keeps (s : State) (p : Nat) (thaw : Bool) {res} (h : State.allocFrame s p thaw = some res) : Keeps s res.2.2 := by
  unfold State.allocFrame at h
  try dsimp only at h
  repeat' split at h
  all_goals first | contradiction | skip
  all_goals simp only [Option.some.injEq, Option.map_eq_some_iff] at h
  all_goals try (obtain ⟨_, _, h⟩ := h)
  all_goals try subst h
  all_goals repeat' (first | with_reducible exact Keeps.refl _ | with_reducible apply Keeps.trans _ (State.pressure_keeps _) | with_reducible apply Keeps.trans _ (State.takeFrame_keeps _ _ _) | (with_reducible apply Keeps.lit; (on_goal 2 => with_reducible rfl); first | with_reducible exact Keeps.refl _ | with_reducible apply Keeps.trans _ (State.pressure_keeps _) | with_reducible apply Keeps.trans _ (State.takeFrame_keeps _ _ _)))

theorem State.allocOn_keeps (s : State) (c : Nat) {res} (h : State.allocOn s c = some res) : Keeps s res.2 := by
  unfold State.allocOn at h
  try dsimp only at h
  repeat' split at h
  all_goals first | contradiction | skip
  all_goals simp only [Option.some.injEq, Option.map_eq_some_iff] at h
  all_goals try (obtain ⟨_, _, h⟩ := h)
  all_goals try subst h
  all_goals repeat' (first | with_reducible exact Keeps.refl _ | with_reducible apply Keeps.trans _ (State.pressure_keeps _) | with_reducible apply Keeps.trans _ (State.takeFrame_keeps _ _ _))

theorem State.takeRun_keeps (s : State) (d : Draw) (c : Nat) (n : Nat) : Keeps s (State.takeRun s d c n).2 := by
  unfold State.takeRun
  try dsimp only
  repeat' (first | with_reducible exact Keeps.refl _ | with_reducible apply Keeps.trans _ (State.markUsed_keeps _ _ _ _) | with_reducible apply Keeps.trans _ (State.updMch_keeps _ _ _) | with_reducible apply Keeps.trans _ (State.advanceFree_keeps _) | with_reducible refine Keeps.ite (fun _ => ?_) (fun _ => ?_) | split | (with_reducible apply Keeps.lit; (on_goal 2 => with_reducible rfl); first | with_reducible exact Keeps.refl _ | with_reducible apply Keeps.trans _ (State.markUsed_keeps _ _ _ _) | with_reducible apply Keeps.trans _ (State.updMch_keeps _ _ _) | with_reducible apply Keeps.trans _ (State.advanceFree_keeps _) | with_reducible refine Keeps.ite (fun _ => ?_) (fun _ => ?_) | split))

theorem State.allocSherds_keeps (s : State) (p : Nat) (src : Option Nat) (n : Nat) {res} (h : State.allocSherds s p src n = some res) : Keeps s res.2.2 := by
  unfold State.allocSherds at h
  try dsimp only at h
  repeat' split at h
  all_goals first | contradiction | skip
  all_goals simp only [Option.some.injEq, Option.map_eq_some_iff] at h
  all_goals try (obtain ⟨_, _, h⟩ := h)
  all_goals try subst h
  all_goals repeat' (first | with_reducible exact Keeps.refl _ | with_reducible assumption | with_reducible apply Keeps.trans _ (State.pressure_keeps _) | with_reducible apply Keeps.trans _ (State.takeRun_keeps _ _ _ _) | with_reducible refine Keeps.ite (fun _ => ?_) (fun _ => ?_) | with_reducible refine Keeps.foldl ?_ (fun _ _ => ?_) | with_reducible refine Keeps.foldl_fst ?_ (fun _ _ => ?_) | with_reducible refine Keeps.foldl_snd ?_ (fun _ _ => ?_) | with_reducible apply Keeps.cond | with_reducible refine Keeps.getD ?_ (fun _ _ => ?_) | split | with_reducible refine Keeps.of_snd ‹_ = (_, _)› ?_ | (with_reducible apply Keeps.lit; (on_goal 2 => with_reducible rfl); first | with_reducible exact Keeps.refl _ | with_reducible assumption | with_reducible apply Keeps.trans _ (State.pressure_keeps _) | with_reducible apply Keeps.trans _ (State.takeRun_keeps _ _ _ _) | with_reducible refine Keeps.ite (fun _ => ?_) (fun _ => ?_) | with_reducible refine Keeps.foldl ?_ (fun _ _ => ?_) | with_reducible refine Keeps.foldl_fst ?_ (fun _ _ => ?_) | with_reducible refine Keeps.foldl_snd ?_ (fun _ _ => ?_) | with_reducible apply Keeps.cond | with_reducible refine Keeps.getD ?_ (fun _ _ => ?_) | split | with_reducible refine Keeps.of_snd ‹_ = (_, _)› ?_))

theorem State.freeUnitsOf_keeps (s : State) (c : Nat) (fr : Nat) (mask : Nat) : Keeps s (State.freeUnitsOf s c fr mask) := by
  unfold State.freeUnitsOf
  try dsimp only
  repeat' (first | with_reducible exact Keeps.refl _ | with_reducible apply Keeps.trans _ (State.updMch_keeps _ _ _) | with_reducible refine Keeps.ite (fun _ => ?_) (fun _ => ?_) | split | (with_reducible apply Keeps.lit; (on_goal 2 => with_reducible rfl); first | with_reducible exact Keeps.refl _ | with_reducible apply Keeps.trans _ (State.updMch_keeps _ _ _) | with_reducible refine Keeps.ite (fun _ => ?_) (fun _ => ?_) | split))

theorem State.releaseLease_keeps (s : State) (l : Nat) : Keeps s (State.releaseLease s l) := by
  unfold State.releaseLease
  try dsimp only
  repeat' (first | with_reducible exact Keeps.refl _ | with_reducible apply Keeps.trans _ (State.openOxn_keeps _ _ _) | with_reducible apply Keeps.trans _ (State.wr_keeps _ _ _) | with_reducible refine Keeps.ite (fun _ => ?_) (fun _ => ?_) | split | (with_reducible apply Keeps.lit; (on_goal 2 => with_reducible rfl); first | with_reducible exact Keeps.refl _ | with_reducible apply Keeps.trans _ (State.openOxn_keeps _ _ _) | with_reducible apply Keeps.trans _ (State.wr_keeps _ _ _) | with_reducible refine Keeps.ite (fun _ => ?_) (fun _ => ?_) | split))

theorem State.leaseEmptied_keeps (s : State) (l : Nat) : Keeps s (State.leaseEmptied s l) := by
  unfold State.leaseEmptied
  try dsimp only
  repeat' (first | with_reducible exact Keeps.refl _ | with_reducible apply Keeps.trans _ (State.releaseLease_keeps _ _) | with_reducible refine Keeps.ite (fun _ => ?_) (fun _ => ?_) | split | (with_reducible apply Keeps.lit; (on_goal 2 => with_reducible rfl); first | with_reducible exact Keeps.refl _ | with_reducible apply Keeps.trans _ (State.releaseLease_keeps _ _) | with_reducible refine Keeps.ite (fun _ => ?_) (fun _ => ?_) | split))

theorem State.freeForm_keeps (s : State) (f : PageForm) : Keeps s (State.freeForm s f) := by
  unfold State.freeForm
  try dsimp only
  repeat' (first | with_reducible exact Keeps.refl _ | with_reducible apply Keeps.trans _ (State.freeUnitsOf_keeps _ _ _ _) | with_reducible apply Keeps.trans _ (State.leaseEmptied_keeps _ _) | with_reducible apply Keeps.trans _ (State.pressure_keeps _) | with_reducible apply Keeps.trans _ (State.wr_keeps _ _ _) | with_reducible refine Keeps.ite (fun _ => ?_) (fun _ => ?_) | split | (with_reducible apply Keeps.lit; (on_goal 2 => with_reducible rfl); first | with_reducible exact Keeps.refl _ | with_reducible apply Keeps.trans _ (State.freeUnitsOf_keeps _ _ _ _) | with_reducible apply Keeps.trans _ (State.leaseEmptied_keeps _ _) | with_reducible apply Keeps.trans _ (State.pressure_keeps _) | with_reducible apply Keeps.trans _ (State.wr_keeps _ _ _) | with_reducible refine Keeps.ite (fun _ => ?_) (fun _ => ?_) | split))

theorem State.oxnNext_keeps (s : State) (g : Nat) : Keeps s (State.oxnNext s g) := by
  unfold State.oxnNext
  try dsimp only
  repeat' (first | with_reducible exact Keeps.refl _ | with_reducible assumption | with_reducible apply Keeps.trans _ (State.openOxn_keeps _ _ _) | with_reducible apply Keeps.trans _ (State.updGp_keeps _ _ _) | with_reducible refine Keeps.ite (fun _ => ?_) (fun _ => ?_) | with_reducible refine Keeps.foldl ?_ (fun _ _ => ?_) | with_reducible refine Keeps.foldl_fst ?_ (fun _ _ => ?_) | with_reducible refine Keeps.foldl_snd ?_ (fun _ _ => ?_) | with_reducible apply Keeps.cond | with_reducible refine Keeps.getD ?_ (fun _ _ => ?_) | split | (with_reducible apply Keeps.lit; (on_goal 2 => with_reducible rfl); first | with_reducible exact Keeps.refl _ | with_reducible assumption | with_reducible apply Keeps.trans _ (State.openOxn_keeps _ _ _) | with_reducible apply Keeps.trans _ (State.updGp_keeps _ _ _) | with_reducible refine Keeps.ite (fun _ => ?_) (fun _ => ?_) | with_reducible refine Keeps.foldl ?_ (fun _ _ => ?_) | with_reducible refine Keeps.foldl_fst ?_ (fun _ _ => ?_) | with_reducible refine Keeps.foldl_snd ?_ (fun _ _ => ?_) | with_reducible apply Keeps.cond | with_reducible refine Keeps.getD ?_ (fun _ _ => ?_) | split))

theorem State.queueRsp_keeps (s : State) (g : Nat) (m : GMsg) : Keeps s (State.queueRsp s g m) := by
  unfold State.queueRsp
  repeat' (first | with_reducible exact Keeps.refl _ | with_reducible apply Keeps.trans _ (State.updGp_keeps _ _ _))

theorem State.toUnwritten_keeps (s : State) (p : Nat) (pz : Bool) : Keeps s (State.toUnwritten s p pz) := by
  unfold State.toUnwritten
  repeat' (first | with_reducible exact Keeps.refl _ | with_reducible apply Keeps.trans _ (State.freeForm_keeps _ _) | with_reducible apply Keeps.trans _ (State.setForm_keeps _ _ _))

end Sys2Proof.Machine
end

