-- ==== Sys2Proof/Laws/KeepsQueue.lean ====
section
/-! SUPPORT. Every operation of Machine/Queue.lean keeps what `Keeps` says: one lemma for each. -/
namespace Sys2Proof.Machine
set_option linter.unreachableTactic false
set_option linter.unusedTactic false

theorem State.setOwed_keeps (s : State) (c : Nat) (sub : Nat) (lr : Nat) (b : Nat) (n : Int) : Keeps s (State.setOwed s c sub lr b n) := by
  unfold State.setOwed
  repeat' (first | with_reducible exact Keeps.refl _ | with_reducible apply Keeps.trans _ (State.updCh_keeps _ _ _))

theorem State.allOwed_keeps (s : State) (c : Nat) (lr : Nat) (f : Int → Int) : Keeps s (State.allOwed s c lr f) := by
  unfold State.allOwed
  try dsimp only
  repeat' (first | with_reducible exact Keeps.refl _ | with_reducible assumption | with_reducible apply Keeps.trans _ (State.setOwed_keeps _ _ _ _ _ _) | with_reducible refine Keeps.ite (fun _ => ?_) (fun _ => ?_) | with_reducible refine Keeps.foldl ?_ (fun _ _ => ?_) | split | (with_reducible apply Keeps.lit; (on_goal 2 => with_reducible rfl); first | with_reducible exact Keeps.refl _ | with_reducible assumption | with_reducible apply Keeps.trans _ (State.setOwed_keeps _ _ _ _ _ _) | with_reducible refine Keeps.ite (fun _ => ?_) (fun _ => ?_) | with_reducible refine Keeps.foldl ?_ (fun _ _ => ?_) | split))

theorem State.setRank_keeps (s : State) (c : Nat) (lr : Nat) (x : RankState) : Keeps s (State.setRank s c lr x) := by
  unfold State.setRank
  repeat' (first | with_reducible exact Keeps.refl _ | with_reducible apply Keeps.trans _ (State.updCh_keeps _ _ _) | with_reducible apply Keeps.trans _ (State.wrBit_keeps _ _ _ _))

theorem State.wakeRank_keeps (s : State) (c : Nat) (lr : Nat) : Keeps s (State.wakeRank s c lr) := by
  unfold State.wakeRank
  try dsimp only
  repeat' (first | with_reducible exact Keeps.refl _ | with_reducible apply Keeps.trans _ (State.allOwed_keeps _ _ _ _) | with_reducible apply Keeps.trans _ (State.setRank_keeps _ _ _ _) | with_reducible apply Keeps.trans _ (State.updCh_keeps _ _ _) | with_reducible refine Keeps.ite (fun _ => ?_) (fun _ => ?_) | split | (with_reducible apply Keeps.lit; (on_goal 2 => with_reducible rfl); first | with_reducible exact Keeps.refl _ | with_reducible apply Keeps.trans _ (State.allOwed_keeps _ _ _ _) | with_reducible apply Keeps.trans _ (State.setRank_keeps _ _ _ _) | with_reducible apply Keeps.trans _ (State.updCh_keeps _ _ _) | with_reducible refine Keeps.ite (fun _ => ?_) (fun _ => ?_) | split))

theorem State.enqueueWrite_keeps (s : State) (c : Nat) (l : Nat) (data : BitVec 512) (be : BitVec 64) (poison : Bool) : Keeps s (State.enqueueWrite s c l data be poison) := by
  unfold State.enqueueWrite
  try dsimp only
  repeat' (first | with_reducible exact Keeps.refl _ | with_reducible apply Keeps.trans _ (State.updCh_keeps _ _ _) | with_reducible apply Keeps.trans _ (State.wakeRank_keeps _ _ _) | with_reducible refine Keeps.ite (fun _ => ?_) (fun _ => ?_) | split | (with_reducible apply Keeps.lit; (on_goal 2 => with_reducible rfl); first | with_reducible exact Keeps.refl _ | with_reducible apply Keeps.trans _ (State.updCh_keeps _ _ _) | with_reducible apply Keeps.trans _ (State.wakeRank_keeps _ _ _) | with_reducible refine Keeps.ite (fun _ => ?_) (fun _ => ?_) | split))

theorem State.storeLines_keeps (s : State) (c : Nat) (first : Nat) (xs : List Line) : Keeps s (State.storeLines s c first xs) := by
  unfold State.storeLines
  try dsimp only
  repeat' (first | with_reducible exact Keeps.refl _ | with_reducible assumption | with_reducible apply Keeps.trans _ (State.enqueueWrite_keeps _ _ _ _ _ _) | with_reducible apply Keeps.trans _ (State.updCh_keeps _ _ _) | with_reducible refine Keeps.ite (fun _ => ?_) (fun _ => ?_) | with_reducible refine Keeps.foldl ?_ (fun _ _ => ?_) | split | (with_reducible apply Keeps.lit; (on_goal 2 => with_reducible rfl); first | with_reducible exact Keeps.refl _ | with_reducible assumption | with_reducible apply Keeps.trans _ (State.enqueueWrite_keeps _ _ _ _ _ _) | with_reducible apply Keeps.trans _ (State.updCh_keeps _ _ _) | with_reducible refine Keeps.ite (fun _ => ?_) (fun _ => ?_) | with_reducible refine Keeps.foldl ?_ (fun _ _ => ?_) | split))

theorem State.wqT0_keeps (s : State) (c : Nat) (l : Nat) (w : WcbLine) : Keeps s (State.wqT0 s c l w) := by
  unfold State.wqT0
  try dsimp only
  repeat' (first | with_reducible exact Keeps.refl _ | with_reducible assumption | with_reducible apply Keeps.trans _ (State.updCh_keeps _ _ _) | with_reducible refine Keeps.ite (fun _ => ?_) (fun _ => ?_) | with_reducible refine Keeps.foldl ?_ (fun _ _ => ?_) | with_reducible refine Keeps.foldl_fst ?_ (fun _ _ => ?_) | with_reducible refine Keeps.foldl_snd ?_ (fun _ _ => ?_) | with_reducible apply Keeps.cond | with_reducible refine Keeps.getD ?_ (fun _ _ => ?_) | split | (with_reducible apply Keeps.lit; (on_goal 2 => with_reducible rfl); first | with_reducible exact Keeps.refl _ | with_reducible assumption | with_reducible apply Keeps.trans _ (State.updCh_keeps _ _ _) | with_reducible refine Keeps.ite (fun _ => ?_) (fun _ => ?_) | with_reducible refine Keeps.foldl ?_ (fun _ _ => ?_) | with_reducible refine Keeps.foldl_fst ?_ (fun _ _ => ?_) | with_reducible refine Keeps.foldl_snd ?_ (fun _ _ => ?_) | with_reducible apply Keeps.cond | with_reducible refine Keeps.getD ?_ (fun _ _ => ?_) | split))

end Sys2Proof.Machine
end

