-- ==== Sys2Proof/Laws/KeepsGuard.lean ====
section
/-! SUPPORT. Every operation of Machine/Guard.lean keeps what `Keeps` says: one lemma for each. -/
namespace Sys2Proof.Machine
set_option linter.unreachableTactic false
set_option linter.unusedTactic false

theorem State.cache_keeps (s : State) (space : Bool) (level : Nat) (node : Nat) (b : BitVec 512) (dirty : Bool) : Keeps s (State.cache s space level node b dirty) := by
  unfold State.cache
  repeat' (first | with_reducible exact Keeps.refl _ | (with_reducible apply Keeps.lit; (on_goal 2 => with_reducible rfl); first | with_reducible exact Keeps.refl _))

theorem State.recordLoss_keeps (s : State) (space : Bool) (kind : Nat) (start : Nat) : Keeps s (State.recordLoss s space kind start) := by
  unfold State.recordLoss
  try dsimp only
  repeat' (first | with_reducible exact Keeps.refl _ | with_reducible apply Keeps.trans _ (State.raise_keeps _ _ _ _) | with_reducible apply Keeps.trans _ (State.setDword_keeps _ _ _) | with_reducible apply Keeps.trans _ (State.setFlag_keeps _ _ _) | with_reducible refine Keeps.ite (fun _ => ?_) (fun _ => ?_) | split | (with_reducible apply Keeps.lit; (on_goal 2 => with_reducible rfl); first | with_reducible exact Keeps.refl _ | with_reducible apply Keeps.trans _ (State.raise_keeps _ _ _ _) | with_reducible apply Keeps.trans _ (State.setDword_keeps _ _ _) | with_reducible apply Keeps.trans _ (State.setFlag_keeps _ _ _) | with_reducible refine Keeps.ite (fun _ => ?_) (fun _ => ?_) | split))

theorem State.checkTags_keeps (s : State) (p : Nat) (u : Nat) : Keeps s (State.checkTags s p u) := by
  unfold State.checkTags
  try dsimp only
  repeat' (first | with_reducible exact Keeps.refl _ | with_reducible apply Keeps.trans _ (State.recordLoss_keeps _ _ _ _) | with_reducible refine Keeps.ite (fun _ => ?_) (fun _ => ?_) | split | (with_reducible apply Keeps.lit; (on_goal 2 => with_reducible rfl); first | with_reducible exact Keeps.refl _ | with_reducible apply Keeps.trans _ (State.recordLoss_keeps _ _ _ _) | with_reducible refine Keeps.ite (fun _ => ?_) (fun _ => ?_) | split))

theorem State.checkPageTags_keeps (s : State) (p : Nat) : Keeps s (State.checkPageTags s p) := by
  unfold State.checkPageTags
  try dsimp only
  repeat' (first | with_reducible exact Keeps.refl _ | with_reducible assumption | with_reducible apply Keeps.trans _ (State.checkTags_keeps _ _ _) | with_reducible refine Keeps.ite (fun _ => ?_) (fun _ => ?_) | with_reducible refine Keeps.foldl ?_ (fun _ _ => ?_) | split | (with_reducible apply Keeps.lit; (on_goal 2 => with_reducible rfl); first | with_reducible exact Keeps.refl _ | with_reducible assumption | with_reducible apply Keeps.trans _ (State.checkTags_keeps _ _ _) | with_reducible refine Keeps.ite (fun _ => ?_) (fun _ => ?_) | with_reducible refine Keeps.foldl ?_ (fun _ _ => ?_) | split))

theorem State.metaDue_keeps (s : State) (k : MetaKind) (n : Nat) : Keeps s (State.metaDue s k n) := by
  unfold State.metaDue
  try dsimp only
  repeat' (first | with_reducible exact Keeps.refl _ | with_reducible assumption | with_reducible refine Keeps.ite (fun _ => ?_) (fun _ => ?_) | with_reducible refine Keeps.foldl ?_ (fun _ _ => ?_) | with_reducible refine Keeps.foldl_fst ?_ (fun _ _ => ?_) | with_reducible refine Keeps.foldl_snd ?_ (fun _ _ => ?_) | with_reducible apply Keeps.cond | with_reducible refine Keeps.getD ?_ (fun _ _ => ?_) | split | (with_reducible apply Keeps.lit; (on_goal 2 => with_reducible rfl); first | with_reducible exact Keeps.refl _ | with_reducible assumption | with_reducible refine Keeps.ite (fun _ => ?_) (fun _ => ?_) | with_reducible refine Keeps.foldl ?_ (fun _ _ => ?_) | with_reducible refine Keeps.foldl_fst ?_ (fun _ _ => ?_) | with_reducible refine Keeps.foldl_snd ?_ (fun _ _ => ?_) | with_reducible apply Keeps.cond | with_reducible refine Keeps.getD ?_ (fun _ _ => ?_) | split))

theorem State.putTag_keeps (s : State) (level : Nat) (node : Nat) (t : BitVec 64) : Keeps s (State.putTag s level node t) := by
  unfold State.putTag
  try dsimp only
  repeat' (first | with_reducible exact Keeps.refl _ | with_reducible assumption | with_reducible apply Keeps.trans _ (State.metaDue_keeps _ _ _) | with_reducible refine Keeps.ite (fun _ => ?_) (fun _ => ?_) | with_reducible refine Keeps.foldl ?_ (fun _ _ => ?_) | with_reducible refine Keeps.foldl_fst ?_ (fun _ _ => ?_) | with_reducible refine Keeps.foldl_snd ?_ (fun _ _ => ?_) | with_reducible apply Keeps.cond | with_reducible refine Keeps.getD ?_ (fun _ _ => ?_) | split | (with_reducible apply Keeps.lit; (on_goal 2 => with_reducible rfl); first | with_reducible exact Keeps.refl _ | with_reducible assumption | with_reducible apply Keeps.trans _ (State.metaDue_keeps _ _ _) | with_reducible refine Keeps.ite (fun _ => ?_) (fun _ => ?_) | with_reducible refine Keeps.foldl ?_ (fun _ _ => ?_) | with_reducible refine Keeps.foldl_fst ?_ (fun _ _ => ?_) | with_reducible refine Keeps.foldl_snd ?_ (fun _ _ => ?_) | with_reducible apply Keeps.cond | with_reducible refine Keeps.getD ?_ (fun _ _ => ?_) | split))

theorem State.store_keeps (s : State) (space : Bool) (level : Nat) (node : Nat) (b : BitVec 512) : Keeps s (State.store s space level node b) := by
  unfold State.store
  try dsimp only
  repeat' (first | with_reducible exact Keeps.refl _ | with_reducible assumption | with_reducible apply Keeps.trans _ (State.metaDue_keeps _ _ _) | with_reducible refine Keeps.ite (fun _ => ?_) (fun _ => ?_) | with_reducible refine Keeps.foldl ?_ (fun _ _ => ?_) | with_reducible refine Keeps.foldl_fst ?_ (fun _ _ => ?_) | with_reducible refine Keeps.foldl_snd ?_ (fun _ _ => ?_) | with_reducible apply Keeps.cond | with_reducible refine Keeps.getD ?_ (fun _ _ => ?_) | split | (with_reducible apply Keeps.lit; (on_goal 2 => with_reducible rfl); first | with_reducible exact Keeps.refl _ | with_reducible assumption | with_reducible apply Keeps.trans _ (State.metaDue_keeps _ _ _) | with_reducible refine Keeps.ite (fun _ => ?_) (fun _ => ?_) | with_reducible refine Keeps.foldl ?_ (fun _ _ => ?_) | with_reducible refine Keeps.foldl_fst ?_ (fun _ _ => ?_) | with_reducible refine Keeps.foldl_snd ?_ (fun _ _ => ?_) | with_reducible apply Keeps.cond | with_reducible refine Keeps.getD ?_ (fun _ _ => ?_) | split))

theorem State.fetchNode_keeps (s : State) (level : Nat) (node : Nat) : Keeps s (State.fetchNode s level node).1 := by
  unfold State.fetchNode
  try dsimp only
  repeat' (first | with_reducible exact Keeps.refl _ | with_reducible apply Keeps.trans _ (State.cache_keeps _ _ _ _ _ _) | with_reducible apply Keeps.trans _ (State.cnt_keeps _ _ _ _) | with_reducible apply Keeps.trans _ (State.putTag_keeps _ _ _ _) | with_reducible apply Keeps.trans _ (State.recordLoss_keeps _ _ _ _) | with_reducible apply Keeps.trans _ (State.stn_keeps _ _ _ _) | with_reducible apply Keeps.trans _ (State.store_keeps _ _ _ _ _) | with_reducible refine Keeps.ite (fun _ => ?_) (fun _ => ?_) | split | (with_reducible apply Keeps.lit; (on_goal 2 => with_reducible rfl); first | with_reducible exact Keeps.refl _ | with_reducible apply Keeps.trans _ (State.cache_keeps _ _ _ _ _ _) | with_reducible apply Keeps.trans _ (State.cnt_keeps _ _ _ _) | with_reducible apply Keeps.trans _ (State.putTag_keeps _ _ _ _) | with_reducible apply Keeps.trans _ (State.recordLoss_keeps _ _ _ _) | with_reducible apply Keeps.trans _ (State.stn_keeps _ _ _ _) | with_reducible apply Keeps.trans _ (State.store_keeps _ _ _ _ _) | with_reducible refine Keeps.ite (fun _ => ?_) (fun _ => ?_) | split))

theorem State.fetchDown_keeps (s : State) (q : Nat) (levels : List Nat) : Keeps s (State.fetchDown s q levels).1 := by
  induction levels generalizing s with
  | nil => exact Keeps.refl _
  | cons l r ih =>
    have h := State.fetchNode_keeps s l (q / 64 ^ l)
    unfold State.fetchDown
    split
    · rename_i t heq; rw [heq] at h; exact h.trans (ih t)
    · rename_i t heq; rw [heq] at h; exact h

theorem State.fetchCtr_keeps (s : State) (space : Bool) (q : Nat) : Keeps s (State.fetchCtr s space q).1 := by
  unfold State.fetchCtr
  try dsimp only
  repeat' (first | with_reducible exact Keeps.refl _ | with_reducible assumption | with_reducible apply Keeps.trans _ (State.cache_keeps _ _ _ _ _ _) | with_reducible apply Keeps.trans _ (State.fetchDown_keeps _ _ _) | with_reducible apply Keeps.trans _ (State.recordLoss_keeps _ _ _ _) | with_reducible refine Keeps.ite (fun _ => ?_) (fun _ => ?_) | with_reducible refine Keeps.foldl ?_ (fun _ _ => ?_) | with_reducible refine Keeps.foldl_fst ?_ (fun _ _ => ?_) | with_reducible refine Keeps.foldl_snd ?_ (fun _ _ => ?_) | with_reducible apply Keeps.cond | with_reducible refine Keeps.getD ?_ (fun _ _ => ?_) | split | with_reducible refine Keeps.of_fst ‹_ = (_, _)› ?_ | (with_reducible apply Keeps.lit; (on_goal 2 => with_reducible rfl); first | with_reducible exact Keeps.refl _ | with_reducible assumption | with_reducible apply Keeps.trans _ (State.cache_keeps _ _ _ _ _ _) | with_reducible apply Keeps.trans _ (State.fetchDown_keeps _ _ _) | with_reducible apply Keeps.trans _ (State.recordLoss_keeps _ _ _ _) | with_reducible refine Keeps.ite (fun _ => ?_) (fun _ => ?_) | with_reducible refine Keeps.foldl ?_ (fun _ _ => ?_) | with_reducible refine Keeps.foldl_fst ?_ (fun _ _ => ?_) | with_reducible refine Keeps.foldl_snd ?_ (fun _ _ => ?_) | with_reducible apply Keeps.cond | with_reducible refine Keeps.getD ?_ (fun _ _ => ?_) | split | with_reducible refine Keeps.of_fst ‹_ = (_, _)› ?_))

theorem State.makeReadonly_keeps (s : State) (i : Nat) : Keeps s (State.makeReadonly s i) := by
  unfold State.makeReadonly
  try dsimp only
  repeat' (first | with_reducible exact Keeps.refl _ | with_reducible apply Keeps.trans _ (State.raise_keeps _ _ _ _) | with_reducible apply Keeps.trans _ (State.updRegion_keeps _ _ _) | with_reducible refine Keeps.ite (fun _ => ?_) (fun _ => ?_) | split | (with_reducible apply Keeps.lit; (on_goal 2 => with_reducible rfl); first | with_reducible exact Keeps.refl _ | with_reducible apply Keeps.trans _ (State.raise_keeps _ _ _ _) | with_reducible apply Keeps.trans _ (State.updRegion_keeps _ _ _) | with_reducible refine Keeps.ite (fun _ => ?_) (fun _ => ?_) | split))

theorem State.putLineTag_keeps (s : State) (g : Guard) (i : Nat) (t : BitVec 64) : Keeps s (State.putLineTag s g i t) := by
  unfold State.putLineTag
  repeat' (first | with_reducible exact Keeps.refl _ | with_reducible apply Keeps.trans _ (State.metaDue_keeps _ _ _) | (with_reducible apply Keeps.lit; (on_goal 2 => with_reducible rfl); first | with_reducible exact Keeps.refl _ | with_reducible apply Keeps.trans _ (State.metaDue_keeps _ _ _)))

theorem State.sealWith_keeps (s : State) (g : Guard) (i : Nat) (use : Nat) (minor : Nat) (major : Nat) (addr : Nat) (x : Line) : Keeps s (State.sealWith s g i use minor major addr x).2 := by
  unfold State.sealWith
  repeat' (first | with_reducible exact Keeps.refl _ | with_reducible apply Keeps.trans _ (State.putLineTag_keeps _ _ _ _))

theorem State.sealAll_keeps (s : State) (g : Guard) (use : Nat) (minor : Nat → Nat) (major p i : Nat) (xs : List Line) :
    Keeps s (State.sealAll s g use minor major p i xs).2 := by
  induction xs generalizing s i with
  | nil => exact Keeps.refl _
  | cons x r ih =>
    unfold State.sealAll
    exact (State.sealWith_keeps s g i use (minor i) major (p * 64 + i) x).trans (ih _ _)

theorem State.sealLine_keeps (s : State) (g : Guard) (p : Nat) (i : Nat) (b : BitVec 512) (x : Line) : Keeps s (State.sealLine s g p i b x).2 := by
  unfold State.sealLine
  repeat' (first | with_reducible exact Keeps.refl _ | with_reducible apply Keeps.trans _ (State.sealWith_keeps _ _ _ _ _ _ _ _))

theorem State.setCtr_keeps (s : State) (g : Guard) (b : BitVec 512) : Keeps s (State.setCtr s g b) := by
  unfold State.setCtr
  repeat' (first | with_reducible exact Keeps.refl _ | with_reducible apply Keeps.trans _ (State.cache_keeps _ _ _ _ _ _))

theorem State.setRoot_keeps (s : State) (r : Nat) (b : BitVec 512) : Keeps s (State.setRoot s r b) := by
  unfold State.setRoot
  repeat' (first | with_reducible exact Keeps.refl _ | (with_reducible apply Keeps.lit; (on_goal 2 => with_reducible rfl); first | with_reducible exact Keeps.refl _))

theorem State.storeFrame_keeps (s : State) (p : Nat) (c : Nat) (fr : Nat) (x4 : Option Guard) (b : BitVec 512) (xs : List Line) : Keeps s (State.storeFrame s p c fr x4 b xs) := by
  unfold State.storeFrame
  try dsimp only
  repeat' (first | with_reducible exact Keeps.refl _ | with_reducible apply Keeps.trans _ (State.sealAll_keeps _ _ _ _ _ _ _ _) | with_reducible apply Keeps.trans _ (State.setCtr_keeps _ _ _) | with_reducible apply Keeps.trans _ (State.storeLines_keeps _ _ _ _) | with_reducible refine Keeps.ite (fun _ => ?_) (fun _ => ?_) | split | with_reducible refine Keeps.of_snd ‹_ = (_, _)› ?_ | (with_reducible apply Keeps.lit; (on_goal 2 => with_reducible rfl); first | with_reducible exact Keeps.refl _ | with_reducible apply Keeps.trans _ (State.sealAll_keeps _ _ _ _ _ _ _ _) | with_reducible apply Keeps.trans _ (State.setCtr_keeps _ _ _) | with_reducible apply Keeps.trans _ (State.storeLines_keeps _ _ _ _) | with_reducible refine Keeps.ite (fun _ => ?_) (fun _ => ?_) | split | with_reducible refine Keeps.of_snd ‹_ = (_, _)› ?_))

theorem State.tagFail_keeps (s : State) (line : Nat) (cls : SecClass) (sherd : Bool) : Keeps s (State.tagFail s line cls sherd) := by
  unfold State.tagFail
  repeat' (first | with_reducible exact Keeps.refl _ | with_reducible apply Keeps.trans _ (State.cnt_keeps _ _ _ _) | with_reducible apply Keeps.trans _ (State.raise_keeps _ _ _ _) | with_reducible apply Keeps.trans _ (State.sat_keeps _ _ _) | with_reducible apply Keeps.trans _ (State.setFlag_keeps _ _ _) | with_reducible apply Keeps.trans _ (State.stn_keeps _ _ _ _) | with_reducible apply Keeps.trans _ (State.wr_keeps _ _ _))

theorem State.updKey_keeps (s : State) (k : Nat) (f : KeySlot → KeySlot) : Keeps s (State.updKey s k f) := by
  unfold State.updKey
  repeat' (first | with_reducible exact Keeps.refl _ | (with_reducible apply Keeps.lit; (on_goal 2 => with_reducible rfl); first | with_reducible exact Keeps.refl _))

end Sys2Proof.Machine
end

