-- ==== Sys2Proof/Laws/KeepsTraffic.lean ====
section
/-! SUPPORT. Every operation of Machine/Traffic.lean keeps what `Keeps` says: one lemma for each. -/
namespace Sys2Proof.Machine
set_option linter.unreachableTactic false
set_option linter.unusedTactic false

theorem State.account_keeps (s : State) (q : Req) : Keeps s (State.account s q) := by
  unfold State.account
  try dsimp only
  repeat' (first | with_reducible exact Keeps.refl _ | with_reducible apply Keeps.trans _ (State.sat_keeps _ _ _) | with_reducible apply Keeps.trans _ (State.updAcct_keeps _ _ _) | with_reducible refine Keeps.ite (fun _ => ?_) (fun _ => ?_) | split | (with_reducible apply Keeps.lit; (on_goal 2 => with_reducible rfl); first | with_reducible exact Keeps.refl _ | with_reducible apply Keeps.trans _ (State.sat_keeps _ _ _) | with_reducible apply Keeps.trans _ (State.updAcct_keeps _ _ _) | with_reducible refine Keeps.ite (fun _ => ?_) (fun _ => ?_) | split))

theorem State.accountHead_keeps (s : State) (q : Req) (h : Nat) : Keeps s (State.accountHead s q h) := by
  unfold State.accountHead
  try dsimp only
  repeat' (first | with_reducible exact Keeps.refl _ | with_reducible assumption | with_reducible apply Keeps.trans _ (State.account_keeps _ _) | with_reducible apply Keeps.trans _ (State.cnt_keeps _ _ _ _) | with_reducible apply Keeps.trans _ (State.ldCnt_keeps _ _ _ _) | with_reducible refine Keeps.ite (fun _ => ?_) (fun _ => ?_) | with_reducible refine Keeps.foldl ?_ (fun _ _ => ?_) | with_reducible refine Keeps.foldl_fst ?_ (fun _ _ => ?_) | with_reducible refine Keeps.foldl_snd ?_ (fun _ _ => ?_) | with_reducible apply Keeps.cond | with_reducible refine Keeps.getD ?_ (fun _ _ => ?_) | split | (with_reducible apply Keeps.lit; (on_goal 2 => with_reducible rfl); first | with_reducible exact Keeps.refl _ | with_reducible assumption | with_reducible apply Keeps.trans _ (State.account_keeps _ _) | with_reducible apply Keeps.trans _ (State.cnt_keeps _ _ _ _) | with_reducible apply Keeps.trans _ (State.ldCnt_keeps _ _ _ _) | with_reducible refine Keeps.ite (fun _ => ?_) (fun _ => ?_) | with_reducible refine Keeps.foldl ?_ (fun _ _ => ?_) | with_reducible refine Keeps.foldl_fst ?_ (fun _ _ => ?_) | with_reducible refine Keeps.foldl_snd ?_ (fun _ _ => ?_) | with_reducible apply Keeps.cond | with_reducible refine Keeps.getD ?_ (fun _ _ => ?_) | split))

theorem State.launch_keeps (s : State) (g : Nat) (x : PeerReq) : Keeps s (State.launch s g x) := by
  unfold State.launch
  try dsimp only
  repeat' (first | with_reducible exact Keeps.refl _ | with_reducible assumption | with_reducible apply Keeps.trans _ (State.queueReq_keeps _ _ _) | with_reducible apply Keeps.trans _ (State.updGp_keeps _ _ _) | with_reducible refine Keeps.ite (fun _ => ?_) (fun _ => ?_) | with_reducible refine Keeps.foldl ?_ (fun _ _ => ?_) | with_reducible refine Keeps.foldl_fst ?_ (fun _ _ => ?_) | with_reducible refine Keeps.foldl_snd ?_ (fun _ _ => ?_) | with_reducible apply Keeps.cond | with_reducible refine Keeps.getD ?_ (fun _ _ => ?_) | split | (with_reducible apply Keeps.lit; (on_goal 2 => with_reducible rfl); first | with_reducible exact Keeps.refl _ | with_reducible assumption | with_reducible apply Keeps.trans _ (State.queueReq_keeps _ _ _) | with_reducible apply Keeps.trans _ (State.updGp_keeps _ _ _) | with_reducible refine Keeps.ite (fun _ => ?_) (fun _ => ?_) | with_reducible refine Keeps.foldl ?_ (fun _ _ => ?_) | with_reducible refine Keeps.foldl_fst ?_ (fun _ _ => ?_) | with_reducible refine Keeps.foldl_snd ?_ (fun _ _ => ?_) | with_reducible apply Keeps.cond | with_reducible refine Keeps.getD ?_ (fun _ _ => ?_) | split))

theorem State.answered_keeps (s : State) (g : Nat) (tag : Nat) : Keeps s (State.answered s g tag) := by
  unfold State.answered
  try dsimp only
  repeat' (first | with_reducible exact Keeps.refl _ | with_reducible assumption | with_reducible apply Keeps.trans _ (State.launch_keeps _ _ _) | with_reducible apply Keeps.trans _ (State.updGp_keeps _ _ _) | with_reducible refine Keeps.ite (fun _ => ?_) (fun _ => ?_) | with_reducible refine Keeps.foldl ?_ (fun _ _ => ?_) | with_reducible refine Keeps.foldl_fst ?_ (fun _ _ => ?_) | with_reducible refine Keeps.foldl_snd ?_ (fun _ _ => ?_) | with_reducible apply Keeps.cond | with_reducible refine Keeps.getD ?_ (fun _ _ => ?_) | split | (with_reducible apply Keeps.lit; (on_goal 2 => with_reducible rfl); first | with_reducible exact Keeps.refl _ | with_reducible assumption | with_reducible apply Keeps.trans _ (State.launch_keeps _ _ _) | with_reducible apply Keeps.trans _ (State.updGp_keeps _ _ _) | with_reducible refine Keeps.ite (fun _ => ?_) (fun _ => ?_) | with_reducible refine Keeps.foldl ?_ (fun _ _ => ?_) | with_reducible refine Keeps.foldl_fst ?_ (fun _ _ => ?_) | with_reducible refine Keeps.foldl_snd ?_ (fun _ _ => ?_) | with_reducible apply Keeps.cond | with_reducible refine Keeps.getD ?_ (fun _ _ => ?_) | split))

theorem State.countDiscard_keeps (s : State) (h : Nat) (ld : Nat) (slice : Nat) (line : Nat) (code : Nat) (cls : Option Nat) : Keeps s (State.countDiscard s h ld slice line code cls) := by
  unfold State.countDiscard
  try dsimp only
  repeat' (first | with_reducible exact Keeps.refl _ | with_reducible assumption | with_reducible apply Keeps.trans _ (State.cnt_keeps _ _ _ _) | with_reducible apply Keeps.trans _ (State.raise_keeps _ _ _ _) | with_reducible apply Keeps.trans _ (State.sat_keeps _ _ _) | with_reducible apply Keeps.trans _ (State.stn_keeps _ _ _ _) | with_reducible apply Keeps.trans _ (State.wr_keeps _ _ _) | with_reducible refine Keeps.ite (fun _ => ?_) (fun _ => ?_) | with_reducible refine Keeps.foldl ?_ (fun _ _ => ?_) | with_reducible refine Keeps.foldl_fst ?_ (fun _ _ => ?_) | with_reducible refine Keeps.foldl_snd ?_ (fun _ _ => ?_) | with_reducible apply Keeps.cond | with_reducible refine Keeps.getD ?_ (fun _ _ => ?_) | split | (with_reducible apply Keeps.lit; (on_goal 2 => with_reducible rfl); first | with_reducible exact Keeps.refl _ | with_reducible assumption | with_reducible apply Keeps.trans _ (State.cnt_keeps _ _ _ _) | with_reducible apply Keeps.trans _ (State.raise_keeps _ _ _ _) | with_reducible apply Keeps.trans _ (State.sat_keeps _ _ _) | with_reducible apply Keeps.trans _ (State.stn_keeps _ _ _ _) | with_reducible apply Keeps.trans _ (State.wr_keeps _ _ _) | with_reducible refine Keeps.ite (fun _ => ?_) (fun _ => ?_) | with_reducible refine Keeps.foldl ?_ (fun _ _ => ?_) | with_reducible refine Keeps.foldl_fst ?_ (fun _ _ => ?_) | with_reducible refine Keeps.foldl_snd ?_ (fun _ _ => ?_) | with_reducible apply Keeps.cond | with_reducible refine Keeps.getD ?_ (fun _ _ => ?_) | split))

theorem State.countEnd_keeps (s : State) (q : Req) (h : Nat) (f : Ending) : Keeps s (State.countEnd s q h f) := by
  unfold State.countEnd
  try dsimp only
  repeat' (first | with_reducible exact Keeps.refl _ | with_reducible apply Keeps.trans _ (State.cnt_keeps _ _ _ _) | with_reducible apply Keeps.trans _ (State.ldCnt_keeps _ _ _ _) | with_reducible refine Keeps.ite (fun _ => ?_) (fun _ => ?_) | split | (with_reducible apply Keeps.lit; (on_goal 2 => with_reducible rfl); first | with_reducible exact Keeps.refl _ | with_reducible apply Keeps.trans _ (State.cnt_keeps _ _ _ _) | with_reducible apply Keeps.trans _ (State.ldCnt_keeps _ _ _ _) | with_reducible refine Keeps.ite (fun _ => ?_) (fun _ => ?_) | split))

theorem State.countRead_keeps (s : State) (t : Txn) : Keeps s (State.countRead s t).1 := by
  unfold State.countRead
  try dsimp only
  repeat' (first | with_reducible exact Keeps.refl _ | with_reducible assumption | with_reducible apply Keeps.trans _ (State.cnt_keeps _ _ _ _) | with_reducible refine Keeps.ite (fun _ => ?_) (fun _ => ?_) | with_reducible refine Keeps.foldl ?_ (fun _ _ => ?_) | with_reducible refine Keeps.foldl_fst ?_ (fun _ _ => ?_) | with_reducible refine Keeps.foldl_snd ?_ (fun _ _ => ?_) | with_reducible apply Keeps.cond | with_reducible refine Keeps.getD ?_ (fun _ _ => ?_) | split | (with_reducible apply Keeps.lit; (on_goal 2 => with_reducible rfl); first | with_reducible exact Keeps.refl _ | with_reducible assumption | with_reducible apply Keeps.trans _ (State.cnt_keeps _ _ _ _) | with_reducible refine Keeps.ite (fun _ => ?_) (fun _ => ?_) | with_reducible refine Keeps.foldl ?_ (fun _ _ => ?_) | with_reducible refine Keeps.foldl_fst ?_ (fun _ _ => ?_) | with_reducible refine Keeps.foldl_snd ?_ (fun _ _ => ?_) | with_reducible apply Keeps.cond | with_reducible refine Keeps.getD ?_ (fun _ _ => ?_) | split))

theorem State.dropTxn_keeps (s : State) (id : Nat) : Keeps s (State.dropTxn s id) := by
  unfold State.dropTxn
  repeat' (first | with_reducible exact Keeps.refl _ | (with_reducible apply Keeps.lit; (on_goal 2 => with_reducible rfl); first | with_reducible exact Keeps.refl _))

theorem State.putRecord_keeps (s : State) (e : Nat) (rec : Nat) : Keeps s (State.putRecord s e rec) := by
  unfold State.putRecord
  try dsimp only
  repeat' (first | with_reducible exact Keeps.refl _ | with_reducible assumption | with_reducible apply Keeps.trans _ (State.setWord_keeps _ _ _) | with_reducible refine Keeps.ite (fun _ => ?_) (fun _ => ?_) | with_reducible refine Keeps.foldl ?_ (fun _ _ => ?_) | split | (with_reducible apply Keeps.lit; (on_goal 2 => with_reducible rfl); first | with_reducible exact Keeps.refl _ | with_reducible assumption | with_reducible apply Keeps.trans _ (State.setWord_keeps _ _ _) | with_reducible refine Keeps.ite (fun _ => ?_) (fun _ => ?_) | with_reducible refine Keeps.foldl ?_ (fun _ _ => ?_) | split))

theorem State.sample_keeps (s : State) (t : Txn) (h : Nat) (f : Ending) : Keeps s (State.sample s t h f) := by
  unfold State.sample
  try dsimp only
  repeat' (first | with_reducible exact Keeps.refl _ | with_reducible apply Keeps.trans _ (State.inc_keeps _ _ _) | with_reducible apply Keeps.trans _ (State.putRecord_keeps _ _ _) | with_reducible apply Keeps.trans _ (State.setFlag_keeps _ _ _) | with_reducible apply Keeps.trans _ (State.wr_keeps _ _ _) | with_reducible refine Keeps.ite (fun _ => ?_) (fun _ => ?_) | split | (with_reducible apply Keeps.lit; (on_goal 2 => with_reducible rfl); first | with_reducible exact Keeps.refl _ | with_reducible apply Keeps.trans _ (State.inc_keeps _ _ _) | with_reducible apply Keeps.trans _ (State.putRecord_keeps _ _ _) | with_reducible apply Keeps.trans _ (State.setFlag_keeps _ _ _) | with_reducible apply Keeps.trans _ (State.wr_keeps _ _ _) | with_reducible refine Keeps.ite (fun _ => ?_) (fun _ => ?_) | split))

theorem State.egress_keeps (s : State) (t : Txn) (h : Nat) (f : Ending) : Keeps s (State.egress s t h f) := by
  unfold State.egress
  try dsimp only
  repeat' (first | with_reducible exact Keeps.refl _ | with_reducible apply Keeps.trans _ (State.accountHead_keeps _ _ _) | with_reducible apply Keeps.trans _ (State.countEnd_keeps _ _ _ _) | with_reducible apply Keeps.trans _ (State.sample_keeps _ _ _ _) | with_reducible apply Keeps.trans _ (State.wakeLink_keeps _ _) | with_reducible apply Keeps.trans _ (State.emit_keeps _ _) | with_reducible refine Keeps.ite (fun _ => ?_) (fun _ => ?_) | split | (with_reducible apply Keeps.lit; (on_goal 2 => with_reducible rfl); first | with_reducible exact Keeps.refl _ | with_reducible apply Keeps.trans _ (State.accountHead_keeps _ _ _) | with_reducible apply Keeps.trans _ (State.countEnd_keeps _ _ _ _) | with_reducible apply Keeps.trans _ (State.sample_keeps _ _ _ _) | with_reducible apply Keeps.trans _ (State.wakeLink_keeps _ _) | with_reducible apply Keeps.trans _ (State.emit_keeps _ _) | with_reducible refine Keeps.ite (fun _ => ?_) (fun _ => ?_) | split))

theorem State.fenceSees_keeps (s : State) (q : Req) : Keeps s (State.fenceSees s q) := by
  unfold State.fenceSees
  try dsimp only
  repeat' (first | with_reducible exact Keeps.refl _ | with_reducible refine Keeps.ite (fun _ => ?_) (fun _ => ?_) | split | (with_reducible apply Keeps.lit; (on_goal 2 => with_reducible rfl); first | with_reducible exact Keeps.refl _ | with_reducible refine Keeps.ite (fun _ => ?_) (fun _ => ?_) | split))

theorem State.listAdd_keeps {α : Type} (s : State) (get : Place → Tbl (List α)) (set : Place → Tbl (List α) → Place) (isIt : α → Bool) (x : α) (p : Nat) :
    Keeps s (State.listAdd s get set isIt x p) := by
  unfold State.listAdd
  try dsimp only
  exact Keeps.ite (fun _ => Keeps.refl _) (fun _ => Keeps.ite (fun _ => State.setFlag_keeps _ _ _) (fun _ => Keeps.lit (Keeps.refl _) rfl))

theorem State.footfall_keeps (s : State) (p : Nat) : Keeps s (State.footfall s p) := by
  unfold State.footfall
  extract_lets a e old n src mark u pl v pl2 w
  have hu : Keeps s u := Keeps.ite (fun _ => Keeps.refl _) (fun _ => State.setAcc_keeps _ _ _)
  have hv : Keeps s v := Keeps.lit hu rfl
  have hw : Keeps s w := by
    dsimp only [w]
    split
    · exact Keeps.lit hv rfl
    · exact hv
  clear_value w
  clear_value src
  refine Keeps.ite (fun _ => ?_) (fun _ => hw)
  split
  · exact hw.trans (State.listAdd_keeps _ _ _ _ _ _)
  · exact hw.trans (State.listAdd_keeps _ _ _ _ _ _)
  · exact hw.trans (State.listAdd_keeps _ _ _ _ _ _)
  · exact hw

theorem State.jobBack_keeps (s : State) (q : Req) (f : Ending) : Keeps s (State.jobBack s q f) := by
  unfold State.jobBack
  try dsimp only
  repeat' (first | with_reducible exact Keeps.refl _ | with_reducible assumption | with_reducible refine Keeps.ite (fun _ => ?_) (fun _ => ?_) | with_reducible refine Keeps.foldl ?_ (fun _ _ => ?_) | with_reducible refine Keeps.foldl_fst ?_ (fun _ _ => ?_) | with_reducible refine Keeps.foldl_snd ?_ (fun _ _ => ?_) | with_reducible apply Keeps.cond | with_reducible refine Keeps.getD ?_ (fun _ _ => ?_) | split | (with_reducible apply Keeps.lit; (on_goal 2 => with_reducible rfl); first | with_reducible exact Keeps.refl _ | with_reducible assumption | with_reducible refine Keeps.ite (fun _ => ?_) (fun _ => ?_) | with_reducible refine Keeps.foldl ?_ (fun _ _ => ?_) | with_reducible refine Keeps.foldl_fst ?_ (fun _ _ => ?_) | with_reducible refine Keeps.foldl_snd ?_ (fun _ _ => ?_) | with_reducible apply Keeps.cond | with_reducible refine Keeps.getD ?_ (fun _ _ => ?_) | split))

theorem State.lentDone_keeps (s : State) (g : Nat) (t : Txn) (f : Ending) : Keeps s (State.lentDone s g t f) := by
  unfold State.lentDone
  try dsimp only
  repeat' (first | with_reducible exact Keeps.refl _ | with_reducible assumption | with_reducible apply Keeps.trans _ (State.account_keeps _ _) | with_reducible apply Keeps.trans _ (State.queueRsp_keeps _ _ _) | with_reducible apply Keeps.trans _ (State.updGp_keeps _ _ _) | with_reducible refine Keeps.ite (fun _ => ?_) (fun _ => ?_) | with_reducible refine Keeps.foldl ?_ (fun _ _ => ?_) | with_reducible refine Keeps.foldl_fst ?_ (fun _ _ => ?_) | with_reducible refine Keeps.foldl_snd ?_ (fun _ _ => ?_) | with_reducible apply Keeps.cond | with_reducible refine Keeps.getD ?_ (fun _ _ => ?_) | split | (with_reducible apply Keeps.lit; (on_goal 2 => with_reducible rfl); first | with_reducible exact Keeps.refl _ | with_reducible assumption | with_reducible apply Keeps.trans _ (State.account_keeps _ _) | with_reducible apply Keeps.trans _ (State.queueRsp_keeps _ _ _) | with_reducible apply Keeps.trans _ (State.updGp_keeps _ _ _) | with_reducible refine Keeps.ite (fun _ => ?_) (fun _ => ?_) | with_reducible refine Keeps.foldl ?_ (fun _ _ => ?_) | with_reducible refine Keeps.foldl_fst ?_ (fun _ _ => ?_) | with_reducible refine Keeps.foldl_snd ?_ (fun _ _ => ?_) | with_reducible apply Keeps.cond | with_reducible refine Keeps.getD ?_ (fun _ _ => ?_) | split))

theorem State.finish_keeps (s : State) (t : Txn) (f : Ending) (admitted : Bool) : Keeps s (State.finish s t f admitted) := by
  unfold State.finish
  try dsimp only
  repeat' (first | with_reducible exact Keeps.refl _ | with_reducible apply Keeps.trans _ (State.dropTxn_keeps _ _) | with_reducible apply Keeps.trans _ (State.egress_keeps _ _ _ _) | with_reducible apply Keeps.trans _ (State.fenceSees_keeps _ _) | with_reducible apply Keeps.trans _ (State.footfall_keeps _ _) | with_reducible apply Keeps.trans _ (State.jobBack_keeps _ _ _) | with_reducible apply Keeps.trans _ (State.lentDone_keeps _ _ _ _) | with_reducible refine Keeps.ite (fun _ => ?_) (fun _ => ?_) | split | (with_reducible apply Keeps.lit; (on_goal 2 => with_reducible rfl); first | with_reducible exact Keeps.refl _ | with_reducible apply Keeps.trans _ (State.dropTxn_keeps _ _) | with_reducible apply Keeps.trans _ (State.egress_keeps _ _ _ _) | with_reducible apply Keeps.trans _ (State.fenceSees_keeps _ _) | with_reducible apply Keeps.trans _ (State.footfall_keeps _ _) | with_reducible apply Keeps.trans _ (State.jobBack_keeps _ _ _) | with_reducible apply Keeps.trans _ (State.lentDone_keeps _ _ _ _) | with_reducible refine Keeps.ite (fun _ => ?_) (fun _ => ?_) | split))

theorem State.finishRead_keeps (s : State) (t : Txn) (x : Line) : Keeps s (State.finishRead s t x) := by
  unfold State.finishRead
  repeat' (first | with_reducible exact Keeps.refl _ | with_reducible apply Keeps.trans _ (State.finish_keeps _ _ _ _))

theorem State.setTxn_keeps (s : State) (t : Txn) : Keeps s (State.setTxn s t) := by
  unfold State.setTxn
  repeat' (first | with_reducible exact Keeps.refl _ | (with_reducible apply Keeps.lit; (on_goal 2 => with_reducible rfl); first | with_reducible exact Keeps.refl _))

theorem State.deliver_keeps (s : State) (t : Txn) (x : Line) : Keeps s (State.deliver s t x) := by
  unfold State.deliver
  try dsimp only
  repeat' (first | with_reducible exact Keeps.refl _ | with_reducible apply Keeps.trans _ (State.finish_keeps _ _ _ _) | with_reducible apply Keeps.trans _ (State.finishRead_keeps _ _ _) | with_reducible apply Keeps.trans _ (State.setTxn_keeps _ _) | with_reducible refine Keeps.ite (fun _ => ?_) (fun _ => ?_) | split | (with_reducible apply Keeps.lit; (on_goal 2 => with_reducible rfl); first | with_reducible exact Keeps.refl _ | with_reducible apply Keeps.trans _ (State.finish_keeps _ _ _ _) | with_reducible apply Keeps.trans _ (State.finishRead_keeps _ _ _) | with_reducible apply Keeps.trans _ (State.setTxn_keeps _ _) | with_reducible refine Keeps.ite (fun _ => ?_) (fun _ => ?_) | split))

theorem State.fenceLoses_keeps (s : State) (h : Nat) (hit : Fence → Bool) (id : Nat) : Keeps s (State.fenceLoses s h hit id) := by
  unfold State.fenceLoses
  try dsimp only
  repeat' (first | with_reducible exact Keeps.refl _ | with_reducible assumption | with_reducible apply Keeps.trans _ (State.updHead_keeps _ _ _) | with_reducible refine Keeps.ite (fun _ => ?_) (fun _ => ?_) | with_reducible refine Keeps.foldl ?_ (fun _ _ => ?_) | with_reducible refine Keeps.foldl_fst ?_ (fun _ _ => ?_) | with_reducible refine Keeps.foldl_snd ?_ (fun _ _ => ?_) | with_reducible apply Keeps.cond | with_reducible refine Keeps.getD ?_ (fun _ _ => ?_) | split | (with_reducible apply Keeps.lit; (on_goal 2 => with_reducible rfl); first | with_reducible exact Keeps.refl _ | with_reducible assumption | with_reducible apply Keeps.trans _ (State.updHead_keeps _ _ _) | with_reducible refine Keeps.ite (fun _ => ?_) (fun _ => ?_) | with_reducible refine Keeps.foldl ?_ (fun _ _ => ?_) | with_reducible refine Keeps.foldl_fst ?_ (fun _ _ => ?_) | with_reducible refine Keeps.foldl_snd ?_ (fun _ _ => ?_) | with_reducible apply Keeps.cond | with_reducible refine Keeps.getD ?_ (fun _ _ => ?_) | split))

theorem State.noteWrite_keeps (s : State) (line : Nat) : Keeps s (State.noteWrite s line) := by
  unfold State.noteWrite
  try dsimp only
  repeat' (first | with_reducible exact Keeps.refl _ | with_reducible apply Keeps.trans _ (State.updSlot_keeps _ _ _) | with_reducible refine Keeps.ite (fun _ => ?_) (fun _ => ?_) | split | (with_reducible apply Keeps.lit; (on_goal 2 => with_reducible rfl); first | with_reducible exact Keeps.refl _ | with_reducible apply Keeps.trans _ (State.updSlot_keeps _ _ _) | with_reducible refine Keeps.ite (fun _ => ?_) (fun _ => ?_) | split))

theorem State.wcbPut_keeps (s : State) (line : Nat) (data : BitVec 512) (be : BitVec 64) (poison : Bool) (writers : (List Writer)) : Keeps s (State.wcbPut s line data be poison writers) := by
  unfold State.wcbPut
  try dsimp only
  repeat' (first | with_reducible exact Keeps.refl _ | with_reducible assumption | with_reducible refine Keeps.ite (fun _ => ?_) (fun _ => ?_) | with_reducible refine Keeps.foldl ?_ (fun _ _ => ?_) | with_reducible refine Keeps.foldl_fst ?_ (fun _ _ => ?_) | with_reducible refine Keeps.foldl_snd ?_ (fun _ _ => ?_) | with_reducible apply Keeps.cond | with_reducible refine Keeps.getD ?_ (fun _ _ => ?_) | split | (with_reducible apply Keeps.lit; (on_goal 2 => with_reducible rfl); first | with_reducible exact Keeps.refl _ | with_reducible assumption | with_reducible refine Keeps.ite (fun _ => ?_) (fun _ => ?_) | with_reducible refine Keeps.foldl ?_ (fun _ _ => ?_) | with_reducible refine Keeps.foldl_fst ?_ (fun _ _ => ?_) | with_reducible refine Keeps.foldl_snd ?_ (fun _ _ => ?_) | with_reducible apply Keeps.cond | with_reducible refine Keeps.getD ?_ (fun _ _ => ?_) | split))

theorem State.poisonLine_keeps (s : State) (line : Nat) : Keeps s (State.poisonLine s line) := by
  unfold State.poisonLine
  try dsimp only
  repeat' (first | with_reducible exact Keeps.refl _ | with_reducible assumption | with_reducible apply Keeps.trans _ (State.noteWrite_keeps _ _) | with_reducible apply Keeps.trans _ (State.wcbPut_keeps _ _ _ _ _ _) | with_reducible refine Keeps.ite (fun _ => ?_) (fun _ => ?_) | with_reducible refine Keeps.foldl ?_ (fun _ _ => ?_) | with_reducible refine Keeps.foldl_fst ?_ (fun _ _ => ?_) | with_reducible refine Keeps.foldl_snd ?_ (fun _ _ => ?_) | with_reducible apply Keeps.cond | with_reducible refine Keeps.getD ?_ (fun _ _ => ?_) | split | (with_reducible apply Keeps.lit; (on_goal 2 => with_reducible rfl); first | with_reducible exact Keeps.refl _ | with_reducible assumption | with_reducible apply Keeps.trans _ (State.noteWrite_keeps _ _) | with_reducible apply Keeps.trans _ (State.wcbPut_keeps _ _ _ _ _ _) | with_reducible refine Keeps.ite (fun _ => ?_) (fun _ => ?_) | with_reducible refine Keeps.foldl ?_ (fun _ _ => ?_) | with_reducible refine Keeps.foldl_fst ?_ (fun _ _ => ?_) | with_reducible refine Keeps.foldl_snd ?_ (fun _ _ => ?_) | with_reducible apply Keeps.cond | with_reducible refine Keeps.getD ?_ (fun _ _ => ?_) | split))

theorem State.discard_keeps (s : State) (t : Txn) (code : Nat) (store : Bool) (admitted : Bool) : Keeps s (State.discard s t code store admitted) := by
  unfold State.discard
  try dsimp only
  repeat' (first | with_reducible exact Keeps.refl _ | with_reducible apply Keeps.trans _ (State.countDiscard_keeps _ _ _ _ _ _ _) | with_reducible apply Keeps.trans _ (State.dropTxn_keeps _ _) | with_reducible apply Keeps.trans _ (State.egress_keeps _ _ _ _) | with_reducible apply Keeps.trans _ (State.fenceLoses_keeps _ _ _ _) | with_reducible apply Keeps.trans _ (State.footfall_keeps _ _) | with_reducible apply Keeps.trans _ (State.jobBack_keeps _ _ _) | with_reducible apply Keeps.trans _ (State.lentDone_keeps _ _ _ _) | with_reducible apply Keeps.trans _ (State.poisonLine_keeps _ _) | with_reducible refine Keeps.ite (fun _ => ?_) (fun _ => ?_) | split | (with_reducible apply Keeps.lit; (on_goal 2 => with_reducible rfl); first | with_reducible exact Keeps.refl _ | with_reducible apply Keeps.trans _ (State.countDiscard_keeps _ _ _ _ _ _ _) | with_reducible apply Keeps.trans _ (State.dropTxn_keeps _ _) | with_reducible apply Keeps.trans _ (State.egress_keeps _ _ _ _) | with_reducible apply Keeps.trans _ (State.fenceLoses_keeps _ _ _ _) | with_reducible apply Keeps.trans _ (State.footfall_keeps _ _) | with_reducible apply Keeps.trans _ (State.jobBack_keeps _ _ _) | with_reducible apply Keeps.trans _ (State.lentDone_keeps _ _ _ _) | with_reducible apply Keeps.trans _ (State.poisonLine_keeps _ _) | with_reducible refine Keeps.ite (fun _ => ?_) (fun _ => ?_) | split))

theorem State.newId_keeps (s : State) : Keeps s (State.newId s) := by
  unfold State.newId
  repeat' (first | with_reducible exact Keeps.refl _ | (with_reducible apply Keeps.lit; (on_goal 2 => with_reducible rfl); first | with_reducible exact Keeps.refl _))

theorem State.sendRead_keeps (s : State) (c : Nat) (l : Nat) (why : RdWhy) (tier : Nat) (deadline : Option Nat) (dpaLine : Option Nat) : Keeps s (State.sendRead s c l why tier deadline dpaLine) := by
  unfold State.sendRead
  repeat' (first | with_reducible exact Keeps.refl _ | with_reducible apply Keeps.trans _ (State.newId_keeps _) | with_reducible apply Keeps.trans _ (State.updCh_keeps _ _ _))

theorem State.metaRead_keeps (s : State) (k : MetaKind) (n : Nat) (w : ReadFor) : Keeps s (State.metaRead s k n w) := by
  unfold State.metaRead
  try dsimp only
  repeat' (first | with_reducible exact Keeps.refl _ | with_reducible assumption | with_reducible apply Keeps.trans _ (State.sendRead_keeps _ _ _ _ _ _ _) | with_reducible refine Keeps.ite (fun _ => ?_) (fun _ => ?_) | with_reducible refine Keeps.foldl ?_ (fun _ _ => ?_) | with_reducible refine Keeps.foldl_fst ?_ (fun _ _ => ?_) | with_reducible refine Keeps.foldl_snd ?_ (fun _ _ => ?_) | with_reducible apply Keeps.cond | with_reducible refine Keeps.getD ?_ (fun _ _ => ?_) | split | (with_reducible apply Keeps.lit; (on_goal 2 => with_reducible rfl); first | with_reducible exact Keeps.refl _ | with_reducible assumption | with_reducible apply Keeps.trans _ (State.sendRead_keeps _ _ _ _ _ _ _) | with_reducible refine Keeps.ite (fun _ => ?_) (fun _ => ?_) | with_reducible refine Keeps.foldl ?_ (fun _ _ => ?_) | with_reducible refine Keeps.foldl_fst ?_ (fun _ _ => ?_) | with_reducible refine Keeps.foldl_snd ?_ (fun _ _ => ?_) | with_reducible apply Keeps.cond | with_reducible refine Keeps.getD ?_ (fun _ _ => ?_) | split))

theorem State.metaReads_keeps (s : State) (xs : List (MetaKind × Nat)) (w : ReadFor) : Keeps s (State.metaReads s xs w) := by
  unfold State.metaReads
  try dsimp only
  repeat' (first | with_reducible exact Keeps.refl _ | with_reducible assumption | with_reducible apply Keeps.trans _ (State.metaRead_keeps _ _ _ _) | with_reducible refine Keeps.ite (fun _ => ?_) (fun _ => ?_) | with_reducible refine Keeps.foldl ?_ (fun _ _ => ?_) | with_reducible refine Keeps.foldl_fst ?_ (fun _ _ => ?_) | with_reducible refine Keeps.foldl_snd ?_ (fun _ _ => ?_) | with_reducible apply Keeps.cond | with_reducible refine Keeps.getD ?_ (fun _ _ => ?_) | split | (with_reducible apply Keeps.lit; (on_goal 2 => with_reducible rfl); first | with_reducible exact Keeps.refl _ | with_reducible assumption | with_reducible apply Keeps.trans _ (State.metaRead_keeps _ _ _ _) | with_reducible refine Keeps.ite (fun _ => ?_) (fun _ => ?_) | with_reducible refine Keeps.foldl ?_ (fun _ _ => ?_) | with_reducible refine Keeps.foldl_fst ?_ (fun _ _ => ?_) | with_reducible refine Keeps.foldl_snd ?_ (fun _ _ => ?_) | with_reducible apply Keeps.cond | with_reducible refine Keeps.getD ?_ (fun _ _ => ?_) | split))

theorem State.offerPeer_keeps (s : State) (g : Nat) (x : PeerReq) : Keeps s (State.offerPeer s g x) := by
  unfold State.offerPeer
  try dsimp only
  repeat' (first | with_reducible exact Keeps.refl _ | with_reducible assumption | with_reducible apply Keeps.trans _ (State.launch_keeps _ _ _) | with_reducible apply Keeps.trans _ (State.updGp_keeps _ _ _) | with_reducible refine Keeps.ite (fun _ => ?_) (fun _ => ?_) | with_reducible refine Keeps.foldl ?_ (fun _ _ => ?_) | with_reducible refine Keeps.foldl_fst ?_ (fun _ _ => ?_) | with_reducible refine Keeps.foldl_snd ?_ (fun _ _ => ?_) | with_reducible apply Keeps.cond | with_reducible refine Keeps.getD ?_ (fun _ _ => ?_) | split | (with_reducible apply Keeps.lit; (on_goal 2 => with_reducible rfl); first | with_reducible exact Keeps.refl _ | with_reducible assumption | with_reducible apply Keeps.trans _ (State.launch_keeps _ _ _) | with_reducible apply Keeps.trans _ (State.updGp_keeps _ _ _) | with_reducible refine Keeps.ite (fun _ => ?_) (fun _ => ?_) | with_reducible refine Keeps.foldl ?_ (fun _ _ => ?_) | with_reducible refine Keeps.foldl_fst ?_ (fun _ _ => ?_) | with_reducible refine Keeps.foldl_snd ?_ (fun _ _ => ?_) | with_reducible apply Keeps.cond | with_reducible refine Keeps.getD ?_ (fun _ _ => ?_) | split))

theorem State.sendPeer_keeps (s : State) (g : Nat) (lease : Nat) (line : Nat) (why : RdWhy) (write : Bool) (m : Fin 64 → BitVec 32 → GMsg) : Keeps s (State.sendPeer s g lease line why write m) := by
  unfold State.sendPeer
  repeat' (first | with_reducible exact Keeps.refl _ | with_reducible apply Keeps.trans _ (State.offerPeer_keeps _ _ _))

theorem State.fetchImage_keeps (s : State) (e : Nat) (p : Nat) (f : PageForm) (w : ReadFor) : Keeps s (State.fetchImage s e p f w) := by
  unfold State.fetchImage
  try dsimp only
  repeat' (first | with_reducible exact Keeps.refl _ | with_reducible assumption | with_reducible apply Keeps.trans _ (State.metaReads_keeps _ _ _) | with_reducible apply Keeps.trans _ (State.noteT0_keeps _ _) | with_reducible apply Keeps.trans _ (State.sendPeer_keeps _ _ _ _ _ _ _) | with_reducible apply Keeps.trans _ (State.sendRead_keeps _ _ _ _ _ _ _) | with_reducible refine Keeps.ite (fun _ => ?_) (fun _ => ?_) | with_reducible refine Keeps.foldl ?_ (fun _ _ => ?_) | split | (with_reducible apply Keeps.lit; (on_goal 2 => with_reducible rfl); first | with_reducible exact Keeps.refl _ | with_reducible assumption | with_reducible apply Keeps.trans _ (State.metaReads_keeps _ _ _) | with_reducible apply Keeps.trans _ (State.noteT0_keeps _ _) | with_reducible apply Keeps.trans _ (State.sendPeer_keeps _ _ _ _ _ _ _) | with_reducible apply Keeps.trans _ (State.sendRead_keeps _ _ _ _ _ _ _) | with_reducible refine Keeps.ite (fun _ => ?_) (fun _ => ?_) | with_reducible refine Keeps.foldl ?_ (fun _ _ => ?_) | split))

theorem State.freeEngine_keeps (s : State) (e : Nat) : Keeps s (State.freeEngine s e) := by
  unfold State.freeEngine
  repeat' (first | with_reducible exact Keeps.refl _ | (with_reducible apply Keeps.lit; (on_goal 2 => with_reducible rfl); first | with_reducible exact Keeps.refl _))

theorem State.gatherPage_keeps (s : State) (p : Nat) (lease : Nat) (u : Nat) (n : Nat) : Keeps s (State.gatherPage s p lease u n).1 := by
  unfold State.gatherPage
  try dsimp only
  repeat' (first | with_reducible exact Keeps.refl _ | with_reducible assumption | with_reducible apply Keeps.trans _ (State.sendPeer_keeps _ _ _ _ _ _ _) | with_reducible refine Keeps.ite (fun _ => ?_) (fun _ => ?_) | with_reducible refine Keeps.foldl ?_ (fun _ _ => ?_) | split | (with_reducible apply Keeps.lit; (on_goal 2 => with_reducible rfl); first | with_reducible exact Keeps.refl _ | with_reducible assumption | with_reducible apply Keeps.trans _ (State.sendPeer_keeps _ _ _ _ _ _ _) | with_reducible refine Keeps.ite (fun _ => ?_) (fun _ => ?_) | with_reducible refine Keeps.foldl ?_ (fun _ _ => ?_) | split))

theorem State.lineBack_keeps (s : State) (t : Txn) (x : Line) : Keeps s (State.lineBack s t x) := by
  unfold State.lineBack
  try dsimp only
  repeat' (first | with_reducible exact Keeps.refl _ | with_reducible apply Keeps.trans _ (State.deliver_keeps _ _ _) | with_reducible apply Keeps.trans _ (State.setTxn_keeps _ _) | with_reducible apply Keeps.trans _ (State.tagFail_keeps _ _ _ _) | with_reducible refine Keeps.ite (fun _ => ?_) (fun _ => ?_) | split | (with_reducible apply Keeps.lit; (on_goal 2 => with_reducible rfl); first | with_reducible exact Keeps.refl _ | with_reducible apply Keeps.trans _ (State.deliver_keeps _ _ _) | with_reducible apply Keeps.trans _ (State.setTxn_keeps _ _) | with_reducible apply Keeps.trans _ (State.tagFail_keeps _ _ _ _) | with_reducible refine Keeps.ite (fun _ => ?_) (fun _ => ?_) | split))

theorem State.needCtr_keeps (s : State) (p : Nat) (again : Bool) : Keeps s (State.needCtr s p again).1 := by
  unfold State.needCtr
  try dsimp only
  repeat' (first | with_reducible exact Keeps.refl _ | with_reducible apply Keeps.trans _ (State.cnt_keeps _ _ _ _) | with_reducible apply Keeps.trans _ (State.stn_keeps _ _ _ _) | with_reducible refine Keeps.ite (fun _ => ?_) (fun _ => ?_) | split | (with_reducible apply Keeps.lit; (on_goal 2 => with_reducible rfl); first | with_reducible exact Keeps.refl _ | with_reducible apply Keeps.trans _ (State.cnt_keeps _ _ _ _) | with_reducible apply Keeps.trans _ (State.stn_keeps _ _ _ _) | with_reducible refine Keeps.ite (fun _ => ?_) (fun _ => ?_) | split))

theorem State.putPeer_keeps (s : State) (lease : Nat) (u : Nat) (xs : List Line) : Keeps s (State.putPeer s lease u xs) := by
  unfold State.putPeer
  try dsimp only
  repeat' (first | with_reducible exact Keeps.refl _ | with_reducible assumption | with_reducible apply Keeps.trans _ (State.sendPeer_keeps _ _ _ _ _ _ _) | with_reducible refine Keeps.ite (fun _ => ?_) (fun _ => ?_) | with_reducible refine Keeps.foldl ?_ (fun _ _ => ?_) | split | (with_reducible apply Keeps.lit; (on_goal 2 => with_reducible rfl); first | with_reducible exact Keeps.refl _ | with_reducible assumption | with_reducible apply Keeps.trans _ (State.sendPeer_keeps _ _ _ _ _ _ _) | with_reducible refine Keeps.ite (fun _ => ?_) (fun _ => ?_) | with_reducible refine Keeps.foldl ?_ (fun _ _ => ?_) | split))

theorem State.readFrame_keeps (s : State) (t : Txn) (c : Nat) (fr : Nat) : Keeps s (State.readFrame s t c fr) := by
  unfold State.readFrame
  try dsimp only
  repeat' (first | with_reducible exact Keeps.refl _ | with_reducible apply Keeps.trans _ (State.metaReads_keeps _ _ _) | with_reducible apply Keeps.trans _ (State.sendRead_keeps _ _ _ _ _ _ _) | with_reducible apply Keeps.trans _ (State.setTxn_keeps _ _) | with_reducible refine Keeps.ite (fun _ => ?_) (fun _ => ?_) | split | (with_reducible apply Keeps.lit; (on_goal 2 => with_reducible rfl); first | with_reducible exact Keeps.refl _ | with_reducible apply Keeps.trans _ (State.metaReads_keeps _ _ _) | with_reducible apply Keeps.trans _ (State.sendRead_keeps _ _ _ _ _ _ _) | with_reducible apply Keeps.trans _ (State.setTxn_keeps _ _) | with_reducible refine Keeps.ite (fun _ => ?_) (fun _ => ?_) | split))

theorem State.takeEngine_keeps (s : State) (e : Nat) (u : EngineUse) : Keeps s (State.takeEngine s e u) := by
  unfold State.takeEngine
  repeat' (first | with_reducible exact Keeps.refl _ | (with_reducible apply Keeps.lit; (on_goal 2 => with_reducible rfl); first | with_reducible exact Keeps.refl _))

theorem State.readImage_keeps (s : State) (t : Txn) (f : PageForm) (n : Nat) : Keeps s (State.readImage s t f n) := by
  unfold State.readImage
  try dsimp only
  repeat' (first | with_reducible exact Keeps.refl _ | with_reducible apply Keeps.trans _ (State.fetchImage_keeps _ _ _ _ _) | with_reducible apply Keeps.trans _ (State.setTxn_keeps _ _) | with_reducible apply Keeps.trans _ (State.takeEngine_keeps _ _ _) | with_reducible refine Keeps.ite (fun _ => ?_) (fun _ => ?_) | split | (with_reducible apply Keeps.lit; (on_goal 2 => with_reducible rfl); first | with_reducible exact Keeps.refl _ | with_reducible apply Keeps.trans _ (State.fetchImage_keeps _ _ _ _ _) | with_reducible apply Keeps.trans _ (State.setTxn_keeps _ _) | with_reducible apply Keeps.trans _ (State.takeEngine_keeps _ _ _) | with_reducible refine Keeps.ite (fun _ => ?_) (fun _ => ?_) | split))

theorem State.readPage_keeps (s : State) (p : Nat) (f : PageForm) : Keeps s (State.readPage s p f) := by
  unfold State.readPage
  try dsimp only
  repeat' (first | with_reducible exact Keeps.refl _ | with_reducible assumption | with_reducible apply Keeps.trans _ (State.sendRead_keeps _ _ _ _ _ _ _) | with_reducible refine Keeps.ite (fun _ => ?_) (fun _ => ?_) | with_reducible refine Keeps.foldl ?_ (fun _ _ => ?_) | with_reducible refine Keeps.foldl_fst ?_ (fun _ _ => ?_) | with_reducible refine Keeps.foldl_snd ?_ (fun _ _ => ?_) | with_reducible apply Keeps.cond | with_reducible refine Keeps.getD ?_ (fun _ _ => ?_) | split | (with_reducible apply Keeps.lit; (on_goal 2 => with_reducible rfl); first | with_reducible exact Keeps.refl _ | with_reducible assumption | with_reducible apply Keeps.trans _ (State.sendRead_keeps _ _ _ _ _ _ _) | with_reducible refine Keeps.ite (fun _ => ?_) (fun _ => ?_) | with_reducible refine Keeps.foldl ?_ (fun _ _ => ?_) | with_reducible refine Keeps.foldl_fst ?_ (fun _ _ => ?_) | with_reducible refine Keeps.foldl_snd ?_ (fun _ _ => ?_) | with_reducible apply Keeps.cond | with_reducible refine Keeps.getD ?_ (fun _ _ => ?_) | split))

theorem State.readPeer_keeps (s : State) (t : Txn) (lease : Nat) (u : Nat) : Keeps s (State.readPeer s t lease u) := by
  unfold State.readPeer
  try dsimp only
  repeat' (first | with_reducible exact Keeps.refl _ | with_reducible apply Keeps.trans _ (State.metaReads_keeps _ _ _) | with_reducible apply Keeps.trans _ (State.noteT0_keeps _ _) | with_reducible apply Keeps.trans _ (State.sendPeer_keeps _ _ _ _ _ _ _) | with_reducible apply Keeps.trans _ (State.setTxn_keeps _ _) | with_reducible refine Keeps.ite (fun _ => ?_) (fun _ => ?_) | split | (with_reducible apply Keeps.lit; (on_goal 2 => with_reducible rfl); first | with_reducible exact Keeps.refl _ | with_reducible apply Keeps.trans _ (State.metaReads_keeps _ _ _) | with_reducible apply Keeps.trans _ (State.noteT0_keeps _ _) | with_reducible apply Keeps.trans _ (State.sendPeer_keeps _ _ _ _ _ _ _) | with_reducible apply Keeps.trans _ (State.setTxn_keeps _ _) | with_reducible refine Keeps.ite (fun _ => ?_) (fun _ => ?_) | split))

theorem State.readTags_keeps (s : State) (p : Nat) (n : Nat) : Keeps s (State.readTags s p n) := by
  unfold State.readTags
  try dsimp only
  repeat' (first | with_reducible exact Keeps.refl _ | with_reducible assumption | with_reducible apply Keeps.trans _ (State.checkPageTags_keeps _ _) | with_reducible apply Keeps.trans _ (State.metaReads_keeps _ _ _) | with_reducible refine Keeps.ite (fun _ => ?_) (fun _ => ?_) | with_reducible refine Keeps.foldl ?_ (fun _ _ => ?_) | with_reducible refine Keeps.foldl_fst ?_ (fun _ _ => ?_) | with_reducible refine Keeps.foldl_snd ?_ (fun _ _ => ?_) | with_reducible apply Keeps.cond | with_reducible refine Keeps.getD ?_ (fun _ _ => ?_) | split | (with_reducible apply Keeps.lit; (on_goal 2 => with_reducible rfl); first | with_reducible exact Keeps.refl _ | with_reducible assumption | with_reducible apply Keeps.trans _ (State.checkPageTags_keeps _ _) | with_reducible apply Keeps.trans _ (State.metaReads_keeps _ _ _) | with_reducible refine Keeps.ite (fun _ => ?_) (fun _ => ?_) | with_reducible refine Keeps.foldl ?_ (fun _ _ => ?_) | with_reducible refine Keeps.foldl_fst ?_ (fun _ _ => ?_) | with_reducible refine Keeps.foldl_snd ?_ (fun _ _ => ?_) | with_reducible apply Keeps.cond | with_reducible refine Keeps.getD ?_ (fun _ _ => ?_) | split))

theorem State.refusalEvent_keeps (s : State) (p : Nat) : Keeps s (State.refusalEvent s p) := by
  unfold State.refusalEvent
  try dsimp only
  repeat' (first | with_reducible exact Keeps.refl _ | with_reducible assumption | with_reducible apply Keeps.trans _ (State.raise_keeps _ _ _ _) | with_reducible refine Keeps.ite (fun _ => ?_) (fun _ => ?_) | with_reducible refine Keeps.foldl ?_ (fun _ _ => ?_) | with_reducible refine Keeps.foldl_fst ?_ (fun _ _ => ?_) | with_reducible refine Keeps.foldl_snd ?_ (fun _ _ => ?_) | with_reducible apply Keeps.cond | with_reducible refine Keeps.getD ?_ (fun _ _ => ?_) | split | (with_reducible apply Keeps.lit; (on_goal 2 => with_reducible rfl); first | with_reducible exact Keeps.refl _ | with_reducible assumption | with_reducible apply Keeps.trans _ (State.raise_keeps _ _ _ _) | with_reducible refine Keeps.ite (fun _ => ?_) (fun _ => ?_) | with_reducible refine Keeps.foldl ?_ (fun _ _ => ?_) | with_reducible refine Keeps.foldl_fst ?_ (fun _ _ => ?_) | with_reducible refine Keeps.foldl_snd ?_ (fun _ _ => ?_) | with_reducible apply Keeps.cond | with_reducible refine Keeps.getD ?_ (fun _ _ => ?_) | split))

theorem State.waitCtr_keeps (s : State) (t : Txn) : Keeps s (State.waitCtr s t) := by
  unfold State.waitCtr
  try dsimp only
  repeat' (first | with_reducible exact Keeps.refl _ | with_reducible assumption | with_reducible apply Keeps.trans _ (State.metaReads_keeps _ _ _) | with_reducible apply Keeps.trans _ (State.setTxn_keeps _ _) | with_reducible refine Keeps.ite (fun _ => ?_) (fun _ => ?_) | with_reducible refine Keeps.foldl ?_ (fun _ _ => ?_) | with_reducible refine Keeps.foldl_fst ?_ (fun _ _ => ?_) | with_reducible refine Keeps.foldl_snd ?_ (fun _ _ => ?_) | with_reducible apply Keeps.cond | with_reducible refine Keeps.getD ?_ (fun _ _ => ?_) | split | (with_reducible apply Keeps.lit; (on_goal 2 => with_reducible rfl); first | with_reducible exact Keeps.refl _ | with_reducible assumption | with_reducible apply Keeps.trans _ (State.metaReads_keeps _ _ _) | with_reducible apply Keeps.trans _ (State.setTxn_keeps _ _) | with_reducible refine Keeps.ite (fun _ => ?_) (fun _ => ?_) | with_reducible refine Keeps.foldl ?_ (fun _ _ => ?_) | with_reducible refine Keeps.foldl_fst ?_ (fun _ _ => ?_) | with_reducible refine Keeps.foldl_snd ?_ (fun _ _ => ?_) | with_reducible apply Keeps.cond | with_reducible refine Keeps.getD ?_ (fun _ _ => ?_) | split))

theorem State.serveRead_keeps (s : State) (t : Txn) : Keeps s (State.serveRead s t) := by
  unfold State.serveRead
  try dsimp only
  repeat' (first | with_reducible exact Keeps.refl _ | with_reducible apply Keeps.trans _ (State.checkPageTags_keeps _ _) | with_reducible apply Keeps.trans _ (State.checkTags_keeps _ _ _) | with_reducible apply Keeps.trans _ (State.cnt_keeps _ _ _ _) | with_reducible apply Keeps.trans _ (State.countRead_keeps _ _) | with_reducible apply Keeps.trans _ (State.deliver_keeps _ _ _) | with_reducible apply Keeps.trans _ (State.needCtr_keeps _ _ _) | with_reducible apply Keeps.trans _ (State.raise_keeps _ _ _ _) | with_reducible apply Keeps.trans _ (State.readFrame_keeps _ _ _ _) | with_reducible apply Keeps.trans _ (State.readImage_keeps _ _ _ _) | with_reducible apply Keeps.trans _ (State.readPeer_keeps _ _ _ _) | with_reducible apply Keeps.trans _ (State.setTxn_keeps _ _) | with_reducible apply Keeps.trans _ (State.waitCtr_keeps _ _) | with_reducible refine Keeps.ite (fun _ => ?_) (fun _ => ?_) | split | with_reducible refine Keeps.of_fst ‹_ = (_, _)› ?_ | (with_reducible apply Keeps.lit; (on_goal 2 => with_reducible rfl); first | with_reducible exact Keeps.refl _ | with_reducible apply Keeps.trans _ (State.checkPageTags_keeps _ _) | with_reducible apply Keeps.trans _ (State.checkTags_keeps _ _ _) | with_reducible apply Keeps.trans _ (State.cnt_keeps _ _ _ _) | with_reducible apply Keeps.trans _ (State.countRead_keeps _ _) | with_reducible apply Keeps.trans _ (State.deliver_keeps _ _ _) | with_reducible apply Keeps.trans _ (State.needCtr_keeps _ _ _) | with_reducible apply Keeps.trans _ (State.raise_keeps _ _ _ _) | with_reducible apply Keeps.trans _ (State.readFrame_keeps _ _ _ _) | with_reducible apply Keeps.trans _ (State.readImage_keeps _ _ _ _) | with_reducible apply Keeps.trans _ (State.readPeer_keeps _ _ _ _) | with_reducible apply Keeps.trans _ (State.setTxn_keeps _ _) | with_reducible apply Keeps.trans _ (State.waitCtr_keeps _ _) | with_reducible refine Keeps.ite (fun _ => ?_) (fun _ => ?_) | split | with_reducible refine Keeps.of_fst ‹_ = (_, _)› ?_))

theorem State.serveWrite_keeps (s : State) (t : Txn) : Keeps s (State.serveWrite s t) := by
  unfold State.serveWrite
  try dsimp only
  repeat' (first | with_reducible exact Keeps.refl _ | with_reducible apply Keeps.trans _ (State.checkTags_keeps _ _ _) | with_reducible apply Keeps.trans _ (State.cnt_keeps _ _ _ _) | with_reducible apply Keeps.trans _ (State.finish_keeps _ _ _ _) | with_reducible apply Keeps.trans _ (State.noteWait_keeps _ _) | with_reducible apply Keeps.trans _ (State.noteWrite_keeps _ _) | with_reducible apply Keeps.trans _ (State.refusalEvent_keeps _ _) | with_reducible apply Keeps.trans _ (State.setTxn_keeps _ _) | with_reducible refine Keeps.ite (fun _ => ?_) (fun _ => ?_) | split | (with_reducible apply Keeps.lit; (on_goal 2 => with_reducible rfl); first | with_reducible exact Keeps.refl _ | with_reducible apply Keeps.trans _ (State.checkTags_keeps _ _ _) | with_reducible apply Keeps.trans _ (State.cnt_keeps _ _ _ _) | with_reducible apply Keeps.trans _ (State.finish_keeps _ _ _ _) | with_reducible apply Keeps.trans _ (State.noteWait_keeps _ _) | with_reducible apply Keeps.trans _ (State.noteWrite_keeps _ _) | with_reducible apply Keeps.trans _ (State.refusalEvent_keeps _ _) | with_reducible apply Keeps.trans _ (State.setTxn_keeps _ _) | with_reducible refine Keeps.ite (fun _ => ?_) (fun _ => ?_) | split))

theorem State.wcbDrop_keeps (s : State) (line : Nat) : Keeps s (State.wcbDrop s line) := by
  unfold State.wcbDrop
  repeat' (first | with_reducible exact Keeps.refl _ | (with_reducible apply Keeps.lit; (on_goal 2 => with_reducible rfl); first | with_reducible exact Keeps.refl _))

theorem State.wcbDropPage_keeps (s : State) (p : Nat) : Keeps s (State.wcbDropPage s p) := by
  unfold State.wcbDropPage
  repeat' (first | with_reducible exact Keeps.refl _ | (with_reducible apply Keeps.lit; (on_goal 2 => with_reducible rfl); first | with_reducible exact Keeps.refl _))

end Sys2Proof.Machine
end

