-- ==== Sys2Proof/Laws/KeepsCoherence.lean ====
section
/-! SUPPORT. Every operation of Machine/Coherence.lean keeps what `Keeps` says: one lemma for each. -/
namespace Sys2Proof.Machine
set_option linter.unreachableTactic false
set_option linter.unusedTactic false

theorem State.delWay_keeps (s : State) (k : Nat) : Keeps s (State.delWay s k) := by
  unfold State.delWay
  repeat' (first | with_reducible exact Keeps.refl _ | (with_reducible apply Keeps.lit; (on_goal 2 => with_reducible rfl); first | with_reducible exact Keeps.refl _))

theorem State.putWay_keeps (s : State) (k : Nat) (e : DirEntry) : Keeps s (State.putWay s k e) := by
  unfold State.putWay
  repeat' (first | with_reducible exact Keeps.refl _ | (with_reducible apply Keeps.lit; (on_goal 2 => with_reducible rfl); first | with_reducible exact Keeps.refl _))

theorem State.setEntry_keeps (s : State) (k : Nat) (e : Option DirEntry) : Keeps s (State.setEntry s k e) := by
  unfold State.setEntry
  try dsimp only
  repeat' (first | with_reducible exact Keeps.refl _ | with_reducible apply Keeps.trans _ (State.delWay_keeps _ _) | with_reducible apply Keeps.trans _ (State.putWay_keeps _ _ _) | with_reducible refine Keeps.ite (fun _ => ?_) (fun _ => ?_) | split | (with_reducible apply Keeps.lit; (on_goal 2 => with_reducible rfl); first | with_reducible exact Keeps.refl _ | with_reducible apply Keeps.trans _ (State.delWay_keeps _ _) | with_reducible apply Keeps.trans _ (State.putWay_keeps _ _ _) | with_reducible refine Keeps.ite (fun _ => ?_) (fun _ => ?_) | split))

theorem State.abruptOn_keeps (s : State) (k : Nat) (e : DirEntry) (h : Nat) : Keeps s (State.abruptOn s k e h) := by
  unfold State.abruptOn
  try dsimp only
  repeat' (first | with_reducible exact Keeps.refl _ | with_reducible apply Keeps.trans _ (State.delWay_keeps _ _) | with_reducible apply Keeps.trans _ (State.poisonLine_keeps _ _) | with_reducible apply Keeps.trans _ (State.setEntry_keeps _ _ _) | with_reducible refine Keeps.ite (fun _ => ?_) (fun _ => ?_) | split | (with_reducible apply Keeps.lit; (on_goal 2 => with_reducible rfl); first | with_reducible exact Keeps.refl _ | with_reducible apply Keeps.trans _ (State.delWay_keeps _ _) | with_reducible apply Keeps.trans _ (State.poisonLine_keeps _ _) | with_reducible apply Keeps.trans _ (State.setEntry_keeps _ _ _) | with_reducible refine Keeps.ite (fun _ => ?_) (fun _ => ?_) | split))

theorem State.afterWalk_keeps (s : State) (x : Exch) (heads : List Nat) : Keeps s (State.afterWalk s x heads) := by
  unfold State.afterWalk
  try dsimp only
  repeat' (first | with_reducible exact Keeps.refl _ | with_reducible assumption | with_reducible apply Keeps.trans _ (State.putWay_keeps _ _ _) | with_reducible apply Keeps.trans _ (State.setEntry_keeps _ _ _) | with_reducible refine Keeps.ite (fun _ => ?_) (fun _ => ?_) | with_reducible refine Keeps.foldl ?_ (fun _ _ => ?_) | split | (with_reducible apply Keeps.lit; (on_goal 2 => with_reducible rfl); first | with_reducible exact Keeps.refl _ | with_reducible assumption | with_reducible apply Keeps.trans _ (State.putWay_keeps _ _ _) | with_reducible apply Keeps.trans _ (State.setEntry_keeps _ _ _) | with_reducible refine Keeps.ite (fun _ => ?_) (fun _ => ?_) | with_reducible refine Keeps.foldl ?_ (fun _ _ => ?_) | split))

theorem State.dropExch_keeps (s : State) (x : Exch) : Keeps s (State.dropExch s x) := by
  unfold State.dropExch
  repeat' (first | with_reducible exact Keeps.refl _ | (with_reducible apply Keeps.lit; (on_goal 2 => with_reducible rfl); first | with_reducible exact Keeps.refl _))

theorem State.raiseTimeouts_keeps (s : State) (x : Exch) : Keeps s (State.raiseTimeouts s x) := by
  unfold State.raiseTimeouts
  try dsimp only
  repeat' (first | with_reducible exact Keeps.refl _ | with_reducible assumption | with_reducible apply Keeps.trans _ (State.raise_keeps _ _ _ _) | with_reducible apply Keeps.trans _ (State.sat_keeps _ _ _) | with_reducible refine Keeps.ite (fun _ => ?_) (fun _ => ?_) | with_reducible refine Keeps.foldl ?_ (fun _ _ => ?_) | split | (with_reducible apply Keeps.lit; (on_goal 2 => with_reducible rfl); first | with_reducible exact Keeps.refl _ | with_reducible assumption | with_reducible apply Keeps.trans _ (State.raise_keeps _ _ _ _) | with_reducible apply Keeps.trans _ (State.sat_keeps _ _ _) | with_reducible refine Keeps.ite (fun _ => ?_) (fun _ => ?_) | with_reducible refine Keeps.foldl ?_ (fun _ _ => ?_) | split))

theorem State.freeLine_keeps (s : State) (line : Nat) : Keeps s (State.freeLine s line) := by
  unfold State.freeLine
  try dsimp only
  repeat' (first | with_reducible exact Keeps.refl _ | with_reducible assumption | with_reducible apply Keeps.trans _ (State.delWay_keeps _ _) | with_reducible refine Keeps.ite (fun _ => ?_) (fun _ => ?_) | with_reducible refine Keeps.foldl ?_ (fun _ _ => ?_) | with_reducible refine Keeps.foldl_fst ?_ (fun _ _ => ?_) | with_reducible refine Keeps.foldl_snd ?_ (fun _ _ => ?_) | with_reducible apply Keeps.cond | with_reducible refine Keeps.getD ?_ (fun _ _ => ?_) | split | (with_reducible apply Keeps.lit; (on_goal 2 => with_reducible rfl); first | with_reducible exact Keeps.refl _ | with_reducible assumption | with_reducible apply Keeps.trans _ (State.delWay_keeps _ _) | with_reducible refine Keeps.ite (fun _ => ?_) (fun _ => ?_) | with_reducible refine Keeps.foldl ?_ (fun _ _ => ?_) | with_reducible refine Keeps.foldl_fst ?_ (fun _ _ => ?_) | with_reducible refine Keeps.foldl_snd ?_ (fun _ _ => ?_) | with_reducible apply Keeps.cond | with_reducible refine Keeps.getD ?_ (fun _ _ => ?_) | split))

theorem State.recallEnd_keeps (s : State) (x : Exch) (heads : List Nat) : Keeps s (State.recallEnd s x heads) := by
  unfold State.recallEnd
  try dsimp only
  repeat' (first | with_reducible exact Keeps.refl _ | with_reducible assumption | with_reducible apply Keeps.trans _ (State.afterWalk_keeps _ _ _) | with_reducible apply Keeps.trans _ (State.freeLine_keeps _ _) | with_reducible refine Keeps.ite (fun _ => ?_) (fun _ => ?_) | with_reducible refine Keeps.foldl ?_ (fun _ _ => ?_) | with_reducible refine Keeps.foldl_fst ?_ (fun _ _ => ?_) | with_reducible refine Keeps.foldl_snd ?_ (fun _ _ => ?_) | with_reducible apply Keeps.cond | with_reducible refine Keeps.getD ?_ (fun _ _ => ?_) | split | (with_reducible apply Keeps.lit; (on_goal 2 => with_reducible rfl); first | with_reducible exact Keeps.refl _ | with_reducible assumption | with_reducible apply Keeps.trans _ (State.afterWalk_keeps _ _ _) | with_reducible apply Keeps.trans _ (State.freeLine_keeps _ _) | with_reducible refine Keeps.ite (fun _ => ?_) (fun _ => ?_) | with_reducible refine Keeps.foldl ?_ (fun _ _ => ?_) | with_reducible refine Keeps.foldl_fst ?_ (fun _ _ => ?_) | with_reducible refine Keeps.foldl_snd ?_ (fun _ _ => ?_) | with_reducible apply Keeps.cond | with_reducible refine Keeps.getD ?_ (fun _ _ => ?_) | split))

theorem State.afterSnoop_keeps (s : State) (t : Txn) (h : Nat) (x : Exch) : Keeps s (State.afterSnoop s t h x) := by
  unfold State.afterSnoop
  try dsimp only
  repeat' (first | with_reducible exact Keeps.refl _ | with_reducible apply Keeps.trans _ (State.delWay_keeps _ _) | with_reducible apply Keeps.trans _ (State.putWay_keeps _ _ _) | with_reducible refine Keeps.ite (fun _ => ?_) (fun _ => ?_) | split | (with_reducible apply Keeps.lit; (on_goal 2 => with_reducible rfl); first | with_reducible exact Keeps.refl _ | with_reducible apply Keeps.trans _ (State.delWay_keeps _ _) | with_reducible apply Keeps.trans _ (State.putWay_keeps _ _ _) | with_reducible refine Keeps.ite (fun _ => ?_) (fun _ => ?_) | split))

theorem State.resume_keeps (s : State) (t : Txn) (h : Nat) (x : Exch) : Keeps s (State.resume s t h x) := by
  unfold State.resume
  try dsimp only
  repeat' (first | with_reducible exact Keeps.refl _ | with_reducible apply Keeps.trans _ (State.afterSnoop_keeps _ _ _ _) | with_reducible apply Keeps.trans _ (State.finish_keeps _ _ _ _) | with_reducible apply Keeps.trans _ (State.finishRead_keeps _ _ _) | with_reducible apply Keeps.trans _ (State.freeLine_keeps _ _) | with_reducible apply Keeps.trans _ (State.noteWrite_keeps _ _) | with_reducible apply Keeps.trans _ (State.serveRead_keeps _ _) | with_reducible apply Keeps.trans _ (State.serveWrite_keeps _ _) | with_reducible apply Keeps.trans _ (State.setTxn_keeps _ _) | with_reducible refine Keeps.ite (fun _ => ?_) (fun _ => ?_) | split | (with_reducible apply Keeps.lit; (on_goal 2 => with_reducible rfl); first | with_reducible exact Keeps.refl _ | with_reducible apply Keeps.trans _ (State.afterSnoop_keeps _ _ _ _) | with_reducible apply Keeps.trans _ (State.finish_keeps _ _ _ _) | with_reducible apply Keeps.trans _ (State.finishRead_keeps _ _ _) | with_reducible apply Keeps.trans _ (State.freeLine_keeps _ _) | with_reducible apply Keeps.trans _ (State.noteWrite_keeps _ _) | with_reducible apply Keeps.trans _ (State.serveRead_keeps _ _) | with_reducible apply Keeps.trans _ (State.serveWrite_keeps _ _) | with_reducible apply Keeps.trans _ (State.setTxn_keeps _ _) | with_reducible refine Keeps.ite (fun _ => ?_) (fun _ => ?_) | split))

theorem State.readOrAck_keeps (s : State) (t : Txn) : Keeps s (State.readOrAck s t) := by
  unfold State.readOrAck
  try dsimp only
  repeat' (first | with_reducible exact Keeps.refl _ | with_reducible apply Keeps.trans _ (State.finish_keeps _ _ _ _) | with_reducible apply Keeps.trans _ (State.serveRead_keeps _ _) | with_reducible apply Keeps.trans _ (State.setTxn_keeps _ _) | with_reducible refine Keeps.ite (fun _ => ?_) (fun _ => ?_) | split | (with_reducible apply Keeps.lit; (on_goal 2 => with_reducible rfl); first | with_reducible exact Keeps.refl _ | with_reducible apply Keeps.trans _ (State.finish_keeps _ _ _ _) | with_reducible apply Keeps.trans _ (State.serveRead_keeps _ _) | with_reducible apply Keeps.trans _ (State.setTxn_keeps _ _) | with_reducible refine Keeps.ite (fun _ => ?_) (fun _ => ?_) | split))

theorem State.touch_keeps (s : State) (k : Nat) : Keeps s (State.touch s k) := by
  unfold State.touch
  repeat' (first | with_reducible exact Keeps.refl _ | (with_reducible apply Keeps.lit; (on_goal 2 => with_reducible rfl); first | with_reducible exact Keeps.refl _))

theorem State.takeWay_keeps (s : State) (t : Txn) (h : Nat) (k : Nat) : Keeps s (State.takeWay s t h k) := by
  unfold State.takeWay
  try dsimp only
  repeat' (first | with_reducible exact Keeps.refl _ | with_reducible assumption | with_reducible apply Keeps.trans _ (State.noteWrite_keeps _ _) | with_reducible apply Keeps.trans _ (State.putWay_keeps _ _ _) | with_reducible apply Keeps.trans _ (State.readOrAck_keeps _ _) | with_reducible apply Keeps.trans _ (State.setTxn_keeps _ _) | with_reducible apply Keeps.trans _ (State.touch_keeps _ _) | with_reducible refine Keeps.ite (fun _ => ?_) (fun _ => ?_) | with_reducible refine Keeps.foldl ?_ (fun _ _ => ?_) | with_reducible refine Keeps.foldl_fst ?_ (fun _ _ => ?_) | with_reducible refine Keeps.foldl_snd ?_ (fun _ _ => ?_) | with_reducible apply Keeps.cond | with_reducible refine Keeps.getD ?_ (fun _ _ => ?_) | split | (with_reducible apply Keeps.lit; (on_goal 2 => with_reducible rfl); first | with_reducible exact Keeps.refl _ | with_reducible assumption | with_reducible apply Keeps.trans _ (State.noteWrite_keeps _ _) | with_reducible apply Keeps.trans _ (State.putWay_keeps _ _ _) | with_reducible apply Keeps.trans _ (State.readOrAck_keeps _ _) | with_reducible apply Keeps.trans _ (State.setTxn_keeps _ _) | with_reducible apply Keeps.trans _ (State.touch_keeps _ _) | with_reducible refine Keeps.ite (fun _ => ?_) (fun _ => ?_) | with_reducible refine Keeps.foldl ?_ (fun _ _ => ?_) | with_reducible refine Keeps.foldl_fst ?_ (fun _ _ => ?_) | with_reducible refine Keeps.foldl_snd ?_ (fun _ _ => ?_) | with_reducible apply Keeps.cond | with_reducible refine Keeps.getD ?_ (fun _ _ => ?_) | split))

theorem State.endExch_keeps (s : State) (x : Exch) (heads : List Nat) : Keeps s (State.endExch s x heads) := by
  unfold State.endExch
  try dsimp only
  repeat' (first | with_reducible exact Keeps.refl _ | with_reducible apply Keeps.trans _ (State.delWay_keeps _ _) | with_reducible apply Keeps.trans _ (State.dropExch_keeps _ _) | with_reducible apply Keeps.trans _ (State.raiseTimeouts_keeps _ _) | with_reducible apply Keeps.trans _ (State.recallEnd_keeps _ _ _) | with_reducible apply Keeps.trans _ (State.resume_keeps _ _ _ _) | with_reducible apply Keeps.trans _ (State.takeWay_keeps _ _ _ _) | with_reducible refine Keeps.ite (fun _ => ?_) (fun _ => ?_) | split | (with_reducible apply Keeps.lit; (on_goal 2 => with_reducible rfl); first | with_reducible exact Keeps.refl _ | with_reducible apply Keeps.trans _ (State.delWay_keeps _ _) | with_reducible apply Keeps.trans _ (State.dropExch_keeps _ _) | with_reducible apply Keeps.trans _ (State.raiseTimeouts_keeps _ _) | with_reducible apply Keeps.trans _ (State.recallEnd_keeps _ _ _) | with_reducible apply Keeps.trans _ (State.resume_keeps _ _ _ _) | with_reducible apply Keeps.trans _ (State.takeWay_keeps _ _ _ _) | with_reducible refine Keeps.ite (fun _ => ?_) (fun _ => ?_) | split))

theorem State.setExch_keeps (s : State) (x : Exch) : Keeps s (State.setExch s x) := by
  unfold State.setExch
  repeat' (first | with_reducible exact Keeps.refl _ | (with_reducible apply Keeps.lit; (on_goal 2 => with_reducible rfl); first | with_reducible exact Keeps.refl _))

theorem State.endWait_keeps (s : State) (x : Exch) (h : Nat) : Keeps s (State.endWait s x h) := by
  unfold State.endWait
  try dsimp only
  repeat' (first | with_reducible exact Keeps.refl _ | with_reducible apply Keeps.trans _ (State.afterWalk_keeps _ _ _) | with_reducible apply Keeps.trans _ (State.endExch_keeps _ _ _) | with_reducible apply Keeps.trans _ (State.setExch_keeps _ _) | with_reducible refine Keeps.ite (fun _ => ?_) (fun _ => ?_) | split | (with_reducible apply Keeps.lit; (on_goal 2 => with_reducible rfl); first | with_reducible exact Keeps.refl _ | with_reducible apply Keeps.trans _ (State.afterWalk_keeps _ _ _) | with_reducible apply Keeps.trans _ (State.endExch_keeps _ _ _) | with_reducible apply Keeps.trans _ (State.setExch_keeps _ _) | with_reducible refine Keeps.ite (fun _ => ?_) (fun _ => ?_) | split))

theorem State.stopWait_keeps (s : State) (x : Exch) (h : Nat) : Keeps s (State.stopWait s x h) := by
  unfold State.stopWait
  try dsimp only
  repeat' (first | with_reducible exact Keeps.refl _ | with_reducible apply Keeps.trans _ (State.endWait_keeps _ _ _) | with_reducible apply Keeps.trans _ (State.poisonLine_keeps _ _) | with_reducible apply Keeps.trans _ (State.setExch_keeps _ _) | with_reducible refine Keeps.ite (fun _ => ?_) (fun _ => ?_) | split | (with_reducible apply Keeps.lit; (on_goal 2 => with_reducible rfl); first | with_reducible exact Keeps.refl _ | with_reducible apply Keeps.trans _ (State.endWait_keeps _ _ _) | with_reducible apply Keeps.trans _ (State.poisonLine_keeps _ _) | with_reducible apply Keeps.trans _ (State.setExch_keeps _ _) | with_reducible refine Keeps.ite (fun _ => ?_) (fun _ => ?_) | split))

theorem State.abruptLine_keeps (s : State) (h : Nat) (line : Nat) : Keeps s (State.abruptLine s h line) := by
  unfold State.abruptLine
  try dsimp only
  repeat' (first | with_reducible exact Keeps.refl _ | with_reducible assumption | with_reducible apply Keeps.trans _ (State.abruptOn_keeps _ _ _ _) | with_reducible apply Keeps.trans _ (State.stopWait_keeps _ _ _) | with_reducible refine Keeps.ite (fun _ => ?_) (fun _ => ?_) | with_reducible refine Keeps.foldl ?_ (fun _ _ => ?_) | with_reducible refine Keeps.foldl_fst ?_ (fun _ _ => ?_) | with_reducible refine Keeps.foldl_snd ?_ (fun _ _ => ?_) | with_reducible apply Keeps.cond | with_reducible refine Keeps.getD ?_ (fun _ _ => ?_) | split | (with_reducible apply Keeps.lit; (on_goal 2 => with_reducible rfl); first | with_reducible exact Keeps.refl _ | with_reducible assumption | with_reducible apply Keeps.trans _ (State.abruptOn_keeps _ _ _ _) | with_reducible apply Keeps.trans _ (State.stopWait_keeps _ _ _) | with_reducible refine Keeps.ite (fun _ => ?_) (fun _ => ?_) | with_reducible refine Keeps.foldl ?_ (fun _ _ => ?_) | with_reducible refine Keeps.foldl_fst ?_ (fun _ _ => ?_) | with_reducible refine Keeps.foldl_snd ?_ (fun _ _ => ?_) | with_reducible apply Keeps.cond | with_reducible refine Keeps.getD ?_ (fun _ _ => ?_) | split))

theorem State.benchIt_keeps (s : State) (t : Txn) : Keeps s (State.benchIt s t) := by
  unfold State.benchIt
  try dsimp only
  repeat' (first | with_reducible exact Keeps.refl _ | with_reducible apply Keeps.trans _ (State.cnt_keeps _ _ _ _) | with_reducible apply Keeps.trans _ (State.dropTxn_keeps _ _) | with_reducible apply Keeps.trans _ (State.noteWait_keeps _ _) | with_reducible apply Keeps.trans _ (State.stn_keeps _ _ _ _) | with_reducible apply Keeps.trans _ (State.wr_keeps _ _ _) | with_reducible refine Keeps.ite (fun _ => ?_) (fun _ => ?_) | split | (with_reducible apply Keeps.lit; (on_goal 2 => with_reducible rfl); first | with_reducible exact Keeps.refl _ | with_reducible apply Keeps.trans _ (State.cnt_keeps _ _ _ _) | with_reducible apply Keeps.trans _ (State.dropTxn_keeps _ _) | with_reducible apply Keeps.trans _ (State.noteWait_keeps _ _) | with_reducible apply Keeps.trans _ (State.stn_keeps _ _ _ _) | with_reducible apply Keeps.trans _ (State.wr_keeps _ _ _) | with_reducible refine Keeps.ite (fun _ => ?_) (fun _ => ?_) | split))

theorem State.cleanStopped_keeps (s : State) (line : Nat) : Keeps s (State.cleanStopped s line) := by
  unfold State.cleanStopped
  try dsimp only
  repeat' (first | with_reducible exact Keeps.refl _ | with_reducible assumption | with_reducible apply Keeps.trans _ (State.abruptOn_keeps _ _ _ _) | with_reducible refine Keeps.ite (fun _ => ?_) (fun _ => ?_) | with_reducible refine Keeps.foldl ?_ (fun _ _ => ?_) | split | (with_reducible apply Keeps.lit; (on_goal 2 => with_reducible rfl); first | with_reducible exact Keeps.refl _ | with_reducible assumption | with_reducible apply Keeps.trans _ (State.abruptOn_keeps _ _ _ _) | with_reducible refine Keeps.ite (fun _ => ?_) (fun _ => ?_) | with_reducible refine Keeps.foldl ?_ (fun _ _ => ?_) | split))

theorem State.sendBisnp_keeps (s : State) (h : Nat) (line : Nat) (snp : Snp) : Keeps s (State.sendBisnp s h line snp) := by
  unfold State.sendBisnp
  repeat' (first | with_reducible exact Keeps.refl _ | with_reducible apply Keeps.trans _ (State.cnt_keeps _ _ _ _) | with_reducible apply Keeps.trans _ (State.ldCnt_keeps _ _ _ _) | with_reducible apply Keeps.trans _ (State.stn_keeps _ _ _ _) | with_reducible apply Keeps.trans _ (State.wakeLink_keeps _ _) | with_reducible apply Keeps.trans _ (State.emit_keeps _ _))

theorem State.openExch_keeps (s : State) (line : Nat) (why : ExchWhy) (heads : List Nat) (snp : Snp) : Keeps s (State.openExch s line why heads snp) := by
  unfold State.openExch
  try dsimp only
  repeat' (first | with_reducible exact Keeps.refl _ | with_reducible assumption | with_reducible apply Keeps.trans _ (State.sendBisnp_keeps _ _ _ _) | with_reducible refine Keeps.ite (fun _ => ?_) (fun _ => ?_) | with_reducible refine Keeps.foldl ?_ (fun _ _ => ?_) | split | (with_reducible apply Keeps.lit; (on_goal 2 => with_reducible rfl); first | with_reducible exact Keeps.refl _ | with_reducible assumption | with_reducible apply Keeps.trans _ (State.sendBisnp_keeps _ _ _ _) | with_reducible refine Keeps.ite (fun _ => ?_) (fun _ => ?_) | with_reducible refine Keeps.foldl ?_ (fun _ _ => ?_) | split))

theorem State.allocWay_keeps (s : State) (t : Txn) (h : Nat) : Keeps s (State.allocWay s t h) := by
  unfold State.allocWay
  try dsimp only
  repeat' (first | with_reducible exact Keeps.refl _ | with_reducible apply Keeps.trans _ (State.benchIt_keeps _ _) | with_reducible apply Keeps.trans _ (State.cleanStopped_keeps _ _) | with_reducible apply Keeps.trans _ (State.cnt_keeps _ _ _ _) | with_reducible apply Keeps.trans _ (State.noteWait_keeps _ _) | with_reducible apply Keeps.trans _ (State.openExch_keeps _ _ _ _ _) | with_reducible apply Keeps.trans _ (State.putWay_keeps _ _ _) | with_reducible apply Keeps.trans _ (State.setTxn_keeps _ _) | with_reducible apply Keeps.trans _ (State.takeWay_keeps _ _ _ _) | with_reducible refine Keeps.ite (fun _ => ?_) (fun _ => ?_) | split | (with_reducible apply Keeps.lit; (on_goal 2 => with_reducible rfl); first | with_reducible exact Keeps.refl _ | with_reducible apply Keeps.trans _ (State.benchIt_keeps _ _) | with_reducible apply Keeps.trans _ (State.cleanStopped_keeps _ _) | with_reducible apply Keeps.trans _ (State.cnt_keeps _ _ _ _) | with_reducible apply Keeps.trans _ (State.noteWait_keeps _ _) | with_reducible apply Keeps.trans _ (State.openExch_keeps _ _ _ _ _) | with_reducible apply Keeps.trans _ (State.putWay_keeps _ _ _) | with_reducible apply Keeps.trans _ (State.setTxn_keeps _ _) | with_reducible apply Keeps.trans _ (State.takeWay_keeps _ _ _ _) | with_reducible refine Keeps.ite (fun _ => ?_) (fun _ => ?_) | split))

theorem State.biTimedOut_keeps (s : State) (x : Exch) (h : Nat) : Keeps s (State.biTimedOut s x h) := by
  unfold State.biTimedOut
  try dsimp only
  repeat' (first | with_reducible exact Keeps.refl _ | with_reducible apply Keeps.trans _ (State.delWay_keeps _ _) | with_reducible apply Keeps.trans _ (State.endWait_keeps _ _ _) | with_reducible apply Keeps.trans _ (State.poisonLine_keeps _ _) | with_reducible apply Keeps.trans _ (State.putWay_keeps _ _ _) | with_reducible apply Keeps.trans _ (State.setExch_keeps _ _) | with_reducible refine Keeps.ite (fun _ => ?_) (fun _ => ?_) | split | (with_reducible apply Keeps.lit; (on_goal 2 => with_reducible rfl); first | with_reducible exact Keeps.refl _ | with_reducible apply Keeps.trans _ (State.delWay_keeps _ _) | with_reducible apply Keeps.trans _ (State.endWait_keeps _ _ _) | with_reducible apply Keeps.trans _ (State.poisonLine_keeps _ _) | with_reducible apply Keeps.trans _ (State.putWay_keeps _ _ _) | with_reducible apply Keeps.trans _ (State.setExch_keeps _ _) | with_reducible refine Keeps.ite (fun _ => ?_) (fun _ => ?_) | split))

theorem State.pageSide_keeps (s : State) (t : Txn) : Keeps s (State.pageSide s t) := by
  unfold State.pageSide
  try dsimp only
  repeat' (first | with_reducible exact Keeps.refl _ | with_reducible apply Keeps.trans _ (State.finish_keeps _ _ _ _) | with_reducible apply Keeps.trans _ (State.readOrAck_keeps _ _) | with_reducible apply Keeps.trans _ (State.serveWrite_keeps _ _) | with_reducible refine Keeps.ite (fun _ => ?_) (fun _ => ?_) | split | (with_reducible apply Keeps.lit; (on_goal 2 => with_reducible rfl); first | with_reducible exact Keeps.refl _ | with_reducible apply Keeps.trans _ (State.finish_keeps _ _ _ _) | with_reducible apply Keeps.trans _ (State.readOrAck_keeps _ _) | with_reducible apply Keeps.trans _ (State.serveWrite_keeps _ _) | with_reducible refine Keeps.ite (fun _ => ?_) (fun _ => ?_) | split))

theorem State.stale_keeps (s : State) (line : Nat) : Keeps s (State.stale s line) := by
  unfold State.stale
  repeat' (first | with_reducible exact Keeps.refl _ | with_reducible apply Keeps.trans _ (State.sat_keeps _ _ _))

theorem State.transition_keeps (s : State) (w : Txn) (h : Nat) : Keeps s (State.transition s w h) := by
  unfold State.transition
  try dsimp only
  repeat' (first | with_reducible exact Keeps.refl _ | with_reducible apply Keeps.trans _ (State.allocWay_keeps _ _ _) | with_reducible apply Keeps.trans _ (State.delWay_keeps _ _) | with_reducible apply Keeps.trans _ (State.finish_keeps _ _ _ _) | with_reducible apply Keeps.trans _ (State.noteWait_keeps _ _) | with_reducible apply Keeps.trans _ (State.noteWrite_keeps _ _) | with_reducible apply Keeps.trans _ (State.openExch_keeps _ _ _ _ _) | with_reducible apply Keeps.trans _ (State.putWay_keeps _ _ _) | with_reducible apply Keeps.trans _ (State.readOrAck_keeps _ _) | with_reducible apply Keeps.trans _ (State.serveRead_keeps _ _) | with_reducible apply Keeps.trans _ (State.serveWrite_keeps _ _) | with_reducible apply Keeps.trans _ (State.setEntry_keeps _ _ _) | with_reducible apply Keeps.trans _ (State.setTxn_keeps _ _) | with_reducible apply Keeps.trans _ (State.stale_keeps _ _) | with_reducible apply Keeps.trans _ (State.touch_keeps _ _) | with_reducible refine Keeps.ite (fun _ => ?_) (fun _ => ?_) | split | (with_reducible apply Keeps.lit; (on_goal 2 => with_reducible rfl); first | with_reducible exact Keeps.refl _ | with_reducible apply Keeps.trans _ (State.allocWay_keeps _ _ _) | with_reducible apply Keeps.trans _ (State.delWay_keeps _ _) | with_reducible apply Keeps.trans _ (State.finish_keeps _ _ _ _) | with_reducible apply Keeps.trans _ (State.noteWait_keeps _ _) | with_reducible apply Keeps.trans _ (State.noteWrite_keeps _ _) | with_reducible apply Keeps.trans _ (State.openExch_keeps _ _ _ _ _) | with_reducible apply Keeps.trans _ (State.putWay_keeps _ _ _) | with_reducible apply Keeps.trans _ (State.readOrAck_keeps _ _) | with_reducible apply Keeps.trans _ (State.serveRead_keeps _ _) | with_reducible apply Keeps.trans _ (State.serveWrite_keeps _ _) | with_reducible apply Keeps.trans _ (State.setEntry_keeps _ _ _) | with_reducible apply Keeps.trans _ (State.setTxn_keeps _ _) | with_reducible apply Keeps.trans _ (State.stale_keeps _ _) | with_reducible apply Keeps.trans _ (State.touch_keeps _ _) | with_reducible refine Keeps.ite (fun _ => ?_) (fun _ => ?_) | split))

theorem State.dispatchDb_keeps (s : State) (t : Txn) (h : Nat) : Keeps s (State.dispatchDb s t h) := by
  unfold State.dispatchDb
  try dsimp only
  repeat' (first | with_reducible exact Keeps.refl _ | with_reducible apply Keeps.trans _ (State.cleanStopped_keeps _ _) | with_reducible apply Keeps.trans _ (State.pageSide_keeps _ _) | with_reducible apply Keeps.trans _ (State.setTxn_keeps _ _) | with_reducible apply Keeps.trans _ (State.transition_keeps _ _ _) | with_reducible refine Keeps.ite (fun _ => ?_) (fun _ => ?_) | split | (with_reducible apply Keeps.lit; (on_goal 2 => with_reducible rfl); first | with_reducible exact Keeps.refl _ | with_reducible apply Keeps.trans _ (State.cleanStopped_keeps _ _) | with_reducible apply Keeps.trans _ (State.pageSide_keeps _ _) | with_reducible apply Keeps.trans _ (State.setTxn_keeps _ _) | with_reducible apply Keeps.trans _ (State.transition_keeps _ _ _) | with_reducible refine Keeps.ite (fun _ => ?_) (fun _ => ?_) | split))

theorem State.stopWaits_keeps (s : State) (h : Nat) : Keeps s (State.stopWaits s h) := by
  unfold State.stopWaits
  try dsimp only
  repeat' (first | with_reducible exact Keeps.refl _ | with_reducible assumption | with_reducible apply Keeps.trans _ (State.abruptLine_keeps _ _ _) | with_reducible refine Keeps.ite (fun _ => ?_) (fun _ => ?_) | with_reducible refine Keeps.foldl ?_ (fun _ _ => ?_) | with_reducible refine Keeps.foldl_fst ?_ (fun _ _ => ?_) | with_reducible refine Keeps.foldl_snd ?_ (fun _ _ => ?_) | with_reducible apply Keeps.cond | with_reducible refine Keeps.getD ?_ (fun _ _ => ?_) | split | (with_reducible apply Keeps.lit; (on_goal 2 => with_reducible rfl); first | with_reducible exact Keeps.refl _ | with_reducible assumption | with_reducible apply Keeps.trans _ (State.abruptLine_keeps _ _ _) | with_reducible refine Keeps.ite (fun _ => ?_) (fun _ => ?_) | with_reducible refine Keeps.foldl ?_ (fun _ _ => ?_) | with_reducible refine Keeps.foldl_fst ?_ (fun _ _ => ?_) | with_reducible refine Keeps.foldl_snd ?_ (fun _ _ => ?_) | with_reducible apply Keeps.cond | with_reducible refine Keeps.getD ?_ (fun _ _ => ?_) | split))

end Sys2Proof.Machine
end

