-- ==== Sys2Proof/Laws/KeepsSlice.lean ====
section
/-! SUPPORT. Every operation of Machine/Slice.lean keeps what `Keeps` says: one lemma for each. -/
namespace Sys2Proof.Machine
set_option linter.unreachableTactic false
set_option linter.unusedTactic false

theorem State.snoopBound_keeps (s : State) (t : Txn) (h : Nat) : Keeps s (State.snoopBound s t h) := by
  unfold State.snoopBound
  try dsimp only
  repeat' (first | with_reducible exact Keeps.refl _ | with_reducible apply Keeps.trans _ (State.setExch_keeps _ _) | with_reducible refine Keeps.ite (fun _ => ?_) (fun _ => ?_) | split | (with_reducible apply Keeps.lit; (on_goal 2 => with_reducible rfl); first | with_reducible exact Keeps.refl _ | with_reducible apply Keeps.trans _ (State.setExch_keeps _ _) | with_reducible refine Keeps.ite (fun _ => ?_) (fun _ => ?_) | split))

theorem State.accepted_keeps (s : State) (t : Txn) : Keeps s (State.accepted s t) := by
  unfold State.accepted
  try dsimp only
  repeat' (first | with_reducible exact Keeps.refl _ | with_reducible apply Keeps.trans _ (State.finish_keeps _ _ _ _) | with_reducible apply Keeps.trans _ (State.snoopBound_keeps _ _ _) | with_reducible refine Keeps.ite (fun _ => ?_) (fun _ => ?_) | split | (with_reducible apply Keeps.lit; (on_goal 2 => with_reducible rfl); first | with_reducible exact Keeps.refl _ | with_reducible apply Keeps.trans _ (State.finish_keeps _ _ _ _) | with_reducible apply Keeps.trans _ (State.snoopBound_keeps _ _ _) | with_reducible refine Keeps.ite (fun _ => ?_) (fun _ => ?_) | split))

theorem State.firstWrite_keeps (s : State) (t : Txn) (pz : Bool) : Keeps s (State.firstWrite s t pz) := by
  unfold State.firstWrite
  try dsimp only
  repeat' (first | with_reducible exact Keeps.refl _ | with_reducible assumption | with_reducible apply Keeps.trans _ (State.accepted_keeps _ _) | with_reducible apply Keeps.trans _ (State.finish_keeps _ _ _ _) | with_reducible apply Keeps.trans _ (State.makeReadonly_keeps _ _) | with_reducible apply Keeps.trans _ (State.pressure_keeps _) | with_reducible apply Keeps.trans _ (State.setForm_keeps _ _ _) | with_reducible apply Keeps.trans _ (State.storeFrame_keeps _ _ _ _ _ _ _) | with_reducible apply Keeps.trans _ (State.waitCtr_keeps _ _) | with_reducible refine Keeps.ite (fun _ => ?_) (fun _ => ?_) | with_reducible refine Keeps.foldl ?_ (fun _ _ => ?_) | with_reducible refine Keeps.foldl_fst ?_ (fun _ _ => ?_) | with_reducible refine Keeps.foldl_snd ?_ (fun _ _ => ?_) | with_reducible apply Keeps.cond | with_reducible refine Keeps.getD ?_ (fun _ _ => ?_) | split | with_reducible refine Keeps.trans ?_ (State.allocFrame_keeps _ _ _ ‹State.allocFrame _ _ _ = some _›) | (with_reducible apply Keeps.lit; (on_goal 2 => with_reducible rfl); first | with_reducible exact Keeps.refl _ | with_reducible assumption | with_reducible apply Keeps.trans _ (State.accepted_keeps _ _) | with_reducible apply Keeps.trans _ (State.finish_keeps _ _ _ _) | with_reducible apply Keeps.trans _ (State.makeReadonly_keeps _ _) | with_reducible apply Keeps.trans _ (State.pressure_keeps _) | with_reducible apply Keeps.trans _ (State.setForm_keeps _ _ _) | with_reducible apply Keeps.trans _ (State.storeFrame_keeps _ _ _ _ _ _ _) | with_reducible apply Keeps.trans _ (State.waitCtr_keeps _ _) | with_reducible refine Keeps.ite (fun _ => ?_) (fun _ => ?_) | with_reducible refine Keeps.foldl ?_ (fun _ _ => ?_) | with_reducible refine Keeps.foldl_fst ?_ (fun _ _ => ?_) | with_reducible refine Keeps.foldl_snd ?_ (fun _ _ => ?_) | with_reducible apply Keeps.cond | with_reducible refine Keeps.getD ?_ (fun _ _ => ?_) | split | with_reducible refine Keeps.trans ?_ (State.allocFrame_keeps _ _ _ ‹State.allocFrame _ _ _ = some _›)))

theorem State.acceptWrite_keeps (s : State) (t : Txn) : Keeps s (State.acceptWrite s t) := by
  unfold State.acceptWrite
  try dsimp only
  repeat' (first | with_reducible exact Keeps.refl _ | with_reducible assumption | with_reducible apply Keeps.trans _ (State.accepted_keeps _ _) | with_reducible apply Keeps.trans _ (State.finish_keeps _ _ _ _) | with_reducible apply Keeps.trans _ (State.firstWrite_keeps _ _ _) | with_reducible apply Keeps.trans _ (State.noteWrite_keeps _ _) | with_reducible apply Keeps.trans _ (State.refusalEvent_keeps _ _) | with_reducible apply Keeps.trans _ (State.setTxn_keeps _ _) | with_reducible apply Keeps.trans _ (State.wcbPut_keeps _ _ _ _ _ _) | with_reducible refine Keeps.ite (fun _ => ?_) (fun _ => ?_) | with_reducible refine Keeps.foldl ?_ (fun _ _ => ?_) | with_reducible refine Keeps.foldl_fst ?_ (fun _ _ => ?_) | with_reducible refine Keeps.foldl_snd ?_ (fun _ _ => ?_) | with_reducible apply Keeps.cond | with_reducible refine Keeps.getD ?_ (fun _ _ => ?_) | split | (with_reducible apply Keeps.lit; (on_goal 2 => with_reducible rfl); first | with_reducible exact Keeps.refl _ | with_reducible assumption | with_reducible apply Keeps.trans _ (State.accepted_keeps _ _) | with_reducible apply Keeps.trans _ (State.finish_keeps _ _ _ _) | with_reducible apply Keeps.trans _ (State.firstWrite_keeps _ _ _) | with_reducible apply Keeps.trans _ (State.noteWrite_keeps _ _) | with_reducible apply Keeps.trans _ (State.refusalEvent_keeps _ _) | with_reducible apply Keeps.trans _ (State.setTxn_keeps _ _) | with_reducible apply Keeps.trans _ (State.wcbPut_keeps _ _ _ _ _ _) | with_reducible refine Keeps.ite (fun _ => ?_) (fun _ => ?_) | with_reducible refine Keeps.foldl ?_ (fun _ _ => ?_) | with_reducible refine Keeps.foldl_fst ?_ (fun _ _ => ?_) | with_reducible refine Keeps.foldl_snd ?_ (fun _ _ => ?_) | with_reducible apply Keeps.cond | with_reducible refine Keeps.getD ?_ (fun _ _ => ?_) | split))

theorem State.dispatchPlain_keeps (s : State) (t : Txn) : Keeps s (State.dispatchPlain s t) := by
  unfold State.dispatchPlain
  try dsimp only
  repeat' (first | with_reducible exact Keeps.refl _ | with_reducible apply Keeps.trans _ (State.finish_keeps _ _ _ _) | with_reducible apply Keeps.trans _ (State.serveRead_keeps _ _) | with_reducible apply Keeps.trans _ (State.serveWrite_keeps _ _) | with_reducible apply Keeps.trans _ (State.setTxn_keeps _ _) | with_reducible refine Keeps.ite (fun _ => ?_) (fun _ => ?_) | split | (with_reducible apply Keeps.lit; (on_goal 2 => with_reducible rfl); first | with_reducible exact Keeps.refl _ | with_reducible apply Keeps.trans _ (State.finish_keeps _ _ _ _) | with_reducible apply Keeps.trans _ (State.serveRead_keeps _ _) | with_reducible apply Keeps.trans _ (State.serveWrite_keeps _ _) | with_reducible apply Keeps.trans _ (State.setTxn_keeps _ _) | with_reducible refine Keeps.ite (fun _ => ?_) (fun _ => ?_) | split))

theorem State.dispatch_keeps (s : State) (t : Txn) : Keeps s (State.dispatch s t) := by
  unfold State.dispatch
  try dsimp only
  repeat' (first | with_reducible exact Keeps.refl _ | with_reducible apply Keeps.trans _ (State.acceptWrite_keeps _ _) | with_reducible apply Keeps.trans _ (State.dispatchDb_keeps _ _ _) | with_reducible apply Keeps.trans _ (State.dispatchPlain_keeps _ _) | with_reducible apply Keeps.trans _ (State.noteWait_keeps _ _) | with_reducible apply Keeps.trans _ (State.setTxn_keeps _ _) | with_reducible refine Keeps.ite (fun _ => ?_) (fun _ => ?_) | split | (with_reducible apply Keeps.lit; (on_goal 2 => with_reducible rfl); first | with_reducible exact Keeps.refl _ | with_reducible apply Keeps.trans _ (State.acceptWrite_keeps _ _) | with_reducible apply Keeps.trans _ (State.dispatchDb_keeps _ _ _) | with_reducible apply Keeps.trans _ (State.dispatchPlain_keeps _ _) | with_reducible apply Keeps.trans _ (State.noteWait_keeps _ _) | with_reducible apply Keeps.trans _ (State.setTxn_keeps _ _) | with_reducible refine Keeps.ite (fun _ => ?_) (fun _ => ?_) | split))

theorem State.accMissed_keeps (s : State) (t : Txn) : Keeps s (State.accMissed s t) := by
  unfold State.accMissed
  try dsimp only
  repeat' (first | with_reducible exact Keeps.refl _ | with_reducible assumption | with_reducible apply Keeps.trans _ (State.dispatch_keeps _ _) | with_reducible apply Keeps.trans _ (State.metaRead_keeps _ _ _ _) | with_reducible apply Keeps.trans _ (State.setTxn_keeps _ _) | with_reducible refine Keeps.ite (fun _ => ?_) (fun _ => ?_) | with_reducible refine Keeps.foldl ?_ (fun _ _ => ?_) | with_reducible refine Keeps.foldl_fst ?_ (fun _ _ => ?_) | with_reducible refine Keeps.foldl_snd ?_ (fun _ _ => ?_) | with_reducible apply Keeps.cond | with_reducible refine Keeps.getD ?_ (fun _ _ => ?_) | split | (with_reducible apply Keeps.lit; (on_goal 2 => with_reducible rfl); first | with_reducible exact Keeps.refl _ | with_reducible assumption | with_reducible apply Keeps.trans _ (State.dispatch_keeps _ _) | with_reducible apply Keeps.trans _ (State.metaRead_keeps _ _ _ _) | with_reducible apply Keeps.trans _ (State.setTxn_keeps _ _) | with_reducible refine Keeps.ite (fun _ => ?_) (fun _ => ?_) | with_reducible refine Keeps.foldl ?_ (fun _ _ => ?_) | with_reducible refine Keeps.foldl_fst ?_ (fun _ _ => ?_) | with_reducible refine Keeps.foldl_snd ?_ (fun _ _ => ?_) | with_reducible apply Keeps.cond | with_reducible refine Keeps.getD ?_ (fun _ _ => ?_) | split))

theorem State.benchServe_keeps (s : State) (slice : Nat) (set : Nat) : Keeps s (State.benchServe s slice set) := by
  unfold State.benchServe
  try dsimp only
  repeat' (first | with_reducible exact Keeps.refl _ | with_reducible apply Keeps.trans _ (State.dispatchDb_keeps _ _ _) | with_reducible refine Keeps.ite (fun _ => ?_) (fun _ => ?_) | split | (with_reducible apply Keeps.lit; (on_goal 2 => with_reducible rfl); first | with_reducible exact Keeps.refl _ | with_reducible apply Keeps.trans _ (State.dispatchDb_keeps _ _ _) | with_reducible refine Keeps.ite (fun _ => ?_) (fun _ => ?_) | split))

theorem State.benchFirst_keeps (s : State) (slice : Nat) : Keeps s (State.benchFirst s slice) := by
  unfold State.benchFirst
  try dsimp only
  repeat' (first | with_reducible exact Keeps.refl _ | with_reducible assumption | with_reducible apply Keeps.trans _ (State.benchServe_keeps _ _ _) | with_reducible refine Keeps.ite (fun _ => ?_) (fun _ => ?_) | with_reducible refine Keeps.foldl ?_ (fun _ _ => ?_) | with_reducible refine Keeps.foldl_fst ?_ (fun _ _ => ?_) | with_reducible refine Keeps.foldl_snd ?_ (fun _ _ => ?_) | with_reducible apply Keeps.cond | with_reducible refine Keeps.getD ?_ (fun _ _ => ?_) | split | (with_reducible apply Keeps.lit; (on_goal 2 => with_reducible rfl); first | with_reducible exact Keeps.refl _ | with_reducible assumption | with_reducible apply Keeps.trans _ (State.benchServe_keeps _ _ _) | with_reducible refine Keeps.ite (fun _ => ?_) (fun _ => ?_) | with_reducible refine Keeps.foldl ?_ (fun _ _ => ?_) | with_reducible refine Keeps.foldl_fst ?_ (fun _ _ => ?_) | with_reducible refine Keeps.foldl_snd ?_ (fun _ _ => ?_) | with_reducible apply Keeps.cond | with_reducible refine Keeps.getD ?_ (fun _ _ => ?_) | split))

theorem State.closePort_keeps (s : State) (slice : Nat) : Keeps s (State.closePort s slice) := by
  unfold State.closePort
  try dsimp only
  repeat' (first | with_reducible exact Keeps.refl _ | with_reducible refine Keeps.ite (fun _ => ?_) (fun _ => ?_) | split | (with_reducible apply Keeps.lit; (on_goal 2 => with_reducible rfl); first | with_reducible exact Keeps.refl _ | with_reducible refine Keeps.ite (fun _ => ?_) (fun _ => ?_) | split))

theorem State.noteAdmit_keeps (s : State) (slice : Nat) (n : Nat) : Keeps s (State.noteAdmit s slice n) := by
  unfold State.noteAdmit
  try dsimp only
  repeat' (first | with_reducible exact Keeps.refl _ | with_reducible assumption | with_reducible apply Keeps.trans _ (State.stn_keeps _ _ _ _) | with_reducible refine Keeps.ite (fun _ => ?_) (fun _ => ?_) | with_reducible refine Keeps.foldl ?_ (fun _ _ => ?_) | with_reducible refine Keeps.foldl_fst ?_ (fun _ _ => ?_) | with_reducible refine Keeps.foldl_snd ?_ (fun _ _ => ?_) | with_reducible apply Keeps.cond | with_reducible refine Keeps.getD ?_ (fun _ _ => ?_) | split | (with_reducible apply Keeps.lit; (on_goal 2 => with_reducible rfl); first | with_reducible exact Keeps.refl _ | with_reducible assumption | with_reducible apply Keeps.trans _ (State.stn_keeps _ _ _ _) | with_reducible refine Keeps.ite (fun _ => ?_) (fun _ => ?_) | with_reducible refine Keeps.foldl ?_ (fun _ _ => ?_) | with_reducible refine Keeps.foldl_fst ?_ (fun _ _ => ?_) | with_reducible refine Keeps.foldl_snd ?_ (fun _ _ => ?_) | with_reducible apply Keeps.cond | with_reducible refine Keeps.getD ?_ (fun _ _ => ?_) | split))

theorem State.noteDma_keeps (s : State) (key : Nat) : Keeps s (State.noteDma s key) := by
  unfold State.noteDma
  repeat' (first | with_reducible exact Keeps.refl _ | (with_reducible apply Keeps.lit; (on_goal 2 => with_reducible rfl); first | with_reducible exact Keeps.refl _))

theorem State.dmaAdmit_keeps (s : State) (slice : Nat) {res} (h : State.dmaAdmit s slice = some res) : Keeps s res := by
  unfold State.dmaAdmit at h
  try dsimp only at h
  repeat' split at h
  all_goals first | contradiction | skip
  all_goals simp only [Option.some.injEq, Option.map_eq_some_iff] at h
  all_goals try (obtain ⟨_, _, h⟩ := h)
  all_goals try subst h
  all_goals repeat' (first | with_reducible exact Keeps.refl _ | with_reducible apply Keeps.trans _ (State.noteAdmit_keeps _ _ _) | with_reducible apply Keeps.trans _ (State.noteDma_keeps _ _))

theorem State.showFences_keeps (s : State) (h : Nat) : Keeps s (State.showFences s h) := by
  unfold State.showFences
  repeat' (first | with_reducible exact Keeps.refl _ | with_reducible apply Keeps.trans _ (State.wr_keeps _ _ _))

theorem State.fenceDone_keeps (s : State) (h : Nat) : Keeps s (State.fenceDone s h) := by
  unfold State.fenceDone
  try dsimp only
  repeat' (first | with_reducible exact Keeps.refl _ | with_reducible apply Keeps.trans _ (State.cnt_keeps _ _ _ _) | with_reducible apply Keeps.trans _ (State.inc_keeps _ _ _) | with_reducible apply Keeps.trans _ (State.ldCnt_keeps _ _ _ _) | with_reducible apply Keeps.trans _ (State.setFlag_keeps _ _ _) | with_reducible apply Keeps.trans _ (State.showFences_keeps _ _) | with_reducible apply Keeps.trans _ (State.wakeLink_keeps _ _) | with_reducible apply Keeps.trans _ (State.emit_keeps _ _) | with_reducible refine Keeps.ite (fun _ => ?_) (fun _ => ?_) | split | (with_reducible apply Keeps.lit; (on_goal 2 => with_reducible rfl); first | with_reducible exact Keeps.refl _ | with_reducible apply Keeps.trans _ (State.cnt_keeps _ _ _ _) | with_reducible apply Keeps.trans _ (State.inc_keeps _ _ _) | with_reducible apply Keeps.trans _ (State.ldCnt_keeps _ _ _ _) | with_reducible apply Keeps.trans _ (State.setFlag_keeps _ _ _) | with_reducible apply Keeps.trans _ (State.showFences_keeps _ _) | with_reducible apply Keeps.trans _ (State.wakeLink_keeps _ _) | with_reducible apply Keeps.trans _ (State.emit_keeps _ _) | with_reducible refine Keeps.ite (fun _ => ?_) (fun _ => ?_) | split))

theorem State.unbacked_keeps (s : State) (t : Txn) (h : Nat) (arg : Nat) : Keeps s (State.unbacked s t h arg) := by
  unfold State.unbacked
  repeat' (first | with_reducible exact Keeps.refl _ | with_reducible apply Keeps.trans _ (State.cnt_keeps _ _ _ _) | with_reducible apply Keeps.trans _ (State.finish_keeps _ _ _ _) | with_reducible apply Keeps.trans _ (State.raise_keeps _ _ _ _))

theorem State.takeIn_keeps (s : State) (slice : Nat) (n : Nat) (q : Req) : Keeps s (State.takeIn s slice n q) := by
  unfold State.takeIn
  try dsimp only
  repeat' (first | with_reducible exact Keeps.refl _ | with_reducible apply Keeps.trans _ (State.accMissed_keeps _ _) | with_reducible apply Keeps.trans _ (State.cnt_keeps _ _ _ _) | with_reducible apply Keeps.trans _ (State.dispatch_keeps _ _) | with_reducible apply Keeps.trans _ (State.finish_keeps _ _ _ _) | with_reducible apply Keeps.trans _ (State.noteAdmit_keeps _ _ _) | with_reducible apply Keeps.trans _ (State.noteDma_keeps _ _) | with_reducible apply Keeps.trans _ (State.stn_keeps _ _ _ _) | with_reducible apply Keeps.trans _ (State.unbacked_keeps _ _ _ _) | with_reducible apply Keeps.trans _ (State.advanceFree_keeps _) | with_reducible refine Keeps.ite (fun _ => ?_) (fun _ => ?_) | split | (with_reducible apply Keeps.lit; (on_goal 2 => with_reducible rfl); first | with_reducible exact Keeps.refl _ | with_reducible apply Keeps.trans _ (State.accMissed_keeps _ _) | with_reducible apply Keeps.trans _ (State.cnt_keeps _ _ _ _) | with_reducible apply Keeps.trans _ (State.dispatch_keeps _ _) | with_reducible apply Keeps.trans _ (State.finish_keeps _ _ _ _) | with_reducible apply Keeps.trans _ (State.noteAdmit_keeps _ _ _) | with_reducible apply Keeps.trans _ (State.noteDma_keeps _ _) | with_reducible apply Keeps.trans _ (State.stn_keeps _ _ _ _) | with_reducible apply Keeps.trans _ (State.unbacked_keeps _ _ _ _) | with_reducible apply Keeps.trans _ (State.advanceFree_keeps _) | with_reducible refine Keeps.ite (fun _ => ?_) (fun _ => ?_) | split))

theorem State.wakeOne_keeps (s : State) (slice : Nat) : Keeps s (State.wakeOne s slice) := by
  unfold State.wakeOne
  try dsimp only
  repeat' (first | with_reducible exact Keeps.refl _ | with_reducible apply Keeps.trans _ (State.dispatch_keeps _ _) | with_reducible refine Keeps.ite (fun _ => ?_) (fun _ => ?_) | split | (with_reducible apply Keeps.lit; (on_goal 2 => with_reducible rfl); first | with_reducible exact Keeps.refl _ | with_reducible apply Keeps.trans _ (State.dispatch_keeps _ _) | with_reducible refine Keeps.ite (fun _ => ?_) (fun _ => ?_) | split))

theorem State.sliceTick_keeps (s : State) (slice : Nat) : Keeps s (State.sliceTick s slice) := by
  unfold State.sliceTick
  try dsimp only
  repeat' (first | with_reducible exact Keeps.refl _ | with_reducible apply Keeps.trans _ (State.benchFirst_keeps _ _) | with_reducible apply Keeps.trans _ (State.closePort_keeps _ _) | with_reducible apply Keeps.trans _ (State.takeIn_keeps _ _ _ _) | with_reducible apply Keeps.trans _ (State.wakeOne_keeps _ _) | with_reducible refine Keeps.ite (fun _ => ?_) (fun _ => ?_) | split | (with_reducible apply Keeps.lit; (on_goal 2 => with_reducible rfl); first | with_reducible exact Keeps.refl _ | with_reducible apply Keeps.trans _ (State.benchFirst_keeps _ _) | with_reducible apply Keeps.trans _ (State.closePort_keeps _ _) | with_reducible apply Keeps.trans _ (State.takeIn_keeps _ _ _ _) | with_reducible apply Keeps.trans _ (State.wakeOne_keeps _ _) | with_reducible refine Keeps.ite (fun _ => ?_) (fun _ => ?_) | split))

theorem State.writeAccept_keeps (s : State) (slice : Nat) (id : Nat) : Keeps s (State.writeAccept s slice id) := by
  unfold State.writeAccept
  try dsimp only
  repeat' (first | with_reducible exact Keeps.refl _ | with_reducible apply Keeps.trans _ (State.acceptWrite_keeps _ _) | with_reducible refine Keeps.ite (fun _ => ?_) (fun _ => ?_) | split | (with_reducible apply Keeps.lit; (on_goal 2 => with_reducible rfl); first | with_reducible exact Keeps.refl _ | with_reducible apply Keeps.trans _ (State.acceptWrite_keeps _ _) | with_reducible refine Keeps.ite (fun _ => ?_) (fun _ => ?_) | split))

end Sys2Proof.Machine
end

