-- ==== Sys2Proof/Laws/KeepsChannel.lean ====
section
/-! SUPPORT. Every operation of Machine/Channel.lean keeps what `Keeps` says: one lemma for each. -/
namespace Sys2Proof.Machine
set_option linter.unreachableTactic false
set_option linter.unusedTactic false

theorem State.accBack_keeps (s : State) (n : Nat) (x : Line) : Keeps s (State.accBack s n x) := by
  unfold State.accBack
  try dsimp only
  repeat' (first | with_reducible exact Keeps.refl _ | with_reducible assumption | with_reducible apply Keeps.trans _ (State.raise_keeps _ _ _ _) | with_reducible apply Keeps.trans _ (State.setAcc_keeps _ _ _) | with_reducible apply Keeps.trans _ (State.setForm_keeps _ _ _) | with_reducible apply Keeps.trans _ (State.advanceFree_keeps _) | with_reducible refine Keeps.ite (fun _ => ?_) (fun _ => ?_) | with_reducible refine Keeps.foldl ?_ (fun _ _ => ?_) | with_reducible refine Keeps.foldl_fst ?_ (fun _ _ => ?_) | with_reducible refine Keeps.foldl_snd ?_ (fun _ _ => ?_) | with_reducible apply Keeps.cond | with_reducible refine Keeps.getD ?_ (fun _ _ => ?_) | split | (with_reducible apply Keeps.lit; (on_goal 2 => with_reducible rfl); first | with_reducible exact Keeps.refl _ | with_reducible assumption | with_reducible apply Keeps.trans _ (State.raise_keeps _ _ _ _) | with_reducible apply Keeps.trans _ (State.setAcc_keeps _ _ _) | with_reducible apply Keeps.trans _ (State.setForm_keeps _ _ _) | with_reducible apply Keeps.trans _ (State.advanceFree_keeps _) | with_reducible refine Keeps.ite (fun _ => ?_) (fun _ => ?_) | with_reducible refine Keeps.foldl ?_ (fun _ _ => ?_) | with_reducible refine Keeps.foldl_fst ?_ (fun _ _ => ?_) | with_reducible refine Keeps.foldl_snd ?_ (fun _ _ => ?_) | with_reducible apply Keeps.cond | with_reducible refine Keeps.getD ?_ (fun _ _ => ?_) | split))

theorem State.ceBank_keeps (s : State) (c : Nat) (x : Coord) : Keeps s (State.ceBank s c x) := by
  unfold State.ceBank
  try dsimp only
  repeat' (first | with_reducible exact Keeps.refl _ | with_reducible apply Keeps.trans _ (State.sat_keeps _ _ _) | with_reducible refine Keeps.ite (fun _ => ?_) (fun _ => ?_) | split | (with_reducible apply Keeps.lit; (on_goal 2 => with_reducible rfl); first | with_reducible exact Keeps.refl _ | with_reducible apply Keeps.trans _ (State.sat_keeps _ _ _) | with_reducible refine Keeps.ite (fun _ => ?_) (fun _ => ?_) | split))

theorem State.ceCount_keeps (s : State) (c : Nat) (x : Coord) : Keeps s (State.ceCount s c x) := by
  unfold State.ceCount
  repeat' (first | with_reducible exact Keeps.refl _ | with_reducible apply Keeps.trans _ (State.ceBank_keeps _ _ _) | with_reducible apply Keeps.trans _ (State.cnt_keeps _ _ _ _) | with_reducible apply Keeps.trans _ (State.sat_keeps _ _ _) | with_reducible apply Keeps.trans _ (State.stn_keeps _ _ _ _))

theorem State.ceLog_keeps (s : State) (c : Nat) (line : Nat) (x : Coord) (device : Nat) (bits : Nat) (source : Nat) : Keeps s (State.ceLog s c line x device bits source).1 := by
  unfold State.ceLog
  try dsimp only
  repeat' (first | with_reducible exact Keeps.refl _ | with_reducible apply Keeps.trans _ (State.sat_keeps _ _ _) | with_reducible apply Keeps.trans _ (State.setFlag_keeps _ _ _) | with_reducible apply Keeps.trans _ (State.updCh_keeps _ _ _) | with_reducible apply Keeps.trans _ (State.wr_keeps _ _ _) | with_reducible refine Keeps.ite (fun _ => ?_) (fun _ => ?_) | split | (with_reducible apply Keeps.lit; (on_goal 2 => with_reducible rfl); first | with_reducible exact Keeps.refl _ | with_reducible apply Keeps.trans _ (State.sat_keeps _ _ _) | with_reducible apply Keeps.trans _ (State.setFlag_keeps _ _ _) | with_reducible apply Keeps.trans _ (State.updCh_keeps _ _ _) | with_reducible apply Keeps.trans _ (State.wr_keeps _ _ _) | with_reducible refine Keeps.ite (fun _ => ?_) (fun _ => ?_) | split))

theorem State.updPass_keeps (s : State) (n : Nat) (f : RangePass → RangePass) : Keeps s (State.updPass s n f) := by
  unfold State.updPass
  try dsimp only
  repeat' (first | with_reducible exact Keeps.refl _ | with_reducible assumption | with_reducible refine Keeps.ite (fun _ => ?_) (fun _ => ?_) | with_reducible refine Keeps.foldl ?_ (fun _ _ => ?_) | with_reducible refine Keeps.foldl_fst ?_ (fun _ _ => ?_) | with_reducible refine Keeps.foldl_snd ?_ (fun _ _ => ?_) | with_reducible apply Keeps.cond | with_reducible refine Keeps.getD ?_ (fun _ _ => ?_) | split | (with_reducible apply Keeps.lit; (on_goal 2 => with_reducible rfl); first | with_reducible exact Keeps.refl _ | with_reducible assumption | with_reducible refine Keeps.ite (fun _ => ?_) (fun _ => ?_) | with_reducible refine Keeps.foldl ?_ (fun _ _ => ?_) | with_reducible refine Keeps.foldl_fst ?_ (fun _ _ => ?_) | with_reducible refine Keeps.foldl_snd ?_ (fun _ _ => ?_) | with_reducible apply Keeps.cond | with_reducible refine Keeps.getD ?_ (fun _ _ => ?_) | split))

theorem State.passMark_keeps (s : State) (r : DramRd) (k : Nat) : Keeps s (State.passMark s r k) := by
  unfold State.passMark
  try dsimp only
  repeat' (first | with_reducible exact Keeps.refl _ | with_reducible assumption | with_reducible apply Keeps.trans _ (State.updPass_keeps _ _ _) | with_reducible refine Keeps.ite (fun _ => ?_) (fun _ => ?_) | with_reducible refine Keeps.foldl ?_ (fun _ _ => ?_) | with_reducible refine Keeps.foldl_fst ?_ (fun _ _ => ?_) | with_reducible refine Keeps.foldl_snd ?_ (fun _ _ => ?_) | with_reducible apply Keeps.cond | with_reducible refine Keeps.getD ?_ (fun _ _ => ?_) | split | (with_reducible apply Keeps.lit; (on_goal 2 => with_reducible rfl); first | with_reducible exact Keeps.refl _ | with_reducible assumption | with_reducible apply Keeps.trans _ (State.updPass_keeps _ _ _) | with_reducible refine Keeps.ite (fun _ => ?_) (fun _ => ?_) | with_reducible refine Keeps.foldl ?_ (fun _ _ => ?_) | with_reducible refine Keeps.foldl_fst ?_ (fun _ _ => ?_) | with_reducible refine Keeps.foldl_snd ?_ (fun _ _ => ?_) | with_reducible apply Keeps.cond | with_reducible refine Keeps.getD ?_ (fun _ _ => ?_) | split))

theorem State.writeBack_keeps (s : State) (c : Nat) (r : DramRd) (x : Line) : Keeps s (State.writeBack s c r x) := by
  unfold State.writeBack
  try dsimp only
  repeat' (first | with_reducible exact Keeps.refl _ | with_reducible assumption | with_reducible apply Keeps.trans _ (State.enqueueWrite_keeps _ _ _ _ _ _) | with_reducible apply Keeps.trans _ (State.metaDue_keeps _ _ _) | with_reducible refine Keeps.ite (fun _ => ?_) (fun _ => ?_) | with_reducible refine Keeps.foldl ?_ (fun _ _ => ?_) | with_reducible refine Keeps.foldl_fst ?_ (fun _ _ => ?_) | with_reducible refine Keeps.foldl_snd ?_ (fun _ _ => ?_) | with_reducible apply Keeps.cond | with_reducible refine Keeps.getD ?_ (fun _ _ => ?_) | split | (with_reducible apply Keeps.lit; (on_goal 2 => with_reducible rfl); first | with_reducible exact Keeps.refl _ | with_reducible assumption | with_reducible apply Keeps.trans _ (State.enqueueWrite_keeps _ _ _ _ _ _) | with_reducible apply Keeps.trans _ (State.metaDue_keeps _ _ _) | with_reducible refine Keeps.ite (fun _ => ?_) (fun _ => ?_) | with_reducible refine Keeps.foldl ?_ (fun _ _ => ?_) | with_reducible refine Keeps.foldl_fst ?_ (fun _ _ => ?_) | with_reducible refine Keeps.foldl_snd ?_ (fun _ _ => ?_) | with_reducible apply Keeps.cond | with_reducible refine Keeps.getD ?_ (fun _ _ => ?_) | split))

theorem State.corrected_keeps (s : State) (c : Nat) (r : DramRd) (res : ReadRes) (device : Nat) (source : Nat) : Keeps s (State.corrected s c r res device source) := by
  unfold State.corrected
  try dsimp only
  repeat' (first | with_reducible exact Keeps.refl _ | with_reducible apply Keeps.trans _ (State.ceCount_keeps _ _ _) | with_reducible apply Keeps.trans _ (State.ceLog_keeps _ _ _ _ _ _ _) | with_reducible apply Keeps.trans _ (State.passMark_keeps _ _ _) | with_reducible apply Keeps.trans _ (State.sendRead_keeps _ _ _ _ _ _ _) | with_reducible apply Keeps.trans _ (State.writeBack_keeps _ _ _ _) | with_reducible refine Keeps.ite (fun _ => ?_) (fun _ => ?_) | split | with_reducible refine Keeps.of_fst ‹_ = (_, _)› ?_ | (with_reducible apply Keeps.lit; (on_goal 2 => with_reducible rfl); first | with_reducible exact Keeps.refl _ | with_reducible apply Keeps.trans _ (State.ceCount_keeps _ _ _) | with_reducible apply Keeps.trans _ (State.ceLog_keeps _ _ _ _ _ _ _) | with_reducible apply Keeps.trans _ (State.passMark_keeps _ _ _) | with_reducible apply Keeps.trans _ (State.sendRead_keeps _ _ _ _ _ _ _) | with_reducible apply Keeps.trans _ (State.writeBack_keeps _ _ _ _) | with_reducible refine Keeps.ite (fun _ => ?_) (fun _ => ?_) | split | with_reducible refine Keeps.of_fst ‹_ = (_, _)› ?_))

theorem State.discardDecode_keeps (s : State) (e : Nat) (code : Nat) : Keeps s (State.discardDecode s e code) := by
  unfold State.discardDecode
  try dsimp only
  repeat' (first | with_reducible exact Keeps.refl _ | with_reducible assumption | with_reducible apply Keeps.trans _ (State.discard_keeps _ _ _ _ _) | with_reducible refine Keeps.ite (fun _ => ?_) (fun _ => ?_) | with_reducible refine Keeps.foldl ?_ (fun _ _ => ?_) | with_reducible refine Keeps.foldl_fst ?_ (fun _ _ => ?_) | with_reducible refine Keeps.foldl_snd ?_ (fun _ _ => ?_) | with_reducible apply Keeps.cond | with_reducible refine Keeps.getD ?_ (fun _ _ => ?_) | split | (with_reducible apply Keeps.lit; (on_goal 2 => with_reducible rfl); first | with_reducible exact Keeps.refl _ | with_reducible assumption | with_reducible apply Keeps.trans _ (State.discard_keeps _ _ _ _ _) | with_reducible refine Keeps.ite (fun _ => ?_) (fun _ => ?_) | with_reducible refine Keeps.foldl ?_ (fun _ _ => ?_) | with_reducible refine Keeps.foldl_fst ?_ (fun _ _ => ?_) | with_reducible refine Keeps.foldl_snd ?_ (fun _ _ => ?_) | with_reducible apply Keeps.cond | with_reducible refine Keeps.getD ?_ (fun _ _ => ?_) | split))

theorem State.dropIssued_keeps (s : State) (c : Nat) (id : Nat) : Keeps s (State.dropIssued s c id) := by
  unfold State.dropIssued
  repeat' (first | with_reducible exact Keeps.refl _ | with_reducible apply Keeps.trans _ (State.updCh_keeps _ _ _))

theorem State.injected_keeps (s : State) (c : Nat) (line : Nat) : Keeps s (State.injected s c line).1 := by
  unfold State.injected
  try dsimp only
  repeat' (first | with_reducible exact Keeps.refl _ | with_reducible apply Keeps.trans _ (State.updCh_keeps _ _ _) | with_reducible refine Keeps.ite (fun _ => ?_) (fun _ => ?_) | split | (with_reducible apply Keeps.lit; (on_goal 2 => with_reducible rfl); first | with_reducible exact Keeps.refl _ | with_reducible apply Keeps.trans _ (State.updCh_keeps _ _ _) | with_reducible refine Keeps.ite (fun _ => ?_) (fun _ => ?_) | split))

theorem State.readAgain_keeps (s : State) (c : Nat) (r : DramRd) : Keeps s (State.readAgain s c r) := by
  unfold State.readAgain
  try dsimp only
  repeat' (first | with_reducible exact Keeps.refl _ | with_reducible assumption | with_reducible apply Keeps.trans _ (State.updCh_keeps _ _ _) | with_reducible apply Keeps.trans _ (State.wakeRank_keeps _ _ _) | with_reducible refine Keeps.ite (fun _ => ?_) (fun _ => ?_) | with_reducible refine Keeps.foldl ?_ (fun _ _ => ?_) | with_reducible refine Keeps.foldl_fst ?_ (fun _ _ => ?_) | with_reducible refine Keeps.foldl_snd ?_ (fun _ _ => ?_) | with_reducible apply Keeps.cond | with_reducible refine Keeps.getD ?_ (fun _ _ => ?_) | split | (with_reducible apply Keeps.lit; (on_goal 2 => with_reducible rfl); first | with_reducible exact Keeps.refl _ | with_reducible assumption | with_reducible apply Keeps.trans _ (State.updCh_keeps _ _ _) | with_reducible apply Keeps.trans _ (State.wakeRank_keeps _ _ _) | with_reducible refine Keeps.ite (fun _ => ?_) (fun _ => ?_) | with_reducible refine Keeps.foldl ?_ (fun _ _ => ?_) | with_reducible refine Keeps.foldl_fst ?_ (fun _ _ => ?_) | with_reducible refine Keeps.foldl_snd ?_ (fun _ _ => ?_) | with_reducible apply Keeps.cond | with_reducible refine Keeps.getD ?_ (fun _ _ => ?_) | split))

theorem State.fillBack_keeps (s : State) (line : Nat) (n : Nat) (x : Line) : Keeps s (State.fillBack s line n x) := by
  unfold State.fillBack
  try dsimp only
  repeat' (first | with_reducible exact Keeps.refl _ | with_reducible apply Keeps.trans _ (State.tagFail_keeps _ _ _ _) | with_reducible refine Keeps.ite (fun _ => ?_) (fun _ => ?_) | split | (with_reducible apply Keeps.lit; (on_goal 2 => with_reducible rfl); first | with_reducible exact Keeps.refl _ | with_reducible apply Keeps.trans _ (State.tagFail_keeps _ _ _ _) | with_reducible refine Keeps.ite (fun _ => ?_) (fun _ => ?_) | split))

theorem State.mergeBack_keeps (s : State) (c : Nat) (line : Nat) (n : Nat) (x : Line) : Keeps s (State.mergeBack s c line n x) := by
  unfold State.mergeBack
  repeat' (first | with_reducible exact Keeps.refl _ | with_reducible apply Keeps.trans _ (State.updCh_keeps _ _ _))

theorem State.dropCached_keeps (s : State) (space : Bool) (level : Nat) (node : Nat) : Keeps s (State.dropCached s space level node) := by
  unfold State.dropCached
  try dsimp only
  repeat' (first | with_reducible exact Keeps.refl _ | with_reducible assumption | with_reducible refine Keeps.ite (fun _ => ?_) (fun _ => ?_) | with_reducible refine Keeps.foldl ?_ (fun _ _ => ?_) | with_reducible refine Keeps.foldl_fst ?_ (fun _ _ => ?_) | with_reducible refine Keeps.foldl_snd ?_ (fun _ _ => ?_) | with_reducible apply Keeps.cond | with_reducible refine Keeps.getD ?_ (fun _ _ => ?_) | split | (with_reducible apply Keeps.lit; (on_goal 2 => with_reducible rfl); first | with_reducible exact Keeps.refl _ | with_reducible assumption | with_reducible refine Keeps.ite (fun _ => ?_) (fun _ => ?_) | with_reducible refine Keeps.foldl ?_ (fun _ _ => ?_) | with_reducible refine Keeps.foldl_fst ?_ (fun _ _ => ?_) | with_reducible refine Keeps.foldl_snd ?_ (fun _ _ => ?_) | with_reducible apply Keeps.cond | with_reducible refine Keeps.getD ?_ (fun _ _ => ?_) | split))

theorem State.mendCopy_keeps (s : State) (a : MetaKind) (n : Nat) : Keeps s (State.mendCopy s a n) := by
  unfold State.mendCopy
  try dsimp only
  repeat' (first | with_reducible exact Keeps.refl _ | with_reducible assumption | with_reducible apply Keeps.trans _ (State.metaDue_keeps _ _ _) | with_reducible refine Keeps.ite (fun _ => ?_) (fun _ => ?_) | with_reducible refine Keeps.foldl ?_ (fun _ _ => ?_) | with_reducible refine Keeps.foldl_fst ?_ (fun _ _ => ?_) | with_reducible refine Keeps.foldl_snd ?_ (fun _ _ => ?_) | with_reducible apply Keeps.cond | with_reducible refine Keeps.getD ?_ (fun _ _ => ?_) | split | (with_reducible apply Keeps.lit; (on_goal 2 => with_reducible rfl); first | with_reducible exact Keeps.refl _ | with_reducible assumption | with_reducible apply Keeps.trans _ (State.metaDue_keeps _ _ _) | with_reducible refine Keeps.ite (fun _ => ?_) (fun _ => ?_) | with_reducible refine Keeps.foldl ?_ (fun _ _ => ?_) | with_reducible refine Keeps.foldl_fst ?_ (fun _ _ => ?_) | with_reducible refine Keeps.foldl_snd ?_ (fun _ _ => ?_) | with_reducible apply Keeps.cond | with_reducible refine Keeps.getD ?_ (fun _ _ => ?_) | split))

theorem State.nodeBad_keeps (s : State) (level : Nat) (node : Nat) (copyB : Bool) (tag : Bool) (pass : Option Nat) : Keeps s (State.nodeBad s level node copyB tag pass) := by
  unfold State.nodeBad
  try dsimp only
  repeat' (first | with_reducible exact Keeps.refl _ | with_reducible assumption | with_reducible apply Keeps.trans _ (State.dropCached_keeps _ _ _ _) | with_reducible apply Keeps.trans _ (State.metaRead_keeps _ _ _ _) | with_reducible apply Keeps.trans _ (State.recordLoss_keeps _ _ _ _) | with_reducible refine Keeps.ite (fun _ => ?_) (fun _ => ?_) | with_reducible refine Keeps.foldl ?_ (fun _ _ => ?_) | with_reducible refine Keeps.foldl_fst ?_ (fun _ _ => ?_) | with_reducible refine Keeps.foldl_snd ?_ (fun _ _ => ?_) | with_reducible apply Keeps.cond | with_reducible refine Keeps.getD ?_ (fun _ _ => ?_) | split | (with_reducible apply Keeps.lit; (on_goal 2 => with_reducible rfl); first | with_reducible exact Keeps.refl _ | with_reducible assumption | with_reducible apply Keeps.trans _ (State.dropCached_keeps _ _ _ _) | with_reducible apply Keeps.trans _ (State.metaRead_keeps _ _ _ _) | with_reducible apply Keeps.trans _ (State.recordLoss_keeps _ _ _ _) | with_reducible refine Keeps.ite (fun _ => ?_) (fun _ => ?_) | with_reducible refine Keeps.foldl ?_ (fun _ _ => ?_) | with_reducible refine Keeps.foldl_fst ?_ (fun _ _ => ?_) | with_reducible refine Keeps.foldl_snd ?_ (fun _ _ => ?_) | with_reducible apply Keeps.cond | with_reducible refine Keeps.getD ?_ (fun _ _ => ?_) | split))

theorem State.tagBack_keeps (s : State) (k : MetaKind) (n : Nat) : Keeps s (State.tagBack s k n) := by
  unfold State.tagBack
  try dsimp only
  repeat' (first | with_reducible exact Keeps.refl _ | with_reducible assumption | with_reducible apply Keeps.trans _ (State.lineBack_keeps _ _ _) | with_reducible refine Keeps.ite (fun _ => ?_) (fun _ => ?_) | with_reducible refine Keeps.foldl ?_ (fun _ _ => ?_) | with_reducible refine Keeps.foldl_fst ?_ (fun _ _ => ?_) | with_reducible refine Keeps.foldl_snd ?_ (fun _ _ => ?_) | with_reducible apply Keeps.cond | with_reducible refine Keeps.getD ?_ (fun _ _ => ?_) | split | (with_reducible apply Keeps.lit; (on_goal 2 => with_reducible rfl); first | with_reducible exact Keeps.refl _ | with_reducible assumption | with_reducible apply Keeps.trans _ (State.lineBack_keeps _ _ _) | with_reducible refine Keeps.ite (fun _ => ?_) (fun _ => ?_) | with_reducible refine Keeps.foldl ?_ (fun _ _ => ?_) | with_reducible refine Keeps.foldl_fst ?_ (fun _ _ => ?_) | with_reducible refine Keeps.foldl_snd ?_ (fun _ _ => ?_) | with_reducible apply Keeps.cond | with_reducible refine Keeps.getD ?_ (fun _ _ => ?_) | split))

theorem State.metaBack_keeps (s : State) (k : MetaKind) (n : Nat) (pass : Option Nat) (x : Line) : Keeps s (State.metaBack s k n pass x) := by
  unfold State.metaBack
  try dsimp only
  repeat' (first | with_reducible exact Keeps.refl _ | with_reducible assumption | with_reducible apply Keeps.trans _ (State.accBack_keeps _ _ _) | with_reducible apply Keeps.trans _ (State.dropCached_keeps _ _ _ _) | with_reducible apply Keeps.trans _ (State.mendCopy_keeps _ _ _) | with_reducible apply Keeps.trans _ (State.nodeBad_keeps _ _ _ _ _ _) | with_reducible apply Keeps.trans _ (State.recordLoss_keeps _ _ _ _) | with_reducible apply Keeps.trans _ (State.tagBack_keeps _ _ _) | with_reducible refine Keeps.ite (fun _ => ?_) (fun _ => ?_) | with_reducible refine Keeps.foldl ?_ (fun _ _ => ?_) | with_reducible refine Keeps.foldl_fst ?_ (fun _ _ => ?_) | with_reducible refine Keeps.foldl_snd ?_ (fun _ _ => ?_) | with_reducible apply Keeps.cond | with_reducible refine Keeps.getD ?_ (fun _ _ => ?_) | split | (with_reducible apply Keeps.lit; (on_goal 2 => with_reducible rfl); first | with_reducible exact Keeps.refl _ | with_reducible assumption | with_reducible apply Keeps.trans _ (State.accBack_keeps _ _ _) | with_reducible apply Keeps.trans _ (State.dropCached_keeps _ _ _ _) | with_reducible apply Keeps.trans _ (State.mendCopy_keeps _ _ _) | with_reducible apply Keeps.trans _ (State.nodeBad_keeps _ _ _ _ _ _) | with_reducible apply Keeps.trans _ (State.recordLoss_keeps _ _ _ _) | with_reducible apply Keeps.trans _ (State.tagBack_keeps _ _ _) | with_reducible refine Keeps.ite (fun _ => ?_) (fun _ => ?_) | with_reducible refine Keeps.foldl ?_ (fun _ _ => ?_) | with_reducible refine Keeps.foldl_fst ?_ (fun _ _ => ?_) | with_reducible refine Keeps.foldl_snd ?_ (fun _ _ => ?_) | with_reducible apply Keeps.cond | with_reducible refine Keeps.getD ?_ (fun _ _ => ?_) | split))

theorem State.spillSend_keeps (s : State) (p : Nat) : Keeps s (State.spillSend s p) := by
  unfold State.spillSend
  try dsimp only
  repeat' (first | with_reducible exact Keeps.refl _ | with_reducible assumption | with_reducible apply Keeps.trans _ (State.putPeer_keeps _ _ _ _) | with_reducible apply Keeps.trans _ (State.updSlot_keeps _ _ _) | with_reducible refine Keeps.ite (fun _ => ?_) (fun _ => ?_) | with_reducible refine Keeps.foldl ?_ (fun _ _ => ?_) | with_reducible refine Keeps.foldl_fst ?_ (fun _ _ => ?_) | with_reducible refine Keeps.foldl_snd ?_ (fun _ _ => ?_) | with_reducible apply Keeps.cond | with_reducible refine Keeps.getD ?_ (fun _ _ => ?_) | split | (with_reducible apply Keeps.lit; (on_goal 2 => with_reducible rfl); first | with_reducible exact Keeps.refl _ | with_reducible assumption | with_reducible apply Keeps.trans _ (State.putPeer_keeps _ _ _ _) | with_reducible apply Keeps.trans _ (State.updSlot_keeps _ _ _) | with_reducible refine Keeps.ite (fun _ => ?_) (fun _ => ?_) | with_reducible refine Keeps.foldl ?_ (fun _ _ => ?_) | with_reducible refine Keeps.foldl_fst ?_ (fun _ _ => ?_) | with_reducible refine Keeps.foldl_snd ?_ (fun _ _ => ?_) | with_reducible apply Keeps.cond | with_reducible refine Keeps.getD ?_ (fun _ _ => ?_) | split))

theorem State.pageBack_keeps (s : State) (p : Nat) (k : Nat) (x : Line) : Keeps s (State.pageBack s p k x) := by
  unfold State.pageBack
  repeat' (first | with_reducible exact Keeps.refl _ | with_reducible apply Keeps.trans _ (State.spillSend_keeps _ _) | (with_reducible apply Keeps.lit; (on_goal 2 => with_reducible rfl); first | with_reducible exact Keeps.refl _ | with_reducible apply Keeps.trans _ (State.spillSend_keeps _ _)))

theorem State.rakeBack_keeps (s : State) (n : Nat) (p : Nat) (i : Nat) (x : Line) : Keeps s (State.rakeBack s n p i x) := by
  unfold State.rakeBack
  try dsimp only
  repeat' (first | with_reducible exact Keeps.refl _ | with_reducible assumption | with_reducible apply Keeps.trans _ (State.updPass_keeps _ _ _) | with_reducible refine Keeps.ite (fun _ => ?_) (fun _ => ?_) | with_reducible refine Keeps.foldl ?_ (fun _ _ => ?_) | with_reducible refine Keeps.foldl_fst ?_ (fun _ _ => ?_) | with_reducible refine Keeps.foldl_snd ?_ (fun _ _ => ?_) | with_reducible apply Keeps.cond | with_reducible refine Keeps.getD ?_ (fun _ _ => ?_) | split | (with_reducible apply Keeps.lit; (on_goal 2 => with_reducible rfl); first | with_reducible exact Keeps.refl _ | with_reducible assumption | with_reducible apply Keeps.trans _ (State.updPass_keeps _ _ _) | with_reducible refine Keeps.ite (fun _ => ?_) (fun _ => ?_) | with_reducible refine Keeps.foldl ?_ (fun _ _ => ?_) | with_reducible refine Keeps.foldl_fst ?_ (fun _ _ => ?_) | with_reducible refine Keeps.foldl_snd ?_ (fun _ _ => ?_) | with_reducible apply Keeps.cond | with_reducible refine Keeps.getD ?_ (fun _ _ => ?_) | split))

theorem State.sherdBack_keeps (s : State) (e : Nat) (k : Nat) (x : Line) : Keeps s (State.sherdBack s e k x) := by
  unfold State.sherdBack
  try dsimp only
  repeat' (first | with_reducible exact Keeps.refl _ | with_reducible refine Keeps.ite (fun _ => ?_) (fun _ => ?_) | split | (with_reducible apply Keeps.lit; (on_goal 2 => with_reducible rfl); first | with_reducible exact Keeps.refl _ | with_reducible refine Keeps.ite (fun _ => ?_) (fun _ => ?_) | split))

theorem State.readBack_keeps (s : State) (c : Nat) (r : DramRd) (x : Line) (source : Nat) : Keeps s (State.readBack s c r x source) := by
  unfold State.readBack
  try dsimp only
  repeat' (first | with_reducible exact Keeps.refl _ | with_reducible apply Keeps.trans _ (State.fillBack_keeps _ _ _ _) | with_reducible apply Keeps.trans _ (State.lineBack_keeps _ _ _) | with_reducible apply Keeps.trans _ (State.mergeBack_keeps _ _ _ _ _) | with_reducible apply Keeps.trans _ (State.metaBack_keeps _ _ _ _ _) | with_reducible apply Keeps.trans _ (State.pageBack_keeps _ _ _ _) | with_reducible apply Keeps.trans _ (State.rakeBack_keeps _ _ _ _ _) | with_reducible apply Keeps.trans _ (State.sherdBack_keeps _ _ _ _) | with_reducible refine Keeps.ite (fun _ => ?_) (fun _ => ?_) | split | (with_reducible apply Keeps.lit; (on_goal 2 => with_reducible rfl); first | with_reducible exact Keeps.refl _ | with_reducible apply Keeps.trans _ (State.fillBack_keeps _ _ _ _) | with_reducible apply Keeps.trans _ (State.lineBack_keeps _ _ _) | with_reducible apply Keeps.trans _ (State.mergeBack_keeps _ _ _ _ _) | with_reducible apply Keeps.trans _ (State.metaBack_keeps _ _ _ _ _) | with_reducible apply Keeps.trans _ (State.pageBack_keeps _ _ _ _) | with_reducible apply Keeps.trans _ (State.rakeBack_keeps _ _ _ _ _) | with_reducible apply Keeps.trans _ (State.sherdBack_keeps _ _ _ _) | with_reducible refine Keeps.ite (fun _ => ?_) (fun _ => ?_) | split))

theorem State.dramData_keeps (s : State) (c : Nat) (id : Nat) (err : BitVec 640) (isIt : RdWhy → Bool) : Keeps s (State.dramData s c id err isIt) := by
  unfold State.dramData
  try dsimp only
  repeat' (first | with_reducible exact Keeps.refl _ | with_reducible apply Keeps.trans _ (State.corrected_keeps _ _ _ _ _ _) | with_reducible apply Keeps.trans _ (State.dropIssued_keeps _ _ _) | with_reducible apply Keeps.trans _ (State.injected_keeps _ _ _) | with_reducible apply Keeps.trans _ (State.readAgain_keeps _ _ _) | with_reducible apply Keeps.trans _ (State.readBack_keeps _ _ _ _ _) | with_reducible refine Keeps.ite (fun _ => ?_) (fun _ => ?_) | split | with_reducible refine Keeps.of_fst ‹_ = (_, _)› ?_ | (with_reducible apply Keeps.lit; (on_goal 2 => with_reducible rfl); first | with_reducible exact Keeps.refl _ | with_reducible apply Keeps.trans _ (State.corrected_keeps _ _ _ _ _ _) | with_reducible apply Keeps.trans _ (State.dropIssued_keeps _ _ _) | with_reducible apply Keeps.trans _ (State.injected_keeps _ _ _) | with_reducible apply Keeps.trans _ (State.readAgain_keeps _ _ _) | with_reducible apply Keeps.trans _ (State.readBack_keeps _ _ _ _ _) | with_reducible refine Keeps.ite (fun _ => ?_) (fun _ => ?_) | split | with_reducible refine Keeps.of_fst ‹_ = (_, _)› ?_))

theorem State.markBad_keeps (s : State) (c : Nat) (n : Nat) : Keeps s (State.markBad s c n) := by
  unfold State.markBad
  repeat' (first | with_reducible exact Keeps.refl _ | with_reducible apply Keeps.trans _ (State.updCh_keeps _ _ _) | with_reducible apply Keeps.trans _ (State.wr_keeps _ _ _))

theorem State.mergeDone_keeps (s : State) (c : Nat) (line : Nat) (err : BitVec 640) : Keeps s (State.mergeDone s c line err) := by
  unfold State.mergeDone
  try dsimp only
  repeat' (first | with_reducible exact Keeps.refl _ | with_reducible apply Keeps.trans _ (State.dramData_keeps _ _ _ _ _) | with_reducible refine Keeps.ite (fun _ => ?_) (fun _ => ?_) | split | (with_reducible apply Keeps.lit; (on_goal 2 => with_reducible rfl); first | with_reducible exact Keeps.refl _ | with_reducible apply Keeps.trans _ (State.dramData_keeps _ _ _ _ _) | with_reducible refine Keeps.ite (fun _ => ?_) (fun _ => ?_) | split))

theorem State.remapFull_keeps (s : State) (c : Nat) (line : Nat) : Keeps s (State.remapFull s c line) := by
  unfold State.remapFull
  repeat' (first | with_reducible exact Keeps.refl _ | with_reducible apply Keeps.trans _ (State.raiseCh_keeps _ _ _ _ _) | with_reducible apply Keeps.trans _ (State.setFlag_keeps _ _ _))

theorem State.startRemap_keeps (s : State) (c : Nat) (line : Nat) (device : Nat) (data : Line) (logIx : Option Nat) : Keeps s (State.startRemap s c line device data logIx) := by
  unfold State.startRemap
  try dsimp only
  repeat' (first | with_reducible exact Keeps.refl _ | with_reducible apply Keeps.trans _ (State.remapFull_keeps _ _ _) | with_reducible apply Keeps.trans _ (State.updCh_keeps _ _ _) | with_reducible refine Keeps.ite (fun _ => ?_) (fun _ => ?_) | split | (with_reducible apply Keeps.lit; (on_goal 2 => with_reducible rfl); first | with_reducible exact Keeps.refl _ | with_reducible apply Keeps.trans _ (State.remapFull_keeps _ _ _) | with_reducible apply Keeps.trans _ (State.updCh_keeps _ _ _) | with_reducible refine Keeps.ite (fun _ => ?_) (fun _ => ?_) | split))

theorem State.ueFinal_keeps (s : State) (c : Nat) (r : DramRd) : Keeps s (State.ueFinal s c r) := by
  unfold State.ueFinal
  try dsimp only
  repeat' (first | with_reducible exact Keeps.refl _ | with_reducible apply Keeps.trans _ (State.passMark_keeps _ _ _) | with_reducible apply Keeps.trans _ (State.raiseCh_keeps _ _ _ _ _) | with_reducible apply Keeps.trans _ (State.readBack_keeps _ _ _ _ _) | with_reducible apply Keeps.trans _ (State.sat_keeps _ _ _) | with_reducible apply Keeps.trans _ (State.startRemap_keeps _ _ _ _ _ _) | with_reducible apply Keeps.trans _ (State.stn_keeps _ _ _ _) | with_reducible apply Keeps.trans _ (State.updCh_keeps _ _ _) | with_reducible apply Keeps.trans _ (State.wr_keeps _ _ _) | with_reducible apply Keeps.trans _ (State.writeBack_keeps _ _ _ _) | with_reducible apply Keeps.trans _ (State.advanceFree_keeps _) | with_reducible refine Keeps.ite (fun _ => ?_) (fun _ => ?_) | split | (with_reducible apply Keeps.lit; (on_goal 2 => with_reducible rfl); first | with_reducible exact Keeps.refl _ | with_reducible apply Keeps.trans _ (State.passMark_keeps _ _ _) | with_reducible apply Keeps.trans _ (State.raiseCh_keeps _ _ _ _ _) | with_reducible apply Keeps.trans _ (State.readBack_keeps _ _ _ _ _) | with_reducible apply Keeps.trans _ (State.sat_keeps _ _ _) | with_reducible apply Keeps.trans _ (State.startRemap_keeps _ _ _ _ _ _) | with_reducible apply Keeps.trans _ (State.stn_keeps _ _ _ _) | with_reducible apply Keeps.trans _ (State.updCh_keeps _ _ _) | with_reducible apply Keeps.trans _ (State.wr_keeps _ _ _) | with_reducible apply Keeps.trans _ (State.writeBack_keeps _ _ _ _) | with_reducible apply Keeps.trans _ (State.advanceFree_keeps _) | with_reducible refine Keeps.ite (fun _ => ?_) (fun _ => ?_) | split))

theorem State.verifyEnd_keeps (s : State) (c : Nat) (line : Nat) (dev : Nat) (ix : Option Nat) (res : ReadRes) : Keeps s (State.verifyEnd s c line dev ix res) := by
  unfold State.verifyEnd
  try dsimp only
  repeat' (first | with_reducible exact Keeps.refl _ | with_reducible assumption | with_reducible apply Keeps.trans _ (State.setFlag_keeps _ _ _) | with_reducible apply Keeps.trans _ (State.startRemap_keeps _ _ _ _ _ _) | with_reducible refine Keeps.ite (fun _ => ?_) (fun _ => ?_) | with_reducible refine Keeps.foldl ?_ (fun _ _ => ?_) | with_reducible refine Keeps.foldl_fst ?_ (fun _ _ => ?_) | with_reducible refine Keeps.foldl_snd ?_ (fun _ _ => ?_) | with_reducible apply Keeps.cond | with_reducible refine Keeps.getD ?_ (fun _ _ => ?_) | split | (with_reducible apply Keeps.lit; (on_goal 2 => with_reducible rfl); first | with_reducible exact Keeps.refl _ | with_reducible assumption | with_reducible apply Keeps.trans _ (State.setFlag_keeps _ _ _) | with_reducible apply Keeps.trans _ (State.startRemap_keeps _ _ _ _ _ _) | with_reducible refine Keeps.ite (fun _ => ?_) (fun _ => ?_) | with_reducible refine Keeps.foldl ?_ (fun _ _ => ?_) | with_reducible refine Keeps.foldl_fst ?_ (fun _ _ => ?_) | with_reducible refine Keeps.foldl_snd ?_ (fun _ _ => ?_) | with_reducible apply Keeps.cond | with_reducible refine Keeps.getD ?_ (fun _ _ => ?_) | split))

theorem State.retryResult_keeps (s : State) (c : Nat) (id : Nat) (err : BitVec 640) : Keeps s (State.retryResult s c id err) := by
  unfold State.retryResult
  try dsimp only
  repeat' (first | with_reducible exact Keeps.refl _ | with_reducible apply Keeps.trans _ (State.corrected_keeps _ _ _ _ _ _) | with_reducible apply Keeps.trans _ (State.dropIssued_keeps _ _ _) | with_reducible apply Keeps.trans _ (State.injected_keeps _ _ _) | with_reducible apply Keeps.trans _ (State.readBack_keeps _ _ _ _ _) | with_reducible apply Keeps.trans _ (State.sat_keeps _ _ _) | with_reducible apply Keeps.trans _ (State.stn_keeps _ _ _ _) | with_reducible apply Keeps.trans _ (State.ueFinal_keeps _ _ _) | with_reducible apply Keeps.trans _ (State.verifyEnd_keeps _ _ _ _ _ _) | with_reducible refine Keeps.ite (fun _ => ?_) (fun _ => ?_) | split | with_reducible refine Keeps.of_fst ‹_ = (_, _)› ?_ | (with_reducible apply Keeps.lit; (on_goal 2 => with_reducible rfl); first | with_reducible exact Keeps.refl _ | with_reducible apply Keeps.trans _ (State.corrected_keeps _ _ _ _ _ _) | with_reducible apply Keeps.trans _ (State.dropIssued_keeps _ _ _) | with_reducible apply Keeps.trans _ (State.injected_keeps _ _ _) | with_reducible apply Keeps.trans _ (State.readBack_keeps _ _ _ _ _) | with_reducible apply Keeps.trans _ (State.sat_keeps _ _ _) | with_reducible apply Keeps.trans _ (State.stn_keeps _ _ _ _) | with_reducible apply Keeps.trans _ (State.ueFinal_keeps _ _ _) | with_reducible apply Keeps.trans _ (State.verifyEnd_keeps _ _ _ _ _ _) | with_reducible refine Keeps.ite (fun _ => ?_) (fun _ => ?_) | split | with_reducible refine Keeps.of_fst ‹_ = (_, _)› ?_))

theorem State.takeSpare_keeps (s : State) (c : Nat) (j : RemapJob) : Keeps s (State.takeSpare s c j) := by
  unfold State.takeSpare
  try dsimp only
  repeat' (first | with_reducible exact Keeps.refl _ | with_reducible apply Keeps.trans _ (State.enqueueWrite_keeps _ _ _ _ _ _) | with_reducible apply Keeps.trans _ (State.markBad_keeps _ _ _) | with_reducible apply Keeps.trans _ (State.remapFull_keeps _ _ _) | with_reducible apply Keeps.trans _ (State.setFlag_keeps _ _ _) | with_reducible apply Keeps.trans _ (State.stn_keeps _ _ _ _) | with_reducible apply Keeps.trans _ (State.wr_keeps _ _ _) | with_reducible refine Keeps.ite (fun _ => ?_) (fun _ => ?_) | split | (with_reducible apply Keeps.lit; (on_goal 2 => with_reducible rfl); first | with_reducible exact Keeps.refl _ | with_reducible apply Keeps.trans _ (State.enqueueWrite_keeps _ _ _ _ _ _) | with_reducible apply Keeps.trans _ (State.markBad_keeps _ _ _) | with_reducible apply Keeps.trans _ (State.remapFull_keeps _ _ _) | with_reducible apply Keeps.trans _ (State.setFlag_keeps _ _ _) | with_reducible apply Keeps.trans _ (State.stn_keeps _ _ _ _) | with_reducible apply Keeps.trans _ (State.wr_keeps _ _ _) | with_reducible refine Keeps.ite (fun _ => ?_) (fun _ => ?_) | split))

theorem State.spareCheck_keeps (s : State) (c : Nat) (err : BitVec 640) : Keeps s (State.spareCheck s c err) := by
  unfold State.spareCheck
  try dsimp only
  repeat' (first | with_reducible exact Keeps.refl _ | with_reducible apply Keeps.trans _ (State.markBad_keeps _ _ _) | with_reducible apply Keeps.trans _ (State.remapFull_keeps _ _ _) | with_reducible apply Keeps.trans _ (State.takeSpare_keeps _ _ _) | with_reducible apply Keeps.trans _ (State.updCh_keeps _ _ _) | with_reducible refine Keeps.ite (fun _ => ?_) (fun _ => ?_) | split | (with_reducible apply Keeps.lit; (on_goal 2 => with_reducible rfl); first | with_reducible exact Keeps.refl _ | with_reducible apply Keeps.trans _ (State.markBad_keeps _ _ _) | with_reducible apply Keeps.trans _ (State.remapFull_keeps _ _ _) | with_reducible apply Keeps.trans _ (State.takeSpare_keeps _ _ _) | with_reducible apply Keeps.trans _ (State.updCh_keeps _ _ _) | with_reducible refine Keeps.ite (fun _ => ?_) (fun _ => ?_) | split))

theorem State.verifyRead_keeps (s : State) (c : Nat) (line : Nat) (err : BitVec 640) : Keeps s (State.verifyRead s c line err) := by
  unfold State.verifyRead
  try dsimp only
  repeat' (first | with_reducible exact Keeps.refl _ | with_reducible apply Keeps.trans _ (State.dropIssued_keeps _ _ _) | with_reducible apply Keeps.trans _ (State.injected_keeps _ _ _) | with_reducible apply Keeps.trans _ (State.readAgain_keeps _ _ _) | with_reducible apply Keeps.trans _ (State.verifyEnd_keeps _ _ _ _ _ _) | with_reducible refine Keeps.ite (fun _ => ?_) (fun _ => ?_) | split | with_reducible refine Keeps.of_fst ‹_ = (_, _)› ?_ | (with_reducible apply Keeps.lit; (on_goal 2 => with_reducible rfl); first | with_reducible exact Keeps.refl _ | with_reducible apply Keeps.trans _ (State.dropIssued_keeps _ _ _) | with_reducible apply Keeps.trans _ (State.injected_keeps _ _ _) | with_reducible apply Keeps.trans _ (State.readAgain_keeps _ _ _) | with_reducible apply Keeps.trans _ (State.verifyEnd_keeps _ _ _ _ _ _) | with_reducible refine Keeps.ite (fun _ => ?_) (fun _ => ?_) | split | with_reducible refine Keeps.of_fst ‹_ = (_, _)› ?_))

end Sys2Proof.Machine
end

