-- ==== Sys2Proof/Laws/KeepsSchedule.lean ====
section
/-! SUPPORT. Every operation of Machine/Schedule.lean keeps what `Keeps` says: one lemma for each. -/
namespace Sys2Proof.Machine
set_option linter.unreachableTactic false
set_option linter.unusedTactic false

theorem State.noteBusy_keeps (s : State) (c : Nat) (sub : Nat) : Keeps s (State.noteBusy s c sub) := by
  unfold State.noteBusy
  try dsimp only
  repeat' (first | with_reducible exact Keeps.refl _ | with_reducible assumption | with_reducible apply Keeps.trans _ (State.updCh_keeps _ _ _) | with_reducible refine Keeps.ite (fun _ => ?_) (fun _ => ?_) | with_reducible refine Keeps.foldl ?_ (fun _ _ => ?_) | with_reducible refine Keeps.foldl_fst ?_ (fun _ _ => ?_) | with_reducible refine Keeps.foldl_snd ?_ (fun _ _ => ?_) | with_reducible apply Keeps.cond | with_reducible refine Keeps.getD ?_ (fun _ _ => ?_) | split | (with_reducible apply Keeps.lit; (on_goal 2 => with_reducible rfl); first | with_reducible exact Keeps.refl _ | with_reducible assumption | with_reducible apply Keeps.trans _ (State.updCh_keeps _ _ _) | with_reducible refine Keeps.ite (fun _ => ?_) (fun _ => ?_) | with_reducible refine Keeps.foldl ?_ (fun _ _ => ?_) | with_reducible refine Keeps.foldl_fst ?_ (fun _ _ => ?_) | with_reducible refine Keeps.foldl_snd ?_ (fun _ _ => ?_) | with_reducible apply Keeps.cond | with_reducible refine Keeps.getD ?_ (fun _ _ => ?_) | split))

theorem State.noteRank_keeps (s : State) (c : Nat) (lr : Nat) : Keeps s (State.noteRank s c lr) := by
  unfold State.noteRank
  repeat' (first | with_reducible exact Keeps.refl _ | with_reducible apply Keeps.trans _ (State.updCh_keeps _ _ _))

theorem State.bus_keeps (s : State) (c : Nat) (sub : Nat) (lr : Nat) (bank : Nat) (cmd : String) : Keeps s (State.bus s c sub lr bank cmd) := by
  unfold State.bus
  repeat' (first | with_reducible exact Keeps.refl _ | with_reducible apply Keeps.trans _ (State.noteBusy_keeps _ _ _) | with_reducible apply Keeps.trans _ (State.noteRank_keeps _ _ _) | with_reducible apply Keeps.trans _ (State.emit_keeps _ _))

theorem State.updBank_keeps (s : State) (c : Nat) (k : Nat) (f : Bank → Bank) : Keeps s (State.updBank s c k f) := by
  unfold State.updBank
  repeat' (first | with_reducible exact Keeps.refl _ | with_reducible apply Keeps.trans _ (State.updCh_keeps _ _ _))

theorem State.activate_keeps (s : State) (c : Nat) (x : Coord) (now : Nat) : Keeps s (State.activate s c x now) := by
  unfold State.activate
  repeat' (first | with_reducible exact Keeps.refl _ | with_reducible apply Keeps.trans _ (State.bus_keeps _ _ _ _ _ _) | with_reducible apply Keeps.trans _ (State.cnt_keeps _ _ _ _) | with_reducible apply Keeps.trans _ (State.stn_keeps _ _ _ _) | with_reducible apply Keeps.trans _ (State.updBank_keeps _ _ _ _) | with_reducible apply Keeps.trans _ (State.updCh_keeps _ _ _))

theorem State.afterCas_keeps (s : State) (c : Nat) (x : Coord) (closeAt : Nat) : Keeps s (State.afterCas s c x closeAt) := by
  unfold State.afterCas
  try dsimp only
  repeat' (first | with_reducible exact Keeps.refl _ | with_reducible apply Keeps.trans _ (State.updBank_keeps _ _ _ _) | with_reducible refine Keeps.ite (fun _ => ?_) (fun _ => ?_) | split | (with_reducible apply Keeps.lit; (on_goal 2 => with_reducible rfl); first | with_reducible exact Keeps.refl _ | with_reducible apply Keeps.trans _ (State.updBank_keeps _ _ _ _) | with_reducible refine Keeps.ite (fun _ => ?_) (fun _ => ?_) | split))

theorem State.precharge_keeps (s : State) (c : Nat) (sub : Nat) (lr : Nat) (bank : Nat) (now : Nat) (conflict : Bool) : Keeps s (State.precharge s c sub lr bank now conflict) := by
  unfold State.precharge
  repeat' (first | with_reducible exact Keeps.refl _ | with_reducible apply Keeps.trans _ (State.bus_keeps _ _ _ _ _ _) | with_reducible apply Keeps.trans _ (State.updBank_keeps _ _ _ _))

theorem State.closeRank_keeps (s : State) (c : Nat) (lr : Nat) : Keeps s (State.closeRank s c lr) := by
  unfold State.closeRank
  try dsimp only
  repeat' (first | with_reducible exact Keeps.refl _ | with_reducible assumption | with_reducible apply Keeps.trans _ (State.precharge_keeps _ _ _ _ _ _ _) | with_reducible refine Keeps.ite (fun _ => ?_) (fun _ => ?_) | with_reducible refine Keeps.foldl ?_ (fun _ _ => ?_) | split | (with_reducible apply Keeps.lit; (on_goal 2 => with_reducible rfl); first | with_reducible exact Keeps.refl _ | with_reducible assumption | with_reducible apply Keeps.trans _ (State.precharge_keeps _ _ _ _ _ _ _) | with_reducible refine Keeps.ite (fun _ => ?_) (fun _ => ?_) | with_reducible refine Keeps.foldl ?_ (fun _ _ => ?_) | split))

theorem State.drainMode_keeps (s : State) (c : Nat) (sub : Nat) : Keeps s (State.drainMode s c sub).1 := by
  unfold State.drainMode
  try dsimp only
  repeat' (first | with_reducible exact Keeps.refl _ | with_reducible apply Keeps.trans _ (State.updCh_keeps _ _ _) | with_reducible refine Keeps.ite (fun _ => ?_) (fun _ => ?_) | split | (with_reducible apply Keeps.lit; (on_goal 2 => with_reducible rfl); first | with_reducible exact Keeps.refl _ | with_reducible apply Keeps.trans _ (State.updCh_keeps _ _ _) | with_reducible refine Keeps.ite (fun _ => ?_) (fun _ => ?_) | split))

theorem State.noteCas_keeps (s : State) (c : Nat) (x : Coord) (write : Bool) (pass : Bool) (now : Nat) : Keeps s (State.noteCas s c x write pass now) := by
  unfold State.noteCas
  try dsimp only
  repeat' (first | with_reducible exact Keeps.refl _ | with_reducible apply Keeps.trans _ (State.bus_keeps _ _ _ _ _ _) | with_reducible apply Keeps.trans _ (State.cnt_keeps _ _ _ _) | with_reducible apply Keeps.trans _ (State.stn_keeps _ _ _ _) | with_reducible apply Keeps.trans _ (State.updBank_keeps _ _ _ _) | with_reducible apply Keeps.trans _ (State.updCh_keeps _ _ _) | with_reducible refine Keeps.ite (fun _ => ?_) (fun _ => ?_) | split | (with_reducible apply Keeps.lit; (on_goal 2 => with_reducible rfl); first | with_reducible exact Keeps.refl _ | with_reducible apply Keeps.trans _ (State.bus_keeps _ _ _ _ _ _) | with_reducible apply Keeps.trans _ (State.cnt_keeps _ _ _ _) | with_reducible apply Keeps.trans _ (State.stn_keeps _ _ _ _) | with_reducible apply Keeps.trans _ (State.updBank_keeps _ _ _ _) | with_reducible apply Keeps.trans _ (State.updCh_keeps _ _ _) | with_reducible refine Keeps.ite (fun _ => ?_) (fun _ => ?_) | split))

theorem State.issueRead_keeps (s : State) (c : Nat) (r : DramRd) (x : Coord) (pass : Bool) (now : Nat) : Keeps s (State.issueRead s c r x pass now) := by
  unfold State.issueRead
  try dsimp only
  repeat' (first | with_reducible exact Keeps.refl _ | with_reducible apply Keeps.trans _ (State.afterCas_keeps _ _ _ _) | with_reducible apply Keeps.trans _ (State.noteCas_keeps _ _ _ _ _ _) | with_reducible apply Keeps.trans _ (State.noteMeta_keeps _ _) | with_reducible apply Keeps.trans _ (State.noteT0_keeps _ _) | with_reducible apply Keeps.trans _ (State.updCh_keeps _ _ _) | with_reducible refine Keeps.ite (fun _ => ?_) (fun _ => ?_) | split | (with_reducible apply Keeps.lit; (on_goal 2 => with_reducible rfl); first | with_reducible exact Keeps.refl _ | with_reducible apply Keeps.trans _ (State.afterCas_keeps _ _ _ _) | with_reducible apply Keeps.trans _ (State.noteCas_keeps _ _ _ _ _ _) | with_reducible apply Keeps.trans _ (State.noteMeta_keeps _ _) | with_reducible apply Keeps.trans _ (State.noteT0_keeps _ _) | with_reducible apply Keeps.trans _ (State.updCh_keeps _ _ _) | with_reducible refine Keeps.ite (fun _ => ?_) (fun _ => ?_) | split))

theorem State.readCommand_keeps (s : State) (c : Nat) (all : List DramRd) (higher : List DramRd) (r : DramRd) (now : Nat) {res} (h : State.readCommand s c all higher r now = some res) : Keeps s res := by
  unfold State.readCommand at h
  try dsimp only at h
  repeat' split at h
  all_goals first | contradiction | skip
  all_goals simp only [Option.some.injEq, Option.map_eq_some_iff] at h
  all_goals try (obtain ⟨_, _, h⟩ := h)
  all_goals try subst h
  all_goals repeat' (first | with_reducible exact Keeps.refl _ | with_reducible apply Keeps.trans _ (State.activate_keeps _ _ _ _) | with_reducible apply Keeps.trans _ (State.issueRead_keeps _ _ _ _ _ _) | with_reducible apply Keeps.trans _ (State.precharge_keeps _ _ _ _ _ _ _))

theorem State.readSlot_keeps (s : State) (c : Nat) (all higher rest : List DramRd) (now : Nat) {res : State}
    (h : State.readSlot s c all higher rest now = some res) : Keeps s res := by
  induction rest generalizing higher with
  | nil => simp [State.readSlot] at h
  | cons r rest ih =>
    unfold State.readSlot at h
    split at h
    · rename_i t heq; cases h; exact State.readCommand_keeps s c all higher r now heq
    · exact ih _ h

theorem State.issueWrite_keeps (s : State) (c : Nat) (w : WrEnt) (x : Coord) (now : Nat) : Keeps s (State.issueWrite s c w x now) := by
  unfold State.issueWrite
  try dsimp only
  repeat' (first | with_reducible exact Keeps.refl _ | with_reducible assumption | with_reducible apply Keeps.trans _ (State.afterCas_keeps _ _ _ _) | with_reducible apply Keeps.trans _ (State.noteCas_keeps _ _ _ _ _ _) | with_reducible apply Keeps.trans _ (State.noteT0_keeps _ _) | with_reducible apply Keeps.trans _ (State.updCh_keeps _ _ _) | with_reducible apply Keeps.trans _ (State.putLine_keeps _ _ _ _) | with_reducible refine Keeps.ite (fun _ => ?_) (fun _ => ?_) | with_reducible refine Keeps.foldl ?_ (fun _ _ => ?_) | with_reducible refine Keeps.foldl_fst ?_ (fun _ _ => ?_) | with_reducible refine Keeps.foldl_snd ?_ (fun _ _ => ?_) | with_reducible apply Keeps.cond | with_reducible refine Keeps.getD ?_ (fun _ _ => ?_) | split | (with_reducible apply Keeps.lit; (on_goal 2 => with_reducible rfl); first | with_reducible exact Keeps.refl _ | with_reducible assumption | with_reducible apply Keeps.trans _ (State.afterCas_keeps _ _ _ _) | with_reducible apply Keeps.trans _ (State.noteCas_keeps _ _ _ _ _ _) | with_reducible apply Keeps.trans _ (State.noteT0_keeps _ _) | with_reducible apply Keeps.trans _ (State.updCh_keeps _ _ _) | with_reducible apply Keeps.trans _ (State.putLine_keeps _ _ _ _) | with_reducible refine Keeps.ite (fun _ => ?_) (fun _ => ?_) | with_reducible refine Keeps.foldl ?_ (fun _ _ => ?_) | with_reducible refine Keeps.foldl_fst ?_ (fun _ _ => ?_) | with_reducible refine Keeps.foldl_snd ?_ (fun _ _ => ?_) | with_reducible apply Keeps.cond | with_reducible refine Keeps.getD ?_ (fun _ _ => ?_) | split))

theorem State.writeSlot_keeps (s : State) (c : Nat) (sub : Nat) (now : Nat) {res} (h : State.writeSlot s c sub now = some res) : Keeps s res := by
  unfold State.writeSlot at h
  try dsimp only at h
  repeat' split at h
  all_goals first | contradiction | skip
  all_goals simp only [Option.some.injEq, Option.map_eq_some_iff] at h
  all_goals try (obtain ⟨_, _, h⟩ := h)
  all_goals try subst h
  all_goals repeat' (first | with_reducible exact Keeps.refl _ | with_reducible apply Keeps.trans _ (State.activate_keeps _ _ _ _) | with_reducible apply Keeps.trans _ (State.issueWrite_keeps _ _ _ _ _) | with_reducible apply Keeps.trans _ (State.precharge_keeps _ _ _ _ _ _ _) | with_reducible apply Keeps.trans _ (State.updCh_keeps _ _ _))

theorem State.columnSlot_keeps (s : State) (c : Nat) (sub : Nat) (now : Nat) : Keeps s (State.columnSlot s c sub now) := by
  unfold State.columnSlot
  try dsimp only
  repeat' (first | with_reducible exact Keeps.refl _ | with_reducible assumption | with_reducible apply Keeps.trans _ (State.drainMode_keeps _ _ _) | with_reducible refine Keeps.ite (fun _ => ?_) (fun _ => ?_) | with_reducible refine Keeps.foldl ?_ (fun _ _ => ?_) | with_reducible refine Keeps.foldl_fst ?_ (fun _ _ => ?_) | with_reducible refine Keeps.foldl_snd ?_ (fun _ _ => ?_) | with_reducible apply Keeps.cond | with_reducible refine Keeps.getD ?_ (fun _ _ => ?_) | split | with_reducible refine Keeps.trans ?_ (State.readSlot_keeps _ _ _ _ _ _ ‹State.readSlot _ _ _ _ _ _ = some _›) | with_reducible refine Keeps.trans ?_ (State.writeSlot_keeps _ _ _ _ ‹State.writeSlot _ _ _ _ = some _›) | with_reducible refine Keeps.of_fst ‹_ = (_, _)› ?_ | (with_reducible apply Keeps.lit; (on_goal 2 => with_reducible rfl); first | with_reducible exact Keeps.refl _ | with_reducible assumption | with_reducible apply Keeps.trans _ (State.drainMode_keeps _ _ _) | with_reducible refine Keeps.ite (fun _ => ?_) (fun _ => ?_) | with_reducible refine Keeps.foldl ?_ (fun _ _ => ?_) | with_reducible refine Keeps.foldl_fst ?_ (fun _ _ => ?_) | with_reducible refine Keeps.foldl_snd ?_ (fun _ _ => ?_) | with_reducible apply Keeps.cond | with_reducible refine Keeps.getD ?_ (fun _ _ => ?_) | split | with_reducible refine Keeps.trans ?_ (State.readSlot_keeps _ _ _ _ _ _ ‹State.readSlot _ _ _ _ _ _ = some _›) | with_reducible refine Keeps.trans ?_ (State.writeSlot_keeps _ _ _ _ ‹State.writeSlot _ _ _ _ = some _›) | with_reducible refine Keeps.of_fst ‹_ = (_, _)› ?_))

theorem State.dropRead_keeps (s : State) (code : Nat) (r : DramRd) : Keeps s (State.dropRead s code r) := by
  unfold State.dropRead
  try dsimp only
  repeat' (first | with_reducible exact Keeps.refl _ | with_reducible assumption | with_reducible apply Keeps.trans _ (State.discard_keeps _ _ _ _ _) | with_reducible refine Keeps.ite (fun _ => ?_) (fun _ => ?_) | with_reducible refine Keeps.foldl ?_ (fun _ _ => ?_) | with_reducible refine Keeps.foldl_fst ?_ (fun _ _ => ?_) | with_reducible refine Keeps.foldl_snd ?_ (fun _ _ => ?_) | with_reducible apply Keeps.cond | with_reducible refine Keeps.getD ?_ (fun _ _ => ?_) | split | (with_reducible apply Keeps.lit; (on_goal 2 => with_reducible rfl); first | with_reducible exact Keeps.refl _ | with_reducible assumption | with_reducible apply Keeps.trans _ (State.discard_keeps _ _ _ _ _) | with_reducible refine Keeps.ite (fun _ => ?_) (fun _ => ?_) | with_reducible refine Keeps.foldl ?_ (fun _ _ => ?_) | with_reducible refine Keeps.foldl_fst ?_ (fun _ _ => ?_) | with_reducible refine Keeps.foldl_snd ?_ (fun _ _ => ?_) | with_reducible apply Keeps.cond | with_reducible refine Keeps.getD ?_ (fun _ _ => ?_) | split))

theorem State.enqueueMeta_keeps (s : State) (c : Nat) (l : Nat) (k : MetaKind) (n : Nat) : Keeps s (State.enqueueMeta s c l k n) := by
  unfold State.enqueueMeta
  try dsimp only
  repeat' (first | with_reducible exact Keeps.refl _ | with_reducible assumption | with_reducible apply Keeps.trans _ (State.updCh_keeps _ _ _) | with_reducible apply Keeps.trans _ (State.wakeRank_keeps _ _ _) | with_reducible refine Keeps.ite (fun _ => ?_) (fun _ => ?_) | with_reducible refine Keeps.foldl ?_ (fun _ _ => ?_) | with_reducible refine Keeps.foldl_fst ?_ (fun _ _ => ?_) | with_reducible refine Keeps.foldl_snd ?_ (fun _ _ => ?_) | with_reducible apply Keeps.cond | with_reducible refine Keeps.getD ?_ (fun _ _ => ?_) | split | (with_reducible apply Keeps.lit; (on_goal 2 => with_reducible rfl); first | with_reducible exact Keeps.refl _ | with_reducible assumption | with_reducible apply Keeps.trans _ (State.updCh_keeps _ _ _) | with_reducible apply Keeps.trans _ (State.wakeRank_keeps _ _ _) | with_reducible refine Keeps.ite (fun _ => ?_) (fun _ => ?_) | with_reducible refine Keeps.foldl ?_ (fun _ _ => ?_) | with_reducible refine Keeps.foldl_fst ?_ (fun _ _ => ?_) | with_reducible refine Keeps.foldl_snd ?_ (fun _ _ => ?_) | with_reducible apply Keeps.cond | with_reducible refine Keeps.getD ?_ (fun _ _ => ?_) | split))

theorem State.refabNow_keeps (s : State) (c : Nat) (sub : Nat) (lr : Nat) : Keeps s (State.refabNow s c sub lr) := by
  unfold State.refabNow
  try dsimp only
  repeat' (first | with_reducible exact Keeps.refl _ | with_reducible assumption | with_reducible apply Keeps.trans _ (State.bus_keeps _ _ _ _ _ _) | with_reducible apply Keeps.trans _ (State.cnt_keeps _ _ _ _) | with_reducible apply Keeps.trans _ (State.sat_keeps _ _ _) | with_reducible apply Keeps.trans _ (State.setOwed_keeps _ _ _ _ _ _) | with_reducible apply Keeps.trans _ (State.stn_keeps _ _ _ _) | with_reducible refine Keeps.ite (fun _ => ?_) (fun _ => ?_) | with_reducible refine Keeps.foldl ?_ (fun _ _ => ?_) | with_reducible refine Keeps.foldl_fst ?_ (fun _ _ => ?_) | with_reducible refine Keeps.foldl_snd ?_ (fun _ _ => ?_) | with_reducible apply Keeps.cond | with_reducible refine Keeps.getD ?_ (fun _ _ => ?_) | split | (with_reducible apply Keeps.lit; (on_goal 2 => with_reducible rfl); first | with_reducible exact Keeps.refl _ | with_reducible assumption | with_reducible apply Keeps.trans _ (State.bus_keeps _ _ _ _ _ _) | with_reducible apply Keeps.trans _ (State.cnt_keeps _ _ _ _) | with_reducible apply Keeps.trans _ (State.sat_keeps _ _ _) | with_reducible apply Keeps.trans _ (State.setOwed_keeps _ _ _ _ _ _) | with_reducible apply Keeps.trans _ (State.stn_keeps _ _ _ _) | with_reducible refine Keeps.ite (fun _ => ?_) (fun _ => ?_) | with_reducible refine Keeps.foldl ?_ (fun _ _ => ?_) | with_reducible refine Keeps.foldl_fst ?_ (fun _ _ => ?_) | with_reducible refine Keeps.foldl_snd ?_ (fun _ _ => ?_) | with_reducible apply Keeps.cond | with_reducible refine Keeps.getD ?_ (fun _ _ => ?_) | split))

theorem State.flushWrite_keeps (s : State) (c : Nat) (w : WrEnt) : Keeps s (State.flushWrite s c w) := by
  unfold State.flushWrite
  try dsimp only
  repeat' (first | with_reducible exact Keeps.refl _ | with_reducible assumption | with_reducible apply Keeps.trans _ (State.activate_keeps _ _ _ _) | with_reducible apply Keeps.trans _ (State.issueWrite_keeps _ _ _ _ _) | with_reducible apply Keeps.trans _ (State.noteCas_keeps _ _ _ _ _ _) | with_reducible apply Keeps.trans _ (State.precharge_keeps _ _ _ _ _ _ _) | with_reducible apply Keeps.trans _ (State.refabNow_keeps _ _ _ _) | with_reducible refine Keeps.ite (fun _ => ?_) (fun _ => ?_) | with_reducible refine Keeps.foldl ?_ (fun _ _ => ?_) | with_reducible refine Keeps.foldl_fst ?_ (fun _ _ => ?_) | with_reducible refine Keeps.foldl_snd ?_ (fun _ _ => ?_) | with_reducible apply Keeps.cond | with_reducible refine Keeps.getD ?_ (fun _ _ => ?_) | split | (with_reducible apply Keeps.lit; (on_goal 2 => with_reducible rfl); first | with_reducible exact Keeps.refl _ | with_reducible assumption | with_reducible apply Keeps.trans _ (State.activate_keeps _ _ _ _) | with_reducible apply Keeps.trans _ (State.issueWrite_keeps _ _ _ _ _) | with_reducible apply Keeps.trans _ (State.noteCas_keeps _ _ _ _ _ _) | with_reducible apply Keeps.trans _ (State.precharge_keeps _ _ _ _ _ _ _) | with_reducible apply Keeps.trans _ (State.refabNow_keeps _ _ _ _) | with_reducible refine Keeps.ite (fun _ => ?_) (fun _ => ?_) | with_reducible refine Keeps.foldl ?_ (fun _ _ => ?_) | with_reducible refine Keeps.foldl_fst ?_ (fun _ _ => ?_) | with_reducible refine Keeps.foldl_snd ?_ (fun _ _ => ?_) | with_reducible apply Keeps.cond | with_reducible refine Keeps.getD ?_ (fun _ _ => ?_) | split))

theorem State.flushWrites_keeps (s : State) (c : Nat) : Keeps s (State.flushWrites s c) := by
  unfold State.flushWrites
  try dsimp only
  repeat' (first | with_reducible exact Keeps.refl _ | with_reducible assumption | with_reducible apply Keeps.trans _ (State.flushWrite_keeps _ _ _) | with_reducible apply Keeps.trans _ (State.updCh_keeps _ _ _) | with_reducible refine Keeps.ite (fun _ => ?_) (fun _ => ?_) | with_reducible refine Keeps.foldl ?_ (fun _ _ => ?_) | split | (with_reducible apply Keeps.lit; (on_goal 2 => with_reducible rfl); first | with_reducible exact Keeps.refl _ | with_reducible assumption | with_reducible apply Keeps.trans _ (State.flushWrite_keeps _ _ _) | with_reducible apply Keeps.trans _ (State.updCh_keeps _ _ _) | with_reducible refine Keeps.ite (fun _ => ?_) (fun _ => ?_) | with_reducible refine Keeps.foldl ?_ (fun _ _ => ?_) | split))

theorem State.metaTaken_keeps (s : State) (k : MetaKind) (n : Nat) : Keeps s (State.metaTaken s k n) := by
  unfold State.metaTaken
  try dsimp only
  repeat' (first | with_reducible exact Keeps.refl _ | with_reducible assumption | with_reducible refine Keeps.ite (fun _ => ?_) (fun _ => ?_) | with_reducible refine Keeps.foldl ?_ (fun _ _ => ?_) | with_reducible refine Keeps.foldl_fst ?_ (fun _ _ => ?_) | with_reducible refine Keeps.foldl_snd ?_ (fun _ _ => ?_) | with_reducible apply Keeps.cond | with_reducible refine Keeps.getD ?_ (fun _ _ => ?_) | split | (with_reducible apply Keeps.lit; (on_goal 2 => with_reducible rfl); first | with_reducible exact Keeps.refl _ | with_reducible assumption | with_reducible refine Keeps.ite (fun _ => ?_) (fun _ => ?_) | with_reducible refine Keeps.foldl ?_ (fun _ _ => ?_) | with_reducible refine Keeps.foldl_fst ?_ (fun _ _ => ?_) | with_reducible refine Keeps.foldl_snd ?_ (fun _ _ => ?_) | with_reducible apply Keeps.cond | with_reducible refine Keeps.getD ?_ (fun _ _ => ?_) | split))

theorem State.mr4_keeps (s : State) (c : Nat) (hot : BitVec 16) : Keeps s (State.mr4 s c hot) := by
  unfold State.mr4
  try dsimp only
  repeat' (first | with_reducible exact Keeps.refl _ | with_reducible assumption | with_reducible apply Keeps.trans _ (State.raiseCh_keeps _ _ _ _ _) | with_reducible apply Keeps.trans _ (State.updCh_keeps _ _ _) | with_reducible apply Keeps.trans _ (State.wrBit_keeps _ _ _ _) | with_reducible refine Keeps.ite (fun _ => ?_) (fun _ => ?_) | with_reducible refine Keeps.foldl ?_ (fun _ _ => ?_) | split | (with_reducible apply Keeps.lit; (on_goal 2 => with_reducible rfl); first | with_reducible exact Keeps.refl _ | with_reducible assumption | with_reducible apply Keeps.trans _ (State.raiseCh_keeps _ _ _ _ _) | with_reducible apply Keeps.trans _ (State.updCh_keeps _ _ _) | with_reducible apply Keeps.trans _ (State.wrBit_keeps _ _ _ _) | with_reducible refine Keeps.ite (fun _ => ?_) (fun _ => ?_) | with_reducible refine Keeps.foldl ?_ (fun _ _ => ?_) | split))

theorem State.park_keeps (s : State) (c : Nat) : Keeps s (State.park s c) := by
  unfold State.park
  try dsimp only
  repeat' (first | with_reducible exact Keeps.refl _ | with_reducible assumption | with_reducible apply Keeps.trans _ (State.closeRank_keeps _ _ _) | with_reducible apply Keeps.trans _ (State.flushWrites_keeps _ _) | with_reducible apply Keeps.trans _ (State.setRank_keeps _ _ _ _) | with_reducible apply Keeps.trans _ (State.updCh_keeps _ _ _) | with_reducible refine Keeps.ite (fun _ => ?_) (fun _ => ?_) | with_reducible refine Keeps.foldl ?_ (fun _ _ => ?_) | with_reducible refine Keeps.foldl_fst ?_ (fun _ _ => ?_) | with_reducible refine Keeps.foldl_snd ?_ (fun _ _ => ?_) | with_reducible apply Keeps.cond | with_reducible refine Keeps.getD ?_ (fun _ _ => ?_) | split | (with_reducible apply Keeps.lit; (on_goal 2 => with_reducible rfl); first | with_reducible exact Keeps.refl _ | with_reducible assumption | with_reducible apply Keeps.trans _ (State.closeRank_keeps _ _ _) | with_reducible apply Keeps.trans _ (State.flushWrites_keeps _ _) | with_reducible apply Keeps.trans _ (State.setRank_keeps _ _ _ _) | with_reducible apply Keeps.trans _ (State.updCh_keeps _ _ _) | with_reducible refine Keeps.ite (fun _ => ?_) (fun _ => ?_) | with_reducible refine Keeps.foldl ?_ (fun _ _ => ?_) | with_reducible refine Keeps.foldl_fst ?_ (fun _ _ => ?_) | with_reducible refine Keeps.foldl_snd ?_ (fun _ _ => ?_) | with_reducible apply Keeps.cond | with_reducible refine Keeps.getD ?_ (fun _ _ => ?_) | split))

theorem State.pdAllow_keeps (s : State) (c : Nat) (v : BitVec 16) : Keeps s (State.pdAllow s c v) := by
  unfold State.pdAllow
  try dsimp only
  repeat' (first | with_reducible exact Keeps.refl _ | with_reducible assumption | with_reducible apply Keeps.trans _ (State.wakeRank_keeps _ _ _) | with_reducible apply Keeps.trans _ (State.wr_keeps _ _ _) | with_reducible refine Keeps.ite (fun _ => ?_) (fun _ => ?_) | with_reducible refine Keeps.foldl ?_ (fun _ _ => ?_) | with_reducible refine Keeps.foldl_fst ?_ (fun _ _ => ?_) | with_reducible refine Keeps.foldl_snd ?_ (fun _ _ => ?_) | with_reducible apply Keeps.cond | with_reducible refine Keeps.getD ?_ (fun _ _ => ?_) | split | (with_reducible apply Keeps.lit; (on_goal 2 => with_reducible rfl); first | with_reducible exact Keeps.refl _ | with_reducible assumption | with_reducible apply Keeps.trans _ (State.wakeRank_keeps _ _ _) | with_reducible apply Keeps.trans _ (State.wr_keeps _ _ _) | with_reducible refine Keeps.ite (fun _ => ?_) (fun _ => ?_) | with_reducible refine Keeps.foldl ?_ (fun _ _ => ?_) | with_reducible refine Keeps.foldl_fst ?_ (fun _ _ => ?_) | with_reducible refine Keeps.foldl_snd ?_ (fun _ _ => ?_) | with_reducible apply Keeps.cond | with_reducible refine Keeps.getD ?_ (fun _ _ => ?_) | split))

theorem State.powerdown_keeps (s : State) (c : Nat) (lr : Nat) : Keeps s (State.powerdown s c lr) := by
  unfold State.powerdown
  try dsimp only
  repeat' (first | with_reducible exact Keeps.refl _ | with_reducible assumption | with_reducible apply Keeps.trans _ (State.closeRank_keeps _ _ _) | with_reducible apply Keeps.trans _ (State.setRank_keeps _ _ _ _) | with_reducible apply Keeps.trans _ (State.updCh_keeps _ _ _) | with_reducible refine Keeps.ite (fun _ => ?_) (fun _ => ?_) | with_reducible refine Keeps.foldl ?_ (fun _ _ => ?_) | with_reducible refine Keeps.foldl_fst ?_ (fun _ _ => ?_) | with_reducible refine Keeps.foldl_snd ?_ (fun _ _ => ?_) | with_reducible apply Keeps.cond | with_reducible refine Keeps.getD ?_ (fun _ _ => ?_) | split | (with_reducible apply Keeps.lit; (on_goal 2 => with_reducible rfl); first | with_reducible exact Keeps.refl _ | with_reducible assumption | with_reducible apply Keeps.trans _ (State.closeRank_keeps _ _ _) | with_reducible apply Keeps.trans _ (State.setRank_keeps _ _ _ _) | with_reducible apply Keeps.trans _ (State.updCh_keeps _ _ _) | with_reducible refine Keeps.ite (fun _ => ?_) (fun _ => ?_) | with_reducible refine Keeps.foldl ?_ (fun _ _ => ?_) | with_reducible refine Keeps.foldl_fst ?_ (fun _ _ => ?_) | with_reducible refine Keeps.foldl_snd ?_ (fun _ _ => ?_) | with_reducible apply Keeps.cond | with_reducible refine Keeps.getD ?_ (fun _ _ => ?_) | split))

theorem State.readArrival_keeps (s : State) (c : Nat) (id : Nat) : Keeps s (State.readArrival s c id) := by
  unfold State.readArrival
  try dsimp only
  repeat' (first | with_reducible exact Keeps.refl _ | with_reducible assumption | with_reducible apply Keeps.trans _ (State.cnt_keeps _ _ _ _) | with_reducible apply Keeps.trans _ (State.readBack_keeps _ _ _ _ _) | with_reducible apply Keeps.trans _ (State.updCh_keeps _ _ _) | with_reducible apply Keeps.trans _ (State.wakeRank_keeps _ _ _) | with_reducible refine Keeps.ite (fun _ => ?_) (fun _ => ?_) | with_reducible refine Keeps.foldl ?_ (fun _ _ => ?_) | with_reducible refine Keeps.foldl_fst ?_ (fun _ _ => ?_) | with_reducible refine Keeps.foldl_snd ?_ (fun _ _ => ?_) | with_reducible apply Keeps.cond | with_reducible refine Keeps.getD ?_ (fun _ _ => ?_) | split | (with_reducible apply Keeps.lit; (on_goal 2 => with_reducible rfl); first | with_reducible exact Keeps.refl _ | with_reducible assumption | with_reducible apply Keeps.trans _ (State.cnt_keeps _ _ _ _) | with_reducible apply Keeps.trans _ (State.readBack_keeps _ _ _ _ _) | with_reducible apply Keeps.trans _ (State.updCh_keeps _ _ _) | with_reducible apply Keeps.trans _ (State.wakeRank_keeps _ _ _) | with_reducible refine Keeps.ite (fun _ => ?_) (fun _ => ?_) | with_reducible refine Keeps.foldl ?_ (fun _ _ => ?_) | with_reducible refine Keeps.foldl_fst ?_ (fun _ _ => ?_) | with_reducible refine Keeps.foldl_snd ?_ (fun _ _ => ?_) | with_reducible apply Keeps.cond | with_reducible refine Keeps.getD ?_ (fun _ _ => ?_) | split))

theorem State.refabStep_keeps (s : State) (c : Nat) (sub : Nat) (lr : Nat) (now : Nat) {res} (h : State.refabStep s c sub lr now = some res) : Keeps s res := by
  unfold State.refabStep at h
  try dsimp only at h
  repeat' split at h
  all_goals first | contradiction | skip
  all_goals simp only [Option.some.injEq, Option.map_eq_some_iff] at h
  all_goals try (obtain ⟨_, _, h⟩ := h)
  all_goals try subst h
  all_goals repeat' (first | with_reducible exact Keeps.refl _ | with_reducible assumption | with_reducible apply Keeps.trans _ (State.precharge_keeps _ _ _ _ _ _ _) | with_reducible apply Keeps.trans _ (State.refabNow_keeps _ _ _ _) | with_reducible apply Keeps.trans _ (State.updCh_keeps _ _ _) | with_reducible refine Keeps.ite (fun _ => ?_) (fun _ => ?_) | with_reducible refine Keeps.foldl ?_ (fun _ _ => ?_) | split | (with_reducible apply Keeps.lit; (on_goal 2 => with_reducible rfl); first | with_reducible exact Keeps.refl _ | with_reducible assumption | with_reducible apply Keeps.trans _ (State.precharge_keeps _ _ _ _ _ _ _) | with_reducible apply Keeps.trans _ (State.refabNow_keeps _ _ _ _) | with_reducible apply Keeps.trans _ (State.updCh_keeps _ _ _) | with_reducible refine Keeps.ite (fun _ => ?_) (fun _ => ?_) | with_reducible refine Keeps.foldl ?_ (fun _ _ => ?_) | split))

theorem State.refreshDue_keeps (s : State) (c : Nat) (sub : Nat) (lr : Nat) : Keeps s (State.refreshDue s c sub lr) := by
  unfold State.refreshDue
  try dsimp only
  repeat' (first | with_reducible exact Keeps.refl _ | with_reducible assumption | with_reducible apply Keeps.trans _ (State.setOwed_keeps _ _ _ _ _ _) | with_reducible apply Keeps.trans _ (State.updCh_keeps _ _ _) | with_reducible apply Keeps.trans _ (State.wakeRank_keeps _ _ _) | with_reducible refine Keeps.ite (fun _ => ?_) (fun _ => ?_) | with_reducible refine Keeps.foldl ?_ (fun _ _ => ?_) | with_reducible refine Keeps.foldl_fst ?_ (fun _ _ => ?_) | with_reducible refine Keeps.foldl_snd ?_ (fun _ _ => ?_) | with_reducible apply Keeps.cond | with_reducible refine Keeps.getD ?_ (fun _ _ => ?_) | split | (with_reducible apply Keeps.lit; (on_goal 2 => with_reducible rfl); first | with_reducible exact Keeps.refl _ | with_reducible assumption | with_reducible apply Keeps.trans _ (State.setOwed_keeps _ _ _ _ _ _) | with_reducible apply Keeps.trans _ (State.updCh_keeps _ _ _) | with_reducible apply Keeps.trans _ (State.wakeRank_keeps _ _ _) | with_reducible refine Keeps.ite (fun _ => ?_) (fun _ => ?_) | with_reducible refine Keeps.foldl ?_ (fun _ _ => ?_) | with_reducible refine Keeps.foldl_fst ?_ (fun _ _ => ?_) | with_reducible refine Keeps.foldl_snd ?_ (fun _ _ => ?_) | with_reducible apply Keeps.cond | with_reducible refine Keeps.getD ?_ (fun _ _ => ?_) | split))

theorem State.refsbStep_keeps (s : State) (c : Nat) (sub : Nat) (lr : Nat) (b : Nat) (now : Nat) {res} (h : State.refsbStep s c sub lr b now = some res) : Keeps s res := by
  unfold State.refsbStep at h
  try dsimp only at h
  repeat' split at h
  all_goals first | contradiction | skip
  all_goals simp only [Option.some.injEq, Option.map_eq_some_iff] at h
  all_goals try (obtain ⟨_, _, h⟩ := h)
  all_goals try subst h
  all_goals repeat' (first | with_reducible exact Keeps.refl _ | with_reducible assumption | with_reducible apply Keeps.trans _ (State.bus_keeps _ _ _ _ _ _) | with_reducible apply Keeps.trans _ (State.cnt_keeps _ _ _ _) | with_reducible apply Keeps.trans _ (State.precharge_keeps _ _ _ _ _ _ _) | with_reducible apply Keeps.trans _ (State.setOwed_keeps _ _ _ _ _ _) | with_reducible apply Keeps.trans _ (State.stn_keeps _ _ _ _) | with_reducible apply Keeps.trans _ (State.updCh_keeps _ _ _) | with_reducible refine Keeps.ite (fun _ => ?_) (fun _ => ?_) | with_reducible refine Keeps.foldl ?_ (fun _ _ => ?_) | with_reducible refine Keeps.foldl_fst ?_ (fun _ _ => ?_) | with_reducible refine Keeps.foldl_snd ?_ (fun _ _ => ?_) | with_reducible apply Keeps.cond | with_reducible refine Keeps.getD ?_ (fun _ _ => ?_) | split | (with_reducible apply Keeps.lit; (on_goal 2 => with_reducible rfl); first | with_reducible exact Keeps.refl _ | with_reducible assumption | with_reducible apply Keeps.trans _ (State.bus_keeps _ _ _ _ _ _) | with_reducible apply Keeps.trans _ (State.cnt_keeps _ _ _ _) | with_reducible apply Keeps.trans _ (State.precharge_keeps _ _ _ _ _ _ _) | with_reducible apply Keeps.trans _ (State.setOwed_keeps _ _ _ _ _ _) | with_reducible apply Keeps.trans _ (State.stn_keeps _ _ _ _) | with_reducible apply Keeps.trans _ (State.updCh_keeps _ _ _) | with_reducible refine Keeps.ite (fun _ => ?_) (fun _ => ?_) | with_reducible refine Keeps.foldl ?_ (fun _ _ => ?_) | with_reducible refine Keeps.foldl_fst ?_ (fun _ _ => ?_) | with_reducible refine Keeps.foldl_snd ?_ (fun _ _ => ?_) | with_reducible apply Keeps.cond | with_reducible refine Keeps.getD ?_ (fun _ _ => ?_) | split))

theorem State.refreshSlot_keeps (s : State) (c sub now : Nat) (owedOnly : Bool) {res : State}
    (h : State.refreshSlot s c sub now owedOnly = some res) : Keeps s res := by
  unfold State.refreshSlot at h
  refine Keeps.findSome h (fun lr u hu => ?_)
  dsimp only at hu
  split at hu
  · refine Keeps.findSome hu (fun b v hv => ?_)
    try dsimp only at hv
    repeat' split at hv
    all_goals first | contradiction | exact State.refsbStep_keeps _ _ _ _ _ _ hv
  · contradiction

theorem State.rowIdle_keeps (s : State) (c : Nat) (sub : Nat) (lr : Nat) (bank : Nat) : Keeps s (State.rowIdle s c sub lr bank) := by
  unfold State.rowIdle
  try dsimp only
  repeat' (first | with_reducible exact Keeps.refl _ | with_reducible apply Keeps.trans _ (State.precharge_keeps _ _ _ _ _ _ _) | with_reducible refine Keeps.ite (fun _ => ?_) (fun _ => ?_) | split | (with_reducible apply Keeps.lit; (on_goal 2 => with_reducible rfl); first | with_reducible exact Keeps.refl _ | with_reducible apply Keeps.trans _ (State.precharge_keeps _ _ _ _ _ _ _) | with_reducible refine Keeps.ite (fun _ => ?_) (fun _ => ?_) | split))

theorem State.safeOrder_keeps (s : State) (c : Nat) : Keeps s (State.safeOrder s c) := by
  unfold State.safeOrder
  try dsimp only
  repeat' (first | with_reducible exact Keeps.refl _ | with_reducible assumption | with_reducible apply Keeps.trans _ (State.dropRead_keeps _ _ _) | with_reducible apply Keeps.trans _ (State.park_keeps _ _) | with_reducible apply Keeps.trans _ (State.setFlag_keeps _ _ _) | with_reducible apply Keeps.trans _ (State.updCh_keeps _ _ _) | with_reducible refine Keeps.ite (fun _ => ?_) (fun _ => ?_) | with_reducible refine Keeps.foldl ?_ (fun _ _ => ?_) | split | (with_reducible apply Keeps.lit; (on_goal 2 => with_reducible rfl); first | with_reducible exact Keeps.refl _ | with_reducible assumption | with_reducible apply Keeps.trans _ (State.dropRead_keeps _ _ _) | with_reducible apply Keeps.trans _ (State.park_keeps _ _) | with_reducible apply Keeps.trans _ (State.setFlag_keeps _ _ _) | with_reducible apply Keeps.trans _ (State.updCh_keeps _ _ _) | with_reducible refine Keeps.ite (fun _ => ?_) (fun _ => ?_) | with_reducible refine Keeps.foldl ?_ (fun _ _ => ?_) | split))

theorem State.serveOwed_keeps (s : State) (c : Nat) (lr : Nat) : Keeps s (State.serveOwed s c lr) := by
  unfold State.serveOwed
  try dsimp only
  repeat' (first | with_reducible exact Keeps.refl _ | with_reducible assumption | with_reducible apply Keeps.trans _ (State.cnt_keeps _ _ _ _) | with_reducible apply Keeps.trans _ (State.setOwed_keeps _ _ _ _ _ _) | with_reducible apply Keeps.trans _ (State.stn_keeps _ _ _ _) | with_reducible refine Keeps.ite (fun _ => ?_) (fun _ => ?_) | with_reducible refine Keeps.foldl ?_ (fun _ _ => ?_) | with_reducible refine Keeps.foldl_fst ?_ (fun _ _ => ?_) | with_reducible refine Keeps.foldl_snd ?_ (fun _ _ => ?_) | with_reducible apply Keeps.cond | with_reducible refine Keeps.getD ?_ (fun _ _ => ?_) | split | (with_reducible apply Keeps.lit; (on_goal 2 => with_reducible rfl); first | with_reducible exact Keeps.refl _ | with_reducible assumption | with_reducible apply Keeps.trans _ (State.cnt_keeps _ _ _ _) | with_reducible apply Keeps.trans _ (State.setOwed_keeps _ _ _ _ _ _) | with_reducible apply Keeps.trans _ (State.stn_keeps _ _ _ _) | with_reducible refine Keeps.ite (fun _ => ?_) (fun _ => ?_) | with_reducible refine Keeps.foldl ?_ (fun _ _ => ?_) | with_reducible refine Keeps.foldl_fst ?_ (fun _ _ => ?_) | with_reducible refine Keeps.foldl_snd ?_ (fun _ _ => ?_) | with_reducible apply Keeps.cond | with_reducible refine Keeps.getD ?_ (fun _ _ => ?_) | split))

theorem State.selfrefresh_keeps (s : State) (c : Nat) (lr : Nat) : Keeps s (State.selfrefresh s c lr) := by
  unfold State.selfrefresh
  try dsimp only
  repeat' (first | with_reducible exact Keeps.refl _ | with_reducible assumption | with_reducible apply Keeps.trans _ (State.closeRank_keeps _ _ _) | with_reducible apply Keeps.trans _ (State.serveOwed_keeps _ _ _) | with_reducible apply Keeps.trans _ (State.setRank_keeps _ _ _ _) | with_reducible refine Keeps.ite (fun _ => ?_) (fun _ => ?_) | with_reducible refine Keeps.foldl ?_ (fun _ _ => ?_) | with_reducible refine Keeps.foldl_fst ?_ (fun _ _ => ?_) | with_reducible refine Keeps.foldl_snd ?_ (fun _ _ => ?_) | with_reducible apply Keeps.cond | with_reducible refine Keeps.getD ?_ (fun _ _ => ?_) | split | (with_reducible apply Keeps.lit; (on_goal 2 => with_reducible rfl); first | with_reducible exact Keeps.refl _ | with_reducible assumption | with_reducible apply Keeps.trans _ (State.closeRank_keeps _ _ _) | with_reducible apply Keeps.trans _ (State.serveOwed_keeps _ _ _) | with_reducible apply Keeps.trans _ (State.setRank_keeps _ _ _ _) | with_reducible refine Keeps.ite (fun _ => ?_) (fun _ => ?_) | with_reducible refine Keeps.foldl ?_ (fun _ _ => ?_) | with_reducible refine Keeps.foldl_fst ?_ (fun _ _ => ?_) | with_reducible refine Keeps.foldl_snd ?_ (fun _ _ => ?_) | with_reducible apply Keeps.cond | with_reducible refine Keeps.getD ?_ (fun _ _ => ?_) | split))

theorem State.slotCommand_keeps (t : State) (c sub clk : Nat) : Keeps t (State.slotCommand t c sub clk) := by
  unfold State.slotCommand
  split
  · rename_i u heq
    refine Keeps.findSome heq (fun lr v hv => ?_)
    try dsimp only at hv
    split at hv
    · exact State.refabStep_keeps _ _ _ _ _ hv
    · contradiction
  · split
    · rename_i u heq; exact State.refreshSlot_keeps _ _ _ _ _ heq
    · have hu := State.columnSlot_keeps t c sub clk
      exact Keeps.ite (fun _ => Keeps.getD hu (fun v hv => hu.trans (State.refreshSlot_keeps _ _ _ _ _ hv))) (fun _ => hu)

theorem State.stepLanes_keeps (s : State) (c : Nat) (sub : Nat) (clk : Nat) : Keeps s (State.stepLanes s c sub clk) := by
  unfold State.stepLanes
  try dsimp only
  repeat' (first | with_reducible exact Keeps.refl _ | with_reducible apply Keeps.trans _ (State.updCh_keeps _ _ _) | with_reducible refine Keeps.ite (fun _ => ?_) (fun _ => ?_) | split | (with_reducible apply Keeps.lit; (on_goal 2 => with_reducible rfl); first | with_reducible exact Keeps.refl _ | with_reducible apply Keeps.trans _ (State.updCh_keeps _ _ _) | with_reducible refine Keeps.ite (fun _ => ?_) (fun _ => ?_) | split))

theorem State.slot_keeps (s : State) (c : Nat) (sub : Nat) (clk : Nat) : Keeps s (State.slot s c sub clk) := by
  unfold State.slot
  try dsimp only
  repeat' (first | with_reducible exact Keeps.refl _ | with_reducible assumption | with_reducible apply Keeps.trans _ (State.slotCommand_keeps _ _ _ _) | with_reducible apply Keeps.trans _ (State.stepLanes_keeps _ _ _ _) | with_reducible apply Keeps.trans _ (State.updCh_keeps _ _ _) | with_reducible refine Keeps.ite (fun _ => ?_) (fun _ => ?_) | with_reducible refine Keeps.foldl ?_ (fun _ _ => ?_) | with_reducible refine Keeps.foldl_fst ?_ (fun _ _ => ?_) | with_reducible refine Keeps.foldl_snd ?_ (fun _ _ => ?_) | with_reducible apply Keeps.cond | with_reducible refine Keeps.getD ?_ (fun _ _ => ?_) | split | (with_reducible apply Keeps.lit; (on_goal 2 => with_reducible rfl); first | with_reducible exact Keeps.refl _ | with_reducible assumption | with_reducible apply Keeps.trans _ (State.slotCommand_keeps _ _ _ _) | with_reducible apply Keeps.trans _ (State.stepLanes_keeps _ _ _ _) | with_reducible apply Keeps.trans _ (State.updCh_keeps _ _ _) | with_reducible refine Keeps.ite (fun _ => ?_) (fun _ => ?_) | with_reducible refine Keeps.foldl ?_ (fun _ _ => ?_) | with_reducible refine Keeps.foldl_fst ?_ (fun _ _ => ?_) | with_reducible refine Keeps.foldl_snd ?_ (fun _ _ => ?_) | with_reducible apply Keeps.cond | with_reducible refine Keeps.getD ?_ (fun _ _ => ?_) | split))

theorem State.srAllow_keeps (s : State) (c : Nat) (v : BitVec 16) : Keeps s (State.srAllow s c v) := by
  unfold State.srAllow
  try dsimp only
  repeat' (first | with_reducible exact Keeps.refl _ | with_reducible assumption | with_reducible apply Keeps.trans _ (State.wakeRank_keeps _ _ _) | with_reducible apply Keeps.trans _ (State.wr_keeps _ _ _) | with_reducible refine Keeps.ite (fun _ => ?_) (fun _ => ?_) | with_reducible refine Keeps.foldl ?_ (fun _ _ => ?_) | with_reducible refine Keeps.foldl_fst ?_ (fun _ _ => ?_) | with_reducible refine Keeps.foldl_snd ?_ (fun _ _ => ?_) | with_reducible apply Keeps.cond | with_reducible refine Keeps.getD ?_ (fun _ _ => ?_) | split | (with_reducible apply Keeps.lit; (on_goal 2 => with_reducible rfl); first | with_reducible exact Keeps.refl _ | with_reducible assumption | with_reducible apply Keeps.trans _ (State.wakeRank_keeps _ _ _) | with_reducible apply Keeps.trans _ (State.wr_keeps _ _ _) | with_reducible refine Keeps.ite (fun _ => ?_) (fun _ => ?_) | with_reducible refine Keeps.foldl ?_ (fun _ _ => ?_) | with_reducible refine Keeps.foldl_fst ?_ (fun _ _ => ?_) | with_reducible refine Keeps.foldl_snd ?_ (fun _ _ => ?_) | with_reducible apply Keeps.cond | with_reducible refine Keeps.getD ?_ (fun _ _ => ?_) | split))

theorem State.takeMeta_keeps (s : State) (c : Nat) : Keeps s (State.takeMeta s c) := by
  unfold State.takeMeta
  try dsimp only
  repeat' (first | with_reducible exact Keeps.refl _ | with_reducible assumption | with_reducible apply Keeps.trans _ (State.enqueueMeta_keeps _ _ _ _ _) | with_reducible apply Keeps.trans _ (State.metaTaken_keeps _ _ _) | with_reducible refine Keeps.ite (fun _ => ?_) (fun _ => ?_) | with_reducible refine Keeps.foldl ?_ (fun _ _ => ?_) | with_reducible refine Keeps.foldl_fst ?_ (fun _ _ => ?_) | with_reducible refine Keeps.foldl_snd ?_ (fun _ _ => ?_) | with_reducible apply Keeps.cond | with_reducible refine Keeps.getD ?_ (fun _ _ => ?_) | split | (with_reducible apply Keeps.lit; (on_goal 2 => with_reducible rfl); first | with_reducible exact Keeps.refl _ | with_reducible assumption | with_reducible apply Keeps.trans _ (State.enqueueMeta_keeps _ _ _ _ _) | with_reducible apply Keeps.trans _ (State.metaTaken_keeps _ _ _) | with_reducible refine Keeps.ite (fun _ => ?_) (fun _ => ?_) | with_reducible refine Keeps.foldl ?_ (fun _ _ => ?_) | with_reducible refine Keeps.foldl_fst ?_ (fun _ _ => ?_) | with_reducible refine Keeps.foldl_snd ?_ (fun _ _ => ?_) | with_reducible apply Keeps.cond | with_reducible refine Keeps.getD ?_ (fun _ _ => ?_) | split))

end Sys2Proof.Machine
end

