-- ==== Sys2Proof/Laws/KeepsPort.lean ====
section
/-! SUPPORT. Every operation of Machine/Port.lean keeps what `Keeps` says: one lemma for each. -/
namespace Sys2Proof.Machine
set_option linter.unreachableTactic false
set_option linter.unusedTactic false

theorem State.biConflict_keeps (s : State) (h : Nat) (line : Nat) : Keeps s (State.biConflict s h line) := by
  unfold State.biConflict
  try dsimp only
  repeat' (first | with_reducible exact Keeps.refl _ | with_reducible apply Keeps.trans _ (State.wakeLink_keeps _ _) | with_reducible apply Keeps.trans _ (State.emit_keeps _ _) | with_reducible refine Keeps.ite (fun _ => ?_) (fun _ => ?_) | split | (with_reducible apply Keeps.lit; (on_goal 2 => with_reducible rfl); first | with_reducible exact Keeps.refl _ | with_reducible apply Keeps.trans _ (State.wakeLink_keeps _ _) | with_reducible apply Keeps.trans _ (State.emit_keeps _ _) | with_reducible refine Keeps.ite (fun _ => ?_) (fun _ => ?_) | split))

theorem State.sendWaiting_keeps (s : State) (h n : Nat) : Keeps s (State.sendWaiting s h n) := by
  induction n generalizing s with
  | zero => exact Keeps.refl _
  | succ n ih =>
    unfold State.sendWaiting
    dsimp only
    split
    · exact Keeps.refl _
    · refine Keeps.ite (fun _ => Keeps.refl _) (fun _ => ?_)
      refine Keeps.trans ?_ (ih _)
      refine Keeps.trans ?_ (State.sendBisnp_keeps _ _ _ _)
      refine Keeps.trans ?_ (State.setExch_keeps _ _)
      exact Keeps.lit (Keeps.refl _) rfl

theorem State.biCredits_keeps (s : State) (h : Nat) (n : Nat) : Keeps s (State.biCredits s h n) := by
  unfold State.biCredits
  try dsimp only
  repeat' (first | with_reducible exact Keeps.refl _ | with_reducible apply Keeps.trans _ (State.sendWaiting_keeps _ _ _) | with_reducible refine Keeps.ite (fun _ => ?_) (fun _ => ?_) | split | (with_reducible apply Keeps.lit; (on_goal 2 => with_reducible rfl); first | with_reducible exact Keeps.refl _ | with_reducible apply Keeps.trans _ (State.sendWaiting_keeps _ _ _) | with_reducible refine Keeps.ite (fun _ => ?_) (fun _ => ?_) | split))

theorem State.drainMark_keeps (s : State) (x : Exch) : Keeps s (State.drainMark s x) := by
  unfold State.drainMark
  try dsimp only
  repeat' (first | with_reducible exact Keeps.refl _ | with_reducible apply Keeps.trans _ (State.updLd_keeps _ _ _) | with_reducible refine Keeps.ite (fun _ => ?_) (fun _ => ?_) | split | (with_reducible apply Keeps.lit; (on_goal 2 => with_reducible rfl); first | with_reducible exact Keeps.refl _ | with_reducible apply Keeps.trans _ (State.updLd_keeps _ _ _) | with_reducible refine Keeps.ite (fun _ => ?_) (fun _ => ?_) | split))

theorem State.biTimeout_keeps (s : State) (h : Nat) (line : Nat) : Keeps s (State.biTimeout s h line) := by
  unfold State.biTimeout
  try dsimp only
  repeat' (first | with_reducible exact Keeps.refl _ | with_reducible apply Keeps.trans _ (State.biTimedOut_keeps _ _ _) | with_reducible apply Keeps.trans _ (State.drainMark_keeps _ _) | with_reducible refine Keeps.ite (fun _ => ?_) (fun _ => ?_) | split | (with_reducible apply Keeps.lit; (on_goal 2 => with_reducible rfl); first | with_reducible exact Keeps.refl _ | with_reducible apply Keeps.trans _ (State.biTimedOut_keeps _ _ _) | with_reducible apply Keeps.trans _ (State.drainMark_keeps _ _) | with_reducible refine Keeps.ite (fun _ => ?_) (fun _ => ?_) | split))

theorem State.birsp_keeps (s : State) (h : Nat) (line : Nat) (r : BiRsp) : Keeps s (State.birsp s h line r) := by
  unfold State.birsp
  try dsimp only
  repeat' (first | with_reducible exact Keeps.refl _ | with_reducible apply Keeps.trans _ (State.cnt_keeps _ _ _ _) | with_reducible apply Keeps.trans _ (State.endWait_keeps _ _ _) | with_reducible apply Keeps.trans _ (State.setExch_keeps _ _) | with_reducible refine Keeps.ite (fun _ => ?_) (fun _ => ?_) | split | (with_reducible apply Keeps.lit; (on_goal 2 => with_reducible rfl); first | with_reducible exact Keeps.refl _ | with_reducible apply Keeps.trans _ (State.cnt_keeps _ _ _ _) | with_reducible apply Keeps.trans _ (State.endWait_keeps _ _ _) | with_reducible apply Keeps.trans _ (State.setExch_keeps _ _) | with_reducible refine Keeps.ite (fun _ => ?_) (fun _ => ?_) | split))

theorem State.examine_keeps (s : State) (q : Req) (h : Nat) : Keeps s (State.examine s q h).1 := by
  unfold State.examine
  try dsimp only
  repeat' (first | with_reducible exact Keeps.refl _ | with_reducible refine Keeps.ite (fun _ => ?_) (fun _ => ?_) | split | (with_reducible apply Keeps.lit; (on_goal 2 => with_reducible rfl); first | with_reducible exact Keeps.refl _ | with_reducible refine Keeps.ite (fun _ => ?_) (fun _ => ?_) | split))

theorem State.classify_keeps (s : State) (q : Req) (h : Nat) (x : Decoded) : Keeps s (State.classify s q h x).1 := by
  unfold State.classify
  try dsimp only
  repeat' (first | with_reducible exact Keeps.refl _ | with_reducible assumption | with_reducible apply Keeps.trans _ (State.cnt_keeps _ _ _ _) | with_reducible apply Keeps.trans _ (State.examine_keeps _ _ _) | with_reducible refine Keeps.ite (fun _ => ?_) (fun _ => ?_) | with_reducible refine Keeps.foldl ?_ (fun _ _ => ?_) | with_reducible refine Keeps.foldl_fst ?_ (fun _ _ => ?_) | with_reducible refine Keeps.foldl_snd ?_ (fun _ _ => ?_) | with_reducible apply Keeps.cond | with_reducible refine Keeps.getD ?_ (fun _ _ => ?_) | split | with_reducible refine Keeps.of_fst ‹_ = (_, _)› ?_ | (with_reducible apply Keeps.lit; (on_goal 2 => with_reducible rfl); first | with_reducible exact Keeps.refl _ | with_reducible assumption | with_reducible apply Keeps.trans _ (State.cnt_keeps _ _ _ _) | with_reducible apply Keeps.trans _ (State.examine_keeps _ _ _) | with_reducible refine Keeps.ite (fun _ => ?_) (fun _ => ?_) | with_reducible refine Keeps.foldl ?_ (fun _ _ => ?_) | with_reducible refine Keeps.foldl_fst ?_ (fun _ _ => ?_) | with_reducible refine Keeps.foldl_snd ?_ (fun _ _ => ?_) | with_reducible apply Keeps.cond | with_reducible refine Keeps.getD ?_ (fun _ _ => ?_) | split | with_reducible refine Keeps.of_fst ‹_ = (_, _)› ?_))

theorem State.endAtPort_keeps (s : State) (q : Req) (h : Nat) (f : Ending) : Keeps s (State.endAtPort s q h f) := by
  unfold State.endAtPort
  repeat' (first | with_reducible exact Keeps.refl _ | with_reducible apply Keeps.trans _ (State.finish_keeps _ _ _ _))

theorem State.enqueue_keeps (s : State) (q : Req) : Keeps s (State.enqueue s q) := by
  unfold State.enqueue
  try dsimp only
  repeat' (first | with_reducible exact Keeps.refl _ | with_reducible refine Keeps.ite (fun _ => ?_) (fun _ => ?_) | split | (with_reducible apply Keeps.lit; (on_goal 2 => with_reducible rfl); first | with_reducible exact Keeps.refl _ | with_reducible refine Keeps.ite (fun _ => ?_) (fun _ => ?_) | split))

theorem State.hint_keeps (s : State) (r : MemReq) : Keeps s (State.hint s r) := by
  unfold State.hint
  try dsimp only
  repeat' (first | with_reducible exact Keeps.refl _ | with_reducible assumption | with_reducible apply Keeps.trans _ (State.classify_keeps _ _ _ _) | with_reducible apply Keeps.trans _ (State.sample_keeps _ _ _ _) | with_reducible apply Keeps.trans _ (State.wakeLink_keeps _ _) | with_reducible refine Keeps.ite (fun _ => ?_) (fun _ => ?_) | with_reducible refine Keeps.foldl ?_ (fun _ _ => ?_) | with_reducible refine Keeps.foldl_fst ?_ (fun _ _ => ?_) | with_reducible refine Keeps.foldl_snd ?_ (fun _ _ => ?_) | with_reducible apply Keeps.cond | with_reducible refine Keeps.getD ?_ (fun _ _ => ?_) | split | with_reducible refine Keeps.of_fst ‹_ = (_, _)› ?_ | (with_reducible apply Keeps.lit; (on_goal 2 => with_reducible rfl); first | with_reducible exact Keeps.refl _ | with_reducible assumption | with_reducible apply Keeps.trans _ (State.classify_keeps _ _ _ _) | with_reducible apply Keeps.trans _ (State.sample_keeps _ _ _ _) | with_reducible apply Keeps.trans _ (State.wakeLink_keeps _ _) | with_reducible refine Keeps.ite (fun _ => ?_) (fun _ => ?_) | with_reducible refine Keeps.foldl ?_ (fun _ _ => ?_) | with_reducible refine Keeps.foldl_fst ?_ (fun _ _ => ?_) | with_reducible refine Keeps.foldl_snd ?_ (fun _ _ => ?_) | with_reducible apply Keeps.cond | with_reducible refine Keeps.getD ?_ (fun _ _ => ?_) | split | with_reducible refine Keeps.of_fst ‹_ = (_, _)› ?_))

theorem State.unbackedAtPort_keeps (s : State) (q : Req) (h : Nat) (arg : Nat) : Keeps s (State.unbackedAtPort s q h arg) := by
  unfold State.unbackedAtPort
  repeat' (first | with_reducible exact Keeps.refl _ | with_reducible apply Keeps.trans _ (State.cnt_keeps _ _ _ _) | with_reducible apply Keeps.trans _ (State.endAtPort_keeps _ _ _ _) | with_reducible apply Keeps.trans _ (State.raise_keeps _ _ _ _))

theorem State.portServe_keeps (s : State) (d : Ld) (q : Req) (h : Nat) (hpa : Nat) : Keeps s (State.portServe s d q h hpa) := by
  unfold State.portServe
  try dsimp only
  repeat' (first | with_reducible exact Keeps.refl _ | with_reducible assumption | with_reducible apply Keeps.trans _ (State.endAtPort_keeps _ _ _ _) | with_reducible apply Keeps.trans _ (State.enqueue_keeps _ _) | with_reducible apply Keeps.trans _ (State.unbackedAtPort_keeps _ _ _ _) | with_reducible refine Keeps.ite (fun _ => ?_) (fun _ => ?_) | with_reducible refine Keeps.foldl ?_ (fun _ _ => ?_) | with_reducible refine Keeps.foldl_fst ?_ (fun _ _ => ?_) | with_reducible refine Keeps.foldl_snd ?_ (fun _ _ => ?_) | with_reducible apply Keeps.cond | with_reducible refine Keeps.getD ?_ (fun _ _ => ?_) | split | (with_reducible apply Keeps.lit; (on_goal 2 => with_reducible rfl); first | with_reducible exact Keeps.refl _ | with_reducible assumption | with_reducible apply Keeps.trans _ (State.endAtPort_keeps _ _ _ _) | with_reducible apply Keeps.trans _ (State.enqueue_keeps _ _) | with_reducible apply Keeps.trans _ (State.unbackedAtPort_keeps _ _ _ _) | with_reducible refine Keeps.ite (fun _ => ?_) (fun _ => ?_) | with_reducible refine Keeps.foldl ?_ (fun _ _ => ?_) | with_reducible refine Keeps.foldl_fst ?_ (fun _ _ => ?_) | with_reducible refine Keeps.foldl_snd ?_ (fun _ _ => ?_) | with_reducible apply Keeps.cond | with_reducible refine Keeps.getD ?_ (fun _ _ => ?_) | split))

theorem State.ring_keeps (s : State) (h : Nat) (ld : Nat) (tag : Nat) : Keeps s (State.ring s h ld tag) := by
  unfold State.ring
  repeat' (first | with_reducible exact Keeps.refl _ | with_reducible apply Keeps.trans _ (State.showFences_keeps _ _) | with_reducible apply Keeps.trans _ (State.updHead_keeps _ _ _) | (with_reducible apply Keeps.lit; (on_goal 2 => with_reducible rfl); first | with_reducible exact Keeps.refl _ | with_reducible apply Keeps.trans _ (State.showFences_keeps _ _) | with_reducible apply Keeps.trans _ (State.updHead_keeps _ _ _)))

theorem State.memArrive_keeps (s : State) (r : MemReq) (op : ReqOp) (data : BitVec 512) (be : BitVec 64) (poison : Bool) : Keeps s (State.memArrive s r op data be poison) := by
  unfold State.memArrive
  try dsimp only
  repeat' (first | with_reducible exact Keeps.refl _ | with_reducible apply Keeps.trans _ (State.classify_keeps _ _ _ _) | with_reducible apply Keeps.trans _ (State.cnt_keeps _ _ _ _) | with_reducible apply Keeps.trans _ (State.endAtPort_keeps _ _ _ _) | with_reducible apply Keeps.trans _ (State.newId_keeps _) | with_reducible apply Keeps.trans _ (State.portServe_keeps _ _ _ _ _) | with_reducible apply Keeps.trans _ (State.ring_keeps _ _ _ _) | with_reducible apply Keeps.trans _ (State.wakeLink_keeps _ _) | with_reducible refine Keeps.ite (fun _ => ?_) (fun _ => ?_) | split | with_reducible refine Keeps.of_fst ‹_ = (_, _)› ?_ | (with_reducible apply Keeps.lit; (on_goal 2 => with_reducible rfl); first | with_reducible exact Keeps.refl _ | with_reducible apply Keeps.trans _ (State.classify_keeps _ _ _ _) | with_reducible apply Keeps.trans _ (State.cnt_keeps _ _ _ _) | with_reducible apply Keeps.trans _ (State.endAtPort_keeps _ _ _ _) | with_reducible apply Keeps.trans _ (State.newId_keeps _) | with_reducible apply Keeps.trans _ (State.portServe_keeps _ _ _ _ _) | with_reducible apply Keeps.trans _ (State.ring_keeps _ _ _ _) | with_reducible apply Keeps.trans _ (State.wakeLink_keeps _ _) | with_reducible refine Keeps.ite (fun _ => ?_) (fun _ => ?_) | split | with_reducible refine Keeps.of_fst ‹_ = (_, _)› ?_))

end Sys2Proof.Machine
end

