-- ==== Sys2Proof/Laws/KeepsShare.lean ====
section
/-! SUPPORT. Every operation of Machine/Share.lean keeps what `Keeps` says: one lemma for each. -/
namespace Sys2Proof.Machine
set_option linter.unreachableTactic false
set_option linter.unusedTactic false

theorem State.noteTurn_keeps (s : State) (slice : Nat) (k : GovTurn) : Keeps s (State.noteTurn s slice k) := by
  unfold State.noteTurn
  try dsimp only
  repeat' (first | with_reducible exact Keeps.refl _ | with_reducible assumption | with_reducible refine Keeps.ite (fun _ => ?_) (fun _ => ?_) | with_reducible refine Keeps.foldl ?_ (fun _ _ => ?_) | with_reducible refine Keeps.foldl_fst ?_ (fun _ _ => ?_) | with_reducible refine Keeps.foldl_snd ?_ (fun _ _ => ?_) | with_reducible apply Keeps.cond | with_reducible refine Keeps.getD ?_ (fun _ _ => ?_) | split | (with_reducible apply Keeps.lit; (on_goal 2 => with_reducible rfl); first | with_reducible exact Keeps.refl _ | with_reducible assumption | with_reducible refine Keeps.ite (fun _ => ?_) (fun _ => ?_) | with_reducible refine Keeps.foldl ?_ (fun _ _ => ?_) | with_reducible refine Keeps.foldl_fst ?_ (fun _ _ => ?_) | with_reducible refine Keeps.foldl_snd ?_ (fun _ _ => ?_) | with_reducible apply Keeps.cond | with_reducible refine Keeps.getD ?_ (fun _ _ => ?_) | split))

theorem State.govAdmit_keeps (s : State) (slice : Nat) (k : GovTurn) {res} (h : State.govAdmit s slice k = some res) : Keeps s res := by
  unfold State.govAdmit at h
  try dsimp only at h
  repeat' split at h
  all_goals first | contradiction | skip
  all_goals simp only [Option.some.injEq, Option.map_eq_some_iff] at h
  all_goals try (obtain ⟨_, _, h⟩ := h)
  all_goals try subst h
  all_goals repeat' (first | with_reducible exact Keeps.refl _ | with_reducible apply Keeps.trans _ (State.noteDma_keeps _ _) | with_reducible apply Keeps.trans _ (State.noteTurn_keeps _ _ _) | with_reducible refine Keeps.ite (fun _ => ?_) (fun _ => ?_) | split | with_reducible refine Keeps.trans ?_ (State.dmaAdmit_keeps _ _ ‹State.dmaAdmit _ _ = some _›) | (with_reducible apply Keeps.lit; (on_goal 2 => with_reducible rfl); first | with_reducible exact Keeps.refl _ | with_reducible apply Keeps.trans _ (State.noteDma_keeps _ _) | with_reducible apply Keeps.trans _ (State.noteTurn_keeps _ _ _) | with_reducible refine Keeps.ite (fun _ => ?_) (fun _ => ?_) | split | with_reducible refine Keeps.trans ?_ (State.dmaAdmit_keeps _ _ ‹State.dmaAdmit _ _ = some _›)))

theorem State.moveAdmit_keeps (s : State) (slice : Nat) (m : MoveSlot) {res} (h : State.moveAdmit s slice m = some res) : Keeps s res := by
  unfold State.moveAdmit at h
  exact Keeps.some_ite h (State.dmaAdmit_keeps _ _) (State.govAdmit_keeps _ _ _)

end Sys2Proof.Machine
end

