-- ==== Sys2Proof/Laws/KeepsDrain.lean ====
section
/-! SUPPORT. Every operation of Machine/Drain.lean keeps what `Keeps` says: one lemma for each. -/
namespace Sys2Proof.Machine
set_option linter.unreachableTactic false
set_option linter.unusedTactic false

theorem State.advanceCursor_keeps (s : State) (i : Nat) (r : Region) : Keeps s (State.advanceCursor s i r) := by
  unfold State.advanceCursor
  try dsimp only
  repeat' (first | with_reducible exact Keeps.refl _ | with_reducible assumption | with_reducible apply Keeps.trans _ (State.setDword_keeps _ _ _) | with_reducible apply Keeps.trans _ (State.updRegion_keeps _ _ _) | with_reducible refine Keeps.ite (fun _ => ?_) (fun _ => ?_) | with_reducible refine Keeps.foldl ?_ (fun _ _ => ?_) | split | (with_reducible apply Keeps.lit; (on_goal 2 => with_reducible rfl); first | with_reducible exact Keeps.refl _ | with_reducible assumption | with_reducible apply Keeps.trans _ (State.setDword_keeps _ _ _) | with_reducible apply Keeps.trans _ (State.updRegion_keeps _ _ _) | with_reducible refine Keeps.ite (fun _ => ?_) (fun _ => ?_) | with_reducible refine Keeps.foldl ?_ (fun _ _ => ?_) | split))

theorem State.setParent_keeps (s : State) (level : Nat) (node : Nat) (b : BitVec 512) : Keeps s (State.setParent s level node b) := by
  unfold State.setParent
  try dsimp only
  repeat' (first | with_reducible exact Keeps.refl _ | with_reducible apply Keeps.trans _ (State.cache_keeps _ _ _ _ _ _) | with_reducible apply Keeps.trans _ (State.setRoot_keeps _ _ _) | with_reducible refine Keeps.ite (fun _ => ?_) (fun _ => ?_) | split | (with_reducible apply Keeps.lit; (on_goal 2 => with_reducible rfl); first | with_reducible exact Keeps.refl _ | with_reducible apply Keeps.trans _ (State.cache_keeps _ _ _ _ _ _) | with_reducible apply Keeps.trans _ (State.setRoot_keeps _ _ _) | with_reducible refine Keeps.ite (fun _ => ?_) (fun _ => ?_) | split))

theorem State.uncache_keeps (s : State) (space : Bool) (level : Nat) (node : Nat) : Keeps s (State.uncache s space level node) := by
  unfold State.uncache
  repeat' (first | with_reducible exact Keeps.refl _ | (with_reducible apply Keeps.lit; (on_goal 2 => with_reducible rfl); first | with_reducible exact Keeps.refl _))

theorem State.backUnder_keeps (s : State) (level : Nat) (node : Nat) (blk : BitVec 512) (par : BitVec 512) : Keeps s (State.backUnder s level node blk par) := by
  unfold State.backUnder
  repeat' (first | with_reducible exact Keeps.refl _ | with_reducible apply Keeps.trans _ (State.putTag_keeps _ _ _ _) | with_reducible apply Keeps.trans _ (State.setParent_keeps _ _ _ _) | with_reducible apply Keeps.trans _ (State.store_keeps _ _ _ _ _) | with_reducible apply Keeps.trans _ (State.uncache_keeps _ _ _ _))

theorem State.countOvf_keeps (s : State) : Keeps s (State.countOvf s) := by
  unfold State.countOvf
  repeat' (first | with_reducible exact Keeps.refl _ | with_reducible apply Keeps.trans _ (State.sat_keeps _ _ _) | with_reducible apply Keeps.trans _ (State.stn_keeps _ _ _ _))

theorem State.nodeOverflow_keeps (s : State) (level : Nat) (node : Nat) (par : BitVec 512) : Keeps s (State.nodeOverflow s level node par).1 := by
  unfold State.nodeOverflow
  try dsimp only
  repeat' (first | with_reducible exact Keeps.refl _ | with_reducible assumption | with_reducible apply Keeps.trans _ (State.makeReadonly_keeps _ _) | with_reducible apply Keeps.trans _ (State.metaReads_keeps _ _ _) | with_reducible apply Keeps.trans _ (State.sat_keeps _ _ _) | with_reducible apply Keeps.trans _ (State.setParent_keeps _ _ _ _) | with_reducible apply Keeps.trans _ (State.stn_keeps _ _ _ _) | with_reducible refine Keeps.ite (fun _ => ?_) (fun _ => ?_) | with_reducible refine Keeps.foldl ?_ (fun _ _ => ?_) | split | (with_reducible apply Keeps.lit; (on_goal 2 => with_reducible rfl); first | with_reducible exact Keeps.refl _ | with_reducible assumption | with_reducible apply Keeps.trans _ (State.makeReadonly_keeps _ _) | with_reducible apply Keeps.trans _ (State.metaReads_keeps _ _ _) | with_reducible apply Keeps.trans _ (State.sat_keeps _ _ _) | with_reducible apply Keeps.trans _ (State.setParent_keeps _ _ _ _) | with_reducible apply Keeps.trans _ (State.stn_keeps _ _ _ _) | with_reducible refine Keeps.ite (fun _ => ?_) (fun _ => ?_) | with_reducible refine Keeps.foldl ?_ (fun _ _ => ?_) | split))

theorem State.fetchPath_keeps (s : State) (space : Bool) (level : Nat) (node : Nat) : Keeps s (State.fetchPath s space level node).1 := by
  unfold State.fetchPath
  try dsimp only
  repeat' (first | with_reducible exact Keeps.refl _ | with_reducible assumption | with_reducible apply Keeps.trans _ (State.fetchCtr_keeps _ _ _) | with_reducible apply Keeps.trans _ (State.fetchDown_keeps _ _ _) | with_reducible refine Keeps.ite (fun _ => ?_) (fun _ => ?_) | with_reducible refine Keeps.foldl ?_ (fun _ _ => ?_) | with_reducible refine Keeps.foldl_fst ?_ (fun _ _ => ?_) | with_reducible refine Keeps.foldl_snd ?_ (fun _ _ => ?_) | with_reducible apply Keeps.cond | with_reducible refine Keeps.getD ?_ (fun _ _ => ?_) | split | with_reducible refine Keeps.of_fst ‹_ = (_, _)› ?_ | (with_reducible apply Keeps.lit; (on_goal 2 => with_reducible rfl); first | with_reducible exact Keeps.refl _ | with_reducible assumption | with_reducible apply Keeps.trans _ (State.fetchCtr_keeps _ _ _) | with_reducible apply Keeps.trans _ (State.fetchDown_keeps _ _ _) | with_reducible refine Keeps.ite (fun _ => ?_) (fun _ => ?_) | with_reducible refine Keeps.foldl ?_ (fun _ _ => ?_) | with_reducible refine Keeps.foldl_fst ?_ (fun _ _ => ?_) | with_reducible refine Keeps.foldl_snd ?_ (fun _ _ => ?_) | with_reducible apply Keeps.cond | with_reducible refine Keeps.getD ?_ (fun _ _ => ?_) | split | with_reducible refine Keeps.of_fst ‹_ = (_, _)› ?_))

theorem State.unask_keeps (s : State) (space : Bool) (level : Nat) (node : Nat) : Keeps s (State.unask s space level node) := by
  unfold State.unask
  try dsimp only
  repeat' (first | with_reducible exact Keeps.refl _ | with_reducible assumption | with_reducible refine Keeps.ite (fun _ => ?_) (fun _ => ?_) | with_reducible refine Keeps.foldl ?_ (fun _ _ => ?_) | with_reducible refine Keeps.foldl_fst ?_ (fun _ _ => ?_) | with_reducible refine Keeps.foldl_snd ?_ (fun _ _ => ?_) | with_reducible apply Keeps.cond | with_reducible refine Keeps.getD ?_ (fun _ _ => ?_) | split | (with_reducible apply Keeps.lit; (on_goal 2 => with_reducible rfl); first | with_reducible exact Keeps.refl _ | with_reducible assumption | with_reducible refine Keeps.ite (fun _ => ?_) (fun _ => ?_) | with_reducible refine Keeps.foldl ?_ (fun _ _ => ?_) | with_reducible refine Keeps.foldl_fst ?_ (fun _ _ => ?_) | with_reducible refine Keeps.foldl_snd ?_ (fun _ _ => ?_) | with_reducible apply Keeps.cond | with_reducible refine Keeps.getD ?_ (fun _ _ => ?_) | split))

theorem State.wantPath_keeps (s : State) (space : Bool) (level : Nat) (node : Nat) (w : ReadFor) : Keeps s (State.wantPath s space level node w).1 := by
  unfold State.wantPath
  try dsimp only
  repeat' (first | with_reducible exact Keeps.refl _ | with_reducible assumption | with_reducible apply Keeps.trans _ (State.fetchPath_keeps _ _ _ _) | with_reducible apply Keeps.trans _ (State.metaReads_keeps _ _ _) | with_reducible apply Keeps.trans _ (State.unask_keeps _ _ _ _) | with_reducible refine Keeps.ite (fun _ => ?_) (fun _ => ?_) | with_reducible refine Keeps.foldl ?_ (fun _ _ => ?_) | with_reducible refine Keeps.foldl_fst ?_ (fun _ _ => ?_) | with_reducible refine Keeps.foldl_snd ?_ (fun _ _ => ?_) | with_reducible apply Keeps.cond | with_reducible refine Keeps.getD ?_ (fun _ _ => ?_) | split | with_reducible refine Keeps.of_fst ‹_ = (_, _)› ?_ | (with_reducible apply Keeps.lit; (on_goal 2 => with_reducible rfl); first | with_reducible exact Keeps.refl _ | with_reducible assumption | with_reducible apply Keeps.trans _ (State.fetchPath_keeps _ _ _ _) | with_reducible apply Keeps.trans _ (State.metaReads_keeps _ _ _) | with_reducible apply Keeps.trans _ (State.unask_keeps _ _ _ _) | with_reducible refine Keeps.ite (fun _ => ?_) (fun _ => ?_) | with_reducible refine Keeps.foldl ?_ (fun _ _ => ?_) | with_reducible refine Keeps.foldl_fst ?_ (fun _ _ => ?_) | with_reducible refine Keeps.foldl_snd ?_ (fun _ _ => ?_) | with_reducible apply Keeps.cond | with_reducible refine Keeps.getD ?_ (fun _ _ => ?_) | split | with_reducible refine Keeps.of_fst ‹_ = (_, _)› ?_))

theorem State.writeNode_keeps (s : State) (space : Bool) (level : Nat) (node : Nat) (x : CacheBlk) : Keeps s (State.writeNode s space level node x) := by
  unfold State.writeNode
  try dsimp only
  repeat' (first | with_reducible exact Keeps.refl _ | with_reducible assumption | with_reducible apply Keeps.trans _ (State.backUnder_keeps _ _ _ _ _) | with_reducible apply Keeps.trans _ (State.nodeOverflow_keeps _ _ _ _) | with_reducible apply Keeps.trans _ (State.store_keeps _ _ _ _ _) | with_reducible apply Keeps.trans _ (State.uncache_keeps _ _ _ _) | with_reducible apply Keeps.trans _ (State.wantPath_keeps _ _ _ _ _) | with_reducible refine Keeps.ite (fun _ => ?_) (fun _ => ?_) | with_reducible refine Keeps.foldl ?_ (fun _ _ => ?_) | with_reducible refine Keeps.foldl_fst ?_ (fun _ _ => ?_) | with_reducible refine Keeps.foldl_snd ?_ (fun _ _ => ?_) | with_reducible apply Keeps.cond | with_reducible refine Keeps.getD ?_ (fun _ _ => ?_) | split | with_reducible refine Keeps.of_fst ‹_ = (_, _)› ?_ | (with_reducible apply Keeps.lit; (on_goal 2 => with_reducible rfl); first | with_reducible exact Keeps.refl _ | with_reducible assumption | with_reducible apply Keeps.trans _ (State.backUnder_keeps _ _ _ _ _) | with_reducible apply Keeps.trans _ (State.nodeOverflow_keeps _ _ _ _) | with_reducible apply Keeps.trans _ (State.store_keeps _ _ _ _ _) | with_reducible apply Keeps.trans _ (State.uncache_keeps _ _ _ _) | with_reducible apply Keeps.trans _ (State.wantPath_keeps _ _ _ _ _) | with_reducible refine Keeps.ite (fun _ => ?_) (fun _ => ?_) | with_reducible refine Keeps.foldl ?_ (fun _ _ => ?_) | with_reducible refine Keeps.foldl_fst ?_ (fun _ _ => ?_) | with_reducible refine Keeps.foldl_snd ?_ (fun _ _ => ?_) | with_reducible apply Keeps.cond | with_reducible refine Keeps.getD ?_ (fun _ _ => ?_) | split | with_reducible refine Keeps.of_fst ‹_ = (_, _)› ?_))

theorem State.ctrBack_keeps (s : State) (space : Bool) (level : Nat) (node : Nat) (evict : Bool) : Keeps s (State.ctrBack s space level node evict) := by
  unfold State.ctrBack
  split
  · exact Keeps.refl _
  · refine Keeps.ite (fun _ => Keeps.refl _) (fun _ => ?_)
    split
    · exact Keeps.refl _
    · rename_i t heq
      exact (Keeps.some_ite heq (State.dmaAdmit_keeps _ _) (State.govAdmit_keeps _ _ _)).trans (State.writeNode_keeps _ _ _ _ _)

theorem State.ctrFetched_keeps (s : State) (space : Bool) (q : Nat) : Keeps s (State.ctrFetched s space q) := by
  unfold State.ctrFetched
  try dsimp only
  repeat' (first | with_reducible exact Keeps.refl _ | with_reducible assumption | with_reducible apply Keeps.trans _ (State.fetchCtr_keeps _ _ _) | with_reducible apply Keeps.trans _ (State.unask_keeps _ _ _ _) | with_reducible refine Keeps.ite (fun _ => ?_) (fun _ => ?_) | with_reducible refine Keeps.foldl ?_ (fun _ _ => ?_) | with_reducible refine Keeps.foldl_fst ?_ (fun _ _ => ?_) | with_reducible refine Keeps.foldl_snd ?_ (fun _ _ => ?_) | with_reducible apply Keeps.cond | with_reducible refine Keeps.getD ?_ (fun _ _ => ?_) | split | with_reducible refine Keeps.of_fst ‹_ = (_, _)› ?_ | (with_reducible apply Keeps.lit; (on_goal 2 => with_reducible rfl); first | with_reducible exact Keeps.refl _ | with_reducible assumption | with_reducible apply Keeps.trans _ (State.fetchCtr_keeps _ _ _) | with_reducible apply Keeps.trans _ (State.unask_keeps _ _ _ _) | with_reducible refine Keeps.ite (fun _ => ?_) (fun _ => ?_) | with_reducible refine Keeps.foldl ?_ (fun _ _ => ?_) | with_reducible refine Keeps.foldl_fst ?_ (fun _ _ => ?_) | with_reducible refine Keeps.foldl_snd ?_ (fun _ _ => ?_) | with_reducible apply Keeps.cond | with_reducible refine Keeps.getD ?_ (fun _ _ => ?_) | split | with_reducible refine Keeps.of_fst ‹_ = (_, _)› ?_))

theorem State.overflowStart_keeps (s : State) (w : WcbLine) (g : Guard) (b : BitVec 512) : Keeps s (State.overflowStart s w g b) := by
  unfold State.overflowStart
  try dsimp only
  repeat' (first | with_reducible exact Keeps.refl _ | with_reducible assumption | with_reducible apply Keeps.trans _ (State.countOvf_keeps _) | with_reducible apply Keeps.trans _ (State.setCtr_keeps _ _ _) | with_reducible apply Keeps.trans _ (State.wcbDrop_keeps _ _) | with_reducible refine Keeps.ite (fun _ => ?_) (fun _ => ?_) | with_reducible refine Keeps.foldl ?_ (fun _ _ => ?_) | with_reducible refine Keeps.foldl_fst ?_ (fun _ _ => ?_) | with_reducible refine Keeps.foldl_snd ?_ (fun _ _ => ?_) | with_reducible apply Keeps.cond | with_reducible refine Keeps.getD ?_ (fun _ _ => ?_) | split | (with_reducible apply Keeps.lit; (on_goal 2 => with_reducible rfl); first | with_reducible exact Keeps.refl _ | with_reducible assumption | with_reducible apply Keeps.trans _ (State.countOvf_keeps _) | with_reducible apply Keeps.trans _ (State.setCtr_keeps _ _ _) | with_reducible apply Keeps.trans _ (State.wcbDrop_keeps _ _) | with_reducible refine Keeps.ite (fun _ => ?_) (fun _ => ?_) | with_reducible refine Keeps.foldl ?_ (fun _ _ => ?_) | with_reducible refine Keeps.foldl_fst ?_ (fun _ _ => ?_) | with_reducible refine Keeps.foldl_snd ?_ (fun _ _ => ?_) | with_reducible apply Keeps.cond | with_reducible refine Keeps.getD ?_ (fun _ _ => ?_) | split))

theorem State.drainSecure_keeps (s : State) (w : WcbLine) (g : Guard) (c : Nat) (fr : Nat) : Keeps s (State.drainSecure s w g c fr) := by
  unfold State.drainSecure
  try dsimp only
  repeat' (first | with_reducible exact Keeps.refl _ | with_reducible assumption | with_reducible apply Keeps.trans _ (State.enqueueWrite_keeps _ _ _ _ _ _) | with_reducible apply Keeps.trans _ (State.makeReadonly_keeps _ _) | with_reducible apply Keeps.trans _ (State.overflowStart_keeps _ _ _ _) | with_reducible apply Keeps.trans _ (State.sealLine_keeps _ _ _ _ _ _) | with_reducible apply Keeps.trans _ (State.setCtr_keeps _ _ _) | with_reducible apply Keeps.trans _ (State.wcbDrop_keeps _ _) | with_reducible apply Keeps.trans _ (State.wqT0_keeps _ _ _ _) | with_reducible refine Keeps.ite (fun _ => ?_) (fun _ => ?_) | with_reducible refine Keeps.foldl ?_ (fun _ _ => ?_) | with_reducible refine Keeps.foldl_fst ?_ (fun _ _ => ?_) | with_reducible refine Keeps.foldl_snd ?_ (fun _ _ => ?_) | with_reducible apply Keeps.cond | with_reducible refine Keeps.getD ?_ (fun _ _ => ?_) | split | with_reducible refine Keeps.of_snd ‹_ = (_, _)› ?_ | (with_reducible apply Keeps.lit; (on_goal 2 => with_reducible rfl); first | with_reducible exact Keeps.refl _ | with_reducible assumption | with_reducible apply Keeps.trans _ (State.enqueueWrite_keeps _ _ _ _ _ _) | with_reducible apply Keeps.trans _ (State.makeReadonly_keeps _ _) | with_reducible apply Keeps.trans _ (State.overflowStart_keeps _ _ _ _) | with_reducible apply Keeps.trans _ (State.sealLine_keeps _ _ _ _ _ _) | with_reducible apply Keeps.trans _ (State.setCtr_keeps _ _ _) | with_reducible apply Keeps.trans _ (State.wcbDrop_keeps _ _) | with_reducible apply Keeps.trans _ (State.wqT0_keeps _ _ _ _) | with_reducible refine Keeps.ite (fun _ => ?_) (fun _ => ?_) | with_reducible refine Keeps.foldl ?_ (fun _ _ => ?_) | with_reducible refine Keeps.foldl_fst ?_ (fun _ _ => ?_) | with_reducible refine Keeps.foldl_snd ?_ (fun _ _ => ?_) | with_reducible apply Keeps.cond | with_reducible refine Keeps.getD ?_ (fun _ _ => ?_) | split | with_reducible refine Keeps.of_snd ‹_ = (_, _)› ?_))

theorem State.mergeRead_keeps (s : State) (c : Nat) (l : Nat) : Keeps s (State.mergeRead s c l) := by
  unfold State.mergeRead
  try dsimp only
  repeat' (first | with_reducible exact Keeps.refl _ | with_reducible assumption | with_reducible apply Keeps.trans _ (State.sendRead_keeps _ _ _ _ _ _ _) | with_reducible apply Keeps.trans _ (State.updCh_keeps _ _ _) | with_reducible refine Keeps.ite (fun _ => ?_) (fun _ => ?_) | with_reducible refine Keeps.foldl ?_ (fun _ _ => ?_) | with_reducible refine Keeps.foldl_fst ?_ (fun _ _ => ?_) | with_reducible refine Keeps.foldl_snd ?_ (fun _ _ => ?_) | with_reducible apply Keeps.cond | with_reducible refine Keeps.getD ?_ (fun _ _ => ?_) | split | (with_reducible apply Keeps.lit; (on_goal 2 => with_reducible rfl); first | with_reducible exact Keeps.refl _ | with_reducible assumption | with_reducible apply Keeps.trans _ (State.sendRead_keeps _ _ _ _ _ _ _) | with_reducible apply Keeps.trans _ (State.updCh_keeps _ _ _) | with_reducible refine Keeps.ite (fun _ => ?_) (fun _ => ?_) | with_reducible refine Keeps.foldl ?_ (fun _ _ => ?_) | with_reducible refine Keeps.foldl_fst ?_ (fun _ _ => ?_) | with_reducible refine Keeps.foldl_snd ?_ (fun _ _ => ?_) | with_reducible apply Keeps.cond | with_reducible refine Keeps.getD ?_ (fun _ _ => ?_) | split))

theorem State.wantCtr_keeps (s : State) (p : Nat) (w : ReadFor) : Keeps s (State.wantCtr s p w).1 := by
  unfold State.wantCtr
  try dsimp only
  repeat' (first | with_reducible exact Keeps.refl _ | with_reducible assumption | with_reducible apply Keeps.trans _ (State.wantPath_keeps _ _ _ _ _) | with_reducible refine Keeps.ite (fun _ => ?_) (fun _ => ?_) | with_reducible refine Keeps.foldl ?_ (fun _ _ => ?_) | with_reducible refine Keeps.foldl_fst ?_ (fun _ _ => ?_) | with_reducible refine Keeps.foldl_snd ?_ (fun _ _ => ?_) | with_reducible apply Keeps.cond | with_reducible refine Keeps.getD ?_ (fun _ _ => ?_) | split | with_reducible refine Keeps.of_fst ‹_ = (_, _)› ?_ | (with_reducible apply Keeps.lit; (on_goal 2 => with_reducible rfl); first | with_reducible exact Keeps.refl _ | with_reducible assumption | with_reducible apply Keeps.trans _ (State.wantPath_keeps _ _ _ _ _) | with_reducible refine Keeps.ite (fun _ => ?_) (fun _ => ?_) | with_reducible refine Keeps.foldl ?_ (fun _ _ => ?_) | with_reducible refine Keeps.foldl_fst ?_ (fun _ _ => ?_) | with_reducible refine Keeps.foldl_snd ?_ (fun _ _ => ?_) | with_reducible apply Keeps.cond | with_reducible refine Keeps.getD ?_ (fun _ _ => ?_) | split | with_reducible refine Keeps.of_fst ‹_ = (_, _)› ?_))

theorem State.drainHot_keeps (s : State) (w : WcbLine) (c : Nat) (fr : Nat) : Keeps s (State.drainHot s w c fr) := by
  unfold State.drainHot
  try dsimp only
  repeat' (first | with_reducible exact Keeps.refl _ | with_reducible assumption | with_reducible apply Keeps.trans _ (State.drainSecure_keeps _ _ _ _ _) | with_reducible apply Keeps.trans _ (State.enqueueWrite_keeps _ _ _ _ _ _) | with_reducible apply Keeps.trans _ (State.mergeRead_keeps _ _ _) | with_reducible apply Keeps.trans _ (State.metaReads_keeps _ _ _) | with_reducible apply Keeps.trans _ (State.sendRead_keeps _ _ _ _ _ _ _) | with_reducible apply Keeps.trans _ (State.wantCtr_keeps _ _ _) | with_reducible apply Keeps.trans _ (State.wcbDrop_keeps _ _) | with_reducible apply Keeps.trans _ (State.wqT0_keeps _ _ _ _) | with_reducible refine Keeps.ite (fun _ => ?_) (fun _ => ?_) | with_reducible refine Keeps.foldl ?_ (fun _ _ => ?_) | with_reducible refine Keeps.foldl_fst ?_ (fun _ _ => ?_) | with_reducible refine Keeps.foldl_snd ?_ (fun _ _ => ?_) | with_reducible apply Keeps.cond | with_reducible refine Keeps.getD ?_ (fun _ _ => ?_) | split | with_reducible refine Keeps.of_fst ‹_ = (_, _)› ?_ | (with_reducible apply Keeps.lit; (on_goal 2 => with_reducible rfl); first | with_reducible exact Keeps.refl _ | with_reducible assumption | with_reducible apply Keeps.trans _ (State.drainSecure_keeps _ _ _ _ _) | with_reducible apply Keeps.trans _ (State.enqueueWrite_keeps _ _ _ _ _ _) | with_reducible apply Keeps.trans _ (State.mergeRead_keeps _ _ _) | with_reducible apply Keeps.trans _ (State.metaReads_keeps _ _ _) | with_reducible apply Keeps.trans _ (State.sendRead_keeps _ _ _ _ _ _ _) | with_reducible apply Keeps.trans _ (State.wantCtr_keeps _ _ _) | with_reducible apply Keeps.trans _ (State.wcbDrop_keeps _ _) | with_reducible apply Keeps.trans _ (State.wqT0_keeps _ _ _ _) | with_reducible refine Keeps.ite (fun _ => ?_) (fun _ => ?_) | with_reducible refine Keeps.foldl ?_ (fun _ _ => ?_) | with_reducible refine Keeps.foldl_fst ?_ (fun _ _ => ?_) | with_reducible refine Keeps.foldl_snd ?_ (fun _ _ => ?_) | with_reducible apply Keeps.cond | with_reducible refine Keeps.getD ?_ (fun _ _ => ?_) | split | with_reducible refine Keeps.of_fst ‹_ = (_, _)› ?_))

theorem State.noteSpill_keeps (s : State) (w : WcbLine) : Keeps s (State.noteSpill s w) := by
  unfold State.noteSpill
  try dsimp only
  repeat' (first | with_reducible exact Keeps.refl _ | with_reducible assumption | with_reducible apply Keeps.trans _ (State.noteT0_keeps _ _) | with_reducible refine Keeps.ite (fun _ => ?_) (fun _ => ?_) | with_reducible refine Keeps.foldl ?_ (fun _ _ => ?_) | with_reducible refine Keeps.foldl_fst ?_ (fun _ _ => ?_) | with_reducible refine Keeps.foldl_snd ?_ (fun _ _ => ?_) | with_reducible apply Keeps.cond | with_reducible refine Keeps.getD ?_ (fun _ _ => ?_) | split | (with_reducible apply Keeps.lit; (on_goal 2 => with_reducible rfl); first | with_reducible exact Keeps.refl _ | with_reducible assumption | with_reducible apply Keeps.trans _ (State.noteT0_keeps _ _) | with_reducible refine Keeps.ite (fun _ => ?_) (fun _ => ?_) | with_reducible refine Keeps.foldl ?_ (fun _ _ => ?_) | with_reducible refine Keeps.foldl_fst ?_ (fun _ _ => ?_) | with_reducible refine Keeps.foldl_snd ?_ (fun _ _ => ?_) | with_reducible apply Keeps.cond | with_reducible refine Keeps.getD ?_ (fun _ _ => ?_) | split))

theorem State.drainPeer_keeps (s : State) (w : WcbLine) (lease : Nat) (u : Nat) : Keeps s (State.drainPeer s w lease u) := by
  unfold State.drainPeer
  try dsimp only
  repeat' (first | with_reducible exact Keeps.refl _ | with_reducible assumption | with_reducible apply Keeps.trans _ (State.makeReadonly_keeps _ _) | with_reducible apply Keeps.trans _ (State.metaReads_keeps _ _ _) | with_reducible apply Keeps.trans _ (State.newId_keeps _) | with_reducible apply Keeps.trans _ (State.noteSpill_keeps _ _) | with_reducible apply Keeps.trans _ (State.overflowStart_keeps _ _ _ _) | with_reducible apply Keeps.trans _ (State.sealLine_keeps _ _ _ _ _ _) | with_reducible apply Keeps.trans _ (State.sendPeer_keeps _ _ _ _ _ _ _) | with_reducible apply Keeps.trans _ (State.setCtr_keeps _ _ _) | with_reducible apply Keeps.trans _ (State.wantCtr_keeps _ _ _) | with_reducible apply Keeps.trans _ (State.wcbDrop_keeps _ _) | with_reducible refine Keeps.ite (fun _ => ?_) (fun _ => ?_) | with_reducible refine Keeps.foldl ?_ (fun _ _ => ?_) | with_reducible refine Keeps.foldl_fst ?_ (fun _ _ => ?_) | with_reducible refine Keeps.foldl_snd ?_ (fun _ _ => ?_) | with_reducible apply Keeps.cond | with_reducible refine Keeps.getD ?_ (fun _ _ => ?_) | split | with_reducible refine Keeps.of_fst ‹_ = (_, _)› ?_ | with_reducible refine Keeps.of_snd ‹_ = (_, _)› ?_ | (with_reducible apply Keeps.lit; (on_goal 2 => with_reducible rfl); first | with_reducible exact Keeps.refl _ | with_reducible assumption | with_reducible apply Keeps.trans _ (State.makeReadonly_keeps _ _) | with_reducible apply Keeps.trans _ (State.metaReads_keeps _ _ _) | with_reducible apply Keeps.trans _ (State.newId_keeps _) | with_reducible apply Keeps.trans _ (State.noteSpill_keeps _ _) | with_reducible apply Keeps.trans _ (State.overflowStart_keeps _ _ _ _) | with_reducible apply Keeps.trans _ (State.sealLine_keeps _ _ _ _ _ _) | with_reducible apply Keeps.trans _ (State.sendPeer_keeps _ _ _ _ _ _ _) | with_reducible apply Keeps.trans _ (State.setCtr_keeps _ _ _) | with_reducible apply Keeps.trans _ (State.wantCtr_keeps _ _ _) | with_reducible apply Keeps.trans _ (State.wcbDrop_keeps _ _) | with_reducible refine Keeps.ite (fun _ => ?_) (fun _ => ?_) | with_reducible refine Keeps.foldl ?_ (fun _ _ => ?_) | with_reducible refine Keeps.foldl_fst ?_ (fun _ _ => ?_) | with_reducible refine Keeps.foldl_snd ?_ (fun _ _ => ?_) | with_reducible apply Keeps.cond | with_reducible refine Keeps.getD ?_ (fun _ _ => ?_) | split | with_reducible refine Keeps.of_fst ‹_ = (_, _)› ?_ | with_reducible refine Keeps.of_snd ‹_ = (_, _)› ?_))

theorem State.drainLine_keeps (s : State) (slice : Nat) (line : Nat) : Keeps s (State.drainLine s slice line) := by
  unfold State.drainLine
  try dsimp only
  repeat' (first | with_reducible exact Keeps.refl _ | with_reducible apply Keeps.trans _ (State.drainHot_keeps _ _ _ _) | with_reducible apply Keeps.trans _ (State.drainPeer_keeps _ _ _ _) | with_reducible apply Keeps.trans _ (State.wcbDrop_keeps _ _) | with_reducible refine Keeps.ite (fun _ => ?_) (fun _ => ?_) | split | (with_reducible apply Keeps.lit; (on_goal 2 => with_reducible rfl); first | with_reducible exact Keeps.refl _ | with_reducible apply Keeps.trans _ (State.drainHot_keeps _ _ _ _) | with_reducible apply Keeps.trans _ (State.drainPeer_keeps _ _ _ _) | with_reducible apply Keeps.trans _ (State.wcbDrop_keeps _ _) | with_reducible refine Keeps.ite (fun _ => ?_) (fun _ => ?_) | split))

theorem State.orphan_keeps (s : State) (isIt : RdWhy → Bool) : Keeps s (State.orphan s isIt) := by
  unfold State.orphan
  repeat' (first | with_reducible exact Keeps.refl _ | (with_reducible apply Keeps.lit; (on_goal 2 => with_reducible rfl); first | with_reducible exact Keeps.refl _))

theorem State.dropGather_keeps (s : State) (p : Nat) : Keeps s (State.dropGather s p) := by
  unfold State.dropGather
  repeat' (first | with_reducible exact Keeps.refl _ | with_reducible apply Keeps.trans _ (State.orphan_keeps _ _) | (with_reducible apply Keeps.lit; (on_goal 2 => with_reducible rfl); first | with_reducible exact Keeps.refl _ | with_reducible apply Keeps.trans _ (State.orphan_keeps _ _)))

theorem State.endPasses_keeps (s : State) (gone : RangePass → Bool) : Keeps s (State.endPasses s gone) := by
  unfold State.endPasses
  try dsimp only
  repeat' (first | with_reducible exact Keeps.refl _ | with_reducible assumption | with_reducible apply Keeps.trans _ (State.freeEngine_keeps _ _) | with_reducible apply Keeps.trans _ (State.orphan_keeps _ _) | with_reducible refine Keeps.ite (fun _ => ?_) (fun _ => ?_) | with_reducible refine Keeps.foldl ?_ (fun _ _ => ?_) | with_reducible refine Keeps.foldl_fst ?_ (fun _ _ => ?_) | with_reducible refine Keeps.foldl_snd ?_ (fun _ _ => ?_) | with_reducible apply Keeps.cond | with_reducible refine Keeps.getD ?_ (fun _ _ => ?_) | split | (with_reducible apply Keeps.lit; (on_goal 2 => with_reducible rfl); first | with_reducible exact Keeps.refl _ | with_reducible assumption | with_reducible apply Keeps.trans _ (State.freeEngine_keeps _ _) | with_reducible apply Keeps.trans _ (State.orphan_keeps _ _) | with_reducible refine Keeps.ite (fun _ => ?_) (fun _ => ?_) | with_reducible refine Keeps.foldl ?_ (fun _ _ => ?_) | with_reducible refine Keeps.foldl_fst ?_ (fun _ _ => ?_) | with_reducible refine Keeps.foldl_snd ?_ (fun _ _ => ?_) | with_reducible apply Keeps.cond | with_reducible refine Keeps.getD ?_ (fun _ _ => ?_) | split))

theorem State.ensureCtr_keeps (s : State) (p : Nat) : Keeps s (State.ensureCtr s p).1 := by
  unfold State.ensureCtr
  try dsimp only
  repeat' (first | with_reducible exact Keeps.refl _ | with_reducible assumption | with_reducible apply Keeps.trans _ (State.fetchCtr_keeps _ _ _) | with_reducible refine Keeps.ite (fun _ => ?_) (fun _ => ?_) | with_reducible refine Keeps.foldl ?_ (fun _ _ => ?_) | with_reducible refine Keeps.foldl_fst ?_ (fun _ _ => ?_) | with_reducible refine Keeps.foldl_snd ?_ (fun _ _ => ?_) | with_reducible apply Keeps.cond | with_reducible refine Keeps.getD ?_ (fun _ _ => ?_) | split | with_reducible refine Keeps.of_fst ‹_ = (_, _)› ?_ | (with_reducible apply Keeps.lit; (on_goal 2 => with_reducible rfl); first | with_reducible exact Keeps.refl _ | with_reducible assumption | with_reducible apply Keeps.trans _ (State.fetchCtr_keeps _ _ _) | with_reducible refine Keeps.ite (fun _ => ?_) (fun _ => ?_) | with_reducible refine Keeps.foldl ?_ (fun _ _ => ?_) | with_reducible refine Keeps.foldl_fst ?_ (fun _ _ => ?_) | with_reducible refine Keeps.foldl_snd ?_ (fun _ _ => ?_) | with_reducible apply Keeps.cond | with_reducible refine Keeps.getD ?_ (fun _ _ => ?_) | split | with_reducible refine Keeps.of_fst ‹_ = (_, _)› ?_))

theorem State.freeCopy_keeps (s : State) (p : Nat) : Keeps s (State.freeCopy s p) := by
  unfold State.freeCopy
  try dsimp only
  repeat' (first | with_reducible exact Keeps.refl _ | with_reducible apply Keeps.trans _ (State.freeEngine_keeps _ _) | with_reducible refine Keeps.ite (fun _ => ?_) (fun _ => ?_) | split | (with_reducible apply Keeps.lit; (on_goal 2 => with_reducible rfl); first | with_reducible exact Keeps.refl _ | with_reducible apply Keeps.trans _ (State.freeEngine_keeps _ _) | with_reducible refine Keeps.ite (fun _ => ?_) (fun _ => ?_) | split))

theorem State.retagChild_keeps (s : State) (level : Nat) (n : Nat) (old : BitVec 512) (new : BitVec 512) : Keeps s (State.retagChild s level n old new) := by
  unfold State.retagChild
  try dsimp only
  repeat' (first | with_reducible exact Keeps.refl _ | with_reducible assumption | with_reducible apply Keeps.trans _ (State.putTag_keeps _ _ _ _) | with_reducible apply Keeps.trans _ (State.recordLoss_keeps _ _ _ _) | with_reducible apply Keeps.trans _ (State.store_keeps _ _ _ _ _) | with_reducible refine Keeps.ite (fun _ => ?_) (fun _ => ?_) | with_reducible refine Keeps.foldl ?_ (fun _ _ => ?_) | with_reducible refine Keeps.foldl_fst ?_ (fun _ _ => ?_) | with_reducible refine Keeps.foldl_snd ?_ (fun _ _ => ?_) | with_reducible apply Keeps.cond | with_reducible refine Keeps.getD ?_ (fun _ _ => ?_) | split | (with_reducible apply Keeps.lit; (on_goal 2 => with_reducible rfl); first | with_reducible exact Keeps.refl _ | with_reducible assumption | with_reducible apply Keeps.trans _ (State.putTag_keeps _ _ _ _) | with_reducible apply Keeps.trans _ (State.recordLoss_keeps _ _ _ _) | with_reducible apply Keeps.trans _ (State.store_keeps _ _ _ _ _) | with_reducible refine Keeps.ite (fun _ => ?_) (fun _ => ?_) | with_reducible refine Keeps.foldl ?_ (fun _ _ => ?_) | with_reducible refine Keeps.foldl_fst ?_ (fun _ _ => ?_) | with_reducible refine Keeps.foldl_snd ?_ (fun _ _ => ?_) | with_reducible apply Keeps.cond | with_reducible refine Keeps.getD ?_ (fun _ _ => ?_) | split))

theorem State.retag_keeps (s : State) (level : Nat) (parent : Nat) (old : BitVec 512) (new : BitVec 512) : Keeps s (State.retag s level parent old new) := by
  unfold State.retag
  try dsimp only
  repeat' (first | with_reducible exact Keeps.refl _ | with_reducible assumption | with_reducible apply Keeps.trans _ (State.retagChild_keeps _ _ _ _ _) | with_reducible refine Keeps.ite (fun _ => ?_) (fun _ => ?_) | with_reducible refine Keeps.foldl ?_ (fun _ _ => ?_) | split | (with_reducible apply Keeps.lit; (on_goal 2 => with_reducible rfl); first | with_reducible exact Keeps.refl _ | with_reducible assumption | with_reducible apply Keeps.trans _ (State.retagChild_keeps _ _ _ _ _) | with_reducible refine Keeps.ite (fun _ => ?_) (fun _ => ?_) | with_reducible refine Keeps.foldl ?_ (fun _ _ => ?_) | split))

theorem State.nodeOvfDone_keeps (s : State) (level : Nat) (node : Nat) : Keeps s (State.nodeOvfDone s level node) := by
  unfold State.nodeOvfDone
  try dsimp only
  repeat' (first | with_reducible exact Keeps.refl _ | with_reducible assumption | with_reducible apply Keeps.trans _ (State.retag_keeps _ _ _ _ _) | with_reducible refine Keeps.ite (fun _ => ?_) (fun _ => ?_) | with_reducible refine Keeps.foldl ?_ (fun _ _ => ?_) | with_reducible refine Keeps.foldl_fst ?_ (fun _ _ => ?_) | with_reducible refine Keeps.foldl_snd ?_ (fun _ _ => ?_) | with_reducible apply Keeps.cond | with_reducible refine Keeps.getD ?_ (fun _ _ => ?_) | split | (with_reducible apply Keeps.lit; (on_goal 2 => with_reducible rfl); first | with_reducible exact Keeps.refl _ | with_reducible assumption | with_reducible apply Keeps.trans _ (State.retag_keeps _ _ _ _ _) | with_reducible refine Keeps.ite (fun _ => ?_) (fun _ => ?_) | with_reducible refine Keeps.foldl ?_ (fun _ _ => ?_) | with_reducible refine Keeps.foldl_fst ?_ (fun _ _ => ?_) | with_reducible refine Keeps.foldl_snd ?_ (fun _ _ => ?_) | with_reducible apply Keeps.cond | with_reducible refine Keeps.getD ?_ (fun _ _ => ?_) | split))

theorem State.restored_keeps (s : State) (p : Nat) (g : Guard) (b : BitVec 512) (i : Nat) (x : Line) (stored : List Line) : Keeps s (State.restored s p g b i x stored).2 := by
  unfold State.restored
  try dsimp only
  repeat' (first | with_reducible exact Keeps.refl _ | with_reducible assumption | with_reducible apply Keeps.trans _ (State.tagFail_keeps _ _ _ _) | with_reducible refine Keeps.ite (fun _ => ?_) (fun _ => ?_) | with_reducible refine Keeps.foldl ?_ (fun _ _ => ?_) | with_reducible refine Keeps.foldl_fst ?_ (fun _ _ => ?_) | with_reducible refine Keeps.foldl_snd ?_ (fun _ _ => ?_) | with_reducible apply Keeps.cond | with_reducible refine Keeps.getD ?_ (fun _ _ => ?_) | split | (with_reducible apply Keeps.lit; (on_goal 2 => with_reducible rfl); first | with_reducible exact Keeps.refl _ | with_reducible assumption | with_reducible apply Keeps.trans _ (State.tagFail_keeps _ _ _ _) | with_reducible refine Keeps.ite (fun _ => ?_) (fun _ => ?_) | with_reducible refine Keeps.foldl ?_ (fun _ _ => ?_) | with_reducible refine Keeps.foldl_fst ?_ (fun _ _ => ?_) | with_reducible refine Keeps.foldl_snd ?_ (fun _ _ => ?_) | with_reducible apply Keeps.cond | with_reducible refine Keeps.getD ?_ (fun _ _ => ?_) | split))

theorem State.unlock_keeps (s : State) (p : Nat) : Keeps s (State.unlock s p) := by
  unfold State.unlock
  repeat' (first | with_reducible exact Keeps.refl _ | (with_reducible apply Keeps.lit; (on_goal 2 => with_reducible rfl); first | with_reducible exact Keeps.refl _))

theorem State.updLock_keeps (s : State) (p : Nat) (f : PageLock → PageLock) : Keeps s (State.updLock s p f) := by
  unfold State.updLock
  try dsimp only
  repeat' (first | with_reducible exact Keeps.refl _ | with_reducible assumption | with_reducible refine Keeps.ite (fun _ => ?_) (fun _ => ?_) | with_reducible refine Keeps.foldl ?_ (fun _ _ => ?_) | with_reducible refine Keeps.foldl_fst ?_ (fun _ _ => ?_) | with_reducible refine Keeps.foldl_snd ?_ (fun _ _ => ?_) | with_reducible apply Keeps.cond | with_reducible refine Keeps.getD ?_ (fun _ _ => ?_) | split | (with_reducible apply Keeps.lit; (on_goal 2 => with_reducible rfl); first | with_reducible exact Keeps.refl _ | with_reducible assumption | with_reducible refine Keeps.ite (fun _ => ?_) (fun _ => ?_) | with_reducible refine Keeps.foldl ?_ (fun _ _ => ?_) | with_reducible refine Keeps.foldl_fst ?_ (fun _ _ => ?_) | with_reducible refine Keeps.foldl_snd ?_ (fun _ _ => ?_) | with_reducible apply Keeps.cond | with_reducible refine Keeps.getD ?_ (fun _ _ => ?_) | split))

theorem State.overflowSeal_keeps (s : State) (k : PageLock) (stored : List Line) : Keeps s (State.overflowSeal s k stored) := by
  unfold State.overflowSeal
  try dsimp only
  repeat' (first | with_reducible exact Keeps.refl _ | with_reducible assumption | with_reducible apply Keeps.trans _ (State.dropGather_keeps _ _) | with_reducible apply Keeps.trans _ (State.restored_keeps _ _ _ _ _ _ _) | with_reducible apply Keeps.trans _ (State.sealAll_keeps _ _ _ _ _ _ _ _) | with_reducible apply Keeps.trans _ (State.unlock_keeps _ _) | with_reducible apply Keeps.trans _ (State.updLock_keeps _ _ _) | with_reducible refine Keeps.ite (fun _ => ?_) (fun _ => ?_) | with_reducible refine Keeps.foldl ?_ (fun _ _ => ?_) | with_reducible refine Keeps.foldl_fst ?_ (fun _ _ => ?_) | with_reducible refine Keeps.foldl_snd ?_ (fun _ _ => ?_) | with_reducible apply Keeps.cond | with_reducible refine Keeps.getD ?_ (fun _ _ => ?_) | split | with_reducible refine Keeps.of_snd ‹_ = (_, _)› ?_ | (with_reducible apply Keeps.lit; (on_goal 2 => with_reducible rfl); first | with_reducible exact Keeps.refl _ | with_reducible assumption | with_reducible apply Keeps.trans _ (State.dropGather_keeps _ _) | with_reducible apply Keeps.trans _ (State.restored_keeps _ _ _ _ _ _ _) | with_reducible apply Keeps.trans _ (State.sealAll_keeps _ _ _ _ _ _ _ _) | with_reducible apply Keeps.trans _ (State.unlock_keeps _ _) | with_reducible apply Keeps.trans _ (State.updLock_keeps _ _ _) | with_reducible refine Keeps.ite (fun _ => ?_) (fun _ => ?_) | with_reducible refine Keeps.foldl ?_ (fun _ _ => ?_) | with_reducible refine Keeps.foldl_fst ?_ (fun _ _ => ?_) | with_reducible refine Keeps.foldl_snd ?_ (fun _ _ => ?_) | with_reducible apply Keeps.cond | with_reducible refine Keeps.getD ?_ (fun _ _ => ?_) | split | with_reducible refine Keeps.of_snd ‹_ = (_, _)› ?_))

theorem State.overflowStore_keeps (s : State) (p : Nat) (i : Nat) (y : Line) {res} (h : State.overflowStore s p i y = some res) : Keeps s res := by
  unfold State.overflowStore at h
  try dsimp only at h
  repeat' split at h
  all_goals first | contradiction | skip
  all_goals simp only [Option.some.injEq, Option.map_eq_some_iff] at h
  all_goals try (obtain ⟨_, _, h⟩ := h)
  all_goals try subst h
  all_goals repeat' (first | with_reducible exact Keeps.refl _ | with_reducible assumption | with_reducible apply Keeps.trans _ (State.sendPeer_keeps _ _ _ _ _ _ _) | with_reducible apply Keeps.trans _ (State.storeLines_keeps _ _ _ _) | with_reducible refine Keeps.ite (fun _ => ?_) (fun _ => ?_) | with_reducible refine Keeps.foldl ?_ (fun _ _ => ?_) | with_reducible refine Keeps.foldl_fst ?_ (fun _ _ => ?_) | with_reducible refine Keeps.foldl_snd ?_ (fun _ _ => ?_) | with_reducible apply Keeps.cond | with_reducible refine Keeps.getD ?_ (fun _ _ => ?_) | split | (with_reducible apply Keeps.lit; (on_goal 2 => with_reducible rfl); first | with_reducible exact Keeps.refl _ | with_reducible assumption | with_reducible apply Keeps.trans _ (State.sendPeer_keeps _ _ _ _ _ _ _) | with_reducible apply Keeps.trans _ (State.storeLines_keeps _ _ _ _) | with_reducible refine Keeps.ite (fun _ => ?_) (fun _ => ?_) | with_reducible refine Keeps.foldl ?_ (fun _ _ => ?_) | with_reducible refine Keeps.foldl_fst ?_ (fun _ _ => ?_) | with_reducible refine Keeps.foldl_snd ?_ (fun _ _ => ?_) | with_reducible apply Keeps.cond | with_reducible refine Keeps.getD ?_ (fun _ _ => ?_) | split))

theorem State.overflowDone_keeps (s : State) (slice : Nat) (p : Nat) : Keeps s (State.overflowDone s slice p) := by
  unfold State.overflowDone
  try dsimp only
  repeat' (first | with_reducible exact Keeps.refl _ | with_reducible assumption | with_reducible apply Keeps.trans _ (State.gatherPage_keeps _ _ _ _ _) | with_reducible apply Keeps.trans _ (State.overflowSeal_keeps _ _ _) | with_reducible apply Keeps.trans _ (State.readPage_keeps _ _ _) | with_reducible apply Keeps.trans _ (State.readTags_keeps _ _ _) | with_reducible apply Keeps.trans _ (State.unlock_keeps _ _) | with_reducible apply Keeps.trans _ (State.updLock_keeps _ _ _) | with_reducible refine Keeps.ite (fun _ => ?_) (fun _ => ?_) | with_reducible refine Keeps.foldl ?_ (fun _ _ => ?_) | with_reducible refine Keeps.foldl_fst ?_ (fun _ _ => ?_) | with_reducible refine Keeps.foldl_snd ?_ (fun _ _ => ?_) | with_reducible apply Keeps.cond | with_reducible refine Keeps.getD ?_ (fun _ _ => ?_) | split | with_reducible refine Keeps.trans ?_ (State.dmaAdmit_keeps _ _ ‹State.dmaAdmit _ _ = some _›) | with_reducible refine Keeps.trans ?_ (State.overflowStore_keeps _ _ _ _ ‹State.overflowStore _ _ _ _ = some _›) | with_reducible refine Keeps.of_fst ‹_ = (_, _)› ?_ | (with_reducible apply Keeps.lit; (on_goal 2 => with_reducible rfl); first | with_reducible exact Keeps.refl _ | with_reducible assumption | with_reducible apply Keeps.trans _ (State.gatherPage_keeps _ _ _ _ _) | with_reducible apply Keeps.trans _ (State.overflowSeal_keeps _ _ _) | with_reducible apply Keeps.trans _ (State.readPage_keeps _ _ _) | with_reducible apply Keeps.trans _ (State.readTags_keeps _ _ _) | with_reducible apply Keeps.trans _ (State.unlock_keeps _ _) | with_reducible apply Keeps.trans _ (State.updLock_keeps _ _ _) | with_reducible refine Keeps.ite (fun _ => ?_) (fun _ => ?_) | with_reducible refine Keeps.foldl ?_ (fun _ _ => ?_) | with_reducible refine Keeps.foldl_fst ?_ (fun _ _ => ?_) | with_reducible refine Keeps.foldl_snd ?_ (fun _ _ => ?_) | with_reducible apply Keeps.cond | with_reducible refine Keeps.getD ?_ (fun _ _ => ?_) | split | with_reducible refine Keeps.trans ?_ (State.dmaAdmit_keeps _ _ ‹State.dmaAdmit _ _ = some _›) | with_reducible refine Keeps.trans ?_ (State.overflowStore_keeps _ _ _ _ ‹State.overflowStore _ _ _ _ = some _›) | with_reducible refine Keeps.of_fst ‹_ = (_, _)› ?_))

theorem State.retireOpen_keeps (s : State) (p : Nat) (g : Guard) (b : BitVec 512) (image : Bool) (xs : List Line) : Keeps s (State.retireOpen s p g b image xs).2 := by
  unfold State.retireOpen
  try dsimp only
  repeat' (first | with_reducible exact Keeps.refl _ | with_reducible assumption | with_reducible apply Keeps.trans _ (State.tagFail_keeps _ _ _ _) | with_reducible refine Keeps.ite (fun _ => ?_) (fun _ => ?_) | with_reducible refine Keeps.foldl ?_ (fun _ _ => ?_) | with_reducible refine Keeps.foldl_fst ?_ (fun _ _ => ?_) | with_reducible refine Keeps.foldl_snd ?_ (fun _ _ => ?_) | with_reducible apply Keeps.cond | with_reducible refine Keeps.getD ?_ (fun _ _ => ?_) | split | (with_reducible apply Keeps.lit; (on_goal 2 => with_reducible rfl); first | with_reducible exact Keeps.refl _ | with_reducible assumption | with_reducible apply Keeps.trans _ (State.tagFail_keeps _ _ _ _) | with_reducible refine Keeps.ite (fun _ => ?_) (fun _ => ?_) | with_reducible refine Keeps.foldl ?_ (fun _ _ => ?_) | with_reducible refine Keeps.foldl_fst ?_ (fun _ _ => ?_) | with_reducible refine Keeps.foldl_snd ?_ (fun _ _ => ?_) | with_reducible apply Keeps.cond | with_reducible refine Keeps.getD ?_ (fun _ _ => ?_) | split))

theorem State.storeForm_keeps (s : State) (f : PageForm) (xs : List Line) : Keeps s (State.storeForm s f xs) := by
  unfold State.storeForm
  try dsimp only
  repeat' (first | with_reducible exact Keeps.refl _ | with_reducible assumption | with_reducible apply Keeps.trans _ (State.putPeer_keeps _ _ _ _) | with_reducible apply Keeps.trans _ (State.storeLines_keeps _ _ _ _) | with_reducible refine Keeps.ite (fun _ => ?_) (fun _ => ?_) | with_reducible refine Keeps.foldl ?_ (fun _ _ => ?_) | with_reducible refine Keeps.foldl_fst ?_ (fun _ _ => ?_) | with_reducible refine Keeps.foldl_snd ?_ (fun _ _ => ?_) | with_reducible apply Keeps.cond | with_reducible refine Keeps.getD ?_ (fun _ _ => ?_) | split | (with_reducible apply Keeps.lit; (on_goal 2 => with_reducible rfl); first | with_reducible exact Keeps.refl _ | with_reducible assumption | with_reducible apply Keeps.trans _ (State.putPeer_keeps _ _ _ _) | with_reducible apply Keeps.trans _ (State.storeLines_keeps _ _ _ _) | with_reducible refine Keeps.ite (fun _ => ?_) (fun _ => ?_) | with_reducible refine Keeps.foldl ?_ (fun _ _ => ?_) | with_reducible refine Keeps.foldl_fst ?_ (fun _ _ => ?_) | with_reducible refine Keeps.foldl_snd ?_ (fun _ _ => ?_) | with_reducible apply Keeps.cond | with_reducible refine Keeps.getD ?_ (fun _ _ => ?_) | split))

theorem State.reencrypt_keeps (s : State) (p : Nat) (xs : List Line) : Keeps s (State.reencrypt s p xs) := by
  unfold State.reencrypt
  try dsimp only
  repeat' (first | with_reducible exact Keeps.refl _ | with_reducible apply Keeps.trans _ (State.retireOpen_keeps _ _ _ _ _ _) | with_reducible apply Keeps.trans _ (State.sealAll_keeps _ _ _ _ _ _ _ _) | with_reducible apply Keeps.trans _ (State.setCtr_keeps _ _ _) | with_reducible apply Keeps.trans _ (State.storeForm_keeps _ _ _) | with_reducible refine Keeps.ite (fun _ => ?_) (fun _ => ?_) | split | with_reducible refine Keeps.of_snd ‹_ = (_, _)› ?_ | (with_reducible apply Keeps.lit; (on_goal 2 => with_reducible rfl); first | with_reducible exact Keeps.refl _ | with_reducible apply Keeps.trans _ (State.retireOpen_keeps _ _ _ _ _ _) | with_reducible apply Keeps.trans _ (State.sealAll_keeps _ _ _ _ _ _ _ _) | with_reducible apply Keeps.trans _ (State.setCtr_keeps _ _ _) | with_reducible apply Keeps.trans _ (State.storeForm_keeps _ _ _) | with_reducible refine Keeps.ite (fun _ => ?_) (fun _ => ?_) | split | with_reducible refine Keeps.of_snd ‹_ = (_, _)› ?_))

theorem State.retireCheck_keeps (s : State) (k : Nat) (n : Nat) : Keeps s (State.retireCheck s k n) := by
  unfold State.retireCheck
  try dsimp only
  repeat' (first | with_reducible exact Keeps.refl _ | with_reducible assumption | with_reducible apply Keeps.trans _ (State.raise_keeps _ _ _ _) | with_reducible apply Keeps.trans _ (State.updKey_keeps _ _ _) | with_reducible apply Keeps.trans _ (State.updRegion_keeps _ _ _) | with_reducible refine Keeps.ite (fun _ => ?_) (fun _ => ?_) | with_reducible refine Keeps.foldl ?_ (fun _ _ => ?_) | split | (with_reducible apply Keeps.lit; (on_goal 2 => with_reducible rfl); first | with_reducible exact Keeps.refl _ | with_reducible assumption | with_reducible apply Keeps.trans _ (State.raise_keeps _ _ _ _) | with_reducible apply Keeps.trans _ (State.updKey_keeps _ _ _) | with_reducible apply Keeps.trans _ (State.updRegion_keeps _ _ _) | with_reducible refine Keeps.ite (fun _ => ?_) (fun _ => ?_) | with_reducible refine Keeps.foldl ?_ (fun _ _ => ?_) | split))

theorem State.retireLost_keeps (s : State) (p : Nat) : Keeps s (State.retireLost s p) := by
  unfold State.retireLost
  try dsimp only
  repeat' (first | with_reducible exact Keeps.refl _ | with_reducible assumption | with_reducible apply Keeps.trans _ (State.clearPage_keeps _ _) | with_reducible apply Keeps.trans _ (State.setCtr_keeps _ _ _) | with_reducible refine Keeps.ite (fun _ => ?_) (fun _ => ?_) | with_reducible refine Keeps.foldl ?_ (fun _ _ => ?_) | with_reducible refine Keeps.foldl_fst ?_ (fun _ _ => ?_) | with_reducible refine Keeps.foldl_snd ?_ (fun _ _ => ?_) | with_reducible apply Keeps.cond | with_reducible refine Keeps.getD ?_ (fun _ _ => ?_) | split | (with_reducible apply Keeps.lit; (on_goal 2 => with_reducible rfl); first | with_reducible exact Keeps.refl _ | with_reducible assumption | with_reducible apply Keeps.trans _ (State.clearPage_keeps _ _) | with_reducible apply Keeps.trans _ (State.setCtr_keeps _ _ _) | with_reducible refine Keeps.ite (fun _ => ?_) (fun _ => ?_) | with_reducible refine Keeps.foldl ?_ (fun _ _ => ?_) | with_reducible refine Keeps.foldl_fst ?_ (fun _ _ => ?_) | with_reducible refine Keeps.foldl_snd ?_ (fun _ _ => ?_) | with_reducible apply Keeps.cond | with_reducible refine Keeps.getD ?_ (fun _ _ => ?_) | split))

theorem State.retireEnd_keeps (s : State) (i : Nat) : Keeps s (State.retireEnd s i) := by
  unfold State.retireEnd
  try dsimp only
  repeat' (first | with_reducible exact Keeps.refl _ | with_reducible assumption | with_reducible apply Keeps.trans _ (State.advanceCursor_keeps _ _ _) | with_reducible apply Keeps.trans _ (State.cnt_keeps _ _ _ _) | with_reducible apply Keeps.trans _ (State.dropGather_keeps _ _) | with_reducible apply Keeps.trans _ (State.freeCopy_keeps _ _) | with_reducible apply Keeps.trans _ (State.reencrypt_keeps _ _ _) | with_reducible apply Keeps.trans _ (State.retireCheck_keeps _ _ _) | with_reducible apply Keeps.trans _ (State.retireLost_keeps _ _) | with_reducible apply Keeps.trans _ (State.wantCtr_keeps _ _ _) | with_reducible refine Keeps.ite (fun _ => ?_) (fun _ => ?_) | with_reducible refine Keeps.foldl ?_ (fun _ _ => ?_) | with_reducible refine Keeps.foldl_fst ?_ (fun _ _ => ?_) | with_reducible refine Keeps.foldl_snd ?_ (fun _ _ => ?_) | with_reducible apply Keeps.cond | with_reducible refine Keeps.getD ?_ (fun _ _ => ?_) | split | with_reducible refine Keeps.trans ?_ (State.govAdmit_keeps _ _ _ ‹State.govAdmit _ _ _ = some _›) | with_reducible refine Keeps.of_fst ‹_ = (_, _)› ?_ | (with_reducible apply Keeps.lit; (on_goal 2 => with_reducible rfl); first | with_reducible exact Keeps.refl _ | with_reducible assumption | with_reducible apply Keeps.trans _ (State.advanceCursor_keeps _ _ _) | with_reducible apply Keeps.trans _ (State.cnt_keeps _ _ _ _) | with_reducible apply Keeps.trans _ (State.dropGather_keeps _ _) | with_reducible apply Keeps.trans _ (State.freeCopy_keeps _ _) | with_reducible apply Keeps.trans _ (State.reencrypt_keeps _ _ _) | with_reducible apply Keeps.trans _ (State.retireCheck_keeps _ _ _) | with_reducible apply Keeps.trans _ (State.retireLost_keeps _ _) | with_reducible apply Keeps.trans _ (State.wantCtr_keeps _ _ _) | with_reducible refine Keeps.ite (fun _ => ?_) (fun _ => ?_) | with_reducible refine Keeps.foldl ?_ (fun _ _ => ?_) | with_reducible refine Keeps.foldl_fst ?_ (fun _ _ => ?_) | with_reducible refine Keeps.foldl_snd ?_ (fun _ _ => ?_) | with_reducible apply Keeps.cond | with_reducible refine Keeps.getD ?_ (fun _ _ => ?_) | split | with_reducible refine Keeps.trans ?_ (State.govAdmit_keeps _ _ _ ‹State.govAdmit _ _ _ = some _›) | with_reducible refine Keeps.of_fst ‹_ = (_, _)› ?_))

theorem State.retireStart_keeps (s : State) (i : Nat) : Keeps s (State.retireStart s i) := by
  unfold State.retireStart
  try dsimp only
  repeat' (first | with_reducible exact Keeps.refl _ | with_reducible assumption | with_reducible apply Keeps.trans _ (State.advanceCursor_keeps _ _ _) | with_reducible apply Keeps.trans _ (State.cnt_keeps _ _ _ _) | with_reducible apply Keeps.trans _ (State.gatherPage_keeps _ _ _ _ _) | with_reducible apply Keeps.trans _ (State.readPage_keeps _ _ _) | with_reducible apply Keeps.trans _ (State.readTags_keeps _ _ _) | with_reducible apply Keeps.trans _ (State.retireCheck_keeps _ _ _) | with_reducible apply Keeps.trans _ (State.takeEngine_keeps _ _ _) | with_reducible refine Keeps.ite (fun _ => ?_) (fun _ => ?_) | with_reducible refine Keeps.foldl ?_ (fun _ _ => ?_) | with_reducible refine Keeps.foldl_fst ?_ (fun _ _ => ?_) | with_reducible refine Keeps.foldl_snd ?_ (fun _ _ => ?_) | with_reducible apply Keeps.cond | with_reducible refine Keeps.getD ?_ (fun _ _ => ?_) | split | with_reducible refine Keeps.trans ?_ (State.govAdmit_keeps _ _ _ ‹State.govAdmit _ _ _ = some _›) | with_reducible refine Keeps.of_fst ‹_ = (_, _)› ?_ | (with_reducible apply Keeps.lit; (on_goal 2 => with_reducible rfl); first | with_reducible exact Keeps.refl _ | with_reducible assumption | with_reducible apply Keeps.trans _ (State.advanceCursor_keeps _ _ _) | with_reducible apply Keeps.trans _ (State.cnt_keeps _ _ _ _) | with_reducible apply Keeps.trans _ (State.gatherPage_keeps _ _ _ _ _) | with_reducible apply Keeps.trans _ (State.readPage_keeps _ _ _) | with_reducible apply Keeps.trans _ (State.readTags_keeps _ _ _) | with_reducible apply Keeps.trans _ (State.retireCheck_keeps _ _ _) | with_reducible apply Keeps.trans _ (State.takeEngine_keeps _ _ _) | with_reducible refine Keeps.ite (fun _ => ?_) (fun _ => ?_) | with_reducible refine Keeps.foldl ?_ (fun _ _ => ?_) | with_reducible refine Keeps.foldl_fst ?_ (fun _ _ => ?_) | with_reducible refine Keeps.foldl_snd ?_ (fun _ _ => ?_) | with_reducible apply Keeps.cond | with_reducible refine Keeps.getD ?_ (fun _ _ => ?_) | split | with_reducible refine Keeps.trans ?_ (State.govAdmit_keeps _ _ _ ‹State.govAdmit _ _ _ = some _›) | with_reducible refine Keeps.of_fst ‹_ = (_, _)› ?_))

theorem State.zeroised_keeps (s : State) (k : Nat) : Keeps s (State.zeroised s k) := by
  unfold State.zeroised
  try dsimp only
  repeat' (first | with_reducible exact Keeps.refl _ | with_reducible apply Keeps.trans _ (State.stn_keeps _ _ _ _) | with_reducible refine Keeps.ite (fun _ => ?_) (fun _ => ?_) | split | (with_reducible apply Keeps.lit; (on_goal 2 => with_reducible rfl); first | with_reducible exact Keeps.refl _ | with_reducible apply Keeps.trans _ (State.stn_keeps _ _ _ _) | with_reducible refine Keeps.ite (fun _ => ?_) (fun _ => ?_) | split))

end Sys2Proof.Machine
end

