-- ==== Sys2Proof/Laws/KeepsMoves.lean ====
section
/-! SUPPORT. Every operation of Machine/Moves.lean keeps what `Keeps` says: one lemma for each. -/
namespace Sys2Proof.Machine
set_option linter.unreachableTactic false
set_option linter.unusedTactic false

theorem State.closeSlot_keeps (s : State) (k : Nat) : Keeps s (State.closeSlot s k) := by
  unfold State.closeSlot
  repeat' (first | with_reducible exact Keeps.refl _ | (with_reducible apply Keeps.lit; (on_goal 2 => with_reducible rfl); first | with_reducible exact Keeps.refl _))

theorem State.freeMoveEngine_keeps (s : State) (m : MoveSlot) : Keeps s (State.freeMoveEngine s m) := by
  unfold State.freeMoveEngine
  try dsimp only
  repeat' (first | with_reducible exact Keeps.refl _ | with_reducible apply Keeps.trans _ (State.freeEngine_keeps _ _) | with_reducible apply Keeps.trans _ (State.orphan_keeps _ _) | with_reducible refine Keeps.ite (fun _ => ?_) (fun _ => ?_) | split | (with_reducible apply Keeps.lit; (on_goal 2 => with_reducible rfl); first | with_reducible exact Keeps.refl _ | with_reducible apply Keeps.trans _ (State.freeEngine_keeps _ _) | with_reducible apply Keeps.trans _ (State.orphan_keeps _ _) | with_reducible refine Keeps.ite (fun _ => ?_) (fun _ => ?_) | split))

theorem State.abortMove_keeps (s : State) (k : Nat) : Keeps s (State.abortMove s k) := by
  unfold State.abortMove
  try dsimp only
  repeat' (first | with_reducible exact Keeps.refl _ | with_reducible apply Keeps.trans _ (State.closeSlot_keeps _ _) | with_reducible apply Keeps.trans _ (State.cnt_keeps _ _ _ _) | with_reducible apply Keeps.trans _ (State.dropGather_keeps _ _) | with_reducible apply Keeps.trans _ (State.freeForm_keeps _ _) | with_reducible apply Keeps.trans _ (State.freeMoveEngine_keeps _ _) | with_reducible apply Keeps.trans _ (State.setForm_keeps _ _ _) | with_reducible refine Keeps.ite (fun _ => ?_) (fun _ => ?_) | split | (with_reducible apply Keeps.lit; (on_goal 2 => with_reducible rfl); first | with_reducible exact Keeps.refl _ | with_reducible apply Keeps.trans _ (State.closeSlot_keeps _ _) | with_reducible apply Keeps.trans _ (State.cnt_keeps _ _ _ _) | with_reducible apply Keeps.trans _ (State.dropGather_keeps _ _) | with_reducible apply Keeps.trans _ (State.freeForm_keeps _ _) | with_reducible apply Keeps.trans _ (State.freeMoveEngine_keeps _ _) | with_reducible apply Keeps.trans _ (State.setForm_keeps _ _ _) | with_reducible refine Keeps.ite (fun _ => ?_) (fun _ => ?_) | split))

theorem State.abortMoves_keeps (s : State) : Keeps s (State.abortMoves s) := by
  unfold State.abortMoves
  try dsimp only
  repeat' (first | with_reducible exact Keeps.refl _ | with_reducible assumption | with_reducible apply Keeps.trans _ (State.abortMove_keeps _ _) | with_reducible refine Keeps.ite (fun _ => ?_) (fun _ => ?_) | with_reducible refine Keeps.foldl ?_ (fun _ _ => ?_) | split | (with_reducible apply Keeps.lit; (on_goal 2 => with_reducible rfl); first | with_reducible exact Keeps.refl _ | with_reducible assumption | with_reducible apply Keeps.trans _ (State.abortMove_keeps _ _) | with_reducible refine Keeps.ite (fun _ => ?_) (fun _ => ?_) | with_reducible refine Keeps.foldl ?_ (fun _ _ => ?_) | split))

theorem State.admitAbort_keeps (s : State) (slice : Nat) (k : Nat) : Keeps s (State.admitAbort s slice k) := by
  unfold State.admitAbort
  try dsimp only
  repeat' (first | with_reducible exact Keeps.refl _ | with_reducible assumption | with_reducible apply Keeps.trans _ (State.abortMove_keeps _ _) | with_reducible refine Keeps.ite (fun _ => ?_) (fun _ => ?_) | with_reducible refine Keeps.foldl ?_ (fun _ _ => ?_) | with_reducible refine Keeps.foldl_fst ?_ (fun _ _ => ?_) | with_reducible refine Keeps.foldl_snd ?_ (fun _ _ => ?_) | with_reducible apply Keeps.cond | with_reducible refine Keeps.getD ?_ (fun _ _ => ?_) | split | with_reducible refine Keeps.trans ?_ (State.dmaAdmit_keeps _ _ ‹State.dmaAdmit _ _ = some _›) | (with_reducible apply Keeps.lit; (on_goal 2 => with_reducible rfl); first | with_reducible exact Keeps.refl _ | with_reducible assumption | with_reducible apply Keeps.trans _ (State.abortMove_keeps _ _) | with_reducible refine Keeps.ite (fun _ => ?_) (fun _ => ?_) | with_reducible refine Keeps.foldl ?_ (fun _ _ => ?_) | with_reducible refine Keeps.foldl_fst ?_ (fun _ _ => ?_) | with_reducible refine Keeps.foldl_snd ?_ (fun _ _ => ?_) | with_reducible apply Keeps.cond | with_reducible refine Keeps.getD ?_ (fun _ _ => ?_) | split | with_reducible refine Keeps.trans ?_ (State.dmaAdmit_keeps _ _ ‹State.dmaAdmit _ _ = some _›)))

theorem State.commitForm_keeps (s : State) (k : Nat) (m : MoveSlot) (f : PageForm) : Keeps s (State.commitForm s k m f) := by
  unfold State.commitForm
  repeat' (first | with_reducible exact Keeps.refl _ | with_reducible apply Keeps.trans _ (State.closeSlot_keeps _ _) | with_reducible apply Keeps.trans _ (State.dropGather_keeps _ _) | with_reducible apply Keeps.trans _ (State.freeForm_keeps _ _) | with_reducible apply Keeps.trans _ (State.freeMoveEngine_keeps _ _) | with_reducible apply Keeps.trans _ (State.setForm_keeps _ _ _))

theorem State.storePage_keeps (s : State) (p : Nat) (c : Nat) (fr : Nat) (xs : List Line) : Keeps s (State.storePage s p c fr xs) := by
  unfold State.storePage
  try dsimp only
  repeat' (first | with_reducible exact Keeps.refl _ | with_reducible assumption | with_reducible apply Keeps.trans _ (State.storeFrame_keeps _ _ _ _ _ _ _) | with_reducible refine Keeps.ite (fun _ => ?_) (fun _ => ?_) | with_reducible refine Keeps.foldl ?_ (fun _ _ => ?_) | with_reducible refine Keeps.foldl_fst ?_ (fun _ _ => ?_) | with_reducible refine Keeps.foldl_snd ?_ (fun _ _ => ?_) | with_reducible apply Keeps.cond | with_reducible refine Keeps.getD ?_ (fun _ _ => ?_) | split | (with_reducible apply Keeps.lit; (on_goal 2 => with_reducible rfl); first | with_reducible exact Keeps.refl _ | with_reducible assumption | with_reducible apply Keeps.trans _ (State.storeFrame_keeps _ _ _ _ _ _ _) | with_reducible refine Keeps.ite (fun _ => ?_) (fun _ => ?_) | with_reducible refine Keeps.foldl ?_ (fun _ _ => ?_) | with_reducible refine Keeps.foldl_fst ?_ (fun _ _ => ?_) | with_reducible refine Keeps.foldl_snd ?_ (fun _ _ => ?_) | with_reducible apply Keeps.cond | with_reducible refine Keeps.getD ?_ (fun _ _ => ?_) | split))

theorem State.commitBadUnspill_keeps (s : State) (k : Nat) (m : MoveSlot) (fault : Nat) : Keeps s (State.commitBadUnspill s k m fault) := by
  unfold State.commitBadUnspill
  try dsimp only
  repeat' (first | with_reducible exact Keeps.refl _ | with_reducible apply Keeps.trans _ (State.commitForm_keeps _ _ _ _) | with_reducible apply Keeps.trans _ (State.freeForm_keeps _ _) | with_reducible apply Keeps.trans _ (State.raise_keeps _ _ _ _) | with_reducible apply Keeps.trans _ (State.storePage_keeps _ _ _ _ _) | with_reducible refine Keeps.ite (fun _ => ?_) (fun _ => ?_) | split | with_reducible refine Keeps.trans ?_ (State.allocFrame_keeps _ _ _ ‹State.allocFrame _ _ _ = some _›) | (with_reducible apply Keeps.lit; (on_goal 2 => with_reducible rfl); first | with_reducible exact Keeps.refl _ | with_reducible apply Keeps.trans _ (State.commitForm_keeps _ _ _ _) | with_reducible apply Keeps.trans _ (State.freeForm_keeps _ _) | with_reducible apply Keeps.trans _ (State.raise_keeps _ _ _ _) | with_reducible apply Keeps.trans _ (State.storePage_keeps _ _ _ _ _) | with_reducible refine Keeps.ite (fun _ => ?_) (fun _ => ?_) | split | with_reducible refine Keeps.trans ?_ (State.allocFrame_keeps _ _ _ ‹State.allocFrame _ _ _ = some _›)))

theorem State.commitFreeze_keeps (s : State) (k : Nat) (m : MoveSlot) (c : Nat) (sh : Nat) (n : Nat) : Keeps s (State.commitFreeze s k m c sh n) := by
  unfold State.commitFreeze
  try dsimp only
  repeat' (first | with_reducible exact Keeps.refl _ | with_reducible assumption | with_reducible apply Keeps.trans _ (State.cnt_keeps _ _ _ _) | with_reducible apply Keeps.trans _ (State.commitForm_keeps _ _ _ _) | with_reducible apply Keeps.trans _ (State.sealAll_keeps _ _ _ _ _ _ _ _) | with_reducible apply Keeps.trans _ (State.setAcc_keeps _ _ _) | with_reducible apply Keeps.trans _ (State.setCtr_keeps _ _ _) | with_reducible apply Keeps.trans _ (State.storeLines_keeps _ _ _ _) | with_reducible apply Keeps.trans _ (State.wcbDropPage_keeps _ _) | with_reducible refine Keeps.ite (fun _ => ?_) (fun _ => ?_) | with_reducible refine Keeps.foldl ?_ (fun _ _ => ?_) | with_reducible refine Keeps.foldl_fst ?_ (fun _ _ => ?_) | with_reducible refine Keeps.foldl_snd ?_ (fun _ _ => ?_) | with_reducible apply Keeps.cond | with_reducible refine Keeps.getD ?_ (fun _ _ => ?_) | split | with_reducible refine Keeps.of_snd ‹_ = (_, _)› ?_ | (with_reducible apply Keeps.lit; (on_goal 2 => with_reducible rfl); first | with_reducible exact Keeps.refl _ | with_reducible assumption | with_reducible apply Keeps.trans _ (State.cnt_keeps _ _ _ _) | with_reducible apply Keeps.trans _ (State.commitForm_keeps _ _ _ _) | with_reducible apply Keeps.trans _ (State.sealAll_keeps _ _ _ _ _ _ _ _) | with_reducible apply Keeps.trans _ (State.setAcc_keeps _ _ _) | with_reducible apply Keeps.trans _ (State.setCtr_keeps _ _ _) | with_reducible apply Keeps.trans _ (State.storeLines_keeps _ _ _ _) | with_reducible apply Keeps.trans _ (State.wcbDropPage_keeps _ _) | with_reducible refine Keeps.ite (fun _ => ?_) (fun _ => ?_) | with_reducible refine Keeps.foldl ?_ (fun _ _ => ?_) | with_reducible refine Keeps.foldl_fst ?_ (fun _ _ => ?_) | with_reducible refine Keeps.foldl_snd ?_ (fun _ _ => ?_) | with_reducible apply Keeps.cond | with_reducible refine Keeps.getD ?_ (fun _ _ => ?_) | split | with_reducible refine Keeps.of_snd ‹_ = (_, _)› ?_))

theorem State.commitThaw_keeps (s : State) (k : Nat) (m : MoveSlot) (c : Nat) (fr : Nat) : Keeps s (State.commitThaw s k m c fr) := by
  unfold State.commitThaw
  try dsimp only
  repeat' (first | with_reducible exact Keeps.refl _ | with_reducible apply Keeps.trans _ (State.cnt_keeps _ _ _ _) | with_reducible apply Keeps.trans _ (State.commitForm_keeps _ _ _ _) | with_reducible apply Keeps.trans _ (State.raise_keeps _ _ _ _) | with_reducible apply Keeps.trans _ (State.storePage_keeps _ _ _ _ _) | with_reducible refine Keeps.ite (fun _ => ?_) (fun _ => ?_) | split | (with_reducible apply Keeps.lit; (on_goal 2 => with_reducible rfl); first | with_reducible exact Keeps.refl _ | with_reducible apply Keeps.trans _ (State.cnt_keeps _ _ _ _) | with_reducible apply Keeps.trans _ (State.commitForm_keeps _ _ _ _) | with_reducible apply Keeps.trans _ (State.raise_keeps _ _ _ _) | with_reducible apply Keeps.trans _ (State.storePage_keeps _ _ _ _ _) | with_reducible refine Keeps.ite (fun _ => ?_) (fun _ => ?_) | split))

theorem State.inside_keeps (s : State) (m : MoveSlot) : Keeps s (State.inside s m) := by
  unfold State.inside
  try dsimp only
  repeat' (first | with_reducible exact Keeps.refl _ | with_reducible refine Keeps.ite (fun _ => ?_) (fun _ => ?_) | split | (with_reducible apply Keeps.lit; (on_goal 2 => with_reducible rfl); first | with_reducible exact Keeps.refl _ | with_reducible refine Keeps.ite (fun _ => ?_) (fun _ => ?_) | split))

theorem State.commitMove_keeps (s : State) (k : Nat) (m : MoveSlot) : Keeps s (State.commitMove s k m) := by
  unfold State.commitMove
  try dsimp only
  repeat' (first | with_reducible exact Keeps.refl _ | with_reducible assumption | with_reducible apply Keeps.trans _ (State.cnt_keeps _ _ _ _) | with_reducible apply Keeps.trans _ (State.commitBadUnspill_keeps _ _ _ _) | with_reducible apply Keeps.trans _ (State.commitForm_keeps _ _ _ _) | with_reducible apply Keeps.trans _ (State.commitFreeze_keeps _ _ _ _ _ _) | with_reducible apply Keeps.trans _ (State.commitThaw_keeps _ _ _ _ _) | with_reducible apply Keeps.trans _ (State.inside_keeps _ _) | with_reducible apply Keeps.trans _ (State.storeLines_keeps _ _ _ _) | with_reducible refine Keeps.ite (fun _ => ?_) (fun _ => ?_) | with_reducible refine Keeps.foldl ?_ (fun _ _ => ?_) | with_reducible refine Keeps.foldl_fst ?_ (fun _ _ => ?_) | with_reducible refine Keeps.foldl_snd ?_ (fun _ _ => ?_) | with_reducible apply Keeps.cond | with_reducible refine Keeps.getD ?_ (fun _ _ => ?_) | split | (with_reducible apply Keeps.lit; (on_goal 2 => with_reducible rfl); first | with_reducible exact Keeps.refl _ | with_reducible assumption | with_reducible apply Keeps.trans _ (State.cnt_keeps _ _ _ _) | with_reducible apply Keeps.trans _ (State.commitBadUnspill_keeps _ _ _ _) | with_reducible apply Keeps.trans _ (State.commitForm_keeps _ _ _ _) | with_reducible apply Keeps.trans _ (State.commitFreeze_keeps _ _ _ _ _ _) | with_reducible apply Keeps.trans _ (State.commitThaw_keeps _ _ _ _ _) | with_reducible apply Keeps.trans _ (State.inside_keeps _ _) | with_reducible apply Keeps.trans _ (State.storeLines_keeps _ _ _ _) | with_reducible refine Keeps.ite (fun _ => ?_) (fun _ => ?_) | with_reducible refine Keeps.foldl ?_ (fun _ _ => ?_) | with_reducible refine Keeps.foldl_fst ?_ (fun _ _ => ?_) | with_reducible refine Keeps.foldl_snd ?_ (fun _ _ => ?_) | with_reducible apply Keeps.cond | with_reducible refine Keeps.getD ?_ (fun _ _ => ?_) | split))

theorem State.readLines_keeps (s : State) (p : Nat) (f : PageForm) (is : List Nat) : Keeps s (State.readLines s p f is) := by
  unfold State.readLines
  try dsimp only
  repeat' (first | with_reducible exact Keeps.refl _ | with_reducible assumption | with_reducible apply Keeps.trans _ (State.sendRead_keeps _ _ _ _ _ _ _) | with_reducible refine Keeps.ite (fun _ => ?_) (fun _ => ?_) | with_reducible refine Keeps.foldl ?_ (fun _ _ => ?_) | with_reducible refine Keeps.foldl_fst ?_ (fun _ _ => ?_) | with_reducible refine Keeps.foldl_snd ?_ (fun _ _ => ?_) | with_reducible apply Keeps.cond | with_reducible refine Keeps.getD ?_ (fun _ _ => ?_) | split | (with_reducible apply Keeps.lit; (on_goal 2 => with_reducible rfl); first | with_reducible exact Keeps.refl _ | with_reducible assumption | with_reducible apply Keeps.trans _ (State.sendRead_keeps _ _ _ _ _ _ _) | with_reducible refine Keeps.ite (fun _ => ?_) (fun _ => ?_) | with_reducible refine Keeps.foldl ?_ (fun _ _ => ?_) | with_reducible refine Keeps.foldl_fst ?_ (fun _ _ => ?_) | with_reducible refine Keeps.foldl_snd ?_ (fun _ _ => ?_) | with_reducible apply Keeps.cond | with_reducible refine Keeps.getD ?_ (fun _ _ => ?_) | split))

theorem State.endRound_keeps (s : State) (k : Nat) : Keeps s (State.endRound s k) := by
  unfold State.endRound
  try dsimp only
  repeat' (first | with_reducible exact Keeps.refl _ | with_reducible assumption | with_reducible apply Keeps.trans _ (State.readLines_keeps _ _ _ _) | with_reducible apply Keeps.trans _ (State.updSlot_keeps _ _ _) | with_reducible refine Keeps.ite (fun _ => ?_) (fun _ => ?_) | with_reducible refine Keeps.foldl ?_ (fun _ _ => ?_) | with_reducible refine Keeps.foldl_fst ?_ (fun _ _ => ?_) | with_reducible refine Keeps.foldl_snd ?_ (fun _ _ => ?_) | with_reducible apply Keeps.cond | with_reducible refine Keeps.getD ?_ (fun _ _ => ?_) | split | (with_reducible apply Keeps.lit; (on_goal 2 => with_reducible rfl); first | with_reducible exact Keeps.refl _ | with_reducible assumption | with_reducible apply Keeps.trans _ (State.readLines_keeps _ _ _ _) | with_reducible apply Keeps.trans _ (State.updSlot_keeps _ _ _) | with_reducible refine Keeps.ite (fun _ => ?_) (fun _ => ?_) | with_reducible refine Keeps.foldl ?_ (fun _ _ => ?_) | with_reducible refine Keeps.foldl_fst ?_ (fun _ _ => ?_) | with_reducible refine Keeps.foldl_snd ?_ (fun _ _ => ?_) | with_reducible apply Keeps.cond | with_reducible refine Keeps.getD ?_ (fun _ _ => ?_) | split))

theorem State.copyRound_keeps (s : State) (slice : Nat) (slot : Nat) : Keeps s (State.copyRound s slice slot) := by
  unfold State.copyRound
  try dsimp only
  repeat' (first | with_reducible exact Keeps.refl _ | with_reducible assumption | with_reducible apply Keeps.trans _ (State.endRound_keeps _ _) | with_reducible apply Keeps.trans _ (State.freeMoveEngine_keeps _ _) | with_reducible apply Keeps.trans _ (State.storeLines_keeps _ _ _ _) | with_reducible apply Keeps.trans _ (State.updSlot_keeps _ _ _) | with_reducible refine Keeps.ite (fun _ => ?_) (fun _ => ?_) | with_reducible refine Keeps.foldl ?_ (fun _ _ => ?_) | with_reducible refine Keeps.foldl_fst ?_ (fun _ _ => ?_) | with_reducible refine Keeps.foldl_snd ?_ (fun _ _ => ?_) | with_reducible apply Keeps.cond | with_reducible refine Keeps.getD ?_ (fun _ _ => ?_) | split | with_reducible refine Keeps.trans ?_ (State.moveAdmit_keeps _ _ _ ‹State.moveAdmit _ _ _ = some _›) | (with_reducible apply Keeps.lit; (on_goal 2 => with_reducible rfl); first | with_reducible exact Keeps.refl _ | with_reducible assumption | with_reducible apply Keeps.trans _ (State.endRound_keeps _ _) | with_reducible apply Keeps.trans _ (State.freeMoveEngine_keeps _ _) | with_reducible apply Keeps.trans _ (State.storeLines_keeps _ _ _ _) | with_reducible apply Keeps.trans _ (State.updSlot_keeps _ _ _) | with_reducible refine Keeps.ite (fun _ => ?_) (fun _ => ?_) | with_reducible refine Keeps.foldl ?_ (fun _ _ => ?_) | with_reducible refine Keeps.foldl_fst ?_ (fun _ _ => ?_) | with_reducible refine Keeps.foldl_snd ?_ (fun _ _ => ?_) | with_reducible apply Keeps.cond | with_reducible refine Keeps.getD ?_ (fun _ _ => ?_) | split | with_reducible refine Keeps.trans ?_ (State.moveAdmit_keeps _ _ _ ‹State.moveAdmit _ _ _ = some _›)))

theorem State.endWaiting_keeps (s : State) (p : Nat) : Keeps s (State.endWaiting s p) := by
  unfold State.endWaiting
  try dsimp only
  repeat' (first | with_reducible exact Keeps.refl _ | with_reducible assumption | with_reducible apply Keeps.trans _ (State.finish_keeps _ _ _ _) | with_reducible refine Keeps.ite (fun _ => ?_) (fun _ => ?_) | with_reducible refine Keeps.foldl ?_ (fun _ _ => ?_) | with_reducible refine Keeps.foldl_fst ?_ (fun _ _ => ?_) | with_reducible refine Keeps.foldl_snd ?_ (fun _ _ => ?_) | with_reducible apply Keeps.cond | with_reducible refine Keeps.getD ?_ (fun _ _ => ?_) | split | (with_reducible apply Keeps.lit; (on_goal 2 => with_reducible rfl); first | with_reducible exact Keeps.refl _ | with_reducible assumption | with_reducible apply Keeps.trans _ (State.finish_keeps _ _ _ _) | with_reducible refine Keeps.ite (fun _ => ?_) (fun _ => ?_) | with_reducible refine Keeps.foldl ?_ (fun _ _ => ?_) | with_reducible refine Keeps.foldl_fst ?_ (fun _ _ => ?_) | with_reducible refine Keeps.foldl_snd ?_ (fun _ _ => ?_) | with_reducible apply Keeps.cond | with_reducible refine Keeps.getD ?_ (fun _ _ => ?_) | split))

theorem State.refuseThaw_keeps (s : State) (p : Nat) : Keeps s (State.refuseThaw s p) := by
  unfold State.refuseThaw
  try dsimp only
  repeat' (first | with_reducible exact Keeps.refl _ | with_reducible assumption | with_reducible apply Keeps.trans _ (State.endWaiting_keeps _ _) | with_reducible apply Keeps.trans _ (State.raise_keeps _ _ _ _) | with_reducible refine Keeps.ite (fun _ => ?_) (fun _ => ?_) | with_reducible refine Keeps.foldl ?_ (fun _ _ => ?_) | split | (with_reducible apply Keeps.lit; (on_goal 2 => with_reducible rfl); first | with_reducible exact Keeps.refl _ | with_reducible assumption | with_reducible apply Keeps.trans _ (State.endWaiting_keeps _ _) | with_reducible apply Keeps.trans _ (State.raise_keeps _ _ _ _) | with_reducible refine Keeps.ite (fun _ => ?_) (fun _ => ?_) | with_reducible refine Keeps.foldl ?_ (fun _ _ => ?_) | split))

theorem State.openSlot_keeps (s : State) (slice : Nat) (slot : Nat) (m : MoveSlot) : Keeps s (State.openSlot s slice slot m) := by
  unfold State.openSlot
  repeat' (first | with_reducible exact Keeps.refl _ | with_reducible apply Keeps.trans _ (State.setForm_keeps _ _ _) | (with_reducible apply Keeps.lit; (on_goal 2 => with_reducible rfl); first | with_reducible exact Keeps.refl _ | with_reducible apply Keeps.trans _ (State.setForm_keeps _ _ _)))

theorem State.readFrameFor_keeps (s : State) (e : Nat) (p : Nat) (c : Nat) (fr : Nat) : Keeps s (State.readFrameFor s e p c fr) := by
  unfold State.readFrameFor
  try dsimp only
  repeat' (first | with_reducible exact Keeps.refl _ | with_reducible assumption | with_reducible apply Keeps.trans _ (State.readTags_keeps _ _ _) | with_reducible apply Keeps.trans _ (State.sendRead_keeps _ _ _ _ _ _ _) | with_reducible refine Keeps.ite (fun _ => ?_) (fun _ => ?_) | with_reducible refine Keeps.foldl ?_ (fun _ _ => ?_) | split | (with_reducible apply Keeps.lit; (on_goal 2 => with_reducible rfl); first | with_reducible exact Keeps.refl _ | with_reducible assumption | with_reducible apply Keeps.trans _ (State.readTags_keeps _ _ _) | with_reducible apply Keeps.trans _ (State.sendRead_keeps _ _ _ _ _ _ _) | with_reducible refine Keeps.ite (fun _ => ?_) (fun _ => ?_) | with_reducible refine Keeps.foldl ?_ (fun _ _ => ?_) | split))

theorem State.startFreeze_keeps (s : State) (slice : Nat) (slot : Nat) (p : Nat) (c : Nat) (fr : Nat) {res} (h : State.startFreeze s slice slot p c fr = some res) : Keeps s res := by
  unfold State.startFreeze at h
  try dsimp only at h
  repeat' split at h
  all_goals first | contradiction | skip
  all_goals simp only [Option.some.injEq, Option.map_eq_some_iff] at h
  all_goals try (obtain ⟨_, _, h⟩ := h)
  all_goals try subst h
  all_goals repeat' (first | with_reducible exact Keeps.refl _ | with_reducible assumption | with_reducible apply Keeps.trans _ (State.openSlot_keeps _ _ _ _) | with_reducible apply Keeps.trans _ (State.readFrameFor_keeps _ _ _ _ _) | with_reducible apply Keeps.trans _ (State.takeEngine_keeps _ _ _) | with_reducible refine Keeps.ite (fun _ => ?_) (fun _ => ?_) | with_reducible refine Keeps.foldl ?_ (fun _ _ => ?_) | with_reducible refine Keeps.foldl_fst ?_ (fun _ _ => ?_) | with_reducible refine Keeps.foldl_snd ?_ (fun _ _ => ?_) | with_reducible apply Keeps.cond | with_reducible refine Keeps.getD ?_ (fun _ _ => ?_) | split | (with_reducible apply Keeps.lit; (on_goal 2 => with_reducible rfl); first | with_reducible exact Keeps.refl _ | with_reducible assumption | with_reducible apply Keeps.trans _ (State.openSlot_keeps _ _ _ _) | with_reducible apply Keeps.trans _ (State.readFrameFor_keeps _ _ _ _ _) | with_reducible apply Keeps.trans _ (State.takeEngine_keeps _ _ _) | with_reducible refine Keeps.ite (fun _ => ?_) (fun _ => ?_) | with_reducible refine Keeps.foldl ?_ (fun _ _ => ?_) | with_reducible refine Keeps.foldl_fst ?_ (fun _ _ => ?_) | with_reducible refine Keeps.foldl_snd ?_ (fun _ _ => ?_) | with_reducible apply Keeps.cond | with_reducible refine Keeps.getD ?_ (fun _ _ => ?_) | split))

theorem State.startRehome_keeps (s : State) (slice : Nat) (slot : Nat) (p : Nat) (dst : Nat) (inc : Option Nat) {res} (h : State.startRehome s slice slot p dst inc = some res) : Keeps s res := by
  unfold State.startRehome at h
  try dsimp only at h
  repeat' split at h
  all_goals first | contradiction | skip
  all_goals simp only [Option.some.injEq, Option.map_eq_some_iff] at h
  all_goals try (obtain ⟨_, _, h⟩ := h)
  all_goals try subst h
  all_goals repeat' (first | with_reducible exact Keeps.refl _ | with_reducible apply Keeps.trans _ (State.openSlot_keeps _ _ _ _) | with_reducible apply Keeps.trans _ (State.readPage_keeps _ _ _) | with_reducible apply Keeps.trans _ (State.takeEngine_keeps _ _ _) | with_reducible refine Keeps.ite (fun _ => ?_) (fun _ => ?_) | split | with_reducible refine Keeps.trans ?_ (State.allocOn_keeps _ _ ‹State.allocOn _ _ = some _›) | (with_reducible apply Keeps.lit; (on_goal 2 => with_reducible rfl); first | with_reducible exact Keeps.refl _ | with_reducible apply Keeps.trans _ (State.openSlot_keeps _ _ _ _) | with_reducible apply Keeps.trans _ (State.readPage_keeps _ _ _) | with_reducible apply Keeps.trans _ (State.takeEngine_keeps _ _ _) | with_reducible refine Keeps.ite (fun _ => ?_) (fun _ => ?_) | split | with_reducible refine Keeps.trans ?_ (State.allocOn_keeps _ _ ‹State.allocOn _ _ = some _›)))

theorem State.startSpill_keeps (s : State) (slice : Nat) (slot : Nat) (p : Nat) (l : Nat) {res} (h : State.startSpill s slice slot p l = some res) : Keeps s res := by
  unfold State.startSpill at h
  try dsimp only at h
  repeat' split at h
  all_goals first | contradiction | skip
  all_goals simp only [Option.some.injEq, Option.map_eq_some_iff] at h
  all_goals try (obtain ⟨_, _, h⟩ := h)
  all_goals try subst h
  all_goals repeat' (first | with_reducible exact Keeps.refl _ | with_reducible apply Keeps.trans _ (State.openSlot_keeps _ _ _ _) | with_reducible apply Keeps.trans _ (State.pressure_keeps _) | with_reducible apply Keeps.trans _ (State.readPage_keeps _ _ _) | with_reducible apply Keeps.trans _ (State.wr_keeps _ _ _) | with_reducible apply Keeps.trans _ (State.advanceFree_keeps _))

theorem State.startThaw_keeps (s : State) (slice : Nat) (slot : Nat) (p : Nat) (inline : Bool) (w : ReadFor) {res} (h : State.startThaw s slice slot p inline w = some res) : Keeps s res := by
  unfold State.startThaw at h
  try dsimp only at h
  repeat' split at h
  all_goals first | contradiction | skip
  all_goals simp only [Option.some.injEq, Option.map_eq_some_iff] at h
  all_goals try (obtain ⟨_, _, h⟩ := h)
  all_goals try subst h
  all_goals repeat' (first | with_reducible exact Keeps.refl _ | with_reducible assumption | with_reducible apply Keeps.trans _ (State.fetchImage_keeps _ _ _ _ _) | with_reducible apply Keeps.trans _ (State.openSlot_keeps _ _ _ _) | with_reducible apply Keeps.trans _ (State.takeEngine_keeps _ _ _) | with_reducible refine Keeps.ite (fun _ => ?_) (fun _ => ?_) | with_reducible refine Keeps.foldl ?_ (fun _ _ => ?_) | with_reducible refine Keeps.foldl_fst ?_ (fun _ _ => ?_) | with_reducible refine Keeps.foldl_snd ?_ (fun _ _ => ?_) | with_reducible apply Keeps.cond | with_reducible refine Keeps.getD ?_ (fun _ _ => ?_) | split | with_reducible refine Keeps.trans ?_ (State.allocFrame_keeps _ _ _ ‹State.allocFrame _ _ _ = some _›) | (with_reducible apply Keeps.lit; (on_goal 2 => with_reducible rfl); first | with_reducible exact Keeps.refl _ | with_reducible assumption | with_reducible apply Keeps.trans _ (State.fetchImage_keeps _ _ _ _ _) | with_reducible apply Keeps.trans _ (State.openSlot_keeps _ _ _ _) | with_reducible apply Keeps.trans _ (State.takeEngine_keeps _ _ _) | with_reducible refine Keeps.ite (fun _ => ?_) (fun _ => ?_) | with_reducible refine Keeps.foldl ?_ (fun _ _ => ?_) | with_reducible refine Keeps.foldl_fst ?_ (fun _ _ => ?_) | with_reducible refine Keeps.foldl_snd ?_ (fun _ _ => ?_) | with_reducible apply Keeps.cond | with_reducible refine Keeps.getD ?_ (fun _ _ => ?_) | split | with_reducible refine Keeps.trans ?_ (State.allocFrame_keeps _ _ _ ‹State.allocFrame _ _ _ = some _›)))

theorem State.startUnspill_keeps (s : State) (slice : Nat) (slot : Nat) (p : Nat) (l : Nat) (u : Nat) (n : Nat) (inline : Bool) (w : ReadFor) {res} (h : State.startUnspill s slice slot p l u n inline w = some res) : Keeps s res := by
  unfold State.startUnspill at h
  try dsimp only at h
  repeat' split at h
  all_goals first | contradiction | skip
  all_goals simp only [Option.some.injEq, Option.map_eq_some_iff] at h
  all_goals try (obtain ⟨_, _, h⟩ := h)
  all_goals try subst h
  all_goals repeat' (first | with_reducible exact Keeps.refl _ | with_reducible assumption | with_reducible apply Keeps.trans _ (State.fetchImage_keeps _ _ _ _ _) | with_reducible apply Keeps.trans _ (State.gatherPage_keeps _ _ _ _ _) | with_reducible apply Keeps.trans _ (State.openSlot_keeps _ _ _ _) | with_reducible apply Keeps.trans _ (State.takeEngine_keeps _ _ _) | with_reducible refine Keeps.ite (fun _ => ?_) (fun _ => ?_) | with_reducible refine Keeps.foldl ?_ (fun _ _ => ?_) | with_reducible refine Keeps.foldl_fst ?_ (fun _ _ => ?_) | with_reducible refine Keeps.foldl_snd ?_ (fun _ _ => ?_) | with_reducible apply Keeps.cond | with_reducible refine Keeps.getD ?_ (fun _ _ => ?_) | split | with_reducible refine Keeps.trans ?_ (State.allocFrame_keeps _ _ _ ‹State.allocFrame _ _ _ = some _›) | with_reducible refine Keeps.trans ?_ (State.allocSherds_keeps _ _ _ _ ‹State.allocSherds _ _ _ _ = some _›) | with_reducible refine Keeps.of_fst ‹_ = (_, _)› ?_ | (with_reducible apply Keeps.lit; (on_goal 2 => with_reducible rfl); first | with_reducible exact Keeps.refl _ | with_reducible assumption | with_reducible apply Keeps.trans _ (State.fetchImage_keeps _ _ _ _ _) | with_reducible apply Keeps.trans _ (State.gatherPage_keeps _ _ _ _ _) | with_reducible apply Keeps.trans _ (State.openSlot_keeps _ _ _ _) | with_reducible apply Keeps.trans _ (State.takeEngine_keeps _ _ _) | with_reducible refine Keeps.ite (fun _ => ?_) (fun _ => ?_) | with_reducible refine Keeps.foldl ?_ (fun _ _ => ?_) | with_reducible refine Keeps.foldl_fst ?_ (fun _ _ => ?_) | with_reducible refine Keeps.foldl_snd ?_ (fun _ _ => ?_) | with_reducible apply Keeps.cond | with_reducible refine Keeps.getD ?_ (fun _ _ => ?_) | split | with_reducible refine Keeps.trans ?_ (State.allocFrame_keeps _ _ _ ‹State.allocFrame _ _ _ = some _›) | with_reducible refine Keeps.trans ?_ (State.allocSherds_keeps _ _ _ _ ‹State.allocSherds _ _ _ _ = some _›) | with_reducible refine Keeps.of_fst ‹_ = (_, _)› ?_))

theorem State.startMove_keeps (s : State) (slice : Nat) (m : Planned) (inline : Bool) (w : ReadFor) {res : State}
    (h : State.startMove s slice m inline w = some res) : Keeps s res := by
  unfold State.startMove at h
  repeat' split at h
  all_goals first
    | contradiction
    | exact State.startFreeze_keeps (h := h) ..
    | exact State.startRehome_keeps (h := h) ..
    | exact State.startSpill_keeps (h := h) ..
    | exact State.startThaw_keeps (h := h) ..
    | exact State.startUnspill_keeps (h := h) ..

theorem State.inlineThaw_keeps (s : State) (slice : Nat) (id : Nat) : Keeps s (State.inlineThaw s slice id) := by
  unfold State.inlineThaw
  try dsimp only
  repeat' (first | with_reducible exact Keeps.refl _ | with_reducible assumption | with_reducible apply Keeps.trans _ (State.endWaiting_keeps _ _) | with_reducible apply Keeps.trans _ (State.refuseThaw_keeps _ _) | with_reducible apply Keeps.trans _ (State.wantCtr_keeps _ _ _) | with_reducible refine Keeps.ite (fun _ => ?_) (fun _ => ?_) | with_reducible refine Keeps.foldl ?_ (fun _ _ => ?_) | with_reducible refine Keeps.foldl_fst ?_ (fun _ _ => ?_) | with_reducible refine Keeps.foldl_snd ?_ (fun _ _ => ?_) | with_reducible apply Keeps.cond | with_reducible refine Keeps.getD ?_ (fun _ _ => ?_) | split | with_reducible refine Keeps.trans ?_ (State.allocFrame_keeps _ _ _ ‹State.allocFrame _ _ _ = some _›) | with_reducible refine Keeps.trans ?_ (State.startMove_keeps _ _ _ _ _ ‹State.startMove _ _ _ _ _ = some _›) | with_reducible refine Keeps.of_fst ‹_ = (_, _)› ?_ | (with_reducible apply Keeps.lit; (on_goal 2 => with_reducible rfl); first | with_reducible exact Keeps.refl _ | with_reducible assumption | with_reducible apply Keeps.trans _ (State.endWaiting_keeps _ _) | with_reducible apply Keeps.trans _ (State.refuseThaw_keeps _ _) | with_reducible apply Keeps.trans _ (State.wantCtr_keeps _ _ _) | with_reducible refine Keeps.ite (fun _ => ?_) (fun _ => ?_) | with_reducible refine Keeps.foldl ?_ (fun _ _ => ?_) | with_reducible refine Keeps.foldl_fst ?_ (fun _ _ => ?_) | with_reducible refine Keeps.foldl_snd ?_ (fun _ _ => ?_) | with_reducible apply Keeps.cond | with_reducible refine Keeps.getD ?_ (fun _ _ => ?_) | split | with_reducible refine Keeps.trans ?_ (State.allocFrame_keeps _ _ _ ‹State.allocFrame _ _ _ = some _›) | with_reducible refine Keeps.trans ?_ (State.startMove_keeps _ _ _ _ _ ‹State.startMove _ _ _ _ _ = some _›) | with_reducible refine Keeps.of_fst ‹_ = (_, _)› ?_))

theorem State.moveAbort_keeps (s : State) (slice : Nat) (slot : Nat) : Keeps s (State.moveAbort s slice slot) := by
  unfold State.moveAbort
  try dsimp only
  repeat' (first | with_reducible exact Keeps.refl _ | with_reducible apply Keeps.trans _ (State.admitAbort_keeps _ _ _) | with_reducible refine Keeps.ite (fun _ => ?_) (fun _ => ?_) | split | (with_reducible apply Keeps.lit; (on_goal 2 => with_reducible rfl); first | with_reducible exact Keeps.refl _ | with_reducible apply Keeps.trans _ (State.admitAbort_keeps _ _ _) | with_reducible refine Keeps.ite (fun _ => ?_) (fun _ => ?_) | split))

theorem State.moveCommit_keeps (s : State) (slice slot : Nat) : Keeps s (State.moveCommit s slice slot) := by
  unfold State.moveCommit
  extract_lets k
  split
  · exact Keeps.refl _
  · rename_i m _
    refine Keeps.ite (fun _ => Keeps.refl _) (fun _ => ?_)
    have hw : Keeps s (if seals m then s.wantCtr m.page else (s, some true)).1 := Keeps.fst_ite (State.wantCtr_keeps _ _ _) (Keeps.refl _)
    split
    · exact Keeps.of_fst ‹_ = (_, _)› hw
    · exact (Keeps.of_fst ‹_ = (_, _)› hw).trans (State.updSlot_keeps _ _ _)
    · have ha := Keeps.of_fst ‹_ = (_, _)› hw
      split
      · exact ha
      · rename_i t heq
        exact (ha.trans (State.moveAdmit_keeps _ _ _ heq)).trans (State.commitMove_keeps _ _ _)

theorem State.moveTimeout_keeps (s : State) (slice : Nat) (slot : Nat) : Keeps s (State.moveTimeout s slice slot) := by
  unfold State.moveTimeout
  try dsimp only
  repeat' (first | with_reducible exact Keeps.refl _ | with_reducible apply Keeps.trans _ (State.admitAbort_keeps _ _ _) | with_reducible apply Keeps.trans _ (State.updSlot_keeps _ _ _) | with_reducible refine Keeps.ite (fun _ => ?_) (fun _ => ?_) | split | (with_reducible apply Keeps.lit; (on_goal 2 => with_reducible rfl); first | with_reducible exact Keeps.refl _ | with_reducible apply Keeps.trans _ (State.admitAbort_keeps _ _ _) | with_reducible apply Keeps.trans _ (State.updSlot_keeps _ _ _) | with_reducible refine Keeps.ite (fun _ => ?_) (fun _ => ?_) | split))

theorem State.wantThaw_keeps (s : State) (p : Nat) : Keeps s (State.wantThaw s p) := by
  unfold State.wantThaw
  try dsimp only
  repeat' (first | with_reducible exact Keeps.refl _ | with_reducible refine Keeps.ite (fun _ => ?_) (fun _ => ?_) | split | (with_reducible apply Keeps.lit; (on_goal 2 => with_reducible rfl); first | with_reducible exact Keeps.refl _ | with_reducible refine Keeps.ite (fun _ => ?_) (fun _ => ?_) | split))

end Sys2Proof.Machine
end

