-- ==== Sys2Proof/Laws/KeepsCurator.lean ====
section
/-! SUPPORT. Every operation of Machine/Curator.lean keeps what `Keeps` says: one lemma for each. -/
namespace Sys2Proof.Machine
set_option linter.unreachableTactic false
set_option linter.unusedTactic false

theorem State.curatorPlan_keeps (s : State) (p : Nat) : Keeps s (State.curatorPlan s p) := by
  unfold State.curatorPlan
  try dsimp only
  repeat' (first | with_reducible exact Keeps.refl _ | with_reducible assumption | with_reducible refine Keeps.ite (fun _ => ?_) (fun _ => ?_) | with_reducible refine Keeps.foldl ?_ (fun _ _ => ?_) | split | (with_reducible apply Keeps.lit; (on_goal 2 => with_reducible rfl); first | with_reducible exact Keeps.refl _ | with_reducible assumption | with_reducible refine Keeps.ite (fun _ => ?_) (fun _ => ?_) | with_reducible refine Keeps.foldl ?_ (fun _ _ => ?_) | split))

theorem State.epochClose_keeps (s : State) : Keeps s (State.epochClose s) := by
  unfold State.epochClose
  try dsimp only
  repeat' (first | with_reducible exact Keeps.refl _ | with_reducible apply Keeps.trans _ (State.raise_keeps _ _ _ _) | with_reducible apply Keeps.trans _ (State.setFlag_keeps _ _ _) | with_reducible apply Keeps.trans _ (State.wr_keeps _ _ _) | with_reducible refine Keeps.ite (fun _ => ?_) (fun _ => ?_) | split | (with_reducible apply Keeps.lit; (on_goal 2 => with_reducible rfl); first | with_reducible exact Keeps.refl _ | with_reducible apply Keeps.trans _ (State.raise_keeps _ _ _ _) | with_reducible apply Keeps.trans _ (State.setFlag_keeps _ _ _) | with_reducible apply Keeps.trans _ (State.wr_keeps _ _ _) | with_reducible refine Keeps.ite (fun _ => ?_) (fun _ => ?_) | split))

theorem State.moveStage_keeps (s : State) (slice : Nat) : Keeps s (State.moveStage s slice) := by
  unfold State.moveStage
  try dsimp only
  repeat' (first | with_reducible exact Keeps.refl _ | with_reducible refine Keeps.ite (fun _ => ?_) (fun _ => ?_) | split | (with_reducible apply Keeps.lit; (on_goal 2 => with_reducible rfl); first | with_reducible exact Keeps.refl _ | with_reducible refine Keeps.ite (fun _ => ?_) (fun _ => ?_) | split))

theorem State.unstage_keeps (s : State) (x : Staged) : Keeps s (State.unstage s x) := by
  unfold State.unstage
  repeat' (first | with_reducible exact Keeps.refl _ | (with_reducible apply Keeps.lit; (on_goal 2 => with_reducible rfl); first | with_reducible exact Keeps.refl _))

theorem State.moveStart_keeps (s : State) (slice : Nat) : Keeps s (State.moveStart s slice) := by
  unfold State.moveStart
  split
  · exact Keeps.refl _
  · rename_i x _
    extract_lets m
    have hw : Keeps s (if s.opensPage m then s.wantCtr m.page else (s, some true)).1 := Keeps.fst_ite (State.wantCtr_keeps _ _ _) (Keeps.refl _)
    split
    · exact Keeps.of_fst ‹_ = (_, _)› hw
    · have ha := Keeps.of_fst ‹_ = (_, _)› hw
      split
      · exact ha
      · rename_i t heq
        have ht := ha.trans (Keeps.some_ite heq (State.dmaAdmit_keeps _ _) (State.govAdmit_keeps _ _ _))
        extract_lets forbids u
        have hu : Keeps s u := (ht.trans (State.unstage_keeps _ _)).trans (State.checkPageTags_keeps _ _)
        refine Keeps.ite (fun _ => hu) (fun _ => Keeps.ite (fun _ => Keeps.trans (Keeps.lit hu rfl) (State.cnt_keeps _ _ _ _)) (fun _ => Keeps.ite (fun _ => hu) (fun _ => ?_)))
        exact Keeps.ite (fun _ => hu.trans (State.refuseThaw_keeps _ _)) (fun _ => Keeps.getD hu (fun _ hv => hu.trans (State.startMove_keeps _ _ _ _ _ hv)))

theorem State.visit_keeps (s : State) (p : Nat) : Keeps s (State.visit s p) := by
  unfold State.visit
  extract_lets a src idle w pl u v
  have hu : Keeps s u := Keeps.ite (fun _ => Keeps.lit (State.setAcc_keeps _ _ _) rfl) (fun _ => Keeps.refl _)
  clear_value u src
  have hv : Keeps s v := by
    unfold v
    split
    · exact Keeps.ite (fun _ => hu.trans (State.listAdd_keeps _ _ _ _ _ _)) (fun _ => hu)
    · exact hu
  clear_value v
  refine Keeps.ite (fun _ => Keeps.refl _) (fun _ => ?_)
  split
  · exact hv.trans (State.updSlot_keeps _ _ _)
  · exact hv.trans (State.setForm_keeps _ _ _)

theorem State.scanOn_keeps (s : State) (slice : Nat) : Keeps s (State.scanOn s slice) := by
  unfold State.scanOn
  try dsimp only
  repeat' (first | with_reducible exact Keeps.refl _ | with_reducible assumption | with_reducible apply Keeps.trans _ (State.visit_keeps _ _) | with_reducible refine Keeps.ite (fun _ => ?_) (fun _ => ?_) | with_reducible refine Keeps.foldl ?_ (fun _ _ => ?_) | with_reducible refine Keeps.foldl_fst ?_ (fun _ _ => ?_) | with_reducible refine Keeps.foldl_snd ?_ (fun _ _ => ?_) | with_reducible apply Keeps.cond | with_reducible refine Keeps.getD ?_ (fun _ _ => ?_) | split | (with_reducible apply Keeps.lit; (on_goal 2 => with_reducible rfl); first | with_reducible exact Keeps.refl _ | with_reducible assumption | with_reducible apply Keeps.trans _ (State.visit_keeps _ _) | with_reducible refine Keeps.ite (fun _ => ?_) (fun _ => ?_) | with_reducible refine Keeps.foldl ?_ (fun _ _ => ?_) | with_reducible refine Keeps.foldl_fst ?_ (fun _ _ => ?_) | with_reducible refine Keeps.foldl_snd ?_ (fun _ _ => ?_) | with_reducible apply Keeps.cond | with_reducible refine Keeps.getD ?_ (fun _ _ => ?_) | split))

theorem State.scanVisit_keeps (s : State) (slice : Nat) : Keeps s (State.scanVisit s slice) := by
  unfold State.scanVisit
  try dsimp only
  repeat' (first | with_reducible exact Keeps.refl _ | with_reducible assumption | with_reducible apply Keeps.trans _ (State.metaReads_keeps _ _ _) | with_reducible apply Keeps.trans _ (State.scanOn_keeps _ _) | with_reducible apply Keeps.trans _ (State.advanceFree_keeps _) | with_reducible refine Keeps.ite (fun _ => ?_) (fun _ => ?_) | with_reducible refine Keeps.foldl ?_ (fun _ _ => ?_) | with_reducible refine Keeps.foldl_fst ?_ (fun _ _ => ?_) | with_reducible refine Keeps.foldl_snd ?_ (fun _ _ => ?_) | with_reducible apply Keeps.cond | with_reducible refine Keeps.getD ?_ (fun _ _ => ?_) | split | with_reducible refine Keeps.trans ?_ (State.govAdmit_keeps _ _ _ ‹State.govAdmit _ _ _ = some _›) | (with_reducible apply Keeps.lit; (on_goal 2 => with_reducible rfl); first | with_reducible exact Keeps.refl _ | with_reducible assumption | with_reducible apply Keeps.trans _ (State.metaReads_keeps _ _ _) | with_reducible apply Keeps.trans _ (State.scanOn_keeps _ _) | with_reducible apply Keeps.trans _ (State.advanceFree_keeps _) | with_reducible refine Keeps.ite (fun _ => ?_) (fun _ => ?_) | with_reducible refine Keeps.foldl ?_ (fun _ _ => ?_) | with_reducible refine Keeps.foldl_fst ?_ (fun _ _ => ?_) | with_reducible refine Keeps.foldl_snd ?_ (fun _ _ => ?_) | with_reducible apply Keeps.cond | with_reducible refine Keeps.getD ?_ (fun _ _ => ?_) | split | with_reducible refine Keeps.trans ?_ (State.govAdmit_keeps _ _ _ ‹State.govAdmit _ _ _ = some _›)))

end Sys2Proof.Machine
end

