-- ==== Sys2Proof/Laws/KeepsPress.lean ====
section
/-! SUPPORT. Every operation of Machine/Press.lean keeps what `Keeps` says: one lemma for each. -/
namespace Sys2Proof.Machine
set_option linter.unreachableTactic false
set_option linter.unusedTactic false

theorem State.decodeFault_keeps (s : State) (e : Nat) (p : Nat) (code : Nat) (strand : Nat) : Keeps s (State.decodeFault s e p code strand) := by
  unfold State.decodeFault
  repeat' (first | with_reducible exact Keeps.refl _ | with_reducible apply Keeps.trans _ (State.sat_keeps _ _ _) | with_reducible apply Keeps.trans _ (State.stn_keeps _ _ _ _) | with_reducible apply Keeps.trans _ (State.wr_keeps _ _ _))

theorem State.giveUp_keeps (s : State) (k : Nat) (mark : Bool) : Keeps s (State.giveUp s k mark) := by
  unfold State.giveUp
  repeat' (first | with_reducible exact Keeps.refl _ | with_reducible apply Keeps.trans _ (State.updSlot_keeps _ _ _))

theorem State.plainPage_keeps (s : State) (p : Nat) (xs : List Line) : Keeps s (State.plainPage s p xs).2 := by
  unfold State.plainPage
  try dsimp only
  repeat' (first | with_reducible exact Keeps.refl _ | with_reducible assumption | with_reducible apply Keeps.trans _ (State.tagFail_keeps _ _ _ _) | with_reducible refine Keeps.ite (fun _ => ?_) (fun _ => ?_) | with_reducible refine Keeps.foldl ?_ (fun _ _ => ?_) | with_reducible refine Keeps.foldl_fst ?_ (fun _ _ => ?_) | with_reducible refine Keeps.foldl_snd ?_ (fun _ _ => ?_) | with_reducible apply Keeps.cond | with_reducible refine Keeps.getD ?_ (fun _ _ => ?_) | split | (with_reducible apply Keeps.lit; (on_goal 2 => with_reducible rfl); first | with_reducible exact Keeps.refl _ | with_reducible assumption | with_reducible apply Keeps.trans _ (State.tagFail_keeps _ _ _ _) | with_reducible refine Keeps.ite (fun _ => ?_) (fun _ => ?_) | with_reducible refine Keeps.foldl ?_ (fun _ _ => ?_) | with_reducible refine Keeps.foldl_fst ?_ (fun _ _ => ?_) | with_reducible refine Keeps.foldl_snd ?_ (fun _ _ => ?_) | with_reducible apply Keeps.cond | with_reducible refine Keeps.getD ?_ (fun _ _ => ?_) | split))

theorem State.verifyFail_keeps (s : State) (e : Nat) (page : Nat) : Keeps s (State.verifyFail s e page) := by
  unfold State.verifyFail
  try dsimp only
  repeat' (first | with_reducible exact Keeps.refl _ | with_reducible apply Keeps.trans _ (State.cnt_keeps _ _ _ _) | with_reducible apply Keeps.trans _ (State.raise_keeps _ _ _ _) | with_reducible apply Keeps.trans _ (State.retireEngine_keeps _ _) | with_reducible apply Keeps.trans _ (State.sat_keeps _ _ _) | with_reducible apply Keeps.trans _ (State.stn_keeps _ _ _ _) | with_reducible apply Keeps.trans _ (State.wr_keeps _ _ _) | with_reducible refine Keeps.ite (fun _ => ?_) (fun _ => ?_) | split | (with_reducible apply Keeps.lit; (on_goal 2 => with_reducible rfl); first | with_reducible exact Keeps.refl _ | with_reducible apply Keeps.trans _ (State.cnt_keeps _ _ _ _) | with_reducible apply Keeps.trans _ (State.raise_keeps _ _ _ _) | with_reducible apply Keeps.trans _ (State.retireEngine_keeps _ _) | with_reducible apply Keeps.trans _ (State.sat_keeps _ _ _) | with_reducible apply Keeps.trans _ (State.stn_keeps _ _ _ _) | with_reducible apply Keeps.trans _ (State.wr_keeps _ _ _) | with_reducible refine Keeps.ite (fun _ => ?_) (fun _ => ?_) | split))

theorem State.compressDone_keeps (s : State) (e : Nat) (img : Image) : Keeps s (State.compressDone s e img) := by
  unfold State.compressDone
  try dsimp only
  repeat' (first | with_reducible exact Keeps.refl _ | with_reducible assumption | with_reducible apply Keeps.trans _ (State.decodeFault_keeps _ _ _ _ _) | with_reducible apply Keeps.trans _ (State.freeEngine_keeps _ _) | with_reducible apply Keeps.trans _ (State.giveUp_keeps _ _ _) | with_reducible apply Keeps.trans _ (State.plainPage_keeps _ _ _) | with_reducible apply Keeps.trans _ (State.stn_keeps _ _ _ _) | with_reducible apply Keeps.trans _ (State.updSlot_keeps _ _ _) | with_reducible apply Keeps.trans _ (State.verifyFail_keeps _ _ _) | with_reducible apply Keeps.trans _ (State.wantCtr_keeps _ _ _) | with_reducible refine Keeps.ite (fun _ => ?_) (fun _ => ?_) | with_reducible refine Keeps.foldl ?_ (fun _ _ => ?_) | with_reducible refine Keeps.foldl_fst ?_ (fun _ _ => ?_) | with_reducible refine Keeps.foldl_snd ?_ (fun _ _ => ?_) | with_reducible apply Keeps.cond | with_reducible refine Keeps.getD ?_ (fun _ _ => ?_) | split | with_reducible refine Keeps.trans ?_ (State.allocSherds_keeps _ _ _ _ ‹State.allocSherds _ _ _ _ = some _›) | with_reducible refine Keeps.of_fst ‹_ = (_, _)› ?_ | with_reducible refine Keeps.of_snd ‹_ = (_, _)› ?_ | (with_reducible apply Keeps.lit; (on_goal 2 => with_reducible rfl); first | with_reducible exact Keeps.refl _ | with_reducible assumption | with_reducible apply Keeps.trans _ (State.decodeFault_keeps _ _ _ _ _) | with_reducible apply Keeps.trans _ (State.freeEngine_keeps _ _) | with_reducible apply Keeps.trans _ (State.giveUp_keeps _ _ _) | with_reducible apply Keeps.trans _ (State.plainPage_keeps _ _ _) | with_reducible apply Keeps.trans _ (State.stn_keeps _ _ _ _) | with_reducible apply Keeps.trans _ (State.updSlot_keeps _ _ _) | with_reducible apply Keeps.trans _ (State.verifyFail_keeps _ _ _) | with_reducible apply Keeps.trans _ (State.wantCtr_keeps _ _ _) | with_reducible refine Keeps.ite (fun _ => ?_) (fun _ => ?_) | with_reducible refine Keeps.foldl ?_ (fun _ _ => ?_) | with_reducible refine Keeps.foldl_fst ?_ (fun _ _ => ?_) | with_reducible refine Keeps.foldl_snd ?_ (fun _ _ => ?_) | with_reducible apply Keeps.cond | with_reducible refine Keeps.getD ?_ (fun _ _ => ?_) | split | with_reducible refine Keeps.trans ?_ (State.allocSherds_keeps _ _ _ _ ‹State.allocSherds _ _ _ _ = some _›) | with_reducible refine Keeps.of_fst ‹_ = (_, _)› ?_ | with_reducible refine Keeps.of_snd ‹_ = (_, _)› ?_))

theorem State.openImage_keeps (s : State) (p : Nat) (sl : Option Seal) (raw : List Line) : Keeps s (State.openImage s p sl raw).2 := by
  unfold State.openImage
  try dsimp only
  repeat' (first | with_reducible exact Keeps.refl _ | with_reducible assumption | with_reducible apply Keeps.trans _ (State.tagFail_keeps _ _ _ _) | with_reducible refine Keeps.ite (fun _ => ?_) (fun _ => ?_) | with_reducible refine Keeps.foldl ?_ (fun _ _ => ?_) | with_reducible refine Keeps.foldl_fst ?_ (fun _ _ => ?_) | with_reducible refine Keeps.foldl_snd ?_ (fun _ _ => ?_) | with_reducible apply Keeps.cond | with_reducible refine Keeps.getD ?_ (fun _ _ => ?_) | split | (with_reducible apply Keeps.lit; (on_goal 2 => with_reducible rfl); first | with_reducible exact Keeps.refl _ | with_reducible assumption | with_reducible apply Keeps.trans _ (State.tagFail_keeps _ _ _ _) | with_reducible refine Keeps.ite (fun _ => ?_) (fun _ => ?_) | with_reducible refine Keeps.foldl ?_ (fun _ _ => ?_) | with_reducible refine Keeps.foldl_fst ?_ (fun _ _ => ?_) | with_reducible refine Keeps.foldl_snd ?_ (fun _ _ => ?_) | with_reducible apply Keeps.cond | with_reducible refine Keeps.getD ?_ (fun _ _ => ?_) | split))

theorem State.decodePage_keeps (s : State) (p : Nat) (version : Nat) (f : PageForm) (sl : Option Seal) (raw : List Line) : Keeps s (State.decodePage s p version f sl raw).2 := by
  unfold State.decodePage
  try dsimp only
  repeat' (first | with_reducible exact Keeps.refl _ | with_reducible apply Keeps.trans _ (State.openImage_keeps _ _ _ _) | with_reducible refine Keeps.ite (fun _ => ?_) (fun _ => ?_) | split | with_reducible refine Keeps.of_snd ‹_ = (_, _)› ?_ | (with_reducible apply Keeps.lit; (on_goal 2 => with_reducible rfl); first | with_reducible exact Keeps.refl _ | with_reducible apply Keeps.trans _ (State.openImage_keeps _ _ _ _) | with_reducible refine Keeps.ite (fun _ => ?_) (fun _ => ?_) | split | with_reducible refine Keeps.of_snd ‹_ = (_, _)› ?_))

theorem State.decoded_keeps (s : State) (e : Nat) : Keeps s (State.decoded s e) := by
  unfold State.decoded
  repeat' (first | with_reducible exact Keeps.refl _ | with_reducible apply Keeps.trans _ (State.cnt_keeps _ _ _ _) | with_reducible apply Keeps.trans _ (State.stn_keeps _ _ _ _))

theorem State.joinedFault_keeps (s : State) (p : Nat) (code : Nat) (strand : Nat) : Keeps s (State.joinedFault s p code strand) := by
  unfold State.joinedFault
  try dsimp only
  repeat' (first | with_reducible exact Keeps.refl _ | with_reducible assumption | with_reducible apply Keeps.trans _ (State.raise_keeps _ _ _ _) | with_reducible refine Keeps.ite (fun _ => ?_) (fun _ => ?_) | with_reducible refine Keeps.foldl ?_ (fun _ _ => ?_) | with_reducible refine Keeps.foldl_fst ?_ (fun _ _ => ?_) | with_reducible refine Keeps.foldl_snd ?_ (fun _ _ => ?_) | with_reducible apply Keeps.cond | with_reducible refine Keeps.getD ?_ (fun _ _ => ?_) | split | (with_reducible apply Keeps.lit; (on_goal 2 => with_reducible rfl); first | with_reducible exact Keeps.refl _ | with_reducible assumption | with_reducible apply Keeps.trans _ (State.raise_keeps _ _ _ _) | with_reducible refine Keeps.ite (fun _ => ?_) (fun _ => ?_) | with_reducible refine Keeps.foldl ?_ (fun _ _ => ?_) | with_reducible refine Keeps.foldl_fst ?_ (fun _ _ => ?_) | with_reducible refine Keeps.foldl_snd ?_ (fun _ _ => ?_) | with_reducible apply Keeps.cond | with_reducible refine Keeps.getD ?_ (fun _ _ => ?_) | split))

theorem State.serveDecoded_keeps (s : State) (p : Nat) (at' : Nat → Line) : Keeps s (State.serveDecoded s p at') := by
  unfold State.serveDecoded
  try dsimp only
  repeat' (first | with_reducible exact Keeps.refl _ | with_reducible assumption | with_reducible apply Keeps.trans _ (State.deliver_keeps _ _ _) | with_reducible refine Keeps.ite (fun _ => ?_) (fun _ => ?_) | with_reducible refine Keeps.foldl ?_ (fun _ _ => ?_) | split | (with_reducible apply Keeps.lit; (on_goal 2 => with_reducible rfl); first | with_reducible exact Keeps.refl _ | with_reducible assumption | with_reducible apply Keeps.trans _ (State.deliver_keeps _ _ _) | with_reducible refine Keeps.ite (fun _ => ?_) (fun _ => ?_) | with_reducible refine Keeps.foldl ?_ (fun _ _ => ?_) | split))

theorem State.moveDecoded_keeps (s : State) (e : Nat) (k : Nat) (m : MoveSlot) (raw : List Line) : Keeps s (State.moveDecoded s e k m raw) := by
  unfold State.moveDecoded
  try dsimp only
  repeat' (first | with_reducible exact Keeps.refl _ | with_reducible assumption | with_reducible apply Keeps.trans _ (State.decodeFault_keeps _ _ _ _ _) | with_reducible apply Keeps.trans _ (State.decodePage_keeps _ _ _ _ _ _) | with_reducible apply Keeps.trans _ (State.decoded_keeps _ _) | with_reducible apply Keeps.trans _ (State.freeEngine_keeps _ _) | with_reducible apply Keeps.trans _ (State.joinedFault_keeps _ _ _ _) | with_reducible apply Keeps.trans _ (State.serveDecoded_keeps _ _ _) | with_reducible apply Keeps.trans _ (State.updSlot_keeps _ _ _) | with_reducible refine Keeps.ite (fun _ => ?_) (fun _ => ?_) | with_reducible refine Keeps.foldl ?_ (fun _ _ => ?_) | with_reducible refine Keeps.foldl_fst ?_ (fun _ _ => ?_) | with_reducible refine Keeps.foldl_snd ?_ (fun _ _ => ?_) | with_reducible apply Keeps.cond | with_reducible refine Keeps.getD ?_ (fun _ _ => ?_) | split | with_reducible refine Keeps.of_snd ‹_ = (_, _)› ?_ | (with_reducible apply Keeps.lit; (on_goal 2 => with_reducible rfl); first | with_reducible exact Keeps.refl _ | with_reducible assumption | with_reducible apply Keeps.trans _ (State.decodeFault_keeps _ _ _ _ _) | with_reducible apply Keeps.trans _ (State.decodePage_keeps _ _ _ _ _ _) | with_reducible apply Keeps.trans _ (State.decoded_keeps _ _) | with_reducible apply Keeps.trans _ (State.freeEngine_keeps _ _) | with_reducible apply Keeps.trans _ (State.joinedFault_keeps _ _ _ _) | with_reducible apply Keeps.trans _ (State.serveDecoded_keeps _ _ _) | with_reducible apply Keeps.trans _ (State.updSlot_keeps _ _ _) | with_reducible refine Keeps.ite (fun _ => ?_) (fun _ => ?_) | with_reducible refine Keeps.foldl ?_ (fun _ _ => ?_) | with_reducible refine Keeps.foldl_fst ?_ (fun _ _ => ?_) | with_reducible refine Keeps.foldl_snd ?_ (fun _ _ => ?_) | with_reducible apply Keeps.cond | with_reducible refine Keeps.getD ?_ (fun _ _ => ?_) | split | with_reducible refine Keeps.of_snd ‹_ = (_, _)› ?_))

theorem State.readDecoded_keeps (s : State) (e : Nat) (p : Nat) (version : Nat) (f : PageForm) (sl : Option Seal) (raw : List Line) : Keeps s (State.readDecoded s e p version f sl raw) := by
  unfold State.readDecoded
  try dsimp only
  repeat' (first | with_reducible exact Keeps.refl _ | with_reducible apply Keeps.trans _ (State.decodeFault_keeps _ _ _ _ _) | with_reducible apply Keeps.trans _ (State.decodePage_keeps _ _ _ _ _ _) | with_reducible apply Keeps.trans _ (State.decoded_keeps _ _) | with_reducible apply Keeps.trans _ (State.freeEngine_keeps _ _) | with_reducible apply Keeps.trans _ (State.raise_keeps _ _ _ _) | with_reducible apply Keeps.trans _ (State.serveDecoded_keeps _ _ _) | with_reducible apply Keeps.trans _ (State.wantThaw_keeps _ _) | with_reducible refine Keeps.ite (fun _ => ?_) (fun _ => ?_) | split | with_reducible refine Keeps.of_snd ‹_ = (_, _)› ?_ | (with_reducible apply Keeps.lit; (on_goal 2 => with_reducible rfl); first | with_reducible exact Keeps.refl _ | with_reducible apply Keeps.trans _ (State.decodeFault_keeps _ _ _ _ _) | with_reducible apply Keeps.trans _ (State.decodePage_keeps _ _ _ _ _ _) | with_reducible apply Keeps.trans _ (State.decoded_keeps _ _) | with_reducible apply Keeps.trans _ (State.freeEngine_keeps _ _) | with_reducible apply Keeps.trans _ (State.raise_keeps _ _ _ _) | with_reducible apply Keeps.trans _ (State.serveDecoded_keeps _ _ _) | with_reducible apply Keeps.trans _ (State.wantThaw_keeps _ _) | with_reducible refine Keeps.ite (fun _ => ?_) (fun _ => ?_) | split | with_reducible refine Keeps.of_snd ‹_ = (_, _)› ?_))

theorem State.decodeDone_keeps (s : State) (e : Nat) : Keeps s (State.decodeDone s e) := by
  unfold State.decodeDone
  try dsimp only
  repeat' (first | with_reducible exact Keeps.refl _ | with_reducible assumption | with_reducible apply Keeps.trans _ (State.moveDecoded_keeps _ _ _ _ _) | with_reducible apply Keeps.trans _ (State.readDecoded_keeps _ _ _ _ _ _ _) | with_reducible apply Keeps.trans _ (State.wantCtr_keeps _ _ _) | with_reducible refine Keeps.ite (fun _ => ?_) (fun _ => ?_) | with_reducible refine Keeps.foldl ?_ (fun _ _ => ?_) | with_reducible refine Keeps.foldl_fst ?_ (fun _ _ => ?_) | with_reducible refine Keeps.foldl_snd ?_ (fun _ _ => ?_) | with_reducible apply Keeps.cond | with_reducible refine Keeps.getD ?_ (fun _ _ => ?_) | split | with_reducible refine Keeps.of_fst ‹_ = (_, _)› ?_ | (with_reducible apply Keeps.lit; (on_goal 2 => with_reducible rfl); first | with_reducible exact Keeps.refl _ | with_reducible assumption | with_reducible apply Keeps.trans _ (State.moveDecoded_keeps _ _ _ _ _) | with_reducible apply Keeps.trans _ (State.readDecoded_keeps _ _ _ _ _ _ _) | with_reducible apply Keeps.trans _ (State.wantCtr_keeps _ _ _) | with_reducible refine Keeps.ite (fun _ => ?_) (fun _ => ?_) | with_reducible refine Keeps.foldl ?_ (fun _ _ => ?_) | with_reducible refine Keeps.foldl_fst ?_ (fun _ _ => ?_) | with_reducible refine Keeps.foldl_snd ?_ (fun _ _ => ?_) | with_reducible apply Keeps.cond | with_reducible refine Keeps.getD ?_ (fun _ _ => ?_) | split | with_reducible refine Keeps.of_fst ‹_ = (_, _)› ?_))

end Sys2Proof.Machine
end

