-- ==== Sys2Proof/Laws/KeepsJobs.lean ====
section
/-! SUPPORT. Every operation of Machine/Jobs.lean keeps what `Keeps` says: one lemma for each. -/
namespace Sys2Proof.Machine
set_option linter.unreachableTactic false
set_option linter.unusedTactic false

theorem State.hostPut_keeps (s : State) (q : Nat) (ld : Nat) (addr : Nat) (bytes : List Byte) (ro : Bool) : Keeps s (State.hostPut s q ld addr bytes ro) := by
  unfold State.hostPut
  repeat' (first | with_reducible exact Keeps.refl _ | with_reducible apply Keeps.trans _ (State.emit_keeps _ _) | (with_reducible apply Keeps.lit; (on_goal 2 => with_reducible rfl); first | with_reducible exact Keeps.refl _ | with_reducible apply Keeps.trans _ (State.emit_keeps _ _)))

theorem State.endJob_keeps (s : State) (q : Nat) (ld : Nat) (writes : List (Nat × List Byte)) (vec : Option Nat) : Keeps s (State.endJob s q ld writes vec) := by
  unfold State.endJob
  try dsimp only
  repeat' (first | with_reducible exact Keeps.refl _ | with_reducible assumption | with_reducible apply Keeps.trans _ (State.cnt_keeps _ _ _ _) | with_reducible apply Keeps.trans _ (State.hostPut_keeps _ _ _ _ _ _) | with_reducible apply Keeps.trans _ (State.msix_keeps _ _ _) | with_reducible refine Keeps.ite (fun _ => ?_) (fun _ => ?_) | with_reducible refine Keeps.foldl ?_ (fun _ _ => ?_) | split | (with_reducible apply Keeps.lit; (on_goal 2 => with_reducible rfl); first | with_reducible exact Keeps.refl _ | with_reducible assumption | with_reducible apply Keeps.trans _ (State.cnt_keeps _ _ _ _) | with_reducible apply Keeps.trans _ (State.hostPut_keeps _ _ _ _ _ _) | with_reducible apply Keeps.trans _ (State.msix_keeps _ _ _) | with_reducible refine Keeps.ite (fun _ => ?_) (fun _ => ?_) | with_reducible refine Keeps.foldl ?_ (fun _ _ => ?_) | split))

theorem State.endUnrun_keeps (s : State) (q : Nat) (ld : Nat) (d : BitVec 512) (status : Nat) : Keeps s (State.endUnrun s q ld d status) := by
  unfold State.endUnrun
  repeat' (first | with_reducible exact Keeps.refl _ | with_reducible apply Keeps.trans _ (State.endJob_keeps _ _ _ _ _))

theorem State.abortOne_keeps (s : State) (q : Nat) (r : AbortRing) (d : BitVec 512) : Keeps s (State.abortOne s q r d) := by
  unfold State.abortOne
  repeat' (first | with_reducible exact Keeps.refl _ | with_reducible apply Keeps.trans _ (State.endUnrun_keeps _ _ _ _ _) | with_reducible apply Keeps.trans _ (State.emit_keeps _ _) | (with_reducible apply Keeps.lit; (on_goal 2 => with_reducible rfl); first | with_reducible exact Keeps.refl _ | with_reducible apply Keeps.trans _ (State.endUnrun_keeps _ _ _ _ _) | with_reducible apply Keeps.trans _ (State.emit_keeps _ _)))

theorem State.deleteQueue_keeps (s : State) (q : Nat) (abort : Bool) : Keeps s (State.deleteQueue s q abort) := by
  unfold State.deleteQueue
  try dsimp only
  repeat' (first | with_reducible exact Keeps.refl _ | with_reducible apply Keeps.trans _ (State.setDword_keeps _ _ _) | with_reducible apply Keeps.trans _ (State.setWord_keeps _ _ _) | with_reducible refine Keeps.ite (fun _ => ?_) (fun _ => ?_) | split | (with_reducible apply Keeps.lit; (on_goal 2 => with_reducible rfl); first | with_reducible exact Keeps.refl _ | with_reducible apply Keeps.trans _ (State.setDword_keeps _ _ _) | with_reducible apply Keeps.trans _ (State.setWord_keeps _ _ _) | with_reducible refine Keeps.ite (fun _ => ?_) (fun _ => ?_) | split))

theorem State.fenceRead_keeps (s : State) (q : Nat) (ld : Nat) : Keeps s (State.fenceRead s q ld) := by
  unfold State.fenceRead
  try dsimp only
  repeat' (first | with_reducible exact Keeps.refl _ | with_reducible apply Keeps.trans _ (State.emit_keeps _ _) | with_reducible refine Keeps.ite (fun _ => ?_) (fun _ => ?_) | split | (with_reducible apply Keeps.lit; (on_goal 2 => with_reducible rfl); first | with_reducible exact Keeps.refl _ | with_reducible apply Keeps.trans _ (State.emit_keeps _ _) | with_reducible refine Keeps.ite (fun _ => ?_) (fun _ => ?_) | split))

theorem State.fenceGo_keeps (s : State) (q : Nat) (ld : Nat) : Keeps s (State.fenceGo s q ld) := by
  unfold State.fenceGo
  try dsimp only
  repeat' (first | with_reducible exact Keeps.refl _ | with_reducible assumption | with_reducible apply Keeps.trans _ (State.fenceRead_keeps _ _ _) | with_reducible refine Keeps.ite (fun _ => ?_) (fun _ => ?_) | with_reducible refine Keeps.foldl ?_ (fun _ _ => ?_) | with_reducible refine Keeps.foldl_fst ?_ (fun _ _ => ?_) | with_reducible refine Keeps.foldl_snd ?_ (fun _ _ => ?_) | with_reducible apply Keeps.cond | with_reducible refine Keeps.getD ?_ (fun _ _ => ?_) | split | (with_reducible apply Keeps.lit; (on_goal 2 => with_reducible rfl); first | with_reducible exact Keeps.refl _ | with_reducible assumption | with_reducible apply Keeps.trans _ (State.fenceRead_keeps _ _ _) | with_reducible refine Keeps.ite (fun _ => ?_) (fun _ => ?_) | with_reducible refine Keeps.foldl ?_ (fun _ _ => ?_) | with_reducible refine Keeps.foldl_fst ?_ (fun _ _ => ?_) | with_reducible refine Keeps.foldl_snd ?_ (fun _ _ => ?_) | with_reducible apply Keeps.cond | with_reducible refine Keeps.getD ?_ (fun _ _ => ?_) | split))

theorem State.jobAsk_keeps (s : State) (e : Nat) (ld : Nat) (addr : Nat) (op : ReqOp) (data : BitVec 512) (be : BitVec 64) : Keeps s (State.jobAsk s e ld addr op data be) := by
  unfold State.jobAsk
  try dsimp only
  repeat' (first | with_reducible exact Keeps.refl _ | with_reducible assumption | with_reducible refine Keeps.ite (fun _ => ?_) (fun _ => ?_) | with_reducible refine Keeps.foldl ?_ (fun _ _ => ?_) | with_reducible refine Keeps.foldl_fst ?_ (fun _ _ => ?_) | with_reducible refine Keeps.foldl_snd ?_ (fun _ _ => ?_) | with_reducible apply Keeps.cond | with_reducible refine Keeps.getD ?_ (fun _ _ => ?_) | split | (with_reducible apply Keeps.lit; (on_goal 2 => with_reducible rfl); first | with_reducible exact Keeps.refl _ | with_reducible assumption | with_reducible refine Keeps.ite (fun _ => ?_) (fun _ => ?_) | with_reducible refine Keeps.foldl ?_ (fun _ _ => ?_) | with_reducible refine Keeps.foldl_fst ?_ (fun _ _ => ?_) | with_reducible refine Keeps.foldl_snd ?_ (fun _ _ => ?_) | with_reducible apply Keeps.cond | with_reducible refine Keeps.getD ?_ (fun _ _ => ?_) | split))

theorem State.jobReads_keeps (s : State) (e : Nat) (ld : Nat) (d : BitVec 512) : Keeps s (State.jobReads s e ld d) := by
  unfold State.jobReads
  try dsimp only
  repeat' (first | with_reducible exact Keeps.refl _ | with_reducible assumption | with_reducible apply Keeps.trans _ (State.jobAsk_keeps _ _ _ _ _ _ _) | with_reducible refine Keeps.ite (fun _ => ?_) (fun _ => ?_) | with_reducible refine Keeps.foldl ?_ (fun _ _ => ?_) | with_reducible refine Keeps.foldl_fst ?_ (fun _ _ => ?_) | with_reducible refine Keeps.foldl_snd ?_ (fun _ _ => ?_) | with_reducible apply Keeps.cond | with_reducible refine Keeps.getD ?_ (fun _ _ => ?_) | split | (with_reducible apply Keeps.lit; (on_goal 2 => with_reducible rfl); first | with_reducible exact Keeps.refl _ | with_reducible assumption | with_reducible apply Keeps.trans _ (State.jobAsk_keeps _ _ _ _ _ _ _) | with_reducible refine Keeps.ite (fun _ => ?_) (fun _ => ?_) | with_reducible refine Keeps.foldl ?_ (fun _ _ => ?_) | with_reducible refine Keeps.foldl_fst ?_ (fun _ _ => ?_) | with_reducible refine Keeps.foldl_snd ?_ (fun _ _ => ?_) | with_reducible apply Keeps.cond | with_reducible refine Keeps.getD ?_ (fun _ _ => ?_) | split))

theorem State.jobBegin_keeps (s : State) (e : Nat) (q : Nat) (ld : Nat) (d : BitVec 512) : Keeps s (State.jobBegin s e q ld d) := by
  unfold State.jobBegin
  try dsimp only
  repeat' (first | with_reducible exact Keeps.refl _ | with_reducible assumption | with_reducible apply Keeps.trans _ (State.jobReads_keeps _ _ _ _) | with_reducible apply Keeps.trans _ (State.stn_keeps _ _ _ _) | with_reducible apply Keeps.trans _ (State.takeEngine_keeps _ _ _) | with_reducible apply Keeps.trans _ (State.emit_keeps _ _) | with_reducible refine Keeps.ite (fun _ => ?_) (fun _ => ?_) | with_reducible refine Keeps.foldl ?_ (fun _ _ => ?_) | with_reducible refine Keeps.foldl_fst ?_ (fun _ _ => ?_) | with_reducible refine Keeps.foldl_snd ?_ (fun _ _ => ?_) | with_reducible apply Keeps.cond | with_reducible refine Keeps.getD ?_ (fun _ _ => ?_) | split | (with_reducible apply Keeps.lit; (on_goal 2 => with_reducible rfl); first | with_reducible exact Keeps.refl _ | with_reducible assumption | with_reducible apply Keeps.trans _ (State.jobReads_keeps _ _ _ _) | with_reducible apply Keeps.trans _ (State.stn_keeps _ _ _ _) | with_reducible apply Keeps.trans _ (State.takeEngine_keeps _ _ _) | with_reducible apply Keeps.trans _ (State.emit_keeps _ _) | with_reducible refine Keeps.ite (fun _ => ?_) (fun _ => ?_) | with_reducible refine Keeps.foldl ?_ (fun _ _ => ?_) | with_reducible refine Keeps.foldl_fst ?_ (fun _ _ => ?_) | with_reducible refine Keeps.foldl_snd ?_ (fun _ _ => ?_) | with_reducible apply Keeps.cond | with_reducible refine Keeps.getD ?_ (fun _ _ => ?_) | split))

theorem State.qAdvance_keeps (s : State) (q : Nat) : Keeps s (State.qAdvance s q) := by
  unfold State.qAdvance
  repeat' (first | with_reducible exact Keeps.refl _ | with_reducible apply Keeps.trans _ (State.wr_keeps _ _ _) | (with_reducible apply Keeps.lit; (on_goal 2 => with_reducible rfl); first | with_reducible exact Keeps.refl _ | with_reducible apply Keeps.trans _ (State.wr_keeps _ _ _)))

theorem State.readDesc_keeps (s : State) (q : Nat) : Keeps s (State.readDesc s q) := by
  unfold State.readDesc
  try dsimp only
  repeat' (first | with_reducible exact Keeps.refl _ | with_reducible assumption | with_reducible apply Keeps.trans _ (State.emit_keeps _ _) | with_reducible refine Keeps.ite (fun _ => ?_) (fun _ => ?_) | with_reducible refine Keeps.foldl ?_ (fun _ _ => ?_) | with_reducible refine Keeps.foldl_fst ?_ (fun _ _ => ?_) | with_reducible refine Keeps.foldl_snd ?_ (fun _ _ => ?_) | with_reducible apply Keeps.cond | with_reducible refine Keeps.getD ?_ (fun _ _ => ?_) | split | (with_reducible apply Keeps.lit; (on_goal 2 => with_reducible rfl); first | with_reducible exact Keeps.refl _ | with_reducible assumption | with_reducible apply Keeps.trans _ (State.emit_keeps _ _) | with_reducible refine Keeps.ite (fun _ => ?_) (fun _ => ?_) | with_reducible refine Keeps.foldl ?_ (fun _ _ => ?_) | with_reducible refine Keeps.foldl_fst ?_ (fun _ _ => ?_) | with_reducible refine Keeps.foldl_snd ?_ (fun _ _ => ?_) | with_reducible apply Keeps.cond | with_reducible refine Keeps.getD ?_ (fun _ _ => ?_) | split))

theorem State.descriptorStart_keeps (s : State) (q : Nat) (e : Nat) (d : BitVec 512) : Keeps s (State.descriptorStart s q e d) := by
  unfold State.descriptorStart
  try dsimp only
  repeat' (first | with_reducible exact Keeps.refl _ | with_reducible apply Keeps.trans _ (State.abortOne_keeps _ _ _ _) | with_reducible apply Keeps.trans _ (State.endUnrun_keeps _ _ _ _ _) | with_reducible apply Keeps.trans _ (State.fenceGo_keeps _ _ _) | with_reducible apply Keeps.trans _ (State.jobBegin_keeps _ _ _ _ _) | with_reducible apply Keeps.trans _ (State.qAdvance_keeps _ _) | with_reducible apply Keeps.trans _ (State.readDesc_keeps _ _) | with_reducible apply Keeps.trans _ (State.takeEngine_keeps _ _ _) | with_reducible refine Keeps.ite (fun _ => ?_) (fun _ => ?_) | split | (with_reducible apply Keeps.lit; (on_goal 2 => with_reducible rfl); first | with_reducible exact Keeps.refl _ | with_reducible apply Keeps.trans _ (State.abortOne_keeps _ _ _ _) | with_reducible apply Keeps.trans _ (State.endUnrun_keeps _ _ _ _ _) | with_reducible apply Keeps.trans _ (State.fenceGo_keeps _ _ _) | with_reducible apply Keeps.trans _ (State.jobBegin_keeps _ _ _ _ _) | with_reducible apply Keeps.trans _ (State.qAdvance_keeps _ _) | with_reducible apply Keeps.trans _ (State.readDesc_keeps _ _) | with_reducible apply Keeps.trans _ (State.takeEngine_keeps _ _ _) | with_reducible refine Keeps.ite (fun _ => ?_) (fun _ => ?_) | split))

theorem State.killJobs_keeps (s : State) (i : Nat) : Keeps s (State.killJobs s i) := by
  unfold State.killJobs
  repeat' (first | with_reducible exact Keeps.refl _ | (with_reducible apply Keeps.lit; (on_goal 2 => with_reducible rfl); first | with_reducible exact Keeps.refl _))

theorem State.dropQueues_keeps (s : State) (i : Nat) (abrupt : Bool) : Keeps s (State.dropQueues s i abrupt) := by
  unfold State.dropQueues
  try dsimp only
  repeat' (first | with_reducible exact Keeps.refl _ | with_reducible assumption | with_reducible apply Keeps.trans _ (State.deleteQueue_keeps _ _ _) | with_reducible apply Keeps.trans _ (State.killJobs_keeps _ _) | with_reducible refine Keeps.ite (fun _ => ?_) (fun _ => ?_) | with_reducible refine Keeps.foldl ?_ (fun _ _ => ?_) | split | (with_reducible apply Keeps.lit; (on_goal 2 => with_reducible rfl); first | with_reducible exact Keeps.refl _ | with_reducible assumption | with_reducible apply Keeps.trans _ (State.deleteQueue_keeps _ _ _) | with_reducible apply Keeps.trans _ (State.killJobs_keeps _ _) | with_reducible refine Keeps.ite (fun _ => ?_) (fun _ => ?_) | with_reducible refine Keeps.foldl ?_ (fun _ _ => ?_) | split))

theorem State.finishJob_keeps (s : State) (e : Nat) (q : Nat) (ld : Nat) (d : BitVec 512) (k : Cont) (r : JobRes) : Keeps s (State.finishJob s e q ld d k r) := by
  unfold State.finishJob
  try dsimp only
  repeat' (first | with_reducible exact Keeps.refl _ | with_reducible apply Keeps.trans _ (State.endJob_keeps _ _ _ _ _) | with_reducible apply Keeps.trans _ (State.freeEngine_keeps _ _) | with_reducible apply Keeps.trans _ (State.hostPut_keeps _ _ _ _ _ _) | with_reducible apply Keeps.trans _ (State.verifyFail_keeps _ _ _) | with_reducible apply Keeps.trans _ (State.advanceFree_keeps _) | with_reducible refine Keeps.ite (fun _ => ?_) (fun _ => ?_) | split | (with_reducible apply Keeps.lit; (on_goal 2 => with_reducible rfl); first | with_reducible exact Keeps.refl _ | with_reducible apply Keeps.trans _ (State.endJob_keeps _ _ _ _ _) | with_reducible apply Keeps.trans _ (State.freeEngine_keeps _ _) | with_reducible apply Keeps.trans _ (State.hostPut_keeps _ _ _ _ _ _) | with_reducible apply Keeps.trans _ (State.verifyFail_keeps _ _ _) | with_reducible apply Keeps.trans _ (State.advanceFree_keeps _) | with_reducible refine Keeps.ite (fun _ => ?_) (fun _ => ?_) | split))

theorem State.jobWrites_keeps (s : State) (e : Nat) (ld : Nat) (addr : Nat) (out : List Byte) : Keeps s (State.jobWrites s e ld addr out) := by
  unfold State.jobWrites
  try dsimp only
  repeat' (first | with_reducible exact Keeps.refl _ | with_reducible assumption | with_reducible apply Keeps.trans _ (State.jobAsk_keeps _ _ _ _ _ _ _) | with_reducible refine Keeps.ite (fun _ => ?_) (fun _ => ?_) | with_reducible refine Keeps.foldl ?_ (fun _ _ => ?_) | with_reducible refine Keeps.foldl_fst ?_ (fun _ _ => ?_) | with_reducible refine Keeps.foldl_snd ?_ (fun _ _ => ?_) | with_reducible apply Keeps.cond | with_reducible refine Keeps.getD ?_ (fun _ _ => ?_) | split | (with_reducible apply Keeps.lit; (on_goal 2 => with_reducible rfl); first | with_reducible exact Keeps.refl _ | with_reducible assumption | with_reducible apply Keeps.trans _ (State.jobAsk_keeps _ _ _ _ _ _ _) | with_reducible refine Keeps.ite (fun _ => ?_) (fun _ => ?_) | with_reducible refine Keeps.foldl ?_ (fun _ _ => ?_) | with_reducible refine Keeps.foldl_fst ?_ (fun _ _ => ?_) | with_reducible refine Keeps.foldl_snd ?_ (fun _ _ => ?_) | with_reducible apply Keeps.cond | with_reducible refine Keeps.getD ?_ (fun _ _ => ?_) | split))

theorem State.jobRun_keeps (s : State) (e : Nat) (q : Nat) (ld : Nat) (d : BitVec 512) (j : Job) (env : JobEnv) (k : Cont) : Keeps s (State.jobRun s e q ld d j env k) := by
  unfold State.jobRun
  try dsimp only
  repeat' (first | with_reducible exact Keeps.refl _ | with_reducible assumption | with_reducible apply Keeps.trans _ (State.finishJob_keeps _ _ _ _ _ _ _) | with_reducible apply Keeps.trans _ (State.jobWrites_keeps _ _ _ _ _) | with_reducible refine Keeps.ite (fun _ => ?_) (fun _ => ?_) | with_reducible refine Keeps.foldl ?_ (fun _ _ => ?_) | with_reducible refine Keeps.foldl_fst ?_ (fun _ _ => ?_) | with_reducible refine Keeps.foldl_snd ?_ (fun _ _ => ?_) | with_reducible apply Keeps.cond | with_reducible refine Keeps.getD ?_ (fun _ _ => ?_) | split | (with_reducible apply Keeps.lit; (on_goal 2 => with_reducible rfl); first | with_reducible exact Keeps.refl _ | with_reducible assumption | with_reducible apply Keeps.trans _ (State.finishJob_keeps _ _ _ _ _ _ _) | with_reducible apply Keeps.trans _ (State.jobWrites_keeps _ _ _ _ _) | with_reducible refine Keeps.ite (fun _ => ?_) (fun _ => ?_) | with_reducible refine Keeps.foldl ?_ (fun _ _ => ?_) | with_reducible refine Keeps.foldl_fst ?_ (fun _ _ => ?_) | with_reducible refine Keeps.foldl_snd ?_ (fun _ _ => ?_) | with_reducible apply Keeps.cond | with_reducible refine Keeps.getD ?_ (fun _ _ => ?_) | split))

theorem State.jobEnds_keeps (s : State) (e : Nat) (q : Nat) (ld : Nat) (d : BitVec 512) (env : JobEnv) : Keeps s (State.jobEnds s e q ld d env) := by
  unfold State.jobEnds
  try dsimp only
  repeat' (first | with_reducible exact Keeps.refl _ | with_reducible assumption | with_reducible apply Keeps.trans _ (State.endUnrun_keeps _ _ _ _ _) | with_reducible apply Keeps.trans _ (State.finishJob_keeps _ _ _ _ _ _ _) | with_reducible apply Keeps.trans _ (State.freeEngine_keeps _ _) | with_reducible apply Keeps.trans _ (State.jobRun_keeps _ _ _ _ _ _ _ _) | with_reducible refine Keeps.ite (fun _ => ?_) (fun _ => ?_) | with_reducible refine Keeps.foldl ?_ (fun _ _ => ?_) | with_reducible refine Keeps.foldl_fst ?_ (fun _ _ => ?_) | with_reducible refine Keeps.foldl_snd ?_ (fun _ _ => ?_) | with_reducible apply Keeps.cond | with_reducible refine Keeps.getD ?_ (fun _ _ => ?_) | split | (with_reducible apply Keeps.lit; (on_goal 2 => with_reducible rfl); first | with_reducible exact Keeps.refl _ | with_reducible assumption | with_reducible apply Keeps.trans _ (State.endUnrun_keeps _ _ _ _ _) | with_reducible apply Keeps.trans _ (State.finishJob_keeps _ _ _ _ _ _ _) | with_reducible apply Keeps.trans _ (State.freeEngine_keeps _ _) | with_reducible apply Keeps.trans _ (State.jobRun_keeps _ _ _ _ _ _ _ _) | with_reducible refine Keeps.ite (fun _ => ?_) (fun _ => ?_) | with_reducible refine Keeps.foldl ?_ (fun _ _ => ?_) | with_reducible refine Keeps.foldl_fst ?_ (fun _ _ => ?_) | with_reducible refine Keeps.foldl_snd ?_ (fun _ _ => ?_) | with_reducible apply Keeps.cond | with_reducible refine Keeps.getD ?_ (fun _ _ => ?_) | split))

theorem State.jobComplete_keeps (s : State) (e : Nat) (env : JobEnv) : Keeps s (State.jobComplete s e env) := by
  unfold State.jobComplete
  try dsimp only
  repeat' (first | with_reducible exact Keeps.refl _ | with_reducible apply Keeps.trans _ (State.fenceGo_keeps _ _ _) | with_reducible apply Keeps.trans _ (State.jobEnds_keeps _ _ _ _ _ _) | with_reducible refine Keeps.ite (fun _ => ?_) (fun _ => ?_) | split | (with_reducible apply Keeps.lit; (on_goal 2 => with_reducible rfl); first | with_reducible exact Keeps.refl _ | with_reducible apply Keeps.trans _ (State.fenceGo_keeps _ _ _) | with_reducible apply Keeps.trans _ (State.jobEnds_keeps _ _ _ _ _ _) | with_reducible refine Keeps.ite (fun _ => ?_) (fun _ => ?_) | split))

theorem State.postTail_keeps (s : State) (q : Nat) (v : Nat) : Keeps s (State.postTail s q v) := by
  unfold State.postTail
  try dsimp only
  repeat' (first | with_reducible exact Keeps.refl _ | with_reducible assumption | with_reducible apply Keeps.trans _ (State.wr_keeps _ _ _) | with_reducible refine Keeps.ite (fun _ => ?_) (fun _ => ?_) | with_reducible refine Keeps.foldl ?_ (fun _ _ => ?_) | with_reducible refine Keeps.foldl_fst ?_ (fun _ _ => ?_) | with_reducible refine Keeps.foldl_snd ?_ (fun _ _ => ?_) | with_reducible apply Keeps.cond | with_reducible refine Keeps.getD ?_ (fun _ _ => ?_) | split | (with_reducible apply Keeps.lit; (on_goal 2 => with_reducible rfl); first | with_reducible exact Keeps.refl _ | with_reducible assumption | with_reducible apply Keeps.trans _ (State.wr_keeps _ _ _) | with_reducible refine Keeps.ite (fun _ => ?_) (fun _ => ?_) | with_reducible refine Keeps.foldl ?_ (fun _ _ => ?_) | with_reducible refine Keeps.foldl_fst ?_ (fun _ _ => ?_) | with_reducible refine Keeps.foldl_snd ?_ (fun _ _ => ?_) | with_reducible apply Keeps.cond | with_reducible refine Keeps.getD ?_ (fun _ _ => ?_) | split))

end Sys2Proof.Machine
end

