-- ==== Sys2Proof/Laws/KeepsQos.lean ====
section
/-! SUPPORT. Every operation of Machine/Qos.lean keeps what `Keeps` says: one lemma for each. -/
namespace Sys2Proof.Machine
set_option linter.unreachableTactic false
set_option linter.unusedTactic false

theorem State.closeClass_keeps (s : State) (k : Nat) (c : Nat) : Keeps s (State.closeClass s k c) := by
  unfold State.closeClass
  try dsimp only
  repeat' (first | with_reducible exact Keeps.refl _ | with_reducible apply Keeps.trans _ (State.raise_keeps _ _ _ _) | with_reducible apply Keeps.trans _ (State.sat_keeps _ _ _) | with_reducible apply Keeps.trans _ (State.wr_keeps _ _ _) | with_reducible refine Keeps.ite (fun _ => ?_) (fun _ => ?_) | split | (with_reducible apply Keeps.lit; (on_goal 2 => with_reducible rfl); first | with_reducible exact Keeps.refl _ | with_reducible apply Keeps.trans _ (State.raise_keeps _ _ _ _) | with_reducible apply Keeps.trans _ (State.sat_keeps _ _ _) | with_reducible apply Keeps.trans _ (State.wr_keeps _ _ _) | with_reducible refine Keeps.ite (fun _ => ?_) (fun _ => ?_) | split))

theorem State.shedAll_keeps (s : State) (fuel : Nat) : Keeps s (State.shedAll s fuel) := by
  induction fuel generalizing s with
  | zero => exact Keeps.refl _
  | succ k ih =>
    unfold State.shedAll
    refine Keeps.ite (fun _ => Keeps.refl _) (fun _ => ?_)
    split
    · exact Keeps.refl _
    · exact ((State.setFlag_keeps _ _ _).trans (State.raise_keeps _ _ _ _)).trans (ih _)

theorem State.showG_keeps (s : State) : Keeps s (State.showG s) := by
  unfold State.showG
  try dsimp only
  repeat' (first | with_reducible exact Keeps.refl _ | with_reducible assumption | with_reducible apply Keeps.trans _ (State.setFlag_keeps _ _ _) | with_reducible apply Keeps.trans _ (State.wr_keeps _ _ _) | with_reducible refine Keeps.ite (fun _ => ?_) (fun _ => ?_) | with_reducible refine Keeps.foldl ?_ (fun _ _ => ?_) | split | (with_reducible apply Keeps.lit; (on_goal 2 => with_reducible rfl); first | with_reducible exact Keeps.refl _ | with_reducible assumption | with_reducible apply Keeps.trans _ (State.setFlag_keeps _ _ _) | with_reducible apply Keeps.trans _ (State.wr_keeps _ _ _) | with_reducible refine Keeps.ite (fun _ => ?_) (fun _ => ?_) | with_reducible refine Keeps.foldl ?_ (fun _ _ => ?_) | split))

theorem State.gRecompute_keeps (s : State) : Keeps s (State.gRecompute s) := by
  unfold State.gRecompute
  try dsimp only
  repeat' (first | with_reducible exact Keeps.refl _ | with_reducible apply Keeps.trans _ (State.raise_keeps _ _ _ _) | with_reducible apply Keeps.trans _ (State.shedAll_keeps _ _) | with_reducible apply Keeps.trans _ (State.showG_keeps _) | with_reducible refine Keeps.ite (fun _ => ?_) (fun _ => ?_) | split | (with_reducible apply Keeps.lit; (on_goal 2 => with_reducible rfl); first | with_reducible exact Keeps.refl _ | with_reducible apply Keeps.trans _ (State.raise_keeps _ _ _ _) | with_reducible apply Keeps.trans _ (State.shedAll_keeps _ _) | with_reducible apply Keeps.trans _ (State.showG_keeps _) | with_reducible refine Keeps.ite (fun _ => ?_) (fun _ => ?_) | split))

theorem State.restoreAll_keeps (s : State) (fuel : Nat) : Keeps s (State.restoreAll s fuel) := by
  induction fuel generalizing s with
  | zero => exact Keeps.refl _
  | succ k ih =>
    unfold State.restoreAll
    split
    · exact Keeps.refl _
    · refine Keeps.ite (fun _ => ?_) (fun _ => Keeps.refl _)
      exact ((State.setFlag_keeps _ _ _).trans (State.raise_keeps _ _ _ _)).trans (ih _)

theorem State.shiftWindow_keeps (s : State) : Keeps s (State.shiftWindow s) := by
  unfold State.shiftWindow
  repeat' (first | with_reducible exact Keeps.refl _ | with_reducible apply Keeps.trans _ (State.noteHeads_keeps _) | (with_reducible apply Keeps.lit; (on_goal 2 => with_reducible rfl); first | with_reducible exact Keeps.refl _ | with_reducible apply Keeps.trans _ (State.noteHeads_keeps _)))

theorem State.windowClose_keeps (s : State) : Keeps s (State.windowClose s) := by
  unfold State.windowClose
  try dsimp only
  repeat' (first | with_reducible exact Keeps.refl _ | with_reducible assumption | with_reducible apply Keeps.trans _ (State.closeClass_keeps _ _ _) | with_reducible apply Keeps.trans _ (State.restoreAll_keeps _ _) | with_reducible apply Keeps.trans _ (State.shiftWindow_keeps _) | with_reducible refine Keeps.ite (fun _ => ?_) (fun _ => ?_) | with_reducible refine Keeps.foldl ?_ (fun _ _ => ?_) | with_reducible refine Keeps.foldl_fst ?_ (fun _ _ => ?_) | with_reducible refine Keeps.foldl_snd ?_ (fun _ _ => ?_) | with_reducible apply Keeps.cond | with_reducible refine Keeps.getD ?_ (fun _ _ => ?_) | split | (with_reducible apply Keeps.lit; (on_goal 2 => with_reducible rfl); first | with_reducible exact Keeps.refl _ | with_reducible assumption | with_reducible apply Keeps.trans _ (State.closeClass_keeps _ _ _) | with_reducible apply Keeps.trans _ (State.restoreAll_keeps _ _) | with_reducible apply Keeps.trans _ (State.shiftWindow_keeps _) | with_reducible refine Keeps.ite (fun _ => ?_) (fun _ => ?_) | with_reducible refine Keeps.foldl ?_ (fun _ _ => ?_) | with_reducible refine Keeps.foldl_fst ?_ (fun _ _ => ?_) | with_reducible refine Keeps.foldl_snd ?_ (fun _ _ => ?_) | with_reducible apply Keeps.cond | with_reducible refine Keeps.getD ?_ (fun _ _ => ?_) | split))

end Sys2Proof.Machine
end

