-- ==== Sys2Proof/Laws/KeepsTraining.lean ====
section
/-! SUPPORT. Every operation of Machine/Training.lean keeps what `Keeps` says: one lemma for each. -/
namespace Sys2Proof.Machine
set_option linter.unreachableTactic false
set_option linter.unusedTactic false

theorem State.showEye_keeps (s : State) (c : Nat) (n : Nat) (rdW : Nat) (wrW : Nat) (rdH : Nat) (wrH : Nat) : Keeps s (State.showEye s c n rdW wrW rdH wrH) := by
  unfold State.showEye
  repeat' (first | with_reducible exact Keeps.refl _ | with_reducible apply Keeps.trans _ (State.wr_keeps _ _ _))

theorem State.followLane_keeps (s : State) (c : Nat) (n : Nat) (e : LaneEdges) : Keeps s (State.followLane s c n e) := by
  unfold State.followLane
  repeat' (first | with_reducible exact Keeps.refl _ | with_reducible apply Keeps.trans _ (State.showEye_keeps _ _ _ _ _ _ _) | with_reducible apply Keeps.trans _ (State.updCh_keeps _ _ _))

theorem State.needSweep_keeps (s : State) (c : Nat) : Keeps s (State.needSweep s c) := by
  unfold State.needSweep
  repeat' (first | with_reducible exact Keeps.refl _ | with_reducible apply Keeps.trans _ (State.updCh_keeps _ _ _) | with_reducible apply Keeps.trans _ (State.wr_keeps _ _ _) | (with_reducible apply Keeps.lit; (on_goal 2 => with_reducible rfl); first | with_reducible exact Keeps.refl _ | with_reducible apply Keeps.trans _ (State.updCh_keeps _ _ _) | with_reducible apply Keeps.trans _ (State.wr_keeps _ _ _)))

theorem State.trainDone_keeps (s : State) (c : Nat) (fast : Bool) : Keeps s (State.trainDone s c fast) := by
  unfold State.trainDone
  try dsimp only
  repeat' (first | with_reducible exact Keeps.refl _ | with_reducible apply Keeps.trans _ (State.bootGoesOn_keeps _) | with_reducible apply Keeps.trans _ (State.setFlag_keeps _ _ _) | with_reducible apply Keeps.trans _ (State.updCh_keeps _ _ _) | with_reducible apply Keeps.trans _ (State.wr_keeps _ _ _) | with_reducible refine Keeps.ite (fun _ => ?_) (fun _ => ?_) | split | (with_reducible apply Keeps.lit; (on_goal 2 => with_reducible rfl); first | with_reducible exact Keeps.refl _ | with_reducible apply Keeps.trans _ (State.bootGoesOn_keeps _) | with_reducible apply Keeps.trans _ (State.setFlag_keeps _ _ _) | with_reducible apply Keeps.trans _ (State.updCh_keeps _ _ _) | with_reducible apply Keeps.trans _ (State.wr_keeps _ _ _) | with_reducible refine Keeps.ite (fun _ => ?_) (fun _ => ?_) | split))

theorem State.fastCheck_keeps (s : State) (c : Nat) (edges : List LaneEdges) : Keeps s (State.fastCheck s c edges) := by
  unfold State.fastCheck
  try dsimp only
  repeat' (first | with_reducible exact Keeps.refl _ | with_reducible assumption | with_reducible apply Keeps.trans _ (State.followLane_keeps _ _ _ _) | with_reducible apply Keeps.trans _ (State.needSweep_keeps _ _) | with_reducible apply Keeps.trans _ (State.trainDone_keeps _ _ _) | with_reducible apply Keeps.trans _ (State.updCh_keeps _ _ _) | with_reducible refine Keeps.ite (fun _ => ?_) (fun _ => ?_) | with_reducible refine Keeps.foldl ?_ (fun _ _ => ?_) | split | (with_reducible apply Keeps.lit; (on_goal 2 => with_reducible rfl); first | with_reducible exact Keeps.refl _ | with_reducible assumption | with_reducible apply Keeps.trans _ (State.followLane_keeps _ _ _ _) | with_reducible apply Keeps.trans _ (State.needSweep_keeps _ _) | with_reducible apply Keeps.trans _ (State.trainDone_keeps _ _ _) | with_reducible apply Keeps.trans _ (State.updCh_keeps _ _ _) | with_reducible refine Keeps.ite (fun _ => ?_) (fun _ => ?_) | with_reducible refine Keeps.foldl ?_ (fun _ _ => ?_) | split))

theorem State.marginCheck_keeps (s : State) (c : Nat) (n : Nat) (e : LaneEdges) : Keeps s (State.marginCheck s c n e) := by
  unfold State.marginCheck
  try dsimp only
  repeat' (first | with_reducible exact Keeps.refl _ | with_reducible apply Keeps.trans _ (State.raiseCh_keeps _ _ _ _ _) | with_reducible apply Keeps.trans _ (State.setFlag_keeps _ _ _) | with_reducible refine Keeps.ite (fun _ => ?_) (fun _ => ?_) | split | (with_reducible apply Keeps.lit; (on_goal 2 => with_reducible rfl); first | with_reducible exact Keeps.refl _ | with_reducible apply Keeps.trans _ (State.raiseCh_keeps _ _ _ _ _) | with_reducible apply Keeps.trans _ (State.setFlag_keeps _ _ _) | with_reducible refine Keeps.ite (fun _ => ?_) (fun _ => ?_) | split))

theorem State.readTemp_keeps (s : State) (c : Nat) (t : Int) : Keeps s (State.readTemp s c t) := by
  unfold State.readTemp
  try dsimp only
  repeat' (first | with_reducible exact Keeps.refl _ | with_reducible apply Keeps.trans _ (State.updCh_keeps _ _ _) | with_reducible apply Keeps.trans _ (State.wr_keeps _ _ _) | with_reducible refine Keeps.ite (fun _ => ?_) (fun _ => ?_) | split | (with_reducible apply Keeps.lit; (on_goal 2 => with_reducible rfl); first | with_reducible exact Keeps.refl _ | with_reducible apply Keeps.trans _ (State.updCh_keeps _ _ _) | with_reducible apply Keeps.trans _ (State.wr_keeps _ _ _) | with_reducible refine Keeps.ite (fun _ => ?_) (fun _ => ?_) | split))

theorem State.recalCe_keeps (s : State) (c : Nat) (lr : Nat) (sub : Nat) (x : RecalCe) : Keeps s (State.recalCe s c lr sub x) := by
  unfold State.recalCe
  try dsimp only
  repeat' (first | with_reducible exact Keeps.refl _ | with_reducible assumption | with_reducible apply Keeps.trans _ (State.corrected_keeps _ _ _ _ _ _) | with_reducible refine Keeps.ite (fun _ => ?_) (fun _ => ?_) | with_reducible refine Keeps.foldl ?_ (fun _ _ => ?_) | with_reducible refine Keeps.foldl_fst ?_ (fun _ _ => ?_) | with_reducible refine Keeps.foldl_snd ?_ (fun _ _ => ?_) | with_reducible apply Keeps.cond | with_reducible refine Keeps.getD ?_ (fun _ _ => ?_) | split | (with_reducible apply Keeps.lit; (on_goal 2 => with_reducible rfl); first | with_reducible exact Keeps.refl _ | with_reducible assumption | with_reducible apply Keeps.trans _ (State.corrected_keeps _ _ _ _ _ _) | with_reducible refine Keeps.ite (fun _ => ?_) (fun _ => ?_) | with_reducible refine Keeps.foldl ?_ (fun _ _ => ?_) | with_reducible refine Keeps.foldl_fst ?_ (fun _ _ => ?_) | with_reducible refine Keeps.foldl_snd ?_ (fun _ _ => ?_) | with_reducible apply Keeps.cond | with_reducible refine Keeps.getD ?_ (fun _ _ => ?_) | split))

theorem State.visitSets_keeps (s : State) (c : Nat) : Keeps s (State.visitSets s c) := by
  unfold State.visitSets
  try dsimp only
  repeat' (first | with_reducible exact Keeps.refl _ | with_reducible assumption | with_reducible apply Keeps.trans _ (State.wrBit_keeps _ _ _ _) | with_reducible refine Keeps.ite (fun _ => ?_) (fun _ => ?_) | with_reducible refine Keeps.foldl ?_ (fun _ _ => ?_) | split | (with_reducible apply Keeps.lit; (on_goal 2 => with_reducible rfl); first | with_reducible exact Keeps.refl _ | with_reducible assumption | with_reducible apply Keeps.trans _ (State.wrBit_keeps _ _ _ _) | with_reducible refine Keeps.ite (fun _ => ?_) (fun _ => ?_) | with_reducible refine Keeps.foldl ?_ (fun _ _ => ?_) | split))

theorem State.recalGroup_keeps (s : State) (c : Nat) (lr : Nat) (sub : Nat) (edges : List LaneEdges) (clks : Nat) (ces : List RecalCe) : Keeps s (State.recalGroup s c lr sub edges clks ces) := by
  unfold State.recalGroup
  try dsimp only
  repeat' (first | with_reducible exact Keeps.refl _ | with_reducible assumption | with_reducible apply Keeps.trans _ (State.cnt_keeps _ _ _ _) | with_reducible apply Keeps.trans _ (State.followLane_keeps _ _ _ _) | with_reducible apply Keeps.trans _ (State.marginCheck_keeps _ _ _ _) | with_reducible apply Keeps.trans _ (State.recalCe_keeps _ _ _ _ _) | with_reducible apply Keeps.trans _ (State.stn_keeps _ _ _ _) | with_reducible apply Keeps.trans _ (State.updCh_keeps _ _ _) | with_reducible apply Keeps.trans _ (State.visitSets_keeps _ _) | with_reducible refine Keeps.ite (fun _ => ?_) (fun _ => ?_) | with_reducible refine Keeps.foldl ?_ (fun _ _ => ?_) | split | (with_reducible apply Keeps.lit; (on_goal 2 => with_reducible rfl); first | with_reducible exact Keeps.refl _ | with_reducible assumption | with_reducible apply Keeps.trans _ (State.cnt_keeps _ _ _ _) | with_reducible apply Keeps.trans _ (State.followLane_keeps _ _ _ _) | with_reducible apply Keeps.trans _ (State.marginCheck_keeps _ _ _ _) | with_reducible apply Keeps.trans _ (State.recalCe_keeps _ _ _ _ _) | with_reducible apply Keeps.trans _ (State.stn_keeps _ _ _ _) | with_reducible apply Keeps.trans _ (State.updCh_keeps _ _ _) | with_reducible apply Keeps.trans _ (State.visitSets_keeps _ _) | with_reducible refine Keeps.ite (fun _ => ?_) (fun _ => ?_) | with_reducible refine Keeps.foldl ?_ (fun _ _ => ?_) | split))

theorem State.recalForced_keeps (s : State) (c : Nat) (lr : Nat) (sub : Nat) (edges : List LaneEdges) (clks : Nat) (ces : List RecalCe) : Keeps s (State.recalForced s c lr sub edges clks ces) := by
  unfold State.recalForced
  try dsimp only
  repeat' (first | with_reducible exact Keeps.refl _ | with_reducible apply Keeps.trans _ (State.recalGroup_keeps _ _ _ _ _ _ _) | with_reducible apply Keeps.trans _ (State.sat_keeps _ _ _) | with_reducible refine Keeps.ite (fun _ => ?_) (fun _ => ?_) | split | (with_reducible apply Keeps.lit; (on_goal 2 => with_reducible rfl); first | with_reducible exact Keeps.refl _ | with_reducible apply Keeps.trans _ (State.recalGroup_keeps _ _ _ _ _ _ _) | with_reducible apply Keeps.trans _ (State.sat_keeps _ _ _) | with_reducible refine Keeps.ite (fun _ => ?_) (fun _ => ?_) | split))

theorem State.recalPass_keeps (s : State) (c : Nat) (lr : Nat) (sub : Nat) (edges : List LaneEdges) (clks : Nat) (ces : List RecalCe) : Keeps s (State.recalPass s c lr sub edges clks ces) := by
  unfold State.recalPass
  try dsimp only
  repeat' (first | with_reducible exact Keeps.refl _ | with_reducible apply Keeps.trans _ (State.recalGroup_keeps _ _ _ _ _ _ _) | with_reducible refine Keeps.ite (fun _ => ?_) (fun _ => ?_) | split | (with_reducible apply Keeps.lit; (on_goal 2 => with_reducible rfl); first | with_reducible exact Keeps.refl _ | with_reducible apply Keeps.trans _ (State.recalGroup_keeps _ _ _ _ _ _ _) | with_reducible refine Keeps.ite (fun _ => ?_) (fun _ => ?_) | split))

theorem State.sampleTemp_keeps (s : State) (c : Nat) (temp : Option Int) : Keeps s (State.sampleTemp s c temp) := by
  unfold State.sampleTemp
  try dsimp only
  repeat' (first | with_reducible exact Keeps.refl _ | with_reducible assumption | with_reducible apply Keeps.trans _ (State.noteSensor_keeps _ _ _) | with_reducible apply Keeps.trans _ (State.readTemp_keeps _ _ _) | with_reducible refine Keeps.ite (fun _ => ?_) (fun _ => ?_) | with_reducible refine Keeps.foldl ?_ (fun _ _ => ?_) | with_reducible refine Keeps.foldl_fst ?_ (fun _ _ => ?_) | with_reducible refine Keeps.foldl_snd ?_ (fun _ _ => ?_) | with_reducible apply Keeps.cond | with_reducible refine Keeps.getD ?_ (fun _ _ => ?_) | split | (with_reducible apply Keeps.lit; (on_goal 2 => with_reducible rfl); first | with_reducible exact Keeps.refl _ | with_reducible assumption | with_reducible apply Keeps.trans _ (State.noteSensor_keeps _ _ _) | with_reducible apply Keeps.trans _ (State.readTemp_keeps _ _ _) | with_reducible refine Keeps.ite (fun _ => ?_) (fun _ => ?_) | with_reducible refine Keeps.foldl ?_ (fun _ _ => ?_) | with_reducible refine Keeps.foldl_fst ?_ (fun _ _ => ?_) | with_reducible refine Keeps.foldl_snd ?_ (fun _ _ => ?_) | with_reducible apply Keeps.cond | with_reducible refine Keeps.getD ?_ (fun _ _ => ?_) | split))

theorem State.trainFail_keeps (s : State) (c : Nat) (lane : Nat) : Keeps s (State.trainFail s c lane) := by
  unfold State.trainFail
  repeat' (first | with_reducible exact Keeps.refl _ | with_reducible apply Keeps.trans _ (State.bootGoesOn_keeps _) | with_reducible apply Keeps.trans _ (State.raiseCh_keeps _ _ _ _ _) | with_reducible apply Keeps.trans _ (State.setFlag_keeps _ _ _) | with_reducible apply Keeps.trans _ (State.wr_keeps _ _ _) | (with_reducible apply Keeps.lit; (on_goal 2 => with_reducible rfl); first | with_reducible exact Keeps.refl _ | with_reducible apply Keeps.trans _ (State.bootGoesOn_keeps _) | with_reducible apply Keeps.trans _ (State.raiseCh_keeps _ _ _ _ _) | with_reducible apply Keeps.trans _ (State.setFlag_keeps _ _ _) | with_reducible apply Keeps.trans _ (State.wr_keeps _ _ _)))

theorem State.writeLane_keeps (s : State) (c : Nat) (n : Nat) (e : EyeRes × EyeRes) : Keeps s (State.writeLane s c n e) := by
  unfold State.writeLane
  repeat' (first | with_reducible exact Keeps.refl _ | with_reducible apply Keeps.trans _ (State.showEye_keeps _ _ _ _ _ _ _) | with_reducible apply Keeps.trans _ (State.updCh_keeps _ _ _))

theorem State.trainRank_keeps (s : State) (c : Nat) (lr : Nat) (t : Int) (first : SweepTry) (second : SweepTry) : Keeps s (State.trainRank s c lr t first second) := by
  unfold State.trainRank
  try dsimp only
  repeat' (first | with_reducible exact Keeps.refl _ | with_reducible assumption | with_reducible apply Keeps.trans _ (State.stn_keeps _ _ _ _) | with_reducible apply Keeps.trans _ (State.trainDone_keeps _ _ _) | with_reducible apply Keeps.trans _ (State.trainFail_keeps _ _ _) | with_reducible apply Keeps.trans _ (State.wr_keeps _ _ _) | with_reducible apply Keeps.trans _ (State.writeLane_keeps _ _ _ _) | with_reducible refine Keeps.ite (fun _ => ?_) (fun _ => ?_) | with_reducible refine Keeps.foldl ?_ (fun _ _ => ?_) | with_reducible refine Keeps.foldl_fst ?_ (fun _ _ => ?_) | with_reducible refine Keeps.foldl_snd ?_ (fun _ _ => ?_) | with_reducible apply Keeps.cond | with_reducible refine Keeps.getD ?_ (fun _ _ => ?_) | split | (with_reducible apply Keeps.lit; (on_goal 2 => with_reducible rfl); first | with_reducible exact Keeps.refl _ | with_reducible assumption | with_reducible apply Keeps.trans _ (State.stn_keeps _ _ _ _) | with_reducible apply Keeps.trans _ (State.trainDone_keeps _ _ _) | with_reducible apply Keeps.trans _ (State.trainFail_keeps _ _ _) | with_reducible apply Keeps.trans _ (State.wr_keeps _ _ _) | with_reducible apply Keeps.trans _ (State.writeLane_keeps _ _ _ _) | with_reducible refine Keeps.ite (fun _ => ?_) (fun _ => ?_) | with_reducible refine Keeps.foldl ?_ (fun _ _ => ?_) | with_reducible refine Keeps.foldl_fst ?_ (fun _ _ => ?_) | with_reducible refine Keeps.foldl_snd ?_ (fun _ _ => ?_) | with_reducible apply Keeps.cond | with_reducible refine Keeps.getD ?_ (fun _ _ => ?_) | split))

end Sys2Proof.Machine
end

