-- ==== Sys2Proof/Laws/KeepsGraft.lean ====
section
/-! SUPPORT. Every operation of Machine/Graft.lean keeps what `Keeps` says: one lemma for each. -/
namespace Sys2Proof.Machine
set_option linter.unreachableTactic false
set_option linter.unusedTactic false

theorem State.sendUnit_keeps (s : State) (g : Nat) (ty : Nat) (kind : Nat) (start : Nat) (width : Nat) (payload : List Byte) : Keeps s (State.sendUnit s g ty kind start width payload) := by
  unfold State.sendUnit
  try dsimp only
  repeat' (first | with_reducible exact Keeps.refl _ | with_reducible assumption | with_reducible apply Keeps.trans _ (State.cnt_keeps _ _ _ _) | with_reducible apply Keeps.trans _ (State.stn_keeps _ _ _ _) | with_reducible apply Keeps.trans _ (State.updGp_keeps _ _ _) | with_reducible apply Keeps.trans _ (State.emit_keeps _ _) | with_reducible refine Keeps.ite (fun _ => ?_) (fun _ => ?_) | with_reducible refine Keeps.foldl ?_ (fun _ _ => ?_) | with_reducible refine Keeps.foldl_fst ?_ (fun _ _ => ?_) | with_reducible refine Keeps.foldl_snd ?_ (fun _ _ => ?_) | with_reducible apply Keeps.cond | with_reducible refine Keeps.getD ?_ (fun _ _ => ?_) | split | (with_reducible apply Keeps.lit; (on_goal 2 => with_reducible rfl); first | with_reducible exact Keeps.refl _ | with_reducible assumption | with_reducible apply Keeps.trans _ (State.cnt_keeps _ _ _ _) | with_reducible apply Keeps.trans _ (State.stn_keeps _ _ _ _) | with_reducible apply Keeps.trans _ (State.updGp_keeps _ _ _) | with_reducible apply Keeps.trans _ (State.emit_keeps _ _) | with_reducible refine Keeps.ite (fun _ => ?_) (fun _ => ?_) | with_reducible refine Keeps.foldl ?_ (fun _ _ => ?_) | with_reducible refine Keeps.foldl_fst ?_ (fun _ _ => ?_) | with_reducible refine Keeps.foldl_snd ?_ (fun _ _ => ?_) | with_reducible apply Keeps.cond | with_reducible refine Keeps.getD ?_ (fun _ _ => ?_) | split))

theorem State.sendAck_keeps (s : State) (g : Nat) : Keeps s (State.sendAck s g) := by
  unfold State.sendAck
  repeat' (first | with_reducible exact Keeps.refl _ | with_reducible apply Keeps.trans _ (State.sendUnit_keeps _ _ _ _ _ _ _))

theorem State.ackTimer_keeps (s : State) (g : Nat) : Keeps s (State.ackTimer s g) := by
  unfold State.ackTimer
  try dsimp only
  repeat' (first | with_reducible exact Keeps.refl _ | with_reducible apply Keeps.trans _ (State.sendAck_keeps _ _) | with_reducible refine Keeps.ite (fun _ => ?_) (fun _ => ?_) | split | (with_reducible apply Keeps.lit; (on_goal 2 => with_reducible rfl); first | with_reducible exact Keeps.refl _ | with_reducible apply Keeps.trans _ (State.sendAck_keeps _ _) | with_reducible refine Keeps.ite (fun _ => ?_) (fun _ => ?_) | split))

theorem State.applyAck_keeps (s : State) (g : Nat) (a : Nat) : Keeps s (State.applyAck s g a) := by
  unfold State.applyAck
  try dsimp only
  repeat' (first | with_reducible exact Keeps.refl _ | with_reducible apply Keeps.trans _ (State.updGp_keeps _ _ _) | with_reducible apply Keeps.trans _ (State.wr_keeps _ _ _) | with_reducible refine Keeps.ite (fun _ => ?_) (fun _ => ?_) | split | (with_reducible apply Keeps.lit; (on_goal 2 => with_reducible rfl); first | with_reducible exact Keeps.refl _ | with_reducible apply Keeps.trans _ (State.updGp_keeps _ _ _) | with_reducible apply Keeps.trans _ (State.wr_keeps _ _ _) | with_reducible refine Keeps.ite (fun _ => ?_) (fun _ => ?_) | split))

theorem State.enterRetrain_keeps (s : State) (g : Nat) : Keeps s (State.enterRetrain s g) := by
  unfold State.enterRetrain
  try dsimp only
  repeat' (first | with_reducible exact Keeps.refl _ | with_reducible apply Keeps.trans _ (State.sat_keeps _ _ _) | with_reducible apply Keeps.trans _ (State.setFlag_keeps _ _ _) | with_reducible apply Keeps.trans _ (State.stn_keeps _ _ _ _) | with_reducible apply Keeps.trans _ (State.wr_keeps _ _ _) | with_reducible refine Keeps.ite (fun _ => ?_) (fun _ => ?_) | split | (with_reducible apply Keeps.lit; (on_goal 2 => with_reducible rfl); first | with_reducible exact Keeps.refl _ | with_reducible apply Keeps.trans _ (State.sat_keeps _ _ _) | with_reducible apply Keeps.trans _ (State.setFlag_keeps _ _ _) | with_reducible apply Keeps.trans _ (State.stn_keeps _ _ _ _) | with_reducible apply Keeps.trans _ (State.wr_keeps _ _ _) | with_reducible refine Keeps.ite (fun _ => ?_) (fun _ => ?_) | split))

theorem State.follow_keeps (s : State) (g : Nat) (w : Option Nat) : Keeps s (State.follow s g w) := by
  unfold State.follow
  try dsimp only
  repeat' (first | with_reducible exact Keeps.refl _ | with_reducible assumption | with_reducible apply Keeps.trans _ (State.updGp_keeps _ _ _) | with_reducible refine Keeps.ite (fun _ => ?_) (fun _ => ?_) | with_reducible refine Keeps.foldl ?_ (fun _ _ => ?_) | with_reducible refine Keeps.foldl_fst ?_ (fun _ _ => ?_) | with_reducible refine Keeps.foldl_snd ?_ (fun _ _ => ?_) | with_reducible apply Keeps.cond | with_reducible refine Keeps.getD ?_ (fun _ _ => ?_) | split | (with_reducible apply Keeps.lit; (on_goal 2 => with_reducible rfl); first | with_reducible exact Keeps.refl _ | with_reducible assumption | with_reducible apply Keeps.trans _ (State.updGp_keeps _ _ _) | with_reducible refine Keeps.ite (fun _ => ?_) (fun _ => ?_) | with_reducible refine Keeps.foldl ?_ (fun _ _ => ?_) | with_reducible refine Keeps.foldl_fst ?_ (fun _ _ => ?_) | with_reducible refine Keeps.foldl_snd ?_ (fun _ _ => ?_) | with_reducible apply Keeps.cond | with_reducible refine Keeps.getD ?_ (fun _ _ => ?_) | split))

theorem State.showLeases_keeps (s : State) : Keeps s (State.showLeases s) := by
  unfold State.showLeases
  repeat' (first | with_reducible exact Keeps.refl _ | with_reducible apply Keeps.trans _ (State.wr_keeps _ _ _))

theorem State.freeLease_keeps (s : State) (l : Nat) : Keeps s (State.freeLease s l) := by
  unfold State.freeLease
  repeat' (first | with_reducible exact Keeps.refl _ | with_reducible apply Keeps.trans _ (State.pressure_keeps _) | with_reducible apply Keeps.trans _ (State.setDword_keeps _ _ _) | with_reducible apply Keeps.trans _ (State.showLeases_keeps _) | with_reducible apply Keeps.trans _ (State.setWord_keeps _ _ _) | (with_reducible apply Keeps.lit; (on_goal 2 => with_reducible rfl); first | with_reducible exact Keeps.refl _ | with_reducible apply Keeps.trans _ (State.pressure_keeps _) | with_reducible apply Keeps.trans _ (State.setDword_keeps _ _ _) | with_reducible apply Keeps.trans _ (State.showLeases_keeps _) | with_reducible apply Keeps.trans _ (State.setWord_keeps _ _ _)))

theorem State.sendFu_keeps (s : State) (g : Nat) (f : Fu) : Keeps s (State.sendFu s g f) := by
  unfold State.sendFu
  repeat' (first | with_reducible exact Keeps.refl _ | with_reducible apply Keeps.trans _ (State.sendUnit_keeps _ _ _ _ _ _ _))

theorem State.sendNew_keeps (s : State) (g : Nat) (f : Fu) : Keeps s (State.sendNew s g f) := by
  unfold State.sendNew
  repeat' (first | with_reducible exact Keeps.refl _ | with_reducible apply Keeps.trans _ (State.sendFu_keeps _ _ _) | with_reducible apply Keeps.trans _ (State.updGp_keeps _ _ _))

theorem State.fuTransmit_keeps (s : State) (g : Nat) : Keeps s (State.fuTransmit s g) := by
  unfold State.fuTransmit
  try dsimp only
  repeat' (first | with_reducible exact Keeps.refl _ | with_reducible apply Keeps.trans _ (State.sendAck_keeps _ _) | with_reducible apply Keeps.trans _ (State.sendFu_keeps _ _ _) | with_reducible apply Keeps.trans _ (State.sendNew_keeps _ _ _) | with_reducible apply Keeps.trans _ (State.updGp_keeps _ _ _) | with_reducible refine Keeps.ite (fun _ => ?_) (fun _ => ?_) | split | (with_reducible apply Keeps.lit; (on_goal 2 => with_reducible rfl); first | with_reducible exact Keeps.refl _ | with_reducible apply Keeps.trans _ (State.sendAck_keeps _ _) | with_reducible apply Keeps.trans _ (State.sendFu_keeps _ _ _) | with_reducible apply Keeps.trans _ (State.sendNew_keeps _ _ _) | with_reducible apply Keeps.trans _ (State.updGp_keeps _ _ _) | with_reducible refine Keeps.ite (fun _ => ?_) (fun _ => ?_) | split))

theorem State.goodFu_keeps (s : State) (g : Nat) (a : Nat) : Keeps s (State.goodFu s g a) := by
  unfold State.goodFu
  repeat' (first | with_reducible exact Keeps.refl _ | with_reducible apply Keeps.trans _ (State.applyAck_keeps _ _ _) | with_reducible apply Keeps.trans _ (State.cnt_keeps _ _ _ _) | with_reducible apply Keeps.trans _ (State.stn_keeps _ _ _ _))

theorem State.portWidth_keeps (s : State) (g : Nat) (w : Nat) : Keeps s (State.portWidth s g w) := by
  unfold State.portWidth
  try dsimp only
  repeat' (first | with_reducible exact Keeps.refl _ | with_reducible apply Keeps.trans _ (State.setFlag_keeps _ _ _) | with_reducible apply Keeps.trans _ (State.wr_keeps _ _ _) | with_reducible refine Keeps.ite (fun _ => ?_) (fun _ => ?_) | split | (with_reducible apply Keeps.lit; (on_goal 2 => with_reducible rfl); first | with_reducible exact Keeps.refl _ | with_reducible apply Keeps.trans _ (State.setFlag_keeps _ _ _) | with_reducible apply Keeps.trans _ (State.wr_keeps _ _ _) | with_reducible refine Keeps.ite (fun _ => ?_) (fun _ => ?_) | split))

theorem State.graftLinkUp_keeps (s : State) (g : Nat) (width : Nat) (rate64 : Bool) (peer : Nat) (domain : Nat) : Keeps s (State.graftLinkUp s g width rate64 peer domain) := by
  unfold State.graftLinkUp
  try dsimp only
  repeat' (first | with_reducible exact Keeps.refl _ | with_reducible apply Keeps.trans _ (State.openOxn_keeps _ _ _) | with_reducible apply Keeps.trans _ (State.portWidth_keeps _ _ _) | with_reducible apply Keeps.trans _ (State.raise_keeps _ _ _ _) | with_reducible apply Keeps.trans _ (State.setFlag_keeps _ _ _) | with_reducible apply Keeps.trans _ (State.updGp_keeps _ _ _) | with_reducible apply Keeps.trans _ (State.wr_keeps _ _ _) | with_reducible apply Keeps.trans _ (State.setWord_keeps _ _ _) | with_reducible refine Keeps.ite (fun _ => ?_) (fun _ => ?_) | split | (with_reducible apply Keeps.lit; (on_goal 2 => with_reducible rfl); first | with_reducible exact Keeps.refl _ | with_reducible apply Keeps.trans _ (State.openOxn_keeps _ _ _) | with_reducible apply Keeps.trans _ (State.portWidth_keeps _ _ _) | with_reducible apply Keeps.trans _ (State.raise_keeps _ _ _ _) | with_reducible apply Keeps.trans _ (State.setFlag_keeps _ _ _) | with_reducible apply Keeps.trans _ (State.updGp_keeps _ _ _) | with_reducible apply Keeps.trans _ (State.wr_keeps _ _ _) | with_reducible apply Keeps.trans _ (State.setWord_keeps _ _ _) | with_reducible refine Keeps.ite (fun _ => ?_) (fun _ => ?_) | split))

theorem State.lostRead_keeps (s : State) (o : Outst) : Keeps s (State.lostRead s o) := by
  unfold State.lostRead
  try dsimp only
  repeat' (first | with_reducible exact Keeps.refl _ | with_reducible assumption | with_reducible apply Keeps.trans _ (State.discard_keeps _ _ _ _ _) | with_reducible apply Keeps.trans _ (State.discardDecode_keeps _ _ _) | with_reducible apply Keeps.trans _ (State.fillBack_keeps _ _ _ _) | with_reducible apply Keeps.trans _ (State.freeEngine_keeps _ _) | with_reducible apply Keeps.trans _ (State.orphan_keeps _ _) | with_reducible apply Keeps.trans _ (State.pageBack_keeps _ _ _ _) | with_reducible apply Keeps.trans _ (State.sherdBack_keeps _ _ _ _) | with_reducible refine Keeps.ite (fun _ => ?_) (fun _ => ?_) | with_reducible refine Keeps.foldl ?_ (fun _ _ => ?_) | split | (with_reducible apply Keeps.lit; (on_goal 2 => with_reducible rfl); first | with_reducible exact Keeps.refl _ | with_reducible assumption | with_reducible apply Keeps.trans _ (State.discard_keeps _ _ _ _ _) | with_reducible apply Keeps.trans _ (State.discardDecode_keeps _ _ _) | with_reducible apply Keeps.trans _ (State.fillBack_keeps _ _ _ _) | with_reducible apply Keeps.trans _ (State.freeEngine_keeps _ _) | with_reducible apply Keeps.trans _ (State.orphan_keeps _ _) | with_reducible apply Keeps.trans _ (State.pageBack_keeps _ _ _ _) | with_reducible apply Keeps.trans _ (State.sherdBack_keeps _ _ _ _) | with_reducible refine Keeps.ite (fun _ => ?_) (fun _ => ?_) | with_reducible refine Keeps.foldl ?_ (fun _ _ => ?_) | split))

theorem State.lostWrite_keeps (s : State) (g : Nat) (o : Outst) : Keeps s (State.lostWrite s g o) := by
  unfold State.lostWrite
  try dsimp only
  repeat' (first | with_reducible exact Keeps.refl _ | with_reducible apply Keeps.trans _ (State.abortMove_keeps _ _) | with_reducible apply Keeps.trans _ (State.sendPeer_keeps _ _ _ _ _ _ _) | with_reducible refine Keeps.ite (fun _ => ?_) (fun _ => ?_) | split | (with_reducible apply Keeps.lit; (on_goal 2 => with_reducible rfl); first | with_reducible exact Keeps.refl _ | with_reducible apply Keeps.trans _ (State.abortMove_keeps _ _) | with_reducible apply Keeps.trans _ (State.sendPeer_keeps _ _ _ _ _ _ _) | with_reducible refine Keeps.ite (fun _ => ?_) (fun _ => ?_) | split))

theorem State.lostReq_keeps (s : State) (g : Nat) (o : Outst) : Keeps s (State.lostReq s g o) := by
  unfold State.lostReq
  try dsimp only
  repeat' (first | with_reducible exact Keeps.refl _ | with_reducible assumption | with_reducible apply Keeps.trans _ (State.lostRead_keeps _ _) | with_reducible apply Keeps.trans _ (State.lostWrite_keeps _ _ _) | with_reducible refine Keeps.ite (fun _ => ?_) (fun _ => ?_) | with_reducible refine Keeps.foldl ?_ (fun _ _ => ?_) | with_reducible refine Keeps.foldl_fst ?_ (fun _ _ => ?_) | with_reducible refine Keeps.foldl_snd ?_ (fun _ _ => ?_) | with_reducible apply Keeps.cond | with_reducible refine Keeps.getD ?_ (fun _ _ => ?_) | split | (with_reducible apply Keeps.lit; (on_goal 2 => with_reducible rfl); first | with_reducible exact Keeps.refl _ | with_reducible assumption | with_reducible apply Keeps.trans _ (State.lostRead_keeps _ _) | with_reducible apply Keeps.trans _ (State.lostWrite_keeps _ _ _) | with_reducible refine Keeps.ite (fun _ => ?_) (fun _ => ?_) | with_reducible refine Keeps.foldl ?_ (fun _ _ => ?_) | with_reducible refine Keeps.foldl_fst ?_ (fun _ _ => ?_) | with_reducible refine Keeps.foldl_snd ?_ (fun _ _ => ?_) | with_reducible apply Keeps.cond | with_reducible refine Keeps.getD ?_ (fun _ _ => ?_) | split))

theorem State.lostWait_keeps (s : State) (g : Nat) (x : PeerReq) : Keeps s (State.lostWait s g x) := by
  unfold State.lostWait
  try dsimp only
  repeat' (first | with_reducible exact Keeps.refl _ | with_reducible assumption | with_reducible apply Keeps.trans _ (State.lostReq_keeps _ _ _) | with_reducible apply Keeps.trans _ (State.offerPeer_keeps _ _ _) | with_reducible refine Keeps.ite (fun _ => ?_) (fun _ => ?_) | with_reducible refine Keeps.foldl ?_ (fun _ _ => ?_) | with_reducible refine Keeps.foldl_fst ?_ (fun _ _ => ?_) | with_reducible refine Keeps.foldl_snd ?_ (fun _ _ => ?_) | with_reducible apply Keeps.cond | with_reducible refine Keeps.getD ?_ (fun _ _ => ?_) | split | (with_reducible apply Keeps.lit; (on_goal 2 => with_reducible rfl); first | with_reducible exact Keeps.refl _ | with_reducible assumption | with_reducible apply Keeps.trans _ (State.lostReq_keeps _ _ _) | with_reducible apply Keeps.trans _ (State.offerPeer_keeps _ _ _) | with_reducible refine Keeps.ite (fun _ => ?_) (fun _ => ?_) | with_reducible refine Keeps.foldl ?_ (fun _ _ => ?_) | with_reducible refine Keeps.foldl_fst ?_ (fun _ _ => ?_) | with_reducible refine Keeps.foldl_snd ?_ (fun _ _ => ?_) | with_reducible apply Keeps.cond | with_reducible refine Keeps.getD ?_ (fun _ _ => ?_) | split))

theorem State.oxnFails_keeps (s : State) (x : Oxn) : Keeps s (State.oxnFails s x) := by
  unfold State.oxnFails
  try dsimp only
  repeat' (first | with_reducible exact Keeps.refl _ | with_reducible apply Keeps.trans _ (State.freeLease_keeps _ _) | with_reducible refine Keeps.ite (fun _ => ?_) (fun _ => ?_) | split | (with_reducible apply Keeps.lit; (on_goal 2 => with_reducible rfl); first | with_reducible exact Keeps.refl _ | with_reducible apply Keeps.trans _ (State.freeLease_keeps _ _) | with_reducible refine Keeps.ite (fun _ => ?_) (fun _ => ?_) | split))

theorem State.lostMove_keeps (s : State) (l : Nat) (k : Nat) (m : MoveSlot) : Keeps s (State.lostMove s l k m) := by
  unfold State.lostMove
  try dsimp only
  repeat' (first | with_reducible exact Keeps.refl _ | with_reducible apply Keeps.trans _ (State.abortMove_keeps _ _) | with_reducible apply Keeps.trans _ (State.closeSlot_keeps _ _) | with_reducible apply Keeps.trans _ (State.dropGather_keeps _ _) | with_reducible apply Keeps.trans _ (State.freeForm_keeps _ _) | with_reducible apply Keeps.trans _ (State.freeMoveEngine_keeps _ _) | with_reducible apply Keeps.trans _ (State.setForm_keeps _ _ _) | with_reducible refine Keeps.ite (fun _ => ?_) (fun _ => ?_) | split | (with_reducible apply Keeps.lit; (on_goal 2 => with_reducible rfl); first | with_reducible exact Keeps.refl _ | with_reducible apply Keeps.trans _ (State.abortMove_keeps _ _) | with_reducible apply Keeps.trans _ (State.closeSlot_keeps _ _) | with_reducible apply Keeps.trans _ (State.dropGather_keeps _ _) | with_reducible apply Keeps.trans _ (State.freeForm_keeps _ _) | with_reducible apply Keeps.trans _ (State.freeMoveEngine_keeps _ _) | with_reducible apply Keeps.trans _ (State.setForm_keeps _ _ _) | with_reducible refine Keeps.ite (fun _ => ?_) (fun _ => ?_) | split))

theorem State.lostPage_keeps (s : State) (p : Nat) : Keeps s (State.lostPage s p) := by
  unfold State.lostPage
  repeat' (first | with_reducible exact Keeps.refl _ | with_reducible apply Keeps.trans _ (State.dropGather_keeps _ _) | with_reducible apply Keeps.trans _ (State.setForm_keeps _ _ _) | with_reducible apply Keeps.trans _ (State.wcbDropPage_keeps _ _) | (with_reducible apply Keeps.lit; (on_goal 2 => with_reducible rfl); first | with_reducible exact Keeps.refl _ | with_reducible apply Keeps.trans _ (State.dropGather_keeps _ _) | with_reducible apply Keeps.trans _ (State.setForm_keeps _ _ _) | with_reducible apply Keeps.trans _ (State.wcbDropPage_keeps _ _)))

theorem State.loseLease_keeps (s : State) (l : Nat) : Keeps s (State.loseLease s l) := by
  unfold State.loseLease
  try dsimp only
  repeat' (first | with_reducible exact Keeps.refl _ | with_reducible assumption | with_reducible apply Keeps.trans _ (State.freeLease_keeps _ _) | with_reducible apply Keeps.trans _ (State.lostMove_keeps _ _ _ _) | with_reducible apply Keeps.trans _ (State.lostPage_keeps _ _) | with_reducible apply Keeps.trans _ (State.raise_keeps _ _ _ _) | with_reducible refine Keeps.ite (fun _ => ?_) (fun _ => ?_) | with_reducible refine Keeps.foldl ?_ (fun _ _ => ?_) | split | (with_reducible apply Keeps.lit; (on_goal 2 => with_reducible rfl); first | with_reducible exact Keeps.refl _ | with_reducible assumption | with_reducible apply Keeps.trans _ (State.freeLease_keeps _ _) | with_reducible apply Keeps.trans _ (State.lostMove_keeps _ _ _ _) | with_reducible apply Keeps.trans _ (State.lostPage_keeps _ _) | with_reducible apply Keeps.trans _ (State.raise_keeps _ _ _ _) | with_reducible refine Keeps.ite (fun _ => ?_) (fun _ => ?_) | with_reducible refine Keeps.foldl ?_ (fun _ _ => ?_) | split))

theorem State.partnerGone_keeps (s : State) (peer : Nat) : Keeps s (State.partnerGone s peer) := by
  unfold State.partnerGone
  try dsimp only
  repeat' (first | with_reducible exact Keeps.refl _ | with_reducible assumption | with_reducible apply Keeps.trans _ (State.freeLease_keeps _ _) | with_reducible apply Keeps.trans _ (State.loseLease_keeps _ _) | with_reducible refine Keeps.ite (fun _ => ?_) (fun _ => ?_) | with_reducible refine Keeps.foldl ?_ (fun _ _ => ?_) | split | (with_reducible apply Keeps.lit; (on_goal 2 => with_reducible rfl); first | with_reducible exact Keeps.refl _ | with_reducible assumption | with_reducible apply Keeps.trans _ (State.freeLease_keeps _ _) | with_reducible apply Keeps.trans _ (State.loseLease_keeps _ _) | with_reducible refine Keeps.ite (fun _ => ?_) (fun _ => ?_) | with_reducible refine Keeps.foldl ?_ (fun _ _ => ?_) | split))

theorem State.portDown_keeps (s : State) (g : Nat) (st : Nat) : Keeps s (State.portDown s g st) := by
  unfold State.portDown
  try dsimp only
  repeat' (first | with_reducible exact Keeps.refl _ | with_reducible assumption | with_reducible apply Keeps.trans _ (State.lostReq_keeps _ _ _) | with_reducible apply Keeps.trans _ (State.lostWait_keeps _ _ _) | with_reducible apply Keeps.trans _ (State.oxnFails_keeps _ _) | with_reducible apply Keeps.trans _ (State.partnerGone_keeps _ _) | with_reducible apply Keeps.trans _ (State.sendReply_keeps _ _ _ _ _ _ _ _) | with_reducible apply Keeps.trans _ (State.setFlag_keeps _ _ _) | with_reducible apply Keeps.trans _ (State.updGp_keeps _ _ _) | with_reducible apply Keeps.trans _ (State.wr_keeps _ _ _) | with_reducible refine Keeps.ite (fun _ => ?_) (fun _ => ?_) | with_reducible refine Keeps.foldl ?_ (fun _ _ => ?_) | split | (with_reducible apply Keeps.lit; (on_goal 2 => with_reducible rfl); first | with_reducible exact Keeps.refl _ | with_reducible assumption | with_reducible apply Keeps.trans _ (State.lostReq_keeps _ _ _) | with_reducible apply Keeps.trans _ (State.lostWait_keeps _ _ _) | with_reducible apply Keeps.trans _ (State.oxnFails_keeps _ _) | with_reducible apply Keeps.trans _ (State.partnerGone_keeps _ _) | with_reducible apply Keeps.trans _ (State.sendReply_keeps _ _ _ _ _ _ _ _) | with_reducible apply Keeps.trans _ (State.setFlag_keeps _ _ _) | with_reducible apply Keeps.trans _ (State.updGp_keeps _ _ _) | with_reducible apply Keeps.trans _ (State.wr_keeps _ _ _) | with_reducible refine Keeps.ite (fun _ => ?_) (fun _ => ?_) | with_reducible refine Keeps.foldl ?_ (fun _ _ => ?_) | split))

theorem State.portLost_keeps (s : State) (g : Nat) (cause : Nat) : Keeps s (State.portLost s g cause) := by
  unfold State.portLost
  repeat' (first | with_reducible exact Keeps.refl _ | with_reducible apply Keeps.trans _ (State.portDown_keeps _ _ _) | with_reducible apply Keeps.trans _ (State.raise_keeps _ _ _ _))

theorem State.graftLost_keeps (s : State) (g : Nat) (c : LostCause) : Keeps s (State.graftLost s g c) := by
  unfold State.graftLost
  try dsimp only
  repeat' (first | with_reducible exact Keeps.refl _ | with_reducible apply Keeps.trans _ (State.portLost_keeps _ _ _) | with_reducible refine Keeps.ite (fun _ => ?_) (fun _ => ?_) | split | (with_reducible apply Keeps.lit; (on_goal 2 => with_reducible rfl); first | with_reducible exact Keeps.refl _ | with_reducible apply Keeps.trans _ (State.portLost_keeps _ _ _) | with_reducible refine Keeps.ite (fun _ => ?_) (fun _ => ?_) | split))

theorem State.startRetrain_keeps (s : State) (g : Nat) (w : Option Nat) : Keeps s (State.startRetrain s g w) := by
  unfold State.startRetrain
  try dsimp only
  repeat' (first | with_reducible exact Keeps.refl _ | with_reducible apply Keeps.trans _ (State.enterRetrain_keeps _ _) | with_reducible apply Keeps.trans _ (State.sendUnit_keeps _ _ _ _ _ _ _) | with_reducible apply Keeps.trans _ (State.updGp_keeps _ _ _) | with_reducible refine Keeps.ite (fun _ => ?_) (fun _ => ?_) | split | (with_reducible apply Keeps.lit; (on_goal 2 => with_reducible rfl); first | with_reducible exact Keeps.refl _ | with_reducible apply Keeps.trans _ (State.enterRetrain_keeps _ _) | with_reducible apply Keeps.trans _ (State.sendUnit_keeps _ _ _ _ _ _ _) | with_reducible apply Keeps.trans _ (State.updGp_keeps _ _ _) | with_reducible refine Keeps.ite (fun _ => ?_) (fun _ => ?_) | split))

theorem State.graftRetrain_keeps (s : State) (g : Nat) (c : RetrainCause) (collision : Bool) : Keeps s (State.graftRetrain s g c collision) := by
  unfold State.graftRetrain
  try dsimp only
  repeat' (first | with_reducible exact Keeps.refl _ | with_reducible apply Keeps.trans _ (State.follow_keeps _ _ _) | with_reducible apply Keeps.trans _ (State.startRetrain_keeps _ _ _) | with_reducible refine Keeps.ite (fun _ => ?_) (fun _ => ?_) | split | (with_reducible apply Keeps.lit; (on_goal 2 => with_reducible rfl); first | with_reducible exact Keeps.refl _ | with_reducible apply Keeps.trans _ (State.follow_keeps _ _ _) | with_reducible apply Keeps.trans _ (State.startRetrain_keeps _ _ _) | with_reducible refine Keeps.ite (fun _ => ?_) (fun _ => ?_) | split))

theorem State.lostRetry_keeps (s : State) (g : Nat) : Keeps s (State.lostRetry s g) := by
  unfold State.lostRetry
  try dsimp only
  repeat' (first | with_reducible exact Keeps.refl _ | with_reducible apply Keeps.trans _ (State.wr_keeps _ _ _) | with_reducible refine Keeps.ite (fun _ => ?_) (fun _ => ?_) | split | (with_reducible apply Keeps.lit; (on_goal 2 => with_reducible rfl); first | with_reducible exact Keeps.refl _ | with_reducible apply Keeps.trans _ (State.wr_keeps _ _ _) | with_reducible refine Keeps.ite (fun _ => ?_) (fun _ => ?_) | split))

theorem State.startReplay_keeps (s : State) (g : Nat) : Keeps s (State.startReplay s g) := by
  unfold State.startReplay
  repeat' (first | with_reducible exact Keeps.refl _ | with_reducible apply Keeps.trans _ (State.cnt_keeps _ _ _ _) | with_reducible apply Keeps.trans _ (State.sat_keeps _ _ _) | with_reducible apply Keeps.trans _ (State.sendUnit_keeps _ _ _ _ _ _ _) | with_reducible apply Keeps.trans _ (State.stn_keeps _ _ _ _) | with_reducible apply Keeps.trans _ (State.updGp_keeps _ _ _))

theorem State.nakIn_keeps (s : State) (g : Nat) (a : Nat) : Keeps s (State.nakIn s g a) := by
  unfold State.nakIn
  try dsimp only
  repeat' (first | with_reducible exact Keeps.refl _ | with_reducible assumption | with_reducible apply Keeps.trans _ (State.goodFu_keeps _ _ _) | with_reducible apply Keeps.trans _ (State.startReplay_keeps _ _) | with_reducible refine Keeps.ite (fun _ => ?_) (fun _ => ?_) | with_reducible refine Keeps.foldl ?_ (fun _ _ => ?_) | with_reducible refine Keeps.foldl_fst ?_ (fun _ _ => ?_) | with_reducible refine Keeps.foldl_snd ?_ (fun _ _ => ?_) | with_reducible apply Keeps.cond | with_reducible refine Keeps.getD ?_ (fun _ _ => ?_) | split | (with_reducible apply Keeps.lit; (on_goal 2 => with_reducible rfl); first | with_reducible exact Keeps.refl _ | with_reducible assumption | with_reducible apply Keeps.trans _ (State.goodFu_keeps _ _ _) | with_reducible apply Keeps.trans _ (State.startReplay_keeps _ _) | with_reducible refine Keeps.ite (fun _ => ?_) (fun _ => ?_) | with_reducible refine Keeps.foldl ?_ (fun _ _ => ?_) | with_reducible refine Keeps.foldl_fst ?_ (fun _ _ => ?_) | with_reducible refine Keeps.foldl_snd ?_ (fun _ _ => ?_) | with_reducible apply Keeps.cond | with_reducible refine Keeps.getD ?_ (fun _ _ => ?_) | split))

theorem State.portsDown_keeps (s : State) : Keeps s (State.portsDown s) := by
  unfold State.portsDown
  try dsimp only
  repeat' (first | with_reducible exact Keeps.refl _ | with_reducible assumption | with_reducible apply Keeps.trans _ (State.portDown_keeps _ _ _) | with_reducible refine Keeps.ite (fun _ => ?_) (fun _ => ?_) | with_reducible refine Keeps.foldl ?_ (fun _ _ => ?_) | split | (with_reducible apply Keeps.lit; (on_goal 2 => with_reducible rfl); first | with_reducible exact Keeps.refl _ | with_reducible assumption | with_reducible apply Keeps.trans _ (State.portDown_keeps _ _ _) | with_reducible refine Keeps.ite (fun _ => ?_) (fun _ => ?_) | with_reducible refine Keeps.foldl ?_ (fun _ _ => ?_) | split))

theorem State.replayIn_keeps (s : State) (g : Nat) (a : Nat) (start : Nat) : Keeps s (State.replayIn s g a start) := by
  unfold State.replayIn
  try dsimp only
  repeat' (first | with_reducible exact Keeps.refl _ | with_reducible apply Keeps.trans _ (State.goodFu_keeps _ _ _) | with_reducible apply Keeps.trans _ (State.portLost_keeps _ _ _) | with_reducible apply Keeps.trans _ (State.setFlag_keeps _ _ _) | with_reducible apply Keeps.trans _ (State.updGp_keeps _ _ _) | with_reducible refine Keeps.ite (fun _ => ?_) (fun _ => ?_) | split | (with_reducible apply Keeps.lit; (on_goal 2 => with_reducible rfl); first | with_reducible exact Keeps.refl _ | with_reducible apply Keeps.trans _ (State.goodFu_keeps _ _ _) | with_reducible apply Keeps.trans _ (State.portLost_keeps _ _ _) | with_reducible apply Keeps.trans _ (State.setFlag_keeps _ _ _) | with_reducible apply Keeps.trans _ (State.updGp_keeps _ _ _) | with_reducible refine Keeps.ite (fun _ => ?_) (fun _ => ?_) | split))

theorem State.replayTimer_keeps (s : State) (g : Nat) : Keeps s (State.replayTimer s g) := by
  unfold State.replayTimer
  try dsimp only
  repeat' (first | with_reducible exact Keeps.refl _ | with_reducible apply Keeps.trans _ (State.portLost_keeps _ _ _) | with_reducible apply Keeps.trans _ (State.startReplay_keeps _ _) | with_reducible refine Keeps.ite (fun _ => ?_) (fun _ => ?_) | split | (with_reducible apply Keeps.lit; (on_goal 2 => with_reducible rfl); first | with_reducible exact Keeps.refl _ | with_reducible apply Keeps.trans _ (State.portLost_keeps _ _ _) | with_reducible apply Keeps.trans _ (State.startReplay_keeps _ _) | with_reducible refine Keeps.ite (fun _ => ?_) (fun _ => ?_) | split))

theorem State.widthAnswer_keeps (s : State) (c : WidthCmd) : Keeps s (State.widthAnswer s c) := by
  unfold State.widthAnswer
  try dsimp only
  repeat' (first | with_reducible exact Keeps.refl _ | with_reducible assumption | with_reducible apply Keeps.trans _ (State.recordReply_keeps _ _) | with_reducible apply Keeps.trans _ (State.sendReply_keeps _ _ _ _ _ _ _ _) | with_reducible refine Keeps.ite (fun _ => ?_) (fun _ => ?_) | with_reducible refine Keeps.foldl ?_ (fun _ _ => ?_) | with_reducible refine Keeps.foldl_fst ?_ (fun _ _ => ?_) | with_reducible refine Keeps.foldl_snd ?_ (fun _ _ => ?_) | with_reducible apply Keeps.cond | with_reducible refine Keeps.getD ?_ (fun _ _ => ?_) | split | (with_reducible apply Keeps.lit; (on_goal 2 => with_reducible rfl); first | with_reducible exact Keeps.refl _ | with_reducible assumption | with_reducible apply Keeps.trans _ (State.recordReply_keeps _ _) | with_reducible apply Keeps.trans _ (State.sendReply_keeps _ _ _ _ _ _ _ _) | with_reducible refine Keeps.ite (fun _ => ?_) (fun _ => ?_) | with_reducible refine Keeps.foldl ?_ (fun _ _ => ?_) | with_reducible refine Keeps.foldl_fst ?_ (fun _ _ => ?_) | with_reducible refine Keeps.foldl_snd ?_ (fun _ _ => ?_) | with_reducible apply Keeps.cond | with_reducible refine Keeps.getD ?_ (fun _ _ => ?_) | split))

theorem State.retrainDone_keeps (s : State) (g : Nat) (lanes : Nat) : Keeps s (State.retrainDone s g lanes) := by
  unfold State.retrainDone
  try dsimp only
  repeat' (first | with_reducible exact Keeps.refl _ | with_reducible assumption | with_reducible apply Keeps.trans _ (State.portWidth_keeps _ _ _) | with_reducible apply Keeps.trans _ (State.startReplay_keeps _ _) | with_reducible apply Keeps.trans _ (State.startRetrain_keeps _ _ _) | with_reducible apply Keeps.trans _ (State.updGp_keeps _ _ _) | with_reducible apply Keeps.trans _ (State.widthAnswer_keeps _ _) | with_reducible apply Keeps.trans _ (State.wr_keeps _ _ _) | with_reducible refine Keeps.ite (fun _ => ?_) (fun _ => ?_) | with_reducible refine Keeps.foldl ?_ (fun _ _ => ?_) | split | (with_reducible apply Keeps.lit; (on_goal 2 => with_reducible rfl); first | with_reducible exact Keeps.refl _ | with_reducible assumption | with_reducible apply Keeps.trans _ (State.portWidth_keeps _ _ _) | with_reducible apply Keeps.trans _ (State.startReplay_keeps _ _) | with_reducible apply Keeps.trans _ (State.startRetrain_keeps _ _ _) | with_reducible apply Keeps.trans _ (State.updGp_keeps _ _ _) | with_reducible apply Keeps.trans _ (State.widthAnswer_keeps _ _) | with_reducible apply Keeps.trans _ (State.wr_keeps _ _ _) | with_reducible refine Keeps.ite (fun _ => ?_) (fun _ => ?_) | with_reducible refine Keeps.foldl ?_ (fun _ _ => ?_) | split))

theorem State.retrainIn_keeps (s : State) (g : Nat) (a : Nat) (w : Option Nat) : Keeps s (State.retrainIn s g a w) := by
  unfold State.retrainIn
  try dsimp only
  repeat' (first | with_reducible exact Keeps.refl _ | with_reducible assumption | with_reducible apply Keeps.trans _ (State.enterRetrain_keeps _ _) | with_reducible apply Keeps.trans _ (State.follow_keeps _ _ _) | with_reducible apply Keeps.trans _ (State.goodFu_keeps _ _ _) | with_reducible refine Keeps.ite (fun _ => ?_) (fun _ => ?_) | with_reducible refine Keeps.foldl ?_ (fun _ _ => ?_) | with_reducible refine Keeps.foldl_fst ?_ (fun _ _ => ?_) | with_reducible refine Keeps.foldl_snd ?_ (fun _ _ => ?_) | with_reducible apply Keeps.cond | with_reducible refine Keeps.getD ?_ (fun _ _ => ?_) | split | (with_reducible apply Keeps.lit; (on_goal 2 => with_reducible rfl); first | with_reducible exact Keeps.refl _ | with_reducible assumption | with_reducible apply Keeps.trans _ (State.enterRetrain_keeps _ _) | with_reducible apply Keeps.trans _ (State.follow_keeps _ _ _) | with_reducible apply Keeps.trans _ (State.goodFu_keeps _ _ _) | with_reducible refine Keeps.ite (fun _ => ?_) (fun _ => ?_) | with_reducible refine Keeps.foldl ?_ (fun _ _ => ?_) | with_reducible refine Keeps.foldl_fst ?_ (fun _ _ => ?_) | with_reducible refine Keeps.foldl_snd ?_ (fun _ _ => ?_) | with_reducible apply Keeps.cond | with_reducible refine Keeps.getD ?_ (fun _ _ => ?_) | split))

theorem State.sendNak_keeps (s : State) (g : Nat) : Keeps s (State.sendNak s g) := by
  unfold State.sendNak
  try dsimp only
  repeat' (first | with_reducible exact Keeps.refl _ | with_reducible assumption | with_reducible apply Keeps.trans _ (State.sendUnit_keeps _ _ _ _ _ _ _) | with_reducible refine Keeps.ite (fun _ => ?_) (fun _ => ?_) | with_reducible refine Keeps.foldl ?_ (fun _ _ => ?_) | with_reducible refine Keeps.foldl_fst ?_ (fun _ _ => ?_) | with_reducible refine Keeps.foldl_snd ?_ (fun _ _ => ?_) | with_reducible apply Keeps.cond | with_reducible refine Keeps.getD ?_ (fun _ _ => ?_) | split | (with_reducible apply Keeps.lit; (on_goal 2 => with_reducible rfl); first | with_reducible exact Keeps.refl _ | with_reducible assumption | with_reducible apply Keeps.trans _ (State.sendUnit_keeps _ _ _ _ _ _ _) | with_reducible refine Keeps.ite (fun _ => ?_) (fun _ => ?_) | with_reducible refine Keeps.foldl ?_ (fun _ _ => ?_) | with_reducible refine Keeps.foldl_fst ?_ (fun _ _ => ?_) | with_reducible refine Keeps.foldl_snd ?_ (fun _ _ => ?_) | with_reducible apply Keeps.cond | with_reducible refine Keeps.getD ?_ (fun _ _ => ?_) | split))

end Sys2Proof.Machine
end

