-- ==== Sys2Proof/Laws/KeepsOxentelo.lean ====
section
/-! SUPPORT. Every operation of Machine/Oxentelo.lean keeps what `Keeps` says: one lemma for each. -/
namespace Sys2Proof.Machine
set_option linter.unreachableTactic false
set_option linter.unusedTactic false

theorem State.openCap_keeps (s : State) (g : Nat) : Keeps s (State.openCap s g) := by
  unfold State.openCap
  repeat' (first | with_reducible exact Keeps.refl _ | with_reducible apply Keeps.trans _ (State.openOxn_keeps _ _ _) | with_reducible apply Keeps.trans _ (State.updGp_keeps _ _ _))

theorem State.showLend_keeps (s : State) : Keeps s (State.showLend s) := by
  unfold State.showLend
  repeat' (first | with_reducible exact Keeps.refl _ | with_reducible apply Keeps.trans _ (State.wr_keeps _ _ _))

theorem State.capResend_keeps (s : State) (g : Nat) : Keeps s (State.capResend s g) := by
  unfold State.capResend
  try dsimp only
  repeat' (first | with_reducible exact Keeps.refl _ | with_reducible apply Keeps.trans _ (State.openCap_keeps _ _) | with_reducible apply Keeps.trans _ (State.showLend_keeps _) | with_reducible refine Keeps.ite (fun _ => ?_) (fun _ => ?_) | split | (with_reducible apply Keeps.lit; (on_goal 2 => with_reducible rfl); first | with_reducible exact Keeps.refl _ | with_reducible apply Keeps.trans _ (State.openCap_keeps _ _) | with_reducible apply Keeps.trans _ (State.showLend_keeps _) | with_reducible refine Keeps.ite (fun _ => ?_) (fun _ => ?_) | split))

theorem State.ctlIn_keeps (s : State) (g : Nat) (a : Nat) (h : Nat) : Keeps s (State.ctlIn s g a h) := by
  unfold State.ctlIn
  try dsimp only
  repeat' (first | with_reducible exact Keeps.refl _ | with_reducible assumption | with_reducible apply Keeps.trans _ (State.goodFu_keeps _ _ _) | with_reducible apply Keeps.trans _ (State.nakIn_keeps _ _ _) | with_reducible apply Keeps.trans _ (State.portLost_keeps _ _ _) | with_reducible apply Keeps.trans _ (State.replayIn_keeps _ _ _ _) | with_reducible apply Keeps.trans _ (State.retrainIn_keeps _ _ _ _) | with_reducible refine Keeps.ite (fun _ => ?_) (fun _ => ?_) | with_reducible refine Keeps.foldl ?_ (fun _ _ => ?_) | with_reducible refine Keeps.foldl_fst ?_ (fun _ _ => ?_) | with_reducible refine Keeps.foldl_snd ?_ (fun _ _ => ?_) | with_reducible apply Keeps.cond | with_reducible refine Keeps.getD ?_ (fun _ _ => ?_) | split | (with_reducible apply Keeps.lit; (on_goal 2 => with_reducible rfl); first | with_reducible exact Keeps.refl _ | with_reducible assumption | with_reducible apply Keeps.trans _ (State.goodFu_keeps _ _ _) | with_reducible apply Keeps.trans _ (State.nakIn_keeps _ _ _) | with_reducible apply Keeps.trans _ (State.portLost_keeps _ _ _) | with_reducible apply Keeps.trans _ (State.replayIn_keeps _ _ _ _) | with_reducible apply Keeps.trans _ (State.retrainIn_keeps _ _ _ _) | with_reducible refine Keeps.ite (fun _ => ?_) (fun _ => ?_) | with_reducible refine Keeps.foldl ?_ (fun _ _ => ?_) | with_reducible refine Keeps.foldl_fst ?_ (fun _ _ => ?_) | with_reducible refine Keeps.foldl_snd ?_ (fun _ _ => ?_) | with_reducible apply Keeps.cond | with_reducible refine Keeps.getD ?_ (fun _ _ => ?_) | split))

theorem State.peerUnbacked_keeps (s : State) (g : Nat) (lease : Nat) (line : Nat) : Keeps s (State.peerUnbacked s g lease line) := by
  unfold State.peerUnbacked
  repeat' (first | with_reducible exact Keeps.refl _ | with_reducible apply Keeps.trans _ (State.raise_keeps _ _ _ _))

theorem State.lentLine_keeps (s : State) (g : Nat) (id : Nat) (op : ReqOp) (line : Nat) (data : BitVec 512) (be : BitVec 64) (poison : Bool) : Keeps s (State.lentLine s g id op line data be poison) := by
  unfold State.lentLine
  repeat' (first | with_reducible exact Keeps.refl _ | with_reducible apply Keeps.trans _ (State.newId_keeps _) | (with_reducible apply Keeps.lit; (on_goal 2 => with_reducible rfl); first | with_reducible exact Keeps.refl _ | with_reducible apply Keeps.trans _ (State.newId_keeps _)))

theorem State.serveLent_keeps (s : State) (g : Nat) (tag : Nat) (op : Nat) (k : Nat) (ls : List (Nat × BitVec 512 × BitVec 64 × Bool)) : Keeps s (State.serveLent s g tag op k ls) := by
  unfold State.serveLent
  try dsimp only
  repeat' (first | with_reducible exact Keeps.refl _ | with_reducible assumption | with_reducible apply Keeps.trans _ (State.cnt_keeps _ _ _ _) | with_reducible apply Keeps.trans _ (State.lentLine_keeps _ _ _ _ _ _ _ _) | with_reducible apply Keeps.trans _ (State.newId_keeps _) | with_reducible apply Keeps.trans _ (State.updGp_keeps _ _ _) | with_reducible refine Keeps.ite (fun _ => ?_) (fun _ => ?_) | with_reducible refine Keeps.foldl ?_ (fun _ _ => ?_) | split | (with_reducible apply Keeps.lit; (on_goal 2 => with_reducible rfl); first | with_reducible exact Keeps.refl _ | with_reducible assumption | with_reducible apply Keeps.trans _ (State.cnt_keeps _ _ _ _) | with_reducible apply Keeps.trans _ (State.lentLine_keeps _ _ _ _ _ _ _ _) | with_reducible apply Keeps.trans _ (State.newId_keeps _) | with_reducible apply Keeps.trans _ (State.updGp_keeps _ _ _) | with_reducible refine Keeps.ite (fun _ => ?_) (fun _ => ?_) | with_reducible refine Keeps.foldl ?_ (fun _ _ => ?_) | split))

theorem State.lentRead_keeps (s : State) (g : Nat) (tag : Nat) (lease : Nat) (line : Nat) (n : Nat) : Keeps s (State.lentRead s g tag lease line n) := by
  unfold State.lentRead
  try dsimp only
  repeat' (first | with_reducible exact Keeps.refl _ | with_reducible apply Keeps.trans _ (State.peerUnbacked_keeps _ _ _ _) | with_reducible apply Keeps.trans _ (State.queueRsp_keeps _ _ _) | with_reducible apply Keeps.trans _ (State.serveLent_keeps _ _ _ _ _ _) | with_reducible refine Keeps.ite (fun _ => ?_) (fun _ => ?_) | split | (with_reducible apply Keeps.lit; (on_goal 2 => with_reducible rfl); first | with_reducible exact Keeps.refl _ | with_reducible apply Keeps.trans _ (State.peerUnbacked_keeps _ _ _ _) | with_reducible apply Keeps.trans _ (State.queueRsp_keeps _ _ _) | with_reducible apply Keeps.trans _ (State.serveLent_keeps _ _ _ _ _ _) | with_reducible refine Keeps.ite (fun _ => ?_) (fun _ => ?_) | split))

theorem State.lentWrite_keeps (s : State) (g : Nat) (tag : Nat) (lease : Nat) (line : Nat) (ls : List (BitVec 512 × BitVec 64 × Bool)) : Keeps s (State.lentWrite s g tag lease line ls) := by
  unfold State.lentWrite
  try dsimp only
  repeat' (first | with_reducible exact Keeps.refl _ | with_reducible apply Keeps.trans _ (State.peerUnbacked_keeps _ _ _ _) | with_reducible apply Keeps.trans _ (State.queueRsp_keeps _ _ _) | with_reducible apply Keeps.trans _ (State.serveLent_keeps _ _ _ _ _ _) | with_reducible refine Keeps.ite (fun _ => ?_) (fun _ => ?_) | split | (with_reducible apply Keeps.lit; (on_goal 2 => with_reducible rfl); first | with_reducible exact Keeps.refl _ | with_reducible apply Keeps.trans _ (State.peerUnbacked_keeps _ _ _ _) | with_reducible apply Keeps.trans _ (State.queueRsp_keeps _ _ _) | with_reducible apply Keeps.trans _ (State.serveLent_keeps _ _ _ _ _ _) | with_reducible refine Keeps.ite (fun _ => ?_) (fun _ => ?_) | split))

theorem State.noteCap_keeps (s : State) (g : Nat) (gib : Nat) : Keeps s (State.noteCap s g gib) := by
  unfold State.noteCap
  repeat' (first | with_reducible exact Keeps.refl _ | with_reducible apply Keeps.trans _ (State.updGp_keeps _ _ _))

theorem State.endPage_keeps (s : State) (p : Nat) : Keeps s (State.endPage s p) := by
  unfold State.endPage
  try dsimp only
  repeat' (first | with_reducible exact Keeps.refl _ | with_reducible apply Keeps.trans _ (State.abortMove_keeps _ _) | with_reducible apply Keeps.trans _ (State.askClear_keeps _ _) | with_reducible refine Keeps.ite (fun _ => ?_) (fun _ => ?_) | split | (with_reducible apply Keeps.lit; (on_goal 2 => with_reducible rfl); first | with_reducible exact Keeps.refl _ | with_reducible apply Keeps.trans _ (State.abortMove_keeps _ _) | with_reducible apply Keeps.trans _ (State.askClear_keeps _ _) | with_reducible refine Keeps.ite (fun _ => ?_) (fun _ => ?_) | split))

theorem State.lendFloor_keeps (s : State) (extra : Nat) : Keeps s (State.lendFloor s extra) := by
  unfold State.lendFloor
  try dsimp only
  repeat' (first | with_reducible exact Keeps.refl _ | with_reducible apply Keeps.trans _ (State.wr_keeps _ _ _) | with_reducible refine Keeps.ite (fun _ => ?_) (fun _ => ?_) | split | (with_reducible apply Keeps.lit; (on_goal 2 => with_reducible rfl); first | with_reducible exact Keeps.refl _ | with_reducible apply Keeps.trans _ (State.wr_keeps _ _ _) | with_reducible refine Keeps.ite (fun _ => ?_) (fun _ => ?_) | split))

theorem State.endLent_keeps (s : State) (k : Nat) : Keeps s (State.endLent s k) := by
  unfold State.endLent
  try dsimp only
  repeat' (first | with_reducible exact Keeps.refl _ | with_reducible assumption | with_reducible apply Keeps.trans _ (State.endPage_keeps _ _) | with_reducible apply Keeps.trans _ (State.lendFloor_keeps _ _) | with_reducible apply Keeps.trans _ (State.setDword_keeps _ _ _) | with_reducible apply Keeps.trans _ (State.showLend_keeps _) | with_reducible refine Keeps.ite (fun _ => ?_) (fun _ => ?_) | with_reducible refine Keeps.foldl ?_ (fun _ _ => ?_) | split | (with_reducible apply Keeps.lit; (on_goal 2 => with_reducible rfl); first | with_reducible exact Keeps.refl _ | with_reducible assumption | with_reducible apply Keeps.trans _ (State.endPage_keeps _ _) | with_reducible apply Keeps.trans _ (State.lendFloor_keeps _ _) | with_reducible apply Keeps.trans _ (State.setDword_keeps _ _ _) | with_reducible apply Keeps.trans _ (State.showLend_keeps _) | with_reducible refine Keeps.ite (fun _ => ?_) (fun _ => ?_) | with_reducible refine Keeps.foldl ?_ (fun _ _ => ?_) | split))

theorem State.reclaim_keeps (s : State) (k : Nat) : Keeps s (State.reclaim s k) := by
  unfold State.reclaim
  repeat' (first | with_reducible exact Keeps.refl _ | with_reducible apply Keeps.trans _ (State.endLent_keeps _ _) | with_reducible apply Keeps.trans _ (State.raise_keeps _ _ _ _))

theorem State.noteSession_keeps (s : State) (g : Nat) (n : Nat) : Keeps s (State.noteSession s g n) := by
  unfold State.noteSession
  try dsimp only
  repeat' (first | with_reducible exact Keeps.refl _ | with_reducible assumption | with_reducible apply Keeps.trans _ (State.reclaim_keeps _ _) | with_reducible refine Keeps.ite (fun _ => ?_) (fun _ => ?_) | with_reducible refine Keeps.foldl ?_ (fun _ _ => ?_) | split | (with_reducible apply Keeps.lit; (on_goal 2 => with_reducible rfl); first | with_reducible exact Keeps.refl _ | with_reducible assumption | with_reducible apply Keeps.trans _ (State.reclaim_keeps _ _) | with_reducible refine Keeps.ite (fun _ => ?_) (fun _ => ?_) | with_reducible refine Keeps.foldl ?_ (fun _ _ => ?_) | split))

theorem State.oxnAnswered_keeps (s : State) (g : Nat) (tag : BitVec 10) (x : Oxn) : Keeps s (State.oxnAnswered s g tag x) := by
  unfold State.oxnAnswered
  try dsimp only
  repeat' (first | with_reducible exact Keeps.refl _ | with_reducible apply Keeps.trans _ (State.freeLease_keeps _ _) | with_reducible apply Keeps.trans _ (State.noteCap_keeps _ _ _) | with_reducible apply Keeps.trans _ (State.noteSession_keeps _ _ _) | with_reducible apply Keeps.trans _ (State.openCap_keeps _ _) | with_reducible apply Keeps.trans _ (State.openOxn_keeps _ _ _) | with_reducible apply Keeps.trans _ (State.portLost_keeps _ _ _) | with_reducible apply Keeps.trans _ (State.pressure_keeps _) | with_reducible apply Keeps.trans _ (State.setFlag_keeps _ _ _) | with_reducible apply Keeps.trans _ (State.showLeases_keeps _) | with_reducible apply Keeps.trans _ (State.updGp_keeps _ _ _) | with_reducible apply Keeps.trans _ (State.wr_keeps _ _ _) | with_reducible refine Keeps.ite (fun _ => ?_) (fun _ => ?_) | split | (with_reducible apply Keeps.lit; (on_goal 2 => with_reducible rfl); first | with_reducible exact Keeps.refl _ | with_reducible apply Keeps.trans _ (State.freeLease_keeps _ _) | with_reducible apply Keeps.trans _ (State.noteCap_keeps _ _ _) | with_reducible apply Keeps.trans _ (State.noteSession_keeps _ _ _) | with_reducible apply Keeps.trans _ (State.openCap_keeps _ _) | with_reducible apply Keeps.trans _ (State.openOxn_keeps _ _ _) | with_reducible apply Keeps.trans _ (State.portLost_keeps _ _ _) | with_reducible apply Keeps.trans _ (State.pressure_keeps _) | with_reducible apply Keeps.trans _ (State.setFlag_keeps _ _ _) | with_reducible apply Keeps.trans _ (State.showLeases_keeps _) | with_reducible apply Keeps.trans _ (State.updGp_keeps _ _ _) | with_reducible apply Keeps.trans _ (State.wr_keeps _ _ _) | with_reducible refine Keeps.ite (fun _ => ?_) (fun _ => ?_) | split))

theorem State.leaseAsk_keeps (s : State) (g : Nat) (tag : Nat) (lease : Nat) (gib : Nat) (bw : Nat) : Keeps s (State.leaseAsk s g tag lease gib bw) := by
  unfold State.leaseAsk
  try dsimp only
  repeat' (first | with_reducible exact Keeps.refl _ | with_reducible apply Keeps.trans _ (State.lendFloor_keeps _ _) | with_reducible apply Keeps.trans _ (State.queueRsp_keeps _ _ _) | with_reducible apply Keeps.trans _ (State.setDword_keeps _ _ _) | with_reducible apply Keeps.trans _ (State.showLend_keeps _) | with_reducible refine Keeps.ite (fun _ => ?_) (fun _ => ?_) | split | (with_reducible apply Keeps.lit; (on_goal 2 => with_reducible rfl); first | with_reducible exact Keeps.refl _ | with_reducible apply Keeps.trans _ (State.lendFloor_keeps _ _) | with_reducible apply Keeps.trans _ (State.queueRsp_keeps _ _ _) | with_reducible apply Keeps.trans _ (State.setDword_keeps _ _ _) | with_reducible apply Keeps.trans _ (State.showLend_keeps _) | with_reducible refine Keeps.ite (fun _ => ?_) (fun _ => ?_) | split))

theorem State.oxnAsked_keeps (s : State) (g : Nat) (tag : BitVec 10) (x : Oxn) : Keeps s (State.oxnAsked s g tag x) := by
  unfold State.oxnAsked
  try dsimp only
  repeat' (first | with_reducible exact Keeps.refl _ | with_reducible apply Keeps.trans _ (State.endLent_keeps _ _) | with_reducible apply Keeps.trans _ (State.leaseAsk_keeps _ _ _ _ _ _) | with_reducible apply Keeps.trans _ (State.leaseEmptied_keeps _ _) | with_reducible apply Keeps.trans _ (State.noteCap_keeps _ _ _) | with_reducible apply Keeps.trans _ (State.noteSession_keeps _ _ _) | with_reducible apply Keeps.trans _ (State.pressure_keeps _) | with_reducible apply Keeps.trans _ (State.queueRsp_keeps _ _ _) | with_reducible apply Keeps.trans _ (State.showLeases_keeps _) | with_reducible apply Keeps.trans _ (State.updGp_keeps _ _ _) | with_reducible apply Keeps.trans _ (State.wr_keeps _ _ _) | with_reducible apply Keeps.trans _ (State.advanceFree_keeps _) | with_reducible refine Keeps.ite (fun _ => ?_) (fun _ => ?_) | split | (with_reducible apply Keeps.lit; (on_goal 2 => with_reducible rfl); first | with_reducible exact Keeps.refl _ | with_reducible apply Keeps.trans _ (State.endLent_keeps _ _) | with_reducible apply Keeps.trans _ (State.leaseAsk_keeps _ _ _ _ _ _) | with_reducible apply Keeps.trans _ (State.leaseEmptied_keeps _ _) | with_reducible apply Keeps.trans _ (State.noteCap_keeps _ _ _) | with_reducible apply Keeps.trans _ (State.noteSession_keeps _ _ _) | with_reducible apply Keeps.trans _ (State.pressure_keeps _) | with_reducible apply Keeps.trans _ (State.queueRsp_keeps _ _ _) | with_reducible apply Keeps.trans _ (State.showLeases_keeps _) | with_reducible apply Keeps.trans _ (State.updGp_keeps _ _ _) | with_reducible apply Keeps.trans _ (State.wr_keeps _ _ _) | with_reducible apply Keeps.trans _ (State.advanceFree_keeps _) | with_reducible refine Keeps.ite (fun _ => ?_) (fun _ => ?_) | split))

theorem State.oxnIn_keeps (s : State) (g : Nat) (tag : BitVec 10) (answer : Bool) (x : Oxn) : Keeps s (State.oxnIn s g tag answer x) := by
  unfold State.oxnIn
  try dsimp only
  repeat' (first | with_reducible exact Keeps.refl _ | with_reducible apply Keeps.trans _ (State.oxnAnswered_keeps _ _ _ _) | with_reducible apply Keeps.trans _ (State.oxnAsked_keeps _ _ _ _) | with_reducible apply Keeps.trans _ (State.oxnNext_keeps _ _) | with_reducible apply Keeps.trans _ (State.updGp_keeps _ _ _) | with_reducible refine Keeps.ite (fun _ => ?_) (fun _ => ?_) | split | (with_reducible apply Keeps.lit; (on_goal 2 => with_reducible rfl); first | with_reducible exact Keeps.refl _ | with_reducible apply Keeps.trans _ (State.oxnAnswered_keeps _ _ _ _) | with_reducible apply Keeps.trans _ (State.oxnAsked_keeps _ _ _ _) | with_reducible apply Keeps.trans _ (State.oxnNext_keeps _ _) | with_reducible apply Keeps.trans _ (State.updGp_keeps _ _ _) | with_reducible refine Keeps.ite (fun _ => ?_) (fun _ => ?_) | split))

theorem State.notePeer_keeps (s : State) (o : Outst) (status : Nat) : Keeps s (State.notePeer s o status) := by
  unfold State.notePeer
  try dsimp only
  repeat' (first | with_reducible exact Keeps.refl _ | with_reducible assumption | with_reducible refine Keeps.ite (fun _ => ?_) (fun _ => ?_) | with_reducible refine Keeps.foldl ?_ (fun _ _ => ?_) | with_reducible refine Keeps.foldl_fst ?_ (fun _ _ => ?_) | with_reducible refine Keeps.foldl_snd ?_ (fun _ _ => ?_) | with_reducible apply Keeps.cond | with_reducible refine Keeps.getD ?_ (fun _ _ => ?_) | split | (with_reducible apply Keeps.lit; (on_goal 2 => with_reducible rfl); first | with_reducible exact Keeps.refl _ | with_reducible assumption | with_reducible refine Keeps.ite (fun _ => ?_) (fun _ => ?_) | with_reducible refine Keeps.foldl ?_ (fun _ _ => ?_) | with_reducible refine Keeps.foldl_fst ?_ (fun _ _ => ?_) | with_reducible refine Keeps.foldl_snd ?_ (fun _ _ => ?_) | with_reducible apply Keeps.cond | with_reducible refine Keeps.getD ?_ (fun _ _ => ?_) | split))

theorem State.peerCmp_keeps (s : State) (g : Nat) (tag : Nat) (status : Nat) : Keeps s (State.peerCmp s g tag status) := by
  unfold State.peerCmp
  try dsimp only
  repeat' (first | with_reducible exact Keeps.refl _ | with_reducible apply Keeps.trans _ (State.answered_keeps _ _ _) | with_reducible apply Keeps.trans _ (State.notePeer_keeps _ _ _) | with_reducible apply Keeps.trans _ (State.portLost_keeps _ _ _) | with_reducible refine Keeps.ite (fun _ => ?_) (fun _ => ?_) | split | (with_reducible apply Keeps.lit; (on_goal 2 => with_reducible rfl); first | with_reducible exact Keeps.refl _ | with_reducible apply Keeps.trans _ (State.answered_keeps _ _ _) | with_reducible apply Keeps.trans _ (State.notePeer_keeps _ _ _) | with_reducible apply Keeps.trans _ (State.portLost_keeps _ _ _) | with_reducible refine Keeps.ite (fun _ => ?_) (fun _ => ?_) | split))

theorem State.peerData_keeps (s : State) (g : Nat) (tag : Nat) (status : Nat) (xs : List Line) : Keeps s (State.peerData s g tag status xs) := by
  unfold State.peerData
  try dsimp only
  repeat' (first | with_reducible exact Keeps.refl _ | with_reducible assumption | with_reducible apply Keeps.trans _ (State.answered_keeps _ _ _) | with_reducible apply Keeps.trans _ (State.fillBack_keeps _ _ _ _) | with_reducible apply Keeps.trans _ (State.lineBack_keeps _ _ _) | with_reducible apply Keeps.trans _ (State.pageBack_keeps _ _ _ _) | with_reducible apply Keeps.trans _ (State.portLost_keeps _ _ _) | with_reducible apply Keeps.trans _ (State.sherdBack_keeps _ _ _ _) | with_reducible refine Keeps.ite (fun _ => ?_) (fun _ => ?_) | with_reducible refine Keeps.foldl ?_ (fun _ _ => ?_) | split | (with_reducible apply Keeps.lit; (on_goal 2 => with_reducible rfl); first | with_reducible exact Keeps.refl _ | with_reducible assumption | with_reducible apply Keeps.trans _ (State.answered_keeps _ _ _) | with_reducible apply Keeps.trans _ (State.fillBack_keeps _ _ _ _) | with_reducible apply Keeps.trans _ (State.lineBack_keeps _ _ _) | with_reducible apply Keeps.trans _ (State.pageBack_keeps _ _ _ _) | with_reducible apply Keeps.trans _ (State.portLost_keeps _ _ _) | with_reducible apply Keeps.trans _ (State.sherdBack_keeps _ _ _ _) | with_reducible refine Keeps.ite (fun _ => ?_) (fun _ => ?_) | with_reducible refine Keeps.foldl ?_ (fun _ _ => ?_) | split))

theorem State.deliverMsg_keeps (s : State) (g : Nat) (m : GMsg) : Keeps s (State.deliverMsg s g m) := by
  unfold State.deliverMsg
  try dsimp only
  repeat' (first | with_reducible exact Keeps.refl _ | with_reducible apply Keeps.trans _ (State.lentRead_keeps _ _ _ _ _ _) | with_reducible apply Keeps.trans _ (State.lentWrite_keeps _ _ _ _ _ _) | with_reducible apply Keeps.trans _ (State.oxnIn_keeps _ _ _ _ _) | with_reducible apply Keeps.trans _ (State.peerCmp_keeps _ _ _ _) | with_reducible apply Keeps.trans _ (State.peerData_keeps _ _ _ _ _) | with_reducible apply Keeps.trans _ (State.portLost_keeps _ _ _) | with_reducible refine Keeps.ite (fun _ => ?_) (fun _ => ?_) | split | (with_reducible apply Keeps.lit; (on_goal 2 => with_reducible rfl); first | with_reducible exact Keeps.refl _ | with_reducible apply Keeps.trans _ (State.lentRead_keeps _ _ _ _ _ _) | with_reducible apply Keeps.trans _ (State.lentWrite_keeps _ _ _ _ _ _) | with_reducible apply Keeps.trans _ (State.oxnIn_keeps _ _ _ _ _) | with_reducible apply Keeps.trans _ (State.peerCmp_keeps _ _ _ _) | with_reducible apply Keeps.trans _ (State.peerData_keeps _ _ _ _ _) | with_reducible apply Keeps.trans _ (State.portLost_keeps _ _ _) | with_reducible refine Keeps.ite (fun _ => ?_) (fun _ => ?_) | split))

theorem State.fuBad_keeps (s : State) (g : Nat) : Keeps s (State.fuBad s g) := by
  unfold State.fuBad
  try dsimp only
  repeat' (first | with_reducible exact Keeps.refl _ | with_reducible assumption | with_reducible apply Keeps.trans _ (State.cnt_keeps _ _ _ _) | with_reducible apply Keeps.trans _ (State.sat_keeps _ _ _) | with_reducible apply Keeps.trans _ (State.sendNak_keeps _ _) | with_reducible apply Keeps.trans _ (State.setFlag_keeps _ _ _) | with_reducible apply Keeps.trans _ (State.stn_keeps _ _ _ _) | with_reducible apply Keeps.trans _ (State.updGp_keeps _ _ _) | with_reducible refine Keeps.ite (fun _ => ?_) (fun _ => ?_) | with_reducible refine Keeps.foldl ?_ (fun _ _ => ?_) | with_reducible refine Keeps.foldl_fst ?_ (fun _ _ => ?_) | with_reducible refine Keeps.foldl_snd ?_ (fun _ _ => ?_) | with_reducible apply Keeps.cond | with_reducible refine Keeps.getD ?_ (fun _ _ => ?_) | split | (with_reducible apply Keeps.lit; (on_goal 2 => with_reducible rfl); first | with_reducible exact Keeps.refl _ | with_reducible assumption | with_reducible apply Keeps.trans _ (State.cnt_keeps _ _ _ _) | with_reducible apply Keeps.trans _ (State.sat_keeps _ _ _) | with_reducible apply Keeps.trans _ (State.sendNak_keeps _ _) | with_reducible apply Keeps.trans _ (State.setFlag_keeps _ _ _) | with_reducible apply Keeps.trans _ (State.stn_keeps _ _ _ _) | with_reducible apply Keeps.trans _ (State.updGp_keeps _ _ _) | with_reducible refine Keeps.ite (fun _ => ?_) (fun _ => ?_) | with_reducible refine Keeps.foldl ?_ (fun _ _ => ?_) | with_reducible refine Keeps.foldl_fst ?_ (fun _ _ => ?_) | with_reducible refine Keeps.foldl_snd ?_ (fun _ _ => ?_) | with_reducible apply Keeps.cond | with_reducible refine Keeps.getD ?_ (fun _ _ => ?_) | split))

theorem State.fuDeliver_keeps (s : State) (g : Nat) (rsp : Bool) (payload : List Byte) : Keeps s (State.fuDeliver s g rsp payload) := by
  unfold State.fuDeliver
  try dsimp only
  repeat' (first | with_reducible exact Keeps.refl _ | with_reducible assumption | with_reducible apply Keeps.trans _ (State.deliverMsg_keeps _ _ _) | with_reducible apply Keeps.trans _ (State.updGp_keeps _ _ _) | with_reducible refine Keeps.ite (fun _ => ?_) (fun _ => ?_) | with_reducible refine Keeps.foldl ?_ (fun _ _ => ?_) | with_reducible refine Keeps.foldl_fst ?_ (fun _ _ => ?_) | with_reducible refine Keeps.foldl_snd ?_ (fun _ _ => ?_) | with_reducible apply Keeps.cond | with_reducible refine Keeps.getD ?_ (fun _ _ => ?_) | split | (with_reducible apply Keeps.lit; (on_goal 2 => with_reducible rfl); first | with_reducible exact Keeps.refl _ | with_reducible assumption | with_reducible apply Keeps.trans _ (State.deliverMsg_keeps _ _ _) | with_reducible apply Keeps.trans _ (State.updGp_keeps _ _ _) | with_reducible refine Keeps.ite (fun _ => ?_) (fun _ => ?_) | with_reducible refine Keeps.foldl ?_ (fun _ _ => ?_) | with_reducible refine Keeps.foldl_fst ?_ (fun _ _ => ?_) | with_reducible refine Keeps.foldl_snd ?_ (fun _ _ => ?_) | with_reducible apply Keeps.cond | with_reducible refine Keeps.getD ?_ (fun _ _ => ?_) | split))

theorem State.fuSeq_keeps (s : State) (g : Nat) (a : Nat) (rsp : Bool) (payload : List Byte) : Keeps s (State.fuSeq s g a rsp payload) := by
  unfold State.fuSeq
  try dsimp only
  repeat' (first | with_reducible exact Keeps.refl _ | with_reducible assumption | with_reducible apply Keeps.trans _ (State.fuDeliver_keeps _ _ _ _) | with_reducible apply Keeps.trans _ (State.goodFu_keeps _ _ _) | with_reducible apply Keeps.trans _ (State.updGp_keeps _ _ _) | with_reducible apply Keeps.trans _ (State.wr_keeps _ _ _) | with_reducible refine Keeps.ite (fun _ => ?_) (fun _ => ?_) | with_reducible refine Keeps.foldl ?_ (fun _ _ => ?_) | with_reducible refine Keeps.foldl_fst ?_ (fun _ _ => ?_) | with_reducible refine Keeps.foldl_snd ?_ (fun _ _ => ?_) | with_reducible apply Keeps.cond | with_reducible refine Keeps.getD ?_ (fun _ _ => ?_) | split | (with_reducible apply Keeps.lit; (on_goal 2 => with_reducible rfl); first | with_reducible exact Keeps.refl _ | with_reducible assumption | with_reducible apply Keeps.trans _ (State.fuDeliver_keeps _ _ _ _) | with_reducible apply Keeps.trans _ (State.goodFu_keeps _ _ _) | with_reducible apply Keeps.trans _ (State.updGp_keeps _ _ _) | with_reducible apply Keeps.trans _ (State.wr_keeps _ _ _) | with_reducible refine Keeps.ite (fun _ => ?_) (fun _ => ?_) | with_reducible refine Keeps.foldl ?_ (fun _ _ => ?_) | with_reducible refine Keeps.foldl_fst ?_ (fun _ _ => ?_) | with_reducible refine Keeps.foldl_snd ?_ (fun _ _ => ?_) | with_reducible apply Keeps.cond | with_reducible refine Keeps.getD ?_ (fun _ _ => ?_) | split))

theorem State.fuReceive_keeps (s : State) (g : Nat) (u : List Byte) : Keeps s (State.fuReceive s g u) := by
  unfold State.fuReceive
  try dsimp only
  repeat' (first | with_reducible exact Keeps.refl _ | with_reducible assumption | with_reducible apply Keeps.trans _ (State.ctlIn_keeps _ _ _ _) | with_reducible apply Keeps.trans _ (State.fuBad_keeps _ _) | with_reducible apply Keeps.trans _ (State.fuSeq_keeps _ _ _ _ _) | with_reducible apply Keeps.trans _ (State.goodFu_keeps _ _ _) | with_reducible refine Keeps.ite (fun _ => ?_) (fun _ => ?_) | with_reducible refine Keeps.foldl ?_ (fun _ _ => ?_) | split | (with_reducible apply Keeps.lit; (on_goal 2 => with_reducible rfl); first | with_reducible exact Keeps.refl _ | with_reducible assumption | with_reducible apply Keeps.trans _ (State.ctlIn_keeps _ _ _ _) | with_reducible apply Keeps.trans _ (State.fuBad_keeps _ _) | with_reducible apply Keeps.trans _ (State.fuSeq_keeps _ _ _ _ _) | with_reducible apply Keeps.trans _ (State.goodFu_keeps _ _ _) | with_reducible refine Keeps.ite (fun _ => ?_) (fun _ => ?_) | with_reducible refine Keeps.foldl ?_ (fun _ _ => ?_) | split))

theorem State.leaseExpiry_keeps (s : State) (l : Nat) : Keeps s (State.leaseExpiry s l) := by
  unfold State.leaseExpiry
  try dsimp only
  repeat' (first | with_reducible exact Keeps.refl _ | with_reducible apply Keeps.trans _ (State.loseLease_keeps _ _) | with_reducible refine Keeps.ite (fun _ => ?_) (fun _ => ?_) | split | (with_reducible apply Keeps.lit; (on_goal 2 => with_reducible rfl); first | with_reducible exact Keeps.refl _ | with_reducible apply Keeps.trans _ (State.loseLease_keeps _ _) | with_reducible refine Keeps.ite (fun _ => ?_) (fun _ => ?_) | split))

theorem State.leaseIdle_keeps (s : State) (l : Nat) : Keeps s (State.leaseIdle s l) := by
  unfold State.leaseIdle
  try dsimp only
  repeat' (first | with_reducible exact Keeps.refl _ | with_reducible apply Keeps.trans _ (State.pressure_keeps _) | with_reducible apply Keeps.trans _ (State.releaseLease_keeps _ _) | with_reducible apply Keeps.trans _ (State.showLeases_keeps _) | with_reducible refine Keeps.ite (fun _ => ?_) (fun _ => ?_) | split | (with_reducible apply Keeps.lit; (on_goal 2 => with_reducible rfl); first | with_reducible exact Keeps.refl _ | with_reducible apply Keeps.trans _ (State.pressure_keeps _) | with_reducible apply Keeps.trans _ (State.releaseLease_keeps _ _) | with_reducible apply Keeps.trans _ (State.showLeases_keeps _) | with_reducible refine Keeps.ite (fun _ => ?_) (fun _ => ?_) | split))

theorem State.leaseReclaim_keeps (s : State) (k : Nat) : Keeps s (State.leaseReclaim s k) := by
  unfold State.leaseReclaim
  try dsimp only
  repeat' (first | with_reducible exact Keeps.refl _ | with_reducible apply Keeps.trans _ (State.reclaim_keeps _ _) | with_reducible refine Keeps.ite (fun _ => ?_) (fun _ => ?_) | split | (with_reducible apply Keeps.lit; (on_goal 2 => with_reducible rfl); first | with_reducible exact Keeps.refl _ | with_reducible apply Keeps.trans _ (State.reclaim_keeps _ _) | with_reducible refine Keeps.ite (fun _ => ?_) (fun _ => ?_) | split))

theorem State.leaseRenewal_keeps (s : State) (l : Nat) : Keeps s (State.leaseRenewal s l) := by
  unfold State.leaseRenewal
  try dsimp only
  repeat' (first | with_reducible exact Keeps.refl _ | with_reducible apply Keeps.trans _ (State.openOxn_keeps _ _ _) | with_reducible refine Keeps.ite (fun _ => ?_) (fun _ => ?_) | split | (with_reducible apply Keeps.lit; (on_goal 2 => with_reducible rfl); first | with_reducible exact Keeps.refl _ | with_reducible apply Keeps.trans _ (State.openOxn_keeps _ _ _) | with_reducible refine Keeps.ite (fun _ => ?_) (fun _ => ?_) | split))

theorem State.leaseTrigger_keeps (s : State) (g : Nat) : Keeps s (State.leaseTrigger s g) := by
  unfold State.leaseTrigger
  try dsimp only
  repeat' (first | with_reducible exact Keeps.refl _ | with_reducible apply Keeps.trans _ (State.openOxn_keeps _ _ _) | with_reducible apply Keeps.trans _ (State.setDword_keeps _ _ _) | with_reducible apply Keeps.trans _ (State.updGp_keeps _ _ _) | with_reducible refine Keeps.ite (fun _ => ?_) (fun _ => ?_) | split | (with_reducible apply Keeps.lit; (on_goal 2 => with_reducible rfl); first | with_reducible exact Keeps.refl _ | with_reducible apply Keeps.trans _ (State.openOxn_keeps _ _ _) | with_reducible apply Keeps.trans _ (State.setDword_keeps _ _ _) | with_reducible apply Keeps.trans _ (State.updGp_keeps _ _ _) | with_reducible refine Keeps.ite (fun _ => ?_) (fun _ => ?_) | split))

theorem State.oxnResume_keeps (s : State) (g : Nat) : Keeps s (State.oxnResume s g) := by
  unfold State.oxnResume
  try dsimp only
  repeat' (first | with_reducible exact Keeps.refl _ | with_reducible assumption | with_reducible apply Keeps.trans _ (State.openOxn_keeps _ _ _) | with_reducible apply Keeps.trans _ (State.oxnIn_keeps _ _ _ _ _) | with_reducible apply Keeps.trans _ (State.updGp_keeps _ _ _) | with_reducible refine Keeps.ite (fun _ => ?_) (fun _ => ?_) | with_reducible refine Keeps.foldl ?_ (fun _ _ => ?_) | with_reducible refine Keeps.foldl_fst ?_ (fun _ _ => ?_) | with_reducible refine Keeps.foldl_snd ?_ (fun _ _ => ?_) | with_reducible apply Keeps.cond | with_reducible refine Keeps.getD ?_ (fun _ _ => ?_) | split | (with_reducible apply Keeps.lit; (on_goal 2 => with_reducible rfl); first | with_reducible exact Keeps.refl _ | with_reducible assumption | with_reducible apply Keeps.trans _ (State.openOxn_keeps _ _ _) | with_reducible apply Keeps.trans _ (State.oxnIn_keeps _ _ _ _ _) | with_reducible apply Keeps.trans _ (State.updGp_keeps _ _ _) | with_reducible refine Keeps.ite (fun _ => ?_) (fun _ => ?_) | with_reducible refine Keeps.foldl ?_ (fun _ _ => ?_) | with_reducible refine Keeps.foldl_fst ?_ (fun _ _ => ?_) | with_reducible refine Keeps.foldl_snd ?_ (fun _ _ => ?_) | with_reducible apply Keeps.cond | with_reducible refine Keeps.getD ?_ (fun _ _ => ?_) | split))

theorem State.oxnTimeout_keeps (s : State) (g : Nat) (tag : Nat) : Keeps s (State.oxnTimeout s g tag) := by
  unfold State.oxnTimeout
  try dsimp only
  repeat' (first | with_reducible exact Keeps.refl _ | with_reducible assumption | with_reducible apply Keeps.trans _ (State.oxnFails_keeps _ _) | with_reducible apply Keeps.trans _ (State.oxnNext_keeps _ _) | with_reducible apply Keeps.trans _ (State.queueReq_keeps _ _ _) | with_reducible apply Keeps.trans _ (State.updGp_keeps _ _ _) | with_reducible refine Keeps.ite (fun _ => ?_) (fun _ => ?_) | with_reducible refine Keeps.foldl ?_ (fun _ _ => ?_) | with_reducible refine Keeps.foldl_fst ?_ (fun _ _ => ?_) | with_reducible refine Keeps.foldl_snd ?_ (fun _ _ => ?_) | with_reducible apply Keeps.cond | with_reducible refine Keeps.getD ?_ (fun _ _ => ?_) | split | (with_reducible apply Keeps.lit; (on_goal 2 => with_reducible rfl); first | with_reducible exact Keeps.refl _ | with_reducible assumption | with_reducible apply Keeps.trans _ (State.oxnFails_keeps _ _) | with_reducible apply Keeps.trans _ (State.oxnNext_keeps _ _) | with_reducible apply Keeps.trans _ (State.queueReq_keeps _ _ _) | with_reducible apply Keeps.trans _ (State.updGp_keeps _ _ _) | with_reducible refine Keeps.ite (fun _ => ?_) (fun _ => ?_) | with_reducible refine Keeps.foldl ?_ (fun _ _ => ?_) | with_reducible refine Keeps.foldl_fst ?_ (fun _ _ => ?_) | with_reducible refine Keeps.foldl_snd ?_ (fun _ _ => ?_) | with_reducible apply Keeps.cond | with_reducible refine Keeps.getD ?_ (fun _ _ => ?_) | split))

end Sys2Proof.Machine
end

