-- ==== Sys2Proof/Laws/KeepsRecovery.lean ====
section
/-! SUPPORT. Every operation of Machine/Recovery.lean keeps what `Keeps` says: one lemma for each. -/
namespace Sys2Proof.Machine
set_option linter.unreachableTactic false
set_option linter.unusedTactic false

theorem State.accUe_keeps (s : State) (p : Nat) : Keeps s (State.accUe s p) := by
  unfold State.accUe
  try dsimp only
  repeat' (first | with_reducible exact Keeps.refl _ | with_reducible apply Keeps.trans _ (State.abortMove_keeps _ _) | with_reducible apply Keeps.trans _ (State.raise_keeps _ _ _ _) | with_reducible apply Keeps.trans _ (State.setForm_keeps _ _ _) | with_reducible apply Keeps.trans _ (State.stn_keeps _ _ _ _) | with_reducible apply Keeps.trans _ (State.advanceFree_keeps _) | with_reducible refine Keeps.ite (fun _ => ?_) (fun _ => ?_) | split | (with_reducible apply Keeps.lit; (on_goal 2 => with_reducible rfl); first | with_reducible exact Keeps.refl _ | with_reducible apply Keeps.trans _ (State.abortMove_keeps _ _) | with_reducible apply Keeps.trans _ (State.raise_keeps _ _ _ _) | with_reducible apply Keeps.trans _ (State.setForm_keeps _ _ _) | with_reducible apply Keeps.trans _ (State.stn_keeps _ _ _ _) | with_reducible apply Keeps.trans _ (State.advanceFree_keeps _) | with_reducible refine Keeps.ite (fun _ => ?_) (fun _ => ?_) | split))

theorem State.aerAll_keeps (s : State) : Keeps s (State.aerAll s) := by
  unfold State.aerAll
  try dsimp only
  repeat' (first | with_reducible exact Keeps.refl _ | with_reducible assumption | with_reducible apply Keeps.trans _ (State.emit_keeps _ _) | with_reducible refine Keeps.ite (fun _ => ?_) (fun _ => ?_) | with_reducible refine Keeps.foldl ?_ (fun _ _ => ?_) | split | (with_reducible apply Keeps.lit; (on_goal 2 => with_reducible rfl); first | with_reducible exact Keeps.refl _ | with_reducible assumption | with_reducible apply Keeps.trans _ (State.emit_keeps _ _) | with_reducible refine Keeps.ite (fun _ => ?_) (fun _ => ?_) | with_reducible refine Keeps.foldl ?_ (fun _ _ => ?_) | split))

theorem State.lostDram_keeps (s : State) (code : Nat) (r : DramRd) : Keeps s (State.lostDram s code r) := by
  unfold State.lostDram
  try dsimp only
  repeat' (first | with_reducible exact Keeps.refl _ | with_reducible assumption | with_reducible apply Keeps.trans _ (State.discard_keeps _ _ _ _ _) | with_reducible apply Keeps.trans _ (State.discardDecode_keeps _ _ _) | with_reducible apply Keeps.trans _ (State.freeEngine_keeps _ _) | with_reducible apply Keeps.trans _ (State.metaBack_keeps _ _ _ _ _) | with_reducible apply Keeps.trans _ (State.passMark_keeps _ _ _) | with_reducible apply Keeps.trans _ (State.rakeBack_keeps _ _ _ _ _) | with_reducible apply Keeps.trans _ (State.sherdBack_keeps _ _ _ _) | with_reducible refine Keeps.ite (fun _ => ?_) (fun _ => ?_) | with_reducible refine Keeps.foldl ?_ (fun _ _ => ?_) | split | (with_reducible apply Keeps.lit; (on_goal 2 => with_reducible rfl); first | with_reducible exact Keeps.refl _ | with_reducible assumption | with_reducible apply Keeps.trans _ (State.discard_keeps _ _ _ _ _) | with_reducible apply Keeps.trans _ (State.discardDecode_keeps _ _ _) | with_reducible apply Keeps.trans _ (State.freeEngine_keeps _ _) | with_reducible apply Keeps.trans _ (State.metaBack_keeps _ _ _ _ _) | with_reducible apply Keeps.trans _ (State.passMark_keeps _ _ _) | with_reducible apply Keeps.trans _ (State.rakeBack_keeps _ _ _ _ _) | with_reducible apply Keeps.trans _ (State.sherdBack_keeps _ _ _ _) | with_reducible refine Keeps.ite (fun _ => ?_) (fun _ => ?_) | with_reducible refine Keeps.foldl ?_ (fun _ _ => ?_) | split))

theorem State.lostMeta_keeps (s : State) : Keeps s (State.lostMeta s) := by
  unfold State.lostMeta
  repeat' (first | with_reducible exact Keeps.refl _ | (with_reducible apply Keeps.lit; (on_goal 2 => with_reducible rfl); first | with_reducible exact Keeps.refl _))

theorem State.loseChannel_keeps (s : State) (c : Nat) (code : Nat) : Keeps s (State.loseChannel s c code) := by
  unfold State.loseChannel
  try dsimp only
  repeat' (first | with_reducible exact Keeps.refl _ | with_reducible assumption | with_reducible apply Keeps.trans _ (State.abortMove_keeps _ _) | with_reducible apply Keeps.trans _ (State.lostDram_keeps _ _ _) | with_reducible apply Keeps.trans _ (State.lostMeta_keeps _) | with_reducible apply Keeps.trans _ (State.lostPage_keeps _ _) | with_reducible apply Keeps.trans _ (State.pressure_keeps _) | with_reducible apply Keeps.trans _ (State.raiseCh_keeps _ _ _ _ _) | with_reducible apply Keeps.trans _ (State.setFlag_keeps _ _ _) | with_reducible apply Keeps.trans _ (State.updCh_keeps _ _ _) | with_reducible apply Keeps.trans _ (State.wr_keeps _ _ _) | with_reducible refine Keeps.ite (fun _ => ?_) (fun _ => ?_) | with_reducible refine Keeps.foldl ?_ (fun _ _ => ?_) | split | (with_reducible apply Keeps.lit; (on_goal 2 => with_reducible rfl); first | with_reducible exact Keeps.refl _ | with_reducible assumption | with_reducible apply Keeps.trans _ (State.abortMove_keeps _ _) | with_reducible apply Keeps.trans _ (State.lostDram_keeps _ _ _) | with_reducible apply Keeps.trans _ (State.lostMeta_keeps _) | with_reducible apply Keeps.trans _ (State.lostPage_keeps _ _) | with_reducible apply Keeps.trans _ (State.pressure_keeps _) | with_reducible apply Keeps.trans _ (State.raiseCh_keeps _ _ _ _ _) | with_reducible apply Keeps.trans _ (State.setFlag_keeps _ _ _) | with_reducible apply Keeps.trans _ (State.updCh_keeps _ _ _) | with_reducible apply Keeps.trans _ (State.wr_keeps _ _ _) | with_reducible refine Keeps.ite (fun _ => ?_) (fun _ => ?_) | with_reducible refine Keeps.foldl ?_ (fun _ _ => ?_) | split))

theorem State.chanLost_keeps (s : State) (c : Nat) (cause : Nat) : Keeps s (State.chanLost s c cause) := by
  unfold State.chanLost
  try dsimp only
  repeat' (first | with_reducible exact Keeps.refl _ | with_reducible apply Keeps.trans _ (State.loseChannel_keeps _ _ _) | with_reducible apply Keeps.trans _ (State.wr_keeps _ _ _) | with_reducible refine Keeps.ite (fun _ => ?_) (fun _ => ?_) | split | (with_reducible apply Keeps.lit; (on_goal 2 => with_reducible rfl); first | with_reducible exact Keeps.refl _ | with_reducible apply Keeps.trans _ (State.loseChannel_keeps _ _ _) | with_reducible apply Keeps.trans _ (State.wr_keeps _ _ _) | with_reducible refine Keeps.ite (fun _ => ?_) (fun _ => ?_) | split))

theorem State.alertReport_keeps (s : State) (c : Nat) : Keeps s (State.alertReport s c) := by
  unfold State.alertReport
  try dsimp only
  repeat' (first | with_reducible exact Keeps.refl _ | with_reducible apply Keeps.trans _ (State.chanLost_keeps _ _ _) | with_reducible apply Keeps.trans _ (State.updCh_keeps _ _ _) | with_reducible refine Keeps.ite (fun _ => ?_) (fun _ => ?_) | split | (with_reducible apply Keeps.lit; (on_goal 2 => with_reducible rfl); first | with_reducible exact Keeps.refl _ | with_reducible apply Keeps.trans _ (State.chanLost_keeps _ _ _) | with_reducible apply Keeps.trans _ (State.updCh_keeps _ _ _) | with_reducible refine Keeps.ite (fun _ => ?_) (fun _ => ?_) | split))

theorem State.ctrUe_keeps (s : State) (space : Bool) (level : Nat) (node : Nat) : Keeps s (State.ctrUe s space level node) := by
  unfold State.ctrUe
  try dsimp only
  repeat' (first | with_reducible exact Keeps.refl _ | with_reducible apply Keeps.trans _ (State.recordLoss_keeps _ _ _ _) | with_reducible apply Keeps.trans _ (State.uncache_keeps _ _ _ _) | with_reducible refine Keeps.ite (fun _ => ?_) (fun _ => ?_) | split | (with_reducible apply Keeps.lit; (on_goal 2 => with_reducible rfl); first | with_reducible exact Keeps.refl _ | with_reducible apply Keeps.trans _ (State.recordLoss_keeps _ _ _ _) | with_reducible apply Keeps.trans _ (State.uncache_keeps _ _ _ _) | with_reducible refine Keeps.ite (fun _ => ?_) (fun _ => ?_) | split))

theorem State.requeue_keeps (s : State) (line : Nat) : Keeps s (State.requeue s line) := by
  unfold State.requeue
  try dsimp only
  repeat' (first | with_reducible exact Keeps.refl _ | with_reducible assumption | with_reducible apply Keeps.trans _ (State.setTxn_keeps _ _) | with_reducible refine Keeps.ite (fun _ => ?_) (fun _ => ?_) | with_reducible refine Keeps.foldl ?_ (fun _ _ => ?_) | with_reducible refine Keeps.foldl_fst ?_ (fun _ _ => ?_) | with_reducible refine Keeps.foldl_snd ?_ (fun _ _ => ?_) | with_reducible apply Keeps.cond | with_reducible refine Keeps.getD ?_ (fun _ _ => ?_) | split | (with_reducible apply Keeps.lit; (on_goal 2 => with_reducible rfl); first | with_reducible exact Keeps.refl _ | with_reducible assumption | with_reducible apply Keeps.trans _ (State.setTxn_keeps _ _) | with_reducible refine Keeps.ite (fun _ => ?_) (fun _ => ?_) | with_reducible refine Keeps.foldl ?_ (fun _ _ => ?_) | with_reducible refine Keeps.foldl_fst ?_ (fun _ _ => ?_) | with_reducible refine Keeps.foldl_snd ?_ (fun _ _ => ?_) | with_reducible apply Keeps.cond | with_reducible refine Keeps.getD ?_ (fun _ _ => ?_) | split))

theorem State.dirUe_keeps (s : State) (slice : Nat) (set : Nat) (way : Nat) (tagGood : Bool) : Keeps s (State.dirUe s slice set way tagGood) := by
  unfold State.dirUe
  try dsimp only
  repeat' (first | with_reducible exact Keeps.refl _ | with_reducible assumption | with_reducible apply Keeps.trans _ (State.delWay_keeps _ _) | with_reducible apply Keeps.trans _ (State.endExch_keeps _ _ _) | with_reducible apply Keeps.trans _ (State.openExch_keeps _ _ _ _ _) | with_reducible apply Keeps.trans _ (State.putWay_keeps _ _ _) | with_reducible apply Keeps.trans _ (State.raise_keeps _ _ _ _) | with_reducible apply Keeps.trans _ (State.requeue_keeps _ _) | with_reducible apply Keeps.trans _ (State.emit_keeps _ _) | with_reducible refine Keeps.ite (fun _ => ?_) (fun _ => ?_) | with_reducible refine Keeps.foldl ?_ (fun _ _ => ?_) | split | (with_reducible apply Keeps.lit; (on_goal 2 => with_reducible rfl); first | with_reducible exact Keeps.refl _ | with_reducible assumption | with_reducible apply Keeps.trans _ (State.delWay_keeps _ _) | with_reducible apply Keeps.trans _ (State.endExch_keeps _ _ _) | with_reducible apply Keeps.trans _ (State.openExch_keeps _ _ _ _ _) | with_reducible apply Keeps.trans _ (State.putWay_keeps _ _ _) | with_reducible apply Keeps.trans _ (State.raise_keeps _ _ _ _) | with_reducible apply Keeps.trans _ (State.requeue_keeps _ _) | with_reducible apply Keeps.trans _ (State.emit_keeps _ _) | with_reducible refine Keeps.ite (fun _ => ?_) (fun _ => ?_) | with_reducible refine Keeps.foldl ?_ (fun _ _ => ?_) | split))

theorem State.discardAll_keeps (s : State) : Keeps s (State.discardAll s) := by
  unfold State.discardAll
  try dsimp only
  repeat' (first | with_reducible exact Keeps.refl _ | with_reducible assumption | with_reducible apply Keeps.trans _ (State.discard_keeps _ _ _ _ _) | with_reducible refine Keeps.ite (fun _ => ?_) (fun _ => ?_) | with_reducible refine Keeps.foldl ?_ (fun _ _ => ?_) | split | (with_reducible apply Keeps.lit; (on_goal 2 => with_reducible rfl); first | with_reducible exact Keeps.refl _ | with_reducible assumption | with_reducible apply Keeps.trans _ (State.discard_keeps _ _ _ _ _) | with_reducible refine Keeps.ite (fun _ => ?_) (fun _ => ?_) | with_reducible refine Keeps.foldl ?_ (fun _ _ => ?_) | split))

theorem State.failBg_keeps (s : State) (rc : Nat) (isIt : Bg → Bool) : Keeps s (State.failBg s rc isIt) := by
  unfold State.failBg
  try dsimp only
  repeat' (first | with_reducible exact Keeps.refl _ | with_reducible assumption | with_reducible apply Keeps.trans _ (State.endPasses_keeps _ _) | with_reducible apply Keeps.trans _ (State.sendDone_keeps _ _ _ _) | with_reducible refine Keeps.ite (fun _ => ?_) (fun _ => ?_) | with_reducible refine Keeps.foldl ?_ (fun _ _ => ?_) | with_reducible refine Keeps.foldl_fst ?_ (fun _ _ => ?_) | with_reducible refine Keeps.foldl_snd ?_ (fun _ _ => ?_) | with_reducible apply Keeps.cond | with_reducible refine Keeps.getD ?_ (fun _ _ => ?_) | split | (with_reducible apply Keeps.lit; (on_goal 2 => with_reducible rfl); first | with_reducible exact Keeps.refl _ | with_reducible assumption | with_reducible apply Keeps.trans _ (State.endPasses_keeps _ _) | with_reducible apply Keeps.trans _ (State.sendDone_keeps _ _ _ _) | with_reducible refine Keeps.ite (fun _ => ?_) (fun _ => ?_) | with_reducible refine Keeps.foldl ?_ (fun _ _ => ?_) | with_reducible refine Keeps.foldl_fst ?_ (fun _ _ => ?_) | with_reducible refine Keeps.foldl_snd ?_ (fun _ _ => ?_) | with_reducible apply Keeps.cond | with_reducible refine Keeps.getD ?_ (fun _ _ => ?_) | split))

theorem State.interruptBg_keeps (s : State) : Keeps s (State.interruptBg s) := by
  unfold State.interruptBg
  try dsimp only
  repeat' (first | with_reducible exact Keeps.refl _ | with_reducible assumption | with_reducible apply Keeps.trans _ (State.sendDone_keeps _ _ _ _) | with_reducible refine Keeps.ite (fun _ => ?_) (fun _ => ?_) | with_reducible refine Keeps.foldl ?_ (fun _ _ => ?_) | with_reducible refine Keeps.foldl_fst ?_ (fun _ _ => ?_) | with_reducible refine Keeps.foldl_snd ?_ (fun _ _ => ?_) | with_reducible apply Keeps.cond | with_reducible refine Keeps.getD ?_ (fun _ _ => ?_) | split | (with_reducible apply Keeps.lit; (on_goal 2 => with_reducible rfl); first | with_reducible exact Keeps.refl _ | with_reducible assumption | with_reducible apply Keeps.trans _ (State.sendDone_keeps _ _ _ _) | with_reducible refine Keeps.ite (fun _ => ?_) (fun _ => ?_) | with_reducible refine Keeps.foldl ?_ (fun _ _ => ?_) | with_reducible refine Keeps.foldl_fst ?_ (fun _ _ => ?_) | with_reducible refine Keeps.foldl_snd ?_ (fun _ _ => ?_) | with_reducible apply Keeps.cond | with_reducible refine Keeps.getD ?_ (fun _ _ => ?_) | split))

theorem State.interruptWidth_keeps (s : State) (g : Nat) : Keeps s (State.interruptWidth s g) := by
  unfold State.interruptWidth
  try dsimp only
  repeat' (first | with_reducible exact Keeps.refl _ | with_reducible assumption | with_reducible apply Keeps.trans _ (State.sendReply_keeps _ _ _ _ _ _ _ _) | with_reducible apply Keeps.trans _ (State.updGp_keeps _ _ _) | with_reducible refine Keeps.ite (fun _ => ?_) (fun _ => ?_) | with_reducible refine Keeps.foldl ?_ (fun _ _ => ?_) | with_reducible refine Keeps.foldl_fst ?_ (fun _ _ => ?_) | with_reducible refine Keeps.foldl_snd ?_ (fun _ _ => ?_) | with_reducible apply Keeps.cond | with_reducible refine Keeps.getD ?_ (fun _ _ => ?_) | split | (with_reducible apply Keeps.lit; (on_goal 2 => with_reducible rfl); first | with_reducible exact Keeps.refl _ | with_reducible assumption | with_reducible apply Keeps.trans _ (State.sendReply_keeps _ _ _ _ _ _ _ _) | with_reducible apply Keeps.trans _ (State.updGp_keeps _ _ _) | with_reducible refine Keeps.ite (fun _ => ?_) (fun _ => ?_) | with_reducible refine Keeps.foldl ?_ (fun _ _ => ?_) | with_reducible refine Keeps.foldl_fst ?_ (fun _ _ => ?_) | with_reducible refine Keeps.foldl_snd ?_ (fun _ _ => ?_) | with_reducible apply Keeps.cond | with_reducible refine Keeps.getD ?_ (fun _ _ => ?_) | split))

theorem State.dropCommands_keeps (s : State) (p : Nat) : Keeps s (State.dropCommands s p) := by
  unfold State.dropCommands
  try dsimp only
  repeat' (first | with_reducible exact Keeps.refl _ | with_reducible apply Keeps.trans _ (State.failBg_keeps _ _ _) | with_reducible apply Keeps.trans _ (State.interruptBg_keeps _) | with_reducible apply Keeps.trans _ (State.interruptWidth_keeps _ _) | with_reducible refine Keeps.ite (fun _ => ?_) (fun _ => ?_) | split | (with_reducible apply Keeps.lit; (on_goal 2 => with_reducible rfl); first | with_reducible exact Keeps.refl _ | with_reducible apply Keeps.trans _ (State.failBg_keeps _ _ _) | with_reducible apply Keeps.trans _ (State.interruptBg_keeps _) | with_reducible apply Keeps.trans _ (State.interruptWidth_keeps _ _) | with_reducible refine Keeps.ite (fun _ => ?_) (fun _ => ?_) | split))

theorem State.dropHeld_keeps (s : State) (q : Req) : Keeps s (State.dropHeld s q) := by
  unfold State.dropHeld
  try dsimp only
  repeat' (first | with_reducible exact Keeps.refl _ | with_reducible apply Keeps.trans _ (State.discard_keeps _ _ _ _ _) | with_reducible refine Keeps.ite (fun _ => ?_) (fun _ => ?_) | split | (with_reducible apply Keeps.lit; (on_goal 2 => with_reducible rfl); first | with_reducible exact Keeps.refl _ | with_reducible apply Keeps.trans _ (State.discard_keeps _ _ _ _ _) | with_reducible refine Keeps.ite (fun _ => ?_) (fun _ => ?_) | split))

theorem State.dropPlans_keeps (s : State) (p : Nat) : Keeps s (State.dropPlans s p) := by
  unfold State.dropPlans
  try dsimp only
  repeat' (first | with_reducible exact Keeps.refl _ | with_reducible assumption | with_reducible refine Keeps.ite (fun _ => ?_) (fun _ => ?_) | with_reducible refine Keeps.foldl ?_ (fun _ _ => ?_) | split | (with_reducible apply Keeps.lit; (on_goal 2 => with_reducible rfl); first | with_reducible exact Keeps.refl _ | with_reducible assumption | with_reducible refine Keeps.ite (fun _ => ?_) (fun _ => ?_) | with_reducible refine Keeps.foldl ?_ (fun _ _ => ?_) | split))

theorem State.safeEntry_keeps (s : State) (cause : Nat) : Keeps s (State.safeEntry s cause) := by
  unfold State.safeEntry
  try dsimp only
  with_reducible refine Keeps.ite (fun _ => Keeps.refl _) (fun _ => ?_)
  refine Keeps.lit (Keeps.trans ?_ (State.emit_keeps _ (.alertN false))) rfl
  repeat' (first | with_reducible exact Keeps.refl _ | with_reducible apply Keeps.trans _ (State.aerAll_keeps _) | with_reducible apply Keeps.trans _ (State.discardAll_keeps _) | with_reducible apply Keeps.trans _ (State.portsDown_keeps _) | with_reducible apply Keeps.trans _ (State.raise_keeps _ _ _ _) | with_reducible apply Keeps.trans _ (State.setFlag_keeps _ _ _) | with_reducible apply Keeps.trans _ (State.stn_keeps _ _ _ _) | with_reducible apply Keeps.trans _ (State.trigger_keeps _ _ _) | with_reducible apply Keeps.trans _ (State.wr_keeps _ _ _) | (with_reducible apply Keeps.lit; (on_goal 2 => with_reducible rfl); first | with_reducible exact Keeps.refl _ | with_reducible apply Keeps.trans _ (State.aerAll_keeps _) | with_reducible apply Keeps.trans _ (State.discardAll_keeps _) | with_reducible apply Keeps.trans _ (State.portsDown_keeps _) | with_reducible apply Keeps.trans _ (State.raise_keeps _ _ _ _) | with_reducible apply Keeps.trans _ (State.setFlag_keeps _ _ _) | with_reducible apply Keeps.trans _ (State.stn_keeps _ _ _ _) | with_reducible apply Keeps.trans _ (State.trigger_keeps _ _ _) | with_reducible apply Keeps.trans _ (State.wr_keeps _ _ _)))

theorem State.giveDuty_keeps (s : State) (n : Nat) (p : Nat) : Keeps s (State.giveDuty s n p) := by
  unfold State.giveDuty
  repeat' (first | with_reducible exact Keeps.refl _ | with_reducible apply Keeps.trans _ (State.wr_keeps _ _ _))

theorem State.handOver_keeps (s : State) : Keeps s (State.handOver s) := by
  unfold State.handOver
  try dsimp only
  repeat' (first | with_reducible exact Keeps.refl _ | with_reducible assumption | with_reducible apply Keeps.trans _ (State.giveDuty_keeps _ _ _) | with_reducible refine Keeps.ite (fun _ => ?_) (fun _ => ?_) | with_reducible refine Keeps.foldl ?_ (fun _ _ => ?_) | split | (with_reducible apply Keeps.lit; (on_goal 2 => with_reducible rfl); first | with_reducible exact Keeps.refl _ | with_reducible assumption | with_reducible apply Keeps.trans _ (State.giveDuty_keeps _ _ _) | with_reducible refine Keeps.ite (fun _ => ?_) (fun _ => ?_) | with_reducible refine Keeps.foldl ?_ (fun _ _ => ?_) | split))

theorem State.unfence_keeps (s : State) : Keeps s (State.unfence s) := by
  unfold State.unfence
  repeat' (first | with_reducible exact Keeps.refl _ | with_reducible apply Keeps.trans _ (State.handOver_keeps _) | with_reducible apply Keeps.trans _ (State.oxnResume_keeps _ _) | with_reducible apply Keeps.trans _ (State.wr_keeps _ _ _) | (with_reducible apply Keeps.lit; (on_goal 2 => with_reducible rfl); first | with_reducible exact Keeps.refl _ | with_reducible apply Keeps.trans _ (State.handOver_keeps _) | with_reducible apply Keeps.trans _ (State.oxnResume_keeps _ _) | with_reducible apply Keeps.trans _ (State.wr_keeps _ _ _)))

theorem State.fenceExpires_keeps (s : State) : Keeps s (State.fenceExpires s) := by
  unfold State.fenceExpires
  try dsimp only
  repeat' (first | with_reducible exact Keeps.refl _ | with_reducible assumption | with_reducible apply Keeps.trans _ (State.dropHeld_keeps _ _) | with_reducible apply Keeps.trans _ (State.safeEntry_keeps _ _) | with_reducible apply Keeps.trans _ (State.setFlag_keeps _ _ _) | with_reducible apply Keeps.trans _ (State.unfence_keeps _) | with_reducible refine Keeps.ite (fun _ => ?_) (fun _ => ?_) | with_reducible refine Keeps.foldl ?_ (fun _ _ => ?_) | split | (with_reducible apply Keeps.lit; (on_goal 2 => with_reducible rfl); first | with_reducible exact Keeps.refl _ | with_reducible assumption | with_reducible apply Keeps.trans _ (State.dropHeld_keeps _ _) | with_reducible apply Keeps.trans _ (State.safeEntry_keeps _ _) | with_reducible apply Keeps.trans _ (State.setFlag_keeps _ _ _) | with_reducible apply Keeps.trans _ (State.unfence_keeps _) | with_reducible refine Keeps.ite (fun _ => ?_) (fun _ => ?_) | with_reducible refine Keeps.foldl ?_ (fun _ _ => ?_) | split))

theorem State.footUe_keeps (s : State) (p : Nat) : Keeps s (State.footUe s p) := by
  unfold State.footUe
  repeat' (first | with_reducible exact Keeps.refl _ | with_reducible apply Keeps.trans _ (State.raise_keeps _ _ _ _) | with_reducible apply Keeps.trans _ (State.setAcc_keeps _ _ _) | with_reducible apply Keeps.trans _ (State.stn_keeps _ _ _ _) | (with_reducible apply Keeps.lit; (on_goal 2 => with_reducible rfl); first | with_reducible exact Keeps.refl _ | with_reducible apply Keeps.trans _ (State.raise_keeps _ _ _ _) | with_reducible apply Keeps.trans _ (State.setAcc_keeps _ _ _) | with_reducible apply Keeps.trans _ (State.stn_keeps _ _ _ _)))

theorem State.keyUe_keeps (s : State) (k : Nat) : Keeps s (State.keyUe s k) := by
  unfold State.keyUe
  try dsimp only
  repeat' (first | with_reducible exact Keeps.refl _ | with_reducible assumption | with_reducible apply Keeps.trans _ (State.updRegion_keeps _ _ _) | with_reducible refine Keeps.ite (fun _ => ?_) (fun _ => ?_) | with_reducible refine Keeps.foldl ?_ (fun _ _ => ?_) | split | (with_reducible apply Keeps.lit; (on_goal 2 => with_reducible rfl); first | with_reducible exact Keeps.refl _ | with_reducible assumption | with_reducible apply Keeps.trans _ (State.updRegion_keeps _ _ _) | with_reducible refine Keeps.ite (fun _ => ?_) (fun _ => ?_) | with_reducible refine Keeps.foldl ?_ (fun _ _ => ?_) | split))

theorem State.kickDog_keeps (s : State) (p : Nat) : Keeps s (State.kickDog s p) := by
  unfold State.kickDog
  repeat' (first | with_reducible exact Keeps.refl _ | (with_reducible apply Keeps.lit; (on_goal 2 => with_reducible rfl); first | with_reducible exact Keeps.refl _))

theorem State.linkLost_keeps (s : State) (die : Nat) : Keeps s (State.linkLost s die) := by
  unfold State.linkLost
  try dsimp only
  repeat' (first | with_reducible exact Keeps.refl _ | with_reducible assumption | with_reducible apply Keeps.trans _ (State.loseChannel_keeps _ _ _) | with_reducible apply Keeps.trans _ (State.setFlag_keeps _ _ _) | with_reducible apply Keeps.trans _ (State.wr_keeps _ _ _) | with_reducible refine Keeps.ite (fun _ => ?_) (fun _ => ?_) | with_reducible refine Keeps.foldl ?_ (fun _ _ => ?_) | split | (with_reducible apply Keeps.lit; (on_goal 2 => with_reducible rfl); first | with_reducible exact Keeps.refl _ | with_reducible assumption | with_reducible apply Keeps.trans _ (State.loseChannel_keeps _ _ _) | with_reducible apply Keeps.trans _ (State.setFlag_keeps _ _ _) | with_reducible apply Keeps.trans _ (State.wr_keeps _ _ _) | with_reducible refine Keeps.ite (fun _ => ?_) (fun _ => ?_) | with_reducible refine Keeps.foldl ?_ (fun _ _ => ?_) | split))

theorem State.lostBuffered_keeps (s : State) (slice : Nat) (w : WcbLine) : Keeps s (State.lostBuffered s slice w) := by
  unfold State.lostBuffered
  try dsimp only
  repeat' (first | with_reducible exact Keeps.refl _ | with_reducible assumption | with_reducible apply Keeps.trans _ (State.countDiscard_keeps _ _ _ _ _ _ _) | with_reducible apply Keeps.trans _ (State.fenceLoses_keeps _ _ _ _) | with_reducible refine Keeps.ite (fun _ => ?_) (fun _ => ?_) | with_reducible refine Keeps.foldl ?_ (fun _ _ => ?_) | with_reducible refine Keeps.foldl_fst ?_ (fun _ _ => ?_) | with_reducible refine Keeps.foldl_snd ?_ (fun _ _ => ?_) | with_reducible apply Keeps.cond | with_reducible refine Keeps.getD ?_ (fun _ _ => ?_) | split | (with_reducible apply Keeps.lit; (on_goal 2 => with_reducible rfl); first | with_reducible exact Keeps.refl _ | with_reducible assumption | with_reducible apply Keeps.trans _ (State.countDiscard_keeps _ _ _ _ _ _ _) | with_reducible apply Keeps.trans _ (State.fenceLoses_keeps _ _ _ _) | with_reducible refine Keeps.ite (fun _ => ?_) (fun _ => ?_) | with_reducible refine Keeps.foldl ?_ (fun _ _ => ?_) | with_reducible refine Keeps.foldl_fst ?_ (fun _ _ => ?_) | with_reducible refine Keeps.foldl_snd ?_ (fun _ _ => ?_) | with_reducible apply Keeps.cond | with_reducible refine Keeps.getD ?_ (fun _ _ => ?_) | split))

theorem State.pairBack_keeps (s : State) (p : Nat) : Keeps s (State.pairBack s p) := by
  unfold State.pairBack
  try dsimp only
  repeat' (first | with_reducible exact Keeps.refl _ | with_reducible apply Keeps.trans _ (State.kickDog_keeps _ _) | with_reducible apply Keeps.trans _ (State.wrBit_keeps _ _ _ _) | with_reducible refine Keeps.ite (fun _ => ?_) (fun _ => ?_) | split | (with_reducible apply Keeps.lit; (on_goal 2 => with_reducible rfl); first | with_reducible exact Keeps.refl _ | with_reducible apply Keeps.trans _ (State.kickDog_keeps _ _) | with_reducible apply Keeps.trans _ (State.wrBit_keeps _ _ _ _) | with_reducible refine Keeps.ite (fun _ => ?_) (fun _ => ?_) | split))

theorem State.pairFail_keeps (s : State) (p how : Nat) : Keeps s (State.pairFail s p how) := by
  unfold State.pairFail
  refine Keeps.ite (fun _ => Keeps.refl _) (fun _ => ?_)
  extract_lets a b c w d e we f wf
  have ha : Keeps s a := (State.wrBit_keeps _ _ _ _).trans (State.sat_keeps _ _ _)
  have hb : Keeps s b := ((ha.trans (State.raise_keeps _ _ _ _)).trans (State.stn_keeps _ _ _ _)).trans (State.stn_keeps _ _ _ _)
  have hc : Keeps s c := (hb.trans (State.dropCommands_keeps _ _)).trans (State.dropPlans_keeps _ _)
  have hd : Keeps s d := Keeps.ite (fun _ => (hc.trans (State.wrBit_keeps _ _ _ _)).trans (State.raise_keeps _ _ _ _)) (fun _ => Keeps.lit hc rfl)
  refine Keeps.ite (fun _ => hd.trans (State.safeEntry_keeps _ _)) (fun _ => ?_)
  have he : Keeps s e := ((hd.trans (State.wr_keeps _ _ _)).trans (State.stn_keeps _ _ _ _)).trans (State.cnt_keeps _ _ _ _)
  have hf : Keeps s f := Keeps.ite (fun _ => hd) (fun _ => Keeps.trans (Keeps.lit he rfl) (State.trigger_keeps _ _ _))
  exact Keeps.lit hf rfl

theorem State.pllLoss_keeps (s : State) (refclk : Bool) : Keeps s (State.pllLoss s refclk) := by
  unfold State.pllLoss
  try dsimp only
  repeat' (first | with_reducible exact Keeps.refl _ | with_reducible apply Keeps.trans _ (State.safeEntry_keeps _ _) | with_reducible apply Keeps.trans _ (State.setFlag_keeps _ _ _) | with_reducible refine Keeps.ite (fun _ => ?_) (fun _ => ?_) | split | (with_reducible apply Keeps.lit; (on_goal 2 => with_reducible rfl); first | with_reducible exact Keeps.refl _ | with_reducible apply Keeps.trans _ (State.safeEntry_keeps _ _) | with_reducible apply Keeps.trans _ (State.setFlag_keeps _ _ _) | with_reducible refine Keeps.ite (fun _ => ?_) (fun _ => ?_) | split))

theorem State.recall_keeps (s : State) (line : Nat) (why : ExchWhy) : Keeps s (State.recall s line why) := by
  unfold State.recall
  try dsimp only
  repeat' (first | with_reducible exact Keeps.refl _ | with_reducible assumption | with_reducible apply Keeps.trans _ (State.cleanStopped_keeps _ _) | with_reducible apply Keeps.trans _ (State.delWay_keeps _ _) | with_reducible apply Keeps.trans _ (State.openExch_keeps _ _ _ _ _) | with_reducible refine Keeps.ite (fun _ => ?_) (fun _ => ?_) | with_reducible refine Keeps.foldl ?_ (fun _ _ => ?_) | with_reducible refine Keeps.foldl_fst ?_ (fun _ _ => ?_) | with_reducible refine Keeps.foldl_snd ?_ (fun _ _ => ?_) | with_reducible apply Keeps.cond | with_reducible refine Keeps.getD ?_ (fun _ _ => ?_) | split | (with_reducible apply Keeps.lit; (on_goal 2 => with_reducible rfl); first | with_reducible exact Keeps.refl _ | with_reducible assumption | with_reducible apply Keeps.trans _ (State.cleanStopped_keeps _ _) | with_reducible apply Keeps.trans _ (State.delWay_keeps _ _) | with_reducible apply Keeps.trans _ (State.openExch_keeps _ _ _ _ _) | with_reducible refine Keeps.ite (fun _ => ?_) (fun _ => ?_) | with_reducible refine Keeps.foldl ?_ (fun _ _ => ?_) | with_reducible refine Keeps.foldl_fst ?_ (fun _ _ => ?_) | with_reducible refine Keeps.foldl_snd ?_ (fun _ _ => ?_) | with_reducible apply Keeps.cond | with_reducible refine Keeps.getD ?_ (fun _ _ => ?_) | split))

theorem State.restartLine_keeps (s : State) (line : Nat) : Keeps s (State.restartLine s line) := by
  unfold State.restartLine
  try dsimp only
  repeat' (first | with_reducible exact Keeps.refl _ | with_reducible apply Keeps.trans _ (State.putWay_keeps _ _ _) | with_reducible apply Keeps.trans _ (State.recall_keeps _ _ _) | with_reducible refine Keeps.ite (fun _ => ?_) (fun _ => ?_) | split | (with_reducible apply Keeps.lit; (on_goal 2 => with_reducible rfl); first | with_reducible exact Keeps.refl _ | with_reducible apply Keeps.trans _ (State.putWay_keeps _ _ _) | with_reducible apply Keeps.trans _ (State.recall_keeps _ _ _) | with_reducible refine Keeps.ite (fun _ => ?_) (fun _ => ?_) | split))

theorem State.restartSlice_keeps (s : State) (slice : Nat) : Keeps s (State.restartSlice s slice) := by
  unfold State.restartSlice
  try dsimp only
  repeat' (first | with_reducible exact Keeps.refl _ | with_reducible assumption | with_reducible apply Keeps.trans _ (State.discard_keeps _ _ _ _ _) | with_reducible apply Keeps.trans _ (State.lostBuffered_keeps _ _ _) | with_reducible apply Keeps.trans _ (State.poisonLine_keeps _ _) | with_reducible apply Keeps.trans _ (State.restartLine_keeps _ _) | with_reducible apply Keeps.trans _ (State.stn_keeps _ _ _ _) | with_reducible refine Keeps.ite (fun _ => ?_) (fun _ => ?_) | with_reducible refine Keeps.foldl ?_ (fun _ _ => ?_) | split | (with_reducible apply Keeps.lit; (on_goal 2 => with_reducible rfl); first | with_reducible exact Keeps.refl _ | with_reducible assumption | with_reducible apply Keeps.trans _ (State.discard_keeps _ _ _ _ _) | with_reducible apply Keeps.trans _ (State.lostBuffered_keeps _ _ _) | with_reducible apply Keeps.trans _ (State.poisonLine_keeps _ _) | with_reducible apply Keeps.trans _ (State.restartLine_keeps _ _) | with_reducible apply Keeps.trans _ (State.stn_keeps _ _ _ _) | with_reducible refine Keeps.ite (fun _ => ?_) (fun _ => ?_) | with_reducible refine Keeps.foldl ?_ (fun _ _ => ?_) | split))

theorem State.rootUe_keeps (s : State) (r : Nat) : Keeps s (State.rootUe s r) := by
  unfold State.rootUe
  repeat' (first | with_reducible exact Keeps.refl _ | with_reducible apply Keeps.trans _ (State.recordLoss_keeps _ _ _ _) | with_reducible apply Keeps.trans _ (State.wrBit_keeps _ _ _ _))

theorem State.sramUe_keeps (s : State) (x : SramArray) : Keeps s (State.sramUe s x) := by
  unfold State.sramUe
  try dsimp only
  repeat' (first | with_reducible exact Keeps.refl _ | with_reducible apply Keeps.trans _ (State.accUe_keeps _ _) | with_reducible apply Keeps.trans _ (State.cnt_keeps _ _ _ _) | with_reducible apply Keeps.trans _ (State.ctrUe_keeps _ _ _ _) | with_reducible apply Keeps.trans _ (State.dirUe_keeps _ _ _ _ _) | with_reducible apply Keeps.trans _ (State.footUe_keeps _ _) | with_reducible apply Keeps.trans _ (State.keyUe_keeps _ _) | with_reducible apply Keeps.trans _ (State.pairFail_keeps _ _ _) | with_reducible apply Keeps.trans _ (State.restartSlice_keeps _ _) | with_reducible apply Keeps.trans _ (State.rootUe_keeps _ _) | with_reducible apply Keeps.trans _ (State.stn_keeps _ _ _ _) | with_reducible refine Keeps.ite (fun _ => ?_) (fun _ => ?_) | split | (with_reducible apply Keeps.lit; (on_goal 2 => with_reducible rfl); first | with_reducible exact Keeps.refl _ | with_reducible apply Keeps.trans _ (State.accUe_keeps _ _) | with_reducible apply Keeps.trans _ (State.cnt_keeps _ _ _ _) | with_reducible apply Keeps.trans _ (State.ctrUe_keeps _ _ _ _) | with_reducible apply Keeps.trans _ (State.dirUe_keeps _ _ _ _ _) | with_reducible apply Keeps.trans _ (State.footUe_keeps _ _) | with_reducible apply Keeps.trans _ (State.keyUe_keeps _ _) | with_reducible apply Keeps.trans _ (State.pairFail_keeps _ _ _) | with_reducible apply Keeps.trans _ (State.restartSlice_keeps _ _) | with_reducible apply Keeps.trans _ (State.rootUe_keeps _ _) | with_reducible apply Keeps.trans _ (State.stn_keeps _ _ _ _) | with_reducible refine Keeps.ite (fun _ => ?_) (fun _ => ?_) | split))

theorem State.tickDeparts_keeps (s : State) : Keeps s (State.tickDeparts s) := by
  unfold State.tickDeparts
  try dsimp only
  repeat' (first | with_reducible exact Keeps.refl _ | with_reducible apply Keeps.trans _ (State.safeEntry_keeps _ _) | with_reducible apply Keeps.trans _ (State.setFlag_keeps _ _ _) | with_reducible refine Keeps.ite (fun _ => ?_) (fun _ => ?_) | split | (with_reducible apply Keeps.lit; (on_goal 2 => with_reducible rfl); first | with_reducible exact Keeps.refl _ | with_reducible apply Keeps.trans _ (State.safeEntry_keeps _ _) | with_reducible apply Keeps.trans _ (State.setFlag_keeps _ _ _) | with_reducible refine Keeps.ite (fun _ => ?_) (fun _ => ?_) | split))

theorem State.watchdog_keeps (s : State) (p : Nat) : Keeps s (State.watchdog s p) := by
  unfold State.watchdog
  try dsimp only
  repeat' (first | with_reducible exact Keeps.refl _ | with_reducible assumption | with_reducible apply Keeps.trans _ (State.pairFail_keeps _ _ _) | with_reducible refine Keeps.ite (fun _ => ?_) (fun _ => ?_) | with_reducible refine Keeps.foldl ?_ (fun _ _ => ?_) | with_reducible refine Keeps.foldl_fst ?_ (fun _ _ => ?_) | with_reducible refine Keeps.foldl_snd ?_ (fun _ _ => ?_) | with_reducible apply Keeps.cond | with_reducible refine Keeps.getD ?_ (fun _ _ => ?_) | split | (with_reducible apply Keeps.lit; (on_goal 2 => with_reducible rfl); first | with_reducible exact Keeps.refl _ | with_reducible assumption | with_reducible apply Keeps.trans _ (State.pairFail_keeps _ _ _) | with_reducible refine Keeps.ite (fun _ => ?_) (fun _ => ?_) | with_reducible refine Keeps.foldl ?_ (fun _ _ => ?_) | with_reducible refine Keeps.foldl_fst ?_ (fun _ _ => ?_) | with_reducible refine Keeps.foldl_snd ?_ (fun _ _ => ?_) | with_reducible apply Keeps.cond | with_reducible refine Keeps.getD ?_ (fun _ _ => ?_) | split))

end Sys2Proof.Machine
end

