-- ==== Sys2Proof/Laws/KeepsGatehouse.lean ====
section
/-! SUPPORT. Every operation of Machine/Gatehouse.lean keeps what `Keeps` says: one lemma for each. -/
namespace Sys2Proof.Machine
set_option linter.unreachableTactic false
set_option linter.unusedTactic false

theorem State.gthRaise_keeps (s : State) (code : Nat) (arg0 : Nat) (arg1 : Nat) : Keeps s (State.gthRaise s code arg0 arg1) := by
  unfold State.gthRaise
  try dsimp only
  repeat' (first | with_reducible exact Keeps.refl _ | with_reducible apply Keeps.trans _ (State.raise_keeps _ _ _ _) | with_reducible refine Keeps.ite (fun _ => ?_) (fun _ => ?_) | split | (with_reducible apply Keeps.lit; (on_goal 2 => with_reducible rfl); first | with_reducible exact Keeps.refl _ | with_reducible apply Keeps.trans _ (State.raise_keeps _ _ _ _) | with_reducible refine Keeps.ite (fun _ => ?_) (fun _ => ?_) | split))

theorem State.gw_keeps (s : State) (f : Reg.Fld) (x : Nat) : Keeps s (State.gw s f x) := by
  unfold State.gw
  repeat' (first | with_reducible exact Keeps.refl _ | (with_reducible apply Keeps.lit; (on_goal 2 => with_reducible rfl); first | with_reducible exact Keeps.refl _))

theorem State.setPg_keeps (s : State) (on : Bool) : Keeps s (State.setPg s on) := by
  unfold State.setPg
  try dsimp only
  repeat' (first | with_reducible exact Keeps.refl _ | with_reducible apply Keeps.trans _ (State.gthRaise_keeps _ _ _ _) | with_reducible apply Keeps.trans _ (State.gw_keeps _ _ _) | with_reducible refine Keeps.ite (fun _ => ?_) (fun _ => ?_) | split | (with_reducible apply Keeps.lit; (on_goal 2 => with_reducible rfl); first | with_reducible exact Keeps.refl _ | with_reducible apply Keeps.trans _ (State.gthRaise_keeps _ _ _ _) | with_reducible apply Keeps.trans _ (State.gw_keeps _ _ _) | with_reducible refine Keeps.ite (fun _ => ?_) (fun _ => ?_) | split))

theorem State.pgCheck_keeps (s : State) : Keeps s (State.pgCheck s) := by
  unfold State.pgCheck
  try dsimp only
  repeat' (first | with_reducible exact Keeps.refl _ | with_reducible apply Keeps.trans _ (State.setPg_keeps _ _) | with_reducible refine Keeps.ite (fun _ => ?_) (fun _ => ?_) | split | (with_reducible apply Keeps.lit; (on_goal 2 => with_reducible rfl); first | with_reducible exact Keeps.refl _ | with_reducible apply Keeps.trans _ (State.setPg_keeps _ _) | with_reducible refine Keeps.ite (fun _ => ?_) (fun _ => ?_) | split))

theorem State.updFeed_keeps (s : State) (x : Feed) (f : FeedSt → FeedSt) : Keeps s (State.updFeed s x f) := by
  unfold State.updFeed
  try dsimp only
  repeat' (first | with_reducible exact Keeps.refl _ | with_reducible refine Keeps.ite (fun _ => ?_) (fun _ => ?_) | split | (with_reducible apply Keeps.lit; (on_goal 2 => with_reducible rfl); first | with_reducible exact Keeps.refl _ | with_reducible refine Keeps.ite (fun _ => ?_) (fun _ => ?_) | split))

theorem State.drive_keeps (s : State) (x : Feed) (d : GateDrive) : Keeps s (State.drive s x d) := by
  unfold State.drive
  repeat' (first | with_reducible exact Keeps.refl _ | with_reducible apply Keeps.trans _ (State.updFeed_keeps _ _ _) | with_reducible apply Keeps.trans _ (State.emit_keeps _ _))

theorem State.setFst_keeps (s : State) (x : Feed) (n : Nat) : Keeps s (State.setFst s x n) := by
  unfold State.setFst
  repeat' (first | with_reducible exact Keeps.refl _ | with_reducible apply Keeps.trans _ (State.gw_keeps _ _ _) | with_reducible apply Keeps.trans _ (State.updFeed_keeps _ _ _))

theorem State.showSelected_keeps (s : State) (x : Option Feed) : Keeps s (State.showSelected s x) := by
  unfold State.showSelected
  repeat' (first | with_reducible exact Keeps.refl _ | with_reducible apply Keeps.trans _ (State.gw_keeps _ _ _))

theorem State.ramp_keeps (s : State) (x : Feed) (making : Bool) : Keeps s (State.ramp s x making) := by
  unfold State.ramp
  repeat' (first | with_reducible exact Keeps.refl _ | with_reducible apply Keeps.trans _ (State.drive_keeps _ _ _) | with_reducible apply Keeps.trans _ (State.setFst_keeps _ _ _) | with_reducible apply Keeps.trans _ (State.showSelected_keeps _ _) | (with_reducible apply Keeps.lit; (on_goal 2 => with_reducible rfl); first | with_reducible exact Keeps.refl _ | with_reducible apply Keeps.trans _ (State.drive_keeps _ _ _) | with_reducible apply Keeps.trans _ (State.setFst_keeps _ _ _) | with_reducible apply Keeps.trans _ (State.showSelected_keeps _ _)))

theorem State.select_keeps (s : State) : Keeps s (State.select s) := by
  unfold State.select
  try dsimp only
  repeat' (first | with_reducible exact Keeps.refl _ | with_reducible apply Keeps.trans _ (State.ramp_keeps _ _ _) | with_reducible apply Keeps.trans _ (State.showSelected_keeps _ _) | with_reducible refine Keeps.ite (fun _ => ?_) (fun _ => ?_) | split | (with_reducible apply Keeps.lit; (on_goal 2 => with_reducible rfl); first | with_reducible exact Keeps.refl _ | with_reducible apply Keeps.trans _ (State.ramp_keeps _ _ _) | with_reducible apply Keeps.trans _ (State.showSelected_keeps _ _) | with_reducible refine Keeps.ite (fun _ => ?_) (fun _ => ?_) | split))

theorem State.startSwitch_keeps (s : State) (x : Feed) (y : Feed) : Keeps s (State.startSwitch s x y) := by
  unfold State.startSwitch
  repeat' (first | with_reducible exact Keeps.refl _ | with_reducible apply Keeps.trans _ (State.gthRaise_keeps _ _ _ _) | with_reducible apply Keeps.trans _ (State.gw_keeps _ _ _) | with_reducible apply Keeps.trans _ (State.showSelected_keeps _ _) | (with_reducible apply Keeps.lit; (on_goal 2 => with_reducible rfl); first | with_reducible exact Keeps.refl _ | with_reducible apply Keeps.trans _ (State.gthRaise_keeps _ _ _ _) | with_reducible apply Keeps.trans _ (State.gw_keeps _ _ _) | with_reducible apply Keeps.trans _ (State.showSelected_keeps _ _)))

theorem State.succeed_keeps (s : State) : Keeps s (State.succeed s) := by
  unfold State.succeed
  try dsimp only
  repeat' (first | with_reducible exact Keeps.refl _ | with_reducible assumption | with_reducible apply Keeps.trans _ (State.showSelected_keeps _ _) | with_reducible apply Keeps.trans _ (State.startSwitch_keeps _ _ _) | with_reducible refine Keeps.ite (fun _ => ?_) (fun _ => ?_) | with_reducible refine Keeps.foldl ?_ (fun _ _ => ?_) | with_reducible refine Keeps.foldl_fst ?_ (fun _ _ => ?_) | with_reducible refine Keeps.foldl_snd ?_ (fun _ _ => ?_) | with_reducible apply Keeps.cond | with_reducible refine Keeps.getD ?_ (fun _ _ => ?_) | split | (with_reducible apply Keeps.lit; (on_goal 2 => with_reducible rfl); first | with_reducible exact Keeps.refl _ | with_reducible assumption | with_reducible apply Keeps.trans _ (State.showSelected_keeps _ _) | with_reducible apply Keeps.trans _ (State.startSwitch_keeps _ _ _) | with_reducible refine Keeps.ite (fun _ => ?_) (fun _ => ?_) | with_reducible refine Keeps.foldl ?_ (fun _ _ => ?_) | with_reducible refine Keeps.foldl_fst ?_ (fun _ _ => ?_) | with_reducible refine Keeps.foldl_snd ?_ (fun _ _ => ?_) | with_reducible apply Keeps.cond | with_reducible refine Keeps.getD ?_ (fun _ _ => ?_) | split))

theorem State.gthSettle_keeps (s : State) : Keeps s (State.gthSettle s) := by
  unfold State.gthSettle
  repeat' (first | with_reducible exact Keeps.refl _ | with_reducible apply Keeps.trans _ (State.pgCheck_keeps _) | with_reducible apply Keeps.trans _ (State.select_keeps _) | with_reducible apply Keeps.trans _ (State.succeed_keeps _))

theorem State.leaveFor_keeps (s : State) (x : Feed) (n : Nat) : Keeps s (State.leaveFor s x n) := by
  unfold State.leaveFor
  try dsimp only
  repeat' (first | with_reducible exact Keeps.refl _ | with_reducible apply Keeps.trans _ (State.drive_keeps _ _ _) | with_reducible apply Keeps.trans _ (State.gw_keeps _ _ _) | with_reducible apply Keeps.trans _ (State.setFst_keeps _ _ _) | with_reducible apply Keeps.trans _ (State.updFeed_keeps _ _ _) | with_reducible refine Keeps.ite (fun _ => ?_) (fun _ => ?_) | split | (with_reducible apply Keeps.lit; (on_goal 2 => with_reducible rfl); first | with_reducible exact Keeps.refl _ | with_reducible apply Keeps.trans _ (State.drive_keeps _ _ _) | with_reducible apply Keeps.trans _ (State.gw_keeps _ _ _) | with_reducible apply Keeps.trans _ (State.setFst_keeps _ _ _) | with_reducible apply Keeps.trans _ (State.updFeed_keeps _ _ _) | with_reducible refine Keeps.ite (fun _ => ?_) (fun _ => ?_) | split))

theorem State.toQualify_keeps (s : State) (x : Feed) (ins : Bool) : Keeps s (State.toQualify s x ins) := by
  unfold State.toQualify
  repeat' (first | with_reducible exact Keeps.refl _ | with_reducible apply Keeps.trans _ (State.leaveFor_keeps _ _ _) | with_reducible apply Keeps.trans _ (State.updFeed_keeps _ _ _))

theorem State.autoReturn_keeps (s : State) : Keeps s (State.autoReturn s) := by
  unfold State.autoReturn
  try dsimp only
  repeat' (first | with_reducible exact Keeps.refl _ | with_reducible apply Keeps.trans _ (State.gthSettle_keeps _) | with_reducible apply Keeps.trans _ (State.toQualify_keeps _ _ _) | with_reducible refine Keeps.ite (fun _ => ?_) (fun _ => ?_) | split | (with_reducible apply Keeps.lit; (on_goal 2 => with_reducible rfl); first | with_reducible exact Keeps.refl _ | with_reducible apply Keeps.trans _ (State.gthSettle_keeps _) | with_reducible apply Keeps.trans _ (State.toQualify_keeps _ _ _) | with_reducible refine Keeps.ite (fun _ => ?_) (fun _ => ?_) | split))

theorem State.auxLoss_keeps (s : State) : Keeps s (State.auxLoss s) := by
  unfold State.auxLoss
  try dsimp only
  repeat' (first | with_reducible exact Keeps.refl _ | with_reducible assumption | with_reducible apply Keeps.trans _ (State.drive_keeps _ _ _) | with_reducible refine Keeps.ite (fun _ => ?_) (fun _ => ?_) | with_reducible refine Keeps.foldl ?_ (fun _ _ => ?_) | split | (with_reducible apply Keeps.lit; (on_goal 2 => with_reducible rfl); first | with_reducible exact Keeps.refl _ | with_reducible assumption | with_reducible apply Keeps.trans _ (State.drive_keeps _ _ _) | with_reducible refine Keeps.ite (fun _ => ?_) (fun _ => ?_) | with_reducible refine Keeps.foldl ?_ (fun _ _ => ?_) | split))

theorem State.auxUp_keeps (s : State) : Keeps s (State.auxUp s) := by
  unfold State.auxUp
  try dsimp only
  repeat' (first | with_reducible exact Keeps.refl _ | with_reducible apply Keeps.trans _ (State.loadTrims_keeps _ _ _) | with_reducible refine Keeps.ite (fun _ => ?_) (fun _ => ?_) | split | (with_reducible apply Keeps.lit; (on_goal 2 => with_reducible rfl); first | with_reducible exact Keeps.refl _ | with_reducible apply Keeps.trans _ (State.loadTrims_keeps _ _ _) | with_reducible refine Keeps.ite (fun _ => ?_) (fun _ => ?_) | split))

theorem State.breaker_keeps (s : State) (x : Feed) (vsh : Nat) : Keeps s (State.breaker s x vsh) := by
  unfold State.breaker
  try dsimp only
  repeat' (first | with_reducible exact Keeps.refl _ | with_reducible apply Keeps.trans _ (State.gw_keeps _ _ _) | with_reducible apply Keeps.trans _ (State.updFeed_keeps _ _ _) | with_reducible refine Keeps.ite (fun _ => ?_) (fun _ => ?_) | split | (with_reducible apply Keeps.lit; (on_goal 2 => with_reducible rfl); first | with_reducible exact Keeps.refl _ | with_reducible apply Keeps.trans _ (State.gw_keeps _ _ _) | with_reducible apply Keeps.trans _ (State.updFeed_keeps _ _ _) | with_reducible refine Keeps.ite (fun _ => ?_) (fun _ => ?_) | split))

theorem State.calLine_keeps (s : State) (line : Int) : Keeps s (State.calLine s line) := by
  unfold State.calLine
  try dsimp only
  repeat' (first | with_reducible exact Keeps.refl _ | with_reducible apply Keeps.trans _ (State.gw_keeps _ _ _) | with_reducible refine Keeps.ite (fun _ => ?_) (fun _ => ?_) | split | (with_reducible apply Keeps.lit; (on_goal 2 => with_reducible rfl); first | with_reducible exact Keeps.refl _ | with_reducible apply Keeps.trans _ (State.gw_keeps _ _ _) | with_reducible refine Keeps.ite (fun _ => ?_) (fun _ => ?_) | split))

theorem State.clearEnergy_keeps (s : State) (x : Feed) : Keeps s (State.clearEnergy s x) := by
  unfold State.clearEnergy
  try dsimp only
  repeat' (first | with_reducible exact Keeps.refl _ | with_reducible apply Keeps.trans _ (State.gw_keeps _ _ _) | with_reducible apply Keeps.trans _ (State.updFeed_keeps _ _ _) | with_reducible refine Keeps.ite (fun _ => ?_) (fun _ => ?_) | split | (with_reducible apply Keeps.lit; (on_goal 2 => with_reducible rfl); first | with_reducible exact Keeps.refl _ | with_reducible apply Keeps.trans _ (State.gw_keeps _ _ _) | with_reducible apply Keeps.trans _ (State.updFeed_keeps _ _ _) | with_reducible refine Keeps.ite (fun _ => ?_) (fun _ => ?_) | split))

theorem State.clearFeed_keeps (s : State) (x : Feed) : Keeps s (State.clearFeed s x) := by
  unfold State.clearFeed
  try dsimp only
  repeat' (first | with_reducible exact Keeps.refl _ | with_reducible apply Keeps.trans _ (State.leaveFor_keeps _ _ _) | with_reducible apply Keeps.trans _ (State.toQualify_keeps _ _ _) | with_reducible apply Keeps.trans _ (State.updFeed_keeps _ _ _) | with_reducible refine Keeps.ite (fun _ => ?_) (fun _ => ?_) | split | (with_reducible apply Keeps.lit; (on_goal 2 => with_reducible rfl); first | with_reducible exact Keeps.refl _ | with_reducible apply Keeps.trans _ (State.leaveFor_keeps _ _ _) | with_reducible apply Keeps.trans _ (State.toQualify_keeps _ _ _) | with_reducible apply Keeps.trans _ (State.updFeed_keeps _ _ _) | with_reducible refine Keeps.ite (fun _ => ?_) (fun _ => ?_) | split))

theorem State.commonTime_keeps (s : State) : Keeps s (State.commonTime s) := by
  unfold State.commonTime
  repeat' (first | with_reducible exact Keeps.refl _ | (with_reducible apply Keeps.lit; (on_goal 2 => with_reducible rfl); first | with_reducible exact Keeps.refl _))

theorem State.writeCfg_keeps (s : State) (off : Nat) (v : Word) : Keeps s (State.writeCfg s off v) := by
  unfold State.writeCfg
  try dsimp only
  repeat' (first | with_reducible exact Keeps.refl _ | with_reducible refine Keeps.ite (fun _ => ?_) (fun _ => ?_) | split | (with_reducible apply Keeps.lit; (on_goal 2 => with_reducible rfl); first | with_reducible exact Keeps.refl _ | with_reducible refine Keeps.ite (fun _ => ?_) (fun _ => ?_) | split))

theorem State.writeClear_keeps (s : State) (off : Nat) (m : Word) : Keeps s (State.writeClear s off m) := by
  unfold State.writeClear
  repeat' (first | with_reducible exact Keeps.refl _ | (with_reducible apply Keeps.lit; (on_goal 2 => with_reducible rfl); first | with_reducible exact Keeps.refl _))

theorem State.followEnable_keeps (s : State) (x : Feed) : Keeps s (State.followEnable s x) := by
  unfold State.followEnable
  try dsimp only
  repeat' (first | with_reducible exact Keeps.refl _ | with_reducible apply Keeps.trans _ (State.leaveFor_keeps _ _ _) | with_reducible apply Keeps.trans _ (State.toQualify_keeps _ _ _) | with_reducible apply Keeps.trans _ (State.updFeed_keeps _ _ _) | with_reducible refine Keeps.ite (fun _ => ?_) (fun _ => ?_) | split | (with_reducible apply Keeps.lit; (on_goal 2 => with_reducible rfl); first | with_reducible exact Keeps.refl _ | with_reducible apply Keeps.trans _ (State.leaveFor_keeps _ _ _) | with_reducible apply Keeps.trans _ (State.toQualify_keeps _ _ _) | with_reducible apply Keeps.trans _ (State.updFeed_keeps _ _ _) | with_reducible refine Keeps.ite (fun _ => ?_) (fun _ => ?_) | split))

theorem State.writeCtl_keeps (s : State) (v : Word) : Keeps s (State.writeCtl s v) := by
  unfold State.writeCtl
  try dsimp only
  repeat' (first | with_reducible exact Keeps.refl _ | with_reducible apply Keeps.trans _ (State.clearEnergy_keeps _ _) | with_reducible apply Keeps.trans _ (State.clearFeed_keeps _ _) | with_reducible apply Keeps.trans _ (State.followEnable_keeps _ _) | with_reducible apply Keeps.trans _ (State.gthSettle_keeps _) | with_reducible apply Keeps.trans _ (State.gw_keeps _ _ _) | with_reducible refine Keeps.ite (fun _ => ?_) (fun _ => ?_) | split | (with_reducible apply Keeps.lit; (on_goal 2 => with_reducible rfl); first | with_reducible exact Keeps.refl _ | with_reducible apply Keeps.trans _ (State.clearEnergy_keeps _ _) | with_reducible apply Keeps.trans _ (State.clearFeed_keeps _ _) | with_reducible apply Keeps.trans _ (State.followEnable_keeps _ _) | with_reducible apply Keeps.trans _ (State.gthSettle_keeps _) | with_reducible apply Keeps.trans _ (State.gw_keeps _ _ _) | with_reducible refine Keeps.ite (fun _ => ?_) (fun _ => ?_) | split))

theorem State.gthWrite_keeps (s : State) (off : Nat) (v : Word) : Keeps s (State.gthWrite s off v) := by
  unfold State.gthWrite
  try dsimp only
  repeat' (first | with_reducible exact Keeps.refl _ | with_reducible apply Keeps.trans _ (State.gw_keeps _ _ _) | with_reducible apply Keeps.trans _ (State.writeCfg_keeps _ _ _) | with_reducible apply Keeps.trans _ (State.writeClear_keeps _ _ _) | with_reducible apply Keeps.trans _ (State.writeCtl_keeps _ _) | with_reducible refine Keeps.ite (fun _ => ?_) (fun _ => ?_) | split | (with_reducible apply Keeps.lit; (on_goal 2 => with_reducible rfl); first | with_reducible exact Keeps.refl _ | with_reducible apply Keeps.trans _ (State.gw_keeps _ _ _) | with_reducible apply Keeps.trans _ (State.writeCfg_keeps _ _ _) | with_reducible apply Keeps.trans _ (State.writeClear_keeps _ _ _) | with_reducible apply Keeps.trans _ (State.writeCtl_keeps _ _) | with_reducible refine Keeps.ite (fun _ => ?_) (fun _ => ?_) | split))

theorem State.configApply_keeps (s : State) : Keeps s (State.configApply s) := by
  unfold State.configApply
  try dsimp only
  repeat' (first | with_reducible exact Keeps.refl _ | with_reducible apply Keeps.trans _ (State.gthWrite_keeps _ _ _) | with_reducible refine Keeps.ite (fun _ => ?_) (fun _ => ?_) | split | (with_reducible apply Keeps.lit; (on_goal 2 => with_reducible rfl); first | with_reducible exact Keeps.refl _ | with_reducible apply Keeps.trans _ (State.gthWrite_keeps _ _ _) | with_reducible refine Keeps.ite (fun _ => ?_) (fun _ => ?_) | split))

theorem State.takeOut_keeps (s : State) (conv : Nat) : Keeps s (State.takeOut s conv) := by
  unfold State.takeOut
  try dsimp only
  repeat' (first | with_reducible exact Keeps.refl _ | with_reducible assumption | with_reducible refine Keeps.ite (fun _ => ?_) (fun _ => ?_) | with_reducible refine Keeps.foldl ?_ (fun _ _ => ?_) | with_reducible refine Keeps.foldl_fst ?_ (fun _ _ => ?_) | with_reducible refine Keeps.foldl_snd ?_ (fun _ _ => ?_) | with_reducible apply Keeps.cond | with_reducible refine Keeps.getD ?_ (fun _ _ => ?_) | split | (with_reducible apply Keeps.lit; (on_goal 2 => with_reducible rfl); first | with_reducible exact Keeps.refl _ | with_reducible assumption | with_reducible refine Keeps.ite (fun _ => ?_) (fun _ => ?_) | with_reducible refine Keeps.foldl ?_ (fun _ _ => ?_) | with_reducible refine Keeps.foldl_fst ?_ (fun _ _ => ?_) | with_reducible refine Keeps.foldl_snd ?_ (fun _ _ => ?_) | with_reducible apply Keeps.cond | with_reducible refine Keeps.getD ?_ (fun _ _ => ?_) | split))

theorem State.converterCal_keeps (s : State) (conv : Nat) (vref : Nat) (gndMv : Nat) (temp : Int) (zero : Int) (ref : Int) : Keeps s (State.converterCal s conv vref gndMv temp zero ref) := by
  unfold State.converterCal
  try dsimp only
  repeat' (first | with_reducible exact Keeps.refl _ | with_reducible apply Keeps.trans _ (State.calibrate_keeps _ _ _ _ _ _) | with_reducible apply Keeps.trans _ (State.gthRaise_keeps _ _ _ _) | with_reducible apply Keeps.trans _ (State.gw_keeps _ _ _) | with_reducible apply Keeps.trans _ (State.takeOut_keeps _ _) | with_reducible refine Keeps.ite (fun _ => ?_) (fun _ => ?_) | split | (with_reducible apply Keeps.lit; (on_goal 2 => with_reducible rfl); first | with_reducible exact Keeps.refl _ | with_reducible apply Keeps.trans _ (State.calibrate_keeps _ _ _ _ _ _) | with_reducible apply Keeps.trans _ (State.gthRaise_keeps _ _ _ _) | with_reducible apply Keeps.trans _ (State.gw_keeps _ _ _) | with_reducible apply Keeps.trans _ (State.takeOut_keeps _ _) | with_reducible refine Keeps.ite (fun _ => ?_) (fun _ => ?_) | split))

theorem State.crossed_keeps (s : State) (x : Feed) (entry : Bool) : Keeps s (State.crossed s x entry) := by
  unfold State.crossed
  try dsimp only
  repeat' (first | with_reducible exact Keeps.refl _ | with_reducible apply Keeps.trans _ (State.gthRaise_keeps _ _ _ _) | with_reducible apply Keeps.trans _ (State.gw_keeps _ _ _) | with_reducible apply Keeps.trans _ (State.toQualify_keeps _ _ _) | with_reducible apply Keeps.trans _ (State.updFeed_keeps _ _ _) | with_reducible refine Keeps.ite (fun _ => ?_) (fun _ => ?_) | split | (with_reducible apply Keeps.lit; (on_goal 2 => with_reducible rfl); first | with_reducible exact Keeps.refl _ | with_reducible apply Keeps.trans _ (State.gthRaise_keeps _ _ _ _) | with_reducible apply Keeps.trans _ (State.gw_keeps _ _ _) | with_reducible apply Keeps.trans _ (State.toQualify_keeps _ _ _) | with_reducible apply Keeps.trans _ (State.updFeed_keeps _ _ _) | with_reducible refine Keeps.ite (fun _ => ?_) (fun _ => ?_) | split))

theorem State.dieCal_keeps (s : State) : Keeps s (State.dieCal s) := by
  unfold State.dieCal
  repeat' (first | with_reducible exact Keeps.refl _ | with_reducible apply Keeps.trans _ (State.setFlag_keeps _ _ _))

theorem State.enableChange_keeps (s : State) (x : Feed) (pin : Bool) : Keeps s (State.enableChange s x pin) := by
  unfold State.enableChange
  try dsimp only
  repeat' (first | with_reducible exact Keeps.refl _ | with_reducible apply Keeps.trans _ (State.followEnable_keeps _ _) | with_reducible apply Keeps.trans _ (State.gthSettle_keeps _) | with_reducible apply Keeps.trans _ (State.gw_keeps _ _ _) | with_reducible refine Keeps.ite (fun _ => ?_) (fun _ => ?_) | split | (with_reducible apply Keeps.lit; (on_goal 2 => with_reducible rfl); first | with_reducible exact Keeps.refl _ | with_reducible apply Keeps.trans _ (State.followEnable_keeps _ _) | with_reducible apply Keeps.trans _ (State.gthSettle_keeps _) | with_reducible apply Keeps.trans _ (State.gw_keeps _ _ _) | with_reducible refine Keeps.ite (fun _ => ?_) (fun _ => ?_) | split))

theorem State.latch_keeps (s : State) (x : Feed) (cause : Nat) : Keeps s (State.latch s x cause) := by
  unfold State.latch
  repeat' (first | with_reducible exact Keeps.refl _ | with_reducible apply Keeps.trans _ (State.gthRaise_keeps _ _ _ _) | with_reducible apply Keeps.trans _ (State.gw_keeps _ _ _) | with_reducible apply Keeps.trans _ (State.leaveFor_keeps _ _ _))

theorem State.fastTrip_keeps (s : State) (x : Feed) (vsh : Nat) : Keeps s (State.fastTrip s x vsh) := by
  unfold State.fastTrip
  try dsimp only
  repeat' (first | with_reducible exact Keeps.refl _ | with_reducible apply Keeps.trans _ (State.gthSettle_keeps _) | with_reducible apply Keeps.trans _ (State.latch_keeps _ _ _) | with_reducible apply Keeps.trans _ (State.setPg_keeps _ _) | with_reducible refine Keeps.ite (fun _ => ?_) (fun _ => ?_) | split | (with_reducible apply Keeps.lit; (on_goal 2 => with_reducible rfl); first | with_reducible exact Keeps.refl _ | with_reducible apply Keeps.trans _ (State.gthSettle_keeps _) | with_reducible apply Keeps.trans _ (State.latch_keeps _ _ _) | with_reducible apply Keeps.trans _ (State.setPg_keeps _ _) | with_reducible refine Keeps.ite (fun _ => ?_) (fun _ => ?_) | split))

theorem State.faultClear_keeps (s : State) (x : Feed) : Keeps s (State.faultClear s x) := by
  unfold State.faultClear
  try dsimp only
  repeat' (first | with_reducible exact Keeps.refl _ | with_reducible apply Keeps.trans _ (State.gw_keeps _ _ _) | with_reducible apply Keeps.trans _ (State.updFeed_keeps _ _ _) | with_reducible refine Keeps.ite (fun _ => ?_) (fun _ => ?_) | split | (with_reducible apply Keeps.lit; (on_goal 2 => with_reducible rfl); first | with_reducible exact Keeps.refl _ | with_reducible apply Keeps.trans _ (State.gw_keeps _ _ _) | with_reducible apply Keeps.trans _ (State.updFeed_keeps _ _ _) | with_reducible refine Keeps.ite (fun _ => ?_) (fun _ => ?_) | split))

theorem State.regulate_keeps (s : State) (x : Feed) : Keeps s (State.regulate s x) := by
  unfold State.regulate
  try dsimp only
  repeat' (first | with_reducible exact Keeps.refl _ | with_reducible assumption | with_reducible apply Keeps.trans _ (State.drive_keeps _ _ _) | with_reducible refine Keeps.ite (fun _ => ?_) (fun _ => ?_) | with_reducible refine Keeps.foldl ?_ (fun _ _ => ?_) | with_reducible refine Keeps.foldl_fst ?_ (fun _ _ => ?_) | with_reducible refine Keeps.foldl_snd ?_ (fun _ _ => ?_) | with_reducible apply Keeps.cond | with_reducible refine Keeps.getD ?_ (fun _ _ => ?_) | split | (with_reducible apply Keeps.lit; (on_goal 2 => with_reducible rfl); first | with_reducible exact Keeps.refl _ | with_reducible assumption | with_reducible apply Keeps.trans _ (State.drive_keeps _ _ _) | with_reducible refine Keeps.ite (fun _ => ?_) (fun _ => ?_) | with_reducible refine Keeps.foldl ?_ (fun _ _ => ?_) | with_reducible refine Keeps.foldl_fst ?_ (fun _ _ => ?_) | with_reducible refine Keeps.foldl_snd ?_ (fun _ _ => ?_) | with_reducible apply Keeps.cond | with_reducible refine Keeps.getD ?_ (fun _ _ => ?_) | split))

theorem State.faultExpiry_keeps (s : State) (x : Feed) : Keeps s (State.faultExpiry s x) := by
  unfold State.faultExpiry
  try dsimp only
  repeat' (first | with_reducible exact Keeps.refl _ | with_reducible apply Keeps.trans _ (State.regulate_keeps _ _) | with_reducible apply Keeps.trans _ (State.setPg_keeps _ _) | with_reducible apply Keeps.trans _ (State.updFeed_keeps _ _ _) | with_reducible refine Keeps.ite (fun _ => ?_) (fun _ => ?_) | split | (with_reducible apply Keeps.lit; (on_goal 2 => with_reducible rfl); first | with_reducible exact Keeps.refl _ | with_reducible apply Keeps.trans _ (State.regulate_keeps _ _) | with_reducible apply Keeps.trans _ (State.setPg_keeps _ _) | with_reducible apply Keeps.trans _ (State.updFeed_keeps _ _ _) | with_reducible refine Keeps.ite (fun _ => ?_) (fun _ => ?_) | split))

theorem State.feedTime_keeps (s : State) (x : Feed) : Keeps s (State.feedTime s x) := by
  unfold State.feedTime
  repeat' (first | with_reducible exact Keeps.refl _ | with_reducible apply Keeps.trans _ (State.updFeed_keeps _ _ _))

theorem State.feedWindow_keeps (s : State) (x : Feed) (v : Nat) : Keeps s (State.feedWindow s x v) := by
  unfold State.feedWindow
  try dsimp only
  repeat' (first | with_reducible exact Keeps.refl _ | with_reducible apply Keeps.trans _ (State.crossed_keeps _ _ _) | with_reducible apply Keeps.trans _ (State.updFeed_keeps _ _ _) | with_reducible refine Keeps.ite (fun _ => ?_) (fun _ => ?_) | split | (with_reducible apply Keeps.lit; (on_goal 2 => with_reducible rfl); first | with_reducible exact Keeps.refl _ | with_reducible apply Keeps.trans _ (State.crossed_keeps _ _ _) | with_reducible apply Keeps.trans _ (State.updFeed_keeps _ _ _) | with_reducible refine Keeps.ite (fun _ => ?_) (fun _ => ?_) | split))

theorem State.measure_keeps (s : State) (x : Feed) (r : FeedReading) : Keeps s (State.measure s x r) := by
  unfold State.measure
  repeat' (first | with_reducible exact Keeps.refl _ | with_reducible apply Keeps.trans _ (State.updFeed_keeps _ _ _))

theorem State.outWindow_keeps (s : State) (v : Nat) : Keeps s (State.outWindow s v) := by
  unfold State.outWindow
  try dsimp only
  repeat' (first | with_reducible exact Keeps.refl _ | with_reducible apply Keeps.trans _ (State.gthRaise_keeps _ _ _ _) | with_reducible apply Keeps.trans _ (State.gw_keeps _ _ _) | with_reducible refine Keeps.ite (fun _ => ?_) (fun _ => ?_) | split | (with_reducible apply Keeps.lit; (on_goal 2 => with_reducible rfl); first | with_reducible exact Keeps.refl _ | with_reducible apply Keeps.trans _ (State.gthRaise_keeps _ _ _ _) | with_reducible apply Keeps.trans _ (State.gw_keeps _ _ _) | with_reducible refine Keeps.ite (fun _ => ?_) (fun _ => ?_) | split))

theorem State.rampDone_keeps (s : State) (x : Feed) (r : FeedReading) : Keeps s (State.rampDone s x r) := by
  unfold State.rampDone
  try dsimp only
  repeat' (first | with_reducible exact Keeps.refl _ | with_reducible apply Keeps.trans _ (State.setFst_keeps _ _ _) | with_reducible refine Keeps.ite (fun _ => ?_) (fun _ => ?_) | split | (with_reducible apply Keeps.lit; (on_goal 2 => with_reducible rfl); first | with_reducible exact Keeps.refl _ | with_reducible apply Keeps.trans _ (State.setFst_keeps _ _ _) | with_reducible refine Keeps.ite (fun _ => ?_) (fun _ => ?_) | split))

theorem State.feedSample_keeps (s : State) (x : Feed) (r : FeedReading) : Keeps s (State.feedSample s x r) := by
  unfold State.feedSample
  try dsimp only
  repeat' (first | with_reducible exact Keeps.refl _ | with_reducible apply Keeps.trans _ (State.breaker_keeps _ _ _) | with_reducible apply Keeps.trans _ (State.commonTime_keeps _) | with_reducible apply Keeps.trans _ (State.feedTime_keeps _ _) | with_reducible apply Keeps.trans _ (State.feedWindow_keeps _ _ _) | with_reducible apply Keeps.trans _ (State.gthSettle_keeps _) | with_reducible apply Keeps.trans _ (State.measure_keeps _ _ _) | with_reducible apply Keeps.trans _ (State.outWindow_keeps _ _) | with_reducible apply Keeps.trans _ (State.rampDone_keeps _ _ _) | with_reducible apply Keeps.trans _ (State.regulate_keeps _ _) | with_reducible refine Keeps.ite (fun _ => ?_) (fun _ => ?_) | split | (with_reducible apply Keeps.lit; (on_goal 2 => with_reducible rfl); first | with_reducible exact Keeps.refl _ | with_reducible apply Keeps.trans _ (State.breaker_keeps _ _ _) | with_reducible apply Keeps.trans _ (State.commonTime_keeps _) | with_reducible apply Keeps.trans _ (State.feedTime_keeps _ _) | with_reducible apply Keeps.trans _ (State.feedWindow_keeps _ _ _) | with_reducible apply Keeps.trans _ (State.gthSettle_keeps _) | with_reducible apply Keeps.trans _ (State.measure_keeps _ _ _) | with_reducible apply Keeps.trans _ (State.outWindow_keeps _ _) | with_reducible apply Keeps.trans _ (State.rampDone_keeps _ _ _) | with_reducible apply Keeps.trans _ (State.regulate_keeps _ _) | with_reducible refine Keeps.ite (fun _ => ?_) (fun _ => ?_) | split))

theorem State.gwSat_keeps (s : State) (f : Reg.Fld) (x : Nat) : Keeps s (State.gwSat s f x) := by
  unfold State.gwSat
  repeat' (first | with_reducible exact Keeps.refl _ | with_reducible apply Keeps.trans _ (State.gw_keeps _ _ _))

theorem State.frameFeed_keeps (s : State) (x : Feed) : Keeps s (State.frameFeed s x) := by
  unfold State.frameFeed
  repeat' (first | with_reducible exact Keeps.refl _ | with_reducible apply Keeps.trans _ (State.gw_keeps _ _ _) | with_reducible apply Keeps.trans _ (State.gwSat_keeps _ _ _) | with_reducible apply Keeps.trans _ (State.updFeed_keeps _ _ _))

theorem State.frameIn_keeps (s : State) : Keeps s (State.frameIn s) := by
  unfold State.frameIn
  try dsimp only
  repeat' (first | with_reducible exact Keeps.refl _ | with_reducible assumption | with_reducible apply Keeps.trans _ (State.dieCal_keeps _) | with_reducible apply Keeps.trans _ (State.setFlag_keeps _ _ _) | with_reducible apply Keeps.trans _ (State.setWord_keeps _ _ _) | with_reducible refine Keeps.ite (fun _ => ?_) (fun _ => ?_) | with_reducible refine Keeps.foldl ?_ (fun _ _ => ?_) | split | (with_reducible apply Keeps.lit; (on_goal 2 => with_reducible rfl); first | with_reducible exact Keeps.refl _ | with_reducible assumption | with_reducible apply Keeps.trans _ (State.dieCal_keeps _) | with_reducible apply Keeps.trans _ (State.setFlag_keeps _ _ _) | with_reducible apply Keeps.trans _ (State.setWord_keeps _ _ _) | with_reducible refine Keeps.ite (fun _ => ?_) (fun _ => ?_) | with_reducible refine Keeps.foldl ?_ (fun _ _ => ?_) | split))

theorem State.frameSend_keeps (s : State) : Keeps s (State.frameSend s) := by
  unfold State.frameSend
  try dsimp only
  repeat' (first | with_reducible exact Keeps.refl _ | with_reducible apply Keeps.trans _ (State.frameFeed_keeps _ _) | with_reducible refine Keeps.ite (fun _ => ?_) (fun _ => ?_) | split | (with_reducible apply Keeps.lit; (on_goal 2 => with_reducible rfl); first | with_reducible exact Keeps.refl _ | with_reducible apply Keeps.trans _ (State.frameFeed_keeps _ _) | with_reducible refine Keeps.ite (fun _ => ?_) (fun _ => ?_) | split))

theorem State.gapExpiry_keeps (s : State) : Keeps s (State.gapExpiry s) := by
  unfold State.gapExpiry
  try dsimp only
  repeat' (first | with_reducible exact Keeps.refl _ | with_reducible apply Keeps.trans _ (State.gthSettle_keeps _) | with_reducible apply Keeps.trans _ (State.ramp_keeps _ _ _) | with_reducible refine Keeps.ite (fun _ => ?_) (fun _ => ?_) | split | (with_reducible apply Keeps.lit; (on_goal 2 => with_reducible rfl); first | with_reducible exact Keeps.refl _ | with_reducible apply Keeps.trans _ (State.gthSettle_keeps _) | with_reducible apply Keeps.trans _ (State.ramp_keeps _ _ _) | with_reducible refine Keeps.ite (fun _ => ?_) (fun _ => ?_) | split))

theorem State.gthForward_keeps (s : State) (off : Nat) (v : Word) : Keeps s (State.gthForward s off v) := by
  unfold State.gthForward
  try dsimp only
  repeat' (first | with_reducible exact Keeps.refl _ | with_reducible refine Keeps.ite (fun _ => ?_) (fun _ => ?_) | split | (with_reducible apply Keeps.lit; (on_goal 2 => with_reducible rfl); first | with_reducible exact Keeps.refl _ | with_reducible refine Keeps.ite (fun _ => ?_) (fun _ => ?_) | split))

theorem State.holdExpiry_keeps (s : State) (x : Feed) : Keeps s (State.holdExpiry s x) := by
  unfold State.holdExpiry
  try dsimp only
  repeat' (first | with_reducible exact Keeps.refl _ | with_reducible apply Keeps.trans _ (State.gthSettle_keeps _) | with_reducible apply Keeps.trans _ (State.setFst_keeps _ _ _) | with_reducible apply Keeps.trans _ (State.updFeed_keeps _ _ _) | with_reducible refine Keeps.ite (fun _ => ?_) (fun _ => ?_) | split | (with_reducible apply Keeps.lit; (on_goal 2 => with_reducible rfl); first | with_reducible exact Keeps.refl _ | with_reducible apply Keeps.trans _ (State.gthSettle_keeps _) | with_reducible apply Keeps.trans _ (State.setFst_keeps _ _ _) | with_reducible apply Keeps.trans _ (State.updFeed_keeps _ _ _) | with_reducible refine Keeps.ite (fun _ => ?_) (fun _ => ?_) | split))

theorem State.linkLostGth_keeps (s : State) : Keeps s (State.linkLostGth s) := by
  unfold State.linkLostGth
  try dsimp only
  repeat' (first | with_reducible exact Keeps.refl _ | with_reducible apply Keeps.trans _ (State.raise_keeps _ _ _ _) | with_reducible apply Keeps.trans _ (State.setFlag_keeps _ _ _) | with_reducible refine Keeps.ite (fun _ => ?_) (fun _ => ?_) | split | (with_reducible apply Keeps.lit; (on_goal 2 => with_reducible rfl); first | with_reducible exact Keeps.refl _ | with_reducible apply Keeps.trans _ (State.raise_keeps _ _ _ _) | with_reducible apply Keeps.trans _ (State.setFlag_keeps _ _ _) | with_reducible refine Keeps.ite (fun _ => ?_) (fun _ => ?_) | split))

theorem State.loadGth_keeps (s : State) (off : Nat) (img : Nat) : Keeps s (State.loadGth s off img) := by
  unfold State.loadGth
  try dsimp only
  repeat' (first | with_reducible exact Keeps.refl _ | with_reducible apply Keeps.trans _ (State.gw_keeps _ _ _) | with_reducible refine Keeps.ite (fun _ => ?_) (fun _ => ?_) | split | (with_reducible apply Keeps.lit; (on_goal 2 => with_reducible rfl); first | with_reducible exact Keeps.refl _ | with_reducible apply Keeps.trans _ (State.gw_keeps _ _ _) | with_reducible refine Keeps.ite (fun _ => ?_) (fun _ => ?_) | split))

theorem State.offConfirm_keeps (s : State) (gate : Nat) : Keeps s (State.offConfirm s gate) := by
  unfold State.offConfirm
  try dsimp only
  repeat' (first | with_reducible exact Keeps.refl _ | with_reducible apply Keeps.trans _ (State.gthSettle_keeps _) | with_reducible refine Keeps.ite (fun _ => ?_) (fun _ => ?_) | split | (with_reducible apply Keeps.lit; (on_goal 2 => with_reducible rfl); first | with_reducible exact Keeps.refl _ | with_reducible apply Keeps.trans _ (State.gthSettle_keeps _) | with_reducible refine Keeps.ite (fun _ => ?_) (fun _ => ?_) | split))

theorem State.offTimeout_keeps (s : State) : Keeps s (State.offTimeout s) := by
  unfold State.offTimeout
  try dsimp only
  repeat' (first | with_reducible exact Keeps.refl _ | with_reducible apply Keeps.trans _ (State.gthSettle_keeps _) | with_reducible apply Keeps.trans _ (State.latch_keeps _ _ _) | with_reducible apply Keeps.trans _ (State.showSelected_keeps _ _) | with_reducible apply Keeps.trans _ (State.updFeed_keeps _ _ _) | with_reducible refine Keeps.ite (fun _ => ?_) (fun _ => ?_) | split | (with_reducible apply Keeps.lit; (on_goal 2 => with_reducible rfl); first | with_reducible exact Keeps.refl _ | with_reducible apply Keeps.trans _ (State.gthSettle_keeps _) | with_reducible apply Keeps.trans _ (State.latch_keeps _ _ _) | with_reducible apply Keeps.trans _ (State.showSelected_keeps _ _) | with_reducible apply Keeps.trans _ (State.updFeed_keeps _ _ _) | with_reducible refine Keeps.ite (fun _ => ?_) (fun _ => ?_) | split))

theorem State.pgQualified_keeps (s : State) : Keeps s (State.pgQualified s) := by
  unfold State.pgQualified
  try dsimp only
  repeat' (first | with_reducible exact Keeps.refl _ | with_reducible apply Keeps.trans _ (State.setPg_keeps _ _) | with_reducible refine Keeps.ite (fun _ => ?_) (fun _ => ?_) | split | (with_reducible apply Keeps.lit; (on_goal 2 => with_reducible rfl); first | with_reducible exact Keeps.refl _ | with_reducible apply Keeps.trans _ (State.setPg_keeps _ _) | with_reducible refine Keeps.ite (fun _ => ?_) (fun _ => ?_) | split))

theorem State.pulldown_keeps (s : State) (x : Feed) : Keeps s (State.pulldown s x) := by
  unfold State.pulldown
  try dsimp only
  repeat' (first | with_reducible exact Keeps.refl _ | with_reducible apply Keeps.trans _ (State.gthSettle_keeps _) | with_reducible apply Keeps.trans _ (State.latch_keeps _ _ _) | with_reducible refine Keeps.ite (fun _ => ?_) (fun _ => ?_) | split | (with_reducible apply Keeps.lit; (on_goal 2 => with_reducible rfl); first | with_reducible exact Keeps.refl _ | with_reducible apply Keeps.trans _ (State.gthSettle_keeps _) | with_reducible apply Keeps.trans _ (State.latch_keeps _ _ _) | with_reducible refine Keeps.ite (fun _ => ?_) (fun _ => ?_) | split))

theorem State.rampTimeout_keeps (s : State) (x : Feed) : Keeps s (State.rampTimeout s x) := by
  unfold State.rampTimeout
  try dsimp only
  repeat' (first | with_reducible exact Keeps.refl _ | with_reducible apply Keeps.trans _ (State.gthSettle_keeps _) | with_reducible apply Keeps.trans _ (State.latch_keeps _ _ _) | with_reducible refine Keeps.ite (fun _ => ?_) (fun _ => ?_) | split | (with_reducible apply Keeps.lit; (on_goal 2 => with_reducible rfl); first | with_reducible exact Keeps.refl _ | with_reducible apply Keeps.trans _ (State.gthSettle_keeps _) | with_reducible apply Keeps.trans _ (State.latch_keeps _ _ _) | with_reducible refine Keeps.ite (fun _ => ?_) (fun _ => ?_) | split))

theorem State.sensorCal_keeps (s : State) (sensor : Nat) (zero : Int) (line : Int) : Keeps s (State.sensorCal s sensor zero line) := by
  unfold State.sensorCal
  try dsimp only
  repeat' (first | with_reducible exact Keeps.refl _ | with_reducible apply Keeps.trans _ (State.calibrate_keeps _ _ _ _ _ _) | with_reducible apply Keeps.trans _ (State.dieCal_keeps _) | with_reducible refine Keeps.ite (fun _ => ?_) (fun _ => ?_) | split | (with_reducible apply Keeps.lit; (on_goal 2 => with_reducible rfl); first | with_reducible exact Keeps.refl _ | with_reducible apply Keeps.trans _ (State.calibrate_keeps _ _ _ _ _ _) | with_reducible apply Keeps.trans _ (State.dieCal_keeps _) | with_reducible refine Keeps.ite (fun _ => ?_) (fun _ => ?_) | split))

theorem State.settingsLoaded_keeps (s : State) : Keeps s (State.settingsLoaded s) := by
  unfold State.settingsLoaded
  try dsimp only
  repeat' (first | with_reducible exact Keeps.refl _ | with_reducible assumption | with_reducible apply Keeps.trans _ (State.gw_keeps _ _ _) | with_reducible apply Keeps.trans _ (State.loadGth_keeps _ _ _) | with_reducible apply Keeps.trans _ (State.toQualify_keeps _ _ _) | with_reducible refine Keeps.ite (fun _ => ?_) (fun _ => ?_) | with_reducible refine Keeps.foldl ?_ (fun _ _ => ?_) | with_reducible refine Keeps.foldl_fst ?_ (fun _ _ => ?_) | with_reducible refine Keeps.foldl_snd ?_ (fun _ _ => ?_) | with_reducible apply Keeps.cond | with_reducible refine Keeps.getD ?_ (fun _ _ => ?_) | split | (with_reducible apply Keeps.lit; (on_goal 2 => with_reducible rfl); first | with_reducible exact Keeps.refl _ | with_reducible assumption | with_reducible apply Keeps.trans _ (State.gw_keeps _ _ _) | with_reducible apply Keeps.trans _ (State.loadGth_keeps _ _ _) | with_reducible apply Keeps.trans _ (State.toQualify_keeps _ _ _) | with_reducible refine Keeps.ite (fun _ => ?_) (fun _ => ?_) | with_reducible refine Keeps.foldl ?_ (fun _ _ => ?_) | with_reducible refine Keeps.foldl_fst ?_ (fun _ _ => ?_) | with_reducible refine Keeps.foldl_snd ?_ (fun _ _ => ?_) | with_reducible apply Keeps.cond | with_reducible refine Keeps.getD ?_ (fun _ _ => ?_) | split))

end Sys2Proof.Machine
end

