-- ==== Sys2Proof/Laws/KeepsReset.lean ====
section
/-! SUPPORT. Every operation of Machine/Reset.lean keeps what `Keeps` says: one lemma for each. -/
namespace Sys2Proof.Machine
set_option linter.unreachableTactic false
set_option linter.unusedTactic false

theorem State.bringUp_keeps (s : State) (c : Nat) : Keeps s (State.bringUp s c) := by
  unfold State.bringUp
  try dsimp only
  repeat' (first | with_reducible exact Keeps.refl _ | with_reducible apply Keeps.trans _ (State.needSweep_keeps _ _) | with_reducible apply Keeps.trans _ (State.wr_keeps _ _ _) | with_reducible refine Keeps.ite (fun _ => ?_) (fun _ => ?_) | split | (with_reducible apply Keeps.lit; (on_goal 2 => with_reducible rfl); first | with_reducible exact Keeps.refl _ | with_reducible apply Keeps.trans _ (State.needSweep_keeps _ _) | with_reducible apply Keeps.trans _ (State.wr_keeps _ _ _) | with_reducible refine Keeps.ite (fun _ => ?_) (fun _ => ?_) | split))

theorem State.chooseRate_keeps (s : State) : Keeps s (State.chooseRate s) := by
  unfold State.chooseRate
  try dsimp only
  repeat' (first | with_reducible exact Keeps.refl _ | with_reducible apply Keeps.trans _ (State.raise_keeps _ _ _ _) | with_reducible apply Keeps.trans _ (State.wr_keeps _ _ _) | with_reducible refine Keeps.ite (fun _ => ?_) (fun _ => ?_) | split | (with_reducible apply Keeps.lit; (on_goal 2 => with_reducible rfl); first | with_reducible exact Keeps.refl _ | with_reducible apply Keeps.trans _ (State.raise_keeps _ _ _ _) | with_reducible apply Keeps.trans _ (State.wr_keeps _ _ _) | with_reducible refine Keeps.ite (fun _ => ?_) (fun _ => ?_) | split))

theorem State.clearVLosses_keeps (s : State) : Keeps s (State.clearVLosses s) := by
  unfold State.clearVLosses
  try dsimp only
  repeat' (first | with_reducible exact Keeps.refl _ | with_reducible assumption | with_reducible apply Keeps.trans _ (State.setDword_keeps _ _ _) | with_reducible refine Keeps.ite (fun _ => ?_) (fun _ => ?_) | with_reducible refine Keeps.foldl ?_ (fun _ _ => ?_) | split | (with_reducible apply Keeps.lit; (on_goal 2 => with_reducible rfl); first | with_reducible exact Keeps.refl _ | with_reducible assumption | with_reducible apply Keeps.trans _ (State.setDword_keeps _ _ _) | with_reducible refine Keeps.ite (fun _ => ?_) (fun _ => ?_) | with_reducible refine Keeps.foldl ?_ (fun _ _ => ?_) | split))

theorem State.clocksUp_keeps (s : State) : Keeps s (State.clocksUp s) := by
  unfold State.clocksUp
  repeat' (first | with_reducible exact Keeps.refl _ | with_reducible apply Keeps.trans _ (State.setFlag_keeps _ _ _) | with_reducible apply Keeps.trans _ (State.wr_keeps _ _ _))

theorem State.tearRecord_keeps (s : State) : Keeps s (State.tearRecord s) := by
  unfold State.tearRecord
  try dsimp only
  repeat' (first | with_reducible exact Keeps.refl _ | with_reducible assumption | with_reducible apply Keeps.trans _ (State.putBootRecord_keeps _ _ _ _ _) | with_reducible refine Keeps.ite (fun _ => ?_) (fun _ => ?_) | with_reducible refine Keeps.foldl ?_ (fun _ _ => ?_) | with_reducible refine Keeps.foldl_fst ?_ (fun _ _ => ?_) | with_reducible refine Keeps.foldl_snd ?_ (fun _ _ => ?_) | with_reducible apply Keeps.cond | with_reducible refine Keeps.getD ?_ (fun _ _ => ?_) | split | (with_reducible apply Keeps.lit; (on_goal 2 => with_reducible rfl); first | with_reducible exact Keeps.refl _ | with_reducible assumption | with_reducible apply Keeps.trans _ (State.putBootRecord_keeps _ _ _ _ _) | with_reducible refine Keeps.ite (fun _ => ?_) (fun _ => ?_) | with_reducible refine Keeps.foldl ?_ (fun _ _ => ?_) | with_reducible refine Keeps.foldl_fst ?_ (fun _ _ => ?_) | with_reducible refine Keeps.foldl_snd ?_ (fun _ _ => ?_) | with_reducible apply Keeps.cond | with_reducible refine Keeps.getD ?_ (fun _ _ => ?_) | split))

theorem keepRegs_wf (k : Nat) (t : Tbl Word) : Registers.wf (keepRegs k t) := by
  have h (l : List (Nat × Word)) (u : Tbl Word) (hu : Registers.wf u) : Registers.wf (l.foldl (fun (u : Tbl Word) (e : Nat × Word) =>
      Tbl.putD u (Reg.resetWord e.1) e.1 ((e.2 &&& keepMask k e.1) ||| (Reg.resetWord e.1 &&& ~~~(keepMask k e.1)))) u) := by
    induction l generalizing u with
    | nil => exact hu
    | cons e r ih => exact ih _ (Tbl.wfOn_putD Reg.resetWord _ _ _ hu)
  exact h t [] ⟨List.Pairwise.nil, by simp⟩

theorem State.coldReset_keeps (s : State) (kind : ResetKind) (cause : Nat) : Keeps s (State.coldReset s kind cause) := by
  unfold State.coldReset
  refine ⟨rfl, List.suffix_refl _, Nat.le_refl _, fun _ _ h => h, fun h => ⟨?_, ⟨List.Pairwise.nil, by simp⟩, h.2.2⟩⟩
  dsimp only
  split
  · exact ⟨List.Pairwise.nil, by simp⟩
  · exact keepRegs_wf _ _

theorem State.coldRst_keeps (s : State) : Keeps s (State.coldRst s) := by
  unfold State.coldRst
  repeat' (first | with_reducible exact Keeps.refl _ | with_reducible apply Keeps.trans _ (State.coldReset_keeps _ _ _) | (with_reducible apply Keeps.lit; (on_goal 2 => with_reducible rfl); first | with_reducible exact Keeps.refl _ | with_reducible apply Keeps.trans _ (State.coldReset_keeps _ _ _)))

theorem State.setting_keeps (s : State) (off : Nat) (n : Nat) (ok : Nat → Bool) (fix : Nat → Nat) : Keeps s (State.setting s off n ok fix).1 := by
  unfold State.setting
  try dsimp only
  repeat' (first | with_reducible exact Keeps.refl _ | with_reducible apply Keeps.trans _ (State.raise_keeps _ _ _ _) | with_reducible refine Keeps.ite (fun _ => ?_) (fun _ => ?_) | split | (with_reducible apply Keeps.lit; (on_goal 2 => with_reducible rfl); first | with_reducible exact Keeps.refl _ | with_reducible apply Keeps.trans _ (State.raise_keeps _ _ _ _) | with_reducible refine Keeps.ite (fun _ => ?_) (fun _ => ?_) | split))

theorem State.loadSettings_keeps (s : State) : Keeps s (State.loadSettings s) := by
  unfold State.loadSettings
  repeat' (first | with_reducible exact Keeps.refl _ | with_reducible apply Keeps.trans _ (State.setFlag_keeps _ _ _) | with_reducible apply Keeps.trans _ (State.setting_keeps _ _ _ _ _) | with_reducible apply Keeps.trans _ (State.wr_keeps _ _ _))

theorem State.dropLds_keeps (s : State) : Keeps s (State.dropLds s) := by
  unfold State.dropLds
  try dsimp only
  repeat' (first | with_reducible exact Keeps.refl _ | with_reducible assumption | with_reducible refine Keeps.ite (fun _ => ?_) (fun _ => ?_) | with_reducible refine Keeps.foldl ?_ (fun _ _ => ?_) | with_reducible refine Keeps.foldl_fst ?_ (fun _ _ => ?_) | with_reducible refine Keeps.foldl_snd ?_ (fun _ _ => ?_) | with_reducible apply Keeps.cond | with_reducible refine Keeps.getD ?_ (fun _ _ => ?_) | split | (with_reducible apply Keeps.lit; (on_goal 2 => with_reducible rfl); first | with_reducible exact Keeps.refl _ | with_reducible assumption | with_reducible refine Keeps.ite (fun _ => ?_) (fun _ => ?_) | with_reducible refine Keeps.foldl ?_ (fun _ _ => ?_) | with_reducible refine Keeps.foldl_fst ?_ (fun _ _ => ?_) | with_reducible refine Keeps.foldl_snd ?_ (fun _ _ => ?_) | with_reducible apply Keeps.cond | with_reducible refine Keeps.getD ?_ (fun _ _ => ?_) | split))

theorem State.makeHeads_keeps (s : State) : Keeps s (State.makeHeads s) := by
  unfold State.makeHeads
  try dsimp only
  repeat' (first | with_reducible exact Keeps.refl _ | with_reducible assumption | with_reducible apply Keeps.trans _ (State.dropLds_keeps _) | with_reducible apply Keeps.trans _ (State.setFlag_keeps _ _ _) | with_reducible apply Keeps.trans _ (State.wr_keeps _ _ _) | with_reducible refine Keeps.ite (fun _ => ?_) (fun _ => ?_) | with_reducible refine Keeps.foldl ?_ (fun _ _ => ?_) | split | (with_reducible apply Keeps.lit; (on_goal 2 => with_reducible rfl); first | with_reducible exact Keeps.refl _ | with_reducible assumption | with_reducible apply Keeps.trans _ (State.dropLds_keeps _) | with_reducible apply Keeps.trans _ (State.setFlag_keeps _ _ _) | with_reducible apply Keeps.trans _ (State.wr_keeps _ _ _) | with_reducible refine Keeps.ite (fun _ => ?_) (fun _ => ?_) | with_reducible refine Keeps.foldl ?_ (fun _ _ => ?_) | split))

theorem State.pairsUp_keeps (s : State) : Keeps s (State.pairsUp s) := by
  unfold State.pairsUp
  repeat' (first | with_reducible exact Keeps.refl _ | with_reducible apply Keeps.trans _ (State.handOver_keeps _) | with_reducible apply Keeps.trans _ (State.wr_keeps _ _ _))

theorem State.logBoot_keeps (s : State) : Keeps s (State.logBoot s) := by
  unfold State.logBoot
  repeat' (first | with_reducible exact Keeps.refl _ | with_reducible apply Keeps.trans _ (State.advanceFree_keeps _) | (with_reducible apply Keeps.lit; (on_goal 2 => with_reducible rfl); first | with_reducible exact Keeps.refl _ | with_reducible apply Keeps.trans _ (State.advanceFree_keeps _)))

theorem State.phase_keeps (s : State) (n : Nat) : Keeps s (State.phase s n) := by
  unfold State.phase
  repeat' (first | with_reducible exact Keeps.refl _ | with_reducible apply Keeps.trans _ (State.logBoot_keeps _) | with_reducible apply Keeps.trans _ (State.wr_keeps _ _ _))

theorem State.firmwareUp_keeps (s : State) : Keeps s (State.firmwareUp s) := by
  unfold State.firmwareUp
  try dsimp only
  repeat' (first | with_reducible exact Keeps.refl _ | with_reducible apply Keeps.trans _ (State.loadSettings_keeps _) | with_reducible apply Keeps.trans _ (State.makeHeads_keeps _) | with_reducible apply Keeps.trans _ (State.pairsUp_keeps _) | with_reducible apply Keeps.trans _ (State.phase_keeps _ _) | with_reducible apply Keeps.trans _ (State.setFlag_keeps _ _ _) | with_reducible apply Keeps.trans _ (State.wr_keeps _ _ _) | with_reducible refine Keeps.ite (fun _ => ?_) (fun _ => ?_) | split | (with_reducible apply Keeps.lit; (on_goal 2 => with_reducible rfl); first | with_reducible exact Keeps.refl _ | with_reducible apply Keeps.trans _ (State.loadSettings_keeps _) | with_reducible apply Keeps.trans _ (State.makeHeads_keeps _) | with_reducible apply Keeps.trans _ (State.pairsUp_keeps _) | with_reducible apply Keeps.trans _ (State.phase_keeps _ _) | with_reducible apply Keeps.trans _ (State.setFlag_keeps _ _ _) | with_reducible apply Keeps.trans _ (State.wr_keeps _ _ _) | with_reducible refine Keeps.ite (fun _ => ?_) (fun _ => ?_) | split))

theorem State.fwIdentity_keeps (s : State) (slot : Nat) : Keeps s (State.fwIdentity s slot) := by
  unfold State.fwIdentity
  repeat' (first | with_reducible exact Keeps.refl _ | with_reducible apply Keeps.trans _ (State.wr_keeps _ _ _))

theorem State.identity_keeps (s : State) : Keeps s (State.identity s) := by
  unfold State.identity
  repeat' (first | with_reducible exact Keeps.refl _ | with_reducible apply Keeps.trans _ (State.wr_keeps _ _ _))

theorem State.otpStatus_keeps (s : State) : Keeps s (State.otpStatus s) := by
  unfold State.otpStatus
  repeat' (first | with_reducible exact Keeps.refl _ | with_reducible apply Keeps.trans _ (State.setFlag_keeps _ _ _) | with_reducible apply Keeps.trans _ (State.wr_keeps _ _ _))

theorem State.takeSpd_keeps (s : State) (c : Nat) (x : ChanSpd) : Keeps s (State.takeSpd s c x) := by
  unfold State.takeSpd
  try dsimp only
  repeat' (first | with_reducible exact Keeps.refl _ | with_reducible apply Keeps.trans _ (State.raiseCh_keeps _ _ _ _ _) | with_reducible apply Keeps.trans _ (State.setFlag_keeps _ _ _) | with_reducible apply Keeps.trans _ (State.wr_keeps _ _ _) | with_reducible apply Keeps.trans _ (State.setWord_keeps _ _ _) | with_reducible refine Keeps.ite (fun _ => ?_) (fun _ => ?_) | split | (with_reducible apply Keeps.lit; (on_goal 2 => with_reducible rfl); first | with_reducible exact Keeps.refl _ | with_reducible apply Keeps.trans _ (State.raiseCh_keeps _ _ _ _ _) | with_reducible apply Keeps.trans _ (State.setFlag_keeps _ _ _) | with_reducible apply Keeps.trans _ (State.wr_keeps _ _ _) | with_reducible apply Keeps.trans _ (State.setWord_keeps _ _ _) | with_reducible refine Keeps.ite (fun _ => ?_) (fun _ => ?_) | split))

theorem State.rateUp_keeps (s : State) : Keeps s (State.rateUp s) := by
  unfold State.rateUp
  try dsimp only
  repeat' (first | with_reducible exact Keeps.refl _ | with_reducible assumption | with_reducible apply Keeps.trans _ (State.chooseRate_keeps _) | with_reducible apply Keeps.trans _ (State.phase_keeps _ _) | with_reducible apply Keeps.trans _ (State.takeSpd_keeps _ _ _) | with_reducible apply Keeps.trans _ (State.wr_keeps _ _ _) | with_reducible refine Keeps.ite (fun _ => ?_) (fun _ => ?_) | with_reducible refine Keeps.foldl ?_ (fun _ _ => ?_) | split | (with_reducible apply Keeps.lit; (on_goal 2 => with_reducible rfl); first | with_reducible exact Keeps.refl _ | with_reducible assumption | with_reducible apply Keeps.trans _ (State.chooseRate_keeps _) | with_reducible apply Keeps.trans _ (State.phase_keeps _ _) | with_reducible apply Keeps.trans _ (State.takeSpd_keeps _ _ _) | with_reducible apply Keeps.trans _ (State.wr_keeps _ _ _) | with_reducible refine Keeps.ite (fun _ => ?_) (fun _ => ?_) | with_reducible refine Keeps.foldl ?_ (fun _ _ => ?_) | split))

theorem State.recoveryMode_keeps (s : State) : Keeps s (State.recoveryMode s) := by
  unfold State.recoveryMode
  repeat' (first | with_reducible exact Keeps.refl _ | with_reducible apply Keeps.trans _ (State.phase_keeps _ _) | with_reducible apply Keeps.trans _ (State.raise_keeps _ _ _ _) | with_reducible apply Keeps.trans _ (State.wr_keeps _ _ _))

theorem State.rstStatus_keeps (s : State) : Keeps s (State.rstStatus s) := by
  unfold State.rstStatus
  repeat' (first | with_reducible exact Keeps.refl _ | with_reducible apply Keeps.trans _ (State.setFlag_keeps _ _ _) | with_reducible apply Keeps.trans _ (State.wr_keeps _ _ _))

theorem State.showPick_keeps (s : State) (k : BootPick) : Keeps s (State.showPick s k) := by
  unfold State.showPick
  try dsimp only
  repeat' (first | with_reducible exact Keeps.refl _ | with_reducible apply Keeps.trans _ (State.setFlag_keeps _ _ _) | with_reducible apply Keeps.trans _ (State.stn_keeps _ _ _ _) | with_reducible apply Keeps.trans _ (State.wr_keeps _ _ _) | with_reducible refine Keeps.ite (fun _ => ?_) (fun _ => ?_) | split | (with_reducible apply Keeps.lit; (on_goal 2 => with_reducible rfl); first | with_reducible exact Keeps.refl _ | with_reducible apply Keeps.trans _ (State.setFlag_keeps _ _ _) | with_reducible apply Keeps.trans _ (State.stn_keeps _ _ _ _) | with_reducible apply Keeps.trans _ (State.wr_keeps _ _ _) | with_reducible refine Keeps.ite (fun _ => ?_) (fun _ => ?_) | split))

theorem State.takeSettings_keeps (s : State) : Keeps s (State.takeSettings s) := by
  unfold State.takeSettings
  try dsimp only
  repeat' (first | with_reducible exact Keeps.refl _ | with_reducible refine Keeps.ite (fun _ => ?_) (fun _ => ?_) | split | (with_reducible apply Keeps.lit; (on_goal 2 => with_reducible rfl); first | with_reducible exact Keeps.refl _ | with_reducible refine Keeps.ite (fun _ => ?_) (fun _ => ?_) | split))

theorem State.trainUp_keeps (s : State) : Keeps s (State.trainUp s) := by
  unfold State.trainUp
  try dsimp only
  repeat' (first | with_reducible exact Keeps.refl _ | with_reducible assumption | with_reducible apply Keeps.trans _ (State.bootGoesOn_keeps _) | with_reducible apply Keeps.trans _ (State.bringUp_keeps _ _) | with_reducible apply Keeps.trans _ (State.phase_keeps _ _) | with_reducible refine Keeps.ite (fun _ => ?_) (fun _ => ?_) | with_reducible refine Keeps.foldl ?_ (fun _ _ => ?_) | split | (with_reducible apply Keeps.lit; (on_goal 2 => with_reducible rfl); first | with_reducible exact Keeps.refl _ | with_reducible assumption | with_reducible apply Keeps.trans _ (State.bootGoesOn_keeps _) | with_reducible apply Keeps.trans _ (State.bringUp_keeps _ _) | with_reducible apply Keeps.trans _ (State.phase_keeps _ _) | with_reducible refine Keeps.ite (fun _ => ?_) (fun _ => ?_) | with_reducible refine Keeps.foldl ?_ (fun _ _ => ?_) | split))

theorem State.release_keeps (s : State) (env : BootEnv) : Keeps s (State.release s env) := by
  unfold State.release
  try dsimp only
  repeat' (first | with_reducible exact Keeps.refl _ | with_reducible apply Keeps.trans _ (State.clocksUp_keeps _) | with_reducible apply Keeps.trans _ (State.firmwareUp_keeps _) | with_reducible apply Keeps.trans _ (State.fwIdentity_keeps _ _) | with_reducible apply Keeps.trans _ (State.identity_keeps _) | with_reducible apply Keeps.trans _ (State.loadTrims_keeps _ _ _) | with_reducible apply Keeps.trans _ (State.otpStatus_keeps _) | with_reducible apply Keeps.trans _ (State.phase_keeps _ _) | with_reducible apply Keeps.trans _ (State.rateUp_keeps _) | with_reducible apply Keeps.trans _ (State.recoveryMode_keeps _) | with_reducible apply Keeps.trans _ (State.rstStatus_keeps _) | with_reducible apply Keeps.trans _ (State.setFlag_keeps _ _ _) | with_reducible apply Keeps.trans _ (State.showPick_keeps _ _) | with_reducible apply Keeps.trans _ (State.takeSettings_keeps _) | with_reducible apply Keeps.trans _ (State.trainUp_keeps _) | with_reducible apply Keeps.trans _ (State.trigger_keeps _ _ _) | with_reducible refine Keeps.ite (fun _ => ?_) (fun _ => ?_) | split | (with_reducible apply Keeps.lit; (on_goal 2 => with_reducible rfl); first | with_reducible exact Keeps.refl _ | with_reducible apply Keeps.trans _ (State.clocksUp_keeps _) | with_reducible apply Keeps.trans _ (State.firmwareUp_keeps _) | with_reducible apply Keeps.trans _ (State.fwIdentity_keeps _ _) | with_reducible apply Keeps.trans _ (State.identity_keeps _) | with_reducible apply Keeps.trans _ (State.loadTrims_keeps _ _ _) | with_reducible apply Keeps.trans _ (State.otpStatus_keeps _) | with_reducible apply Keeps.trans _ (State.phase_keeps _ _) | with_reducible apply Keeps.trans _ (State.rateUp_keeps _) | with_reducible apply Keeps.trans _ (State.recoveryMode_keeps _) | with_reducible apply Keeps.trans _ (State.rstStatus_keeps _) | with_reducible apply Keeps.trans _ (State.setFlag_keeps _ _ _) | with_reducible apply Keeps.trans _ (State.showPick_keeps _ _) | with_reducible apply Keeps.trans _ (State.takeSettings_keeps _) | with_reducible apply Keeps.trans _ (State.trainUp_keeps _) | with_reducible apply Keeps.trans _ (State.trigger_keeps _ _ _) | with_reducible refine Keeps.ite (fun _ => ?_) (fun _ => ?_) | split))

theorem State.finishLock_keeps (s : State) (k : PageLock) : Keeps s (State.finishLock s k) := by
  unfold State.finishLock
  try dsimp only
  repeat' (first | with_reducible exact Keeps.refl _ | with_reducible assumption | with_reducible apply Keeps.trans _ (State.flushWrites_keeps _ _) | with_reducible apply Keeps.trans _ (State.overflowSeal_keeps _ _ _) | with_reducible apply Keeps.trans _ (State.storeLines_keeps _ _ _ _) | with_reducible apply Keeps.trans _ (State.unlock_keeps _ _) | with_reducible refine Keeps.ite (fun _ => ?_) (fun _ => ?_) | with_reducible refine Keeps.foldl ?_ (fun _ _ => ?_) | with_reducible refine Keeps.foldl_fst ?_ (fun _ _ => ?_) | with_reducible refine Keeps.foldl_snd ?_ (fun _ _ => ?_) | with_reducible apply Keeps.cond | with_reducible refine Keeps.getD ?_ (fun _ _ => ?_) | split | (with_reducible apply Keeps.lit; (on_goal 2 => with_reducible rfl); first | with_reducible exact Keeps.refl _ | with_reducible assumption | with_reducible apply Keeps.trans _ (State.flushWrites_keeps _ _) | with_reducible apply Keeps.trans _ (State.overflowSeal_keeps _ _ _) | with_reducible apply Keeps.trans _ (State.storeLines_keeps _ _ _ _) | with_reducible apply Keeps.trans _ (State.unlock_keeps _ _) | with_reducible refine Keeps.ite (fun _ => ?_) (fun _ => ?_) | with_reducible refine Keeps.foldl ?_ (fun _ _ => ?_) | with_reducible refine Keeps.foldl_fst ?_ (fun _ _ => ?_) | with_reducible refine Keeps.foldl_snd ?_ (fun _ _ => ?_) | with_reducible apply Keeps.cond | with_reducible refine Keeps.getD ?_ (fun _ _ => ?_) | split))

theorem State.finishLocks_keeps (s : State) : Keeps s (State.finishLocks s) := by
  unfold State.finishLocks
  try dsimp only
  repeat' (first | with_reducible exact Keeps.refl _ | with_reducible assumption | with_reducible apply Keeps.trans _ (State.finishLock_keeps _ _) | with_reducible refine Keeps.ite (fun _ => ?_) (fun _ => ?_) | with_reducible refine Keeps.foldl ?_ (fun _ _ => ?_) | with_reducible refine Keeps.foldl_fst ?_ (fun _ _ => ?_) | with_reducible refine Keeps.foldl_snd ?_ (fun _ _ => ?_) | with_reducible apply Keeps.cond | with_reducible refine Keeps.getD ?_ (fun _ _ => ?_) | split | (with_reducible apply Keeps.lit; (on_goal 2 => with_reducible rfl); first | with_reducible exact Keeps.refl _ | with_reducible assumption | with_reducible apply Keeps.trans _ (State.finishLock_keeps _ _) | with_reducible refine Keeps.ite (fun _ => ?_) (fun _ => ?_) | with_reducible refine Keeps.foldl ?_ (fun _ _ => ?_) | with_reducible refine Keeps.foldl_fst ?_ (fun _ _ => ?_) | with_reducible refine Keeps.foldl_snd ?_ (fun _ _ => ?_) | with_reducible apply Keeps.cond | with_reducible refine Keeps.getD ?_ (fun _ _ => ?_) | split))

theorem State.flushCounters_keeps (s : State) : Keeps s (State.flushCounters s) := by
  unfold State.flushCounters
  try dsimp only
  repeat' (first | with_reducible exact Keeps.refl _ | with_reducible assumption | with_reducible apply Keeps.trans _ (State.store_keeps _ _ _ _ _) | with_reducible refine Keeps.ite (fun _ => ?_) (fun _ => ?_) | with_reducible refine Keeps.foldl ?_ (fun _ _ => ?_) | split | (with_reducible apply Keeps.lit; (on_goal 2 => with_reducible rfl); first | with_reducible exact Keeps.refl _ | with_reducible assumption | with_reducible apply Keeps.trans _ (State.store_keeps _ _ _ _ _) | with_reducible refine Keeps.ite (fun _ => ?_) (fun _ => ?_) | with_reducible refine Keeps.foldl ?_ (fun _ _ => ?_) | split))

theorem State.flushLine_keeps (s : State) (w : WcbLine) : Keeps s (State.flushLine s w) := by
  unfold State.flushLine
  try dsimp only
  repeat' (first | with_reducible exact Keeps.refl _ | with_reducible assumption | with_reducible apply Keeps.trans _ (State.drainSecure_keeps _ _ _ _ _) | with_reducible apply Keeps.trans _ (State.enqueueWrite_keeps _ _ _ _ _ _) | with_reducible apply Keeps.trans _ (State.ensureCtr_keeps _ _) | with_reducible apply Keeps.trans _ (State.finishLocks_keeps _) | with_reducible apply Keeps.trans _ (State.flushWrites_keeps _ _) | with_reducible apply Keeps.trans _ (State.tagFail_keeps _ _ _ _) | with_reducible apply Keeps.trans _ (State.wcbDrop_keeps _ _) | with_reducible refine Keeps.ite (fun _ => ?_) (fun _ => ?_) | with_reducible refine Keeps.foldl ?_ (fun _ _ => ?_) | with_reducible refine Keeps.foldl_fst ?_ (fun _ _ => ?_) | with_reducible refine Keeps.foldl_snd ?_ (fun _ _ => ?_) | with_reducible apply Keeps.cond | with_reducible refine Keeps.getD ?_ (fun _ _ => ?_) | split | with_reducible refine Keeps.of_fst ‹_ = (_, _)› ?_ | (with_reducible apply Keeps.lit; (on_goal 2 => with_reducible rfl); first | with_reducible exact Keeps.refl _ | with_reducible assumption | with_reducible apply Keeps.trans _ (State.drainSecure_keeps _ _ _ _ _) | with_reducible apply Keeps.trans _ (State.enqueueWrite_keeps _ _ _ _ _ _) | with_reducible apply Keeps.trans _ (State.ensureCtr_keeps _ _) | with_reducible apply Keeps.trans _ (State.finishLocks_keeps _) | with_reducible apply Keeps.trans _ (State.flushWrites_keeps _ _) | with_reducible apply Keeps.trans _ (State.tagFail_keeps _ _ _ _) | with_reducible apply Keeps.trans _ (State.wcbDrop_keeps _ _) | with_reducible refine Keeps.ite (fun _ => ?_) (fun _ => ?_) | with_reducible refine Keeps.foldl ?_ (fun _ _ => ?_) | with_reducible refine Keeps.foldl_fst ?_ (fun _ _ => ?_) | with_reducible refine Keeps.foldl_snd ?_ (fun _ _ => ?_) | with_reducible apply Keeps.cond | with_reducible refine Keeps.getD ?_ (fun _ _ => ?_) | split | with_reducible refine Keeps.of_fst ‹_ = (_, _)› ?_))

theorem State.flushMeta_keeps (s : State) : Keeps s (State.flushMeta s) := by
  unfold State.flushMeta
  try dsimp only
  repeat' (first | with_reducible exact Keeps.refl _ | with_reducible assumption | with_reducible apply Keeps.trans _ (State.enqueueMeta_keeps _ _ _ _ _) | with_reducible apply Keeps.trans _ (State.flushWrites_keeps _ _) | with_reducible refine Keeps.ite (fun _ => ?_) (fun _ => ?_) | with_reducible refine Keeps.foldl ?_ (fun _ _ => ?_) | with_reducible refine Keeps.foldl_fst ?_ (fun _ _ => ?_) | with_reducible refine Keeps.foldl_snd ?_ (fun _ _ => ?_) | with_reducible apply Keeps.cond | with_reducible refine Keeps.getD ?_ (fun _ _ => ?_) | split | (with_reducible apply Keeps.lit; (on_goal 2 => with_reducible rfl); first | with_reducible exact Keeps.refl _ | with_reducible assumption | with_reducible apply Keeps.trans _ (State.enqueueMeta_keeps _ _ _ _ _) | with_reducible apply Keeps.trans _ (State.flushWrites_keeps _ _) | with_reducible refine Keeps.ite (fun _ => ?_) (fun _ => ?_) | with_reducible refine Keeps.foldl ?_ (fun _ _ => ?_) | with_reducible refine Keeps.foldl_fst ?_ (fun _ _ => ?_) | with_reducible refine Keeps.foldl_snd ?_ (fun _ _ => ?_) | with_reducible apply Keeps.cond | with_reducible refine Keeps.getD ?_ (fun _ _ => ?_) | split))

theorem State.flushAll_keeps (s : State) : Keeps s (State.flushAll s) := by
  unfold State.flushAll
  try dsimp only
  repeat' (first | with_reducible exact Keeps.refl _ | with_reducible assumption | with_reducible apply Keeps.trans _ (State.finishLocks_keeps _) | with_reducible apply Keeps.trans _ (State.flushCounters_keeps _) | with_reducible apply Keeps.trans _ (State.flushLine_keeps _ _) | with_reducible apply Keeps.trans _ (State.flushMeta_keeps _) | with_reducible apply Keeps.trans _ (State.flushWrites_keeps _ _) | with_reducible refine Keeps.ite (fun _ => ?_) (fun _ => ?_) | with_reducible refine Keeps.foldl ?_ (fun _ _ => ?_) | split | (with_reducible apply Keeps.lit; (on_goal 2 => with_reducible rfl); first | with_reducible exact Keeps.refl _ | with_reducible assumption | with_reducible apply Keeps.trans _ (State.finishLocks_keeps _) | with_reducible apply Keeps.trans _ (State.flushCounters_keeps _) | with_reducible apply Keeps.trans _ (State.flushLine_keeps _ _) | with_reducible apply Keeps.trans _ (State.flushMeta_keeps _) | with_reducible apply Keeps.trans _ (State.flushWrites_keeps _ _) | with_reducible refine Keeps.ite (fun _ => ?_) (fun _ => ?_) | with_reducible refine Keeps.foldl ?_ (fun _ _ => ?_) | split))

theorem State.parkAll_keeps (s : State) : Keeps s (State.parkAll s) := by
  unfold State.parkAll
  try dsimp only
  repeat' (first | with_reducible exact Keeps.refl _ | with_reducible assumption | with_reducible apply Keeps.trans _ (State.park_keeps _ _) | with_reducible refine Keeps.ite (fun _ => ?_) (fun _ => ?_) | with_reducible refine Keeps.foldl ?_ (fun _ _ => ?_) | split | (with_reducible apply Keeps.lit; (on_goal 2 => with_reducible rfl); first | with_reducible exact Keeps.refl _ | with_reducible assumption | with_reducible apply Keeps.trans _ (State.park_keeps _ _) | with_reducible refine Keeps.ite (fun _ => ?_) (fun _ => ?_) | with_reducible refine Keeps.foldl ?_ (fun _ _ => ?_) | split))

theorem State.warmState_keeps (s : State) : Keeps s (State.warmState s) := by
  unfold State.warmState
  dsimp only
  refine Keeps.trans ?_ (State.wr_keeps _ _ _)
  refine Keeps.trans ?_ (State.clearVLosses_keeps _)
  exact ⟨rfl, List.suffix_refl _, Nat.le_refl _, fun _ _ h => h, fun h => ⟨keepRegs_wf _ _, h.2⟩⟩

theorem State.warmReset_keeps (s : State) : Keeps s (State.warmReset s) := by
  unfold State.warmReset
  try dsimp only
  repeat' (first | with_reducible exact Keeps.refl _ | with_reducible assumption | with_reducible apply Keeps.trans _ (State.flushAll_keeps _) | with_reducible apply Keeps.trans _ (State.parkAll_keeps _) | with_reducible apply Keeps.trans _ (State.reclaim_keeps _ _) | with_reducible apply Keeps.trans _ (State.warmState_keeps _) | with_reducible refine Keeps.ite (fun _ => ?_) (fun _ => ?_) | with_reducible refine Keeps.foldl ?_ (fun _ _ => ?_) | split | (with_reducible apply Keeps.lit; (on_goal 2 => with_reducible rfl); first | with_reducible exact Keeps.refl _ | with_reducible assumption | with_reducible apply Keeps.trans _ (State.flushAll_keeps _) | with_reducible apply Keeps.trans _ (State.parkAll_keeps _) | with_reducible apply Keeps.trans _ (State.reclaim_keeps _ _) | with_reducible apply Keeps.trans _ (State.warmState_keeps _) | with_reducible refine Keeps.ite (fun _ => ?_) (fun _ => ?_) | with_reducible refine Keeps.foldl ?_ (fun _ _ => ?_) | split))

theorem State.dieRelease_keeps (s : State) (env : BootEnv) : Keeps s (State.dieRelease s env) := by
  unfold State.dieRelease
  try dsimp only
  repeat' (first | with_reducible exact Keeps.refl _ | with_reducible apply Keeps.trans _ (State.release_keeps _ _) | with_reducible apply Keeps.trans _ (State.warmReset_keeps _) | with_reducible refine Keeps.ite (fun _ => ?_) (fun _ => ?_) | split | (with_reducible apply Keeps.lit; (on_goal 2 => with_reducible rfl); first | with_reducible exact Keeps.refl _ | with_reducible apply Keeps.trans _ (State.release_keeps _ _) | with_reducible apply Keeps.trans _ (State.warmReset_keeps _) | with_reducible refine Keeps.ite (fun _ => ?_) (fun _ => ?_) | split))

theorem State.moveDeadline_keeps (s : State) : Keeps s (State.moveDeadline s) := by
  unfold State.moveDeadline
  try dsimp only
  repeat' (first | with_reducible exact Keeps.refl _ | with_reducible apply Keeps.trans _ (State.abortMoves_keeps _) | with_reducible apply Keeps.trans _ (State.portsDown_keeps _) | with_reducible refine Keeps.ite (fun _ => ?_) (fun _ => ?_) | split | (with_reducible apply Keeps.lit; (on_goal 2 => with_reducible rfl); first | with_reducible exact Keeps.refl _ | with_reducible apply Keeps.trans _ (State.abortMoves_keeps _) | with_reducible apply Keeps.trans _ (State.portsDown_keeps _) | with_reducible refine Keeps.ite (fun _ => ?_) (fun _ => ?_) | split))

theorem State.perstOff_keeps (s : State) (p : Nat) : Keeps s (State.perstOff s p) := by
  unfold State.perstOff
  repeat' (first | with_reducible exact Keeps.refl _ | (with_reducible apply Keeps.lit; (on_goal 2 => with_reducible rfl); first | with_reducible exact Keeps.refl _))

theorem State.perstOn_keeps (s : State) (p : Nat) : Keeps s (State.perstOn s p) := by
  unfold State.perstOn
  try dsimp only
  repeat' (first | with_reducible exact Keeps.refl _ | with_reducible assumption | with_reducible apply Keeps.trans _ (State.headDown_keeps _ _) | with_reducible refine Keeps.ite (fun _ => ?_) (fun _ => ?_) | with_reducible refine Keeps.foldl ?_ (fun _ _ => ?_) | split | (with_reducible apply Keeps.lit; (on_goal 2 => with_reducible rfl); first | with_reducible exact Keeps.refl _ | with_reducible assumption | with_reducible apply Keeps.trans _ (State.headDown_keeps _ _) | with_reducible refine Keeps.ite (fun _ => ?_) (fun _ => ?_) | with_reducible refine Keeps.foldl ?_ (fun _ _ => ?_) | split))

theorem State.pwrokFall_keeps (s : State) : Keeps s (State.pwrokFall s) := by
  unfold State.pwrokFall
  repeat' (first | with_reducible exact Keeps.refl _ | with_reducible apply Keeps.trans _ (State.coldReset_keeps _ _ _) | (with_reducible apply Keeps.lit; (on_goal 2 => with_reducible rfl); first | with_reducible exact Keeps.refl _ | with_reducible apply Keeps.trans _ (State.coldReset_keeps _ _ _)))

theorem State.warmTrigger_keeps (s : State) (cause : Nat) : Keeps s (State.warmTrigger s cause) := by
  unfold State.warmTrigger
  try dsimp only
  repeat' (first | with_reducible exact Keeps.refl _ | with_reducible assumption | with_reducible apply Keeps.trans _ (State.drainLd_keeps _ _) | with_reducible apply Keeps.trans _ (State.stopLd_keeps _ _) | with_reducible apply Keeps.trans _ (State.wr_keeps _ _ _) | with_reducible refine Keeps.ite (fun _ => ?_) (fun _ => ?_) | with_reducible refine Keeps.foldl ?_ (fun _ _ => ?_) | split | (with_reducible apply Keeps.lit; (on_goal 2 => with_reducible rfl); first | with_reducible exact Keeps.refl _ | with_reducible assumption | with_reducible apply Keeps.trans _ (State.drainLd_keeps _ _) | with_reducible apply Keeps.trans _ (State.stopLd_keeps _ _) | with_reducible apply Keeps.trans _ (State.wr_keeps _ _ _) | with_reducible refine Keeps.ite (fun _ => ?_) (fun _ => ?_) | with_reducible refine Keeps.foldl ?_ (fun _ _ => ?_) | split))

theorem State.rstCtl_keeps (s : State) (v : Word) : Keeps s (State.rstCtl s v) := by
  unfold State.rstCtl
  try dsimp only
  repeat' (first | with_reducible exact Keeps.refl _ | with_reducible apply Keeps.trans _ (State.coldReset_keeps _ _ _) | with_reducible apply Keeps.trans _ (State.setFlag_keeps _ _ _) | with_reducible apply Keeps.trans _ (State.warmTrigger_keeps _ _) | with_reducible refine Keeps.ite (fun _ => ?_) (fun _ => ?_) | split | (with_reducible apply Keeps.lit; (on_goal 2 => with_reducible rfl); first | with_reducible exact Keeps.refl _ | with_reducible apply Keeps.trans _ (State.coldReset_keeps _ _ _) | with_reducible apply Keeps.trans _ (State.setFlag_keeps _ _ _) | with_reducible apply Keeps.trans _ (State.warmTrigger_keeps _ _) | with_reducible refine Keeps.ite (fun _ => ?_) (fun _ => ?_) | split))

theorem State.standbyUp_keeps (s : State) : Keeps s (State.standbyUp s) := by
  unfold State.standbyUp
  try dsimp only
  repeat' (first | with_reducible exact Keeps.refl _ | with_reducible apply Keeps.trans _ (State.auxUp_keeps _) | with_reducible apply Keeps.trans _ (State.coldReset_keeps _ _ _) | with_reducible refine Keeps.ite (fun _ => ?_) (fun _ => ?_) | split | (with_reducible apply Keeps.lit; (on_goal 2 => with_reducible rfl); first | with_reducible exact Keeps.refl _ | with_reducible apply Keeps.trans _ (State.auxUp_keeps _) | with_reducible apply Keeps.trans _ (State.coldReset_keeps _ _ _) | with_reducible refine Keeps.ite (fun _ => ?_) (fun _ => ?_) | split))

theorem State.warmRst_keeps (s : State) : Keeps s (State.warmRst s) := by
  unfold State.warmRst
  try dsimp only
  repeat' (first | with_reducible exact Keeps.refl _ | with_reducible assumption | with_reducible apply Keeps.trans _ (State.warmTrigger_keeps _ _) | with_reducible refine Keeps.ite (fun _ => ?_) (fun _ => ?_) | with_reducible refine Keeps.foldl ?_ (fun _ _ => ?_) | with_reducible refine Keeps.foldl_fst ?_ (fun _ _ => ?_) | with_reducible refine Keeps.foldl_snd ?_ (fun _ _ => ?_) | with_reducible apply Keeps.cond | with_reducible refine Keeps.getD ?_ (fun _ _ => ?_) | split | (with_reducible apply Keeps.lit; (on_goal 2 => with_reducible rfl); first | with_reducible exact Keeps.refl _ | with_reducible assumption | with_reducible apply Keeps.trans _ (State.warmTrigger_keeps _ _) | with_reducible refine Keeps.ite (fun _ => ?_) (fun _ => ?_) | with_reducible refine Keeps.foldl ?_ (fun _ _ => ?_) | with_reducible refine Keeps.foldl_fst ?_ (fun _ _ => ?_) | with_reducible refine Keeps.foldl_snd ?_ (fun _ _ => ?_) | with_reducible apply Keeps.cond | with_reducible refine Keeps.getD ?_ (fun _ _ => ?_) | split))

end Sys2Proof.Machine
end

