-- ==== Sys2Proof/Laws/KeepsRegisters.lean ====
section
/-! SUPPORT. Every operation of Machine/Registers.lean keeps what `Keeps` says: one lemma for each. -/
namespace Sys2Proof.Machine
set_option linter.unreachableTactic false
set_option linter.unusedTactic false

theorem State.dropHalves_keeps (s : State) (off : Nat) : Keeps s (State.dropHalves s off) := by
  unfold State.dropHalves
  repeat' (first | with_reducible exact Keeps.refl _ | (with_reducible apply Keeps.lit; (on_goal 2 => with_reducible rfl); first | with_reducible exact Keeps.refl _))

theorem State.regRead_keeps (s : State) (off : Nat) : Keeps s (State.regRead s off).1 := by
  unfold State.regRead
  try dsimp only
  repeat' (first | with_reducible exact Keeps.refl _ | with_reducible apply Keeps.trans _ (State.advanceFree_keeps _) | with_reducible refine Keeps.ite (fun _ => ?_) (fun _ => ?_) | split | (with_reducible apply Keeps.lit; (on_goal 2 => with_reducible rfl); first | with_reducible exact Keeps.refl _ | with_reducible apply Keeps.trans _ (State.advanceFree_keeps _) | with_reducible refine Keeps.ite (fun _ => ?_) (fun _ => ?_) | split))

theorem State.read32_keeps (s : State) (v : View) (off : Nat) : Keeps s (State.read32 s v off).1 := by
  unfold State.read32
  try dsimp only
  repeat' (first | with_reducible exact Keeps.refl _ | with_reducible apply Keeps.trans _ (State.regRead_keeps _ _) | with_reducible refine Keeps.ite (fun _ => ?_) (fun _ => ?_) | split | with_reducible refine Keeps.of_fst ‹_ = (_, _)› ?_ | (with_reducible apply Keeps.lit; (on_goal 2 => with_reducible rfl); first | with_reducible exact Keeps.refl _ | with_reducible apply Keeps.trans _ (State.regRead_keeps _ _) | with_reducible refine Keeps.ite (fun _ => ?_) (fun _ => ?_) | split | with_reducible refine Keeps.of_fst ‹_ = (_, _)› ?_))

theorem State.read64_keeps (s : State) (v : View) (off : Nat) : Keeps s (State.read64 s v off).1 := by
  unfold State.read64
  try dsimp only
  repeat' (first | with_reducible exact Keeps.refl _ | with_reducible apply Keeps.trans _ (State.dropHalves_keeps _ _) | with_reducible apply Keeps.trans _ (State.read32_keeps _ _ _) | with_reducible apply Keeps.trans _ (State.advanceFree_keeps _) | with_reducible refine Keeps.ite (fun _ => ?_) (fun _ => ?_) | split | with_reducible refine Keeps.of_fst ‹_ = (_, _)› ?_ | (with_reducible apply Keeps.lit; (on_goal 2 => with_reducible rfl); first | with_reducible exact Keeps.refl _ | with_reducible apply Keeps.trans _ (State.dropHalves_keeps _ _) | with_reducible apply Keeps.trans _ (State.read32_keeps _ _ _) | with_reducible apply Keeps.trans _ (State.advanceFree_keeps _) | with_reducible refine Keeps.ite (fun _ => ?_) (fun _ => ?_) | split | with_reducible refine Keeps.of_fst ‹_ = (_, _)› ?_))

theorem State.pairStore_keeps (s : State) (d : Reg.RegDef) (off : Nat) (v : BitVec 64) (mask : BitVec 64) : Keeps s (State.pairStore s d off v mask) := by
  unfold State.pairStore
  try dsimp only
  repeat' (first | with_reducible exact Keeps.refl _ | with_reducible apply Keeps.trans _ (State.setDword_keeps _ _ _) | with_reducible apply Keeps.trans _ (State.setFlag_keeps _ _ _) | with_reducible refine Keeps.ite (fun _ => ?_) (fun _ => ?_) | split | (with_reducible apply Keeps.lit; (on_goal 2 => with_reducible rfl); first | with_reducible exact Keeps.refl _ | with_reducible apply Keeps.trans _ (State.setDword_keeps _ _ _) | with_reducible apply Keeps.trans _ (State.setFlag_keeps _ _ _) | with_reducible refine Keeps.ite (fun _ => ?_) (fun _ => ?_) | split))

theorem State.store32_keeps (s : State) (d : Reg.RegDef) (off : Nat) (v : Word) : Keeps s (State.store32 s d off v) := by
  unfold State.store32
  repeat' (first | with_reducible exact Keeps.refl _ | with_reducible apply Keeps.trans _ (State.setWord_keeps _ _ _))

theorem State.ceLogCtl_keeps (s : State) (d : Reg.RegDef) (off : Nat) (c : Nat) (v : Word) : Keeps s (State.ceLogCtl s d off c v) := by
  unfold State.ceLogCtl
  try dsimp only
  repeat' (first | with_reducible exact Keeps.refl _ | with_reducible apply Keeps.trans _ (State.store32_keeps _ _ _ _) | with_reducible apply Keeps.trans _ (State.updCh_keeps _ _ _) | with_reducible refine Keeps.ite (fun _ => ?_) (fun _ => ?_) | split | (with_reducible apply Keeps.lit; (on_goal 2 => with_reducible rfl); first | with_reducible exact Keeps.refl _ | with_reducible apply Keeps.trans _ (State.store32_keeps _ _ _ _) | with_reducible apply Keeps.trans _ (State.updCh_keeps _ _ _) | with_reducible refine Keeps.ite (fun _ => ?_) (fun _ => ?_) | split))

theorem State.gftCfg_keeps (s : State) (d : Reg.RegDef) (v : Word) : Keeps s (State.gftCfg s d v) := by
  unfold State.gftCfg
  try dsimp only
  repeat' (first | with_reducible exact Keeps.refl _ | with_reducible assumption | with_reducible apply Keeps.trans _ (State.portDown_keeps _ _ _) | with_reducible apply Keeps.trans _ (State.store32_keeps _ _ _ _) | with_reducible refine Keeps.ite (fun _ => ?_) (fun _ => ?_) | with_reducible refine Keeps.foldl ?_ (fun _ _ => ?_) | split | (with_reducible apply Keeps.lit; (on_goal 2 => with_reducible rfl); first | with_reducible exact Keeps.refl _ | with_reducible assumption | with_reducible apply Keeps.trans _ (State.portDown_keeps _ _ _) | with_reducible apply Keeps.trans _ (State.store32_keeps _ _ _ _) | with_reducible refine Keeps.ite (fun _ => ?_) (fun _ => ?_) | with_reducible refine Keeps.foldl ?_ (fun _ _ => ?_) | split))

theorem State.grpCtl_keeps (s : State) (d : Reg.RegDef) (off : Nat) (v : Word) : Keeps s (State.grpCtl s d off v) := by
  unfold State.grpCtl
  try dsimp only
  repeat' (first | with_reducible exact Keeps.refl _ | with_reducible apply Keeps.trans _ (State.groupClear_keeps _ _) | with_reducible apply Keeps.trans _ (State.store32_keeps _ _ _ _) | with_reducible refine Keeps.ite (fun _ => ?_) (fun _ => ?_) | split | (with_reducible apply Keeps.lit; (on_goal 2 => with_reducible rfl); first | with_reducible exact Keeps.refl _ | with_reducible apply Keeps.trans _ (State.groupClear_keeps _ _) | with_reducible apply Keeps.trans _ (State.store32_keeps _ _ _ _) | with_reducible refine Keeps.ite (fun _ => ?_) (fun _ => ?_) | split))

theorem State.regStore_keeps (s : State) (by' : Option Nat) (d : Reg.RegDef) (off : Nat) (v : Word) : Keeps s (State.regStore s by' d off v) := by
  unfold State.regStore
  try dsimp only
  repeat' (first | with_reducible exact Keeps.refl _ | with_reducible assumption | with_reducible apply Keeps.trans _ (State.alertVector_keeps _ _) | with_reducible apply Keeps.trans _ (State.ceLogCtl_keeps _ _ _ _ _) | with_reducible apply Keeps.trans _ (State.evselWrite_keeps _ _ _ _) | with_reducible apply Keeps.trans _ (State.gftCfg_keeps _ _ _) | with_reducible apply Keeps.trans _ (State.grpCtl_keeps _ _ _ _) | with_reducible apply Keeps.trans _ (State.gthForward_keeps _ _ _) | with_reducible apply Keeps.trans _ (State.kickDog_keeps _ _) | with_reducible apply Keeps.trans _ (State.pdAllow_keeps _ _ _) | with_reducible apply Keeps.trans _ (State.postTail_keeps _ _ _) | with_reducible apply Keeps.trans _ (State.retireEngine_keeps _ _) | with_reducible apply Keeps.trans _ (State.rstCtl_keeps _ _) | with_reducible apply Keeps.trans _ (State.sampCtl_keeps _ _) | with_reducible apply Keeps.trans _ (State.sampHeads_keeps _ _) | with_reducible apply Keeps.trans _ (State.setDerate_keeps _ _ _) | with_reducible apply Keeps.trans _ (State.srAllow_keeps _ _ _) | with_reducible apply Keeps.trans _ (State.store32_keeps _ _ _ _) | with_reducible apply Keeps.trans _ (State.trigger_keeps _ _ _) | with_reducible refine Keeps.ite (fun _ => ?_) (fun _ => ?_) | with_reducible refine Keeps.foldl ?_ (fun _ _ => ?_) | split | (with_reducible apply Keeps.lit; (on_goal 2 => with_reducible rfl); first | with_reducible exact Keeps.refl _ | with_reducible assumption | with_reducible apply Keeps.trans _ (State.alertVector_keeps _ _) | with_reducible apply Keeps.trans _ (State.ceLogCtl_keeps _ _ _ _ _) | with_reducible apply Keeps.trans _ (State.evselWrite_keeps _ _ _ _) | with_reducible apply Keeps.trans _ (State.gftCfg_keeps _ _ _) | with_reducible apply Keeps.trans _ (State.grpCtl_keeps _ _ _ _) | with_reducible apply Keeps.trans _ (State.gthForward_keeps _ _ _) | with_reducible apply Keeps.trans _ (State.kickDog_keeps _ _) | with_reducible apply Keeps.trans _ (State.pdAllow_keeps _ _ _) | with_reducible apply Keeps.trans _ (State.postTail_keeps _ _ _) | with_reducible apply Keeps.trans _ (State.retireEngine_keeps _ _) | with_reducible apply Keeps.trans _ (State.rstCtl_keeps _ _) | with_reducible apply Keeps.trans _ (State.sampCtl_keeps _ _) | with_reducible apply Keeps.trans _ (State.sampHeads_keeps _ _) | with_reducible apply Keeps.trans _ (State.setDerate_keeps _ _ _) | with_reducible apply Keeps.trans _ (State.srAllow_keeps _ _ _) | with_reducible apply Keeps.trans _ (State.store32_keeps _ _ _ _) | with_reducible apply Keeps.trans _ (State.trigger_keeps _ _ _) | with_reducible refine Keeps.ite (fun _ => ?_) (fun _ => ?_) | with_reducible refine Keeps.foldl ?_ (fun _ _ => ?_) | split))

theorem State.regWrite_keeps (s : State) (by' : Option Nat) (off : Nat) (v : Word) : Keeps s (State.regWrite s by' off v) := by
  unfold State.regWrite
  try dsimp only
  repeat' (first | with_reducible exact Keeps.refl _ | with_reducible apply Keeps.trans _ (State.pairStore_keeps _ _ _ _ _) | with_reducible apply Keeps.trans _ (State.regStore_keeps _ _ _ _ _) | with_reducible refine Keeps.ite (fun _ => ?_) (fun _ => ?_) | split | (with_reducible apply Keeps.lit; (on_goal 2 => with_reducible rfl); first | with_reducible exact Keeps.refl _ | with_reducible apply Keeps.trans _ (State.pairStore_keeps _ _ _ _ _) | with_reducible apply Keeps.trans _ (State.regStore_keeps _ _ _ _ _) | with_reducible refine Keeps.ite (fun _ => ?_) (fun _ => ?_) | split))

theorem State.write32_keeps (s : State) (v : View) (by' : Option Nat) (off : Nat) (w : Word) : Keeps s (State.write32 s v by' off w) := by
  unfold State.write32
  try dsimp only
  repeat' (first | with_reducible exact Keeps.refl _ | with_reducible apply Keeps.trans _ (State.regWrite_keeps _ _ _ _) | with_reducible refine Keeps.ite (fun _ => ?_) (fun _ => ?_) | split | (with_reducible apply Keeps.lit; (on_goal 2 => with_reducible rfl); first | with_reducible exact Keeps.refl _ | with_reducible apply Keeps.trans _ (State.regWrite_keeps _ _ _ _) | with_reducible refine Keeps.ite (fun _ => ?_) (fun _ => ?_) | split))

theorem State.write64_keeps (s : State) (v : View) (by' : Option Nat) (off : Nat) (w : BitVec 64) : Keeps s (State.write64 s v by' off w) := by
  unfold State.write64
  try dsimp only
  repeat' (first | with_reducible exact Keeps.refl _ | with_reducible apply Keeps.trans _ (State.dropHalves_keeps _ _) | with_reducible apply Keeps.trans _ (State.pairStore_keeps _ _ _ _ _) | with_reducible apply Keeps.trans _ (State.write32_keeps _ _ _ _ _) | with_reducible refine Keeps.ite (fun _ => ?_) (fun _ => ?_) | split | (with_reducible apply Keeps.lit; (on_goal 2 => with_reducible rfl); first | with_reducible exact Keeps.refl _ | with_reducible apply Keeps.trans _ (State.dropHalves_keeps _ _) | with_reducible apply Keeps.trans _ (State.pairStore_keeps _ _ _ _ _) | with_reducible apply Keeps.trans _ (State.write32_keeps _ _ _ _ _) | with_reducible refine Keeps.ite (fun _ => ?_) (fun _ => ?_) | split))

theorem State.access64_keeps (s : State) (a : Agent) (write : Bool) (off : Nat) (v : BitVec 64) : Keeps s (State.access64 s a write off v) := by
  unfold State.access64
  try dsimp only
  repeat' (first | with_reducible exact Keeps.refl _ | with_reducible apply Keeps.trans _ (State.read64_keeps _ _ _) | with_reducible apply Keeps.trans _ (State.write64_keeps _ _ _ _ _) | with_reducible apply Keeps.trans _ (State.emit_keeps _ _) | with_reducible refine Keeps.ite (fun _ => ?_) (fun _ => ?_) | split | with_reducible refine Keeps.of_fst ‹_ = (_, _)› ?_ | (with_reducible apply Keeps.lit; (on_goal 2 => with_reducible rfl); first | with_reducible exact Keeps.refl _ | with_reducible apply Keeps.trans _ (State.read64_keeps _ _ _) | with_reducible apply Keeps.trans _ (State.write64_keeps _ _ _ _ _) | with_reducible apply Keeps.trans _ (State.emit_keeps _ _) | with_reducible refine Keeps.ite (fun _ => ?_) (fun _ => ?_) | split | with_reducible refine Keeps.of_fst ‹_ = (_, _)› ?_))

theorem State.bar0Write_keeps (s : State) (i : Nat) (off : Nat) (v : Word) : Keeps s (State.bar0Write s i off v) := by
  unfold State.bar0Write
  try dsimp only
  repeat' (first | with_reducible exact Keeps.refl _ | with_reducible assumption | with_reducible apply Keeps.trans _ (State.commit_keeps _ _ _ _ _ _ _ _) | with_reducible apply Keeps.trans _ (State.updLd_keeps _ _ _) | with_reducible refine Keeps.ite (fun _ => ?_) (fun _ => ?_) | with_reducible refine Keeps.foldl ?_ (fun _ _ => ?_) | with_reducible refine Keeps.foldl_fst ?_ (fun _ _ => ?_) | with_reducible refine Keeps.foldl_snd ?_ (fun _ _ => ?_) | with_reducible apply Keeps.cond | with_reducible refine Keeps.getD ?_ (fun _ _ => ?_) | split | (with_reducible apply Keeps.lit; (on_goal 2 => with_reducible rfl); first | with_reducible exact Keeps.refl _ | with_reducible assumption | with_reducible apply Keeps.trans _ (State.commit_keeps _ _ _ _ _ _ _ _) | with_reducible apply Keeps.trans _ (State.updLd_keeps _ _ _) | with_reducible refine Keeps.ite (fun _ => ?_) (fun _ => ?_) | with_reducible refine Keeps.foldl ?_ (fun _ _ => ?_) | with_reducible refine Keeps.foldl_fst ?_ (fun _ _ => ?_) | with_reducible refine Keeps.foldl_snd ?_ (fun _ _ => ?_) | with_reducible apply Keeps.cond | with_reducible refine Keeps.getD ?_ (fun _ _ => ?_) | split))

theorem State.bar4Write_keeps (s : State) (i : Nat) (off : Nat) (v : Word) : Keeps s (State.bar4Write s i off v) := by
  unfold State.bar4Write
  try dsimp only
  repeat' (first | with_reducible exact Keeps.refl _ | with_reducible apply Keeps.trans _ (State.flushMsix_keeps _ _) | with_reducible apply Keeps.trans _ (State.updLd_keeps _ _ _) | with_reducible refine Keeps.ite (fun _ => ?_) (fun _ => ?_) | split | (with_reducible apply Keeps.lit; (on_goal 2 => with_reducible rfl); first | with_reducible exact Keeps.refl _ | with_reducible apply Keeps.trans _ (State.flushMsix_keeps _ _) | with_reducible apply Keeps.trans _ (State.updLd_keeps _ _ _) | with_reducible refine Keeps.ite (fun _ => ?_) (fun _ => ?_) | split))

theorem State.barRead_keeps (s : State) (a : Agent) (bar4 : Bool) (off : Nat) (size : Nat) : Keeps s (State.barRead s a bar4 off size) := by
  unfold State.barRead
  try dsimp only
  repeat' (first | with_reducible exact Keeps.refl _ | with_reducible assumption | with_reducible apply Keeps.trans _ (State.emit_keeps _ _) | with_reducible apply Keeps.trans _ (State.advanceFree_keeps _) | with_reducible refine Keeps.ite (fun _ => ?_) (fun _ => ?_) | with_reducible refine Keeps.foldl ?_ (fun _ _ => ?_) | with_reducible refine Keeps.foldl_fst ?_ (fun _ _ => ?_) | with_reducible refine Keeps.foldl_snd ?_ (fun _ _ => ?_) | with_reducible apply Keeps.cond | with_reducible refine Keeps.getD ?_ (fun _ _ => ?_) | split | (with_reducible apply Keeps.lit; (on_goal 2 => with_reducible rfl); first | with_reducible exact Keeps.refl _ | with_reducible assumption | with_reducible apply Keeps.trans _ (State.emit_keeps _ _) | with_reducible apply Keeps.trans _ (State.advanceFree_keeps _) | with_reducible refine Keeps.ite (fun _ => ?_) (fun _ => ?_) | with_reducible refine Keeps.foldl ?_ (fun _ _ => ?_) | with_reducible refine Keeps.foldl_fst ?_ (fun _ _ => ?_) | with_reducible refine Keeps.foldl_snd ?_ (fun _ _ => ?_) | with_reducible apply Keeps.cond | with_reducible refine Keeps.getD ?_ (fun _ _ => ?_) | split))

theorem State.configWrite_keeps (s : State) (i : LdIx) (off : Nat) (size : Nat) (v : BitVec 64) : Keeps s (State.configWrite s i off size v) := by
  unfold State.configWrite
  try dsimp only
  repeat' (first | with_reducible exact Keeps.refl _ | with_reducible apply Keeps.trans _ (State.cfgAccess_keeps _ _ _ _ _) | with_reducible refine Keeps.ite (fun _ => ?_) (fun _ => ?_) | split | (with_reducible apply Keeps.lit; (on_goal 2 => with_reducible rfl); first | with_reducible exact Keeps.refl _ | with_reducible apply Keeps.trans _ (State.cfgAccess_keeps _ _ _ _ _) | with_reducible refine Keeps.ite (fun _ => ?_) (fun _ => ?_) | split))

theorem State.get32_keeps (s : State) (a : Agent) (off : Nat) : Keeps s (State.get32 s a off) := by
  unfold State.get32
  try dsimp only
  repeat' (first | with_reducible exact Keeps.refl _ | with_reducible apply Keeps.trans _ (State.read32_keeps _ _ _) | with_reducible apply Keeps.trans _ (State.emit_keeps _ _) | with_reducible refine Keeps.ite (fun _ => ?_) (fun _ => ?_) | split | with_reducible refine Keeps.of_fst ‹_ = (_, _)› ?_ | (with_reducible apply Keeps.lit; (on_goal 2 => with_reducible rfl); first | with_reducible exact Keeps.refl _ | with_reducible apply Keeps.trans _ (State.read32_keeps _ _ _) | with_reducible apply Keeps.trans _ (State.emit_keeps _ _) | with_reducible refine Keeps.ite (fun _ => ?_) (fun _ => ?_) | split | with_reducible refine Keeps.of_fst ‹_ = (_, _)› ?_))

theorem State.put32_keeps (s : State) (a : Agent) (off : Nat) (v : Word) : Keeps s (State.put32 s a off v) := by
  unfold State.put32
  repeat' (first | with_reducible exact Keeps.refl _ | with_reducible apply Keeps.trans _ (State.write32_keeps _ _ _ _ _))

theorem writeWords_keeps (put : Nat → Word → State → State) (off : Nat) (size : Nat) (v : BitVec 64) (s : State)
    (h : ∀ o w t, Keeps t (put o w t)) : Keeps s (writeWords put off size v s) := by
  unfold writeWords
  exact Keeps.ite (fun _ => h _ _ _) (fun _ => Keeps.ite (fun _ => (h _ _ _).trans (h _ _ _)) (fun _ => Keeps.refl _))

theorem State.regAccess_keeps (s : State) (a : Agent) (sp : Space) (off : Nat) (size : Nat) (v : BitVec 64) : Keeps s (State.regAccess s a sp off size v) := by
  unfold State.regAccess
  split
  · split
    · exact Keeps.ite (fun _ => Keeps.refl _) (fun _ => writeWords_keeps _ _ _ _ _ (fun _ _ _ => State.bar0Write_keeps _ _ _ _))
    · exact Keeps.refl _
  · exact Keeps.ite (fun _ => State.put32_keeps _ _ _ _) (fun _ => Keeps.ite (fun _ => State.write64_keeps _ _ _ _ _) (fun _ => Keeps.refl _))
  · split
    · exact Keeps.ite (fun _ => Keeps.refl _) (fun _ => writeWords_keeps _ _ _ _ _ (fun _ _ _ => State.bar4Write_keeps _ _ _ _))
    · exact Keeps.refl _
  · split
    · exact State.configWrite_keeps _ _ _ _ _
    · exact Keeps.refl _

theorem State.regGet_keeps (s : State) (a : Agent) (sp : Space) (off : Nat) (size : Nat) : Keeps s (State.regGet s a sp off size) := by
  unfold State.regGet
  try dsimp only
  repeat' (first | with_reducible exact Keeps.refl _ | with_reducible assumption | with_reducible apply Keeps.trans _ (State.access64_keeps _ _ _ _ _) | with_reducible apply Keeps.trans _ (State.barRead_keeps _ _ _ _ _) | with_reducible apply Keeps.trans _ (State.cfgAccess_keeps _ _ _ _ _) | with_reducible apply Keeps.trans _ (State.get32_keeps _ _ _) | with_reducible apply Keeps.trans _ (State.emit_keeps _ _) | with_reducible refine Keeps.ite (fun _ => ?_) (fun _ => ?_) | with_reducible refine Keeps.foldl ?_ (fun _ _ => ?_) | with_reducible refine Keeps.foldl_fst ?_ (fun _ _ => ?_) | with_reducible refine Keeps.foldl_snd ?_ (fun _ _ => ?_) | with_reducible apply Keeps.cond | with_reducible refine Keeps.getD ?_ (fun _ _ => ?_) | split | (with_reducible apply Keeps.lit; (on_goal 2 => with_reducible rfl); first | with_reducible exact Keeps.refl _ | with_reducible assumption | with_reducible apply Keeps.trans _ (State.access64_keeps _ _ _ _ _) | with_reducible apply Keeps.trans _ (State.barRead_keeps _ _ _ _ _) | with_reducible apply Keeps.trans _ (State.cfgAccess_keeps _ _ _ _ _) | with_reducible apply Keeps.trans _ (State.get32_keeps _ _ _) | with_reducible apply Keeps.trans _ (State.emit_keeps _ _) | with_reducible refine Keeps.ite (fun _ => ?_) (fun _ => ?_) | with_reducible refine Keeps.foldl ?_ (fun _ _ => ?_) | with_reducible refine Keeps.foldl_fst ?_ (fun _ _ => ?_) | with_reducible refine Keeps.foldl_snd ?_ (fun _ _ => ?_) | with_reducible apply Keeps.cond | with_reducible refine Keeps.getD ?_ (fun _ _ => ?_) | split))

end Sys2Proof.Machine
end

