-- ==== Sys2Proof/Laws/KeepsMailbox.lean ====
section
/-! SUPPORT. Every operation of Machine/Mailbox.lean keeps what `Keeps` says: one lemma for each. -/
namespace Sys2Proof.Machine
set_option linter.unreachableTactic false
set_option linter.unusedTactic false

theorem State.answer_keeps (s : State) (h : Hdr) (o : CmdOp) (rc : Nat) (detail : Nat) (value : Nat) (body : List Byte) : Keeps s (State.answer s h o rc detail value body) := by
  unfold State.answer
  repeat' (first | with_reducible exact Keeps.refl _ | with_reducible apply Keeps.trans _ (State.sendReply_keeps _ _ _ _ _ _ _ _))

theorem State.conclude_keeps (s : State) (h : Hdr) (o : CmdOp) (a : Ans) (hA : Ans.Keeps s a) : Keeps s (State.conclude s h o a) := by
  unfold State.conclude
  cases a with
  | fail rc d v => exact State.answer_keeps _ _ _ _ _ _ _
  | done t rc body =>
    refine Keeps.trans ?_ (State.answer_keeps _ _ _ _ _ _ _)
    exact Keeps.ite (fun _ => Keeps.trans hA (State.recordReply_keeps _ _)) (fun _ => hA)
  | started t why =>
    refine Keeps.trans ?_ (State.answer_keeps _ _ _ _ _ _ _)
    exact Keeps.lit hA rfl
  | later t => exact hA

theorem State.command_keeps (s : State) (args : List Byte) (h : Hdr) (o : CmdOp) (run : Ans) (hA : Ans.Keeps s run) : Keeps s (State.command s args h o run) := by
  unfold State.command
  try dsimp only
  repeat' (first | with_reducible apply Ans.keeps_after | with_reducible exact Ans.keeps_fail _ _ _ | with_reducible refine Ans.keeps_done ?_ | with_reducible refine Ans.keeps_started ?_ | with_reducible refine Ans.keeps_later ?_ | with_reducible refine Ans.keeps_ite (fun _ => ?_) (fun _ => ?_) | with_reducible exact Keeps.refl _ | with_reducible assumption | with_reducible apply Keeps.trans _ (State.answer_keeps _ _ _ _ _ _ _) | with_reducible apply Keeps.trans _ (State.conclude_keeps _ _ _ _ _) | with_reducible refine Keeps.ite (fun _ => ?_) (fun _ => ?_) | with_reducible refine Keeps.foldl ?_ (fun _ _ => ?_) | split | intro _ | (with_reducible apply Keeps.lit; (on_goal 2 => with_reducible rfl); first | with_reducible apply Ans.keeps_after | with_reducible exact Ans.keeps_fail _ _ _ | with_reducible refine Ans.keeps_done ?_ | with_reducible refine Ans.keeps_started ?_ | with_reducible refine Ans.keeps_later ?_ | with_reducible refine Ans.keeps_ite (fun _ => ?_) (fun _ => ?_) | with_reducible exact Keeps.refl _ | with_reducible assumption | with_reducible apply Keeps.trans _ (State.answer_keeps _ _ _ _ _ _ _) | with_reducible apply Keeps.trans _ (State.conclude_keeps _ _ _ _ _) | with_reducible refine Keeps.ite (fun _ => ?_) (fun _ => ?_) | with_reducible refine Keeps.foldl ?_ (fun _ _ => ?_) | split | intro _))

theorem State.unsupported_keeps (s : State) (args : List Byte) (h : Hdr) (opcode : Nat) : Keeps s (State.unsupported s args h opcode) := by
  unfold State.unsupported
  repeat' (first | with_reducible apply Ans.keeps_after | with_reducible exact Ans.keeps_fail _ _ _ | with_reducible refine Ans.keeps_done ?_ | with_reducible refine Ans.keeps_started ?_ | with_reducible refine Ans.keeps_later ?_ | with_reducible refine Ans.keeps_ite (fun _ => ?_) (fun _ => ?_) | with_reducible exact Keeps.refl _ | with_reducible apply Keeps.trans _ (State.command_keeps _ _ _ _ _ _) | intro _)

theorem State.writeReg_keeps (s : State) (off : Nat) (w : Word) : Keeps s (State.writeReg s off w) := by
  unfold State.writeReg
  try dsimp only
  repeat' (first | with_reducible exact Keeps.refl _ | with_reducible assumption | with_reducible apply Keeps.trans _ (State.write32_keeps _ _ _ _ _) | with_reducible refine Keeps.ite (fun _ => ?_) (fun _ => ?_) | with_reducible refine Keeps.foldl ?_ (fun _ _ => ?_) | with_reducible refine Keeps.foldl_fst ?_ (fun _ _ => ?_) | with_reducible refine Keeps.foldl_snd ?_ (fun _ _ => ?_) | with_reducible apply Keeps.cond | with_reducible refine Keeps.getD ?_ (fun _ _ => ?_) | split | (with_reducible apply Keeps.lit; (on_goal 2 => with_reducible rfl); first | with_reducible exact Keeps.refl _ | with_reducible assumption | with_reducible apply Keeps.trans _ (State.write32_keeps _ _ _ _ _) | with_reducible refine Keeps.ite (fun _ => ?_) (fun _ => ?_) | with_reducible refine Keeps.foldl ?_ (fun _ _ => ?_) | with_reducible refine Keeps.foldl_fst ?_ (fun _ _ => ?_) | with_reducible refine Keeps.foldl_snd ?_ (fun _ _ => ?_) | with_reducible apply Keeps.cond | with_reducible refine Keeps.getD ?_ (fun _ _ => ?_) | split))

theorem execUnsupportedOpcode_keeps (h : Hdr) (opcode : BitVec 16) (s : State) {res} (h : execUnsupportedOpcode h opcode s = .next res) : Keeps s res := by
  unfold execUnsupportedOpcode at h
  injection h with h
  subst h
  try dsimp only
  repeat' (first | with_reducible apply Ans.keeps_after | with_reducible exact Ans.keeps_fail _ _ _ | with_reducible refine Ans.keeps_done ?_ | with_reducible refine Ans.keeps_started ?_ | with_reducible refine Ans.keeps_later ?_ | with_reducible refine Ans.keeps_ite (fun _ => ?_) (fun _ => ?_) | with_reducible exact Keeps.refl _ | with_reducible assumption | with_reducible apply Keeps.trans _ (State.unsupported_keeps _ _ _ _) | with_reducible refine Keeps.ite (fun _ => ?_) (fun _ => ?_) | with_reducible refine Keeps.foldl ?_ (fun _ _ => ?_) | with_reducible refine Keeps.foldl_fst ?_ (fun _ _ => ?_) | with_reducible refine Keeps.foldl_snd ?_ (fun _ _ => ?_) | with_reducible apply Keeps.cond | with_reducible refine Keeps.getD ?_ (fun _ _ => ?_) | split | intro _ | (with_reducible apply Keeps.lit; (on_goal 2 => with_reducible rfl); first | with_reducible apply Ans.keeps_after | with_reducible exact Ans.keeps_fail _ _ _ | with_reducible refine Ans.keeps_done ?_ | with_reducible refine Ans.keeps_started ?_ | with_reducible refine Ans.keeps_later ?_ | with_reducible refine Ans.keeps_ite (fun _ => ?_) (fun _ => ?_) | with_reducible exact Keeps.refl _ | with_reducible assumption | with_reducible apply Keeps.trans _ (State.unsupported_keeps _ _ _ _) | with_reducible refine Keeps.ite (fun _ => ?_) (fun _ => ?_) | with_reducible refine Keeps.foldl ?_ (fun _ _ => ?_) | with_reducible refine Keeps.foldl_fst ?_ (fun _ _ => ?_) | with_reducible refine Keeps.foldl_snd ?_ (fun _ _ => ?_) | with_reducible apply Keeps.cond | with_reducible refine Keeps.getD ?_ (fun _ _ => ?_) | split | intro _))

end Sys2Proof.Machine
end

