-- ==== Sys2Proof/Laws/KeepsControl.lean ====
section
/-! SUPPORT. Every operation of Machine/Control.lean keeps what `Keeps` says: one lemma for each. -/
namespace Sys2Proof.Machine
set_option linter.unreachableTactic false
set_option linter.unusedTactic false

theorem State.burn_keeps (s : State) (a : Nat) (l : List Byte) : Keeps s (State.burn s a l) := by
  refine ⟨rfl, List.suffix_refl _, Nat.le_refl _, ?_, fun h => ⟨h.1, h.2.1, ?_⟩⟩
  · intro x k hx
    unfold State.otpAt State.burn at *
    dsimp only
    generalize s.mgmt.otp = t at *
    revert hx
    induction l.zipIdx generalizing t with
    | nil => exact id
    | cons e r ih =>
      intro hx
      refine ih _ ?_
      by_cases hk : x = a + e.2
      · subst hk; rw [Tbl.lookD_putD_same, BitVec.getLsbD_or, hx, Bool.true_or]
      · rw [Tbl.lookD_putD_other _ _ _ _ _ _ hk]; exact hx
  · unfold State.burn
    dsimp only
    have hw := h.2.2
    generalize s.mgmt.otp = t at *
    clear h
    induction l.zipIdx generalizing t with
    | nil => exact hw
    | cons e r ih => exact ih _ (Tbl.wf_putD _ _ _ _ hw)

theorem State.disableLd_keeps (s : State) (abrupt : Bool) (i : Nat) : Keeps s (State.disableLd s abrupt i) := by
  unfold State.disableLd
  try dsimp only
  repeat' (first | with_reducible exact Keeps.refl _ | with_reducible apply Keeps.trans _ (State.drainLd_keeps _ _) | with_reducible apply Keeps.trans _ (State.stopLd_keeps _ _) | with_reducible apply Keeps.trans _ (State.updLd_keeps _ _ _) | with_reducible refine Keeps.ite (fun _ => ?_) (fun _ => ?_) | split | (with_reducible apply Keeps.lit; (on_goal 2 => with_reducible rfl); first | with_reducible exact Keeps.refl _ | with_reducible apply Keeps.trans _ (State.drainLd_keeps _ _) | with_reducible apply Keeps.trans _ (State.stopLd_keeps _ _) | with_reducible apply Keeps.trans _ (State.updLd_keeps _ _ _) | with_reducible refine Keeps.ite (fun _ => ?_) (fun _ => ?_) | split))

theorem State.programBlock_keeps (s : State) (g : Nat) (block : List Byte) (ok : Bool) : Keeps s (State.programBlock s g block ok) := by
  unfold State.programBlock
  try dsimp only
  repeat' (first | with_reducible exact Keeps.refl _ | with_reducible apply Keeps.trans _ (State.burn_keeps _ _ _) | with_reducible apply Keeps.trans _ (State.skipFree_keeps _ _) | with_reducible refine Keeps.ite (fun _ => ?_) (fun _ => ?_) | split | (with_reducible apply Keeps.lit; (on_goal 2 => with_reducible rfl); first | with_reducible exact Keeps.refl _ | with_reducible apply Keeps.trans _ (State.burn_keeps _ _ _) | with_reducible apply Keeps.trans _ (State.skipFree_keeps _ _) | with_reducible refine Keeps.ite (fun _ => ?_) (fun _ => ?_) | split))

theorem State.removeLd_keeps (s : State) (i : Nat) : Keeps s (State.removeLd s i) := by
  unfold State.removeLd
  repeat' (first | with_reducible exact Keeps.refl _ | with_reducible apply Keeps.trans _ (State.dropPasses_keeps _ _) | with_reducible apply Keeps.trans _ (State.dropQueues_keeps _ _ _) | with_reducible apply Keeps.trans _ (State.ldReset_keeps _ _) | (with_reducible apply Keeps.lit; (on_goal 2 => with_reducible rfl); first | with_reducible exact Keeps.refl _ | with_reducible apply Keeps.trans _ (State.dropPasses_keeps _ _) | with_reducible apply Keeps.trans _ (State.dropQueues_keeps _ _ _) | with_reducible apply Keeps.trans _ (State.ldReset_keeps _ _)))

theorem State.setLocks_keeps (s : State) (m : BitVec 16) : Keeps s (State.setLocks s m) := by
  unfold State.setLocks
  try dsimp only
  repeat' (first | with_reducible exact Keeps.refl _ | with_reducible assumption | with_reducible apply Keeps.trans _ (State.gthForward_keeps _ _ _) | with_reducible apply Keeps.trans _ (State.setFlag_keeps _ _ _) | with_reducible refine Keeps.ite (fun _ => ?_) (fun _ => ?_) | with_reducible refine Keeps.foldl ?_ (fun _ _ => ?_) | split | (with_reducible apply Keeps.lit; (on_goal 2 => with_reducible rfl); first | with_reducible exact Keeps.refl _ | with_reducible assumption | with_reducible apply Keeps.trans _ (State.gthForward_keeps _ _ _) | with_reducible apply Keeps.trans _ (State.setFlag_keeps _ _ _) | with_reducible refine Keeps.ite (fun _ => ?_) (fun _ => ?_) | with_reducible refine Keeps.foldl ?_ (fun _ _ => ?_) | split))

theorem State.setMode_keeps (s : State) (hd : Nat) (mld : Bool) : Keeps s (State.setMode s hd mld) := by
  unfold State.setMode
  try dsimp only
  repeat' (first | with_reducible exact Keeps.refl _ | with_reducible assumption | with_reducible apply Keeps.trans _ (State.updLd_keeps _ _ _) | with_reducible refine Keeps.ite (fun _ => ?_) (fun _ => ?_) | with_reducible refine Keeps.foldl ?_ (fun _ _ => ?_) | split | (with_reducible apply Keeps.lit; (on_goal 2 => with_reducible rfl); first | with_reducible exact Keeps.refl _ | with_reducible assumption | with_reducible apply Keeps.trans _ (State.updLd_keeps _ _ _) | with_reducible refine Keeps.ite (fun _ => ?_) (fun _ => ?_) | with_reducible refine Keeps.foldl ?_ (fun _ _ => ?_) | split))

theorem State.setStatic_keeps (s : State) (i : Nat) (rs : List (BitVec 64 × BitVec 32)) : Keeps s (State.setStatic s i rs) := by
  unfold State.setStatic
  try dsimp only
  repeat' (first | with_reducible exact Keeps.refl _ | with_reducible assumption | with_reducible apply Keeps.trans _ (State.releaseExtent_keeps _ _ _) | with_reducible apply Keeps.trans _ (State.updLd_keeps _ _ _) | with_reducible refine Keeps.ite (fun _ => ?_) (fun _ => ?_) | with_reducible refine Keeps.foldl ?_ (fun _ _ => ?_) | split | (with_reducible apply Keeps.lit; (on_goal 2 => with_reducible rfl); first | with_reducible exact Keeps.refl _ | with_reducible assumption | with_reducible apply Keeps.trans _ (State.releaseExtent_keeps _ _ _) | with_reducible apply Keeps.trans _ (State.updLd_keeps _ _ _) | with_reducible refine Keeps.ite (fun _ => ?_) (fun _ => ?_) | with_reducible refine Keeps.foldl ?_ (fun _ _ => ?_) | split))

theorem execCreateLd_keeps (h : Hdr) (head : BitVec 8) (ldId : BitVec 8) (ldIndex : BitVec 8) (manage : BitVec 8) (s : State) {res} (h : execCreateLd h head ldId ldIndex manage s = .next res) : Keeps s res := by
  unfold execCreateLd at h
  injection h with h
  subst h
  try dsimp only
  repeat' (first | with_reducible apply Ans.keeps_after | with_reducible exact Ans.keeps_fail _ _ _ | with_reducible refine Ans.keeps_done ?_ | with_reducible refine Ans.keeps_started ?_ | with_reducible refine Ans.keeps_later ?_ | with_reducible refine Ans.keeps_ite (fun _ => ?_) (fun _ => ?_) | with_reducible exact Keeps.refl _ | with_reducible assumption | with_reducible apply Keeps.trans _ (State.command_keeps _ _ _ _ _ _) | with_reducible refine Keeps.ite (fun _ => ?_) (fun _ => ?_) | with_reducible refine Keeps.foldl ?_ (fun _ _ => ?_) | with_reducible refine Keeps.foldl_fst ?_ (fun _ _ => ?_) | with_reducible refine Keeps.foldl_snd ?_ (fun _ _ => ?_) | with_reducible apply Keeps.cond | with_reducible refine Keeps.getD ?_ (fun _ _ => ?_) | split | intro _ | (with_reducible apply Keeps.lit; (on_goal 2 => with_reducible rfl); first | with_reducible apply Ans.keeps_after | with_reducible exact Ans.keeps_fail _ _ _ | with_reducible refine Ans.keeps_done ?_ | with_reducible refine Ans.keeps_started ?_ | with_reducible refine Ans.keeps_later ?_ | with_reducible refine Ans.keeps_ite (fun _ => ?_) (fun _ => ?_) | with_reducible exact Keeps.refl _ | with_reducible assumption | with_reducible apply Keeps.trans _ (State.command_keeps _ _ _ _ _ _) | with_reducible refine Keeps.ite (fun _ => ?_) (fun _ => ?_) | with_reducible refine Keeps.foldl ?_ (fun _ _ => ?_) | with_reducible refine Keeps.foldl_fst ?_ (fun _ _ => ?_) | with_reducible refine Keeps.foldl_snd ?_ (fun _ _ => ?_) | with_reducible apply Keeps.cond | with_reducible refine Keeps.getD ?_ (fun _ _ => ?_) | split | intro _))

theorem execDeleteLd_keeps (h : Hdr) (ldIndex : BitVec 8) (s : State) {res} (h : execDeleteLd h ldIndex s = .next res) : Keeps s res := by
  unfold execDeleteLd at h
  injection h with h
  subst h
  try dsimp only
  repeat' (first | with_reducible apply Ans.keeps_after | with_reducible exact Ans.keeps_fail _ _ _ | with_reducible refine Ans.keeps_done ?_ | with_reducible refine Ans.keeps_started ?_ | with_reducible refine Ans.keeps_later ?_ | with_reducible refine Ans.keeps_ite (fun _ => ?_) (fun _ => ?_) | with_reducible exact Keeps.refl _ | with_reducible assumption | with_reducible apply Keeps.trans _ (State.command_keeps _ _ _ _ _ _) | with_reducible apply Keeps.trans _ (State.removeLd_keeps _ _) | with_reducible refine Keeps.ite (fun _ => ?_) (fun _ => ?_) | with_reducible refine Keeps.foldl ?_ (fun _ _ => ?_) | with_reducible refine Keeps.foldl_fst ?_ (fun _ _ => ?_) | with_reducible refine Keeps.foldl_snd ?_ (fun _ _ => ?_) | with_reducible apply Keeps.cond | with_reducible refine Keeps.getD ?_ (fun _ _ => ?_) | split | intro _ | (with_reducible apply Keeps.lit; (on_goal 2 => with_reducible rfl); first | with_reducible apply Ans.keeps_after | with_reducible exact Ans.keeps_fail _ _ _ | with_reducible refine Ans.keeps_done ?_ | with_reducible refine Ans.keeps_started ?_ | with_reducible refine Ans.keeps_later ?_ | with_reducible refine Ans.keeps_ite (fun _ => ?_) (fun _ => ?_) | with_reducible exact Keeps.refl _ | with_reducible assumption | with_reducible apply Keeps.trans _ (State.command_keeps _ _ _ _ _ _) | with_reducible apply Keeps.trans _ (State.removeLd_keeps _ _) | with_reducible refine Keeps.ite (fun _ => ?_) (fun _ => ?_) | with_reducible refine Keeps.foldl ?_ (fun _ _ => ?_) | with_reducible refine Keeps.foldl_fst ?_ (fun _ _ => ?_) | with_reducible refine Keeps.foldl_snd ?_ (fun _ _ => ?_) | with_reducible apply Keeps.cond | with_reducible refine Keeps.getD ?_ (fun _ _ => ?_) | split | intro _))

theorem execDisable_keeps (h : Hdr) (target : BitVec 8) (id : BitVec 8) (mode : BitVec 8) (s : State) {res} (h : execDisable h target id mode s = .next res) : Keeps s res := by
  unfold execDisable at h
  injection h with h
  subst h
  try dsimp only
  repeat' (first | with_reducible apply Ans.keeps_after | with_reducible exact Ans.keeps_fail _ _ _ | with_reducible refine Ans.keeps_done ?_ | with_reducible refine Ans.keeps_started ?_ | with_reducible refine Ans.keeps_later ?_ | with_reducible refine Ans.keeps_ite (fun _ => ?_) (fun _ => ?_) | with_reducible exact Keeps.refl _ | with_reducible assumption | with_reducible apply Keeps.trans _ (State.command_keeps _ _ _ _ _ _) | with_reducible apply Keeps.trans _ (State.disableLd_keeps _ _ _) | with_reducible refine Keeps.ite (fun _ => ?_) (fun _ => ?_) | with_reducible refine Keeps.foldl ?_ (fun _ _ => ?_) | with_reducible refine Keeps.foldl_fst ?_ (fun _ _ => ?_) | with_reducible refine Keeps.foldl_snd ?_ (fun _ _ => ?_) | with_reducible apply Keeps.cond | with_reducible refine Keeps.getD ?_ (fun _ _ => ?_) | split | intro _ | (with_reducible apply Keeps.lit; (on_goal 2 => with_reducible rfl); first | with_reducible apply Ans.keeps_after | with_reducible exact Ans.keeps_fail _ _ _ | with_reducible refine Ans.keeps_done ?_ | with_reducible refine Ans.keeps_started ?_ | with_reducible refine Ans.keeps_later ?_ | with_reducible refine Ans.keeps_ite (fun _ => ?_) (fun _ => ?_) | with_reducible exact Keeps.refl _ | with_reducible assumption | with_reducible apply Keeps.trans _ (State.command_keeps _ _ _ _ _ _) | with_reducible apply Keeps.trans _ (State.disableLd_keeps _ _ _) | with_reducible refine Keeps.ite (fun _ => ?_) (fun _ => ?_) | with_reducible refine Keeps.foldl ?_ (fun _ _ => ?_) | with_reducible refine Keeps.foldl_fst ?_ (fun _ _ => ?_) | with_reducible refine Keeps.foldl_snd ?_ (fun _ _ => ?_) | with_reducible apply Keeps.cond | with_reducible refine Keeps.getD ?_ (fun _ _ => ?_) | split | intro _))

theorem execEnable_keeps (h : Hdr) (target : BitVec 8) (id : BitVec 8) (s : State) {res} (h : execEnable h target id s = .next res) : Keeps s res := by
  unfold execEnable at h
  injection h with h
  subst h
  try dsimp only
  repeat' (first | with_reducible apply Ans.keeps_after | with_reducible exact Ans.keeps_fail _ _ _ | with_reducible refine Ans.keeps_done ?_ | with_reducible refine Ans.keeps_started ?_ | with_reducible refine Ans.keeps_later ?_ | with_reducible refine Ans.keeps_ite (fun _ => ?_) (fun _ => ?_) | with_reducible exact Keeps.refl _ | with_reducible assumption | with_reducible apply Keeps.trans _ (State.command_keeps _ _ _ _ _ _) | with_reducible apply Keeps.trans _ (State.tryActive_keeps _ _) | with_reducible apply Keeps.trans _ (State.updLd_keeps _ _ _) | with_reducible refine Keeps.ite (fun _ => ?_) (fun _ => ?_) | with_reducible refine Keeps.foldl ?_ (fun _ _ => ?_) | with_reducible refine Keeps.foldl_fst ?_ (fun _ _ => ?_) | with_reducible refine Keeps.foldl_snd ?_ (fun _ _ => ?_) | with_reducible apply Keeps.cond | with_reducible refine Keeps.getD ?_ (fun _ _ => ?_) | split | intro _ | (with_reducible apply Keeps.lit; (on_goal 2 => with_reducible rfl); first | with_reducible apply Ans.keeps_after | with_reducible exact Ans.keeps_fail _ _ _ | with_reducible refine Ans.keeps_done ?_ | with_reducible refine Ans.keeps_started ?_ | with_reducible refine Ans.keeps_later ?_ | with_reducible refine Ans.keeps_ite (fun _ => ?_) (fun _ => ?_) | with_reducible exact Keeps.refl _ | with_reducible assumption | with_reducible apply Keeps.trans _ (State.command_keeps _ _ _ _ _ _) | with_reducible apply Keeps.trans _ (State.tryActive_keeps _ _) | with_reducible apply Keeps.trans _ (State.updLd_keeps _ _ _) | with_reducible refine Keeps.ite (fun _ => ?_) (fun _ => ?_) | with_reducible refine Keeps.foldl ?_ (fun _ _ => ?_) | with_reducible refine Keeps.foldl_fst ?_ (fun _ _ => ?_) | with_reducible refine Keeps.foldl_snd ?_ (fun _ _ => ?_) | with_reducible apply Keeps.cond | with_reducible refine Keeps.getD ?_ (fun _ _ => ?_) | split | intro _))

theorem execGetIdentity_keeps (h : Hdr) (s : State) {res} (h : execGetIdentity h s = .next res) : Keeps s res := by
  unfold execGetIdentity at h
  injection h with h
  subst h
  try dsimp only
  repeat' (first | with_reducible apply Ans.keeps_after | with_reducible exact Ans.keeps_fail _ _ _ | with_reducible refine Ans.keeps_done ?_ | with_reducible refine Ans.keeps_started ?_ | with_reducible refine Ans.keeps_later ?_ | with_reducible refine Ans.keeps_ite (fun _ => ?_) (fun _ => ?_) | with_reducible exact Keeps.refl _ | with_reducible assumption | with_reducible apply Keeps.trans _ (State.command_keeps _ _ _ _ _ _) | with_reducible refine Keeps.ite (fun _ => ?_) (fun _ => ?_) | with_reducible refine Keeps.foldl ?_ (fun _ _ => ?_) | with_reducible refine Keeps.foldl_fst ?_ (fun _ _ => ?_) | with_reducible refine Keeps.foldl_snd ?_ (fun _ _ => ?_) | with_reducible apply Keeps.cond | with_reducible refine Keeps.getD ?_ (fun _ _ => ?_) | split | intro _ | (with_reducible apply Keeps.lit; (on_goal 2 => with_reducible rfl); first | with_reducible apply Ans.keeps_after | with_reducible exact Ans.keeps_fail _ _ _ | with_reducible refine Ans.keeps_done ?_ | with_reducible refine Ans.keeps_started ?_ | with_reducible refine Ans.keeps_later ?_ | with_reducible refine Ans.keeps_ite (fun _ => ?_) (fun _ => ?_) | with_reducible exact Keeps.refl _ | with_reducible assumption | with_reducible apply Keeps.trans _ (State.command_keeps _ _ _ _ _ _) | with_reducible refine Keeps.ite (fun _ => ?_) (fun _ => ?_) | with_reducible refine Keeps.foldl ?_ (fun _ _ => ?_) | with_reducible refine Keeps.foldl_fst ?_ (fun _ _ => ?_) | with_reducible refine Keeps.foldl_snd ?_ (fun _ _ => ?_) | with_reducible apply Keeps.cond | with_reducible refine Keeps.getD ?_ (fun _ _ => ?_) | split | intro _))

theorem execGetSettings_keeps (h : Hdr) (gen : BitVec 8) (s : State) {res} (h : execGetSettings h gen s = .next res) : Keeps s res := by
  unfold execGetSettings at h
  injection h with h
  subst h
  try dsimp only
  repeat' (first | with_reducible apply Ans.keeps_after | with_reducible exact Ans.keeps_fail _ _ _ | with_reducible refine Ans.keeps_done ?_ | with_reducible refine Ans.keeps_started ?_ | with_reducible refine Ans.keeps_later ?_ | with_reducible refine Ans.keeps_ite (fun _ => ?_) (fun _ => ?_) | with_reducible exact Keeps.refl _ | with_reducible assumption | with_reducible apply Keeps.trans _ (State.command_keeps _ _ _ _ _ _) | with_reducible refine Keeps.ite (fun _ => ?_) (fun _ => ?_) | with_reducible refine Keeps.foldl ?_ (fun _ _ => ?_) | with_reducible refine Keeps.foldl_fst ?_ (fun _ _ => ?_) | with_reducible refine Keeps.foldl_snd ?_ (fun _ _ => ?_) | with_reducible apply Keeps.cond | with_reducible refine Keeps.getD ?_ (fun _ _ => ?_) | split | intro _ | (with_reducible apply Keeps.lit; (on_goal 2 => with_reducible rfl); first | with_reducible apply Ans.keeps_after | with_reducible exact Ans.keeps_fail _ _ _ | with_reducible refine Ans.keeps_done ?_ | with_reducible refine Ans.keeps_started ?_ | with_reducible refine Ans.keeps_later ?_ | with_reducible refine Ans.keeps_ite (fun _ => ?_) (fun _ => ?_) | with_reducible exact Keeps.refl _ | with_reducible assumption | with_reducible apply Keeps.trans _ (State.command_keeps _ _ _ _ _ _) | with_reducible refine Keeps.ite (fun _ => ?_) (fun _ => ?_) | with_reducible refine Keeps.foldl ?_ (fun _ _ => ?_) | with_reducible refine Keeps.foldl_fst ?_ (fun _ _ => ?_) | with_reducible refine Keeps.foldl_snd ?_ (fun _ _ => ?_) | with_reducible apply Keeps.cond | with_reducible refine Keeps.getD ?_ (fun _ _ => ?_) | split | intro _))

theorem execProgramSettings_keeps (h : Hdr) (gen : BitVec 8) (confirm : BitVec 16) (block : List Byte) (tempOk : Bool) (ok : Bool) (s : State) {res} (h : execProgramSettings h gen confirm block tempOk ok s = .next res) : Keeps s res := by
  unfold execProgramSettings at h
  injection h with h
  subst h
  try dsimp only
  repeat' (first | with_reducible apply Ans.keeps_after | with_reducible exact Ans.keeps_fail _ _ _ | with_reducible refine Ans.keeps_done ?_ | with_reducible refine Ans.keeps_started ?_ | with_reducible refine Ans.keeps_later ?_ | with_reducible refine Ans.keeps_ite (fun _ => ?_) (fun _ => ?_) | with_reducible exact Keeps.refl _ | with_reducible assumption | with_reducible apply Keeps.trans _ (State.command_keeps _ _ _ _ _ _) | with_reducible apply Keeps.trans _ (State.programBlock_keeps _ _ _ _) | with_reducible refine Keeps.ite (fun _ => ?_) (fun _ => ?_) | with_reducible refine Keeps.foldl ?_ (fun _ _ => ?_) | with_reducible refine Keeps.foldl_fst ?_ (fun _ _ => ?_) | with_reducible refine Keeps.foldl_snd ?_ (fun _ _ => ?_) | with_reducible apply Keeps.cond | with_reducible refine Keeps.getD ?_ (fun _ _ => ?_) | split | intro _ | (with_reducible apply Keeps.lit; (on_goal 2 => with_reducible rfl); first | with_reducible apply Ans.keeps_after | with_reducible exact Ans.keeps_fail _ _ _ | with_reducible refine Ans.keeps_done ?_ | with_reducible refine Ans.keeps_started ?_ | with_reducible refine Ans.keeps_later ?_ | with_reducible refine Ans.keeps_ite (fun _ => ?_) (fun _ => ?_) | with_reducible exact Keeps.refl _ | with_reducible assumption | with_reducible apply Keeps.trans _ (State.command_keeps _ _ _ _ _ _) | with_reducible apply Keeps.trans _ (State.programBlock_keeps _ _ _ _) | with_reducible refine Keeps.ite (fun _ => ?_) (fun _ => ?_) | with_reducible refine Keeps.foldl ?_ (fun _ _ => ?_) | with_reducible refine Keeps.foldl_fst ?_ (fun _ _ => ?_) | with_reducible refine Keeps.foldl_snd ?_ (fun _ _ => ?_) | with_reducible apply Keeps.cond | with_reducible refine Keeps.getD ?_ (fun _ _ => ?_) | split | intro _))

theorem execRevokeFwKey_keeps (h : Hdr) (key : BitVec 8) (confirm : BitVec 16) (s : State) {res} (h : execRevokeFwKey h key confirm s = .next res) : Keeps s res := by
  unfold execRevokeFwKey at h
  injection h with h
  subst h
  try dsimp only
  repeat' (first | with_reducible apply Ans.keeps_after | with_reducible exact Ans.keeps_fail _ _ _ | with_reducible refine Ans.keeps_done ?_ | with_reducible refine Ans.keeps_started ?_ | with_reducible refine Ans.keeps_later ?_ | with_reducible refine Ans.keeps_ite (fun _ => ?_) (fun _ => ?_) | with_reducible exact Keeps.refl _ | with_reducible assumption | with_reducible apply Keeps.trans _ (State.burn_keeps _ _ _) | with_reducible apply Keeps.trans _ (State.command_keeps _ _ _ _ _ _) | with_reducible refine Keeps.ite (fun _ => ?_) (fun _ => ?_) | with_reducible refine Keeps.foldl ?_ (fun _ _ => ?_) | with_reducible refine Keeps.foldl_fst ?_ (fun _ _ => ?_) | with_reducible refine Keeps.foldl_snd ?_ (fun _ _ => ?_) | with_reducible apply Keeps.cond | with_reducible refine Keeps.getD ?_ (fun _ _ => ?_) | split | intro _ | (with_reducible apply Keeps.lit; (on_goal 2 => with_reducible rfl); first | with_reducible apply Ans.keeps_after | with_reducible exact Ans.keeps_fail _ _ _ | with_reducible refine Ans.keeps_done ?_ | with_reducible refine Ans.keeps_started ?_ | with_reducible refine Ans.keeps_later ?_ | with_reducible refine Ans.keeps_ite (fun _ => ?_) (fun _ => ?_) | with_reducible exact Keeps.refl _ | with_reducible assumption | with_reducible apply Keeps.trans _ (State.burn_keeps _ _ _) | with_reducible apply Keeps.trans _ (State.command_keeps _ _ _ _ _ _) | with_reducible refine Keeps.ite (fun _ => ?_) (fun _ => ?_) | with_reducible refine Keeps.foldl ?_ (fun _ _ => ?_) | with_reducible refine Keeps.foldl_fst ?_ (fun _ _ => ?_) | with_reducible refine Keeps.foldl_snd ?_ (fun _ _ => ?_) | with_reducible apply Keeps.cond | with_reducible refine Keeps.getD ?_ (fun _ _ => ?_) | split | intro _))

theorem execSetHeadMode_keeps (h : Hdr) (head : BitVec 8) (mode : BitVec 8) (s : State) {res} (h : execSetHeadMode h head mode s = .next res) : Keeps s res := by
  unfold execSetHeadMode at h
  injection h with h
  subst h
  try dsimp only
  repeat' (first | with_reducible apply Ans.keeps_after | with_reducible exact Ans.keeps_fail _ _ _ | with_reducible refine Ans.keeps_done ?_ | with_reducible refine Ans.keeps_started ?_ | with_reducible refine Ans.keeps_later ?_ | with_reducible refine Ans.keeps_ite (fun _ => ?_) (fun _ => ?_) | with_reducible exact Keeps.refl _ | with_reducible assumption | with_reducible apply Keeps.trans _ (State.command_keeps _ _ _ _ _ _) | with_reducible apply Keeps.trans _ (State.setMode_keeps _ _ _) | with_reducible refine Keeps.ite (fun _ => ?_) (fun _ => ?_) | with_reducible refine Keeps.foldl ?_ (fun _ _ => ?_) | with_reducible refine Keeps.foldl_fst ?_ (fun _ _ => ?_) | with_reducible refine Keeps.foldl_snd ?_ (fun _ _ => ?_) | with_reducible apply Keeps.cond | with_reducible refine Keeps.getD ?_ (fun _ _ => ?_) | split | intro _ | (with_reducible apply Keeps.lit; (on_goal 2 => with_reducible rfl); first | with_reducible apply Ans.keeps_after | with_reducible exact Ans.keeps_fail _ _ _ | with_reducible refine Ans.keeps_done ?_ | with_reducible refine Ans.keeps_started ?_ | with_reducible refine Ans.keeps_later ?_ | with_reducible refine Ans.keeps_ite (fun _ => ?_) (fun _ => ?_) | with_reducible exact Keeps.refl _ | with_reducible assumption | with_reducible apply Keeps.trans _ (State.command_keeps _ _ _ _ _ _) | with_reducible apply Keeps.trans _ (State.setMode_keeps _ _ _) | with_reducible refine Keeps.ite (fun _ => ?_) (fun _ => ?_) | with_reducible refine Keeps.foldl ?_ (fun _ _ => ?_) | with_reducible refine Keeps.foldl_fst ?_ (fun _ _ => ?_) | with_reducible refine Keeps.foldl_snd ?_ (fun _ _ => ?_) | with_reducible apply Keeps.cond | with_reducible refine Keeps.getD ?_ (fun _ _ => ?_) | split | intro _))

theorem execSetLdManage_keeps (h : Hdr) (ldIndex : BitVec 8) (manage : BitVec 8) (s : State) {res} (h : execSetLdManage h ldIndex manage s = .next res) : Keeps s res := by
  unfold execSetLdManage at h
  injection h with h
  subst h
  try dsimp only
  repeat' (first | with_reducible apply Ans.keeps_after | with_reducible exact Ans.keeps_fail _ _ _ | with_reducible refine Ans.keeps_done ?_ | with_reducible refine Ans.keeps_started ?_ | with_reducible refine Ans.keeps_later ?_ | with_reducible refine Ans.keeps_ite (fun _ => ?_) (fun _ => ?_) | with_reducible exact Keeps.refl _ | with_reducible assumption | with_reducible apply Keeps.trans _ (State.command_keeps _ _ _ _ _ _) | with_reducible apply Keeps.trans _ (State.updLd_keeps _ _ _) | with_reducible refine Keeps.ite (fun _ => ?_) (fun _ => ?_) | with_reducible refine Keeps.foldl ?_ (fun _ _ => ?_) | with_reducible refine Keeps.foldl_fst ?_ (fun _ _ => ?_) | with_reducible refine Keeps.foldl_snd ?_ (fun _ _ => ?_) | with_reducible apply Keeps.cond | with_reducible refine Keeps.getD ?_ (fun _ _ => ?_) | split | intro _ | (with_reducible apply Keeps.lit; (on_goal 2 => with_reducible rfl); first | with_reducible apply Ans.keeps_after | with_reducible exact Ans.keeps_fail _ _ _ | with_reducible refine Ans.keeps_done ?_ | with_reducible refine Ans.keeps_started ?_ | with_reducible refine Ans.keeps_later ?_ | with_reducible refine Ans.keeps_ite (fun _ => ?_) (fun _ => ?_) | with_reducible exact Keeps.refl _ | with_reducible assumption | with_reducible apply Keeps.trans _ (State.command_keeps _ _ _ _ _ _) | with_reducible apply Keeps.trans _ (State.updLd_keeps _ _ _) | with_reducible refine Keeps.ite (fun _ => ?_) (fun _ => ?_) | with_reducible refine Keeps.foldl ?_ (fun _ _ => ?_) | with_reducible refine Keeps.foldl_fst ?_ (fun _ _ => ?_) | with_reducible refine Keeps.foldl_snd ?_ (fun _ _ => ?_) | with_reducible apply Keeps.cond | with_reducible refine Keeps.getD ?_ (fun _ _ => ?_) | split | intro _))

theorem execSetLocks_keeps (h : Hdr) (mask : BitVec 16) (s : State) {res} (h : execSetLocks h mask s = .next res) : Keeps s res := by
  unfold execSetLocks at h
  injection h with h
  subst h
  try dsimp only
  repeat' (first | with_reducible apply Ans.keeps_after | with_reducible exact Ans.keeps_fail _ _ _ | with_reducible refine Ans.keeps_done ?_ | with_reducible refine Ans.keeps_started ?_ | with_reducible refine Ans.keeps_later ?_ | with_reducible refine Ans.keeps_ite (fun _ => ?_) (fun _ => ?_) | with_reducible exact Keeps.refl _ | with_reducible assumption | with_reducible apply Keeps.trans _ (State.command_keeps _ _ _ _ _ _) | with_reducible apply Keeps.trans _ (State.setLocks_keeps _ _) | with_reducible refine Keeps.ite (fun _ => ?_) (fun _ => ?_) | with_reducible refine Keeps.foldl ?_ (fun _ _ => ?_) | with_reducible refine Keeps.foldl_fst ?_ (fun _ _ => ?_) | with_reducible refine Keeps.foldl_snd ?_ (fun _ _ => ?_) | with_reducible apply Keeps.cond | with_reducible refine Keeps.getD ?_ (fun _ _ => ?_) | split | intro _ | (with_reducible apply Keeps.lit; (on_goal 2 => with_reducible rfl); first | with_reducible apply Ans.keeps_after | with_reducible exact Ans.keeps_fail _ _ _ | with_reducible refine Ans.keeps_done ?_ | with_reducible refine Ans.keeps_started ?_ | with_reducible refine Ans.keeps_later ?_ | with_reducible refine Ans.keeps_ite (fun _ => ?_) (fun _ => ?_) | with_reducible exact Keeps.refl _ | with_reducible assumption | with_reducible apply Keeps.trans _ (State.command_keeps _ _ _ _ _ _) | with_reducible apply Keeps.trans _ (State.setLocks_keeps _ _) | with_reducible refine Keeps.ite (fun _ => ?_) (fun _ => ?_) | with_reducible refine Keeps.foldl ?_ (fun _ _ => ?_) | with_reducible refine Keeps.foldl_fst ?_ (fun _ _ => ?_) | with_reducible refine Keeps.foldl_snd ?_ (fun _ _ => ?_) | with_reducible apply Keeps.cond | with_reducible refine Keeps.getD ?_ (fun _ _ => ?_) | split | intro _))

theorem execSetStaticCapacity_keeps (h : Hdr) (ranges : List (BitVec 64 × BitVec 32)) (s : State) {res} (h : execSetStaticCapacity h ranges s = .next res) : Keeps s res := by
  unfold execSetStaticCapacity at h
  injection h with h
  subst h
  try dsimp only
  repeat' (first | with_reducible apply Ans.keeps_after | with_reducible exact Ans.keeps_fail _ _ _ | with_reducible refine Ans.keeps_done ?_ | with_reducible refine Ans.keeps_started ?_ | with_reducible refine Ans.keeps_later ?_ | with_reducible refine Ans.keeps_ite (fun _ => ?_) (fun _ => ?_) | with_reducible exact Keeps.refl _ | with_reducible assumption | with_reducible apply Keeps.trans _ (State.command_keeps _ _ _ _ _ _) | with_reducible apply Keeps.trans _ (State.setStatic_keeps _ _ _) | with_reducible refine Keeps.ite (fun _ => ?_) (fun _ => ?_) | with_reducible refine Keeps.foldl ?_ (fun _ _ => ?_) | with_reducible refine Keeps.foldl_fst ?_ (fun _ _ => ?_) | with_reducible refine Keeps.foldl_snd ?_ (fun _ _ => ?_) | with_reducible apply Keeps.cond | with_reducible refine Keeps.getD ?_ (fun _ _ => ?_) | split | intro _ | (with_reducible apply Keeps.lit; (on_goal 2 => with_reducible rfl); first | with_reducible apply Ans.keeps_after | with_reducible exact Ans.keeps_fail _ _ _ | with_reducible refine Ans.keeps_done ?_ | with_reducible refine Ans.keeps_started ?_ | with_reducible refine Ans.keeps_later ?_ | with_reducible refine Ans.keeps_ite (fun _ => ?_) (fun _ => ?_) | with_reducible exact Keeps.refl _ | with_reducible assumption | with_reducible apply Keeps.trans _ (State.command_keeps _ _ _ _ _ _) | with_reducible apply Keeps.trans _ (State.setStatic_keeps _ _ _) | with_reducible refine Keeps.ite (fun _ => ?_) (fun _ => ?_) | with_reducible refine Keeps.foldl ?_ (fun _ _ => ?_) | with_reducible refine Keeps.foldl_fst ?_ (fun _ _ => ?_) | with_reducible refine Keeps.foldl_snd ?_ (fun _ _ => ?_) | with_reducible apply Keeps.cond | with_reducible refine Keeps.getD ?_ (fun _ _ => ?_) | split | intro _))

end Sys2Proof.Machine
end

