-- ==== Sys2Proof/Laws/KeepsPlacement.lean ====
section
/-! SUPPORT. Every operation of Machine/Placement.lean keeps what `Keeps` says: one lemma for each. -/
namespace Sys2Proof.Machine
set_option linter.unreachableTactic false
set_option linter.unusedTactic false

theorem State.dropClass_keeps (s : State) (c : Nat) : Keeps s (State.dropClass s c) := by
  unfold State.dropClass
  try dsimp only
  repeat' (first | with_reducible exact Keeps.refl _ | with_reducible assumption | with_reducible apply Keeps.trans _ (State.setWord_keeps _ _ _) | with_reducible refine Keeps.ite (fun _ => ?_) (fun _ => ?_) | with_reducible refine Keeps.foldl ?_ (fun _ _ => ?_) | split | (with_reducible apply Keeps.lit; (on_goal 2 => with_reducible rfl); first | with_reducible exact Keeps.refl _ | with_reducible assumption | with_reducible apply Keeps.trans _ (State.setWord_keeps _ _ _) | with_reducible refine Keeps.ite (fun _ => ?_) (fun _ => ?_) | with_reducible refine Keeps.foldl ?_ (fun _ _ => ?_) | split))

theorem State.writeClass_keeps (s : State) (c : Nat) (floor : Nat) (budget : Nat) (dl : List Nat) (tier : Nat) (rank : Nat) : Keeps s (State.writeClass s c floor budget dl tier rank) := by
  unfold State.writeClass
  repeat' (first | with_reducible exact Keeps.refl _ | with_reducible apply Keeps.trans _ (State.setFlag_keeps _ _ _) | with_reducible apply Keeps.trans _ (State.wr_keeps _ _ _))

theorem State.setClass_keeps (s : State) (c : Nat) (floor : Nat) (budget : Nat) (dl : List Nat) (tier : Nat) (rank : Nat) : Keeps s (State.setClass s c floor budget dl tier rank) := by
  unfold State.setClass
  try dsimp only
  repeat' (first | with_reducible exact Keeps.refl _ | with_reducible apply Keeps.trans _ (State.lendFloor_keeps _ _) | with_reducible apply Keeps.trans _ (State.writeClass_keeps _ _ _ _ _ _ _) | with_reducible refine Keeps.ite (fun _ => ?_) (fun _ => ?_) | split | (with_reducible apply Keeps.lit; (on_goal 2 => with_reducible rfl); first | with_reducible exact Keeps.refl _ | with_reducible apply Keeps.trans _ (State.lendFloor_keeps _ _) | with_reducible apply Keeps.trans _ (State.writeClass_keeps _ _ _ _ _ _ _) | with_reducible refine Keeps.ite (fun _ => ?_) (fun _ => ?_) | split))

theorem State.setCurator_keeps (s : State) (lenMs : Nat) (curate : Nat) (hotMark : Nat) (idle : Nat) (tight : Nat) (balance : Nat) (spill : Nat) : Keeps s (State.setCurator s lenMs curate hotMark idle tight balance spill) := by
  unfold State.setCurator
  repeat' (first | with_reducible exact Keeps.refl _ | with_reducible apply Keeps.trans _ (State.writeReg_keeps _ _ _))

theorem State.setLabelMap_keeps (s : State) (hd : Nat) (dflt : Nat) (es : List (BitVec 8)) : Keeps s (State.setLabelMap s hd dflt es) := by
  unfold State.setLabelMap
  try dsimp only
  repeat' (first | with_reducible exact Keeps.refl _ | with_reducible assumption | with_reducible apply Keeps.trans _ (State.wr_keeps _ _ _) | with_reducible apply Keeps.trans _ (State.setWord_keeps _ _ _) | with_reducible refine Keeps.ite (fun _ => ?_) (fun _ => ?_) | with_reducible refine Keeps.foldl ?_ (fun _ _ => ?_) | split | (with_reducible apply Keeps.lit; (on_goal 2 => with_reducible rfl); first | with_reducible exact Keeps.refl _ | with_reducible assumption | with_reducible apply Keeps.trans _ (State.wr_keeps _ _ _) | with_reducible apply Keeps.trans _ (State.setWord_keeps _ _ _) | with_reducible refine Keeps.ite (fun _ => ?_) (fun _ => ?_) | with_reducible refine Keeps.foldl ?_ (fun _ _ => ?_) | split))

theorem State.startSanitize_keeps (s : State) (rs : List (Nat × Nat)) : Keeps s (State.startSanitize s rs) := by
  unfold State.startSanitize
  repeat' (first | with_reducible exact Keeps.refl _ | (with_reducible apply Keeps.lit; (on_goal 2 => with_reducible rfl); first | with_reducible exact Keeps.refl _))

theorem execDeleteClass_keeps (h : Hdr) (cls : BitVec 8) (s : State) {res} (h : execDeleteClass h cls s = .next res) : Keeps s res := by
  unfold execDeleteClass at h
  injection h with h
  subst h
  try dsimp only
  repeat' (first | with_reducible apply Ans.keeps_after | with_reducible exact Ans.keeps_fail _ _ _ | with_reducible refine Ans.keeps_done ?_ | with_reducible refine Ans.keeps_started ?_ | with_reducible refine Ans.keeps_later ?_ | with_reducible refine Ans.keeps_ite (fun _ => ?_) (fun _ => ?_) | with_reducible exact Keeps.refl _ | with_reducible assumption | with_reducible apply Keeps.trans _ (State.command_keeps _ _ _ _ _ _) | with_reducible apply Keeps.trans _ (State.dropClass_keeps _ _) | with_reducible refine Keeps.ite (fun _ => ?_) (fun _ => ?_) | with_reducible refine Keeps.foldl ?_ (fun _ _ => ?_) | with_reducible refine Keeps.foldl_fst ?_ (fun _ _ => ?_) | with_reducible refine Keeps.foldl_snd ?_ (fun _ _ => ?_) | with_reducible apply Keeps.cond | with_reducible refine Keeps.getD ?_ (fun _ _ => ?_) | split | intro _ | (with_reducible apply Keeps.lit; (on_goal 2 => with_reducible rfl); first | with_reducible apply Ans.keeps_after | with_reducible exact Ans.keeps_fail _ _ _ | with_reducible refine Ans.keeps_done ?_ | with_reducible refine Ans.keeps_started ?_ | with_reducible refine Ans.keeps_later ?_ | with_reducible refine Ans.keeps_ite (fun _ => ?_) (fun _ => ?_) | with_reducible exact Keeps.refl _ | with_reducible assumption | with_reducible apply Keeps.trans _ (State.command_keeps _ _ _ _ _ _) | with_reducible apply Keeps.trans _ (State.dropClass_keeps _ _) | with_reducible refine Keeps.ite (fun _ => ?_) (fun _ => ?_) | with_reducible refine Keeps.foldl ?_ (fun _ _ => ?_) | with_reducible refine Keeps.foldl_fst ?_ (fun _ _ => ?_) | with_reducible refine Keeps.foldl_snd ?_ (fun _ _ => ?_) | with_reducible apply Keeps.cond | with_reducible refine Keeps.getD ?_ (fun _ _ => ?_) | split | intro _))

theorem execGetEpochTotals_keeps (h : Hdr) (s : State) {res} (h : execGetEpochTotals h s = .next res) : Keeps s res := by
  unfold execGetEpochTotals at h
  injection h with h
  subst h
  try dsimp only
  repeat' (first | with_reducible apply Ans.keeps_after | with_reducible exact Ans.keeps_fail _ _ _ | with_reducible refine Ans.keeps_done ?_ | with_reducible refine Ans.keeps_started ?_ | with_reducible refine Ans.keeps_later ?_ | with_reducible refine Ans.keeps_ite (fun _ => ?_) (fun _ => ?_) | with_reducible exact Keeps.refl _ | with_reducible apply Keeps.trans _ (State.command_keeps _ _ _ _ _ _) | intro _)

theorem execGetGovernor_keeps (h : Hdr) (s : State) {res} (h : execGetGovernor h s = .next res) : Keeps s res := by
  unfold execGetGovernor at h
  injection h with h
  subst h
  try dsimp only
  repeat' (first | with_reducible apply Ans.keeps_after | with_reducible exact Ans.keeps_fail _ _ _ | with_reducible refine Ans.keeps_done ?_ | with_reducible refine Ans.keeps_started ?_ | with_reducible refine Ans.keeps_later ?_ | with_reducible refine Ans.keeps_ite (fun _ => ?_) (fun _ => ?_) | with_reducible exact Keeps.refl _ | with_reducible apply Keeps.trans _ (State.command_keeps _ _ _ _ _ _) | with_reducible apply Keeps.trans _ (State.advanceFree_keeps _) | intro _)

theorem execGetPageInfo_keeps (h : Hdr) (space : BitVec 8) (dpa : BitVec 64) (count : BitVec 16) (s : State) {res} (h : execGetPageInfo h space dpa count s = .next res) : Keeps s res := by
  unfold execGetPageInfo at h
  injection h with h
  subst h
  try dsimp only
  repeat' (first | with_reducible apply Ans.keeps_after | with_reducible exact Ans.keeps_fail _ _ _ | with_reducible refine Ans.keeps_done ?_ | with_reducible refine Ans.keeps_started ?_ | with_reducible refine Ans.keeps_later ?_ | with_reducible refine Ans.keeps_ite (fun _ => ?_) (fun _ => ?_) | with_reducible exact Keeps.refl _ | with_reducible assumption | with_reducible apply Keeps.trans _ (State.command_keeps _ _ _ _ _ _) | with_reducible refine Keeps.ite (fun _ => ?_) (fun _ => ?_) | with_reducible refine Keeps.foldl ?_ (fun _ _ => ?_) | with_reducible refine Keeps.foldl_fst ?_ (fun _ _ => ?_) | with_reducible refine Keeps.foldl_snd ?_ (fun _ _ => ?_) | with_reducible apply Keeps.cond | with_reducible refine Keeps.getD ?_ (fun _ _ => ?_) | split | intro _ | (with_reducible apply Keeps.lit; (on_goal 2 => with_reducible rfl); first | with_reducible apply Ans.keeps_after | with_reducible exact Ans.keeps_fail _ _ _ | with_reducible refine Ans.keeps_done ?_ | with_reducible refine Ans.keeps_started ?_ | with_reducible refine Ans.keeps_later ?_ | with_reducible refine Ans.keeps_ite (fun _ => ?_) (fun _ => ?_) | with_reducible exact Keeps.refl _ | with_reducible assumption | with_reducible apply Keeps.trans _ (State.command_keeps _ _ _ _ _ _) | with_reducible refine Keeps.ite (fun _ => ?_) (fun _ => ?_) | with_reducible refine Keeps.foldl ?_ (fun _ _ => ?_) | with_reducible refine Keeps.foldl_fst ?_ (fun _ _ => ?_) | with_reducible refine Keeps.foldl_snd ?_ (fun _ _ => ?_) | with_reducible apply Keeps.cond | with_reducible refine Keeps.getD ?_ (fun _ _ => ?_) | split | intro _))

theorem execGetPlacement_keeps (h : Hdr) (s : State) {res} (h : execGetPlacement h s = .next res) : Keeps s res := by
  unfold execGetPlacement at h
  injection h with h
  subst h
  try dsimp only
  repeat' (first | with_reducible apply Ans.keeps_after | with_reducible exact Ans.keeps_fail _ _ _ | with_reducible refine Ans.keeps_done ?_ | with_reducible refine Ans.keeps_started ?_ | with_reducible refine Ans.keeps_later ?_ | with_reducible refine Ans.keeps_ite (fun _ => ?_) (fun _ => ?_) | with_reducible exact Keeps.refl _ | with_reducible assumption | with_reducible apply Keeps.trans _ (State.command_keeps _ _ _ _ _ _) | with_reducible refine Keeps.ite (fun _ => ?_) (fun _ => ?_) | with_reducible refine Keeps.foldl ?_ (fun _ _ => ?_) | with_reducible refine Keeps.foldl_fst ?_ (fun _ _ => ?_) | with_reducible refine Keeps.foldl_snd ?_ (fun _ _ => ?_) | with_reducible apply Keeps.cond | with_reducible refine Keeps.getD ?_ (fun _ _ => ?_) | split | intro _ | (with_reducible apply Keeps.lit; (on_goal 2 => with_reducible rfl); first | with_reducible apply Ans.keeps_after | with_reducible exact Ans.keeps_fail _ _ _ | with_reducible refine Ans.keeps_done ?_ | with_reducible refine Ans.keeps_started ?_ | with_reducible refine Ans.keeps_later ?_ | with_reducible refine Ans.keeps_ite (fun _ => ?_) (fun _ => ?_) | with_reducible exact Keeps.refl _ | with_reducible assumption | with_reducible apply Keeps.trans _ (State.command_keeps _ _ _ _ _ _) | with_reducible refine Keeps.ite (fun _ => ?_) (fun _ => ?_) | with_reducible refine Keeps.foldl ?_ (fun _ _ => ?_) | with_reducible refine Keeps.foldl_fst ?_ (fun _ _ => ?_) | with_reducible refine Keeps.foldl_snd ?_ (fun _ _ => ?_) | with_reducible apply Keeps.cond | with_reducible refine Keeps.getD ?_ (fun _ _ => ?_) | split | intro _))

theorem execGetQos_keeps (h : Hdr) (cls : BitVec 8) (s : State) {res} (h : execGetQos h cls s = .next res) : Keeps s res := by
  unfold execGetQos at h
  injection h with h
  subst h
  try dsimp only
  repeat' (first | with_reducible apply Ans.keeps_after | with_reducible exact Ans.keeps_fail _ _ _ | with_reducible refine Ans.keeps_done ?_ | with_reducible refine Ans.keeps_started ?_ | with_reducible refine Ans.keeps_later ?_ | with_reducible refine Ans.keeps_ite (fun _ => ?_) (fun _ => ?_) | with_reducible exact Keeps.refl _ | with_reducible assumption | with_reducible apply Keeps.trans _ (State.command_keeps _ _ _ _ _ _) | with_reducible refine Keeps.ite (fun _ => ?_) (fun _ => ?_) | with_reducible refine Keeps.foldl ?_ (fun _ _ => ?_) | with_reducible refine Keeps.foldl_fst ?_ (fun _ _ => ?_) | with_reducible refine Keeps.foldl_snd ?_ (fun _ _ => ?_) | with_reducible apply Keeps.cond | with_reducible refine Keeps.getD ?_ (fun _ _ => ?_) | split | intro _ | (with_reducible apply Keeps.lit; (on_goal 2 => with_reducible rfl); first | with_reducible apply Ans.keeps_after | with_reducible exact Ans.keeps_fail _ _ _ | with_reducible refine Ans.keeps_done ?_ | with_reducible refine Ans.keeps_started ?_ | with_reducible refine Ans.keeps_later ?_ | with_reducible refine Ans.keeps_ite (fun _ => ?_) (fun _ => ?_) | with_reducible exact Keeps.refl _ | with_reducible assumption | with_reducible apply Keeps.trans _ (State.command_keeps _ _ _ _ _ _) | with_reducible refine Keeps.ite (fun _ => ?_) (fun _ => ?_) | with_reducible refine Keeps.foldl ?_ (fun _ _ => ?_) | with_reducible refine Keeps.foldl_fst ?_ (fun _ _ => ?_) | with_reducible refine Keeps.foldl_snd ?_ (fun _ _ => ?_) | with_reducible apply Keeps.cond | with_reducible refine Keeps.getD ?_ (fun _ _ => ?_) | split | intro _))

theorem execSanitizeRange_keeps (h : Hdr) (space : BitVec 8) (dpa : BitVec 64) (len : BitVec 64) (s : State) {res} (h : execSanitizeRange h space dpa len s = .next res) : Keeps s res := by
  unfold execSanitizeRange at h
  injection h with h
  subst h
  try dsimp only
  repeat' (first | with_reducible apply Ans.keeps_after | with_reducible exact Ans.keeps_fail _ _ _ | with_reducible refine Ans.keeps_done ?_ | with_reducible refine Ans.keeps_started ?_ | with_reducible refine Ans.keeps_later ?_ | with_reducible refine Ans.keeps_ite (fun _ => ?_) (fun _ => ?_) | with_reducible exact Keeps.refl _ | with_reducible assumption | with_reducible apply Keeps.trans _ (State.command_keeps _ _ _ _ _ _) | with_reducible apply Keeps.trans _ (State.startSanitize_keeps _ _) | with_reducible refine Keeps.ite (fun _ => ?_) (fun _ => ?_) | with_reducible refine Keeps.foldl ?_ (fun _ _ => ?_) | with_reducible refine Keeps.foldl_fst ?_ (fun _ _ => ?_) | with_reducible refine Keeps.foldl_snd ?_ (fun _ _ => ?_) | with_reducible apply Keeps.cond | with_reducible refine Keeps.getD ?_ (fun _ _ => ?_) | split | intro _ | (with_reducible apply Keeps.lit; (on_goal 2 => with_reducible rfl); first | with_reducible apply Ans.keeps_after | with_reducible exact Ans.keeps_fail _ _ _ | with_reducible refine Ans.keeps_done ?_ | with_reducible refine Ans.keeps_started ?_ | with_reducible refine Ans.keeps_later ?_ | with_reducible refine Ans.keeps_ite (fun _ => ?_) (fun _ => ?_) | with_reducible exact Keeps.refl _ | with_reducible assumption | with_reducible apply Keeps.trans _ (State.command_keeps _ _ _ _ _ _) | with_reducible apply Keeps.trans _ (State.startSanitize_keeps _ _) | with_reducible refine Keeps.ite (fun _ => ?_) (fun _ => ?_) | with_reducible refine Keeps.foldl ?_ (fun _ _ => ?_) | with_reducible refine Keeps.foldl_fst ?_ (fun _ _ => ?_) | with_reducible refine Keeps.foldl_snd ?_ (fun _ _ => ?_) | with_reducible apply Keeps.cond | with_reducible refine Keeps.getD ?_ (fun _ _ => ?_) | split | intro _))

theorem execSetClass_keeps (h : Hdr) (cls : BitVec 8) (floor : BitVec 32) (budget : BitVec 32) (dl1 : BitVec 32) (dl2 : BitVec 32) (dl3 : BitVec 32) (baseTier : BitVec 8) (shedRank : BitVec 8) (s : State) {res} (h : execSetClass h cls floor budget dl1 dl2 dl3 baseTier shedRank s = .next res) : Keeps s res := by
  unfold execSetClass at h
  injection h with h
  subst h
  try dsimp only
  repeat' (first | with_reducible apply Ans.keeps_after | with_reducible exact Ans.keeps_fail _ _ _ | with_reducible refine Ans.keeps_done ?_ | with_reducible refine Ans.keeps_started ?_ | with_reducible refine Ans.keeps_later ?_ | with_reducible refine Ans.keeps_ite (fun _ => ?_) (fun _ => ?_) | with_reducible exact Keeps.refl _ | with_reducible assumption | with_reducible apply Keeps.trans _ (State.command_keeps _ _ _ _ _ _) | with_reducible apply Keeps.trans _ (State.setClass_keeps _ _ _ _ _ _ _) | with_reducible refine Keeps.ite (fun _ => ?_) (fun _ => ?_) | with_reducible refine Keeps.foldl ?_ (fun _ _ => ?_) | with_reducible refine Keeps.foldl_fst ?_ (fun _ _ => ?_) | with_reducible refine Keeps.foldl_snd ?_ (fun _ _ => ?_) | with_reducible apply Keeps.cond | with_reducible refine Keeps.getD ?_ (fun _ _ => ?_) | split | intro _ | (with_reducible apply Keeps.lit; (on_goal 2 => with_reducible rfl); first | with_reducible apply Ans.keeps_after | with_reducible exact Ans.keeps_fail _ _ _ | with_reducible refine Ans.keeps_done ?_ | with_reducible refine Ans.keeps_started ?_ | with_reducible refine Ans.keeps_later ?_ | with_reducible refine Ans.keeps_ite (fun _ => ?_) (fun _ => ?_) | with_reducible exact Keeps.refl _ | with_reducible assumption | with_reducible apply Keeps.trans _ (State.command_keeps _ _ _ _ _ _) | with_reducible apply Keeps.trans _ (State.setClass_keeps _ _ _ _ _ _ _) | with_reducible refine Keeps.ite (fun _ => ?_) (fun _ => ?_) | with_reducible refine Keeps.foldl ?_ (fun _ _ => ?_) | with_reducible refine Keeps.foldl_fst ?_ (fun _ _ => ?_) | with_reducible refine Keeps.foldl_snd ?_ (fun _ _ => ?_) | with_reducible apply Keeps.cond | with_reducible refine Keeps.getD ?_ (fun _ _ => ?_) | split | intro _))

theorem execSetCurator_keeps (h : Hdr) (lenMs : BitVec 16) (curate : BitVec 8) (hotMark : BitVec 16) (freezeIdle : BitVec 8) (freezeTight : BitVec 8) (balance : BitVec 8) (spillEn : BitVec 8) (s : State) {res} (h : execSetCurator h lenMs curate hotMark freezeIdle freezeTight balance spillEn s = .next res) : Keeps s res := by
  unfold execSetCurator at h
  injection h with h
  subst h
  try dsimp only
  repeat' (first | with_reducible apply Ans.keeps_after | with_reducible exact Ans.keeps_fail _ _ _ | with_reducible refine Ans.keeps_done ?_ | with_reducible refine Ans.keeps_started ?_ | with_reducible refine Ans.keeps_later ?_ | with_reducible refine Ans.keeps_ite (fun _ => ?_) (fun _ => ?_) | with_reducible exact Keeps.refl _ | with_reducible assumption | with_reducible apply Keeps.trans _ (State.command_keeps _ _ _ _ _ _) | with_reducible apply Keeps.trans _ (State.setCurator_keeps _ _ _ _ _ _ _ _) | with_reducible refine Keeps.ite (fun _ => ?_) (fun _ => ?_) | with_reducible refine Keeps.foldl ?_ (fun _ _ => ?_) | with_reducible refine Keeps.foldl_fst ?_ (fun _ _ => ?_) | with_reducible refine Keeps.foldl_snd ?_ (fun _ _ => ?_) | with_reducible apply Keeps.cond | with_reducible refine Keeps.getD ?_ (fun _ _ => ?_) | split | intro _ | (with_reducible apply Keeps.lit; (on_goal 2 => with_reducible rfl); first | with_reducible apply Ans.keeps_after | with_reducible exact Ans.keeps_fail _ _ _ | with_reducible refine Ans.keeps_done ?_ | with_reducible refine Ans.keeps_started ?_ | with_reducible refine Ans.keeps_later ?_ | with_reducible refine Ans.keeps_ite (fun _ => ?_) (fun _ => ?_) | with_reducible exact Keeps.refl _ | with_reducible assumption | with_reducible apply Keeps.trans _ (State.command_keeps _ _ _ _ _ _) | with_reducible apply Keeps.trans _ (State.setCurator_keeps _ _ _ _ _ _ _ _) | with_reducible refine Keeps.ite (fun _ => ?_) (fun _ => ?_) | with_reducible refine Keeps.foldl ?_ (fun _ _ => ?_) | with_reducible refine Keeps.foldl_fst ?_ (fun _ _ => ?_) | with_reducible refine Keeps.foldl_snd ?_ (fun _ _ => ?_) | with_reducible apply Keeps.cond | with_reducible refine Keeps.getD ?_ (fun _ _ => ?_) | split | intro _))

theorem execSetGovernor_keeps (h : Hdr) (pwr : BitVec 16) (tj : BitVec 8) (dimm : BitVec 8) (noPd : BitVec 8) (s : State) {res} (h : execSetGovernor h pwr tj dimm noPd s = .next res) : Keeps s res := by
  unfold execSetGovernor at h
  injection h with h
  subst h
  try dsimp only
  repeat' (first | with_reducible apply Ans.keeps_after | with_reducible exact Ans.keeps_fail _ _ _ | with_reducible refine Ans.keeps_done ?_ | with_reducible refine Ans.keeps_started ?_ | with_reducible refine Ans.keeps_later ?_ | with_reducible refine Ans.keeps_ite (fun _ => ?_) (fun _ => ?_) | with_reducible exact Keeps.refl _ | with_reducible assumption | with_reducible apply Keeps.trans _ (State.command_keeps _ _ _ _ _ _) | with_reducible apply Keeps.trans _ (State.writeReg_keeps _ _ _) | with_reducible refine Keeps.ite (fun _ => ?_) (fun _ => ?_) | with_reducible refine Keeps.foldl ?_ (fun _ _ => ?_) | with_reducible refine Keeps.foldl_fst ?_ (fun _ _ => ?_) | with_reducible refine Keeps.foldl_snd ?_ (fun _ _ => ?_) | with_reducible apply Keeps.cond | with_reducible refine Keeps.getD ?_ (fun _ _ => ?_) | split | intro _ | (with_reducible apply Keeps.lit; (on_goal 2 => with_reducible rfl); first | with_reducible apply Ans.keeps_after | with_reducible exact Ans.keeps_fail _ _ _ | with_reducible refine Ans.keeps_done ?_ | with_reducible refine Ans.keeps_started ?_ | with_reducible refine Ans.keeps_later ?_ | with_reducible refine Ans.keeps_ite (fun _ => ?_) (fun _ => ?_) | with_reducible exact Keeps.refl _ | with_reducible assumption | with_reducible apply Keeps.trans _ (State.command_keeps _ _ _ _ _ _) | with_reducible apply Keeps.trans _ (State.writeReg_keeps _ _ _) | with_reducible refine Keeps.ite (fun _ => ?_) (fun _ => ?_) | with_reducible refine Keeps.foldl ?_ (fun _ _ => ?_) | with_reducible refine Keeps.foldl_fst ?_ (fun _ _ => ?_) | with_reducible refine Keeps.foldl_snd ?_ (fun _ _ => ?_) | with_reducible apply Keeps.cond | with_reducible refine Keeps.getD ?_ (fun _ _ => ?_) | split | intro _))

theorem execSetLabelMap_keeps (h : Hdr) (head : BitVec 8) (dflt : BitVec 8) (entries : List (BitVec 8)) (s : State) {res} (h : execSetLabelMap h head dflt entries s = .next res) : Keeps s res := by
  unfold execSetLabelMap at h
  injection h with h
  subst h
  try dsimp only
  repeat' (first | with_reducible apply Ans.keeps_after | with_reducible exact Ans.keeps_fail _ _ _ | with_reducible refine Ans.keeps_done ?_ | with_reducible refine Ans.keeps_started ?_ | with_reducible refine Ans.keeps_later ?_ | with_reducible refine Ans.keeps_ite (fun _ => ?_) (fun _ => ?_) | with_reducible exact Keeps.refl _ | with_reducible assumption | with_reducible apply Keeps.trans _ (State.command_keeps _ _ _ _ _ _) | with_reducible apply Keeps.trans _ (State.setLabelMap_keeps _ _ _ _) | with_reducible refine Keeps.ite (fun _ => ?_) (fun _ => ?_) | with_reducible refine Keeps.foldl ?_ (fun _ _ => ?_) | with_reducible refine Keeps.foldl_fst ?_ (fun _ _ => ?_) | with_reducible refine Keeps.foldl_snd ?_ (fun _ _ => ?_) | with_reducible apply Keeps.cond | with_reducible refine Keeps.getD ?_ (fun _ _ => ?_) | split | intro _ | (with_reducible apply Keeps.lit; (on_goal 2 => with_reducible rfl); first | with_reducible apply Ans.keeps_after | with_reducible exact Ans.keeps_fail _ _ _ | with_reducible refine Ans.keeps_done ?_ | with_reducible refine Ans.keeps_started ?_ | with_reducible refine Ans.keeps_later ?_ | with_reducible refine Ans.keeps_ite (fun _ => ?_) (fun _ => ?_) | with_reducible exact Keeps.refl _ | with_reducible assumption | with_reducible apply Keeps.trans _ (State.command_keeps _ _ _ _ _ _) | with_reducible apply Keeps.trans _ (State.setLabelMap_keeps _ _ _ _) | with_reducible refine Keeps.ite (fun _ => ?_) (fun _ => ?_) | with_reducible refine Keeps.foldl ?_ (fun _ _ => ?_) | with_reducible refine Keeps.foldl_fst ?_ (fun _ _ => ?_) | with_reducible refine Keeps.foldl_snd ?_ (fun _ _ => ?_) | with_reducible apply Keeps.cond | with_reducible refine Keeps.getD ?_ (fun _ _ => ?_) | split | intro _))

theorem execSetLendClass_keeps (h : Hdr) (cls : BitVec 8) (s : State) {res} (h : execSetLendClass h cls s = .next res) : Keeps s res := by
  unfold execSetLendClass at h
  injection h with h
  subst h
  try dsimp only
  repeat' (first | with_reducible apply Ans.keeps_after | with_reducible exact Ans.keeps_fail _ _ _ | with_reducible refine Ans.keeps_done ?_ | with_reducible refine Ans.keeps_started ?_ | with_reducible refine Ans.keeps_later ?_ | with_reducible refine Ans.keeps_ite (fun _ => ?_) (fun _ => ?_) | with_reducible exact Keeps.refl _ | with_reducible assumption | with_reducible apply Keeps.trans _ (State.command_keeps _ _ _ _ _ _) | with_reducible apply Keeps.trans _ (State.wr_keeps _ _ _) | with_reducible refine Keeps.ite (fun _ => ?_) (fun _ => ?_) | with_reducible refine Keeps.foldl ?_ (fun _ _ => ?_) | with_reducible refine Keeps.foldl_fst ?_ (fun _ _ => ?_) | with_reducible refine Keeps.foldl_snd ?_ (fun _ _ => ?_) | with_reducible apply Keeps.cond | with_reducible refine Keeps.getD ?_ (fun _ _ => ?_) | split | intro _ | (with_reducible apply Keeps.lit; (on_goal 2 => with_reducible rfl); first | with_reducible apply Ans.keeps_after | with_reducible exact Ans.keeps_fail _ _ _ | with_reducible refine Ans.keeps_done ?_ | with_reducible refine Ans.keeps_started ?_ | with_reducible refine Ans.keeps_later ?_ | with_reducible refine Ans.keeps_ite (fun _ => ?_) (fun _ => ?_) | with_reducible exact Keeps.refl _ | with_reducible assumption | with_reducible apply Keeps.trans _ (State.command_keeps _ _ _ _ _ _) | with_reducible apply Keeps.trans _ (State.wr_keeps _ _ _) | with_reducible refine Keeps.ite (fun _ => ?_) (fun _ => ?_) | with_reducible refine Keeps.foldl ?_ (fun _ _ => ?_) | with_reducible refine Keeps.foldl_fst ?_ (fun _ _ => ?_) | with_reducible refine Keeps.foldl_snd ?_ (fun _ _ => ?_) | with_reducible apply Keeps.cond | with_reducible refine Keeps.getD ?_ (fun _ _ => ?_) | split | intro _))

theorem execSetRegionPlacement_keeps (h : Hdr) (region : BitVec 16) (place : BitVec 8) (spillOk : BitVec 8) (mask : BitVec 16) (s : State) {res} (h : execSetRegionPlacement h region place spillOk mask s = .next res) : Keeps s res := by
  unfold execSetRegionPlacement at h
  injection h with h
  subst h
  try dsimp only
  repeat' (first | with_reducible apply Ans.keeps_after | with_reducible exact Ans.keeps_fail _ _ _ | with_reducible refine Ans.keeps_done ?_ | with_reducible refine Ans.keeps_started ?_ | with_reducible refine Ans.keeps_later ?_ | with_reducible refine Ans.keeps_ite (fun _ => ?_) (fun _ => ?_) | with_reducible exact Keeps.refl _ | with_reducible assumption | with_reducible apply Keeps.trans _ (State.command_keeps _ _ _ _ _ _) | with_reducible apply Keeps.trans _ (State.updRegion_keeps _ _ _) | with_reducible refine Keeps.ite (fun _ => ?_) (fun _ => ?_) | with_reducible refine Keeps.foldl ?_ (fun _ _ => ?_) | with_reducible refine Keeps.foldl_fst ?_ (fun _ _ => ?_) | with_reducible refine Keeps.foldl_snd ?_ (fun _ _ => ?_) | with_reducible apply Keeps.cond | with_reducible refine Keeps.getD ?_ (fun _ _ => ?_) | split | intro _ | (with_reducible apply Keeps.lit; (on_goal 2 => with_reducible rfl); first | with_reducible apply Ans.keeps_after | with_reducible exact Ans.keeps_fail _ _ _ | with_reducible refine Ans.keeps_done ?_ | with_reducible refine Ans.keeps_started ?_ | with_reducible refine Ans.keeps_later ?_ | with_reducible refine Ans.keeps_ite (fun _ => ?_) (fun _ => ?_) | with_reducible exact Keeps.refl _ | with_reducible assumption | with_reducible apply Keeps.trans _ (State.command_keeps _ _ _ _ _ _) | with_reducible apply Keeps.trans _ (State.updRegion_keeps _ _ _) | with_reducible refine Keeps.ite (fun _ => ?_) (fun _ => ?_) | with_reducible refine Keeps.foldl ?_ (fun _ _ => ?_) | with_reducible refine Keeps.foldl_fst ?_ (fun _ _ => ?_) | with_reducible refine Keeps.foldl_snd ?_ (fun _ _ => ?_) | with_reducible apply Keeps.cond | with_reducible refine Keeps.getD ?_ (fun _ _ => ?_) | split | intro _))

end Sys2Proof.Machine
end

