-- ==== Sys2Proof/Laws/KeepsKeys.lean ====
section
/-! SUPPORT. Every operation of Machine/Keys.lean keeps what `Keeps` says: one lemma for each. -/
namespace Sys2Proof.Machine
set_option linter.unreachableTactic false
set_option linter.unusedTactic false

theorem State.addRegion_keeps (s : State) (i : Nat) (r : Region) : Keeps s (State.addRegion s i r) := by
  unfold State.addRegion
  try dsimp only
  repeat' (first | with_reducible exact Keeps.refl _ | with_reducible apply Keeps.trans _ (State.newSlot_keeps _ _ _) | with_reducible refine Keeps.ite (fun _ => ?_) (fun _ => ?_) | split | (with_reducible apply Keeps.lit; (on_goal 2 => with_reducible rfl); first | with_reducible exact Keeps.refl _ | with_reducible apply Keeps.trans _ (State.newSlot_keeps _ _ _) | with_reducible refine Keeps.ite (fun _ => ?_) (fun _ => ?_) | split))

theorem State.flushKey_keeps (s : State) (k : Nat) (n : Nat) : Keeps s (State.flushKey s k n) := by
  unfold State.flushKey
  try dsimp only
  repeat' (first | with_reducible exact Keeps.refl _ | with_reducible assumption | with_reducible apply Keeps.trans _ (State.drawSlot_keeps _ _ _) | with_reducible apply Keeps.trans _ (State.retireCheck_keeps _ _ _) | with_reducible apply Keeps.trans _ (State.updKey_keeps _ _ _) | with_reducible apply Keeps.trans _ (State.updRegion_keeps _ _ _) | with_reducible refine Keeps.ite (fun _ => ?_) (fun _ => ?_) | with_reducible refine Keeps.foldl ?_ (fun _ _ => ?_) | split | (with_reducible apply Keeps.lit; (on_goal 2 => with_reducible rfl); first | with_reducible exact Keeps.refl _ | with_reducible assumption | with_reducible apply Keeps.trans _ (State.drawSlot_keeps _ _ _) | with_reducible apply Keeps.trans _ (State.retireCheck_keeps _ _ _) | with_reducible apply Keeps.trans _ (State.updKey_keeps _ _ _) | with_reducible apply Keeps.trans _ (State.updRegion_keeps _ _ _) | with_reducible refine Keeps.ite (fun _ => ?_) (fun _ => ?_) | with_reducible refine Keeps.foldl ?_ (fun _ _ => ?_) | split))

theorem State.removeRegion_keeps (s : State) (i : Nat) (r : Region) : Keeps s (State.removeRegion s i r) := by
  unfold State.removeRegion
  try dsimp only
  repeat' (first | with_reducible exact Keeps.refl _ | with_reducible assumption | with_reducible apply Keeps.trans _ (State.dropGather_keeps _ _) | with_reducible apply Keeps.trans _ (State.endPage_keeps _ _) | with_reducible apply Keeps.trans _ (State.freeCopy_keeps _ _) | with_reducible apply Keeps.trans _ (State.retireCheck_keeps _ _ _) | with_reducible apply Keeps.trans _ (State.updKey_keeps _ _ _) | with_reducible refine Keeps.ite (fun _ => ?_) (fun _ => ?_) | with_reducible refine Keeps.foldl ?_ (fun _ _ => ?_) | split | (with_reducible apply Keeps.lit; (on_goal 2 => with_reducible rfl); first | with_reducible exact Keeps.refl _ | with_reducible assumption | with_reducible apply Keeps.trans _ (State.dropGather_keeps _ _) | with_reducible apply Keeps.trans _ (State.endPage_keeps _ _) | with_reducible apply Keeps.trans _ (State.freeCopy_keeps _ _) | with_reducible apply Keeps.trans _ (State.retireCheck_keeps _ _ _) | with_reducible apply Keeps.trans _ (State.updKey_keeps _ _ _) | with_reducible refine Keeps.ite (fun _ => ?_) (fun _ => ?_) | with_reducible refine Keeps.foldl ?_ (fun _ _ => ?_) | split))

theorem execAllocateKey_keeps (h : Hdr) (s : State) {res : State} (hx : execAllocateKey h s = .next res) : Keeps s res := by
  unfold execAllocateKey at hx
  injection hx with hx
  subst hx
  refine State.command_keeps _ _ _ _ _ ?_
  generalize s.freeKey = o
  cases o with
  | none => exact trivial
  | some k => exact State.drawSlot_keeps _ _ _

theorem execCreateLendRegion_keeps (h : Hdr) (dpa : BitVec 64) (len : BitVec 32) (cls : BitVec 8) (slot : BitVec 16) (s : State) {res} (h : execCreateLendRegion h dpa len cls slot s = .next res) : Keeps s res := by
  unfold execCreateLendRegion at h
  injection h with h
  subst h
  try dsimp only
  repeat' (first | with_reducible apply Ans.keeps_after | with_reducible exact Ans.keeps_fail _ _ _ | with_reducible refine Ans.keeps_done ?_ | with_reducible refine Ans.keeps_started ?_ | with_reducible refine Ans.keeps_later ?_ | with_reducible refine Ans.keeps_ite (fun _ => ?_) (fun _ => ?_) | with_reducible exact Keeps.refl _ | with_reducible assumption | with_reducible apply Keeps.trans _ (State.addRegion_keeps _ _ _) | with_reducible apply Keeps.trans _ (State.command_keeps _ _ _ _ _ _) | with_reducible apply Keeps.trans _ (State.showLend_keeps _) | with_reducible refine Keeps.ite (fun _ => ?_) (fun _ => ?_) | with_reducible refine Keeps.foldl ?_ (fun _ _ => ?_) | with_reducible refine Keeps.foldl_fst ?_ (fun _ _ => ?_) | with_reducible refine Keeps.foldl_snd ?_ (fun _ _ => ?_) | with_reducible apply Keeps.cond | with_reducible refine Keeps.getD ?_ (fun _ _ => ?_) | split | intro _ | (with_reducible apply Keeps.lit; (on_goal 2 => with_reducible rfl); first | with_reducible apply Ans.keeps_after | with_reducible exact Ans.keeps_fail _ _ _ | with_reducible refine Ans.keeps_done ?_ | with_reducible refine Ans.keeps_started ?_ | with_reducible refine Ans.keeps_later ?_ | with_reducible refine Ans.keeps_ite (fun _ => ?_) (fun _ => ?_) | with_reducible exact Keeps.refl _ | with_reducible assumption | with_reducible apply Keeps.trans _ (State.addRegion_keeps _ _ _) | with_reducible apply Keeps.trans _ (State.command_keeps _ _ _ _ _ _) | with_reducible apply Keeps.trans _ (State.showLend_keeps _) | with_reducible refine Keeps.ite (fun _ => ?_) (fun _ => ?_) | with_reducible refine Keeps.foldl ?_ (fun _ _ => ?_) | with_reducible refine Keeps.foldl_fst ?_ (fun _ _ => ?_) | with_reducible refine Keeps.foldl_snd ?_ (fun _ _ => ?_) | with_reducible apply Keeps.cond | with_reducible refine Keeps.getD ?_ (fun _ _ => ?_) | split | intro _))

theorem execCreateRegion_keeps (h : Hdr) (dpa : BitVec 64) (len : BitVec 32) (model : BitVec 8) (cls : BitVec 8) (slot : BitVec 16) (place : BitVec 8) (spillOk : BitVec 8) (mask : BitVec 16) (s : State) {res} (h : execCreateRegion h dpa len model cls slot place spillOk mask s = .next res) : Keeps s res := by
  unfold execCreateRegion at h
  injection h with h
  subst h
  try dsimp only
  repeat' (first | with_reducible apply Ans.keeps_after | with_reducible exact Ans.keeps_fail _ _ _ | with_reducible refine Ans.keeps_done ?_ | with_reducible refine Ans.keeps_started ?_ | with_reducible refine Ans.keeps_later ?_ | with_reducible refine Ans.keeps_ite (fun _ => ?_) (fun _ => ?_) | with_reducible exact Keeps.refl _ | with_reducible assumption | with_reducible apply Keeps.trans _ (State.addRegion_keeps _ _ _) | with_reducible apply Keeps.trans _ (State.command_keeps _ _ _ _ _ _) | with_reducible refine Keeps.ite (fun _ => ?_) (fun _ => ?_) | with_reducible refine Keeps.foldl ?_ (fun _ _ => ?_) | with_reducible refine Keeps.foldl_fst ?_ (fun _ _ => ?_) | with_reducible refine Keeps.foldl_snd ?_ (fun _ _ => ?_) | with_reducible apply Keeps.cond | with_reducible refine Keeps.getD ?_ (fun _ _ => ?_) | split | intro _ | (with_reducible apply Keeps.lit; (on_goal 2 => with_reducible rfl); first | with_reducible apply Ans.keeps_after | with_reducible exact Ans.keeps_fail _ _ _ | with_reducible refine Ans.keeps_done ?_ | with_reducible refine Ans.keeps_started ?_ | with_reducible refine Ans.keeps_later ?_ | with_reducible refine Ans.keeps_ite (fun _ => ?_) (fun _ => ?_) | with_reducible exact Keeps.refl _ | with_reducible assumption | with_reducible apply Keeps.trans _ (State.addRegion_keeps _ _ _) | with_reducible apply Keeps.trans _ (State.command_keeps _ _ _ _ _ _) | with_reducible refine Keeps.ite (fun _ => ?_) (fun _ => ?_) | with_reducible refine Keeps.foldl ?_ (fun _ _ => ?_) | with_reducible refine Keeps.foldl_fst ?_ (fun _ _ => ?_) | with_reducible refine Keeps.foldl_snd ?_ (fun _ _ => ?_) | with_reducible apply Keeps.cond | with_reducible refine Keeps.getD ?_ (fun _ _ => ?_) | split | intro _))

theorem execDeleteLendRegion_keeps (h : Hdr) (s : State) {res} (h : execDeleteLendRegion h s = .next res) : Keeps s res := by
  unfold execDeleteLendRegion at h
  injection h with h
  subst h
  try dsimp only
  repeat' (first | with_reducible apply Ans.keeps_after | with_reducible exact Ans.keeps_fail _ _ _ | with_reducible refine Ans.keeps_done ?_ | with_reducible refine Ans.keeps_started ?_ | with_reducible refine Ans.keeps_later ?_ | with_reducible refine Ans.keeps_ite (fun _ => ?_) (fun _ => ?_) | with_reducible exact Keeps.refl _ | with_reducible apply Keeps.trans _ (State.command_keeps _ _ _ _ _ _) | with_reducible apply Keeps.trans _ (State.removeRegion_keeps _ _ _) | with_reducible apply Keeps.trans _ (State.showLend_keeps _) | with_reducible refine Keeps.ite (fun _ => ?_) (fun _ => ?_) | split | intro _ | (with_reducible apply Keeps.lit; (on_goal 2 => with_reducible rfl); first | with_reducible apply Ans.keeps_after | with_reducible exact Ans.keeps_fail _ _ _ | with_reducible refine Ans.keeps_done ?_ | with_reducible refine Ans.keeps_started ?_ | with_reducible refine Ans.keeps_later ?_ | with_reducible refine Ans.keeps_ite (fun _ => ?_) (fun _ => ?_) | with_reducible exact Keeps.refl _ | with_reducible apply Keeps.trans _ (State.command_keeps _ _ _ _ _ _) | with_reducible apply Keeps.trans _ (State.removeRegion_keeps _ _ _) | with_reducible apply Keeps.trans _ (State.showLend_keeps _) | with_reducible refine Keeps.ite (fun _ => ?_) (fun _ => ?_) | split | intro _))

theorem execDeleteRegion_keeps (h : Hdr) (region : BitVec 16) (s : State) {res} (h : execDeleteRegion h region s = .next res) : Keeps s res := by
  unfold execDeleteRegion at h
  injection h with h
  subst h
  try dsimp only
  repeat' (first | with_reducible apply Ans.keeps_after | with_reducible exact Ans.keeps_fail _ _ _ | with_reducible refine Ans.keeps_done ?_ | with_reducible refine Ans.keeps_started ?_ | with_reducible refine Ans.keeps_later ?_ | with_reducible refine Ans.keeps_ite (fun _ => ?_) (fun _ => ?_) | with_reducible exact Keeps.refl _ | with_reducible assumption | with_reducible apply Keeps.trans _ (State.command_keeps _ _ _ _ _ _) | with_reducible apply Keeps.trans _ (State.removeRegion_keeps _ _ _) | with_reducible refine Keeps.ite (fun _ => ?_) (fun _ => ?_) | with_reducible refine Keeps.foldl ?_ (fun _ _ => ?_) | with_reducible refine Keeps.foldl_fst ?_ (fun _ _ => ?_) | with_reducible refine Keeps.foldl_snd ?_ (fun _ _ => ?_) | with_reducible apply Keeps.cond | with_reducible refine Keeps.getD ?_ (fun _ _ => ?_) | split | intro _ | (with_reducible apply Keeps.lit; (on_goal 2 => with_reducible rfl); first | with_reducible apply Ans.keeps_after | with_reducible exact Ans.keeps_fail _ _ _ | with_reducible refine Ans.keeps_done ?_ | with_reducible refine Ans.keeps_started ?_ | with_reducible refine Ans.keeps_later ?_ | with_reducible refine Ans.keeps_ite (fun _ => ?_) (fun _ => ?_) | with_reducible exact Keeps.refl _ | with_reducible assumption | with_reducible apply Keeps.trans _ (State.command_keeps _ _ _ _ _ _) | with_reducible apply Keeps.trans _ (State.removeRegion_keeps _ _ _) | with_reducible refine Keeps.ite (fun _ => ?_) (fun _ => ?_) | with_reducible refine Keeps.foldl ?_ (fun _ _ => ?_) | with_reducible refine Keeps.foldl_fst ?_ (fun _ _ => ?_) | with_reducible refine Keeps.foldl_snd ?_ (fun _ _ => ?_) | with_reducible apply Keeps.cond | with_reducible refine Keeps.getD ?_ (fun _ _ => ?_) | split | intro _))

theorem execFlushKey_keeps (h : Hdr) (slot : BitVec 16) (s : State) {res : State} (hx : execFlushKey h slot s = .next res) : Keeps s res := by
  unfold execFlushKey at hx
  injection hx with hx
  subst hx
  refine State.command_keeps _ _ _ _ _ (Ans.keeps_after _ ?_)
  generalize s.freeKey = o
  cases o with
  | none => exact trivial
  | some k => exact State.flushKey_keeps _ _ _

theorem execFreeKey_keeps (h : Hdr) (slot : BitVec 16) (s : State) {res} (h : execFreeKey h slot s = .next res) : Keeps s res := by
  unfold execFreeKey at h
  injection h with h
  subst h
  try dsimp only
  repeat' (first | with_reducible apply Ans.keeps_after | with_reducible exact Ans.keeps_fail _ _ _ | with_reducible refine Ans.keeps_done ?_ | with_reducible refine Ans.keeps_started ?_ | with_reducible refine Ans.keeps_later ?_ | with_reducible refine Ans.keeps_ite (fun _ => ?_) (fun _ => ?_) | with_reducible exact Keeps.refl _ | with_reducible assumption | with_reducible apply Keeps.trans _ (State.command_keeps _ _ _ _ _ _) | with_reducible apply Keeps.trans _ (State.updKey_keeps _ _ _) | with_reducible refine Keeps.ite (fun _ => ?_) (fun _ => ?_) | with_reducible refine Keeps.foldl ?_ (fun _ _ => ?_) | with_reducible refine Keeps.foldl_fst ?_ (fun _ _ => ?_) | with_reducible refine Keeps.foldl_snd ?_ (fun _ _ => ?_) | with_reducible apply Keeps.cond | with_reducible refine Keeps.getD ?_ (fun _ _ => ?_) | split | intro _ | (with_reducible apply Keeps.lit; (on_goal 2 => with_reducible rfl); first | with_reducible apply Ans.keeps_after | with_reducible exact Ans.keeps_fail _ _ _ | with_reducible refine Ans.keeps_done ?_ | with_reducible refine Ans.keeps_started ?_ | with_reducible refine Ans.keeps_later ?_ | with_reducible refine Ans.keeps_ite (fun _ => ?_) (fun _ => ?_) | with_reducible exact Keeps.refl _ | with_reducible assumption | with_reducible apply Keeps.trans _ (State.command_keeps _ _ _ _ _ _) | with_reducible apply Keeps.trans _ (State.updKey_keeps _ _ _) | with_reducible refine Keeps.ite (fun _ => ?_) (fun _ => ?_) | with_reducible refine Keeps.foldl ?_ (fun _ _ => ?_) | with_reducible refine Keeps.foldl_fst ?_ (fun _ _ => ?_) | with_reducible refine Keeps.foldl_snd ?_ (fun _ _ => ?_) | with_reducible apply Keeps.cond | with_reducible refine Keeps.getD ?_ (fun _ _ => ?_) | split | intro _))

theorem execGetKeyStatus_keeps (h : Hdr) (slot : BitVec 16) (s : State) {res} (h : execGetKeyStatus h slot s = .next res) : Keeps s res := by
  unfold execGetKeyStatus at h
  injection h with h
  subst h
  try dsimp only
  repeat' (first | with_reducible apply Ans.keeps_after | with_reducible exact Ans.keeps_fail _ _ _ | with_reducible refine Ans.keeps_done ?_ | with_reducible refine Ans.keeps_started ?_ | with_reducible refine Ans.keeps_later ?_ | with_reducible refine Ans.keeps_ite (fun _ => ?_) (fun _ => ?_) | with_reducible exact Keeps.refl _ | with_reducible assumption | with_reducible apply Keeps.trans _ (State.command_keeps _ _ _ _ _ _) | with_reducible refine Keeps.ite (fun _ => ?_) (fun _ => ?_) | with_reducible refine Keeps.foldl ?_ (fun _ _ => ?_) | with_reducible refine Keeps.foldl_fst ?_ (fun _ _ => ?_) | with_reducible refine Keeps.foldl_snd ?_ (fun _ _ => ?_) | with_reducible apply Keeps.cond | with_reducible refine Keeps.getD ?_ (fun _ _ => ?_) | split | intro _ | (with_reducible apply Keeps.lit; (on_goal 2 => with_reducible rfl); first | with_reducible apply Ans.keeps_after | with_reducible exact Ans.keeps_fail _ _ _ | with_reducible refine Ans.keeps_done ?_ | with_reducible refine Ans.keeps_started ?_ | with_reducible refine Ans.keeps_later ?_ | with_reducible refine Ans.keeps_ite (fun _ => ?_) (fun _ => ?_) | with_reducible exact Keeps.refl _ | with_reducible assumption | with_reducible apply Keeps.trans _ (State.command_keeps _ _ _ _ _ _) | with_reducible refine Keeps.ite (fun _ => ?_) (fun _ => ?_) | with_reducible refine Keeps.foldl ?_ (fun _ _ => ?_) | with_reducible refine Keeps.foldl_fst ?_ (fun _ _ => ?_) | with_reducible refine Keeps.foldl_snd ?_ (fun _ _ => ?_) | with_reducible apply Keeps.cond | with_reducible refine Keeps.getD ?_ (fun _ _ => ?_) | split | intro _))

theorem execGetLosses_keeps (h : Hdr) (s : State) {res} (h : execGetLosses h s = .next res) : Keeps s res := by
  unfold execGetLosses at h
  injection h with h
  subst h
  try dsimp only
  repeat' (first | with_reducible apply Ans.keeps_after | with_reducible exact Ans.keeps_fail _ _ _ | with_reducible refine Ans.keeps_done ?_ | with_reducible refine Ans.keeps_started ?_ | with_reducible refine Ans.keeps_later ?_ | with_reducible refine Ans.keeps_ite (fun _ => ?_) (fun _ => ?_) | with_reducible exact Keeps.refl _ | with_reducible assumption | with_reducible apply Keeps.trans _ (State.command_keeps _ _ _ _ _ _) | with_reducible apply Keeps.trans _ (State.advanceFree_keeps _) | with_reducible refine Keeps.ite (fun _ => ?_) (fun _ => ?_) | with_reducible refine Keeps.foldl ?_ (fun _ _ => ?_) | with_reducible refine Keeps.foldl_fst ?_ (fun _ _ => ?_) | with_reducible refine Keeps.foldl_snd ?_ (fun _ _ => ?_) | with_reducible apply Keeps.cond | with_reducible refine Keeps.getD ?_ (fun _ _ => ?_) | split | intro _ | (with_reducible apply Keeps.lit; (on_goal 2 => with_reducible rfl); first | with_reducible apply Ans.keeps_after | with_reducible exact Ans.keeps_fail _ _ _ | with_reducible refine Ans.keeps_done ?_ | with_reducible refine Ans.keeps_started ?_ | with_reducible refine Ans.keeps_later ?_ | with_reducible refine Ans.keeps_ite (fun _ => ?_) (fun _ => ?_) | with_reducible exact Keeps.refl _ | with_reducible assumption | with_reducible apply Keeps.trans _ (State.command_keeps _ _ _ _ _ _) | with_reducible apply Keeps.trans _ (State.advanceFree_keeps _) | with_reducible refine Keeps.ite (fun _ => ?_) (fun _ => ?_) | with_reducible refine Keeps.foldl ?_ (fun _ _ => ?_) | with_reducible refine Keeps.foldl_fst ?_ (fun _ _ => ?_) | with_reducible refine Keeps.foldl_snd ?_ (fun _ _ => ?_) | with_reducible apply Keeps.cond | with_reducible refine Keeps.getD ?_ (fun _ _ => ?_) | split | intro _))

theorem execGetRegion_keeps (h : Hdr) (region : BitVec 16) (s : State) {res} (h : execGetRegion h region s = .next res) : Keeps s res := by
  unfold execGetRegion at h
  injection h with h
  subst h
  try dsimp only
  repeat' (first | with_reducible apply Ans.keeps_after | with_reducible exact Ans.keeps_fail _ _ _ | with_reducible refine Ans.keeps_done ?_ | with_reducible refine Ans.keeps_started ?_ | with_reducible refine Ans.keeps_later ?_ | with_reducible refine Ans.keeps_ite (fun _ => ?_) (fun _ => ?_) | with_reducible exact Keeps.refl _ | with_reducible assumption | with_reducible apply Keeps.trans _ (State.command_keeps _ _ _ _ _ _) | with_reducible refine Keeps.ite (fun _ => ?_) (fun _ => ?_) | with_reducible refine Keeps.foldl ?_ (fun _ _ => ?_) | with_reducible refine Keeps.foldl_fst ?_ (fun _ _ => ?_) | with_reducible refine Keeps.foldl_snd ?_ (fun _ _ => ?_) | with_reducible apply Keeps.cond | with_reducible refine Keeps.getD ?_ (fun _ _ => ?_) | split | intro _ | (with_reducible apply Keeps.lit; (on_goal 2 => with_reducible rfl); first | with_reducible apply Ans.keeps_after | with_reducible exact Ans.keeps_fail _ _ _ | with_reducible refine Ans.keeps_done ?_ | with_reducible refine Ans.keeps_started ?_ | with_reducible refine Ans.keeps_later ?_ | with_reducible refine Ans.keeps_ite (fun _ => ?_) (fun _ => ?_) | with_reducible exact Keeps.refl _ | with_reducible assumption | with_reducible apply Keeps.trans _ (State.command_keeps _ _ _ _ _ _) | with_reducible refine Keeps.ite (fun _ => ?_) (fun _ => ?_) | with_reducible refine Keeps.foldl ?_ (fun _ _ => ?_) | with_reducible refine Keeps.foldl_fst ?_ (fun _ _ => ?_) | with_reducible refine Keeps.foldl_snd ?_ (fun _ _ => ?_) | with_reducible apply Keeps.cond | with_reducible refine Keeps.getD ?_ (fun _ _ => ?_) | split | intro _))

end Sys2Proof.Machine
end

