-- ==== Sys2Proof/Laws/KeepsService.lean ====
section
/-! SUPPORT. Every operation of Machine/Service.lean keeps what `Keeps` says: one lemma for each. -/
namespace Sys2Proof.Machine
set_option linter.unreachableTactic false
set_option linter.unusedTactic false

theorem State.makeQueue_keeps (s : State) (q : Nat) (i : Nat) (ring : Nat) (log2 : Nat) : Keeps s (State.makeQueue s q i ring log2) := by
  unfold State.makeQueue
  try dsimp only
  repeat' (first | with_reducible exact Keeps.refl _ | with_reducible assumption | with_reducible apply Keeps.trans _ (State.setDword_keeps _ _ _) | with_reducible apply Keeps.trans _ (State.setFlag_keeps _ _ _) | with_reducible apply Keeps.trans _ (State.wr_keeps _ _ _) | with_reducible apply Keeps.trans _ (State.setWord_keeps _ _ _) | with_reducible refine Keeps.ite (fun _ => ?_) (fun _ => ?_) | with_reducible refine Keeps.foldl ?_ (fun _ _ => ?_) | with_reducible refine Keeps.foldl_fst ?_ (fun _ _ => ?_) | with_reducible refine Keeps.foldl_snd ?_ (fun _ _ => ?_) | with_reducible apply Keeps.cond | with_reducible refine Keeps.getD ?_ (fun _ _ => ?_) | split | (with_reducible apply Keeps.lit; (on_goal 2 => with_reducible rfl); first | with_reducible exact Keeps.refl _ | with_reducible assumption | with_reducible apply Keeps.trans _ (State.setDword_keeps _ _ _) | with_reducible apply Keeps.trans _ (State.setFlag_keeps _ _ _) | with_reducible apply Keeps.trans _ (State.wr_keeps _ _ _) | with_reducible apply Keeps.trans _ (State.setWord_keeps _ _ _) | with_reducible refine Keeps.ite (fun _ => ?_) (fun _ => ?_) | with_reducible refine Keeps.foldl ?_ (fun _ _ => ?_) | with_reducible refine Keeps.foldl_fst ?_ (fun _ _ => ?_) | with_reducible refine Keeps.foldl_snd ?_ (fun _ _ => ?_) | with_reducible apply Keeps.cond | with_reducible refine Keeps.getD ?_ (fun _ _ => ?_) | split))

theorem State.placePpr_keeps (s : State) (c : Nat) (j : Nat) (lr : Nat) (sub : Nat) (bg : Nat) (ba : Nat) (row : Nat) (dev : Nat) : Keeps s (State.placePpr s c j lr sub bg ba row dev) := by
  unfold State.placePpr
  repeat' (first | with_reducible exact Keeps.refl _ | with_reducible apply Keeps.trans _ (State.setFlag_keeps _ _ _) | with_reducible apply Keeps.trans _ (State.wr_keeps _ _ _))

theorem State.startPass_keeps (s : State) (h : Hdr) (n : Nat) (space : Nat) (dpa : Nat) (len : Nat) : Keeps s (State.startPass s h n space dpa len) := by
  unfold State.startPass
  repeat' (first | with_reducible exact Keeps.refl _ | (with_reducible apply Keeps.lit; (on_goal 2 => with_reducible rfl); first | with_reducible exact Keeps.refl _))

theorem State.stopPass_keeps (s : State) (b : Bg) : Keeps s (State.stopPass s b) := by
  unfold State.stopPass
  try dsimp only
  repeat' (first | with_reducible exact Keeps.refl _ | with_reducible apply Keeps.trans _ (State.updPass_keeps _ _ _) | with_reducible refine Keeps.ite (fun _ => ?_) (fun _ => ?_) | split | (with_reducible apply Keeps.lit; (on_goal 2 => with_reducible rfl); first | with_reducible exact Keeps.refl _ | with_reducible apply Keeps.trans _ (State.updPass_keeps _ _ _) | with_reducible refine Keeps.ite (fun _ => ?_) (fun _ => ?_) | split))

theorem State.thawCeLog_keeps (s : State) (c : Nat) : Keeps s (State.thawCeLog s c) := by
  unfold State.thawCeLog
  repeat' (first | with_reducible exact Keeps.refl _ | with_reducible apply Keeps.trans _ (State.setFlag_keeps _ _ _) | with_reducible apply Keeps.trans _ (State.updCh_keeps _ _ _))

theorem execCancelScrub_keeps (h : Hdr) (s : State) {res} (h : execCancelScrub h s = .next res) : Keeps s res := by
  unfold execCancelScrub at h
  injection h with h
  subst h
  try dsimp only
  repeat' (first | with_reducible apply Ans.keeps_after | with_reducible exact Ans.keeps_fail _ _ _ | with_reducible refine Ans.keeps_done ?_ | with_reducible refine Ans.keeps_started ?_ | with_reducible refine Ans.keeps_later ?_ | with_reducible refine Ans.keeps_ite (fun _ => ?_) (fun _ => ?_) | with_reducible exact Keeps.refl _ | with_reducible apply Keeps.trans _ (State.command_keeps _ _ _ _ _ _) | with_reducible apply Keeps.trans _ (State.stopPass_keeps _ _) | with_reducible refine Keeps.ite (fun _ => ?_) (fun _ => ?_) | split | intro _ | (with_reducible apply Keeps.lit; (on_goal 2 => with_reducible rfl); first | with_reducible apply Ans.keeps_after | with_reducible exact Ans.keeps_fail _ _ _ | with_reducible refine Ans.keeps_done ?_ | with_reducible refine Ans.keeps_started ?_ | with_reducible refine Ans.keeps_later ?_ | with_reducible refine Ans.keeps_ite (fun _ => ?_) (fun _ => ?_) | with_reducible exact Keeps.refl _ | with_reducible apply Keeps.trans _ (State.command_keeps _ _ _ _ _ _) | with_reducible apply Keeps.trans _ (State.stopPass_keeps _ _) | with_reducible refine Keeps.ite (fun _ => ?_) (fun _ => ?_) | split | intro _))

theorem execCreateQueue_keeps (h : Hdr) (ring : BitVec 64) (log2 : BitVec 8) (s : State) {res} (h : execCreateQueue h ring log2 s = .next res) : Keeps s res := by
  unfold execCreateQueue at h
  injection h with h
  subst h
  try dsimp only
  repeat' (first | with_reducible apply Ans.keeps_after | with_reducible exact Ans.keeps_fail _ _ _ | with_reducible refine Ans.keeps_done ?_ | with_reducible refine Ans.keeps_started ?_ | with_reducible refine Ans.keeps_later ?_ | with_reducible refine Ans.keeps_ite (fun _ => ?_) (fun _ => ?_) | with_reducible exact Keeps.refl _ | with_reducible assumption | with_reducible apply Keeps.trans _ (State.command_keeps _ _ _ _ _ _) | with_reducible apply Keeps.trans _ (State.makeQueue_keeps _ _ _ _ _) | with_reducible refine Keeps.ite (fun _ => ?_) (fun _ => ?_) | with_reducible refine Keeps.foldl ?_ (fun _ _ => ?_) | with_reducible refine Keeps.foldl_fst ?_ (fun _ _ => ?_) | with_reducible refine Keeps.foldl_snd ?_ (fun _ _ => ?_) | with_reducible apply Keeps.cond | with_reducible refine Keeps.getD ?_ (fun _ _ => ?_) | split | intro _ | (with_reducible apply Keeps.lit; (on_goal 2 => with_reducible rfl); first | with_reducible apply Ans.keeps_after | with_reducible exact Ans.keeps_fail _ _ _ | with_reducible refine Ans.keeps_done ?_ | with_reducible refine Ans.keeps_started ?_ | with_reducible refine Ans.keeps_later ?_ | with_reducible refine Ans.keeps_ite (fun _ => ?_) (fun _ => ?_) | with_reducible exact Keeps.refl _ | with_reducible assumption | with_reducible apply Keeps.trans _ (State.command_keeps _ _ _ _ _ _) | with_reducible apply Keeps.trans _ (State.makeQueue_keeps _ _ _ _ _) | with_reducible refine Keeps.ite (fun _ => ?_) (fun _ => ?_) | with_reducible refine Keeps.foldl ?_ (fun _ _ => ?_) | with_reducible refine Keeps.foldl_fst ?_ (fun _ _ => ?_) | with_reducible refine Keeps.foldl_snd ?_ (fun _ _ => ?_) | with_reducible apply Keeps.cond | with_reducible refine Keeps.getD ?_ (fun _ _ => ?_) | split | intro _))

theorem execDeleteQueue_keeps (h : Hdr) (q : BitVec 8) (s : State) {res} (h : execDeleteQueue h q s = .next res) : Keeps s res := by
  unfold execDeleteQueue at h
  injection h with h
  subst h
  try dsimp only
  repeat' (first | with_reducible apply Ans.keeps_after | with_reducible exact Ans.keeps_fail _ _ _ | with_reducible refine Ans.keeps_done ?_ | with_reducible refine Ans.keeps_started ?_ | with_reducible refine Ans.keeps_later ?_ | with_reducible refine Ans.keeps_ite (fun _ => ?_) (fun _ => ?_) | with_reducible exact Keeps.refl _ | with_reducible assumption | with_reducible apply Keeps.trans _ (State.command_keeps _ _ _ _ _ _) | with_reducible apply Keeps.trans _ (State.deleteQueue_keeps _ _ _) | with_reducible refine Keeps.ite (fun _ => ?_) (fun _ => ?_) | with_reducible refine Keeps.foldl ?_ (fun _ _ => ?_) | with_reducible refine Keeps.foldl_fst ?_ (fun _ _ => ?_) | with_reducible refine Keeps.foldl_snd ?_ (fun _ _ => ?_) | with_reducible apply Keeps.cond | with_reducible refine Keeps.getD ?_ (fun _ _ => ?_) | split | intro _ | (with_reducible apply Keeps.lit; (on_goal 2 => with_reducible rfl); first | with_reducible apply Ans.keeps_after | with_reducible exact Ans.keeps_fail _ _ _ | with_reducible refine Ans.keeps_done ?_ | with_reducible refine Ans.keeps_started ?_ | with_reducible refine Ans.keeps_later ?_ | with_reducible refine Ans.keeps_ite (fun _ => ?_) (fun _ => ?_) | with_reducible exact Keeps.refl _ | with_reducible assumption | with_reducible apply Keeps.trans _ (State.command_keeps _ _ _ _ _ _) | with_reducible apply Keeps.trans _ (State.deleteQueue_keeps _ _ _) | with_reducible refine Keeps.ite (fun _ => ?_) (fun _ => ?_) | with_reducible refine Keeps.foldl ?_ (fun _ _ => ?_) | with_reducible refine Keeps.foldl_fst ?_ (fun _ _ => ?_) | with_reducible refine Keeps.foldl_snd ?_ (fun _ _ => ?_) | with_reducible apply Keeps.cond | with_reducible refine Keeps.getD ?_ (fun _ _ => ?_) | split | intro _))

theorem execGetErrors_keeps (h : Hdr) (ch : BitVec 8) (s : State) {res} (h : execGetErrors h ch s = .next res) : Keeps s res := by
  unfold execGetErrors at h
  injection h with h
  subst h
  try dsimp only
  repeat' (first | with_reducible apply Ans.keeps_after | with_reducible exact Ans.keeps_fail _ _ _ | with_reducible refine Ans.keeps_done ?_ | with_reducible refine Ans.keeps_started ?_ | with_reducible refine Ans.keeps_later ?_ | with_reducible refine Ans.keeps_ite (fun _ => ?_) (fun _ => ?_) | with_reducible exact Keeps.refl _ | with_reducible assumption | with_reducible apply Keeps.trans _ (State.command_keeps _ _ _ _ _ _) | with_reducible apply Keeps.trans _ (State.advanceFree_keeps _) | with_reducible refine Keeps.ite (fun _ => ?_) (fun _ => ?_) | with_reducible refine Keeps.foldl ?_ (fun _ _ => ?_) | with_reducible refine Keeps.foldl_fst ?_ (fun _ _ => ?_) | with_reducible refine Keeps.foldl_snd ?_ (fun _ _ => ?_) | with_reducible apply Keeps.cond | with_reducible refine Keeps.getD ?_ (fun _ _ => ?_) | split | intro _ | (with_reducible apply Keeps.lit; (on_goal 2 => with_reducible rfl); first | with_reducible apply Ans.keeps_after | with_reducible exact Ans.keeps_fail _ _ _ | with_reducible refine Ans.keeps_done ?_ | with_reducible refine Ans.keeps_started ?_ | with_reducible refine Ans.keeps_later ?_ | with_reducible refine Ans.keeps_ite (fun _ => ?_) (fun _ => ?_) | with_reducible exact Keeps.refl _ | with_reducible assumption | with_reducible apply Keeps.trans _ (State.command_keeps _ _ _ _ _ _) | with_reducible apply Keeps.trans _ (State.advanceFree_keeps _) | with_reducible refine Keeps.ite (fun _ => ?_) (fun _ => ?_) | with_reducible refine Keeps.foldl ?_ (fun _ _ => ?_) | with_reducible refine Keeps.foldl_fst ?_ (fun _ _ => ?_) | with_reducible refine Keeps.foldl_snd ?_ (fun _ _ => ?_) | with_reducible apply Keeps.cond | with_reducible refine Keeps.getD ?_ (fun _ _ => ?_) | split | intro _))

theorem execGetPress_keeps (h : Hdr) (s : State) {res} (h : execGetPress h s = .next res) : Keeps s res := by
  unfold execGetPress at h
  injection h with h
  subst h
  try dsimp only
  repeat' (first | with_reducible apply Ans.keeps_after | with_reducible exact Ans.keeps_fail _ _ _ | with_reducible refine Ans.keeps_done ?_ | with_reducible refine Ans.keeps_started ?_ | with_reducible refine Ans.keeps_later ?_ | with_reducible refine Ans.keeps_ite (fun _ => ?_) (fun _ => ?_) | with_reducible exact Keeps.refl _ | with_reducible assumption | with_reducible apply Keeps.trans _ (State.command_keeps _ _ _ _ _ _) | with_reducible apply Keeps.trans _ (State.advanceFree_keeps _) | with_reducible refine Keeps.ite (fun _ => ?_) (fun _ => ?_) | with_reducible refine Keeps.foldl ?_ (fun _ _ => ?_) | with_reducible refine Keeps.foldl_fst ?_ (fun _ _ => ?_) | with_reducible refine Keeps.foldl_snd ?_ (fun _ _ => ?_) | with_reducible apply Keeps.cond | with_reducible refine Keeps.getD ?_ (fun _ _ => ?_) | split | intro _ | (with_reducible apply Keeps.lit; (on_goal 2 => with_reducible rfl); first | with_reducible apply Ans.keeps_after | with_reducible exact Ans.keeps_fail _ _ _ | with_reducible refine Ans.keeps_done ?_ | with_reducible refine Ans.keeps_started ?_ | with_reducible refine Ans.keeps_later ?_ | with_reducible refine Ans.keeps_ite (fun _ => ?_) (fun _ => ?_) | with_reducible exact Keeps.refl _ | with_reducible assumption | with_reducible apply Keeps.trans _ (State.command_keeps _ _ _ _ _ _) | with_reducible apply Keeps.trans _ (State.advanceFree_keeps _) | with_reducible refine Keeps.ite (fun _ => ?_) (fun _ => ?_) | with_reducible refine Keeps.foldl ?_ (fun _ _ => ?_) | with_reducible refine Keeps.foldl_fst ?_ (fun _ _ => ?_) | with_reducible refine Keeps.foldl_snd ?_ (fun _ _ => ?_) | with_reducible apply Keeps.cond | with_reducible refine Keeps.getD ?_ (fun _ _ => ?_) | split | intro _))

theorem execGetQueue_keeps (h : Hdr) (q : BitVec 8) (s : State) {res} (h : execGetQueue h q s = .next res) : Keeps s res := by
  unfold execGetQueue at h
  injection h with h
  subst h
  try dsimp only
  repeat' (first | with_reducible apply Ans.keeps_after | with_reducible exact Ans.keeps_fail _ _ _ | with_reducible refine Ans.keeps_done ?_ | with_reducible refine Ans.keeps_started ?_ | with_reducible refine Ans.keeps_later ?_ | with_reducible refine Ans.keeps_ite (fun _ => ?_) (fun _ => ?_) | with_reducible exact Keeps.refl _ | with_reducible assumption | with_reducible apply Keeps.trans _ (State.command_keeps _ _ _ _ _ _) | with_reducible refine Keeps.ite (fun _ => ?_) (fun _ => ?_) | with_reducible refine Keeps.foldl ?_ (fun _ _ => ?_) | with_reducible refine Keeps.foldl_fst ?_ (fun _ _ => ?_) | with_reducible refine Keeps.foldl_snd ?_ (fun _ _ => ?_) | with_reducible apply Keeps.cond | with_reducible refine Keeps.getD ?_ (fun _ _ => ?_) | split | intro _ | (with_reducible apply Keeps.lit; (on_goal 2 => with_reducible rfl); first | with_reducible apply Ans.keeps_after | with_reducible exact Ans.keeps_fail _ _ _ | with_reducible refine Ans.keeps_done ?_ | with_reducible refine Ans.keeps_started ?_ | with_reducible refine Ans.keeps_later ?_ | with_reducible refine Ans.keeps_ite (fun _ => ?_) (fun _ => ?_) | with_reducible exact Keeps.refl _ | with_reducible assumption | with_reducible apply Keeps.trans _ (State.command_keeps _ _ _ _ _ _) | with_reducible refine Keeps.ite (fun _ => ?_) (fun _ => ?_) | with_reducible refine Keeps.foldl ?_ (fun _ _ => ?_) | with_reducible refine Keeps.foldl_fst ?_ (fun _ _ => ?_) | with_reducible refine Keeps.foldl_snd ?_ (fun _ _ => ?_) | with_reducible apply Keeps.cond | with_reducible refine Keeps.getD ?_ (fun _ _ => ?_) | split | intro _))

theorem execQueueTail_keeps (h : Hdr) (q : BitVec 8) (tail : BitVec 16) (s : State) {res} (h : execQueueTail h q tail s = .next res) : Keeps s res := by
  unfold execQueueTail at h
  injection h with h
  subst h
  try dsimp only
  repeat' (first | with_reducible apply Ans.keeps_after | with_reducible exact Ans.keeps_fail _ _ _ | with_reducible refine Ans.keeps_done ?_ | with_reducible refine Ans.keeps_started ?_ | with_reducible refine Ans.keeps_later ?_ | with_reducible refine Ans.keeps_ite (fun _ => ?_) (fun _ => ?_) | with_reducible exact Keeps.refl _ | with_reducible assumption | with_reducible apply Keeps.trans _ (State.command_keeps _ _ _ _ _ _) | with_reducible apply Keeps.trans _ (State.postTail_keeps _ _ _) | with_reducible refine Keeps.ite (fun _ => ?_) (fun _ => ?_) | with_reducible refine Keeps.foldl ?_ (fun _ _ => ?_) | with_reducible refine Keeps.foldl_fst ?_ (fun _ _ => ?_) | with_reducible refine Keeps.foldl_snd ?_ (fun _ _ => ?_) | with_reducible apply Keeps.cond | with_reducible refine Keeps.getD ?_ (fun _ _ => ?_) | split | intro _ | (with_reducible apply Keeps.lit; (on_goal 2 => with_reducible rfl); first | with_reducible apply Ans.keeps_after | with_reducible exact Ans.keeps_fail _ _ _ | with_reducible refine Ans.keeps_done ?_ | with_reducible refine Ans.keeps_started ?_ | with_reducible refine Ans.keeps_later ?_ | with_reducible refine Ans.keeps_ite (fun _ => ?_) (fun _ => ?_) | with_reducible exact Keeps.refl _ | with_reducible assumption | with_reducible apply Keeps.trans _ (State.command_keeps _ _ _ _ _ _) | with_reducible apply Keeps.trans _ (State.postTail_keeps _ _ _) | with_reducible refine Keeps.ite (fun _ => ?_) (fun _ => ?_) | with_reducible refine Keeps.foldl ?_ (fun _ _ => ?_) | with_reducible refine Keeps.foldl_fst ?_ (fun _ _ => ?_) | with_reducible refine Keeps.foldl_snd ?_ (fun _ _ => ?_) | with_reducible apply Keeps.cond | with_reducible refine Keeps.getD ?_ (fun _ _ => ?_) | split | intro _))

theorem execReadCeLog_keeps (h : Hdr) (ch : BitVec 8) (s : State) {res} (h : execReadCeLog h ch s = .next res) : Keeps s res := by
  unfold execReadCeLog at h
  injection h with h
  subst h
  try dsimp only
  repeat' (first | with_reducible apply Ans.keeps_after | with_reducible exact Ans.keeps_fail _ _ _ | with_reducible refine Ans.keeps_done ?_ | with_reducible refine Ans.keeps_started ?_ | with_reducible refine Ans.keeps_later ?_ | with_reducible refine Ans.keeps_ite (fun _ => ?_) (fun _ => ?_) | with_reducible exact Keeps.refl _ | with_reducible assumption | with_reducible apply Keeps.trans _ (State.command_keeps _ _ _ _ _ _) | with_reducible apply Keeps.trans _ (State.thawCeLog_keeps _ _) | with_reducible apply Keeps.trans _ (State.advanceFree_keeps _) | with_reducible refine Keeps.ite (fun _ => ?_) (fun _ => ?_) | with_reducible refine Keeps.foldl ?_ (fun _ _ => ?_) | with_reducible refine Keeps.foldl_fst ?_ (fun _ _ => ?_) | with_reducible refine Keeps.foldl_snd ?_ (fun _ _ => ?_) | with_reducible apply Keeps.cond | with_reducible refine Keeps.getD ?_ (fun _ _ => ?_) | split | intro _ | (with_reducible apply Keeps.lit; (on_goal 2 => with_reducible rfl); first | with_reducible apply Ans.keeps_after | with_reducible exact Ans.keeps_fail _ _ _ | with_reducible refine Ans.keeps_done ?_ | with_reducible refine Ans.keeps_started ?_ | with_reducible refine Ans.keeps_later ?_ | with_reducible refine Ans.keeps_ite (fun _ => ?_) (fun _ => ?_) | with_reducible exact Keeps.refl _ | with_reducible assumption | with_reducible apply Keeps.trans _ (State.command_keeps _ _ _ _ _ _) | with_reducible apply Keeps.trans _ (State.thawCeLog_keeps _ _) | with_reducible apply Keeps.trans _ (State.advanceFree_keeps _) | with_reducible refine Keeps.ite (fun _ => ?_) (fun _ => ?_) | with_reducible refine Keeps.foldl ?_ (fun _ _ => ?_) | with_reducible refine Keeps.foldl_fst ?_ (fun _ _ => ?_) | with_reducible refine Keeps.foldl_snd ?_ (fun _ _ => ?_) | with_reducible apply Keeps.cond | with_reducible refine Keeps.getD ?_ (fun _ _ => ?_) | split | intro _))

theorem execRequestPpr_keeps (h : Hdr) (ch : BitVec 8) (lr : BitVec 8) (sub : BitVec 8) (bg : BitVec 8) (ba : BitVec 8) (row : BitVec 32) (dev : BitVec 8) (s : State) {res} (h : execRequestPpr h ch lr sub bg ba row dev s = .next res) : Keeps s res := by
  unfold execRequestPpr at h
  injection h with h
  subst h
  try dsimp only
  repeat' (first | with_reducible apply Ans.keeps_after | with_reducible exact Ans.keeps_fail _ _ _ | with_reducible refine Ans.keeps_done ?_ | with_reducible refine Ans.keeps_started ?_ | with_reducible refine Ans.keeps_later ?_ | with_reducible refine Ans.keeps_ite (fun _ => ?_) (fun _ => ?_) | with_reducible exact Keeps.refl _ | with_reducible assumption | with_reducible apply Keeps.trans _ (State.command_keeps _ _ _ _ _ _) | with_reducible apply Keeps.trans _ (State.placePpr_keeps _ _ _ _ _ _ _ _ _) | with_reducible refine Keeps.ite (fun _ => ?_) (fun _ => ?_) | with_reducible refine Keeps.foldl ?_ (fun _ _ => ?_) | with_reducible refine Keeps.foldl_fst ?_ (fun _ _ => ?_) | with_reducible refine Keeps.foldl_snd ?_ (fun _ _ => ?_) | with_reducible apply Keeps.cond | with_reducible refine Keeps.getD ?_ (fun _ _ => ?_) | split | intro _ | (with_reducible apply Keeps.lit; (on_goal 2 => with_reducible rfl); first | with_reducible apply Ans.keeps_after | with_reducible exact Ans.keeps_fail _ _ _ | with_reducible refine Ans.keeps_done ?_ | with_reducible refine Ans.keeps_started ?_ | with_reducible refine Ans.keeps_later ?_ | with_reducible refine Ans.keeps_ite (fun _ => ?_) (fun _ => ?_) | with_reducible exact Keeps.refl _ | with_reducible assumption | with_reducible apply Keeps.trans _ (State.command_keeps _ _ _ _ _ _) | with_reducible apply Keeps.trans _ (State.placePpr_keeps _ _ _ _ _ _ _ _ _) | with_reducible refine Keeps.ite (fun _ => ?_) (fun _ => ?_) | with_reducible refine Keeps.foldl ?_ (fun _ _ => ?_) | with_reducible refine Keeps.foldl_fst ?_ (fun _ _ => ?_) | with_reducible refine Keeps.foldl_snd ?_ (fun _ _ => ?_) | with_reducible apply Keeps.cond | with_reducible refine Keeps.getD ?_ (fun _ _ => ?_) | split | intro _))

theorem execScrubRange_keeps (h : Hdr) (space : BitVec 8) (dpa : BitVec 64) (len : BitVec 64) (s : State) {res} (h : execScrubRange h space dpa len s = .next res) : Keeps s res := by
  unfold execScrubRange at h
  injection h with h
  subst h
  try dsimp only
  repeat' (first | with_reducible apply Ans.keeps_after | with_reducible exact Ans.keeps_fail _ _ _ | with_reducible refine Ans.keeps_done ?_ | with_reducible refine Ans.keeps_started ?_ | with_reducible refine Ans.keeps_later ?_ | with_reducible refine Ans.keeps_ite (fun _ => ?_) (fun _ => ?_) | with_reducible exact Keeps.refl _ | with_reducible assumption | with_reducible apply Keeps.trans _ (State.command_keeps _ _ _ _ _ _) | with_reducible apply Keeps.trans _ (State.startPass_keeps _ _ _ _ _ _) | with_reducible refine Keeps.ite (fun _ => ?_) (fun _ => ?_) | with_reducible refine Keeps.foldl ?_ (fun _ _ => ?_) | with_reducible refine Keeps.foldl_fst ?_ (fun _ _ => ?_) | with_reducible refine Keeps.foldl_snd ?_ (fun _ _ => ?_) | with_reducible apply Keeps.cond | with_reducible refine Keeps.getD ?_ (fun _ _ => ?_) | split | intro _ | (with_reducible apply Keeps.lit; (on_goal 2 => with_reducible rfl); first | with_reducible apply Ans.keeps_after | with_reducible exact Ans.keeps_fail _ _ _ | with_reducible refine Ans.keeps_done ?_ | with_reducible refine Ans.keeps_started ?_ | with_reducible refine Ans.keeps_later ?_ | with_reducible refine Ans.keeps_ite (fun _ => ?_) (fun _ => ?_) | with_reducible exact Keeps.refl _ | with_reducible assumption | with_reducible apply Keeps.trans _ (State.command_keeps _ _ _ _ _ _) | with_reducible apply Keeps.trans _ (State.startPass_keeps _ _ _ _ _ _) | with_reducible refine Keeps.ite (fun _ => ?_) (fun _ => ?_) | with_reducible refine Keeps.foldl ?_ (fun _ _ => ?_) | with_reducible refine Keeps.foldl_fst ?_ (fun _ _ => ?_) | with_reducible refine Keeps.foldl_snd ?_ (fun _ _ => ?_) | with_reducible apply Keeps.cond | with_reducible refine Keeps.getD ?_ (fun _ _ => ?_) | split | intro _))

theorem execSetPatrol_keeps (h : Hdr) (periodH : BitVec 8) (s : State) {res} (h : execSetPatrol h periodH s = .next res) : Keeps s res := by
  unfold execSetPatrol at h
  injection h with h
  subst h
  try dsimp only
  repeat' (first | with_reducible apply Ans.keeps_after | with_reducible exact Ans.keeps_fail _ _ _ | with_reducible refine Ans.keeps_done ?_ | with_reducible refine Ans.keeps_started ?_ | with_reducible refine Ans.keeps_later ?_ | with_reducible refine Ans.keeps_ite (fun _ => ?_) (fun _ => ?_) | with_reducible exact Keeps.refl _ | with_reducible assumption | with_reducible apply Keeps.trans _ (State.command_keeps _ _ _ _ _ _) | with_reducible apply Keeps.trans _ (State.writeReg_keeps _ _ _) | with_reducible refine Keeps.ite (fun _ => ?_) (fun _ => ?_) | with_reducible refine Keeps.foldl ?_ (fun _ _ => ?_) | with_reducible refine Keeps.foldl_fst ?_ (fun _ _ => ?_) | with_reducible refine Keeps.foldl_snd ?_ (fun _ _ => ?_) | with_reducible apply Keeps.cond | with_reducible refine Keeps.getD ?_ (fun _ _ => ?_) | split | intro _ | (with_reducible apply Keeps.lit; (on_goal 2 => with_reducible rfl); first | with_reducible apply Ans.keeps_after | with_reducible exact Ans.keeps_fail _ _ _ | with_reducible refine Ans.keeps_done ?_ | with_reducible refine Ans.keeps_started ?_ | with_reducible refine Ans.keeps_later ?_ | with_reducible refine Ans.keeps_ite (fun _ => ?_) (fun _ => ?_) | with_reducible exact Keeps.refl _ | with_reducible assumption | with_reducible apply Keeps.trans _ (State.command_keeps _ _ _ _ _ _) | with_reducible apply Keeps.trans _ (State.writeReg_keeps _ _ _) | with_reducible refine Keeps.ite (fun _ => ?_) (fun _ => ?_) | with_reducible refine Keeps.foldl ?_ (fun _ _ => ?_) | with_reducible refine Keeps.foldl_fst ?_ (fun _ _ => ?_) | with_reducible refine Keeps.foldl_snd ?_ (fun _ _ => ?_) | with_reducible apply Keeps.cond | with_reducible refine Keeps.getD ?_ (fun _ _ => ?_) | split | intro _))

theorem execSetPress_keeps (h : Hdr) (offload : BitVec 8) (retireAt : BitVec 8) (s : State) {res} (h : execSetPress h offload retireAt s = .next res) : Keeps s res := by
  unfold execSetPress at h
  injection h with h
  subst h
  try dsimp only
  repeat' (first | with_reducible apply Ans.keeps_after | with_reducible exact Ans.keeps_fail _ _ _ | with_reducible refine Ans.keeps_done ?_ | with_reducible refine Ans.keeps_started ?_ | with_reducible refine Ans.keeps_later ?_ | with_reducible refine Ans.keeps_ite (fun _ => ?_) (fun _ => ?_) | with_reducible exact Keeps.refl _ | with_reducible assumption | with_reducible apply Keeps.trans _ (State.command_keeps _ _ _ _ _ _) | with_reducible apply Keeps.trans _ (State.writeReg_keeps _ _ _) | with_reducible refine Keeps.ite (fun _ => ?_) (fun _ => ?_) | with_reducible refine Keeps.foldl ?_ (fun _ _ => ?_) | with_reducible refine Keeps.foldl_fst ?_ (fun _ _ => ?_) | with_reducible refine Keeps.foldl_snd ?_ (fun _ _ => ?_) | with_reducible apply Keeps.cond | with_reducible refine Keeps.getD ?_ (fun _ _ => ?_) | split | intro _ | (with_reducible apply Keeps.lit; (on_goal 2 => with_reducible rfl); first | with_reducible apply Ans.keeps_after | with_reducible exact Ans.keeps_fail _ _ _ | with_reducible refine Ans.keeps_done ?_ | with_reducible refine Ans.keeps_started ?_ | with_reducible refine Ans.keeps_later ?_ | with_reducible refine Ans.keeps_ite (fun _ => ?_) (fun _ => ?_) | with_reducible exact Keeps.refl _ | with_reducible assumption | with_reducible apply Keeps.trans _ (State.command_keeps _ _ _ _ _ _) | with_reducible apply Keeps.trans _ (State.writeReg_keeps _ _ _) | with_reducible refine Keeps.ite (fun _ => ?_) (fun _ => ?_) | with_reducible refine Keeps.foldl ?_ (fun _ _ => ?_) | with_reducible refine Keeps.foldl_fst ?_ (fun _ _ => ?_) | with_reducible refine Keeps.foldl_snd ?_ (fun _ _ => ?_) | with_reducible apply Keeps.cond | with_reducible refine Keeps.getD ?_ (fun _ _ => ?_) | split | intro _))

end Sys2Proof.Machine
end

