-- ==== Sys2Proof/Laws/KeepsPackets.lean ====
section
/-! SUPPORT. Every operation of Machine/Packets.lean keeps what `Keeps` says: one lemma for each. -/
namespace Sys2Proof.Machine
set_option linter.unreachableTactic false
set_option linter.unusedTactic false

theorem nextOf_keeps {o : Host.Outcome State Fault Refusal} {s : State} (h : ∀ t, o = .next t → Keeps s t) : Keeps s (nextOf o s) := by
  cases o with
  | next t => exact h t rfl
  | fault _ => exact Keeps.refl s
  | refused _ => exact Keeps.refl s

theorem runStd_keeps (op : Nat) (h : Hdr) (b : List Byte) (s : State) {res} (hr : runStd op h b s = .next res) : Keeps s res := by
  unfold runStd at hr
  dsimp only at hr
  split at hr
  all_goals first
    | with_reducible exact execActivateFw_keeps _ _ _ hr
    | with_reducible exact execAddDynamicCapacityResponse_keeps _ _ _ hr
    | with_reducible exact execClearEventRecords_keeps _ _ _ _ _ hr
    | with_reducible exact execCxlGetFwInfo_keeps _ _ hr
    | with_reducible exact execFmIdentify_keeps _ _ hr
    | with_reducible exact execGetDcRegionExtentLists_keeps _ _ hr
    | with_reducible exact execGetDcdInfo_keeps _ _ hr
    | with_reducible exact execGetDynamicCapacityConfiguration_keeps _ _ hr
    | with_reducible exact execGetDynamicCapacityExtentList_keeps _ _ hr
    | with_reducible exact execGetEventInterruptPolicy_keeps _ _ hr
    | with_reducible exact execGetEventRecords_keeps _ _ _ hr
    | with_reducible exact execGetHeadInfo_keeps _ _ _ _ hr
    | with_reducible exact execGetHostDcRegionConfiguration_keeps _ _ hr
    | with_reducible exact execGetLdInfo_keeps _ _ hr
    | with_reducible exact execGetLog_keeps _ _ _ _ _ hr
    | with_reducible exact execGetMultiHeadedInfo_keeps _ _ hr
    | with_reducible exact execGetSupportedLogs_keeps _ _ hr
    | with_reducible exact execGetTimestamp_keeps _ _ hr
    | with_reducible exact execIdentifyMemoryDevice_keeps _ _ hr
    | with_reducible exact execInitiateDynamicCapacityAdd_keeps _ _ _ _ hr
    | with_reducible exact execInitiateDynamicCapacityRelease_keeps _ _ _ _ hr
    | with_reducible exact execReleaseDynamicCapacity_keeps _ _ _ hr
    | with_reducible exact execSanitize_keeps _ _ hr
    | with_reducible exact execSecureErase_keeps _ _ hr
    | with_reducible exact execSetDcRegionConfiguration_keeps _ _ _ _ _ _ hr
    | with_reducible exact execSetEventInterruptPolicy_keeps _ _ _ hr
    | with_reducible exact execSetTimestamp_keeps _ _ _ hr
    | with_reducible exact execTransferFw_keeps _ _ _ _ hr
    | with_reducible exact execUnsupportedOpcode_keeps _ _ _ hr

theorem runYcs_keeps (op : Nat) (h : Hdr) (b : List Byte) (s : State) {res} (hr : runYcs op h b s = .next res) : Keeps s res := by
  unfold runYcs at hr
  dsimp only at hr
  split at hr
  all_goals first
    | with_reducible exact execAllocateKey_keeps _ _ hr
    | with_reducible exact execCancelScrub_keeps _ _ hr
    | with_reducible exact execClearEnergy_keeps _ _ _ hr
    | with_reducible exact execClearFeed_keeps _ _ _ hr
    | with_reducible exact execCreateLd_keeps _ _ _ _ _ _ hr
    | with_reducible exact execCreateLendRegion_keeps _ _ _ _ _ _ hr
    | with_reducible exact execCreateQueue_keeps _ _ _ _ hr
    | with_reducible exact execCreateRegion_keeps _ _ _ _ _ _ _ _ _ _ hr
    | with_reducible exact execDeleteClass_keeps _ _ _ hr
    | with_reducible exact execDeleteLd_keeps _ _ _ hr
    | with_reducible exact execDeleteLendRegion_keeps _ _ hr
    | with_reducible exact execDeleteQueue_keeps _ _ _ hr
    | with_reducible exact execDeleteRegion_keeps _ _ _ hr
    | with_reducible exact execDisable_keeps _ _ _ _ _ hr
    | with_reducible exact execEnable_keeps _ _ _ _ hr
    | with_reducible exact execFlushKey_keeps _ _ _ hr
    | with_reducible exact execFreeKey_keeps _ _ _ hr
    | with_reducible exact execFwCommit_keeps _ _ hr
    | with_reducible exact execFwTransfer_keeps _ _ _ _ _ hr
    | with_reducible exact execGetBootLog_keeps _ _ hr
    | with_reducible exact execGetEpochTotals_keeps _ _ hr
    | with_reducible exact execGetErrors_keeps _ _ _ hr
    | with_reducible exact execGetFwInfo_keeps _ _ hr
    | with_reducible exact execGetGovernor_keeps _ _ hr
    | with_reducible exact execGetGraft_keeps _ _ hr
    | with_reducible exact execGetIdentity_keeps _ _ hr
    | with_reducible exact execGetKeyStatus_keeps _ _ _ hr
    | with_reducible exact execGetLosses_keeps _ _ hr
    | with_reducible exact execGetPageInfo_keeps _ _ _ _ _ hr
    | with_reducible exact execGetPlacement_keeps _ _ hr
    | with_reducible exact execGetPower_keeps _ _ hr
    | with_reducible exact execGetPress_keeps _ _ hr
    | with_reducible exact execGetQos_keeps _ _ _ hr
    | with_reducible exact execGetQueue_keeps _ _ _ hr
    | with_reducible exact execGetRegion_keeps _ _ _ hr
    | with_reducible exact execGetSettings_keeps _ _ _ hr
    | with_reducible exact execInjectError_keeps _ _ _ _ hr
    | with_reducible exact execProgramSettings_keeps _ _ _ _ _ _ _ hr
    | with_reducible exact execQueueTail_keeps _ _ _ _ hr
    | with_reducible exact execReadCeLog_keeps _ _ _ hr
    | with_reducible exact execReadGroup_keeps _ _ _ hr
    | with_reducible exact execReadReg_keeps _ _ _ hr
    | with_reducible exact execReadSamples_keeps _ _ _ _ hr
    | with_reducible exact execRecallLease_keeps _ _ _ hr
    | with_reducible exact execRequestPpr_keeps _ _ _ _ _ _ _ _ _ hr
    | with_reducible exact execRevokeFwKey_keeps _ _ _ _ hr
    | with_reducible exact execSanitizeRange_keeps _ _ _ _ _ hr
    | with_reducible exact execScrubRange_keeps _ _ _ _ _ hr
    | with_reducible exact execSetClass_keeps _ _ _ _ _ _ _ _ _ _ hr
    | with_reducible exact execSetCounter_keeps _ _ _ _ _ hr
    | with_reducible exact execSetCurator_keeps _ _ _ _ _ _ _ _ _ hr
    | with_reducible exact execSetFeedEnable_keeps _ _ _ _ _ hr
    | with_reducible exact execSetGovernor_keeps _ _ _ _ _ _ hr
    | with_reducible exact execSetGraft_keeps _ _ _ _ _ _ _ _ _ hr
    | with_reducible exact execSetGthConfig_keeps _ _ _ _ _ _ _ _ _ _ _ _ hr
    | with_reducible exact execSetHeadMode_keeps _ _ _ _ hr
    | with_reducible exact execSetLabelMap_keeps _ _ _ _ _ hr
    | with_reducible exact execSetLdManage_keeps _ _ _ _ hr
    | with_reducible exact execSetLendClass_keeps _ _ _ hr
    | with_reducible exact execSetLocks_keeps _ _ _ hr
    | with_reducible exact execSetPatrol_keeps _ _ _ hr
    | with_reducible exact execSetPortWidth_keeps _ _ _ _ hr
    | with_reducible exact execSetPress_keeps _ _ _ _ hr
    | with_reducible exact execSetRegionPlacement_keeps _ _ _ _ _ _ hr
    | with_reducible exact execSetSampling_keeps _ _ _ _ _ _ hr
    | with_reducible exact execSetStaticCapacity_keeps _ _ _ hr
    | with_reducible exact execSetUserAccess_keeps _ _ _ hr
    | with_reducible exact execSetVrefValue_keeps _ _ _ hr
    | with_reducible exact execUnsupportedOpcode_keeps _ _ _ hr
    | with_reducible exact execWriteReg_keeps _ _ _ _ hr

theorem State.runOpcode_keeps (s : State) (op : Nat) (h : Hdr) (b : List Byte) : Keeps s (State.runOpcode s op h b) := by
  unfold State.runOpcode
  refine nextOf_keeps (fun t ht => ?_)
  split at ht
  · exact runYcs_keeps _ _ _ _ ht
  · exact runStd_keeps _ _ _ _ ht

theorem State.packet_keeps (s : State) (src : Agent) (ld : Option (BitVec 8)) (op : Nat) (b : List Byte) : Keeps s (State.packet s src ld op b) := by
  unfold State.packet
  try dsimp only
  repeat' (first | with_reducible exact Keeps.refl _ | with_reducible assumption | with_reducible apply Keeps.trans _ (State.runOpcode_keeps _ _ _ _) | with_reducible apply Keeps.trans _ (State.advanceFree_keeps _) | with_reducible refine Keeps.ite (fun _ => ?_) (fun _ => ?_) | with_reducible refine Keeps.foldl ?_ (fun _ _ => ?_) | with_reducible refine Keeps.foldl_fst ?_ (fun _ _ => ?_) | with_reducible refine Keeps.foldl_snd ?_ (fun _ _ => ?_) | with_reducible apply Keeps.cond | with_reducible refine Keeps.getD ?_ (fun _ _ => ?_) | split | (with_reducible apply Keeps.lit; (on_goal 2 => with_reducible rfl); first | with_reducible exact Keeps.refl _ | with_reducible assumption | with_reducible apply Keeps.trans _ (State.runOpcode_keeps _ _ _ _) | with_reducible apply Keeps.trans _ (State.advanceFree_keeps _) | with_reducible refine Keeps.ite (fun _ => ?_) (fun _ => ?_) | with_reducible refine Keeps.foldl ?_ (fun _ _ => ?_) | with_reducible refine Keeps.foldl_fst ?_ (fun _ _ => ?_) | with_reducible refine Keeps.foldl_snd ?_ (fun _ _ => ?_) | with_reducible apply Keeps.cond | with_reducible refine Keeps.getD ?_ (fun _ _ => ?_) | split))

theorem State.mailboxRun_keeps (s : State) (i : LdIx) : Keeps s (State.mailboxRun s i) := by
  unfold State.mailboxRun
  try dsimp only
  repeat' (first | with_reducible exact Keeps.refl _ | with_reducible assumption | with_reducible apply Keeps.trans _ (State.packet_keeps _ _ _ _ _) | with_reducible refine Keeps.ite (fun _ => ?_) (fun _ => ?_) | with_reducible refine Keeps.foldl ?_ (fun _ _ => ?_) | with_reducible refine Keeps.foldl_fst ?_ (fun _ _ => ?_) | with_reducible refine Keeps.foldl_snd ?_ (fun _ _ => ?_) | with_reducible apply Keeps.cond | with_reducible refine Keeps.getD ?_ (fun _ _ => ?_) | split | (with_reducible apply Keeps.lit; (on_goal 2 => with_reducible rfl); first | with_reducible exact Keeps.refl _ | with_reducible assumption | with_reducible apply Keeps.trans _ (State.packet_keeps _ _ _ _ _) | with_reducible refine Keeps.ite (fun _ => ?_) (fun _ => ?_) | with_reducible refine Keeps.foldl ?_ (fun _ _ => ?_) | with_reducible refine Keeps.foldl_fst ?_ (fun _ _ => ?_) | with_reducible refine Keeps.foldl_snd ?_ (fun _ _ => ?_) | with_reducible apply Keeps.cond | with_reducible refine Keeps.getD ?_ (fun _ _ => ?_) | split))

theorem execTunnelManagementCommand_keeps (h : Hdr) (head : Head) (inner : BitVec 16) (payload : List Byte) (s : State) {res} (h : execTunnelManagementCommand h head inner payload s = .next res) : Keeps s res := by
  unfold execTunnelManagementCommand at h
  injection h with h
  subst h
  try dsimp only
  repeat' (first | with_reducible apply Ans.keeps_after | with_reducible exact Ans.keeps_fail _ _ _ | with_reducible refine Ans.keeps_done ?_ | with_reducible refine Ans.keeps_started ?_ | with_reducible refine Ans.keeps_later ?_ | with_reducible refine Ans.keeps_ite (fun _ => ?_) (fun _ => ?_) | with_reducible exact Keeps.refl _ | with_reducible assumption | with_reducible apply Keeps.trans _ (State.fmCommand_keeps _ _ _ _ _ _ _) | with_reducible apply Keeps.trans _ (State.packet_keeps _ _ _ _ _) | with_reducible refine Keeps.ite (fun _ => ?_) (fun _ => ?_) | with_reducible refine Keeps.foldl ?_ (fun _ _ => ?_) | with_reducible refine Keeps.foldl_fst ?_ (fun _ _ => ?_) | with_reducible refine Keeps.foldl_snd ?_ (fun _ _ => ?_) | with_reducible apply Keeps.cond | with_reducible refine Keeps.getD ?_ (fun _ _ => ?_) | split | intro _ | (with_reducible apply Keeps.lit; (on_goal 2 => with_reducible rfl); first | with_reducible apply Ans.keeps_after | with_reducible exact Ans.keeps_fail _ _ _ | with_reducible refine Ans.keeps_done ?_ | with_reducible refine Ans.keeps_started ?_ | with_reducible refine Ans.keeps_later ?_ | with_reducible refine Ans.keeps_ite (fun _ => ?_) (fun _ => ?_) | with_reducible exact Keeps.refl _ | with_reducible assumption | with_reducible apply Keeps.trans _ (State.fmCommand_keeps _ _ _ _ _ _ _) | with_reducible apply Keeps.trans _ (State.packet_keeps _ _ _ _ _) | with_reducible refine Keeps.ite (fun _ => ?_) (fun _ => ?_) | with_reducible refine Keeps.foldl ?_ (fun _ _ => ?_) | with_reducible refine Keeps.foldl_fst ?_ (fun _ _ => ?_) | with_reducible refine Keeps.foldl_snd ?_ (fun _ _ => ?_) | with_reducible apply Keeps.cond | with_reducible refine Keeps.getD ?_ (fun _ _ => ?_) | split | intro _))

theorem State.runHeld_keeps (s : State) (c : HeldCmd) : Keeps s (State.runHeld s c) := by
  unfold State.runHeld
  exact Keeps.ite (fun _ => nextOf_keeps (fun _ ht => execTunnelManagementCommand_keeps _ _ _ _ _ ht)) (fun _ => State.runOpcode_keeps _ _ _ _)

theorem State.takeHeld_keeps (s : State) : Keeps s (State.takeHeld s) := by
  unfold State.takeHeld
  try dsimp only
  repeat' (first | with_reducible exact Keeps.refl _ | with_reducible assumption | with_reducible apply Keeps.trans _ (State.runHeld_keeps _ _) | with_reducible refine Keeps.ite (fun _ => ?_) (fun _ => ?_) | with_reducible refine Keeps.foldl ?_ (fun _ _ => ?_) | with_reducible refine Keeps.foldl_fst ?_ (fun _ _ => ?_) | with_reducible refine Keeps.foldl_snd ?_ (fun _ _ => ?_) | with_reducible apply Keeps.cond | with_reducible refine Keeps.getD ?_ (fun _ _ => ?_) | split | (with_reducible apply Keeps.lit; (on_goal 2 => with_reducible rfl); first | with_reducible exact Keeps.refl _ | with_reducible assumption | with_reducible apply Keeps.trans _ (State.runHeld_keeps _ _) | with_reducible refine Keeps.ite (fun _ => ?_) (fun _ => ?_) | with_reducible refine Keeps.foldl ?_ (fun _ _ => ?_) | with_reducible refine Keeps.foldl_fst ?_ (fun _ _ => ?_) | with_reducible refine Keeps.foldl_snd ?_ (fun _ _ => ?_) | with_reducible apply Keeps.cond | with_reducible refine Keeps.getD ?_ (fun _ _ => ?_) | split))

theorem State.writeRings_keeps (s : State) (a : Agent) (sp : Space) (off : Nat) (size : Nat) (v : BitVec 64) : Keeps s (State.writeRings s a sp off size v) := by
  unfold State.writeRings
  try dsimp only
  repeat' (first | with_reducible exact Keeps.refl _ | with_reducible assumption | with_reducible apply Keeps.trans _ (State.crossLink_keeps _ _) | with_reducible apply Keeps.trans _ (State.mailboxRun_keeps _ _) | with_reducible apply Keeps.trans _ (State.regAccess_keeps _ _ _ _ _ _) | with_reducible refine Keeps.ite (fun _ => ?_) (fun _ => ?_) | with_reducible refine Keeps.foldl ?_ (fun _ _ => ?_) | with_reducible refine Keeps.foldl_fst ?_ (fun _ _ => ?_) | with_reducible refine Keeps.foldl_snd ?_ (fun _ _ => ?_) | with_reducible apply Keeps.cond | with_reducible refine Keeps.getD ?_ (fun _ _ => ?_) | split | (with_reducible apply Keeps.lit; (on_goal 2 => with_reducible rfl); first | with_reducible exact Keeps.refl _ | with_reducible assumption | with_reducible apply Keeps.trans _ (State.crossLink_keeps _ _) | with_reducible apply Keeps.trans _ (State.mailboxRun_keeps _ _) | with_reducible apply Keeps.trans _ (State.regAccess_keeps _ _ _ _ _ _) | with_reducible refine Keeps.ite (fun _ => ?_) (fun _ => ?_) | with_reducible refine Keeps.foldl ?_ (fun _ _ => ?_) | with_reducible refine Keeps.foldl_fst ?_ (fun _ _ => ?_) | with_reducible refine Keeps.foldl_snd ?_ (fun _ _ => ?_) | with_reducible apply Keeps.cond | with_reducible refine Keeps.getD ?_ (fun _ _ => ?_) | split))

end Sys2Proof.Machine
end

