-- ==== Sys2Proof/Laws/Mailbox.lean ====
section
/-! SUPPORT. What the interpreter does with a packet, said once: each of its own checks, the checks of a command, and the four ways in which a command concludes. -/
namespace Sys2Proof.Machine

/-- A command's checks: the first bad one decides, and with none the command's own part does. -/
theorem Ans.after_eq (l : List Chk) (a : Ans) :
    Ans.after l a = match l.find? (fun c => c.bad) with | some c => .fail c.rc c.at' c.val | none => a := by
  induction l with
  | nil => rfl
  | cons c cs ih =>
    cases h : c.bad
    · simp [Ans.after, h, ih]
    · simp [Ans.after, h]

/-- With no bad check the command's own part decides. -/
theorem Ans.after_good {l : List Chk} {a : Ans} (h : ∀ c ∈ l, c.bad = false) : Ans.after l a = a := by
  rw [Ans.after_eq, List.find?_eq_none.mpr (by simpa using h)]

/-- A source that the interpreter does not hear gets no answer. -/
theorem State.command_unheard {s : State} {b : List Byte} {h : Hdr} {o : CmdOp} {a : Ans} (hh : s.hears h.src = false) : s.command b h o a = s := by
  simp [State.command, hh]

/-- Behind a foreground command in progress a packet waits (R346). -/
theorem State.command_waits {s : State} {b : List Byte} {h : Hdr} {o : CmdOp} {a : Ans} (hh : s.hears h.src = true) (hi : s.interpreting = true) :
    s.command b h o a = { s with mgmt := { s.mgmt with held := s.mgmt.held ++ [{ h := h, op := o.code, args := b }] } } := by
  simp [State.command, hh, hi]

/-- A packet that passes the interpreter's checks meets the one background command of its source, objects in change, and its own checks (R345 to R347). -/
theorem State.command_ready {s : State} {b : List Byte} {h : Hdr} {o : CmdOp} {a : Ans} (hh : s.hears h.src = true) (hi : s.interpreting = false)
    (hp : s.inRom = true ∨ s.dutyUp 0 = true) (hc : s.admits h.src o.cls = true) (hr : s.inRom = true → o.rom = true) (hn : s.recorded h o = none) (hl : h.lenBad = none)
    (hv : o.ycs = true → h.rsv = 0 ∧ hdrLdFits h o.namesLd = true) :
    s.command b h o a = if o.bg && (s.bgOf h.src).isSome then s.answer h o rcBusy 0 0 [] else if o.busy then s.answer h o 0x8003 0 0 []
      else s.conclude h o a := by
  cases hx : s.inRom
  · simp only [hx, Bool.false_eq_true, false_or] at hp
    cases hy : o.ycs <;> simp_all [State.command]
  · have := hr hx
    cases hy : o.ycs <;> simp_all [State.command]

end Sys2Proof.Machine
end

