-- ==== Sys2Proof/Laws/State.lean ====
section
/-! SUPPORT. What each basic update of the state leaves alone: one lemma for each field, and the laws of register words and fields. -/
namespace Sys2Proof.Machine

@[simp] theorem State.setWord_pending (s : State) (off : Nat) (v : Word) : (s.setWord off v).pending = s.pending := rfl
@[simp] theorem State.setWord_tick (s : State) (off : Nat) (v : Word) : (s.setWord off v).tick = s.tick := rfl
@[simp] theorem State.setWord_free (s : State) (off : Nat) (v : Word) : (s.setWord off v).free = s.free := rfl
@[simp] theorem State.setWord_out (s : State) (off : Nat) (v : Word) : (s.setWord off v).out = s.out := rfl
@[simp] theorem State.setWord_heldLow (s : State) (off : Nat) (v : Word) : (s.setWord off v).heldLow = s.heldLow := rfl
@[simp] theorem State.setWord_captHigh (s : State) (off : Nat) (v : Word) : (s.setWord off v).captHigh = s.captHigh := rfl
@[simp] theorem State.setWord_boot (s : State) (off : Nat) (v : Word) : (s.setWord off v).boot = s.boot := rfl
@[simp] theorem State.setWord_warden (s : State) (off : Nat) (v : Word) : (s.setWord off v).warden = s.warden := rfl
@[simp] theorem State.setWord_heads (s : State) (off : Nat) (v : Word) : (s.setWord off v).heads = s.heads := rfl
@[simp] theorem State.setWord_lds (s : State) (off : Nat) (v : Word) : (s.setWord off v).lds = s.lds := rfl
@[simp] theorem State.setWord_regions (s : State) (off : Nat) (v : Word) : (s.setWord off v).regions = s.regions := rfl
@[simp] theorem State.setWord_media (s : State) (off : Nat) (v : Word) : (s.setWord off v).media = s.media := rfl
@[simp] theorem State.setWord_sec (s : State) (off : Nat) (v : Word) : (s.setWord off v).sec = s.sec := rfl
@[simp] theorem State.setWord_place (s : State) (off : Nat) (v : Word) : (s.setWord off v).place = s.place := rfl
@[simp] theorem State.setWord_dir (s : State) (off : Nat) (v : Word) : (s.setWord off v).dir = s.dir := rfl
@[simp] theorem State.setWord_path (s : State) (off : Nat) (v : Word) : (s.setWord off v).path = s.path := rfl
@[simp] theorem State.setWord_press (s : State) (off : Nat) (v : Word) : (s.setWord off v).press = s.press := rfl
@[simp] theorem State.setWord_dmc (s : State) (off : Nat) (v : Word) : (s.setWord off v).dmc = s.dmc := rfl
@[simp] theorem State.setWord_qos (s : State) (off : Nat) (v : Word) : (s.setWord off v).qos = s.qos := rfl
@[simp] theorem State.setWord_gth (s : State) (off : Nat) (v : Word) : (s.setWord off v).gth = s.gth := rfl
@[simp] theorem State.setWord_graft (s : State) (off : Nat) (v : Word) : (s.setWord off v).graft = s.graft := rfl
@[simp] theorem State.setWord_borrow (s : State) (off : Nat) (v : Word) : (s.setWord off v).borrow = s.borrow := rfl
@[simp] theorem State.setWord_lent (s : State) (off : Nat) (v : Word) : (s.setWord off v).lent = s.lent := rfl
@[simp] theorem State.setWord_cat (s : State) (off : Nat) (v : Word) : (s.setWord off v).cat = s.cat := rfl
@[simp] theorem State.setWord_mgmt (s : State) (off : Nat) (v : Word) : (s.setWord off v).mgmt = s.mgmt := rfl
@[simp] theorem State.setWord_alertN (s : State) (off : Nat) (v : Word) : (s.setWord off v).alertN = s.alertN := rfl

@[simp] theorem State.emit_pending (s : State) (o : Out) : (s.emit o).pending = s.pending := rfl
@[simp] theorem State.emit_tick (s : State) (o : Out) : (s.emit o).tick = s.tick := rfl
@[simp] theorem State.emit_free (s : State) (o : Out) : (s.emit o).free = s.free := rfl
@[simp] theorem State.emit_regs (s : State) (o : Out) : (s.emit o).regs = s.regs := rfl
@[simp] theorem State.emit_heldLow (s : State) (o : Out) : (s.emit o).heldLow = s.heldLow := rfl
@[simp] theorem State.emit_captHigh (s : State) (o : Out) : (s.emit o).captHigh = s.captHigh := rfl
@[simp] theorem State.emit_boot (s : State) (o : Out) : (s.emit o).boot = s.boot := rfl
@[simp] theorem State.emit_warden (s : State) (o : Out) : (s.emit o).warden = s.warden := rfl
@[simp] theorem State.emit_heads (s : State) (o : Out) : (s.emit o).heads = s.heads := rfl
@[simp] theorem State.emit_lds (s : State) (o : Out) : (s.emit o).lds = s.lds := rfl
@[simp] theorem State.emit_regions (s : State) (o : Out) : (s.emit o).regions = s.regions := rfl
@[simp] theorem State.emit_media (s : State) (o : Out) : (s.emit o).media = s.media := rfl
@[simp] theorem State.emit_sec (s : State) (o : Out) : (s.emit o).sec = s.sec := rfl
@[simp] theorem State.emit_place (s : State) (o : Out) : (s.emit o).place = s.place := rfl
@[simp] theorem State.emit_dir (s : State) (o : Out) : (s.emit o).dir = s.dir := rfl
@[simp] theorem State.emit_path (s : State) (o : Out) : (s.emit o).path = s.path := rfl
@[simp] theorem State.emit_press (s : State) (o : Out) : (s.emit o).press = s.press := rfl
@[simp] theorem State.emit_dmc (s : State) (o : Out) : (s.emit o).dmc = s.dmc := rfl
@[simp] theorem State.emit_qos (s : State) (o : Out) : (s.emit o).qos = s.qos := rfl
@[simp] theorem State.emit_gth (s : State) (o : Out) : (s.emit o).gth = s.gth := rfl
@[simp] theorem State.emit_graft (s : State) (o : Out) : (s.emit o).graft = s.graft := rfl
@[simp] theorem State.emit_borrow (s : State) (o : Out) : (s.emit o).borrow = s.borrow := rfl
@[simp] theorem State.emit_lent (s : State) (o : Out) : (s.emit o).lent = s.lent := rfl
@[simp] theorem State.emit_cat (s : State) (o : Out) : (s.emit o).cat = s.cat := rfl
@[simp] theorem State.emit_mgmt (s : State) (o : Out) : (s.emit o).mgmt = s.mgmt := rfl
@[simp] theorem State.emit_alertN (s : State) (o : Out) : (s.emit o).alertN = s.alertN := rfl

@[simp] theorem State.advanceFree_pending (s : State) : (s.advanceFree).pending = s.pending := rfl
@[simp] theorem State.advanceFree_tick (s : State) : (s.advanceFree).tick = s.tick := rfl
@[simp] theorem State.advanceFree_out (s : State) : (s.advanceFree).out = s.out := rfl
@[simp] theorem State.advanceFree_regs (s : State) : (s.advanceFree).regs = s.regs := rfl
@[simp] theorem State.advanceFree_heldLow (s : State) : (s.advanceFree).heldLow = s.heldLow := rfl
@[simp] theorem State.advanceFree_captHigh (s : State) : (s.advanceFree).captHigh = s.captHigh := rfl
@[simp] theorem State.advanceFree_boot (s : State) : (s.advanceFree).boot = s.boot := rfl
@[simp] theorem State.advanceFree_warden (s : State) : (s.advanceFree).warden = s.warden := rfl
@[simp] theorem State.advanceFree_heads (s : State) : (s.advanceFree).heads = s.heads := rfl
@[simp] theorem State.advanceFree_lds (s : State) : (s.advanceFree).lds = s.lds := rfl
@[simp] theorem State.advanceFree_regions (s : State) : (s.advanceFree).regions = s.regions := rfl
@[simp] theorem State.advanceFree_media (s : State) : (s.advanceFree).media = s.media := rfl
@[simp] theorem State.advanceFree_sec (s : State) : (s.advanceFree).sec = s.sec := rfl
@[simp] theorem State.advanceFree_place (s : State) : (s.advanceFree).place = s.place := rfl
@[simp] theorem State.advanceFree_dir (s : State) : (s.advanceFree).dir = s.dir := rfl
@[simp] theorem State.advanceFree_path (s : State) : (s.advanceFree).path = s.path := rfl
@[simp] theorem State.advanceFree_press (s : State) : (s.advanceFree).press = s.press := rfl
@[simp] theorem State.advanceFree_dmc (s : State) : (s.advanceFree).dmc = s.dmc := rfl
@[simp] theorem State.advanceFree_qos (s : State) : (s.advanceFree).qos = s.qos := rfl
@[simp] theorem State.advanceFree_gth (s : State) : (s.advanceFree).gth = s.gth := rfl
@[simp] theorem State.advanceFree_graft (s : State) : (s.advanceFree).graft = s.graft := rfl
@[simp] theorem State.advanceFree_borrow (s : State) : (s.advanceFree).borrow = s.borrow := rfl
@[simp] theorem State.advanceFree_lent (s : State) : (s.advanceFree).lent = s.lent := rfl
@[simp] theorem State.advanceFree_cat (s : State) : (s.advanceFree).cat = s.cat := rfl
@[simp] theorem State.advanceFree_mgmt (s : State) : (s.advanceFree).mgmt = s.mgmt := rfl
@[simp] theorem State.advanceFree_alertN (s : State) : (s.advanceFree).alertN = s.alertN := rfl

@[simp] theorem State.updLd_pending (s : State) (i : Nat) (f : Ld → Ld) : (s.updLd i f).pending = s.pending := rfl
@[simp] theorem State.updLd_tick (s : State) (i : Nat) (f : Ld → Ld) : (s.updLd i f).tick = s.tick := rfl
@[simp] theorem State.updLd_free (s : State) (i : Nat) (f : Ld → Ld) : (s.updLd i f).free = s.free := rfl
@[simp] theorem State.updLd_out (s : State) (i : Nat) (f : Ld → Ld) : (s.updLd i f).out = s.out := rfl
@[simp] theorem State.updLd_regs (s : State) (i : Nat) (f : Ld → Ld) : (s.updLd i f).regs = s.regs := rfl
@[simp] theorem State.updLd_heldLow (s : State) (i : Nat) (f : Ld → Ld) : (s.updLd i f).heldLow = s.heldLow := rfl
@[simp] theorem State.updLd_captHigh (s : State) (i : Nat) (f : Ld → Ld) : (s.updLd i f).captHigh = s.captHigh := rfl
@[simp] theorem State.updLd_boot (s : State) (i : Nat) (f : Ld → Ld) : (s.updLd i f).boot = s.boot := rfl
@[simp] theorem State.updLd_warden (s : State) (i : Nat) (f : Ld → Ld) : (s.updLd i f).warden = s.warden := rfl
@[simp] theorem State.updLd_heads (s : State) (i : Nat) (f : Ld → Ld) : (s.updLd i f).heads = s.heads := rfl
@[simp] theorem State.updLd_regions (s : State) (i : Nat) (f : Ld → Ld) : (s.updLd i f).regions = s.regions := rfl
@[simp] theorem State.updLd_media (s : State) (i : Nat) (f : Ld → Ld) : (s.updLd i f).media = s.media := rfl
@[simp] theorem State.updLd_sec (s : State) (i : Nat) (f : Ld → Ld) : (s.updLd i f).sec = s.sec := rfl
@[simp] theorem State.updLd_place (s : State) (i : Nat) (f : Ld → Ld) : (s.updLd i f).place = s.place := rfl
@[simp] theorem State.updLd_dir (s : State) (i : Nat) (f : Ld → Ld) : (s.updLd i f).dir = s.dir := rfl
@[simp] theorem State.updLd_path (s : State) (i : Nat) (f : Ld → Ld) : (s.updLd i f).path = s.path := rfl
@[simp] theorem State.updLd_press (s : State) (i : Nat) (f : Ld → Ld) : (s.updLd i f).press = s.press := rfl
@[simp] theorem State.updLd_dmc (s : State) (i : Nat) (f : Ld → Ld) : (s.updLd i f).dmc = s.dmc := rfl
@[simp] theorem State.updLd_qos (s : State) (i : Nat) (f : Ld → Ld) : (s.updLd i f).qos = s.qos := rfl
@[simp] theorem State.updLd_gth (s : State) (i : Nat) (f : Ld → Ld) : (s.updLd i f).gth = s.gth := rfl
@[simp] theorem State.updLd_graft (s : State) (i : Nat) (f : Ld → Ld) : (s.updLd i f).graft = s.graft := rfl
@[simp] theorem State.updLd_borrow (s : State) (i : Nat) (f : Ld → Ld) : (s.updLd i f).borrow = s.borrow := rfl
@[simp] theorem State.updLd_lent (s : State) (i : Nat) (f : Ld → Ld) : (s.updLd i f).lent = s.lent := rfl
@[simp] theorem State.updLd_cat (s : State) (i : Nat) (f : Ld → Ld) : (s.updLd i f).cat = s.cat := rfl
@[simp] theorem State.updLd_mgmt (s : State) (i : Nat) (f : Ld → Ld) : (s.updLd i f).mgmt = s.mgmt := rfl
@[simp] theorem State.updLd_alertN (s : State) (i : Nat) (f : Ld → Ld) : (s.updLd i f).alertN = s.alertN := rfl

@[simp] theorem State.updHead_pending (s : State) (h : Nat) (f : HeadSt → HeadSt) : (s.updHead h f).pending = s.pending := rfl
@[simp] theorem State.updHead_tick (s : State) (h : Nat) (f : HeadSt → HeadSt) : (s.updHead h f).tick = s.tick := rfl
@[simp] theorem State.updHead_free (s : State) (h : Nat) (f : HeadSt → HeadSt) : (s.updHead h f).free = s.free := rfl
@[simp] theorem State.updHead_out (s : State) (h : Nat) (f : HeadSt → HeadSt) : (s.updHead h f).out = s.out := rfl
@[simp] theorem State.updHead_regs (s : State) (h : Nat) (f : HeadSt → HeadSt) : (s.updHead h f).regs = s.regs := rfl
@[simp] theorem State.updHead_heldLow (s : State) (h : Nat) (f : HeadSt → HeadSt) : (s.updHead h f).heldLow = s.heldLow := rfl
@[simp] theorem State.updHead_captHigh (s : State) (h : Nat) (f : HeadSt → HeadSt) : (s.updHead h f).captHigh = s.captHigh := rfl
@[simp] theorem State.updHead_boot (s : State) (h : Nat) (f : HeadSt → HeadSt) : (s.updHead h f).boot = s.boot := rfl
@[simp] theorem State.updHead_warden (s : State) (h : Nat) (f : HeadSt → HeadSt) : (s.updHead h f).warden = s.warden := rfl
@[simp] theorem State.updHead_lds (s : State) (h : Nat) (f : HeadSt → HeadSt) : (s.updHead h f).lds = s.lds := rfl
@[simp] theorem State.updHead_regions (s : State) (h : Nat) (f : HeadSt → HeadSt) : (s.updHead h f).regions = s.regions := rfl
@[simp] theorem State.updHead_media (s : State) (h : Nat) (f : HeadSt → HeadSt) : (s.updHead h f).media = s.media := rfl
@[simp] theorem State.updHead_sec (s : State) (h : Nat) (f : HeadSt → HeadSt) : (s.updHead h f).sec = s.sec := rfl
@[simp] theorem State.updHead_place (s : State) (h : Nat) (f : HeadSt → HeadSt) : (s.updHead h f).place = s.place := rfl
@[simp] theorem State.updHead_dir (s : State) (h : Nat) (f : HeadSt → HeadSt) : (s.updHead h f).dir = s.dir := rfl
@[simp] theorem State.updHead_path (s : State) (h : Nat) (f : HeadSt → HeadSt) : (s.updHead h f).path = s.path := rfl
@[simp] theorem State.updHead_press (s : State) (h : Nat) (f : HeadSt → HeadSt) : (s.updHead h f).press = s.press := rfl
@[simp] theorem State.updHead_dmc (s : State) (h : Nat) (f : HeadSt → HeadSt) : (s.updHead h f).dmc = s.dmc := rfl
@[simp] theorem State.updHead_qos (s : State) (h : Nat) (f : HeadSt → HeadSt) : (s.updHead h f).qos = s.qos := rfl
@[simp] theorem State.updHead_gth (s : State) (h : Nat) (f : HeadSt → HeadSt) : (s.updHead h f).gth = s.gth := rfl
@[simp] theorem State.updHead_graft (s : State) (h : Nat) (f : HeadSt → HeadSt) : (s.updHead h f).graft = s.graft := rfl
@[simp] theorem State.updHead_borrow (s : State) (h : Nat) (f : HeadSt → HeadSt) : (s.updHead h f).borrow = s.borrow := rfl
@[simp] theorem State.updHead_lent (s : State) (h : Nat) (f : HeadSt → HeadSt) : (s.updHead h f).lent = s.lent := rfl
@[simp] theorem State.updHead_cat (s : State) (h : Nat) (f : HeadSt → HeadSt) : (s.updHead h f).cat = s.cat := rfl
@[simp] theorem State.updHead_mgmt (s : State) (h : Nat) (f : HeadSt → HeadSt) : (s.updHead h f).mgmt = s.mgmt := rfl
@[simp] theorem State.updHead_alertN (s : State) (h : Nat) (f : HeadSt → HeadSt) : (s.updHead h f).alertN = s.alertN := rfl

@[simp] theorem State.updCh_pending (s : State) (c : Nat) (f : Dmc → Dmc) : (s.updCh c f).pending = s.pending := rfl
@[simp] theorem State.updCh_tick (s : State) (c : Nat) (f : Dmc → Dmc) : (s.updCh c f).tick = s.tick := rfl
@[simp] theorem State.updCh_free (s : State) (c : Nat) (f : Dmc → Dmc) : (s.updCh c f).free = s.free := rfl
@[simp] theorem State.updCh_out (s : State) (c : Nat) (f : Dmc → Dmc) : (s.updCh c f).out = s.out := rfl
@[simp] theorem State.updCh_regs (s : State) (c : Nat) (f : Dmc → Dmc) : (s.updCh c f).regs = s.regs := rfl
@[simp] theorem State.updCh_heldLow (s : State) (c : Nat) (f : Dmc → Dmc) : (s.updCh c f).heldLow = s.heldLow := rfl
@[simp] theorem State.updCh_captHigh (s : State) (c : Nat) (f : Dmc → Dmc) : (s.updCh c f).captHigh = s.captHigh := rfl
@[simp] theorem State.updCh_boot (s : State) (c : Nat) (f : Dmc → Dmc) : (s.updCh c f).boot = s.boot := rfl
@[simp] theorem State.updCh_warden (s : State) (c : Nat) (f : Dmc → Dmc) : (s.updCh c f).warden = s.warden := rfl
@[simp] theorem State.updCh_heads (s : State) (c : Nat) (f : Dmc → Dmc) : (s.updCh c f).heads = s.heads := rfl
@[simp] theorem State.updCh_lds (s : State) (c : Nat) (f : Dmc → Dmc) : (s.updCh c f).lds = s.lds := rfl
@[simp] theorem State.updCh_regions (s : State) (c : Nat) (f : Dmc → Dmc) : (s.updCh c f).regions = s.regions := rfl
@[simp] theorem State.updCh_media (s : State) (c : Nat) (f : Dmc → Dmc) : (s.updCh c f).media = s.media := rfl
@[simp] theorem State.updCh_sec (s : State) (c : Nat) (f : Dmc → Dmc) : (s.updCh c f).sec = s.sec := rfl
@[simp] theorem State.updCh_place (s : State) (c : Nat) (f : Dmc → Dmc) : (s.updCh c f).place = s.place := rfl
@[simp] theorem State.updCh_dir (s : State) (c : Nat) (f : Dmc → Dmc) : (s.updCh c f).dir = s.dir := rfl
@[simp] theorem State.updCh_path (s : State) (c : Nat) (f : Dmc → Dmc) : (s.updCh c f).path = s.path := rfl
@[simp] theorem State.updCh_press (s : State) (c : Nat) (f : Dmc → Dmc) : (s.updCh c f).press = s.press := rfl
@[simp] theorem State.updCh_qos (s : State) (c : Nat) (f : Dmc → Dmc) : (s.updCh c f).qos = s.qos := rfl
@[simp] theorem State.updCh_gth (s : State) (c : Nat) (f : Dmc → Dmc) : (s.updCh c f).gth = s.gth := rfl
@[simp] theorem State.updCh_graft (s : State) (c : Nat) (f : Dmc → Dmc) : (s.updCh c f).graft = s.graft := rfl
@[simp] theorem State.updCh_borrow (s : State) (c : Nat) (f : Dmc → Dmc) : (s.updCh c f).borrow = s.borrow := rfl
@[simp] theorem State.updCh_lent (s : State) (c : Nat) (f : Dmc → Dmc) : (s.updCh c f).lent = s.lent := rfl
@[simp] theorem State.updCh_cat (s : State) (c : Nat) (f : Dmc → Dmc) : (s.updCh c f).cat = s.cat := rfl
@[simp] theorem State.updCh_mgmt (s : State) (c : Nat) (f : Dmc → Dmc) : (s.updCh c f).mgmt = s.mgmt := rfl
@[simp] theorem State.updCh_alertN (s : State) (c : Nat) (f : Dmc → Dmc) : (s.updCh c f).alertN = s.alertN := rfl

@[simp] theorem State.updGp_pending (s : State) (g : Nat) (f : GPortSt → GPortSt) : (s.updGp g f).pending = s.pending := rfl
@[simp] theorem State.updGp_tick (s : State) (g : Nat) (f : GPortSt → GPortSt) : (s.updGp g f).tick = s.tick := rfl
@[simp] theorem State.updGp_free (s : State) (g : Nat) (f : GPortSt → GPortSt) : (s.updGp g f).free = s.free := rfl
@[simp] theorem State.updGp_out (s : State) (g : Nat) (f : GPortSt → GPortSt) : (s.updGp g f).out = s.out := rfl
@[simp] theorem State.updGp_regs (s : State) (g : Nat) (f : GPortSt → GPortSt) : (s.updGp g f).regs = s.regs := rfl
@[simp] theorem State.updGp_heldLow (s : State) (g : Nat) (f : GPortSt → GPortSt) : (s.updGp g f).heldLow = s.heldLow := rfl
@[simp] theorem State.updGp_captHigh (s : State) (g : Nat) (f : GPortSt → GPortSt) : (s.updGp g f).captHigh = s.captHigh := rfl
@[simp] theorem State.updGp_boot (s : State) (g : Nat) (f : GPortSt → GPortSt) : (s.updGp g f).boot = s.boot := rfl
@[simp] theorem State.updGp_warden (s : State) (g : Nat) (f : GPortSt → GPortSt) : (s.updGp g f).warden = s.warden := rfl
@[simp] theorem State.updGp_heads (s : State) (g : Nat) (f : GPortSt → GPortSt) : (s.updGp g f).heads = s.heads := rfl
@[simp] theorem State.updGp_lds (s : State) (g : Nat) (f : GPortSt → GPortSt) : (s.updGp g f).lds = s.lds := rfl
@[simp] theorem State.updGp_regions (s : State) (g : Nat) (f : GPortSt → GPortSt) : (s.updGp g f).regions = s.regions := rfl
@[simp] theorem State.updGp_media (s : State) (g : Nat) (f : GPortSt → GPortSt) : (s.updGp g f).media = s.media := rfl
@[simp] theorem State.updGp_sec (s : State) (g : Nat) (f : GPortSt → GPortSt) : (s.updGp g f).sec = s.sec := rfl
@[simp] theorem State.updGp_place (s : State) (g : Nat) (f : GPortSt → GPortSt) : (s.updGp g f).place = s.place := rfl
@[simp] theorem State.updGp_dir (s : State) (g : Nat) (f : GPortSt → GPortSt) : (s.updGp g f).dir = s.dir := rfl
@[simp] theorem State.updGp_path (s : State) (g : Nat) (f : GPortSt → GPortSt) : (s.updGp g f).path = s.path := rfl
@[simp] theorem State.updGp_press (s : State) (g : Nat) (f : GPortSt → GPortSt) : (s.updGp g f).press = s.press := rfl
@[simp] theorem State.updGp_dmc (s : State) (g : Nat) (f : GPortSt → GPortSt) : (s.updGp g f).dmc = s.dmc := rfl
@[simp] theorem State.updGp_qos (s : State) (g : Nat) (f : GPortSt → GPortSt) : (s.updGp g f).qos = s.qos := rfl
@[simp] theorem State.updGp_gth (s : State) (g : Nat) (f : GPortSt → GPortSt) : (s.updGp g f).gth = s.gth := rfl
@[simp] theorem State.updGp_borrow (s : State) (g : Nat) (f : GPortSt → GPortSt) : (s.updGp g f).borrow = s.borrow := rfl
@[simp] theorem State.updGp_lent (s : State) (g : Nat) (f : GPortSt → GPortSt) : (s.updGp g f).lent = s.lent := rfl
@[simp] theorem State.updGp_cat (s : State) (g : Nat) (f : GPortSt → GPortSt) : (s.updGp g f).cat = s.cat := rfl
@[simp] theorem State.updGp_mgmt (s : State) (g : Nat) (f : GPortSt → GPortSt) : (s.updGp g f).mgmt = s.mgmt := rfl
@[simp] theorem State.updGp_alertN (s : State) (g : Nat) (f : GPortSt → GPortSt) : (s.updGp g f).alertN = s.alertN := rfl

@[simp] theorem State.stn_pending (s : State) (a b n : Nat) : (s.stn a b n).pending = s.pending := rfl
@[simp] theorem State.stn_tick (s : State) (a b n : Nat) : (s.stn a b n).tick = s.tick := rfl
@[simp] theorem State.stn_free (s : State) (a b n : Nat) : (s.stn a b n).free = s.free := rfl
@[simp] theorem State.stn_out (s : State) (a b n : Nat) : (s.stn a b n).out = s.out := rfl
@[simp] theorem State.stn_regs (s : State) (a b n : Nat) : (s.stn a b n).regs = s.regs := rfl
@[simp] theorem State.stn_heldLow (s : State) (a b n : Nat) : (s.stn a b n).heldLow = s.heldLow := rfl
@[simp] theorem State.stn_captHigh (s : State) (a b n : Nat) : (s.stn a b n).captHigh = s.captHigh := rfl
@[simp] theorem State.stn_boot (s : State) (a b n : Nat) : (s.stn a b n).boot = s.boot := rfl
@[simp] theorem State.stn_warden (s : State) (a b n : Nat) : (s.stn a b n).warden = s.warden := rfl
@[simp] theorem State.stn_heads (s : State) (a b n : Nat) : (s.stn a b n).heads = s.heads := rfl
@[simp] theorem State.stn_lds (s : State) (a b n : Nat) : (s.stn a b n).lds = s.lds := rfl
@[simp] theorem State.stn_regions (s : State) (a b n : Nat) : (s.stn a b n).regions = s.regions := rfl
@[simp] theorem State.stn_media (s : State) (a b n : Nat) : (s.stn a b n).media = s.media := rfl
@[simp] theorem State.stn_sec (s : State) (a b n : Nat) : (s.stn a b n).sec = s.sec := rfl
@[simp] theorem State.stn_place (s : State) (a b n : Nat) : (s.stn a b n).place = s.place := rfl
@[simp] theorem State.stn_dir (s : State) (a b n : Nat) : (s.stn a b n).dir = s.dir := rfl
@[simp] theorem State.stn_path (s : State) (a b n : Nat) : (s.stn a b n).path = s.path := rfl
@[simp] theorem State.stn_press (s : State) (a b n : Nat) : (s.stn a b n).press = s.press := rfl
@[simp] theorem State.stn_dmc (s : State) (a b n : Nat) : (s.stn a b n).dmc = s.dmc := rfl
@[simp] theorem State.stn_qos (s : State) (a b n : Nat) : (s.stn a b n).qos = s.qos := rfl
@[simp] theorem State.stn_gth (s : State) (a b n : Nat) : (s.stn a b n).gth = s.gth := rfl
@[simp] theorem State.stn_graft (s : State) (a b n : Nat) : (s.stn a b n).graft = s.graft := rfl
@[simp] theorem State.stn_borrow (s : State) (a b n : Nat) : (s.stn a b n).borrow = s.borrow := rfl
@[simp] theorem State.stn_lent (s : State) (a b n : Nat) : (s.stn a b n).lent = s.lent := rfl
@[simp] theorem State.stn_mgmt (s : State) (a b n : Nat) : (s.stn a b n).mgmt = s.mgmt := rfl
@[simp] theorem State.stn_alertN (s : State) (a b n : Nat) : (s.stn a b n).alertN = s.alertN := rfl

@[simp] theorem State.setDword_pending (s : State) (off : Nat) (v : BitVec 64) : (s.setDword off v).pending = s.pending := rfl
@[simp] theorem State.setDword_tick (s : State) (off : Nat) (v : BitVec 64) : (s.setDword off v).tick = s.tick := rfl
@[simp] theorem State.setDword_free (s : State) (off : Nat) (v : BitVec 64) : (s.setDword off v).free = s.free := rfl
@[simp] theorem State.setDword_out (s : State) (off : Nat) (v : BitVec 64) : (s.setDword off v).out = s.out := rfl
@[simp] theorem State.setDword_heldLow (s : State) (off : Nat) (v : BitVec 64) : (s.setDword off v).heldLow = s.heldLow := rfl
@[simp] theorem State.setDword_captHigh (s : State) (off : Nat) (v : BitVec 64) : (s.setDword off v).captHigh = s.captHigh := rfl
@[simp] theorem State.setDword_boot (s : State) (off : Nat) (v : BitVec 64) : (s.setDword off v).boot = s.boot := rfl
@[simp] theorem State.setDword_warden (s : State) (off : Nat) (v : BitVec 64) : (s.setDword off v).warden = s.warden := rfl
@[simp] theorem State.setDword_heads (s : State) (off : Nat) (v : BitVec 64) : (s.setDword off v).heads = s.heads := rfl
@[simp] theorem State.setDword_lds (s : State) (off : Nat) (v : BitVec 64) : (s.setDword off v).lds = s.lds := rfl
@[simp] theorem State.setDword_regions (s : State) (off : Nat) (v : BitVec 64) : (s.setDword off v).regions = s.regions := rfl
@[simp] theorem State.setDword_media (s : State) (off : Nat) (v : BitVec 64) : (s.setDword off v).media = s.media := rfl
@[simp] theorem State.setDword_sec (s : State) (off : Nat) (v : BitVec 64) : (s.setDword off v).sec = s.sec := rfl
@[simp] theorem State.setDword_place (s : State) (off : Nat) (v : BitVec 64) : (s.setDword off v).place = s.place := rfl
@[simp] theorem State.setDword_dir (s : State) (off : Nat) (v : BitVec 64) : (s.setDword off v).dir = s.dir := rfl
@[simp] theorem State.setDword_path (s : State) (off : Nat) (v : BitVec 64) : (s.setDword off v).path = s.path := rfl
@[simp] theorem State.setDword_press (s : State) (off : Nat) (v : BitVec 64) : (s.setDword off v).press = s.press := rfl
@[simp] theorem State.setDword_dmc (s : State) (off : Nat) (v : BitVec 64) : (s.setDword off v).dmc = s.dmc := rfl
@[simp] theorem State.setDword_qos (s : State) (off : Nat) (v : BitVec 64) : (s.setDword off v).qos = s.qos := rfl
@[simp] theorem State.setDword_gth (s : State) (off : Nat) (v : BitVec 64) : (s.setDword off v).gth = s.gth := rfl
@[simp] theorem State.setDword_graft (s : State) (off : Nat) (v : BitVec 64) : (s.setDword off v).graft = s.graft := rfl
@[simp] theorem State.setDword_borrow (s : State) (off : Nat) (v : BitVec 64) : (s.setDword off v).borrow = s.borrow := rfl
@[simp] theorem State.setDword_lent (s : State) (off : Nat) (v : BitVec 64) : (s.setDword off v).lent = s.lent := rfl
@[simp] theorem State.setDword_cat (s : State) (off : Nat) (v : BitVec 64) : (s.setDword off v).cat = s.cat := rfl
@[simp] theorem State.setDword_mgmt (s : State) (off : Nat) (v : BitVec 64) : (s.setDword off v).mgmt = s.mgmt := rfl
@[simp] theorem State.setDword_alertN (s : State) (off : Nat) (v : BitVec 64) : (s.setDword off v).alertN = s.alertN := rfl

@[simp] theorem State.wr_pending (s : State) (g : Reg.Fld) (x : Nat) : (s.wr g x).pending = s.pending := by simp only [State.wr]; split <;> rfl
@[simp] theorem State.wr_tick (s : State) (g : Reg.Fld) (x : Nat) : (s.wr g x).tick = s.tick := by simp only [State.wr]; split <;> rfl
@[simp] theorem State.wr_free (s : State) (g : Reg.Fld) (x : Nat) : (s.wr g x).free = s.free := by simp only [State.wr]; split <;> rfl
@[simp] theorem State.wr_out (s : State) (g : Reg.Fld) (x : Nat) : (s.wr g x).out = s.out := by simp only [State.wr]; split <;> rfl
@[simp] theorem State.wr_heldLow (s : State) (g : Reg.Fld) (x : Nat) : (s.wr g x).heldLow = s.heldLow := by simp only [State.wr]; split <;> rfl
@[simp] theorem State.wr_captHigh (s : State) (g : Reg.Fld) (x : Nat) : (s.wr g x).captHigh = s.captHigh := by simp only [State.wr]; split <;> rfl
@[simp] theorem State.wr_boot (s : State) (g : Reg.Fld) (x : Nat) : (s.wr g x).boot = s.boot := by simp only [State.wr]; split <;> rfl
@[simp] theorem State.wr_warden (s : State) (g : Reg.Fld) (x : Nat) : (s.wr g x).warden = s.warden := by simp only [State.wr]; split <;> rfl
@[simp] theorem State.wr_heads (s : State) (g : Reg.Fld) (x : Nat) : (s.wr g x).heads = s.heads := by simp only [State.wr]; split <;> rfl
@[simp] theorem State.wr_lds (s : State) (g : Reg.Fld) (x : Nat) : (s.wr g x).lds = s.lds := by simp only [State.wr]; split <;> rfl
@[simp] theorem State.wr_regions (s : State) (g : Reg.Fld) (x : Nat) : (s.wr g x).regions = s.regions := by simp only [State.wr]; split <;> rfl
@[simp] theorem State.wr_media (s : State) (g : Reg.Fld) (x : Nat) : (s.wr g x).media = s.media := by simp only [State.wr]; split <;> rfl
@[simp] theorem State.wr_sec (s : State) (g : Reg.Fld) (x : Nat) : (s.wr g x).sec = s.sec := by simp only [State.wr]; split <;> rfl
@[simp] theorem State.wr_place (s : State) (g : Reg.Fld) (x : Nat) : (s.wr g x).place = s.place := by simp only [State.wr]; split <;> rfl
@[simp] theorem State.wr_dir (s : State) (g : Reg.Fld) (x : Nat) : (s.wr g x).dir = s.dir := by simp only [State.wr]; split <;> rfl
@[simp] theorem State.wr_path (s : State) (g : Reg.Fld) (x : Nat) : (s.wr g x).path = s.path := by simp only [State.wr]; split <;> rfl
@[simp] theorem State.wr_press (s : State) (g : Reg.Fld) (x : Nat) : (s.wr g x).press = s.press := by simp only [State.wr]; split <;> rfl
@[simp] theorem State.wr_dmc (s : State) (g : Reg.Fld) (x : Nat) : (s.wr g x).dmc = s.dmc := by simp only [State.wr]; split <;> rfl
@[simp] theorem State.wr_qos (s : State) (g : Reg.Fld) (x : Nat) : (s.wr g x).qos = s.qos := by simp only [State.wr]; split <;> rfl
@[simp] theorem State.wr_gth (s : State) (g : Reg.Fld) (x : Nat) : (s.wr g x).gth = s.gth := by simp only [State.wr]; split <;> rfl
@[simp] theorem State.wr_graft (s : State) (g : Reg.Fld) (x : Nat) : (s.wr g x).graft = s.graft := by simp only [State.wr]; split <;> rfl
@[simp] theorem State.wr_borrow (s : State) (g : Reg.Fld) (x : Nat) : (s.wr g x).borrow = s.borrow := by simp only [State.wr]; split <;> rfl
@[simp] theorem State.wr_lent (s : State) (g : Reg.Fld) (x : Nat) : (s.wr g x).lent = s.lent := by simp only [State.wr]; split <;> rfl
@[simp] theorem State.wr_cat (s : State) (g : Reg.Fld) (x : Nat) : (s.wr g x).cat = s.cat := by simp only [State.wr]; split <;> rfl
@[simp] theorem State.wr_mgmt (s : State) (g : Reg.Fld) (x : Nat) : (s.wr g x).mgmt = s.mgmt := by simp only [State.wr]; split <;> rfl
@[simp] theorem State.wr_alertN (s : State) (g : Reg.Fld) (x : Nat) : (s.wr g x).alertN = s.alertN := by simp only [State.wr]; split <;> rfl

@[simp] theorem State.setFlag_pending (s : State) (g : Reg.Fld) (x : Bool) : (s.setFlag g x).pending = s.pending := State.wr_pending _ _ _
@[simp] theorem State.setFlag_tick (s : State) (g : Reg.Fld) (x : Bool) : (s.setFlag g x).tick = s.tick := State.wr_tick _ _ _
@[simp] theorem State.setFlag_free (s : State) (g : Reg.Fld) (x : Bool) : (s.setFlag g x).free = s.free := State.wr_free _ _ _
@[simp] theorem State.setFlag_out (s : State) (g : Reg.Fld) (x : Bool) : (s.setFlag g x).out = s.out := State.wr_out _ _ _
@[simp] theorem State.setFlag_heldLow (s : State) (g : Reg.Fld) (x : Bool) : (s.setFlag g x).heldLow = s.heldLow := State.wr_heldLow _ _ _
@[simp] theorem State.setFlag_captHigh (s : State) (g : Reg.Fld) (x : Bool) : (s.setFlag g x).captHigh = s.captHigh := State.wr_captHigh _ _ _
@[simp] theorem State.setFlag_boot (s : State) (g : Reg.Fld) (x : Bool) : (s.setFlag g x).boot = s.boot := State.wr_boot _ _ _
@[simp] theorem State.setFlag_warden (s : State) (g : Reg.Fld) (x : Bool) : (s.setFlag g x).warden = s.warden := State.wr_warden _ _ _
@[simp] theorem State.setFlag_heads (s : State) (g : Reg.Fld) (x : Bool) : (s.setFlag g x).heads = s.heads := State.wr_heads _ _ _
@[simp] theorem State.setFlag_lds (s : State) (g : Reg.Fld) (x : Bool) : (s.setFlag g x).lds = s.lds := State.wr_lds _ _ _
@[simp] theorem State.setFlag_regions (s : State) (g : Reg.Fld) (x : Bool) : (s.setFlag g x).regions = s.regions := State.wr_regions _ _ _
@[simp] theorem State.setFlag_media (s : State) (g : Reg.Fld) (x : Bool) : (s.setFlag g x).media = s.media := State.wr_media _ _ _
@[simp] theorem State.setFlag_sec (s : State) (g : Reg.Fld) (x : Bool) : (s.setFlag g x).sec = s.sec := State.wr_sec _ _ _
@[simp] theorem State.setFlag_place (s : State) (g : Reg.Fld) (x : Bool) : (s.setFlag g x).place = s.place := State.wr_place _ _ _
@[simp] theorem State.setFlag_dir (s : State) (g : Reg.Fld) (x : Bool) : (s.setFlag g x).dir = s.dir := State.wr_dir _ _ _
@[simp] theorem State.setFlag_path (s : State) (g : Reg.Fld) (x : Bool) : (s.setFlag g x).path = s.path := State.wr_path _ _ _
@[simp] theorem State.setFlag_press (s : State) (g : Reg.Fld) (x : Bool) : (s.setFlag g x).press = s.press := State.wr_press _ _ _
@[simp] theorem State.setFlag_dmc (s : State) (g : Reg.Fld) (x : Bool) : (s.setFlag g x).dmc = s.dmc := State.wr_dmc _ _ _
@[simp] theorem State.setFlag_qos (s : State) (g : Reg.Fld) (x : Bool) : (s.setFlag g x).qos = s.qos := State.wr_qos _ _ _
@[simp] theorem State.setFlag_gth (s : State) (g : Reg.Fld) (x : Bool) : (s.setFlag g x).gth = s.gth := State.wr_gth _ _ _
@[simp] theorem State.setFlag_graft (s : State) (g : Reg.Fld) (x : Bool) : (s.setFlag g x).graft = s.graft := State.wr_graft _ _ _
@[simp] theorem State.setFlag_borrow (s : State) (g : Reg.Fld) (x : Bool) : (s.setFlag g x).borrow = s.borrow := State.wr_borrow _ _ _
@[simp] theorem State.setFlag_lent (s : State) (g : Reg.Fld) (x : Bool) : (s.setFlag g x).lent = s.lent := State.wr_lent _ _ _
@[simp] theorem State.setFlag_cat (s : State) (g : Reg.Fld) (x : Bool) : (s.setFlag g x).cat = s.cat := State.wr_cat _ _ _
@[simp] theorem State.setFlag_mgmt (s : State) (g : Reg.Fld) (x : Bool) : (s.setFlag g x).mgmt = s.mgmt := State.wr_mgmt _ _ _
@[simp] theorem State.setFlag_alertN (s : State) (g : Reg.Fld) (x : Bool) : (s.setFlag g x).alertN = s.alertN := State.wr_alertN _ _ _

@[simp] theorem State.sat_pending (s : State) (g : Reg.Fld) (x : Nat) : (s.sat g x).pending = s.pending := State.wr_pending _ _ _
@[simp] theorem State.sat_tick (s : State) (g : Reg.Fld) (x : Nat) : (s.sat g x).tick = s.tick := State.wr_tick _ _ _
@[simp] theorem State.sat_free (s : State) (g : Reg.Fld) (x : Nat) : (s.sat g x).free = s.free := State.wr_free _ _ _
@[simp] theorem State.sat_out (s : State) (g : Reg.Fld) (x : Nat) : (s.sat g x).out = s.out := State.wr_out _ _ _
@[simp] theorem State.sat_heldLow (s : State) (g : Reg.Fld) (x : Nat) : (s.sat g x).heldLow = s.heldLow := State.wr_heldLow _ _ _
@[simp] theorem State.sat_captHigh (s : State) (g : Reg.Fld) (x : Nat) : (s.sat g x).captHigh = s.captHigh := State.wr_captHigh _ _ _
@[simp] theorem State.sat_boot (s : State) (g : Reg.Fld) (x : Nat) : (s.sat g x).boot = s.boot := State.wr_boot _ _ _
@[simp] theorem State.sat_warden (s : State) (g : Reg.Fld) (x : Nat) : (s.sat g x).warden = s.warden := State.wr_warden _ _ _
@[simp] theorem State.sat_heads (s : State) (g : Reg.Fld) (x : Nat) : (s.sat g x).heads = s.heads := State.wr_heads _ _ _
@[simp] theorem State.sat_lds (s : State) (g : Reg.Fld) (x : Nat) : (s.sat g x).lds = s.lds := State.wr_lds _ _ _
@[simp] theorem State.sat_regions (s : State) (g : Reg.Fld) (x : Nat) : (s.sat g x).regions = s.regions := State.wr_regions _ _ _
@[simp] theorem State.sat_media (s : State) (g : Reg.Fld) (x : Nat) : (s.sat g x).media = s.media := State.wr_media _ _ _
@[simp] theorem State.sat_sec (s : State) (g : Reg.Fld) (x : Nat) : (s.sat g x).sec = s.sec := State.wr_sec _ _ _
@[simp] theorem State.sat_place (s : State) (g : Reg.Fld) (x : Nat) : (s.sat g x).place = s.place := State.wr_place _ _ _
@[simp] theorem State.sat_dir (s : State) (g : Reg.Fld) (x : Nat) : (s.sat g x).dir = s.dir := State.wr_dir _ _ _
@[simp] theorem State.sat_path (s : State) (g : Reg.Fld) (x : Nat) : (s.sat g x).path = s.path := State.wr_path _ _ _
@[simp] theorem State.sat_press (s : State) (g : Reg.Fld) (x : Nat) : (s.sat g x).press = s.press := State.wr_press _ _ _
@[simp] theorem State.sat_dmc (s : State) (g : Reg.Fld) (x : Nat) : (s.sat g x).dmc = s.dmc := State.wr_dmc _ _ _
@[simp] theorem State.sat_qos (s : State) (g : Reg.Fld) (x : Nat) : (s.sat g x).qos = s.qos := State.wr_qos _ _ _
@[simp] theorem State.sat_gth (s : State) (g : Reg.Fld) (x : Nat) : (s.sat g x).gth = s.gth := State.wr_gth _ _ _
@[simp] theorem State.sat_graft (s : State) (g : Reg.Fld) (x : Nat) : (s.sat g x).graft = s.graft := State.wr_graft _ _ _
@[simp] theorem State.sat_borrow (s : State) (g : Reg.Fld) (x : Nat) : (s.sat g x).borrow = s.borrow := State.wr_borrow _ _ _
@[simp] theorem State.sat_lent (s : State) (g : Reg.Fld) (x : Nat) : (s.sat g x).lent = s.lent := State.wr_lent _ _ _
@[simp] theorem State.sat_cat (s : State) (g : Reg.Fld) (x : Nat) : (s.sat g x).cat = s.cat := State.wr_cat _ _ _
@[simp] theorem State.sat_mgmt (s : State) (g : Reg.Fld) (x : Nat) : (s.sat g x).mgmt = s.mgmt := State.wr_mgmt _ _ _
@[simp] theorem State.sat_alertN (s : State) (g : Reg.Fld) (x : Nat) : (s.sat g x).alertN = s.alertN := State.wr_alertN _ _ _

@[simp] theorem State.inc_pending (s : State) (g : Reg.Fld) (x : Nat) : (s.inc g x).pending = s.pending := State.wr_pending _ _ _
@[simp] theorem State.inc_tick (s : State) (g : Reg.Fld) (x : Nat) : (s.inc g x).tick = s.tick := State.wr_tick _ _ _
@[simp] theorem State.inc_free (s : State) (g : Reg.Fld) (x : Nat) : (s.inc g x).free = s.free := State.wr_free _ _ _
@[simp] theorem State.inc_out (s : State) (g : Reg.Fld) (x : Nat) : (s.inc g x).out = s.out := State.wr_out _ _ _
@[simp] theorem State.inc_heldLow (s : State) (g : Reg.Fld) (x : Nat) : (s.inc g x).heldLow = s.heldLow := State.wr_heldLow _ _ _
@[simp] theorem State.inc_captHigh (s : State) (g : Reg.Fld) (x : Nat) : (s.inc g x).captHigh = s.captHigh := State.wr_captHigh _ _ _
@[simp] theorem State.inc_boot (s : State) (g : Reg.Fld) (x : Nat) : (s.inc g x).boot = s.boot := State.wr_boot _ _ _
@[simp] theorem State.inc_warden (s : State) (g : Reg.Fld) (x : Nat) : (s.inc g x).warden = s.warden := State.wr_warden _ _ _
@[simp] theorem State.inc_heads (s : State) (g : Reg.Fld) (x : Nat) : (s.inc g x).heads = s.heads := State.wr_heads _ _ _
@[simp] theorem State.inc_lds (s : State) (g : Reg.Fld) (x : Nat) : (s.inc g x).lds = s.lds := State.wr_lds _ _ _
@[simp] theorem State.inc_regions (s : State) (g : Reg.Fld) (x : Nat) : (s.inc g x).regions = s.regions := State.wr_regions _ _ _
@[simp] theorem State.inc_media (s : State) (g : Reg.Fld) (x : Nat) : (s.inc g x).media = s.media := State.wr_media _ _ _
@[simp] theorem State.inc_sec (s : State) (g : Reg.Fld) (x : Nat) : (s.inc g x).sec = s.sec := State.wr_sec _ _ _
@[simp] theorem State.inc_place (s : State) (g : Reg.Fld) (x : Nat) : (s.inc g x).place = s.place := State.wr_place _ _ _
@[simp] theorem State.inc_dir (s : State) (g : Reg.Fld) (x : Nat) : (s.inc g x).dir = s.dir := State.wr_dir _ _ _
@[simp] theorem State.inc_path (s : State) (g : Reg.Fld) (x : Nat) : (s.inc g x).path = s.path := State.wr_path _ _ _
@[simp] theorem State.inc_press (s : State) (g : Reg.Fld) (x : Nat) : (s.inc g x).press = s.press := State.wr_press _ _ _
@[simp] theorem State.inc_dmc (s : State) (g : Reg.Fld) (x : Nat) : (s.inc g x).dmc = s.dmc := State.wr_dmc _ _ _
@[simp] theorem State.inc_qos (s : State) (g : Reg.Fld) (x : Nat) : (s.inc g x).qos = s.qos := State.wr_qos _ _ _
@[simp] theorem State.inc_gth (s : State) (g : Reg.Fld) (x : Nat) : (s.inc g x).gth = s.gth := State.wr_gth _ _ _
@[simp] theorem State.inc_graft (s : State) (g : Reg.Fld) (x : Nat) : (s.inc g x).graft = s.graft := State.wr_graft _ _ _
@[simp] theorem State.inc_borrow (s : State) (g : Reg.Fld) (x : Nat) : (s.inc g x).borrow = s.borrow := State.wr_borrow _ _ _
@[simp] theorem State.inc_lent (s : State) (g : Reg.Fld) (x : Nat) : (s.inc g x).lent = s.lent := State.wr_lent _ _ _
@[simp] theorem State.inc_cat (s : State) (g : Reg.Fld) (x : Nat) : (s.inc g x).cat = s.cat := State.wr_cat _ _ _
@[simp] theorem State.inc_mgmt (s : State) (g : Reg.Fld) (x : Nat) : (s.inc g x).mgmt = s.mgmt := State.wr_mgmt _ _ _
@[simp] theorem State.inc_alertN (s : State) (g : Reg.Fld) (x : Nat) : (s.inc g x).alertN = s.alertN := State.wr_alertN _ _ _

@[simp] theorem State.wrBit_pending (s : State) (g : Reg.Fld) (i : Nat) (x : Bool) : (s.wrBit g i x).pending = s.pending := State.wr_pending _ _ _
@[simp] theorem State.wrBit_tick (s : State) (g : Reg.Fld) (i : Nat) (x : Bool) : (s.wrBit g i x).tick = s.tick := State.wr_tick _ _ _
@[simp] theorem State.wrBit_free (s : State) (g : Reg.Fld) (i : Nat) (x : Bool) : (s.wrBit g i x).free = s.free := State.wr_free _ _ _
@[simp] theorem State.wrBit_out (s : State) (g : Reg.Fld) (i : Nat) (x : Bool) : (s.wrBit g i x).out = s.out := State.wr_out _ _ _
@[simp] theorem State.wrBit_heldLow (s : State) (g : Reg.Fld) (i : Nat) (x : Bool) : (s.wrBit g i x).heldLow = s.heldLow := State.wr_heldLow _ _ _
@[simp] theorem State.wrBit_captHigh (s : State) (g : Reg.Fld) (i : Nat) (x : Bool) : (s.wrBit g i x).captHigh = s.captHigh := State.wr_captHigh _ _ _
@[simp] theorem State.wrBit_boot (s : State) (g : Reg.Fld) (i : Nat) (x : Bool) : (s.wrBit g i x).boot = s.boot := State.wr_boot _ _ _
@[simp] theorem State.wrBit_warden (s : State) (g : Reg.Fld) (i : Nat) (x : Bool) : (s.wrBit g i x).warden = s.warden := State.wr_warden _ _ _
@[simp] theorem State.wrBit_heads (s : State) (g : Reg.Fld) (i : Nat) (x : Bool) : (s.wrBit g i x).heads = s.heads := State.wr_heads _ _ _
@[simp] theorem State.wrBit_lds (s : State) (g : Reg.Fld) (i : Nat) (x : Bool) : (s.wrBit g i x).lds = s.lds := State.wr_lds _ _ _
@[simp] theorem State.wrBit_regions (s : State) (g : Reg.Fld) (i : Nat) (x : Bool) : (s.wrBit g i x).regions = s.regions := State.wr_regions _ _ _
@[simp] theorem State.wrBit_media (s : State) (g : Reg.Fld) (i : Nat) (x : Bool) : (s.wrBit g i x).media = s.media := State.wr_media _ _ _
@[simp] theorem State.wrBit_sec (s : State) (g : Reg.Fld) (i : Nat) (x : Bool) : (s.wrBit g i x).sec = s.sec := State.wr_sec _ _ _
@[simp] theorem State.wrBit_place (s : State) (g : Reg.Fld) (i : Nat) (x : Bool) : (s.wrBit g i x).place = s.place := State.wr_place _ _ _
@[simp] theorem State.wrBit_dir (s : State) (g : Reg.Fld) (i : Nat) (x : Bool) : (s.wrBit g i x).dir = s.dir := State.wr_dir _ _ _
@[simp] theorem State.wrBit_path (s : State) (g : Reg.Fld) (i : Nat) (x : Bool) : (s.wrBit g i x).path = s.path := State.wr_path _ _ _
@[simp] theorem State.wrBit_press (s : State) (g : Reg.Fld) (i : Nat) (x : Bool) : (s.wrBit g i x).press = s.press := State.wr_press _ _ _
@[simp] theorem State.wrBit_dmc (s : State) (g : Reg.Fld) (i : Nat) (x : Bool) : (s.wrBit g i x).dmc = s.dmc := State.wr_dmc _ _ _
@[simp] theorem State.wrBit_qos (s : State) (g : Reg.Fld) (i : Nat) (x : Bool) : (s.wrBit g i x).qos = s.qos := State.wr_qos _ _ _
@[simp] theorem State.wrBit_gth (s : State) (g : Reg.Fld) (i : Nat) (x : Bool) : (s.wrBit g i x).gth = s.gth := State.wr_gth _ _ _
@[simp] theorem State.wrBit_graft (s : State) (g : Reg.Fld) (i : Nat) (x : Bool) : (s.wrBit g i x).graft = s.graft := State.wr_graft _ _ _
@[simp] theorem State.wrBit_borrow (s : State) (g : Reg.Fld) (i : Nat) (x : Bool) : (s.wrBit g i x).borrow = s.borrow := State.wr_borrow _ _ _
@[simp] theorem State.wrBit_lent (s : State) (g : Reg.Fld) (i : Nat) (x : Bool) : (s.wrBit g i x).lent = s.lent := State.wr_lent _ _ _
@[simp] theorem State.wrBit_cat (s : State) (g : Reg.Fld) (i : Nat) (x : Bool) : (s.wrBit g i x).cat = s.cat := State.wr_cat _ _ _
@[simp] theorem State.wrBit_mgmt (s : State) (g : Reg.Fld) (i : Nat) (x : Bool) : (s.wrBit g i x).mgmt = s.mgmt := State.wr_mgmt _ _ _
@[simp] theorem State.wrBit_alertN (s : State) (g : Reg.Fld) (i : Nat) (x : Bool) : (s.wrBit g i x).alertN = s.alertN := State.wr_alertN _ _ _

/-! ### Register words and fields -/

@[simp] theorem State.word_setWord_same (s : State) (off : Nat) (v : Word) : (s.setWord off v).word off = v := Tbl.lookD_putD_same _ _ _ _

theorem State.word_setWord_other (s : State) (off k : Nat) (v : Word) (h : k ≠ off) : (s.setWord off v).word k = s.word k :=
  Tbl.lookD_putD_other _ _ _ _ _ _ h

theorem State.word_setDword_other (s : State) (off k : Nat) (v : BitVec 64) (h : k ≠ off) (h' : k ≠ off + 4) : (s.setDword off v).word k = s.word k := by
  rw [State.setDword, State.word_setWord_other _ _ _ _ h', State.word_setWord_other _ _ _ _ h]

/-- A write of a field changes only the words the field lies in. -/
theorem State.word_wr_other (s : State) (f : Reg.Fld) (x k : Nat) (h : k ≠ f.off + 4 * (f.lo / 32)) (h' : k ≠ f.off + 4 * (f.lo / 32) + 4) :
    (s.wr f x).word k = s.word k := by
  simp only [State.wr]
  split
  · exact State.word_setWord_other _ _ _ _ h
  · exact State.word_setDword_other _ _ _ _ h h'

/-- A write of a field that lies in one word changes only that word. -/
theorem State.word_wr_in (s : State) (f : Reg.Fld) (x k : Nat) (hf : f.lo % 32 + f.w ≤ 32) (h : k ≠ f.off + 4 * (f.lo / 32)) :
    (s.wr f x).word k = s.word k := by
  simp only [State.wr, hf, ↓reduceIte]
  exact State.word_setWord_other _ _ _ _ h

theorem getLsbD_setBits {n : Nat} (v : BitVec n) (lo w x i : Nat) (h : lo + w ≤ n) :
    (setBits v lo w x).getLsbD i = if lo ≤ i ∧ i < lo + w then x.testBit (i - lo) else v.getLsbD i := by
  have hp : 2 ^ w - 1 < 2 ^ n := by
    have := Nat.pow_le_pow_right (n := 2) (by omega) (show w ≤ n by omega)
    have : 0 < 2 ^ w := Nat.two_pow_pos w
    omega
  have e (j : Nat) : (BitVec.ofNat n (2 ^ w - 1)).getLsbD j = decide (j < w) := by
    simp only [BitVec.getLsbD_ofNat, Nat.testBit_two_pow_sub_one]
    by_cases hj : j < w <;> simp [hj]
    omega
  simp only [setBits, BitVec.getLsbD_or, BitVec.getLsbD_and, BitVec.getLsbD_not, BitVec.getLsbD_shiftLeft, e, BitVec.getLsbD_ofNat]
  by_cases hi : i < n
  · by_cases h1 : lo ≤ i
    · by_cases h2 : i < lo + w
      · have h3 : ¬ i < lo := by omega
        have h4 : i - lo < w := by omega
        have h5 : i - lo < n := by omega
        simp [hi, h1, h2, h3, h4, h5]
      · have h3 : ¬ i < lo := by omega
        have h4 : ¬ i - lo < w := by omega
        simp [hi, h1, h2, h3, h4]
    · have h3 : i < lo := by omega
      simp [hi, h1, h3]
  · have h1 : ¬ (lo ≤ i ∧ i < lo + w) := by omega
    have h2 : v.getLsbD i = false := BitVec.getLsbD_of_ge v i (by omega)
    simp [hi, h1, h2]

theorem testBit_bitsOf {n : Nat} (v : BitVec n) (lo w i : Nat) : (bitsOf v lo w).testBit i = (decide (i < w) && v.getLsbD (lo + i)) := by
  simp [bitsOf, Nat.testBit_mod_two_pow, BitVec.getLsbD, Nat.testBit_shiftRight]

/-- A field of a word reads what was written to it. -/
theorem bitsOf_setBits_same {n : Nat} (v : BitVec n) (lo w x : Nat) (h : lo + w ≤ n) : bitsOf (setBits v lo w x) lo w = x % 2 ^ w := by
  apply Nat.eq_of_testBit_eq
  intro i
  rw [testBit_bitsOf, getLsbD_setBits _ _ _ _ _ h, Nat.testBit_mod_two_pow]
  by_cases hi : i < w
  · have h1 : lo ≤ lo + i ∧ lo + i < lo + w := by omega
    simp [hi]
  · simp [hi]

/-- A field of a word is unaffected by a write of bits outside it. -/
theorem bitsOf_setBits_other {n : Nat} (v : BitVec n) (lo w x a b : Nat) (h : lo + w ≤ n) (hd : lo + w ≤ a ∨ a + b ≤ lo) :
    bitsOf (setBits v lo w x) a b = bitsOf v a b := by
  apply Nat.eq_of_testBit_eq
  intro i
  rw [testBit_bitsOf, testBit_bitsOf, getLsbD_setBits _ _ _ _ _ h]
  by_cases hi : i < b
  · have h1 : ¬ (lo ≤ a + i ∧ a + i < lo + w) := by omega
    simp [hi, h1]
  · simp [hi]

end Sys2Proof.Machine
end

