-- ==== Sys2Proof/Tests/Slice0.lean ====
section
/-! SUPPORT. Tests of the model, each about one command on a small state: the checks of well-formedness, and for every statement states and operands that meet its hypotheses, at boundary values where they have a range. The
expected values are worked out by hand from the rules that the statements cite. -/
namespace Sys2Proof.Tests
-- each evaluation takes a thread of its own otherwise
set_option Elab.async false
open Sys2Proof.Machine

/-! ### States that meet the hypotheses of the statements -/

/-- A die that is released, at 64 times the reference clock, with its pairs healthy and each holding its duty, channels 0 and 1, 8 units of host capacity, and head 0 of an existing, trained link. -/
def up : State :=
  let s : State := { State.reset with boot := { State.reset.boot with released := true, h := 8, sCap := 4, vCap := 2, chans := [0, 1], raw := 64 } }
  let s := (s.wr Reg.GLB_WDN_STATUS_HEALTHY 255).wr Reg.GLB_WDN_DUTY_OWNERS 0x76543210
  let s := (s.wr Reg.GLB_CLK_STATUS_ROOT_MULT_ACTIVE 64).wr Reg.DIR_BI_TIMEOUT_BI_TIMEOUT 1600000
  (s.setFlag (Reg.GLB_HEAD_STATUS_EXISTS 0) true).setFlag (Reg.GLB_HEAD_STATUS_LINK_UP 0) true

/-- An LD of head 0. -/
def anLd : Ld := { head := 0, manage := true, st := .ioUp }

/-- A region of two units of host-managed capacity in the clear. -/
def aRegion : Region := { base := 0, len := 2, hdmDb := false, cls := .plain }

/-- The die with one LD, which its Manager may command, and one region. -/
def live : State := { up with lds := [(0, anLd)], regions := [(0, aRegion)] }

/-- A packet of the Fabric Manager; the same ahead of which an LD is named; a packet of LD 0. -/
def fm : Hdr := { src := .fm 0 }
def fmLd : Hdr := { src := .fm 0, ldIx := some 0 }
def ofLd : Hdr := { src := .ld 0 }

/-- The return code of the reply that has left the block last. -/
def codeOf (o : Host.Outcome State Fault Refusal) : Option Nat :=
  match o with
  | .next t => t.out.findSome? (fun x => match x with | .reply _ _ _ rc _ _ _ => some rc | _ => none)
  | _ => none


/-- The state a command leads to. -/
def after (c : Instr) (s : State) : State := match exec c s with | .next t => t | _ => s

/-- A command leads to a state. -/
def leadsTo (o : Host.Outcome State Fault Refusal) (t : State) : Bool := match o with | .next u => u == t | _ => false

/-! ### Well-formed commands: each check of `Instr.wf` refuses an ill-formed term, and takes the largest value that its field holds -/

/-- A CXL.mem request at a host address. -/
def reqAt (hpa : Nat) : MemReq := { head := 0, ldId := 0, hpa := hpa, tag := 5 }

theorem test_wf_register_sizes :
    ([.registerWrite (.fm 0) .bar2 0 3 0, .registerWrite (.fm 0) .bar2 0 16 0, .registerWrite (.ld 0) .config 0 8 0, .lowWordRead (.fm 0) .bar2 0 0, .lowWordRead (.ld 0) .config 0 8] : List Instr).all
      (fun c => !c.wf) = true
    ∧ ([.registerWrite (.fm 0) .bar2 0 8 0, .registerWrite (.ld 0) .config 0 4 0, .lowWordRead (.fm 0) .bar2 0 1, .lowWordRead (.fm 0) .bar2 0 2] : List Instr).all Instr.wf = true := by decide +kernel

theorem test_wf_addresses :
    ([.memRd (reqAt (2 ^ 52)), .memRdData (reqAt (2 ^ 52)), .memInv (reqAt (2 ^ 52)), .memClnEvct (reqAt (2 ^ 52)), .memSpecRd (reqAt (2 ^ 52)), .memWr (reqAt (2 ^ 52)) 0 false,
        .memWrPtl (reqAt (2 ^ 52)) 0 0 false, .wcbDrain 0 (2 ^ 39), .mergeReadDone 0 (2 ^ 39) 0, .birsp 0 (2 ^ 39) .i, .biConflict 0 (2 ^ 39), .biTimeout 0 (2 ^ 39), .extentPortDrop 0 (2 ^ 24),
        .extentReleaseDone 0 (2 ^ 24), .counterOverflowDone 0 (2 ^ 33), .ceVerifyRead 0 (2 ^ 39) 0] : List Instr).all (fun c => !c.wf) = true
    ∧ ([.memRd (reqAt (2 ^ 52 - 1)), .wcbDrain 0 (2 ^ 39 - 1), .biTimeout 15 (2 ^ 39 - 1), .extentPortDrop 63 (2 ^ 24 - 1), .counterOverflowDone 31 (2 ^ 33 - 1)] : List Instr).all Instr.wf = true := by
  decide +kernel

theorem test_wf_decoders :
    ([.hdmDecoderCommit 0 0 (2 ^ 52) 0 0 1 256, .hdmDecoderCommit 0 0 0 (2 ^ 52) 0 1 256, .hdmDecoderCommit 0 0 0 0 (2 ^ 52) 1 256, .hdmDecoderCommit 0 0 0 0 0 17 256,
        .hdmDecoderCommit 0 0 0 0 0 1 16385] : List Instr).all (fun c => !c.wf) = true
    ∧ (Instr.hdmDecoderCommit 63 3 (2 ^ 52 - 2 ^ 28) (2 ^ 28) 0 16 16384).wf = true := by decide +kernel

theorem test_wf_field_widths :
    ([.gthConverterCal 0 (2 ^ 22) 0 0 0 0, .leaseRequest 0 0 0 512 0, .leaseRequest 0 0 0 0 (2 ^ 17), .leaseGrant 0 0 0 0 0 128, .leaseRenewed 0 0 0 128, .leaseRecall 0 0 0 1024] : List Instr).all
      (fun c => !c.wf) = true
    ∧ ([.gthConverterCal 5 (2 ^ 22 - 1) 0 0 0 0, .leaseGrant 1 1023 63 511 (2 ^ 17 - 1) 127, .leaseRecall 1 0 63 1023] : List Instr).all Instr.wf = true := by decide +kernel

theorem test_wf_lengths :
    ([.pressCompressDone 0 ⟨[], []⟩, .governorInterval [], .thermalBackstop [], .wru 0 0 0 0 [] 0, .datau 0 0 0 [] 0, .programSettings fm 0 0 [] true true, .setLabelMap fm 0 0 [],
        .setEventInterruptPolicy fm [0], .centralDieRelease ⟨[], []⟩, .fuReceive 0 []] : List Instr).all (fun c => !c.wf) = true
    ∧ ([.pressCompressDone 0 ⟨[], [0, 0, 0, 0, 0, 0, 0]⟩, .governorInterval (List.replicate 5 none), .fuReceive 0 (List.replicate 256 0), .setLabelMap fm 0 0 (List.replicate 16 0),
        .setEventInterruptPolicy fm [0, 0, 0, 0, 0], .centralDieRelease ⟨List.replicate 16 {}, []⟩] : List Instr).all Instr.wf = true := by decide +kernel

/-- A compressed page of more stream bytes than a page has. -/
theorem test_wf_refuses_long_image : (Instr.pressCompressDone 0 ⟨List.replicate 4097 0, [0, 0, 0, 0, 0, 0, 0]⟩).wf = false := by decide +kernel

/-! ### Commands of the interpreter: packets that are ready, and the codes they are answered with -/

/-- The packet of each command is ready at a state, and is answered with the code given. -/
def answered (s : State) (l : List (Instr × Nat)) : Bool :=
  l.all (fun e => (packetOf e.1).any (fun p => decide (s.isReady p)) && codeOf (exec e.1 s) == some e.2)

/-- The die with a head 1 whose link is down and that has no LD; with a free key slot for regions that the interpreter makes. -/
def bare : State := { up.setFlag (Reg.GLB_HEAD_STATUS_EXISTS 1) true with lds := [(0, anLd)] }

theorem test_identity_lock_and_ld_commands :
    answered live [(.getIdentity fm, 0), (.getSettings fm 3, 0), (.getSettings fm 4, 2), (.setLocks fm 127, 0), (.setLocks fm 128, 2), (.deleteLd fm 0, 0),
      (.setLdManage fm 0 1, 0), (.deleteLd fm 63, 0x8002), (.deleteLd fm 64, 2)] = true
    ∧ answered bare [(.setHeadMode fm 1 1, 0), (.setHeadMode fm 2 1, 2), (.setHeadMode fm 1 2, 2), (.setHeadMode fm 0 1, 0x8005), (.createLd fm 1 15 63 1, 0), (.createLd fm 1 16 1 1, 2),
      (.createLd fm 0 0 1 1, 0x8005), (.createLd fm 1 0 0 1, 0x8004)] = true := by decide +kernel

/-- DISABLE and ENABLE of an LD, by its index and by its head; static capacity of an LD that has no decoder. -/
theorem test_disable_enable_and_capacity :
    answered live [(.disable fm 0 0 0, 1), (.disable fm 1 0 1, 1), (.disable fm 2 0 0, 2), (.disable fm 0 63 0, 0x8002), (.enable fm 0 0, 0), (.enable fm 1 0, 0), (.enable fm 1 16, 2),
      (.setStaticCapacity fmLd [(0, 2)], 0), (.setStaticCapacity fmLd [(0, 1), (0x10000000, 1)], 0), (.setStaticCapacity fmLd [(0x10000000, 2)], 2)] = true
    ∧ ((after (.disable fm 0 0 0) live).ld? 0).any (fun d => d.disabled) = true ∧ ((after (.enable fm 0 0) { live with lds := [(0, { anLd with disabled := true })] }).ld? 0).any (fun d => !d.disabled) = true
    ∧ ((after (.setStaticCapacity fmLd [(0, 1), (0x10000000, 1)]) live).ld? 0).any (fun d => d.exts.map (fun e => (e.ldUnit, e.unit)) == [(0, 0), (1, 1)]) = true := by decide +kernel

theorem test_placement_commands :
    answered live [(.setCurator fm 0 1 0 0 0 255 1, 0), (.setCurator fm 100 2 1 1 1 1 1, 2), (.setRegionPlacement fm 0 2 1 3, 0), (.setRegionPlacement fm 0 3 1 1, 2), (.setRegionPlacement fm 0 1 1 4, 2),
      (.setRegionPlacement fm 1 1 1 1, 0x8002), (.getPlacement fm, 0), (.getPageInfo fm 1 0 2, 0), (.getPageInfo fmLd 0 0 1, 0), (.getPageInfo fm 1 0 0, 0x800F), (.getPageInfo fm 1 1 1, 2),
      (.getEpochTotals fm, 0), (.sanitizeRange fm 1 0 0x1000, 1), (.sanitizeRange fmLd 0 0 0x1000, 1), (.sanitizeRange fm 1 0 0x80001000, 2)] = true
    ∧ (after (.setCurator fm 0 1 0 0 0 255 1) live).rd Reg.CUR_EPOCH_CFG_LEN_MS = 1 ∧ (after (.setCurator fm 0 1 0 0 0 255 1) live).rd Reg.CUR_POLICY_BALANCE_PCT = 127 := by decide +kernel

theorem test_qos_and_governor_commands :
    answered live [(.setClass fm 0 0 0 1000 1000 1000 1 0, 0), (.setClass fm 63 0 0 0 0 0 3 15, 0), (.setClass fm 64 0 0 0 0 0 1 0, 2), (.setClass fm 0 0 0 0 0 0 0 0, 2), (.deleteClass fm 0, 0x8002),
      (.setLabelMap fm 0 0 (List.replicate 16 0), 0), (.setLabelMap fm 15 15 (List.replicate 16 0x40), 0), (.setLabelMap fm 0 0 (List.replicate 16 0x80), 2), (.setLendClass fm 63, 0), (.getQos fm 0, 0x8002),
      (.setGovernor fm 100 0 255 1, 0), (.setGovernor fm 100 90 80 2, 2), (.getGovernor fm, 0)] = true
    ∧ answered (after (.setClass fm 0 0 0 1000 1000 1000 1 0) live) [(.deleteClass fm 0, 0), (.getQos fm 0, 0)] = true := by decide +kernel

theorem test_key_and_region_commands :
    answered live [(.allocateKey fm, 0), (.freeKey fm 0, 0x8005), (.flushKey fm 0, 0x8005), (.getKeyStatus fm 0, 0), (.getLosses fm, 0), (.deleteRegion fm 0, 0), (.deleteRegion fm 1, 0x8002), (.getRegion fm 0, 0),
      (.getRegion fm 1, 0x8002), (.createRegion fm 0x20000000 2 0 2 0 0 0 0, 0), (.createRegion fm 0x20000000 0 0 2 0 0 0 0, 2), (.createRegion fm 0x10000000 1 0 2 0 0 0 0, 2),
      (.createRegion fm 0x20000000 1 0 1 0 0 0 0, 0x8005), (.createLendRegion fm 0x20000000 1 2 0, 2), (.deleteLendRegion fm, 0x8002)] = true
    ∧ answered (after (.allocateKey fm) live) [(.createRegion fm 0x20000000 1 1 1 0 2 1 3, 0), (.freeKey fm 0, 0), (.flushKey fm 0, 0), (.allocateKey fm, 0)] = true
    ∧ answered (after (.createLendRegion fm 0x20000000 1 1 0) (after (.allocateKey fm) live)) [(.deleteLendRegion fm, 0)] = true := by decide +kernel

theorem test_press_queue_commands :
    answered live [(.createQueue fmLd 0 4, 0), (.createQueue fmLd 0 12, 0), (.createQueue fmLd 0 3, 0x800F), (.createQueue fmLd 1 4, 2), (.deleteQueue fm 0, 0x8002), (.queueTail fm 0 0, 0x8002),
      (.getQueue fm 0, 0x8002), (.setPress fm 1 255, 0), (.setPress fm 2 1, 2), (.getPress fm, 0)] = true
    ∧ answered (after (.createQueue fmLd 0 4) live) [(.queueTail fm 0 15, 0), (.queueTail fm 0 16, 0), (.getQueue fm 0, 0), (.deleteQueue fm 0, 0), (.createQueue fmLd 64 12, 0)] = true
    ∧ (after (.queueTail fm 0 17) (after (.createQueue fmLd 0 4) live)).rd (Reg.PRS_Q_TAIL_TAIL 0) = 1 ∧ (after (.setPress fm 1 255) live).rd Reg.PRS_CFG_RETIRE_AT = 15 := by decide +kernel

theorem test_reliability_commands :
    answered live [(.scrubRange fm 1 0 0x1000, 1), (.scrubRange fmLd 0 0 0, 1), (.scrubRange fm 1 1 0x1000, 2), (.cancelScrub fm, 0x8005), (.setPatrol fm 255, 0), (.requestPpr fm 15 15 1 7 3 0x1FFFF 9, 0),
      (.requestPpr fm 0 0 0 0 0 0x20000 0, 2), (.getErrors fm 15, 0), (.getErrors fm 16, 2), (.readCeLog fm 15, 0)] = true
    ∧ answered (after (.scrubRange fm 1 0 0x1000) live) [(.cancelScrub fm, 0), (.scrubRange fm 1 0 0x1000, 6)] = true
    ∧ ((after (.scrubRange fm 1 0x80001000 0x1000) live).mgmt.passes.map (fun x => (x.done, x.status))) = [(true, 2)] := by decide +kernel

/-- The die whose link to the Gatehouse is up. -/
def linked : State := live.setFlag Reg.GLB_CLK_STATUS_GTH_LINK_UP true

theorem test_graft_supply_and_telemetry_commands :
    answered live [(.setGraft fm 1 3 1 1 10 10 1, 0), (.setGraft fm 2 3 1 1 10 10 1, 2), (.recallLease fm 63, 0x8002), (.setPortWidth fm 1 3, 0x8010), (.getGraft fm, 0), (.getPower fm, 0), (.clearFeed fm 0, 0x8010),
      (.setCounter fm 15 7 0x101, 0), (.setCounter fm 0 8 0, 2), (.readGroup fm 15, 0), (.setSampling fm 1 1 255 0, 0), (.setSampling fm 1 1 64 1, 2), (.readSamples fm 4095 127, 0), (.readSamples fm 0 128, 0x800F),
      (.setUserAccess fmLd 1, 0)] = true
    ∧ answered linked [(.clearFeed fm 1, 0), (.setFeedEnable fm 1 1 0xC702, 0), (.setFeedEnable fm 1 1 0, 2), (.setGthConfig fm 1 1 0 0 0 0 0 0 0 0, 0), (.clearEnergy fm 1, 0), (.setVrefValue fm 0, 0)] = true
    ∧ (after (.setVrefValue fm 0) linked).gth.writes = [(0x2100100, 2450000#32)] := by decide +kernel

/-- A lent lease and a port that is up: what RECALL_LEASE and SET_PORT_WIDTH ask for. -/
theorem test_lease_recall_and_port_width :
    answered ({ live.setFlag (Reg.GFT_LENT_VALID 63) true with lent := [(63, { port := 0, term := 1, bw := 1, order := 0 })] } : State) [(.recallLease fm 63, 0)] = true
    ∧ answered ((live.wr (Reg.GFT_PORT_STATUS_STATE 1) 2).wr (Reg.GFT_PORT_STATUS_WIDTH 1) 3) [(.setPortWidth fm 1 3, 0)] = true := by decide +kernel

/-- The die whose settings let INJECT_ERROR act, with page 0 HOT. -/
def poked : State := { live with boot := { live.boot with settings := (List.replicate 256 0#8).set 9 2 }, place := { live.place with acc := [(0, { form := .hot 0 0 none })] } }

theorem test_image_register_and_injection_commands :
    answered live [(.getFwInfo fm, 0), (.fwTransfer fm 0xFFFFFC 4 [1, 2, 3, 4], 0), (.fwTransfer fm 0 5 [1, 2, 3, 4], 0x16), (.fwTransfer fm 0xFFFFFE 4 [1, 2, 3, 4], 0x800F), (.fwCommit fm, 1), (.getBootLog fm, 0),
      (.readReg fm 0, 0), (.readReg fm 1, 0), (.writeReg fm 0x300004 1, 0), (.injectError fm 1 0, 0x8013), (.cxlGetFwInfo fm, 0), (.transferFw fm 0 [1, 2, 3, 4], 0), (.transferFw fm 0 [1, 2, 3], 2),
      (.activateFw fm false, 1), (.activateFw fm true, 2)] = true
    ∧ answered poked [(.injectError fm 1 0, 0), (.injectError fm 3 0xFC0, 0), (.injectError fm 4 0, 2), (.injectError fm 1 0x1000, 0x8005)] = true
    ∧ (after (.injectError fm 3 0xFC0) poked).path.wcb.map (fun e => (e.line, e.poison)) = [(63, true)] := by decide +kernel

theorem test_event_timestamp_log_and_sanitise_commands :
    answered live [(.getEventRecords ofLd 4, 0), (.getEventRecords ofLd 5, 0x17), (.getEventRecords fm 0, 0), (.clearEventRecords ofLd 0 true [], 0), (.clearEventRecords ofLd 0 false [1], 0xE),
      (.getEventInterruptPolicy ofLd, 0), (.setEventInterruptPolicy ofLd [0x10, 0x20, 0x30, 0x41], 0), (.setEventInterruptPolicy ofLd [0x10, 0x20, 0x30, 0x42], 2), (.setEventInterruptPolicy ofLd [0, 0x20, 0x30, 0x40], 2), (.setEventInterruptPolicy ofLd [0], 0x16), (.getTimestamp ofLd, 0), (.setTimestamp ofLd 5, 0),
      (.getSupportedLogs fm, 0), (.getLog fm true 0 4, 0), (.getLog fm true 0 0x100000, 2), (.getLog fm false 0 4, 0x17), (.identifyMemoryDevice ofLd, 0), (.sanitize ofLd, 1), (.secureErase ofLd, 1)] = true
    ∧ answered { live with lds := [] } [(.getTimestamp fmLd, 2), (.sanitize fmLd, 2)] = true := by decide +kernel

/-- The die whose LD has a dynamic-capacity region of one unit, and an offer of that unit. -/
def offered : State :=
  { live with lds := [(0, { anLd with dcRegions := [(0, { base := 2 ^ 28, len := 2 ^ 28, block := 2 ^ 28 })], offers := [{ exts := [(1, 1, 1)], tag := 0 }] })] }

theorem test_dynamic_capacity_and_fabric_commands :
    answered live [(.getDynamicCapacityConfiguration ofLd, 0), (.getDynamicCapacityExtentList ofLd, 0), (.addDynamicCapacityResponse ofLd [], 0x1E), (.releaseDynamicCapacity ofLd [(0, 0x10000000)], 0x1E), (.fmIdentify fm, 0),
      (.getMultiHeadedInfo fm, 0), (.getHeadInfo fm 0 255, 0), (.getHeadInfo fm 1 1, 2), (.getLdInfo fm, 0), (.tunnelManagementCommand fm 0 0xC000 (List.replicate 8 0), 2), (.getDcdInfo fm, 0),
      (.getHostDcRegionConfiguration fmLd, 0), (.setDcRegionConfiguration fmLd 7 0x40000000 0x40000000 0x10000000, 0), (.setDcRegionConfiguration fmLd 8 0 0 0x10000000, 2), (.getDcRegionExtentLists fmLd, 0),
      (.initiateDynamicCapacityAdd fmLd [] 0, 0), (.initiateDynamicCapacityRelease fmLd false [], 0), (.initiateDynamicCapacityRelease fmLd true [], 0)] = true
    ∧ answered { live with mgmt := { live.mgmt with mld := 1 } } [(.tunnelManagementCommand fm 0 0xC000 (List.replicate 8 0), 0), (.tunnelManagementCommand fm 0 0xC000 [], 0x16), (.tunnelManagementCommand fm 0 0xC004 [0, 0, 0, 0, 0, 0, 0, 0, 127, 0], 0)] = true
    ∧ answered offered [(.addDynamicCapacityResponse ofLd [(0x10000000, 0x10000000)], 0), (.addDynamicCapacityResponse ofLd [], 0)] = true
    ∧ answered (after (.addDynamicCapacityResponse ofLd [(0x10000000, 0x10000000)]) offered) [(.releaseDynamicCapacity ofLd [(0x10000000, 0x10000000)], 0),
        (.initiateDynamicCapacityRelease fmLd true [(0x10000000, 0x10000000)], 0)] = true := by decide +kernel

/-- OTP settings: a block that fails its check leaves the fuses alone; with a valid generation-0 block each check in turn. -/
theorem test_otp_commands_refuse :
    answered live [(.programSettings fm 4 0xC002 (List.replicate 256 0) true true, 2), (.programSettings fm 0 0 (List.replicate 256 0) true true, 2), (.programSettings fm 0 0xC002 [] true true, 0x16),
      (.revokeFwKey fm 4 0xC003, 2), (.revokeFwKey fm 0 0, 2)] = true := by decide +kernel

/-! ### Sources and packets that the interpreter turns away -/

theorem test_interpreter_checks :
    leadsTo (exec (.getIdentity { src := .ld 1 }) live) live = true ∧ codeOf (exec (.getIdentity fm) (live.wr Reg.GLB_WDN_DUTY_OWNERS 0xFFFFFFFF)) = some 0x8006
    ∧ codeOf (exec (.setLocks ofLd 1) live) = some 0x8001 ∧ codeOf (exec (.getIdentity { fm with lenBad := some 1 }) live) = some 0x16 ∧ codeOf (exec (.getIdentity { fm with rsv := 1 }) live) = some 2
    ∧ codeOf (exec (.setUserAccess fm 1) live) = some 0x16
    ∧ codeOf (exec (.setLocks { fm with reqId := 7 } 1) { live with mgmt := { live.mgmt with replays := [{ src := .fm 0, opcode := 0xC004, reqId := 7, rc := 0x8005, detail := 1, value := 0, body := [] }] } }) = some 0x8005
    ∧ leadsTo (exec (.fmIdentify ofLd) live) (live.sendReply (.ld 0) 1 0 3 0 0 []) = true ∧ leadsTo (exec (.unsupportedOpcode fm 0xCFFF) live) (live.sendReply (.fm 0) 0xCFFF 0 3 0 0 []) = true := by decide +kernel

/-! ### Registers -/

/-- What the last read of a register has returned. -/
def readOf (o : Host.Outcome State Fault Refusal) : Option (BitVec 64) :=
  match o with
  | .next t => t.out.findSome? (fun x => match x with | .readData _ v => some v | _ => none)
  | _ => none

/-- The Manager, an LD whose accesses see all of BAR2, and a serial number to read in halves. -/
def mgr : Agent := .ld 0
def numbered : State := live.setDword 0x8 0x1122334455667788#64

theorem test_register_reads :
    numbered.crossLink mgr = numbered ∧ numbered.view mgr = .full ∧ numbered.view (.ld 1) = .none
    ∧ (Reg.find 0x8).any (fun e => e.1.size == 8 && e.2 == 0) = true ∧ (Reg.find 0xC).any (fun e => e.1.size == 8 && e.2 == 1) = true ∧ (Reg.find 0x2FFFFFC).isNone = true
    ∧ readOf (exec (.lowWordRead mgr .bar2 0x2FFFFFC 4) numbered) = some 0 ∧ readOf (exec (.lowWordRead mgr .bar2 0x9 4) numbered) = some 0 ∧ readOf (exec (.lowWordRead mgr .bar2 0x8 2) numbered) = some 0
    ∧ leadsTo (exec (.lowWordRead (.ld 1) .bar2 0x8 4) numbered) numbered = true
    ∧ (Tbl.look (after (.lowWordRead mgr .bar2 0x8 4) numbered).captHigh 0x8).isSome = true
    ∧ readOf (exec (.highWordRead mgr 0xC) { numbered with captHigh := [(0x8, 0x99#32)] }) = some 0x99
    ∧ Tbl.look (after (.highWordRead mgr 0xC) { numbered with captHigh := [(0x8, 0x99#32)] }).captHigh 0x8 = none := by decide +kernel

theorem test_register_writes :
    Tbl.look (after (.lowWordWrite mgr 0x600010 0x40) live).heldLow 0x600010 = some 0x40 ∧ (after (.lowWordWrite mgr 0x600010 0x40) live).dword 0x600010 = 0
    ∧ (after (.highWordWrite mgr 0x600014 1) (after (.lowWordWrite mgr 0x600010 0x40) live)).dword 0x600010 = 0x100000040
    ∧ (after (.dirProbeStart mgr 1) (after (.lowWordWrite mgr 0x600010 0x40) live)).dir.probe = some 0x4000001
    ∧ leadsTo (exec (.lowWordWrite mgr 0x2FFFFFC 1) live) live = true ∧ leadsTo (exec (.access64 mgr true 0x600014 1) live) live = true := by decide +kernel

/-- One field of each access type: RW and its limits, RWL behind its lock, RW1C bit by bit and whole, RO (R7). -/
theorem test_register_fields :
    (Reg.find 0x109000).any (fun e => e.1.size == 4 && e.2 == 0) = true ∧ (after (.registerWrite mgr .bar2 0x109000 4 0x33) live).rd Reg.TRL_RAKE_CFG_PERIOD_H = 0x33
    ∧ (after (.registerWrite mgr .bar2 0x500000 4 3) (live.setFlag Reg.SEC_CFG_CFG_LOCK true)).rd Reg.SEC_CFG_PLAIN_OK = live.rd Reg.SEC_CFG_PLAIN_OK
    ∧ (after (.registerWrite mgr .bar2 0x500020 4 1) (live.setWord 0x500020 0x00050003)).word 0x500020 = 0x00050000
    ∧ (after (.registerWrite mgr .bar2 0x109004 4 0x10000) (live.setWord 0x109004 0x10007)).word 0x109004 = 7 := by decide +kernel

/-- A field takes a legal value; one that is illegal, out of bounds or above another field's is left, or takes the nearer end (R2). -/
theorem test_register_field_limits :
    (let w : Nat → Nat → State → Nat := fun off v s => ((after (.registerWrite mgr .bar2 (BitVec.ofNat 26 off) 4 (BitVec.ofNat 64 v)) s).word off).toNat
     live.view mgr = .full ∧ (live.word 0x40).getLsbD 31 = false
     ∧ bitsOf (BitVec.ofNat 32 (w 0x40 88 live)) 0 7 = 88 ∧ bitsOf (BitVec.ofNat 32 (w 0x40 87 live)) 0 7 = bitsOf (live.word 0x40) 0 7
     ∧ bitsOf (BitVec.ofNat 32 (w 0x300000 64 live)) 0 7 = 64 ∧ bitsOf (BitVec.ofNat 32 (w 0x300000 65 live)) 0 7 = bitsOf (live.word 0x300000) 0 7
     ∧ bitsOf (BitVec.ofNat 32 (w 0x104 0 live)) 0 10 = 1 ∧ bitsOf (BitVec.ofNat 32 (w 0x104 1001 live)) 0 10 = 1000
     ∧ bitsOf (BitVec.ofNat 32 (w 0x1000030 0x4020 live)) 0 16 = 0x1F20 ∧ bitsOf (BitVec.ofNat 32 (w 0x1001000 0x207D live)) 0 15 = 0x2020
     ∧ bitsOf (BitVec.ofNat 32 (w 0x2202000 0x00003F00 live)) 8 24 = 0x13F ∧ bitsOf (BitVec.ofNat 32 (w 0x2202000 0x00004000 live)) 8 8 = bitsOf (live.word 0x2202000) 8 8
     ∧ w 0x600004 1 live = 625 * 64)
    ∧ (after (.registerWrite mgr .bar2 0x400000 4 0xFFFFFFFF) live).word 0x400000 ≠ live.word 0x400000
    ∧ (after (.registerWrite mgr .bar2 0x1000040 4 5) live).word 0x1000040 ≠ live.word 0x1000040
    ∧ (let t := after (.registerWrite mgr .bar2 0x200020 4 1) live
       t.word 0x200020 = 1 ∧ t.qos.gDirty = true) := by decide +kernel

theorem test_only_stores : onlyStores 0x104 0 ∧ onlyStores 0x500000 0 := by unfold onlyStores; decide

/-- The mailbox, decoder 1 and vector 1 of LD 0, the last free and the decoder not committed. -/
theorem test_register_writes_of_other_spaces :
    (let s : State := live
     ((after (.registerWrite mgr .bar0 0x10108 4 0x4000) s).ld? 0).map (fun d => d.mbox.cmd) = some 0x4000
     ∧ ((after (.registerWrite mgr .bar0 0x10104 4 1) s).ld? 0).map (fun d => d.mbox.ctl.getLsbD 0) = some false
     ∧ (s.ld? 0).any (fun d => (Tbl.look d.decoders 1).isSome) = false ∧ ((after (.registerWrite mgr .bar0 0x1234 4 0x80) s).ld? 0).map (fun d => (d.dec 1).base / 2 ^ 32) = some 0x80
     ∧ ((after (.registerWrite mgr .bar4 0x10 4 0xFEE00003) s).ld? 0).map (fun d => (Tbl.lookD d.msix {} 1).addr) = some 0xFEE00000
     ∧ leadsTo (exec (.registerWrite (.fm 0) .bar4 0x10 4 1) s) s = true) := by decide +kernel

theorem test_single_register_commands :
    live.view mgr = .full
    ∧ (after (.prsQTailWrite mgr 0 0x13) (after (.createQueue fmLd 0 4) live)).rd (Reg.PRS_Q_TAIL_TAIL 0) = 3
    ∧ (after (.gthRegisterWrite mgr 0x2100100 5) linked).gth.writes = [(0x2100100, 5#32)] ∧ (after (.gthRegisterWrite mgr 0x2100100 5) live).gth.writes = []
    ∧ (after (.catGroupClear mgr 15) (live.wr (Reg.CAT_GRP_CNT_COUNT 15 7) 9)).rd (Reg.CAT_GRP_CNT_COUNT 15 7) = 0
    ∧ eventLegal 0x101 = true ∧ (after (.catEvselWrite mgr 0 3 0x01010102) live).evsel 0 6 = 0x102 ∧ (after (.catEvselWrite mgr 0 3 0x01010102) live).evsel 0 7 = 0x101
    ∧ (after (.catSampConfigWrite mgr false 0x0000FF01) live).rd Reg.CAT_SAMP_CTL_PERIOD = 1 ∧ (after (.catSampConfigWrite mgr true 0x8001) live).rd Reg.CAT_SAMP_HEADS_HEAD_MASK = 0x8001
    ∧ (after (.catGatherStart mgr) live).cat.waiting = [(1, 4)] ∧ (after (.alrCauseClear mgr 0x23 6) (live.setWord 0x230018C 7)).word 0x230018C = 1
    ∧ Tbl.lookD (after (.glbWdnKick (.pair 7) 7) { live with tick := 9 }).warden.kick 0 7 = 9 := by decide +kernel

/-! ### The step, and the state after reset -/

theorem test_step_takes_front_command :
    leadsTo (step { live with pending := [.perstAssert 0, .perstDeassert 0] }) (after (.perstAssert 0) { live with pending := [.perstDeassert 0] }) = true
    ∧ leadsTo (step live) (after (.perstDeassert 0) { live with tick := 1 }) = true ∧ leadsTo (step State.reset) State.reset = true := by decide +kernel

theorem test_tick_counts_in_enabled_groups :
    ((live.wr (Reg.CAT_GRP_CTL_EN 3) 1).groupOn 3) = true
    ∧ (match step ((live.wr (Reg.CAT_GRP_CTL_EN 3) 1).wr (Reg.CAT_GRP_TICKS_TICKS 3) (2 ^ 48 - 1)) with | .next t => t.rd (Reg.CAT_GRP_TICKS_TICKS 3) == 0 && t.tick == 1 | _ => false) = true := by decide +kernel

/-- The tables of the test states are in canonical form. -/
theorem test_states_are_canonical : Registers.wf live.regs ∧ Memory.wf live.media ∧ Tbl.Wf (0 : Byte) live.mgmt.otp ∧ Registers.wf State.reset.regs := by decide +kernel

theorem test_fields_are_independent :
    (live.wr Reg.GLB_RST_STATUS_CAUSE 3).rd Reg.GLB_RST_STATUS_CAUSE = 3 ∧ (live.wr (Reg.QOS_CLASS_FLOOR_FLOOR 0) (2 ^ 20 + 5)).rd (Reg.QOS_CLASS_FLOOR_FLOOR 0) = 5
    ∧ (live.wr (Reg.QOS_CLASS_FLOOR_FLOOR 0) 5).rd (Reg.QOS_CLASS_FLOOR_FLOOR 1) = 0 := by decide +kernel

/-! ### Resets -/

theorem test_cold_resets :
    (after .mainPwrokFall live).boot.released = false ∧ (after .mainPwrokFall live).boot.kind = .cold ∧ (after .mainPwrokFall { live with boot := { live.boot with released := false } }).boot.kind = .standby
    ∧ (after .coldRst live).boot.cause = 1 ∧ (after .coldRst live).lds = [] ∧ (after (.glbRstCold mgr 0x96400002) live).boot.cause = 3 ∧ (after (.glbRstCold mgr 0x96400002) live).boot.released = false
    ∧ (after (.glbRstCold mgr 0x00000002) live).boot.released = true ∧ leadsTo (exec .auxPowerUp { live with gth := { live.gth with aux := true } }) { live with gth := { live.gth with aux := true } } = true
    ∧ (after .auxPowerUp { live with gth := { live.gth with aux := false } }).boot.kind = .standby := by decide +kernel

theorem test_warm_and_port_resets :
    (after .warmRst { live with lds := [] }).boot.warmEntry = true ∧ (after .warmRst { live with lds := [] }).rd Reg.GLB_RST_STATUS_CAUSE = 2
    ∧ leadsTo (exec .warmRst { live with boot := { live.boot with warmEntry := true } }) { live with boot := { live.boot with warmEntry := true, warmN := false } } = true
    ∧ (after (.glbRstWarm mgr 0x96400005) { live with boot := { live.boot with chans := [0] } }).flag Reg.GLB_RST_CTL_MODE = true
    ∧ (let s : State := { up with boot := { up.boot with warmEntry := true } }
       s.disablesOver = true ∧ s.isSafe = false ∧ s.rd (Reg.GFT_PORT_STATUS_STATE 1) = 0 ∧ (after .warmEntryMoveDeadline s).boot.moveDeadline = true)
    ∧ (after (.perstAssert 0) up).linkUp 0 = false ∧ (after (.perstAssert 3) up).linkUp 0 = true ∧ (after (.perstAssert 3) up).boot.perst = 8 ∧ (after (.perstDeassert 3) (after (.perstAssert 3) up)).boot.perst = 0 := by decide +kernel

/-- A die in reset with its auxiliary supply, whose flash is erased: no image verifies. -/
def blank : State := { State.reset with gth := { State.reset.gth with aux := true }, mgmt := { State.reset.mgmt with erased := [0, 1, 2] } }

theorem test_release_asks_for_reset_and_supply :
    blank.gth.aux = true ∧ blank.boot.released = false ∧ (blank.pickImage (setField blank.takeSettings.boot.settings 0x0E 1)).run = none
    ∧ leadsTo (exec (.centralDieRelease { spd := [], badAcc := [] }) live) live = true ∧ leadsTo (exec (.centralDieRelease { spd := [], badAcc := [] }) State.reset) State.reset = true := by decide +kernel

/-! ### Heads, logical devices and requests -/

/-- Two units of extents in force at the port and at every slice, and a decoder over them. -/
def ext0 : Extent := { ldUnit := 0, unit := 0, len := 2, region := 8, static := true, slices := BitVec.allOnes 32 }
def dec0 : Decoder := { base := 2 ^ 40, size := 2 ^ 29, iw := 1, ig := 256, dpa := 0, used := 2 ^ 29, aliasLog := none }

/-- Head 0 with an ACTIVE LD over two units, and head 1 with an ACTIVE LD over the same units; both links carry CXL.mem. -/
def serving : State :=
  let s := (((up.setFlag (Reg.GLB_HEAD_STATUS_MEM_OK 0) true).setFlag (Reg.GLB_HEAD_STATUS_EXISTS 1) true).setFlag (Reg.GLB_HEAD_STATUS_LINK_UP 1) true).setFlag (Reg.GLB_HEAD_STATUS_MEM_OK 1) true
  let d : Ld := { anLd with st := .active, memSpace := true, exts := [ext0], decoders := [(0, dec0)] }
  { s with boot := { s.boot with memActive := true, cfgLoaded := true, pwrok := true }, lds := [(0, d), (1, { d with head := 1 })], regions := [(0, aRegion)] }

/-- The same die with LD 0 in another state, and with HDM-DB capacity. -/
def inState (st : LdState) : State := serving.updLd 0 (fun d => { d with st := st })
def coherent : State := { serving with regions := [(0, { aRegion with hdmDb := true })] }

theorem test_links_train_and_fall :
    live.linkUp 0 = true ∧ (let s := { after (.headLinkDown 0) serving with lds := [(0, anLd)] }
      s.trains 0 4 ∧ (after (.headLinkUp 0 2 4 1) { s with lds := [(0, { anLd with st := .down })] }).linkUp 0 = true
      ∧ ((after (.headLinkUp 0 2 4 1) { s with lds := [(0, { anLd with st := .down })] }).ld? 0).any (fun d => d.st == .ioUp) = true
      ∧ (after (.headLinkUp 0 1 4 1) s).flag (Reg.GLB_HEAD_STATUS_MEM_OK 0) = false)
    ∧ serving.mgmt.bg = [] ∧ serving.noTxn ∧ serving.dir.exchs = [] ∧ ((after (.headLinkDown 0) serving).ld? 0).any (fun d => d.st == .stopping && d.decoders != []) = true
    ∧ ((after (.headLinkDown 0) (inState .ioUp)).ld? 0).any (fun d => d.st == .down && d.decoders == []) = true
    ∧ (after (.headLinkRetrain 0 1) serving).rd (Reg.GLB_HEAD_STATUS_WIDTH 0) = 1 ∧ (after (.headLinkRetrain 0 1) serving).rd (Reg.GLB_HEAD_STATUS_RETRAINS 0) = 1 := by decide +kernel

/-- A head that has been idle for L1_IDLE and whose Link Control enables L1. -/
def dozing : State := { live with tick := 10 ^ 6, heads := [(0, { link := [(0x60, 2#32)] })] }

theorem test_link_power :
    (dozing.linkUp 0 && decide (dozing.rd (Reg.GLB_HEAD_STATUS_PSTATE 0) ≤ 1) && dozing.aspmOn 0 && dozing.headIdle 0 && !dozing.headBusy 0) = true
    ∧ (after (.aspmL1Entry 0 2) dozing).rd (Reg.GLB_HEAD_STATUS_PSTATE 0) = 4 ∧ leadsTo (exec (.aspmL1Entry 0 0) live) live = true
    ∧ (after (.l1Exit 0) (after (.aspmL1Entry 0 2) dozing)).rd (Reg.GLB_HEAD_STATUS_PSTATE 0) = 0 ∧ (after (.l0pRequest 0 1) (live.wr (Reg.GLB_HEAD_STATUS_WIDTH 0) 4)).rd (Reg.GLB_HEAD_STATUS_PSTATE 0) = 1
    ∧ (after (.l0pRequest 0 4) (live.wr (Reg.GLB_HEAD_STATUS_WIDTH 0) 4)).rd (Reg.GLB_HEAD_STATUS_PSTATE 0) = 0 ∧ leadsTo (exec (.l0pRequest 0 1) live) live = true
    ∧ (after (.pmeTurnOff 0) live).rd (Reg.GLB_HEAD_STATUS_PSTATE 0) = 5 := by decide +kernel

theorem test_ld_accesses :
    (after (.memorySpaceEnable 0) (serving.updLd 0 (fun d => { d with st := .ioUp, memSpace := false }))).ld? 0 = serving.ld? 0
    ∧ (anLd.checkDecoder 0 (2 ^ 40) (2 ^ 28) 0 1 256).isNone = true
    ∧ (let s := serving.updLd 0 (fun d => { d with st := .ioUp, decoders := [] })
       s.mayServe { anLd with memSpace := true, exts := [ext0] } ∧ ((after (.hdmDecoderCommit 0 0 (2 ^ 40) (2 ^ 29) 0 1 256) s).ld? 0).any (fun d => d.st == .active && d.decoders == [(0, dec0)]) = true
       ∧ ((after (.hdmDecoderCommit 0 1 (2 ^ 40) (2 ^ 29) 0 5 256) s).ld? 0).any (fun d => d.decErr == 2#4 && d.decoders == []) = true)
    ∧ (after (.cdatTableAccess 0) live).out = [.cdat 0 []] ∧ ((after (.configAccess (.ld 0) true 0x004 2) live).ld? 0).any (fun d => d.memSpace) = true
    ∧ (after (.configAccess (.fmOwned 0) true 0x060 2) { live with mgmt := { live.mgmt with mld := 1 } }).aspmOn 0 = true
    ∧ (after (.configAccess (.ld 0) false 0 0) (inState .stopping)).out = [.cfgData (.ld 0) none]
    ∧ (after (.msixUnmask 0 (some 31)) (live.updLd 0 (fun d => { d with pba := 1#32 <<< 31 }))).out = [.msix 0 31 0 0] := by decide +kernel

theorem test_ld_resets :
    ((after (.cxlReset 0 true) live).ld? 0) = some { anLd with resetClr := some true } ∧ ((after (.cxlReset 0 false) serving).ld? 0).any (fun d => d.st == .draining) = true
    ∧ (after (.cxlReset 0 false) serving).dir.walks = [{ why := .graceful 0, head := 0 }]
    ∧ ((after (.functionLevelReset 0) (serving.updLd 0 (fun d => { d with cfg := [(0x10, 5), (0x310, 7)] }))).ld? 0).any (fun d => d.cfg == [(0x310, 7)] && !d.memSpace && d.st == .active) = true
    ∧ (let s := inState .draining
       s.ldRuns 0 = false ∧ s.walkOver (fun w => w == .graceful 0) (fun x => x == .drain 0) = true ∧ ((after (.drainComplete 0) s).ld? 0).any (fun d => d.st == .active) = true
       ∧ leadsTo (exec (.gracefulDrainBound 0) s) s = true
       ∧ ((after (.gracefulDrainBound 0) ({ s with tick := s.rootN * 125000 }.updLd 0 (fun d => { d with disabled := true }))).ld? 0).any (fun d => d.st == .ioUp) = true)
    ∧ ((after (.drainComplete 0) (live.updLd 0 (fun d => { d with resetClr := some false, decoders := [(0, dec0)] }))).ld? 0).any (fun d => d.decoders == [] && d.resetClr.isNone) = true
    ∧ ((after (.stopComplete 0) (inState .stopping)).ld? 0).any (fun d => d.st == .active && d.lastAbrupt) = true
    ∧ ((after (.stopComplete 0) ((inState .stopping).updLd 0 (fun d => { d with memSpace := false }))).ld? 0).any (fun d => d.st == .ioUp && d.lastAbrupt) = true
    ∧ ((after (.stopComplete 0) ((inState .stopping).setFlag (Reg.GLB_HEAD_STATUS_LINK_UP 0) false)).ld? 0).any (fun d => d.st == .down && d.decoders == []) = true := by decide +kernel

/-- A read of head 0 at an address past the decoder's base. -/
def readAt (off : Nat) : MemReq := { head := 0, ldId := 0, hpa := 2 ^ 40 + off, tag := 5 }

theorem test_requests_at_the_port :
    serving.portTakes 0 .rd ∧ serving.ldOfReq 0 0 = some 0 ∧ (inState .stopping).ldOfReq 0 0 = some 0
    ∧ (after (.memRd (readAt 0x40)) serving).path.ingress = [serving.queued (readAt 0x40) .rd 0 0 false 0 1 0x40 0 0 false]
    ∧ (after (.memWr (readAt (2 ^ 29 - 64)) 7 false) serving).path.ingress.map (fun q => (q.line, q.op)) = [(2 ^ 23 - 1, .wr)]
    ∧ (after (.memRd (readAt (2 ^ 29))) serving).out = [.memData 0 5 0 true .noOp] ∧ (after (.memWr (readAt (2 ^ 29)) 0 false) serving).out = [.cmp 0 5 .noOp]
    ∧ (after (.memRd (readAt 0)) (inState .stopping)).out = [.memErr 0 5] ∧ (after (.memRd (readAt 0)) (inState .ioUp)).out = [.memData 0 5 0 true .noOp]
    ∧ (after (.memRd (readAt 0)) (inState .draining)).out = [.memErr 0 5] ∧ ((after (.memClnEvct (readAt 0)) (inState .draining)).path.ingress.map (·.op)) = [.evict]
    ∧ (after (.memRd { readAt 0 with head := 2 }) serving).out = [] ∧ leadsTo (exec (.memSpecRd (readAt 0)) serving) serving = true := by decide +kernel

/-- A decoder with 16 aliases of 512 MiB: its last 256 MiB holds the doorbell line, then the hole. -/
theorem test_doorbell_line_and_hole :
    (let s := serving.updLd 0 (fun d => { d with decoders := [(0, { base := 0, size := 2 ^ 35, iw := 1, ig := 256, dpa := 0, used := 2 ^ 28, aliasLog := some 29 })] })
     let r : MemReq := { head := 0, ldId := 0, hpa := 2 ^ 28, tag := 5 }
     (s.ld? 0).any (fun d => d.decode (2 ^ 28) == .bell 0 0 && d.decode (2 ^ 28 + 64) == .hole 0 0 && d.decode (2 ^ 29 * 63 + 0x40) == .dpa 0x40 15 3 true) = true
     ∧ (after (.memWr r 0 false) s).path.fences = [{ head := 0, tag := 5, mark := s.path.nextId + 1, waits := [] }] ∧ (after (.memRd r) s).out = [.memData 0 5 0 false .i]
     ∧ (after (.memWr { r with hpa := 2 ^ 28 + 64 } 0 false) s).out = [.cmp 0 5 .i]) := by decide +kernel

/-- Line 0 owned by head 1, and an exchange with that head. -/
def owned : State := { coherent with dir := { coherent.dir with ways := [(dirKey 0 (dirSet 0) 0, { line := 0, st := .o, sharers := headBit 1, named := 1 })], credits := [(1, 3)] } }
def drained (sent : Bool) : State := { owned with dir := { owned.dir with exchs := [{ line := 0, why := .drain 1, waits := [{ head := 1, snp := .inv, start := 0, sent := sent }] }] } }

theorem test_back_invalidate_messages :
    (owned.entry? 0).isSome = true ∧ (after (.birsp 1 0 .i) (drained true)).dir.exchs = [] ∧ (after (.birsp 1 0 .i) (drained true)).entry? 0 = none ∧ (after (.birsp 1 64 .i) (drained true)).dir = (drained true).dir
    ∧ (after (.biConflict 1 0) owned).out = [.biConflictAck 1 0] ∧ Tbl.lookD (after (.biCreditReturn 1 2) owned).dir.credits 0 1 = 5
    ∧ (after (.biCreditReturn 1 1) (drained false)).out = [.bisnp 1 0 0 .inv] ∧ leadsTo (exec (.biTimeout 1 0) (drained true)) (drained true) = true
    ∧ (let s := { drained true with tick := 1600000 }
       s.rd Reg.DIR_BI_TIMEOUT_BI_TIMEOUT ≤ s.tick ∧ (after (.biTimeout 1 0) s).dir.exchs = [] ∧ ((after (.biTimeout 1 0) s).ld? 1).any (fun d => d.drainPoisoned) = true) := by decide +kernel

/-! ### Slices and the directory -/

/-- A request of head 0 that waits alone for its slice, which is that of line 0. -/
def askAt0 (op : ReqOp) (snp : Snp := .noOp) : Req := { id := 9, src := .head 0, ld := 0, op := op, line := 0, tag := 5, snp := snp, data := 7, be := BitVec.allOnes 64 }
def asked (s : State) (q : Req) : State := { s with path := { s.path with ingress := [q], nextId := 10 } }
def hot (s : State) : State := { s with place := { s.place with acc := [(0, { form := .hot 0 0 none })] } }
def ld0 : Ld := (serving.ld? 0).getD anLd

/-- The requests of the statement stand alone at the slice of line 0, on a page that is UNWRITTEN or HOT, with a line that nobody holds, that is shared, or that head 1 owns. -/
theorem test_slice_requests_stand_alone :
    (sliceOfLine 0 = 0 ∧ (asked serving (askAt0 .rd)).lone 0 (askAt0 .rd) 0 ld0 ∧ serving.isDb 0 = false ∧ serving.blank 0)
    ∧ ((asked coherent (askAt0 .rd .data)).lone 0 (askAt0 .rd .data) 0 ld0 ∧ coherent.isDb 0 = true ∧ coherent.entry? 0 = none ∧ coherent.wayFor 0 = .free (dirKey 0 (dirSet 0) 0)) := by decide +kernel

theorem test_slice_requests_stand_alone_on_owned_and_hot_lines :
    ((asked owned (askAt0 .rd .data)).lone 0 (askAt0 .rd .data) 0 ld0 ∧ owned.snoopable 1 0 = true ∧ owned.mapper 1 0 = some 1 ∧ owned.rd (Reg.GLB_HEAD_STATUS_PSTATE 1) ≤ 1)
    ∧ ((asked (hot serving) (askAt0 .wr)).lone 0 (askAt0 .wr) 0 ld0 ∧ (hot serving).srcForm 0 = .hot 0 0 none ∧ (hot serving).guard 0 = none ∧ (hot serving).path.wcb = []
    ∧ coherent.snoopable 0 0 = true ∧ leadsTo (exec (.sliceArbitration 0) serving) serving = true) := by decide +kernel

/-- A write of a HOT page that waits for its acceptance. -/
def accepting : State := { hot serving with path := { serving.path with txns := [{ req := askAt0 .wr, slice := 0, phase := .accept }] } }

theorem test_write_fence_and_bench :
    accepting.slotOf 0 = none ∧ (after (.writeAccept 0 9) accepting).path.wcb.map (fun w => (w.line, w.data, w.writers)) = [(0, 7, [{ head := 0, ld := 0, id := 9 }])] ∧ (after (.writeAccept 0 9) accepting).out = [.cmp 0 5 .noOp]
    ∧ leadsTo (exec (.writeAccept 1 9) accepting) accepting = true
    ∧ (after (.fenceComplete 0) { serving with path := { serving.path with fences := [{ head := 0, tag := 6, mark := 10, waits := [], fault := true }] } }).flag (Reg.TRL_HEAD_FENCE_FENCE_FAULT 0) = true
    ∧ (after (.fenceComplete 0) { serving with path := { serving.path with fences := [{ head := 0, tag := 6, mark := 10, waits := [9] }] } }).out = []
    ∧ (let s : State := { coherent with dir := { coherent.dir with bench := [{ req := askAt0 .rd .data, slice := 0 }] } }
       s.blank 0 ∧ s.entry? 0 = none ∧ (after (.benchWake 0 (Fin.ofNat 16384 (dirSet 0))) s).out = [.memData 0 5 0 false .s] ∧ ((after (.benchWake 0 (Fin.ofNat 16384 (dirSet 0))) s).entry? 0).any (fun e => e.2.st == .s) = true) := by
  decide +kernel

/-- Line 0 shared by heads 0 and 1, with an abrupt walk for head 0's LD. -/
def walked : State :=
  { coherent with dir := { coherent.dir with ways := [(dirKey 0 (dirSet 0) 0, { line := 0, st := .s, sharers := headBit 0 ||| headBit 1 })], walks := [{ why := .abrupt 0, head := 0 }] } }

theorem test_walks_probes_and_releases :
    walked.walkHeld { why := .abrupt 0, head := 0 } 0 = false ∧ (after (.directoryWalkStep 0) walked).dir.ways.map (fun e => e.2.sharers) = [headBit 1]
    ∧ (after (.directoryWalkStep 1) walked).dir.walks = [{ why := .abrupt 0, head := 0, next := [(1, 16384)] }]
    ∧ (let s : State := { owned with dir := { owned.dir with probe := some 0 } }
       s.turn 0 19 = true ∧ (after (.dirProbeCapture 0) s).flag Reg.DIR_PROBE_DATA_HIT = true ∧ leadsTo (exec (.dirProbeCapture 1) s) s = true)
    ∧ (let s := serving.updLd 0 (fun d => { d with exts := [{ ext0 with releasing := true, slices := 0 }] })
       ((after (.extentPortDrop 0 0) s).ld? 0).any (fun d => d.exts.any (fun e => !e.port)) = true ∧ leadsTo (exec (.extentReleaseDone 0 0) s) s = true)
    ∧ (let s := serving.updLd 0 (fun d => { d with exts := [{ ext0 with releasing := true, slices := 0, port := false }] })
       s.going 0 0 ≠ [] ∧ s.orphans 0 0 = [] ∧ s.releaseLeft 0 0 = false ∧ ((after (.extentReleaseDone 0 0) s).ld? 0).any (fun d => d.exts == []) = true) := by decide +kernel

/-! ### DRAM channels -/

/-- The die with channel 0 populated, in a state of its queues. -/
def chan (d : Dmc) : State := { up.setFlag (Reg.DMC_CFG_EN 0) true with dmc := [(0, d)] }
/-- A read of channel line 0 for a sherd of engine 3, and the coordinates it goes to. -/
def rd0 : DramRd := { id := 4, line := 0, why := .engine 3 1, data := { data := 0xAB } }
def at0 : Coord := (chan {}).at' 0 0
/-- What the engine has of its sherd. -/
def sherd (s : State) : Option Line := Tbl.look (Tbl.lookD s.press.sherds [] 3) 1

theorem test_dram_reads_and_slots :
    (chan { flying := [rd0] }).works 0 ∧ at0.sub = 0 ∧ (chan { rq := [rd0] }).passWaits 0 0 = false
    ∧ ((after (.dmcReadArrival 0 4) (chan { flying := [rd0] })).ch 0).rq = [rd0]
    ∧ sherd (after (.dmcReadArrival 0 4) (chan { flying := [rd0], wq := [{ line := 0, data := 5 }] })) = some { data := 5 }
    ∧ (after (.dmcScheduleSlot 0 0 3) (chan { rq := [rd0] })).out = [(chan { rq := [rd0] }).onBus 0 0 at0.lr at0.bank "ACT"]
    ∧ (after (.dmcScheduleSlot 0 0 0) (chan { rq := [rd0], banks := [(at0.key, { row := some at0.row })] })).out = [(chan {}).onBus 0 0 at0.lr at0.bank "RD"]
    ∧ (after (.dmcScheduleSlot 0 0 0) (chan { rq := [rd0], banks := [(at0.key, { row := some (at0.row + 1) })] })).out = [(chan {}).onBus 0 0 at0.lr at0.bank "PRE"]
    ∧ leadsTo (exec (.dmcScheduleSlot 0 0 4) (chan { rq := [rd0] })) (chan { rq := [rd0] }) = true
    ∧ (let s : State := { chan { banks := [(bankKey 0 0 0, { row := some 3 })] } with tick := 2 ^ 17 }
       max 1 (s.rd (Reg.DMC_NODL_ROW_IDLE 0)) ≤ s.tick ∧ s.rankReady 0 0 s.clkNow = true ∧ s.preOk 0 (bankKey 0 0 0) s.clkNow = true ∧ (after (.rowIdlePrecharge 0 0 0 0) s).out = [s.onBus 0 0 0 0 "PRE"]) := by decide +kernel

theorem test_refresh_and_rank_power :
    (let s := (chan { rank := [(0, .powerdown)] }).wr (Reg.DMC_TIM_REF_TREFI 0) 8
     0 < s.ranks 0 ∧ s.refInterval 0 0 = 4 ∧ leadsTo (exec (.refreshInterval 0 0 0) s) s = true ∧ (after (.refreshInterval 0 0 0) { s with tick := 1 }).owed 0 0 0 3 = 1)
    ∧ (after (.refreshInterval 0 0 0) (chan { rank := [(0, .selfrefresh)] })).owed 0 0 0 0 = 0 ∧ (after (.mr4Poll 0 0xFFFF) { chan {} with tick := (chan {}).us100 }).bit (Reg.DMC_REF_STATUS_HOT_RANKS 0) 0 = true
    ∧ (let s := { (chan {}).wr (Reg.DMC_PD_PD_ALLOW 0) 1 with tick := 2 ^ 17 }
       s.rankIdle 0 0 = true ∧ s.idleSince 0 0 + s.rd (Reg.DMC_PD_PD_IDLE 0) ≤ s.tick ∧ (after (.rankPowerdownEntry 0 0) s).rankState 0 0 = .powerdown)
    ∧ (let s := { (chan {}).wr (Reg.DMC_SR_SR_ALLOW 0) 1 with tick := 2 ^ 32 }
       s.idleSince 0 0 + s.srIdle 0 ≤ s.tick ∧ (after (.rankSelfrefreshEntry 0 0) s).rankState 0 0 = .selfrefresh)
    ∧ (after (.dmcPdAllowWrite 0 0) (chan { rank := [(0, .powerdown)] })).rankState 0 0 = .active ∧ (after (.dmcSrAllowWrite 0 0xFFFE) (chan { rank := [(0, .selfrefresh)] })).rankState 0 0 = .active
    ∧ (let s := (chan { wq := [{ line := 0, data := 5 }] }).wr Reg.GLB_WDN_STATUS_STATE 2
       s.isSafe = true ∧ s.works 0 ∧ ((after (.safeStateOrder 0) s).ch 0).halted = true ∧ (after (.safeStateOrder 0) s).lineAt 0 0 = { data := 5 } ∧ (after (.safeStateOrder 0) s).rankState 0 0 = .held) := by decide +kernel

/-- Errors in one symbol, which the line code corrects, and in many, which it does not. -/
def err1 : BitVec 640 := 1
def errN : BitVec 640 := 0x10001000100010001000100010001

theorem test_dram_read_data :
    (chan { issued := [rd0] }).wqRoom 0 0 = true ∧ (readLine rd0.data err1).bad = false ∧ (readLine rd0.data err1).device = some 0 ∧ (readLine rd0.data err1).line = rd0.data ∧ (readLine rd0.data errN).bad = true
    ∧ sherd (after (.dramReadData 0 4 0) (chan { issued := [rd0] })) = some { data := 0xAB }
    ∧ ((after (.dramReadData 0 4 errN) (chan { issued := [rd0] })).ch 0).rq = [{ rd0 with retried := true }]
    ∧ (after (.dramReadData 0 4 err1) (chan { issued := [rd0] })).rd (Reg.DMC_CE_TOTAL_CE 0) = 1 ∧ ((after (.dramReadData 0 4 err1) (chan { issued := [rd0] })).ch 0).wq.map (·.data) = [0xAB]
    ∧ ((after (.dramReadData 0 4 err1) (chan { issued := [rd0] })).ch 0).flying.map (·.tier) = [3]
    ∧ ((after (.mergeReadDone 0 0 0) (chan { issued := [{ rd0 with why := .merge, data := { data := 0x1234 } }], wq := [{ line := 0, data := 5, part := some 1, mergeId := some 4 }] })).ch 0).wq.map (fun w => (w.line, w.data, w.part)) = [(0, 0x1205, none)]
    ∧ (after (.ueRetryResult 0 4 0) (chan { issued := [{ rd0 with retried := true }] })).rd (Reg.DMC_UE_TOTAL_RETRY_OK 0) = 1
    ∧ (after (.ueRetryResult 0 4 errN) (chan { issued := [{ rd0 with retried := true }] })).rd (Reg.DMC_UE_TOTAL_UE 0) = 1
    ∧ sherd (after (.ueRetryResult 0 4 errN) (chan { issued := [{ rd0 with retried := true }] })) = some { data := 0xAB, poison := true }
    ∧ ((after (.ceVerifyRead 0 0 0) (chan { issued := [{ rd0 with why := .verify 0 (some 0) }] })).ch 0).remap = [] := by decide +kernel

theorem test_remap_spare :
    (chan {}).pickSpare 0 0 ≠ none ∧ ((after (.ceVerifyRead 0 0 err1) (chan { issued := [{ rd0 with why := .verify 0 (some 31) }] })).ch 0).remap.map (fun j => (j.line, j.device, j.tries)) = [(0, 0, 1)]
    ∧ (after (.ceVerifyRead 0 0 err1) (chan { issued := [{ rd0 with why := .verify 0 (some 31) }] })).flag (Reg.DMC_CE_LOG_HARD 0 31) = true
    ∧ (let s := after (.remapSpareCheck 0 0) (chan { remap := [{ line := 0, device := 0, data := { data := 9 }, spare := 7 }] })
       s.flag (Reg.DMC_REMAP_VALID 0 0) = true ∧ s.rd (Reg.DMC_REMAP_SPARE 0 0) = 7 ∧ (s.ch 0).wq.map (fun w => (w.line, w.data)) = [(0, 9)]) := by decide +kernel

/-! ### Security metadata -/

/-- The die at the governor's highest level, ready to serve, with channel 0 populated and one SEALED region of two units whose key, slot 0, replaces that of slot 1. -/
def secret : State :=
  let s := (up.setFlag (Reg.DMC_CFG_EN 0) true).wr Reg.GLB_GOV_STATUS_LEVEL 7
  { s with boot := { s.boot with memActive := true }, tick := 100, regions := [(0, { aRegion with cls := .sealed, key := 0, oldKey := 1, oldValid := true })],
           sec := { s.sec with keys := [(0, { st := .active }), (1, { st := .retiring })] } }
/-- Page 0 HOT in frame 0 of channel 0, and 64 lines of it read. -/
def hotPage (s : State) : State := { s with place := { s.place with acc := [(0, { form := .hot 0 0 none })] } }
def read64 (s : State) : State := { s with sec := { s.sec with gather := [(0, (List.range 64).map (fun i => (i, ({} : Line))))] } }
def lockOf (k : PageLock) (s : State) : State := { s with sec := { s.sec with locks := [k] } }
/-- The round of governed work at every slice has come to the k-th kind of Table 12.5. -/
def turnAt (k : Nat) (s : State) : State := { s with qos := { s.qos with turn := (List.range 32).map (fun i => (i, k)) } }
def plainHot : State := hotPage { secret with regions := [(0, aRegion)] }

theorem test_drain_of_a_plain_line :
    (let s : State := { plainHot with path := { plainHot.path with wcb := [{ line := 5, data := 7, be := BitVec.allOnes 64, poison := false, entered := 0, last := 84 }] } }
     sliceOfLine 5 = 0 ∧ s.pageLocked 0 = false ∧ (s.acc 0).isMigrating = false ∧ s.srcForm 0 = .hot 0 0 none ∧ s.guard 0 = none ∧ (after (.wcbDrain 0 5) s).path.wcb = []
     ∧ ((after (.wcbDrain 0 5) s).ch 0).wq.map (fun w => (w.line, w.data)) = [(5, 7)] ∧ leadsTo (exec (.wcbDrain 1 5) s) s = true) := by decide +kernel

theorem test_counter_overflow :
    (let k : PageLock := { page := 0, slice := 0, line := 5 }
     (lockOf k (hotPage secret)).dmaAdmit 0 ≠ none ∧ (((after (.counterOverflowDone 0 0) (lockOf k (hotPage secret))).ch 0).flying.take 64 |>.map (·.why)) = (List.range 64).map (fun i => .page 0 i)
     ∧ (hotPage secret).guard 0 ≠ none ∧ (lockOf { k with asked := true } (read64 (hotPage secret))).pageRead 0 64 ≠ none
     ∧ (lockOf { k with asked := true, todo := some [(63, { data := 9 })] } (hotPage secret)).dmaAdmit 0 ≠ none
     ∧ (after (.counterOverflowDone 0 0) (lockOf { k with asked := true, todo := some [(63, { data := 9 })] } (hotPage secret))).sec.locks = []
     ∧ (after (.counterOverflowDone 0 0) (lockOf { k with asked := true, todo := some [(63, { data := 9 })] } (hotPage secret))).visible 0 63 = { data := 9 }) := by decide +kernel

theorem test_counter_blocks :
    (let s : State := { secret with path := { secret.path with txns := [{ req := askAt0 .rd, slice := 0, phase := .ctr }] } }
     s.secPage false 0 = true ∧ s.cached false 0 0 = none ∧ s.itemsPending (s.pathItems false 0) = false ∧ s.blockLost false 0 = false ∧ s.metaLost 0 = false ∧ (s.guard 0).any (fun g => !g.space && g.q == 0) = true
     ∧ (after (.counterFetchDone false 0) s).cached false 0 0 = some (s.stored false 0 0 0) ∧ (after (.counterFetchDone false 0) s).path.txns.map (·.phase) = [.queued])
    ∧ (let s : State := { turnAt 4 secret with sec := { secret.sec with cache := [(ctrKey false 0 0, ⟨9, true⟩)] } }
       s.dutyUp 6 = true ∧ s.permits .tree = true ∧ s.govAdmit (s.cacheSlice false 0 0) .tree ≠ none ∧ (after (.counterWriteback false 0 0 false) s).stored false 0 0 0 = 9 ∧ (after (.counterWriteback false 0 0 true) s).cached false 0 0 = none)
    ∧ (let s : State := { secret with sec := { secret.sec with cache := [(ctrKey true 3 0, ⟨9, true⟩)] } }
       s.dmaAdmit (s.cacheSlice true 3 0) ≠ none ∧ blkMinor (s.root 0) 0 < 127 ∧ (after (.counterWriteback true 3 0 true) s).stored true 3 1 0 = 9 ∧ blkMinor ((after (.counterWriteback true 3 0 true) s).root 0) 0 = 1)
    ∧ (let s : State := { secret with sec := { secret.sec with nodeOvf := [⟨2, 5, 0⟩, ⟨3, 5, 0⟩], cache := [(ctrKey true 2 5, ⟨majorOnly 1, true⟩)] } }
       s.itemsPending (overflowItems 1 5 0) = false ∧ s.parentBlk 1 320 ≠ none ∧ (∀ j : Fin 64, s.metaLost (320 + j) = false ∧ s.blockLost true ((320 + j) * 64) = false ∧ unformatted 0 j = true)) := by decide +kernel

theorem test_retirement_and_zeroising :
    secret.permits .reencrypt = true ∧ secret.ctrLost 0 = false ∧ (Tbl.look secret.regions 0).any (fun r => retirePage r == 0) = true ∧ (turnAt 3 secret).govAdmit 0 .reencrypt ≠ none ∧ secret.govAdmit 0 .reencrypt = none
    ∧ ((after (.retirePageOp 0) (turnAt 3 secret)).regions.map (fun e => e.2.cursor)) = [1]
    ∧ (hotPage secret).pickEngine 0 = some 0 ∧ (after (.retirePageOp 0) (hotPage (turnAt 3 secret))).sec.retire = [{ region := 0, page := 0 }] ∧ Tbl.look (after (.retirePageOp 0) (hotPage (turnAt 3 secret))).press.engines 0 = some (.copy 0)
    ∧ (let s : State := { secret with sec := { secret.sec with retire := [{ region := 0, page := 0 }] } }
       (after (.retirePageDone 0) s).sec.retire = [] ∧ ((after (.retirePageDone 0) s).regions.map (fun e => e.2.cursor)) = [1] ∧ (read64 (hotPage s)).storeRoom 0 0 64 = true)
    ∧ (let s : State := { secret with sec := { secret.sec with keys := [(4095, { st := .zeroising, kd := 5, kt := 6 })] } }
       (after (.keyZeroiseDone 4095) s).key 4095 = {} ∧ leadsTo (exec (.keyZeroiseDone 0) s) s = true) := by decide +kernel

/-! ### The Curator and moves -/

/-- Eight units of pool on channels 0 and 1, both populated, the Curator on, at the governor's highest level. -/
def pooled : State :=
  let s := (((up.setFlag (Reg.DMC_CFG_EN 0) true).setFlag (Reg.DMC_CFG_EN 1) true).wr Reg.GLB_GOV_STATUS_LEVEL 7).setFlag Reg.CUR_EPOCH_CFG_CURATE true
  { s with tick := 100, place := { s.place with acc := [(0, { form := .hot 0 0 none })], used := [(frameKey 0 0, 255)], chans := [(0, { frames := 1000 }), (1, { frames := 1000 })] } }
/-- A staged rehome of page 0 to channel 1; a slot that holds a move of page 0. -/
def staged1 : Staged := { slice := 0, pair := 2, move := { page := 0, kind := .rehome, dst := 1 } }
def moving (m : MoveSlot) (s : State) : State := { s with place := { s.place with acc := [(0, { form := .migrating 15 })], slots := [(slotKey 0 15, m)] } }
def rehome1 : MoveSlot := { page := 0, kind := .rehome, src := { form := .hot 0 0 none }, dst := some (.hot 1 0 none) }

theorem test_scan_epoch_plan_and_stage :
    pooled.permits .scan = true ∧ pooled.govAdmit 0 .scan ≠ none ∧ slicePage 0 0 = 0 ∧ pooled.scanPage 0 = 0 ∧ pooled.itemsPending (scanItems 0) = false
    ∧ Tbl.lookD (after (.coldScanVisit 0) { pooled with place := { pooled.place with scanAsk := [0] } }).place.scanned 0 0 = 1
    ∧ (let s : State := { pooled with tick := 10 ^ 9, place := { pooled.place with scanned := (List.range 32).map (fun i => (i, 2341)) } }
       s.place.lenMs ≤ s.epochMs ∧ (∀ sl : SliceIx, s.boot.h * 2048 ≤ 7 * Tbl.lookD s.place.scanned 0 sl) ∧ (after .epochClose s).place.epoch = 1 ∧ leadsTo (exec .epochClose pooled) pooled = true)
    ∧ (let s : State := { pooled with place := { pooled.place with closed := true } }
       s.healthy 2 = true ∧ s.dutyOwner 2 = 2 ∧ (after (.curatorPlan 2) s).place.planned = [2] ∧ leadsTo (exec (.curatorPlan 2) pooled) pooled = true)
    ∧ (let s : State := { pooled with place := { pooled.place with plan := [(0, [staged1.move])] } }
       s.dutyUp 2 = true ∧ s.recalledPage 0 = none ∧ (after (.moveStage 0) s).place.staged = [staged1]) := by decide +kernel

/-- The frame that a move takes is a free value: the states meet what a start asks for. -/
theorem test_moves_start :
    (let s : State := { pooled with place := { pooled.place with staged := [staged1] } }
     s.freeSlot 0 false = some 0 ∧ s.govAdmit 0 .moves ≠ none ∧ s.pickEngine 0 = some 0 ∧ s.chLive 1 = true ∧ s.rd Reg.CUR_PRESSURE_LEVEL ≠ 4 ∧ (s.unstage staged1).allocOn 1 ≠ none
     ∧ leadsTo (exec (.moveStart 1) s) s = true)
    ∧ (let s : State := { pooled with place := { pooled.place with acc := [(0, { form := .cold 0 0 1 })] }, path := { pooled.path with txns := [{ req := askAt0 .wr, slice := 0, phase := .needThaw }] } }
       s.pageLocked 0 = false ∧ s.guard 0 = none ∧ s.freeSlot 0 true = some 0 ∧ s.pickEngine 0 = some 0 ∧ s.allocFrame 0 true ≠ none ∧ leadsTo (exec (.inlineThawStart 1 9) s) s = true) := by decide +kernel

theorem test_moves_end :
    (pooled.turn 0 18 = true ∧ ((after (.moveCommit 0 15) (moving { rehome1 with copied := true } pooled)).acc 0).form = .hot 1 0 none)
    ∧ (let m : MoveSlot := { rehome1 with kind := .thaw, src := { form := .cold 0 0 1 }, copied := true, lines := [{ data := 5 }] }
       pooled.storeRoom 1 0 64 = true ∧ ((after (.moveCommit 0 15) (moving m pooled)).acc 0).form = .hot 1 0 none ∧ (after (.moveCommit 0 15) (moving m pooled)).visible 1 0 = { data := 5 })
    ∧ ((after (.moveAbort 0 15) (moving { rehome1 with abort := true } pooled)).acc 0).form = .hot 0 0 none ∧ leadsTo (exec (.moveAbort 0 15) (moving rehome1 pooled)) (moving rehome1 pooled) = true
    ∧ ((after (.moveTimeout 0 15) { moving rehome1 pooled with tick := pooled.us100 }).acc 0).form = .hot 0 0 none
    ∧ leadsTo (exec (.moveTimeout 0 15) (moving rehome1 pooled)) (moving rehome1 pooled) = true := by decide +kernel

theorem test_rehome_copy_rounds :
    (let s := read64 (moving rehome1 pooled)
     s.pageRead 0 64 ≠ none ∧ s.dmaAdmit 0 ≠ none ∧ Tbl.look (after (.rehomeCopyRound 0 15) s).place.slots (slotKey 0 15) = some { rehome1 with begun := true, copied := true })
    ∧ (let s := moving { rehome1 with begun := true, todo := 1#64 <<< 63 } { pooled with sec := { pooled.sec with gather := [(0, [(63, { data := 5 })])] } }
       s.wqRoom 1 63 = true ∧ (after (.rehomeCopyRound 0 15) s).visible 1 63 = { data := 5 })
    ∧ Tbl.look (after (.rehomeCopyRound 0 15) (moving { rehome1 with begun := true, dirty := 6, rounds := 2 } pooled)).place.slots (slotKey 0 15) = some { rehome1 with begun := true, todo := 6, rounds := 3 }
    ∧ Tbl.look (after (.rehomeCopyRound 0 15) (moving { rehome1 with begun := true, dirty := 6, rounds := 3 } pooled)).place.slots (slotKey 0 15) = some { rehome1 with begun := true, dirty := 6, rounds := 3, abort := true } := by decide +kernel

/-! ### Press engines and jobs -/

/-- The image of a page of zeros: each strand is one ZERO token of 8 lines (1110 111000) and END (11110), 77h 3Ch (R163; Tables 6.1 and 6.7). -/
def zeroImage : Image := ⟨(List.replicate 8 [0x77#8, 0x3C#8]).flatten, [2, 4, 6, 8, 10, 12, 14]⟩
/-- Engine 63 at work on page 0, with the lines it has received. -/
def engineOn (u : EngineUse) (ls : List Line) (s : State) : State := { s with press := { s.press with engines := [(63, u)], sherds := [(63, (List.range ls.length).zip ls)] } }
def freeze0 : MoveSlot := { page := 0, kind := .freeze, src := { form := .hot 0 0 none } }
def thaw0 : MoveSlot := { page := 0, kind := .thaw, src := { form := .cold 0 0 1, version := 3 }, dst := some (.hot 1 0 none) }
def freezing : State := engineOn (.move 0 15) (List.replicate 64 {}) (moving freeze0 { pooled with regions := [(0, aRegion)] })
def thawing (v : Nat) : State := engineOn (.move 0 15) ((buildSherds zeroImage 1 0 0 v).flatMap linesOfSherd) (moving thaw0 { pooled with regions := [(0, aRegion)] })
def coldReads : State :=
  engineOn (.read 0 (.cold 0 0 1) 3 none) ((buildSherds zeroImage 1 0 0 3).flatMap linesOfSherd)
    { serving with place := { serving.place with acc := [(0, { form := .cold 0 0 1, version := 3 })] }, path := { serving.path with txns := [{ req := askAt0 .rd, slice := 0, phase := .decode }] } }

theorem test_page_jobs_of_an_engine :
    (freezing.engineLines 63 64).isSome = true ∧ freezing.guard 0 = none ∧ freezing.path.wcb = [] ∧ (checkedImage zeroImage 0 1 (List.replicate 64 {})).isOk = true
    ∧ (freezing.freeEngine 63).allocSherds 0 (some 0) 1 ≠ none ∧ 7 < sherdsFor (List.replicate 3505 0#8).length ∧ sherdsFor (List.replicate 3504 0#8).length = 7
    ∧ Tbl.look (after (.pressCompressDone 63 ⟨List.replicate 3505 0, []⟩) freezing).place.slots (slotKey 0 15) = some { freeze0 with abort := true, src := { freeze0.src with form := .hot 0 0 (some freezing.incGen) } }
    ∧ (checkedImage ⟨[0], []⟩ 0 1 (List.replicate 64 {})).isOk = false ∧ Tbl.look (after (.pressCompressDone 63 ⟨[0], []⟩) freezing).press.fails 63 = some 1
    ∧ leadsTo (exec (.pressCompressDone 0 zeroImage) freezing) freezing = true := by decide +kernel

theorem test_decodes :
    (let t := after (.pressDecodeDone 63) (thawing 3)
     Tbl.look t.press.engines 63 = some (.move 0 15) ∧ Tbl.look t.place.slots (slotKey 0 15) = some { thaw0 with copied := true, lines := List.replicate 64 {} })
    ∧ (let t := after (.pressDecodeDone 63) (thawing 4)
       Tbl.look t.place.slots (slotKey 0 15) = some { thaw0 with copied := true, fault := some 6 } ∧ t.rd Reg.PRS_FAULTS_LAST_FAULT = 6 ∧ t.rd Reg.PRS_LAST_FAULT_DPA_PAGE = 0)
    ∧ (let t := after (.pressDecodeDone 63) coldReads
       coldReads.exchOf 9 = none ∧ coldReads.canSend 0 = true ∧ coldReads.isDb 0 = false ∧ coldReads.tagsPending 0 8 = false ∧ t.path.txns = []
       ∧ t.out.contains (.memData 0 5 0 false .noOp) = true)
    ∧ (let s := { coldReads with dir := { coldReads.dir with exchs := [{ line := 0, why := .txn 9, waits := [] }] } }
       s.exchOf 9 ≠ none ∧ (after (.pressDecodeDone 63) s).path.txns.map (·.phase) = [.exch])
    ∧ leadsTo (exec (.pressDecodeDone 0) coldReads) coldReads = true := by decide +kernel

/-- Queue 63 of LD 0, a ring of 2 descriptors at 1000h with one posted. -/
def queued : State :=
  let s := (live.setFlag Reg.PRS_CFG_OFFLOAD_EN true).setFlag (Reg.PRS_Q_CFG_EN 63) true
  ((s.wr (Reg.PRS_Q_CFG_LOG2_SIZE 63) 1).wr (Reg.PRS_Q_TAIL_TAIL 63) 1).wr (Reg.PRS_Q_BASE_ADDR 63) 0x40
/-- A descriptor: OP and flags, the source's length, and the completion address (Table 6.9). -/
def desc (flags len : Nat) : BitVec 512 := BitVec.ofNat 512 (flags + 2 ^ 64 * 0x2000 + 2 ^ 128 * len + 2 ^ 160 * 4096 + 2 ^ 192 * 0x8000 + 2 ^ 320 * 0x3000)
/-- Engine 63 holds a job of queue 63. -/
def jobOf (d : BitVec 512) : State := { live with press := { live.press with engines := [(63, .job 63 0 d)] } }

theorem test_descriptors :
    queued.queueMayStart 63 63 ∧ ¬ queued.queueMayStart 62 63 ∧ ¬ live.queueMayStart 63 63 ∧ badDescriptor (desc 1 100) = false ∧ queued.engineIdle 63 = true
    ∧ (after (.descriptorStart 63 63 (desc 1 100)) queued).out = [.hostRead 0 0x2000 100, .hostRead 0 0x1000 64]
    ∧ (after (.descriptorStart 63 63 (desc 1 100)) queued).rd (Reg.PRS_Q_HEAD_HEAD 63) = 1
    ∧ (after (.descriptorStart 63 63 (desc 0x0F 0)) { queued with press := { queued.press with lastHost := [(63, 0x8000)] } }).out = [.hostRead0 0 0x8000, .hostRead 0 0x1000 64]
    ∧ (let s := { queued with press := { queued.press with engines := [(5, .job 63 0 (desc 1 100))] } }
       s.queueMayStart 63 63 ∧ (s.qJobs 63).any (fun d => dOp d != 0x0F) = true ∧ (after (.descriptorStart 63 63 (desc 0x0F 0)) s).qFenced 63 = true
       ∧ (after (.descriptorStart 63 63 (desc 0x0F 0)) s).out = [.hostRead 0 0x1000 64])
    ∧ (let s := (queued.wr Reg.PRS_RETIRED_ENGINE (2 ^ 64 - 1))
       s.bit Reg.PRS_RETIRED_ENGINE 63 = true ∧ (after (.descriptorStart 63 63 (desc 1 100)) s).out.length = 2 ∧ (after (.descriptorStart 63 63 (desc 1 100)) s).press.engines = [])
    ∧ (let s := { live with press := { live.press with aborting := [(63, { ld := 0, base := 0x1000, head := 1, tail := 0, log2 := 1 })] } }
       (after (.descriptorStart 63 0 (desc 1 100)) s).press.aborting = [] ∧ (after (.descriptorStart 63 0 (desc 1 100)) s).out.length = 2) := by decide +kernel

theorem test_jobs_end :
    (let s := jobOf (desc 0x0F 0)
     (after (.jobComplete 63 {}) s).press.engines = [] ∧ (after (.jobComplete 63 {}) s).out = [.hostWrite 0 0x3000 (complRecord (desc 0x0F 0) { status := 0 }) false])
    ∧ (badDescriptor (desc 5 100) = true ∧ (after (.jobComplete 63 {}) (jobOf (desc 5 100))).out = [.hostWrite 0 0x3000 (complRecord (desc 5 100) { status := 4 }) false])
    ∧ (let d := desc 0x801 1
       badDescriptor d = false ∧ contOf d [] = some {} ∧ (runJob d { dstLen := dDstLen d, srcBad := none, dstBad := none } [0] {} {}).verify = false
       ∧ (after (.jobComplete 63 {}) (jobOf d)).press.engines = [] ∧ (after (.jobComplete 63 {}) (jobOf d)).out.length = 2)
    ∧ (let d := desc 0x3801 64
       let s := { jobOf d with press := { (jobOf d).press with jobs := [(63, { got := [(0x80, {})], env := some {} })] } }
       s.jobPending 63 = false ∧ dDstDev d = true ∧ (jobResult { got := [(0x80, {})], env := some {} } d {} {}).verify = false ∧ (after (.jobComplete 63 {}) s).press.engines = [])
    ∧ (let s := { jobOf (desc 0x1801 64) with path := { live.path with ingress := [{ askAt0 .rd with src := .dma, tag := 64 }] } }
       s.jobPending 63 = true ∧ leadsTo (exec (.jobComplete 63 {}) s) s = true) := by decide +kernel

/-! ### Training and calibration -/

/-- Channel 0, with one rank, awaits the sweep of a rank ahead of others; a lane that passes at one point, which the least width of 1 lets pass; one that passes nowhere. -/
def sweeping (l : List (Nat × Nat)) : State :=
  let s := (((live.setFlag (Reg.DMC_CFG_EN 0) true).wr (Reg.DMC_TRN_CTL_TRN_MIN_WIDTH 0) 1).wr (Reg.DMC_TRN_CTL_TRN_VREF_LO 0) 125).wr (Reg.DMC_TRN_CTL_TRN_VREF_HI 0) 125
  { s with boot := { s.boot with sweep := l } }
def eye : LaneEye := let n : NibbleEye := { rd := [(125, [39])], wr := [(125, [316])], lvl := [60] }; ⟨n, n⟩
def goodTry : SweepTry := { hostFail := false, eyes := List.replicate 10 eye }
def badTry : SweepTry := { hostFail := true, eyes := [] }
def edge0 : LaneEdges := { rd0 := (10, 100), rd1 := (10, 100), wr0 := (10, 100), wr1 := (10, 100) }
def narrow0 : LaneEdges := { edge0 with wr1 := (10, 26) }
def fasts : State := { sweeping [] with boot := { live.boot with fast := [0, 5] } }
/-- Channel 0 recalibrates: it is populated, and its passes are on. -/
def recals : State := (sweeping []).setFlag (Reg.DMC_TRN_CTL_RECAL_EN 0) true

theorem failedLane_eq_none {s : State} {c lr : Nat} {x : SweepTry} (host : x.hostFail = false)
    (h : ∀ b < 10, lanePasses (s.rd (Reg.DMC_TRN_CTL_TRN_MIN_WIDTH c)) (s.sweptEyes c x b) = true) : s.failedLane c lr x = none := by
  simp +contextual [State.failedLane, host, h]

theorem eye_passes : lanePasses 1 (laneEyes 125 125 eye) = true := by decide +kernel

/-- Every lane of the rank passes at its one point. -/
theorem test_sweep_passes : (sweeping [(0, 0), (0, 1)]).failedLane 0 0 goodTry = none := by
  refine failedLane_eq_none rfl (fun b hb => ?_)
  have range : (sweeping [(0, 0), (0, 1)]).vrefRange 0 = (125, 125) := by decide +kernel
  have lane : ∀ b < 10, sweepLane goodTry b = eye := by decide +kernel
  have least : (sweeping [(0, 0), (0, 1)]).rd (Reg.DMC_TRN_CTL_TRN_MIN_WIDTH 0) = 1 := by decide +kernel
  rw [State.sweptEyes, range, lane b hb, least, eye_passes]

theorem test_sweeps :
    (sweptSet (laneEyes 125 125 eye)).rd0 = 39 ∧ (sweptSet (laneEyes 125 125 eye)).rv = 125 ∧ (sweptSet (laneEyes 125 125 eye)).wr1 = 316 ∧ (sweeping [(0, 0), (5, 1)]).failedLane 0 0 badTry = some 0
    ∧ (after (.trainingSweep 0 0 400 badTry badTry) (sweeping [(0, 0), (0, 1), (5, 1)])).boot.sweep = [(5, 1)]
    ∧ leadsTo (exec (.trainingSweep 0 1 400 goodTry goodTry) (sweeping [(0, 0)])) (sweeping [(0, 0)]) = true := by decide +kernel

theorem test_fast_check_and_temperature :
    (let t := after (.fastCheck 0 (List.replicate 10 edge0)) fasts
     t.boot.fast = [5] ∧ t.rd (Reg.DMC_TRN_STATUS_STATE 0) = 2 ∧ (t.ch 0).inUse.length = 10 ∧ fasts.lanes 0 = List.range 10)
    ∧ ((after (.fastCheck 0 []) fasts).boot.sweep = [(0, 0)] ∧ leadsTo (exec (.fastCheck 1 []) fasts) fasts = true)
    ∧ (let t := after (.tempInterpolate 0 (some (-16))) (after (.fastCheck 0 (List.replicate 10 edge0)) fasts)
       t.rd (Reg.DMC_TEMP_TEMP 0) = 4080 ∧ t.chTemp 0 = -16) := by decide +kernel

theorem test_recalibration :
    recals.recalOn 0 0 = true ∧ recals.inPass 0 1 recals.clkNow = false ∧ recals.noTarget 0 1 0 none = true
    ∧ Tbl.look ((after (.recalPass 0 0 1 (List.replicate 5 edge0) 10 []) recals).ch 0).passUntil 1 = some (recals.clkNow + 10)
    ∧ ¬ recals.narrowPass 0 0 1 (List.replicate 5 edge0) ∧ recals.narrowPass 0 0 1 (List.replicate 5 narrow0)
    ∧ (after (.recalPass 0 0 1 (List.replicate 5 narrow0) 10 []) recals).flag (Reg.DMC_TRN_STATUS_LOW_MARGIN 0) = true
    ∧ recals.recalDue 0 0 1 = false ∧ { recals with tick := 10 ^ 9 }.recalDue 0 0 1 = true ∧ { recals with tick := 10 ^ 9 }.rqOf 0 1 = []
    ∧ (after (.recalForced 0 0 1 (List.replicate 5 edge0) (10 ^ 6) []) { recals with tick := 10 ^ 9 }).rd (Reg.DMC_TRN_STATUS_FORCED 0) = 1
    ∧ leadsTo (exec (.recalPass 0 0 1 [] 10 []) recals) recals = true := by decide +kernel

/-- The Gatehouse with its supply; the same with REF_LOST. -/
def powered : State := { live with gth := { live.gth with aux := true } }
def refLost : State := { powered with gth := { powered.gth with goodRefs := 8, regs := (powered.gw Reg.GTH_CAL_STATUS_REF_LOST 1).gth.regs } }
def vref0 : Nat := powered.gr Reg.GTH_VREF_VALUE_VALUE

theorem test_calibration :
    powered.refBad vref0 50 = false ∧ powered.refBad vref0 51 = true ∧ (after (.gthConverterCal 5 vref0 51 0 0 0) powered).gr Reg.GTH_CAL_STATUS_REF_LOST = 1
    ∧ (after (.gthConverterCal 5 vref0 0 0 0 vref0) powered).gth.calDone = 32
    ∧ Tbl.look (after (.gthConverterCal 5 vref0 0 0 7 vref0) powered).gth.coeff (coeffKey 5 (intervalOf 0)) = some (((vref0 : Int) - (vref0 - 7)) * 10 ^ 6 / vref0, -7)
    ∧ (after (.gthConverterCal 5 vref0 0 0 0 vref0) refLost).gth.goodRefs = 9
    ∧ (after (.gthConverterCal 5 vref0 0 0 0 vref0) { refLost with gth := { refLost.gth with goodRefs := 9 } }).gr Reg.GTH_CAL_STATUS_REF_LOST = 0
    ∧ (after (.calLineMeasure (vref0 - 3)) powered).gr Reg.GTH_CAL_STATUS_COPY_ERR = 65533 ∧ leadsTo (exec (.calLineMeasure 5) refLost) refLost = true
    ∧ (after (.dieSensorCal 20 0 5) powered).gth.dieDone = 2 ^ 20 := by decide +kernel

/-! ### Range passes, arrays and channels -/

/-- A pass that has reached page 65535 as its last; memory is active and the governor permits it. -/
def pass0 : RangePass := { id := 3, next := 0, last := 1 }
def raking (x : RangePass) (s : State) : State := { s with mgmt := { s.mgmt with passes := [x] } }
def raked : RakePage := { page := 0, form := .hot 0 0 none, got := (List.range 64).map (fun i => (i, {})) }

theorem test_range_passes :
    (let s := turnAt 2 (raking pass0 { secret with sec := { secret.sec with cache := [(ctrKey false 0 0, ⟨0, false⟩)] } })
     s.passRuns pass0 ∧ s.passPage pass0 0 = some 0 ∧ s.permits .range = true ∧ (s.wantCtr 0 { pass := some 3 }).2 ≠ none ∧ s.govAdmit 0 .range ≠ none ∧ s.srcForm 0 = .unwritten false
     ∧ (after (.rangePassPage 3) s).pass? 3 = some { pass0 with skipped := 1, next := 1 })
    ∧ (let s := raking { pass0 with ldDpa := some 0 } live
       { secret with lds := [] }.passPage { pass0 with ldDpa := some 0 } 0 = none ∧ s.passPage { pass0 with ldDpa := some 0 } 1 = none)
    ∧ (let s := raking pass0 plainHot
       s.guard 0 = none ∧ s.pageLocked 0 = false ∧ ((after (.rangePassPage 3) (turnAt 2 s)).ch 0).flying.length = 64)
    ∧ (let s := raking { pass0 with next := 1, cur := some raked } plainHot
       s.rakeReady raked = true ∧ (after (.rangePassPage 3) s).pass? 3 = some { pass0 with next := 2, lines := 64, done := true })
    ∧ (let s := plainHot.wr Reg.TRL_RAKE_CFG_PERIOD_H 1
       (after .patrolRoundStart s).mgmt.passes = [{ id := patrolId, patrol := true, next := 0, last := 8 * 65536 - 1, start := 100 }]
       ∧ (after .patrolRoundStart { s with mgmt := { s.mgmt with passes := [{ id := patrolId, patrol := true, next := 0, last := 9 }] } }).mgmt.patrolDue = true
       ∧ leadsTo (exec .patrolRoundStart { s with mgmt := { s.mgmt with patrolAt := some 100 } }) { s with mgmt := { s.mgmt with patrolAt := some 100 } } = true) := by decide +kernel

theorem test_array_errors :
    (let w : WcbLine := { line := 5, data := 7, be := BitVec.allOnes 64, poison := false, entered := 0, last := 84 }
     let s := { plainHot with path := { plainHot.path with wcb := [w] } }
     sliceOfLine 5 = 0 ∧ (after (.sramUe (.wcbData 0 5)) s).path.wcb = [{ w with poison := true }])
    ∧ (after (.sramUe (.counterCache false 0 7)) { secret with sec := { secret.sec with cache := [(ctrKey false 0 7, ⟨9, false⟩)] } }).sec.cache = []
    ∧ ((after (.sramUe (.keyStore 0)) secret).regions.map (fun e => e.2.lost)) = [true]
    ∧ Tbl.lookD (after (.sramUe (.footfall 0)) { plainHot with place := { plainHot.place with foot := [(0, 9)] } }).place.foot 0 0 = 0
    ∧ plainHot.place.accDirty.contains 0 = false ∧ { plainHot with place := { plainHot.place with accDirty := [0] } }.place.accDirty.contains 0 = true
    ∧ leadsTo (exec (.sramUe (.remapTable 0 63 true)) secret) secret = true
    ∧ (after (.sliceRestartDone 31) { live with path := { live.path with restart := [3, 31] } }).path.restart = [3] := by decide +kernel

/-- Page 0 lies on channel 1, its accession entry on channel 0. -/
def onCh1 : State := { pooled with place := { pooled.place with acc := [(0, { form := .hot 1 0 none })] } }

theorem test_channel_loss :
    onCh1.chLive 1 = true ∧ (onCh1.ch 1).flying = [] ∧ onCh1.place.slots = [] ∧ ((after (.channelLost 1 0) onCh1).acc 0).form = .unwritten true
    ∧ Tbl.look (after (.channelLost 1 0) onCh1).place.chans 1 = none ∧ ((after (.channelLost 0 0) onCh1).acc 0).form = .unreadable ∧ leadsTo (exec (.channelLost 15 0) pooled) pooled = true ∧ leadsTo (exec (.channelLost 0 2) pooled) pooled = true
    ∧ { pooled with dmc := [(0, { ueTicks := List.replicate 65 100 })] }.ueRate 0 = true ∧ pooled.ueRate 0 = false
    ∧ (∀ k, k < 4 → up.chLive (4 + k) = false) ∧ (after (.d2dLinkLost 1) up).flag (Reg.DMC_FAULT_LINK_LOST 7) = true
    ∧ secret.chLive 0 = true ∧ (∀ k, 1 ≤ k → k < 4 → secret.chLive k = false) ∧ secret.place.acc = [] ∧ (after (.d2dLinkLost 0) secret).chLive 0 = false
    ∧ ((after (.dramAlertNReport 0 true) secret).ch 0).repeats = 1 ∧ (chan { repeats := 4 }).chLive 0 = true
    ∧ (after (.dramAlertNReport 0 true) (chan { repeats := 4 })).chLive 0 = false := by decide +kernel

/-! ### Warden, clocks and frames -/

/-- Pair 7 alone is healthy; pair 7 is fenced and pair 5 waits for its reload. -/
def lastPair : State := live.wr Reg.GLB_WDN_STATUS_HEALTHY 128
def fenced : State := { (live.wr Reg.GLB_WDN_STATUS_HEALTHY 127).wr Reg.GLB_WDN_STATUS_STATE 1 with warden := { live.warden with fence := [7], reload := [7] } }
def aMs : Nat := live.rootN * 12500
def inSafe : State := live.wr Reg.GLB_WDN_STATUS_STATE 2

theorem test_pairs_fail :
    live.isSafe = false ∧ live.healthy 7 = true ∧ live.rd (pairFails 7) < 2 ∧ live.healthy 6 = true ∧ live.mgmt.bg = [] ∧ (after (.lockstepMismatch 7) live).healthy 7 = false
    ∧ (after (.lockstepMismatch 7) live).warden.reload = [7] ∧ (∀ q, q < 8 → q ≠ 7 → lastPair.healthy q = false) ∧ (after (.lockstepMismatch 7) lastPair).alertN = false
    ∧ leadsTo (exec (.lockstepMismatch 0) lastPair) lastPair = true
    ∧ (let s : State := { live.wr Reg.GLB_WDN_CFG_WDG_MS 100 with tick := 95 * aMs }
       100 * Tbl.lookD s.warden.kick 0 7 + 95 * ((max 1 (s.rd Reg.GLB_WDN_CFG_WDG_MS)) * (s.rootN * 12500)) ≤ 100 * s.tick ∧ (after (.watchdogExpiry 7) s).healthy 7 = false
       ∧ leadsTo (exec (.watchdogExpiry 7) { s with tick := s.tick - 1 }) { s with tick := s.tick - 1 } = true)
    ∧ (after (.pairReloadDone 7) fenced).healthy 7 = true ∧ leadsTo (exec (.pairReloadDone 5) fenced) fenced = true := by decide +kernel

theorem test_fence_ends :
    fenced.isFence = true ∧ fenced.portsEmpty = true ∧ (after .fenceRelease fenced).dutyOwner 7 = 0 ∧ (after .fenceRelease fenced).dutyOwner 6 = 6 ∧ leadsTo (exec .fenceRelease live) live = true
    ∧ (let s := { fenced with tick := fenced.rootN * 250 }
       (after .fenceExpiry s).flag Reg.GLB_WDN_STATUS_FENCE_EXPIRED = true ∧ leadsTo (exec .fenceExpiry { s with tick := s.tick - 1 }) { s with tick := s.tick - 1 } = true)
    ∧ (let s := { fenced with tick := fenced.rootN * 250, place := { fenced.place with staged := [{ staged1 with pair := 7 }] } }
       s.portsEmpty = false ∧ s.path.ingress = [] ∧ (after .fenceExpiry s).alertN = false ∧ leadsTo (exec .fenceRelease s) s = true) := by decide +kernel

theorem test_clocks_and_safe_state :
    live.boot.released = true ∧ live.isSafe = false ∧ inSafe.isSafe = true ∧ (after .wardenSelfCheckMismatch live).alertN = false ∧ leadsTo (exec .wardenSelfCheckMismatch inSafe) inSafe = true
    ∧ (after (.rootPllLockLoss true) live).alertN = false ∧ (after .tickDeparture live).warden.departed = true ∧ (after (.rootPllLockLoss true) inSafe).flag Reg.GLB_CLK_STATUS_LOCK_LOST = true
    ∧ (after .tickDeparture inSafe).warden.departed = true ∧ leadsTo (exec (.rootPllLockLoss true) State.reset) State.reset = true := by decide +kernel

/-- Ten samples of both feeds, of 480,000 mV and 120,000 mV in all. -/
def sampled : State := { powered with gth := { powered.gth with fa := { samples := 10, sumV := 480000 }, fb := { samples := 10, sumV := 120000 } } }

theorem test_frames_and_tick_counters :
    (after .gthFrameSend sampled).gr Reg.GTH_FEED_A_VOLT_MV = 48000 ∧ (after .gthFrameSend sampled).gth.frame.isSome = true ∧ leadsTo (exec .gthFrameSend powered) powered = true
    ∧ (after .measurementFrame (after .gthFrameSend sampled)).rd Reg.GTH_FEED_A_VOLT_MV = 48000 ∧ (after .measurementFrame (after .gthFrameSend sampled)).flag Reg.GLB_CLK_STATUS_GTH_LINK_UP = true
    ∧ (let s := { linked with tick := linked.rootN * 625 }
       s.flag Reg.GLB_CLK_STATUS_GTH_LINK_UP = true ∧ (after .gthLinkLost s).flag Reg.GLB_CLK_STATUS_GTH_LINK_UP = false ∧ leadsTo (exec .gthLinkLost { s with tick := s.tick - 1 }) { s with tick := s.tick - 1 } = true)
    ∧ (let s := (live.setFlag (Reg.CAT_GRP_CTL_EN 15) true).wr (Reg.CAT_GRP_TICKS_TICKS 15) (2 ^ 48 - 1)
       s.groupOn 15 = true ∧ (after (.ticksWrap 15) s).rd (Reg.CAT_GRP_TICKS_TICKS 15) = 0 ∧ (after (.ticksWrap 15) s).flag (Reg.CAT_GRP_CTL_TICK_OVF 15) = true)
    ∧ leadsTo (exec (.ticksWrap 15) live) live = true := by decide +kernel

/-! ### Windows and the governor -/

/-- Class 63 valid with a floor of 2 units, shed; the guaranteed bandwidth is 2 and 64/63 of it would be needed, or 3. -/
def shedding (g : Nat) : State :=
  let s := ((live.setFlag (Reg.QOS_CLASS_CTL_VALID 63) true).setFlag (Reg.QOS_CLASS_CTL_SHED 63) true).wr (Reg.QOS_CLASS_FLOOR_FLOOR 63) 63
  { s.wr Reg.QOS_G_G g with tick := live.rootN * 6250 }

theorem test_windows_and_floor :
    (after .qosWindowClose (shedding 64)).qos.window = 1 ∧ (after .qosWindowClose (shedding 64)).flag (Reg.QOS_CLASS_CTL_SHED 63) = false
    ∧ (after .qosWindowClose (shedding 63)).flag (Reg.QOS_CLASS_CTL_SHED 63) = true ∧ (after .qosWindowClose (shedding 63)).restoreNext = some 63
    ∧ (let s := { shedding 64 with qos := { live.qos with acct := [(63, { newer := 5, missNew := 7 })] } }
       Tbl.Sorted s.qos.acct ∧ (after .qosWindowClose s).acct 63 = { older := 5, missOld := 7 })
    ∧ leadsTo (exec .qosWindowClose live) live = true ∧ leadsTo (exec .gRecompute live) live = true
    ∧ (let s := { (shedding 64).setFlag (Reg.QOS_CLASS_CTL_SHED 63) false with qos := { live.qos with gDirty := true } }
       (after .gRecompute s).rd Reg.QOS_G_G = 0 ∧ (after .gRecompute s).flag (Reg.QOS_CLASS_CTL_SHED 63) = true) := by decide +kernel

/-- The governor runs on channel 0 with a DIMM at 60 °C, at level 4, past a boundary of 100 µs; no power limit is set. -/
def governed : State :=
  let s := ((({ live with tick := live.us100, qos := { live.qos with dimm := [(0, some 960)] } }.setFlag (Reg.DMC_CFG_EN 0) true).wr Reg.GLB_GOV_STATUS_LEVEL 4).wr Reg.GLB_GOV_CFG_PWR_LIMIT 0)
  (s.wr Reg.GLB_GOV_TEMP_TJ_HIGH 100).wr Reg.GLB_GOV_TEMP_DIMM_HIGH 62
def dies5 (t : Int) : List (Option Int) := List.replicate 5 (some t)

theorem test_governor_interval :
    governed.dutyUp 1 = true ∧ governed.chLive 0 = true ∧ governed.derate 0 < derateFor (16 * 62) 960 ∧ (after (.governorInterval (dies5 800)) governed).derate 0 = 1
    ∧ (after (.governorInterval (dies5 800)) governed).qos.lastGov = governed.tick ∧ (after (.governorInterval (dies5 1700)) governed).rd Reg.GLB_GOV_STATUS_LEVEL = (governed.noteDies (dies5 1700)).govTherm ∧ (governed.noteDies (dies5 1700)).govTherm < 4
    ∧ (after (.governorInterval []) governed).flag Reg.GLB_GOV_STATUS_TEMP_LOST = true
    ∧ leadsTo (exec (.governorInterval []) { governed with tick := 0 }) ({ governed with tick := 0 }.noteDies []) = true := by decide +kernel

theorem test_temperatures_and_backstop :
    Tbl.lookD (after (.dimmTempRead 0 [some 5, some 9]) governed).qos.dimm none 0 = some 9 ∧ Tbl.lookD (after (.dimmTempRead 0 [some 5, none]) governed).qos.dimm none 0 = none
    ∧ leadsTo (exec (.dimmTempRead 15 [some 5]) governed) governed = true
    ∧ (let s := { governed with tick := aMs, qos := { governed.qos with dimm := [(0, some (62 * 16 + 81))] } }
       s.qos.share ≠ 0 ∧ OverBackstop (s.noteDies []) ∧ (after (.thermalBackstop []) s).derate 0 = 3 ∧ (after (.thermalBackstop []) s).qos.share = 0
       ∧ ¬ OverBackstop ({ s with qos := governed.qos }.noteDies (dies5 1680))
       ∧ leadsTo (exec (.thermalBackstop (dies5 1680)) { s with qos := governed.qos }) ({ s with qos := governed.qos }.noteDies (dies5 1680)) = true
       ∧ (after (.thermalBackstop []) { s with qos := { s.qos with share := 0 } }).derate 0 = 3 ∧ (after (.thermalBackstop []) { s with qos := { s.qos with share := 0 } }).flag Reg.GLB_GOV_STATUS_BACKSTOP = false) := by decide +kernel

/-! ### The Gatehouse's feeds and switchovers -/

/-- The Gatehouse with its default settings, and both feeds in given states. -/
def feeds (a b : Nat) : State :=
  let s := (((after .gthSettingsLoaded powered).gw (atFeed .a Reg.GTH_FEED_A_STATUS_STATE) a).gw (atFeed .b Reg.GTH_FEED_A_STATUS_STATE) b).gw Reg.GTH_CTL_A_SW_EN 1
  { s with out := [] }
def inWin (x : Feed) (s : State) : State := s.gw (atFeed x Reg.GTH_FEED_A_STATUS_IN_WINDOW) 1
def setA (f : FeedSt) (s : State) : State := { s with gth := { s.gth with fa := f } }

theorem test_supply :
    powered.bestGen = none ∧ (after .gthSettingsLoaded powered).gr (atFeed .b Reg.GTH_FEED_A_CFG_OV) = 620 ∧ leadsTo (exec .gthSettingsLoaded (feeds 0 0)) (feeds 0 0) = true
    ∧ (after .auxPowerLoss (feeds 4 0)).out = [.gate .a .off] ∧ (after .auxPowerLoss (feeds 4 0)).gth.aux = false ∧ leadsTo (exec .auxPowerLoss live) live = true
    ∧ leadsTo (exec (.feedSample .a ⟨1, 2, 3⟩) live) live = true := by decide +kernel

theorem test_samples :
    (let t := after (.feedSample .a ⟨48000, 0, 48000⟩) (inWin .a (feeds 3 0))
     t.gth.fa.samples = 1 ∧ t.gth.fa.sumV = 48000 ∧ t.fst .a = 4)
    ∧ (let t := after (.feedSample .a ⟨37999, 250 * 100, 48000⟩) (setA { outRun := 1000 } (inWin .a (feeds 4 0)))
       t.gr (atFeed .a Reg.GTH_FEED_A_STATUS_IN_WINDOW) = 0 ∧ t.fst .a = 1 ∧ t.out.contains (.gate .a .off) = true)
    ∧ (let t := after (.feedSample .a ⟨48000, 250 * 100, 0⟩) (inWin .a (feeds 4 0))
       t.gth.fa.flt = 1 ∧ t.fst .a = 4 ∧ t.gth.fa.gate = .limit 25000 ∧ t.out.contains (.gate .a (.limit 25000)) = true)
    ∧ (after (.feedSample .a ⟨37999, 0, 48000⟩) (setA { outRun := 1000, pull := some 1 } (inWin .a (feeds 4 0)))).fst .a = 4
    ∧ ((after (.feedEnableChange .b true) ((feeds 0 0).gw Reg.GTH_CTL_B_SW_EN 1)).fst .b = 1 ∧ (after (.feedEnableChange .a false) (feeds 4 0)).out = [.gate .a .off]) := by decide +kernel

theorem test_holds_and_ramps :
    (let s := setA { held := 10 ^ 9 } (inWin .a (feeds 1 0))
     s.holdLength .a ≤ (s.feed .a).held ∧ .a = s.preferred ∧ s.drives .b = false ∧ s.gth.switch = none ∧ s.gth.left = none ∧ (after (.qualifyHoldExpiry .a) s).fst .a = 3
     ∧ (after (.qualifyHoldExpiry .a) s).out.contains (.gate .a (.slew 10)) = true ∧ (after (.qualifyHoldExpiry .a) (s.gw (atFeed .b Reg.GTH_FEED_A_STATUS_STATE) 4)).fst .a = 2
     ∧ leadsTo (exec (.qualifyHoldExpiry .b) s) s = true)
    ∧ (let s := setA { since := 10 ^ 9 } (feeds 3 0)
       s.rampLate .a = true ∧ (after (.rampTimeout .a) s).fst .a = 5 ∧ (after (.rampTimeout .a) s).gr (atFeed .a Reg.GTH_FEED_A_STATUS_TRIP_CAUSE) = 3 ∧ leadsTo (exec (.rampTimeout .a) (feeds 4 0)) (feeds 4 0) = true) := by decide +kernel

theorem test_trips_and_pg_out :
    (let s := setA { flt := 100 * (feeds 4 0).gr (atFeed .a Reg.GTH_FEED_A_BREAKER_FLT_TIME) } (feeds 4 0)
     (after (.faultTimerExpiry .a) s).gth.fa.pull = some 0 ∧ (after (.faultTimerExpiry .a) s).gth.fa.gate = .limit 25000 ∧ leadsTo (exec (.faultTimerExpiry .a) (setA { flt := s.gth.fa.flt - 1 } s)) (setA { flt := s.gth.fa.flt - 1 } s) = true)
    ∧ (let s := setA { pull := some 5 } (feeds 4 0)
       (after (.breakerPulldown .a) s).fst .a = 5 ∧ (after (.breakerPulldown .a) s).gr (atFeed .a Reg.GTH_FEED_A_STATUS_TRIPS) = 1 ∧ leadsTo (exec (.breakerPulldown .a) (setA { pull := some 4 } s)) (setA { pull := some 4 } s) = true)
    ∧ ((after (.faultTimerClear .a) (setA { low := 20, flt := 7 } (feeds 4 0))).gth.fa.flt = 0 ∧ leadsTo (exec (.faultTimerClear .a) (setA { low := 19, flt := 7 } (feeds 4 0))) (setA { low := 19, flt := 7 } (feeds 4 0)) = true)
    ∧ ((after (.fastTrip .a 50000) (feeds 4 0)).gr (atFeed .a Reg.GTH_FEED_A_STATUS_TRIP_CAUSE) = 2 ∧ leadsTo (exec (.fastTrip .a 49999) (feeds 4 0)) (feeds 4 0) = true
       ∧ leadsTo (exec (.fastTrip .b 50000) (feeds 4 0)) (feeds 4 0) = true)
    ∧ (let s := (feeds 4 0).gw Reg.GTH_STATUS_OUT_IN_WINDOW 1
       let s : State := { s with gth := { s.gth with qualFor := 10 ^ 6 } }
       s.qualifies = true ∧ 100 * s.gr Reg.GTH_TIMING_PG_QUAL ≤ s.gth.qualFor ∧ (after .pgQualified s).gr Reg.GTH_STATUS_PG_OUT = 1) := by decide +kernel

/-- A switchover from feed B to feed A, which is READY and preferred. -/
def switching (confirmed : Bool) (age : Nat) (b : Nat) : State :=
  let s := feeds 2 b
  { s with gth := { s.gth with switch := some { src := .b, dst := .a, confirmed := confirmed, age := age } } }

theorem test_switchovers :
    (let s := setA { since := 1000000 } ((feeds 2 4).gw Reg.GTH_CTL_AUTO_RETURN 1)
     s.preferred = .a ∧ s.drives .b = true ∧ (after .autoReturnTimer s).gth.switch = some { src := .b, dst := .a } ∧ (after .autoReturnTimer s).fst .b = 1
     ∧ (after .autoReturnTimer s).out.contains (.gate .b .off) = true ∧ leadsTo (exec .autoReturnTimer (setA { since := 999999 } s)) (setA { since := 999999 } s) = true)
    ∧ (after (.offConfirm 1000) (switching false 7 1)).gth.switch = some { src := .b, dst := .a, confirmed := true, age := 0 } ∧ leadsTo (exec (.offConfirm 0) (switching true 7 1)) (switching true 7 1) = true
    ∧ leadsTo (exec (.offConfirm 1001) (switching false 7 1)) (switching false 7 1) = true ∧ (after (.offConfirm 0) ((switching false 7 1).gw (atFeed .a Reg.GTH_FEED_A_STATUS_STATE) 1)).gth.switch = none
    ∧ (switching false 100 1).drives .b = false ∧ (after .offConfirmTimeout (switching false 100 1)).fst .b = 5 ∧ (after .offConfirmTimeout (switching false 100 1)).gth.fb.hold = true
    ∧ leadsTo (exec .offConfirmTimeout (switching false 99 1)) (switching false 99 1) = true
    ∧ (switching true 10000 1).gr Reg.GTH_OUT_CFG_BBM_GAP ≤ 10000 ∧ (after .bbmGapExpiry (switching true 10000 1)).fst .a = 3 ∧ (after .bbmGapExpiry (switching true 10000 1)).out = [.gate .a (.slew 100)]
    ∧ leadsTo (exec .bbmGapExpiry (feeds 2 1)) (feeds 2 1) = true := by decide +kernel

def writing (off : Nat) (v : Word) (s : State) : State := { s with gth := { s.gth with writes := [(off, v)] } }

theorem test_gatehouse_writes :
    gthFields 0x2100018 ≠ [] ∧ gthFields 0x2100010 ≠ [] ∧ isWindowReg 0x2100010 = true ∧ (feeds 0 0).gthLocked = false
    ∧ (after .gthConfigApply (writing 0x2100018 99 (feeds 0 0))).gr Reg.GTH_FEED_A_SHUNT_RSHUNT = 100
    ∧ wideEnough (mapFields 0x2100010 (fun lo hi _ n => clampTo lo hi n) (BitVec.ofNat 32 (480 + 1024 * 499))) = false
    ∧ (after .gthConfigApply (writing 0x2100010 (BitVec.ofNat 32 (480 + 1024 * 499)) (feeds 0 0))).gr Reg.GTH_FEED_A_CFG_UV = 380
    ∧ (after .gthConfigApply (writing 0x2100010 (BitVec.ofNat 32 (480 + 1024 * 500)) (feeds 0 0))).gr Reg.GTH_FEED_A_CFG_UV = 480
    ∧ leadsTo (exec .gthConfigApply (writing 0x2100010 5 live)) (live) = true ∧ leadsTo (exec .gthConfigApply live) live = true
    ∧ (let t := after .gthConfigApply (writing 0x2100000 0x80000012 (feeds 5 4))
       t.fst .a = 0 ∧ t.gr Reg.GTH_CTL_LOCK = 1 ∧ t.gr Reg.GTH_CTL_B_SW_EN = 1 ∧ t.gr Reg.GTH_CTL_A_SW_EN = 0)
    ∧ (let t := after .gthConfigApply (writing 0x2100000 0 (feeds 4 2))
       t.fst .a = 0 ∧ t.fst .b = 0 ∧ t.gr Reg.GTH_STATUS_SWITCHOVERS = 0)
    ∧ (let s := (feeds 5 0).gw (atFeed .a Reg.GTH_FEED_A_STATUS_EN_PIN) 1
       s.enabled .a = true ∧ (after (.gthCtlClear .a) s).fst .a = 1 ∧ leadsTo (exec (.gthCtlClear .b) s) s = true)
    ∧ (after (.gthCtlClrEnergy .a) (setA { energyPj := 5 } powered)).gth.fa.energyPj = 0 ∧ leadsTo (exec (.gthCtlClrEnergy .a) live) live = true := by decide +kernel

/-! ### The Graft link -/

/-- Port 1 in a state, with partner 5 of the domain; device 3 has its ID; the replay limit is 2. -/
def port (st : Nat) (p : GPortSt) : State :=
  let s := ((live.wr (Reg.GFT_PORT_STATUS_STATE 1) st).wr (Reg.GFT_PORT_STATUS_PEER_ID 1) 5).wr Reg.GFT_CFG_DEV_ID 3
  let s := ((s.setFlag Reg.GFT_CFG_ID_VALID true).wr Reg.GFT_CFG_PORT_EN 3).wr Reg.GFT_CFG_REPLAY_LIMIT 2
  { s with graft := [(1, p)] }
/-- A payload of zeros but for its first byte, and a flow unit of it. -/
def aLoad : List Byte := 0x30 :: List.replicate 239 0
def aFu : Fu := { ty := .req, payload := aLoad }
/-- The next sequence sent is 0, and the oldest unacknowledged one is 4095. -/
def sending (p : GPortSt) : State := (port 2 { p with txNext := 0, buf := [aFu] }).wr (Reg.GFT_PORT_SEQ_TX_OLDEST 1) 4095
/-- The header and the payload's length of each flow unit that has left. -/
def heads (s : State) : List (Nat × Nat) := s.out.filterMap (fun o => match o with | .fu 1 u => some (byteField u 0 8, u.length - 16) | _ => none)

set_option maxRecDepth 20000 in
theorem test_graft_training :
    (let t := after (.graftLinkUp 1 3 true 5 (BitVec.ofNat 32 ((port 1 {}).rd Reg.GFT_DOMAIN_TAG))) (port 1 {})
     t.rd (Reg.GFT_PORT_STATUS_STATE 1) = 2 ∧ t.flag (Reg.GFT_PORT_STATUS_FULL 1) = true ∧ (t.gp 1).session = 1 ∧ (t.gp 1).reqQ = [.oxn 0 false (t.helloBody 1)])
    ∧ ((after (.graftLinkUp 1 3 true 3 (BitVec.ofNat 32 ((port 1 {}).rd Reg.GFT_DOMAIN_TAG))) (port 1 {})).rd (Reg.GFT_PORT_STATUS_STATE 1) = 5 ∧ leadsTo (exec (.graftLinkUp 1 3 true 5 0) (port 2 {})) (port 2 {}) = true)
    ∧ leadsTo (exec (.graftRetrain 1 .crcRate false) (port 2 { crcAt := List.replicate 16 0 })) (port 2 { crcAt := List.replicate 16 0 }) = true
    ∧ (after (.graftRetrain 1 .crcRate false) (port 2 { crcAt := List.replicate 17 0 })).rd (Reg.GFT_PORT_STATUS_STATE 1) = 3
    ∧ (let t := after (.graftRetrain 1 .blockLock true) (port 2 {})
       heads t = [(3 + 3 * 2 ^ 14, 240)] ∧ (t.gp 1).lead = true ∧ t.rd (Reg.GFT_PORT_ERR_RETRAINS 1) = 1)
    ∧ leadsTo (exec (.graftRetrain 1 (.widthChange 2) true) (port 2 {})) (port 2 {}) = true
    ∧ (let t := after (.graftRetrain 1 (.widthChange 2) true) (port 2 { wantWidth := some 2 })
       heads t = [(3 + 4 * 2 ^ 14 + 2 * 2 ^ 30, 240)] ∧ (t.gp 1).wantWidth = some 2 ∧ (t.gp 1).target = some 2)
    ∧ (let t := after (.graftRetrain 1 (.widthChange 2) true) ((port 2 { wantWidth := some 2 }).wr Reg.GFT_CFG_DEV_ID 6)
       (t.gp 1).lead = false ∧ (t.gp 1).target = none)
    ∧ (let t := after (.graftRetrainDone 1 3) (((port 3 { buf := [aFu] }).wr (Reg.GFT_PORT_SEQ_TX_OLDEST 1) 4095).wr (Reg.GFT_PORT_STATUS_WIDTH 1) 3)
       t.rd (Reg.GFT_PORT_STATUS_STATE 1) = 2 ∧ (t.gp 1).replaying = some 4095 ∧ heads t = [(3 + 2 * 2 ^ 14 + 4095 * 2 ^ 18, 240)] ∧ t.rd (Reg.GFT_PORT_STATUS_WIDTH 1) = 3)
    ∧ (let t := after (.graftRetrainDone 1 3) ((port 3 { wantWidth := some 2 }).wr (Reg.GFT_PORT_STATUS_WIDTH 1) 1)
       heads t = [(3 + 4 * 2 ^ 14 + 2 * 2 ^ 30, 240)] ∧ t.rd (Reg.GFT_PORT_STATUS_STATE 1) = 3 ∧ (t.gp 1).target = some 2 ∧ t.rd (Reg.GFT_PORT_STATUS_WIDTH 1) = 1)
    ∧ (let t := after (.graftRetrainDone 1 1) (port 3 { wantWidth := some 2, lead := true, target := some 2 })
       t.rd (Reg.GFT_PORT_STATUS_STATE 1) = 2 ∧ (t.gp 1).wantWidth = none ∧ t.rd (Reg.GFT_PORT_STATUS_WIDTH 1) = 1)
    ∧ leadsTo (exec (.graftRetrainDone 1 1) (port 2 {})) (port 2 {}) = true ∧ (after (.graftLostRetry 1) (port 4 {})).rd (Reg.GFT_PORT_STATUS_STATE 1) = 1
    ∧ (after (.graftLostRetry 1) ((port 4 {}).setFlag Reg.GFT_CFG_ID_VALID false)).rd (Reg.GFT_PORT_STATUS_STATE 1) = 4 := by decide +kernel

set_option maxRecDepth 20000 in
theorem test_graft_sending :
    crc64 [0x31, 0x32, 0x33, 0x34, 0x35, 0x36, 0x37, 0x38, 0x39] = 0x62EC59E3F1A4F00A ∧ fuGood (fuUnit 5 aLoad) = true
    ∧ leadsTo (exec (.fuTransmit 1) (port 2 {})) (port 2 {}) = true ∧ (port 2 {}).portUp 1 = true ∧ (port 3 {}).portUp 1 = false
    ∧ (after (.fuTransmit 1) (sending { replaying := some 4095 })).out = [.fu 1 (fuUnit 0 aLoad)] ∧ ((after (.fuTransmit 1) (sending { replaying := some 4095 })).gp 1).replaying = none
    ∧ seqGap 4095 0 = 1 ∧ ((after (.fuTransmit 1) (sending { replaying := some 0 })).gp 1).replaying = none
    ∧ heads (after (.fuTransmit 1) (port 2 { ackSent := 7 })) = [(2, 240)] ∧ heads (after (.fuTransmit 1) (port 2 { buf := List.replicate 1024 aFu, reqQ := [.rdl 9 63 7] })) = [(2, 240)]
    ∧ (let t := after (.fuTransmit 1) ((port 2 { txNext := 4095, rspQ := [.cmp 3 0], reqQ := [.rdl 9 63 7] }).wr (Reg.GFT_PORT_SEQ_RX_EXPECTED 1) 6)
       heads t = [(1 + 6 * 4, 240)] ∧ (t.gp 1).txNext = 0 ∧ (t.gp 1).reqQ = [.rdl 9 63 7] ∧ (t.gp 1).rspQ = [] ∧ (t.gp 1).buf.map (·.payload) = [(packFu 0 240 [.cmp 3 0]).1])
    ∧ heads (after (.fuTransmit 1) (port 2 { txNext := 8, reqQ := [.rdl 9 63 7] })) = [(0, 240)]
    ∧ heads (after (.ackTimer 1) (port 2 {})) = [(2, 240)] ∧ heads (after (.nakResend 1) ((port 2 {}).setFlag (Reg.GFT_PORT_STATUS_RX_DISCARD 1) true)) = [(3 + 1 * 2 ^ 14, 240)]
    ∧ (after (.replayTimerExpiry 1) ((sending {}).wr (Reg.GFT_PORT_SEQ_REPLAYS 1) 2)).rd (Reg.GFT_PORT_SEQ_REPLAYS 1) = 3
    ∧ (after (.replayTimerExpiry 1) ((sending {}).wr (Reg.GFT_PORT_SEQ_REPLAYS 1) 3)).rd (Reg.GFT_PORT_STATUS_STATE 1) = 4
    ∧ leadsTo (exec (.replayTimerExpiry 1) (port 2 {})) (port 2 {}) = true := by decide +kernel

/-- A message of two flow units: the first 8 lines of a write, cut after 240 bytes. -/
def longMsg : GMsg := .wru 9 63 8 (List.replicate 8 5) 128

set_option maxRecDepth 20000 in
theorem test_graft_receiving :
    fuGood [] = false ∧ heads (after (.fuReceive 1 []) (sending {})) = [(3 + 1 * 2 ^ 14, 240)] ∧ ((after (.fuReceive 1 []) (sending {})).gp 1).buf = [aFu] ∧ ((after (.fuReceive 1 []) (sending {})).gp 1).crcAt = [0]
    ∧ ((after (.fuReceive 1 (streamUnit 0 0 [])) (sending {})).gp 1).buf = [] ∧ (after (.fuReceive 1 (streamUnit 0 0 [])) (sending {})).fuOldest 1 = 0
    ∧ ((after (.fuReceive 1 (streamUnit 0 2 [])) (sending {})).gp 1).buf = [aFu]
    ∧ (after (.fuReceive 1 (streamUnit 0 0 [])) ((sending {}).setFlag (Reg.GFT_PORT_STATUS_RX_DISCARD 1) true)).fuExpect 1 = 0
    ∧ (let s := (port 2 { seqIn := 7 }).wr (Reg.GFT_PORT_SEQ_RX_EXPECTED 1) 6
       (after (.fuReceive 1 (streamUnit 0 0 [])) s).fuExpect 1 = 6 ∧ ((after (.fuReceive 1 (streamUnit 0 0 [])) s).gp 1).seqIn = 8)
    ∧ (let s := (port 2 { seqIn := 4095 }).wr (Reg.GFT_PORT_SEQ_RX_EXPECTED 1) 4095
       (after (.fuReceive 1 (streamUnit 0 0 [])) s).fuExpect 1 = 0 ∧ ((after (.replay 1 0 3071) s).gp 1).seqIn = 3071 ∧ (after (.replay 1 0 3071) s).rd (Reg.GFT_PORT_STATUS_STATE 1) = 2
       ∧ (after (.replay 1 0 3070) s).rd (Reg.GFT_PORT_STATUS_STATE 1) = 4)
    ∧ ((after (.fuReceive 1 (streamUnit 0 0 (msgBytes (.rdl 9 62 7)))) (port 2 {})).gp 1).rspQ = [.datal 9 1 0 true]
    ∧ ((after (.fuReceive 1 (fuUnit 0 ((msgBytes longMsg).take 240))) (port 2 {})).gp 1).rxReq = (msgBytes longMsg).take 240
    ∧ opData true 1 = none ∧ (after (.fuReceive 1 (streamUnit 1 0 (leBytes 8 1))) (port 2 {})).rd (Reg.GFT_PORT_STATUS_STATE 1) = 4
    ∧ (after (.fuReceive 1 (fuUnit (fuHead 3 0 5 0 0) noPayload)) (port 2 {})).rd (Reg.GFT_PORT_STATUS_STATE 1) = 4
    ∧ (after (.fuReceive 1 (fuUnit (fuHead 3 0 4 0 2) noPayload)) (port 2 {})).rd (Reg.GFT_PORT_STATUS_STATE 1) = 3
    ∧ (after (.ackFu 1 0) (sending {})).fuOldest 1 = 0 ∧ heads (after (.nak 1 4095) (sending {})) = [(3 + 2 * 2 ^ 14 + 4095 * 2 ^ 18, 240)] ∧ ((after (.nak 1 4095) (sending {})).gp 1).replaying = some 4095
    ∧ (after (.retrainReq 1 0) (sending {})).rd (Reg.GFT_PORT_STATUS_STATE 1) = 3 ∧ ((after (.widthReq 1 0 2) (sending {})).gp 1).target = some 2
    ∧ ((after (.widthReq 1 0 2) (port 3 { lead := true, target := some 1 })).gp 1).target = some 1 ∧ ((after (.widthReq 1 0 2) (port 3 { lead := false, target := some 1 })).gp 1).target = some 2
    ∧ (after (.graftPortLost 1 .noProgress) (port 3 {})).rd (Reg.GFT_PORT_STATUS_STATE 1) = 4 ∧ leadsTo (exec (.graftPortLost 1 .retrainTooLong) (port 2 {})) (port 2 {}) = true := by decide +kernel

/-! ### Graft messages and Oxentelo -/

/-- Device 3 lends: region 9 of 8 units from unit 4, and lease 63 of partner 5, of 1 GiB, granted in entry 63; class 0 carries it within a guaranteed bandwidth of 2,000. -/
def lends : State :=
  let s := (((port 2 {}).wr (Reg.GFT_LENT_PEER_ID 63) 5).wr (Reg.GFT_LENT_PEER_LEASE 63) 63).wr (Reg.GFT_LENT_SIZE_GIB 63) 1
  let s := ((((s.wr (Reg.GFT_LENT_BASE 63) 4).setFlag Reg.GFT_CFG_LENDING_EN true).wr Reg.QOS_G_G 2000).setFlag (Reg.QOS_CLASS_CTL_VALID 0) true).setFlag (Reg.GFT_PORT_STATUS_FULL 1) true
  { s with lent := [(63, { port := 1, term := 10, bw := 0, order := 7 })], regions := [(9, { aRegion with base := 4, len := 8, lend := true })] }
/-- A request to the partner is outstanding under tag 9. -/
def asks (o : Outst) (s : State) : State := { s with graft := [(1, { outst := [o] })] }
def fill9 : Outst := { tag := 9, why := .fill 5 2, write := false, line := 7, lease := 63 }
def filling (n : Nat) : State := { port 2 {} with path := { live.path with wcb := [{ line := 5, data := 7, be := 1, poison := false, entered := 0, last := 84, fill := some (n, none) }] } }

theorem test_graft_messages :
    lends.lentFor 1 63 (2 ^ 24 - 1) 1 = some 63 ∧ lends.lentFor 1 63 (2 ^ 24) 1 = none ∧ lends.lentFor 1 63 (2 ^ 24 - 8) 8 = some 63 ∧ lends.lentFor 1 62 0 1 = none
    ∧ (after (.rdl 1 9 63 (BitVec.ofNat 32 (2 ^ 24 - 1))) lends).path.ingress.map (·.line) = [4 * 2 ^ 22 + 2 ^ 24 - 1]
    ∧ ((after (.rdl 1 9 63 (BitVec.ofNat 32 (2 ^ 24))) lends).gp 1).rspQ = [.datal 9 1 0 true] ∧ (after (.rdu 1 9 63 15) lends).path.ingress.map (·.line) = (List.range 8).map (4 * 2 ^ 22 + 8 + ·)
    ∧ (after (.wrp 1 9 63 5 3 7 false) lends).path.ingress.map (·.be) = [3] ∧ (after (.wru 1 9 63 8 (List.replicate 8 5) 128) lends).path.ingress.map (·.poison) = List.replicate 7 false ++ [true]
    ∧ ((after (.wrl 1 9 62 5 7 false) lends).gp 1).rspQ = [.cmp 9 1] ∧ leadsTo (exec (.rdl 1 9 63 0) (port 3 {})) (port 3 {}) = true
    ∧ (after (.datal 1 9 0 0xFF00 false) (asks fill9 (filling 2))).path.wcb.map (fun w => (w.be, w.fill.isNone)) = [(BitVec.allOnes 64, true)]
    ∧ (after (.datal 1 9 0 0xFF00 false) (asks fill9 (filling 3))).path.wcb.map (·.be) = [1] ∧ (after (.datal 1 8 0 0 false) (asks fill9 (filling 2))).rd (Reg.GFT_PORT_STATUS_STATE 1) = 4
    ∧ (let s := { asks { fill9 with why := .txn 9 0 } (port 2 {}) with path := { live.path with txns := [{ req := askAt0 .rd, slice := 0, phase := .dram }] } }
       (s.txn? 9).isSome = true ∧ (after (.datal 1 9 0 7 false) s).path.txns = [])
    ∧ Tbl.look (Tbl.lookD (after (.datal 1 9 3 7 false) (asks { fill9 with why := .page 0 7 } (port 2 {}))).sec.gather [] 0) 56 = some { data := 7, poison := true }
    ∧ Tbl.look (Tbl.lookD (after (.datau 1 9 0 (List.replicate 8 7) 128) (asks { fill9 with why := .engine 63 6 } (port 2 {}))).press.sherds [] 63) 55 = some { data := 7, poison := true }
    ∧ ((after (.cmp 1 9 0) (asks { fill9 with write := true } (port 2 {}))).gp 1).outst = []
    ∧ (let s := { asks { fill9 with write := true, span := 8 } (port 2 {}) with borrow := [(63, { port := 1, bad := [7, 15] })] }
       (after (.cmp 1 9 0) s).borrow = [(63, { port := 1, bad := [15] })] ∧ (after (.cmp 1 9 2) s).peerBad 63 14 = true ∧ (after (.cmp 1 9 2) s).peerBad 63 16 = false)
    ∧ (let s := { port 2 {} with graft := [(1, { outst := [{ fill9 with write := true }], waitReq := [{ out := { fill9 with line := 8 }, msg := .rdl 0 63 8 }] })] }
       ((after (.cmp 1 9 0) s).gp 1).waitReq = [] ∧ ((after (.cmp 1 9 0) s).gp 1).outst.map (·.line) = [8] ∧ ((after (.cmp 1 9 0) s).gp 1).reqQ.length = 1)
    ∧ (let s := { asks { fill9 with write := true, line := 63 } (port 2 {}) with place := { live.place with slots := [(slotKey 0 15, { rehome1 with kind := .spill, dst := some (.spilled 63 7 1) })] } }
       spillGroups 1 = 1 ∧ (after (.cmp 1 9 1) s).place.slots.map (fun e => e.2.abort) = [true]) := by decide +kernel

/-- An exchange is open at port 1 under tag 9. -/
def opens (m : Oxn) (s : State) : State := { s with graft := [(1, { oxn := [{ tag := 9, body := m }] })] }

theorem test_discovery :
    (port 2 {}).dutyUp 7 = true ∧ (fenced.wr (Reg.GFT_PORT_STATUS_STATE 1) 2).dutyUp 7 = false ∧ ((after (.leaseRenew 1 9 63) (fenced.wr (Reg.GFT_PORT_STATUS_STATE 1) 2)).gp 1).oxnHeld = [(9, false, .leaseRenew 63)]
    ∧ (after (.recallAck 1 9 63) (port 2 {})).rd (Reg.GFT_PORT_STATUS_STATE 1) = 4 ∧ leadsTo (exec (.hello 1 9 false 0 5 6) (port 3 {})) (port 3 {}) = true
    ∧ (after (.hello 1 9 false 0 5 6) (port 2 {})).mgmt.sessions = [(5, 6)]
    ∧ (let s : State := { lends with mgmt := { lends.mgmt with sessions := [(5, 5)] } }
       (after (.hello 1 9 false 0 5 6) s).lent = [] ∧ (after (.hello 1 9 false 0 5 5) s).lent.length = 1)
    ∧ ((after (.identity 1 9 false 0x9640 1 2) (port 2 {})).gp 1).rspQ.length = 1 ∧ ((after (.capability 1 9 false 7 8) (port 2 {})).gp 1).peerGib = 7
    ∧ (let t := after (.hello 1 9 true 0 5 6) (opens (.hello 0 3 1 2 1) (port 2 {}))
       t.flag (Reg.GFT_PORT_STATUS_PEER_VALID 1) = true ∧ (t.gp 1).oxn.length = 1)
    ∧ ((after (.identity 1 9 true 0x9640 1 2) (opens (.identity 1 2 3) lends)).gp 1).capSent = 1 ∧ ((after (.capability 1 9 true 7 8) (opens (.capability 1 2 3) (port 2 {}))).gp 1).capAns = true
    ∧ (let s := { lends with tick := lends.second, graft := [(1, { capAns := true, capSent := 9 })] }
       s.lendable = 1 ∧ ((after (.capabilityResend 1) s).gp 1).capSent = 1 ∧ leadsTo (exec (.capabilityResend 1) { s with tick := 0 }) { s with tick := 0 } = true)
    ∧ (OpenAt 1 9 (after (.oxenteloTimeout 1 9) (opens (.leaseRenew 63) (port 2 {})))).map (·.tries) = some 2
    ∧ (let s : State := { port 2 {} with graft := [(1, { oxn := List.replicate 16 { tag := 9, body := .leaseRenew 63 } })] }
       ((s.openOxn 1 (.leaseRenew 62)).gp 1).oxnToOpen = [.leaseRenew 62])
    ∧ (let s : State := { port 2 {} with graft := [(1, { oxnToOpen := [.leaseRenew 62] })] }
       ((s.oxnNext 1).gp 1).oxn.map (·.body) = [.leaseRenew 62] ∧ ((s.oxnNext 1).gp 1).oxnToOpen = [])
    ∧ (let s := { (port 2 {}) with borrow := [(63, { port := 1 })], graft := [(1, { oxn := [{ tag := 9, body := .leaseRequest 63 1 1, tries := 2 }] })] }
       s.rd (Reg.GFT_BORROW_STATE 63) = 0 ∧ (after (.oxenteloTimeout 1 9) s).borrow = [] ∧ (after (.oxenteloTimeout 1 9) s).qos.gDirty = true)
    ∧ leadsTo (exec (.oxenteloTimeout 1 8) (opens (.leaseRenew 63) (port 2 {}))) (opens (.leaseRenew 63) (port 2 {})) = true := by decide +kernel

theorem test_lending :
    lends.flag Reg.GFT_CFG_LENDING_EN = true ∧ lends.lendable = 1 ∧ lends.lendBase 4 = some 8 ∧ firstBelow 64 (fun k => (Tbl.look lends.lent k).isNone) = some 0 ∧ lends.fullPorts 5 = 1 ∧ lends.grantBw 1000 = some 1000
    ∧ (let t := after (.leaseRequest 1 9 62 1 1000) lends
       t.rd (Reg.GFT_LENT_BASE 0) = 8 ∧ t.rd (Reg.GFT_LENT_PEER_LEASE 0) = 62 ∧ (t.gp 1).rspQ = [.oxn 9 true (.leaseGrant 62 1 1000 (lends.rd Reg.GFT_LEASE_CFG_TERM_S))])
    ∧ ((after (.leaseRequest 1 9 62 2 1000) lends).gp 1).rspQ = [.oxn 9 true (.leaseDeny 62 1)] ∧ ((after (.leaseRequest 1 9 62 1 999) lends).gp 1).rspQ = [.oxn 9 true (.leaseDeny 62 2)]
    ∧ ((after (.leaseRequest 1 9 62 1 1000) (lends.setFlag Reg.GFT_CFG_LENDING_EN false)).gp 1).rspQ = [.oxn 9 true (.leaseDeny 62 3)]
    ∧ lends.lentOf 1 63 = some 63 ∧ lends.lentOf 1 62 = none ∧ ((after (.leaseRenew 1 9 62) lends).gp 1).rspQ.length = 1 ∧ ((after (.leaseRelease 1 9 62) lends).gp 1).rspQ = [.oxn 9 true (.leaseReleased 62)]
    ∧ ((after (.leaseRenew 1 9 63) { lends with tick := 77 }).lent.map (fun e => e.2.since)) = [77] ∧ (after (.leaseRelease 1 9 63) lends).lent = []
    ∧ ((after (.recallAck 1 9 63) (opens (.leaseRecall 63 5) lends)).gp 1).oxn = [] ∧ leadsTo (exec (.recallAck 1 9 62) (opens (.leaseRecall 63 5) lends)) (opens (.leaseRecall 63 5) lends) = true
    ∧ (let s : State := { lends with tick := 12 * lends.second + lends.second / 2 }
       (after (.leaseReclaim 63) s).lent = [] ∧ leadsTo (exec (.leaseReclaim 63) { s with tick := s.tick - 1 }) { s with tick := s.tick - 1 } = true)
    ∧ leadsTo (exec (.leaseReclaim 0) lends) lends = true := by decide +kernel

/-- Device 3 may borrow from partner 5, at level LOW. -/
def needy : State :=
  let s := (((port 2 { capAns := true, capIn := true, peerGib := 8 }).wr Reg.CUR_PRESSURE_LEVEL 2).setFlag Reg.GFT_LEASE_CFG_BORROW_EN true).setFlag Reg.CUR_POLICY_SPILL_EN true
  s.wr Reg.GFT_LEASE_CFG_REQ_GIB 8
/-- Lease 63 is borrowed for 10 s, in a state. -/
def borrows (st : Nat) : State := { (needy.wr (Reg.GFT_BORROW_STATE 63) st).wr (Reg.GFT_BORROW_PEER_ID 63) 5 with borrow := [(63, { port := 1, term := 10 })] }

theorem test_borrowing :
    (let t := after (.leaseRequestTrigger 1) needy
     needy.askedLately 1 = false ∧ t.borrow = [(0, { port := 1 })] ∧ (t.gp 1).askAt = some 0 ∧ (t.gp 1).oxn.map (·.body) = [.leaseRequest 0 8 0])
    ∧ leadsTo (exec (.leaseRequestTrigger 1) (port 2 {})) (port 2 {}) = true
    ∧ (let t := after (.leaseGrant 1 9 63 511 1000 20) (opens (.leaseRequest 63 8 0) (borrows 0))
       t.rd (Reg.GFT_BORROW_STATE 63) = 1 ∧ t.rd (Reg.GFT_BORROW_SIZE_GIB 63) = 511 ∧ t.borrow = [(63, { port := 1, term := 20, since := 0, emptyAt := 0 })])
    ∧ (after (.leaseDeny 1 9 63 1) (opens (.leaseRequest 63 8 0) (borrows 0))).borrow = []
    ∧ (after (.leaseRenewed 1 9 63 30) (opens (.leaseRenew 63) (borrows 1))).borrow = [(63, { port := 1, term := 30, since := 0 })]
    ∧ ((after (.leaseRecall 1 9 62 5) (borrows 1)).gp 1).rspQ = [.oxn 9 true (.recallAck 62)] ∧ (after (.leaseRecall 1 9 63 5) (borrows 1)).rd (Reg.GFT_BORROW_STATE 63) = 3
    ∧ (after (.leaseRecall 1 9 63 5) ((borrows 1).wr (Reg.GFT_BORROW_USED_UNITS 63) 7)).rd (Reg.GFT_BORROW_STATE 63) = 2
    ∧ ((after (.leaseRecall 1 9 63 5) (borrows 3)).gp 1).rspQ = [.oxn 9 true (.recallAck 63)]
    ∧ (after (.leaseReleased 1 9 63) (opens (.leaseRelease 63) (borrows 3))).borrow = [] ∧ (after (.leaseReleased 1 9 63) (opens (.leaseRelease 63) (borrows 1))).borrow.length = 1
    ∧ leadsTo (exec (.leaseRenewTimer 63) (borrows 3)) (borrows 3) = true ∧ leadsTo (exec (.leaseRenewTimer 63) (borrows 1)) (borrows 1) = true
    ∧ ((after (.leaseRenewTimer 63) { borrows 1 with tick := 5 * live.second }).gp 1).oxn.map (·.body) = [.leaseRenew 63] ∧ (borrows 1).peerPort 5 1 = 1
    ∧ (let s := { (borrows 1) with tick := 10 * live.second, place := { live.place with acc := [(0, { form := .spilled 63 7 1 })] } }
       ((after (.leaseTermExpiry 63) s).acc 0).form = .unwritten true ∧ leadsTo (exec (.leaseTermExpiry 63) { s with tick := s.tick - 1 }) { s with tick := s.tick - 1 } = true)
    ∧ (let s : State := { (borrows 1).wr Reg.CUR_PRESSURE_LEVEL 0 with tick := 10 * live.second }
       (after (.leaseIdleRelease 63) s).rd (Reg.GFT_BORROW_STATE 63) = 3 ∧ leadsTo (exec (.leaseIdleRelease 63) { s with tick := s.tick - 1 }) { s with tick := s.tick - 1 } = true)
    ∧ leadsTo (exec (.leaseIdleRelease 63) (borrows 1)) (borrows 1) = true := by decide +kernel

/-! ### Background ends, snapshots and ALERT_N -/

def bg0 (w : BgWhy) : Bg := { src := .ld 0, opcode := 0xC104, reqId := 7, why := w }
def working (w : BgWhy) (s : State) : State := { s with mgmt := { s.mgmt with bg := [bg0 w] } }
def plain : State := { plainHot with lds := [(0, anLd)] }
/-- A sanitise of page 0 is in progress, the page written. -/
def clearing (x : Sanit) : State := let s := working (.sanitize [(0, 1)]) plain; { s with mgmt := { s.mgmt with clears := [x] } }
/-- The page whose turn it is has a snoop of a sanitise open on its first line. -/
def clearingOf (n : Nat) : Sanit := { ranges := [(0, 1)], left := [(0, 1)], count := n }

theorem test_background_ends :
    live.interprets = true ∧ (working .fwCommit live).bgOf (.ld 0) = some (bg0 .fwCommit) ∧ leadsTo (exec (.backgroundComplete (.fm 0)) (working .fwCommit live)) (working .fwCommit live) = true
    ∧ (after (.backgroundComplete (.ld 0)) (working (.disable [0] false) live)).out.contains (.bgDone (.ld 0) 0xC104 7 0 [0]) = true
    ∧ (let s := working (.disable [0] false) (live.updLd 0 (fun d => { d with st := .draining }))
       s.ldEnding 0 = true ∧ leadsTo (exec (.backgroundComplete (.ld 0)) s) s = true)
    ∧ (let s := clearing { ranges := [(0, 1)], left := [], count := 1 }
       (s.clearOf [(0, 1)]).isSome = true ∧ (after (.backgroundComplete (.ld 0)) s).out.contains (.bgDone (.ld 0) 0xC104 7 0 [1, 0, 0, 0, 0, 0, 0, 0]) = true ∧ (after (.backgroundComplete (.ld 0)) s).mgmt.clears = []
       ∧ (after (.backgroundComplete (.ld 0)) s).mgmt.replays.map (·.rc) = [0])
    ∧ (let s := clearing { ranges := [(0, 1)], left := [(0, 1)] }
       s.clearNext { ranges := [(0, 1)], left := [(0, 1)] } = some 0 ∧ leadsTo (exec (.backgroundComplete (.ld 0)) s) s = true)
    ∧ (after (.backgroundComplete (.ld 0)) (working (.sanitize [(0, 1)]) plain)).out.contains (.bgDone (.ld 0) 0xC104 7 0 []) = true
    ∧ ((after (.backgroundComplete (.ld 0)) (working (.fwWrite 0 0 1) live)).out.contains (.bgDone (.ld 0) 0xC104 7 0 []) = true ∧ (after (.backgroundComplete (.ld 0)) (working (.fwWrite 0 0 1) live)).mgmt.flash ≠ live.mgmt.flash)
    ∧ (after (.backgroundComplete (.ld 0)) (working (.scrub 3) live)).out.contains (.bgDone (.ld 0) 0xC104 7 0x8006 []) = true
    ∧ (after (.backgroundComplete (.ld 0)) (working (.scrub 3) (raking { pass0 with stop := true } live))).mgmt.passes = []
    ∧ leadsTo (exec (.backgroundComplete (.ld 0)) (working (.scrub 3) (raking pass0 live))) (working (.scrub 3) (raking pass0 live)) = true := by decide +kernel

theorem test_sanitise_turns :
    (let s := clearing (clearingOf 4)
     let t := after (.directoryWalkStep 0) s
     s.dir.walks = [] ∧ homeSlice 0 = 0 ∧ s.pageBusy 0 = false ∧ s.turn 0 19 = true ∧ s.path.restart.contains 0 = false ∧ s.clearNext (clearingOf 4) = some 0 ∧ s.clearSnoops 0 = false
     ∧ (t.acc 0).form = .unwritten false ∧ t.mgmt.clears.map (fun x => (x.count, x.left.length, x.cur)) = [(5, 1, none)]
     ∧ leadsTo (exec (.directoryWalkStep 1) s) s = true)
    ∧ (let s := clearing { clearingOf 4 with cur := some 0 }
       ((after (.directoryWalkStep 0) s).acc 0).form = .unwritten false)
    ∧ (let s : State := { clearing { clearingOf 4 with cur := some 0 } with dir := { plain.dir with exchs := [{ line := 63, why := .sanitise, waits := [] }] } }
       s.clearSnoops 0 = true ∧ leadsTo (exec (.directoryWalkStep 0) s) s = true) := by decide +kernel

def gathering (w : List (Nat × Nat)) (b : Option Nat) : State := { live with cat := { live.cat with stations := [(0, 9), (1935, 5)], waiting := w, busy := b, ring := [6, 7], holds := [] } }
def logged : State := { (live.wr (Reg.ALR_LOG_CODE 1023) 0x0401).wr (Reg.ALR_LOG_SEV 1023) 1 with mgmt := { live.mgmt with logNew := [1023] } }

theorem test_snapshots_and_alerts :
    (let t := after .catalogueWalkStart (gathering [(1, 2), (0, 3)] (some 1))
     t.cat.busy = some 0 ∧ t.cat.waiting = [(1, 2)] ∧ t.cat.ring.length = 1936 ∧ t.cat.ring.getLast? = some 5 ∧ t.flag (Reg.CAT_GATHER_STATUS_ABANDONED 1) = true)
    ∧ (after .catalogueWalkStart (gathering [(1, 2)] none)).rd (Reg.CAT_GATHER_STATUS_TRIGGER 1) = 2 ∧ leadsTo (exec .catalogueWalkStart (gathering [(1, 2)] (some 1))) (gathering [(1, 2)] (some 1)) = true
    ∧ (let t := after .catalogueWalkDone (gathering [] (some 1))
       t.flag (Reg.CAT_GATHER_STATUS_VALID 1) = true ∧ t.word (bufBase 1 + 4) = 7 ∧ t.cat.busy = none)
    ∧ ((gathering [] (some 1)).trigger 0 3).cat.busy = some 0 ∧ leadsTo (exec .catalogueWalkDone live) live = true
    ∧ { live with alertN := !live.alertLevel }.alertN ≠ live.alertLevel ∧ (after .alertNUpdate { live with alertN := !live.alertLevel }).alertN = live.alertLevel
    ∧ leadsTo (exec .alertNUpdate { live with alertN := live.alertLevel }) { live with alertN := live.alertLevel } = true
    ∧ (logged.lds.map Prod.fst).Nodup ∧ logged.dutyUp 0 = true ∧ (after (.eventLdRecord 1023) logged).mgmt.logNew = []
    ∧ logged.concerns 0x0401 0 0 0 anLd = true ∧ ((after (.eventLdRecord 1023) logged).lds.map (fun e => (Tbl.lookD e.2.logs [] 1).length)) = [1]
    ∧ leadsTo (exec (.eventLdRecord 0) logged) logged = true := by decide +kernel

end Sys2Proof.Tests
end

section
/-! Every command keeps what `Keeps` says (Laws/Keeps): its meaning is built of operations that do. With it every step keeps the canonical form of the tables. -/
namespace Sys2Proof.Machine

/-- What the state that an outcome answers keeps, the next state keeps. -/
theorem Keeps.of_next {s t u : State} (k : Keeps s u) (h : (.next u : Host.Outcome State Fault Refusal) = .next t) : Keeps s t :=
  Host.Outcome.next.inj h ▸ k

/-- A 32-bit write by a source whose access has crossed the link of its head. -/
theorem State.crossLink_put32_keeps (s : State) (a : Agent) (off : Nat) (v : Word) : Keeps s ((s.crossLink a).put32 a off v) :=
  (State.crossLink_keeps ..).trans (State.put32_keeps ..)

/-- Every command keeps what each operation that it is built of keeps. -/
theorem exec_keeps {c : Instr} {s t : State} (h : exec c s = .next t) : Keeps s t := by
  cases c with
  | registerWrite => exact (State.writeRings_keeps ..).of_next h
  | access64 => exact ((State.crossLink_keeps ..).trans (State.access64_keeps ..)).of_next h
  | lowWordWrite | highWordWrite | dirProbeStart | prsQTailWrite | catGroupClear | catEvselWrite | catSampConfigWrite | catGatherStart | glbRstCold |
    glbRstWarm =>
    exact (State.crossLink_put32_keeps ..).of_next h
  | lowWordRead => exact ((State.crossLink_keeps ..).trans (State.regGet_keeps ..)).of_next h
  | highWordRead => exact ((State.crossLink_keeps ..).trans (State.get32_keeps ..)).of_next h
  | gthFrameSend => exact (State.frameSend_keeps ..).of_next h
  | measurementFrame => exact (State.frameIn_keeps ..).of_next h
  | gthLinkLost => exact (State.linkLostGth_keeps ..).of_next h
  | rootPllLockLoss => exact (State.pllLoss_keeps ..).of_next h
  | tickDeparture => exact (State.tickDeparts_keeps ..).of_next h
  | sliceArbitration => exact (State.sliceTick_keeps ..).of_next h
  | benchWake => exact (State.benchServe_keeps ..).of_next h
  | headLinkUp => exact (State.headUp_keeps ..).of_next h
  | headLinkDown => exact (State.headDown_keeps ..).of_next h
  | aspmL1Entry => exact (State.aspmL1_keeps ..).of_next h
  | l1Exit => exact (Keeps.ite (fun _ => State.wakeLink_keeps ..) (fun _ => Keeps.refl _)).of_next h
  | l0pRequest => exact (State.l0p_keeps ..).of_next h
  | pmeTurnOff => exact (State.pmeOff_keeps ..).of_next h
  | configAccess => exact (State.cfgAccess_keeps ..).of_next h
  | memorySpaceEnable => exact (State.memEnable_keeps ..).of_next h
  | hdmDecoderCommit => exact (State.commit_keeps ..).of_next h
  | cdatTableAccess => exact (State.cdatRead_keeps ..).of_next h
  | msixUnmask => exact (State.unmask_keeps ..).of_next h
  | cxlReset => exact (State.cxlReset_keeps ..).of_next h
  | functionLevelReset => exact (State.flr_keeps ..).of_next h
  | drainComplete => exact (State.drainDone_keeps ..).of_next h
  | gracefulDrainBound => exact (State.drainBound_keeps ..).of_next h
  | stopComplete => exact (State.stopDone_keeps ..).of_next h
  | memRd | memRdData | memInv | memClnEvct | memWr | memWrPtl => exact (State.memArrive_keeps ..).of_next h
  | memSpecRd => exact (State.hint_keeps ..).of_next h
  | fenceComplete => exact (State.fenceDone_keeps ..).of_next h
  | writeAccept => exact (State.writeAccept_keeps ..).of_next h
  | wcbDrain => exact (State.drainLine_keeps ..).of_next h
  | dramReadData => exact (State.dramData_keeps ..).of_next h
  | mergeReadDone => exact (State.mergeDone_keeps ..).of_next h
  | birsp => exact (State.birsp_keeps ..).of_next h
  | biConflict => exact (State.biConflict_keeps ..).of_next h
  | biCreditReturn => exact (State.biCredits_keeps ..).of_next h
  | biTimeout => exact (State.biTimeout_keeps ..).of_next h
  | directoryWalkStep => exact (State.walkStep_keeps ..).of_next h
  | dirProbeCapture => exact (State.probeCapture_keeps ..).of_next h
  | extentPortDrop => exact (State.portDrop_keeps ..).of_next h
  | extentReleaseDone => exact (State.releaseDone_keeps ..).of_next h
  | coldScanVisit => exact (State.scanVisit_keeps ..).of_next h
  | epochClose => exact (State.epochClose_keeps ..).of_next h
  | curatorPlan => exact (State.curatorPlan_keeps ..).of_next h
  | moveStage => exact (State.moveStage_keeps ..).of_next h
  | moveStart => exact (State.moveStart_keeps ..).of_next h
  | inlineThawStart => exact (State.inlineThaw_keeps ..).of_next h
  | moveCommit => exact (State.moveCommit_keeps ..).of_next h
  | moveAbort => exact (State.moveAbort_keeps ..).of_next h
  | moveTimeout => exact (State.moveTimeout_keeps ..).of_next h
  | rehomeCopyRound => exact (State.copyRound_keeps ..).of_next h
  | pressCompressDone => exact (State.compressDone_keeps ..).of_next h
  | pressDecodeDone => exact (State.decodeDone_keeps ..).of_next h
  | descriptorStart => exact (State.descriptorStart_keeps ..).of_next h
  | jobComplete => exact (State.jobComplete_keeps ..).of_next h
  | counterOverflowDone => exact (State.overflowDone_keeps ..).of_next h
  | counterFetchDone => exact (State.ctrFetched_keeps ..).of_next h
  | counterWriteback => exact (State.ctrBack_keeps ..).of_next h
  | retirePageOp => exact (State.retireStart_keeps ..).of_next h
  | retirePageDone => exact (State.retireEnd_keeps ..).of_next h
  | keyZeroiseDone => exact (State.zeroised_keeps ..).of_next h
  | dmcReadArrival => exact (State.readArrival_keeps ..).of_next h
  | dmcScheduleSlot => exact (State.slot_keeps ..).of_next h
  | rowIdlePrecharge => exact (State.rowIdle_keeps ..).of_next h
  | refreshInterval => exact (State.refreshDue_keeps ..).of_next h
  | mr4Poll => exact (State.mr4_keeps ..).of_next h
  | rankPowerdownEntry => exact (State.powerdown_keeps ..).of_next h
  | rankSelfrefreshEntry => exact (State.selfrefresh_keeps ..).of_next h
  | dmcPdAllowWrite => exact (State.pdAllow_keeps ..).of_next h
  | dmcSrAllowWrite => exact (State.srAllow_keeps ..).of_next h
  | safeStateOrder => exact (State.safeOrder_keeps ..).of_next h
  | trainingSweep => exact (State.trainRank_keeps ..).of_next h
  | fastCheck => exact (State.fastCheck_keeps ..).of_next h
  | tempInterpolate => exact (State.sampleTemp_keeps ..).of_next h
  | recalPass => exact (State.recalPass_keeps ..).of_next h
  | recalForced => exact (State.recalForced_keeps ..).of_next h
  | gthConverterCal => exact (State.converterCal_keeps ..).of_next h
  | calLineMeasure => exact (State.calLine_keeps ..).of_next h
  | dieSensorCal => exact (State.sensorCal_keeps ..).of_next h
  | ueRetryResult => exact (State.retryResult_keeps ..).of_next h
  | ceVerifyRead => exact (State.verifyRead_keeps ..).of_next h
  | remapSpareCheck => exact (State.spareCheck_keeps ..).of_next h
  | rangePassPage => exact (State.rakeNext_keeps ..).of_next h
  | patrolRoundStart => exact (State.patrolStart_keeps ..).of_next h
  | sramUe => exact (Keeps.ite (fun _ => State.sramUe_keeps ..) (fun _ => Keeps.refl _)).of_next h
  | channelLost => exact (State.chanLost_keeps ..).of_next h
  | d2dLinkLost => exact (State.linkLost_keeps ..).of_next h
  | sliceRestartDone => exact (Keeps.lit (Keeps.refl s) rfl).of_next h
  | lockstepMismatch => exact (State.pairFail_keeps ..).of_next h
  | watchdogExpiry => exact (State.watchdog_keeps ..).of_next h
  | glbWdnKick => exact (Keeps.ite (fun _ => State.kickDog_keeps ..) (fun _ => Keeps.refl _)).of_next h
  | pairReloadDone => exact (State.pairBack_keeps ..).of_next h
  | fenceRelease => exact (Keeps.ite (fun _ => State.unfence_keeps ..) (fun _ => Keeps.refl _)).of_next h
  | fenceExpiry => exact (State.fenceExpires_keeps ..).of_next h
  | wardenSelfCheckMismatch => exact (Keeps.ite (fun _ => State.safeEntry_keeps ..) (fun _ => Keeps.refl _)).of_next h
  | qosWindowClose => exact (State.windowClose_keeps ..).of_next h
  | gRecompute => exact (State.gRecompute_keeps ..).of_next h
  | governorInterval => exact ((State.noteDies_keeps ..).trans (State.govInterval_keeps ..)).of_next h
  | dimmTempRead => exact (State.dimmTemp_keeps ..).of_next h
  | thermalBackstop => exact ((State.noteDies_keeps ..).trans (State.backstop_keeps ..)).of_next h
  | auxPowerLoss => exact (State.auxLoss_keeps ..).of_next h
  | auxPowerUp => exact (State.standbyUp_keeps ..).of_next h
  | gthSettingsLoaded => exact (State.settingsLoaded_keeps ..).of_next h
  | feedSample => exact (State.feedSample_keeps ..).of_next h
  | feedEnableChange => exact (State.enableChange_keeps ..).of_next h
  | qualifyHoldExpiry => exact (State.holdExpiry_keeps ..).of_next h
  | rampTimeout => exact (State.rampTimeout_keeps ..).of_next h
  | faultTimerExpiry => exact (State.faultExpiry_keeps ..).of_next h
  | breakerPulldown => exact (State.pulldown_keeps ..).of_next h
  | faultTimerClear => exact (State.faultClear_keeps ..).of_next h
  | fastTrip => exact (State.fastTrip_keeps ..).of_next h
  | pgQualified => exact (State.pgQualified_keeps ..).of_next h
  | autoReturnTimer => exact (State.autoReturn_keeps ..).of_next h
  | offConfirm => exact (State.offConfirm_keeps ..).of_next h
  | offConfirmTimeout => exact (State.offTimeout_keeps ..).of_next h
  | bbmGapExpiry => exact (State.gapExpiry_keeps ..).of_next h
  | gthRegisterWrite | alrCauseClear => exact (Keeps.ite (fun _ => State.crossLink_put32_keeps ..) (fun _ => Keeps.refl _)).of_next h
  | gthConfigApply => exact (State.configApply_keeps ..).of_next h
  | gthCtlClear => exact (Keeps.ite (fun _ => (State.clearFeed_keeps ..).trans (State.gthSettle_keeps ..)) (fun _ => Keeps.refl _)).of_next h
  | gthCtlClrEnergy => exact (State.clearEnergy_keeps ..).of_next h
  | graftLinkUp => exact (State.graftLinkUp_keeps ..).of_next h
  | graftRetrain => exact (State.graftRetrain_keeps ..).of_next h
  | graftRetrainDone => exact (State.retrainDone_keeps ..).of_next h
  | fuTransmit => exact (State.fuTransmit_keeps ..).of_next h
  | ackTimer => exact (State.ackTimer_keeps ..).of_next h
  | fuReceive => exact (State.fuReceive_keeps ..).of_next h
  | ackFu => exact (Keeps.ite (fun _ => State.goodFu_keeps ..) (fun _ => Keeps.refl _)).of_next h
  | nak => exact (State.nakIn_keeps ..).of_next h
  | replay => exact (State.replayIn_keeps ..).of_next h
  | retrainReq | widthReq => exact (State.retrainIn_keeps ..).of_next h
  | replayTimerExpiry => exact (State.replayTimer_keeps ..).of_next h
  | nakResend => exact (Keeps.ite (fun _ => State.sendNak_keeps ..) (fun _ => Keeps.refl _)).of_next h
  | graftPortLost => exact (State.graftLost_keeps ..).of_next h
  | graftLostRetry => exact (State.lostRetry_keeps ..).of_next h
  | rdl | rdu => exact (State.lentRead_keeps ..).of_next h
  | wrl | wrp | wru => exact (State.lentWrite_keeps ..).of_next h
  | datal | datau => exact (State.peerData_keeps ..).of_next h
  | cmp => exact (State.peerCmp_keeps ..).of_next h
  | hello | identity | capability | leaseRequest | leaseGrant | leaseDeny | leaseRenew | leaseRenewed | leaseRecall | recallAck | leaseRelease |
    leaseReleased =>
    exact (State.oxnIn_keeps ..).of_next h
  | capabilityResend => exact (State.capResend_keeps ..).of_next h
  | leaseRequestTrigger => exact (State.leaseTrigger_keeps ..).of_next h
  | oxenteloTimeout => exact (State.oxnTimeout_keeps ..).of_next h
  | leaseRenewTimer => exact (State.leaseRenewal_keeps ..).of_next h
  | leaseTermExpiry => exact (State.leaseExpiry_keeps ..).of_next h
  | leaseIdleRelease => exact (State.leaseIdle_keeps ..).of_next h
  | leaseReclaim => exact (State.leaseReclaim_keeps ..).of_next h
  | backgroundComplete => exact (State.backgroundEnd_keeps ..).of_next h
  | unsupportedOpcode => exact execUnsupportedOpcode_keeps _ _ _ h
  | getIdentity => exact execGetIdentity_keeps _ _ h
  | getSettings => exact execGetSettings_keeps _ _ _ h
  | programSettings => exact execProgramSettings_keeps _ _ _ _ _ _ _ h
  | revokeFwKey => exact execRevokeFwKey_keeps _ _ _ _ h
  | setLocks => exact execSetLocks_keeps _ _ _ h
  | setHeadMode => exact execSetHeadMode_keeps _ _ _ _ h
  | createLd => exact execCreateLd_keeps _ _ _ _ _ _ h
  | deleteLd => exact execDeleteLd_keeps _ _ _ h
  | setLdManage => exact execSetLdManage_keeps _ _ _ _ h
  | disable => exact execDisable_keeps _ _ _ _ _ h
  | enable => exact execEnable_keeps _ _ _ _ h
  | setStaticCapacity => exact execSetStaticCapacity_keeps _ _ _ h
  | getPlacement => exact execGetPlacement_keeps _ _ h
  | setCurator => exact execSetCurator_keeps _ _ _ _ _ _ _ _ _ h
  | setRegionPlacement => exact execSetRegionPlacement_keeps _ _ _ _ _ _ h
  | getPageInfo => exact execGetPageInfo_keeps _ _ _ _ _ h
  | sanitizeRange => exact execSanitizeRange_keeps _ _ _ _ _ h
  | getEpochTotals => exact execGetEpochTotals_keeps _ _ h
  | setClass => exact execSetClass_keeps _ _ _ _ _ _ _ _ _ _ h
  | deleteClass => exact execDeleteClass_keeps _ _ _ h
  | setLabelMap => exact execSetLabelMap_keeps _ _ _ _ _ h
  | setLendClass => exact execSetLendClass_keeps _ _ _ h
  | getQos => exact execGetQos_keeps _ _ _ h
  | setGovernor => exact execSetGovernor_keeps _ _ _ _ _ _ h
  | getGovernor => exact execGetGovernor_keeps _ _ h
  | allocateKey => exact execAllocateKey_keeps _ _ h
  | freeKey => exact execFreeKey_keeps _ _ _ h
  | flushKey => exact execFlushKey_keeps _ _ _ h
  | createRegion => exact execCreateRegion_keeps _ _ _ _ _ _ _ _ _ _ h
  | deleteRegion => exact execDeleteRegion_keeps _ _ _ h
  | getRegion => exact execGetRegion_keeps _ _ _ h
  | getKeyStatus => exact execGetKeyStatus_keeps _ _ _ h
  | getLosses => exact execGetLosses_keeps _ _ h
  | createQueue => exact execCreateQueue_keeps _ _ _ _ h
  | deleteQueue => exact execDeleteQueue_keeps _ _ _ h
  | queueTail => exact execQueueTail_keeps _ _ _ _ h
  | getQueue => exact execGetQueue_keeps _ _ _ h
  | setPress => exact execSetPress_keeps _ _ _ _ h
  | getPress => exact execGetPress_keeps _ _ h
  | scrubRange => exact execScrubRange_keeps _ _ _ _ _ h
  | cancelScrub => exact execCancelScrub_keeps _ _ h
  | requestPpr => exact execRequestPpr_keeps _ _ _ _ _ _ _ _ _ h
  | getErrors => exact execGetErrors_keeps _ _ _ h
  | readCeLog => exact execReadCeLog_keeps _ _ _ h
  | setPatrol => exact execSetPatrol_keeps _ _ _ h
  | setGraft => exact execSetGraft_keeps _ _ _ _ _ _ _ _ _ h
  | createLendRegion => exact execCreateLendRegion_keeps _ _ _ _ _ _ h
  | deleteLendRegion => exact execDeleteLendRegion_keeps _ _ h
  | recallLease => exact execRecallLease_keeps _ _ _ h
  | setPortWidth => exact execSetPortWidth_keeps _ _ _ _ h
  | getGraft => exact execGetGraft_keeps _ _ h
  | getPower => exact execGetPower_keeps _ _ h
  | clearFeed => exact execClearFeed_keeps _ _ _ h
  | setFeedEnable => exact execSetFeedEnable_keeps _ _ _ _ _ h
  | setGthConfig => exact execSetGthConfig_keeps _ _ _ _ _ _ _ _ _ _ _ _ h
  | clearEnergy => exact execClearEnergy_keeps _ _ _ h
  | setVrefValue => exact execSetVrefValue_keeps _ _ _ h
  | setCounter => exact execSetCounter_keeps _ _ _ _ _ h
  | readGroup => exact execReadGroup_keeps _ _ _ h
  | setSampling => exact execSetSampling_keeps _ _ _ _ _ _ h
  | readSamples => exact execReadSamples_keeps _ _ _ _ h
  | setUserAccess => exact execSetUserAccess_keeps _ _ _ h
  | getFwInfo => exact execGetFwInfo_keeps _ _ h
  | fwTransfer => exact execFwTransfer_keeps _ _ _ _ _ h
  | fwCommit => exact execFwCommit_keeps _ _ h
  | getBootLog => exact execGetBootLog_keeps _ _ h
  | readReg => exact execReadReg_keeps _ _ _ h
  | writeReg => exact execWriteReg_keeps _ _ _ _ h
  | injectError => exact execInjectError_keeps _ _ _ _ h
  | getEventRecords => exact execGetEventRecords_keeps _ _ _ h
  | clearEventRecords => exact execClearEventRecords_keeps _ _ _ _ _ h
  | getEventInterruptPolicy => exact execGetEventInterruptPolicy_keeps _ _ h
  | setEventInterruptPolicy => exact execSetEventInterruptPolicy_keeps _ _ _ h
  | cxlGetFwInfo => exact execCxlGetFwInfo_keeps _ _ h
  | transferFw => exact execTransferFw_keeps _ _ _ _ h
  | activateFw => exact execActivateFw_keeps _ _ _ h
  | getTimestamp => exact execGetTimestamp_keeps _ _ h
  | setTimestamp => exact execSetTimestamp_keeps _ _ _ h
  | getSupportedLogs => exact execGetSupportedLogs_keeps _ _ h
  | getLog => exact execGetLog_keeps _ _ _ _ _ h
  | identifyMemoryDevice => exact execIdentifyMemoryDevice_keeps _ _ h
  | sanitize => exact execSanitize_keeps _ _ h
  | secureErase => exact execSecureErase_keeps _ _ h
  | getDynamicCapacityConfiguration => exact execGetDynamicCapacityConfiguration_keeps _ _ h
  | getDynamicCapacityExtentList => exact execGetDynamicCapacityExtentList_keeps _ _ h
  | addDynamicCapacityResponse => exact execAddDynamicCapacityResponse_keeps _ _ _ h
  | releaseDynamicCapacity => exact execReleaseDynamicCapacity_keeps _ _ _ h
  | fmIdentify => exact execFmIdentify_keeps _ _ h
  | getMultiHeadedInfo => exact execGetMultiHeadedInfo_keeps _ _ h
  | getHeadInfo => exact execGetHeadInfo_keeps _ _ _ _ h
  | getLdInfo => exact execGetLdInfo_keeps _ _ h
  | tunnelManagementCommand => exact execTunnelManagementCommand_keeps _ _ _ _ _ h
  | getDcdInfo => exact execGetDcdInfo_keeps _ _ h
  | getHostDcRegionConfiguration => exact execGetHostDcRegionConfiguration_keeps _ _ h
  | setDcRegionConfiguration => exact execSetDcRegionConfiguration_keeps _ _ _ _ _ _ h
  | getDcRegionExtentLists => exact execGetDcRegionExtentLists_keeps _ _ h
  | initiateDynamicCapacityAdd => exact execInitiateDynamicCapacityAdd_keeps _ _ _ _ h
  | initiateDynamicCapacityRelease => exact execInitiateDynamicCapacityRelease_keeps _ _ _ _ h
  | catalogueWalkStart => exact (State.walkStart_keeps ..).of_next h
  | catalogueWalkDone => exact (State.walkEnd_keeps ..).of_next h
  | alertNUpdate => exact (State.alertPin_keeps ..).of_next h
  | eventLdRecord => exact (State.ldRecord_keeps ..).of_next h
  | mainPwrokFall => exact (State.pwrokFall_keeps ..).of_next h
  | coldRst => exact (State.coldRst_keeps ..).of_next h
  | warmRst => exact (State.warmRst_keeps ..).of_next h
  | perstAssert => exact (State.perstOn_keeps ..).of_next h
  | perstDeassert => exact (State.perstOff_keeps ..).of_next h
  | centralDieRelease => exact (State.dieRelease_keeps ..).of_next h
  | nodeOverflowDone => exact (State.nodeOvfDone_keeps ..).of_next h
  | dramAlertNReport => exact (State.alertReport_keeps ..).of_next h
  | headLinkRetrain => exact (State.headRetrain_keeps ..).of_next h
  | ticksWrap => exact (State.ticksWrap_keeps ..).of_next h
  | warmEntryMoveDeadline => exact (State.moveDeadline_keeps ..).of_next h

/-- Taking the command at the front from the queue keeps the tables as they are. -/
theorem State.canonical_withPending {s : State} (l : List Instr) (h : s.Canonical) : ({ s with pending := l } : State).Canonical := h

/-- Settles O29: a tick and every command keep the canonical form, and taking a command from the queue does not touch the tables. -/
theorem everyStepKeepsCanonicalTables : Obligations.EveryStepKeepsCanonicalTables := by
  unfold Obligations.EveryStepKeepsCanonicalTables
  intro s t hs ht
  unfold step at ht
  cases hp : s.pending with
  | nil =>
    simp only [hp] at ht
    exact ((State.tickOn_keeps s).of_next ht).canon hs
  | cons c rest =>
    simp only [hp] at ht
    exact (exec_keeps ht).canon (State.canonical_withPending rest hs)

end Sys2Proof.Machine
end

section
/-! Register fields (R6): a field reads what was written to it, in one word or across two, and a write of it leaves other fields and words. -/
namespace Sys2Proof.Machine

/-- The word in which a field that lies in one word stands, after a write of that field. -/
theorem State.word_wr_same (s : State) (f : Reg.Fld) (x : Nat) (hf : f.lo % 32 + f.w ≤ 32) :
    (s.wr f x).word (f.off + 4 * (f.lo / 32)) = setBits (s.word (f.off + 4 * (f.lo / 32))) (f.lo % 32) f.w x := by
  simp only [State.wr, hf, ↓reduceIte, State.word_setWord_same]

/-- A field that lies in one word is read from that word. -/
theorem State.rd_in (s : State) (f : Reg.Fld) (hf : f.lo % 32 + f.w ≤ 32) :
    s.rd f = bitsOf (s.word (f.off + 4 * (f.lo / 32))) (f.lo % 32) f.w := by
  simp only [State.rd, hf, ↓reduceIte]

/-- A field reads the low bits of what was last written to it. -/
theorem State.rd_wr_same (s : State) (f : Reg.Fld) (x : Nat) (hf : f.lo % 32 + f.w ≤ 32) : (s.wr f x).rd f = x % 2 ^ f.w := by
  rw [State.rd_in _ _ hf, State.word_wr_same _ _ _ hf, bitsOf_setBits_same _ _ _ _ hf]

/-- A write of a field leaves a field of another word, or of other bits of its word, as it was. -/
theorem State.rd_wr_other (s : State) (f g : Reg.Fld) (x : Nat) (hf : f.lo % 32 + f.w ≤ 32) (hg : g.lo % 32 + g.w ≤ 32)
    (h : f.off + 4 * (f.lo / 32) ≠ g.off + 4 * (g.lo / 32) ∨ f.lo % 32 + f.w ≤ g.lo % 32 ∨ g.lo % 32 + g.w ≤ f.lo % 32) :
    (s.wr f x).rd g = s.rd g := by
  rw [State.rd_in _ _ hg, State.rd_in _ _ hg]
  by_cases hw : g.off + 4 * (g.lo / 32) = f.off + 4 * (f.lo / 32)
  · have hd := h.resolve_left (fun n => n hw.symm)
    rw [hw, State.word_wr_same _ _ _ hf, bitsOf_setBits_other _ _ _ _ _ _ hf hd]
  · rw [State.word_wr_in _ _ _ _ hf hw]

/-- A field write changes nothing but the register words. -/
theorem State.wr_eq_withRegs (s : State) (f : Reg.Fld) (x : Nat) : s.wr f x = { s with regs := (s.wr f x).regs } := by
  simp only [State.wr]
  split <;> rfl

/-- A write of a field that lies in one word changes that word alone. -/
theorem State.wr_onlyWords (s : State) (f : Reg.Fld) (x : Nat) (hf : f.lo % 32 + f.w ≤ 32) : OnlyWords s (s.wr f x) [f.off + 4 * (f.lo / 32)] :=
  ⟨State.wr_eq_withRegs s f x, fun k hk => State.word_wr_in s f x k hf (by simpa using hk)⟩

/-! ### Two-word fields -/

/-- Two words read what was stored in them. -/
theorem State.dword_setDword_same (s : State) (off : Nat) (v : BitVec 64) : (s.setDword off v).dword off = v := by
  have hlow : (s.setDword off v).word off = v.setWidth 32 := by
    rw [State.setDword, State.word_setWord_other _ _ _ _ (by omega), State.word_setWord_same]
  have hhigh : (s.setDword off v).word (off + 4) = (v >>> 32).setWidth 32 := State.word_setWord_same ..
  rw [State.dword, hlow, hhigh]
  ext i hi
  simp only [BitVec.getElem_append, BitVec.getElem_setWidth, BitVec.getLsbD_ushiftRight]
  split
  · simp [BitVec.getLsbD_eq_getElem hi]
  · rw [show 32 + (i - 32) = i by omega, BitVec.getLsbD_eq_getElem hi]

/-- A field that two words hold reads the low bits of what was last written to it. -/
theorem State.rd_wr_same_wide (s : State) (f : Reg.Fld) (x : Nat) (hn : ¬ f.lo % 32 + f.w ≤ 32) (hf : f.lo % 32 + f.w ≤ 64) : (s.wr f x).rd f = x % 2 ^ f.w := by
  simp only [State.rd, State.wr, hn, ↓reduceIte, State.dword_setDword_same, bitsOf_setBits_same _ _ _ _ hf]

/-- A field reads the same where its words are the same. -/
theorem State.rd_congr {s t : State} (f : Reg.Fld) (h : t.word (f.off + 4 * (f.lo / 32)) = s.word (f.off + 4 * (f.lo / 32)))
    (h' : t.word (f.off + 4 * (f.lo / 32) + 4) = s.word (f.off + 4 * (f.lo / 32) + 4)) : t.rd f = s.rd f := by
  simp only [State.rd, State.dword, h, h']

/-- A field of one word reads the same where that word is the same. -/
theorem State.rd_congr_in {s t : State} (f : Reg.Fld) (hf : f.lo % 32 + f.w ≤ 32) (h : t.word (f.off + 4 * (f.lo / 32)) = s.word (f.off + 4 * (f.lo / 32))) :
    t.rd f = s.rd f := by
  rw [State.rd_in _ _ hf, State.rd_in _ _ hf, h]

/-- Settles O32, by the laws of a field of one word. -/
theorem registerFieldsAreIndependent : Obligations.RegisterFieldsAreIndependent := by
  unfold Obligations.RegisterFieldsAreIndependent
  intro s f g x hf hg
  exact ⟨State.rd_wr_same s f x hf, State.rd_wr_other s f g x hf hg, State.wr_onlyWords s f x hf⟩

end Sys2Proof.Machine
end

section
/-! Accesses to BAR2 of 32 and 64 bits (R8, R9). -/
namespace Sys2Proof.Machine

/-! ### Accesses to BAR2: what a read and a write of a word do, case by case -/

/-- Below the counter pages no offset shows one. -/
theorem pageOfView_none {v : View} {off : Nat} (h : off < 0x3000000) : pageOfView v off = none := by simp [pageOfView, h]

/-- A read that is not aligned returns 0. -/
theorem State.read32_unaligned (s : State) (v : View) {off : Nat} (h : off % 4 ≠ 0) : s.read32 v off = (s, 0) := by simp [State.read32, h]

/-- A source with the full view reads the register. -/
theorem State.read32_full (s : State) {off : Nat} (h : off % 4 = 0) (hb : off < 0x3000000) : s.read32 .full off = s.regRead off := by
  simp [State.read32, h, pageOfView_none hb, View.covers]

theorem State.regRead_none (s : State) {off : Nat} (h : Reg.find off = none) : s.regRead off = (s, 0) := by simp [State.regRead, h]

theorem State.regRead_word (s : State) {off i : Nat} {d : Reg.RegDef} (h : Reg.find off = some (d, i)) (hd : d.size ≠ 8) :
    s.regRead off = (s.advanceFree, s.peek off) := by simp [State.regRead, h, hd]

/-- The low word of a 64-bit register captures the high word (R9). -/
theorem State.regRead_low (s : State) {off : Nat} {d : Reg.RegDef} (h : Reg.find off = some (d, 0)) (hd : d.size = 8) :
    s.regRead off = ({ s with free := s.free + 1, captHigh := Tbl.put s.captHigh off (s.peek (off + 4)) }, s.peek off) := by
  simp [State.regRead, h, hd, State.advanceFree]

/-- The high word is the captured one, which the read consumes (R9). -/
theorem State.regRead_high_captured (s : State) {off : Nat} {d : Reg.RegDef} {x : Word} (h : Reg.find off = some (d, 1)) (hd : d.size = 8)
    (hx : Tbl.look s.captHigh (off - 4) = some x) : s.regRead off = ({ s with captHigh := Tbl.del s.captHigh (off - 4) }, x) := by
  simp [State.regRead, h, hd, hx]

theorem State.regRead_high_free (s : State) {off : Nat} {d : Reg.RegDef} (h : Reg.find off = some (d, 1)) (hd : d.size = 8)
    (hx : Tbl.look s.captHigh (off - 4) = none) : s.regRead off = (s.advanceFree, s.peek off) := by
  simp [State.regRead, h, hd, hx]

/-- A source without a view gets no answer. -/
theorem State.get32_noView {s : State} {a : Agent} (off : Nat) (h : s.view a = .none) : s.get32 a off = s := by simp [State.get32, h]

/-- A source with a view gets the word that it reads. -/
theorem State.get32_seen {s : State} {a : Agent} {off : Nat} {r : State × Word} (h : s.view a ≠ .none) (hr : s.read32 (s.view a) off = r) :
    s.get32 a off = r.1.emit (.readData a (r.2.setWidth 64)) := by simp [State.get32, h, hr]

/-- Both reads of a word of BAR2 are the 32-bit read of the source, its access having crossed the link of its head (R63). -/
theorem exec_wordRead {a : Agent} {off : BitVec 26} {c : Instr} (s : State) (hc : c = .lowWordRead a .bar2 off 4 ∨ c = .highWordRead a off) :
    exec c s = .next ((s.crossLink a).get32 a off.toNat) := by
  rcases hc with rfl | rfl <;> rfl

/-- The part of O23 on 32-bit reads: each case of a read, told apart by the view, the alignment and the register at the offset. -/
theorem registerReadsCaptureTheHighWord : RegisterReadsCaptureTheHighWord := by
  intro a off s₀ s c hs hc
  rw [exec_wordRead s₀ hc, ← hs]
  have full (hv : s.view a = .full) {r : State × Word} (ha : off.toNat % 4 = 0) (hb : off.toNat < 0x3000000) (hr : s.regRead off.toNat = r) :
      (.next (s.get32 a off.toNat) : Host.Outcome State Fault Refusal) = .next (r.1.emit (.readData a (r.2.setWidth 64))) := by
    rw [State.get32_seen (by simp [hv]) (by rw [hv, State.read32_full s ha hb, hr])]
  refine ⟨fun hv => by rw [State.get32_noView _ hv], fun hv ha => ?_, fun hv ha hb hf => ?_, fun d i hv ha hb hf hd => ?_, fun d hv ha hb hf hd => ?_,
    fun d x hv ha hb hf hd hx => ?_, fun d hv ha hb hf hd hx => ?_⟩
  · rw [State.get32_seen hv (State.read32_unaligned s _ ha)]; rfl
  · exact full hv ha hb (State.regRead_none s hf)
  · exact full hv ha hb (State.regRead_word s hf hd)
  · exact full hv ha hb (State.regRead_low s hf hd)
  · exact full hv ha hb (State.regRead_high_captured s hf hd hx)
  · exact full hv ha hb (State.regRead_high_free s hf hd hx)

/-- A write without a full view, not aligned, or beyond the registers has no effect. -/
theorem State.write32_refused {s : State} {v : View} (p : Option Nat) {off : Nat} (w : Word) (h : v ≠ .full ∨ off % 4 ≠ 0 ∨ 0x3000000 ≤ off) :
    s.write32 v p off w = s := by
  have hn : ¬ (off % 4 = 0 ∧ v = .full ∧ off < 0x3000000) := by
    rintro ⟨ha, hv, hb⟩
    rcases h with h | h | h
    · exact h hv
    · exact h ha
    · omega
  exact if_neg hn

/-- A source with the full view writes the register. -/
theorem State.write32_full (s : State) (p : Option Nat) {off : Nat} (w : Word) (h : off % 4 = 0) (hb : off < 0x3000000) :
    s.write32 .full p off w = s.regWrite p off w := by simp [State.write32, h, hb]

theorem State.regWrite_none (s : State) (p : Option Nat) {off : Nat} (w : Word) (h : Reg.find off = none) : s.regWrite p off w = s := by
  simp [State.regWrite, h]

theorem State.regWrite_word (s : State) (p : Option Nat) {off i : Nat} {d : Reg.RegDef} (w : Word) (h : Reg.find off = some (d, i)) (hd : d.size ≠ 8) :
    s.regWrite p off w = s.regStore p d off w := by simp [State.regWrite, h, hd]

/-- The low word of a 64-bit register is held (R9). -/
theorem State.regWrite_low (s : State) (p : Option Nat) {off : Nat} {d : Reg.RegDef} (w : Word) (h : Reg.find off = some (d, 0)) (hd : d.size = 8) :
    s.regWrite p off w = { s with heldLow := Tbl.put s.heldLow off w } := by simp [State.regWrite, h, hd]

theorem State.regWrite_high_held (s : State) (p : Option Nat) {off : Nat} {d : Reg.RegDef} {lo : Word} (w : Word) (h : Reg.find off = some (d, 1)) (hd : d.size = 8)
    (hx : Tbl.look s.heldLow (off - 4) = some lo) :
    s.regWrite p off w = State.pairStore { s with heldLow := Tbl.del s.heldLow (off - 4) } d (off - 4) (w ++ lo) (BitVec.allOnes 64) := by
  simp [State.regWrite, h, hd, hx]

theorem State.regWrite_high_alone (s : State) (p : Option Nat) {off : Nat} {d : Reg.RegDef} (w : Word) (h : Reg.find off = some (d, 1)) (hd : d.size = 8)
    (hx : Tbl.look s.heldLow (off - 4) = none) : s.regWrite p off w = s.pairStore d (off - 4) (w ++ 0#32) 0xFFFFFFFF00000000#64 := by
  simp [State.regWrite, h, hd, hx]

/-- A 64-bit register other than DIR_PROBE_ADDR only stores what is written to it. -/
theorem State.pairStore_eq (s : State) (d : Reg.RegDef) {off : Nat} (v mask : BitVec 64) (h : off ≠ 0x600010) :
    s.pairStore d off v mask = s.setDword off (writeFields d (s.locked d off) s.rootN (s.dword off) v mask) := by
  simp [State.pairStore, h]

/-- Both writes of a word of a 64-bit register are the 32-bit write of the source. -/
theorem exec_wordWrite {a : Agent} {off : BitVec 26} {v : Word} {c : Instr} (s : State) (hc : c = .lowWordWrite a off v ∨ c = .highWordWrite a off v) :
    exec c s = .next ((s.crossLink a).put32 a off.toNat v) := by
  rcases hc with rfl | rfl <;> rfl

/-- The part of O23 on 32-bit writes of a 64-bit register. -/
theorem registerWritesHoldTheLowWord : RegisterWritesHoldTheLowWord := by
  intro a off v s₀ s c hs hc
  rw [exec_wordWrite s₀ hc, ← hs]
  have full (hv : s.view a = .full) (ha : off.toNat % 4 = 0) (hb : off.toNat < 0x3000000) : s.put32 a off.toNat v = s.regWrite (pairOf a) off.toNat v := by
    rw [State.put32, hv, State.write32_full s _ _ ha hb]
  refine ⟨fun h => ?_, fun d hv ha hb hf hd => ?_, fun d lo hv ha hb hn hf hd hx => ?_, fun d hv ha hb hn hf hd hx => ?_⟩
  · by_cases hw : s.view a ≠ .full ∨ off.toNat % 4 ≠ 0 ∨ 0x3000000 ≤ off.toNat
    · rw [State.put32, State.write32_refused _ _ hw]
    · obtain ⟨hv, ha, hb⟩ : s.view a = .full ∧ off.toNat % 4 = 0 ∧ off.toNat < 0x3000000 := by simpa using hw
      have hf : Reg.find off.toNat = none := by
        rcases h with h | h | h | h
        · exact absurd hv h
        · exact absurd ha h
        · omega
        · exact h
      rw [full hv ha hb, State.regWrite_none s _ _ hf]
  · rw [full hv ha hb, State.regWrite_low s _ _ hf hd]
  · rw [full hv ha hb, State.regWrite_high_held s _ _ hf hd hx, State.pairStore_eq _ _ _ _ (by omega)]
    rfl
  · rw [full hv ha hb, State.regWrite_high_alone s _ _ hf hd hx, State.pairStore_eq _ _ _ _ (by omega)]

/-- A 64-bit read of a 64-bit register is atomic, and discards its captured and its held half (R8, R9). -/
theorem State.read64_pair (s : State) {off : Nat} {d : Reg.RegDef} (ha : off % 8 = 0) (hf : Reg.find off = some (d, 0)) (hd : d.size = 8) :
    s.read64 .full off = ((s.dropHalves off).advanceFree, s.peek (off + 4) ++ s.peek off) := by
  simp [State.read64, ha, View.covers, isPair, hf, hd]

/-- A 64-bit write of a 64-bit register is atomic, and discards its captured and its held half (R8, R9). -/
theorem State.write64_pair (s : State) (p : Option Nat) {off : Nat} {d : Reg.RegDef} (w : BitVec 64) (ha : off % 8 = 0) (hf : Reg.find off = some (d, 0)) (hd : d.size = 8) :
    s.write64 .full p off w = (s.dropHalves off).pairStore d off w (BitVec.allOnes 64) := by
  simp [State.write64, ha, hf, hd]

/-- A 64-bit write of 32-bit registers is two writes, the low word first (R8). -/
theorem State.write64_words (s : State) (p : Option Nat) {off i : Nat} {d : Reg.RegDef} (w : BitVec 64) (ha : off % 8 = 0) (hf : Reg.find off = some (d, i)) (hd : d.size ≠ 8) :
    s.write64 .full p off w = (s.write32 .full p off (w.setWidth 32)).write32 .full p (off + 4) ((w >>> 32).setWidth 32) := by
  simp [State.write64, ha, hf, hd]

theorem State.write64_unaligned (s : State) (v : View) (p : Option Nat) {off : Nat} (w : BitVec 64) (ha : off % 8 ≠ 0) : s.write64 v p off w = s := by
  simp [State.write64, ha]

theorem State.read64_unaligned (s : State) (v : View) {off : Nat} (ha : off % 8 ≠ 0) : s.read64 v off = (s, 0) := by
  simp [State.read64, ha]

theorem exec_access64_write (a : Agent) (off : BitVec 26) (v : BitVec 64) (s : State) :
    exec (.access64 a true off v) s = .next ((s.crossLink a).write64 ((s.crossLink a).view a) (pairOf a) off.toNat v) := rfl

/-- A 64-bit read by a source with the full view answers with what it reads. -/
theorem exec_access64_read {a : Agent} {off : BitVec 26} {s₀ s : State} {r : State × BitVec 64} (v : BitVec 64) (hs : s = s₀.crossLink a) (hv : s.view a = .full)
    (hr : s.read64 .full off.toNat = r) : exec (.access64 a false off v) s₀ = .next (r.1.emit (.readData a r.2)) := by
  have : exec (.access64 a false off v) s₀ = .next (s.access64 a false off.toNat v) := by rw [hs]; rfl
  rw [this]
  simp [State.access64, hv, hr]

/-- The part of O23 on 64-bit accesses. -/
theorem sixtyFourBitAccessesAreAtomic : SixtyFourBitAccessesAreAtomic := by
  intro a off v s₀ s hs hv
  have write : exec (.access64 a true off v) s₀ = .next (s.write64 .full (pairOf a) off.toNat v) := by rw [exec_access64_write, ← hs, hv]
  refine ⟨fun d ha hb hf hd => ⟨?_, fun hn => ?_⟩, fun d ha hb hf hd => ?_, fun ha => ⟨?_, ?_⟩⟩
  · rw [exec_access64_read v hs hv (State.read64_pair s ha hf hd)]; rfl
  · rw [write, State.write64_pair s _ _ ha hf hd, State.pairStore_eq _ _ _ _ hn]; rfl
  · rw [write, State.write64_words s _ _ ha hf (by simp [hd])]
  · rw [write, State.write64_unaligned s _ _ _ ha]
  · rw [exec_access64_read v hs hv (State.read64_unaligned s _ ha)]

/-- Settles O23: its parts on 32-bit reads, 32-bit writes and 64-bit accesses. -/
theorem registerAccessesAre32Or64Bits : Obligations.RegisterAccessesAre32Or64Bits :=
  ⟨registerReadsCaptureTheHighWord, registerWritesHoldTheLowWord, sixtyFourBitAccessesAreAtomic⟩

end Sys2Proof.Machine
end

section
/-! A write of a register of the alert block that signals vector 6: a state in which it changes more than registers, LDs and what has left the block. -/
namespace Sys2Proof.Machine

/-! ### A write of the alert block wakes the link of a head that it signals -/

/-- A released die at tick 1 with pair 0 healthy, a cause of the TRL block set, every summary bit masked, and an LD with MANAGE of head 0 whose vector 6 is not masked. -/
def maskedAlert : State :=
  let s : State := { State.reset with tick := 1, boot := { State.reset.boot with released := true },
                                      lds := [(0, { head := 0, manage := true, st := .ioUp, msix := [(6, { mask := false })] })] }
  ((s.wrBit Reg.GLB_WDN_STATUS_HEALTHY 0 true).wr Reg.ALR_ALERT_MASK_MASK 0xFFF).wr (Reg.ALR_CAUSE_CAUSE 1) 1

/-- Pair 0 unmasks every summary bit. -/
def unmaskAlert : Instr := .registerWrite (.pair 0) .bar2 0x2300004#26 4 0

/-- The message of vector 6 crosses the link of head 0, which notes the tick of it (R62): the head is not as it was. -/
theorem unmaskAlert_heads : (nextOf (exec unmaskAlert maskedAlert) maskedAlert).heads ≠ maskedAlert.heads := by decide +kernel

/-- ALR_ALERT_MASK is the register that the access meets, with a full view. -/
theorem maskedAlert_meets : maskedAlert.view (.pair 0) = .full ∧ Reg.find 0x2300004 = some ({ base := 0x2300004, dims := [], size := 4, fields := [(Reg.f 0 12 .rw).warm, Reg.f 12 20 .rsv] }, 0) := by
  decide +kernel

/-- Refutes O24: its frame of a write of the alert block names registers, LDs and what has left the block, but the vector 6 that such a write may signal wakes the link of the LD's head, and the head notes the traffic. -/
theorem not_registerFieldsFollowTheirAccessTypes : ¬ Obligations.RegisterFieldsFollowTheirAccessTypes := by
  unfold Obligations.RegisterFieldsFollowTheirAccessTypes
  rintro ⟨hwords, -, -⟩
  obtain ⟨hview, hfind⟩ := maskedAlert_meets
  obtain ⟨-, -, halert⟩ := hwords (.pair 0) 0x2300004#26 0 maskedAlert maskedAlert _ rfl hview (by decide) (by decide) hfind rfl
  obtain ⟨t, ht, -, hframe, -⟩ := halert (by decide) (by decide) (by decide)
  have hheads : t.heads = maskedAlert.heads := by rw [hframe]
  have hnext : nextOf (exec unmaskAlert maskedAlert) maskedAlert = t := by rw [unmaskAlert, ht]; rfl
  exact unmaskAlert_heads (hnext ▸ hheads)

end Sys2Proof.Machine
end

section
/-! The tick of an idle step (R4, R360 to R362): what it counts, the commands that waited, and the metadata lines that enter the write queues. -/
namespace Sys2Proof.Machine

/-! ### Counting: what the events of a tick change -/

/-- What counting events changes: registers of the counter groups alone, and of those neither TICKS nor what tells whether a group counts. -/
structure Counted (s t : State) : Prop where
  eq : t = { s with regs := t.regs }
  word : ∀ off, off < 0x2200000 ∨ 0x2201000 ≤ off → t.word off = s.word off
  ticks : ∀ g, g < 16 → t.rd (Reg.CAT_GRP_TICKS_TICKS g) = s.rd (Reg.CAT_GRP_TICKS_TICKS g)
  on : ∀ g, g < 16 → t.groupOn g = s.groupOn g

theorem Counted.refl (s : State) : Counted s s := ⟨rfl, fun _ _ => rfl, fun _ _ => rfl, fun _ _ => rfl⟩

theorem Counted.trans {s t u : State} (h : Counted s t) (k : Counted t u) : Counted s u where
  eq := by rw [k.eq, h.eq]
  word off ho := (k.word off ho).trans (h.word off ho)
  ticks g hg := (k.ticks g hg).trans (h.ticks g hg)
  on g hg := (k.on g hg).trans (h.on g hg)

/-- A loop over a list counts when each of its rounds does. -/
theorem Counted.foldl {α : Type} {f : State → α → State} {l : List α} (s : State) (hf : ∀ t, ∀ x ∈ l, Counted t (f t x)) : Counted s (l.foldl f s) := by
  induction l generalizing s with
  | nil => exact Counted.refl s
  | cons x xs ih => exact (hf s x (by simp)).trans (ih (f s x) (fun t y hy => hf t y (List.mem_cons_of_mem x hy)))

/-- EN and FREEZE tell whether a group counts. -/
theorem State.groupOn_congr {s t : State} {g : Nat} (he : t.rd (Reg.CAT_GRP_CTL_EN g) = s.rd (Reg.CAT_GRP_CTL_EN g))
    (hf : t.rd (Reg.CAT_GRP_CTL_FREEZE g) = s.rd (Reg.CAT_GRP_CTL_FREEZE g)) : t.groupOn g = s.groupOn g := by
  simp only [State.groupOn, State.flag, he, hf]

/-- EN and FREEZE of a group stand in its control word. -/
theorem State.groupOn_congr_word {s t : State} {g : Nat} (h : t.word (0x2200000 + 0x100 * g) = s.word (0x2200000 + 0x100 * g)) : t.groupOn g = s.groupOn g :=
  State.groupOn_congr (State.rd_congr_in _ (by simp [Reg.CAT_GRP_CTL_EN]) (by simpa [Reg.CAT_GRP_CTL_EN] using h))
    (State.rd_congr_in _ (by simp [Reg.CAT_GRP_CTL_FREEZE]) (by simpa [Reg.CAT_GRP_CTL_FREEZE] using h))

/-- TICKS of a group stands in two words of its block. -/
theorem State.ticks_congr {s t : State} {g : Nat} (h : t.word (0x2200020 + 0x100 * g) = s.word (0x2200020 + 0x100 * g))
    (h' : t.word (0x2200020 + 0x100 * g + 4) = s.word (0x2200020 + 0x100 * g + 4)) : t.rd (Reg.CAT_GRP_TICKS_TICKS g) = s.rd (Reg.CAT_GRP_TICKS_TICKS g) :=
  State.rd_congr _ (by simpa [Reg.CAT_GRP_TICKS_TICKS] using h) (by simpa [Reg.CAT_GRP_TICKS_TICKS] using h')

/-- A counter of a group takes a value. -/
theorem Counted.wr_count (s : State) {g k : Nat} (hg : g < 16) (hk : k < 8) (x : Nat) : Counted s (s.wr (Reg.CAT_GRP_CNT_COUNT g k) x) := by
  have other (off : Nat) (h : off ≠ 0x2200040 + 0x100 * g + 8 * k) (h' : off ≠ 0x2200040 + 0x100 * g + 8 * k + 4) :
      (s.wr (Reg.CAT_GRP_CNT_COUNT g k) x).word off = s.word off :=
    State.word_wr_other _ _ _ _ (by simpa [Reg.CAT_GRP_CNT_COUNT] using h) (by simpa [Reg.CAT_GRP_CNT_COUNT] using h')
  exact ⟨State.wr_eq_withRegs .., fun off ho => other off (by omega) (by omega),
    fun j _ => State.ticks_congr (other _ (by omega) (by omega)) (other _ (by omega) (by omega)),
    fun j _ => State.groupOn_congr_word (other _ (by omega) (by omega))⟩

/-- A field of the word of CAT_GRP_CTL other than EN and FREEZE takes a value. -/
theorem Counted.wr_ctl (s : State) {g : Nat} (hg : g < 16) {lo w : Nat} (hlo : 2 ≤ lo) (hw : lo + w ≤ 32) (hl : lo < 32) (x : Nat) :
    Counted s (s.wr ⟨0x2200000 + 0x100 * g, lo, w⟩ x) := by
  have hin : lo % 32 + w ≤ 32 := by omega
  have other (off : Nat) (h : off ≠ 0x2200000 + 0x100 * g) : (s.wr ⟨0x2200000 + 0x100 * g, lo, w⟩ x).word off = s.word off :=
    State.word_wr_in _ _ _ _ hin (by simp only; omega)
  refine ⟨State.wr_eq_withRegs .., fun off ho => other off (by omega), fun j _ => ?_, fun j _ => State.groupOn_congr ?_ ?_⟩
  · exact State.ticks_congr (other _ (by omega)) (other _ (by omega))
  · exact State.rd_wr_other _ _ _ _ hin (by simp [Reg.CAT_GRP_CTL_EN]) (by simp only [Reg.CAT_GRP_CTL_EN]; omega)
  · exact State.rd_wr_other _ _ _ _ hin (by simp [Reg.CAT_GRP_CTL_FREEZE]) (by simp only [Reg.CAT_GRP_CTL_FREEZE]; omega)

theorem Counted.addCnt (s : State) {g k : Nat} (hg : g < 16) (hk : k < 8) (n : Nat) : Counted s (s.addCnt g k n) := by
  unfold State.addCnt
  have hcount := Counted.wr_count s hg hk (s.rd (Reg.CAT_GRP_CNT_COUNT g k) + n)
  dsimp only
  split
  · exact hcount
  · exact hcount.trans (Counted.wr_ctl _ hg (by decide) (by decide) (by decide) _)

theorem Counted.cntGroup (s : State) {g : Nat} (hg : g < 16) (ev : Nat) (sc : Scope) (n : Nat) : Counted s (s.cntGroup g ev sc n) := by
  unfold State.cntGroup
  split
  · refine Counted.foldl s fun t k hk => ?_
    split
    · exact Counted.addCnt t hg (List.mem_range.1 hk) n
    · exact Counted.refl t
  · exact Counted.refl s

/-- The groups are numbered below 16. -/
theorem State.lt_of_mem_groups {s : State} {g : Nat} (h : g ∈ s.groups) : g < 16 := List.mem_range.1 (List.mem_filter.1 h).1

theorem Counted.cnt (s : State) (ev : Nat) (sc : Scope) (n : Nat) : Counted s (s.cnt ev sc n) :=
  Counted.foldl s fun t _ hg => Counted.cntGroup t (State.lt_of_mem_groups hg) ev sc n

/-- The events that count ticks change nothing but counters. -/
theorem Counted.tickEvents (s : State) : Counted s s.tickEvents := by
  have heads (s : State) : Counted s ((List.range 16).foldl (fun (s : State) (h : Nat) => if s.withheld h then s.cnt 0x010A (.head h) else s) s) :=
    Counted.foldl s fun t h _ => by
      split
      · exact Counted.cnt ..
      · exact Counted.refl t
  have ranks (s : State) : Counted s ((List.range 16).foldl (fun (s : State) (c : Nat) =>
      (s.cnt (0x1000 + 256 * c + 10) .dev (s.ranksIn c [.powerdown])).cnt (0x1000 + 256 * c + 11) .dev (s.ranksIn c [.selfrefresh, .held])) s) :=
    Counted.foldl s fun t c _ => (Counted.cnt ..).trans (Counted.cnt ..)
  unfold State.tickEvents
  dsimp only
  split
  · exact ((heads s).trans (ranks _)).trans (Counted.cnt ..)
  · exact (heads s).trans (ranks _)

/-! ### TICKS of the groups -/

/-- TICKS of group g rises by one modulo 2^48, TICKS of no other group changes, nor a word outside the groups. -/
theorem State.addTicks_one (s : State) {g : Nat} (hg : g < 16) :
    s.addTicks g 1 = { s with regs := (s.addTicks g 1).regs }
    ∧ (∀ off, off < 0x2200000 ∨ 0x2201000 ≤ off → (s.addTicks g 1).word off = s.word off)
    ∧ (∀ j, j < 16 → (s.addTicks g 1).groupOn j = s.groupOn j)
    ∧ (s.addTicks g 1).rd (Reg.CAT_GRP_TICKS_TICKS g) = (s.rd (Reg.CAT_GRP_TICKS_TICKS g) + 1) % 2 ^ 48
    ∧ ∀ j, j < 16 → j ≠ g → (s.addTicks g 1).rd (Reg.CAT_GRP_TICKS_TICKS j) = s.rd (Reg.CAT_GRP_TICKS_TICKS j) := by
  generalize hv : s.rd (Reg.CAT_GRP_TICKS_TICKS g) + 1 = v
  have other (off : Nat) (h : off ≠ 0x2200020 + 0x100 * g) (h' : off ≠ 0x2200020 + 0x100 * g + 4) :
      (s.wr (Reg.CAT_GRP_TICKS_TICKS g) v).word off = s.word off :=
    State.word_wr_other _ _ _ _ (by simpa [Reg.CAT_GRP_TICKS_TICKS] using h) (by simpa [Reg.CAT_GRP_TICKS_TICKS] using h')
  have hval : (s.wr (Reg.CAT_GRP_TICKS_TICKS g) v).rd (Reg.CAT_GRP_TICKS_TICKS g) = v % 2 ^ 48 :=
    State.rd_wr_same_wide _ _ _ (by simp [Reg.CAT_GRP_TICKS_TICKS]) (by simp [Reg.CAT_GRP_TICKS_TICKS])
  have hon (j : Nat) : (s.wr (Reg.CAT_GRP_TICKS_TICKS g) v).groupOn j = s.groupOn j := State.groupOn_congr_word (other _ (by omega) (by omega))
  have hoth (j : Nat) (hj : j ≠ g) : (s.wr (Reg.CAT_GRP_TICKS_TICKS g) v).rd (Reg.CAT_GRP_TICKS_TICKS j) = s.rd (Reg.CAT_GRP_TICKS_TICKS j) :=
    State.ticks_congr (other _ (by omega) (by omega)) (other _ (by omega) (by omega))
  have heq := State.wr_eq_withRegs s (Reg.CAT_GRP_TICKS_TICKS g) v
  have hc : Counted (s.wr (Reg.CAT_GRP_TICKS_TICKS g) v) (s.addTicks g 1) := by
    unfold State.addTicks
    simp only [hv]
    split
    · exact Counted.refl _
    · exact Counted.wr_ctl _ hg (by decide) (by decide) (by decide) _
  refine ⟨by rw [hc.eq, heq], fun off ho => (hc.word off ho).trans (other off (by omega) (by omega)), fun j hj => (hc.on j hj).trans (hon j),
    (hc.ticks g hg).trans hval, fun j hj hne => (hc.ticks j hj).trans (hoth j hne)⟩

/-- A tick of each group of a list that counts: TICKS of the groups listed that are on and not held off rises, and of no other. -/
theorem State.foldl_addTicks (l : List Nat) (hl : l.Nodup) (h16 : ∀ g ∈ l, g < 16) (s t : State)
    (ht : t = l.foldl (fun (s : State) (g : Nat) => if s.groupOn g && !s.heldOff (128 + g) then s.addTicks g 1 else s) s) :
    t = { s with regs := t.regs } ∧ (∀ off, off < 0x2200000 ∨ 0x2201000 ≤ off → t.word off = s.word off)
    ∧ ∀ g, g < 16 → t.rd (Reg.CAT_GRP_TICKS_TICKS g) = if g ∈ l ∧ (s.groupOn g && !s.heldOff (128 + g)) = true then
        (s.rd (Reg.CAT_GRP_TICKS_TICKS g) + 1) % 2 ^ 48 else s.rd (Reg.CAT_GRP_TICKS_TICKS g) := by
  induction l generalizing s with
  | nil => subst ht; simp
  | cons a l ih =>
    obtain ⟨ha, hl⟩ := List.nodup_cons.1 hl
    have hg : a < 16 := h16 a (by simp)
    rw [List.foldl_cons] at ht
    by_cases hon : (s.groupOn a && !s.heldOff (128 + a)) = true
    · rw [if_pos hon] at ht
      obtain ⟨heq, hword, hons, htick, hothers⟩ := State.addTicks_one s hg
      obtain ⟨ieq, iword, itick⟩ := ih hl (fun g hg => h16 g (List.mem_cons_of_mem a hg)) _ ht
      have hheld (k : Nat) : (s.addTicks a 1).heldOff k = s.heldOff k := by rw [heq]; rfl
      refine ⟨by rw [ieq, heq], fun off ho => (iword off ho).trans (hword off ho), fun g h => ?_⟩
      rw [itick g h, hons g h, hheld]
      by_cases hga : g = a
      · subst hga; simp only [ha, false_and, ↓reduceIte, htick, List.mem_cons, true_or, true_and, hon]
      · simp only [hothers g h hga, List.mem_cons, hga, false_or]
    · rw [if_neg hon] at ht
      obtain ⟨ieq, iword, itick⟩ := ih hl (fun g hg => h16 g (List.mem_cons_of_mem a hg)) _ ht
      refine ⟨ieq, iword, fun g h => ?_⟩
      rw [itick g h]
      by_cases hga : g = a
      · subst hga; simp [ha, hon]
      · simp only [List.mem_cons, hga, false_or]

/-! ### The count of a tick -/

/-- What a tick adds to the counter groups: the events that count ticks, and TICKS. -/
def State.countTick (s : State) : State :=
  if s.groups = [] then s
  else s.groups.foldl (fun (s : State) (g : Nat) => if s.groupOn g && !s.heldOff (128 + g) then s.addTicks g 1 else s) s.tickEvents

/-- No group is enabled in its reset value. -/
theorem resetWord_groupCtl : ∀ g, g < 16 → bitsOf (Reg.resetWord (0x2200000 + 0x100 * g)) 0 1 = 0 := by decide +kernel

/-- A group that has never been written does not count. -/
theorem State.groupOn_of_not_mem_groups {s : State} {g : Nat} (hg : g < 16) (h : g ∉ s.groups) : s.groupOn g = false := by
  have hnone : Tbl.look s.regs (0x2200000 + 0x100 * g) = none := by
    simpa [State.groups, hg] using h
  have hword : s.word (0x2200000 + 0x100 * g) = Reg.resetWord (0x2200000 + 0x100 * g) := by simp [State.word, Tbl.lookD, hnone]
  have hen : s.rd (Reg.CAT_GRP_CTL_EN g) = 0 := by
    rw [State.rd_in _ _ (by simp [Reg.CAT_GRP_CTL_EN])]
    simpa [Reg.CAT_GRP_CTL_EN, hword] using resetWord_groupCtl g hg
  simp [State.groupOn, State.flag, hen]

/-- A tick counts in the groups alone; TICKS of a group that is on and not held off rises by one. -/
theorem State.countTick_spec (s : State) :
    s.countTick = { s with regs := s.countTick.regs }
    ∧ (∀ off, off < 0x2200000 ∨ 0x2201000 ≤ off → s.countTick.word off = s.word off)
    ∧ ∀ g, g < 16 → s.countTick.rd (Reg.CAT_GRP_TICKS_TICKS g) = if s.groupOn g = true ∧ Tbl.look s.cat.holds (128 + g) ≠ some (s.tick + 1) then
        (s.rd (Reg.CAT_GRP_TICKS_TICKS g) + 1) % 2 ^ 48 else s.rd (Reg.CAT_GRP_TICKS_TICKS g) := by
  by_cases hn : s.groups = []
  · have hoff (g : Nat) (hg : g < 16) : s.groupOn g = false := State.groupOn_of_not_mem_groups hg (by simp [hn])
    refine ⟨by simp [State.countTick, hn], by simp [State.countTick, hn], fun g hg => by simp [State.countTick, hn, hoff g hg]⟩
  · have hev := Counted.tickEvents s
    obtain ⟨heq, hword, htick⟩ := State.foldl_addTicks s.groups (List.nodup_range.filter _) (fun _ h => State.lt_of_mem_groups h) s.tickEvents s.countTick
      (by rw [State.countTick, if_neg hn])
    refine ⟨by rw [heq, hev.eq], fun off ho => (hword off ho).trans (hev.word off ho), fun g hg => ?_⟩
    have hheld : s.tickEvents.heldOff (128 + g) = (Tbl.look s.cat.holds (128 + g) == some (s.tick + 1)) := by rw [hev.eq]; rfl
    rw [htick g hg, hev.on g hg, hev.ticks g hg, hheld]
    by_cases hm : g ∈ s.groups
    · simp [hm]
    · simp [hm, State.groupOn_of_not_mem_groups hg hm]

/-! ### Metadata lines enter the write queues -/

/-- Metadata lines have entered the queues of channels: beside the channels and their registers, only lines that were due are so no longer. -/
structure Queued (w t : State) : Prop where
  eq : t = { w with dmc := t.dmc, regs := t.regs, sec := { w.sec with due := t.sec.due }, place := { w.place with accDirty := t.place.accDirty } }
  word : ∀ off, off < 0x1000000 ∨ 0x1800000 ≤ off → t.word off = w.word off
  due : ∀ e ∈ t.sec.due, e ∈ w.sec.due

theorem Queued.refl (s : State) : Queued s s := ⟨rfl, fun _ _ => rfl, fun _ h => h⟩

theorem Queued.trans {s t u : State} (h : Queued s t) (k : Queued t u) : Queued s u where
  eq := by rw [k.eq, h.eq]
  word off ho := (k.word off ho).trans (h.word off ho)
  due e he := h.due e (k.due e he)

/-- A channel changes beside its registers. -/
theorem Queued.updCh (s : State) (c : Nat) (f : Dmc → Dmc) : Queued s (s.updCh c f) := ⟨rfl, fun _ _ => rfl, fun _ h => h⟩

theorem Queued.foldl {α : Type} {f : State → α → State} {l : List α} (s : State) (hf : ∀ t, ∀ x ∈ l, Queued t (f t x)) : Queued s (l.foldl f s) := by
  induction l generalizing s with
  | nil => exact Queued.refl s
  | cons x xs ih => exact (hf s x (by simp)).trans (ih (f s x) (fun t y hy => hf t y (List.mem_cons_of_mem x hy)))

/-- A field of a channel's registers that lies in one word is written. -/
theorem Queued.wr (s : State) {f : Reg.Fld} (x : Nat) (hf : f.lo % 32 + f.w ≤ 32) (hl : 0x1000000 ≤ f.off + 4 * (f.lo / 32)) (hu : f.off + 4 * (f.lo / 32) < 0x1800000) :
    Queued s (s.wr f x) where
  eq := by rw [State.wr_eq_withRegs]
  word off ho := State.word_wr_in _ _ _ _ hf (by omega)
  due e he := by rwa [State.wr_sec] at he

/-- A rank of a channel takes a power state. -/
theorem Queued.setRank (s : State) {c : Nat} (hc : c < 16) (lr : Nat) (x : RankState) : Queued s (s.setRank c lr x) := by
  unfold State.setRank
  refine ((Queued.updCh s c _).trans (Queued.wr _ _ ?_ ?_ ?_)).trans (Queued.wr _ _ ?_ ?_ ?_) <;>
    simp only [Reg.DMC_RANK_STATE_IN_PD, Reg.DMC_RANK_STATE_IN_SR] <;> omega

theorem Queued.allOwed (s : State) (c lr : Nat) (f : Int → Int) : Queued s (s.allOwed c lr f) :=
  Queued.foldl s fun t _ _ => Queued.foldl t fun u _ _ => Queued.updCh u c _

theorem Queued.wakeRank (s : State) {c : Nat} (hc : c < 16) (lr : Nat) : Queued s (s.wakeRank c lr) := by
  unfold State.wakeRank
  split
  · exact Queued.refl s
  · exact Queued.refl s
  · exact (Queued.setRank s hc lr _).trans (Queued.updCh ..)
  · exact ((Queued.setRank s hc lr _).trans (Queued.updCh ..)).trans (Queued.allOwed ..)

theorem Queued.enqueueMeta (s : State) {c : Nat} (hc : c < 16) (l : Nat) (k : MetaKind) (n : Nat) : Queued s (s.enqueueMeta c l k n) := by
  unfold State.enqueueMeta
  split
  · exact Queued.refl s
  · exact (Queued.updCh ..).trans (Queued.wakeRank _ hc _)

theorem Queued.metaTaken (s : State) (k : MetaKind) (n : Nat) : Queued s (s.metaTaken k n) :=
  ⟨rfl, fun _ _ => rfl, fun _ he => (List.mem_filter.1 he).1⟩

theorem Queued.takeMeta (s : State) {c : Nat} (hc : c < 16) : Queued s (s.takeMeta c) := by
  unfold State.takeMeta
  split
  · exact Queued.refl s
  · split
    · exact Queued.refl s
    · exact (Queued.enqueueMeta s hc _ _ _).trans (Queued.metaTaken ..)

/-- Every channel takes a metadata line that is due, where it has room. -/
theorem Queued.takeMetas (s : State) : Queued s ((List.range 16).foldl State.takeMeta s) :=
  Queued.foldl s fun t _ hc => Queued.takeMeta t (List.mem_range.1 hc)

/-! ### The tick -/

/-- A tick of a released die: it counts, the commands that waited run, and metadata lines enter the queues. -/
theorem State.tickOn_released {s : State} (h : s.boot.released = true) :
    s.tickOn = (List.range 16).foldl State.takeMeta (State.takeHeld { s.countTick with tick := s.countTick.tick + 1 }) := by
  simp only [State.tickOn, State.countTick, h, Bool.not_true, Bool.false_eq_true, ↓reduceIte]

/-- In reset no clock runs. -/
theorem State.tickOn_inReset {s : State} (h : s.boot.released = false) : s.tickOn = s := by simp [State.tickOn, h]

/-- Commands wait on while none does, or one is in progress. -/
theorem State.takeHeld_idle {s : State} (h : s.mgmt.held = [] ∨ s.widthWaits = true) : s.takeHeld = s := by
  rcases h with h | h <;> simp [State.takeHeld, h]

/-- With none in progress the commands that waited run in their order. -/
theorem State.takeHeld_runs {s : State} (h : s.mgmt.held ≠ []) (hw : s.widthWaits = false) :
    s.takeHeld = s.mgmt.held.foldl State.runHeld { s with mgmt := { s.mgmt with held := [] } } := by
  simp [State.takeHeld, h, hw]

/-- A step with no command waiting is a tick. -/
theorem step_idle {s : State} (h : s.pending = []) : step s = .next s.tickOn := by simp [step, h]

/-- A DISABLE that waited runs as the command that it is: its operands are the bytes of the packet. -/
theorem State.runHeld_disable (h : Hdr) (a b c : BitVec 8) (s : State) : s.runHeld { h := h, op := 0xC009, args := [a, b, c] } = nextOf (exec (.disable h a b c) s) s := by
  have hx : runYcs 0xC009 h [a, b, c] s = execDisable h (par (fieldsOf [1, 1, 1] [a, b, c]) 0) (par (fieldsOf [1, 1, 1] [a, b, c]) 1) (par (fieldsOf [1, 1, 1] [a, b, c]) 2) s := rfl
  have hp : fieldsOf [1, 1, 1] [a, b, c] = [a.toNat, b.toNat, c.toNat] := by simp [fieldsOf, ofBytes]
  have hc : exec (.disable h a b c) s = execDisable h a b c s := rfl
  simp [State.runHeld, State.runOpcode, hx, hp, par, hc]

/-- Settles O27: the state after counting, the state after the commands that waited, and the state after the metadata lines are the three of the statement. -/
theorem idleStepTakesATick : Obligations.IdleStepTakesATick := by
  unfold Obligations.IdleStepTakesATick
  refine ⟨fun s hp => ⟨fun hr => by rw [step_idle hp, State.tickOn_inReset hr], fun hr => ?_⟩, State.runHeld_disable⟩
  obtain ⟨ceq, cword, ctick⟩ := State.countTick_spec s
  generalize hu : ({ s.countTick with tick := s.countTick.tick + 1 } : State) = u
  have ueq : u = { s with tick := s.tick + 1, regs := u.regs } := by rw [← hu, ceq]
  have uword (off : Nat) : u.word off = s.countTick.word off := by rw [← hu]; rfl
  have utick (f : Reg.Fld) : u.rd f = s.countTick.rd f := State.rd_congr f (uword _) (uword _)
  have uheld : u.mgmt.held = s.mgmt.held := by rw [ueq]
  have uwaits : u.widthWaits = s.widthWaits := by rw [ueq]; rfl
  have hq := Queued.takeMetas u.takeHeld
  refine ⟨_, u, u.takeHeld, by rw [step_idle hp, State.tickOn_released hr, hu], ueq, fun off ho => (uword off).trans (cword off ho),
    fun g hg => (utick _).trans (ctick g hg), fun h => State.takeHeld_idle (by rwa [uheld, uwaits]), fun h hw => ?_, ?_, fun off ho _ => hq.word off ho, fun g hg => ?_, hq.due⟩
  · rw [State.takeHeld_runs (by rwa [uheld]) (by rwa [uwaits]), uheld]
  · rw [hq.eq]
  · exact State.ticks_congr (hq.word _ (by omega)) (hq.word _ (by omega))

end Sys2Proof.Machine
end

section
/-! Commands of the interpreter: from the checks and the effect of a command's meaning to the checks and the effect of a statement (`Runs`). -/
namespace Sys2Proof.Machine

/-! ### Commands of the interpreter: from a packet that is ready to what the command does -/

/-- What the interpreter knows of an opcode is what the packet that asks for it says. -/
structure CmdOp.Of (o : CmdOp) (p : Packet) : Prop where
  code : o.code = p.code
  cls : o.cls = p.cls
  ycs : o.ycs = p.ycs
  rom : o.rom = p.rom
  namesLd : o.namesLd = p.namesLd

/-- A check of a command as a row of a statement. -/
def Chk.row (k : Chk) : Bool × Nat × Nat × Nat := (k.bad, k.rc, k.at', k.val)

/-- The checks that the interpreter makes ahead of a command's own: the one background command of its source, and objects in change (R346). -/
def CmdOp.before (o : CmdOp) (s : State) (h : Hdr) : Checks := [(o.bg && (s.bgOf h.src).isSome, rcBusy, 0, 0), (o.busy, 0x8003, 0, 0)]

theorem State.recorded_eq_earlier (s : State) {o : CmdOp} {p : Packet} (ho : o.Of p) : s.recorded p.h o = s.earlier p := by
  simp only [State.recorded, State.earlier, ho.code, ho.ycs]
  by_cases hy : p.ycs = true
  · by_cases hr : p.h.reqId = 0#16
    · simp [hy, hr]
    · simp [hy, hr]
  · simp [hy]

/-- The reply of the interpreter to a packet. -/
theorem State.answer_eq_replied (s : State) {o : CmdOp} {p : Packet} (ho : o.Of p) (rc d v : Nat) (body : List Byte) : s.answer p.h o rc d v body = s.replied p rc d v body := by
  simp only [State.answer, State.replied, Packet.id, ho.code, ho.ycs]

/-- A packet that is ready meets the checks ahead of the command's own, and then those. -/
theorem State.command_isReady {s : State} {o : CmdOp} {p : Packet} {args : List Byte} {a : Ans} (ho : o.Of p) (hp : s.isReady p) :
    s.command args p.h o a = match (o.before s p.h).find? (fun k => k.1) with
      | some k => s.replied p k.2.1 k.2.2.1 k.2.2.2 []
      | none => s.conclude p.h o a := by
  obtain ⟨⟨⟨hhear, hfree, hpair, -⟩, hadm, hrom⟩, hrec, hlen, hhdr⟩ := hp
  rw [State.command_ready hhear hfree hpair (by rwa [ho.cls]) (by rwa [ho.rom]) (by rwa [State.recorded_eq_earlier s ho]) hlen (by rwa [ho.ycs, ho.namesLd])]
  simp only [CmdOp.before, State.answer_eq_replied s ho]
  cases hb : (o.bg && (s.bgOf p.h.src).isSome)
  · cases hy : o.busy <;> simp
  · simp

/-- The first bad check of a list refuses the command. -/
theorem Ans.after_rows (l : List Chk) (a : Ans) :
    Ans.after l a = match (l.map Chk.row).find? (fun k => k.1) with | some k => .fail k.2.1 k.2.2.1 k.2.2.2 | none => a := by
  rw [Ans.after_eq, List.find?_map]
  have : ((fun k : Bool × Nat × Nat × Nat => k.1) ∘ Chk.row) = (fun c : Chk => c.bad) := rfl
  rw [this]
  cases l.find? (fun c => c.bad) <;> rfl

/-- What a command does that is its own checks and then an effect: the checks ahead of them and its own are the statement's, and the effect concludes. -/
theorem runs_command {c : Instr} {s : State} {p : Packet} {o : CmdOp} {args : List Byte} {own : List Chk} {a : Ans} {checks : Checks} {good : Packet → State}
    (hc : packetOf c = some p) (hx : exec c s = .next (s.command args p.h o (Ans.after own a))) (ho : o.Of p)
    (hchecks : (o.before s p.h ++ own.map Chk.row).find? (fun k => k.1) = checks.find? (fun k => k.1))
    (hgood : (∀ k ∈ checks, k.1 = false) → s.conclude p.h o a = good p) : Runs c s checks good := by
  unfold Runs
  rw [hc]
  intro hp
  have hrun : exec c s = .next (match checks.find? (fun k => k.1) with
      | some k => s.replied p k.2.1 k.2.2.1 k.2.2.2 []
      | none => s.conclude p.h o a) := by
    rw [hx, State.command_isReady ho hp, Ans.after_rows, ← hchecks, List.find?_append]
    cases (o.before s p.h).find? (fun k => k.1) with
    | some k => rfl
    | none =>
      cases (own.map Chk.row).find? (fun k => k.1) with
      | some k => simp [State.conclude, State.answer_eq_replied s ho]
      | none => rfl
  refine ⟨fun hall => ?_, fun k hk => by rw [hrun, hk]⟩
  have hnone : checks.find? (fun k => k.1) = none := List.find?_eq_none.2 fun k hk => by simp [hall k hk]
  rw [hrun, hnone, hgood hall]

/-- A command whose objects a background command may be changing, and that is none itself: that check comes first, and then its own. -/
theorem runs_busy {c : Instr} {s : State} {p : Packet} {o : CmdOp} {args : List Byte} {own : List Chk} {a : Ans} {checks : Checks} {good : Packet → State}
    (hc : packetOf c = some p) (hx : exec c s = .next (s.command args p.h o (Ans.after own a))) (ho : o.Of p) (hb : o.bg = false)
    (hchecks : (o.busy, 0x8003, 0, 0) :: own.map Chk.row = checks) (hgood : (∀ k ∈ checks, k.1 = false) → s.conclude p.h o a = good p) : Runs c s checks good :=
  runs_command hc hx ho (by simp only [CmdOp.before, hb, Bool.false_and, List.cons_append, List.nil_append, hchecks, List.find?_cons_of_neg, Bool.false_eq_true, not_false_eq_true]) hgood

/-- A command that changes no object of a background command, and that is none itself, makes its own checks alone. -/
theorem runs_plain {c : Instr} {s : State} {p : Packet} {o : CmdOp} {args : List Byte} {own : List Chk} {a : Ans} {checks : Checks} {good : Packet → State}
    (hc : packetOf c = some p) (hx : exec c s = .next (s.command args p.h o (Ans.after own a))) (ho : o.Of p) (hb : o.bg = false) (hy : o.busy = false)
    (hchecks : own.map Chk.row = checks) (hgood : (∀ k ∈ checks, k.1 = false) → s.conclude p.h o a = good p) : Runs c s checks good :=
  runs_command hc hx ho (by simp [CmdOp.before, hb, hy, hchecks]) hgood

/-- A command that changed state concludes with its record and its reply (R345). -/
theorem State.conclude_committed (s t : State) {o : CmdOp} {p : Packet} (ho : o.Of p) (hch : o.changes = true) (body : List Byte) :
    s.conclude p.h o (.done t 0 body) = t.committed p body := by
  simp only [State.conclude, State.committed, State.answer_eq_replied _ ho, hch, Bool.true_and, ho.ycs, ho.code]

/-- A command that changed no state concludes with its reply. -/
theorem State.conclude_replied (s t : State) {o : CmdOp} {p : Packet} (ho : o.Of p) (hch : o.changes = false) (rc : Nat) (body : List Byte) :
    s.conclude p.h o (.done t rc body) = t.replied p rc 0 0 body := by
  simp [State.conclude, State.answer_eq_replied _ ho, hch]

/-- A refusal is one more check, that is always bad. -/
theorem Ans.after_fail (own : List Chk) (rc d v : Nat) (a : Ans) : Ans.after own (.fail rc d v) = Ans.after (own ++ [{ bad := true, rc := rc, at' := d, val := v }]) a := by
  rw [Ans.after_eq, Ans.after_eq, List.find?_append]
  cases own.find? (fun c => c.bad) <;> rfl

end Sys2Proof.Machine
end

section
/-! READ_REG, WRITE_REG and INJECT_ERROR (R7, R10, R249, R251). -/
namespace Sys2Proof.Machine

/-- READ_REG (R10) replies with what a read of BAR2 by a source with the full view finds. -/
theorem runs_readReg (h : Hdr) (off : BitVec 32) (s : State) : Runs (.readReg h off) s []
    (fun p => (s.read32 .full off.toNat).1.replied p 0 0 0 (leBytes 4 (s.read32 .full off.toNat).2.toNat)) :=
  have ho : CmdOp.Of { code := 0xC910, cls := .f } { h := h, code := 0xC910, cls := .f } := ⟨rfl, rfl, rfl, rfl, rfl⟩
  runs_plain (own := []) rfl rfl ho rfl rfl rfl fun _ => State.conclude_replied _ _ ho rfl _ _

/-- WRITE_REG (R7) commits the write of BAR2 by a source with the full view. -/
theorem runs_writeReg (h : Hdr) (off v : BitVec 32) (s : State) : Runs (.writeReg h off v) s [] (fun p => (s.write32 .full none off.toNat v).committed p []) :=
  have ho : CmdOp.Of { code := 0xC911, cls := .f, changes := true } { h := h, code := 0xC911, cls := .f } := ⟨rfl, rfl, rfl, rfl, rfl⟩
  runs_plain (own := []) rfl rfl ho rfl rfl rfl fun _ => State.conclude_committed _ _ ho rfl _

/-- A line of a HOT page has its place in a channel. -/
theorem State.hotLine_hot {s : State} {dpa c f : Nat} {n : Option Nat} (h : (s.acc (dpa / 4096)).form = .hot c f n) : s.hotLine dpa = some (c, f * 64 + dpa / 64 % 64) := by
  simp [State.hotLine, h]

/-- A line of any other page has none. -/
theorem State.hotLine_none {s : State} {dpa : Nat} (h : ∀ c f n, (s.acc (dpa / 4096)).form ≠ .hot c f n) : s.hotLine dpa = none := by
  unfold State.hotLine
  split
  · exact absurd ‹_› (h _ _ _)
  · rfl

/-- What INJECT_ERROR does to a line: poison stored, or an error for the reads to come. -/
theorem State.inject_eq (s : State) (kind : BitVec 8) (dpa c l : Nat) : s.inject kind.toNat dpa c l =
    if kind = 3#8 then s.poisonLine (dpa / 64) else s.updCh c (fun d => { d with inject := d.inject ++ [⟨l, kind.toNat, kind.toNat, dpa / 4096⟩] }) := by
  have hk : kind.toNat = 3 ↔ kind = 3#8 := by rw [← BitVec.toNat_inj]; rfl
  simp only [State.inject, hk]

/-- The arm of INJECT_ERROR. -/
theorem exec_injectError (h : Hdr) (kind : BitVec 8) (dpa : BitVec 64) (s : State) : exec (.injectError h kind dpa) s = execInjectError h kind dpa s := rfl

/-- The checks that INJECT_ERROR makes of any page: the settings allow it, its kind, and the line lies in the host's capacity. -/
def injectChecks (s : State) (kind : BitVec 8) (dpa : BitVec 64) : List Chk :=
  [{ bad := !(setField s.boot.settings 9 1).testBit 1, rc := 0x8013 }, { bad := decide (kind.toNat < 1 ∨ 3 < kind.toNat), rc := rcInput, at' := 1 },
    { bad := decide (s.boot.h * 2 ^ 28 ≤ dpa.toNat), rc := rcInput, at' := 2 }]

/-- Settles O18: the two register commands, and INJECT_ERROR by whether the page is HOT; that it is not is one more check, which refuses. -/
theorem registerAndInjectionCommands : Obligations.RegisterAndInjectionCommands := by
  have ho (h : Hdr) : CmdOp.Of { code := 0xC920, cls := .f, changes := true } { h := h, code := 0xC920, cls := .f } := ⟨rfl, rfl, rfl, rfl, rfl⟩
  refine ⟨runs_readReg, runs_writeReg, fun h kind dpa s c f n hot => ?_, fun h kind dpa s cold => ?_⟩
  · refine runs_plain (own := injectChecks s kind dpa) rfl (by rw [exec_injectError, execInjectError, State.hotLine_hot hot]; rfl) (ho h) rfl rfl rfl fun _ => ?_
    rw [State.conclude_committed _ _ (ho h) rfl, State.inject_eq]
  · have hx : exec (.injectError h kind dpa) s = .next (s.command (leBytes 1 kind.toNat ++ leBytes 8 dpa.toNat) h { code := 0xC920, cls := .f, changes := true }
        (Ans.after (injectChecks s kind dpa ++ [{ bad := true, rc := 0x8005, at' := 2 }]) (.later s))) := by
      rw [exec_injectError, execInjectError, State.hotLine_none cold, ← Ans.after_fail]
      rfl
    exact runs_plain rfl hx (ho h) rfl rfl rfl fun hgood => absurd (hgood (true, 0x8005, 2, 0) (by simp)) (by simp)

end Sys2Proof.Machine
end

section
/-! Locks, heads and logical devices: the C0 commands that change them (R7, R41, R42, R44). -/
namespace Sys2Proof

/-- Changing a listed value changes what its key reads as, and no other. -/
theorem Tbl.look_modify {α : Type} (t : Tbl α) (k : Nat) (f : α → α) (j : Nat) :
    Tbl.look (Tbl.modify t k f) j = (Tbl.look t j).map (fun x => if j = k then f x else x) := by
  induction t with
  | nil => rfl
  | cons p r ih =>
    obtain ⟨i, w⟩ := p
    by_cases hik : i = k
    · subst hik
      by_cases hij : i = j
      · simp [Tbl.modify, Tbl.look, hij]
      · cases hr : Tbl.look r j <;> simp [Tbl.modify, Tbl.look, hij, Ne.symm hij, hr]
    · by_cases hij : i = j
      · subst hij; simp [Tbl.modify, Tbl.look, hik]
      · simp [Tbl.modify, Tbl.look, hik, hij, ih]

end Sys2Proof

namespace Sys2Proof.Machine

/-! ### Locks -/

theorem State.word_congr_regs {s t : State} (h : t.regs = s.regs) (off : Nat) : t.word off = s.word off := by simp only [State.word, h]

/-- A flag is read from the registers alone. -/
theorem State.flag_congr_regs {s t : State} (h : t.regs = s.regs) (f : Reg.Fld) : t.flag f = s.flag f := by
  simp only [State.flag, State.rd_congr f (State.word_congr_regs h _) (State.word_congr_regs h _)]

/-- A one-bit field reads the truth value that it was set to. -/
theorem State.flag_setFlag_same (s : State) (f : Reg.Fld) (b : Bool) (hf : f.lo % 32 + f.w ≤ 32) (hw : f.w = 1) : (s.setFlag f b).flag f = b := by
  rw [State.flag, State.setFlag, State.rd_wr_same _ _ _ hf, hw]
  cases b <;> rfl

/-- Setting a one-bit field leaves a field of another word. -/
theorem State.flag_setFlag_other (s : State) (f g : Reg.Fld) (b : Bool) (hf : f.lo % 32 + f.w ≤ 32) (hg : g.lo % 32 + g.w ≤ 32)
    (h : f.off + 4 * (f.lo / 32) ≠ g.off + 4 * (g.lo / 32)) : (s.setFlag f b).flag g = s.flag g := by
  simp only [State.flag, State.setFlag, State.rd_wr_other s f g _ hf hg (.inl h)]

/-- Sets the flags that the bits of a mask name. -/
def State.setNamed (s : State) (m : BitVec 16) (l : List (Nat × Reg.Fld)) : State :=
  l.foldl (fun (s : State) (e : Nat × Reg.Fld) => if m.getLsbD e.1 then s.setFlag e.2 true else s) s

theorem State.setNamed_cons (s : State) (m : BitVec 16) (e : Nat × Reg.Fld) (l : List (Nat × Reg.Fld)) :
    s.setNamed m (e :: l) = (if m.getLsbD e.1 then s.setFlag e.2 true else s).setNamed m l := rfl

/-- Setting flags changes registers alone. -/
theorem State.setNamed_eq (s : State) (m : BitVec 16) (l : List (Nat × Reg.Fld)) : s.setNamed m l = { s with regs := (s.setNamed m l).regs } := by
  induction l generalizing s with
  | nil => rfl
  | cons e l ih =>
    rw [State.setNamed_cons, ih]
    split
    · simp only [State.setFlag]; rw [State.wr_eq_withRegs]
    · rfl

/-- A flag in a word of none of those named stays. -/
theorem State.flag_setNamed_other (s : State) (m : BitVec 16) (g : Reg.Fld) (hg : g.lo % 32 + g.w ≤ 32) (l : List (Nat × Reg.Fld))
    (hl : ∀ e ∈ l, e.2.lo % 32 + e.2.w ≤ 32 ∧ e.2.off + 4 * (e.2.lo / 32) ≠ g.off + 4 * (g.lo / 32)) : (s.setNamed m l).flag g = s.flag g := by
  induction l generalizing s with
  | nil => rfl
  | cons e l ih =>
    obtain ⟨⟨hin, hne⟩, hl⟩ := List.forall_mem_cons.1 hl
    rw [State.setNamed_cons, ih _ hl]
    split
    · exact State.flag_setFlag_other _ _ _ _ hin hg hne
    · rfl

/-- Each flag named is set, and each other one of the list is as it was. -/
theorem State.flag_setNamed (s : State) (m : BitVec 16) (l : List (Nat × Reg.Fld)) (hin : ∀ e ∈ l, e.2.lo % 32 + e.2.w ≤ 32 ∧ e.2.w = 1)
    (hne : l.Pairwise (fun a b => b.2.off + 4 * (b.2.lo / 32) ≠ a.2.off + 4 * (a.2.lo / 32))) {e : Nat × Reg.Fld} (he : e ∈ l) :
    (s.setNamed m l).flag e.2 = (m.getLsbD e.1 || s.flag e.2) := by
  induction l generalizing s with
  | nil => simp at he
  | cons a l ih =>
    obtain ⟨⟨ha, haw⟩, hrestin⟩ := List.forall_mem_cons.1 hin
    obtain ⟨hfirst, hrest⟩ := List.pairwise_cons.1 hne
    rw [State.setNamed_cons]
    rcases List.mem_cons.1 he with rfl | he
    · rw [State.flag_setNamed_other _ _ _ ha l fun b hb => ⟨(hrestin b hb).1, hfirst b hb⟩]
      split
      · simp [State.flag_setFlag_same _ _ _ ha haw, *]
      · simp [*]
    · rw [ih _ hrestin hrest he]
      split
      · rw [State.flag_setFlag_other _ _ _ _ ha (hrestin e he).1 (hfirst e he).symm]
      · rfl

/-- The lock bits outside the Gatehouse, by their bits in MASK. -/
def dieLocks : List (Nat × Reg.Fld) :=
  [(0, Reg.GLB_CLK_CFG_CFG_LOCK), (1, Reg.GLB_PORT_CFG_CFG_LOCK), (2, Reg.CUR_CAP_CFG_CFG_LOCK), (3, Reg.SEC_CFG_CFG_LOCK), (4, Reg.GFT_CFG_CFG_LOCK)]

/-- A write forwarded to the Gatehouse changes what waits for its link alone. -/
theorem State.gthForward_eq (s : State) (off : Nat) (v : Word) : s.gthForward off v = { s with gth := (s.gthForward off v).gth } := by
  unfold State.gthForward
  split <;> rfl

/-- SET_LOCKS sets the locks of the die, and forwards those of the Gatehouse. -/
theorem State.setLocks_eq (s : State) (m : BitVec 16) : s.setLocks m = { s.setNamed m dieLocks with gth := (s.setLocks m).gth } := by
  have hfwd (t : State) (c : Bool) (off : Nat) (v : Word) : (if c then t.gthForward off v else t) = { t with gth := (if c then t.gthForward off v else t).gth } := by
    cases c
    · rfl
    · exact State.gthForward_eq t off v
  have hlocks : s.setLocks m =
      (let t := s.setNamed m dieLocks
       let u := if m.getLsbD 5 then t.gthForward 0x2100000 (t.gthLatest 0x2100000 ||| 0x80000000#32) else t
       if m.getLsbD 6 then u.gthForward 0x2100100 (u.gthLatest 0x2100100 ||| 0x80000000#32) else u) := rfl
  generalize hr : s.setLocks m = r
  rw [hr] at hlocks
  dsimp only at hlocks
  rw [hfwd, hfwd] at hlocks
  rw [hlocks]

theorem runs_setLocks (h : Hdr) (mask : BitVec 16) (s : State) :
    Runs (.setLocks h mask) s [(decide (128 ≤ mask.toNat), 2, 1, 0)] (fun p => (s.setLocks mask).committed p []) :=
  have ho : CmdOp.Of { code := 0xC004, cls := .f, changes := true } { h := h, code := 0xC004, cls := .f } := ⟨rfl, rfl, rfl, rfl, rfl⟩
  runs_plain (own := [{ bad := decide (128 ≤ mask.toNat), rc := rcInput, at' := 1 }]) rfl rfl ho rfl rfl rfl fun _ => State.conclude_committed _ _ ho rfl _

/-! ### Heads and logical devices -/

/-- Changing an LD changes that one alone. -/
theorem State.ld?_updLd (s : State) (i : Nat) (f : Ld → Ld) (j : Nat) : (s.updLd i f).ld? j = (s.ld? j).map (fun d => if j = i then f d else d) :=
  Tbl.look_modify s.lds i f j

/-- The LDs of a list get LD-ID 0. -/
def State.zeroIds (s : State) (l : List Nat) : State := l.foldl (fun (s : State) (i : Nat) => s.updLd i (fun (d : Ld) => { d with ldId := 0 })) s

theorem State.zeroIds_eq (s : State) (l : List Nat) : s.zeroIds l = { s with lds := (s.zeroIds l).lds } := by
  induction l generalizing s with
  | nil => rfl
  | cons i l ih => rw [State.zeroIds, List.foldl_cons, ← State.zeroIds, ih]; rfl

theorem State.ld?_zeroIds (s : State) (l : List Nat) (j : Nat) : (s.zeroIds l).ld? j = (s.ld? j).map (fun d => if j ∈ l then { d with ldId := 0 } else d) := by
  induction l generalizing s with
  | nil => simp [State.zeroIds]
  | cons i l ih =>
    rw [State.zeroIds, List.foldl_cons, ← State.zeroIds, ih, State.ld?_updLd, Option.map_map]
    congr 1
    funext d
    by_cases hi : j = i <;> by_cases hl : j ∈ l <;> simp [hi, hl]

/-- The mode of a head is a bit of its own. -/
theorem getLsbD_setBits_bit {n : Nat} (v : BitVec n) (i k : Nat) (b : Bool) :
    (setBits v i 1 (if b then 1 else 0)).getLsbD k = if k = i ∧ k < n then b else v.getLsbD k := by
  by_cases hn : i + 1 ≤ n
  · rw [getLsbD_setBits _ _ _ _ _ hn]
    by_cases hk : k = i
    · have hin : i ≤ k ∧ k < i + 1 := by omega
      have hlt : k = i ∧ k < n := by omega
      rw [if_pos hin, if_pos hlt, hk, Nat.sub_self]
      cases b <;> rfl
    · have hout : ¬ (i ≤ k ∧ k < i + 1) := by omega
      have hne : ¬ (k = i ∧ k < n) := by omega
      rw [if_neg hout, if_neg hne]
  · have hz (x : BitVec n) : x <<< i = 0#n := BitVec.shiftLeft_eq_zero (by omega)
    have hk : ¬ (k = i ∧ k < n) := by omega
    simp only [setBits, hz, if_neg hk, BitVec.not_zero, BitVec.and_allOnes, BitVec.and_zero, BitVec.or_zero]

/-- SET_HEAD_MODE sets the mode, and to SLD mode zeroes the LD-IDs of the head's LDs. -/
theorem State.setMode_eq (s : State) (hd : Nat) (mld : Bool) : s.setMode hd mld =
    { s.zeroIds (if mld then [] else s.ldsOf hd) with mgmt := { s.mgmt with mld := setBits s.mgmt.mld hd 1 (if mld then 1 else 0) } } := by
  cases mld
  · simp only [State.setMode, Bool.false_eq_true, ↓reduceIte]
    generalize hm : ({ s.mgmt with mld := setBits s.mgmt.mld hd 1 0 } : Mgmt) = m
    have hcomm (l : List Nat) (s : State) : ({ s with mgmt := m } : State).zeroIds l = { s.zeroIds l with mgmt := m } := by
      induction l generalizing s with
      | nil => rfl
      | cons i l ih => exact ih (s.updLd i _)
    exact hcomm _ s
  · rfl

theorem runs_setHeadMode (h : Hdr) (head mode : BitVec 8) (s : State) : Runs (.setHeadMode h head mode) s
    [((s.ldsOf head.toNat).any s.ldInChange, 0x8003, 0, 0), (decide (15 < head.toNat) || !s.headExists head.toNat, 2, 1, 0), (decide (1 < mode.toNat), 2, 2, 0), (s.linkUp head.toNat, 0x8005, 1, 0),
      (decide (mode = 0#8 ∧ 1 < (s.ldsOf head.toNat).length), 0x8005, 2, 0)] (fun p => (s.setMode head.toNat (mode == 1#8)).committed p []) :=
  have ho : CmdOp.Of { code := 0xC005, cls := .f, changes := true, busy := (s.ldsOf head.toNat).any s.ldInChange } { h := h, code := 0xC005, cls := .f } := ⟨rfl, rfl, rfl, rfl, rfl⟩
  runs_busy rfl rfl ho rfl rfl fun _ => State.conclude_committed _ _ ho rfl _

theorem runs_createLd (h : Hdr) (head ldId ix manage : BitVec 8) (s : State) : Runs (.createLd h head ldId ix manage) s
    [(decide (15 < head.toNat) || !s.headExists head.toNat, 2, 1, 0), (decide (15 < ldId.toNat), 2, 2, 0), (decide (63 < ix.toNat), 2, 3, 0),
      (decide (1 < manage.toNat), 2, 4, 0), (decide (64 ≤ s.lds.length) || (s.ld? ix.toNat).isSome, 0x8004, 3, 0),
      ((s.ldsOf head.toNat).any (fun i => !s.isMld head.toNat || (s.ld? i).any (fun d => d.ldId == (if s.isMld head.toNat then ldId.toNat else 0))), 0x8005, 2, 0)]
    (fun p => ({ s with lds := Tbl.put s.lds ix.toNat ({ head := head.toNat, ldId := if s.isMld head.toNat then ldId.toNat else 0, manage := manage == 1#8 } : Ld) } : State).committed p []) :=
  have ho : CmdOp.Of { code := 0xC006, cls := .f, changes := true } { h := h, code := 0xC006, cls := .f } := ⟨rfl, rfl, rfl, rfl, rfl⟩
  runs_plain rfl rfl ho rfl rfl rfl fun _ => State.conclude_committed _ _ ho rfl _

theorem runs_deleteLd (h : Hdr) (ix : BitVec 8) (s : State) : Runs (.deleteLd h ix) s
    [(s.ldInChange ix.toNat, 0x8003, 0, 0), (decide (63 < ix.toNat), 2, 1, 0), ((s.ld? ix.toNat).isNone, 0x8002, 1, 0),
      (!(s.ld? ix.toNat).any (fun d => (d.st == .down || d.st == .ioUp) && d.exts.isEmpty), 0x8005, 1, 0)] (fun p => (s.removeLd ix.toNat).committed p []) :=
  have ho : CmdOp.Of { code := 0xC007, cls := .f, changes := true, busy := s.ldInChange ix.toNat } { h := h, code := 0xC007, cls := .f } := ⟨rfl, rfl, rfl, rfl, rfl⟩
  runs_busy rfl rfl ho rfl rfl fun _ => State.conclude_committed _ _ ho rfl _

theorem runs_setLdManage (h : Hdr) (ix manage : BitVec 8) (s : State) : Runs (.setLdManage h ix manage) s
    [(s.ldInChange ix.toNat, 0x8003, 0, 0), (decide (63 < ix.toNat), 2, 1, 0), (decide (1 < manage.toNat), 2, 2, 0), ((s.ld? ix.toNat).isNone, 0x8002, 1, 0)]
    (fun p => (s.updLd ix.toNat (fun d => { d with manage := manage == 1#8 })).committed p []) :=
  have ho : CmdOp.Of { code := 0xC008, cls := .f, changes := true, busy := s.ldInChange ix.toNat } { h := h, code := 0xC008, cls := .f } := ⟨rfl, rfl, rfl, rfl, rfl⟩
  runs_busy rfl rfl ho rfl rfl fun _ => State.conclude_committed _ _ ho rfl _

/-! ### What the deletion of an LD leaves: the memory, its regions and the placement of its pages -/

/-- Memory, regions and placement are as they were. -/
structure StorageKept (s t : State) : Prop where
  media : t.media = s.media
  regions : t.regions = s.regions
  place : t.place = s.place

theorem StorageKept.refl (s : State) : StorageKept s s := ⟨rfl, rfl, rfl⟩

theorem StorageKept.trans {s t u : State} (h : StorageKept s t) (k : StorageKept t u) : StorageKept s u :=
  ⟨k.media.trans h.media, k.regions.trans h.regions, k.place.trans h.place⟩

/-- An update of fields that `StorageKept` does not speak of. -/
theorem StorageKept.lit {s a : State} {pending tick free out regs heldLow captHigh boot warden heads lds sec dir path press dmc qos gth graft borrow lent cat mgmt alertN}
    (h : StorageKept s a) :
    StorageKept s (State.mk pending tick free out regs heldLow captHigh boot warden heads lds a.regions a.media sec a.place dir path press dmc qos gth graft borrow lent cat mgmt alertN) :=
  ⟨h.media, h.regions, h.place⟩

theorem StorageKept.foldl {α : Type} {f : State → α → State} (l : List α) (s : State) (hf : ∀ t x, StorageKept t (f t x)) : StorageKept s (l.foldl f s) := by
  induction l generalizing s with
  | nil => exact StorageKept.refl s
  | cons x xs ih => exact (hf s x).trans (ih (f s x))

theorem StorageKept.setWord (s : State) (off : Nat) (v : Word) : StorageKept s (s.setWord off v) := ⟨rfl, rfl, rfl⟩

theorem StorageKept.setDword (s : State) (off : Nat) (v : BitVec 64) : StorageKept s (s.setDword off v) := ⟨rfl, rfl, rfl⟩

theorem StorageKept.wr (s : State) (f : Reg.Fld) (x : Nat) : StorageKept s (s.wr f x) := ⟨State.wr_media .., State.wr_regions .., State.wr_place ..⟩

theorem StorageKept.updLd (s : State) (i : Nat) (f : Ld → Ld) : StorageKept s (s.updLd i f) := ⟨rfl, rfl, rfl⟩

theorem StorageKept.emit (s : State) (o : Out) : StorageKept s (s.emit o) := ⟨rfl, rfl, rfl⟩

theorem StorageKept.endPasses (s : State) (gone : RangePass → Bool) : StorageKept s (s.endPasses gone) := by
  have hfree : StorageKept s ((s.mgmt.passes.filter gone).foldl (fun (s : State) (x : RangePass) => match x.cur.bind (·.engine) with | some e => s.freeEngine e | none => s) s) :=
    StorageKept.foldl _ s fun t x => by
      split
      · exact StorageKept.lit (StorageKept.refl t)
      · exact StorageKept.refl t
  exact StorageKept.lit (StorageKept.lit hfree)

theorem StorageKept.dropPasses (s : State) (i : Nat) : StorageKept s (s.dropPasses i) := StorageKept.lit (StorageKept.endPasses s _)

theorem StorageKept.deleteQueue (s : State) (q : Nat) (abort : Bool) : StorageKept s (s.deleteQueue q abort) := by
  unfold State.deleteQueue
  refine StorageKept.trans ?_ ((((StorageKept.setDword _ _ _).trans (StorageKept.setWord _ _ _)).trans (StorageKept.setWord _ _ _)).trans (StorageKept.setWord _ _ _))
  split
  · exact StorageKept.lit (StorageKept.refl s)
  · exact StorageKept.refl s

theorem StorageKept.dropQueues (s : State) (i : Nat) (abrupt : Bool) : StorageKept s (s.dropQueues i abrupt) := by
  have hkill : StorageKept s (if abrupt then s.killJobs i else s) := by
    cases abrupt
    · exact StorageKept.refl s
    · exact StorageKept.lit (StorageKept.refl s)
  exact hkill.trans (StorageKept.foldl _ _ fun t q => StorageKept.deleteQueue t q _)

theorem StorageKept.wakeLink (s : State) (h : Nat) : StorageKept s (s.wakeLink h) := by
  have hhead : StorageKept s (s.updHead h (fun (x : HeadSt) => { x with traffic := s.tick })) := ⟨rfl, rfl, rfl⟩
  unfold State.wakeLink
  dsimp only
  split
  · exact (hhead.trans (StorageKept.wr _ _ _)).trans (StorageKept.emit _ _)
  · exact hhead

theorem StorageKept.msix (s : State) (i v : Nat) : StorageKept s (s.msix i v) := by
  unfold State.msix
  dsimp only
  split
  · exact StorageKept.refl s
  · split
    · exact StorageKept.refl s
    · split
      · exact StorageKept.updLd _ _ _
      · exact (StorageKept.wakeLink s _).trans (StorageKept.emit _ _)

theorem StorageKept.sendDone (s : State) (b : Bg) (rc : Nat) (body : List Byte) : StorageKept s (s.sendDone b rc body) := by
  unfold State.sendDone
  dsimp only
  split
  · exact ((StorageKept.emit s _).trans (StorageKept.updLd _ _ _)).trans (StorageKept.msix _ _ _)
  · exact StorageKept.emit s _

theorem StorageKept.failBg (s : State) (rc : Nat) (isIt : Bg → Bool) : StorageKept s (s.failBg rc isIt) := by
  unfold State.failBg
  dsimp only
  have hsend := StorageKept.foldl ((s.mgmt.bg.filter isIt).filter (fun (b : Bg) => !b.silent)) s (fun t b => StorageKept.sendDone t b rc [])
  exact StorageKept.lit ((StorageKept.lit hsend).trans (StorageKept.endPasses _ _))

theorem StorageKept.resetMailbox (s : State) (i : Nat) : StorageKept s (s.resetMailbox i) := by
  unfold State.resetMailbox
  dsimp only
  split
  · exact StorageKept.lit ((StorageKept.lit (StorageKept.failBg s _ _)).trans (StorageKept.updLd _ _ _))
  · exact StorageKept.lit (StorageKept.updLd s _ _)

theorem StorageKept.dropMailbox (s : State) (i : Nat) : StorageKept s (s.dropMailbox i) := StorageKept.lit (StorageKept.resetMailbox s i)

theorem StorageKept.clearUser (s : State) (i : Nat) : StorageKept s (s.clearUser i) := by
  unfold State.clearUser State.wrBit
  exact StorageKept.wr ..

theorem StorageKept.ldReset (s : State) (i : Nat) : StorageKept s (s.ldReset i) :=
  ((StorageKept.updLd s i _).trans (StorageKept.dropMailbox _ i)).trans (StorageKept.clearUser _ i)

/-- An LD that is deleted leaves the memory, the regions and the placement of its pages. -/
theorem StorageKept.removeLd (s : State) (i : Nat) : StorageKept s (s.removeLd i) :=
  StorageKept.lit (((StorageKept.dropPasses s i).trans (StorageKept.dropQueues _ i true)).trans (StorageKept.ldReset _ i))

/-- An LD that is deleted is gone. -/
theorem State.ld?_removeLd (s : State) (i : Nat) : (s.removeLd i).ld? i = none := Tbl.look_del_same _ _

/-- Settles O5: for each command its checks and effect (`runs_…`), and what its effect changes. -/
theorem headAndLdCommandsTakeEffect : Obligations.HeadAndLdCommandsTakeEffect := by
  unfold Obligations.HeadAndLdCommandsTakeEffect
  refine ⟨fun h mask s => ⟨s.setLocks mask, fun e he => ?_, ?_, runs_setLocks h mask s⟩,
    fun h head mode s => ⟨s.setMode head.toNat (mode == 1#8), fun k => ?_, fun j => ?_, ?_, runs_setHeadMode h head mode s⟩,
    runs_createLd, fun h ix s => ?_, runs_setLdManage⟩
  · have hset : (s.setNamed mask dieLocks).flag e.2 = (mask.getLsbD e.1 || s.flag e.2) := State.flag_setNamed s mask dieLocks (by decide) (by decide) he
    rw [← hset, State.setLocks_eq]
    exact State.flag_congr_regs rfl e.2
  · rw [State.setLocks_eq, State.setNamed_eq]
  · rw [State.setMode_eq]
    exact getLsbD_setBits_bit s.mgmt.mld head.toNat k (mode == 1#8)
  · rw [State.setMode_eq]
    refine (State.ld?_zeroIds s _ j).trans ?_
    by_cases hm : mode = 1#8 <;> simp [hm]
  · rw [State.setMode_eq, State.zeroIds_eq]
  · have hkept := StorageKept.removeLd s ix.toNat
    exact ⟨s.removeLd ix.toNat, State.ld?_removeLd s _, hkept.media, hkept.regions, by rw [hkept.place], runs_deleteLd h ix s⟩

end Sys2Proof.Machine
end

section
/-! Refutations of two statements that hold for every state: a `State` may name a head that does not exist, and the registers that its status and its discards would have are other registers. -/
namespace Sys2Proof.Machine

/-! ### An LD of a head that does not exist -/

/-- A released die whose pairs 0 and 3 are healthy, with an LD with MANAGE whose vector 6 is not masked. The LD names head 41: there are 16 heads, and the status register of a 42nd would be GLB_WDN_FAILS. -/
def ldOfHead41 : State :=
  let s : State := { State.reset with boot := { State.reset.boot with released := true },
                                      lds := [(0, { head := 41, manage := true, st := .ioUp, msix := [(6, { mask := false })] })] }
  s.wr Reg.GLB_WDN_STATUS_HEALTHY 0b1001

/-- Pair 3 may fail for the first time: it and pair 0 are healthy, outside the safe state, with no background command. -/
theorem ldOfHead41_mayFail : ldOfHead41.isSafe = false ∧ ldOfHead41.healthy 3 = true ∧ ldOfHead41.healthy 0 = true ∧ ldOfHead41.mgmt.bg = [] ∧ ldOfHead41.rd (pairFails 3) = 0 := by
  decide +kernel

/-- The count of pair 3 becomes 1, which reads as state L1 of head 41; vector 6, which signals the failure, brings that link back to L0, and the count to 0. -/
theorem pairFails_of_ldOfHead41 : (nextOf (exec (.lockstepMismatch 3) ldOfHead41) ldOfHead41).rd (pairFails 3) = 0 := by decide +kernel

/-- Refutes O52: the failure of a pair is counted, but the count does not stay in a state whose LD has a head that does not exist; the statement has no premise that heads are below 16. -/
theorem not_wardenClocksAndFrames : ¬ Obligations.WardenClocksAndFrames := by
  unfold Obligations.WardenClocksAndFrames
  rintro ⟨⟨-, hfails, -⟩, -⟩
  obtain ⟨hsafe, hpair, hother, hbg, hcount⟩ := ldOfHead41_mayFail
  obtain ⟨t, ht, -, hcounted, -⟩ := hfails 3 ldOfHead41 hsafe hpair (by rw [show (↑(3 : Pair) : Nat) = 3 from rfl, hcount]; decide) hbg ⟨0, by decide, by decide, hother⟩
  have hnext : nextOf (exec (.lockstepMismatch 3) ldOfHead41) ldOfHead41 = t := by rw [ht]; rfl
  have hzero : t.rd (pairFails 3) = 0 := hnext ▸ pairFails_of_ldOfHead41
  have hone : t.rd (pairFails 3) = 1 := hcounted.trans (by rw [show (↑(3 : Pair) : Nat) = 3 from rfl, hcount])
  omega

/-! ### A request of a head that does not exist -/

/-- Graft port 0 is UP and waits for the answer to a read under tag 0, for a request that names head 8,118,320: there are 16 heads, and the discard register of that one would be GFT_PORT_STATUS of port 0. -/
def readOfNoHead : State :=
  let s : State := { State.reset with boot := { State.reset.boot with released := true },
                                      path := { txns := [{ req := { id := 0, src := .head 8118320, ld := 0, op := .rd, line := 0 }, slice := 0 }] },
                                      graft := [(0, { outst := [{ tag := 0, why := .txn 0 0, write := false, line := 0, lease := 0 }] })] }
  s.wr (Reg.GFT_PORT_STATUS_STATE 0) 2

/-- The port is UP, and nothing is outstanding under tag 1. -/
theorem readOfNoHead_noTag1 : readOfNoHead.portUp 0 = true ∧ (readOfNoHead.gp 0).outst.find? (fun (o : Outst) => o.tag == 1 && !o.write) = none := by decide +kernel

/-- An answer under tag 1 loses the port, with STATE 4; the read that waited is discarded, and the count of its head's discards, one more, makes it 5. -/
theorem portState_of_readOfNoHead : (nextOf (exec (.datal 0 1 0 0 false) readOfNoHead) readOfNoHead).rd (Reg.GFT_PORT_STATUS_STATE 0) = 5 := by decide +kernel

/-- Refutes O57: an answer under a tag that is not outstanding loses the port, but the port does not stay LOST where a read of a head that does not exist waits at it; the statement has no premise that heads are below 16. -/
theorem not_graftMemoryMessages : ¬ Obligations.GraftMemoryMessages := by
  unfold Obligations.GraftMemoryMessages
  rintro ⟨-, -, hunknown, -⟩
  obtain ⟨hup, htag⟩ := readOfNoHead_noTag1
  obtain ⟨⟨t, ht, hlost, -⟩, -⟩ := hunknown 0 1 0 0 false [] 0 readOfNoHead hup htag
  have hnext : nextOf (exec (.datal 0 1 0 0 false) readOfNoHead) readOfNoHead = t := by rw [ht]; rfl
  have hfive : t.rd (Reg.GFT_PORT_STATUS_STATE 0) = 5 := hnext ▸ portState_of_readOfNoHead
  exact absurd (hfive.symm.trans hlost) (by decide)

end Sys2Proof.Machine
end

section
/-! Commands that write one register (R22, R172, R316, R362, R366, R367, R373, R382). -/
namespace Sys2Proof.Machine

/-! ### A write by a source with the full view -/

/-- A source with the full view writes the register at an aligned offset. -/
theorem State.put32_full {s : State} {a : Agent} (hv : s.view a = .full) {off : Nat} (h : off % 4 = 0) (hb : off < 0x3000000) (v : Word) :
    s.put32 a off v = s.regWrite (pairOf a) off v := by
  rw [State.put32, hv, State.write32_full s _ _ h hb]

/-- A source with the full view writes a 32-bit register. -/
theorem State.put32_word {s : State} {a : Agent} (hv : s.view a = .full) {off i : Nat} {d : Reg.RegDef} (h : off % 4 = 0) (hb : off < 0x3000000)
    (hf : Reg.find off = some (d, i)) (hd : d.size = 4) (v : Word) : s.put32 a off v = s.regStore (pairOf a) d off v := by
  rw [State.put32_full hv h hb, State.regWrite_word s _ _ hf (by omega)]

/-! ### The register at an offset -/

/-- A test that the register at an offset passes is passed by a register there. -/
theorem find_of_any {off : Nat} {p : Reg.RegDef × Nat → Bool} (h : (Reg.find off).any p = true) : ∃ d i, Reg.find off = some (d, i) ∧ p (d, i) = true := by
  obtain ⟨⟨d, i⟩, hf, hp⟩ := (Option.any_eq_true _ _).1 h
  exact ⟨d, i, hf, hp⟩

/-- A register at an offset is of 32 bits. -/
def wordAt (off : Nat) : Bool := (Reg.find off).any (fun e => e.1.size == 4)

/-- A write of a 32-bit register by a source with the full view stores in it. -/
theorem State.put32_wordAt {s : State} {a : Agent} (hv : s.view a = .full) {off : Nat} (h : off % 4 = 0) (hb : off < 0x3000000) (hw : wordAt off = true) (v : Word) :
    ∃ d, s.put32 a off v = s.regStore (pairOf a) d off v := by
  obtain ⟨d, i, hf, hd⟩ := find_of_any hw
  exact ⟨d, State.put32_word hv h hb hf (by simpa using hd) v⟩

theorem wordAt_queueTail : ∀ q, q < 64 → wordAt (0x40100C + 0x20 * q) = true := by decide +kernel
theorem wordAt_groupEvsel : ∀ g, g < 16 → ∀ j, j < 4 → wordAt (0x2200008 + 0x100 * g + 4 * j) = true := by decide +kernel
theorem wordAt_sampling : wordAt 0x2202000 = true ∧ wordAt 0x2202004 = true ∧ wordAt 0x2203000 = true := by decide +kernel

/-- The high word of DIR_PROBE_ADDR is the second of a 64-bit register. -/
theorem find_probeHigh : ∃ d, Reg.find 0x600014 = some (d, 1) ∧ d.size = 8 := by
  have h : (Reg.find 0x600014).any (fun e => e.1.size == 8 && e.2 == 1) = true := by decide +kernel
  obtain ⟨d, i, hf, hd⟩ := find_of_any h
  obtain ⟨hsize, rfl⟩ : d.size = 8 ∧ i = 1 := by simpa using hd
  exact ⟨d, hf, hsize⟩

/-- The register of the groups' control words. -/
def groupCtlDef : Reg.RegDef :=
  { base := 0x2200000, dims := [(0x100, 16)], size := 4,
    fields := [Reg.f 0 1 .rw, Reg.f 1 1 .rw, Reg.f 2 1 .wo, Reg.f 3 6 .rw, Reg.f 9 1 .rw, Reg.f 10 8 .rw1c, Reg.f 18 1 .rw1c, Reg.f 19 13 .rsv] }

theorem find_groupCtl : ∀ g, g < 16 → Reg.find (0x2200000 + 0x100 * g) = some (groupCtlDef, 0) := by decide +kernel

/-- A block's cause register holds 31 causes that writing 1 clears. -/
def causeFields : List Reg.FieldDef := [Reg.f 0 1 .rsv, (Reg.f 1 31 .rw1c).warm]

theorem find_cause : ∀ b, b < 36 → (1 ≤ b ∧ b ≤ 6 ∨ 16 ≤ b ∧ b ≤ 35) → ∃ d i, Reg.find (0x2300100 + 4 * b) = some (d, i) ∧ d.size = 4 ∧ d.fields = causeFields := by
  have h : ∀ b, b < 36 → (1 ≤ b ∧ b ≤ 6 ∨ 16 ≤ b ∧ b ≤ 35) → (Reg.find (0x2300100 + 4 * b)).any (fun e => e.1.size == 4 && e.1.fields == causeFields) = true := by decide +kernel
  intro b hb hr
  obtain ⟨d, i, hf, hd⟩ := find_of_any (h b hb hr)
  exact ⟨d, i, hf, by simpa using hd⟩

/-! ### What the write of each register does -/

theorem State.regStore_queueTail (s : State) (p : Option Nat) (d : Reg.RegDef) {q : Nat} (hq : q < 64) (v : Word) :
    s.regStore p d (0x40100C + 0x20 * q) v = s.postTail q (bitsOf v 0 12) := by
  have hq' : (0x40100C + 0x20 * q - 0x401000) / 0x20 = q := by omega
  have ho : (0x40100C + 0x20 * q) % 0x20 = 0x0C := by omega
  unfold State.regStore
  dsimp only
  rw [if_neg (by omega), if_neg (by omega), if_neg (by omega), if_neg (by omega), if_pos (by omega), if_pos ho, hq']

/-- A write of a Gatehouse register waits for the link. -/
theorem State.regStore_gatehouse (s : State) (p : Option Nat) (d : Reg.RegDef) {off : Nat} (h : 0x2100000 ≤ off) (h' : off < 0x2200000) (v : Word) :
    s.regStore p d off v = s.gthForward off v := by
  unfold State.regStore
  dsimp only
  rw [if_neg (by omega), if_neg (by omega), if_neg (by omega), if_neg (by omega), if_neg (by omega), if_neg (by omega), if_neg (by omega), if_neg (by omega), if_neg (by omega), if_pos (by omega)]

/-- Writes of the block of a counter group, by their place in it. -/
theorem State.regStore_group (s : State) (p : Option Nat) (d : Reg.RegDef) {g r : Nat} (hg : g < 16) (hr : r < 0x100) (v : Word) :
    s.regStore p d (0x2200000 + 0x100 * g + r) v = if r = 0 then s.grpCtl d (0x2200000 + 0x100 * g + r) v
      else if 8 ≤ r ∧ r < 0x18 then s.evselWrite g ((r - 8) / 4) v else s.store32 d (0x2200000 + 0x100 * g + r) v := by
  have hg' : (0x2200000 + 0x100 * g + r - 0x2200000) / 0x100 = g := by omega
  have hr' : (0x2200000 + 0x100 * g + r) % 0x100 = r := by omega
  unfold State.regStore
  dsimp only
  rw [if_neg (by omega), if_neg (by omega), if_neg (by omega), if_neg (by omega), if_neg (by omega), if_neg (by omega), if_neg (by omega), if_neg (by omega), if_neg (by omega), if_neg (by omega),
    if_pos (by omega), hg', hr']

theorem State.regStore_alerts (s : State) (p : Option Nat) (d : Reg.RegDef) {off : Nat} (h : 0x2300000 ≤ off) (h' : off < 0x2400000) (v : Word) :
    s.regStore p d off v = State.alertVector s (s.store32 d off (v &&& ~~~(s.causesNow off))) := by
  unfold State.regStore
  dsimp only
  rw [if_neg (by omega), if_neg (by omega), if_neg (by omega), if_neg (by omega), if_neg (by omega), if_neg (by omega), if_neg (by omega), if_neg (by omega), if_neg (by omega), if_neg (by omega),
    if_neg (by omega), if_neg (by omega), if_neg (by omega), if_neg (by omega), if_pos (by omega)]

theorem State.regStore_sampCtl (s : State) (p : Option Nat) (d : Reg.RegDef) (v : Word) : s.regStore p d 0x2202000 v = s.sampCtl v := rfl
theorem State.regStore_sampHeads (s : State) (p : Option Nat) (d : Reg.RegDef) (v : Word) : s.regStore p d 0x2202004 v = s.sampHeads v := rfl
theorem State.regStore_gather (s : State) (p : Option Nat) (d : Reg.RegDef) : s.regStore p d 0x2203000 1 = s.trigger 1 4 := rfl


/-! ### The probe of a directory entry -/

/-- A write of DIR_PROBE_ADDR starts a probe of the line that it then names. -/
theorem State.pairStore_probe (s : State) (d : Reg.RegDef) (v mask : BitVec 64) (t : State) (ht : t = s.pairStore d 0x600010 v mask) :
    t.flag Reg.DIR_PROBE_DATA_DONE = false ∧ t.dir.probe = some (t.rd Reg.DIR_PROBE_ADDR_LINE)
    ∧ t = { s with regs := t.regs, dir := { s.dir with probe := t.dir.probe } } := by
  generalize hu : s.setDword 0x600010 (writeFields d (s.locked d 0x600010) s.rootN (s.dword 0x600010) v mask) = u
  have hprobe : t = { u.setFlag Reg.DIR_PROBE_DATA_DONE false with dir := { u.dir with probe := some ((u.setFlag Reg.DIR_PROBE_DATA_DONE false).rd Reg.DIR_PROBE_ADDR_LINE) } } := by
    rw [ht, ← hu]; rfl
  have hdone : t.flag Reg.DIR_PROBE_DATA_DONE = false := by
    rw [State.flag_congr_regs (s := u.setFlag Reg.DIR_PROBE_DATA_DONE false) (by rw [hprobe])]
    exact State.flag_setFlag_same _ _ _ (by decide) rfl
  have hline : t.rd Reg.DIR_PROBE_ADDR_LINE = (u.setFlag Reg.DIR_PROBE_DATA_DONE false).rd Reg.DIR_PROBE_ADDR_LINE :=
    State.rd_congr _ (by rw [hprobe]; rfl) (by rw [hprobe]; rfl)
  refine ⟨hdone, by rw [hline, hprobe], ?_⟩
  rw [hprobe, State.setFlag, State.wr_eq_withRegs, ← hu]
  rfl

/-- The write of the high word of DIR_PROBE_ADDR takes the low word that was held, and starts the probe. -/
theorem State.regWrite_probe (s : State) (p : Option Nat) (hi : Word) (t : State) (ht : t = s.regWrite p 0x600014 hi) :
    t.flag Reg.DIR_PROBE_DATA_DONE = false ∧ t.dir.probe = some (t.rd Reg.DIR_PROBE_ADDR_LINE) ∧ Tbl.look t.heldLow 0x600010 = none
    ∧ t = { s with regs := t.regs, heldLow := t.heldLow, dir := { s.dir with probe := t.dir.probe } } := by
  obtain ⟨d, hf, hd⟩ := find_probeHigh
  cases hx : Tbl.look s.heldLow (0x600014 - 4) with
  | none =>
    rw [State.regWrite_high_alone s p hi hf hd hx] at ht
    obtain ⟨hdone, hprobe, heq⟩ := State.pairStore_probe _ _ _ _ t ht
    refine ⟨hdone, hprobe, by rw [heq]; exact hx, by rw [heq]⟩
  | some lo =>
    rw [State.regWrite_high_held s p hi hf hd hx] at ht
    obtain ⟨hdone, hprobe, heq⟩ := State.pairStore_probe _ _ _ _ t ht
    refine ⟨hdone, hprobe, by rw [heq]; exact Tbl.look_del_same _ _, by rw [heq]⟩

/-! ### Fields after a write of their register -/

/-- The field of a word that is stored in its low half reads there. -/
theorem bitsOf_setWidth {n : Nat} (v : BitVec n) (m lo w : Nat) (h : lo + w ≤ m) : bitsOf (v.setWidth m) lo w = bitsOf v lo w := by
  apply Nat.eq_of_testBit_eq
  intro i
  simp only [testBit_bitsOf, BitVec.getLsbD_setWidth]
  by_cases hi : i < w
  · simp [hi, show lo + i < m by omega]
  · simp [hi]

/-- What a write leaves of a field is not in the bits of another. -/
theorem bitsOf_writeField_other (l : Bool) (n : Nat) (old v mask acc : BitVec 64) (f : Reg.FieldDef) (a b : Nat) (hf : f.lo + f.w ≤ 64) (h : f.lo + f.w ≤ a ∨ a + b ≤ f.lo) :
    bitsOf (writeField l n old v mask acc f) a b = bitsOf acc a b := by
  have hset : ∀ x, bitsOf (setBits acc f.lo f.w x) a b = bitsOf acc a b := fun x => bitsOf_setBits_other _ _ _ _ _ _ hf h
  cases hacc : f.acc with
  | rw => simp only [writeField, hacc, hset]
  | rwl =>
    simp only [writeField, hacc]
    split
    · rfl
    · exact hset _
  | rw1c =>
    simp only [writeField, hacc]
    split <;> exact hset _
  | ro => simp only [writeField, hacc]
  | wo => simp only [writeField, hacc]
  | rsv => simp only [writeField, hacc]

/-- Writes of fields leave the bits of none of them. -/
theorem bitsOf_foldl_writeField_other (l : Bool) (n : Nat) (old v mask : BitVec 64) (a b : Nat) (fs : List Reg.FieldDef) (acc : BitVec 64)
    (hfs : ∀ f ∈ fs, f.lo + f.w ≤ 64 ∧ (f.lo + f.w ≤ a ∨ a + b ≤ f.lo)) : bitsOf (fs.foldl (writeField l n old v mask) acc) a b = bitsOf acc a b := by
  induction fs generalizing acc with
  | nil => rfl
  | cons f fs ih =>
    obtain ⟨⟨hf, hd⟩, hfs⟩ := List.forall_mem_cons.1 hfs
    rw [List.foldl_cons, ih _ hfs, bitsOf_writeField_other _ _ _ _ _ _ _ _ _ hf hd]

/-- Fields of a register in the order of their bits, none beyond bit 63. -/
def inOrder (fs : List Reg.FieldDef) : Bool := decide (fs.Pairwise (fun f g => f.lo + f.w ≤ g.lo)) && fs.all (fun f => decide (f.lo + f.w ≤ 64))

/-- A field that takes a value whatever stands beside it has that value after the write of its register. -/
theorem bitsOf_foldl_writeField (l : Bool) (n : Nat) (old v mask : BitVec 64) (f : Reg.FieldDef) (x : Nat)
    (hx : ∀ acc, bitsOf (writeField l n old v mask acc f) f.lo f.w = x) (fs : List Reg.FieldDef) (hin : inOrder fs = true) (hf : f ∈ fs) (acc : BitVec 64) :
    bitsOf (fs.foldl (writeField l n old v mask) acc) f.lo f.w = x := by
  induction fs generalizing acc with
  | nil => simp at hf
  | cons g fs ih =>
    obtain ⟨⟨hg, hfs⟩, h64, hall⟩ : ((∀ k ∈ fs, g.lo + g.w ≤ k.lo) ∧ fs.Pairwise (fun f g => f.lo + f.w ≤ g.lo)) ∧ g.lo + g.w ≤ 64 ∧ ∀ k ∈ fs, k.lo + k.w ≤ 64 := by
      simpa [inOrder] using hin
    rcases List.mem_cons.1 hf with rfl | hmem
    · rw [List.foldl_cons, bitsOf_foldl_writeField_other _ _ _ _ _ _ _ _ _ (fun k hk => ⟨hall k hk, .inr (hg k hk)⟩), hx]
    · exact ih (by simpa [inOrder] using ⟨hfs, hall⟩) hmem _

/-- The same for the whole write, which takes the fields twice. -/
theorem bitsOf_writeFields (d : Reg.RegDef) (l : Bool) (n : Nat) (old v mask : BitVec 64) (f : Reg.FieldDef) (x : Nat)
    (hx : ∀ acc, bitsOf (writeField l n old v mask acc f) f.lo f.w = x) (hin : inOrder d.fields = true) (hf : f ∈ d.fields) :
    bitsOf (writeFields d l n old v mask) f.lo f.w = x :=
  bitsOf_foldl_writeField l n old v mask f x hx d.fields hin hf _

/-- A field of a 32-bit register after a write of the register. -/
theorem State.bitsOf_store32 (s : State) (d : Reg.RegDef) (off : Nat) (v : Word) (f : Reg.FieldDef) (x : Nat) (h32 : f.lo + f.w ≤ 32) (hin : inOrder d.fields = true) (hf : f ∈ d.fields)
    (hx : ∀ acc, bitsOf (writeField (s.locked d off) s.rootN ((s.word off).setWidth 64) (v.setWidth 64) 0xFFFFFFFF#64 acc f) f.lo f.w = x) :
    bitsOf ((s.store32 d off v).word off) f.lo f.w = x := by
  rw [State.store32, State.word_setWord_same, bitsOf_setWidth _ _ _ _ h32]
  exact bitsOf_writeFields d _ _ _ _ _ f x hx hin hf

/-- The mask of the low word of two. -/
theorem getLsbD_lowWord (i : Nat) (hi : i < 64) : (0xFFFFFFFF#64).getLsbD i = decide (i < 32) := by
  rw [show 0xFFFFFFFF#64 = (BitVec.allOnes 32).setWidth 64 from rfl, BitVec.getLsbD_setWidth, BitVec.getLsbD_allOnes]
  simp [hi]

/-- The value of a plain field that a 32-bit write brings. -/
theorem bitsOf_written (old v : Word) (lo w : Nat) (h : lo + w ≤ 32) : bitsOf ((old.setWidth 64 &&& ~~~0xFFFFFFFF#64) ||| (v.setWidth 64 &&& 0xFFFFFFFF#64)) lo w = bitsOf v lo w := by
  have hword : (old.setWidth 64 &&& ~~~0xFFFFFFFF#64) ||| (v.setWidth 64 &&& 0xFFFFFFFF#64) = v.setWidth 64 := by
    apply BitVec.eq_of_getLsbD_eq
    intro i hi
    simp only [BitVec.getLsbD_or, BitVec.getLsbD_and, BitVec.getLsbD_not, BitVec.getLsbD_setWidth, getLsbD_lowWord i hi, hi, decide_true, Bool.true_and]
    by_cases h32 : i < 32
    · simp [h32]
    · simp [h32, BitVec.getLsbD_of_ge _ _ (Nat.le_of_not_lt h32)]
  rw [hword, bitsOf_setWidth _ _ _ _ (by omega)]

/-- A plain field of a 32-bit register takes what is written to it. -/
theorem State.bitsOf_store32_rw (s : State) (d : Reg.RegDef) (off : Nat) (v : Word) (lo w : Nat) (h32 : lo + w ≤ 32) (hin : inOrder d.fields = true) (hf : Reg.f lo w .rw ∈ d.fields) :
    bitsOf ((s.store32 d off v).word off) lo w = bitsOf v lo w :=
  State.bitsOf_store32 s d off v (Reg.f lo w .rw) _ h32 hin hf fun acc => by
    have h64 : (Reg.f lo w .rw).lo + (Reg.f lo w .rw).w ≤ 64 := Nat.le_trans h32 (by decide)
    rw [← bitsOf_written (s.word off) v lo w h32]
    refine (bitsOf_setBits_same acc _ _ _ h64).trans ?_
    exact Nat.mod_eq_of_lt (Nat.mod_lt _ (Nat.two_pow_pos _))

/-! ### The block of a counter group -/

/-- The words of two fields lie apart, whether a field takes one word or two. -/
def apart (f g : Reg.Fld) : Prop := f.off + 4 * (f.lo / 32) + 4 < g.off + 4 * (g.lo / 32) ∨ g.off + 4 * (g.lo / 32) + 4 < f.off + 4 * (f.lo / 32)

theorem apart.symm {f g : Reg.Fld} (h : apart f g) : apart g f := Or.symm h

/-- A write of a field leaves a field whose words lie apart from its own. -/
theorem State.rd_wr_apart (s : State) (f g : Reg.Fld) (x : Nat) (h : apart f g) : (s.wr f x).rd g = s.rd g := by
  unfold apart at h
  exact State.rd_congr _ (State.word_wr_other _ _ _ _ (by omega) (by omega)) (State.word_wr_other _ _ _ _ (by omega) (by omega))

/-- The field of a group's event select. -/
def evselFld (g k : Nat) : Reg.Fld := ⟨0x2200008 + 0x100 * g + 4 * (k / 2), 16 * (k % 2), 16⟩

theorem State.evsel_eq (s : State) (g k : Nat) : s.evsel g k = s.rd (evselFld g k) := rfl

theorem evselFld_oneWord (g k : Nat) : (evselFld g k).lo % 32 + (evselFld g k).w ≤ 32 := by simp only [evselFld]; omega

/-- A field of a group's control word. -/
def ctlFld (g lo w : Nat) : Reg.Fld := ⟨0x2200000 + 0x100 * g, lo, w⟩

section Places
variable (g k : Nat)

theorem apart_ctl_evsel (lo w : Nat) (h : lo < 32) : apart (ctlFld g lo w) (evselFld g k) := by simp only [apart, ctlFld, evselFld]; omega
theorem apart_ctl_ticks (lo w : Nat) (h : lo < 32) : apart (ctlFld g lo w) (Reg.CAT_GRP_TICKS_TICKS g) := by simp only [apart, ctlFld, Reg.CAT_GRP_TICKS_TICKS]; omega
theorem apart_ctl_count (lo w : Nat) (h : lo < 32) : apart (ctlFld g lo w) (Reg.CAT_GRP_CNT_COUNT g k) := by simp only [apart, ctlFld, Reg.CAT_GRP_CNT_COUNT]; omega
theorem apart_evsel_ticks (h : k < 8) : apart (evselFld g k) (Reg.CAT_GRP_TICKS_TICKS g) := by simp only [apart, evselFld, Reg.CAT_GRP_TICKS_TICKS]; omega
theorem apart_evsel_count (j : Nat) (h : k < 8) : apart (evselFld g k) (Reg.CAT_GRP_CNT_COUNT g j) := by simp only [apart, evselFld, Reg.CAT_GRP_CNT_COUNT]; omega
theorem apart_ticks_count : apart (Reg.CAT_GRP_TICKS_TICKS g) (Reg.CAT_GRP_CNT_COUNT g k) := by simp only [apart, Reg.CAT_GRP_TICKS_TICKS, Reg.CAT_GRP_CNT_COUNT]; omega
theorem apart_count_count (j : Nat) (h : j ≠ k) : apart (Reg.CAT_GRP_CNT_COUNT g j) (Reg.CAT_GRP_CNT_COUNT g k) := by simp only [apart, Reg.CAT_GRP_CNT_COUNT]; omega

end Places

/-- A state of which only the registers and the counters' holds differ from another. -/
def RegsAndHolds (s t : State) (h : Tbl Nat) : Prop := t = { s with regs := t.regs, cat := { s.cat with holds := h } }

theorem RegsAndHolds.refl (s : State) : RegsAndHolds s s s.cat.holds := rfl

theorem RegsAndHolds.wr {s t : State} {h : Tbl Nat} (ht : RegsAndHolds s t h) (f : Reg.Fld) (x : Nat) : RegsAndHolds s (t.wr f x) h := by
  unfold RegsAndHolds at *
  rw [State.wr_eq_withRegs]
  generalize (t.wr f x).regs = r
  rw [ht]

theorem RegsAndHolds.holdOff {s t : State} {h : Tbl Nat} (ht : RegsAndHolds s t h) (k : Nat) : RegsAndHolds s (t.holdOff k) (Tbl.put h k (s.tick + 1)) := by
  unfold RegsAndHolds at *
  rw [ht]
  rfl

theorem RegsAndHolds.store32 {s t : State} {h : Tbl Nat} (ht : RegsAndHolds s t h) (d : Reg.RegDef) (off : Nat) (v : Word) : RegsAndHolds s (t.store32 d off v) h := by
  unfold RegsAndHolds at *
  show { t with regs := (t.store32 d off v).regs } = _
  generalize (t.store32 d off v).regs = r
  rw [ht]

/-- The hold of a counter or group changes no register. -/
theorem State.rd_holdOff (s : State) (k : Nat) (f : Reg.Fld) : (s.holdOff k).rd f = s.rd f := rfl

section Fold
variable (f : Nat → Reg.Fld) (x : Nat)

/-- Writes of a number in fields leave a field that lies apart from them. -/
theorem State.rd_foldl_wr_apart (g : Reg.Fld) (l : List Nat) (s : State) (h : ∀ k ∈ l, apart (f k) g) : (l.foldl (fun (s : State) k => s.wr (f k) x) s).rd g = s.rd g := by
  induction l generalizing s with
  | nil => rfl
  | cons k l ih =>
    obtain ⟨hk, hl⟩ := List.forall_mem_cons.1 h
    rw [List.foldl_cons, ih _ hl, State.rd_wr_apart _ _ _ _ hk]

/-- Writes of a number in fields of two words that lie apart leave it in each of them. -/
theorem State.rd_foldl_wr_same (k : Nat) (hn : ¬ (f k).lo % 32 + (f k).w ≤ 32) (hw : (f k).lo % 32 + (f k).w ≤ 64) (l : List Nat) (s : State) (hk : k ∈ l)
    (h : ∀ j ∈ l, j ≠ k → apart (f j) (f k)) : (l.foldl (fun (s : State) k => s.wr (f k) x) s).rd (f k) = x % 2 ^ (f k).w := by
  induction l generalizing s with
  | nil => simp at hk
  | cons j l ih =>
    obtain ⟨-, hl⟩ := List.forall_mem_cons.1 h
    by_cases hmem : k ∈ l
    · exact ih _ hmem hl
    · obtain rfl : k = j := by simpa [hmem] using hk
      rw [List.foldl_cons, State.rd_foldl_wr_apart f x (f k) l _ (fun j hj => hl j hj (fun e => hmem (e ▸ hj))), State.rd_wr_same_wide _ _ _ hn hw]

theorem RegsAndHolds.foldl_wr {s : State} {h : Tbl Nat} (l : List Nat) (t : State) (ht : RegsAndHolds s t h) : RegsAndHolds s (l.foldl (fun (s : State) k => s.wr (f k) x) t) h := by
  induction l generalizing t with
  | nil => exact ht
  | cons k l ih => exact ih _ (ht.wr _ _)

end Fold

/-! #### The clear of a group -/

/-- The state of which a group's counters and ticks are 0. -/
def State.zeroCounts (s : State) (g : Nat) : State := (List.range 8).foldl (fun (s : State) k => s.wr (Reg.CAT_GRP_CNT_COUNT g k) 0) (s.wr (Reg.CAT_GRP_TICKS_TICKS g) 0)

theorem State.groupClear_eq (s : State) (g : Nat) : s.groupClear g = (((s.zeroCounts g).wr (ctlFld g 10 8) 0).setFlag (ctlFld g 18 1) false).holdOff (128 + g) := rfl

theorem State.rd_zeroCounts_apart (s : State) (g : Nat) (f : Reg.Fld) (ht : apart (Reg.CAT_GRP_TICKS_TICKS g) f) (hc : ∀ k, k < 8 → apart (Reg.CAT_GRP_CNT_COUNT g k) f) :
    (s.zeroCounts g).rd f = s.rd f := by
  rw [State.zeroCounts, State.rd_foldl_wr_apart _ _ _ _ _ (fun k hk => hc k (List.mem_range.1 hk)), State.rd_wr_apart _ _ _ _ ht]

/-- A clear leaves, of the fields that lie apart from the control word, what the clear of the counts leaves. -/
theorem State.rd_groupClear_apart (s : State) (g : Nat) (f : Reg.Fld) (h : ∀ lo w, lo < 32 → apart (ctlFld g lo w) f) : (s.groupClear g).rd f = (s.zeroCounts g).rd f := by
  rw [State.groupClear_eq, State.rd_holdOff, State.setFlag, State.rd_wr_apart _ _ _ _ (h _ _ (by decide)), State.rd_wr_apart _ _ _ _ (h _ _ (by decide))]

theorem State.evsel_groupClear (s : State) (g k : Nat) (hk : k < 8) : (s.groupClear g).evsel g k = s.evsel g k :=
  (State.rd_groupClear_apart _ _ _ (apart_ctl_evsel g k)).trans
    (State.rd_zeroCounts_apart _ _ _ (apart_evsel_ticks g k hk).symm (fun j _ => (apart_evsel_count g k j hk).symm))

/-- A clear leaves the fields of the control word below OVF. -/
theorem State.rd_groupClear_ctl (s : State) (g lo w : Nat) (h : lo + w ≤ 10) : (s.groupClear g).rd (ctlFld g lo w) = s.rd (ctlFld g lo w) := by
  have hin : lo % 32 + w ≤ 32 := by omega
  have hlo : lo < 32 := by omega
  have htick : (ctlFld g 18 1).lo % 32 + (ctlFld g 18 1).w ≤ 32 := by simp only [ctlFld]; omega
  have hovf : (ctlFld g 10 8).lo % 32 + (ctlFld g 10 8).w ≤ 32 := by simp only [ctlFld]; omega
  rw [State.groupClear_eq, State.rd_holdOff, State.setFlag, State.rd_wr_other _ _ _ _ htick hin (.inr (.inr (by simp only [ctlFld]; omega))),
    State.rd_wr_other _ _ _ _ hovf hin (.inr (.inr (by simp only [ctlFld]; omega))),
    State.rd_zeroCounts_apart _ _ _ (apart_ctl_ticks g lo w hlo).symm (fun k _ => (apart_ctl_count g k lo w hlo).symm)]

theorem State.ovf_groupClear (s : State) (g : Nat) : (s.groupClear g).rd (ctlFld g 10 8) = 0 := by
  have htick : (ctlFld g 18 1).lo % 32 + (ctlFld g 18 1).w ≤ 32 := by simp only [ctlFld]; omega
  have hovf : (ctlFld g 10 8).lo % 32 + (ctlFld g 10 8).w ≤ 32 := by simp only [ctlFld]; omega
  rw [State.groupClear_eq, State.rd_holdOff, State.setFlag, State.rd_wr_other _ _ _ _ htick hovf (.inr (.inr (by simp only [ctlFld]; omega))), State.rd_wr_same _ _ _ hovf, Nat.zero_mod]

theorem State.tickOvf_groupClear (s : State) (g : Nat) : (s.groupClear g).flag (ctlFld g 18 1) = false := by
  rw [State.groupClear_eq, State.flag, State.rd_holdOff]
  exact State.flag_setFlag_same _ _ _ (by simp only [ctlFld]; omega) rfl

theorem State.ticks_groupClear (s : State) (g : Nat) : (s.groupClear g).rd (Reg.CAT_GRP_TICKS_TICKS g) = 0 := by
  rw [State.rd_groupClear_apart _ _ _ (apart_ctl_ticks g), State.zeroCounts, State.rd_foldl_wr_apart _ _ _ _ _ (fun k _ => (apart_ticks_count g k).symm), State.rd_wr_same_wide, Nat.zero_mod]
  · simp [Reg.CAT_GRP_TICKS_TICKS]
  · simp [Reg.CAT_GRP_TICKS_TICKS]

theorem count_twoWords (g k : Nat) : ¬ (Reg.CAT_GRP_CNT_COUNT g k).lo % 32 + (Reg.CAT_GRP_CNT_COUNT g k).w ≤ 32 := by simp [Reg.CAT_GRP_CNT_COUNT]
theorem count_in64 (g k : Nat) : (Reg.CAT_GRP_CNT_COUNT g k).lo % 32 + (Reg.CAT_GRP_CNT_COUNT g k).w ≤ 64 := by simp [Reg.CAT_GRP_CNT_COUNT]

theorem State.count_groupClear (s : State) (g k : Nat) (hk : k < 8) : (s.groupClear g).rd (Reg.CAT_GRP_CNT_COUNT g k) = 0 := by
  rw [State.rd_groupClear_apart _ _ _ (apart_ctl_count g k), State.zeroCounts,
    State.rd_foldl_wr_same (Reg.CAT_GRP_CNT_COUNT g) 0 k (count_twoWords g k) (count_in64 g k) _ _ (List.mem_range.2 hk) (fun j _ hj => apart_count_count g k j hj), Nat.zero_mod]

theorem RegsAndHolds.groupClear {s t : State} {h : Tbl Nat} (ht : RegsAndHolds s t h) (g : Nat) : RegsAndHolds s (t.groupClear g) (Tbl.put h (128 + g) (s.tick + 1)) :=
  ((((RegsAndHolds.foldl_wr _ _ _ _ (ht.wr _ _)).wr _ _).wr _ _).holdOff _)

/-! #### A counter's event -/

section Evsel
variable (s : State) (g k n : Nat) (hn : eventLegal n = true)
include hn

theorem State.setEvsel_of_legal : s.setEvsel g k n = (((s.wr (evselFld g k) n).wr (Reg.CAT_GRP_CNT_COUNT g k) 0).wrBit (ctlFld g 10 8) k false).holdOff (8 * g + k) := by
  rw [State.setEvsel, if_pos hn]
  rfl

/-- What a counter's new event does to the group's events is the write of its own. -/
theorem State.evsel_setEvsel (j : Nat) (hj : j < 8) : (s.setEvsel g k n).evsel g j = (s.wr (evselFld g k) n).rd (evselFld g j) := by
  rw [State.setEvsel_of_legal _ _ _ _ hn, State.evsel_eq, State.rd_holdOff, State.wrBit, State.rd_wr_apart _ _ _ _ (apart_ctl_evsel g j 10 8 (by decide)),
    State.rd_wr_apart _ _ _ _ (apart_evsel_count g j k hj).symm]

theorem State.evsel_setEvsel_same (hk : k < 8) (h16 : n < 2 ^ 16) : (s.setEvsel g k n).evsel g k = n := by
  rw [State.evsel_setEvsel _ _ _ _ hn k hk, State.rd_wr_same _ _ _ (evselFld_oneWord g k), show (evselFld g k).w = 16 from rfl, Nat.mod_eq_of_lt h16]

theorem State.evsel_setEvsel_other (j : Nat) (hj : j < 8) (hjk : j ≠ k) : (s.setEvsel g k n).evsel g j = s.evsel g j := by
  rw [State.evsel_setEvsel _ _ _ _ hn j hj, State.rd_wr_other _ _ _ _ (evselFld_oneWord g k) (evselFld_oneWord g j) (by simp only [evselFld]; omega), State.evsel_eq]

theorem State.count_setEvsel_same : (s.setEvsel g k n).rd (Reg.CAT_GRP_CNT_COUNT g k) = 0 := by
  rw [State.setEvsel_of_legal _ _ _ _ hn, State.rd_holdOff, State.wrBit, State.rd_wr_apart _ _ _ _ (apart_ctl_count g k 10 8 (by decide)),
    State.rd_wr_same_wide _ _ _ (count_twoWords g k) (count_in64 g k), Nat.zero_mod]

theorem State.count_setEvsel_other (j : Nat) (hk : k < 8) (hjk : j ≠ k) : (s.setEvsel g k n).rd (Reg.CAT_GRP_CNT_COUNT g j) = s.rd (Reg.CAT_GRP_CNT_COUNT g j) := by
  rw [State.setEvsel_of_legal _ _ _ _ hn, State.rd_holdOff, State.wrBit, State.rd_wr_apart _ _ _ _ (apart_ctl_count g j 10 8 (by decide)),
    State.rd_wr_apart _ _ _ _ (apart_count_count g j k hjk.symm), State.rd_wr_apart _ _ _ _ (apart_evsel_count g k j hk)]

theorem RegsAndHolds.setEvsel {r : State} {h : Tbl Nat} (hr : RegsAndHolds r s h) : RegsAndHolds r (s.setEvsel g k n) (Tbl.put h (8 * g + k) (r.tick + 1)) := by
  rw [State.setEvsel_of_legal _ _ _ _ hn]
  exact (((hr.wr _ _).wr _ _).wr _ _).holdOff _

end Evsel

/-! ### The causes of a block -/

/-- A power of 2 whose bit is clear sets that bit. -/
theorem testBit_add_two_pow (a p i : Nat) (h : a.testBit p = false) : (a + 2 ^ p).testBit i = (a.testBit i || p == i) := by
  rcases Nat.lt_trichotomy i p with hi | rfl | hi
  · rw [Nat.add_comm, Nat.testBit_two_pow_add_gt hi, beq_false_of_ne (by omega), Bool.or_false]
  · rw [Nat.add_comm, Nat.testBit_two_pow_add_eq, h, beq_self_eq_true]
    rfl
  · obtain ⟨k, rfl⟩ : ∃ k, i = (k + 1) + p := ⟨i - p - 1, by omega⟩
    have heven : a / 2 ^ p % 2 = 0 := by
      have := Nat.testBit_eq_decide_div_mod_eq (x := a) (i := p)
      rw [h] at this
      have := of_decide_eq_false this.symm
      omega
    have hsucc : ((a + 2 ^ p) / 2 ^ p).testBit (k + 1) = (a / 2 ^ p).testBit (k + 1) := by
      rw [Nat.add_div_right _ (Nat.two_pow_pos p), Nat.testBit_succ, Nat.testBit_succ, show (a / 2 ^ p).succ / 2 = a / 2 ^ p / 2 by omega]
    rw [Nat.testBit_div_two_pow, Nat.testBit_div_two_pow] at hsucc
    rw [hsucc, beq_false_of_ne (by omega), Bool.or_false]

/-- The number whose bits are those of a list that are marked. -/
def bitSum (l : List (Nat × Bool)) (a : Nat) : Nat := l.foldl (fun a p => if p.2 then a + 2 ^ p.1 else a) a

theorem testBit_bitSum (i : Nat) (l : List (Nat × Bool)) (a : Nat) (hl : (l.map Prod.fst).Nodup) (ha : ∀ p ∈ l, a.testBit p.1 = false) :
    (bitSum l a).testBit i = (a.testBit i || l.any (fun p => p.2 && p.1 == i)) := by
  induction l generalizing a with
  | nil => simp [bitSum]
  | cons p l ih =>
    obtain ⟨hp, hl⟩ := List.nodup_cons.1 hl
    obtain ⟨hap, hal⟩ := List.forall_mem_cons.1 ha
    show (bitSum l (if p.2 then a + 2 ^ p.1 else a)).testBit i = _
    cases hm : p.2 with
    | false => simp [hm, ih a hl hal]
    | true =>
      have hclear : ∀ q ∈ l, (a + 2 ^ p.1).testBit q.1 = false := fun q hq => by
        have hne : p.1 ≠ q.1 := fun e => hp (e ▸ List.mem_map_of_mem hq)
        rw [testBit_add_two_pow _ _ _ hap, hal q hq, beq_false_of_ne hne, Bool.or_false]
      rw [if_pos rfl, ih _ hl hclear, testBit_add_two_pow _ _ _ hap, List.any_cons, hm, Bool.true_and, Bool.or_assoc]

/-- The channels of the DMCs, with the causes of each. -/
def State.dmcCauses (s : State) : List (Nat × Bool) := (List.range 16).map (fun c => (c, s.causeOn (0x10 + c)))

/-- The bits of ALR_ALERT_SUMMARY, with what sets each. -/
def State.alertCauses (s : State) : List (Nat × Bool) :=
  summaryBlocks.map (fun p => (p.1, s.causeOn p.2)) ++ [(6, s.dmcSummary != 0), (11, s.flag Reg.ALR_LOG_STATUS_OVF), (12, s.isSafe)]

theorem State.dmcSummary_eq (s : State) : s.dmcSummary = bitSum s.dmcCauses 0 := by
  rw [bitSum, State.dmcCauses, List.foldl_map]
  rfl

theorem State.alertSummary_eq (s : State) : s.alertSummary = bitSum s.alertCauses 0 := by
  rw [bitSum, State.alertCauses, List.foldl_append, List.foldl_map]
  cases hd : s.dmcSummary <;> simp [State.alertSummary, hd]

theorem State.testBit_alertSummary (s : State) (i : Nat) : s.alertSummary.testBit i = s.alertCauses.any (fun p => p.2 && p.1 == i) := by
  have hnodup : (s.alertCauses.map Prod.fst).Nodup := by
    have hbits : s.alertCauses.map Prod.fst = [0, 1, 2, 3, 4, 5, 7, 8, 9, 10, 6, 11, 12] := rfl
    rw [hbits]
    decide
  rw [State.alertSummary_eq, testBit_bitSum _ _ _ hnodup (by simp)]
  simp

section Fewer
variable {s u : State} (hc : ∀ b, u.causeOn b = true → s.causeOn b = true)
include hc

/-- Where no DMC had a cause, and there are no more causes, no DMC has one. -/
theorem State.dmcSummary_of_fewer (h : u.dmcSummary ≠ 0) : s.dmcSummary ≠ 0 := by
  have hnodup : ∀ r : State, (r.dmcCauses.map Prod.fst).Nodup := fun r => by
    have hbits : r.dmcCauses.map Prod.fst = List.range 16 := rfl
    rw [hbits]
    exact List.nodup_range
  obtain ⟨i, hi⟩ := Nat.exists_testBit_of_ne_zero h
  rw [State.dmcSummary_eq, testBit_bitSum _ _ _ (hnodup u) (by simp)] at hi
  have hs : s.dmcSummary.testBit i = true := by
    rw [State.dmcSummary_eq, testBit_bitSum _ _ _ (hnodup s) (by simp)]
    simp only [State.dmcCauses, Nat.zero_testBit, Bool.false_or, List.any_map, List.any_eq_true, Function.comp_apply, Bool.and_eq_true] at hi ⊢
    obtain ⟨c, hmem, hon, heq⟩ := hi
    exact ⟨c, hmem, hc _ hon, heq⟩
  intro hz
  simp [hz] at hs

/-- With no more causes, and the log and the safe state as they were, no bit of ALR_ALERT_SUMMARY becomes 1. -/
theorem State.alertSummary_of_fewer (hovf : u.flag Reg.ALR_LOG_STATUS_OVF = s.flag Reg.ALR_LOG_STATUS_OVF) (hsafe : u.isSafe = s.isSafe) (i : Nat)
    (h : u.alertSummary.testBit i = true) : s.alertSummary.testBit i = true := by
  rw [State.testBit_alertSummary] at h ⊢
  simp only [State.alertCauses, List.any_append, List.any_map, Bool.or_eq_true, List.any_cons, List.any_nil, Bool.or_false, hovf, hsafe] at h ⊢
  rcases h with h | h | h
  · obtain ⟨p, hp, hon⟩ := List.any_eq_true.1 h
    simp only [Function.comp_apply, Bool.and_eq_true] at hon
    exact .inl (List.any_eq_true.2 ⟨p, hp, by simpa only [Function.comp_apply, Bool.and_eq_true] using ⟨hc _ hon.1, hon.2⟩⟩)
  · simp only [Bool.and_eq_true, bne_iff_ne] at h
    exact .inr (.inl (by simpa only [Bool.and_eq_true, bne_iff_ne] using ⟨State.dmcSummary_of_fewer hc h.1, h.2⟩))
  · exact .inr (.inr h)

/-- Fewer causes signal nothing. -/
theorem State.alertVector_of_fewer (hovf : u.flag Reg.ALR_LOG_STATUS_OVF = s.flag Reg.ALR_LOG_STATUS_OVF) (hsafe : u.isSafe = s.isSafe)
    (hmask : u.rd Reg.ALR_ALERT_MASK_MASK = s.rd Reg.ALR_ALERT_MASK_MASK) : State.alertVector s u = u := by
  have hnone : u.alertBits &&& (0xFFFF - (s.alertBits &&& 0xFFFF)) = 0 := by
    apply Nat.eq_of_testBit_eq
    intro i
    have hlt : s.alertBits &&& 0xFFFF < 2 ^ 16 := Nat.lt_of_le_of_lt Nat.and_le_right (by decide)
    have hnot : (0xFFFF - (s.alertBits &&& 0xFFFF)).testBit i = (decide (i < 16) && !(s.alertBits &&& 0xFFFF).testBit i) := by
      rw [show 0xFFFF - (s.alertBits &&& 0xFFFF) = 2 ^ 16 - ((s.alertBits &&& 0xFFFF) + 1) by omega, Nat.testBit_two_pow_sub_succ hlt]
    rw [Nat.testBit_and, hnot, Nat.testBit_and, show 0xFFFF = 2 ^ 16 - 1 from rfl, Nat.testBit_two_pow_sub_one, State.alertBits, State.alertBits, hmask, Nat.testBit_and, Nat.testBit_and]
    have hmono := State.alertSummary_of_fewer hc hovf hsafe i
    cases hu : u.alertSummary.testBit i with
    | false => simp
    | true =>
      rw [hmono hu]
      cases (0xFFFF - s.rd Reg.ALR_ALERT_MASK_MASK).testBit i <;> simp
  rw [State.alertVector, if_pos hnone]

end Fewer

/-- A block whose cause bits are some of those it had, its mask unchanged, has an unmasked one only where it had one. -/
theorem State.causeOn_of_fewer {s u : State} (b : Nat) (hmask : u.word (0x2300200 + 4 * b) = s.word (0x2300200 + 4 * b))
    (hword : u.word (0x2300100 + 4 * b) = s.word (0x2300100 + 4 * b) &&& u.word (0x2300100 + 4 * b)) (h : u.causeOn b = true) : s.causeOn b = true := by
  simp only [State.causeOn, bne_iff_ne, hmask] at h ⊢
  intro hz
  apply h
  rw [hword, BitVec.and_comm (s.word _), BitVec.and_assoc, BitVec.and_assoc, ← BitVec.and_assoc (s.word _), hz, BitVec.and_zero]

theorem getLsbD_foldl_or (l : List Nat) (v : Word) (i : Nat) : (l.foldl (fun v k => v ||| (1#32 <<< (k % 256))) v).getLsbD i
    = (v.getLsbD i || (decide (i < 32) && l.any (fun k => k % 256 == i))) := by
  induction l generalizing v with
  | nil => simp
  | cons k l ih =>
    have hone : (1#32 <<< (k % 256)).getLsbD i = (decide (i < 32) && k % 256 == i) := by
      rw [BitVec.getLsbD_shiftLeft, BitVec.getLsbD_one, Bool.eq_iff_iff]
      simp only [Bool.and_eq_true, decide_eq_true_eq, Bool.not_eq_true', decide_eq_false_iff_not, beq_iff_eq]
      omega
    rw [List.foldl_cons, ih, BitVec.getLsbD_or, hone, List.any_cons, Bool.and_or_distrib_left, Bool.or_assoc]

/-- The causes that a write does not clear are those that events of the tick have set (R382). -/
theorem State.getLsbD_causesNow (s : State) (b k : Nat) (hb : b < 0x40) (hk : k < 32) :
    (s.causesNow (0x2300100 + 4 * b)).getLsbD k = (s.mgmt.raisedAt == s.tick && s.mgmt.raised.contains (256 * b + k)) := by
  by_cases ht : s.mgmt.raisedAt = s.tick
  · rw [State.causesNow, if_pos ⟨ht, by omega, by omega⟩, getLsbD_foldl_or, ht, beq_self_eq_true, Bool.true_and, show BitVec.getLsbD (0 : Word) k = false from BitVec.getLsbD_zero, Bool.false_or,
      Bool.eq_iff_iff]
    simp only [hk, decide_true, Bool.true_and, List.any_eq_true, List.mem_filter, beq_iff_eq, List.contains_iff_mem]
    constructor
    · rintro ⟨x, ⟨hx, hblk⟩, hbit⟩
      rwa [show 256 * b + k = x by omega]
    · exact fun hx => ⟨256 * b + k, ⟨hx, by omega⟩, by omega⟩
  · rw [State.causesNow, if_neg (fun h => ht h.1), beq_false_of_ne ht, Bool.false_and]
    exact BitVec.getLsbD_zero

/-- The causes of a block after a write of them: a bit that is written as 1 becomes 0. -/
theorem State.getLsbD_store32_cause (s : State) (d : Reg.RegDef) (off : Nat) (v : Word) (hd : d.fields = causeFields) (k : Nat) (hk : k < 32) :
    ((s.store32 d off v).word off).getLsbD k = ((s.word off).getLsbD k && !(v.getLsbD k && decide (1 ≤ k))) := by
  have hfields : ∀ (l : Bool) (n : Nat) (old w m : BitVec 64), writeFields d l n old w m
      = setBits (setBits old 1 31 (bitsOf (old &&& ~~~(w &&& m)) 1 31)) 1 31 (bitsOf (old &&& ~~~(w &&& m)) 1 31) := fun l n old w m => by
    rw [writeFields, hd]
    rfl
  rw [State.store32, State.word_setWord_same, hfields, BitVec.getLsbD_setWidth, getLsbD_setBits _ _ _ _ _ (by decide), getLsbD_setBits _ _ _ _ _ (by decide)]
  by_cases h1 : 1 ≤ k
  · rw [if_pos ⟨h1, by omega⟩, testBit_bitsOf, show 1 + (k - 1) = k by omega, BitVec.getLsbD_and, BitVec.getLsbD_not, BitVec.getLsbD_and, getLsbD_lowWord k (by omega)]
    simp [hk, h1, show k - 1 < 31 by omega, show k < 64 by omega]
  · rw [if_neg (fun h => h1 h.1), if_neg (fun h => h1 h.1)]
    simp [hk, h1, show k < 64 by omega]

/-- A field of a group's control word is read from that word. -/
theorem State.rd_ctlFld (s : State) (g lo w : Nat) (h : lo % 32 + w ≤ 32 ∧ lo < 32) : s.rd (ctlFld g lo w) = bitsOf (s.word (0x2200000 + 0x100 * g)) lo w := by
  rw [State.rd_in _ _ h.1]
  simp only [ctlFld, Nat.div_eq_of_lt h.2, Nat.mod_eq_of_lt h.2, Nat.mul_zero, Nat.add_zero]

/-- The word that CAT_GROUP_CLEAR writes leaves EN and FREEZE as they are. -/
theorem bitsOf_groupClearWord (w : Word) (lo : Nat) (h : lo = 0 ∨ lo = 1) : bitsOf ((w &&& 0x3FB#32) ||| 4#32) lo 1 = bitsOf w lo 1 := by
  apply Nat.eq_of_testBit_eq
  intro i
  rw [testBit_bitsOf, testBit_bitsOf]
  by_cases hi : i < 1
  · obtain rfl : i = 0 := by omega
    rcases h with rfl | rfl <;> simp
  · simp [hi]

/-! ### The sampler -/

/-- A write of a field keeps to the words that its own is among. -/
theorem OnlyWords.wr {s t : State} {l : List Nat} (h : OnlyWords s t l) (f : Reg.Fld) (x : Nat) (hin : f.lo % 32 + f.w ≤ 32) (hl : f.off + 4 * (f.lo / 32) ∈ l) :
    OnlyWords s (t.wr f x) l := by
  obtain ⟨heq, hwords⟩ := h
  refine ⟨?_, fun o ho => ?_⟩
  · rw [State.wr_eq_withRegs]
    generalize (t.wr f x).regs = r
    rw [heq]
  · rw [State.word_wr_in _ _ _ _ hin (fun (e : o = _) => ho (e ▸ hl)), hwords o ho]

/-- The sampler's control after a write of ENABLE and CLASS. -/
def State.sampClass (s : State) (v : Word) : State :=
  if bitsOf v 8 8 < 64 ∨ bitsOf v 8 8 = 255 then (s.wr Reg.CAT_SAMP_CTL_ENABLE (bitsOf v 0 1)).wr Reg.CAT_SAMP_CTL_CLASS (bitsOf v 8 8) else s.wr Reg.CAT_SAMP_CTL_ENABLE (bitsOf v 0 1)

section Sampler
variable (s : State) (v : Word)

theorem State.sampCtl_eq : s.sampCtl v = ((s.sampClass v).wr Reg.CAT_SAMP_CTL_PERIOD (max 1 (bitsOf v 16 16))).sampRestart := rfl

theorem State.rd_sampCtl (f : Reg.Fld) : (s.sampCtl v).rd f = ((s.sampClass v).wr Reg.CAT_SAMP_CTL_PERIOD (max 1 (bitsOf v 16 16))).rd f := rfl

theorem State.period_sampCtl : (s.sampCtl v).rd Reg.CAT_SAMP_CTL_PERIOD = max 1 (bitsOf v 16 16) := by
  rw [State.rd_sampCtl, State.rd_wr_same _ _ _ (by decide)]
  exact Nat.mod_eq_of_lt (Nat.max_lt.2 ⟨by decide, Nat.mod_lt _ (by decide)⟩)

theorem State.enable_sampCtl : (s.sampCtl v).rd Reg.CAT_SAMP_CTL_ENABLE = bitsOf v 0 1 := by
  have hen : (s.wr Reg.CAT_SAMP_CTL_ENABLE (bitsOf v 0 1)).rd Reg.CAT_SAMP_CTL_ENABLE = bitsOf v 0 1 := by
    rw [State.rd_wr_same _ _ _ (by decide)]
    exact Nat.mod_eq_of_lt (Nat.mod_lt _ (by decide))
  rw [State.rd_sampCtl, State.rd_wr_other _ _ _ _ (by decide) (by decide) (by decide), State.sampClass]
  split
  · rw [State.rd_wr_other _ _ _ _ (by decide) (by decide) (by decide), hen]
  · exact hen

theorem State.class_sampCtl : (s.sampCtl v).rd Reg.CAT_SAMP_CTL_CLASS = if bitsOf v 8 8 < 64 ∨ bitsOf v 8 8 = 255 then bitsOf v 8 8 else s.rd Reg.CAT_SAMP_CTL_CLASS := by
  rw [State.rd_sampCtl, State.rd_wr_other _ _ _ _ (by decide) (by decide) (by decide), State.sampClass]
  split
  · rw [State.rd_wr_same _ _ _ (by decide)]
    exact Nat.mod_eq_of_lt (Nat.mod_lt _ (by decide))
  · rw [State.rd_wr_other _ _ _ _ (by decide) (by decide) (by decide)]

theorem State.sampCtl_onlyWords : OnlyWords { s with cat := { s.cat with matched := 0 } } (s.sampCtl v) [0x2202000] := by
  have hen : OnlyWords s (s.wr Reg.CAT_SAMP_CTL_ENABLE (bitsOf v 0 1)) [0x2202000] := State.wr_onlyWords _ _ _ (by decide)
  have hclass : OnlyWords s (s.sampClass v) [0x2202000] := by
    rw [State.sampClass]
    split
    · exact hen.wr _ _ (by decide) (by decide)
    · exact hen
  obtain ⟨heq, hwords⟩ := hclass.wr Reg.CAT_SAMP_CTL_PERIOD (max 1 (bitsOf v 16 16)) (by decide) (by decide)
  exact ⟨by rw [State.sampCtl_eq, heq]; rfl, hwords⟩

end Sampler

/-! ### Each command, once its source's view is full -/

section Commands
variable {a : Agent} {s₀ s : State} (hs : s = s₀.crossLink a) (hv : s.view a = .full)
include hs hv

/-- DIR_PROBE_START. -/
theorem exec_dirProbeStart (hi : Word) : ∃ t, exec (.dirProbeStart a hi) s₀ = .next t ∧ t.flag Reg.DIR_PROBE_DATA_DONE = false
    ∧ t.dir.probe = some (t.rd Reg.DIR_PROBE_ADDR_LINE) ∧ Tbl.look t.heldLow 0x600010 = none
    ∧ t = { s with regs := t.regs, heldLow := t.heldLow, dir := { s.dir with probe := t.dir.probe } } := by
  refine ⟨s.regWrite (pairOf a) 0x600014 hi, ?_, State.regWrite_probe s (pairOf a) hi _ rfl⟩
  show Host.Outcome.next ((s₀.crossLink a).put32 a 0x600014 hi) = _
  rw [← hs, State.put32_full hv (by decide) (by decide)]

/-- PRS_Q_TAIL_WRITE of an enabled queue. -/
theorem exec_prsQTailWrite (q : Fin 64) (v : Word) (hen : s.flag (Reg.PRS_Q_CFG_EN q.val) = true) (hsize : s.rd (Reg.PRS_Q_CFG_LOG2_SIZE q.val) ≤ 12) :
    ∃ t, exec (.prsQTailWrite a q v) s₀ = .next t ∧ OnlyWords s t [0x40100C + 0x20 * q.val]
      ∧ t.rd (Reg.PRS_Q_TAIL_TAIL q.val) = v.toNat % 4096 % 2 ^ s.rd (Reg.PRS_Q_CFG_LOG2_SIZE q.val) := by
  obtain ⟨d, hput⟩ := State.put32_wordAt hv (off := 0x40100C + 0x20 * q.val) (by omega) (by omega) (wordAt_queueTail q.val q.isLt) v
  have htail : (Reg.PRS_Q_TAIL_TAIL q.val).lo % 32 + (Reg.PRS_Q_TAIL_TAIL q.val).w ≤ 32 := by simp [Reg.PRS_Q_TAIL_TAIL]
  have hplace : (Reg.PRS_Q_TAIL_TAIL q.val).off + 4 * ((Reg.PRS_Q_TAIL_TAIL q.val).lo / 32) = 0x40100C + 0x20 * q.val := by simp [Reg.PRS_Q_TAIL_TAIL]
  have hlt : bitsOf v 0 12 % s.qSize q.val < 2 ^ (Reg.PRS_Q_TAIL_TAIL q.val).w :=
    Nat.lt_of_lt_of_le (Nat.mod_lt _ (Nat.two_pow_pos _)) (Nat.pow_le_pow_right (by decide) hsize)
  refine ⟨s.wr (Reg.PRS_Q_TAIL_TAIL q.val) (bitsOf v 0 12 % s.qSize q.val), ?_, hplace ▸ State.wr_onlyWords _ _ _ htail, ?_⟩
  · show Host.Outcome.next ((s₀.crossLink a).put32 a (0x40100C + 0x20 * q.val) v) = _
    rw [← hs, hput, State.regStore_queueTail _ _ _ q.isLt, State.postTail, if_pos hen]
  · rw [State.rd_wr_same _ _ _ htail, Nat.mod_eq_of_lt hlt, State.qSize, bitsOf, BitVec.ushiftRight_zero, show (2 : Nat) ^ 12 = 4096 from rfl]

/-- GTH_REGISTER_WRITE. -/
theorem exec_gthRegisterWrite (off : BitVec 26) (v : Word) (d : Reg.RegDef) (i : Nat) (h4 : off.toNat % 4 = 0) (hlo : 0x2100000 ≤ off.toNat) (hhi : off.toNat < 0x2200000)
    (hf : Reg.find off.toNat = some (d, i)) (hd : d.size = 4) :
    exec (.gthRegisterWrite a off v) s₀ = .next (if s.flag Reg.GLB_CLK_STATUS_GTH_LINK_UP then s.withWrites [(off.toNat, v)] else s) := by
  show Host.Outcome.next (if 0x2100000 ≤ off.toNat ∧ off.toNat < 0x2200000 then (s₀.crossLink a).put32 a off.toNat v else s₀) = _
  rw [if_pos ⟨hlo, hhi⟩, ← hs, State.put32_word hv h4 (by omega) hf hd, State.regStore_gatehouse _ _ _ hlo hhi]
  rfl

/-- CAT_GROUP_CLEAR. -/
theorem exec_catGroupClear (g : Fin 16) : ∃ t, exec (.catGroupClear a g) s₀ = .next t
    ∧ t.rd (Reg.CAT_GRP_TICKS_TICKS g.val) = 0 ∧ (∀ k, k < 8 → t.rd (Reg.CAT_GRP_CNT_COUNT g.val k) = 0) ∧ t.rd (Reg.CAT_GRP_CTL_OVF g.val) = 0
    ∧ t.flag (Reg.CAT_GRP_CTL_TICK_OVF g.val) = false ∧ t.rd (Reg.CAT_GRP_CTL_EN g.val) = s.rd (Reg.CAT_GRP_CTL_EN g.val)
    ∧ t.rd (Reg.CAT_GRP_CTL_FREEZE g.val) = s.rd (Reg.CAT_GRP_CTL_FREEZE g.val) ∧ (∀ k, k < 8 → t.evsel g.val k = s.evsel g.val k)
    ∧ t = { s with regs := t.regs, cat := { s.cat with holds := Tbl.put s.cat.holds (128 + g.val) (s.tick + 1) } } := by
  obtain ⟨g, hg⟩ := g
  have hput := State.put32_word hv (off := 0x2200000 + 0x100 * g) (by omega) (by omega) (find_groupCtl g hg) rfl ((s.word (0x2200000 + 0x100 * g) &&& 0x3FB#32) ||| 4#32)
  generalize hw : (s.word (0x2200000 + 0x100 * g) &&& 0x3FB#32) ||| 4#32 = w at hput
  have hclear : w.getLsbD 2 = true := by rw [← hw]; simp
  have hkeep : ∀ lo, (lo = 0 ∨ lo = 1) → (s.store32 groupCtlDef (0x2200000 + 0x100 * g) w).rd (ctlFld g lo 1) = s.rd (ctlFld g lo 1) := fun lo hlo => by
    have hfield : Reg.f lo 1 .rw ∈ groupCtlDef.fields ∧ bitsOf w lo 1 = bitsOf (s.word (0x2200000 + 0x100 * g)) lo 1 := by
      rw [← hw]
      rcases hlo with rfl | rfl
      · exact ⟨by decide, bitsOf_groupClearWord _ 0 (.inl rfl)⟩
      · exact ⟨by decide, bitsOf_groupClearWord _ 1 (.inr rfl)⟩
    rw [State.rd_ctlFld _ _ _ _ (by omega), State.rd_ctlFld _ _ _ _ (by omega), State.bitsOf_store32_rw _ _ _ _ _ _ (by omega) (by decide) hfield.1, hfield.2]
  have hother : ∀ k, k < 8 → (s.store32 groupCtlDef (0x2200000 + 0x100 * g) w).evsel g k = s.evsel g k := fun k hk =>
    State.rd_congr_in (evselFld g k) (evselFld_oneWord g k) (State.word_setWord_other _ _ _ _ (by simp only [evselFld]; omega))
  refine ⟨(s.store32 groupCtlDef (0x2200000 + 0x100 * g) w).groupClear g, ?_, State.ticks_groupClear _ _, fun k hk => State.count_groupClear _ _ k hk, State.ovf_groupClear _ _,
    State.tickOvf_groupClear _ _, ?_, ?_, ?_, (((RegsAndHolds.refl s).store32 _ _ _).groupClear g)⟩
  · show Host.Outcome.next ((s₀.crossLink a).put32 a (0x2200000 + 0x100 * g) (((s₀.crossLink a).word (0x2200000 + 0x100 * g) &&& 0x3FB#32) ||| 4#32)) = _
    rw [← hs, hw, hput, show 0x2200000 + 0x100 * g = 0x2200000 + 0x100 * g + 0 from rfl, State.regStore_group _ _ _ hg (by decide), if_pos rfl, State.grpCtl, if_pos hclear,
      show (0x2200000 + 0x100 * g + 0 - 0x2200000) / 0x100 = g by omega]
  · exact (State.rd_groupClear_ctl _ g 0 1 (by decide)).trans (hkeep 0 (.inl rfl))
  · exact (State.rd_groupClear_ctl _ g 1 1 (by decide)).trans (hkeep 1 (.inr rfl))
  · exact fun k hk => (State.evsel_groupClear _ _ _ hk).trans (hother k hk)

/-- CAT_EVSEL_WRITE of two events of Table 16.1. -/
theorem exec_catEvselWrite (g : Fin 16) (j : Fin 4) (v : Word) (hlo : eventLegal (bitsOf v 0 16) = true) (hhi : eventLegal (bitsOf v 16 16) = true) :
    ∃ t, exec (.catEvselWrite a g j v) s₀ = .next t ∧ t.evsel g.val (2 * j.val) = bitsOf v 0 16 ∧ t.evsel g.val (2 * j.val + 1) = bitsOf v 16 16
      ∧ t.rd (Reg.CAT_GRP_CNT_COUNT g.val (2 * j.val)) = 0 ∧ t.rd (Reg.CAT_GRP_CNT_COUNT g.val (2 * j.val + 1)) = 0
      ∧ t = { s with regs := t.regs, cat := { s.cat with holds := Tbl.put (Tbl.put s.cat.holds (8 * g.val + 2 * j.val) (s.tick + 1)) (8 * g.val + (2 * j.val + 1)) (s.tick + 1) } } := by
  obtain ⟨g, hg⟩ := g
  obtain ⟨j, hj⟩ := j
  obtain ⟨d, hput⟩ := State.put32_wordAt hv (off := 0x2200008 + 0x100 * g + 4 * j) (by omega) (by omega) (wordAt_groupEvsel g hg j hj) v
  have h16 : ∀ lo, bitsOf v lo 16 < 2 ^ 16 := fun lo => Nat.mod_lt _ (by decide)
  refine ⟨(s.setEvsel g (2 * j) (bitsOf v 0 16)).setEvsel g (2 * j + 1) (bitsOf v 16 16), ?_, ?_, State.evsel_setEvsel_same _ _ _ _ hhi (by omega) (h16 16), ?_,
    State.count_setEvsel_same _ _ _ _ hhi, ((RegsAndHolds.refl s).setEvsel _ g (2 * j) _ hlo).setEvsel _ g (2 * j + 1) _ hhi⟩
  · show Host.Outcome.next ((s₀.crossLink a).put32 a (0x2200008 + 0x100 * g + 4 * j) v) = _
    rw [← hs, hput, show 0x2200008 + 0x100 * g + 4 * j = 0x2200000 + 0x100 * g + (8 + 4 * j) by omega, State.regStore_group _ _ _ hg (by omega), if_neg (by omega), if_pos (by omega),
      show (8 + 4 * j - 8) / 4 = j by omega, State.evselWrite]
  · rw [State.evsel_setEvsel_other _ _ _ _ hhi _ (by omega) (by omega), State.evsel_setEvsel_same _ _ _ _ hlo (by omega) (h16 0)]
  · rw [State.count_setEvsel_other _ _ _ _ hhi _ (by omega) (by omega), State.count_setEvsel_same _ _ _ _ hlo]

/-- CAT_SAMP_CONFIG_WRITE of the sampler's control. -/
theorem exec_catSampConfigWrite_ctl (v : Word) : ∃ t, exec (.catSampConfigWrite a false v) s₀ = .next t
    ∧ t.rd Reg.CAT_SAMP_CTL_ENABLE = bitsOf v 0 1 ∧ t.rd Reg.CAT_SAMP_CTL_PERIOD = max 1 (bitsOf v 16 16)
    ∧ t.rd Reg.CAT_SAMP_CTL_CLASS = (if bitsOf v 8 8 < 64 ∨ bitsOf v 8 8 = 255 then bitsOf v 8 8 else s.rd Reg.CAT_SAMP_CTL_CLASS)
    ∧ OnlyWords { s with cat := { s.cat with matched := 0 } } t [0x2202000] := by
  obtain ⟨d, hput⟩ := State.put32_wordAt hv (by decide) (by decide) wordAt_sampling.1 v
  refine ⟨s.sampCtl v, ?_, State.enable_sampCtl s v, State.period_sampCtl s v, State.class_sampCtl s v, State.sampCtl_onlyWords s v⟩
  show Host.Outcome.next ((s₀.crossLink a).put32 a 0x2202000 v) = _
  rw [← hs, hput, State.regStore_sampCtl]

/-- CAT_SAMP_CONFIG_WRITE of the heads that are sampled. -/
theorem exec_catSampConfigWrite_heads (v : Word) : ∃ t, exec (.catSampConfigWrite a true v) s₀ = .next t
    ∧ t.rd Reg.CAT_SAMP_HEADS_HEAD_MASK = bitsOf v 0 16 ∧ OnlyWords { s with cat := { s.cat with matched := 0 } } t [0x2202004] := by
  obtain ⟨d, hput⟩ := State.put32_wordAt hv (by decide) (by decide) wordAt_sampling.2.1 v
  have hin : Reg.CAT_SAMP_HEADS_HEAD_MASK.lo % 32 + Reg.CAT_SAMP_HEADS_HEAD_MASK.w ≤ 32 := by decide
  refine ⟨s.sampHeads v, ?_, ?_, ?_⟩
  · show Host.Outcome.next ((s₀.crossLink a).put32 a 0x2202004 v) = _
    rw [← hs, hput, State.regStore_sampHeads]
  · show (s.wr Reg.CAT_SAMP_HEADS_HEAD_MASK (bitsOf v 0 16)).rd Reg.CAT_SAMP_HEADS_HEAD_MASK = _
    rw [State.rd_wr_same _ _ _ hin]
    exact Nat.mod_eq_of_lt (Nat.mod_lt _ (by decide))
  · obtain ⟨heq, hwords⟩ := State.wr_onlyWords s Reg.CAT_SAMP_HEADS_HEAD_MASK (bitsOf v 0 16) hin
    exact ⟨by rw [State.sampHeads, heq]; rfl, hwords⟩

/-- CAT_GATHER_START. -/
theorem exec_catGatherStart : exec (.catGatherStart a) s₀ = .next (s.trigger 1 4) := by
  obtain ⟨d, hput⟩ := State.put32_wordAt hv (by decide) (by decide) wordAt_sampling.2.2 1
  show Host.Outcome.next ((s₀.crossLink a).put32 a 0x2203000 1) = _
  rw [← hs, hput, State.regStore_gather]

/-- ALR_CAUSE_CLEAR of a block of Table 0.6. -/
theorem exec_alrCauseClear (blk : BitVec 8) (v : Word) (hblk : 1 ≤ blk.toNat ∧ blk.toNat ≤ 6 ∨ 0x10 ≤ blk.toNat ∧ blk.toNat ≤ 0x23) :
    ∃ t, exec (.alrCauseClear a blk v) s₀ = .next t ∧ (∀ k, k < 32 → (t.word (0x2300100 + 4 * blk.toNat)).getLsbD k = ((s.word (0x2300100 + 4 * blk.toNat)).getLsbD k
        && !(v.getLsbD k && decide (1 ≤ k) && !(s.mgmt.raisedAt == s.tick && s.mgmt.raised.contains (256 * blk.toNat + k)))))
      ∧ OnlyWords s t [0x2300100 + 4 * blk.toNat] := by
  generalize hb : blk.toNat = b at hblk
  obtain ⟨d, i, hf, hsize, hfields⟩ := find_cause b (by omega) hblk
  generalize hoff : 0x2300100 + 4 * b = off at hf
  have hword : ∀ k, k < 32 → ((s.store32 d off (v &&& ~~~(s.causesNow off))).word off).getLsbD k = ((s.word off).getLsbD k
      && !(v.getLsbD k && decide (1 ≤ k) && !(s.mgmt.raisedAt == s.tick && s.mgmt.raised.contains (256 * b + k)))) := fun k hk => by
    rw [State.getLsbD_store32_cause _ _ _ _ hfields k hk, BitVec.getLsbD_and, BitVec.getLsbD_not, ← hoff, State.getLsbD_causesNow _ _ _ (by omega) hk, decide_eq_true hk, Bool.true_and,
      Bool.and_right_comm]
  have honly : OnlyWords s (s.store32 d off (v &&& ~~~(s.causesNow off))) [off] := ⟨rfl, fun o ho => State.word_setWord_other _ _ _ _ (by simpa using ho)⟩
  generalize hu : s.store32 d off (v &&& ~~~(s.causesNow off)) = u at hword honly
  have hkept : ∀ o, o ≠ off → u.word o = s.word o := fun o ho => honly.2 o (by simpa using ho)
  have hfewer : u.word off = s.word off &&& u.word off := by
    apply BitVec.eq_of_getLsbD_eq
    intro k hk
    rw [BitVec.getLsbD_and, hword k hk]
    cases (s.word off).getLsbD k <;> simp
  have hcause : ∀ c, u.causeOn c = true → s.causeOn c = true := fun c hc => by
    refine State.causeOn_of_fewer c (hkept _ (by omega)) ?_ hc
    by_cases hcb : 0x2300100 + 4 * c = off
    · rw [hcb]
      exact hfewer
    · rw [hkept _ hcb, BitVec.and_self]
  have hrd : ∀ f : Reg.Fld, f.lo % 32 + f.w ≤ 32 → f.off + 4 * (f.lo / 32) < 0x2300100 → u.rd f = s.rd f := fun f hin hlt => State.rd_congr_in f hin (hkept _ (by omega))
  refine ⟨u, ?_, hword, honly⟩
  show Host.Outcome.next (if blk.toNat < 0x40 then (s₀.crossLink a).put32 a (0x2300100 + 4 * blk.toNat) v else s₀) = _
  rw [if_pos (by omega), hb, hoff, ← hs, State.put32_word hv (by omega) (by omega) hf hsize, State.regStore_alerts _ _ _ (by omega) (by omega), hu,
    State.alertVector_of_fewer hcause]
  · rw [State.flag, State.flag, hrd _ (by decide) (by decide)]
  · rw [State.isSafe, State.isSafe, State.wdn, State.wdn, hrd _ (by decide) (by decide)]
  · exact hrd _ (by decide) (by decide)

end Commands

/-- Settles O25: each command is the write of its register, whose effect is said above. -/
theorem singleRegisterCommandsTakeEffect : Obligations.SingleRegisterCommandsTakeEffect := by
  unfold Obligations.SingleRegisterCommandsTakeEffect
  exact ⟨fun a hi s₀ s hs hv => exec_dirProbeStart hs hv hi, fun a q v s₀ s hs hv hen hsize => exec_prsQTailWrite hs hv q v hen hsize,
    fun a off v s₀ s d i hs hv h4 hlo hhi hf hd => exec_gthRegisterWrite hs hv off v d i h4 hlo hhi hf hd, fun a g s₀ s hs hv => exec_catGroupClear hs hv g,
    fun a g j v s₀ s hs hv hlo hhi => exec_catEvselWrite hs hv g j v hlo hhi, fun a v s₀ s hs hv => exec_catSampConfigWrite_ctl hs hv v,
    fun a v s₀ s hs hv => exec_catSampConfigWrite_heads hs hv v, fun a s₀ s hs hv => exec_catGatherStart hs hv, fun a blk v s₀ s hs hv hblk => exec_alrCauseClear hs hv blk v hblk,
    fun a p s => rfl⟩

end Sys2Proof.Machine
end

section
/-! A slice's arbiter and a request that stands alone (R22, R23, R53, R56, R57, R71, R78, R95, R101 to R106, R131; Table 4.4). -/
namespace Sys2Proof.Machine

/-! ### What the counters of a slice leave alone -/

/-- A state beside another: registers of the counter groups, the stations and the QoS accounts differ, but no bit that enables a channel. -/
structure Aside (s t : State) : Prop where
  eq : t = { s with regs := t.regs, cat := t.cat, qos := t.qos }
  word : ∀ off, off < 0x2200000 ∨ 0x2201000 ≤ off → t.word off = s.word off
  en : ∀ c, t.rd (Reg.DMC_CFG_EN c) = s.rd (Reg.DMC_CFG_EN c)

theorem Aside.refl (s : State) : Aside s s := ⟨rfl, fun _ _ => rfl, fun _ => rfl⟩

theorem Aside.trans {s t u : State} (h : Aside s t) (k : Aside t u) : Aside s u where
  eq := by rw [k.eq, h.eq]
  word off ho := (k.word off ho).trans (h.word off ho)
  en c := (k.en c).trans (h.en c)

/-- A loop keeps a channel's enable bit when each of its rounds does. -/
theorem State.rd_foldl {α : Type} {f : State → α → State} (g : Reg.Fld) {l : List α} (s : State) (hf : ∀ t, ∀ x ∈ l, (f t x).rd g = t.rd g) : (l.foldl f s).rd g = s.rd g := by
  induction l generalizing s with
  | nil => rfl
  | cons x xs ih => exact (ih (f s x) (fun t y hy => hf t y (List.mem_cons_of_mem x hy))).trans (hf s x (by simp))

/-- No counter lies in the word that enables a channel, and no overflow bit is its bit 0. -/
theorem State.chanEn_addCnt (s : State) (g k n c : Nat) (hk : k < 8) : (s.addCnt g k n).rd (Reg.DMC_CFG_EN c) = s.rd (Reg.DMC_CFG_EN c) := by
  have hcount : ∀ x, (s.wr (Reg.CAT_GRP_CNT_COUNT g k) x).rd (Reg.DMC_CFG_EN c) = s.rd (Reg.DMC_CFG_EN c) := fun x =>
    State.rd_wr_apart _ _ _ _ (by simp only [apart, Reg.CAT_GRP_CNT_COUNT, Reg.DMC_CFG_EN]; omega)
  unfold State.addCnt
  dsimp only
  split
  · exact hcount _
  · refine (State.rd_wr_other _ _ _ _ ?_ ?_ ?_).trans (hcount _)
    · simp [Reg.CAT_GRP_CTL_OVF]
    · simp [Reg.DMC_CFG_EN]
    · simp [Reg.CAT_GRP_CTL_OVF, Reg.DMC_CFG_EN]

theorem State.chanEn_cnt (s : State) (ev : Nat) (sc : Scope) (n c : Nat) : (s.cnt ev sc n).rd (Reg.DMC_CFG_EN c) = s.rd (Reg.DMC_CFG_EN c) := by
  refine State.rd_foldl _ s fun t g _ => ?_
  unfold State.cntGroup
  split
  · refine State.rd_foldl _ t fun u k hk => ?_
    split
    · exact State.chanEn_addCnt u g k n c (List.mem_range.1 hk)
    · rfl
  · rfl

theorem Aside.cnt (s : State) (ev : Nat) (sc : Scope) (n : Nat) : Aside s (s.cnt ev sc n) where
  eq := by rw [(Counted.cnt s ev sc n).eq]
  word := (Counted.cnt s ev sc n).word
  en c := State.chanEn_cnt s ev sc n c

theorem Aside.stn (s : State) (a w n : Nat) : Aside s (s.stn a w n) := ⟨rfl, fun _ _ => rfl, fun _ => rfl⟩

theorem Aside.updAcct (s : State) (c : Nat) (f : ClassAcct → ClassAcct) : Aside s (s.updAcct c f) := ⟨rfl, fun _ _ => rfl, fun _ => rfl⟩

theorem Aside.noteWait (s : State) (q : Req) : Aside s (s.noteWait q) := by
  unfold State.noteWait
  split
  · exact Aside.refl s
  · dsimp only
    split
    · exact Aside.updAcct ..
    · split
      · exact Aside.updAcct ..
      · exact Aside.refl s

section Keeps
variable {s t : State} (h : Aside s t)
include h

theorem Aside.out : t.out = s.out := by rw [h.eq]
theorem Aside.tick : t.tick = s.tick := by rw [h.eq]
theorem Aside.dir : t.dir = s.dir := by rw [h.eq]
theorem Aside.path : t.path = s.path := by rw [h.eq]
theorem Aside.media : t.media = s.media := by rw [h.eq]
theorem Aside.place : t.place = s.place := by rw [h.eq]
theorem Aside.boot : t.boot = s.boot := by rw [h.eq]
theorem Aside.sec : t.sec = s.sec := by rw [h.eq]
theorem Aside.mgmt : t.mgmt = s.mgmt := by rw [h.eq]
theorem Aside.regionAt (p : Nat) : t.regionAt p = s.regionAt p := by rw [h.eq]; rfl
theorem Aside.isDb (p : Nat) : t.isDb p = s.isDb p := by rw [h.eq]; rfl
theorem Aside.guard (p : Nat) : t.guard p = s.guard p := by rw [h.eq]; rfl
theorem Aside.mapper (g u : Nat) : t.mapper g u = s.mapper g u := by rw [h.eq]; rfl
theorem Aside.ld? (i : Nat) : t.ld? i = s.ld? i := by rw [h.eq]; rfl
theorem Aside.ldIdOf (g i : Nat) : t.ldIdOf g i = s.ldIdOf g i := by rw [h.eq]; rfl
theorem Aside.entry? (line : Nat) : t.entry? line = s.entry? line := by rw [h.eq]; rfl
theorem Aside.metaAddr (k : MetaKind) (n : Nat) : t.metaAddr k n = s.metaAddr k n := by rw [h.eq]; rfl
theorem Aside.metaPending (k : MetaKind) (n : Nat) : t.metaPending k n = s.metaPending k n := by rw [h.eq]; rfl

/-- A register field of one word outside the counter groups. -/
theorem Aside.rd (f : Reg.Fld) (hf : f.lo % 32 + f.w ≤ 32) (ho : f.off + 4 * (f.lo / 32) < 0x2200000 ∨ 0x2201000 ≤ f.off + 4 * (f.lo / 32)) : t.rd f = s.rd f :=
  State.rd_congr_in f hf (h.word _ ho)

theorem Aside.chanLost (c : Nat) : t.flag (Reg.DMC_FAULT_LOST c) = s.flag (Reg.DMC_FAULT_LOST c) := by
  rw [State.flag, State.flag, h.rd _ (by simp [Reg.DMC_FAULT_LOST]) (by simp only [Reg.DMC_FAULT_LOST]; omega)]

theorem Aside.chLive (c : Nat) : t.chLive c = s.chLive c := by
  have hen : t.flag (Reg.DMC_CFG_EN c) = s.flag (Reg.DMC_CFG_EN c) := by rw [State.flag, State.flag, h.en]
  rw [State.chLive, State.chLive, h.chanLost, hen]

theorem Aside.acc (p : Nat) : t.acc p = s.acc p := by
  have hmeta : t.metaLost (p / 8) = s.metaLost (p / 8) := by
    rw [State.metaLost, State.metaLost, h.chanLost]
    simp only [State.metaChan, h.boot]
  simp only [State.acc, State.accDefault, h.place, hmeta]

theorem Aside.srcForm (p : Nat) : t.srcForm p = s.srcForm p := by
  simp only [State.srcForm, State.slotOf, h.acc, h.place]

theorem Aside.isSafe : t.isSafe = s.isSafe := by
  rw [State.isSafe, State.isSafe, State.wdn, State.wdn, h.rd _ (by decide) (by decide)]

theorem Aside.linkUp (g : Nat) (hg : g < 16) : t.linkUp g = s.linkUp g := by
  rw [State.linkUp, State.linkUp, State.flag, State.flag, h.rd _ (by simp [Reg.GLB_HEAD_STATUS_LINK_UP]) (by simp only [Reg.GLB_HEAD_STATUS_LINK_UP]; omega)]

theorem Aside.pstate (g : Nat) (hg : g < 16) : t.rd (Reg.GLB_HEAD_STATUS_PSTATE g) = s.rd (Reg.GLB_HEAD_STATUS_PSTATE g) :=
  h.rd _ (by simp [Reg.GLB_HEAD_STATUS_PSTATE]) (by simp only [Reg.GLB_HEAD_STATUS_PSTATE]; omega)

theorem Aside.snoopable (g line : Nat) (hg : g < 16) : t.snoopable g line = s.snoopable g line := by
  simp only [State.snoopable, State.abruptWalk, h.mapper, h.linkUp g hg, h.dir, h.ld?]

end Keeps

/-! ### What the end of a request leaves alone -/

/-- A state in which what has left the block, the directory, the media and the requests in service are those of another. -/
structure TrafficKept (s t : State) : Prop where
  out : t.out = s.out
  dir : t.dir = s.dir
  media : t.media = s.media
  path : t.path = s.path

theorem TrafficKept.refl (s : State) : TrafficKept s s := ⟨rfl, rfl, rfl, rfl⟩

theorem TrafficKept.trans {s t u : State} (h : TrafficKept s t) (k : TrafficKept t u) : TrafficKept s u :=
  ⟨k.out.trans h.out, k.dir.trans h.dir, k.media.trans h.media, k.path.trans h.path⟩

theorem Aside.trafficKept {s t : State} (h : Aside s t) : TrafficKept s t := ⟨h.out, h.dir, h.media, h.path⟩

theorem TrafficKept.cnt (s : State) (ev : Nat) (sc : Scope) (n : Nat) : TrafficKept s (s.cnt ev sc n) := (Aside.cnt s ev sc n).trafficKept

theorem TrafficKept.wr (s : State) (f : Reg.Fld) (x : Nat) : TrafficKept s (s.wr f x) := ⟨State.wr_out .., State.wr_dir .., State.wr_media .., State.wr_path ..⟩

theorem TrafficKept.inc (s : State) (f : Reg.Fld) (n : Nat) : TrafficKept s (s.inc f n) := TrafficKept.wr ..

theorem TrafficKept.updLd (s : State) (i : Nat) (f : Ld → Ld) : TrafficKept s (s.updLd i f) := ⟨rfl, rfl, rfl, rfl⟩

theorem TrafficKept.updAcct (s : State) (c : Nat) (f : ClassAcct → ClassAcct) : TrafficKept s (s.updAcct c f) := ⟨rfl, rfl, rfl, rfl⟩

theorem TrafficKept.setAcc (s : State) (p : Nat) (a : Acc) : TrafficKept s (s.setAcc p a) := ⟨rfl, rfl, rfl, rfl⟩

theorem TrafficKept.foldl {α : Type} {f : State → α → State} {l : List α} (s : State) (hf : ∀ t x, TrafficKept t (f t x)) : TrafficKept s (l.foldl f s) := by
  induction l generalizing s with
  | nil => exact TrafficKept.refl s
  | cons x xs ih => exact (hf s x).trans (ih (f s x))

theorem TrafficKept.putRecord (s : State) (e rec : Nat) : TrafficKept s (s.putRecord e rec) := TrafficKept.foldl s fun _ _ => ⟨rfl, rfl, rfl, rfl⟩

theorem TrafficKept.sample (s : State) (t : Txn) (h : Nat) (f : Ending) : TrafficKept s (s.sample t h f) := by
  unfold State.sample
  split
  · dsimp only
    have hring := ((TrafficKept.putRecord s (s.rd Reg.CAT_SAMP_STATUS_NEXT) (s.sampleWord t h f)).trans (TrafficKept.inc _ Reg.CAT_SAMP_TOTAL_TOTAL 1)).trans
      (TrafficKept.wr _ Reg.CAT_SAMP_STATUS_NEXT ((s.rd Reg.CAT_SAMP_STATUS_NEXT + 1) % 4096))
    split
    · exact hring.trans (TrafficKept.wr ..)
    · exact hring
  · exact TrafficKept.refl s

theorem TrafficKept.account (s : State) (q : Req) : TrafficKept s (s.account q) := by
  unfold State.account
  split
  · exact TrafficKept.refl s
  · dsimp only
    split
    · exact ((TrafficKept.updAcct ..).trans (TrafficKept.wr ..)).trans (TrafficKept.updAcct ..)
    · exact TrafficKept.updAcct ..

theorem TrafficKept.accountHead (s : State) (q : Req) (h : Nat) : TrafficKept s (s.accountHead q h) := by
  unfold State.accountHead
  dsimp only
  split
  · exact ((TrafficKept.account s q).trans (TrafficKept.cnt ..)).trans (TrafficKept.updLd ..)
  · exact TrafficKept.account s q

/-- An occurrence is counted in the groups and at an LD. -/
theorem TrafficKept.cnt_ldCnt (s : State) (ev : Nat) (sc : Scope) (n i w m : Nat) : TrafficKept s ((s.cnt ev sc n).ldCnt i w m) := (TrafficKept.cnt ..).trans (TrafficKept.updLd ..)

theorem TrafficKept.countEnd (s : State) (q : Req) (h : Nat) (f : Ending) : TrafficKept s (s.countEnd q h f) := by
  unfold State.countEnd
  dsimp only
  split
  · exact TrafficKept.cnt_ldCnt ..
  · have hread : TrafficKept s (if q.isRead = true then ((((s.cnt 0x0101 (Scope.req h q.cls)).ldCnt q.ld 0).cnt 0x0106 (Scope.req h q.cls) (s.tick - q.arrival)).ldCnt q.ld 4 (s.tick - q.arrival))
        else match q.op with
          | .wr => (s.cnt 0x0102 (Scope.req h q.cls)).ldCnt q.ld 1
          | .fence => (s.cnt 0x0102 (Scope.req h q.cls)).ldCnt q.ld 1
          | _ => s) := by
      split
      · exact (TrafficKept.cnt_ldCnt ..).trans (TrafficKept.cnt_ldCnt ..)
      · split
        · exact TrafficKept.cnt_ldCnt ..
        · exact TrafficKept.cnt_ldCnt ..
        · exact TrafficKept.refl s
    split
    · exact hread.trans (TrafficKept.cnt_ldCnt ..)
    · exact hread

theorem TrafficKept.listAdd {α : Type} (s : State) (get : Place → Tbl (List α)) (set : Place → Tbl (List α) → Place) (isIt : α → Bool) (x : α) (p : Nat) :
    TrafficKept s (s.listAdd get set isIt x p) := by
  unfold State.listAdd
  dsimp only
  split
  · exact TrafficKept.refl s
  · split
    · exact TrafficKept.wr ..
    · exact ⟨rfl, rfl, rfl, rfl⟩

theorem TrafficKept.footfall (s : State) (p : Nat) : TrafficKept s (s.footfall p) := by
  unfold State.footfall
  dsimp only
  have hstamp : TrafficKept s (if (s.acc p).fstamp = s.place.epoch % 15 then s else s.setAcc p { s.acc p with fstamp := s.place.epoch % 15 }) := by
    split
    · exact TrafficKept.refl s
    · exact TrafficKept.setAcc ..
  generalize (if (s.acc p).fstamp = s.place.epoch % 15 then s else s.setAcc p { s.acc p with fstamp := s.place.epoch % 15 }) = u at hstamp ⊢
  generalize (if (s.acc p).fstamp = s.place.epoch % 15 then Tbl.lookD s.place.foot 0 p else 0) = old
  have hword : TrafficKept s (match formChan (s.srcForm p) with
      | some c => { u with place := { u.place with foot := Tbl.putD u.place.foot 0 p (min (old + 1) 0xFFFF), totals := Tbl.upd u.place.totals 0 (homeSlice p * 16 + c) (· + 1) } }
      | none => { u with place := { u.place with foot := Tbl.putD u.place.foot 0 p (min (old + 1) 0xFFFF) } }) := by
    split
    · exact ⟨hstamp.out, hstamp.dir, hstamp.media, hstamp.path⟩
    · exact ⟨hstamp.out, hstamp.dir, hstamp.media, hstamp.path⟩
  split
  · split
    · exact hword.trans (TrafficKept.listAdd ..)
    · exact hword.trans (TrafficKept.listAdd ..)
    · exact hword.trans (TrafficKept.listAdd ..)
    · exact hword
  · exact hword

/-! ### The only request in service -/

/-- A request of a head is the only one in service, with its page free and a link that carries its completion. -/
structure Sole (s : State) (q : Req) (h : Nat) : Prop where
  src : q.src = .head h
  head : h < 16
  ingress : s.path.ingress = []
  txns : ∃ u, s.path.txns = [u] ∧ u.req.id = q.id
  bench : s.dir.bench = []
  exchs : s.dir.exchs = []
  locks : s.sec.locks = []
  retire : s.sec.retire = []
  clears : s.mgmt.clears = []
  safe : s.isSafe = false
  link : s.linkUp h = true
  awake : s.rd (Reg.GLB_HEAD_STATUS_PSTATE h) ≤ 1

theorem Sole.aside {s t : State} {q : Req} {h : Nat} (hs : Sole s q h) (ha : Aside s t) : Sole t q h where
  src := hs.src
  head := hs.head
  ingress := by rw [ha.path, hs.ingress]
  txns := by rw [ha.path]; exact hs.txns
  bench := by rw [ha.dir, hs.bench]
  exchs := by rw [ha.dir, hs.exchs]
  locks := by rw [ha.sec, hs.locks]
  retire := by rw [ha.sec, hs.retire]
  clears := by rw [ha.mgmt, hs.clears]
  safe := by rw [ha.isSafe, hs.safe]
  link := by rw [ha.linkUp h hs.head, hs.link]
  awake := by rw [ha.pstate h hs.head]; exact hs.awake

/-- A request has ended, and its completion alone has left the block. -/
structure Completed (s t : State) (o : Out) : Prop where
  out : t.out = o :: s.out
  txns : t.path.txns = []
  ingress : t.path.ingress = []
  dir : t.dir = s.dir
  media : t.media = s.media

theorem Completed.trafficKept {s t u : State} {o : Out} (h : Completed s t o) (k : TrafficKept t u) : Completed s u o :=
  ⟨k.out.trans h.out, by rw [k.path, h.txns], by rw [k.path, h.ingress], k.dir.trans h.dir, k.media.trans h.media⟩

theorem Completed.aside {s t u : State} {o : Out} (h : Completed t u o) (k : Aside s t) : Completed s u o :=
  ⟨by rw [h.out, k.out], h.txns, h.ingress, by rw [h.dir, k.dir], by rw [h.media, k.media]⟩

/-- A link that is in L0 or L0p carries a message as it is. -/
theorem TrafficKept.wakeLink {s : State} {h : Nat} (hp : s.rd (Reg.GLB_HEAD_STATUS_PSTATE h) ≤ 1) : TrafficKept s (s.wakeLink h) := by
  have hrd : (s.updHead h (fun (x : HeadSt) => { x with traffic := s.tick })).rd (Reg.GLB_HEAD_STATUS_PSTATE h) = s.rd (Reg.GLB_HEAD_STATUS_PSTATE h) := rfl
  unfold State.wakeLink
  dsimp only
  rw [if_neg (by omega)]
  exact ⟨rfl, rfl, rfl, rfl⟩

/-- A completion leaves at a head whose link is up. -/
theorem State.egress_completes {s : State} {t : Txn} {h : Nat} (f : Ending) (hsafe : s.isSafe = false) (hlink : s.linkUp h = true) (hp : s.rd (Reg.GLB_HEAD_STATUS_PSTATE h) ≤ 1) :
    TrafficKept (s.emit (completionOf t.req h f)) (s.egress t h f) := by
  have hsend : s.canSend h = true := by rw [State.canSend, hlink, hsafe]; rfl
  have hemit : TrafficKept (s.emit (completionOf t.req h f)) ((s.wakeLink h).emit (completionOf t.req h f)) := by
    obtain ⟨hout, hdir, hmedia, hpath⟩ := TrafficKept.wakeLink hp
    exact ⟨by rw [State.emit, hout]; rfl, hdir, hmedia, hpath⟩
  unfold State.egress
  dsimp only
  rw [if_pos hsend]
  refine TrafficKept.trans ?_ (TrafficKept.sample ..)
  split
  · exact (hemit.trans (TrafficKept.countEnd ..)).trans (TrafficKept.accountHead ..)
  · exact hemit.trans (TrafficKept.countEnd ..)

/-- A directory whose benches are empty is kept when a request leaves them. -/
theorem dir_filter_bench (d : Dir) (p : Txn → Bool) (h : d.bench = []) : { d with bench := d.bench.filter p } = d := by
  obtain ⟨ways, exchs, bench, walks, credits, probe⟩ := d
  obtain rfl : bench = [] := h
  rfl

section Service
variable {s : State} {q : Req} {h : Nat} (hs : Sole s q h)
include hs

theorem Sole.pageLocked (p : Nat) : s.pageLocked p = false := by simp [State.pageLocked, hs.locks, hs.retire, hs.clears]

theorem Sole.lineBlocked (t : Txn) (ht : t.req.id = q.id) : s.lineBlocked t = false := by
  obtain ⟨u, hu, hid⟩ := hs.txns
  simp [State.lineBlocked, hu, hid, ht, hs.bench]

theorem Sole.lineTaken (t : Txn) (ht : t.req.id = q.id) : s.lineTaken t = false := by
  obtain ⟨u, hu, hid⟩ := hs.txns
  simp [State.lineTaken, hu, hid, ht, hs.bench]

theorem Sole.exchOf (id : Nat) : s.exchOf id = none := by simp [State.exchOf, hs.exchs]

theorem Sole.setTxn (t : Txn) (ht : t.req.id = q.id) : (s.setTxn t).path.txns = [t] := by
  obtain ⟨u, hu, hid⟩ := hs.txns
  simp [State.setTxn, hu, hid, ht]

/-- The request leaves the tables, and delays no fence any longer. -/
theorem Sole.dropped : ∃ r, ((s.dropTxn q.id).fenceSees q) = { s with path := r } ∧ r.txns = [] ∧ r.ingress = [] := by
  obtain ⟨u, hu, hid⟩ := hs.txns
  have hdrop : s.dropTxn q.id = { s with path := { s.path with txns := [] } } := by
    simp only [State.dropTxn, dir_filter_bench _ _ hs.bench, hu]
    simp [hid]
  rw [hdrop]
  unfold State.fenceSees
  split
  · exact ⟨_, rfl, rfl, hs.ingress⟩
  · exact ⟨_, rfl, rfl, hs.ingress⟩

/-- The request ends: its completion leaves, and nothing is in service any longer. -/
theorem Sole.finish (t : Txn) (ht : t.req = q) (f : Ending) : Completed s (s.finish t f) (completionOf q h f) := by
  subst ht
  obtain ⟨r, hdrop, htxns, hingress⟩ := hs.dropped
  have hemit : Completed s (State.emit { s with path := r } (completionOf t.req h f)) (completionOf t.req h f) := ⟨rfl, htxns, hingress, rfl, rfl⟩
  have hend : Completed s (State.egress { s with path := r } t h f) (completionOf t.req h f) := hemit.trafficKept (State.egress_completes f hs.safe hs.link hs.awake)
  unfold State.finish
  dsimp only
  rw [hdrop, hs.src]
  dsimp only
  split
  · exact hend.trafficKept (TrafficKept.footfall ..)
  · exact hend

/-- The MetaValue that a read's completion carries. -/
def readMv (db : Bool) (q : Req) : MetaV := if db then (match q.cls43 with | .rdShared => .s | _ => q.mv) else .noOp

/-- A read whose line is zeros completes with them. -/
theorem Sole.deliver_zeros (t : Txn) (ht : t.req = q) (hop : q.op = .rd) (hgrant : s.isDb q.page = true → q.cls43 = .rdOwn → t.granted = true) (hpoison : t.poisoned = false) :
    Completed s (s.deliver t { data := 0, poison := false }) (.memData h q.tag 0 false (readMv (s.isDb q.page) q)) := by
  have hnot : (s.isDb q.page && q.cls43 == .rdOwn && !t.granted) = false := by
    cases hd : s.isDb q.page
    · rfl
    · cases hc : q.cls43 <;> simp_all
  have hread : s.deliver t { data := 0, poison := false } = s.finish t { data := some 0, poison := false, mv := readMv (s.isDb q.page) q } := by
    simp only [State.deliver, hs.exchOf, ht, hnot, hop, State.finishRead, hpoison, readMv]
    rfl
  rw [hread]
  have hdone := hs.finish t ht { data := some 0, poison := false, mv := readMv (s.isDb q.page) q }
  simpa [completionOf, Req.isRead, hop] using hdone

/-- A read of a page that holds nothing returns zeros. -/
theorem Sole.serveRead_blank (t : Txn) (ht : t.req = q) (hop : q.op = .rd) (hblank : s.blank q.page) (hgrant : s.isDb q.page = true → q.cls43 = .rdOwn → t.granted = true)
    (hpoison : t.poisoned = false) : Completed s (s.serveRead t) (.memData h q.tag 0 false (readMv (s.isDb q.page) q)) := by
  subst ht
  obtain ⟨hform, hguard⟩ := hblank
  have hsrc : s.srcForm t.req.page = .unwritten false := by simp only [State.srcForm, State.slotOf, hform]
  obtain ⟨u, b, hcount, hu⟩ : ∃ u b, s.countRead t = (u, { t with counted := b }) ∧ Aside s u := by
    unfold State.countRead
    rw [hs.src, hsrc]
    split
    · exact ⟨_, _, rfl, Aside.cnt ..⟩
    · exact ⟨_, t.counted, rfl, Aside.refl s⟩
  have hlost : u.lineLost t.req.page t.req.lineIx = false := by simp only [State.lineLost, hu.guard, hguard]
  have hserve : s.serveRead t = u.deliver { t with counted := b, source := 3 } { data := 0, poison := false } := by
    unfold State.serveRead
    dsimp only
    rw [hcount]
    dsimp only
    rw [hu.srcForm, hsrc]
    dsimp only
    rw [hu.srcForm, hsrc]
    dsimp only
    rw [hlost]
    rfl
  rw [hserve, ← hu.isDb]
  exact ((hs.aside hu).deliver_zeros { t with counted := b, source := 3 } rfl hop (by rw [hu.isDb]; exact hgrant) hpoison).aside hu

end Service

/-! ### Dispatch of the only request (Table 1.3, Table 4.4) -/

/-- A transaction of a request that the directory has not let go on. -/
structure Fresh (t : Txn) (q : Req) : Prop where
  req : t.req = q
  granted : t.granted = false
  poisoned : t.poisoned = false
  snoop : t.snoop = false

theorem look_foldl_touch (base k old : Nat) (l : List Nat) (ways : Tbl DirEntry) :
    Tbl.look (l.foldl (fun (t : Tbl DirEntry) w => if base + w = k then Tbl.modify t k (fun e => { e with age := 0 })
      else Tbl.modify t (base + w) (fun e => if e.age ≤ old then { e with age := min 15 (e.age + 1) } else e)) ways) k
    = if l.any (fun w => base + w == k) then (Tbl.look ways k).map (fun e => { e with age := 0 }) else Tbl.look ways k := by
  induction l generalizing ways with
  | nil => rfl
  | cons w l ih =>
    rw [List.foldl_cons, ih, List.any_cons]
    by_cases hw : base + w = k
    · rw [if_pos hw, Tbl.look_modify]
      cases l.any (fun w => base + w == k) <;> simp [hw, Function.comp_def]
    · rw [if_neg hw, Tbl.look_modify]
      simp [hw, Ne.symm hw]

/-- The use of a way makes its entry the youngest of its set. -/
theorem State.touch_eq (s : State) (k : Nat) : ∃ ways, s.touch k = { s with dir := { s.dir with ways := ways } } ∧ Tbl.look ways k = (Tbl.look s.dir.ways k).map (fun e => { e with age := 0 }) := by
  refine ⟨_, rfl, (look_foldl_touch (k / 16 * 16) k _ _ _).trans (if_pos ?_)⟩
  exact List.any_eq_true.2 ⟨k % 16, List.mem_range.2 (Nat.mod_lt _ (by decide)), beq_iff_eq.2 (by omega)⟩

/-- The vector of one head names that head. -/
theorem headsOf_headBit : ∀ h, h < 16 → headsOf (headBit h) = [h] := by decide

/-- Nobody is removed from the entry of a line whose heads can be snooped (R117). -/
theorem State.cleanStopped_of_snoopable {s : State} {line k : Nat} {e : DirEntry} {g : Nat} (he : s.entry? line = some (k, e)) (hg : g < 16) (hsh : e.sharers = headBit g)
    (hsn : s.snoopable g line = true) : s.cleanStopped line = s := by
  simp only [State.cleanStopped, he, hsh, headsOf_headBit g hg, List.foldl_cons, List.foldl_nil, hsn, if_true]

/-- Only an ownership request asks for a tier that takes writes. -/
theorem State.ownPhase_of_notOwn {s : State} {q : Req} (h : q.cls43 ≠ .rdOwn) : s.ownPhase q = none := by simp [State.ownPhase, h]

theorem State.ownPhase_of_blank {s : State} {q : Req} (h : (s.acc q.page).form = .unwritten false) : s.ownPhase q = none := by simp [State.ownPhase, State.writePhase, h]

theorem State.noteWrite_of_blank {s : State} {q : Req} (h : (s.acc q.page).form = .unwritten false) : s.noteWrite q.line = s := by
  have hslot : s.slotOf (pageOf q.line) = none := by
    simp only [Req.page] at h
    simp only [State.slotOf, h]
  simp only [State.noteWrite, hslot]

section Dispatch
variable {s : State} {q : Req} {h : Nat} (hs : Sole s q h) {t : Txn} (ht : Fresh t q)
include hs

/-- The directory may change while a request is the only one in service. -/
theorem Sole.withWays (ways : Tbl DirEntry) : Sole { s with dir := { s.dir with ways := ways } } q h :=
  ⟨hs.src, hs.head, hs.ingress, hs.txns, hs.bench, hs.exchs, hs.locks, hs.retire, hs.clears, hs.safe, hs.link, hs.awake⟩

theorem Sole.dispatchPlain (w : Txn) (hw : w.req = q) : s.dispatchPlain w = match q.op with
    | .rd => s.serveRead w
    | .rdData => s.serveRead w
    | .wr => s.serveWrite w
    | _ => s.finish w { mv := q.mv } := by
  subst hw
  unfold State.dispatchPlain
  rw [hs.lineBlocked w rfl]
  rfl

include ht

theorem Sole.dispatch_plain (hdb : s.isDb q.page = false) : s.dispatch t = s.dispatchPlain { t with pstate := formCode (s.acc q.page).form } := by
  obtain ⟨rfl, -, -, -⟩ := ht
  unfold State.dispatch
  dsimp only
  rw [hs.pageLocked, hs.src, hdb]
  rfl

theorem Sole.dispatch_db (hdb : s.isDb q.page = true) (hclean : s.cleanStopped q.line = s) :
    s.dispatch t = s.transition { t with pstate := formCode (s.acc q.page).form } h := by
  obtain ⟨rfl, hgranted, -, hsnoop⟩ := ht
  have hdata : s.snoopData t.req h = false := by simp [State.snoopData, State.exchFor, hs.exchs]
  have htaken : ∀ w : Txn, w.req = t.req → s.lineTaken w = false := fun w hw => hs.lineTaken w (by rw [hw])
  unfold State.dispatch
  dsimp only
  rw [hs.pageLocked, hs.src, hdb, hsnoop]
  dsimp only
  rw [hdata]
  simp only [State.dispatchDb, hgranted, hclean, htaken, hs.exchs]
  rfl

/-- A read of a page that holds nothing and is not HDM-DB completes with zeros. -/
theorem Sole.read_blank (hdb : s.isDb q.page = false) (hblank : s.blank q.page) (hop : q.op = .rd) : Completed s (s.dispatch t) (.memData h q.tag 0 false .noOp) := by
  have hserve : s.dispatch t = s.serveRead { t with pstate := formCode (s.acc q.page).form } := by
    rw [hs.dispatch_plain ht hdb, hs.dispatchPlain { t with pstate := formCode (s.acc q.page).form } ht.req, hop]
  have hread := hs.serveRead_blank { t with pstate := formCode (s.acc q.page).form } ht.req hop hblank (fun hd => by simp [hdb] at hd) ht.poisoned
  rw [hserve]
  simpa [readMv, hdb] using hread

/-- A first reader of an HDM-DB line takes a way, and completes with zeros where the page holds nothing. -/
theorem Sole.read_newLine {k : Nat} (hdb : s.isDb q.page = true) (hblank : s.blank q.page) (hop : q.op = .rd) (hnone : s.entry? q.line = none) (hway : s.wayFor q.line = .free k)
    (hcls : q.cls43 = .rdShared ∨ q.cls43 = .rdOwn) : ∃ u ways, u = { s with dir := { s.dir with ways := ways } } ∧ Tbl.look ways k = some { newEntry q.line h q.cls43 with age := 0 }
      ∧ Completed u (s.dispatch t) (.memData h q.tag 0 false (readMv true q)) := by
  have hclean : s.cleanStopped q.line = s := by simp only [State.cleanStopped, hnone]
  have htake : s.dispatch t = s.takeWay { t with pstate := formCode (s.acc q.page).form } h k := by
    rw [hs.dispatch_db ht hdb hclean]
    unfold State.transition
    dsimp only
    rw [ht.req, State.ownPhase_of_blank hblank.1, State.noteWrite_of_blank hblank.1]
    rcases hcls with hc | hc
    · simp only [ite_self, hc, hnone, State.allocWay, hway]
    · simp only [ite_self, hc, hnone, State.allocWay, hway]
  obtain ⟨ways, htouch, hlook⟩ := State.touch_eq (s.putWay k { newEntry q.line h q.cls43 with age := 15 }) k
  refine ⟨_, ways, rfl, by rw [hlook]; simp [State.putWay], ?_⟩
  have hserve : s.takeWay { t with pstate := formCode (s.acc q.page).form } h k
      = State.serveRead { s with dir := { s.dir with ways := ways } } { t with pstate := formCode (s.acc q.page).form, granted := true } := by
    unfold State.takeWay
    dsimp only
    rw [ht.req, State.ownPhase_of_blank hblank.1, State.noteWrite_of_blank hblank.1]
    dsimp only
    rw [ite_self, htouch]
    simp only [State.readOrAck, hop]
    rfl
  have hread := (hs.withWays ways).serveRead_blank { t with pstate := formCode (s.acc q.page).form, granted := true } ht.req hop hblank (fun _ _ => rfl) ht.poisoned
  rw [show State.isDb { s with dir := { s.dir with ways := ways } } q.page = true from hdb] at hread
  rwa [htake, hserve]

/-- A write of a HOT page that takes it waits for its acceptance. -/
theorem Sole.write_hot {c fr : Nat} {r : Option Nat} (hdb : s.isDb q.page = false) (hop : q.op = .wr) (hform : (s.acc q.page).form = .hot c fr r) (hsrc : s.srcForm q.page = .hot c fr r)
    (hguard : s.guard q.page = none) (hregion : ∀ e, s.regionAt q.page = some e → e.2.readonly = false) : ∃ x, s.dispatch t = s.setTxn x ∧ x.req = q ∧ x.phase = .accept := by
  have hplain := hs.dispatch_plain ht hdb
  obtain ⟨rfl, -, -, -⟩ := ht
  have hrefuses : s.refusesWrite t.req.page t.req.lineIx = false := by
    have hreadonly : (s.regionAt t.req.page).any (fun e => e.2.readonly) = false := by
      cases hr : s.regionAt t.req.page with
      | none => rfl
      | some e => exact hregion e hr
    simp [State.refusesWrite, State.lineLost, hguard, hform, hreadonly]
  have hphase : s.writePhase t.req.page = .accept := by simp only [State.writePhase, hform]
  have htags : s.checkTags t.req.page (t.req.lineIx / 8) = s := by simp only [State.checkTags, hguard]
  rw [hplain, hs.dispatchPlain { t with pstate := formCode (s.acc t.req.page).form } rfl, hop]
  unfold State.serveWrite
  dsimp only
  rw [hsrc]
  dsimp only
  rw [htags, hrefuses, hphase]
  exact ⟨_, rfl, rfl, rfl⟩

/-- The only sharer gives its copy up: the entry is freed. -/
theorem Sole.evict_sharer {k : Nat} {e : DirEntry} (hdb : s.isDb q.page = true) (hop : q.op = .evict) (he : s.entry? q.line = some (k, e)) (hst : e.st = .s) (hsh : e.sharers = headBit h)
    (hsn : s.snoopable h q.line = true) : ∃ u ways, u = { s with dir := { s.dir with ways := ways } } ∧ Tbl.look ways k = none ∧ Completed u (s.dispatch t) (.cmp h q.tag .noOp) := by
  have hcls : q.cls43 = .evict := by simp only [Req.cls43, hop]
  obtain ⟨ways, htouch, -⟩ := State.touch_eq s k
  have hlast : DirEntry.without { e with age := 0 } h = none := by
    simp only [DirEntry.without, hst, hsh]
    rw [if_pos (BitVec.and_not_self _)]
  refine ⟨_, Tbl.del ways k, rfl, Tbl.look_del_same _ _, ?_⟩
  have hend : s.dispatch t = State.finish { s with dir := { s.dir with ways := Tbl.del ways k } } { t with pstate := formCode (s.acc q.page).form, granted := true } {} := by
    rw [hs.dispatch_db ht hdb (State.cleanStopped_of_snoopable he hs.head hsh hsn)]
    unfold State.transition
    dsimp only
    rw [ht.req, State.ownPhase_of_notOwn (by rw [hcls]; decide)]
    simp only [hcls, show (ReqClass.evict == ReqClass.rdOwn) = false from rfl, Bool.false_eq_true, if_false, he, hst, htouch]
    simp only [← hst]
    rw [hlast]
    rfl
  have hdone := (hs.withWays (Tbl.del ways k)).finish { t with pstate := formCode (s.acc q.page).form, granted := true } ht.req {}
  rw [hend]
  simpa [completionOf, Req.isRead, hop] using hdone

end Dispatch

/-! ### An exchange with one head (R97, R106) -/

theorem State.sendBisnp_sends {s : State} {g i line : Nat} (snp : Snp) (hp : s.rd (Reg.GLB_HEAD_STATUS_PSTATE g) ≤ 1) (hi : s.mapper g (unitOfPage (pageOf line)) = some i) :
    TrafficKept (s.emit (.bisnp g (s.ldIdOf g i) line snp)) (s.sendBisnp g line snp) := by
  obtain ⟨hout, hdir, hmedia, hpath⟩ := TrafficKept.wakeLink hp
  have hemit : TrafficKept (s.emit (.bisnp g (s.ldIdOf g i) line snp)) ((s.wakeLink g).emit (.bisnp g (s.ldIdOf g i) line snp)) := ⟨by rw [State.emit, hout]; rfl, hdir, hmedia, hpath⟩
  unfold State.sendBisnp
  rw [hi]
  exact (hemit.trans (TrafficKept.cnt_ldCnt ..)).trans (Aside.stn ..).trafficKept

/-- The exchange of a line with one head, which has been sent its BISnp and has not answered. -/
def soleExch (line : Nat) (why : ExchWhy) (g : Nat) (snp : Snp) (tick : Nat) : Exch :=
  { line := line, why := why, waits := [{ head := g, snp := snp, start := tick, sent := true }], heads := [g] }

/-- The directory when such an exchange is the only one, and its BISnp has taken a credit of the head. -/
def Dir.withSnoop (d : Dir) (x : Exch) (g : Nat) : Dir := { d with credits := Tbl.putD d.credits 0 g (Tbl.lookD d.credits 0 g - 1), exchs := [x] }

/-- An exchange awaits one answer more. -/
def Dir.await (d : Dir) (line : Nat) (why : ExchWhy) (w : BiWait) : Dir := { d with exchs := d.exchs.map (fun x => if x.line = line ∧ x.why = why then { x with waits := x.waits ++ [w] } else x) }

theorem Dir.await_withSnoop (d : Dir) (line : Nat) (why : ExchWhy) (g : Nat) (snp : Snp) (tick : Nat) :
    (d.withSnoop { line := line, why := why, waits := [], heads := [g] } g).await line why { head := g, snp := snp, start := tick, sent := true } = d.withSnoop (soleExch line why g snp tick) g := by
  simp [Dir.await, Dir.withSnoop, soleExch]

/-- An exchange with one head that has a credit: the BISnp leaves, and its answer is awaited. -/
theorem State.openExch_one {s : State} {g i line : Nat} (why : ExchWhy) (snp : Snp) (hx : s.dir.exchs = []) (hc : 0 < Tbl.lookD s.dir.credits 0 g)
    (hp : s.rd (Reg.GLB_HEAD_STATUS_PSTATE g) ≤ 1) (hi : s.mapper g (unitOfPage (pageOf line)) = some i) :
    TrafficKept { s with out := .bisnp g (s.ldIdOf g i) line snp :: s.out, dir := s.dir.withSnoop (soleExch line why g snp s.tick) g } (s.openExch line why [g] snp) := by
  have hsend := State.sendBisnp_sends (s := { s with dir := s.dir.withSnoop { line := line, why := why, waits := [], heads := [g] } g }) (g := g) (i := i) (line := line) snp hp hi
  unfold State.openExch
  dsimp only
  rw [hx, List.nil_append, List.foldl_cons, List.foldl_nil, if_pos hc, decide_eq_true hc]
  refine ⟨hsend.out, ?_, hsend.media, hsend.path⟩
  exact (congrArg (fun d : Dir => d.await line why { head := g, snp := snp, start := s.tick, sent := true }) hsend.dir).trans (Dir.await_withSnoop ..)

section Snoop
variable {s : State} {q : Req} {h : Nat} (hs : Sole s q h) {t : Txn} (ht : Fresh t q)
include hs ht

/-- A read of a line that another head owns snoops that head, and waits for its answer. -/
theorem Sole.read_owned {g i k : Nat} {e : DirEntry} (hdb : s.isDb q.page = true) (hop : q.op = .rd) (hsnp : q.snp = .data) (he : s.entry? q.line = some (k, e)) (hst : e.st = .o)
    (hnamed : e.named = g) (hgh : g ≠ h) (hsh : e.sharers = headBit g) (hg : g < 16) (hsn : s.snoopable g q.line = true) (hi : s.mapper g (unitOfPage q.page) = some i)
    (hp : s.rd (Reg.GLB_HEAD_STATUS_PSTATE g) ≤ 1) (hc : 0 < Tbl.lookD s.dir.credits 0 g) :
    ∃ x ways, x.req = q ∧ x.phase = .exch ∧ TrafficKept { s.setTxn x with out := .bisnp g (s.ldIdOf g i) q.line .data :: s.out,
                                                                          dir := Dir.withSnoop { s.dir with ways := ways } (soleExch q.line (.txn q.id) g .data s.tick) g } (s.dispatch t) := by
  have hcls : q.cls43 = .rdShared := by simp only [Req.cls43, hop, hsnp]
  obtain ⟨ways, htouch, -⟩ := State.touch_eq s k
  have hsnoop : s.dispatch t = State.openExch ((State.setTxn { s with dir := { s.dir with ways := ways } } { t with pstate := formCode (s.acc q.page).form, phase := .exch, snooped := true }).noteWait q)
      q.line (.txn q.id) [g] .data := by
    rw [hs.dispatch_db ht hdb (State.cleanStopped_of_snoopable he hg hsh hsn)]
    unfold State.transition
    dsimp only
    rw [ht.req, State.ownPhase_of_notOwn (by rw [hcls]; decide)]
    simp only [hcls, show (ReqClass.rdShared == ReqClass.rdOwn) = false from rfl, Bool.false_eq_true, if_false, he, hst, htouch, hnamed, hgh]
  generalize hx : ({ t with pstate := formCode (s.acc q.page).form, phase := .exch, snooped := true } : Txn) = x at hsnoop
  have haside := Aside.noteWait (State.setTxn { s with dir := { s.dir with ways := ways } } x) q
  have hopen := State.openExch_one (s := (State.setTxn { s with dir := { s.dir with ways := ways } } x).noteWait q) (g := g) (i := i) (line := q.line) (.txn q.id) .data
    (by rw [haside.dir]; exact hs.exchs) (by rw [haside.dir]; exact hc) (by rw [haside.pstate g hg]; exact hp) (by rw [haside.mapper]; exact hi)
  refine ⟨x, ways, by rw [← hx]; exact ht.req, by rw [← hx], ?_⟩
  rw [hsnoop]
  refine ⟨hopen.out.trans ?_, hopen.dir.trans ?_, hopen.media.trans haside.media, hopen.path.trans haside.path⟩
  · rw [haside.ldIdOf, haside.out]
    rfl
  · rw [haside.dir, haside.tick]
    rfl

end Snoop

/-! ### The arbiter of a slice with one request (R23) -/

/-- A source whose requests are those of one head is that head. -/
theorem srcOf_head {n h : Nat} (hn : srcOf n = some (.head h)) : n = h := by
  unfold srcOf at hn
  split at hn
  · exact Src.head.inj (Option.some.inj hn)
  · split at hn
    · cases hn
    · split at hn <;> cases hn

theorem srcOf_of_lt {h : Nat} (hh : h < 16) : srcOf h = some (.head h) := if_pos hh

/-- Every source comes in the round. -/
theorem State.mem_sources (s : State) (sl h : Nat) (hh : h < 20) : h ∈ s.sources sl := by
  refine List.mem_map.2 ⟨(h + 20 - Tbl.lookD s.path.rr 0 sl % 20) % 20, List.mem_range.2 (Nat.mod_lt _ (by decide)), by omega⟩

/-- The first of a list that passes a test that one member alone passes. -/
theorem find?_of_unique {α : Type} {l : List α} {p : α → Bool} {x : α} (hx : x ∈ l) (hp : p x = true) (hu : ∀ y, p y = true → y = x) : l.find? p = some x := by
  obtain ⟨y, hy⟩ := Option.isSome_iff_exists.1 (List.find?_isSome.2 ⟨x, hx, hp⟩)
  rw [hy, hu y (List.find?_some hy)]

/-- Extents that are in force as they are do not change at the arbiter. -/
theorem exts_unchanged {sl : Nat} {lds : Tbl Ld} (h : ∀ e ∈ lds, ∀ x ∈ e.2.exts, applyExtents sl x = x) :
    lds.map (fun (e : Nat × Ld) => (e.1, { e.2 with exts := e.2.exts.map (applyExtents sl) })) = lds := by
  refine (List.map_congr_left fun e he => ?_).trans (List.map_id lds)
  have hexts : e.2.exts.map (applyExtents sl) = e.2.exts := (List.map_congr_left (h e he)).trans (List.map_id _)
  obtain ⟨i, d⟩ := e
  rw [hexts]
  rfl

/-- A slice with no fence, bench or transaction only takes extents in and admits. -/
theorem State.sliceTick_quiet {s : State} {sl : Nat} (hr : sl ∉ s.path.restart) (hsafe : s.isSafe = false) (hf : s.warden.fence = []) (hb : s.dir.bench = []) (ht : s.path.txns = [])
    (u : State) (hu : u = { s with lds := s.lds.map (fun (e : Nat × Ld) => (e.1, { e.2 with exts := e.2.exts.map (applyExtents sl) })) }) :
    (∀ n q, u.arbitrate sl = some (n, q) → s.sliceTick sl = u.takeIn sl n q) ∧ (u.arbitrate sl = none → s.sliceTick sl = u) := by
  have hclose : u.closePort sl = u := by
    rw [State.closePort, if_pos]
    rw [hu]
    exact hf
  have hbench : u.benchFirst sl = u := by
    rw [State.benchFirst, show u.dir.bench = [] by rw [hu]; exact hb]
    rfl
  have hwake : u.wakeOne sl = u := by
    rw [State.wakeOne, show u.path.txns = [] by rw [hu]; exact ht]
    rfl
  unfold State.sliceTick
  dsimp only
  rw [← hu, hclose, hbench, hwake, if_neg (by simp [hr, hsafe])]
  refine ⟨fun n q hn => ?_, fun hn => ?_⟩
  · rw [hn]
  · rw [hn]

/-- A slice with no request admits nothing. -/
theorem State.arbitrate_nothing {s : State} (sl : Nat) (hi : s.path.ingress = []) : s.arbitrate sl = none := by
  have hoffers : s.offers sl = fun _ => none := by
    funext n
    simp [State.offers, State.firstOf, hi]
  rw [State.arbitrate, hoffers]
  split
  · cases (s.sources sl).find? (s.hasTurn sl) <;> rfl
  · rfl

/-- The first request of a source is one of that source for the slice. -/
theorem State.firstOf_spec {s : State} {sl n : Nat} {q : Req} (h : s.firstOf sl n = some q) : q ∈ s.path.ingress ∧ srcOf n = some q.src := by
  have hown : ∀ {p : Req → Bool}, s.path.ingress.find? p = some q → (p q = true → srcOf n = some q.src) → q ∈ s.path.ingress ∧ srcOf n = some q.src := fun hf hp =>
    ⟨List.mem_of_find?_eq_some hf, hp (List.find?_some hf)⟩
  unfold State.firstOf at h
  dsimp only at h
  split at h
  case h_1 q' hf =>
    obtain rfl := Option.some.inj h
    split at hf
    · exact hown hf (fun hp => by simp only [Bool.and_eq_true, beq_iff_eq] at hp; exact hp.1.1)
    · cases hf
  case h_2 => exact hown h (fun hp => by simp only [Bool.and_eq_true, beq_iff_eq] at hp; exact hp.1)

section Lone
variable {s : State} {sl h : Nat} {q : Req} {d : Ld} (hl : s.lone sl q h d)
include hl

/-- The request is the one that the arbiter admits. -/
theorem State.arbitrate_lone : s.arbitrate sl = some (h, q) := by
  obtain ⟨hsafe, hfence, -, hing, ⟨htx, hben⟩, hex, -, -, -, -, hsrc, hh, hslice, -, -, -, -, -, -, hfree, hwcb, hdoc, -⟩ := hl
  have hadmits : s.refusesAdmit q = false := by
    have hroom : s.benchRoom sl = true := by simp [State.benchRoom, hben]
    have htable : s.tableFull sl = false := by simp [State.tableFull, htx]
    simp [State.refusesAdmit, hsrc, hslice, hfence, State.snooping, hex, htx, hben, htable, hwcb, hroom]
  have hfirst : s.firstOf sl h = some q := by
    unfold State.firstOf
    simp only [hing, srcOf_of_lt hh, List.find?_cons, List.find?_nil, hsrc, hslice, beq_self_eq_true, Bool.true_and, if_pos hh]
    cases s.snoopData q h <;> rfl
  have hoffer : s.offers sl h = some (h, q) := by simp [State.offers, hfirst, hadmits]
  have hturn : s.hasTurn sl h = true := by
    rw [State.hasTurn, if_neg (by omega), hoffer]
    rfl
  have honly : ∀ n, s.hasTurn sl n = true → n = h := fun n hn => by
    rw [State.hasTurn, hdoc] at hn
    split at hn
    · cases hn
    · obtain ⟨q', hq⟩ : ∃ q', s.firstOf sl n = some q' := by
        cases hf : s.firstOf sl n with
        | none => simp [State.offers, hf] at hn
        | some q' => exact ⟨q', rfl⟩
      obtain ⟨hmem, hsource⟩ := State.firstOf_spec hq
      rw [hing] at hmem
      obtain rfl := List.mem_singleton.1 hmem
      exact srcOf_head (hsrc ▸ hsource)
  rw [State.arbitrate, if_pos hfree, find?_of_unique (State.mem_sources s sl h (by omega)) hturn honly]
  exact hoffer

omit hl in
/-- The state in which a slice has taken the only request in. -/
def State.admitOne (s : State) (sl h : Nat) (t : Txn) : State :=
  { s with path := { s.path with ingress := [], txns := [t], rr := Tbl.putD s.path.rr 0 sl ((h + 1) % 20), lastDma := Tbl.put s.path.lastDma (64 + sl) (s.tick + 1) }, free := s.free + 1 }

theorem State.sole_admitOne {t : Txn} (ht : t.req = q) : Sole (s.admitOne sl h t) q h := by
  obtain ⟨hsafe, -, -, -, ⟨-, hben⟩, hex, hlocks, hretire, -, -, hsrc, hh, -, -, -, -, -, hlink, hawake, -, -, -, hclears⟩ := hl
  exact ⟨hsrc, hh, rfl, ⟨t, rfl, by rw [ht]⟩, hben, hex, hlocks, hretire, hclears, hsafe, hlink, hawake⟩

omit hl in
/-- The admission is counted at the slice's station, and ends the round at its source. -/
theorem State.noteAdmit_head (hh : h < 16) : State.noteAdmit s sl h
    = { s with cat := (s.stn sl 0).cat, path := { s.path with rr := Tbl.putD s.path.rr 0 sl ((h + 1) % 20), lastDma := Tbl.put s.path.lastDma (64 + sl) (s.tick + 1) } } := by
  unfold State.noteAdmit
  dsimp only
  rw [if_neg (by omega)]
  rfl

/-- The request becomes a transaction, which is dispatched at once or first looks for its accession line. -/
theorem State.takeIn_lone : ∃ u t, Aside (s.admitOne sl h t) u ∧ Fresh t q ∧ s.takeIn sl h q = if s.freeNow.getLsbD 0 then u.accMissed t else u.dispatch t := by
  obtain ⟨-, -, -, hing, ⟨htx, -⟩, hex, -, -, -, -, hsrc, hh, -, hld, hst, hdis, hforce, -, -, -, -, -, -⟩ := hl
  unfold State.takeIn
  generalize hx : State.noteAdmit _ sl h = x
  rw [State.noteAdmit_head hh] at hx
  dsimp only
  rw [hsrc]
  dsimp only
  have hdata : x.snoopData q h = false := by simp [← hx, State.snoopData, State.exchFor, hex]
  have hfree : x.freeNow = s.freeNow := by rw [← hx]; rfl
  generalize hm : (x.freeNow.getLsbD 0 && !x.snoopData q h) = miss
  generalize ht : ({ req := q, slice := sl, kind := kindOf q (x.isDb q.page), accMiss := miss, pstate := formCode (x.acc q.page).form } : Txn) = t
  have hfresh : Fresh t q := by rw [← ht]; exact ⟨rfl, rfl, rfl, rfl⟩
  generalize hv : ({ x.advanceFree with path := { x.advanceFree.path with txns := x.advanceFree.path.txns ++ [t] } } : State) = v
  have hva : Aside (s.admitOne sl h t) v := by
    have hgone : s.path.ingress.filter (fun r => r.id != q.id) = [] := by simp [hing]
    have heq : v = { s.admitOne sl h t with cat := v.cat } := by
      rw [← hv, ← hx]
      simp only [State.admitOne, State.advanceFree, hgone, htx, List.nil_append]
    rw [heq]
    exact ⟨rfl, fun _ _ => rfl, fun _ => rfl⟩
  generalize hw : (if q.isRead = true then v.stn sl 1 else if q.op = .wr then v.stn sl 2 else v) = w
  have hwa : Aside (s.admitOne sl h t) w := by
    rw [← hw]
    split
    · exact hva.trans (Aside.stn ..)
    · split
      · exact hva.trans (Aside.stn ..)
      · exact hva
  have hldw : w.ld? q.ld = some d := (hwa.ld? q.ld).trans hld
  have htakes : w.ldTakes q h = true := by simp [State.ldTakes, hldw, hdis, hst]
  rw [htakes, hldw, Option.any_some, hforce, show miss = s.freeNow.getLsbD 0 by rw [← hm, hdata, hfree, Bool.not_false, Bool.and_true]]
  rw [if_neg (by decide), if_neg (by simp)]
  cases hb : s.freeNow.getLsbD 0 with
  | true =>
    refine ⟨_, t, ?_, hfresh, (if_pos rfl).trans (if_pos rfl).symm⟩
    refine ((?_ : Aside _ _).trans (Aside.cnt ..)).trans (Aside.stn ..)
    split
    · exact hwa.trans (Aside.cnt ..)
    · exact hwa
  | false =>
    refine ⟨_, t, ?_, hfresh, (if_neg Bool.false_ne_true).trans (if_neg Bool.false_ne_true).symm⟩
    split
    · exact hwa.trans (Aside.cnt ..)
    · exact hwa

end Lone

/-! ### An accession line that is not cached (R22, R211) -/

theorem State.ch_updCh_same (s : State) (c : Nat) (f : Dmc → Dmc) : (s.updCh c f).ch c = f (s.ch c) := by
  rw [State.ch, State.updCh, Tbl.upd, Tbl.lookD_putD_same]
  rfl

/-- A read that is under way to the channel of a metadata line is one that the line waits for. -/
theorem State.metaPending_of_flying {s : State} {k : MetaKind} {n : Nat} {r : DramRd} {b : Option Nat} (hr : r ∈ (s.ch (s.metaChan (k.line n) k.copyB)).flying) (hw : r.why = .mline k n b) :
    s.metaPending k n = true := by
  unfold State.metaPending
  refine List.any_eq_true.2 ⟨r, by simp [hr], ?_⟩
  rw [hw]
  simp

/-- A metadata line that can be read is being read after it has been asked for. -/
theorem State.metaPending_metaRead (s : State) (k : MetaKind) (n : Nat) (w : ReadFor) (h : s.metaPending k n = true ∨ s.chLive (s.metaAddr k n).1 = true) :
    (s.metaRead k n w).metaPending k n = true := by
  unfold State.metaRead
  dsimp only
  by_cases hp : s.metaPending k n = true
  · rw [if_pos (by simp [hp]), hp]
  · rw [if_neg (by simp [hp, h.resolve_left hp])]
    refine State.metaPending_of_flying (r := { id := s.path.nextId, line := (s.metaAddr k n).2, why := .mline k n w.pass, tier := w.tier, deadline := w.dl, arrival := s.tick, dpaLine := w.dpa })
      (b := w.pass) ?_ rfl
    show _ ∈ ((s.newId.updCh (s.metaChan (k.line n) k.copyB) _).ch (s.metaChan (k.line n) k.copyB)).flying
    rw [State.ch_updCh_same]
    exact List.mem_append_right _ (List.mem_singleton.2 rfl)

theorem State.metaRead_of_lost (s : State) (k : MetaKind) (n : Nat) (w : ReadFor) (h : s.chLive (s.metaAddr k n).1 = false) : s.metaRead k n w = s := by
  unfold State.metaRead
  dsimp only
  rw [if_pos (by simp [h])]

/-- The read of a metadata line changes nothing that has left the block, no page and no transaction. -/
theorem State.metaRead_traffic (s : State) (k : MetaKind) (n : Nat) (w : ReadFor) :
    (s.metaRead k n w).out = s.out ∧ (s.metaRead k n w).dir = s.dir ∧ (s.metaRead k n w).media = s.media ∧ (s.metaRead k n w).path.txns = s.path.txns
      ∧ (s.metaRead k n w).path.ingress = s.path.ingress := by
  unfold State.metaRead
  dsimp only
  split
  · exact ⟨rfl, rfl, rfl, rfl, rfl⟩
  · exact ⟨rfl, rfl, rfl, rfl, rfl⟩

/-- What the read of an accession line finds beside a state is what it found there. -/
theorem Aside.accWaits {s t : State} (h : Aside s t) (n : Nat) : (t.metaPending .acc n = true ∨ t.chLive (t.metaAddr .acc n).1 = true) ↔ (s.metaPending .acc n = true ∨ s.chLive (s.metaAddr .acc n).1 = true) := by
  rw [h.metaPending, h.metaAddr, h.chLive]

/-- The request waits for its accession line, whose read is under way. -/
theorem Sole.accMissed_waits {s : State} {q : Req} {h : Nat} (hs : Sole s q h) {t : Txn} (ht : t.req = q) (hw : s.metaPending .acc (q.page / 8) = true ∨ s.chLive (s.metaAddr .acc (q.page / 8)).1 = true) :
    TrafficKept { s with path := (s.accMissed t).path } (s.accMissed t) ∧ (s.accMissed t).path.ingress = [] ∧ (s.accMissed t).metaPending .acc (q.page / 8) = true
      ∧ (s.accMissed t).path.txns = [{ t with phase := .acc }] := by
  subst ht
  have hpending := State.metaPending_metaRead s .acc (t.req.page / 8) t.req.readFor hw
  obtain ⟨hout, hdir, hmedia, htxns, hingress⟩ := State.metaRead_traffic s .acc (t.req.page / 8) t.req.readFor
  obtain ⟨u, hu, hid⟩ := hs.txns
  have hmissed : s.accMissed t = (s.metaRead .acc (t.req.page / 8) t.req.readFor).setTxn { t with phase := .acc } := by
    unfold State.accMissed
    dsimp only
    rw [if_pos hpending]
  rw [hmissed]
  refine ⟨⟨hout, hdir, hmedia, rfl⟩, hingress.trans hs.ingress, hpending, ?_⟩
  show (State.path _).txns.map _ = _
  rw [htxns, hu]
  simp [hid]

/-- The request is served when its accession line can neither be read nor is being read. -/
theorem State.accMissed_served {s : State} {t : Txn} (hw : ¬ (s.metaPending .acc (t.req.page / 8) = true ∨ s.chLive (s.metaAddr .acc (t.req.page / 8)).1 = true)) : s.accMissed t = s.dispatch t := by
  rw [not_or, Bool.not_eq_true, Bool.not_eq_true] at hw
  unfold State.accMissed
  dsimp only
  rw [State.metaRead_of_lost _ _ _ _ hw.2, hw.1]
  rfl

/-- What the arbiter does with a lone request, once it is known what its dispatch does. -/
theorem State.arbitration_lone {s : State} {sl : SliceIx} {h : Nat} {q : Req} {d : Ld} (hl : s.lone sl q h d) (served : State → Prop)
    (hserve : ∀ u t, Aside (s.admitOne sl h t) u → Fresh t q → Sole u q h → (u.dispatch t).path.ingress = [] ∧ (u.dispatch t).media = s.media ∧ served (u.dispatch t)) :
    ∃ r, exec (.sliceArbitration sl) s = .next r ∧ s.admittedTo r q (served r) := by
  obtain ⟨u, t, hu, ht, htake⟩ := State.takeIn_lone hl
  have hs : Sole u q h := (State.sole_admitOne hl ht.req).aside hu
  have hwaits : (u.metaPending .acc (q.page / 8) = true ∨ u.chLive (u.metaAddr .acc (q.page / 8)).1 = true) ↔ (s.metaPending .acc (q.page / 8) = true ∨ s.chLive (s.metaAddr .acc (q.page / 8)).1 = true) :=
    hu.accWaits _
  obtain ⟨hing, hmedia, hdone⟩ := hserve u t hu ht hs
  have htick : s.sliceTick sl = if s.freeNow.getLsbD 0 then u.accMissed t else u.dispatch t := by
    rw [← htake]
    have harb := State.arbitrate_lone hl
    obtain ⟨hsafe, -, hrestart, -, ⟨htx, hben⟩, -, -, -, hfence, hexts, -⟩ := hl
    exact (State.sliceTick_quiet hrestart hsafe hfence hben htx s (by rw [exts_unchanged hexts])).1 h q harb
  refine ⟨s.sliceTick sl, rfl, ?_⟩
  rw [htick]
  by_cases hacc : s.accWaits q
  · obtain ⟨hkept, hingress, hpending, htxns⟩ := hs.accMissed_waits ht.req (hwaits.2 hacc.2)
    rw [if_pos hacc.1]
    exact ⟨hingress, by rw [hkept.media]; exact hu.media, fun _ => ⟨by rw [hkept.out]; exact hu.out, by rw [hkept.dir]; exact hu.dir, _, htxns, ht.req, rfl, hpending⟩, fun hn => absurd hacc hn⟩
  · have hdispatch : (if s.freeNow.getLsbD 0 then u.accMissed t else u.dispatch t) = u.dispatch t := by
      split
      case isTrue hb => exact State.accMissed_served (by rw [ht.req, hwaits]; exact fun hw => hacc ⟨hb, hw⟩)
      case isFalse => rfl
    rw [hdispatch]
    exact ⟨hing, hmedia, fun hw => absurd hw hacc, fun _ => hdone⟩

/-! ### What a lone request comes to -/

/-- A page that holds nothing holds nothing beside the admission either. -/
theorem Aside.blank {s u : State} {p : Nat} (hu : Aside s u) (hb : s.blank p) : u.blank p := ⟨by rw [hu.acc]; exact hb.1, (hu.guard p).trans hb.2⟩

/-- A way is offered as free for what stands in the ways alone, whatever transactions pin. -/
theorem State.wayFor_free_iff {s : State} {line k : Nat} : s.wayFor line = .free k
    ↔ ((List.range 16).map (dirKey (sliceOfLine line) (dirSet line))).find? (fun k => (Tbl.look s.dir.ways k).isNone) = some k := by
  unfold State.wayFor
  dsimp only
  split
  case h_1 j hfree => rw [hfree, WayFor.free.injEq, Option.some.injEq]
  case h_2 hfull =>
    rw [hfull]
    split <;> simp

section Cases
variable {s : State} {sl : SliceIx} {q : Req} {h : Nat} {d : Ld} (hl : s.lone sl q h d)
include hl

theorem State.arbitration_readBlank (hdb : s.isDb q.page = false) (hb : s.blank q.page) (hop : q.op = .rd) :
    ∃ t, exec (.sliceArbitration sl) s = .next t ∧ s.admittedTo t q (t.out = .memData h q.tag 0 false .noOp :: s.out ∧ t.noTxn ∧ t.dir = s.dir) :=
  State.arbitration_lone hl (fun t => t.out = .memData h q.tag 0 false .noOp :: s.out ∧ t.noTxn ∧ t.dir = s.dir) fun u t hu ht hs => by
    have hdone := (hs.read_blank ht ((hu.isDb _).trans hdb) (hu.blank hb) hop).aside hu
    have hbench : s.dir.bench = [] := hs.bench ▸ (congrArg Dir.bench hu.dir).symm
    exact ⟨hdone.ingress, hdone.media, hdone.out, ⟨hdone.txns, by rw [hdone.dir]; exact hbench⟩, hdone.dir⟩

theorem State.arbitration_readNewLine {k : Nat} (hdb : s.isDb q.page = true) (hb : s.blank q.page) (hop : q.op = .rd) (hnone : s.entry? q.line = none) (hway : s.wayFor q.line = .free k)
    (hsnp : q.snp = .data ∨ q.snp = .inv) :
    ∃ t, exec (.sliceArbitration sl) s = .next t ∧ s.admittedTo t q (t.noTxn ∧ ∃ e, Tbl.look t.dir.ways k = some e ∧ e.line = q.line ∧ e.sharers = headBit h ∧ e.age = 0
      ∧ (q.snp = .data → e.st = .s ∧ t.out = .memData h q.tag 0 false .s :: s.out) ∧ (q.snp = .inv → e.st = .o ∧ e.named = h ∧ t.out = .memData h q.tag 0 false q.mv :: s.out)) :=
  State.arbitration_lone hl (fun t => t.noTxn ∧ ∃ e, Tbl.look t.dir.ways k = some e ∧ e.line = q.line ∧ e.sharers = headBit h ∧ e.age = 0
      ∧ (q.snp = .data → e.st = .s ∧ t.out = .memData h q.tag 0 false .s :: s.out) ∧ (q.snp = .inv → e.st = .o ∧ e.named = h ∧ t.out = .memData h q.tag 0 false q.mv :: s.out)) fun u t hu ht hs => by
    have hcls : q.cls43 = .rdShared ∨ q.cls43 = .rdOwn := hsnp.imp (fun hd => by simp only [Req.cls43, hop, hd]) (fun hi => by simp only [Req.cls43, hop, hi])
    have hwayu : u.wayFor q.line = .free k := by
      rw [State.wayFor_free_iff, hu.dir]
      exact (State.wayFor_free_iff (s := s)).1 hway
    obtain ⟨v, ways, rfl, hlook, hdone⟩ := hs.read_newLine ht ((hu.isDb _).trans hdb) (hu.blank hb) hop ((hu.entry? _).trans hnone) hwayu hcls
    have hout : (u.dispatch t).out = .memData h q.tag 0 false (readMv true q) :: s.out := by rw [hdone.out]; exact congrArg _ hu.out
    refine ⟨hdone.ingress, hdone.media.trans hu.media, ⟨hdone.txns, by rw [hdone.dir]; exact hs.bench⟩, _, by rw [hdone.dir]; exact hlook, ?_⟩
    rcases hsnp with hd | hi
    · have hc : q.cls43 = .rdShared := by simp only [Req.cls43, hop, hd]
      simp [newEntry, hc, hd, hout, readMv]
    · have hc : q.cls43 = .rdOwn := by simp only [Req.cls43, hop, hi]
      simp [newEntry, hc, hi, hout, readMv]

theorem State.arbitration_readOwned {g i k : Nat} {e : DirEntry} (hdb : s.isDb q.page = true) (hop : q.op = .rd) (hsnp : q.snp = .data) (he : s.entry? q.line = some (k, e)) (hst : e.st = .o)
    (hnamed : e.named = g) (hgh : g ≠ h) (hsh : e.sharers = headBit g) (hg : g < 16) (hsn : s.snoopable g q.line = true) (hi : s.mapper g (unitOfPage q.page) = some i)
    (hp : s.rd (Reg.GLB_HEAD_STATUS_PSTATE g) ≤ 1) (hc : 0 < Tbl.lookD s.dir.credits 0 g) :
    ∃ t, exec (.sliceArbitration sl) s = .next t ∧ s.admittedTo t q (t.out = .bisnp g (s.ldIdOf g i) q.line .data :: s.out ∧ (∃ x, t.path.txns = [x] ∧ x.req = q ∧ x.phase = .exch)
      ∧ t.dir.exchs = [{ line := q.line, why := .txn q.id, waits := [{ head := g, snp := .data, start := s.tick, sent := true }], heads := [g] }] ∧ Tbl.lookD t.dir.credits 0 g + 1 = Tbl.lookD s.dir.credits 0 g) :=
  State.arbitration_lone hl (fun t => t.out = .bisnp g (s.ldIdOf g i) q.line .data :: s.out ∧ (∃ x, t.path.txns = [x] ∧ x.req = q ∧ x.phase = .exch)
      ∧ t.dir.exchs = [{ line := q.line, why := .txn q.id, waits := [{ head := g, snp := .data, start := s.tick, sent := true }], heads := [g] }]
      ∧ Tbl.lookD t.dir.credits 0 g + 1 = Tbl.lookD s.dir.credits 0 g) fun u t hu ht hs => by
    have hcu : Tbl.lookD u.dir.credits 0 g = Tbl.lookD s.dir.credits 0 g := by rw [hu.dir]; rfl
    obtain ⟨x, ways, hreq, hphase, hkept⟩ := hs.read_owned ht ((hu.isDb _).trans hdb) hop hsnp ((hu.entry? _).trans he) hst hnamed hgh hsh hg ((hu.snoopable g q.line hg).trans hsn)
      ((hu.mapper ..).trans hi) (by rw [hu.pstate g hg]; exact hp) (by rw [hcu]; exact hc)
    have hout : Out.bisnp g (u.ldIdOf g i) q.line .data :: u.out = .bisnp g (s.ldIdOf g i) q.line .data :: s.out := by rw [hu.ldIdOf, hu.out]; rfl
    have hcredit : Tbl.lookD (u.dispatch t).dir.credits 0 g = Tbl.lookD s.dir.credits 0 g - 1 := by
      rw [hkept.dir, ← hcu]
      exact Tbl.lookD_putD_same ..
    refine ⟨by rw [hkept.path]; exact hs.ingress, hkept.media.trans hu.media, hkept.out.trans hout, ⟨x, by rw [hkept.path]; exact hs.setTxn x (by rw [hreq]), hreq, hphase⟩, ?_, by omega⟩
    rw [hkept.dir]
    show [soleExch q.line (.txn q.id) g .data u.tick] = _
    rw [hu.tick]
    rfl

theorem State.arbitration_writeHot {c fr : Nat} {r : Option Nat} (hdb : s.isDb q.page = false) (hop : q.op = .wr) (hform : (s.acc q.page).form = .hot c fr r) (hsrc : s.srcForm q.page = .hot c fr r)
    (hguard : s.guard q.page = none) (hregion : ∀ e, s.regionAt q.page = some e → e.2.readonly = false) :
    ∃ t, exec (.sliceArbitration sl) s = .next t ∧ s.admittedTo t q (t.out = s.out ∧ ∃ x, t.path.txns = [x] ∧ x.req = q ∧ x.phase = .accept) :=
  State.arbitration_lone hl (fun t => t.out = s.out ∧ ∃ x, t.path.txns = [x] ∧ x.req = q ∧ x.phase = .accept) fun u t hu ht hs => by
    obtain ⟨x, hset, hreq, hphase⟩ := hs.write_hot ht ((hu.isDb _).trans hdb) hop (by rw [hu.acc]; exact hform) ((hu.srcForm _).trans hsrc) ((hu.guard _).trans hguard)
      (fun e he => hregion e ((hu.regionAt _).symm.trans he))
    rw [hset]
    exact ⟨hs.ingress, hu.media, hu.out, x, hs.setTxn x (by rw [hreq]), hreq, hphase⟩

theorem State.arbitration_evict {k : Nat} {e : DirEntry} (hdb : s.isDb q.page = true) (hop : q.op = .evict) (he : s.entry? q.line = some (k, e)) (hst : e.st = .s) (hsh : e.sharers = headBit h)
    (hsn : s.snoopable h q.line = true) :
    ∃ t, exec (.sliceArbitration sl) s = .next t ∧ s.admittedTo t q (t.out = .cmp h q.tag .noOp :: s.out ∧ Tbl.look t.dir.ways k = none ∧ t.noTxn) :=
  State.arbitration_lone hl (fun t => t.out = .cmp h q.tag .noOp :: s.out ∧ Tbl.look t.dir.ways k = none ∧ t.noTxn) fun u t hu ht hs => by
    obtain ⟨v, ways, rfl, hlook, hdone⟩ := hs.evict_sharer ht ((hu.isDb _).trans hdb) hop ((hu.entry? _).trans he) hst hsh ((hu.snoopable h q.line hs.head).trans hsn)
    exact ⟨hdone.ingress, hdone.media.trans hu.media, by rw [hdone.out]; exact congrArg _ hu.out, by rw [hdone.dir]; exact hlook, hdone.txns, by rw [hdone.dir]; exact hs.bench⟩

end Cases

/-- Settles O41: the arbiter admits the lone request, which its accession line keeps waiting or which is served as its page and its directory entry say. -/
theorem sliceArbitrationServesRequests : Obligations.SliceArbitrationServesRequests := by
  unfold Obligations.SliceArbitrationServesRequests
  refine ⟨fun sl s hidle => ?_, fun sl s hr hsafe hing htx hben hf => ?_, fun sl q h d s hl hdb hb hop => State.arbitration_readBlank hl hdb hb hop,
    fun sl q h k d s hl hdb hb hop hnone hway hsnp => State.arbitration_readNewLine hl hdb hb hop hnone hway hsnp,
    fun sl q h g i k d e s hl hdb hop hsnp he hst hnamed hgh hsh hg hsn hi hp hc => State.arbitration_readOwned hl hdb hop hsnp he hst hnamed hgh hsh hg hsn hi hp hc,
    fun sl q h c fr r d s hl hdb hop hform hsrc hguard hregion _ => State.arbitration_writeHot hl hdb hop hform hsrc hguard hregion,
    fun sl q h k d e s hl hdb hop he hst hsh hsn => State.arbitration_evict hl hdb hop he hst hsh hsn⟩
  · have hsame : s.sliceTick sl = s := by
      rw [State.sliceTick, if_pos]
      rcases hidle with hr | hsafe
      · simp [hr]
      · simp [hsafe]
    exact congrArg Host.Outcome.next hsame
  · exact congrArg Host.Outcome.next ((State.sliceTick_quiet hr hsafe hf hben htx _ rfl).2 (State.arbitrate_nothing sl hing))

end Sys2Proof.Machine
end

section
/-! Commands that act on an LD or on the Fabric Manager's interface: from the meaning of a command to the checks and the effect of a statement (`RunsOnLd`). -/
namespace Sys2Proof

/-- Only the value that is listed for a key matters of a change of it. -/
theorem Tbl.modify_congr {α : Type} {t : Tbl α} {k : Nat} {x : α} {f g : α → α} (hx : Tbl.look t k = some x) (hfg : f x = g x) : Tbl.modify t k f = Tbl.modify t k g := by
  induction t with
  | nil => rfl
  | cons p r ih =>
    obtain ⟨j, w⟩ := p
    by_cases hj : j = k
    · obtain rfl : w = x := by simpa [Tbl.look, hj] using hx
      simp [Tbl.modify, hj, hfg]
    · simp only [Tbl.look, hj, ↓reduceIte] at hx
      simp [Tbl.modify, hj, ih hx]

end Sys2Proof

namespace Sys2Proof.Machine

/-! ### Commands that act on an LD -/

/-- Checks after checks are one list of checks. -/
theorem Ans.after_append (l m : List Chk) (a : Ans) : Ans.after l (Ans.after m a) = Ans.after (l ++ m) a := by
  rw [Ans.after_eq, Ans.after_eq, Ans.after_eq, List.find?_append]
  cases l.find? (fun c => c.bad) <;> rfl

/-- A command acts on the LD that its source is, or that the Fabric Manager names. -/
theorem State.onLd_of_ld {s : State} {h : Hdr} {i : Nat} {d : Ld} (f : Nat → Ld → Ans) (hi : hdrOwn h = some i) (hd : s.ld? i = some d) : s.onLd h f = f i d := by
  simp [State.onLd, State.ownLd, hi, hd]

/-- With no such LD the command is refused. -/
theorem State.onLd_of_none {s : State} {h : Hdr} (f : Nat → Ld → Ans) (hn : ∀ i, hdrOwn h = some i → s.ld? i = none) : s.onLd h f = .fail rcInput 0 0 := by
  cases hi : hdrOwn h with
  | none => simp [State.onLd, State.ownLd, hi]
  | some i => simp [State.onLd, State.ownLd, hi, hn i hi]

/-- What a change makes of an LD is all that matters of it. -/
theorem State.updLd_congr {s : State} {i : Nat} {d : Ld} {f g : Ld → Ld} (hd : s.ld? i = some d) (hfg : f d = g d) : s.updLd i f = s.updLd i g :=
  congrArg (fun l : Tbl Ld => { s with lds := l }) (Tbl.modify_congr hd hfg)

/-- A command that changed state and carries no request identity concludes with its reply alone (R345). -/
theorem State.conclude_unrecorded (s t : State) {o : CmdOp} {p : Packet} (ho : o.Of p) (hy : o.ycs = false) (rc : Nat) (body : List Byte) :
    s.conclude p.h o (.done t rc body) = t.replied p rc 0 0 body := by
  simp [State.conclude, State.answer_eq_replied _ ho, hy]

/-- A standard command that makes its own checks, then those of its LD, and then replies from the state that it leads to. -/
theorem runsOnLd_std {c : Instr} {s : State} {p : Packet} {o : CmdOp} {args : List Byte} {own : List Chk} {f : Nat → Ld → Ans} {inner : Nat → Ld → List Chk}
    {t : Nat → Ld → State} {body : Nat → Ld → List Byte} {before : Checks} {checks : Nat → Ld → Checks} {good : Nat → Ld → Packet → State}
    (hc : packetOf c = some p) (hx : exec c s = .next (s.command args p.h o (Ans.after own (s.onLd p.h f)))) (ho : o.Of p) (hb : o.bg = false) (hbusy : o.busy = false)
    (hy : o.ycs = false) (hown : own.map Chk.row = before) (hf : ∀ i d, f i d = Ans.after (inner i d) (.done (t i d) 0 (body i d)))
    (hinner : ∀ i d, (inner i d).map Chk.row = checks i d) (hgood : ∀ i d, s.ld? i = some d → good i d p = (t i d).replied p 0 0 0 (body i d)) :
    RunsOnLd c p.h s before checks good := by
  refine ⟨fun i d hi hd => ?_, fun hn => ?_⟩
  · rw [State.onLd_of_ld f hi hd, hf, Ans.after_append] at hx
    exact runs_plain hc hx ho hb hbusy (by simp [hown, hinner]) fun _ => (State.conclude_unrecorded _ _ ho hy _ _).trans (hgood i d hd).symm
  · rw [State.onLd_of_none f hn, Ans.after_fail] at hx
    exact runs_plain (a := .fail rcInput 0 0) hc hx ho hb hbusy (by simp [hown, Chk.row, rcInput]) fun hall => absurd (hall (true, 2, 0, 0) (by simp)) (by simp)

/-- What no packet brings to the interpreter needs no proof: a command of the Fabric Manager's interface from another source is another command (R343). -/
theorem runs_of_fm {c : Instr} {s : State} {p : Packet} {checks : Checks} {good : Packet → State} (hc : packetOf c = some p) (hfm : p.fm = true)
    (hrun : hdrIsFm p.h = true → Runs c s checks good) : Runs c s checks good := by
  by_cases hs : hdrIsFm p.h = true
  · exact hrun hs
  · unfold Runs
    rw [hc]
    intro hp
    obtain ⟨⟨⟨-, -, -, hsrc⟩, -⟩, -⟩ := hp
    exact absurd (hsrc hfm) hs

/-- The same of a command that acts on an LD. -/
theorem runsOnLd_of_fm {c : Instr} {s : State} {p : Packet} {before : Checks} {checks : Nat → Ld → Checks} {good : Nat → Ld → Packet → State} (hc : packetOf c = some p) (hfm : p.fm = true)
    (hrun : hdrIsFm p.h = true → RunsOnLd c p.h s before checks good) : RunsOnLd c p.h s before checks good :=
  ⟨fun i d hi hd => runs_of_fm hc hfm fun hs => (hrun hs).1 i d hi hd, fun hn => runs_of_fm hc hfm fun hs => (hrun hs).2 hn⟩

/-- From the sideband a command of the Fabric Manager's interface is one of the interpreter. -/
theorem State.fmCommand_of_fm (s : State) (args : List Byte) {h : Hdr} (code : Nat) (changes : Bool) (a : Ans) (hs : hdrIsFm h = true) :
    s.fmCommand args h code changes a = s.command args h { code := code, cls := .f, changes := changes, ycs := false } a := if_pos hs

end Sys2Proof.Machine
end

section
/-! GET_IDENTITY and GET_SETTINGS (R45, R357), and the Dynamic Capacity commands of an LD (R55 to R57, R96). -/
namespace Sys2Proof.Machine

/-! ### Identity and OTP settings -/

theorem runs_getIdentity (h : Hdr) (s : State) : Runs (.getIdentity h) s [] (fun p => s.replied p 0 0 0 s.identityBody) :=
  have ho : CmdOp.Of { code := 0xC000, cls := .u, rom := true } { h := h, code := 0xC000, cls := .u, rom := true } := ⟨rfl, rfl, rfl, rfl, rfl⟩
  runs_plain (own := []) rfl rfl ho rfl rfl rfl fun _ => State.conclude_replied _ _ ho rfl _ _

theorem runs_getSettings (h : Hdr) (gen : BitVec 8) (s : State) :
    Runs (.getSettings h gen) s [(decide (3 < gen.toNat ∧ gen ≠ 0xFF#8), 2, 1, 0)] (fun p => s.replied p 0 0 0 (s.settingsBody gen.toNat)) :=
  have ho : CmdOp.Of { code := 0xC001, cls := .m } { h := h, code := 0xC001, cls := .m } := ⟨rfl, rfl, rfl, rfl, rfl⟩
  runs_plain (own := [{ bad := decide (3 < gen.toNat ∧ gen ≠ 0xFF#8), rc := rcInput, at' := 1 }]) rfl rfl ho rfl rfl rfl fun _ => State.conclude_replied _ _ ho rfl _ _

/-- A check that is never bad is no check. -/
theorem Runs.drop_good {c : Instr} {s : State} {rc d v : Nat} {checks : Checks} {good : Packet → State} (h : Runs c s ((false, rc, d, v) :: checks) good) : Runs c s checks good := by
  unfold Runs at h ⊢
  split at h
  · exact h
  · intro hp
    obtain ⟨hall, hbad⟩ := h hp
    exact ⟨fun hk => hall (by simpa using hk), fun k hk => hbad k (by simpa using hk)⟩

/-- Settles O3: the two commands reply with the bodies of their meanings, which are those of the statement for a generation and for the settings in use. -/
theorem identityAndSettingsReply : Obligations.IdentityAndSettingsReply := by
  unfold Obligations.IdentityAndSettingsReply
  refine ⟨runs_getIdentity, fun h gen s => ⟨fun hgen => ?_, fun hgen hset => ?_⟩⟩
  · have hn : gen.toNat ≠ 0xFF := fun hn => hgen (BitVec.eq_of_toNat_eq hn)
    simpa [hgen, State.settingsBody, hn] using runs_getSettings h gen s
  · subst hgen
    have hrun := runs_getSettings h 0xFF#8 s
    simp only [ne_eq, not_true_eq_false, and_false, decide_false, State.settingsBody, hset, BitVec.toNat_ofNat, Nat.reducePow, Nat.reduceMod, ↓reduceIte] at hrun
    exact hrun.drop_good

/-! ### Dynamic Capacity of an LD -/

/-- What a standard command of Table 15.1 is to the interpreter and to a statement. -/
theorem stdOp_of (code : Nat) (changes bg : Bool) (h : Hdr) : CmdOp.Of (stdOp code changes bg) { h := h, code := code, cls := .u, ycs := false } := ⟨rfl, rfl, rfl, rfl, rfl⟩

theorem runsOnLd_getDynamicCapacityConfiguration (h : Hdr) (s : State) : RunsOnLd (.getDynamicCapacityConfiguration h) h s [] (fun _ _ => [])
    (fun _ d p => s.advanceFree.replied p 0 0 0 (leBytes 1 8 ++ leBytes 1 8 ++ leBytes 6 0 ++ (List.range 8).flatMap (dcRegionBody d) ++ leBytes 4 256 ++ leBytes 4 (256 - d.exts.length)
      ++ leBytes 8 s.freeNow.toNat)) :=
  runsOnLd_std (own := []) (inner := fun _ _ => []) rfl rfl (stdOp_of 0x4800 false false h) rfl rfl rfl rfl (fun _ _ => rfl) (fun _ _ => rfl) (fun _ _ _ => rfl)

theorem runsOnLd_getDynamicCapacityExtentList (h : Hdr) (s : State) : RunsOnLd (.getDynamicCapacityExtentList h) h s [] (fun _ _ => [])
    (fun _ d p => s.advanceFree.replied p 0 0 0 (s.extentsBody d)) :=
  runsOnLd_std (own := []) (inner := fun _ _ => []) rfl rfl (stdOp_of 0x4801 false false h) rfl rfl rfl rfl (fun _ _ => rfl) (fun _ _ => rfl) (fun _ _ _ => rfl)

/-- The arm of ADD_DYNAMIC_CAPACITY_RESPONSE on the LD of its source. -/
theorem exec_addDynamicCapacityResponse (rs : List (BitVec 64 × BitVec 64)) {h : Hdr} {s : State} {i : Nat} {d : Ld} (hi : hdrOwn h = some i) (hd : s.ld? i = some d) :
    exec (.addDynamicCapacityResponse h rs) s = .next (s.command (rangeArgs rs) h (stdOp 0x4802 true false) (s.acceptOffer i d rs)) := by
  rw [← State.onLd_of_ld (fun i d => s.acceptOffer i d rs) hi hd]
  rfl

/-- With no offer to answer, the response is refused. -/
theorem runs_addDynamicCapacityResponse_noOffer (rs : List (BitVec 64 × BitVec 64)) {h : Hdr} {s : State} {i : Nat} {d : Ld} (hi : hdrOwn h = some i) (hd : s.ld? i = some d)
    (ho : d.offers = []) : Runs (.addDynamicCapacityResponse h rs) s [(true, 0x1E, 0, 0)] (fun _ => s) := by
  have hrefused : s.acceptOffer i d rs = Ans.after [{ bad := true, rc := rcExtentList }] (.fail 0 0 0) := by
    simp only [State.acceptOffer, ho]
    rfl
  have hx := exec_addDynamicCapacityResponse rs hi hd
  rw [hrefused] at hx
  exact runs_plain rfl hx (stdOp_of 0x4802 true false h) rfl rfl rfl fun hall => absurd (hall (true, 0x1E, 0, 0) (by simp)) (by simp)

/-- The oldest offer is answered: the part of it that is accepted enters the LD's map. -/
theorem runs_addDynamicCapacityResponse (rs : List (BitVec 64 × BitVec 64)) {h : Hdr} {s : State} {i : Nat} {d : Ld} {o : DcOffer} {rest : List DcOffer} (hi : hdrOwn h = some i)
    (hd : s.ld? i = some d) (ho : d.offers = o :: rest) :
    Runs (.addDynamicCapacityResponse h rs) s
      [(!rs.all wholeUnits || decide (((rs.map inUnits).filterMap (s.acceptOne o)).length ≠ rs.length) || overlaps (rs.map inUnits)
          || ((rs.map inUnits).filterMap (s.acceptOne o)).any (fun e => (s.regionOver e.unit e.len).isNone), 0x1E, 0, 0),
        (((rs.map inUnits).filterMap (s.acceptOne o)).any (fun e => s.mapsTwice i e.unit e.len)
          || s.tagDiffers i o.tag (((rs.map inUnits).filterMap (s.acceptOne o)).map (fun e => (e.unit, e.len))) false, 2, 0, 0),
        (decide (256 < d.exts.length + ((rs.map inUnits).filterMap (s.acceptOne o)).length), 0x1D, 0, 0)]
      (fun p => (s.updLd i (fun x => { x with offers := rest, exts := x.exts ++ (rs.map inUnits).filterMap (s.acceptOne o) })).replied p 0 0 0 []) := by
  have hx := exec_addDynamicCapacityResponse rs hi hd
  rw [State.acceptOffer, ho] at hx
  simp only [List.length_map] at hx
  exact runs_plain rfl hx (stdOp_of 0x4802 true false h) rfl rfl rfl fun _ => State.conclude_unrecorded _ _ (stdOp_of 0x4802 true false h) rfl _ _

theorem runsOnLd_releaseDynamicCapacity (h : Hdr) (rs : List (BitVec 64 × BitVec 64)) (s : State) : RunsOnLd (.releaseDynamicCapacity h rs) h s []
    (fun _ d => [(!rs.all wholeUnits || overlaps (rs.map inUnits) || !(rs.map inUnits).all (heldBy d), 0x1E, 0, 0), (decide (256 < (cutFor d rs).length), 0x1D, 0, 0)])
    (fun i _ p => (((rs.map inUnits).foldl (fun s r => s.releaseUnits i r) (s.updLd i (fun d => { d with exts := cutFor d rs }))).replied p 0 0 0 [])) :=
  runsOnLd_std (own := []) rfl rfl (stdOp_of 0x4803 true false h) rfl rfl rfl rfl (fun _ _ => rfl) (fun _ _ => rfl) fun i d hd => by
    rw [State.updLd_congr (g := fun x => { x with exts := cutFor d rs }) hd rfl]
    rfl

/-- Settles O21: for each command its checks and effect (`runsOnLd_…`), those of a response by whether an offer waits for one. -/
theorem dynamicCapacityCommandsTakeEffect : Obligations.DynamicCapacityCommandsTakeEffect := by
  unfold Obligations.DynamicCapacityCommandsTakeEffect
  exact ⟨runsOnLd_getDynamicCapacityConfiguration, runsOnLd_getDynamicCapacityExtentList, fun h rs s i d o rest hi hd ho => runs_addDynamicCapacityResponse rs hi hd ho,
    fun h rs s i d hi hd ho => runs_addDynamicCapacityResponse_noOffer rs hi hd ho, runsOnLd_releaseDynamicCapacity⟩

end Sys2Proof.Machine
end

section
/-! The Fabric Manager's commands (Table 15.1): queries, the tunnel (R341), and Dynamic Capacity (R55 to R58, R96). -/
namespace Sys2Proof.Machine

/-! ### Commands of the Fabric Manager's interface -/

/-- What a command of the Fabric Manager's interface is to the interpreter. -/
def fmOp (code : Nat) (changes : Bool) : CmdOp := { code := code, cls := .f, changes := changes, ycs := false }

/-- What its packet is to a statement. -/
def fmPacket (h : Hdr) (code : Nat) : Packet := { h := h, code := code, cls := .f, ycs := false, fm := true }

theorem fmOp_of (code : Nat) (changes : Bool) (h : Hdr) : (fmOp code changes).Of (fmPacket h code) := ⟨rfl, rfl, rfl, rfl, rfl⟩

/-- A command of the interface that makes its own checks and replies. -/
theorem runs_fm {c : Instr} {s t : State} {h : Hdr} {code : Nat} {changes : Bool} {args : List Byte} {own : List Chk} {body : List Byte} {checks : Checks} {good : Packet → State}
    (hc : packetOf c = some (fmPacket h code)) (hx : exec c s = .next (s.fmCommand args h code changes (Ans.after own (.done t 0 body)))) (hown : own.map Chk.row = checks)
    (hgood : good (fmPacket h code) = t.replied (fmPacket h code) 0 0 0 body) : Runs c s checks good :=
  runs_of_fm hc rfl fun hs => runs_plain (o := fmOp code changes) hc (hx.trans (congrArg _ (State.fmCommand_of_fm s args code changes _ hs))) (fmOp_of code changes h) rfl rfl hown
    fun _ => (State.conclude_unrecorded s t (fmOp_of code changes h) rfl 0 body).trans hgood.symm

/-- A command of the interface that acts on an LD. -/
theorem runsOnLd_fm {c : Instr} {s : State} {h : Hdr} {code : Nat} {changes : Bool} {args : List Byte} {own : List Chk} {f : Nat → Ld → Ans} {inner : Nat → Ld → List Chk}
    {t : Nat → Ld → State} {body : Nat → Ld → List Byte} {before : Checks} {checks : Nat → Ld → Checks} {good : Nat → Ld → Packet → State}
    (hc : packetOf c = some (fmPacket h code)) (hx : exec c s = .next (s.fmCommand args h code changes (Ans.after own (s.onLd h f)))) (hown : own.map Chk.row = before)
    (hf : ∀ i d, f i d = Ans.after (inner i d) (.done (t i d) 0 (body i d))) (hinner : ∀ i d, (inner i d).map Chk.row = checks i d)
    (hgood : ∀ i d, s.ld? i = some d → good i d (fmPacket h code) = (t i d).replied (fmPacket h code) 0 0 0 (body i d)) : RunsOnLd c h s before checks good :=
  runsOnLd_of_fm hc rfl fun hs => runsOnLd_std (o := fmOp code changes) hc (hx.trans (congrArg _ (State.fmCommand_of_fm s args code changes _ hs))) (fmOp_of code changes h) rfl rfl rfl
    hown hf hinner hgood

/-! ### Queries -/

theorem runs_fmIdentify (h : Hdr) (s : State) : Runs (.fmIdentify h) s [] (fun p => s.advanceFree.replied p 0 0 0 (leBytes 2 Config.vendorId.toNat ++ leBytes 2 (s.rd Reg.GLB_ID_PART)
    ++ leBytes 4 s.freeNow.toNat ++ leBytes 8 (s.rd Reg.GLB_SERIAL_SERIAL) ++ leBytes 1 12 ++ leBytes 1 3)) :=
  runs_fm (own := []) rfl rfl rfl rfl

theorem runs_getMultiHeadedInfo (h : Hdr) (s : State) : Runs (.getMultiHeadedInfo h) s [] (fun p => s.replied p 0 0 0 (leBytes 1 s.lds.length ++ leBytes 1 s.headList.length
    ++ leBytes 2 0 ++ leBytes 1 0 ++ leBytes 1 64 ++ leBytes 2 0 ++ (List.range 64).flatMap (fun i => leBytes 1 (((s.ld? i).map (fun d => d.head)).getD 255)))) := by
  have hhead (i : Nat) : ((s.ld? i).map (fun d => d.head)).getD 255 = (match s.ld? i with | some d => d.head | none => 255) := by cases s.ld? i <;> rfl
  simp only [hhead]
  exact runs_fm (own := []) rfl rfl rfl rfl

theorem runs_getHeadInfo (h : Hdr) (start count : BitVec 8) (s : State) : Runs (.getHeadInfo h start count) s [(decide (s.headList.length ≤ start.toNat), 2, 0, 0)]
    (fun p => s.replied p 0 0 0 (leBytes 1 ((s.headList.drop start.toNat).take count.toNat).length ++ leBytes 3 0
      ++ ((s.headList.drop start.toNat).take count.toNat).flatMap s.headImage)) :=
  runs_fm rfl rfl rfl rfl

theorem runs_getLdInfo (h : Hdr) (s : State) : Runs (.getLdInfo h) s []
    (fun p => s.advanceFree.replied p 0 0 0 (leBytes 8 (s.boot.h * 2 ^ 28) ++ leBytes 2 s.lds.length ++ leBytes 1 s.freeNow.toNat)) :=
  runs_fm (own := []) rfl rfl rfl rfl

theorem runs_getDcdInfo (h : Hdr) (s : State) : Runs (.getDcdInfo h) s [] (fun p => s.advanceFree.replied p 0 0 0 (leBytes 1 s.lds.length ++ leBytes 1 8 ++ leBytes 2 0
    ++ leBytes 8 s.freeNow.toNat ++ leBytes 8 (s.boot.h * 2 ^ 28) ++ (List.range 8).flatMap (fun _ => leBytes 8 (2 ^ 28 + 2 ^ 30 + 2 ^ 32)))) :=
  runs_fm (own := []) rfl rfl rfl rfl

theorem runsOnLd_getHostDcRegionConfiguration (h : Hdr) (s : State) : RunsOnLd (.getHostDcRegionConfiguration h) h s [] (fun _ _ => []) (fun i d p => s.replied p 0 0 0
    (leBytes 2 i ++ leBytes 1 8 ++ leBytes 1 8 ++ (List.range 8).flatMap (dcRegionBody d))) :=
  runsOnLd_fm (own := []) (inner := fun _ _ => []) rfl rfl rfl (fun _ _ => rfl) (fun _ _ => rfl) (fun _ _ _ => rfl)

theorem runsOnLd_getDcRegionExtentLists (h : Hdr) (s : State) : RunsOnLd (.getDcRegionExtentLists h) h s [] (fun _ _ => []) (fun i d p => s.advanceFree.replied p 0 0 0
    (leBytes 2 i ++ leBytes 2 0 ++ s.extentsBody d)) :=
  runsOnLd_fm (own := []) (inner := fun _ _ => []) rfl rfl rfl (fun _ _ => rfl) (fun _ _ => rfl) (fun _ _ _ => rfl)

/-! ### The tunnel -/

/-- The tunnel runs the packet that it carries, on an MLD head (R341). -/
theorem runs_tunnelManagementCommand (h : Hdr) (head : Head) (inner : BitVec 16) (payload : List Byte) (s : State) : Runs (.tunnelManagementCommand h head inner payload) s
    [(!s.headExists head.val || !s.isMld head.val, 2, 0, 0)] (fun _ => s.packet h.src h.ldIx inner.toNat payload) :=
  runs_of_fm (p := fmPacket h 0x5300) rfl rfl fun hs =>
    runs_plain (o := fmOp 0x5300 false) (own := [{ bad := !s.headExists head.val || !s.isMld head.val, rc := rcInput }]) (a := .later (s.packet h.src h.ldIx inner.toNat payload)) rfl
      (congrArg Host.Outcome.next (State.fmCommand_of_fm s _ 0x5300 false _ hs)) (fmOp_of 0x5300 false h) rfl rfl rfl fun _ => rfl

/-- The header of a packet: its request identity, and nothing in its reserved bytes. -/
theorem leBytes_eight_of_sixteen (r : BitVec 16) : leBytes 8 r.toNat = leBytes 2 r.toNat ++ List.replicate 6 0 := by
  have hzero (k : Nat) (hk : 16 ≤ k) : BitVec.ofNat 8 (r.toNat >>> k) = 0#8 := by
    rw [Nat.shiftRight_eq_zero _ _ (Nat.lt_of_lt_of_le r.isLt (Nat.pow_le_pow_right (by decide) hk))]
  simp [leBytes, List.range, List.range.loop, hzero, List.replicate]

/-- The bytes of a request identity spell it. -/
theorem ofBytes_leBytes_two (r : BitVec 16) : BitVec.ofNat 16 (ofBytes (leBytes 2 r.toNat)) = r := by
  apply BitVec.eq_of_toNat_eq
  have hr := r.isLt
  simp [leBytes, List.range, List.range.loop, ofBytes, Nat.shiftRight_eq_div_pow]
  omega

/-- A YCS packet whose parameters have their length, and that names no LD, is the envelope of its request identity with them. -/
theorem ycsPacket_plain (src : Agent) (r : BitVec 16) {op : Nat} {b : List Byte} (hld : ldAhead op b.length (ycsWidths op b) = false) (hlen : b.length ≤ 4088)
    (hfit : faultAt (ycsWidths op b) b.length = none) : ycsPacket src op (leBytes 8 r.toNat ++ b) = ({ src := src, reqId := r }, b) := by
  have hsplit : leBytes 8 r.toNat ++ b = leBytes 2 r.toNat ++ (List.replicate 6 0 ++ b) := by rw [leBytes_eight_of_sixteen, List.append_assoc]
  have hlen8 : (leBytes 8 r.toNat ++ b).length = 8 + b.length := by simp [leBytes]
  have hdrop : (leBytes 8 r.toNat ++ b).drop 8 = b := List.drop_left' (by simp [leBytes])
  have hid : (leBytes 8 r.toNat ++ b).take 2 = leBytes 2 r.toNat := by rw [hsplit]; exact List.take_left' (by simp [leBytes])
  have hrsv : ((leBytes 8 r.toNat ++ b).take 8).drop 2 = List.replicate 6 0 := by
    rw [List.take_left' (by simp [leBytes]), leBytes_eight_of_sixteen]
    exact List.drop_left' (by simp [leBytes])
  have hsize : ¬ (8 + b.length < 8 ∨ 4096 < 8 + b.length) := by omega
  simp only [ycsPacket, hdrop, hid, hrsv, hlen8, hsize, Nat.add_sub_cancel_left, hld, hfit, ofBytes_leBytes_two, Bool.and_false, Bool.false_eq_true, ↓reduceIte]
  rfl

/-- A YCS packet other than PROGRAM_SETTINGS runs its opcode with its parameters. -/
theorem State.packet_plain (s : State) (src : Agent) (ld : Option (BitVec 8)) (r : BitVec 16) {op : Nat} {b : List Byte} (hop : 0xC000 ≤ op) (hne : op ≠ 0xC002)
    (hld : ldAhead op b.length (ycsWidths op b) = false) (hlen : b.length ≤ 4088) (hfit : faultAt (ycsWidths op b) b.length = none) :
    s.packet src ld op (leBytes 8 r.toNat ++ b) = (s.runOpcode op { src := src, reqId := r } b).advanceFree := by
  simp only [State.packet, ycsPacket_plain src r hld hlen hfit, hop, hne, ↓reduceIte]

/-- The part of O22 on the tunnel's packets: each opcode runs the command that it names. -/
theorem State.packet_runs (src : Agent) (ld : Option (BitVec 8)) (r : BitVec 16) (a b c : BitVec 8) (s : State) :
    s.packet src ld 0xC000 (leBytes 8 r.toNat) = (nextOf (exec (.getIdentity { src := src, reqId := r }) s) s).advanceFree
    ∧ s.packet src ld 0xC009 (leBytes 8 r.toNat ++ [a, b, c]) = (nextOf (exec (.disable { src := src, reqId := r } a b c) s) s).advanceFree
    ∧ s.packet src ld 0xC902 (leBytes 8 r.toNat) = (nextOf (exec (.fwCommit { src := src, reqId := r }) s) s).advanceFree
    ∧ s.packet src ld 0x4400 [] = (nextOf (exec (.sanitize { src := src, ldIx := ld }) s) s).advanceFree := by
  refine ⟨?_, ?_, ?_, rfl⟩
  · have hrun := s.packet_plain src ld r (op := 0xC000) (b := []) (by decide) (by decide) rfl (by decide) rfl
    rwa [List.append_nil] at hrun
  · rw [s.packet_plain src ld r (by decide) (by decide) rfl (by simp) rfl]
    exact congrArg State.advanceFree (State.runHeld_disable { src := src, reqId := r } a b c s)
  · have hrun := s.packet_plain src ld r (op := 0xC902) (b := []) (by decide) (by decide) rfl (by decide) rfl
    rwa [List.append_nil] at hrun

/-- The part of O22 on the commands that read, and on the tunnel. -/
theorem fabricQueriesReply : FabricQueriesReply :=
  ⟨runs_fmIdentify, runs_getMultiHeadedInfo, runs_getHeadInfo, runs_getLdInfo, runs_tunnelManagementCommand, State.packet_runs, runs_getDcdInfo, runsOnLd_getHostDcRegionConfiguration,
    runsOnLd_getDcRegionExtentLists⟩

/-! ### Dynamic Capacity from the Fabric Manager's side -/

/-- A release that is asked of the host: the records of it, and the message. -/
theorem runsOnLd_initiateDynamicCapacityRelease_asked (h : Hdr) (exts : List (BitVec 64 × BitVec 64)) (s : State) : RunsOnLd (.initiateDynamicCapacityRelease h false exts) h s []
    (fun _ d => [(!exts.all wholeUnits || !(exts.map inUnits).all (heldBy d), 2, 0, 0)])
    (fun i d p => (((s.dcRecords i d 1 0 (exts.map inUnits)).emit (.dcRelease i (exts.map inUnits) false))).replied p 0 0 0 []) :=
  runsOnLd_fm (own := []) rfl rfl rfl (fun _ _ => rfl) (fun _ _ => rfl) (fun _ _ _ => rfl)

/-- A forced release: the extents leave the LD without the host's response. -/
theorem runsOnLd_initiateDynamicCapacityRelease_forced (h : Hdr) (exts : List (BitVec 64 × BitVec 64)) (s : State) : RunsOnLd (.initiateDynamicCapacityRelease h true exts) h s []
    (fun _ d => [(!exts.all wholeUnits || overlaps (exts.map inUnits) || !(exts.map inUnits).all (heldBy d), 2, 0, 0), (decide (256 < (cutFor d exts).length), 0x1D, 0, 0)])
    (fun i d p => (((exts.map inUnits).foldl (fun s r => s.releaseUnits i r)
      ((((s.dcRecords i d 2 0 (exts.map inUnits)).emit (.dcRelease i (exts.map inUnits) true)).updLd i (fun x => { x with exts := cutFor d exts })))).replied p 0 0 0 [])) :=
  runsOnLd_fm (own := []) rfl rfl rfl (fun _ _ => rfl) (fun _ _ => rfl) (fun _ _ _ => rfl)

/-- The part of O22 on the commands that change Dynamic Capacity. -/
theorem fabricCapacityCommandsTakeEffect : FabricCapacityCommandsTakeEffect :=
  ⟨fun _ _ _ _ _ _ => runsOnLd_fm rfl rfl rfl (fun _ _ => rfl) (fun _ _ => rfl) (fun _ _ _ => rfl),
    fun _ _ _ _ => runsOnLd_fm (own := []) rfl rfl rfl (fun _ _ => rfl) (fun _ _ => rfl) (fun _ _ _ => rfl),
    runsOnLd_initiateDynamicCapacityRelease_asked, runsOnLd_initiateDynamicCapacityRelease_forced⟩

/-- Settles O22: its parts on the queries with the tunnel, and on Dynamic Capacity. -/
theorem fabricManagerCommands : Obligations.FabricManagerCommands := ⟨fabricQueriesReply, fabricCapacityCommandsTakeEffect⟩

end Sys2Proof.Machine
end

section
/-! Refutations of three statements whose frames leave out something that the model changes: the regions that a lost tag line marks LOST, the message of a link that wakes, and the counters of a station. -/
namespace Sys2Proof.Machine

/-! ### An abrupt DISABLE whose waiting read meets a lost tag line -/

/-- A released die whose pair 0 is healthy and whose channel 0 is lost. Every loss entry of the V-space is in use, each with the first unit. LD 0 of head 0 is ACTIVE, and a read of head 1 of page 1,
HOT and VITRINE, waits for the answer of head 0 to its BISnp. -/
def readAwaitsHead0 : State :=
  let s : State := { State.reset with
    boot := { State.reset.boot with released := true }
    lds := [(0, { head := 0, st := .active })]
    regions := [(0, { base := 0, len := 1, hdmDb := true, cls := .vitrine })]
    place := { acc := [(1, { form := .hot 0 0 none })] }
    path := { txns := [{ req := { id := 7, src := .head 1, ld := 1, op := .rd, line := 64, snp := .data }, slice := 1, phase := .exch }] }
    dir := { exchs := [{ line := 64, why := .txn 7, waits := [{ head := 0, snp := .data, start := 0, sent := true }], heads := [0] }] }
    regs := (List.range 64).map (fun n => (0x501000 + 8 * n, 3#32)) }
  (s.wrBit Reg.GLB_WDN_STATUS_HEALTHY 0 true).setFlag (Reg.DMC_FAULT_LOST 0) true

/-- DISABLE with MODE 1 of the LD with index 0, from the sideband. -/
def abruptDisable : Instr := .disable { src := .fm 0 } 0 0 1

/-- The packet of that DISABLE. -/
def abruptDisablePacket : Packet := { h := { src := .fm 0 }, code := 0xC009, cls := .f }

/-- The interpreter takes the DISABLE. -/
theorem readAwaitsHead0_ready : readAwaitsHead0.isReady abruptDisablePacket := by decide +kernel

/-- It meets no bad check: no background command of its source runs, and the LD exists. -/
theorem readAwaitsHead0_admits : (readAwaitsHead0.bgOf (.fm 0)).isSome = false ∧ (readAwaitsHead0.ld? 0).isNone = false := by decide +kernel

/-- The read goes on once head 0 has stopped, and finds its tag line lost: with no loss entry free, its region becomes LOST. -/
theorem abruptDisable_regions : (nextOf (exec abruptDisable readAwaitsHead0) readAwaitsHead0).regions ≠ readAwaitsHead0.regions := by decide +kernel

/-- Refutes O6: the regions do not stay where a read that an abrupt DISABLE lets go on meets a lost tag line and no loss entry is free. -/
theorem not_disableEnableAndCapacity : ¬ Obligations.DisableEnableAndCapacity := by
  unfold Obligations.DisableEnableAndCapacity
  rintro ⟨hdisable, -⟩
  obtain ⟨t, -, -, hregions, -, -, -, hruns⟩ := hdisable { src := .fm 0 } 0 0 1 readAwaitsHead0
  obtain ⟨hbg, hld⟩ := readAwaitsHead0_admits
  have hexec := (hruns readAwaitsHead0_ready).1 (by simp [hbg, hld])
  have hsame : (nextOf (exec abruptDisable readAwaitsHead0) readAwaitsHead0).regions = readAwaitsHead0.regions := by
    rw [show exec abruptDisable readAwaitsHead0 = _ from hexec]
    exact hregions
  exact abruptDisable_regions hsame

/-! ### A vector that is unmasked while the link of its LD is in L1 -/

/-- An LD of head 0 whose vector 0 is pending, and whose link is in L1. -/
def pendingInL1 : State := ({ lds := [(0, { head := 0, pba := 1 })] } : State).wr (Reg.GLB_HEAD_STATUS_PSTATE 0) 2

/-- The LD, and the state that its message may leave in. -/
theorem pendingInL1_pends : pendingInL1.ld? 0 = some { head := 0, pba := 1 } ∧ pendingInL1.isSafe = false := by decide +kernel

/-- The link wakes ahead of the message: two messages leave (R63). -/
theorem msixUnmask_pendingInL1 : (nextOf (exec (.msixUnmask 0 (some 0)) pendingInL1) pendingInL1).out.length = 2 ∧ pendingInL1.out = [] := by decide +kernel

/-- Refutes O37: the message of a vector that is unmasked is not all that leaves where the link is in L1, which wakes for it. -/
theorem not_ldAccessCommandsTakeEffect : ¬ Obligations.LdAccessCommandsTakeEffect := by
  unfold Obligations.LdAccessCommandsTakeEffect
  rintro ⟨-, -, -, -, -, -, -, -, -, -, hunmask, -⟩
  obtain ⟨hld, hsafe⟩ := pendingInL1_pends
  obtain ⟨htwo, hnone⟩ := msixUnmask_pendingInL1
  obtain ⟨t, ht, hout, -⟩ := hunmask 0 0 pendingInL1 _ hld hsafe rfl rfl
  have hone : (nextOf (exec (.msixUnmask 0 (some 0)) pendingInL1) pendingInL1).out.length = 1 := by
    rw [ht]
    simp [nextOf, hout, hnone]
  omega

/-! ### A probe that its slice counts -/

/-- A probe of line 0 waits. -/
def probeOfLine0 : State := { dir := { probe := some 0 } }

/-- Its slice is 0, and the turn of the Docent access port has come there. -/
theorem probeOfLine0_turn : sliceOfLine 0 = 0 ∧ probeOfLine0.turn 0 19 = true := by decide +kernel

/-- Station counters of slice 0 count the admission of the probe (R371). -/
theorem dirProbeCapture_cat : (nextOf (exec (.dirProbeCapture 0) probeOfLine0) probeOfLine0).cat ≠ probeOfLine0.cat := by decide +kernel

/-- Refutes O43: its frame of a probe names registers, the directory and the request path, but the admission counts in the station of the slice too. -/
theorem not_directoryWalksProbesAndReleases : ¬ Obligations.DirectoryWalksProbesAndReleases := by
  unfold Obligations.DirectoryWalksProbesAndReleases
  rintro ⟨-, -, -, -, hprobe, -⟩
  obtain ⟨hslice, hturn⟩ := probeOfLine0_turn
  obtain ⟨t, ht, -, -, -, ⟨hframe, -⟩, -⟩ := hprobe 0 0 probeOfLine0 rfl hslice hturn
  have hcat : t.cat = probeOfLine0.cat := by rw [hframe]
  have hnext : nextOf (exec (.dirProbeCapture 0) probeOfLine0) probeOfLine0 = t := by rw [ht]; rfl
  exact dirProbeCapture_cat (hnext ▸ hcat)

end Sys2Proof.Machine
end

section
/-! The deletion of an LD's queues (R177), and the end of user access to its counter page (R370). -/
namespace Sys2Proof.Machine

/-! ### Queues -/

/-- A queue's deletion changes its registers, and may leave descriptors to be ended. -/
theorem State.deleteQueue_eq (s : State) (q : Nat) (abort : Bool) : s.deleteQueue q abort = { s with regs := (s.deleteQueue q abort).regs, press := (s.deleteQueue q abort).press } := by
  obtain ⟨r, p, h⟩ : ∃ r p, s.deleteQueue q abort = { s with regs := r, press := p } := by
    simp only [State.deleteQueue, State.setDword, State.setWord]
    split
    · exact ⟨_, _, rfl⟩
    · exact ⟨_, _, rfl⟩
  rw [h]

/-- The words of a queue lie together, and a deletion leaves every other. -/
theorem State.word_deleteQueue_other (s : State) (q : Nat) (abort : Bool) (off : Nat) (h : off < 0x401000 + 0x20 * q ∨ 0x401014 + 0x20 * q ≤ off) :
    (s.deleteQueue q abort).word off = s.word off := by
  unfold State.deleteQueue
  dsimp only
  rw [State.word_setWord_other _ _ _ _ (by omega), State.word_setWord_other _ _ _ _ (by omega), State.word_setWord_other _ _ _ _ (by omega),
    State.word_setDword_other _ _ _ _ (by omega) (by omega)]
  split
  · rfl
  · rfl

/-- A deleted queue's configuration reads zero. -/
theorem State.word_deleteQueue_cfg (s : State) (q : Nat) (abort : Bool) : (s.deleteQueue q abort).word (0x401008 + 0x20 * q) = 0 := by
  have hb : 0x401000 + 0x20 * q + 8 = 0x401008 + 0x20 * q := by omega
  unfold State.deleteQueue
  dsimp only
  rw [State.word_setWord_other _ _ _ _ (by omega), State.word_setWord_other _ _ _ _ (by omega), hb, State.word_setWord_same]

/-- The queues of a list are deleted. -/
def State.deleteQueues (s : State) (l : List Nat) (abort : Bool) : State := l.foldl (fun s q => s.deleteQueue q abort) s

theorem State.deleteQueues_eq (s : State) (l : List Nat) (abort : Bool) :
    s.deleteQueues l abort = { s with regs := (s.deleteQueues l abort).regs, press := (s.deleteQueues l abort).press } := by
  induction l generalizing s with
  | nil => rfl
  | cons q l ih =>
    rw [State.deleteQueues, List.foldl_cons, ← State.deleteQueues, ih, State.deleteQueue_eq]

theorem State.word_deleteQueues_other (s : State) (l : List Nat) (abort : Bool) (off : Nat) (h : ∀ q ∈ l, off < 0x401000 + 0x20 * q ∨ 0x401014 + 0x20 * q ≤ off) :
    (s.deleteQueues l abort).word off = s.word off := by
  induction l generalizing s with
  | nil => rfl
  | cons q l ih =>
    rw [State.deleteQueues, List.foldl_cons, ← State.deleteQueues, ih _ fun p hp => h p (List.mem_cons_of_mem q hp), State.word_deleteQueue_other _ _ _ _ (h q List.mem_cons_self)]

/-- After the deletion the configuration of each queue of the list reads zero, and that of each other as before. -/
theorem State.word_deleteQueues_cfg (s : State) (l : List Nat) (abort : Bool) (q : Nat) :
    (s.deleteQueues l abort).word (0x401008 + 0x20 * q) = if q ∈ l then 0 else s.word (0x401008 + 0x20 * q) := by
  induction l generalizing s with
  | nil => rfl
  | cons p l ih =>
    rw [State.deleteQueues, List.foldl_cons, ← State.deleteQueues, ih]
    by_cases hl : q ∈ l
    · rw [if_pos hl, if_pos (List.mem_cons_of_mem p hl)]
    · by_cases hp : q = p
      · subst hp
        rw [if_neg hl, if_pos List.mem_cons_self, State.word_deleteQueue_cfg]
      · rw [if_neg hl, if_neg (by simp [hp, hl]), State.word_deleteQueue_other _ _ _ _ (by omega)]

theorem State.dropQueues_graceful (s : State) (i : Nat) : s.dropQueues i false = s.deleteQueues (s.queuesOf i) true := rfl

theorem State.dropQueues_abrupt (s : State) (i : Nat) : s.dropQueues i true = (s.killJobs i).deleteQueues (s.queuesOf i) false := rfl

/-- Deleting an LD's queues changes registers, the Press, and the requests of its jobs. -/
theorem State.dropQueues_eq (s : State) (i : Nat) (abrupt : Bool) :
    s.dropQueues i abrupt = { s with regs := (s.dropQueues i abrupt).regs, press := (s.dropQueues i abrupt).press, path := (s.dropQueues i abrupt).path } := by
  cases abrupt
  · rw [State.dropQueues_graceful, State.deleteQueues_eq]
  · rw [State.dropQueues_abrupt, State.deleteQueues_eq]
    rfl

theorem State.queuesOf_lt {s : State} {i q : Nat} (h : q ∈ s.queuesOf i) : q < 64 := by
  obtain ⟨hq, -⟩ := List.mem_filter.1 h
  exact List.mem_range.1 hq

/-- The words outside the queues stay. -/
theorem State.word_dropQueues_other (s : State) (i : Nat) (abrupt : Bool) (off : Nat) (h : off < 0x401000 ∨ 0x401800 ≤ off) : (s.dropQueues i abrupt).word off = s.word off := by
  have hq : ∀ q ∈ s.queuesOf i, off < 0x401000 + 0x20 * q ∨ 0x401014 + 0x20 * q ≤ off := fun q hq => by
    have := State.queuesOf_lt hq
    omega
  cases abrupt
  · rw [State.dropQueues_graceful, State.word_deleteQueues_other _ _ _ _ hq]
  · rw [State.dropQueues_abrupt, State.word_deleteQueues_other _ _ _ _ hq]
    rfl

/-- The configuration of each of the LD's queues reads zero. -/
theorem State.word_dropQueues_cfg (s : State) (i : Nat) (abrupt : Bool) (q : Nat) :
    (s.dropQueues i abrupt).word (0x401008 + 0x20 * q) = if q ∈ s.queuesOf i then 0 else s.word (0x401008 + 0x20 * q) := by
  cases abrupt
  · rw [State.dropQueues_graceful, State.word_deleteQueues_cfg]
  · rw [State.dropQueues_abrupt, State.word_deleteQueues_cfg]
    rfl

/-- No queue of the LD is enabled any longer. -/
theorem State.dropQueues_disables (s : State) (i : Nat) (abrupt : Bool) (q : Nat) (hq : q < 64) (hld : s.qLd q = i) : (s.dropQueues i abrupt).flag (Reg.PRS_Q_CFG_EN q) = false := by
  have hin : (Reg.PRS_Q_CFG_EN q).lo % 32 + (Reg.PRS_Q_CFG_EN q).w ≤ 32 := by simp [Reg.PRS_Q_CFG_EN]
  have hword := State.word_dropQueues_cfg s i abrupt q
  by_cases hen : s.flag (Reg.PRS_Q_CFG_EN q) = true
  · have hmem : q ∈ s.queuesOf i := List.mem_filter.2 ⟨List.mem_range.2 hq, by simp [hen, hld]⟩
    rw [if_pos hmem] at hword
    rw [State.flag, State.rd_in _ _ hin]
    simp [Reg.PRS_Q_CFG_EN, hword, bitsOf]
  · have hmem : q ∉ s.queuesOf i := fun h => hen (by simpa using (Bool.and_eq_true_iff.1 (List.mem_filter.1 h).2).1)
    rw [if_neg hmem] at hword
    rw [State.flag, State.rd_congr_in _ hin (by simpa [Reg.PRS_Q_CFG_EN] using hword)]
    simpa [State.flag] using hen

/-! ### User access -/

/-- A bit that is cleared reads 0. -/
theorem testBit_setBit_false (x i : Nat) : (setBit x i false).testBit i = false := by
  cases hx : x.testBit i with
  | false => simp [setBit, hx]
  | true =>
    have hodd : x / 2 ^ i % 2 = 1 := by simpa [Nat.testBit_eq_decide_div_mod_eq] using hx
    have hdiv : (x - 2 ^ i) / 2 ^ i = x / 2 ^ i - 1 := by simpa using Nat.sub_mul_div x (2 ^ i) 1
    simp only [setBit, hx, ↓reduceIte, Nat.testBit_eq_decide_div_mod_eq, hdiv, decide_eq_false_iff_not]
    omega

/-- Clearing user access changes registers alone. -/
theorem State.clearUser_eq (s : State) (i : Nat) : s.clearUser i = { s with regs := (s.clearUser i).regs } :=
  State.wr_eq_withRegs s Reg.CAT_USER_EN_USER _

theorem State.word_clearUser_other (s : State) (i off : Nat) (h : off ≠ 0x2204000) (h' : off ≠ 0x2204004) : (s.clearUser i).word off = s.word off :=
  State.word_wr_other _ _ _ _ h h'

/-- User access of an LD is off. -/
theorem State.bit_clearUser (s : State) (i : Nat) : (s.clearUser i).bit Reg.CAT_USER_EN_USER i = false := by
  rw [State.clearUser, State.bit, State.wrBit, State.rd_wr_same_wide _ _ _ (by decide) (by decide), Nat.testBit_mod_two_pow, testBit_setBit_false, Bool.and_false]

end Sys2Proof.Machine
end

section
/-! Drains, stops and resets of an LD (R64 to R68, R116, R118): what each command makes of the LD, as one change of it. -/
namespace Sys2Proof

/-- Two changes of a listed value are one. -/
theorem Tbl.modify_modify {α : Type} (t : Tbl α) (k : Nat) (f g : α → α) : Tbl.modify (Tbl.modify t k f) k g = Tbl.modify t k (fun x => g (f x)) := by
  induction t with
  | nil => rfl
  | cons p r ih =>
    obtain ⟨j, w⟩ := p
    by_cases hj : j = k
    · simp [Tbl.modify, hj]
    · simp [Tbl.modify, hj, ih]

end Sys2Proof

namespace Sys2Proof.Machine

/-! ### One LD changes -/

theorem State.updLd_updLd (s : State) (i : Nat) (f g : Ld → Ld) : (s.updLd i f).updLd i g = s.updLd i (fun d => g (f d)) := by
  simp only [State.updLd, Tbl.modify_modify]

theorem State.ld?_updLd_same {s : State} {i : Nat} {d : Ld} (h : s.ld? i = some d) (f : Ld → Ld) : (s.updLd i f).ld? i = some (f d) := by
  simp [State.ld?_updLd, h]

theorem State.ld?_updLd_other (s : State) {i j : Nat} (h : j ≠ i) (f : Ld → Ld) : (s.updLd i f).ld? j = s.ld? j := by
  simp [State.ld?_updLd, h]

theorem State.ld?_congr {s t : State} (h : t.lds = s.lds) (i : Nat) : t.ld? i = s.ld? i := by rw [State.ld?, State.ld?, h]

/-! ### Where an LD goes from DRAINING or STOPPING -/

/-- With the link up, an LD settles in ACTIVE or in IO_UP (Table 2.9). -/
theorem State.settle_up {s : State} {i : Nat} {d : Ld} (hd : s.ld? i = some d) (hlink : s.linkUp d.head = true) :
    s.settle i = s.updLd i (fun d => { d with st := if s.resumes d then .active else .ioUp }) := by
  unfold State.settle
  rw [hd]
  simp only [hlink, ↓reduceIte]
  rw [State.tryActive, State.updLd_updLd]
  refine State.updLd_congr hd ?_
  have hmem : (s.updLd i (fun d => { d with st := .ioUp })).flag (Reg.GLB_HEAD_STATUS_MEM_OK d.head) = s.flag (Reg.GLB_HEAD_STATUS_MEM_OK d.head) := rfl
  by_cases hr : s.resumes d
  · obtain ⟨hspace, hdec, hdis, hclr, hwarm, hok⟩ := hr
    simp [hmem, State.resumes, hspace, hdec, hdis, hclr, hwarm, hok]
  · rw [if_neg, if_neg hr]
    simpa [hmem, State.resumes, List.isEmpty_iff, and_assoc] using hr

/-- With the link down, an LD settles in DOWN, reset. -/
theorem State.settle_down {s : State} {i : Nat} {d : Ld} (hd : s.ld? i = some d) (hlink : s.linkUp d.head = false) :
    s.settle i = (s.ldReset i).updLd i (fun d => { d with st := .down }) := by
  unfold State.settle
  rw [hd]
  simp [hlink]

/-- What a mailbox's reset leaves of an LD when no background command runs (R67). -/
theorem State.resetMailbox_idle {s : State} (i : Nat) (hbg : s.mgmt.bg = []) :
    s.resetMailbox i = { s.updLd i (fun d => { d with mbox := {} }) with mgmt := { s.mgmt with held := s.mgmt.held.filter (fun c => !isMailbox i c.h.src) } } := by
  simp [State.resetMailbox, hbg]

/-- An LD as DOWN leaves it (R67). -/
def blankLd (d : Ld) : Ld :=
  { d with decoders := [], decRegs := [], hdmGlobal := 0, decErr := 0, msix := [], pba := 0, fnMask := false, memSpace := false, cfg := [], mbox := {} }

/-- The reset of an LD that reaches DOWN, while no background command runs, changes the LD, what commands its mailbox holds, and user access (R67). -/
theorem State.ldReset_idle {s : State} (i : Nat) (hbg : s.mgmt.bg = []) :
    s.ldReset i = { s.updLd i blankLd with regs := (s.ldReset i).regs, mgmt := (s.ldReset i).mgmt } ∧ (s.ldReset i).mgmt.bg = []
      ∧ ∀ off, off ≠ 0x2204000 → off ≠ 0x2204004 → (s.ldReset i).word off = s.word off := by
  have hmail (u : State) (hu : u.mgmt.bg = []) : u.dropMailbox i = { u.updLd i (fun d => { d with mbox := {} }) with mgmt := (u.dropMailbox i).mgmt } ∧ (u.dropMailbox i).mgmt.bg = [] := by
    rw [State.dropMailbox, State.resetMailbox_idle i hu]
    exact ⟨rfl, hu⟩
  obtain ⟨heq, hno⟩ := hmail (s.updLd i (fun d => { d with decoders := [], decRegs := [], hdmGlobal := 0, decErr := 0, msix := [], pba := 0, fnMask := false, memSpace := false, cfg := [] })) hbg
  rw [State.updLd_updLd] at heq
  unfold State.ldReset
  dsimp only
  refine ⟨?_, ?_, fun off h h' => ?_⟩
  · rw [State.clearUser_eq, heq]
    rfl
  · rw [State.clearUser_eq]
    exact hno
  · rw [State.word_clearUser_other _ _ _ h h', heq]
    rfl

/-! ### Drains and stops -/

/-- A drain that ends without a CXL Reset forgets its walks, and the LD settles. -/
theorem State.endDrain_settles {s : State} {i : Nat} {d : Ld} (hd : s.ld? i = some d) (hst : d.st = .draining) (hclr : d.resetClr = none) (hlink : s.linkUp d.head = true) :
    s.endDrain i d = State.updLd { s with dir := { s.dir with walks := s.dir.walks.filter (fun w => w.why != .graceful i) } } i (fun d => { d with st := if s.resumes d then .active else .ioUp }) := by
  have hdrop : (s.dropWalks (fun w => w == .graceful i)).ld? i = some d := hd
  simp only [State.endDrain, hclr, hst, beq_self_eq_true, ↓reduceIte]
  rw [State.settle_up hdrop hlink]
  rfl

/-- A CXL Reset on an LD in IO_UP that clears no memory has its effect on the LD alone (R68). -/
theorem State.endDrain_resets {s : State} {i : Nat} {d : Ld} (hst : d.st = .ioUp) (hclr : d.resetClr = some false) :
    s.endDrain i d = (s.dropWalks (fun w => w == .graceful i)).updLd i (fun d => { d with decoders := [], decErr := 0, resetClr := none }) := by
  have hne : (LdState.ioUp == LdState.draining) = false := rfl
  simp [State.endDrain, hclr, hst, hne, State.cxlResetDone]

theorem State.clrReady_keep (s : State) (i : Nat) {m : Option Bool} (h : m ≠ some true) : s.clrReady i m = true := by
  simp [State.clrReady, h]

/-- The conditions of DRAIN_COMPLETE, on an LD whose reset, if any, clears no memory. -/
theorem State.drainDone_eq {s : State} {i : Nat} {d : Ld} (hd : s.ld? i = some d) (hst : d.st = .draining ∨ d.st = .ioUp ∧ d.resetClr.isSome = true) (hclr : d.resetClr ≠ some true) :
    s.drainDone i = if s.ldRuns i = false ∧ s.walkOver (fun w => w == .graceful i) (fun x => x == .drain i) = true then s.endDrain i d else s := by
  have hcond : (d.st == .draining || (d.st == .ioUp && d.resetClr.isSome)) = true := by
    rcases hst with h | ⟨h, h'⟩
    · rw [h]; rfl
    · rw [h, h']; rfl
  unfold State.drainDone
  rw [hd]
  simp only [hcond, State.clrReady_keep s i hclr, Bool.true_and, Bool.and_eq_true, Bool.not_eq_true']

/-- A CXL Reset of an ACTIVE LD drains it: its queues go, and a walk begins (R68, Table 2.9). -/
theorem State.drainLd_active {s : State} {i : Nat} {d : Ld} (hd : s.ld? i = some d) (hst : d.st = .active) :
    ∃ u : State, s.drainLd i = u.dropQueues i false ∧ u.regs = s.regs ∧ u.dir.walks = s.dir.walks ++ [{ why := .graceful i, head := d.head }]
      ∧ u.lds = (s.updLd i (fun d => { d with st := .draining, drainPoisoned := false, lastAbrupt := false, drainAt := s.tick })).lds := by
  unfold State.drainLd
  rw [hd]
  simp only [hst, beq_self_eq_true, ↓reduceIte]
  exact ⟨_, rfl, rfl, rfl, rfl⟩

theorem State.dropQueues_lds (s : State) (i : Nat) (abrupt : Bool) : (s.dropQueues i abrupt).lds = s.lds := by rw [State.dropQueues_eq]

theorem State.dropQueues_dir (s : State) (i : Nat) (abrupt : Bool) : (s.dropQueues i abrupt).dir = s.dir := by rw [State.dropQueues_eq]

theorem State.dropQueues_mgmt (s : State) (i : Nat) (abrupt : Bool) : (s.dropQueues i abrupt).mgmt = s.mgmt := by rw [State.dropQueues_eq]

/-- The LD of a queue is read from the registers alone. -/
theorem State.qLd_congr {s t : State} (q : Nat) (h : t.word (0x401008 + 0x20 * q) = s.word (0x401008 + 0x20 * q)) : t.qLd q = s.qLd q :=
  State.rd_congr_in _ (by simp [Reg.PRS_Q_CFG_LD_INDEX]) (by simpa [Reg.PRS_Q_CFG_LD_INDEX] using h)

/-- Words of the configuration space that a Function Level Reset keeps: the VDV windows and link registers (R68). -/
def flrKeeps (e : Nat × Word) : Bool := decide (0x310 ≤ e.1) && decide (e.1 ≤ 0x320)

theorem look_filter_flrKeeps (t : Tbl Word) (off : Nat) : Tbl.look (t.filter flrKeeps) off = if 0x310 ≤ off ∧ off ≤ 0x320 then Tbl.look t off else none := by
  induction t with
  | nil => simp [Tbl.look]
  | cons p t ih =>
    obtain ⟨k, w⟩ := p
    by_cases hk : k = off
    · subst hk
      by_cases hin : 0x310 ≤ k ∧ k ≤ 0x320
      · simp [flrKeeps, Tbl.look, hin]
      · have hkeep : flrKeeps (k, w) = false := by simpa [flrKeeps] using hin
        rw [List.filter_cons_of_neg (by simp [hkeep]), ih, if_neg hin, if_neg hin]
    · rw [List.filter_cons]
      split <;> simp [Tbl.look, hk, ih]

/-- An LD as a Function Level Reset leaves it (R68). -/
def flrLd (d : Ld) : Ld := { d with msix := [], pba := 0, fnMask := false, memSpace := false, cfg := d.cfg.filter flrKeeps, mbox := {} }

/-- A Function Level Reset, while no background command runs, changes the LD, user access and queues. -/
theorem State.flr_idle {s : State} {i : Nat} {d : Ld} (hd : s.ld? i = some d) (hlink : s.linkUp d.head = true) (hdown : d.st ≠ .down) (hstop : d.st ≠ .stopping) (hbg : s.mgmt.bg = []) :
    ∃ u : State, s.flr i = (u.clearUser i).dropQueues i true ∧ u.regs = s.regs ∧ u.mgmt.replays = s.mgmt.replays ∧ u.lds = (s.updLd i flrLd).lds := by
  have hcond : (!s.linkUp d.head || d.st == .down || d.st == .stopping) = false := by simp [hlink, hdown, hstop]
  unfold State.flr
  rw [hd]
  simp only [hcond, Bool.false_eq_true, ↓reduceIte]
  rw [State.resetMailbox_idle i (by exact hbg)]
  exact ⟨_, rfl, rfl, rfl, by simp only [State.updLd_updLd]; rfl⟩

/-- A stop that is over forgets its walks, notes that it was abrupt, and the LD leaves STOPPING. -/
theorem State.stopDone_over {s : State} {i : Nat} {d : Ld} (hd : s.ld? i = some d) (hst : d.st = .stopping) (hover : s.walkOver (fun w => w == .abrupt i) (fun _ => false) = true) :
    s.stopDone i = ((s.dropWalks (fun w => w == .abrupt i)).updLd i (fun d => { d with lastAbrupt := true })).settle i := by
  unfold State.stopDone
  rw [hd]
  simp only [hst, hover, beq_self_eq_true, Bool.and_true, ↓reduceIte]

/-- An LD that does not exist is neither drained, stopped nor reset. -/
theorem State.resets_absent {s : State} {i : Nat} (h : s.ld? i = none) (clr : Bool) :
    s.cxlReset i clr = s ∧ s.flr i = s ∧ s.drainDone i = s ∧ s.drainBound i = s ∧ s.stopDone i = s := by
  simp [State.cxlReset, State.flr, State.drainDone, State.drainBound, State.stopDone, h]

/-- A CXL Reset of an LD that is not ACTIVE is noted (R68). -/
theorem State.cxlReset_noted {s : State} {i : Nat} {d : Ld} (hd : s.ld? i = some d) (hlink : s.linkUp d.head = true) (hst : d.st = .ioUp ∨ d.st = .draining) (clr : Bool) :
    s.cxlReset i clr = s.updLd i (fun d => { d with resetClr := some clr }) := by
  unfold State.cxlReset
  rw [hd]
  rcases hst with hst | hst
  · simp [hlink, hst]
  · simp [hlink, hst]

/-- A CXL Reset of an ACTIVE LD is a drain that ends with it. -/
theorem State.cxlReset_active {s : State} {i : Nat} {d : Ld} (hd : s.ld? i = some d) (hlink : s.linkUp d.head = true) (hst : d.st = .active) (clr : Bool) :
    s.cxlReset i clr = (s.drainLd i).updLd i (fun d => { d with resetClr := some clr }) := by
  unfold State.cxlReset
  rw [hd]
  simp [hlink, hst]

/-- Without an exchange of the drain, its bound ends it. -/
theorem State.drainBound_ends {s : State} {i : Nat} {d : Ld} (hd : s.ld? i = some d) (hst : d.st = .draining) (hclr : d.resetClr ≠ some true)
    (hdue : d.drainAt + s.rootN * 125000 ≤ s.tick) (hx : ∀ x ∈ s.dir.exchs, x.why ≠ .drain i) : s.drainBound i = s.endDrain i d := by
  have hnone : s.dir.exchs.filter (fun (x : Exch) => x.why == .drain i) = [] := List.filter_eq_nil_iff.2 fun x hm => by simpa using hx x hm
  unfold State.drainBound
  rw [hd]
  simp only [hst, hdue, beq_self_eq_true, decide_true, Bool.and_true, ↓reduceIte, hnone, List.foldl_nil, State.clrReady_keep s i hclr]

/-- Settles O38: each command by the state that the LD is in, from what it makes of the LD. -/
theorem ldResetCommandsTakeEffect : Obligations.LdResetCommandsTakeEffect := by
  refine ⟨fun i clr s h => ?_, fun i clr s d hd hlink hst => ?_, fun i clr s d hd hlink hst => ?_, fun i s d hd hoff => ?_, fun i s d hd hlink hdown hstop hbg => ?_,
    fun i s d hd hst hclr hlink => ?_, fun i s d hd hst hclr hruns hover => ?_, fun i s d hd hoff => ?_, fun i s d hd hst hclr hlink hdue hx => ?_,
    fun i s d hd hst hlink hover => ?_, fun i s d hd hst hlink hbg hover => ?_, fun i s d hd hoff => ?_⟩
  · obtain ⟨hcxl, hflr, hdone, hbound, hstop⟩ := State.resets_absent h clr
    exact ⟨congrArg Host.Outcome.next hcxl, congrArg Host.Outcome.next hflr, congrArg Host.Outcome.next hdone, congrArg Host.Outcome.next hbound, congrArg Host.Outcome.next hstop⟩
  · exact ⟨_, congrArg Host.Outcome.next (State.cxlReset_noted hd hlink hst clr), State.ld?_updLd_same hd _, rfl, fun j hj => State.ld?_updLd_other s hj _⟩
  · obtain ⟨u, hu, hregs, hwalks, hlds⟩ := State.drainLd_active hd hst
    have hlds' : (u.dropQueues i false).lds = _ := (State.dropQueues_lds u i false).trans hlds
    refine ⟨_, congrArg Host.Outcome.next ((State.cxlReset_active hd hlink hst clr).trans (by rw [hu])), ?_, ?_, fun j hj => ?_, fun q hq hld => ?_⟩
    · rw [State.ld?_updLd_same ((State.ld?_congr hlds' _).trans (State.ld?_updLd_same hd _))]
    · rw [State.updLd_dir, State.dropQueues_dir, hwalks]
    · rw [State.ld?_updLd_other _ hj, State.ld?_congr hlds', State.ld?_updLd_other _ hj]
    · exact State.dropQueues_disables u i false q hq ((State.qLd_congr q (State.word_congr_regs hregs _)).trans hld)
  · have hcond : (!s.linkUp d.head || d.st == .down || d.st == .stopping) = true := by
      rcases hoff with h | h | h <;> simp [h]
    have hflr : s.flr i = s := by
      unfold State.flr
      rw [hd]
      simp only [hcond, ↓reduceIte]
    exact congrArg Host.Outcome.next hflr
  · obtain ⟨u, hu, hregs, hreplays, hlds⟩ := State.flr_idle hd hlink hdown hstop hbg
    have hword (off : Nat) (h : off ≠ 0x2204000) (h' : off ≠ 0x2204004) : (u.clearUser i).word off = s.word off :=
      (State.word_clearUser_other u i off h h').trans (State.word_congr_regs hregs off)
    have hlds' : ((u.clearUser i).dropQueues i true).lds = (s.updLd i flrLd).lds := by rw [State.dropQueues_lds, State.clearUser_eq, hlds]
    refine ⟨_, flrLd d, congrArg Host.Outcome.next hu, (State.ld?_congr hlds' _).trans (State.ld?_updLd_same hd _), rfl, rfl, rfl, rfl, rfl, ?_, rfl, rfl, rfl, look_filter_flrKeeps d.cfg, fun q hq hld => ?_, ?_⟩
    · rw [State.dropQueues_mgmt, State.clearUser_eq, hreplays]
    · exact State.dropQueues_disables _ i true q hq ((State.qLd_congr q (hword _ (by omega) (by omega))).trans hld)
    · rw [← State.bit_clearUser u i, State.bit, State.bit,
        State.rd_congr Reg.CAT_USER_EN_USER (State.word_dropQueues_other _ _ _ _ (by decide)) (State.word_dropQueues_other _ _ _ _ (by decide))]
  · refine congrArg Host.Outcome.next ((State.drainDone_eq hd (.inl hst) (by simp [hclr])).trans ?_)
    split
    · exact State.endDrain_settles hd hst hclr hlink
    · rfl
  · have hdone : s.drainDone i = s.endDrain i d := by rw [State.drainDone_eq hd (.inr ⟨hst, by simp [hclr]⟩) (by simp [hclr]), if_pos ⟨hruns, hover⟩]
    refine ⟨_, congrArg Host.Outcome.next (hdone.trans (State.endDrain_resets hst hclr)), ?_, fun j hj => ?_⟩
    · exact State.ld?_updLd_same (s := s.dropWalks _) hd _
    · exact State.ld?_updLd_other (s.dropWalks _) hj _
  · have hcond : (d.st == .draining && decide (d.drainAt + s.rootN * 125000 ≤ s.tick)) = false := by
      rcases hoff with h | h
      · simp [h]
      · simp [Nat.not_le.2 h]
    have hbound : s.drainBound i = s := by
      unfold State.drainBound
      rw [hd]
      simp only [hcond, Bool.false_eq_true, ↓reduceIte]
    exact congrArg Host.Outcome.next hbound
  · refine ⟨_, congrArg Host.Outcome.next ((State.drainBound_ends hd hst (by simp [hclr]) hdue hx).trans (State.endDrain_settles hd hst hclr hlink)), ?_, fun w hw => ?_⟩
    · exact State.ld?_updLd_same (s := { s with dir := _ }) hd _
    · simpa using (List.mem_filter.1 hw).2
  · have hnoted : ((s.dropWalks (fun w => w == .abrupt i)).updLd i (fun d => { d with lastAbrupt := true })).ld? i = some { d with lastAbrupt := true } :=
      State.ld?_updLd_same (s := s.dropWalks _) hd _
    refine ⟨_, congrArg Host.Outcome.next ((State.stopDone_over hd hst hover).trans (State.settle_up hnoted hlink)), ?_, fun w hw => ?_, fun j hj => ?_⟩
    · exact State.ld?_updLd_same hnoted _
    · simpa using (List.mem_filter.1 hw).2
    · rw [State.ld?_updLd_other _ hj, State.ld?_updLd_other _ hj]
      rfl
  · have hnoted : ((s.dropWalks (fun w => w == .abrupt i)).updLd i (fun d => { d with lastAbrupt := true })).ld? i = some { d with lastAbrupt := true } :=
      State.ld?_updLd_same (s := s.dropWalks _) hd _
    obtain ⟨heq, -, -⟩ := State.ldReset_idle (s := (s.dropWalks (fun w => w == .abrupt i)).updLd i (fun d => { d with lastAbrupt := true })) i hbg
    refine ⟨_, _, congrArg Host.Outcome.next ((State.stopDone_over hd hst hover).trans (State.settle_down hnoted hlink)), State.ld?_updLd_same (?_ : _ = some (blankLd { d with lastAbrupt := true })) _, rfl, rfl, rfl⟩
    rw [heq]
    exact State.ld?_updLd_same hnoted _
  · have hcond : (d.st == .stopping && s.walkOver (fun w => w == .abrupt i) (fun _ => false)) = false := by
      rcases hoff with h | h
      · simp [h]
      · simp [h]
    have hstop : s.stopDone i = s := by
      unfold State.stopDone
      rw [hd]
      simp only [hcond, Bool.false_eq_true, ↓reduceIte]
    exact congrArg Host.Outcome.next hstop

end Sys2Proof.Machine
end

section
/-! The links of heads (R39, R40, R61 to R64): the status word of a head, the wake of a link in L1, and what an alert leaves of both. -/
namespace Sys2Proof.Machine

/-! ### The status word of a head -/

/-- A field of a head's status word keeps its value while another is written. -/
theorem State.rd_wr_status (s : State) (h lo w lo' w' x : Nat) (hf : lo % 32 + w ≤ 32) (hg : lo' % 32 + w' ≤ 32)
    (hd : lo % 32 + w ≤ lo' % 32 ∨ lo' % 32 + w' ≤ lo % 32) : (s.wr ⟨0x80 + 0x4 * h, lo, w⟩ x).rd ⟨0x80 + 0x4 * h, lo', w'⟩ = s.rd ⟨0x80 + 0x4 * h, lo', w'⟩ :=
  State.rd_wr_other s _ _ x hf hg (.inr hd)

/-- A field of a head's status word reads the low bits of what was last written to it. -/
theorem State.rd_wr_status_same (s : State) (h lo w x : Nat) (hf : lo % 32 + w ≤ 32) : (s.wr ⟨0x80 + 0x4 * h, lo, w⟩ x).rd ⟨0x80 + 0x4 * h, lo, w⟩ = x % 2 ^ w :=
  State.rd_wr_same s _ x hf

/-- A field of a head's status word is read from that word. -/
theorem State.rd_status_congr {s t : State} (h lo w : Nat) (hf : lo % 32 + w ≤ 32) (h0 : lo / 32 = 0) (hw : t.word (0x80 + 4 * h) = s.word (0x80 + 4 * h)) :
    t.rd ⟨0x80 + 0x4 * h, lo, w⟩ = s.rd ⟨0x80 + 0x4 * h, lo, w⟩ :=
  State.rd_congr_in _ hf (by simpa [h0] using hw)

/-- A write of a field of a head's status word changes that word alone. -/
theorem OnlyWords.status {s t : State} {h : Nat} (k : OnlyWords s t [0x80 + 4 * h]) (lo w x : Nat) (hf : lo % 32 + w ≤ 32) (h0 : lo / 32 = 0) :
    OnlyWords s (t.wr ⟨0x80 + 0x4 * h, lo, w⟩ x) [0x80 + 4 * h] := k.wr _ x hf (by simp [h0])

theorem State.linkUp_congr {s t : State} (h : Nat) (hw : t.word (0x80 + 4 * h) = s.word (0x80 + 4 * h)) : t.linkUp h = s.linkUp h := by
  rw [State.linkUp, State.linkUp, State.flag, State.flag, Reg.GLB_HEAD_STATUS_LINK_UP, State.rd_status_congr h 1 1 (by decide) (by decide) hw]

/-! ### A link that wakes (R63) -/

/-- The link of a head is in L1 or one of its sub-states. -/
def State.asleep (s : State) (h : Nat) : Prop := 2 ≤ s.rd (Reg.GLB_HEAD_STATUS_PSTATE h) ∧ s.rd (Reg.GLB_HEAD_STATUS_PSTATE h) ≤ 4

theorem State.asleep_congr {s t : State} (h : Nat) (hw : t.word (0x80 + 4 * h) = s.word (0x80 + 4 * h)) : t.asleep h ↔ s.asleep h := by
  rw [State.asleep, State.asleep, Reg.GLB_HEAD_STATUS_PSTATE, State.rd_status_congr h 11 3 (by decide) (by decide) hw]

/-- A message on a link that is not asleep notes the time alone. -/
theorem State.wakeLink_awake {s : State} {h : Nat} (ha : ¬ s.asleep h) : s.wakeLink h = s.updHead h (fun x => { x with traffic := s.tick }) := if_neg ha

/-- A message on a link that is asleep brings it back to L0 first. -/
theorem State.wakeLink_asleep {s : State} {h : Nat} (ha : s.asleep h) :
    s.wakeLink h = ((s.updHead h (fun x => { x with traffic := s.tick })).wr (Reg.GLB_HEAD_STATUS_PSTATE h) 0).emit (.linkPower h 0) := if_pos ha

/-- A wake changes registers, the head, and what has left the block. -/
theorem State.wakeLink_eq (s : State) (h : Nat) : s.wakeLink h = { s with regs := (s.wakeLink h).regs, heads := (s.wakeLink h).heads, out := (s.wakeLink h).out } := by
  by_cases ha : s.asleep h
  · rw [State.wakeLink_asleep ha, State.wr_eq_withRegs]
    rfl
  · rw [State.wakeLink_awake ha]
    rfl

/-- A wake changes the power state in the head's status word, and no other word. -/
theorem State.word_wakeLink_other (s : State) (h off : Nat) (ho : off ≠ 0x80 + 4 * h) : (s.wakeLink h).word off = s.word off := by
  by_cases ha : s.asleep h
  · rw [State.wakeLink_asleep ha]
    exact State.word_wr_in _ _ _ _ (by decide : 11 % 32 + 3 ≤ 32) (by simpa [Reg.GLB_HEAD_STATUS_PSTATE] using ho)
  · rw [State.wakeLink_awake ha]
    rfl

theorem State.word_wakeLink_awake {s : State} (k : Nat) {h : Nat} (ha : ¬ s.asleep h) : (s.wakeLink k).word (0x80 + 4 * h) = s.word (0x80 + 4 * h) := by
  by_cases hk : k = h
  · rw [hk, State.wakeLink_awake ha]
    rfl
  · exact State.word_wakeLink_other s k _ (by omega)

/-- The other fields of the status word stay. -/
theorem State.rd_wakeLink_status (s : State) (h lo w : Nat) (hf : lo % 32 + w ≤ 32) (hd : 14 ≤ lo % 32 ∨ lo % 32 + w ≤ 11) :
    (s.wakeLink h).rd ⟨0x80 + 0x4 * h, lo, w⟩ = s.rd ⟨0x80 + 0x4 * h, lo, w⟩ := by
  by_cases ha : s.asleep h
  · rw [State.wakeLink_asleep ha]
    exact State.rd_wr_status (s.updHead h _) h 11 3 lo w 0 (by decide) hf hd
  · rw [State.wakeLink_awake ha]
    rfl

/-- A link that has woken is not asleep. -/
theorem State.not_asleep_wakeLink (s : State) (h : Nat) : ¬ (s.wakeLink h).asleep h := by
  by_cases ha : s.asleep h
  · have hzero : (s.wakeLink h).rd (Reg.GLB_HEAD_STATUS_PSTATE h) = 0 := by
      rw [State.wakeLink_asleep ha]
      exact State.rd_wr_same _ _ _ (by decide : 11 % 32 + 3 ≤ 32)
    simp [State.asleep, hzero]
  · rw [State.wakeLink_awake ha]
    exact ha

/-! ### What an event leaves of the port -/

/-- Requests and memory are as they were, with the status of a head and the Warden's state. -/
structure PortKept (h : Nat) (s t : State) : Prop where
  path : t.path = s.path
  media : t.media = s.media
  status : t.word (0x80 + 4 * h) = s.word (0x80 + 4 * h)
  warden : t.wdn = s.wdn

namespace PortKept
variable {h : Nat} {s t u : State}

theorem refl (s : State) : PortKept h s s := ⟨rfl, rfl, rfl, rfl⟩

theorem trans (a : PortKept h s t) (b : PortKept h t u) : PortKept h s u :=
  ⟨b.path.trans a.path, b.media.trans a.media, b.status.trans a.status, b.warden.trans a.warden⟩

theorem awake (a : PortKept h s t) (ha : ¬ s.asleep h) : ¬ t.asleep h := mt (State.asleep_congr h a.status).1 ha

theorem isSafe (a : PortKept h s t) : t.isSafe = s.isSafe := by
  rw [State.isSafe, State.isSafe, a.warden]

theorem canSend (a : PortKept h s t) : t.canSend h = s.canSend h := by
  rw [State.canSend, State.canSend, State.linkUp_congr h a.status, a.isSafe]

theorem setWord (s : State) (off : Nat) (v : Word) (hh : h < 16) (ho : 0x200 ≤ off) : PortKept h s (s.setWord off v) :=
  ⟨rfl, rfl, State.word_setWord_other _ _ _ _ (by omega), State.rd_congr_in _ (by decide) (State.word_setWord_other _ _ _ _ (by simp only [Reg.GLB_WDN_STATUS_STATE]; omega))⟩

theorem setDword (s : State) (off : Nat) (v : BitVec 64) (hh : h < 16) (ho : 0x200 ≤ off) : PortKept h s (s.setDword off v) :=
  (setWord s off _ hh ho).trans (setWord _ (off + 4) _ hh (by omega))

theorem wr (s : State) (f : Reg.Fld) (x : Nat) (hh : h < 16) (ho : 0x200 ≤ f.off + 4 * (f.lo / 32)) : PortKept h s (s.wr f x) :=
  ⟨State.wr_path .., State.wr_media .., State.word_wr_other _ _ _ _ (by omega) (by omega),
    State.rd_congr_in _ (by decide) (State.word_wr_other _ _ _ _ (by simp only [Reg.GLB_WDN_STATUS_STATE]; omega) (by simp only [Reg.GLB_WDN_STATUS_STATE]; omega))⟩

/-- An update of fields that `PortKept` does not speak of. -/
theorem lit {a : State} {pending tick free out heldLow captHigh boot warden heads lds regions sec place dir press dmc qos gth graft borrow lent cat mgmt alertN} (k : PortKept h s a) :
    PortKept h s (State.mk pending tick free out a.regs heldLow captHigh boot warden heads lds regions a.media sec place dir a.path press dmc qos gth graft borrow lent cat mgmt alertN) :=
  ⟨k.path, k.media, k.status, k.warden⟩

/-- A loop leaves the port, while the head's link is awake, when each of its rounds does. -/
theorem foldl {α : Type} {f : State → α → State} (l : List α) (s : State) (ha : ¬ s.asleep h) (hf : ∀ t x, ¬ t.asleep h → PortKept h t (f t x)) : PortKept h s (l.foldl f s) := by
  induction l generalizing s with
  | nil => exact refl s
  | cons x l ih => exact (hf s x ha).trans (ih (f s x) ((hf s x ha).awake ha))

/-- A message on any link. -/
theorem wakeLink (s : State) (k : Nat) (ha : ¬ s.asleep h) : PortKept h s (s.wakeLink k) := by
  refine ⟨by rw [State.wakeLink_eq], by rw [State.wakeLink_eq], State.word_wakeLink_awake k ha, ?_⟩
  by_cases hk : s.asleep k
  · rw [State.wakeLink_asleep hk]
    exact State.rd_wr_other (s.updHead k _) _ _ _ (by decide : 11 % 32 + 3 ≤ 32) (by decide) (.inr (.inr (by decide : 0 % 32 + 2 ≤ 11 % 32)))
  · rw [State.wakeLink_awake hk]
    rfl

/-- A message of an LD's vector, or the bit that keeps it pending. -/
theorem msix (s : State) (i v : Nat) (ha : ¬ s.asleep h) : PortKept h s (s.msix i v) := by
  unfold State.msix
  split
  · exact refl s
  · split
    · exact refl s
    · dsimp only
      split
      · exact ⟨rfl, rfl, rfl, rfl⟩
      · exact (wakeLink s _ ha).trans ⟨rfl, rfl, rfl, rfl⟩

theorem alertVector (old s : State) (ha : ¬ s.asleep h) : PortKept h s (State.alertVector old s) := by
  unfold State.alertVector
  split
  · exact refl s
  · exact foldl _ s ha fun t i ht => msix t i 6 ht

theorem vectors (a : PortKept h s t) (old : State) (ha : ¬ s.asleep h) : PortKept h s (State.alertVector old t) := a.trans (alertVector old t (a.awake ha))

theorem logWrite (s : State) (code sev arg0 arg1 : Nat) (r : Route) (hh : h < 16) : PortKept h s (s.logWrite code sev arg0 arg1 r) := by
  have hb : 0x200 ≤ logBase (s.rd Reg.ALR_LOG_STATUS_NEXT) := by simp only [logBase]; omega
  unfold State.logWrite
  dsimp only
  refine lit ((trans ?_ (wr _ Reg.ALR_LOG_STATUS_NEXT _ hh (by decide))))
  generalize logBase (s.rd Reg.ALR_LOG_STATUS_NEXT) = b at hb ⊢
  have hrec (v₀ v₁ : Word) (v₂ v₃ v₄ : BitVec 64) : PortKept h s (((((s.setWord b v₀).setWord (b + 4) v₁).setDword (b + 8) v₂).setDword (b + 16) v₃).setDword (b + 24) v₄) :=
    ((((setWord s b v₀ hh hb).trans (setWord _ (b + 4) v₁ hh (by omega))).trans (setDword _ (b + 8) v₂ hh (by omega))).trans (setDword _ (b + 16) v₃ hh (by omega))).trans
      (setDword _ (b + 24) v₄ hh (by omega))
  split
  · exact (hrec _ _ _ _ _).trans (wr _ Reg.ALR_LOG_STATUS_OVF _ hh (by decide))
  · exact hrec _ _ _ _ _

/-- An event: its record, its alert bit and the vectors it leaves by. -/
theorem raise (s : State) (code arg0 arg1 : Nat) (hh : h < 16) (ha : ¬ s.asleep h) : PortKept h s (s.raise code arg0 arg1) := by
  have hnoted : PortKept h s (s.noteRaised code) := ⟨rfl, rfl, rfl, rfl⟩
  unfold State.raise
  dsimp only
  refine (hnoted.trans ?_).vectors _ ha
  have hlog : PortKept h (s.noteRaised code) (match (if (evInfo code arg0).1 = 3 then none else (s.noteRaised code).mergeable code arg0) with
      | some e => (s.noteRaised code).sat (Reg.ALR_LOG_REPEAT e) 1
      | none => (s.noteRaised code).logWrite code (evInfo code arg0).1 arg0 arg1 (evInfo code arg0).2) := by
    split
    · exact wr _ _ _ hh (by simp only [Reg.ALR_LOG_REPEAT]; omega)
    · exact logWrite _ _ _ _ _ _ hh
  split
  · exact hlog.trans (setWord _ _ _ hh (by omega))
  · exact hlog

end PortKept

end Sys2Proof.Machine
end

section
/-! HEAD_LINK_UP, HEAD_LINK_DOWN, HEAD_LINK_RETRAIN and the power states of a link (R39, R40, R48, R61 to R64, R67). -/
namespace Sys2Proof

/-- A key that a table does not list changes nothing. -/
theorem Tbl.modify_of_none {α : Type} {t : Tbl α} {k : Nat} (h : Tbl.look t k = none) (f : α → α) : Tbl.modify t k f = t := by
  induction t with
  | nil => rfl
  | cons p r ih =>
    obtain ⟨j, w⟩ := p
    by_cases hj : j = k
    · simp [Tbl.look, hj] at h
    · simp only [Tbl.look, hj, ↓reduceIte] at h
      simp [Tbl.modify, hj, ih h]

end Sys2Proof

namespace Sys2Proof.Machine

theorem State.updLd_of_none {s : State} {i : Nat} (h : s.ld? i = none) (f : Ld → Ld) : s.updLd i f = s := by
  rw [State.updLd, Tbl.modify_of_none h]

/-- The change that a command makes of each of several LDs, made of each once or more. -/
def eachOf (l : List Nat) (f : Ld → Ld) (j : Nat) (d : Ld) : Ld := if j ∈ l then f d else d

/-- An LD of a list is changed by the loop over it as by one of its rounds, which done again change nothing. -/
theorem eachOf_cons (i : Nat) (l : List Nat) (f : Ld → Ld) (hf : ∀ d, f (f d) = f d) (j : Nat) (d : Ld) : eachOf l f j (if j = i then f d else d) = eachOf (i :: l) f j d := by
  by_cases hi : j = i <;> by_cases hl : j ∈ l <;> simp [eachOf, hi, hl, hf]

/-- What is noted of the heads' widths is for the accounts. -/
theorem State.noteHeads_eq (s : State) : ∃ q, s.noteHeads = { s with qos := q } := ⟨_, rfl⟩

/-- Nor does an occurrence at a station change more than its counters. -/
theorem State.stn_noteHeads_eq (s : State) (a w n : Nat) : ∃ q c, (s.stn a w n).noteHeads = { s with qos := q, cat := c } := ⟨_, _, rfl⟩

theorem State.rd_congr_regs {s t : State} (h : t.regs = s.regs) (f : Reg.Fld) : t.rd f = s.rd f := State.rd_congr f (State.word_congr_regs h _) (State.word_congr_regs h _)

/-- Accounts and stations lie beside the words of the registers. -/
theorem OnlyWords.beside {s u t : State} {l : List Nat} (k : OnlyWords s u l) {q : Qos} {c : Cat} (e : t = { u with qos := q, cat := c }) : OnlyWords { s with qos := t.qos, cat := t.cat } t l := by
  obtain ⟨heq, hwords⟩ := k
  have hregs : t.regs = u.regs := by rw [e]
  refine ⟨?_, fun off ho => (State.word_congr_regs hregs off).trans (hwords off ho)⟩
  rw [e, heq]

/-! ### A link trains (R39, R40, R48) -/

/-- A head's status word as training leaves it. -/
def State.statusUp (s : State) (h rate width flit : Nat) : State :=
  let s := (s.setFlag (Reg.GLB_HEAD_STATUS_LINK_UP h) true).wr (Reg.GLB_HEAD_STATUS_RATE h) rate
  let s := (s.wr (Reg.GLB_HEAD_STATUS_WIDTH h) width).wr (Reg.GLB_HEAD_STATUS_FLIT h) flit
  (s.setFlag (Reg.GLB_HEAD_STATUS_MEM_OK h) (decide (1 ≤ flit ∧ 2 ≤ rate))).wr (Reg.GLB_HEAD_STATUS_PSTATE h) 0

theorem State.statusUp_onlyWords (s : State) (h rate width flit : Nat) : OnlyWords s (s.statusUp h rate width flit) [0x80 + 4 * h] := by
  have hstart : OnlyWords s s [0x80 + 4 * h] := ⟨rfl, fun _ _ => rfl⟩
  exact (((((hstart.status 1 1 _ (by decide) (by decide)).status 2 3 _ (by decide) (by decide)).status 5 3 _ (by decide) (by decide)).status 8 2 _ (by decide) (by decide)).status 10 1 _
    (by decide) (by decide)).status 11 3 _ (by decide) (by decide)

/-- What the status word shows of a link that has trained. -/
structure Shows (t : State) (h rate width flit : Nat) : Prop where
  link : t.linkUp h = true
  rateIs : t.rd (Reg.GLB_HEAD_STATUS_RATE h) = rate
  widthIs : t.rd (Reg.GLB_HEAD_STATUS_WIDTH h) = width
  flitIs : t.rd (Reg.GLB_HEAD_STATUS_FLIT h) = flit
  pstate : t.rd (Reg.GLB_HEAD_STATUS_PSTATE h) = 0
  memOk : t.flag (Reg.GLB_HEAD_STATUS_MEM_OK h) = decide (1 ≤ flit ∧ 2 ≤ rate)

theorem State.statusUp_shows (s : State) (h rate width flit : Nat) (hr : rate < 8) (hw : width < 8) (hf : flit < 4) : Shows (s.statusUp h rate width flit) h rate width flit := by
  have hbit (b : Bool) : ((bif b then 1 else 0) % 2 == 1) = b := by cases b <;> rfl
  constructor <;> simp [State.statusUp, State.linkUp, State.flag, State.setFlag, Reg.GLB_HEAD_STATUS_LINK_UP, Reg.GLB_HEAD_STATUS_RATE, Reg.GLB_HEAD_STATUS_WIDTH, Reg.GLB_HEAD_STATUS_FLIT,
    Reg.GLB_HEAD_STATUS_MEM_OK, Reg.GLB_HEAD_STATUS_PSTATE, State.rd_wr_status, State.rd_wr_status_same, hr, hw, hf, hbit]

/-- What a status word shows, a state with the same word shows too. -/
theorem Shows.congr {s t : State} {h rate width flit : Nat} (k : Shows s h rate width flit) (hw : t.word (0x80 + 4 * h) = s.word (0x80 + 4 * h)) : Shows t h rate width flit where
  link := (State.linkUp_congr h hw).trans k.link
  rateIs := (State.rd_status_congr h 2 3 (by decide) (by decide) hw).trans k.rateIs
  widthIs := (State.rd_status_congr h 5 3 (by decide) (by decide) hw).trans k.widthIs
  flitIs := (State.rd_status_congr h 8 2 (by decide) (by decide) hw).trans k.flitIs
  pstate := (State.rd_status_congr h 11 3 (by decide) (by decide) hw).trans k.pstate
  memOk := by rw [← k.memOk, State.flag, State.flag, Reg.GLB_HEAD_STATUS_MEM_OK, State.rd_status_congr h 10 1 (by decide) (by decide) hw]

theorem Shows.awake {s : State} {h rate width flit : Nat} (k : Shows s h rate width flit) : ¬ s.asleep h := by
  simp [State.asleep, k.pstate]

/-- The CDAT of an LD follows from its capacity and the regions alone. -/
theorem State.cdatOf_congr {s t : State} {d e : Ld} (hr : t.regions = s.regions) (hx : e.exts = d.exts) (hdc : e.dcRegions = d.dcRegions) (lanes : Nat) : t.cdatOf e lanes = s.cdatOf d lanes := by
  have hentry (base len : Nat) (sharable : Bool) : t.dsmas e base len lanes sharable = s.dsmas d base len lanes sharable := by
    unfold State.dsmas
    rw [hr, hx]
  have hcap : e.staticCap = d.staticCap := by rw [Ld.staticCap, Ld.staticCap, hx]
  simp only [State.cdatOf, hentry, hcap, hdc]

/-- An LD at the link-up of its head (R48, Table 2.9). -/
def State.upLd (s : State) (width : Nat) (d : Ld) : Ld := { d with st := if d.st == .down then .ioUp else d.st, cdat := s.cdatOf d (lanesOf width) }

theorem State.upLd_upLd (s : State) (width : Nat) (d : Ld) : s.upLd width (s.upLd width d) = s.upLd width d := by
  have hcdat : s.cdatOf (s.upLd width d) (lanesOf width) = s.cdatOf d (lanesOf width) := State.cdatOf_congr rfl rfl rfl _
  have hst : (if (s.upLd width d).st == .down then .ioUp else (s.upLd width d).st) = (s.upLd width d).st := by
    cases h : d.st <;> simp [State.upLd, h]
  rw [State.upLd, hcdat, hst]
  rfl

theorem State.upLd_congr {s t : State} (hr : t.regions = s.regions) (width : Nat) : t.upLd width = s.upLd width := by
  funext d
  rw [State.upLd, State.upLd, State.cdatOf_congr hr rfl rfl]

/-- The LDs of a list go to IO_UP, their CDAT fixed. -/
def State.upLds (s : State) (h width : Nat) (l : List Nat) : State :=
  l.foldl (fun (s : State) i =>
    let c := s.cdatOf ((s.ld? i).getD { head := h }) (lanesOf width)
    s.updLd i (fun (d : Ld) => { d with st := if d.st == .down then .ioUp else d.st, cdat := c })) s

theorem State.upLds_cons (s : State) (h width i : Nat) (l : List Nat) : s.upLds h width (i :: l) = (s.updLd i (s.upLd width)).upLds h width l := by
  have hround : s.updLd i (fun (d : Ld) => { d with st := if d.st == .down then .ioUp else d.st, cdat := s.cdatOf ((s.ld? i).getD { head := h }) (lanesOf width) }) = s.updLd i (s.upLd width) := by
    cases hd : s.ld? i with
    | none => rw [State.updLd_of_none hd, State.updLd_of_none hd]
    | some d => exact State.updLd_congr hd (by simp [State.upLd])
  rw [← hround]
  rfl

theorem State.upLds_eq (s : State) (h width : Nat) (l : List Nat) : s.upLds h width l = { s with lds := (s.upLds h width l).lds } := by
  induction l generalizing s with
  | nil => rfl
  | cons i l ih => rw [State.upLds_cons, ih]; rfl

/-- Each LD of the list is changed, and no other. -/
theorem State.ld?_upLds (s : State) (h width : Nat) (l : List Nat) (j : Nat) : (s.upLds h width l).ld? j = (s.ld? j).map (eachOf l (s.upLd width) j) := by
  induction l generalizing s with
  | nil =>
    have hid : eachOf [] (s.upLd width) j = id := by
      funext d
      simp [eachOf]
    rw [hid, Option.map_id]
    rfl
  | cons i l ih =>
    have hsame : (s.updLd i (s.upLd width)).upLd width = s.upLd width := State.upLd_congr rfl width
    rw [State.upLds_cons, ih, hsame, State.ld?_updLd, Option.map_map]
    congr 1
    funext d
    exact eachOf_cons i l _ (s.upLd_upLd width) j d

/-- The links that may train, as the command tests them. -/
theorem State.trains_iff (s : State) (h width : Nat) : s.trains h width ↔ (!s.boot.cfgLoaded || !s.headExists h || s.linkUp h || s.boot.perst.getLsbD (h / 4) || s.isSafe || s.boot.warmEntry
    || decide (s.fullWidth h < width) || !(s.boot.pwrok)) = false := by
  simp only [State.trains, Bool.or_eq_false_iff, Bool.not_eq_false', decide_eq_false_iff_not, Nat.not_lt]
  tauto

/-- HEAD_LINK_UP: the status word, the LDs, and the event of a link that cannot carry CXL.mem. -/
theorem State.headUp_trains {s : State} {h rate width flit : Nat} (ht : s.trains h width) : s.headUp h rate width flit =
    (let u := (s.statusUp h rate width flit).upLds h width ((s.statusUp h rate width flit).ldsOf h)
     let v := if decide (1 ≤ flit ∧ 2 ≤ rate) then u else u.raise 0x0101 h (u.word (0x80 + 4 * h)).toNat
     (v.updHead h (fun x => { x with traffic := v.tick })).noteHeads) := by
  unfold State.headUp State.statusUp State.upLds
  rw [(State.trains_iff s h width).1 ht, if_neg Bool.false_ne_true]

theorem State.ldsOf_statusUp (s : State) (h rate width flit : Nat) : (s.statusUp h rate width flit).ldsOf h = s.ldsOf h := by
  rw [State.ldsOf, (State.statusUp_onlyWords s h rate width flit).1, State.ldsOf]

/-! ### A link goes down (R64, R67) -/

/-- An LD when the link of its head goes down (Table 2.9): it stops abruptly, or is DOWN. -/
def lostLd (d : Ld) : Ld :=
  match d.st with
  | .active => { d with st := .stopping, resetClr := none }
  | .draining => { d with st := .stopping, resetClr := none }
  | .ioUp => { blankLd d with st := .down, resetClr := none }
  | _ => d

theorem lostLd_lostLd (d : Ld) : lostLd (lostLd d) = lostLd d := by
  cases h : d.st <;> simp [lostLd, h]

/-- Nothing is in flight: no background command, request or exchange. -/
structure Calm (s : State) : Prop where
  bg : s.mgmt.bg = []
  txns : s.path.txns = []
  bench : s.dir.bench = []
  exchs : s.dir.exchs = []

/-- One LD meets the loss of its head's link. -/
structure LinkLost (i : Nat) (s t : State) : Prop where
  ld : ∀ j, t.ld? j = (s.ld? j).map (fun d => if j = i then lostLd d else d)
  heads : t.heads = s.heads
  credits : t.dir.credits = s.dir.credits
  word : ∀ off, off < 0x401000 → t.word off = s.word off
  calm : Calm t

/-- Registers, heads, LDs, directory and requests are as they were, and no background command begins. -/
structure PassesOnly (s t : State) : Prop where
  regs : t.regs = s.regs
  heads : t.heads = s.heads
  lds : t.lds = s.lds
  dir : t.dir = s.dir
  path : t.path = s.path
  bg : s.mgmt.bg = [] → t.mgmt.bg = []

namespace PassesOnly
variable {s t : State}

theorem foldl {α : Type} {f : State → α → State} (l : List α) (s : State) (hf : ∀ t x, PassesOnly t (f t x)) : PassesOnly s (l.foldl f s) := by
  induction l generalizing s with
  | nil => exact ⟨rfl, rfl, rfl, rfl, rfl, id⟩
  | cons x l ih =>
    obtain ⟨hregs, hheads, hlds, hdir, hpath, hbg⟩ := hf s x
    obtain ⟨hregs', hheads', hlds', hdir', hpath', hbg'⟩ := ih (f s x)
    exact ⟨hregs'.trans hregs, hheads'.trans hheads, hlds'.trans hlds, hdir'.trans hdir, hpath'.trans hpath, hbg' ∘ hbg⟩

/-- Engines are freed. -/
theorem endPasses (s : State) (gone : RangePass → Bool) : PassesOnly s (s.endPasses gone) := by
  have hfree : PassesOnly s ((s.mgmt.passes.filter gone).foldl (fun (s : State) (x : RangePass) => match x.cur.bind (·.engine) with | some e => s.freeEngine e | none => s) s) :=
    foldl _ s fun t x => by
      split
      · exact ⟨rfl, rfl, rfl, rfl, rfl, id⟩
      · exact ⟨rfl, rfl, rfl, rfl, rfl, id⟩
  exact ⟨hfree.regs, hfree.heads, hfree.lds, hfree.dir, hfree.path, hfree.bg⟩

/-- The range passes of an LD end. -/
theorem dropPasses (s : State) (i : Nat) : PassesOnly s (s.dropPasses i) := by
  have hend := endPasses s (fun (x : RangePass) => ((s.mgmt.passes.filter (fun (x : RangePass) => x.ldDpa == some i || x.owner == some i)).map (fun x => x.id)).contains x.id)
  exact ⟨hend.regs, hend.heads, hend.lds, hend.dir, hend.path, fun h => (congrArg (List.filter _) (hend.bg h)).trans rfl⟩

end PassesOnly

/-- Deleting queues ends no request where none is in service. -/
theorem State.dropQueues_txns (s : State) (i : Nat) (abrupt : Bool) (h : s.path.txns = []) : (s.dropQueues i abrupt).path.txns = [] := by
  cases abrupt
  · rw [State.dropQueues_graceful, State.deleteQueues_eq]
    exact h
  · rw [State.dropQueues_abrupt, State.deleteQueues_eq]
    simp [State.killJobs, h]

/-- With no request in service, none is discarded. -/
theorem State.discardLd_none {s : State} (i : Nat) (ht : s.path.txns = []) (hb : s.dir.bench = []) : s.discardLd i = s := by
  simp [State.discardLd, ht, hb]

/-- With no exchange, none waits for a head. -/
theorem State.stopWaits_none {s : State} (h : Nat) (hx : s.dir.exchs = []) : s.stopWaits h = s := by
  simp [State.stopWaits, hx]

/-- An abrupt disable of an LD that decodes memory, while nothing is in flight, lets it stop. -/
theorem State.stopLd_calm {s : State} {i : Nat} {d : Ld} (hs : Calm s) (hd : s.ld? i = some d) (hst : d.st = .active ∨ d.st = .draining) :
    (s.stopLd i).lds = (s.updLd i (fun d => { d with st := .stopping, resetClr := none })).lds ∧ (s.stopLd i).heads = s.heads ∧ (s.stopLd i).dir.credits = s.dir.credits
      ∧ (∀ off, off < 0x401000 → (s.stopLd i).word off = s.word off) ∧ Calm (s.stopLd i) := by
  have hcond : (d.st == .active || d.st == .draining || d.st == .ioUp) = true := by rcases hst with h | h <;> rw [h] <;> rfl
  have hpass := PassesOnly.dropPasses s i
  have hqueue := State.dropQueues_eq (s.dropPasses i) i true
  have htxns := State.dropQueues_txns (s.dropPasses i) i true (by rw [hpass.path, hs.txns])
  have hword (off : Nat) (ho : off < 0x401000) := (State.word_dropQueues_other (s.dropPasses i) i true off (.inl ho)).trans (State.word_congr_regs hpass.regs off)
  unfold State.stopLd
  rw [hd]
  simp only [hcond, ↓reduceIte]
  generalize (s.dropPasses i).dropQueues i true = u at hqueue htxns hword ⊢
  have hdir : u.dir = s.dir := by rw [hqueue, ← hpass.dir]
  have hcredits : u.dir.credits = s.dir.credits := by rw [hdir]
  have hbench : u.dir.bench = [] := by rw [hdir, hs.bench]
  have hexchs : u.dir.exchs = [] := by rw [hdir, hs.exchs]
  rw [State.discardLd_none i (by exact htxns) (by exact hbench), State.stopWaits_none _ (by exact hexchs)]
  refine ⟨?_, ?_, hcredits, hword, ⟨?_, htxns, hbench, hexchs⟩⟩
  · show Tbl.modify u.lds i _ = Tbl.modify s.lds i _
    rw [hqueue, ← hpass.lds]
  · show u.heads = s.heads
    rw [hqueue, ← hpass.heads]
  · show u.mgmt.bg = []
    rw [hqueue]
    exact hpass.bg hs.bg

/-- One LD of the head, as HEAD_LINK_DOWN treats it. -/
def State.loseLd (s : State) (i : Nat) : State :=
  match s.ld? i with
  | none => s
  | some d => match d.st with
    | .active => s.stopLd i
    | .draining => s.stopLd i
    | .ioUp => (s.ldReset i).updLd i (fun (d : Ld) => { d with st := .down, resetClr := none })
    | _ => s

/-- Where one LD changes, the others are as they were. -/
theorem State.ld?_of_lds {s t : State} {i : Nat} {d : Ld} {f g : Ld → Ld} (hd : s.ld? i = some d) (hfg : f d = g d) (h : t.lds = (s.updLd i f).lds) (j : Nat) :
    t.ld? j = (s.ld? j).map (fun d => if j = i then g d else d) := by
  rw [State.ld?_congr h, State.updLd_congr hd hfg, State.ld?_updLd]

/-- With nothing in flight, one LD changes as the link goes. -/
theorem State.loseLd_lost {s : State} (i : Nat) (hs : Calm s) : LinkLost i s (s.loseLd i) := by
  have hsame (h : s.ld? i = none ∨ ∃ d, s.ld? i = some d ∧ lostLd d = d) : LinkLost i s s := by
    refine ⟨fun j => ?_, rfl, rfl, fun _ _ => rfl, hs⟩
    by_cases hj : j = i
    · subst hj
      rcases h with hn | ⟨d, hd, hkeep⟩
      · rw [hn]; rfl
      · simp [hd, hkeep]
    · simp [hj]
  have hstop (d : Ld) (hd : s.ld? i = some d) (hst : d.st = .active ∨ d.st = .draining) : LinkLost i s (s.stopLd i) := by
    obtain ⟨hlds, hheads, hcredits, hword, hcalm⟩ := State.stopLd_calm hs hd hst
    have hlost : { d with st := .stopping, resetClr := none } = lostLd d := by rcases hst with h | h <;> simp [lostLd, h]
    exact ⟨State.ld?_of_lds hd hlost hlds, hheads, hcredits, hword, hcalm⟩
  unfold State.loseLd
  split
  · exact hsame (.inl ‹_›)
  · next d hd =>
    split
    · exact hstop d hd (.inl ‹_›)
    · exact hstop d hd (.inr ‹_›)
    · next hst =>
      obtain ⟨heq, hbg, hword⟩ := State.ldReset_idle i hs.bg
      have hlds : ((s.ldReset i).updLd i (fun (d : Ld) => { d with st := .down, resetClr := none })).lds = (s.updLd i (fun d => { blankLd d with st := .down, resetClr := none })).lds := by
        rw [heq]
        exact Tbl.modify_modify ..
      have hlost : { blankLd d with st := .down, resetClr := none } = lostLd d := by simp [lostLd, hst]
      generalize s.ldReset i = u at heq hbg hword hlds ⊢
      refine ⟨State.ld?_of_lds hd hlost hlds, ?_, ?_, fun off ho => hword off (by omega) (by omega), ⟨hbg, ?_, ?_, ?_⟩⟩
      · rw [heq]; rfl
      · rw [heq]; rfl
      · rw [heq]; exact hs.txns
      · rw [heq]; exact hs.bench
      · rw [heq]; exact hs.exchs
    · next hact hdrain hio =>
      refine hsame (.inr ⟨d, hd, ?_⟩)
      cases hst : d.st <;> simp_all [lostLd]

/-- The LDs of a list lose their link. -/
theorem State.loseLds {s : State} (l : List Nat) (hs : Calm s) :
    (∀ j, (l.foldl State.loseLd s).ld? j = (s.ld? j).map (eachOf l lostLd j)) ∧ (l.foldl State.loseLd s).heads = s.heads ∧ (l.foldl State.loseLd s).dir.credits = s.dir.credits
      ∧ ∀ off, off < 0x401000 → (l.foldl State.loseLd s).word off = s.word off := by
  induction l generalizing s with
  | nil =>
    have hid (j : Nat) : eachOf [] lostLd j = id := by
      funext d
      simp [eachOf]
    refine ⟨fun j => ?_, rfl, rfl, fun _ _ => rfl⟩
    rw [hid, Option.map_id]
    rfl
  | cons i l ih =>
    obtain ⟨hld, hheads, hcredits, hword, hcalm⟩ := State.loseLd_lost i hs
    obtain ⟨hlds, hheads', hcredits', hword'⟩ := ih hcalm
    refine ⟨fun j => ?_, hheads'.trans hheads, hcredits'.trans hcredits, fun off ho => (hword' off ho).trans (hword off ho)⟩
    rw [List.foldl_cons, hlds, hld, Option.map_map]
    congr 1
    funext d
    exact eachOf_cons i l _ lostLd_lostLd j d

/-- A head's status word as the loss of its link leaves it. -/
def State.statusDown (s : State) (h : Nat) : State :=
  let s := (s.setFlag (Reg.GLB_HEAD_STATUS_LINK_UP h) false).setFlag (Reg.GLB_HEAD_STATUS_MEM_OK h) false
  let s := ((s.wr (Reg.GLB_HEAD_STATUS_RATE h) 0).wr (Reg.GLB_HEAD_STATUS_WIDTH h) 0).wr (Reg.GLB_HEAD_STATUS_FLIT h) 0
  s.wr (Reg.GLB_HEAD_STATUS_PSTATE h) 6

theorem State.statusDown_onlyWords (s : State) (h : Nat) : OnlyWords s (s.statusDown h) [0x80 + 4 * h] := by
  have hstart : OnlyWords s s [0x80 + 4 * h] := ⟨rfl, fun _ _ => rfl⟩
  exact (((((hstart.status 1 1 _ (by decide) (by decide)).status 10 1 _ (by decide) (by decide)).status 2 3 _ (by decide) (by decide)).status 5 3 _ (by decide) (by decide)).status 8 2 _
    (by decide) (by decide)).status 11 3 _ (by decide) (by decide)

/-- What the status word shows of a link that is down. -/
structure ShowsDown (t : State) (h : Nat) : Prop where
  link : t.linkUp h = false
  memOk : t.flag (Reg.GLB_HEAD_STATUS_MEM_OK h) = false
  width : t.rd (Reg.GLB_HEAD_STATUS_WIDTH h) = 0
  pstate : t.rd (Reg.GLB_HEAD_STATUS_PSTATE h) = 6

theorem State.statusDown_shows (s : State) (h : Nat) : ShowsDown (s.statusDown h) h := by
  constructor <;> simp [State.statusDown, State.linkUp, State.flag, State.setFlag, Reg.GLB_HEAD_STATUS_LINK_UP, Reg.GLB_HEAD_STATUS_RATE, Reg.GLB_HEAD_STATUS_WIDTH, Reg.GLB_HEAD_STATUS_FLIT,
    Reg.GLB_HEAD_STATUS_MEM_OK, Reg.GLB_HEAD_STATUS_PSTATE, State.rd_wr_status, State.rd_wr_status_same]

theorem ShowsDown.congr {s t : State} {h : Nat} (k : ShowsDown s h) (hw : t.word (0x80 + 4 * h) = s.word (0x80 + 4 * h)) : ShowsDown t h where
  link := (State.linkUp_congr h hw).trans k.link
  memOk := by rw [← k.memOk, State.flag, State.flag, Reg.GLB_HEAD_STATUS_MEM_OK, State.rd_status_congr h 10 1 (by decide) (by decide) hw]
  width := (State.rd_status_congr h 5 3 (by decide) (by decide) hw).trans k.width
  pstate := (State.rd_status_congr h 11 3 (by decide) (by decide) hw).trans k.pstate

theorem State.linkGone_eq (s : State) (h : Nat) :
    s.linkGone h = { s with heads := Tbl.upd s.heads {} h (fun x => { x with link := [], fm := [] }), dir := { s.dir with credits := Tbl.del s.dir.credits h } } := rfl

/-- The state in which a link has gone, before its LDs meet the loss. -/
theorem State.linkLoss_eq (s : State) (h : Nat) : ∃ q, (s.statusDown h).noteHeads.linkGone h =
    { s with regs := (s.statusDown h).regs, qos := q, heads := Tbl.upd s.heads {} h (fun x => { x with link := [], fm := [] }), dir := { s.dir with credits := Tbl.del s.dir.credits h } } := by
  have hstat := (State.statusDown_onlyWords s h).1
  generalize s.statusDown h = v at hstat ⊢
  obtain ⟨q, hnote⟩ := v.noteHeads_eq
  refine ⟨q, ?_⟩
  rw [State.linkGone_eq, hnote, hstat]

/-- HEAD_LINK_DOWN: the status word, what the link held, and the LDs. -/
theorem State.headDown_up {s : State} {h : Nat} (hlink : s.linkUp h = true) :
    s.headDown h = (((s.statusDown h).noteHeads.linkGone h).ldsOf h).foldl State.loseLd ((s.statusDown h).noteHeads.linkGone h) := by
  unfold State.headDown State.statusDown
  rw [hlink, if_neg (by decide)]
  dsimp only
  generalize State.linkGone _ h = u
  rfl

/-! ### The commands -/

theorem State.headUp_refused {s : State} {h rate width flit : Nat} (ht : ¬ s.trains h width) : s.headUp h rate width flit = s := by
  have hcond := Bool.eq_true_of_not_eq_false (mt (State.trains_iff s h width).2 ht)
  unfold State.headUp
  rw [hcond, if_pos rfl]

/-- A link trains: what its status word shows. -/
theorem State.headUp_shows {s : State} {h rate width flit : Nat} (hh : h < 16) (hr : rate < 8) (hw : width < 8) (hf : flit < 4) (ht : s.trains h width) :
    Shows (s.headUp h rate width flit) h rate width flit := by
  have hup : Shows ((s.statusUp h rate width flit).upLds h width (s.ldsOf h)) h rate width flit :=
    (State.statusUp_shows s h rate width flit hr hw hf).congr (State.word_congr_regs (by rw [State.upLds_eq]) _)
  rw [State.headUp_trains ht, State.ldsOf_statusUp]
  generalize (s.statusUp h rate width flit).upLds h width (s.ldsOf h) = u at hup ⊢
  dsimp only
  obtain ⟨q, hq⟩ := State.noteHeads_eq (State.updHead (if decide (1 ≤ flit ∧ 2 ≤ rate) = true then u else u.raise 0x0101 h (u.word (0x80 + 4 * h)).toNat) h
    (fun x => { x with traffic := (if decide (1 ≤ flit ∧ 2 ≤ rate) = true then u else u.raise 0x0101 h (u.word (0x80 + 4 * h)).toNat).tick }))
  rw [hq]
  split
  · exact hup.congr rfl
  · exact hup.congr (PortKept.raise u 0x0101 h _ hh hup.awake).status

/-- A link that carries CXL.mem trains: what else changes. -/
theorem State.headUp_frame {s : State} {h rate width flit : Nat} (ht : s.trains h width) (hok : 1 ≤ flit ∧ 2 ≤ rate) {t : State} (e : s.headUp h rate width flit = t) :
    OnlyWords { s with lds := t.lds, qos := t.qos, heads := t.heads } t [0x80 + 4 * h] ∧ (t.hd h).traffic = s.tick ∧ ∀ i, t.ld? i = (s.ld? i).map (eachOf (s.ldsOf h) (s.upLd width) i) := by
  obtain ⟨hstat, hwords⟩ := State.statusUp_onlyWords s h rate width flit
  have heq := State.upLds_eq (s.statusUp h rate width flit) h width (s.ldsOf h)
  have hld := State.ld?_upLds (s.statusUp h rate width flit) h width (s.ldsOf h)
  rw [State.headUp_trains ht, State.ldsOf_statusUp] at e
  dsimp only at e
  rw [if_pos (by simpa using hok)] at e
  obtain ⟨q, hq⟩ := State.noteHeads_eq (State.updHead ((s.statusUp h rate width flit).upLds h width (s.ldsOf h)) h
    (fun x => { x with traffic := ((s.statusUp h rate width flit).upLds h width (s.ldsOf h)).tick }))
  rw [hq] at e
  clear hq
  have hsame : (s.statusUp h rate width flit).upLd width = s.upLd width := State.upLd_congr (by rw [hstat]) width
  rw [hsame] at hld
  generalize (s.statusUp h rate width flit).upLds h width (s.ldsOf h) = u at heq hld e
  generalize s.statusUp h rate width flit = v at *
  have hregs : t.regs = v.regs := by rw [← e, heq]; rfl
  have hheads : t.heads = Tbl.upd s.heads {} h (fun x => { x with traffic := s.tick }) := by rw [← e, heq, hstat]; rfl
  have hlds : t.lds = u.lds := by rw [← e]; rfl
  refine ⟨⟨?_, fun off ho => (State.word_congr_regs hregs off).trans (hwords off ho)⟩, ?_, fun i => ?_⟩
  · rw [← e, heq, hstat]
    rfl
  · rw [State.hd, hheads, Tbl.upd, Tbl.lookD_putD_same]
  · rw [State.ld?_congr hlds, hld i, State.ld?_congr (s := s) (by rw [hstat])]

theorem State.headDown_refused {s : State} {h : Nat} (hlink : s.linkUp h = false) : s.headDown h = s := by
  unfold State.headDown
  rw [hlink]
  exact if_pos rfl

/-- A link goes down while nothing is in flight. -/
theorem State.headDown_frame {s : State} {h : Nat} (hlink : s.linkUp h = true) (hh : h < 16) (hs : Calm s) {t : State} (e : s.headDown h = t) :
    ShowsDown t h ∧ (t.hd h).link = [] ∧ (t.hd h).fm = [] ∧ Tbl.look t.dir.credits h = none ∧ (∀ i, t.ld? i = (s.ld? i).map (eachOf (s.ldsOf h) lostLd i))
      ∧ ∀ k, k < 16 → k ≠ h → t.word (0x80 + 4 * k) = s.word (0x80 + 4 * k) := by
  obtain ⟨-, hwords⟩ := State.statusDown_onlyWords s h
  have hshows := State.statusDown_shows s h
  obtain ⟨q, hloss⟩ := s.linkLoss_eq h
  rw [State.headDown_up hlink] at e
  generalize (s.statusDown h).noteHeads.linkGone h = u at hloss e
  generalize s.statusDown h = v at hwords hshows hloss
  have hlds : u.lds = s.lds := by rw [hloss]
  have hof : u.ldsOf h = s.ldsOf h := by rw [State.ldsOf, State.ldsOf, hlds]
  have hregs : u.regs = v.regs := by rw [hloss]
  have hu : u.heads = Tbl.upd s.heads {} h (fun x => { x with link := [], fm := [] }) := by rw [hloss]
  have hcr : u.dir.credits = Tbl.del s.dir.credits h := by rw [hloss]
  have hcalm : Calm u := by
    obtain ⟨hbg, htxns, hbench, hexchs⟩ := hs
    exact ⟨by rw [hloss, hbg], by rw [hloss, htxns], by rw [hloss, hbench], by rw [hloss, hexchs]⟩
  obtain ⟨hld, hheads, hcredits, hword⟩ := State.loseLds (u.ldsOf h) hcalm
  rw [e] at hld hheads hcredits hword
  have hword' (k : Nat) (hk : k < 16) : t.word (0x80 + 4 * k) = v.word (0x80 + 4 * k) := (hword _ (by omega)).trans (State.word_congr_regs hregs _)
  refine ⟨hshows.congr (hword' h hh), ?_, ?_, ?_, fun i => ?_, fun k hk hne => (hword' k hk).trans (hwords _ ?_)⟩
  · rw [State.hd, hheads, hu, Tbl.upd, Tbl.lookD_putD_same]
  · rw [State.hd, hheads, hu, Tbl.upd, Tbl.lookD_putD_same]
  · rw [hcredits, hcr, Tbl.look_del_same]
  · rw [hld, State.ld?_congr hlds, hof]
  · simp only [List.mem_singleton]
    omega

/-- A head's status word as retraining leaves it. -/
def State.statusRetrained (s : State) (h width : Nat) : State := ((s.sat (Reg.GLB_HEAD_STATUS_RETRAINS h) 1).wr (Reg.GLB_HEAD_STATUS_WIDTH h) width).wr (Reg.GLB_HEAD_STATUS_PSTATE h) 0

theorem State.statusRetrained_onlyWords (s : State) (h width : Nat) : OnlyWords s (s.statusRetrained h width) [0x80 + 4 * h] := by
  have hstart : OnlyWords s s [0x80 + 4 * h] := ⟨rfl, fun _ _ => rfl⟩
  exact ((hstart.status 16 8 _ (by decide) (by decide)).status 5 3 _ (by decide) (by decide)).status 11 3 _ (by decide) (by decide)

/-- A retrained link shows its width, and that it has retrained once more. -/
theorem State.statusRetrained_shows (s : State) (h width : Nat) (hw : width < 8) : (s.statusRetrained h width).rd (Reg.GLB_HEAD_STATUS_WIDTH h) = width
    ∧ (s.statusRetrained h width).rd (Reg.GLB_HEAD_STATUS_PSTATE h) = 0 ∧ (s.statusRetrained h width).linkUp h = s.linkUp h
    ∧ (s.statusRetrained h width).rd (Reg.GLB_HEAD_STATUS_RETRAINS h) = min (s.rd (Reg.GLB_HEAD_STATUS_RETRAINS h) + 1) (2 ^ (Reg.GLB_HEAD_STATUS_RETRAINS h).w - 1) := by
  have hmin (x : Nat) : min (x + 1) 255 % 256 = min (x + 1) 255 := Nat.mod_eq_of_lt (by omega)
  refine ⟨?_, ?_, ?_, ?_⟩ <;>
    simp [State.statusRetrained, State.sat, State.linkUp, State.flag, Reg.GLB_HEAD_STATUS_RETRAINS, Reg.GLB_HEAD_STATUS_WIDTH, Reg.GLB_HEAD_STATUS_PSTATE, Reg.GLB_HEAD_STATUS_LINK_UP,
      State.rd_wr_status, State.rd_wr_status_same, hw, hmin]

theorem State.headRetrain_up {s : State} {h width : Nat} (hlink : s.linkUp h = true) (hw : width ≤ s.fullWidth h) :
    s.headRetrain h width = ((s.statusRetrained h width).stn (113 + h / 4) 4).noteHeads := if_pos ⟨hlink, hw⟩

theorem State.headRetrain_refused {s : State} {h width : Nat} (hr : s.linkUp h = false ∨ s.fullWidth h < width) : s.headRetrain h width = s := by
  refine if_neg fun ⟨hlink, hw⟩ => ?_
  rcases hr with hr | hr
  · simp [hlink] at hr
  · omega

/-- What a state shows of a head's LDs when each was changed. -/
theorem map_eachOf_some {o : Option Ld} {d : Ld} {l : List Nat} {f : Ld → Ld} {i : Nat} (hd : o = some d) (hi : i ∈ l) : o.map (eachOf l f i) = some (f d) := by
  simp [hd, eachOf, hi]

theorem map_eachOf_other (o : Option Ld) {l : List Nat} (f : Ld → Ld) {i : Nat} (hi : i ∉ l) : o.map (eachOf l f i) = o := by
  cases o <;> simp [eachOf, hi]

/-- What is left of an LD whose link goes (R64, R67). -/
theorem lostLd_spec (d : Ld) : (lostLd d).exts = d.exts ∧ (lostLd d).st = (match d.st with | .active => .stopping | .draining => .stopping | .ioUp => .down | x => x)
    ∧ (d.st = .ioUp → (lostLd d).decoders = [] ∧ (lostLd d).decRegs = [] ∧ (lostLd d).cfg = [] ∧ (lostLd d).msix = [] ∧ (lostLd d).pba = 0 ∧ (lostLd d).memSpace = false ∧ (lostLd d).mbox = {})
    ∧ (d.st ≠ .ioUp → (lostLd d).decoders = d.decoders ∧ (lostLd d).cfg = d.cfg ∧ (lostLd d).msix = d.msix) := by
  cases h : d.st <;> simp [lostLd, blankLd, h]

/-- HEAD_LINK_UP of a link that may train. -/
theorem headLinkUp_takesEffect {h : Head} {rate : Fin 6} {width : Fin 5} {flit : Fin 3} {s : State} (ht : s.trains h width) {t : State} (e : s.headUp h rate width flit = t) :
    t.linkUp h = true ∧ t.rd (Reg.GLB_HEAD_STATUS_RATE h) = rate ∧ t.rd (Reg.GLB_HEAD_STATUS_WIDTH h) = width ∧ t.rd (Reg.GLB_HEAD_STATUS_FLIT h) = flit
      ∧ t.rd (Reg.GLB_HEAD_STATUS_PSTATE h) = 0 ∧ t.flag (Reg.GLB_HEAD_STATUS_MEM_OK h) = decide (1 ≤ flit.val ∧ 2 ≤ rate.val)
      ∧ (1 ≤ flit.val → 2 ≤ rate.val → OnlyWords { s with lds := t.lds, qos := t.qos, heads := t.heads } t [0x80 + 4 * h] ∧ (t.hd h).traffic = s.tick
        ∧ (∀ i d, i ∈ s.ldsOf h → s.ld? i = some d → t.ld? i = some { d with st := if d.st = .down then .ioUp else d.st, cdat := s.cdatOf d (lanesOf width) })
        ∧ ∀ i, i ∉ s.ldsOf h → t.ld? i = s.ld? i) := by
  obtain ⟨hlink, hrate, hwidth, hflit, hpstate, hok⟩ := State.headUp_shows (rate := rate) (flit := flit) h.isLt (by omega) (by omega) (by omega) ht
  rw [e] at hlink hrate hwidth hflit hpstate hok
  refine ⟨hlink, hrate, hwidth, hflit, hpstate, hok, fun hf hr => ?_⟩
  obtain ⟨honly, htraffic, hld⟩ := State.headUp_frame ht ⟨hf, hr⟩ e
  refine ⟨honly, htraffic, fun i d hi hd => ?_, fun i hi => ?_⟩
  · rw [hld, map_eachOf_some hd hi]
    simp [State.upLd]
  · rw [hld, map_eachOf_other _ _ hi]

/-- HEAD_LINK_DOWN of a link that is up, while nothing is in flight. -/
theorem headLinkDown_takesEffect {h : Head} {s : State} (hlink : s.linkUp h = true) (hs : Calm s) {t : State} (e : s.headDown h = t) :
    t.linkUp h = false ∧ t.flag (Reg.GLB_HEAD_STATUS_MEM_OK h) = false ∧ t.rd (Reg.GLB_HEAD_STATUS_WIDTH h) = 0 ∧ t.rd (Reg.GLB_HEAD_STATUS_PSTATE h) = 6
      ∧ (t.hd h).link = [] ∧ (t.hd h).fm = [] ∧ Tbl.look t.dir.credits h = none
      ∧ (∀ i d, i ∈ s.ldsOf h → s.ld? i = some d → ∃ e, t.ld? i = some e ∧ e.exts = d.exts
          ∧ e.st = (match d.st with | .active => .stopping | .draining => .stopping | .ioUp => .down | x => x)
          ∧ (d.st = .ioUp → e.decoders = [] ∧ e.decRegs = [] ∧ e.cfg = [] ∧ e.msix = [] ∧ e.pba = 0 ∧ e.memSpace = false ∧ e.mbox = {})
          ∧ (d.st ≠ .ioUp → e.decoders = d.decoders ∧ e.cfg = d.cfg ∧ e.msix = d.msix))
      ∧ (∀ i, i ∉ s.ldsOf h → t.ld? i = s.ld? i) ∧ ∀ k, k < 16 → k ≠ h.val → t.word (0x80 + 4 * k) = s.word (0x80 + 4 * k) := by
  obtain ⟨⟨hdown, hok, hwidth, hpstate⟩, hheld, hfm, hcredits, hld, hword⟩ := State.headDown_frame hlink h.isLt hs e
  refine ⟨hdown, hok, hwidth, hpstate, hheld, hfm, hcredits, fun i d hi hd => ⟨lostLd d, ?_, lostLd_spec d⟩, fun i hi => ?_, hword⟩
  · rw [hld, map_eachOf_some hd hi]
  · rw [hld, map_eachOf_other _ _ hi]

/-- HEAD_LINK_RETRAIN of a link that is up. -/
theorem headLinkRetrain_takesEffect {h : Head} {width : Fin 5} {s : State} (hlink : s.linkUp h = true) (hw : width ≤ s.fullWidth h) {t : State} (e : s.headRetrain h width = t) :
    t.rd (Reg.GLB_HEAD_STATUS_WIDTH h) = width ∧ t.rd (Reg.GLB_HEAD_STATUS_PSTATE h) = 0 ∧ t.linkUp h = true
      ∧ t.rd (Reg.GLB_HEAD_STATUS_RETRAINS h) = min (s.rd (Reg.GLB_HEAD_STATUS_RETRAINS h) + 1) (2 ^ (Reg.GLB_HEAD_STATUS_RETRAINS h).w - 1)
      ∧ OnlyWords { s with qos := t.qos, cat := t.cat } t [0x80 + 4 * h] := by
  obtain ⟨hwidth, hpstate, hup, hcount⟩ := State.statusRetrained_shows s h width (by omega)
  have honly := State.statusRetrained_onlyWords s h width
  obtain ⟨q, c, hbeside⟩ := (s.statusRetrained h width).stn_noteHeads_eq (113 + h / 4) 4 1
  have ht : t = { s.statusRetrained h width with qos := q, cat := c } := e.symm.trans ((State.headRetrain_up hlink hw).trans hbeside)
  have hregs : t.regs = (s.statusRetrained h width).regs := by rw [ht]
  refine ⟨?_, ?_, ?_, ?_, honly.beside ht⟩
  · rw [State.rd_congr_regs hregs, hwidth]
  · rw [State.rd_congr_regs hregs, hpstate]
  · rw [State.linkUp_congr h (State.word_congr_regs hregs _), hup, hlink]
  · rw [State.rd_congr_regs hregs, hcount]

theorem headLinkCommandsTakeEffect : HeadLinkCommandsTakeEffect :=
  ⟨fun _ _ _ _ _ ht => congrArg Host.Outcome.next (State.headUp_refused ht), fun h rate width flit s ht => ⟨s.headUp h rate width flit, rfl, headLinkUp_takesEffect ht rfl⟩,
    fun _ _ hlink => congrArg Host.Outcome.next (State.headDown_refused hlink), fun h s hlink hbg hno hx => ⟨s.headDown h, rfl, headLinkDown_takesEffect hlink ⟨hbg, hno.1, hno.2, hx⟩ rfl⟩,
    fun _ _ _ hr => congrArg Host.Outcome.next (State.headRetrain_refused hr), fun h width s hlink hw => ⟨s.headRetrain h width, rfl, headLinkRetrain_takesEffect hlink hw rfl⟩⟩

/-! ### Power states of a link (R61 to R63) -/

/-- The power state of a head's link is shown, and what else the status word shows is kept. -/
theorem State.pstate_shown {s t : State} {h p : Nat} (hp : p < 8) (hregs : t.regs = (s.wr (Reg.GLB_HEAD_STATUS_PSTATE h) p).regs) : t.rd (Reg.GLB_HEAD_STATUS_PSTATE h) = p
    ∧ t.linkUp h = s.linkUp h ∧ t.rd (Reg.GLB_HEAD_STATUS_WIDTH h) = s.rd (Reg.GLB_HEAD_STATUS_WIDTH h) ∧ ∀ off, off ∉ [0x80 + 4 * h] → t.word off = s.word off := by
  have hstart : OnlyWords s s [0x80 + 4 * h] := ⟨rfl, fun _ _ => rfl⟩
  refine ⟨?_, ?_, ?_, fun off ho => (State.word_congr_regs hregs off).trans ((hstart.status 11 3 p (by decide) (by decide)).2 off ho)⟩ <;>
    simp [State.linkUp, State.flag, State.rd_congr_regs hregs, Reg.GLB_HEAD_STATUS_WIDTH, Reg.GLB_HEAD_STATUS_PSTATE, Reg.GLB_HEAD_STATUS_LINK_UP, State.rd_wr_status, State.rd_wr_status_same, hp]

/-- A power state is written, and its message leaves. -/
theorem State.setPstate_eq (s : State) (h p : Nat) (o : Out) :
    ((s.wr (Reg.GLB_HEAD_STATUS_PSTATE h) p).emit o) = { s with regs := (s.wr (Reg.GLB_HEAD_STATUS_PSTATE h) p).regs, out := o :: s.out } := by
  have heq := State.wr_eq_withRegs s (Reg.GLB_HEAD_STATUS_PSTATE h) p
  generalize s.wr (Reg.GLB_HEAD_STATUS_PSTATE h) p = u at heq ⊢
  rw [State.emit, heq]

/-- The width of the link is noted too. -/
theorem State.setPstate_noted (s : State) (h p : Nat) (o : Out) :
    ∃ q, ((s.wr (Reg.GLB_HEAD_STATUS_PSTATE h) p).emit o).noteHeads = { s with regs := (s.wr (Reg.GLB_HEAD_STATUS_PSTATE h) p).regs, out := o :: s.out, qos := q } := by
  obtain ⟨q, hq⟩ := ((s.wr (Reg.GLB_HEAD_STATUS_PSTATE h) p).emit o).noteHeads_eq
  exact ⟨q, by rw [hq, State.setPstate_eq]⟩

/-- The station of the link's port counts the entry. -/
theorem State.setPstate_counted (s : State) (h p : Nat) (o : Out) (a w : Nat) :
    ∃ q c, (((s.wr (Reg.GLB_HEAD_STATUS_PSTATE h) p).emit o).stn a w).noteHeads = { s with regs := (s.wr (Reg.GLB_HEAD_STATUS_PSTATE h) p).regs, out := o :: s.out, qos := q, cat := c } := by
  obtain ⟨q, c, hqc⟩ := ((s.wr (Reg.GLB_HEAD_STATUS_PSTATE h) p).emit o).stn_noteHeads_eq a w 1
  exact ⟨q, c, by rw [hqc, State.setPstate_eq]⟩

/-- ASPM L1 entry, by all that it needs (R62). -/
theorem State.aspmL1_eq (s : State) (h sub : Nat) : s.aspmL1 h sub =
    if (s.linkUp h && decide (s.rd (Reg.GLB_HEAD_STATUS_PSTATE h) ≤ 1) && s.aspmOn h && s.headIdle h && !s.headBusy h) = true then
      (((s.wr (Reg.GLB_HEAD_STATUS_PSTATE h) (2 + sub)).emit (.linkPower h (2 + sub))).stn (113 + h / 4) 5).noteHeads
    else s := by
  unfold State.aspmL1 State.enterL1
  cases s.aspmOn h <;> cases s.headIdle h <;> simp

/-- The conditions of an L0p request (R62). -/
theorem State.l0p_refused {s : State} {h width : Nat} (hr : s.linkUp h = false ∨ 2 ≤ s.rd (Reg.GLB_HEAD_STATUS_PSTATE h) ∨ s.rd (Reg.GLB_HEAD_STATUS_WIDTH h) < width) : s.l0p h width = s := by
  refine if_neg fun ⟨hlink, hp, hw⟩ => ?_
  rcases hr with hr | hr | hr
  · simp [hlink] at hr
  · omega
  · omega

/-- L1 entry of a link that may enter it. -/
theorem aspmL1_takesEffect {h : Head} {sub : Fin 3} {s : State} (hc : (s.linkUp h && decide (s.rd (Reg.GLB_HEAD_STATUS_PSTATE h) ≤ 1) && s.aspmOn h && s.headIdle h && !s.headBusy h) = true)
    {t : State} (e : s.aspmL1 h sub = t) : t.rd (Reg.GLB_HEAD_STATUS_PSTATE h) = 2 + sub ∧ t.out = .linkPower h (2 + sub) :: s.out ∧ t.linkUp h = true
      ∧ OnlyWords { s with out := t.out, qos := t.qos, cat := t.cat } t [0x80 + 4 * h] := by
  have hlink : s.linkUp h = true := by simp only [Bool.and_eq_true] at hc; exact hc.1.1.1.1
  obtain ⟨q, c, hqc⟩ := s.setPstate_counted h (2 + sub) (.linkPower h (2 + sub)) (113 + h / 4) 5
  have ht := e.symm.trans ((s.aspmL1_eq h sub).trans ((if_pos hc).trans hqc))
  obtain ⟨hp, hup, -, hwords⟩ := State.pstate_shown (s := s) (t := t) (h := h) (p := 2 + sub) (by omega) (by rw [ht])
  exact ⟨hp, by rw [ht], hup.trans hlink, by rw [ht], hwords⟩

/-- A link in L1 wakes. -/
theorem l1Exit_takesEffect {h : Head} {s t : State} (ha : s.asleep h) (e : s.wakeLink h = t) :
    t.rd (Reg.GLB_HEAD_STATUS_PSTATE h) = 0 ∧ t.out = .linkPower h 0 :: s.out ∧ OnlyWords { s with out := t.out, heads := t.heads } t [0x80 + 4 * h] := by
  have ht := e.symm.trans ((State.wakeLink_asleep ha).trans (State.setPstate_eq ..))
  obtain ⟨hp, -, -, hwords⟩ := State.pstate_shown (s := s.updHead h (fun x => { x with traffic := s.tick })) (t := t) (h := h) (p := 0) (by omega) (by rw [ht])
  exact ⟨hp, by rw [ht]; rfl, by rw [ht]; rfl, hwords⟩

/-- An L0p request that is granted. -/
theorem l0p_takesEffect {h : Head} {width : Fin 5} {s : State} (hlink : s.linkUp h = true) (hp : s.rd (Reg.GLB_HEAD_STATUS_PSTATE h) ≤ 1) (hw : width ≤ s.rd (Reg.GLB_HEAD_STATUS_WIDTH h))
    {t : State} (e : s.l0p h width = t) : t.rd (Reg.GLB_HEAD_STATUS_PSTATE h) = (if width = s.rd (Reg.GLB_HEAD_STATUS_WIDTH h) then 0 else 1)
      ∧ t.rd (Reg.GLB_HEAD_STATUS_WIDTH h) = s.rd (Reg.GLB_HEAD_STATUS_WIDTH h) ∧ OnlyWords { s with out := t.out, qos := t.qos } t [0x80 + 4 * h] := by
  have hlt : (if width = s.rd (Reg.GLB_HEAD_STATUS_WIDTH h) then 0 else 1) < 8 := by split <;> omega
  obtain ⟨q, hq⟩ := s.setPstate_noted h (if width = s.rd (Reg.GLB_HEAD_STATUS_WIDTH h) then 0 else 1) (.linkPower h (if width = s.rd (Reg.GLB_HEAD_STATUS_WIDTH h) then 0 else 1))
  have ht := e.symm.trans ((if_pos ⟨hlink, hp, hw⟩ : s.l0p h width = _).trans hq)
  obtain ⟨hshown, -, hwidth, hwords⟩ := State.pstate_shown (s := s) (t := t) hlt (by rw [ht])
  exact ⟨hshown, hwidth, by rw [ht], hwords⟩

/-- A link whose partner acknowledges PME_Turn_Off. -/
theorem pmeOff_takesEffect {h : Head} {s : State} (hlink : s.linkUp h = true) {t : State} (e : s.pmeOff h = t) :
    t.rd (Reg.GLB_HEAD_STATUS_PSTATE h) = 5 ∧ t.out = .linkPower h 5 :: s.out ∧ OnlyWords { s with out := t.out, qos := t.qos } t [0x80 + 4 * h] := by
  obtain ⟨q, hq⟩ := s.setPstate_noted h 5 (.linkPower h 5)
  have ht := e.symm.trans ((if_pos hlink : s.pmeOff h = _).trans hq)
  obtain ⟨hp, -, -, hwords⟩ := State.pstate_shown (s := s) (t := t) (h := h) (p := 5) (by omega) (by rw [ht])
  exact ⟨hp, by rw [ht], by rw [ht], hwords⟩

theorem linkPowerCommandsTakeEffect : LinkPowerCommandsTakeEffect := by
  refine ⟨fun h sub s hc => ⟨s.aspmL1 h sub, rfl, aspmL1_takesEffect hc rfl⟩, fun h sub s hc => ?_, fun h s hlink hlo hhi => ⟨s.wakeLink h, ?_, l1Exit_takesEffect ⟨hlo, hhi⟩ rfl⟩, fun h s hlink => ?_,
    fun h s hlink hp => ?_, fun h width s hlink hp hw => ⟨s.l0p h width, rfl, l0p_takesEffect hlink hp hw rfl⟩, fun h width s hr => congrArg Host.Outcome.next (State.l0p_refused hr),
    fun h s hlink => ⟨s.pmeOff h, rfl, pmeOff_takesEffect hlink rfl⟩, fun h s hlink => ?_⟩
  · exact congrArg Host.Outcome.next ((s.aspmL1_eq h sub).trans (if_neg (by simp [hc])))
  · exact congrArg Host.Outcome.next (if_pos hlink)
  · exact congrArg Host.Outcome.next (if_neg (by simp [hlink]))
  · have hawake : ¬ s.asleep h := fun ⟨hlo, hhi⟩ => by omega
    exact congrArg Host.Outcome.next ((if_pos hlink).trans (State.wakeLink_awake hawake))
  · exact congrArg Host.Outcome.next (if_neg (by simp [hlink]))

/-- Settles O36: the commands of a head's link, and those of its power state. -/
theorem linkCommandsTakeEffect : Obligations.LinkCommandsTakeEffect := ⟨headLinkCommandsTakeEffect, linkPowerCommandsTakeEffect⟩

end Sys2Proof.Machine
end

section
/-! CXL.mem requests at a head's port (R51 to R54, R64, R65, R81, R83, R88, R101, R387): what arrives, what is answered at the port, and what is queued. -/
namespace Sys2Proof.Machine

/-! ### Answers at the port -/

/-- A completion leaves by a link that is up and not asleep. -/
theorem State.egress_sends {s : State} {h : Nat} (t : Txn) (f : Ending) (hsend : s.canSend h = true) (ha : ¬ s.asleep h) :
    TrafficKept (s.emit (completionOf t.req h f)) (s.egress t h f) := by
  have hemit : TrafficKept (s.emit (completionOf t.req h f)) ((s.wakeLink h).emit (completionOf t.req h f)) := by
    rw [State.wakeLink_awake ha]
    exact ⟨rfl, rfl, rfl, rfl⟩
  unfold State.egress
  dsimp only
  rw [if_pos hsend]
  refine TrafficKept.trans ?_ (TrafficKept.sample ..)
  split
  · exact (hemit.trans (TrafficKept.countEnd ..)).trans (TrafficKept.accountHead ..)
  · exact hemit.trans (TrafficKept.countEnd ..)

/-- A request that ends leaves the tables, and no ingress. -/
theorem State.dropTxn_fenceSees (s : State) (id : Nat) (q : Req) : ∃ p d, (s.dropTxn id).fenceSees q = { s with path := p, dir := d } ∧ p.ingress = s.path.ingress := by
  unfold State.fenceSees
  split
  · exact ⟨_, _, rfl, rfl⟩
  · exact ⟨_, _, rfl, rfl⟩

/-- A state in which an answer has left, and memory and ingress are as they were. -/
structure PortAnswered (s t : State) (o : Out) : Prop where
  out : t.out = o :: s.out
  ingress : t.path.ingress = s.path.ingress
  media : t.media = s.media

/-- A request of a head that ends at the port is answered. -/
theorem State.endAtPort_answered {s : State} {h : Nat} {q : Req} (f : Ending) (hsrc : q.src = .head h) (hsend : s.canSend h = true) (ha : ¬ s.asleep h) :
    PortAnswered s (s.endAtPort q h f) (completionOf q h f) := by
  obtain ⟨p, d, hdrop, hin⟩ := s.dropTxn_fenceSees q.id q
  obtain ⟨hout, -, hmedia, hpath⟩ := State.egress_sends (s := { s with path := p, dir := d }) { req := q, slice := 0, kind := kindOf q false, source := if q.op = .wr then 7 else 3 } f hsend ha
  have hend : s.endAtPort q h f = State.egress { s with path := p, dir := d } { req := q, slice := 0, kind := kindOf q false, source := if q.op = .wr then 7 else 3 } h f := by
    simp only [State.endAtPort, State.finish, hsrc, hdrop, Bool.false_and, Bool.false_eq_true, ↓reduceIte]
  rw [hend]
  exact ⟨hout, by rw [hpath]; exact hin, hmedia⟩

/-- The completion of a request without an error is the answer of the port. -/
theorem completionOf_eq_portAnswer {r : MemReq} {op : ReqOp} {q : Req} (hop : q.op = op) (htag : q.tag = r.tag.toNat) {f : Ending} (herr : f.error = false) (hdata : f.data = some 0) :
    completionOf q r.head f = portAnswer r op f.poison f.mv := by
  cases op <;> simp [completionOf, portAnswer, Req.isRead, hop, htag, herr, hdata]

/-! ### What arrives -/

/-- A request as it arrives at the port, of LD i. -/
def State.arriving (s : State) (r : MemReq) (op : ReqOp) (data : BitVec 512) (be : BitVec 64) (poison : Bool) (i : Nat) : Req :=
  { id := s.path.nextId, src := .head r.head, ld := i, op := op, line := 0, tag := r.tag.toNat, snp := r.snp, mv := r.mv, data := data, be := be, poison := poison, arrival := s.tick }

/-- The state in which a request has arrived: its link is awake, and it has its number. -/
def State.arrived (s : State) (h : Nat) : State := (s.wakeLink h).newId

theorem State.arrived_eq (s : State) (h : Nat) :
    s.arrived h = { s with regs := (s.wakeLink h).regs, heads := (s.wakeLink h).heads, out := (s.wakeLink h).out, path := { s.path with nextId := s.path.nextId + 1 } } := by
  rw [State.arrived, State.newId, State.wakeLink_eq]

theorem State.word_arrived (s : State) (h off : Nat) (hh : h < 16) (ho : off < 0x80 ∨ 0xC0 ≤ off) : (s.arrived h).word off = s.word off :=
  State.word_wakeLink_other s h off (by omega)

/-- The port of a head after a request has arrived: an answer to it can leave, and nothing else has changed of what leaves, waits or is stored. -/
structure AtPort (s : State) (h : Nat) (v : State) : Prop where
  out : v.out = (s.wakeLink h).out
  ingress : v.path.ingress = s.path.ingress
  media : v.media = s.media
  send : v.canSend h = true
  awake : ¬ v.asleep h

theorem State.canSend_wakeLink (s : State) (h : Nat) (hh : h < 16) : (s.wakeLink h).canSend h = s.canSend h := by
  have hlink : (s.wakeLink h).linkUp h = s.linkUp h := by
    rw [State.linkUp, State.linkUp, State.flag, State.flag, Reg.GLB_HEAD_STATUS_LINK_UP, State.rd_wakeLink_status s h 1 1 (by decide) (by decide)]
  have hsafe : (s.wakeLink h).isSafe = s.isSafe := by
    rw [State.isSafe, State.isSafe, State.wdn, State.wdn, State.rd_congr_in _ (by decide) (State.word_wakeLink_other s h _ (by simp only [Reg.GLB_WDN_STATUS_STATE]; omega))]
  rw [State.canSend, State.canSend, hlink, hsafe]

theorem AtPort.arrived {s : State} {h : Nat} (hh : h < 16) (hlink : s.linkUp h = true) (hsafe : s.isSafe = false) : AtPort s h (s.arrived h) := by
  refine ⟨rfl, ?_, ?_, ?_, State.not_asleep_wakeLink s h⟩
  · rw [State.arrived_eq]
  · rw [State.arrived_eq]
  · show (s.wakeLink h).canSend h = true
    rw [State.canSend_wakeLink s h hh, State.canSend, hlink, hsafe]
    rfl

/-- Counters and accounts aside, the port is the same. -/
theorem AtPort.aside {s v w : State} {h : Nat} (hh : h < 16) (a : AtPort s h v) (k : Aside v w) : AtPort s h w where
  out := k.out.trans a.out
  ingress := by rw [k.path, a.ingress]
  media := k.media.trans a.media
  send := by rw [← a.send, State.canSend, State.canSend, k.linkUp h hh, k.isSafe]
  awake := by rw [State.asleep, k.pstate h hh]; exact a.awake

/-- What the port leaves when it answers a request itself: the answer after the wake of the link, and ingress and memory as they were. -/
structure Answers (s : State) (h : Nat) (o : Out) (t : State) : Prop where
  out : t.out = o :: (s.wakeLink h).out
  ingress : t.path.ingress = s.path.ingress
  media : t.media = s.media

/-- An unbacked request: its answer leaves last. -/
structure AnswersLast (s : State) (o : Out) (t : State) : Prop where
  out : t.out.head? = some o
  ingress : t.path.ingress = s.path.ingress
  media : t.media = s.media

/-- A request that ends at the port is answered, and no more. -/
theorem AtPort.answers {s v : State} {h : Nat} (a : AtPort s h v) {q : Req} (hsrc : q.src = .head h) (f : Ending) : Answers s h (completionOf q h f) (v.endAtPort q h f) := by
  obtain ⟨hout, hin, hmedia⟩ := State.endAtPort_answered f hsrc a.send a.awake
  exact ⟨by rw [hout, a.out], hin.trans a.ingress, hmedia.trans a.media⟩

/-- An unbacked request raises its event, and its answer leaves last. -/
theorem AtPort.unbacked {s v : State} {h : Nat} (hh : h < 16) (a : AtPort s h v) {q : Req} (hsrc : q.src = .head h) (arg : Nat) :
    AnswersLast s (completionOf q h { data := some 0, poison := true, unbacked := true }) (v.unbackedAtPort q h arg) := by
  have hcnt := a.aside hh (Aside.cnt v 0x0109 (.req h q.cls) 1)
  have hraise := PortKept.raise (v.cnt 0x0109 (.req h q.cls)) 0x0102 q.ld arg hh hcnt.awake
  obtain ⟨hout, hin, hmedia⟩ := State.endAtPort_answered { data := some 0, poison := true, unbacked := true } hsrc (hraise.canSend.trans hcnt.send) (hraise.awake hcnt.awake)
  refine ⟨by rw [State.unbackedAtPort, hout]; rfl, hin.trans ?_, hmedia.trans (hraise.media.trans hcnt.media)⟩
  rw [hraise.path, hcnt.ingress]

/-! ### Classification -/

/-- The sampling unit counts what it examines, and marks the request. -/
theorem State.examine_eq (s : State) (q : Req) (h : Nat) : Aside s (s.examine q h).1 ∧ ∃ b, (s.examine q h).2 = { q with sampled := b } := by
  unfold State.examine
  dsimp only
  split
  · exact ⟨⟨rfl, fun _ _ => rfl, fun _ => rfl⟩, _, rfl⟩
  · exact ⟨Aside.refl s, q.sampled, rfl⟩

/-- A request as it is classed. -/
def State.classed (s : State) (q : Req) (h : Nat) (x : Decoded) (sampled : Bool) : Req :=
  { q with
    cls := s.classOf h (s.labelOf h x).1, tier := s.tierOf (s.classOf h (s.labelOf h x).1), bucket := (s.labelOf h x).2,
    deadline := s.deadlineOf (s.classOf h (s.labelOf h x).1) (s.labelOf h x).2, sampled := sampled }

theorem State.classify_eq (s : State) (q : Req) (h : Nat) (x : Decoded) : Aside s (s.classify q h x).1 ∧ ∃ b, (s.classify q h x).2 = s.classed q h x b := by
  have hexam (v : State) (r : Req) (hv : Aside s v) : Aside s (v.examine r h).1 ∧ ∃ b, (v.examine r h).2 = { r with sampled := b } := by
    obtain ⟨ha, hb⟩ := v.examine_eq r h
    exact ⟨hv.trans ha, hb⟩
  unfold State.classify
  dsimp only
  refine hexam _ _ ?_
  split
  · exact Aside.cnt ..
  · split
    · exact Aside.cnt ..
    · split
      · exact Aside.cnt ..
      · exact Aside.refl s

end Sys2Proof.Machine
end

section
/-! A request's class, tier and deadline, and the port's answer by the LD's state and what the request decodes to (Tables 2.9, 2.10 and 3.1). -/
namespace Sys2Proof.Machine

/-! ### Class, tier and deadline do not depend on a head's status word -/

section Elsewhere
variable {s t : State} (hw : ∀ off, off < 0x80 ∨ 0xC0 ≤ off → t.word off = s.word off) (hqos : t.qos = s.qos) (htick : t.tick = s.tick)

include hw

/-- A field outside the heads' status words. -/
theorem State.rd_elsewhere (off lo w : Nat) (hin : lo % 32 + w ≤ 32) (ho : off + 4 * (lo / 32) < 0x80 ∨ 0xC0 ≤ off + 4 * (lo / 32)) : t.rd ⟨off, lo, w⟩ = s.rd ⟨off, lo, w⟩ :=
  State.rd_congr_in _ hin (hw _ ho)

theorem State.classOf_elsewhere (h label : Nat) : t.classOf h label = s.classOf h label := by
  have hlabel (l : Nat) : t.labelClass h l = s.labelClass h l := by
    simp only [State.labelClass, hw (0x200200 + 0x20 * h + 4 * (l / 4)) (by omega)]
  have hdefault : t.rd (Reg.QOS_HEAD_CTL_DEFAULT_LABEL h) = s.rd (Reg.QOS_HEAD_CTL_DEFAULT_LABEL h) := State.rd_elsewhere hw _ 0 4 (by decide) (by omega)
  have hvalid (c : Nat) : t.flag (Reg.QOS_CLASS_CTL_VALID c) = s.flag (Reg.QOS_CLASS_CTL_VALID c) := by
    rw [State.flag, State.flag, Reg.QOS_CLASS_CTL_VALID, State.rd_elsewhere hw _ 0 1 (by decide) (by omega)]
  unfold State.classOf
  rw [hdefault, hlabel, hlabel]
  dsimp only
  split
  · rw [hvalid]
  · rfl

theorem State.labelOf_elsewhere (h : Nat) (x : Decoded) : t.labelOf h x = s.labelOf h x := by
  cases x <;> simp (disch := omega) only [State.labelOf, Reg.QOS_HEAD_CTL_DEFAULT_LABEL, State.rd_elsewhere hw]

theorem State.rootN_elsewhere : t.rootN = s.rootN := by
  simp (disch := omega) only [State.rootN, Reg.GLB_CLK_STATUS_ROOT_MULT_ACTIVE, State.rd_elsewhere hw]

include htick

theorem State.deadlineOf_elsewhere (cls : Option Nat) (bucket : Nat) : t.deadlineOf cls bucket = s.deadlineOf cls bucket := by
  unfold State.deadlineOf
  split <;> simp (disch := omega) only [htick, Reg.QOS_CLASS_DL1_DL, Reg.QOS_CLASS_DL2_DL, Reg.QOS_CLASS_DL3_DL, State.rd_elsewhere hw]

include hqos

theorem State.tierOf_elsewhere (cls : Option Nat) : t.tierOf cls = s.tierOf cls := by
  cases cls with
  | none => rfl
  | some c =>
    have hroot := State.rootN_elsewhere hw
    have helapsed : t.elapsed = s.elapsed := by simp only [State.elapsed, hroot, htick]
    have hacct : t.acct c = s.acct c := by rw [State.acct, State.acct, hqos]
    have hfloor : t.rd (Reg.QOS_CLASS_FLOOR_FLOOR c) = s.rd (Reg.QOS_CLASS_FLOOR_FLOOR c) := State.rd_elsewhere hw _ 0 20 (by decide) (by omega)
    have hbudget : t.rd (Reg.QOS_CLASS_BUDGET_BUDGET c) = s.rd (Reg.QOS_CLASS_BUDGET_BUDGET c) := State.rd_elsewhere hw _ 0 20 (by decide) (by omega)
    have hg : t.rd Reg.QOS_G_G = s.rd Reg.QOS_G_G := State.rd_elsewhere hw _ 0 21 (by decide) (by decide)
    have hscale : t.rd Reg.QOS_BE_SCALE_SCALE = s.rd Reg.QOS_BE_SCALE_SCALE := State.rd_elsewhere hw _ 0 8 (by decide) (by decide)
    have hshed : t.flag (Reg.QOS_CLASS_CTL_SHED c) = s.flag (Reg.QOS_CLASS_CTL_SHED c) := by
      rw [State.flag, State.flag, Reg.QOS_CLASS_CTL_SHED, State.rd_elsewhere hw _ 16 1 (by decide) (by omega)]
    have hbase : t.rd (Reg.QOS_CLASS_CTL_BASE_TIER c) = s.rd (Reg.QOS_CLASS_CTL_BASE_TIER c) := State.rd_elsewhere hw _ 1 2 (by decide) (by omega)
    have hbelow : t.belowFloor c = s.belowFloor c := by rw [State.belowFloor, State.belowFloor, hacct, hroot, helapsed, hfloor]
    have heff : t.effBudget c = s.effBudget c := by
      unfold State.effBudget
      rw [hfloor, hbudget, hg, hscale]
    have hover : t.overBudget c = s.overBudget c := by rw [State.overBudget, State.overBudget, heff, hacct, hroot, helapsed, hfloor, hbudget]
    unfold State.tierOf
    dsimp only
    rw [hfloor, hshed, hbelow, hbase, hover]

/-- A request is classed as it was before its link woke. -/
theorem State.classed_elsewhere (q : Req) (h : Nat) (x : Decoded) (b : Bool) : t.classed q h x b = s.classed q h x b := by
  simp only [State.classed, State.labelOf_elsewhere hw, State.classOf_elsewhere hw, State.tierOf_elsewhere hw hqos htick, State.deadlineOf_elsewhere hw htick]

end Elsewhere

theorem State.classed_arrived (s : State) {h : Nat} (hh : h < 16) (q : Req) (k : Nat) (x : Decoded) (b : Bool) : (s.arrived h).classed q k x b = s.classed q k x b :=
  State.classed_elsewhere (s.word_arrived h · hh ·) (by rw [State.arrived_eq]) (by rw [State.arrived_eq]) q k x b

/-! ### The arrival of a request -/

theorem State.wakeLink_path (s : State) (h : Nat) : (s.wakeLink h).path = s.path := by rw [State.wakeLink_eq]

theorem State.wakeLink_tick (s : State) (h : Nat) : (s.wakeLink h).tick = s.tick := by rw [State.wakeLink_eq]

theorem State.wakeLink_lds (s : State) (h : Nat) : (s.wakeLink h).lds = s.lds := by rw [State.wakeLink_eq]

/-- Neither the wake of its link nor its number changes which LD a request is of. -/
theorem State.ldOfReq_arrived (s : State) (h k : Nat) (id : Nat) : (s.wakeLink h).newId.ldOfReq k id = s.ldOfReq k id := by
  have hlds : (s.wakeLink h).newId.lds = s.lds := State.wakeLink_lds s h
  have hmgmt : (s.wakeLink h).newId.mgmt = s.mgmt := by rw [State.newId, State.wakeLink_eq]
  simp only [State.ldOfReq, State.ldsOf, State.isMld, State.ld?, hlds, hmgmt]

theorem State.ld?_arrived (s : State) (h i : Nat) : (s.wakeLink h).newId.ld? i = s.ld? i := State.ld?_congr (State.wakeLink_lds s h) i

section Arrival
variable {s : State} {r : MemReq} {op : ReqOp} {data : BitVec 512} {be : BitVec 64} {poison : Bool}

/-- A request that the port does not take has no effect (R64, R88, R387). -/
theorem State.memArrive_refused (h : s.linkUp r.head = false ∨ s.flag (Reg.GLB_HEAD_STATUS_MEM_OK r.head) = false ∨ s.isSafe = true ∨ s.hasCredit r.head (op == .wr) = false) :
    s.memArrive r op data be poison = s := by
  have hcond : (s.memUp r.head && s.hasCredit r.head (op == .wr)) = false := by
    rcases h with h | h | h | h <;> simp [State.memUp, h]
  exact if_neg (by rw [hcond]; decide)

variable (ht : s.portTakes r.head op)
include ht

theorem State.takes_cond : (s.memUp r.head && s.hasCredit r.head (op == .wr)) = true := by
  obtain ⟨hlink, hmem, hsafe, hcredit⟩ := ht
  simp [State.memUp, hlink, hmem, hsafe, hcredit]

theorem AtPort.taken : AtPort s r.head (s.arrived r.head) := AtPort.arrived r.head.isLt ht.1 ht.2.2.1

/-! ### What the port makes of a request -/

/-- A request that has arrived and is classed, with the state that counts it. -/
def State.classedAt (s : State) (r : MemReq) (op : ReqOp) (data : BitVec 512) (be : BitVec 64) (poison : Bool) (i : Nat) (x : Decoded) : State × Req :=
  (s.arrived r.head).classify (s.arriving r op data be poison i) r.head x

/-- A request of an LD-ID that its head does not have is unbacked. -/
theorem State.memArrive_noLd (hn : s.ldOfReq r.head r.ldId = none) : s.memArrive r op data be poison =
    ((s.classedAt r op data be poison 64 .miss).1.cnt 0x0109 (.req r.head (s.classedAt r op data be poison 64 .miss).2.cls)).endAtPort (s.classedAt r op data be poison 64 .miss).2 r.head
      { data := some 0, poison := true, unbacked := true } := by
  unfold State.memArrive
  dsimp only
  rw [if_pos (State.takes_cond ht), State.ldOfReq_arrived, hn, State.wakeLink_path, State.wakeLink_tick]
  rfl

/-- A write of the doorbell line is a fence. -/
theorem State.memArrive_rings {i : Nat} {d : Ld} (hi : s.ldOfReq r.head r.ldId = some i) (hd : s.ld? i = some d) (hr : d.rings r.hpa op = true) :
    s.memArrive r op data be poison = (s.arrived r.head).ring r.head i r.tag.toNat := by
  unfold State.memArrive
  dsimp only
  rw [if_pos (State.takes_cond ht), State.ldOfReq_arrived, hi]
  dsimp only
  rw [State.ld?_arrived, hd]
  dsimp only
  rw [if_pos hr]
  rfl

/-- Any other request of an LD is served as its state has it. -/
theorem State.memArrive_serves {i : Nat} {d : Ld} (hi : s.ldOfReq r.head r.ldId = some i) (hd : s.ld? i = some d) (hr : d.rings r.hpa op = false) :
    s.memArrive r op data be poison = (s.classedAt r op data be poison i (d.decodes r.hpa)).1.portServe d (s.classedAt r op data be poison i (d.decodes r.hpa)).2 r.head r.hpa := by
  unfold State.memArrive
  dsimp only
  rw [if_pos (State.takes_cond ht), State.ldOfReq_arrived, hi]
  dsimp only
  rw [State.ld?_arrived, hd]
  dsimp only
  rw [hr, if_neg (by decide), State.wakeLink_path, State.wakeLink_tick]
  rfl

/-- The state in which a request is classed is the port's, with the map and the directory as they were. -/
theorem State.classedAt_spec (i : Nat) (x : Decoded) : AtPort s r.head (s.classedAt r op data be poison i x).1
    ∧ (∃ b, (s.classedAt r op data be poison i x).2 = s.classed (s.arriving r op data be poison i) r.head x b)
    ∧ (s.classedAt r op data be poison i x).1.boot = s.boot ∧ (s.classedAt r op data be poison i x).1.dir = s.dir := by
  obtain ⟨haside, b, hb⟩ := (s.arrived r.head).classify_eq (s.arriving r op data be poison i) r.head x
  refine ⟨(AtPort.taken ht).aside r.head.isLt haside, ⟨b, hb.trans (State.classed_arrived s r.head.isLt ..)⟩, haside.boot.trans ?_, haside.dir.trans ?_⟩
  · rw [State.arrived_eq]
  · rw [State.arrived_eq]

end Arrival

/-- The device address of a request follows from the map and the exchanges. -/
theorem State.reqDpa_congr {s t : State} (hboot : t.boot = s.boot) (hdir : t.dir = s.dir) (d : Ld) (h a : Nat) (op : ReqOp) : t.reqDpa d h a op = s.reqDpa d h a op := by
  unfold State.reqDpa State.portDpa State.exchFor
  rw [hboot, hdir]

theorem Ld.decodes_of_welcome {d : Ld} (hw : d.welcome ≠ .miss) (hpa : Nat) : d.decodes hpa = d.decode hpa := if_neg hw

section Serve
variable {v : State} {d : Ld} {q : Req} {h hpa : Nat}

theorem State.portServe_error (hw : d.welcome = .error) : v.portServe d q h hpa = v.endAtPort q h { error := true } := by
  simp only [State.portServe, hw]

/-- An LD that decodes no memory has no decoder to hit. -/
theorem State.portServe_idle (hw : d.welcome = .miss) : v.portServe d q h hpa = v.unbackedAtPort q h (hpa % 2 ^ 52 + 2 ^ 63) := by
  simp only [State.portServe, hw, Ld.decodes, ↓reduceIte]

section Serves
variable (hw : d.welcome = .serve)
include hw

theorem State.portServe_miss (hx : d.decode hpa = .miss) : v.portServe d q h hpa = v.unbackedAtPort q h (hpa % 2 ^ 52 + 2 ^ 63) := by
  simp only [State.portServe, Ld.decodes_of_welcome (by rw [hw]; decide), hw, hx]

/-- Requests of the hole, and reads of the doorbell line, complete with zeros. -/
theorem State.portServe_zeros {l b : Nat} (hx : d.decode hpa = .hole l b ∨ d.decode hpa = .bell l b) : v.portServe d q h hpa = v.endAtPort q h { data := some 0, mv := q.mv } := by
  rcases hx with hx | hx <;> simp only [State.portServe, Ld.decodes_of_welcome (by rw [hw]; decide), hw, hx]

theorem State.portServe_uncovered {a l b : Nat} {al : Bool} (hx : d.decode hpa = .dpa a l b al) (hm : v.boot.memActive = false ∨ v.reqDpa d h a q.op = none) :
    v.portServe d q h hpa = v.unbackedAtPort q h (a % 2 ^ 52) := by
  have hnone : (if v.boot.memActive = true then v.reqDpa d h a q.op else none) = none := by
    rcases hm with hm | hm
    · rw [hm]; rfl
    · rw [hm]; exact ite_self none
  simp only [State.portServe, Ld.decodes_of_welcome (by rw [hw]; decide), hw, hx, hnone]

theorem State.portServe_covered {a l b x : Nat} {al : Bool} (hx : d.decode hpa = .dpa a l b al) (hm : v.boot.memActive = true) (hdpa : v.reqDpa d h a q.op = some x) :
    v.portServe d q h hpa = v.enqueue { q with line := x / 64, ldDpa := a } := by
  simp only [State.portServe, Ld.decodes_of_welcome (by rw [hw]; decide), hw, hx, hm, ↓reduceIte, hdpa]

end Serves

section Drains
variable (hw : d.welcome = .drain)
include hw

/-- A draining LD takes ClnEvct and snoop data. -/
theorem State.portServe_drainTakes {a l b x : Nat} {al : Bool} (hx : d.decode hpa = .dpa a l b al) (hdpa : v.reqDpa d h a q.op = some x)
    (hop : q.op = .evict ∨ q.op = .wr ∧ (v.exchFor h (x / 64)).isSome = true) : v.portServe d q h hpa = v.enqueue { q with line := x / 64, ldDpa := a } := by
  simp only [State.portServe, Ld.decodes_of_welcome (by rw [hw]; decide), hw, hx, hdpa, hop, ↓reduceIte]

/-- It completes any other request with error. -/
theorem State.portServe_drainRefuses (hno : ∀ a l b al x, d.decode hpa = .dpa a l b al → v.reqDpa d h a q.op = some x → ¬ (q.op = .evict ∨ q.op = .wr ∧ (v.exchFor h (x / 64)).isSome = true)) :
    ∃ q' : Req, v.portServe d q h hpa = v.endAtPort q' h { error := true } ∧ q'.src = q.src ∧ q'.tag = q.tag := by
  cases hx : d.decode hpa with
  | dpa a l b al =>
    cases hdpa : v.reqDpa d h a q.op with
    | none => exact ⟨q, by simp only [State.portServe, Ld.decodes_of_welcome (by rw [hw]; decide), hw, hx, hdpa], rfl, rfl⟩
    | some x =>
      refine ⟨{ q with line := x / 64, ldDpa := a }, ?_, rfl, rfl⟩
      simp only [State.portServe, Ld.decodes_of_welcome (by rw [hw]; decide), hw, hx, hdpa]
      exact if_neg (hno a l b al x hx hdpa)
  | miss => exact ⟨q, by simp only [State.portServe, Ld.decodes_of_welcome (by rw [hw]; decide), hw, hx], rfl, rfl⟩
  | bell l b => exact ⟨q, by simp only [State.portServe, Ld.decodes_of_welcome (by rw [hw]; decide), hw, hx], rfl, rfl⟩
  | hole l b => exact ⟨q, by simp only [State.portServe, Ld.decodes_of_welcome (by rw [hw]; decide), hw, hx], rfl, rfl⟩

end Drains
end Serve

end Sys2Proof.Machine
end

section
/-! The clauses of a CXL.mem request at the port, and the obligation. -/
namespace Sys2Proof.Machine

/-- What the port leaves when it queues a request. -/
structure Queues (s : State) (h : Nat) (q : Req) (t : State) : Prop where
  out : t.out = (s.wakeLink h).out
  media : t.media = s.media
  ingress : t.path.ingress = s.path.ingress ++ [q]

theorem AtPort.queues {s v : State} {h : Nat} (a : AtPort s h v) (q : Req) : Queues s h q (v.enqueue q) :=
  ⟨a.out, a.media, congrArg (· ++ [q]) a.ingress⟩

/-- Without a label of its own a request has bucket 0 (R267). -/
theorem Ld.bucket_of_unlabelled {d : Ld} {hpa a l b : Nat} (hx : d.decode hpa = .dpa a l b false) : b = 0 := by
  unfold Ld.decode at hx
  split at hx
  · cases hx
  · dsimp only at hx
    split at hx
    · cases hx
      rfl
    · split at hx
      · split at hx <;> cases hx
      · cases hx

/-- The label and bucket of a request that decodes to memory (R51, R267). -/
theorem State.labelOf_dpa (s : State) {d : Ld} {h hpa a l b : Nat} {al : Bool} (hx : d.decode hpa = .dpa a l b al) :
    s.labelOf h (.dpa a l b al) = (if al then l else s.rd (Reg.QOS_HEAD_CTL_DEFAULT_LABEL h), b) := by
  cases al with
  | true => rfl
  | false => rw [Ld.bucket_of_unlabelled hx]; rfl

/-- A classed request that decodes to memory is the one that joins the queue. -/
theorem State.classed_queued (s : State) {r : MemReq} {d : Ld} {a l b : Nat} {al : Bool} (hx : d.decode r.hpa = .dpa a l b al) (op : ReqOp) (data : BitVec 512) (be : BitVec 64) (poison : Bool)
    (i line : Nat) (sampled : Bool) : { s.classed (s.arriving r op data be poison i) r.head (.dpa a l b al) sampled with line := line, ldDpa := a }
      = s.queued r op data be poison i line a (if al then l else s.rd (Reg.QOS_HEAD_CTL_DEFAULT_LABEL r.head)) b sampled := by
  rw [State.classed, State.labelOf_dpa s hx, State.queued, State.arriving]

/-! ### The fence of a doorbell write -/

/-- A fence joins those of its head, and the faults of lost writes are told with it. -/
theorem State.ring_eq (s : State) (h ld tag : Nat) : ∃ regs, s.ring h ld tag = { s with
    regs := regs, heads := Tbl.upd s.heads {} h (fun x => { x with lostWrite := false }),
    path := { s.path with fences := s.path.fences ++ [{ head := h, ld := ld, tag := tag, mark := s.path.nextId, waits := s.openWrites h, fault := (s.hd h).lostWrite }] } } := by
  unfold State.ring State.showFences
  dsimp only
  rw [State.wr_eq_withRegs]
  exact ⟨_, rfl⟩

theorem State.wakeLink_heads (s : State) (h : Nat) : (s.wakeLink h).heads = Tbl.upd s.heads {} h (fun x => { x with traffic := s.tick }) := by
  by_cases ha : s.asleep h
  · rw [State.wakeLink_asleep ha, State.emit, State.wr_heads, State.updHead]
  · rw [State.wakeLink_awake ha, State.updHead]

theorem State.arrived_lostWrite (s : State) (h : Nat) : ((s.arrived h).hd h).lostWrite = (s.hd h).lostWrite := by
  have hheads : (s.arrived h).heads = Tbl.upd s.heads {} h (fun x => { x with traffic := s.tick }) := by rw [State.arrived_eq, State.wakeLink_heads]
  rw [State.hd, hheads, Tbl.upd, Tbl.lookD_putD_same]
  rfl

theorem State.arrived_openWrites (s : State) (h k : Nat) : (s.arrived h).openWrites k = s.openWrites k := by
  have hpath : (s.arrived h).path = { s.path with nextId := s.path.nextId + 1 } := by rw [State.arrived_eq]
  have hdir : (s.arrived h).dir = s.dir := by rw [State.arrived_eq]
  simp only [State.openWrites, hpath, hdir]

section Clauses
variable {s : State} {r : MemReq} {op : ReqOp} {data : BitVec 512} {be : BitVec 64} {poison : Bool} (ht : s.portTakes r.head op)
include ht

theorem State.memArrive_answersNoLd (hn : s.ldOfReq r.head r.ldId = none) : Answers s r.head (portAnswer r op true .noOp) (s.memArrive r op data be poison) := by
  obtain ⟨hport, ⟨b, hq⟩, -, -⟩ := State.classedAt_spec (data := data) (be := be) (poison := poison) ht 64 .miss
  rw [State.memArrive_noLd ht hn, hq]
  have hanswer := (hport.aside r.head.isLt (Aside.cnt _ 0x0109 (.req r.head (s.classed (s.arriving r op data be poison 64) r.head .miss b).cls) 1)).answers
    (q := s.classed (s.arriving r op data be poison 64) r.head .miss b) rfl { data := some 0, poison := true, unbacked := true }
  rwa [completionOf_eq_portAnswer (op := op) rfl rfl rfl rfl] at hanswer

variable {i : Nat} {d : Ld} (hi : s.ldOfReq r.head r.ldId = some i) (hd : s.ld? i = some d)
include hi hd

/-- A request that is not a fence is served as classed. -/
theorem State.memArrive_classed (hr : d.rings r.hpa op = false) : ∃ v b, AtPort s r.head v ∧ v.boot = s.boot ∧ v.dir = s.dir
    ∧ s.memArrive r op data be poison = v.portServe d (s.classed (s.arriving r op data be poison i) r.head (d.decodes r.hpa) b) r.head r.hpa := by
  obtain ⟨hport, ⟨b, hq⟩, hboot, hdir⟩ := State.classedAt_spec (data := data) (be := be) (poison := poison) ht i (d.decodes r.hpa)
  exact ⟨_, b, hport, hboot, hdir, by rw [State.memArrive_serves ht hi hd hr, hq]⟩

theorem State.memArrive_error (hw : d.welcome = .error) : Answers s r.head (.memErr r.head r.tag.toNat) (s.memArrive r op data be poison) := by
  obtain ⟨v, b, hport, -, -, heq⟩ := State.memArrive_classed (data := data) (be := be) (poison := poison) ht hi hd (by simp [Ld.rings, hw])
  rw [heq, State.portServe_error hw]
  exact hport.answers (q := s.classed (s.arriving r op data be poison i) r.head (d.decodes r.hpa) b) rfl { error := true }

theorem State.memArrive_unbacked (hm : d.welcome = .miss ∨ d.welcome = .serve ∧ (d.decode r.hpa = .miss ∨ ∃ a l b al, d.decode r.hpa = .dpa a l b al
    ∧ (s.boot.memActive = false ∨ s.reqDpa d r.head a op = none))) : AnswersLast s (portAnswer r op true .noOp) (s.memArrive r op data be poison) := by
  have hr : d.rings r.hpa op = false := by
    rcases hm with hm | ⟨-, hm | ⟨a, l, b, al, hm, -⟩⟩ <;> simp [Ld.rings, hm]
  obtain ⟨v, sm, hport, hboot, hdir, heq⟩ := State.memArrive_classed (data := data) (be := be) (poison := poison) ht hi hd hr
  obtain ⟨arg, harg⟩ : ∃ arg, s.memArrive r op data be poison = v.unbackedAtPort (s.classed (s.arriving r op data be poison i) r.head (d.decodes r.hpa) sm) r.head arg := by
    rw [heq]
    rcases hm with hm | ⟨hw, hm | ⟨a, l, b, al, hx, hm⟩⟩
    · exact ⟨_, State.portServe_idle hm⟩
    · exact ⟨_, State.portServe_miss hw hm⟩
    · exact ⟨_, State.portServe_uncovered hw hx (by rw [hboot, State.reqDpa_congr hboot hdir]; exact hm)⟩
  obtain ⟨hout, hin, hmedia⟩ := hport.unbacked r.head.isLt (q := s.classed (s.arriving r op data be poison i) r.head (d.decodes r.hpa) sm) rfl arg
  rw [harg]
  rw [completionOf_eq_portAnswer (op := op) rfl rfl rfl rfl] at hout
  exact ⟨hout, hin, hmedia⟩

theorem State.memArrive_zeros (hw : d.welcome = .serve) {l b : Nat} (hx : d.decode r.hpa = .hole l b ∨ d.decode r.hpa = .bell l b ∧ op ≠ .wr) :
    Answers s r.head (portAnswer r op false r.mv) (s.memArrive r op data be poison) := by
  have hr : d.rings r.hpa op = false := by
    rcases hx with hx | ⟨hx, hop⟩
    · simp [Ld.rings, hx]
    · simp [Ld.rings, hop]
  obtain ⟨v, sm, hport, -, -, heq⟩ := State.memArrive_classed (data := data) (be := be) (poison := poison) ht hi hd hr
  rw [heq, State.portServe_zeros hw (hx.imp_right And.left)]
  have hanswer := hport.answers (q := s.classed (s.arriving r op data be poison i) r.head (d.decodes r.hpa) sm) rfl { data := some 0, mv := r.mv }
  rwa [completionOf_eq_portAnswer (op := op) rfl rfl rfl rfl] at hanswer

theorem State.memArrive_queues (hw : d.welcome = .serve) {a l b x : Nat} {al : Bool} (hx : d.decode r.hpa = .dpa a l b al) (hm : s.boot.memActive = true) (hdpa : s.reqDpa d r.head a op = some x) :
    ∃ sampled, Queues s r.head (s.queued r op data be poison i (x / 64) a (if al then l else s.rd (Reg.QOS_HEAD_CTL_DEFAULT_LABEL r.head)) b sampled) (s.memArrive r op data be poison) := by
  obtain ⟨v, sm, hport, hboot, hdir, heq⟩ := State.memArrive_classed (data := data) (be := be) (poison := poison) ht hi hd (by simp [Ld.rings, hx])
  have hdec : d.decodes r.hpa = .dpa a l b al := (Ld.decodes_of_welcome (by rw [hw]; decide) _).trans hx
  refine ⟨sm, ?_⟩
  rw [heq, State.portServe_covered hw hx (by rw [hboot, hm]) ((State.reqDpa_congr hboot hdir ..).trans hdpa), ← State.classed_queued s hx, ← hdec]
  exact hport.queues _

theorem State.memArrive_drainTakes (hw : d.welcome = .drain) {a l b x : Nat} {al : Bool} (hop : op = .evict ∨ op = .wr ∧ (s.exchFor r.head (x / 64)).isSome = true)
    (hx : d.decode r.hpa = .dpa a l b al) (hdpa : s.reqDpa d r.head a op = some x) :
    ∃ sampled, Queues s r.head (s.queued r op data be poison i (x / 64) a (if al then l else s.rd (Reg.QOS_HEAD_CTL_DEFAULT_LABEL r.head)) b sampled) (s.memArrive r op data be poison) := by
  obtain ⟨v, sm, hport, hboot, hdir, heq⟩ := State.memArrive_classed (data := data) (be := be) (poison := poison) ht hi hd (by simp [Ld.rings, hw])
  have hdec : d.decodes r.hpa = .dpa a l b al := (Ld.decodes_of_welcome (by rw [hw]; decide) _).trans hx
  have hexch : v.exchFor r.head (x / 64) = s.exchFor r.head (x / 64) := by rw [State.exchFor, State.exchFor, hdir]
  refine ⟨sm, ?_⟩
  rw [heq, State.portServe_drainTakes hw hx ((State.reqDpa_congr hboot hdir ..).trans hdpa) (by rw [hexch]; exact hop), ← State.classed_queued s hx, ← hdec]
  exact hport.queues _

theorem State.memArrive_drainRefuses (hw : d.welcome = .drain)
    (hno : ∀ a l b al x, d.decode r.hpa = .dpa a l b al → s.reqDpa d r.head a op = some x → op ≠ .evict ∧ ¬ (op = .wr ∧ (s.exchFor r.head (x / 64)).isSome = true)) :
    Answers s r.head (.memErr r.head r.tag.toNat) (s.memArrive r op data be poison) := by
  obtain ⟨v, sm, hport, hboot, hdir, heq⟩ := State.memArrive_classed (data := data) (be := be) (poison := poison) ht hi hd (by simp [Ld.rings, hw])
  obtain ⟨q, hq, hsrc, htag⟩ := State.portServe_drainRefuses (v := v) (q := s.classed (s.arriving r op data be poison i) r.head (d.decodes r.hpa) sm) (h := r.head) (hpa := r.hpa) hw
    (fun a l b al x hx hdpa => by
      obtain ⟨hevict, hsnoop⟩ := hno a l b al x hx ((State.reqDpa_congr hboot hdir ..).symm.trans hdpa)
      rw [State.exchFor, hdir]
      exact not_or.2 ⟨hevict, hsnoop⟩)
  rw [heq, hq]
  have hanswer := hport.answers (q := q) hsrc { error := true }
  rwa [show completionOf q r.head { error := true } = .memErr r.head r.tag.toNat from congrArg (Out.memErr r.head) htag] at hanswer

/-- A write of the doorbell line: a fence over the head's earlier writes, and the faults of those it has lost (R81, R93). -/
theorem State.memArrive_fences (hw : d.welcome = .serve) {l b : Nat} (hx : d.decode r.hpa = .bell l b) (hop : op = .wr) {t : State} (e : s.memArrive r op data be poison = t) :
    t.out = (s.wakeLink r.head).out ∧ t.path.ingress = s.path.ingress ∧ t.media = s.media
      ∧ t.path.fences = s.path.fences ++ [{ head := r.head, ld := i, tag := r.tag.toNat, mark := s.path.nextId + 1, waits := s.openWrites r.head, fault := (s.hd r.head).lostWrite }]
      ∧ (t.hd r.head).lostWrite = false := by
  have hr : d.rings r.hpa op = true := by simp [Ld.rings, hw, hop, hx]
  obtain ⟨regs, hring⟩ := (s.arrived r.head).ring_eq r.head i r.tag.toNat
  rw [State.arrived_lostWrite, State.arrived_openWrites] at hring
  have ht : t = _ := e.symm.trans ((State.memArrive_rings ht hi hd hr).trans hring)
  have hpath : (s.arrived r.head).path = { s.path with nextId := s.path.nextId + 1 } := by rw [State.arrived_eq]
  have hout : (s.arrived r.head).out = (s.wakeLink r.head).out := rfl
  refine ⟨(congrArg State.out ht).trans hout, ?_, ?_, ?_, ?_⟩
  · rw [ht, hpath]
  · rw [ht, State.arrived_eq]
  · rw [ht, hpath]
  · rw [ht, State.hd, Tbl.upd, Tbl.lookD_putD_same]

end Clauses

/-! ### The hint -/

theorem State.sample_lds (s : State) (t : Txn) (h : Nat) (f : Ending) : (s.sample t h f).lds = s.lds := by
  have hrec (s : State) (e rec : Nat) : (s.putRecord e rec).lds = s.lds := by
    unfold State.putRecord
    generalize List.range 8 = l
    induction l generalizing s with
    | nil => rfl
    | cons w l ih => exact ih _
  unfold State.sample
  split
  · dsimp only
    split <;> simp [State.setFlag, State.inc, hrec]
  · rfl

/-- A MemSpecRd wakes the link and is counted; nothing else changes (R101, R367). -/
theorem State.hint_taken {s : State} {r : MemReq} (ht : s.portTakes r.head .rd) : (s.hint r).out = (s.wakeLink r.head).out ∧ (s.hint r).path = s.path ∧ (s.hint r).dir = s.dir
    ∧ (s.hint r).media = s.media ∧ (s.hint r).lds = s.lds := by
  have hcond : (s.memUp r.head && s.hasCredit r.head false) = true := State.takes_cond ht
  obtain ⟨q, x, t, hhint⟩ : ∃ q x t, s.hint r = ((s.wakeLink r.head).classify q r.head x).1.sample t r.head {} := by
    unfold State.hint
    dsimp only
    rw [if_pos hcond]
    exact ⟨_, _, _, rfl⟩
  obtain ⟨haside, -⟩ := (s.wakeLink r.head).classify_eq q r.head x
  obtain ⟨hout, hdir, hmedia, hpath⟩ := haside.trafficKept.trans (TrafficKept.sample _ t r.head {})
  rw [hhint]
  refine ⟨hout, ?_, ?_, ?_, ?_⟩
  · rw [hpath, State.wakeLink_path]
  · rw [hdir, State.wakeLink_eq]
  · rw [hmedia, State.wakeLink_eq]
  · rw [State.sample_lds, haside.eq, State.wakeLink_lds]

theorem State.hint_refused {s : State} {r : MemReq} (ht : ¬ s.portTakes r.head .rd) : s.hint r = s := by
  refine if_neg fun hcond => ht ?_
  simp only [State.memUp, Bool.and_eq_true, Bool.not_eq_true'] at hcond
  obtain ⟨⟨⟨hlink, hmem⟩, hsafe⟩, hcredit⟩ := hcond
  exact ⟨hlink, hmem, hsafe, hcredit⟩

/-! ### The obligation -/

/-- The request that a CXL.mem command carries arrives. -/
theorem exec_of_memOf {c : Instr} {r : MemReq} {op : ReqOp} {data : BitVec 512} {be : BitVec 64} {poison : Bool} (h : memOf c = some (r, op, data, be, poison)) (s : State) :
    exec c s = .next (s.memArrive r op data be poison) := by
  unfold memOf at h
  split at h <;> cases h <;> rfl

/-- Settles O39: the hint, then each request by its LD, the LD's state and what it decodes to. -/
theorem memRequestsAtThePort : Obligations.MemRequestsAtThePort := by
  refine ⟨fun r s => ⟨s.hint r, rfl, ?_⟩, fun c r op data be poison s hc => ?_⟩
  · by_cases ht : s.portTakes r.head .rd
    · obtain ⟨hout, hpath, hdir, hmedia, hlds⟩ := State.hint_taken ht
      exact ⟨by rw [if_pos ht, hout], hpath, hdir, hmedia, hlds, fun hn => absurd ht hn⟩
    · have hsame := State.hint_refused ht
      exact ⟨by rw [if_neg ht, hsame], by rw [hsame], by rw [hsame], by rw [hsame], by rw [hsame], fun _ => hsame⟩
  · rw [exec_of_memOf hc]
    have answers {o : Out} (a : Answers s r.head o (s.memArrive r op data be poison)) : ∃ t, (.next (s.memArrive r op data be poison) : Host.Outcome State Fault Refusal) = .next t
        ∧ t.out = o :: (s.wakeLink r.head).out ∧ t.path.ingress = s.path.ingress ∧ t.media = s.media := ⟨_, rfl, a.out, a.ingress, a.media⟩
    refine ⟨fun h => congrArg Host.Outcome.next (State.memArrive_refused h), fun ht hn => answers (State.memArrive_answersNoLd ht hn), fun i d ht hi hd => ?_⟩
    refine ⟨fun hw => answers (State.memArrive_error ht hi hd hw), fun hm => ?_, fun hw l b hx => answers (State.memArrive_zeros ht hi hd hw hx),
      fun l b hw hx hop => ⟨_, rfl, State.memArrive_fences ht hi hd hw hx hop rfl⟩, fun a l b al x hw hx hmem hdpa => ?_,
      fun hw hno => answers (State.memArrive_drainRefuses ht hi hd hw hno), fun a l b al x hw hop hx hdpa => ?_⟩
    · obtain ⟨hout, hin, hmedia⟩ := State.memArrive_unbacked (data := data) (be := be) (poison := poison) ht hi hd hm
      exact ⟨_, rfl, hout, hin, hmedia⟩
    · obtain ⟨sampled, hout, hmedia, hin⟩ := State.memArrive_queues (data := data) (be := be) (poison := poison) ht hi hd hw hx hmem hdpa
      exact ⟨_, sampled, rfl, hout, hmedia, hin⟩
    · obtain ⟨sampled, hout, hmedia, hin⟩ := State.memArrive_drainTakes (data := data) (be := be) (poison := poison) ht hi hd hw hop hx hdpa
      exact ⟨_, sampled, rfl, hout, hmedia, hin⟩

end Sys2Proof.Machine
end

section
/-! Refutation of a statement that holds for every state: a `State` may hold a request that names a head that does not exist, and the status of that head would be another register. -/
namespace Sys2Proof.Machine

/-! ### A read of a page image by a head that does not exist -/

/-- The image of a page of zeros: every strand is one ZERO token of 8 lines and END (R163). -/
def imageOfZeros : Image := ⟨(List.replicate 8 [0x77#8, 0x3C#8]).flatten, [2, 4, 6, 8, 10, 12, 14]⟩

/-- The 8 lines of the sherd that holds `imageOfZeros` as an image of page 0 at version 3. -/
def linesOfZeros : List Line := (buildSherds imageOfZeros 1 0 0 3).flatMap linesOfSherd

/-- The read that waits: it names head 8,912,880. There are 16 heads, and the status register of that one would be the count of counter 0 of counter group 0. -/
def readOfHead8912880 : Txn := { req := { id := 9, src := .head 8912880, ld := 0, op := .rd, line := 0, tag := 5 }, slice := 0, phase := .decode }

/-- Engine 63 has the image of page 0, which one read waits for. Counter 0 of group 0 counts decoded pages (event 0401h), and its count is 3, which reads as a link that is up, in L0. -/
def decodeForNoHead : State :=
  let s : State := { State.reset with
    path := { txns := [readOfHead8912880] }
    press := { engines := [(63, .read 0 (.cold 0 0 1) 3 none)], sherds := [(63, (List.range linesOfZeros.length).zip linesOfZeros)] } }
  ((s.setFlag (Reg.CAT_GRP_CTL_EN 0) true).wr (Reg.CAT_GRP_EVSEL_EVENT_2j 0 0) 0x0401).wr (Reg.CAT_GRP_CNT_COUNT 0 0) 3

/-- The engine has all of its lines, and they decode. -/
theorem decodeForNoHead_decodes : ∃ raw lines, decodeForNoHead.engineLines 63 8 = some raw ∧ (decodeForNoHead.decodePage 0 3 (.cold 0 0 1) none raw).1 = .page lines := by
  refine ⟨linesOfZeros, List.replicate 64 {}, ?_, ?_⟩ <;> decide +kernel

/-- No tag of the page is awaited and no exchange holds the read; the link to its head is up, and its page is no window of HDM-DB. -/
theorem decodeForNoHead_waits : decodeForNoHead.tagsPending 0 8 = false ∧ decodeForNoHead.exchOf 9 = none ∧ decodeForNoHead.canSend 8912880 = true ∧ decodeForNoHead.isDb 0 = false := by decide +kernel

/-- The decoded page is counted, and the count of 4 reads as a link that is down: nothing is sent. -/
theorem out_of_decodeForNoHead : (nextOf (exec (.pressDecodeDone 63) decodeForNoHead) decodeForNoHead).out = [] := by decide +kernel

/-- Refutes O49: the read of a decoded page completes, but with no data, where its head does not exist and the count of the decoded page is that head's link state; the statement has no premise that heads are below 16. -/
theorem not_pressEnginesAndJobsTakeEffect : ¬ Obligations.PressEnginesAndJobsTakeEffect := by
  unfold Obligations.PressEnginesAndJobsTakeEffect
  rintro ⟨⟨-, -, -, -, hread⟩, -⟩
  obtain ⟨raw, lines, hraw, hpage⟩ := decodeForNoHead_decodes
  obtain ⟨htags, hexch, hsend, hdb⟩ := decodeForNoHead_waits
  obtain ⟨-, hhead⟩ := hread 63 0 3 (.cold 0 0 1) readOfHead8912880 raw lines decodeForNoHead (by decide +kernel) hraw htags hpage (by decide +kernel) rfl rfl
  obtain ⟨t, ht, -, -, -, hdata⟩ := hhead 8912880 hexch rfl rfl hsend hdb
  have hnext : nextOf (exec (.pressDecodeDone 63) decodeForNoHead) decodeForNoHead = t := by rw [ht]; rfl
  have hnone : t.out = [] := hnext ▸ out_of_decodeForNoHead
  simp [hnone] at hdata

end Sys2Proof.Machine
end

section
/-! Accepted writes, fences and the bench (R71 to R73, R79, R81, R83, R93, R113). -/
namespace Sys2Proof.Machine

/-! ### The end of a head's request, among others -/

/-- What delays fences is all that `fenceSees` changes. -/
theorem State.fenceSees_eq (s : State) (q : Req) : ∃ fs, s.fenceSees q = { s with path := { s.path with fences := fs } } := by
  unfold State.fenceSees
  split
  · exact ⟨_, rfl⟩
  · exact ⟨s.path.fences, rfl⟩

/-- A request of a head whose link is up ends: it leaves the tables, and its completion leaves the block. -/
theorem State.finish_head {s : State} {t : Txn} {h : Nat} (f : Ending) (admitted : Bool) (hsrc : t.req.src = .head h) (hsafe : s.isSafe = false) (hlink : s.linkUp h = true)
    (hp : s.rd (Reg.GLB_HEAD_STATUS_PSTATE h) ≤ 1) :
    TrafficKept (((s.dropTxn t.req.id).fenceSees t.req).emit (completionOf t.req h f)) (s.finish t f admitted) := by
  obtain ⟨fs, hfence⟩ := State.fenceSees_eq (s.dropTxn t.req.id) t.req
  have hend : TrafficKept (((s.dropTxn t.req.id).fenceSees t.req).emit (completionOf t.req h f)) (((s.dropTxn t.req.id).fenceSees t.req).egress t h f) :=
    State.egress_completes f (by rw [hfence]; exact hsafe) (by rw [hfence]; exact hlink) (by rw [hfence]; exact hp)
  unfold State.finish
  dsimp only
  rw [hsrc]
  dsimp only
  split
  · exact hend.trans (TrafficKept.footfall ..)
  · exact hend

/-- Such a request that is the only one in service leaves nothing in service. -/
theorem State.finish_only {s : State} {t x : Txn} {h : Nat} (f : Ending) (hsrc : t.req.src = .head h) (hsafe : s.isSafe = false) (hlink : s.linkUp h = true)
    (hp : s.rd (Reg.GLB_HEAD_STATUS_PSTATE h) ≤ 1) (htxns : s.path.txns = [x]) (hid : x.req.id = t.req.id) (hbench : s.dir.bench = []) :
    (s.finish t f).out = completionOf t.req h f :: s.out ∧ (s.finish t f).path.txns = [] ∧ (s.finish t f).dir = s.dir ∧ (s.finish t f).media = s.media
      ∧ (s.finish t f).path.wcb = s.path.wcb := by
  obtain ⟨hout, hdir, hmedia, hpath⟩ := State.finish_head f true hsrc hsafe hlink hp
  obtain ⟨fs, hfence⟩ := State.fenceSees_eq (s.dropTxn t.req.id) t.req
  rw [hfence] at hout hdir hmedia hpath
  have hnone : (s.dropTxn t.req.id).path.txns = [] := by simp [State.dropTxn, htxns, hid]
  refine ⟨hout, ?_, ?_, hmedia, ?_⟩
  · rw [hpath]
    exact hnone
  · rw [hdir]
    exact dir_filter_bench _ _ hbench
  · rw [hpath]
    rfl

/-! ### The acceptance of a write (R71, R72) -/

/-- A page that no overflow, retirement or sanitise has is not locked. -/
theorem State.pageLocked_of_none {s : State} (p : Nat) (hlocks : s.sec.locks = []) (hretire : s.sec.retire = []) (hclears : s.mgmt.clears = []) : s.pageLocked p = false := by
  simp [State.pageLocked, hlocks, hretire, hclears]

/-- The only transaction waits for no earlier one of its line. -/
theorem State.lineBlocked_only {s : State} {x : Txn} (htxns : s.path.txns = [x]) (hbench : s.dir.bench = []) : s.lineBlocked x = false := by
  simp [State.lineBlocked, htxns, hbench]

/-- A HOT page of a region that takes writes refuses none. -/
theorem State.refusesWrite_of_hot {s : State} {p c fr : Nat} {r : Option Nat} (i : Nat) (hform : (s.acc p).form = .hot c fr r) (hguard : s.guard p = none)
    (hregion : ∀ e, s.regionAt p = some e → e.2.readonly = false) : s.refusesWrite p i = false := by
  have hreadonly : (s.regionAt p).any (fun e => e.2.readonly) = false := by
    cases hr : s.regionAt p with
    | none => rfl
    | some e => exact hregion e hr
  simp [State.refusesWrite, State.lineLost, hguard, hform, hreadonly]

theorem State.takesWrite_of_hot {s : State} {p c fr : Nat} {r : Option Nat} (hform : (s.acc p).form = .hot c fr r) : s.takesWrite p = true := by
  simp only [State.takesWrite, hform]

/-- The line that a write of a head leaves in an empty buffer. -/
def bufferedWrite (q : Req) (h tick : Nat) : WcbLine :=
  { line := q.line, data := q.data, be := q.be, poison := q.poison, entered := tick, last := tick, writers := [{ head := h, ld := q.ld, id := q.id, cls := q.cls, tier := q.tier }] }

/-- A write of a HOT page that does not move enters the empty buffer, and is accepted. -/
theorem State.acceptWrite_hot {s : State} {x : Txn} {h c fr : Nat} {r : Option Nat} (hsnoop : x.snoop = false) (hsrc : x.req.src = .head h) (hform : (s.acc x.req.page).form = .hot c fr r)
    (hslot : s.slotOf x.req.page = none) (hguard : s.guard x.req.page = none) (hregion : ∀ e, s.regionAt x.req.page = some e → e.2.readonly = false) (hwcb : s.path.wcb = []) :
    s.acceptWrite x = State.finish { s with path := { s.path with wcb := [bufferedWrite x.req h s.tick] } } x {} := by
  have hput : ∀ ws, s.wcbPut x.req.line x.req.data x.req.be x.req.poison ws
      = { s with path := { s.path with wcb := [{ line := x.req.line, data := x.req.data, be := x.req.be, poison := x.req.poison, entered := s.tick, last := s.tick, writers := ws }] } } :=
    fun ws => by simp [State.wcbPut, State.wcb?, hwcb]
  have hroom : s.wcbRoom x.req.line = true := by simp [State.wcbRoom, State.wcbOf, hwcb]
  have hnote : ∀ w, State.noteWrite { s with path := { s.path with wcb := w } } x.req.line = { s with path := { s.path with wcb := w } } := fun w => by
    have hsame : State.slotOf { s with path := { s.path with wcb := w } } (pageOf x.req.line) = none := hslot
    simp only [State.noteWrite, hsame]
  unfold State.acceptWrite
  dsimp only
  rw [State.refusesWrite_of_hot _ hform hguard hregion, hform, State.takesWrite_of_hot hform, hroom, hsrc]
  simp only [State.cleanSnoop, State.releasedSnoop, hsnoop, Bool.false_and, Bool.or_self, Bool.false_eq_true, if_false, if_true, hput, hnote]
  simp only [State.accepted, hsnoop, bufferedWrite]

/-- A slice without such a transaction accepts nothing, nor does any in the safe state. -/
theorem State.writeAccept_none {s : State} {sl n : Nat} (h : s.isSafe = true ∨ ∀ t ∈ s.path.txns, t.req.id ≠ n ∨ t.slice ≠ sl ∨ t.phase ≠ .accept) : s.writeAccept sl n = s := by
  unfold State.writeAccept
  split
  · rfl
  · next x hx =>
    rcases h with hsafe | hnone
    · simp [hsafe]
    · have hmem := hnone x (List.mem_of_find?_eq_some hx)
      have hfound := List.find?_some hx
      simp only [Bool.and_eq_true, beq_iff_eq] at hfound
      obtain ⟨⟨hid, hslice⟩, hphase⟩ := hfound
      rcases hmem with hne | hne | hne <;> contradiction

/-- The only transaction, a write that waits for nothing, is accepted. -/
theorem State.writeAccept_only {s : State} {x : Txn} (htxns : s.path.txns = [x]) (hphase : x.phase = .accept) (hsafe : s.isSafe = false) (hlock : s.pageLocked x.req.page = false)
    (hbench : s.dir.bench = []) : s.writeAccept x.slice x.req.id = s.acceptWrite x := by
  have hfind : s.path.txns.find? (fun t => t.req.id == x.req.id && t.slice == x.slice && t.phase == .accept) = some x := by simp [htxns, hphase]
  unfold State.writeAccept
  rw [hfind]
  dsimp only
  rw [hsafe, hlock, State.lineBlocked_only htxns hbench]
  simp

/-! ### Fences (R81, R83, R93) -/

/-- A link in L0 or L0p needs no wake. -/
theorem State.regs_wakeLink_awake {s : State} {h : Nat} (hp : s.rd (Reg.GLB_HEAD_STATUS_PSTATE h) ≤ 1) : (s.wakeLink h).regs = s.regs := by
  have hrd : (s.updHead h (fun (x : HeadSt) => { x with traffic := s.tick })).rd (Reg.GLB_HEAD_STATUS_PSTATE h) = s.rd (Reg.GLB_HEAD_STATUS_PSTATE h) := rfl
  unfold State.wakeLink
  dsimp only
  rw [if_neg (by omega)]
  rfl

/-- A fence has left the pending ones and is counted; a fault shows. -/
def State.fenceNoted (s : State) (h : Nat) (f : Fence) : State :=
  let s := { s with path := { s.path with fences := s.path.fences.erase f } }
  let s := (s.inc (Reg.TRL_HEAD_FENCE_FENCES_DONE h) 1).showFences h
  if f.fault then s.setFlag (Reg.TRL_HEAD_FENCE_FENCE_FAULT h) true else s

/-- The completion of a fence is counted by the groups and by its LD. -/
def State.fenceCounted (s : State) (h : Nat) (f : Fence) : State :=
  (((s.fenceNoted h f).cnt 0x010B (.head h)).cnt 0x0102 (.req h none)).ldCnt f.ld 1

theorem State.fenceDone_some {s : State} {h : Nat} {f : Fence} (hsafe : s.isSafe = false) (hf : (s.fencesOf h).find? (fun f => f.waits == []) = some f) :
    s.fenceDone h = if (s.fenceCounted h f).canSend h then ((s.fenceCounted h f).wakeLink h).emit (.cmp h f.tag .noOp) else s.fenceCounted h f := by
  unfold State.fenceDone
  rw [hsafe, hf]
  rfl

theorem State.fenceDone_none {s : State} {h : Nat} (hs : s.isSafe = true ∨ ∀ f ∈ s.fencesOf h, f.waits ≠ []) : s.fenceDone h = s := by
  unfold State.fenceDone
  split
  · rfl
  · next hsafe =>
    have hnone : (s.fencesOf h).find? (fun f => f.waits == []) = none := by
      simpa using hs.resolve_left hsafe
    rw [hnone]

theorem State.fencesOf_length (s : State) (h : Nat) : (s.fencesOf h).length ≤ 64 := List.length_take_le ..

section Noted
variable (s : State) (h : Nat) (f : Fence)

theorem State.fenceNoted_kept : TrafficKept { s with path := { s.path with fences := s.path.fences.erase f } } (s.fenceNoted h f) := by
  have hshown : TrafficKept { s with path := { s.path with fences := s.path.fences.erase f } }
      ((State.inc { s with path := { s.path with fences := s.path.fences.erase f } } (Reg.TRL_HEAD_FENCE_FENCES_DONE h) 1).showFences h) :=
    (TrafficKept.inc ..).trans (TrafficKept.wr ..)
  unfold State.fenceNoted
  dsimp only
  split
  · exact hshown.trans (TrafficKept.wr ..)
  · exact hshown

/-- A register field that is no part of the head's fence register stays. -/
theorem State.rd_fenceNoted (g : Reg.Fld) (hg : g.lo % 32 + g.w ≤ 32) (hoff : g.off + 4 * (g.lo / 32) ≠ 0x108000 + 4 * h) : (s.fenceNoted h f).rd g = s.rd g := by
  have hother : ∀ (u : State) (f : Reg.Fld) (x : Nat), f.lo % 32 + f.w ≤ 32 → f.off + 4 * (f.lo / 32) = 0x108000 + 4 * h → (u.wr f x).rd g = u.rd g :=
    fun u f x hf ho => State.rd_wr_other _ _ _ _ hf hg (.inl (by omega))
  have hdone : ∀ (u : State) (n : Nat), ((u.inc (Reg.TRL_HEAD_FENCE_FENCES_DONE h) n).showFences h).rd g = u.rd g := fun u n =>
    (hother _ _ _ (by simp [Reg.TRL_HEAD_FENCE_FENCES_PENDING]) (by simp [Reg.TRL_HEAD_FENCE_FENCES_PENDING])).trans
      (hother _ _ _ (by simp [Reg.TRL_HEAD_FENCE_FENCES_DONE]) (by simp [Reg.TRL_HEAD_FENCE_FENCES_DONE]))
  unfold State.fenceNoted
  dsimp only
  split
  · exact (hother _ _ _ (by simp [Reg.TRL_HEAD_FENCE_FENCE_FAULT]) (by simp [Reg.TRL_HEAD_FENCE_FENCE_FAULT])).trans (hdone _ 1)
  · exact hdone _ 1

theorem State.rd_fenceNoted_pending : (s.fenceNoted h f).rd (Reg.TRL_HEAD_FENCE_FENCES_PENDING h) = ((s.fenceNoted h f).fencesOf h).length := by
  have hpath := (s.fenceNoted_kept h f).path
  have hlen := (s.fenceNoted h f).fencesOf_length h
  have hof : (s.fenceNoted h f).fencesOf h = (State.inc { s with path := { s.path with fences := s.path.fences.erase f } } (Reg.TRL_HEAD_FENCE_FENCES_DONE h) 1).fencesOf h := by
    simp only [State.fencesOf, hpath, State.inc, State.wr_path]
  rw [hof] at hlen ⊢
  have hshown : ∀ (u : State), (u.fencesOf h).length ≤ 64 → (u.showFences h).rd (Reg.TRL_HEAD_FENCE_FENCES_PENDING h) = (u.fencesOf h).length := fun u hu => by
    rw [State.showFences, State.rd_wr_same _ _ _ (by simp [Reg.TRL_HEAD_FENCE_FENCES_PENDING])]
    exact Nat.mod_eq_of_lt (by simp only [Reg.TRL_HEAD_FENCE_FENCES_PENDING]; omega)
  unfold State.fenceNoted
  dsimp only
  split
  · rw [State.setFlag, State.rd_wr_other _ _ _ _ (by simp [Reg.TRL_HEAD_FENCE_FENCE_FAULT]) (by simp [Reg.TRL_HEAD_FENCE_FENCES_PENDING])
      (by simp [Reg.TRL_HEAD_FENCE_FENCE_FAULT, Reg.TRL_HEAD_FENCE_FENCES_PENDING])]
    exact hshown _ hlen
  · exact hshown _ hlen

theorem State.rd_fenceNoted_done :
    (s.fenceNoted h f).rd (Reg.TRL_HEAD_FENCE_FENCES_DONE h) = (s.rd (Reg.TRL_HEAD_FENCE_FENCES_DONE h) + 1) % 2 ^ (Reg.TRL_HEAD_FENCE_FENCES_DONE h).w := by
  have hcounted : ∀ u : State, ((u.inc (Reg.TRL_HEAD_FENCE_FENCES_DONE h) 1).showFences h).rd (Reg.TRL_HEAD_FENCE_FENCES_DONE h)
      = (u.rd (Reg.TRL_HEAD_FENCE_FENCES_DONE h) + 1) % 2 ^ (Reg.TRL_HEAD_FENCE_FENCES_DONE h).w := fun u => by
    rw [State.showFences, State.rd_wr_other _ _ _ _ (by simp [Reg.TRL_HEAD_FENCE_FENCES_PENDING]) (by simp [Reg.TRL_HEAD_FENCE_FENCES_DONE])
      (by simp [Reg.TRL_HEAD_FENCE_FENCES_PENDING, Reg.TRL_HEAD_FENCE_FENCES_DONE]), State.inc, State.rd_wr_same _ _ _ (by simp [Reg.TRL_HEAD_FENCE_FENCES_DONE])]
  unfold State.fenceNoted
  dsimp only
  split
  · rw [State.setFlag, State.rd_wr_other _ _ _ _ (by simp [Reg.TRL_HEAD_FENCE_FENCE_FAULT]) (by simp [Reg.TRL_HEAD_FENCE_FENCES_DONE])
      (by simp [Reg.TRL_HEAD_FENCE_FENCE_FAULT, Reg.TRL_HEAD_FENCE_FENCES_DONE])]
    exact hcounted _
  · exact hcounted _

theorem State.flag_fenceNoted_fault : (s.fenceNoted h f).flag (Reg.TRL_HEAD_FENCE_FENCE_FAULT h) = (s.flag (Reg.TRL_HEAD_FENCE_FENCE_FAULT h) || f.fault) := by
  have hshown : ∀ u : State, ((u.inc (Reg.TRL_HEAD_FENCE_FENCES_DONE h) 1).showFences h).flag (Reg.TRL_HEAD_FENCE_FENCE_FAULT h) = u.flag (Reg.TRL_HEAD_FENCE_FENCE_FAULT h) := fun u => by
    rw [State.flag, State.showFences, State.rd_wr_other _ _ _ _ (by simp [Reg.TRL_HEAD_FENCE_FENCES_PENDING]) (by simp [Reg.TRL_HEAD_FENCE_FENCE_FAULT])
      (by simp [Reg.TRL_HEAD_FENCE_FENCES_PENDING, Reg.TRL_HEAD_FENCE_FENCE_FAULT]), State.inc,
      State.rd_wr_other _ _ _ _ (by simp [Reg.TRL_HEAD_FENCE_FENCES_DONE]) (by simp [Reg.TRL_HEAD_FENCE_FENCE_FAULT]) (by simp [Reg.TRL_HEAD_FENCE_FENCES_DONE, Reg.TRL_HEAD_FENCE_FENCE_FAULT])]
    rfl
  unfold State.fenceNoted
  dsimp only
  split
  · next hfault => rw [State.flag_setFlag_same _ _ _ (by simp [Reg.TRL_HEAD_FENCE_FENCE_FAULT]) rfl, hfault, Bool.or_true]
  · next hfault =>
    rw [hshown, Bool.eq_false_of_not_eq_true hfault, Bool.or_false]
    rfl

/-- Counting a fence changes counters only. -/
theorem State.fenceCounted_aside : Aside (s.fenceNoted h f) (((s.fenceNoted h f).cnt 0x010B (.head h)).cnt 0x0102 (.req h none)) := (Aside.cnt ..).trans (Aside.cnt ..)

theorem State.fenceCounted_kept : TrafficKept { s with path := { s.path with fences := s.path.fences.erase f } } (s.fenceCounted h f) :=
  ((s.fenceNoted_kept h f).trans (s.fenceCounted_aside h f).trafficKept).trans (TrafficKept.updLd ..)

/-- A register field outside the counter groups is not changed by the counting of a fence. -/
theorem State.rd_fenceCounted (g : Reg.Fld) (hg : g.lo % 32 + g.w ≤ 32) (ho : g.off + 4 * (g.lo / 32) < 0x2200000) : (s.fenceCounted h f).rd g = (s.fenceNoted h f).rd g :=
  (s.fenceCounted_aside h f).rd g hg (.inl ho)

end Noted

/-- A fence whose writes are all visible completes at a head whose link is up. -/
theorem State.fenceDone_completes {s : State} {h : Nat} {f : Fence} (hh : h < 16) (hsafe : s.isSafe = false) (hlink : s.linkUp h = true) (hp : s.rd (Reg.GLB_HEAD_STATUS_PSTATE h) ≤ 1)
    (hf : (s.fencesOf h).find? (fun f => f.waits == []) = some f) :
    TrafficKept (State.emit { s with path := { s.path with fences := s.path.fences.erase f } } (.cmp h f.tag .noOp)) (s.fenceDone h) ∧ (s.fenceDone h).regs = (s.fenceCounted h f).regs := by
  have hrd : ∀ g : Reg.Fld, g.lo % 32 + g.w ≤ 32 → g.off + 4 * (g.lo / 32) < 0x108000 → (s.fenceCounted h f).rd g = s.rd g := fun g hg ho =>
    (s.rd_fenceCounted h f g hg (by omega)).trans (s.rd_fenceNoted h f g hg (by omega))
  have hlink' : (s.fenceCounted h f).linkUp h = true := by
    rw [← hlink, State.linkUp, State.linkUp, State.flag, State.flag, hrd _ (by simp [Reg.GLB_HEAD_STATUS_LINK_UP]) (by simp only [Reg.GLB_HEAD_STATUS_LINK_UP]; omega)]
  have hsafe' : (s.fenceCounted h f).isSafe = false := by rw [← hsafe, State.isSafe, State.isSafe, State.wdn, State.wdn, hrd _ (by decide) (by decide)]
  have hp' : (s.fenceCounted h f).rd (Reg.GLB_HEAD_STATUS_PSTATE h) ≤ 1 := by
    rw [hrd _ (by simp [Reg.GLB_HEAD_STATUS_PSTATE]) (by simp only [Reg.GLB_HEAD_STATUS_PSTATE]; omega)]
    exact hp
  have hsend : (s.fenceCounted h f).canSend h = true := by rw [State.canSend, hlink', hsafe']; rfl
  obtain ⟨hout, hdir, hmedia, hpath⟩ := (s.fenceCounted_kept h f).trans (TrafficKept.wakeLink hp')
  rw [State.fenceDone_some hsafe hf, if_pos hsend]
  refine ⟨⟨by rw [State.emit, hout]; rfl, hdir, hmedia, hpath⟩, ?_⟩
  exact State.regs_wakeLink_awake hp'

/-! ### The bench (R113) -/

/-- A free way is free in any state with the same ways. -/
theorem State.wayFor_free_congr {s t : State} {line k : Nat} (hways : t.dir.ways = s.dir.ways) (h : s.wayFor line = .free k) : t.wayFor line = .free k := by
  unfold State.wayFor at h ⊢
  dsimp only at h ⊢
  rw [hways]
  split at h
  · exact h
  · split at h <;> cases h

/-- No filter of a counter group lets through an occurrence of a head that does not exist. -/
theorem State.passes_noHead {s : State} {h : Nat} (hh : 16 ≤ h) (g : Nat) (c : Option Nat) : s.passes g (.req h c) = false := by
  have hlt : s.rd (Reg.CAT_GRP_FILTER_HEAD_MASK g) < 2 ^ h := by
    have hw : s.rd (Reg.CAT_GRP_FILTER_HEAD_MASK g) < 2 ^ 16 := by
      rw [State.rd_in _ _ (by simp [Reg.CAT_GRP_FILTER_HEAD_MASK])]
      exact Nat.mod_lt _ (Nat.two_pow_pos _)
    exact hw.trans_le (Nat.pow_le_pow_right (by decide) hh)
  simp [State.passes, State.bit, Nat.testBit_lt_two_pow hlt]

/-- Nothing is counted for a head that does not exist. -/
theorem State.cnt_noHead (s : State) {h : Nat} (hh : 16 ≤ h) (ev : Nat) (c : Option Nat) (n : Nat) : s.cnt ev (.req h c) n = s := by
  unfold State.cnt
  have hgroup : ∀ (u : State) (g : Nat), u.cntGroup g ev (.req h c) n = u := fun u g => by simp [State.cntGroup, State.passes_noHead hh]
  simp [hgroup]

/-- Counting an occurrence of a head's request does not change the state of that head's link. -/
theorem State.link_cnt (s : State) (h ev : Nat) (c : Option Nat) (n : Nat) :
    (s.cnt ev (.req h c) n).linkUp h = s.linkUp h ∧ (s.cnt ev (.req h c) n).rd (Reg.GLB_HEAD_STATUS_PSTATE h) = s.rd (Reg.GLB_HEAD_STATUS_PSTATE h) := by
  by_cases hh : h < 16
  · exact ⟨(Aside.cnt ..).linkUp h hh, (Aside.cnt ..).pstate h hh⟩
  · rw [State.cnt_noHead s (by omega)]
    exact ⟨rfl, rfl⟩

/-- A read of a page that holds nothing is answered with zeros, once it is counted. -/
theorem State.serveRead_unwritten {s : State} {t : Txn} {h : Nat} (hsrc : t.req.src = .head h) (hblank : s.blank t.req.page) :
    ∃ u b, s.serveRead t = u.deliver { t with counted := b, source := 3 } { data := 0, poison := false } ∧ Aside s u ∧ u.linkUp h = s.linkUp h
      ∧ u.rd (Reg.GLB_HEAD_STATUS_PSTATE h) = s.rd (Reg.GLB_HEAD_STATUS_PSTATE h) := by
  obtain ⟨hform, hguard⟩ := hblank
  have hform' : s.srcForm t.req.page = .unwritten false := by simp only [State.srcForm, State.slotOf, hform]
  obtain ⟨u, b, hcount, hu, hlink, hp⟩ : ∃ u b, s.countRead t = (u, { t with counted := b }) ∧ Aside s u ∧ u.linkUp h = s.linkUp h
      ∧ u.rd (Reg.GLB_HEAD_STATUS_PSTATE h) = s.rd (Reg.GLB_HEAD_STATUS_PSTATE h) := by
    unfold State.countRead
    rw [hsrc, hform']
    split
    · next hhead =>
      cases hhead
      exact ⟨_, _, rfl, Aside.cnt .., State.link_cnt ..⟩
    · exact ⟨_, t.counted, rfl, Aside.refl s, rfl, rfl⟩
  have hlost : u.lineLost t.req.page t.req.lineIx = false := by simp only [State.lineLost, hu.guard, hguard]
  refine ⟨u, b, ?_, hu, hlink, hp⟩
  unfold State.serveRead
  dsimp only
  rw [hcount]
  dsimp only
  rw [hu.srcForm, hform']
  dsimp only
  rw [hu.srcForm, hform']
  dsimp only
  rw [hlost]
  rfl

/-- A read for a shared copy of an HDM-DB line, which no exchange holds, completes with zeros where the page holds nothing. -/
theorem State.serveRead_shared {s : State} {t x : Txn} {h : Nat} (hsrc : t.req.src = .head h) (hblank : s.blank t.req.page) (hop : t.req.op = .rd) (hsnp : t.req.snp = .data)
    (hdb : s.isDb t.req.page = true) (hpoison : t.poisoned = false) (hexchs : s.dir.exchs = []) (hsafe : s.isSafe = false) (hlink : s.linkUp h = true)
    (hp : s.rd (Reg.GLB_HEAD_STATUS_PSTATE h) ≤ 1) (htxns : s.path.txns = [x]) (hid : x.req.id = t.req.id) (hbench : s.dir.bench = []) :
    (s.serveRead t).out = .memData h t.req.tag 0 false .s :: s.out ∧ (s.serveRead t).path.txns = [] ∧ (s.serveRead t).dir = s.dir := by
  obtain ⟨u, b, hserve, hu, hlink', hp'⟩ := State.serveRead_unwritten hsrc hblank
  have hcls : t.req.cls43 = .rdShared := by simp only [Req.cls43, hop, hsnp]
  have hexch : u.exchOf t.req.id = none := by simp [State.exchOf, hu.dir, hexchs]
  have hdeliver : u.deliver { t with counted := b, source := 3 } { data := 0, poison := false } = u.finish { t with counted := b, source := 3 } { data := some 0, poison := false, mv := .s } := by
    simp only [State.deliver, hexch, hcls, hop, State.finishRead, hpoison, hu.isDb, hdb]
    rfl
  obtain ⟨hout, hnone, hdir, -, -⟩ := State.finish_only (s := u) (t := { t with counted := b, source := 3 }) (x := x) { data := some 0, poison := false, mv := .s } hsrc
    (by rw [hu.isSafe, hsafe]) (by rw [hlink', hlink]) (by rw [hp']; exact hp) (by rw [hu.path, htxns]) hid (by rw [hu.dir, hbench])
  rw [hserve, hdeliver]
  refine ⟨?_, hnone, hdir.trans hu.dir⟩
  rw [hout, hu.out]
  simp [completionOf, Req.isRead, hop]

/-- A set of a slice with no request on the bench, and any in the safe state, wakes nothing. -/
theorem State.benchServe_none {s : State} {sl set : Nat} (h : s.isSafe = true ∨ ∀ x ∈ s.dir.bench, x.slice ≠ sl ∨ dirSet x.req.line ≠ set) : s.benchServe sl set = s := by
  unfold State.benchServe
  split
  · rfl
  · next x hx =>
    rcases h with hsafe | hnone
    · split
      · simp [hsafe]
      · rfl
    · have hmem := hnone x (List.mem_of_find?_eq_some hx)
      have hfound := List.find?_some hx
      simp only [Bool.and_eq_true, beq_iff_eq] at hfound
      obtain ⟨hslice, hset⟩ := hfound
      rcases hmem with hne | hne <;> contradiction

/-- The state in which a request that was alone on the bench stands in the table instead. -/
def State.unbenched (s : State) (x : Txn) : State := { s with dir := { s.dir with bench := [] }, path := { s.path with txns := [x] } }

/-- A benched request whose set has a free way is dispatched. -/
theorem State.benchServe_only {s : State} {x : Txn} {h k : Nat} (hsafe : s.isSafe = false) (hbench : s.dir.bench = [x]) (htxns : s.path.txns = []) (hexchs : s.dir.exchs = [])
    (hsrc : x.req.src = .head h) (hway : s.wayFor x.req.line = .free k) : s.benchServe x.slice (dirSet x.req.line) = (s.unbenched x).dispatchDb x h := by
  have hfind : s.dir.bench.find? (fun t => t.slice == x.slice && dirSet t.req.line == dirSet x.req.line) = some x := by simp [hbench]
  unfold State.benchServe
  rw [hfind]
  dsimp only
  rw [hsrc, hway, hsafe, hexchs, hbench, htxns]
  simp [State.unbenched, hexchs]

/-- A first reader of a line takes the free way of its set, and is served. -/
theorem State.dispatchDb_newLine {s : State} {x : Txn} {h k : Nat} (hgranted : x.granted = false) (hcls : x.req.cls43 = .rdShared) (hop : x.req.op = .rd) (htxns : s.path.txns = [x])
    (hbench : s.dir.bench = []) (hexchs : s.dir.exchs = []) (hnone : s.entry? x.req.line = none) (hway : s.wayFor x.req.line = .free k) :
    ∃ ways, s.dispatchDb x h = State.serveRead { s with dir := { s.dir with ways := ways } } { x with granted := true }
      ∧ Tbl.look ways k = some { newEntry x.req.line h .rdShared with age := 0 } := by
  obtain ⟨ways, htouch, hlook⟩ := State.touch_eq (s.putWay k { newEntry x.req.line h x.req.cls43 with age := 15 }) k
  refine ⟨ways, ?_, by rw [hlook, hcls]; simp [State.putWay]⟩
  have hclean : s.cleanStopped x.req.line = s := by simp only [State.cleanStopped, hnone]
  have htaken : s.lineTaken x = false := by simp [State.lineTaken, htxns, hbench]
  have hown : s.ownPhase x.req = none := State.ownPhase_of_notOwn (by rw [hcls]; decide)
  have hdispatch : s.dispatchDb x h = s.takeWay x h k := by
    simp only [State.dispatchDb, hgranted, hclean, htaken, hexchs, List.any_nil, Bool.or_self, Bool.false_eq_true, if_false, State.transition, hown, hcls,
      show (ReqClass.rdShared == ReqClass.rdOwn) = false from rfl, hnone, State.allocWay, hway]
  rw [hdispatch]
  unfold State.takeWay
  rw [hown]
  dsimp only
  rw [hcls, if_neg (by decide), ← hcls, htouch]
  simp only [State.readOrAck, hop]
  rfl

/-! ### The statement -/

/-- Settles O42, from the acceptance of a write that waits for nothing, the completion of a fence, and the dispatch of a benched request to a free way. -/
theorem writesFencesAndBench : Obligations.WritesFencesAndBench := by
  unfold Obligations.WritesFencesAndBench
  refine ⟨?noAccept, ?accept, ?noFence, ?fence, ?noBench, ?bench⟩
  case noAccept =>
    intro sl n s hnone
    exact congrArg Host.Outcome.next (State.writeAccept_none hnone)
  case accept =>
    intro sl x h c fr r s hsafe htxns hslice hphase hsnoop hsrc hop hlocks hretire hclears hbench hform _ hslot hguard hregion hwcb hlink hp
    have haccept : s.writeAccept sl x.req.id = State.finish { s with path := { s.path with wcb := [bufferedWrite x.req h s.tick] } } x {} := by
      rw [← hslice, State.writeAccept_only htxns hphase hsafe (State.pageLocked_of_none _ hlocks hretire hclears) hbench]
      exact State.acceptWrite_hot hsnoop hsrc hform hslot hguard hregion hwcb
    obtain ⟨hout, hnone, -, hmedia, hbuf⟩ := State.finish_only (s := { s with path := { s.path with wcb := [bufferedWrite x.req h s.tick] } }) (t := x) {} hsrc hsafe hlink hp htxns rfl hbench
    refine ⟨_, congrArg Host.Outcome.next haccept, hnone, hout.trans ?_, hmedia, hbuf⟩
    simp [completionOf, Req.isRead, hop]
  case noFence =>
    intro h s hnone
    exact congrArg Host.Outcome.next (State.fenceDone_none hnone)
  case fence =>
    intro h f s hsafe hlink hp hf
    obtain ⟨⟨hout, -, -, hpath⟩, hregs⟩ := State.fenceDone_completes h.isLt hsafe hlink hp hf
    have hrd : ∀ g : Reg.Fld, g.lo % 32 + g.w ≤ 32 → g.off + 4 * (g.lo / 32) < 0x2200000 → (s.fenceDone h).rd g = (s.fenceNoted h f).rd g := fun g hg ho =>
      (State.rd_congr_in g hg (by rw [State.word, hregs]; rfl)).trans (s.rd_fenceCounted h f g hg ho)
    have hof : (s.fenceDone h).fencesOf h = (s.fenceNoted h f).fencesOf h := by
      simp only [State.fencesOf, hpath, (s.fenceNoted_kept h f).path]
      rfl
    refine ⟨_, rfl, hout, by rw [hpath]; rfl, ?_, ?_, ?_⟩
    · rw [hof, hrd _ (by simp [Reg.TRL_HEAD_FENCE_FENCES_PENDING]) (by simp only [Reg.TRL_HEAD_FENCE_FENCES_PENDING]; omega)]
      exact s.rd_fenceNoted_pending h f
    · rw [hrd _ (by simp [Reg.TRL_HEAD_FENCE_FENCES_DONE]) (by simp only [Reg.TRL_HEAD_FENCE_FENCES_DONE]; omega)]
      exact s.rd_fenceNoted_done h f
    · rw [State.flag, hrd _ (by simp [Reg.TRL_HEAD_FENCE_FENCE_FAULT]) (by simp only [Reg.TRL_HEAD_FENCE_FENCE_FAULT]; omega)]
      exact s.flag_fenceNoted_fault h f
  case noBench =>
    intro sl set s hnone
    exact congrArg Host.Outcome.next (State.benchServe_none hnone)
  case bench =>
    intro sl set x h k s hsafe hbench htxns hexchs hslice hset hsrc hgranted hpoison hop hsnp hdb hblank hentry hway hlink hp
    have hcls : x.req.cls43 = .rdShared := by simp only [Req.cls43, hop, hsnp]
    obtain ⟨ways, hserve, hlook⟩ := State.dispatchDb_newLine (s := s.unbenched x) (x := x) (h := h) (k := k) hgranted hcls hop rfl rfl hexchs hentry (State.wayFor_free_congr (s := s) rfl hway)
    obtain ⟨hout, hnone, hdir⟩ := State.serveRead_shared (s := { s.unbenched x with dir := { (s.unbenched x).dir with ways := ways } }) (t := { x with granted := true }) (x := x)
      hsrc hblank hop hsnp hdb hpoison hexchs hsafe hlink hp rfl rfl rfl
    refine ⟨_, _, congrArg Host.Outcome.next ((congrArg₂ s.benchServe hslice.symm hset.symm).trans ((State.benchServe_only hsafe hbench htxns hexchs hsrc hway).trans hserve)),
      ⟨hnone, by rw [hdir]; rfl⟩, hout, by rw [hdir]; exact hlook, rfl, rfl, rfl⟩

end Sys2Proof.Machine
end

section
/-! What SEC's own work leaves alone (R189 to R199): the events and losses it records, the admissions it takes, the reads it sends, and the lines it stores. -/
namespace Sys2Proof.Machine

/-! ### What an event leaves alone (R375 to R382) -/

/-- A state beside another: what an event, an interrupt message or a counter changes may differ, namely registers, outputs, heads, LDs, counters and logs. -/
structure Noted (s t : State) : Prop where
  eq : t = { s with out := t.out, regs := t.regs, heads := t.heads, lds := t.lds, cat := t.cat, mgmt := t.mgmt }

namespace Noted

theorem refl (s : State) : Noted s s := ⟨rfl⟩

theorem trans {s t u : State} (h : Noted s t) (k : Noted t u) : Noted s u := ⟨by rw [k.eq, h.eq]⟩

theorem foldl {α : Type} {f : State → α → State} (l : List α) (s : State) (hf : ∀ t x, Noted t (f t x)) : Noted s (l.foldl f s) := by
  induction l generalizing s with
  | nil => exact refl s
  | cons x l ih => exact (hf s x).trans (ih (f s x))

theorem setWord (s : State) (off : Nat) (v : Word) : Noted s (s.setWord off v) := ⟨rfl⟩

theorem setDword (s : State) (off : Nat) (v : BitVec 64) : Noted s (s.setDword off v) := ⟨rfl⟩

theorem wr (s : State) (f : Reg.Fld) (x : Nat) : Noted s (s.wr f x) := ⟨by rw [State.wr_eq_withRegs]⟩

theorem emit (s : State) (o : Out) : Noted s (s.emit o) := ⟨rfl⟩

theorem updLd (s : State) (i : Nat) (f : Ld → Ld) : Noted s (s.updLd i f) := ⟨rfl⟩

theorem stn (s : State) (a w n : Nat) : Noted s (s.stn a w n) := ⟨rfl⟩

theorem cnt (s : State) (ev : Nat) (sc : Scope) (n : Nat) : Noted s (s.cnt ev sc n) := ⟨by rw [(Counted.cnt s ev sc n).eq]⟩

theorem wakeLink (s : State) (h : Nat) : Noted s (s.wakeLink h) := ⟨by rw [State.wakeLink_eq]⟩

theorem msix (s : State) (i v : Nat) : Noted s (s.msix i v) := by
  unfold State.msix
  split
  · exact refl s
  · split
    · exact refl s
    · dsimp only
      split
      · exact updLd ..
      · exact (wakeLink ..).trans (emit ..)

theorem alertVector (old s : State) : Noted s (State.alertVector old s) := by
  unfold State.alertVector
  split
  · exact refl s
  · exact foldl _ s fun t i => msix t i 6

theorem logWrite (s : State) (code sev arg0 arg1 : Nat) (r : Route) : Noted s (s.logWrite code sev arg0 arg1 r) := by
  have hrec (b : Nat) (v₀ v₁ : Word) (v₂ v₃ v₄ : BitVec 64) : Noted s (((((s.setWord b v₀).setWord (b + 4) v₁).setDword (b + 8) v₂).setDword (b + 16) v₃).setDword (b + 24) v₄) :=
    ((((setWord ..).trans (setWord ..)).trans (setDword ..)).trans (setDword ..)).trans (setDword ..)
  have hlog : ∀ (t : State) (x : Nat) (m : Mgmt), Noted s t → Noted s { t.wr Reg.ALR_LOG_STATUS_NEXT x with mgmt := m } := fun t x m ht => (ht.trans (wr ..)).trans ⟨rfl⟩
  unfold State.logWrite
  dsimp only
  split
  · exact hlog _ _ _ ((hrec _ _ _ _ _ _).trans (wr ..))
  · exact hlog _ _ _ (hrec _ _ _ _ _ _)

theorem raise (s : State) (code arg0 arg1 : Nat) : Noted s (s.raise code arg0 arg1) := by
  have hnoted : Noted s (s.noteRaised code) := ⟨rfl⟩
  have hlog : Noted (s.noteRaised code) (match (if (evInfo code arg0).1 = 3 then none else (s.noteRaised code).mergeable code arg0) with
      | some e => (s.noteRaised code).sat (Reg.ALR_LOG_REPEAT e) 1
      | none => (s.noteRaised code).logWrite code (evInfo code arg0).1 arg0 arg1 (evInfo code arg0).2) := by
    split
    · exact wr ..
    · exact logWrite ..
  unfold State.raise
  dsimp only
  refine (hnoted.trans ?_).trans (alertVector ..)
  split
  · exact hlog.trans (setWord ..)
  · exact hlog

theorem tagFail (s : State) (line : Nat) (cls : SecClass) (sherd : Bool) : Noted s (s.tagFail line cls sherd) := by
  unfold State.tagFail
  dsimp only
  exact ((((((wr ..).trans (wr ..)).trans (wr ..)).trans (wr ..)).trans (cnt ..)).trans (stn ..)).trans (raise ..)

section Keeps
variable {s t : State} (h : Noted s t)
include h

theorem media : t.media = s.media := by rw [h.eq]
theorem sec : t.sec = s.sec := by rw [h.eq]
theorem regions : t.regions = s.regions := by rw [h.eq]
theorem dmc : t.dmc = s.dmc := by rw [h.eq]

end Keeps

end Noted

/-! ### Regions that may become LOST (R202) -/

/-- Regions without what says that they are LOST. -/
def unlost (l : Tbl Region) : Tbl Region := l.map (fun e => (e.1, { e.2 with lost := false }))

/-- A table whose values are each changed lists the changed values. -/
theorem look_mapValues {α β : Type} (t : Tbl α) (f : α → β) (k : Nat) : Tbl.look (t.map (fun e => (e.1, f e.2))) k = (Tbl.look t k).map f := by
  induction t with
  | nil => rfl
  | cons e t ih =>
    obtain ⟨j, y⟩ := e
    rw [List.map_cons]
    unfold Tbl.look
    split
    · rfl
    · exact ih

theorem look_unlost (l : Tbl Region) (i : Nat) : Tbl.look (unlost l) i = (Tbl.look l i).map (fun r => { r with lost := false }) :=
  look_mapValues l (fun r => ({ r with lost := false } : Region)) i

/-- A region that may have become LOST is otherwise as it was. -/
theorem look_of_unlost {l m : Tbl Region} {i : Nat} {r : Region} (h : unlost m = unlost l) (hr : Tbl.look l i = some r) : ∃ b, Tbl.look m i = some { r with lost := b } := by
  have hlook : (Tbl.look m i).map (fun r => { r with lost := false }) = some { r with lost := false } := by rw [← look_unlost, h, look_unlost, hr]; rfl
  obtain ⟨q, hq, heq⟩ := Option.map_eq_some_iff.1 hlook
  refine ⟨q.lost, hq.trans (congrArg some ?_)⟩
  cases q
  cases r
  simpa using heq

/-- Every region is as it was, but that some may have become LOST. -/
theorem unlost_map_lost (l : Tbl Region) (f : Nat × Region → Bool) : unlost (l.map (fun e => (e.1, if f e then { e.2 with lost := true } else e.2))) = unlost l := by
  simp only [unlost, List.map_map]
  refine List.map_congr_left fun e _ => ?_
  simp only [Function.comp_apply]
  split <;> rfl

/-- A state beside another as after events and losses: beside what an event changes, regions may have become LOST. -/
structure LossNoted (s t : State) : Prop where
  eq : t = { s with out := t.out, regs := t.regs, heads := t.heads, lds := t.lds, regions := t.regions, cat := t.cat, mgmt := t.mgmt }
  regions : unlost t.regions = unlost s.regions

namespace LossNoted

theorem refl (s : State) : LossNoted s s := ⟨rfl, rfl⟩

theorem trans {s t u : State} (h : LossNoted s t) (k : LossNoted t u) : LossNoted s u := ⟨by rw [k.eq, h.eq], k.regions.trans h.regions⟩

theorem foldl {α : Type} {f : State → α → State} (l : List α) (s : State) (hf : ∀ t x, LossNoted t (f t x)) : LossNoted s (l.foldl f s) := by
  induction l generalizing s with
  | nil => exact refl s
  | cons x l ih => exact (hf s x).trans (ih (f s x))

theorem ite {s t : State} {c : Prop} [Decidable c] (h : LossNoted s t) : LossNoted s (if c then t else s) := by
  split
  · exact h
  · exact refl s

theorem ofNoted {s t : State} (h : Noted s t) : LossNoted s t := ⟨by rw [h.eq], by rw [h.regions]⟩

theorem recordLoss (s : State) (space : Bool) (kind start : Nat) : LossNoted s (s.recordLoss space kind start) := by
  unfold State.recordLoss
  dsimp only
  refine trans ?_ (ofNoted (Noted.raise ..))
  split
  · exact ofNoted (Noted.setDword ..)
  · exact (⟨rfl, unlost_map_lost ..⟩ : LossNoted s _).trans (ofNoted (Noted.wr ..))

theorem checkTags (s : State) (p u : Nat) : LossNoted s (s.checkTags p u) := by
  unfold State.checkTags
  split
  · exact refl s
  · exact ite (recordLoss ..)

theorem checkPageTags (s : State) (p : Nat) : LossNoted s (s.checkPageTags p) := foldl _ s fun t u => checkTags t p u

section Keeps
variable {s t : State} (h : LossNoted s t)
include h

theorem media : t.media = s.media := by rw [h.eq]
theorem sec : t.sec = s.sec := by rw [h.eq]
theorem dmc : t.dmc = s.dmc := by rw [h.eq]

end Keeps

end LossNoted

/-! ### Admissions of the internal DMA source (R23, R24, R290) -/

/-- A state beside another as after an admission: the arbiter's round, the ticks of admissions, the governor's turns and the counters may differ. -/
structure Admitted (s t : State) : Prop where
  eq : t = { s with path := { s.path with rr := t.path.rr, lastDma := t.path.lastDma }, qos := t.qos, cat := t.cat }

theorem Admitted.dmaAdmit {s x : State} {slice : Nat} (h : s.dmaAdmit slice = some x) : Admitted s x := by
  unfold State.dmaAdmit at h
  split at h
  · cases h
  · split at h
    · cases h
      exact ⟨rfl⟩
    · cases h

theorem Admitted.govAdmit {s x : State} {slice : Nat} {k : GovTurn} (h : s.govAdmit slice k = some x) : Admitted s x := by
  unfold State.govAdmit at h
  split at h
  · cases h
  · obtain ⟨t, ht, rfl⟩ := Option.map_eq_some_iff.1 h
    have hadm := Admitted.dmaAdmit ht
    exact ⟨by rw [hadm.eq]; rfl⟩

section Keeps
variable {s t : State} (h : Admitted s t)
include h

theorem Admitted.media : t.media = s.media := by rw [h.eq]
theorem Admitted.sec : t.sec = s.sec := by rw [h.eq]
theorem Admitted.regions : t.regions = s.regions := by rw [h.eq]
theorem Admitted.dmc : t.dmc = s.dmc := by rw [h.eq]
theorem Admitted.place : t.place = s.place := by rw [h.eq]

end Keeps

/-! ### Work of the channels (R25, R210, R211) -/

/-- A state beside another as after reads have been sent and lines have entered the write queues: the channels, their registers and the number of the next read may differ. -/
structure Channels (s t : State) : Prop where
  eq : t = { s with regs := t.regs, dmc := t.dmc, path := { s.path with nextId := t.path.nextId } }

namespace Channels

theorem refl (s : State) : Channels s s := ⟨rfl⟩

theorem trans {s t u : State} (h : Channels s t) (k : Channels t u) : Channels s u := ⟨by rw [k.eq, h.eq]⟩

theorem foldl {α : Type} {f : State → α → State} (l : List α) (s : State) (hf : ∀ t x, Channels t (f t x)) : Channels s (l.foldl f s) := by
  induction l generalizing s with
  | nil => exact refl s
  | cons x l ih => exact (hf s x).trans (ih (f s x))

theorem updCh (s : State) (c : Nat) (f : Dmc → Dmc) : Channels s (s.updCh c f) := ⟨rfl⟩

theorem wr (s : State) (f : Reg.Fld) (x : Nat) : Channels s (s.wr f x) := ⟨by rw [State.wr_eq_withRegs]⟩

theorem sendRead (s : State) (c l : Nat) (why : RdWhy) (tier : Nat) (dl dpa : Option Nat) : Channels s (s.sendRead c l why tier dl dpa) := ⟨rfl⟩

theorem metaRead (s : State) (k : MetaKind) (n : Nat) (w : ReadFor) : Channels s (s.metaRead k n w) := by
  unfold State.metaRead
  dsimp only
  split
  · exact refl s
  · exact sendRead ..

theorem metaReads (s : State) (xs : List (MetaKind × Nat)) (w : ReadFor) : Channels s (s.metaReads xs w) := foldl _ s fun t e => metaRead t e.1 e.2 w

theorem setRank (s : State) (c lr : Nat) (x : RankState) : Channels s (s.setRank c lr x) := by
  unfold State.setRank State.wrBit
  exact ((updCh ..).trans (wr ..)).trans (wr ..)

theorem allOwed (s : State) (c lr : Nat) (f : Int → Int) : Channels s (s.allOwed c lr f) := foldl _ s fun t _ => foldl _ t fun u _ => updCh u c _

theorem wakeRank (s : State) (c lr : Nat) : Channels s (s.wakeRank c lr) := by
  unfold State.wakeRank
  split
  · exact refl s
  · exact refl s
  · exact (setRank ..).trans (updCh ..)
  · exact ((setRank ..).trans (updCh ..)).trans (allOwed ..)

theorem enqueueWrite (s : State) (c l : Nat) (data : BitVec 512) (be : BitVec 64) (poison : Bool) : Channels s (s.enqueueWrite c l data be poison) := by
  unfold State.enqueueWrite
  dsimp only
  refine trans ?_ (wakeRank ..)
  split
  · exact updCh ..
  · exact updCh ..

theorem storeLines (s : State) (c first : Nat) (xs : List Line) : Channels s (s.storeLines c first xs) := by
  unfold State.storeLines
  dsimp only
  refine trans ?_ (foldl _ _ fun t x => enqueueWrite t ..)
  split
  · exact refl s
  · exact updCh ..

section Keeps
variable {s t : State} (h : Channels s t)
include h

theorem media : t.media = s.media := by rw [h.eq]
theorem sec : t.sec = s.sec := by rw [h.eq]
theorem regions : t.regions = s.regions := by rw [h.eq]
theorem wcb : t.path.wcb = s.path.wcb := by rw [h.eq]

end Keeps

end Channels

/-! ### The queues of a channel -/

theorem State.ch_updCh_other (s : State) {c k : Nat} (f : Dmc → Dmc) (h : k ≠ c) : (s.updCh c f).ch k = s.ch k := Tbl.lookD_putD_other _ _ _ _ _ _ h

theorem State.ch_congr {s t : State} (h : t.dmc = s.dmc) (c : Nat) : t.ch c = s.ch c := by rw [State.ch, State.ch, h]

/-- A field of a channel that an update of any channel keeps. -/
theorem State.ch_updCh_field {α : Type} (g : Dmc → α) (s : State) (c k : Nat) (f : Dmc → Dmc) (hf : ∀ d, g (f d) = g d) : g ((s.updCh c f).ch k) = g (s.ch k) := by
  by_cases h : k = c
  · subst h
    rw [State.ch_updCh_same, hf]
  · rw [State.ch_updCh_other s f h]

/-- The channels are where they were when registers are written. -/
theorem State.ch_wr (s : State) (f : Reg.Fld) (x c : Nat) : (s.wr f x).ch c = s.ch c := by
  rw [State.wr_eq_withRegs]
  rfl

/-- A field of a channel that a loop keeps. -/
theorem State.ch_foldl {α β : Type} (g : Dmc → α) {f : State → β → State} (l : List β) (s : State) (k : Nat) (hf : ∀ t x, g ((f t x).ch k) = g (t.ch k)) : g ((l.foldl f s).ch k) = g (s.ch k) := by
  induction l generalizing s with
  | nil => rfl
  | cons x l ih => exact (ih (f s x)).trans (hf s x)

/-- A wake of a rank keeps every field of the channels but the ranks' states, their wake times and their owed refreshes. -/
theorem State.ch_wakeRank {α : Type} (g : Dmc → α) (hrank : ∀ d x, g { d with rank := x } = g d) (hwake : ∀ d x, g { d with wakeAt := x } = g d) (howed : ∀ d x, g { d with owed := x } = g d)
    (s : State) (c lr k : Nat) : g ((s.wakeRank c lr).ch k) = g (s.ch k) := by
  have hset : ∀ x, g ((s.setRank c lr x).ch k) = g (s.ch k) := fun x => by
    rw [State.setRank, State.wrBit, State.ch_wr, State.wrBit, State.ch_wr]
    exact State.ch_updCh_field g s c k _ fun d => hrank d _
  unfold State.wakeRank
  split
  · rfl
  · rfl
  · exact (State.ch_updCh_field g _ c k _ fun d => hwake d _).trans (hset _)
  · refine (State.ch_foldl g _ _ k fun t _ => State.ch_foldl g _ t k fun u _ => State.ch_updCh_field g u c k _ fun d => howed d _).trans ?_
    exact (State.ch_updCh_field g _ c k _ fun d => hwake d _).trans (hset _)

theorem State.wq_wakeRank (s : State) (c lr k : Nat) : ((s.wakeRank c lr).ch k).wq = (s.ch k).wq := State.ch_wakeRank Dmc.wq (fun _ _ => rfl) (fun _ _ => rfl) (fun _ _ => rfl) s c lr k

/-- Reads that are sent enter no write queue. -/
theorem State.wq_sendRead (s : State) (c l : Nat) (why : RdWhy) (tier : Nat) (dl dpa : Option Nat) (k : Nat) : ((s.sendRead c l why tier dl dpa).ch k).wq = (s.ch k).wq :=
  State.ch_updCh_field Dmc.wq s.newId c k _ fun _ => rfl

theorem State.wq_metaReads (s : State) (xs : List (MetaKind × Nat)) (w : ReadFor) (k : Nat) : ((s.metaReads xs w).ch k).wq = (s.ch k).wq := by
  refine State.ch_foldl Dmc.wq xs s k fun t e => ?_
  unfold State.metaRead
  dsimp only
  split
  · rfl
  · exact State.wq_sendRead ..

/-- The reads on their way to a channel, by their line and what they are for. -/
def State.flights (s : State) (c : Nat) : List (Nat × RdWhy) := (s.ch c).flying.map (fun r => (r.line, r.why))

theorem State.flights_sendRead_same (s : State) (c l : Nat) (why : RdWhy) (tier : Nat) (dl dpa : Option Nat) : (s.sendRead c l why tier dl dpa).flights c = s.flights c ++ [(l, why)] := by
  unfold State.flights State.sendRead
  dsimp only
  rw [State.ch_updCh_same, List.map_append]
  rfl

theorem State.flights_sendRead_other (s : State) {c k : Nat} (l : Nat) (why : RdWhy) (tier : Nat) (dl dpa : Option Nat) (h : k ≠ c) :
    (s.sendRead c l why tier dl dpa).flights k = s.flights k := by
  unfold State.flights State.sendRead
  dsimp only
  rw [State.ch_updCh_other _ _ h]
  rfl

/-- A loop that sends reads to one channel sends them in its order. -/
theorem State.flights_sendReads (s : State) (c tier : Nat) (dl dpa : Option Nat) (at' : Nat → Nat) (why : Nat → RdWhy) (l : List Nat) :
    (l.foldl (fun s i => s.sendRead c (at' i) (why i) tier dl dpa) s).flights c = s.flights c ++ l.map (fun i => (at' i, why i)) := by
  induction l generalizing s with
  | nil => simp
  | cons i l ih => rw [List.foldl_cons, ih, State.flights_sendRead_same, List.append_assoc, List.map_cons, List.singleton_append]

/-- The read of a metadata item is a read of a metadata line, or none. -/
theorem State.flights_metaRead (s : State) (k : MetaKind) (n : Nat) (w : ReadFor) (c : Nat) : ∃ tags, (s.metaRead k n w).flights c = s.flights c ++ tags ∧ ∀ y ∈ tags, isMeta y.2 = true := by
  unfold State.metaRead
  dsimp only
  split
  · exact ⟨[], by simp, by simp⟩
  · by_cases hc : c = (s.metaAddr k n).1
    · rw [hc, State.flights_sendRead_same]
      exact ⟨_, rfl, by simp [isMeta]⟩
    · rw [State.flights_sendRead_other _ _ _ _ _ _ hc]
      exact ⟨[], by simp, by simp⟩

theorem State.flights_metaReads (s : State) (xs : List (MetaKind × Nat)) (w : ReadFor) (c : Nat) : ∃ tags, (s.metaReads xs w).flights c = s.flights c ++ tags ∧ ∀ y ∈ tags, isMeta y.2 = true := by
  unfold State.metaReads
  induction xs generalizing s with
  | nil => exact ⟨[], by simp, by simp⟩
  | cons e xs ih =>
    obtain ⟨a, ha, hma⟩ := State.flights_metaRead s e.1 e.2 w c
    obtain ⟨b, hb, hmb⟩ := ih (s.metaRead e.1 e.2 w)
    refine ⟨a ++ b, by rw [List.foldl_cons, hb, ha, List.append_assoc], fun y hy => ?_⟩
    exact (List.mem_append.1 hy).elim (hma y) (hmb y)

end Sys2Proof.Machine
end

section
/-! The drains of the write-combining buffer and the overflow of a counter block (R73, R187, R189, R24, R25). -/
namespace Sys2Proof.Machine

/-! ### A line that enters a write queue (R74, R210) -/

/-- A whole line that enters an empty write queue is its only entry. -/
theorem State.wq_enqueueWrite_empty {s : State} {c : Nat} (l : Nat) (data : BitVec 512) (poison : Bool) (h : (s.ch c).wq = []) :
    ∃ a, ((s.enqueueWrite c l data (BitVec.allOnes 64) poison).ch c).wq = [{ line := l, data := data, poison := poison, arrival := s.tick, after := a }] := by
  have hnone : s.wqEntry c l = none := by rw [State.wqEntry, h]; rfl
  refine ⟨((s.ch c).rq.filter (fun (r : DramRd) => r.line == l)).map (fun (r : DramRd) => r.id), ?_⟩
  unfold State.enqueueWrite
  dsimp only
  rw [hnone, State.wq_wakeRank, State.ch_updCh_same, h]
  rfl

/-- A whole line is the write queue's data of its line from then on. -/
theorem State.wqEntry_enqueueWrite (s : State) (c l : Nat) (data : BitVec 512) (poison : Bool) :
    ∃ e, (s.enqueueWrite c l data (BitVec.allOnes 64) poison).wqEntry c l = some e ∧ e.part = none ∧ e.data = data ∧ e.poison = poison := by
  unfold State.enqueueWrite
  dsimp only
  rw [State.wqEntry, State.wq_wakeRank]
  split
  · next w hw =>
    have hline : w.line = l := by simpa using List.find?_some hw
    rw [State.ch_updCh_same, List.find?_map]
    have hsame : ∀ f : WrEnt → WrEnt, (∀ v, (f v).line = v.line) → (s.ch c).wq.find? ((fun e => e.line == l) ∘ f) = some w := fun f hf => by
      rw [← hw, State.wqEntry]
      congr 1
      funext v
      simp [hf]
    rw [hsame _ (fun v => by split <;> [split <;> rfl; rfl])]
    refine ⟨_, rfl, ?_⟩
    dsimp only
    rw [if_pos hline]
    split
    · next hpart => exact ⟨hpart, by simp [mergeBytes], by simp⟩
    · next old hpart => exact ⟨if_pos BitVec.or_allOnes, by simp [mergeBytes], by simp⟩
  · next hnone =>
    rw [State.wqEntry] at hnone
    rw [State.ch_updCh_same, List.find?_append, hnone]
    exact ⟨_, by simp; rfl, rfl, rfl, rfl⟩

theorem State.visible_of_wqEntry {s : State} {c l : Nat} {e : WrEnt} (h : s.wqEntry c l = some e) (hpart : e.part = none) : s.visible c l = { data := e.data, poison := e.poison } := by
  rw [State.visible, h]
  dsimp only
  rw [hpart]

/-- A line that is stored is what a read of it finds (R25). -/
theorem State.visible_storeLines_one (s : State) (c l : Nat) (y : Line) : (s.storeLines c l [y]).visible c l = y := by
  unfold State.storeLines
  dsimp only
  generalize (if (s.ch c).flying = [] then s else s.updCh c _) = u
  obtain ⟨e, he, hpart, hdata, hpoison⟩ := u.wqEntry_enqueueWrite c l y.data y.poison
  rw [List.zipIdx_singleton, List.foldl_cons, List.foldl_nil, Nat.add_zero, State.visible_of_wqEntry he hpart, hdata, hpoison]

/-! ### Drains (R73) -/

/-- A line does not drain at another slice, nor where its page is locked or moves. -/
theorem State.drainLine_none {s : State} {sl line : Nat}
    (h : s.isSafe = true ∨ sliceOfLine line ≠ sl ∨ s.wcb? line = none ∨ s.pageLocked (pageOf line) = true ∨ (s.acc (pageOf line)).isMigrating = true) : s.drainLine sl line = s := by
  unfold State.drainLine
  split
  · rfl
  · next w hw =>
    refine if_pos ?_
    rcases h with hc | hc | hc | hc | hc
    · simp [hc]
    · simp [hc]
    · rw [hw] at hc
      cases hc
    · simp [hc]
    · simp [hc]

/-- A full line of a HOT page that is due drains to its frame. -/
theorem State.drainLine_hot {s : State} {w : WcbLine} {c fr : Nat} {inc : Option Nat} (hsafe : s.isSafe = false) (hwcb : s.path.wcb = [w]) (hfull : w.be = BitVec.allOnes 64)
    (hidle : w.last + 16 ≤ s.tick) (hlock : s.pageLocked (pageOf w.line) = false) (hmove : (s.acc (pageOf w.line)).isMigrating = false) (hform : s.srcForm (pageOf w.line) = .hot c fr inc)
    (hguard : s.guard (pageOf w.line) = none) : s.drainLine (sliceOfLine w.line) w.line = s.drainHot w c fr := by
  have hfind : s.wcb? w.line = some w := by simp [State.wcb?, hwcb]
  have hdue : s.drainDue (sliceOfLine w.line) w = true := by
    have hle : 16 ≤ s.tick - w.last := by omega
    simp [State.drainDue, hfull, hle]
  have hlost : s.lineLost (pageOf w.line) (w.line % 64) = false := by simp only [State.lineLost, hguard]
  unfold State.drainLine
  rw [hfind]
  dsimp only
  rw [hsafe, hdue, hlock, hmove, hlost, hform]
  simp

/-- A full PLAIN line enters the write queue of its channel, and leaves the buffer. -/
theorem State.drainHot_plain {s : State} {w : WcbLine} {c fr : Nat} (hfull : w.be = BitVec.allOnes 64) (hguard : s.guard (pageOf w.line) = none) (hflying : (s.ch c).flying = []) (hwq : (s.ch c).wq = []) :
    ∃ u a, s.drainHot w c fr = u.wcbDrop w.line ∧ Channels s u
      ∧ (u.ch c).wq = [{ line := fr * 64 + w.line % 64, data := w.data, poison := w.poison, arrival := s.tick, after := a, t0 := w.writers.any (fun x => x.tier == 0) }] := by
  have hread : s.flyingRead c (fr * 64 + w.line % 64) = false := by simp [State.flyingRead, hflying]
  have hroom : s.wqRoom c (fr * 64 + w.line % 64) = true := by simp [State.wqRoom, State.wqOf, hwq]
  obtain ⟨a, ha⟩ := State.wq_enqueueWrite_empty (fr * 64 + w.line % 64) w.data w.poison hwq
  have hent := Channels.enqueueWrite s c (fr * 64 + w.line % 64) w.data (BitVec.allOnes 64) w.poison
  have hdrain : s.drainHot w c fr
      = if (((((s.enqueueWrite c (fr * 64 + w.line % 64) w.data (BitVec.allOnes 64) w.poison).wqT0 c (fr * 64 + w.line % 64) w).wcbDrop w.line)).wqEntry c (fr * 64 + w.line % 64)).any
            (fun e => e.part.isSome && e.mergeId.isNone)
        then ((((s.enqueueWrite c (fr * 64 + w.line % 64) w.data (BitVec.allOnes 64) w.poison).wqT0 c (fr * 64 + w.line % 64) w).wcbDrop w.line)).mergeRead c (fr * 64 + w.line % 64)
        else ((s.enqueueWrite c (fr * 64 + w.line % 64) w.data (BitVec.allOnes 64) w.poison).wqT0 c (fr * 64 + w.line % 64) w).wcbDrop w.line := by
    unfold State.drainHot
    dsimp only
    rw [hread, hroom, hguard, hfull]
    rfl
  generalize s.enqueueWrite c (fr * 64 + w.line % 64) w.data (BitVec.allOnes 64) w.poison = v at ha hent hdrain
  have hwq' : ((v.wqT0 c (fr * 64 + w.line % 64) w).ch c).wq
      = [{ line := fr * 64 + w.line % 64, data := w.data, poison := w.poison, arrival := s.tick, after := a, t0 := w.writers.any (fun x => x.tier == 0) }] := by
    unfold State.wqT0
    split
    · next ht =>
      rw [State.ch_updCh_same, ht]
      simp [ha]
    · next ht => rw [ha, Bool.eq_false_of_not_eq_true ht]
  have hchan : Channels s (v.wqT0 c (fr * 64 + w.line % 64) w) := by
    unfold State.wqT0
    split
    · exact hent.trans (Channels.updCh ..)
    · exact hent
  have hentry : (((v.wqT0 c (fr * 64 + w.line % 64) w).wcbDrop w.line).wqEntry c (fr * 64 + w.line % 64)).any (fun e => e.part.isSome && e.mergeId.isNone) = false := by
    have hq : (((v.wqT0 c (fr * 64 + w.line % 64) w).wcbDrop w.line).ch c).wq = ((v.wqT0 c (fr * 64 + w.line % 64) w).ch c).wq := rfl
    simp [State.wqEntry, hq, hwq']
  rw [hdrain, hentry]
  exact ⟨_, a, rfl, hchan, hwq'⟩

/-! ### The overflow of a counter block (R189) -/

/-- The tag lines of a page are read after the losses among them are recorded. -/
theorem State.readTags_eq (s : State) (p n : Nat) : ∃ u xs, s.readTags p n = u.metaReads xs ∧ LossNoted s u := by
  unfold State.readTags
  split
  · exact ⟨s, [], rfl, LossNoted.refl s⟩
  · exact ⟨_, _, rfl, LossNoted.checkPageTags s p⟩

/-- The lines of a page that an internal source reads and gathers. -/
def State.regather (s : State) (p : Nat) : State := { s with sec := { s.sec with gather := Tbl.del s.sec.gather p } }

theorem State.readPage_hot (s : State) (p c fr : Nat) (inc : Option Nat) :
    s.readPage p (.hot c fr inc) = (List.range 64).foldl (fun s i => s.sendRead c (fr * 64 + i) (.page p i) 3 none none) (s.regather p) := rfl

theorem Channels.readPage_hot (s : State) (p c fr : Nat) (inc : Option Nat) : Channels (s.regather p) (s.readPage p (.hot c fr inc)) := by
  rw [State.readPage_hot]
  exact Channels.foldl _ _ fun t i => Channels.sendRead t c (fr * 64 + i) (.page p i) 3 none none

theorem State.flights_readPage_hot (s : State) (p c fr : Nat) (inc : Option Nat) :
    (s.readPage p (.hot c fr inc)).flights c = s.flights c ++ (List.range 64).map (fun i => (fr * 64 + i, .page p i)) := by
  rw [State.readPage_hot]
  exact State.flights_sendReads (s.regather p) c 3 none none (fun i => fr * 64 + i) (fun i => .page p i) (List.range 64)

theorem State.wq_readPage_hot (s : State) (p c fr : Nat) (inc : Option Nat) (k : Nat) : ((s.readPage p (.hot c fr inc)).ch k).wq = (s.ch k).wq := by
  rw [State.readPage_hot]
  exact State.ch_foldl Dmc.wq (List.range 64) (s.regather p) k fun t i => State.wq_sendRead t c (fr * 64 + i) (.page p i) 3 none none k

/-- A HOT page and its tag lines are read: what this leaves, and what it sends. -/
theorem State.readPage_readTags_hot (s : State) (p c fr n : Nat) (inc : Option Nat) :
    ∃ u xs, (s.readPage p (.hot c fr inc)).readTags p n = u.metaReads xs ∧ LossNoted (s.readPage p (.hot c fr inc)) u ∧ (u.ch c).wq = (s.ch c).wq
      ∧ u.flights c = s.flights c ++ (List.range 64).map (fun i => (fr * 64 + i, .page p i)) := by
  obtain ⟨u, xs, hu, hloss⟩ := State.readTags_eq (s.readPage p (.hot c fr inc)) p n
  have hch : u.ch c = (s.readPage p (.hot c fr inc)).ch c := State.ch_congr hloss.dmc c
  have hflights : u.flights c = (s.readPage p (.hot c fr inc)).flights c := by rw [State.flights, State.flights, hch]
  exact ⟨u, xs, hu, hloss, by rw [hch, State.wq_readPage_hot], by rw [hflights, State.flights_readPage_hot]⟩

theorem State.overflowDone_none {s : State} {sl p : Nat} (h : ∀ k ∈ s.sec.locks, k.page ≠ p ∨ k.slice ≠ sl) : s.overflowDone sl p = s := by
  have hnone : s.sec.locks.find? (fun (l : PageLock) => l.page == p && l.slice == sl) = none := by
    refine List.find?_eq_none.2 fun k hk => ?_
    rcases h k hk with hne | hne
    · simp [hne]
    · simp [hne]
  unfold State.overflowDone
  rw [hnone]

section Lock
variable {s : State} {k : PageLock} (hlock : s.sec.locks = [k])
include hlock

theorem State.find_lock : s.sec.locks.find? (fun (l : PageLock) => l.page == k.page && l.slice == k.slice) = some k := by simp [hlock]

/-- The page of a HOT overflow is read by one admission. -/
theorem State.overflowDone_ask {x : State} {c fr : Nat} {inc : Option Nat} (hasked : k.asked = false) (hform : (s.acc k.page).form = .hot c fr inc) (hadmit : s.dmaAdmit k.slice = some x) :
    s.overflowDone k.slice k.page = ((x.readPage k.page (.hot c fr inc)).readTags k.page 64).updLock k.page (fun l => { l with asked := true }) := by
  unfold State.overflowDone
  rw [State.find_lock hlock]
  dsimp only
  rw [hasked, hadmit, hform]
  rfl

/-- The lines of a HOT overflow that are back are sealed. -/
theorem State.overflowDone_seal {c fr : Nat} {inc : Option Nat} {xs : List Line} (hasked : k.asked = true) (htodo : k.todo = none) (hform : (s.acc k.page).form = .hot c fr inc)
    (hread : s.pageRead k.page 64 = some xs) (htags : s.tagsPending k.page 64 = false) : s.overflowDone k.slice k.page = s.overflowSeal k xs := by
  unfold State.overflowDone
  rw [State.find_lock hlock]
  dsimp only
  rw [hasked, htodo, hform, htags, hread]
  rfl

/-- The last line of an overflow is stored by an admission, and the lock ends. -/
theorem State.overflowDone_last {x u : State} {i : Nat} {y : Line} (hasked : k.asked = true) (htodo : k.todo = some [(i, y)]) (hadmit : s.dmaAdmit k.slice = some x)
    (hstore : x.overflowStore k.page i y = some u) : s.overflowDone k.slice k.page = u.unlock k.page := by
  unfold State.overflowDone
  rw [State.find_lock hlock]
  dsimp only
  rw [hasked, htodo, hadmit]
  dsimp only
  rw [hstore]
  rfl

end Lock

/-- A line of a HOT page's overflow enters the write queue of its frame, where that has room. -/
theorem State.overflowStore_hot {s : State} {p c fr i : Nat} {inc : Option Nat} (y : Line) (hform : (s.acc p).form = .hot c fr inc) (hroom : s.wqRoom c (fr * 64 + i) = true) :
    s.overflowStore p i y = some (s.storeLines c (fr * 64 + i) [y]) := by
  unfold State.overflowStore
  rw [hform]
  exact if_pos hroom

theorem State.visible_unlock (s : State) (p c l : Nat) : (s.unlock p).visible c l = s.visible c l := rfl

/-- The entry of a page is where it was after an admission. -/
theorem Admitted.acc {s t : State} (h : Admitted s t) (p : Nat) : t.acc p = s.acc p := by
  rw [h.eq]
  rfl

/-- A loop that adds a line in each round, and records only events, adds as many lines as it has rounds. -/
theorem Noted.foldl_lines {β : Type} {f : List Line × State → β → List Line × State} (hf : ∀ acc e, (∃ y, (f acc e).1 = acc.1 ++ [y]) ∧ Noted acc.2 (f acc e).2) (l : List β) (acc : List Line × State) :
    (l.foldl f acc).1.length = acc.1.length + l.length ∧ Noted acc.2 (l.foldl f acc).2 := by
  induction l generalizing acc with
  | nil => exact ⟨rfl, Noted.refl _⟩
  | cons e l ih =>
    obtain ⟨⟨y, hy⟩, hnoted⟩ := hf acc e
    obtain ⟨hlen, hrest⟩ := ih (f acc e)
    refine ⟨?_, hnoted.trans hrest⟩
    simp only [List.foldl_cons, hlen, hy, List.length_append, List.length_cons, List.length_nil]
    omega

/-- The lines of a page under overflow: as many as were read, with an event for each that fails its tag. -/
theorem State.restored_noted (s : State) (p : Nat) (g : Guard) (b : BitVec 512) (i : Nat) (x : Line) (stored : List Line) :
    (s.restored p g b i x stored).1.length = stored.length ∧ Noted s (s.restored p g b i x stored).2 := by
  have h := Noted.foldl_lines (f := fun (acc : List Line × State) (e : Line × Nat) =>
    if e.2 = i then (acc.1 ++ [x], acc.2)
    else if s.lineLost p e.2 then (acc.1 ++ [{ e.1 with poison := true }], acc.2)
    else match acc.2.openLine g p e.2 b e.1 with
      | some y => (acc.1 ++ [y], acc.2)
      | none => (acc.1 ++ [{ e.1 with poison := true }], acc.2.tagFail (p * 64 + e.2) (s.clsOf p) false)) (fun acc e => by
    split
    · exact ⟨⟨_, rfl⟩, Noted.refl _⟩
    · split
      · exact ⟨⟨_, rfl⟩, Noted.refl _⟩
      · split
        · exact ⟨⟨_, rfl⟩, Noted.refl _⟩
        · exact ⟨⟨_, rfl⟩, Noted.tagFail ..⟩) stored.zipIdx ([], s)
  rw [List.length_zipIdx, List.length_nil, Nat.zero_add] at h
  exact h

/-- A state beside another as after lines have been sealed: line tags, and the metadata lines that are due for them, may differ. -/
structure Tagged (s t : State) : Prop where
  eq : t = { s with sec := { s.sec with lineTags := t.sec.lineTags, due := t.sec.due } }

theorem Tagged.refl (s : State) : Tagged s s := ⟨rfl⟩

theorem Tagged.trans {s t u : State} (h : Tagged s t) (k : Tagged t u) : Tagged s u := ⟨by rw [k.eq, h.eq]⟩

theorem Tagged.sealAll (s : State) (g : Guard) (use : Nat) (minor : Nat → Nat) (major p i : Nat) (xs : List Line) :
    (s.sealAll g use minor major p i xs).1.length = xs.length ∧ Tagged s (s.sealAll g use minor major p i xs).2 := by
  induction xs generalizing s i with
  | nil => exact ⟨rfl, Tagged.refl s⟩
  | cons x xs ih =>
    obtain ⟨hlen, htagged⟩ := ih (s.sealWith g i use (minor i) major (p * 64 + i) x).2 (i + 1)
    unfold State.sealAll
    exact ⟨congrArg (· + 1) hlen, (⟨rfl⟩ : Tagged s _).trans htagged⟩

theorem State.pageRead_length {s : State} {p n : Nat} {xs : List Line} (h : s.pageRead p n = some xs) : xs.length = n := by
  unfold State.pageRead at h
  dsimp only at h
  split at h
  · cases h
    simp
  · cases h

/-- The sealed lines of an overflow wait to be stored, one by one. -/
theorem State.overflowSeal_todo {s : State} {k : PageLock} {g : Guard} {xs : List Line} (hlock : s.sec.locks = [k]) (hguard : s.guard k.page = some g) (hlen : xs.length = 64) :
    ∃ l, (s.overflowSeal k xs).sec.locks = [{ k with todo := some l }] ∧ l.map (fun e => e.1) = List.range 64 ∧ (s.overflowSeal k xs).sec.cache = s.sec.cache ∧ (s.overflowSeal k xs).media = s.media := by
  obtain ⟨hlen₁, hnoted⟩ := s.restored_noted k.page g k.old (k.line % 64) k.drained xs
  unfold State.overflowSeal
  rw [hguard]
  dsimp only
  generalize s.restored k.page g k.old (k.line % 64) k.drained xs = r at hlen₁ hnoted
  obtain ⟨hlen₂, htagged⟩ := Tagged.sealAll r.2 g 0 (blkMinor (majorOnly (blkMajor k.old + 1))) (blkMajor (majorOnly (blkMajor k.old + 1))) k.page 0 r.1
  generalize r.2.sealAll g 0 (blkMinor (majorOnly (blkMajor k.old + 1))) (blkMajor (majorOnly (blkMajor k.old + 1))) k.page 0 r.1 = q at hlen₂ htagged
  have hsec : q.2.sec.locks = [k] ∧ q.2.sec.cache = s.sec.cache ∧ q.2.media = s.media := by
    rw [htagged.eq]
    exact ⟨by rw [hnoted.sec, hlock], by rw [hnoted.sec], hnoted.media⟩
  obtain ⟨hlocks, hcache, hmedia⟩ := hsec
  refine ⟨(q.1.zipIdx).map (fun (e : Line × Nat) => (e.2, e.1)), ?_, ?_, hcache, hmedia⟩
  · show q.2.sec.locks.map _ = _
    rw [hlocks]
    simp only [List.map_cons, List.map_nil, if_true]
  · rw [List.map_map]
    show (q.1.zipIdx).map Prod.snd = _
    rw [List.zipIdx_map_snd, List.range_eq_range', hlen₂, hlen₁, hlen]

end Sys2Proof.Machine
end

section
/-! The counter cache and the Vitrine tree: fetches, writebacks and node overflows (R192 to R195). -/
namespace Sys2Proof.Machine

/-! ### Stored blocks and tree tags (R191) -/

/-- A state beside another as after work of SEC on its own data. -/
structure SecOnly (s t : State) : Prop where
  eq : t = { s with sec := t.sec }

theorem SecOnly.trans {s t u : State} (h : SecOnly s t) (k : SecOnly t u) : SecOnly s u := ⟨by rw [k.eq, h.eq]⟩

/-- The copies of a block or node after it has been stored. -/
def storedIn (t : Tbl (BitVec 512)) (space : Bool) (level node : Nat) (b : BitVec 512) : Tbl (BitVec 512) :=
  if space && (level == 2 || level == 3) then Tbl.putD (Tbl.putD t 0 (storeKey space level 0 node) b) 0 (storeKey space level 1 node) b else Tbl.putD t 0 (storeKey space level 0 node) b

/-- The copies of a tree tag after it has been written. -/
def taggedIn (t : Tbl (BitVec 64)) (level node : Nat) (x : BitVec 64) : Tbl (BitVec 64) :=
  if level == 2 || level == 3 then Tbl.putD (Tbl.putD t 0 (storeKey true level 0 node) x) 0 (storeKey true level 1 node) x else Tbl.putD t 0 (storeKey true level 0 node) x

theorem State.store_eq (s : State) (space : Bool) (level node : Nat) (b : BitVec 512) :
    ∃ due, s.store space level node b = { s with sec := { s.sec with store := storedIn s.sec.store space level node b, due := due } } := by
  unfold State.store storedIn
  dsimp only
  split
  · exact ⟨_, rfl⟩
  · exact ⟨_, rfl⟩

theorem State.putTag_eq (s : State) (level node : Nat) (x : BitVec 64) :
    ∃ due, s.putTag level node x = { s with sec := { s.sec with treeTags := taggedIn s.sec.treeTags level node x, due := due } } := by
  unfold State.putTag taggedIn
  dsimp only
  split
  · exact ⟨_, rfl⟩
  · exact ⟨_, rfl⟩

/-- A table with up to two keys given one value: the keys read as it, and every other key as before. -/
theorem lookD_putD_twice {α : Type} [DecidableEq α] (t : Tbl α) (d x : α) (twice : Bool) (a b j : Nat) :
    Tbl.lookD (if twice then Tbl.putD (Tbl.putD t d a x) d b x else Tbl.putD t d a x) d j = if j = a ∨ (twice = true ∧ j = b) then x else Tbl.lookD t d j := by
  by_cases ha : j = a
  · subst ha
    cases twice
    · simp
    · by_cases hb : j = b
      · subst hb
        simp
      · simp [Tbl.lookD_putD_other _ _ _ _ _ _ hb]
  · cases twice
    · simp [ha, Tbl.lookD_putD_other _ _ _ _ _ _ ha]
    · by_cases hb : j = b
      · subst hb
        simp
      · simp [ha, hb, Tbl.lookD_putD_other _ _ _ _ _ _ ha, Tbl.lookD_putD_other _ _ _ _ _ _ hb]

theorem lookD_storedIn (t : Tbl (BitVec 512)) (space : Bool) (level node j : Nat) (b : BitVec 512) : Tbl.lookD (storedIn t space level node b) 0 j
    = if j = storeKey space level 0 node ∨ ((space && (level == 2 || level == 3)) = true ∧ j = storeKey space level 1 node) then b else Tbl.lookD t 0 j := lookD_putD_twice ..

theorem lookD_taggedIn (t : Tbl (BitVec 64)) (level node j : Nat) (x : BitVec 64) : Tbl.lookD (taggedIn t level node x) 0 j
    = if j = storeKey true level 0 node ∨ ((level == 2 || level == 3) = true ∧ j = storeKey true level 1 node) then x else Tbl.lookD t 0 j := lookD_putD_twice ..

/-- The keys of the copies of one level are apart. -/
theorem storeKey_inj {space : Bool} {level c d m n : Nat} (hc : c ≤ 1) (hd : d ≤ 1) : storeKey space level c m = storeKey space level d n ↔ c = d ∧ m = n := by
  unfold storeKey
  cases space <;> simp <;> omega

section Copies
variable (s : State) (level node : Nat) (b : BitVec 512) (x : BitVec 64)

theorem State.stored_store (space sp : Bool) (l c n : Nat) : (s.store space level node b).stored sp l c n
    = if storeKey sp l c n = storeKey space level 0 node ∨ ((space && (level == 2 || level == 3)) = true ∧ storeKey sp l c n = storeKey space level 1 node) then b else s.stored sp l c n := by
  obtain ⟨due, hstore⟩ := s.store_eq space level node b
  rw [hstore]
  exact lookD_storedIn ..

theorem State.tagAt_putTag (l c n : Nat) : (s.putTag level node x).tagAt l c n
    = if storeKey true l c n = storeKey true level 0 node ∨ ((level == 2 || level == 3) = true ∧ storeKey true l c n = storeKey true level 1 node) then x else s.tagAt l c n := by
  obtain ⟨due, hput⟩ := s.putTag_eq level node x
  rw [hput]
  exact lookD_taggedIn ..

/-- A store reads back as copy A. -/
@[simp] theorem State.stored_store_A (space : Bool) : (s.store space level node b).stored space level 0 node = b := by
  rw [State.stored_store, if_pos (.inl rfl)]

/-- A store at levels 2 and 3 of the tree reads back as copy B. -/
theorem State.stored_store_B (h : level = 2 ∨ level = 3) : (s.store true level node b).stored true level 1 node = b := by
  rw [State.stored_store, if_pos (.inr ⟨by simpa using h, rfl⟩)]

@[simp] theorem State.tagAt_putTag_A : (s.putTag level node x).tagAt level 0 node = x := by
  rw [State.tagAt_putTag, if_pos (.inl rfl)]

theorem State.tagAt_putTag_B (h : level = 2 ∨ level = 3) : (s.putTag level node x).tagAt level 1 node = x := by
  rw [State.tagAt_putTag, if_pos (.inr ⟨by simpa using h, rfl⟩)]

/-- A store of one node is none of another. -/
theorem State.stored_store_other {c n : Nat} (hc : c ≤ 1) (h : n ≠ node) : (s.store true level node b).stored true level c n = s.stored true level c n := by
  rw [State.stored_store, if_neg]
  rw [storeKey_inj hc (by decide), storeKey_inj hc (by decide)]
  omega

theorem State.tagAt_putTag_other {c n : Nat} (hc : c ≤ 1) (h : n ≠ node) : (s.putTag level node x).tagAt level c n = s.tagAt level c n := by
  rw [State.tagAt_putTag, if_neg]
  rw [storeKey_inj hc (by decide), storeKey_inj hc (by decide)]
  omega

@[simp] theorem State.tagAt_store (space : Bool) (l c n : Nat) : (s.store space level node b).tagAt l c n = s.tagAt l c n := by
  obtain ⟨due, hstore⟩ := s.store_eq space level node b
  rw [hstore]
  rfl

@[simp] theorem State.stored_putTag (sp : Bool) (l c n : Nat) : (s.putTag level node x).stored sp l c n = s.stored sp l c n := by
  obtain ⟨due, hput⟩ := s.putTag_eq level node x
  rw [hput]
  rfl

@[simp] theorem State.root_store (space : Bool) (r : Nat) : (s.store space level node b).root r = s.root r := by
  obtain ⟨due, hstore⟩ := s.store_eq space level node b
  rw [hstore]
  rfl

@[simp] theorem State.root_putTag (r : Nat) : (s.putTag level node x).root r = s.root r := by
  obtain ⟨due, hput⟩ := s.putTag_eq level node x
  rw [hput]
  rfl

theorem SecOnly.store (space : Bool) : SecOnly s (s.store space level node b) := by
  obtain ⟨due, hstore⟩ := s.store_eq space level node b
  exact ⟨by rw [hstore]⟩

theorem SecOnly.putTag : SecOnly s (s.putTag level node x) := by
  obtain ⟨due, hput⟩ := s.putTag_eq level node x
  exact ⟨by rw [hput]⟩

@[simp] theorem State.root_setRoot (r : Nat) : (s.setRoot r b).root r = b := Tbl.lookD_putD_same ..

end Copies

/-- A tree tag is made with the key of the tree alone. -/
theorem State.treeTag_congr {s t : State} (h : t.sec.kr = s.sec.kr) (parent : BitVec 512) (level node : Nat) (b : BitVec 512) : t.treeTag parent level node b = s.treeTag parent level node b := by
  simp only [State.treeTag, h]

/-! ### Fetches (R192) -/

theorem State.ctrFetched_none {s : State} {space : Bool} {q : Nat} (h : s.isSafe = true ∨ s.secPage space q = false ∨ (s.cached space 0 q).isSome = true ∨ (space = true ∧ s.pathHeld q = true)
    ∨ s.itemsPending (s.pathItems space q) = true ∨ (ctrKey space 0 q ∉ s.sec.asked ∧ ∀ x ∈ s.path.txns, x.phase ≠ .ctr)) : s.ctrFetched space q = s := by
  unfold State.ctrFetched
  refine if_pos ?_
  rcases h with hc | hc | hc | ⟨hc, hd⟩ | hc | ⟨hc, hd⟩
  · simp [hc]
  · simp [hc]
  · simp [hc]
  · simp [hc, hd]
  · simp [hc]
  · have hnone : ∀ p : Txn → Bool, (∀ t, t.phase ≠ .ctr → p t = false) → s.path.txns.any p = false := fun p hp => List.any_eq_false.2 fun t ht => by simp [hp t (hd t ht)]
    rw [hnone _ (fun t ht => by simp [ht])]
    simp [hc]

/-- A block of the S-space whose read is back enters the cache, and the request that waited for it goes on. -/
theorem State.ctrFetched_sealed {s : State} {q : Nat} {x : Txn} {g : Guard} (hsafe : s.isSafe = false) (hpage : s.secPage false q = true) (hnone : s.cached false 0 q = none)
    (hback : s.itemsPending (s.pathItems false q) = false) (hblock : s.blockLost false q = false) (hmeta : s.metaLost q = false) (htxns : s.path.txns = [x]) (hphase : x.phase = .ctr)
    (hguard : s.guard x.req.page = some g) (hspace : g.space = false) (hq : g.q = q) :
    s.ctrFetched false q = { (s.unask false 0 q).cache false 0 q (s.stored false 0 0 q) false with path := { s.path with txns := [{ x with phase := .queued }] } } := by
  have hfetch : (s.unask false 0 q).fetchCtr false q = ((s.unask false 0 q).cache false 0 q (s.stored false 0 0 q) false, true) := by
    unfold State.fetchCtr
    rw [show (s.unask false 0 q).cached false 0 q = none from hnone, show (s.unask false 0 q).blockLost false q = false from hblock, show (s.unask false 0 q).metaLost q = false from hmeta]
    rfl
  unfold State.ctrFetched
  dsimp only
  rw [if_neg (by simp [hsafe, hpage, hnone, hback, htxns, hphase, hguard, hspace, hq]), hfetch]
  refine congrArg (fun ts => ({ (s.unask false 0 q).cache false 0 q (s.stored false 0 0 q) false with path := { s.path with txns := ts } } : State)) ?_
  show List.map _ s.path.txns = _
  rw [htxns]
  simp [hphase, hguard, hspace, hq]

/-! ### Writebacks (R193) -/

theorem State.ctrBack_none {s : State} {space evict : Bool} {level node : Nat} (h : s.isSafe = true ∨ (evict = false ∧ (s.dutyUp 6 = false ∨ s.permits .tree = false))
    ∨ (space = true ∧ ∃ n ∈ s.sec.nodeOvf, n.level = level ∧ n.node = node) ∨ (∀ x, Tbl.look s.sec.cache (ctrKey space level node) = some x → x.dirty = false)) :
    s.ctrBack space level node evict = s := by
  unfold State.ctrBack
  split
  · rfl
  · next x hx =>
    refine if_pos ?_
    rcases h with hc | ⟨hc, hd | hd⟩ | ⟨hc, n, hn, hl, hm⟩ | hc
    · simp [hc]
    · simp [hc, hd]
    · simp [hc, hd]
    · have hany : s.sec.nodeOvf.any (fun (n : NodeOvf) => n.level == level && n.node == node) = true := List.any_eq_true.2 ⟨n, hn, by simp [hl, hm]⟩
      simp [hc, hany]
    · simp [hc x hx]

/-- A dirty block or node, once it is admitted, is written back. -/
theorem State.ctrBack_writes {s x : State} {space evict : Bool} {level node : Nat} {b : CacheBlk} (hsafe : s.isSafe = false) (hmay : evict = true ∨ (s.dutyUp 6 = true ∧ s.permits .tree = true))
    (hlook : Tbl.look s.sec.cache (ctrKey space level node) = some b) (hdirty : b.dirty = true) (hlevel : level ≤ 3) (hspace : space = true ∨ level = 0)
    (hovf : space = true → ∀ n ∈ s.sec.nodeOvf, n.level ≠ level ∨ n.node ≠ node)
    (hadmit : (if evict = true then s.dmaAdmit (s.cacheSlice space level node) else s.govAdmit (s.cacheSlice space level node) .tree) = some x) :
    s.ctrBack space level node evict = x.writeNode space level node b := by
  have hnone : (space && s.sec.nodeOvf.any (fun (n : NodeOvf) => n.level == level && n.node == node)) = false := by
    cases space
    · rfl
    · refine List.any_eq_false.2 fun n hn => ?_
      rcases hovf rfl n hn with hne | hne
      · simp [hne]
      · simp [hne]
  have hflat : (!space && decide (0 < level)) = false := by
    rcases hspace with hs | hl
    · simp [hs]
    · simp [hl]
  have hgov : (!evict && (!s.dutyUp 6 || !s.permits .tree)) = false := by
    rcases hmay with he | ⟨hd, hp⟩
    · simp [he]
    · simp [hd, hp]
  unfold State.ctrBack
  rw [hlook]
  dsimp only
  rw [hsafe, hdirty, hnone, hflat, hgov, hadmit, decide_eq_false (by omega : ¬ 3 < level)]
  rfl

/-- An admission, for an evicted block or a governed one. -/
theorem Admitted.ofEither {s x : State} {slice : Nat} {c : Prop} [Decidable c] {k : GovTurn} (h : (if c then s.dmaAdmit slice else s.govAdmit slice k) = some x) : Admitted s x := by
  split at h
  · exact Admitted.dmaAdmit h
  · exact Admitted.govAdmit h

/-- A block of the S-space is stored, and leaves the cache. -/
theorem State.writeNode_sealed (s : State) (node : Nat) (b : CacheBlk) : s.writeNode false 0 node b = (s.store false 0 node b.blk).uncache false 0 node := rfl

/-- A node under a root block is stored under the root's advanced counter. -/
theorem State.writeNode_underRoot {s : State} {node : Nat} (b : CacheBlk) (hminor : blkMinor (s.root (node / 64)) (node % 64) < 127) :
    s.writeNode true 3 node b = s.backUnder 3 node b.blk (s.root (node / 64)) := by
  unfold State.writeNode
  rw [if_neg (by simp)]
  simp only [if_true, State.parentBlk, hminor]

@[simp] theorem State.cached_uncache (s : State) (space : Bool) (level node : Nat) : (s.uncache space level node).cached space level node = none := by
  simp [State.cached, State.uncache]

@[simp] theorem State.root_uncache (s : State) (space : Bool) (level node r : Nat) : (s.uncache space level node).root r = s.root r := rfl

@[simp] theorem State.stored_uncache (s : State) (space sp : Bool) (level node l c n : Nat) : (s.uncache space level node).stored sp l c n = s.stored sp l c n := rfl

@[simp] theorem State.tagAt_uncache (s : State) (space : Bool) (level node l c n : Nat) : (s.uncache space level node).tagAt l c n = s.tagAt l c n := rfl

theorem SecOnly.backUnder (s : State) (node : Nat) (b par : BitVec 512) : SecOnly s (s.backUnder 3 node b par) := by
  unfold State.backUnder
  dsimp only
  exact (((⟨rfl⟩ : SecOnly s _).trans (SecOnly.store ..)).trans (SecOnly.putTag ..)).trans ⟨rfl⟩

/-- A node under a root block: the root's counter, both copies, and their tags. -/
theorem State.backUnder_root (s : State) (node : Nat) (b par : BitVec 512) {t : State} (ht : s.backUnder 3 node b par = t) :
    t.root (node / 64) = setMinor par (node % 64) (blkMinor par (node % 64) + 1) ∧ t.stored true 3 0 node = b ∧ t.stored true 3 1 node = b
      ∧ t.tagAt 3 0 node = s.treeTag (t.root (node / 64)) 3 node b ∧ t.tagAt 3 1 node = t.tagAt 3 0 node ∧ t.cached true 3 node = none := by
  subst ht
  have htag : ∀ p : BitVec 512, (s.setRoot (node / 64) p).treeTag p 3 node b = s.treeTag p 3 node b := fun p => State.treeTag_congr rfl ..
  unfold State.backUnder State.setParent
  dsimp only
  rw [if_pos rfl, htag]
  simp [State.stored_store_B, State.tagAt_putTag_B]

/-! ### The end of a node overflow (R194) -/

/-- The only overflow of a node is the one that ends. -/
theorem State.find_nodeOvf {s : State} {n : NodeOvf} (hmem : n ∈ s.sec.nodeOvf) (honly : ∀ m ∈ s.sec.nodeOvf, m.level = n.level → m.node = n.node → m = n) :
    s.sec.nodeOvf.find? (fun (m : NodeOvf) => m.level == n.level && m.node == n.node) = some n := by
  obtain ⟨m, hm⟩ := Option.isSome_iff_exists.1 (List.find?_isSome.2 ⟨n, hmem, by simp⟩ : (s.sec.nodeOvf.find? (fun (m : NodeOvf) => m.level == n.level && m.node == n.node)).isSome)
  have hfound := List.find?_some hm
  simp only [Bool.and_eq_true, beq_iff_eq] at hfound
  rw [hm, honly m (List.mem_of_find?_eq_some hm) hfound.1 hfound.2]

theorem State.nodeOvfDone_none {s : State} {level node : Nat} (h : ∀ n ∈ s.sec.nodeOvf, n.level ≠ level ∨ n.node ≠ node) : s.nodeOvfDone level node = s := by
  have hnone : s.sec.nodeOvf.find? (fun (n : NodeOvf) => n.level == level && n.node == node) = none := by
    refine List.find?_eq_none.2 fun n hn => ?_
    rcases h n hn with hne | hne
    · simp [hne]
    · simp [hne]
  unfold State.nodeOvfDone
  rw [hnone]

/-- A node overflow waits while its reads are under way. -/
theorem State.nodeOvfDone_waits {s : State} {n : NodeOvf} (hfind : s.sec.nodeOvf.find? (fun (m : NodeOvf) => m.level == n.level && m.node == n.node) = some n)
    (hreads : s.itemsPending (overflowItems (n.level - 1) n.node n.old) = true) : s.nodeOvfDone n.level n.node = s := by
  unfold State.nodeOvfDone
  rw [hfind]
  exact if_pos hreads

/-- A child of a node can be re-tagged: its block and its tag read, no loss covers it, and it is unformatted or carries its tag under the old counters. -/
structure Retaggable (s : State) (level n : Nat) (old : BitVec 512) : Prop where
  block : s.metaLost n = false
  tagLine : s.metaLost (n / 8) = false
  whole : s.blockLost true (n * 64 ^ level) = false
  good : unformatted old (n % 64) = true ∨ s.tagAt level 0 n = s.treeTag old level n (s.stored true level 0 n)

/-- A state beside another as after children of a level have been re-tagged: nothing but stored copies, tree tags and the metadata lines that are due for them differs. -/
structure Retagged (s t : State) : Prop where
  eq : t = { s with sec := { s.sec with store := t.sec.store, treeTags := t.sec.treeTags, due := t.sec.due } }

theorem Retagged.refl (s : State) : Retagged s s := ⟨rfl⟩

theorem Retagged.trans {s t u : State} (h : Retagged s t) (k : Retagged t u) : Retagged s u := ⟨by rw [k.eq, h.eq]⟩

theorem Retagged.store (s : State) (level n : Nat) (b : BitVec 512) : Retagged s (s.store true level n b) := by
  obtain ⟨due, hstore⟩ := s.store_eq true level n b
  exact ⟨by rw [hstore]⟩

theorem Retagged.putTag (s : State) (level n : Nat) (x : BitVec 64) : Retagged s (s.putTag level n x) := by
  obtain ⟨due, hput⟩ := s.putTag_eq level n x
  exact ⟨by rw [hput]⟩

section Keeps
variable {s t : State} (h : Retagged s t)
include h

theorem Retagged.treeTag (parent : BitVec 512) (level n : Nat) (b : BitVec 512) : t.treeTag parent level n b = s.treeTag parent level n b := State.treeTag_congr (by rw [h.eq]) ..

theorem Retagged.metaLost (n : Nat) : t.metaLost n = s.metaLost n := by
  rw [h.eq]
  rfl

theorem Retagged.blockLost (q : Nat) : t.blockLost true q = s.blockLost true q := by
  rw [h.eq]
  rfl

end Keeps

/-- A child that can be re-tagged carries its tag under the new counters afterwards, and no other child changes. -/
theorem State.retagChild_spec {s : State} {level n : Nat} {old : BitVec 512} (new : BitVec 512) (h : Retaggable s level n old) :
    Retagged s (s.retagChild level n old new) ∧ (s.retagChild level n old new).tagAt level 0 n = s.treeTag new level n ((s.retagChild level n old new).stored true level 0 n)
      ∧ ∀ m, m ≠ n → (s.retagChild level n old new).tagAt level 0 m = s.tagAt level 0 m ∧ (s.retagChild level n old new).stored true level 0 m = s.stored true level 0 m := by
  obtain ⟨hblock, htagLine, hwhole, hgood⟩ := h
  unfold State.retagChild
  dsimp only
  by_cases hnew : s.tagAt level 0 n = s.treeTag new level n (s.stored true level 0 n)
  · rw [if_pos (by simp [hnew])]
    exact ⟨Retagged.refl s, hnew, fun m _ => ⟨rfl, rfl⟩⟩
  · rw [if_neg (by simp [hnew, hwhole])]
    by_cases hun : unformatted old (n % 64) = true
    · rw [if_pos hun]
      refine ⟨(Retagged.store ..).trans (Retagged.putTag ..), by simp, fun m hm => ⟨?_, ?_⟩⟩
      · rw [State.tagAt_putTag_other _ _ _ _ (by decide) hm, State.tagAt_store]
      · rw [State.stored_putTag, State.stored_store_other _ _ _ _ (by decide) hm]
    · rw [if_neg hun, if_pos (by simp [hblock, htagLine, hgood.resolve_left hun])]
      refine ⟨Retagged.putTag .., by simp, fun m hm => ⟨?_, ?_⟩⟩
      · rw [State.tagAt_putTag_other _ _ _ _ (by decide) hm]
      · rw [State.stored_putTag]

theorem State.retag_eq (s : State) (level parent : Nat) (old new : BitVec 512) :
    s.retag level parent old new = (List.range 64).foldl (fun s j => s.retagChild level (parent * 64 + j) old new) s := rfl

/-- The children of a node below one are re-tagged, and the others are as they were. -/
theorem State.retag_spec {s : State} {level parent : Nat} {old : BitVec 512} (new : BitVec 512) (h : ∀ j, j < 64 → Retaggable s level (parent * 64 + j) old) (k : Nat) (hk : k ≤ 64) {t : State}
    (ht : (List.range k).foldl (fun s j => s.retagChild level (parent * 64 + j) old new) s = t) :
    Retagged s t ∧ (∀ j, j < k → t.tagAt level 0 (parent * 64 + j) = s.treeTag new level (parent * 64 + j) (t.stored true level 0 (parent * 64 + j)))
      ∧ ∀ m, parent * 64 + k ≤ m → t.tagAt level 0 m = s.tagAt level 0 m ∧ t.stored true level 0 m = s.stored true level 0 m := by
  induction k generalizing t with
  | zero =>
    subst ht
    exact ⟨Retagged.refl s, fun j hj => absurd hj (Nat.not_lt_zero j), fun m _ => ⟨rfl, rfl⟩⟩
  | succ k ih =>
    rw [List.range_succ, List.foldl_append, List.foldl_cons, List.foldl_nil] at ht
    obtain ⟨hsame, hdone, hrest⟩ := ih (by omega) rfl
    generalize (List.range k).foldl (fun s j => s.retagChild level (parent * 64 + j) old new) s = u at ht hsame hdone hrest
    obtain ⟨hblock, htagLine, hwhole, hgood⟩ := h k (by omega)
    obtain ⟨htag, hstored⟩ := hrest (parent * 64 + k) (by omega)
    have hchild : Retaggable u level (parent * 64 + k) old :=
      ⟨by rw [hsame.metaLost, hblock], by rw [hsame.metaLost, htagLine], by rw [hsame.blockLost, hwhole], by rw [htag, hstored, hsame.treeTag]; exact hgood⟩
    obtain ⟨hstep, hnew, hother⟩ := State.retagChild_spec new hchild
    rw [ht] at hstep hnew hother
    refine ⟨hsame.trans hstep, fun j hj => ?_, fun m hm => ?_⟩
    · by_cases hjk : j = k
      · rw [hjk, hnew, hsame.treeTag]
      · obtain ⟨ht₁, ht₂⟩ := hother (parent * 64 + j) (by omega)
        rw [ht₁, ht₂, hdone j (by omega)]
    · obtain ⟨ht₁, ht₂⟩ := hother m (by omega)
      obtain ⟨hu₁, hu₂⟩ := hrest m (by omega)
      exact ⟨ht₁.trans hu₁, ht₂.trans hu₂⟩

/-- A node overflow whose reads are back re-tags the node's children, and ends. -/
theorem State.nodeOvfDone_retags {s : State} {n : NodeOvf} {new : BitVec 512} (hfind : s.sec.nodeOvf.find? (fun (m : NodeOvf) => m.level == n.level && m.node == n.node) = some n)
    (hreads : s.itemsPending (overflowItems (n.level - 1) n.node n.old) = false) (hpar : s.parentBlk (n.level - 1) (n.node * 64) = some new) :
    s.nodeOvfDone n.level n.node = { s.retag (n.level - 1) n.node n.old new with
      sec := { (s.retag (n.level - 1) n.node n.old new).sec with nodeOvf := (s.retag (n.level - 1) n.node n.old new).sec.nodeOvf.filter (fun (m : NodeOvf) => !(m.level == n.level && m.node == n.node)) } } := by
  unfold State.nodeOvfDone
  rw [hfind]
  dsimp only
  rw [if_neg (by simp [hreads]), hpar]

end Sys2Proof.Machine
end

section
/-! The retirement of key slots, page by page, and their zeroisation (R197 to R199, R290). -/
namespace Sys2Proof.Machine

/-! ### What the work of a retirement keeps -/

/-- What the work on a page of a retirement keeps: the stored lines, the placement, the page operations, and the regions, but that some may become LOST. -/
structure RetireKept (s t : State) : Prop where
  media : t.media = s.media
  place : t.place = s.place
  retire : t.sec.retire = s.sec.retire
  regions : unlost t.regions = unlost s.regions

namespace RetireKept

theorem refl (s : State) : RetireKept s s := ⟨rfl, rfl, rfl, rfl⟩

theorem trans {s t u : State} (h : RetireKept s t) (k : RetireKept t u) : RetireKept s u :=
  ⟨k.media.trans h.media, k.place.trans h.place, k.retire.trans h.retire, k.regions.trans h.regions⟩

theorem ofLoss {s t : State} (h : LossNoted s t) : RetireKept s t := ⟨h.media, by rw [h.eq], by rw [h.sec], h.regions⟩

theorem ofNoted {s t : State} (h : Noted s t) : RetireKept s t := ofLoss (LossNoted.ofNoted h)

theorem ofAdmitted {s t : State} (h : Admitted s t) : RetireKept s t := ⟨h.media, h.place, by rw [h.sec], by rw [h.regions]⟩

theorem ofChannels {s t : State} (h : Channels s t) : RetireKept s t := ⟨h.media, by rw [h.eq], by rw [h.sec], by rw [h.regions]⟩

theorem ofTagged {s t : State} (h : Tagged s t) : RetireKept s t := by
  refine ⟨?_, ?_, ?_, ?_⟩ <;> rw [h.eq]

theorem ofRetagged {s t : State} (h : Retagged s t) : RetireKept s t := by
  refine ⟨?_, ?_, ?_, ?_⟩ <;> rw [h.eq]

theorem cache (s : State) (space : Bool) (level node : Nat) (b : BitVec 512) (dirty : Bool) : RetireKept s (s.cache space level node b dirty) := ⟨rfl, rfl, rfl, rfl⟩

theorem unask (s : State) (space : Bool) (level node : Nat) : RetireKept s (s.unask space level node) := ⟨rfl, rfl, rfl, rfl⟩

theorem fetchNode (s : State) (level node : Nat) : RetireKept s (s.fetchNode level node).1 := by
  have hcounted : RetireKept s (if level = 0 then s else (s.cnt 0x0503 .dev).stn 112 2) := by
    split
    · exact refl s
    · exact ofNoted ((Noted.cnt ..).trans (Noted.stn ..))
  unfold State.fetchNode
  split
  · exact refl s
  · exact refl s
  · split
    · exact cache ..
    · dsimp only
      generalize (if level = 0 then s else (s.cnt 0x0503 .dev).stn 112 2) = u at hcounted ⊢
      split
      · exact hcounted.trans (cache ..)
      · split
        · exact ((hcounted.trans (ofRetagged (Retagged.store ..))).trans (ofRetagged (Retagged.putTag ..))).trans (cache ..)
        · exact hcounted.trans (ofLoss (LossNoted.recordLoss ..))

theorem fetchDown (s : State) (q : Nat) (levels : List Nat) : RetireKept s (s.fetchDown q levels).1 := by
  induction levels generalizing s with
  | nil => exact refl s
  | cons l levels ih =>
    have hnode := fetchNode s l (q / 64 ^ l)
    unfold State.fetchDown
    split
    · next u hu =>
      rw [hu] at hnode
      exact hnode.trans (ih u)
    · next u hu =>
      rw [hu] at hnode
      exact hnode

theorem fetchCtr (s : State) (space : Bool) (q : Nat) : RetireKept s (s.fetchCtr space q).1 := by
  unfold State.fetchCtr
  split
  · exact refl s
  · split
    · exact refl s
    · split
      · exact fetchDown ..
      · split
        · exact ofLoss (LossNoted.recordLoss ..)
        · exact cache ..

theorem fetchPath (s : State) (space : Bool) (level node : Nat) : RetireKept s (s.fetchPath space level node).1 := by
  unfold State.fetchPath
  split
  · exact fetchCtr ..
  · split
    · exact refl s
    · exact fetchDown ..

theorem wantPath (s : State) (space : Bool) (level node : Nat) (w : ReadFor) : RetireKept s (s.wantPath space level node w).1 := by
  unfold State.wantPath
  dsimp only
  split
  · exact unask ..
  · split
    · exact unask ..
    · split
      · exact refl s
      · split
        · exact (unask ..).trans (fetchPath ..)
        · exact (ofChannels (Channels.metaReads ..)).trans ⟨rfl, rfl, rfl, rfl⟩

theorem wantCtr (s : State) (p : Nat) (w : ReadFor) : RetireKept s (s.wantCtr p w).1 := by
  unfold State.wantCtr
  split
  · exact refl s
  · exact wantPath ..

/-- A region that is worked on keeps all but what says that it is LOST. -/
theorem look {s t : State} (h : RetireKept s t) {i : Nat} {r : Region} (hr : Tbl.look s.regions i = some r) : ∃ b, Tbl.look t.regions i = some { r with lost := b } := look_of_unlost h.regions hr

/-- A HOT page stays where it is. -/
theorem form_hot {s t : State} (h : RetireKept s t) {p c fr : Nat} {inc : Option Nat} (hform : (s.acc p).form = .hot c fr inc) : (t.acc p).form = .hot c fr inc := by
  have hdefault : ∀ u : State, (u.accDefault p).form ≠ .hot c fr inc := fun u => by
    unfold State.accDefault
    split <;> simp
  cases hlook : Tbl.look s.place.acc p with
  | none =>
    have hacc : s.acc p = s.accDefault p := by rw [State.acc, Tbl.lookD, hlook]; rfl
    exact absurd (hacc ▸ hform) (hdefault s)
  | some a =>
    have hs : s.acc p = a := by rw [State.acc, Tbl.lookD, hlook]; rfl
    have ht : t.acc p = a := by rw [State.acc, Tbl.lookD, h.place, hlook]; rfl
    rw [ht, ← hs, hform]

end RetireKept

/-- The lines of a page opened under the old slot, with an event for each that fails its tag. -/
theorem State.retireOpen_noted (s : State) (p : Nat) (g : Guard) (b : BitVec 512) (image : Bool) (xs : List Line) : Noted s (s.retireOpen p g b image xs).2 :=
  (Noted.foldl_lines (fun acc e => by
    dsimp only
    split
    · exact ⟨⟨_, rfl⟩, Noted.refl _⟩
    · split
      · exact ⟨⟨_, rfl⟩, Noted.refl _⟩
      · exact ⟨⟨_, rfl⟩, Noted.tagFail ..⟩) xs.zipIdx ([], s)).2

/-- A HOT page is stored again under the new slot. -/
theorem RetireKept.reencrypt {s : State} {p c fr : Nat} {inc : Option Nat} (xs : List Line) (hform : (s.acc p).form = .hot c fr inc) : RetireKept s (s.reencrypt p xs) := by
  unfold State.reencrypt
  split
  · next gOld gNew _ _ =>
    split
    · exact RetireKept.refl s
    · next b _ =>
      dsimp only
      rw [hform]
      dsimp only
      have hopen := s.retireOpen_noted p gOld b false xs
      generalize s.retireOpen p gOld b false xs = r at hopen
      generalize (if blkMajor b = 2 ^ 64 - 1 then majorOnly (blkMajor b) else b) = b'
      obtain ⟨-, hseal⟩ := Tagged.sealAll r.2 gNew 0 (blkMinor b') (blkMajor b') p 0 r.1
      simp only [Bool.false_eq_true, if_false]
      generalize r.2.sealAll gNew 0 (blkMinor b') (blkMajor b') p 0 r.1 = q at hseal
      have hsealed : RetireKept s q.2 := (RetireKept.ofNoted hopen).trans (RetireKept.ofTagged hseal)
      refine RetireKept.trans ?_ (RetireKept.ofChannels (Channels.storeLines ..))
      split
      · exact hsealed
      · exact hsealed.trans (RetireKept.cache ..)
  · exact RetireKept.refl s

/-! ### CURSOR passes a page (R198) -/

/-- The region of a retirement after CURSOR has passed a page, and the losses that it has passed are freed. -/
theorem State.advanceCursor_noted (s : State) (i : Nat) (r : Region) : Noted (s.updRegion i (fun r => { r with cursor := r.cursor + 1 })) (s.advanceCursor i r) := by
  unfold State.advanceCursor
  dsimp only
  refine Noted.foldl _ _ fun t n => ?_
  split
  · exact Noted.setDword ..
  · exact Noted.refl t

/-- What a key reads as is listed. -/
theorem mem_of_look {α : Type} {t : Tbl α} {k : Nat} {x : α} (h : Tbl.look t k = some x) : (k, x) ∈ t := by
  induction t with
  | nil => cases h
  | cons e t ih =>
    obtain ⟨j, y⟩ := e
    unfold Tbl.look at h
    split at h
    · next hj =>
      cases h
      rw [hj]
      exact List.mem_cons_self
    · exact List.mem_cons_of_mem _ (ih h)

/-- A retirement goes on while a region that it holds has pages left. -/
theorem State.retireCheck_unfinished {s : State} {i k n : Nat} {r : Region} (hr : Tbl.look s.regions i = some r) (hvalid : r.oldValid = true) (hkey : r.oldKey = k)
    (hmore : r.cursor < r.len * 65536) : s.retireCheck k n = s := by
  have hmem : (i, r) ∈ s.regions.filter (fun (e : Nat × Region) => e.2.oldValid && e.2.oldKey == k) := List.mem_filter.2 ⟨mem_of_look hr, by simp [hvalid, hkey]⟩
  unfold State.retireCheck
  dsimp only
  refine if_neg fun h => ?_
  have hall := List.all_eq_true.1 h.2 _ hmem
  simp only [decide_eq_true_eq] at hall
  omega

/-- CURSOR passes a page, which is counted; a retirement that has passed every page ends. -/
def State.passPageOf (s : State) (i : Nat) (r : Region) : State := ((s.advanceCursor i r).cnt 0x0505 .dev).retireCheck r.oldKey r.key

/-- A page that is not the last is passed. -/
theorem State.passPageOf_notLast {s : State} {i : Nat} {r q : Region} (hq : Tbl.look s.regions i = some q) (hvalid : q.oldValid = true) (hkey : q.oldKey = r.oldKey) (hmore : q.cursor + 1 < q.len * 65536) :
    Noted (s.updRegion i (fun r => { r with cursor := r.cursor + 1 })) (s.passPageOf i r) ∧ Tbl.look (s.passPageOf i r).regions i = some { q with cursor := q.cursor + 1 } := by
  have hnoted : Noted (s.updRegion i (fun r => { r with cursor := r.cursor + 1 })) ((s.advanceCursor i r).cnt 0x0505 .dev) := (s.advanceCursor_noted i r).trans (Noted.cnt ..)
  have hlook : Tbl.look ((s.advanceCursor i r).cnt 0x0505 .dev).regions i = some { q with cursor := q.cursor + 1 } := by
    rw [hnoted.regions]
    show Tbl.look (Tbl.modify s.regions i _) i = _
    rw [Tbl.look_modify, hq]
    simp
  have hpass : s.passPageOf i r = (s.advanceCursor i r).cnt 0x0505 .dev := State.retireCheck_unfinished hlook hvalid hkey hmore
  rw [hpass]
  exact ⟨hnoted, hlook⟩

/-! ### The start of a page operation -/

/-- A share of 0 admits no governed work (R298). -/
theorem State.govAdmit_noShare {s : State} (slice : Nat) (k : GovTurn) (h : s.qos.share = 0) : s.govAdmit slice k = none := by
  unfold State.govAdmit
  exact if_pos (by simp [h])

theorem State.retireStart_none {s : State} {i : Nat} (h : s.qos.share = 0 ∨ s.permits .reencrypt = false ∨ s.dutyUp 6 = false ∨ s.boot.memActive = false ∨ s.boot.warmEntry = true
    ∨ (∀ r, Tbl.look s.regions i = some r → r.oldValid = false ∨ r.len * 65536 ≤ r.cursor ∨ (s.acc (retirePage r)).isMigrating = true ∨ s.pageLocked (retirePage r) = true)) :
    s.retireStart i = s := by
  unfold State.retireStart
  split
  · rfl
  · next r hr =>
    dsimp only
    rcases h with hc | hc | hc | hc | hc | hc
    · rw [State.govAdmit_noShare _ _ hc]
      exact ite_self _
    · exact if_pos (by simp [State.retireWaits, hc])
    · exact if_pos (by simp [State.retireWaits, hc])
    · exact if_pos (by simp [State.retireWaits, hc])
    · exact if_pos (by simp [State.retireWaits, hc])
    · rcases hc r hr with hd | hd | hd | hd
      · exact if_pos (by simp [State.retireWaits, hd])
      · exact if_pos (by simp [State.retireWaits, Nat.not_lt.2 hd])
      · exact if_pos (by simp [State.retireWaits, hd])
      · exact if_pos (by simp [State.retireWaits, hd])

section Start
variable {s x : State} {i : Nat} {r : Region} (hr : Tbl.look s.regions i = some r) (hvalid : r.oldValid = true) (hcursor : r.cursor < r.len * 65536) (hactive : s.boot.memActive = true)
  (hwarm : s.boot.warmEntry = false) (hpermits : s.permits .reencrypt = true) (hduty : s.dutyUp 6 = true) (hlock : s.pageLocked (retirePage r) = false) (hctr : s.ctrLost (retirePage r) = false)
  (hadmit : s.govAdmit (homeSlice (retirePage r)) .reencrypt = some x)
include hvalid hcursor hactive hwarm hpermits hduty hlock

theorem State.retireWaits_of (hmove : (s.acc (retirePage r)).isMigrating = false) : s.retireWaits r = true := by
  simp [State.retireWaits, hvalid, hcursor, hactive, hwarm, hpermits, hduty, hlock, hmove]

include hr hctr hadmit

/-- An UNWRITTEN page is passed at once. -/
theorem State.retireStart_unwritten {pz : Bool} (hform : (s.acc (retirePage r)).form = .unwritten pz) : s.retireStart i = x.passPageOf i r := by
  have hwaits : s.retireWaits r = true := State.retireWaits_of hvalid hcursor hactive hwarm hpermits hduty hlock (by simp [Acc.isMigrating, hform])
  unfold State.retireStart
  rw [hr]
  dsimp only
  rw [hwaits, hadmit, hform, hctr]
  rfl

/-- A HOT page is read, with a copy engine. -/
theorem State.retireStart_hot {c fr e : Nat} {inc : Option Nat} (hlost : r.lost = false) (hform : (s.acc (retirePage r)).form = .hot c fr inc) (hengine : x.pickEngine (homeSlice (retirePage r)) = some e) :
    s.retireStart i = State.takeEngine { (x.readPage (retirePage r) (.hot c fr inc)).readTags (retirePage r) 64 with
      sec := { ((x.readPage (retirePage r) (.hot c fr inc)).readTags (retirePage r) 64).sec with
        retire := ((x.readPage (retirePage r) (.hot c fr inc)).readTags (retirePage r) 64).sec.retire ++ [{ region := i, page := retirePage r }] } } e (.copy (retirePage r)) := by
  have hwaits : s.retireWaits r = true := State.retireWaits_of hvalid hcursor hactive hwarm hpermits hduty hlock (by simp [Acc.isMigrating, hform])
  unfold State.retireStart
  rw [hr]
  dsimp only
  rw [hwaits, hadmit]
  dsimp only
  rw [hform, hctr, hlost, hengine]
  rfl

end Start

/-- A HOT page that is read for a retirement stays as it is stored and placed. -/
theorem RetireKept.readPage_readTags (s : State) (p c fr n : Nat) (inc : Option Nat) : RetireKept s ((s.readPage p (.hot c fr inc)).readTags p n) := by
  obtain ⟨u, xs, hread, hloss, -, -⟩ := s.readPage_readTags_hot p c fr n inc
  have hpage : RetireKept s (s.readPage p (.hot c fr inc)) := (⟨rfl, rfl, rfl, rfl⟩ : RetireKept s (s.regather p)).trans (RetireKept.ofChannels (Channels.readPage_hot ..))
  rw [hread]
  exact (hpage.trans (RetireKept.ofLoss hloss)).trans (RetireKept.ofChannels (Channels.metaReads ..))

/-! ### The end of a page operation -/

/-- A page operation of a region ends: it is forgotten with what was gathered for it, its copy engine is idle, and CURSOR passes the page. -/
def State.retireFinish (s : State) (i : Nat) (r : Region) (p : Nat) : State :=
  ((State.dropGather { s with sec := { s.sec with retire := s.sec.retire.filter (fun (y : RetireOp) => y.region != i) } } p).freeCopy p).passPageOf i r

/-- A channel's reads with nobody waiting for those of a kind. -/
def orphanReads (isIt : RdWhy → Bool) (d : Dmc) : Dmc :=
  let fix (r : DramRd) : DramRd := if isIt r.why then { r with why := nobody } else r
  { d with flying := d.flying.map fix, rq := d.rq.map fix, issued := d.issued.map fix }

theorem State.dmc_orphan (s : State) (isIt : RdWhy → Bool) : (s.orphan isIt).dmc = s.dmc.map (fun e => (e.1, orphanReads isIt e.2)) := rfl

/-- What was gathered for a page is forgotten; the write queues stay. -/
theorem State.wq_dropGather (s : State) (p c : Nat) : ((s.dropGather p).ch c).wq = (s.ch c).wq := by
  unfold State.dropGather State.ch Tbl.lookD
  rw [State.dmc_orphan, look_mapValues]
  dsimp only
  cases Tbl.look s.dmc c <;> rfl

theorem State.freeCopy_eq (s : State) (p : Nat) : ∃ press, s.freeCopy p = { s with press := press } := by
  unfold State.freeCopy
  split
  · exact ⟨_, rfl⟩
  · exact ⟨s.press, rfl⟩

/-- The only page operation ends, and the page is not the last of its region. -/
theorem State.retireFinish_spec {s : State} {i p : Nat} {r q : Region} {x : RetireOp} (hretire : s.sec.retire = [x]) (hx : x.region = i) (hq : Tbl.look s.regions i = some q) (hvalid : q.oldValid = true)
    (hkey : q.oldKey = r.oldKey) (hmore : q.cursor + 1 < q.len * 65536) {t : State} (ht : s.retireFinish i r p = t) :
    t.sec.retire = [] ∧ Tbl.look t.regions i = some { q with cursor := q.cursor + 1 } ∧ t.media = s.media ∧ ∀ c, (t.ch c).wq = (s.ch c).wq := by
  subst ht
  obtain ⟨press, hcopy⟩ := (State.dropGather { s with sec := { s.sec with retire := s.sec.retire.filter (fun (y : RetireOp) => y.region != i) } } p).freeCopy_eq p
  unfold State.retireFinish
  rw [hcopy]
  obtain ⟨hnoted, hlook⟩ := State.passPageOf_notLast (i := i) (r := r) (q := q)
    (s := { State.dropGather { s with sec := { s.sec with retire := s.sec.retire.filter (fun (y : RetireOp) => y.region != i) } } p with press := press }) hq hvalid hkey hmore
  refine ⟨?_, hlook, hnoted.media, fun c => ?_⟩
  · rw [hnoted.sec]
    show s.sec.retire.filter _ = []
    simp [hretire, hx]
  · rw [State.ch_congr hnoted.dmc c]
    exact State.wq_dropGather { s with sec := { s.sec with retire := s.sec.retire.filter (fun (y : RetireOp) => y.region != i) } } p c

theorem State.retireEnd_none {s : State} {i : Nat} (h : s.isSafe = true ∨ s.boot.warmEntry = true ∨ Tbl.look s.regions i = none ∨ (∀ x ∈ s.sec.retire, x.region ≠ i)) : s.retireEnd i = s := by
  unfold State.retireEnd
  split
  · next r x hr hx =>
    dsimp only
    rcases h with hc | hc | hc | hc
    · exact if_pos (by simp [hc])
    · exact if_pos (by simp [hc])
    · rw [hr] at hc
      cases hc
    · exact absurd (by simpa using List.find?_some hx) (hc x (List.mem_of_find?_eq_some hx))
  · rfl

section Finish
variable {s : State} {i : Nat} {r : Region} {x : RetireOp} (hsafe : s.isSafe = false) (hwarm : s.boot.warmEntry = false) (hr : Tbl.look s.regions i = some r) (hlost : r.lost = false)
  (hretire : s.sec.retire = [x]) (hx : x.region = i) (hctr : s.ctrLost x.page = false)
include hsafe hwarm hr hlost hretire hx hctr

/-- The operation of a page that is UNWRITTEN ends at once. -/
theorem State.retireEnd_unwritten {pz : Bool} (hform : (s.acc x.page).form = .unwritten pz) : s.retireEnd i = s.retireFinish i r x.page := by
  have hfind : s.sec.retire.find? (fun (y : RetireOp) => y.region == i) = some x := by simp [hretire, hx]
  unfold State.retireEnd
  rw [hr, hfind]
  dsimp only
  rw [hsafe, hwarm, hlost, hctr, hform]
  rfl

/-- The operation of a HOT page that has been read stores it under the new slot. -/
theorem State.retireEnd_hot {c fr : Nat} {inc : Option Nat} {xs : List Line} {u v : State} (hform : (s.acc x.page).form = .hot c fr inc) (htags : s.tagsPending x.page 64 = false)
    (hread : s.pageRead x.page 64 = some xs) (hroom : s.storeRoom c (fr * 64) 64 = true) (hwant : s.wantCtr x.page = (u, some true)) (hadmit : u.govAdmit (homeSlice x.page) .reencrypt = some v) :
    s.retireEnd i = (v.reencrypt x.page xs).retireFinish i r x.page := by
  have hfind : s.sec.retire.find? (fun (y : RetireOp) => y.region == i) = some x := by simp [hretire, hx]
  unfold State.retireEnd
  rw [hr, hfind]
  dsimp only
  rw [hsafe, hwarm, hlost, hctr, hform]
  simp only [formSize, htags, hread, State.formRoom, hroom, hwant, hadmit]
  rfl

end Finish

/-! ### Zeroised key slots (R197) -/

theorem State.zeroised_none {s : State} {k : Nat} (h : (s.key k).st ≠ .zeroising) : s.zeroised k = s := if_neg h

/-- A zeroised slot is FREE with no key, and no other slot changes. -/
theorem State.zeroised_frees {s : State} {k : Nat} (h : (s.key k).st = .zeroising) : (s.zeroised k).key k = {} ∧ (∀ j, j ≠ k → (s.zeroised k).key j = s.key j)
    ∧ (s.zeroised k).regs = s.regs ∧ (s.zeroised k).media = s.media ∧ (s.zeroised k).regions = s.regions := by
  unfold State.zeroised
  rw [if_pos h]
  exact ⟨Tbl.lookD_putD_same s.sec.keys {} {} k, fun j hj => Tbl.lookD_putD_other s.sec.keys {} {} {} k j hj, rfl, rfl, rfl⟩

end Sys2Proof.Machine
end

section
/-! What SEC does of its own, settled (R73, R187, R189, R192 to R194, R197 to R199). -/
namespace Sys2Proof.Machine

/-- Settles O47, from what each command of SEC's own does: drains, overflows, fetches, writebacks, node overflows, retirements and zeroised keys. -/
theorem securityWorkTakesEffect : Obligations.SecurityWorkTakesEffect := by
  unfold Obligations.SecurityWorkTakesEffect
  refine ⟨?noDrain, ?drain, ?noOverflow, ?ask, ?sealing, ?last, ?noFetch, ?fetch, ?noWriteback, ?block, ?node, ?noNodeOvf, ?nodeOvfWaits, ?nodeOvf, ?noRetire, ?unwritten, ?hot, ?noRetireEnd, ?unwrittenEnd,
    ?hotEnd, ?noZeroise, ?zeroise⟩
  case noDrain =>
    intro sl line s h
    exact congrArg Host.Outcome.next (State.drainLine_none h)
  case drain =>
    intro sl w c fr inc s hsafe hsl hwcb hfull hidle hlock hmove hform hguard hflying hwq
    obtain ⟨u, a, hdrain, hchan, hqueue⟩ := State.drainHot_plain (fr := fr) hfull hguard hflying hwq
    refine ⟨u.wcbDrop w.line, a, congrArg Host.Outcome.next ?_, ?_, hchan.media, hqueue⟩
    · rw [← hsl, State.drainLine_hot hsafe hwcb hfull hidle hlock hmove hform hguard, hdrain]
    · simp [State.wcbDrop, hchan.wcb, hwcb]
  case noOverflow =>
    intro sl p s h
    exact congrArg Host.Outcome.next (State.overflowDone_none h)
  case ask =>
    intro sl c fr inc k x s hlock hsl hasked hform hadmit
    have hadm := Admitted.dmaAdmit hadmit
    obtain ⟨u, xs, hread, hloss, hwq, hflights⟩ := x.readPage_readTags_hot k.page c fr 64 inc
    obtain ⟨tags, htags, hmeta⟩ := u.flights_metaReads xs {} c
    have hsec : (u.metaReads xs).sec = (x.regather k.page).sec := by rw [(Channels.metaReads u xs {}).sec, hloss.sec, (Channels.readPage_hot ..).sec]
    have hmedia : (u.metaReads xs).media = s.media := by rw [(Channels.metaReads u xs {}).media, hloss.media, (Channels.readPage_hot ..).media]; exact hadm.media
    have hch : x.ch c = s.ch c := State.ch_congr hadm.dmc c
    refine ⟨_, tags, congrArg Host.Outcome.next (?_ : _ = (u.metaReads xs).updLock k.page (fun l => { l with asked := true })), ?_, ?_, hmedia, ?_, ?_, hmeta⟩
    · rw [← hread, ← hsl]
      exact State.overflowDone_ask hlock hasked hform (hsl ▸ hadmit)
    · simp [State.updLock, hsec, State.regather, hadm.sec, hlock]
    · simp [State.updLock, hsec, State.regather, hadm.sec]
    · exact (State.wq_metaReads u xs {} c).trans (hwq.trans (by rw [hch]))
    · refine htags.trans ?_
      rw [hflights, State.flights, hch]
  case sealing =>
    intro sl c fr inc k g xs s hlock hsl hasked htodo hform hguard hread htags
    obtain ⟨l, hlocks, hlines, hcache, hmedia⟩ := State.overflowSeal_todo hlock hguard (State.pageRead_length hread)
    refine ⟨_, l, congrArg Host.Outcome.next ?_, hlocks, hlines, hcache, hmedia⟩
    rw [← hsl]
    exact State.overflowDone_seal hlock hasked htodo hform hread htags
  case last =>
    intro sl c fr i y inc k x s hlock hsl hasked htodo hform hadmit hroom
    have hadm := Admitted.dmaAdmit hadmit
    have hstored := Channels.storeLines x c (fr * 64 + i) [y]
    have hsec : (x.storeLines c (fr * 64 + i) [y]).sec = s.sec := by rw [hstored.sec, hadm.sec]
    refine ⟨(x.storeLines c (fr * 64 + i) [y]).unlock k.page, congrArg Host.Outcome.next ?_, ?_, (State.visible_unlock ..).trans (State.visible_storeLines_one ..), ?_, hstored.media.trans hadm.media⟩
    · rw [← hsl]
      exact State.overflowDone_last hlock hasked htodo (hsl ▸ hadmit) (State.overflowStore_hot y (by rw [hadm.acc]; exact hform) hroom)
    · simp [State.unlock, hsec, hlock]
    · simp [State.unlock, hsec]
  case noFetch =>
    intro space q s h
    exact congrArg Host.Outcome.next (State.ctrFetched_none h)
  case fetch =>
    intro q x g s hsafe hpage hnone hback hblock hmeta htxns hphase hguard hspace hq
    refine ⟨_, congrArg Host.Outcome.next (State.ctrFetched_sealed hsafe hpage hnone hback hblock hmeta htxns hphase hguard hspace hq), ?_, rfl, rfl, rfl⟩
    simp [State.cached, State.cache]
  case noWriteback =>
    intro space evict level node s h
    exact congrArg Host.Outcome.next (State.ctrBack_none h)
  case block =>
    intro node evict b x s hsafe hmay hlook hdirty hadmit
    have hadm := Admitted.ofEither hadmit
    have hwrite := State.ctrBack_writes hsafe hmay hlook hdirty (by decide) (.inr rfl) (fun h => absurd h (by decide)) hadmit
    obtain ⟨due, hstore⟩ := x.store_eq false 0 node b.blk
    refine ⟨_, congrArg Host.Outcome.next (hwrite.trans (State.writeNode_sealed x node b)), by simp, by simp, ?_, ?_, ?_⟩
    · rw [hstore]
      rfl
    · rw [hstore]
      exact hadm.media
    · rw [hstore]
      show x.sec.treeTags = _
      rw [hadm.sec]
  case node =>
    intro node evict b x s hsafe hmay hlook hdirty hadmit hovf hminor
    have hadm := Admitted.ofEither hadmit
    have hroot : x.root (node / 64) = s.root (node / 64) := by rw [State.root, State.root, hadm.sec]
    have hwrite := State.ctrBack_writes hsafe hmay hlook hdirty (by decide) (.inl rfl) (fun _ => hovf) hadmit
    rw [State.writeNode_underRoot b (by rw [hroot]; exact hminor)] at hwrite
    obtain ⟨hnew, hstoredA, hstoredB, htagA, htagB, hgone⟩ := x.backUnder_root node b.blk (x.root (node / 64)) rfl
    have hsame := SecOnly.backUnder x node b.blk (x.root (node / 64))
    refine ⟨_, congrArg Host.Outcome.next hwrite, by rw [hnew, hroot], hstoredA, hstoredB, ?_, htagB, hgone, by rw [hsame.eq], by rw [hsame.eq]; exact hadm.media⟩
    rw [htagA]
    exact State.treeTag_congr (by rw [hadm.sec]) ..
  case noNodeOvf =>
    intro level node s h
    exact congrArg Host.Outcome.next (State.nodeOvfDone_none h)
  case nodeOvfWaits =>
    intro n s hmem honly hreads
    exact congrArg Host.Outcome.next (State.nodeOvfDone_waits (State.find_nodeOvf hmem honly) hreads)
  case nodeOvf =>
    intro n new s hmem honly _ _ hreads hpar hchildren
    have hchild : ∀ j, j < 64 → Retaggable s (n.level - 1) (n.node * 64 + j) n.old := fun j hj => by
      obtain ⟨hblock, htagLine, hwhole, hgood⟩ := hchildren j hj
      exact ⟨hblock, htagLine, hwhole, by rwa [show (n.node * 64 + j) % 64 = j by omega]⟩
    obtain ⟨hsame, htags, -⟩ := State.retag_spec new hchild 64 (Nat.le_refl 64) (State.retag_eq ..).symm
    have hdone := State.nodeOvfDone_retags (State.find_nodeOvf hmem honly) hreads hpar
    generalize s.retag (n.level - 1) n.node n.old new = u at hsame htags hdone
    refine ⟨_, congrArg Host.Outcome.next hdone, ?_, ?_, ?_, htags⟩
    · rw [hsame.eq]
    · rw [hsame.eq]
    · rw [hsame.eq]
  case noRetire =>
    intro i s h
    exact congrArg Host.Outcome.next (State.retireStart_none h)
  case unwritten =>
    intro i r x pz s hr hvalid hmore hactive hwarm hpermits hduty hlock hform hctr hadmit
    have hadm := Admitted.govAdmit hadmit
    obtain ⟨hnoted, hlook⟩ := State.passPageOf_notLast (s := x) (r := r) (by rw [hadm.regions]; exact hr) hvalid rfl hmore
    refine ⟨_, _, congrArg Host.Outcome.next (State.retireStart_unwritten hr hvalid (by omega) hactive hwarm hpermits hduty hlock hctr hadmit hform), hlook, rfl, rfl, rfl, ?_, hnoted.media.trans hadm.media⟩
    rw [hnoted.sec]
    exact congrArg Sec.retire hadm.sec
  case hot =>
    intro i r x c fr e inc s hr hvalid hcursor hlost hactive hwarm hpermits hduty hlock hctr hform hadmit hengine
    have hkept := (RetireKept.ofAdmitted (Admitted.govAdmit hadmit)).trans (RetireKept.readPage_readTags x (retirePage r) c fr 64 inc)
    obtain ⟨b, hlook⟩ := hkept.look hr
    refine ⟨_, _, congrArg Host.Outcome.next (State.retireStart_hot hr hvalid hcursor hactive hwarm hpermits hduty hlock hctr hadmit hlost hform hengine), hlook, rfl, rfl, hkept.media, ?_, Tbl.look_put_same ..⟩
    exact congrArg (· ++ [_]) hkept.retire
  case noRetireEnd =>
    intro i s h
    exact congrArg Host.Outcome.next (State.retireEnd_none h)
  case unwrittenEnd =>
    intro i r x pz s hsafe hwarm hr hvalid hlost hmore hretire hx hctr hform
    obtain ⟨hnone, hlook, hmedia, -⟩ := State.retireFinish_spec (p := x.page) (r := r) hretire hx hr hvalid rfl hmore rfl
    exact ⟨_, _, congrArg Host.Outcome.next (State.retireEnd_unwritten hsafe hwarm hr hlost hretire hx hctr hform), hnone, hlook, rfl, rfl, hmedia⟩
  case hotEnd =>
    intro i r x c fr inc xs u v s hsafe hwarm htags hr hvalid hlost hmore hretire hx hctr hform hread hroom hwant hadmit
    have hkept : RetireKept s v := by
      have hfetch := RetireKept.wantCtr s x.page {}
      rw [hwant] at hfetch
      exact hfetch.trans (RetireKept.ofAdmitted (Admitted.govAdmit hadmit))
    have hstored := hkept.trans (RetireKept.reencrypt xs (hkept.form_hot hform))
    obtain ⟨b, hq⟩ := hstored.look hr
    obtain ⟨hnone, hlook, hmedia, hwq⟩ := State.retireFinish_spec (p := x.page) (r := r) (hstored.retire.trans hretire) hx hq hvalid rfl hmore rfl
    exact ⟨_, _, congrArg Host.Outcome.next (State.retireEnd_hot hsafe hwarm hr hlost hretire hx hctr hform htags hread hroom hwant hadmit), hnone, hlook, rfl, hwq c, hmedia.trans hstored.media⟩
  case noZeroise =>
    intro k s h
    exact congrArg Host.Outcome.next (State.zeroised_none h)
  case zeroise =>
    intro k s h
    obtain ⟨hfree, hother, hregs, hmedia, hregions⟩ := State.zeroised_frees h
    exact ⟨_, rfl, by rw [hfree], by rw [hfree], by rw [hfree], hother, hregs, hmedia, hregions⟩

end Sys2Proof.Machine
end

section
/-! Back-invalidate messages from a head, and BISnp that time out (R97, R106, R107, R114, R118). -/
namespace Sys2Proof.Machine

/-! ### What an event leaves of the LDs (R60) -/

/-- Every LD is as it was, but that other vectors of it may be pending. -/
structure PendsOnly (s t : State) : Prop where
  ld : ∀ i d, s.ld? i = some d → ∃ b, t.ld? i = some { d with pba := b }

namespace PendsOnly
variable {s t u : State}

theorem ofLds (s t : State) (h : t.lds = s.lds) : PendsOnly s t := ⟨fun _ d hd => ⟨d.pba, (congrArg (Tbl.look · _) h).trans hd⟩⟩

theorem refl (s : State) : PendsOnly s s := ofLds s s rfl

theorem trans (h : PendsOnly s t) (k : PendsOnly t u) : PendsOnly s u where
  ld i d hd := by
    obtain ⟨b, ht⟩ := h.ld i d hd
    obtain ⟨c, hu⟩ := k.ld i _ ht
    exact ⟨c, hu⟩

theorem foldl {α : Type} {f : State → α → State} (l : List α) (s : State) (hf : ∀ t x, PendsOnly t (f t x)) : PendsOnly s (l.foldl f s) := by
  induction l generalizing s with
  | nil => exact refl s
  | cons x l ih => exact (hf s x).trans (ih (f s x))

theorem setPending (s : State) (i : Nat) (f : BitVec 32 → BitVec 32) : PendsOnly s (s.updLd i fun d => { d with pba := f d.pba }) where
  ld j d hd := by
    rw [State.ld?_updLd, hd, Option.map_some]
    split
    · exact ⟨_, rfl⟩
    · exact ⟨d.pba, rfl⟩

theorem msix (s : State) (i v : Nat) : PendsOnly s (s.msix i v) := by
  unfold State.msix
  split
  · exact refl s
  · split
    · exact refl s
    · dsimp only
      split
      · exact setPending s i (· ||| (1#32 <<< v))
      · exact ofLds s _ (by rw [State.emit, State.wakeLink_eq])

theorem alertVector (old s : State) : PendsOnly s (State.alertVector old s) := by
  unfold State.alertVector
  split
  · exact refl s
  · exact foldl _ s fun t i => msix t i 6

theorem logWrite (s : State) (code sev arg0 arg1 : Nat) (r : Route) : PendsOnly s (s.logWrite code sev arg0 arg1 r) := by
  have hrec (b : Nat) (v₀ v₁ : Word) (v₂ v₃ v₄ : BitVec 64) : (((((s.setWord b v₀).setWord (b + 4) v₁).setDword (b + 8) v₂).setDword (b + 16) v₃).setDword (b + 24) v₄).lds = s.lds := by
    simp only [State.setDword_lds, State.setWord_lds]
  refine ofLds s _ ?_
  unfold State.logWrite
  dsimp only
  rw [State.wr_lds]
  split
  · exact (State.wr_lds _ _ _).trans (hrec _ _ _ _ _ _)
  · exact hrec _ _ _ _ _ _

theorem raise (s : State) (code arg0 arg1 : Nat) : PendsOnly s (s.raise code arg0 arg1) := by
  have hlog : PendsOnly s (match (if (evInfo code arg0).1 = 3 then none else (s.noteRaised code).mergeable code arg0) with
      | some e => (s.noteRaised code).sat (Reg.ALR_LOG_REPEAT e) 1
      | none => (s.noteRaised code).logWrite code (evInfo code arg0).1 arg0 arg1 (evInfo code arg0).2) := by
    split
    · exact ofLds _ _ (State.sat_lds ..)
    · exact (ofLds s (s.noteRaised code) rfl).trans (logWrite ..)
  unfold State.raise
  dsimp only
  refine trans ?_ (alertVector ..)
  split
  · exact hlog.trans (ofLds _ _ rfl)
  · exact hlog

end PendsOnly

/-! ### The end of an exchange with one head (R106, R114) -/

/-- The state with another directory. -/
def State.withDir (s : State) (d : Dir) : State := { s with dir := d }

/-- The state with other open exchanges. -/
def State.withExchs (s : State) (l : List Exch) : State := s.withDir { s.dir with exchs := l }

/-- An exchange that no head is waited for any more. -/
def Exch.answered (x : Exch) : Exch := { x with waits := [] }

theorem State.setExch_sole {s : State} {x y : Exch} (hx : s.dir.exchs = [y]) (hline : y.line = x.line) (hwhy : y.why = x.why) : s.setExch x = s.withExchs [x] := by
  simp [State.setExch, State.withExchs, State.withDir, hx, hline, hwhy]

theorem State.dropExch_sole {s : State} {x : Exch} (hx : s.dir.exchs = [x]) : s.dropExch x = s.withExchs [] := by
  simp [State.dropExch, State.withExchs, State.withDir, hx]

theorem State.setEntry_eq (s : State) (k : Nat) (e : Option DirEntry) : s.setEntry k e = s.withDir { s.dir with ways := (s.setEntry k e).dir.ways } := by
  cases e <;> rfl

theorem State.look_setEntry_same (s : State) (k : Nat) (e : Option DirEntry) : Tbl.look (s.setEntry k e).dir.ways k = e := by
  cases e with
  | none => exact Tbl.look_del_same ..
  | some e => exact Tbl.look_put_same ..

theorem State.look_setEntry_other (s : State) {j k : Nat} (e : Option DirEntry) (h : j ≠ k) : Tbl.look (s.setEntry k e).dir.ways j = Tbl.look s.dir.ways j := by
  cases e with
  | none => exact Tbl.look_del_other _ _ _ h
  | some e => exact Tbl.look_put_other _ _ _ _ h

/-- Freeing the way of a line changes the ways alone. -/
theorem State.freeLine_eq (s : State) (line : Nat) : s.freeLine line = s.withDir { s.dir with ways := (s.freeLine line).dir.ways } := by
  unfold State.freeLine
  split <;> rfl

/-- The answer of the one head that an exchange of a drain waits for ends the exchange. -/
theorem State.endWait_drain {s : State} {x : Exch} {w : BiWait} {i : Nat} (hx : s.dir.exchs = [x]) (hwaits : x.waits = [w]) (hwhy : x.why = .drain i) :
    s.endWait x w.head = ((s.withExchs []).raiseTimeouts x.answered).recallEnd x.answered [w.head] := by
  have hnone : x.waits.filter (fun v => v.head != w.head) = [] := by simp [hwaits]
  have hlast : ({ x with waits := x.waits.filter (fun v => v.head != w.head) } : Exch) = x.answered := by rw [hnone, Exch.answered]
  unfold State.endWait
  dsimp only
  rw [if_pos hnone, hlast, State.setExch_sole (x := x.answered) hx rfl rfl]
  unfold State.endExch
  rw [State.dropExch_sole (x := x.answered) rfl, show x.answered.why = .drain i from hwhy]
  rfl

/-- A head that has answered that it holds nothing leaves the entry of the line. -/
theorem State.afterWalk_gone {s : State} {x : Exch} {h k : Nat} {e : DirEntry} (hkept : x.kept = some .i) (he : s.entry? x.line = some (k, e)) :
    s.afterWalk x [h] = s.setEntry k (e.without h) := by
  simp [State.afterWalk, he, hkept]

/-! ### BIRsp (R106) -/

/-- A BIRsp that nobody awaits is counted (R106). -/
theorem State.birsp_stray {s : State} {h line : Nat} (r : BiRsp) (hlink : s.linkUp h = true) (hsafe : s.isSafe = false)
    (hx : ∀ x ∈ s.dir.exchs, x.line = line → ∀ w ∈ x.waits, w.head ≠ h ∨ w.sent = false) : s.birsp h line r = s.cnt 0x0606 (.head h) := by
  have hnone : s.dir.exchs.find? (fun x => x.line == line && x.waits.any (fun w => w.head == h && w.sent)) = none := by
    rw [List.find?_eq_none]
    intro x hm hp
    simp only [Bool.and_eq_true, beq_iff_eq, List.any_eq_true] at hp
    obtain ⟨hline, w, hw, hhead, hsent⟩ := hp
    rcases hx x hm hline w hw with hne | hns
    · exact hne hhead
    · simp [hns] at hsent
  unfold State.birsp
  rw [hlink, hsafe, hnone]
  rfl

/-- The BIRsp to the BISnpInv of a drain takes the head out of the entry, and ends the exchange. -/
theorem State.birsp_drain {s : State} {line i k : Nat} {w : BiWait} {e : DirEntry} (r : BiRsp) (hlink : s.linkUp w.head = true) (hsafe : s.isSafe = false) (htxns : s.path.txns = [])
    (hin : s.path.ingress = []) (hx : s.dir.exchs = [{ line := line, why := .drain i, waits := [w] }]) (hsent : w.sent = true) (hsnp : w.snp = .inv) (he : s.entry? line = some (k, e)) :
    ∃ u, TrafficKept s u ∧ s.birsp w.head line r = (u.withExchs []).setEntry k (e.without w.head) := by
  have haside := Aside.cnt s (if w.gotData then 0x0602 else 0x0603) (.head w.head) 1
  refine ⟨_, haside.trafficKept, ?_⟩
  unfold State.birsp
  rw [hlink, hsafe, hx, htxns, hin]
  simp only [Bool.false_eq_true, if_false, beq_self_eq_true, hsent, hsnp, List.any_cons, List.any_nil, List.find?_cons, Bool.and_true, Bool.true_and, Bool.or_false, Bool.not_false, if_true]
  generalize s.cnt (if w.gotData then 0x0602 else 0x0603) (.head w.head) = u at haside ⊢
  have hset : u.setExch { line := line, why := .drain i, waits := [w], kept := some .i } = u.withExchs [{ line := line, why := .drain i, waits := [w], kept := some .i }] :=
    State.setExch_sole (y := { line := line, why := .drain i, waits := [w] }) (by rw [haside.dir, hx]) rfl rfl
  rw [hset, State.endWait_drain (i := i) rfl rfl rfl]
  exact State.afterWalk_gone rfl ((haside.entry? line).trans he)

/-! ### Credits (R97) -/

/-- The directory when a head has returned credits. -/
def Dir.credited (d : Dir) (h n : Nat) : Dir := { d with credits := Tbl.upd d.credits 0 h (· + n) }

theorem Dir.lookD_credited_same (d : Dir) (h n : Nat) : Tbl.lookD (d.credited h n).credits 0 h = Tbl.lookD d.credits 0 h + n := Tbl.lookD_putD_same ..

theorem Dir.lookD_credited_other (d : Dir) {h k : Nat} (n : Nat) (hk : k ≠ h) : Tbl.lookD (d.credited h n).credits 0 k = Tbl.lookD d.credits 0 k := Tbl.lookD_putD_other _ _ _ _ _ _ hk

/-- Returned credits are added, and serve the BISnp that wait for one. -/
theorem State.biCredits_eq {s : State} {h : Nat} (n : Nat) (hlink : s.linkUp h = true) (hsafe : s.isSafe = false) : s.biCredits h n = (s.withDir (s.dir.credited h n)).sendWaiting h n := by
  rw [State.biCredits, hlink, hsafe]
  rfl

/-- What a head that awaits no BISnp's credit returns is kept. -/
theorem State.sendWaiting_none {s : State} {h : Nat} (n : Nat) (hx : ∀ x ∈ s.dir.exchs, ∀ w ∈ x.waits, w.head ≠ h ∨ w.sent = true) : s.sendWaiting h n = s := by
  cases n with
  | zero => rfl
  | succ n =>
    have hnone : s.dir.exchs.find? (fun x => x.waits.any (fun w => w.head == h && !w.sent)) = none := by
      rw [List.find?_eq_none]
      intro x hm hp
      simp only [Bool.and_eq_true, beq_iff_eq, List.any_eq_true] at hp
      obtain ⟨w, hw, hhead, hsent⟩ := hp
      rcases hx x hm w hw with hne | hs
      · exact hne hhead
      · simp [hs] at hsent
    unfold State.sendWaiting
    dsimp only
    rw [hnone]

/-- A wake of a link has nothing to do with the directory. -/
theorem State.wakeLink_withDir (s : State) (h : Nat) (d : Dir) : (s.withDir d).wakeLink h = (s.wakeLink h).withDir d := by
  by_cases ha : s.asleep h
  · rw [State.wakeLink_asleep ha, State.wakeLink_asleep (s := s.withDir d) ha]
    rfl
  · rw [State.wakeLink_awake ha, State.wakeLink_awake (s := s.withDir d) ha]
    rfl

/-- A BISnp leaves after the wake of its link; what counts it changes neither outputs nor the directory. -/
theorem State.sendBisnp_out {s : State} {h line i : Nat} (snp : Snp) (hi : s.mapper h (unitOfPage (pageOf line)) = some i) :
    (s.sendBisnp h line snp).out = .bisnp h (s.ldIdOf h i) line snp :: (s.wakeLink h).out ∧ (s.sendBisnp h line snp).dir = s.dir := by
  have hcounted : TrafficKept ((s.wakeLink h).emit (.bisnp h (s.ldIdOf h i) line snp)) (s.sendBisnp h line snp) := by
    unfold State.sendBisnp
    rw [hi]
    exact (TrafficKept.cnt_ldCnt ..).trans (Aside.stn ..).trafficKept
  exact ⟨hcounted.out, hcounted.dir.trans (by rw [State.emit, State.wakeLink_eq])⟩

/-- An exchange whose one BISnp has been sent. -/
def Exch.sentTo (x : Exch) (w : BiWait) : Exch := { x with waits := [{ w with sent := true }] }

/-- A BISnp that waits for a credit of its head is sent with the one that comes. -/
theorem State.sendWaiting_one {s : State} {x : Exch} {w : BiWait} (hx : s.dir.exchs = [x]) (hwaits : x.waits = [w]) (hsent : w.sent = false)
    (hc : Tbl.lookD s.dir.credits 0 w.head ≠ 0) :
    s.sendWaiting w.head 1 = (s.withDir (s.dir.withSnoop (x.sentTo w) w.head)).sendBisnp w.head x.line w.snp := by
  unfold State.sendWaiting
  simp only [hx, hwaits, hsent, hc, List.any_cons, List.any_nil, List.find?_cons, beq_self_eq_true, Bool.not_false, Bool.and_self, Bool.or_false, if_false, Option.map_some, Option.getD_some,
    List.map_cons, List.map_nil, if_true]
  exact congrArg (State.sendBisnp · w.head x.line w.snp) (State.setExch_sole (y := x) rfl rfl rfl)

/-! ### BISnp that time out (R114, R118) -/

theorem State.noteWrite_eq (s : State) (line : Nat) : s.noteWrite line = { s with place := (s.noteWrite line).place } := by
  unfold State.noteWrite
  split
  · rfl
  · split <;> rfl

/-- Poison that is stored goes to the write-combining buffer or to the table of requests. -/
theorem State.poisonLine_eq (s : State) (line : Nat) : s.poisonLine line = { s with path := (s.poisonLine line).path, place := (s.poisonLine line).place } := by
  unfold State.poisonLine
  split
  · rw [State.noteWrite_eq]
    unfold State.wcbPut
    split <;> rfl
  · rfl

/-- What records timeouts changes neither the directory nor an LD beside its pending vectors. -/
theorem State.raiseTimeouts_noted (s : State) (x : Exch) : (s.raiseTimeouts x).dir = s.dir ∧ PendsOnly s (s.raiseTimeouts x) := by
  have hnoted : Noted s (s.raiseTimeouts x) := Noted.foldl _ s fun t h => (Noted.raise ..).trans (Noted.wr ..)
  exact ⟨by rw [hnoted.eq], PendsOnly.foldl _ s fun t h => (PendsOnly.raise ..).trans (PendsOnly.ofLds _ _ (State.sat_lds ..))⟩

/-- The head that has timed out has left the entry of the line, or has freed it. -/
def State.timedOutEntry (s : State) (x : Exch) (h : Nat) : State :=
  match s.entry? x.line with
  | some (k, e) => match e.without h with
    | some e' => s.putWay k e'
    | none => match x.why with
      | .txn _ => s
      | .evict .. => s
      | _ => s.delWay k
  | none => s

theorem State.timedOutEntry_eq (s : State) (x : Exch) (h : Nat) : s.timedOutEntry x h = s.withDir { s.dir with ways := (s.timedOutEntry x h).dir.ways } := by
  unfold State.timedOutEntry
  split
  · split
    · rfl
    · split <;> rfl
  · rfl

/-- An exchange in which the BISnp of a head has timed out. -/
def Exch.timedOutAt (x : Exch) (h : Nat) : Exch := { x with poisoned := true, data := none, timedOut := x.timedOut ++ [h] }

/-- Once the entry is set right, a timeout stores the line as poisoned and ends the wait for the head. -/
theorem State.biTimedOut_eq (s : State) (x : Exch) (h : Nat) :
    s.biTimedOut x h = (((s.timedOutEntry x h).setExch (x.timedOutAt h)).poisonLine x.line).endWait (x.timedOutAt h) h := rfl

/-- A BISnp of a drain that times out ends its exchange (R114). -/
theorem State.biTimedOut_drain {s : State} {x : Exch} {w : BiWait} {i : Nat} (hx : s.dir.exchs = [x]) (hwaits : x.waits = [w]) (hwhy : x.why = .drain i) :
    (s.biTimedOut x w.head).dir.exchs = [] ∧ PendsOnly s (s.biTimedOut x w.head) := by
  have hset : (s.timedOutEntry x w.head).setExch (x.timedOutAt w.head) = (s.timedOutEntry x w.head).withExchs [x.timedOutAt w.head] :=
    State.setExch_sole (y := x) (by rw [State.timedOutEntry_eq]; exact hx) rfl rfl
  have htimed : (x.timedOutAt w.head).answered.timedOut ≠ [] := by simp [Exch.timedOutAt, Exch.answered]
  have hlds : (((s.timedOutEntry x w.head).withExchs [x.timedOutAt w.head]).poisonLine x.line).lds = s.lds := by
    rw [State.poisonLine_eq, State.timedOutEntry_eq]
    rfl
  have hexchs : (((s.timedOutEntry x w.head).withExchs [x.timedOutAt w.head]).poisonLine x.line).dir.exchs = [x.timedOutAt w.head] := by rw [State.poisonLine_eq]; rfl
  rw [State.biTimedOut_eq, hset]
  generalize ((s.timedOutEntry x w.head).withExchs [x.timedOutAt w.head]).poisonLine x.line = u at hlds hexchs
  rw [State.endWait_drain hexchs hwaits hwhy, State.recallEnd, if_pos htimed, State.freeLine_eq]
  obtain ⟨hdir, hpends⟩ := State.raiseTimeouts_noted (u.withExchs []) (x.timedOutAt w.head).answered
  exact ⟨congrArg Dir.exchs hdir, (PendsOnly.ofLds s (u.withExchs []) hlds).trans (hpends.trans (PendsOnly.ofLds _ _ rfl))⟩

/-- A BISnp whose timer runs has not timed out. -/
theorem State.biTimeout_early {s : State} {h line : Nat}
    (hx : ∀ x ∈ s.dir.exchs, x.line = line → ∀ w ∈ x.waits, w.head = h → s.tick < w.start + s.rd Reg.DIR_BI_TIMEOUT_BI_TIMEOUT) : s.biTimeout h line = s := by
  unfold State.biTimeout
  split
  · rfl
  · split
    · rfl
    · next x hfor =>
      refine if_neg fun hdue => ?_
      have hline := List.find?_some hfor
      simp only [Bool.and_eq_true, beq_iff_eq] at hline
      simp only [List.any_eq_true, Bool.and_eq_true, beq_iff_eq, decide_eq_true_eq] at hdue
      obtain ⟨w, hw, hhead, hle⟩ := hdue
      exact absurd (hx x (List.mem_of_find?_eq_some hfor) hline.1 w hw hhead) (by omega)

/-- A BISnp of a drain that is due ends its exchange and marks the LD (R118). -/
theorem State.biTimeout_drain {s : State} {line i : Nat} {w : BiWait} (hsafe : s.isSafe = false) (hx : s.dir.exchs = [{ line := line, why := .drain i, waits := [w] }])
    (hdue : w.start + s.rd Reg.DIR_BI_TIMEOUT_BI_TIMEOUT ≤ s.tick) :
    s.biTimeout w.head line = (s.updLd i (fun d => { d with drainPoisoned := true })).biTimedOut { line := line, why := .drain i, waits := [w] } w.head := by
  have hfor : s.exchFor w.head line = some { line := line, why := .drain i, waits := [w] } := by simp [State.exchFor, hx]
  unfold State.biTimeout
  rw [hsafe, hfor]
  simp [hdue, State.drainMark]

/-! ### The statement -/

/-- Settles O40: each message by what it finds open, from the end of an exchange with one head. -/
theorem backInvalidateMessagesTakeEffect : Obligations.BackInvalidateMessagesTakeEffect := by
  unfold Obligations.BackInvalidateMessagesTakeEffect
  refine ⟨?closed, ?stray, ?answer, ?conflict, ?credits, ?credit, ?early, ?timeout⟩
  case closed =>
    intro h line n r s hno
    have hcan : (s.linkUp h && !s.isSafe) = false := by
      rcases hno with hlink | hsafe
      · rw [hlink]; rfl
      · rw [hsafe, Bool.not_true, Bool.and_false]
    have hbirsp : s.birsp h line r = s := by rw [State.birsp, hcan]; rfl
    have hconflict : s.biConflict h line = s := by rw [State.biConflict, State.canSend, hcan]; rfl
    have hcredits : s.biCredits h n = s := by rw [State.biCredits, hcan]; rfl
    exact ⟨congrArg Host.Outcome.next hbirsp, congrArg Host.Outcome.next hconflict, congrArg Host.Outcome.next hcredits⟩
  case stray =>
    intro h line r s hlink hsafe hx
    have hcnt := Counted.cnt s 0x0606 (.head h) 1
    exact ⟨_, congrArg Host.Outcome.next (State.birsp_stray r hlink hsafe hx), hcnt.eq, hcnt.word⟩
  case answer =>
    intro h line i k w e r s hlink hsafe htxns hin hx hhead hsent hsnp he
    rw [← hhead] at hlink
    obtain ⟨u, hkept, hbirsp⟩ := State.birsp_drain r hlink hsafe htxns hin hx hsent hsnp he
    rw [hhead] at hbirsp
    refine ⟨_, congrArg Host.Outcome.next hbirsp, ?_, State.look_setEntry_same .., ?_, ?_, fun j hj => (State.look_setEntry_other _ _ hj).trans ?_⟩
    · rw [State.setEntry_eq]; rfl
    · rw [State.setEntry_eq]; exact hkept.out
    · rw [State.setEntry_eq]; exact hkept.media
    · rw [← hkept.dir]; rfl
  case conflict =>
    intro h line s hlink hsafe
    exact congrArg Host.Outcome.next (if_pos (by rw [State.canSend, hlink, hsafe]; rfl))
  case credits =>
    intro h n s hlink hsafe hx
    have hadd : s.biCredits h n = s.withDir (s.dir.credited h n) := (State.biCredits_eq n hlink hsafe).trans (State.sendWaiting_none n hx)
    exact ⟨_, congrArg Host.Outcome.next hadd, rfl, Dir.lookD_credited_same .., fun k hk => Dir.lookD_credited_other _ n hk⟩
  case credit =>
    intro h i x w s hlink hsafe hx hwaits hhead hsent hi
    have hcredit := Dir.lookD_credited_same s.dir h 1
    obtain ⟨hout, hdir⟩ := State.sendBisnp_out (s := (s.withDir (s.dir.credited h 1)).withDir ((s.dir.credited h 1).withSnoop (x.sentTo w) h)) w.snp hi
    have hsend := State.sendWaiting_one (s := s.withDir (s.dir.credited h 1)) hx hwaits hsent (by rw [hhead]; exact ne_of_eq_of_ne hcredit (Nat.succ_ne_zero _))
    rw [hhead] at hsend
    refine ⟨_, congrArg Host.Outcome.next ((State.biCredits_eq 1 hlink hsafe).trans hsend), hout.trans ?_, congrArg Dir.exchs hdir, (congrArg (fun d : Dir => Tbl.lookD d.credits 0 h) hdir).trans ?_⟩
    · rw [State.wakeLink_withDir, State.wakeLink_withDir]
      rfl
    · exact (Tbl.lookD_putD_same ..).trans (by rw [hcredit, Nat.add_sub_cancel])
  case early =>
    intro h line s hno
    refine congrArg Host.Outcome.next ?_
    rcases hno with hsafe | hx
    · rw [State.biTimeout, if_pos hsafe]
    · exact State.biTimeout_early hx
  case timeout =>
    intro h line i w d s hsafe hx hhead hdue hd
    have htimeout := State.biTimeout_drain hsafe hx hdue
    obtain ⟨hexchs, hpends⟩ := State.biTimedOut_drain (s := s.updLd i (fun d => { d with drainPoisoned := true })) hx rfl rfl
    obtain ⟨b, hld⟩ := hpends.ld i _ (State.ld?_updLd_same hd _)
    rw [hhead] at htimeout hexchs hld
    exact ⟨_, _, congrArg Host.Outcome.next htimeout, hexchs, hld, rfl, rfl⟩

end Sys2Proof.Machine
end

section
/-! Refutation of the effect of a recall on the borrower: the recall that empties the lease evaluates the pressure level, and the return to NORMAL restarts the empty time of every lease (R150, R151). -/
namespace Sys2Proof.Machine

/-- A released die whose Graft port 0 is UP, with duty 7 on the healthy pair 3. It holds lease 0, without pages since tick 5; its pool of 8 units is free but its level is still TIGHT. -/
def staleTightBorrower : State :=
  let s : State := { State.reset with boot := { State.reset.boot with released := true }, tick := 9,
                                      place := { State.reset.place with chans := [(0, { frames := 16, resFree := 2, resCap := 2, flrCap := 0 })] },
                                      borrow := [(0, { port := 0, emptyAt := 5 })] }
  ((((s.wr Reg.GLB_WDN_STATUS_HEALTHY 0xff).wr (Reg.GFT_PORT_STATUS_STATE 0) 2).wr (Reg.GFT_BORROW_STATE 0) 1).wr Reg.CUR_POOL_SIZE_UNITS 8).wr Reg.CUR_PRESSURE_LEVEL 1

/-- The die takes the recall of lease 0: the port is UP, the pair of duty 7 is healthy, and the lease is ACTIVE and has no pages. -/
theorem staleTightBorrower_takesRecall :
    staleTightBorrower.portUp 0 = true ∧ staleTightBorrower.dutyUp 7 = true ∧ staleTightBorrower.rd (Reg.GFT_BORROW_STATE 0) = 1
      ∧ staleTightBorrower.rd (Reg.GFT_BORROW_USED_UNITS 0) = 0 ∧ Tbl.look staleTightBorrower.borrow 0 = some { port := 0, emptyAt := 5 } ∧ staleTightBorrower.tick = 9 := by
  decide +kernel

/-- After the recall the level is NORMAL, and the lease counts as empty since tick 9, the tick of the recall, and not since tick 5. -/
theorem lease_of_staleTightBorrower :
    Tbl.look (nextOf (exec (.leaseRecall 0 0 0 7) staleTightBorrower) staleTightBorrower).borrow 0 = some { port := 0, emptyAt := 9, recallAt := 9, period := 7 } := by
  decide +kernel

/-- Refutes O59: a recall of an empty lease changes more of its entry than the time and the period of the recall, where the pressure level returns to NORMAL with it. -/
theorem not_leasesBetweenKelorns : ¬ Obligations.LeasesBetweenKelorns := by
  unfold Obligations.LeasesBetweenKelorns
  rintro ⟨-, -, -, -, -, -, -, hrecall, -⟩
  obtain ⟨hup, hduty, hactive, hempty, hlease, htick⟩ := staleTightBorrower_takesRecall
  obtain ⟨t, ht, -, -, hcase⟩ := hrecall 0 0 0 7 _ staleTightBorrower hup hduty hlease
  rw [show ((0 : Fin 64) : Nat) = 0 from rfl, if_pos hactive] at hcase
  obtain ⟨-, hentry, -⟩ := hcase
  have hnext : nextOf (exec (.leaseRecall 0 0 0 7) staleTightBorrower) staleTightBorrower = t := by rw [ht]; rfl
  have hstale : Tbl.look t.borrow 0 = some { port := 0, emptyAt := 9, recallAt := 9, period := 7 } := hnext ▸ lease_of_staleTightBorrower
  rw [hstale, htick] at hentry
  exact absurd hentry (by decide)

end Sys2Proof.Machine
end

section
/-! The C1 commands: placement settings, page queries and the start of a sanitise (R127, R136, R137, R139, R143, R151, R337, R350). -/
namespace Sys2Proof.Machine

/-! ### Values that a command writes in register fields -/

/-- A parameter stands in its field at its own value, or at the field's largest. -/
theorem bitsOf_withField_same (w : Word) (f : Reg.Fld) (x : Nat) (h : f.lo + f.w ≤ 32) : bitsOf (withField w f x) f.lo f.w = min x (2 ^ f.w - 1) := by
  have hpos := Nat.two_pow_pos f.w
  exact (bitsOf_setBits_same w f.lo f.w _ h).trans (Nat.mod_eq_of_lt (by omega))

theorem bitsOf_withField_other (w : Word) (f : Reg.Fld) (x lo n : Nat) (h : f.lo + f.w ≤ 32) (hd : f.lo + f.w ≤ lo ∨ lo + n ≤ f.lo) : bitsOf (withField w f x) lo n = bitsOf w lo n :=
  bitsOf_setBits_other w f.lo f.w _ lo n h hd

/-- A field with a range takes the nearer end of it for what is written (R344). -/
theorem State.bitsOf_store32_clamp (s : State) (d : Reg.RegDef) (off : Nat) (v : Word) (lo w a b : Nat) (h32 : lo + w ≤ 32) (hin : inOrder d.fields = true) (hf : Reg.f lo w .rw (.clamp a b) ∈ d.fields)
    (hw : max a b < 2 ^ w) : bitsOf ((s.store32 d off v).word off) lo w = max a (min b (bitsOf v lo w)) :=
  State.bitsOf_store32 s d off v (Reg.f lo w .rw (.clamp a b)) _ h32 hin hf fun acc => by
    have h64 : (Reg.f lo w .rw (.clamp a b)).lo + (Reg.f lo w .rw (.clamp a b)).w ≤ 64 := Nat.le_trans h32 (by decide)
    rw [← bitsOf_written (s.word off) v lo w h32]
    refine (bitsOf_setBits_same acc _ _ _ h64).trans (Nat.mod_eq_of_lt ?_)
    show max a (min b _) < 2 ^ w
    omega

/-- A write of a register field by a command, where the register is one of CUR_EPOCH_CFG and CUR_POLICY. -/
theorem find_curator (off : Nat) (fields : List Reg.FieldDef) (h : (Reg.find off).any (fun e => e.1.size == 4 && e.1.fields == fields) = true) (hoff : off = 0x300004 ∨ off = 0x300010) (s : State) (v : Word) :
    ∃ d : Reg.RegDef, d.fields = fields ∧ s.writeReg off v = s.store32 d off v := by
  obtain ⟨d, i, hfind, hd⟩ := find_of_any h
  obtain ⟨hsize, hfields⟩ : d.size = 4 ∧ d.fields = fields := by simpa using hd
  refine ⟨d, hfields, ?_⟩
  rcases hoff with rfl | rfl
  · rw [State.writeReg, State.write32_full s _ _ (by decide) (by decide), State.regWrite_word s _ _ hfind (by omega)]
    rfl
  · rw [State.writeReg, State.write32_full s _ _ (by decide) (by decide), State.regWrite_word s _ _ hfind (by omega)]
    rfl

/-! ### SET_CURATOR -/

/-- The fields of CUR_EPOCH_CFG and of CUR_POLICY. -/
def epochCfgFields : List Reg.FieldDef := [Reg.f 0 10 .rw (.clamp 1 1000), Reg.f 10 21 .rsv, Reg.f 31 1 .rw]
def policyFields : List Reg.FieldDef := [Reg.f 0 16 .rw (.clamp 1 65535), Reg.f 16 4 .rw (.clamp 1 8), Reg.f 20 4 .rw (.clamp 1 8), Reg.f 24 7 .rw, Reg.f 31 1 .rw]

section Curator
variable (s : State) (len curate hot idle tight balance spill : Nat)

/-- The words that SET_CURATOR writes in CUR_EPOCH_CFG and in CUR_POLICY. -/
def State.epochCfgWord : Word := withField (withField (s.word 0x300004) Reg.CUR_EPOCH_CFG_LEN_MS len) Reg.CUR_EPOCH_CFG_CURATE curate
def State.policyWord : Word :=
  withField (withField (withField (withField (withField (s.word 0x300010) Reg.CUR_POLICY_HOT_MARK hot) Reg.CUR_POLICY_FREEZE_IDLE idle) Reg.CUR_POLICY_FREEZE_IDLE_TIGHT tight)
    Reg.CUR_POLICY_BALANCE_PCT balance) Reg.CUR_POLICY_SPILL_EN spill

theorem State.setCurator_eq : s.setCurator len curate hot idle tight balance spill =
    (s.writeReg 0x300004 (s.epochCfgWord len curate)).writeReg 0x300010 (s.policyWord hot idle tight balance spill) := rfl

theorem bitsOf_epochCfgWord : bitsOf (s.epochCfgWord len curate) 0 10 = min len 1023 ∧ bitsOf (s.epochCfgWord len curate) 31 1 = min curate 1 := by
  refine ⟨?_, bitsOf_withField_same _ Reg.CUR_EPOCH_CFG_CURATE _ (by decide)⟩
  rw [State.epochCfgWord, bitsOf_withField_other _ _ _ _ _ (by decide) (by decide)]
  exact bitsOf_withField_same _ Reg.CUR_EPOCH_CFG_LEN_MS _ (by decide)

theorem bitsOf_policyWord :
    bitsOf (s.policyWord hot idle tight balance spill) 0 16 = min hot 65535 ∧ bitsOf (s.policyWord hot idle tight balance spill) 16 4 = min idle 15
      ∧ bitsOf (s.policyWord hot idle tight balance spill) 20 4 = min tight 15 ∧ bitsOf (s.policyWord hot idle tight balance spill) 24 7 = min balance 127
      ∧ bitsOf (s.policyWord hot idle tight balance spill) 31 1 = min spill 1 := by
  refine ⟨?_, ?_, ?_, ?_, bitsOf_withField_same _ Reg.CUR_POLICY_SPILL_EN _ (by decide)⟩
  · rw [State.policyWord, bitsOf_withField_other _ _ _ _ _ (by decide) (by decide), bitsOf_withField_other _ _ _ _ _ (by decide) (by decide),
      bitsOf_withField_other _ _ _ _ _ (by decide) (by decide), bitsOf_withField_other _ _ _ _ _ (by decide) (by decide)]
    exact bitsOf_withField_same _ Reg.CUR_POLICY_HOT_MARK _ (by decide)
  · rw [State.policyWord, bitsOf_withField_other _ _ _ _ _ (by decide) (by decide), bitsOf_withField_other _ _ _ _ _ (by decide) (by decide),
      bitsOf_withField_other _ _ _ _ _ (by decide) (by decide)]
    exact bitsOf_withField_same _ Reg.CUR_POLICY_FREEZE_IDLE _ (by decide)
  · rw [State.policyWord, bitsOf_withField_other _ _ _ _ _ (by decide) (by decide), bitsOf_withField_other _ _ _ _ _ (by decide) (by decide)]
    exact bitsOf_withField_same _ Reg.CUR_POLICY_FREEZE_IDLE_TIGHT _ (by decide)
  · rw [State.policyWord, bitsOf_withField_other _ _ _ _ _ (by decide) (by decide)]
    exact bitsOf_withField_same _ Reg.CUR_POLICY_BALANCE_PCT _ (by decide)

/-- SET_CURATOR changes its two registers only. -/
theorem State.setCurator_onlyWords : OnlyWords s (s.setCurator len curate hot idle tight balance spill) [0x300004, 0x300010] := by
  obtain ⟨d, -, hfirst⟩ := find_curator 0x300004 epochCfgFields (by decide +kernel) (.inl rfl) s (s.epochCfgWord len curate)
  obtain ⟨e, -, hsecond⟩ := find_curator 0x300010 policyFields (by decide +kernel) (.inr rfl) (s.store32 d 0x300004 (s.epochCfgWord len curate)) (s.policyWord hot idle tight balance spill)
  rw [State.setCurator_eq, hfirst, hsecond]
  refine ⟨rfl, fun off hoff => ?_⟩
  obtain ⟨h4, h10⟩ : off ≠ 0x300004 ∧ off ≠ 0x300010 := by simpa using hoff
  exact (State.word_setWord_other _ _ _ _ h10).trans (State.word_setWord_other _ _ _ _ h4)

/-- SET_CURATOR leaves each field at the end of its range that is nearer to the value asked for. -/
theorem State.rd_setCurator (hhot : hot < 2 ^ 16) (t : State) (ht : t = s.setCurator len curate hot idle tight balance spill) :
    t.rd Reg.CUR_EPOCH_CFG_LEN_MS = max 1 (min 1000 len) ∧ t.rd Reg.CUR_EPOCH_CFG_CURATE = min 1 curate
      ∧ t.rd Reg.CUR_POLICY_HOT_MARK = max 1 hot ∧ t.rd Reg.CUR_POLICY_FREEZE_IDLE = max 1 (min 8 idle) ∧ t.rd Reg.CUR_POLICY_FREEZE_IDLE_TIGHT = max 1 (min 8 tight)
      ∧ t.rd Reg.CUR_POLICY_BALANCE_PCT = min 127 balance ∧ t.rd Reg.CUR_POLICY_SPILL_EN = min 1 spill := by
  obtain ⟨d, hd, hfirst⟩ := find_curator 0x300004 epochCfgFields (by decide +kernel) (.inl rfl) s (s.epochCfgWord len curate)
  obtain ⟨e, he, hsecond⟩ := find_curator 0x300010 policyFields (by decide +kernel) (.inr rfl) (s.store32 d 0x300004 (s.epochCfgWord len curate)) (s.policyWord hot idle tight balance spill)
  have hd' : inOrder d.fields = true := by rw [hd]; decide
  have he' : inOrder e.fields = true := by rw [he]; decide
  rw [State.setCurator_eq, hfirst, hsecond] at ht
  have hepoch : t.word 0x300004 = (s.store32 d 0x300004 (s.epochCfgWord len curate)).word 0x300004 := by rw [ht]; exact State.word_setWord_other _ _ _ _ (by decide)
  obtain ⟨hlen, hcurate⟩ := bitsOf_epochCfgWord s len curate
  obtain ⟨hmark, hidle, htight, hbalance, hspill⟩ := bitsOf_policyWord s hot idle tight balance spill
  refine ⟨?_, ?_, ?_, ?_, ?_, ?_, ?_⟩
  · show bitsOf (t.word 0x300004) 0 10 = _
    rw [hepoch, State.bitsOf_store32_clamp _ d _ _ 0 10 1 1000 (by decide) hd' (by rw [hd]; decide) (by decide), hlen]
    omega
  · show bitsOf (t.word 0x300004) 31 1 = _
    rw [hepoch, State.bitsOf_store32_rw _ d _ _ 31 1 (by decide) hd' (by rw [hd]; decide), hcurate, Nat.min_comm]
  · show bitsOf (t.word 0x300010) 0 16 = _
    rw [ht, State.bitsOf_store32_clamp _ e _ _ 0 16 1 65535 (by decide) he' (by rw [he]; decide) (by decide), hmark]
    omega
  · show bitsOf (t.word 0x300010) 16 4 = _
    rw [ht, State.bitsOf_store32_clamp _ e _ _ 16 4 1 8 (by decide) he' (by rw [he]; decide) (by decide), hidle]
    omega
  · show bitsOf (t.word 0x300010) 20 4 = _
    rw [ht, State.bitsOf_store32_clamp _ e _ _ 20 4 1 8 (by decide) he' (by rw [he]; decide) (by decide), htight]
    omega
  · show bitsOf (t.word 0x300010) 24 7 = _
    rw [ht, State.bitsOf_store32_rw _ e _ _ 24 7 (by decide) he' (by rw [he]; decide), hbalance, Nat.min_comm]
  · show bitsOf (t.word 0x300010) 31 1 = _
    rw [ht, State.bitsOf_store32_rw _ e _ _ 31 1 (by decide) he' (by rw [he]; decide), hspill, Nat.min_comm]

end Curator

theorem runs_setCurator (h : Hdr) (lenMs : BitVec 16) (curate : BitVec 8) (hot : BitVec 16) (idle tight balance spill : BitVec 8) (s : State) :
    Runs (.setCurator h lenMs curate hot idle tight balance spill) s [(decide (1 < curate.toNat), 2, 2, 0), (decide (1 < spill.toNat), 2, 7, 0)]
      (fun p => (s.setCurator lenMs.toNat curate.toNat hot.toNat idle.toNat tight.toNat balance.toNat spill.toNat).committed p []) :=
  have ho : CmdOp.Of { code := 0xC101, cls := .f, changes := true } { h := h, code := 0xC101, cls := .f } := ⟨rfl, rfl, rfl, rfl, rfl⟩
  runs_plain (own := [{ bad := decide (1 < curate.toNat), rc := rcInput, at' := 2 }, { bad := decide (1 < spill.toNat), rc := rcInput, at' := 7 }]) rfl rfl ho rfl rfl rfl
    fun _ => State.conclude_committed _ _ ho rfl _

/-! ### SET_REGION_PLACEMENT -/

/-- The checks of SET_REGION_PLACEMENT, as the model makes them. -/
def State.placementChecks (s : State) (region : BitVec 16) (place spillOk : BitVec 8) (mask : BitVec 16) : List Chk :=
  [{ bad := (Tbl.look s.regions region.toNat).isNone, rc := 0x8002, at' := 1 }, { bad := decide (2 < place.toNat), rc := rcInput, at' := 2 },
    { bad := decide (1 < spillOk.toNat), rc := rcInput, at' := 3 }, { bad := !s.maskOk mask, rc := rcInput, at' := 4 },
    { bad := (Tbl.look s.regions region.toNat).any (fun (r : Region) => r.lend) && place != 1, rc := rcInput, at' := 2 },
    { bad := (Tbl.look s.regions region.toNat).any (fun (r : Region) => r.lend) && spillOk != 0, rc := rcInput, at' := 3 }]

theorem runs_setRegionPlacement (h : Hdr) (region : BitVec 16) (place spillOk : BitVec 8) (mask : BitVec 16) (s : State) :
    Runs (.setRegionPlacement h region place spillOk mask) s
      [((Tbl.look s.regions region.toNat).isNone, 0x8002, 1, 0), (decide (2 < place.toNat), 2, 2, 0), (decide (1 < spillOk.toNat), 2, 3, 0),
        (mask != 0 && !s.boot.chans.any (fun c => mask.getLsbD c), 2, 4, 0),
        ((Tbl.look s.regions region.toNat).any (fun r => r.lend) && place != 1, 2, 2, 0), ((Tbl.look s.regions region.toNat).any (fun r => r.lend) && spillOk != 0, 2, 3, 0)]
      (fun p => (s.updRegion region.toNat (fun r => { r with place := place.toNat, spillOk := spillOk == 1#8, mask := mask })).committed p []) :=
  have ho : CmdOp.Of { code := 0xC102, cls := .f, changes := true } { h := h, code := 0xC102, cls := .f } := ⟨rfl, rfl, rfl, rfl, rfl⟩
  have hrows : (s.placementChecks region place spillOk mask).map Chk.row = _ := by
    simp only [State.placementChecks, List.map_cons, List.map_nil, Chk.row, State.maskOk, Bool.not_or]
    rfl
  runs_plain (own := s.placementChecks region place spillOk mask) rfl rfl ho rfl rfl hrows fun _ => State.conclude_committed _ _ ho rfl _

/-! ### Queries -/

/-- The counters that CUR_POOL_FREE shows lie apart from the registers below them. -/
theorem State.rd_showPool (s : State) (f : Reg.Fld) (h : f.off + 4 * (f.lo / 32) + 4 < 0x300030) : s.showPool.rd f = s.rd f := by
  have hunits : apart Reg.CUR_POOL_FREE_UNITS f := .inr h
  have hreserve : apart Reg.CUR_POOL_FREE_RESERVE f := .inr (Nat.lt_trans h (by decide))
  rw [State.showPool, State.rd_wr_apart _ _ _ _ hreserve, State.rd_wr_apart _ _ _ _ hunits]

theorem runs_getPlacement (h : Hdr) (s : State) : Runs (.getPlacement h) s [] (fun p => s.replied p 0 0 0 s.placementBody) :=
  have ho : CmdOp.Of { code := 0xC100, cls := .m } { h := h, code := 0xC100, cls := .m } := ⟨rfl, rfl, rfl, rfl, rfl⟩
  runs_plain (own := []) rfl rfl ho rfl rfl rfl fun _ => State.conclude_replied _ _ ho rfl _ _

/-- The checks of SPACE and of an address range are those of the statement. -/
theorem State.rangeChecks_rows (s : State) (h : Hdr) (space dpa n : Nat) : (s.rangeChecks h space dpa n).map Chk.row = rangeTests s h space dpa n := by
  simp only [State.rangeChecks, rangeTests, List.map_cons, List.map_nil, Chk.row, State.spaceOk, Bool.not_or, bne, Bool.not_not]
  rfl

theorem runs_getPageInfo (h : Hdr) (space : BitVec 8) (dpa : BitVec 64) (count : BitVec 16) (s : State) :
    Runs (.getPageInfo h space dpa count) s ((decide (count.toNat < 1 ∨ 500 < count.toNat), 0x800F, hdrAt h 3, 0) :: rangeTests s h space.toNat dpa.toNat (4096 * count.toNat))
      (fun p => s.replied p 0 0 0 ((List.range count.toNat).flatMap (fun k => leBytes 8 (s.pageEntry (s.infoPage h space.toNat dpa.toNat k))))) :=
  have ho : CmdOp.Of { code := 0xC103, cls := .u, namesLd := space == 0#8 } { h := h, code := 0xC103, cls := .u, namesLd := space == 0#8 } := ⟨rfl, rfl, rfl, rfl, rfl⟩
  runs_plain (own := { bad := decide (count.toNat < 1 ∨ 500 < count.toNat), rc := 0x800F, at' := hdrAt h 3 } :: s.rangeChecks h space.toNat dpa.toNat (4096 * count.toNat)) rfl rfl ho rfl rfl
    (by rw [List.map_cons, s.rangeChecks_rows]; rfl) fun _ => State.conclude_replied _ _ ho rfl _ _

theorem runs_getEpochTotals (h : Hdr) (s : State) :
    Runs (.getEpochTotals h) s [] (fun p => s.replied p 0 0 0
      (if 0 < s.place.epoch then leBytes 1 1 ++ leBytes 2 ((s.place.epoch - 1) % 65536) ++ (List.range 16).flatMap (fun c => leBytes 8 (s.chanTotal c))
       else leBytes 1 0 ++ leBytes 2 0 ++ (List.range 16).flatMap (fun _ => leBytes 8 0))) :=
  have ho : CmdOp.Of { code := 0xC105, cls := .m } { h := h, code := 0xC105, cls := .m } := ⟨rfl, rfl, rfl, rfl, rfl⟩
  runs_plain (own := []) rfl rfl ho rfl rfl rfl fun _ => by
    rw [State.conclude_replied _ _ ho rfl]
    by_cases hclosed : 0 < s.place.epoch <;> simp [hclosed]

/-! ### SANITIZE_RANGE -/

/-- A background command concludes with its start (R346). -/
theorem State.conclude_begun (s t : State) {o : CmdOp} {p : Packet} (ho : o.Of p) (why : BgWhy) : s.conclude p.h o (.started t why) = t.begun p why := by
  simp only [State.conclude, State.begun, State.answer_eq_replied _ ho, Packet.id, ho.ycs, ho.code, rcStarted]

/-- A background command that changes no object of another makes its own checks after that of its source. -/
theorem runs_background {c : Instr} {s : State} {p : Packet} {o : CmdOp} {args : List Byte} {own : List Chk} {a : Ans} {checks : Checks} {good : Packet → State}
    (hc : packetOf c = some p) (hx : exec c s = .next (s.command args p.h o (Ans.after own a))) (ho : o.Of p) (hb : o.bg = true) (hy : o.busy = false)
    (hchecks : own.map Chk.row = checks) (hgood : s.conclude p.h o a = good p) : Runs c s (s.occupied p.h :: checks) good :=
  runs_command hc hx ho (by
    simp only [CmdOp.before, hb, hy, Bool.true_and, State.occupied, rcBusy, List.cons_append, List.nil_append, hchecks, List.find?_cons]) fun _ => hgood

theorem runs_sanitizeRange (h : Hdr) (space : BitVec 8) (dpa len : BitVec 64) (s : State) :
    Runs (.sanitizeRange h space dpa len) s (s.occupied h :: rangeTests s h space.toNat dpa.toNat len.toNat)
      (fun p => (s.startSanitize (s.rangesOf h space.toNat dpa.toNat len.toNat)).begun p (.sanitize (s.rangesOf h space.toNat dpa.toNat len.toNat))) :=
  have ho : CmdOp.Of { code := 0xC104, cls := .m, changes := true, bg := true, namesLd := space == 0#8 } { h := h, code := 0xC104, cls := .m, namesLd := space == 0#8 } := ⟨rfl, rfl, rfl, rfl, rfl⟩
  runs_background rfl rfl ho rfl rfl (s.rangeChecks_rows ..) (State.conclude_begun _ _ ho _)

/-! ### The obligation -/

/-- Settles O8: the checks and the effect of each command (`runs_…`), with the fields that SET_CURATOR leaves (`State.rd_setCurator`). -/
theorem placementCommandsTakeEffect : Obligations.PlacementCommandsTakeEffect := by
  unfold Obligations.PlacementCommandsTakeEffect
  refine ⟨⟨fun h lenMs curate hot idle tight balance spill s => ?_, runs_setRegionPlacement⟩, fun h s => ?_, runs_getPageInfo, runs_getEpochTotals, runs_sanitizeRange⟩
  · obtain ⟨hlen, hcurate, hmark, hidle, htight, hbalance, hspill⟩ := State.rd_setCurator s lenMs.toNat curate.toNat hot.toNat idle.toNat tight.toNat balance.toNat spill.toNat hot.isLt _ rfl
    exact ⟨_, State.setCurator_onlyWords .., hlen, hcurate, hmark, hidle, htight, hbalance, hspill, runs_setCurator h lenMs curate hot idle tight balance spill s⟩
  · have hrun := runs_getPlacement h s
    rwa [State.placementBody, State.rd_showPool _ Reg.CUR_PRESSURE_LEVEL (by decide), State.rd_showPool _ Reg.CUR_EPOCH_STATUS_EPOCH (by decide),
      State.rd_showPool _ Reg.CUR_EPOCH_LEN_EFF_LEN_MS (by decide), State.rd_showPool _ Reg.CUR_PRESSURE_LEASES (by decide), State.rd_showPool _ Reg.CUR_EPOCH_STATUS_INC_GEN (by decide)] at hrun

end Sys2Proof.Machine
end

section
/-! Range passes and the patrol (R256 to R258): what the work on a page leaves of the passes and of the pages' entries, and each step of a pass. -/
namespace Sys2Proof.Machine

/-! ### What events and SEC's work keep of passes and metadata lines -/

/-- Offsets of register words that no event, counter or loss entry is written to, but for the power state of a link. -/
def apartFromEvents (off : Nat) : Prop := 0x600000 ≤ off ∧ (off < 0x2200000 ∨ 0x2201000 ≤ off ∧ off < 0x2300000 ∨ 0x2302000 ≤ off ∧ off < 0x2308000 ∨ 0x2310000 ≤ off)

/-- A state beside another: the boot's settings and the passes are the same, and so are the low 11 bits of the register words at the offsets of P, which a link's
power state, in bits 11 to 13 of its word, lies above. -/
structure EventKept (P : Nat → Prop) (s t : State) : Prop where
  passes : t.mgmt.passes = s.mgmt.passes
  boot : t.boot = s.boot
  bits : ∀ off, P off → ∀ lo w, lo + w ≤ 11 → bitsOf (t.word off) lo w = bitsOf (s.word off) lo w

namespace EventKept
variable {P : Nat → Prop}

theorem refl (s : State) : EventKept P s s := ⟨rfl, rfl, fun _ _ _ _ _ => rfl⟩

theorem trans {s t u : State} (h : EventKept P s t) (k : EventKept P t u) : EventKept P s u :=
  ⟨k.passes.trans h.passes, k.boot.trans h.boot, fun off ho lo w hw => (k.bits off ho lo w hw).trans (h.bits off ho lo w hw)⟩

theorem foldl {α : Type} {f : State → α → State} (l : List α) (s : State) (hf : ∀ t x, EventKept P t (f t x)) : EventKept P s (l.foldl f s) := by
  induction l generalizing s with
  | nil => exact refl s
  | cons x l ih => exact (hf s x).trans (ih (f s x))

/-- What changes neither registers, nor the boot's settings, nor the passes. -/
theorem ofRegs {s t : State} (hregs : t.regs = s.regs) (hboot : t.boot = s.boot) (hpasses : t.mgmt.passes = s.mgmt.passes) : EventKept P s t :=
  ⟨hpasses, hboot, fun off _ _ _ _ => by rw [State.word_congr_regs hregs off]⟩

theorem setWord (s : State) {off : Nat} (v : Word) (h : ¬ P off) : EventKept P s (s.setWord off v) :=
  ⟨rfl, rfl, fun k hk _ _ _ => by rw [State.word_setWord_other _ _ _ _ (fun e : k = off => h (e ▸ hk))]⟩

theorem setDword (s : State) {off : Nat} (v : BitVec 64) (h : ¬ P off) (h4 : ¬ P (off + 4)) : EventKept P s (s.setDword off v) :=
  (setWord s _ h).trans (setWord _ _ h4)

/-- The write of a field that is in none of these words, or above the low bits of one. -/
theorem wr (s : State) (f : Reg.Fld) (x : Nat) (hin : f.lo % 32 + f.w ≤ 32) (h : ¬ P (f.off + 4 * (f.lo / 32)) ∨ 11 ≤ f.lo % 32) : EventKept P s (s.wr f x) := by
  refine ⟨by rw [State.wr_eq_withRegs], by rw [State.wr_eq_withRegs], fun off ho lo w hw => ?_⟩
  by_cases hoff : off = f.off + 4 * (f.lo / 32)
  · have habove : 11 ≤ f.lo % 32 := h.resolve_left (not_not_intro (hoff ▸ ho))
    rw [hoff, State.word_wr_same _ _ _ hin]
    exact bitsOf_setBits_other _ _ _ _ _ _ hin (.inr (by omega))
  · rw [State.word_wr_in _ _ _ _ hin hoff]

theorem wakeLink (s : State) (h : Nat) : EventKept P s (s.wakeLink h) := by
  have htraffic : EventKept P s (s.updHead h (fun x => { x with traffic := s.tick })) := ofRegs rfl rfl rfl
  unfold State.wakeLink
  dsimp only
  split
  · exact (htraffic.trans (wr _ _ _ (by simp [Reg.GLB_HEAD_STATUS_PSTATE]) (.inr (by simp [Reg.GLB_HEAD_STATUS_PSTATE])))).trans (ofRegs rfl rfl rfl)
  · exact htraffic

theorem msix (s : State) (i v : Nat) : EventKept P s (s.msix i v) := by
  unfold State.msix
  split
  · exact refl s
  · split
    · exact refl s
    · dsimp only
      split
      · exact ofRegs rfl rfl rfl
      · exact (wakeLink ..).trans (ofRegs rfl rfl rfl)

theorem alertVector (old s : State) : EventKept P s (State.alertVector old s) := by
  unfold State.alertVector
  split
  · exact refl s
  · exact foldl _ s fun t i => msix t i 6

theorem stn (s : State) (a w n : Nat) : EventKept P s (s.stn a w n) := ofRegs rfl rfl rfl

theorem ofSec {s t : State} (h : SecOnly s t) : EventKept P s t := ofRegs (by rw [h.eq]) (by rw [h.eq]) (by rw [h.eq])

theorem ofAdmitted {s t : State} (h : Admitted s t) : EventKept P s t := ofRegs (by rw [h.eq]) (by rw [h.eq]) (by rw [h.eq])

theorem metaReads (s : State) (xs : List (MetaKind × Nat)) (w : ReadFor) : EventKept P s (s.metaReads xs w) := foldl _ s fun t e => by
  unfold State.metaRead
  dsimp only
  split
  · exact refl t
  · exact ofRegs rfl rfl rfl

section Events
variable (hP : ∀ off, P off → apartFromEvents off)
include hP

/-- A word that an event, a counter or a loss entry is written to is none of P. -/
theorem word_not {off : Nat} (h : ¬ apartFromEvents off) : ¬ P off := fun ho => h (hP off ho)

theorem logWrite (s : State) (code sev arg0 arg1 : Nat) (r : Route) : EventKept P s (s.logWrite code sev arg0 arg1 r) := by
  have hnext : s.rd Reg.ALR_LOG_STATUS_NEXT < 1024 := Nat.mod_lt _ (by decide)
  have hentry : ∀ k, k < 0x20 → ¬ P (logBase (s.rd Reg.ALR_LOG_STATUS_NEXT) + k) := fun k hk => word_not hP (by unfold apartFromEvents logBase; omega)
  have hrec (v₀ v₁ : Word) (v₂ v₃ v₄ : BitVec 64) : EventKept P s (((((s.setWord (logBase (s.rd Reg.ALR_LOG_STATUS_NEXT)) v₀).setWord (logBase (s.rd Reg.ALR_LOG_STATUS_NEXT) + 4) v₁).setDword
      (logBase (s.rd Reg.ALR_LOG_STATUS_NEXT) + 8) v₂).setDword (logBase (s.rd Reg.ALR_LOG_STATUS_NEXT) + 16) v₃).setDword (logBase (s.rd Reg.ALR_LOG_STATUS_NEXT) + 24) v₄) :=
    ((((setWord _ _ (hentry 0 (by decide))).trans (setWord _ _ (hentry 4 (by decide)))).trans (setDword _ _ (hentry 8 (by decide)) (hentry 12 (by decide)))).trans
      (setDword _ _ (hentry 16 (by decide)) (hentry 20 (by decide)))).trans (setDword _ _ (hentry 24 (by decide)) (hentry 28 (by decide)))
  have hstatus : ∀ (t : State) (f : Reg.Fld) (x : Nat), f.off = 0x2300010 → f.lo + f.w ≤ 32 → EventKept P t (t.wr f x) := fun t f x ho hf =>
    wr t f x (by omega) (.inl (word_not hP (by unfold apartFromEvents; omega)))
  unfold State.logWrite
  dsimp only
  refine EventKept.trans ?_ (ofRegs (s := State.wr _ Reg.ALR_LOG_STATUS_NEXT _) rfl rfl rfl)
  refine EventKept.trans ?_ (hstatus _ _ _ rfl (by decide))
  split
  · exact (hrec _ _ _ _ _).trans (hstatus _ _ _ rfl (by decide))
  · exact hrec _ _ _ _ _

/-- An event whose cause word is one of a block's. -/
theorem raise (s : State) (code arg0 arg1 : Nat) (hcode : code < 0x4000) : EventKept P s (s.raise code arg0 arg1) := by
  have hnoted : EventKept P s (s.noteRaised code) := ofRegs rfl rfl rfl
  have hlog : EventKept P (s.noteRaised code) (match (if (evInfo code arg0).1 = 3 then none else (s.noteRaised code).mergeable code arg0) with
      | some e => (s.noteRaised code).sat (Reg.ALR_LOG_REPEAT e) 1
      | none => (s.noteRaised code).logWrite code (evInfo code arg0).1 arg0 arg1 (evInfo code arg0).2) := by
    split
    · exact wr _ _ _ (by simp [Reg.ALR_LOG_REPEAT]) (.inr (by simp [Reg.ALR_LOG_REPEAT]))
    · exact logWrite hP ..
  unfold State.raise
  dsimp only
  refine (hnoted.trans ?_).trans (alertVector ..)
  split
  · exact hlog.trans (setWord _ _ (word_not hP (by unfold apartFromEvents; omega)))
  · exact hlog

theorem cnt (s : State) (ev : Nat) (sc : Scope) (n : Nat) : EventKept P s (s.cnt ev sc n) := by
  have hcounted := Counted.cnt s ev sc n
  refine ⟨by rw [hcounted.eq], by rw [hcounted.eq], fun off ho lo w _ => ?_⟩
  have hoff := hP off ho
  unfold apartFromEvents at hoff
  rw [hcounted.word off (by omega)]

theorem recordLoss (s : State) (space : Bool) (kind start : Nat) : EventKept P s (s.recordLoss space kind start) := by
  unfold State.recordLoss
  dsimp only
  refine EventKept.trans ?_ (raise hP _ _ _ _ (by split <;> decide))
  split
  · next n hn =>
    have h64 : n < 64 := List.mem_range.1 (List.mem_of_find?_eq_some hn)
    exact setDword _ _ (word_not hP (by unfold apartFromEvents; omega)) (word_not hP (by unfold apartFromEvents; omega))
  · have hmarked : ∀ regions, EventKept P s { s with regions := regions } := fun _ => ofRegs rfl rfl rfl
    exact (hmarked _).trans (wr _ Reg.SEC_STATUS_LOSS_OVF _ (by decide) (.inr (by decide)))

theorem fetchNode (s : State) (level node : Nat) : EventKept P s (s.fetchNode level node).1 := by
  have hcounted : EventKept P s (if level = 0 then s else (s.cnt 0x0503 .dev).stn 112 2) := by
    split
    · exact refl s
    · exact (cnt hP ..).trans (stn ..)
  unfold State.fetchNode
  split
  · exact refl s
  · exact refl s
  · split
    · exact ofRegs rfl rfl rfl
    · dsimp only
      generalize (if level = 0 then s else (s.cnt 0x0503 .dev).stn 112 2) = u at hcounted ⊢
      split
      · exact hcounted.trans (ofRegs rfl rfl rfl)
      · split
        · exact (hcounted.trans (ofSec ((SecOnly.store ..).trans (SecOnly.putTag ..)))).trans (ofRegs rfl rfl rfl)
        · exact hcounted.trans (recordLoss hP ..)

theorem fetchDown (s : State) (q : Nat) (levels : List Nat) : EventKept P s (s.fetchDown q levels).1 := by
  induction levels generalizing s with
  | nil => exact refl s
  | cons l levels ih =>
    have hnode := fetchNode hP s l (q / 64 ^ l)
    unfold State.fetchDown
    split
    · next u hu =>
      rw [hu] at hnode
      exact hnode.trans (ih u)
    · next u hu =>
      rw [hu] at hnode
      exact hnode

theorem fetchCtr (s : State) (space : Bool) (q : Nat) : EventKept P s (s.fetchCtr space q).1 := by
  unfold State.fetchCtr
  split
  · exact refl s
  · split
    · exact refl s
    · split
      · exact fetchDown hP ..
      · split
        · exact recordLoss hP ..
        · exact ofRegs rfl rfl rfl

/-- The wait for a counter block, whatever comes of it. -/
theorem wantCtr (s : State) (p : Nat) (w : ReadFor) : EventKept P s (s.wantCtr p w).1 := by
  have hunask : ∀ space level node, EventKept P s (s.unask space level node) := fun _ _ _ => ofRegs rfl rfl rfl
  unfold State.wantCtr
  split
  · exact refl s
  · unfold State.wantPath
    dsimp only
    split
    · exact hunask ..
    · split
      · exact hunask ..
      · split
        · exact refl s
        · split
          · exact (hunask ..).trans (fetchCtr hP ..)
          · exact (metaReads ..).trans (ofRegs rfl rfl rfl)

end Events

theorem pass? {s t : State} (h : EventKept P s t) (n : Nat) : t.pass? n = s.pass? n := by simp only [State.pass?, h.passes]

/-- A flag among the low bits of a word of P. -/
theorem flag {s t : State} (h : EventKept P s t) (f : Reg.Fld) (hP : P (f.off + 4 * (f.lo / 32))) (hf : f.lo % 32 + f.w ≤ 11) : t.flag f = s.flag f := by
  have hin : f.lo % 32 + f.w ≤ 32 := by omega
  rw [State.flag, State.flag, State.rd_in _ _ hin, State.rd_in _ _ hin, h.bits _ hP _ _ hf]

end EventKept

/-! #### The entries of pages -/

/-- A register of the DMC blocks' fault words: DMC_FAULT of any channel number. -/
def atFault (off : Nat) : Prop := 0x1002010 ≤ off ∧ off % 0x80000 = 0x2010

theorem atFault_apart (off : Nat) (h : atFault off) : apartFromEvents off := by
  unfold atFault at h
  unfold apartFromEvents
  omega

section Entries
variable {s t : State} (h : EventKept atFault s t) (hplace : t.place = s.place)
include h

/-- The same metadata lines lie on lost channels. -/
theorem EventKept.metaLost (n : Nat) (copyB : Bool) : t.metaLost n copyB = s.metaLost n copyB := by
  have hflag : ∀ c, t.flag (Reg.DMC_FAULT_LOST c) = s.flag (Reg.DMC_FAULT_LOST c) := fun c =>
    h.flag _ (by simp only [Reg.DMC_FAULT_LOST, atFault]; omega) (by simp [Reg.DMC_FAULT_LOST])
  simp only [State.metaLost, State.metaChan, h.boot, hflag]

include hplace

/-- The entry of a page that is where it was. -/
theorem EventKept.acc (p : Nat) : t.acc p = s.acc p := by
  rw [State.acc, State.acc, State.accDefault, State.accDefault, h.metaLost, hplace]

theorem EventKept.srcForm (p : Nat) : t.srcForm p = s.srcForm p := by
  simp only [State.srcForm, State.slotOf, h.acc hplace, hplace]

end Entries

/-! ### A pass's own fields -/

theorem State.id_of_pass? {s : State} {n : Nat} {x : RangePass} (h : s.pass? n = some x) : x.id = n := by simpa using List.find?_some h

/-- A pass after a change that leaves its number. -/
theorem State.pass?_updPass {s : State} {n : Nat} {x : RangePass} {f : RangePass → RangePass} (h : s.pass? n = some x) (hid : ∀ y, y.id = n → (f y).id = n) :
    (s.updPass n f).pass? n = some (f x) := by
  have hsame : ((fun x : RangePass => x.id == n) ∘ fun y => if y.id = n then f y else y) = fun x : RangePass => x.id == n := by
    funext y
    by_cases hy : y.id = n <;> simp [hy, hid]
  rw [State.pass?, State.updPass, List.find?_map, hsame]
  rw [State.pass?] at h
  rw [h]
  simp [State.id_of_pass? h]

/-- A state of which only the passes differ from another. -/
structure OnlyPasses (s t : State) : Prop where
  eq : t = { s with mgmt := { s.mgmt with passes := t.mgmt.passes } }

theorem OnlyPasses.updPass (s : State) (n : Nat) (f : RangePass → RangePass) : OnlyPasses s (s.updPass n f) := ⟨rfl⟩

theorem OnlyPasses.trans {s t u : State} (h : OnlyPasses s t) (k : OnlyPasses t u) : OnlyPasses s u := ⟨by rw [k.eq, h.eq]⟩

theorem OnlyPasses.mgmt {s t : State} (h : OnlyPasses s t) : t = { s with mgmt := t.mgmt } := by rw [h.eq]

/-- What a pass, none of the patrol's, keeps of its entry when it goes on after a page with its counts so far. -/
def RangePass.goneOn (x y : RangePass) : RangePass := { x with next := x.next + 1, cur := none, remaps := y.remaps, ce := y.ce, ue := y.ue }

/-- A pass that has visited its last page. -/
def RangePass.ended (x : RangePass) : RangePass := { x with done := true }

/-- A pass that visits a page. -/
def RangePass.visiting (k : RakePage) (x : RangePass) : RangePass := { x with cur := some k }

theorem State.passOn_eq (s : State) {x : RangePass} (hrange : x.patrol = false) :
    s.passOn x = if x.last < x.next + 1 then (s.updPass x.id x.goneOn).updPass x.id RangePass.ended else s.updPass x.id x.goneOn := by
  have hno : (x.patrol = true) = False := by simp [hrange]
  unfold State.passOn State.passEnds
  simp only [hno, if_false]
  rfl

/-- A pass goes on after a page: it is at the next page, and done after its last one. -/
theorem State.passOn_range {s : State} {x y : RangePass} (hy : s.pass? x.id = some y) (hrange : x.patrol = false) (hrun : x.done = false) :
    (s.passOn x).pass? x.id = some { x.goneOn y with done := decide (x.last < x.next + 1) } ∧ OnlyPasses s (s.passOn x) := by
  have hnext : (s.updPass x.id x.goneOn).pass? x.id = some (x.goneOn y) := State.pass?_updPass hy (fun _ _ => rfl)
  rw [State.passOn_eq s hrange]
  split
  · next hlast =>
    rw [decide_eq_true hlast]
    exact ⟨State.pass?_updPass hnext (fun _ h => h), (OnlyPasses.updPass ..).trans (OnlyPasses.updPass ..)⟩
  · next hmore =>
    rw [decide_eq_false hmore, ← hrun]
    exact ⟨hnext, OnlyPasses.updPass ..⟩

/-! ### A step of a pass -/

theorem State.rakeNext_none {s : State} {n : Nat} (h : ∀ x, s.pass? n = some x → x.done = true ∨ s.isSafe = true ∨ s.boot.memActive = false ∨ (x.cur = none ∧ x.stop = true)
    ∨ ∃ k, x.cur = some k ∧ s.rakeReady k = false) : s.rakeNext n = s := by
  unfold State.rakeNext
  split
  · rfl
  · next x hx =>
    obtain hdone | hsafe | hmem | ⟨hcur, hstop⟩ | ⟨k, hcur, hwait⟩ := h x hx
    · simp [hdone]
    · simp [hsafe]
    · simp [hmem]
    · simp [hcur, hstop]
    · simp [hcur, hwait]

/-- The entries of pages, and the passes, are what they were before a counter block was waited for and the admission taken. -/
theorem State.rakeOpen_kept {s u y : State} {p : Nat} {w : ReadFor} {b : Option Bool} {k : GovTurn} (hctr : s.wantCtr p w = (u, b)) (hadmit : u.govAdmit (homeSlice p) k = some y) :
    EventKept atFault s y ∧ y.place = s.place ∧ y.media = s.media ∧ y.regs = u.regs := by
  have hwant := EventKept.wantCtr atFault_apart s p w
  have hkept := RetireKept.wantCtr s p w
  rw [hctr] at hwant hkept
  have hadm := Admitted.govAdmit hadmit
  exact ⟨hwant.trans (EventKept.ofAdmitted hadm), hadm.place.trans hkept.place, hadm.media.trans hkept.media, by rw [hadm.eq]⟩

section Range
variable {s : State} {n : Nat} {x : RangePass} (hx : s.pass? n = some x) (hruns : s.passRuns x) (hrange : x.patrol = false)
include hx hruns hrange

/-- A range pass that runs opens its next page. -/
theorem State.rakeNext_open : s.rakeNext n = s.rakeOpen x := by
  obtain ⟨hstop, hdone, hcur, hsafe, hmem⟩ := hruns
  simp [State.rakeNext, hx, hstop, hdone, hcur, hsafe, hmem, hrange]

/-- A page that nothing backs is skipped. -/
theorem State.rakeNext_unbacked (hpage : s.passPage x x.next = none) : s.rakeNext n = s.passOn { x with skipped := x.skipped + 1 } := by
  rw [State.rakeNext_open hx hruns hrange, State.rakeOpen, hpage]

variable {p : Nat} {b : Bool} {u y : State} (hpage : s.passPage x x.next = some p) (hlock : s.pageLocked p = false) (hpermit : s.permits .range = true)
  (hctr : s.wantCtr p { pass := some x.id } = (u, some b)) (hadmit : u.govAdmit (homeSlice p) .range = some y)
include hpage hlock hpermit hctr hadmit

/-- A page that is UNWRITTEN is skipped, after its admission. -/
theorem State.rakeNext_unwritten {pz : Bool} (hform : s.srcForm p = .unwritten pz) : s.rakeNext n = y.passOn { x with skipped := x.skipped + 1 } := by
  obtain ⟨hkept, hplace, -, -⟩ := State.rakeOpen_kept hctr hadmit
  have hsrc : y.srcForm p = .unwritten pz := (hkept.srcForm hplace p).trans hform
  rw [State.rakeNext_open hx hruns hrange, State.rakeOpen, hpage]
  simp only [hlock, hpermit, hctr, hadmit, hsrc, Bool.not_true, Bool.or_self, Bool.false_eq_true, if_false]

/-- The lines of a HOT page are asked for. -/
theorem State.rakeNext_hot {c fr : Nat} {inc : Option Nat} (hform : s.srcForm p = .hot c fr inc) : s.rakeNext n = y.rakeAsk x p (.hot c fr inc) none := by
  obtain ⟨hkept, hplace, -, -⟩ := State.rakeOpen_kept hctr hadmit
  have hsrc : y.srcForm p = .hot c fr inc := (hkept.srcForm hplace p).trans hform
  rw [State.rakeNext_open hx hruns hrange, State.rakeOpen, hpage]
  simp only [hlock, hpermit, hctr, hadmit, hsrc, Bool.not_true, Bool.or_self, Bool.false_eq_true, if_false]

end Range

/-! ### The lines of a HOT page -/

/-- A page without a guard has no tags to check. -/
theorem State.checkPageTags_unguarded {s : State} {p : Nat} (h : s.guard p = none) : s.checkPageTags p = s := by
  have hstep : ∀ l : List Nat, l.foldl (fun s u => State.checkTags s p u) s = s := fun l => by
    induction l with
    | nil => rfl
    | cons u l ih =>
      rw [List.foldl_cons, show s.checkTags p u = s by rw [State.checkTags, h]]
      exact ih
  exact hstep _

/-- The visit of a page without a guard, as it begins. -/
def State.visitOf (s : State) (p : Nat) (f : PageForm) : RakePage :=
  { page := p, form := f, version := match s.slotOf p with | some m => m.2.src.version | none => (s.acc p).version }

/-- Reads that are sent change the flights and the numbers of reads only. -/
theorem State.sendReads_frame (s : State) (c tier : Nat) (dl dpa : Option Nat) (at' : Nat → Nat) (why : Nat → RdWhy) (l : List Nat) :
    ∃ dmc id, l.foldl (fun s i => s.sendRead c (at' i) (why i) tier dl dpa) s = { s with dmc := dmc, path := { s.path with nextId := id } } := by
  induction l generalizing s with
  | nil => exact ⟨_, _, rfl⟩
  | cons i l ih =>
    obtain ⟨dmc, id, h⟩ := ih (s.sendRead c (at' i) (why i) tier dl dpa)
    exact ⟨dmc, id, h⟩

theorem State.rakeAsk_hot {s : State} {n p c fr : Nat} {inc : Option Nat} {x : RangePass} (hx : s.pass? n = some x) (hguard : s.guard p = none) :
    (s.rakeAsk x p (.hot c fr inc) none).pass? n = some { x with cur := some (s.visitOf p (.hot c fr inc)) }
      ∧ (s.rakeAsk x p (.hot c fr inc) none).flights c = s.flights c ++ (List.range 64).map (fun i => (fr * 64 + i, .rake n p i))
      ∧ (s.rakeAsk x p (.hot c fr inc) none).media = s.media ∧ (s.rakeAsk x p (.hot c fr inc) none).regs = s.regs := by
  have hid := State.id_of_pass? hx
  have hask : s.rakeAsk x p (.hot c fr inc) none
      = (List.range 64).foldl (fun s i => s.sendRead c (fr * 64 + i) (.rake x.id p i) 3 none none) (s.updPass x.id (RangePass.visiting (s.visitOf p (.hot c fr inc)))) := by
    unfold State.rakeAsk
    simp only [State.checkPageTags_unguarded hguard, hguard, State.pageSeal]
    rfl
  obtain ⟨dmc, id, hframe⟩ := State.sendReads_frame (s.updPass x.id (RangePass.visiting (s.visitOf p (.hot c fr inc)))) c 3 none none (fun i => fr * 64 + i) (fun i => .rake x.id p i) (List.range 64)
  refine ⟨?_, ?_, ?_, ?_⟩
  · have hpasses : (s.rakeAsk x p (.hot c fr inc) none).pass? n = (s.updPass n (RangePass.visiting (s.visitOf p (.hot c fr inc)))).pass? n := by
      rw [hask, hframe, hid]
      rfl
    exact hpasses.trans (State.pass?_updPass hx (fun _ h => h))
  · rw [hask, State.flights_sendReads _ c 3 none none (fun i => fr * 64 + i) (fun i => .rake x.id p i), hid]
    rfl
  · rw [hask, hframe]; rfl
  · rw [hask, hframe]; rfl

/-- A loop that counts one line in each round counts them all. -/
theorem foldl_countLine {s : State} {f : State × RangePass → Nat → State × RangePass} (l : List Nat) (hf : ∀ i ∈ l, ∀ x, f (s, x) i = (s, { x with lines := x.lines + 1 })) (x : RangePass) :
    l.foldl f (s, x) = (s, { x with lines := x.lines + l.length }) := by
  induction l generalizing x with
  | nil => rfl
  | cons i l ih =>
    obtain ⟨hi, hl⟩ := List.forall_mem_cons.1 hf
    rw [List.foldl_cons, hi, ih hl, List.length_cons, Nat.add_assoc, Nat.add_comm 1]

/-- Lines that come back good and unmarked, of a page without a guard, are counted. -/
theorem State.rakeHot_good (s : State) {k : RakePage} (hseal : k.sealed? = none) (hmarks : k.marks = []) (hgood : ∀ i, i < 64 → (Tbl.lookD k.got {} i).poison = false) (x : RangePass) :
    s.rakeHot x k = (s, { x with lines := x.lines + 64 }) := by
  have hmark : ∀ i, Tbl.lookD k.marks 0 i = 0 := fun i => by rw [hmarks]; rfl
  refine foldl_countLine (List.range 64) (fun i hi x => ?_) x
  simp only [hmark, hgood i (List.mem_range.1 hi), hseal]
  rfl

/-- A visit of a HOT page ends with its lines counted. -/
theorem State.rakeNext_ends {s : State} {n c fr : Nat} {inc : Option Nat} {x : RangePass} {k : RakePage} (hx : s.pass? n = some x) (hdone : x.done = false) (hsafe : s.isSafe = false)
    (hmem : s.boot.memActive = true) (hcur : x.cur = some k) (hready : s.rakeReady k = true) (hform : k.form = .hot c fr inc) (hseal : k.sealed? = none) (hmarks : k.marks = [])
    (hgood : ∀ i, i < 64 → (Tbl.lookD k.got {} i).poison = false) : s.rakeNext n = s.passOn { x with lines := x.lines + 64 } := by
  have hclose : s.rakeClose x k = (s, { x with lines := x.lines + 64 }) := by
    unfold State.rakeClose
    rw [hform]
    exact State.rakeHot_good s hseal hmarks hgood x
  simp only [State.rakeNext, hx, hdone, hsafe, hmem, hcur, hready, hclose, Bool.not_true, Bool.or_self, Bool.false_eq_true, if_false, if_true]

/-! ### The patrol -/

theorem State.patrolStart_none {s : State} (h : s.rd Reg.TRL_RAKE_CFG_PERIOD_H = 0 ∨ s.isSafe = true ∨ s.boot.memActive = false ∨ s.boot.h = 0
    ∨ (∃ k, s.mgmt.patrolAt = some k ∧ s.tick < k + s.hours (s.rd Reg.TRL_RAKE_CFG_PERIOD_H)) ∨ ((s.pass? patrolId).isSome = true ∧ s.mgmt.patrolDue = true)) : s.patrolStart = s := by
  unfold State.patrolStart
  obtain h | h | h | h | ⟨k, hk, hearly⟩ | ⟨hsome, hdue⟩ := h
  · simp [h]
  · simp [h]
  · simp [h]
  · simp [h]
  · simp [hk, hearly]
  · obtain ⟨x, hx⟩ := Option.isSome_iff_exists.1 hsome
    simp [hx, hdue]

/-- LATE is set, with the event. -/
def State.noteLate (s : State) : State := (s.setFlag Reg.TRL_RAKE_STATUS_LATE true).raise 0x0104 (s.rd Reg.TRL_RAKE_STATUS_ROUNDS)

theorem State.noteLate_kept (s : State) : s.noteLate.mgmt.passes = s.mgmt.passes ∧ s.noteLate.media = s.media := by
  have hflag : Noted s (s.setFlag Reg.TRL_RAKE_STATUS_LATE true) := Noted.wr ..
  have hpasses : EventKept atFault s (s.setFlag Reg.TRL_RAKE_STATUS_LATE true) := EventKept.wr _ _ _ (by decide) (.inl (by unfold atFault; decide))
  exact ⟨(hpasses.trans (EventKept.raise atFault_apart _ _ _ _ (by decide))).passes, (hflag.trans (Noted.raise ..)).media⟩

section Patrol
variable {s : State} (hperiod : s.rd Reg.TRL_RAKE_CFG_PERIOD_H ≠ 0) (hsafe : s.isSafe = false) (hmem : s.boot.memActive = true) (hh : s.boot.h ≠ 0)
  (hlate : ∀ k, s.mgmt.patrolAt = some k → k + s.hours (s.rd Reg.TRL_RAKE_CFG_PERIOD_H) ≤ s.tick)
include hperiod hsafe hmem hh hlate

/-- A patrol that is due starts its round while none runs. -/
theorem State.patrolStart_starts (hnone : s.pass? patrolId = none) : s.patrolStart = s.newRound := by
  unfold State.patrolStart
  cases hat : s.mgmt.patrolAt with
  | none => simp [hsafe, hmem, hh, hperiod, hnone]
  | some k => simp [hsafe, hmem, hh, hperiod, hnone, hlate k hat]

/-- While a round runs it notes once that it is late. -/
theorem State.patrolStart_late {x : RangePass} (hx : s.pass? patrolId = some x) (hdue : s.mgmt.patrolDue = false) :
    s.patrolStart = { s.noteLate with mgmt := { s.noteLate.mgmt with patrolDue := true } } := by
  unfold State.patrolStart
  cases hat : s.mgmt.patrolAt with
  | none => simp [hsafe, hmem, hh, hperiod, hx, hdue, State.noteLate]
  | some k => simp [hsafe, hmem, hh, hperiod, hx, hdue, hlate k hat, State.noteLate]

end Patrol

/-! ### The obligation's first part -/

/-- The same pass after its visit or its skip of a page, as the statement has it. -/
theorem State.passOn_counted {s : State} {n : Nat} {x : RangePass} (hx : s.pass? n = some x) (z : RangePass) (hid : z.id = x.id) (hrange : z.patrol = false) (hrun : z.done = false) :
    (s.passOn z).pass? n = some { z.goneOn x with done := decide (z.last < z.next + 1) } ∧ OnlyPasses s (s.passOn z) := by
  have hn := State.id_of_pass? hx
  have hz : s.pass? z.id = some x := by rw [hid, hn, hx]
  rw [show n = z.id by rw [hid, hn]]
  exact State.passOn_range hz hrange hrun

theorem rangePassesTakeEffect : RangePassesTakeEffect := by
  refine ⟨fun n s h => congrArg Host.Outcome.next (State.rakeNext_none h), fun n x s hx hruns hrange hpage => ?_, fun n p x b u y pz s hx hruns hrange hpage hlock hpermit hctr hadmit hform => ?_,
    fun n p c fr inc x y s hx hruns hrange hpage hlock hpermit hadmit hform hguard => ?_, fun n c fr inc x k s hx hdone hsafe hmem hrange hcur hready hform hseal hmarks hgood => ?_,
    fun s h => congrArg Host.Outcome.next (State.patrolStart_none h), fun s hperiod hsafe hmem hh hlate => ⟨fun hnone => ?_, fun hsome hdue => ?_⟩⟩
  · have ⟨_, hdone, hcur, _⟩ := hruns
    obtain ⟨hpass, honly⟩ := State.passOn_counted hx { x with skipped := x.skipped + 1 } rfl hrange hdone
    refine ⟨_, congrArg Host.Outcome.next (State.rakeNext_unbacked hx hruns hrange hpage), hpass.trans ?_, honly.mgmt⟩
    simp [RangePass.goneOn, hcur]
  · have ⟨_, hdone, hcur, _⟩ := hruns
    obtain ⟨hkept, -, hmedia, hregs⟩ := State.rakeOpen_kept hctr hadmit
    obtain ⟨hpass, honly⟩ := State.passOn_counted ((hkept.pass? n).trans hx) { x with skipped := x.skipped + 1 } rfl hrange hdone
    refine ⟨_, congrArg Host.Outcome.next (State.rakeNext_unwritten hx hruns hrange hpage hlock hpermit hctr hadmit hform), hpass.trans ?_, ?_, ?_⟩
    · simp [RangePass.goneOn, hcur]
    · rw [honly.eq]; exact hmedia
    · rw [honly.eq]; exact hregs
  · have hctr : s.wantCtr p { pass := some x.id } = (s, some true) := by rw [State.wantCtr, hguard]
    have hadm := Admitted.govAdmit hadmit
    obtain ⟨hkept, -, hmedia, hregs⟩ := State.rakeOpen_kept hctr hadmit
    have hguard' : y.guard p = none := by rw [hadm.eq]; exact hguard
    have hflights : y.flights c = s.flights c := by rw [State.flights, State.ch_congr hadm.dmc]; rfl
    obtain ⟨hpass, hfly, hm, hr⟩ := State.rakeAsk_hot (c := c) (fr := fr) (inc := inc) ((hkept.pass? n).trans hx) hguard'
    exact ⟨_, _, congrArg Host.Outcome.next (State.rakeNext_hot hx hruns hrange hpage hlock hpermit hctr hadmit hform), hpass, rfl, rfl, rfl, hfly.trans (by rw [hflights]; rfl), hm.trans hmedia, hr.trans hregs⟩
  · obtain ⟨hpass, honly⟩ := State.passOn_counted hx { x with lines := x.lines + 64 } rfl hrange hdone
    exact ⟨_, congrArg Host.Outcome.next (State.rakeNext_ends hx hdone hsafe hmem hcur hready hform hseal hmarks hgood), hpass, honly.mgmt⟩
  · exact ⟨_, congrArg Host.Outcome.next (State.patrolStart_starts hperiod hsafe hmem hh hlate hnone), rfl, rfl, rfl, rfl⟩
  · obtain ⟨x, hx⟩ := Option.isSome_iff_exists.1 hsome
    obtain ⟨hpasses, hmedia⟩ := s.noteLate_kept
    exact ⟨_, congrArg Host.Outcome.next (State.patrolStart_late hperiod hsafe hmem hh hlate hx hdue), hpasses, rfl, hmedia⟩

end Sys2Proof.Machine
end

section
/-! Uncorrectable on-chip arrays and the end of a slice's restart (R250, R261; Table 10.2). -/
namespace Sys2Proof.Machine

/-! ### Arrays -/

theorem exec_sramUe (x : SramArray) {s : State} (hrel : s.boot.released = true) (hsafe : s.isSafe = false) : exec (.sramUe x) s = .next (s.sramUe x) := by
  show Host.Outcome.next (if (s.boot.released && !s.isSafe) = true then s.sramUe x else s) = _
  rw [hrel, hsafe]
  rfl

theorem exec_sramUe_off (x : SramArray) {s : State} (h : s.boot.released = false ∨ s.isSafe = true) : exec (.sramUe x) s = .next s := by
  show Host.Outcome.next (if (s.boot.released && !s.isSafe) = true then s.sramUe x else s) = _
  rcases h with h | h <;> simp [h]

/-- A remap table has two copies, and goes on with the other. -/
theorem exec_sramUe_remapTable (c : Chan) (e : Fin 64) (b : Bool) (s : State) : exec (.sramUe (.remapTable c e b)) s = .next s := by
  show Host.Outcome.next (if (s.boot.released && !s.isSafe) = true then s.sramUe (.remapTable c e b) else s) = _
  split <;> rfl

/-- A byte of the write-combining buffer poisons its line. -/
theorem State.sramUe_wcbData {s : State} {sl : SliceIx} {w : WcbLine} (hwcb : s.path.wcb = [w]) (hsl : sliceOfLine w.line = sl) :
    s.sramUe (.wcbData sl w.line) = { s.stn sl 8 with path := { s.path with wcb := [{ w with poison := true }] } } := by
  have hmarked : s.path.wcb.map (fun v : WcbLine => if v.line = w.line ∧ sliceOfLine w.line = sl.val then { v with poison := true } else v) = [{ w with poison := true }] := by
    rw [hwcb]
    simp [hsl]
  rw [← hmarked]
  rfl

/-- A block of the counter cache leaves it, and a changed one is lost. -/
theorem State.ctrUe_leaves {s : State} {space : Bool} {level node : Nat} {b : CacheBlk} (hb : Tbl.look s.sec.cache (ctrKey space level node) = some b) :
    (s.ctrUe space level node).cached space level node = none ∧ (s.ctrUe space level node).media = s.media
      ∧ (b.dirty = false → (s.ctrUe space level node).regs = s.regs ∧ (s.ctrUe space level node).out = s.out) := by
  have hloss := LossNoted.recordLoss (s.uncache space level node) space (level + 1) (node * 64 ^ level * 8)
  have hgone : (s.uncache space level node).cached space level node = none := State.cached_uncache ..
  unfold State.ctrUe
  rw [hb]
  dsimp only
  cases b.dirty with
  | false => exact ⟨hgone, rfl, fun _ => ⟨rfl, rfl⟩⟩
  | true => exact ⟨by rw [State.cached, if_pos rfl, hloss.sec]; exact hgone, hloss.media, fun h => by cases h⟩

/-- A region marked as LOST. -/
def loseRegion (r : Region) : Region := { r with lost := true }

/-- Regions marked as LOST, one after another. -/
def State.loseRegions (s : State) (l : List (Nat × Region)) : State := l.foldl (fun (s : State) e => s.updRegion e.1 loseRegion) s

theorem State.look_loseRegions (l : List (Nat × Region)) (s : State) (i : Nat) :
    Tbl.look (s.loseRegions l).regions i = (Tbl.look s.regions i).map (fun r => if i ∈ l.map Prod.fst then loseRegion r else r) := by
  induction l generalizing s with
  | nil => simp [State.loseRegions]
  | cons e l ih =>
    have hstep : Tbl.look (s.updRegion e.1 loseRegion).regions i = (Tbl.look s.regions i).map (fun r => if i = e.1 then loseRegion r else r) := Tbl.look_modify ..
    have hloop : s.loseRegions (e :: l) = (s.updRegion e.1 loseRegion).loseRegions l := rfl
    rw [hloop, ih, hstep, Option.map_map]
    congr 1
    funext r
    by_cases hi : i = e.1
    · simp [hi, loseRegion]
    · simp only [Function.comp_apply, hi, if_false, List.map_cons, List.mem_cons, false_or]

theorem State.loseRegions_eq (l : List (Nat × Region)) (s : State) : s.loseRegions l = { s with regions := (s.loseRegions l).regions } := by
  induction l generalizing s with
  | nil => rfl
  | cons e l ih => exact ih (s.updRegion e.1 loseRegion)

/-- The regions of a key slot are LOST with it. -/
theorem State.keyUe_loses {s : State} {k i : Nat} {r : Region} (hr : Tbl.look s.regions i = some r) (hcls : r.cls ≠ .plain) (hkey : r.key = k) :
    Tbl.look (s.keyUe k).regions i = some (loseRegion r) ∧ s.keyUe k = { s with regions := (s.keyUe k).regions } := by
  have hbound : i ∈ (s.boundTo k).map Prod.fst := List.mem_map.2 ⟨(i, r), List.mem_filter.2 ⟨mem_of_look hr, by simp [hcls, hkey]⟩, rfl⟩
  have hlook := State.look_loseRegions (s.boundTo k) s i
  rw [hr, Option.map_some, if_pos hbound] at hlook
  exact ⟨hlook, State.loseRegions_eq _ s⟩

/-! #### The entry of a page -/

/-- An entry that is not the default is listed, and is found. -/
theorem State.acc_setAcc (s : State) (p : Nat) (a : Acc) : (s.setAcc p a).acc p = a := Tbl.lookD_putD_same ..

/-- A page that is not MIGRATING has no slot. -/
theorem State.slotOf_none {s : State} {p : Nat} (h : ∀ n, (s.acc p).form ≠ .migrating n) : s.slotOf p = none := by
  unfold State.slotOf
  split
  · next n hn => exact absurd hn (h n)
  · rfl

theorem Noted.place {s t : State} (h : Noted s t) : t.place = s.place := by rw [h.eq]

/-- An event leaves a page's entry as it is. -/
theorem State.acc_raise (s : State) (code arg0 arg1 p : Nat) (hcode : code < 0x4000) : (s.raise code arg0 arg1).acc p = s.acc p :=
  EventKept.acc (EventKept.raise atFault_apart s code arg0 arg1 hcode) (Noted.raise s code arg0 arg1).place p

/-- A footfall word restarts at 0 with the present stamp, and its page stays where it is. -/
theorem State.footUe_restarts (s : State) (p : Nat) :
    Tbl.lookD (s.footUe p).place.foot 0 p = 0 ∧ (s.footUe p).acc p = { s.acc p with fstamp := s.place.epoch % 15 } ∧ (s.footUe p).media = s.media := by
  obtain ⟨u, hu, hacc, hfoot, hmedia⟩ : ∃ u : State, s.footUe p = u.raise 0x0308 p 0 ∧ u.acc p = { s.acc p with fstamp := s.place.epoch % 15 } ∧ u.place.foot = Tbl.del s.place.foot p ∧ u.media = s.media :=
    ⟨_, rfl, State.acc_setAcc .., rfl, rfl⟩
  have hnoted := Noted.raise u 0x0308 p 0
  refine ⟨?_, ?_, ?_⟩
  · rw [hu, hnoted.place, hfoot, Tbl.lookD, Tbl.look_del_same]
    rfl
  · rw [hu, State.acc_raise _ _ _ _ _ (by decide), hacc]
  · rw [hu, hnoted.media, hmedia]

/-- A clean entry is read again. -/
theorem State.accUe_clean {s : State} {p : Nat} (h : s.place.accDirty.contains p = false) : s.accUe p = { s with free := s.free + 1, cat := (s.stn (homeSlice p) 8).cat } := by
  have hclean : (s.stn (homeSlice p) 8).place.accDirty.contains p = false := h
  unfold State.accUe
  simp only [hclean, Bool.false_and, Bool.false_eq_true, if_false]
  rfl

/-- A changed entry of a page that does not move is unreadable, or had been written back and is read again. -/
theorem State.accUe_changed {s : State} {p : Nat} (hstill : ∀ n, (s.acc p).form ≠ .migrating n) :
    (s.accUe p).media = s.media ∧ (((s.accUe p).acc p).form = .unreadable ∨ s.accUe p = { s with free := s.free + 1, cat := (s.stn (homeSlice p) 8).cat }) := by
  have hslot : (s.stn (homeSlice p) 8).slotOf p = none := State.slotOf_none hstill
  unfold State.accUe
  dsimp only
  rw [hslot]
  split
  · refine ⟨(Noted.raise _ 0x0301 p 0).media, .inl ?_⟩
    have hacc := State.acc_raise ((s.stn (homeSlice p) 8).setForm p .unreadable) 0x0301 p 0 p (by decide)
    rw [State.setForm, State.acc_setAcc] at hacc
    exact congrArg Acc.form hacc
  · exact ⟨rfl, .inr rfl⟩

/-! ### The end of a slice's restart -/

theorem State.contains_restartDone (l : List Nat) (n k : Nat) : (l.filter (· != n)).contains n = false ∧ (k ≠ n → (l.filter (· != n)).contains k = l.contains k) := by
  refine ⟨by simp, fun hk => ?_⟩
  rw [Bool.eq_iff_iff]
  simp [hk]

/-! ### The obligation's second part -/

theorem arrayErrorsTakeEffect : ArrayErrorsTakeEffect := by
  refine ⟨fun x s h => exec_sramUe_off x h, exec_sramUe_remapTable, fun sl w s hrel hsafe hwcb hsl => ?_, fun space level node b s hrel hsafe hb => ?_, fun k i r s hrel hsafe hr hcls hkey => ?_,
    fun p c fr inc s hrel hsafe hform => ⟨?_, fun hclean => ?_, fun hdirty => ?_⟩, fun sl s => ?_⟩
  · exact ⟨_, exec_sramUe _ hrel hsafe, by rw [State.sramUe_wcbData hwcb hsl], by rw [State.sramUe_wcbData hwcb hsl]; rfl, by rw [State.sramUe_wcbData hwcb hsl]; rfl,
      by rw [State.sramUe_wcbData hwcb hsl]; rfl⟩
  · obtain ⟨hgone, hmedia, hclean⟩ := State.ctrUe_leaves hb
    exact ⟨_, exec_sramUe _ hrel hsafe, hgone, hmedia, hclean⟩
  · obtain ⟨hlook, heq⟩ := State.keyUe_loses hr hcls hkey
    exact ⟨_, _, exec_sramUe _ hrel hsafe, hlook, rfl, rfl, heq⟩
  · obtain ⟨hfoot, hacc, hmedia⟩ := s.footUe_restarts p
    exact ⟨_, exec_sramUe _ hrel hsafe, hfoot, congrArg Acc.fstamp hacc, (congrArg Acc.form hacc).trans hform, hmedia⟩
  · exact ⟨_, exec_sramUe _ hrel hsafe, by rw [show s.sramUe (.accession p) = s.accUe p from rfl, State.accUe_clean hclean]⟩
  · obtain ⟨hmedia, heffect⟩ := State.accUe_changed (s := s) (p := p) (by simp [hform])
    refine ⟨_, exec_sramUe _ hrel hsafe, hmedia, heffect.imp_right fun h => ?_⟩
    rw [show s.sramUe (.accession p) = s.accUe p from rfl, h]
  · exact ⟨_, rfl, (State.contains_restartDone s.path.restart sl.val 0).1, fun k hk => (State.contains_restartDone s.path.restart sl.val k).2 hk, rfl⟩

end Sys2Proof.Machine
end

section
/-! What the evaluation of the pressure level leaves alone (R125, R151, R339). -/
namespace Sys2Proof.Machine

/-! ### What follows from pressure -/

/-- A state beside another as after the pressure level has been evaluated: beside what an event changes, the leases and the Graft ports may differ. -/
structure Pressed (s t : State) : Prop where
  eq : t = { s with out := t.out, regs := t.regs, heads := t.heads, lds := t.lds, cat := t.cat, mgmt := t.mgmt, graft := t.graft, borrow := t.borrow, lent := t.lent }

namespace Pressed

theorem refl (s : State) : Pressed s s := ⟨rfl⟩

theorem trans {s t u : State} (h : Pressed s t) (k : Pressed t u) : Pressed s u := ⟨by rw [k.eq, h.eq]⟩

theorem ofNoted {s t : State} (h : Noted s t) : Pressed s t := ⟨by rw [h.eq]⟩

theorem wr (s : State) (f : Reg.Fld) (x : Nat) : Pressed s (s.wr f x) := ofNoted (Noted.wr ..)

theorem raise (s : State) (code arg0 arg1 : Nat) : Pressed s (s.raise code arg0 arg1) := ofNoted (Noted.raise ..)

theorem openOxn (s : State) (g : Nat) (m : Oxn) : Pressed s (s.openOxn g m) := by
  unfold State.openOxn
  dsimp only
  split
  · exact ⟨rfl⟩
  · exact ⟨rfl⟩

theorem recallLent (s : State) (n : Nat) : Pressed s (s.recallLent n) := by
  unfold State.recallLent
  split
  · exact refl s
  · have hentry : ∀ (t : State) (l : Tbl LentX), Pressed t { t with lent := l } := fun _ _ => ⟨rfl⟩
    exact ((wr s (Reg.GFT_LENT_RECALLING n) _).trans (hentry _ _)).trans (openOxn ..)

theorem lenderRecall (s : State) : Pressed s s.lenderRecall := by
  unfold State.lenderRecall
  split
  · exact refl s
  · split
    · exact refl s
    · split
      · exact recallLent ..
      · exact refl s

end Pressed

/-- The pressure level rises or falls to n: its event, the empty times of the leases at NORMAL, and a release asked for. -/
def State.enterLevel (s : State) (n : Nat) : State :=
  let t := (s.wr Reg.CUR_PRESSURE_LEVEL n).raise 0x0305 n
  let t : State := if n = 0 then { t with borrow := t.borrow.map (fun (e : Nat × BorrowX) => (e.1, { e.2 with emptyAt := t.tick })) } else t
  if 2 ≤ n ∧ s.rd Reg.CUR_PRESSURE_LEVEL < n then t.setFlag Reg.CUR_PRESSURE_RELEASE_REQ true else t

/-- EXHAUSTED is noted. -/
def State.noteExhausted (s : State) (n : Nat) : State := if n = 4 then (s.setFlag Reg.CUR_PRESSURE_FATAL true).raise 0x0306 s.reserveFree else s

theorem State.pressure_eq (s : State) : s.pressure = if s.showPool.rd Reg.CUR_POOL_SIZE_UNITS = 0 then s.showPool
    else if s.showPool.nextLevel = s.showPool.rd Reg.CUR_PRESSURE_LEVEL then s.showPool.lenderRecall
    else ((s.showPool.enterLevel s.showPool.nextLevel).noteExhausted s.showPool.nextLevel).lenderRecall := rfl

namespace Pressed

theorem showPool (s : State) : Pressed s s.showPool := (wr ..).trans (wr ..)

theorem enterLevel (s : State) (n : Nat) : Pressed s (s.enterLevel n) := by
  have hempty : ∀ (t : State) (l : Tbl BorrowX), Pressed t { t with borrow := l } := fun _ _ => ⟨rfl⟩
  have hraised : Pressed s ((s.wr Reg.CUR_PRESSURE_LEVEL n).raise 0x0305 n) := (wr ..).trans (raise ..)
  unfold State.enterLevel
  generalize (s.wr Reg.CUR_PRESSURE_LEVEL n).raise 0x0305 n = t at hraised
  have hlevel : Pressed s (if n = 0 then { t with borrow := t.borrow.map (fun (e : Nat × BorrowX) => (e.1, { e.2 with emptyAt := t.tick })) } else t) := by
    split
    · exact hraised.trans (hempty ..)
    · exact hraised
  dsimp only
  split
  · exact hlevel.trans (wr ..)
  · exact hlevel

theorem noteExhausted (s : State) (n : Nat) : Pressed s (s.noteExhausted n) := by
  unfold State.noteExhausted
  split
  · exact (wr _ Reg.CUR_PRESSURE_FATAL _).trans (raise ..)
  · exact refl s

theorem pressure (s : State) : Pressed s s.pressure := by
  rw [State.pressure_eq]
  split
  · exact showPool s
  · split
    · exact (showPool s).trans (lenderRecall ..)
    · exact (((showPool s).trans (enterLevel ..)).trans (noteExhausted ..)).trans (lenderRecall ..)

section Keeps
variable {s t : State} (h : Pressed s t)
include h

theorem media : t.media = s.media := by rw [h.eq]
theorem dmc : t.dmc = s.dmc := by rw [h.eq]
theorem place : t.place = s.place := by rw [h.eq]
theorem qos : t.qos = s.qos := by rw [h.eq]

end Keeps

end Pressed

/-- Words of the DMC blocks, which the pool's counters and the leases' registers lie apart from. -/
def inDmc (off : Nat) : Prop := 0x1000000 ≤ off ∧ off < 0x1800000

theorem inDmc_apart (off : Nat) (h : inDmc off) : apartFromEvents off := by
  unfold inDmc at h
  unfold apartFromEvents
  omega

namespace EventKept

/-- The write of a register outside the DMC blocks. -/
theorem wr_outside (s : State) (f : Reg.Fld) (x : Nat) (h : f.off + 4 * (f.lo / 32) + 4 < 0x1000000 ∨ 0x1800000 ≤ f.off + 4 * (f.lo / 32)) : EventKept inDmc s (s.wr f x) := by
  unfold State.wr
  dsimp only
  split
  · exact setWord _ _ (by unfold inDmc; omega)
  · exact setDword _ _ (by unfold inDmc; omega) (by unfold inDmc; omega)

theorem openOxn (s : State) (g : Nat) (m : Oxn) : EventKept inDmc s (s.openOxn g m) := by
  unfold State.openOxn
  dsimp only
  split
  · exact ofRegs rfl rfl rfl
  · exact ofRegs rfl rfl rfl

theorem lenderRecall (s : State) : EventKept inDmc s s.lenderRecall := by
  unfold State.lenderRecall
  split
  · exact refl s
  · split
    · exact refl s
    · split
      · unfold State.recallLent
        split
        · exact refl s
        · have hentry : ∀ (t : State) (l : Tbl LentX), EventKept inDmc t { t with lent := l } := fun _ _ => ofRegs rfl rfl rfl
          exact ((wr_outside s (Reg.GFT_LENT_RECALLING _) _ (by simp only [Reg.GFT_LENT_RECALLING]; omega)).trans (hentry _ _)).trans (openOxn ..)
      · exact refl s

theorem showPool (s : State) : EventKept inDmc s s.showPool :=
  (wr_outside _ Reg.CUR_POOL_FREE_UNITS _ (by decide)).trans (wr_outside _ Reg.CUR_POOL_FREE_RESERVE _ (by decide))

theorem enterLevel (s : State) (n : Nat) : EventKept inDmc s (s.enterLevel n) := by
  have hempty : ∀ (t : State) (l : Tbl BorrowX), EventKept inDmc t { t with borrow := l } := fun _ _ => ofRegs rfl rfl rfl
  have hraised : EventKept inDmc s ((s.wr Reg.CUR_PRESSURE_LEVEL n).raise 0x0305 n) := (wr_outside _ _ _ (by decide)).trans (raise inDmc_apart _ _ _ _ (by decide))
  unfold State.enterLevel
  generalize (s.wr Reg.CUR_PRESSURE_LEVEL n).raise 0x0305 n = t at hraised
  have hlevel : EventKept inDmc s (if n = 0 then { t with borrow := t.borrow.map (fun (e : Nat × BorrowX) => (e.1, { e.2 with emptyAt := t.tick })) } else t) := by
    split
    · exact hraised.trans (hempty ..)
    · exact hraised
  dsimp only
  split
  · exact hlevel.trans (wr_outside _ Reg.CUR_PRESSURE_RELEASE_REQ _ (by decide))
  · exact hlevel

theorem noteExhausted (s : State) (n : Nat) : EventKept inDmc s (s.noteExhausted n) := by
  unfold State.noteExhausted
  split
  · exact (wr_outside _ Reg.CUR_PRESSURE_FATAL _ (by decide)).trans (raise inDmc_apart _ _ _ _ (by decide))
  · exact refl s

theorem pressure (s : State) : EventKept inDmc s s.pressure := by
  rw [State.pressure_eq]
  split
  · exact showPool s
  · split
    · exact (showPool s).trans (lenderRecall ..)
    · exact (((showPool s).trans (enterLevel ..)).trans (noteExhausted ..)).trans (lenderRecall ..)

/-- A channel stays in use, or out of use. -/
theorem chLive {s t : State} (h : EventKept inDmc s t) {c : Nat} (hc : c < 16) : t.chLive c = s.chLive c := by
  rw [State.chLive, State.chLive, h.flag (Reg.DMC_CFG_EN c) (by simp only [Reg.DMC_CFG_EN, inDmc]; omega) (by simp [Reg.DMC_CFG_EN]),
    h.flag (Reg.DMC_FAULT_LOST c) (by simp only [Reg.DMC_FAULT_LOST, inDmc]; omega) (by simp [Reg.DMC_FAULT_LOST])]

end EventKept

end Sys2Proof.Machine
end


section
/-! Lost channels and die-to-die links, and reports on ALERT_n (R128, R260). -/
namespace Sys2Proof.Machine

/-! ### Whether a channel is in use -/

/-- A channel is in use as long as its enable and its LOST bit stay. -/
theorem State.chLive_congr {s t : State} {c : Nat} (hen : t.rd (Reg.DMC_CFG_EN c) = s.rd (Reg.DMC_CFG_EN c)) (hlost : t.rd (Reg.DMC_FAULT_LOST c) = s.rd (Reg.DMC_FAULT_LOST c)) :
    t.chLive c = s.chLive c := by
  simp only [State.chLive, State.flag, hen, hlost]

/-- A write of the fault word of a channel, but for LOST, or of a word outside the DMC blocks changes no channel's use. -/
theorem State.chLive_wr (s : State) (f : Reg.Fld) (x k : Nat) (hin : f.lo % 32 + f.w ≤ 32) (h : (∃ c, f.off = 0x1002010 + 0x80000 * c ∧ f.lo < 32 ∧ 1 ≤ f.lo) ∨ f.off + 4 * (f.lo / 32) < 0x1000000) :
    (s.wr f x).chLive k = s.chLive k := by
  have hen : (Reg.DMC_CFG_EN k).lo % 32 + (Reg.DMC_CFG_EN k).w ≤ 32 := by simp [Reg.DMC_CFG_EN]
  have hlost : (Reg.DMC_FAULT_LOST k).lo % 32 + (Reg.DMC_FAULT_LOST k).w ≤ 32 := by simp [Reg.DMC_FAULT_LOST]
  refine State.chLive_congr (State.rd_wr_other _ _ _ _ hin hen (.inl ?_)) (State.rd_wr_other _ _ _ _ hin hlost ?_)
  · simp only [Reg.DMC_CFG_EN]
    omega
  · simp only [Reg.DMC_FAULT_LOST]
    omega

/-- The LOST bit of one channel says nothing of another. -/
theorem State.chLive_setLost_other (s : State) {c k : Nat} (h : k ≠ c) : (s.setFlag (Reg.DMC_FAULT_LOST c) true).chLive k = s.chLive k := by
  have hin : ∀ n, (Reg.DMC_FAULT_LOST n).lo % 32 + (Reg.DMC_FAULT_LOST n).w ≤ 32 := fun n => by simp [Reg.DMC_FAULT_LOST]
  have hen : (Reg.DMC_CFG_EN k).lo % 32 + (Reg.DMC_CFG_EN k).w ≤ 32 := by simp [Reg.DMC_CFG_EN]
  refine State.chLive_congr (State.rd_wr_other _ _ _ _ (hin c) hen (.inl ?_)) (State.rd_wr_other _ _ _ _ (hin c) (hin k) (.inl ?_))
  · simp only [Reg.DMC_CFG_EN, Reg.DMC_FAULT_LOST]
    omega
  · simp only [Reg.DMC_FAULT_LOST]
    omega

/-! ### What is left of a lost channel -/

theorem orphanReads_default (isIt : RdWhy → Bool) : orphanReads isIt {} = {} := rfl

/-- The queues of a channel once nobody waits for its reads of a kind. -/
theorem State.ch_orphan (s : State) (isIt : RdWhy → Bool) (c : Nat) : (s.orphan isIt).ch c = orphanReads isIt (s.ch c) := by
  unfold State.ch Tbl.lookD
  rw [State.dmc_orphan, look_mapValues]
  cases Tbl.look s.dmc c with
  | none => exact (orphanReads_default isIt).symm
  | some d => rfl

/-- A channel on which nothing is under way. -/
structure Dmc.Quiet (d : Dmc) : Prop where
  flying : d.flying = []
  rq : d.rq = []
  wq : d.wq = []
  issued : d.issued = []

theorem Dmc.Quiet.orphan {d : Dmc} (h : d.Quiet) (isIt : RdWhy → Bool) : (orphanReads isIt d).Quiet := by
  refine ⟨?_, ?_, h.wq, ?_⟩
  · simp [orphanReads, h.flying]
  · simp [orphanReads, h.rq]
  · simp [orphanReads, h.issued]

/-- What the loss of pages leaves: a channel without work, the channels' shares of the pool, and the registers. -/
structure PagesLost (c : Nat) (s t : State) : Prop where
  chans : t.place.chans = s.place.chans
  quiet : (s.ch c).Quiet → (t.ch c).Quiet
  kept : EventKept inDmc s t

theorem PagesLost.refl (c : Nat) (s : State) : PagesLost c s s := ⟨rfl, id, EventKept.refl s⟩

theorem PagesLost.lostPage (c : Nat) (s : State) (p : Nat) : PagesLost c s (s.lostPage p) where
  chans := rfl
  quiet h := by
    have hch : (s.lostPage p).ch c = ((s.wcbDropPage p).dropGather p).ch c := rfl
    rw [hch, State.dropGather, State.ch_orphan]
    exact Dmc.Quiet.orphan h _
  kept := EventKept.ofRegs rfl rfl rfl

/-- The only page there is, when it is lost. -/
theorem State.acc_lostPage {s : State} {p : Nat} {a : Acc} (hacc : s.place.acc = [(p, a)]) : ∀ e ∈ (s.lostPage p).place.acc, e.2.form = .unwritten true := by
  intro e he
  have htable : (s.lostPage p).place.acc = Tbl.putD [(p, a)] (((s.wcbDropPage p).dropGather p).accDefault p) p { ((s.wcbDropPage p).dropGather p).acc p with form := .unwritten true } := by
    rw [← hacc]
    rfl
  rw [htable, Tbl.putD] at he
  split at he
  · simp [Tbl.del] at he
  · obtain rfl : e = (p, _) := by simpa [Tbl.put] using he
    rfl

/-- No page is listed, or one alone, which lies on the channel. -/
def State.atMostPageOn (s : State) (c : Nat) : Prop := s.place.acc = [] ∨ ∃ p a, s.place.acc = [(p, a)] ∧ onChan c a.form = true

/-- The loss of every page on a channel where no other page is listed. -/
theorem State.lostPages_on {s : State} {c : Nat} (h : s.atMostPageOn c) :
    PagesLost c s (((s.place.acc.filter (fun (e : Nat × Acc) => onChan c e.2.form)).map Prod.fst).foldl State.lostPage s)
      ∧ ∀ e ∈ (((s.place.acc.filter (fun (e : Nat × Acc) => onChan c e.2.form)).map Prod.fst).foldl State.lostPage s).place.acc, e.2.form = .unwritten true := by
  obtain hnone | ⟨p, a, hone, hon⟩ := h
  · rw [hnone]
    exact ⟨PagesLost.refl c s, by simp [hnone]⟩
  · have hlist : (s.place.acc.filter (fun (e : Nat × Acc) => onChan c e.2.form)).map Prod.fst = [p] := by rw [hone]; simp [hon]
    rw [hlist]
    exact ⟨PagesLost.lostPage c s p, State.acc_lostPage hone⟩

/-- A channel in use that is lost while nothing is under way on it and no page moves. -/
theorem State.loseChannel_gone {s : State} {c : Nat} (hc : c < 16) (hlive : s.chLive c = true) (hfly : (s.ch c).flying = []) (hrq : (s.ch c).rq = []) (hissued : (s.ch c).issued = [])
    (hslots : s.place.slots = []) (hacc : s.atMostPageOn c) (code : Nat) :
    ChannelGone c (s.loseChannel c code) ∧ ∀ k, k < 16 → k ≠ c → (s.loseChannel c code).chLive k = s.chLive k := by
  unfold State.loseChannel
  rw [if_neg (by simp [hlive])]
  extract_lets marked raised reads emptied place cleared ended moved pages lost qos dirty
  have hmark : ∀ k, k ≠ c → marked.chLive k = s.chLive k := fun k hk => State.chLive_setLost_other s hk
  have hnoted : Noted s raised := Noted.trans (Noted.wr ..) (Noted.raise ..)
  have hraised : EventKept inDmc marked raised := EventKept.raise inDmc_apart _ _ _ _ (by omega)
  clear_value raised marked
  have hreads : reads = [] := by simp only [reads, State.ch_congr hnoted.dmc c, hfly, hrq, hissued, List.append_nil]
  have hplace : emptied.place = s.place := hnoted.place
  have hquiet : (emptied.ch c).Quiet := by
    simp only [emptied, State.ch_updCh_same]
    exact ⟨rfl, rfl, rfl, rfl⟩
  have hkept : EventKept inDmc marked emptied := hraised.trans (EventKept.ofRegs rfl rfl rfl)
  clear_value reads emptied
  have hslots' : cleared.place.slots = [] := by simp only [cleared, place, hplace, hslots]
  have hacc' : cleared.atMostPageOn c := by
    simp only [State.atMostPageOn, cleared, place, hplace]
    exact hacc
  have hchans : Tbl.look cleared.place.chans c = none := Tbl.look_del_same ..
  have hquiet' : (cleared.ch c).Quiet := hquiet
  have hkept' : EventKept inDmc marked cleared := hkept.trans (EventKept.ofRegs rfl rfl rfl)
  clear_value cleared
  have hended : ended = cleared := by simp only [ended, hreads, List.foldl_nil]
  have hmoved : moved = cleared := by simp only [moved, hended, hslots', List.foldl_nil]
  clear_value moved
  subst hmoved
  obtain ⟨hlost, hforms⟩ := State.lostPages_on hacc'
  have hdirty : EventKept inDmc marked dirty := (hkept'.trans hlost.kept).trans (EventKept.ofRegs rfl rfl rfl)
  have hfacts : (dirty.ch c).Quiet ∧ Tbl.look dirty.place.chans c = none ∧ dirty.qos.gDirty = true ∧ ∀ e ∈ dirty.place.acc, e.2.form = .unwritten true :=
    ⟨hlost.quiet hquiet', (congrArg (Tbl.look · c) hlost.chans).trans hchans, rfl, fun e he => hforms e (List.mem_of_mem_filter he)⟩
  clear_value dirty
  have hpress : Pressed dirty (dirty.wr Reg.CUR_POOL_SIZE_UNITS dirty.poolSize).pressure := (Pressed.wr ..).trans (Pressed.pressure _)
  have hlast : EventKept inDmc dirty (dirty.wr Reg.CUR_POOL_SIZE_UNITS dirty.poolSize).pressure := (EventKept.wr_outside _ _ _ (by decide)).trans (EventKept.pressure _)
  obtain ⟨hq, hshare, hgdirty, hunwritten⟩ := hfacts
  refine ⟨?_, fun k hk hne => by rw [(hdirty.trans hlast).chLive hk, hmark k hne]⟩
  unfold ChannelGone
  rw [State.ch_congr hpress.dmc c, hpress.place, hpress.qos]
  exact ⟨hq.flying, hq.rq, hq.wq, hq.issued, hshare, hgdirty, hunwritten⟩

/-! ### CHANNEL_LOST and reports on ALERT_n -/

theorem State.chanLost_none {s : State} {c cause : Nat} (h : s.chLive c = false ∨ cause = 2 ∧ (s.ch c).repeats < 4 ∨ cause = 3 ∧ s.ueRate c = false) : s.chanLost c cause = s := by
  unfold State.chanLost
  obtain h | ⟨h, hfew⟩ | ⟨h, hrate⟩ := h
  · simp [h]
  · simp [h, hfew]
  · simp [h, hrate]

theorem State.chanLost_loses {s : State} {c cause : Nat} (hlive : s.chLive c = true) (hrepeats : cause = 2 → 4 ≤ (s.ch c).repeats) (hrate : cause = 3 → s.ueRate c = true) :
    s.chanLost c cause = (s.wr (Reg.DMC_FAULT_CAUSE c) cause).loseChannel c 1 := by
  have hfew : (cause == 2 && decide ((s.ch c).repeats < 4)) = false := by
    by_cases h : cause = 2
    · simp [h, hrepeats h]
    · simp [h]
  have hslow : (cause == 3 && !s.ueRate c) = false := by
    by_cases h : cause = 3
    · simp [h, hrate h]
    · simp [h]
  unfold State.chanLost
  rw [hlive, hfew, hslow]
  rfl

/-- The cause of a loss in the fault word is no part of what the loss looks at. -/
theorem State.chLive_wrCause (s : State) (c cause k : Nat) : (s.wr (Reg.DMC_FAULT_CAUSE c) cause).chLive k = s.chLive k :=
  State.chLive_wr s _ _ k (by simp [Reg.DMC_FAULT_CAUSE]) (.inl ⟨c, rfl, by simp [Reg.DMC_FAULT_CAUSE], by simp [Reg.DMC_FAULT_CAUSE]⟩)

theorem State.alertReport_repeats {s : State} {c : Nat} (hlive : s.chLive c = true) (hfew : (s.ch c).repeats < 4) :
    s.alertReport c = s.updCh c (fun d => { d with repeats := d.repeats + 1 }) := by
  unfold State.alertReport
  rw [hlive, if_neg (by decide), if_pos hfew]

theorem State.alertReport_loses {s : State} {c : Nat} (hlive : s.chLive c = true) (hmany : 4 ≤ (s.ch c).repeats) : s.alertReport c = s.chanLost c 2 := by
  unfold State.alertReport
  rw [hlive, if_neg (by decide), if_neg (Nat.not_lt.2 hmany)]

/-! ### Die-to-die links -/

/-- A channel of a die whose link is lost. -/
def State.linkRound (s : State) (c : Nat) : State := (s.setFlag (Reg.DMC_FAULT_LINK_LOST c) true).loseChannel c 2

theorem State.chLive_setLinkLost (s : State) (c k : Nat) : (s.setFlag (Reg.DMC_FAULT_LINK_LOST c) true).chLive k = s.chLive k :=
  State.chLive_wr s _ _ k (by simp [Reg.DMC_FAULT_LINK_LOST]) (.inl ⟨c, rfl, by simp [Reg.DMC_FAULT_LINK_LOST], by simp [Reg.DMC_FAULT_LINK_LOST]⟩)

/-- A channel out of use has its bit set, and loses nothing. -/
theorem State.linkRound_dead {s : State} {c : Nat} (h : s.chLive c = false) : s.linkRound c = s.setFlag (Reg.DMC_FAULT_LINK_LOST c) true := by
  have hdead : (s.setFlag (Reg.DMC_FAULT_LINK_LOST c) true).chLive c = false := (s.chLive_setLinkLost c c).trans h
  unfold State.linkRound State.loseChannel
  rw [hdead]
  rfl

/-- A state beside another of which only bits that say that links are lost differ, and are set. -/
structure LinksFlagged (s t : State) : Prop where
  eq : t = { s with regs := t.regs }
  live : ∀ c, t.chLive c = s.chLive c
  up : t.rd Reg.GLB_CLK_STATUS_MPHY_LINK_UP = s.rd Reg.GLB_CLK_STATUS_MPHY_LINK_UP
  kept : ∀ c, s.flag (Reg.DMC_FAULT_LINK_LOST c) = true → t.flag (Reg.DMC_FAULT_LINK_LOST c) = true

theorem LinksFlagged.trans {s t u : State} (h : LinksFlagged s t) (k : LinksFlagged t u) : LinksFlagged s u :=
  ⟨by rw [k.eq, h.eq], fun c => (k.live c).trans (h.live c), k.up.trans h.up, fun c hc => k.kept c (h.kept c hc)⟩

theorem flag_linkLost_same (s : State) (c : Nat) : (s.setFlag (Reg.DMC_FAULT_LINK_LOST c) true).flag (Reg.DMC_FAULT_LINK_LOST c) = true :=
  State.flag_setFlag_same s _ true (by simp [Reg.DMC_FAULT_LINK_LOST]) rfl

theorem LinksFlagged.setFlag (s : State) (c : Nat) : LinksFlagged s (s.setFlag (Reg.DMC_FAULT_LINK_LOST c) true) := by
  have hin : ∀ n, (Reg.DMC_FAULT_LINK_LOST n).lo % 32 + (Reg.DMC_FAULT_LINK_LOST n).w ≤ 32 := fun n => by simp [Reg.DMC_FAULT_LINK_LOST]
  refine ⟨State.wr_eq_withRegs .., s.chLive_setLinkLost c, ?_, fun k hk => ?_⟩
  · exact State.rd_wr_other _ _ _ _ (hin c) (by decide) (.inl (by simp only [Reg.DMC_FAULT_LINK_LOST, Reg.GLB_CLK_STATUS_MPHY_LINK_UP]; omega))
  · by_cases h : k = c
    · rw [h]
      exact flag_linkLost_same s c
    · rw [← hk]
      exact congrArg (· != 0) (State.rd_wr_other _ _ _ _ (hin c) (hin k) (.inl (by simp only [Reg.DMC_FAULT_LINK_LOST]; omega)))

/-- Channels that are out of use have their bits set. -/
theorem LinksFlagged.rounds (l : List Nat) (s : State) (h : ∀ c ∈ l, s.chLive c = false) :
    LinksFlagged s (l.foldl State.linkRound s) ∧ ∀ c ∈ l, (l.foldl State.linkRound s).flag (Reg.DMC_FAULT_LINK_LOST c) = true := by
  induction l generalizing s with
  | nil => exact ⟨⟨rfl, fun _ => rfl, rfl, fun _ hc => hc⟩, by simp⟩
  | cons c l ih =>
    obtain ⟨hc, hl⟩ := List.forall_mem_cons.1 h
    have hstep : LinksFlagged s (s.linkRound c) := by
      rw [State.linkRound_dead hc]
      exact LinksFlagged.setFlag s c
    have hflag : (s.linkRound c).flag (Reg.DMC_FAULT_LINK_LOST c) = true := by
      rw [State.linkRound_dead hc]
      exact flag_linkLost_same s c
    obtain ⟨hrest, hflags⟩ := ih (s.linkRound c) (fun k hk => (hstep.live k).trans (hl k hk))
    exact ⟨hstep.trans hrest, List.forall_mem_cons.2 ⟨hrest.kept c hflag, hflags⟩⟩

/-- The die's link is marked as down. -/
def State.linkDown (s : State) (die : Nat) : State := s.wr Reg.GLB_CLK_STATUS_MPHY_LINK_UP (setBit (s.rd Reg.GLB_CLK_STATUS_MPHY_LINK_UP) die false)

theorem State.linkLost_eq {s : State} (die : Nat) (hrel : s.boot.released = true) :
    s.linkLost die = ([4 * die, 4 * die + 1, 4 * die + 2, 4 * die + 3] : List Nat).foldl State.linkRound (s.linkDown die) := by
  unfold State.linkLost
  rw [hrel]
  rfl

theorem State.chLive_linkDown (s : State) (die k : Nat) : (s.linkDown die).chLive k = s.chLive k := State.chLive_wr s _ _ k (by decide) (.inr (by decide))

theorem State.bit_linkDown (s : State) {die : Nat} : (s.linkDown die).bit Reg.GLB_CLK_STATUS_MPHY_LINK_UP die = false := by
  rw [State.bit, State.linkDown, State.rd_wr_same _ _ _ (by decide), Nat.testBit_mod_two_pow, testBit_setBit_false, Bool.and_false]

/-! ### The obligation's third part, and the obligation -/

/-- Bits that say that links are lost leave what is gone of a channel. -/
theorem LinksFlagged.channelGone {s t : State} {c : Nat} (h : LinksFlagged s t) (hgone : ChannelGone c s) : ChannelGone c t := by
  rw [h.eq]
  exact hgone

/-- A lost link takes its only channel in use, on which nothing is under way, with it. -/
theorem State.linkLost_gone {s : State} {die : Nat} (hd : die < 4) (hrel : s.boot.released = true) (hlive : s.chLive (4 * die) = true) (hdead : ∀ k, 1 ≤ k → k < 4 → s.chLive (4 * die + k) = false)
    (hfly : (s.ch (4 * die)).flying = []) (hrq : (s.ch (4 * die)).rq = []) (hissued : (s.ch (4 * die)).issued = []) (hslots : s.place.slots = []) (hacc : s.atMostPageOn (4 * die)) :
    ChannelGone (4 * die) (s.linkLost die) := by
  obtain ⟨t, ht, hregs, hlives⟩ : ∃ t : State, t = (s.linkDown die).setFlag (Reg.DMC_FAULT_LINK_LOST (4 * die)) true ∧ t = { s with regs := t.regs } ∧ ∀ k, t.chLive k = s.chLive k :=
    ⟨_, rfl, by rw [State.setFlag, State.wr_eq_withRegs, State.linkDown, State.wr_eq_withRegs], fun k => (State.chLive_setLinkLost _ _ k).trans (s.chLive_linkDown die k)⟩
  have hch : t.ch (4 * die) = s.ch (4 * die) := State.ch_congr (by rw [hregs]) _
  have hplace : t.place = s.place := by rw [hregs]
  obtain ⟨hgone, hothers⟩ := State.loseChannel_gone (s := t) (by omega) ((hlives _).trans hlive) (by rw [hch, hfly]) (by rw [hch, hrq]) (by rw [hch, hissued]) (by rw [hplace, hslots])
    (by unfold State.atMostPageOn; rw [hplace]; exact hacc) 2
  have hrest : ∀ c ∈ ([4 * die + 1, 4 * die + 2, 4 * die + 3] : List Nat), (t.loseChannel (4 * die) 2).chLive c = false := by
    have hone : ∀ k, 1 ≤ k → k < 4 → (t.loseChannel (4 * die) 2).chLive (4 * die + k) = false := fun k h1 h4 =>
      (hothers _ (by omega) (by omega)).trans ((hlives _).trans (hdead k h1 h4))
    simp [hone]
  rw [State.linkLost_eq die hrel, List.foldl_cons, State.linkRound, ← ht]
  exact (LinksFlagged.rounds _ _ hrest).1.channelGone hgone

theorem channelLossTakesEffect : ChannelLossTakesEffect := by
  refine ⟨fun c k s h => congrArg Host.Outcome.next (State.chanLost_none h), fun c k p fr inc a s hlive hrepeats hrate hfly hrq hissued hslots hacc hform => ?_,
    fun d s hrel => ?_, fun d s hrel hdead => ?_, fun d s hrel hlive hdead hfly hrq hissued hslots hacc => ?_, fun c b s hdead => ?_, fun c b s hlive hfew => ?_, fun c b s hlive hmany => ?_⟩
  · have hch : (s.wr (Reg.DMC_FAULT_CAUSE c) k).ch c = s.ch c := State.ch_wr ..
    have hplace : (s.wr (Reg.DMC_FAULT_CAUSE c) k).place = s.place := State.wr_place ..
    obtain ⟨hgone, -⟩ := State.loseChannel_gone (s := s.wr (Reg.DMC_FAULT_CAUSE c) k) c.isLt ((s.chLive_wrCause c k c).trans hlive) (by rw [hch, hfly]) (by rw [hch, hrq]) (by rw [hch, hissued])
      (by rw [hplace, hslots]) (.inr ⟨p, a, by rw [hplace, hacc], by simp [onChan, hform, formChan]⟩) 1
    exact ⟨_, congrArg Host.Outcome.next (State.chanLost_loses hlive hrepeats hrate), hgone⟩
  · show Host.Outcome.next (s.linkLost d) = _
    rw [State.linkLost, hrel]
    rfl
  · obtain ⟨hflags, hset⟩ := LinksFlagged.rounds [4 * d.val, 4 * d.val + 1, 4 * d.val + 2, 4 * d.val + 3] (s.linkDown d) (by
      have hone : ∀ k, k < 4 → (s.linkDown d).chLive (4 * d.val + k) = false := fun k hk => (s.chLive_linkDown d _).trans (hdead k hk)
      simpa using ⟨hone 0 (by decide), hone 1 (by decide), hone 2 (by decide), hone 3 (by decide)⟩)
    have hdown : s.linkDown d = { s with regs := (s.linkDown d).regs } := State.wr_eq_withRegs ..
    refine ⟨_, congrArg Host.Outcome.next (State.linkLost_eq d hrel), ?_, fun k hk => hset _ ?_, ?_, ?_⟩
    · exact (congrArg (fun x => x.testBit d.val) hflags.up).trans s.bit_linkDown
    · obtain rfl | rfl | rfl | rfl : k = 0 ∨ k = 1 ∨ k = 2 ∨ k = 3 := by omega
      all_goals simp
    · rw [hflags.eq, hdown]
    · rw [hflags.eq, hdown]
  · exact ⟨_, rfl, State.linkLost_gone d.isLt hrel hlive hdead hfly hrq hissued hslots (.inl hacc)⟩
  · show Host.Outcome.next (s.alertReport c) = _
    rw [State.alertReport, hdead]
    rfl
  · refine ⟨_, congrArg Host.Outcome.next (State.alertReport_repeats hlive hfew), ?_, rfl⟩
    exact State.ch_updCh_same ..
  · exact congrArg Host.Outcome.next (State.alertReport_loses hlive hmany)

/-- Settles O51: range passes and the patrol (`rangePassesTakeEffect`), on-chip arrays and slice restarts (`arrayErrorsTakeEffect`), lost channels and links (`channelLossTakesEffect`). -/
theorem passesArraysAndChannelLoss : Obligations.PassesArraysAndChannelLoss :=
  ⟨rangePassesTakeEffect, arrayErrorsTakeEffect, channelLossTakesEffect⟩

end Sys2Proof.Machine
end

section
/-! The entries of pages that a form lists, and the Curator's scan and epochs (R135, R136, R138). -/
namespace Sys2Proof.Machine

/-! ### Entries that are listed -/

/-- A form that no page has without an entry of its own. -/
def PageForm.listed : PageForm → Bool
  | .unwritten false => false
  | .unreadable => false
  | _ => true

theorem State.listed_accDefault (s : State) (p : Nat) : (s.accDefault p).form.listed = false := by
  unfold State.accDefault
  split <;> rfl

/-- An entry that is listed is the page's. -/
theorem State.acc_of_look {s : State} {p : Nat} {a : Acc} (h : Tbl.look s.place.acc p = some a) : s.acc p = a := by
  rw [State.acc, Tbl.lookD, h]
  rfl

theorem State.look_of_listed {s : State} {p : Nat} (h : (s.acc p).form.listed = true) : Tbl.look s.place.acc p = some (s.acc p) := by
  cases hlook : Tbl.look s.place.acc p with
  | none =>
    have hacc : s.acc p = s.accDefault p := by rw [State.acc, Tbl.lookD, hlook]; rfl
    rw [hacc, State.listed_accDefault] at h
    cases h
  | some a => rw [State.acc_of_look hlook]

/-- A listed entry stands wherever the entries do, whatever becomes of the lines of those that are not listed. -/
theorem State.acc_of_listed {s t : State} {p : Nat} (hacc : t.place.acc = s.place.acc) (h : (s.acc p).form.listed = true) : t.acc p = s.acc p :=
  State.acc_of_look (hacc ▸ State.look_of_listed h)

theorem State.acc_setForm (s : State) (p : Nat) (f : PageForm) : (s.setForm p f).acc p = { s.acc p with form := f } := State.acc_setAcc ..

/-! ### The scan -/

/-- What the work on the page of a scan keeps: the stored lines, and where the scans stand. -/
structure ScanKept (s t : State) : Prop where
  media : t.media = s.media
  scanned : t.place.scanned = s.place.scanned
  scanNext : t.place.scanNext = s.place.scanNext
  scanAsk : t.place.scanAsk = s.place.scanAsk

theorem ScanKept.trans {s t u : State} (h : ScanKept s t) (k : ScanKept t u) : ScanKept s u :=
  ⟨k.media.trans h.media, k.scanned.trans h.scanned, k.scanNext.trans h.scanNext, k.scanAsk.trans h.scanAsk⟩

theorem ScanKept.setAcc (s : State) (p : Nat) (a : Acc) : ScanKept s (s.setAcc p a) := ⟨rfl, rfl, rfl, rfl⟩

/-- A page that joins the freeze list of its slice changes that list alone, or sets LIST_OVF. -/
theorem State.freezeAdd_kept (s : State) (p : Nat) :
    ScanKept s (s.listAdd (·.freeze) (fun q l => { q with freeze := l }) (· == p) p p) ∧ (s.listAdd (·.freeze) (fun q l => { q with freeze := l }) (· == p) p p).place.acc = s.place.acc := by
  unfold State.listAdd
  dsimp only
  split
  · exact ⟨⟨rfl, rfl, rfl, rfl⟩, rfl⟩
  · split
    · have hplace : (s.setFlag Reg.CUR_EPOCH_STATUS_LIST_OVF true).place = s.place := (Noted.wr ..).place
      exact ⟨⟨(Noted.wr ..).media, by rw [hplace], by rw [hplace], by rw [hplace]⟩, by rw [hplace]⟩
    · exact ⟨⟨rfl, rfl, rfl, rfl⟩, rfl⟩

/-- The visit of the scan, first: a page idle for 8 epochs or more is marked as aged. -/
def State.ageEntry (s : State) (p : Nat) : State :=
  if 8 ≤ s.idleOf (s.acc p) ∧ (s.acc p).fstamp ≠ 15 then
    { s.setAcc p { s.acc p with fstamp := 15 } with place := { (s.setAcc p { s.acc p with fstamp := 15 }).place with foot := Tbl.putD s.place.foot 0 p 0 } }
  else s

/-- The visit of the scan, second: a HOT page that has been idle for long joins the freeze list. -/
def State.listIdle (s : State) (p idle : Nat) (f : PageForm) : State :=
  match f with
  | .hot _ _ none => if s.freezeIdle p ≤ idle then s.listAdd (·.freeze) (fun q l => { q with freeze := l }) (· == p) p p else s
  | _ => s

/-- The visit of the scan, last: a stale incompressible mark is cleared. -/
def State.unmark (s : State) (p : Nat) : State :=
  match s.slotOf p with
  | some (k, _) => s.updSlot k (fun m => { m with src := { m.src with form := clearInc s.incGen m.src.form }, dst := m.dst.map (clearInc s.incGen) })
  | none => s.setForm p (clearInc s.incGen (s.acc p).form)

theorem State.visit_eq {s : State} {p : Nat} (h : (s.acc p).form ≠ .unreadable) : s.visit p = ((s.ageEntry p).listIdle p (s.idleOf (s.acc p)) (s.srcForm p)).unmark p := by
  unfold State.visit
  exact if_neg h

/-- The entry after a visit of the scan. -/
def State.agedAcc (s : State) (p : Nat) : Acc := { s.acc p with fstamp := if 8 ≤ s.idleOf (s.acc p) then 15 else (s.acc p).fstamp }

theorem State.ageEntry_kept (s : State) (p : Nat) : ScanKept s (s.ageEntry p) ∧ (s.ageEntry p).acc p = s.agedAcc p := by
  unfold State.ageEntry
  split
  · next h =>
    refine ⟨⟨rfl, rfl, rfl, rfl⟩, (State.acc_setAcc s p _).trans ?_⟩
    rw [State.agedAcc, if_pos h.1]
  · next h =>
    refine ⟨⟨rfl, rfl, rfl, rfl⟩, ?_⟩
    rw [State.agedAcc]
    split
    · next h8 =>
      have h15 : (s.acc p).fstamp = 15 := by
        by_contra hne
        exact h ⟨h8, hne⟩
      rw [← h15]
    · rfl

theorem State.listIdle_kept (s : State) (p idle : Nat) (f : PageForm) : ScanKept s (s.listIdle p idle f) ∧ (s.listIdle p idle f).place.acc = s.place.acc := by
  unfold State.listIdle
  split
  · split
    · exact s.freezeAdd_kept p
    · exact ⟨⟨rfl, rfl, rfl, rfl⟩, rfl⟩
  · exact ⟨⟨rfl, rfl, rfl, rfl⟩, rfl⟩

/-- A HOT page without an incompressible mark has nothing to clear. -/
theorem State.unmark_hot {s : State} {p c fr : Nat} (hform : (s.acc p).form = .hot c fr none) : ScanKept s (s.unmark p) ∧ (s.unmark p).acc p = s.acc p := by
  unfold State.unmark
  rw [State.slotOf_none (by simp [hform])]
  refine ⟨ScanKept.setAcc .., (State.acc_setForm ..).trans ?_⟩
  rw [hform, show clearInc s.incGen (.hot c fr none) = .hot c fr none from rfl, ← hform]

/-- A visit of the scan to a HOT page without an incompressible mark. -/
theorem State.visit_hot {s : State} {p c fr : Nat} (hform : (s.acc p).form = .hot c fr none) : ScanKept s (s.visit p) ∧ (s.visit p).acc p = s.agedAcc p := by
  obtain ⟨hage, hacc⟩ := s.ageEntry_kept p
  obtain ⟨hlist, hsame⟩ := (s.ageEntry p).listIdle_kept p (s.idleOf (s.acc p)) (s.srcForm p)
  have haged : ((s.ageEntry p).acc p).form = .hot c fr none := by rw [hacc]; exact hform
  have hlisted := State.acc_of_listed hsame (by rw [haged]; rfl)
  obtain ⟨hunmark, hkept⟩ := State.unmark_hot (s := (s.ageEntry p).listIdle p (s.idleOf (s.acc p)) (s.srcForm p)) (by rw [hlisted, haged])
  rw [State.visit_eq (by simp [hform])]
  exact ⟨(hage.trans hlist).trans hunmark, by rw [hkept, hlisted, hacc]⟩

/-- The scan of a slice stands at its next page. -/
def State.scanOnward (s : State) (sl : Nat) : State :=
  { s with place := { s.place with
    scanNext := Tbl.putD s.place.scanNext 0 sl ((Tbl.lookD s.place.scanNext 0 sl + 1) % (s.boot.h * 2048))
    scanned := Tbl.upd s.place.scanned 0 sl (· + 1)
    scanAsk := s.place.scanAsk.filter (· != sl) } }

theorem State.lookD_scanOnward (s : State) (sl : Nat) : Tbl.lookD (s.scanOnward sl).place.scanned 0 sl = Tbl.lookD s.place.scanned 0 sl + 1
    ∧ Tbl.lookD (s.scanOnward sl).place.scanNext 0 sl = (Tbl.lookD s.place.scanNext 0 sl + 1) % (s.boot.h * 2048) :=
  ⟨Tbl.lookD_putD_same s.place.scanned 0 (Tbl.lookD s.place.scanned 0 sl + 1) sl, Tbl.lookD_putD_same ..⟩

/-- The scan of a slice that has come to a HOT page without an incompressible mark visits it and goes on. -/
theorem State.scanOn_hot {s : State} {sl p c fr : Nat} (hp : s.scanPage sl = p) (hform : (s.acc p).form = .hot c fr none) :
    Scanned sl p s (s.scanOn sl) ∧ sl ∉ (s.scanOn sl).place.scanAsk := by
  obtain ⟨hkept, hacc⟩ := State.visit_hot (s := s.scanOnward sl) (p := p) hform
  obtain ⟨hgone, hnext⟩ := s.lookD_scanOnward sl
  have hon : s.scanOn sl = (s.scanOnward sl).visit p := by
    rw [← hp]
    rfl
  rw [hon]
  refine ⟨⟨by rw [hkept.scanned]; exact hgone, by rw [hkept.scanNext]; exact hnext, by rw [hacc]; rfl, by rw [hacc]; rfl, hkept.media⟩, ?_⟩
  rw [hkept.scanAsk]
  simp [State.scanOnward]

/-! ### The steps of the scan -/

section Scan
variable {s : State} {sl : Nat}

theorem State.scanVisit_waits (h : s.boot.h = 0 ∨ (sl ∉ s.place.scanAsk ∧ (s.permits .scan = false ∨ s.qos.share = 0)) ∨ (sl ∈ s.place.scanAsk ∧ s.itemsPending (scanItems (s.scanPage sl)) = true)) :
    s.scanVisit sl = s := by
  unfold State.scanVisit
  dsimp only
  rcases h with h | ⟨hask, h⟩ | ⟨hask, hpend⟩
  · rw [if_pos (by simp [h])]
  · split
    · rfl
    · rw [if_neg (by simpa using hask)]
      rcases h with h | h
      · rw [if_pos (by simp [h])]
      · rw [State.govAdmit_noShare _ _ h, ite_self]
  · split
    · rfl
    · rw [if_pos (by simpa using hask)]

theorem State.scanVisit_back (hh : s.boot.h ≠ 0) (hask : sl ∈ s.place.scanAsk) (hback : s.itemsPending (scanItems (s.scanPage sl)) = false) : s.scanVisit sl = s.scanOn sl := by
  unfold State.scanVisit
  dsimp only
  rw [if_neg (by simpa using hh), if_pos (by simpa using hask), if_neg (by simp [hback])]

variable {x : State} (hpermits : s.permits .scan = true) (hh : s.boot.h ≠ 0) (hask : sl ∉ s.place.scanAsk) (hadmit : s.govAdmit sl .scan = some x)
include hpermits hh hask hadmit

theorem State.scanVisit_asks (hfree : x.freeNow.getLsbD 0 = true) (hpend : (x.advanceFree.metaReads (scanItems (s.scanPage sl))).itemsPending (scanItems (s.scanPage sl)) = true) :
    (s.scanVisit sl).place = { s.place with scanAsk := s.place.scanAsk ++ [sl] } ∧ (s.scanVisit sl).media = s.media := by
  have hreads := Channels.metaReads x.advanceFree (scanItems (s.scanPage sl)) {}
  have hplace : (x.advanceFree.metaReads (scanItems (s.scanPage sl))).place = s.place := by
    rw [hreads.eq]
    exact (Admitted.govAdmit hadmit).place
  have hmedia : (x.advanceFree.metaReads (scanItems (s.scanPage sl))).media = s.media := hreads.media.trans (Admitted.govAdmit hadmit).media
  unfold State.scanVisit
  dsimp only
  rw [if_neg (by simpa using hh), if_neg (by simpa using hask), if_neg (by simp [hpermits]), hadmit]
  dsimp only
  rw [if_pos hfree, if_pos hpend]
  exact ⟨by rw [← hplace], hmedia⟩

theorem State.scanVisit_cached (hfree : x.freeNow.getLsbD 0 = false) : s.scanVisit sl = x.advanceFree.scanOn sl := by
  unfold State.scanVisit
  dsimp only
  rw [if_neg (by simpa using hh), if_neg (by simpa using hask), if_neg (by simp [hpermits]), hadmit]
  exact if_neg (by rw [hfree]; decide)

omit hpermits hh hask in
/-- The page that the scan of a slice comes to, once its slice has admitted the visit. -/
theorem State.scanOn_admitted {p c fr : Nat} (hp : s.scanPage sl = p) (hform : (s.acc p).form = .hot c fr none) : Scanned sl p s (x.advanceFree.scanOn sl) := by
  have hadm := Admitted.govAdmit hadmit
  have hplace : x.advanceFree.place = s.place := hadm.place
  have hacc : x.advanceFree.acc p = s.acc p := hadm.acc p
  have hboot : x.advanceFree.boot = s.boot := by
    rw [hadm.eq]
    rfl
  have hpage : x.advanceFree.scanPage sl = p := by rw [State.scanPage, hplace, hboot]; exact hp
  obtain ⟨⟨hscanned, hnext, hkept, hstamp, hmedia⟩, -⟩ := State.scanOn_hot hpage (by rw [hacc]; exact hform)
  rw [State.idleOf, hplace, hacc] at hstamp
  rw [hplace] at hscanned
  rw [hplace, hboot] at hnext
  rw [hacc] at hkept
  exact ⟨hscanned, hnext, hkept, hstamp, hmedia.trans hadm.media⟩

end Scan

/-! ### The close of an epoch -/

section Epoch
variable {s : State}

theorem State.scannedSeventh_iff : s.scannedSeventh = true ↔ ∀ sl : SliceIx, s.boot.h * 2048 ≤ 7 * Tbl.lookD s.place.scanned 0 sl := by
  simp only [State.scannedSeventh, List.all_eq_true, List.mem_range, decide_eq_true_eq]
  exact ⟨fun h sl => h sl sl.isLt, fun h sl hsl => h ⟨sl, hsl⟩⟩

theorem State.epochClose_none (h : s.isSafe = true ∨ s.epochMs < s.place.lenMs ∨ ∃ sl : SliceIx, 7 * Tbl.lookD s.place.scanned 0 sl < s.boot.h * 2048) : s.epochClose = s := by
  unfold State.epochClose
  refine if_pos ?_
  rcases h with h | h | ⟨sl, h⟩
  · simp [h]
  · simp [h]
  · have hnot : s.scannedSeventh = false := by
      rw [← Bool.not_eq_true, State.scannedSeventh_iff]
      exact fun hall => absurd (hall sl) (Nat.not_le.2 h)
    simp [hnot]

/-- The placement as the next epoch opens: the lists of the one that closes are frozen, and what was planned is discarded. -/
def State.epochOpened (s : State) : State :=
  { s with place := { s.place with
    thaw := [], busy := [], freeze := [], totals := [], thawC := s.place.thaw, busyC := s.place.busy, freezeC := s.place.freeze, totalsC := s.place.totals,
    epoch := s.place.epoch + 1, closed := true, plan := [], planned := [], staged := [], scanned := [], long := decide (s.place.lenMs < s.epochMs),
    lenMs := s.rd Reg.CUR_EPOCH_CFG_LEN_MS, epochAt := s.tick } }

/-- The registers show the epoch that opens, and the length of the one that has closed. -/
def State.epochShown (s : State) (ms : Nat) : State :=
  ((s.wr Reg.CUR_EPOCH_STATUS_EPOCH (s.place.epoch % 65536)).wr Reg.CUR_EPOCH_STATUS_INC_GEN s.incGen).wr Reg.CUR_EPOCH_LEN_EFF_LEN_MS (min 0xFFFFF ms)

theorem State.epochShown_noted (s : State) (ms : Nat) : Noted s (s.epochShown ms) := ((Noted.wr ..).trans (Noted.wr ..)).trans (Noted.wr ..)

/-- A longer epoch is flagged, and the change from or to one is an event. -/
def State.epochLong (s : State) (long was : Bool) (ms : Nat) : State :=
  let s := if long then s.setFlag Reg.CUR_EPOCH_STATUS_LENGTHENED true else s
  if long = was then s else s.raise 0x0302 (min 0xFFFFF ms)

theorem State.epochLong_noted (s : State) (long was : Bool) (ms : Nat) : Noted s (s.epochLong long was ms) := by
  have hflag : Noted s (if long then s.setFlag Reg.CUR_EPOCH_STATUS_LENGTHENED true else s) := by
    split
    · exact Noted.wr ..
    · exact Noted.refl s
  unfold State.epochLong
  dsimp only
  split
  · exact hflag
  · exact hflag.trans (Noted.raise ..)

variable (hsafe : s.isSafe = false) (hlen : s.place.lenMs ≤ s.epochMs) (hscan : ∀ sl : SliceIx, s.boot.h * 2048 ≤ 7 * Tbl.lookD s.place.scanned 0 sl)
include hsafe hlen hscan

theorem State.epochClose_closes : s.epochClose = (s.epochOpened.epochShown s.epochMs).epochLong (decide (s.place.lenMs < s.epochMs)) s.place.long s.epochMs := by
  unfold State.epochClose
  refine if_neg ?_
  simp [hsafe, State.scannedSeventh_iff.2 hscan, hlen]

theorem State.epochClose_noted : Noted s.epochOpened s.epochClose := by
  rw [State.epochClose_closes hsafe hlen hscan]
  exact (State.epochShown_noted ..).trans (State.epochLong_noted ..)

theorem State.epochClose_exact (hexact : s.epochMs = s.place.lenMs) (hshort : s.place.long = false) : s.epochClose = s.epochOpened.epochShown s.epochMs := by
  rw [State.epochClose_closes hsafe hlen hscan, hexact, hshort]
  simp [State.epochLong]

end Epoch

theorem State.rd_epochShown (s : State) (ms : Nat) :
    (s.epochShown ms).rd Reg.CUR_EPOCH_STATUS_EPOCH = s.place.epoch % 65536 ∧ (s.epochShown ms).rd Reg.CUR_EPOCH_LEN_EFF_LEN_MS = min 0xFFFFF ms ∧ (s.epochShown ms).out = s.out := by
  refine ⟨?_, ?_, ?_⟩
  · rw [State.epochShown, State.rd_wr_other _ _ _ _ (by decide) (by decide) (by decide), State.rd_wr_other _ _ _ _ (by decide) (by decide) (by decide), State.rd_wr_same _ _ _ (by decide)]
    exact Nat.mod_mod_of_dvd _ (by decide)
  · rw [State.epochShown, State.rd_wr_same _ _ _ (by decide)]
    exact Nat.mod_eq_of_lt (Nat.lt_of_le_of_lt (Nat.min_le_left ..) (by decide))
  · simp [State.epochShown]

end Sys2Proof.Machine
end

section
/-! The Curator's plans and the staging of moves (R138, R139, R142, R144, R150, R291). -/
namespace Sys2Proof.Machine

/-! ### Plans -/

/-- A loop that lists a value for each of some keys. -/
theorem look_foldl_put {α : Type} (f : Nat → α) (l : List Nat) (t : Tbl α) (k : Nat) :
    Tbl.look (l.foldl (fun t n => Tbl.put t n (f n)) t) k = if k ∈ l then some (f k) else Tbl.look t k := by
  induction l generalizing t with
  | nil => simp
  | cons n l ih =>
    rw [List.foldl_cons, ih]
    by_cases hk : k = n
    · subst hk
      simp
    · simp [hk, Tbl.look_put_other _ _ _ _ hk]

/-- A state beside another in which plans have been built: the plans, their allocation sets and the duties that have planned may differ. -/
structure PlanOnly (s t : State) : Prop where
  eq : t = { s with place := { s.place with plan := t.place.plan, allocSet := t.place.allocSet, planned := t.place.planned } }

theorem PlanOnly.refl (s : State) : PlanOnly s s := ⟨rfl⟩

theorem PlanOnly.trans {s t u : State} (h : PlanOnly s t) (k : PlanOnly t u) : PlanOnly s u := ⟨by rw [k.eq, h.eq]⟩

theorem PlanOnly.planOf {s t : State} (h : PlanOnly s t) (n : Nat) : t.planOf n = s.planOf n := by
  rw [h.eq]
  rfl

theorem PlanOnly.allocChans {s t : State} (h : PlanOnly s t) : t.allocChans = s.allocChans := by
  rw [h.eq]
  rfl

theorem PlanOnly.dutyOwner {s t : State} (h : PlanOnly s t) (n : Nat) : t.dutyOwner n = s.dutyOwner n := by
  rw [h.eq]
  rfl

/-- The slices of a duty. -/
def dutySlices (j : Nat) : List Nat := (List.range 8).map (fun k => 8 * j + k)

theorem mem_dutySlices (i j k : Nat) (hk : k < 8) : 8 * j + k ∈ dutySlices i ↔ i = j := by
  simp only [dutySlices, List.mem_map, List.mem_range]
  exact ⟨fun ⟨m, _, _⟩ => by omega, fun h => ⟨k, hk, by rw [h]⟩⟩

/-- The pair that holds a duty builds the plans of its slices, once in an epoch. -/
def State.planDuty (s : State) (p j : Nat) : State :=
  if s.dutyOwner (2 + j) ≠ p ∨ s.place.planned.contains (2 + j) = true then s
  else { s with place := { s.place with
    plan := (dutySlices j).foldl (fun t sl => Tbl.put t sl (s.planOf sl)) s.place.plan
    allocSet := (dutySlices j).foldl (fun t sl => Tbl.put t sl s.allocChans) s.place.allocSet
    planned := s.place.planned ++ [2 + j] } }

theorem PlanOnly.planDuty (s : State) (p j : Nat) : PlanOnly s (s.planDuty p j) := by
  unfold State.planDuty
  split
  · exact refl s
  · exact ⟨rfl⟩

/-- A duty has planned, and its slices have the plans and the allocation set that a state gives. -/
def Planned.for (s : State) (j : Nat) (t : State) : Prop :=
  t.place.planned.contains (2 + j) = true ∧ ∀ k, k < 8 → Tbl.look t.place.plan (8 * j + k) = some (s.planOf (8 * j + k)) ∧ Tbl.look t.place.allocSet (8 * j + k) = some s.allocChans

theorem State.planDuty_same {s t : State} {p j : Nat} (h : PlanOnly s t) (hown : s.dutyOwner (2 + j) = p) (hnot : t.place.planned.contains (2 + j) = false) : Planned.for s j (t.planDuty p j) := by
  rw [State.planDuty, if_neg (by rw [h.dutyOwner, hown, hnot]; simp)]
  refine ⟨by simp, fun k hk => ⟨?_, ?_⟩⟩
  · refine (look_foldl_put _ _ _ _).trans ?_
    rw [if_pos ((mem_dutySlices j j k hk).2 rfl), h.planOf]
  · refine (look_foldl_put _ _ _ _).trans ?_
    rw [if_pos ((mem_dutySlices j j k hk).2 rfl), h.allocChans]

theorem State.planDuty_other (t : State) {p i j : Nat} (h : i ≠ j) : (t.planDuty p i).place.planned.contains (2 + j) = t.place.planned.contains (2 + j)
    ∧ ∀ k, k < 8 → Tbl.look (t.planDuty p i).place.plan (8 * j + k) = Tbl.look t.place.plan (8 * j + k) ∧ Tbl.look (t.planDuty p i).place.allocSet (8 * j + k) = Tbl.look t.place.allocSet (8 * j + k) := by
  unfold State.planDuty
  split
  · exact ⟨rfl, fun _ _ => ⟨rfl, rfl⟩⟩
  · refine ⟨?_, fun k hk => ⟨?_, ?_⟩⟩
    · simp [Ne.symm h]
    · refine (look_foldl_put _ _ _ _).trans (if_neg ?_)
      rwa [mem_dutySlices i j k hk]
    · refine (look_foldl_put _ _ _ _).trans (if_neg ?_)
      rwa [mem_dutySlices i j k hk]

/-- A duty that has planned keeps its plans while others plan. -/
theorem Planned.for.planDuty {s t : State} {j : Nat} (h : Planned.for s j t) (p i : Nat) : Planned.for s j (t.planDuty p i) := by
  by_cases hij : i = j
  · rw [State.planDuty, if_pos (.inr (hij ▸ h.1))]
    exact h
  · obtain ⟨hplanned, hlook⟩ := t.planDuty_other (p := p) hij
    exact ⟨hplanned.trans h.1, fun k hk => ⟨(hlook k hk).1.trans (h.2 k hk).1, (hlook k hk).2.trans (h.2 k hk).2⟩⟩

theorem Planned.for.planDuties {s t : State} {j : Nat} (h : Planned.for s j t) (p : Nat) (l : List Nat) : Planned.for s j (l.foldl (fun u i => u.planDuty p i) t) := by
  induction l generalizing t with
  | nil => exact h
  | cons i l ih => exact ih (h.planDuty p i)

/-- Each of a pair's duties that had not planned has. -/
theorem State.planDuties {s t : State} {p : Nat} (l : List Nat) (h : PlanOnly s t) : PlanOnly s (l.foldl (fun u i => u.planDuty p i) t)
    ∧ ∀ j ∈ l, s.dutyOwner (2 + j) = p → t.place.planned.contains (2 + j) = false → Planned.for s j (l.foldl (fun u i => u.planDuty p i) t) := by
  induction l generalizing t with
  | nil => exact ⟨h, fun _ hj => by simp at hj⟩
  | cons i l ih =>
    obtain ⟨honly, hfor⟩ := ih (h.trans (PlanOnly.planDuty t p i))
    refine ⟨honly, fun j hj hown hnot => ?_⟩
    by_cases hij : i = j
    · subst hij
      exact (State.planDuty_same h hown hnot).planDuties p l
    · have hmem : j ∈ l := (List.mem_cons.1 hj).resolve_left (Ne.symm hij)
      exact hfor j hmem hown ((t.planDuty_other (p := p) hij).1.trans hnot)

section Plan
variable {s : State} {p : Nat}

theorem State.curatorPlan_none (h : s.isSafe = true ∨ s.boot.warmEntry = true ∨ s.healthy p = false ∨ s.warden.fence.contains p = true ∨ s.flag Reg.CUR_EPOCH_CFG_CURATE = false ∨ s.place.closed = false) :
    s.curatorPlan p = s := by
  unfold State.curatorPlan
  refine if_pos ?_
  rcases h with h | h | h | h | h | h <;> simp only [h, Bool.true_or, Bool.or_true, Bool.not_false]

theorem State.curatorPlan_plans (hsafe : s.isSafe = false) (hwarm : s.boot.warmEntry = false) (hhealthy : s.healthy p = true) (hfence : s.warden.fence.contains p = false)
    (hcurate : s.flag Reg.CUR_EPOCH_CFG_CURATE = true) (hclosed : s.place.closed = true) : s.curatorPlan p = (List.range 4).foldl (fun u i => u.planDuty p i) s := by
  unfold State.curatorPlan
  refine if_neg ?_
  simp [hsafe, hwarm, hhealthy, hcurate, hclosed]
  simpa using hfence

end Plan

/-! ### Staging -/

/-- A move of a slice is put at its access port. -/
def State.stage (s : State) (sl : Nat) (m : Planned) : State :=
  { s with place := { s.place with staged := s.place.staged ++ [{ slice := sl, pair := s.dutyOwner (2 + sl / 8), move := m }] } }

/-- The move of a plan that is staged next: at RESERVE and worse the first spill, else the first move (R291). -/
def State.nextPlanned (s : State) (l : List Planned) : Option Planned := if 3 ≤ s.rd Reg.CUR_PRESSURE_LEVEL then (l.find? (fun m => m.kind == .spill)).or l.head? else l.head?

theorem State.nextPlanned_eq (s : State) (l : List Planned) : (l.find? (fun (m : Planned) => decide (3 ≤ s.rd Reg.CUR_PRESSURE_LEVEL) && m.kind == .spill)).or l.head? = s.nextPlanned l := by
  unfold State.nextPlanned
  by_cases h : 3 ≤ s.rd Reg.CUR_PRESSURE_LEVEL
  · simp [h]
  · have hnone : l.find? (fun (m : Planned) => decide (3 ≤ s.rd Reg.CUR_PRESSURE_LEVEL) && m.kind == .spill) = none := by simp [h]
    rw [hnone, if_neg h]
    rfl

section Stage
variable {s : State} {sl : Nat}

theorem State.moveStage_off (h : s.isSafe = true ∨ s.boot.warmEntry = true ∨ s.dutyUp (2 + sl / 8) = false) : s.moveStage sl = s := by
  unfold State.moveStage
  refine if_pos ?_
  rcases h with h | h | h <;> simp [h]

theorem State.moveStage_none (hrecall : s.recalledPage sl = none) (h : s.flag Reg.CUR_EPOCH_CFG_CURATE = false ∨ Tbl.lookD s.place.plan [] sl = []) : s.moveStage sl = s := by
  unfold State.moveStage
  dsimp only
  split
  · rfl
  · rw [hrecall]
    dsimp only
    rcases h with h | h
    · rw [if_pos (by simp [h])]
    · rw [h]
      exact ite_self s

variable (hsafe : s.isSafe = false) (hwarm : s.boot.warmEntry = false) (hup : s.dutyUp (2 + sl / 8) = true)
include hsafe hwarm hup

theorem State.moveStage_recalled {p : Nat} (hrecall : s.recalledPage sl = some p) : s.moveStage sl = s.stage sl { page := p, kind := .unspill } := by
  unfold State.moveStage
  dsimp only
  rw [if_neg (by simp [hsafe, hwarm, hup]), hrecall]
  rfl

theorem State.moveStage_planned {m : Planned} (hrecall : s.recalledPage sl = none) (hcurate : s.flag Reg.CUR_EPOCH_CFG_CURATE = true) (hnext : s.nextPlanned (Tbl.lookD s.place.plan [] sl) = some m) :
    s.moveStage sl = { s with place := { (s.stage sl m).place with plan := Tbl.put s.place.plan sl ((Tbl.lookD s.place.plan [] sl).erase m) } } := by
  unfold State.moveStage
  dsimp only
  rw [if_neg (by simp [hsafe, hwarm, hup]), hrecall]
  dsimp only
  rw [if_neg (by simp [hcurate]), State.nextPlanned_eq, hnext]
  rfl

end Stage

/-- The Curator's part of O48. -/
theorem curatorCommandsTakeEffect : CuratorCommandsTakeEffect := by
  refine ⟨fun sl s h => congrArg Host.Outcome.next (State.scanVisit_waits h), fun sl x s hpermits hh hask hadmit hfree hpend => ?_, fun sl x c fr p s hpermits hh hask hadmit hfree hp hform => ?_,
    fun sl c fr p s hh hask hback hp hform => ?_, fun s h => congrArg Host.Outcome.next (State.epochClose_none h), fun s hsafe hlen hscan => ?_, fun p s h => congrArg Host.Outcome.next (State.curatorPlan_none h),
    fun p s hsafe hwarm hhealthy hfence hcurate hclosed => ?_, fun sl s h => congrArg Host.Outcome.next (State.moveStage_off h), fun sl p s hsafe hwarm hup hrecall => ?_,
    fun sl s hrecall h => congrArg Host.Outcome.next (State.moveStage_none hrecall h), fun sl m l s hsafe hwarm hup hrecall hcurate hl hnext => ?_⟩
  case refine_1 =>
    exact ⟨_, rfl, State.scanVisit_asks hpermits hh hask hadmit hfree hpend⟩
  case refine_2 =>
    exact ⟨_, congrArg Host.Outcome.next (State.scanVisit_cached hpermits hh hask hadmit hfree), State.scanOn_admitted hadmit hp hform⟩
  case refine_3 =>
    exact ⟨_, congrArg Host.Outcome.next (State.scanVisit_back hh hask hback), State.scanOn_hot hp hform⟩
  case refine_4 =>
    have hnoted := State.epochClose_noted hsafe hlen hscan
    refine ⟨_, rfl, ?_⟩
    rw [hnoted.place, hnoted.media]
    refine ⟨rfl, rfl, rfl, rfl, rfl, rfl, rfl, rfl, rfl, rfl, rfl, rfl, rfl, rfl, rfl, rfl, rfl, rfl, fun hexact hshort => ?_⟩
    rw [State.epochClose_exact hsafe hlen hscan hexact hshort]
    exact State.rd_epochShown ..
  case refine_5 =>
    obtain ⟨honly, hfor⟩ := State.planDuties (p := p) (List.range 4) (PlanOnly.refl s)
    refine ⟨_, congrArg Host.Outcome.next (State.curatorPlan_plans hsafe hwarm hhealthy hfence hcurate hclosed), by rw [honly.eq], by rw [honly.eq], by rw [honly.eq], fun j hj hown hnot => ?_⟩
    exact hfor j (List.mem_range.2 hj) hown hnot
  case refine_6 =>
    exact ⟨_, congrArg Host.Outcome.next (State.moveStage_recalled hsafe hwarm hup hrecall), rfl, rfl, rfl⟩
  case refine_7 =>
    subst hl
    exact ⟨_, congrArg Host.Outcome.next (State.moveStage_planned hsafe hwarm hup hrecall hcurate hnext), rfl, by rw [Tbl.lookD, Tbl.look_put_same]; rfl, rfl⟩

end Sys2Proof.Machine
end

section
/-! What the steps of a move leave of the entries, the slots, the stored lines and the write queues (R126, R142, R144, R152, R210). -/
namespace Sys2Proof.Machine

/-! ### Entries and slots that are kept -/

/-- What the work around an entry keeps: the entries and the slots, the stored lines, and the write queues. -/
structure EntriesKept (s t : State) : Prop where
  acc : t.place.acc = s.place.acc
  slots : t.place.slots = s.place.slots
  media : t.media = s.media
  wq : ∀ c, (t.ch c).wq = (s.ch c).wq

namespace EntriesKept

theorem refl (s : State) : EntriesKept s s := ⟨rfl, rfl, rfl, fun _ => rfl⟩

theorem trans {s t u : State} (h : EntriesKept s t) (k : EntriesKept t u) : EntriesKept s u :=
  ⟨k.acc.trans h.acc, k.slots.trans h.slots, k.media.trans h.media, fun c => (k.wq c).trans (h.wq c)⟩

theorem ofPressed {s t : State} (h : Pressed s t) : EntriesKept s t := ⟨by rw [h.place], by rw [h.place], h.media, fun c => by rw [State.ch_congr h.dmc]⟩

theorem ofNoted {s t : State} (h : Noted s t) : EntriesKept s t := ofPressed (Pressed.ofNoted h)

theorem ofAdmitted {s t : State} (h : Admitted s t) : EntriesKept s t := ⟨by rw [h.place], by rw [h.place], h.media, fun c => by rw [State.ch_congr h.dmc]⟩

theorem orphan (s : State) (isIt : RdWhy → Bool) : EntriesKept s (s.orphan isIt) := ⟨rfl, rfl, rfl, fun c => by rw [State.ch_orphan]; rfl⟩

theorem ite {s t u : State} {p : Prop} [Decidable p] (ht : EntriesKept s t) (hu : EntriesKept s u) : EntriesKept s (if p then t else u) := by
  split
  · exact ht
  · exact hu

theorem dropGather (s : State) (p : Nat) : EntriesKept s (s.dropGather p) := by
  unfold State.dropGather
  exact trans (t := { s with sec := { s.sec with gather := Tbl.del s.sec.gather p } }) ⟨rfl, rfl, rfl, fun _ => rfl⟩ (orphan ..)

theorem freeMoveEngine (s : State) (m : MoveSlot) : EntriesKept s (s.freeMoveEngine m) := by
  unfold State.freeMoveEngine
  split
  · next e _ => exact ite (trans (t := s.freeEngine e) ⟨rfl, rfl, rfl, fun _ => rfl⟩ (orphan ..)) (refl s)
  · exact refl s

theorem freeUnitsOf (s : State) (c fr mask : Nat) : EntriesKept s (s.freeUnitsOf c fr mask) := by
  unfold State.freeUnitsOf
  dsimp only
  split <;> exact ⟨rfl, rfl, rfl, fun _ => rfl⟩

theorem borrow (s : State) (b : Tbl BorrowX) : EntriesKept s { s with borrow := b } := ⟨rfl, rfl, rfl, fun _ => rfl⟩

theorem leaseEmptied (s : State) (l : Nat) : EntriesKept s (s.leaseEmptied l) := by
  unfold State.leaseEmptied
  split
  · unfold State.releaseLease
    split
    · exact refl s
    · exact ofPressed ((Pressed.wr ..).trans (Pressed.openOxn ..))
  · exact refl s

/-- Media that is freed leaves every entry. -/
theorem freeForm (s : State) (f : PageForm) : EntriesKept s (s.freeForm f) := by
  unfold State.freeForm
  split
  · exact (freeUnitsOf ..).trans (ofPressed (Pressed.pressure _))
  · exact (freeUnitsOf ..).trans (ofPressed (Pressed.pressure _))
  · dsimp only
    exact (ofPressed (Pressed.wr ..)).trans ((borrow ..).trans ((leaseEmptied ..).trans (ofPressed (Pressed.pressure _))))
  · exact refl s

end EntriesKept

/-! ### A frame that is given out -/

/-- A state beside another after a frame has been given out: beside what the pressure level changes, the free values drawn, the counts of the pool, the rotation and the pages outside
their mask may differ. -/
structure FrameGiven (s t : State) : Prop where
  eq : t = { s with free := t.free, out := t.out, regs := t.regs, heads := t.heads, lds := t.lds, cat := t.cat, mgmt := t.mgmt, graft := t.graft, borrow := t.borrow, lent := t.lent, place := { s.place with used := t.place.used, chans := t.place.chans, rot := t.place.rot, outside := t.place.outside } }

namespace FrameGiven

theorem trans {s t u : State} (h : FrameGiven s t) (k : FrameGiven t u) : FrameGiven s u := ⟨by rw [k.eq, h.eq]⟩

theorem pressure (s : State) : FrameGiven s s.pressure := ⟨by rw [(Pressed.pressure s).eq]⟩

theorem takeFrame (s : State) (c : Nat) (d : Draw) : FrameGiven s (s.takeFrame c d) := by
  unfold State.takeFrame
  dsimp only
  split <;> exact ⟨rfl⟩

theorem allocOn {s u : State} {c n : Nat} (h : s.allocOn c = some (n, u)) : FrameGiven s u := by
  unfold State.allocOn at h
  split at h
  · cases h
  · cases h
    exact (takeFrame ..).trans (pressure _)

theorem allocFrame {s u : State} {p c fr : Nat} {thaw : Bool} (h : s.allocFrame p thaw = some (c, fr, u)) : FrameGiven s u := by
  unfold State.allocFrame at h
  dsimp only at h
  split at h
  · cases h
  · cases h
    exact ((takeFrame ..).trans ⟨rfl⟩).trans (pressure _)

section Keeps
variable {s t : State} (h : FrameGiven s t)
include h

theorem acc : t.place.acc = s.place.acc := by rw [h.eq]
theorem slots : t.place.slots = s.place.slots := by rw [h.eq]
theorem staged : t.place.staged = s.place.staged := by rw [h.eq]
theorem media : t.media = s.media := by rw [h.eq]
theorem press : t.press = s.press := by rw [h.eq]

end Keeps

end FrameGiven

/-! ### Lines that are stored -/

/-- The write queue of a channel holds a line whole, as the data that a read of it finds. -/
def State.queues (s : State) (c l : Nat) (y : Line) : Prop := ∃ e, s.wqEntry c l = some e ∧ e.part = none ∧ e.data = y.data ∧ e.poison = y.poison

theorem State.queues.visible {s : State} {c l : Nat} {y : Line} (h : s.queues c l y) : s.visible c l = y := by
  obtain ⟨e, he, hpart, hdata, hpoison⟩ := h
  rw [State.visible_of_wqEntry he hpart, hdata, hpoison]

theorem State.queues.kept {s t : State} {c l : Nat} {y : Line} (h : s.queues c l y) (hk : EntriesKept s t) : t.queues c l y := by
  obtain ⟨e, he, hline⟩ := h
  exact ⟨e, by rw [State.wqEntry, hk.wq]; exact he, hline⟩

theorem State.queues.updSlot {s : State} {c l : Nat} {y : Line} (h : s.queues c l y) (k : Nat) (f : MoveSlot → MoveSlot) : (s.updSlot k f).queues c l y := h

/-- A change of the entries of one line of a queue finds another line's as before. -/
theorem find?_map_otherLine {q : List WrEnt} {f : WrEnt → WrEnt} {l k : Nat} (hk : k ≠ l) (hline : ∀ w, (f w).line = w.line) (hother : ∀ w, w.line ≠ l → f w = w) :
    (q.map f).find? (fun e => e.line == k) = q.find? (fun e => e.line == k) := by
  induction q with
  | nil => rfl
  | cons w q ih =>
    rw [List.map_cons, List.find?_cons, List.find?_cons, ih, hline]
    by_cases hw : w.line = k
    · rw [hother w (by omega)]
    · rw [show (w.line == k) = false by simpa using hw]

/-- A write to another line leaves a line's entry. -/
theorem State.wqEntry_enqueueWrite_other (s : State) {c l k : Nat} (data : BitVec 512) (be : BitVec 64) (poison : Bool) (hk : k ≠ l) :
    (s.enqueueWrite c l data be poison).wqEntry c k = s.wqEntry c k := by
  unfold State.enqueueWrite
  dsimp only
  rw [show s.wqEntry c k = (s.ch c).wq.find? (fun e => e.line == k) from rfl, State.wqEntry, State.wq_wakeRank]
  split
  · rw [State.ch_updCh_same]
    exact find?_map_otherLine hk (fun w => by split <;> [split <;> rfl; rfl]) fun w hw => if_neg hw
  · rw [State.ch_updCh_same]
    dsimp only
    rw [List.find?_append]
    simp [Ne.symm hk]

theorem State.queues.enqueueWrite {s : State} {c l : Nat} {y : Line} (h : s.queues c l y) {k : Nat} (hk : l ≠ k) (data : BitVec 512) (be : BitVec 64) (poison : Bool) :
    (s.enqueueWrite c k data be poison).queues c l y := by
  obtain ⟨e, he, hline⟩ := h
  exact ⟨e, (State.wqEntry_enqueueWrite_other s data be poison hk).trans he, hline⟩

/-- Lines that enter a write queue one after another: each is there, and so is what was there of the lines before. -/
theorem State.queues_foldl (c first : Nat) (xs : List Line) (n : Nat) (s : State) :
    (∀ (j : Nat) (y : Line), xs[j]? = some y → ((xs.zipIdx n).foldl (fun s x => s.enqueueWrite c (first + x.2) x.1.data (BitVec.allOnes 64) x.1.poison) s).queues c (first + (n + j)) y)
    ∧ ∀ (l : Nat) (y : Line), l < first + n → s.queues c l y → ((xs.zipIdx n).foldl (fun s x => s.enqueueWrite c (first + x.2) x.1.data (BitVec.allOnes 64) x.1.poison) s).queues c l y := by
  induction xs generalizing n s with
  | nil => exact ⟨fun j y h => by simp at h, fun l y _ h => h⟩
  | cons x xs ih =>
    obtain ⟨hnew, hold⟩ := ih (n + 1) (s.enqueueWrite c (first + n) x.data (BitVec.allOnes 64) x.poison)
    rw [List.zipIdx_cons, List.foldl_cons]
    refine ⟨fun j y h => ?_, fun l y hl h => hold l y (by omega) (h.enqueueWrite (by omega) ..)⟩
    cases j with
    | zero =>
      obtain rfl : x = y := by simpa using h
      exact hold _ _ (by omega) (s.wqEntry_enqueueWrite c (first + n) x.data x.poison)
    | succ j =>
      have hrow := hnew j y (by simpa using h)
      rwa [show n + 1 + j = n + (j + 1) by omega] at hrow

/-- Every line of a page store is in the write queue (R25). -/
theorem State.queues_storeLines (s : State) (c first : Nat) (xs : List Line) {j : Nat} {y : Line} (h : xs[j]? = some y) : (s.storeLines c first xs).queues c (first + j) y := by
  unfold State.storeLines
  dsimp only
  have hall := (State.queues_foldl c first xs 0 (if (s.ch c).flying = [] then s else s.updCh c (fun d => { d with flying := d.flying.map (fun (r : DramRd) =>
    if first ≤ r.line ∧ r.line < first + xs.length ∧ r.snap = none then { r with snap := some (s.visible c r.line) } else r) }))).1 j y h
  rwa [Nat.zero_add] at hall

theorem Channels.place {s t : State} (h : Channels s t) : t.place = s.place := by rw [h.eq]

theorem Channels.press {s t : State} (h : Channels s t) : t.press = s.press := by rw [h.eq]

end Sys2Proof.Machine
end

section
/-! Moves that end, by their commit or by an abort, and the copy rounds of a rehome (R144, R146). -/
namespace Sys2Proof.Machine

theorem Admitted.moveAdmit {s x : State} {slice : Nat} {m : MoveSlot} (h : s.moveAdmit slice m = some x) : Admitted s x := Admitted.ofEither h

/-! ### The end of a move -/

/-- A move has ended: its page has the form it gives, its slot is free, and lines and write queues are as before. -/
structure MoveEnded (k p : Nat) (f : PageForm) (s t : State) : Prop where
  slot : Tbl.look t.place.slots k = none
  form : (t.acc p).form = f
  media : t.media = s.media
  wq : ∀ c, (t.ch c).wq = (s.ch c).wq

theorem MoveEnded.after {k p : Nat} {f : PageForm} {s t u : State} (h : MoveEnded k p f t u) (hs : EntriesKept s t) : MoveEnded k p f s u :=
  ⟨h.slot, h.form, h.media.trans hs.media, fun c => (h.wq c).trans (hs.wq c)⟩

theorem MoveEnded.kept {k p : Nat} {f : PageForm} {s t u : State} (h : MoveEnded k p f s t) (hlisted : f.listed = true) (hu : EntriesKept t u) : MoveEnded k p f s u :=
  ⟨hu.slots ▸ h.slot, by rw [State.acc_of_listed hu.acc (by rw [h.form]; exact hlisted), h.form], hu.media.trans h.media, fun c => (hu.wq c).trans (h.wq c)⟩

/-- A move is over: its engine is idle, what was gathered for it is dropped, the entry takes its form, and the slot is free. -/
def State.endMove (s : State) (k : Nat) (m : MoveSlot) (f : PageForm) : State := (((s.freeMoveEngine m).dropGather m.page).setForm m.page f).closeSlot k

theorem MoveEnded.endMove (s : State) (k : Nat) (m : MoveSlot) (f : PageForm) : MoveEnded k m.page f s (s.endMove k m f) :=
  MoveEnded.after (t := (s.freeMoveEngine m).dropGather m.page) ⟨Tbl.look_del_same _ _, congrArg Acc.form (State.acc_setForm ..), rfl, fun _ => rfl⟩ ((EntriesKept.freeMoveEngine s m).trans (EntriesKept.dropGather _ m.page))

/-- A move that aborts restores its page's form. -/
theorem MoveEnded.abortMove {s : State} {k : Nat} {m : MoveSlot} (hslot : Tbl.look s.place.slots k = some m) (hlisted : m.src.form.listed = true) : MoveEnded k m.page m.src.form s (s.abortMove k) := by
  have habort : s.abortMove k = (match m.dst with | some f => (s.endMove k m m.src.form).freeForm f | none => s.endMove k m m.src.form).cnt 0x0306 .dev := by
    unfold State.abortMove
    rw [hslot]
    rfl
  have hend := MoveEnded.endMove s k m m.src.form
  have hcnt (t : State) : EntriesKept t (t.cnt 0x0306 .dev) := EntriesKept.ofNoted (Noted.cnt ..)
  rw [habort]
  split
  · exact hend.kept hlisted ((EntriesKept.freeForm ..).trans (hcnt _))
  · exact hend.kept hlisted (hcnt _)

/-- A commit gives its page the new form. -/
theorem MoveEnded.commitForm (s : State) (k : Nat) (m : MoveSlot) {f : PageForm} (hlisted : f.listed = true) : MoveEnded k m.page f s (s.commitForm k m f) :=
  (MoveEnded.endMove s k m f).kept hlisted (EntriesKept.freeForm ..)

theorem EntriesKept.inside (s : State) (m : MoveSlot) : EntriesKept s (s.inside m) := by
  unfold State.inside
  split
  · exact ite ⟨rfl, rfl, rfl, fun _ => rfl⟩ (refl s)
  · exact refl s

theorem MoveEnded.aborted {k : Nat} {m : MoveSlot} {s t : State} (h : MoveEnded k m.page m.src.form s t) : Aborted k m s t := ⟨h.slot, h.form, h.media⟩

/-! ### Aborts -/

/-- What a slice can admit does not depend on what the move slots hold. -/
theorem State.dmaAdmit_updSlot (s : State) (k sl : Nat) (f : MoveSlot → MoveSlot) : (s.updSlot k f).dmaAdmit sl = (s.dmaAdmit sl).map (fun t => t.updSlot k f) := by
  have hturn : (s.updSlot k f).turn sl 18 = s.turn sl 18 := rfl
  have hroom : (s.path.restart.contains sl || (s.updSlot k f).isSafe || (s.updSlot k f).tableFull sl || (s.updSlot k f).wcbFull sl) = (s.path.restart.contains sl || s.isSafe || s.tableFull sl || s.wcbFull sl) := rfl
  have hspaced : (s.updSlot k f).spaced sl 20 = s.spaced sl 20 := rfl
  unfold State.dmaAdmit
  rw [show (s.updSlot k f).path = s.path from rfl, hroom, hturn, hspaced]
  split
  · rfl
  · split <;> rfl

theorem State.look_updSlot (s : State) {k : Nat} {m : MoveSlot} (f : MoveSlot → MoveSlot) (h : Tbl.look s.place.slots k = some m) : Tbl.look (s.updSlot k f).place.slots k = some (f m) := by
  refine (Tbl.look_modify ..).trans ?_
  rw [h]
  exact congrArg some (if_pos rfl)

section Abort
variable {s : State} {sl i : Nat}

theorem State.moveAbort_running (h : ∀ m, Tbl.look s.place.slots (slotKey sl i) = some m → m.abort = false) : s.moveAbort sl i = s := by
  unfold State.moveAbort
  split
  · rfl
  · next m hm => rw [h m hm]; rfl

theorem State.moveAbort_refused (h : s.dmaAdmit sl = none) : s.moveAbort sl i = s := by
  unfold State.moveAbort
  split
  · rfl
  · split
    · rw [State.admitAbort, h]
    · rfl

theorem State.moveTimeout_none (h : ∀ m, Tbl.look s.place.slots (slotKey sl i) = some m → m.kind = .thaw ∨ m.kind = .unspill ∨ s.tick < m.startTick + s.us100) : s.moveTimeout sl i = s := by
  unfold State.moveTimeout
  split
  · rfl
  · next m hm =>
    refine if_neg ?_
    rcases h m hm with hk | hk | hk
    · simp [hk]
    · simp [hk]
    · simp only [Bool.and_eq_true, decide_eq_true_eq]
      omega

variable {m : MoveSlot} (hslot : Tbl.look s.place.slots (slotKey sl i) = some m)
include hslot

theorem State.moveAbort_admitted {x : State} (habort : m.abort = true) (hadmit : s.dmaAdmit sl = some x) : s.moveAbort sl i = x.abortMove (slotKey sl i) := by
  unfold State.moveAbort
  rw [hslot]
  dsimp only
  rw [if_pos habort, State.admitAbort, hadmit]

/-- A freeze, rehome or spill that is late is marked to abort, and ends with the admission of its abort. -/
theorem State.moveTimeout_late (hkind : m.kind = .freeze ∨ m.kind = .rehome ∨ m.kind = .spill) (hlate : m.startTick + s.us100 ≤ s.tick) :
    s.moveTimeout sl i = (s.updSlot (slotKey sl i) (fun m => { m with abort := true })).admitAbort sl (slotKey sl i) := by
  unfold State.moveTimeout
  rw [hslot]
  refine if_pos ?_
  rcases hkind with hk | hk | hk <;> simp [hk, hlate]

theorem MoveEnded.moveTimeout {x : State} (hkind : m.kind = .freeze ∨ m.kind = .rehome ∨ m.kind = .spill) (hlate : m.startTick + s.us100 ≤ s.tick) (hlisted : m.src.form.listed = true)
    (hadmit : s.dmaAdmit sl = some x) : MoveEnded (slotKey sl i) m.page m.src.form s (s.moveTimeout sl i) := by
  have hadm := Admitted.dmaAdmit hadmit
  have hmarked : Tbl.look (x.updSlot (slotKey sl i) (fun m => { m with abort := true })).place.slots (slotKey sl i) = some { m with abort := true } :=
    State.look_updSlot x _ (by rw [hadm.place]; exact hslot)
  rw [State.moveTimeout_late hslot hkind hlate, State.admitAbort, State.dmaAdmit_updSlot, hadmit]
  have hend := MoveEnded.abortMove hmarked hlisted
  exact ⟨hend.slot, hend.form, hend.media.trans hadm.media, fun c => (hend.wq c).trans ((EntriesKept.ofAdmitted hadm).wq c)⟩

theorem State.moveTimeout_marks (hkind : m.kind = .freeze ∨ m.kind = .rehome ∨ m.kind = .spill) (hlate : m.startTick + s.us100 ≤ s.tick) (hadmit : s.dmaAdmit sl = none) :
    s.moveTimeout sl i = s.updSlot (slotKey sl i) (fun m => { m with abort := true }) := by
  rw [State.moveTimeout_late hslot hkind hlate, State.admitAbort, State.dmaAdmit_updSlot, hadmit]
  rfl

end Abort

/-! ### Commits -/

theorem State.wantCtr_unguarded {s : State} {p : Nat} (w : ReadFor) (h : s.guard p = none) : s.wantCtr p w = (s, some true) := by
  unfold State.wantCtr
  rw [h]

theorem State.moveCommit_none {s : State} {sl i : Nat} (h : s.isSafe = true ∨ s.path.restart.contains sl = true
    ∨ ∀ m, Tbl.look s.place.slots (slotKey sl i) = some m → m.abort = true ∨ s.copyDone m = false ∨ s.commitRoom m = false ∨ (seals m = false ∧ s.moveAdmit sl m = none)) : s.moveCommit sl i = s := by
  unfold State.moveCommit
  dsimp only
  split
  · rfl
  · next m hm =>
    rcases h with h | h | h
    · exact if_pos (by simp [h])
    · exact if_pos (by simp only [h, Bool.or_true, Bool.true_or])
    · rcases h m hm with h | h | h | ⟨hseal, hadmit⟩
      · exact if_pos (by simp [h])
      · exact if_pos (by simp [h])
      · exact if_pos (by simp [h])
      · split
        · rfl
        · rw [hseal, if_neg Bool.false_ne_true]
          dsimp only
          rw [hadmit]

section Commit
variable {s x : State} {sl i : Nat} {m : MoveSlot} {c fr : Nat} {inc : Option Nat} (hsafe : s.isSafe = false) (hrestart : s.path.restart.contains sl = false)
  (hslot : Tbl.look s.place.slots (slotKey sl i) = some m) (habort : m.abort = false) (hcopied : m.copied = true) (hdst : m.dst = some (.hot c fr inc)) (hadmit : s.moveAdmit sl m = some x)
include hsafe hrestart hslot habort hcopied hdst hadmit

/-- A complete rehome commits with its admission. -/
theorem State.moveCommit_rehome (hkind : m.kind = .rehome) (hdirty : m.dirty = 0) : s.moveCommit sl i = (x.commitForm (slotKey sl i) m (.hot c fr inc)).inside m := by
  have hdone : s.copyDone m = true := by simp [State.copyDone, hkind, hcopied, hdirty]
  have hroom : s.commitRoom m = true := by simp [State.commitRoom, hkind]
  have hseal : seals m = false := by simp [seals, hkind]
  unfold State.moveCommit
  dsimp only
  rw [hslot]
  dsimp only
  rw [habort, hsafe, hrestart, hdone, hroom, hseal, if_neg (by simp), if_neg Bool.false_ne_true]
  dsimp only
  rw [hadmit]
  dsimp only
  rw [State.commitMove, hkind, hdst]

/-- A thaw whose decode is good stores its lines with its admission. -/
theorem State.moveCommit_thaw (hkind : m.kind = .thaw) (hguard : s.guard m.page = none) (hroom : s.storeRoom c (fr * 64) 64 = true) : s.moveCommit sl i = x.commitThaw (slotKey sl i) m c fr := by
  have hdone : s.copyDone m = true := by simp [State.copyDone, hkind, hcopied]
  have hroom : s.commitRoom m = true := by simp [State.commitRoom, hkind, hdst, State.formRoom, hroom]
  have hseal : seals m = true := by simp [seals, hkind]
  unfold State.moveCommit
  dsimp only
  rw [hslot]
  dsimp only
  rw [habort, hsafe, hrestart, hdone, hroom, hseal, if_neg (by simp), if_pos rfl, State.wantCtr_unguarded _ hguard]
  dsimp only
  rw [hadmit]
  dsimp only
  rw [State.commitMove, hkind, hdst]

end Commit

/-- A thaw of a page without a guard: its lines enter the write queues, and its page has its new frame. -/
theorem State.commitThaw_good {s : State} {k c fr : Nat} {m : MoveSlot} (hguard : s.guard m.page = none) (hfault : m.fault = none) :
    MoveEnded k m.page (.hot c fr none) (s.storeLines c (fr * 64) m.lines) (s.commitThaw k m c fr) := by
  have hcommit : s.commitThaw k m c fr = if m.inlineThaw then ((s.storeLines c (fr * 64) m.lines).commitForm k m (.hot c fr none)).cnt 0x0304 .dev
      else (s.storeLines c (fr * 64) m.lines).commitForm k m (.hot c fr none) := by
    unfold State.commitThaw State.storePage
    rw [hfault, hguard]
    rfl
  have hend := MoveEnded.commitForm (s.storeLines c (fr * 64) m.lines) k m (f := .hot c fr none) rfl
  rw [hcommit]
  split
  · exact hend.kept rfl (EntriesKept.ofNoted (Noted.cnt ..))
  · exact hend

end Sys2Proof.Machine
end

section
/-! The copy rounds of a rehome (R146). -/
namespace Sys2Proof.Machine

theorem EntriesKept.foldl {α : Type} {f : State → α → State} (l : List α) (s : State) (hf : ∀ t x, EntriesKept t (f t x)) : EntriesKept s (l.foldl f s) := by
  induction l generalizing s with
  | nil => exact refl s
  | cons x l ih => exact (hf s x).trans (ih (f s x))

theorem EntriesKept.sendRead (s : State) (c l : Nat) (why : RdWhy) (tier : Nat) (dl dpa : Option Nat) : EntriesKept s (s.sendRead c l why tier dl dpa) :=
  ⟨rfl, rfl, rfl, State.wq_sendRead s c l why tier dl dpa⟩

theorem EntriesKept.readLines (s : State) (p : Nat) (f : PageForm) (is : List Nat) : EntriesKept s (s.readLines p f is) := by
  have hgather (g : Tbl (Tbl Line)) : EntriesKept s { s with sec := { s.sec with gather := g } } := ⟨rfl, rfl, rfl, fun _ => rfl⟩
  unfold State.readLines
  dsimp only
  split
  · exact (hgather _).trans (foldl _ _ fun t i => sendRead t ..)
  · exact hgather _

/-! ### The end of a round -/

section Round
variable {s : State} {k : Nat} {m : MoveSlot} (hslot : Tbl.look s.place.slots k = some m) (htodo : m.todo = 0)
include hslot htodo

theorem State.endRound_copied (hdirty : m.dirty = 0) : s.endRound k = s.updSlot k (fun m => { m with copied := true, rounds := 0 }) := by
  unfold State.endRound
  rw [hslot]
  dsimp only
  rw [if_neg (by simp [htodo]), if_pos hdirty]

theorem State.endRound_marks (hdirty : m.dirty ≠ 0) (hlast : 4 ≤ m.rounds + 1) : s.endRound k = s.updSlot k (fun m => { m with abort := true }) := by
  unfold State.endRound
  rw [hslot]
  dsimp only
  rw [if_neg (by simp [htodo]), if_neg hdirty, if_pos hlast]

theorem State.endRound_again (hdirty : m.dirty ≠ 0) (hmore : m.rounds + 1 < 4) : s.endRound k
    = (s.readLines m.page m.src.form ((List.range 64).filter (fun i => m.dirty.getLsbD i))).updSlot k (fun m => { m with todo := m.dirty, dirty := 0, rounds := m.rounds + 1, copied := false }) := by
  unfold State.endRound
  rw [hslot]
  dsimp only
  rw [if_neg (by simp [htodo]), if_neg hdirty, if_neg (by omega)]

end Round

/-! ### A copy round -/

theorem State.copyRound_none {s : State} {sl i : Nat} (h : ∀ m, Tbl.look s.place.slots (slotKey sl i) = some m → m.kind ≠ .rehome ∨ m.abort = true) : s.copyRound sl i = s := by
  unfold State.copyRound
  dsimp only
  split
  · rfl
  · next m hm =>
    split
    · next hkind _ =>
      rcases h m hm with h | h
      · split at hkind
        · cases hkind
        · exact absurd (Option.some.inj hkind) h
      · rw [if_pos h] at hkind
        cases hkind
    · rfl

section Copy
variable {s x : State} {sl i : Nat} {m : MoveSlot} {c fr : Nat} {inc : Option Nat} (hslot : Tbl.look s.place.slots (slotKey sl i) = some m) (hkind : m.kind = .rehome)
  (hdst : m.dst = some (.hot c fr inc)) (habort : m.abort = false)
include hslot hkind hdst habort

/-- The first round is one page store, which frees the move's engine. -/
theorem State.copyRound_first {xs : List Line} (hbegun : m.begun = false) (hread : s.pageRead m.page 64 = some xs) (hroom : s.storeRoom c (fr * 64) 64 = true) (hadmit : s.moveAdmit sl m = some x) :
    s.copyRound sl i = (((x.storeLines c (fr * 64) xs).freeMoveEngine m).updSlot (slotKey sl i) (fun m => { m with begun := true, engine := none })).endRound (slotKey sl i) := by
  unfold State.copyRound
  dsimp only
  rw [hslot]
  dsimp only
  rw [habort, hkind, hdst, if_neg Bool.false_ne_true]
  dsimp only
  rw [hbegun, if_pos (by rfl), hread]
  dsimp only
  rw [hroom, if_neg (by simp), hadmit]

/-- A round in which nothing is left to copy ends. -/
theorem State.copyRound_end (hbegun : m.begun = true) (htodo : m.todo = 0) : s.copyRound sl i = s.endRound (slotKey sl i) := by
  unfold State.copyRound
  dsimp only
  rw [hslot]
  dsimp only
  rw [habort, hkind, hdst, if_neg Bool.false_ne_true]
  dsimp only
  rw [hbegun, if_neg (by simp), if_pos htodo]

/-- A later round stores the first line of those left that is at hand. -/
theorem State.copyRound_line {j : Nat} {y : Line} (hbegun : m.begun = true) (htodo : m.todo ≠ 0)
    (hfirst : (List.range 64).find? (fun i => m.todo.getLsbD i && (Tbl.look (Tbl.lookD s.sec.gather [] m.page) i).isSome) = some j)
    (hline : Tbl.look (Tbl.lookD s.sec.gather [] m.page) j = some y) (hroom : s.wqRoom c (fr * 64 + j) = true) (hadmit : s.moveAdmit sl m = some x) :
    s.copyRound sl i = ((x.storeLines c (fr * 64 + j) [y]).updSlot (slotKey sl i) (fun m => { m with todo := m.todo &&& ~~~(1#64 <<< j) })).endRound (slotKey sl i) := by
  unfold State.copyRound
  dsimp only
  rw [hslot]
  dsimp only
  rw [habort, hkind, hdst, if_neg Bool.false_ne_true]
  dsimp only
  rw [hbegun, if_neg (by simp), if_neg htodo, hfirst]
  dsimp only
  rw [hroom, if_neg (by simp), hadmit]
  dsimp only
  rw [show Tbl.lookD (Tbl.lookD s.sec.gather [] m.page) {} j = y by rw [Tbl.lookD, hline]; rfl]

end Copy

/-- Of a single line left to copy, that line is found. -/
theorem find?_oneBit (j : Fin 64) (p : Nat → Bool) (h : p j = true) : (List.range 64).find? (fun i => (1#64 <<< j.val).getLsbD i && p i) = some j.val := by
  rw [List.find?_range_eq_some]
  refine ⟨?_, by simp, fun i hi => ?_⟩
  · simp [h]
  · simp [hi]

/-- Slots, entries and stored lines after an admission and a page store. -/
theorem stored_kept {s x : State} {sl : Nat} {m : MoveSlot} (hadmit : s.moveAdmit sl m = some x) (c first : Nat) (xs : List Line) :
    (x.storeLines c first xs).place = s.place ∧ (x.storeLines c first xs).media = s.media :=
  ⟨(Channels.storeLines x c first xs).place.trans (Admitted.moveAdmit hadmit).place, (Channels.storeLines x c first xs).media.trans (Admitted.moveAdmit hadmit).media⟩

end Sys2Proof.Machine
end

section
/-! The starts of moves: planned ones in the governor's share, and inline thaws (R144, R147). -/
namespace Sys2Proof.Machine

/-! ### A staged move that its slice admits -/

/-- A state beside another after the admission of a staged move, which has left the port. -/
structure Unstaged (s t : State) : Prop where
  eq : t = { s with path := { s.path with rr := t.path.rr, lastDma := t.path.lastDma }, qos := t.qos, cat := t.cat, place := { s.place with staged := t.place.staged } }

theorem Unstaged.ofAdmitted {s y : State} (h : Admitted s y) (x : Staged) : Unstaged s (y.unstage x) := ⟨by rw [State.unstage, h.eq]⟩

section Keeps
variable {s t : State} (h : Unstaged s t)
include h

theorem Unstaged.acc (p : Nat) : t.acc p = s.acc p := by rw [h.eq]; rfl
theorem Unstaged.guard (p : Nat) : t.guard p = s.guard p := by rw [h.eq]; rfl
theorem Unstaged.pageLocked (p : Nat) : t.pageLocked p = s.pageLocked p := by rw [h.eq]; rfl
theorem Unstaged.chLive (c : Nat) : t.chLive c = s.chLive c := by rw [h.eq]; rfl
theorem Unstaged.freeSlot (sl : Nat) (b : Bool) : t.freeSlot sl b = s.freeSlot sl b := by rw [h.eq]; rfl
theorem Unstaged.pickEngine (sl : Nat) : t.pickEngine sl = s.pickEngine sl := by rw [h.eq]; rfl
theorem Unstaged.media : t.media = s.media := by rw [h.eq]

end Keeps

/-- A planned rehome of a HOT page can start: its pair is not fenced, CURATE and the governor let it, a slot and an engine are free, and nothing locks its page. -/
structure RehomeReady (s : State) (sl k e c fr : Nat) (inc : Option Nat) (x : Staged) : Prop where
  warm : s.boot.warmEntry = false
  staged : s.place.staged = [x]
  slice : x.slice = sl
  fence : s.warden.fence.contains x.pair = false
  kind : x.move.kind = .rehome
  curate : s.flag Reg.CUR_EPOCH_CFG_CURATE = true
  permits : s.permits (s.govKind x.move) = true
  slot : s.freeSlot sl false = some k
  engine : s.pickEngine sl = some e
  guard : s.guard x.move.page = none
  lock : s.pageLocked x.move.page = false
  form : (s.acc x.move.page).form = .hot c fr inc
  dst : x.move.dst ≠ c
  live : s.chLive x.move.dst = true
  level : s.rd Reg.CUR_PRESSURE_LEVEL ≠ 4

section Start
variable {s y u : State} {sl k e c fr n : Nat} {inc : Option Nat} {x : Staged}

theorem State.forced_rehome (s : State) {m : Planned} (h : m.kind = .rehome) : s.forced m = false := by simp [State.forced, h]

theorem RehomeReady.startable (h : RehomeReady s sl k e c fr inc x) : s.startable sl = [x] := by
  have hmay : s.mayStart sl x.move = true := by simp [State.mayStart, h.warm, h.permits, h.curate, h.slot]
  have hengine : s.moveEngine sl x.move = some e := by
    rw [State.moveEngine, if_neg (by simp [h.kind])]
    exact h.engine
  have hwants : s.wantsEngine sl x.move = false := by simp [State.wantsEngine, hengine]
  have hwaits : s.stagedWaits sl x.move = false := by rw [State.stagedWaits, h.lock, hwants]; rfl
  rw [State.startable, h.staged, List.filter_cons, hmay, hwaits, h.fence, h.slice]
  simp

theorem RehomeReady.next (h : RehomeReady s sl k e c fr inc x) : s.nextStaged sl = some x := by
  unfold State.nextStaged
  dsimp only
  rw [h.startable]
  simp [State.forced_rehome s h.kind, h.kind]

/-- A move that is allowed starts once its slice has admitted it. -/
theorem RehomeReady.moveStart (h : RehomeReady s sl k e c fr inc x) (hadmit : s.govAdmit sl .moves = some y) :
    s.moveStart sl = ((y.unstage x).startRehome sl k x.move.page x.move.dst inc).getD (y.unstage x) := by
  have hadm := Admitted.govAdmit hadmit
  have hun := Unstaged.ofAdmitted hadm x
  have hopens : s.opensPage x.move = false := by simp [State.opensPage, h.kind]
  have hforced := State.forced_rehome s h.kind
  have hguard : (y.unstage x).guard x.move.page = none := (hun.guard _).trans h.guard
  have hform : ((y.unstage x).acc x.move.page).form = .hot c fr inc := by rw [hun.acc]; exact h.form
  have hlevel : y.levelForbids x.move = false := by
    have hrd : y.rd Reg.CUR_PRESSURE_LEVEL = s.rd Reg.CUR_PRESSURE_LEVEL := by rw [hadm.eq]; rfl
    simp [State.levelForbids, hrd, h.level, h.kind]
  have hmovable : (y.unstage x).movable x.move.page = true := by
    have hlost : (y.unstage x).pageLost x.move.page = false := by rw [State.pageLost, hguard]
    simp [State.movable, hun.pageLocked, h.lock, Acc.isMigrating, hform, hlost]
  have hfits : (y.unstage x).kindFits x.move = true := by
    have hlive : (y.unstage x).chLive x.move.dst = true := (hun.chLive _).trans h.live
    simp [State.kindFits, h.kind, hform, h.dst, hlive]
  have hslot : (y.unstage x).freeSlot sl false = some k := (hun.freeSlot ..).trans h.slot
  have hstart : (y.unstage x).startMove sl x.move false {} = (y.unstage x).startRehome sl k x.move.page x.move.dst inc := by
    unfold State.startMove
    rw [hslot, hform, h.kind]
  unfold State.moveStart
  rw [h.next]
  dsimp only
  rw [hopens, if_neg Bool.false_ne_true]
  dsimp only
  rw [hforced, if_neg Bool.false_ne_true, hadmit]
  dsimp only
  rw [State.checkPageTags_unguarded hguard, hmovable, hfits, hlevel, h.kind, hstart]
  simp

/-- What the start of a move leaves: its page is MIGRATING, its slot is the move's, and its engine works for it. -/
structure MoveBegun (sl k e : Nat) (m : MoveSlot) (s t : State) : Prop where
  form : (t.acc m.page).form = .migrating k
  slot : Tbl.look t.place.slots (slotKey sl k) = some m
  staged : t.place.staged = s.place.staged
  engine : Tbl.look t.press.engines e = some (.move sl k)
  media : t.media = s.media

theorem MoveBegun.open (s : State) (sl k e : Nat) (m : MoveSlot) : MoveBegun sl k e m s ((s.openSlot sl k m).takeEngine e (.move sl k)) :=
  ⟨congrArg Acc.form (State.acc_setForm ..), Tbl.look_put_same .., rfl, Tbl.look_put_same .., rfl⟩

theorem MoveBegun.kept {m : MoveSlot} {t : State} (h : MoveBegun sl k e m s t) (hplace : u.place = t.place) (hpress : u.press = t.press) (hmedia : u.media = t.media) : MoveBegun sl k e m s u :=
  ⟨by rw [State.acc_of_listed (congrArg Place.acc hplace) (by rw [h.form]; rfl), h.form], by rw [hplace]; exact h.slot, by rw [hplace]; exact h.staged, by rw [hpress]; exact h.engine, hmedia.trans h.media⟩

/-- The slot of a rehome that starts. -/
def rehomeSlot (s : State) (p dst n e : Nat) (inc : Option Nat) : MoveSlot := { page := p, kind := .rehome, src := s.acc p, dst := some (.hot dst n inc), engine := some e, startTick := s.tick }

theorem State.startRehome_begins {p dst : Nat} (hengine : s.pickEngine sl = some e) (halloc : s.allocOn dst = some (n, u)) (hform : (s.acc p).form = .hot c fr inc) :
    ∃ t, s.startRehome sl k p dst inc = some t ∧ MoveBegun sl k e (rehomeSlot s p dst n e inc) u t := by
  refine ⟨((u.openSlot sl k (rehomeSlot s p dst n e inc)).takeEngine e (.move sl k)).readPage p (s.acc p).form, ?_, ?_⟩
  · unfold State.startRehome
    rw [hengine, halloc]
    rfl
  · rw [hform]
    have hread := Channels.readPage_hot ((u.openSlot sl k (rehomeSlot s p dst n e inc)).takeEngine e (.move sl k)) p c fr inc
    exact (MoveBegun.open u sl k e (rehomeSlot s p dst n e inc)).kept hread.place hread.press hread.media

end Start

theorem State.moveStart_none {s : State} {sl : Nat} (h : s.boot.warmEntry = true ∨ ∀ x ∈ s.place.staged, x.slice ≠ sl ∨ s.warden.fence.contains x.pair = true) : s.moveStart sl = s := by
  have hnone : s.startable sl = [] := by
    refine List.filter_eq_nil_iff.2 fun x hx => ?_
    rcases h with h | h
    · simp [State.mayStart, h]
    · rcases h x hx with h | h
      · simp [h]
      · simp only [h, Bool.not_true, Bool.and_false, Bool.false_and, Bool.false_eq_true, not_false_iff]
  have hnext : s.nextStaged sl = none := by
    unfold State.nextStaged
    dsimp only
    rw [hnone]
    simp
  unfold State.moveStart
  rw [hnext]

/-! ### Inline thaws -/

theorem State.inlineThaw_none {s : State} {sl n : Nat}
    (h : s.isSafe = true ∨ s.boot.warmEntry = true ∨ s.path.restart.contains sl = true ∨ ∀ x ∈ s.path.txns, x.req.id ≠ n ∨ x.slice ≠ sl ∨ x.phase ≠ .needThaw) : s.inlineThaw sl n = s := by
  unfold State.inlineThaw
  split
  · rfl
  · next t ht =>
    refine if_pos ?_
    rcases h with h | h | h | h
    · simp [h]
    · simp [h]
    · simp only [h, Bool.or_true, Bool.true_or]
    · have hmem := List.mem_of_find?_eq_some ht
      have hp : t.req.id = n ∧ t.slice = sl ∧ t.phase = .needThaw := by simpa [and_assoc] using List.find?_some ht
      obtain ⟨hid, hslice, hphase⟩ := hp
      rcases h t hmem with h | h | h
      · exact absurd hid h
      · exact absurd hslice h
      · exact absurd hphase h

/-- The slot of a thaw that starts for a request that waits. -/
def thawSlot (s : State) (p d fr e : Nat) : MoveSlot := { page := p, kind := .thaw, src := s.acc p, dst := some (.hot d fr none), inlineThaw := true, engine := some e, startTick := s.tick }

section Thaw
variable {s y : State} {x : Txn} {c sh n k e d fr : Nat} (hguard : s.guard x.req.page = none) (hform : (s.acc x.req.page).form = .cold c sh n)
  (hengine : s.pickEngine x.slice = some e) (halloc : s.allocFrame x.req.page true = some (d, fr, y))
include hguard hform hengine halloc

theorem State.startThaw_begins (w : ReadFor) : ∃ t, s.startThaw x.slice k x.req.page true w = some t ∧ MoveBegun x.slice k e (thawSlot s x.req.page d fr e) y t := by
  have hopen := MoveBegun.open y x.slice k e (thawSlot s x.req.page d fr e)
  have hyguard : ((y.openSlot x.slice k (thawSlot s x.req.page d fr e)).takeEngine e (.move x.slice k)).guard x.req.page = none := by
    have hy : y.guard x.req.page = s.guard x.req.page := by
      rw [(FrameGiven.allocFrame halloc).eq]
      rfl
    exact hy.trans hguard
  have hhave : s.haveCtr x.req.page = true := by simp [State.haveCtr, hguard]
  refine ⟨((y.openSlot x.slice k (thawSlot s x.req.page d fr e)).takeEngine e (.move x.slice k)).fetchImage e x.req.page (s.acc x.req.page).form w, ?_, ?_⟩
  · unfold State.startThaw
    rw [hengine, halloc]
    dsimp only
    rw [hhave, if_neg (by simp)]
    rfl
  · rw [hform]
    have hfetch (t : State) (ht : t.guard x.req.page = none) : Channels t (t.fetchImage e x.req.page (.cold c sh n) w) := by
      unfold State.fetchImage
      rw [ht]
      exact Channels.foldl _ _ fun t i => Channels.sendRead t ..
    have hreads := hfetch _ hyguard
    exact hopen.kept hreads.place hreads.press hreads.media

omit hengine in
theorem State.inlineThaw_starts (hsafe : s.isSafe = false) (hwarm : s.boot.warmEntry = false) (hrestart : s.path.restart.contains x.slice = false) (htxns : s.path.txns = [x]) (hphase : x.phase = .needThaw)
    (hlock : s.pageLocked x.req.page = false) (hslot : s.freeSlot x.slice true = some k) :
    s.inlineThaw x.slice x.req.id = (s.startThaw x.slice k x.req.page true x.req.readFor).getD s := by
  have hfind : s.path.txns.find? (fun (t : Txn) => t.req.id == x.req.id && t.slice == x.slice && t.phase == .needThaw) = some x := by simp [htxns, hphase]
  have hstart : s.startMove x.slice { page := x.req.page, kind := .thaw } true x.req.readFor = s.startThaw x.slice k x.req.page true x.req.readFor := by
    unfold State.startMove
    rw [hslot, hform]
  unfold State.inlineThaw
  rw [hfind]
  dsimp only
  rw [hsafe, hrestart, hwarm, hlock, if_neg (by simp), hform]
  dsimp only
  rw [State.wantCtr_unguarded _ hguard]
  dsimp only
  rw [halloc, hstart, if_neg (by simp)]

end Thaw

end Sys2Proof.Machine
end

section
/-! The Curator's decisions and the moves it starts (R135 to R139, R142, R144, R146, R147). -/
namespace Sys2Proof.Machine

/-! ### What each command makes of a move, clause by clause -/

theorem moveStart_rehome {sl : SliceIx} {x : Staged} {y u s : State} {c fr k n e : Nat} {inc : Option Nat} (h : RehomeReady s sl k e c fr inc x) (hadmit : s.govAdmit sl .moves = some y)
    (halloc : (y.unstage x).allocOn x.move.dst = some (n, u)) :
    ∃ t m, exec (.moveStart sl) s = .next t ∧ t.place.staged = [] ∧ (t.acc x.move.page).form = .migrating k ∧ Tbl.look t.place.slots (slotKey sl k) = some m ∧ m.page = x.move.page
      ∧ m.kind = .rehome ∧ m.src = s.acc x.move.page ∧ m.dst = some (.hot x.move.dst n inc) ∧ m.copied = false ∧ m.engine = some e ∧ Tbl.look t.press.engines e = some (.move sl k) ∧ t.media = s.media := by
  have hadm := Admitted.govAdmit hadmit
  have hun := Unstaged.ofAdmitted hadm x
  have hgiven := FrameGiven.allocOn halloc
  obtain ⟨t, ht, hbegun⟩ := State.startRehome_begins (k := k) (p := x.move.page) (inc := inc) ((hun.pickEngine _).trans h.engine) halloc (by rw [hun.acc]; exact h.form)
  have hexec : exec (.moveStart sl) s = .next t := congrArg Host.Outcome.next ((h.moveStart hadmit).trans (by rw [ht]; rfl))
  have hstaged : t.place.staged = [] := by
    rw [hbegun.staged, hgiven.staged, State.unstage, hadm.place]
    simp [h.staged]
  exact ⟨t, _, hexec, hstaged, hbegun.form, hbegun.slot, rfl, rfl, hun.acc _, rfl, rfl, rfl, hbegun.engine, hbegun.media.trans (hgiven.media.trans hun.media)⟩

theorem moveCommit_rehome_takes {sl : SliceIx} {i : SlotIx} {m : MoveSlot} {c fr : Nat} {inc : Option Nat} {x s : State} (hsafe : s.isSafe = false) (hrestart : s.path.restart.contains sl.val = false)
    (hslot : Tbl.look s.place.slots (slotKey sl i) = some m) (habort : m.abort = false) (hcopied : m.copied = true) (hkind : m.kind = .rehome) (hdst : m.dst = some (.hot c fr inc)) (hdirty : m.dirty = 0)
    (hadmit : s.moveAdmit sl m = some x) : MoveEnded (slotKey sl i) m.page (.hot c fr inc) s (s.moveCommit sl i) := by
  rw [State.moveCommit_rehome hsafe hrestart hslot habort hcopied hdst hadmit hkind hdirty]
  exact ((MoveEnded.commitForm x _ m rfl).kept rfl (EntriesKept.inside ..)).after (EntriesKept.ofAdmitted (Admitted.moveAdmit hadmit))

theorem moveCommit_thaw_takes {sl : SliceIx} {i : SlotIx} {m : MoveSlot} {c fr : Nat} {inc : Option Nat} {x s : State} (hsafe : s.isSafe = false) (hrestart : s.path.restart.contains sl.val = false)
    (hslot : Tbl.look s.place.slots (slotKey sl i) = some m) (habort : m.abort = false) (hcopied : m.copied = true) (hkind : m.kind = .thaw) (hdst : m.dst = some (.hot c fr inc)) (hfault : m.fault = none)
    (hguard : s.guard m.page = none) (hroom : s.storeRoom c (fr * 64) 64 = true) (hadmit : s.moveAdmit sl m = some x) :
    ∃ t, exec (.moveCommit sl i) s = .next t ∧ (t.acc m.page).form = .hot c fr none ∧ Tbl.look t.place.slots (slotKey sl i) = none ∧ (∀ (j : Nat) (y : Line), m.lines[j]? = some y → t.visible c (fr * 64 + j) = y)
      ∧ t.media = s.media := by
  have hadm := Admitted.moveAdmit hadmit
  have hxguard : x.guard m.page = none := by
    rw [hadm.eq]
    exact hguard
  have hend := State.commitThaw_good (k := slotKey sl i) (c := c) (fr := fr) hxguard hfault
  refine ⟨_, congrArg Host.Outcome.next (State.moveCommit_thaw hsafe hrestart hslot habort hcopied hdst hadmit hkind hguard hroom), hend.form, hend.slot, fun j y hy => ?_,
    hend.media.trans (stored_kept hadmit c (fr * 64) m.lines).2⟩
  obtain ⟨e, he, hpart, hdata, hpoison⟩ := x.queues_storeLines c (fr * 64) m.lines hy
  exact State.queues.visible ⟨e, by rw [State.wqEntry, hend.wq]; exact he, hpart, hdata, hpoison⟩

theorem copyRound_first_takes {sl : SliceIx} {i : SlotIx} {m : MoveSlot} {c fr : Nat} {inc : Option Nat} {xs : List Line} {x s : State} (hslot : Tbl.look s.place.slots (slotKey sl i) = some m)
    (hkind : m.kind = .rehome) (hdst : m.dst = some (.hot c fr inc)) (habort : m.abort = false) (hbegun : m.begun = false) (htodo : m.todo = 0) (hdirty : m.dirty = 0) (hread : s.pageRead m.page 64 = some xs)
    (hroom : s.storeRoom c (fr * 64) 64 = true) (hadmit : s.moveAdmit sl m = some x) : ∃ t, exec (.rehomeCopyRound sl i) s = .next t
      ∧ Tbl.look t.place.slots (slotKey sl i) = some { m with begun := true, engine := none, copied := true, rounds := 0 } ∧ (∀ (j : Nat) (y : Line), xs[j]? = some y → t.visible c (fr * 64 + j) = y)
      ∧ t.place.acc = s.place.acc ∧ t.media = s.media := by
  obtain ⟨hplace, hmedia⟩ := stored_kept hadmit c (fr * 64) xs
  have hfree := EntriesKept.freeMoveEngine (x.storeLines c (fr * 64) xs) m
  have hbegan := State.look_updSlot ((x.storeLines c (fr * 64) xs).freeMoveEngine m) (fun m => { m with begun := true, engine := none }) (by rw [hfree.slots, hplace]; exact hslot)
  have hround := State.endRound_copied hbegan htodo hdirty
  refine ⟨_, congrArg Host.Outcome.next ((State.copyRound_first hslot hkind hdst habort hbegun hread hroom hadmit).trans hround), State.look_updSlot _ _ hbegan, fun j y hy => ?_,
    hfree.acc.trans (congrArg Place.acc hplace), hfree.media.trans hmedia⟩
  exact ((((x.queues_storeLines c (fr * 64) xs hy).kept hfree).updSlot ..).updSlot ..).visible

theorem copyRound_line_takes {sl : SliceIx} {i : SlotIx} {m : MoveSlot} {c fr : Nat} {inc : Option Nat} {j : Fin 64} {y : Line} {x s : State} (hslot : Tbl.look s.place.slots (slotKey sl i) = some m)
    (hkind : m.kind = .rehome) (hdst : m.dst = some (.hot c fr inc)) (habort : m.abort = false) (hbegun : m.begun = true) (htodo : m.todo = 1#64 <<< j.val) (hdirty : m.dirty = 0)
    (hline : Tbl.look (Tbl.lookD s.sec.gather [] m.page) j = some y) (hroom : s.wqRoom c (fr * 64 + j) = true) (hadmit : s.moveAdmit sl m = some x) :
    ∃ t, exec (.rehomeCopyRound sl i) s = .next t ∧ Tbl.look t.place.slots (slotKey sl i) = some { m with todo := 0, copied := true, rounds := 0 } ∧ t.visible c (fr * 64 + j) = y
      ∧ t.place.acc = s.place.acc ∧ t.media = s.media := by
  obtain ⟨hplace, hmedia⟩ := stored_kept hadmit c (fr * 64 + j) [y]
  have hsome : m.todo ≠ 0 := by
    rw [htodo]
    intro h
    have hbit := congrArg (fun v => BitVec.getLsbD v j.val) h
    simp at hbit
  have hfirst : (List.range 64).find? (fun i => m.todo.getLsbD i && (Tbl.look (Tbl.lookD s.sec.gather [] m.page) i).isSome) = some j.val := by
    rw [htodo]
    exact find?_oneBit j (fun i => (Tbl.look (Tbl.lookD s.sec.gather [] m.page) i).isSome) (by simp [hline])
  have hacc : (x.storeLines c (fr * 64 + j) [y]).place.acc = s.place.acc := congrArg Place.acc hplace
  have hcopy := State.copyRound_line hslot hkind hdst habort hbegun hsome hfirst hline hroom hadmit
  have hqueued : (x.storeLines c (fr * 64 + j) [y]).queues c (fr * 64 + j) y := x.queues_storeLines c (fr * 64 + j) [y] (j := 0) rfl
  generalize x.storeLines c (fr * 64 + j) [y] = u at hplace hacc hmedia hcopy hqueued
  have hstored := State.look_updSlot u (fun m => { m with todo := m.todo &&& ~~~(1#64 <<< j.val) }) (by rw [hplace]; exact hslot)
  have hnone : m.todo &&& ~~~(1#64 <<< j.val) = 0 := by rw [htodo, BitVec.and_not_self]
  have hround := State.endRound_copied hstored hnone hdirty
  refine ⟨_, congrArg Host.Outcome.next (hcopy.trans hround), ?_, ((hqueued.updSlot ..).updSlot ..).visible, hacc, hmedia⟩
  rw [State.look_updSlot _ _ hstored, hnone]

/-- The moves' part of O48. -/
theorem movesTakeEffect : MovesTakeEffect := by
  refine ⟨fun sl s h => congrArg Host.Outcome.next (State.moveStart_none h),
    fun sl x y u c fr k n e inc s hwarm hstaged hslice hfence hkind hcurate hpermits hslot hadmit hengine hguard hlock hform hdst hlive hlevel halloc =>
      moveStart_rehome ⟨hwarm, hstaged, hslice, hfence, hkind, hcurate, hpermits, hslot, hengine, hguard, hlock, hform, hdst, hlive, hlevel⟩ hadmit halloc,
    fun sl n s h => congrArg Host.Outcome.next (State.inlineThaw_none h),
    fun sl x y c sh n k e d fr s hsafe hwarm hrestart htxns hslice hphase hlock hguard hform hslot hengine halloc => ?_,
    fun sl i s h => congrArg Host.Outcome.next (State.moveCommit_none h),
    fun sl i m c fr inc x s hsafe hrestart hslot habort hcopied hkind hdst hdirty hadmit => ?_,
    fun sl i m c fr inc x s hsafe hrestart hslot habort hcopied hkind hdst hfault hguard hroom hadmit =>
      moveCommit_thaw_takes hsafe hrestart hslot habort hcopied hkind hdst hfault hguard hroom hadmit,
    fun sl i s h => congrArg Host.Outcome.next (State.moveAbort_running h),
    fun sl i s h => congrArg Host.Outcome.next (State.moveAbort_refused h),
    fun sl i m c fr inc x s hslot habort hform hadmit => ?_,
    fun sl i s h => congrArg Host.Outcome.next (State.moveTimeout_none h),
    fun sl i m c fr inc s hslot hkind hlate hform => ?_,
    fun sl i s h => congrArg Host.Outcome.next (State.copyRound_none h),
    fun sl i m c fr inc xs x s hslot hkind hdst habort hbegun htodo hdirty hread hroom hadmit => copyRound_first_takes hslot hkind hdst habort hbegun htodo hdirty hread hroom hadmit,
    fun sl i m c fr inc j y x s hslot hkind hdst habort hbegun htodo hdirty hline hroom hadmit => copyRound_line_takes hslot hkind hdst habort hbegun htodo hdirty hline hroom hadmit,
    fun sl i m d e inc s hslot hkind hdst habort hbegun htodo => ?_⟩
  case refine_1 =>
    obtain ⟨t, ht, hthaw⟩ := State.startThaw_begins (k := k) hguard hform (hslice ▸ hengine) halloc x.req.readFor
    have hstart := State.inlineThaw_starts hguard hform halloc hsafe hwarm (hslice ▸ hrestart) htxns hphase hlock (hslice ▸ hslot)
    rw [hslice] at ht hthaw hstart
    rw [ht] at hstart
    exact ⟨t, _, congrArg Host.Outcome.next hstart, hthaw.form, hthaw.engine, hthaw.slot, rfl, rfl, rfl, rfl, rfl, rfl, hthaw.media.trans (FrameGiven.allocFrame halloc).media⟩
  case refine_2 =>
    have hend := moveCommit_rehome_takes hsafe hrestart hslot habort hcopied hkind hdst hdirty hadmit
    exact ⟨_, rfl, hend.form, hend.slot, hend.wq c, hend.media⟩
  case refine_3 =>
    have hadm := Admitted.dmaAdmit hadmit
    have hend := MoveEnded.abortMove (s := x) (by rw [hadm.place]; exact hslot) (by rw [hform]; rfl)
    exact ⟨_, congrArg Host.Outcome.next (State.moveAbort_admitted hslot habort hadmit), (hend.after (EntriesKept.ofAdmitted hadm)).aborted⟩
  case refine_4 =>
    refine ⟨_, rfl, fun x hadmit => (MoveEnded.moveTimeout hslot hkind hlate (by rw [hform]; rfl) hadmit).aborted, fun hadmit => ?_⟩
    rw [State.moveTimeout_marks hslot hkind hlate hadmit]
    exact ⟨State.look_updSlot s _ hslot, rfl, rfl⟩
  case refine_5 =>
    have hend := State.copyRound_end hslot hkind hdst habort hbegun htodo
    refine ⟨fun hdirty => ?_, fun hdirty hmore => ?_, fun hdirty hlast => ?_⟩
    · exact ⟨_, congrArg Host.Outcome.next (hend.trans (State.endRound_copied hslot htodo hdirty)), State.look_updSlot s _ hslot, rfl, rfl⟩
    · have hreads := EntriesKept.readLines s m.page m.src.form ((List.range 64).filter (fun i => m.dirty.getLsbD i))
      exact ⟨_, congrArg Host.Outcome.next (hend.trans (State.endRound_again hslot htodo hdirty hmore)), State.look_updSlot _ _ (hreads.slots ▸ hslot), hreads.acc, hreads.media⟩
    · exact ⟨_, congrArg Host.Outcome.next (hend.trans (State.endRound_marks hslot htodo hdirty hlast)), State.look_updSlot s _ hslot, rfl, rfl⟩

/-- Settles O48: by what the steps of the scan, the epochs, the plans and the moves leave of the pages' entries, the slots and the write queues. -/
theorem curatorAndMovesTakeEffect : Obligations.CuratorAndMovesTakeEffect := ⟨curatorCommandsTakeEffect, movesTakeEffect⟩

end Sys2Proof.Machine
end
